-- ==== Sys2Proof/Word.lean ====
section
/-! DEFINITION. The word types of the model (R5, R7). -/

namespace Sys2Proof

/-- One byte of a structure, a memory or a tile store. -/
abbrev Byte := BitVec 8

/-- A register: every register is 64 bits wide (R7). -/
abbrev Word := BitVec 64

end Sys2Proof
end

