-- ==== Sys2Proof/Syntax.lean ====
section
/-! DEFINITION. The commands of the device: one constructor of `Instr` for each row of spec/opcode_table.json,
with the operands the row's rule names. -/

namespace Sys2Proof

/-- Compute dies CD0 to CD7 (R15). -/
abbrev Die := Fin 8
/-- A site index y * 17 + x of a die (R18, glossary). -/
abbrev Site := Fin 272
/-- A device site ID, die * 272 + site (glossary). -/
abbrev TileId := Fin 2176
/-- A thread group of a tile, a lane group of a welt. -/
abbrev Grp := Fin 16
/-- A partition index (R363). -/
abbrev PIdx := Fin 16
/-- The live-lane masks of a group of 32 lanes. -/
abbrev LaneMask := BitVec 32
/-- An outer port OP0 to OP15 (R327). -/
abbrev Port := Fin 16

/-- Which map an access uses: the management space of the physical function (R19) or the partition view of
virtual function `n + 1` (R21). -/
inductive Space where
  | pf
  | vf (n : Fin 16)
deriving DecidableEq, Repr

/-- Where a lane access goes: an offset in its tile's scratch (R68) or a partition address (R207). -/
inductive Loc where
  | scratch (off : Nat)
  | mem (pa : Nat)
deriving DecidableEq, Repr

/-- The kinds of barrier (R78). -/
inductive BarKind where
  | group | tile | task
deriving DecidableEq, Repr

/-- One lane's part of a reduce, atomic or compare-and-swap instruction (R159, R245). -/
structure LaneOp where
  lane : Fin 32
  loc : Loc
  operand : Word
  compare : Word := 0
deriving DecidableEq, Repr

/-- The lane arithmetic operations of binary64 and binary32 (R145). -/
inductive ArithOp where
  | add | sub | mul | div | sqrt | fma
deriving DecidableEq, Repr

/-- Where a message goes or comes from, beside the header of R231. -/
inductive Node where
  | home                 -- the home slice of the line
  | filter               -- the spill filter of the line (R246)
  | half (n : Fin 16)    -- a level-2 half, by agent number
  | tile (t : TileId)
  | uci (k : Fin 8)      -- the host, through a UCIe module
  | ctl (d : Die)        -- the die controller: loader, scheduler, zero engine
deriving DecidableEq, Repr

/-- A coherence message: the header fields of R231, and what the message of R230 carries.
`addr` is the line's address; `spill` marks a spill line, whose `addr` is a host physical address. The mask and data
of a WBM cover 256 bytes: the fine line, or sector `unit` of a bulk line. In an AtR, `mask` is the offset of the
element within the line. -/
structure Msg where
  opcode : Nat
  source : Nat := 31
  srcDie : Nat := 0
  srcSite : Nat := 0
  tag : Nat := 0
  part : Nat := 0
  gen : Nat := 0
  addr : Nat := 0
  bulk : Bool := false
  unit : Nat := 0
  state : Nat := 0
  requester : Nat := 31
  dst : Node := .home
  spill : Bool := false
  mask : Nat := 0
  data : List Byte := []
  fn : Nat := 0
  ty : Nat := 0
  operand : Word := 0
  compare : Word := 0
  round : Nat := 0
  reduction : Bool := false
deriving DecidableEq, Repr

/-- The MetaValue of a CXL.mem request (R233). -/
inductive MetaVal where
  | i | s | a
deriving DecidableEq, Repr

/-- The CXL.mem requests of R308 that never reach a home. -/
inductive UnsupReq where
  | memRdData | memRdFwd | memWrFwd | memClnEvct | memRdOther | memInvOther | outOfRange
deriving DecidableEq, Repr

/-- The RoCEv2 operations of R333. -/
inductive PktOp where
  | writeFirst | writeMiddle | writeLast | writeOnly | writeLastImm | writeOnlyImm
  | sendFirst | sendMiddle | sendLast | sendOnly
  | readRequest | readFirst | readMiddle | readLast | readOnly
  | ack | nakSequence | nakInvalid | nakAccess | nakOperational | rnrNak | cnp | other
deriving DecidableEq, Repr

/-- A RoCEv2 packet as an outer port sends or receives it (R333 to R337). `packets` says that its eyelet counts packets
(R119): the spec does not say how the packet carries this. -/
structure Pkt where
  op : PktOp
  qpn : Nat
  psn : Nat := 0
  va : Nat := 0
  rkey : Nat := 0
  len : Nat := 0
  imm : Nat := 0
  data : List Byte := []
  packets : Bool := false
  ce : Bool := false
  icrcOk : Bool := true
deriving DecidableEq, Repr

/-- The payload of a lace frame (R347). -/
structure LaceFrame where
  type : Nat
  version : Nat := 1
  jobId : Nat := 0
  source : Nat := 0
  subject : Nat := 0
  incarnation : Nat := 0
  sequence : Nat := 0
  jobStitch : Nat := 0
  effective : Nat := 0
  barrier : Nat := 0
  cause : Nat := 0
  mhz : Nat := 0
  value : Nat := 0
deriving DecidableEq, Repr

/-- PTP messages that drive the servo (R343): a Sync with the offset that its two-step exchange gives, or any
other event or general message. -/
inductive PtpMsg where
  | sync (offsetNs : Int)
  | announce
  | delayReq
  | delayResp
deriving DecidableEq, Repr

/-- A PTP message that arrives: its domain and what it is (R343). -/
structure PtpIn where
  domain : Nat
  msg : PtpMsg
deriving DecidableEq, Repr

/-- A CXL.mem message of the host: the module that it comes in on, and its host physical address (R233, R304). -/
structure HostAddr where
  module : Fin 8
  hpa : Nat
deriving DecidableEq, Repr

/-- A DOE object: its protocol, its length in bytes and, for DOE Discovery, the index asked for (R322). -/
structure DoeObject where
  vendor : Nat
  type : Nat
  len : Nat
  index : Nat
deriving DecidableEq, Repr

/-- A transaction: the die of its requester and its tag (R18, R231). -/
structure TxTag where
  die : Die
  tag : Nat
deriving DecidableEq, Repr

/-- A flit that a link resends: its plane, and whether it is the flit that the link resent last (R168, R181). -/
structure Resent where
  plane : Fin 2
  again : Bool
deriving DecidableEq, Repr

/-- What a lane conversion names as its source or destination: a format code of R122, or the scale format E8M0, to which R122 gives no
code (R136, R145). -/
inductive ConvFmt where
  | code (c : BitVec 8)
  | e8m0
deriving DecidableEq, Repr

/-- One regulator report of a die (R418). -/
structure RegReport where
  vcoreMv : Nat
  coreA : Nat
  powerMw : Nat
  inputMv : Nat
  inputMw : Nat
  regulator : Nat
deriving DecidableEq, Repr

/-- What an awl slice found (R449 to R451, R460). -/
inductive SliceResult where
  | pass
  | failArray (spareUsed : Option Nat)        -- tile-store, L3 frame or DRAM spare-row element; the spare taken
  | failLogic (marginLow : Bool)              -- tile lane engine or product array
  | failLane                                  -- welt, outer-port or UCIe loopback lane
  | failSensor (sensor : Nat) (diff : Int)
  | failPll (ppm : Nat)
  | marginLow                                 -- the timing margin lies below the guard band (R435)
deriving DecidableEq, Repr

/-- An error in a unit of DRAM (R286): the unit's device physical address divided by 64, the symbols of its 72 that are wrong
after the correction on the DRAM's die, and whether that correction acted. -/
structure EccFound where
  unit : Nat
  symbols : Nat
  onDie : Bool := false
deriving DecidableEq, Repr

/-- The commands. Each constructor cites the rule its row of spec/opcode_table.json names. -/
inductive Instr where
  -- registers
  | registerWrite (sp : Space) (off : Nat) (v : Word)                     -- R10
  | narrowAccess (sp : Space) (off : Nat) (width : Nat) (write : Bool) (v : Word)  -- R8
  | unassignedAccess (sp : Space) (off : Nat) (write : Bool)              -- R22
  -- stitch
  | tick                                                                  -- R24
  | jobAlignedTick (k : Nat)                                              -- R344
  | laceTickInEdge (at_ : Nat)                                            -- R26, time on the reference clock in ns
  | missedEdge                                                            -- R26
  | rearm                                                                 -- R65
  | tickArrival (d : Die)                                                 -- R30
  | issuePoint                                                            -- R31
  | slackWindowOpen (found : List EccFound)                               -- R32, what the patrol scrub finds (R293)
  -- loader and commits
  | ldrStart (v : Word)                                                   -- R54, the value written to LDR_CTRL
  | ldrApply (v : Word)                                                   -- R54
  | ldrAbort (v : Word)                                                   -- R54
  | loadComplete (hostImage : List Byte) (fetched : Bool)                 -- R48
  | cfgCommit (v : Word)                                                  -- R58
  | partCommit (n : Fin 16) (v : Word)                                    -- R58
  | commitCheckDone (after : Nat)                                         -- R58, ns since the latest event
  -- lane engine
  | branch (t : TileId) (g : Grp) (taken : LaneMask) (target reconv : Nat)  -- R73
  | pathRotate (t : TileId) (g : Grp)                                     -- R74
  | exit (t : TileId) (g : Grp) (lanes : LaneMask)                        -- R76
  | endInstruction (t : TileId)                                           -- R76
  | stepEnd (task : Nat) (endNs : Nat)                                    -- R33
  | phaseByteWrite (p : PIdx) (cq : Fin 16) (index : Nat)                 -- R318
  | barrier (t : TileId) (g : Grp) (lanes : LaneMask) (kind : BarKind) (n : Fin 16)  -- R78
  | casLockHint (t : TileId) (g : Grp) (ty : BitVec 8) (ops : List LaneOp)  -- R81
  | parkTimeout (t : TileId) (g : Grp) (path : Nat)                       -- R81
  | laneLoad (t : TileId) (g : Grp) (lane : Fin 32) (loc : Loc) (len : Nat)  -- R263
  | laneStore (t : TileId) (g : Grp) (lane : Fin 32) (loc : Loc) (data : List Byte)  -- R264
  | storeQueueDrain (t : TileId) (g : Grp) (entry : Nat)                  -- R264
  | atomic (t : TileId) (g : Grp) (op : LaneOp) (fn ty : BitVec 8) (round : BitVec 3)
      (ordering : BitVec 2) (scope : BitVec 3)                            -- R270
  | fence (t : TileId) (g : Grp) (ordering : BitVec 2) (scope : BitVec 3) -- R262
  | reduce (t : TileId) (g : Grp) (fn ty : BitVec 8) (round : BitVec 3) (ops : List LaneOp)  -- R159
  | pin (t : TileId) (g : Grp) (addrs : List (Fin 32 × Nat))              -- R218
  | unpin (t : TileId) (g : Grp) (addrs : List (Fin 32 × Nat))            -- R218
  | eyeAdd (t : TileId) (g : Grp) (eyelet n : Nat) (ordering : BitVec 2) (scope : BitVec 3)  -- R272
  | eyeWait (t : TileId) (g : Grp) (eyelet target : Nat) (scope : BitVec 3)  -- R272
  | eyeWaitResolve (t : TileId) (g : Grp) (path : Nat)                    -- R275
  | eyeArm (t : TileId) (g : Grp) (eyelet value : Nat)                    -- R272
  | eyeRead (t : TileId) (g : Grp) (eyelet : Nat)                         -- R272
  | readProductStatus (t : TileId) (g : Grp)                              -- R112
  | readLaneStatus (t : TileId) (g : Grp)                                 -- R146
  | convert (t : TileId) (g : Grp) (src dst : ConvFmt) (x : Word) (srcScale dstScale : Byte) (round : BitVec 3)  -- R137
  | blockConvert (t : TileId) (g : Grp) (src dst : BitVec 8) (xs : List Word) (srcScale : Byte) (round : BitVec 3)  -- R141
  | minMax (t : TileId) (g : Grp) (fmt : BitVec 8) (isMax : Bool) (a b : Word) (aScale bScale dstScale : Byte)  -- R143
  | laneArithmetic (t : TileId) (g : Grp) (op : ArithOp) (fmt : BitVec 8) (a b c : Word) (round : BitVec 3)  -- R145
  | passInstruction (t : TileId) (g : Grp) (desc : Nat)                   -- R106
  | productPassStart (t : TileId)                                         -- R107
  | productPassComplete (t : TileId)                                      -- R108
  | copyInstruction (t : TileId) (g : Grp) (desc : Nat)                   -- R113
  | copyArrival (t : TileId) (copy : Nat) (first len : Nat)               -- R119
  -- mesh and welts
  | flitRetry (d : Die) (site : Site) (port : Fin 5) (flit : Resent)  -- R168
  | creditTimeout (d : Die) (site : Site) (port : Fin 5)                  -- R181
  | routerParityError (d : Die) (site : Site)                             -- R181
  | loopbackCheck (d : Die) (site : Site) (routerOk : Bool) (deadLinks : List (Fin 5 × Fin 2))  -- R182
  | routesRewritten (d : Die)                                             -- R182
  | routeLossNotice                                                       -- R391
  | duplicateWindowEnd                                                    -- R391
  | weltReplay (d : Die) (edge : Fin 4) (g : Grp)                         -- R183
  | laneFlag (d : Die) (edge : Fin 4) (g : Grp) (lane : Fin 256) (lace : Bool)  -- R188
  | spareTrained (d : Die) (edge : Fin 4) (g : Grp)                       -- R188
  | laneSwitch (d : Die) (edge : Fin 4) (g : Grp)                         -- R188
  | laneRetire (d : Die) (edge : Fin 4) (g : Grp) (durationUs : Fin 16)   -- R188
  | weltSendTimeout (d : Die) (edge : Fin 4) (g : Grp)                    -- R390
  | calibrationMove (d : Die) (edge : Fin 4) (g : Grp)                    -- R458
  | laceParentTimeout (d : Die) (alternateOk : Bool) (skewNs : BitVec 8)  -- R192
  | laceArrival (task : Nat) (t : TileId) (n : Fin 16)                    -- R193
  | laceCompletion (task : Nat) (d : Die) (n : Fin 16)                    -- R193
  -- slices, DRAM and homes
  | sliceFill (d : Die) (line : Nat) (bulk : Bool) (found : List EccFound)  -- R213
  | repairListWrite (d : Die)                                             -- R295
  | dramAluOp (d : Die) (ch : Fin 64) (found : List EccFound)             -- R162
  | rds (m : Msg) | rdn (m : Msg) | rdx (m : Msg) | upg (m : Msg) | wbm (m : Msg)
  | atr (m : Msg) | hwb (m : Msg) | hev (m : Msg)                         -- R239, R220
  | data (m : Msg) | mdata (m : Msg) | wack (m : Msg) | atrsp (m : Msg) | err (m : Msg)  -- R236
  | cmp (m : Msg)                                                         -- R233
  | inv (m : Msg) | fwd (m : Msg)                                         -- R236
  | binv (m : Msg) | bdown (m : Msg)                                      -- R234
  | iack (m : Msg) | birsp (m : Msg) | fwdack (m : Msg) | fwdmiss (m : Msg)  -- R240
  | snpInv (hpa : Nat) | snpData (hpa : Nat) | snpCur (hpa : Nat)         -- R247
  | spillHostData (hpa : Nat) (bytes : List Byte) (poison : Bool)         -- R246
  | wrcurComplete (hpa : Nat)                                             -- R247
  | deadDeclaration (d : Die) (agent : Fin 17)                            -- R250
  | sweepDone (d : Die)                                                   -- R250
  | lostTailWrite (d : Die) (v : Word)                                    -- R253
  | dirPeek (d : Die) (v : Word)                                          -- R255
  | qpPeek (v : Word)                                                     -- R362
  | labelPeek (v : Word)                                                  -- R444
  -- counter clears
  | tileCntClear (t : TileId)                                             -- R93
  | meshCntClear (d : Die)                                                -- R195
  | weltCntClear (d : Die) (edge : Fin 4)                                 -- R196
  | l2CntClear (d : Die) (south : Bool)                                   -- R223
  | l3CntClear (d : Die)                                                  -- R224
  | dirCntClear (d : Die)                                                 -- R255
  | eyeCntClear (d : Die)                                                 -- R282
  | dramCntClear (d : Die)                                                -- R300
  | uciCntClear                                                           -- R324
  | outPortCntClear (k : Port)                                            -- R362
  | outJobCntClear                                                        -- R362
  | partAccClear (n : Fin 16)                                             -- R388
  | pwrCntClear                                                           -- R444
  | awlCntClear (d : Die)                                                 -- R465
  | eyeCtlAdd (n : Fin 16) (index : Nat) (v : Word)                       -- R281
  | eyeCtlArm (n : Fin 16) (index : Nat) (v : Word)                       -- R281
  -- DRAM upkeep
  | refreshCommand (d : Die) (ch : Fin 64)                                -- R290
  | dramSensorSample (d : Die) (readings : List Nat)                      -- R291, 28 readings in tenths of a degree
  | refreshSlowReturn (d : Die)                                           -- R291
  | zeroingDone (p : PIdx)                                                -- R369
  -- host attachment
  | hostIdRead (code : Nat) (stepping : Nat) (timeMs : Nat)               -- R301
  | moduleTrainTimeout (k : Fin 8)                                        -- R303
  | moduleActive (k : Fin 8)                                              -- R303
  | moduleLinkDown (k : Fin 8)                                            -- R305
  | retrainTimeout (k : Fin 8)                                            -- R305
  | linkRetrain                                                           -- R305
  | allModulesActive                                                      -- R305
  | memRd (h : HostAddr) (mv : MetaVal) (tag : Nat)                         -- R233
  | memInv (h : HostAddr) (mv : MetaVal) (tag : Nat)                        -- R233
  | memWr (h : HostAddr) (mv : MetaVal) (tag : Nat) (enables : Nat) (bytes : List Byte)  -- R233
  | cxlBirsp (h : HostAddr) (kept : Fin 3)                                  -- R233
  | memSpecRd (h : Nat)                                                   -- R308
  | unsupportedMemReq (r : UnsupReq) (h : Nat)                            -- R308
  | flr (n : Fin 16)                                                      -- R310
  | msixUnmask (fn : Fin 17) (vec : Fin 17)                               -- R321
  | sqResume (n : Fin 16) (k : Fin 16)                                    -- R316
  | doeDiscovery (o : DoeObject)                                           -- R322
  | cdatRead (handle : Nat)                                               -- R322
  | getVersion | getCapabilities                                          -- R479
  | negotiateAlgorithms (rsapss3072 sha256 : Bool)                        -- R479
  | getDigests                                                            -- R479
  | getCertificate (slot offset len : Nat)                                -- R479
  | challenge (slot : Nat) (nonce : List Byte)                            -- R479
  | getMeasurements (index : Nat) (signed : Bool) (nonce : List Byte)     -- R480
  -- outer ports
  | portLinkChange (k : Port) (up : Bool)                                 -- R327
  | preemptionVerify (k : Port) (ok : Bool)                               -- R329
  | pfcPause (k : Port) (pcp : Fin 8) (timeNs : Nat)                      -- R330
  | ptpMessage (k : Port) (m : PtpIn)                                       -- R343
  | syncSend (k : Port)                                                   -- R343
  | masterLost                                                            -- R346
  | rdmaWrite (k : Port) (p : Pkt) | rdmaWriteWithImmediate (k : Port) (p : Pkt)  -- R336, R337
  | send (k : Port) (p : Pkt)                                             -- R337
  | rdmaReadRequest (k : Port) (p : Pkt) | rdmaReadResponse (k : Port) (p : Pkt)  -- R277, R119
  | ack (k : Port) (p : Pkt) | nak (k : Port) (p : Pkt)                   -- R338
  | cnp (k : Port) (p : Pkt)                                              -- R339
  | rateIncrease (p : PIdx) (q : Nat)                                     -- R339
  | retransmitTimeout (p : PIdx) (q : Nat)                                -- R338
  | rnrRetry (p : PIdx) (q : Nat)                                         -- R338
  | qpTimeout (p : PIdx) (q : Nat)                                        -- R338
  | qpReady                                                               -- R338
  | arrive (k : Port) (f : LaceFrame) | complete (k : Port) (f : LaceFrame)     -- R351
  | stepFail (k : Port) (f : LaceFrame) | jobFault (k : Port) (f : LaceFrame)   -- R356
  | report (k : Port) (f : LaceFrame) | freq (k : Port) (f : LaceFrame)         -- R354
  | heartbeat (k : Port) (f : LaceFrame) | down (k : Port) (f : LaceFrame)      -- R357
  | join (k : Port) (f : LaceFrame) | member (k : Port) (f : LaceFrame)         -- R360
  | qpReset (k : Port) (f : LaceFrame)                                    -- R338
  | heartbeatSend                                                         -- R348
  | heartbeatLoss (neighbour : Nat)                                       -- R357
  | sendJoin                                                              -- R360
  | memberEffective                                                       -- R360
  | jobDeadline                                                           -- R356
  | epochReport | reportDeadline | freqDecision | freqApply               -- R354
  -- migration and teardown
  | pmFreeze (p : PIdx) (v : Word)                                        -- R381
  | saveDone (p : PIdx) (uncorrectable : Bool)                            -- R382
  | pmRestore (p : PIdx) (v : Word)                                       -- R385
  | restoreDone (p : PIdx) (uncorrectable : Bool)                         -- R385
  | pmThaw (p : PIdx) (v : Word)                                          -- R387
  | drainEnd (p : PIdx)                                                   -- R379
  -- timeouts and recovery
  | tileHaltTimeout (t : TileId)                                          -- R390
  | tileSramError (t : TileId) (off : Nat)                                -- R390
  | transactionTimeout (x : TxTag)                                        -- R390
  | sliceTimeout (d : Die) (sl : Fin 64)                                  -- R390
  | directoryTimeout (d : Die) (line : Nat) (half : Fin 16)               -- R390
  | dramTimeout (d : Die) (ch : Fin 64)                                   -- R390
  | ucieTimeout (hpa : Nat)                                               -- R390
  | unitResetDone                                                         -- R395
  | dieHeartbeatSend (d : Die)                                            -- R390
  | dieHeartbeatLoss (d : Die)                                            -- R390
  | recover (d : Die)                                                     -- R400
  | dieReady (d : Die)                                                    -- R400
  | watchdog | dieRecoveryTimeout | deviceRecoveryTimeout                 -- R390
  | deviceRecoveryDone (timeMs : Nat)                                     -- R401
  | rtsGo (hostImage : List Byte) (fetched : Bool)                        -- R408
  | recTailWrite (v : Word)                                               -- R409
  | evTailWrite (v : Word)                                                -- R413
  -- power
  | regulatorReport (d : Die) (r : RegReport)                             -- R418
  | vrAlert | vrAlertRelease | brakeAssert | brakeRelease                 -- R434
  | budgetRequest (d : Die)                                               -- R425
  | budgetAllocate                                                        -- R426
  | budgetGrant (d : Die)                                                 -- R426
  | grantDeadline                                                         -- R426
  | budgetGuard (d : Die)                                                 -- R427
  | thermalSample (d : Die) (junctions drams : List Nat)                  -- R433, in °C
  | trimWrite (d : Die)                                                   -- R435
  -- awl
  | sliceEnd (d : Die) (kind : Fin 7) (r : SliceResult) (found : List EccFound)  -- R449, found by a margin read (R451)
  | sliceAbort (d : Die) (kind : Fin 7)                                   -- R452
  | repairRecordWrite (d : Die)                                           -- R462
  | awlFuseGo (d : Die)                                                   -- R463
  | fuseBurn (d : Die) (ok : Bool)                                        -- R466
  -- security
  | takeOwnership (hostImage : List Byte) (fetched : Bool)                -- R475
  | release (hostImage : List Byte) (fetched : Bool)                      -- R475
  | end_ (hostImage : List Byte) (fetched : Bool)                         -- R475
  | raiseLastFloor (hostImage : List Byte) (fetched : Bool)               -- R475
  | raiseFwFloor (hostImage : List Byte) (fetched : Bool)                 -- R475
  | transitionComplete                                                    -- R477
  | fwStage (hostImage : List Byte) (fetched : Bool)                      -- R472
  | fwStaged (ok : Bool)                                                  -- R472
  | tapInstruction (code : Nat)                                           -- R469
  -- pins and start-up
  | powerGood (straps : Fin 4)                                            -- R488
  | powerLoss                                                             -- R419
  | mreset                                                                -- R487
  | regulatorsSequenced (ok : Bool)                                       -- R494
  | firmwareVerified (aOk bOk : Bool) (timeMs : Nat)                      -- R471
  | weltsTrained (ok : Bool)                                              -- R494
  | dramInitialised (ok : Bool) (timeMs : Nat)                            -- R494
  | readyRise (timeMs : Nat)                                              -- R494
  | thermtripShutdown                                                     -- R493
  | sbRead (off : Nat) | sbWrite (off : Nat) (v : Word)                   -- R490
  | setdasa (addr : Nat) | entdaa (addr : Nat)                            -- R489
  | pfcPauseEnd (k : Port)                                                -- R330
  | unsupportedOpcode (k : Port) (p : Pkt)                                -- R333
  | droppedFrame (k : Port)                                               -- R328
  | enec                                                                  -- R490
  | tapReset (low : Bool)                                                 -- R487
  | configurationRequest (fn : Fin 17) (off : Nat) (write : Bool) (v : BitVec 32)  -- R306
  | floorBurnComplete                                                     -- R477
deriving DecidableEq, Repr

end Sys2Proof
end

