-- ==== Sys2Proof/Decode.lean ====
section
/-! DEFINITION. The command that a word spells by the bits of spec/opcode_table.json. No row of the table gives bits,
so no word spells a command: commands reach the device as events of its world, not as encodings. -/

namespace Sys2Proof

/-- The command that the `nbits` low bits of `w` spell: none, since the table gives no row an encoding. -/
def decodeTableWord (_nbits _w : Nat) : Option Instr := none

end Sys2Proof
end

