-- ==== Sys2Proof/Machine/Bits.lean ====
section
/-! DEFINITION. Bit fields and byte order (R5, R6), on natural numbers. -/

namespace Sys2Proof.Machine

/-- Bits [lo + w - 1 : lo] of `x` (R5). -/
def bitsAt (x lo w : Nat) : Nat := x >>> lo % 2 ^ w

/-- `x` with bit `i` set. -/
def setBit (x i : Nat) : Nat := x ||| 2 ^ i

/-- `x` with bit `i` cleared. -/
def clearBit (x i : Nat) : Nat := if x.testBit i then x - 2 ^ i else x

/-- The number of bits set in the low `n` bits of `x`. -/
def popCount (n x : Nat) : Nat := (List.range n).foldl (fun c i => if x.testBit i then c + 1 else c) 0

/-- The value of bytes stored least significant first (R6). -/
def leNat : List Byte → Nat
  | [] => 0
  | b :: bs => b.toNat + 256 * leNat bs

/-- The value of bytes stored most significant first: the PKCS #1 octet strings of R44. -/
def beNat (bs : List Byte) : Nat := leNat bs.reverse

/-- `n` bytes of `x`, least significant first (R6). -/
def toLE : Nat → Nat → List Byte
  | 0, _ => []
  | n + 1, x => BitVec.ofNat 8 x :: toLE n (x / 256)

/-- `n` bytes of `x`, most significant first. -/
def toBE (n x : Nat) : List Byte := (toLE n x).reverse

/-- `n` bytes of a structure from offset `off`. -/
def slice (bs : List Byte) (off n : Nat) : List Byte := (bs.drop off).take n

/-- The multi-byte field of `n` bytes at offset `off` of a structure (R6). -/
def field (bs : List Byte) (off n : Nat) : Nat := leNat (slice bs off n)

/-- Every byte of a reserved range is 0. -/
def zeroBytes (bs : List Byte) (off n : Nat) : Bool := (slice bs off n).all (· == 0#8)

/-- `x` rounded down to a multiple of `n`. -/
def alignDown (x n : Nat) : Nat := x - x % n

/-- `x` rounded up to a multiple of `n`. -/
def alignUp (x n : Nat) : Nat := (x + n - 1) / n * n

/-- The quotient rounded up. -/
def ceilDiv (x n : Nat) : Nat := (x + n - 1) / n

/-- A `w`-bit two's-complement field as an integer. -/
def signedAt (w x : Nat) : Int := if x % 2 ^ w < 2 ^ (w - 1) then (x % 2 ^ w : Nat) else (x % 2 ^ w : Nat) - (2 ^ w : Nat)

/-- An integer as a `w`-bit two's-complement field. -/
def toSigned (w : Nat) (x : Int) : Nat := (x % (2 ^ w : Nat)).toNat

/-- Addition that saturates at the largest `w`-bit value: the registers marked "saturating". -/
def satAdd (w x n : Nat) : Nat := min (2 ^ w - 1) (x + n)

end Sys2Proof.Machine
end

