-- ==== Sys2Proof/Machine/Numeric.lean ====
section
/-! DEFINITION. The number formats and their conversions (R122 to R143): exact values as dyadic rationals, one rounding,
the four flags, block scales, and the arithmetic of the lane engine and of the reduction units (R145, R161). -/

namespace Sys2Proof.Machine

/-! ## Exact values -/

/-- An exact value: a NaN, an infinity, or (-1)^neg × m × 2^e, where m = 0 is the zero of that sign. -/
inductive Val where
  | nan (signalling : Bool)
  | inf (neg : Bool)
  | fin (neg : Bool) (m : Nat) (e : Int)
deriving DecidableEq, Repr

/-- A value's sign as an integer and its mantissa at exponent `q`, for q no greater than its exponent. -/
def scaledAt (m : Nat) (e q : Int) : Nat := m * 2 ^ (e - q).toNat

/-- The finite value of an integer times 2^e; an exact zero has the sign given. -/
def ofInt (x : Int) (e : Int) (zeroNeg : Bool) : Val :=
  if x = 0 then .fin zeroNeg 0 0 else .fin (decide (x < 0)) x.natAbs e

/-- The exact signed integer of a finite value at exponent `q`. -/
def signedInt (neg : Bool) (m : Nat) (e q : Int) : Int :=
  if neg then -(scaledAt m e q : Int) else (scaledAt m e q : Int)

/-- Compare magnitudes m1 × 2^e1 and m2 × 2^e2. -/
def magCompare (m1 : Nat) (e1 : Int) (m2 : Nat) (e2 : Int) : Ordering :=
  let q := min e1 e2
  compare (scaledAt m1 e1 q) (scaledAt m2 e2 q)

/-- The exact value is the same number (zeros of either sign are equal). -/
def sameNumber (n1 : Bool) (m1 : Nat) (e1 : Int) (n2 : Bool) (m2 : Nat) (e2 : Int) : Bool :=
  (m1 == 0 && m2 == 0) || (n1 == n2 && magCompare m1 e1 m2 e2 == .eq)

/-- floor(log2 (m × 2^e)) of a non-zero value. -/
def floorLog (m : Nat) (e : Int) : Int := (Nat.log2 m : Int) + e

/-! ## Flags (R135, R112) -/

/-- The status flags. -/
structure Flags where
  invalid : Bool := false
  overflow : Bool := false
  underflow : Bool := false
  inexact : Bool := false
  saturated : Bool := false
deriving DecidableEq, Repr

def Flags.or (a b : Flags) : Flags :=
  ⟨a.invalid || b.invalid, a.overflow || b.overflow, a.underflow || b.underflow, a.inexact || b.inexact,
    a.saturated || b.saturated⟩

/-- Bits 0 to 4 of a status word: invalid, overflow, underflow, inexact, scale_saturated (R112). -/
def Flags.bits (f : Flags) : Nat :=
  f.invalid.toNat + 2 * f.overflow.toNat + 4 * f.underflow.toNat + 8 * f.inexact.toNat + 16 * f.saturated.toNat

/-! ## Formats (R122, R123, R125, R128) -/

/-- A format with sign, exponent and fraction fields. -/
structure FpFmt where
  ebits : Nat
  mbits : Nat
  bias : Nat
  maxCode : Nat
  hasInf : Bool
  nanCode : Option Nat
deriving DecidableEq, Repr

/-- The kinds of format. -/
inductive Fmt where
  | binary (f : FpFmt)
  | mx (f : FpFmt)
  | mxInt
  | zl (bits frac : Nat)
  | raw
deriving DecidableEq, Repr

/-- The format of a code; `none` for an undefined code (R122). -/
def fmtOf (code : Nat) : Option Fmt :=
  if code = 0x01 then some (.binary ⟨11, 52, 1023, 0x7FEFFFFFFFFFFFFF, true, some 0x7FF8000000000000⟩)
  else if code = 0x02 then some (.binary ⟨8, 23, 127, 0x7F7FFFFF, true, some 0x7FC00000⟩)
  else if code = 0x03 then some (.binary ⟨8, 7, 127, 0x7F7F, true, some 0x7FC0⟩)
  else if code = 0x04 then some (.binary ⟨5, 10, 15, 0x7BFF, true, some 0x7E00⟩)
  else if code = 0x10 then some (.mx ⟨4, 3, 7, 0x7E, false, some 0x7F⟩)
  else if code = 0x11 then some (.mx ⟨5, 2, 15, 0x7B, true, some 0x7E⟩)
  else if code = 0x12 then some (.mx ⟨3, 2, 3, 0x1F, false, none⟩)
  else if code = 0x13 then some (.mx ⟨2, 3, 1, 0x1F, false, none⟩)
  else if code = 0x14 then some (.mx ⟨2, 1, 1, 0x7, false, none⟩)
  else if code = 0x15 then some .mxInt
  else if code = 0x20 then some (.zl 4 1)
  else if code = 0x21 then some (.zl 8 3)
  else if code = 0x22 then some (.zl 16 8)
  else if code = 0x30 then some .raw
  else none

/-- Element bits of a format (R122). -/
def Fmt.bits : Fmt → Nat
  | .binary f => 1 + f.ebits + f.mbits
  | .mx f => 1 + f.ebits + f.mbits
  | .mxInt => 8
  | .zl b _ => b
  | .raw => 64

/-- The exponent of the largest power of two of an MX element format (R125). -/
def Fmt.emax : Fmt → Int
  | .mx f => (f.maxCode >>> f.mbits : Nat) - (f.bias : Int)
  | _ => 0

/-- The format carries a block scale. -/
def Fmt.scaled : Fmt → Bool
  | .mx _ => true
  | .mxInt => true
  | .zl _ _ => true
  | _ => false

/-! ## Reading (R123 to R130) -/

/-- The value of a sign, exponent and fraction code. Only a format with infinities has NaNs in its top exponent;
E4M3 has the one magnitude code that `nanCode` names. -/
def FpFmt.read (f : FpFmt) (code : Nat) : Val :=
  let neg := code.testBit (f.ebits + f.mbits)
  let ex := bitsAt code f.mbits f.ebits
  let fr := bitsAt code 0 f.mbits
  if f.hasInf && ex == 2 ^ f.ebits - 1 then
    if fr = 0 then .inf neg else .nan (!fr.testBit (f.mbits - 1))
  else if !f.hasInf && f.nanCode == some (bitsAt code 0 (f.ebits + f.mbits)) then .nan false
  else if ex = 0 then (if fr = 0 then .fin neg 0 0 else .fin neg fr (1 - (f.bias : Int) - f.mbits))
  else .fin neg (2 ^ f.mbits + fr) ((ex : Int) - f.bias - f.mbits)

/-- The value 2^s × a finite value. -/
def Val.shift (v : Val) (s : Int) : Val :=
  match v with
  | .fin n m e => if m = 0 then v else .fin n m (e + s)
  | _ => v

/-- floor(2^(48 + i/256)) by its bits. -/
def zlRoot (i : Nat) : Nat :=
  let n := 2 ^ (48 * 256 + i)
  (List.range 50).foldl (fun r b => if (r + 2 ^ (49 - b)) ^ 256 ≤ n then r + 2 ^ (49 - b) else r) 0

/-- Entry i of the fraction table E: the integer nearest to 2^(47 + i/256) (R130). -/
def zlEntry (i : Nat) : Nat := (zlRoot i + 1) / 2

/-- A log in units of 2^-8 as a linear value (R129, R149): (-1)^neg × 2^I × E[F] / 2^47. -/
def zlLinear (neg : Bool) (u : Int) : Val := .fin neg (zlEntry (u % 256).toNat) (u / 256 - 47)

/-- The log field of a ZL code as an integer; `none` for the reserved code. -/
def zlLog (bits code : Nat) : Option Int :=
  let l := bitsAt code 0 (bits - 1)
  if l = 2 ^ (bits - 2) then none else some (signedAt (bits - 1) l)

/-- The scale byte of a ZL block as an integer (R128). -/
def zlScale (scale : Nat) : Int := signedAt 8 scale

/-- The log in units of 2^-8 of a ZL element that is neither zero nor NaN, with its scale. -/
def zlUnits (frac : Nat) (l : Int) (scale : Nat) : Int := l * 2 ^ (8 - frac) + zlScale scale * 256

/-- The exact value of an element with its block scale (R126, R127, R129). -/
def Fmt.read (f : Fmt) (code scale : Nat) : Val :=
  match f with
  | .binary x => x.read code
  | .mx x => if scale = 255 then .nan false else (x.read code).shift ((scale : Int) - 127)
  | .mxInt =>
    if scale = 255 then .nan false
    else (ofInt (signedAt 8 code) (-6) false).shift ((scale : Int) - 127)
  | .zl b fr =>
    let neg := code.testBit (b - 1)
    match zlLog b code with
    | none => if neg then .nan false else .fin false 0 0
    | some l => zlLinear neg (zlUnits fr l scale)
  | .raw => .nan false

/-! ## Rounding (R132, R133) -/

/-- Whether a rounding mode takes the magnitude up, given the sign, oddness and what was dropped as (dropped, 2^sh). -/
def roundsUp (mode : Nat) (neg odd : Bool) (dropped half : Nat) : Bool :=
  match mode with
  | 0 => decide (half < dropped) || (dropped == half && half != 0 && odd)
  | 2 => dropped != 0 && !neg
  | 3 => dropped != 0 && neg
  | _ => false

/-- The significand of m × 2^e at quantum exponent `q`, and whether it is inexact. -/
def roundAt (mode : Nat) (neg : Bool) (m : Nat) (e q : Int) : Nat × Bool :=
  if q ≤ e then (m * 2 ^ (e - q).toNat, false) else
  let sh := (q - e).toNat
  let sig := m / 2 ^ sh
  let dropped := m % 2 ^ sh
  let sig' :=
    if mode = 4 then (if dropped = 0 then sig else sig ||| 1)
    else if roundsUp mode neg (sig % 2 == 1) dropped (2 ^ (sh - 1)) then sig + 1 else sig
  (sig', dropped != 0)

/-- The mode rounds an overflow away from zero (R140). -/
def awayFromZero (mode : Nat) (neg : Bool) : Bool :=
  match mode with
  | 0 => true
  | 2 => !neg
  | 3 => neg
  | _ => false

/-- A sign, exponent and fraction code from a significand and its quantum exponent. -/
def FpFmt.encode (f : FpFmt) (neg : Bool) (sig : Nat) (q : Int) : Nat :=
  let s := if neg then 2 ^ (f.ebits + f.mbits) else 0
  let (sig, q) := if sig = 2 ^ (f.mbits + 1) then (2 ^ f.mbits, q + 1) else (sig, q)
  if sig < 2 ^ f.mbits then s + sig
  else s + (q + f.mbits + f.bias).toNat * 2 ^ f.mbits + (sig - 2 ^ f.mbits)

def FpFmt.minQ (f : FpFmt) : Int := 1 - (f.bias : Int) - f.mbits
def FpFmt.signBit (f : FpFmt) (neg : Bool) : Nat := if neg then 2 ^ (f.ebits + f.mbits) else 0

/-- What an overflow writes (R140): by saturation mode 0 SAT, 1 IEEE, 2 NAN. -/
def FpFmt.overflowCode (f : FpFmt) (mode sat : Nat) (neg : Bool) : Nat :=
  if !awayFromZero mode neg || sat = 0 then f.signBit neg + f.maxCode
  else if f.hasInf then f.signBit neg + (2 ^ f.ebits - 1) * 2 ^ f.mbits
  else match f.nanCode with
    | some n => if sat = 2 then n else f.signBit neg + f.maxCode
    | none => f.signBit neg + f.maxCode

/-- A finite non-zero value rounded once into a format with exponent and fraction fields (R135, R136, R140). -/
def FpFmt.roundInto (f : FpFmt) (mode sat : Nat) (neg : Bool) (m : Nat) (e : Int) : Nat × Flags :=
  let q := max (floorLog m e - f.mbits) f.minQ
  let (sig, inexact) := roundAt mode neg m e q
  match f.read f.maxCode with
  | .fin _ mm me =>
    if magCompare sig q mm me == .gt then (f.overflowCode mode sat neg, { overflow := true, inexact := true })
    else
      let tiny := decide (floorLog m e < 1 - (f.bias : Int))
      (f.encode neg sig q, { inexact := inexact, underflow := tiny && inexact })
  | _ => (0, {})

/-- An infinity converted to a format without infinity: as overflow in RNE (R138). -/
def FpFmt.infCode (f : FpFmt) (sat : Nat) (neg : Bool) : Nat × Flags :=
  if f.hasInf then (f.signBit neg + (2 ^ f.ebits - 1) * 2 ^ f.mbits, {})
  else (f.overflowCode 0 sat neg, { invalid := true })

/-- A value written to a format with exponent and fraction fields (R136 to R140). -/
def FpFmt.write (f : FpFmt) (mode sat : Nat) (v : Val) : Nat × Flags :=
  match v with
  | .nan sg =>
    match f.nanCode with
    | some n => (n, { invalid := sg })
    | none => (0, { invalid := true })
  | .inf neg => f.infCode sat neg
  | .fin neg m e => if m = 0 then (f.signBit neg, {}) else f.roundInto mode sat neg m e

/-- MXINT8 from a value (R127, R138, R140). -/
def writeMxInt (mode : Nat) (v : Val) : Nat × Flags :=
  let code (neg : Bool) (k : Nat) : Nat := if neg then (256 - k) % 256 else k
  match v with
  | .nan _ => (0, { invalid := true })
  | .inf neg => (code neg 127, { invalid := true })
  | .fin neg m e =>
    if m = 0 then (0, {}) else
    let (k, inexact) := roundAt mode neg m e (-6)
    if 127 < k then (code neg 127, { overflow := true, inexact := true })
    else (code neg k, { inexact := inexact, underflow := k == 0 })

/-! ## ZL (R134, R140) -/

/-- floor(2^f × log2 (m × 2^e)) of a non-zero value. -/
def logFloor (f m : Nat) (e : Int) : Int := e * 2 ^ f + (Nat.log2 (m ^ 2 ^ f) : Int)

/-- 2^f × log2 |x| rounded to an integer for a linear value (R134). -/
def roundLog (f mode : Nat) (neg : Bool) (m : Nat) (e : Int) : Int :=
  let lo := logFloor f m e
  if 2 ^ Nat.log2 m = m then lo else
  match mode with
  | 0 => if logFloor (f + 1) m e % 2 = 1 then lo + 1 else lo
  | 2 => if neg then lo else lo + 1
  | 3 => if neg then lo + 1 else lo
  | _ => lo

/-- A log in units of 2^-8 rounded to units of 2^-f (R134: ZL to ZL, a tie takes the even log code). -/
def roundUnits (f mode : Nat) (neg : Bool) (u : Int) : Int :=
  let d : Int := 2 ^ (8 - f)
  let lo := u / d
  let r := u % d
  if r = 0 then lo else
  match mode with
  | 0 => if 2 * r > d then lo + 1 else if 2 * r = d then (if lo % 2 = 0 then lo else lo + 1) else lo
  | 2 => if neg then lo else lo + 1
  | 3 => if neg then lo + 1 else lo
  | _ => lo

def zlMax (bits : Nat) : Int := 2 ^ (bits - 2) - 1

/-- The ZL code of a sign and log field. -/
def zlCode (bits : Nat) (neg : Bool) (l : Int) : Nat := (if neg then 2 ^ (bits - 1) else 0) + toSigned (bits - 1) l
def zlZero (bits : Nat) : Nat := 2 ^ (bits - 2)
def zlNan (bits : Nat) : Nat := 2 ^ (bits - 1) + 2 ^ (bits - 2)

/-- A rounded log, less the block scale, as a ZL element: overflow under R140, underflow to +0. `exact` compares the
element read back with the source. -/
def zlStore (bits frac mode sat scale : Nat) (neg : Bool) (l : Int) (src : Val) : Nat × Flags :=
  let l' := l - zlScale scale * 2 ^ frac
  if zlMax bits < l' then
    let code := if sat = 2 && awayFromZero mode neg then zlNan bits else zlCode bits neg (zlMax bits)
    (code, { overflow := true, inexact := true })
  else if l' < -zlMax bits then (zlZero bits, { underflow := true, inexact := true })
  else
    let code := zlCode bits neg l'
    let same := match Fmt.read (.zl bits frac) code scale, src with
      | .fin n1 m1 e1, .fin n2 m2 e2 => sameNumber n1 m1 e1 n2 m2 e2
      | _, _ => false
    (code, { inexact := !same })

/-- A linear value written to a ZL element. -/
def writeZl (bits frac mode sat scale : Nat) (v : Val) : Nat × Flags :=
  match v with
  | .nan sg => (zlNan bits, { invalid := sg })
  | .inf neg => (if sat = 2 then zlNan bits else zlCode bits neg (zlMax bits), { invalid := true })
  | .fin neg m e => if m = 0 then (zlZero bits, {}) else zlStore bits frac mode sat scale neg (roundLog frac mode neg m e) v

/-! ## Conversions (R136, R137) -/

/-- A value written to a format, under a rounding mode, a saturation mode and the destination's block scale. -/
def Fmt.write (f : Fmt) (mode sat scale : Nat) (v : Val) : Nat × Flags :=
  let underNan : Nat × Flags := (0, { invalid := match v with | .nan sg => sg | _ => true })
  match f with
  | .binary x => x.write mode sat v
  | .mx x => if scale = 255 then underNan else x.write mode sat (v.shift (127 - (scale : Int)))
  | .mxInt => if scale = 255 then underNan else writeMxInt mode (v.shift (127 - (scale : Int)))
  | .zl b fr => writeZl b fr mode sat scale v
  | .raw => (0, {})

/-- A value to convert: it, and its log in units of 2^-8 where its source is a ZL element with one (R134). -/
structure Src where
  val : Val
  units : Option Int := none
deriving DecidableEq, Repr

/-- An element of a format with its block scale as a value to convert. -/
def Fmt.source (f : Fmt) (x scale : Nat) : Src :=
  ⟨f.read x scale, match f with | .zl b fr => (zlLog b x).map fun l => zlUnits fr l scale | _ => none⟩

/-- The log of a non-zero value rounded to units of 2^-f: that of a ZL source directly, without a linear detour (R134). -/
def Src.log (x : Src) (f mode : Nat) (neg : Bool) (m : Nat) (e : Int) : Int :=
  match x.units with
  | some u => roundUnits f mode neg u
  | none => roundLog f mode neg m e

/-- A lane conversion (R137): an element converted to its own scaled format with the same scale is copied unchanged, a signalling NaN
among them with invalid (R124, R135), and ZL to ZL rounds the log directly (R134). The copy of MXINT8 code 0x80 is 0x80, though R127 says
that no converter writes it (DESIGN CHOICE, log entry 134). -/
def convertElem (src dst : Fmt) (mode sat x srcScale dstScale : Nat) : Nat × Flags :=
  let v := src.source x srcScale
  if src = dst && src.scaled && srcScale == dstScale then (x % 2 ^ src.bits, { invalid := v.val == .nan true })
  else
    match dst, v.val with
    | .zl b fr, .fin neg m e =>
      if m = 0 then dst.write mode sat dstScale v.val else zlStore b fr mode sat dstScale neg (v.log fr mode neg m e) v.val
    | _, _ => dst.write mode sat dstScale v.val

/-! ## The scale format E8M0 (R126, R136, R145) -/

/-- The value of an E8M0 scale code. -/
def e8m0Read (c : Nat) : Val := if c % 256 = 255 then .nan false else .fin false 1 ((c % 256 : Nat) - 127)

/-- A value rounded to E8M0; `none` where the spec states no result: for a zero, a negative value, an infinity and a value outside the
codes (log entry 135). -/
def e8m0Write (mode : Nat) (v : Val) : Option Nat :=
  match v with
  | .nan _ => some 255
  | .inf _ => none
  | .fin neg m e =>
    if neg || m = 0 then none else
    let lo := floorLog m e
    let c : Int :=
      if 2 ^ Nat.log2 m = m then lo
      else match mode with
        | 0 => match compare (2 * m) (3 * 2 ^ Nat.log2 m) with
          | .lt => lo
          | .gt => lo + 1
          | .eq => if (lo + 127) % 2 = 0 then lo else lo + 1
        | 2 => lo + 1
        | _ => lo
    if -127 ≤ c && c ≤ 127 then some (c + 127).toNat else none

/-! ## Block conversions (R141, R142) -/

def Val.isNan : Val → Bool
  | .nan _ => true
  | _ => false

/-- The finite non-zero values of a block. -/
def finites (vs : List Val) : List (Bool × Nat × Int) :=
  vs.filterMap fun v => match v with
    | .fin n m e => if m = 0 then none else some (n, m, e)
    | _ => none

def maxInt (d : Int) : List Int → Int
  | [] => d
  | x :: xs => xs.foldl max x

/-- An MX block: scale, element codes, flags (R141). -/
def mxBlock (f : Fmt) (mode sat : Nat) (vs : List Val) : Nat × List Nat × Flags :=
  if vs.any Val.isNan then
    (255, vs.map fun _ => 0, { invalid := vs.any fun v => v == .nan true })
  else
    let e := match finites vs with
      | [] => (0 : Int)
      | fs => maxInt 0 (fs.map fun x => floorLog x.2.1 x.2.2) - f.emax
    let high := decide (127 < e)
    let e' := max (-127) (min 127 e)
    let big (neg : Bool) : Nat := match f with
      | .mx x => x.signBit neg + x.maxCode
      | _ => if neg then 0x81 else 0x7F
    let elem (v : Val) : Nat × Flags :=
      match v with
      | .fin neg m _ =>
        if high && m != 0 then (big neg, {})
        else
          let (c, fl) := f.write mode 0 (e' + 127).toNat v
          (if fl.overflow then big neg else c, { fl with overflow := false })
      | _ => f.write 0 sat (e' + 127).toNat v
    let rs := vs.map elem
    let own : Flags := { saturated := decide (e < -127) || high, overflow := high, inexact := high }
    ((e' + 127).toNat, rs.map fun r => r.1, rs.foldl (fun a r => a.or r.2) own)

/-- A ZL block (R142). -/
def zlBlock (bits frac mode sat : Nat) (vs : List Src) : Nat × List Nat × Flags :=
  let logs := vs.filterMap fun x => match x.val with
    | .fin n m e => if m = 0 then none else some (x.log frac mode n m e)
    | _ => none
  let s : Int := match logs with
    | [] => 0
    | _ => -((zlMax bits - maxInt 0 logs) / 2 ^ frac)
  let high := decide (127 < s)
  let s' := max (-128) (min 127 s)
  let scale := toSigned 8 s'
  let elem (v : Src) : Nat × Flags :=
    match v.val with
    | .fin neg m e =>
      if m = 0 then (zlZero bits, {}) else
      let l := v.log frac mode neg m e
      if zlMax bits < l - s' * 2 ^ frac then (zlCode bits neg (zlMax bits), { inexact := true })
      else zlStore bits frac mode sat scale neg l v.val
    | _ => writeZl bits frac 0 sat scale v.val
  let rs := vs.map elem
  let own : Flags := { saturated := decide (s < -128) || high, overflow := high }
  (scale, rs.map fun r => r.1, rs.foldl (fun a r => a.or r.2) own)

/-- A block of values in a block-scaled format. -/
def blockConvert (f : Fmt) (mode sat : Nat) (vs : List Src) : Nat × List Nat × Flags :=
  match f with
  | .zl b fr => zlBlock b fr mode sat vs
  | _ => mxBlock f mode sat (vs.map Src.val)

/-! ## Maximum and minimum (R143) -/

/-- `a` is greater than `b` among values that are no NaN, with +0 above −0. -/
def Val.gt (a b : Val) : Bool :=
  match a, b with
  | .inf false, .inf false => false
  | .inf false, _ => true
  | _, .inf true => (match a with | .inf true => false | _ => true)
  | .inf true, _ => false
  | _, .inf false => false
  | .fin n1 m1 e1, .fin n2 m2 e2 =>
    if m1 = 0 && m2 = 0 then !n1 && n2
    else if n1 != n2 then (if m1 = 0 then n2 else if m2 = 0 then !n1 else !n1)
    else if n1 then magCompare m1 e1 m2 e2 == .lt else magCompare m1 e1 m2 e2 == .gt
  | _, _ => false

/-- Which operand maximumNumber or minimumNumber chooses: `none` for the canonical NaN. -/
def chooseMinMax (isMax : Bool) (a b : Val) : Option Bool :=
  if a.isNan && b.isNan then none
  else if a.isNan then some false
  else if b.isNan then some true
  else some (if isMax then !b.gt a else !a.gt b)

def sNan (v : Val) : Bool := v == .nan true

/-- Maximum or minimum of two binary elements, as a code (R143, R161). -/
def binMinMax (f : FpFmt) (isMax : Bool) (a b : Nat) : Nat × Flags :=
  let va := f.read a
  let vb := f.read b
  let fl : Flags := { invalid := sNan va || sNan vb }
  match chooseMinMax isMax va vb with
  | none => (f.nanCode.getD 0, fl)
  | some true => (a, fl)
  | some false => (b, fl)

/-! ## Arithmetic (R145, R161) -/

/-- The flags of operands: a signalling NaN sets invalid (R124). -/
def nanOf (vs : List Val) : Option Flags :=
  if vs.any Val.isNan then some { invalid := vs.any sNan } else none

/-- An exact sum of finite values; an exact zero takes the sign of IEEE 754: that of two equal signs, else + but − in
RDN (R161). -/
def addFin (mode : Nat) (n1 : Bool) (m1 : Nat) (e1 : Int) (n2 : Bool) (m2 : Nat) (e2 : Int) : Val :=
  let q := min e1 e2
  ofInt (signedInt n1 m1 e1 q + signedInt n2 m2 e2 q) q (if n1 == n2 then n1 else mode == 3)

/-- The exact sum of two values, `none` for ∞ + (−∞). NaNs are handled before. -/
def addVal (mode : Nat) (a b : Val) : Option Val :=
  match a, b with
  | .inf x, .inf y => if x = y then some (.inf x) else none
  | .inf x, _ => some (.inf x)
  | _, .inf y => some (.inf y)
  | .fin n1 m1 e1, .fin n2 m2 e2 => some (addFin mode n1 m1 e1 n2 m2 e2)
  | _, _ => none

/-- The exact product, `none` for 0 × ∞. -/
def mulVal (a b : Val) : Option Val :=
  match a, b with
  | .inf x, .inf y => some (.inf (x != y))
  | .inf x, .fin n m _ => if m = 0 then none else some (.inf (x != n))
  | .fin n m _, .inf y => if m = 0 then none else some (.inf (n != y))
  | .fin n1 m1 e1, .fin n2 m2 e2 => some (.fin (n1 != n2) (m1 * m2) (if m1 * m2 = 0 then 0 else e1 + e2))
  | _, _ => none

/-- The quotient to 130 bits with a sticky bit below, which rounds as the exact quotient in every mode; `none` for 0/0 and
∞/∞. -/
def divVal (a b : Val) : Option Val :=
  match a, b with
  | .inf _, .inf _ => none
  | .inf x, .fin n _ _ => some (.inf (x != n))
  | .fin n _ _, .inf y => some (.fin (n != y) 0 0)
  | .fin n1 m1 e1, .fin n2 m2 e2 =>
    if m2 = 0 then (if m1 = 0 then none else some (.inf (n1 != n2)))
    else if m1 = 0 then some (.fin (n1 != n2) 0 0)
    else
      let k := 130 + Nat.log2 m2
      let num := m1 * 2 ^ k
      some (.fin (n1 != n2) (2 * (num / m2) + (if num % m2 = 0 then 0 else 1)) (e1 - e2 - k - 1))
  | _, _ => none

/-- The square root to at least 65 bits with a sticky bit below; `none` for a negative non-zero operand. -/
def sqrtVal (a : Val) : Option Val :=
  match a with
  | .inf false => some (.inf false)
  | .fin n m e =>
    if m = 0 then some (.fin n 0 0)
    else if n then none
    else
      let (m, e) := if e % 2 = 0 then (m, e) else (2 * m, e - 1)
      let x := m * 2 ^ 160
      let r := Nat.sqrt x
      some (.fin false (2 * r + (if r * r = x then 0 else 1)) (e / 2 - 81))
  | _ => none

/-- The result of an exact step in a binary format: the canonical NaN with invalid where the step has no result. -/
def FpFmt.finish (f : FpFmt) (mode sat : Nat) (r : Option Val) : Nat × Flags :=
  match r with
  | some v => f.write mode sat v
  | none => (f.nanCode.getD 0, { invalid := true })

/-- A binary element sum, rounded once: FADD of R161, and the lane add. -/
def binAdd (f : FpFmt) (mode sat a b : Nat) : Nat × Flags :=
  match nanOf [f.read a, f.read b] with
  | some fl => (f.nanCode.getD 0, fl)
  | none => f.finish mode sat (addVal mode (f.read a) (f.read b))

def Val.negate : Val → Val
  | .nan s => .nan s
  | .inf n => .inf !n
  | .fin n m e => .fin (!n) m e

/-! ## Reductions and atomics (R159 to R161, R245) -/

/-- Bytes of an element type, `none` for an undefined type (R159). -/
def elemBytes (ty : Nat) : Option Nat :=
  if ty = 0x01 || ty = 0x41 then some 8 else if ty = 0x02 || ty = 0x40 then some 4
  else if ty = 0x03 || ty = 0x04 then some 2 else none

/-- The type is one that the operation's row allows (R159). -/
def opAllows (fn ty : Nat) : Bool :=
  if fn ≤ 7 then ty == 0x40 || ty == 0x41 else fn ≤ 0xA && 1 ≤ ty && ty ≤ 4

/-- The codes that the model gives SWAP and CAS, which R245 names without a code (log entry 20). -/
def fnSwap : Nat := 0x10
def fnCas : Nat := 0x11

/-- The types of SWAP and CAS (R245). -/
def swapAllows (ty : Nat) : Bool := ty == 0x40 || ty == 0x41 || ty == 0x01 || ty == 0x02

/-- The value that an operation leaves in an element that holds `v`, with operand `x` and comparand `c` (R161, R245);
`round` is 0 to 3. -/
def elementOp (fn ty round sat v x c : Nat) : Nat :=
  let w := 8 * (elemBytes ty).getD 0
  let s (a : Nat) : Int := signedAt w a
  let x := x % 2 ^ w
  if fn = 0x0 then (v + x) % 2 ^ w
  else if fn = 0x1 then (if s x < s v then x else v)
  else if fn = 0x2 then min v x
  else if fn = 0x3 then (if s v < s x then x else v)
  else if fn = 0x4 then max v x
  else if fn = 0x5 then v &&& x
  else if fn = 0x6 then v ||| x
  else if fn = 0x7 then v ^^^ x
  else if fn = fnSwap then x
  else if fn = fnCas then (if v = c % 2 ^ w then x else v)
  else match fmtOf ty with
    | some (.binary f) =>
      if fn = 0x8 then (binAdd f round sat v x).1
      else (binMinMax f (fn == 0xA) v x).1
    | _ => v

end Sys2Proof.Machine
end

