-- ==== Sys2Proof/Config.lean ====
section
/-! DEFINITION. What one module fixes and the spec leaves open: opaque values that nothing can evaluate. -/

namespace Sys2Proof.Config

/-- The free value: what the device draws, or picks among the outcomes that the spec allows, at the
`n`-th open point of a run (log entry 5). -/
opaque freeNat : Nat → Nat

/-- The serial number of the module, SEC_SERIAL (R482, log entry 6). -/
opaque serial : Nat

/-- Octets 0 to 31 of the vendor key hash in the provisioning record of the module flash (R468). -/
opaque vendorHash : Nat → Byte

/-- The qualified host dies that the signed firmware lists, by host code (R301). -/
opaque qualifiedHost : Nat → Bool

/-- The security version of the image that module manufacture placed in bank A (false) or B (true) (R470). -/
opaque flashVersion : Bool → Nat

/-- Static power of a die at state 0 in mW (R430, the spec gives no value). -/
opaque staticMw : Nat → Nat

/-- The certificate chain of SPDM slot 0, octet by octet, and its length (R479). -/
opaque certificate : Nat → Byte
opaque certificateLen : Nat

/-- Octet `i` of the signature that the identity key gives over message `m` (R479): the key never leaves
the SEC block (R468), so the model has no value for it. -/
opaque identitySign : List Byte → Nat → Byte

/-- The delay in ns that a die adds to the tick that it receives from its primary (0) or alternate (1) parent, or emits from
its own count (2), LACE_DELAY (R191, R192, R195). -/
opaque laceDelay : (die parent : Nat) → Nat

/-- How the tick of a stitch lies at a die within the ±4 ns of R191 and R192. -/
opaque laceSkew : (die stitch : Nat) → Nat

/-- Octet `i` of the SHA-256 digest of the firmware image in bank A (false) or B (true) (R470, R480). -/
opaque firmwareDigest : Bool → Nat → Byte

/-- The MESH_DIST entry of site `s` and target `t` on a die after rewrite `epoch` of its tables, where the route of the
last no longer holds: the die controller chooses the new routes (R182). -/
opaque routedDist : (die epoch s t : Nat) → Nat

/-- Where capability structure `id` of a function stands in its configuration space, and the dwords of configuration space whose
value the spec does not give, after what software last wrote to them (R306). -/
opaque capAt : (fn id : Nat) → Nat
opaque cfgDword : (fn off written : Nat) → Nat

/-- The code of the TAP's IDCODE instruction, which the spec does not give (R469). -/
opaque tapIdcode : Nat

/-- How much later than 18 ns after its reference time CD0 generates a tick, in ns: R26 gives 20 ns ± 2 ns, the same for every
tick. -/
opaque tickDelay : Nat

/-- The channel of a die whose scrub DRAM_SCRUB reports (R300): the spec names none. -/
opaque scrubChannel : Nat → Nat

/-- FLT_STATUS.coordinator while a device recovery includes every die (R398 then names no die). -/
opaque coordinator : Nat

end Sys2Proof.Config
end

