-- ==== Sys2Proof/Machine/Geometry.lean ====
section
/-! DEFINITION. Where things are: dies, welts, sites, slices and address maps (R15, R165 to R166, R204, R205, R227,
R284, R307). -/

namespace Sys2Proof.Machine

/-- The two dies that a welt joins, by welt code (R15, R171). -/
def weltDies : Nat → Nat × Nat
  | 0 => (0, 1) | 1 => (1, 2) | 2 => (2, 3) | 3 => (4, 5) | 4 => (5, 6) | 5 => (6, 7)
  | 6 => (0, 4) | 7 => (1, 5) | 8 => (2, 6) | _ => (3, 7)

/-- The welt codes (R171). -/
def weltCodes : List Nat := List.range 10

/-- The edge (0 north, 1 east, 2 south, 3 west) of `die` on which welt `w` sits (R15). -/
def weltEdge (w die : Nat) : Nat :=
  if w < 6 then (if (weltDies w).1 = die then 1 else 3) else (if (weltDies w).1 = die then 2 else 0)

/-- The welt that joins two dies, if one does (R15). -/
def weltBetween (a b : Nat) : Option Nat :=
  weltCodes.find? fun w => weltDies w == (a, b) || weltDies w == (b, a)

/-- The welt on edge `e` of die `d`, if the edge is welted (R15). -/
def weltAt (d e : Nat) : Option Nat :=
  weltCodes.find? fun w => ((weltDies w).1 == d || (weltDies w).2 == d) && weltEdge w d == e

/-- The die at the far end of welt `w` from die `d`. -/
def farDie (w d : Nat) : Nat := if (weltDies w).1 = d then (weltDies w).2 else (weltDies w).1

/-- The dies next to die `d` over the welts for which `ok` holds. -/
def neighbours (ok : Nat → Bool) (d : Nat) : List Nat :=
  (weltCodes.filter fun w => ok w && ((weltDies w).1 == d || (weltDies w).2 == d)).map fun w => farDie w d

/-- The dies that `n` crossings of usable welts reach. -/
def reach (ok : Nat → Bool) (d : Nat) : Nat → List Nat
  | 0 => [d]
  | n + 1 => let r := reach ok d n
    (List.range 8).filter fun x => r.contains x || r.any fun y => (neighbours ok y).contains x

/-- The fewest usable welts between two dies, `none` when more than seven or no path (R193, R244). -/
def weltDistance (ok : Nat → Bool) (a b : Nat) : Option Nat :=
  (List.range 8).find? fun n => (reach ok a n).contains b

/-- A shortest list of welt codes from die `a` to die `b`, lower codes first, within `n` crossings. -/
def weltPath (ok : Nat → Bool) : Nat → Nat → Nat → Option (List Nat)
  | 0, a, b => if a = b then some [] else none
  | n + 1, a, b =>
    if a = b then some [] else
    match weltDistance ok a b with
    | none => none
    | some k => if n + 1 < k then none else
      (weltCodes.find? fun w => ok w && ((weltDies w).1 == a || (weltDies w).2 == a) &&
        (weltDistance ok (farDie w a) b == some (k - 1))).bind fun w =>
          (weltPath ok n (farDie w a) b).map fun p => w :: p

/-- The die of a device site ID (glossary). -/
def tileDie (t : Nat) : Nat := t / 272
/-- The site index of a device site ID. -/
def tileSite (t : Nat) : Nat := t % 272
/-- Column and row of a site index s = y * 17 + x. -/
def siteX (s : Nat) : Nat := s % 17
def siteY (s : Nat) : Nat := s / 17

/-- The agent number of the level-2 half that serves a tile: north for rows 0 to 7 (R197, R225). -/
def tileHalf (t : Nat) : Nat := 2 * tileDie t + (if siteY (tileSite t) < 8 then 0 else 1)

/-- Bytes of one die's DRAM, 168 GiB (R205). -/
def dieBytes : Nat := 168 * 2 ^ 30

/-- Die and offset of a device physical address (R205). -/
def dpaDie (a : Nat) : Nat := a / 2 ^ 38
def dpaOff (a : Nat) : Nat := a % 2 ^ 38
/-- The device physical address of offset `o` on die `d` (R205). -/
def dpa (d o : Nat) : Nat := d * 2 ^ 38 + o
/-- A device physical address that is memory (R205). -/
def isMemory (a : Nat) : Bool := dpaDie a < 8 && dpaOff a < dieBytes

/-- The home slice of die offset `o` (R204). -/
def sliceOf (o : Nat) : Nat :=
  bitsAt o 11 6 ^^^ bitsAt o 17 6 ^^^ bitsAt o 23 6 ^^^ bitsAt o 29 6 ^^^ bitsAt o 35 3

/-- The set of a fine line in its slice (R204). -/
def fineSet (o : Nat) : Nat := 2 * (bitsAt o 17 7 ^^^ bitsAt o 24 7) + bitsAt o 10 1
/-- The set group of a bulk line in its slice (R204). -/
def bulkGroup (o : Nat) : Nat := bitsAt o 17 5 ^^^ bitsAt o 22 5
/-- The set of a fine line in a level-2 half (R204). -/
def l2FineSet (o : Nat) : Nat := 2 * (bitsAt o 11 11 ^^^ bitsAt o 22 11) + bitsAt o 10 1
/-- The set group of a bulk line in a level-2 half (R204). -/
def l2BulkGroup (o : Nat) : Nat := bitsAt o 11 9 ^^^ bitsAt o 20 9

/-- The directory set and tag of the line at die offset `o` (R227). -/
def dirSet (bulk : Bool) (o : Nat) : Nat :=
  8 * (bitsAt o 17 7 ^^^ bitsAt o 24 7) + (if bulk then 0 else bitsAt o 8 3)
def dirTag (o : Nat) : Nat := bitsAt o 17 21

/-- Bytes of a line of each class (R209), and the 64-byte blocks in it (R234). -/
def lineBytes (bulk : Bool) : Nat := if bulk then 2048 else 256
def lineBlocks (bulk : Bool) : Nat := if bulk then 32 else 4
/-- The first byte of the line that holds `a`. -/
def lineOf (bulk : Bool) (a : Nat) : Nat := alignDown a (lineBytes bulk)

/-- Where the DRAM map puts a die offset: row-frame index, layer, bank, row, column, unit (R284). -/
def rowFrame (o : Nat) : Nat := bitsAt o 17 21
def dramLayer (o : Nat) : Nat := rowFrame o / 196608
def dramR (o : Nat) : Nat := rowFrame o - dramLayer o * 196608
def dramBank (o : Nat) : Nat := bitsAt (dramR o) 0 4 ^^^ bitsAt (dramR o) 4 4
def dramRow (o : Nat) : Nat := dramR o / 16
def dramColumn (o : Nat) : Nat := bitsAt o 8 3
def dramUnit (o : Nat) : Nat := bitsAt o 6 2
/-- Row-frames of a channel (R283). -/
def rowFrames : Nat := 1376256

/-- The UCIe module that carries an address: of a spill line (R246), or of an HDM offset (R304). -/
def moduleOf (a : Nat) : Nat := bitsAt a 11 3 ^^^ bitsAt a 14 3

/-- The die whose edge carries the module of a spill line (R246). -/
def filterDie (line : Nat) : Nat := if moduleOf line < 4 then 0 else 4

/-- The device physical address of HDM offset `h` (R307). -/
def hdmDpa (h : Nat) : Nat := dpa (h / dieBytes) (h % dieBytes)
/-- The HDM offset of a device physical address (R307). -/
def dpaHdm (a : Nat) : Nat := dpaDie a * dieBytes + dpaOff a
/-- HDM bytes, 1,344 GiB (R307). -/
def hdmBytes : Nat := 8 * dieBytes

/-- The site of slice `i` (R166). -/
def sliceSite (i : Nat) : Nat := 2 * (i / 8) * 17 + (2 * (i % 8) + 1)

/-- What an outward port of an edge router reaches (R165). -/
inductive Outward where
  | welt (code group : Nat)
  | mac (port : Nat)
  | ucie (module : Nat)
  | nothing
deriving DecidableEq, Repr

/-- The outward port of site (x, y) of die `d` on output port `p`, `none` for a port inside the die (R165). -/
def outward (d x y p : Nat) : Option Outward :=
  let edge := (p == 0 && y == 0) || (p == 1 && x == 16) || (p == 2 && y == 15) || (p == 3 && x == 0)
  if !edge then none else
  match weltAt d p with
  | some w => let g := if p == 1 || p == 3 then y else x
    some (if g < 16 then .welt w g else .nothing)
  | none =>
    if (p == 0 && d < 4) || (p == 2 && 4 ≤ d) then
      some (if x < 8 then .mac (2 * d) else if x < 16 then .mac (2 * d + 1) else .nothing)
    else if p == 3 && (d == 0 || d == 4) then some (.ucie ((if d == 0 then 0 else 4) + y / 4))
    else some .nothing

/-- The site next to (x, y) through mesh port `p` (R164). -/
def nextSite (x y p : Nat) : Nat × Nat :=
  match p with
  | 0 => (x, y - 1) | 1 => (x + 1, y) | 2 => (x, y + 1) | 3 => (x - 1, y) | _ => (x, y)

end Sys2Proof.Machine
end

