-- ==== Sys2Proof/Machine/RegTable.lean ====
section
/-! DEFINITION. The register tables of the spec: each register with its place (R19 to R21 and the register tables of
the chapters), each field with its bits, access type, reset event, class and reset value (R7 to R14). -/

namespace Sys2Proof.Machine

/-- The three maps of R19 to R21: the device-wide part of the management space, the space of each die, the view of each
partition. -/
inductive RegSpace where
  | dev | die | view
deriving DecidableEq, Repr

/-- The access types of R10. No register table of the spec uses RC. -/
inductive Access where
  | rw | ro | wo | w1c
deriving DecidableEq, Repr

/-- The Reset column (R12, R13). -/
inductive ResetEvent where
  | kept | cold | deviceRecovery | teardown
deriving DecidableEq, Repr

/-- The field classes of R11. -/
inductive FieldClass where
  | static | stitch | live
deriving DecidableEq, Repr

/-- A register of the tables: `count` instances `stride` bytes apart from offset `off`. -/
structure RegKind where
  space : RegSpace
  off : Nat
  stride : Nat
  count : Nat
deriving DecidableEq, Repr

/-- The first address of a space: BAR0 offsets of the management space (R19, R20), and the model's own numbering of
the partition views (view of partition `p` at 2^32 + p * 2^24, R21). -/
def RegKind.base (k : RegKind) (d : Nat) : Nat :=
  match k.space with
  | .dev => 0
  | .die => 0x800000 + d * 0x1000000
  | .view => 2 ^ 32 + d * 2 ^ 24

/-- The address of instance `i`, in die space or view `d`. -/
def RegKind.addr (k : RegKind) (d i : Nat) : Nat := k.base d + k.off + k.stride * i

/-- A field of one register instance: where it is kept and how wide it is. -/
structure Fld where
  addr : Nat
  lo : Nat
  width : Nat
deriving DecidableEq, Repr

/-- The key of a field in the register file. -/
def Fld.key (f : Fld) : Nat := f.addr * 64 + f.lo

/-- A row of a register table. A row whose bits depend on an index stands for `reps` fields `step` bits apart. -/
structure FieldRow where
  kind : RegKind
  lo : Nat
  width : Nat
  acc : Access
  rst : ResetEvent
  cls : FieldClass
  init : Nat := 0
  step : Nat := 0
  reps : Nat := 1
deriving DecidableEq, Repr

/-- STCH_PERIOD (R65). -/
def kStchPeriod : RegKind := ⟨.dev, 0x1000, 0x0, 1⟩
/-- STCH_SLACK (R65). -/
def kStchSlack : RegKind := ⟨.dev, 0x1008, 0x0, 1⟩
/-- STCH_SOURCE (R65). -/
def kStchSource : RegKind := ⟨.dev, 0x1010, 0x0, 1⟩
/-- STCH_CTRL (R65). -/
def kStchCtrl : RegKind := ⟨.dev, 0x1018, 0x0, 1⟩
/-- STCH_COUNT (R65). -/
def kStchCount : RegKind := ⟨.dev, 0x1020, 0x0, 1⟩
/-- STCH_PHASE (R65). -/
def kStchPhase : RegKind := ⟨.dev, 0x1028, 0x0, 1⟩
/-- STCH_STATUS (R65). -/
def kStchStatus : RegKind := ⟨.dev, 0x1030, 0x0, 1⟩
/-- LDR_ADDR (R66). -/
def kLdrAddr : RegKind := ⟨.dev, 0x2000, 0x0, 1⟩
/-- LDR_LEN (R66). -/
def kLdrLen : RegKind := ⟨.dev, 0x2008, 0x0, 1⟩
/-- LDR_CTRL (R66). -/
def kLdrCtrl : RegKind := ⟨.dev, 0x2010, 0x0, 1⟩
/-- LDR_STATUS (R66). -/
def kLdrStatus : RegKind := ⟨.dev, 0x2018, 0x0, 1⟩
/-- LDR_SEQ_DEVICE (R66). -/
def kLdrSeqDevice : RegKind := ⟨.dev, 0x2020, 0x0, 1⟩
/-- LDR_MEASn (R66). -/
def kLdrMeas : RegKind := ⟨.dev, 0x2040, 0x8, 4⟩
/-- CFG_COMMIT (R67). -/
def kCfgCommit : RegKind := ⟨.dev, 0x3000, 0x0, 1⟩
/-- PART_COMMIT (R67). -/
def kPartCommit : RegKind := ⟨.view, 0xf00, 0x0, 1⟩
/-- CFG_STATUS (R67). -/
def kCfgStatus : RegKind := ⟨.dev, 0x3008, 0x0, 1⟩
/-- CFG_APPLIED (R67). -/
def kCfgApplied : RegKind := ⟨.dev, 0x3010, 0x0, 1⟩
/-- TILE_ID (R93). -/
def kTileId : RegKind := ⟨.die, 0x100000, 0x1000, 272⟩
/-- TILE_STATE (R93). -/
def kTileState : RegKind := ⟨.die, 0x100008, 0x1000, 272⟩
/-- TILE_SPLIT (R93). -/
def kTileSplit : RegKind := ⟨.die, 0x100010, 0x1000, 272⟩
/-- TILE_FAULT (R93). -/
def kTileFault : RegKind := ⟨.die, 0x100018, 0x1000, 272⟩
/-- TILE_FAULT_PC (R93). -/
def kTileFaultPc : RegKind := ⟨.die, 0x100020, 0x1000, 272⟩
/-- TILE_CNT_CTRL (R93). -/
def kTileCntCtrl : RegKind := ⟨.die, 0x100040, 0x1000, 272⟩
/-- TILE_CNT_ISSUE (R93). -/
def kTileCntIssue : RegKind := ⟨.die, 0x100048, 0x1000, 272⟩
/-- TILE_CNT_STEPS (R93). -/
def kTileCntSteps : RegKind := ⟨.die, 0x100050, 0x1000, 272⟩
/-- TILE_CNT_ROTATE (R93). -/
def kTileCntRotate : RegKind := ⟨.die, 0x100058, 0x1000, 272⟩
/-- TILE_CNT_PARK (R93). -/
def kTileCntPark : RegKind := ⟨.die, 0x100060, 0x1000, 272⟩
/-- TILE_CNT_BARRIER (R93). -/
def kTileCntBarrier : RegKind := ⟨.die, 0x100068, 0x1000, 272⟩
/-- MESH_STATUS (R195). -/
def kMeshStatus : RegKind := ⟨.die, 0x10000, 0x0, 1⟩
/-- MESH_SLOTS (R195). -/
def kMeshSlots : RegKind := ⟨.die, 0x10008, 0x0, 1⟩
/-- MESH_REPAIRn (R195). -/
def kMeshRepair : RegKind := ⟨.die, 0x10010, 0x8, 2⟩
/-- MESH_DEADn (R195). -/
def kMeshDead : RegKind := ⟨.die, 0x10040, 0x8, 5⟩
/-- MESH_CNT_CTRL (R195). -/
def kMeshCntCtrl : RegKind := ⟨.die, 0x10080, 0x0, 1⟩
/-- MESH_CNT_RETRY (R195). -/
def kMeshCntRetry : RegKind := ⟨.die, 0x10088, 0x0, 1⟩
/-- LACE_STATUS (R195). -/
def kLaceStatus : RegKind := ⟨.die, 0x10100, 0x0, 1⟩
/-- LACE_DELAY (R195). -/
def kLaceDelay : RegKind := ⟨.die, 0x10108, 0x0, 1⟩
/-- MESH_DISTn (R195). -/
def kMeshDist : RegKind := ⟨.die, 0x14000, 0x8, 5168⟩
/-- WELT_ID (R196). -/
def kWeltId : RegKind := ⟨.die, 0x60000, 0x1000, 4⟩
/-- WELT_MODE (R196). -/
def kWeltMode : RegKind := ⟨.die, 0x60008, 0x1000, 4⟩
/-- WELT_OWNER (R196). -/
def kWeltOwner : RegKind := ⟨.die, 0x60010, 0x1000, 4⟩
/-- WELT_SPARES (R196). -/
def kWeltSpares : RegKind := ⟨.die, 0x60020, 0x1000, 4⟩
/-- WELT_LACE (R196). -/
def kWeltLace : RegKind := ⟨.die, 0x60028, 0x1000, 4⟩
/-- WELT_REPAIR_LOG (R196). -/
def kWeltRepairLog : RegKind := ⟨.die, 0x60030, 0x1000, 4⟩
/-- WELT_CNT_CTRL (R196). -/
def kWeltCntCtrl : RegKind := ⟨.die, 0x60040, 0x1000, 4⟩
/-- WELT_CNT_REPLAY (R196). -/
def kWeltCntReplay : RegKind := ⟨.die, 0x60048, 0x1000, 4⟩
/-- WELT_CNT_REPAIR (R196). -/
def kWeltCntRepair : RegKind := ⟨.die, 0x60050, 0x1000, 4⟩
/-- L2_CNT_CTRL (R223). -/
def kL2CntCtrl : RegKind := ⟨.die, 0x20000, 0x1000, 2⟩
/-- L2_CNT_HIT (R223). -/
def kL2CntHit : RegKind := ⟨.die, 0x20008, 0x1000, 2⟩
/-- L2_CNT_MISS (R223). -/
def kL2CntMiss : RegKind := ⟨.die, 0x20010, 0x1000, 2⟩
/-- L2_CNT_PEER (R223). -/
def kL2CntPeer : RegKind := ⟨.die, 0x20018, 0x1000, 2⟩
/-- L2_CNT_VICTIM (R223). -/
def kL2CntVictim : RegKind := ⟨.die, 0x20020, 0x1000, 2⟩
/-- L2_CNT_MERGE (R223). -/
def kL2CntMerge : RegKind := ⟨.die, 0x20028, 0x1000, 2⟩
/-- L2_CNT_INVAL (R223). -/
def kL2CntInval : RegKind := ⟨.die, 0x20030, 0x1000, 2⟩
/-- L2_OCC (R223). -/
def kL2Occ : RegKind := ⟨.die, 0x20038, 0x1000, 2⟩
/-- L3_CNT_CTRL (R224). -/
def kL3CntCtrl : RegKind := ⟨.die, 0x30000, 0x0, 1⟩
/-- L3_PIN_STATUS (R224). -/
def kL3PinStatus : RegKind := ⟨.die, 0x30008, 0x0, 1⟩
/-- L3_PART_SHAREp (R224). -/
def kL3PartShare : RegKind := ⟨.die, 0x30100, 0x8, 16⟩
/-- L3_PART_OCCp (R224). -/
def kL3PartOcc : RegKind := ⟨.die, 0x30180, 0x8, 16⟩
/-- L3_PART_REFUSEDp (R224). -/
def kL3PartRefused : RegKind := ⟨.die, 0x30200, 0x8, 16⟩
/-- L3_SL_HIT (R224). -/
def kL3SlHit : RegKind := ⟨.die, 0x31000, 0x100, 64⟩
/-- L3_SL_MISS (R224). -/
def kL3SlMiss : RegKind := ⟨.die, 0x31008, 0x100, 64⟩
/-- L3_SL_MERGE (R224). -/
def kL3SlMerge : RegKind := ⟨.die, 0x31010, 0x100, 64⟩
/-- L3_SL_WB (R224). -/
def kL3SlWb : RegKind := ⟨.die, 0x31018, 0x100, 64⟩
/-- L3_SL_BYPASS (R224). -/
def kL3SlBypass : RegKind := ⟨.die, 0x31020, 0x100, 64⟩
/-- L3_SL_MEMRED (R224). -/
def kL3SlMemred : RegKind := ⟨.die, 0x31028, 0x100, 64⟩
/-- L3_SL_OCC (R224). -/
def kL3SlOcc : RegKind := ⟨.die, 0x31030, 0x100, 64⟩
/-- FLT_LOST_A (R252). -/
def kFltLostA : RegKind := ⟨.dev, 0x280000, 0x10, 32768⟩
/-- FLT_LOST_B (R252). -/
def kFltLostB : RegKind := ⟨.dev, 0x280008, 0x10, 32768⟩
/-- DIR_STATUS (R255). -/
def kDirStatus : RegKind := ⟨.die, 0x40000, 0x0, 1⟩
/-- DIR_OCC (R255). -/
def kDirOcc : RegKind := ⟨.die, 0x40008, 0x0, 1⟩
/-- DIR_PEEK_CTRL (R255). -/
def kDirPeekCtrl : RegKind := ⟨.die, 0x40010, 0x0, 1⟩
/-- DIR_PEEK_DATA (R255). -/
def kDirPeekData : RegKind := ⟨.die, 0x40018, 0x0, 1⟩
/-- DIR_LOST_HEAD (R255). -/
def kDirLostHead : RegKind := ⟨.die, 0x40020, 0x0, 1⟩
/-- DIR_LOST_TAIL (R255). -/
def kDirLostTail : RegKind := ⟨.die, 0x40028, 0x0, 1⟩
/-- DIR_LOST_STATUS (R255). -/
def kDirLostStatus : RegKind := ⟨.die, 0x40030, 0x0, 1⟩
/-- DIR_CNT_CTRL (R255). -/
def kDirCntCtrl : RegKind := ⟨.die, 0x40080, 0x0, 1⟩
/-- DIR_CNT_EVICT (R255). -/
def kDirCntEvict : RegKind := ⟨.die, 0x40088, 0x0, 1⟩
/-- DIR_CNT_INV (R255). -/
def kDirCntInv : RegKind := ⟨.die, 0x40090, 0x0, 1⟩
/-- DIR_CNT_BISNP (R255). -/
def kDirCntBisnp : RegKind := ⟨.die, 0x40098, 0x0, 1⟩
/-- DIR_CNT_FWD (R255). -/
def kDirCntFwd : RegKind := ⟨.die, 0x400a0, 0x0, 1⟩
/-- DIR_CNT_FWDMISS (R255). -/
def kDirCntFwdmiss : RegKind := ⟨.die, 0x400a8, 0x0, 1⟩
/-- DIR_CNT_PROTO (R255). -/
def kDirCntProto : RegKind := ⟨.die, 0x400b0, 0x0, 1⟩
/-- DIR_CNT_STALE (R255). -/
def kDirCntStale : RegKind := ⟨.die, 0x400b8, 0x0, 1⟩
/-- DIR_CNT_WAIT (R255). -/
def kDirCntWait : RegKind := ⟨.die, 0x400c0, 0x0, 1⟩
/-- EYE_VALn (R281). -/
def kEyeVal : RegKind := ⟨.view, 0x100000, 0x10, 65536⟩
/-- EYE_CTLn (R281). -/
def kEyeCtl : RegKind := ⟨.view, 0x100008, 0x10, 65536⟩
/-- EYE_STATUS (R282). -/
def kEyeStatus : RegKind := ⟨.die, 0x90000, 0x0, 1⟩
/-- EYE_CNT_CTRL (R282). -/
def kEyeCntCtrl : RegKind := ⟨.die, 0x90080, 0x0, 1⟩
/-- EYE_CNT_ARRIVE (R282). -/
def kEyeCntArrive : RegKind := ⟨.die, 0x90088, 0x0, 1⟩
/-- EYE_CNT_OK (R282). -/
def kEyeCntOk : RegKind := ⟨.die, 0x90090, 0x0, 1⟩
/-- EYE_CNT_VOID (R282). -/
def kEyeCntVoid : RegKind := ⟨.die, 0x90098, 0x0, 1⟩
/-- DRAM_STATUS (R300). -/
def kDramStatus : RegKind := ⟨.die, 0x50000, 0x0, 1⟩
/-- DRAM_SCRUB (R300). -/
def kDramScrub : RegKind := ⟨.die, 0x50008, 0x0, 1⟩
/-- DRAM_CNT_CTRL (R300). -/
def kDramCntCtrl : RegKind := ⟨.die, 0x50010, 0x0, 1⟩
/-- DRAM_ERR_LOG_A (R300). -/
def kDramErrLogA : RegKind := ⟨.die, 0x50018, 0x0, 1⟩
/-- DRAM_ERR_LOG_B (R300). -/
def kDramErrLogB : RegKind := ⟨.die, 0x50020, 0x0, 1⟩
/-- DRAM_PPR (R300). -/
def kDramPpr : RegKind := ⟨.die, 0x50028, 0x0, 1⟩
/-- DRAM_CNT_CE (R300). -/
def kDramCntCe : RegKind := ⟨.die, 0x50030, 0x0, 1⟩
/-- DRAM_CNT_UE (R300). -/
def kDramCntUe : RegKind := ⟨.die, 0x50038, 0x0, 1⟩
/-- DRAM_CNT_ONDIE (R300). -/
def kDramCntOndie : RegKind := ⟨.die, 0x50040, 0x0, 1⟩
/-- DRAM_CH_CE (R300). -/
def kDramChCe : RegKind := ⟨.die, 0x51000, 0x40, 64⟩
/-- DRAM_CH_UE (R300). -/
def kDramChUe : RegKind := ⟨.die, 0x51008, 0x40, 64⟩
/-- DRAM_CH_REFRESH (R300). -/
def kDramChRefresh : RegKind := ⟨.die, 0x51010, 0x40, 64⟩
/-- UCI_HOST_ID (R324). -/
def kUciHostId : RegKind := ⟨.dev, 0x400000, 0x0, 1⟩
/-- UCI_STATUS (R324). -/
def kUciStatus : RegKind := ⟨.dev, 0x400008, 0x0, 1⟩
/-- UCI_MODk (R324). -/
def kUciMod : RegKind := ⟨.dev, 0x400100, 0x8, 8⟩
/-- UCI_CNT_CTRL (R324). -/
def kUciCntCtrl : RegKind := ⟨.dev, 0x400040, 0x0, 1⟩
/-- UCI_CNT_REPLAY (R324). -/
def kUciCntReplay : RegKind := ⟨.dev, 0x400048, 0x0, 1⟩
/-- UCI_CNT_UNSUP (R324). -/
def kUciCntUnsup : RegKind := ⟨.dev, 0x400050, 0x0, 1⟩
/-- UCI_CNT_MEMERR (R324). -/
def kUciCntMemerr : RegKind := ⟨.dev, 0x400058, 0x0, 1⟩
/-- PART_STATUS (R326). -/
def kPartStatus : RegKind := ⟨.view, 0x0, 0x0, 1⟩
/-- PART_EVENT (R326). -/
def kPartEvent : RegKind := ⟨.view, 0x8, 0x0, 1⟩
/-- PART_SQ_BASEk (R326). -/
def kPartSqBase : RegKind := ⟨.view, 0x100, 0x20, 16⟩
/-- PART_SQ_CFGk (R326). -/
def kPartSqCfg : RegKind := ⟨.view, 0x108, 0x20, 16⟩
/-- PART_SQ_STATUSk (R326). -/
def kPartSqStatus : RegKind := ⟨.view, 0x110, 0x20, 16⟩
/-- PART_SQ_CTRLk (R326). -/
def kPartSqCtrl : RegKind := ⟨.view, 0x118, 0x20, 16⟩
/-- PART_CQ_BASEk (R326). -/
def kPartCqBase : RegKind := ⟨.view, 0x400, 0x20, 16⟩
/-- PART_CQ_CFGk (R326). -/
def kPartCqCfg : RegKind := ⟨.view, 0x408, 0x20, 16⟩
/-- PART_CQ_STATUSk (R326). -/
def kPartCqStatus : RegKind := ⟨.view, 0x410, 0x20, 16⟩
/-- OUT_PORT_STATUS (R362). -/
def kOutPortStatus : RegKind := ⟨.die, 0x70000, 0x1000, 2⟩
/-- OUT_PORT_CNT_CTRL (R362). -/
def kOutPortCntCtrl : RegKind := ⟨.die, 0x70008, 0x1000, 2⟩
/-- OUT_PORT_TX (R362). -/
def kOutPortTx : RegKind := ⟨.die, 0x70010, 0x1000, 2⟩
/-- OUT_PORT_RX (R362). -/
def kOutPortRx : RegKind := ⟨.die, 0x70018, 0x1000, 2⟩
/-- OUT_PORT_DROP (R362). -/
def kOutPortDrop : RegKind := ⟨.die, 0x70020, 0x1000, 2⟩
/-- OUT_PORT_STALE (R362). -/
def kOutPortStale : RegKind := ⟨.die, 0x70028, 0x1000, 2⟩
/-- OUT_PORT_PFC (R362). -/
def kOutPortPfc : RegKind := ⟨.die, 0x70030, 0x1000, 2⟩
/-- OUT_PORT_FEC (R362). -/
def kOutPortFec : RegKind := ⟨.die, 0x70038, 0x1000, 2⟩
/-- OUT_JOB_STATUS (R362). -/
def kOutJobStatus : RegKind := ⟨.dev, 0x878000, 0x0, 1⟩
/-- OUT_JOB_STITCH (R362). -/
def kOutJobStitch : RegKind := ⟨.dev, 0x878008, 0x0, 1⟩
/-- OUT_JOB_INC (R362). -/
def kOutJobInc : RegKind := ⟨.dev, 0x878038, 0x0, 1⟩
/-- OUT_PTP_STATUS (R362). -/
def kOutPtpStatus : RegKind := ⟨.dev, 0x878010, 0x0, 1⟩
/-- OUT_JOB_FREQ (R362). -/
def kOutJobFreq : RegKind := ⟨.dev, 0x878018, 0x0, 1⟩
/-- OUT_JOB_FAULT (R362). -/
def kOutJobFault : RegKind := ⟨.dev, 0x878020, 0x0, 1⟩
/-- OUT_QP_PEEK_CTRL (R362). -/
def kOutQpPeekCtrl : RegKind := ⟨.dev, 0x878028, 0x0, 1⟩
/-- OUT_QP_PEEK_DATA (R362). -/
def kOutQpPeekData : RegKind := ⟨.dev, 0x878030, 0x0, 1⟩
/-- OUT_JOB_CNT_CTRL (R362). -/
def kOutJobCntCtrl : RegKind := ⟨.dev, 0x878080, 0x0, 1⟩
/-- OUT_JOB_CNT_BARRIER (R362). -/
def kOutJobCntBarrier : RegKind := ⟨.dev, 0x878088, 0x0, 1⟩
/-- OUT_JOB_CNT_FAILED (R362). -/
def kOutJobCntFailed : RegKind := ⟨.dev, 0x878090, 0x0, 1⟩
/-- PART_ACC_ISSUEDk (R388). -/
def kPartAccIssued : RegKind := ⟨.view, 0x1000, 0x40, 16⟩
/-- PART_ACC_WAIT_STk (R388). -/
def kPartAccWaitSt : RegKind := ⟨.view, 0x1008, 0x40, 16⟩
/-- PART_ACC_WAIT_NSk (R388). -/
def kPartAccWaitNs : RegKind := ⟨.view, 0x1010, 0x40, 16⟩
/-- PART_ACC_PREEMPTk (R388). -/
def kPartAccPreempt : RegKind := ⟨.view, 0x1018, 0x40, 16⟩
/-- PART_ACC_DONEk (R388). -/
def kPartAccDone : RegKind := ⟨.view, 0x1020, 0x40, 16⟩
/-- PART_ACC_FAILk (R388). -/
def kPartAccFail : RegKind := ⟨.view, 0x1028, 0x40, 16⟩
/-- PART_ACC_CTRL (R388). -/
def kPartAccCtrl : RegKind := ⟨.view, 0x1800, 0x0, 1⟩
/-- PM_CTRLp (R389). -/
def kPmCtrl : RegKind := ⟨.dev, 0x4000, 0x20, 16⟩
/-- PM_STATUSp (R389). -/
def kPmStatus : RegKind := ⟨.dev, 0x4008, 0x20, 16⟩
/-- PM_SAVEp (R389). -/
def kPmSave : RegKind := ⟨.dev, 0x4010, 0x20, 16⟩
/-- PM_SAVE_LENp (R389). -/
def kPmSaveLen : RegKind := ⟨.dev, 0x4018, 0x20, 16⟩
/-- FLT_REC_A (R410). -/
def kFltRecA : RegKind := ⟨.dev, 0x210000, 0x20, 1024⟩
/-- FLT_REC_B (R410). -/
def kFltRecB : RegKind := ⟨.dev, 0x210008, 0x20, 1024⟩
/-- FLT_REC_C (R410). -/
def kFltRecC : RegKind := ⟨.dev, 0x210010, 0x20, 1024⟩
/-- FLT_REC_D (R410). -/
def kFltRecD : RegKind := ⟨.dev, 0x210018, 0x20, 1024⟩
/-- FLT_EV_A (R413). -/
def kFltEvA : RegKind := ⟨.dev, 0x220000, 0x20, 8192⟩
/-- FLT_EV_B (R413). -/
def kFltEvB : RegKind := ⟨.dev, 0x220008, 0x20, 8192⟩
/-- FLT_EV_C (R413). -/
def kFltEvC : RegKind := ⟨.dev, 0x220010, 0x20, 8192⟩
/-- FLT_EV_D (R413). -/
def kFltEvD : RegKind := ⟨.dev, 0x220018, 0x20, 8192⟩
/-- FLT_STATUS (R417). -/
def kFltStatus : RegKind := ⟨.dev, 0x200000, 0x0, 1⟩
/-- FLT_ESC (R417). -/
def kFltEsc : RegKind := ⟨.dev, 0x200008, 0x0, 1⟩
/-- FLT_ESC_Tn (R417). -/
def kFltEscT : RegKind := ⟨.dev, 0x200010, 0x8, 3⟩
/-- FLT_REPLAY (R417). -/
def kFltReplay : RegKind := ⟨.dev, 0x200028, 0x0, 1⟩
/-- FLT_REC_HEAD (R417). -/
def kFltRecHead : RegKind := ⟨.dev, 0x200040, 0x0, 1⟩
/-- FLT_REC_TAIL (R417). -/
def kFltRecTail : RegKind := ⟨.dev, 0x200048, 0x0, 1⟩
/-- FLT_REC_STATUS (R417). -/
def kFltRecStatus : RegKind := ⟨.dev, 0x200050, 0x0, 1⟩
/-- FLT_EV_HEAD (R417). -/
def kFltEvHead : RegKind := ⟨.dev, 0x200060, 0x0, 1⟩
/-- FLT_EV_TAIL (R417). -/
def kFltEvTail : RegKind := ⟨.dev, 0x200068, 0x0, 1⟩
/-- FLT_EV_STATUS (R417). -/
def kFltEvStatus : RegKind := ⟨.dev, 0x200070, 0x0, 1⟩
/-- FLT_RTS_ADDR (R417). -/
def kFltRtsAddr : RegKind := ⟨.dev, 0x200080, 0x0, 1⟩
/-- FLT_RTS_CTRL (R417). -/
def kFltRtsCtrl : RegKind := ⟨.dev, 0x200088, 0x0, 1⟩
/-- FLT_RTS_STATUS (R417). -/
def kFltRtsStatus : RegKind := ⟨.dev, 0x200090, 0x0, 1⟩
/-- FLT_RTS_CHAL (R417). -/
def kFltRtsChal : RegKind := ⟨.dev, 0x200098, 0x0, 1⟩
/-- PWR_CAP_SET (R444). -/
def kPwrCapSet : RegKind := ⟨.dev, 0x100000, 0x0, 1⟩
/-- PWR_FLOOR_SET (R444). -/
def kPwrFloorSet : RegKind := ⟨.dev, 0x100008, 0x0, 1⟩
/-- PWR_STATUS (R444). -/
def kPwrStatus : RegKind := ⟨.dev, 0x100010, 0x0, 1⟩
/-- PWR_BUDGET (R444). -/
def kPwrBudget : RegKind := ⟨.dev, 0x100018, 0x0, 1⟩
/-- PWR_THROTTLE (R444). -/
def kPwrThrottle : RegKind := ⟨.dev, 0x100020, 0x0, 1⟩
/-- PWR_CNT_CTRL (R444). -/
def kPwrCntCtrl : RegKind := ⟨.dev, 0x100028, 0x0, 1⟩
/-- PWR_THR_USr (R444). -/
def kPwrThrUs : RegKind := ⟨.dev, 0x100040, 0x8, 7⟩
/-- PWR_DIE_Ad (R444). -/
def kPwrDieA : RegKind := ⟨.dev, 0x100100, 0x10, 8⟩
/-- PWR_DIE_Bd (R444). -/
def kPwrDieB : RegKind := ⟨.dev, 0x100108, 0x10, 8⟩
/-- PWR_LABEL_CTRL (R444). -/
def kPwrLabelCtrl : RegKind := ⟨.dev, 0x100200, 0x0, 1⟩
/-- PWR_LABEL_DATA (R444). -/
def kPwrLabelData : RegKind := ⟨.dev, 0x100208, 0x0, 1⟩
/-- AWL_STATUS (R465). -/
def kAwlStatus : RegKind := ⟨.die, 0x80000, 0x0, 1⟩
/-- AWL_RESULT (R465). -/
def kAwlResult : RegKind := ⟨.die, 0x80008, 0x0, 1⟩
/-- AWL_SCRUB (R465). -/
def kAwlScrub : RegKind := ⟨.die, 0x80010, 0x0, 1⟩
/-- AWL_REPAIR (R465). -/
def kAwlRepair : RegKind := ⟨.die, 0x80018, 0x0, 1⟩
/-- AWL_FUSE (R465). -/
def kAwlFuse : RegKind := ⟨.die, 0x80020, 0x0, 1⟩
/-- AWL_POSk (R465). -/
def kAwlPos : RegKind := ⟨.die, 0x80100, 0x20, 7⟩
/-- AWL_PASSk (R465). -/
def kAwlPass : RegKind := ⟨.die, 0x80108, 0x20, 7⟩
/-- AWL_LASTk (R465). -/
def kAwlLast : RegKind := ⟨.die, 0x80110, 0x20, 7⟩
/-- AWL_TIMEk (R465). -/
def kAwlTime : RegKind := ⟨.die, 0x80118, 0x20, 7⟩
/-- AWL_CNT_CTRL (R465). -/
def kAwlCntCtrl : RegKind := ⟨.die, 0x80080, 0x0, 1⟩
/-- SEC_LC (R482). -/
def kSecLc : RegKind := ⟨.dev, 0x300000, 0x0, 1⟩
/-- SEC_SERIAL (R482). -/
def kSecSerial : RegKind := ⟨.dev, 0x300008, 0x0, 1⟩
/-- SEC_CHAL (R482). -/
def kSecChal : RegKind := ⟨.dev, 0x300010, 0x0, 1⟩
/-- SEC_FLOOR (R482). -/
def kSecFloor : RegKind := ⟨.dev, 0x300018, 0x0, 1⟩
/-- SEC_FW (R482). -/
def kSecFw : RegKind := ⟨.dev, 0x300020, 0x0, 1⟩
/-- SEC_VENDOR_HASHn (R482). -/
def kSecVendorHash : RegKind := ⟨.dev, 0x300040, 0x8, 4⟩
/-- SEC_OWNER_HASHn (R482). -/
def kSecOwnerHash : RegKind := ⟨.dev, 0x300060, 0x8, 4⟩
/-- SEC_CMD_ADDR (R482). -/
def kSecCmdAddr : RegKind := ⟨.dev, 0x300080, 0x0, 1⟩
/-- SEC_CMD_CTRL (R482). -/
def kSecCmdCtrl : RegKind := ⟨.dev, 0x300088, 0x0, 1⟩
/-- SEC_CMD_STATUS (R482). -/
def kSecCmdStatus : RegKind := ⟨.dev, 0x300090, 0x0, 1⟩
/-- SEC_FW_ADDR (R482). -/
def kSecFwAddr : RegKind := ⟨.dev, 0x3000a0, 0x0, 1⟩
/-- SEC_FW_LEN (R482). -/
def kSecFwLen : RegKind := ⟨.dev, 0x3000a8, 0x0, 1⟩
/-- SEC_FW_CTRL (R482). -/
def kSecFwCtrl : RegKind := ⟨.dev, 0x3000b0, 0x0, 1⟩
/-- DEV_PINS (R497). -/
def kDevPins : RegKind := ⟨.dev, 0x5000, 0x0, 1⟩
/-- DEV_START (R497). -/
def kDevStart : RegKind := ⟨.dev, 0x5008, 0x0, 1⟩
/-- PART_CFG_STATUS (R67). -/
def kPartCfgStatus : RegKind := ⟨.view, 0xf08, 0x0, 1⟩

/-- STCH_PERIOD.period_us: Stitch period in µs; 10 at power-up (R65). -/
def fStchPeriod_period_us : Fld := ⟨kStchPeriod.addr 0 0, 0, 7⟩
/-- STCH_SLACK.slack_permille: Slack window in ‰ of the period; 50 at power-up (R65). -/
def fStchSlack_slack_permille : Fld := ⟨kStchSlack.addr 0 0, 0, 8⟩
/-- STCH_SOURCE.source: Tick source (R25); 0 at power-up (R65). -/
def fStchSource_source : Fld := ⟨kStchSource.addr 0 0, 0, 2⟩
/-- STCH_CTRL.rearm: Write 1 to return from fallback to the source in STCH_SOURCE (R65). -/
def fStchCtrl_rearm : Fld := ⟨kStchCtrl.addr 0 0, 0, 1⟩
/-- STCH_COUNT.count: Stitch number; increments at each tick; 0 at power-up (R65). -/
def fStchCount_count : Fld := ⟨kStchCount.addr 0 0, 0, 64⟩
/-- STCH_PHASE.ns: ns since the last tick at CD0 (R65). -/
def fStchPhase_ns : Fld := ⟨kStchPhase.addr 0 0, 0, 24⟩
/-- STCH_PHASE.cycles: Arithmetic cycles since the last tick at CD0; at most 130,000, in a 100 µs stitch at 1.30 GHz (R65). -/
def fStchPhase_cycles : Fld := ⟨kStchPhase.addr 0 0, 24, 18⟩
/-- STCH_STATUS.tick_missed: An expected external edge was missed (R65). -/
def fStchStatus_tick_missed : Fld := ⟨kStchStatus.addr 0 0, 0, 1⟩
/-- STCH_STATUS.fallback: The generator runs on the internal source after R26 (R65). -/
def fStchStatus_fallback : Fld := ⟨kStchStatus.addr 0 0, 1, 1⟩
/-- STCH_STATUS.missed_count: Missed edges, saturating at 65,535; cleared by rearm (R65). -/
def fStchStatus_missed_count : Fld := ⟨kStchStatus.addr 0 0, 8, 16⟩
/-- STCH_STATUS.stray_edges: Edges outside the window, saturating at 65,535; cleared by rearm (R65). -/
def fStchStatus_stray_edges : Fld := ⟨kStchStatus.addr 0 0, 24, 16⟩
/-- STCH_STATUS.forced_low: The lowest state is forced in the current stitch (R65). -/
def fStchStatus_forced_low : Fld := ⟨kStchStatus.addr 0 0, 40, 1⟩
/-- LDR_ADDR.addr: Physical address of the image, bits 63:6; the image is 64-byte aligned (R66). -/
def fLdrAddr_addr : Fld := ⟨kLdrAddr.addr 0 0, 6, 58⟩
/-- LDR_LEN.len: Image length in bytes (R66). -/
def fLdrLen_len : Fld := ⟨kLdrLen.addr 0 0, 0, 32⟩
/-- LDR_CTRL.start: Begin a load (R54) (R66). -/
def fLdrCtrl_start : Fld := ⟨kLdrCtrl.addr 0 0, 0, 1⟩
/-- LDR_CTRL.apply: Apply the staged last (R54) (R66). -/
def fLdrCtrl_apply : Fld := ⟨kLdrCtrl.addr 0 0, 1, 1⟩
/-- LDR_CTRL.abort: Abort the load (R54) (R66). -/
def fLdrCtrl_abort : Fld := ⟨kLdrCtrl.addr 0 0, 2, 1⟩
/-- LDR_CTRL.host: 0 = device physical address; 1 = host physical address through CXL.cache (R66). -/
def fLdrCtrl_host : Fld := ⟨kLdrCtrl.addr 0 0, 8, 1⟩
/-- LDR_CTRL.auto_apply: 1 = apply on reaching STAGED (R66). -/
def fLdrCtrl_auto_apply : Fld := ⟨kLdrCtrl.addr 0 0, 9, 1⟩
/-- LDR_STATUS.state: 0 IDLE, 1 FETCH, 2 VERIFY, 3 DECODE, 4 STAGED, 5 APPLY_PENDING, 6 APPLIED, 7 REJECTED (R66). -/
def fLdrStatus_state : Fld := ⟨kLdrStatus.addr 0 0, 0, 4⟩
/-- LDR_STATUS.error: Error code (R53) (R66). -/
def fLdrStatus_error : Fld := ⟨kLdrStatus.addr 0 0, 8, 8⟩
/-- LDR_STATUS.check: Check code (R63) when error = AGREE (R66). -/
def fLdrStatus_check : Fld := ⟨kLdrStatus.addr 0 0, 16, 8⟩
/-- LDR_STATUS.busy_start: A start was ignored (R66). -/
def fLdrStatus_busy_start : Fld := ⟨kLdrStatus.addr 0 0, 24, 1⟩
/-- LDR_STATUS.kind: 1 device, 2 partition, 0 none (R66). -/
def fLdrStatus_kind : Fld := ⟨kLdrStatus.addr 0 0, 25, 3⟩
/-- LDR_STATUS.apply_ignored: An apply was written outside STAGED and ignored (R54) (R66). -/
def fLdrStatus_apply_ignored : Fld := ⟨kLdrStatus.addr 0 0, 28, 1⟩
/-- LDR_STATUS.partition: Partition index of a partition last (R66). -/
def fLdrStatus_partition : Fld := ⟨kLdrStatus.addr 0 0, 32, 4⟩
/-- LDR_SEQ_DEVICE.sequence: Sequence of the device last in force; 0 before the first (R66). -/
def fLdrSeqDevice_sequence : Fld := ⟨kLdrSeqDevice.addr 0 0, 0, 64⟩
/-- LDR_MEASn.hash: Bytes 8n to 8n + 7 of the measurement (R46) of the last verified, byte 8n in bits [7:0] and byte 8n + 7 in bits [63:56] (R6) (R66). -/
def fLdrMeas_hash (i : Nat) : Fld := ⟨kLdrMeas.addr 0 i, 0, 64⟩
/-- CFG_COMMIT.group: Group number to commit (R67). -/
def fCfgCommit_group : Fld := ⟨kCfgCommit.addr 0 0, 0, 8⟩
/-- CFG_COMMIT.go: 1 performs the commit; 0 does nothing (R67). -/
def fCfgCommit_go : Fld := ⟨kCfgCommit.addr 0 0, 8, 1⟩
/-- PART_COMMIT.go: 1 commits group 18 + p (R67). -/
def fPartCommit_go (p : Nat) : Fld := ⟨kPartCommit.addr p 0, 0, 1⟩
/-- CFG_STATUS.busy_write: A static field was written while its block ran (R11) (R67). -/
def fCfgStatus_busy_write : Fld := ⟨kCfgStatus.addr 0 0, 0, 1⟩
/-- CFG_STATUS.disagree: A commit failed its checks (R58) (R67). -/
def fCfgStatus_disagree : Fld := ⟨kCfgStatus.addr 0 0, 1, 1⟩
/-- CFG_STATUS.commit_refused: A commit was refused (R60) (R67). -/
def fCfgStatus_commit_refused : Fld := ⟨kCfgStatus.addr 0 0, 2, 1⟩
/-- CFG_STATUS.pending: An accepted commit awaits its tick (R67). -/
def fCfgStatus_pending : Fld := ⟨kCfgStatus.addr 0 0, 3, 1⟩
/-- CFG_STATUS.pending_group: Group of the pending commit (R67). -/
def fCfgStatus_pending_group : Fld := ⟨kCfgStatus.addr 0 0, 8, 8⟩
/-- CFG_STATUS.disagree_group: Group of the latest failed commit (R67). -/
def fCfgStatus_disagree_group : Fld := ⟨kCfgStatus.addr 0 0, 16, 8⟩
/-- CFG_STATUS.check: Check code (R63) of the latest failed commit (R67). -/
def fCfgStatus_check : Fld := ⟨kCfgStatus.addr 0 0, 24, 8⟩
/-- CFG_STATUS.busy_offset: Bits 31:3 of the BAR0 offset of the latest ignored static write, in bits 60:32 (R67). -/
def fCfgStatus_busy_offset : Fld := ⟨kCfgStatus.addr 0 0, 32, 32⟩
/-- CFG_APPLIED.stitch: STCH_COUNT at which the latest commit through CFG_COMMIT applied (R67). -/
def fCfgApplied_stitch : Fld := ⟨kCfgApplied.addr 0 0, 0, 64⟩
/-- TILE_ID.die: Die number, 0–7 (R93). -/
def fTileId_die (d i : Nat) : Fld := ⟨kTileId.addr d i, 0, 4⟩
/-- TILE_ID.x: Column, 0–16 (R93). -/
def fTileId_x (d i : Nat) : Fld := ⟨kTileId.addr d i, 4, 5⟩
/-- TILE_ID.y: Row, 0–15 (R93). -/
def fTileId_y (d i : Nat) : Fld := ⟨kTileId.addr d i, 9, 4⟩
/-- TILE_ID.site: Site index s = y × 17 + x (R93). -/
def fTileId_site (d i : Nat) : Fld := ⟨kTileId.addr d i, 13, 9⟩
/-- TILE_ID.device_site: die × 272 + s (R93). -/
def fTileId_device_site (d i : Nat) : Fld := ⟨kTileId.addr d i, 22, 12⟩
/-- TILE_ID.spare: 1 = a spare-column tile that replaces a site (R93). -/
def fTileId_spare (d i : Nat) : Fld := ⟨kTileId.addr d i, 34, 1⟩
/-- TILE_ID.replaces: Site index that this spare tile replaces; 0 when spare = 0 (R93). -/
def fTileId_replaces (d i : Nat) : Fld := ⟨kTileId.addr d i, 35, 9⟩
/-- TILE_STATE.state: 0 UNASSIGNED, 1 FREE, 2 PLACED, 3 RUNNING, 4 HELD (after an overrun or step fault, until the tick), 5 FENCED, 6 BORROWED (awl) (R93). -/
def fTileState_state (d i : Nat) : Fld := ⟨kTileState.addr d i, 0, 3⟩
/-- TILE_STATE.partition: Owning partition; 0 when unassigned (R93). -/
def fTileState_partition (d i : Nat) : Fld := ⟨kTileState.addr d i, 4, 4⟩
/-- TILE_STATE.assigned: 1 = the current device last gives the tile to a partition (R93). -/
def fTileState_assigned (d i : Nat) : Fld := ⟨kTileState.addr d i, 8, 1⟩
/-- TILE_STATE.groups_live: Groups with at least one live lane, 0–16 (R93). -/
def fTileState_groups_live (d i : Nat) : Fld := ⟨kTileState.addr d i, 9, 5⟩
/-- TILE_STATE.rank: Task rank (R87) of the current step, 0–2,047; 0 for a loose task (R93). -/
def fTileState_rank (d i : Nat) : Fld := ⟨kTileState.addr d i, 14, 11⟩
/-- TILE_STATE.step: Bits 31:0 of the tag of the current or latest step (R93). -/
def fTileState_step (d i : Nat) : Fld := ⟨kTileState.addr d i, 32, 32⟩
/-- TILE_SPLIT.l1_share: Level-1 share in units of 64 KiB, from PROGRAMS (R84); 0 when unassigned (R93). -/
def fTileSplit_l1_share (d i : Nat) : Fld := ⟨kTileSplit.addr d i, 0, 3⟩
/-- TILE_FAULT.code: Step fault code (R82) of the latest step fault (R93). -/
def fTileFault_code (d i : Nat) : Fld := ⟨kTileFault.addr d i, 0, 8⟩
/-- TILE_FAULT.group: Group that raised it (R93). -/
def fTileFault_group (d i : Nat) : Fld := ⟨kTileFault.addr d i, 8, 4⟩
/-- TILE_FAULT.lane: Lowest-numbered lane involved (R93). -/
def fTileFault_lane (d i : Nat) : Fld := ⟨kTileFault.addr d i, 12, 5⟩
/-- TILE_FAULT.valid: A step fault has been recorded since the bit was cleared (R93). -/
def fTileFault_valid (d i : Nat) : Fld := ⟨kTileFault.addr d i, 17, 1⟩
/-- TILE_FAULT_PC.pc: Byte offset into the code image of the faulting instruction (R93). -/
def fTileFaultPc_pc (d i : Nat) : Fld := ⟨kTileFaultPc.addr d i, 0, 32⟩
/-- TILE_FAULT_PC.stitch: Bits 31:0 of STCH_COUNT at the fault (R93). -/
def fTileFaultPc_stitch (d i : Nat) : Fld := ⟨kTileFaultPc.addr d i, 32, 32⟩
/-- TILE_CNT_CTRL.clear: 1 clears every TILE_CNT counter of the tile in the same cycle (R93). -/
def fTileCntCtrl_clear (d i : Nat) : Fld := ⟨kTileCntCtrl.addr d i, 0, 1⟩
/-- TILE_CNT_ISSUE.count: Group instructions issued (R93). -/
def fTileCntIssue_count (d i : Nat) : Fld := ⟨kTileCntIssue.addr d i, 0, 64⟩
/-- TILE_CNT_STEPS.count: Steps whose end instruction retired on this tile (R93). -/
def fTileCntSteps_count (d i : Nat) : Fld := ⟨kTileCntSteps.addr d i, 0, 64⟩
/-- TILE_CNT_ROTATE.count: Path moves made because a count reached 64 (R74) (R93). -/
def fTileCntRotate_count (d i : Nat) : Fld := ⟨kTileCntRotate.addr d i, 0, 64⟩
/-- TILE_CNT_PARK.count: Paths parked by the lock hint (R81) (R93). -/
def fTileCntPark_count (d i : Nat) : Fld := ⟨kTileCntPark.addr d i, 0, 64⟩
/-- TILE_CNT_BARRIER.count: Cycles in which at least one lane waited at a barrier (R93). -/
def fTileCntBarrier_count (d i : Nat) : Fld := ⟨kTileCntBarrier.addr d i, 0, 64⟩
/-- MESH_STATUS.dead_routers: Routers marked dead (R195). -/
def fMeshStatus_dead_routers (d : Nat) : Fld := ⟨kMeshStatus.addr d 0, 0, 9⟩
/-- MESH_STATUS.dead_links: Links marked dead, each direction counted once (R195). -/
def fMeshStatus_dead_links (d : Nat) : Fld := ⟨kMeshStatus.addr d 0, 9, 10⟩
/-- MESH_STATUS.route_epoch: Increments at each rewrite of the tables (R195). -/
def fMeshStatus_route_epoch (d : Nat) : Fld := ⟨kMeshStatus.addr d 0, 32, 32⟩
/-- MESH_SLOTS.slots: Slots in the current stitch (R173) (R195). -/
def fMeshSlots_slots (d : Nat) : Fld := ⟨kMeshSlots.addr d 0, 0, 12⟩
/-- MESH_REPAIRn.x: Column replaced by the spare tile of row 8n + k (R195). -/
def fMeshRepair_x (d i j : Nat) : Fld := ⟨kMeshRepair.addr d i, (0 + 8 * j), 4⟩
/-- MESH_REPAIRn.valid: 1 = that spare tile replaces a site (R195). -/
def fMeshRepair_valid (d i j : Nat) : Fld := ⟨kMeshRepair.addr d i, (7 + 8 * j), 1⟩
/-- MESH_DEADn.dead: Router of site 64n + b is dead (sites 0–271) (R195). -/
def fMeshDead_dead (d i j : Nat) : Fld := ⟨kMeshDead.addr d i, (0 + 1 * j), 1⟩
/-- MESH_CNT_CTRL.clear: 1 clears MESH_CNT_RETRY (R195). -/
def fMeshCntCtrl_clear (d : Nat) : Fld := ⟨kMeshCntCtrl.addr d 0, 0, 1⟩
/-- MESH_CNT_RETRY.count: Flits resent under R168 (R195). -/
def fMeshCntRetry_count (d : Nat) : Fld := ⟨kMeshCntRetry.addr d 0, 0, 64⟩
/-- LACE_STATUS.parent: 0 primary, 1 alternate, 2 local count (R192) (R195). -/
def fLaceStatus_parent (d : Nat) : Fld := ⟨kLaceStatus.addr d 0, 0, 2⟩
/-- LACE_STATUS.skew_ns: Arrival offset of the latest tick from nominal, two's complement (R195). -/
def fLaceStatus_skew_ns (d : Nat) : Fld := ⟨kLaceStatus.addr d 0, 8, 8⟩
/-- LACE_STATUS.switches: Parent changes since cold power-up, saturating (R195). -/
def fLaceStatus_switches (d : Nat) : Fld := ⟨kLaceStatus.addr d 0, 16, 16⟩
/-- LACE_DELAY.ns: Delay this die adds to its received tick (R195). -/
def fLaceDelay_ns (d : Nat) : Fld := ⟨kLaceDelay.addr d 0, 0, 8⟩
/-- MESH_DISTn.entries: Four distance entries (R179) (R195). -/
def fMeshDist_entries (d i : Nat) : Fld := ⟨kMeshDist.addr d i, 0, 64⟩
/-- WELT_ID.present: 1 = a welt joins this edge (R196). -/
def fWeltId_present (d i : Nat) : Fld := ⟨kWeltId.addr d i, 0, 1⟩
/-- WELT_ID.welt: Welt code (R171) (R196). -/
def fWeltId_welt (d i : Nat) : Fld := ⟨kWeltId.addr d i, 1, 4⟩
/-- WELT_ID.far_die: Die on the other side (R196). -/
def fWeltId_far_die (d i : Nat) : Fld := ⟨kWeltId.addr d i, 5, 3⟩
/-- WELT_MODE.mode: Group g: 0 disabled, 1 raw, 2 multiplexed, 3 failed (R189) (R196). -/
def fWeltMode_mode (d i j : Nat) : Fld := ⟨kWeltMode.addr d i, (0 + 2 * j), 2⟩
/-- WELT_OWNER.partition: Owner of group g in raw mode; 0 otherwise (R196). -/
def fWeltOwner_partition (d i j : Nat) : Fld := ⟨kWeltOwner.addr d i, (0 + 4 * j), 4⟩
/-- WELT_SPARES.used: Replacement spares in use in group g, 0–6 (R196). -/
def fWeltSpares_used (d i j : Nat) : Fld := ⟨kWeltSpares.addr d i, (0 + 4 * j), 4⟩
/-- WELT_LACE.tick_ok: Bit k = 1: tick lane k receives (R196). -/
def fWeltLace_tick_ok (d i : Nat) : Fld := ⟨kWeltLace.addr d i, 0, 2⟩
/-- WELT_LACE.spares_used: Lace spares in use, 0–2 (R196). -/
def fWeltLace_spares_used (d i : Nat) : Fld := ⟨kWeltLace.addr d i, 2, 2⟩
/-- WELT_REPAIR_LOG.group: Group of the latest repair (R196). -/
def fWeltRepairLog_group (d i : Nat) : Fld := ⟨kWeltRepairLog.addr d i, 0, 4⟩
/-- WELT_REPAIR_LOG.lane: Lane of the latest repair (R196). -/
def fWeltRepairLog_lane (d i : Nat) : Fld := ⟨kWeltRepairLog.addr d i, 4, 8⟩
/-- WELT_REPAIR_LOG.duration_us: Time from flag to retirement, in whole µs (R196). -/
def fWeltRepairLog_duration_us (d i : Nat) : Fld := ⟨kWeltRepairLog.addr d i, 12, 4⟩
/-- WELT_REPAIR_LOG.stitch: Bits 31:0 of STCH_COUNT at retirement (R196). -/
def fWeltRepairLog_stitch (d i : Nat) : Fld := ⟨kWeltRepairLog.addr d i, 32, 32⟩
/-- WELT_CNT_CTRL.clear: 1 clears both WELT_CNT counters of the window (R196). -/
def fWeltCntCtrl_clear (d i : Nat) : Fld := ⟨kWeltCntCtrl.addr d i, 0, 1⟩
/-- WELT_CNT_REPLAY.count: Flits resent under R183 (R196). -/
def fWeltCntReplay_count (d i : Nat) : Fld := ⟨kWeltCntReplay.addr d i, 0, 64⟩
/-- WELT_CNT_REPAIR.count: Lane repairs completed (R196). -/
def fWeltCntRepair_count (d i : Nat) : Fld := ⟨kWeltCntRepair.addr d i, 0, 64⟩
/-- L2_CNT_CTRL.clear: 1 clears every L2_CNT counter of the window in the same cycle (R223). -/
def fL2CntCtrl_clear (d i : Nat) : Fld := ⟨kL2CntCtrl.addr d i, 0, 1⟩
/-- L2_CNT_HIT.count: Requests that hit this half (R223). -/
def fL2CntHit_count (d i : Nat) : Fld := ⟨kL2CntHit.addr d i, 0, 64⟩
/-- L2_CNT_MISS.count: Requests that missed both halves (R223). -/
def fL2CntMiss_count (d i : Nat) : Fld := ⟨kL2CntMiss.addr d i, 0, 64⟩
/-- L2_CNT_PEER.count: Requests from this half that the other half served (R201) (R223). -/
def fL2CntPeer_count (d i : Nat) : Fld := ⟨kL2CntPeer.addr d i, 0, 64⟩
/-- L2_CNT_VICTIM.count: Level-1 victims taken in (R201) (R223). -/
def fL2CntVictim_count (d i : Nat) : Fld := ⟨kL2CntVictim.addr d i, 0, 64⟩
/-- L2_CNT_MERGE.count: Requests that joined an entry (R213) (R223). -/
def fL2CntMerge_count (d i : Nat) : Fld := ⟨kL2CntMerge.addr d i, 0, 64⟩
/-- L2_CNT_INVAL.count: Copies removed by writes (R202) or by coherence messages (R223). -/
def fL2CntInval_count (d i : Nat) : Fld := ⟨kL2CntInval.addr d i, 0, 64⟩
/-- L2_OCC.frames: Valid frames, 0–65,536 (R223). -/
def fL2Occ_frames (d i : Nat) : Fld := ⟨kL2Occ.addr d i, 0, 17⟩
/-- L2_OCC.bypass_sets: Sets that bypassed in the current stitch, saturating (R223). -/
def fL2Occ_bypass_sets (d i : Nat) : Fld := ⟨kL2Occ.addr d i, 32, 17⟩
/-- L3_CNT_CTRL.clear: 1 clears every L3_SL counter and L3_PART_REFUSEDp of the die in the same cycle (R224). -/
def fL3CntCtrl_clear (d : Nat) : Fld := ⟨kL3CntCtrl.addr d 0, 0, 1⟩
/-- L3_PIN_STATUS.pinned: Pinned frames on the die (R224). -/
def fL3PinStatus_pinned (d : Nat) : Fld := ⟨kL3PinStatus.addr d 0, 0, 18⟩
/-- L3_PIN_STATUS.max_set: Largest number of pinned frames in any set, 0–12 (R224). -/
def fL3PinStatus_max_set (d : Nat) : Fld := ⟨kL3PinStatus.addr d 0, 32, 4⟩
/-- L3_PIN_STATUS.held: Held frames on the die (R224). -/
def fL3PinStatus_held (d : Nat) : Fld := ⟨kL3PinStatus.addr d 0, 40, 17⟩
/-- L3_PART_SHAREp.way_share: way_share of partition p on this die (R216) (R224). -/
def fL3PartShare_way_share (d i : Nat) : Fld := ⟨kL3PartShare.addr d i, 0, 5⟩
/-- L3_PART_SHAREp.pin_share: pin_share of partition p on this die (R224). -/
def fL3PartShare_pin_share (d i : Nat) : Fld := ⟨kL3PartShare.addr d i, 8, 4⟩
/-- L3_PART_OCCp.frames: Frames that partition p occupies across the die's 64 slices (R224). -/
def fL3PartOcc_frames (d i : Nat) : Fld := ⟨kL3PartOcc.addr d i, 0, 21⟩
/-- L3_PART_OCCp.pinned: Frames that partition p has pinned (R224). -/
def fL3PartOcc_pinned (d i : Nat) : Fld := ⟨kL3PartOcc.addr d i, 32, 21⟩
/-- L3_PART_REFUSEDp.share_full: SHARE_FULL statuses (R218), saturating (R224). -/
def fL3PartRefused_share_full (d i : Nat) : Fld := ⟨kL3PartRefused.addr d i, 0, 32⟩
/-- L3_PART_REFUSEDp.no_frame: NO_FRAME statuses, saturating (R224). -/
def fL3PartRefused_no_frame (d i : Nat) : Fld := ⟨kL3PartRefused.addr d i, 32, 16⟩
/-- L3_PART_REFUSEDp.not_homed: NOT_HOMED statuses, saturating (R224). -/
def fL3PartRefused_not_homed (d i : Nat) : Fld := ⟨kL3PartRefused.addr d i, 48, 16⟩
/-- L3_SL_HIT.count: Requests that hit the slice (R224). -/
def fL3SlHit_count (d i : Nat) : Fld := ⟨kL3SlHit.addr d i, 0, 64⟩
/-- L3_SL_MISS.count: Requests that created a tracker entry (R224). -/
def fL3SlMiss_count (d i : Nat) : Fld := ⟨kL3SlMiss.addr d i, 0, 64⟩
/-- L3_SL_MERGE.count: Requests that joined an entry (R213) (R224). -/
def fL3SlMerge_count (d i : Nat) : Fld := ⟨kL3SlMerge.addr d i, 0, 64⟩
/-- L3_SL_WB.count: Dirty evictions, including drops under R212 (R224). -/
def fL3SlWb_count (d i : Nat) : Fld := ⟨kL3SlWb.addr d i, 0, 64⟩
/-- L3_SL_BYPASS.count: Accesses that bypassed (R215) (R224). -/
def fL3SlBypass_count (d i : Nat) : Fld := ⟨kL3SlBypass.addr d i, 0, 64⟩
/-- L3_SL_MEMRED.count: Reductions and atomics forwarded to the DRAM-controller ALU (R220) (R224). -/
def fL3SlMemred_count (d i : Nat) : Fld := ⟨kL3SlMemred.addr d i, 0, 64⟩
/-- L3_SL_OCC.frames: Valid frames, 0–4,096 (R224). -/
def fL3SlOcc_frames (d i : Nat) : Fld := ⟨kL3SlOcc.addr d i, 0, 13⟩
/-- L3_SL_OCC.shared_frames: Frames that hold two or more fine lines (R224). -/
def fL3SlOcc_shared_frames (d i : Nat) : Fld := ⟨kL3SlOcc.addr d i, 16, 13⟩
/-- L3_SL_OCC.bulk_frames: Frames that belong to bulk lines (R224). -/
def fL3SlOcc_bulk_frames (d i : Nat) : Fld := ⟨kL3SlOcc.addr d i, 32, 13⟩
/-- FLT_LOST_A.address: Device physical address of the line (R252). -/
def fFltLostA_address (i : Nat) : Fld := ⟨kFltLostA.addr 0 i, 0, 41⟩
/-- FLT_LOST_A.bulk: 1 = bulk line (R252). -/
def fFltLostA_bulk (i : Nat) : Fld := ⟨kFltLostA.addr 0 i, 41, 1⟩
/-- FLT_LOST_A.partition: Partition of the line's page (R252). -/
def fFltLostA_partition (i : Nat) : Fld := ⟨kFltLostA.addr 0 i, 42, 4⟩
/-- FLT_LOST_A.no_partition: 1 = the line lies in no PAGES entry (R252). -/
def fFltLostA_no_partition (i : Nat) : Fld := ⟨kFltLostA.addr 0 i, 46, 1⟩
/-- FLT_LOST_A.agent: Dead agent; 16 for the host (R252). -/
def fFltLostA_agent (i : Nat) : Fld := ⟨kFltLostA.addr 0 i, 47, 5⟩
/-- FLT_LOST_A.valid: 1 = the record has been written since cold power-up (R252). -/
def fFltLostA_valid (i : Nat) : Fld := ⟨kFltLostA.addr 0 i, 52, 1⟩
/-- FLT_LOST_B.sequence: The die's lost-line count before this line, from 0 at cold power-up (R252). -/
def fFltLostB_sequence (i : Nat) : Fld := ⟨kFltLostB.addr 0 i, 0, 32⟩
/-- FLT_LOST_B.stitch: Bits 31:0 of STCH_COUNT at the reclaim (R252). -/
def fFltLostB_stitch (i : Nat) : Fld := ⟨kFltLostB.addr 0 i, 32, 32⟩
/-- DIR_STATUS.dead_mask: Bit n = agent n is declared dead (R250) (R255). -/
def fDirStatus_dead_mask (d : Nat) : Fld := ⟨kDirStatus.addr d 0, 0, 17⟩
/-- DIR_STATUS.sweep: 1 = a reclaim sweep is running on the die (R255). -/
def fDirStatus_sweep (d : Nat) : Fld := ⟨kDirStatus.addr d 0, 17, 1⟩
/-- DIR_OCC.entries: Valid entries, 0–1,048,576 (R255). -/
def fDirOcc_entries (d : Nat) : Fld := ⟨kDirOcc.addr d 0, 0, 21⟩
/-- DIR_OCC.transient: Entries in C or F (R255). -/
def fDirOcc_transient (d : Nat) : Fld := ⟨kDirOcc.addr d 0, 32, 21⟩
/-- DIR_PEEK_CTRL.slice: Slice of the entry to sample (R255). -/
def fDirPeekCtrl_slice (d : Nat) : Fld := ⟨kDirPeekCtrl.addr d 0, 0, 6⟩
/-- DIR_PEEK_CTRL.set: Set, 0–1,023 (R255). -/
def fDirPeekCtrl_set (d : Nat) : Fld := ⟨kDirPeekCtrl.addr d 0, 6, 10⟩
/-- DIR_PEEK_CTRL.way: Way, 0–15; a write samples the entry into DIR_PEEK_DATA (R255). -/
def fDirPeekCtrl_way (d : Nat) : Fld := ⟨kDirPeekCtrl.addr d 0, 16, 4⟩
/-- DIR_PEEK_DATA.entry: The sampled entry, in the layout of R228 (R255). -/
def fDirPeekData_entry (d : Nat) : Fld := ⟨kDirPeekData.addr d 0, 0, 64⟩
/-- DIR_LOST_HEAD.count: Records written since cold power-up (R253) (R255). -/
def fDirLostHead_count (d : Nat) : Fld := ⟨kDirLostHead.addr d 0, 0, 32⟩
/-- DIR_LOST_TAIL.count: Records consumed by software (R253) (R255). -/
def fDirLostTail_count (d : Nat) : Fld := ⟨kDirLostTail.addr d 0, 0, 32⟩
/-- DIR_LOST_STATUS.dropped: Records not written because the ring was full, saturating (R255). -/
def fDirLostStatus_dropped (d : Nat) : Fld := ⟨kDirLostStatus.addr d 0, 0, 32⟩
/-- DIR_LOST_STATUS.full: 1 = head is 4,096 ahead of tail (R255). -/
def fDirLostStatus_full (d : Nat) : Fld := ⟨kDirLostStatus.addr d 0, 32, 1⟩
/-- DIR_CNT_CTRL.clear: 1 clears every DIR_CNT counter of the die in the same cycle (R255). -/
def fDirCntCtrl_clear (d : Nat) : Fld := ⟨kDirCntCtrl.addr d 0, 0, 1⟩
/-- DIR_CNT_EVICT.count: Entries evicted under R229 (R255). -/
def fDirCntEvict_count (d : Nat) : Fld := ⟨kDirCntEvict.addr d 0, 0, 64⟩
/-- DIR_CNT_INV.count: Inv messages sent (R255). -/
def fDirCntInv_count (d : Nat) : Fld := ⟨kDirCntInv.addr d 0, 0, 64⟩
/-- DIR_CNT_BISNP.count: BInv and BDown messages sent (R255). -/
def fDirCntBisnp_count (d : Nat) : Fld := ⟨kDirCntBisnp.addr d 0, 0, 64⟩
/-- DIR_CNT_FWD.count: Fwd messages sent (R244) (R255). -/
def fDirCntFwd_count (d : Nat) : Fld := ⟨kDirCntFwd.addr d 0, 0, 64⟩
/-- DIR_CNT_FWDMISS.count: FwdMiss messages received (R255). -/
def fDirCntFwdmiss_count (d : Nat) : Fld := ⟨kDirCntFwdmiss.addr d 0, 0, 64⟩
/-- DIR_CNT_PROTO.count: Messages counted as protocol errors (R234, R239, R240) (R255). -/
def fDirCntProto_count (d : Nat) : Fld := ⟨kDirCntProto.addr d 0, 0, 64⟩
/-- DIR_CNT_STALE.count: Responses discarded under R237 at this die's halves (R255). -/
def fDirCntStale_count (d : Nat) : Fld := ⟨kDirCntStale.addr d 0, 0, 64⟩
/-- DIR_CNT_WAIT.count: Requests that waited on a transient entry (R232) (R255). -/
def fDirCntWait_count (d : Nat) : Fld := ⟨kDirCntWait.addr d 0, 0, 64⟩
/-- EYE_VALn.count: The count (R271) (R281). -/
def fEyeVal_count (p i : Nat) : Fld := ⟨kEyeVal.addr p i, 0, 63⟩
/-- EYE_VALn.void: The void flag (R281). -/
def fEyeVal_void (p i : Nat) : Fld := ⟨kEyeVal.addr p i, 63, 1⟩
/-- EYE_CTLn.value: With arm = 0, added to the count; with arm = 1, the new count (R281). -/
def fEyeCtl_value (p i : Nat) : Fld := ⟨kEyeCtl.addr p i, 0, 63⟩
/-- EYE_CTLn.arm: 1 = arm: set the count to value and clear void (R281). -/
def fEyeCtl_arm (p i : Nat) : Fld := ⟨kEyeCtl.addr p i, 63, 1⟩
/-- EYE_STATUS.waits: Waits pending on the die's eyelets (R282). -/
def fEyeStatus_waits (d : Nat) : Fld := ⟨kEyeStatus.addr d 0, 0, 18⟩
/-- EYE_STATUS.saturated: Eyelets voided by saturation (R271), saturating (R282). -/
def fEyeStatus_saturated (d : Nat) : Fld := ⟨kEyeStatus.addr d 0, 32, 16⟩
/-- EYE_CNT_CTRL.clear: 1 clears every EYE_CNT counter of the die in the same cycle (R282). -/
def fEyeCntCtrl_clear (d : Nat) : Fld := ⟨kEyeCntCtrl.addr d 0, 0, 1⟩
/-- EYE_CNT_ARRIVE.count: Arrivals and additions counted (R282). -/
def fEyeCntArrive_count (d : Nat) : Fld := ⟨kEyeCntArrive.addr d 0, 0, 64⟩
/-- EYE_CNT_OK.count: Waits that returned OK (R282). -/
def fEyeCntOk_count (d : Nat) : Fld := ⟨kEyeCntOk.addr d 0, 0, 64⟩
/-- EYE_CNT_VOID.count: Waits that returned VOID (R282). -/
def fEyeCntVoid_count (d : Nat) : Fld := ⟨kEyeCntVoid.addr d 0, 0, 64⟩
/-- DRAM_STATUS.refresh_fast: 1 = the stack refreshes at the faster rate (R291) (R300). -/
def fDramStatus_refresh_fast (d : Nat) : Fld := ⟨kDramStatus.addr d 0, 0, 1⟩
/-- DRAM_STATUS.max_temp_c: Highest sensor reading of the latest sample, in °C (R300). -/
def fDramStatus_max_temp_c (d : Nat) : Fld := ⟨kDramStatus.addr d 0, 8, 8⟩
/-- DRAM_STATUS.hottest_layer: Layer of that reading, 0–6 (R300). -/
def fDramStatus_hottest_layer (d : Nat) : Fld := ⟨kDramStatus.addr d 0, 16, 3⟩
/-- DRAM_STATUS.fast_switches: Entries to the faster rate since cold power-up, saturating (R300). -/
def fDramStatus_fast_switches (d : Nat) : Fld := ⟨kDramStatus.addr d 0, 32, 32⟩
/-- DRAM_SCRUB.position: Next row-frame index q to scrub (R293) (R300). -/
def fDramScrub_position (d : Nat) : Fld := ⟨kDramScrub.addr d 0, 0, 21⟩
/-- DRAM_SCRUB.passes: Complete passes since cold power-up, saturating (R300). -/
def fDramScrub_passes (d : Nat) : Fld := ⟨kDramScrub.addr d 0, 32, 16⟩
/-- DRAM_CNT_CTRL.clear: 1 clears DRAM_CNT_CE, DRAM_CNT_UE, DRAM_CNT_ONDIE and every DRAM_CH counter of the die in the same cycle (R300). -/
def fDramCntCtrl_clear (d : Nat) : Fld := ⟨kDramCntCtrl.addr d 0, 0, 1⟩
/-- DRAM_ERR_LOG_A.offset: Bits 37:6 of the die offset of the latest uncorrectable unit (R300). -/
def fDramErrLogA_offset (d : Nat) : Fld := ⟨kDramErrLogA.addr d 0, 6, 32⟩
/-- DRAM_ERR_LOG_A.partition: Partition whose PAGES entry maps it (R300). -/
def fDramErrLogA_partition (d : Nat) : Fld := ⟨kDramErrLogA.addr d 0, 38, 4⟩
/-- DRAM_ERR_LOG_A.no_partition: 1 = the unit lies in no PAGES entry (R300). -/
def fDramErrLogA_no_partition (d : Nat) : Fld := ⟨kDramErrLogA.addr d 0, 42, 1⟩
/-- DRAM_ERR_LOG_A.detector: 0 fill, 1 copy, 2 reduction or atomic, 3 host, 4 partial write (R289), 5 scrub, 6 loader (R300). -/
def fDramErrLogA_detector (d : Nat) : Fld := ⟨kDramErrLogA.addr d 0, 43, 3⟩
/-- DRAM_ERR_LOG_A.valid: A unit has been logged since the bit was cleared (R300). -/
def fDramErrLogA_valid (d : Nat) : Fld := ⟨kDramErrLogA.addr d 0, 46, 1⟩
/-- DRAM_ERR_LOG_B.stitch: Bits 31:0 of STCH_COUNT when it was logged (R300). -/
def fDramErrLogB_stitch (d : Nat) : Fld := ⟨kDramErrLogB.addr d 0, 0, 32⟩
/-- DRAM_ERR_LOG_B.sequence: Uncorrectable units on the die before this one, from 0 at cold power-up (R300). -/
def fDramErrLogB_sequence (d : Nat) : Fld := ⟨kDramErrLogB.addr d 0, 32, 32⟩
/-- DRAM_PPR.candidates: Candidates on the die's repair list, 0–256 (R300). -/
def fDramPpr_candidates (d : Nat) : Fld := ⟨kDramPpr.addr d 0, 0, 9⟩
/-- DRAM_PPR.repaired_at_boot: Row-frames repaired at the latest cold power-up (R300). -/
def fDramPpr_repaired_at_boot (d : Nat) : Fld := ⟨kDramPpr.addr d 0, 9, 9⟩
/-- DRAM_PPR.unrepairable: Candidates whose bank has no spare left (R300). -/
def fDramPpr_unrepairable (d : Nat) : Fld := ⟨kDramPpr.addr d 0, 18, 9⟩
/-- DRAM_PPR.spares_used: Spare rows in use on the die since manufacture, 0–14,336 (R300). -/
def fDramPpr_spares_used (d : Nat) : Fld := ⟨kDramPpr.addr d 0, 27, 15⟩
/-- DRAM_PPR.list_full: A candidate found the list full (R295) (R300). -/
def fDramPpr_list_full (d : Nat) : Fld := ⟨kDramPpr.addr d 0, 42, 1⟩
/-- DRAM_CNT_CE.count: Units corrected by the controllers of the die (R300). -/
def fDramCntCe_count (d : Nat) : Fld := ⟨kDramCntCe.addr d 0, 0, 64⟩
/-- DRAM_CNT_UE.count: Uncorrectable units found, including by scrub (R300). -/
def fDramCntUe_count (d : Nat) : Fld := ⟨kDramCntUe.addr d 0, 0, 64⟩
/-- DRAM_CNT_ONDIE.count: Corrections reported by on-die correction (R300). -/
def fDramCntOndie_count (d : Nat) : Fld := ⟨kDramCntOndie.addr d 0, 0, 64⟩
/-- DRAM_CH_CE.count: Units corrected on the channel (R300). -/
def fDramChCe_count (d i : Nat) : Fld := ⟨kDramChCe.addr d i, 0, 64⟩
/-- DRAM_CH_UE.count: Uncorrectable units found on the channel (R300). -/
def fDramChUe_count (d i : Nat) : Fld := ⟨kDramChUe.addr d i, 0, 64⟩
/-- DRAM_CH_REFRESH.count: Refresh commands issued on the channel (R300). -/
def fDramChRefresh_count (d i : Nat) : Fld := ⟨kDramChRefresh.addr d i, 0, 64⟩
/-- UCI_HOST_ID.fitted: 1 = a qualified host die is fitted (R301) (R324). -/
def fUciHostId_fitted : Fld := ⟨kUciHostId.addr 0 0, 0, 1⟩
/-- UCI_HOST_ID.host_code: Code read from the site; 0 = none answered (R324). -/
def fUciHostId_host_code : Fld := ⟨kUciHostId.addr 0 0, 8, 8⟩
/-- UCI_HOST_ID.stepping: Stepping read from the host die (R324). -/
def fUciHostId_stepping : Fld := ⟨kUciHostId.addr 0 0, 16, 16⟩
/-- UCI_STATUS.link_up: 1 = all eight modules are active and the functions are enumerable (R324). -/
def fUciStatus_link_up : Fld := ⟨kUciStatus.addr 0 0, 0, 1⟩
/-- UCI_STATUS.active: Bit k = module Uk is active (R324). -/
def fUciStatus_active : Fld := ⟨kUciStatus.addr 0 0, 1, 8⟩
/-- UCI_STATUS.host_dead: Mirrors bit 16 of DIR_STATUS.dead_mask (R324). -/
def fUciStatus_host_dead : Fld := ⟨kUciStatus.addr 0 0, 9, 1⟩
/-- UCI_STATUS.training_failed: R303 (R324). -/
def fUciStatus_training_failed : Fld := ⟨kUciStatus.addr 0 0, 10, 1⟩
/-- UCI_STATUS.losses: Host link losses since cold power-up, saturating (R324). -/
def fUciStatus_losses : Fld := ⟨kUciStatus.addr 0 0, 32, 16⟩
/-- UCI_MODk.state: 0 DOWN, 1 TRAINING, 2 ACTIVE, 3 RETRAINING (R324). -/
def fUciMod_state (i : Nat) : Fld := ⟨kUciMod.addr 0 i, 0, 2⟩
/-- UCI_MODk.repaired: Lanes replaced by redundant lanes (R324). -/
def fUciMod_repaired (i : Nat) : Fld := ⟨kUciMod.addr 0 i, 2, 8⟩
/-- UCI_MODk.retrains: Retrains since cold power-up, saturating (R324). -/
def fUciMod_retrains (i : Nat) : Fld := ⟨kUciMod.addr 0 i, 16, 16⟩
/-- UCI_MODk.stitch: Bits 31:0 of STCH_COUNT at the latest state change (R324). -/
def fUciMod_stitch (i : Nat) : Fld := ⟨kUciMod.addr 0 i, 32, 32⟩
/-- UCI_CNT_CTRL.clear: 1 clears every UCI_CNT counter in the same cycle (R324). -/
def fUciCntCtrl_clear : Fld := ⟨kUciCntCtrl.addr 0 0, 0, 1⟩
/-- UCI_CNT_REPLAY.count: Flits replayed by the die-to-die adapters (R324). -/
def fUciCntReplay_count : Fld := ⟨kUciCntReplay.addr 0 0, 0, 64⟩
/-- UCI_CNT_UNSUP.count: Requests dropped under R308 (R324). -/
def fUciCntUnsup_count : Fld := ⟨kUciCntUnsup.addr 0 0, 0, 64⟩
/-- UCI_CNT_MEMERR.count: Host reads answered without data (R309) (R324). -/
def fUciCntMemerr_count : Fld := ⟨kUciCntMemerr.addr 0 0, 0, 64⟩
/-- PART_STATUS.state: 0 UNDEFINED, 1 PENDING, 2 ACTIVE, 3 FROZEN, 4 DRAINING (R326). -/
def fPartStatus_state (p : Nat) : Fld := ⟨kPartStatus.addr p 0, 0, 3⟩
/-- PART_STATUS.last_in_force: 1 = a partition last applies (R56) (R326). -/
def fPartStatus_last_in_force (p : Nat) : Fld := ⟨kPartStatus.addr p 0, 3, 1⟩
/-- PART_STATUS.generation: Current generation (R231) (R326). -/
def fPartStatus_generation (p : Nat) : Fld := ⟨kPartStatus.addr p 0, 16, 16⟩
/-- PART_EVENT.ring_error: A submission ring entered error (R316) (R326). -/
def fPartEvent_ring_error (p : Nat) : Fld := ⟨kPartEvent.addr p 0, 0, 1⟩
/-- PART_EVENT.job_fault: A job-fault event arrived, as "Outer ports and multi-device jobs" lays down (R326). -/
def fPartEvent_job_fault (p : Nat) : Fld := ⟨kPartEvent.addr p 0, 1, 1⟩
/-- PART_EVENT.torn_down: A teardown of the partition completed (R326). -/
def fPartEvent_torn_down (p : Nat) : Fld := ⟨kPartEvent.addr p 0, 2, 1⟩
/-- PART_SQ_BASEk.base: Partition address of the header, bits 63:6 (R326). -/
def fPartSqBase_base (p i : Nat) : Fld := ⟨kPartSqBase.addr p i, 6, 58⟩
/-- PART_SQ_CFGk.entries: 16–65,536, a power of two (R326). -/
def fPartSqCfg_entries (p i : Nat) : Fld := ⟨kPartSqCfg.addr p i, 0, 17⟩
/-- PART_SQ_CFGk.enable: 1 = the ring is read at each tick (R326). -/
def fPartSqCfg_enable (p i : Nat) : Fld := ⟨kPartSqCfg.addr p i, 17, 1⟩
/-- PART_SQ_STATUSk.state: 0 DISABLED, 1 ACTIVE, 2 ERROR (R326). -/
def fPartSqStatus_state (p i : Nat) : Fld := ⟨kPartSqStatus.addr p i, 0, 2⟩
/-- PART_SQ_STATUSk.error: Code of R316 (R326). -/
def fPartSqStatus_error (p i : Nat) : Fld := ⟨kPartSqStatus.addr p i, 4, 4⟩
/-- PART_SQ_STATUSk.consumer: Device's consumer index (R326). -/
def fPartSqStatus_consumer (p i : Nat) : Fld := ⟨kPartSqStatus.addr p i, 32, 32⟩
/-- PART_SQ_CTRLk.resume: 1 leaves ERROR at the next tick (R326). -/
def fPartSqCtrl_resume (p i : Nat) : Fld := ⟨kPartSqCtrl.addr p i, 0, 1⟩
/-- PART_CQ_BASEk.base: Partition address of the header, bits 63:6 (R326). -/
def fPartCqBase_base (p i : Nat) : Fld := ⟨kPartCqBase.addr p i, 6, 58⟩
/-- PART_CQ_CFGk.entries: 16–65,536, a power of two (R326). -/
def fPartCqCfg_entries (p i : Nat) : Fld := ⟨kPartCqCfg.addr p i, 0, 17⟩
/-- PART_CQ_CFGk.enable: 1 = the ring takes records (R326). -/
def fPartCqCfg_enable (p i : Nat) : Fld := ⟨kPartCqCfg.addr p i, 17, 1⟩
/-- PART_CQ_STATUSk.producer: Device's producer index (R326). -/
def fPartCqStatus_producer (p i : Nat) : Fld := ⟨kPartCqStatus.addr p i, 0, 32⟩
/-- PART_CQ_STATUSk.owed: Records of issued steps not yet written (R326). -/
def fPartCqStatus_owed (p i : Nat) : Fld := ⟨kPartCqStatus.addr p i, 32, 17⟩
/-- PART_CQ_STATUSk.bad_consumer: 1 = the consumer index read at the latest tick was out of range (R315) (R326). -/
def fPartCqStatus_bad_consumer (p i : Nat) : Fld := ⟨kPartCqStatus.addr p i, 49, 1⟩
/-- OUT_PORT_STATUS.link_up: 1 = the link is up (R362). -/
def fOutPortStatus_link_up (d i : Nat) : Fld := ⟨kOutPortStatus.addr d i, 0, 1⟩
/-- OUT_PORT_STATUS.preempt: 1 = 802.3br verification succeeded (R329) (R362). -/
def fOutPortStatus_preempt (d i : Nat) : Fld := ⟨kOutPortStatus.addr d i, 1, 1⟩
/-- OUT_PORT_STATUS.paused: Bit n = the partner pauses priority n (R362). -/
def fOutPortStatus_paused (d i : Nat) : Fld := ⟨kOutPortStatus.addr d i, 8, 8⟩
/-- OUT_PORT_STATUS.link_losses: Link losses since cold power-up, saturating (R362). -/
def fOutPortStatus_link_losses (d i : Nat) : Fld := ⟨kOutPortStatus.addr d i, 32, 16⟩
/-- OUT_PORT_CNT_CTRL.clear: 1 clears every OUT_PORT counter of the window in the same cycle (R362). -/
def fOutPortCntCtrl_clear (d i : Nat) : Fld := ⟨kOutPortCntCtrl.addr d i, 0, 1⟩
/-- OUT_PORT_TX.count: Frames sent (R362). -/
def fOutPortTx_count (d i : Nat) : Fld := ⟨kOutPortTx.addr d i, 0, 64⟩
/-- OUT_PORT_RX.count: Frames accepted (R362). -/
def fOutPortRx_count (d i : Nat) : Fld := ⟨kOutPortRx.addr d i, 0, 64⟩
/-- OUT_PORT_DROP.count: Frames dropped under R328, and for a bad FCS or ICRC (R362). -/
def fOutPortDrop_count (d i : Nat) : Fld := ⟨kOutPortDrop.addr d i, 0, 64⟩
/-- OUT_PORT_STALE.count: Frames dropped under R334 and R349 (R362). -/
def fOutPortStale_count (d i : Nat) : Fld := ⟨kOutPortStale.addr d i, 0, 64⟩
/-- OUT_PORT_PFC.received: Pause frames received, saturating (R362). -/
def fOutPortPfc_received (d i : Nat) : Fld := ⟨kOutPortPfc.addr d i, 0, 32⟩
/-- OUT_PORT_PFC.sent: Pause frames sent, saturating (R362). -/
def fOutPortPfc_sent (d i : Nat) : Fld := ⟨kOutPortPfc.addr d i, 32, 32⟩
/-- OUT_PORT_FEC.count: FEC codewords corrected (R362). -/
def fOutPortFec_count (d i : Nat) : Fld := ⟨kOutPortFec.addr d i, 0, 64⟩
/-- OUT_JOB_STATUS.job_id: Job of the member partition (R362). -/
def fOutJobStatus_job_id : Fld := ⟨kOutJobStatus.addr 0 0, 0, 16⟩
/-- OUT_JOB_STATUS.member: Member index (R362). -/
def fOutJobStatus_member : Fld := ⟨kOutJobStatus.addr 0 0, 16, 16⟩
/-- OUT_JOB_STATUS.partition: Member partition (R362). -/
def fOutJobStatus_partition : Fld := ⟨kOutJobStatus.addr 0 0, 32, 4⟩
/-- OUT_JOB_STATUS.role: 0 none, 1 manager, 2 worker (R362). -/
def fOutJobStatus_role : Fld := ⟨kOutJobStatus.addr 0 0, 36, 2⟩
/-- OUT_JOB_STATUS.state: 0 NONE, 1 JOINING, 2 MEMBER, 3 LEFT (R362). -/
def fOutJobStatus_state : Fld := ⟨kOutJobStatus.addr 0 0, 38, 2⟩
/-- OUT_JOB_STITCH.stitch: Current job stitch (R344) (R362). -/
def fOutJobStitch_stitch : Fld := ⟨kOutJobStitch.addr 0 0, 0, 64⟩
/-- OUT_JOB_INC.incarnation: This device's incarnation (R360) (R362). -/
def fOutJobInc_incarnation : Fld := ⟨kOutJobInc.addr 0 0, 0, 32⟩
/-- OUT_PTP_STATUS.locked: 1 = the servo follows a master, or the device is grandmaster (R362). -/
def fOutPtpStatus_locked : Fld := ⟨kOutPtpStatus.addr 0 0, 0, 1⟩
/-- OUT_PTP_STATUS.aligned: R344 (R362). -/
def fOutPtpStatus_aligned : Fld := ⟨kOutPtpStatus.addr 0 0, 1, 1⟩
/-- OUT_PTP_STATUS.offset_ns: Latest servo offset, two's complement (R362). -/
def fOutPtpStatus_offset_ns : Fld := ⟨kOutPtpStatus.addr 0 0, 8, 24⟩
/-- OUT_PTP_STATUS.unaligned_stitches: Stitches unaligned as a member, saturating (R362). -/
def fOutPtpStatus_unaligned_stitches : Fld := ⟨kOutPtpStatus.addr 0 0, 32, 16⟩
/-- OUT_JOB_FREQ.locked_mhz: Frequency set by the latest FREQ (R362). -/
def fOutJobFreq_locked_mhz : Fld := ⟨kOutJobFreq.addr 0 0, 0, 16⟩
/-- OUT_JOB_FREQ.own_mhz: Sustainable frequency in the latest REPORT (R362). -/
def fOutJobFreq_own_mhz : Fld := ⟨kOutJobFreq.addr 0 0, 16, 16⟩
/-- OUT_JOB_FREQ.missed: Epochs without FREQ, saturating (R362). -/
def fOutJobFreq_missed : Fld := ⟨kOutJobFreq.addr 0 0, 32, 16⟩
/-- OUT_JOB_FAULT.stitch: Bits 31:0 of the latest failed job stitch (R362). -/
def fOutJobFault_stitch : Fld := ⟨kOutJobFault.addr 0 0, 0, 32⟩
/-- OUT_JOB_FAULT.cause: Cause (R347) (R362). -/
def fOutJobFault_cause : Fld := ⟨kOutJobFault.addr 0 0, 32, 3⟩
/-- OUT_JOB_FAULT.member: Member named (R362). -/
def fOutJobFault_member : Fld := ⟨kOutJobFault.addr 0 0, 35, 16⟩
/-- OUT_JOB_FAULT.valid: A JOB_FAULT has arrived since the bit was cleared (R362). -/
def fOutJobFault_valid : Fld := ⟨kOutJobFault.addr 0 0, 51, 1⟩
/-- OUT_QP_PEEK_CTRL.partition: Partition of the queue pair (R362). -/
def fOutQpPeekCtrl_partition : Fld := ⟨kOutQpPeekCtrl.addr 0 0, 0, 4⟩
/-- OUT_QP_PEEK_CTRL.qp: Index; a write samples it into OUT_QP_PEEK_DATA (R362). -/
def fOutQpPeekCtrl_qp : Fld := ⟨kOutQpPeekCtrl.addr 0 0, 4, 12⟩
/-- OUT_QP_PEEK_DATA.state: 0 UNUSED, 1 READY, 2 ERROR (R362). -/
def fOutQpPeekData_state : Fld := ⟨kOutQpPeekData.addr 0 0, 0, 2⟩
/-- OUT_QP_PEEK_DATA.error: Code of R338 (R362). -/
def fOutQpPeekData_error : Fld := ⟨kOutQpPeekData.addr 0 0, 4, 4⟩
/-- OUT_QP_PEEK_DATA.psn: Next PSN to send (R362). -/
def fOutQpPeekData_psn : Fld := ⟨kOutQpPeekData.addr 0 0, 8, 24⟩
/-- OUT_QP_PEEK_DATA.qpn: QPN on the wire (R334) (R362). -/
def fOutQpPeekData_qpn : Fld := ⟨kOutQpPeekData.addr 0 0, 32, 24⟩
/-- OUT_JOB_CNT_CTRL.clear: 1 clears both OUT_JOB_CNT counters in the same cycle (R362). -/
def fOutJobCntCtrl_clear : Fld := ⟨kOutJobCntCtrl.addr 0 0, 0, 1⟩
/-- OUT_JOB_CNT_BARRIER.count: Job barrier instances completed (R362). -/
def fOutJobCntBarrier_count : Fld := ⟨kOutJobCntBarrier.addr 0 0, 0, 64⟩
/-- OUT_JOB_CNT_FAILED.count: JOB_FAULT frames received (R362). -/
def fOutJobCntFailed_count : Fld := ⟨kOutJobCntFailed.addr 0 0, 0, 64⟩
/-- PART_ACC_ISSUEDk.count: Steps issued (R375) (R388). -/
def fPartAccIssued_count (p i : Nat) : Fld := ⟨kPartAccIssued.addr p i, 0, 64⟩
/-- PART_ACC_WAIT_STk.stitches: Summed wait in stitches (R388). -/
def fPartAccWaitSt_stitches (p i : Nat) : Fld := ⟨kPartAccWaitSt.addr p i, 0, 64⟩
/-- PART_ACC_WAIT_NSk.ns: Summed wait in ns (R388). -/
def fPartAccWaitNs_ns (p i : Nat) : Fld := ⟨kPartAccWaitNs.addr p i, 0, 64⟩
/-- PART_ACC_PREEMPTk.count: Pre-emptions suffered (R374) (R388). -/
def fPartAccPreempt_count (p i : Nat) : Fld := ⟨kPartAccPreempt.addr p i, 0, 64⟩
/-- PART_ACC_DONEk.count: OK records (R388). -/
def fPartAccDone_count (p i : Nat) : Fld := ⟨kPartAccDone.addr p i, 0, 64⟩
/-- PART_ACC_FAILk.overruns: OVERRUN records, saturating (R388). -/
def fPartAccFail_overruns (p i : Nat) : Fld := ⟨kPartAccFail.addr p i, 0, 32⟩
/-- PART_ACC_FAILk.step_faults: STEP_FAULT records, saturating (R388). -/
def fPartAccFail_step_faults (p i : Nat) : Fld := ⟨kPartAccFail.addr p i, 32, 32⟩
/-- PART_ACC_CTRL.clear: 1 clears every PART_ACC counter of the partition in the same cycle (R388). -/
def fPartAccCtrl_clear (p : Nat) : Fld := ⟨kPartAccCtrl.addr p 0, 0, 1⟩
/-- PM_CTRLp.freeze: Request a freeze (R381) (R389). -/
def fPmCtrl_freeze (i : Nat) : Fld := ⟨kPmCtrl.addr 0 i, 0, 1⟩
/-- PM_CTRLp.thaw: Request a thaw (R387) (R389). -/
def fPmCtrl_thaw (i : Nat) : Fld := ⟨kPmCtrl.addr 0 i, 1, 1⟩
/-- PM_CTRLp.restore: Request a restore (R385) (R389). -/
def fPmCtrl_restore (i : Nat) : Fld := ⟨kPmCtrl.addr 0 i, 2, 1⟩
/-- PM_STATUSp.phase: 0 NONE, 1 FREEZE_PENDING, 2 SAVING, 3 FROZEN, 4 RESTORING, 5 THAW_PENDING (R389). -/
def fPmStatus_phase (i : Nat) : Fld := ⟨kPmStatus.addr 0 i, 0, 3⟩
/-- PM_STATUSp.error: 0 NONE, 1 STATE, 2 JOB, 3 SAVE_AREA, 4 TORN_DOWN, 5 INCOMPATIBLE, 6 MEMORY; set by the latest request (R389). -/
def fPmStatus_error (i : Nat) : Fld := ⟨kPmStatus.addr 0 i, 8, 4⟩
/-- PM_STATUSp.stitch: Bits 31:0 of STCH_COUNT at the latest phase change (R389). -/
def fPmStatus_stitch (i : Nat) : Fld := ⟨kPmStatus.addr 0 i, 32, 32⟩
/-- PM_SAVEp.addr: Partition address of the save area, bits 63:6 (R389). -/
def fPmSave_addr (i : Nat) : Fld := ⟨kPmSave.addr 0 i, 6, 58⟩
/-- PM_SAVE_LENp.bytes: Save area length for the partition in force (R383); 0 when UNDEFINED (R389). -/
def fPmSaveLen_bytes (i : Nat) : Fld := ⟨kPmSaveLen.addr 0 i, 0, 32⟩
/-- FLT_REC_A.cause: Cause code (R411) (R410). -/
def fFltRecA_cause (i : Nat) : Fld := ⟨kFltRecA.addr 0 i, 0, 8⟩
/-- FLT_REC_A.level: 0 logged, 1 tile fence, 2 partition teardown, 3 die recovery, 4 device recovery, 5 unit reset, 6 replay (R410). -/
def fFltRecA_level (i : Nat) : Fld := ⟨kFltRecA.addr 0 i, 8, 4⟩
/-- FLT_REC_A.unit_kind: 0 none, 1 tile, 2 router, 3 link, 4 slice, 5 DRAM controller, 6 level-2 half, 7 welt group, 8 welt, 9 UCIe, 10 queue pair, 11 die controller, 12 device (R410). -/
def fFltRecA_unit_kind (i : Nat) : Fld := ⟨kFltRecA.addr 0 i, 12, 4⟩
/-- FLT_REC_A.die: Die of the unit (R410). -/
def fFltRecA_die (i : Nat) : Fld := ⟨kFltRecA.addr 0 i, 16, 3⟩
/-- FLT_REC_A.unit: Site index, slice or channel number, half (0 north, 1 south), welt code × 16 + group, welt code, or module; 0 otherwise (R410). -/
def fFltRecA_unit (i : Nat) : Fld := ⟨kFltRecA.addr 0 i, 19, 9⟩
/-- FLT_REC_A.guilty: Guilty partition (R410). -/
def fFltRecA_guilty (i : Nat) : Fld := ⟨kFltRecA.addr 0 i, 28, 4⟩
/-- FLT_REC_A.guilty_valid: 1 = the fault is attributed to guilty (R410). -/
def fFltRecA_guilty_valid (i : Nat) : Fld := ⟨kFltRecA.addr 0 i, 32, 1⟩
/-- FLT_REC_A.affected: Bit p = partition p is torn down, fenced or held as a suspect because of the fault (R410). -/
def fFltRecA_affected (i : Nat) : Fld := ⟨kFltRecA.addr 0 i, 33, 16⟩
/-- FLT_REC_A.tile: Device site ID of the tile concerned (R410). -/
def fFltRecA_tile (i : Nat) : Fld := ⟨kFltRecA.addr 0 i, 49, 12⟩
/-- FLT_REC_A.tile_valid: 1 = tile holds a value (R410). -/
def fFltRecA_tile_valid (i : Nat) : Fld := ⟨kFltRecA.addr 0 i, 61, 1⟩
/-- FLT_REC_A.valid: 1 = the record has been written since cold power-up (R410). -/
def fFltRecA_valid (i : Nat) : Fld := ⟨kFltRecA.addr 0 i, 63, 1⟩
/-- FLT_REC_B.sequence: Fault records before this one since cold power-up (R410). -/
def fFltRecB_sequence (i : Nat) : Fld := ⟨kFltRecB.addr 0 i, 0, 32⟩
/-- FLT_REC_B.stitch: Bits 31:0 of STCH_COUNT at detection (R410). -/
def fFltRecB_stitch (i : Nat) : Fld := ⟨kFltRecB.addr 0 i, 32, 32⟩
/-- FLT_REC_C.ns: Time from tick at detection, at the detector's die (R410). -/
def fFltRecC_ns (i : Nat) : Fld := ⟨kFltRecC.addr 0 i, 0, 24⟩
/-- FLT_REC_C.generation: New generation of the guilty partition after teardown; 0 otherwise (R410). -/
def fFltRecC_generation (i : Nat) : Fld := ⟨kFltRecC.addr 0 i, 24, 16⟩
/-- FLT_REC_C.detail: Step fault code (R82), queue pair error code (R338), or link port and plane as in R176; 0 otherwise (R410). -/
def fFltRecC_detail (i : Nat) : Fld := ⟨kFltRecC.addr 0 i, 40, 8⟩
/-- FLT_REC_D.address: As R411 gives for the cause (R410). -/
def fFltRecD_address (i : Nat) : Fld := ⟨kFltRecD.addr 0 i, 0, 64⟩
/-- FLT_EV_A.source: Source (R414) (R413). -/
def fFltEvA_source (i : Nat) : Fld := ⟨kFltEvA.addr 0 i, 0, 8⟩
/-- FLT_EV_A.code: Event code (R415) (R413). -/
def fFltEvA_code (i : Nat) : Fld := ⟨kFltEvA.addr 0 i, 8, 8⟩
/-- FLT_EV_A.partition: Partition concerned (R413). -/
def fFltEvA_partition (i : Nat) : Fld := ⟨kFltEvA.addr 0 i, 16, 4⟩
/-- FLT_EV_A.partition_valid: 1 = partition holds a value (R413). -/
def fFltEvA_partition_valid (i : Nat) : Fld := ⟨kFltEvA.addr 0 i, 20, 1⟩
/-- FLT_EV_A.valid: 1 = the record has been written since cold power-up (R413). -/
def fFltEvA_valid (i : Nat) : Fld := ⟨kFltEvA.addr 0 i, 21, 1⟩
/-- FLT_EV_A.sequence: The source's sequence number (R413). -/
def fFltEvA_sequence (i : Nat) : Fld := ⟨kFltEvA.addr 0 i, 32, 32⟩
/-- FLT_EV_B.ns: Time from tick at the source (R413). -/
def fFltEvB_ns (i : Nat) : Fld := ⟨kFltEvB.addr 0 i, 0, 24⟩
/-- FLT_EV_B.stitch: Bits 31:0 of STCH_COUNT at the source (R413). -/
def fFltEvB_stitch (i : Nat) : Fld := ⟨kFltEvB.addr 0 i, 32, 32⟩
/-- FLT_EV_C.data0: As R415 gives (R413). -/
def fFltEvC_data0 (i : Nat) : Fld := ⟨kFltEvC.addr 0 i, 0, 64⟩
/-- FLT_EV_D.data1: As R415 gives (R413). -/
def fFltEvD_data1 (i : Nat) : Fld := ⟨kFltEvD.addr 0 i, 0, 64⟩
/-- FLT_STATUS.out_of_service: 1 = out of service (R407) (R417). -/
def fFltStatus_out_of_service : Fld := ⟨kFltStatus.addr 0 0, 0, 1⟩
/-- FLT_STATUS.dies_recovering: Bit d = die d is in recovery (R417). -/
def fFltStatus_dies_recovering : Fld := ⟨kFltStatus.addr 0 0, 1, 8⟩
/-- FLT_STATUS.device_recovering: 1 = a device recovery runs (R417). -/
def fFltStatus_device_recovering : Fld := ⟨kFltStatus.addr 0 0, 9, 1⟩
/-- FLT_STATUS.replaying: 1 = a replay runs (R417). -/
def fFltStatus_replaying : Fld := ⟨kFltStatus.addr 0 0, 10, 1⟩
/-- FLT_STATUS.coordinator: Die of the recovery coordinator (R398) (R417). -/
def fFltStatus_coordinator : Fld := ⟨kFltStatus.addr 0 0, 11, 3⟩
/-- FLT_STATUS.recoveries: Counted recoveries since cold power-up, saturating (R417). -/
def fFltStatus_recoveries : Fld := ⟨kFltStatus.addr 0 0, 32, 32⟩
/-- FLT_ESC.in_window: Counted recoveries in the latest 600 s, 0–3 (R417). -/
def fFltEsc_in_window : Fld := ⟨kFltEsc.addr 0 0, 0, 2⟩
/-- FLT_ESC.oos_entries: Entries into out of service since cold power-up (R417). -/
def fFltEsc_oos_entries : Fld := ⟨kFltEsc.addr 0 0, 16, 16⟩
/-- FLT_ESC_Tn.ms: Time of a counted recovery (R406), in ms of the module reference clock since power good (R488). FLT_ESC_T0 holds the most recent, FLT_ESC_T1 the one before it, and FLT_ESC_T2 the one before that; 0 for none (R417). -/
def fFltEscT_ms (i : Nat) : Fld := ⟨kFltEscT.addr 0 i, 0, 64⟩
/-- FLT_REPLAY.suspects: Suspects of the latest unit reset (R417). -/
def fFltReplay_suspects : Fld := ⟨kFltReplay.addr 0 0, 0, 16⟩
/-- FLT_REPLAY.current: Partition being replayed (R417). -/
def fFltReplay_current : Fld := ⟨kFltReplay.addr 0 0, 16, 4⟩
/-- FLT_REPLAY.active: 1 = a replay runs (R417). -/
def fFltReplay_active : Fld := ⟨kFltReplay.addr 0 0, 20, 1⟩
/-- FLT_REPLAY.unit_kind: As in FLT_REC_A (R417). -/
def fFltReplay_unit_kind : Fld := ⟨kFltReplay.addr 0 0, 21, 4⟩
/-- FLT_REPLAY.die: Die of the unit (R417). -/
def fFltReplay_die : Fld := ⟨kFltReplay.addr 0 0, 25, 3⟩
/-- FLT_REPLAY.unit: As in FLT_REC_A (R417). -/
def fFltReplay_unit : Fld := ⟨kFltReplay.addr 0 0, 28, 9⟩
/-- FLT_REC_HEAD.count: Records written since cold power-up (R409) (R417). -/
def fFltRecHead_count : Fld := ⟨kFltRecHead.addr 0 0, 0, 32⟩
/-- FLT_REC_TAIL.count: Records consumed by software (R417). -/
def fFltRecTail_count : Fld := ⟨kFltRecTail.addr 0 0, 0, 32⟩
/-- FLT_REC_STATUS.dropped: Records not written because the ring was full, saturating (R417). -/
def fFltRecStatus_dropped : Fld := ⟨kFltRecStatus.addr 0 0, 0, 32⟩
/-- FLT_REC_STATUS.full: 1 = head is 1,024 ahead of tail (R417). -/
def fFltRecStatus_full : Fld := ⟨kFltRecStatus.addr 0 0, 32, 1⟩
/-- FLT_EV_HEAD.count: Records written since cold power-up (R413) (R417). -/
def fFltEvHead_count : Fld := ⟨kFltEvHead.addr 0 0, 0, 32⟩
/-- FLT_EV_TAIL.count: Records consumed by software (R417). -/
def fFltEvTail_count : Fld := ⟨kFltEvTail.addr 0 0, 0, 32⟩
/-- FLT_EV_STATUS.dropped: Records not written because the ring was full, saturating (R417). -/
def fFltEvStatus_dropped : Fld := ⟨kFltEvStatus.addr 0 0, 0, 32⟩
/-- FLT_EV_STATUS.full: 1 = head is 8,192 ahead of tail (R417). -/
def fFltEvStatus_full : Fld := ⟨kFltEvStatus.addr 0 0, 32, 1⟩
/-- FLT_RTS_ADDR.addr: Address of the return-to-service image, bits 63:6 (R417). -/
def fFltRtsAddr_addr : Fld := ⟨kFltRtsAddr.addr 0 0, 6, 58⟩
/-- FLT_RTS_CTRL.go: 1 = check and apply the image (R408) (R417). -/
def fFltRtsCtrl_go : Fld := ⟨kFltRtsCtrl.addr 0 0, 0, 1⟩
/-- FLT_RTS_CTRL.host: 0 = device physical address; 1 = host physical address (R417). -/
def fFltRtsCtrl_host : Fld := ⟨kFltRtsCtrl.addr 0 0, 8, 1⟩
/-- FLT_RTS_STATUS.error: 0 NONE, 1 NOT_OOS, 2 MAGIC, 3 KEY, 4 SIGNATURE, 5 TARGET, 6 CHALLENGE, 7 FETCH (R417). -/
def fFltRtsStatus_error : Fld := ⟨kFltRtsStatus.addr 0 0, 0, 4⟩
/-- FLT_RTS_STATUS.busy: 1 = a command is being checked (R417). -/
def fFltRtsStatus_busy : Fld := ⟨kFltRtsStatus.addr 0 0, 4, 1⟩
/-- FLT_RTS_CHAL.challenge: Value drawn at the latest entry into out of service (R407) (R417). -/
def fFltRtsChal_challenge : Fld := ⟨kFltRtsChal.addr 0 0, 0, 64⟩
/-- PWR_CAP_SET.cap_w: Cap in W (R423); group PWR (R444). -/
def fPwrCapSet_cap_w : Fld := ⟨kPwrCapSet.addr 0 0, 0, 13⟩
/-- PWR_FLOOR_SET.floor_w: Floor per die in W (R426); group PWR (R444). -/
def fPwrFloorSet_floor_w : Fld := ⟨kPwrFloorSet.addr 0 0, 0, 10⟩
/-- PWR_STATUS.input_mv: Input voltage, latest sample (R444). -/
def fPwrStatus_input_mv : Fld := ⟨kPwrStatus.addr 0 0, 0, 16⟩
/-- PWR_STATUS.input_w: Input power, mean of the latest stitch (R444). -/
def fPwrStatus_input_w : Fld := ⟨kPwrStatus.addr 0 0, 16, 16⟩
/-- PWR_STATUS.forced_low: R434 in force (R444). -/
def fPwrStatus_forced_low : Fld := ⟨kPwrStatus.addr 0 0, 32, 1⟩
/-- PWR_STATUS.vr_alert: VR_ALERT raised (R444). -/
def fPwrStatus_vr_alert : Fld := ⟨kPwrStatus.addr 0 0, 33, 1⟩
/-- PWR_STATUS.brake: PWR_BRAKE_N low (R444). -/
def fPwrStatus_brake : Fld := ⟨kPwrStatus.addr 0 0, 34, 1⟩
/-- PWR_STATUS.thermtrip: THERMTRIP_N driven low (R444). -/
def fPwrStatus_thermtrip : Fld := ⟨kPwrStatus.addr 0 0, 35, 1⟩
/-- PWR_STATUS.overhead_w: Module overhead, latest stitch (R444). -/
def fPwrStatus_overhead_w : Fld := ⟨kPwrStatus.addr 0 0, 48, 16⟩
/-- PWR_BUDGET.credit_mj: Q (R424) (R444). -/
def fPwrBudget_credit_mj : Fld := ⟨kPwrBudget.addr 0 0, 0, 32⟩
/-- PWR_BUDGET.sustain_mhz: R432, latest epoch (R444). -/
def fPwrBudget_sustain_mhz : Fld := ⟨kPwrBudget.addr 0 0, 32, 16⟩
/-- PWR_BUDGET.budget_w: B for the current stitch (R444). -/
def fPwrBudget_budget_w : Fld := ⟨kPwrBudget.addr 0 0, 48, 16⟩
/-- PWR_THROTTLE.active: Bit r = reason r active (R438) (R444). -/
def fPwrThrottle_active : Fld := ⟨kPwrThrottle.addr 0 0, 0, 7⟩
/-- PWR_THROTTLE.seen: Bit r = reason r active since cleared (R444). -/
def fPwrThrottle_seen : Fld := ⟨kPwrThrottle.addr 0 0, 8, 7⟩
/-- PWR_CNT_CTRL.clear: 1 clears every PWR_THR_US counter in the same cycle (R444). -/
def fPwrCntCtrl_clear : Fld := ⟨kPwrCntCtrl.addr 0 0, 0, 1⟩
/-- PWR_THR_USr.us: Cumulative µs of reason r (R444). -/
def fPwrThrUs_us (i : Nat) : Fld := ⟨kPwrThrUs.addr 0 i, 0, 64⟩
/-- PWR_DIE_Ad.state: State code in force (R444). -/
def fPwrDieA_state (i : Nat) : Fld := ⟨kPwrDieA.addr 0 i, 0, 6⟩
/-- PWR_DIE_Ad.junction_c: Hottest junction, °C (R444). -/
def fPwrDieA_junction_c (i : Nat) : Fld := ⟨kPwrDieA.addr 0 i, 8, 8⟩
/-- PWR_DIE_Ad.dram_c: Hottest DRAM sensor, °C (R444). -/
def fPwrDieA_dram_c (i : Nat) : Fld := ⟨kPwrDieA.addr 0 i, 16, 8⟩
/-- PWR_DIE_Ad.trim_mv: trim_d (R435) (R444). -/
def fPwrDieA_trim_mv (i : Nat) : Fld := ⟨kPwrDieA.addr 0 i, 24, 8⟩
/-- PWR_DIE_Ad.power_w: Die power, latest stitch (R444). -/
def fPwrDieA_power_w (i : Nat) : Fld := ⟨kPwrDieA.addr 0 i, 32, 16⟩
/-- PWR_DIE_Ad.budget_w: Budget in force (R444). -/
def fPwrDieA_budget_w (i : Nat) : Fld := ⟨kPwrDieA.addr 0 i, 48, 16⟩
/-- PWR_DIE_Bd.demand_w: Latest demand (R425) (R444). -/
def fPwrDieB_demand_w (i : Nat) : Fld := ⟨kPwrDieB.addr 0 i, 0, 16⟩
/-- PWR_DIE_Bd.ageing_limit: Highest state allowed by R436 (R444). -/
def fPwrDieB_ageing_limit (i : Nat) : Fld := ⟨kPwrDieB.addr 0 i, 16, 6⟩
/-- PWR_DIE_Bd.ceiling: Thermal and current ceiling (R444). -/
def fPwrDieB_ceiling (i : Nat) : Fld := ⟨kPwrDieB.addr 0 i, 22, 6⟩
/-- PWR_DIE_Bd.holder: 0 none; r + 1 for the reason with the lowest r holding the die (R444). -/
def fPwrDieB_holder (i : Nat) : Fld := ⟨kPwrDieB.addr 0 i, 28, 4⟩
/-- PWR_DIE_Bd.core_a: Peak VCORE current, latest stitch (R444). -/
def fPwrDieB_core_a (i : Nat) : Fld := ⟨kPwrDieB.addr 0 i, 32, 16⟩
/-- PWR_DIE_Bd.grant_missed: Grants not received (R426), saturating (R444). -/
def fPwrDieB_grant_missed (i : Nat) : Fld := ⟨kPwrDieB.addr 0 i, 48, 16⟩
/-- PWR_LABEL_CTRL.die: Die to sample (R444). -/
def fPwrLabelCtrl_die : Fld := ⟨kPwrLabelCtrl.addr 0 0, 0, 3⟩
/-- PWR_LABEL_CTRL.label: Label; a write samples E[label] into PWR_LABEL_DATA (R444). -/
def fPwrLabelCtrl_label : Fld := ⟨kPwrLabelCtrl.addr 0 0, 3, 8⟩
/-- PWR_LABEL_DATA.nj: E[label] (R429) (R444). -/
def fPwrLabelData_nj : Fld := ⟨kPwrLabelData.addr 0 0, 0, 32⟩
/-- PWR_LABEL_DATA.updates: Updates since cold power-up, saturating (R444). -/
def fPwrLabelData_updates : Fld := ⟨kPwrLabelData.addr 0 0, 32, 32⟩
/-- AWL_STATUS.running: Bit k = a slice of kind k runs (R465). -/
def fAwlStatus_running (d : Nat) : Fld := ⟨kAwlStatus.addr d 0, 0, 7⟩
/-- AWL_STATUS.gated: 1 = R447 blocked the latest slack window (R465). -/
def fAwlStatus_gated (d : Nat) : Fld := ⟨kAwlStatus.addr d 0, 7, 1⟩
/-- AWL_RESULT.kind: Kind of the latest failed slice (R465). -/
def fAwlResult_kind (d : Nat) : Fld := ⟨kAwlResult.addr d 0, 0, 3⟩
/-- AWL_RESULT.unit: Its unit number (R446) (R465). -/
def fAwlResult_unit (d : Nat) : Fld := ⟨kAwlResult.addr d 0, 3, 15⟩
/-- AWL_RESULT.repair: 0 none needed, 1 soft repair, 2 no spare (R465). -/
def fAwlResult_repair (d : Nat) : Fld := ⟨kAwlResult.addr d 0, 18, 2⟩
/-- AWL_RESULT.valid: A failure has been recorded since the bit was cleared (R465). -/
def fAwlResult_valid (d : Nat) : Fld := ⟨kAwlResult.addr d 0, 20, 1⟩
/-- AWL_RESULT.stitch: Bits 31:0 of STCH_COUNT at the failure (R465). -/
def fAwlResult_stitch (d : Nat) : Fld := ⟨kAwlResult.addr d 0, 32, 32⟩
/-- AWL_SCRUB.deferred: Consecutive deferred windows, 0–256, on the channel nearest its limit (R465). -/
def fAwlScrub_deferred (d : Nat) : Fld := ⟨kAwlScrub.addr d 0, 0, 9⟩
/-- AWL_SCRUB.forced: Forced scrub windows on the die, saturating (R465). -/
def fAwlScrub_forced (d : Nat) : Fld := ⟨kAwlScrub.addr d 0, 32, 32⟩
/-- AWL_REPAIR.soft: Soft repairs since cold power-up (R465). -/
def fAwlRepair_soft (d : Nat) : Fld := ⟨kAwlRepair.addr d 0, 0, 16⟩
/-- AWL_REPAIR.exhausted: Failures with no spare left (R465). -/
def fAwlRepair_exhausted (d : Nat) : Fld := ⟨kAwlRepair.addr d 0, 16, 16⟩
/-- AWL_REPAIR.records: Soft-repair records in flash, 0–64 (R465). -/
def fAwlRepair_records (d : Nat) : Fld := ⟨kAwlRepair.addr d 0, 32, 7⟩
/-- AWL_REPAIR.list_full: R462 (R465). -/
def fAwlRepair_list_full (d : Nat) : Fld := ⟨kAwlRepair.addr d 0, 39, 1⟩
/-- AWL_FUSE.go: 1 = burn the die's soft repairs (R463) (R465). -/
def fAwlFuse_go (d : Nat) : Fld := ⟨kAwlFuse.addr d 0, 0, 1⟩
/-- AWL_FUSE.refused: A burn was refused in the current state (R465). -/
def fAwlFuse_refused (d : Nat) : Fld := ⟨kAwlFuse.addr d 0, 1, 1⟩
/-- AWL_FUSE.busy: 1 = a burn is in progress (R465). -/
def fAwlFuse_busy (d : Nat) : Fld := ⟨kAwlFuse.addr d 0, 2, 1⟩
/-- AWL_POSk.position: Next unit of kind k (R465). -/
def fAwlPos_position (d i : Nat) : Fld := ⟨kAwlPos.addr d i, 0, 15⟩
/-- AWL_POSk.population: Population of kind k on the die (R446) (R465). -/
def fAwlPos_population (d i : Nat) : Fld := ⟨kAwlPos.addr d i, 16, 15⟩
/-- AWL_POSk.passes: Completed passes, saturating (R465). -/
def fAwlPos_passes (d i : Nat) : Fld := ⟨kAwlPos.addr d i, 32, 32⟩
/-- AWL_PASSk.results: Results in the pass in progress (R465). -/
def fAwlPass_results (d i : Nat) : Fld := ⟨kAwlPass.addr d i, 0, 15⟩
/-- AWL_PASSk.deficit: Deficits in the pass in progress (R465). -/
def fAwlPass_deficit (d i : Nat) : Fld := ⟨kAwlPass.addr d i, 32, 15⟩
/-- AWL_LASTk.results: Results in the last complete pass (R465). -/
def fAwlLast_results (d i : Nat) : Fld := ⟨kAwlLast.addr d i, 0, 15⟩
/-- AWL_LASTk.failed: Failures in the last complete pass (R465). -/
def fAwlLast_failed (d i : Nat) : Fld := ⟨kAwlLast.addr d i, 16, 15⟩
/-- AWL_LASTk.deficit: Deficits in the last complete pass (R465). -/
def fAwlLast_deficit (d i : Nat) : Fld := ⟨kAwlLast.addr d i, 32, 15⟩
/-- AWL_TIMEk.ns: Total time in slices of kind k (R456) (R465). -/
def fAwlTime_ns (d i : Nat) : Fld := ⟨kAwlTime.addr d i, 0, 64⟩
/-- AWL_CNT_CTRL.clear: 1 clears every AWL_TIME counter in the same cycle (R465). -/
def fAwlCntCtrl_clear (d : Nat) : Fld := ⟨kAwlCntCtrl.addr d 0, 0, 1⟩
/-- SEC_LC.state: Code of R467 (R482). -/
def fSecLc_state : Fld := ⟨kSecLc.addr 0 0, 0, 3⟩
/-- SEC_LC.owner_hash_valid: 1 = an owner hash is fully burned (R482). -/
def fSecLc_owner_hash_valid : Fld := ⟨kSecLc.addr 0 0, 3, 1⟩
/-- SEC_LC.partial_owner_hash: R478 (R482). -/
def fSecLc_partial_owner_hash : Fld := ⟨kSecLc.addr 0 0, 4, 1⟩
/-- SEC_LC.transition: 1 = a transition runs (R477) (R482). -/
def fSecLc_transition : Fld := ⟨kSecLc.addr 0 0, 5, 1⟩
/-- SEC_LC.tap_full: 1 = the TAP offers every instruction (R469) (R482). -/
def fSecLc_tap_full : Fld := ⟨kSecLc.addr 0 0, 6, 1⟩
/-- SEC_SERIAL.serial: Device serial number (R482). -/
def fSecSerial_serial : Fld := ⟨kSecSerial.addr 0 0, 0, 64⟩
/-- SEC_CHAL.challenge: Current challenge (R476) (R482). -/
def fSecChal_challenge : Fld := ⟨kSecChal.addr 0 0, 0, 64⟩
/-- SEC_FLOOR.last_steps: Blown fuses of the last floor, 0–32 (R482). -/
def fSecFloor_last_steps : Fld := ⟨kSecFloor.addr 0 0, 0, 6⟩
/-- SEC_FLOOR.fw_steps: Blown fuses of the firmware floor, 0–32 (R482). -/
def fSecFloor_fw_steps : Fld := ⟨kSecFloor.addr 0 0, 8, 6⟩
/-- SEC_FW.bank: Running bank: 0 A, 1 B (R482). -/
def fSecFw_bank : Fld := ⟨kSecFw.addr 0 0, 0, 1⟩
/-- SEC_FW.fallback: 1 = the preferred bank failed at power-up (R482). -/
def fSecFw_fallback : Fld := ⟨kSecFw.addr 0 0, 1, 1⟩
/-- SEC_FW.busy: 1 = a stage is in progress (R482). -/
def fSecFw_busy : Fld := ⟨kSecFw.addr 0 0, 2, 1⟩
/-- SEC_FW.running_version: Security version of the running image (R482). -/
def fSecFw_running_version : Fld := ⟨kSecFw.addr 0 0, 8, 8⟩
/-- SEC_FW.staged_version: Security version of the other bank; 0 when it holds no valid image (R482). -/
def fSecFw_staged_version : Fld := ⟨kSecFw.addr 0 0, 16, 8⟩
/-- SEC_FW.stage_error: Code of R476, for the latest stage (R482). -/
def fSecFw_stage_error : Fld := ⟨kSecFw.addr 0 0, 24, 4⟩
/-- SEC_VENDOR_HASHn.hash: Bytes 8n to 8n + 7 of the vendor key hash, byte 8n in bits [7:0] and byte 8n + 7 in bits [63:56] (R6) (R482). -/
def fSecVendorHash_hash (i : Nat) : Fld := ⟨kSecVendorHash.addr 0 i, 0, 64⟩
/-- SEC_OWNER_HASHn.hash: Bytes 8n to 8n + 7 of the owner key hash, byte 8n in bits [7:0] and byte 8n + 7 in bits [63:56] (R6); 0 before OWNED (R482). -/
def fSecOwnerHash_hash (i : Nat) : Fld := ⟨kSecOwnerHash.addr 0 i, 0, 64⟩
/-- SEC_CMD_ADDR.addr: Address of the command image, bits 63:6 (R482). -/
def fSecCmdAddr_addr : Fld := ⟨kSecCmdAddr.addr 0 0, 6, 58⟩
/-- SEC_CMD_CTRL.go: 1 = check and apply the command (R482). -/
def fSecCmdCtrl_go : Fld := ⟨kSecCmdCtrl.addr 0 0, 0, 1⟩
/-- SEC_CMD_CTRL.host: 0 = device physical address; 1 = host physical address (R482). -/
def fSecCmdCtrl_host : Fld := ⟨kSecCmdCtrl.addr 0 0, 8, 1⟩
/-- SEC_CMD_STATUS.error: Code of R476 for the latest command (R482). -/
def fSecCmdStatus_error : Fld := ⟨kSecCmdStatus.addr 0 0, 0, 4⟩
/-- SEC_CMD_STATUS.busy: 1 = a command is being checked or applied (R482). -/
def fSecCmdStatus_busy : Fld := ⟨kSecCmdStatus.addr 0 0, 4, 1⟩
/-- SEC_CMD_STATUS.busy_go: A go was ignored (R482). -/
def fSecCmdStatus_busy_go : Fld := ⟨kSecCmdStatus.addr 0 0, 5, 1⟩
/-- SEC_FW_ADDR.addr: Address of the firmware image, bits 63:6 (R482). -/
def fSecFwAddr_addr : Fld := ⟨kSecFwAddr.addr 0 0, 6, 58⟩
/-- SEC_FW_LEN.len: Image length in bytes, at most 8 MiB (R482). -/
def fSecFwLen_len : Fld := ⟨kSecFwLen.addr 0 0, 0, 32⟩
/-- SEC_FW_CTRL.stage: 1 = stage the image (R472) (R482). -/
def fSecFwCtrl_stage : Fld := ⟨kSecFwCtrl.addr 0 0, 0, 1⟩
/-- SEC_FW_CTRL.host: As SEC_CMD_CTRL.host (R482). -/
def fSecFwCtrl_host : Fld := ⟨kSecFwCtrl.addr 0 0, 8, 1⟩
/-- DEV_PINS.brake_n: Level of PWR_BRAKE_N after the filter (R497). -/
def fDevPins_brake_n : Fld := ⟨kDevPins.addr 0 0, 0, 1⟩
/-- DEV_PINS.tick_in_seen: 1 = a valid LACE_TICK_IN edge arrived in the latest stitch (R497). -/
def fDevPins_tick_in_seen : Fld := ⟨kDevPins.addr 0 0, 1, 1⟩
/-- DEV_PINS.addr: SB_ADDR1:0 as sampled at power good (R497). -/
def fDevPins_addr : Fld := ⟨kDevPins.addr 0 0, 2, 2⟩
/-- DEV_PINS.fault_driven: 1 = the device drives FAULT_N low (R497). -/
def fDevPins_fault_driven : Fld := ⟨kDevPins.addr 0 0, 4, 1⟩
/-- DEV_PINS.thermtrip_driven: 1 = the device drives THERMTRIP_N low (R497). -/
def fDevPins_thermtrip_driven : Fld := ⟨kDevPins.addr 0 0, 5, 1⟩
/-- DEV_PINS.ready_high: 1 = the device drives READY high (R497). -/
def fDevPins_ready_high : Fld := ⟨kDevPins.addr 0 0, 6, 1⟩
/-- DEV_PINS.tick_out_on: 1 = LACE_TICK_OUT is driven (R497). -/
def fDevPins_tick_out_on : Fld := ⟨kDevPins.addr 0 0, 7, 1⟩
/-- DEV_START.firmware_ms: Time from power good to firmware acceptance, saturating (R497). -/
def fDevStart_firmware_ms : Fld := ⟨kDevStart.addr 0 0, 0, 16⟩
/-- DEV_START.dram_ms: Time from power good to DRAM initialised, saturating (R497). -/
def fDevStart_dram_ms : Fld := ⟨kDevStart.addr 0 0, 16, 16⟩
/-- DEV_START.ready_ms: Time from power good to READY, saturating (R497). -/
def fDevStart_ready_ms : Fld := ⟨kDevStart.addr 0 0, 32, 16⟩
/-- DEV_START.failed_stage: 0 none, 1 regulators, 2 firmware, 3 host die, 4 welts, 5 DRAM, 6 UCIe (R494) (R497). -/
def fDevStart_failed_stage : Fld := ⟨kDevStart.addr 0 0, 48, 3⟩
/-- PART_CFG_STATUS.busy_write: A static field was written while its block ran (R11) (R67). -/
def fPartCfgStatus_busy_write (p : Nat) : Fld := ⟨kPartCfgStatus.addr p 0, 0, 1⟩
/-- PART_CFG_STATUS.disagree: A commit failed its checks (R58) (R67). -/
def fPartCfgStatus_disagree (p : Nat) : Fld := ⟨kPartCfgStatus.addr p 0, 1, 1⟩
/-- PART_CFG_STATUS.commit_refused: A commit was refused (R60) (R67). -/
def fPartCfgStatus_commit_refused (p : Nat) : Fld := ⟨kPartCfgStatus.addr p 0, 2, 1⟩
/-- PART_CFG_STATUS.pending: An accepted commit awaits its tick (R67). -/
def fPartCfgStatus_pending (p : Nat) : Fld := ⟨kPartCfgStatus.addr p 0, 3, 1⟩
/-- PART_CFG_STATUS.pending_group: Group of the pending commit (R67). -/
def fPartCfgStatus_pending_group (p : Nat) : Fld := ⟨kPartCfgStatus.addr p 0, 8, 8⟩
/-- PART_CFG_STATUS.disagree_group: Group of the latest failed commit (R67). -/
def fPartCfgStatus_disagree_group (p : Nat) : Fld := ⟨kPartCfgStatus.addr p 0, 16, 8⟩
/-- PART_CFG_STATUS.check: Check code (R63) of the latest failed commit (R67). -/
def fPartCfgStatus_check (p : Nat) : Fld := ⟨kPartCfgStatus.addr p 0, 24, 8⟩
/-- PART_CFG_STATUS.busy_offset: Bits 31:3 of the BAR0 offset of the latest ignored static write, in bits 60:32 (R67). -/
def fPartCfgStatus_busy_offset (p : Nat) : Fld := ⟨kPartCfgStatus.addr p 0, 32, 32⟩

/-- The register table of R65. -/
def rowsR65 : List FieldRow := [
  ⟨kStchPeriod, 0, 7, .ro, .kept, .stitch, 10, 0, 1⟩,
  ⟨kStchSlack, 0, 8, .ro, .kept, .stitch, 50, 0, 1⟩,
  ⟨kStchSource, 0, 2, .ro, .kept, .stitch, 0, 0, 1⟩,
  ⟨kStchCtrl, 0, 1, .wo, .cold, .live, 0, 0, 1⟩,
  ⟨kStchCount, 0, 64, .ro, .kept, .live, 0, 0, 1⟩,
  ⟨kStchPhase, 0, 24, .ro, .kept, .live, 0, 0, 1⟩,
  ⟨kStchPhase, 24, 18, .ro, .kept, .live, 0, 0, 1⟩,
  ⟨kStchStatus, 0, 1, .w1c, .kept, .live, 0, 0, 1⟩,
  ⟨kStchStatus, 1, 1, .ro, .kept, .live, 0, 0, 1⟩,
  ⟨kStchStatus, 8, 16, .ro, .kept, .live, 0, 0, 1⟩,
  ⟨kStchStatus, 24, 16, .ro, .kept, .live, 0, 0, 1⟩,
  ⟨kStchStatus, 40, 1, .ro, .kept, .live, 0, 0, 1⟩]

/-- The register table of R66. -/
def rowsR66 : List FieldRow := [
  ⟨kLdrAddr, 6, 58, .rw, .cold, .static, 0, 0, 1⟩,
  ⟨kLdrLen, 0, 32, .rw, .cold, .static, 0, 0, 1⟩,
  ⟨kLdrCtrl, 0, 1, .wo, .cold, .live, 0, 0, 1⟩,
  ⟨kLdrCtrl, 1, 1, .wo, .cold, .live, 0, 0, 1⟩,
  ⟨kLdrCtrl, 2, 1, .wo, .cold, .live, 0, 0, 1⟩,
  ⟨kLdrCtrl, 8, 1, .rw, .cold, .static, 0, 0, 1⟩,
  ⟨kLdrCtrl, 9, 1, .rw, .cold, .static, 0, 0, 1⟩,
  ⟨kLdrStatus, 0, 4, .ro, .cold, .live, 0, 0, 1⟩,
  ⟨kLdrStatus, 8, 8, .ro, .cold, .live, 0, 0, 1⟩,
  ⟨kLdrStatus, 16, 8, .ro, .cold, .live, 0, 0, 1⟩,
  ⟨kLdrStatus, 24, 1, .w1c, .cold, .live, 0, 0, 1⟩,
  ⟨kLdrStatus, 25, 3, .ro, .cold, .live, 0, 0, 1⟩,
  ⟨kLdrStatus, 28, 1, .w1c, .cold, .live, 0, 0, 1⟩,
  ⟨kLdrStatus, 32, 4, .ro, .cold, .live, 0, 0, 1⟩,
  ⟨kLdrSeqDevice, 0, 64, .ro, .kept, .live, 0, 0, 1⟩,
  ⟨kLdrMeas, 0, 64, .ro, .cold, .live, 0, 0, 1⟩]

/-- The register table of R67. -/
def rowsR67 : List FieldRow := [
  ⟨kCfgCommit, 0, 8, .wo, .cold, .live, 0, 0, 1⟩,
  ⟨kCfgCommit, 8, 1, .wo, .cold, .live, 0, 0, 1⟩,
  ⟨kPartCommit, 0, 1, .wo, .teardown, .live, 0, 0, 1⟩,
  ⟨kCfgStatus, 0, 1, .w1c, .deviceRecovery, .live, 0, 0, 1⟩,
  ⟨kCfgStatus, 1, 1, .w1c, .deviceRecovery, .live, 0, 0, 1⟩,
  ⟨kCfgStatus, 2, 1, .w1c, .deviceRecovery, .live, 0, 0, 1⟩,
  ⟨kCfgStatus, 3, 1, .ro, .deviceRecovery, .live, 0, 0, 1⟩,
  ⟨kCfgStatus, 8, 8, .ro, .deviceRecovery, .live, 0, 0, 1⟩,
  ⟨kCfgStatus, 16, 8, .ro, .deviceRecovery, .live, 0, 0, 1⟩,
  ⟨kCfgStatus, 24, 8, .ro, .deviceRecovery, .live, 0, 0, 1⟩,
  ⟨kCfgStatus, 32, 32, .ro, .deviceRecovery, .live, 0, 0, 1⟩,
  ⟨kCfgApplied, 0, 64, .ro, .deviceRecovery, .live, 0, 0, 1⟩,
  ⟨kPartCfgStatus, 0, 1, .w1c, .deviceRecovery, .live, 0, 0, 1⟩,
  ⟨kPartCfgStatus, 1, 1, .w1c, .deviceRecovery, .live, 0, 0, 1⟩,
  ⟨kPartCfgStatus, 2, 1, .w1c, .deviceRecovery, .live, 0, 0, 1⟩,
  ⟨kPartCfgStatus, 3, 1, .ro, .deviceRecovery, .live, 0, 0, 1⟩,
  ⟨kPartCfgStatus, 8, 8, .ro, .deviceRecovery, .live, 0, 0, 1⟩,
  ⟨kPartCfgStatus, 16, 8, .ro, .deviceRecovery, .live, 0, 0, 1⟩,
  ⟨kPartCfgStatus, 24, 8, .ro, .deviceRecovery, .live, 0, 0, 1⟩,
  ⟨kPartCfgStatus, 32, 32, .ro, .deviceRecovery, .live, 0, 0, 1⟩]

/-- The register table of R93. -/
def rowsR93a : List FieldRow := [
  ⟨kTileId, 0, 4, .ro, .kept, .live, 0, 0, 1⟩,
  ⟨kTileId, 4, 5, .ro, .kept, .live, 0, 0, 1⟩,
  ⟨kTileId, 9, 4, .ro, .kept, .live, 0, 0, 1⟩,
  ⟨kTileId, 13, 9, .ro, .kept, .live, 0, 0, 1⟩,
  ⟨kTileId, 22, 12, .ro, .kept, .live, 0, 0, 1⟩,
  ⟨kTileId, 34, 1, .ro, .kept, .live, 0, 0, 1⟩,
  ⟨kTileId, 35, 9, .ro, .kept, .live, 0, 0, 1⟩,
  ⟨kTileState, 0, 3, .ro, .deviceRecovery, .live, 0, 0, 1⟩,
  ⟨kTileState, 4, 4, .ro, .deviceRecovery, .live, 0, 0, 1⟩,
  ⟨kTileState, 8, 1, .ro, .deviceRecovery, .live, 0, 0, 1⟩,
  ⟨kTileState, 9, 5, .ro, .deviceRecovery, .live, 0, 0, 1⟩,
  ⟨kTileState, 14, 11, .ro, .deviceRecovery, .live, 0, 0, 1⟩,
  ⟨kTileState, 32, 32, .ro, .deviceRecovery, .live, 0, 0, 1⟩,
  ⟨kTileSplit, 0, 3, .ro, .teardown, .stitch, 0, 0, 1⟩,
  ⟨kTileFault, 0, 8, .ro, .deviceRecovery, .live, 0, 0, 1⟩,
  ⟨kTileFault, 8, 4, .ro, .deviceRecovery, .live, 0, 0, 1⟩,
  ⟨kTileFault, 12, 5, .ro, .deviceRecovery, .live, 0, 0, 1⟩,
  ⟨kTileFault, 17, 1, .w1c, .deviceRecovery, .live, 0, 0, 1⟩,
  ⟨kTileFaultPc, 0, 32, .ro, .deviceRecovery, .live, 0, 0, 1⟩,
  ⟨kTileFaultPc, 32, 32, .ro, .deviceRecovery, .live, 0, 0, 1⟩,
  ⟨kTileCntCtrl, 0, 1, .wo, .cold, .live, 0, 0, 1⟩,
  ⟨kTileCntIssue, 0, 64, .ro, .deviceRecovery, .live, 0, 0, 1⟩,
  ⟨kTileCntSteps, 0, 64, .ro, .deviceRecovery, .live, 0, 0, 1⟩,
  ⟨kTileCntRotate, 0, 64, .ro, .deviceRecovery, .live, 0, 0, 1⟩]

/-- The register table of R93. -/
def rowsR93b : List FieldRow := [
  ⟨kTileCntPark, 0, 64, .ro, .deviceRecovery, .live, 0, 0, 1⟩,
  ⟨kTileCntBarrier, 0, 64, .ro, .deviceRecovery, .live, 0, 0, 1⟩]

/-- The register table of R195. -/
def rowsR195 : List FieldRow := [
  ⟨kMeshStatus, 0, 9, .ro, .kept, .live, 0, 0, 1⟩,
  ⟨kMeshStatus, 9, 10, .ro, .kept, .live, 0, 0, 1⟩,
  ⟨kMeshStatus, 32, 32, .ro, .kept, .live, 0, 0, 1⟩,
  ⟨kMeshSlots, 0, 12, .ro, .kept, .live, 0, 0, 1⟩,
  ⟨kMeshRepair, 0, 4, .ro, .kept, .live, 0, 8, 8⟩,
  ⟨kMeshRepair, 7, 1, .ro, .kept, .live, 0, 8, 8⟩,
  ⟨kMeshDead, 0, 1, .ro, .kept, .live, 0, 1, 64⟩,
  ⟨kMeshCntCtrl, 0, 1, .wo, .cold, .live, 0, 0, 1⟩,
  ⟨kMeshCntRetry, 0, 64, .ro, .deviceRecovery, .live, 0, 0, 1⟩,
  ⟨kLaceStatus, 0, 2, .ro, .kept, .live, 0, 0, 1⟩,
  ⟨kLaceStatus, 8, 8, .ro, .kept, .live, 0, 0, 1⟩,
  ⟨kLaceStatus, 16, 16, .ro, .kept, .live, 0, 0, 1⟩,
  ⟨kLaceDelay, 0, 8, .ro, .kept, .live, 0, 0, 1⟩,
  ⟨kMeshDist, 0, 64, .ro, .kept, .live, 0, 0, 1⟩]

/-- The register table of R196. -/
def rowsR196 : List FieldRow := [
  ⟨kWeltId, 0, 1, .ro, .kept, .live, 0, 0, 1⟩,
  ⟨kWeltId, 1, 4, .ro, .kept, .live, 0, 0, 1⟩,
  ⟨kWeltId, 5, 3, .ro, .kept, .live, 0, 0, 1⟩,
  ⟨kWeltMode, 0, 2, .ro, .kept, .stitch, 0, 2, 16⟩,
  ⟨kWeltOwner, 0, 4, .ro, .kept, .stitch, 0, 4, 16⟩,
  ⟨kWeltSpares, 0, 4, .ro, .kept, .live, 0, 4, 16⟩,
  ⟨kWeltLace, 0, 2, .ro, .kept, .live, 0, 0, 1⟩,
  ⟨kWeltLace, 2, 2, .ro, .kept, .live, 0, 0, 1⟩,
  ⟨kWeltRepairLog, 0, 4, .ro, .kept, .live, 0, 0, 1⟩,
  ⟨kWeltRepairLog, 4, 8, .ro, .kept, .live, 0, 0, 1⟩,
  ⟨kWeltRepairLog, 12, 4, .ro, .kept, .live, 0, 0, 1⟩,
  ⟨kWeltRepairLog, 32, 32, .ro, .kept, .live, 0, 0, 1⟩,
  ⟨kWeltCntCtrl, 0, 1, .wo, .cold, .live, 0, 0, 1⟩,
  ⟨kWeltCntReplay, 0, 64, .ro, .deviceRecovery, .live, 0, 0, 1⟩,
  ⟨kWeltCntRepair, 0, 64, .ro, .deviceRecovery, .live, 0, 0, 1⟩]

/-- The register table of R223. -/
def rowsR223 : List FieldRow := [
  ⟨kL2CntCtrl, 0, 1, .wo, .cold, .live, 0, 0, 1⟩,
  ⟨kL2CntHit, 0, 64, .ro, .deviceRecovery, .live, 0, 0, 1⟩,
  ⟨kL2CntMiss, 0, 64, .ro, .deviceRecovery, .live, 0, 0, 1⟩,
  ⟨kL2CntPeer, 0, 64, .ro, .deviceRecovery, .live, 0, 0, 1⟩,
  ⟨kL2CntVictim, 0, 64, .ro, .deviceRecovery, .live, 0, 0, 1⟩,
  ⟨kL2CntMerge, 0, 64, .ro, .deviceRecovery, .live, 0, 0, 1⟩,
  ⟨kL2CntInval, 0, 64, .ro, .deviceRecovery, .live, 0, 0, 1⟩,
  ⟨kL2Occ, 0, 17, .ro, .deviceRecovery, .live, 0, 0, 1⟩,
  ⟨kL2Occ, 32, 17, .ro, .deviceRecovery, .live, 0, 0, 1⟩]

/-- The register table of R224. -/
def rowsR224 : List FieldRow := [
  ⟨kL3CntCtrl, 0, 1, .wo, .cold, .live, 0, 0, 1⟩,
  ⟨kL3PinStatus, 0, 18, .ro, .deviceRecovery, .live, 0, 0, 1⟩,
  ⟨kL3PinStatus, 32, 4, .ro, .deviceRecovery, .live, 0, 0, 1⟩,
  ⟨kL3PinStatus, 40, 17, .ro, .deviceRecovery, .live, 0, 0, 1⟩,
  ⟨kL3PartShare, 0, 5, .ro, .kept, .stitch, 0, 0, 1⟩,
  ⟨kL3PartShare, 8, 4, .ro, .kept, .stitch, 0, 0, 1⟩,
  ⟨kL3PartOcc, 0, 21, .ro, .deviceRecovery, .live, 0, 0, 1⟩,
  ⟨kL3PartOcc, 32, 21, .ro, .deviceRecovery, .live, 0, 0, 1⟩,
  ⟨kL3PartRefused, 0, 32, .ro, .deviceRecovery, .live, 0, 0, 1⟩,
  ⟨kL3PartRefused, 32, 16, .ro, .deviceRecovery, .live, 0, 0, 1⟩,
  ⟨kL3PartRefused, 48, 16, .ro, .deviceRecovery, .live, 0, 0, 1⟩,
  ⟨kL3SlHit, 0, 64, .ro, .deviceRecovery, .live, 0, 0, 1⟩,
  ⟨kL3SlMiss, 0, 64, .ro, .deviceRecovery, .live, 0, 0, 1⟩,
  ⟨kL3SlMerge, 0, 64, .ro, .deviceRecovery, .live, 0, 0, 1⟩,
  ⟨kL3SlWb, 0, 64, .ro, .deviceRecovery, .live, 0, 0, 1⟩,
  ⟨kL3SlBypass, 0, 64, .ro, .deviceRecovery, .live, 0, 0, 1⟩,
  ⟨kL3SlMemred, 0, 64, .ro, .deviceRecovery, .live, 0, 0, 1⟩,
  ⟨kL3SlOcc, 0, 13, .ro, .deviceRecovery, .live, 0, 0, 1⟩,
  ⟨kL3SlOcc, 16, 13, .ro, .deviceRecovery, .live, 0, 0, 1⟩,
  ⟨kL3SlOcc, 32, 13, .ro, .deviceRecovery, .live, 0, 0, 1⟩]

/-- The register table of R252. -/
def rowsR252 : List FieldRow := [
  ⟨kFltLostA, 0, 41, .ro, .kept, .live, 0, 0, 1⟩,
  ⟨kFltLostA, 41, 1, .ro, .kept, .live, 0, 0, 1⟩,
  ⟨kFltLostA, 42, 4, .ro, .kept, .live, 0, 0, 1⟩,
  ⟨kFltLostA, 46, 1, .ro, .kept, .live, 0, 0, 1⟩,
  ⟨kFltLostA, 47, 5, .ro, .kept, .live, 0, 0, 1⟩,
  ⟨kFltLostA, 52, 1, .ro, .kept, .live, 0, 0, 1⟩,
  ⟨kFltLostB, 0, 32, .ro, .kept, .live, 0, 0, 1⟩,
  ⟨kFltLostB, 32, 32, .ro, .kept, .live, 0, 0, 1⟩]

/-- The register table of R255. -/
def rowsR255 : List FieldRow := [
  ⟨kDirStatus, 0, 17, .ro, .kept, .live, 0, 0, 1⟩,
  ⟨kDirStatus, 17, 1, .ro, .kept, .live, 0, 0, 1⟩,
  ⟨kDirOcc, 0, 21, .ro, .deviceRecovery, .live, 0, 0, 1⟩,
  ⟨kDirOcc, 32, 21, .ro, .deviceRecovery, .live, 0, 0, 1⟩,
  ⟨kDirPeekCtrl, 0, 6, .rw, .cold, .live, 0, 0, 1⟩,
  ⟨kDirPeekCtrl, 6, 10, .rw, .cold, .live, 0, 0, 1⟩,
  ⟨kDirPeekCtrl, 16, 4, .rw, .cold, .live, 0, 0, 1⟩,
  ⟨kDirPeekData, 0, 64, .ro, .cold, .live, 0, 0, 1⟩,
  ⟨kDirLostHead, 0, 32, .ro, .kept, .live, 0, 0, 1⟩,
  ⟨kDirLostTail, 0, 32, .rw, .kept, .live, 0, 0, 1⟩,
  ⟨kDirLostStatus, 0, 32, .ro, .kept, .live, 0, 0, 1⟩,
  ⟨kDirLostStatus, 32, 1, .ro, .kept, .live, 0, 0, 1⟩,
  ⟨kDirCntCtrl, 0, 1, .wo, .cold, .live, 0, 0, 1⟩,
  ⟨kDirCntEvict, 0, 64, .ro, .deviceRecovery, .live, 0, 0, 1⟩,
  ⟨kDirCntInv, 0, 64, .ro, .deviceRecovery, .live, 0, 0, 1⟩,
  ⟨kDirCntBisnp, 0, 64, .ro, .deviceRecovery, .live, 0, 0, 1⟩,
  ⟨kDirCntFwd, 0, 64, .ro, .deviceRecovery, .live, 0, 0, 1⟩,
  ⟨kDirCntFwdmiss, 0, 64, .ro, .deviceRecovery, .live, 0, 0, 1⟩,
  ⟨kDirCntProto, 0, 64, .ro, .deviceRecovery, .live, 0, 0, 1⟩,
  ⟨kDirCntStale, 0, 64, .ro, .deviceRecovery, .live, 0, 0, 1⟩,
  ⟨kDirCntWait, 0, 64, .ro, .deviceRecovery, .live, 0, 0, 1⟩]

/-- The register table of R281. -/
def rowsR281 : List FieldRow := [
  ⟨kEyeVal, 0, 63, .ro, .teardown, .live, 0, 0, 1⟩,
  ⟨kEyeVal, 63, 1, .ro, .teardown, .live, 0, 0, 1⟩,
  ⟨kEyeCtl, 0, 63, .wo, .teardown, .live, 0, 0, 1⟩,
  ⟨kEyeCtl, 63, 1, .wo, .teardown, .live, 0, 0, 1⟩]

/-- The register table of R282. -/
def rowsR282 : List FieldRow := [
  ⟨kEyeStatus, 0, 18, .ro, .deviceRecovery, .live, 0, 0, 1⟩,
  ⟨kEyeStatus, 32, 16, .ro, .deviceRecovery, .live, 0, 0, 1⟩,
  ⟨kEyeCntCtrl, 0, 1, .wo, .cold, .live, 0, 0, 1⟩,
  ⟨kEyeCntArrive, 0, 64, .ro, .deviceRecovery, .live, 0, 0, 1⟩,
  ⟨kEyeCntOk, 0, 64, .ro, .deviceRecovery, .live, 0, 0, 1⟩,
  ⟨kEyeCntVoid, 0, 64, .ro, .deviceRecovery, .live, 0, 0, 1⟩]

/-- The register table of R300. -/
def rowsR300a : List FieldRow := [
  ⟨kDramStatus, 0, 1, .ro, .kept, .live, 0, 0, 1⟩,
  ⟨kDramStatus, 8, 8, .ro, .kept, .live, 0, 0, 1⟩,
  ⟨kDramStatus, 16, 3, .ro, .kept, .live, 0, 0, 1⟩,
  ⟨kDramStatus, 32, 32, .ro, .kept, .live, 0, 0, 1⟩,
  ⟨kDramScrub, 0, 21, .ro, .kept, .live, 0, 0, 1⟩,
  ⟨kDramScrub, 32, 16, .ro, .kept, .live, 0, 0, 1⟩,
  ⟨kDramCntCtrl, 0, 1, .wo, .cold, .live, 0, 0, 1⟩,
  ⟨kDramErrLogA, 6, 32, .ro, .kept, .live, 0, 0, 1⟩,
  ⟨kDramErrLogA, 38, 4, .ro, .kept, .live, 0, 0, 1⟩,
  ⟨kDramErrLogA, 42, 1, .ro, .kept, .live, 0, 0, 1⟩,
  ⟨kDramErrLogA, 43, 3, .ro, .kept, .live, 0, 0, 1⟩,
  ⟨kDramErrLogA, 46, 1, .w1c, .kept, .live, 0, 0, 1⟩,
  ⟨kDramErrLogB, 0, 32, .ro, .kept, .live, 0, 0, 1⟩,
  ⟨kDramErrLogB, 32, 32, .ro, .kept, .live, 0, 0, 1⟩,
  ⟨kDramPpr, 0, 9, .ro, .kept, .live, 0, 0, 1⟩,
  ⟨kDramPpr, 9, 9, .ro, .kept, .live, 0, 0, 1⟩,
  ⟨kDramPpr, 18, 9, .ro, .kept, .live, 0, 0, 1⟩,
  ⟨kDramPpr, 27, 15, .ro, .kept, .live, 0, 0, 1⟩,
  ⟨kDramPpr, 42, 1, .w1c, .kept, .live, 0, 0, 1⟩,
  ⟨kDramCntCe, 0, 64, .ro, .deviceRecovery, .live, 0, 0, 1⟩,
  ⟨kDramCntUe, 0, 64, .ro, .deviceRecovery, .live, 0, 0, 1⟩,
  ⟨kDramCntOndie, 0, 64, .ro, .deviceRecovery, .live, 0, 0, 1⟩,
  ⟨kDramChCe, 0, 64, .ro, .deviceRecovery, .live, 0, 0, 1⟩,
  ⟨kDramChUe, 0, 64, .ro, .deviceRecovery, .live, 0, 0, 1⟩]

/-- The register table of R300. -/
def rowsR300b : List FieldRow := [
  ⟨kDramChRefresh, 0, 64, .ro, .deviceRecovery, .live, 0, 0, 1⟩]

/-- The register table of R324. -/
def rowsR324 : List FieldRow := [
  ⟨kUciHostId, 0, 1, .ro, .kept, .live, 0, 0, 1⟩,
  ⟨kUciHostId, 8, 8, .ro, .kept, .live, 0, 0, 1⟩,
  ⟨kUciHostId, 16, 16, .ro, .kept, .live, 0, 0, 1⟩,
  ⟨kUciStatus, 0, 1, .ro, .kept, .live, 0, 0, 1⟩,
  ⟨kUciStatus, 1, 8, .ro, .kept, .live, 0, 0, 1⟩,
  ⟨kUciStatus, 9, 1, .ro, .kept, .live, 0, 0, 1⟩,
  ⟨kUciStatus, 10, 1, .ro, .kept, .live, 0, 0, 1⟩,
  ⟨kUciStatus, 32, 16, .ro, .kept, .live, 0, 0, 1⟩,
  ⟨kUciMod, 0, 2, .ro, .kept, .live, 0, 0, 1⟩,
  ⟨kUciMod, 2, 8, .ro, .kept, .live, 0, 0, 1⟩,
  ⟨kUciMod, 16, 16, .ro, .kept, .live, 0, 0, 1⟩,
  ⟨kUciMod, 32, 32, .ro, .kept, .live, 0, 0, 1⟩,
  ⟨kUciCntCtrl, 0, 1, .wo, .cold, .live, 0, 0, 1⟩,
  ⟨kUciCntReplay, 0, 64, .ro, .deviceRecovery, .live, 0, 0, 1⟩,
  ⟨kUciCntUnsup, 0, 64, .ro, .deviceRecovery, .live, 0, 0, 1⟩,
  ⟨kUciCntMemerr, 0, 64, .ro, .deviceRecovery, .live, 0, 0, 1⟩]

/-- The register table of R326. -/
def rowsR326 : List FieldRow := [
  ⟨kPartStatus, 0, 3, .ro, .deviceRecovery, .live, 0, 0, 1⟩,
  ⟨kPartStatus, 3, 1, .ro, .deviceRecovery, .live, 0, 0, 1⟩,
  ⟨kPartStatus, 16, 16, .ro, .kept, .live, 0, 0, 1⟩,
  ⟨kPartEvent, 0, 1, .w1c, .deviceRecovery, .live, 0, 0, 1⟩,
  ⟨kPartEvent, 1, 1, .w1c, .deviceRecovery, .live, 0, 0, 1⟩,
  ⟨kPartEvent, 2, 1, .w1c, .deviceRecovery, .live, 0, 0, 1⟩,
  ⟨kPartSqBase, 6, 58, .rw, .teardown, .stitch, 0, 0, 1⟩,
  ⟨kPartSqCfg, 0, 17, .rw, .teardown, .stitch, 0, 0, 1⟩,
  ⟨kPartSqCfg, 17, 1, .rw, .teardown, .stitch, 0, 0, 1⟩,
  ⟨kPartSqStatus, 0, 2, .ro, .teardown, .live, 0, 0, 1⟩,
  ⟨kPartSqStatus, 4, 4, .ro, .teardown, .live, 0, 0, 1⟩,
  ⟨kPartSqStatus, 32, 32, .ro, .teardown, .live, 0, 0, 1⟩,
  ⟨kPartSqCtrl, 0, 1, .wo, .teardown, .live, 0, 0, 1⟩,
  ⟨kPartCqBase, 6, 58, .rw, .teardown, .stitch, 0, 0, 1⟩,
  ⟨kPartCqCfg, 0, 17, .rw, .teardown, .stitch, 0, 0, 1⟩,
  ⟨kPartCqCfg, 17, 1, .rw, .teardown, .stitch, 0, 0, 1⟩,
  ⟨kPartCqStatus, 0, 32, .ro, .teardown, .live, 0, 0, 1⟩,
  ⟨kPartCqStatus, 32, 17, .ro, .teardown, .live, 0, 0, 1⟩,
  ⟨kPartCqStatus, 49, 1, .ro, .teardown, .live, 0, 0, 1⟩]

/-- The register table of R362. -/
def rowsR362a : List FieldRow := [
  ⟨kOutPortStatus, 0, 1, .ro, .kept, .live, 0, 0, 1⟩,
  ⟨kOutPortStatus, 1, 1, .ro, .kept, .live, 0, 0, 1⟩,
  ⟨kOutPortStatus, 8, 8, .ro, .kept, .live, 0, 0, 1⟩,
  ⟨kOutPortStatus, 32, 16, .ro, .kept, .live, 0, 0, 1⟩,
  ⟨kOutPortCntCtrl, 0, 1, .wo, .cold, .live, 0, 0, 1⟩,
  ⟨kOutPortTx, 0, 64, .ro, .deviceRecovery, .live, 0, 0, 1⟩,
  ⟨kOutPortRx, 0, 64, .ro, .deviceRecovery, .live, 0, 0, 1⟩,
  ⟨kOutPortDrop, 0, 64, .ro, .deviceRecovery, .live, 0, 0, 1⟩,
  ⟨kOutPortStale, 0, 64, .ro, .deviceRecovery, .live, 0, 0, 1⟩,
  ⟨kOutPortPfc, 0, 32, .ro, .deviceRecovery, .live, 0, 0, 1⟩,
  ⟨kOutPortPfc, 32, 32, .ro, .deviceRecovery, .live, 0, 0, 1⟩,
  ⟨kOutPortFec, 0, 64, .ro, .deviceRecovery, .live, 0, 0, 1⟩,
  ⟨kOutJobStatus, 0, 16, .ro, .kept, .live, 0, 0, 1⟩,
  ⟨kOutJobStatus, 16, 16, .ro, .kept, .live, 0, 0, 1⟩,
  ⟨kOutJobStatus, 32, 4, .ro, .kept, .live, 0, 0, 1⟩,
  ⟨kOutJobStatus, 36, 2, .ro, .kept, .live, 0, 0, 1⟩,
  ⟨kOutJobStatus, 38, 2, .ro, .kept, .live, 0, 0, 1⟩,
  ⟨kOutJobStitch, 0, 64, .ro, .kept, .live, 0, 0, 1⟩,
  ⟨kOutJobInc, 0, 32, .ro, .kept, .live, 0, 0, 1⟩,
  ⟨kOutPtpStatus, 0, 1, .ro, .kept, .live, 0, 0, 1⟩,
  ⟨kOutPtpStatus, 1, 1, .ro, .kept, .live, 0, 0, 1⟩,
  ⟨kOutPtpStatus, 8, 24, .ro, .kept, .live, 0, 0, 1⟩,
  ⟨kOutPtpStatus, 32, 16, .ro, .kept, .live, 0, 0, 1⟩,
  ⟨kOutJobFreq, 0, 16, .ro, .kept, .live, 0, 0, 1⟩]

/-- The register table of R362. -/
def rowsR362b : List FieldRow := [
  ⟨kOutJobFreq, 16, 16, .ro, .kept, .live, 0, 0, 1⟩,
  ⟨kOutJobFreq, 32, 16, .ro, .kept, .live, 0, 0, 1⟩,
  ⟨kOutJobFault, 0, 32, .ro, .kept, .live, 0, 0, 1⟩,
  ⟨kOutJobFault, 32, 3, .ro, .kept, .live, 0, 0, 1⟩,
  ⟨kOutJobFault, 35, 16, .ro, .kept, .live, 0, 0, 1⟩,
  ⟨kOutJobFault, 51, 1, .w1c, .kept, .live, 0, 0, 1⟩,
  ⟨kOutQpPeekCtrl, 0, 4, .rw, .cold, .live, 0, 0, 1⟩,
  ⟨kOutQpPeekCtrl, 4, 12, .rw, .cold, .live, 0, 0, 1⟩,
  ⟨kOutQpPeekData, 0, 2, .ro, .cold, .live, 0, 0, 1⟩,
  ⟨kOutQpPeekData, 4, 4, .ro, .cold, .live, 0, 0, 1⟩,
  ⟨kOutQpPeekData, 8, 24, .ro, .cold, .live, 0, 0, 1⟩,
  ⟨kOutQpPeekData, 32, 24, .ro, .cold, .live, 0, 0, 1⟩,
  ⟨kOutJobCntCtrl, 0, 1, .wo, .cold, .live, 0, 0, 1⟩,
  ⟨kOutJobCntBarrier, 0, 64, .ro, .deviceRecovery, .live, 0, 0, 1⟩,
  ⟨kOutJobCntFailed, 0, 64, .ro, .deviceRecovery, .live, 0, 0, 1⟩]

/-- The register table of R388. -/
def rowsR388 : List FieldRow := [
  ⟨kPartAccIssued, 0, 64, .ro, .teardown, .live, 0, 0, 1⟩,
  ⟨kPartAccWaitSt, 0, 64, .ro, .teardown, .live, 0, 0, 1⟩,
  ⟨kPartAccWaitNs, 0, 64, .ro, .teardown, .live, 0, 0, 1⟩,
  ⟨kPartAccPreempt, 0, 64, .ro, .teardown, .live, 0, 0, 1⟩,
  ⟨kPartAccDone, 0, 64, .ro, .teardown, .live, 0, 0, 1⟩,
  ⟨kPartAccFail, 0, 32, .ro, .teardown, .live, 0, 0, 1⟩,
  ⟨kPartAccFail, 32, 32, .ro, .teardown, .live, 0, 0, 1⟩,
  ⟨kPartAccCtrl, 0, 1, .wo, .teardown, .live, 0, 0, 1⟩]

/-- The register table of R389. -/
def rowsR389 : List FieldRow := [
  ⟨kPmCtrl, 0, 1, .wo, .cold, .live, 0, 0, 1⟩,
  ⟨kPmCtrl, 1, 1, .wo, .cold, .live, 0, 0, 1⟩,
  ⟨kPmCtrl, 2, 1, .wo, .cold, .live, 0, 0, 1⟩,
  ⟨kPmStatus, 0, 3, .ro, .deviceRecovery, .live, 0, 0, 1⟩,
  ⟨kPmStatus, 8, 4, .ro, .deviceRecovery, .live, 0, 0, 1⟩,
  ⟨kPmStatus, 32, 32, .ro, .deviceRecovery, .live, 0, 0, 1⟩,
  ⟨kPmSave, 6, 58, .rw, .cold, .static, 0, 0, 1⟩,
  ⟨kPmSaveLen, 0, 32, .ro, .deviceRecovery, .live, 0, 0, 1⟩]

/-- The register table of R410. -/
def rowsR410 : List FieldRow := [
  ⟨kFltRecA, 0, 8, .ro, .kept, .live, 0, 0, 1⟩,
  ⟨kFltRecA, 8, 4, .ro, .kept, .live, 0, 0, 1⟩,
  ⟨kFltRecA, 12, 4, .ro, .kept, .live, 0, 0, 1⟩,
  ⟨kFltRecA, 16, 3, .ro, .kept, .live, 0, 0, 1⟩,
  ⟨kFltRecA, 19, 9, .ro, .kept, .live, 0, 0, 1⟩,
  ⟨kFltRecA, 28, 4, .ro, .kept, .live, 0, 0, 1⟩,
  ⟨kFltRecA, 32, 1, .ro, .kept, .live, 0, 0, 1⟩,
  ⟨kFltRecA, 33, 16, .ro, .kept, .live, 0, 0, 1⟩,
  ⟨kFltRecA, 49, 12, .ro, .kept, .live, 0, 0, 1⟩,
  ⟨kFltRecA, 61, 1, .ro, .kept, .live, 0, 0, 1⟩,
  ⟨kFltRecA, 63, 1, .ro, .kept, .live, 0, 0, 1⟩,
  ⟨kFltRecB, 0, 32, .ro, .kept, .live, 0, 0, 1⟩,
  ⟨kFltRecB, 32, 32, .ro, .kept, .live, 0, 0, 1⟩,
  ⟨kFltRecC, 0, 24, .ro, .kept, .live, 0, 0, 1⟩,
  ⟨kFltRecC, 24, 16, .ro, .kept, .live, 0, 0, 1⟩,
  ⟨kFltRecC, 40, 8, .ro, .kept, .live, 0, 0, 1⟩,
  ⟨kFltRecD, 0, 64, .ro, .kept, .live, 0, 0, 1⟩]

/-- The register table of R413. -/
def rowsR413 : List FieldRow := [
  ⟨kFltEvA, 0, 8, .ro, .kept, .live, 0, 0, 1⟩,
  ⟨kFltEvA, 8, 8, .ro, .kept, .live, 0, 0, 1⟩,
  ⟨kFltEvA, 16, 4, .ro, .kept, .live, 0, 0, 1⟩,
  ⟨kFltEvA, 20, 1, .ro, .kept, .live, 0, 0, 1⟩,
  ⟨kFltEvA, 21, 1, .ro, .kept, .live, 0, 0, 1⟩,
  ⟨kFltEvA, 32, 32, .ro, .kept, .live, 0, 0, 1⟩,
  ⟨kFltEvB, 0, 24, .ro, .kept, .live, 0, 0, 1⟩,
  ⟨kFltEvB, 32, 32, .ro, .kept, .live, 0, 0, 1⟩,
  ⟨kFltEvC, 0, 64, .ro, .kept, .live, 0, 0, 1⟩,
  ⟨kFltEvD, 0, 64, .ro, .kept, .live, 0, 0, 1⟩]

/-- The register table of R417. -/
def rowsR417a : List FieldRow := [
  ⟨kFltStatus, 0, 1, .ro, .kept, .live, 0, 0, 1⟩,
  ⟨kFltStatus, 1, 8, .ro, .kept, .live, 0, 0, 1⟩,
  ⟨kFltStatus, 9, 1, .ro, .kept, .live, 0, 0, 1⟩,
  ⟨kFltStatus, 10, 1, .ro, .kept, .live, 0, 0, 1⟩,
  ⟨kFltStatus, 11, 3, .ro, .kept, .live, 0, 0, 1⟩,
  ⟨kFltStatus, 32, 32, .ro, .kept, .live, 0, 0, 1⟩,
  ⟨kFltEsc, 0, 2, .ro, .kept, .live, 0, 0, 1⟩,
  ⟨kFltEsc, 16, 16, .ro, .kept, .live, 0, 0, 1⟩,
  ⟨kFltEscT, 0, 64, .ro, .kept, .live, 0, 0, 1⟩,
  ⟨kFltReplay, 0, 16, .ro, .deviceRecovery, .live, 0, 0, 1⟩,
  ⟨kFltReplay, 16, 4, .ro, .deviceRecovery, .live, 0, 0, 1⟩,
  ⟨kFltReplay, 20, 1, .ro, .deviceRecovery, .live, 0, 0, 1⟩,
  ⟨kFltReplay, 21, 4, .ro, .deviceRecovery, .live, 0, 0, 1⟩,
  ⟨kFltReplay, 25, 3, .ro, .deviceRecovery, .live, 0, 0, 1⟩,
  ⟨kFltReplay, 28, 9, .ro, .deviceRecovery, .live, 0, 0, 1⟩,
  ⟨kFltRecHead, 0, 32, .ro, .kept, .live, 0, 0, 1⟩,
  ⟨kFltRecTail, 0, 32, .rw, .kept, .live, 0, 0, 1⟩,
  ⟨kFltRecStatus, 0, 32, .ro, .kept, .live, 0, 0, 1⟩,
  ⟨kFltRecStatus, 32, 1, .ro, .kept, .live, 0, 0, 1⟩,
  ⟨kFltEvHead, 0, 32, .ro, .kept, .live, 0, 0, 1⟩,
  ⟨kFltEvTail, 0, 32, .rw, .kept, .live, 0, 0, 1⟩,
  ⟨kFltEvStatus, 0, 32, .ro, .kept, .live, 0, 0, 1⟩,
  ⟨kFltEvStatus, 32, 1, .ro, .kept, .live, 0, 0, 1⟩,
  ⟨kFltRtsAddr, 6, 58, .rw, .cold, .static, 0, 0, 1⟩]

/-- The register table of R417. -/
def rowsR417b : List FieldRow := [
  ⟨kFltRtsCtrl, 0, 1, .wo, .cold, .live, 0, 0, 1⟩,
  ⟨kFltRtsCtrl, 8, 1, .rw, .cold, .static, 0, 0, 1⟩,
  ⟨kFltRtsStatus, 0, 4, .ro, .kept, .live, 0, 0, 1⟩,
  ⟨kFltRtsStatus, 4, 1, .ro, .kept, .live, 0, 0, 1⟩,
  ⟨kFltRtsChal, 0, 64, .ro, .kept, .live, 0, 0, 1⟩]

/-- The register table of R444. -/
def rowsR444a : List FieldRow := [
  ⟨kPwrCapSet, 0, 13, .rw, .kept, .stitch, 5000, 0, 1⟩,
  ⟨kPwrFloorSet, 0, 10, .rw, .kept, .stitch, 100, 0, 1⟩,
  ⟨kPwrStatus, 0, 16, .ro, .kept, .live, 0, 0, 1⟩,
  ⟨kPwrStatus, 16, 16, .ro, .kept, .live, 0, 0, 1⟩,
  ⟨kPwrStatus, 32, 1, .ro, .kept, .live, 0, 0, 1⟩,
  ⟨kPwrStatus, 33, 1, .ro, .kept, .live, 0, 0, 1⟩,
  ⟨kPwrStatus, 34, 1, .ro, .kept, .live, 0, 0, 1⟩,
  ⟨kPwrStatus, 35, 1, .ro, .kept, .live, 0, 0, 1⟩,
  ⟨kPwrStatus, 48, 16, .ro, .kept, .live, 0, 0, 1⟩,
  ⟨kPwrBudget, 0, 32, .ro, .kept, .live, 40000, 0, 1⟩,
  ⟨kPwrBudget, 32, 16, .ro, .kept, .live, 0, 0, 1⟩,
  ⟨kPwrBudget, 48, 16, .ro, .kept, .live, 0, 0, 1⟩,
  ⟨kPwrThrottle, 0, 7, .ro, .kept, .live, 0, 0, 1⟩,
  ⟨kPwrThrottle, 8, 7, .w1c, .kept, .live, 0, 0, 1⟩,
  ⟨kPwrCntCtrl, 0, 1, .wo, .cold, .live, 0, 0, 1⟩,
  ⟨kPwrThrUs, 0, 64, .ro, .kept, .live, 0, 0, 1⟩,
  ⟨kPwrDieA, 0, 6, .ro, .kept, .live, 36, 0, 1⟩,
  ⟨kPwrDieA, 8, 8, .ro, .kept, .live, 0, 0, 1⟩,
  ⟨kPwrDieA, 16, 8, .ro, .kept, .live, 0, 0, 1⟩,
  ⟨kPwrDieA, 24, 8, .ro, .kept, .live, 0, 0, 1⟩,
  ⟨kPwrDieA, 32, 16, .ro, .kept, .live, 0, 0, 1⟩,
  ⟨kPwrDieA, 48, 16, .ro, .kept, .live, 0, 0, 1⟩,
  ⟨kPwrDieB, 0, 16, .ro, .kept, .live, 0, 0, 1⟩,
  ⟨kPwrDieB, 16, 6, .ro, .kept, .live, 0, 0, 1⟩]

/-- The register table of R444. -/
def rowsR444b : List FieldRow := [
  ⟨kPwrDieB, 22, 6, .ro, .kept, .live, 0, 0, 1⟩,
  ⟨kPwrDieB, 28, 4, .ro, .kept, .live, 0, 0, 1⟩,
  ⟨kPwrDieB, 32, 16, .ro, .kept, .live, 0, 0, 1⟩,
  ⟨kPwrDieB, 48, 16, .ro, .kept, .live, 0, 0, 1⟩,
  ⟨kPwrLabelCtrl, 0, 3, .rw, .cold, .live, 0, 0, 1⟩,
  ⟨kPwrLabelCtrl, 3, 8, .rw, .cold, .live, 0, 0, 1⟩,
  ⟨kPwrLabelData, 0, 32, .ro, .cold, .live, 0, 0, 1⟩,
  ⟨kPwrLabelData, 32, 32, .ro, .cold, .live, 0, 0, 1⟩]

/-- The register table of R465. -/
def rowsR465a : List FieldRow := [
  ⟨kAwlStatus, 0, 7, .ro, .deviceRecovery, .live, 0, 0, 1⟩,
  ⟨kAwlStatus, 7, 1, .ro, .deviceRecovery, .live, 0, 0, 1⟩,
  ⟨kAwlResult, 0, 3, .ro, .kept, .live, 0, 0, 1⟩,
  ⟨kAwlResult, 3, 15, .ro, .kept, .live, 0, 0, 1⟩,
  ⟨kAwlResult, 18, 2, .ro, .kept, .live, 0, 0, 1⟩,
  ⟨kAwlResult, 20, 1, .w1c, .kept, .live, 0, 0, 1⟩,
  ⟨kAwlResult, 32, 32, .ro, .kept, .live, 0, 0, 1⟩,
  ⟨kAwlScrub, 0, 9, .ro, .deviceRecovery, .live, 0, 0, 1⟩,
  ⟨kAwlScrub, 32, 32, .ro, .deviceRecovery, .live, 0, 0, 1⟩,
  ⟨kAwlRepair, 0, 16, .ro, .kept, .live, 0, 0, 1⟩,
  ⟨kAwlRepair, 16, 16, .ro, .kept, .live, 0, 0, 1⟩,
  ⟨kAwlRepair, 32, 7, .ro, .kept, .live, 0, 0, 1⟩,
  ⟨kAwlRepair, 39, 1, .w1c, .kept, .live, 0, 0, 1⟩,
  ⟨kAwlFuse, 0, 1, .wo, .cold, .live, 0, 0, 1⟩,
  ⟨kAwlFuse, 1, 1, .w1c, .kept, .live, 0, 0, 1⟩,
  ⟨kAwlFuse, 2, 1, .ro, .kept, .live, 0, 0, 1⟩,
  ⟨kAwlPos, 0, 15, .ro, .deviceRecovery, .live, 0, 0, 1⟩,
  ⟨kAwlPos, 16, 15, .ro, .kept, .live, 0, 0, 1⟩,
  ⟨kAwlPos, 32, 32, .ro, .deviceRecovery, .live, 0, 0, 1⟩,
  ⟨kAwlPass, 0, 15, .ro, .deviceRecovery, .live, 0, 0, 1⟩,
  ⟨kAwlPass, 32, 15, .ro, .deviceRecovery, .live, 0, 0, 1⟩,
  ⟨kAwlLast, 0, 15, .ro, .deviceRecovery, .live, 0, 0, 1⟩,
  ⟨kAwlLast, 16, 15, .ro, .deviceRecovery, .live, 0, 0, 1⟩,
  ⟨kAwlLast, 32, 15, .ro, .deviceRecovery, .live, 0, 0, 1⟩]

/-- The register table of R465. -/
def rowsR465b : List FieldRow := [
  ⟨kAwlTime, 0, 64, .ro, .deviceRecovery, .live, 0, 0, 1⟩,
  ⟨kAwlCntCtrl, 0, 1, .wo, .cold, .live, 0, 0, 1⟩]

/-- The register table of R482. -/
def rowsR482a : List FieldRow := [
  ⟨kSecLc, 0, 3, .ro, .kept, .live, 0, 0, 1⟩,
  ⟨kSecLc, 3, 1, .ro, .kept, .live, 0, 0, 1⟩,
  ⟨kSecLc, 4, 1, .ro, .kept, .live, 0, 0, 1⟩,
  ⟨kSecLc, 5, 1, .ro, .kept, .live, 0, 0, 1⟩,
  ⟨kSecLc, 6, 1, .ro, .kept, .live, 0, 0, 1⟩,
  ⟨kSecSerial, 0, 64, .ro, .kept, .live, 0, 0, 1⟩,
  ⟨kSecChal, 0, 64, .ro, .kept, .live, 0, 0, 1⟩,
  ⟨kSecFloor, 0, 6, .ro, .kept, .live, 0, 0, 1⟩,
  ⟨kSecFloor, 8, 6, .ro, .kept, .live, 0, 0, 1⟩,
  ⟨kSecFw, 0, 1, .ro, .kept, .live, 0, 0, 1⟩,
  ⟨kSecFw, 1, 1, .ro, .kept, .live, 0, 0, 1⟩,
  ⟨kSecFw, 2, 1, .ro, .kept, .live, 0, 0, 1⟩,
  ⟨kSecFw, 8, 8, .ro, .kept, .live, 0, 0, 1⟩,
  ⟨kSecFw, 16, 8, .ro, .kept, .live, 0, 0, 1⟩,
  ⟨kSecFw, 24, 4, .ro, .kept, .live, 0, 0, 1⟩,
  ⟨kSecVendorHash, 0, 64, .ro, .kept, .live, 0, 0, 1⟩,
  ⟨kSecOwnerHash, 0, 64, .ro, .kept, .live, 0, 0, 1⟩,
  ⟨kSecCmdAddr, 6, 58, .rw, .cold, .static, 0, 0, 1⟩,
  ⟨kSecCmdCtrl, 0, 1, .wo, .cold, .live, 0, 0, 1⟩,
  ⟨kSecCmdCtrl, 8, 1, .rw, .cold, .static, 0, 0, 1⟩,
  ⟨kSecCmdStatus, 0, 4, .ro, .kept, .live, 0, 0, 1⟩,
  ⟨kSecCmdStatus, 4, 1, .ro, .kept, .live, 0, 0, 1⟩,
  ⟨kSecCmdStatus, 5, 1, .w1c, .kept, .live, 0, 0, 1⟩,
  ⟨kSecFwAddr, 6, 58, .rw, .cold, .static, 0, 0, 1⟩]

/-- The register table of R482. -/
def rowsR482b : List FieldRow := [
  ⟨kSecFwLen, 0, 32, .rw, .cold, .static, 0, 0, 1⟩,
  ⟨kSecFwCtrl, 0, 1, .wo, .cold, .live, 0, 0, 1⟩,
  ⟨kSecFwCtrl, 8, 1, .rw, .cold, .static, 0, 0, 1⟩]

/-- The register table of R497. -/
def rowsR497 : List FieldRow := [
  ⟨kDevPins, 0, 1, .ro, .kept, .live, 0, 0, 1⟩,
  ⟨kDevPins, 1, 1, .ro, .kept, .live, 0, 0, 1⟩,
  ⟨kDevPins, 2, 2, .ro, .kept, .live, 0, 0, 1⟩,
  ⟨kDevPins, 4, 1, .ro, .kept, .live, 0, 0, 1⟩,
  ⟨kDevPins, 5, 1, .ro, .kept, .live, 0, 0, 1⟩,
  ⟨kDevPins, 6, 1, .ro, .kept, .live, 0, 0, 1⟩,
  ⟨kDevPins, 7, 1, .ro, .kept, .live, 0, 0, 1⟩,
  ⟨kDevStart, 0, 16, .ro, .kept, .live, 0, 0, 1⟩,
  ⟨kDevStart, 16, 16, .ro, .kept, .live, 0, 0, 1⟩,
  ⟨kDevStart, 32, 16, .ro, .kept, .live, 0, 0, 1⟩,
  ⟨kDevStart, 48, 3, .ro, .kept, .live, 0, 0, 1⟩]

/-- Every row of every register table of the spec. -/
def fieldRows : List FieldRow :=
  rowsR65 ++
  rowsR66 ++
  rowsR67 ++
  rowsR93a ++
  rowsR93b ++
  rowsR195 ++
  rowsR196 ++
  rowsR223 ++
  rowsR224 ++
  rowsR252 ++
  rowsR255 ++
  rowsR281 ++
  rowsR282 ++
  rowsR300a ++
  rowsR300b ++
  rowsR324 ++
  rowsR326 ++
  rowsR362a ++
  rowsR362b ++
  rowsR388 ++
  rowsR389 ++
  rowsR410 ++
  rowsR413 ++
  rowsR417a ++
  rowsR417b ++
  rowsR444a ++
  rowsR444b ++
  rowsR465a ++
  rowsR465b ++
  rowsR482a ++
  rowsR482b ++
  rowsR497

/-- The map that address `a` lies in, its die or partition, and the offset within. -/
def spaceOf (a : Nat) : RegSpace × Nat × Nat :=
  if 2 ^ 32 ≤ a then (.view, (a - 2 ^ 32) / 2 ^ 24, (a - 2 ^ 32) % 2 ^ 24)
  else if 0x800000 ≤ a && a < 0x8800000 then (.die, (a - 0x800000) / 0x1000000, (a - 0x800000) % 0x1000000)
  else (.dev, 0, a)

/-- The instance of register `k` that stands at address `a`, if one does. The job registers (R361) stand at one place of the
management space, in the OUT block of die 0. -/
def RegKind.instAt (k : RegKind) (a : Nat) : Option Nat :=
  let (sp, _, inner) := spaceOf a
  let o := if k.space = .dev then a else inner
  if (sp == .view) != (k.space == .view) || (k.space == .die && sp != .die) || o < k.off then none
  else if k.count = 1 then (if o = k.off then some 0 else none)
  else if (o - k.off) % k.stride = 0 && (o - k.off) / k.stride < k.count then some ((o - k.off) / k.stride)
  else none

/-- The rows of the register at address `a`: none for an unassigned offset (R22). -/
def rowsAt (a : Nat) : List FieldRow := fieldRows.filter fun r => (r.kind.instAt a).isSome

/-- The low bits of the fields that one row stands for. -/
def FieldRow.los (r : FieldRow) : List Nat := (List.range r.reps).map fun j => r.lo + r.step * j

/-- The row that governs the field at address `a`, low bit `lo`. -/
def rowOf (a lo : Nat) : Option FieldRow := (rowsAt a).find? fun r => r.los.contains lo

end Sys2Proof.Machine
end

