-- ==== Sys2Proof/Machine/Map.lean ====
section
/-! DEFINITION. Sparse maps by number in one canonical form: keys strictly rising, and no entry equal to what an
unlisted key reads as. Memory, tile stores, registers and tables are all held so. -/

namespace Sys2Proof.Machine

/-- A sparse map: the entries that differ from the value an unlisted key reads as. -/
abbrev SMap (α : Type) := List (Nat × α)

/-- What key `k` reads as, `dflt` when it is not listed. -/
def mapGet {α : Type} (dflt : α) : SMap α → Nat → α
  | [], _ => dflt
  | (k', v) :: m, k => if k = k' then v else mapGet dflt m k

/-- Insert at the place that keeps the keys rising. -/
def mapInsert {α : Type} (k : Nat) (v : α) : SMap α → SMap α
  | [] => [(k, v)]
  | (k', v') :: m => if k < k' then (k, v) :: (k', v') :: m else (k', v') :: mapInsert k v m

/-- The map without key `k`. -/
def mapErase {α : Type} (m : SMap α) (k : Nat) : SMap α := m.filter fun e => e.1 != k

/-- Write `v` at key `k`: writing what an unlisted key reads as removes the entry. -/
def mapSet {α : Type} [DecidableEq α] (dflt : α) (m : SMap α) (k : Nat) (v : α) : SMap α :=
  if v = dflt then mapErase m k else mapInsert k v (mapErase m k)

/-- Write a list of values from key `k` upward. -/
def mapSetList {α : Type} [DecidableEq α] (dflt : α) : SMap α → Nat → List α → SMap α
  | m, _, [] => m
  | m, k, v :: vs => mapSetList dflt (mapSet dflt m k v) (k + 1) vs

/-- Read `n` values from key `k` upward. -/
def mapGetList {α : Type} (dflt : α) (m : SMap α) (k n : Nat) : List α :=
  (List.range n).map fun i => mapGet dflt m (k + i)

/-- Write the values whose bit of `mask` is set, from key `k` upward. -/
def mapSetMasked {α : Type} [DecidableEq α] (dflt : α) (m : SMap α) (k mask : Nat) (vs : List α) : SMap α :=
  vs.zipIdx.foldl (fun m e => if mask.testBit e.2 then mapSet dflt m (k + e.2) e.1 else m) m

/-- Drop every entry whose key lies in [lo, hi): the range then reads as unlisted. -/
def mapClear {α : Type} (m : SMap α) (lo hi : Nat) : SMap α := m.filter fun e => e.1 < lo || hi ≤ e.1

/-- The canonical form: keys strictly rising, and no listed default. -/
def mapWf {α : Type} [DecidableEq α] (dflt : α) (m : SMap α) : Bool :=
  decide (m.Pairwise fun a b => a.1 < b.1) && m.all fun e => e.2 != dflt

end Sys2Proof.Machine
end

