-- ==== Sys2Proof/Machine/Types.lean ====
section
/-! DEFINITION. The kinds of things the device holds: the parsed lasts, tiles and tasks, cache lines, directory
entries, transactions, queue pairs, jobs. Plain data, one structure for each thing the spec names. -/

namespace Sys2Proof.Machine

/-! ## The lasts (R42) -/

/-- An entry of the PAGES body (R206). `bulk` and `atomics` are its attributes. -/
structure PageEnt where
  part : Nat
  size : Nat
  home : Nat
  bulk : Bool
  atomics : Bool
  count : Nat
  pa : Nat
  target : Nat
deriving DecidableEq, Repr

/-- An entry of the WELTS body (R184). -/
structure WeltEnt where
  mode : Nat
  part : Nat
  shares : List Nat
deriving DecidableEq, Repr

/-- The header of the PORTS body (R332). -/
structure PortsHdr where
  laceUdp : Nat := 0
  ptpDomain : Nat := 0
  ptpSlave : Nat := 255
  lacePcp : Nat := 0
  ptpPcp : Nat := 0
  rocePcp : Nat := 0
deriving DecidableEq, Repr

/-- A port entry of the PORTS body (R332). -/
structure PortEnt where
  enable : Bool := false
  preemption : Bool := false
  ptpMaster : Bool := false
  pfc : Bool := false
  vlan : Nat := 0
  mac : List Byte := []
  ipv4 : List Byte := []
  shares : List Nat := []
deriving DecidableEq, Repr

/-- An override of the ROUTES body (R171). -/
structure Override where
  die : Nat
  planes : Nat
  router : Nat
  dstDie : Nat
  first : Nat
  last : Nat
  port : Nat
deriving DecidableEq, Repr

/-- The ROUTES body (R171): repair columns by die * 16 + row (255 none), die paths by src * 8 + dst, overrides. -/
structure Routes where
  repair : List Nat := []
  paths : List (List Nat) := []
  overrides : List Override := []
deriving DecidableEq, Repr

/-- An entry of the AWL_SCHEDULE body (R453). -/
structure AwlEnt where
  enable : Bool
  dieMask : Nat
  interval : Nat
deriving DecidableEq, Repr

/-- The POWER body (R440). The defaults are the values of R441 before any device last. -/
structure PowerSec where
  cap : Nat := 5000
  floor : Nat := 100
  continuous : Nat := 5000
  maxState : Nat := 0
  brakeEnable : Bool := true
  coreLimitA : Nat := 700
  junctionSoft : Nat := 100
  dramSoft : Nat := 90
deriving DecidableEq, Repr

/-- A device last, parsed (R42). `parts` holds the sixteen PARTITIONS entries as stored (R365), `shares` the way
and pin shares by die * 16 + partition (R216), `eyelets` first and count by partition * 8 + die (R368), `masks` the dies that each
section type goes to (R40, log entry 46). -/
structure DeviceLast where
  sequence : Nat
  period : Nat
  slack : Nat
  source : Nat
  defined : Nat
  parts : List (List Byte)
  shares : List (Nat × Nat)
  pages : List PageEnt
  eyelets : List (Nat × Nat)
  welts : List WeltEnt
  portsHdr : PortsHdr
  ports : List PortEnt
  routes : Routes
  replay : Bool
  noReplay : Nat
  awl : List AwlEnt
  power : PowerSec
  measurement : List Byte
  masks : List (Nat × Nat) := []
deriving DecidableEq, Repr

/-- A program descriptor (R84). -/
structure Program where
  id : Nat
  shaped : Bool
  groups : Nat
  laneMask : Nat
  entry : Nat
  schedule : Nat
  scratch : Nat
deriving DecidableEq, Repr

/-- An entry of a shape (R87, R176). -/
structure ShapeEntry where
  die : Nat
  dx : Nat
  dy : Nat
deriving DecidableEq, Repr

/-- A record of a shape: the slots that a stream owns on a port (R176). -/
structure SlotRecord where
  die : Nat
  dx : Nat
  dy : Nat
  port : Nat
  plane : Nat
  stream : Nat
  first : Nat
  count : Nat
deriving DecidableEq, Repr

/-- A shape: its tiles in task-rank order, and its records (R176). -/
structure Shape where
  entries : List ShapeEntry
  records : List SlotRecord
deriving DecidableEq, Repr

/-- An address entry of the JOB body (R341). -/
structure AddrEnt where
  member : Nat
  port : Nat
  ipv4 : List Byte
  mac : List Byte
deriving DecidableEq, Repr

/-- A queue pair entry of the JOB body (R341). -/
structure QpCfg where
  peerMember : Nat
  peerPart : Nat
  mtu : Nat
  peerQp : Nat
  port : Nat
  peerIpv4 : List Byte
  mac : List Byte
  recvEyelet : Nat
  recvBase : Nat
  recvSlots : Nat
  slotBytes : Nat
deriving DecidableEq, Repr

/-- A window entry of the JOB body (R341). -/
structure Window where
  base : Nat
  length : Nat
  write : Bool
  read : Bool
deriving DecidableEq, Repr

/-- A barrier entry of the JOB body (R341). -/
structure JobBarrier where
  program : Nat
  barrier : Nat
  jobBarrier : Nat
  localTasks : Nat
deriving DecidableEq, Repr

/-- The JOB body (R341). -/
structure JobSec where
  role : Nat := 0
  level : Nat := 0
  jobId : Nat := 0
  memberCount : Nat := 1
  member : Nat := 0
  ptpDomain : Nat := 0
  parent : Option AddrEnt := none
  parentRaw : List Byte := []
  memberTable : Nat := 0
  children : List AddrEnt := []
  qps : List QpCfg := []
  windows : List Window := []
  barriers : List JobBarrier := []
deriving DecidableEq, Repr

/-- A partition last, parsed (R42). `schedules` is `none` where the last has no SCHEDULES section; each schedule
lists its shapes, the primary shape first. -/
structure PartLast where
  part : Nat
  sequence : Nat
  period : Nat
  slack : Nat
  l1Share : Nat
  programs : List Program
  codeLength : Nat
  body : List Byte
  schedules : Option (List (List Shape))
  modes : List Byte
  job : JobSec
  labels : List (Nat × Nat)
  measurement : List Byte
  masks : List (Nat × Nat) := []
deriving DecidableEq, Repr

/-- A last that has been staged. -/
inductive Last where
  | device (l : DeviceLast)
  | partition (l : PartLast)
deriving DecidableEq, Repr

/-! ## Time, loader and commits -/

/-- The generator and the phases of the stitch (R24 to R33). Times are in ns of the reference clock since power
good; `milliCycles` are thousandths of an arithmetic cycle at CD0 since its latest tick. -/
structure Clock where
  now : Nat := 0
  milliCycles : Nat := 0
  tickAt : Nat := 0
  refAt : Nat := 0
  missedRun : Nat := 0
  running : Bool := false
  slackOpen : Bool := false
  issued : Bool := false
  arrived : Nat := 0
deriving DecidableEq, Repr

/-- A commit: its group of R57, the snapshot of its fields as (field key, value), when it was accepted. -/
structure Commit where
  group : Nat
  fields : List (Nat × Nat) := []
  viaLoader : Bool := false
  acceptedAt : Nat := 0
deriving DecidableEq, Repr

/-- Commits (R58 to R62): checks in arrival order, accepted commits, shadow copies by field key. -/
structure CfgSt where
  checks : List Commit := []
  accepted : List Commit := []
  shadow : SMap (Option Nat) := []
deriving DecidableEq, Repr

/-- The loader (R47 to R56): the last that it holds, one more than the highest sequence applied to the device and to each
partition since cold power-up, 0 before the first (R51), and which half of each program area is in use (R52). -/
structure LoaderSt where
  staged : Option Last := none
  committed : Bool := false
  seqDevice : Nat := 0
  seqPart : SMap Nat := []
  secondHalf : SMap Bool := []
deriving DecidableEq, Repr

/-! ## Tiles, groups and tasks -/

/-- What a path does once the release that it waits for is complete (R261): a fence, an eyelet addition, or the operations
of a reduce, atomic or compare-and-swap instruction. -/
inductive Cont where
  | fence (acquire : Bool)
  | eyeAdd (eyelet n : Nat)
  | atomic (ops : List LaneOp) (fn ty round : Nat) (acquire : Option Nat) (reduction hint : Bool)
deriving DecidableEq, Repr

/-- What a path of a group is doing (R73, R74, R81, R261). `parked` lists the granules of its locks, as (scratch,
address / 64). `waiting` waits for a release of the scope and for the write-backs of the sectors listed. `casWait` waits
for the responses of a compare-and-swap with the lock hint: lanes still owed, lanes that failed, the granule of each lane. `response` waits for
an atomic whose acquire is still to come. -/
inductive PathState where
  | run
  | reconverged
  | parked (granules : List (Bool × Nat)) (since : Nat)
  | eyeWait (eyelet target : Nat) (scope : Nat)
  | waiting (scope : Nat) (keys : List Nat) (next : Cont)
  | casWait (left failed : Nat) (granules : List (Nat × Bool × Nat))
  | response
deriving DecidableEq, Repr

/-- A path: lane mask, program counter, and the splits it descends from, innermost first, as (split, reconvergence
point) (R73). -/
structure Path where
  mask : Nat
  pc : Nat
  splits : List (Nat × Nat) := []
  state : PathState := .run
deriving DecidableEq, Repr

/-- A barrier that a lane waits at (R78). -/
structure LaneBar where
  lane : Nat
  kind : BarKind
  number : Nat
deriving DecidableEq, Repr

/-- A store-queue entry: one 64-byte granule of scratch or sector of memory (R264). `base` is the scratch offset or
partition address of its first byte. -/
structure SqEntry where
  scratch : Bool
  base : Nat
  mask : Nat
  data : List Byte
deriving DecidableEq, Repr

/-- A load, store or atomic instruction that the lanes of a path perform one by one: its kind (0 load, 1 store, 2 atomic), the offset
of its first byte (R502), the lanes of its path, and those still to perform it. -/
structure LaneInst where
  kind : Nat
  pc : Nat
  mask : Nat
  left : Nat
deriving DecidableEq, Repr

/-- A thread group (R71 to R81, R264). `values` holds what its latest instruction returned to lanes, as
(lane, value). `inst` is the latest instruction of which lanes still have a part to perform. -/
structure Group where
  started : Nat := 0
  live : Nat := 0
  paths : List Path := []
  cur : Nat := 0
  count : Nat := 0
  splitNo : Nat := 0
  bars : List LaneBar := []
  status : Nat := 0
  queue : List SqEntry := []
  values : List (Nat × Nat) := []
  inst : Option LaneInst := none
deriving DecidableEq, Repr

/-- A level-1 line (R198). `key` is floor(pa / 64), or the sector of the program area for an instruction line. -/
structure L1Line where
  instr : Bool
  key : Nat
  valid : Nat
  dirty : Nat
  data : List Byte
  home : Nat
deriving DecidableEq, Repr

/-- A pass descriptor (R103). -/
structure PassDesc where
  aFmt : Nat
  bFmt : Nat
  outFmt : Nat
  init : Nat
  write : Bool
  bank : Nat
  m : Nat
  n : Nat
  k : Nat
  aOff : Nat
  aStride : Nat
  bOff : Nat
  bStride : Nat
  aScale : Nat
  bScale : Nat
  outOff : Nat
  outStride : Nat
  outScale : Nat
  gate : Nat
  done : Nat
  gateCount : Nat
deriving DecidableEq, Repr

/-- A copy descriptor (R114). -/
structure CopyDesc where
  src : Nat
  dst : Nat
  scheduled : Bool
  countPackets : Bool
  length : Nat
  srcAddr : Nat
  dstAddr : Nat
  rows : Nat
  srcStride : Nat
  dstStride : Nat
  eyelet : Nat
  peerRank : Nat
  stream : Nat
  qp : Nat
  rkey : Nat
deriving DecidableEq, Repr

/-- A copy in flight (R113). `moved` lists the byte ranges (first, length) that have left the source; `held` the bytes, as (first,
bytes), that wait for the rest of their destination granule or packet (R97, R335); `sent` is the first byte that no packet has
carried; `counted` is how many bytes have been counted. -/
structure Copy where
  id : Nat
  task : Nat
  desc : CopyDesc
  moved : List (Nat × Nat) := []
  held : List (Nat × List Byte) := []
  sent : Nat := 0
  counted : Nat := 0
deriving DecidableEq, Repr

/-- A tile: the group states, the level-1 share with its most recently used line first (R198), the product queue and
its running pass (R106, R107), the accumulator banks (R100), the copies in flight (R113). -/
structure Tile where
  task : Option Nat := none
  groups : SMap Group := []
  lastIssued : Nat := 15
  l1 : List L1Line := []
  passes : List PassDesc := []
  running : Option PassDesc := none
  status : Nat := 0
  copies : List Copy := []
  ending : Bool := false
  halting : Bool := false
  sentBar : Option Nat := none
deriving DecidableEq, Repr

/-- Where a step is between its placement and its completion record. -/
inductive TaskPhase where
  | placed | running | ended | interrupted
deriving DecidableEq, Repr

/-- A task: the step it runs and the tiles it holds by rank (R86 to R91). `arrivals` lists the tiles that have arrived at
each task barrier, `completed` the task barriers whose completion the root has sent (R193). -/
structure Task where
  id : Nat
  part : Nat
  gen : Nat
  ring : Nat
  index : Nat
  tag : Nat
  cq : Nat
  irq : Bool
  label : Nat
  args : Nat
  program : Program
  schedule : Nat := 0
  anchor : Nat := 0
  shape : Nat := 0
  tiles : List Nat := []
  phase : TaskPhase := .placed
  stitch : Nat := 0
  retired : List Nat := []
  eyelets : List Nat := []
  arrivals : SMap (List Nat) := []
  completed : List Nat := []
  excused : Bool := false
deriving DecidableEq, Repr

/-! ## Transactions and messages -/

/-- What a requester wanted from a transaction, and so what its response serves. A load, or the part of one in a 64-byte granule,
carries its place in the lane's value of `whole` bytes, the bytes that the store queue or level 1 gave it when it issued, as (place, byte), and
whether its sector may still fill level 1 (R261, R268). `key` is a sector of partition memory, its address divided by 64. `image` is
a read of reader 0 the loader, 1 life-cycle commands, 2 firmware, 3 return to service (R47). `late` are bytes of an overrun's copy that
were on their way to the store of tile `u` (R34). -/
inductive Purpose where
  | load (t g lane pa len place whole : Nat) (known : List (Nat × Byte)) (fill : Bool)
  | atomic (t g lane key : Nat) (len compare : Nat) (hint : Bool) (acquire : Option Nat)
  | reduction (t g key : Nat)
  | writeBack (t key : Nat)
  | copyRead (t copy first len : Nat)
  | copyWrite (t copy len : Nat)
  | late (u dst pa len : Nat)
  | recordBody (p cq index : Nat)
  | recordPhase (p cq index : Nat)
  | ringRead (p k pa : Nat)
  | ringWrite (p : Nat)
  | remoteRead (p q psn first len : Nat)
  | remoteWrite (p q psn count : Nat)
  | receive (p q psn stage : Nat)
  | save (p : Nat)
  | image (reader : Nat)
  | none
deriving DecidableEq, Repr

/-- The tile whose step a purpose belongs to. A write-back outlives its step. -/
def Purpose.tile : Purpose → Option Nat
  | .load t _ _ _ _ _ _ _ _ | .atomic t _ _ _ _ _ _ _ | .reduction t _ _ | .copyRead t _ _ _ | .copyWrite t _ _ => some t
  | _ => Option.none

/-- An open transaction of a requester (R231, R236): `agent` is the half that holds it, or 31. A half's transaction
serves every purpose that has joined it. `inv` marks IS_DI. -/
structure Tx where
  tag : Nat
  agent : Nat
  die : Nat
  site : Nat
  op : Nat
  part : Nat
  gen : Nat
  addr : Nat
  bulk : Bool
  unit : Nat := 0
  spill : Bool := false
  inv : Bool := false
  at_ : Nat := 0
  wants : List Purpose := []
deriving DecidableEq, Repr

/-- A tile write or read that waits in a half until the half's open transaction on the line ends (R236). -/
structure HalfWait where
  half : Nat
  line : Nat
  spill : Bool
  msg : Msg
  want : Purpose
deriving DecidableEq, Repr

/-- A line in a level-2 half (R200). `line` is its device or host physical address. A line that entered as a level-1
victim (R201) has only some bytes valid. -/
structure L2Line where
  half : Nat
  line : Nat
  bulk : Bool
  spill : Bool
  owner : Nat
  way : Nat
  valid : Nat
  data : List Byte
deriving DecidableEq, Repr

/-- A line in a level-3 slice (R203, R214), with its byte-valid and byte-dirty masks. `owner` 16 is the device. A line with no
valid byte holds the frame that its fill takes. `raw`: it is no longer pinned, but keeps its frame until it is encoded again
(R219). -/
structure L3Line where
  line : Nat
  bulk : Bool
  owner : Nat
  way : Nat
  valid : Nat
  dirty : Nat
  data : List Byte
  pinned : Bool := false
  held : Bool := false
  raw : Bool := false
deriving DecidableEq, Repr

/-- A tracker entry of a slice: a fill in progress and the requests that wait for it (R213). `grant` is the Cmp
grant that goes with the data to each host request. -/
structure Tracker where
  line : Nat
  bulk : Bool
  waiters : List (Msg × Nat)
deriving DecidableEq, Repr

/-- The states of a directory entry (R228). -/
inductive DirState where
  | s | h | c | f
deriving DecidableEq, Repr

/-- What a collecting entry completes (R228). -/
inductive Pending where
  | none | rdS | rdN | rdX | upg | wbm | atR | evict
deriving DecidableEq, Repr

/-- A directory entry (R228), with what the home holds beside it for an entry in C or F: the pending request, the
agents and host blocks that still owe a message, the blocks retained S, whether bit 16 was clear when an Upg
arrived. -/
structure DirEnt where
  line : Nat
  bulk : Bool
  way : Nat
  state : DirState
  presence : Nat
  hostExcl : Bool := false
  pending : Pending := .none
  req : Option Msg := none
  owedHalves : Nat := 0
  owedBlocks : Nat := 0
  retainedS : Nat := 0
  upgClear : Bool := false
  target : Nat := 0
deriving DecidableEq, Repr

/-- An entry of the spill filter (R246). `answers` lists the responses to host snoops that await it: 0 RspIHitI,
1 RspIHitSE. -/
structure FilterEnt where
  line : Nat
  bulk : Bool
  collecting : Bool := false
  vector : Nat
  owed : Nat := 0
  pending : Pending := .none
  req : Option Msg := none
  answers : List Nat := []
deriving DecidableEq, Repr

/-- A CXL.cache request of the spill filter that the host has not answered (R246). -/
inductive HostOp where
  | rdShared | rdCurr | wrCur
deriving DecidableEq, Repr

structure HostReq where
  op : HostOp
  line : Nat
  msg : Msg
  at_ : Nat := 0
deriving DecidableEq, Repr

/-- An eyelet (R271). -/
structure Eyelet where
  count : Nat := 0
  void : Bool := false
deriving DecidableEq, Repr

/-- An operation queued at a DRAM-controller ALU or at a held line (R220). -/
structure AluReq where
  die : Nat
  ch : Nat
  msg : Msg
deriving DecidableEq, Repr

/-! ## Ports and jobs -/

/-- A message of a copy on a queue pair: tile and copy, the PSN of its latest packet or of the read request, the place
of its row in the copy, and how much of a read response has come. -/
structure QpCopy where
  t : Nat
  id : Nat
  psn : Nat
  first : Nat
  len : Nat := 0
  got : Nat := 0
  read : Bool := false
deriving DecidableEq, Repr

/-- A packet that a responder has taken and not yet acknowledged (R119, R337): the writes and the bytes still to be
accepted, the eyelet that counts it, the receive slot that it completes, if it does, and whether the slot's phase byte has
left. -/
structure RxPkt where
  psn : Nat
  left : Nat
  bytes : Nat := 0
  eyelet : Nat := 0xFFFF
  packets : Bool := false
  slot : Option Nat := none
  phase : Bool := false
deriving DecidableEq, Repr

/-- A read request under way at the responder: the parts that have come, by offset (R277). -/
structure ReadJob where
  psn : Nat
  addr : Nat
  total : Nat
  parts : SMap (List Byte) := []
deriving DecidableEq, Repr

/-- The state of a queue pair (R334 to R339). `sent` lists the packets not yet acknowledged, `rate` the limit in
64ths of the port rate, `eyelets` the die eyelets named by messages begun and not completed. -/
structure Qp where
  state : Nat := 0
  error : Nat := 0
  psn : Nat := 0
  expected : Nat := 0
  incarnation : Nat := 0
  rate : Nat := 64
  lastCnpSent : Option Nat := none
  sent : List Pkt := []
  writeTo : Nat := 0
  writeEyelet : Nat := 0
  begun : Bool := false
  isSend : Bool := false
  recvLen : Nat := 0
  recvIndex : Nat := 0
  recvConsumer : Nat := 0
  packets : Bool := false
  readyAt : Option Nat := none
  copies : List QpCopy := []
  rx : List RxPkt := []
  reads : List ReadJob := []
deriving DecidableEq, Repr

/-- The headers of a frame that the device sends (R328, R332, R334, R347): addresses, 802.1Q tag, IPv4 fields and UDP ports. A
field that the spec gives this kind of frame no value is none; the multicast addresses of PTP are those of its profile and stay
empty. -/
structure FrameHdr where
  dstMac : List Byte := []
  srcMac : List Byte := []
  vlan : Nat := 0
  pcp : Nat := 0
  srcIp : List Byte := []
  dstIp : List Byte := []
  dscp : Nat := 0
  ecn : Option Nat := none
  df : Option Bool := none
  ttl : Option Nat := none
  ident : Option Nat := none
  srcUdp : Option Nat := none
  dstUdp : Nat := 0
  checksum : Option Nat := none
deriving DecidableEq, Repr

/-- The PTP messages that the device sends (R343). -/
inductive PtpSend where
  | sync | followUp | announce | delayReq | delayResp
deriving DecidableEq, Repr

/-- A RoCEv2 packet that waits in a port: its partition, its headers and the packet. -/
structure Waiting where
  part : Nat
  hdr : FrameHdr
  pkt : Pkt
deriving DecidableEq, Repr

/-- The state of an outer port beside its registers (R330): a pause that it has sent and not released, and the RoCEv2
packets that wait while the partner pauses it. -/
structure PortSt where
  pauseSent : Bool := false
  queued : List Waiting := []
deriving DecidableEq, Repr

/-- The servo of PTP (R343 to R346): its time in ns is the reference clock plus `offset`. -/
structure PtpSt where
  offset : Int := 0
  pending : Int := 0
deriving DecidableEq, Repr

/-- A failure that the manager recorded for a job stitch (R356). -/
structure JobFailure where
  stitch : Nat
  cause : Nat
  member : Nat
deriving DecidableEq, Repr

/-- An instance of a job barrier: local tasks that arrived, and counts of children by member (R351). -/
structure JobInst where
  stitch : Nat
  barrier : Nat
  tasks : List Nat := []
  children : List (Nat × Nat) := []
  sent : Bool := false
deriving DecidableEq, Repr

/-- The job engine (R347 to R360). `incs` holds the incarnation of each member in force, `newIncs` those to come as
(effective stitch, member, incarnation), `table` those that the manager has given out. `reports` are (member, MHz, epoch);
`reported` is the last epoch reported, plus 1; `freq` is (effective stitch, MHz); `heard` gives the latest heartbeat of each
neighbour. -/
structure JobSt where
  sequence : Nat := 0
  incs : SMap Nat := []
  newIncs : List (Nat × Nat × Nat) := []
  table : SMap Nat := []
  insts : List JobInst := []
  failures : List JobFailure := []
  faultSet : Bool := false
  reports : List (Nat × Nat × Nat) := []
  reported : Nat := 0
  freq : Option (Nat × Nat) := none
  heard : List (Nat × Nat) := []
  joinSent : Bool := false
deriving DecidableEq, Repr

/-! ## Partitions -/

/-- What the device holds of a partition beside its registers (R363 to R389). `fetched` holds the sectors of ring headers
and descriptors read for the current tick, `unread` those that could not be read,
`deferred` says that its scheduler still waits for some. `firstSeen` is keyed by
ring * 2^32 + index. `removing` is the device last that still holds the resources of a partition that drains to
UNDEFINED. -/
structure PartSt where
  drainTicks : Nat := 0
  removing : Option DeviceLast := none
  rotation : List Nat := [0, 0, 0, 0]
  issuedRings : List Nat := []
  firstSeen : SMap (Nat × Nat) := []
  lastOverrun : SMap (Nat × Nat) := []
  freezeAt : Option Nat := none
  thawAt : Option Nat := none
  resumed : List Nat := []
  zeroing : Bool := false
  fetched : List (Nat × List Byte) := []
  unread : List Nat := []
  deferred : Bool := false
deriving DecidableEq, Repr

/-- A completion record under way: its ring, index, bytes and trigger (R317, R318). -/
structure RecordSt where
  part : Nat
  cq : Nat
  index : Nat
  irq : Bool
  bytes : List Byte
  accepted : Bool := false
  phase : Bool := false
  complete : Bool := false
deriving DecidableEq, Repr

/-! ## Host attachment and sideband -/

/-- An MSI-X vector: its table entry and pending bit, with the stitch rule of R321: a message sent in this stitch,
and a trigger held. -/
structure Vector where
  addrLo : Nat := 0
  addrHi : Nat := 0
  data : Nat := 0
  masked : Bool := true
  pending : Bool := false
  sent : Bool := false
  held : Bool := false
deriving DecidableEq, Repr

/-- What the device has handed to the world: CXL responses, snoops and cache requests, MSI-X messages, in-band
interrupts, Ethernet frames, DOE and sideband replies. -/
inductive Out where
  | ndr (u tag grant : Nat)
  | drs (u tag : Nat) (data : List Byte)
  | biSnp (hdm : Nat) (data : Bool)
  | cacheReq (op : HostOp) (hpa mask : Nat) (data : List Byte)
  | snpRsp (hpa : Nat) (hit : Nat)
  | msix (fn vec : Nat)
  | ibi (vec : Nat)
  | packet (port : Nat) (h : FrameHdr) (p : Pkt)
  | lace (port : Nat) (h : FrameHdr) (f : LaceFrame)
  | pause (port pcp quanta : Nat)
  | ptp (port : Nat) (h : FrameHdr) (m : PtpSend) (time : Int)
  | doe (reply : List Byte)
  | cfgRead (fn off : Nat) (v : Nat)
  | sideband (data : List Byte)
deriving DecidableEq, Repr

/-- A unit reset under way: its unit, its suspects and those that had a step running (R394 to R397). -/
structure UnitReset where
  kind : Nat
  die : Nat
  unit : Nat
  suspects : List Nat
  running : List Nat
  address : Nat := 0
deriving DecidableEq, Repr

/-- A replay (R397). -/
structure Replay where
  kind : Nat
  die : Nat
  unit : Nat
  todo : List Nat
  running : List Nat
  current : Option Nat := none
  startAt : Nat := 0
  address : Nat := 0
  stage : Nat := 0
deriving DecidableEq, Repr

/-! ## Power -/

/-- What a die's power control holds beside its registers (R425 to R439). Powers are in mW. `static` is the latest
measurement of its static power, `background` those of the latest 16 stitches; `ran` lists the steps of this stitch as
(label, tiles on the die); `hard` and `held` are masks of throttle reasons: those of a reading at its hard limit, and those
that lowered the ceiling; `sums`, `grants`, `stitches` and `worst` belong to the epoch (R432). -/
structure PowerDie where
  request : Option Nat := none
  grant : Option Nat := none
  missed : Bool := false
  named : Nat := 0
  static : Option Nat := none
  background : List Nat := []
  ran : List (Nat × Nat) := []
  powerSum : Nat := 0
  powerN : Nat := 0
  lastMw : Nat := 0
  vcoreMv : Nat := 0
  peakA : Nat := 0
  hotJ : Nat := 0
  hotD : Nat := 0
  hard : Nat := 0
  held : Nat := 0
  guarded : Bool := false
  capped : Bool := false
  trimDue : Bool := false
  relock : Bool := false
  sensorsOut : List Nat := []
  sums : List Nat := []
  grants : Nat := 0
  stitches : Nat := 0
  worst : Nat := 0
deriving DecidableEq, Repr

/-- A running awl slice (R449 to R452). -/
structure SliceRun where
  die : Nat
  kind : Nat
  unit : Nat
  started : Nat
  former : Nat := 0
deriving DecidableEq, Repr

end Sys2Proof.Machine
end

