-- ==== Sys2Proof/Machine/State.lean ====
section
/-! DEFINITION. The state of the device: every register, memory, queue and mode that the spec gives it, as plain data,
and the queue of waiting commands; the outcomes of a command; the state at reset. -/

namespace Sys2Proof.Machine

/-- The tiles, the tasks on them, tile stores by device site ID * 2^20 + offset (R68), and accumulator banks by
(device site ID * 2 + bank) * 4096 + row * 64 + column as raw images (R100, R104). -/
structure TilesSt where
  tiles : SMap Tile := []
  tasks : List Task := []
  taskNo : Nat := 0
  scratch : SMap Byte := []
  banks : SMap Nat := []
deriving DecidableEq, Repr

/-- The mesh and the lace beside their registers: links marked dead as (device site ID, port, plane), the routing tables
in force (R171), the die paths (src * 8 + dst) that the die controllers have rewritten (R182, R401), barrier
contexts in use are those of the tasks. -/
structure MeshSt where
  deadLinks : List (Nat × Nat × Nat) := []
  routes : Routes := {}
  rewritten : List Nat := []
  unreachable : List Nat := []
deriving DecidableEq, Repr

/-- Messages on the way, open transactions, level 2, level 3, directories and spill filters. Lists of lines and
entries hold the most recently used first. `nextTag` counts the transactions of each die, whose tracker tags have 14 bits (R18,
R231). -/
structure CohSt where
  net : List Msg := []
  txs : List Tx := []
  nextTag : SMap Nat := []
  halfWaits : List HalfWait := []
  l2 : List L2Line := []
  l3 : List L3Line := []
  trackers : List Tracker := []
  aluQ : List AluReq := []
  retiredFrames : List Nat := []
  bypassed : List Nat := []
  dir : List DirEnt := []
  homeWait : List Msg := []
  filter : List FilterEnt := []
  filterWait : List Msg := []
  hostReqs : List HostReq := []
  duplicates : Bool := false
deriving DecidableEq, Repr

/-- The DRAM stacks (R283 to R296): bytes by device physical address, uncorrectable units, errors in units that nothing has read
yet (symbols and whether the DRAM's own correction acts, by unit), corrected units by
row-frame since cold power-up, candidates not yet on the repair list, scrub, refresh and temperature. Channels are
numbered die * 64 + channel; a channel's scrub has read one row-frame in each slack window but those it missed. -/
structure DramSt where
  mem : SMap Byte := []
  ue : List Nat := []
  latent : SMap (Nat × Bool) := []
  ce : SMap Nat := []
  candidates : List Nat := []
  noticed : List Nat := []
  ueSeen : SMap Nat := []
  scrubWindows : Nat := 0
  scrubMissed : SMap Nat := []
  scrubDeferred : SMap Nat := []
  rotation : SMap Nat := []
  readings : SMap (List Nat) := []
  coolSince : SMap (Option Nat) := []
deriving DecidableEq, Repr

/-- The UCI block (R301 to R311), the DOE mailbox (R322, R479) and the sideband target (R489, R490) beside their
registers. Configuration space is held by function * 4096 + offset, vectors by function * 32 + vector. -/
structure UciSt where
  cfg : SMap Nat := []
  vectors : SMap Vector := []
  retries : SMap Nat := []
  lost : Bool := false
  hostOpen : List Msg := []
  rasStatus : Nat := 0
  aerStatus : Nat := 0
  spdmVersion : Bool := false
  spdmCaps : Bool := false
  spdmAlgs : Bool := false
  doeError : Bool := false
  dynAddr : Nat := 0
  ibi : Bool := false
deriving DecidableEq, Repr

/-- The outer ports, queue pairs by partition * 4096 + index, the PTP servo and the job engine (R327 to R360). -/
structure OutSt where
  ports : SMap PortSt := []
  qps : SMap Qp := []
  ptp : PtpSt := {}
  job : JobSt := {}
deriving DecidableEq, Repr

/-- Partitions (R363 to R389), completion records under way (R318), and records owed by ring, p * 16 + k. -/
structure PartsSt where
  sts : SMap PartSt := []
  records : List RecordSt := []
deriving DecidableEq, Repr

/-- Faults and recovery beside their registers (R390 to R408): sequences of the event sources, unit resets, replay,
start times of the recoveries, tiles to fence when a die is ready, a return to service that waits for the tick. -/
structure FltSt where
  evSeq : SMap Nat := []
  resets : List UnitReset := []
  replays : List Replay := []
  dieAt : SMap (Option Nat) := []
  goingOut : Bool := false
  fenceLater : List (Nat × Nat × Nat) := []
  returning : Bool := false
  suspectRouters : List Nat := []
  suspectLinks : List (Nat × Nat × Nat) := []
  retryRuns : SMap Nat := []
  rerouting : List Nat := []
deriving DecidableEq, Repr

/-- Power control beside its registers (R418 to R445). `labels` holds E and the updates since cold power-up by
die * 256 + label (R429). `creditPj` is Q in pJ; `overheads` those of the latest 16 stitches in mW. `forcedBy` masks the
throttle reasons of R434 in force, `releasedAt` is when their signals went away. `since` holds when each active reason
began, as time plus 1. `floorW` is F of the stitch that ends. -/
structure PowerSt where
  dies : SMap PowerDie := []
  labels : SMap (Nat × Nat) := []
  sec : PowerSec := {}
  creditPj : Nat := 40000000000000
  overheads : List Nat := []
  inputSum : Nat := 0
  inputN : Nat := 0
  inputMw : Nat := 0
  forcedBy : Nat := 0
  releasedAt : Option Nat := none
  since : SMap Nat := []
  clearedAt : Nat := 0
  exchanged : Bool := false
  firstStitch : Bool := false
  floorW : Nat := 100
  grantsLost : Bool := false
  onWay : List (Nat × Nat) := []
deriving DecidableEq, Repr

/-- A soft repair (R460 to R462): slice kind and unit of the failure, what replaces it (0 a spare row or column, 1 the spare
tile of the row, 2 a lane, 3 a sensor's neighbours), and the spare taken, or the sensor. -/
structure SoftRepair where
  kind : Nat
  unit : Nat
  what : Nat
  spare : Nat
deriving DecidableEq, Repr

/-- The awl (R446 to R465) beside its registers. `failed` counts failures of the pass in progress by die * 8 + kind.
`active` lists the soft repairs of each die, `pendingFlash` those not yet in flash. Rows are die * 16 + y: `spareDue` are
spare tiles that take a site (row, x) at the next tick, `softRows` those that have, as x + 1, `badSpares` the rows whose spare
tile failed its latest slice. `retiredLanes` holds outer-port loopback lanes, die * 2 + port, and UCIe modules, 64 + die * 4 +
module. `marginRow` is the row of a bank, die * 7168 + DRAM unit, that its next margin read takes (R451). Lane groups are numbered by `groupKey` and `laceKey`: rotation position, stopped rotations, lanes replaced as (group,
lane, spare), and repairs under way with their stage. -/
structure AwlSt where
  running : List SliceRun := []
  failed : SMap Nat := []
  active : List (Nat × SoftRepair) := []
  pendingFlash : List (Nat × SoftRepair) := []
  spareDue : List (Nat × Nat) := []
  softRows : SMap Nat := []
  badSpares : List Nat := []
  retiredLanes : List Nat := []
  marginRow : SMap Nat := []
  calibration : SMap Nat := []
  calMoveAt : SMap Nat := []
  calStopped : List Nat := []
  laneUse : List (Nat × Nat × Nat) := []
  swapping : List (Nat × Nat × Nat × Nat) := []
deriving DecidableEq, Repr

/-- The fuses: they outlive the loss of power and only move forward (R463, R467, R468, R473). -/
structure Fuses where
  lc : Nat := 0
  vendorHash : List Byte := []
  ownerHash : List Byte := []
  ownerBurned : Bool := false
  ownerPartial : List Byte := []
  lastSteps : Nat := 0
  fwSteps : Nat := 0
  identity : Bool := false
  repairs : List (Nat × SoftRepair) := []
deriving DecidableEq, Repr

/-- A firmware bank of the flash (R470): security version and measurement, or no valid image. -/
structure FwBank where
  valid : Bool
  version : Nat
  measurement : List Byte
deriving DecidableEq, Repr

/-- The module flash: it outlives the loss of power (R295, R435, R436, R462, R470, R472). The repair lists hold
(die, channel * 2^21 + row-frame); spare rows in use are counted by bank. -/
structure Flash where
  bankA : FwBank := ⟨true, 0, []⟩
  bankB : FwBank := ⟨true, 0, []⟩
  preferB : Bool := false
  repairList : List (Nat × Nat) := []
  spareRows : SMap Nat := []
  spareMap : SMap Nat := []
  unusable : List Nat := []
  soft : List (Nat × SoftRepair) := []
  trim : SMap Nat := []
  ageing : SMap Nat := []
deriving DecidableEq, Repr

/-- A command whose image the device is still reading (R47): its reader, the row's command where it names one, the host's bytes and
whether its reads succeeded. -/
structure ImageWait where
  reader : Nat
  want : Option Nat
  image : List Byte
  fetched : Bool
deriving DecidableEq, Repr

/-- The SEC block beside its registers (R467 to R480): the state that a transition leads to, the owner hash it fuses, a raise of a
floor under way as (0 last, 1 firmware; steps), a firmware image being staged, the instruction code of the TAP (none: IDCODE, as Test-Logic-Reset leaves it), the
level of TRST_N, the commands whose images are being read and the readers of which a read has failed (R47), and the fuses as they stood at the latest
tick (R480). -/
structure SecSt where
  fuses : Fuses := {}
  flash : Flash := {}
  transition : Option Nat := none
  newOwner : List Byte := []
  floorBurn : Option (Nat × Nat) := none
  fwImage : Option FwBank := none
  tapCode : Option Nat := none
  tapReset : Bool := false
  reading : List ImageWait := []
  badReads : List Nat := []
  measured : Option Fuses := none
deriving DecidableEq, Repr

/-- Pins and start-up (R484 to R497): powered, regulators off until the input is cycled, the stages of R494 that
have completed, the address straps as sampled, the level of PWR_BRAKE_N. -/
structure PinsSt where
  powered : Bool := false
  latchedOff : Bool := false
  stage : Nat := 0
  failed : Bool := false
  straps : Nat := 0
  brakeLow : Bool := false
deriving DecidableEq, Repr

/-- The device. `regs` holds every register field at its key (Fld.key); a key that is not listed reads 0. `lastRead`
is what the latest register access returned to its reader, `out` what the device has handed to the world, oldest
first, `free` the number of free values drawn, `pending` the commands that wait, first in first out. -/
structure State where
  regs : SMap Nat := []
  clock : Clock := {}
  cfg : CfgSt := {}
  ldr : LoaderSt := {}
  dev : Option DeviceLast := none
  lasts : SMap (Option PartLast) := []
  tile : TilesSt := {}
  mesh : MeshSt := {}
  coh : CohSt := {}
  eyelets : SMap Eyelet := []
  dram : DramSt := {}
  uci : UciSt := {}
  outer : OutSt := {}
  part : PartsSt := {}
  flt : FltSt := {}
  power : PowerSt := {}
  awl : AwlSt := {}
  sec : SecSt := {}
  pins : PinsSt := {}
  out : List Out := []
  lastRead : Nat := 0
  free : Nat := 0
  pending : List Instr := []
deriving DecidableEq, Repr

/-- How the device stops. The spec gives every command of the table an effect, so nothing stops it: there is no
fault. -/
inductive Fault where
deriving DecidableEq, Repr

/-- A command without a meaning. -/
inductive Refusal where
  /-- The command named has no meaning yet. Raised by `exec` only. Safe: the run stops. -/
  | notModelled (mnemonic : String)
deriving DecidableEq, Repr

/-- The registers whose value at power-up is not 0 (R14): STCH_PERIOD, STCH_SLACK (R65), the cap and floor of R441,
the energy credit of R424, and the lowest state of every die (R494). -/
def coldRegs : SMap Nat :=
  ([(fStchPeriod_period_us, 10), (fStchSlack_slack_permille, 50),
    (fPwrCapSet_cap_w, 5000), (fPwrFloorSet_floor_w, 100), (fPwrBudget_credit_mj, 40000)] ++
    (List.range 8).map fun d => (fPwrDieA_state d, 36)).foldl
      (fun m (e : Fld × Nat) => mapSet 0 m e.1.key e.2) []

/-- The module as it lies before its first power good: OFF, fuses blank (R467), registers at their cold values. -/
def State.reset : State := { regs := coldRegs }

end Sys2Proof.Machine
end

