-- ==== Sys2Proof/Machine/Ops.lean ====
section
/-! DEFINITION. The named operations that the commands share: registers, time, free values, events, vectors and fault
records (R409 to R415), eyelets, tile stores, transactions, lace frames, and the stop and teardown of work (R34, R377). -/

namespace Sys2Proof.Machine

/-! ## Registers -/

/-- The value of a register field. -/
def State.get (s : State) (f : Fld) : Nat := mapGet 0 s.regs f.key

/-- A register field set to `v`, cut to its width. -/
def State.set (s : State) (f : Fld) (v : Nat) : State := { s with regs := mapSet 0 s.regs f.key (v % 2 ^ f.width) }

/-- A counter that wraps, raised by `n`. -/
def State.addTo (s : State) (f : Fld) (n : Nat) : State := s.set f (s.get f + n)

/-- A counter that saturates, raised by `n`. -/
def State.bump (s : State) (f : Fld) (n : Nat) : State := s.set f (satAdd f.width (s.get f) n)

/-- A one-bit field as a truth value. -/
def State.flag (s : State) (f : Fld) : Bool := s.get f == 1

/-- Set several fields. -/
def State.setAll (s : State) : List (Fld × Nat) → State
  | [] => s
  | (f, v) :: fs => (s.set f v).setAll fs

/-- Set or clear bit `i` of a field that is a mask. -/
def State.setBitOf (s : State) (f : Fld) (i : Nat) (b : Bool) : State :=
  s.set f (if b then setBit (s.get f) i else clearBit (s.get f) i)

/-- The fields of every row whose reset event satisfies `ev` and whose address satisfies `at_` return to their
reset value (R12, R14). -/
def State.resetFields (s : State) (at_ : Nat → Bool) (ev : ResetEvent → Bool) : State :=
  { s with regs := s.regs.filter fun e =>
      let a := e.1 / 64
      !(at_ a && (rowsAt a).any fun r => ev r.rst && r.los.contains (e.1 % 64)) }

/-! ## Time -/

/-- The number of the current stitch. -/
def State.stitch (s : State) : Nat := s.get fStchCount_count

/-- The period in ns (R24). -/
def State.period (s : State) : Nat := 1000 * s.get fStchPeriod_period_us

/-- The slack length L in ns (R30). -/
def State.slackLen (s : State) : Nat := s.get fStchPeriod_period_us * s.get fStchSlack_slack_permille

/-- The arrival of the latest tick at every die, 64 ns after its generation (R191). -/
def State.tickArrival (s : State) : Nat := s.clock.tickAt + 64

/-- Time from tick in ns (R27). -/
def State.fromTick (s : State) : Nat := s.clock.now - s.tickArrival

/-- The reference clock advanced to `t`, never back. The arithmetic clock of CD0 runs at 1,300 - 25 c MHz in state c (R420). -/
def State.advanceTo (s : State) (t : Nat) : State :=
  { s with clock := { s.clock with
    now := max s.clock.now t,
    milliCycles := s.clock.milliCycles + (t - s.clock.now) * (1300 - 25 * s.get (fPwrDieA_state 0)) } }

/-- Milliseconds of the module reference clock since power good (R417). -/
def State.nowMs (s : State) : Nat := s.clock.now / 1000000

/-! ## Free values -/

/-- The next free value, and the state that has drawn it (log entry 5). -/
def State.draw (s : State) : Nat × State := (Config.freeNat s.free, { s with free := s.free + 1 })

/-- One of several values that the spec allows, with no draw where there is no choice. -/
def State.pick {α : Type} (s : State) (dflt : α) : List α → α × State
  | [] => (dflt, s)
  | [x] => (x, s)
  | xs => (xs.getD (s.draw.1 % xs.length) dflt, s.draw.2)

/-! ## Interrupts -/

def State.emit (s : State) (o : Out) : State := { s with out := s.out ++ [o] }

def State.vector (s : State) (fn vec : Nat) : Vector := mapGet {} s.uci.vectors (fn * 32 + vec)

def State.setVector (s : State) (fn vec : Nat) (v : Vector) : State :=
  { s with uci := { s.uci with vectors := mapSet {} s.uci.vectors (fn * 32 + vec) v } }

/-- An MSI-X message leaves, if the host link is up. -/
def State.message (s : State) (fn vec : Nat) : State :=
  if s.flag fUciStatus_link_up then s.emit (.msix fn vec) else s

/-- Vector `vec` of function `fn` fires (R320, R321). A physical-function vector also sends an in-band interrupt
where ENEC has enabled them (R490). -/
def State.fire (s : State) (fn vec : Nat) : State :=
  let s := if fn = 0 && s.uci.ibi then s.emit (.ibi vec) else s
  let v := s.vector fn vec
  if v.masked then s.setVector fn vec { v with pending := true }
  else if v.sent then s.setVector fn vec { v with held := true }
  else (s.setVector fn vec { v with sent := true }).message fn vec

/-! ## Events and fault records -/

/-- Event `code` of source `src` (R412 to R415). -/
def State.event (s : State) (src code d0 d1 : Nat) (part : Option Nat := none) : State :=
  let n := mapGet 0 s.flt.evSeq src
  let s := { s with flt := { s.flt with evSeq := mapSet 0 s.flt.evSeq src (n + 1) } }
  let head := s.get fFltEvHead_count
  let used := (head + 2 ^ 32 - s.get fFltEvTail_count) % 2 ^ 32
  if used = 8192 then s.bump fFltEvStatus_dropped 1
  else
    let i := head % 8192
    let s := s.setAll
      [(fFltEvA_source i, src), (fFltEvA_code i, code), (fFltEvA_partition i, part.getD 0),
       (fFltEvA_partition_valid i, if part.isSome then 1 else 0), (fFltEvA_valid i, 1), (fFltEvA_sequence i, n),
       (fFltEvB_ns i, s.fromTick), (fFltEvB_stitch i, s.stitch), (fFltEvC_data0 i, d0), (fFltEvD_data1 i, d1),
       (fFltEvHead_count, head + 1), (fFltEvStatus_full, if used + 1 = 8192 then 1 else 0)]
    s.fire 0 3

/-- What a fault record says (R410). -/
structure FaultInfo where
  cause : Nat
  level : Nat := 0
  unitKind : Nat := 0
  die : Nat := 0
  unit : Nat := 0
  guilty : Option Nat := none
  affected : Nat := 0
  tile : Option Nat := none
  gen : Nat := 0
  detail : Nat := 0
  address : Nat := 0

/-- A fault record is written, or dropped where the ring is full (R409). -/
def State.recordFault (s : State) (f : FaultInfo) : State :=
  let head := s.get fFltRecHead_count
  let used := (head + 2 ^ 32 - s.get fFltRecTail_count) % 2 ^ 32
  let dropped := s.get fFltRecStatus_dropped
  if used = 1024 then s.bump fFltRecStatus_dropped 1
  else
    let i := head % 1024
    let s := s.setAll
      [(fFltRecA_cause i, f.cause), (fFltRecA_level i, f.level), (fFltRecA_unit_kind i, f.unitKind),
       (fFltRecA_die i, f.die), (fFltRecA_unit i, f.unit), (fFltRecA_guilty i, f.guilty.getD 0),
       (fFltRecA_guilty_valid i, if f.guilty.isSome then 1 else 0), (fFltRecA_affected i, f.affected),
       (fFltRecA_tile i, f.tile.getD 0), (fFltRecA_tile_valid i, if f.tile.isSome then 1 else 0),
       (fFltRecA_valid i, 1), (fFltRecB_sequence i, head + dropped), (fFltRecB_stitch i, s.stitch),
       (fFltRecC_ns i, s.fromTick), (fFltRecC_generation i, f.gen), (fFltRecC_detail i, f.detail),
       (fFltRecD_address i, f.address), (fFltRecHead_count, head + 1),
       (fFltRecStatus_full, if used + 1 = 1024 then 1 else 0)]
    s.fire 0 2

/-- A die is in recovery (R417). -/
def State.recovering (s : State) (d : Nat) : Bool := (s.get fFltStatus_dies_recovering).testBit d

/-- Software consumes records of a ring of `n`: a tail beyond the head, or more than `n` behind it, is ignored (R253). -/
def State.consume (s : State) (head tail full : Fld) (n v : Nat) : State :=
  let t := v % 2 ^ 32
  let gap := (s.get head + 2 ^ 32 - t) % 2 ^ 32
  if gap ≤ n then (s.set tail t).set full (if gap = n then 1 else 0) else s

/-! ## Partitions, tiles, pages and eyelets -/

def State.partState (s : State) (p : Nat) : Nat := s.get (fPartStatus_state p)
def State.generation (s : State) (p : Nat) : Nat := s.get (fPartStatus_generation p)
def State.lastOf (s : State) (p : Nat) : Option PartLast := mapGet none s.lasts p
def State.partSt (s : State) (p : Nat) : PartSt := mapGet {} s.part.sts p
def State.setPartSt (s : State) (p : Nat) (x : PartSt) : State :=
  { s with part := { s.part with sts := mapSet {} s.part.sts p x } }

/-- The device last in force defines partition `p`. -/
def State.defined (s : State) (p : Nat) : Bool :=
  match s.dev with
  | some l => p < 16 && l.defined.testBit p
  | none => false

/-- The device last that gives partition `p` its resources: the one in force, or, while a partition that it removed
drains, the one before (R363). -/
def State.holder (s : State) (p : Nat) : Option DeviceLast :=
  match (s.partSt p).removing with
  | some l => some l
  | none => s.dev

/-- The PARTITIONS entry of partition `p` (R365), empty where none defines it. -/
def State.partEntry (s : State) (p : Nat) : List Byte :=
  match s.holder p with
  | some l => if l.defined.testBit p then l.parts.getD p [] else []
  | none => []

/-- The function of partition `p` and its program die (R365). -/
def State.functionOf (s : State) (p : Nat) : Nat := field (s.partEntry p) 0 1
def State.programDie (s : State) (p : Nat) : Nat := field (s.partEntry p) 1 1

/-- The partition that virtual function `n` serves (R310). -/
def State.partOfFn (s : State) (n : Nat) : Option Nat :=
  match s.dev with
  | some l => (List.range 16).find? fun p => l.defined.testBit p && field (l.parts.getD p []) 0 1 == n
  | none => none

/-- The column that the spare tile of row `y` of die `d` replaces, by the repair map in force (R171, R195). -/
def State.repairCol (s : State) (d y : Nat) : Option Nat :=
  if s.flag (fMeshRepair_valid d (y / 8) (y % 8)) then some (s.get (fMeshRepair_x d (y / 8) (y % 8))) else none

/-- The device site ID that tile `t` serves, if it is a pool tile (R17). -/
def State.serves (s : State) (t : Nat) : Option Nat :=
  let d := tileDie t
  let x := siteX (tileSite t)
  let y := siteY (tileSite t)
  match s.repairCol d y with
  | none => if x < 16 then some t else none
  | some c => if x = 16 then some (d * 272 + y * 17 + c) else if x = c then none else some t

/-- The tile that serves device site `t` (R17). -/
def State.servedBy (s : State) (t : Nat) : Nat :=
  let y := siteY (tileSite t)
  if s.repairCol (tileDie t) y = some (siteX (tileSite t)) then tileDie t * 272 + y * 17 + 16 else t

/-- The entry of a partition names device site `t` (R365). -/
def entryHasSite (entry : List Byte) (t : Nat) : Bool :=
  let s := tileSite t
  (entry.getD (240 + 34 * tileDie t + s / 8) 0).toNat.testBit (s % 8)

/-- The partition that owns tile `t` (R87, R365). -/
def State.ownerOf (s : State) (t : Nat) : Option Nat :=
  (s.serves t).bind fun w => (List.range 16).find? fun p => entryHasSite (s.partEntry p) w

/-- The pool tiles of partition `p`, in rising device site ID of the site that each serves (R89). -/
def State.tilesOf (s : State) (p : Nat) : List Nat :=
  ((List.range 2176).filter fun t => entryHasSite (s.partEntry p) t).map s.servedBy

def State.tileAt (s : State) (t : Nat) : Tile := mapGet {} s.tile.tiles t
def State.setTile (s : State) (t : Nat) (x : Tile) : State :=
  { s with tile := { s.tile with tiles := mapSet {} s.tile.tiles t x } }
def State.groupAt (s : State) (t g : Nat) : Group := mapGet {} (s.tileAt t).groups g
def State.setGroup (s : State) (t g : Nat) (x : Group) : State :=
  s.setTile t { s.tileAt t with groups := mapSet {} (s.tileAt t).groups g x }

def State.taskById (s : State) (id : Nat) : Option Task := s.tile.tasks.find? fun k => k.id == id
def State.fenced (s : State) (t : Nat) : Bool := s.get (fTileState_state (tileDie t) (tileSite t)) == 5
/-- The task on tile `t`: nothing runs on a fenced tile (R180). -/
def State.taskOn (s : State) (t : Nat) : Option Task :=
  if s.fenced t then none else (s.tileAt t).task.bind s.taskById
def State.setTask (s : State) (k : Task) : State :=
  { s with tile := { s.tile with tasks := s.tile.tasks.map fun x => if x.id = k.id then k else x } }

/-- TILE_STATE.state as stored: FREE and UNASSIGNED are both stored as 0 and told apart by the owner. -/
def State.tileCode (s : State) (t : Nat) : Nat :=
  let c := s.get (fTileState_state (tileDie t) (tileSite t))
  if c ≤ 1 then (if (s.ownerOf t).isSome then 1 else 0) else c
def State.setTileCode (s : State) (t c : Nat) : State := s.set (fTileState_state (tileDie t) (tileSite t)) c

/-- The level-1 share of a tile in units of 64 KiB, and its scratch size (R68). -/
def State.l1Share (s : State) (t : Nat) : Nat := s.get (fTileSplit_l1_share (tileDie t) (tileSite t))
def State.scratchSize (s : State) (t : Nat) : Nat := 1048576 - 65536 * s.l1Share t

/-- Bytes of a page (R206). -/
def pageBytes (size : Nat) : Nat := if size = 0 then 2 ^ 16 else if size = 1 then 2 ^ 21 else 2 ^ 30

/-- Where a partition address leads (R207): the address on a die or at the host, with the entry's attributes. -/
structure PageHit where
  spill : Bool
  addr : Nat
  bulk : Bool
  atomics : Bool
deriving DecidableEq, Repr

/-- The translation of R207 within one entry. -/
def PageEnt.translate (e : PageEnt) (pa : Nat) : PageHit :=
  let r := pa - e.pa
  let at_ (a : Nat) : PageHit := ⟨false, a, e.bulk, e.atomics⟩
  if e.home < 8 then at_ (dpa e.home (e.target + r))
  else if e.home = 8 then
    let i := r / 2 ^ 21
    at_ (dpa (i % 8) (e.target + i / 8 * 2 ^ 21 + r % 2 ^ 21))
  else ⟨true, e.target + r, e.bulk, e.atomics⟩

/-- Partition address `pa` lies in the entry. -/
def PageEnt.covers (e : PageEnt) (pa : Nat) : Bool := e.pa ≤ pa && pa < e.pa + e.count * pageBytes e.size

def State.pages (s : State) (p : Nat) : List PageEnt :=
  match s.holder p with
  | some l => l.pages.filter fun e => e.part == p
  | none => []

/-- The translation of a partition address, `none` where no entry maps it (R207). -/
def State.translate (s : State) (p pa : Nat) : Option PageHit :=
  ((s.pages p).find? fun e => e.covers pa).map fun e => e.translate pa

/-- The DRAM extent of an entry on die `d`: first offset and length (R208). -/
def PageEnt.extent (e : PageEnt) (d : Nat) : Option (Nat × Nat) :=
  if e.home = d then some (e.target, e.count * pageBytes e.size)
  else if e.home = 8 then some (e.target, e.count * pageBytes e.size / 8)
  else none

/-- The PAGES entry that maps a device physical address. -/
def State.pageOf (s : State) (a : Nat) : Option PageEnt :=
  let held := (List.range 16).flatMap fun p => if (s.partSt p).removing.isSome then s.pages p else []
  let now := (s.dev.map fun l => l.pages).getD []
  (held ++ now).find? fun e =>
    match e.extent (dpaDie a) with
    | some (t, n) => t ≤ dpaOff a && dpaOff a < t + n
    | none => false

/-- The FORMAT_MODES of partition `p` (R144): sat_mode, out_round, lane_round. -/
def State.satMode (s : State) (p : Nat) : Nat := ((s.lastOf p).map fun l => field l.modes 0 1).getD 0
def State.outRound (s : State) (p : Nat) : Nat := ((s.lastOf p).map fun l => field l.modes 1 1).getD 0
def State.laneRound (s : State) (p : Nat) : Nat := ((s.lastOf p).map fun l => field l.modes 2 1).getD 0

/-- The partition of a line, 16 for the device as owner (R216). -/
def State.ownerOfLine (s : State) (a : Nat) : Nat := match s.pageOf a with | some e => e.part | none => 16

/-- The class of the line that holds device address `a`: a line in no entry is fine, unless its slice or directory still
holds it as part of a bulk line (log entry 12). -/
def State.isBulk (s : State) (a : Nat) : Bool :=
  (match s.pageOf a with | some e => e.bulk | none => false) ||
    s.coh.l3.any (fun l => l.bulk && l.line == alignDown a 2048) ||
    s.coh.dir.any fun e => e.bulk && e.line == alignDown a 2048

/-- The eyelets of partition `p` on die `d`: first and count (R368). -/
def State.eyeletRange (s : State) (p d : Nat) : Nat × Nat :=
  match s.holder p with
  | some l => if l.defined.testBit p then l.eyelets.getD (p * 8 + d) (0, 0) else (0, 0)
  | none => (0, 0)

def State.eyeletCount (s : State) (p : Nat) : Nat := ((List.range 8).map fun d => (s.eyeletRange p d).2).foldl (· + ·) 0

/-- The die eyelet, as die * 32768 + number, that partition eyelet `i` names (R368). -/
def State.eyeletOf (s : State) (p i : Nat) : Option Nat :=
  let rec go : List Nat → Nat → Option Nat
    | [], _ => none
    | d :: ds, i =>
      let (first, n) := s.eyeletRange p d
      if i < n then some (d * 32768 + first + i) else go ds (i - n)
  go (List.range 8) i

/-! ## Eyelets (R271) -/

def State.eye (s : State) (e : Nat) : Eyelet := mapGet {} s.eyelets e
def State.setEye (s : State) (e : Nat) (v : Eyelet) : State := { s with eyelets := mapSet {} s.eyelets e v }

/-- An arrival or addition of `n` on die eyelet `e`, which saturates at 2^63 - 1 and then sets void (R271). One that has saturated
is counted once (R282). -/
def State.eyeCount (s : State) (e n : Nat) : State :=
  let v := s.eye e
  let d := e / 32768
  let s := s.addTo (fEyeCntArrive_count d) 1
  if v.count + n < 2 ^ 63 then s.setEye e { v with count := v.count + n }
  else
    let s' := s.setEye e ⟨2 ^ 63 - 1, true⟩
    if v = ⟨2 ^ 63 - 1, true⟩ then s' else s'.bump (fEyeStatus_saturated d) 1

/-- The void flag of a die eyelet is set. -/
def State.eyeVoid (s : State) (e : Nat) : State := s.setEye e { s.eye e with void := true }

/-! ## Tile stores (R97) -/

def State.scratchRead (s : State) (t off n : Nat) : List Byte := mapGetList 0#8 s.tile.scratch (t * 2 ^ 20 + off) n
def State.scratchWrite (s : State) (t off : Nat) (bs : List Byte) : State :=
  { s with tile := { s.tile with scratch := mapSetList 0#8 s.tile.scratch (t * 2 ^ 20 + off) bs } }
def State.scratchWriteMasked (s : State) (t off mask : Nat) (bs : List Byte) : State :=
  { s with tile := { s.tile with scratch := mapSetMasked 0#8 s.tile.scratch (t * 2 ^ 20 + off) mask bs } }
/-- The tile store cleared through all banks (R369). -/
def State.scratchZero (s : State) (t : Nat) : State :=
  { s with tile := { s.tile with scratch := mapClear s.tile.scratch (t * 2 ^ 20) ((t + 1) * 2 ^ 20) } }

/-! ## Messages and transactions -/

/-- A message leaves. -/
def State.send (s : State) (m : Msg) : State := { s with coh := { s.coh with net := s.coh.net ++ [m] } }

/-- A message that has arrived is no longer on the way. -/
def State.arrive (s : State) (m : Msg) : State := { s with coh := { s.coh with net := s.coh.net.erase m } }

def State.setTxs (s : State) (txs : List Tx) : State := { s with coh := { s.coh with txs := txs } }

/-- A transaction opens under the next tracker tag of its die (R18, R231). -/
def State.openTx (s : State) (x : Tx) : Nat × State :=
  let n := mapGet 0 s.coh.nextTag x.die
  (n % 16384, { s with coh := { s.coh with
    nextTag := mapSet 0 s.coh.nextTag x.die (n + 1), txs := s.coh.txs ++ [{ x with tag := n % 16384, at_ := s.clock.now }] } })

/-- The same transaction: a tag is that of a die. -/
def Tx.same (x y : Tx) : Bool := x.die == y.die && x.tag == y.tag

/-! ## Copies (R113, R121) -/

/-- A copy leaves the engine of tile `t`. -/
def State.dropCopy (s : State) (t id : Nat) : State :=
  s.setTile t { s.tileAt t with copies := (s.tileAt t).copies.filter fun c => c.id != id }

/-- The die eyelet that counts a copy on this device, if it names one here. -/
def State.copyEyelet (s : State) (p : Nat) (d : CopyDesc) : Option Nat :=
  if d.dst = 3 || d.eyelet = 0xFFFFFFFF then none else s.eyeletOf p d.eyelet

/-- A copy of tile `t` ends in error: no further byte is counted, and its eyelet is voided (R121). -/
def State.copyError (s : State) (t id : Nat) : State :=
  match (s.tileAt t).copies.find? fun c => c.id == id with
  | none => s
  | some c =>
    let e := ((s.taskById c.task).map fun k => k.part).bind fun p => s.copyEyelet p c.desc
    let s := s.dropCopy t id
    match e with
    | some e => s.eyeVoid e
    | none => s

/-! ## Frames (R328, R332) -/

/-- The entry of a port in the device last in force, and the header of the PORTS body (R332). -/
def State.portEnt (s : State) (k : Nat) : PortEnt := ((s.dev.bind fun l => l.ports[k]?)).getD {}
def State.portsHdr (s : State) : PortsHdr := (s.dev.map fun l => l.portsHdr).getD {}

/-- What every frame of a port has: the port's addresses and VLAN, a PCP, and DSCP 8 × PCP (R328). -/
def State.frameHdr (s : State) (port pcp : Nat) : FrameHdr :=
  { srcMac := (s.portEnt port).mac, vlan := (s.portEnt port).vlan, pcp, srcIp := (s.portEnt port).ipv4, dscp := 8 * pcp }

/-- The headers of a lace frame to an address entry (R347). -/
def State.laceHdr (s : State) (a : AddrEnt) : FrameHdr :=
  { s.frameHdr a.port s.portsHdr.lacePcp with
    dstMac := a.mac, dstIp := a.ipv4, ecn := some 0, df := some true, ttl := some 64, ident := some 0,
    srcUdp := some s.portsHdr.laceUdp, dstUdp := s.portsHdr.laceUdp, checksum := some 0 }

/-- A queue pair's peer as a receiver of lace frames. -/
def QpCfg.addr (c : QpCfg) : AddrEnt := { member := c.peerMember, port := c.port, ipv4 := c.peerIpv4, mac := c.mac }

/-! ## Lace frames and job membership (R347) -/

/-- The job engine's partition and its JOB section, while its job has more than one member (R340). -/
def State.jobOf (s : State) : Option (Nat × JobSec) :=
  if s.get fOutJobStatus_role = 0 then none
  else
    let p := s.get fOutJobStatus_partition
    (s.lastOf p).map fun l => (p, l.job)

def State.setJob (s : State) (j : JobSt) : State := { s with outer := { s.outer with job := j } }

/-- A lace frame leaves for a receiver, with the next sequence number of this source (R347); none of a member that has left its job
(R357). -/
def State.laceTo (s : State) (a : AddrEnt) (f : LaceFrame) : State :=
  match s.jobOf with
  | none => s
  | some (_, j) =>
    if s.get fOutJobStatus_state = 3 then s else
    let f := { f with jobId := j.jobId, incarnation := s.get fOutJobInc_incarnation, sequence := s.outer.job.sequence }
    let s := s.setJob { s.outer.job with sequence := (s.outer.job.sequence + 1) % 2 ^ 32 }
    (s.emit (.lace a.port (s.laceHdr a) f)).addTo (fOutPortTx_count (a.port / 2) (a.port % 2)) 1

/-- A frame of this member's own: source and subject are the member (R347). -/
def State.ownFrame (s : State) (type : Nat) : LaceFrame :=
  match s.jobOf with
  | some (_, j) => { type := type, source := j.member, subject := j.member, jobStitch := s.get fOutJobStitch_stitch }
  | none => { type := type }

/-- A frame goes up, to the parent. -/
def State.laceUp (s : State) (f : LaceFrame) : State :=
  match s.jobOf with
  | some (_, j) => match j.parent with | some a => s.laceTo a f | none => s
  | none => s

/-- A frame goes down, to every child. -/
def State.laceDown (s : State) (f : LaceFrame) : State :=
  match s.jobOf with
  | some (_, j) => j.children.foldl (fun s a => s.laceTo a f) s
  | none => s

/-! ## Queue pairs (R334, R338) -/

def State.qp (s : State) (p q : Nat) : Qp := mapGet {} s.outer.qps (p * 4096 + q)
def State.setQp (s : State) (p q : Nat) (x : Qp) : State :=
  { s with outer := { s.outer with qps := mapSet {} s.outer.qps (p * 4096 + q) x } }
def State.qpCfg (s : State) (p q : Nat) : Option QpCfg := (s.lastOf p).bind fun l => l.job.qps[q]?

/-- The queue pair number on the wire (R334): `i` is the incarnation of the device at the other end from the queue
pair. -/
def qpNumber (i p q : Nat) : Nat := i % 256 * 2 ^ 16 + p * 2 ^ 12 + q

/-- The copies in flight on a queue pair, as (tile, copy). -/
def State.copiesOn (s : State) (p q : Nat) : List (Nat × Nat) :=
  s.tile.tiles.flatMap fun e => (e.2.copies.filter fun c => (c.desc.src == 3 || c.desc.dst == 3) && c.desc.qp == q &&
    ((s.taskById c.task).map fun k => k.part) == some p).map fun c => (e.1, c.id)

/-- A queue pair enters error (R338): copies on it end, the eyelets of messages begun are voided, and unless the code
is PEER_DOWN or TEARDOWN a QP_RESET frame goes to the peer. -/
def State.qpError (s : State) (p q code : Nat) : State :=
  match s.qpCfg p q with
  | none => s
  | some c =>
    let x := s.qp p q
    if x.state = 2 then s else
    let s := (s.copiesOn p q).foldl (fun s e => s.copyError e.1 e.2) s
    let s := if x.begun && x.writeEyelet != 0xFFFF then
        match s.eyeletOf p x.writeEyelet with | some e => s.eyeVoid e | none => s
      else s
    let s := if x.begun && x.isSend && c.recvEyelet != 0xFFFFFFFF then
        match s.eyeletOf p c.recvEyelet with | some e => s.eyeVoid e | none => s
      else s
    let js := s.get fOutJobStitch_stitch
    let ready := if code = 2 || code = 4 then none else some (js + 4)
    let s := s.setQp p q { x with state := 2, error := code, sent := [], copies := [], begun := false, readyAt := ready }
    let s := s.event (8 + c.port) 0x1C q code (some p)
    if code = 2 || code = 4 || code = 6 then s
    else s.laceTo c.addr { s.ownFrame 0x0B with value := qpNumber (s.get fOutJobInc_incarnation) c.peerPart c.peerQp }

/-! ## Stopping work (R34, R377) -/

/-- The die that receives a response. -/
def receivingDie (m : Msg) : Nat :=
  match m.dst with
  | .half n => n.val / 2
  | .tile t => tileDie t.val
  | .ctl d => d.val
  | _ => 0

/-- The data that answers a transaction is on its way. -/
def State.dataOnWay (s : State) (x : Tx) : Bool :=
  s.coh.net.any fun m => (m.opcode == 0x10 || m.opcode == 0x11) && m.tag == x.tag && receivingDie m == x.die

/-- Byte `b` of a copy, counted over its rows: its source and destination address (R114). -/
def CopyDesc.srcOf (d : CopyDesc) (b : Nat) : Nat := d.srcAddr + b / d.length * d.srcStride + b % d.length
def CopyDesc.dstOf (d : CopyDesc) (b : Nat) : Nat := d.dstAddr + b / d.length * d.dstStride + b % d.length

/-- The tile that a TILE or PEER kind names (R115). -/
def peerTile (k : Task) (t kind rank : Nat) : Option Nat := if kind = 0 then some t else k.tiles[rank]?

/-- What is left of a purpose of tile `t` when the tile halts: bytes of a copy that are already on their way to a tile store are
delivered there, and not counted (R34). -/
def State.afterHalt (s : State) (t : Nat) (x : Tx) (w : Purpose) : Option Purpose :=
  if w.tile != some t then some w
  else match w with
    | .copyRead _ id first len =>
      match (s.tileAt t).copies.find? fun c => c.id == id with
      | none => none
      | some c =>
        match (s.taskById c.task).bind fun k => peerTile k t c.desc.dst c.desc.peerRank with
        | some u => if c.desc.dst < 2 && s.dataOnWay x then some (.late u (c.desc.dstOf first) (c.desc.srcOf first) len) else none
        | none => none
    | _ => none

/-- The tile halts: passes are abandoned, store queues discarded, level 1 invalidated without write-back, unsent copy
bytes dropped. What has left the tile goes on, uncounted. The tile is HELD until the next tick, unless it is fenced. -/
def State.haltTile (s : State) (t : Nat) : State :=
  let s := { s with coh := { s.coh with
    txs := s.coh.txs.map (fun (x : Tx) => { x with wants := x.wants.filterMap (s.afterHalt t x) }),
    halfWaits := s.coh.halfWaits.filterMap fun (w : HalfWait) =>
      if w.want.tile ≠ some t then some w else if w.msg.opcode = 1 then none else some { w with want := .none } } }
  let s := s.setTile t { s.tileAt t with
    task := none, groups := [], l1 := [], passes := [], running := none, copies := [], ending := false, halting := true,
    sentBar := none }
  if s.fenced t then s else s.setTileCode t 4

/-- Every eyelet that a copy of the task names is voided, and its tiles halt: the actions of R34 on a task. -/
def State.stopTask (s : State) (k : Task) : State :=
  let s := k.eyelets.foldl State.eyeVoid s
  let s := k.tiles.foldl State.haltTile s
  { s with tile := { s.tile with tasks := s.tile.tasks.filter fun x => x.id != k.id } }

/-- A line is unpinned. It keeps its frame until the slice encodes it again (R219). -/
def L3Line.unpin (l : L3Line) : L3Line := { l with pinned := false, raw := l.raw || l.pinned }

/-- Pinned lines of the partition are unpinned (R219). -/
def State.unpinAll (s : State) (p : Nat) : State :=
  { s with coh := { s.coh with l3 := s.coh.l3.map fun x => if x.owner = p then x.unpin else x } }

/-- An accepted or unchecked commit of group `g` is discarded, its shadows return to the values in force, and its
pending bit clears (R62). -/
def State.dropCommit (s : State) (g : Nat) : State :=
  let was := s.cfg.accepted.any fun c => c.group == g
  let sh := if 18 ≤ g && g < 34 then
      s.cfg.shadow.filter fun e => !(2 ^ 32 + (g - 18) * 2 ^ 24 ≤ e.1 / 64 && e.1 / 64 < 2 ^ 32 + (g - 17) * 2 ^ 24)
    else if g = 17 then s.cfg.shadow.filter fun e => 2 ^ 32 ≤ e.1 / 64
    else s.cfg.shadow
  let s := { s with cfg := { s.cfg with
    checks := s.cfg.checks.filter (fun c => c.group != g), accepted := s.cfg.accepted.filter (fun c => c.group != g),
    shadow := sh } }
  if !was then s
  else if g = 17 then s.setAll [(fCfgStatus_pending, 0), (fCfgStatus_pending_group, 0)]
  else if 18 ≤ g && g < 34 then s.setAll [(fPartCfgStatus_pending (g - 18), 0), (fPartCfgStatus_pending_group (g - 18), 0)]
  else s

/-- DOWN goes to the parent, the children and the queue-pair peers (R348, R357). -/
def State.sendDown (s : State) : State :=
  match s.jobOf with
  | none => s
  | some (_, j) =>
    let f := s.ownFrame 0x08
    let s := (s.laceUp f).laceDown f
    let tree := (j.parent.map fun a => a.member).toList ++ j.children.map fun a => a.member
    let peers := j.qps.foldl (fun (l : List AddrEnt) c =>
      if tree.contains c.peerMember || l.any (fun e => e.member == c.peerMember) then l else l ++ [c.addr]) []
    peers.foldl (fun s a => s.laceTo a f) s

/-- Outer frames of a partition that wait in a port are discarded (R377). -/
def State.dropFrames (s : State) (p : Nat) : State :=
  { s with outer := { s.outer with ports := s.outer.ports.filterMap fun e =>
      let x : PortSt := { e.2 with queued := e.2.queued.filter fun y => y.part != p }
      if x = {} then none else some (e.1, x) } }

/-- A migration phase changes (R389). -/
def State.setPhase (s : State) (p phase : Nat) : State :=
  s.setAll [(fPmStatus_phase p, phase), (fPmStatus_stitch p, s.stitch)]

/-- A partition's teardown starts (R377, R380): nothing happens to one that is already DRAINING or not defined. -/
def State.teardown (s : State) (p cause : Nat) : State :=
  let st := s.partState p
  if st = 0 || st = 4 then s else
  let s := s.setAll [(fPartStatus_state p, 4), (fPartStatus_generation p, s.generation p + 1)]
  let s := s.event 0x1D 0x0A (s.generation p) cause (some p)
  let s := s.dropCommit (18 + p)
  let s := (s.tile.tasks.filter fun k => k.part == p).foldl State.stopTask s
  let s := ((s.lastOf p).map fun l => l.job.qps.length).getD 0 |> List.range |>.foldl (fun s q =>
      if (s.qp p q).state = 0 then s else s.qpError p q 4) s
  let s := s.dropFrames p
  let s := if s.get fOutJobStatus_role ≠ 0 && s.get fOutJobStatus_partition = p && s.get fOutJobStatus_state ≠ 3 then
      (s.sendDown.set fOutJobStatus_state 1).setJob { s.sendDown.outer.job with joinSent := false }
    else s
  let s := s.unpinAll p
  let ph := s.get (fPmStatus_phase p)
  let s := if ph = 2 || ph = 4 then s.set (fPmStatus_error p) 4 else s
  let s := if ph = 0 then s else s.setPhase p 0
  s.setPartSt p { s.partSt p with drainTicks := 0, freezeAt := none, thawAt := none }

/-- A partition that a teardown trigger tears down (R364, R380). -/
def State.standing (s : State) (p : Nat) : Bool := s.partState p != 0 && s.partState p != 4

/-- A partition fault (R376): teardown and a fault record, unless the fault lies on a die in recovery, where it is only logged
(R402). Of a partition that is already DRAINING the record names no teardown, and has the level of its cause (R380, R410, R411). -/
def State.partitionFault (s : State) (p : Nat) (f : FaultInfo) : State :=
  if f.unitKind ≠ 0 && s.recovering f.die then s.recordFault { f with level := 0, guilty := some p }
  else if s.standing p then
    let s := s.teardown p f.cause
    s.recordFault { f with level := 2, guilty := some p, affected := f.affected ||| 2 ^ p, gen := s.generation p }
  else s.recordFault { f with level := if f.cause = 7 || f.cause = 8 then 1 else 2, guilty := some p }

/-- A fault is recorded for the partition of a line, if a partition maps it. -/
def State.faultOwner (s : State) (owner : Nat) (f : FaultInfo) : State :=
  if owner < 16 then s.partitionFault owner f else s

/-- A tile is fenced (R180): its copies end in error and its parts are isolated. On a die in recovery the fence waits
(R402); `true` says that it happened now. -/
def State.isolate (s : State) (t cause address : Nat) : Bool × State :=
  if s.fenced t then (false, s)
  else if s.recovering (tileDie t) then
    (false, { s with flt := { s.flt with fenceLater := s.flt.fenceLater ++ [(t, cause, address)] } })
  else
    let s := (s.tileAt t).copies.foldl (fun s c => s.copyError t c.id) s
    (true, (s.setTileCode t 5).event (tileDie t) 0x09 t cause (s.ownerOf t))

/-- The tile monitor fences a tile: its owner's partition takes a partition fault of the cause given (R390). -/
def State.fenceTile (s : State) (t cause : Nat) (address : Nat := 0) : State :=
  let r := s.isolate t cause address
  if !r.1 then r.2 else
  let f : FaultInfo := { cause := cause, unitKind := 1, die := tileDie t, unit := tileSite t, tile := some t,
                         address := address }
  match s.ownerOf t with
  | some p => r.2.partitionFault p f
  | none => r.2.recordFault { f with level := 1 }

end Sys2Proof.Machine
end

