-- ==== Sys2Proof/Machine/Message.lean ====
section
/-! DEFINITION. What a coherence message is on the mesh: its header (R231), its plane, channels and welt class (R230, R167), its
routers, and the order in which messages arrive (R168, R234). -/

namespace Sys2Proof

open Machine

/-! ## Planes, channels and classes (R167, R230) -/

/-- The plane of a message: 0 request, 1 response. -/
def Msg.plane (m : Msg) : Nat := if 0x10 ≤ m.opcode && m.opcode < 0x18 || 0x20 ≤ m.opcode then 1 else 0

/-- The first of its five virtual channels: messages that a home issues use 5 to 9 of the request plane. -/
def Msg.channels (m : Msg) : Nat := if 0x18 ≤ m.opcode && m.opcode < 0x20 then 5 else 0

/-- The virtual channel of a message that has crossed `n` welts. -/
def Msg.channel (m : Msg) (n : Nat) : Nat := m.channels + n

/-- Its traffic class on a multiplexed group: 1 coherence, 2 memory. -/
def Msg.weltClass (m : Msg) : Nat :=
  if m.opcode = 4 || m.opcode = 8 || 0x15 ≤ m.opcode then 1 else 2

/-! ## The header (R231) -/

/-- The 128 bits of the header. A spill line's address is its host physical address. -/
def Msg.header (m : Msg) : Nat :=
  m.opcode % 2 ^ 6 + m.source % 2 ^ 5 * 2 ^ 6 + m.srcDie % 2 ^ 3 * 2 ^ 11 + m.srcSite % 2 ^ 9 * 2 ^ 14 + m.tag % 2 ^ 14 * 2 ^ 23 +
    m.part % 2 ^ 4 * 2 ^ 37 + m.gen % 2 ^ 16 * 2 ^ 41 + m.addr % 2 ^ 41 * 2 ^ 57 + m.bulk.toNat * 2 ^ 98 + m.unit % 2 ^ 5 * 2 ^ 99 +
    m.state % 2 ^ 2 * 2 ^ 104 + m.requester % 2 ^ 5 * 2 ^ 106

/-- The bytes of a message in the order of its flits: the header, the byte mask of a WBM, the data. -/
def Msg.bytes (m : Msg) : List Byte :=
  toLE 16 m.header ++ (if m.opcode = 5 then toLE 32 m.mask else []) ++ m.data

/-! ## Routers (R165, R166, R500) -/

/-- The local port of half `h` for a line: column 2u of row 7 or 8. -/
def Machine.halfSite (h line : Nat) (spill : Bool) : Nat :=
  (if h % 2 = 0 then 7 else 8) * 17 + 2 * (if spill then moduleOf line else sliceOf (dpaOff line) % 8)

/-- The local port of the home slice of a line. -/
def Machine.homeSite (line : Nat) : Nat := sliceSite (sliceOf (dpaOff line))

/-- The die and an edge router of UCIe module `k`: the first of its four rows (log entry 137). -/
def Machine.moduleDie (k : Nat) : Nat := if k < 4 then 0 else 4
def Machine.moduleSite (k : Nat) : Nat := 4 * (k % 4) * 17

/-- The module whose edge router is at a site of a die. -/
def Machine.moduleAt (d site : Nat) : Fin 8 := ⟨((if d = 0 then 0 else 4) + site / 17 / 4 % 4) % 8, Nat.mod_lt _ (by decide)⟩

/-- The module on which the back-invalidates of a line leave (R304). -/
def Machine.lineModule (line : Nat) : Fin 8 := ⟨moduleOf (dpaHdm line) % 8, Nat.mod_lt _ (by decide)⟩

/-- The router at which a message leaves the mesh, as (die, site). -/
def Msg.router (m : Msg) : Nat × Nat :=
  match m.dst with
  | .home => (dpaDie m.addr, homeSite m.addr)
  | .filter => (filterDie m.addr, moduleSite (moduleOf m.addr))
  | .half n => (n.val / 2, halfSite n.val m.addr m.spill)
  | .tile t => (tileDie t.val, tileSite t.val)
  | .uci k => (moduleDie k, moduleSite k)
  | .ctl d => (d.val, 7 * 17 + 16)

/-- The message goes to the host. -/
def Msg.toHost (m : Msg) : Bool := match m.dst with | .uci _ => true | _ => false

/-! ## Order (R168, R234) -/

/-- Two messages take the same links on the same virtual channels: they go from one router to another on one plane and range of
channels, and in one class where they cross a welt. -/
def Msg.sameWay (a b : Msg) : Bool :=
  (a.srcDie, a.srcSite, a.plane, a.channels) == (b.srcDie, b.srcSite, b.plane, b.channels) && a.router == b.router &&
    (a.srcDie == a.router.1 || a.weltClass == b.weltClass)

/-- `a`, sent before `b`, arrives before it: on one way (R168), and the HWB of a block before its BIRsp (R234). -/
def Msg.before (a b : Msg) : Bool :=
  a.sameWay b || (a.opcode == 7 && b.opcode == 0x21 && a.addr == b.addr && a.unit == b.unit)

/-- A message may arrive: none that must arrive before it is still on its way. -/
def Machine.State.mayArrive (s : State) (m : Msg) : Bool :=
  !s.coh.net.contains m || !(s.coh.net.takeWhile (· != m)).any fun a => a.before m

end Sys2Proof
end

