-- ==== Sys2Proof/Machine/Dram.lean ====
section
/-! DEFINITION. The DRAM controllers: reads and masked writes of units, correction and its logs, repair candidates, and
the commands of refresh, temperature and repair (R283 to R296). -/

namespace Sys2Proof.Machine

/-- The channel of a device physical address: the number of its home slice (R204, R284). -/
def channelOf (a : Nat) : Nat := sliceOf (dpaOff a)

/-- The model's number of the row-frame that holds a device physical address: channel of the device, then q (R284). -/
def rowKey (a : Nat) : Nat := (dpaDie a * 64 + channelOf a) * 2 ^ 21 + rowFrame (dpaOff a)

/-- Bytes of DRAM as stored. A byte that nothing has written reads 0 (log entry 3). -/
def State.dramBytes (s : State) (a n : Nat) : List Byte := mapGetList 0#8 s.dram.mem a n

/-- A row-frame becomes a repair candidate, once (R295). -/
def State.addCandidate (s : State) (a : Nat) : State :=
  let k := rowKey a
  if s.dram.noticed.contains k || s.sec.flash.repairList.contains (dpaDie a, k % 2 ^ 27) then s
  else
    let s := { s with dram := { s.dram with noticed := s.dram.noticed ++ [k], candidates := s.dram.candidates ++ [k] } }
    s.event (dpaDie a) 0x19 (channelOf a * 2 ^ 24 + rowFrame (dpaOff a)) 0

/-- An uncorrectable unit is logged (R288, R300). -/
def State.logUe (s : State) (unit detector : Nat) : State :=
  let a := unit * 64
  let d := dpaDie a
  let p := s.ownerOfLine a
  let n := mapGet 0 s.dram.ueSeen d
  let s := s.setAll
    [(fDramErrLogA_offset d, dpaOff a / 64), (fDramErrLogA_partition d, p % 16),
     (fDramErrLogA_no_partition d, if p = 16 then 1 else 0), (fDramErrLogA_detector d, detector),
     (fDramErrLogA_valid d, 1), (fDramErrLogB_stitch d, s.stitch), (fDramErrLogB_sequence d, n)]
  let s := { s with dram := { s.dram with ueSeen := mapSet 0 s.dram.ueSeen d (n + 1) } }
  let s := (s.addTo (fDramCntUe_count d) 1).addTo (fDramChUe_count d (channelOf a)) 1
  (s.event d 0x18 (dpaOff a) detector (if p < 16 then some p else none)).addCandidate a

/-- What reading a unit with an error leaves behind (R286, R287, R295): at most 3 wrong symbols are corrected, 4 or 5 are
uncorrectable, and 6 or more are either, by a free value: what they are corrected to is free too. -/
def State.applyFound (s : State) (f : EccFound) : State :=
  let a := f.unit * 64
  let d := dpaDie a
  let s := { s with dram := { s.dram with latent := mapErase s.dram.latent f.unit } }
  let s := if f.onDie then s.addTo (fDramCntOndie_count d) 1 else s
  let corrected (s : State) : State :=
    let n := mapGet 0 s.dram.ce (rowKey a) + 1
    let s := { s with dram := { s.dram with ce := mapSet 0 s.dram.ce (rowKey a) n } }
    let s := (s.addTo (fDramCntCe_count d) 1).addTo (fDramChCe_count d (channelOf a)) 1
    if n = 16 || f.onDie then s.addCandidate a else s
  let uncorrectable (s : State) : State :=
    if s.dram.ue.contains f.unit then s else { s with dram := { s.dram with ue := f.unit :: s.dram.ue } }
  if f.symbols = 0 then s
  else if f.symbols ≤ 3 then corrected s
  else if f.symbols ≤ 5 || s.draw.1 % 2 = 0 then uncorrectable (if f.symbols ≤ 5 then s else s.draw.2)
  else
    let r := s.draw.2.draw
    corrected { r.2 with dram := { r.2.dram with mem := mapSetList 0#8 r.2.dram.mem a (toLE 64 r.1) } }

/-- Errors arise in units. -/
def State.strike (s : State) (fs : List EccFound) : State :=
  { s with dram := { s.dram with latent := fs.foldl (fun m f => mapSet (0, false) m f.unit (f.symbols, f.onDie)) s.dram.latent } }

/-- The units with an error of which `f` holds are read. -/
def State.checkUnits (s : State) (f : Nat → Bool) : State :=
  (s.dram.latent.filter fun e => f e.1).foldl (fun s e => s.applyFound ⟨e.1, e.2.1, e.2.2⟩) s

/-- Unit `u` lies within `n` bytes from `a`. -/
def unitIn (a n u : Nat) : Bool := a ≤ u * 64 && u * 64 < a + n

/-- Errors have arisen, and the units within `n` bytes from `a` are read. -/
def State.applyFoundIn (s : State) (a n : Nat) (fs : List EccFound) : State := (s.strike fs).checkUnits (unitIn a n)

/-- The uncorrectable units within `n` bytes from `a`. -/
def State.ueIn (s : State) (a n : Nat) : List Nat := s.dram.ue.filter (unitIn a n)

/-- The memory fault of the partition that maps an address (R288). -/
def State.memoryFault (s : State) (p a : Nat) : State :=
  s.faultOwner p { cause := 5, unitKind := 5, die := dpaDie a, unit := channelOf a, address := a }

/-- A masked write of one unit (R285, R286, R289): a partial write reads the unit, and one of an uncorrectable unit is discarded
and faults. A full one replaces whatever was wrong. -/
def State.dramUnitWrite (s : State) (a mask : Nat) (bs : List Byte) : State :=
  if mask = 0 then s
  else if mask = 2 ^ 64 - 1 then
    { s with dram := { s.dram with
      ue := s.dram.ue.erase (a / 64), latent := mapErase s.dram.latent (a / 64), mem := mapSetList 0#8 s.dram.mem a bs } }
  else
    let s := s.checkUnits (· == a / 64)
    if s.dram.ue.contains (a / 64) then (s.logUe (a / 64) 4).memoryFault (s.ownerOfLine a) a
    else { s with dram := { s.dram with mem := mapSetMasked 0#8 s.dram.mem a mask bs } }

/-- A masked write of the units of a line. -/
def State.dramWrite (s : State) (a mask : Nat) (bs : List Byte) : State :=
  (List.range (bs.length / 64)).foldl
    (fun s i => s.dramUnitWrite (a + 64 * i) (bitsAt mask (64 * i) 64) (slice bs (64 * i) 64)) s

/-- A masked write that the slice sends to DRAM: behind a forwarded operation on the line it waits its turn in the
controller's queue, so that operations and writes of one line stay in order (R220, R221). -/
def State.dramPut (s : State) (a mask : Nat) (bs : List Byte) : State :=
  if s.coh.aluQ.any fun q => q.msg.addr == a then
    { s with coh := { s.coh with
      aluQ := s.coh.aluQ ++ [⟨dpaDie a, channelOf a, { opcode := 5, addr := a, mask := mask, data := bs }⟩] } }
  else s.dramWrite a mask bs

/-- Zero bytes `lo` to `hi - 1` of device address space by full-unit writes (R289, R369). -/
def State.dramZero (s : State) (lo hi : Nat) : State :=
  { s with dram := { s.dram with
    mem := mapClear s.dram.mem lo hi
    latent := s.dram.latent.filter fun e => e.1 * 64 < lo || hi ≤ e.1 * 64
    ue := s.dram.ue.filter fun u => u * 64 < lo || hi ≤ u * 64 } }

/-! ## Commands -/

/-- The bank, by die, of candidate (die, channel * 2^21 + row-frame). -/
def candidateBank (e : Nat × Nat) : Nat :=
  let q := e.2 % 2 ^ 21
  e.1 * 7168 + e.2 / 2 ^ 21 * 112 + q / 196608 * 16 + (bitsAt (q % 196608) 0 4 ^^^ bitsAt (q % 196608) 4 4)

/-- Spare rows of a bank, of two, that no repair uses and that no slice has marked unusable (R296, R460). -/
def State.sparesLeft (s : State) (bank : Nat) : Nat :=
  let fl := s.sec.flash
  2 - mapGet 0 fl.spareRows bank - ((List.range 2).filter fun n => fl.unusable.contains (bank * 2 ^ 16 + n)).length

/-- What DRAM_PPR reports of the repair list of die `d`: its candidates, and those whose bank has no spare left (R296, R300). -/
def State.showPpr (s : State) (d : Nat) : State :=
  let mine := s.sec.flash.repairList.filter fun e => e.1 == d
  s.setAll [(fDramPpr_candidates d, mine.length),
    (fDramPpr_unrepairable d, (mine.filter fun e => s.sparesLeft (candidateBank e) == 0).length)]

/-- REPAIR_LIST_WRITE (R295): each new candidate of the die goes to its repair list in flash, which holds 256. -/
def execRepairListWrite (d : Die) (s : State) : Host.Outcome State Fault Refusal :=
  let (mine, rest) := s.dram.candidates.partition fun k => k / 2 ^ 27 == d.val
  let s := mine.foldl (fun s k =>
      if (s.sec.flash.repairList.filter fun e => e.1 == d.val).length < 256 then
        { s with sec := { s.sec with flash := { s.sec.flash with
          repairList := s.sec.flash.repairList ++ [(d.val, k % 2 ^ 27)] } } }
      else s.set (fDramPpr_list_full d) 1) s
  let s := { s with dram := { s.dram with candidates := rest } }
  .next (s.showPpr d)

/-- The bank of the channel that command `n` of its rotation refreshes, layer * 16 + bank, and the first of the bank's four rows
(R290): in 112 commands each bank once, in 344,064 every row (log entry 140). -/
def refreshTarget (n : Nat) : Nat × Nat := (n % 112, n / 112 * 4)

/-- REFRESH_COMMAND (R290): the next four rows of the rotation are refreshed, and the command is counted. -/
def execRefreshCommand (d : Die) (ch : Fin 64) (s : State) : Host.Outcome State Fault Refusal :=
  let k := d.val * 64 + ch.val
  let s := { s with dram := { s.dram with rotation := mapSet 0 s.dram.rotation k ((mapGet 0 s.dram.rotation k + 1) % (112 * 3072)) } }
  .next (s.addTo (fDramChRefresh_count d ch) 1)

/-- The layer of sensor `i`: one sensor per layer per quadrant, numbered layer * 4 + quadrant (log entry 14). -/
def sensorLayer (i : Nat) : Nat := i / 4

/-- A reading with an excluded DRAM sensor replaced by its neighbours' highest reading plus 3 °C (R460): sensors of the
same layer are neighbours (log entry 14). Readings are in tenths of a degree. -/
def dramReading (out : List Nat) (rs : List Nat) (i : Nat) : Nat :=
  if out.contains (72 + i) then
    (((List.range 28).filter fun j => j != i && sensorLayer j == sensorLayer i && !out.contains (72 + j)).map
      fun j => rs.getD j 0).foldl max 0 + 30
  else rs.getD i 0

/-- DRAM_SENSOR_SAMPLE (R291, R300): 28 readings in tenths of a degree. -/
def execDramSensorSample (d : Die) (readings : List Nat) (s : State) : Host.Outcome State Fault Refusal :=
  let out := (mapGet {} s.power.dies d.val).sensorsOut
  let rs := (List.range 28).map (dramReading out readings)
  let top := rs.foldl max 0
  let hot := ((List.range 28).find? fun i => rs.getD i 0 == top).getD 0
  let s := { s with dram := { s.dram with readings := mapSet [] s.dram.readings d.val rs } }
  let s := s.setAll [(fDramStatus_max_temp_c d, top / 10), (fDramStatus_hottest_layer d, sensorLayer hot)]
  let cool := if top ≤ 820 then
      (match mapGet none s.dram.coolSince d.val with | some t => some t | none => some s.clock.now)
    else none
  let s := { s with dram := { s.dram with coolSince := mapSet none s.dram.coolSince d.val cool } }
  if 850 < top && !s.flag (fDramStatus_refresh_fast d) then
    let s := (s.set (fDramStatus_refresh_fast d) 1).bump (fDramStatus_fast_switches d) 1
    .next (s.event d 0x17 1 (top / 10))
  else .next s

/-- REFRESH_SLOW_RETURN (R291): after 10 ms with every sensor at or below 82 °C. The command marks that moment. -/
def execRefreshSlowReturn (d : Die) (s : State) : Host.Outcome State Fault Refusal :=
  match mapGet none s.dram.coolSince d.val with
  | some _ =>
    if s.flag (fDramStatus_refresh_fast d) then
      .next ((s.set (fDramStatus_refresh_fast d) 0).event d 0x17 0 (s.get (fDramStatus_max_temp_c d)))
    else .next s
  | none => .next s

/-- The DRAM counters of die `d` clear (R300). -/
def State.clearDram (s : State) (d : Nat) : State :=
  s.setAll ([(fDramCntCe_count d, 0), (fDramCntUe_count d, 0), (fDramCntOndie_count d, 0)] ++
    (List.range 64).flatMap fun c => [(fDramChCe_count d c, 0), (fDramChUe_count d c, 0), (fDramChRefresh_count d c, 0)])

/-- DRAM_CNT_CLEAR (R300). -/
def execDramCntClear (d : Die) (s : State) : Host.Outcome State Fault Refusal := .next (s.clearDram d)

end Sys2Proof.Machine
end

