-- ==== Sys2Proof/Machine/Cache.lean ====
section
/-! DEFINITION. Frames, compression, shares and replacement, for slices and level-2 halves alike, and the slice's own
reads, writes and evictions (R200, R203 to R217). -/

namespace Sys2Proof.Machine

/-! ## Compression (R210, R211) -/

/-- Words w0 to w15 of a sector. -/
def sectorWords (bs : List Byte) : List Nat := (List.range 16).map fun i => field bs (4 * i) 4

/-- Every delta of words 1 to 15 from word 0, read as signed, fits in `w` bits. -/
def deltasFit (w : Nat) (ws : List Nat) : Bool :=
  ws.all fun x =>
    let d := (x + 2 ^ 32 - ws.headD 0) % 2 ^ 32
    d < 2 ^ (w - 1) || 2 ^ 32 - 2 ^ (w - 1) ≤ d

/-- The elements of `n` bytes of a sector. -/
def sectorElems (n : Nat) (bs : List Byte) : List Nat := (List.range (64 / n)).map fun i => field bs (n * i) n

/-- The spread of the logs of the elements that are not the reserved code fits: the log field is the low `w - 1` bits
of each `w`-bit element, and the reserved code is the most negative log. -/
def logsFit (w : Nat) (elems : List Nat) (spread : Int) : Bool :=
  let logs := (elems.map fun e => e % 2 ^ (w - 1)).filter (· != 2 ^ (w - 2)) |>.map (signedAt (w - 1))
  match logs with
  | [] => true
  | l :: ls => decide (ls.foldl max l - ls.foldl min l ≤ spread)

/-- The code of the smallest encoding that represents a sector exactly, the lower on a tie (R210, R211). -/
def sectorCode (bs : List Byte) : Nat :=
  let ws := sectorWords bs
  if bs.all (· == 0#8) then 0
  else if ws.all (· == ws.headD 0) then 1
  else if deltasFit 4 ws then 2
  else if deltasFit 8 ws then 3
  else if deltasFit 16 ws then 4
  else if logsFit 16 (sectorElems 2 bs) 254 then 6
  else if logsFit 8 (sectorElems 1 bs) 14 then 5
  else 7

/-- The units of a code, of 8 bytes each. -/
def codeUnits (code : Nat) : Nat := [0, 1, 2, 3, 5, 6, 5, 8].getD code 8

def sectorUnits (bs : List Byte) : Nat := codeUnits (sectorCode bs)

/-- Fields of `w` bits, the first in the lowest bits. -/
def packed (w : Nat) : List Nat → Nat
  | [] => 0
  | x :: xs => x % 2 ^ w + 2 ^ w * packed w xs

/-- Words 1 to 15 of a sector, as their deltas from word 0. -/
def wordDeltas (ws : List Nat) : List Nat := (ws.drop 1).map fun x => (x + 2 ^ 32 - ws.headD 0) % 2 ^ 32

/-- The base of an encoding of logarithms, `half` above the least log, and the logs less the base in `n` bits: the reserved code
is the most negative. -/
def packLogs (w n : Nat) (half : Int) (elems : List Nat) : Nat × List Nat :=
  let log (e : Nat) : Int := signedAt (w - 1) (e % 2 ^ (w - 1))
  let isReserved (e : Nat) : Bool := e % 2 ^ (w - 1) == 2 ^ (w - 2)
  let base := match (elems.filter fun e => !isReserved e).map log with
    | [] => 0
    | l :: ls => ls.foldl min l + half
  (toSigned w base, elems.map fun e => if isReserved e then 2 ^ (n - 1) else toSigned n (log e - base))

/-- A sector in an encoding (R210). Bytes of its units that the layout does not name are 0. -/
def encodeSector (code : Nat) (bs : List Byte) : List Byte :=
  let ws := sectorWords bs
  let logs (w n : Nat) (half : Int) : Nat :=
    let es := sectorElems (w / 8) bs
    let r := packLogs w n half es
    r.1 + 2 ^ w * (packed 1 (es.map fun e => e / 2 ^ (w - 1)) + 2 ^ es.length * packed n r.2)
  let bits := match code with
    | 0 => 0
    | 1 => ws.headD 0
    | 2 => ws.headD 0 + 2 ^ 32 * packed 4 (wordDeltas ws)
    | 3 => ws.headD 0 + 2 ^ 32 * packed 8 (wordDeltas ws)
    | 4 => ws.headD 0 + 2 ^ 32 * packed 16 (wordDeltas ws)
    | 5 => logs 8 4 7
    | 6 => logs 16 8 127
    | _ => leNat bs
  toLE (8 * codeUnits code) bits

/-- The sector that an encoding represents (R210). -/
def decodeSector (code : Nat) (units : List Byte) : List Byte :=
  let x := leNat units
  let words (w : Nat) : List Byte :=
    toLE 4 x ++ (List.range 15).flatMap fun k => toLE 4 (toSigned 32 (signedAt 32 (x % 2 ^ 32) + signedAt w (bitsAt x (32 + w * k) w)))
  let logs (w n m : Nat) : List Byte :=
    (List.range m).flatMap fun i =>
      let y := bitsAt x (w + m + n * i) n
      let log := if y = 2 ^ (n - 1) then 2 ^ (w - 2) else toSigned (w - 1) (signedAt w (bitsAt x 0 w) + signedAt n y)
      toLE (w / 8) (log + 2 ^ (w - 1) * bitsAt x (w + i) 1)
  match code with
  | 0 => List.replicate 64 0#8
  | 1 => (List.range 16).flatMap fun _ => toLE 4 x
  | 2 => words 4
  | 3 => words 8
  | 4 => words 16
  | 5 => logs 8 4 64
  | 6 => logs 16 8 32
  | _ => units

/-- The four sectors of a fine line. -/
def lineSectors (bs : List Byte) : List (List Byte) := (List.range 4).map fun i => slice bs (64 * i) 64

/-- The size of a fine line: the sum of its four sectors' sizes. -/
def lineUnits (bs : List Byte) : Nat := ((lineSectors bs).map sectorUnits).foldl (· + ·) 0

/-! ## Frames and replacement (R217) -/

/-- A cached line as the choice of frames sees it: the sets it covers, its way, its owner, its block of 1 KiB, its
size, whether its frame is no candidate, whether the frame is its own. -/
structure FrameLine where
  line : Nat
  sets : List Nat
  way : Nat
  owner : Nat
  units : Nat
  locked : Bool
  alone : Bool

/-- The lines of frame (set `x`, way `w`), with their place in the order of use. -/
def inFrame (ls : List FrameLine) (x w : Nat) : List (FrameLine × Nat) :=
  ls.zipIdx.filter fun e => e.1.way == w && e.1.sets.contains x

/-- The frames of owner `q` in set `x`; retired frames count for the device, owner 16 (R460). -/
def framesOf (ls : List FrameLine) (retired : Nat → Nat → Bool) (q x : Nat) : Nat :=
  ((List.range 16).filter fun w =>
    if retired x w then q == 16 else (inFrame ls x w).any fun e => e.1.owner == q).length

/-- The step of R217 that makes frame (x, w) acceptable to owner `q`, if one does. -/
def frameStep (ls : List FrameLine) (retired : Nat → Nat → Bool) (share : Nat → Nat) (q x w : Nat) : Option Nat :=
  if retired x w then none else
  match inFrame ls x w with
  | [] => some 1
  | e :: es =>
    if (e :: es).any fun l => l.1.locked then none
    else if framesOf ls retired q x < share q && share e.1.owner < framesOf ls retired e.1.owner x then some 2
    else if e.1.owner = q then some 3
    else none

/-- The way that an allocation of owner `q` takes over sets `xs` (R217): the lowest step that its worst set needs, then
the way least recently used, then the lowest number. -/
def findWay (ls : List FrameLine) (retired : Nat → Nat → Bool) (share : Nat → Nat) (q : Nat) (xs : List Nat) :
    Option Nat :=
  let cost (w : Nat) : Option (Nat × Nat) :=
    let steps := xs.map fun x => frameStep ls retired share q x w
    if steps.any (·.isNone) then none
    else
      let used := xs.flatMap fun x => (inFrame ls x w).map fun e => e.2
      some ((steps.filterMap id).foldl max 0, used.foldl min ls.length)
  let best := (List.range 16).foldl (fun (b : Option (Nat × Nat × Nat)) w =>
    match cost w, b with
    | none, b => b
    | some (st, u), none => some (w, st, u)
    | some (st, u), some (bw, bs, bu) => if st < bs || (st = bs && bu < u) then some (w, st, u) else some (bw, bs, bu)) none
  best.map fun b => b.1

/-- The lowest way whose frame holds the line's block of 1 KiB, is shared, and has room for `units` more (R211). -/
def joinWay (ls : List FrameLine) (line x units : Nat) : Option Nat :=
  (List.range 16).find? fun w =>
    match inFrame ls x w with
    | [] => false
    | es => es.all (fun e => e.1.line / 1024 == line / 1024 && !e.1.alone) &&
        (es.map fun e => e.1.units).foldl (· + ·) 0 + units ≤ 32

/-! ## Shares (R216) -/

/-- The way and pin shares of partition `p` on die `d`. -/
def State.wayShare (s : State) (d p : Nat) : Nat :=
  if p < 16 then s.get (fL3PartShare_way_share d p)
  else 16 - ((List.range 16).map fun q => s.get (fL3PartShare_way_share d q)).foldl (· + ·) 0
def State.pinShare (s : State) (d p : Nat) : Nat := s.get (fL3PartShare_pin_share d p)

/-! ## Slices -/

/-- The sets of a line in its slice (R204). -/
def l3Sets (line : Nat) (bulk : Bool) : List Nat :=
  let o := dpaOff line
  if bulk then (List.range 8).map fun i => 8 * bulkGroup o + i else [fineSet o]

def fullMask (bulk : Bool) : Nat := 2 ^ lineBytes bulk - 1

/-- The line sits RAW in a frame of its own (R212, R219). -/
def L3Line.alone (l : L3Line) : Bool := l.bulk || l.pinned || l.held || l.raw || l.valid != fullMask l.bulk

/-- The units of a frame that a line takes, and the codes of its sectors (R211). -/
def L3Line.units (l : L3Line) : Nat := if l.alone then 32 else lineUnits l.data
def L3Line.codes (l : L3Line) : List Nat := (lineSectors l.data).map fun bs => if l.alone then 7 else sectorCode bs

def L3Line.frame (l : L3Line) : FrameLine :=
  ⟨l.line, l3Sets l.line l.bulk, l.way, l.owner, l.units, l.pinned || l.held, l.alone⟩

/-- The units of a line as its frame holds them, its sectors in rising order. -/
def L3Line.packed (l : L3Line) : List Byte :=
  (l.codes.zip (lineSectors l.data)).flatMap fun e => encodeSector e.1 e.2

/-- The lines of the slice that is home of `line`. -/
def State.sliceLines (s : State) (line : Nat) : List L3Line :=
  s.coh.l3.filter fun l => dpaDie l.line == dpaDie line && channelOf l.line == channelOf line

/-- Retired frames are numbered ((die * 64 + slice) * 256 + set) * 16 + way (R460). -/
def State.frameRetired (s : State) (line : Nat) (x w : Nat) : Bool :=
  s.coh.retiredFrames.contains (((dpaDie line * 64 + channelOf line) * 256 + x) * 16 + w) ||
    s.awl.running.any fun r => r.kind == 1 && r.die == dpaDie line && r.unit / 256 == channelOf line &&
      r.unit / 16 % 16 == w && r.unit % 16 == x / 16

def State.l3Line (s : State) (line : Nat) : Option L3Line := s.coh.l3.find? fun l => l.line == line

def State.setL3 (s : State) (ls : List L3Line) : State := { s with coh := { s.coh with l3 := ls } }

/-- The line becomes the most recently used. -/
def State.putL3 (s : State) (l : L3Line) : State := s.setL3 (l :: s.coh.l3.filter fun x => x.line != l.line)

/-- A line leaves the slice; its dirty bytes go to DRAM as a masked write (R214). -/
def State.evictL3 (s : State) (l : L3Line) : State :=
  let s := s.setL3 (s.coh.l3.filter fun x => x.line != l.line)
  if l.dirty = 0 then s
  else (s.addTo (fL3SlWb_count (dpaDie l.line) (channelOf l.line)) 1).dramPut l.line l.dirty l.data

/-- The slice writes back the dirty bytes of a line and keeps it clean. -/
def State.cleanL3 (s : State) (l : L3Line) : State :=
  if l.dirty = 0 then s
  else (s.setL3 (s.coh.l3.map fun x => if x.line = l.line then { x with dirty := 0 } else x)).dramPut l.line l.dirty l.data

/-- The 32 units of frame (`x`, `w`) of the slice that is home of `line`: its fine lines in rising line order, from unit 0
(R211). -/
def State.frameUnits (s : State) (line x w : Nat) : List Byte :=
  let mine := (s.sliceLines line).filter fun l => !l.bulk && l.way == w && (l3Sets l.line l.bulk).contains x
  let bs := (List.range 4).flatMap fun i => (mine.filter fun l => l.line / 256 % 4 == i).flatMap L3Line.packed
  bs ++ List.replicate (256 - bs.length) 0#8

/-- A line takes a place in its slice: it joins a frame of its block with room, or takes a frame under R217, whose
lines are evicted. `none`: no frame (R215). -/
def State.placeL3 (s : State) (l : L3Line) : Option State :=
  let others := (s.sliceLines l.line).filter fun x => x.line != l.line
  let fl := others.map fun x => { x.frame with locked := x.frame.locked || s.coh.trackers.any fun k => k.line == x.line }
  let xs := l3Sets l.line l.bulk
  let join := if l.alone then none else joinWay fl l.line (xs.headD 0) (lineUnits l.data)
  match join with
  | some w => some (s.putL3 { l with way := w })
  | none =>
    (findWay fl (s.frameRetired l.line) (s.wayShare (dpaDie l.line)) l.owner xs).map fun w =>
      let victims := others.filter fun x => x.way == w && (l3Sets x.line x.bulk).any xs.contains
      (victims.foldl State.evictL3 s).putL3 { l with way := w }

/-- The other lines of the frame of a line. -/
def State.mates (s : State) (l : L3Line) : List L3Line :=
  (s.sliceLines l.line).filter fun x => x.line != l.line && x.way == l.way &&
    (l3Sets x.line x.bulk).any (l3Sets l.line l.bulk).contains

/-- The lowest way whose frame has room for a resident line of a new size: a frame of its block, or its own (R211). -/
def State.roomWay (s : State) (l : L3Line) : Option Nat :=
  let here := (s.mates l).isEmpty
  if l.alone then (if here then some l.way else none)
  else
    let fl := ((s.sliceLines l.line).filter fun x => x.line != l.line).map L3Line.frame
    match joinWay fl l.line ((l3Sets l.line l.bulk).headD 0) l.units with
    | some w => some (if here then min l.way w else w)
    | none => if here then some l.way else none

/-- A resident line after a write or fill that changes it is encoded anew. With a new size it joins the lowest way with room, else
it takes a frame of its own, else its dirty bytes go to DRAM and it is dropped (R211, R212). -/
def State.updateL3 (s : State) (l : L3Line) : State :=
  let l := { l with raw := false }
  let same := ((s.l3Line l.line).map fun x => x.units) == some l.units
  if same && (!l.alone || (s.mates l).isEmpty) then s.putL3 l
  else match s.roomWay l with
  | some w => s.putL3 { l with way := w }
  | none =>
    match (s.setL3 (s.coh.l3.filter fun x => x.line != l.line)).placeL3 l with
    | some s => s
    | none => s.evictL3 l

/-- Bytes `new` over `old` where the mask is set. -/
def mergeBytes (mask : Nat) (new old : List Byte) : List Byte :=
  (List.range old.length).map fun i => if mask.testBit i then new.getD i 0#8 else old.getD i 0#8

/-- A byte-masked write at the slice (R214, R215): it never reads DRAM. -/
def State.sliceWrite (s : State) (line : Nat) (bulk : Bool) (mask : Nat) (bs : List Byte) : State :=
  match s.l3Line line with
  | some l =>
    s.updateL3 { l with valid := l.valid ||| mask, dirty := l.dirty ||| mask, data := mergeBytes mask bs l.data }
  | none =>
    let l : L3Line := ⟨line, bulk, s.ownerOfLine line, 0, mask, mask, mergeBytes mask bs (List.replicate (lineBytes bulk) 0#8), false, false, false⟩
    match s.placeL3 l with
    | some s => s
    | none => (s.addTo (fL3SlBypass_count (dpaDie line) (channelOf line)) 1).dramPut line mask bs

/-- The bytes of a line with a fill from DRAM merged under the valid mask: the written bytes win (R214). -/
def State.filled (s : State) (line : Nat) (bulk : Bool) : List Byte :=
  let mem := s.dramBytes line (lineBytes bulk)
  match s.l3Line line with
  | some l => mergeBytes l.valid l.data mem
  | none => mem

/-- The mask and bytes of a WBM over its whole line. -/
def wbmOverLine (m : Msg) : Nat × List Byte :=
  if m.bulk then (m.mask % 2 ^ 256 * 2 ^ (256 * m.unit),
      List.replicate (256 * m.unit) 0#8 ++ slice m.data 0 256 ++ List.replicate (2048 - 256 * (m.unit + 1)) 0#8)
  else (m.mask % 2 ^ 256, m.data)

/-- The writes to a line that its slice has accepted and not yet applied: those behind an operation in its tracker entry, and
those behind one in the DRAM controller's queue, as masks and bytes. -/
def State.lateWrites (s : State) (line : Nat) : List (Nat × List Byte) :=
  ((s.coh.aluQ.filter fun q => q.msg.opcode == 5 && q.msg.addr == line).map fun q => (q.msg.mask, q.msg.data)) ++
    ((s.coh.trackers.filter fun k => k.line == line).flatMap fun k =>
      (k.waiters.filter fun w => w.1.opcode == 5).map fun w => wbmOverLine w.1)

/-- The value of a line's bytes at its point of coherence: the writes accepted last, then the slice's bytes where they are valid,
DRAM's elsewhere (R257). -/
def State.homeBytes (s : State) (a n : Nat) : List Byte :=
  (List.range n).map fun i =>
    let x := a + i
    let line := lineOf (s.isBulk x) x
    match (s.lateWrites line).reverse.find? fun w => w.1.testBit (x - line) with
    | some w => w.2.getD (x - line) 0#8
    | none =>
      match s.l3Line line with
      | some l => if l.valid.testBit (x - line) then l.data.getD (x - line) 0#8 else mapGet 0#8 s.dram.mem x
      | none => mapGet 0#8 s.dram.mem x

/-- The slice does not hold every byte of a unit: a read of the unit takes it from DRAM. -/
def State.fromDram (s : State) (u : Nat) : Bool :=
  match s.l3Line (lineOf (s.isBulk (u * 64)) (u * 64)) with
  | some l => bitsAt l.valid (u * 64 - l.line) 64 != 2 ^ 64 - 1
  | none => true

/-! ## Level-2 halves -/

/-- The sets of a line in a half (R204): a spill line by its host physical address. -/
def l2Sets (line : Nat) (bulk spill : Bool) : List Nat :=
  let o := if spill then line else dpaOff line
  if bulk then (List.range 8).map fun i => 8 * l2BulkGroup o + i else [l2FineSet o]

def L2Line.frame (l : L2Line) : FrameLine :=
  let alone := l.bulk || l.valid != fullMask l.bulk
  ⟨l.line, l2Sets l.line l.bulk l.spill, l.way, l.owner, if alone then 32 else lineUnits l.data, false, alone⟩

def State.l2Line (s : State) (half line : Nat) (spill : Bool) : Option L2Line :=
  s.coh.l2.find? fun l => l.half == half && l.line == line && l.spill == spill

def State.setL2 (s : State) (ls : List L2Line) : State := { s with coh := { s.coh with l2 := ls } }

def State.dropL2 (s : State) (half line : Nat) (spill : Bool) : State :=
  s.setL2 (s.coh.l2.filter fun l => !(l.half == half && l.line == line && l.spill == spill))

/-- A half allocates a frame for a clean line under R217, or bypasses (R215), which counts the set. -/
def State.placeL2 (s : State) (l : L2Line) : Option State :=
  let others := s.coh.l2.filter fun x => x.half == l.half && !(x.line == l.line && x.spill == l.spill)
  let fl := others.map L2Line.frame
  let xs := l2Sets l.line l.bulk l.spill
  let join := if l.bulk || l.valid ≠ fullMask l.bulk then none else joinWay (fl.filter fun f => others.any fun x => x.line == f.line && x.spill == l.spill)
    l.line (xs.headD 0) (lineUnits l.data)
  let put (s : State) (w : Nat) : State :=
    s.setL2 ({ l with way := w } :: s.coh.l2.filter fun x => !(x.half == l.half && x.line == l.line && x.spill == l.spill))
  match join with
  | some w => some (put s w)
  | none =>
    (findWay fl (fun _ _ => false) (s.wayShare (l.half / 2)) l.owner xs).map fun w =>
      let keep (x : L2Line) : Bool :=
        !(x.half == l.half && x.way == w && (l2Sets x.line x.bulk x.spill).any xs.contains)
      put (s.setL2 (s.coh.l2.filter keep)) w

/-- A half that finds no frame counts the set once in the current stitch (R215, R223). -/
def State.bypassL2 (s : State) (half line : Nat) (bulk spill : Bool) : State :=
  let k := half * 4096 + (l2Sets line bulk spill).headD 0
  if s.coh.bypassed.contains k then s
  else ({ s with coh := { s.coh with bypassed := k :: s.coh.bypassed } }).bump
    (fL2Occ_bypass_sets (half / 2) (half % 2)) 1

/-- The L2_CNT counters of half `w` of die `d` clear (R223). -/
def State.clearL2 (s : State) (d w : Nat) : State :=
  s.setAll [(fL2CntHit_count d w, 0), (fL2CntMiss_count d w, 0), (fL2CntPeer_count d w, 0),
    (fL2CntVictim_count d w, 0), (fL2CntMerge_count d w, 0), (fL2CntInval_count d w, 0)]

/-- L2_CNT_CLEAR (R223). -/
def execL2CntClear (d : Die) (south : Bool) (s : State) : Host.Outcome State Fault Refusal :=
  .next (s.clearL2 d (if south then 1 else 0))

/-- The L3_SL counters and L3_PART_REFUSED of die `d` clear (R224). -/
def State.clearL3 (s : State) (d : Nat) : State :=
  s.setAll (((List.range 64).flatMap fun i =>
      [(fL3SlHit_count d i, 0), (fL3SlMiss_count d i, 0), (fL3SlMerge_count d i, 0), (fL3SlWb_count d i, 0),
       (fL3SlBypass_count d i, 0), (fL3SlMemred_count d i, 0)]) ++
    (List.range 16).flatMap fun p =>
      [(fL3PartRefused_share_full d p, 0), (fL3PartRefused_no_frame d p, 0), (fL3PartRefused_not_homed d p, 0)])

/-- L3_CNT_CLEAR (R224). -/
def execL3CntClear (d : Die) (s : State) : Host.Outcome State Fault Refusal := .next (s.clearL3 d)

end Sys2Proof.Machine
end

