-- ==== Sys2Proof/Machine/Request.lean ====
section
/-! DEFINITION. How a requester reaches a home: its transactions, the level-2 half of its tile, and the writes that pass
through a half (R197, R201, R202, R231, R235, R236). -/

namespace Sys2Proof.Machine

/-- Who asks: the router it asks from, the half that its remote traffic passes, its partition and generation. -/
structure Requester where
  die : Nat
  site : Nat
  half : Option Nat
  part : Nat
  gen : Nat

/-- Tile `t` as a requester of partition `p`. -/
def State.tileAsks (s : State) (t p : Nat) : Requester :=
  ⟨tileDie t, tileSite t, some (tileHalf t), p, s.generation p⟩

/-- The owner that a request of the loader or of a command image carries: no partition's (log entry 127). -/
def noPart : Nat := 16

/-- The die controller of die `d` as a requester of partition `p`, at site (16, 7) (R166, R314). -/
def State.dieAsks (s : State) (d p : Nat) : Requester := ⟨d, 7 * 17 + 16, none, p, s.generation p⟩

/-- A request leaves under a new transaction. One whose route joins an unreachable pair of dies ends at once, and its
partition faults (R401). -/
def State.openSend (s : State) (agent : Nat) (m : Msg) (want : Purpose) : State :=
  let line := lineOf m.bulk m.addr
  if s.mesh.unreachable.contains (m.srcDie * 8 + (if m.spill then filterDie line else dpaDie line)) then
    s.partitionFault m.part { cause := 0x10, address := line }
  else
  let site := if agent < 16 then halfSite agent line m.spill else m.srcSite
  let (tag, s) := s.openTx
    { tag := 0, agent, die := m.srcDie, site, op := m.opcode, part := m.part, gen := m.gen, addr := line, bulk := m.bulk,
      unit := m.unit, spill := m.spill, wants := [want] }
  s.send { m with source := agent, srcSite := site, tag, addr := line, dst := if m.spill then .filter else .home }

/-- The transaction that half `h` has open on a line. -/
def State.halfTx (s : State) (h line : Nat) (spill : Bool) : Option Tx :=
  s.coh.txs.find? fun x => x.agent == h && x.addr == line && x.spill == spill

/-- The half tracks 2,048 transactions (R213). -/
def State.halfFull (s : State) (h : Nat) : Bool := 2048 ≤ (s.coh.txs.filter fun x => x.agent == h).length

def State.joinTx (s : State) (y : Tx) (want : Purpose) : State :=
  s.setTxs (s.coh.txs.map fun x => if x.same y then { x with wants := x.wants ++ [want] } else x)

def State.waitAtHalf (s : State) (w : HalfWait) : State :=
  { s with coh := { s.coh with halfWaits := s.coh.halfWaits ++ [w] } }

/-- A half drops its copy of a line, and counts it. -/
def State.invalL2 (s : State) (h line : Nat) (spill : Bool) : State :=
  if (s.l2Line h line spill).isSome then (s.dropL2 h line spill).addTo (fL2CntInval_count (h / 2) (h % 2)) 1 else s

/-- The other half of the same die. -/
def otherHalf (h : Nat) : Nat := if h % 2 = 0 then h + 1 else h - 1

/-- A write, atomic or reduction reaches half `h` (R202, R236): both halves of the die drop their copies, and the message
goes on, or waits until the half's open transaction on the line ends, or for a credit (R213). -/
def State.halfWrite (s : State) (h : Nat) (m : Msg) (want : Purpose) : State :=
  let line := lineOf m.bulk m.addr
  let s := (s.invalL2 h line m.spill).invalL2 (otherHalf h) line m.spill
  if (s.halfTx h line m.spill).isSome || s.halfFull h then s.waitAtHalf ⟨h, line, m.spill, m, want⟩
  else s.openSend h m want

/-- A write, atomic or reduction leaves its requester: through the half for a line homed elsewhere, else straight to the
home (R197, R202). -/
def State.issueWrite (s : State) (q : Requester) (m : Msg) (want : Purpose) : State :=
  let m := { m with srcDie := q.die, srcSite := q.site, part := q.part, gen := q.gen }
  match q.half with
  | some h => if m.spill || dpaDie m.addr ≠ q.die then s.halfWrite h m want else s.openSend 31 m want
  | none => s.openSend 31 m want

/-- A WBM of `bs` at the physical address of a translation; the bytes lie in one aligned 256-byte block. -/
def wbmAt (h : PageHit) (bs : List Byte) : Msg :=
  let off := h.addr % 256
  { opcode := 5, addr := lineOf h.bulk h.addr, bulk := h.bulk, spill := h.spill,
    unit := if h.bulk then h.addr % 2048 / 256 else off / 64, mask := (2 ^ bs.length - 1) * 2 ^ off,
    data := List.replicate off 0#8 ++ bs ++ List.replicate (256 - off - bs.length) 0#8 }

/-- The same with a byte mask over 64 bytes from an address that is a multiple of 64. -/
def wbmMasked (h : PageHit) (mask : Nat) (bs : List Byte) : Msg :=
  let m := wbmAt h bs
  { m with mask := mask * 2 ^ (h.addr % 256) }

/-- What a half answers to a read: the line's bytes at once, or nothing yet. -/
abbrev ReadAnswer := Option (List Byte)

/-- The half holds every byte of the sector that the read names. -/
def L2Line.serves (l : L2Line) (m : Msg) : Bool :=
  let n := if m.bulk then 256 else 64
  bitsAt l.valid (n * m.unit) n == 2 ^ n - 1

/-- Half `h` serves a read from a copy, and the copy is the most recently used. -/
def State.touchL2 (s : State) (l : L2Line) : State :=
  s.setL2 (l :: s.coh.l2.filter fun x => !(x.half == l.half && x.line == l.line && x.spill == l.spill))

/-- A read misses both halves: half `a` sends RdS, or the read joins or waits behind the transaction that it has open
(R236), or waits for a credit (R213). -/
def State.halfMiss (s : State) (h a : Nat) (m : Msg) (want : Purpose) : State :=
  match s.halfTx a (lineOf m.bulk m.addr) m.spill with
  | some x =>
    if x.op = 1 then (s.joinTx x want).addTo (fL2CntMerge_count (a / 2) (a % 2)) 1
    else s.waitAtHalf ⟨a, lineOf m.bulk m.addr, m.spill, m, want⟩
  | none =>
    let s := s.addTo (fL2CntMiss_count (h / 2) (h % 2)) 1
    if s.halfFull a then s.waitAtHalf ⟨a, lineOf m.bulk m.addr, m.spill, m, want⟩ else s.openSend a m want

/-- A read reaches half `h` (R201, R236): its own copy, the other half's copy, an open RdS of either half, or a miss. A
half that holds part of the line is the one that fetches it. -/
def State.halfRead (s : State) (h : Nat) (m : Msg) (want : Purpose) : ReadAnswer × State :=
  let line := lineOf m.bulk m.addr
  let o := otherHalf h
  let mine := s.l2Line h line m.spill
  let theirs := s.l2Line o line m.spill
  match mine, theirs with
  | some l, _ =>
    if l.serves m then (some l.data, (s.touchL2 l).addTo (fL2CntHit_count (h / 2) (h % 2)) 1)
    else (none, s.halfMiss h h m want)
  | none, some l =>
    if l.serves m then (some l.data, (s.touchL2 l).addTo (fL2CntPeer_count (h / 2) (h % 2)) 1)
    else (none, s.halfMiss h o m want)
  | none, none =>
    match s.halfTx h line m.spill, s.halfTx o line m.spill with
    | none, some x => (none, s.halfMiss h (if x.op = 1 then o else h) m want)
    | _, _ => (none, s.halfMiss h h m want)

/-- A read of the sector that holds a translated address leaves its requester. At once, the answer is a line's bytes. -/
def State.issueRead (s : State) (q : Requester) (h : PageHit) (want : Purpose) : ReadAnswer × State :=
  let m : Msg :=
    { opcode := 2, addr := lineOf h.bulk h.addr, bulk := h.bulk, spill := h.spill,
      unit := if h.bulk then h.addr % 2048 / 256 else h.addr % 256 / 64, srcDie := q.die, srcSite := q.site,
      part := q.part, gen := q.gen }
  match q.half with
  | some n => if h.spill || dpaDie h.addr ≠ q.die then s.halfRead n { m with opcode := 1 } want
    else (none, s.openSend 31 m want)
  | none => (none, s.openSend 31 m want)

/-- An access to a partition address that no entry maps (R116, R207). -/
def State.unmapped (s : State) (p pa : Nat) (t : Option Nat := none) : State :=
  s.partitionFault p { cause := 3, unitKind := if t.isSome then 1 else 0, die := (t.map tileDie).getD 0,
                       unit := (t.map tileSite).getD 0, tile := t, address := pa }

end Sys2Proof.Machine
end

