-- ==== Sys2Proof/Machine/Record.lean ====
section
/-! DEFINITION. The end of a step: completion records (R317, R318), overruns (R34, R38) and step faults (R82, R83). -/

namespace Sys2Proof.Machine

/-! ## Rings as the device holds them (R312, R326) -/

def State.sqBase (s : State) (p k : Nat) : Nat := 64 * s.get (fPartSqBase_base p k)
def State.sqEntries (s : State) (p k : Nat) : Nat := s.get (fPartSqCfg_entries p k)
def State.cqBase (s : State) (p k : Nat) : Nat := 64 * s.get (fPartCqBase_base p k)
def State.cqEntries (s : State) (p k : Nat) : Nat := s.get (fPartCqCfg_entries p k)

/-- The scheduler of partition `p` writes bytes that lie in one block of 256. -/
def State.schedWrite (s : State) (p pa : Nat) (bs : List Byte) (want : Purpose) : State :=
  match s.translate p pa with
  | some h => s.issueWrite (s.dieAsks (s.programDie p) p) (wbmAt h bs) want
  | none => s.unmapped p pa

/-! ## Completion records -/

def State.setRecords (s : State) (rs : List RecordSt) : State := { s with part := { s.part with records := rs } }

/-- Bytes 0 to 30 of a record (R317). -/
def recordBytes (k : Task) (status code cause endNs : Nat) : List Byte :=
  toLE 8 k.tag ++ toLE 1 status ++ toLE 1 code ++ toLE 1 cause ++ toLE 1 k.ring ++ toLE 4 k.index ++ toLE 8 k.stitch ++
    toLE 4 endNs ++ toLE 3 0

/-- A record takes the next index of its completion ring, and its bytes 0 to 30 leave (R318). -/
def State.writeRecord (s : State) (k : Task) (status code cause endNs : Nat) : State :=
  let p := k.part
  let ahead := (s.part.records.filter fun r => r.part == p && r.cq == k.cq).length
  let index := (s.get (fPartCqStatus_producer p k.cq) + ahead) % 2 ^ 32
  let bytes := recordBytes k status code cause endNs
  let s := s.setRecords (s.part.records ++ [⟨p, k.cq, index, k.irq, bytes, false, false, false⟩])
  let s := if status = 0 then s.addTo (fPartAccDone_count p k.ring) 1
    else if status = 1 then s.bump (fPartAccFail_overruns p k.ring) 1
    else s.bump (fPartAccFail_step_faults p k.ring) 1
  s.schedWrite p (s.cqBase p k.cq + 64 + index % s.cqEntries p k.cq * 32) bytes (.recordBody p k.cq index)

/-- The phase byte of a record (R317). -/
def phaseByte (index n : Nat) : Byte := BitVec.ofNat 8 ((index / n + 1) % 2)

/-- The body of a record has been accepted. -/
def State.recordAccepted (s : State) (p cq index : Nat) : State :=
  s.setRecords (s.part.records.map fun r =>
    if r.part = p && r.cq = cq && r.index = index then { r with accepted := true } else r)

/-- PHASE_BYTE_WRITE (R318): byte 31 of a record whose body has been accepted. -/
def execPhaseByteWrite (p : PIdx) (cq : Fin 16) (index : Nat) (s : State) : Host.Outcome State Fault Refusal :=
  match s.part.records.find? fun r => r.part == p.val && r.cq == cq.val && r.index == index && r.accepted && !r.phase with
  | none => .next s
  | some r =>
    let s := s.setRecords (s.part.records.map fun x => if x = r then { x with phase := true } else x)
    let n := s.cqEntries p cq
    .next (s.schedWrite p (s.cqBase p cq + 64 + index % n * 32 + 31) [phaseByte index n] (.recordPhase p cq index))

/-- The records of a ring that are complete, up to the first that is not: the producer index passes them (R318). -/
def State.passRecords (s : State) (p cq : Nat) : State :=
  let done := (s.part.records.filter fun r => r.part == p && r.cq == cq).takeWhile fun r => r.complete
  if done.isEmpty then s
  else
    let s := s.setRecords (s.part.records.filter fun r => !done.contains r)
    let s := s.addTo (fPartCqStatus_producer p cq) done.length
    let s := s.set (fPartCqStatus_owed p cq) (s.get (fPartCqStatus_owed p cq) - done.length)
    s.schedWrite p (s.cqBase p cq) (toLE 4 (s.get (fPartCqStatus_producer p cq))) (.ringWrite p)

/-- The phase byte has been accepted: the record is complete, the producer index follows, and the vector of the ring may fire
(R318, R321). -/
def State.phaseAccepted (s : State) (p cq index : Nat) : State :=
  match s.part.records.find? fun r => r.part == p && r.cq == cq && r.index == index && r.phase && !r.complete with
  | none => s
  | some r =>
    let s := s.setRecords (s.part.records.map fun x => if x = r then { x with complete := true } else x)
    let s := s.passRecords p cq
    if r.irq then s.fire (s.functionOf p) cq else s

/-! ## Job failures of a step (R348, R356) -/

/-- A step of the member partition fails: the manager records the failure of its job stitch, and any other member sends
STEP_FAIL. -/
def State.jobStepFail (s : State) (k : Task) (cause : Nat) : State :=
  match s.jobOf with
  | none => s
  | some (q, j) =>
    let stitch := s.get fOutJobStitch_stitch + k.stitch - s.stitch
    if q ≠ k.part || s.get fOutJobStatus_state ≠ 2 then s
    else if j.role = 1 then
      s.setJob { s.outer.job with failures := s.outer.job.failures ++ [⟨stitch, cause, j.member⟩] }
    else s.laceUp { s.ownFrame 0x03 with cause, jobStitch := stitch }

/-! ## Overruns and step faults -/

/-- R38: a second overrun of a ring within 63 stitches faults the partition. An overrun has the number of the stitch in which its
step issued, which the tick ends (DEDUCED, log entry 125), and so has a step fault. -/
def State.countOverrun (s : State) (k : Task) : State :=
  let x := s.partSt k.part
  let (last, _) := mapGet (0, 0) x.lastOverrun k.ring
  let n := k.stitch
  let s := s.setPartSt k.part { x with lastOverrun := mapSet (0, 0) x.lastOverrun k.ring (n + 1, k.tag) }
  if last ≠ 0 && last ≠ n + 1 && n + 1 - last ≤ 63 then
    s.partitionFault k.part { cause := 2, address := k.tag }
  else s

/-- The steps still running at a tick overrun (R34). All of them stop; then a second overrun of a ring within 63 stitches tears
its partition down, and the records of the partitions that stand follow later in the tick (R38, R380). An overrun in a stitch that
an interruption of its partition overlaps does not count (R405), nor one of a stitch forced to the lowest state. -/
def State.overrun (s : State) (late : List Task) (throttled : Bool) : State :=
  let s := late.foldl State.stopTask s
  if throttled then s else (late.filter fun k => !k.excused).foldl (fun s k =>
    if s.partState k.part = 4 then s else s.countOverrun k) s

/-- The record of a step that overran in a stitch of length `period`, unless its partition has been torn down by the same tick (R34,
R317, R380). -/
def State.overrunRecord (s : State) (throttled : Bool) (period : Nat) (k : Task) : State :=
  if s.generation k.part ≠ k.gen then s
  else (s.writeRecord k 1 0 (if throttled then 1 else 0) period).jobStepFail k 1

/-- A step fault (R83) raised on tile `t` by a lane of group `g` at program counter `pc`. -/
def State.stepFault (s : State) (t g lane code pc : Nat) : State :=
  match s.taskOn t with
  | none => s
  | some k =>
    let d := tileDie t
    let i := tileSite t
    let s := s.setAll
      [(fTileFault_code d i, code), (fTileFault_group d i, g), (fTileFault_lane d i, lane), (fTileFault_valid d i, 1),
       (fTileFaultPc_pc d i, pc), (fTileFaultPc_stitch d i, s.stitch)]
    let s := s.stopTask k
    let s := s.writeRecord k 2 code 0 s.fromTick
    let s := s.recordFault { cause := 1, unitKind := 1, die := d, unit := i, guilty := some k.part, tile := some t,
                             detail := code, address := k.tag }
    let s := s.jobStepFail k 2
    -- it counts where an overrun of this stitch would (R38, R83, R405)
    if s.flag fStchStatus_forced_low || k.excused then s else s.countOverrun k

end Sys2Proof.Machine
end

