-- ==== Sys2Proof/Machine/Tile.lean ====
section
/-! DEFINITION. A tile: its level-1 share (R198, R199), store queues (R264), paths and barriers (R73 to R81), releases
and acquires (R261), and the operations that leave it for a home (R199, R245). -/

namespace Sys2Proof.Machine

/-! ## Level 1 (R198) -/

/-- Sets of a tile's level-1 share: share / 512 bytes. -/
def State.l1Sets (s : State) (t : Nat) : Nat := 128 * s.l1Share t

def State.l1Line (s : State) (t : Nat) (key : Nat) : Option L1Line :=
  (s.tileAt t).l1.find? fun l => !l.instr && l.key == key
def State.setL1 (s : State) (t : Nat) (ls : List L1Line) : State := s.setTile t { s.tileAt t with l1 := ls }

/-- The line is written, and is the most recently used. -/
def State.putL1 (s : State) (t : Nat) (l : L1Line) : State :=
  s.setL1 t (l :: (s.tileAt t).l1.filter fun x => !(x.instr == l.instr && x.key == l.key))
def State.dropL1 (s : State) (t key : Nat) : State :=
  s.setL1 t ((s.tileAt t).l1.filter fun x => x.instr || x.key != key)

/-- Dirty bytes leave for their home as a byte-masked write-back, and the line stays clean (R198, R202). -/
def State.writeBack (s : State) (t p : Nat) (l : L1Line) : State :=
  if l.dirty = 0 then s
  else match s.translate p (64 * l.key) with
    | some h =>
      let s := s.setL1 t ((s.tileAt t).l1.map fun x => if !x.instr && x.key = l.key then { x with dirty := 0 } else x)
      s.issueWrite (s.tileAsks t p) (wbmMasked h l.dirty l.data) (.writeBack t l.key)
    | none => s.unmapped p (64 * l.key) (some t)

/-- A clean victim of a page homed on another die is offered to the tile's half (R198, R201). It enters as one sector of
its line, and only where the home's directory names the half (R225). -/
def State.offerVictim (s : State) (t p : Nat) (l : L1Line) : State :=
  let h := tileHalf t
  match s.translate p (64 * l.key) with
  | none => s
  | some hit =>
    let line := lineOf hit.bulk hit.addr
    let known := s.coh.dir.any fun e => e.line == line && e.state == .s && e.presence.testBit h
    let busy := (s.halfTx h line false).isSome || (s.halfTx (otherHalf h) line false).isSome
    if hit.spill || dpaDie hit.addr = tileDie t || !known || busy || (s.l2Line h line false).isSome || (s.l2Line (otherHalf h) line false).isSome then s
    else
      let off := alignDown (hit.addr - line) 64
      let n := lineBytes hit.bulk
      let data := List.replicate off 0#8 ++ l.data ++ List.replicate (n - off - 64) 0#8
      match s.placeL2 ⟨h, line, hit.bulk, false, p, 0, l.valid * 2 ^ off, data⟩ with
      | some s => s.addTo (fL2CntVictim_count (h / 2) (h % 2)) 1
      | none => s.bypassL2 h line hit.bulk false

/-- A new line takes its place: the least recently used of a full set leaves first, written back if it is dirty. -/
def State.l1Insert (s : State) (t p : Nat) (l : L1Line) : State :=
  let n := s.l1Sets t
  let set := (s.tileAt t).l1.filter fun x => x.key % n == l.key % n && !(x.instr == l.instr && x.key == l.key)
  if n = 0 then s else
  let s := if set.length < 8 then s else
    match set.getLast? with
    | none => s
    | some v =>
      let s := if v.dirty ≠ 0 then s.writeBack t p v else if v.instr then s else s.offerVictim t p v
      s.setL1 t ((s.tileAt t).l1.filter fun x => !(x.instr == v.instr && x.key == v.key))
  s.putL1 t l

/-- A sector arrives: it fills the line, and the line's own bytes win. -/
def State.l1Fill (s : State) (t p key home : Nat) (sector : List Byte) : State :=
  match s.l1Line t key with
  | some l => s.putL1 t { l with valid := 2 ^ 64 - 1, data := mergeBytes l.valid l.data sector }
  | none => s.l1Insert t p ⟨false, key, 2 ^ 64 - 1, 0, sector, home⟩

/-- Bytes of one sector are stored: a miss allocates without a fetch. -/
def State.l1Store (s : State) (t p key home mask : Nat) (bs : List Byte) : State :=
  match s.l1Line t key with
  | some l =>
    s.putL1 t { l with valid := l.valid ||| mask, dirty := l.dirty ||| mask, data := mergeBytes mask bs l.data }
  | none => s.l1Insert t p ⟨false, key, mask, mask, mergeBytes mask bs (List.replicate 64 0#8), home⟩

/-! ## Instruction fetch (R52, R69, R84) -/

/-- The code image within the PROGRAMS body: the first multiple of 64 after the descriptors. -/
def codeStart (body : List Byte) : Nat := alignDown (64 + 32 * field body 0 2 + 63) 64

/-- The byte offset of partition `p`'s code image within its program area: in the half that its last in force uses. -/
def State.codeOffset (s : State) (p : Nat) : Nat :=
  (if mapGet false s.ldr.secondHalf p then field (s.partEntry p) 16 4 else 0) +
    ((s.lastOf p).map fun l => codeStart l.body).getD 0

/-- Tile `t` fetches the instruction at `pc` through its level-1 share: a read-only line of the program area, keyed by its offset
there. How long the fetch takes is timing. -/
def State.fetchInstr (s : State) (t p pc : Nat) : State :=
  let key := (s.codeOffset p + pc) / 64
  match (s.tileAt t).l1.find? fun l => l.instr && l.key == key with
  | some l => s.putL1 t l
  | none =>
    let d := s.programDie p
    s.l1Insert t p ⟨true, key, 2 ^ 64 - 1, 0, s.homeBytes (dpa d (field (s.partEntry p) 8 8 + 64 * key)) 64, d⟩

/-- The instruction at `pc` can be fetched: from level 1, from its slice, or from a unit of DRAM that is not uncorrectable. One that
is gives the partition a memory fault (R288). -/
def State.readCode (s : State) (t p pc : Nat) : Bool × State :=
  let key := (s.codeOffset p + pc) / 64
  let u := dpa (s.programDie p) (field (s.partEntry p) 8 8 + 64 * key) / 64
  if ((s.tileAt t).l1.any fun l => l.instr && l.key == key) || !s.fromDram u then (true, s)
  else
    let s := s.checkUnits (· == u)
    if s.dram.ue.contains u then (false, (s.logUe u 0).memoryFault p (u * 64)) else (true, s)

/-! ## Paths (R73, R74) -/

/-- Every lane of the path waits at a barrier. -/
def Group.allAtBarrier (g : Group) (x : Path) : Bool :=
  x.mask != 0 && (List.range 32).all fun i => !x.mask.testBit i || g.bars.any fun b => b.lane == i

/-- A path whose next instruction may issue. -/
def Group.pathReady (g : Group) (x : Path) : Bool := x.state == .run && !g.allAtBarrier x

/-- A path that gives up its turn at once (R74): blocked at a barrier, parked, waiting on an eyelet or reconverged. -/
def Group.pathBlocked (g : Group) (x : Path) : Bool :=
  g.allAtBarrier x || match x.state with | .parked .. | .eyeWait .. | .reconverged => true | _ => false

/-- The next ready path in stack order after the current one, from the deepest entry wrapping to the shallowest. -/
def Group.nextReady (g : Group) : Option Nat :=
  let n := g.paths.length
  ((List.range n).map fun k => (g.cur + 1 + k) % n).find? fun i =>
    i != g.cur && ((g.paths[i]?).map g.pathReady).getD false

/-- The group moves to the next ready path where its current path cannot go on, and the count restarts. -/
def Group.settle (g : Group) : Group :=
  let gone := match g.paths[g.cur]? with | none => true | some x => g.pathBlocked x
  if !gone then g
  else match g.nextReady with
    | some i => { g with cur := i, count := 0 }
    | none => g

/-- Paths of one split that have all reached its reconvergence point merge (R73), innermost splits first. A path of which lanes
wait at a barrier has not reached it before the barrier completes (R78). -/
def Group.merge (g : Group) : Nat → Group
  | 0 => g
  | fuel + 1 =>
    let g : Group := { g with paths := g.paths.map fun (x : Path) =>
      match x.splits with
      | (_, r) :: _ =>
        if x.state = .run && x.pc = r && !g.bars.any fun b => x.mask.testBit b.lane then { x with state := .reconverged } else x
      | [] => x }
    let done : Option (Nat × Nat × List (Nat × Nat)) := g.paths.findSome? fun (x : Path) =>
      match x.splits with
      | (k, r) :: rest =>
        let kin := g.paths.filter fun y => y.splits.any fun e => e.1 == k
        if kin.all fun y => y.state == .reconverged && (y.splits.head?.map fun e => e.1) == some k then some (k, r, rest) else none
      | [] => none
    match done with
    | none => g
    | some (k, r, rest) =>
      let inK (y : Path) : Bool := (y.splits.head?.map fun e => e.1) == some k
      let mask := (g.paths.filter inK).foldl (fun m y => m ||| y.mask) 0
      let at_ := (g.paths.findIdx? inK).getD 0
      let curIn := ((g.paths[g.cur]?).map inK).getD true
      let others := (g.paths.take at_).filter (!inK ·) ++ [{ mask, pc := r, splits := rest }] ++ (g.paths.drop at_).filter (!inK ·)
      let before := (g.paths.take g.cur).filter (!inK ·)
      let cur := if curIn then at_ else before.length + (if at_ < g.cur then 1 else 0)
      Group.merge { g with paths := others, cur, count := if curIn then 0 else g.count } fuel

/-- Reconvergence, then the choice of the path that runs. -/
def Group.advance (g : Group) : Group := (g.merge 32).settle

/-- The path at place `i` of a group is changed. -/
def Group.setPath (g : Group) (i : Nat) (f : Path → Path) : Group :=
  { g with paths := g.paths.mapIdx fun j x => if j = i then f x else x }

/-- The place of the path that holds a lane. -/
def Group.pathOf (g : Group) (lane : Nat) : Option Nat := g.paths.findIdx? fun x => x.mask.testBit lane

/-- The lowest lane of a mask. -/
def lowestLane (m : Nat) : Nat := ((List.range 32).find? fun i => m.testBit i).getD 0

/-- A value is returned to a lane. -/
def State.giveLane (s : State) (t g lane v : Nat) : State :=
  let x := s.groupAt t g
  s.setGroup t g { x with values := x.values.filter (fun e => e.1 != lane) ++ [(lane, v)] }

/-- The group's store queue is full, and the group is not ready (R264). -/
def Group.queueFull (g : Group) : Bool := 16 ≤ g.queue.length

/-- Bytes `place` to `place + len - 1` of a value of `whole` bytes are replaced by `v`. -/
def withBytes (old whole place len v : Nat) : Nat :=
  old % 2 ^ (8 * place) + v * 2 ^ (8 * place) +
    old % 2 ^ (8 * whole) / 2 ^ (8 * (place + len)) * 2 ^ (8 * (place + len))

/-- A part of a load of `whole` bytes is returned to its lane. -/
def State.givePart (s : State) (t g lane whole place len v : Nat) : State :=
  let old := (((s.groupAt t g).values.find? fun e => e.1 == lane).map fun e => e.2).getD 0
  s.giveLane t g lane (withBytes old whole place len v)

/-- Code length of a partition (R84). -/
def State.codeLength (s : State) (p : Nat) : Nat := ((s.lastOf p).map fun l => l.codeLength).getD 0

/-- The group, its task and its current path, when the path's next instruction can issue: the step runs, the tile's end
has not begun, the group's store queue is not full, and no other path must run first (R71, R74, R264). Which of several such groups
is the first to be ready in a cycle rests on operands and units that are timing: the command names the group (log entry 122). -/
def State.issuing (s : State) (t g : Nat) : Option (Task × Group × Path) :=
  match s.taskOn t with
  | none => none
  | some k =>
    let x := s.groupAt t g
    match x.paths[x.cur]? with
    | none => none
    | some y =>
      if k.phase = .running && !(s.tileAt t).ending && !x.queueFull && x.pathReady y &&
          !(64 ≤ x.count && x.nextReady.isSome) then
        some (k, x, y)
      else none

/-- The current path's instruction is fetched and issues: the program counter advances by 16 (R502), the issue is counted (R74,
R93), and what the latest instruction returned is gone. -/
def State.issued (s : State) (t g : Nat) : State :=
  let y := ((s.groupAt t g).paths[(s.groupAt t g).cur]?).map fun y => y.pc
  let s := match s.taskOn t, y with
    | some k, some pc => s.fetchInstr t k.part pc
    | _, _ => s
  let x := s.groupAt t g
  let x := { x with count := min 64 (x.count + 1), values := [], inst := none }
  let x := x.setPath x.cur fun y => { y with pc := y.pc + 16 }
  let s := (s.setGroup t g x).addTo (fTileCntIssue_count (tileDie t) (tileSite t)) 1
  s.setTile t { s.tileAt t with lastIssued := g }

/-- Reconvergence and path choice after the program counter or the set of lanes has changed. -/
def State.settleGroup (s : State) (t g : Nat) : State := s.setGroup t g (s.groupAt t g).advance

/-- The instruction of the current path of a group is fetched and issues: the task, the path as it stood and the state after the issue;
or none, with what happens in its place: nothing where the path cannot issue, ILLEGAL where the program counter is no multiple of 16
or has left the code, as the target of a branch may have, a memory fault where its bytes cannot be read (R82, R288, R502). -/
def State.fetchPath (s : State) (t g : Nat) : Option (Task × Path) × State :=
  match s.issuing t g with
  | none => (none, s)
  | some (k, _, y) =>
    if s.codeLength k.part ≤ y.pc || y.pc % 16 ≠ 0 then (none, s.stepFault t g (lowestLane y.mask) 3 y.pc)
    else
      let r := s.readCode t k.part y.pc
      if r.1 then (some (k, y), r.2.issued t g) else (none, r.2)

/-- An instruction that a path issues whole: `f` on the path before the issue and the state after it. -/
def State.withPath (s : State) (t g : Nat) (f : Task → Path → State → State) : State :=
  match s.fetchPath t g with
  | (some (k, y), u) => (f k y u).settleGroup t g
  | (none, u) => u

/-- The part of a lane in the instruction of kind `kind` that its group has issued: it is performed once, whatever path the group
has moved to since, and names that instruction (R68, R502). -/
def State.lanePart (s : State) (t g lane kind : Nat) : Option (Task × Path) × State :=
  let x := s.groupAt t g
  match s.taskOn t, x.inst with
  | some k, some u =>
    if k.phase = .running && !(s.tileAt t).ending && u.kind = kind && u.left.testBit lane then
      (some (k, { mask := u.mask, pc := u.pc }), s.setGroup t g { x with inst := some { u with left := clearBit u.left lane } })
    else (none, s)
  | _, _ => (none, s)

/-- An instruction that lanes perform one by one: the part of the lowest lane of the current path stands for its issue, and the
other lanes of that path perform theirs after it. -/
def State.fetchLane (s : State) (t g lane kind : Nat) : Option (Task × Path) × State :=
  match s.issuing t g with
  | some (_, _, y) =>
    if y.mask.testBit lane && lane = lowestLane y.mask then
      match s.fetchPath t g with
      | (some (k, y), u) =>
        (some (k, y), u.setGroup t g { u.groupAt t g with inst := some ⟨kind, y.pc, y.mask, clearBit y.mask lane⟩ })
      | (none, u) => (none, u)
    else s.lanePart t g lane kind
  | none => s.lanePart t g lane kind

/-- The part of one lane in an instruction of kind `kind`. -/
def State.withLane (s : State) (t g lane kind : Nat) (f : Task → Path → State → State) : State :=
  match s.fetchLane t g lane kind with
  | (some (k, y), u) => (f k y u).settleGroup t g
  | (none, u) => u

/-! ## Waking parked paths (R81) -/

/-- A store or atomic of the tile to a granule has completed: paths parked on it become ready. -/
def State.wake (s : State) (t : Nat) (scratch : Bool) (granule : Nat) : State :=
  (s.tileAt t).groups.foldl (fun s e =>
    let x := s.groupAt t e.1
    if x.paths.any fun (y : Path) => match y.state with | .parked gs _ => gs.contains (scratch, granule) | _ => false then
      s.setGroup t e.1 (({ x with paths := x.paths.map fun (y : Path) => match y.state with
        | .parked gs _ => if gs.contains (scratch, granule) then { y with state := .run } else y
        | _ => y }).settle)
    else s) s

/-! ## Store queues (R264) -/

/-- The home of a translated address as level 1 records it: its die, or 9 for a spill page. -/
def PageHit.homeOf (h : PageHit) : Nat := if h.spill then 9 else dpaDie h.addr

/-- A store-queue entry drains as one write (R97). -/
def State.drainEntry (s : State) (t p : Nat) (e : SqEntry) : State :=
  if e.scratch then (s.scratchWriteMasked t e.base e.mask e.data).wake t true (e.base / 64)
  else match s.translate p e.base with
    | some h => s.l1Store t p (e.base / 64) h.homeOf e.mask e.data
    | none => s.unmapped p e.base (some t)

def State.setQueue (s : State) (t g : Nat) (q : List SqEntry) : State := s.setGroup t g { s.groupAt t g with queue := q }

/-- The entries of a group that satisfy `f` drain, oldest first. -/
def State.drainWhere (s : State) (t g p : Nat) (f : SqEntry → Bool) : State :=
  let q := (s.groupAt t g).queue
  let s := s.setQueue t g (q.filter (!f ·))
  (q.filter f).foldl (fun s e => s.drainEntry t p e) s

def State.drainAll (s : State) (t g p : Nat) : State := s.drainWhere t g p fun _ => true

/-! ## Releases and acquires (R260, R261) -/

/-- A scope covers memory of this home, for a tile of die `d` (R258). -/
def covers (scope d home : Nat) : Bool := (scope == 2 && home == d) || (scope == 3 && home < 8) || scope == 4

/-- An open transaction is a write-back of the tile, or an atomic or reduction of the group, that a release at the scope
waits for. -/
def releaseWaits (t g scope : Nat) (keys : List Nat) (home : Nat) (w : Purpose) : Bool :=
  match w with
  | .writeBack t' key => t' == t && (covers scope (tileDie t) home || keys.contains key)
  | .atomic t' g' .. | .reduction t' g' _ => t' == t && g' == g && covers scope (tileDie t) home
  | _ => false

/-- The actions of a release are done: nothing that it waits for is open. -/
def State.releaseDone (s : State) (t g scope : Nat) (keys : List Nat) : Bool :=
  s.coh.txs.all (fun x => x.wants.all fun w =>
    !releaseWaits t g scope keys (if x.spill then 9 else dpaDie x.addr) w) &&
  s.coh.halfWaits.all fun x => !releaseWaits t g scope keys (if x.spill then 9 else dpaDie x.line) x.want

/-- A release starts: the group's queue drains, and covered dirty bytes of level 1 are written back. -/
def State.startRelease (s : State) (t g p scope : Nat) : State :=
  let s := if scope = 0 then s else s.drainAll t g p
  ((s.tileAt t).l1.filter fun l => !l.instr && l.dirty != 0 && covers scope (tileDie t) l.home).foldl
    (fun s l => s.writeBack t p l) s

/-- Sectors whose loads in flight satisfy `stale` (sector, home): they return what they read, and fill level 1 no more. -/
def State.spoilLoads (s : State) (t : Nat) (stale : Nat → Nat → Bool) : State :=
  let spoil (home : Nat) (w : Purpose) : Purpose := match w with
    | .load t' g lane pa len place whole known fill =>
      .load t' g lane pa len place whole known (fill && !(t' == t && stale (pa / 64) home))
    | w => w
  { s with coh := { s.coh with
    txs := s.coh.txs.map (fun (x : Tx) => { x with wants := x.wants.map (spoil (if x.spill then 9 else dpaDie x.addr)) }),
    halfWaits := s.coh.halfWaits.map fun (x : HalfWait) => { x with want := spoil (if x.spill then 9 else dpaDie x.line) x.want } } }

/-- An acquire invalidates the clean bytes of covered level-1 lines, those that loads in flight would bring with them; dirty bytes
stay. -/
def State.acquire (s : State) (t scope : Nat) : State :=
  let s := s.spoilLoads t fun _ home => covers scope (tileDie t) home
  s.setL1 t (((s.tileAt t).l1.map fun l =>
    if !l.instr && covers scope (tileDie t) l.home then { l with valid := l.dirty } else l).filter fun l =>
      l.instr || l.valid != 0)

/-! ## Operations that leave the tile (R199, R245) -/

/-- The AtR of one lane, to its translated address. -/
def atrOf (h : PageHit) (op : LaneOp) (fn ty round : Nat) (reduction : Bool) : Msg :=
  let line := lineOf h.bulk h.addr
  { opcode := 6, addr := line, bulk := h.bulk, unit := if h.bulk then (h.addr - line) / 256 else (h.addr - line) / 64,
    mask := h.addr - line, fn, ty, round, operand := op.operand, compare := op.compare, reduction }

/-- The store queue and level 1 give up the sectors of an instruction's memory operations (R199): the queue's entries
drain, and dirty bytes are written back. The sectors whose acceptance must come first are returned. -/
def State.clearSectors (s : State) (t g p : Nat) (ops : List LaneOp) : List Nat × State :=
  let keys := (ops.filterMap fun o => match o.loc with | .mem pa => some (pa / 64) | .scratch _ => none).eraseDups
  let s := s.drainWhere t g p fun e => !e.scratch && keys.contains (e.base / 64)
  (keys, keys.foldl (fun s key => match s.l1Line t key with
    | some l => s.writeBack t p l
    | none => s) s)

/-- The operations of one instruction in rising lane order (R162). -/
def inLaneOrder (ops : List LaneOp) : List LaneOp := (List.range 32).flatMap fun i => ops.filter fun o => o.lane.val == i

/-- The memory operations of one instruction leave in rising lane order (R162): each lane's sector of level 1 is invalidated
first. -/
def State.sendOps (s : State) (t g p : Nat) (ops : List LaneOp) (fn ty round : Nat) (acquire : Option Nat)
    (reduction hint : Bool) : State :=
  (inLaneOrder ops).foldl (fun s op =>
    match op.loc with
    | .scratch _ => s
    | .mem pa =>
      match s.translate p pa with
      | none => s.unmapped p pa (some t)
      | some h =>
        let s := (s.dropL1 t (pa / 64)).spoilLoads t fun key _ => key == pa / 64
        let n := (elemBytes ty).getD 0
        s.issueWrite (s.tileAsks t p) (atrOf h op fn ty round reduction)
          (if reduction then .reduction t g (pa / 64)
           else .atomic t g op.lane (pa / 64) n (op.compare.toNat % 2 ^ (8 * n)) hint acquire)) s

/-- The element of a scratch operation changes in the tile store, once the group's entry for its granule has drained
(R270). The old value comes back. -/
def State.scratchOp (s : State) (t g p off : Nat) (op : LaneOp) (fn ty round : Nat) : Nat × State :=
  let s := s.drainWhere t g p fun e => e.scratch && e.base == alignDown off 64
  let n := (elemBytes ty).getD 0
  let old := leNat (s.scratchRead t off n)
  let v := elementOp fn ty round (s.satMode p) old op.operand.toNat op.compare.toNat
  (old, (s.scratchWrite t off (toLE n v)).wake t true (off / 64))

/-- The scratch operations of an instruction apply at the tile store, and their old values return to their lanes. -/
def State.scratchOps (s : State) (t g p : Nat) (ops : List LaneOp) (fn ty round : Nat) (reduction : Bool) : State :=
  ops.foldl (fun s o => match o.loc with
    | .scratch off =>
      let r := s.scratchOp t g p off o fn ty round
      if reduction then r.2 else r.2.giveLane t g o.lane r.1
    | .mem _ => s) s

/-- What a path does once its release is complete. -/
def State.runCont (s : State) (t g p i : Nat) (c : Cont) : State :=
  let put (s : State) (st : PathState) : State :=
    let x := s.groupAt t g
    s.setGroup t g (x.setPath i fun y => { y with state := st })
  match c with
  | .fence acq =>
    let scope := match ((s.groupAt t g).paths[i]?).map fun y => y.state with | some (.waiting sc _ _) => sc | _ => 0
    let s := put s .run
    if acq then s.acquire t scope else s
  | .eyeAdd e n => (put s .run).eyeCount e n
  | .atomic ops fn ty round acq reduction hint =>
    let lanes := (ops.map fun o => 2 ^ o.lane.val).foldl (· ||| ·) 0
    let gs := ops.filterMap fun o => match o.loc with | .mem pa => some (o.lane.val, false, pa / 64) | .scratch _ => none
    let s := put s (if hint then .casWait lanes 0 gs else if acq.isSome && !gs.isEmpty then .response else .run)
    let s := (s.scratchOps t g p (inLaneOrder ops) fn ty round reduction).sendOps t g p ops fn ty round acq reduction hint
    match acq with
    | some sc => if gs.isEmpty then s.acquire t sc else s
    | none => s

/-- A release is complete, and with it what the next operation needs: bytes of its sectors that became dirty while it waited are
written back too (R199). -/
def State.goesOn (s : State) (t g p scope : Nat) (keys : List Nat) (c : Cont) : Bool × State :=
  if !s.releaseDone t g scope keys then (false, s)
  else match c with
    | .atomic ops .. =>
      let s := (s.clearSectors t g p ops).2
      (s.releaseDone t g scope keys, s)
    | _ => (true, s)

/-- Paths of the tile whose release is complete go on. -/
def State.checkReleases (s : State) (t : Nat) : State :=
  match s.taskOn t with
  | none => s
  | some k =>
    (s.tileAt t).groups.foldl (fun s e =>
      ((List.range 32).foldl (fun s i =>
        match ((s.groupAt t e.1).paths[i]?).map fun y => y.state with
        | some (.waiting scope keys c) =>
          let r := s.goesOn t e.1 k.part scope keys c
          if r.1 then r.2.runCont t e.1 k.part i c else r.2
        | _ => s) s).settleGroup t e.1) s

/-- The path at place `i` starts a release and goes on with `c` when it is complete, at once where nothing is owed. -/
def State.releaseAt (s : State) (t g i p scope : Nat) (keys : List Nat) (c : Cont) : State :=
  let s := s.startRelease t g p scope
  let x := s.groupAt t g
  let s := s.setGroup t g (x.setPath i fun y => { y with state := .waiting scope keys c })
  s.checkReleases t

/-- The current path of the group starts a release and goes on with `c`. -/
def State.releaseThen (s : State) (t g p scope : Nat) (keys : List Nat) (c : Cont) : State :=
  s.releaseAt t g (s.groupAt t g).cur p scope keys c

/-! ## Barriers (R78, R79) -/

/-- Lanes of a group leave the barriers that satisfy `f`. -/
def State.releaseBars (s : State) (t g : Nat) (f : LaneBar → Bool) : State :=
  let x := s.groupAt t g
  s.setGroup t g ({ x with bars := x.bars.filter (!f ·) }.advance)

/-- Every live lane of the group waits at a barrier that satisfies `f`. -/
def Group.allWaitAt (g : Group) (f : LaneBar → Bool) : Bool :=
  (List.range 32).all fun i => !g.live.testBit i || g.bars.any fun b => b.lane == i && f b

def State.liveGroups (s : State) (t : Nat) : List Nat :=
  ((s.tileAt t).groups.filter fun e => e.2.live != 0).map fun e => e.1

/-- Every live lane of the tile waits at a barrier that satisfies `f`. -/
def State.tileWaitsAt (s : State) (t : Nat) (f : LaneBar → Bool) : Bool :=
  !(s.liveGroups t).isEmpty && (s.liveGroups t).all fun g => (s.groupAt t g).allWaitAt f

/-- The cycles that lanes waited at barriers, which the model does not time, are a free value (R93). -/
def State.countBarrier (s : State) (t : Nat) : State :=
  let (n, s) := s.draw
  s.addTo (fTileCntBarrier_count (tileDie t) (tileSite t)) n

/-- The instruction that the current path of a group has just issued. -/
def State.issuedPc (s : State) (t g : Nat) : Nat :=
  let x := s.groupAt t g
  ((x.paths[x.cur]?).map fun y => y.pc - 16).getD 0

/-- Every group whose live lanes all wait at one group barrier is released. -/
def State.groupBarriers (s : State) (t : Nat) : State :=
  (s.liveGroups t).foldl (fun s g =>
    match (s.groupAt t g).bars.head? with
    | some _ =>
      match (List.range 16).find? fun n => (s.groupAt t g).allWaitAt fun b => b.kind == .group && b.number == n with
      | some n => (s.releaseBars t g fun b => b.kind == .group && b.number == n).countBarrier t
      | none => s
    | none => s) s

/-- The tile barrier at which every live lane of the tile waits is released. -/
def State.tileBarrier (s : State) (t : Nat) : State :=
  match (List.range 16).find? fun n => s.tileWaitsAt t fun b => b.kind == .tile && b.number == n with
  | some n => ((s.liveGroups t).foldl (fun s g => s.releaseBars t g fun b => b.kind == .tile && b.number == n) s).countBarrier t
  | none => s

/-- DIVERGENT_BARRIER on tile `t`: it names group `g`, the group's lowest live lane, and the instruction before the program counter of
the group's current path (R79 names none; DESIGN CHOICE, log entry 126). -/
def State.divergent (s : State) (t g : Nat) : State := s.stepFault t g (lowestLane (s.groupAt t g).live) 1 (s.issuedPc t g)

/-- Group and tile barriers whose condition holds complete; a task barrier that all live lanes of the tile reach makes
the tile send its arrival, outside the slack window (R32, R77); then the detection rule of R79. -/
def State.checkBarriers (s : State) (t : Nat) : State :=
  let s := (s.groupBarriers t).tileBarrier t
  match (List.range 16).find? fun n => s.tileWaitsAt t fun b => b.kind == .task && b.number == n with
  | some n =>
    if s.clock.slackOpen || (s.tileAt t).sentBar.isSome then s else s.setTile t { s.tileAt t with sentBar := some n }
  | none =>
    let split := (s.liveGroups t).find? fun g => (s.groupAt t g).allWaitAt fun b => b.kind == .group
    match split with
    | some g => s.divergent t g
    | none => if s.tileWaitsAt t fun _ => true then s.divergent t ((s.liveGroups t).headD 0) else s

end Sys2Proof.Machine
end

