-- ==== Sys2Proof/Machine/Rdma.lean ====
section
/-! DEFINITION. Copies as bytes that move (R113 to R121), and what a queue pair sends and takes (R333 to R339). -/

namespace Sys2Proof.Machine

/-! ## The bytes of a copy (R114) -/

def CopyDesc.total (d : CopyDesc) : Nat := d.length * d.rows

/-- A byte range of a copy cut into parts that stay in one row and in one aligned block of addresses. -/
def cutRange (row block : Nat) (addr : Nat → Nat) : Nat → Nat → Nat → List (Nat × Nat)
  | 0, _, _ => []
  | fuel + 1, first, len =>
    if len = 0 then []
    else
      let n := min len (min (row - first % row) (block - addr first % block))
      if n = 0 then [] else (first, n) :: cutRange row block addr fuel (first + n) (len - n)

/-- The bytes of a row that lie in one destination granule, byte `b` among them: first and length (R97). -/
def CopyDesc.pieceOf (d : CopyDesc) (b : Nat) : Nat × Nat :=
  let first := b - min (b % d.length) (d.dstOf b % 64)
  (first, min (d.length - first % d.length) (64 - d.dstOf first % 64))

/-- `n` bytes from byte `p` on, where the chunks hold them all. -/
def takeHeld (held : List (Nat × List Byte)) : Nat → Nat → Nat → Option (List Byte)
  | 0, _, n => if n = 0 then some [] else none
  | fuel + 1, p, n =>
    if n = 0 then some []
    else match held.find? fun e => e.1 ≤ p && p < e.1 + e.2.length with
      | none => none
      | some e =>
        let bs := (e.2.drop (p - e.1)).take n
        (takeHeld held fuel (p + bs.length) (n - bs.length)).map fun r => bs ++ r

/-- The chunks without bytes `p` to `p + n - 1`. -/
def cutHeld (held : List (Nat × List Byte)) (p n : Nat) : List (Nat × List Byte) :=
  held.flatMap fun e =>
    (if e.1 < p then [(e.1, e.2.take (p - e.1))] else []) ++
      (if p + n < e.1 + e.2.length then [(max e.1 (p + n), e.2.drop (p + n - e.1))] else [])

/-- Bytes `first` to `first + n - 1` of a copy, where its engine holds them all, and the copy without them. -/
def Copy.take (c : Copy) (first n : Nat) : Option (List Byte × Copy) :=
  (takeHeld c.held (c.held.length + 1) first n).map fun bs => (bs, { c with held := cutHeld c.held first n })

def State.copyOn (s : State) (t id : Nat) : Option Copy := (s.tileAt t).copies.find? fun c => c.id == id
def State.setCopy (s : State) (t : Nat) (c : Copy) : State :=
  s.setTile t { s.tileAt t with copies := (s.tileAt t).copies.map fun x => if x.id = c.id then c else x }

/-- `n` bytes of a copy reach their counting point (R119): its eyelet counts them, and the copy leaves the engine once
every byte is counted. -/
def State.copyCount (s : State) (t id n : Nat) : State :=
  match s.copyOn t id with
  | none => s
  | some c =>
    let p := ((s.taskById c.task).map fun k => k.part).getD 16
    let s := match s.copyEyelet p c.desc with | some e => s.eyeCount e n | none => s
    let c := { c with counted := c.counted + n }
    if c.desc.total ≤ c.counted then s.dropCopy t id else s.setCopy t c

/-! ## Queue pairs: the requester (R333 to R336) -/

def mtuOf (c : QpCfg) : Nat := 1024 * 2 ^ c.mtu

/-- The device holds back its RoCEv2 packets on a paused port (R330). -/
def State.portPaused (s : State) (k : Nat) : Bool := s.get (fOutPortStatus_paused (k / 2) (k % 2)) != 0

def State.portSt (s : State) (k : Nat) : PortSt := mapGet {} s.outer.ports k
def State.setPortSt (s : State) (k : Nat) (x : PortSt) : State :=
  { s with outer := { s.outer with ports := mapSet {} s.outer.ports k x } }

/-- Data packets: those that carry or ask for bytes. -/
def dataOp : PktOp → Bool
  | .writeFirst | .writeMiddle | .writeLast | .writeOnly | .writeLastImm | .writeOnlyImm | .sendFirst | .sendMiddle
  | .sendLast | .sendOnly | .readRequest | .readFirst | .readMiddle | .readLast | .readOnly => true
  | _ => false

/-- The headers of a RoCEv2 packet of a queue pair (R328, R334): ECT(0) on data packets. -/
def State.roceHdr (s : State) (c : QpCfg) (x : Pkt) : FrameHdr :=
  { s.frameHdr c.port s.portsHdr.rocePcp with
    dstMac := c.mac, dstIp := c.peerIpv4, ecn := if dataOp x.op then some 2 else none,
    srcUdp := some (0xC000 + x.qpn % 0x4000), dstUdp := 4791 }

/-- A packet is on the wire. -/
def State.wirePkt (s : State) (port : Nat) (h : FrameHdr) (x : Pkt) : State :=
  (s.emit (.packet port h x)).addTo (fOutPortTx_count (port / 2) (port % 2)) 1

/-- A packet of a queue pair of partition `p` leaves on its port, or waits while the partner pauses it. A CNP never waits. -/
def State.sendPkt (s : State) (p : Nat) (c : QpCfg) (x : Pkt) : State :=
  if s.portPaused c.port && x.op != .cnp then
    s.setPortSt c.port { s.portSt c.port with queued := (s.portSt c.port).queued ++ [⟨p, s.roceHdr c x, x⟩] }
  else s.wirePkt c.port (s.roceHdr c x) x

/-- Bytes that a port has received for its queue pairs and that no home has accepted yet: its receive buffer. -/
def State.rxBuffer (s : State) (k : Nat) : Nat :=
  (s.outer.qps.map fun e =>
    if ((s.qpCfg (e.1 / 4096) (e.1 % 4096)).map fun c => c.port) = some k then
      (e.2.rx.map fun r => r.bytes).foldl (· + ·) 0
    else 0).foldl (· + ·) 0

/-- A port pauses its partner above 768 KiB of receive buffer, and releases it below 512 KiB (R330). -/
def State.checkPause (s : State) (k : Nat) : State :=
  let n := s.rxBuffer k
  let on := (s.portSt k).pauseSent
  let want := if on then !(n < 512 * 1024) else 768 * 1024 < n
  let hdr := (s.dev.map fun l => l.portsHdr).getD {}
  let pfc := ((s.dev.bind fun l => l.ports[k]?).map fun e => e.pfc).getD false
  if want = on || (want && !pfc) then s
  else
    let s := (s.setPortSt k { s.portSt k with pauseSent := want }).emit (.pause k hdr.rocePcp (if want then 65535 else 0))
    (s.addTo (fOutPortTx_count (k / 2) (k % 2)) 1).bump (fOutPortPfc_sent (k / 2) (k % 2)) 1

/-- A request packet leaves under the next PSN, and waits for its acknowledgement. -/
def State.qpSend (s : State) (p q n : Nat) (c : QpCfg) (x : Pkt) : State :=
  let y := s.qp p q
  let x := { x with psn := y.psn, qpn := qpNumber (s.get fOutJobInc_incarnation) c.peerPart c.peerQp }
  (s.setQp p q { y with psn := (y.psn + n) % 2 ^ 24, sent := y.sent ++ [x] }).sendPkt p c x

/-- Bits 31:16 of the R_Key on the wire (R336): the remote eyelet, or 0xFFFF for none. -/
def wireKey (d : CopyDesc) : Nat := d.rkey % 2 ^ 16 + 2 ^ 16 * (if d.eyelet = 0xFFFFFFFF then 0xFFFF else d.eyelet)

/-- A copy on a queue pair that is not ready, or with an operation that its direction does not allow, ends in error
(R121, R335); an eyelet that the wire cannot carry puts the queue pair in error (R336). -/
def State.remoteCheck (s : State) (t id : Nat) (k : Task) (d : CopyDesc) : Bool × State :=
  let op := d.rkey / 2 ^ 16
  let bad := if d.dst = 3 then 2 < op else 1 < op
  if (s.qp k.part d.qp).state ≠ 1 || bad then (false, s.copyError t id)
  else if d.dst = 3 && 65535 ≤ d.eyelet && d.eyelet < 0xFFFFFFFF then
    (false, (s.qpError k.part d.qp 5).copyError t id)
  else (true, s)

/-- The packet of one part of a row (R335). -/
def remotePkt (d : CopyDesc) (tag first n : Nat) (bs : List Byte) : Pkt :=
  let off := first % d.length
  let isFirst := off == 0
  let isLast := off + n == d.length
  let kind := d.rkey / 2 ^ 16
  let op : PktOp :=
    if kind = 2 then
      (if isFirst && isLast then .sendOnly else if isFirst then .sendFirst else if isLast then .sendLast else .sendMiddle)
    else if kind = 1 then
      (if isFirst && isLast then .writeOnlyImm else if isFirst then .writeFirst else if isLast then .writeLastImm else .writeMiddle)
    else (if isFirst && isLast then .writeOnly else if isFirst then .writeFirst else if isLast then .writeLast else .writeMiddle)
  { op, qpn := 0, va := if kind ≠ 2 && isFirst then d.dstOf first else 0, rkey := if kind ≠ 2 && isFirst then wireKey d else 0,
    len := if isFirst then d.length else n, imm := if kind = 1 && isLast then tag % 2 ^ 32 else 0, data := bs,
    packets := d.countPackets }

/-- A packet of a copy leaves for a remote device. -/
def State.remoteSend (s : State) (t id : Nat) (k : Task) (d : CopyDesc) (cfg : QpCfg) (first : Nat) (bs : List Byte) : State :=
  let psn := (s.qp k.part d.qp).psn
  let s := s.qpSend k.part d.qp 1 cfg (remotePkt d k.tag first bs.length bs)
  let y := s.qp k.part d.qp
  s.setQp k.part d.qp { y with copies :=
    (y.copies.filter fun x => !(x.t == t && x.id == id)) ++ [{ t, id, psn, first, len := bs.length }] }

/-- The packets of a copy leave in the order of its bytes, each when the engine holds all of it (R335). -/
def State.remoteNext (s : State) (t id : Nat) (k : Task) (cfg : QpCfg) : Nat → State
  | 0 => s
  | fuel + 1 =>
    match s.copyOn t id with
    | none => s
    | some c =>
      let off := c.sent % c.desc.length
      let n := min (c.desc.length - off) (mtuOf cfg - off % mtuOf cfg)
      match if c.desc.total ≤ c.sent then none else c.take c.sent n with
      | none => s
      | some (bs, c) =>
        let r := s.remoteCheck t id k c.desc
        if !r.1 then r.2
        else ((r.2.setCopy t { c with sent := c.sent + n }).remoteSend t id k c.desc cfg (c.sent) bs).remoteNext t id k cfg fuel

/-- The read requests of a copy with a REMOTE source leave, one message for each row (R335). -/
def State.remoteRead (s : State) (t : Nat) (k : Task) (c : Copy) : State :=
  match s.qpCfg k.part c.desc.qp with
  | none => s.copyError t c.id
  | some cfg =>
    let r := s.remoteCheck t c.id k c.desc
    if !r.1 then r.2 else
    (List.range c.desc.rows).foldl (fun s row =>
      let psn := (s.qp k.part c.desc.qp).psn
      let n := ceilDiv c.desc.length (mtuOf cfg)
      let s := s.qpSend k.part c.desc.qp n cfg
        { op := .readRequest, qpn := 0, va := c.desc.srcAddr + row * c.desc.srcStride, len := c.desc.length,
          rkey := c.desc.rkey % 2 ^ 16 + 2 ^ 16 * 0xFFFF }
      let y := s.qp k.part c.desc.qp
      s.setQp k.part c.desc.qp { y with copies := y.copies ++
        [{ t, id := c.id, psn, first := row * c.desc.length, len := c.desc.length, read := true }] }) r.2

/-! ## Where the bytes of a copy go (R117, R119) -/

/-- A granule of a copy is written whole into the destination tile's store, once the engine holds all its bytes, and is counted
(R97, R98, R119). -/
def State.putGranule (s : State) (t id u b : Nat) : State :=
  match s.copyOn t id with
  | none => s
  | some c =>
    let e := c.desc.pieceOf b
    match c.take e.1 e.2 with
    | none => s
    | some (bs, c) => (((s.setCopy t c).scratchWrite u (c.desc.dstOf e.1) bs)).copyCount t id e.2

/-- Bytes of a copy come to its engine, and those that make up a granule or packet go to its destination. -/
def State.copyPut (s : State) (t id first : Nat) (bs : List Byte) : State :=
  match s.copyOn t id with
  | none => s
  | some c =>
    match s.taskById c.task with
    | none => s
    | some k =>
      let d := c.desc
      if d.dst < 2 then
        match peerTile k t d.dst d.peerRank with
        | none => s.copyError t id
        | some u =>
          if s.fenced u then s.copyError t id
          else
            let s := s.setCopy t { c with held := c.held ++ [(first, bs)] }
            (cutRange d.length 64 d.dstOf (bs.length + 1) first bs.length).foldl (fun s e => s.putGranule t id u e.1) s
      else if d.dst = 2 then
        (cutRange d.length 256 d.dstOf (bs.length + 1) first bs.length).foldl (fun s e =>
          if (s.copyOn t id).isNone then s else
          match s.translate k.part (d.dstOf e.1) with
          | none => s.unmapped k.part (d.dstOf e.1) (some t)
          | some h => s.issueWrite (s.tileAsks t k.part) (wbmAt h (slice bs (e.1 - first) e.2)) (.copyWrite t id e.2)) s
      else match s.qpCfg k.part d.qp with
        | none => s.copyError t id
        | some cfg => (s.setCopy t { c with held := c.held ++ [(first, bs)] }).remoteNext t id k cfg (d.total + 1)

/-! ## Acknowledgements at the requester (R338) -/

/-- PSN `a` lies at or before `b`, modulo 2^24. -/
def psnLe (a b : Nat) : Bool := (b + 2 ^ 24 - a) % 2 ^ 24 < 2 ^ 23

/-- Packets up to `psn` are acknowledged; a write copy whose last packet is among them is counted. -/
def State.qpAcked (s : State) (p q psn : Nat) : State :=
  let y := s.qp p q
  let done := y.copies.filter fun c => !c.read && psnLe c.psn psn
  let s := s.setQp p q { y with sent := y.sent.filter fun x => !psnLe x.psn psn || x.op == .readRequest }
  done.foldl (fun s e =>
    match s.copyOn e.t e.id with
    | none =>
      let y := s.qp p q
      s.setQp p q { y with copies := y.copies.erase e }
    | some c =>
      if e.first + e.len = c.desc.total then
        let y := s.qp p q
        (s.setQp p q { y with copies := y.copies.erase e }).dropCopy e.t e.id
      else s) s

/-- The packets from `psn` on leave again (go-back-N). -/
def State.qpResend (s : State) (p q psn : Nat) : State :=
  match s.qpCfg p q with
  | none => s
  | some c => ((s.qp p q).sent.filter fun x => psnLe psn x.psn).foldl (fun s x => s.sendPkt p c x) s

/-! ## The responder (R336, R337) -/

/-- A response packet goes back on the port that the queue pair uses. -/
def State.qpReply (s : State) (p q : Nat) (x : Pkt) : State :=
  match s.qpCfg p q with
  | none => s
  | some c => s.sendPkt p c { x with qpn := qpNumber (s.get fOutJobInc_incarnation) c.peerPart c.peerQp }

/-- The edge router of a port: the first of the eight columns of R165, on the north edge of CD0 to CD3 and the south edge of CD4
to CD7 (log entry 137). -/
def portSite (k : Nat) : Nat := (if k / 2 < 4 then 0 else 15) * 17 + 8 * (k % 2)

/-- The outer port as a requester for partition `p`. -/
def State.portAsks (s : State) (k p : Nat) : Requester := ⟨k / 2, portSite k, none, p, s.generation p⟩

/-- A write of partition memory for a packet, cut at 256-byte blocks; the number of messages sent. -/
def State.portWrite (s : State) (k p pa : Nat) (bs : List Byte) (want : Nat → Purpose) : Nat × State :=
  (cutRange (pa + bs.length + 1) 256 id (bs.length + 1) pa bs.length).foldl (fun (r : Nat × State) e =>
    match r.2.translate p e.1 with
    | none => (r.1, r.2.unmapped p e.1)
    | some h => (r.1 + 1, r.2.issueWrite (r.2.portAsks k p) (wbmAt h (slice bs (e.1 - pa) e.2)) (want e.2))) (0, s)

def slotOf (c : QpCfg) (index : Nat) : Nat := c.recvBase + 64 + index % c.recvSlots * c.slotBytes

/-- The receive area has a free slot, by the consumer index last read (R337). -/
def recvRoom (c : QpCfg) (x : Qp) : Bool := (x.recvIndex + 2 ^ 32 - x.recvConsumer) % 2 ^ 32 < c.recvSlots

/-- The consumer index of a receive area is read again. -/
def State.readConsumer (s : State) (k p q : Nat) (c : QpCfg) : State :=
  match s.translate p (c.recvBase + 8) with
  | none => s
  | some h => (s.issueRead (s.portAsks k p) h (.receive p q 0 9)).2

/-- The record of a slot without its phase byte (R337). -/
def slotRecord (len imm : Nat) (withImm : Bool) : List Byte :=
  toLE 4 len ++ toLE 4 imm ++ [if withImm then 1#8 else 0#8] ++ List.replicate 54 0#8

/-- Packets that are complete are acknowledged in order; a queue pair in error answers nothing. -/
def State.sendAcks (s : State) (p q : Nat) : Nat → State
  | 0 => s
  | fuel + 1 =>
    let x := s.qp p q
    match x.rx with
    | r :: rs =>
      if r.left = 0 && r.slot.isNone then
        let s := s.setQp p q { x with rx := rs }
        (if x.state = 1 then s.qpReply p q { op := .ack, qpn := 0, psn := r.psn } else s).sendAcks p q fuel
      else s
    | [] => s

/-- The oldest slot whose message is complete gets its phase byte; slots complete in order. -/
def State.nextSlot (s : State) (p q : Nat) (c : QpCfg) : State :=
  let x := s.qp p q
  match x.rx.find? fun r => r.slot.isSome with
  | none => s
  | some r =>
    if r.left ≠ 0 || r.phase then s
    else
      let i := r.slot.getD 0
      let s := s.setQp p q { x with rx := x.rx.map fun (y : RxPkt) => if y.psn = r.psn then { y with phase := true } else y }
      (s.portWrite c.port p (slotOf c i + 63) [BitVec.ofNat 8 ((i / c.recvSlots + 1) % 2)] fun _ => .receive p q r.psn 1).2

/-- A packet's writes are all accepted: its eyelet counts it as a packet, or its slot's phase byte leaves. -/
def State.rxDone (s : State) (p q : Nat) (r : RxPkt) : State :=
  match s.qpCfg p q with
  | none => s
  | some c =>
    let s := if r.packets && r.eyelet ≠ 0xFFFF then
        match s.eyeletOf p r.eyelet with | some e => s.eyeCount e 1 | none => s
      else s
    if r.slot.isSome then s.nextSlot p q c else s.sendAcks p q ((s.qp p q).rx.length)

/-- One write of packet `psn` has been accepted: `n` bytes are counted (R119). -/
def State.rxWritten (s : State) (p q psn n : Nat) : State :=
  let x := s.qp p q
  match x.rx.find? fun r => r.psn == psn with
  | none => s
  | some r =>
    let s := if !r.packets && r.eyelet ≠ 0xFFFF && n ≠ 0 then
        match s.eyeletOf p r.eyelet with | some e => s.eyeCount e n | none => s
      else s
    let r' := { r with left := r.left - 1, bytes := r.bytes - n }
    let x := s.qp p q
    let s := s.setQp p q { x with rx := x.rx.map fun y => if y.psn = psn then r' else y }
    let s := match s.qpCfg p q with | some c => s.checkPause c.port | none => s
    if r'.left = 0 then s.rxDone p q r' else s

/-- A slot's phase byte has been accepted: the producer index is written, and the receive eyelet counts 1 (R337). -/
def State.slotDone (s : State) (p q psn : Nat) : State :=
  match s.qpCfg p q with
  | none => s
  | some c =>
    let x := s.qp p q
    let i := ((x.rx.find? fun y => y.psn == psn).bind fun y => y.slot).getD x.recvIndex
    let s := s.setQp p q { x with rx := x.rx.map fun (y : RxPkt) => if y.psn = psn then { y with slot := none } else y }
    let s := (s.portWrite c.port p c.recvBase (toLE 4 ((i + 1) % 2 ^ 32)) fun _ => .ringWrite p).2
    let s := if c.recvEyelet = 0xFFFFFFFF then s else
      match s.eyeletOf p c.recvEyelet with | some e => s.eyeCount e 1 | none => s
    (s.sendAcks p q ((s.qp p q).rx.length)).nextSlot p q c

/-- The responses of a read whose bytes have all come leave (R333). -/
def State.readAnswer (s : State) (p q : Nat) (job : ReadJob) : State :=
  match s.qpCfg p q with
  | none => s
  | some c =>
    let bs := job.parts.flatMap fun e => e.2
    let n := max 1 (ceilDiv job.total (mtuOf c))
    (List.range n).foldl (fun s i =>
      s.qpReply p q
        { op := if n = 1 then .readOnly else if i = 0 then .readFirst else if i + 1 = n then .readLast else .readMiddle,
          qpn := 0, psn := (job.psn + i) % 2 ^ 24, data := slice bs (i * mtuOf c) (mtuOf c) }) s

/-- A part of a remote read has been read at its point of coherence (R277). -/
def State.readPart (s : State) (p q psn first : Nat) (bs : List Byte) : State :=
  let x := s.qp p q
  match x.reads.find? fun j => j.psn == psn with
  | none => s
  | some j =>
    let j := { j with parts := mapSet [] j.parts first bs }
    let got : Nat := (j.parts.map fun (e : Nat × List Byte) => e.2.length).foldl (· + ·) 0
    if got = j.total then
      (s.setQp p q { x with reads := x.reads.filter fun y => y.psn != psn }).readAnswer p q j
    else s.setQp p q { x with reads := x.reads.map fun y => if y.psn = psn then j else y }

end Sys2Proof.Machine
end

