-- ==== Sys2Proof/Machine/Routes.lean ====
section
/-! DEFINITION. Routes, ports and shapes: which ports exist, are dead, or belong to a partition (R165, R174, R175),
where a flit goes (R169, R170), the distance table (R179), and where a shape fits (R87, R177, R178). -/

namespace Sys2Proof.Machine

/-! ## Welt groups -/

/-- The register view of a welt group is the same at both its ends; the model keeps both. -/
def State.weltMode (s : State) (w g : Nat) : Nat := s.get (fWeltMode_mode (weltDies w).1 (weltEdge w (weltDies w).1) g)
def State.setWeltMode (s : State) (w g m : Nat) : State :=
  (s.set (fWeltMode_mode (weltDies w).1 (weltEdge w (weltDies w).1) g) m).set
    (fWeltMode_mode (weltDies w).2 (weltEdge w (weltDies w).2) g) m
def State.setWeltOwner (s : State) (w g p : Nat) : State :=
  (s.set (fWeltOwner_partition (weltDies w).1 (weltEdge w (weltDies w).1) g) p).set
    (fWeltOwner_partition (weltDies w).2 (weltEdge w (weltDies w).2) g) p

/-- The groups of welt `w` that carry dynamic traffic now (R184, R189). -/
def State.muxGroups (s : State) (w : Nat) : List Nat := (List.range 16).filter fun g => s.weltMode w g == 2

/-- A welt carries dynamic traffic now: some multiplexed group works (R401). -/
def State.weltWorks (s : State) (w : Nat) : Bool := !(s.muxGroups w).isEmpty

/-- The groups that a device last gives multiplexed mode and that have not failed (R401). -/
def State.lastMux (s : State) (l : DeviceLast) (w : Nat) : List Nat :=
  (List.range 16).filter fun g => ((l.welts[w * 16 + g]?).map fun e => e.mode) == some 2 && s.weltMode w g != 3

/-! ## Dead parts -/

def State.routerDead (s : State) (d site : Nat) : Bool := s.flag (fMeshDead_dead d (site / 64) (site % 64))
def State.linkDead (s : State) (d site port plane : Nat) : Bool :=
  s.mesh.deadLinks.contains (d * 272 + site, port, plane)

/-- Where the far end of welt edge `e`, group `g` lies (R165): the edge router of the far die. -/
def landing (e g : Nat) : Nat := if e = 1 then g * 17 else if e = 3 then g * 17 + 16 else if e = 2 then g else 15 * 17 + g

/-- The die and site that output port `p` of a router leads to, `none` outside the die network. -/
def beyond (d site p : Nat) : Option (Nat × Nat) :=
  match outward d (siteX site) (siteY site) p with
  | none => if p = 4 then some (d, site) else
    let (x, y) := nextSite (siteX site) (siteY site) p
    some (d, y * 17 + x)
  | some (.welt w g) => some (farDie w d, landing p g)
  | some _ => none

/-- A schedule record names a port that exists (R165, R177). -/
def portExists (d x y p : Nat) : Bool := d < 8 && x < 17 && y < 16 && p ≤ 4 && outward d x y p != some .nothing

/-- A mesh output port: the local port, or one that leads to a router of the same die (R174). -/
def isMeshPort (d x y p : Nat) : Bool := (outward d x y p).isNone

/-- The port is dead: its link is, or its own router is. -/
def State.portDead (s : State) (d x y p plane : Nat) : Bool :=
  s.routerDead d (y * 17 + x) || s.linkDead d (y * 17 + x) p plane

/-- Neither the port nor the routers at its ends are dead (R177); a failed raw group never fits (R189). -/
def State.portOk (s : State) (d x y p plane : Nat) : Bool :=
  !s.portDead d x y p plane &&
    (match beyond d (y * 17 + x) p with
     | some (d', site') => !s.routerDead d' site'
     | none => true) &&
    (match outward d x y p with
     | some (.welt w g) => s.weltMode w g != 3
     | _ => true)

/-! ## Tiles of a partition by position (R17, R87) -/

/-- The tile at a position is in the pool and serves a site of the entry's tile set (R87). -/
def State.holdsTile (s : State) (entry : List Byte) (d x y : Nat) : Bool :=
  d < 8 && x < 17 && y < 16 &&
    match s.serves (d * 272 + y * 17 + x) with
    | some w => entryHasSite entry w
    | none => false

/-- The port belongs to the partition of a PARTITIONS entry (R175). -/
def State.portBelongs (s : State) (p : Nat) (entry : List Byte) (d x y port : Nat) : Bool :=
  s.holdsTile entry d x y &&
    match outward d x y port with
    | none =>
      if port = 4 then true else
      let (x', y') := nextSite x y port
      s.holdsTile entry d x' y'
    | some (.welt w g) => s.weltMode w g == 1 && s.get (fWeltOwner_partition (weltDies w).1 (weltEdge w (weltDies w).1) g) == p
    | some _ => false

/-! ## Shapes -/

/-- The site of an offset from an anchor, when it lies on the mesh. -/
def atAnchor (anchor dx dy : Nat) : Option (Nat × Nat) :=
  let x := siteX anchor + dx
  let y := siteY anchor + dy
  if x < 17 && y < 16 then some (x, y) else none

/-- Slots of the current stitch (R173). -/
def State.slots (s : State) : Nat := (s.period - s.slackLen - 200) / 50

/-- The record owns a slot with j mod 4 = 3. Slots that a stitch does not hold own nothing (R176). -/
def State.ownsThird (s : State) (r : SlotRecord) : Bool :=
  (List.range r.count).any fun i => (r.first + i) % 4 == 3 && r.first + i < s.slots

/-- A shape's record at an anchor names a port that exists, is not dead, and owns no forbidden slot (R178). -/
def State.recordLinks (s : State) (anchor : Nat) (r : SlotRecord) : Bool :=
  match atAnchor anchor r.dx r.dy with
  | none => false
  | some (x, y) => portExists r.die x y r.port && !s.portDead r.die x y r.port r.plane &&
      !(isMeshPort r.die x y r.port && s.ownsThird r)

/-- The conditions of R177 on one record but the last. -/
def State.recordFits (s : State) (p : Nat) (entry : List Byte) (anchor : Nat) (r : SlotRecord) : Bool :=
  s.recordLinks anchor r &&
    match atAnchor anchor r.dx r.dy with
    | none => false
    | some (x, y) => s.portOk r.die x y r.port r.plane && s.portBelongs p entry r.die x y r.port

/-- The tiles of a shape at an anchor, in task-rank order, when every one is on the mesh and the partition's (R87). -/
def State.shapeTiles (s : State) (entry : List Byte) (sh : Shape) (anchor : Nat) : Option (List Nat) :=
  let ts := sh.entries.map fun e =>
    match atAnchor anchor e.dx e.dy with
    | some (x, y) => if s.holdsTile entry e.die x y then some (e.die * 272 + y * 17 + x) else none
    | none => none
  if ts.all (·.isSome) then some (ts.filterMap id) else none

/-- The agreement check that a schedule's primary shape fails at commit, 0 for none (R178). -/
def State.schedCheck (s : State) (p : Nat) (entry : List Byte) (sh : Shape) : Nat :=
  let fits := (List.range 272).filter fun a => (s.shapeTiles entry sh a).isSome
  if fits.isEmpty then 0x0F else
  let links := fits.filter fun a => sh.records.all (s.recordLinks a)
  if links.isEmpty then 0x0E else
  let mine (a : Nat) (r : SlotRecord) : Bool :=
    match atAnchor a r.dx r.dy with
    | some (x, y) => s.portBelongs p entry r.die x y r.port
    | none => false
  if links.any fun a => sh.records.all (mine a) then 0 else 0x10

/-! ## Routes of dynamic traffic -/

/-- One hop of a flit: the output port that it takes, its plane, and how many welts it has crossed, which is its
virtual channel (R167). -/
structure Hop where
  die : Nat
  site : Nat
  port : Nat
  plane : Nat
  crossed : Nat
deriving DecidableEq, Repr

/-- The port toward site `t` by dimension order: along the row first (R169). -/
def xyPort (site t : Nat) : Nat :=
  if siteX site < siteX t then 1 else if siteX t < siteX site then 3
  else if siteY site < siteY t then 2 else if siteY t < siteY site then 0 else 4

/-- The element of a rising list nearest to `x`, the lower on a tie. -/
def nearest (x : Nat) (gs : List Nat) : Option Nat :=
  let far (g : Nat) : Nat := (g - x) + (x - g)
  gs.find? fun g => gs.all fun h => far g ≤ far h

/-- The output port that the tables give a flit (R169 to R171). -/
def nextPort (tab : Routes) (mux : Nat → List Nat) (plane die site : Nat) (rest : List Nat) (dstDie dstSite : Nat) :
    Option Nat :=
  match tab.overrides.find? fun o => o.die == die && o.planes.testBit plane && o.router == site && o.dstDie == dstDie &&
      o.first ≤ dstSite && dstSite ≤ o.last with
  | some o => some o.port
  | none =>
    match rest with
    | [] => if die = dstDie then some (xyPort site dstSite) else none
    | w :: _ =>
      let e := weltEdge w die
      let here := if e = 1 || e = 3 then siteY site else siteX site
      (nearest here (mux w)).map fun g =>
        let edge := if e = 1 then g * 17 + 16 else if e = 3 then g * 17 else if e = 2 then 15 * 17 + g else g
        if edge = site then e else xyPort site edge

/-- The hops of a flit, and whether it arrives within the fuel. -/
def walk (tab : Routes) (mux : Nat → List Nat) (plane dstDie dstSite : Nat) :
    Nat → Nat → Nat → List Nat → Nat → List Hop × Bool
  | 0, _, _, _, _ => ([], false)
  | n + 1, die, site, rest, crossed =>
    match nextPort tab mux plane die site rest dstDie dstSite with
    | none => ([], false)
    | some 4 => ([], die == dstDie && site == dstSite)
    | some p =>
      match outward die (siteX site) (siteY site) p, beyond die site p with
      | some (.welt w g), some (d', s') =>
        if !(mux w).contains g || 4 ≤ crossed then ([], false) else
        let rest' := match rest with
          | v :: vs => if v = w then vs else tab.paths.getD (d' * 8 + dstDie) []
          | [] => tab.paths.getD (d' * 8 + dstDie) []
        let r := walk tab mux plane dstDie dstSite n d' s' rest' (crossed + 1)
        (⟨die, site, p, plane, crossed⟩ :: r.1, r.2)
      | none, some (_, s') =>
        let r := walk tab mux plane dstDie dstSite n die s' rest crossed
        (⟨die, site, p, plane, crossed⟩ :: r.1, r.2)
      | _, _ => ([], false)

/-- The hops from one site of the device toward another, and whether they arrive: at most as many as there are sites on
five dies. -/
def trail (tab : Routes) (mux : Nat → List Nat) (plane d s d' s' : Nat) : List Hop × Bool :=
  walk tab mux plane d' s' 1361 d s (if d = d' then [] else tab.paths.getD (d * 8 + d') []) 0

/-- The hops of a route that arrives. -/
def routeOf (tab : Routes) (mux : Nat → List Nat) (plane d s d' s' : Nat) : Option (List Hop) :=
  let r := trail tab mux plane d s d' s'
  if r.2 then some r.1 else none

/-- The hops cross nothing dead. -/
def State.hopsLive (s : State) (d' s' : Nat) (hs : List Hop) : Bool :=
  !s.routerDead d' s' && hs.all fun h => !s.routerDead h.die h.site && !s.linkDead h.die h.site h.port h.plane

/-- Both directions between two sites are joined, on both planes (R171). -/
def State.joined (s : State) (tab : Routes) (mux : Nat → List Nat) (a b : Nat × Nat) : Bool :=
  let one (plane : Nat) (a b : Nat × Nat) : Bool :=
    match routeOf tab mux plane a.1 a.2 b.1 b.2 with
    | some hs => s.hopsLive b.1 b.2 hs
    | none => false
  [0, 1].all fun plane => one plane a b && one plane b a

/-- The attachments of a die: the blocks of R166, and the edge routers of outward ports that R165 names. -/
def attachments (d : Nat) : List Nat :=
  (List.range 64).map sliceSite ++ (List.range 8).map (fun u => 7 * 17 + 2 * u) ++
    (List.range 8).map (fun u => 8 * 17 + 2 * u) ++ [7 * 17 + 16, 8 * 17 + 16] ++
    (List.range 272).filter fun t => (List.range 4).any fun p =>
      match outward d (siteX t) (siteY t) p with
      | some .nothing => false
      | some _ => true
      | none => false

/-- The sites of a die that hold pool tiles under a ROUTES repair map (R17). -/
def poolSites (tab : Routes) (d : Nat) : List Nat :=
  (List.range 272).filter fun t =>
    let c := tab.repair.getD (d * 16 + siteY t) 255
    if siteX t = 16 then c != 255 else siteX t != c

/-- Dependencies whose later channel has none of its own are dropped. -/
def dropSinks (es : List (Hop × Hop)) : List (Hop × Hop) := es.filter fun e => es.any fun f => f.1 == e.2

/-- Consecutive pairs. -/
def chain {α : Type} : List α → List (α × α)
  | x :: y :: r => (x, y) :: chain (y :: r)
  | _ => []

/-- The tables contain no cycle of channel dependencies, on the way of any flit, whether it arrives or not (R171). -/
def acyclic (tab : Routes) (mux : Nat → List Nat) : Bool :=
  let sites := (List.range 8).flatMap fun d => (List.range 272).map fun t => (d, t)
  let es := [0, 1].flatMap fun plane => sites.flatMap fun a => sites.flatMap fun b =>
    chain (trail tab mux plane a.1 a.2 b.1 b.2).1
  ((List.range es.length).foldl (fun l _ => dropSinks l) es).isEmpty

/-- The dies more than four crossings apart over usable welts (R401). -/
def unreachablePair (ok : Nat → Bool) (a b : Nat) : Bool :=
  match weltDistance ok a b with
  | some n => 4 < n
  | none => true

/-- The ROUTES body as it takes effect: a row with a soft repair keeps it (R461). -/
def State.withSoftRepairs (s : State) (r : Routes) : Routes :=
  { r with repair := (List.range 128).map fun row =>
      match mapGet 0 s.awl.softRows row with
      | 0 => r.repair.getD row 255
      | x + 1 => x }

/-- Check ROUTE of a device last (R171, R401): over every pool tile and every attachment. A route over a dead router or link
joins nothing (log entry 45). -/
def State.routesAgree (s : State) (l : DeviceLast) : Bool :=
  let mux := s.lastMux l
  let ok (w : Nat) : Bool := !(mux w).isEmpty
  let tab := s.withSoftRepairs l.routes
  let tiles := (List.range 8).flatMap fun d => (poolSites tab d).map fun t => (d, t)
  let atts := (List.range 8).flatMap fun d => (attachments d).map fun t => (d, t)
  (List.range 64).all (fun i =>
    let path := tab.paths.getD i []
    path.all ok && (!unreachablePair ok (i / 8) (i % 8) || path.isEmpty)) &&
  tiles.all (fun t => atts.all fun a => unreachablePair ok t.1 a.1 || s.joined tab mux t a) && acyclic tab mux

/-! ## The distance table (R179) -/

/-- Router-to-router links of a route, and the welts it crosses. -/
def routeCost (hs : List Hop) : Nat × Nat :=
  let w := (hs.filter fun h => match outward h.die (siteX h.site) (siteY h.site) h.port with
    | some _ => true | none => false).length
  (hs.length - w, w)

/-- The request of site (d, s) to site (d', s') of a die and the response: links in both directions, welts of the
request; `none` where the tables in force no longer carry it. -/
def State.roundTrip (s : State) (d t d' t' : Nat) : Option (Nat × Nat × Nat) :=
  let go (plane d t d' t' : Nat) : Option (Nat × Nat) :=
    match routeOf s.mesh.routes s.muxGroups plane d t d' t' with
    | some hs => if s.hopsLive d' t' hs then some (routeCost hs) else none
    | none => none
  match go 0 d t d' t', go 1 d' t' d t with
  | some (a, w), some (b, _) => some (a, a + b, w)
  | _, _ => none

/-- Entry `t` of site `site` of die `d`. Where the die controller has rewritten the route, its value is open
(Config.routedDist). -/
def State.distEntry (s : State) (d site t : Nat) : Nat :=
  if (s.serves (d * 272 + site)).isNone || 73 < t then 0 else
  let opened := Config.routedDist d (s.get (fMeshStatus_route_epoch d)) site t % 2 ^ 16
  let entry (hit : Nat) (r : Option (Nat × Nat × Nat)) : Nat :=
    match r with
    | some (_, links, w) => (2 * links + 4 + hit) % 4096 + w % 16 * 4096
    | none => opened
  let best (d' : Nat) (sites : List Nat) : Option (Nat × Nat × Nat) :=
    (sites.filterMap fun t' => s.roundTrip d site d' t').foldl (fun b r => match b with
      | none => some r
      | some x => if r.1 < x.1 then some r else some x) none
  if t < 64 then entry 20 (s.roundTrip d site d (sliceSite t))
  else if t < 66 then entry 16 (s.roundTrip d site d ((if t = 64 then 7 else 8) * 17 + 2 * min (siteX site / 2) 7))
  else
    let d' := t - 66
    if s.mesh.unreachable.contains (d * 8 + d') then 0
    else if s.mesh.rewritten.contains (d * 8 + d') || s.mesh.rewritten.contains (d' * 8 + d) then opened
    else entry 20 (best d' ((List.range 64).map sliceSite))

/-- MESH_DISTn of die `d`. -/
def State.distReg (s : State) (d n : Nat) : Nat :=
  ((List.range 4).map fun i => s.distEntry d (n / 19) (4 * (n % 19) + i) * 2 ^ (16 * i)).foldl (· + ·) 0

/-- Sites of a die mutually joined with its die controller, on each plane, over live routers and the plane's live links. -/
def State.liveSites (s : State) (d : Nat) : List Nat :=
  let up (pl a b p : Nat) : Bool := (beyond d a p == some (d, b)) && !s.linkDead d a p pl
  let step (pl : Nat) (rev : Bool) (r : List Nat) : List Nat :=
    (List.range 272).filter fun t => r.contains t || (!s.routerDead d t &&
      r.any fun u => (List.range 4).any fun p => if rev then up pl t u p else up pl u t p)
  let grow (pl : Nat) (rev : Bool) : List Nat := (List.range 272).foldl (fun r _ => step pl rev r) [7 * 17 + 16]
  [(0, true), (1, false), (1, true)].foldl (fun l g => l.filter (grow g.1 g.2).contains) (grow 0 false)

end Sys2Proof.Machine
end

