-- ==== Sys2Proof/Machine/Slice.lean ====
section
/-! DEFINITION. What a home slice does with reads, writes, reductions and fills (R209, R213 to R221), and the
DRAM-controller ALU (R162). -/

namespace Sys2Proof.Machine

/-! ## Responses -/

/-- Agent `a` is declared dead at the homes of die `d` (R250). -/
def State.deadAt (s : State) (d a : Nat) : Bool := a < 17 && (s.get (fDirStatus_dead_mask d)).testBit a

/-- Where the response to a request goes. -/
def replyDst (m : Msg) : Node :=
  if h : m.source < 16 then .half ⟨m.source, h⟩
  else if m.source = 16 then .uci (moduleAt m.srcDie m.srcSite)
  else if h : m.srcDie * 272 + m.srcSite < 2176 then .tile ⟨m.srcDie * 272 + m.srcSite, h⟩
  else .uci 0

/-- A response to request `m` from its home, dropped when the requester is dead (R240). -/
def State.respond (s : State) (m : Msg) (opcode : Nat) (data : List Byte := []) (state : Nat := 0) : State :=
  if s.deadAt (dpaDie m.addr) m.source then s
  else s.send { opcode, srcDie := dpaDie m.addr, srcSite := homeSite m.addr, tag := m.tag, part := m.part, gen := m.gen, addr := m.addr, bulk := m.bulk, unit := m.unit,
                state, requester := m.source, dst := replyDst m, spill := m.spill, data }

/-- The bytes of its line that a read carries away: the line for a half, a 64-byte block for the host (R234), the
sector for any other requester (R209). -/
def readSpan (m : Msg) : Nat × Nat :=
  if m.source < 16 then (0, lineBytes m.bulk)
  else if m.source = 16 then (64 * m.unit, 64)
  else if m.bulk then (256 * m.unit, 256)
  else (64 * m.unit, 64)

/-- Data goes to the requester of `m`, and with a grant Cmp to the host (R239). -/
def State.deliverLine (s : State) (m : Msg) (grant : Nat) (merged : Bool) (line : List Byte) : State :=
  let (off, n) := readSpan m
  let s := s.respond m (if merged then 0x11 else 0x10) (slice line off n) grant
  if m.source = 16 && grant ≠ 0 then s.respond m 0x15 [] grant else s

/-! ## Tracker entries (R213) -/

def State.setTrackers (s : State) (ks : List Tracker) : State := { s with coh := { s.coh with trackers := ks } }
def State.trackerOf (s : State) (line : Nat) : Option Tracker := s.coh.trackers.find? fun k => k.line == line

/-- A request joins the entry that fills its line, or creates one. -/
def State.track (s : State) (line : Nat) (bulk : Bool) (w : List (Msg × Nat)) : State :=
  let d := dpaDie line
  let ch := channelOf line
  match s.trackerOf line with
  | some _ =>
    (s.setTrackers (s.coh.trackers.map fun k => if k.line = line then { k with waiters := k.waiters ++ w } else k)).addTo
      (fL3SlMerge_count d ch) 1
  | none =>
    (s.setTrackers (s.coh.trackers ++ [⟨line, bulk, w⟩])).addTo (fL3SlMiss_count d ch) 1

/-- All bytes of a range are valid in a slice line. -/
def L3Line.has (l : L3Line) (off n : Nat) : Bool := bitsAt l.valid off n == 2 ^ n - 1

/-- A line without a frame as its slice places it. -/
def State.blankLine (s : State) (line : Nat) (bulk pinned held : Bool) : L3Line :=
  ⟨line, bulk, s.ownerOfLine line, 0, 0, 0, List.replicate (lineBytes bulk) 0#8, pinned, held, false⟩

/-- A line that the slice does not hold is asked for: its fill takes a frame, which is then being filled (R217), or bypasses
(R215). -/
def State.missLine (s : State) (line : Nat) (bulk : Bool) (w : List (Msg × Nat)) : State :=
  (match s.placeL3 (s.blankLine line bulk false false) with
    | some s => s
    | none => s.addTo (fL3SlBypass_count (dpaDie line) (channelOf line)) 1).track line bulk w

/-- An accepted write waits in the line's tracker entry behind an operation (R221). -/
def State.writeWaits (s : State) (line : Nat) : Bool :=
  match s.trackerOf line with
  | some k => k.waiters.any fun w => w.1.opcode == 5
  | none => false

/-- A read hits: its bytes are valid in the slice, and no accepted write to the line waits. -/
def State.readHits (s : State) (m : Msg) : Option L3Line :=
  let line := lineOf m.bulk m.addr
  let (off, n) := readSpan m
  (s.l3Line line).bind fun l => if l.has off n && !s.writeWaits line then some l else none

/-- "Read the line" (R239): the slice serves a hit, else the line is filled from DRAM and the request waits. -/
def State.readLine (s : State) (m : Msg) (grant : Nat) : State :=
  let line := lineOf m.bulk m.addr
  match s.readHits m with
  | some l => ((s.putL3 l).addTo (fL3SlHit_count (dpaDie line) (channelOf line)) 1).deliverLine m grant false l.data
  | none =>
    if (s.l3Line line).isSome || (s.trackerOf line).isSome then s.track line m.bulk [(m, grant)]
    else s.missLine line m.bulk [(m, grant)]

/-- The request is in the slice: it hits, joins a fill or creates a tracker entry, and is counted so. -/
def State.countAccess (s : State) (line : Nat) : State :=
  let d := dpaDie line
  let ch := channelOf line
  let filling := (s.trackerOf line).isSome
  if (match s.l3Line line with | some l => l.valid != 0 || !filling | none => false) then s.addTo (fL3SlHit_count d ch) 1
  else if filling then s.addTo (fL3SlMerge_count d ch) 1
  else s.addTo (fL3SlMiss_count d ch) 1

/-- A read of a sector that is served where it stands: it hits, joins a fill, or begins one that no request waits for. -/
def State.countRead (s : State) (h : PageHit) : State :=
  let m : Msg := { opcode := 2, addr := lineOf h.bulk h.addr, bulk := h.bulk,
                   unit := if h.bulk then h.addr % 2048 / 256 else h.addr % 256 / 64 }
  match s.readHits m with
  | some l => (s.putL3 l).addTo (fL3SlHit_count (dpaDie m.addr) (channelOf m.addr)) 1
  | none =>
    if (s.l3Line m.addr).isSome || (s.trackerOf m.addr).isSome then s.track m.addr m.bulk []
    else s.missLine m.addr m.bulk []

/-! ## Writes (R214) -/

/-- A write applies at the slice. -/
def State.applyWbm (s : State) (m : Msg) : State :=
  let (mask, bs) := wbmOverLine m
  s.sliceWrite (lineOf m.bulk m.addr) m.bulk mask bs

/-- A write reaches the slice and is accepted. Behind a reduction or atomic that waits in the line's tracker entry it applies in its
turn (R221), else at once. -/
def State.takeWbm (s : State) (m : Msg) : State :=
  let line := lineOf m.bulk m.addr
  let late := match s.trackerOf line with
    | some k => k.waiters.any fun w => w.1.opcode == 6
    | none => false
  (if late then s.track line m.bulk [(m, 0)] else (s.countAccess line).applyWbm m).respond m 0x12

/-- A host block applies at the slice, and Cmp answers it (R239). -/
def State.applyHwb (s : State) (m : Msg) : State :=
  let line := lineOf m.bulk m.addr
  let n := 64 * m.unit
  s.sliceWrite line m.bulk (m.mask % 2 ^ 64 * 2 ^ n)
    (List.replicate n 0#8 ++ slice m.data 0 64 ++ List.replicate (lineBytes m.bulk - n - 64) 0#8)

/-! ## Reductions and atomics (R220, R221) -/

/-- The value of an element of a line, and the line with the operation applied (R161, R245). -/
def State.aluApply (s : State) (m : Msg) (line : List Byte) : List Byte × List Byte :=
  let n := (elemBytes m.ty).getD 0
  let old := slice line m.mask n
  let mode := if m.round = 7 then s.laneRound m.part else m.round
  let v := elementOp m.fn m.ty mode (s.satMode m.part) (leNat old) m.operand.toNat m.compare.toNat
  (old, (line.take m.mask ++ toLE n v ++ line.drop (m.mask + n)).take line.length)

/-- AtRsp: the old value for an atomic, none for a reduction (R245). -/
def State.atRsp (s : State) (m : Msg) (old : List Byte) : State := s.respond m 0x13 (if m.reduction then [] else old)

/-- The operation applies to a resident line whose element is valid. -/
def State.applyAtLine (s : State) (m : Msg) (l : L3Line) : State :=
  let (old, data) := s.aluApply m l.data
  let n := (elemBytes m.ty).getD 0
  (s.updateL3 { l with data, held := false, dirty := l.dirty ||| ((2 ^ n - 1) * 2 ^ m.mask) }).atRsp m old

/-- The slice writes back the dirty bytes of a line and invalidates it, before an operation on it is forwarded. A
pinned frame stays the line's own, with nothing valid. -/
def State.flushL3 (s : State) (l : L3Line) : State :=
  let s := if l.pinned then s.putL3 { l with valid := 0, dirty := 0, held := false }
    else s.setL3 (s.coh.l3.filter fun x => x.line != l.line)
  if l.dirty = 0 then s else s.dramPut l.line l.dirty l.data

def State.setAluQ (s : State) (q : List AluReq) : State := { s with coh := { s.coh with aluQ := q } }

/-- The slice forwards an operation to the ALU of the DRAM controller. -/
def State.forwardAt (s : State) (m : Msg) : State :=
  let line := lineOf m.bulk m.addr
  let s := match s.l3Line line with | some l => s.flushL3 l | none => s
  (s.setAluQ (s.coh.aluQ ++ [⟨dpaDie line, channelOf line, m⟩])).addTo
    (fL3SlMemred_count (dpaDie line) (channelOf line)) 1

/-- Fewer than four frames are held in each set of the line. -/
def State.mayHold (s : State) (line : Nat) (bulk : Bool) : Bool :=
  (l3Sets line bulk).all fun x =>
    (((s.sliceLines line).filter fun l => l.held && l.line != line && (l3Sets l.line l.bulk).contains x).length) < 4

/-- A resident line becomes held, RAW in a frame of its own (R212), or finds none. -/
def State.holdL3 (s : State) (l : L3Line) : Option State :=
  if (s.mates l).isEmpty then some (s.putL3 { l with held := true })
  else (s.setL3 (s.coh.l3.filter fun x => x.line != l.line)).placeL3 { l with held := true }

/-- An operation reaches the slice: the first case of R220 that applies. `true` says that it was forwarded. -/
def State.takeAtR (s : State) (m : Msg) : State × Bool :=
  let line := lineOf m.bulk m.addr
  let d := dpaDie line
  let ch := channelOf line
  let atMem := match s.pageOf line with | some e => e.atomics | none => false
  if (s.trackerOf line).isSome then (s.track line m.bulk [(m, 0)], false)
  else if atMem || !s.mayHold line m.bulk then (s.forwardAt m, true)
  else match s.l3Line line with
  | some l =>
    match s.holdL3 l with
    | none => (s.forwardAt m, true)
    | some s' =>
      let l := (s'.l3Line line).getD l
      if l.has m.mask ((elemBytes m.ty).getD 0) then ((s'.addTo (fL3SlHit_count d ch) 1).applyAtLine m l, false)
      else (s'.track line m.bulk [(m, 0)], false)
  | none =>
    match s.placeL3 (s.blankLine line m.bulk false true) with
    | some s' => (s'.track line m.bulk [(m, 0)], false)
    | none => (s.forwardAt m, true)

/-! ## Fills (R213, R221) -/

/-- The requests that waited for a fill are served in arrival order. Those behind an operation that is forwarded wait
for another fill, behind it. -/
def State.serveFill (s : State) (line : Nat) (bulk merged : Bool) (data : List Byte) : List (Msg × Nat) → State
  | [] => s
  | (m, g) :: ws =>
    let now := match s.l3Line line with | some l => mergeBytes l.valid l.data data | none => data
    if m.opcode = 5 then (s.applyWbm m).serveFill line bulk merged data ws
    else if m.opcode = 6 then
      let r := s.takeAtR m
      if r.2 && !ws.isEmpty then r.1.track line bulk ws else r.1.serveFill line bulk merged data ws
    else (s.deliverLine m g merged now).serveFill line bulk merged data ws

/-- What a requester is to a fill, for the log of uncorrectable units (R300): a copy that reads its source is known by its
transaction. -/
def State.detectorOf (s : State) (m : Msg) : Nat :=
  let copies (w : Purpose) : Bool := match w with | .copyRead .. | .late .. => true | _ => false
  let loads (w : Purpose) : Bool := match w with | .image _ => true | _ => false
  let mine (f : Purpose → Bool) : Bool := s.coh.txs.any fun x =>
    x.die == m.srcDie && x.tag == m.tag && x.agent == m.source && x.wants.any f
  if m.opcode = 6 then 2 else if m.source = 16 then 3 else if mine copies then 1 else if mine loads then 6 else 0

/-- The read of a scheduler, whose failure is its ring's (R316). -/
def readsRing (m : Msg) : Bool := m.opcode == 2 && m.source == 31 && m.srcSite == 7 * 17 + 16

/-- Every merged requester receives Err, and its partition a memory fault (R288), but for a ring that its scheduler reads
(R316). Writes apply. -/
def State.failFill (s : State) (line ue : Nat) : List (Msg × Nat) → State
  | [] => s
  | (m, _) :: ws =>
    if m.opcode = 5 then (s.applyWbm m).failFill line ue ws
    else
      let s := s.respond m 0x14
      let p := if m.source = 16 then s.ownerOfLine line else m.part
      (if readsRing m then s else s.memoryFault p (ue * 64)).failFill line ue ws

/-- A fill from DRAM completes: its units are checked (R286, R287), the line's frame holds it, if it has one, and the
waiting requests are served. -/
def State.fill (s : State) (line : Nat) (bulk : Bool) (found : List EccFound) : State :=
  match s.trackerOf line with
  | none => s
  | some k =>
    if s.coh.aluQ.any fun q => lineOf q.msg.bulk q.msg.addr == line then s else
    let n := lineBytes bulk
    let s := s.applyFoundIn line n found
    let s := s.setTrackers (s.coh.trackers.filter fun x => x.line != line)
    match s.ueIn line n with
    | u :: us =>
      let det := ((k.waiters.find? fun w => w.1.opcode != 5).map fun w => s.detectorOf w.1).getD 0
      let s := (u :: us).foldl (fun s u => s.logUe u det) s
      let s := match s.l3Line line with
        | some l =>
          if l.valid = 0 && !l.pinned then s.setL3 (s.coh.l3.filter fun x => x.line != line)
          else if l.held then s.putL3 { l with held := false } else s
        | none => s
      let s := if k.waiters.isEmpty then s.memoryFault (s.ownerOfLine line) (u * 64) else s
      s.failFill line u k.waiters
    | [] =>
      let data := s.filled line bulk
      let s := match s.l3Line line with
        | some l => s.updateL3 { l with valid := fullMask bulk, data }
        | none => s
      s.serveFill line bulk (1 < (k.waiters.filter fun w => w.1.opcode != 5 && w.1.opcode != 6).length) data k.waiters

/-! ## The DRAM-controller ALU (R162) -/

/-- A forwarded operation applies to its sector in DRAM, unless a unit of it is uncorrectable (R163, R288). -/
def State.aluMem (s : State) (m : Msg) (found : List EccFound) : State :=
  let line := lineOf m.bulk m.addr
  let a := line + alignDown m.mask 64
  let s := s.applyFoundIn a 64 found
  match s.ueIn a 64 with
  | u :: _ => ((s.logUe u 2).respond m 0x14).memoryFault m.part (u * 64)
  | [] =>
    let n := (elemBytes m.ty).getD 0
    let (old, bs) := s.aluApply { m with mask := m.mask % 64 } (s.dramBytes a 64)
    (s.dramUnitWrite a ((2 ^ n - 1) * 2 ^ (m.mask % 64)) bs).atRsp m old

/-- Masked writes at the front of a controller's queue go to DRAM. -/
def State.drainWrites (s : State) (d ch : Nat) : List AluReq → State
  | [] => s
  | q :: qs =>
    if q.die = d && q.ch = ch then
      if q.msg.opcode = 5 then
        ((s.setAluQ (s.coh.aluQ.erase q)).dramWrite q.msg.addr q.msg.mask q.msg.data).drainWrites d ch qs
      else s
    else s.drainWrites d ch qs

end Sys2Proof.Machine
end

