-- ==== Sys2Proof/Machine/Home.lean ====
section
/-! DEFINITION. The home of a line: its directory entry, the requests and responses that reach it, eviction, forwarding
and dead agents (R225 to R253). -/

namespace Sys2Proof.Machine

/-! ## The directory (R227 to R229) -/

def State.setDir (s : State) (es : List DirEnt) : State := { s with coh := { s.coh with dir := es } }
def State.setHomeWait (s : State) (ms : List Msg) : State := { s with coh := { s.coh with homeWait := ms } }

/-- The set of a line, over the slices of every die. -/
def dirKey (line : Nat) (bulk : Bool) : Nat :=
  (dpaDie line * 64 + channelOf line) * 1024 + dirSet bulk (dpaOff line)

def State.entry (s : State) (line : Nat) : Option DirEnt := s.coh.dir.find? fun e => e.line == line
def State.dirSetOf (s : State) (line : Nat) (bulk : Bool) : List DirEnt :=
  s.coh.dir.filter fun e => dirKey e.line e.bulk == dirKey line bulk

/-- The entry is written, and is the most recently used. -/
def State.putEnt (s : State) (e : DirEnt) : State := s.setDir (e :: s.coh.dir.filter fun x => x.line != e.line)
def State.freeEnt (s : State) (line : Nat) : State := s.setDir (s.coh.dir.filter fun x => x.line != line)

/-- A new entry in the lowest free way of its set. -/
def State.newEnt (s : State) (line : Nat) (bulk : Bool) (st : DirState) (presence : Nat) : State :=
  let es := s.dirSetOf line bulk
  let w := ((List.range 16).find? fun w => es.all fun e => e.way != w).getD 0
  s.putEnt { line, bulk, way := w, state := st, presence }

/-- A presence vector with agent `a` added, unless `a` is dead (R250). -/
def State.withAgent (s : State) (line v a : Nat) : Nat := if a < 17 && !s.deadAt (dpaDie line) a then setBit v a else v

/-- The entry with its new state, or none where no agent is left. -/
def State.settle (s : State) (e : DirEnt) (st : DirState) (presence : Nat) : State :=
  if presence = 0 then s.freeEnt e.line
  else s.putEnt { e with state := st, presence, pending := .none, req := none, hostExcl := false, owedHalves := 0, owedBlocks := 0,
                         retainedS := 0 }

def halvesIn (v : Nat) : List Nat := (List.range 16).filter fun n => v.testBit n

/-! ## Messages of the home -/

/-- What the header of every message holds that a home sends of its own for a line (R231): its router, the partition of the line's
page, and that partition's generation. -/
def State.homeSends (s : State) (line : Nat) : Msg :=
  let p := s.ownerOfLine line
  { opcode := 0, srcDie := dpaDie line, srcSite := homeSite line, part := p, gen := s.generation p, addr := line }

/-- Inv goes to half `n` (R230). -/
def State.sendInv (s : State) (line : Nat) (bulk : Bool) (n : Nat) : State :=
  if h : n < 16 then
    (s.send { s.homeSends line with opcode := 0x18, bulk, requester := n, dst := .half ⟨n, h⟩ }).addTo
      (fDirCntInv_count (dpaDie line)) 1
  else s

/-- BInv or BDown for one block goes to the host (R234). -/
def State.sendBack (s : State) (down : Bool) (line : Nat) (bulk : Bool) (block : Nat) : State :=
  (s.send { s.homeSends line with opcode := if down then 0x1B else 0x1A, bulk, unit := block, dst := .uci (lineModule line) }).addTo
    (fDirCntBisnp_count (dpaDie line)) 1

/-- The entry begins to collect: the snoops leave, and the acknowledgements are owed (R238). -/
def State.collect (s : State) (e : DirEnt) (halves : List Nat) (host down : Bool) (p : Pending) (req : Option Msg)
    (upgClear : Bool := false) : State :=
  let blocks := if host then lineBlocks e.bulk else 0
  let s := halves.foldl (fun s n => s.sendInv e.line e.bulk n) s
  let s := (List.range blocks).foldl (fun s b => s.sendBack down e.line e.bulk b) s
  s.putEnt { e with
    state := .c, pending := p, req, hostExcl := e.state == .h, owedHalves := (halves.map (2 ^ ·)).foldl (· + ·) 0,
    owedBlocks := 2 ^ blocks - 1, retainedS := 0, upgClear }

/-- The other agents that a request must invalidate: halves, and whether the host (R238). -/
def others (e : DirEnt) (source : Nat) : List Nat × Bool :=
  ((halvesIn e.presence).filter (· != source), e.presence.testBit 16 && source != 16)

/-- The welt crossings of the die path in force between two dies (R244). -/
def State.crossings (s : State) (a b : Nat) : Nat :=
  if a = b then 0 else (s.mesh.routes.paths.getD (a * 8 + b) []).length

/-- Fwd goes to the half of the vector nearest to the requester, and its bit is set (R244). -/
def State.forward (s : State) (e : DirEnt) (m : Msg) : State :=
  let hs := halvesIn e.presence
  let best := hs.foldl (fun (b : Nat × Nat) n =>
    let k := s.crossings (m.source / 2) (n / 2)
    if k < b.2 then (n, k) else b) (0, 100)
  if h : best.1 < 16 then
    let s := (s.send { m with opcode := 0x19, source := 31, srcDie := dpaDie e.line, srcSite := homeSite e.line, requester := m.source, dst := .half ⟨best.1, h⟩ }).addTo
      (fDirCntFwd_count (dpaDie e.line)) 1
    s.putEnt { e with state := .f, presence := s.withAgent e.line e.presence m.source, req := some m, target := best.1 }
  else s

/-- Cmp with a grant and no data. -/
def State.cmpOnly (s : State) (m : Msg) (grant : Nat) : State := s.respond m 0x15 [] grant

def State.countProto (s : State) (line : Nat) : State := s.addTo (fDirCntProto_count (dpaDie line)) 1

/-- The partition of a dead host's line faults, and the line is logged: vector 4 fires (R240, R252, R253, R320). -/
def State.lostLine (s : State) (e : DirEnt) : State :=
  let d := dpaDie e.line
  let p := s.ownerOfLine e.line
  let head := s.get (fDirLostHead_count d)
  let used := (head + 2 ^ 32 - s.get (fDirLostTail_count d)) % 2 ^ 32
  let dropped := s.get (fDirLostStatus_dropped d)
  let s := if used = 4096 then s.bump (fDirLostStatus_dropped d) 1
    else
      let i := d * 4096 + head % 4096
      (s.setAll
        [(fFltLostA_address i, e.line), (fFltLostA_bulk i, if e.bulk then 1 else 0), (fFltLostA_partition i, p % 16),
         (fFltLostA_no_partition i, if p = 16 then 1 else 0), (fFltLostA_agent i, 16), (fFltLostA_valid i, 1),
         (fFltLostB_sequence i, head + dropped), (fFltLostB_stitch i, s.stitch), (fDirLostHead_count d, head + 1),
         (fDirLostStatus_full d, if used + 1 = 4096 then 1 else 0)]).fire 0 4
  s.faultOwner p { cause := 6, unitKind := 4, die := d, unit := channelOf e.line, address := e.line }

/-! ## Completion (R241) -/

/-- The pending action of an entry that owes nothing more. -/
def State.completeEnt (s : State) (e : DirEnt) : State :=
  let m := e.req.getD { opcode := 0, addr := e.line, bulk := e.bulk }
  let kept := e.presence.testBit 16 && e.retainedS == 2 ^ lineBlocks e.bulk - 1
  let host := if kept then 2 ^ 16 else 0
  match e.pending with
  | .none => s.settle e .s e.presence
  | .rdS => (s.settle e .s (s.withAgent e.line host m.source)).readLine m 0
  | .rdN => (s.settle e .s host).readLine m 0
  | .rdX => (s.settle e .h (s.withAgent e.line 0 m.source)).readLine m 2
  | .upg =>
    let s := s.settle e .h (s.withAgent e.line 0 m.source)
    if e.upgClear then s.readLine m 2 else s.cmpOnly m 2
  | .wbm => (s.freeEnt e.line).takeWbm m
  | .atR => ((s.freeEnt e.line).takeAtR m).1
  | .evict => (s.freeEnt e.line).addTo (fDirCntEvict_count (dpaDie e.line)) 1

/-- An entry in C completes once it owes nothing. -/
def State.checkOwed (s : State) (e : DirEnt) : State :=
  if e.owedHalves = 0 && e.owedBlocks = 0 then s.completeEnt e else s.putEnt e

/-- The entry collects from these agents, or completes at once where no message is owed. -/
def State.collectOr (s : State) (e : DirEnt) (halves : List Nat) (host down : Bool) (p : Pending) (req : Option Msg)
    (upgClear : Bool := false) : State :=
  if halves.isEmpty && !host then s.completeEnt { e with pending := p, req, upgClear, retainedS := 0 }
  else s.collect e halves host down p req upgClear

/-! ## Eviction (R229) -/

/-- The victim of a full set: S before H, then the fewest presence bits, then the least recently used. -/
def victimOf (es : List DirEnt) : Option DirEnt :=
  let score (e : DirEnt) : Nat := (if e.state = .s then 0 else 100) + popCount 17 e.presence
  (es.reverse.filter fun e => e.state == .s || e.state == .h).foldl (fun (b : Option DirEnt) e =>
    match b with
    | none => some e
    | some v => if score e < score v then some e else b) none

/-- A way of the line's set is free, or its victim is evicted; one eviction for each line that waits. -/
def State.roomFor (s : State) (line : Nat) (bulk : Bool) : Bool × State :=
  let es := s.dirSetOf line bulk
  if es.length < 16 then (true, s)
  else
    let waiting := (s.coh.homeWait.filter fun m => dirKey (lineOf m.bulk m.addr) m.bulk == dirKey line bulk &&
      lineOf m.bulk m.addr != line && (s.entry (lineOf m.bulk m.addr)).isNone).map fun m => lineOf m.bulk m.addr
    let evicting := (es.filter fun e => e.pending == .evict).length
    if waiting.eraseDups.length < evicting then (false, s)
    else match victimOf es with
      | none => (false, s)
      | some v =>
        let s := s.collectOr v (halvesIn v.presence) (v.presence.testBit 16) false .evict none
        (decide ((s.dirSetOf line bulk).length < 16), s)

/-! ## Requests (R239) -/

/-- The table of R239 for a request that need not wait, by opcode, with the line's entry if it has one. -/
def State.actOn (s : State) (m : Msg) : Option DirEnt → State
  | none =>
    let line := lineOf m.bulk m.addr
    match m.opcode with
    | 1 => if (s.withAgent line 0 m.source) = 0 then s.readLine m 0
      else (s.newEnt line m.bulk .s (s.withAgent line 0 m.source)).readLine m (if m.source = 16 then 1 else 0)
    | 2 => s.readLine m 0
    | 3 | 4 => if (s.withAgent line 0 m.source) = 0 then s
      else (s.newEnt line m.bulk .h (s.withAgent line 0 m.source)).readLine m 2
    | 5 => s.takeWbm m
    | 6 => (s.takeAtR m).1
    | _ => s
  | some e =>
    let (halves, host) := others e m.source
    let grantS := if m.source = 16 then 1 else 0
    if e.state = .h then
      match m.opcode with
      | 1 => if m.source = 16 then (s.settle e .s e.presence).readLine m 1
        else s.collectOr e [] true true .rdS (some m)
      | 2 => s.collectOr e [] true true .rdN (some m)
      | 3 => (s.putEnt e).readLine m 2
      | 4 => (s.putEnt e).cmpOnly m 2
      | 5 => s.collectOr e [] true false .wbm (some m)
      | 6 => s.collectOr e [] true false .atR (some m)
      | _ => s
    else
      match m.opcode with
      | 1 =>
        if m.source < 16 && (s.l3Line e.line).isNone && (s.trackerOf e.line).isNone && !(halvesIn e.presence).isEmpty then
          s.forward e m
        else (s.putEnt { e with presence := s.withAgent e.line e.presence m.source }).readLine m grantS
      | 2 => (s.putEnt e).readLine m 0
      | 3 => if s.deadAt (dpaDie e.line) m.source then s else s.collectOr e halves host false .rdX (some m)
      | 4 => if s.deadAt (dpaDie e.line) m.source then s
        else s.collectOr e halves host false .upg (some m) (!e.presence.testBit 16)
      | 5 => s.collectOr e halves host false .wbm (some m)
      | 6 => s.collectOr e halves host false .atR (some m)
      | _ => s

/-- The request creates an entry for a line that has none. -/
def createsEntry (op : Nat) : Bool := op == 1 || op == 3 || op == 4

/-- What the slice of a line tracks: fills, and requests that wait for acknowledgements in its directory (R213). -/
def State.tracked (s : State) (line : Nat) : Nat :=
  let mine (a : Nat) : Bool := dpaDie a == dpaDie line && channelOf a == channelOf line
  (s.coh.trackers.filter fun k => mine k.line).length +
    (s.coh.dir.filter fun e => (e.state == .c || e.state == .f) && e.req.isSome && mine e.line).length

/-- The reductions and atomics that the slice of a line queues (R220). -/
def State.queuedOps (s : State) (line : Nat) : Nat :=
  let mine (a : Nat) : Bool := dpaDie a == dpaDie line && channelOf a == channelOf line
  (((s.coh.trackers.filter fun k => mine k.line).flatMap fun k => k.waiters.filter fun w => w.1.opcode == 6).length) +
    (s.coh.aluQ.filter fun q => q.msg.opcode == 6 && mine q.msg.addr).length

/-- The request waits for a credit: it needs an entry of a tracker that holds 192, or a place in a queue of 256 operations
(R213, R220). -/
def State.noCredit (s : State) (m : Msg) : Bool :=
  let line := lineOf m.bulk m.addr
  let free := (s.trackerOf line).isSome || (m.opcode ≤ 2 && (s.readHits m).isSome)
  (!free && 192 ≤ s.tracked line) || (m.opcode == 6 && 256 ≤ s.queuedOps line)

/-- A request acts, or answers that it must wait: for a credit, for its line in C or F, or for a way (R213, R229, R232). -/
def State.tryServe (s : State) (m : Msg) : Bool × State :=
  if s.noCredit m then (false, s) else
  match s.entry (lineOf m.bulk m.addr) with
  | some e => if e.state = .c || e.state = .f then (false, s) else (true, s.actOn m (some e))
  | none =>
    if createsEntry m.opcode then
      let r := s.roomFor (lineOf m.bulk m.addr) m.bulk
      if r.1 then (true, r.2.actOn m none) else r
    else (true, s.actOn m none)

/-- One pass over the waiting requests in arrival order; no request overtakes an earlier one to its line. -/
def State.servePass (s : State) (blocked : List Nat) : List Msg → State
  | [] => s
  | m :: ms =>
    let line := lineOf m.bulk m.addr
    if blocked.contains line then s.servePass blocked ms
    else
      let r := s.tryServe m
      if r.1 then (r.2.setHomeWait (r.2.coh.homeWait.erase m)).servePass blocked ms
      else r.2.servePass (line :: blocked) ms

/-- Waiting requests are served until none can be. -/
def State.serveWaiting (s : State) : Nat → State
  | 0 => s
  | n + 1 =>
    let s' := s.servePass [] s.coh.homeWait
    if s'.coh.homeWait.length < s.coh.homeWait.length then s'.serveWaiting n else s'

def State.serveHome (s : State) : State := s.serveWaiting (s.coh.homeWait.length + 1)

/-- RdS, RdN, RdX, Upg, WBM or AtR reaches its home (R232, R239). A reader that is no agent keeps no copy: its RdS is an
RdN. -/
def State.takeRequest (s : State) (m : Msg) : State :=
  let m := if m.opcode = 1 && 16 < m.source then { m with opcode := 2 } else m
  let line := lineOf m.bulk m.addr
  let behind := s.coh.homeWait.any fun w => lineOf w.bulk w.addr == line
  let r := if behind then (false, s) else s.tryServe m
  if r.1 then r.2.serveHome
  else
    let transient : Bool := match r.2.entry line with | some e => e.state == .c || e.state == .f | none => false
    let s := if transient then r.2.addTo (fDirCntWait_count (dpaDie line)) 1 else r.2
    s.setHomeWait (s.coh.homeWait ++ [m])

/-! ## Fills and forwarded operations -/

/-- SLICE_FILL (R213): the entry is free for a request that waits. -/
def execSliceFill (_ : Die) (line : Nat) (bulk : Bool) (found : List EccFound) (s : State) :
    Host.Outcome State Fault Refusal := .next (s.fill line bulk found).serveHome

/-- DRAM_ALU_OP (R162): the oldest operation of a controller applies, and the writes behind it follow. -/
def execDramAluOp (d : Die) (ch : Fin 64) (found : List EccFound) (s : State) : Host.Outcome State Fault Refusal :=
  let s := s.drainWrites d ch s.coh.aluQ
  match s.coh.aluQ.find? fun q => q.die == d.val && q.ch == ch.val with
  | none => .next s.serveHome
  | some q =>
    let s := (s.setAluQ (s.coh.aluQ.erase q)).aluMem q.msg found
    .next (s.drainWrites d ch s.coh.aluQ).serveHome

/-! ## HWB and HEv -/

/-- HWB (R239): consumed in every state. -/
def State.takeHwb (s : State) (m : Msg) : State :=
  let line := lineOf m.bulk m.addr
  match s.entry line with
  | some e => if e.state = .h || e.state = .c then (s.applyHwb m).cmpOnly m 0 else (s.countProto line).cmpOnly m 0
  | none => (s.countProto line).cmpOnly m 0

/-- HEv (R239): consumed in every state. -/
def State.takeHev (s : State) (m : Msg) : State :=
  let line := lineOf m.bulk m.addr
  let s := s.cmpOnly m 0
  match s.entry line with
  | none => s
  | some e =>
    match e.state with
    | .s => (s.settle e .s (clearBit e.presence 16)).serveHome
    | .h => (s.freeEnt line).serveHome
    | _ => s.putEnt { e with presence := clearBit e.presence 16 }

/-! ## Responses (R240) -/

/-- A message that the home discards: within 100 µs of a route loss a duplicate is not counted (R391). -/
def State.discard (s : State) (line : Nat) : State := if s.coh.duplicates then s else s.countProto line

/-- IAck from half `n`. -/
def State.takeIAck (s : State) (line n : Nat) : State :=
  match s.entry line with
  | some e =>
    if e.state = .c && e.owedHalves.testBit n then
      (s.checkOwed { e with owedHalves := clearBit e.owedHalves n, presence := clearBit e.presence n }).serveHome
    else s.discard line
  | none => s.discard line

/-- BIRsp of a block with a retained state (R234): after BInv every block counts as retained I. -/
def State.takeBIRsp (s : State) (line block retained : Nat) : State :=
  match s.entry line with
  | some e =>
    if e.state = .c && e.owedBlocks.testBit block then
      let down := e.pending == .rdS || e.pending == .rdN
      let s := if retained = 2 || (retained = 1 && !down) then s.countProto line else s
      let keep := down && retained ≠ 0
      let e := { e with owedBlocks := clearBit e.owedBlocks block,
                        retainedS := if keep then setBit e.retainedS block else e.retainedS }
      let e := if e.owedBlocks = 0 && e.retainedS ≠ 2 ^ lineBlocks e.bulk - 1 then
          { e with presence := clearBit e.presence 16 } else e
      (s.checkOwed e).serveHome
    else s.discard line
  | none => s.discard line

/-- FwdAck: the entry returns to S. -/
def State.takeFwdAck (s : State) (line n : Nat) : State :=
  match s.entry line with
  | some e => if e.state = .f && e.target = n then (s.settle e .s e.presence).serveHome else s.discard line
  | none => s.discard line

/-- The Fwd was not served: the home reads the line for the requester. -/
def State.fwdMissed (s : State) (e : DirEnt) : State :=
  let s' := s.settle e .s e.presence
  (match e.req with | some m => s'.readLine m 0 | none => s').serveHome

/-- FwdMiss from half `n`. -/
def State.takeFwdMiss (s : State) (line n : Nat) : State :=
  let s := s.addTo (fDirCntFwdmiss_count (dpaDie line)) 1
  match s.entry line with
  | some e => if e.state = .f && e.target = n then s.fwdMissed e else s.discard line
  | none => s.discard line

/-! ## Dead agents (R240, R250) -/

/-- R240's last row on one entry. -/
def State.deadEnt (s : State) (k : Nat) (e : DirEnt) : State :=
  match e.state with
  | .s => s.settle e .s (clearBit e.presence k)
  | .h => if k = 16 then (s.freeEnt e.line).lostLine e else s
  | .c =>
    let lost := k == 16 && e.hostExcl && e.owedBlocks != 0
    let s := if lost then s.lostLine e else s
    match s.entry e.line with
    | none => s
    | some e =>
      s.checkOwed { e with
        presence := clearBit e.presence k, owedHalves := clearBit e.owedHalves k,
        owedBlocks := if k = 16 then 0 else e.owedBlocks }
  | .f =>
    if e.target = k then s.fwdMissed { e with presence := clearBit e.presence k }
    else if (e.req.map fun m => m.source) = some k then s.settle e .s (clearBit e.presence k)
    else s.putEnt { e with presence := clearBit e.presence k }

/-- A declaration reaches the homes of die `d`: the dead bit is set and the sweep applies R240 to every entry of the
agent. The sweep is shown as running until SWEEP_DONE. -/
def State.declareAt (s : State) (d k : Nat) : State :=
  let s := s.setBitOf (fDirStatus_dead_mask d) k true
  let s := s.set (fDirStatus_sweep d) 1
  let mine := (s.coh.dir.filter fun e => dpaDie e.line == d && e.presence.testBit k ||
    dpaDie e.line == d && (e.state == .c || e.state == .f)).map fun e => e.line
  (mine.foldl (fun s line => match s.entry line with | some e => s.deadEnt k e | none => s) s).serveHome

/-- What the directory keeps of the lines that satisfy `at_` across a recovery of their die or slice (R251, R395):
requests waiting or pending are dropped. -/
def State.dirRecover (s : State) (at_ : Nat → Bool) : State :=
  let fix (e : DirEnt) : Option DirEnt :=
    if !at_ e.line then some e else
    let back (st : DirState) (v : Nat) : Option DirEnt :=
      if v = 0 then none else
        some { e with state := st, presence := v, pending := .none, req := none, owedHalves := 0, owedBlocks := 0,
                      retainedS := 0, hostExcl := false }
    match e.state with
    | .c => if e.hostExcl && e.owedBlocks ≠ 0 then back .h (2 ^ 16) else back .s e.presence
    | .f => back .s e.presence
    | _ => some e
  (s.setDir (s.coh.dir.filterMap fix)).setHomeWait (s.coh.homeWait.filter fun m => !at_ (lineOf m.bulk m.addr))

/-! ## Registers of the directory -/

/-- LOST_TAIL_WRITE (R253). -/
def execLostTailWrite (d : Die) (v : Word) (s : State) : Host.Outcome State Fault Refusal :=
  .next (s.consume (fDirLostHead_count d) (fDirLostTail_count d) (fDirLostStatus_full d) 4096 v.toNat)

def DirState.code : DirState → Nat
  | .s => 0 | .h => 1 | .c => 2 | .f => 3
def Pending.code : Pending → Nat
  | .none => 0 | .rdS => 1 | .rdN => 2 | .rdX => 3 | .upg => 4 | .wbm => 5 | .atR => 6 | .evict => 7

/-- A directory entry in the layout of R228. -/
def DirEnt.bits (e : DirEnt) : Nat :=
  1 + 2 * e.state.code + 2 ^ 3 * (if e.bulk then 1 else 0) + 2 ^ 4 * (e.presence % 2 ^ 17) +
    2 ^ 21 * dirTag (dpaOff e.line) + 2 ^ 42 * (if e.hostExcl && (e.state == .c || e.state == .f) then 1 else 0) +
    2 ^ 43 * (if e.state = .c then popCount 16 e.owedHalves + popCount 32 e.owedBlocks else 0) +
    2 ^ 49 * e.pending.code

/-- DIR_PEEK (R255): the entry at the slice, set and way written. -/
def State.dirPeek (s : State) (d x : Nat) : State :=
  let sl := bitsAt x 0 6
  let set := bitsAt x 6 10
  let way := bitsAt x 16 4
  let s := s.setAll [(fDirPeekCtrl_slice d, sl), (fDirPeekCtrl_set d, set), (fDirPeekCtrl_way d, way)]
  let e := s.coh.dir.find? fun e => dirKey e.line e.bulk == (d * 64 + sl) * 1024 + set && e.way == way
  s.set (fDirPeekData_entry d) ((e.map DirEnt.bits).getD 0)

/-- DIR_PEEK (R255). -/
def execDirPeek (d : Die) (v : Word) (s : State) : Host.Outcome State Fault Refusal := .next (s.dirPeek d v.toNat)

/-- The DIR_CNT counters of die `d` clear (R255). -/
def State.clearDir (s : State) (d : Nat) : State :=
  s.setAll [(fDirCntEvict_count d, 0), (fDirCntInv_count d, 0), (fDirCntBisnp_count d, 0), (fDirCntFwd_count d, 0),
    (fDirCntFwdmiss_count d, 0), (fDirCntProto_count d, 0), (fDirCntStale_count d, 0), (fDirCntWait_count d, 0)]

/-- DIR_CNT_CLEAR (R255). -/
def execDirCntClear (d : Die) (s : State) : Host.Outcome State Fault Refusal := .next (s.clearDir d)

/-- The host's dead bit clears at every home once the link is up and every home has reported its sweep (R250, R305). -/
def State.reviveHost (s : State) : State :=
  if s.flag fUciStatus_link_up && (List.range 8).all fun h => s.get (fDirStatus_sweep h) == 0 then
    (List.range 8).foldl (fun s h => s.setBitOf (fDirStatus_dead_mask h) 16 false) s
  else s

/-- SWEEP_DONE (R250). -/
def execSweepDone (d : Die) (s : State) : Host.Outcome State Fault Refusal :=
  .next (s.set (fDirStatus_sweep d) 0).reviveHost

end Sys2Proof.Machine
end

