-- ==== Sys2Proof/Machine/Rings.lean ====
section
/-! DEFINITION. How the scheduler reads the rings of a partition at a tick: headers, descriptors, their checks, and the
candidates that they give (R312 to R316, R370). -/

namespace Sys2Proof.Machine

/-! ## Reads at the point of coherence (R314, R315) -/

/-- A sector whose home can be read at once: no host or collecting entry, no uncorrectable unit, no operation or reset in
its way. -/
def State.readable (s : State) (h : PageHit) : Bool :=
  let line := lineOf h.bulk h.addr
  !h.spill && (match s.entry line with | some e => e.state == .s | none => true) &&
    (s.ueIn (alignDown h.addr 64) 64).isEmpty && !s.dram.latent.any (fun e => e.1 == h.addr / 64) && !(s.coh.aluQ.any fun q => lineOf q.msg.bulk q.msg.addr == line) &&
    !(s.flt.resets.any fun r => r.die == dpaDie line && r.unit == channelOf line) && !s.recovering (dpaDie line)

/-- A sector of a ring: already read for this tick, read at once, or asked for, unless it has been. The number of a
completion ring is 16 more than its own. -/
def State.ringSector (s : State) (p k pa : Nat) : Option (List Byte) × State :=
  match (s.partSt p).fetched.find? fun e => e.1 == pa with
  | some e => (some e.2, s)
  | none =>
    match s.translate p pa with
    | none => (none, s.unmapped p pa)
    | some h =>
      if s.readable h then
        let bs := s.homeBytes h.addr 64
        let s := s.countRead h
        let x := s.partSt p
        (some bs, s.setPartSt p { x with fetched := x.fetched ++ [(pa, bs)] })
      else if s.coh.txs.any fun x => x.wants.any fun w => match w with
          | .ringRead q _ a => q == p && a == pa && x.gen == s.generation p
          | _ => false then (none, s)
      else (none, (s.issueRead (s.dieAsks (s.programDie p) p) h (.ringRead p k pa)).2)

/-! ## Ring errors (R316) -/

/-- A bit of PART_EVENT sets, and vector 16 fires (R320). -/
def State.partEvent (s : State) (p : Nat) (f : Fld) : State := (s.set f 1).fire (s.functionOf p) 16

/-- A submission ring enters the error state. -/
def State.ringFails (s : State) (p k code : Nat) : State :=
  (s.setAll [(fPartSqStatus_state p k, 2), (fPartSqStatus_error p k, code)]).partEvent p (fPartEvent_ring_error p)

/-- The sector could not be read (R288, R305, R316). A scheduler that still waits finds it so at its ring's turn; one that has gone
on puts the ring in error at once. -/
def State.ringUnread (s : State) (p k pa : Nat) : State :=
  let x := s.partSt p
  if x.deferred then s.setPartSt p { x with unread := x.unread ++ [pa] }
  else if k < 16 then s.ringFails p k 6 else s

/-! ## Descriptors (R313) -/

/-- A step that a ring offers, with the tiles that it asks for. -/
structure Offer where
  task : Task
  demand : Nat
deriving DecidableEq, Repr

/-- The code of the first check of R316 that a descriptor fails, 0 for none. -/
def State.descCheck (s : State) (p : Nat) (l : PartLast) (b : List Byte) : Nat :=
  if !(l.programs.any fun x => x.id == field b 8 2) then 2
  else if 16 ≤ field b 10 1 || !s.flag (fPartCqCfg_enable p (field b 10 1)) then 3
  else if field b 16 8 % 64 ≠ 0 then 4
  else if 2 ≤ field b 11 1 || !zeroBytes b 13 3 || !zeroBytes b 24 40 then 5
  else 0

/-- The step of a descriptor that passes the checks. -/
def State.offerOf (s : State) (p k index : Nat) (l : PartLast) (b : List Byte) : Option Offer :=
  (l.programs.find? fun x => x.id == field b 8 2).map fun prog =>
    let shapes := (l.schedules.getD []).getD prog.schedule []
    { task := { id := 0, part := p, gen := s.generation p, ring := k, index, tag := field b 0 8, cq := field b 10 1,
                irq := field b 11 1 % 2 == 1, label := field b 12 1, args := field b 16 8, program := prog,
                schedule := prog.schedule },
      demand := if prog.shaped then ((shapes.head?).map fun x => x.entries.length).getD 0 else 1 }

/-! ## Reading one ring (R314, R370) -/

/-- What a scan of the rings has found: the state, the room left in each completion ring, the candidates, the rings that
fail with their codes, and whether some read is still owed. -/
structure Scan where
  st : State
  room : List Nat := []
  found : List (List Offer) := []
  fails : List (Nat × Nat) := []
  badCq : List Nat := []
  owed : Bool := false

/-- The descriptors of ring `k` from `index` on: up to the first that fails, or that its completion ring has no room for. -/
def State.scanDescs (l : PartLast) (p k : Nat) : Nat → Nat → State → List Nat → List Offer → Scan
  | 0, _, s, room, os => { st := s, room, found := [os] }
  | n + 1, index, s, room, os =>
    let pa := s.sqBase p k + 64 + index % s.sqEntries p k * 64
    if (s.partSt p).unread.contains pa then { st := s, room, found := [os], fails := [(k, 6)] } else
    let r := s.ringSector p k pa
    match r.1 with
    | none => { st := r.2, room, found := [os], owed := true }
    | some b =>
      let code := r.2.descCheck p l b
      if code ≠ 0 then { st := r.2, room, found := [os], fails := [(k, code)] }
      else
        match r.2.offerOf p k index l b with
        | none => { st := r.2, room, found := [os] }
        | some o =>
          if room.getD o.task.cq 0 = 0 then { st := r.2, room, found := [os] }
          else State.scanDescs l p k n ((index + 1) % 2 ^ 32) r.2 (room.set o.task.cq (room.getD o.task.cq 0 - 1)) (os ++ [o])

/-- Steps of ring `k` before the producer index are seen at this tick (R31), as (stitch, time). -/
def State.seeSteps (s : State) (p k first n : Nat) : State :=
  let x := s.partSt p
  let seen := (List.range n).foldl (fun (m : SMap (Nat × Nat)) i =>
    let key := k * 2 ^ 32 + (first + i) % 2 ^ 32
    if mapGet (0, 0) m key = (0, 0) then mapSet (0, 0) m key (s.stitch + 1, s.tickArrival) else m) x.firstSeen
  s.setPartSt p { x with firstSeen := seen }

/-- One submission ring at the tick: its producer index, then its descriptors. At most 512 candidates. -/
def State.scanRing (l : PartLast) (p k : Nat) (s : State) (room : List Nat) : Scan :=
  if (s.partSt p).unread.contains (s.sqBase p k) then { st := s, room, found := [[]], fails := [(k, 6)] } else
  let r := s.ringSector p k (s.sqBase p k)
  match r.1 with
  | none => { st := r.2, room, found := [[]], owed := true }
  | some b =>
    let first := r.2.get (fPartSqStatus_consumer p k)
    let n := (field b 0 4 + 2 ^ 32 - first) % 2 ^ 32
    if s.sqEntries p k < n then { st := r.2, room, found := [[]], fails := [(k, 1)] }
    else State.scanDescs l p k (min 512 n) first (r.2.seeSteps p k first n) room []

/-- The room of completion ring `c` (R315), and whether its consumer index is out of range. One whose header cannot be read has no
room (log entry 139). -/
def State.scanCq (p c : Nat) (x : Scan) : Scan :=
  let s := x.st
  if !s.flag (fPartCqCfg_enable p c) || (s.partSt p).unread.contains (s.cqBase p c) then { x with room := x.room ++ [0] }
  else
    let r := s.ringSector p (16 + c) (s.cqBase p c)
    match r.1 with
    | none => { x with st := r.2, room := x.room ++ [0], owed := true }
    | some b =>
      let ahead := (s.get (fPartCqStatus_producer p c) + 2 ^ 32 - field b 8 4) % 2 ^ 32
      let n := s.cqEntries p c
      if n < ahead then { x with st := r.2, room := x.room ++ [0], badCq := x.badCq ++ [c] }
      else { x with st := r.2, room := x.room ++ [n - ahead - s.get (fPartCqStatus_owed p c)] }

/-- A ring takes part in a tick when it is enabled and not in error (R370). -/
def State.takesPart (s : State) (p k : Nat) : Bool :=
  s.flag (fPartSqCfg_enable p k) && s.get (fPartSqStatus_state p k) == 1

/-- The rings of a partition at a tick: the completion rings' room, then each submission ring in number order; room is
taken as candidates are found. -/
def State.scanRings (s : State) (l : PartLast) (p : Nat) : Scan :=
  let x := (List.range 16).foldl (fun x c => State.scanCq p c x) { st := s }
  (List.range 16).foldl (fun x k =>
    if x.st.takesPart p k then
      let y := State.scanRing l p k x.st x.room
      { st := y.st, room := y.room, found := x.found ++ y.found, fails := x.fails ++ y.fails, badCq := x.badCq,
        owed := x.owed || y.owed }
    else { x with found := x.found ++ [[]] }) x

/-- A scheduler that waits asks for what it needs next. -/
def State.askNext (s : State) (p : Nat) : State :=
  if !(s.partSt p).deferred then s
  else match s.lastOf p with
    | some l => (s.scanRings l p).st
    | none => s

/-- A sector that the scheduler asked for has come. -/
def State.ringArrived (s : State) (p pa : Nat) (bs : List Byte) : State :=
  let x := s.partSt p
  (s.setPartSt p { x with fetched := (x.fetched.filter fun e => e.1 != pa) ++ [(pa, bs)] }).askNext p

/-- PART_SQ_CTRLk.resume of partition `p`: a ring in ERROR leaves it at the next tick (R316). -/
def State.resumeSq (s : State) (p k : Nat) : State :=
  let x := s.partSt p
  if s.get (fPartSqStatus_state p k) = 2 && !x.resumed.contains k then
    s.setPartSt p { x with resumed := x.resumed ++ [k] }
  else s

/-- SQ_RESUME (R316). -/
def execSqResume (n : Fin 16) (k : Fin 16) (s : State) : Host.Outcome State Fault Refusal :=
  match s.partOfFn (n.val + 1) with
  | none => .next s
  | some p => .next (s.resumeSq p k)

end Sys2Proof.Machine
end

