-- ==== Sys2Proof/Machine/Spill.lean ====
section
/-! DEFINITION. The spill filter at the UCIe modules (R246, R247, R298), and the commands that reach a home or the
filter (R230). -/

namespace Sys2Proof.Machine

def State.setFilter (s : State) (es : List FilterEnt) : State := { s with coh := { s.coh with filter := es } }
def State.setFilterWait (s : State) (ms : List Msg) : State := { s with coh := { s.coh with filterWait := ms } }
def State.setHostReqs (s : State) (rs : List HostReq) : State := { s with coh := { s.coh with hostReqs := rs } }
def State.filterEnt (s : State) (line : Nat) : Option FilterEnt := s.coh.filter.find? fun e => e.line == line
def State.putFilter (s : State) (e : FilterEnt) : State := s.setFilter (e :: s.coh.filter.filter fun x => x.line != e.line)
def State.freeFilter (s : State) (line : Nat) : State := s.setFilter (s.coh.filter.filter fun x => x.line != line)

/-- The partition that maps a spill line, 16 for none. -/
def State.spillOwner (s : State) (line : Nat) : Nat :=
  ((List.range 16).find? fun p => (s.pages p).any fun e =>
    e.home == 9 && e.target ≤ line && line < e.target + e.count * pageBytes e.size).getD 16

/-- The router of the filter that tracks a spill line. -/
def filterSite (line : Nat) : Nat := moduleSite (moduleOf line)

/-- A response of the filter, dropped where the requester is dead. -/
def State.filterRespond (s : State) (m : Msg) (opcode : Nat) (data : List Byte := []) : State :=
  if s.deadAt (filterDie m.addr) m.source then s
  else s.send { opcode, srcDie := filterDie m.addr, srcSite := filterSite m.addr, tag := m.tag, part := m.part, gen := m.gen, addr := m.addr, bulk := m.bulk, unit := m.unit,
                requester := m.source, dst := replyDst m, spill := true, data }

/-- The memory fault of a requester of the filter (R298), but for a ring that its scheduler reads (R316). -/
def State.spillFault (s : State) (m : Msg) : State :=
  if readsRing m then s else
  s.partitionFault m.part { cause := 5, unitKind := 9, die := filterDie m.addr, unit := moduleOf m.addr, address := m.addr }

/-- A CXL.cache request goes to the host (R246). One request stands for those of every 64-byte block of its span. While the host
link is down it ends as the requests that the loss finds (R305; log entry 138). -/
def State.hostIssue (s : State) (op : HostOp) (m : Msg) (mask : Nat) (data : List Byte) : State :=
  if !s.flag fUciStatus_link_up then (s.filterRespond m 0x14).spillFault m else
  let s := s.setHostReqs (s.coh.hostReqs ++ [⟨op, lineOf m.bulk m.addr, m, s.clock.now⟩])
  s.emit (.cacheReq op (lineOf m.bulk m.addr) mask data)

def State.issueWrCur (s : State) (m : Msg) : State := let (mask, bs) := wbmOverLine m; s.hostIssue .wrCur m mask bs

def State.filterInv (s : State) (e : FilterEnt) (halves : List Nat) : State :=
  let p := s.spillOwner e.line
  halves.foldl (fun s n => if h : n < 16 then
    s.send { opcode := 0x18, srcDie := filterDie e.line, srcSite := filterSite e.line, part := p, gen := s.generation p,
             addr := e.line, bulk := e.bulk, requester := n, dst := .half ⟨n, h⟩, spill := true } else s) s

/-- The entry goes to U: what it makes room for is issued, the pending WrCur or the RdShared of another line, and the host's snoops
are answered (R246, R247). -/
def State.filterDone (s : State) (e : FilterEnt) : State :=
  let s := s.freeFilter e.line
  let s := match e.pending, e.req with
    | .wbm, some m => s.issueWrCur m
    | .evict, some m => s.hostIssue .rdShared m 0 []
    | _, _ => s
  e.answers.foldl (fun s a => s.emit (.snpRsp e.line a)) s

/-- An entry begins to collect from these halves; with none, it goes to U at once. -/
def State.filterCollect (s : State) (e : FilterEnt) (halves : List Nat) (p : Pending) (req : Option Msg)
    (answers : List Nat) : State :=
  let e := { e with collecting := true, owed := (halves.map (2 ^ ·)).foldl (· + ·) 0, pending := p, req, answers }
  if halves.isEmpty then s.filterDone e else (s.filterInv e halves).putFilter e

/-- The entries that the module of a line holds, or keeps for lines whose data the host still owes. -/
def State.filterUsed (s : State) (line : Nat) : Nat :=
  let mine (a : Nat) : Bool := moduleOf a == moduleOf line
  (s.coh.filter.filter fun e => mine e.line).length +
    ((s.coh.hostReqs.filter fun r => r.op == .rdShared && mine r.line && (s.filterEnt r.line).isNone).map fun r => r.line).eraseDups.length

/-- An RdS of a line without an entry: the RdShared goes out, or once a victim has been collected, or waits for room. The spec gives
no set for a spill line, so whether a module that holds sixteen entries or more displaces one, and which, is open (log entry
21). -/
def State.filterShare (s : State) (m : Msg) : Bool × State :=
  let line := lineOf m.bulk m.addr
  let room := s.filterUsed line < 32768
  let free := s.coh.filter.filter fun e => moduleOf e.line == moduleOf line && !e.collecting
  if (s.coh.filter.filter fun e => moduleOf e.line == moduleOf line).length < 16 || free.isEmpty then
    (room, if room then s.hostIssue .rdShared m 0 [] else s)
  else
    let r := s.draw
    if room && r.1 % 2 = 0 then (true, r.2.hostIssue .rdShared m 0 [])
    else
      let v := r.2.pick none (free.map some)
      match v.1 with
      | some e => (true, v.2.filterCollect e (halvesIn e.vector) .evict (some m) [])
      | none => (false, v.2)

/-- A request acts, or answers that it must wait (R247). -/
def State.filterServe (s : State) (m : Msg) : Bool × State :=
  let line := lineOf m.bulk m.addr
  let e := s.filterEnt line
  let busy := (e.map fun e => e.collecting).getD false
  let writing := s.coh.hostReqs.any fun r => r.op == .wrCur && r.line == line
  if m.opcode = 6 then
    let pa := match (s.pages m.part).find? fun e => e.home == 9 && e.target ≤ m.addr &&
        m.addr < e.target + e.count * pageBytes e.size with
      | some e => e.pa + (m.addr - e.target) + m.mask
      | none => m.addr
    (true, s.partitionFault m.part { cause := 4, unitKind := 9, die := filterDie line, unit := moduleOf line, address := pa })
  else if busy then (false, s)
  else if m.opcode = 1 || m.opcode = 2 then
    let owed := s.coh.filter.any fun e => e.collecting && e.pending == .evict && e.req.any fun r => lineOf r.bulk r.addr == line
    if writing || owed then (false, s)
    else if m.opcode = 1 && m.source < 16 then
      (if e.isSome then (true, s.hostIssue .rdShared m 0 []) else s.filterShare m)
    else (true, s.hostIssue .rdCurr m 0 [])
  else if m.opcode = 5 then
    match e with
    | some e => (true, s.filterCollect e ((halvesIn e.vector).filter (· != m.source)) .wbm (some m) [])
    | none => (true, s.issueWrCur m)
  else (true, s)

def State.filterPass (s : State) (blocked : List Nat) : List Msg → State
  | [] => s
  | m :: ms =>
    let line := lineOf m.bulk m.addr
    if blocked.contains line then s.filterPass blocked ms
    else
      let r := s.filterServe m
      if r.1 then (r.2.setFilterWait (r.2.coh.filterWait.erase m)).filterPass blocked ms
      else r.2.filterPass (line :: blocked) ms

def State.filterServeWaiting (s : State) : Nat → State
  | 0 => s
  | n + 1 =>
    let s' := s.filterPass [] s.coh.filterWait
    if s'.coh.filterWait.length < s.coh.filterWait.length then s'.filterServeWaiting n else s'

def State.serveFilter (s : State) : State := s.filterServeWaiting (s.coh.filterWait.length + 1)

/-- A request reaches the filter. -/
def State.filterTake (s : State) (m : Msg) : State :=
  let line := lineOf m.bulk m.addr
  let behind := s.coh.filterWait.any fun w => lineOf w.bulk w.addr == line
  let r := if behind then (false, s) else s.filterServe m
  if r.1 then r.2.serveFilter else r.2.setFilterWait (r.2.coh.filterWait ++ [m])

/-- IAck from half `n`, or its death (R247). -/
def State.filterIAck (s : State) (line n : Nat) : State :=
  match s.filterEnt line with
  | some e =>
    if e.collecting && e.owed.testBit n then
      let e := { e with owed := clearBit e.owed n, vector := clearBit e.vector n }
      (if e.owed = 0 then s.filterDone e else s.putFilter e).serveFilter
    else if s.coh.duplicates then s else s.addTo (fDirCntProto_count (filterDie line)) 1
  | none => if s.coh.duplicates then s else s.addTo (fDirCntProto_count (filterDie line)) 1

/-- A declaration that half `k` is dead reaches the filters of die `d` (R247). -/
def State.filterDead (s : State) (d k : Nat) : State :=
  let mine := (s.coh.filter.filter fun e => filterDie e.line == d && e.vector.testBit k).map fun e => e.line
  (mine.foldl (fun s line =>
    match s.filterEnt line with
    | none => s
    | some e =>
      let e := { e with owed := clearBit e.owed k, vector := clearBit e.vector k }
      if e.collecting then (if e.owed = 0 then s.filterDone e else s.putFilter e)
      else if e.vector = 0 then s.freeFilter line else s.putFilter e) s).serveFilter

/-! ## The host's side of a spill line -/

/-- SPILL_HOST_DATA (R246, R298). Data for an entry that has begun to collect reaches its requester, which then owes an
acknowledgement too (log entry 22). -/
def execSpillHostData (hpa : Nat) (bytes : List Byte) (poison : Bool) (s : State) : Host.Outcome State Fault Refusal :=
  match s.coh.hostReqs.find? fun r => r.op != .wrCur && r.line == lineOf r.msg.bulk hpa with
  | none => .next s
  | some r =>
    let m := r.msg
    let s := s.setHostReqs (s.coh.hostReqs.erase r)
    if poison then .next ((s.filterRespond m 0x14).spillFault m).serveFilter
    else
      let (off, n) := readSpan m
      let s := s.filterRespond m 0x10 (slice bytes off n)
      if r.op = .rdShared && !s.deadAt (filterDie r.line) m.source then
        match s.filterEnt r.line with
        | none => .next (s.putFilter { line := r.line, bulk := m.bulk, vector := 2 ^ m.source })
        | some e =>
          if e.collecting then
            .next ((s.filterInv e [m.source]).putFilter { e with
              vector := setBit e.vector m.source, owed := setBit e.owed m.source })
          else .next (s.putFilter { e with vector := setBit e.vector m.source })
      else .next s

/-- WRCUR_COMPLETE (R247): WAck goes to the requester of the WrCur. -/
def execWrcurComplete (hpa : Nat) (s : State) : Host.Outcome State Fault Refusal :=
  match s.coh.hostReqs.find? fun r => r.op == .wrCur && r.line == lineOf r.msg.bulk hpa with
  | none => .next s
  | some r => .next ((s.setHostReqs (s.coh.hostReqs.erase r)).filterRespond r.msg 0x12).serveFilter

/-- The entry whose line holds a host physical address. -/
def State.filterAt (s : State) (hpa : Nat) : Option FilterEnt :=
  s.coh.filter.find? fun e => e.line ≤ hpa && hpa < e.line + lineBytes e.bulk

/-- SNP_INV (R247). -/
def execSnpInv (hpa : Nat) (s : State) : Host.Outcome State Fault Refusal :=
  match s.filterAt hpa with
  | none => .next (s.emit (.snpRsp hpa 0))
  | some e =>
    if e.collecting then .next (s.putFilter { e with answers := e.answers ++ [0] })
    else .next (s.filterCollect e (halvesIn e.vector) .evict none [1]).serveFilter

/-- A host snoop that takes nothing away (R247): RspSHitSE in S; in C, RspIHitI once the entry owes nothing. -/
def State.snoopKeep (s : State) (hpa : Nat) : State :=
  match s.filterAt hpa with
  | none => s.emit (.snpRsp hpa 0)
  | some e => if e.collecting then s.putFilter { e with answers := e.answers ++ [0] } else s.emit (.snpRsp hpa 2)

/-- SNP_DATA (R247). -/
def execSnpData (hpa : Nat) (s : State) : Host.Outcome State Fault Refusal := .next (s.snoopKeep hpa)

/-- SNP_CUR (R247). -/
def execSnpCur (hpa : Nat) (s : State) : Host.Outcome State Fault Refusal := .next (s.snoopKeep hpa)

/-! ## Messages that reach a home or the filter -/

/-- A request arrives where its line is tracked. -/
def State.arriveRequest (s : State) (m : Msg) (opcode : Nat) : State :=
  let s := s.arrive m
  let m := { m with opcode }
  if m.spill then s.filterTake m else s.takeRequest m

/-- RDS (R239, R247). -/
def execRds (m : Msg) (s : State) : Host.Outcome State Fault Refusal :=
  if !s.mayArrive m then .next s else
  .next (s.arriveRequest m 0x01)
/-- RDN (R239, R247). -/
def execRdn (m : Msg) (s : State) : Host.Outcome State Fault Refusal :=
  if !s.mayArrive m then .next s else
  .next (s.arriveRequest m 0x02)
/-- RDX (R239). -/
def execRdx (m : Msg) (s : State) : Host.Outcome State Fault Refusal :=
  if !s.mayArrive m then .next s else
  .next (s.arriveRequest m 0x03)
/-- UPG (R239). -/
def execUpg (m : Msg) (s : State) : Host.Outcome State Fault Refusal :=
  if !s.mayArrive m then .next s else
  .next (s.arriveRequest m 0x04)
/-- WBM (R239, R247). -/
def execWbm (m : Msg) (s : State) : Host.Outcome State Fault Refusal :=
  if !s.mayArrive m then .next s else
  .next (s.arriveRequest m 0x05)
/-- ATR (R220, R239, R245). -/
def execAtr (m : Msg) (s : State) : Host.Outcome State Fault Refusal :=
  if !s.mayArrive m then .next s else
  .next (s.arriveRequest m 0x06)
/-- HWB (R239). -/
def execHwb (m : Msg) (s : State) : Host.Outcome State Fault Refusal :=
  if !s.mayArrive m then .next s else
  .next ((s.arrive m).takeHwb m)
/-- HEV (R239). -/
def execHev (m : Msg) (s : State) : Host.Outcome State Fault Refusal :=
  if !s.mayArrive m then .next s else
  .next ((s.arrive m).takeHev m)
/-- IACK (R240, R247). -/
def execIack (m : Msg) (s : State) : Host.Outcome State Fault Refusal :=
  if !s.mayArrive m then .next s else
  let s := s.arrive m
  .next (if m.spill then s.filterIAck m.addr m.source else s.takeIAck m.addr m.source)
/-- BIRSP (R240). -/
def execBirsp (m : Msg) (s : State) : Host.Outcome State Fault Refusal :=
  if !s.mayArrive m then .next s else
  .next ((s.arrive m).takeBIRsp m.addr m.unit m.state)
/-- FWDACK (R240). -/
def execFwdack (m : Msg) (s : State) : Host.Outcome State Fault Refusal :=
  if !s.mayArrive m then .next s else
  .next ((s.arrive m).takeFwdAck m.addr m.source)
/-- FWDMISS (R240). -/
def execFwdmiss (m : Msg) (s : State) : Host.Outcome State Fault Refusal :=
  if !s.mayArrive m then .next s else
  .next ((s.arrive m).takeFwdMiss m.addr m.source)

/-- DEAD_DECLARATION (R250): at the homes and the filters of die `d`. -/
def execDeadDeclaration (d : Die) (agent : Fin 17) (s : State) : Host.Outcome State Fault Refusal :=
  .next ((s.declareAt d agent).filterDead d agent)

end Sys2Proof.Machine
end

