-- ==== Sys2Proof/Machine/Half.lean ====
section
/-! DEFINITION. What responses do: to the requester that waits for them, and in a level-2 half (R200, R201, R236, R237,
R391). -/

namespace Sys2Proof.Machine

/-! ## What a response serves -/

/-- The tile's end instruction retires once every write-back has been accepted, and, as a system-scope release of the whole tile,
every earlier atomic and reduction has been applied (R76, R261, R265). -/
def State.checkRetire (s : State) (t : Nat) : State :=
  let open_ (w : Purpose) : Bool := match w with
    | .writeBack t' _ | .atomic t' .. | .reduction t' .. => t' == t
    | _ => false
  if !(s.tileAt t).ending || s.coh.txs.any (fun x => x.wants.any open_) || s.coh.halfWaits.any (fun x => open_ x.want) then s
  else
    match s.taskOn t with
    | none => s
    | some k =>
      if k.retired.contains t then s
      else (s.setTask { k with retired := k.retired ++ [t] }).addTo (fTileCntSteps_count (tileDie t) (tileSite t)) 1

/-- The lanes of a hinted compare-and-swap have all answered: those that failed park with the program counter at the
instruction, on the granules of their own locks, and the others go on (R81). -/
def Group.splitCas (g : Group) (i failed now : Nat) (locks : List (Nat × Bool × Nat)) : Group :=
  match g.paths[i]? with
  | none => g
  | some y =>
    let ok := y.mask &&& (2 ^ 32 - 1 - failed)
    let grs := (locks.filter fun e => failed.testBit e.1).map fun e => e.2
    let parked : Path := { y with mask := failed, pc := y.pc - 16, state := .parked grs now }
    if failed = 0 then g.setPath i fun y => { y with state := .run }
    else if ok = 0 then g.setPath i fun _ => parked
    else { g.setPath i fun y => { y with mask := ok, state := .run } with
      paths := (g.setPath i fun y => { y with mask := ok, state := .run }).paths ++ [parked] }

/-- The failing lanes of a hinted compare-and-swap park. A split that would need a 33rd entry of the path stack raises PATH_DEPTH,
as that of a branch does (R73, R81; DESIGN CHOICE, log entry 123). -/
def State.finishCas (s : State) (t g i failed : Nat) (grs : List (Nat × Bool × Nat)) : State :=
  let x := s.groupAt t g
  let pc := ((x.paths[i]?).map fun y => y.pc - 16).getD 0
  let splits := match x.paths[i]? with
    | some y => failed != 0 && (y.mask &&& (2 ^ 32 - 1 - failed)) != 0
    | none => false
  if splits && 32 ≤ x.paths.length then s.stepFault t g (lowestLane failed) 2 pc
  else
    let s := s.setGroup t g (x.splitCas i failed s.clock.now grs)
    let s := if failed = 0 then s else s.addTo (fTileCntPark_count (tileDie t) (tileSite t)) 1
    s.settleGroup t g

/-- The old value of an atomic reaches its lane: with the lock hint the lane's compare is settled, with acquire the
acquire of its scope follows (R81, R270). -/
def State.atomicDone (s : State) (t g lane key compare old : Nat) (hint : Bool) (acquire : Option Nat) : State :=
  let s := (s.giveLane t g lane old).wake t false key
  let x := s.groupAt t g
  match x.pathOf lane with
  | none => s
  | some i =>
    match ((x.paths[i]?).map fun y => y.state : Option PathState) with
    | some (.casWait left failed grs) =>
      let left := clearBit left lane
      let failed := if hint && old ≠ compare then setBit failed lane else failed
      if left = 0 then s.finishCas t g i failed grs
      else s.setGroup t g (x.setPath i fun y => { y with state := .casWait left failed grs })
    | some .response =>
      let more := s.coh.txs.any fun y => y.wants.any fun w => match w with
        | .atomic t' g' l .. => t' == t && g' == g && ((x.paths[i]?).map fun y => y.mask.testBit l).getD false
        | _ => false
      if more then s
      else
        let s := s.setGroup t g (x.setPath i fun y => { y with state := .run })
        (match acquire with | some sc => s.acquire t sc | none => s).settleGroup t g
    | _ => s

/-- A load's bytes: those that it knew when it issued, and the rest from the sector. -/
def loadBytes (known : List (Nat × Byte)) (bs : List Byte) : List Byte :=
  bs.mapIdx fun i b => (known.find? fun e => e.1 == i).elim b fun e => e.2

/-- The bytes of a sector as the tile now sees them: those that level 1 holds valid win (R198, R268). -/
def State.seenBytes (s : State) (t key : Nat) (sector : List Byte) : List Byte :=
  match s.l1Line t key with
  | some l => mergeBytes l.valid l.data sector
  | none => sector

/-- A load gets its bytes of the sector. -/
def State.giveLoad (s : State) (sector : List Byte) (w : Purpose) : State :=
  match w with
  | .load t g lane pa len place whole known _ =>
    let v := leNat (loadBytes known (slice (s.seenBytes t (pa / 64) sector) (pa % 64) len))
    s.givePart t g lane whole place len v
  | _ => s

/-- A load of tile `t` that waits for sector `key`. -/
def Purpose.loads (t key : Nat) : Purpose → Bool
  | .load t' _ _ pa _ _ _ _ _ => t' == t && pa / 64 == key
  | _ => false

/-- A sector that may fill level 1 comes for a tile: every load of the tile that waits for it gets it, so none returns an older
value later (R268). -/
def State.serveSector (s : State) (t key : Nat) (sector : List Byte) : State :=
  let mine := (s.coh.txs.flatMap fun x => x.wants.filter (Purpose.loads t key)) ++
    (s.coh.halfWaits.filter fun x => x.want.loads t key).map fun x => x.want
  let s := { s with coh := { s.coh with
    txs := s.coh.txs.map (fun (x : Tx) => { x with wants := x.wants.filter fun w => !w.loads t key }),
    halfWaits := s.coh.halfWaits.filter fun x => !x.want.loads t key } }
  mine.foldl (fun s w => s.giveLoad sector w) s

/-- Data reaches one purpose: `data` starts at physical address `base`. -/
def State.serveData (s : State) (p base : Nat) (data : List Byte) (w : Purpose) : State :=
  match w with
  | .load t _ _ pa _ _ _ _ fill =>
    match s.translate p pa with
    | none => s
    | some h =>
      let sector := slice data (h.addr - pa % 64 - base) 64
      if fill then ((s.l1Fill t p (pa / 64) h.homeOf sector).giveLoad sector w).serveSector t (pa / 64) sector
      else s.giveLoad sector w
  | .copyRead t id first len =>
    match (s.copyOn t id).bind fun c => s.translate p (c.desc.srcOf first) with
    | none => s
    | some h => s.copyPut t id first (slice data (h.addr - base) len)
  | .late u dst pa len =>
    match s.translate p pa with
    | some h => if s.fenced u then s else s.scratchWrite u dst (slice data (h.addr - base) len)
    | none => s
  | .remoteRead p q psn first len =>
    match (s.qp p q).reads.find? fun j => j.psn == psn with
    | none => s
    | some j =>
      match s.translate p (j.addr + first) with
      | some h => s.readPart p q psn first (slice data (h.addr - base) len)
      | none => s
  | .receive p q _ 9 =>
    match (s.qpCfg p q).bind fun c => s.translate p (c.recvBase + 8) with
    | none => s
    | some h =>
      let x := s.qp p q
      s.setQp p q { x with recvConsumer := field data (h.addr - base) 4 }
  | .ringRead p _ pa =>
    match s.translate p pa with
    | some h => s.ringArrived p pa (slice data (h.addr - base) 64)
    | none => s
  | _ => s

/-- A write of one purpose is accepted (R119). -/
def State.serveAck (s : State) (w : Purpose) : State :=
  match w with
  | .writeBack t key => ((s.wake t false key).checkReleases t).checkRetire t
  | .copyWrite t id n => s.copyCount t id n
  | .recordBody p cq index => s.recordAccepted p cq index
  | .recordPhase p cq index => s.phaseAccepted p cq index
  | .remoteWrite p q psn n => s.rxWritten p q psn n
  | .receive p q psn 1 => s.slotDone p q psn
  | _ => s

/-- An atomic's response reaches its lane. -/
def State.serveAtomic (s : State) (data : List Byte) (w : Purpose) : State :=
  match w with
  | .atomic t g lane key _ compare hint acquire => (s.atomicDone t g lane key compare (leNat data) hint acquire).checkReleases t
  | .reduction t _ _ => s.checkReleases t
  | _ => s

/-- An error reaches one purpose (R121, R288, R316). -/
def State.serveErr (s : State) (w : Purpose) : State :=
  match w with
  | .copyRead t id _ _ => s.copyError t id
  | .copyWrite t id _ => s.copyError t id
  | .image r => { s with sec := { s.sec with badReads := r :: s.sec.badReads } }
  | .ringRead p k pa => (s.ringUnread p k pa).askNext p
  | _ => s

/-! ## Responses (R236, R237) -/

/-- A response that R237 discards: counted on the receiving die, but not within 100 µs of a route loss (R391). -/
def State.staleResponse (s : State) (d : Nat) : State :=
  if s.coh.duplicates then s else s.addTo (fDirCntStale_count d) 1

/-- A completion record of a step that ended before a teardown is still written (R378): its transactions, and those of
a ring header, outlive the generation. -/
def Tx.outlives (x : Tx) : Bool :=
  x.wants.any fun w => match w with | .recordBody .. | .recordPhase .. | .ringWrite _ => true | _ => false

/-- The open transaction that a response answers, unless R237 discards the response: its generation is not its partition's. -/
def State.txOf (s : State) (m : Msg) : Option Tx :=
  (s.coh.txs.find? fun x => x.die == receivingDie m && x.tag == m.tag && (match m.dst with
    | .half n => x.agent == n.val
    | _ => x.agent == 31)).bind fun x =>
      if (x.gen = s.generation x.part && m.gen = s.generation m.part) || x.outlives then some x else none

def State.closeTx (s : State) (x : Tx) : State := s.setTxs (s.coh.txs.filter fun y => !y.same x)

/-- The first wait acts: nothing is open on the line and the half has a credit (R213), or an RdS is open that a read joins
(R236). -/
def State.waitActs (s : State) (w : HalfWait) : Bool :=
  match s.halfTx w.half w.line w.spill with
  | none => !s.halfFull w.half
  | some x => x.op == 1 && w.msg.opcode == 1

/-- What waits in a half for a line acts, in order, until one must wait on (R236). Data that a wait finds at once is delivered. -/
def State.runHalfWaits (s : State) (h line : Nat) (spill : Bool) : Nat → State
  | 0 => s
  | fuel + 1 =>
    match s.coh.halfWaits.find? fun w => w.half == h && w.line == line && w.spill == spill with
    | none => s
    | some w =>
      if !s.waitActs w then s
      else
        let s := { s with coh := { s.coh with halfWaits := s.coh.halfWaits.erase w } }
        let s := if w.msg.opcode = 1 then
            match s.halfRead h w.msg w.want with
            | (some data, s) => s.serveData w.msg.part line data w.want
            | (none, s) => s
          else s.halfWrite h w.msg w.want
        s.runHalfWaits h line spill fuel

/-- The requests of a half that wait for a credit act while it has one (R213). -/
def State.runCredits (s : State) (h : Nat) : Nat → State
  | 0 => s
  | fuel + 1 =>
    if s.halfFull h then s
    else match s.coh.halfWaits.find? fun w => w.half == h && (s.halfTx h w.line w.spill).isNone with
      | none => s
      | some w => (s.runHalfWaits h w.line w.spill (s.coh.halfWaits.length + 1)).runCredits h fuel

/-- A transaction has closed: what waited in its half for the line, or for a credit, acts. -/
def State.wakeHalf (s : State) (x : Tx) : State :=
  if x.agent < 16 then
    (s.runHalfWaits x.agent x.addr x.spill (s.coh.halfWaits.length + 1)).runCredits x.agent (s.coh.halfWaits.length + 1)
  else s

/-- Data or MData at a half or requester (R236): the half allocates under R217 and goes to S, or, after an Inv, to I. -/
def State.takeData (s : State) (m : Msg) : State :=
  match s.txOf m with
  | none => s.staleResponse (receivingDie m)
  | some x =>
    if x.op ≠ 1 && x.op ≠ 2 then s.staleResponse (receivingDie m)
    else
      let s := s.closeTx x
      let s := if x.agent < 16 && !x.inv then
          match s.placeL2 ⟨x.agent, x.addr, x.bulk, x.spill, x.part, 0, fullMask x.bulk, m.data⟩ with
          | some s => s
          | none => s.bypassL2 x.agent x.addr x.bulk x.spill
        else s
      let base := if x.agent < 16 then x.addr else x.addr + (if x.bulk then 256 else 64) * x.unit
      let s := x.wants.foldl (fun s w => s.serveData x.part base m.data w) s
      s.wakeHalf x

/-- WAck or AtRsp. -/
def State.takeAck (s : State) (m : Msg) (atomic : Bool) : State :=
  match s.txOf m with
  | none => s.staleResponse (receivingDie m)
  | some x =>
    if x.op ≠ (if atomic then 6 else 5) then s.staleResponse (receivingDie m)
    else
      let s := s.closeTx x
      let s := x.wants.foldl (fun s w => if atomic then s.serveAtomic m.data w else s.serveAck w) s
      s.wakeHalf x

/-- Err: every purpose of the transaction gets the error. -/
def State.takeErr (s : State) (m : Msg) : State :=
  match s.txOf m with
  | none => s.staleResponse (receivingDie m)
  | some x => (x.wants.foldl State.serveErr (s.closeTx x)).wakeHalf x

/-- WACK (R236). -/
def execWack (m : Msg) (s : State) : Host.Outcome State Fault Refusal :=
  if !s.mayArrive m then .next s else
  .next ((s.arrive m).takeAck m false)
/-- ATRSP (R236). -/
def execAtrsp (m : Msg) (s : State) : Host.Outcome State Fault Refusal :=
  if !s.mayArrive m then .next s else
  .next ((s.arrive m).takeAck m true)

/-! ## Inv and Fwd at a half (R236) -/

/-- INV (R236): the half drops its copy, or remembers the Inv while its RdS is open, and acknowledges. -/
def execInv (m : Msg) (s : State) : Host.Outcome State Fault Refusal :=
  if !s.mayArrive m then .next s else
  let s := s.arrive m
  match m.dst with
  | .half n =>
    let s := s.invalL2 n.val m.addr m.spill
    let s := s.setTxs (s.coh.txs.map fun x =>
      if x.agent = n.val && x.addr = m.addr && x.spill = m.spill && x.op = 1 then { x with inv := true } else x)
    .next (s.send { opcode := 0x20, source := n.val, part := m.part, gen := m.gen, srcDie := n.val / 2, srcSite := halfSite n.val m.addr m.spill,
                    addr := m.addr, bulk := m.bulk, spill := m.spill, dst := if m.spill then .filter else .home })
  | _ => .next s

/-- FWD (R236): Data to the named requester and FwdAck from a copy; else FwdMiss. -/
def execFwd (m : Msg) (s : State) : Host.Outcome State Fault Refusal :=
  if !s.mayArrive m then .next s else
  let s := s.arrive m
  match m.dst with
  | .half n =>
    let back (op : Nat) : Msg :=
      { opcode := op, source := n.val, srcDie := n.val / 2, srcSite := halfSite n.val m.addr false, addr := m.addr,
        bulk := m.bulk, part := m.part, gen := m.gen, dst := .home }
    match s.l2Line n.val m.addr false with
    | some l =>
      if h : m.requester < 16 ∧ l.valid = fullMask l.bulk then
        let data : Msg :=
          { back 0x10 with tag := m.tag, requester := m.requester,
                           dst := .half ⟨m.requester, h.1⟩, data := l.data }
        .next (((s.touchL2 l).send data).send (back 0x22))
      else .next (s.send (back 0x23))
    | none => .next (s.send (back 0x23))
  | _ => .next s

/-! ## Route loss (R391) -/

/-- ROUTE_LOSS_NOTICE: homes and filters resend what is still owed to them, and halves resend every open RdS. -/
def execRouteLossNotice (s : State) : Host.Outcome State Fault Refusal :=
  let s := { s with coh := { s.coh with duplicates := true } }
  let s := s.coh.dir.foldl (fun s e =>
    match e.state with
    | .c =>
      let s := (halvesIn e.owedHalves).foldl (fun s n => s.sendInv e.line e.bulk n) s
      let down := e.pending == .rdS || e.pending == .rdN
      let s := ((List.range (lineBlocks e.bulk)).filter fun b => e.owedBlocks.testBit b).foldl
        (fun s b => s.sendBack down e.line e.bulk b) s
      s
    | .f =>
      match e.req with
      | some m =>
        if h : e.target < 16 then
          (s.send { m with opcode := 0x19, source := 31, srcDie := dpaDie e.line, srcSite := homeSite e.line,
                           requester := m.source, dst := .half ⟨e.target, h⟩ }).addTo
            (fDirCntFwd_count (dpaDie e.line)) 1
        else s
      | none => s
    | _ => s) s
  let s := s.coh.filter.foldl (fun s e =>
    if e.collecting then s.filterInv e (halvesIn e.owed) else s) s
  .next ((s.coh.txs.filter fun x => x.agent < 16 && x.op == 1).foldl (fun s x =>
    s.send { opcode := 1, source := x.agent, srcDie := x.die, srcSite := x.site, tag := x.tag, part := x.part, gen := x.gen,
             addr := x.addr, bulk := x.bulk, unit := x.unit, spill := x.spill,
             dst := if x.spill then .filter else .home }) s)

/-- DUPLICATE_WINDOW_END (R391): 100 µs after the notice, duplicates count again. -/
def execDuplicateWindowEnd (s : State) : Host.Outcome State Fault Refusal :=
  .next { s with coh := { s.coh with duplicates := false } }

end Sys2Proof.Machine
end

