-- ==== Sys2Proof/Machine/Lanes.lean ====
section
/-! DEFINITION. The lane engine: branches, path rotation, exit, barriers, the end instruction, and the lace's part in
task barriers (R73 to R81, R193). -/

namespace Sys2Proof.Machine

/-- Lanes of `mask` that the path holds. -/
def Path.lanes (y : Path) (mask : Nat) : Nat := y.mask &&& mask

/-- BRANCH (R73, R502): lanes in `taken` go to `target`, the others fall through. A divergent branch splits the path
into two, each with the reconvergence point; the lanes that fall through keep the path's place and the others take a
deeper entry (log entry 24). A target that is no multiple of 16, or lies beyond the code, raises ILLEGAL when the path fetches it
(State.fetchPath). -/
def execBranch (t : TileId) (g : Grp) (taken : LaneMask) (target reconv : Nat) (s : State) :
    Host.Outcome State Fault Refusal :=
  .next (s.withPath t g fun _ y s =>
    let go := y.lanes taken.toNat
    let stay := y.mask - go
    if go = 0 then s
    else
      let x := s.groupAt t g
      if stay = 0 then s.setGroup t g (x.setPath x.cur fun y => { y with pc := target })
      else if 32 ≤ x.paths.length then s.stepFault t g (lowestLane y.mask) 2 y.pc
      else
        let splits := (x.splitNo, reconv) :: y.splits
        let x := x.setPath x.cur fun y => { y with mask := stay, splits }
        s.setGroup t g { x with paths := x.paths ++ [{ mask := go, pc := target, splits }], splitNo := x.splitNo + 1 })

/-- PATH_ROTATE (R74). -/
def execPathRotate (t : TileId) (g : Grp) (s : State) : Host.Outcome State Fault Refusal :=
  let x := s.groupAt t g
  if x.count < 64 then .next s else
  match x.nextReady with
  | none => .next s
  | some i =>
    .next ((s.setGroup t g { x with cur := i, count := 0 }).addTo (fTileCntRotate_count (tileDie t) (tileSite t)) 1)

/-- Lanes leave the live set of their group (R76): empty paths leave the stack. -/
def Group.drop (x : Group) (lanes : Nat) : Group :=
  let out (m : Nat) : Nat := m - (m &&& lanes)
  let paths := x.paths.map fun y => { y with mask := out y.mask }
  let before := ((paths.take x.cur).filter fun y => y.mask == 0).length
  let gone := ((paths[x.cur]?).map fun y => y.mask == 0).getD false
  let kept := paths.filter fun y => y.mask != 0
  let cur := x.cur - before
  let x := { x with live := out x.live, paths := kept, bars := x.bars.filter fun b => !lanes.testBit b.lane }
  if !gone then { x with cur }
  else
    -- the lanes that ran are gone: the next ready path in stack order runs
    match ((List.range kept.length).map fun i => (cur + i) % kept.length).find? fun i =>
        ((kept[i]?).map x.pathReady).getD false with
    | some i => { x with cur := i, count := 0 }
    | none => { x with cur := if kept.length ≤ cur then 0 else cur, count := 0 }

/-- EXIT (R76). -/
def execExit (t : TileId) (g : Grp) (lanes : LaneMask) (s : State) : Host.Outcome State Fault Refusal :=
  .next (s.withPath t g fun _ y s =>
    let out := y.lanes lanes.toNat
    if out = 0 then s
    else ((s.setGroup t g ((s.groupAt t g).drop out)).settleGroup t g).checkBarriers t)

/-- No load of the tile waits any more: its lanes are gone, and nothing fills level 1 again (R265). -/
def State.dropLoads (s : State) (t : Nat) : State :=
  let mine (w : Purpose) : Bool := match w with | .load t' .. => t' == t | _ => false
  { s with coh := { s.coh with
    txs := s.coh.txs.map (fun (x : Tx) => { x with wants := x.wants.filter fun w => !mine w }),
    halfWaits := s.coh.halfWaits.filter fun x => !mine x.want } }

/-- END_INSTRUCTION (R76): once no lane is live and no pass is queued or running, the store queues drain, and level 1 is
written back and invalidated. -/
def execEndInstruction (t : TileId) (s : State) : Host.Outcome State Fault Refusal :=
  match s.taskOn t with
  | none => .next s
  | some k =>
    let x := s.tileAt t
    if k.phase ≠ .running || x.ending || !(s.liveGroups t).isEmpty || !x.passes.isEmpty || x.running.isSome then .next s
    else
      let s := (List.range 16).foldl (fun s g => s.drainAll t g k.part) s
      let s := (s.tileAt t).l1.foldl (fun s l => s.writeBack t k.part l) s
      let s := s.dropLoads t
      let s := s.setTile t { s.tileAt t with l1 := [], ending := true }
      .next (s.checkRetire t)

/-- BARRIER (R78, R79): lanes of the current path arrive. -/
def execBarrier (t : TileId) (g : Grp) (lanes : LaneMask) (kind : BarKind) (n : Fin 16) (s : State) :
    Host.Outcome State Fault Refusal :=
  .next (s.withPath t g fun k y s =>
    let at_ := y.lanes lanes.toNat
    if at_ = 0 then s
    else
      let s := s.drainAll t g k.part
      let x := s.groupAt t g
      let bars := ((List.range 32).filter fun i => at_.testBit i).map fun i => (⟨i, kind, n.val⟩ : LaneBar)
      ((s.setGroup t g { x with bars := x.bars ++ bars }).settleGroup t g).checkBarriers t)

/-- PARK_TIMEOUT (R81): the parked path at place `path` retries 256 cycles after it was parked. -/
def execParkTimeout (t : TileId) (g : Grp) (path : Nat) (s : State) : Host.Outcome State Fault Refusal :=
  let x := s.groupAt t g
  match (x.paths[path]?).map fun (y : Path) => y.state with
  | some (.parked _ _) => .next (s.setGroup t g ((x.setPath path fun y => { y with state := .run }).settle))
  | _ => .next s

/-- READ_LANE_STATUS (R146): the word returns to every lane of the path. -/
def execReadLaneStatus (t : TileId) (g : Grp) (s : State) : Host.Outcome State Fault Refusal :=
  .next (s.withPath t g fun _ y s =>
    let x := s.groupAt t g
    s.setGroup t g { x with values := ((List.range 32).filter fun i => y.mask.testBit i).map fun i => (i, x.status) })

/-- READ_PRODUCT_STATUS (R112). -/
def execReadProductStatus (t : TileId) (g : Grp) (s : State) : Host.Outcome State Fault Refusal :=
  .next (s.withPath t g fun _ y s =>
    let x := s.groupAt t g
    s.setGroup t g { x with
      values := ((List.range 32).filter fun i => y.mask.testBit i).map fun i => (i, (s.tileAt t).status) })

/-! ## Task barriers on the lace (R193, R351) -/

/-- A task barrier completes on the tiles of a task that lie on die `d`. -/
def State.releaseTask (s : State) (k : Task) (d n : Nat) : State :=
  (k.tiles.filter fun t => tileDie t == d).foldl (fun s t =>
    if (s.tileAt t).sentBar = some n then
      let s := s.setTile t { s.tileAt t with sentBar := none }
      ((s.liveGroups t).foldl (fun s g => s.releaseBars t g fun b => b.kind == .task && b.number == n) s).countBarrier t
    else s) s

/-- The dies of a task. -/
def Task.dies (k : Task) : List Nat := (List.range 8).filter fun d => k.tiles.any fun t => tileDie t == d

/-- The job barrier that a task barrier of a task counts toward (R341, R351). -/
def State.jobBarrierOf (s : State) (k : Task) (n : Nat) : Option (JobSec × JobBarrier) :=
  (s.lastOf k.part).bind fun l =>
    (l.job.barriers.find? fun b => b.program == k.program.id && b.barrier == n).map fun b => (l.job, b)

/-- The completion of a barrier reaches die `d` of a task (R193): its lanes are released. -/
def execLaceCompletion (task : Nat) (d : Die) (n : Fin 16) (s : State) : Host.Outcome State Fault Refusal :=
  match s.taskById task with
  | none => .next s
  | some k =>
    if k.completed.contains n.val then
      let s := s.releaseTask k d n
      -- the instance ends once no tile of the task still waits at it
      if k.tiles.all fun t => (s.tileAt t).sentBar != some n.val then
        .next (s.setTask { k with arrivals := mapSet [] k.arrivals n.val [], completed := k.completed.erase n.val })
      else .next s
    else .next s

end Sys2Proof.Machine
end

