-- ==== Sys2Proof/Machine/LaneMem.lean ====
section
/-! DEFINITION. What lanes do to memory and eyelets: loads, stores, fences, atomics, reductions, pins and the eyelet
instructions (R159 to R163, R197 to R201, R218, R219, R260 to R275). -/

namespace Sys2Proof.Machine

/-! ## Loads and stores (R263, R264, R268) -/

/-- The byte at an address that a group's store queue holds: the latest entry that masks it. -/
def Group.queued (x : Group) (scratch : Bool) (a : Nat) : Option Byte :=
  (x.queue.filter fun e => e.scratch == scratch && e.base == alignDown a 64 && e.mask.testBit (a % 64)).getLast?.map
    fun e => e.data.getD (a % 64) 0#8

/-- The parts of an access that lie in one 64-byte granule each, as (address, place, length). A lane access is one part
unless it crosses a granule (log entry 25). -/
def granules (a len : Nat) : List (Nat × Nat × Nat) :=
  (cutRange (a + len + 1) 64 id (len + 1) a len).map fun e => (e.1, e.1 - a, e.2)

/-- The bytes of [a, a + len), by place, that the group's store queue holds, or that level 1 holds in the bytes of `mask`. -/
def State.knownBytes (s : State) (t g a len : Nat) (mask : L1Line → Nat) : List (Nat × Byte) :=
  (List.range len).filterMap fun i =>
    match (s.groupAt t g).queued false (a + i) with
    | some b => some (i, b)
    | none => (s.l1Line t (a / 64)).bind fun l =>
      if (mask l).testBit ((a + i) % 64) then some (i, l.data.getD ((a + i) % 64) 0#8) else none

/-- The clean bytes of a line that a load has to fetch leave level 1, so that an aligned access never joins older bytes of another
write with newer ones (R198, R269; DEDUCED, log entry 124). -/
def State.keepDirty (s : State) (t key : Nat) : State :=
  match s.l1Line t key with
  | none => s
  | some l => if l.dirty = 0 then s.dropL1 t key else s.putL1 t { l with valid := l.dirty }

/-- A load of the sector is on its way, and may still fill level 1. -/
def State.fetching (s : State) (t key : Nat) : Option Tx :=
  s.coh.txs.find? fun x => x.wants.any fun w => w.loads t key && match w with
    | .load _ _ _ _ _ _ _ _ fill => fill
    | _ => false

/-- A load of one granule's part from partition memory: level 1 and the store queue, else the path of R197. A load of a sector that
the tile is fetching waits for the same data (R268). -/
def State.loadPart (s : State) (t g lane p whole a place len : Nat) : State :=
  let key := a / 64
  let hit := s.knownBytes t g a len fun l => l.valid
  if hit.length = len then
    let s := match s.l1Line t key with | some l => s.putL1 t l | none => s
    s.givePart t g lane whole place len (leNat (hit.map fun e => e.2))
  else match s.translate p a with
    | none => s.unmapped p a (some t)
    | some h =>
      let want := Purpose.load t g lane a len place whole (s.knownBytes t g a len fun l => l.dirty) true
      match s.fetching t key with
      | some x => s.joinTx x want
      | none =>
        match (s.keepDirty t key).issueRead (s.tileAsks t p) h want with
        | (some line, s) => s.serveData p (lineOf h.bulk h.addr) line want
        | (none, s) => s

/-- A scratch access at or beyond the scratch size raises STORE_BOUNDS (R68). -/
def State.outOfStore (s : State) (t off len : Nat) : Bool := s.scratchSize t < off + len

/-- LANE_LOAD (R263): the lane takes the queued bytes that it needs, and its other bytes from the tile store or level 1. -/
def execLaneLoad (t : TileId) (g : Grp) (lane : Fin 32) (loc : Loc) (len : Nat) (s : State) :
    Host.Outcome State Fault Refusal :=
  .next (s.withLane t g lane 0 fun k y s =>
    match loc with
    | .scratch off =>
      if s.outOfStore t off len then s.stepFault t g lane 4 y.pc
      else
        let x := s.groupAt t g
        let bs := (s.scratchRead t off len).mapIdx fun i b => (x.queued true (off + i)).getD b
        s.giveLane t g lane (leNat bs)
    | .mem pa => (granules pa len).foldl (fun s e => s.loadPart t g lane k.part len e.1 e.2.1 e.2.2) s)

/-- Bytes of one granule enter the group's store queue: they join its entry, or take a new one. -/
def Group.enqueue (x : Group) (scratch : Bool) (a : Nat) (bs : List Byte) : Group :=
  let base := alignDown a 64
  let off := a % 64
  let mask := (2 ^ bs.length - 1) * 2 ^ off
  let data := List.replicate off 0#8 ++ bs ++ List.replicate (64 - off - bs.length) 0#8
  if x.queue.any fun e => e.scratch == scratch && e.base == base then
    { x with queue := x.queue.map fun e =>
        if e.scratch = scratch && e.base = base then
          { e with mask := e.mask ||| mask, data := mergeBytes mask data e.data } else e }
  else { x with queue := x.queue ++ [⟨scratch, base, mask, data⟩] }

/-- The queue has room for a store to these granules. -/
def Group.hasRoom (x : Group) (scratch : Bool) (parts : List (Nat × Nat × Nat)) : Bool :=
  x.queue.length + (parts.filter fun e =>
    !x.queue.any fun q => q.scratch == scratch && q.base == alignDown e.1 64).length ≤ 16

/-- A step fault of this lane stands first. A store that finds no room waits: the command comes again (R71, R264). -/
def State.storeLane (s : State) (t g lane : Nat) (scratch : Bool) (a : Nat) (data : List Byte) : State :=
  let parts := granules a data.length
  if !scratch || !s.outOfStore t a data.length then
    if !(s.groupAt t g).hasRoom scratch parts then s
    else s.withLane t g lane 1 fun _ _ s =>
      s.setGroup t g (parts.foldl (fun x e => x.enqueue scratch e.1 (slice data e.2.1 e.2.2)) (s.groupAt t g))
  else s.withLane t g lane 1 fun _ y s => s.stepFault t g lane 4 y.pc

/-- LANE_STORE (R264). -/
def execLaneStore (t : TileId) (g : Grp) (lane : Fin 32) (loc : Loc) (data : List Byte) (s : State) :
    Host.Outcome State Fault Refusal :=
  .next (match loc with
    | .scratch off => s.storeLane t g lane true off data
    | .mem pa => s.storeLane t g lane false pa data)

/-- STORE_QUEUE_DRAIN (R264): the entry at place `entry` of the group's queue. -/
def execStoreQueueDrain (t : TileId) (g : Grp) (entry : Nat) (s : State) : Host.Outcome State Fault Refusal :=
  match s.taskOn t, (s.groupAt t g).queue[entry]? with
  | some k, some e =>
    .next ((s.setQueue t g ((s.groupAt t g).queue.eraseIdx entry)).drainEntry t k.part e)
  | _, _ => .next s

/-! ## Fences (R260 to R262) -/

/-- FENCE: ordering 1 acquires, 2 releases, 3 does both in turn; ordering 0 and scopes 5 to 7 are ILLEGAL. -/
def execFence (t : TileId) (g : Grp) (ordering : BitVec 2) (scope : BitVec 3) (s : State) :
    Host.Outcome State Fault Refusal :=
  .next (s.withPath t g fun k y s =>
    let o := ordering.toNat
    let sc := scope.toNat
    if o = 0 || 4 < sc then s.stepFault t g (lowestLane y.mask) 3 y.pc
    else if o = 1 then s.acquire t sc
    else s.releaseThen t g k.part sc [] (.fence (o == 3)))

/-! ## Atomics and reductions (R159, R245, R270) -/

/-- The rounding mode that a 3-bit field selects (R132, R145). -/
def State.roundOf (s : State) (p : Nat) (f : Nat) : Nat := if f = 7 then s.laneRound p else f

/-- The memory operations of an instruction whose addresses are all mapped and on no spill page; else the partition
faults (R116, R163, R245). -/
def State.badOp (s : State) (t p : Nat) (ops : List LaneOp) : Option State :=
  ops.findSome? fun o => match o.loc with
    | .scratch _ => none
    | .mem pa =>
      match s.translate p pa with
      | none => some (s.unmapped p pa (some t))
      | some h =>
        let f : FaultInfo := { cause := 4, unitKind := 6, die := tileDie t, unit := tileHalf t % 2, tile := some t, address := pa }
        if h.spill then some (s.partitionFault p f) else none

/-- The operations of one atomic or reduce instruction, of the path at place `i`: they are performed once the release and the
sectors they need are done (R199, R261, R270). A lane's part of an instruction whose release is under way joins it. -/
def State.runOps (s : State) (t g i p : Nat) (ops : List LaneOp) (fn ty round release : Nat) (acquire : Option Nat)
    (reduction hint : Bool) : State :=
  match s.badOp t p ops with
  | some s => s
  | none =>
    let r := s.clearSectors t g p ops
    let go (scope : Nat) (keys : List Nat) (ops : List LaneOp) : State :=
      r.2.releaseAt t g i p scope (keys ++ r.1) (.atomic ops fn ty round acquire reduction hint)
    match (((s.groupAt t g).paths[i]?).map fun y => y.state : Option PathState) with
    | some (.waiting scope keys (.atomic before _ _ _ _ _ _)) => go scope keys (before ++ ops)
    | _ => go release [] ops

/-- ATOMIC (R270): one lane's atomic, with the release or acquire that its ordering names. An operation or type that
R245 does not allow does not decode (R82). -/
def execAtomic (t : TileId) (g : Grp) (op : LaneOp) (fn ty : BitVec 8) (round : BitVec 3) (ordering : BitVec 2)
    (scope : BitVec 3) (s : State) : Host.Outcome State Fault Refusal :=
  .next (s.withLane t g op.lane 2 fun k y s =>
    let f := fn.toNat
    let o := ordering.toNat
    let sc := scope.toNat
    let mode := s.roundOf k.part round.toNat
    let allowed := if f = fnSwap || f = fnCas then swapAllows ty.toNat else opAllows f ty.toNat && mode < 4
    let run (s : State) (p : Nat) : State :=
      s.runOps t g (((s.groupAt t g).pathOf op.lane).getD 0) p [op] f ty.toNat mode (if 2 ≤ o then sc else 0)
        (if o % 2 = 1 then some sc else none) false false
    if !allowed || 4 < sc then s.stepFault t g op.lane 3 y.pc
    else match op.loc with
      | .scratch off =>
        if s.outOfStore t off ((elemBytes ty.toNat).getD 0) then s.stepFault t g op.lane 4 y.pc
        else run s k.part
      | .mem _ => run s k.part)

/-- REDUCE (R159, R160): one posted reduction for each live lane. -/
def execReduce (t : TileId) (g : Grp) (fn ty : BitVec 8) (round : BitVec 3) (ops : List LaneOp) (s : State) :
    Host.Outcome State Fault Refusal :=
  .next (s.withPath t g fun k y s =>
    let mine := ops.filter fun o => y.mask.testBit o.lane
    let n := (elemBytes ty.toNat).getD 1
    let mode := s.roundOf k.part round.toNat
    let misaligned (o : LaneOp) : Bool := match o.loc with | .mem pa => pa % n != 0 | .scratch _ => true
    if !opAllows fn.toNat ty.toNat || 3 < mode || mine.any misaligned then
      s.stepFault t g ((mine.find? misaligned).elim (lowestLane y.mask) fun o => o.lane) 3 y.pc
    else s.runOps t g (s.groupAt t g).cur k.part mine fn.toNat ty.toNat mode 0 none true false)

/-- CAS_LOCK_HINT (R81): the lanes whose compare succeeds go on, the others park with the program counter at the
instruction. -/
def execCasLockHint (t : TileId) (g : Grp) (ty : BitVec 8) (ops : List LaneOp) (s : State) :
    Host.Outcome State Fault Refusal :=
  .next (s.withPath t g fun k y s =>
    let mine := ops.filter fun o => y.mask.testBit o.lane
    let n := (elemBytes ty.toNat).getD 0
    let scratchOnly := mine.all fun o => match o.loc with | .scratch _ => true | .mem _ => false
    let memOnly := mine.all fun o => match o.loc with | .mem _ => true | .scratch _ => false
    let beyond := mine.find? fun o => match o.loc with | .scratch off => s.outOfStore t off n | .mem _ => false
    if !swapAllows ty.toNat || mine.isEmpty || !(scratchOnly || memOnly) then s.stepFault t g (lowestLane y.mask) 3 y.pc
    else match beyond with
    | some o => s.stepFault t g o.lane 4 y.pc
    | none =>
      if memOnly then s.runOps t g (s.groupAt t g).cur k.part mine fnCas ty.toNat 0 0 none false true
      else
        let r := (inLaneOrder mine).foldl (fun (r : Nat × State) o => match o.loc with
          | .scratch off =>
            let q := r.2.scratchOp t g k.part off o fnCas ty.toNat 0
            (if q.1 = o.compare.toNat % 2 ^ (8 * n) then r.1 else setBit r.1 o.lane, q.2.giveLane t g o.lane q.1)
          | .mem _ => r) (0, s)
        let grs := mine.filterMap fun o => match o.loc with | .scratch off => some (o.lane.val, true, off / 64) | .mem _ => none
        r.2.finishCas t g (r.2.groupAt t g).cur r.1 grs)

/-! ## Pins (R218, R219) -/

/-- Pinned frames of owner `p` in the worst set of a line, the line itself left out. -/
def State.pinnedIn (s : State) (line : Nat) (bulk : Bool) (p : Nat) : Nat :=
  ((l3Sets line bulk).map fun x => ((s.sliceLines line).filter fun l =>
    l.pinned && l.owner == p && l.line != line && (l3Sets l.line l.bulk).contains x).length).foldl max 0

/-- The bytes of a pinned line that are not valid are filled. -/
def State.pinFill (s : State) (l : L3Line) : State :=
  if l.valid = fullMask l.bulk || (s.trackerOf l.line).isSome then s else s.track l.line l.bulk []

/-- One address is pinned: the status code of R218. -/
def State.pinLine (s : State) (p pa : Nat) : Nat × State :=
  match s.translate p pa with
  | none => (0, s.unmapped p pa)
  | some h =>
    let d := dpaDie h.addr
    if h.spill then (4, s.bump (fL3PartRefused_not_homed 0 p) 1)
    else
      let line := lineOf h.bulk h.addr
      match s.l3Line line with
      | some l =>
        if l.pinned then (1, s)
        else if s.pinShare d p < s.pinnedIn line h.bulk p + 1 then (2, s.bump (fL3PartRefused_share_full d p) 1)
        else
          let l := { l with pinned := true }
          if (s.mates l).isEmpty then (0, (s.putL3 l).pinFill l)
          else match (s.setL3 (s.coh.l3.filter fun x => x.line != line)).placeL3 l with
          | some s => (0, s.pinFill l)
          | none => (3, (s.evictL3 { l with pinned := false }).bump (fL3PartRefused_no_frame d p) 1)
      | none =>
        let new := s.blankLine line h.bulk true false
        if s.pinShare d p < s.pinnedIn line h.bulk p + 1 then
          -- refused, and the line is cached unpinned: its fill takes the frame
          (2, (if (s.trackerOf line).isSome then s else s.missLine line h.bulk []).bump (fL3PartRefused_share_full d p) 1)
        else match s.placeL3 new with
          | some s => (0, s.pinFill new)
          | none => (3, s.bump (fL3PartRefused_no_frame d p) 1)

/-- One address is unpinned. The slice encodes the line again at its next write (R219). -/
def State.unpinLine (s : State) (p pa : Nat) : Nat × State :=
  match s.translate p pa with
  | none => (6, s.unmapped p pa)
  | some h =>
    if h.spill then (4, s.bump (fL3PartRefused_not_homed 0 p) 1)
    else match s.l3Line (lineOf h.bulk h.addr) with
      | some l =>
        if l.pinned then (5, s.setL3 (s.coh.l3.map fun x => if x.line = l.line then x.unpin else x))
        else (6, s)
      | none => (6, s)

/-- The lanes of a pin or unpin instruction act in rising lane order, and each receives its status. -/
def State.pinLanes (s : State) (t g p mask : Nat) (addrs : List (Fin 32 × Nat))
    (f : State → Nat → Nat → Nat × State) : State :=
  (List.range 32).foldl (fun s i =>
    match addrs.find? fun e => e.1.val == i with
    | some e =>
      if mask.testBit i then
        let r := f s p e.2
        r.2.giveLane t g i r.1
      else s
    | none => s) s

/-- PIN (R218). -/
def execPin (t : TileId) (g : Grp) (addrs : List (Fin 32 × Nat)) (s : State) : Host.Outcome State Fault Refusal :=
  .next (s.withPath t g fun k y s => s.pinLanes t g k.part y.mask addrs State.pinLine)

/-- UNPIN (R218). -/
def execUnpin (t : TileId) (g : Grp) (addrs : List (Fin 32 × Nat)) (s : State) : Host.Outcome State Fault Refusal :=
  .next (s.withPath t g fun k y s => s.pinLanes t g k.part y.mask addrs State.unpinLine)

/-! ## Eyelets (R271 to R275) -/

/-- An instruction on partition eyelet `i`, outside which it is ILLEGAL (R272). -/
def State.withEyelet (s : State) (t g i : Nat) (f : Task → Nat → State → State) : State :=
  s.withPath t g fun k y s =>
    match s.eyeletOf k.part i with
    | none => s.stepFault t g (lowestLane y.mask) 3 y.pc
    | some e => f k e s

/-- EYE_ADD (R272): a release first where the ordering asks for one. -/
def execEyeAdd (t : TileId) (g : Grp) (eyelet n : Nat) (ordering : BitVec 2) (scope : BitVec 3) (s : State) :
    Host.Outcome State Fault Refusal :=
  .next (s.withEyelet t g eyelet fun k e s =>
    let x := s.groupAt t g
    let pc := ((x.paths[x.cur]?).map fun y => y.pc - 16).getD 0
    let mask := ((x.paths[x.cur]?).map fun y => y.mask).getD 0
    if 4 < scope.toNat then s.stepFault t g (lowestLane mask) 3 pc
    else
      let s := if 2 ≤ ordering.toNat then s.releaseThen t g k.part scope.toNat [] (.eyeAdd e n) else s.eyeCount e n
      if ordering.toNat = 1 || (ordering.toNat = 3) then s.acquire t scope.toNat else s)

/-- EYE_WAIT (R272): the path waits; a scope of 5 to 7 is ILLEGAL (R260). -/
def execEyeWait (t : TileId) (g : Grp) (eyelet target : Nat) (scope : BitVec 3) (s : State) :
    Host.Outcome State Fault Refusal :=
  .next (s.withEyelet t g eyelet fun _ e s =>
    let x := s.groupAt t g
    let y := (x.paths[x.cur]?).getD ⟨0, 0, [], .run⟩
    if 4 < scope.toNat then s.stepFault t g (lowestLane y.mask) 3 (y.pc - 16)
    else s.setGroup t g (x.setPath x.cur fun y => { y with state := .eyeWait e target scope.toNat }))

/-- EYE_WAIT_RESOLVE (R272, R275): OK with the acquire of the wait's scope when the count has reached the target and void
is clear, VOID when void is set. OK is returned as 0 and VOID as 1 (log entry 26). -/
def execEyeWaitResolve (t : TileId) (g : Grp) (path : Nat) (s : State) : Host.Outcome State Fault Refusal :=
  let x := s.groupAt t g
  match x.paths[path]? with
  | none => .next s
  | some y =>
    match y.state with
    | .eyeWait e target scope =>
      let v := s.eye e
      let go (s : State) (code : Nat) : State :=
        let x := s.groupAt t g
        let lanes := (List.range 32).filter fun i => y.mask.testBit i
        let vals := x.values.filter (fun w => !y.mask.testBit w.1) ++ lanes.map fun i => (i, code)
        s.setGroup t g ({ x.setPath path fun y => { y with state := .run } with values := vals }.advance)
      let d := e / 32768
      if v.void then .next ((go s 1).addTo (fEyeCntVoid_count d) 1)
      else if target ≤ v.count then .next (((go s 0).addTo (fEyeCntOk_count d) 1).acquire t scope)
      else .next s
    | _ => .next s

/-- EYE_ARM (R272). -/
def execEyeArm (t : TileId) (g : Grp) (eyelet value : Nat) (s : State) : Host.Outcome State Fault Refusal :=
  .next (s.withEyelet t g eyelet fun _ e s => s.setEye e ⟨value % 2 ^ 63, false⟩)

/-- EYE_READ (R272): the count, and void in bit 63 as EYE_VAL shows them (R281). -/
def execEyeRead (t : TileId) (g : Grp) (eyelet : Nat) (s : State) : Host.Outcome State Fault Refusal :=
  .next (s.withEyelet t g eyelet fun _ e s =>
    let v := s.eye e
    let x := s.groupAt t g
    let mask := ((x.paths[x.cur]?).map fun y => y.mask).getD 0
    s.setGroup t g { x with values := ((List.range 32).filter fun i => mask.testBit i).map fun i =>
      (i, v.count + if v.void then 2 ^ 63 else 0) })

end Sys2Proof.Machine
end

