-- ==== Sys2Proof/Machine/Arith.lean ====
section
/-! DEFINITION. Lane conversion and arithmetic (R132 to R146). -/

namespace Sys2Proof.Machine

/-- Flags enter the lane status word of a group (R146): bits 0 to 3, kept for the rest of the step. -/
def State.laneFlags (s : State) (t g : Nat) (f : Flags) : State :=
  let x := s.groupAt t g
  s.setGroup t g { x with status := x.status ||| f.bits % 16 }

/-- One value returns to every lane of a path. -/
def State.giveAll (s : State) (t g mask v : Nat) : State :=
  let x := s.groupAt t g
  s.setGroup t g { x with values := ((List.range 32).filter fun i => mask.testBit i).map fun i => (i, v) }

/-- A lane format: every format of R122 other than RAW. -/
def laneFmt (code : Nat) : Option Fmt := (fmtOf code).bind fun f => if f = .raw then none else some f

/-- The rounding mode of a lane instruction, `none` where the field or the mode is ILLEGAL (R145). -/
def State.laneMode (s : State) (p round : Nat) (dst : Fmt) : Option Nat :=
  let m := s.roundOf p round
  if m = 4 && dst.scaled then none else if m ≤ 4 then some m else none

/-- What an operand of CONVERT names: a format of the lanes, or `none` inside for E8M0. -/
def convFmt : ConvFmt → Option (Option Fmt)
  | .code c => (laneFmt c.toNat).map some
  | .e8m0 => some none

/-- The rounding mode of a conversion: E8M0 takes no RTO (R145). -/
def State.convMode (s : State) (p round : Nat) (dst : Option Fmt) : Option Nat :=
  match dst with
  | some b => s.laneMode p round b
  | none => if s.roundOf p round < 4 then some (s.roundOf p round) else none

/-- A conversion into E8M0; where the spec states no result, it is a free value. -/
def State.convertScale (s : State) (mode : Nat) (v : Val) : (Nat × Flags) × State :=
  let r := match e8m0Write mode v with
    | some c => (c, s)
    | none => (s.draw.1 % 256, s.draw.2)
  let differs := match v, e8m0Read r.1 with
    | .nan _, .nan _ => false
    | .fin n m e, .fin n' m' e' => !sameNumber n m e n' m' e'
    | _, _ => true
  ((r.1, { invalid := v == .nan true, inexact := differs }), r.2)

/-- CONVERT (R136 to R138, R145). -/
def execConvert (t : TileId) (g : Grp) (src dst : ConvFmt) (x : Word) (srcScale dstScale : Byte) (round : BitVec 3)
    (s : State) : Host.Outcome State Fault Refusal :=
  .next (s.withPath t g fun k y s =>
    match convFmt src, convFmt dst with
    | some a, some b =>
      match s.convMode k.part round.toNat b with
      | some m =>
        let sat := s.satMode k.part
        let r := match a, b with
          | some a, some b => (convertElem a b m sat x.toNat srcScale.toNat dstScale.toNat, s)
          | none, some b => (b.write m sat dstScale.toNat (e8m0Read x.toNat), s)
          | some a, none => s.convertScale m (a.read x.toNat srcScale.toNat)
          | none, none => s.convertScale m (e8m0Read x.toNat)
        (r.2.laneFlags t g r.1.2).giveAll t g y.mask r.1.1
      | none => s.stepFault t g (lowestLane y.mask) 3 y.pc
    | _, _ => s.stepFault t g (lowestLane y.mask) 3 y.pc)

/-- BLOCK_CONVERT (R141, R142): at most 32 values become one block, rounded in the output rounding mode. The code of
element i returns to lane i, and the block's scale as value 32 (log entry 27). -/
def execBlockConvert (t : TileId) (g : Grp) (src dst : BitVec 8) (xs : List Word) (srcScale : Byte) (round : BitVec 3)
    (s : State) : Host.Outcome State Fault Refusal :=
  .next (s.withPath t g fun k y s =>
    match laneFmt src.toNat, laneFmt dst.toNat with
    | some a, some b =>
      if !b.scaled || (s.laneMode k.part round.toNat b).isNone then s.stepFault t g (lowestLane y.mask) 3 y.pc
      else
        let vs := (xs.take 32).map fun x => a.source x.toNat srcScale.toNat
        let r := blockConvert b (s.outRound k.part) (s.satMode k.part) vs
        let s := s.laneFlags t g r.2.2
        let z := s.groupAt t g
        s.setGroup t g { z with values := (r.2.1.zipIdx.map fun e => (e.2, e.1)) ++ [(32, r.1)] }
    | _, _ => s.stepFault t g (lowestLane y.mask) 3 y.pc)

/-- MIN_MAX (R143): the chosen operand with its own code where its scale is the destination's, else re-encoded under
R137, in a rounding mode that is a free pick among those that R132 gives every format (log entry 28). -/
def execMinMax (t : TileId) (g : Grp) (fmt : BitVec 8) (isMax : Bool) (a b : Word) (aScale bScale dstScale : Byte)
    (s : State) : Host.Outcome State Fault Refusal :=
  .next (s.withPath t g fun k y s =>
    match laneFmt fmt.toNat with
    | none => s.stepFault t g (lowestLane y.mask) 3 y.pc
    | some f =>
      let va := f.read a.toNat aScale.toNat
      let vb := f.read b.toNat bScale.toNat
      let fl : Flags := { invalid := sNan va || sNan vb }
      let pick := if f.scaled then s.pick 0 [0, 1, 2, 3] else (0, s)
      let put (s : State) (r : Nat × Flags) : State := (s.laneFlags t g (r.2.or fl)).giveAll t g y.mask r.1
      let from_ (x : Word) (sc : Byte) : State :=
        if !f.scaled then put s (x.toNat % 2 ^ f.bits, {})
        else if sc = dstScale then put s (x.toNat % 2 ^ f.bits, {})
        else put pick.2 (convertElem f f pick.1 (s.satMode k.part) x.toNat sc.toNat dstScale.toNat)
      match chooseMinMax isMax va vb with
      | some true => from_ a aScale
      | some false => from_ b bScale
      | none => put s (f.write 0 (s.satMode k.part) dstScale.toNat (.nan false)))

/-- The exact result of a lane arithmetic operation on operands that are no NaN; `none` where IEEE 754 calls the
operation invalid. -/
def arithVal (op : ArithOp) (mode : Nat) (a b c : Val) : Option Val :=
  match op with
  | .add => addVal mode a b
  | .sub => addVal mode a b.negate
  | .mul => mulVal a b
  | .div => divVal a b
  | .sqrt => sqrtVal a
  | .fma => (mulVal a b).bind fun p => addVal mode p c

/-- The operands that an operation reads. -/
def arithOperands (op : ArithOp) (a b c : Val) : List Val :=
  match op with
  | .sqrt => [a]
  | .fma => [a, b, c]
  | _ => [a, b]

/-- Whether a fused multiply-add of a quiet NaN addend and an invalid product sets invalid is open in IEEE 754
(log entry 29). -/
def openInvalid (op : ArithOp) (a b c : Val) : Bool :=
  op == .fma && c.isNan && !a.isNan && !b.isNan && (mulVal a b).isNone

/-- LANE_ARITHMETIC (R145): binary64 and binary32, correctly rounded under IEEE 754. -/
def execLaneArithmetic (t : TileId) (g : Grp) (op : ArithOp) (fmt : BitVec 8) (a b c : Word) (round : BitVec 3)
    (s : State) : Host.Outcome State Fault Refusal :=
  .next (s.withPath t g fun k y s =>
    match laneFmt fmt.toNat with
    | some (.binary f) =>
      match s.laneMode k.part round.toNat (.binary f) with
      | some m =>
        if fmt.toNat ≠ 1 && fmt.toNat ≠ 2 then s.stepFault t g (lowestLane y.mask) 3 y.pc
        else
          let va := f.read a.toNat
          let vb := f.read b.toNat
          let vc := f.read c.toNat
          match nanOf (arithOperands op va vb vc) with
          | some fl =>
            let r := if openInvalid op va vb vc && !fl.invalid then s.pick 0 [0, 1] else (0, s)
            (r.2.laneFlags t g { fl with invalid := fl.invalid || r.1 == 1 }).giveAll t g y.mask (f.nanCode.getD 0)
          | none =>
            let r := f.finish m 1 (arithVal op m va vb vc)
            (s.laneFlags t g r.2).giveAll t g y.mask r.1
      | none => s.stepFault t g (lowestLane y.mask) 3 y.pc
    | _ => s.stepFault t g (lowestLane y.mask) 3 y.pc)

end Sys2Proof.Machine
end

