-- ==== Sys2Proof/Machine/Agree.lean ====
section
/-! DEFINITION. The agreement checks of R63, each as the list of the check codes that fail against the values that
would be in force at the next tick (R58). Where several fail, the device reports one of them (log entry 17). -/

namespace Sys2Proof.Machine

/-! ## The values of the next tick (R58) -/

/-- The device last that will be in force at the next tick. -/
def State.devNext (s : State) : Option DeviceLast :=
  match s.ldr.staged with
  | some (.device l) => if s.cfg.accepted.any (fun c => c.viaLoader && c.group == 0) then some l else s.dev
  | _ => s.dev

/-- A field's value at the next tick, given the group whose accepted commit may change it. -/
def State.nextVal (s : State) (group : Nat) (f : Fld) : Nat :=
  match s.cfg.accepted.find? fun c => c.group == group with
  | some c => match c.fields.find? fun e => e.1 == f.key with
    | some e => e.2
    | none => s.get f
  | none => s.get f

/-- The stitch of the next tick: period, slack, source (R56 before any device last). -/
def State.stitchNext (s : State) : Nat × Nat × Nat :=
  match s.devNext with
  | some l => (l.period, l.slack, l.source)
  | none => (s.get fStchPeriod_period_us, s.get fStchSlack_slack_permille, s.get fStchSource_source)

/-- The PARTITIONS entry of partition `p` in a device last. -/
def DeviceLast.entry (l : DeviceLast) (p : Nat) : List Byte := if l.defined.testBit p then l.parts.getD p [] else []

/-- The device sites of a PARTITIONS entry. -/
def entrySites (e : List Byte) : List Nat := (List.range 2176).filter (entryHasSite e)

/-! ## DEVICE_LAST -/

/-- DRAM extents on die `d`: PAGES entries (R208) and program areas (R366). -/
def DeviceLast.extents (l : DeviceLast) (d : Nat) : List (Nat × Nat) :=
  l.pages.filterMap (fun e => e.extent d) ++ (List.range 16).filterMap fun p =>
    let e := l.entry p
    if l.defined.testBit p && field e 1 1 == d then some (field e 8 8, 2 * field e 16 4) else none

/-- Ranges (first, length) share no point. -/
def disjoint (a b : Nat × Nat) : Bool := a.1 + a.2 ≤ b.1 || b.1 + b.2 ≤ a.1 || a.2 == 0 || b.2 == 0

def pairwiseB {α : Type} (r : α → α → Bool) : List α → Bool
  | [] => true
  | x :: xs => xs.all (r x) && pairwiseB r xs

/-- What a kept partition must leave unchanged (R367). -/
def DeviceLast.keptParts (l : DeviceLast) (p : Nat) : List Byte × List PageEnt × List (Nat × Nat) :=
  (l.entry p, l.pages.filter (fun e => e.part == p), (l.eyelets.drop (p * 8)).take 8)

def sumOf (ns : List Nat) : Nat := ns.foldl (· + ·) 0

/-- The checks of a device last that fail. -/
def State.deviceChecks (s : State) (l : DeviceLast) : List Nat :=
  let ps := (List.range 16).filter l.defined.testBit
  let share (d p : Nat) := l.shares.getD (d * 16 + p) (0, 0)
  let dies := List.range 8
  let fail (code : Nat) (bad : Bool) : List Nat := if bad then [code] else []
  let ways := dies.any fun d => 16 < sumOf ((List.range 16).map fun p => (share d p).1)
  let pins := dies.any fun d => 12 < sumOf ((List.range 16).map fun p => (share d p).2) ||
    (List.range 16).any fun p => (share d p).1 < (share d p).2
  let pages := !dies.all fun d => pairwiseB disjoint (l.extents d)
  let sets := ps.map fun p => entrySites (l.entry p)
  let tiles := !pairwiseB (fun a b => a.all fun t => !b.contains t) sets || sets.any fun a => a.any fun t => siteX (tileSite t) == 16
  let eyes := !dies.all fun d => pairwiseB disjoint (ps.map fun p => l.eyelets.getD (p * 8 + d) (0, 0))
  let band := (l.ports.any fun p => 100 < sumOf p.shares) || l.welts.any fun w => 100 < sumOf w.shares
  let span := l.welts.zipIdx.any fun e => e.1.mode == 1 && (entrySites (l.entry e.1.part)).any fun t =>
    tileDie t != (weltDies (e.2 / 16)).1 && tileDie t != (weltDies (e.2 / 16)).2
  let fns := ps.map fun p => field (l.entry p) 0 1
  let func := !pairwiseB (· != ·) fns || fns.any fun f => f < 1 || 16 < f
  let range := l.period < 5 || 100 < l.period || l.slack < 20 || 250 < l.slack || 2 < l.source
  let kept (p : Nat) : Bool := match s.devNext with | some o => o.defined.testBit p && l.defined.testBit p | none => false
  let changed := match s.devNext with
    | some o => (List.range 16).any fun p => kept p && o.keptParts p != l.keptParts p
    | none => false
  let (per, slk, _) := s.stitchNext
  let inUse := (l.period != per || l.slack != slk) && (List.range 16).any fun p => kept p &&
    match s.lastOf p with
    | some x => x.schedules.isSome || 1 < x.job.memberCount
    | none => false
  fail 0x01 ways ++ fail 0x02 pins ++ fail 0x03 pages ++ fail 0x04 tiles ++ fail 0x05 eyes ++ fail 0x06 band ++
    fail 0x07 span ++ fail 0x08 func ++ fail 0x09 range ++ fail 0x0A changed ++ fail 0x0B inUse ++
    fail 0x0C (!s.routesAgree l) ++ fail 0x0D (l.power.cap < 900 || 5400 < l.power.cap)

/-! ## PART_LAST -/

/-- Every byte of a range lies in a page of the partition. -/
def pagesCover (pages : List PageEnt) (lo : Nat) : Nat → Nat → Bool
  | 0, _ => false
  | fuel + 1, hi =>
    if hi ≤ lo then true else
    -- the entry that holds the last byte, then the part before it
    match pages.find? fun e => e.covers (hi - 1) with
    | some e => if e.pa ≤ lo then true else pagesCover pages lo fuel e.pa
    | none => false

/-- The pages of partition `p` at the next tick. -/
def State.pagesNext (s : State) (p : Nat) : List PageEnt :=
  match s.devNext with
  | some l => l.pages.filter fun e => e.part == p
  | none => []

def covered (pages : List PageEnt) (lo n : Nat) : Bool := pagesCover pages lo (pages.length + 1) (lo + n)

/-- JOB_ROLE (R342, R340). -/
def State.jobRoleFails (s : State) (l : PartLast) : Bool :=
  let j := l.job
  let p := l.part
  let (_, _, source) := s.stitchNext
  let ports := j.qps.map (·.port) ++ j.children.map (·.port) ++ (j.parent.map (·.port)).toList
  let share (k : Nat) : Nat := match s.devNext with
    | some d => ((d.ports[k]?).map fun e => e.shares.getD p 0).getD 0
    | none => 0
  let ptp : Nat := match s.devNext with | some d => d.portsHdr.ptpDomain | none => 0
  let pages := s.pagesNext p
  let others := (List.range 16).any fun q => q != p && match s.lastOf q with
    | some x => 1 < x.job.memberCount && (match s.devNext with | some d => d.defined.testBit q | none => false)
    | none => false
  (j.role != 1 && j.role != 2) || (j.role == 1 && (j.member != 0 || !(zeroBytes j.parentRaw 0 16))) ||
    (j.role == 2 && (j.member == 0 || j.level == 0)) || (j.memberCount == 1 && (!j.children.isEmpty || !j.qps.isEmpty)) ||
    (j.memberCount == 1 && j.role != 1) || (1 < j.memberCount && (source != 2 || others)) ||
    (j.level == 3 && !j.children.isEmpty) ||
    ports.any (fun k => share k == 0) || j.ptpDomain != ptp ||
    j.qps.any (fun q => q.recvBase != 0 && q.recvSlots != 0 && !covered pages q.recvBase (64 + q.recvSlots * q.slotBytes)) ||
    j.windows.any fun w => !covered pages w.base w.length

/-- The checks of a partition last that fail. -/
def State.partChecks (s : State) (l : PartLast) : List Nat :=
  let entry := match s.devNext with | some d => d.entry l.part | none => []
  let (per, slk, _) := s.stitchNext
  let sched := ((l.schedules.getD []).map fun shapes =>
    match shapes with
    | [] => 0x0F
    | sh :: _ => s.schedCheck l.part entry sh).filter (· != 0)
  let m := l.modes
  sched.eraseDups ++ (if l.period != per || l.slack != slk then [0x11] else []) ++
    (if 2 < field m 0 1 || 3 < field m 1 1 || 4 < field m 2 1 then [0x12] else []) ++
    (if s.jobRoleFails l then [0x13] else [])

/-! ## PWR and RING -/

/-- The checks of a PWR snapshot that fail: cap and floor of the snapshot. Before any device last, no last caps it. -/
def State.pwrChecks (s : State) (cap floor : Nat) : List Nat :=
  (if cap < 900 || 5400 < cap || (match s.devNext with | some l => l.power.cap < cap | none => false) then [0x0D] else []) ++
    (if cap < 8 * floor then [0x14] else [])

/-- A ring as a commit sees it: header address, entries, entry size. -/
structure RingView where
  base : Nat
  entries : Nat
  size : Nat
  enable : Bool

/-- The check RING over every enabled ring of a partition (log entry 18). -/
def State.ringChecks (s : State) (p : Nat) (rings : List RingView) : List Nat :=
  let on := rings.filter (·.enable)
  let span (r : RingView) : Nat × Nat := (r.base, 64 + r.entries * r.size)
  let bad := on.any fun r => r.entries < 16 || 65536 < r.entries || !(r.entries &&& (r.entries - 1) == 0) ||
    !covered (s.pagesNext p) r.base (64 + r.entries * r.size)
  if bad || !pairwiseB disjoint (on.map span) then [0x15] else []

end Sys2Proof.Machine
end

