-- ==== Sys2Proof/Machine/Slices.lean ====
section
/-! DEFINITION. Awl slices as attempts of a pass: their units, what they borrow, and how an attempt ends (R446 to R456). -/

namespace Sys2Proof.Machine

def State.setAwl (s : State) (a : AwlSt) : State := { s with awl := a }

/-! ## Units (R446) -/

/-- The welted edges of a die in the order north, east, south, west. -/
def weltedEdges (d : Nat) : List Nat := (List.range 4).filter fun e => (weltAt d e).isSome

/-- The population of slice kind `k` on die `d`. -/
def population (d k : Nat) : Nat :=
  match k with
  | 0 => 4352
  | 1 => 16384
  | 2 => 7168
  | 3 => 16 * (weltedEdges d).length
  | 4 => 2
  | 5 => if d = 0 || d = 4 then 4 else 0
  | _ => 1

/-- Length of a slice in thousandths of a ns, at the state of its die. -/
def sliceLen (k mhz : Nat) : Nat :=
  match k with
  | 0 => ceilDiv 256000000 mhz
  | 1 => ceilDiv 192000000 mhz
  | 2 => 240000
  | 6 => 120000
  | _ => 200000

/-- The tile that a TILE unit belongs to, and the offset of its segment. -/
def sliceTile (d unit : Nat) : Nat := d * 272 + unit / 16
def segmentOff (unit : Nat) : Nat := unit % 16 * 65536

/-- The edge and the group of a WELT unit. -/
def weltUnit (d unit : Nat) : Nat × Nat := ((weltedEdges d).getD (unit / 16) 0, unit % 16)

/-! ## The end of an attempt (R455, R456) -/

def State.sliceOn (s : State) (d k : Nat) : Option SliceRun := s.awl.running.find? fun r => r.die == d && r.kind == k

/-- The attempt on the last unit completes the pass. -/
def State.passEnds (s : State) (d k unit : Nat) : State :=
  if unit + 1 ≠ population d k then s
  else
    let res := s.get (fAwlPass_results d k)
    let deficit := s.get (fAwlPass_deficit d k)
    let failed := mapGet 0 s.awl.failed (d * 8 + k)
    let s := s.setAll [(fAwlLast_results d k, res), (fAwlLast_failed d k, failed), (fAwlLast_deficit d k, deficit),
      (fAwlPass_results d k, 0), (fAwlPass_deficit d k, 0)]
    let s := s.setAwl { s.awl with failed := mapSet 0 s.awl.failed (d * 8 + k) 0 }
    (s.bump (fAwlPos_passes d k) 1).event (0x20 + d) 0x67 k (res * 2 ^ 32 + deficit)

/-- An attempt ends with a result, or with none. -/
def State.attemptResult (s : State) (d k unit : Nat) : State := (s.addTo (fAwlPass_results d k) 1).passEnds d k unit
def State.attemptDeficit (s : State) (d k unit : Nat) : State := (s.addTo (fAwlPass_deficit d k) 1).passEnds d k unit

/-- A slice stops: a borrowed tile returns to its former state, and `ns` are added to the time in slices. -/
def State.stopSlice (s : State) (r : SliceRun) (ns : Nat) : State :=
  let s := s.setAwl { s.awl with running := s.awl.running.erase r }
  let s := (s.setBitOf (fAwlStatus_running r.die) r.kind false).addTo (fAwlTime_ns r.die r.kind) ns
  let t := sliceTile r.die r.unit
  if r.kind = 0 && s.get (fTileState_state r.die (tileSite t)) = 6 then s.setTileCode t r.former else s

/-- A running slice aborts (R452): no result, one deficit. -/
def State.abortSlice (s : State) (r : SliceRun) : State :=
  (s.stopSlice r (s.clock.now - r.started)).attemptDeficit r.die r.kind r.unit

/-- The slices of a die abort. -/
def State.abortSlices (s : State) (f : SliceRun → Bool) : State :=
  (s.awl.running.filter f).foldl State.abortSlice s

/-- SLICE_ABORT (R452). -/
def execSliceAbort (d : Die) (kind : Fin 7) (s : State) : Host.Outcome State Fault Refusal :=
  match s.sliceOn d kind with
  | none => .next s
  | some r => .next (s.abortSlice r)

end Sys2Proof.Machine
end

