-- ==== Sys2Proof/Machine/Dot.lean ====
section
/-! DEFINITION. Dot products (R147 to R158): products, the wide accumulator and its raw image (R104, R151), the order of
accumulation, and the output conversion of a pass. -/

namespace Sys2Proof.Machine

/-! ## Raw images (R104, R151) -/

/-- The image of a finite accumulator. -/
def rawFin (neg : Bool) (x : Int) (sig : Nat) : Nat := (if neg then 2 ^ 63 else 0) + toSigned 12 x * 2 ^ 48 + sig

def rawZero (neg : Bool) : Nat := rawFin neg (-2048) 0
def rawInf (neg : Bool) : Nat := (if neg then 2 ^ 63 else 0) + 2 ^ 60
def rawNan : Nat := 2 ^ 61

/-- The value of an image; class 3 reads as a NaN. -/
def rawRead (img : Nat) : Val :=
  let neg := img.testBit 63
  let cls := bitsAt img 60 2
  if cls = 0 then
    let sig := bitsAt img 0 48
    .fin neg sig (if sig = 0 then 0 else signedAt 12 (bitsAt img 48 12) - 47)
  else if cls = 1 then .inf neg
  else .nan (cls == 3)

/-- Rounding of T ≠ 0 to odd at 48 bits, with a sticky bit (R153). -/
def roundOdd48 (neg : Bool) (m : Nat) (e : Int) (sticky : Bool) : Nat :=
  let x := floorLog m e
  if 2047 < x then rawFin neg 2047 (2 ^ 48 - 1) else
  let x := max x (-2048)
  let (sig, lost) := roundAt 1 neg m e (x - 47)
  rawFin neg x (if lost || sticky then sig ||| 1 else sig)

/-- A value as the device writes its image: a loaded form is normalised (R151). -/
def rawOf (v : Val) : Nat :=
  match v with
  | .nan _ => rawNan
  | .inf n => rawInf n
  | .fin n m e => if m = 0 then rawZero n else roundOdd48 n m e false

/-! ## Products (R148, R149) -/

/-- A ZL operand of a product: sign, and its log in units of 2^-8. -/
def zlProduct (fa : Nat) (fb : Nat) (ba bb : Nat) (ca cb sa sb : Nat) : Option Val :=
  match zlLog ba ca, zlLog bb cb with
  | some la, some lb =>
    some (zlLinear (ca.testBit (ba - 1) != cb.testBit (bb - 1)) (zlUnits fa la sa + zlUnits fb lb sb))
  | _, _ => none

/-- A zero of this format has no negative form. -/
def Fmt.plainZero : Fmt → Bool
  | .zl _ _ => true
  | .mxInt => true
  | _ => false

/-- The product of two elements with their scales; `none` for 0 × ∞, which R148 makes a NaN. -/
def productOf (fa fb : Fmt) (ca cb sa sb : Nat) : Option Val :=
  let a := fa.read ca sa
  let b := fb.read cb sb
  let zeroPlus : Bool := match a, b with
    | .fin _ m _, .fin _ m' _ => (m == 0 && fa.plainZero) || (m' == 0 && fb.plainZero)
    | _, _ => false
  if zeroPlus then some (.fin false 0 0)
  else match fa, fb with
    | .zl ba xa, .zl bb xb =>
      match zlProduct xa xb ba bb ca cb sa sb with
      | some p => some p
      | none => mulVal a b
    | _, _ => mulVal a b

/-! ## Accumulation (R153 to R155) -/

/-- The signs of the infinities among products. -/
def infSigns (ps : List Val) : List Bool := ps.filterMap fun p => match p with | .inf n => some n | _ => none

/-- The group sum of finite non-zero products: W × q as (W, exponent of q), and the sticky bit. -/
def groupSum (ps : List (Bool × Nat × Int)) : Int × Int × Bool :=
  match ps with
  | [] => (0, 0, false)
  | _ =>
    let q := maxInt 0 (ps.map fun p => floorLog p.2.1 p.2.2) - 121
    let parts := ps.map fun p => (p.1, roundAt 1 p.1 p.2.1 p.2.2 q)
    (parts.foldl (fun (w : Int) p => if p.1 then w - p.2.1 else w + p.2.1) 0, q, parts.any fun p => p.2.2)

/-- One group added into an accumulator; `none` among the products is the NaN of 0 × ∞. The second result says that the
group itself made a NaN, which sets invalid. -/
def accumulate (acc : Nat) (ps : List (Option Val)) : Nat × Bool :=
  let a := rawRead acc
  let vs := ps.filterMap id
  let bad := ps.any (·.isNone) || vs.any Val.isNan
  let infs := infSigns (if a.isNan then vs else a :: vs)
  let clash := infs.contains true && infs.contains false
  if bad || clash then (rawNan, true)
  else if a.isNan then (rawNan, false)
  else match infs with
    | n :: _ => (rawInf n, false)
    | [] =>
      match a with
      | .fin n m e =>
        let (w, q, sticky) := groupSum (finites vs)
        let base := min (if m = 0 then q else e) q
        let t := signedInt n m e base + w * 2 ^ (q - base).toNat
        if t = 0 then
          let allNeg := m == 0 && n && vs.all fun v => match v with | .fin vn vm _ => vn && vm == 0 | _ => false
          (rawZero allNeg, false)
        else (roundOdd48 (decide (t < 0)) t.natAbs base sticky, false)
      | _ => (acc, false)

/-! ## Elements in the tile store (R104) -/

/-- Bytes of `n` elements of a row: 6-bit elements take a byte each. -/
def rowBytes (f : Fmt) (n : Nat) : Nat :=
  match f.bits with
  | 4 => (n + 1) / 2
  | 6 => n
  | b => n * (b / 8)

/-- Element `i` of a row. -/
def elemAt (f : Fmt) (row : List Byte) (i : Nat) : Nat :=
  match f.bits with
  | 4 => bitsAt (field row (i / 2) 1) (4 * (i % 2)) 4
  | 6 => field row i 1 % 64
  | b => field row (i * (b / 8)) (b / 8)

/-- A row of elements as bytes. -/
def packRow (f : Fmt) (cs : List Nat) : List Byte :=
  match f.bits with
  | 4 => (List.range ((cs.length + 1) / 2)).map fun i => BitVec.ofNat 8 (cs.getD (2 * i) 0 + 16 * cs.getD (2 * i + 1) 0)
  | 6 => cs.map (BitVec.ofNat 8)
  | b => cs.flatMap (toLE (b / 8))

/-! ## A pass (R100 to R102, R147) -/

/-- What the passes read: bytes of scratch from an offset. -/
abbrev Reader := Nat → Nat → List Byte

/-- The scale of block `i` from a scale offset, 0 for a format without scales. -/
def scaleAt (rd : Reader) (f : Fmt) (off i : Nat) : Nat := if f.scaled then field (rd (off + i) 1) 0 1 else 0

/-- A finite product exceeds the limit of R157 for an output format. -/
def exceeds (out : Fmt) (v : Val) : Bool :=
  match v with
  | .fin _ m e =>
    if m = 0 then false else
    match out with
    | .binary f => match f.read f.maxCode with | .fin _ mm me => magCompare m e mm me == .gt | _ => false
    | .mx f => match f.read f.maxCode with | .fin _ mm me => magCompare m e mm (me + 127) == .gt | _ => false
    | .mxInt => magCompare m e 127 (127 - 6) == .gt
    | .zl b fr =>
      let lim := zlMax b + 127 * 2 ^ fr
      let lo := logFloor fr m e
      decide (lim < lo) || (lo == lim && 2 ^ Nat.log2 m != m)
    | .raw => false
  | _ => false

/-- What a pass computes for one output element: the accumulator, whether invalid was set, whether a NaN accumulator
arrived through the bank, and whether a finite product exceeds the limit of R157. -/
structure Cell where
  img : Nat
  invalid : Bool
  inherited : Bool
  beyond : Bool

/-- The accumulator of element (i, j): groups of 32 products in rising k (R147). -/
def passCell (d : PassDesc) (fa fb out : Fmt) (rd : Reader) (start : Nat) (i j : Nat) : Cell :=
  let rowA := rd (d.aOff + i * d.aStride) (rowBytes fa d.k)
  let group (g : Nat) : List (Option Val) :=
    let sa := scaleAt rd fa d.aScale (i * (d.k / 32) + g)
    let sb := scaleAt rd fb d.bScale (g * d.n + j)
    (List.range 32).map fun x =>
      let k := 32 * g + x
      productOf fa fb (elemAt fa rowA k) (elemAt fb (rd (d.bOff + k * d.bStride) (rowBytes fb d.n)) j) sa sb
  (List.range (d.k / 32)).foldl (fun c g =>
    let ps := group g
    let r := accumulate c.img ps
    { img := r.1, invalid := c.invalid || r.2, inherited := c.inherited && !r.2,
      beyond := c.beyond || (ps.filterMap id).any (exceeds out) })
    { img := start, invalid := false, inherited := (rawRead start).isNan, beyond := false }

/-- The start of an accumulator (R152): its image and whether a class-3 image was loaded. -/
def passStart (d : PassDesc) (rd : Reader) (bank : Nat → Nat → Nat) (i j : Nat) : Nat × Bool :=
  if d.init = 0 then (rawZero false, false)
  else if d.init = 1 then (bank i j, false)
  else
    let v := rawRead (field (rd (d.outOff + i * d.outStride + 8 * j) 8) 0 8)
    (rawOf v, v == .nan true)

/-- An element read back is the value converted. -/
def Val.same (a b : Val) : Bool :=
  match a, b with
  | .nan _, .nan _ => true
  | .inf x, .inf y => x == y
  | .fin n1 m1 e1, .fin n2 m2 e2 => sameNumber n1 m1 e1 n2 m2 e2
  | _, _ => false

/-- Some element of a row, read back with its scale, differs from its value (R158). -/
def rowDiffers (out : Fmt) (scale : Nat) (codes : List Nat) (vals : List Val) : Bool :=
  (codes.zip vals).any fun e => !(out.read e.1 scale).same e.2

/-- The output conversion of one row (R156 to R158): element bytes, scale bytes, flags. -/
def convertRow (out : Fmt) (outRound sat : Nat) (cs : List Cell) : List Byte × List Byte × Flags :=
  let nanFlags (c : Cell) : Flags :=
    if (rawRead c.img).isNan && out != .raw then { invalid := c.inherited, overflow := !c.inherited && c.beyond } else {}
  let own : Flags := cs.foldl (fun a c => a.or (nanFlags c)) {}
  let vals := cs.map fun c => match rawRead c.img with | .nan _ => Val.nan false | v => v
  match out with
  | .raw => (cs.flatMap fun c => toLE 8 c.img, [], {})
  | .binary f =>
    let rs := vals.map (f.write outRound sat)
    (packRow out (rs.map fun r => r.1), [],
      { rs.foldl (fun (a : Flags) r => a.or r.2) own with inexact := rowDiffers out 0 (rs.map fun r => r.1) vals })
  | _ =>
    let blocks := (List.range (ceilDiv vals.length 32)).map fun b =>
      blockConvert out outRound sat (((vals.drop (32 * b)).take 32).map fun v => ⟨v, none⟩)
    (packRow out (blocks.flatMap fun b => b.2.1), blocks.map fun b => BitVec.ofNat 8 b.1,
      { blocks.foldl (fun (a : Flags) b => a.or b.2.2) own with
        inexact := blocks.zipIdx.any fun b => rowDiffers out b.1.1 b.1.2.1 ((vals.drop (32 * b.2)).take 32) })

/-- What a pass leaves: the accumulator images by row, its writes to scratch as (offset, bytes), its flags. -/
structure PassResult where
  rows : List (List Nat)
  writes : List (Nat × List Byte)
  flags : Flags

/-- A whole pass. -/
def passRun (d : PassDesc) (fa fb out : Fmt) (rd : Reader) (bank : Nat → Nat → Nat) (outRound sat : Nat) : PassResult :=
  let cells := (List.range d.m).map fun i => (List.range d.n).map fun j =>
    let (start, bad) := passStart d rd bank i j
    let c := passCell d fa fb out rd start i j
    { c with invalid := c.invalid || bad }
  let conv := cells.map (convertRow out outRound sat)
  let writes := if !d.write then [] else
    conv.zipIdx.flatMap fun r =>
      (d.outOff + r.2 * d.outStride, r.1.1) ::
        (if out.scaled then [(d.outScale + r.2 * ceilDiv d.n 32, r.1.2.1)] else [])
  let base : Flags := { invalid := cells.any fun row => row.any fun c => c.invalid }
  ⟨cells.map fun row => row.map fun c => c.img, writes,
    if d.write then conv.foldl (fun a r => a.or r.2.2) base else base⟩

/-- Bytes that a pass counts on its done eyelet (R107, R108). -/
def passCount (d : PassDesc) (out : Fmt) : Nat :=
  if d.write then d.m * rowBytes out d.n + (if out.scaled then d.m * ceilDiv d.n 32 else 0) else 1

end Sys2Proof.Machine
end

