-- ==== Sys2Proof/Machine/Product.lean ====
section
/-! DEFINITION. The product array: its descriptors, its queue and its passes (R100 to R112). -/

namespace Sys2Proof.Machine

/-- The four bytes that name no eyelet or no offset (R103, R114). -/
def noIndex : Nat := 0xFFFFFFFF

/-- A pass descriptor as scratch holds it (R103). -/
def readPass (b : List Byte) : PassDesc :=
  let fl := field b 3 1
  { aFmt := field b 0 1, bFmt := field b 1 1, outFmt := field b 2 1, init := bitsAt fl 0 2, write := fl.testBit 2,
    bank := bitsAt fl 3 1, m := field b 4 1, n := field b 5 1, k := field b 8 4, aOff := field b 12 4,
    aStride := field b 16 4, bOff := field b 20 4, bStride := field b 24 4, aScale := field b 28 4, bScale := field b 32 4,
    outOff := field b 36 4, outStride := field b 40 4, outScale := field b 44 4, gate := field b 48 4,
    done := field b 52 4, gateCount := field b 56 8 }

/-- Formats that may be product operands and product outputs (R122). -/
def operandFmt (code : Nat) : Option Fmt := if code = 0x01 || code = 0x02 || code = 0x30 then none else fmtOf code
def outputFmt (code : Nat) : Option Fmt := if code = 0x01 then none else fmtOf code

def Fmt.isZl : Fmt → Bool
  | .zl _ _ => true
  | _ => false

/-- A scale offset is present exactly for a block-scaled format. -/
def scaleOk (f : Fmt) (off : Nat) : Bool := f.scaled == (off != noIndex)

/-- An eyelet field names no eyelet or one of the partition's. -/
def State.eyeletOk (s : State) (p i : Nat) : Bool := i == noIndex || (s.eyeletOf p i).isSome

/-- The fields of a descriptor lie within R103 and the rows of R105 that raise ILLEGAL. -/
def State.passLegal (s : State) (p : Nat) (b : List Byte) (d : PassDesc) : Bool :=
  match operandFmt d.aFmt, operandFmt d.bFmt, outputFmt d.outFmt with
  | some fa, some fb, some fo =>
    bitsAt (field b 3 1) 4 4 == 0 && d.init ≤ 2 && zeroBytes b 6 2 && 1 ≤ d.m && d.m ≤ 64 && 1 ≤ d.n && d.n ≤ 64 &&
    32 ≤ d.k && d.k ≤ 65536 && d.k % 32 == 0 &&
    [d.aOff, d.aStride, d.bOff, d.bStride, d.outOff, d.outStride].all (fun x => x % 64 == 0) &&
    fa.isZl == fb.isZl && scaleOk fa d.aScale && scaleOk fb d.bScale && scaleOk fo d.outScale &&
    (d.init != 2 || fo == .raw) && s.eyeletOk p d.gate && s.eyeletOk p d.done
  | _, _, _ => false

/-- The end of every region that the pass reads or writes (R105); a 6-bit element takes its whole byte (log entry 31). -/
def PassDesc.ends (d : PassDesc) : List Nat :=
  match operandFmt d.aFmt, operandFmt d.bFmt, outputFmt d.outFmt with
  | some fa, some fb, some fo =>
    [d.aOff + (d.m - 1) * d.aStride + rowBytes fa d.k, d.bOff + (d.k - 1) * d.bStride + rowBytes fb d.n] ++
    (if d.write || d.init = 2 then [d.outOff + (d.m - 1) * d.outStride + rowBytes fo d.n] else []) ++
    (if fa.scaled then [d.aScale + d.m * ceilDiv d.k 32] else []) ++
    (if fb.scaled then [d.bScale + d.k / 32 * d.n] else []) ++
    (if fo.scaled && d.write then [d.outScale + d.m * ceilDiv d.n 32] else [])
  | _, _, _ => []

/-- The step fault of a descriptor at scratch offset `desc` whose bytes are `b`: where ILLEGAL and STORE_BOUNDS both
apply, either is raised (log entry 17). -/
def faultOf (s : State) (size desc : Nat) (legal : Bool) (ends : List Nat) : Option Nat × State :=
  let place := (if desc % 64 ≠ 0 then [3] else []) ++ (if size < desc + 64 then [4] else [])
  let codes := if !place.isEmpty then place
    else (if legal then [] else [3]) ++ (if ends.any fun e => size < e then [4] else [])
  if codes.isEmpty then (none, s) else let r := s.pick 3 codes; (some r.1, r.2)

/-- PASS_INSTRUCTION (R105, R106): a full queue leaves the group not ready. -/
def execPassInstruction (t : TileId) (g : Grp) (desc : Nat) (s : State) : Host.Outcome State Fault Refusal :=
  if 4 ≤ (s.tileAt t).passes.length then .next s else
  .next (s.withPath t g fun k y s =>
    let s := s.drainAll t g k.part
    let b := s.scratchRead t desc 64
    let d := readPass b
    match faultOf s (s.scratchSize t) desc (s.passLegal k.part b d) d.ends with
    | (some code, s) => s.stepFault t g (lowestLane y.mask) code y.pc
    | (none, s) => s.setTile t { s.tileAt t with passes := (s.tileAt t).passes ++ [d] })

/-- The done eyelet of a pass counts what it wrote (R107, R108). -/
def State.passDone (s : State) (p : Nat) (d : PassDesc) : State :=
  match outputFmt d.outFmt with
  | none => s
  | some fo => match s.eyeletOf p d.done with | some e => s.eyeCount e (passCount d fo) | none => s

/-- PRODUCT_PASS_START (R107): the pass at the head of the queue starts, or is skipped where its gate is void. -/
def execProductPassStart (t : TileId) (s : State) : Host.Outcome State Fault Refusal :=
  let x := s.tileAt t
  match s.taskOn t, x.passes, x.running with
  | some k, d :: rest, none =>
    if k.phase ≠ .running then .next s else
    let gate : Eyelet := match s.eyeletOf k.part d.gate with | some e => s.eye e | none => ⟨d.gateCount, false⟩
    if gate.void then .next ((s.setTile t { x with passes := rest, status := x.status ||| 32 }).passDone k.part d)
    else if gate.count < d.gateCount || s.clock.slackOpen then .next s
    else .next (s.setTile t { x with passes := rest, running := some d })
  | _, _, _ => .next s

/-- The accumulators of a bank, by row and column. -/
def State.bankOf (s : State) (t b : Nat) (i j : Nat) : Nat := mapGet 0 s.tile.banks ((t * 2 + b) * 4096 + i * 64 + j)

/-- The images of a pass enter its bank. -/
def State.setBank (s : State) (t b : Nat) (rows : List (List Nat)) : State :=
  let bs := rows.zipIdx.foldl (fun m r => mapSetList 0 m ((t * 2 + b) * 4096 + r.2 * 64) r.1) s.tile.banks
  { s with tile := { s.tile with banks := bs } }

/-- PRODUCT_PASS_COMPLETE (R108): the bank, the output and the status are written, and the done eyelet counts. The
operands are those that scratch holds now (log entry 32). -/
def execProductPassComplete (t : TileId) (s : State) : Host.Outcome State Fault Refusal :=
  let x := s.tileAt t
  match s.taskOn t, x.running with
  | some k, some d =>
    match operandFmt d.aFmt, operandFmt d.bFmt, outputFmt d.outFmt with
    | some fa, some fb, some fo =>
      let r := passRun d fa fb fo (s.scratchRead t) (s.bankOf t d.bank) (s.outRound k.part) (s.satMode k.part)
      let s := s.setTile t { x with running := none, status := x.status ||| r.flags.bits }
      let s := r.writes.foldl (fun s w => s.scratchWrite t w.1 w.2) (s.setBank t d.bank r.rows)
      .next (s.passDone k.part d)
    | _, _, _ => .next s
  | _, _ => .next s

end Sys2Proof.Machine
end

