-- ==== Sys2Proof/Machine/Copy.lean ====
section
/-! DEFINITION. The copy engine: its descriptors, the bytes that leave and arrive, and the end of a step (R33, R113 to
R121, R429). -/

namespace Sys2Proof.Machine

/-- A copy descriptor as scratch holds it (R114). -/
def readCopy (b : List Byte) : CopyDesc :=
  let fl := field b 2 2
  { src := field b 0 1, dst := field b 1 1, scheduled := fl.testBit 0, countPackets := fl.testBit 1, length := field b 4 4,
    srcAddr := field b 8 8, dstAddr := field b 16 8, rows := field b 24 4, srcStride := field b 28 4,
    dstStride := field b 32 4, eyelet := field b 36 4, peerRank := field b 40 2, stream := field b 42 2, qp := field b 44 4,
    rkey := field b 48 4 }

/-- The streams of a task's schedule (R116, R176). -/
def State.hasStream (s : State) (k : Task) (stream : Nat) : Bool :=
  k.program.shaped &&
    (((s.lastOf k.part).bind fun l => l.schedules).elim false fun ss =>
      (ss.getD k.schedule []).any fun sh => sh.records.any fun r => r.stream == stream)

/-- The fields of a descriptor lie within R114 and the rows of R116 that raise ILLEGAL. -/
def State.copyLegal (s : State) (k : Task) (b : List Byte) (d : CopyDesc) : Bool :=
  let kinds := [d.src, d.dst]
  let remote := kinds.contains 3
  kinds.all (· ≤ 3) && !(d.src == 3 && d.dst == 3) && bitsAt (field b 2 2) 2 14 == 0 && zeroBytes b 52 12 &&
  1 ≤ d.length && d.length ≤ 16777216 && 1 ≤ d.rows && d.rows ≤ 65536 && d.length * d.rows ≤ 2 ^ 32 &&
  (d.rows == 1 || d.length ≤ d.dstStride) &&
  (!kinds.contains 1 || (k.program.shaped && d.peerRank < k.tiles.length)) &&
  (if d.scheduled then s.hasStream k d.stream else d.stream == 0xFFFF) &&
  (!d.countPackets || d.dst == 3) && (!remote || (s.qpCfg k.part d.qp).isSome) &&
  (d.dst == 3 || s.eyeletOk k.part d.eyelet)

/-- The ends of the TILE and PEER ranges of a copy. -/
def CopyDesc.ends (d : CopyDesc) : List Nat :=
  (if d.src < 2 then [d.srcAddr + (d.rows - 1) * d.srcStride + d.length] else []) ++
    (if d.dst < 2 then [d.dstAddr + (d.rows - 1) * d.dstStride + d.length] else [])

/-- COPY_INSTRUCTION (R113, R116): in the slack window (R32), or with 16 copies in flight, the group is not ready. -/
def execCopyInstruction (t : TileId) (g : Grp) (desc : Nat) (s : State) : Host.Outcome State Fault Refusal :=
  if s.clock.slackOpen || 16 ≤ (s.tileAt t).copies.length then .next s else
  .next (s.withPath t g fun k y s =>
    let s := s.drainAll t g k.part
    let b := s.scratchRead t desc 64
    let d := readCopy b
    match faultOf s (s.scratchSize t) desc (s.copyLegal k b d) d.ends with
    | (some code, s) => s.stepFault t g (lowestLane y.mask) code y.pc
    | (none, s) =>
      let id := s.tile.taskNo
      let c : Copy := { id, task := k.id, desc := d }
      let s := { s with tile := { s.tile with taskNo := id + 1 } }
      let s := s.setTile t { s.tileAt t with copies := (s.tileAt t).copies ++ [c] }
      let s := match s.copyEyelet k.part d with
        | some e => if k.eyelets.contains e then s else s.setTask { k with eyelets := k.eyelets ++ [e] }
        | none => s
      if d.src = 3 then s.remoteRead t k c
      else if d.dst = 3 then (s.remoteCheck t id k d).2
      else s)

/-- Bytes of a copy leave its engine (R117, R119): those of a TILE or PEER source are read and go to the destination;
those of a MEM source are read at their point of coherence, and go on when they come back. -/
def State.copyLeave (s : State) (t : Nat) (k : Task) (c : Copy) (first len : Nat) : State :=
  let d := c.desc
  let s := s.setCopy t { c with moved := c.moved ++ [(first, len)] }
  if d.src < 2 then
    match peerTile k t d.src d.peerRank with
    | none => s.copyError t c.id
    | some u =>
      if s.fenced u then s.copyError t c.id
      else
        let bs := (cutRange d.length 64 d.srcOf (len + 1) first len).flatMap fun e => s.scratchRead u (d.srcOf e.1) e.2
        s.copyPut t c.id first bs
  else
    (cutRange d.length 64 d.srcOf (len + 1) first len).foldl (fun s e =>
      if (s.copyOn t c.id).isNone then s else
      match s.translate k.part (d.srcOf e.1) with
      | none => s.unmapped k.part (d.srcOf e.1) (some t)
      | some h =>
        let want := Purpose.copyRead t c.id e.1 e.2
        match s.issueRead (s.tileAsks t k.part) h want with
        | (some data, s) => s.serveData k.part (lineOf h.bulk h.addr) data want
        | (none, s) => s) s

/-! ## Scheduled copies (R117, R177) -/

/-- The slots of the current stitch that a record owns (R173, R176). -/
def State.ownsSlots (s : State) (r : SlotRecord) : Bool := r.first < s.slots

/-- The output ports on plane `plane` whose records carry `stream` in the shape that a task was placed with, as (die, site, port). -/
def State.streamPorts (s : State) (k : Task) (stream plane : Nat) : List (Nat × Nat × Nat) :=
  match ((s.lastOf k.part).bind fun l => l.schedules).bind fun ss => (ss.getD k.schedule [])[k.shape]? with
  | none => []
  | some sh => sh.records.filterMap fun r =>
      if r.stream = stream && r.plane = plane && s.ownsSlots r then
        (atAnchor k.anchor r.dx r.dy).map fun (x, y) => (r.die, y * 17 + x, r.port)
      else none

/-- The routers that `n` hops through ports reach. -/
def streamReach (ports : List (Nat × Nat × Nat)) : Nat → List (Nat × Nat) → List (Nat × Nat)
  | 0, r => r
  | n + 1, r => streamReach ports n (r ++ ports.filterMap fun e =>
      if r.contains (e.1, e.2.1) && e.2.2 != 4 then
        (beyond e.1 e.2.1 e.2.2).bind fun v => if r.contains v then none else some v
      else none)

/-- Where bytes of a copy enter or leave the mesh: the routers, and whether through an outward port. -/
def State.copySites (s : State) (t : Nat) (k : Task) (d : CopyDesc) (kind addr : Nat) : Bool × List (Nat × Nat) :=
  let edge (f : Outward → Bool) : List (Nat × Nat) := (List.range 8).flatMap fun d =>
    ((List.range 272).filter fun i => (List.range 4).any fun p =>
      ((outward d (siteX i) (siteY i) p).map f).getD false).map fun i => (d, i)
  if kind < 2 then (false, ((peerTile k t kind d.peerRank).map fun u => (tileDie u, tileSite u)).toList)
  else if kind = 2 then
    match s.translate k.part addr with
    | none => (false, [])
    | some h =>
      if h.spill then (true, edge fun o => o == .ucie (moduleOf h.addr))
      else (false, [(dpaDie h.addr, sliceSite (sliceOf (dpaOff h.addr)))])
  else (true, edge fun o => some o == (s.qpCfg k.part d.qp).map fun c => .mac c.port)

/-- The records of the copy's stream form a path between the routers of `a` and those of `b`, on one plane. -/
def State.streamPath (s : State) (k : Task) (stream : Nat) (a b : Bool × List (Nat × Nat)) : Bool :=
  a.2.any (b.2.contains ·) && !a.1 && !b.1 ||
  [0, 1].any fun plane =>
    let ports := s.streamPorts k stream plane
    let r := streamReach ports ports.length a.2
    ports.any fun e => b.2.contains (e.1, e.2.1) && r.contains (e.1, e.2.1) &&
      (if b.1 then (match outward e.1 (siteX e.2.1) (siteY e.2.1) e.2.2 with
        | some (.welt ..) | some .nothing | none => false
        | some _ => true) else e.2.2 == 4)

/-- Byte `b` of a copy can move: a scheduled copy moves only where records carry its stream from its source to the issuing tile and
from there to its destination. -/
def State.canMove (s : State) (t : Nat) (k : Task) (d : CopyDesc) (b : Nat) : Bool :=
  !d.scheduled ||
    let here : Bool × List (Nat × Nat) := (false, [(tileDie t, tileSite t)])
    s.streamPath k d.stream (s.copySites t k d d.src (d.srcOf b)) here &&
      s.streamPath k d.stream here (s.copySites t k d d.dst (d.dstOf b))

/-- A command moves whole granules of a tile store: it begins and ends at the edge of a row or granule of the destination store, else of
the source store (R97, R98). -/
def CopyDesc.atEdge (d : CopyDesc) (b : Nat) : Bool :=
  d.src == 2 || b % d.length == 0 || (if d.dst < 2 then d.dstOf b else d.srcOf b) % 64 == 0

/-- COPY_ARRIVAL (R119): bytes `first` to `first + len` of a copy of tile `t` move, once each. -/
def execCopyArrival (t : TileId) (copy : Nat) (first len : Nat) (s : State) : Host.Outcome State Fault Refusal :=
  match s.copyOn t copy with
  | none => .next s
  | some c =>
    match s.taskById c.task with
    | none => .next s
    | some k =>
      let d := c.desc
      let twice := c.moved.any fun e => e.1 < first + len && first < e.1 + e.2
      if len = 0 || d.total < first + len || twice || d.src = 3 then .next s
      else if !d.atEdge first || !d.atEdge (first + len) then .next s
      else if d.scheduled && !(List.range len).all fun i => s.canMove t k d (first + i) then .next s
      else .next (s.copyLeave t k c first len)

/-! ## The end of a step (R33, R318, R429) -/

/-- The estimate of a label on a die takes in the energy of a step of one of its tiles: a free value, for the
activity counters of a tile are not modelled (log entry 33). -/
def State.updateLabel (s : State) (d l : Nat) : State :=
  let (m, s) := s.draw
  let key := d * 256 + l
  let (x, n) := mapGet (16000, 0) s.power.labels key
  let e := ((x : Int) + ((m % 2 ^ 32 : Nat) - (x : Int)) / 8).toNat
  { s with power := { s.power with labels := mapSet (16000, 0) s.power.labels key (e, n + 1) } }

/-- The end instruction has retired on every tile of the task, and every copy has been counted (R33). -/
def State.stepOver (s : State) (k : Task) : Bool :=
  k.phase == .running && k.tiles.all fun t => k.retired.contains t && (s.tileAt t).copies.isEmpty

/-- A step ends: its record leaves with status OK, and its tiles return to the free set. -/
def State.endStep (s : State) (k : Task) (endNs : Nat) : State :=
  let s := k.tiles.foldl (fun s t =>
    let s := s.setTile t { s.tileAt t with task := none, groups := [], ending := false, sentBar := none }
    if s.fenced t then s else s.setTileCode t 1) s
  let s := { s with tile := { s.tile with tasks := s.tile.tasks.filter fun x => x.id != k.id } }
  let s := k.dies.foldl (fun s d => s.updateLabel d k.label) s
  s.writeRecord k 0 0 0 (endNs % 2 ^ 32)

/-- STEP_END (R33). -/
def execStepEnd (task : Nat) (endNs : Nat) (s : State) : Host.Outcome State Fault Refusal :=
  match s.taskById task with
  | none => .next s
  | some k => if s.stepOver k then .next (s.endStep k endNs) else .next s

end Sys2Proof.Machine
end

