-- ==== Sys2Proof/Machine/Uci.lean ====
section
/-! DEFINITION. The UCI block: CXL.mem against the home's messages (R233, R234, R304, R307 to R309), configuration requests,
function resets and MSI-X (R306, R310, R321). -/

namespace Sys2Proof.Machine

/-! ## CXL.mem requests (R233, R307, R308) -/

def State.setUci (s : State) (u : UciSt) : State := { s with uci := u }
def State.linkUp (s : State) : Bool := s.flag fUciStatus_link_up

/-- The home's message for a request of the host that arrives on module `u`, at HDM offset `h`: one 64-byte block of its line
(R304). The generation is that of the partition of the line's page, and 0 for a line that no page maps. -/
def State.hostMsg (s : State) (u : Fin 8) (opcode h tag : Nat) : Msg :=
  let a := hdmDpa h
  let bulk := s.isBulk a
  let line := lineOf bulk a
  let p := s.ownerOfLine a
  { opcode, source := 16, srcDie := moduleDie u, srcSite := moduleSite u, tag, part := p,
    gen := if p < 16 then s.generation p else 0, addr := line, bulk, unit := (a - line) / 64 }

def State.setHostOpen (s : State) (ms : List Msg) : State := s.setUci { s.uci with hostOpen := ms }

/-- A request of the host goes to the home of its line, and is open until its responses have come. -/
def State.hostSend (s : State) (m : Msg) : State := (s.setHostOpen (s.uci.hostOpen ++ [m])).send m

/-- AER reports an uncorrectable internal error on the physical function, whose bit in its status register is 22 in
the PCI Express layout (log entry 34). -/
def aerInternal : Nat := 22
/-- The errors of the CXL RAS capability that R308 and R309 name, as bits of the model (log entry 34). -/
def rasReceiver : Nat := 0
def rasMemory : Nat := 1

def State.rasError (s : State) (bit : Nat) : State :=
  s.setUci { s.uci with rasStatus := setBit s.uci.rasStatus bit, aerStatus := setBit s.uci.aerStatus aerInternal }

/-- A request that the UCI block does not translate (R308). -/
def State.unsupported (s : State) : State := (s.addTo fUciCntUnsup_count 1).rasError rasReceiver

/-- Nothing arrives from the host while its link is down. A request between the dies of an unreachable pair is dropped as
R308 states (R401). -/
def State.fromHost (s : State) (u : Fin 8) (h : Nat) (f : State → State) : State :=
  if !s.linkUp then s
  else if hdmBytes ≤ h || s.mesh.unreachable.contains (moduleDie u * 8 + dpaDie (hdmDpa h)) then s.unsupported
  else f s

/-- MEM_RD (R233): MetaValue S, A or I gives RdS, RdX or RdN. -/
def execMemRd (h : HostAddr) (mv : MetaVal) (tag : Nat) (s : State) : Host.Outcome State Fault Refusal :=
  .next (s.fromHost h.module h.hpa fun s => s.hostSend (s.hostMsg h.module (match mv with | .s => 1 | .a => 3 | .i => 2) h.hpa tag))

/-- MEM_INV (R233): MetaValue A or I gives Upg or HEv; S is not in R233 (R308). -/
def execMemInv (h : HostAddr) (mv : MetaVal) (tag : Nat) (s : State) : Host.Outcome State Fault Refusal :=
  .next (s.fromHost h.module h.hpa fun s =>
    match mv with
    | .a => s.hostSend (s.hostMsg h.module 4 h.hpa tag)
    | .i => s.hostSend (s.hostMsg h.module 8 h.hpa tag)
    | .s => s.unsupported)

/-- MEM_WR (R233): HWB with the retained state of the MetaValue; MetaValue A is not in R233 (R308). -/
def execMemWr (h : HostAddr) (mv : MetaVal) (tag : Nat) (enables : Nat) (bytes : List Byte) (s : State) :
    Host.Outcome State Fault Refusal :=
  .next (s.fromHost h.module h.hpa fun s =>
    let wb (kept : Nat) : State := s.hostSend { s.hostMsg h.module 7 h.hpa tag with mask := enables, data := bytes, state := kept }
    match mv with
    | .i => wb 0
    | .s => wb 1
    | .a => s.unsupported)

/-- CXL_BIRSP (R233, R234): BIRspI, BIRspS or BIRspE goes to the home. -/
def execCxlBirsp (h : HostAddr) (kept : Fin 3) (s : State) : Host.Outcome State Fault Refusal :=
  .next (s.fromHost h.module h.hpa fun s => s.send { s.hostMsg h.module 0x21 h.hpa 0 with state := kept })

/-- MEM_SPEC_RD (R308): dropped without response; beyond the HDM range it is counted and logged. -/
def execMemSpecRd (h : Nat) (s : State) : Host.Outcome State Fault Refusal :=
  .next (if s.linkUp && hdmBytes ≤ h then s.unsupported else s)

/-- UNSUPPORTED_MEM_REQ (R308). -/
def execUnsupportedMemReq (_ : UnsupReq) (_ : Nat) (s : State) : Host.Outcome State Fault Refusal :=
  .next (if s.linkUp then s.unsupported else s)

/-! ## Responses and back-invalidates to the host -/

/-- The request of the host that a response answers. -/
def State.hostTx (s : State) (m : Msg) : Option Msg := s.uci.hostOpen.find? fun r => r.tag == m.tag

/-- An open request with what of its answer has come: bit 0 Data, bit 1 Cmp, kept in `fn`. It closes when nothing more
is due: Data alone for RdN, Data and Cmp for RdS and RdX, Cmp for HWB and HEv, and for Upg Cmp with the Data that may be
on the way. -/
def State.hostGot (s : State) (r : Msg) (bit : Nat) : State :=
  let got := r.fn ||| bit
  let more := s.coh.net.any fun x => x.opcode == 0x10 && x.toHost && x.tag == r.tag
  let done := if r.opcode = 2 then true else if r.opcode = 1 || r.opcode = 3 then got == 3
    else if r.opcode = 4 then got.testBit 1 && !more else true
  s.setHostOpen (if done then s.uci.hostOpen.erase r else s.uci.hostOpen.map fun x => if x = r then { x with fn := got } else x)

/-- The module on which a request of the host came, and on which its response leaves (R304). -/
def hostModule (r : Msg) : Fin 8 := moduleAt r.srcDie r.srcSite

/-- A response that answers no request of the host (R237). An access of the host is served whatever becomes of the partition
(R378), so no other response to it is stale. -/
def State.hostStale (s : State) (m : Msg) : State := s.staleResponse m.router.1

/-- Data for the host leaves as DRS MemData. -/
def State.hostData (s : State) (m : Msg) : State :=
  match s.hostTx m with
  | none => s.hostStale m
  | some r => (s.emit (.drs (hostModule r) r.tag m.data)).hostGot r 1

/-- Cmp for the host leaves as an NDR with its grant. -/
def State.hostCmp (s : State) (m : Msg) : State :=
  match s.hostTx m with
  | none => s.hostStale m
  | some r => (s.emit (.ndr (hostModule r) r.tag m.state)).hostGot r 2

/-- A read of the host that met an uncorrectable unit gets no data (R309). -/
def State.hostErr (s : State) (m : Msg) : State :=
  match s.hostTx m with
  | none => s.hostStale m
  | some r => ((s.setHostOpen (s.uci.hostOpen.erase r)).addTo fUciCntMemerr_count 1).rasError rasMemory

/-- CMP (R233). -/
def execCmp (m : Msg) (s : State) : Host.Outcome State Fault Refusal :=
  if !s.mayArrive m then .next s else
  .next ((s.arrive m).hostCmp m)

/-- A back-invalidate of one block leaves on the module of its line, if the link is up (R304, R305). -/
def State.backInvalidate (s : State) (m : Msg) (down : Bool) : State :=
  if s.linkUp then s.emit (.biSnp (dpaHdm m.addr + 64 * m.unit) down) else s

/-- BINV (R234). -/
def execBinv (m : Msg) (s : State) : Host.Outcome State Fault Refusal :=
  if !s.mayArrive m then .next s else
  .next ((s.arrive m).backInvalidate m false)
/-- BDOWN (R234). -/
def execBdown (m : Msg) (s : State) : Host.Outcome State Fault Refusal :=
  if !s.mayArrive m then .next s else
  .next ((s.arrive m).backInvalidate m true)

/-! ## Functions (R306, R310, R321) -/

/-- The vectors of a function: 8 of the physical function, 17 of a virtual function (R320). -/
def vectorCount (fn : Nat) : Nat := if fn = 0 then 8 else 17

/-- Bits [lo + w - 1 : lo] of a dword replaced. -/
def withBits (x lo w v : Nat) : Nat := x % 2 ^ lo + v % 2 ^ w * 2 ^ lo + x / 2 ^ (lo + w) * 2 ^ (lo + w)

/-- The capability structures of a function, of the PCI Express list and of its extended list (R306): nothing that R306 declines
is among them, so ATS (extended 0x0F), PRI (0x13), PASID (0x1B), IDE (0x30) and MSI (0x05) are not. The identifiers and the
layouts are those of PCI Express (log entry 35). -/
def plainCaps (_ : Nat) : List Nat := [0x10, 0x11]
def extendedCaps (fn : Nat) : List Nat := if fn = 0 then [0x01, 0x10, 0x2E, 0x23] else []

/-- The place of a structure: the extended list begins at 0x100. Extended structures are numbered from 256, the CXL RAS capability is
512 and the HDM decoder capability 513. -/
def capPos (fn id : Nat) : Nat := if id = 257 then 0x100 else Config.capAt fn id % 1024 * 4

/-- The structure after one of a list. -/
def nextCap (fn : Nat) (ids : List Nat) (id : Nat) : Nat :=
  match (ids.drop (ids.idxOf id + 1)).head? with
  | some n => capPos fn n
  | none => 0

/-- The header of each structure of a function, at its place. -/
def capHeaders (fn : Nat) (raw : Nat → Nat) : List (Nat × Nat) :=
  let plain := plainCaps fn
  let ext := (extendedCaps fn).map (· + 256)
  (plain.map fun id => (capPos fn id, withBits (withBits (raw (capPos fn id)) 0 8 id) 8 8 (nextCap fn plain id))) ++
    ext.map fun id => (capPos fn id, id - 256 + 2 ^ 16 + nextCap fn ext id * 2 ^ 20)

/-- What R306, R308 to R311, R320 and R322 state of the dwords of configuration space: the list of structures, no interrupt pin,
function-level reset of virtual functions only, no TEE-IO, the MSI-X table, SR-IOV, AER, the DOE mailbox, the CXL RAS capability,
one HDM decoder. -/
def State.knownDwords (s : State) (fn : Nat) (raw : Nat → Nat) : List (Nat × Nat) :=
  let at_ (id off : Nat) : Nat := capPos fn id + off
  let bar := if fn = 0 then 0x480000 else 0x200000
  let common := [(0x34, withBits (raw 0x34) 0 8 (capPos fn 0x10)), (0x3C, withBits (raw 0x3C) 8 8 0),
    (at_ 0x10 4, withBits (withBits (raw (at_ 0x10 4)) 28 1 (if fn = 0 then 0 else 1)) 30 1 0),
    (at_ 0x11 4, bar), (at_ 0x11 8, bar + 0x1000)]
  let heads := (capHeaders fn raw).map fun e => if e.1 = capPos fn 0x11 then (e.1, withBits e.2 16 11 (vectorCount fn - 1)) else e
  let physical := [(at_ 257 4, s.uci.aerStatus), (at_ 272 0x0C, 16 * 2 ^ 16 + 16), (at_ 272 0x14, 1 + 2 ^ 16),
    (at_ 302 0x0C, withBits (raw (at_ 302 0x0C)) 2 1 (if s.uci.doeError then 1 else 0)),
    (at_ 512 0, s.uci.rasStatus), (at_ 513 0, withBits (raw (at_ 513 0)) 0 4 0)]
  common ++ heads ++ (if fn = 0 then physical else [(0x100, 0)])

/-- A dword of configuration space. -/
def State.cfgDword (s : State) (fn off : Nat) : Nat :=
  let raw (o : Nat) : Nat := Config.cfgDword fn o (mapGet 0 s.uci.cfg (fn * 4096 + o))
  (((s.knownDwords fn raw).find? fun e => e.1 == off).map fun e => e.2).getD (raw off) % 2 ^ 32

/-- The ones of `v` clear bits of a status. -/
def clearBits (x v : Nat) : Nat := x - (x &&& v)

/-- A dword of configuration space is written: the AER and RAS status clear where ones are written, and an abort of the DOE
mailbox clears its error. -/
def State.cfgWrite (s : State) (fn off v : Nat) : State :=
  let s := s.setUci { s.uci with cfg := mapSet 0 s.uci.cfg (fn * 4096 + off) v }
  if fn ≠ 0 then s
  else if off = capPos 0 257 + 4 then s.setUci { s.uci with aerStatus := clearBits s.uci.aerStatus v }
  else if off = capPos 0 512 then s.setUci { s.uci with rasStatus := clearBits s.uci.rasStatus v }
  else if off = capPos 0 302 + 8 && v.testBit 0 then s.setUci { s.uci with doeError := false }
  else s

/-- The configuration space and the vectors of a function return to their reset values. -/
def State.resetFunction (s : State) (fn : Nat) : State :=
  let s := s.setUci { s.uci with cfg := mapClear s.uci.cfg (fn * 4096) ((fn + 1) * 4096),
                                 vectors := mapClear s.uci.vectors (fn * 32) ((fn + 1) * 32) }
  if fn = 0 then s.setUci { s.uci with aerStatus := 0, rasStatus := 0, doeError := false } else s

/-- CONFIGURATION_REQUEST (R306) of one dword. The spec gives configuration space no layout: what it states of a dword shows at the
place that PCI Express gives it, and the rest is open (log entry 35). -/
def execConfigurationRequest (fn : Fin 17) (off : Nat) (write : Bool) (v : BitVec 32) (s : State) :
    Host.Outcome State Fault Refusal :=
  .next (if !s.linkUp || 4096 ≤ off || off % 4 ≠ 0 then s
    else if write then s.cfgWrite fn off v.toNat
    else s.emit (.cfgRead fn off (s.cfgDword fn off)))

/-- FLR (R310): of the virtual function `n + 1`. -/
def execFlr (n : Fin 16) (s : State) : Host.Outcome State Fault Refusal :=
  .next (if s.linkUp then s.resetFunction (n.val + 1) else s)

/-- A vector that fires on its own mask and stitch rules (R321). -/
def State.unmask (s : State) (fn vec : Nat) : State :=
  let v := s.vector fn vec
  let s := s.setVector fn vec { v with masked := false, pending := false }
  if !v.pending then s
  else if v.sent then s.setVector fn vec { v with masked := false, pending := false, held := true }
  else (s.setVector fn vec { v with masked := false, pending := false, sent := true }).message fn vec

/-- MSIX_UNMASK (R321). -/
def execMsixUnmask (fn : Fin 17) (vec : Fin 17) (s : State) : Host.Outcome State Fault Refusal :=
  .next (if vec < vectorCount fn then s.unmask fn vec else s)

/-- The UCI_CNT counters clear (R324). -/
def State.clearUci (s : State) : State :=
  s.setAll [(fUciCntReplay_count, 0), (fUciCntUnsup_count, 0), (fUciCntMemerr_count, 0)]

/-- UCI_CNT_CLEAR (R324). -/
def execUciCntClear (s : State) : Host.Outcome State Fault Refusal := .next s.clearUci

end Sys2Proof.Machine
end

