-- ==== Sys2Proof/Machine/Recover.lean ====
section
/-! DEFINITION. Unit resets, die recovery, device recovery and escalation (R390, R394 to R407), and the end of a load
that a recovery aborts (R53, R55). -/

namespace Sys2Proof.Machine

/-! ## Loads (R53, R55) -/

/-- The load ends in REJECTED: its commit and what it staged are gone, LOAD_RESULT is logged and vector 0 fires. -/
def State.endLoad (s : State) (error check : Nat) : State :=
  let s := { s with ldr := { s.ldr with staged := none, committed := false } }
  let s := { s with cfg := { s.cfg with
    checks := s.cfg.checks.filter (fun (c : Commit) => !c.viaLoader),
    accepted := s.cfg.accepted.filter fun (c : Commit) => !c.viaLoader } }
  let s := s.setAll [(fLdrStatus_state, 7), (fLdrStatus_error, error), (fLdrStatus_check, check)]
  (s.event 0x19 0x1A 7 (error * 256 + check)).fire 0 0

/-- A load between FETCH and APPLY_PENDING ends with the error given. -/
def State.stopLoad (s : State) (error : Nat) : State :=
  let st := s.get fLdrStatus_state
  if 1 ≤ st && st ≤ 5 then s.endLoad error 0 else s

/-- A recovery ends a load with error ABORTED (R55). -/
def State.abortLoad (s : State) : State := s.stopLoad 0x0E

/-! ## Who uses a die (R376, R401) -/

/-- Welt shares of partition `p` on die `d`. -/
def State.weltShareOn (s : State) (p d : Nat) : Bool :=
  match s.dev with
  | none => false
  | some l => l.welts.zipIdx.any fun e =>
      let w := weltDies (e.2 / 16)
      (w.1 == d || w.2 == d) && ((e.1.mode == 1 && e.1.part == p) || e.1.shares.getD p 0 != 0)

/-- The partition holds tiles, a program area, eyelets, pages or welt shares on die `d`. -/
def State.usesDie (s : State) (p d : Nat) : Bool :=
  s.defined p &&
    ((List.range 272).any (fun i => entryHasSite (s.partEntry p) (d * 272 + i)) || s.programDie p == d ||
      (s.eyeletRange p d).2 != 0 || (s.pages p).any (fun e => e.home == d || e.home == 8) || s.weltShareOn p d)

/-- The same, with CD0 and CD4 for a partition that has a spill page. -/
def State.usesDieSpill (s : State) (p d : Nat) : Bool :=
  s.usesDie p d || ((d == 0 || d == 4) && (s.pages p).any fun e => e.home == 9)

/-- The partition uses both dies of an unreachable pair, and so stays PENDING. -/
def State.cutOff (s : State) (p : Nat) : Bool :=
  s.mesh.unreachable.any fun x => s.usesDieSpill p (x / 8) && s.usesDieSpill p (x % 8)

/-- The mask of the partitions that satisfy `f` and can be torn down. -/
def State.livePartitions (s : State) (f : Nat → Bool) : Nat :=
  (((List.range 16).filter fun p => s.partState p != 0 && s.partState p != 4 && f p).map (2 ^ ·)).foldl (· + ·) 0

def membersOf (mask : Nat) : List Nat := (List.range 16).filter mask.testBit

/-! ## Interruption (R405) -/

/-- Whether a hold of some unit interrupts a partition with a running step is open, for the spec does not time traffic:
each running step may be excused from the count of R38 (log entry 37). -/
def State.excuse (s : State) : State :=
  (s.tile.tasks.filter fun k => k.phase == .running && !k.excused).foldl (fun s k =>
    let (n, s) := s.draw
    if n % 2 = 1 then s.setTask { k with excused := true } else s) s

/-! ## Slices and their directories (R251, R395) -/

/-- Requests that are open in the slices of the lines that satisfy `at_`: those of trackers and queues that have no
response yet, and the host's that a directory entry holds. Any other request pending in a directory is dropped without a response (R251). -/
def State.stuckAt (s : State) (at_ : Nat → Bool) : List Msg :=
  ((s.coh.trackers.filter fun k => at_ k.line).flatMap fun k => (k.waiters.filter fun w => w.1.opcode != 5).map fun w => w.1) ++
    ((s.coh.aluQ.filter fun q => q.msg.opcode == 6 && at_ (lineOf q.msg.bulk q.msg.addr)).map fun q => q.msg) ++
    (((s.coh.dir.filter fun e => at_ e.line && (e.state == .c || e.state == .f)).filterMap fun e => e.req).filter fun m =>
      m.source == 16) ++
    s.coh.homeWait.filter fun m => at_ (lineOf m.bulk m.addr)

/-- The slices of the lines that satisfy `at_` write their frames back and reset: requesters get Err, host requests are
issued again, and the directory entries change as R251 states. -/
def State.resetSlices (s : State) (at_ : Nat → Bool) : State :=
  let stuck := s.stuckAt at_
  let s := s.setTrackers (s.coh.trackers.filter fun k => !at_ k.line)
  let s := s.setAluQ (s.coh.aluQ.filter fun q => !(q.msg.opcode == 6 && at_ (lineOf q.msg.bulk q.msg.addr)))
  let mine := s.coh.l3.filter fun l => at_ l.line
  let s := s.setL3 (s.coh.l3.filter fun l => !at_ l.line)
  let s := mine.foldl (fun s l => if l.dirty = 0 then s else s.dramPut l.line l.dirty l.data) s
  let s := s.dirRecover at_
  stuck.foldl (fun s m => if m.source = 16 then s.send m else s.respond m 0x14) s

/-! ## Suspects and unit resets (R392 to R397) -/

/-- The partitions that hold entries, queued operations or queued requests in the slice or the DRAM controller of the lines that
satisfy `at_` (R394): a slice's tracker entries are the requests that its controller has queued, and reductions and atomics that
wait for a line's entry or for room are the slice's alone. -/
def State.suspectsAt (s : State) (at_ : Nat → Bool) (slice : Bool) : List Nat :=
  let ms := ((s.coh.trackers.filter fun k => at_ k.line).flatMap fun k => k.waiters.map fun w => w.1) ++
    ((s.coh.aluQ.filter fun q => at_ (lineOf q.msg.bulk q.msg.addr)).map fun q => q.msg) ++
    if slice then
      ((s.coh.dir.filter fun e => at_ e.line && e.state == .c && e.pending == .atR).filterMap fun e => e.req) ++
        s.coh.homeWait.filter fun m => m.opcode == 6 && at_ (lineOf m.bulk m.addr)
    else []
  (List.range 16).filter fun p => s.defined p && ms.any fun m =>
    m.part == p && m.source != 16 && s.ownerOfLine m.addr < 16

/-- The running steps of partition `p` stop without a record, and are kept for a replay (R394). -/
def State.interruptSteps (s : State) (p : Nat) : State :=
  (s.tile.tasks.filter fun k => k.part == p && (k.phase == .running || k.phase == .placed)).foldl (fun s k =>
    let s := s.stopTask k
    { s with tile := { s.tile with
      tasks := s.tile.tasks ++ [{ k with phase := .interrupted, tiles := [], retired := [], eyelets := [], arrivals := [],
                                         completed := [] }] } }) s

def State.setFlt (s : State) (f : FltSt) : State := { s with flt := f }

/-- The device holds the rings of partition `p`: it is a suspect of a reset or replay that has not released it. -/
def State.held (s : State) (p : Nat) : Bool :=
  s.flt.resets.any (fun r => r.suspects.contains p) || s.flt.replays.any fun r => r.todo.contains p || r.current == some p

/-- A partition that is released without a replay runs its rings again; its interrupted steps end without a record, and
are owed none (log entry 38). -/
def State.dropInterrupted (s : State) (p : Nat) : State :=
  let mine := s.tile.tasks.filter fun k => k.part == p && k.phase == .interrupted
  let s := mine.foldl (fun s k => s.set (fPartCqStatus_owed p k.cq) (s.get (fPartCqStatus_owed p k.cq) - 1)) s
  { s with tile := { s.tile with tasks := s.tile.tasks.filter fun k => !(k.part == p && k.phase == .interrupted) } }

/-- The replay registers show whether a replay runs (R417). -/
def State.showReplay (s : State) : State :=
  match s.flt.replays.find? fun r => r.current.isSome with
  | some r => s.setAll [(fFltReplay_current, r.current.getD 0), (fFltReplay_active, 1), (fFltStatus_replaying, 1)]
  | none =>
    let on := if s.flt.replays.isEmpty then 0 else 1
    s.setAll [(fFltReplay_active, on), (fFltStatus_replaying, on)]

/-- A unit reset of the GUILTY mode (R392) that the device last gives. -/
def State.replayMode (s : State) : Bool := (s.dev.map fun l => l.replay).getD false
def State.noReplay (s : State) : Nat := (s.dev.map fun l => l.noReplay).getD 0

/-- The fault that a unit reset answers: where partition `p` is being replayed on the unit, the fault has been reproduced. `p` is torn
down, and the suspects not yet replayed are released (R397). -/
def State.unitFault (s : State) (again : Option Replay) (f : FaultInfo) : State :=
  match again with
  | none => s.recordFault { f with level := 5 }
  | some r =>
    let s := s.setFlt { s.flt with replays := s.flt.replays.erase r }
    let s := r.todo.foldl State.dropInterrupted s
    (s.partitionFault (r.current.getD 0) { f with cause := 0x15 }).showReplay

/-- A unit reset begins at detection (R394 to R397): the suspects stop, the record and the event follow, and named mode or
no_replay_mask tears suspects down. A unit that times out under a replay reproduces the fault; its other partitions are suspects as at
any other reset. -/
def State.unitReset (s : State) (cause kind d unit address : Nat) (at_ : Nat → Bool) (slice : Bool) : State :=
  let f : FaultInfo := { cause, unitKind := kind, die := d, unit, address }
  if s.recovering d then s.recordFault f
  else
    let again := s.flt.replays.find? fun r => r.kind == kind && r.die == d && r.unit == unit && r.current.isSome
    let known := match again with | some r => r.current.toList ++ r.todo | none => []
    let sus := (s.suspectsAt at_ slice).filter fun p => !known.contains p
    let named := match again with | some r => r.current.toList | none => []
    let mask := ((named ++ sus).map (2 ^ ·)).foldl (· + ·) 0
    let s := sus.foldl State.interruptSteps s
    let s := s.unitFault again { f with affected := mask }
    let s := s.event 0x1D 0x0C (kind * 2 ^ 16 + d * 2 ^ 12 + unit) mask
    let s := s.setAll [(fFltReplay_suspects, mask), (fFltReplay_unit_kind, kind), (fFltReplay_die, d), (fFltReplay_unit, unit)]
    let torn := if s.replayMode then sus.filter s.noReplay.testBit else sus
    let s := torn.foldl (fun s p => s.teardown p cause) s
    let s := s.setFlt { s.flt with
      resets := s.flt.resets ++ [⟨kind, d, unit, sus.filter fun p => !torn.contains p, [], address⟩] }
    (if slice then s.resetSlices at_ else s).excuse

/-- SLICE_TIMEOUT (R390): the oldest tracker entry of the slice is more than 20 µs old. -/
def execSliceTimeout (d : Die) (sl : Fin 64) (s : State) : Host.Outcome State Fault Refusal :=
  let at_ (line : Nat) : Bool := dpaDie line == d.val && channelOf line == sl.val
  match s.coh.trackers.find? fun k => at_ k.line with
  | none => .next s
  | some k => .next (s.unitReset 0x0D 4 d sl k.line at_ true)

/-- DRAM_TIMEOUT (R390): a request of the channel has been queued for 5 µs. The slice sends its fills again, and
DRAM's own bytes stay. -/
def execDramTimeout (d : Die) (ch : Fin 64) (s : State) : Host.Outcome State Fault Refusal :=
  let at_ (line : Nat) : Bool := dpaDie line == d.val && channelOf line == ch.val
  match (s.coh.trackers.find? fun k => at_ k.line).map (fun k => k.line) <|>
      (s.coh.aluQ.find? fun q => at_ (lineOf q.msg.bulk q.msg.addr)).map fun q => q.msg.addr with
  | none => .next s
  | some a => .next (s.unitReset 0x0E 5 d ch (dpaOff a) at_ false)

/-- UNIT_RESET_DONE (R395 to R397): the oldest reset completes. Its suspects are replayed from the first tick at least
50 ns later, in rising index. -/
def execUnitResetDone (s : State) : Host.Outcome State Fault Refusal :=
  match s.flt.resets with
  | [] => .next s
  | r :: rs =>
    let s := s.setFlt { s.flt with resets := rs }
    if r.suspects.isEmpty then .next s
    else
      let x : Replay := { kind := r.kind, die := r.die, unit := r.unit, todo := r.suspects, running := [],
                          startAt := s.clock.now + 50, address := r.address }
      .next (s.setFlt { s.flt with replays := s.flt.replays ++ [x] }).showReplay

/-! ## Escalation (R406, R407) -/

/-- A recovery is counted. Three within 600 s send the device out of service. -/
def State.countRecovery (s : State) : State :=
  let t := s.nowMs
  let s' := (s.bump fFltStatus_recoveries 1).setAll
    [(fFltEscT_ms 2, s.get (fFltEscT_ms 1)), (fFltEscT_ms 1, s.get (fFltEscT_ms 0)), (fFltEscT_ms 0, t)]
  let third := s'.get (fFltEscT_ms 2)
  if third ≠ 0 && t ≤ third + 600000 then s'.setFlt { s'.flt with goingOut := true } else s'

/-- The device is out of service (R407): a load that stands ends with error REFUSED. -/
def State.outOfService (s : State) : State :=
  let (n, s) := s.stopLoad 0x0D |>.draw
  let s := s.addTo fFltEsc_oos_entries 1
  let s := s.setAll [(fFltStatus_out_of_service, 1), (fDevPins_fault_driven, 1), (fFltRtsChal_challenge, n)]
  let s := s.setFlt { s.flt with goingOut := false }
  (s.event 0x1D 0x12 (s.get fFltEsc_oos_entries) 0).fire 0 7

/-! ## Resetting a die (R12, R399, R400) -/

/-- The TILE_STATE and PART_STATUS fields that show a condition and so hold across a recovery. -/
def showsCondition (key : Nat) : Bool :=
  let a := key / 64
  let lo := key % 64
  ((kTileState.instAt a).isSome && lo < 14) || (kPartStatus.instAt a).isSome

/-- The fields marked "device recovery" whose address satisfies `at_` return to their reset values (R12). -/
def State.recoveryReset (s : State) (at_ : Nat → Bool) : State :=
  let kept := s.regs.filter fun e => at_ (e.1 / 64) && showsCondition e.1
  let s := s.resetFields at_ fun r => r == .deviceRecovery
  { s with regs := kept.foldl (fun m e => mapSet 0 m e.1 e.2) s.regs }

/-- Address `a` lies in the space of die `d`. -/
def inDie (d a : Nat) : Bool := let (sp, i, _) := spaceOf a; sp == .die && i == d

/-- Die `d` resets, and its halves are declared dead everywhere. Routers, welts, ports, DRAM, tile stores, directories and
kept fields survive. -/
def State.recoverDie (s : State) (d : Nat) : State :=
  let s := (s.abortSlices fun r => r.die == d).resetSlices fun line => dpaDie line == d
  let mine (n : Nat) : Bool := n / 2 == d && n < 16
  let s := { s with coh := { s.coh with
    l2 := s.coh.l2.filter (fun (l : L2Line) => !mine l.half), txs := s.coh.txs.filter (fun (x : Tx) => !mine x.agent),
    halfWaits := s.coh.halfWaits.filter fun (w : HalfWait) => !mine w.half } }
  let s := { s with eyelets := mapClear s.eyelets (d * 32768) ((d + 1) * 32768) }
  let s := s.recoveryReset (inDie d)
  let s := s.setAwl { s.awl with failed := mapClear s.awl.failed (d * 8) (d * 8 + 8) }
  (List.range 8).foldl (fun s h =>
    (((s.declareAt h (2 * d)).filterDead h (2 * d)).declareAt h (2 * d + 1)).filterDead h (2 * d + 1)) s

/-- Unit resets and replays of units that satisfy `at_` are abandoned, and their suspects torn down (R402). -/
def State.abandonUnits (s : State) (at_ : Nat → Bool) (cause : Nat) : State :=
  let ps := ((s.flt.resets.filter fun r => at_ r.die).flatMap fun r => r.suspects) ++
    (s.flt.replays.filter fun r => at_ r.die).flatMap fun r => r.current.toList ++ r.todo
  let s := s.setFlt { s.flt with
    resets := s.flt.resets.filter (fun r => !at_ r.die), replays := s.flt.replays.filter fun r => !at_ r.die }
  (ps.foldl (fun s p => s.teardown p cause) s).showReplay

/-! ## Recoveries (R398 to R402) -/

/-- What a device recovery does at its start (R401): every partition is torn down, every die resets, every commit is
discarded. -/
def State.resetDevice (s : State) (cause : Nat) : State :=
  let s := s.event 0x1D 0x10 cause 0
  let s := s.abortLoad.abandonUnits (fun _ => true) cause
  let s := (List.range 16).foldl (fun s p => s.teardown p cause) s
  let s := (List.range 17).foldl (fun s i => s.dropCommit (17 + i)) s
  let s := s.setAll [(fFltStatus_device_recovering, 1), (fFltStatus_dies_recovering, 255)]
  let s := s.setFlt { s.flt with dieAt := (List.range 8).foldl (fun m d => mapSet none m d (some s.clock.now)) s.flt.dieAt }
  let s := (List.range 8).foldl State.recoverDie s
  let s := s.recoveryReset fun _ => true
  { s with cfg := { s.cfg with shadow := [] } }

/-- A device recovery that a fault causes: its record names the partitions torn down. -/
def State.deviceRecovery (s : State) (f : FaultInfo) : State :=
  (s.recordFault { f with level := 4, affected := s.livePartitions fun _ => true }).resetDevice f.cause

/-- The recovery coordinator: the lowest die that no recovery includes (R398). It is the budget allocator too: as its die
enters recovery, the grants of the stitch are lost (R442). -/
def State.coordinator (s : State) : Option Nat := (List.range 8).find? fun d => !s.recovering d

/-- A die recovery begins at the coordinator's decision (R400). -/
def State.dieRecovery (s : State) (d : Nat) (f : FaultInfo) : State :=
  let mask := s.livePartitions fun p => s.usesDie p d
  let s := if s.coordinator = some d then { s with power := { s.power with grantsLost := true } } else s
  let s := s.recordFault { f with level := 3, affected := mask }
  let s := s.event 0x1D 0x0E (2 ^ d) f.cause
  let s := s.setBitOf fFltStatus_dies_recovering d true
  let s := s.setFlt { s.flt with dieAt := mapSet none s.flt.dieAt d (some s.clock.now) }
  let s := s.abortLoad.abandonUnits (· == d) f.cause
  let s := s.abortSlices fun r => r.die == d
  ((membersOf mask).foldl (fun s p => s.teardown p f.cause) s).excuse

/-- A recovery decided now is absorbed: a device recovery runs (R402), or a life-cycle transition does (R478). -/
def State.absorbs (s : State) : Bool := s.flag fFltStatus_device_recovering || s.sec.transition.isSome

/-- The device watchdog or a welt fault decides a device recovery. -/
def State.startDeviceRecovery (s : State) (f : FaultInfo) : State :=
  if s.absorbs then s.recordFault f else s.countRecovery.deviceRecovery f

/-- A die recovery is decided: a device recovery where it sends the device out of service (R406, R407). -/
def State.startDieRecovery (s : State) (d : Nat) (f : FaultInfo) : State :=
  if s.absorbs then s.recordFault f
  else
    let s := s.countRecovery
    if s.flt.goingOut then s.deviceRecovery f else s.dieRecovery d f

/-- A recovery of CD0 or CD4 restarts the UCI transaction layers of its die, in 20 µs from its start. A load that starts meanwhile
stays in FETCH until they run again (R400). -/
def State.uciRestarts (s : State) : Bool :=
  [0, 4].any fun d => s.recovering d && match mapGet none s.flt.dieAt d with
    | some t => decide (s.clock.now < t + 20000)
    | none => false

/-! ## Welt faults (R401) -/

/-- Every die path that names a welt without a working multiplexed group is written anew; a pair that the rest leaves
more than four crossings apart is unreachable. -/
def State.rewritePaths (s : State) : State :=
  let bad := (List.range 64).filter fun i => (s.mesh.routes.paths.getD i []).any fun w => !s.weltWorks w
  let path (i : Nat) : Option (List Nat) := weltPath s.weltWorks 4 (i / 8) (i % 8)
  let paths := (List.range 64).map fun i => if bad.contains i then (path i).getD [] else s.mesh.routes.paths.getD i []
  let cut := bad.filter fun i => (path i).isNone && i / 8 != i % 8
  let dies := (List.range 8).filter fun d => bad.any fun i => i / 8 == d
  let s := { s with mesh := { s.mesh with
    routes := { s.mesh.routes with paths }, rewritten := (s.mesh.rewritten ++ bad).eraseDups,
    unreachable := (s.mesh.unreachable ++ cut).eraseDups } }
  let s := dies.foldl (fun s d => s.addTo (fMeshStatus_route_epoch d) 1) s
  s.event 0x1D 0x08 (s.get (fMeshStatus_route_epoch (dies.headD 0))) ((dies.map (2 ^ ·)).foldl (· + ·) 0)

/-- The last multiplexed group of welt `w` has failed: a device recovery, during which the paths are rewritten. -/
def State.weltFault (s : State) (w : Nat) : State :=
  (s.startDeviceRecovery { cause := 0x0C, unitKind := 8, die := (weltDies w).1, unit := w, address := w }).rewritePaths

/-! ## Timeouts (R390) -/

/-- TILE_HALT_TIMEOUT (R390): a halt of the tile did not complete. -/
def execTileHaltTimeout (t : TileId) (s : State) : Host.Outcome State Fault Refusal :=
  .next (if (s.tileAt t).halting then s.fenceTile t 7 else s)

/-- TILE_SRAM_ERROR (R390). -/
def execTileSramError (t : TileId) (off : Nat) (s : State) : Host.Outcome State Fault Refusal :=
  .next (s.fenceTile t 8 off)

/-- DIRECTORY_TIMEOUT (R390): half `half` owes an acknowledgement for the line; its die recovers. -/
def execDirectoryTimeout (_ : Die) (line : Nat) (half : Fin 16) (s : State) : Host.Outcome State Fault Refusal :=
  match s.entry line with
  | none => .next s
  | some e =>
    if (e.state == .c && e.owedHalves.testBit half) || (e.state == .f && e.target == half.val) then
      .next (s.startDieRecovery (half / 2)
        { cause := 0x0F, unitKind := 6, die := half / 2, unit := half % 2, address := line })
    else .next s

/-- DIE_HEARTBEAT_SEND (R390): a heartbeat leaves on the welts' event class; nothing that the device holds changes. -/
def execDieHeartbeatSend (_ : Die) (s : State) : Host.Outcome State Fault Refusal := .next s

/-- DIE_HEARTBEAT_LOSS (R390): die `d` has sent no heartbeat for 4 µs. On a die in recovery it is only logged (R402). -/
def execDieHeartbeatLoss (d : Die) (s : State) : Host.Outcome State Fault Refusal :=
  let f : FaultInfo := { cause := 0x12, unitKind := 11, die := d }
  .next (if s.recovering d then s.recordFault f else s.startDieRecovery d f)

/-- RECOVER (R400): the message about die `d` reaches the dies. -/
def execRecover (d : Die) (s : State) : Host.Outcome State Fault Refusal :=
  .next (if s.recovering d && !s.flag fFltStatus_device_recovering then s.recoverDie d else s)

/-- WATCHDOG (R390): no feed for 1 ms. -/
def execWatchdog (s : State) : Host.Outcome State Fault Refusal :=
  .next (s.startDeviceRecovery { cause := 0x13, unitKind := 12 })

/-- DIE_RECOVERY_TIMEOUT (R390): a die recovery has not completed within 50 ms. -/
def execDieRecoveryTimeout (s : State) : Host.Outcome State Fault Refusal :=
  let m := s.get fFltStatus_dies_recovering
  .next (if m = 0 || s.flag fFltStatus_device_recovering then s
    else s.startDeviceRecovery { cause := 0x14, unitKind := 12, address := m })

/-- DEVICE_RECOVERY_TIMEOUT (R390): a device recovery has not completed within 2 s. -/
def execDeviceRecoveryTimeout (s : State) : Host.Outcome State Fault Refusal :=
  .next (if s.flag fFltStatus_device_recovering then
      (s.recordFault { cause := 0x14, level := 4, unitKind := 12, address := 255 }).outOfService
    else s)

/-! ## The ends of recoveries (R400, R401, R407) -/

/-- Fences decided during the recovery apply to the tiles of die `d`. -/
def State.fenceWaiting (s : State) (d : Nat) : State :=
  let mine := s.flt.fenceLater.filter fun e => tileDie e.1 == d
  let s := s.setFlt { s.flt with fenceLater := s.flt.fenceLater.filter fun e => tileDie e.1 != d }
  mine.foldl (fun s e => if e.2.1 = 9 then (s.isolate e.1 9 0).2 else s.fenceTile e.1 e.2.1 e.2.2) s

/-- The dead bits of the halves of die `d` clear at every home. -/
def State.reviveHalves (s : State) (d : Nat) : State :=
  (List.range 8).foldl (fun s h =>
    (s.setBitOf (fDirStatus_dead_mask h) (2 * d) false).setBitOf (fDirStatus_dead_mask h) (2 * d + 1) false) s

/-- DIE_READY (R250, R400): not before every home reports its sweep complete. -/
def execDieReady (d : Die) (s : State) : Host.Outcome State Fault Refusal :=
  if !s.recovering d || s.flag fFltStatus_device_recovering ||
      !((List.range 8).all fun h => s.get (fDirStatus_sweep h) == 0) then .next s
  else
    let t0 := (mapGet none s.flt.dieAt d.val).getD s.clock.now
    let s := (s.setBitOf fFltStatus_dies_recovering d false).reviveHalves d
    let s := s.setFlt { s.flt with dieAt := mapSet none s.flt.dieAt d.val none }
    .next ((s.event 0x1D 0x0F d ((s.clock.now - t0) / 1000)).fenceWaiting d)

end Sys2Proof.Machine
end

