-- ==== Sys2Proof/Machine/Link.lean ====
section
/-! DEFINITION. The UCIe modules and the host link: identity, training, loss and return (R301 to R305, R390). -/

namespace Sys2Proof.Machine

/-- A stage of start-up fails: it stops, FAULT_N is driven low and DEV_START records the stage (R494). -/
def State.startFail (s : State) (stage : Nat) : State :=
  let s := s.setAll [(fDevStart_failed_stage, stage), (fDevPins_fault_driven, 1)]
  { s with pins := { s.pins with failed := true } }

def State.setPins (s : State) (p : PinsSt) : State := { s with pins := p }

/-- Start-up goes on and its next stage is `n` (R494): stages before it are complete and none has failed. -/
def State.atStage (s : State) (n : Nat) : Bool :=
  s.pins.powered && !s.pins.failed && s.pins.stage + 1 == n && !s.flag fDevPins_thermtrip_driven

/-! ## Modules (R303, R324) -/

def State.moduleState (s : State) (k : Nat) : Nat := s.get (fUciMod_state k)

/-- A module changes state. -/
def State.setModule (s : State) (k st : Nat) : State :=
  (s.setAll [(fUciMod_state k, st), (fUciMod_stitch k, s.stitch)]).setBitOf fUciStatus_active k (st == 2)

/-- All eight modules train. -/
def State.trainAll (s : State) : State :=
  let s := s.setUci { s.uci with retries := [] }
  (List.range 8).foldl (fun s k => s.setModule k 1) s

/-- HOST_ID_READ (R301, R495): read every 10 ms until a die answers or 1,000 ms have passed. -/
def execHostIdRead (code : Nat) (stepping : Nat) (timeMs : Nat) (s : State) : Host.Outcome State Fault Refusal :=
  if !s.atStage 3 then .next s
  else
    let s := (s.advanceTo (timeMs * 1000000)).setAll [(fUciHostId_host_code, code), (fUciHostId_stepping, stepping)]
    if code % 256 = 0 then .next (if 1000 ≤ timeMs then s.startFail 3 else s)
    else if Config.qualifiedHost (code % 256) then
      .next ((s.set fUciHostId_fitted 1).setPins { s.pins with stage := 3 })
    else .next (s.startFail 3)

/-- MODULE_TRAIN_TIMEOUT (R303): the module is reset and trained again, up to three times at start-up. -/
def execModuleTrainTimeout (k : Fin 8) (s : State) : Host.Outcome State Fault Refusal :=
  if s.moduleState k ≠ 1 then .next s
  else
    let n := mapGet 0 s.uci.retries k.val
    if n < 3 then .next (s.setUci { s.uci with retries := mapSet 0 s.uci.retries k.val (n + 1) })
    else if s.atStage 6 then .next ((s.set fUciStatus_training_failed 1).startFail 6)
    else .next s

/-- MODULE_ACTIVE (R303, R305): after training or retraining. How many lanes training has replaced is a free value (R302), and so
is how many unacknowledged flits the adapter replays after retraining (R324). -/
def execModuleActive (k : Fin 8) (s : State) : Host.Outcome State Fault Refusal :=
  if s.moduleState k = 1 then
    let r := s.draw
    .next ((r.2.setModule k 2).set (fUciMod_repaired k) r.1)
  else if s.moduleState k = 3 then
    let r := s.draw
    .next ((r.2.setModule k 2).addTo fUciCntReplay_count r.1)
  else .next s

/-- MODULE_LINK_DOWN (R305): an active module retrains. The host link is not lost by it. -/
def execModuleLinkDown (k : Fin 8) (s : State) : Host.Outcome State Fault Refusal :=
  if s.moduleState k = 2 then
    .next (((s.setModule k 3).bump (fUciMod_retrains k) 1).event 0x18 0x16 k 3)
  else .next s

/-! ## The host link (R305) -/

/-- The UCI block reports the host link lost. `active` is UCI_STATUS.active just before the loss. -/
def State.hostLost (s : State) : State :=
  if s.uci.lost then s else
  let s := s.event 0x18 0x14 (s.get fUciStatus_active) 0
  let s := (List.range 8).foldl (fun s k => s.setModule k 0) (s.bump fUciStatus_losses 1)
  let s := s.set fUciStatus_link_up 0
  let s := s.setUci { s.uci with
    lost := true, hostOpen := [], vectors := s.uci.vectors.filterMap fun e =>
      let v : Vector := { e.2 with held := false }
      if v = {} then none else some (e.1, v) }
  let owed := s.coh.hostReqs
  owed.foldl (fun s r => (s.filterRespond r.msg 0x14).spillFault r.msg) (s.setHostReqs [])

/-- RETRAIN_TIMEOUT (R305): 1 ms in retraining. -/
def execRetrainTimeout (k : Fin 8) (s : State) : Host.Outcome State Fault Refusal :=
  .next (if s.moduleState k = 3 then s.hostLost else s)

/-- UCIE_TIMEOUT (R390): a CXL.cache request to `hpa` has waited 1 ms for its completion, or, where none has and `hpa`
is 0, a BIRsp is still owed. The record names the partitions that R305 tears down. -/
def execUcieTimeout (hpa : Nat) (s : State) : Host.Outcome State Fault Refusal :=
  let req := s.coh.hostReqs.any fun r => r.line ≤ hpa && hpa < r.line + lineBytes r.msg.bulk
  let owed := s.coh.dir.any fun e => e.state == .c && e.owedBlocks != 0
  if !(req || (hpa == 0 && owed)) then .next s
  else
    let mask := s.livePartitions fun p => s.coh.hostReqs.any fun r => r.msg.part == p
    let f : FaultInfo := { cause := 0x11, level := if mask = 0 then 0 else 2, unitKind := 9, die := filterDie hpa,
                           unit := moduleOf hpa, affected := mask, address := hpa }
    .next ((s.recordFault f).hostLost)

/-- LINK_RETRAIN (R305): every 100 ms after the loss, all eight modules train again. -/
def execLinkRetrain (s : State) : Host.Outcome State Fault Refusal :=
  .next (if s.uci.lost then s.trainAll else s)

/-- ALL_MODULES_ACTIVE (R303, R305): link_up is set and every function returns to its reset values; the host's dead bit
clears where every sweep is complete. -/
def execAllModulesActive (s : State) : Host.Outcome State Fault Refusal :=
  if s.linkUp || !((List.range 8).all fun k => s.moduleState k == 2) then .next s
  else if !(s.uci.lost || s.atStage 6) then .next s
  else
    let s := if s.uci.lost then s else s.setPins { s.pins with stage := 6 }
    let s := (s.set fUciStatus_link_up 1).setUci { s.uci with lost := false }
    let s := (List.range 17).foldl State.resetFunction s
    .next (s.reviveHost.event 0x18 0x15 0 0)

end Sys2Proof.Machine
end

