-- ==== Sys2Proof/Machine/Mesh.lean ====
section
/-! DEFINITION. The mesh, the welts and the lace: suspect routers and links, lane repair, failed groups, parents (R168,
R181 to R196, R458). -/

namespace Sys2Proof.Machine

def State.setMesh (s : State) (m : MeshSt) : State := { s with mesh := m }

/-! ## Suspect routers and links (R168, R181, R182) -/

def State.suspect (s : State) (d site : Nat) : State :=
  let t := d * 272 + site
  if s.flt.suspectRouters.contains t then s
  else s.setFlt { s.flt with suspectRouters := s.flt.suspectRouters ++ [t] }

def State.suspectLink (s : State) (l : Nat × Nat × Nat) : State :=
  if s.flt.suspectLinks.contains l then s
  else s.setFlt { s.flt with suspectLinks := s.flt.suspectLinks ++ [l] }

/-- FLIT_RETRY (R168, R181): the resend is counted; `flit.again` says that it is of the flit that the link last
resent (log entry 39). The eighth resend of one flit in succession makes the link suspect. -/
def execFlitRetry (d : Die) (site : Site) (port : Fin 5) (flit : Resent) (s : State) :
    Host.Outcome State Fault Refusal :=
  let t := d.val * 272 + site.val
  let key := t * 10 + port * 2 + flit.plane
  let run := if flit.again then mapGet 0 s.flt.retryRuns key + 1 else 1
  let s := (s.addTo (fMeshCntRetry_count d) 1).setFlt { s.flt with retryRuns := mapSet 0 s.flt.retryRuns key run }
  .next (if run = 8 then s.suspectLink (t, port, flit.plane) else s)

/-- CREDIT_TIMEOUT (R181). -/
def execCreditTimeout (d : Die) (site : Site) (_ : Fin 5) (s : State) : Host.Outcome State Fault Refusal :=
  .next (s.suspect d site)

/-- ROUTER_PARITY_ERROR (R181). -/
def execRouterParityError (d : Die) (site : Site) (s : State) : Host.Outcome State Fault Refusal :=
  .next (s.suspect d site)

/-- The records of the shape that a task was placed with, as (die, site, port, plane). -/
def State.taskPorts (s : State) (k : Task) : List (Nat × Nat × Nat × Nat) :=
  if !k.program.shaped then [] else
  match ((s.lastOf k.part).bind fun l => l.schedules).bind fun ss => (ss.getD k.schedule [])[k.shape]? with
  | none => []
  | some sh => sh.records.filterMap fun r =>
      (atAnchor k.anchor r.dx r.dy).map fun (x, y) => (r.die, y * 17 + x, r.port, r.plane)

/-- The partitions with a placed shaped task that has a record of which `f` holds. -/
def State.shapedOn (s : State) (f : Nat × Nat × Nat × Nat → Bool) : List Nat :=
  (List.range 16).filter fun p => s.tile.tasks.any fun k =>
    k.part == p && (k.phase == .placed || k.phase == .running) && (s.taskPorts k).any f

/-- Partitions are torn down by one fault, which is recorded once and names them (R409, R411). -/
def State.faultMany (s : State) (ps : List Nat) (f : FaultInfo) : State :=
  let live := ps.filter fun p => s.partState p != 0 && s.partState p != 4
  let s := live.foldl (fun s p => s.teardown p f.cause) s
  s.recordFault { f with level := if live.isEmpty then f.level else 2, affected := (live.map (2 ^ ·)).foldl (· + ·) 0,
                         gen := match f.guilty with | some p => if live.contains p then s.generation p else 0 | none => 0 }

def State.needRoutes (s : State) (d : Nat) : State :=
  if s.flt.rerouting.contains d then s else s.setFlt { s.flt with rerouting := s.flt.rerouting ++ [d] }

/-- A dead router: its tile is fenced, and partitions whose shaped tasks use one of its ports fault. -/
def State.routerDies (s : State) (d site : Nat) : State :=
  if s.routerDead d site then s else
  let t := d * 272 + site
  let s := (s.set (fMeshDead_dead d (site / 64) (site % 64)) 1).addTo (fMeshStatus_dead_routers d) 1
  let s := s.event d 0x06 site (s.get (fMeshStatus_route_epoch d))
  let s := (s.isolate t 9 0).2
  let ps := s.shapedOn fun r => r.1 == d && r.2.1 == site
  (s.faultMany ps { cause := 9, level := 1, unitKind := 2, die := d, unit := site, tile := some t }).needRoutes d

/-- A dead link on output port `port` and plane `plane` of a router. -/
def State.linkDies (s : State) (d site port plane : Nat) : State :=
  let t := d * 272 + site
  if s.linkDead d site port plane then s else
  let s := s.setMesh { s.mesh with deadLinks := s.mesh.deadLinks ++ [(t, port, plane)] }
  let s := (s.addTo (fMeshStatus_dead_links d) 1).event d 0x07 site (port + 8 * plane)
  let ps := s.shapedOn fun r => r == (d, site, port, plane)
  (s.faultMany ps { cause := 0x0A, unitKind := 3, die := d, unit := site, detail := port + 8 * plane }).needRoutes d

/-- LOOPBACK_CHECK (R182): of a router that is suspect, or that has a suspect link, and of each of its links. -/
def execLoopbackCheck (d : Die) (site : Site) (routerOk : Bool) (deadLinks : List (Fin 5 × Fin 2)) (s : State) :
    Host.Outcome State Fault Refusal :=
  let t := d.val * 272 + site.val
  if !(s.flt.suspectRouters.contains t || s.flt.suspectLinks.any fun l => l.1 == t) then .next s
  else
    let s := s.setFlt { s.flt with suspectRouters := s.flt.suspectRouters.erase t,
                                   suspectLinks := s.flt.suspectLinks.filter fun l => l.1 != t }
    .next (if !routerOk then s.routerDies d site
      else deadLinks.foldl (fun s e => s.linkDies d site e.1 e.2) s).excuse

/-- The dies that a die path runs through from die `a`. -/
def pathDies : Nat → List Nat → List Nat
  | a, [] => [a]
  | a, w :: ws => a :: pathDies (farDie w a) ws

/-- ROUTES_REWRITTEN (R182, R189): dynamic traffic flows on the new routes of die `d`; tiles that no route reaches are
fenced. -/
def execRoutesRewritten (d : Die) (s : State) : Host.Outcome State Fault Refusal :=
  if !s.flt.rerouting.contains d.val then .next s
  else
    let s := s.setFlt { s.flt with rerouting := s.flt.rerouting.erase d.val }
    let s := s.addTo (fMeshStatus_route_epoch d) 1
    let s := s.event d 0x08 (s.get (fMeshStatus_route_epoch d)) (2 ^ d.val)
    let through := (List.range 64).filter fun i => (pathDies (i / 8) (s.mesh.routes.paths.getD i [])).contains d.val || i % 8 == d.val
    let s := s.setMesh { s.mesh with rewritten := (s.mesh.rewritten ++ through).eraseDups }
    let live := s.liveSites d
    let cut := (List.range 272).filter fun t => !live.contains t && (s.serves (d.val * 272 + t)).isSome
    .next (cut.foldl (fun s t => (s.isolate (d.val * 272 + t) 9 0).2) s)

/-! ## Welt groups (R183, R188, R189) -/

/-- WELT_REPLAY (R183). -/
def execWeltReplay (d : Die) (edge : Fin 4) (_ : Grp) (s : State) : Host.Outcome State Fault Refusal :=
  .next (if (weltAt d edge).isSome then s.addTo (fWeltCntReplay_count d edge) 1 else s)

/-- Group `g` of welt `w` fails; the port of die `d` detected it. -/
def State.groupFails (s : State) (d w g : Nat) : State :=
  let mode := s.weltMode w g
  if mode = 3 then s else
  let owner := s.get (fWeltOwner_partition (weltDies w).1 (weltEdge w (weltDies w).1) g)
  let s := (s.setWeltMode w g 3).event d 0x05 (w * 16 + g) mode
  let f : FaultInfo := { cause := 0x0B, unitKind := 7, die := d, unit := w * 16 + g }
  if mode = 1 then
    let ps := s.shapedOn fun r => outward r.1 (siteX r.2.1) (siteY r.2.1) r.2.2.1 == some (.welt w g)
    s.faultMany ps { f with guilty := some owner }
  else if mode = 2 then
    if s.weltWorks w then (((s.recordFault f).needRoutes (weltDies w).1).needRoutes (weltDies w).2).excuse
    else s.weltFault w
  else s.recordFault f

/-- A group of the receiving side of a welt; the lace lanes of an edge are numbered above the groups. -/
def groupKey (d e g : Nat) : Nat := (d * 4 + e) * 16 + g
def laceKey (d e : Nat) : Nat := 4096 + d * 4 + e

def State.swapsOf (s : State) (key : Nat) : Nat := (s.awl.swapping.filter fun x => x.1 == key).length

/-- The calibration lane of a group, numbered above its 256 data lanes, two CRC lanes and five replacement spares. -/
def calLane : Nat := 263

/-- Lane `lane` of a group is flagged (R188): it gets a free spare, else the calibration lane, whose rotation then stops; a
seventh replacement fails the group (R189). A WELT slice on the group aborts (R459). `true`: a spare was free. -/
def State.flagLane (s : State) (d e g w lane : Nat) : Bool × State :=
  let key := groupKey d e g
  let used := s.get (fWeltSpares_used d e g) + s.swapsOf key
  if 6 ≤ used then (false, s.groupFails d w g)
  else
    let s := s.abortSlices fun r => r.die == d && r.kind == 3 && weltUnit d r.unit == (e, g)
    let stopped := if used = 5 then s.awl.calStopped ++ [key] else s.awl.calStopped
    (true, s.setAwl { s.awl with swapping := s.awl.swapping ++ [(key, lane, used, 0)], calStopped := stopped })

/-- LANE_FLAG (R188): of a data lane, or of one of the 16 lace lanes, whose two spares are the edge's (R190). -/
def execLaneFlag (d : Die) (edge : Fin 4) (g : Grp) (lane : Fin 256) (lace : Bool) (s : State) :
    Host.Outcome State Fault Refusal :=
  match weltAt d edge with
  | none => .next s
  | some w =>
    let key := if lace then laceKey d edge else groupKey d edge g
    let known := s.awl.swapping.any (fun x => x.1 == key && x.2.1 == lane.val) ||
      s.awl.laneUse.any fun x => x.1 == key && x.2.1 == lane.val
    if known || (lace && 16 ≤ lane.val) then .next s
    else if lace then
      let used := s.get (fWeltLace_spares_used d edge) + s.swapsOf key
      .next (s.setAwl { s.awl with swapping := s.awl.swapping ++ [(key, lane.val, used, if used < 2 then 0 else 3)] })
    else if s.weltMode w g = 3 then .next s
    else .next (s.flagLane d edge g w lane).2

/-- The oldest lane repair of a group, or of the lace lanes of the edge, at one stage of R188. -/
def State.swapAt (s : State) (d e g stage : Nat) : Option (Nat × Nat × Nat × Nat) :=
  s.awl.swapping.find? (fun x => x.1 == groupKey d e g && x.2.2.2 == stage) <|>
    s.awl.swapping.find? fun x => x.1 == laceKey d e && x.2.2.2 == stage

def State.swapStep (s : State) (d e g stage : Nat) : State :=
  match s.swapAt d e g stage with
  | none => s
  | some x => s.setAwl { s.awl with
      swapping := s.awl.swapping.map fun y => if y = x then (x.1, x.2.1, x.2.2.1, stage + 1) else y }

/-- SPARE_TRAINED (R188): the sender copies the failing lane onto the spare. -/
def execSpareTrained (d : Die) (edge : Fin 4) (g : Grp) (s : State) : Host.Outcome State Fault Refusal :=
  .next (s.swapStep d edge g 0)

/-- LANE_SWITCH (R188): both ends switch to the spare. -/
def execLaneSwitch (d : Die) (edge : Fin 4) (g : Grp) (s : State) : Host.Outcome State Fault Refusal :=
  .next (s.swapStep d edge g 1)

/-- LANE_RETIRE (R188): the lane is retired, WELT_SPARES or WELT_LACE counts it, and the repair is logged. The log and the
event have 8 bits for the lane: what they hold for a lane above 255 is open (log entry 136). -/
def execLaneRetire (d : Die) (edge : Fin 4) (g : Grp) (durationUs : Fin 16) (s : State) :
    Host.Outcome State Fault Refusal :=
  match s.swapAt d edge g 2, weltAt d edge with
  | some x, some w =>
    let s := s.setAwl { s.awl with swapping := s.awl.swapping.erase x,
                                   laneUse := s.awl.laneUse ++ [(x.1, x.2.1, x.2.2.1)] }
    let s := if x.1 = laceKey d edge then s.bump (fWeltLace_spares_used d edge) 1
      else s.bump (fWeltSpares_used d edge g) 1
    let r := if x.2.1 < 256 then (x.2.1, s) else (s.draw.1 % 256, s.draw.2)
    let s := r.2.setAll
      [(fWeltRepairLog_group d edge, g), (fWeltRepairLog_lane d edge, r.1),
       (fWeltRepairLog_duration_us d edge, durationUs), (fWeltRepairLog_stitch d edge, s.stitch)]
    .next ((s.addTo (fWeltCntRepair_count d edge) 1).event d 0x04 (w * 16 + g) (r.1 + 256 * durationUs.val))
  | _, _ => .next s

/-- WELT_SEND_TIMEOUT (R390): the sending port of die `d` has had flits unacknowledged for 5 µs while more wait. -/
def execWeltSendTimeout (d : Die) (edge : Fin 4) (g : Grp) (s : State) : Host.Outcome State Fault Refusal :=
  match weltAt d edge with
  | none => .next s
  | some w => .next (s.groupFails d w g)

/-- CALIBRATION_MOVE (R458): the next lane of a raw or multiplexed group goes onto the calibration lane and back: the data
lanes, the two CRC lanes, the replacement spares that carry nothing. -/
def execCalibrationMove (d : Die) (edge : Fin 4) (g : Grp) (s : State) : Host.Outcome State Fault Refusal :=
  match weltAt d edge with
  | none => .next s
  | some w =>
    let key := groupKey d edge g
    let mode := s.weltMode w g
    if s.awl.calStopped.contains key || !(mode == 1 || mode == 2) then .next s
    else
      let lanes := 258 + (5 - min 5 (s.get (fWeltSpares_used d edge g) + s.swapsOf key))
      .next (s.setAwl { s.awl with
        calibration := mapSet 0 s.awl.calibration key ((mapGet 0 s.awl.calibration key + 1) % lanes)
        calMoveAt := mapSet 0 s.awl.calMoveAt key (s.clock.now + 1) })

/-! ## The lace (R191, R192) -/

/-- The primary and the alternate parent of a die, each with the welt from it (R191). CD0 generates the tick. -/
def laceParents (d : Nat) : Option ((Nat × Nat) × (Nat × Nat)) :=
  [none, some ((0, 0), (5, 7)), some ((1, 1), (6, 8)), some ((2, 2), (7, 9)), some ((0, 6), (5, 3)),
   some ((4, 3), (1, 7)), some ((5, 4), (2, 8)), some ((6, 5), (3, 9))].getD d none

/-- Where a die takes its tick from now: the parent and the welt, `none` for its own count. -/
def State.tickParent (s : State) (d : Nat) : Option (Nat × Nat) :=
  (laceParents d).bind fun ps =>
    match s.get (fLaceStatus_parent d) with
    | 0 => some ps.1
    | 1 => some ps.2
    | _ => none

/-- The arrival offset of a tick at a die, in ns as eight bits of two's complement: open within ±4 ns (R191, R192). -/
def State.skewNs (s : State) (d : Nat) : Nat :=
  let k := Config.laceSkew d s.stitch % 9
  if k < 4 then 252 + k else k - 4

/-- A die takes its tick from its primary parent again (R192). -/
def State.toPrimary (s : State) (d : Nat) : State :=
  if s.get (fLaceStatus_parent d) = 0 then s
  else (s.set (fLaceStatus_parent d) 0).bump (fLaceStatus_switches d) 1

/-- LACE_PARENT_TIMEOUT (R192): no tick from the parent, 20 ns after the expected arrival; `skewNs` is the arrival
offset of the tick that the die takes instead. CD0 has no parent (R191). -/
def execLaceParentTimeout (d : Die) (alternateOk : Bool) (skewNs : BitVec 8) (s : State) : Host.Outcome State Fault Refusal :=
  let now := s.get (fLaceStatus_parent d)
  if now = 2 || (laceParents d).isNone then .next s
  else
    let src := if now = 0 && alternateOk then 1 else 2
    let s := (s.setAll [(fLaceStatus_parent d, src), (fLaceStatus_skew_ns d, skewNs.toNat)]).bump (fLaceStatus_switches d) 1
    .next (s.event d 0x03 src skewNs.toNat)

/-! ## Counters (R195, R196) -/

/-- MESH_CNT_RETRY of die `d` clears (R195). -/
def State.clearMesh (s : State) (d : Nat) : State := s.set (fMeshCntRetry_count d) 0

/-- The WELT_CNT counters of an edge clear (R196). -/
def State.clearWelt (s : State) (d e : Nat) : State :=
  s.setAll [(fWeltCntReplay_count d e, 0), (fWeltCntRepair_count d e, 0)]

/-- MESH_CNT_CLEAR (R195). -/
def execMeshCntClear (d : Die) (s : State) : Host.Outcome State Fault Refusal := .next (s.clearMesh d)

/-- WELT_CNT_CLEAR (R196). -/
def execWeltCntClear (d : Die) (edge : Fin 4) (s : State) : Host.Outcome State Fault Refusal :=
  .next (s.clearWelt d edge)

end Sys2Proof.Machine
end

