-- ==== Sys2Proof/Machine/Sched.lean ====
section
/-! DEFINITION. The scheduler of a partition: the offered list, placement, issue, rotation and replay (R31, R86 to R91, R177,
R314 to R316, R370 to R375, R397). -/

namespace Sys2Proof.Machine

/-! ## The offered list (R370 to R372) -/

/-- Priority class and lease of ring `k` (R365). -/
def State.ringClass (s : State) (p k : Nat) : Nat := field (s.partEntry p) (64 + k) 1
def State.ringLease (s : State) (p k : Nat) : Nat := field (s.partEntry p) (80 + 2 * k) 2

/-- The rings of a class in rotation order, from its pointer. -/
def State.rotationOrder (s : State) (p c : Nat) : List Nat :=
  let at_ := (s.partSt p).rotation.getD c 0
  ((List.range 16).map fun i => (at_ + i) % 16).filter fun k => s.ringClass p k == c

/-- The leading candidates whose tiles together stay within a lease, and the rest. -/
def leased : Nat → List Offer → List Offer × List Offer
  | _, [] => ([], [])
  | n, o :: os =>
    if o.demand ≤ n then
      let r := leased (n - o.demand) os
      (o :: r.1, r.2)
    else ([], o :: os)

/-- The offered list: leased candidates by class and rotation, then the others in the same order (R371). -/
def State.offeredList (s : State) (p : Nat) (cands : List (List Offer)) : List Offer :=
  let rings := (List.range 4).flatMap fun c => s.rotationOrder p c
  let cut (k : Nat) : List Offer × List Offer := leased (s.ringLease p k) (cands.getD k [])
  rings.flatMap (fun k => (cut k).1) ++ rings.flatMap fun k => (cut k).2

/-! ## Placement (R86 to R90, R177) -/

/-- Slots that a task owns on a port: (die, site, port, plane, first, count). -/
structure OwnedSlots where
  die : Nat
  site : Nat
  port : Nat
  plane : Nat
  first : Nat
  count : Nat
deriving DecidableEq, Repr

/-- What a record owns at an anchor in a stitch of `slots` slots (R176). -/
def SlotRecord.at_ (r : SlotRecord) (slots anchor : Nat) : OwnedSlots :=
  let (x, y) := (atAnchor anchor r.dx r.dy).getD (0, 0)
  ⟨r.die, y * 17 + x, r.port, r.plane, r.first, min r.count (slots - r.first)⟩

def OwnedSlots.meets (a b : OwnedSlots) : Bool :=
  (a.die, a.site, a.port, a.plane) == (b.die, b.site, b.port, b.plane) && a.first < b.first + b.count &&
    b.first < a.first + a.count

/-- Where a step has been placed. -/
structure Placed where
  offer : Offer
  tiles : List Nat
  anchor : Nat := 0
  shape : Nat := 0
deriving DecidableEq, Repr

/-- What one round of R90 has placed, the free tiles left and the slots taken. -/
structure Round where
  free : List Nat
  taken : List OwnedSlots := []
  placed : List Placed := []

/-- A shaped step: the first anchor and shape that fit (R88, R177). -/
def State.placeShaped (s : State) (p : Nat) (o : Offer) (r : Round) : Round :=
  let entry := s.partEntry p
  let shapes := (((s.lastOf p).bind fun l => l.schedules).getD []).getD o.task.schedule []
  let fits (a : Nat) (sh : Shape) : Option (List Nat) :=
    match s.shapeTiles entry sh a with
    | some ts => if ts.all r.free.contains && sh.records.all (fun x => s.recordFits p entry a x &&
        !(r.taken.any (x.at_ s.slots a).meets)) then some ts else none
    | none => none
  let found := (List.range 272).findSome? fun a =>
    shapes.zipIdx.findSome? fun e => (fits a e.1).map fun ts => (a, e.2, e.1, ts)
  match found with
  | none => r
  | some (a, i, sh, ts) =>
    { free := r.free.filter fun t => !ts.contains t, taken := r.taken ++ sh.records.map (fun x => x.at_ s.slots a),
      placed := r.placed ++ [⟨o, ts, a, i⟩] }

/-- A loose step: the free tile of the lowest device site that it serves (R89). -/
def placeLoose (o : Offer) (r : Round) : Round :=
  match r.free with
  | [] => r
  | t :: ts => { r with free := ts, placed := r.placed ++ [⟨o, [t], 0, 0⟩] }

/-- The rounds of R90. -/
def State.placeRounds (s : State) (p : Nat) (free : List Nat) : Nat → List Offer → List Placed
  | 0, _ => []
  | n + 1, list =>
    let r := (list.filter fun o => o.task.program.shaped).foldl (fun r o => s.placeShaped p o r) { free }
    let r := (list.filter fun o => !o.task.program.shaped).foldl (fun r o => placeLoose o r) r
    match list.find? fun o => !r.placed.any fun x => x.offer == o with
    | none => r.placed
    | some o => State.placeRounds s p free n
        (list.filter fun x => !(x.task.ring == o.task.ring && (x == o || (list.findIdx (· == o)) ≤ list.findIdx (· == x))))

/-- The free tiles of a partition, in the order of the sites that they serve (R86, R89). -/
def State.freeTiles (s : State) (p : Nat) : List Nat := (s.tilesOf p).filter fun t => s.tileCode t == 1

/-- A placed step takes its tiles (R93). -/
def State.takeTiles (s : State) (x : Placed) : State :=
  let k := { x.offer.task with id := s.tile.taskNo, anchor := x.anchor, shape := x.shape, tiles := x.tiles,
                               phase := .placed, stitch := s.stitch }
  let s := { s with tile := { s.tile with tasks := s.tile.tasks ++ [k], taskNo := s.tile.taskNo + 1 } }
  x.tiles.zipIdx.foldl (fun s e =>
    let t := e.1
    let s := s.setTile t { ({} : Tile) with task := some k.id, lastIssued := (s.tileAt t).lastIssued }
    (s.setTileCode t 2).setAll [(fTileState_rank (tileDie t) (tileSite t), e.2),
      (fTileState_step (tileDie t) (tileSite t), k.tag)]) s

/-! ## The tick's scheduling (R314, R374, R375) -/

/-- A ring's consumer index moves past the steps placed, in the device and in its header. -/
def State.advanceRing (s : State) (p k n : Nat) : State :=
  if n = 0 then s else
  let c := (s.get (fPartSqStatus_consumer p k) + n) % 2 ^ 32
  let s := s.set (fPartSqStatus_consumer p k) c
  s.schedWrite p (s.sqBase p k + 8) (toLE 4 c) (.ringWrite p)

/-- A ring's first candidate waits while a step before it in the list is placed (R374). -/
def preempted (list placed : List Offer) (k : Nat) : Bool :=
  match list.find? fun o => o.task.ring == k with
  | none => false
  | some o => !placed.contains o && (list.takeWhile (· != o)).any fun x => x.task.ring != k && placed.contains x

/-- The partition schedules: it is ACTIVE, a partition last is in force, and no unit reset or replay holds it. -/
def State.schedules (s : State) (p : Nat) : Option PartLast :=
  if s.partState p = 2 && !s.held p then s.lastOf p else none

/-- The scheduler places what the scan found. -/
def State.placeScan (s : State) (p : Nat) (x : Scan) : State :=
  let s := x.fails.foldl (fun s e => s.ringFails p e.1 e.2) s
  let s := (List.range 16).foldl (fun s c =>
    if x.badCq.contains c then (s.set (fPartCqStatus_bad_consumer p c) 1).partEvent p (fPartEvent_ring_error p)
    else s.set (fPartCqStatus_bad_consumer p c) 0) s
  let list := s.offeredList p x.found
  let done := s.placeRounds p (s.freeTiles p) (list.length + 1) list
  let offers := done.map fun y => y.offer
  let s := done.foldl State.takeTiles s
  let s := offers.foldl (fun s o => s.addTo (fPartCqStatus_owed p o.task.cq) 1) s
  let s := (List.range 16).foldl (fun s k =>
    let s := s.advanceRing p k (offers.filter fun o => o.task.ring == k).length
    if preempted list offers k then s.addTo (fPartAccPreempt_count p k) 1 else s) s
  let rings := (List.range 16).filter fun k => offers.any fun o => o.task.ring == k
  s.setPartSt p { s.partSt p with deferred := false, issuedRings := rings }

/-- The scheduler of partition `p` at the tick: with every read answered it places at once; else it waits for its reads,
until the issue point at the latest. -/
def State.scheduleTick (s : State) (p : Nat) : State :=
  match s.schedules p with
  | none => s
  | some l =>
    let x := s.scanRings l p
    if x.st.partState p ≠ 2 then x.st
    else if x.owed then x.st.setPartSt p { x.st.partSt p with deferred := true }
    else x.st.placeScan p x

/-- At the end of the boundary phase a scheduler that still waits goes on without the rings whose reads are owed: they
are abandoned for this tick (R405). -/
def State.scheduleLate (s : State) (p : Nat) : State :=
  if !(s.partSt p).deferred then s
  else match s.schedules p with
    | none => s
    | some l =>
      let x := s.scanRings l p
      if x.st.partState p ≠ 2 then x.st else x.st.placeScan p x

/-! ## The issue point (R31, R71, R73, R375) -/

/-- A placed step issues: its groups start with their lanes at the entry of the program. -/
def State.startTask (s : State) (k : Task) : State :=
  let s := s.setTask { k with phase := .running }
  let g : Group := { started := k.program.laneMask, live := k.program.laneMask,
                     paths := [{ mask := k.program.laneMask, pc := k.program.entry }] }
  let s := k.tiles.foldl (fun s t =>
    let s := s.setTile t { s.tileAt t with groups := (List.range k.program.groups).map fun i => (i, g) }
    if s.fenced t then s else s.setTileCode t 3) s
  let key := k.ring * 2 ^ 32 + k.index
  let x := s.partSt k.part
  let (seen, at_) := mapGet (s.stitch + 1, s.tickArrival) x.firstSeen key
  let s := s.setPartSt k.part { x with firstSeen := mapErase x.firstSeen key }
  let s := s.addTo (fPartAccIssued_count k.part k.ring) 1
  let s := s.addTo (fPartAccWaitSt_stitches k.part k.ring) (s.stitch + 1 - seen)
  s.addTo (fPartAccWaitNs_ns k.part k.ring) (s.tickArrival + 200 - at_)

/-! ## Rotation in the slack window (R372) -/

/-- Each class's pointer moves past the first ring of its rotation that issued. -/
def State.rotatePointers (s : State) (p : Nat) : State :=
  let x := s.partSt p
  let rot := (List.range 4).map fun c =>
    match (s.rotationOrder p c).find? x.issuedRings.contains with
    | some k => (k + 1) % 16
    | none => x.rotation.getD c 0
  s.setPartSt p { x with rotation := rot, issuedRings := [] }

/-! ## Replay (R397) -/

/-- Descriptor order: by ring, then by how far the index lies past the oldest. -/
def insertTask (k : Task) : List Task → List Task
  | [] => [k]
  | x :: xs => if k.ring < x.ring || (k.ring = x.ring && (x.index + 2 ^ 32 - k.index) % 2 ^ 32 < 2 ^ 31) then k :: x :: xs
    else x :: insertTask k xs

/-- The interrupted steps of partition `p` are placed again. -/
def State.replaySteps (s : State) (p : Nat) : State :=
  let mine := (s.tile.tasks.filter fun k => k.part == p && k.phase == .interrupted).foldl (fun l k => insertTask k l) []
  let shapes (k : Task) : List Shape := (((s.lastOf p).bind fun l => l.schedules).getD []).getD k.schedule []
  let demand (k : Task) : Nat := if k.program.shaped then (((shapes k).head?).map fun x => x.entries.length).getD 0 else 1
  let list := mine.map fun k => (⟨{ k with phase := .placed, excused := false }, demand k⟩ : Offer)
  let done := s.placeRounds p (s.freeTiles p) (list.length + 1) list
  let again := done.map fun y => y.offer.task.id
  let s := { s with tile := { s.tile with tasks := s.tile.tasks.filter fun k => !again.contains k.id } }
  let s := done.foldl State.takeTiles s
  s.event 0x1D 0x0D p done.length (some p)

/-- The suspects at the front of a replay that had no step running are released at once. -/
def State.skipReplay (s : State) : List Nat → List Nat
  | [] => []
  | p :: ps =>
    if s.partState p = 2 && s.tile.tasks.any (fun k => k.part == p && k.phase == .interrupted) then p :: ps
    else s.skipReplay ps

/-- One tick of a replay: the partition that ran is released, or the next one's steps issue again. -/
def State.replayTick (s : State) (r : Replay) : State :=
  if s.tickArrival < r.startAt then s
  else
    let put (s : State) (x : Option Replay) : State :=
      s.setFlt { s.flt with replays := s.flt.replays.filterMap fun y => if y = r then x else some y }
    let finish (s : State) (todo : List Nat) : State :=
      if todo.isEmpty then
        (put s none).recordFault { cause := 0x16, unitKind := r.kind, die := r.die, unit := r.unit }
      else put s (some { r with todo, current := none })
    match r.current with
    | some p => finish (s.dropInterrupted p) (s.skipReplay r.todo)
    | none =>
      match s.skipReplay r.todo with
      | [] => finish s []
      | p :: ps => (put s (some { r with todo := ps, current := some p })).replaySteps p

def State.replaysTick (s : State) : State := (s.flt.replays.foldl State.replayTick s).showReplay

end Sys2Proof.Machine
end

