-- ==== Sys2Proof/Machine/Part.lean ====
section
/-! DEFINITION. The life of a partition: what it holds, zeroing, the end of a drain, the moves at a tick, accounting (R363 to
R369, R375, R379, R388). -/

namespace Sys2Proof.Machine

/-! ## What a partition holds (R363, R365, R368) -/

/-- The DRAM ranges that a device last gives to partition `p`, pages and program area, as (first device physical address,
bytes). -/
def DeviceLast.ranges (l : DeviceLast) (p : Nat) : List (Nat × Nat) :=
  (List.range 8).flatMap fun d =>
    let e := l.entry p
    let pages := (l.pages.filter fun x => x.part == p).filterMap fun x => x.extent d
    let prog := if l.defined.testBit p && field e 1 1 == d then [(field e 8 8, 2 * field e 16 4)] else []
    (pages ++ prog).map fun x => (dpa d x.1, x.2)

def DeviceLast.holds (l : DeviceLast) (p a : Nat) : Bool := (l.ranges p).any fun x => x.1 ≤ a && a < x.1 + x.2

/-- Partition `p` of one device last and partition `q` of another name a common resource. -/
def sharesWith (l : DeviceLast) (p : Nat) (m : DeviceLast) (q : Nat) : Bool :=
  (l.ranges p).any (fun a => (m.ranges q).any fun b => !disjoint a b) ||
    (entrySites (l.entry p)).any (entrySites (m.entry q)).contains ||
    (List.range 8).any fun d => !disjoint (l.eyelets.getD (p * 8 + d) (0, 0)) (m.eyelets.getD (q * 8 + d) (0, 0))

/-- A resource that partition `p` names has not been returned: a partition that the device last removed still drains with
it (R364). -/
def State.waitsForPool (s : State) (p : Nat) : Bool :=
  match s.dev with
  | none => false
  | some l => (List.range 16).any fun q =>
      match (s.partSt q).removing with
      | some m => sharesWith l p m q
      | none => false

/-! ## Zeroing (R369) -/

/-- The lines of the extents are back-invalidated, as a WBM would: every directory entry of them begins to collect. -/
def State.clearCopies (s : State) (l : DeviceLast) (p : Nat) : State :=
  (s.coh.dir.filter fun e => l.holds p e.line && (e.state == .s || e.state == .h)).foldl (fun s e =>
    s.collectOr e (halvesIn e.presence) (e.presence.testBit 16) false .none none) s

/-- A partition that only this device last defines: it is PENDING, and what it holds is to be zeroed (R56, R364). -/
def State.definePart (s : State) (p : Nat) : State :=
  let s := if s.partState p = 0 then s.set (fPartStatus_state p) 1 else s
  s.setPartSt p { s.partSt p with zeroing := true }

/-- The zero engine acts on what has been returned. -/
def State.zeroTick (s : State) (p : Nat) : State :=
  match s.dev with
  | some l => if (s.partSt p).zeroing && s.partState p = 1 && !s.waitsForPool p then s.clearCopies l p else s
  | none => s

/-- The die eyelets of partition `p` return to count 0 with void clear. -/
def State.resetEyelets (s : State) (p : Nat) : State :=
  (List.range 8).foldl (fun s d =>
    let (first, n) := s.eyeletRange p d
    { s with eyelets := mapClear s.eyelets (d * 32768 + first) (d * 32768 + first + n) }) s

/-- The extents read as zero: DRAM by full-unit writes, slices by invalidation without write-back. -/
def State.zeroRanges (s : State) (l : DeviceLast) (p : Nat) : State :=
  let s := { s with coh := { s.coh with
    l3 := s.coh.l3.filter (fun x => !l.holds p x.line)
    aluQ := s.coh.aluQ.filter fun q => !(l.holds p q.msg.addr && q.msg.opcode == 5) } }
  (l.ranges p).foldl (fun s e => s.dramZero e.1 (e.1 + e.2)) s

/-- ZEROING_DONE (R369): not while another partition holds a resource, or an agent holds a line of the extents. -/
def execZeroingDone (p : PIdx) (s : State) : Host.Outcome State Fault Refusal :=
  match s.dev with
  | none => .next s
  | some l =>
    if s.partState p ≠ 1 || !(s.partSt p).zeroing || s.waitsForPool p || s.coh.dir.any (fun e => l.holds p e.line) then
      .next s
    else
      let s := s.zeroRanges l p
      let s := ((s.tilesOf p).foldl State.scratchZero s).resetEyelets p
      .next (s.setPartSt p { s.partSt p with zeroing := false })

/-! ## The end of a drain (R378, R379) -/

/-- A request of partition `p` from before its teardown: it carries an old generation. -/
def State.oldRequest (s : State) (p : Nat) (m : Msg) : Bool :=
  m.part == p && m.source != 16 && 1 ≤ m.opcode && m.opcode ≤ 6 && m.gen != s.generation p

/-- A completion record of the partition is still to be written: its body is on the way or accepted. -/
def State.recordLeft (s : State) (p : Nat) : Bool :=
  s.part.records.any fun r => r.part == p && (r.accepted && !r.phase || s.coh.txs.any fun x => x.wants.any fun w => match w with
    | .recordBody q c i | .recordPhase q c i => q == p && c == r.cq && i == r.index
    | _ => false)

/-- Work of an old generation that has not ended by the drain's end is dropped (R378). -/
def State.dropOld (s : State) (p : Nat) : State :=
  let s := { s with coh := { s.coh with
    net := s.coh.net.filter (fun m => !s.oldRequest p m)
    homeWait := s.coh.homeWait.filter (fun m => !s.oldRequest p m)
    filterWait := s.coh.filterWait.filter (fun m => !s.oldRequest p m)
    halfWaits := s.coh.halfWaits.filter (fun w => !s.oldRequest p w.msg)
    aluQ := s.coh.aluQ.filter (fun q => !(q.msg.opcode == 6 && s.oldRequest p q.msg))
    txs := s.coh.txs.filter (fun x => !(x.part == p && x.gen != s.generation p))
    dir := s.coh.dir.map fun (e : DirEnt) =>
      if e.state = DirState.c && (e.pending = Pending.wbm || e.pending = Pending.atR) && e.req.any (s.oldRequest p) then
        { e with pending := .none, req := none } else e
    filter := s.coh.filter.map fun (e : FilterEnt) => if e.req.any (s.oldRequest p) then { e with req := none } else e } }
  s.setRecords (s.part.records.filter fun r => r.part != p)

/-- TILE_SPLIT of every tile of partition `p` (R93). -/
def State.setShares (s : State) (p share : Nat) : State :=
  (s.tilesOf p).foldl (fun s t => s.set (fTileSplit_l1_share (tileDie t) (tileSite t)) share) s

/-- The fields of a partition that a teardown resets, with their shadows (R12, R379): those of its view, and TILE_SPLIT of its
tiles. -/
def State.resetPartFields (s : State) (p : Nat) : State :=
  let s := s.setShares p 0
  let mine (a : Nat) : Bool := let (sp, i, _) := spaceOf a; sp == .view && i == p
  let s := (s.dropCommit (18 + p)).resetFields mine fun r => r == .teardown
  { s with cfg := { s.cfg with shadow := s.cfg.shadow.filter fun e => !mine (e.1 / 64) } }

/-- A partition that is no longer defined returns its resources to the pool. -/
def State.forgetPart (s : State) (p : Nat) : State :=
  let s := { s with lasts := mapErase s.lasts p }
  let s := { s with outer := { s.outer with qps := mapClear s.outer.qps (p * 4096) ((p + 1) * 4096) } }
  let s := if s.get fOutJobStatus_role ≠ 0 && s.get fOutJobStatus_partition = p then
      (s.setAll [(fOutJobStatus_role, 0), (fOutJobStatus_state, 0)]).setJob { sequence := s.outer.job.sequence }
    else s
  s.set (fPartStatus_last_in_force p) 0

/-- DRAIN_END (R379): at a tick after the teardown, when every transaction of the old generation has ended; at the second
such tick it ends whatever is left. -/
def execDrainEnd (p : PIdx) (s : State) : Host.Outcome State Fault Refusal :=
  let x := s.partSt p
  let busy := s.coh.txs.any fun y => y.part == p.val && y.gen != s.generation p
  if s.partState p ≠ 4 || x.drainTicks = 0 || s.recordLeft p || (busy && x.drainTicks < 2) then .next s
  else
    let s := s.dropOld p
    let s := (s.resetEyelets p).resetPartFields p
    let s := s.event 0x1D 0x0B (s.generation p) 0 (some p)
    let s := s.partEvent p (fPartEvent_torn_down p)
    let gone := x.removing.isSome || !s.defined p
    let s := if gone then s.forgetPart p else s
    let s := s.setPartSt p { zeroing := s.defined p && x.zeroing }
    .next (s.set (fPartStatus_state p) (if s.defined p then 1 else 0))

/-! ## The moves of a tick (R364) -/

/-- A PENDING partition becomes ACTIVE: what it names has been returned and zeroed, and no recovery or cut holds it back
(R372, R400, R401). -/
def State.activates (s : State) (p : Nat) : Bool :=
  s.partState p == 1 && s.defined p && !(s.partSt p).zeroing && !s.flag fFltStatus_out_of_service &&
    !s.flag fFltStatus_device_recovering && !s.cutOff p &&
    (List.range 8).all fun d => !(s.recovering d && s.usesDieSpill p d)

/-- TILE_SPLIT reports the partition last's share again (log entry 73). -/
def State.movePending (s : State) (p : Nat) : State :=
  if s.activates p then
    let s := s.setShares p (((s.lastOf p).map fun l => l.l1Share).getD 0)
    (s.set (fPartStatus_state p) 2).setPartSt p { s.partSt p with rotation := [0, 0, 0, 0] }
  else s

/-! ## Accounting (R388) -/

/-- The PART_ACC counters of partition `p` clear (R388). -/
def State.clearAcc (s : State) (p : Nat) : State :=
  s.setAll ((List.range 16).flatMap fun k =>
    [(fPartAccIssued_count p k, 0), (fPartAccWaitSt_stitches p k, 0), (fPartAccWaitNs_ns p k, 0),
     (fPartAccPreempt_count p k, 0), (fPartAccDone_count p k, 0), (fPartAccFail_overruns p k, 0),
     (fPartAccFail_step_faults p k, 0)])

/-- PART_ACC_CLEAR (R388). -/
def execPartAccClear (n : Fin 16) (s : State) : Host.Outcome State Fault Refusal :=
  match s.partOfFn (n.val + 1) with
  | none => .next s
  | some p => .next (s.clearAcc p)

end Sys2Proof.Machine
end

