-- ==== Sys2Proof/Machine/Migrate.lean ====
section
/-! DEFINITION. Freezing, saving, restoring and thawing a partition (R381 to R387, R389). -/

namespace Sys2Proof.Machine

/-! ## The save area (R383, R384) -/

/-- The level-1 share of partition `p` and the scratch bytes of its tiles, by the partition last in force. -/
def State.partShare (s : State) (p : Nat) : Nat := ((s.lastOf p).map fun l => l.l1Share).getD 0
def State.partScratch (s : State) (p : Nat) : Nat := 1048576 - 65536 * s.partShare p

/-- The length of a save area of `t` tiles of `n` scratch bytes and `e` eyelets. -/
def saveLength (t n e : Nat) : Nat := 256 + ceilDiv (8 * t) 64 * 64 + t * n + ceilDiv (8 * e) 64 * 64

/-- PM_SAVE_LEN: 0 when the partition is UNDEFINED. -/
def State.saveLen (s : State) (p : Nat) : Nat :=
  if s.partState p = 0 then 0
  else saveLength (entrySites (s.partEntry p)).length (s.partScratch p) (s.eyeletCount p)

/-- The address that PM_SAVEp names. -/
def State.saveBase (s : State) (p : Nat) : Nat := 64 * s.get (fPmSave_addr p)

/-- The pages of the partition with a die home, and its spread pages. -/
def State.diePages (s : State) (p : Nat) : List PageEnt := (s.pages p).filter fun e => e.home ≤ 8

/-- A directory entry of the save area: die, column and row of a device site. -/
def saveSite (t : Nat) : List Byte :=
  toLE 1 (tileDie t) ++ toLE 1 (siteX (tileSite t)) ++ toLE 1 (siteY (tileSite t)) ++ toLE 5 0

/-- The base-2 logarithm of a ring's entries, 0 when it is disabled. -/
def ringLog (enable : Bool) (entries : Nat) : Nat := if enable then Nat.log2 entries else 0

/-- The header of the save area. The producer index of a completion ring counts the records of the last stitch, which are
written in the boundary phase (R382). -/
def State.saveHeader (s : State) (p : Nat) : List Byte :=
  let rings := List.range 16
  let producer (k : Nat) : Nat :=
    (s.get (fPartCqStatus_producer p k) + (s.part.records.filter fun r => r.part == p && r.cq == k).length) % 2 ^ 32
  toLE 4 0x45564153 ++ toLE 2 1 ++ toLE 1 (s.partShare p) ++ toLE 1 0 ++
    toLE 4 (entrySites (s.partEntry p)).length ++ toLE 4 (s.partScratch p) ++
    (List.range 8).flatMap (fun d => toLE 4 (s.eyeletRange p d).2) ++ toLE 16 0 ++
    rings.flatMap (fun k => toLE 4 (s.get (fPartSqStatus_consumer p k))) ++ rings.flatMap (fun k => toLE 4 (producer k)) ++
    rings.flatMap (fun k => toLE 1 (ringLog (s.flag (fPartSqCfg_enable p k)) (s.sqEntries p k))) ++
    rings.flatMap (fun k => toLE 1 (ringLog (s.flag (fPartCqCfg_enable p k)) (s.cqEntries p k))) ++ toLE 32 0

/-- The image of an eyelet: count in bits 62:0, void in bit 63. -/
def Eyelet.image (e : Eyelet) : List Byte := toLE 8 (e.count + if e.void then 2 ^ 63 else 0)
def eyeletOfImage (bs : List Byte) : Eyelet := ⟨leNat bs % 2 ^ 63, leNat bs / 2 ^ 63 == 1⟩

/-- Bytes up to the next multiple of 64: the spec gives the padding no value, so it takes a free value. -/
def padded (x : Nat) (bs : List Byte) : List Byte := bs ++ toLE (alignUp bs.length 64 - bs.length) x

/-- The whole save area of partition `p`. -/
def State.saveImage (s : State) (p x : Nat) : List Byte :=
  let sites := entrySites (s.partEntry p)
  let eyes := (List.range (s.eyeletCount p)).filterMap fun i => s.eyeletOf p i
  s.saveHeader p ++ padded x (sites.flatMap saveSite) ++
    (s.tilesOf p).flatMap (fun t => s.scratchRead t 0 (s.partScratch p)) ++
    padded x (eyes.flatMap fun e => (s.eye e).image)

/-! ## Requests (R381, R385, R387) -/

/-- A request is refused: the error is set and nothing else changes. -/
def State.pmRefuse (s : State) (p e : Nat) : State := s.set (fPmStatus_error p) e

/-- A freeze is requested (R381). Where it fails several checks, the error is one of theirs (log entry 17). -/
def State.freezeRequest (s : State) (p : Nat) : State :=
  let fail (code : Nat) (bad : Bool) : List Nat := if bad then [code] else []
  let job := ((s.lastOf p).map fun l => decide (1 < l.job.memberCount)).getD false
  let bad := fail 1 (s.partState p ≠ 2 || s.get (fPmStatus_phase p) ≠ 0 || (s.lastOf p).isNone) ++ fail 2 job ++
    fail 3 (!covered (s.diePages p) (s.saveBase p) (s.saveLen p))
  if bad.isEmpty then
    let s := (s.set (fPmStatus_error p) 0).setPhase p 1
    s.setPartSt p { s.partSt p with freezeAt := some s.clock.now }
  else
    let (e, s) := s.pick 1 bad
    s.pmRefuse p e

/-- Bytes of the partition's pages at their points of coherence. -/
def State.areaBytes (s : State) (p pa n : Nat) : List Byte :=
  (List.range n).map fun i =>
    match s.translate p (pa + i) with
    | some h => (s.homeBytes h.addr 1).headD 0#8
    | none => 0#8

/-- The partition address of a device physical address within a page. -/
def PageEnt.addrOf (e : PageEnt) (a : Nat) : Option Nat :=
  match e.extent (dpaDie a) with
  | some (t, n) =>
    let r := dpaOff a - t
    if t ≤ dpaOff a && dpaOff a < t + n then
      some (e.pa + if e.home < 8 then r else (r / 2 ^ 21 * 8 + dpaDie a) * 2 ^ 21 + r % 2 ^ 21)
    else none
  | none => none

/-- The directory entry's line lies in the save area of partition `p`. -/
def State.inArea (s : State) (p : Nat) (e : DirEnt) : Bool :=
  (s.pages p).any fun x => match x.addrOf e.line with
    | some pa => decide (s.saveBase p < pa + lineBytes e.bulk) && decide (pa < s.saveBase p + s.saveLen p)
    | none => false

/-- The host holds a line of the area, or its home is collecting one. -/
def State.areaBusy (s : State) (p : Nat) : Bool :=
  s.coh.dir.any fun e => (e.state == .h || e.state == .c) && s.inArea p e

/-- The error of the checks of a restore, 0 for none: magic, version and length, then R384. The length is wrong where the
header's scratch_bytes is not that of its l1_share, or the image does not lie in the partition's pages. -/
def State.restoreError (s : State) (p : Nat) : Nat :=
  let base := s.saveBase p
  let h := s.areaBytes p base 256
  let t := field h 8 4
  let n := field h 12 4
  let eyes := (List.range 8).map fun d => field h (16 + 4 * d) 4
  if field h 0 4 ≠ 0x45564153 || field h 4 2 ≠ 1 || n ≠ 1048576 - 65536 * field h 6 1 ||
      !covered (s.diePages p) base (saveLength t n (sumOf eyes)) then 3
  else
    let mine := entrySites (s.partEntry p)
    let saved := (List.range t).map fun i => let e := s.areaBytes p (base + 256 + 8 * i) 8; (field e 0 1, field e 1 1, field e 2 1)
    let shift (a : Nat × Nat × Nat) (b : Nat) : Option (Int × Int) :=
      if a.1 = tileDie b then some ((siteX (tileSite b) : Int) - (a.2.1 : Int), (siteY (tileSite b) : Int) - (a.2.2 : Int))
      else none
    let fits := mine.length == t && t != 0 && match saved, mine with
      | a :: _, b :: _ => (shift a b).isSome && (saved.zip mine).all fun x => shift x.1 x.2 == shift a b
      | _, _ => false
    if !fits || field h 6 1 ≠ s.partShare p || eyes ≠ (List.range 8).map (fun d => (s.eyeletRange p d).2) then 5 else 0

/-- A restore is requested (R385). Lines that the host holds in the area are read through it first: the checks then run when
they have come back. -/
def State.restoreRequest (s : State) (p : Nat) : State :=
  if s.partState p ≠ 3 || s.get (fPmStatus_phase p) ≠ 3 then s.pmRefuse p 1
  else if s.areaBusy p then
    let s := (s.coh.dir.filter fun e => e.state == .h && s.inArea p e).foldl
      (fun s e => s.collectOr e [] true true .none none) s
    (s.set (fPmStatus_error p) 0).setPhase p 4
  else
    let e := s.restoreError p
    if e ≠ 0 then s.pmRefuse p e else (s.set (fPmStatus_error p) 0).setPhase p 4

/-- A thaw is requested (R387). -/
def State.thawRequest (s : State) (p : Nat) : State :=
  if s.partState p ≠ 3 || s.get (fPmStatus_phase p) ≠ 3 then s.pmRefuse p 1
  else
    let s := (s.set (fPmStatus_error p) 0).setPhase p 5
    s.setPartSt p { s.partSt p with thawAt := some s.clock.now }

/-- A write of PM_CTRLp (R389). Requests written together act in the order of their bits. -/
def State.pmControl (s : State) (p v : Nat) : State :=
  let s := if v.testBit 0 then s.freezeRequest p else s
  let s := if v.testBit 1 then s.thawRequest p else s
  if v.testBit 2 then s.restoreRequest p else s

/-- PM_FREEZE (R381). -/
def execPmFreeze (p : PIdx) (v : Word) (s : State) : Host.Outcome State Fault Refusal := .next (s.pmControl p v.toNat)
/-- PM_RESTORE (R385). -/
def execPmRestore (p : PIdx) (v : Word) (s : State) : Host.Outcome State Fault Refusal := .next (s.pmControl p v.toNat)
/-- PM_THAW (R387). -/
def execPmThaw (p : PIdx) (v : Word) (s : State) : Host.Outcome State Fault Refusal := .next (s.pmControl p v.toNat)

/-! ## Freeze and thaw at a tick (R382, R387) -/

/-- The latest tick comes at least 50 ns after `t`. -/
def State.tickAfter (s : State) (t : Nat) : Bool := t + 50 ≤ s.tickArrival

def State.freezeTick (s : State) (p : Nat) : State :=
  match (s.partSt p).freezeAt with
  | some t =>
    if s.get (fPmStatus_phase p) = 1 && s.partState p = 2 && s.tickAfter t then (s.set (fPartStatus_state p) 3).setPhase p 2
    else s
  | none => s

def State.thawTick (s : State) (p : Nat) : State :=
  match (s.partSt p).thawAt with
  | some t =>
    if s.get (fPmStatus_phase p) = 5 && s.partState p = 3 && s.tickAfter t then
      let s := (s.set (fPartStatus_state p) 2).setPhase p 0
      s.setPartSt p { s.partSt p with thawAt := none, rotation := [0, 0, 0, 0] }
    else s
  | none => s

/-! ## Save (R382) -/

/-- 200 ns after the freeze tick the writes of the save area leave, 64 bytes at a time. `freezeAt` is `none` from then
on. -/
def State.startSave (s : State) (p : Nat) : State :=
  let x := s.partSt p
  if s.get (fPmStatus_phase p) ≠ 2 || x.freezeAt.isNone then s
  else
    let r := s.draw
    let image := r.2.saveImage p r.1
    let s := r.2.setPartSt p { x with freezeAt := none }
    let base := s.saveBase p
    (List.range (image.length / 64)).foldl (fun s i =>
      s.schedWrite p (base + 64 * i) (slice image (64 * i) 64) (.save p)) s

/-- A write of the save area has not been accepted. -/
def State.saveOpen (s : State) (p : Nat) : Bool := s.coh.txs.any fun x => x.wants.contains (.save p)

/-- An uncorrectable unit of the save area: error MEMORY, and the partition's memory fault (R288). -/
def State.areaFault (s : State) (p : Nat) : State :=
  let s := (s.set (fPmStatus_error p) 6).setPhase p 3
  let units := s.dram.ue.filter fun u => (s.pages p).any fun e => match e.addrOf (64 * u) with
    | some pa => s.saveBase p ≤ pa && pa < s.saveBase p + s.saveLen p
    | none => false
  let a := match units with
    | u :: _ => 64 * u
    | [] => ((s.translate p (s.saveBase p)).map fun h => h.addr).getD 0
  s.memoryFault p a

/-- SAVE_DONE (R382): once every write has been accepted, the slices write the partition's dirty lines back. -/
def execSaveDone (p : PIdx) (uncorrectable : Bool) (s : State) : Host.Outcome State Fault Refusal :=
  if s.get (fPmStatus_phase p) ≠ 2 || (s.partSt p).freezeAt.isSome then .next s
  else if uncorrectable then .next (s.areaFault p)
  else if s.saveOpen p then .next s
  else
    let s := (s.coh.l3.filter fun l => l.owner == p.val).foldl State.cleanL3 s
    .next ((s.unpinAll p).setPhase p 3)

/-! ## Restore (R385) -/

/-- The device-written index of a ring comes from the header, in the device and in the ring's header in memory. -/
def State.restoreRing (s : State) (p k : Nat) (h : List Byte) : State :=
  let lg := field h (192 + k) 1
  let s := if s.flag (fPartSqCfg_enable p k) && lg ≠ 0 && s.sqEntries p k = 2 ^ lg then
      let v := field h (64 + 4 * k) 4
      (s.set (fPartSqStatus_consumer p k) v).schedWrite p (s.sqBase p k + 8) (toLE 4 v) (.ringWrite p)
    else s
  let lg := field h (208 + k) 1
  if s.flag (fPartCqCfg_enable p k) && lg ≠ 0 && s.cqEntries p k = 2 ^ lg then
    let v := field h (128 + 4 * k) 4
    (s.set (fPartCqStatus_producer p k) v).schedWrite p (s.cqBase p k) (toLE 4 v) (.ringWrite p)
  else s

/-- Scratch, eyelets and ring indices come from the save area. -/
def State.restoreImage (s : State) (p : Nat) : State :=
  let base := s.saveBase p
  let h := s.areaBytes p base 256
  let ts := s.tilesOf p
  let n := s.partScratch p
  let at_ := base + 256 + ceilDiv (8 * ts.length) 64 * 64
  let s' := ts.zipIdx.foldl (fun s' e => s'.scratchWrite e.1 0 (s.areaBytes p (at_ + e.2 * n) n)) s
  let eyes := (List.range (s.eyeletCount p)).filterMap fun i => (s.eyeletOf p i).map fun e => (i, e)
  let s' := eyes.foldl (fun s' e =>
    s'.setEye e.2 (eyeletOfImage (s.areaBytes p (at_ + ts.length * n + 8 * e.1) 8))) s'
  (List.range 16).foldl (fun s k => s.restoreRing p k h) s'

/-- RESTORE_DONE (R385): not while a line of the area is still held by the host. -/
def execRestoreDone (p : PIdx) (uncorrectable : Bool) (s : State) : Host.Outcome State Fault Refusal :=
  if s.get (fPmStatus_phase p) ≠ 4 || s.areaBusy p then .next s
  else if uncorrectable then .next (s.areaFault p)
  else
    let e := s.restoreError p
    if e ≠ 0 then .next ((s.pmRefuse p e).setPhase p 3)
    else .next ((s.restoreImage p).setPhase p 3)

end Sys2Proof.Machine
end

