-- ==== Sys2Proof/Machine/Ports.lean ====
section
/-! DEFINITION. The outer ports: links, preemption, pauses, dropped frames, PTP, and the packets of queue pairs (R327 to R339,
R343 to R346). -/

namespace Sys2Proof.Machine

/-! ## Ports (R327 to R330) -/

/-- Frames arrive on a port: its link is up and the device last enables it. -/
def State.portOn (s : State) (k : Nat) : Bool := s.flag (fOutPortStatus_link_up (k / 2) (k % 2)) && (s.portEnt k).enable

/-- A frame is accepted, dropped, or found stale (R328, R334, R349). -/
def State.rxCount (s : State) (k : Nat) : State := s.addTo (fOutPortRx_count (k / 2) (k % 2)) 1
def State.rxDrop (s : State) (k : Nat) : State := s.addTo (fOutPortDrop_count (k / 2) (k % 2)) 1
def State.rxStale (s : State) (k : Nat) : State := s.addTo (fOutPortStale_count (k / 2) (k % 2)) 1

/-- PORT_LINK_CHANGE (R327): a link that goes down is counted, and its preemption is no longer verified. -/
def execPortLinkChange (k : Port) (up : Bool) (s : State) : Host.Outcome State Fault Refusal :=
  let d := k.val / 2
  let i := k.val % 2
  if s.flag (fOutPortStatus_link_up d i) = up then .next s
  else
    let s := if up then s.set (fOutPortStatus_link_up d i) 1
      else (s.setAll [(fOutPortStatus_link_up d i, 0), (fOutPortStatus_preempt d i, 0)]).bump (fOutPortStatus_link_losses d i) 1
    .next (s.event (8 + k) 0x1B (if up then 1 else 0) (s.get (fOutPortStatus_link_losses d i)))

/-- PREEMPTION_VERIFY (R329): where the port's preemption flag is set. -/
def execPreemptionVerify (k : Port) (ok : Bool) (s : State) : Host.Outcome State Fault Refusal :=
  .next (if s.portOn k && (s.portEnt k).preemption then
      s.set (fOutPortStatus_preempt (k.val / 2) (k.val % 2)) (if ok then 1 else 0)
    else s)

/-- The partition whose frame a port sends next (R332, R187), with `served` frames sent of each: of those that wait, the one that
lags furthest behind its share, and one without a share only where no other waits. Of equals the lowest goes first (log entry
145). -/
def nextServed (share served : Nat → Nat) (waiting : List Nat) : Option Nat :=
  let owed := waiting.filter fun p => share p != 0
  (if owed.isEmpty then waiting else owed).foldl (fun best p =>
    match best with
    | none => some p
    | some b =>
      let x := (served p + 1) * share b
      let y := (served b + 1) * share p
      if x < y || (x == y && p < b) then some p else best) none

/-- Waiting frames in the order in which the port serves them: of one partition in their own order. -/
def serveOrder (share : Nat → Nat) : Nat → (Nat → Nat) → List Waiting → List Waiting
  | 0, _, q => q
  | fuel + 1, served, q =>
    match nextServed share served (q.map fun w => w.part) with
    | none => q
    | some p =>
      match q.find? fun w => w.part == p with
      | none => q
      | some w => w :: serveOrder share fuel (fun i => if i = p then served i + 1 else served i) (q.erase w)

/-- The pause of a port ends, and what waited leaves, in proportion to the shares of the partitions (R332). -/
def State.unpause (s : State) (k : Nat) : State :=
  let s := s.set (fOutPortStatus_paused (k / 2) (k % 2)) 0
  let q := (s.portSt k).queued
  let share (p : Nat) := (s.portEnt k).shares.getD p 0
  (serveOrder share q.length (fun _ => 0) q).foldl (fun s w => s.wirePkt k w.hdr w.pkt) (s.setPortSt k { s.portSt k with queued := [] })

/-- PFC_PAUSE (R330): a pause of roce_pcp on a port with its pfc flag holds the RoCEv2 packets back, and one of time 0
releases them; any other is ignored. Each is counted. -/
def execPfcPause (k : Port) (pcp : Fin 8) (timeNs : Nat) (s : State) : Host.Outcome State Fault Refusal :=
  if !s.portOn k then .next s
  else
    let s := s.bump (fOutPortPfc_received (k.val / 2) (k.val % 2)) 1
    if pcp.val ≠ s.portsHdr.rocePcp || !(s.portEnt k).pfc then .next s
    else
      let s := s.rxCount k
      .next (if timeNs = 0 then s.unpause k else s.set (fOutPortStatus_paused (k.val / 2) (k.val % 2)) (2 ^ pcp.val))

/-- PFC_PAUSE_END (R330): the time of the pause has run out. -/
def execPfcPauseEnd (k : Port) (s : State) : Host.Outcome State Fault Refusal :=
  .next (if s.portPaused k then s.unpause k else s)

/-- DROPPED_FRAME (R328). -/
def execDroppedFrame (k : Port) (s : State) : Host.Outcome State Fault Refusal :=
  .next (if s.portOn k then s.rxDrop k else s)

/-- The OUT_PORT counters of window `i` of die `d` clear (R362). -/
def State.clearPort (s : State) (d i : Nat) : State :=
  s.setAll [(fOutPortTx_count d i, 0), (fOutPortRx_count d i, 0), (fOutPortDrop_count d i, 0),
    (fOutPortStale_count d i, 0), (fOutPortPfc_received d i, 0), (fOutPortPfc_sent d i, 0), (fOutPortFec_count d i, 0)]

/-- OUT_PORT_CNT_CLEAR (R362). -/
def execOutPortCntClear (k : Port) (s : State) : Host.Outcome State Fault Refusal := .next (s.clearPort (k.val / 2) (k.val % 2))

/-! ## PTP (R343 to R346) -/

/-- An offset as OUT_PTP_STATUS holds it: at most 24 bits of two's complement. -/
def ptpOffset (x : Int) : Nat := toSigned 24 (max (-(2 ^ 23)) (min (2 ^ 23 - 1) x))

/-- A Sync on ptp_slave_port: the servo reports the offset and corrects its time by it (R344 to R346). The correction waits
for the ticks, which take it in one step or, in a member, 10 ns at a time. -/
def State.ptpSync (s : State) (off : Int) : State :=
  let s := s.setAll [(fOutPtpStatus_locked, 1), (fOutPtpStatus_offset_ns, ptpOffset off),
    (fOutPtpStatus_aligned, if off.natAbs ≤ 20 then 1 else 0)]
  { s with outer := { s.outer with ptp := { s.outer.ptp with pending := -off } } }

/-- The device's PTP time in ns (R344): its reference clock and the correction in force. -/
def State.ptpNow (s : State) : Int := s.clock.now + s.outer.ptp.offset

/-- A PTP message leaves: event messages on UDP port 319, general ones on 320, with a timestamp of the MAC, which is within 2 ns
of the PTP time (R328, R343). -/
def State.ptpSend (s : State) (k : Nat) (m : PtpSend) : State :=
  let udp := match m with | .sync | .delayReq => 319 | _ => 320
  let r := s.draw
  let h := { r.2.frameHdr k s.portsHdr.ptpPcp with srcUdp := some udp, dstUdp := udp }
  (r.2.emit (.ptp k h m (s.ptpNow + (r.1 % 5 : Nat) - 2))).addTo (fOutPortTx_count (k / 2) (k % 2)) 1

/-- A message that the profile sends at times the spec does not give: whether it leaves now is free (log entry 146). -/
def State.ptpMaySend (s : State) (k : Nat) (m : PtpSend) : State :=
  let r := s.draw
  if r.1 % 2 = 1 then r.2.ptpSend k m else r.2

/-- PTP_MESSAGE (R343): the device takes the messages of its own domain. A Sync on the slave port drives the servo, and a
Delay_Req of its own may follow it; a Delay_Req on a master port is answered. -/
def execPtpMessage (k : Port) (m : PtpIn) (s : State) : Host.Outcome State Fault Refusal :=
  if !s.portOn k then .next s
  else
    let s := s.rxCount k
    if m.domain ≠ s.portsHdr.ptpDomain then .next s
    else match m.msg with
      | .sync off => .next (if s.portsHdr.ptpSlave = k.val then (s.ptpSync off).ptpMaySend k .delayReq else s)
      | .delayReq => .next (if (s.portEnt k).ptpMaster then s.ptpSend k .delayResp else s)
      | .announce => .next s
      | .delayResp => .next s

/-- SYNC_SEND (R343): of a master port, 16 times a second: a two-step Sync with its Follow_Up. An Announce may go with it. -/
def execSyncSend (k : Port) (s : State) : Host.Outcome State Fault Refusal :=
  .next (if s.portOn k && (s.portEnt k).ptpMaster then
      ((s.ptpSend k .sync).ptpSend k .followUp).ptpMaySend k .announce
    else s)

/-- MASTER_LOST (R346): no Sync for 250 ms. The grandmaster is always locked. -/
def execMasterLost (s : State) : Host.Outcome State Fault Refusal :=
  .next (if s.portsHdr.ptpSlave < 16 then s.setAll [(fOutPtpStatus_locked, 0), (fOutPtpStatus_aligned, 0)] else s)

/-! ## Packets that reach a queue pair (R333, R334) -/

/-- The ready queue pair that a queue pair number names (R334). -/
def State.readyQp (s : State) (qpn : Nat) : Option (Nat × Nat × QpCfg) :=
  let p := bitsAt qpn 12 4
  let q := qpn % 4096
  let x := s.qp p q
  if qpn < 2 ^ 24 && x.state = 1 && qpNumber x.incarnation p q = qpn then (s.qpCfg p q).map fun c => (p, q, c) else none

/-- A CE mark on a data packet sends a CNP, at most one for each queue pair in 50 µs (R339). -/
def State.congestion (s : State) (p q : Nat) (x : Pkt) : State :=
  let y := s.qp p q
  let due := match y.lastCnpSent with | none => true | some t => t + 50000 ≤ s.clock.now
  if x.ce && dataOp x.op && due then
    (s.setQp p q { y with lastCnpSent := some s.clock.now }).qpReply p q { op := .cnp, qpn := 0 }
  else s

/-- A packet of one of the operations `ops` arrives on port `k`: an ICRC that fails is dropped, and one that names no ready
queue pair is stale. -/
def State.packet (s : State) (k : Nat) (x : Pkt) (ops : List PktOp) (f : Nat → Nat → QpCfg → State → State) : State :=
  if !s.portOn k || !ops.contains x.op then s
  else if !x.icrcOk then s.rxDrop k
  else match s.readyQp x.qpn with
    | none => s.rxStale k
    | some (p, q, c) => f p q c ((s.rxCount k).congestion p q x)

/-- A request at the responder, in PSN order (R338): a packet seen before is acknowledged again, or, a read, answered
again; one that comes too early is answered with NAK. -/
def State.request (s : State) (p q : Nat) (x : Pkt) (f : State → State) : State :=
  let y := s.qp p q
  if x.psn = y.expected then f s
  else if psnLe x.psn y.expected then
    if x.op = .readRequest then f s
    else s.qpReply p q { op := .ack, qpn := 0, psn := (y.expected + 2 ^ 24 - 1) % 2 ^ 24 }
  else s.qpReply p q { op := .nakSequence, qpn := 0, psn := y.expected }

/-- NAK of an invalid request. -/
def State.nakInvalid (s : State) (p q : Nat) (x : Pkt) : State := s.qpReply p q { op := .nakInvalid, qpn := 0, psn := x.psn }

/-- NAK of a remote access error: the queue pair enters error (R336). -/
def State.nakAccess (s : State) (p q : Nat) (x : Pkt) : State :=
  (s.qpReply p q { op := .nakAccess, qpn := 0, psn := x.psn }).qpError p q 3

/-- The checks of a RETH (R336). -/
def State.rethOk (s : State) (p : Nat) (x : Pkt) (write : Bool) : Bool :=
  let win := ((s.lastOf p).bind fun l => l.job.windows[x.rkey % 2 ^ 16]?)
  let e := x.rkey / 2 ^ 16 % 2 ^ 16
  match win with
  | none => false
  | some w => (if write then w.write else w.read) && w.base ≤ x.va && x.va + x.len ≤ w.base + w.length &&
      (e == 0xFFFF || (s.eyeletOf p e).isSome)

/-- A packet is taken: the next PSN is expected. -/
def State.takePsn (s : State) (p q n : Nat) : State :=
  let y := s.qp p q
  s.setQp p q { y with expected := (y.expected + n) % 2 ^ 24 }

/-- No slot of the receive area is free by the consumer index last read, which is read again: RNR NAK (R337). -/
def State.rnr (s : State) (p q : Nat) (c : QpCfg) (x : Pkt) : State :=
  (s.readConsumer c.port p q c).qpReply p q { op := .rnrNak, qpn := 0, psn := x.psn }

/-- The packet `r` is held until its writes are accepted; one with none is done at once. -/
def State.holdRx (s : State) (p q : Nat) (r : RxPkt) : State :=
  let y := s.qp p q
  let s := s.setQp p q { y with rx := y.rx ++ [r] }
  if r.left = 0 then s.rxDone p q r else s

/-! ## Writes (R336, R337) -/

def startsMsg : PktOp → Bool
  | .writeFirst | .writeOnly | .writeOnlyImm | .sendFirst | .sendOnly => true
  | _ => false
def endsMsg : PktOp → Bool
  | .writeLast | .writeOnly | .writeLastImm | .writeOnlyImm | .sendLast | .sendOnly => true
  | _ => false
def hasImm : PktOp → Bool
  | .writeLastImm | .writeOnlyImm => true
  | _ => false

/-- A packet of an RDMA WRITE at the responder. -/
def State.writePacket (s : State) (p q : Nat) (c : QpCfg) (x : Pkt) : State :=
  let y := s.qp p q
  let start := startsMsg x.op
  if start = y.begun || (y.begun && y.isSend) || mtuOf c < x.data.length then s.nakInvalid p q x
  else if start && !s.rethOk p x true then s.nakAccess p q x
  else if hasImm x.op && (c.recvSlots = 0 || c.recvBase = 0) then s.nakInvalid p q x
  else if hasImm x.op && !recvRoom c y then s.rnr p q c x
  else
    let y := if start then
        { y with begun := true, isSend := false, writeTo := x.va, writeEyelet := x.rkey / 2 ^ 16 % 2 ^ 16, recvLen := 0 }
      else y
    let at_ := y.writeTo
    let len := y.recvLen + x.data.length
    let i := y.recvIndex
    let y := { y with writeTo := at_ + x.data.length, recvLen := len, begun := !endsMsg x.op,
                      recvIndex := if hasImm x.op then (i + 1) % 2 ^ 32 else i }
    let s := (s.setQp p q y).takePsn p q 1
    let r := s.portWrite c.port p at_ x.data fun n => .remoteWrite p q x.psn n
    let r' := if hasImm x.op then
        r.2.portWrite c.port p (slotOf c i) (slotRecord len x.imm true) fun _ => .remoteWrite p q x.psn 0
      else (0, r.2)
    (r'.2.holdRx p q
      { psn := x.psn, left := r.1 + r'.1, bytes := x.data.length, eyelet := y.writeEyelet, packets := x.packets,
        slot := if hasImm x.op then some i else none }).checkPause c.port

/-- RDMA_WRITE (R336). -/
def execRdmaWrite (k : Port) (x : Pkt) (s : State) : Host.Outcome State Fault Refusal :=
  .next (s.packet k x [.writeFirst, .writeMiddle, .writeLast, .writeOnly] fun p q c s =>
    s.request p q x fun s => s.writePacket p q c x)

/-- RDMA_WRITE_WITH_IMMEDIATE (R337). -/
def execRdmaWriteWithImmediate (k : Port) (x : Pkt) (s : State) : Host.Outcome State Fault Refusal :=
  .next (s.packet k x [.writeLastImm, .writeOnlyImm] fun p q c s => s.request p q x fun s => s.writePacket p q c x)

/-! ## Sends (R337) -/

/-- A packet of a SEND at the responder: its data follows the record of the next slot. -/
def State.sendPacket (s : State) (p q : Nat) (c : QpCfg) (x : Pkt) : State :=
  let y := s.qp p q
  let start := startsMsg x.op
  let had := if start then 0 else y.recvLen
  if start = y.begun || (y.begun && !y.isSend) || mtuOf c < x.data.length || c.recvSlots = 0 || c.recvBase = 0 ||
      c.slotBytes < 64 + had + x.data.length then s.nakInvalid p q x
  else if start && !recvRoom c y then s.rnr p q c x
  else
    let i := y.recvIndex
    let len := had + x.data.length
    let y := { y with begun := !endsMsg x.op, isSend := true, writeEyelet := 0xFFFF, recvLen := len,
                      recvIndex := if endsMsg x.op then (i + 1) % 2 ^ 32 else i }
    let s := (s.setQp p q y).takePsn p q 1
    let r := s.portWrite c.port p (slotOf c i + 64 + had) x.data fun n => .remoteWrite p q x.psn n
    let r' := if endsMsg x.op then
        r.2.portWrite c.port p (slotOf c i) (slotRecord len 0 false) fun _ => .remoteWrite p q x.psn 0
      else (0, r.2)
    (r'.2.holdRx p q
      { psn := x.psn, left := r.1 + r'.1, bytes := x.data.length, slot := if endsMsg x.op then some i else none }).checkPause
      c.port

/-- SEND (R337). -/
def execSend (k : Port) (x : Pkt) (s : State) : Host.Outcome State Fault Refusal :=
  .next (s.packet k x [.sendFirst, .sendMiddle, .sendLast, .sendOnly] fun p q c s =>
    s.request p q x fun s => s.sendPacket p q c x)

/-! ## Reads (R277, R333) -/

/-- A read request at the responder: each byte is read at its point of coherence. A repeated request is read again under
its own PSN. -/
def State.readPacket (s : State) (p q : Nat) (c : QpCfg) (x : Pkt) : State :=
  let y := s.qp p q
  if y.begun && x.psn = y.expected then s.nakInvalid p q x
  else if !s.rethOk p { x with rkey := x.rkey % 2 ^ 16 + 2 ^ 16 * 0xFFFF } false then s.nakAccess p q x
  else
    let s := if x.psn = y.expected then s.takePsn p q (max 1 (ceilDiv x.len (mtuOf c))) else s
    let job : ReadJob := { psn := x.psn, addr := x.va, total := x.len }
    if x.len = 0 then s.readAnswer p q job
    else
      let y := s.qp p q
      let s := s.setQp p q { y with reads := (y.reads.filter fun j => j.psn != x.psn) ++ [job] }
      (cutRange (x.va + x.len + 1) 64 id (x.len + 1) x.va x.len).foldl (fun s e =>
        match s.translate p e.1 with
        | none => s.unmapped p e.1
        | some h => (s.issueRead (s.portAsks c.port p) h (.remoteRead p q x.psn (e.1 - x.va) e.2)).2) s

/-- RDMA_READ_REQUEST (R277). -/
def execRdmaReadRequest (k : Port) (x : Pkt) (s : State) : Host.Outcome State Fault Refusal :=
  .next (s.packet k x [.readRequest] fun p q c s => s.request p q x fun s => s.readPacket p q c x)

/-- A read response at the requester: the next bytes of the read that its PSN belongs to go to the copy's destination; they
acknowledge the packets before the read. -/
def State.readResponse (s : State) (p q : Nat) (c : QpCfg) (x : Pkt) : State :=
  let y := s.qp p q
  match y.copies.find? fun e => e.read && x.psn == (e.psn + e.got / mtuOf c) % 2 ^ 24 with
  | none => s
  | some e =>
    let n := min x.data.length (e.len - e.got)
    let done := e.len ≤ e.got + n
    let e' := { e with got := e.got + n }
    let s := s.setQp p q { y with
      copies := if done then y.copies.erase e else y.copies.map fun z => if z = e then e' else z
      sent := if done then y.sent.filter fun z => !(z.op == .readRequest && z.psn == e.psn) else y.sent }
    let s := s.qpAcked p q ((e.psn + 2 ^ 24 - 1) % 2 ^ 24)
    match s.copyOn e.t e.id with
    | none => s
    | some cp =>
      match s.taskById cp.task with
      | none => s
      | some k =>
        if cp.desc.scheduled && !(List.range n).all fun i => s.canMove e.t k cp.desc (e.first + e.got + i) then s
        else s.copyPut e.t e.id (e.first + e.got) (x.data.take n)

/-- RDMA_READ_RESPONSE (R119). -/
def execRdmaReadResponse (k : Port) (x : Pkt) (s : State) : Host.Outcome State Fault Refusal :=
  .next (s.packet k x [.readFirst, .readMiddle, .readLast, .readOnly] fun p q c s => s.readResponse p q c x)

/-! ## Acknowledgements, congestion and time (R338, R339) -/

/-- ACK (R338). -/
def execAck (k : Port) (x : Pkt) (s : State) : Host.Outcome State Fault Refusal :=
  .next (s.packet k x [.ack] fun p q _ s => s.qpAcked p q x.psn)

/-- NAK (R338): a sequence NAK resends from its PSN; a remote access error puts the queue pair in error (R336). An RNR NAK
waits for RNR_RETRY. -/
def execNak (k : Port) (x : Pkt) (s : State) : Host.Outcome State Fault Refusal :=
  .next (s.packet k x [.nakSequence, .nakInvalid, .nakAccess, .nakOperational, .rnrNak] fun p q _ s =>
    match x.op with
    | .nakSequence => s.qpResend p q x.psn
    | .nakAccess => s.qpError p q 3
    | _ => s)

/-- CNP (R339): the rate limit halves, down to 1/64 of the port rate. -/
def execCnp (k : Port) (x : Pkt) (s : State) : Host.Outcome State Fault Refusal :=
  .next (s.packet k x [.cnp] fun p q _ s =>
    let y := s.qp p q
    s.setQp p q { y with rate := max 1 (y.rate / 2) })

/-- RATE_INCREASE (R339): after 64 µs without a CNP. -/
def execRateIncrease (p : PIdx) (q : Nat) (s : State) : Host.Outcome State Fault Refusal :=
  let y := s.qp p q
  .next (if y.state = 1 then s.setQp p q { y with rate := min 64 (2 * y.rate) } else s)

/-- The oldest packet that is not acknowledged, and all after it, leave again. -/
def State.goBack (s : State) (p q : Nat) : State :=
  let y := s.qp p q
  match y.sent with
  | x :: _ => if y.state = 1 then s.qpResend p q x.psn else s
  | [] => s

/-- RETRANSMIT_TIMEOUT (R338): 2 µs without an acknowledgement. -/
def execRetransmitTimeout (p : PIdx) (q : Nat) (s : State) : Host.Outcome State Fault Refusal := .next (s.goBack p q)
/-- RNR_RETRY (R338): 1 µs after an RNR NAK. -/
def execRnrRetry (p : PIdx) (q : Nat) (s : State) : Host.Outcome State Fault Refusal := .next (s.goBack p q)

/-- QP_TIMEOUT (R338): one stitch period from the first transmission. -/
def execQpTimeout (p : PIdx) (q : Nat) (s : State) : Host.Outcome State Fault Refusal :=
  let y := s.qp p q
  .next (if y.state = 1 && !y.sent.isEmpty then s.qpError p q 1 else s)

/-- A queue pair as it becomes ready: at PSN 0. What it has received of its area stays counted. -/
def Qp.renew (y : Qp) (incarnation : Nat) : Qp :=
  { state := 1, incarnation, recvIndex := y.recvIndex, recvConsumer := y.recvConsumer }

/-- QP_READY (R338): at the tick of job stitch s + 4. -/
def execQpReady (s : State) : Host.Outcome State Fault Refusal :=
  let js := s.get fOutJobStitch_stitch
  let due (y : Qp) : Bool := y.state == 2 && match y.readyAt with | some r => r ≤ js | none => false
  let renewed (e : Nat × Qp) : Nat × Qp := if due e.2 then (e.1, e.2.renew e.2.incarnation) else e
  .next { s with outer := { s.outer with qps := s.outer.qps.map renewed } }

/-- UNSUPPORTED_OPCODE (R333): NAK Invalid Request where the packet names a queue pair of the device. -/
def execUnsupportedOpcode (k : Port) (x : Pkt) (s : State) : Host.Outcome State Fault Refusal :=
  .next (s.packet k x [.other] fun p q _ s => s.nakInvalid p q x)

/-- QP_PEEK (R362): a write of OUT_QP_PEEK_CTRL samples a queue pair. -/
def State.qpPeek (s : State) (v : Nat) : State :=
  let p := bitsAt v 0 4
  let q := bitsAt v 4 12
  let y := s.qp p q
  let used := y.state ≠ 0
  s.setAll [(fOutQpPeekCtrl_partition, p), (fOutQpPeekCtrl_qp, q), (fOutQpPeekData_state, y.state),
    (fOutQpPeekData_error, y.error), (fOutQpPeekData_psn, y.psn),
    (fOutQpPeekData_qpn, if used then qpNumber y.incarnation p q else 0)]

/-- QP_PEEK (R362). -/
def execQpPeek (v : Word) (s : State) : Host.Outcome State Fault Refusal := .next (s.qpPeek v.toNat)

end Sys2Proof.Machine
end

