-- ==== Sys2Proof/Machine/Power.lean ====
section
/-! DEFINITION. Power and thermal control: limits, budget exchange, operating states, thermal rows, the forced lowest state and
throttle reasons (R418 to R445). -/

namespace Sys2Proof.Machine

def State.powerDie (s : State) (d : Nat) : PowerDie := mapGet {} s.power.dies d
def State.setPowerDie (s : State) (d : Nat) (x : PowerDie) : State :=
  { s with power := { s.power with dies := mapSet {} s.power.dies d x } }
def State.setPower (s : State) (p : PowerSt) : State := { s with power := p }

/-- The lowest state (R420). -/
def lowest : Nat := 36
/-- Clock of state `c` in MHz (R420). -/
def stateMhz (c : Nat) : Nat := 1300 - 25 * c
/-- The highest state whose clock is at most `mhz` (R354). -/
def stateFor (mhz : Nat) : Nat := ((List.range 37).find? fun c => stateMhz c ≤ mhz).getD lowest
/-- Nominal voltage of state `c` with a trim in mV, in thirds of 1 mV (R421). -/
def stateVolt (c trim : Nat) : Nat := 1650 + (stateMhz c - 400) + 3 * trim

/-- Die `d` lies in the window of R447: its state, its voltage, no forced state, no recovery. -/
def State.sliceWindow (s : State) (d : Nat) : Bool :=
  let c := s.get (fPwrDieA_state d)
  let v := stateVolt c (s.get (fPwrDieA_trim_mv d))
  let mv := 3 * (s.powerDie d).vcoreMv
  c ≤ 20 && 97 * v ≤ 100 * mv && 100 * mv ≤ 103 * v && s.power.forcedBy == 0 && !s.recovering d &&
    !s.flag fFltStatus_device_recovering

/-- The slices that run on a die outside the window abort at once (R452). -/
def State.leaveWindow (s : State) : State := s.abortSlices fun r => !s.sliceWindow r.die

/-! ## Throttle reasons (R438) -/

/-- Reason `r` holds die `d` below the state that it would otherwise run. A row of R433 or R439 holds a die while the ceiling
that it lowered has not returned to max_state. -/
def State.heldBy (s : State) (r d : Nat) : Bool :=
  let x := s.powerDie d
  match r with
  | 0 => x.guarded || x.capped
  | 6 =>
    let locked := s.get fOutJobFreq_locked_mhz
    s.get fOutJobStatus_state == 2 && locked != 0 && locked < s.get fPwrBudget_sustain_mhz
  | _ => if r < 3 then s.power.forcedBy.testBit r else x.hard.testBit r || x.held.testBit r

def State.heldDies (s : State) (r : Nat) : List Nat := (List.range 8).filter fun d => s.heldBy r d

/-- The time of reason `r` since it became active or was cleared, in µs. -/
def State.reasonUs (s : State) (r : Nat) : Nat :=
  let t := mapGet 0 s.power.since r
  if t = 0 then 0 else (s.clock.now - max (t - 1) s.power.clearedAt) / 1000

/-- A reason begins or ends. -/
def State.updateReason (s : State) (r : Nat) : State :=
  let ds := s.heldDies r
  let was := (s.get fPwrThrottle_active).testBit r
  if !ds.isEmpty && !was then
    let s := (s.setBitOf fPwrThrottle_active r true).setBitOf fPwrThrottle_seen r true
    let s := s.setPower { s.power with since := mapSet 0 s.power.since r (s.clock.now + 1) }
    (s.event 0x1B 0x40 r ((ds.map (2 ^ ·)).foldl (· + ·) 0)).fire 0 5
  else if ds.isEmpty && was then
    let t := mapGet 0 s.power.since r
    let s := (s.addTo (fPwrThrUs_us r) (s.reasonUs r)).setBitOf fPwrThrottle_active r false
    let s := s.setPower { s.power with since := mapSet 0 s.power.since r 0 }
    s.event 0x1B 0x41 r ((s.clock.now + 1 - t) / 1000)
  else s

/-- The throttle registers follow what holds the dies. -/
def State.updateThrottle (s : State) : State :=
  let s := (List.range 7).foldl State.updateReason s
  (List.range 8).foldl (fun s d =>
    s.set (fPwrDieB_holder d) (match (List.range 7).find? fun r => s.heldBy r d with | some r => r + 1 | none => 0)) s

/-! ## Prediction (R430) -/

/-- The parts of the predicted power: S and G in mW, and the energy of the steps that ran in nJ. -/
def State.staticMw (s : State) (d : Nat) : Nat := (s.powerDie d).static.getD (Config.staticMw d)
def State.backMw (s : State) (d : Nat) : Nat :=
  let b := (s.powerDie d).background
  if b.isEmpty then 0 else b.foldl (· + ·) 0 / b.length
def State.labelNj (s : State) (d l : Nat) : Nat := (mapGet (16000, 0) s.power.labels (d * 256 + l)).1
def State.stepNj (s : State) (d : Nat) : Nat :=
  ((s.powerDie d).ran.map fun e => e.2 * s.labelNj d e.1).foldl (· + ·) 0

/-- Predicted power of die `d` at state `c` in mW, rounded up. -/
def State.predicted (s : State) (d c : Nat) : Nat :=
  let trim := s.get (fPwrDieA_trim_mv d)
  let v := stateVolt c trim
  let v0 := stateVolt 0 trim
  let p := s.period
  ceilDiv (s.staticMw d * v * v0 * p + v * v * (1000 * s.stepNj d + s.backMw d * p)) (v0 * v0 * p)

/-- The locked frequency as a state, 0 where none is in force (R355). -/
def State.lockState (s : State) : Nat :=
  let f := s.get fOutJobFreq_locked_mhz
  if s.get fOutJobStatus_role ≠ 0 && s.get fOutJobStatus_state = 2 && f ≠ 0 then stateFor f else 0

/-- The highest state that die `d` may run in the next stitch (R425). -/
def State.limitState (s : State) (d : Nat) : Nat :=
  max (max s.power.sec.maxState (s.get (fPwrDieB_ageing_limit d))) (max s.lockState (s.get (fPwrDieB_ceiling d)))

/-- The die runs at the lowest state whatever its budget (R400, R433, R434, R441, R460). -/
def State.mustCrawl (s : State) (d : Nat) : Bool :=
  s.dev.isNone || s.power.forcedBy != 0 || s.recovering d || s.flag fFltStatus_device_recovering ||
    s.flag fPwrStatus_thermtrip || (s.powerDie d).hard != 0 || (s.powerDie d).relock

/-! ## The module budget (R424, R426) -/

/-- B in mW. -/
def State.budgetMw (s : State) : Nat :=
  let total := min (1000 * s.get fPwrCapSet_cap_w) (1000 * s.power.sec.continuous + s.power.creditPj / s.period)
  total - (s.power.overheads.foldl max 0 + 10000)

/-- F in W (R426). -/
def State.floorBudget (s : State) : Nat := max 100 (min (s.get fPwrFloorSet_floor_w) (s.budgetMw / 8000))

/-- One round of sharing: the grants in W by die, and what is left in mW. `want` gives each die's demand in mW. -/
def shareRound (want : Nat → Option Nat) (r : Nat × List Nat) : Nat × List Nat :=
  let above (d : Nat) : Nat := match want d with | some w => w - 1000 * r.2.getD d 0 | none => 0
  let tot := ((List.range 8).map above).foldl (· + ·) 0
  if r.1 < 1000 || tot = 0 then r
  else
    let share (d : Nat) : Nat := min (r.1 * above d / tot) (above d) / 1000
    let sum := ((List.range 8).map share).foldl (· + ·) 0
    (r.1 - 1000 * sum, (List.range 8).map fun d => r.2.getD d 0 + share d)

/-- The grants of R426: rounds until no share is at least 1 W. Each round that shares takes at least 1 W of a rest of
at most 5,400 W. -/
def shareOut (want : Nat → Option Nat) : Nat → Nat × List Nat → List Nat
  | 0, r => r.2
  | n + 1, r =>
    let r' := shareRound want r
    if r' = r then r.2 else shareOut want n r'

def State.allocate (s : State) : List Nat :=
  let f := s.floorBudget
  let g := (List.range 8).map fun d => if s.recovering d then 100 else f
  let want (d : Nat) : Option Nat := if s.recovering d then none else (s.powerDie d).request
  shareOut want 5400 (s.budgetMw - 1000 * g.foldl (· + ·) 0, g)

/-! ## The budget exchange (R425 to R428) -/

/-- BUDGET_REQUEST (R425): no exchange runs before a device last is in force (R441). -/
def execBudgetRequest (d : Die) (s : State) : Host.Outcome State Fault Refusal :=
  if s.dev.isNone || s.recovering d then .next s
  else
    let c := s.limitState d
    let w := s.predicted d c
    .next ((s.set (fPwrDieB_demand_w d) (min 65535 (w / 1000))).setPowerDie d
      { s.powerDie d with request := some w, named := c })

/-- BUDGET_ALLOCATE (R426): with the coordinator gone over to another die in this stitch, no grants leave (R442). -/
def execBudgetAllocate (s : State) : Host.Outcome State Fault Refusal :=
  if s.dev.isNone then .next s
  else
    let way := if s.power.grantsLost then [] else (List.range 8).zip s.allocate
    .next (s.setPower { s.power with exchanged := true, onWay := way })

/-- BUDGET_GRANT (R426). -/
def execBudgetGrant (d : Die) (s : State) : Host.Outcome State Fault Refusal :=
  match s.power.onWay.find? fun e => e.1 == d.val with
  | none => .next s
  | some e =>
    let s := s.setPower { s.power with onWay := s.power.onWay.erase e }
    let x := s.powerDie d
    .next (if x.missed then s else s.setPowerDie d { x with grant := some e.2 })

/-- The dies of a list miss their grants (R426, R445). -/
def State.missGrants (s : State) (ds : List Nat) : State :=
  if ds.isEmpty then s
  else
    let s := ds.foldl (fun s d =>
      (s.bump (fPwrDieB_grant_missed d) 1).setPowerDie d { s.powerDie d with missed := true }) s
    s.event 0x1B 0x47 ((ds.map (2 ^ ·)).foldl (· + ·) 0) (s.stitch % 2 ^ 32)

def State.lacksGrant (s : State) (d : Nat) : Bool :=
  let x := s.powerDie d
  s.power.exchanged && x.grant.isNone && !x.missed && !s.recovering d

/-- GRANT_DEADLINE (R426): before the first exchange no miss is counted (R441). -/
def execGrantDeadline (s : State) : Host.Outcome State Fault Refusal :=
  .next (s.missGrants ((List.range 8).filter s.lacksGrant))

/-- BUDGET_GUARD (R427): in a stitch already forced by R434 nothing more happens (R442). -/
def execBudgetGuard (d : Die) (s : State) : Host.Outcome State Fault Refusal :=
  if s.mustCrawl d then .next s
  else
    let s := (s.set (fPwrDieA_state d) lowest).setPowerDie d { s.powerDie d with guarded := true }
    .next s.leaveWindow.updateThrottle

/-! ## The forced lowest state (R434, R442) -/

/-- The signals that force the lowest state, as a mask of their reasons. -/
def State.forcing (s : State) : Nat :=
  (if s.flag fPwrStatus_vr_alert then 2 else 0) + (if s.flag fPwrStatus_brake && s.power.sec.brakeEnable then 4 else 0)

/-- One signal has come: every die enters the lowest state. -/
def State.forceLow (s : State) (r : Nat) : State :=
  let s := s.setPower { s.power with forcedBy := setBit s.power.forcedBy r }
  let s := (List.range 8).foldl (fun s d => s.set (fPwrDieA_state d) lowest) s
  (s.leaveWindow.setAll [(fPwrStatus_forced_low, 1), (fStchStatus_forced_low, 1)]).event 0x1B 0x42 r 255

/-- The signals have changed. -/
def State.checkForced (s : State) : State :=
  let m := s.forcing
  if m = 0 then
    if s.power.forcedBy = 0 || s.power.releasedAt.isSome then s
    else s.setPower { s.power with releasedAt := some s.clock.now }
  else
    let s := s.setPower { s.power with releasedAt := none }
    let s := [1, 2].foldl (fun s r => if m.testBit r && !s.power.forcedBy.testBit r then s.forceLow r else s) s
    s.updateThrottle

/-- VR_ALERT (R434). -/
def execVrAlert (s : State) : Host.Outcome State Fault Refusal := .next (s.set fPwrStatus_vr_alert 1).checkForced
/-- VR_ALERT_RELEASE (R434): the dies return at a later tick. -/
def execVrAlertRelease (s : State) : Host.Outcome State Fault Refusal := .next (s.set fPwrStatus_vr_alert 0).checkForced
/-- BRAKE_ASSERT (R434): PWR_BRAKE_N is low, and forces the lowest state where brake_enable is set. -/
def execBrakeAssert (s : State) : Host.Outcome State Fault Refusal :=
  .next ({ s with pins := { s.pins with brakeLow := true } }.set fPwrStatus_brake 1).checkForced
/-- BRAKE_RELEASE (R434). -/
def execBrakeRelease (s : State) : Host.Outcome State Fault Refusal :=
  .next ({ s with pins := { s.pins with brakeLow := false } }.set fPwrStatus_brake 0).checkForced

/-! ## Reports and sensors (R418, R433) -/

/-- The input lies within 46 to 60 V. -/
def inRange (mv : Nat) : Bool := 46000 ≤ mv && mv ≤ 60000

/-- REGULATOR_REPORT (R418, R445): leaving the input range is an event. A VCORE regulator excluded under R460 no longer
counts for the current limit. -/
def execRegulatorReport (d : Die) (r : RegReport) (s : State) : Host.Outcome State Fault Refusal :=
  let was := s.get fPwrStatus_input_mv
  let left := !inRange r.inputMv && (was == 0 || inRange was)
  let s := s.set fPwrStatus_input_mv (min 65535 r.inputMv)
  let x := s.powerDie d
  let amps := if x.sensorsOut.any (fun n => 100 ≤ n) then 0 else r.coreA
  let s := s.setPowerDie d { x with
    powerSum := x.powerSum + r.powerMw, powerN := x.powerN + 1, peakA := max x.peakA amps, vcoreMv := r.vcoreMv }
  let s := s.setPower { s.power with inputSum := s.power.inputSum + r.inputMw, inputN := s.power.inputN + 1 }
  let s := s.leaveWindow
  .next (if left then s.event 0x1B 0x43 (min 65535 r.inputMv) (2 ^ r.regulator) else s)

/-- The hottest of `n` sensors from index `first`, an excluded one replaced by the highest of the others plus 3 °C (R460). -/
def hottest (out : List Nat) (first n : Nat) (rs : List Nat) : Nat :=
  let used := (List.range n).filter fun i => !out.contains (first + i)
  let top := (used.map fun i => rs.getD i 0).foldl max 0
  if used.length = n then top else top + 3

/-- The trip row of R433: THERMTRIP_N is driven low, and every die enters the lowest state. -/
def State.trip (s : State) (d reading : Nat) (dram : Bool) : State :=
  if s.flag fPwrStatus_thermtrip then s
  else
    let s := s.setAll [(fPwrStatus_thermtrip, 1), (fDevPins_thermtrip_driven, 1)]
    let r := if dram then 4 else 3
    let s := (List.range 8).foldl (fun s d =>
      (s.set (fPwrDieA_state d) lowest).setPowerDie d { s.powerDie d with hard := setBit (s.powerDie d).hard r }) s
    s.event 0x1B 0x46 d (reading % 256 + (if dram then 256 else 0))

/-- THERMAL_SAMPLE (R433): 72 junction and 28 DRAM readings in °C, with the hard-limit and trip rows. -/
def execThermalSample (d : Die) (junctions drams : List Nat) (s : State) : Host.Outcome State Fault Refusal :=
  let x := s.powerDie d
  let j := hottest x.sensorsOut 0 72 junctions
  let m := (List.range 28).foldl (fun a i => max a (dramReading x.sensorsOut (drams.map (10 * ·)) i / 10)) 0
  let s := s.setAll [(fPwrDieA_junction_c d, min 255 j), (fPwrDieA_dram_c d, min 255 m)]
  let hard := (if 105 ≤ j then 8 else 0) + (if 95 ≤ m then 16 else 0)
  let s := s.setPowerDie d { x with hotJ := j, hotD := m, hard := x.hard ||| hard }
  let s := if hard = 0 then s else s.set (fPwrDieA_state d) lowest
  let s := if 105 ≤ j && !x.hard.testBit 3 then s.event 0x1B 0x42 3 (2 ^ d.val) else s
  let s := if 95 ≤ m && !x.hard.testBit 4 then s.event 0x1B 0x42 4 (2 ^ d.val) else s
  let s := if 115 ≤ j then s.trip d j false else if 100 ≤ m then s.trip d m true else s
  .next s.leaveWindow.updateThrottle

/-! ## Ageing (R435, R436) -/

/-- The margin of a die lies below its guard band: the trim rises at the next tick, or, where it is 60 mV already, the ageing limit
falls by one state. -/
def State.marginLow (s : State) (d : Nat) : State :=
  if s.get (fPwrDieA_trim_mv d) < 60 then s.setPowerDie d { s.powerDie d with trimDue := true }
  else
    let a := min lowest (s.get (fPwrDieB_ageing_limit d) + 1)
    (s.set (fPwrDieB_ageing_limit d) a).event 0x1B 0x45 d a

/-- A trim that is due rises at the tick (R435). -/
def State.trimTick (s : State) (d : Nat) : State :=
  let x := s.powerDie d
  if !x.trimDue then s
  else
    let s := s.setPowerDie d { x with trimDue := false }
    let t := min 60 (s.get (fPwrDieA_trim_mv d) + 5)
    (s.set (fPwrDieA_trim_mv d) t).event 0x1B 0x44 d t

/-- TRIM_WRITE (R435, R436): trim and ageing limit of a die go to the module flash. -/
def execTrimWrite (d : Die) (s : State) : Host.Outcome State Fault Refusal :=
  let f := s.sec.flash
  .next { s with sec := { s.sec with flash := { f with
    trim := mapSet 0 f.trim d (s.get (fPwrDieA_trim_mv d)), ageing := mapSet 0 f.ageing d (s.get (fPwrDieB_ageing_limit d)) } } }

/-! ## Labels (R431, R444) -/

/-- A partition last applies: each seed goes to every die that holds a tile of the partition. -/
def State.seedLabels (s : State) (p : Nat) (seeds : List (Nat × Nat)) : State :=
  let dies := (List.range 8).filter fun d => (s.tilesOf p).any fun t => tileDie t == d
  dies.foldl (fun s d => seeds.foldl (fun s e =>
    let key := d * 256 + e.1
    let n := (mapGet (16000, 0) s.power.labels key).2
    s.setPower { s.power with labels := mapSet (16000, 0) s.power.labels key (e.2, n) }) s) s

/-- LABEL_PEEK (R444): a write of PWR_LABEL_CTRL samples E. -/
def State.labelPeek (s : State) (v : Nat) : State :=
  let d := bitsAt v 0 3
  let l := bitsAt v 3 8
  let e := mapGet (16000, 0) s.power.labels (d * 256 + l)
  s.setAll [(fPwrLabelCtrl_die, d), (fPwrLabelCtrl_label, l), (fPwrLabelData_nj, e.1),
    (fPwrLabelData_updates, min (2 ^ 32 - 1) e.2)]

/-- LABEL_PEEK (R444). -/
def execLabelPeek (v : Word) (s : State) : Host.Outcome State Fault Refusal := .next (s.labelPeek v.toNat)

/-- The PWR_THR_US counters clear (R444). -/
def State.clearPwr (s : State) : State :=
  (s.setAll ((List.range 7).map fun r => (fPwrThrUs_us r, 0))).setPower { s.power with clearedAt := s.clock.now }

/-- PWR_CNT_CLEAR (R444). -/
def execPwrCntClear (s : State) : Host.Outcome State Fault Refusal := .next s.clearPwr

/-! ## The tick -/

/-- The module at a tick: the measurements of the stitch just ended, the credit, and the return from R434. -/
def State.powerMeasure (s : State) : State :=
  let floorW := s.floorBudget
  let w := if s.power.inputN = 0 then s.power.inputMw else s.power.inputSum / s.power.inputN
  let s := (List.range 8).foldl (fun s d =>
    let x := s.powerDie d
    let m := if x.powerN = 0 then x.lastMw else x.powerSum / x.powerN
    let s := s.setAll [(fPwrDieA_power_w d, min 65535 (m / 1000)), (fPwrDieB_core_a d, min 65535 x.peakA)]
    s.setPowerDie d { x with lastMw := m, powerSum := 0, powerN := 0 }) s
  let dies := ((List.range 8).map fun d => (s.powerDie d).lastMw).foldl (· + ·) 0
  let q : Int := s.power.creditPj + ((1000 * s.power.sec.continuous : Nat) - (w : Int)) * (s.period : Nat)
  let back := match s.power.releasedAt with | some t => t + 1000 ≤ s.tickArrival && s.forcing == 0 | none => false
  let s := s.setPower { s.power with
    floorW, inputMw := w, inputSum := 0, inputN := 0
    overheads := (s.power.overheads ++ [w - dies]).drop (s.power.overheads.length - 15)
    creditPj := min 40000000000000 q.toNat
    forcedBy := if back then 0 else s.power.forcedBy
    releasedAt := if back then none else s.power.releasedAt
    onWay := [], grantsLost := false }
  let forced := if s.power.forcedBy = 0 then 0 else 1
  s.setAll [(fPwrStatus_input_w, min 65535 (w / 1000)), (fPwrStatus_overhead_w, min 65535 ((w - dies) / 1000)),
    (fPwrBudget_credit_mj, s.power.creditPj / 1000000000), (fPwrStatus_forced_low, forced), (fStchStatus_forced_low, forced)]

/-- The stitch number that places the epochs of R354: the job stitch under source 2. -/
def State.epochStitch (s : State) : Nat :=
  if s.get fStchSource_source = 2 then s.get fOutJobStitch_stitch else s.stitch

/-- What the stitch that ends adds to the epoch of die `d`. -/
def State.epochTick (s : State) (d : Nat) : State :=
  let x := s.powerDie d
  let n := s.epochStitch % 256
  let x := if n = 1 then { x with sums := [], grants := 0, stitches := 0, worst := 0 } else x
  if n = 0 || 224 < n then s.setPowerDie d x
  else
    let sums := (List.range 37).map fun c => x.sums.getD c 0 + s.predicted d c
    let thermal := if x.hard ≠ 0 then lowest
      else if x.held.testBit 3 || x.held.testBit 4 then s.get (fPwrDieB_ceiling d) else 0
    s.setPowerDie d { x with
      sums, grants := x.grants + 1000 * s.get (fPwrDieA_budget_w d), stitches := x.stitches + 1, worst := max x.worst thermal }

/-- The sustainable frequency of the device, at job stitch 256e + 224 (R432). -/
def State.sustainTick (s : State) : State :=
  if s.epochStitch % 256 ≠ 224 then s
  else
    let best (d : Nat) : Nat :=
      let x := s.powerDie d
      ((List.range 37).find? fun c => x.worst ≤ c && x.sums.getD c 0 ≤ x.grants).getD lowest
    let c := ((List.range 8).map best).foldl max 0
    (s.set fPwrBudget_sustain_mhz (stateMhz c)).updateThrottle

/-- The ceiling of die `d` at the tick (R433, R439): down by one state while a row holds, up by one once every row that
lowered it allows. -/
def State.ceilingTick (s : State) (d : Nat) : State :=
  let x := s.powerDie d
  let sec := s.power.sec
  let rows := (if sec.junctionSoft ≤ x.hotJ then 8 else 0) + (if sec.dramSoft ≤ x.hotD then 16 else 0) +
    (if sec.coreLimitA < x.peakA then 32 else 0)
  let c := max sec.maxState (s.get (fPwrDieB_ceiling d))
  let cool := x.hotJ + 3 ≤ sec.junctionSoft && x.hotD + 3 ≤ sec.dramSoft
  let calm := 100 * x.peakA < 95 * sec.coreLimitA
  let up := (!(x.held.testBit 3 || x.held.testBit 4) || cool) && (!x.held.testBit 5 || calm)
  let c' := if rows ≠ 0 then min lowest (c + 1) else if up then max sec.maxState (c - 1) else c
  let held := if rows ≠ 0 then x.held ||| rows else if c' = sec.maxState then 0 else x.held
  let released := x.hotJ < sec.junctionSoft && x.hotD < sec.dramSoft && !s.flag fPwrStatus_thermtrip
  (s.set (fPwrDieB_ceiling d) c').setPowerDie d
    { x with held, peakA := 0, hard := if released then 0 else x.hard }

/-- The static power of an idle die, and its background power, are measured anew: free values, for the sensors that measure
them are not commands (log entry 40). -/
def State.measureDie (s : State) (d : Nat) : State :=
  let idle := !s.tile.tasks.any (fun k => k.tiles.any fun t => tileDie t == d) &&
    !(List.range 272).any fun i => s.get (fTileState_state d i) == 4
  let (g, s) := s.draw
  let (m, s) := if idle then s.draw else (0, s)
  let x := s.powerDie d
  s.setPowerDie d { x with
    background := (x.background ++ [g % 2 ^ 32]).drop (x.background.length - 15)
    static := if idle then some (m % 2 ^ 32) else x.static }

/-- Die `d` enters its state for the stitch (R420, R426 to R428): the highest that fits its budget and is no higher than
the one that its demand named. -/
def State.chooseState (s : State) (d : Nat) : State :=
  let x := s.powerDie d
  let lim := max (s.limitState d) (if x.request.isSome then x.named else 0)
  let budget := if s.recovering d then 100 else if s.power.firstStitch then s.power.floorW else x.grant.getD s.power.floorW
  let c := if s.mustCrawl d then lowest
    else ((List.range 37).find? fun c => lim ≤ c && s.predicted d c ≤ 1000 * budget).getD lowest
  let fits := s.predicted d lim ≤ 1000 * budget
  (s.setAll [(fPwrDieA_state d, c), (fPwrDieA_budget_w d, if s.dev.isSome then budget else 0)]).setPowerDie d
    { x with capped := !s.mustCrawl d && !fits, guarded := false, request := none, grant := none, missed := false,
             ran := [], relock := false }

/-- The power control of die `d` at its tick. -/
def State.powerTick (s : State) (d : Nat) : State :=
  let s := if s.lacksGrant d && s.dev.isSome && !s.power.firstStitch then s.missGrants [d] else s
  ((((s.epochTick d).trimTick d).ceilingTick d).measureDie d).chooseState d |>.updateThrottle

/-- A step runs: the dies of its tiles count it for their predictions (R430). -/
def State.ranStep (s : State) (k : Task) : State :=
  (List.range 8).foldl (fun s d =>
    let n := (k.tiles.filter fun t => tileDie t == d).length
    if n = 0 then s
    else
      let x := s.powerDie d
      s.setPowerDie d { x with ran := x.ran ++ [(k.label, n)] }) s

end Sys2Proof.Machine
end

