-- ==== Sys2Proof/Machine/Job.lean ====
section
/-! DEFINITION. The job engine: lace frames, job barriers, failed job stitches, the locked frequency, heartbeats and joining
(R340 to R360). -/

namespace Sys2Proof.Machine

def State.jobStitch (s : State) : Nat := s.get fOutJobStitch_stitch
def State.isMember (s : State) : Bool := s.get fOutJobStatus_role != 0 && s.get fOutJobStatus_state == 2

/-- The member indices of the tree neighbours. -/
def JobSec.parentMember (j : JobSec) : Option Nat := j.parent.map fun a => a.member
def JobSec.childMembers (j : JobSec) : List Nat := j.children.map fun a => a.member
def JobSec.neighbourMembers (j : JobSec) : List Nat := j.parentMember.toList ++ j.childMembers

/-- A frame of this member relayed or sent: the source is the sending member, the rest stands (log entry 41). -/
def JobSec.frame (j : JobSec) (f : LaceFrame) : LaceFrame := { f with source := j.member }

/-- The frame types that come from a child, from the parent, and from a queue-pair peer (R348). -/
def upTypes : List Nat := [0x01, 0x03, 0x05, 0x07, 0x08, 0x09]
def downTypes : List Nat := [0x02, 0x04, 0x06, 0x07, 0x08, 0x0A]
def peerTypes : List Nat := [0x08, 0x0B]

/-- The checks of R349. -/
def State.laceOk (s : State) (j : JobSec) (f : LaceFrame) : Bool :=
  let fits := (j.childMembers.contains f.source && upTypes.contains f.type) ||
    (j.parentMember == some f.source && downTypes.contains f.type) ||
    (j.qps.any (fun c => c.peerMember == f.source) && peerTypes.contains f.type)
  f.version == 1 && f.jobId == j.jobId && fits &&
    (f.type == 0x09 || f.incarnation == mapGet 0 s.outer.job.incs f.source) && s.jobStitch ≤ f.jobStitch + 3

/-- A lace frame of type `ty` arrives on port `k`. A worker that has left its job takes no further part (R357). -/
def State.laceFrame (s : State) (k ty : Nat) (f : LaceFrame) (act : Nat → JobSec → State → State) : State :=
  if !s.portOn k || f.type ≠ ty then s
  else match s.jobOf with
    | none => s.rxStale k
    | some (p, j) =>
      if s.get fOutJobStatus_state = 3 || !s.laceOk j f then s.rxStale k else act p j (s.rxCount k)

/-! ## Job barriers (R351, R352) -/

def State.setInst (s : State) (x : JobInst) : State :=
  let js := s.outer.job
  s.setJob { js with insts := js.insts.filter (fun i => !(i.stitch == x.stitch && i.barrier == x.barrier)) ++ [x] }

def State.inst (s : State) (stitch barrier : Nat) : JobInst :=
  (s.outer.job.insts.find? fun i => i.stitch == stitch && i.barrier == barrier).getD ⟨stitch, barrier, [], [], false⟩

/-- The local tasks that a job barrier waits for: those of its first entry (log entry 147). -/
def JobSec.localTasks (j : JobSec) (barrier : Nat) : Nat :=
  ((j.barriers.find? fun b => b.jobBarrier == barrier).map fun b => b.localTasks).getD 0

/-- The task barriers of a task that count toward a job barrier, that every tile has reached and that wait for it. -/
def JobSec.waitingAt (j : JobSec) (barrier : Nat) (k : Task) : List Nat :=
  ((j.barriers.filter fun b => b.program == k.program.id && b.jobBarrier == barrier).map fun b => b.barrier).filter fun n =>
    k.tiles.all (mapGet [] k.arrivals n).contains && !k.completed.contains n

/-- A job barrier completes on this device: it is counted, and each waiting task of partition `p` that `who` picks completes its
task barrier, as R193 completes one. -/
def State.barrierDone (s : State) (p : Nat) (j : JobSec) (barrier : Nat) (who : Task → Bool) : State :=
  (s.addTo fOutJobCntBarrier_count 1).tile.tasks.foldl (fun s k =>
    if k.part = p && who k then s.setTask { k with completed := k.completed ++ j.waitingAt barrier k } else s)
    (s.addTo fOutJobCntBarrier_count 1)

/-- A job barrier completes on this member: COMPLETE goes down, and each waiting task's barrier completes. -/
def State.completeInst (s : State) (p : Nat) (j : JobSec) (x : JobInst) : State :=
  let s := s.setJob { s.outer.job with insts := s.outer.job.insts.erase x }
  (s.laceDown { s.ownFrame 0x02 with barrier := x.barrier, jobStitch := x.stitch }).barrierDone p j x.barrier fun k =>
    x.tasks.contains k.id

/-- A task of a partition whose job has one member reaches a job barrier: the partition is its own manager, and the barrier
completes when local_tasks tasks wait at it (R340, R351). -/
def State.soloArrives (s : State) (p : Nat) (j : JobSec) (barrier : Nat) : State :=
  let waits (k : Task) : Bool := k.phase == .running && !(j.waitingAt barrier k).isEmpty
  if (s.tile.tasks.filter fun k => k.part == p && waits k).length < j.localTasks barrier then s
  else s.barrierDone p j barrier waits

/-- The member and all its children have arrived: ARRIVE goes up with the sum, or the manager completes the barrier once
the sum is the whole job. -/
def State.checkInst (s : State) (p : Nat) (j : JobSec) (x : JobInst) : State :=
  let s := s.setInst x
  let whole := j.childMembers.all fun m => x.children.any fun e => e.1 == m
  let own := decide (0 < j.localTasks x.barrier) && decide (j.localTasks x.barrier ≤ x.tasks.length)
  if x.sent || !whole || !own then s
  else
    let sum := 1 + (x.children.map fun e => e.2).foldl (· + ·) 0
    if j.role = 1 then (if sum = j.memberCount then s.completeInst p j x else s)
    else (s.setInst { x with sent := true }).laceUp
      { s.ownFrame 0x01 with barrier := x.barrier, value := sum, jobStitch := x.stitch }

/-- A task arrives at a job barrier. -/
def State.taskArrives (s : State) (p : Nat) (j : JobSec) (k : Task) (b : JobBarrier) : State :=
  if !s.isMember then s
  else
    let x := s.inst s.jobStitch b.jobBarrier
    if x.tasks.contains k.id then s else s.checkInst p j { x with tasks := x.tasks ++ [k.id] }

/-- LACE_ARRIVAL (R193, R351): the arrival that a tile has sent reaches its combiner. Once every tile of the task has
arrived, the root completes the barrier, or gives it to the job engine. -/
def execLaceArrival (task : Nat) (t : TileId) (n : Fin 16) (s : State) : Host.Outcome State Fault Refusal :=
  match s.taskById task with
  | none => .next s
  | some k =>
    let had := mapGet [] k.arrivals n.val
    if k.phase ≠ .running || !k.tiles.contains t.val || (s.tileAt t).sentBar ≠ some n.val || had.contains t.val then .next s
    else
      let all := had ++ [t.val]
      let k := { k with arrivals := mapSet [] k.arrivals n.val all }
      let s := s.setTask k
      if !k.tiles.all all.contains then .next s
      else match s.jobBarrierOf k n with
        | none => .next (s.setTask { k with completed := k.completed ++ [n.val] })
        | some (j, b) =>
          if 1 < j.memberCount then .next (s.taskArrives k.part j k b) else .next (s.soloArrives k.part j b.jobBarrier)

/-- ARRIVE (R351): the count of a child. -/
def execArrive (k : Port) (f : LaceFrame) (s : State) : Host.Outcome State Fault Refusal :=
  .next (s.laceFrame k 0x01 f fun p j s =>
    let x := s.inst f.jobStitch f.barrier
    if f.jobStitch ≠ s.jobStitch || !s.isMember then s
    else s.checkInst p j { x with children := x.children.filter (fun e => e.1 != f.source) ++ [(f.source, f.value)] })

/-- COMPLETE (R351). -/
def execComplete (k : Port) (f : LaceFrame) (s : State) : Host.Outcome State Fault Refusal :=
  .next (s.laceFrame k 0x02 f fun p j s =>
    if s.outer.job.insts.any fun i => i.stitch == f.jobStitch && i.barrier == f.barrier then
      s.completeInst p j (s.inst f.jobStitch f.barrier)
    else s)

/-! ## Failed job stitches (R356) -/

/-- The manager records a failure. -/
def State.jobFailure (s : State) (stitch cause member : Nat) : State :=
  s.setJob { s.outer.job with failures := s.outer.job.failures ++ [⟨stitch, cause, member⟩] }

/-- STEP_FAIL (R348, R356): relayed up, and recorded by the manager. -/
def execStepFail (k : Port) (f : LaceFrame) (s : State) : Host.Outcome State Fault Refusal :=
  .next (s.laceFrame k 0x03 f fun _ j s =>
    if j.role = 1 then s.jobFailure f.jobStitch f.cause f.subject else s.laceUp (j.frame f))

/-- A job fault is recorded: its registers, the event, and PART_EVENT.job_fault at the next tick. -/
def State.jobFault (s : State) (stitch cause member : Nat) : State :=
  let s := s.setAll [(fOutJobFault_stitch, stitch), (fOutJobFault_cause, cause), (fOutJobFault_member, member),
    (fOutJobFault_valid, 1)]
  (s.setJob { s.outer.job with faultSet := true }).event 0 0x1D stitch (cause * 2 ^ 16 + member) (some (s.get fOutJobStatus_partition))

/-- JOB_FAULT (R356). -/
def execJobFault (k : Port) (f : LaceFrame) (s : State) : Host.Outcome State Fault Refusal :=
  .next (s.laceFrame k 0x04 f fun _ j s =>
    ((s.addTo fOutJobCntFailed_count 1).laceDown (j.frame f)).jobFault f.jobStitch f.cause f.subject)

/-- JOB_DEADLINE (R356): at the tick of k + 3 the manager sends JOB_FAULT for each failed stitch k, with the earliest failure
that it recorded. -/
def execJobDeadline (s : State) : Host.Outcome State Fault Refusal :=
  match s.jobOf with
  | none => .next s
  | some (_, j) =>
    let due := s.outer.job.failures.filter fun x => x.stitch + 3 ≤ s.jobStitch
    if j.role ≠ 1 || due.isEmpty then .next s
    else
      let s := s.setJob { s.outer.job with failures := s.outer.job.failures.filter fun x => !(x.stitch + 3 ≤ s.jobStitch) }
      .next (((due.map fun x => x.stitch).eraseDups).foldl (fun s n =>
        match due.find? fun x => x.stitch == n with
        | none => s
        | some x =>
          let f := { s.ownFrame 0x04 with jobStitch := n, cause := x.cause, subject := x.member }
          (s.laceDown f).jobFault n x.cause x.member) s)

/-! ## The locked frequency (R354, R355) -/

def State.jobEpoch (s : State) : Nat := s.jobStitch / 256

/-- The lowest of this member's sustainable frequency and its children's latest reports. -/
def State.lowestReport (s : State) (j : JobSec) : Nat :=
  ((s.outer.job.reports.filter fun e => j.childMembers.contains e.1).map fun e => e.2.1).foldl min
    (s.get fPwrBudget_sustain_mhz)

/-- REPORT goes up. -/
def State.sendReport (s : State) (j : JobSec) : State :=
  let v := s.lowestReport j
  let s := s.setJob { s.outer.job with reported := s.jobEpoch + 1 }
  (s.set fOutJobFreq_own_mhz (s.get fPwrBudget_sustain_mhz)).laceUp { s.ownFrame 0x05 with mhz := v }

/-- A relay reports once all its children have, in the epoch that its own report belongs to. -/
def State.relayReport (s : State) (j : JobSec) : State :=
  let e := s.jobEpoch
  let all := j.childMembers.all fun m => s.outer.job.reports.any fun r => r.1 == m && r.2.2 == e
  if j.role = 1 || !s.isMember || s.outer.job.reported = e + 1 || s.jobStitch % 256 < 224 || !all then s
  else s.sendReport j

/-- EPOCH_REPORT (R354): a member without children reports; a relay whose children all have reported does too. -/
def execEpochReport (s : State) : Host.Outcome State Fault Refusal :=
  match s.jobOf with
  | none => .next s
  | some (_, j) => .next (if s.jobStitch % 256 = 224 then s.relayReport j else s)

/-- REPORT (R354). -/
def execReport (k : Port) (f : LaceFrame) (s : State) : Host.Outcome State Fault Refusal :=
  .next (s.laceFrame k 0x05 f fun _ j s =>
    let js := s.outer.job
    let reports := js.reports.filter (fun e => e.1 != f.source) ++ [(f.source, f.mhz, f.jobStitch / 256)]
    (s.setJob { js with reports }).relayReport j)

/-- REPORT_DEADLINE (R354): a relay that has not reported uses the last value of each child. -/
def execReportDeadline (s : State) : Host.Outcome State Fault Refusal :=
  match s.jobOf with
  | none => .next s
  | some (_, j) =>
    .next (if s.jobStitch % 256 = 240 && j.role ≠ 1 && s.isMember && s.outer.job.reported ≠ s.jobEpoch + 1 then s.sendReport j
      else s)

/-- FREQ_DECISION (R354): the manager sends FREQ, and takes it itself. -/
def execFreqDecision (s : State) : Host.Outcome State Fault Refusal :=
  match s.jobOf with
  | none => .next s
  | some (_, j) =>
    if j.role ≠ 1 || !s.isMember || s.jobStitch % 256 ≠ 248 then .next s
    else
      let v := s.lowestReport j
      let eff := 256 * (s.jobEpoch + 1)
      let s := s.set fOutJobFreq_own_mhz (s.get fPwrBudget_sustain_mhz)
      let s := s.laceDown { s.ownFrame 0x06 with mhz := v, effective := eff }
      .next (s.setJob { s.outer.job with freq := some (eff, v) })

/-- FREQ (R354). -/
def execFreq (k : Port) (f : LaceFrame) (s : State) : Host.Outcome State Fault Refusal :=
  .next (s.laceFrame k 0x06 f fun _ j s =>
    let s := s.laceDown (j.frame f)
    s.setJob { s.outer.job with freq := some (f.effective, f.mhz) })

/-- FREQ_APPLY (R354): at job stitch 256(e + 1) a member sets the frequency, or counts a miss. A die changes its state at its tick
(R29). -/
def execFreqApply (s : State) : Host.Outcome State Fault Refusal :=
  if !s.isMember || s.jobStitch % 256 ≠ 0 then .next s
  else
    match s.outer.job.freq with
    | some (eff, mhz) =>
      if eff = s.jobStitch then
        let s := (s.set fOutJobFreq_locked_mhz mhz).setJob { s.outer.job with freq := none }
        .next s.updateThrottle
      else .next (s.bump fOutJobFreq_missed 1)
    | none => .next (s.bump fOutJobFreq_missed 1)

/-! ## Heartbeats and loss (R348, R357) -/

/-- HEARTBEAT_SEND (R348): at every job stitch divisible by 16. -/
def execHeartbeatSend (s : State) : Host.Outcome State Fault Refusal :=
  .next (if s.isMember && s.jobStitch % 16 = 0 then
      let f := s.ownFrame 0x07
      (s.laceUp f).laceDown f
    else s)

/-- HEARTBEAT (R357). -/
def execHeartbeat (k : Port) (f : LaceFrame) (s : State) : Host.Outcome State Fault Refusal :=
  .next (s.laceFrame k 0x07 f fun _ _ s =>
    let js := s.outer.job
    s.setJob { js with heard := js.heard.filter (fun e => e.1 != f.source) ++ [(f.source, f.jobStitch)] })

/-- Member `m` is down: every queue pair to it is in error, the failure goes up to the manager, and a worker that has lost its
parent leaves the job. -/
def State.memberDown (s : State) (p : Nat) (j : JobSec) (m stitch : Nat) (f : LaceFrame) : State :=
  let qs := j.qps.zipIdx.filter fun e => e.1.peerMember == m
  let s := qs.foldl (fun s e => if (s.qp p e.2).state = 1 then s.qpError p e.2 2 else s) s
  let s := if j.role = 1 then s.jobFailure stitch 3 m
    else if j.parentMember = some f.source && f.source ≠ j.member then s
    else s.laceUp { j.frame f with type := 0x08, subject := m, jobStitch := stitch }
  if j.parentMember = some m then
    (s.set fOutJobStatus_state 3).setJob { s.outer.job with faultSet := true }
  else s

/-- DOWN (R357). -/
def execDown (k : Port) (f : LaceFrame) (s : State) : Host.Outcome State Fault Refusal :=
  .next (s.laceFrame k 0x08 f fun p j s => s.memberDown p j f.subject f.jobStitch f)

/-- HEARTBEAT_LOSS (R357): no heartbeat of a tree neighbour in three successive heartbeat stitches. -/
def execHeartbeatLoss (neighbour : Nat) (s : State) : Host.Outcome State Fault Refusal :=
  match s.jobOf with
  | none => .next s
  | some (p, j) =>
    let last := ((s.outer.job.heard.find? fun e => e.1 == neighbour).map fun e => e.2).getD 0
    if !s.isMember || !j.neighbourMembers.contains neighbour || s.jobStitch < last + 48 then .next s
    else .next (s.memberDown p j neighbour s.jobStitch (s.ownFrame 0x08))

/-! ## Joining (R360) -/

/-- The manager takes a JOIN: the member's entry of the incarnation table rises, and MEMBER goes to every member. -/
def State.takeJoin (s : State) (p : Nat) (j : JobSec) (subject stitch : Nat) : State :=
  let inc := mapGet 0 s.outer.job.table subject + 1
  let eff := stitch + 16
  let s := s.setJob { s.outer.job with
    table := mapSet 0 s.outer.job.table subject inc, newIncs := s.outer.job.newIncs ++ [(eff, subject, inc)] }
  let s := if (s.translate p (j.memberTable + 4 * subject)).isSome then
      s.schedWrite p (j.memberTable + 4 * subject) (toLE 4 inc) .none
    else s
  s.laceDown { s.ownFrame 0x0A with subject := subject, value := inc, effective := eff }

/-- SEND_JOIN (R360): a member whose partition is active again, once it is aligned. The manager's own goes no further. -/
def execSendJoin (s : State) : Host.Outcome State Fault Refusal :=
  match s.jobOf with
  | none => .next s
  | some (p, j) =>
    if s.get fOutJobStatus_state ≠ 1 || s.partState p ≠ 2 || !s.flag fOutPtpStatus_aligned || s.outer.job.joinSent then .next s
    else
      let s := s.setJob { s.outer.job with joinSent := true }
      .next (if j.role = 1 then s.takeJoin p j j.member s.jobStitch else s.laceUp (s.ownFrame 0x09))

/-- JOIN (R360): relayed up, and taken by the manager. -/
def execJoin (k : Port) (f : LaceFrame) (s : State) : Host.Outcome State Fault Refusal :=
  .next (s.laceFrame k 0x09 f fun p j s =>
    if j.role = 1 then s.takeJoin p j f.subject f.jobStitch else s.laceUp (j.frame f))

/-- MEMBER (R360): forwarded, and kept until its effective tick. -/
def execMember (k : Port) (f : LaceFrame) (s : State) : Host.Outcome State Fault Refusal :=
  .next (s.laceFrame k 0x0A f fun _ j s =>
    let s := s.laceDown (j.frame f)
    s.setJob { s.outer.job with newIncs := s.outer.job.newIncs ++ [(f.effective, f.subject, f.value)] })

/-- One incarnation takes effect: queue pairs to the member are renumbered and ready at PSN 0; the member itself is a member
again, with every queue pair ready. -/
def State.takeMember (s : State) (p : Nat) (j : JobSec) (m inc : Nat) : State :=
  let s := s.setJob { s.outer.job with incs := mapSet 0 s.outer.job.incs m inc }
  let renew (s : State) (q peer : Nat) : State := s.setQp p q ((s.qp p q).renew (mapGet 0 s.outer.job.incs peer))
  let s := j.qps.zipIdx.foldl (fun s e =>
    if e.1.peerMember = m || m = j.member then renew s e.2 e.1.peerMember else s) s
  if m = j.member then
    (s.setAll [(fOutJobInc_incarnation, inc), (fOutJobStatus_state, 2)]).setJob { s.outer.job with
      joinSent := false, heard := j.neighbourMembers.map fun n => (n, s.jobStitch) }
  else s

/-- MEMBER_EFFECTIVE (R360). -/
def execMemberEffective (s : State) : Host.Outcome State Fault Refusal :=
  match s.jobOf with
  | none => .next s
  | some (p, j) =>
    let due := s.outer.job.newIncs.filter fun e => e.1 ≤ s.jobStitch
    let s := s.setJob { s.outer.job with newIncs := s.outer.job.newIncs.filter fun e => !(e.1 ≤ s.jobStitch) }
    .next (due.foldl (fun s e => s.takeMember p j e.2.1 e.2.2) s)

/-- QP_RESET (R338): the queue pair that the frame names enters error PEER_RESET, and is ready at the tick of the frame's job
stitch + 4. -/
def execQpReset (k : Port) (f : LaceFrame) (s : State) : Host.Outcome State Fault Refusal :=
  .next (s.laceFrame k 0x0B f fun p _ s =>
    let q := f.value % 4096
    if (s.qp p q).state ≠ 1 || qpNumber (s.qp p q).incarnation p q ≠ f.value then s
    else
      let s := s.qpError p q 6
      s.setQp p q { s.qp p q with readyAt := some (f.jobStitch + 4) })

/-- The OUT_JOB_CNT counters clear (R362). -/
def State.clearJob (s : State) : State := s.setAll [(fOutJobCntBarrier_count, 0), (fOutJobCntFailed_count, 0)]

/-- OUT_JOB_CNT_CLEAR (R362). -/
def execOutJobCntClear (s : State) : Host.Outcome State Fault Refusal := .next s.clearJob

/-! ## The tick (R345, R352, R356) -/

/-- The job engine at the tick of the stitch after `ended`: instances end with their stitch, a job fault shows in PART_EVENT,
and a member that is not aligned counts the stitch. -/
def State.jobTick (s : State) : State :=
  match s.jobOf with
  | none => s
  | some (p, j) =>
    let old := s.outer.job.insts
    let s := s.setJob { s.outer.job with insts := [] }
    let s := if j.role ≠ 1 then s
      else old.foldl (fun s x => if x.tasks.isEmpty && x.children.isEmpty then s else s.jobFailure x.stitch 4 j.member) s
    let s := if s.outer.job.faultSet then
        (s.setJob { s.outer.job with faultSet := false }).partEvent p (fPartEvent_job_fault p)
      else s
    if s.isMember && !s.flag fOutPtpStatus_aligned then s.bump fOutPtpStatus_unaligned_stitches 1 else s

/-- A partition last with a job of several members applies (R340, R341, R360): the engine starts afresh as a member, with every
queue pair ready at PSN 0 and every incarnation 0 (R334, R360). -/
def State.startJob (s : State) (p : Nat) (j : JobSec) : State :=
  if j.memberCount ≤ 1 then
    if s.get fOutJobStatus_role ≠ 0 && s.get fOutJobStatus_partition = p then
      (s.setAll [(fOutJobStatus_role, 0), (fOutJobStatus_state, 0)]).setJob { sequence := s.outer.job.sequence }
    else s
  else
    let s := s.setAll [(fOutJobStatus_job_id, j.jobId), (fOutJobStatus_member, j.member), (fOutJobStatus_partition, p),
      (fOutJobStatus_role, j.role), (fOutJobStatus_state, 2), (fOutJobInc_incarnation, 0)]
    let s := s.setJob { sequence := s.outer.job.sequence, heard := j.neighbourMembers.map fun n => (n, s.jobStitch) }
    let s := (List.range j.qps.length).foldl (fun s q => s.setQp p q { state := 1 }) s
    if j.role = 1 then
      (cutRange (j.memberTable + 4 * j.memberCount + 1) 256 id (4 * j.memberCount + 1) j.memberTable (4 * j.memberCount)).foldl
        (fun s e => if (s.translate p e.1).isSome then s.schedWrite p e.1 (List.replicate e.2 0#8) .none else s) s
    else s

end Sys2Proof.Machine
end

