-- ==== Sys2Proof/Machine/Awl.lean ====
section
/-! DEFINITION. Self-test and background work: patrol scrub, awl slices, their repairs, flash records and fuses (R293, R294,
R446 to R466). -/

namespace Sys2Proof.Machine

/-! ## Patrol scrub (R293, R294, R457) -/

/-- A request is queued at the channel, or at one of its banks. -/
def State.channelBusy (s : State) (d ch : Nat) (f : Nat → Bool) : Bool :=
  (s.coh.trackers.any fun (k : Tracker) => dpaDie k.line == d && channelOf k.line == ch && f (dpaOff k.line)) ||
    s.coh.aluQ.any fun (q : AluReq) => q.die == d && q.ch == ch && f (dpaOff q.msg.addr)

/-- The row-frame that the scrub of channel `c` (die * 64 + channel) reads next. -/
def State.scrubAt (s : State) (c : Nat) : Nat := (s.dram.scrubWindows - mapGet 0 s.dram.scrubMissed c) % rowFrames

/-- The channels with a request queued, and those that have deferred. -/
def State.busyChannels (s : State) : List Nat :=
  ((s.coh.trackers.map fun (k : Tracker) => dpaDie k.line * 64 + channelOf k.line) ++ s.coh.aluQ.map fun (q : AluReq) => q.die * 64 + q.ch).eraseDups

/-- Background work reads the units of which `here` holds: what ECC finds there is corrected and logged, and each uncorrectable
unit among them is logged. -/
def State.readRow (s : State) (here : Nat → Bool) : State :=
  let s := s.checkUnits here
  (s.dram.ue.filter here).foldl (fun s u => s.logUe u 5) s

/-- The row-frame that a channel scrubs now. -/
def State.scrubRow (s : State) (c : Nat) : State :=
  let q := s.scrubAt c
  s.readRow fun u => dpaDie (u * 64) * 64 + channelOf (u * 64) == c && rowFrame (dpaOff (u * 64)) == q

/-- The busy channels that scrub all the same: they have deferred 256 windows in a row. -/
def State.forcedScrubs (s : State) : List Nat := s.busyChannels.filter fun c => mapGet 0 s.dram.scrubDeferred c == 256

/-- The scrub of every channel in a slack window. A channel with a request queued defers, but not a 257th time. -/
def State.scrub (s : State) (found : List EccFound) : State :=
  let busy := s.busyChannels
  let forced := s.forcedScrubs
  let waits := busy.filter fun c => !forced.contains c
  let s := forced.foldl (fun s c => (s.bump (fAwlScrub_forced (c / 64)) 1).event (0x20 + c / 64) 0x64 (c % 64) (s.stitch % 2 ^ 32)) s
  let s := s.strike found
  let cs := ((s.dram.latent.map (fun e => e.1) ++ s.dram.ue).map fun u => dpaDie (u * 64) * 64 + channelOf (u * 64)).eraseDups
  let s := (cs.filter fun c => !waits.contains c).foldl State.scrubRow s
  { s with dram := { s.dram with
    scrubWindows := s.dram.scrubWindows + 1
    scrubMissed := waits.foldl (fun m c => mapSet 0 m c (mapGet 0 m c + 1)) s.dram.scrubMissed
    scrubDeferred := waits.foldl (fun m c => mapSet 0 m c (mapGet 0 s.dram.scrubDeferred c + 1)) [] } }

/-! ## Starting slices (R447 to R455) -/

/-- How long before the expected tick a slice has ended (R448). -/
def State.sliceDeadline (s : State) : Nat :=
  let src := if s.flag fStchStatus_fallback then 0 else s.get fStchSource_source
  if src = 1 then 150 else if src = 2 then 60 else 50

/-- A slice of kind `k` that starts at the opening of the window ends before its deadline (R448). -/
def State.sliceFits (s : State) (d k : Nat) : Bool :=
  let mhz := stateMhz (s.get (fPwrDieA_state d))
  sliceLen k mhz + 1000 * ((if k = 0 then 100 else 0) + s.sliceDeadline) ≤ 1000 * s.slackLen

/-- A line has a frame in an L3 unit. -/
def inL3Unit (d unit : Nat) (l : L3Line) : Bool :=
  dpaDie l.line == d && channelOf l.line == unit / 256 && l.way == unit / 16 % 16 &&
    (l3Sets l.line l.bulk).any fun x => x / 16 == unit % 16

/-- The unit of a slice is busy (R449 to R451, R458 to R460). A WELT slice needs its group's calibration lane free, a SERDES
slice its port's loopback lane. -/
def State.unitBusy (s : State) (d k unit : Nat) : Bool :=
  match k with
  | 0 => 1 < s.tileCode (sliceTile d unit)
  | 1 => s.coh.l3.any fun l => inL3Unit d unit l && (l.pinned || l.held || s.coh.trackers.any fun x => x.line == l.line)
  | 2 => s.channelBusy d (unit / 112) fun o => dramLayer o == unit / 16 % 7 && dramBank o == unit % 16
  | 3 =>
    let key := groupKey d (weltUnit d unit).1 (weltUnit d unit).2
    s.awl.calStopped.contains key || s.awl.swapping.any fun x => x.1 == key
  | 4 => s.awl.retiredLanes.contains (d * 2 + unit)
  | _ => false

/-- A slice starts: a TILE slice borrows its tile, an L3 slice empties its unit. -/
def State.startSlice (s : State) (d k unit : Nat) : State :=
  let t := sliceTile d unit
  let run : SliceRun := { die := d, kind := k, unit, started := s.clock.now, former := s.get (fTileState_state d (tileSite t)) }
  let s := if k = 0 then s.setTileCode t 6
    else if k = 1 then (s.coh.l3.filter (inL3Unit d unit)).foldl State.evictL3 s
    else s
  let s := s.setAwl { s.awl with running := s.awl.running ++ [run] }
  s.setBitOf (fAwlStatus_running d) k true

/-- A calibration move of the group of a WELT unit may still be in progress: it takes at most 12 µs in each direction
(R458). -/
def State.calMoving (s : State) (d unit : Nat) : Bool :=
  let t := mapGet 0 s.awl.calMoveAt (groupKey d (weltUnit d unit).1 (weltUnit d unit).2)
  t != 0 && s.clock.now + 1 ≤ t + 24000

/-- Background units that meet (R459): a forced scrub on the channel of a DRAM slice goes first, and a calibration move in
progress skips a WELT slice. Whether the slice is skipped is open, for the spec gives the scrub no length and the move only
its longest (log entry 42). -/
def State.meetsOther (s : State) (d k unit : Nat) (forced : List Nat) : Bool × State :=
  if k = 2 && forced.contains (d * 64 + unit / 112) || k = 3 && s.calMoving d unit then
    let (n, s) := s.draw
    (n % 2 == 1, s)
  else (false, s)

/-- One attempt of kind `k` on die `d` (R455). -/
def State.attempt (s : State) (forced : List Nat) (d k : Nat) : State :=
  let n := population d k
  let unit := s.get (fAwlPos_position d k)
  let s := s.set (fAwlPos_position d k) (if n ≤ unit + 1 then 0 else unit + 1)
  let (late, s) := s.meetsOther d k unit forced
  if s.sliceWindow d && s.sliceFits d k && !late && !s.unitBusy d k unit && (s.sliceOn d k).isNone then s.startSlice d k unit
  else s.attemptDeficit d k unit

/-- The attempts of a slack window (R453, R454). -/
def State.slices (s : State) (forced : List Nat) : State :=
  match s.dev with
  | none => s
  | some l =>
    let s := (List.range 8).foldl (fun s d => s.set (fAwlStatus_gated d) (if s.sliceWindow d then 0 else 1)) s
    (List.range 8).foldl (fun s d => (l.awl.zipIdx).foldl (fun s e =>
      if e.1.enable && e.1.dieMask.testBit d && s.stitch % e.1.interval == 0 && population d e.2 ≠ 0 then
        s.attempt forced d e.2
      else s) s) s

/-! ## Repairs (R460 to R462) -/

/-- The record of a failure (R465). -/
def State.sliceFailed (s : State) (d k unit code : Nat) : State :=
  let s := s.setAwl { s.awl with failed := mapSet 0 s.awl.failed (d * 8 + k) (mapGet 0 s.awl.failed (d * 8 + k) + 1) }
  let s := s.setAll [(fAwlResult_kind d, k), (fAwlResult_unit d, unit), (fAwlResult_repair d, code), (fAwlResult_valid d, 1),
    (fAwlResult_stitch d, s.stitch)]
  s.event (0x20 + d) 0x60 (k * 2 ^ 16 + unit) code

/-- A soft repair is in force, and waits to be written to flash. -/
def State.softRepair (s : State) (d : Nat) (r : SoftRepair) : State :=
  (s.setAwl { s.awl with active := s.awl.active ++ [(d, r)], pendingFlash := s.awl.pendingFlash ++ [(d, r)] }).addTo
    (fAwlRepair_soft d) 1

def State.softEvent (s : State) (d : Nat) (r : SoftRepair) : State :=
  (s.softRepair d r).event (0x20 + d) 0x61 (r.kind * 2 ^ 16 + r.unit) r.spare

/-- No spare is left (R460, R466). -/
def State.noSpare (s : State) (d k unit cause : Nat) : State :=
  (s.addTo (fAwlRepair_exhausted d) 1).event (0x20 + d) 0x62 (k * 2 ^ 16 + unit) cause

/-- The frames of an L3 unit are retired: numbered as in `frameRetired`. -/
def State.retireFrames (s : State) (d unit : Nat) : State :=
  { s with coh := { s.coh with retiredFrames := s.coh.retiredFrames ++ (List.range 16).map fun i =>
      ((d * 64 + unit / 256) * 256 + (unit % 16 * 16 + i)) * 16 + unit / 16 % 16 } }

/-- The spare tile of a row may take a site of it: it is not used, not bad and not fenced (R17, R460). -/
def State.spareFree (s : State) (d y : Nat) : Bool :=
  (s.repairCol d y).isNone && !s.awl.spareDue.any (fun e => e.1 == d * 16 + y) && !s.awl.badSpares.contains (d * 16 + y) &&
    !s.fenced (d * 272 + y * 17 + 16)

/-- The flash lists a spare row of a bank as unusable. -/
def State.spareRowGone (s : State) (d unit n : Nat) : State :=
  { s with sec := { s.sec with flash := { s.sec.flash with
    unusable := s.sec.flash.unusable ++ [(d * 7168 + unit) * 2 ^ 16 + n] } } }

/-- An array element fails: a spare, or none. -/
def State.arrayFails (s : State) (d k unit : Nat) (spare : Option Nat) : State :=
  match spare with
  | some n =>
    let s := s.sliceFailed d k unit 1
    let s := if k = 2 then s.spareRowGone d unit n else s
    s.softEvent d ⟨k, unit, 0, n⟩
  | none =>
    if k = 2 then s.sliceFailed d k unit 0
    else
      let s := (s.sliceFailed d k unit 2).noSpare d k unit (if k = 0 then 8 else 0)
      if k = 0 then s.fenceTile (sliceTile d unit) 8 (segmentOff unit) else s.retireFrames d unit

/-- The lane engine or product array of a tile fails: the spare tile of the row takes its site at the next tick, or the tile is
fenced. -/
def State.logicFails (s : State) (d unit : Nat) : State :=
  let t := sliceTile d unit
  let x := siteX (tileSite t)
  let y := siteY (tileSite t)
  if x < 16 && s.spareFree d y then
    let s := (s.sliceFailed d 0 unit 1).softEvent d ⟨0, unit, 1, 0⟩
    s.setAwl { s.awl with spareDue := s.awl.spareDue ++ [(d * 16 + y, x)] }
  else ((s.sliceFailed d 0 unit 2).noSpare d 0 unit 7).fenceTile t 7

/-- A lane fails in loopback. -/
def State.laneFails (s : State) (d k unit : Nat) : State :=
  if k = 3 then
    let (e, g) := weltUnit d unit
    match weltAt d e with
    | none => s
    | some w =>
      let used := s.get (fWeltSpares_used d e g)
      let r := s.flagLane d e g w calLane
      if r.1 then (r.2.sliceFailed d k unit 1).softEvent d ⟨k, unit, 2, used⟩
      else (r.2.sliceFailed d k unit 2).noSpare d k unit 0x0B
  else
    let n := if k = 4 then d * 2 + unit else 64 + d * 4 + unit
    let s := s.setAwl { s.awl with retiredLanes := s.awl.retiredLanes ++ [n] }
    (s.sliceFailed d k unit 1).softEvent d ⟨k, unit, 2, 0⟩

/-- A sensor is excluded. -/
def State.excludeSensor (s : State) (d n : Nat) : State :=
  let x := s.powerDie d
  s.setPowerDie d { x with sensorsOut := if x.sensorsOut.contains n then x.sensorsOut else x.sensorsOut ++ [n] }

/-- A result that a slice of kind `k` can give. -/
def resultFits (k : Nat) : SliceResult → Bool
  | .pass | .marginLow => true
  | .failArray _ => k < 3
  | .failLogic _ => k == 0
  | .failLane => 3 ≤ k && k < 6
  | .failSensor _ _ | .failPll _ => k == 6

/-- The latest slice of a spare tile passed or failed. -/
def State.noteSpare (s : State) (d k unit : Nat) (ok : Bool) : State :=
  let t := sliceTile d unit
  let row := d * 16 + siteY (tileSite t)
  if k = 0 && siteX (tileSite t) = 16 then
    s.setAwl { s.awl with badSpares := s.awl.badSpares.filter (· != row) ++ (if ok then [] else [row]) }
  else s

/-- The bank that a DRAM unit names holds device address `a`. -/
def inDramUnit (d unit a : Nat) : Bool :=
  dpaDie a == d && channelOf a == unit / 112 && dramLayer (dpaOff a) == unit / 16 % 7 && dramBank (dpaOff a) == unit % 16

/-- The rows of a bank of one layer. -/
def bankRows : Nat := rowFrames / 112

/-- The margin read of a DRAM slice takes the rows of the bank in rotation, from row 0 (DESIGN CHOICE, log entry 151). What it finds
counts as patrol scrub's findings do (R451). -/
def State.marginRead (s : State) (d unit : Nat) (found : List EccFound) : State :=
  let bank := d * 7168 + unit
  let row := mapGet 0 s.awl.marginRow bank
  let s := (s.strike found).readRow fun u => inDramUnit d unit (u * 64) && dramRow (dpaOff (u * 64)) == row
  s.setAwl { s.awl with marginRow := mapSet 0 s.awl.marginRow bank ((row + 1) % bankRows) }

/-- SLICE_END (R449, R455, R460): the failure is repaired before the unit is returned. -/
def execSliceEnd (d : Die) (kind : Fin 7) (r : SliceResult) (found : List EccFound) (s : State) :
    Host.Outcome State Fault Refusal :=
  match s.sliceOn d kind with
  | none => .next s
  | some run =>
    if !resultFits kind r then .next s
    else
      let u := run.unit
      let ok := r == .pass || r == .marginLow
      let s := s.noteSpare d kind u ok
      let s := if kind.val = 2 then s.marginRead d u found else s
      let s := match r with
        | .pass => s
        | .marginLow => s.marginLow d
        | .failArray spare => s.arrayFails d kind u spare
        | .failLogic low => let s := s.logicFails d u
                            if low then s.marginLow d else s
        | .failLane => s.laneFails d kind u
        | .failSensor n diff =>
          let s := (s.sliceFailed d kind u 1).excludeSensor d n
          (s.softRepair d ⟨6, u, 3, n⟩).event (0x20 + d) 0x65 n (toSigned 64 diff)
        | .failPll ppm =>
          let s := (s.sliceFailed d kind u 1).addTo (fAwlRepair_soft d) 1
          (s.setPowerDie d { s.powerDie d with relock := true }).event (0x20 + d) 0x66 ppm (s.stitch % 2 ^ 32)
      let s := match s.sliceOn d kind with
        | some run => s.stopSlice run (sliceLen kind (stateMhz (s.get (fPwrDieA_state d))) / 1000)
        | none => s
      .next (s.attemptResult d kind u)

/-- A spare tile takes a site: it is zeroed first, the row's ROUTES entry is ignored from now on, and the routes of its die are
rewritten (R461). -/
def State.takeSite (s : State) (row x : Nat) : State :=
  let d := row / 16
  let y := row % 16
  let was := s.servedBy (d * 272 + y * 17 + x)
  let spare := d * 272 + y * 17 + 16
  let s := s.setAll [(fMeshRepair_x d (y / 8) (y % 8), x), (fMeshRepair_valid d (y / 8) (y % 8), 1),
    (fTileSplit_l1_share d (tileSite spare), s.l1Share was), (fTileSplit_l1_share d (tileSite was), 0)]
  let s := s.setAwl { s.awl with softRows := mapSet 0 s.awl.softRows row (x + 1) }
  (s.scratchZero spare).needRoutes d

/-- The spare tiles that are due take their sites at the tick. A step on a tile that leaves the pool has overrun by then. -/
def State.sparesTick (s : State) : State :=
  let due := s.awl.spareDue
  due.foldl (fun s e => s.takeSite e.1 e.2) (s.setAwl { s.awl with spareDue := [] })

/-- The soft repairs of die `d` in flash. -/
def State.flashRecords (s : State) (d : Nat) : List (Nat × SoftRepair) := s.sec.flash.soft.filter fun e => e.1 == d

/-- REPAIR_RECORD_WRITE (R462): each new soft repair of the die goes to flash, which holds 64 for each die. -/
def execRepairRecordWrite (d : Die) (s : State) : Host.Outcome State Fault Refusal :=
  let mine := s.awl.pendingFlash.filter fun e => e.1 == d.val
  let s := s.setAwl { s.awl with pendingFlash := s.awl.pendingFlash.filter fun e => e.1 != d.val }
  let s := mine.foldl (fun s e =>
    if (s.flashRecords d).length < 64 then
      { s with sec := { s.sec with flash := { s.sec.flash with soft := s.sec.flash.soft ++ [e] } } }
    else s.set (fAwlRepair_list_full d) 1) s
  .next (s.set (fAwlRepair_records d) (s.flashRecords d).length)

/-- A soft repair of flash or fuses applies again at cold power-up (R462, R463). -/
def State.applySoft (s : State) (d : Nat) (r : SoftRepair) : State :=
  if s.awl.active.contains (d, r) then s else
  let s := s.setAwl { s.awl with active := s.awl.active ++ [(d, r)] }
  if r.what = 1 then
    let t := tileSite (sliceTile d r.unit)
    (s.takeSite (d * 16 + siteY t) (siteX t)).setFlt { s.flt with rerouting := s.flt.rerouting }
  else if r.what = 2 then
    if r.kind = 3 then
      let e := weltUnit d r.unit
      (s.bump (fWeltSpares_used d e.1 e.2) 1).setAwl { s.awl with
        laneUse := s.awl.laneUse ++ [(groupKey d e.1 e.2, calLane, r.spare)] }
    else s.setAwl { s.awl with retiredLanes := s.awl.retiredLanes ++ [if r.kind = 4 then d * 2 + r.unit else 64 + d * 4 + r.unit] }
  else if r.what = 3 then s.excludeSensor d r.spare
  else s

/-! ## Fuses (R463, R466) -/

/-- AWL_FUSE_GO (R463): a burn starts in VENDOR (1) and RETURNED (3) only. -/
def State.fuseGo (s : State) (d : Nat) : State :=
  let lc := s.sec.fuses.lc
  if s.flag (fAwlFuse_busy d) then s
  else if lc = 1 || lc = 3 then s.set (fAwlFuse_busy d) 1
  else (s.set (fAwlFuse_refused d) 1).event (0x20 + d) 0x63 0 1

/-- AWL_FUSE_GO (R463, R466). -/
def execAwlFuseGo (d : Die) (s : State) : Host.Outcome State Fault Refusal := .next (s.fuseGo d)

/-- FUSE_BURN (R466): the burn ends. -/
def execFuseBurn (d : Die) (ok : Bool) (s : State) : Host.Outcome State Fault Refusal :=
  if !s.flag (fAwlFuse_busy d) then .next s
  else
    let s := s.set (fAwlFuse_busy d) 0
    let new := (s.flashRecords d).filter fun e => !s.sec.fuses.repairs.contains e
    if ok then
      .next ({ s with sec := { s.sec with fuses := { s.sec.fuses with repairs := s.sec.fuses.repairs ++ new } } }.event
        (0x20 + d) 0x63 new.length 0)
    else .next (s.event (0x20 + d) 0x63 0 2)

/-- The AWL_TIME counters of die `d` clear (R465). -/
def State.clearAwl (s : State) (d : Nat) : State := s.setAll ((List.range 7).map fun k => (fAwlTime_ns d k, 0))

/-- AWL_CNT_CLEAR (R465). -/
def execAwlCntClear (d : Die) (s : State) : Host.Outcome State Fault Refusal := .next (s.clearAwl d)

end Sys2Proof.Machine
end

