-- ==== Sys2Proof/Machine/Sha.lean ====
section
/-! DEFINITION. SHA-256 and the verification of RSASSA-PSS signatures (R45). PRESUMED: the two algorithms are those of
FIPS 180-4 and RFC 8017, which the spec names and does not restate (log entry 15). -/

namespace Sys2Proof.Machine

abbrev Word32 := BitVec 32

/-- The first 64 primes: those below 312. -/
def shaPrimes : List Nat := (List.range 312).filter fun n => 2 ≤ n && (List.range n).all fun d => d < 2 || n % d != 0

/-- The greatest r with r ^ k ≤ x that `b` more bits below those of `r` give. -/
def floorRoot (k x : Nat) : (b r : Nat) → Nat
  | 0, r => r
  | b + 1, r => floorRoot k x b (if (r + 2 ^ b) ^ k ≤ x then r + 2 ^ b else r)

/-- The first 32 bits of the fractional part of the `k`-th root of `p`. -/
def rootFraction (k p : Nat) : Word32 := BitVec.ofNat 32 (floorRoot k (p * 2 ^ (32 * k)) 40 0)

/-- Where the hash starts: square roots of the first eight primes. -/
def shaStart : List Word32 := (shaPrimes.take 8).map (rootFraction 2)

/-- The constants of the 64 rounds: cube roots of the first 64 primes. -/
def shaConstants : List Word32 := shaPrimes.map (rootFraction 3)

/-- The exclusive or of a word rotated right by each of the amounts. -/
def rotSum (amounts : List Nat) (x : Word32) : Word32 := amounts.foldl (fun y n => y ^^^ x.rotateRight n) 0

/-- The words of a block, extended to one for each round. -/
def shaWords (block : List Byte) : List Word32 :=
  let given := (List.range 16).map fun i => BitVec.ofNat 32 (beNat (slice block (4 * i) 4))
  (List.range 48).foldl (fun ws i =>
    let near := ws.getD (i + 14) 0
    let far := ws.getD (i + 1) 0
    ws ++ [ws.getD i 0 + ws.getD (i + 9) 0 + (rotSum [7, 18] far ^^^ far >>> 3) + (rotSum [17, 19] near ^^^ near >>> 10)])
    given

/-- One round, on the eight working words, with the sum of the round's constant and word: six words move down, the first and
the fifth are new. -/
def shaRound (v : List Word32) (kw : Word32) : List Word32 :=
  let at_ (i : Nat) : Word32 := v.getD i 0
  let choice := at_ 6 ^^^ (at_ 4 &&& (at_ 5 ^^^ at_ 6))
  let majority := (at_ 0 &&& (at_ 1 ||| at_ 2)) ||| (at_ 1 &&& at_ 2)
  let carried := at_ 7 + rotSum [6, 11, 25] (at_ 4) + choice + kw
  (carried + rotSum [2, 13, 22] (at_ 0) + majority) :: v.take 3 ++ (at_ 3 + carried) :: (v.drop 4).take 3

/-- The hash value after one block. -/
def shaBlock (hv : List Word32) (block : List Byte) : List Word32 :=
  let ks := List.zipWith (· + ·) shaConstants (shaWords block)
  List.zipWith (· + ·) hv (ks.foldl shaRound hv)

/-- The padded message. -/
def shaPad (m : List Byte) : List Byte :=
  m ++ 0x80#8 :: List.replicate ((119 - m.length % 64) % 64) 0#8 ++ toBE 8 (8 * m.length)

/-- SHA-256: 32 bytes. -/
def sha256 (m : List Byte) : List Byte :=
  let p := shaPad m
  ((List.range (p.length / 64)).foldl (fun h i => shaBlock h (slice p (64 * i) 64)) shaStart).flatMap fun w =>
    toBE 4 w.toNat

/-- MGF1 with SHA-256. -/
def mgf1 (seed : List Byte) (n : Nat) : List Byte :=
  ((List.range (ceilDiv n 32)).flatMap fun i => sha256 (seed ++ toBE 4 i)).take n

/-- m ^ 65537 modulo n. -/
def rsaPublic (n m : Nat) : Nat := (List.range 16).foldl (fun x _ => x * x % n) m * m % n

/-- The RSASSA-PSS check of R45: a 3,072-bit modulus, exponent 65,537, SHA-256, MGF1 with SHA-256 and a salt of 32
bytes. -/
def pssVerify (modulus exponent signature msg : List Byte) : Bool :=
  let n := beNat modulus
  let em := toBE 384 (rsaPublic n (beNat signature))
  let maskedDb := em.take 351
  let h := slice em 351 32
  let db := (maskedDb.zip (mgf1 h 351)).map fun p => p.1 ^^^ p.2
  let db := (db.headD 0 &&& 0x7f#8) :: db.drop 1
  decide (2 ^ 3071 ≤ n) && beNat exponent == 65537 && exponent.length == 4 && decide (beNat signature < n) &&
    em.getD 383 0 == 0xbc#8 && decide ((em.headD 0).toNat < 128) &&
    db.take 318 == List.replicate 318 0#8 && db.getD 318 0 == 1#8 &&
    sha256 (List.replicate 8 0#8 ++ sha256 msg ++ slice db 319 32) == h

/-- The key hash of R45: of the 388 bytes of modulus and exponent of a signature block (R44). -/
def keyHash (sigBlock : List Byte) : List Byte := sha256 (sigBlock.take 388)

/-- The signature of a signature block verifies over the signed bytes (R44, R45). -/
def signatureOk (sigBlock signed : List Byte) : Bool :=
  pssVerify (slice sigBlock 0 384) (slice sigBlock 384 4) (slice sigBlock 640 384) signed

end Sys2Proof.Machine
end

