-- ==== Sys2Proof/Machine/Doe.lean ====
section
/-! DEFINITION. The DOE mailbox: Discovery, CDAT and SPDM (R322, R479, R480). The byte formats are those of PCI Express,
of the CDAT and of DMTF SPDM 1.2, which the spec names and does not lay out (log entry 36). -/

namespace Sys2Proof.Machine

/-- A DOE response is ready: vector 6 of the physical function fires (R320). -/
def State.doeReply (s : State) (bs : List Byte) : State := (s.emit (.doe bs)).fire 0 6

/-- The mailbox answers while the host link is up. -/
def State.doe (s : State) (f : State → State) : State := if s.linkUp then f s else s

/-- An object that the mailbox does not take sets its error bit. -/
def State.doeFails (s : State) : State := s.setUci { s.uci with doeError := true }

/-- The protocols of the mailbox, as vendor and type. -/
def doeProtocols : List (Nat × Nat) := [(0x0001, 0), (0x0001, 1), (0x1E98, 2)]

/-- DOE_DISCOVERY (R322): an object of a protocol: Discovery answers with the protocols by index: Discovery, CMA/SPDM,
CXL Table Access. The other two protocols' objects are other commands; an object for any other protocol, or of more than 64 KiB, ends
with the error bit set. -/
def execDoeDiscovery (o : DoeObject) (s : State) : Host.Outcome State Fault Refusal :=
  .next (s.doe fun s =>
    if 65536 < o.len || !doeProtocols.contains (o.vendor, o.type) then s.doeFails
    else if (o.vendor, o.type) ≠ (0x0001, 0) then s
    else
    let entry (vendor type next : Nat) : List Byte := toLE 2 vendor ++ toLE 1 type ++ toLE 1 next
    s.doeReply (match o.index with
      | 0 => entry 0x0001 0 1
      | 1 => entry 0x0001 1 2
      | 2 => entry 0x1E98 2 0
      | _ => entry 0xFFFF 0 0))

/-- The DSMAS entry of the CDAT: one range of 1,344 GiB from 0 (R322). -/
def cdatDsmas : List Byte := toLE 1 0 ++ toLE 1 0 ++ toLE 2 24 ++ toLE 1 0 ++ toLE 1 0 ++ toLE 2 0 ++ toLE 8 0 ++ toLE 8 hdmBytes

/-- A DSLBIS entry: bandwidth 2,048 GB/s, in units of 1,000 MB/s, of reads (4) or writes (5). -/
def cdatBandwidth (type : Nat) : List Byte :=
  toLE 1 1 ++ toLE 1 0 ++ toLE 2 24 ++ toLE 1 0 ++ toLE 1 0 ++ toLE 1 type ++ toLE 1 0 ++ toLE 8 1000 ++ toLE 2 2048 ++
    toLE 2 0 ++ toLE 2 0 ++ toLE 2 0

/-- The CDAT: header, DSMAS, bandwidth each way. The bytes of the table add to 0 modulo 256. -/
def cdat : List (List Byte) :=
  let body := [cdatDsmas, cdatBandwidth 4, cdatBandwidth 5]
  let head (sum : Nat) : List Byte := toLE 4 (16 + 72) ++ toLE 1 1 ++ toLE 1 sum ++ toLE 6 0 ++ toLE 4 0
  let total := ((head 0 ++ body.flatten).map fun b => b.toNat).foldl (· + ·) 0
  head ((256 - total % 256) % 256) :: body

/-- CDAT_READ (R322): the entry of a handle, with the handle of the next. A handle that the table does not hold sets the
DOE error bit. -/
def execCdatRead (handle : Nat) (s : State) : Host.Outcome State Fault Refusal :=
  .next (s.doe fun s =>
    match cdat[handle]? with
    | some e => s.doeReply (toLE 1 0 ++ toLE 1 0 ++ toLE 2 (if handle + 1 < cdat.length then handle + 1 else 0xFFFF) ++ e)
    | none => s.doeFails)

/-! ## SPDM (R479) -/

/-- Version byte, response code, two parameters. -/
def spdmHead (code p1 p2 : Nat) : List Byte := toLE 1 0x12 ++ toLE 1 code ++ toLE 1 p1 ++ toLE 1 p2

/-- An ERROR response. -/
def State.spdmError (s : State) (code : Nat) : State := s.doeReply (spdmHead 0x7F code 0)

/-- A request of SPDM: during a life-cycle transition it is answered Busy (R478), and before its place in the order of
requests UnexpectedRequest. -/
def State.spdm (s : State) (ready : Bool) (f : State → State) : State :=
  s.doe fun s => if s.sec.transition.isSome then s.spdmError 3 else if !ready then s.spdmError 4 else f s

def State.spdmReady (s : State) : Bool := s.uci.spdmVersion && s.uci.spdmCaps && s.uci.spdmAlgs

/-- GET_VERSION (R479): version 1.2 and no other. The connection starts again. -/
def execGetVersion (s : State) : Host.Outcome State Fault Refusal :=
  .next (s.spdm true fun s =>
    let s := s.setUci { s.uci with spdmVersion := true, spdmCaps := false, spdmAlgs := false }
    s.doeReply ([0x10, 0x04, 0, 0, 0, 1, 0, 0x12].map (BitVec.ofNat 8)))

/-- GET_CAPABILITIES (R479): CERT_CAP, CHAL_CAP and MEAS_CAP with signatures. The timing exponent and the transfer sizes
are free values. -/
def execGetCapabilities (s : State) : Host.Outcome State Fault Refusal :=
  .next (s.spdm s.uci.spdmVersion fun s =>
    let (x, s) := s.draw
    let s := s.setUci { s.uci with spdmCaps := true }
    s.doeReply (spdmHead 0x61 0 0 ++ toLE 1 0 ++ toLE 1 x ++ toLE 2 0 ++ toLE 4 0x16 ++ toLE 8 (x / 256)))

/-- NEGOTIATE_ALGORITHMS (R479): TPM_ALG_RSAPSS_3072 and TPM_ALG_SHA_256, each where the requester offers it. -/
def execNegotiateAlgorithms (rsapss3072 sha256 : Bool) (s : State) : Host.Outcome State Fault Refusal :=
  .next (s.spdm (s.uci.spdmVersion && s.uci.spdmCaps) fun s =>
    let s := s.setUci { s.uci with spdmAlgs := rsapss3072 && sha256 }
    s.doeReply (spdmHead 0x63 0 0 ++ toLE 2 36 ++ toLE 1 1 ++ toLE 1 0 ++ toLE 4 (if sha256 then 2 else 0) ++
      toLE 4 (if rsapss3072 then 8 else 0) ++ toLE 4 (if sha256 then 1 else 0) ++ toLE 16 0))

/-- The certificate chain of slot 0. -/
def certificateBytes : List Byte := (List.range (Config.certificateLen % 65536)).map Config.certificate

/-- GET_DIGESTS (R479): slot 0. -/
def execGetDigests (s : State) : Host.Outcome State Fault Refusal :=
  .next (s.spdm s.spdmReady fun s => s.doeReply (spdmHead 0x01 0 1 ++ Machine.sha256 certificateBytes))

/-- GET_CERTIFICATE (R479): a part of the chain of slot 0. -/
def execGetCertificate (slot offset len : Nat) (s : State) : Host.Outcome State Fault Refusal :=
  .next (s.spdm s.spdmReady fun s =>
    let n := Config.certificateLen % 65536
    if slot ≠ 0 || n ≤ offset then s.spdmError 1
    else
      let k := min len (n - offset)
      s.doeReply (spdmHead 0x02 0 0 ++ toLE 2 k ++ toLE 2 (n - offset - k) ++
        (List.range k).map fun i => Config.certificate (offset + i)))

/-- 32 octets of a nonce of the device: free values. -/
def State.nonce (s : State) : List Byte × State := let (x, s) := s.draw; (toLE 32 x, s)

/-- The signature of the identity key over a message: 384 octets. -/
def identitySignature (m : List Byte) : List Byte := (List.range 384).map (Config.identitySign m)

/-- CHALLENGE (R479): the signed answer of slot 0. -/
def execChallenge (slot : Nat) (nonce : List Byte) (s : State) : Host.Outcome State Fault Refusal :=
  .next (s.spdm s.spdmReady fun s =>
    if slot ≠ 0 then s.spdmError 1
    else
      let (own, s) := s.nonce
      let body := spdmHead 0x03 0 1 ++ Machine.sha256 certificateBytes ++ own ++ List.replicate 32 0#8 ++ toLE 2 0
      s.doeReply (body ++ identitySignature (nonce ++ body)))

/-! ## Measurements (R480) -/

/-- The measurement of a firmware bank: that of the image staged there, or of the image of module manufacture. -/
def State.bankMeasurement (s : State) (b : Bool) : List Byte :=
  let k := if b then s.sec.flash.bankB else s.sec.flash.bankA
  if !k.valid then List.replicate 32 0#8
  else if k.measurement.isEmpty then (List.range 32).map (Config.firmwareDigest b) else k.measurement

/-- A measurement value, 32 octets of 0 where the item is absent. -/
def orZeros (m : List Byte) : List Byte := if m.isEmpty then List.replicate 32 0#8 else m

/-- The measurement of index `i` with its DMTF value type, `none` for an index that R480 does not list. The fuses are those of the
latest tick; lasts apply at ticks alone, and the running bank never changes. -/
def State.measurement (s : State) (i : Nat) : Option (Nat × List Byte) :=
  let f := s.sec.measured.getD s.sec.fuses
  if i = 1 then some (1, s.bankMeasurement (s.flag fSecFw_bank))
  else if i = 2 then
    some (2, Machine.sha256 (toLE 1 f.lc ++ orZeros f.vendorHash ++ orZeros f.ownerHash ++ toLE 1 f.lastSteps ++ toLE 1 f.fwSteps))
  else if i = 3 then some (3, orZeros ((s.dev.map fun l => l.measurement).getD []))
  else if 16 ≤ i && i < 32 then some (3, orZeros (((s.lastOf (i - 16)).map fun l => l.measurement).getD []))
  else none

/-- A measurement block in the DMTF format. -/
def measurementBlock (i : Nat) (m : Nat × List Byte) : List Byte :=
  toLE 1 i ++ toLE 1 1 ++ toLE 2 (3 + m.2.length) ++ toLE 1 m.1 ++ toLE 2 m.2.length ++ m.2

/-- GET_MEASUREMENTS (R480): index 0 asks for the number of blocks, 255 for every block. -/
def execGetMeasurements (index : Nat) (signed : Bool) (nonce : List Byte) (s : State) :
    Host.Outcome State Fault Refusal :=
  .next (s.spdm s.spdmReady fun s =>
    let all := (List.range 32).filter fun i => (s.measurement i).isSome
    let ask := if index = 255 then all else if index = 0 then [] else [index]
    let blocks := ask.filterMap fun i => (s.measurement i).map (measurementBlock i)
    if index ≠ 0 && blocks.isEmpty then s.spdmError 1
    else
      let (own, s) := s.nonce
      let record := blocks.flatten
      let body := spdmHead 0x60 (if index = 0 then all.length else 0) 0 ++ toLE 1 blocks.length ++ toLE 3 record.length ++
        record ++ own ++ toLE 2 0
      s.doeReply (if signed then body ++ identitySignature (nonce ++ body) else body))

end Sys2Proof.Machine
end

