-- ==== Sys2Proof/Machine/LastParse.lean ====
section
/-! DEFINITION. The layout of a last (R39 to R46) and the layout rules of every section body. A body that breaks its
rules parses to `none`, which the loader reports as BODY; ranges that an agreement check reports (R499) are kept. -/

namespace Sys2Proof.Machine

/-! ## Header and section table -/

/-- A row of the section table (R40). -/
structure SectionEnt where
  type : Nat
  version : Nat
  dieMask : Nat
  flags : Nat
  reserved : Nat
  offset : Nat
  length : Nat
deriving DecidableEq, Repr

def sectionAt (img : List Byte) (i : Nat) : SectionEnt :=
  let e := slice img (0x100 + 16 * i) 16
  ⟨field e 0 2, field e 2 2, field e 4 1, field e 5 1, field e 6 2, field e 8 4, field e 12 4⟩

/-- The section types of each kind (R42), and the required ones. -/
def deviceTypes : List Nat := (List.range 11).map (· + 1)
def partTypes : List Nat := [0x101, 0x102, 0x103, 0x104, 0x105]
def partRequired : List Nat := [0x101, 0x103, 0x104]

/-- `r` holds for every two elements, in list order. -/
def allPairs {α : Type} (r : α → α → Bool) : List α → Bool
  | [] => true
  | x :: xs => xs.all (r x) && allPairs r xs

/-- The bodies by type, or `none` where R41 rejects the last with SECTION. -/
def sectionBodies (isDevice : Bool) (img : List Byte) : Option (List (Nat × List Byte)) :=
  let n := field img 0x22 2
  let sigAt := img.length - 1024
  let tableEnd := 0x100 + 16 * n
  if n < 1 || 64 < n || sigAt < tableEnd then none else
  let es := (List.range n).map (sectionAt img)
  let known (e : SectionEnt) := (deviceTypes ++ partTypes).contains e.type && e.version == 1
  let mine := if isDevice then deviceTypes else partTypes
  let formOk (e : SectionEnt) : Bool :=
    e.length != 0 && e.reserved == 0 && e.flags < 2 && e.offset % 64 == 0 && decide (tableEnd ≤ e.offset) &&
      decide (e.offset + e.length ≤ sigAt) && (if known e then mine.contains e.type else e.flags == 1)
  let apart (a b : SectionEnt) : Bool :=
    a.type != b.type && (decide (a.offset + a.length ≤ b.offset) || decide (b.offset + b.length ≤ a.offset))
  let required := if isDevice then deviceTypes else partRequired
  if es.all formOk && allPairs apart es && required.all (fun t => es.any fun e => known e && e.type == t) then
    some ((es.filter known).map fun e => (e.type, slice img e.offset e.length))
  else none

/-- The die mask of each section of the table (R40), as (type, mask). -/
def sectionMasks (img : List Byte) : List (Nat × Nat) :=
  (List.range (field img 0x22 2)).map fun i => ((sectionAt img i).type, (sectionAt img i).dieMask)

/-- The body of a section, empty where there is none. -/
def bodyOf (bs : List (Nat × List Byte)) (type : Nat) : List Byte :=
  match bs.find? fun b => b.1 == type with
  | some b => b.2
  | none => []

/-- A value where a layout rule holds. -/
def checked {α : Type} (ok : Bool) (x : α) : Option α := if ok then some x else none

def isPow2 (n : Nat) : Bool := n != 0 && n &&& (n - 1) == 0

/-! ## Device last -/

/-- The defined mask and the entries of the PARTITIONS body (R365, R366). -/
def parsePartitions (b : List Byte) : Option (Nat × List (List Byte)) :=
  let mask := field b 0 2
  let es := (List.range 16).map fun p => slice b (64 + 512 * p) 512
  let entryOk (p : Nat) (e : List Byte) : Bool :=
    if !mask.testBit p then e.all (· == 0#8) else
    let half := field e 16 4
    let tiles := ((List.range 272).map fun i => popCount 8 (e.getD (240 + i) 0).toNat).foldl (· + ·) 0
    field e 1 1 < 8 && zeroBytes e 2 6 && zeroBytes e 20 12 && zeroBytes e 112 128 && field e 8 8 % 2 ^ 21 == 0 &&
      half % 2 ^ 21 == 0 && decide (2 ^ 21 ≤ half) && decide (half ≤ 2 ^ 27) &&
      decide (field e 8 8 + 2 * half ≤ dieBytes) && (slice e 64 16).all (fun c => decide (c.toNat ≤ 3)) &&
      tiles != 0 && decide (((List.range 16).map fun k => field e (80 + 2 * k) 2).foldl (· + ·) 0 ≤ tiles)
  checked (b.length == 8256 && zeroBytes b 2 62 && (List.range 16).all fun p => entryOk p (es.getD p [])) (mask, es)

/-- CACHE_SHARES (R216). -/
def parseShares (defined : Nat) (b : List Byte) : Option (List (Nat × Nat)) :=
  let es := (List.range 128).map fun i => (field b (2 * i) 1, field b (2 * i + 1) 1)
  checked (b.length == 256 && es.zipIdx.all fun e =>
    decide (e.1.1 ≤ 16) && decide (e.1.2 ≤ 12) && (defined.testBit (e.2 % 16) || e.1 == (0, 0))) es

/-- One entry of PAGES (R206, R208). -/
def pageEntOk (defined : Nat) (raw : List Byte) (e : PageEnt) : Bool :=
  let bytes := e.count * pageSize e.size
  decide (e.part < 16) && defined.testBit e.part && decide (e.size ≤ 2) && decide (e.home ≤ 9) && decide (field raw 3 1 < 4) &&
    e.count != 0 && e.pa % pageSize e.size == 0 && zeroBytes raw 24 8 &&
    (if e.home < 8 then e.target % pageSize e.size == 0 && decide (e.target + bytes ≤ dieBytes)
     else if e.home = 8 then e.size != 0 && bytes % 2 ^ 24 == 0 && e.target % 2 ^ 21 == 0 &&
       decide (e.target + bytes / 8 ≤ dieBytes)
     else e.target % pageSize e.size == 0)
where pageSize (size : Nat) : Nat := if size = 0 then 2 ^ 16 else if size = 1 then 2 ^ 21 else 2 ^ 30

/-- PAGES (R206, R208). -/
def parsePages (defined : Nat) (b : List Byte) : Option (List PageEnt) :=
  let n := field b 0 4
  let raws := (List.range n).map fun i => slice b (64 + 32 * i) 32
  let ent (r : List Byte) : PageEnt :=
    ⟨field r 0 1, field r 1 1, field r 2 1, (field r 3 1).testBit 0, (field r 3 1).testBit 1, field r 4 4, field r 8 8,
      field r 16 8⟩
  let es := raws.map ent
  let apart (x y : PageEnt) : Bool :=
    x.part != y.part || decide (x.pa + x.count * pageEntOk.pageSize x.size ≤ y.pa) ||
      decide (y.pa + y.count * pageEntOk.pageSize y.size ≤ x.pa)
  checked (decide (1 ≤ n) && decide (n ≤ 65536) && b.length == 64 + 32 * n && zeroBytes b 4 60 &&
    raws.all (fun r => pageEntOk defined r (ent r)) && allPairs apart es) es

/-- EYELETS (R368). -/
def parseEyelets (defined : Nat) (b : List Byte) : Option (List (Nat × Nat)) :=
  let es := (List.range 128).map fun i => (field b (8 * i) 4, field b (8 * i + 4) 4)
  checked (b.length == 1024 && es.zipIdx.all fun e =>
    decide (e.1.1 ≤ 32767) && decide (e.1.2 ≤ 32768) && decide (e.1.1 + e.1.2 ≤ 32768) &&
      (defined.testBit (e.2 / 8) || e.1.2 == 0)) es

/-- WELTS (R184). -/
def parseWelts (defined : Nat) (b : List Byte) : Option (List WeltEnt) :=
  let raws := (List.range 160).map fun i => slice b (32 * i) 32
  let ok (r : List Byte) : Bool :=
    let mode := field r 0 1
    decide (mode ≤ 2) && zeroBytes r 2 14 && (slice r 16 16).all (fun x => decide (x.toNat ≤ 100)) &&
      (if mode = 1 then decide (field r 1 1 < 16) && defined.testBit (field r 1 1) else field r 1 1 == 255) &&
      (mode == 2 || zeroBytes r 16 16)
  let es := raws.map fun r => (⟨field r 0 1, field r 1 1, (slice r 16 16).map fun x => x.toNat⟩ : WeltEnt)
  checked (b.length == 5120 && raws.all ok && weltCodes.all fun w =>
    decide (2 ≤ (((es.drop (16 * w)).take 16).filter fun e => e.mode == 2).length)) es

/-- PORTS (R332). -/
def parsePorts (b : List Byte) : Option (PortsHdr × List PortEnt) :=
  let h : PortsHdr := ⟨field b 0 2, field b 2 1, field b 3 1, field b 4 1, field b 5 1, field b 6 1⟩
  let raws := (List.range 16).map fun i => slice b (64 + 64 * i) 64
  let ent (r : List Byte) : PortEnt :=
    let f := field r 1 1
    ⟨field r 0 1 == 1, f.testBit 0, f.testBit 1, f.testBit 2, field r 2 2, slice r 4 6, slice r 12 4,
      (slice r 16 16).map fun x => x.toNat⟩
  let portOk (r : List Byte) : Bool :=
    decide (field r 0 1 ≤ 1) && decide (field r 1 1 < 8) && zeroBytes r 10 2 && zeroBytes r 32 32 &&
      (slice r 16 16).all (fun x => decide (x.toNat ≤ 100)) &&
      (field r 0 1 == 0 || (decide (1 ≤ field r 2 2) && decide (field r 2 2 ≤ 4094) && !(field r 4 1).testBit 0))
  checked (b.length == 1088 && decide (1024 ≤ h.laceUdp) && !([319, 320, 4791].contains h.laceUdp) &&
    decide (h.ptpDomain ≤ 127) && (decide (h.ptpSlave ≤ 15) || h.ptpSlave == 255) &&
    [h.lacePcp, h.ptpPcp, h.rocePcp].all (fun x => decide (x ≤ 7)) && h.lacePcp != h.ptpPcp && h.lacePcp != h.rocePcp &&
    h.ptpPcp != h.rocePcp && zeroBytes b 7 57 && raws.all portOk) (h, raws.map ent)

/-- A die path runs from die `a` to die `b` through joined dies in order (R171). -/
def pathJoins : Nat → Nat → List Nat → Bool
  | a, b, [] => a == b
  | a, b, w :: ws => w < 10 && ((weltDies w).1 == a || (weltDies w).2 == a) && pathJoins (farDie w a) b ws

/-- ROUTES (R171). A router lacks a port that R165 leaves connected to nothing (log entry 16). -/
def parseRoutes (b : List Byte) : Option Routes :=
  let n := field b 640 4
  let repair := (slice b 0 128).map fun x => x.toNat
  let rawPath (i : Nat) := slice b (128 + 8 * i) 8
  let path (i : Nat) : List Nat := ((rawPath i).drop 1).take (field (rawPath i) 0 1) |>.map fun x => x.toNat
  let pathOk (i : Nat) : Bool :=
    let c := field (rawPath i) 0 1
    decide (c ≤ 4) && zeroBytes (rawPath i) 5 3 && (c == 0 || (i / 8 != i % 8 && pathJoins (i / 8) (i % 8) (path i)))
  let raws := (List.range n).map fun i => slice b (704 + 16 * i) 16
  let ovr (r : List Byte) : Override :=
    ⟨field r 0 1, field r 1 1, field r 2 2, field r 4 1, field r 6 2, field r 8 2, field r 10 1⟩
  let ovrOk (r : List Byte) : Bool :=
    let o := ovr r
    decide (o.die < 8) && decide (o.planes < 4) && decide (o.router < 272) && decide (o.dstDie < 8) &&
      decide (o.first < 272) && decide (o.last < 272) && decide (o.port ≤ 4) && zeroBytes r 5 1 && zeroBytes r 11 5 &&
      outward o.die (siteX o.router) (siteY o.router) o.port != some .nothing
  checked (decide (n ≤ 65536) && b.length == 704 + 16 * n && zeroBytes b 644 60 &&
    repair.all (fun x => decide (x ≤ 15) || x == 255) && (List.range 64).all pathOk && raws.all ovrOk)
    ⟨repair, (List.range 64).map path, raws.map ovr⟩

/-- AWL_SCHEDULE (R453). -/
def parseAwl (b : List Byte) : Option (List AwlEnt) :=
  let raws := (List.range 7).map fun k => slice b (8 * k) 8
  checked (b.length == 64 && zeroBytes b 56 8 && raws.all fun r =>
    decide (field r 0 1 ≤ 1) && field r 2 2 != 0 && zeroBytes r 4 4)
    (raws.map fun r => ⟨field r 0 1 == 1, field r 1 1, field r 2 2⟩)

/-- POWER (R440). -/
def parsePower (b : List Byte) : Option PowerSec :=
  let p : PowerSec := ⟨field b 0 2, field b 2 2, field b 4 2, field b 6 1, (field b 7 1).testBit 0, field b 8 2,
    field b 10 1, field b 11 1⟩
  let within (lo x hi : Nat) : Bool := decide (lo ≤ x) && decide (x ≤ hi)
  checked (b.length == 16 && within 100 p.floor 675 && within 900 p.continuous 5000 && decide (p.maxState ≤ 36) &&
    decide (field b 7 1 ≤ 1) && within 200 p.coreLimitA 800 && within 85 p.junctionSoft 103 && within 80 p.dramSoft 93 &&
    zeroBytes b 12 4 && decide (8 * p.floor ≤ p.cap)) p

/-- A device last whose section bodies obey their layouts. -/
def parseDevice (img : List Byte) (bs : List (Nat × List Byte)) (measurement : List Byte) : Option DeviceLast := do
  let st := bodyOf bs 1
  let _ ← checked (st.length == 16 && zeroBytes st 5 11) ()
  let (defined, parts) ← parsePartitions (bodyOf bs 2)
  let shares ← parseShares defined (bodyOf bs 3)
  let pages ← parsePages defined (bodyOf bs 4)
  let eyelets ← parseEyelets defined (bodyOf bs 5)
  let welts ← parseWelts defined (bodyOf bs 6)
  let (hdr, ports) ← parsePorts (bodyOf bs 7)
  let routes ← parseRoutes (bodyOf bs 8)
  let g := bodyOf bs 9
  let _ ← checked (g.length == 16 && decide (field g 0 1 ≤ 1) && zeroBytes g 1 1 && zeroBytes g 4 12) ()
  let awl ← parseAwl (bodyOf bs 10)
  let power ← parsePower (bodyOf bs 11)
  pure { sequence := field img 0x10 8, period := field st 0 2, slack := field st 2 2, source := field st 4 1,
         defined, parts, shares, pages, eyelets, welts, portsHdr := hdr, ports, routes,
         replay := field g 0 1 == 1, noReplay := field g 2 2, awl, power, measurement,
         masks := sectionMasks img }

/-! ## Partition last -/

/-- PROGRAMS (R84, R85), for a program area with halves of `half` bytes and a last with `schedules` schedules:
the level-1 share, the programs, the length of the code. -/
def parsePrograms (half schedules : Nat) (b : List Byte) : Option (Nat × List Program × Nat) :=
  let n := field b 0 2
  let share := field b 2 1
  let codeLen := field b 8 4
  let raws := (List.range n).map fun i => slice b (64 + 32 * i) 32
  let prog (r : List Byte) : Program :=
    ⟨field r 0 2, field r 2 1 == 1, field r 3 1, field r 4 4, field r 8 4, field r 12 2, field r 16 4⟩
  let ok (r : List Byte) : Bool :=
    let p := prog r
    decide (field r 2 1 ≤ 1) && decide (1 ≤ p.groups) && decide (p.groups ≤ 16) && p.laneMask != 0 &&
      p.entry % 16 == 0 && decide (p.entry < codeLen) && zeroBytes r 14 2 && zeroBytes r 20 12 &&
      decide (p.scratch + 65536 * share ≤ 1048576) &&
      (if p.shaped then decide (p.schedule < schedules) else p.schedule == 0xFFFF)
  checked (decide (1 ≤ n) && decide (n ≤ 256) && decide (1 ≤ share) && decide (share ≤ 4) && zeroBytes b 3 5 &&
    zeroBytes b 12 52 && codeLen % 16 == 0 && decide (alignUp (64 + 32 * n) 64 + codeLen ≤ b.length) &&
    decide (b.length ≤ half) && raws.all ok && allPairs (fun x y => x.id != y.id) (raws.map prog))
    (share, raws.map prog, codeLen)

/-- The shapes of a SCHEDULES body (R176), by schedule. -/
def parseSchedules (b : List Byte) : Option (List (List Shape)) :=
  let ns := field b 0 2
  let nsh := field b 2 2
  let ne := field b 4 4
  let nr := field b 8 4
  let shAt := 64 + alignUp (8 * ns) 64
  let enAt := shAt + alignUp (16 * nsh) 64
  let reAt := enAt + alignUp (4 * ne) 64
  let sched (i : Nat) := slice b (64 + 8 * i) 8
  let shp (i : Nat) := slice b (shAt + 16 * i) 16
  let ent (i : Nat) := slice b (enAt + 4 * i) 4
  let rec_ (i : Nat) := slice b (reAt + 16 * i) 16
  let recOf (r : List Byte) : SlotRecord :=
    ⟨field r 0 1, field r 1 1, field r 2 1, field r 3 1 % 8, field r 3 1 / 8 % 2, field r 4 2, field r 6 2, field r 8 2⟩
  let at_ (die dx dy : Nat) : Bool := decide (die < 8) && decide (dx ≤ 16) && decide (dy ≤ 15)
  let entOk (e : List Byte) : Bool := at_ (field e 0 1) (field e 1 1) (field e 2 1) && zeroBytes e 3 1
  let recOk (r : List Byte) : Bool :=
    let x := recOf r
    at_ x.die x.dx x.dy && decide (field r 3 1 < 16) && decide (x.port ≤ 4) && decide (x.stream ≤ 65534) &&
      x.count != 0 && decide (x.first + x.count ≤ 2048) && zeroBytes r 10 6 &&
      !(x.port == 4 && (List.range x.count).any fun i => (x.first + i) % 4 == 3)
  let apart (x y : SlotRecord) : Bool :=
    !((x.die, x.dx, x.dy) == (y.die, y.dx, y.dy) && (x.port, x.plane) == (y.port, y.plane)) ||
      decide (x.first + x.count ≤ y.first) || decide (y.first + y.count ≤ x.first)
  let shape (i : Nat) : Shape :=
    let s := shp i
    ⟨(List.range (field s 4 2)).map (fun j => let e := ent (field s 0 4 + j); ⟨field e 0 1, field e 1 1, field e 2 1⟩),
     (List.range (field s 12 4)).map fun j => recOf (rec_ (field s 8 4 + j))⟩
  let shOk (i : Nat) : Bool :=
    let s := shp i
    decide (1 ≤ field s 4 2) && decide (field s 4 2 ≤ 2048) && zeroBytes s 6 2 && decide (field s 12 4 ≤ 65536) &&
      decide (field s 0 4 + field s 4 2 ≤ ne) && decide (field s 8 4 + field s 12 4 ≤ nr) && allPairs apart (shape i).records
  let scOk (i : Nat) : Bool :=
    let s := sched i
    decide (1 ≤ field s 2 1) && decide (field s 2 1 ≤ 8) && zeroBytes s 3 5 && decide (field s 0 2 + field s 2 1 ≤ nsh)
  let within (x hi : Nat) : Bool := decide (1 ≤ x) && decide (x ≤ hi)
  checked (within ns 256 && within nsh 2048 && within ne 524288 && within nr 1048576 && zeroBytes b 12 52 &&
    decide (reAt + 16 * nr ≤ b.length) && (List.range ns).all scOk && (List.range nsh).all shOk &&
    (List.range ne).all (fun i => entOk (ent i)) && (List.range nr).all fun i => recOk (rec_ i))
    ((List.range ns).map fun i => (List.range (field (sched i) 2 1)).map fun j => shape (field (sched i) 0 2 + j))

/-- An address entry of 16 bytes (R341). -/
def addrEnt (b : List Byte) : AddrEnt := ⟨field b 0 2, field b 2 1, slice b 4 4, slice b 8 6⟩
/-- A port byte above 15 names no outer port, and the body fails (DESIGN CHOICE, log entry 132). -/
def addrOk (b : List Byte) : Bool := decide (field b 2 1 ≤ 15) && zeroBytes b 3 1 && zeroBytes b 14 2

/-- JOB (R341, R342), given the programs of the last. A recv_eyelet that the partition does not hold passes: nothing then counts
(DESIGN CHOICE, log entry 133). -/
def parseJob (programs : List Program) (b : List Byte) : Option JobSec :=
  let nc := field b 10 2
  let nq := field b 12 2
  let nw := field b 14 2
  let nb := field b 16 2
  let qAt := 64 + alignUp (16 * nc) 64
  let wAt := qAt + 64 * nq
  let bAt := wAt + alignUp (32 * nw) 64
  let child (i : Nat) := slice b (64 + 16 * i) 16
  let qpAt (i : Nat) := slice b (qAt + 64 * i) 64
  let win (i : Nat) := slice b (wAt + 32 * i) 32
  let bar (i : Nat) := slice b (bAt + 8 * i) 8
  let parent := slice b 20 16
  let qpOf (q : List Byte) : QpCfg :=
    ⟨field q 0 2, field q 2 1, field q 3 1, field q 4 2, field q 6 1, slice q 8 4, slice q 12 6, field q 20 4, field q 24 8,
      field q 32 4, field q 36 4⟩
  let qpOk (q : List Byte) : Bool :=
    let x := qpOf q
    decide (x.peerPart ≤ 15) && decide (x.mtu ≤ 2) && decide (x.peerQp ≤ 4095) && decide (x.port ≤ 15) &&
      zeroBytes q 7 1 && zeroBytes q 18 2 && zeroBytes q 40 24 && x.recvBase % 64 == 0 &&
      (x.recvSlots == 0 || (isPow2 x.recvSlots && decide (16 ≤ x.recvSlots) && decide (x.recvSlots ≤ 65536))) &&
      isPow2 x.slotBytes && decide (4096 ≤ x.slotBytes) && decide (x.slotBytes ≤ 65536)
  let winOk (w : List Byte) : Bool := field w 8 8 != 0 && decide (field w 16 1 < 4) && zeroBytes w 17 15
  let barOf (x : List Byte) : JobBarrier := ⟨field x 0 2, field x 2 1, field x 3 1, field x 4 2⟩
  let barOk (x : List Byte) : Bool :=
    let y := barOf x
    (programs.any fun p => p.id == y.program && p.shaped) && decide (y.barrier ≤ 15) && decide (y.jobBarrier ≤ 15) &&
      decide (1 ≤ y.localTasks) && decide (y.localTasks ≤ 2048) && zeroBytes x 6 2
  let bars := (List.range nb).map fun i => barOf (bar i)
  let count := field b 4 4
  checked (decide (64 ≤ b.length) && decide (field b 1 1 ≤ 3) && decide (1 ≤ count) && decide (count ≤ 65536) &&
    decide (nc ≤ 64) && decide (nq ≤ 4096) && decide (nw ≤ 1024) && decide (nb ≤ 256) && zeroBytes b 19 1 &&
    addrOk parent && zeroBytes b 36 4 && (field b 0 1 != 2 || field b 40 8 == 0) && zeroBytes b 48 16 &&
    decide (bAt + 8 * nb ≤ b.length) && (List.range nc).all (fun i => addrOk (child i)) &&
    (List.range nq).all (fun i => qpOk (qpAt i)) && (List.range nw).all (fun i => winOk (win i)) &&
    (List.range nb).all (fun i => barOk (bar i)) &&
    allPairs (fun x y => x.program != y.program || x.barrier != y.barrier) bars)
    { role := field b 0 1, level := field b 1 1, jobId := field b 2 2, memberCount := count, member := field b 8 2,
      ptpDomain := field b 18 1, parent := if field b 0 1 = 2 then some (addrEnt parent) else none, parentRaw := parent,
      memberTable := field b 40 8, children := (List.range nc).map fun i => addrEnt (child i),
      qps := (List.range nq).map fun i => qpOf (qpAt i),
      windows := (List.range nw).map fun i =>
        ⟨field (win i) 0 8, field (win i) 8 8, (field (win i) 16 1).testBit 0, (field (win i) 16 1).testBit 1⟩,
      barriers := bars }

/-- STEP_LABELS (R431), as (label, seed). -/
def parseLabels (b : List Byte) : Option (List (Nat × Nat)) :=
  let n := field b 0 2
  let es := (List.range n).map fun i => slice b (64 + 8 * i) 8
  checked (decide (1 ≤ n) && decide (n ≤ 256) && b.length == 64 + 8 * n && zeroBytes b 2 62 &&
    es.all (fun e => zeroBytes e 1 3 && decide (1 ≤ field e 4 4) && decide (field e 4 4 ≤ 4000000)) &&
    allPairs (fun x y => field x 0 1 != field y 0 1) es) (es.map fun e => (field e 0 1, field e 4 4))

/-- A partition last whose section bodies obey their layouts; `half` is program_half of its partition's entry. -/
def parsePart (half : Nat) (img : List Byte) (bs : List (Nat × List Byte)) (measurement : List Byte) :
    Option PartLast := do
  let has (t : Nat) : Bool := bs.any fun b => b.1 == t
  let schedules ← if has 0x102 then (parseSchedules (bodyOf bs 0x102)).map some else some none
  let (share, programs, codeLen) ← parsePrograms half ((schedules.map List.length).getD 0) (bodyOf bs 0x101)
  let m := bodyOf bs 0x103
  let _ ← checked (m.length == 16 && zeroBytes m 3 13) ()
  let job ← parseJob programs (bodyOf bs 0x104)
  let labels ← if has 0x105 then parseLabels (bodyOf bs 0x105) else some []
  pure { part := field img 0x20 1, sequence := field img 0x10 8, period := field img 0x48 2, slack := field img 0x4A 2,
         l1Share := share, programs, codeLength := codeLen, body := bodyOf bs 0x101, schedules, modes := m, job, labels,
         measurement, masks := sectionMasks img }

end Sys2Proof.Machine
end

