-- ==== Sys2Proof/Machine/Sec.lean ====
section
/-! DEFINITION. Images that the device reads, keys, life-cycle and return-to-service commands, firmware staging and the TAP (R47,
R408, R467 to R483). -/

namespace Sys2Proof.Machine

/-! ## Reading an image (R47) -/

def State.setBadReads (s : State) (rs : List Nat) : State := { s with sec := { s.sec with badReads := rs } }

/-- The entries of device memory that meet [addr, addr + len) and that the host may hold newer, or that a home still collects. -/
def State.heldLines (s : State) (addr len : Nat) : List DirEnt :=
  s.coh.dir.filter fun e => e.state != .s && e.line < addr + len && addr < e.line + lineBytes e.bulk

/-- The die controller of CD0 sends a message of its own for a line. -/
def State.ctlSend (s : State) (m : Msg) (reader : Nat) : State :=
  s.openSend 31 { m with srcDie := 0, srcSite := (s.dieAsks 0 0).site, part := noPart, gen := s.generation noPart } (.image reader)

/-- Device memory at [addr, addr + len) that the device can read. -/
def State.canRead (s : State) (addr len : Nat) : Bool :=
  isMemory addr && dpaOff addr + len ≤ dieBytes && !s.mesh.unreachable.contains (dpaDie addr)

/-- The device begins to read an image (R47): RdCurr for each line of host memory, RdN for each line of device memory whose home must
first collect it. Lines that nothing holds are read when the image is whole. -/
def State.startImage (s : State) (reader : Nat) (host : Bool) (addr len : Nat) : State :=
  let s := s.setBadReads (s.sec.badReads.filter fun r => r != reader)
  if host then
    if s.flag fUciStatus_link_up then
      (List.range (ceilDiv len 64)).foldl (fun s i => s.emit (.cacheReq .rdCurr (addr + 64 * i) 0 [])) s
    else s
  else if !s.canRead addr len then s
  else (s.heldLines addr len).foldl (fun s e => s.ctlSend { opcode := 2, addr := e.line, bulk := e.bulk } reader) s

/-- No read of the reader is open. -/
def State.imageReady (s : State) (reader : Nat) : Bool := s.coh.txs.all fun x => !x.wants.contains (.image reader)

/-- Uncorrectable units of the range that the read takes from DRAM. -/
def State.ueRead (s : State) (addr len : Nat) : List Nat := (s.ueIn addr len).filter s.fromDram

/-- The `len` bytes of an image that the device has read: `hostImage` is what the host's memory holds at the image, and `fetched` says
that no read of it failed or timed out. -/
def State.fetchImage (s : State) (host : Bool) (addr len : Nat) (hostImage : List Byte) (fetched : Bool) :
    Option (List Byte) × State :=
  if !fetched then (none, s)
  else if host then (if hostImage.length = len && s.linkUp then some hostImage else none, s)
  else if !s.canRead addr len then (none, s)
  else
    let s := s.checkUnits fun u => unitIn addr len u && s.fromDram u
    let bad := s.ueRead addr len
    if bad.isEmpty then (some (s.homeBytes addr len), s)
    else (none, bad.foldl (fun s u => s.logUe u 6) s)

/-! ## Keys (R45, R467) -/

/-- The fused hash that a key slot selects in the life-cycle state, for everything but a partition last. -/
def State.slotHash (s : State) (slot : Nat) : Option (List Byte) :=
  let f := s.sec.fuses
  if slot = 0 && (f.lc = 1 || f.lc = 3) then some f.vendorHash
  else if slot = 1 && f.lc = 2 then some f.ownerHash
  else none

/-- The key of a signature block is that of the slot. -/
def State.keyOk (s : State) (slot : Nat) (sig : List Byte) : Bool :=
  match s.slotHash slot with
  | some h => keyHash sig == h
  | none => false

/-- The serial number of the module, 64 bits (R482). -/
def serial : Nat := Config.serial % 2 ^ 64

/-! ## What the registers show of the fuses and the flash (R482) -/

/-- TAP: every instruction in VENDOR and RETURNED (R469). -/
def State.tapFull (s : State) : Bool := s.sec.fuses.lc == 1 || s.sec.fuses.lc == 3

/-- The security version of bank A (false) or B (true): that of the image staged there, or of the image of module manufacture;
0 where it holds no valid image. -/
def State.bankVersion (s : State) (b : Bool) : Nat :=
  let k := if b then s.sec.flash.bankB else s.sec.flash.bankA
  if !k.valid then 0 else if k.measurement.isEmpty then Config.flashVersion b % 256 else k.version

def hashWords (f : Nat → Fld) (h : List Byte) : List (Fld × Nat) := (List.range 4).map fun i => (f i, field h (8 * i) 8)

/-- The SEC registers follow the fuses and the flash. -/
def State.showSec (s : State) : State :=
  let f := s.sec.fuses
  s.setAll ([(fSecLc_state, f.lc), (fSecLc_owner_hash_valid, if f.ownerBurned then 1 else 0),
    (fSecLc_partial_owner_hash, if !f.ownerBurned && !f.ownerPartial.isEmpty then 1 else 0),
    (fSecLc_transition, if s.sec.transition.isSome then 1 else 0), (fSecLc_tap_full, if s.tapFull then 1 else 0),
    (fSecFloor_last_steps, f.lastSteps), (fSecFloor_fw_steps, f.fwSteps), (fSecFw_staged_version, s.bankVersion (!s.flag fSecFw_bank))] ++
    hashWords fSecVendorHash_hash f.vendorHash ++ hashWords fSecOwnerHash_hash f.ownerHash)

def State.setSec (s : State) (x : SecSt) : State := { s with sec := x }

/-- The fuses at a tick are those that GET_MEASUREMENTS reports until the next (R480). -/
def State.measureFuses (s : State) : State := { s with sec := { s.sec with measured := some s.sec.fuses } }

/-- A new challenge is drawn (R476). -/
def State.newChallenge (s : State) (f : Fld) : State := let (n, s) := s.draw; s.set f n

/-! ## Life-cycle commands (R474 to R476) -/

/-- A command is accepted in the life-cycle state, and the slot that it then needs (R475). -/
def commandSlot (lc code : Nat) : Option Nat :=
  match code with
  | 1 => if lc = 1 then some 0 else none
  | 2 => if lc = 2 then some 1 else none
  | _ => if lc = 1 || lc = 3 then some 0 else if lc = 2 then some 1 else none

/-- A bit burned already stands in the new hash too (R478). -/
def coversPartial (part new : List Byte) : Bool := (part.zip new).all fun e => e.1 &&& e.2 == e.1

/-- The first failing check of a life-cycle command, 0 where it passes. `want` is the command that the row names. -/
def State.commandError (s : State) (want : Nat) (img : List Byte) : Nat :=
  let code := field img 6 1
  let sig := img.drop 256
  let steps := field img 0x18 1
  let hash := slice img 0x20 32
  let f := s.sec.fuses
  let known := 1 ≤ code && code ≤ 5
  let floor := code == 4 || code == 5
  let now := if code = 4 then f.lastSteps else f.fwSteps
  if known && (commandSlot f.lc code).isNone then 1
  else if field img 0 4 ≠ 0x4359434C || field img 4 2 ≠ 1 || !known || code ≠ want || !zeroBytes img 0x19 7 ||
      !zeroBytes img 0x40 192 || (!floor && steps != 0) || (code != 1 && !zeroBytes img 0x20 32) then 2
  else if commandSlot f.lc code ≠ some (field img 7 1) || !s.keyOk (field img 7 1) sig then 3
  else if !signatureOk sig (img.take 896) then 4
  else if field img 8 8 ≠ serial || serial = 0 then 5
  else if field img 0x10 8 ≠ s.get fSecChal_challenge then 6
  else if floor && (steps ≤ now || 32 < steps || (code == 5 && s.get fSecFw_running_version < steps)) then 7
  else if code = 1 && (zeroBytes img 0x20 32 || !coversPartial f.ownerPartial hash) then 7
  else 0

/-- A transition begins (R477): the device recovery that it needs does not count, and absorbs one under way (R402). -/
def State.startTransition (s : State) (lc : Nat) (owner : List Byte) : State :=
  let s := s.setSec { s.sec with transition := some lc, newOwner := owner }
  let s := s.set fSecLc_transition 1
  if s.flag fFltStatus_device_recovering then s.abortLoad else s.resetDevice 0

/-- A command that has passed its checks. -/
def State.acceptCommand (s : State) (img : List Byte) : State :=
  let steps := field img 0x18 1
  let s := s.set fSecCmdStatus_busy 1
  match field img 6 1 with
  | 1 => s.startTransition 2 (slice img 0x20 32)
  | 2 => s.startTransition 3 []
  | 3 => s.startTransition 4 []
  | 4 => s.setSec { s.sec with floorBurn := some (0, steps) }
  | _ => s.setSec { s.sec with floorBurn := some (1, steps) }

/-- A command image has been read: the command is checked and accepted, or refused. -/
def State.lifeRead (s : State) (want : Option Nat) (hostImage : List Byte) (fetched : Bool) : State :=
  let (img, s) := s.fetchImage (s.flag fSecCmdCtrl_host) (64 * s.get fSecCmdAddr_addr) 1280 hostImage fetched
  let want := want.getD (match img with | some b => field b 6 1 | none => 0)
  let err := match img with | some b => s.commandError want b | none => 8
  let s := (s.set fSecCmdStatus_error err).newChallenge fSecChal_challenge
  match err, img with
  | 0, some b => s.acceptCommand b
  | _, _ => s.event 0x1C 0x81 want err

/-- The image of a command is read: at once, or when the homes have collected the lines that the host holds. Until then the command
is held, and `hold` shows it. -/
def State.readThen (s : State) (w : ImageWait) (host : Bool) (addr len : Nat) (hold run : State → State) : State :=
  let s := s.startImage w.reader host addr len
  if s.imageReady w.reader then run s else hold (s.setSec { s.sec with reading := s.sec.reading ++ [w] })

/-- SEC_CMD_CTRL.go, of the command `want` where the row names one. -/
def State.lifeCommand (s : State) (want : Option Nat) (hostImage : List Byte) (fetched : Bool) : State :=
  if s.flag fSecCmdStatus_busy then s.set fSecCmdStatus_busy_go 1
  else
    s.readThen ⟨1, want, hostImage, fetched⟩ (s.flag fSecCmdCtrl_host) (64 * s.get fSecCmdAddr_addr) 1280
      (fun s => s.set fSecCmdStatus_busy 1) (fun s => s.lifeRead want hostImage fetched)

/-- TAKE_OWNERSHIP (R475). -/
def execTakeOwnership (hostImage : List Byte) (fetched : Bool) (s : State) : Host.Outcome State Fault Refusal :=
  .next (s.lifeCommand (some 1) hostImage fetched)
/-- RELEASE (R475). -/
def execRelease (hostImage : List Byte) (fetched : Bool) (s : State) : Host.Outcome State Fault Refusal :=
  .next (s.lifeCommand (some 2) hostImage fetched)
/-- END (R475). -/
def execEnd (hostImage : List Byte) (fetched : Bool) (s : State) : Host.Outcome State Fault Refusal :=
  .next (s.lifeCommand (some 3) hostImage fetched)
/-- RAISE_LAST_FLOOR (R475). -/
def execRaiseLastFloor (hostImage : List Byte) (fetched : Bool) (s : State) : Host.Outcome State Fault Refusal :=
  .next (s.lifeCommand (some 4) hostImage fetched)
/-- RAISE_FW_FLOOR (R475). -/
def execRaiseFwFloor (hostImage : List Byte) (fetched : Bool) (s : State) : Host.Outcome State Fault Refusal :=
  .next (s.lifeCommand (some 5) hostImage fetched)

/-- FLOOR_BURN_COMPLETE (R477): the floor takes effect from the moment its fuse is burned. -/
def execFloorBurnComplete (s : State) : Host.Outcome State Fault Refusal :=
  match s.sec.floorBurn with
  | none => .next s
  | some (which, n) =>
    let f := if which = 0 then { s.sec.fuses with lastSteps := n } else { s.sec.fuses with fwSteps := n }
    let s := (s.setSec { s.sec with fuses := f, floorBurn := none }).showSec
    .next ((s.set fSecCmdStatus_busy 0).event 0x1C 0x82 which n)

/-! ## Firmware (R470 to R472) -/

/-- The first failing check of a firmware image, in the codes of R476. -/
def State.firmwareError (s : State) (img : List Byte) : Nat :=
  let n := img.length
  let sig := img.drop (n - 1024)
  if n < 1280 || n % 64 ≠ 0 || field img 0 4 ≠ 0x5453414C || field img 4 2 ≠ 1 || field img 6 2 ≠ 3 || field img 8 4 ≠ 256 ||
      field img 12 4 ≠ n || field img 0x20 1 ≠ 255 || field img 0x22 2 ≠ 0 then 2
  else if field img 0x21 1 ≠ 0 || s.sec.fuses.lc = 0 || keyHash sig ≠ s.sec.fuses.vendorHash then 3
  else if !signatureOk sig (img.take (n - 384)) then 4
  else if field img 0x18 8 ≠ 0 && field img 0x18 8 ≠ serial then 5
  else if 255 < field img 0x10 8 || field img 0x10 8 < s.sec.fuses.fwSteps then 7
  else 0

/-- A stage of firmware has failed. -/
def State.stageFails (s : State) (version code : Nat) : State :=
  ((s.setSec { s.sec with fwImage := none }).setAll [(fSecFw_busy, 0), (fSecFw_stage_error, code)]).event 0x1C 0x83 version code

/-- A firmware image has been read. -/
def State.fwRead (s : State) (hostImage : List Byte) (fetched : Bool) : State :=
  let len := s.get fSecFwLen_len
  let (img, s) := s.fetchImage (s.flag fSecFwCtrl_host) (64 * s.get fSecFwAddr_addr) len hostImage fetched
  match img with
  | none => s.stageFails 0 8
  | some b =>
    let v := field b 0x10 8 % 256
    let err := s.firmwareError b
    if err ≠ 0 then s.stageFails v err
    else (s.setSec { s.sec with fwImage := some ⟨true, v, sha256 (b.take (len - 384))⟩ }).set fSecFw_busy 1

/-- SEC_FW_CTRL.stage (R472): refused during a transition (R478). -/
def State.fwStage (s : State) (hostImage : List Byte) (fetched : Bool) : State :=
  let len := s.get fSecFwLen_len
  if s.flag fSecFw_busy then s
  else if s.sec.transition.isSome then s.stageFails 0 1
  else if 8 * 2 ^ 20 < len then s.stageFails 0 7
  else
    s.readThen ⟨2, none, hostImage, fetched⟩ (s.flag fSecFwCtrl_host) (64 * s.get fSecFwAddr_addr) len
      (fun s => s.set fSecFw_busy 1) (fun s => s.fwRead hostImage fetched)

/-- FW_STAGE (R472). -/
def execFwStage (hostImage : List Byte) (fetched : Bool) (s : State) : Host.Outcome State Fault Refusal :=
  .next (s.fwStage hostImage fetched)

/-- FW_STAGED (R472): the bank that is not running holds the image and is preferred; or its second verification has failed. -/
def execFwStaged (ok : Bool) (s : State) : Host.Outcome State Fault Refusal :=
  match s.sec.fwImage with
  | none => .next s
  | some b =>
    if !ok then .next (s.stageFails b.version 4)
    else
      let fl := s.sec.flash
      let toB := !s.flag fSecFw_bank
      let fl := if toB then { fl with bankB := b, preferB := true } else { fl with bankA := b, preferB := false }
      let s := (s.setSec { s.sec with flash := fl, fwImage := none }).setAll [(fSecFw_busy, 0), (fSecFw_stage_error, 0)]
      .next (s.showSec.event 0x1C 0x83 b.version 0)

/-! ## Return to service (R408) -/

/-- The first failing check of a return-to-service image. -/
def State.rtsError (s : State) (img : List Byte) : Nat :=
  let sig := img.drop 256
  let slot := field img 0x18 1
  if field img 0 4 ≠ 0x56535452 || field img 4 2 ≠ 1 || !zeroBytes img 6 2 || !zeroBytes img 0x19 231 then 2
  else if 1 < slot || !s.keyOk slot sig then 3
  else if !signatureOk sig (img.take 896) then 4
  else if field img 8 8 ≠ serial || serial = 0 then 5
  else if field img 0x10 8 ≠ s.get fFltRtsChal_challenge then 6
  else 0

/-- A return-to-service command ends: what it changes waits for the next tick. -/
def State.rtsDone (s : State) (err : Nat) : State :=
  let s := (s.setAll [(fFltRtsStatus_error, err), (fFltRtsStatus_busy, 0)]).event 0x1D 0x13 err 0
  if err = 0 then s.setFlt { s.flt with returning := true } else s

/-- A return-to-service image has been read. -/
def State.rtsRead (s : State) (hostImage : List Byte) (fetched : Bool) : State :=
  let (img, s) := s.fetchImage (s.flag fFltRtsCtrl_host) (64 * s.get fFltRtsAddr_addr) 1280 hostImage fetched
  s.rtsDone (match img with | some b => s.rtsError b | none => 7)

/-- FLT_RTS_CTRL.go (R408). A second go while the image of the first is still being read is not heard (log entry 43). -/
def State.rtsGo (s : State) (hostImage : List Byte) (fetched : Bool) : State :=
  if !s.flag fFltStatus_out_of_service then s.rtsDone 1
  else if s.sec.reading.any fun w => w.reader == 3 then s
  else
    s.readThen ⟨3, none, hostImage, fetched⟩ (s.flag fFltRtsCtrl_host) (64 * s.get fFltRtsAddr_addr) 1280
      (fun s => s.set fFltRtsStatus_busy 1) (fun s => s.rtsRead hostImage fetched)

/-! ## Responses (R236), and the images that wait for them -/

/-- A command whose image has come whole. -/
def State.runImage (s : State) (w : ImageWait) : State :=
  let s := s.setSec { s.sec with reading := s.sec.reading.erase w }
  let ok := w.fetched && !s.sec.badReads.contains w.reader
  match w.reader with
  | 1 => (s.set fSecCmdStatus_busy 0).lifeRead w.want w.image ok
  | 2 => (s.set fSecFw_busy 0).fwRead w.image ok
  | _ => s.rtsRead w.image ok

/-- The commands whose images have come run. -/
def State.runImages (s : State) : State :=
  (s.sec.reading.filter fun w => s.imageReady w.reader).foldl State.runImage s

/-- DATA (R236). -/
def execData (m : Msg) (s : State) : Host.Outcome State Fault Refusal :=
  if !s.mayArrive m then .next s else
  let s := s.arrive m
  .next (if m.toHost then s.hostData m else (s.takeData m).runImages)

/-- MDATA (R213, R236). -/
def execMdata (m : Msg) (s : State) : Host.Outcome State Fault Refusal :=
  if !s.mayArrive m then .next s else
  let s := s.arrive m
  .next (if m.toHost then s.hostData m else (s.takeData m).runImages)

/-- ERR (R121, R236, R309). -/
def execErr (m : Msg) (s : State) : Host.Outcome State Fault Refusal :=
  if !s.mayArrive m then .next s else
  let s := s.arrive m
  .next (if m.toHost then s.hostErr m else (s.takeErr m).runImages)

/-- TRANSACTION_TIMEOUT (R390): 2 ms from issue. The transaction ends with Err, and its partition faults, unless the
transaction belongs to an earlier generation of it. -/
def execTransactionTimeout (i : TxTag) (s : State) : Host.Outcome State Fault Refusal :=
  match s.coh.txs.find? fun x => x.die == i.die.val && x.tag == i.tag with
  | none => .next s
  | some x =>
    let s := ((x.wants.foldl State.serveErr (s.closeTx x)).wakeHalf x).runImages
    if x.gen ≠ s.generation x.part || x.part = noPart then .next s
    else .next (s.partitionFault x.part { cause := 0x10, address := x.addr })

/-! ## The device returns to service -/

/-- RTS_GO (R408). -/
def execRtsGo (hostImage : List Byte) (fetched : Bool) (s : State) : Host.Outcome State Fault Refusal :=
  .next (s.rtsGo hostImage fetched)

/-- The device returns to service at a tick. -/
def State.returnTick (s : State) : State :=
  if !s.flt.returning then s
  else (s.setFlt { s.flt with returning := false }).setAll
    [(fFltStatus_out_of_service, 0), (fDevPins_fault_driven, 0), (fFltEscT_ms 0, 0), (fFltEscT_ms 1, 0), (fFltEscT_ms 2, 0)]

/-! ## The TAP (R469, R487) -/

/-- The bypass register is selected: outside VENDOR and RETURNED by every code but IDCODE (R469). -/
def State.tapBypass (s : State) : Bool :=
  match s.sec.tapCode with
  | none => false
  | some c => !s.tapFull && c != Config.tapIdcode

/-- TAP_INSTRUCTION (R469). While TRST_N is low the TAP stays in Test-Logic-Reset. -/
def execTapInstruction (code : Nat) (s : State) : Host.Outcome State Fault Refusal :=
  if s.sec.tapReset then .next s
  else
    let s := s.setSec { s.sec with tapCode := some code }
    .next (s.event 0x1C 0x85 s.sec.fuses.lc (if s.tapFull then 1 else 0))

/-- TAP_RESET (R487): Test-Logic-Reset selects IDCODE (IEEE 1149.1). -/
def execTapReset (low : Bool) (s : State) : Host.Outcome State Fault Refusal :=
  .next (if low then s.setSec { s.sec with tapReset := true, tapCode := none }
    else s.setSec { s.sec with tapReset := false })

end Sys2Proof.Machine
end

