-- ==== Sys2Proof/Machine/Apply.lean ====
section
/-! DEFINITION. What applies at a tick: a device last, a partition last, the PWR group and the rings of a partition (R52, R56 to
R61, R172, R319, R367, R441, R461). -/

namespace Sys2Proof.Machine

/-! ## A device last (R56) -/

/-- The partitions of the device last before and of the one that applies. -/
def State.placePartitions (s : State) (old : Option DeviceLast) (l : DeviceLast) : State :=
  let had (p : Nat) : Bool := match old with | some o => o.defined.testBit p | none => false
  (List.range 16).foldl (fun s p =>
    let has := l.defined.testBit p
    if had p && !has then
      if s.partState p = 1 then ((s.forgetPart p).setPartSt p {}).set (fPartStatus_state p) 0
      else
        let s := s.teardown p 0
        let x := s.partSt p
        s.setPartSt p { x with removing := if x.removing.isSome then x.removing else old }
    else s) s

/-- The partitions that only the last that has applied defines. -/
def State.defineNew (s : State) (old : Option DeviceLast) (l : DeviceLast) : State :=
  let had (p : Nat) : Bool := match old with | some o => o.defined.testBit p | none => false
  (List.range 16).foldl (fun s p => if !had p && l.defined.testBit p then s.definePart p else s) s

/-- The welts' modes and owners (R184): a failed group stays failed (R189). -/
def State.applyWelts (s : State) (l : DeviceLast) : State :=
  l.welts.zipIdx.foldl (fun s e =>
    let w := e.2 / 16
    let g := e.2 % 16
    let s := if s.weltMode w g = 3 then s else s.setWeltMode w g e.1.mode
    s.setWeltOwner w g (if e.1.mode = 1 then e.1.part else 0)) s

/-- The routing tables and the repair map (R171, R172). -/
def State.applyRoutes (s : State) (l : DeviceLast) : State :=
  let tab := s.withSoftRepairs l.routes
  let s := (List.range 128).foldl (fun s row =>
    let c := tab.repair.getD row 255
    let d := row / 16
    let y := row % 16
    s.setAll [(fMeshRepair_x d (y / 8) (y % 8), if c < 16 then c else 0),
      (fMeshRepair_valid d (y / 8) (y % 8), if c < 16 then 1 else 0)]) s
  let un := (List.range 64).filter fun i => unreachablePair s.weltWorks (i / 8) (i % 8)
  s.setMesh { s.mesh with routes := tab, rewritten := [], unreachable := un }

/-- The pool tiles of a partition that the last keeps, before and after the repair map changed: level-1 shares follow the tiles,
and a tile that enters the pool is zeroed (R17, R93, R369). -/
def State.moveTiles (s : State) (p : Nat) (before : List Nat) : State :=
  let now := s.tilesOf p
  let set (s : State) (t n : Nat) : State := s.set (fTileSplit_l1_share (tileDie t) (tileSite t)) n
  let s := before.foldl (fun s t => set s t 0) s
  now.foldl (fun s t =>
    let s := set s t (s.partShare p)
    if before.contains t then s else s.scratchZero t) s

/-- The outer ports: a port whose entry changes verifies preemption anew; the grandmaster of its domain is always locked
(R329, R332, R346). -/
def State.applyPorts (s : State) (old : Option DeviceLast) (l : DeviceLast) : State :=
  let was := (old.map fun o => o.ports).getD []
  let s := (List.range 16).foldl (fun s k =>
    let a := was.getD k {}
    let b := l.ports.getD k {}
    if b.enable && b.preemption && a.enable && a.preemption then s
    else s.set (fOutPortStatus_preempt (k / 2) (k % 2)) 0) s
  let slave := (old.map fun o => o.portsHdr.ptpSlave).getD 254
  if l.portsHdr.ptpSlave = slave then s
  else
    let on := if l.portsHdr.ptpSlave < 16 then 0 else 1
    s.setAll [(fOutPtpStatus_locked, on), (fOutPtpStatus_aligned, on), (fOutPtpStatus_offset_ns, 0)]

/-- The POWER section (R441): cap and floor of the PWR group take its values. -/
def State.applyPower (s : State) (l : DeviceLast) (first : Bool) : State :=
  let s := s.setAll [(fPwrCapSet_cap_w, l.power.cap), (fPwrFloorSet_floor_w, l.power.floor)]
  let s := s.setPower { s.power with sec := l.power, firstStitch := first }
  (s.setPower { s.power with floorW := s.floorBudget }).checkForced

/-- A load has applied: APPLIED, its event, vector 0 (R54, R320). -/
def State.loadApplied (s : State) : State :=
  let s := { s with ldr := { s.ldr with staged := none, committed := false } }
  ((s.set fLdrStatus_state 6).event 0x19 0x1A 6 0).fire 0 0

/-- A device last applies (R56). -/
def State.applyDevice (s : State) (l : DeviceLast) : State :=
  let old := s.dev
  let tiles := (List.range 16).map fun p => s.tilesOf p
  let s := s.placePartitions old l
  let s := { s with dev := some l }
  let s := { s with ldr := { s.ldr with seqDevice := max s.ldr.seqDevice (l.sequence + 1) } }
  let s := s.setAll [(fLdrSeqDevice_sequence, l.sequence), (fStchPeriod_period_us, l.period),
    (fStchSlack_slack_permille, l.slack), (fStchSource_source, l.source), (fStchStatus_fallback, 0)]
  let s := { s with clock := { s.clock with missedRun := 0 } }
  let s := (List.range 8).foldl State.toPrimary s
  let s := ((s.applyWelts l).applyRoutes l).applyPorts old l
  let s := (List.range 128).foldl (fun s i =>
    let sh := l.shares.getD i (0, 0)
    s.setAll [(fL3PartShare_way_share (i / 16) (i % 16), sh.1), (fL3PartShare_pin_share (i / 16) (i % 16), sh.2)]) s
  let s := (List.range 16).foldl (fun s p =>
    if l.defined.testBit p && (match old with | some o => o.defined.testBit p | none => false) then
      s.moveTiles p (tiles.getD p [])
    else s) s
  ((s.defineNew old l).applyPower l old.isNone).loadApplied

/-! ## A partition last (R52, R341, R431) -/

/-- A partition last applies: shares, program half, queue pairs and job engine, label seeds. -/
def State.applyPartition (s : State) (l : PartLast) : State :=
  let p := l.part
  let s := { s with lasts := mapSet none s.lasts p (some l) }
  let s := { s with ldr := { s.ldr with
    seqPart := mapSet 0 s.ldr.seqPart p (max (mapGet 0 s.ldr.seqPart p) (l.sequence + 1)),
    secondHalf := mapSet false s.ldr.secondHalf p (!mapGet false s.ldr.secondHalf p) } }
  let s := { s with outer := { s.outer with qps := mapClear s.outer.qps (p * 4096) ((p + 1) * 4096) } }
  let s := s.set (fPartStatus_last_in_force p) 1
  let s := s.setShares p l.l1Share
  ((s.startJob p l.job).seedLabels p l.labels).loadApplied

/-! ## Rings (R319) -/

/-- The stitch-class fields of group RING p. -/
def ringFields (p : Nat) : List Fld :=
  (List.range 16).flatMap fun k => [fPartSqBase_base p k, fPartSqCfg_entries p k, fPartSqCfg_enable p k,
    fPartCqBase_base p k, fPartCqCfg_entries p k, fPartCqCfg_enable p k]

/-- A submission ring of the commit: a ring that becomes enabled, or whose base changes, starts at index 0. -/
def State.startSq (s : State) (p k : Nat) (on : Bool) (base : Nat) : State :=
  if !s.flag (fPartSqCfg_enable p k) then s.set (fPartSqStatus_state p k) 0
  else if on && base = s.sqBase p k then s
  else
    let x := s.partSt p
    let s := s.setPartSt p { x with firstSeen := mapClear x.firstSeen (k * 2 ^ 32) ((k + 1) * 2 ^ 32) }
    let s := s.set (fPartSqStatus_consumer p k) 0
    let s := if on then s else s.setAll [(fPartSqStatus_state p k, 1), (fPartSqStatus_error p k, 0)]
    s.schedWrite p (s.sqBase p k + 8) (toLE 4 0) (.ringWrite p)

/-- A completion ring of the commit. -/
def State.startCq (s : State) (p k : Nat) (on : Bool) (base : Nat) : State :=
  if !s.flag (fPartCqCfg_enable p k) || (on && base = s.cqBase p k) then s
  else (s.set (fPartCqStatus_producer p k) 0).schedWrite p (s.cqBase p k) (toLE 4 0) (.ringWrite p)

/-- The snapshot of a commit takes effect. -/
def State.setFields (s : State) (fs : List (Nat × Nat)) : State :=
  { s with regs := fs.foldl (fun m e => mapSet 0 m e.1 e.2) s.regs }

/-- A commit of RING p applies. -/
def State.applyRings (s : State) (p : Nat) (c : Commit) : State :=
  let sq := (List.range 16).map fun k => (s.flag (fPartSqCfg_enable p k), s.sqBase p k)
  let cq := (List.range 16).map fun k => (s.flag (fPartCqCfg_enable p k), s.cqBase p k)
  let s := s.setFields c.fields
  let s := sq.zipIdx.foldl (fun s e => s.startSq p e.2 e.1.1 e.1.2) s
  let s := cq.zipIdx.foldl (fun s e => s.startCq p e.2 e.1.1 e.1.2) s
  s.setAll [(fPartCfgStatus_pending p, 0), (fPartCfgStatus_pending_group p, 0)]

/-- A commit of PWR applies: CFG_APPLIED, and vector 1 (R67, R320). With no commit pending, pending_group reads 0 (DESIGN CHOICE, log
entry 131). -/
def State.applyPwr (s : State) (c : Commit) : State :=
  let s := s.setFields c.fields
  (s.setAll [(fCfgStatus_pending, 0), (fCfgStatus_pending_group, 0), (fCfgApplied_stitch, s.stitch)]).fire 0 1

/-! ## The tick's commits (R59) -/

/-- The accepted commit of a group that comes due at this tick: 50 ns have passed since its acceptance. -/
def State.dueCommit (s : State) (g : Nat) : Option Commit :=
  s.cfg.accepted.find? fun c => c.group == g && s.tickAfter c.acceptedAt

def State.takeCommit (s : State) (c : Commit) : State :=
  { s with cfg := { s.cfg with accepted := s.cfg.accepted.erase c } }

/-- One group at the tick. A device last overrides a PWR commit of the same tick, so PWR goes first (R441). -/
def State.applyGroup (s : State) (g : Nat) : State :=
  match s.dueCommit g with
  | none => s
  | some c =>
    let s := s.takeCommit c
    if g = 17 then s.applyPwr c
    else if 18 ≤ g then s.applyRings (g - 18) c
    else match s.ldr.staged with
      | some (.device l) => s.applyDevice l
      | some (.partition l) => s.applyPartition l
      | none => s

/-- The commits that come due: PWR, DEVICE_LAST, then the partitions' groups. -/
def State.applyCommits (s : State) : State :=
  let first := s.dev.isNone
  let s := ([17, 0] ++ (List.range 16).map (1 + ·) ++ (List.range 16).map (18 + ·)).foldl State.applyGroup s
  let s := if !(first && s.dev.isSome) then s.setPower { s.power with firstStitch := false } else s
  s.set fPwrBudget_budget_w (if s.dev.isSome then s.budgetMw / 1000 else 0)

end Sys2Proof.Machine
end

