-- ==== Sys2Proof/Machine/Stitch.lean ====
section
/-! DEFINITION. The stitch generator: its sources, and how it emits a tick (R24 to R28, R344 to R346). -/

namespace Sys2Proof.Machine

/-- The source in force: after 16 missed edges the generator runs on the internal source (R26). -/
def State.sourceInForce (s : State) : Nat :=
  let x := s.get fStchSource_source
  if x = 1 && s.flag fStchStatus_fallback then 0 else x

/-- The delay of a tick after its reference time, 18 to 22 ns (R26). -/
def tickDelay : Nat := 18 + Config.tickDelay % 5

/-- The latest tick has reached every die, and its issue point and the opening of its slack window have passed, so the next may come
(R30). STCH_COUNT is 0 until the first tick. -/
def State.tickDue (s : State) : Bool :=
  s.clock.running && (s.stitch == 0 || (s.clock.arrived == 255 && s.clock.issued && s.clock.slackOpen))

/-- A tick is generated at `t`, of reference time `ref`. The slack window stays open until it arrives (R27, R32). -/
def State.emitTick (s : State) (ref t : Nat) (edge : Bool) : State :=
  let s := s.advanceTo t
  let s := { s with clock := { s.clock with
    tickAt := t, refAt := ref, issued := false, arrived := 0, milliCycles := 0 } }
  (s.addTo fStchCount_count 1).setAll [(fDevPins_tick_out_on, 1), (fDevPins_tick_in_seen, if edge then 1 else 0)]

/-- TICK (R24): a period boundary of the internal count. The first tick follows the training of the welts. -/
def execTick (s : State) : Host.Outcome State Fault Refusal :=
  if !s.tickDue || s.sourceInForce ≠ 0 then .next s
  else
    let t := if s.stitch = 0 then s.clock.now else s.clock.tickAt + s.period
    .next (s.emitTick (t - tickDelay) t false)

/-- The expected time of an edge: the reference time of the previous tick plus the period (R26). -/
def State.edgeExpected (s : State) : Nat := s.clock.refAt + s.period

/-- LACE_TICK_IN_EDGE (R26): a valid edge sets the reference time of a tick, any other is stray. -/
def execLaceTickInEdge (at_ : Nat) (s : State) : Host.Outcome State Fault Refusal :=
  if !s.clock.running || s.sourceInForce ≠ 1 then .next s
  else
    let e := s.edgeExpected
    if e ≤ at_ + 100 && at_ ≤ e + 100 then
      if !s.tickDue then .next s
      else
        let s := { s with clock := { s.clock with missedRun := 0 } }
        .next (s.emitTick at_ (at_ + tickDelay) true)
    else .next (s.bump fStchStatus_stray_edges 1)

/-- MISSED_EDGE (R26): the window closes with no edge. After 16 in a row the generator falls back. -/
def execMissedEdge (s : State) : Host.Outcome State Fault Refusal :=
  if !s.tickDue || s.sourceInForce ≠ 1 then .next s
  else
    let ref := s.edgeExpected + 100
    let n := s.clock.missedRun + 1
    let s := (s.set fStchStatus_tick_missed 1).bump fStchStatus_missed_count 1
    let s := ({ s with clock := { s.clock with missedRun := n } }).emitTick ref (ref + tickDelay) false
    if n < 16 then .next s
    else .next ((s.set fStchStatus_fallback 1).event 0x1A 0x02 0 (s.get fStchStatus_missed_count))

/-- STCH_CTRL.rearm (R65): the generator returns from fallback, and the counts clear. -/
def State.rearm (s : State) : State :=
  let s := s.setAll [(fStchStatus_fallback, 0), (fStchStatus_missed_count, 0), (fStchStatus_stray_edges, 0)]
  { s with clock := { s.clock with missedRun := 0 } }

/-- REARM (R65). -/
def execRearm (s : State) : Host.Outcome State Fault Refusal := .next s.rearm

/-- The phase correction that a tick takes: all of it in one step, or at most 10 ns as a member (R345). -/
def State.phaseStep (s : State) : Int :=
  let x := s.outer.ptp.pending
  if s.isMember then max (-10) (min 10 x) else x

/-- JOB_ALIGNED_TICK (R344, R346): PTP time passes k periods. It runs on from the latest correction while no master is
there. -/
def execJobAlignedTick (k : Nat) (s : State) : Host.Outcome State Fault Refusal :=
  if !s.tickDue || s.sourceInForce ≠ 2 then .next s
  else
    let c := s.phaseStep
    let ptp := s.outer.ptp
    let s := { s with outer := { s.outer with ptp := { ptp with offset := ptp.offset + c, pending := ptp.pending - c } } }
    let t := (((k * s.period : Nat) : Int) - s.outer.ptp.offset).toNat
    let s := s.set fOutJobStitch_stitch k
    let t := max t s.clock.now
    .next (s.emitTick (t - tickDelay) t false)

end Sys2Proof.Machine
end

