-- ==== Sys2Proof/Machine/Tick.lean ====
section
/-! DEFINITION. The points of a stitch: the tick at each die, the issue point, the opening of the slack window (R30 to R38). -/

namespace Sys2Proof.Machine

/-! ## The device at a tick -/

/-- Vectors at the tick (R321): the triggers held in the stitch send one message. -/
def tickVector (v : Vector) : Vector × Bool :=
  if !v.held then ({ v with sent := false }, false)
  else if v.masked then ({ v with sent := false, held := false, pending := true }, false)
  else ({ v with sent := true, held := false }, true)

def State.tickVectors (s : State) : State :=
  let now := s.uci.vectors.map fun e => (e.1, tickVector e.2)
  let s := s.setUci { s.uci with vectors := now.filterMap fun e => if e.2.1 = {} then none else some (e.1, e.2.1) }
  now.foldl (fun s e => if e.2.2 then s.message (e.1 / 32) (e.1 % 32) else s) s

/-- The tiles held after an overrun or step fault of the stitch before return to their partitions (R34, R83). -/
def State.freeHeld (s : State) : State :=
  (List.range 2176).foldl (fun s t =>
    if s.get (fTileState_state (tileDie t) (tileSite t)) = 4 then
      (s.setTile t { s.tileAt t with halting := false }).setTileCode t 1
    else s) s

/-- A step that is over but whose end no command has told ends now: when in the stitch it did is a free value. -/
def State.endQuietly (s : State) (k : Task) : State :=
  let r := s.draw
  r.2.endStep k (r.1 % (s.period + 1))

/-- What the scheduler and the drains of a partition start anew at a tick. -/
def State.partTick (s : State) (p : Nat) : State :=
  let x := s.partSt p
  let x := { x with drainTicks := if s.partState p = 4 then x.drainTicks + 1 else 0, fetched := [], unread := [], deferred := false }
  let s := s.setPartSt p { x with resumed := [] }
  let s := x.resumed.foldl (fun s k => if s.get (fPartSqStatus_state p k) = 2 then s.set (fPartSqStatus_state p k) 1 else s) s
  (s.freezeTick p).thawTick p

/-- The sets that bypassed are those of the stitch that begins (R223). -/
def State.bypassTick (s : State) : State :=
  ({ s with coh := { s.coh with bypassed := [] } }).setAll ((List.range 16).map fun h => (fL2Occ_bypass_sets (h / 2) (h % 2), 0))

/-- The tick, once for the device. -/
def State.deviceTick (s : State) : State :=
  let ps := List.range 16
  let s := s.tickVectors.freeHeld.bypassTick
  let s := (s.tile.tasks.filter s.stepOver).foldl State.endQuietly s
  let late := s.tile.tasks.filter fun k => k.phase == .running || k.phase == .placed
  let throttled := s.flag fStchStatus_forced_low
  let period := s.period
  let s := ps.foldl State.partTick s
  let s := (s.overrun late throttled).powerMeasure.applyCommits
  let s := late.foldl (fun s k => s.overrunRecord throttled period k) s
  let s := s.returnTick.sparesTick
  let s := ps.foldl (fun s p => (s.zeroTick p).movePending p) s
  s.replaysTick.jobTick.measureFuses

/-- The tick at a die: its power control, then the schedulers that run there (R314). -/
def State.dieTick (s : State) (d : Nat) : State :=
  let s := s.powerTick d
  (List.range 16).foldl (fun s p => if s.defined p && s.programDie p = d then s.scheduleTick p else s) s

/-- With the last die's arrival the stitch counts in the sustainable frequency (R432). -/
def State.allArrived (s : State) : State := if s.clock.arrived = 255 then s.sustainTick else s

/-- The tick has reached die `d`. What it does to the device as a whole it does at the first die. -/
def State.arriveAt (s : State) (d : Nat) : State :=
  let s := if s.clock.arrived = 0 then { s with clock := { s.clock with slackOpen := false } }.deviceTick else s
  let s := s.set (fLaceStatus_skew_ns d) (s.skewNs d)
  ({ s with clock := { s.clock with arrived := setBit s.clock.arrived d } }.dieTick d).allArrived

/-- TICK_ARRIVAL (R30): 64 ns after its generation (R191). -/
def execTickArrival (d : Die) (s : State) : Host.Outcome State Fault Refusal :=
  if !s.clock.running || s.stitch == 0 || s.clock.arrived.testBit d.val then .next s
  else
    .next ((s.advanceTo s.tickArrival).arriveAt d.val)

/-! ## The issue point (R31) -/

/-- ISSUE_POINT (R31): 200 ns after the tick every placed step issues, and the saves of frozen partitions begin (R382). -/
def execIssuePoint (s : State) : Host.Outcome State Fault Refusal :=
  if !s.clock.running || s.clock.issued || s.clock.arrived ≠ 255 then .next s
  else
    let s := s.advanceTo (s.tickArrival + 200)
    let s := { s with clock := { s.clock with issued := true } }
    let s := (List.range 16).foldl State.scheduleLate s
    let s := (s.tile.tasks.filter fun k => k.phase == .placed).foldl (fun s k => (s.startTask k).ranStep k) s
    .next ((List.range 16).foldl State.startSave s)

/-! ## The slack window (R32) -/

/-- The loader commits the last that waits in APPLY_PENDING (R54), but that of a partition that drains (R380). -/
def State.loaderCommit (s : State) : State :=
  let go (g : Nat) : State :=
    let s := { s with ldr := { s.ldr with committed := true } }
    { s with cfg := { s.cfg with checks := s.cfg.checks ++ [{ group := g, viaLoader := true }] } }
  if s.get fLdrStatus_state ≠ 5 || s.ldr.committed then s
  else match s.ldr.staged with
    | some (.device _) => go 0
    | some (.partition l) => if s.partState l.part = 4 then s else go (1 + l.part)
    | none => s

/-- When the next tick is expected to be generated: an edge is expected a period after the latest, and its tick 20 ns later (R26). -/
def State.nextTick (s : State) : Nat :=
  if s.sourceInForce = 1 then s.edgeExpected + 20 else s.clock.tickAt + s.period

/-- When the slack window opens, at every die (R26, R30). -/
def State.windowAt (s : State) : Nat := s.nextTick + 64 - s.slackLen

/-- SLACK_WINDOW_OPEN (R32): the slack length before the next tick. `found` is what the patrol scrub finds (R293). -/
def execSlackWindowOpen (found : List EccFound) (s : State) : Host.Outcome State Fault Refusal :=
  if !s.clock.running || !s.clock.issued || s.clock.slackOpen then .next s
  else
    let s := s.advanceTo s.windowAt
    let s := { s with clock := { s.clock with slackOpen := true } }
    let s := (List.range 16).foldl State.rotatePointers s
    let forced := s.forcedScrubs
    .next (((s.scrub found).slices forced).loaderCommit)

end Sys2Proof.Machine
end

