-- ==== Sys2Proof/Machine/Loader.lean ====
section
/-! DEFINITION. The loader and the commit registers (R39 to R60). -/

namespace Sys2Proof.Machine

/-! ## LDR_CTRL (R54) -/

/-- The loader takes writes to its static fields (R66). -/
def State.loaderIdle (s : State) : Bool :=
  let st := s.get fLdrStatus_state
  st == 0 || st == 4 || st == 6 || st == 7

/-- A static field is written while its block runs: CFG_STATUS says so, with bits 31:3 of the BAR0 offset (R11, R67). -/
def State.busyWrite (s : State) (off : Nat) : State :=
  s.setAll [(fCfgStatus_busy_write, 1), (fCfgStatus_busy_offset, off / 8)]

/-- LDR_CTRL.start: a new load begins, and ends at once where the device refuses it or LDR_LEN is below 256 (R48, R53). It clears what
LDR_STATUS says of the load before (DESIGN CHOICE, log entry 129). -/
def State.loadStart (s : State) : State :=
  if !s.loaderIdle then s.set fLdrStatus_busy_start 1
  else
    let s := { s with ldr := { s.ldr with staged := none, committed := false } }
    let s := s.setAll [(fLdrStatus_state, 1), (fLdrStatus_error, 0), (fLdrStatus_check, 0), (fLdrStatus_kind, 0),
      (fLdrStatus_partition, 0)]
    if s.flag fFltStatus_out_of_service || s.sec.fuses.lc = 4 then s.endLoad 0x0D 0
    else if s.get fLdrLen_len < 256 then s.endLoad 0x03 0
    else s.startImage 0 (s.flag fLdrCtrl_host) (64 * s.get fLdrAddr_addr) (s.get fLdrLen_len)

/-- LDR_CTRL.apply. -/
def State.loadApply (s : State) : State :=
  if s.get fLdrStatus_state = 4 then s.set fLdrStatus_state 5 else s.set fLdrStatus_apply_ignored 1

/-- LDR_CTRL.abort. -/
def State.loadAbort (s : State) : State :=
  let st := s.get fLdrStatus_state
  if 1 ≤ st && st ≤ 4 then s.endLoad 0x0E 0 else s

/-- A write of LDR_CTRL: host and auto_apply are stored, then one action is performed, or none of several. -/
def State.loaderControl (s : State) (v : Nat) : State :=
  let s := if s.loaderIdle then s.setAll [(fLdrCtrl_host, bitsAt v 8 1), (fLdrCtrl_auto_apply, bitsAt v 9 1)]
    else s.busyWrite fLdrCtrl_host.addr
  match v % 8 with
  | 0 => s
  | 1 => s.loadStart
  | 2 => s.loadApply
  | 4 => s.loadAbort
  | n =>
    let s := if n.testBit 0 then s.set fLdrStatus_busy_start 1 else s
    if n.testBit 1 then s.set fLdrStatus_apply_ignored 1 else s

/-- LDR_START (R54). -/
def execLdrStart (v : Word) (s : State) : Host.Outcome State Fault Refusal := .next (s.loaderControl v.toNat)
/-- LDR_APPLY (R54). -/
def execLdrApply (v : Word) (s : State) : Host.Outcome State Fault Refusal := .next (s.loaderControl v.toNat)
/-- LDR_ABORT (R54). -/
def execLdrAbort (v : Word) (s : State) : Host.Outcome State Fault Refusal := .next (s.loaderControl v.toNat)

/-! ## Verification (R48 to R51) -/

/-- Step 1 of R48: the error of the header's first fields, 0 for none. -/
def headError (img : List Byte) : Nat :=
  if field img 0 4 ≠ 0x5453414C || field img 4 2 ≠ 1 then 1
  else if field img 6 2 ≠ 1 && field img 6 2 ≠ 2 then 2
  else if field img 8 4 ≠ 256 then 1
  else 0

/-- Step 2: the length (R49, R53). -/
def lengthError (img : List Byte) : Nat :=
  let n := field img 12 4
  let limit := if field img 6 2 = 1 then 16 * 2 ^ 20 else 128 * 2 ^ 20
  if n ≠ img.length || n % 64 ≠ 0 || limit < n || n < 1280 then 3 else 0

/-- The delegated key hash of partition `p`, of 32 octets; all zero for none (R365). -/
def State.delegatedHash (s : State) (p : Nat) : List Byte := match s.dev with
  | some l => slice (l.entry p) 32 32
  | none => []

def State.delegates (s : State) (p : Nat) (hash : List Byte) : Bool :=
  s.defined p && s.delegatedHash p == hash && hash.any (· != 0#8)

/-- Step 3: the key (R45, R467). Slot 2 is for partition lasts. -/
def State.keyError (s : State) (img : List Byte) : Nat :=
  let slot := field img 0x21 1
  let sig := img.drop (img.length - 1024)
  let lc := s.sec.fuses.lc
  let ok := if slot = 2 then field img 6 2 == 2 && (lc == 1 || lc == 2 || lc == 3) &&
      (List.range 16).any fun p => s.delegates p (keyHash sig)
    else s.keyOk slot sig
  if ok then 0 else 4

/-- The lowest sequence that a last may carry: above every one applied, and no lower than the floor (R51, R473). -/
def State.lowestSequence (s : State) (img : List Byte) : Nat :=
  max (s.sec.fuses.lastSteps * 2 ^ 48)
    (if field img 6 2 = 1 then s.ldr.seqDevice else mapGet 0 s.ldr.seqPart (field img 0x20 1))

/-- Step 5: partition field, serial, sequence, binding, and the named partition's own delegated key. -/
def State.bindError (s : State) (img : List Byte) : Nat :=
  let device := field img 6 2 == 1
  let p := field img 0x20 1
  let entry := match s.dev with | some l => l.entry p | none => []
  if (if device then p != 255 else 15 < p) then 2
  else if field img 0x18 8 ≠ 0 && field img 0x18 8 ≠ serial then 6
  else if field img 0x10 8 < s.lowestSequence img then 7
  else if !device && (!s.defined p || slice img 0x28 32 != sha256 entry) then 8
  else if field img 0x21 1 = 2 && !s.delegates p (keyHash (img.drop (img.length - 1024))) then 4
  else 0

/-- Steps 6 and 7: the last of the section table and bodies, or the error. -/
def State.decodeLast (s : State) (img : List Byte) (measurement : List Byte) : Except Nat Last :=
  let device := field img 6 2 == 1
  match sectionBodies device img with
  | none => .error 9
  | some bs =>
    if device then
      match parseDevice img bs measurement with
      | some l => .ok (.device l)
      | none => .error 10
    else
      match parsePart (field (s.partEntry (field img 0x20 1)) 16 4) img bs measurement with
      | some l => .ok (.partition l)
      | none => .error 10

/-- The agreement checks that a last fails (R63). -/
def State.lastChecks (s : State) : Last → List Nat
  | .device l => s.deviceChecks l
  | .partition l => s.partChecks l

/-- The loader writes `bs` to device memory at `a`, 256 bytes at a time: at once where no agent holds the line, else as a byte-masked
write that its home takes when it has collected the line. -/
def State.loaderWrite (s : State) (a : Nat) (bs : List Byte) : State :=
  (List.range (ceilDiv bs.length 256)).foldl (fun s i =>
    let part := slice bs (256 * i) 256
    let at_ := a + 256 * i
    if s.coh.dir.any fun e => e.line ≤ at_ && at_ < e.line + lineBytes e.bulk then
      s.ctlSend (wbmAt ⟨false, at_, s.isBulk at_, false⟩ part) 4
    else s.sliceWrite at_ false (2 ^ part.length - 1) part) s

/-- The PROGRAMS body goes to the half of the program area that is not in use (R52). -/
def State.writeProgram (s : State) : Last → State
  | .device _ => s
  | .partition l =>
    let e := s.partEntry l.part
    let off := field e 8 8 + (if mapGet false s.ldr.secondHalf l.part then 0 else field e 16 4)
    s.loaderWrite (dpa (field e 1 1) off) l.body

/-- The load reaches STAGED, and with auto_apply APPLY_PENDING (R54). -/
def State.stage (s : State) (l : Last) : State :=
  let s := { (s.writeProgram l) with ldr := { (s.writeProgram l).ldr with staged := some l, committed := false } }
  let s := ((s.set fLdrStatus_state 4).event 0x19 0x1A 4 0).fire 0 0
  if s.flag fLdrCtrl_auto_apply then s.set fLdrStatus_state 5 else s

/-- Steps 5 to 8 of R48, on an image whose signature has verified. -/
def State.loadVerified (s : State) (img : List Byte) : State :=
  let m := sha256 (img.take (img.length - 384))
  let s := s.setAll (hashWords fLdrMeas_hash m)
  let s := if field img 6 2 = 2 && field img 0x20 1 < 16 then s.set fLdrStatus_partition (field img 0x20 1) else s
  let e := s.bindError img
  if e ≠ 0 then s.endLoad e 0
  else
    match s.decodeLast img m with
    | .error e => s.endLoad e 0
    | .ok l =>
      match s.pick 0 (s.lastChecks l) with
      | (0, s) => s.stage l
      | (code, s) => s.endLoad 0x0B code

/-- Steps 1 to 4 of R48. -/
def State.loadCheck (s : State) (img : List Byte) : State :=
  let e := headError img
  if e ≠ 0 then s.endLoad e 0
  else
    let s := s.set fLdrStatus_kind (field img 6 2)
    if lengthError img ≠ 0 then s.endLoad (lengthError img) 0
    else if s.keyError img ≠ 0 then s.endLoad 4 0
    else if !signatureOk (img.drop (img.length - 1024)) (img.take (img.length - 384)) then s.endLoad 5 0
    else s.loadVerified img

/-- LOAD_COMPLETE (R48): the load ends in STAGED or REJECTED, not before every line of its image has come, nor while a recovery
restarts the UCI transaction layers (R400). FETCH, VERIFY and DECODE pass within this one command, so LDR_STATUS shows the first
alone (DESIGN CHOICE, log entry 128). -/
def execLoadComplete (hostImage : List Byte) (fetched : Bool) (s : State) : Host.Outcome State Fault Refusal :=
  if s.get fLdrStatus_state ≠ 1 || !s.imageReady 0 || s.uciRestarts then .next s
  else
    match s.fetchImage (s.flag fLdrCtrl_host) (64 * s.get fLdrAddr_addr) (s.get fLdrLen_len) hostImage
      (fetched && !s.sec.badReads.contains 0) with
    | (none, s) => .next (s.endLoad 0x0C 0)
    | (some img, s) => .next (s.loadCheck img)

/-! ## Commits through registers (R58 to R60) -/

/-- The shadow copy of a stitch-class field: what was last written to it, or the value in force. -/
def State.shadowOf (s : State) (f : Fld) : Nat := (mapGet none s.cfg.shadow f.key).getD (s.get f)

/-- The members of a group that a register commits. -/
def groupFields (g : Nat) : List Fld := if g = 17 then [fPwrCapSet_cap_w, fPwrFloorSet_floor_w] else ringFields (g - 18)

/-- A commit is pending in the group (R60). -/
def State.commitPending (s : State) (g : Nat) : Bool := s.cfg.accepted.any fun c => c.group == g

/-- The check of a commit begins, on a snapshot of the shadows. -/
def State.startCommit (s : State) (g : Nat) : State :=
  let c : Commit := { group := g, fields := (groupFields g).map fun f => (f.key, s.shadowOf f) }
  { s with cfg := { s.cfg with checks := s.cfg.checks ++ [c] } }

/-- CFG_COMMIT written (R60, R67): group 17 alone is committed so. -/
def State.cfgCommit (s : State) (v : Nat) : State :=
  if !v.testBit 8 then s
  else if v % 256 ≠ 17 || s.commitPending 17 then s.set fCfgStatus_commit_refused 1
  else s.startCommit 17

/-- CFG_COMMIT (R58). -/
def execCfgCommit (v : Word) (s : State) : Host.Outcome State Fault Refusal := .next (s.cfgCommit v.toNat)

/-- PART_COMMIT written in the view of partition `p`. -/
def State.partCommit (s : State) (p v : Nat) : State :=
  if !v.testBit 0 then s
  else if s.commitPending (18 + p) then s.set (fPartCfgStatus_commit_refused p) 1
  else s.startCommit (18 + p)

/-- PART_COMMIT (R58): writes to the view of a partition that is not defined are ignored (R310). -/
def execPartCommit (n : Fin 16) (v : Word) (s : State) : Host.Outcome State Fault Refusal :=
  match s.partOfFn (n.val + 1) with
  | none => .next s
  | some p => .next (s.partCommit p v.toNat)

/-- A field of a snapshot. -/
def Commit.val (c : Commit) (f : Fld) : Nat := ((c.fields.find? fun e => e.1 == f.key).map fun e => e.2).getD 0

/-- The rings as a commit of RING p would have them. -/
def Commit.rings (c : Commit) (p : Nat) : List RingView :=
  (List.range 16).flatMap fun k =>
    [⟨64 * c.val (fPartSqBase_base p k), c.val (fPartSqCfg_entries p k), 64, c.val (fPartSqCfg_enable p k) == 1⟩,
     ⟨64 * c.val (fPartCqBase_base p k), c.val (fPartCqCfg_entries p k), 32, c.val (fPartCqCfg_enable p k) == 1⟩]

/-- The check of a register's commit: accepted with its snapshot, or disagreed. -/
def State.checkGroup (s : State) (c : Commit) : State :=
  let g := c.group
  let p := g - 18
  if s.commitPending g then
    s.set (if g = 17 then fCfgStatus_commit_refused else fPartCfgStatus_commit_refused p) 1
  else
    let codes := if g = 17 then s.pwrChecks (c.val fPwrCapSet_cap_w) (c.val fPwrFloorSet_floor_w) else s.ringChecks p (c.rings p)
    match s.pick 0 codes with
    | (0, s) =>
      let s := { s with cfg := { s.cfg with accepted := s.cfg.accepted ++ [{ c with acceptedAt := s.clock.now }] } }
      if g = 17 then s.setAll [(fCfgStatus_pending, 1), (fCfgStatus_pending_group, 17)]
      else s.setAll [(fPartCfgStatus_pending p, 1), (fPartCfgStatus_pending_group p, g)]
    | (code, s) =>
      if g = 17 then
        (s.setAll [(fCfgStatus_disagree, 1), (fCfgStatus_disagree_group, 17), (fCfgStatus_check, code)]).fire 0 1
      else s.setAll [(fPartCfgStatus_disagree p, 1), (fPartCfgStatus_disagree_group p, g), (fPartCfgStatus_check p, code)]

/-- The check of the loader's commit (R54): a failure ends the load. CFG_STATUS does not show the loader's commits, groups 0 to 16:
LDR_STATUS does (DESIGN CHOICE, log entry 130). -/
def State.checkLast (s : State) (c : Commit) : State :=
  match s.ldr.staged with
  | none => s
  | some l =>
    match s.pick 0 (s.lastChecks l) with
    | (0, s) => { s with cfg := { s.cfg with accepted := s.cfg.accepted ++ [{ c with acceptedAt := s.clock.now }] } }
    | (code, s) => s.endLoad 0x0B code

/-- COMMIT_CHECK_DONE (R58): the check of the oldest commit completes, `after` ns after the latest event, within 1 µs. -/
def execCommitCheckDone (after : Nat) (s : State) : Host.Outcome State Fault Refusal :=
  match s.cfg.checks with
  | [] => .next s
  | c :: cs =>
    let s := { s with cfg := { s.cfg with checks := cs } }.advanceTo (s.clock.now + min 1000 after)
    .next (if c.viaLoader then s.checkLast c else s.checkGroup c)

end Sys2Proof.Machine
end

