-- ==== Sys2Proof/Machine/Life.lean ====
section
/-! DEFINITION. The end of a device recovery and of a life-cycle transition (R401, R477). -/

namespace Sys2Proof.Machine

/-- A partition leaves with the device last: a drain under way ends (R379), and the partition is UNDEFINED. -/
def State.dropPartition (s : State) (p : Nat) : State :=
  let draining := s.partState p == 4
  let s := ((s.dropOld p).resetEyelets p).resetPartFields p
  let s := if draining then (s.event 0x1D 0x0B (s.generation p) 0 (some p)).partEvent p (fPartEvent_torn_down p) else s
  ((s.forgetPart p).setPartSt p {}).set (fPartStatus_state p) 0

/-- The repair map without a ROUTES section: the soft repairs alone (R461). -/
def State.bareRepairs (s : State) : State :=
  (List.range 128).foldl (fun s row =>
    let d := row / 16
    let y := row % 16
    let x := mapGet 0 s.awl.softRows row
    s.setAll [(fMeshRepair_x d (y / 8) (y % 8), x - 1), (fMeshRepair_valid d (y / 8) (y % 8), if x = 0 then 0 else 1)]) s

/-- The device stands as before any device last (R56). A failed lane group stays failed (R189). -/
def State.dropDevice (s : State) : State :=
  let s := (List.range 16).foldl State.dropPartition s
  let s := { s with dev := none }
  let s := { s with lasts := [] }
  let s := { s with ldr := { s.ldr with staged := none, committed := false, secondHalf := [] } }
  let s := { s with mesh := { s.mesh with routes := {}, rewritten := [], unreachable := [] } }
  let s := { s with clock := { s.clock with missedRun := 0 } }
  let s := s.setAll [(fLdrSeqDevice_sequence, 0), (fStchPeriod_period_us, 10), (fStchSlack_slack_permille, 50),
    (fStchSource_source, 0), (fStchStatus_fallback, 0), (fPwrCapSet_cap_w, 5000), (fPwrFloorSet_floor_w, 100),
    (fPwrBudget_budget_w, 0), (fOutPtpStatus_locked, 0), (fOutPtpStatus_aligned, 0), (fOutPtpStatus_offset_ns, 0)]
  let s := (List.range 16).foldl (fun s k => s.set (fOutPortStatus_preempt (k / 2) (k % 2)) 0) s
  let s := (List.range 128).foldl (fun s i =>
    s.setAll [(fL3PartShare_way_share (i / 16) (i % 16), 0), (fL3PartShare_pin_share (i / 16) (i % 16), 0)]) s
  let s := (List.range 160).foldl (fun s i =>
    (if s.weltMode (i / 16) (i % 16) = 3 then s else s.setWeltMode (i / 16) (i % 16) 0).setWeltOwner (i / 16) (i % 16) 0) s
  (s.bareRepairs.setPower { s.power with sec := {}, firstStitch := false }).checkForced

/-- DEVICE_RECOVERY_DONE (R401, R407), `timeMs` after the start: not before the home of every line has reported that its
sweep is complete (R250). That of a life-cycle transition leaves the device as before any device last (R477). -/
def execDeviceRecoveryDone (timeMs : Nat) (s : State) : Host.Outcome State Fault Refusal :=
  if !s.flag fFltStatus_device_recovering || (List.range 8).any (fun d => s.flag (fDirStatus_sweep d)) then .next s
  else
    let s := s.setAll [(fFltStatus_device_recovering, 0), (fFltStatus_dies_recovering, 0)]
    let s := s.setFlt { s.flt with dieAt := [] }
    let s := (List.range 8).foldl (fun s d =>
      (s.reviveHalves d).toPrimary d) s
    let s := s.event 0x1D 0x11 timeMs 0
    let s := (List.range 8).foldl State.fenceWaiting s
    let s := if s.flt.goingOut then s.outOfService else s
    .next (if s.sec.transition.isSome then s.dropDevice else s)

/-- Every byte of DRAM, every tile store, every level-2 and level-3 frame and every eyelet is zeroed. -/
def State.zeroDevice (s : State) : State :=
  let s := s.dramZero 0 (8 * 2 ^ 38)
  let s := { s with tile := { s.tile with scratch := [] } }
  let s := { s with coh := { s.coh with l2 := [], l3 := [] } }
  { s with eyelets := [] }

/-- The fuses that a transition to state `lc` burns: the owner hash first, for TAKE_OWNERSHIP, and the state last. -/
def burnTransition (f : Fuses) (lc : Nat) (owner : List Byte) : Fuses :=
  let f := if lc = 2 then { f with ownerHash := owner, ownerBurned := true, ownerPartial := [] } else f
  { f with lc := lc }

/-- TRANSITION_COMPLETE (R477): not before the transition's device recovery has ended. -/
def execTransitionComplete (s : State) : Host.Outcome State Fault Refusal :=
  match s.sec.transition with
  | none => .next s
  | some lc =>
    if s.flag fFltStatus_device_recovering then .next s
    else
      let was := s.sec.fuses.lc
      let s := s.zeroDevice
      let s := s.setSec { s.sec with
        fuses := burnTransition s.sec.fuses lc s.sec.newOwner, transition := none, newOwner := [] }
      .next ((s.showSec.set fSecCmdStatus_busy 0).event 0x1C 0x80 was lc)

end Sys2Proof.Machine
end

