-- ==== Sys2Proof/Machine/Pins.lean ====
section
/-! DEFINITION. Power good, start-up, loss of power, the sideband's addressing (R419, R468, R471, R484 to R497). -/

namespace Sys2Proof.Machine

/-! ## Losing power -/

/-- The module without power: nothing but fuses, flash and the levels of its input pins outlives it. What the device has handed
out, the free values drawn and the commands that wait are the model's own (R492). -/
def State.unpowered (s : State) : State :=
  { State.reset with
    sec := { fuses := s.sec.fuses, flash := s.sec.flash, tapReset := s.sec.tapReset }
    pins := { brakeLow := s.pins.brakeLow }
    out := s.out
    lastRead := s.lastRead
    free := s.free
    pending := s.pending }

/-- Power is lost. During a TAKE_OWNERSHIP that is past its recovery, part of the owner hash may have been burned: which bits is
a free value (R478). -/
def State.losePower (s : State) : State :=
  let cut := s.sec.transition = some 2 && !s.flag fFltStatus_device_recovering && s.pins.powered
  let r := if cut then s.draw else (0, s)
  let f := r.2.sec.fuses
  let part := (s.sec.newOwner.zip (toLE 32 r.1)).map fun e => e.1 &&& e.2
  let merged := if f.ownerPartial.isEmpty then part else (f.ownerPartial.zip part).map fun e => e.1 ||| e.2
  let f := if cut && merged.any (· != 0#8) then { f with ownerPartial := merged } else f
  (r.2.setSec { r.2.sec with fuses := f }).unpowered

/-- POWER_LOSS (R419, R488): the input falls below 40 V. -/
def execPowerLoss (s : State) : Host.Outcome State Fault Refusal := .next s.losePower

/-- MRESET (R487): in every respect a loss of power. -/
def execMreset (s : State) : Host.Outcome State Fault Refusal := .next s.losePower

/-- THERMTRIP_SHUTDOWN (R493): the regulators turn off, and stay off until the input is cycled or MRESET_N held low. -/
def execThermtripShutdown (s : State) : Host.Outcome State Fault Refusal :=
  if s.flag fDevPins_thermtrip_driven then
    let s := s.losePower
    .next (s.setPins { s.pins with latchedOff := true })
  else .next s

/-! ## Power good (R468, R488) -/

/-- Provisioning, in BLANK: the vendor key hash, the identity key and the state VENDOR are fused. -/
def State.provision (s : State) : State :=
  if s.sec.fuses.lc ≠ 0 then s
  else s.setSec { s.sec with fuses := { s.sec.fuses with
    vendorHash := (List.range 32).map Config.vendorHash, identity := true, lc := 1 } }

/-- What die `d` reports of flash and fuses from the moment it can answer (R14, R296, R435, R462). -/
def State.recall (s : State) (d : Nat) : State :=
  let fl := s.sec.flash
  let used := (List.range 7168).foldl (fun n b => n + mapGet 0 fl.spareRows (d * 7168 + b)) 0
  s.setAll [(fPwrDieA_trim_mv d, mapGet 0 fl.trim d), (fPwrDieB_ageing_limit d, mapGet 0 fl.ageing d),
    (fDramPpr_candidates d, (fl.repairList.filter fun e => e.1 == d).length), (fDramPpr_spares_used d, used),
    (fAwlRepair_records d, (fl.soft.filter fun e => e.1 == d).length)]

/-- POWER_GOOD (R488): cold start-up begins. -/
def execPowerGood (straps : Fin 4) (s : State) : Host.Outcome State Fault Refusal :=
  if s.pins.powered || s.pins.latchedOff then .next s
  else
    let s := s.unpowered
    let s := s.setPins { s.pins with powered := true, straps := straps.val }
    let s := (List.range 8).foldl State.recall s.provision.showSec
    let s := s.setAll [(fDevPins_addr, straps.val), (fPwrStatus_brake, if s.pins.brakeLow then 1 else 0)]
    let s := s.newChallenge fSecChal_challenge
    .next ((s.sec.fuses.repairs.foldl (fun s e => s.applySoft e.1 e.2) s).checkForced)

/-! ## The stages of start-up (R494) -/

/-- REGULATORS_SEQUENCED: a regulator fault leaves the module OFF. -/
def execRegulatorsSequenced (ok : Bool) (s : State) : Host.Outcome State Fault Refusal :=
  if !s.atStage 1 then .next s
  else if ok then .next (s.setPins { s.pins with stage := 1 })
  else .next s.losePower

/-- FIRMWARE_VERIFIED (R471): the preferred bank runs, or else the other; with neither, start-up fails. -/
def execFirmwareVerified (aOk bOk : Bool) (timeMs : Nat) (s : State) : Host.Outcome State Fault Refusal :=
  if !s.atStage 2 then .next s
  else
    let s := s.advanceTo (timeMs * 1000000)
    let first := s.sec.flash.preferB
    let ok (b : Bool) : Bool := if b then bOk else aOk
    if !ok first && !ok (!first) then .next (s.startFail 2)
    else
      let bank := if ok first then first else !first
      let code (b : Bool) : Nat := if b then 1 else 0
      let s := s.setAll [(fSecFw_bank, code bank), (fSecFw_fallback, if ok first then 0 else 1),
        (fSecFw_running_version, s.bankVersion bank), (fDevStart_firmware_ms, min 65535 timeMs)]
      let s := (s.setPins { s.pins with stage := 2 }).showSec
      .next (if ok first then s else s.event 0x1C 0x84 (code bank) (code first))

/-- WELTS_TRAINED: the generator starts on the internal source. The soft repairs in flash have applied by then (R462). -/
def execWeltsTrained (ok : Bool) (s : State) : Host.Outcome State Fault Refusal :=
  if !s.atStage 4 then .next s
  else
    let s := s.sec.flash.soft.foldl (fun s e => s.applySoft e.1 e.2) s
    if !ok then .next (s.startFail 4)
    else .next ({ s with clock := { s.clock with running := true } }.setPins { s.pins with stage := 4 })

/-- The lowest spare row of a bank that no repair uses and that is usable. -/
def State.freeSpare (s : State) (bank : Nat) : Option Nat :=
  (List.range 2).find? fun n => !s.sec.flash.unusable.contains (bank * 2 ^ 16 + n) &&
    !s.sec.flash.spareMap.any fun e => candidateBank (e.1 / 2 ^ 27, e.1 % 2 ^ 27) == bank && e.2 == n + 1

/-- Post-package repair of one candidate (R296): a spare row of its bank stands for the row-frame from now on. `spareMap` holds it
as die * 2^27 + channel * 2^21 + row-frame, and the spare plus one. -/
def State.repairCandidate (s : State) (e : Nat × Nat) : State :=
  let fl := s.sec.flash
  let b := candidateBank e
  if s.sparesLeft b = 0 then s
  else
    let s := { s with sec := { s.sec with flash := { fl with
      repairList := fl.repairList.erase e, spareRows := mapSet 0 fl.spareRows b (mapGet 0 fl.spareRows b + 1)
      spareMap := mapSet 0 fl.spareMap (e.1 * 2 ^ 27 + e.2) ((s.freeSpare b).getD 0 + 1) } } }
    (s.set (fDramPpr_spares_used e.1) (s.get (fDramPpr_spares_used e.1) + 1)).addTo (fDramPpr_repaired_at_boot e.1) 1

/-- DRAM_INITIALISED: post-package repair has run, but in ENDED; the UCIe modules begin to train (R303). -/
def execDramInitialised (ok : Bool) (timeMs : Nat) (s : State) : Host.Outcome State Fault Refusal :=
  if !s.atStage 5 then .next s
  else
    let s := s.advanceTo (timeMs * 1000000)
    let s := if s.sec.fuses.lc = 4 then s else s.sec.flash.repairList.foldl State.repairCandidate s
    let s := (List.range 8).foldl State.showPpr s
    if !ok then .next (s.startFail 5)
    else .next (((s.set fDevStart_dram_ms (min 65535 timeMs)).setPins { s.pins with stage := 5 }).trainAll)

/-- READY_RISE: the functions answer, and start-up is complete. -/
def execReadyRise (timeMs : Nat) (s : State) : Host.Outcome State Fault Refusal :=
  if !s.atStage 7 then .next s
  else .next (((s.advanceTo (timeMs * 1000000)).set fDevStart_ready_ms (min 65535 timeMs)).setPins { s.pins with stage := 7 })

/-! ## What the pins show (R486, R492) -/

/-- READY is driven high: start-up is complete, the device is in service, not ENDED or TRIPPED, and the host link is up. -/
def State.ready (s : State) : Bool :=
  s.pins.stage == 7 && !s.flag fFltStatus_out_of_service && s.sec.fuses.lc != 4 && s.linkUp &&
    !s.flag fDevPins_thermtrip_driven

/-! ## The sideband's address (R489) -/

/-- The target acknowledges its address: the firmware has been accepted, and CD0 is not in die recovery. -/
def State.sidebandOpen (s : State) : Bool := s.pins.powered && 2 ≤ s.pins.stage && !s.recovering 0

/-- SETDASA: the dynamic address is assigned from the static address 0x58 + 2 SB_ADDR1 + SB_ADDR0. -/
def execSetdasa (addr : Nat) (s : State) : Host.Outcome State Fault Refusal :=
  .next (if s.sidebandOpen then s.setUci { s.uci with dynAddr := addr % 128 } else s)

/-- ENTDAA: assigns a dynamic address to a target that has none. -/
def execEntdaa (addr : Nat) (s : State) : Host.Outcome State Fault Refusal :=
  .next (if s.sidebandOpen && s.uci.dynAddr = 0 then s.setUci { s.uci with dynAddr := addr % 128 } else s)

/-- ENEC: in-band interrupts are enabled (R490). -/
def execEnec (s : State) : Host.Outcome State Fault Refusal :=
  .next (if s.sidebandOpen then s.setUci { s.uci with ibi := true } else s)

end Sys2Proof.Machine
end

