-- ==== Sys2Proof/Machine/Operands.lean ====
section
/-! DEFINITION. The operands of a register access: the function, the offset and the width, and what they lead to (R8, R19 to R23,
R281, R310, R311). -/

namespace Sys2Proof.Machine

/-- The function of a map: physical function 0, virtual function `n + 1` (R310). -/
def spaceFn : Space → Nat
  | .pf => 0
  | .vf n => n.val + 1

/-- Bytes of the BAR0 of a function (R310). -/
def barSize : Space → Nat
  | .pf => 2 ^ 28
  | .vf _ => 2 ^ 24

/-- The place in the MSI-X table of a function, or in its pending-bit array 0x1000 above it (R21, R311, R323). -/
def msixOff (sp : Space) (off : Nat) : Option Nat :=
  match sp with
  | .pf => if 0x480000 ≤ off && off < 0x482000 then some (off - 0x480000) else none
  | .vf _ => if 0x200000 ≤ off && off < 0x300000 then some (off - 0x200000) else none

/-- Table entries of 16 bytes, or the 64 pending bits. -/
def msixHolds (fn o width : Nat) : Bool :=
  o + width ≤ 16 * vectorCount fn || (0x1000 ≤ o && o + width ≤ 0x1008)

/-- The site whose TILE window holds an offset of the management space, as a device site ID (R20). -/
def windowOf (off : Nat) : Option Nat :=
  match spaceOf off with
  | (.die, d, o) => if 0x100000 ≤ o && o < 0x210000 then some (d * 272 + (o - 0x100000) / 0x1000) else none
  | _ => none

/-- The TILE window of a site whose own tile is not a pool tile (R23). -/
def State.deadWindow (s : State) (off : Nat) : Bool :=
  match windowOf off with
  | some t => (s.serves t).isNone
  | none => false

/-- A register stands at address `a`; an eyelet that the partition does not hold has none (R22, R281). -/
def State.assigned (s : State) (a : Nat) : Bool :=
  match spaceOf a with
  | (.view, p, o) =>
    if 0x100000 ≤ o && o < 0x200000 then (s.eyeletOf p ((o - 0x100000) / 16)).isSome
    else !(rowsAt a).isEmpty
  | _ => !(rowsAt a).isEmpty

/-- What an access meets: `narrow` one that R8 completes, `odd` one of a width or alignment that an MSI-X table does not take,
`silent` a window or view that reads as 0, `unassigned` an offset without a register (R22), an MSI-X table, a register. -/
inductive Target where
  | narrow
  | odd
  | silent
  | unassigned
  | msix (o : Nat)
  | reg (a : Nat)
deriving DecidableEq, Repr

/-- Where an aligned 64-bit access leads outside the MSI-X tables. -/
def State.regTarget (s : State) (sp : Space) (off : Nat) : Target :=
  match sp with
  | .pf =>
    if s.deadWindow off then .silent
    else if off < barSize sp && s.assigned off then .reg off
    else .unassigned
  | .vf n =>
    match s.partOfFn (n.val + 1) with
    | none => if off < barSize sp then .silent else .unassigned
    | some p =>
      let a := 2 ^ 32 + p * 2 ^ 24 + off
      if off < barSize sp && s.assigned a then .reg a else .unassigned

/-- What an access of `width` bytes leads to. -/
def State.target (s : State) (sp : Space) (off width : Nat) : Target :=
  match msixOff sp off with
  | some o =>
    if msixHolds (spaceFn sp) o width then
      (if (width = 4 || width = 8) && off % width = 0 then .msix o else .odd)
    else if width = 8 && off % 8 = 0 then s.regTarget sp off
    else .narrow
  | none => if width ≠ 8 || off % 8 ≠ 0 then .narrow else s.regTarget sp off

/-- All ones at a width in bytes (R8). -/
def allOnes (width : Nat) : Nat := 2 ^ (8 * width) - 1

end Sys2Proof.Machine
end

