-- ==== Sys2Proof/Machine/Flags.lean ====
section
/-! DEFINITION. The status fields that report a property of the device or a condition that it tracks (R14): they are worked out
when they are read. Every other field reads what the register file holds. -/

namespace Sys2Proof.Machine

/-! ## Frames and lines -/

/-- The frames that lines of level 3 occupy on a die, each as (slice * 256 + set) * 16 + way. -/
def l3Frames (ls : List L3Line) : List Nat :=
  (ls.flatMap fun l => (l3Sets l.line l.bulk).map fun x => (channelOf l.line * 256 + x) * 16 + l.way).eraseDups

def State.l3Of (s : State) (d : Nat) : List L3Line := s.coh.l3.filter fun l => dpaDie l.line == d

/-- The largest number of the frames in any one set. -/
def maxInSet (frames : List Nat) : Nat :=
  (frames.map fun f => (frames.filter fun g => g / 16 == f / 16).length).foldl max 0

/-- Frames of slice `i` of die `d` that hold two or more fine lines. -/
def sharedFrames (ls : List L3Line) : Nat :=
  ((l3Frames ls).filter fun f =>
    1 < (ls.filter fun l => !l.bulk && (l3Frames [l]).contains f).length).length

/-- The frames that lines of half `h` occupy, each as set * 16 + way. -/
def State.l2Frames (s : State) (h : Nat) : List Nat :=
  ((s.coh.l2.filter fun l => l.half == h).flatMap fun l =>
    (l2Sets l.line l.bulk l.spill).map fun x => x * 16 + l.way).eraseDups

def State.dirOf (s : State) (d : Nat) : List DirEnt := s.coh.dir.filter fun e => dpaDie e.line == d

/-! ## Tiles and eyelets -/

/-- The partition to which the device last in force gives tile `t` (R93). -/
def State.assignedTo (s : State) (t : Nat) : Option Nat :=
  match s.dev, s.serves t with
  | some l, some w => (List.range 16).find? fun p => l.defined.testBit p && entryHasSite (l.parts.getD p []) w
  | _, _ => none

/-- The site that a spare-column tile replaces (R17). -/
def State.replaces (s : State) (t : Nat) : Option Nat :=
  if siteX (tileSite t) = 16 then (s.serves t).map tileSite else none

def State.groupsLive (s : State) (t : Nat) : Nat := ((s.tileAt t).groups.filter fun e => e.2.live != 0).length

/-- Waits pending on the eyelets of die `d` (R282). -/
def State.waitsOn (s : State) (d : Nat) : Nat :=
  (s.tile.tiles.flatMap fun e => e.2.groups.flatMap fun g => g.2.paths.filter fun x =>
    match x.state with
    | .eyeWait eye _ _ => eye / 32768 == d
    | _ => false).length

/-! ## Scrub, recovery and throttling -/

/-- The channel whose scrub DRAM_SCRUB reports, where they differ. -/
def scrubChannel (d : Nat) : Nat := d * 64 + Config.scrubChannel d % 64

/-- Row-frames that the scrub of channel `c` has read since cold power-up. -/
def State.scrubReads (s : State) (c : Nat) : Nat := s.dram.scrubWindows - mapGet 0 s.dram.scrubMissed c

/-- Counted recoveries in the latest 600 s, of the three that are kept (R406). -/
def State.recentRecoveries (s : State) : Nat :=
  ((List.range 3).filter fun n =>
    let t := s.get (fFltEscT_ms n)
    t != 0 && decide (s.nowMs ≤ t + 600000)).length

/-- The time of reason `r`, with what it has been active now. -/
def State.throttleUs (s : State) (r : Nat) : Nat :=
  s.get (fPwrThrUs_us r) + (if (s.get fPwrThrottle_active).testBit r then s.reasonUs r else 0)

/-- 1 for a condition that holds. -/
def bitOf (b : Bool) : Nat := if b then 1 else 0

/-! ## The fields -/

/-- A field that is worked out: its register, its low bit, its value by die space or partition and instance. -/
structure Report where
  kind : RegKind
  lo : Nat
  value : Nat → Nat → Nat

/-- Tile and mesh. -/
def State.tileReports (s : State) : List Report :=
  let tile (f : Nat → Nat) : Nat → Nat → Nat := fun d i => f (d * 272 + i)
  [⟨kTileId, 0, fun d _ => d⟩, ⟨kTileId, 4, fun _ i => siteX i⟩, ⟨kTileId, 9, fun _ i => siteY i⟩, ⟨kTileId, 13, fun _ i => i⟩,
   ⟨kTileId, 22, tile id⟩, ⟨kTileId, 34, tile fun t => bitOf (s.replaces t).isSome⟩,
   ⟨kTileId, 35, tile fun t => (s.replaces t).getD 0⟩,
   ⟨kTileState, 0, tile s.tileCode⟩, ⟨kTileState, 4, tile fun t => (s.ownerOf t).getD 0⟩,
   ⟨kTileState, 8, tile fun t => bitOf (s.assignedTo t).isSome⟩, ⟨kTileState, 9, tile s.groupsLive⟩,
   ⟨kMeshSlots, 0, fun _ _ => s.slots⟩, ⟨kMeshDist, 0, s.distReg⟩, ⟨kLaceDelay, 0, fun d _ => Config.laceDelay d (s.get (fLaceStatus_parent d))⟩,
   ⟨kWeltId, 0, fun d e => bitOf (weltAt d e).isSome⟩, ⟨kWeltId, 1, fun d e => (weltAt d e).getD 0⟩,
   ⟨kWeltId, 5, fun d e => match weltAt d e with | some w => farDie w d | none => 0⟩,
   ⟨kWeltLace, 0, fun d e => if (weltAt d e).isNone then 0 else
      ((List.range 2).filter fun k => !s.awl.swapping.any fun x => x.1 == laceKey d e && x.2.1 == k).foldl setBit 0⟩]

/-- Caches, directories, eyelets and DRAM. -/
def State.memoryReports (s : State) : List Report :=
  let sl (d i : Nat) : List L3Line := (s.l3Of d).filter fun l => channelOf l.line == i
  let own (d p : Nat) : List L3Line := (s.l3Of d).filter fun l => l.owner == p
  let pins (ls : List L3Line) : List Nat := l3Frames (ls.filter fun l => l.pinned)
  let eye (p i : Nat) : Eyelet := match s.eyeletOf p i with | some e => s.eye e | none => {}
  [⟨kL2Occ, 0, fun d w => (s.l2Frames (2 * d + w)).length⟩,
   ⟨kL3PinStatus, 0, fun d _ => (pins (s.l3Of d)).length⟩, ⟨kL3PinStatus, 32, fun d _ => maxInSet (pins (s.l3Of d))⟩,
   ⟨kL3PinStatus, 40, fun d _ => (l3Frames ((s.l3Of d).filter fun l => l.held)).length⟩,
   ⟨kL3PartOcc, 0, fun d p => (l3Frames (own d p)).length⟩, ⟨kL3PartOcc, 32, fun d p => (pins (own d p)).length⟩,
   ⟨kL3SlOcc, 0, fun d i => (l3Frames (sl d i)).length⟩, ⟨kL3SlOcc, 16, fun d i => sharedFrames (sl d i)⟩,
   ⟨kL3SlOcc, 32, fun d i => (l3Frames ((sl d i).filter fun l => l.bulk)).length⟩,
   ⟨kDirOcc, 0, fun d _ => (s.dirOf d).length⟩,
   ⟨kDirOcc, 32, fun d _ => ((s.dirOf d).filter fun e => e.state == .c || e.state == .f).length⟩,
   ⟨kEyeVal, 0, fun p i => (eye p i).count⟩, ⟨kEyeVal, 63, fun p i => bitOf (eye p i).void⟩,
   ⟨kEyeStatus, 0, fun d _ => s.waitsOn d⟩,
   ⟨kDramScrub, 0, fun d _ => s.scrubReads (scrubChannel d) % rowFrames⟩,
   ⟨kDramScrub, 32, fun d _ => min 65535 (s.scrubReads (scrubChannel d) / rowFrames)⟩,
   ⟨kAwlScrub, 0, fun d _ => ((List.range 64).map fun c => mapGet 0 s.dram.scrubDeferred (d * 64 + c)).foldl max 0⟩,
   ⟨kAwlPos, 16, population⟩]

/-- What the module as a whole reports. -/
def State.moduleReports (s : State) : List Report :=
  let since := if s.stitch = 0 then 0 else s.clock.now - s.clock.tickAt
  [⟨kStchPhase, 0, fun _ _ => since⟩, ⟨kStchPhase, 24, fun _ _ => if s.stitch = 0 then 0 else s.clock.milliCycles / 1000⟩,
   ⟨kUciStatus, 9, fun _ _ => bitOf ((s.get (fDirStatus_dead_mask 0)).testBit 16)⟩,
   ⟨kPmSaveLen, 0, fun _ p => s.saveLen p⟩,
   ⟨kFltStatus, 11, fun _ _ => s.coordinator.getD Config.coordinator⟩, ⟨kFltEsc, 0, fun _ _ => s.recentRecoveries⟩,
   ⟨kPwrThrUs, 0, fun _ r => s.throttleUs r⟩,
   ⟨kSecSerial, 0, fun _ _ => serial⟩,
   ⟨kDevPins, 0, fun _ _ => bitOf (!s.flag fPwrStatus_brake)⟩, ⟨kDevPins, 6, fun _ _ => bitOf s.ready⟩]

def State.reports (s : State) : List Report := s.moduleReports ++ s.tileReports ++ s.memoryReports

/-- The value of the field at address `a`, low bit `lo`, `width` bits. -/
def State.fieldValue (s : State) (a lo width : Nat) : Nat :=
  let r := s.reports.findSome? fun r =>
    if r.lo = lo then (r.kind.instAt a).map fun i => r.value (spaceOf a).2.1 i else none
  match r with
  | some v => v % 2 ^ width
  | none => s.get ⟨a, lo, width⟩

end Sys2Proof.Machine
end

