-- ==== Sys2Proof/Machine/Registers.lean ====
section
/-! DEFINITION. Reads and writes of registers by the host and by the sideband (R7 to R11, R22, R281, R311, R490). -/

namespace Sys2Proof.Machine

/-! ## Reading -/

/-- A row's contribution to a read of the register at `a`: WO fields read 0 (R10). -/
def State.rowValue (s : State) (a : Nat) (r : FieldRow) : Nat :=
  if r.acc = .wo then 0
  else (r.los.map fun lo => s.fieldValue a lo r.width * 2 ^ lo).foldl (· + ·) 0

/-- The register at address `a`: bits that no row names read 0 (R9). -/
def State.readReg (s : State) (a : Nat) : Nat := ((rowsAt a).map (s.rowValue a)).foldl (· + ·) 0

/-- A double word of a function's MSI-X table or pending-bit array. -/
def State.msixRead (s : State) (fn o : Nat) : Nat :=
  if o < 0x1000 then
    let v := s.vector fn (o / 16)
    match o / 4 % 4 with
    | 0 => v.addrLo
    | 1 => v.addrHi
    | 2 => v.data
    | _ => bitOf v.masked
  else if o = 0x1000 then ((List.range (vectorCount fn)).filter fun k => (s.vector fn k).pending).foldl setBit 0
  else 0

/-- BAD_ACCESS (R8, R22, R498): `src` is the UCI block for an access through a BAR, CD0 for one through the sideband. -/
def State.badAccess (s : State) (src : Nat) (sp : Space) (off width : Nat) : State :=
  s.event src 0x01 off (spaceFn sp + 256 * width)

/-- A read: what it returns, whether it was a bad access, and the state after it. -/
def State.read (s : State) (src : Nat) (sp : Space) (off width : Nat) : Nat × Bool × State :=
  match s.target sp off width with
  | .narrow => (allOnes width, true, s.badAccess src sp off width)
  | .odd => let r := s.draw; (r.1 % 2 ^ (8 * width), false, r.2)
  | .silent => (0, false, s)
  | .unassigned => (0, true, s.badAccess src sp off width)
  | .msix o =>
    let lo := s.msixRead (spaceFn sp) o
    (if width = 8 then lo + 2 ^ 32 * s.msixRead (spaceFn sp) (o + 4) else lo, false, s)
  | .reg a => (s.readReg a, false, s)

/-! ## Writing fields (R10, R11) -/

/-- The block of a static field runs: the loader, a life-cycle command, a stage of firmware, a return to
service, a migration. -/
def State.blockRuns (s : State) (a : Nat) : Bool :=
  if a = kLdrAddr.addr 0 0 || a = kLdrLen.addr 0 0 || a = kLdrCtrl.addr 0 0 then !s.loaderIdle
  else if a = kSecCmdAddr.addr 0 0 || a = kSecCmdCtrl.addr 0 0 then s.flag fSecCmdStatus_busy
  else if a = kSecFwAddr.addr 0 0 || a = kSecFwLen.addr 0 0 || a = kSecFwCtrl.addr 0 0 then s.flag fSecFw_busy
  else if a = kFltRtsAddr.addr 0 0 || a = kFltRtsCtrl.addr 0 0 then s.flag fFltRtsStatus_busy
  else match kPmSave.instAt a with
    | some p => s.get (fPmStatus_phase p) != 0 && s.get (fPmStatus_phase p) != 3
    | none => false

/-- The shadow copy of a stitch-class field is written. -/
def State.setShadow (s : State) (f : Fld) (v : Nat) : State :=
  { s with cfg := { s.cfg with shadow := mapSet none s.cfg.shadow f.key (some (v % 2 ^ f.width)) } }

/-- A write of `x` to one field, by its access type and class. -/
def State.writeField (s : State) (r : FieldRow) (f : Fld) (x : Nat) : State :=
  match r.acc, r.cls with
  | .ro, _ => s
  | .wo, _ => s
  | .w1c, _ => s.set f (s.get f - (s.get f &&& x))
  | .rw, .live => s.set f x
  | .rw, .stitch => s.setShadow f x
  | .rw, .static => if s.blockRuns f.addr then s.busyWrite f.addr else s.set f x

/-- A write of `v` to every field of the register at `a`. -/
def State.writeFields (s : State) (a v : Nat) : State :=
  (rowsAt a).foldl (fun s r =>
    r.los.foldl (fun s lo => s.writeField r ⟨a, lo, r.width⟩ (bitsAt v lo r.width)) s) s

/-! ## Registers that act as a whole -/

/-- EYE_CTLn of partition `p`: adds to the count, or sets it and clears void (R281). -/
def State.eyeCtl (s : State) (p i v : Nat) : State :=
  match s.eyeletOf p i with
  | none => s
  | some e => if v.testBit 63 then s.setEye e ⟨v % 2 ^ 63, false⟩ else s.eyeCount e (v % 2 ^ 63)

/-- TILE_CNT_CTRL.clear (R93). -/
def State.clearTile (s : State) (d i : Nat) : State :=
  s.setAll [(fTileCntIssue_count d i, 0), (fTileCntSteps_count d i, 0), (fTileCntRotate_count d i, 0),
    (fTileCntPark_count d i, 0), (fTileCntBarrier_count d i, 0)]

/-- EYE_CNT_CTRL.clear (R282). -/
def State.clearEye (s : State) (d : Nat) : State :=
  s.setAll [(fEyeCntArrive_count d, 0), (fEyeCntOk_count d, 0), (fEyeCntVoid_count d, 0)]

/-- FLT_REC_TAIL and FLT_EV_TAIL (R409, R413). -/
def State.recTail (s : State) (v : Nat) : State := s.consume fFltRecHead_count fFltRecTail_count fFltRecStatus_full 1024 v
def State.evTail (s : State) (v : Nat) : State := s.consume fFltEvHead_count fFltEvTail_count fFltEvStatus_full 8192 v

/-- What the command image of a write that carries none holds: the host's memory is free, and so is whether its reads succeed. -/
def State.unseenImage (s : State) (host : Bool) (len : Nat) : List Byte × Bool × State :=
  if !host then ([], true, s)
  else let a := s.draw; let b := a.2.draw; (toLE len a.1, b.1 % 2 == 1, b.2)

/-- A register that has actions: what a write of `v` does, by die space or partition and instance. `whole` registers have no field
beside what the action writes. -/
structure Action where
  kind : RegKind
  whole : Bool
  act : State → Nat → Nat → Nat → State

/-- The action of a WO bit 0. -/
def onBit0 (k : RegKind) (f : State → Nat → Nat → State) : Action :=
  ⟨k, false, fun s d i v => if v.testBit 0 then f s d i else s⟩

def actions : List Action := [
  onBit0 kStchCtrl fun s _ _ => s.rearm,
  ⟨kLdrCtrl, true, fun s _ _ v => s.loaderControl v⟩,
  ⟨kCfgCommit, true, fun s _ _ v => s.cfgCommit v⟩,
  ⟨kPartCommit, true, fun s p _ v => s.partCommit p v⟩,
  onBit0 kTileCntCtrl State.clearTile,
  onBit0 kMeshCntCtrl fun s d _ => s.clearMesh d,
  onBit0 kWeltCntCtrl State.clearWelt,
  onBit0 kL2CntCtrl State.clearL2,
  onBit0 kL3CntCtrl fun s d _ => s.clearL3 d,
  ⟨kDirPeekCtrl, true, fun s d _ v => s.dirPeek d v⟩,
  ⟨kDirLostTail, true, fun s d _ v => s.consume (fDirLostHead_count d) (fDirLostTail_count d) (fDirLostStatus_full d) 4096 v⟩,
  onBit0 kDirCntCtrl fun s d _ => s.clearDir d,
  ⟨kEyeCtl, true, fun s p i v => s.eyeCtl p i v⟩,
  onBit0 kEyeCntCtrl fun s d _ => s.clearEye d,
  onBit0 kDramCntCtrl fun s d _ => s.clearDram d,
  onBit0 kUciCntCtrl fun s _ _ => s.clearUci,
  onBit0 kPartSqCtrl State.resumeSq,
  onBit0 kOutPortCntCtrl State.clearPort,
  ⟨kOutQpPeekCtrl, true, fun s _ _ v => s.qpPeek v⟩,
  onBit0 kOutJobCntCtrl fun s _ _ => s.clearJob,
  onBit0 kPartAccCtrl fun s p _ => s.clearAcc p,
  ⟨kPmCtrl, true, fun s _ p v => s.pmControl p v⟩,
  ⟨kFltRecTail, true, fun s _ _ v => s.recTail v⟩,
  ⟨kFltEvTail, true, fun s _ _ v => s.evTail v⟩,
  onBit0 kFltRtsCtrl fun s _ _ =>
    let r := s.unseenImage (s.flag fFltRtsCtrl_host) 1280
    r.2.2.rtsGo r.1 r.2.1,
  onBit0 kPwrCntCtrl fun s _ _ => s.clearPwr,
  ⟨kPwrLabelCtrl, true, fun s _ _ v => s.labelPeek v⟩,
  onBit0 kAwlFuse fun s d _ => s.fuseGo d,
  onBit0 kAwlCntCtrl fun s d _ => s.clearAwl d,
  onBit0 kSecCmdCtrl fun s _ _ =>
    let r := s.unseenImage (s.flag fSecCmdCtrl_host) 1280
    r.2.2.lifeCommand none r.1 r.2.1,
  onBit0 kSecFwCtrl fun s _ _ =>
    let r := s.unseenImage (s.flag fSecFwCtrl_host) (s.get fSecFwLen_len)
    r.2.2.fwStage r.1 r.2.1]

/-- A naturally aligned 64-bit write of `v` to the register at address `a`: its fields, then its action. -/
def State.writeReg (s : State) (a v : Nat) : State :=
  match actions.findSome? fun x => (x.kind.instAt a).map fun i => (x, i) with
  | some (x, i) => x.act (if x.whole then s else s.writeFields a v) (spaceOf a).2.1 i v
  | none => s.writeFields a v

/-- A double word of a function's MSI-X table is written: clearing the mask bit unmasks the vector (R321). Pending bits are not
written. -/
def State.msixWrite (s : State) (fn o v : Nat) : State :=
  if 0x1000 ≤ o then s
  else
    let k := o / 16
    let x := s.vector fn k
    match o / 4 % 4 with
    | 0 => s.setVector fn k { x with addrLo := v }
    | 1 => s.setVector fn k { x with addrHi := v }
    | 2 => s.setVector fn k { x with data := v }
    | _ => if v.testBit 0 then s.setVector fn k { x with masked := true }
      else if x.masked then s.unmask fn k else s

/-- A write: whether it was a bad access, and the state after it. -/
def State.write (s : State) (src : Nat) (sp : Space) (off width v : Nat) : Bool × State :=
  match s.target sp off width with
  | .narrow => (true, s.badAccess src sp off width)
  | .odd => (false, s)
  | .silent => (false, s)
  | .unassigned => (true, s.badAccess src sp off width)
  | .msix o =>
    let s := s.msixWrite (spaceFn sp) o (v % 2 ^ 32)
    (false, if width = 8 then s.msixWrite (spaceFn sp) (o + 4) (v / 2 ^ 32 % 2 ^ 32) else s)
  | .reg a => (false, s.writeReg a v)

/-! ## Accesses through a BAR -/

/-- An access of the host through the BAR of a function: a read leaves what it returned in `lastRead`. -/
def State.barAccess (s : State) (sp : Space) (off width : Nat) (write : Bool) (v : Nat) : State :=
  if write then (s.write 0x18 sp off width v).2
  else let r := s.read 0x18 sp off width; { r.2.2 with lastRead := r.1 }

/-- REGISTER_WRITE (R10, R11). -/
def execRegisterWrite (sp : Space) (off : Nat) (v : Word) (s : State) : Host.Outcome State Fault Refusal :=
  .next (s.barAccess sp off 8 true v.toNat)

/-- NARROW_ACCESS (R8, R311). -/
def execNarrowAccess (sp : Space) (off : Nat) (width : Nat) (write : Bool) (v : Word) (s : State) :
    Host.Outcome State Fault Refusal :=
  .next (s.barAccess sp off width write v.toNat)

/-- UNASSIGNED_ACCESS (R22): a naturally aligned 64-bit access. The value of a write is nowhere stored. -/
def execUnassignedAccess (sp : Space) (off : Nat) (write : Bool) (s : State) : Host.Outcome State Fault Refusal :=
  .next (if s.target sp off 8 = .unassigned then s.barAccess sp off 8 write 0 else s)

/-! ## Rows of their own -/

/-- TILE_CNT_CLEAR (R93): the window of a site whose tile is no pool tile ignores writes (R23). -/
def execTileCntClear (t : TileId) (s : State) : Host.Outcome State Fault Refusal :=
  .next (if (s.serves t).isNone then s else s.clearTile (tileDie t) (tileSite t))

/-- EYE_CNT_CLEAR (R282). -/
def execEyeCntClear (d : Die) (s : State) : Host.Outcome State Fault Refusal := .next (s.clearEye d)

/-- The BAR0 offset of EYE_CTLn in a partition view (R281). -/
def eyeCtlOff (index : Nat) : Nat := 0x100008 + 16 * (index % 65536)

/-- EYE_CTL_ADD (R281): bit 63 of the value is 0. -/
def execEyeCtlAdd (n : Fin 16) (index : Nat) (v : Word) (s : State) : Host.Outcome State Fault Refusal :=
  .next (s.barAccess (.vf n) (eyeCtlOff index) 8 true (v.toNat % 2 ^ 63))

/-- EYE_CTL_ARM (R281): bit 63 of the value is 1. -/
def execEyeCtlArm (n : Fin 16) (index : Nat) (v : Word) (s : State) : Host.Outcome State Fault Refusal :=
  .next (s.barAccess (.vf n) (eyeCtlOff index) 8 true (v.toNat % 2 ^ 63 + 2 ^ 63))

/-- REC_TAIL_WRITE (R409). -/
def execRecTailWrite (v : Word) (s : State) : Host.Outcome State Fault Refusal := .next (s.recTail v.toNat)

/-- EV_TAIL_WRITE (R413). -/
def execEvTailWrite (v : Word) (s : State) : Host.Outcome State Fault Refusal := .next (s.evTail v.toNat)

/-! ## The sideband (R490) -/

/-- What a private read returns after a register access: eight data bytes and the status, 0 OK or 2 BAD. -/
def State.sidebandReply (s : State) (v : Nat) (bad : Bool) : State := s.emit (.sideband (toLE 8 v ++ [if bad then 2#8 else 0#8]))

/-- SB_READ (R490): an access of the physical function's management space. -/
def execSbRead (off : Nat) (s : State) : Host.Outcome State Fault Refusal :=
  if !s.sidebandOpen then .next s
  else
    let r := s.read 0x00 .pf (off % 2 ^ 32) 8
    .next (r.2.2.sidebandReply r.1 r.2.1)

/-- SB_WRITE (R490): the data bytes of the private read that follows a write are free values. -/
def execSbWrite (off : Nat) (v : Word) (s : State) : Host.Outcome State Fault Refusal :=
  if !s.sidebandOpen then .next s
  else
    let r := s.write 0x00 .pf (off % 2 ^ 32) 8 v.toNat
    let x := r.2.draw
    .next (x.2.sidebandReply x.1 r.1)

end Sys2Proof.Machine
end

