-- ==== Sys2Proof/Machine/Dispatch.lean ====
section
/-! DEFINITION. One arm for each command: what a command does to everything but the queue. -/

namespace Sys2Proof.Machine

/-- The effect of a command (one arm for each row of spec/opcode_table.json). -/
def exec (i : Instr) (s : State) : Host.Outcome State Fault Refusal :=
  match i with
  | .registerWrite sp off v => Sys2Proof.Machine.execRegisterWrite sp off v s
  | .narrowAccess sp off width write v => Sys2Proof.Machine.execNarrowAccess sp off width write v s
  | .unassignedAccess sp off write => Sys2Proof.Machine.execUnassignedAccess sp off write s
  | .tick => Sys2Proof.Machine.execTick s
  | .jobAlignedTick k => Sys2Proof.Machine.execJobAlignedTick k s
  | .laceTickInEdge at_ => Sys2Proof.Machine.execLaceTickInEdge at_ s
  | .missedEdge => Sys2Proof.Machine.execMissedEdge s
  | .rearm => Sys2Proof.Machine.execRearm s
  | .tickArrival d => Sys2Proof.Machine.execTickArrival d s
  | .issuePoint => Sys2Proof.Machine.execIssuePoint s
  | .slackWindowOpen found => Sys2Proof.Machine.execSlackWindowOpen found s
  | .ldrStart v => Sys2Proof.Machine.execLdrStart v s
  | .ldrApply v => Sys2Proof.Machine.execLdrApply v s
  | .ldrAbort v => Sys2Proof.Machine.execLdrAbort v s
  | .loadComplete hostImage fetched => Sys2Proof.Machine.execLoadComplete hostImage fetched s
  | .cfgCommit v => Sys2Proof.Machine.execCfgCommit v s
  | .partCommit n v => Sys2Proof.Machine.execPartCommit n v s
  | .commitCheckDone after => Sys2Proof.Machine.execCommitCheckDone after s
  | .branch t g taken target reconv => Sys2Proof.Machine.execBranch t g taken target reconv s
  | .pathRotate t g => Sys2Proof.Machine.execPathRotate t g s
  | .exit t g lanes => Sys2Proof.Machine.execExit t g lanes s
  | .endInstruction t => Sys2Proof.Machine.execEndInstruction t s
  | .stepEnd task endNs => Sys2Proof.Machine.execStepEnd task endNs s
  | .phaseByteWrite p cq index => Sys2Proof.Machine.execPhaseByteWrite p cq index s
  | .barrier t g lanes kind n => Sys2Proof.Machine.execBarrier t g lanes kind n s
  | .casLockHint t g ty ops => Sys2Proof.Machine.execCasLockHint t g ty ops s
  | .parkTimeout t g path => Sys2Proof.Machine.execParkTimeout t g path s
  | .laneLoad t g lane loc len => Sys2Proof.Machine.execLaneLoad t g lane loc len s
  | .laneStore t g lane loc data => Sys2Proof.Machine.execLaneStore t g lane loc data s
  | .storeQueueDrain t g entry => Sys2Proof.Machine.execStoreQueueDrain t g entry s
  | .atomic t g op fn ty round ordering scope => Sys2Proof.Machine.execAtomic t g op fn ty round ordering scope s
  | .fence t g ordering scope => Sys2Proof.Machine.execFence t g ordering scope s
  | .reduce t g fn ty round ops => Sys2Proof.Machine.execReduce t g fn ty round ops s
  | .pin t g addrs => Sys2Proof.Machine.execPin t g addrs s
  | .unpin t g addrs => Sys2Proof.Machine.execUnpin t g addrs s
  | .eyeAdd t g eyelet n ordering scope => Sys2Proof.Machine.execEyeAdd t g eyelet n ordering scope s
  | .eyeWait t g eyelet target scope => Sys2Proof.Machine.execEyeWait t g eyelet target scope s
  | .eyeWaitResolve t g path => Sys2Proof.Machine.execEyeWaitResolve t g path s
  | .eyeArm t g eyelet value => Sys2Proof.Machine.execEyeArm t g eyelet value s
  | .eyeRead t g eyelet => Sys2Proof.Machine.execEyeRead t g eyelet s
  | .readProductStatus t g => Sys2Proof.Machine.execReadProductStatus t g s
  | .readLaneStatus t g => Sys2Proof.Machine.execReadLaneStatus t g s
  | .convert t g src dst x srcScale dstScale round => Sys2Proof.Machine.execConvert t g src dst x srcScale dstScale round s
  | .blockConvert t g src dst xs srcScale round => Sys2Proof.Machine.execBlockConvert t g src dst xs srcScale round s
  | .minMax t g fmt isMax a b aScale bScale dstScale => Sys2Proof.Machine.execMinMax t g fmt isMax a b aScale bScale dstScale s
  | .laneArithmetic t g op fmt a b c round => Sys2Proof.Machine.execLaneArithmetic t g op fmt a b c round s
  | .passInstruction t g desc => Sys2Proof.Machine.execPassInstruction t g desc s
  | .productPassStart t => Sys2Proof.Machine.execProductPassStart t s
  | .productPassComplete t => Sys2Proof.Machine.execProductPassComplete t s
  | .copyInstruction t g desc => Sys2Proof.Machine.execCopyInstruction t g desc s
  | .copyArrival t copy first len => Sys2Proof.Machine.execCopyArrival t copy first len s
  | .flitRetry d site port flit => Sys2Proof.Machine.execFlitRetry d site port flit s
  | .creditTimeout d site port => Sys2Proof.Machine.execCreditTimeout d site port s
  | .routerParityError d site => Sys2Proof.Machine.execRouterParityError d site s
  | .loopbackCheck d site routerOk deadLinks => Sys2Proof.Machine.execLoopbackCheck d site routerOk deadLinks s
  | .routesRewritten d => Sys2Proof.Machine.execRoutesRewritten d s
  | .routeLossNotice => Sys2Proof.Machine.execRouteLossNotice s
  | .duplicateWindowEnd => Sys2Proof.Machine.execDuplicateWindowEnd s
  | .weltReplay d edge g => Sys2Proof.Machine.execWeltReplay d edge g s
  | .laneFlag d edge g lane lace => Sys2Proof.Machine.execLaneFlag d edge g lane lace s
  | .spareTrained d edge g => Sys2Proof.Machine.execSpareTrained d edge g s
  | .laneSwitch d edge g => Sys2Proof.Machine.execLaneSwitch d edge g s
  | .laneRetire d edge g durationUs => Sys2Proof.Machine.execLaneRetire d edge g durationUs s
  | .weltSendTimeout d edge g => Sys2Proof.Machine.execWeltSendTimeout d edge g s
  | .calibrationMove d edge g => Sys2Proof.Machine.execCalibrationMove d edge g s
  | .laceParentTimeout d alternateOk skewNs => Sys2Proof.Machine.execLaceParentTimeout d alternateOk skewNs s
  | .laceArrival task t n => Sys2Proof.Machine.execLaceArrival task t n s
  | .laceCompletion task d n => Sys2Proof.Machine.execLaceCompletion task d n s
  | .sliceFill d line bulk found => Sys2Proof.Machine.execSliceFill d line bulk found s
  | .repairListWrite d => Sys2Proof.Machine.execRepairListWrite d s
  | .dramAluOp d ch found => Sys2Proof.Machine.execDramAluOp d ch found s
  | .rds m => Sys2Proof.Machine.execRds m s
  | .rdn m => Sys2Proof.Machine.execRdn m s
  | .rdx m => Sys2Proof.Machine.execRdx m s
  | .upg m => Sys2Proof.Machine.execUpg m s
  | .wbm m => Sys2Proof.Machine.execWbm m s
  | .atr m => Sys2Proof.Machine.execAtr m s
  | .hwb m => Sys2Proof.Machine.execHwb m s
  | .hev m => Sys2Proof.Machine.execHev m s
  | .data m => Sys2Proof.Machine.execData m s
  | .mdata m => Sys2Proof.Machine.execMdata m s
  | .wack m => Sys2Proof.Machine.execWack m s
  | .atrsp m => Sys2Proof.Machine.execAtrsp m s
  | .err m => Sys2Proof.Machine.execErr m s
  | .cmp m => Sys2Proof.Machine.execCmp m s
  | .inv m => Sys2Proof.Machine.execInv m s
  | .fwd m => Sys2Proof.Machine.execFwd m s
  | .binv m => Sys2Proof.Machine.execBinv m s
  | .bdown m => Sys2Proof.Machine.execBdown m s
  | .iack m => Sys2Proof.Machine.execIack m s
  | .birsp m => Sys2Proof.Machine.execBirsp m s
  | .fwdack m => Sys2Proof.Machine.execFwdack m s
  | .fwdmiss m => Sys2Proof.Machine.execFwdmiss m s
  | .snpInv hpa => Sys2Proof.Machine.execSnpInv hpa s
  | .snpData hpa => Sys2Proof.Machine.execSnpData hpa s
  | .snpCur hpa => Sys2Proof.Machine.execSnpCur hpa s
  | .spillHostData hpa bytes poison => Sys2Proof.Machine.execSpillHostData hpa bytes poison s
  | .wrcurComplete hpa => Sys2Proof.Machine.execWrcurComplete hpa s
  | .deadDeclaration d agent => Sys2Proof.Machine.execDeadDeclaration d agent s
  | .sweepDone d => Sys2Proof.Machine.execSweepDone d s
  | .lostTailWrite d v => Sys2Proof.Machine.execLostTailWrite d v s
  | .dirPeek d v => Sys2Proof.Machine.execDirPeek d v s
  | .qpPeek v => Sys2Proof.Machine.execQpPeek v s
  | .labelPeek v => Sys2Proof.Machine.execLabelPeek v s
  | .tileCntClear t => Sys2Proof.Machine.execTileCntClear t s
  | .meshCntClear d => Sys2Proof.Machine.execMeshCntClear d s
  | .weltCntClear d edge => Sys2Proof.Machine.execWeltCntClear d edge s
  | .l2CntClear d south => Sys2Proof.Machine.execL2CntClear d south s
  | .l3CntClear d => Sys2Proof.Machine.execL3CntClear d s
  | .dirCntClear d => Sys2Proof.Machine.execDirCntClear d s
  | .eyeCntClear d => Sys2Proof.Machine.execEyeCntClear d s
  | .dramCntClear d => Sys2Proof.Machine.execDramCntClear d s
  | .uciCntClear => Sys2Proof.Machine.execUciCntClear s
  | .outPortCntClear k => Sys2Proof.Machine.execOutPortCntClear k s
  | .outJobCntClear => Sys2Proof.Machine.execOutJobCntClear s
  | .partAccClear n => Sys2Proof.Machine.execPartAccClear n s
  | .pwrCntClear => Sys2Proof.Machine.execPwrCntClear s
  | .awlCntClear d => Sys2Proof.Machine.execAwlCntClear d s
  | .eyeCtlAdd n index v => Sys2Proof.Machine.execEyeCtlAdd n index v s
  | .eyeCtlArm n index v => Sys2Proof.Machine.execEyeCtlArm n index v s
  | .refreshCommand d ch => Sys2Proof.Machine.execRefreshCommand d ch s
  | .dramSensorSample d readings => Sys2Proof.Machine.execDramSensorSample d readings s
  | .refreshSlowReturn d => Sys2Proof.Machine.execRefreshSlowReturn d s
  | .zeroingDone p => Sys2Proof.Machine.execZeroingDone p s
  | .hostIdRead code stepping timeMs => Sys2Proof.Machine.execHostIdRead code stepping timeMs s
  | .moduleTrainTimeout k => Sys2Proof.Machine.execModuleTrainTimeout k s
  | .moduleActive k => Sys2Proof.Machine.execModuleActive k s
  | .moduleLinkDown k => Sys2Proof.Machine.execModuleLinkDown k s
  | .retrainTimeout k => Sys2Proof.Machine.execRetrainTimeout k s
  | .linkRetrain => Sys2Proof.Machine.execLinkRetrain s
  | .allModulesActive => Sys2Proof.Machine.execAllModulesActive s
  | .memRd h mv tag => Sys2Proof.Machine.execMemRd h mv tag s
  | .memInv h mv tag => Sys2Proof.Machine.execMemInv h mv tag s
  | .memWr h mv tag enables bytes => Sys2Proof.Machine.execMemWr h mv tag enables bytes s
  | .cxlBirsp h kept => Sys2Proof.Machine.execCxlBirsp h kept s
  | .memSpecRd h => Sys2Proof.Machine.execMemSpecRd h s
  | .unsupportedMemReq r h => Sys2Proof.Machine.execUnsupportedMemReq r h s
  | .flr n => Sys2Proof.Machine.execFlr n s
  | .msixUnmask fn vec => Sys2Proof.Machine.execMsixUnmask fn vec s
  | .sqResume n k => Sys2Proof.Machine.execSqResume n k s
  | .doeDiscovery o => Sys2Proof.Machine.execDoeDiscovery o s
  | .cdatRead handle => Sys2Proof.Machine.execCdatRead handle s
  | .getVersion => Sys2Proof.Machine.execGetVersion s
  | .getCapabilities => Sys2Proof.Machine.execGetCapabilities s
  | .negotiateAlgorithms rsapss3072 sha256 => Sys2Proof.Machine.execNegotiateAlgorithms rsapss3072 sha256 s
  | .getDigests => Sys2Proof.Machine.execGetDigests s
  | .getCertificate slot offset len => Sys2Proof.Machine.execGetCertificate slot offset len s
  | .challenge slot nonce => Sys2Proof.Machine.execChallenge slot nonce s
  | .getMeasurements index signed nonce => Sys2Proof.Machine.execGetMeasurements index signed nonce s
  | .portLinkChange k up => Sys2Proof.Machine.execPortLinkChange k up s
  | .preemptionVerify k ok => Sys2Proof.Machine.execPreemptionVerify k ok s
  | .pfcPause k pcp timeNs => Sys2Proof.Machine.execPfcPause k pcp timeNs s
  | .ptpMessage k m => Sys2Proof.Machine.execPtpMessage k m s
  | .syncSend k => Sys2Proof.Machine.execSyncSend k s
  | .masterLost => Sys2Proof.Machine.execMasterLost s
  | .rdmaWrite k p => Sys2Proof.Machine.execRdmaWrite k p s
  | .rdmaWriteWithImmediate k p => Sys2Proof.Machine.execRdmaWriteWithImmediate k p s
  | .send k p => Sys2Proof.Machine.execSend k p s
  | .rdmaReadRequest k p => Sys2Proof.Machine.execRdmaReadRequest k p s
  | .rdmaReadResponse k p => Sys2Proof.Machine.execRdmaReadResponse k p s
  | .ack k p => Sys2Proof.Machine.execAck k p s
  | .nak k p => Sys2Proof.Machine.execNak k p s
  | .cnp k p => Sys2Proof.Machine.execCnp k p s
  | .rateIncrease p q => Sys2Proof.Machine.execRateIncrease p q s
  | .retransmitTimeout p q => Sys2Proof.Machine.execRetransmitTimeout p q s
  | .rnrRetry p q => Sys2Proof.Machine.execRnrRetry p q s
  | .qpTimeout p q => Sys2Proof.Machine.execQpTimeout p q s
  | .qpReady => Sys2Proof.Machine.execQpReady s
  | .arrive k f => Sys2Proof.Machine.execArrive k f s
  | .complete k f => Sys2Proof.Machine.execComplete k f s
  | .stepFail k f => Sys2Proof.Machine.execStepFail k f s
  | .jobFault k f => Sys2Proof.Machine.execJobFault k f s
  | .report k f => Sys2Proof.Machine.execReport k f s
  | .freq k f => Sys2Proof.Machine.execFreq k f s
  | .heartbeat k f => Sys2Proof.Machine.execHeartbeat k f s
  | .down k f => Sys2Proof.Machine.execDown k f s
  | .join k f => Sys2Proof.Machine.execJoin k f s
  | .member k f => Sys2Proof.Machine.execMember k f s
  | .qpReset k f => Sys2Proof.Machine.execQpReset k f s
  | .heartbeatSend => Sys2Proof.Machine.execHeartbeatSend s
  | .heartbeatLoss neighbour => Sys2Proof.Machine.execHeartbeatLoss neighbour s
  | .sendJoin => Sys2Proof.Machine.execSendJoin s
  | .memberEffective => Sys2Proof.Machine.execMemberEffective s
  | .jobDeadline => Sys2Proof.Machine.execJobDeadline s
  | .epochReport => Sys2Proof.Machine.execEpochReport s
  | .reportDeadline => Sys2Proof.Machine.execReportDeadline s
  | .freqDecision => Sys2Proof.Machine.execFreqDecision s
  | .freqApply => Sys2Proof.Machine.execFreqApply s
  | .pmFreeze p v => Sys2Proof.Machine.execPmFreeze p v s
  | .saveDone p uncorrectable => Sys2Proof.Machine.execSaveDone p uncorrectable s
  | .pmRestore p v => Sys2Proof.Machine.execPmRestore p v s
  | .restoreDone p uncorrectable => Sys2Proof.Machine.execRestoreDone p uncorrectable s
  | .pmThaw p v => Sys2Proof.Machine.execPmThaw p v s
  | .drainEnd p => Sys2Proof.Machine.execDrainEnd p s
  | .tileHaltTimeout t => Sys2Proof.Machine.execTileHaltTimeout t s
  | .tileSramError t off => Sys2Proof.Machine.execTileSramError t off s
  | .transactionTimeout x => Sys2Proof.Machine.execTransactionTimeout x s
  | .sliceTimeout d sl => Sys2Proof.Machine.execSliceTimeout d sl s
  | .directoryTimeout d line half => Sys2Proof.Machine.execDirectoryTimeout d line half s
  | .dramTimeout d ch => Sys2Proof.Machine.execDramTimeout d ch s
  | .ucieTimeout hpa => Sys2Proof.Machine.execUcieTimeout hpa s
  | .unitResetDone => Sys2Proof.Machine.execUnitResetDone s
  | .dieHeartbeatSend d => Sys2Proof.Machine.execDieHeartbeatSend d s
  | .dieHeartbeatLoss d => Sys2Proof.Machine.execDieHeartbeatLoss d s
  | .recover d => Sys2Proof.Machine.execRecover d s
  | .dieReady d => Sys2Proof.Machine.execDieReady d s
  | .watchdog => Sys2Proof.Machine.execWatchdog s
  | .dieRecoveryTimeout => Sys2Proof.Machine.execDieRecoveryTimeout s
  | .deviceRecoveryTimeout => Sys2Proof.Machine.execDeviceRecoveryTimeout s
  | .deviceRecoveryDone timeMs => Sys2Proof.Machine.execDeviceRecoveryDone timeMs s
  | .rtsGo hostImage fetched => Sys2Proof.Machine.execRtsGo hostImage fetched s
  | .recTailWrite v => Sys2Proof.Machine.execRecTailWrite v s
  | .evTailWrite v => Sys2Proof.Machine.execEvTailWrite v s
  | .regulatorReport d r => Sys2Proof.Machine.execRegulatorReport d r s
  | .vrAlert => Sys2Proof.Machine.execVrAlert s
  | .vrAlertRelease => Sys2Proof.Machine.execVrAlertRelease s
  | .brakeAssert => Sys2Proof.Machine.execBrakeAssert s
  | .brakeRelease => Sys2Proof.Machine.execBrakeRelease s
  | .budgetRequest d => Sys2Proof.Machine.execBudgetRequest d s
  | .budgetAllocate => Sys2Proof.Machine.execBudgetAllocate s
  | .budgetGrant d => Sys2Proof.Machine.execBudgetGrant d s
  | .grantDeadline => Sys2Proof.Machine.execGrantDeadline s
  | .budgetGuard d => Sys2Proof.Machine.execBudgetGuard d s
  | .thermalSample d junctions drams => Sys2Proof.Machine.execThermalSample d junctions drams s
  | .trimWrite d => Sys2Proof.Machine.execTrimWrite d s
  | .sliceEnd d kind r found => Sys2Proof.Machine.execSliceEnd d kind r found s
  | .sliceAbort d kind => Sys2Proof.Machine.execSliceAbort d kind s
  | .repairRecordWrite d => Sys2Proof.Machine.execRepairRecordWrite d s
  | .awlFuseGo d => Sys2Proof.Machine.execAwlFuseGo d s
  | .fuseBurn d ok => Sys2Proof.Machine.execFuseBurn d ok s
  | .takeOwnership hostImage fetched => Sys2Proof.Machine.execTakeOwnership hostImage fetched s
  | .release hostImage fetched => Sys2Proof.Machine.execRelease hostImage fetched s
  | .end_ hostImage fetched => Sys2Proof.Machine.execEnd hostImage fetched s
  | .raiseLastFloor hostImage fetched => Sys2Proof.Machine.execRaiseLastFloor hostImage fetched s
  | .raiseFwFloor hostImage fetched => Sys2Proof.Machine.execRaiseFwFloor hostImage fetched s
  | .transitionComplete => Sys2Proof.Machine.execTransitionComplete s
  | .fwStage hostImage fetched => Sys2Proof.Machine.execFwStage hostImage fetched s
  | .fwStaged ok => Sys2Proof.Machine.execFwStaged ok s
  | .tapInstruction code => Sys2Proof.Machine.execTapInstruction code s
  | .powerGood straps => Sys2Proof.Machine.execPowerGood straps s
  | .powerLoss => Sys2Proof.Machine.execPowerLoss s
  | .mreset => Sys2Proof.Machine.execMreset s
  | .regulatorsSequenced ok => Sys2Proof.Machine.execRegulatorsSequenced ok s
  | .firmwareVerified aOk bOk timeMs => Sys2Proof.Machine.execFirmwareVerified aOk bOk timeMs s
  | .weltsTrained ok => Sys2Proof.Machine.execWeltsTrained ok s
  | .dramInitialised ok timeMs => Sys2Proof.Machine.execDramInitialised ok timeMs s
  | .readyRise timeMs => Sys2Proof.Machine.execReadyRise timeMs s
  | .thermtripShutdown => Sys2Proof.Machine.execThermtripShutdown s
  | .sbRead off => Sys2Proof.Machine.execSbRead off s
  | .sbWrite off v => Sys2Proof.Machine.execSbWrite off v s
  | .setdasa addr => Sys2Proof.Machine.execSetdasa addr s
  | .entdaa addr => Sys2Proof.Machine.execEntdaa addr s
  | .pfcPauseEnd k => Sys2Proof.Machine.execPfcPauseEnd k s
  | .unsupportedOpcode k p => Sys2Proof.Machine.execUnsupportedOpcode k p s
  | .droppedFrame k => Sys2Proof.Machine.execDroppedFrame k s
  | .enec => Sys2Proof.Machine.execEnec s
  | .tapReset low => Sys2Proof.Machine.execTapReset low s
  | .configurationRequest fn off write v => Sys2Proof.Machine.execConfigurationRequest fn off write v s
  | .floorBurnComplete => Sys2Proof.Machine.execFloorBurnComplete s

end Sys2Proof.Machine
end

