-- ==== Sys2Proof/WellFormed.lean ====
section
/-! DEFINITION. Which commands the world can give: the code of a message is that of its row (R230), lengths and offsets are those that
the rows' rules allow. The machine gives a command outside it a meaning too. -/

namespace Sys2Proof

/-- Bytes of the BAR0 that a map fills (R310). -/
def Space.size : Space → Nat
  | .pf => 2 ^ 28
  | .vf _ => 2 ^ 24

/-- The code of R230 that the row of a message carries. -/
def Instr.messageCode : Instr → Option (Nat × Msg)
  | .rds m => some (0x01, m) | .rdn m => some (0x02, m) | .rdx m => some (0x03, m) | .upg m => some (0x04, m)
  | .wbm m => some (0x05, m) | .atr m => some (0x06, m) | .hwb m => some (0x07, m) | .hev m => some (0x08, m)
  | .data m => some (0x10, m) | .mdata m => some (0x11, m) | .wack m => some (0x12, m) | .atrsp m => some (0x13, m)
  | .err m => some (0x14, m) | .cmp m => some (0x15, m) | .inv m => some (0x18, m) | .fwd m => some (0x19, m)
  | .binv m => some (0x1A, m) | .bdown m => some (0x1B, m) | .iack m => some (0x20, m) | .birsp m => some (0x21, m)
  | .fwdack m => some (0x22, m) | .fwdmiss m => some (0x23, m)
  | _ => none

/-- A message has the code of its row, a source of R225, a tag of 14 bits, a partition or 16 for none, and a line address. -/
def Msg.fits (m : Msg) (code : Nat) : Bool :=
  m.opcode == code && m.source < 32 && m.tag < 2 ^ 14 && m.part ≤ 16 && m.addr % 64 == 0 && m.data.length ≤ 2048

/-- The type of R347 that the row of a lace frame carries. -/
def Instr.frameType : Instr → Option (Nat × LaceFrame)
  | .arrive _ f => some (0x01, f) | .complete _ f => some (0x02, f) | .stepFail _ f => some (0x03, f)
  | .jobFault _ f => some (0x04, f) | .report _ f => some (0x05, f) | .freq _ f => some (0x06, f)
  | .heartbeat _ f => some (0x07, f) | .down _ f => some (0x08, f) | .join _ f => some (0x09, f)
  | .member _ f => some (0x0A, f) | .qpReset _ f => some (0x0B, f)
  | _ => none

/-- Lengths of a lane access (R263). -/
def laneLength (n : Nat) : Bool := n == 1 || n == 2 || n == 4 || n == 8

/-- The command is one that the world can give. -/
def Instr.wf (i : Instr) : Bool :=
  (match i.messageCode with
   | some (c, m) => m.fits c
   | none => true) &&
  (match i.frameType with
   | some (c, f) => f.type == c
   | none => true) &&
  match i with
  | .registerWrite sp off _ => off % 8 == 0 && off < sp.size
  | .narrowAccess sp off width _ _ =>
    (width == 1 || width == 2 || width == 4 || width == 8) && !(width == 8 && off % 8 == 0) && off < sp.size
  | .unassignedAccess sp off _ => off % 8 == 0 && off < sp.size
  | .laneLoad _ _ _ _ len => laneLength len
  | .laneStore _ _ _ _ bs => laneLength bs.length
  | .eyeCtlAdd _ n _ => n < 65536
  | .eyeCtlArm _ n _ => n < 65536
  | .memRd h _ _ => h.hpa % 64 == 0
  | .memInv h _ _ => h.hpa % 64 == 0
  | .memWr h _ _ _ bs => h.hpa % 64 == 0 && bs.length == 64
  | .spillHostData hpa _ _ => hpa % 64 == 0
  | .dramSensorSample _ rs => rs.length == 28
  | .thermalSample _ js ds => js.length == 72 && ds.length == 28
  | .challenge _ nonce => nonce.length == 32
  | .getMeasurements _ _ nonce => nonce.length == 32
  | .configurationRequest _ off _ _ => off % 4 == 0 && off < 4096
  | .commitCheckDone after => after ≤ 1000
  | _ => true

end Sys2Proof
end

