-- ==== Sys2Proof/Safety.lean ====
section
/-! DEFINITION. The terms in which claims speak of runs: canonical memories, what a command keeps, the life cycle's order. -/

namespace Sys2Proof.Machine

/-- The form of a memory: addresses strictly rising, no entry equal to what an unlisted address reads as. -/
abbrev Memory.wf (m : SMap Byte) : Bool := mapWf 0#8 m

/-- The components of the state, as claims name what a command leaves alone: the register file, the clock and the phases of the
stitch, commits, the loader, the lasts in force, tiles with their tasks, tile stores, accumulator banks, the mesh, transactions with
the caches and directories, eyelets, DRAM (`mem` its bytes, `dram` the rest), UCI, the outer ports with the job, partitions, faults,
power, the awl, the fuses, the flash, what is about to be burned, the rest of the SEC block, pins, what has been handed to the
world, the latest value read, and how many free values have been drawn. -/
inductive Comp where
  | regs | clock | cfg | ldr | dev | lasts | tile | scratch | banks | mesh | coh | eyelets | dram | mem | uci | outer | part | flt
  | power | awl | fuses | flash | burns | sec | pins | out | lastRead | free
deriving DecidableEq, Repr

/-- The SEC block without its fuses, its flash and what is about to be burned. -/
def SecSt.rest (x : SecSt) : SecSt :=
  { x with fuses := {}, flash := {}, transition := none, newOwner := [], floorBurn := none }

/-- Component `c` is the same in both states. -/
def Comp.same (s t : State) : Comp → Prop
  | .regs => t.regs = s.regs
  | .clock => t.clock = s.clock
  | .cfg => t.cfg = s.cfg
  | .ldr => t.ldr = s.ldr
  | .dev => t.dev = s.dev
  | .lasts => t.lasts = s.lasts
  | .tile => t.tile.tiles = s.tile.tiles ∧ t.tile.tasks = s.tile.tasks ∧ t.tile.taskNo = s.tile.taskNo
  | .scratch => t.tile.scratch = s.tile.scratch
  | .banks => t.tile.banks = s.tile.banks
  | .mesh => t.mesh = s.mesh
  | .coh => t.coh = s.coh
  | .eyelets => t.eyelets = s.eyelets
  | .dram => { t.dram with mem := [] } = { s.dram with mem := [] }
  | .mem => t.dram.mem = s.dram.mem
  | .uci => t.uci = s.uci
  | .outer => t.outer = s.outer
  | .part => t.part = s.part
  | .flt => t.flt = s.flt
  | .power => t.power = s.power
  | .awl => t.awl = s.awl
  | .fuses => t.sec.fuses = s.sec.fuses
  | .flash => t.sec.flash = s.sec.flash
  | .burns => t.sec.transition = s.sec.transition ∧ t.sec.newOwner = s.sec.newOwner ∧ t.sec.floorBurn = s.sec.floorBurn
  | .sec => t.sec.rest = s.sec.rest
  | .pins => t.pins = s.pins
  | .out => t.out = s.out
  | .lastRead => t.lastRead = s.lastRead
  | .free => t.free = s.free

/-- `t` differs from `s` in no component but those listed, and the queue is as it was. -/
def Within (cs : List Comp) (s t : State) : Prop := t.pending = s.pending ∧ ∀ c, c ∉ cs → c.same s t

/-- What an event may write beside the registers of its ring: the vector that fires, the source's sequence, what leaves. -/
def Comp.event : List Comp := [.regs, .uci, .flt, .out]

/-- What the teardown of a partition may write (R377 to R379), which a step fault or a timeout may cause. -/
def Comp.teardown : List Comp := [.regs, .cfg, .tile, .coh, .eyelets, .uci, .outer, .part, .flt, .out]

/-- The components that a command may change; it changes no other, in any state. -/
def mayChange : Instr → List Comp
  | .dieHeartbeatSend .. => []
  | .weltReplay .. | .sweepDone .. | .lostTailWrite .. | .dirPeek .. | .qpPeek .. | .labelPeek .. | .tileCntClear ..
  | .meshCntClear .. | .weltCntClear .. | .l2CntClear .. | .l3CntClear .. | .dirCntClear .. | .eyeCntClear .. | .dramCntClear ..
  | .uciCntClear .. | .outPortCntClear .. | .outJobCntClear .. | .partAccClear .. | .awlCntClear .. | .preemptionVerify ..
  | .masterLost .. | .recTailWrite .. | .evTailWrite .. | .droppedFrame .. => [.regs]
  | .parkTimeout .. => [.tile]
  | .duplicateWindowEnd .. | .fwd .. => [.coh]
  | .flr .. | .setdasa .. | .entdaa .. | .enec .. => [.uci]
  | .rateIncrease .. | .qpReady .. => [.outer]
  | .sqResume .. => [.part]
  | .creditTimeout .. | .routerParityError .. => [.flt]
  | .budgetAllocate .. | .budgetGrant .. => [.power]
  | .spareTrained .. | .laneSwitch .. | .calibrationMove .. => [.awl]
  | .trimWrite .. => [.flash]
  | .tapReset .. => [.sec]
  | .tick .. | .laceTickInEdge .. | .rearm .. => [.regs, .clock]
  | .cfgCommit .. | .partCommit .. => [.regs, .cfg]
  | .pathRotate .. => [.regs, .tile]
  | .routeLossNotice .. | .inv .. => [.regs, .coh]
  | .refreshCommand .. => [.regs, .dram]
  | .linkRetrain .. | .memSpecRd .. | .unsupportedMemReq .. => [.regs, .uci]
  | .heartbeat .. | .memberEffective .. => [.regs, .outer]
  | .flitRetry .. | .unitResetDone .. => [.regs, .flt]
  | .pwrCntClear .. | .budgetRequest .. => [.regs, .power]
  | .binv .. | .bdown .. | .snpData .. | .snpCur .. => [.coh, .out]
  | .msixUnmask .. | .doeDiscovery .. | .cdatRead .. | .getVersion .. | .negotiateAlgorithms .. | .getDigests ..
  | .getCertificate .. | .configurationRequest .. => [.uci, .out]
  | .moduleActive .. => [.regs, .free]
  | .eyeWaitResolve .. => [.regs, .tile, .coh]
  | .productPassStart .. => [.regs, .tile, .eyelets]
  | .memRd .. | .memInv .. | .memWr .. | .cxlBirsp .. => [.regs, .coh, .uci]
  | .jobAlignedTick .. => [.regs, .clock, .outer]
  | .repairListWrite .. => [.regs, .dram, .flash]
  | .repairRecordWrite .. => [.regs, .awl, .flash]
  | .hostIdRead .. | .readyRise .. => [.regs, .clock, .pins]
  | .moduleTrainTimeout .. => [.regs, .uci, .pins]
  | .pfcPause .. | .cnp .. | .retransmitTimeout .. | .rnrRetry .. | .stepFail .. | .report .. | .freq .. | .member ..
  | .heartbeatSend .. | .epochReport .. | .reportDeadline .. | .freqDecision .. | .pfcPauseEnd .. | .unsupportedOpcode ..
    => [.regs, .outer, .out]
  | .laceCompletion .. => [.regs, .tile, .free]
  | .syncSend .. => [.regs, .out, .free]
  | .getCapabilities .. | .challenge .. | .getMeasurements .. => [.uci, .out, .free]
  | .cmp .. => [.regs, .coh, .uci, .out]
  | .laceArrival .. | .ack .. | .arrive .. | .complete .. => [.regs, .tile, .outer, .out]
  | .laceParentTimeout .. | .refreshSlowReturn .. | .moduleLinkDown .. | .portLinkChange .. | .awlFuseGo .. => Comp.event
  | .ptpMessage .. => [.regs, .outer, .out, .free]
  | .dramInitialised .. => [.regs, .clock, .uci, .flash, .pins]
  | .missedEdge .. => Comp.event ++ [.clock]
  | .dramSensorSample .. => Comp.event ++ [.dram]
  | .jobFault .. | .jobDeadline .. => Comp.event ++ [.outer]
  | .grantDeadline .. => Comp.event ++ [.power]
  | .sliceAbort .. => Comp.event ++ [.awl]
  | .fuseBurn .. => Comp.event ++ [.fuses]
  | .tapInstruction .. => Comp.event ++ [.sec]
  | .allModulesActive .. => Comp.event ++ [.pins]
  | .sbRead .. => Comp.event ++ [.free]
  | .productPassComplete .. => [.regs, .tile, .scratch, .banks, .eyelets]
  | .freqApply .. => Comp.event ++ [.outer, .power]
  | .regulatorReport .. | .vrAlert .. | .vrAlertRelease .. | .budgetGuard .. | .thermalSample .. => Comp.event ++ [.power, .awl]
  | .floorBurnComplete .. => Comp.event ++ [.fuses, .burns]
  | .fwStaged .. => Comp.event ++ [.flash, .sec]
  | .firmwareVerified .. => Comp.event ++ [.clock, .pins]
  | .laneRetire .. => Comp.event ++ [.awl, .free]
  | .zeroingDone .. => [.scratch, .coh, .eyelets, .dram, .mem, .part]
  | .routesRewritten .. => Comp.event ++ [.tile, .mesh, .eyelets]
  | .nak .. | .qpTimeout .. | .down .. | .qpReset .. | .heartbeatLoss .. => Comp.event ++ [.tile, .eyelets, .outer]
  | .brakeAssert .. | .brakeRelease .. => Comp.event ++ [.power, .awl, .pins]
  | .deviceRecoveryTimeout .. => Comp.event ++ [.cfg, .ldr, .free]
  | .weltsTrained .. => [.regs, .clock, .scratch, .flt, .power, .awl, .pins]
  | .commitCheckDone .. => Comp.event ++ [.clock, .cfg, .ldr, .free]
  | .drainEnd .. => Comp.event ++ [.cfg, .lasts, .coh, .eyelets, .outer, .part]
  | .phaseByteWrite .. | .retrainTimeout .. | .rdmaWrite .. | .rdmaWriteWithImmediate .. | .send .. | .rdmaReadRequest ..
  | .join .. | .sendJoin .. | .tileHaltTimeout .. | .tileSramError .. | .ucieTimeout .. | .dieReady .. => Comp.teardown
  | .snpInv .. | .spillHostData .. | .wrcurComplete .. => Comp.teardown ++ [.free]
  | .endInstruction .. | .storeQueueDrain .. | .rdmaReadResponse .. | .restoreDone .. => Comp.teardown ++ [.scratch]
  | .transitionComplete .. => Comp.event ++ [.scratch, .coh, .eyelets, .dram, .mem, .fuses, .burns]
  | .ldrStart .. | .ldrApply .. | .ldrAbort .. => Comp.teardown ++ [.ldr, .sec]
  | .loopbackCheck .. => Comp.teardown ++ [.mesh, .free]
  | .stepEnd .. => Comp.teardown ++ [.power, .free]
  | .branch .. | .exit .. | .laneStore .. | .pin .. | .unpin .. | .eyeWait .. | .eyeArm .. | .eyeRead .. | .readProductStatus ..
  | .readLaneStatus .. | .convert .. | .blockConvert .. | .minMax .. | .laneArithmetic .. | .sliceFill .. | .dramAluOp ..
  | .rds .. | .rdn .. | .rdx .. | .upg .. | .wbm .. | .atr .. | .hwb .. | .hev .. | .iack .. | .birsp .. | .fwdack ..
  | .fwdmiss .. | .deadDeclaration .. | .pmFreeze .. | .saveDone .. | .pmRestore .. | .pmThaw .. | .sliceTimeout ..
  | .dramTimeout .. => Comp.teardown ++ [.dram, .mem, .free]
  | .loadComplete .. => Comp.teardown ++ [.ldr, .dram, .mem, .free]
  | .recover .. => Comp.teardown ++ [.dram, .mem, .awl, .free]
  | .rtsGo .. | .fwStage .. => Comp.teardown ++ [.dram, .mem, .sec, .free]
  | .barrier .. | .casLockHint .. | .laneLoad .. | .atomic .. | .fence .. | .reduce .. | .eyeAdd .. | .passInstruction ..
  | .copyInstruction .. | .copyArrival .. | .wack .. | .atrsp .. => Comp.teardown ++ [.scratch, .dram, .mem, .free]
  | .issuePoint .. => Comp.teardown ++ [.clock, .dram, .mem, .power, .free]
  | .watchdog .. | .dieRecoveryTimeout .. => Comp.teardown ++ [.ldr, .dram, .mem, .awl, .free]
  | .slackWindowOpen .. => Comp.teardown ++ [.clock, .ldr, .dram, .mem, .awl, .free]
  | .laneFlag .. | .weltSendTimeout .. => Comp.teardown ++ [.ldr, .mesh, .dram, .mem, .awl, .free]
  | .directoryTimeout .. | .dieHeartbeatLoss .. => Comp.teardown ++ [.ldr, .dram, .mem, .power, .awl, .free]
  | .takeOwnership .. | .release .. | .end_ .. | .raiseLastFloor .. | .raiseFwFloor ..
    => Comp.teardown ++ [.ldr, .dram, .mem, .awl, .burns, .sec, .free]
  | .deviceRecoveryDone .. => Comp.teardown ++ [.clock, .ldr, .dev, .lasts, .mesh, .power, .awl, .free]
  | .sliceEnd .. => Comp.teardown ++ [.ldr, .mesh, .dram, .mem, .power, .awl, .flash, .free]
  | .data .. | .mdata .. | .err .. | .transactionTimeout ..
    => Comp.teardown ++ [.ldr, .scratch, .dram, .mem, .awl, .burns, .sec, .free]
  | .sbWrite .. => Comp.teardown ++ [.clock, .ldr, .dram, .mem, .power, .awl, .burns, .sec, .free]
  | .registerWrite .. | .narrowAccess .. | .unassignedAccess .. | .eyeCtlAdd .. | .eyeCtlArm ..
    => Comp.teardown ++ [.clock, .ldr, .dram, .mem, .power, .awl, .burns, .sec, .lastRead, .free]
  | .tickArrival .. => Comp.teardown ++ [.clock, .ldr, .dev, .lasts, .scratch, .mesh, .dram, .mem, .power, .awl, .sec, .free]
  | .powerLoss .. | .mreset .. | .regulatorsSequenced .. | .thermtripShutdown ..
    => [.regs, .clock, .cfg, .ldr, .dev, .lasts, .tile, .scratch, .banks, .mesh, .coh, .eyelets, .dram, .mem, .uci, .outer, .part, .flt, .power, .awl, .fuses, .burns, .sec, .pins, .free]
  | .powerGood ..
    => Comp.teardown ++ [.clock, .ldr, .dev, .lasts, .scratch, .banks, .mesh, .dram, .mem, .power, .awl, .fuses, .burns, .sec, .pins, .free]

/-- Every register field reads as before, but those listed. -/
def RegsKept (fs : List Fld) (s t : State) : Prop := ∀ k, (∀ f ∈ fs, k ≠ f.key) → mapGet 0 t.regs k = mapGet 0 s.regs k

/-- The fields that an event may write: the next record of the event ring, and the ring's head and status (R412, R413). -/
def eventFields (s : State) : List Fld :=
  let i := s.get fFltEvHead_count % 8192
  [fFltEvA_source i, fFltEvA_code i, fFltEvA_partition i, fFltEvA_partition_valid i, fFltEvA_valid i, fFltEvA_sequence i,
   fFltEvB_ns i, fFltEvB_stitch i, fFltEvC_data0 i, fFltEvD_data1 i, fFltEvHead_count, fFltEvStatus_full, fFltEvStatus_dropped]

/-- The fields that a fault record may write: the next record of the fault ring, and the ring's head and status (R409, R410). -/
def faultFields (s : State) : List Fld :=
  let i := s.get fFltRecHead_count % 1024
  [fFltRecA_cause i, fFltRecA_level i, fFltRecA_unit_kind i, fFltRecA_die i, fFltRecA_unit i, fFltRecA_guilty i,
   fFltRecA_guilty_valid i, fFltRecA_affected i, fFltRecA_tile i, fFltRecA_tile_valid i, fFltRecA_valid i, fFltRecB_sequence i,
   fFltRecB_stitch i, fFltRecC_ns i, fFltRecC_generation i, fFltRecC_detail i, fFltRecD_address i, fFltRecHead_count,
   fFltRecStatus_full, fFltRecStatus_dropped]

/-- The command answers a next state in which these fields read 0 and everything else is as it was. -/
def Clears (c : Instr) (fs : List Fld) (s : State) : Prop :=
  ∃ u, exec c s = .next u ∧ (∀ f ∈ fs, u.get f = 0) ∧ Within [.regs] s u ∧ RegsKept fs s u

/-- An instruction that a path of group `g` on tile `t` issues whole. -/
def PathInstr (t : TileId) (g : Grp) : Instr → Prop
  | .branch a b .. | .exit a b .. | .barrier a b .. | .casLockHint a b .. | .fence a b .. | .reduce a b .. | .pin a b .. | .unpin a b ..
  | .eyeAdd a b .. | .eyeWait a b .. | .eyeArm a b .. | .eyeRead a b .. | .readProductStatus a b | .readLaneStatus a b
  | .convert a b .. | .blockConvert a b .. | .minMax a b .. | .laneArithmetic a b .. | .passInstruction a b _
  | .copyInstruction a b _ => a = t ∧ b = g
  | _ => False

/-- An instruction that needs a place in the product queue or the copy engine of tile `t` finds none (R106, R113). -/
def State.engineFull (s : State) (t : TileId) : Instr → Bool
  | .passInstruction .. => 4 ≤ (s.tileAt t).passes.length
  | .copyInstruction .. => s.clock.slackOpen || 16 ≤ (s.tileAt t).copies.length
  | _ => false

/-- What leaves when a queue pair sends a packet that does not wait (R328, R334). -/
def State.packetOut (s : State) (c : QpCfg) (x : Pkt) : Out := .packet c.port (s.roceHdr c x) x

/-- A step is safe when it answers a next state. -/
def SafeStep (s : State) : Prop := ∃ t, step s = .next t

/-- Every waiting command is one that the world can give. -/
def QueueOk (s : State) : Prop := ∀ c ∈ s.pending, c.wf = true

/-- The life-cycle fuses and what is about to be burned into them (R467, R473, R477): a code of R467, step counts of at most 32
fuses, a transition that leads forward, a floor that rises. -/
def FuseInv (s : State) : Prop :=
  s.sec.fuses.lc ≤ 4 ∧ s.sec.fuses.lastSteps ≤ 32 ∧ s.sec.fuses.fwSteps ≤ 32 ∧
    (∀ n, s.sec.transition = some n → s.sec.fuses.lc < n ∧ n ≤ 4) ∧
    ∀ w n, s.sec.floorBurn = some (w, n) →
      n ≤ 32 ∧ (if w = 0 then s.sec.fuses.lastSteps else s.sec.fuses.fwSteps) ≤ n

/-- How a load whose image has been read ends (R48, R53): the error of the first check that fails, in the order of R48, or the last that
is staged. -/
def State.loadVerdict (s : State) (img : List Byte) : Except Nat Last :=
  let m := sha256 (img.take (img.length - 384))
  if headError img ≠ 0 then .error (headError img)
  else if lengthError img ≠ 0 then .error 3
  else if s.keyError img ≠ 0 then .error 4
  else if !signatureOk (img.drop (img.length - 1024)) (img.take (img.length - 384)) then .error 5
  else if s.bindError img ≠ 0 then .error (s.bindError img)
  else match s.decodeLast img m with
    | .error e => .error e
    | .ok l =>
      let u := ((s.set fLdrStatus_kind (field img 6 2)).setAll (hashWords fLdrMeas_hash m)).set fLdrStatus_partition
        (if field img 6 2 = 2 then field img 0x20 1 else 0)
      if u.lastChecks l = [] then .ok l else .error 0x0B

end Sys2Proof.Machine
end

