-- ==== Sys2Proof/Certificates/Slice0/Obligations.lean ====
section
/-! DEFINITION. What the provers are asked to prove: one statement for each group of rules. A statement of what a command does says
what it answers, what the state it answers holds, and what it leaves alone (`Within`, `RegsKept`). -/

open Sys2Proof Sys2Proof.Machine

/-- Log entries 2 and 3: a step runs the command at the front of the queue on the state with the queue's rest; with nothing waiting the
device idles. -/
def Obligations.StepRunsFront : Prop :=
  (∀ (c : Instr) (s : State), step { s with pending := c :: s.pending } = exec c s) ∧
  (∀ (c : Instr) (rest : List Instr) (s : State), s.pending = c :: rest → step s = exec c { s with pending := rest }) ∧
  ∀ s : State, s.pending = [] → step s = .next s

/-- R24, R26, R344, R65: what generates a tick. TICK at a period boundary of the internal count, an edge within 100 ns of the time
expected, a missed edge, and a job-aligned tick each raise STCH_COUNT by one and start a stitch in which no die has its tick yet; an edge
outside the window is stray; a command that no rule lets happen does nothing.

R30, R31, R32, R191: the points of a stitch. The tick reaches each die once, 64 ns after it is generated; 200 ns later the placed steps
issue, once all dies have it; the slack window opens the slack length before the next tick is due at the dies, and is open until it is
there. Each is passed once in a stitch. A die whose parent is late takes the
alternate parent, or its own count.
Model's choices: log entries 4, 19, 101. -/
def Obligations.Ticks : Prop :=
  ((∀ s : State, s.tickDue = true → s.sourceInForce = 0 →
    ∃ t, exec .tick s = .next t ∧
      t.stitch = (s.stitch + 1) % 2 ^ fStchCount_count.width ∧
      t.clock.tickAt = (if s.stitch = 0 then s.clock.now else s.clock.tickAt + s.period) ∧
      t.clock.arrived = 0 ∧ t.clock.issued = false ∧ t.clock.slackOpen = s.clock.slackOpen ∧
      t.get fDevPins_tick_out_on = 1 ∧ t.get fDevPins_tick_in_seen = 0 ∧
      Within [.regs, .clock] s t ∧ RegsKept [fStchCount_count, fDevPins_tick_out_on, fDevPins_tick_in_seen] s t) ∧
  (∀ (s : State) (at_ : Nat), s.tickDue = true → s.sourceInForce = 1 → s.edgeExpected ≤ at_ + 100 → at_ ≤ s.edgeExpected + 100 →
    ∃ t, exec (.laceTickInEdge at_) s = .next t ∧
      t.stitch = (s.stitch + 1) % 2 ^ fStchCount_count.width ∧ t.clock.refAt = at_ ∧
      18 ≤ t.clock.tickAt - at_ ∧ t.clock.tickAt - at_ ≤ 22 ∧ t.clock.missedRun = 0 ∧ t.clock.arrived = 0 ∧
      t.get fDevPins_tick_in_seen = 1 ∧
      Within [.regs, .clock] s t ∧ RegsKept [fStchCount_count, fDevPins_tick_out_on, fDevPins_tick_in_seen] s t) ∧
  (∀ (s : State) (at_ : Nat), s.clock.running = true → s.sourceInForce = 1 →
    ¬(s.edgeExpected ≤ at_ + 100 ∧ at_ ≤ s.edgeExpected + 100) →
    exec (.laceTickInEdge at_) s = .next (s.bump fStchStatus_stray_edges 1)) ∧
  (∀ s : State, s.tickDue = true → s.sourceInForce = 1 → s.clock.missedRun + 1 < 16 →
    ∃ t, exec .missedEdge s = .next t ∧
      t.stitch = (s.stitch + 1) % 2 ^ fStchCount_count.width ∧ t.clock.refAt = s.edgeExpected + 100 ∧
      t.clock.missedRun = s.clock.missedRun + 1 ∧ t.get fStchStatus_tick_missed = 1 ∧ t.get fDevPins_tick_in_seen = 0 ∧
      t.get fStchStatus_missed_count = satAdd fStchStatus_missed_count.width (s.get fStchStatus_missed_count) 1 ∧
      Within [.regs, .clock] s t ∧
      RegsKept [fStchCount_count, fDevPins_tick_out_on, fDevPins_tick_in_seen, fStchStatus_tick_missed, fStchStatus_missed_count] s t) ∧
  (∀ s : State, s.tickDue = true → s.sourceInForce = 1 → 16 ≤ s.clock.missedRun + 1 →
    ∃ t, exec .missedEdge s = .next t ∧ t.get fStchStatus_fallback = 1 ∧ t.get fStchStatus_tick_missed = 1 ∧
      Within [.regs, .clock, .uci, .flt, .out] s t) ∧
  (∀ s : State, ∃ t, exec .rearm s = .next t ∧ t.clock = { s.clock with missedRun := 0 } ∧
      t.get fStchStatus_fallback = 0 ∧ t.get fStchStatus_missed_count = 0 ∧ t.get fStchStatus_stray_edges = 0 ∧
      Within [.regs, .clock] s t ∧ RegsKept [fStchStatus_fallback, fStchStatus_missed_count, fStchStatus_stray_edges] s t) ∧
  (∀ (s : State) (k : Nat), s.tickDue = true → s.sourceInForce = 2 →
    ∃ t, exec (.jobAlignedTick k) s = .next t ∧
      t.stitch = (s.stitch + 1) % 2 ^ fStchCount_count.width ∧ t.get fOutJobStitch_stitch = k % 2 ^ fOutJobStitch_stitch.width ∧
      t.outer = { s.outer with ptp := { s.outer.ptp with
        offset := s.outer.ptp.offset + s.phaseStep, pending := s.outer.ptp.pending - s.phaseStep } } ∧
      t.clock.tickAt = max (((k * s.period : Nat) : Int) - (s.outer.ptp.offset + s.phaseStep)).toNat s.clock.now ∧
      Within [.regs, .clock, .outer] s t ∧
      RegsKept [fStchCount_count, fDevPins_tick_out_on, fDevPins_tick_in_seen, fOutJobStitch_stitch] s t) ∧
  (∀ s : State, s.tickDue = false → exec .tick s = .next s ∧ exec .missedEdge s = .next s ∧ ∀ k, exec (.jobAlignedTick k) s = .next s)) ∧
  ((∀ (s : State) (d : Die), s.clock.running = true → s.stitch ≠ 0 → s.clock.arrived ≠ 0 → s.clock.arrived.testBit d.val = false →
    ∃ t, exec (.tickArrival d) s = .next t ∧
      t.clock = { (s.advanceTo (s.clock.tickAt + 64)).clock with arrived := setBit s.clock.arrived d.val } ∧
      Within [.regs, .clock, .cfg, .tile, .coh, .eyelets, .dram, .mem, .uci, .outer, .part, .flt, .power, .out, .free] s t) ∧
  (∀ (s : State) (d : Die), s.clock.running = true → s.stitch ≠ 0 → s.clock.arrived = 0 →
    ∃ t, exec (.tickArrival d) s = .next t ∧
      t.clock = { (s.advanceTo (s.clock.tickAt + 64)).clock with
        arrived := setBit 0 d.val, slackOpen := false, missedRun := t.clock.missedRun } ∧
      t.pending = s.pending) ∧
  (∀ s : State, s.clock.running = true → s.clock.issued = false → s.clock.arrived = 255 →
    ∃ t, exec .issuePoint s = .next t ∧
      t.clock = { (s.advanceTo (s.clock.tickAt + 64 + 200)).clock with issued := true } ∧
      Within [.regs, .clock, .cfg, .tile, .coh, .eyelets, .dram, .mem, .uci, .outer, .part, .flt, .power, .out, .free] s t) ∧
  (∀ (s : State) (found : List EccFound), s.clock.running = true → s.clock.issued = true → s.clock.slackOpen = false →
    ∃ t, exec (.slackWindowOpen found) s = .next t ∧
      t.clock = { (s.advanceTo ((if s.sourceInForce = 1 then s.clock.refAt + s.period + 20 else s.clock.tickAt + s.period) + 64 -
        s.slackLen)).clock with slackOpen := true } ∧
      Within [.regs, .clock, .cfg, .ldr, .tile, .coh, .eyelets, .dram, .mem, .uci, .outer, .part, .flt, .awl, .out, .free] s t) ∧
  (∀ (s : State) (d : Die), s.clock.arrived.testBit d.val = true → exec (.tickArrival d) s = .next s) ∧
  (∀ s : State, s.clock.issued = true → exec .issuePoint s = .next s) ∧
  (∀ (s : State) (found : List EccFound), s.clock.slackOpen = true → exec (.slackWindowOpen found) s = .next s) ∧
  ∀ (s : State) (d : Die) (ok : Bool) (skew : BitVec 8), d.val ≠ 0 → s.get (fLaceStatus_parent d) = 0 →
    ∃ t, exec (.laceParentTimeout d ok skew) s = .next t ∧ t.get (fLaceStatus_parent d) = (if ok = true then 1 else 2) ∧
      t.clock = s.clock)

/-- R54, R11: a write of LDR_CTRL with one action. `start` begins a new load where the loader is idle, or ends it at once where the
device is out of service or ENDED, or LDR_LEN is below 256; `apply` acts in STAGED alone, `abort` in FETCH to
STAGED alone. Several actions together perform none. A load whose image could not be read ends in error READ.
Model's choices: log entries 108, 128, 129. -/
def Obligations.LoaderControl : Prop :=
  (∀ (s : State) (v : Word), v.toNat % 8 = 1 → s.loaderIdle = true → s.get fFltStatus_out_of_service = 0 → s.sec.fuses.lc ≠ 4 →
    256 ≤ s.get fLdrLen_len →
    ∃ t, exec (.ldrStart v) s = .next t ∧ t.get fLdrStatus_state = 1 ∧ t.get fLdrStatus_error = 0 ∧ t.get fLdrStatus_check = 0 ∧
      t.get fLdrStatus_kind = 0 ∧ t.get fLdrStatus_partition = 0 ∧ t.get fLdrCtrl_host = bitsAt v.toNat 8 1 ∧
      t.get fLdrCtrl_auto_apply = bitsAt v.toNat 9 1 ∧ t.ldr = { s.ldr with staged := none, committed := false } ∧
      t.sec.badReads = s.sec.badReads.filter (fun r => r != 0) ∧
      (v.toNat.testBit 8 = true → t.coh = s.coh ∧ t.out = (if s.get fUciStatus_link_up = 1 then
        s.out ++ (List.range ((s.get fLdrLen_len + 63) / 64)).map (fun i => .cacheReq .rdCurr (64 * s.get fLdrAddr_addr + 64 * i) 0 [])
        else s.out)) ∧
      (v.toNat.testBit 8 = false → s.heldLines (64 * s.get fLdrAddr_addr) (s.get fLdrLen_len) = [] → t.coh = s.coh) ∧
      ((v.toNat.testBit 8 = true ∨ s.heldLines (64 * s.get fLdrAddr_addr) (s.get fLdrLen_len) = []) →
        Within [.regs, .ldr, .sec, .out] s t ∧
        RegsKept [fLdrStatus_state, fLdrStatus_error, fLdrStatus_check, fLdrStatus_kind, fLdrStatus_partition, fLdrCtrl_host,
          fLdrCtrl_auto_apply] s t)) ∧
  (∀ (s : State) (v : Word), v.toNat % 8 = 1 → s.loaderIdle = true → s.get fFltStatus_out_of_service = 0 → s.sec.fuses.lc ≠ 4 →
    s.get fLdrLen_len < 256 →
    ∃ t, exec (.ldrStart v) s = .next t ∧ t.get fLdrStatus_state = 7 ∧ t.get fLdrStatus_error = 3 ∧ t.ldr.staged = none) ∧
  (∀ (s : State) (v : Word), v.toNat % 8 = 1 → s.loaderIdle = true → (s.get fFltStatus_out_of_service = 1 ∨ s.sec.fuses.lc = 4) →
    ∃ t, exec (.ldrStart v) s = .next t ∧ t.get fLdrStatus_state = 7 ∧ t.get fLdrStatus_error = 0x0D ∧ t.ldr.staged = none) ∧
  (∀ (s : State) (v : Word), v.toNat % 8 = 1 → s.loaderIdle = false →
    ∃ t, exec (.ldrStart v) s = .next t ∧ t.get fLdrStatus_busy_start = 1 ∧ t.get fCfgStatus_busy_write = 1 ∧
      Within [.regs] s t ∧ RegsKept [fLdrStatus_busy_start, fCfgStatus_busy_write, fCfgStatus_busy_offset] s t) ∧
  (∀ (s : State) (v : Word), v.toNat % 8 = 2 → s.get fLdrStatus_state = 4 →
    ∃ t, exec (.ldrApply v) s = .next t ∧ t.get fLdrStatus_state = 5 ∧ Within [.regs] s t ∧
      RegsKept [fLdrStatus_state, fLdrCtrl_host, fLdrCtrl_auto_apply] s t) ∧
  (∀ (s : State) (v : Word), v.toNat % 8 = 2 → s.get fLdrStatus_state ≠ 4 →
    ∃ t, exec (.ldrApply v) s = .next t ∧ t.get fLdrStatus_apply_ignored = 1 ∧ t.get fLdrStatus_state = s.get fLdrStatus_state ∧
      Within [.regs] s t) ∧
  (∀ (s : State) (v : Word), v.toNat % 8 = 4 → 1 ≤ s.get fLdrStatus_state → s.get fLdrStatus_state ≤ 4 →
    ∃ t, exec (.ldrAbort v) s = .next t ∧ t.get fLdrStatus_state = 7 ∧ t.get fLdrStatus_error = 0x0E ∧
      t.ldr = { s.ldr with staged := none, committed := false } ∧
      t.cfg.checks = s.cfg.checks.filter (fun c => !c.viaLoader) ∧ t.cfg.accepted = s.cfg.accepted.filter (fun c => !c.viaLoader) ∧
      Within [.regs, .cfg, .ldr, .uci, .flt, .out] s t) ∧
  (∀ (s : State) (v : Word), v.toNat % 8 = 4 → (s.get fLdrStatus_state = 0 ∨ 4 < s.get fLdrStatus_state) →
    ∃ t, exec (.ldrAbort v) s = .next t ∧ t.get fLdrStatus_state = s.get fLdrStatus_state ∧ t.ldr = s.ldr ∧ Within [.regs] s t) ∧
  (∀ (s : State) (v : Word), s.loaderIdle = true → v.toNat % 8 = 7 →
    exec (.ldrStart v) s = .next (s.setAll [(fLdrCtrl_host, bitsAt v.toNat 8 1), (fLdrCtrl_auto_apply, bitsAt v.toNat 9 1),
      (fLdrStatus_busy_start, 1), (fLdrStatus_apply_ignored, 1)])) ∧
  ∀ (s : State) (img : List Byte), s.get fLdrStatus_state = 1 → s.imageReady 0 = true → s.uciRestarts = false →
    ∃ t, exec (.loadComplete img false) s = .next t ∧ t.get fLdrStatus_state = 7 ∧ t.get fLdrStatus_error = 0x0C ∧
      t.ldr.staged = none ∧ t.ldr.committed = s.ldr.committed

/-- R48: a load whose image has been read ends as the first failing check of the list says, or STAGED (APPLY_PENDING with auto_apply)
with the last that it decoded; one whose image could not be read ends with FETCH; no load ends before every line of its image has
come.
Model's choices: log entries 4, 128, 129, 130, 154. -/
def Obligations.LoadEnds : Prop :=
  (∀ (s u : State) (hostImage img : List Byte) (fetched : Bool), s.get fLdrStatus_state = 1 →
    s.imageReady 0 = true → s.uciRestarts = false → s.fetchImage (s.flag fLdrCtrl_host) (64 * s.get fLdrAddr_addr) (s.get fLdrLen_len) hostImage
      (fetched && !s.sec.badReads.contains 0) = (some img, u) →
    ∃ t, exec (.loadComplete hostImage fetched) s = .next t ∧
      match u.loadVerdict img with
      | .error e => t.get fLdrStatus_state = 7 ∧ t.get fLdrStatus_error = e ∧ t.ldr.staged = none
      | .ok l => t.get fLdrStatus_state = (if t.get fLdrCtrl_auto_apply = 1 then 5 else 4) ∧ t.ldr.staged = some l) ∧
  (∀ (s u : State) (hostImage : List Byte) (fetched : Bool), s.get fLdrStatus_state = 1 →
    s.imageReady 0 = true → s.uciRestarts = false → s.fetchImage (s.flag fLdrCtrl_host) (64 * s.get fLdrAddr_addr) (s.get fLdrLen_len) hostImage
      (fetched && !s.sec.badReads.contains 0) = (none, u) →
    ∃ t, exec (.loadComplete hostImage fetched) s = .next t ∧ t.get fLdrStatus_state = 7 ∧ t.get fLdrStatus_error = 0x0C ∧
      t.ldr.staged = none) ∧
  ∀ (s : State) (hostImage : List Byte) (fetched : Bool), (s.get fLdrStatus_state ≠ 1 ∨ s.imageReady 0 = false ∨ s.uciRestarts = true) →
    exec (.loadComplete hostImage fetched) s = .next s

/-- R58, R60: a commit takes a snapshot of the shadows and waits for its check; one of a group with a pending commit, or of a group
that CFG_COMMIT does not commit, is refused. The check accepts the snapshot with the pending bit, or sets disagree with a failing
code and leaves the accepted commits.
Model's choices: log entries 111, 131. -/
def Obligations.Commits : Prop :=
  (∀ (s : State) (v : Word), v.toNat.testBit 8 = true → v.toNat % 256 = 17 → s.commitPending 17 = false →
    exec (.cfgCommit v) s = .next { s with cfg := { s.cfg with checks := s.cfg.checks ++
      [{ group := 17, fields := [(fPwrCapSet_cap_w.key, s.shadowOf fPwrCapSet_cap_w),
        (fPwrFloorSet_floor_w.key, s.shadowOf fPwrFloorSet_floor_w)] }] } }) ∧
  (∀ (s : State) (v : Word), v.toNat.testBit 8 = true → (v.toNat % 256 ≠ 17 ∨ s.commitPending 17 = true) →
    exec (.cfgCommit v) s = .next (s.set fCfgStatus_commit_refused 1)) ∧
  (∀ (s : State) (n : Fin 16) (p : Nat) (v : Word), s.partOfFn (n.val + 1) = some p → v.toNat.testBit 0 = true →
    s.commitPending (18 + p) = false →
    exec (.partCommit n v) s = .next { s with cfg := { s.cfg with checks := s.cfg.checks ++
      [{ group := 18 + p, fields := (ringFields p).map fun f => (f.key, s.shadowOf f) }] } }) ∧
  (∀ (s : State) (n : Fin 16) (p : Nat) (v : Word), s.partOfFn (n.val + 1) = some p → v.toNat.testBit 0 = true →
    s.commitPending (18 + p) = true → exec (.partCommit n v) s = .next (s.set (fPartCfgStatus_commit_refused p) 1)) ∧
  (∀ (s u : State) (after : Nat) (c : Commit) (cs : List Commit), s.cfg.checks = c :: cs → c.viaLoader = false → c.group = 17 →
    u = { s with cfg := { s.cfg with checks := cs } }.advanceTo (s.clock.now + min 1000 after) → s.commitPending 17 = false →
    u.pwrChecks (c.val fPwrCapSet_cap_w) (c.val fPwrFloorSet_floor_w) = [] →
    exec (.commitCheckDone after) s = .next ({ u with cfg := { u.cfg with
      accepted := s.cfg.accepted ++ [{ c with acceptedAt := s.clock.now + min 1000 after }] } }.setAll
        [(fCfgStatus_pending, 1), (fCfgStatus_pending_group, 17)])) ∧
  (∀ (s u : State) (after p : Nat) (c : Commit) (cs : List Commit), s.cfg.checks = c :: cs → c.viaLoader = false → p < 16 →
    c.group = 18 + p → u = { s with cfg := { s.cfg with checks := cs } }.advanceTo (s.clock.now + min 1000 after) →
    s.commitPending (18 + p) = false → u.ringChecks p (c.rings p) = [] →
    exec (.commitCheckDone after) s = .next ({ u with cfg := { u.cfg with
      accepted := s.cfg.accepted ++ [{ c with acceptedAt := s.clock.now + min 1000 after }] } }.setAll
        [(fPartCfgStatus_pending p, 1), (fPartCfgStatus_pending_group p, 18 + p)])) ∧
  (∀ (s u : State) (after : Nat) (c : Commit) (cs : List Commit), s.cfg.checks = c :: cs → c.viaLoader = false → c.group = 17 →
    u = { s with cfg := { s.cfg with checks := cs } }.advanceTo (s.clock.now + min 1000 after) → s.commitPending 17 = false →
    u.pwrChecks (c.val fPwrCapSet_cap_w) (c.val fPwrFloorSet_floor_w) ≠ [] →
    ∃ t code, exec (.commitCheckDone after) s = .next t ∧ code ∈ u.pwrChecks (c.val fPwrCapSet_cap_w) (c.val fPwrFloorSet_floor_w) ∧
      t.cfg = { s.cfg with checks := cs } ∧ t.get fCfgStatus_disagree = 1 ∧ t.get fCfgStatus_disagree_group = 17 ∧
      t.get fCfgStatus_check = code % 2 ^ fCfgStatus_check.width ∧ Within [.regs, .clock, .cfg, .uci, .out, .free] s t ∧
      RegsKept [fCfgStatus_disagree, fCfgStatus_disagree_group, fCfgStatus_check] s t) ∧
  (∀ (s u : State) (after : Nat) (c : Commit) (cs : List Commit) (l : Last), s.cfg.checks = c :: cs → c.viaLoader = true →
    s.ldr.staged = some l → u = { s with cfg := { s.cfg with checks := cs } }.advanceTo (s.clock.now + min 1000 after) →
    u.lastChecks l = [] →
    exec (.commitCheckDone after) s = .next { u with cfg := { u.cfg with
      accepted := s.cfg.accepted ++ [{ c with acceptedAt := s.clock.now + min 1000 after }] } }) ∧
  (∀ (s u : State) (after : Nat) (c : Commit) (cs : List Commit) (l : Last), s.cfg.checks = c :: cs → c.viaLoader = true →
    s.ldr.staged = some l → u = { s with cfg := { s.cfg with checks := cs } }.advanceTo (s.clock.now + min 1000 after) →
    u.lastChecks l ≠ [] →
    ∃ t code, exec (.commitCheckDone after) s = .next t ∧ code ∈ u.lastChecks l ∧ t.get fLdrStatus_state = 7 ∧
      t.get fLdrStatus_error = 0x0B ∧ t.get fLdrStatus_check = code % 2 ^ fLdrStatus_check.width ∧ t.ldr.staged = none) ∧
  ∀ (s : State) (after : Nat), s.cfg.checks = [] → exec (.commitCheckDone after) s = .next s

/-- R69, R71, R74, R82, R502: an instruction runs only where its group's current path can issue; elsewhere nothing happens, and one
whose program counter is no multiple of 16 or has left the code raises ILLEGAL. One whose line level 1 holds is fetched with no effect
but the issue: the program counter of the path rises by 16, the issue is counted, and what the instruction before returned is gone. The
instructions named are those that a path issues whole. A branch, an exit, a barrier, a rotation and the end instruction change the
paths of their own group or the state of their own tile.
Model's choices: log entries 4, 59, 122. -/
def Obligations.IssueRules : Prop :=
  (∀ (s : State) (t : TileId) (g : Grp) (i : Instr), PathInstr t g i → s.issuing t g = none → exec i s = .next s) ∧
  (∀ (s : State) (t : TileId) (g : Grp) (i : Instr), PathInstr t g i → s.engineFull t i = true → exec i s = .next s) ∧
  (∀ (s : State) (t : TileId) (g : Grp) (i : Instr) (k : Task) (x : Group) (y : Path), PathInstr t g i → s.engineFull t i = false →
    s.issuing t g = some (k, x, y) → s.codeLength k.part ≤ y.pc ∨ y.pc % 16 ≠ 0 →
    exec i s = .next (s.stepFault t g (lowestLane y.mask) 3 y.pc)) ∧
  (∀ (s : State) (t : TileId) (g : Grp) (i : Instr) (k : Task) (x : Group) (y : Path), PathInstr t g i → s.engineFull t i = false →
    s.issuing t g = some (k, x, y) → y.pc < s.codeLength k.part → y.pc % 16 = 0 → (s.readCode t k.part y.pc).1 = false →
    exec i s = .next (s.readCode t k.part y.pc).2) ∧
  (∀ (s : State) (t : TileId) (g : Grp) (k : Task) (x : Group) (y : Path), s.issuing t g = some (k, x, y) →
    y.pc < s.codeLength k.part → y.pc % 16 = 0 →
    ((s.tileAt t).l1.any fun l => l.instr && l.key == (s.codeOffset k.part + y.pc) / 64) = true →
    ∃ u, s.fetchPath t g = (some (k, y), u) ∧
      u.groupAt t g = { x with count := min 64 (x.count + 1), values := [], inst := none,
                               paths := x.paths.mapIdx fun i z => if i = x.cur then { z with pc := z.pc + 16 } else z } ∧
      u.get (fTileCntIssue_count (tileDie t) (tileSite t)) =
        (s.get (fTileCntIssue_count (tileDie t) (tileSite t)) + 1) % 2 ^ (fTileCntIssue_count (tileDie t) (tileSite t)).width ∧
      Within [.regs, .tile] s u ∧ RegsKept [fTileCntIssue_count (tileDie t) (tileSite t)] s u) ∧
  (∀ (s : State) (t : TileId) (g : Grp) (k : Task) (x : Group) (y : Path), s.issuing t g = some (k, x, y) →
    y.pc < s.codeLength k.part → y.pc % 16 = 0 → (s.readCode t k.part y.pc).1 = true →
    s.fetchPath t g = (some (k, y), (s.readCode t k.part y.pc).2.issued t g)) ∧
  (∀ (s u : State) (t : TileId) (g : Grp) (k : Task) (y : Path), s.fetchPath t g = (some (k, y), u) →
    ∃ w, exec (.readLaneStatus t g) s = .next w ∧ (w.groupAt t g).values = ((List.range 32).filter fun i => y.mask.testBit i).map
        (fun i => (i, (u.groupAt t g).status)) ∧ Within [.tile] u w) ∧
  (∀ (s u : State) (t : TileId) (g : Grp) (k : Task) (y z : Path) (taken : LaneMask) (target reconv : Nat),
    s.fetchPath t g = (some (k, y), u) → y.mask ≠ 0 → y.lanes taken.toNat = y.mask →
    (u.groupAt t g).paths[(u.groupAt t g).cur]? = some z → (∀ x ∈ (u.groupAt t g).paths, x.splits = []) →
    ∃ w, exec (.branch t g taken target reconv) s = .next w ∧
      (w.groupAt t g).paths[(u.groupAt t g).cur]? = some { z with pc := target } ∧
      (∀ h : Grp, h ≠ g → w.groupAt t h = u.groupAt t h) ∧ Within [.tile] u w) ∧
  (∀ (s u v : State) (t : TileId) (g : Grp) (k : Task) (y : Path) (lanes : LaneMask), s.fetchPath t g = (some (k, y), u) →
    y.lanes lanes.toNat ≠ 0 → v = u.setGroup t g ((u.groupAt t g).drop (y.lanes lanes.toNat)) →
    exec (.exit t g lanes) s = .next (((v.settleGroup t g).checkBarriers t).settleGroup t g)) ∧
  (∀ (s u v w : State) (t : TileId) (g : Grp) (k : Task) (y : Path) (lanes : LaneMask) (kind : BarKind) (n : Fin 16),
    s.fetchPath t g = (some (k, y), u) → y.lanes lanes.toNat ≠ 0 → v = u.drainAll t g k.part →
    w = v.setGroup t g { v.groupAt t g with
      bars := (v.groupAt t g).bars ++ ((List.range 32).filter fun i => (y.lanes lanes.toNat).testBit i).map
        fun i => { lane := i, kind := kind, number := n.val } } →
    exec (.barrier t g lanes kind n) s = .next (((w.settleGroup t g).checkBarriers t).settleGroup t g)) ∧
  (∀ (s : State) (t : TileId) (g : Grp) (i : Nat), 64 ≤ (s.groupAt t g).count → (s.groupAt t g).nextReady = some i →
    ∃ u, exec (.pathRotate t g) s = .next u ∧ u.groupAt t g = { s.groupAt t g with cur := i, count := 0 } ∧
      (∀ h : Grp, h ≠ g → u.groupAt t h = s.groupAt t h) ∧ Within [.regs, .tile] s u ∧
      RegsKept [fTileCntRotate_count (tileDie t) (tileSite t)] s u) ∧
  ∀ (s : State) (t : TileId) (k : Task), s.taskOn t = some k → k.phase = .running → (s.tileAt t).ending = false →
    s.liveGroups t = [] → (s.tileAt t).passes = [] → (s.tileAt t).running = none →
    ∃ u, exec (.endInstruction t) s = .next u ∧ (u.tileAt t).ending = true

/-- R68, R263, R264, R198: what a lane loads and where its stores go. A scratch load takes the bytes of the store queue and the others
from the tile store; a load from a full level-1 line takes the line's bytes; an access beyond the scratch raises STORE_BOUNDS. A
store enters the store queue, from where a later load takes it; the tile store changes when the entry drains.
Model's choices: log entries 3, 25, 124. -/
def Obligations.LoadsAndStores : Prop :=
  (∀ (s u : State) (t : TileId) (g : Grp) (lane : Fin 32) (k : Task) (y : Path) (off len : Nat),
    s.fetchLane t g lane 0 = (some (k, y), u) → u.outOfStore t off len = false →
    ∃ w, exec (.laneLoad t g lane (.scratch off) len) s = .next w ∧
      (lane.val, leNat ((u.scratchRead t off len).mapIdx fun i b => ((u.groupAt t g).queued true (off + i)).getD b)) ∈
        (w.groupAt t g).values ∧
      Within [.tile] u w) ∧
  (∀ (s u : State) (t : TileId) (g : Grp) (lane : Fin 32) (k : Task) (y : Path) (off len : Nat),
    s.fetchLane t g lane 0 = (some (k, y), u) → u.outOfStore t off len = true →
    exec (.laneLoad t g lane (.scratch off) len) s = .next ((u.stepFault t g lane 4 y.pc).settleGroup t g)) ∧
  (∀ (s u : State) (t : TileId) (g : Grp) (lane : Fin 32) (k : Task) (y : Path) (l : L1Line) (pa len : Nat),
    s.fetchLane t g lane 0 = (some (k, y), u) → 0 < len →
    pa % 64 + len ≤ 64 → (u.groupAt t g).queue = [] → u.l1Line t (pa / 64) = some l →
    (∀ i < len, l.valid.testBit (pa % 64 + i) = true) →
    ∃ w, exec (.laneLoad t g lane (.mem pa) len) s = .next w ∧
      (lane.val, leNat ((List.range len).map fun i => l.data.getD (pa % 64 + i) 0#8)) ∈ (w.groupAt t g).values ∧
      Within [.tile] u w) ∧
  (∀ (s u : State) (t : TileId) (g : Grp) (lane : Fin 32) (k : Task) (y : Path) (pa len : Nat),
    s.fetchLane t g lane 0 = (some (k, y), u) →
    exec (.laneLoad t g lane (.mem pa) len) s = .next (((granules pa len).foldl
      (fun w e => w.loadPart t g lane k.part len e.1 e.2.1 e.2.2) u).settleGroup t g)) ∧
  (∀ (s u : State) (t : TileId) (g : Grp) (lane : Fin 32) (k : Task) (y : Path) (off : Nat) (data : List Byte),
    s.fetchLane t g lane 1 = (some (k, y), u) →
    off % 64 + data.length ≤ 64 → (∀ e ∈ (u.groupAt t g).queue, e.data.length = 64) → s.outOfStore t off data.length = false →
    (s.groupAt t g).hasRoom true (granules off data.length) = true →
    ∃ w, exec (.laneStore t g lane (.scratch off) data) s = .next w ∧
      (∀ i < data.length, (w.groupAt t g).queued true (off + i) = data[i]?) ∧ Within [.tile] u w) ∧
  (∀ (s u : State) (t : TileId) (g : Grp) (lane : Fin 32) (k : Task) (y : Path) (pa : Nat) (data : List Byte),
    s.fetchLane t g lane 1 = (some (k, y), u) →
    pa % 64 + data.length ≤ 64 → (∀ e ∈ (u.groupAt t g).queue, e.data.length = 64) →
    (s.groupAt t g).hasRoom false (granules pa data.length) = true →
    ∃ w, exec (.laneStore t g lane (.mem pa) data) s = .next w ∧
      (∀ i < data.length, (w.groupAt t g).queued false (pa + i) = data[i]?) ∧ Within [.tile] u w) ∧
  (∀ (s u : State) (t : TileId) (g : Grp) (lane : Fin 32) (k : Task) (y : Path) (off : Nat) (data : List Byte),
    s.fetchLane t g lane 1 = (some (k, y), u) → s.outOfStore t off data.length = true →
    exec (.laneStore t g lane (.scratch off) data) s = .next ((u.stepFault t g lane 4 y.pc).settleGroup t g)) ∧
  (∀ (s : State) (t : TileId) (g : Grp) (lane : Fin 32) (pa : Nat) (data : List Byte),
    (s.groupAt t g).hasRoom false (granules pa data.length) = false → exec (.laneStore t g lane (.mem pa) data) s = .next s) ∧
  (∀ (s : State) (t : TileId) (g : Grp) (lane : Fin 32) (kind : Nat) (k : Task) (x : Group) (y : Path), s.issuing t g = some (k, x, y) →
    y.mask.testBit lane.val = true → lowestLane y.mask = lane.val →
    (s.fetchPath t g).1 = some (k, y) →
    ∃ u, s.fetchLane t g lane kind = (some (k, y), u) ∧
      ((u.groupAt t g).inst = some { kind := kind, pc := y.pc, mask := y.mask, left := clearBit y.mask lane }) ∧
      Within [.tile] (s.fetchPath t g).2 u) ∧
  (∀ (s : State) (t : TileId) (g : Grp) (lane : Fin 32) (kind : Nat) (k : Task) (z : LaneInst), s.issuing t g = none →
    s.taskOn t = some k → k.phase = .running → (s.tileAt t).ending = false → (s.groupAt t g).inst = some z → z.kind = kind →
    z.left.testBit lane.val = true →
    s.fetchLane t g lane kind = (some (k, { mask := z.mask, pc := z.pc }),
      s.setGroup t g { s.groupAt t g with inst := some { z with left := clearBit z.left lane } })) ∧
  (∀ (s : State) (t : TileId) (g : Grp) (k : Task) (e : SqEntry) (n : Nat), s.taskOn t = some k → (s.groupAt t g).queue[n]? = some e →
    e.scratch = true →
    ∃ u, exec (.storeQueueDrain t g n) s = .next u ∧
      u.tile.scratch = mapSetMasked 0#8 s.tile.scratch (t.val * 2 ^ 20 + e.base) e.mask e.data ∧
      (u.groupAt t g).queue = (s.groupAt t g).queue.eraseIdx n ∧ Within [.tile, .scratch] s u) ∧
  (∀ (s : State) (t : TileId) (g : Grp) (k : Task) (e : SqEntry) (h : PageHit) (n : Nat), s.taskOn t = some k →
    (s.groupAt t g).queue[n]? = some e → e.scratch = false → s.translate k.part e.base = some h →
    exec (.storeQueueDrain t g n) s = .next ((s.setQueue t g ((s.groupAt t g).queue.eraseIdx n)).l1Store t k.part (e.base / 64)
      h.homeOf e.mask e.data)) ∧
  ∀ (s : State) (t : TileId) (g : Grp) (n : Nat), (s.groupAt t g).queue[n]? = none → exec (.storeQueueDrain t g n) s = .next s

/-- R260, R261, R81, R218, R219: fences, parked paths and pins. An acquire leaves no valid clean byte in a covered line of level 1.
Model's choice: log entry 4. -/
def Obligations.FencesAndPins : Prop :=
  (∀ (s u : State) (t : TileId) (g : Grp) (k : Task) (y : Path) (scope : BitVec 3), s.fetchPath t g = (some (k, y), u) →
    scope.toNat ≤ 4 →
    ∃ w, exec (.fence t g 1 scope) s = .next w ∧
      (∀ l ∈ (w.tileAt t).l1, l.instr = false → covers scope.toNat (tileDie t) l.home = true → l.valid = l.dirty ∧ l.valid ≠ 0) ∧
      Within [.tile, .coh] u w) ∧
  (∀ (s u : State) (t : TileId) (g : Grp) (k : Task) (y : Path) (ordering : BitVec 2) (scope : BitVec 3),
    s.fetchPath t g = (some (k, y), u) → 2 ≤ ordering.toNat → scope.toNat ≤ 4 →
    exec (.fence t g ordering scope) s = .next ((u.releaseThen t g k.part scope.toNat []
      (.fence (ordering.toNat == 3))).settleGroup t g)) ∧
  (∀ (s u : State) (t : TileId) (g : Grp) (k : Task) (y : Path) (ordering : BitVec 2) (scope : BitVec 3),
    s.fetchPath t g = (some (k, y), u) → (ordering = 0 ∨ 4 < scope.toNat) →
    exec (.fence t g ordering scope) s = .next ((u.stepFault t g (lowestLane y.mask) 3 y.pc).settleGroup t g)) ∧
  (∀ (s : State) (t : TileId) (g : Grp) (y : Path) (n since : Nat) (gs : List (Bool × Nat)), (s.groupAt t g).paths[n]? = some y →
    y.state = .parked gs since →
    ∃ u, exec (.parkTimeout t g n) s = .next u ∧ (u.groupAt t g).paths[n]? = some { y with state := .run } ∧
      Within [.tile] s u) ∧
  (∀ (s : State) (t : TileId) (g : Grp) (y : Path) (n : Nat), (s.groupAt t g).paths[n]? = some y → y.state = .run →
    exec (.parkTimeout t g n) s = .next s) ∧
  (∀ (s u : State) (t : TileId) (g : Grp) (k : Task) (y : Path) (addrs : List (Fin 32 × Nat)), s.fetchPath t g = (some (k, y), u) →
    exec (.pin t g addrs) s = .next ((u.pinLanes t g k.part y.mask addrs State.pinLine).settleGroup t g) ∧
    exec (.unpin t g addrs) s = .next ((u.pinLanes t g k.part y.mask addrs State.unpinLine).settleGroup t g)) ∧
  (∀ (s : State) (p pa : Nat) (h : PageHit) (l : L3Line), s.translate p pa = some h → h.spill = false →
    s.l3Line (lineOf h.bulk h.addr) = some l → l.pinned = true →
    s.pinLine p pa = (1, s) ∧ (s.unpinLine p pa).1 = 5 ∧
      ∀ m ∈ (s.unpinLine p pa).2.coh.l3, m.line = l.line → m.pinned = false) ∧
  (∀ (s : State) (p pa : Nat) (h : PageHit), s.translate p pa = some h → h.spill = false →
    s.l3Line (lineOf h.bulk h.addr) = none →
    s.pinShare (dpaDie h.addr) p < s.pinnedIn (lineOf h.bulk h.addr) h.bulk p + 1 →
    (s.pinLine p pa).1 = 2 ∧ s.unpinLine p pa = (6, s)) ∧
  ∀ (s : State) (p pa : Nat) (h : PageHit), s.translate p pa = some h → h.spill = true →
    s.pinLine p pa = (4, s.bump (fL3PartRefused_not_homed 0 p) 1) ∧ s.unpinLine p pa = (4, s.bump (fL3PartRefused_not_homed 0 p) 1)

/-- R159, R245, R270, R81: atomics, reductions and the hinted compare-and-swap. An atomic of a scratch granule without release or
acquire acts at once; the others act when the release that their ordering asks for is done (`State.runOps`).
Model's choices: log entries 20, 60. -/
def Obligations.Atomics : Prop :=
  (∀ (s u : State) (t : TileId) (g : Grp) (k : Task) (y : Path) (op : LaneOp) (off n : Nat) (fn ty : BitVec 8)
      (round : BitVec 3) (scope : BitVec 3), s.fetchLane t g op.lane 2 = (some (k, y), u) →
    op.loc = .scratch off → scope.toNat ≤ 4 → elemBytes ty.toNat = some n →
    (if fn.toNat = fnSwap ∨ fn.toNat = fnCas then swapAllows ty.toNat = true
      else opAllows fn.toNat ty.toNat = true ∧ u.roundOf k.part round.toNat < 4) →
    u.outOfStore t off n = false → (∀ e ∈ (u.groupAt t g).queue, e.scratch = true → e.base ≠ alignDown off 64) →
    u.taskOn t = some k → (∃ z ∈ (u.groupAt t g).paths, z.mask.testBit op.lane.val = true) → (u.groupAt t g).paths.length ≤ 32 →
    (∀ e ∈ (u.tileAt t).groups, ∀ z ∈ e.2.paths, ∀ a b c, z.state ≠ .waiting a b c) →
    ∃ w, exec (.atomic t g op fn ty round 0 scope) s = .next w ∧
      (op.lane.val, leNat (u.scratchRead t off n)) ∈ (w.groupAt t g).values ∧
      w.tile.scratch = (u.scratchWrite t off (toLE n (elementOp fn.toNat ty.toNat (u.roundOf k.part round.toNat) (u.satMode k.part)
        (leNat (u.scratchRead t off n)) op.operand.toNat op.compare.toNat))).tile.scratch ∧
      Within [.tile, .scratch] u w) ∧
  (∀ (s u : State) (t : TileId) (g : Grp) (k : Task) (y : Path) (op : LaneOp) (pa : Nat) (fn ty : BitVec 8)
      (round : BitVec 3) (ordering : BitVec 2) (scope : BitVec 3), s.fetchLane t g op.lane 2 = (some (k, y), u) →
    op.loc = .mem pa → scope.toNat ≤ 4 →
    (if fn.toNat = fnSwap ∨ fn.toNat = fnCas then swapAllows ty.toNat = true
      else opAllows fn.toNat ty.toNat = true ∧ u.roundOf k.part round.toNat < 4) →
    exec (.atomic t g op fn ty round ordering scope) s = .next ((u.runOps t g (((u.groupAt t g).pathOf op.lane).getD 0) k.part [op]
      fn.toNat ty.toNat (u.roundOf k.part round.toNat) (if 2 ≤ ordering.toNat then scope.toNat else 0)
      (if ordering.toNat % 2 = 1 then some scope.toNat else none) false false).settleGroup t g)) ∧
  (∀ (s u : State) (t : TileId) (g : Grp) (k : Task) (y : Path) (ops mine : List LaneOp) (n : Nat) (fn ty : BitVec 8)
      (round : BitVec 3), s.fetchPath t g = (some (k, y), u) →
    mine = ops.filter (fun o => y.mask.testBit o.lane) → elemBytes ty.toNat = some n → opAllows fn.toNat ty.toNat = true →
    u.roundOf k.part round.toNat < 4 → (∀ o ∈ mine, ∃ pa, o.loc = .mem pa ∧ pa % n = 0) →
    exec (.reduce t g fn ty round ops) s = .next ((u.runOps t g (u.groupAt t g).cur k.part mine fn.toNat ty.toNat
      (u.roundOf k.part round.toNat) 0 none true false).settleGroup t g)) ∧
  (∀ (s u : State) (t : TileId) (g : Grp) (k : Task) (y : Path) (ops : List LaneOp) (o : LaneOp) (n off : Nat)
      (fn ty : BitVec 8) (round : BitVec 3), s.fetchPath t g = (some (k, y), u) →
    ops = [o] → y.mask.testBit o.lane.val = true → (o.loc = .scratch off ∨ o.loc = .mem off ∧ off % n ≠ 0) →
    elemBytes ty.toNat = some n →
    exec (.reduce t g fn ty round ops) s = .next ((u.stepFault t g o.lane 3 y.pc).settleGroup t g)) ∧
  (∀ (s u : State) (t : TileId) (g : Grp) (k : Task) (y : Path) (ops mine : List LaneOp) (ty : BitVec 8),
    s.fetchPath t g = (some (k, y), u) → mine = ops.filter (fun o => y.mask.testBit o.lane) → mine ≠ [] →
    swapAllows ty.toNat = true → (∀ o ∈ mine, ∃ pa, o.loc = .mem pa) →
    exec (.casLockHint t g ty ops) s = .next ((u.runOps t g (u.groupAt t g).cur k.part mine fnCas ty.toNat 0 0 none false
      true).settleGroup t g)) ∧
  (∀ (s u : State) (t : TileId) (g : Grp) (k : Task) (y : Path) (o : LaneOp) (n off : Nat) (ty : BitVec 8),
    s.fetchPath t g = (some (k, y), u) → y.mask = 2 ^ o.lane.val → o.loc = .scratch off →
    swapAllows ty.toNat = true → elemBytes ty.toNat = some n → u.outOfStore t off n = false →
    (∀ e ∈ (u.groupAt t g).queue, e.scratch = true → e.base ≠ alignDown off 64) →
    leNat (u.scratchRead t off n) = o.compare.toNat % 2 ^ (8 * n) →
    ∃ w, exec (.casLockHint t g ty [o]) s = .next w ∧ (o.lane.val, o.compare.toNat % 2 ^ (8 * n)) ∈ (w.groupAt t g).values ∧
      w.tile.scratch = (u.scratchWrite t off (toLE n (o.operand.toNat % 2 ^ (8 * n)))).tile.scratch ∧
      Within [.tile, .scratch] u w) ∧
  ∀ (s u : State) (t : TileId) (g : Grp) (k : Task) (y : Path) (op : LaneOp) (fn ty : BitVec 8) (round : BitVec 3)
      (ordering : BitVec 2) (scope : BitVec 3), s.fetchLane t g op.lane 2 = (some (k, y), u) → 4 < scope.toNat →
    exec (.atomic t g op fn ty round ordering scope) s = .next ((u.stepFault t g op.lane 3 y.pc).settleGroup t g)

/-- R271, R272, R275, R281: eyelets. An addition counts and saturates at 2^63 - 1 with void; a wait holds its path until the count
reaches the target (OK, 0) or void is set (VOID, 1); arming sets the count and clears void; a partition eyelet that the partition does
not hold, and a scope above 4, is ILLEGAL.
Model's choice: log entry 26. -/
def Obligations.Eyelets : Prop :=
  (∀ (s u : State) (t : TileId) (g : Grp) (k : Task) (y : Path) (i e n : Nat) (scope : BitVec 3),
    s.fetchPath t g = (some (k, y), u) → u.eyeletOf k.part i = some e → scope.toNat ≤ 4 →
    ∃ w, exec (.eyeAdd t g i n 0 scope) s = .next w ∧
      w.eye e = (if (u.eye e).count + n < 2 ^ 63 then { u.eye e with count := (u.eye e).count + n } else ⟨2 ^ 63 - 1, true⟩) ∧
      (∀ e', e' ≠ e → w.eye e' = u.eye e') ∧ Within [.regs, .tile, .eyelets] u w ∧
      RegsKept [fEyeCntArrive_count (e / 32768), fEyeStatus_saturated (e / 32768)] u w) ∧
  (∀ (s u : State) (t : TileId) (g : Grp) (k : Task) (y : Path) (i e n : Nat) (scope : BitVec 3),
    s.fetchPath t g = (some (k, y), u) → u.eyeletOf k.part i = some e → scope.toNat ≤ 4 →
    exec (.eyeAdd t g i n 1 scope) s = .next (((u.eyeCount e n).acquire t scope.toNat).settleGroup t g) ∧
    exec (.eyeAdd t g i n 2 scope) s = .next ((u.releaseThen t g k.part scope.toNat [] (.eyeAdd e n)).settleGroup t g) ∧
    exec (.eyeAdd t g i n 3 scope) s =
      .next (((u.releaseThen t g k.part scope.toNat [] (.eyeAdd e n)).acquire t scope.toNat).settleGroup t g)) ∧
  (∀ (s u : State) (t : TileId) (g : Grp) (k : Task) (y : Path) (i n : Nat) (o : BitVec 2) (scope : BitVec 3),
    s.fetchPath t g = (some (k, y), u) → u.eyeletOf k.part i = none →
    let r := (u.stepFault t g (lowestLane y.mask) 3 y.pc).settleGroup t g
    exec (.eyeAdd t g i n o scope) s = .next r ∧ exec (.eyeWait t g i n scope) s = .next r ∧ exec (.eyeArm t g i n) s = .next r ∧
      exec (.eyeRead t g i) s = .next r) ∧
  (∀ (s u : State) (t : TileId) (g : Grp) (k : Task) (y z : Path) (i e n : Nat) (o : BitVec 2) (scope : BitVec 3),
    s.fetchPath t g = (some (k, y), u) → u.eyeletOf k.part i = some e → 4 < scope.toNat →
    (u.groupAt t g).paths[(u.groupAt t g).cur]? = some z →
    exec (.eyeAdd t g i n o scope) s = .next ((u.stepFault t g (lowestLane z.mask) 3 (z.pc - 16)).settleGroup t g) ∧
    exec (.eyeWait t g i n scope) s = .next ((u.stepFault t g (lowestLane z.mask) 3 (z.pc - 16)).settleGroup t g)) ∧
  (∀ (s u : State) (t : TileId) (g : Grp) (k : Task) (y z : Path) (i e target : Nat) (scope : BitVec 3),
    s.fetchPath t g = (some (k, y), u) → u.eyeletOf k.part i = some e → scope.toNat ≤ 4 →
    (u.groupAt t g).paths[(u.groupAt t g).cur]? = some z →
    ∃ w, exec (.eyeWait t g i target scope) s = .next w ∧
      { z with state := .eyeWait e target scope.toNat } ∈ (w.groupAt t g).paths ∧ Within [.tile] u w) ∧
  (∀ (s : State) (t : TileId) (g : Grp) (y : Path) (n e target scope lane : Nat), (s.groupAt t g).paths[n]? = some y →
    y.state = .eyeWait e target scope → (s.eye e).void = true → lane < 32 → y.mask.testBit lane = true →
    ∃ u, exec (.eyeWaitResolve t g n) s = .next u ∧ (lane, 1) ∈ (u.groupAt t g).values ∧
      ((∀ z ∈ (s.groupAt t g).paths, z.splits = []) → (u.groupAt t g).paths[n]? = some { y with state := .run }) ∧
      Within [.regs, .tile] s u ∧ RegsKept [fEyeCntVoid_count (e / 32768)] s u) ∧
  (∀ (s : State) (t : TileId) (g : Grp) (y : Path) (n e target scope lane : Nat), (s.groupAt t g).paths[n]? = some y →
    y.state = .eyeWait e target scope → (s.eye e).void = false → target ≤ (s.eye e).count → lane < 32 → y.mask.testBit lane = true →
    ∃ u, exec (.eyeWaitResolve t g n) s = .next u ∧ (lane, 0) ∈ (u.groupAt t g).values ∧
      ((∀ z ∈ (s.groupAt t g).paths, z.splits = []) → (u.groupAt t g).paths[n]? = some { y with state := .run }) ∧
      (∀ l ∈ (u.tileAt t).l1, l.instr = false → covers scope (tileDie t) l.home = true → l.valid = l.dirty) ∧
      Within [.regs, .tile, .coh] s u ∧ RegsKept [fEyeCntOk_count (e / 32768)] s u) ∧
  (∀ (s : State) (t : TileId) (g : Grp) (y : Path) (n e target scope : Nat), (s.groupAt t g).paths[n]? = some y →
    y.state = .eyeWait e target scope → (s.eye e).void = false → (s.eye e).count < target →
    exec (.eyeWaitResolve t g n) s = .next s) ∧
  (∀ (s u : State) (t : TileId) (g : Grp) (k : Task) (y : Path) (i e v : Nat), s.fetchPath t g = (some (k, y), u) →
    u.eyeletOf k.part i = some e →
    ∃ w, exec (.eyeArm t g i v) s = .next w ∧ w.eye e = ⟨v % 2 ^ 63, false⟩ ∧ (∀ e', e' ≠ e → w.eye e' = u.eye e') ∧
      Within [.tile, .eyelets] u w) ∧
  (∀ (s u : State) (t : TileId) (g : Grp) (k : Task) (y z : Path) (i e : Nat), s.fetchPath t g = (some (k, y), u) →
    u.eyeletOf k.part i = some e → (u.groupAt t g).paths[(u.groupAt t g).cur]? = some z →
    ∃ w, exec (.eyeRead t g i) s = .next w ∧ (w.groupAt t g).values = ((List.range 32).filter fun j => z.mask.testBit j).map
        (fun j => (j, (u.eye e).count + if (u.eye e).void then 2 ^ 63 else 0)) ∧ Within [.tile] u w) ∧
  (∀ (s : State) (n : Fin 16) (p i e : Nat) (v : Word), s.partOfFn (n.val + 1) = some p → i < 65536 → s.eyeletOf p i = some e →
    ∃ u, exec (.eyeCtlAdd n i v) s = .next u ∧
      u.eye e = (if (s.eye e).count + v.toNat % 2 ^ 63 < 2 ^ 63 then { s.eye e with count := (s.eye e).count + v.toNat % 2 ^ 63 }
        else ⟨2 ^ 63 - 1, true⟩) ∧
      (∀ e', e' ≠ e → u.eye e' = s.eye e') ∧ Within [.regs, .eyelets] s u ∧
      RegsKept [fEyeCntArrive_count (e / 32768), fEyeStatus_saturated (e / 32768)] s u) ∧
  (∀ (s : State) (n : Fin 16) (p i e : Nat) (v : Word), s.partOfFn (n.val + 1) = some p → i < 65536 → s.eyeletOf p i = some e →
    exec (.eyeCtlArm n i v) s = .next (s.setEye e ⟨v.toNat % 2 ^ 63, false⟩)) ∧
  ∀ (s : State) (n : Fin 16) (p i : Nat) (v : Word), s.partOfFn (n.val + 1) = some p → i < 65536 → s.eyeletOf p i = none →
    exec (.eyeCtlArm n i v) s = .next (s.badAccess 0x18 (.vf n) (eyeCtlOff i) 8)

/-- R112, R136 to R138, R141 to R146: the status words, and what the conversions and the arithmetic of the lane engine return. The flags
0 to 3 of a lane instruction stay in the lane status word. A format or rounding mode that an instruction does not allow is ILLEGAL.
Model's choices: log entries 5, 27, 28, 29, 49, 134, 135. -/
def Obligations.LaneResults : Prop :=
  (∀ (s u : State) (t : TileId) (g : Grp) (k : Task) (y : Path), s.fetchPath t g = (some (k, y), u) →
    ∃ w, exec (.readProductStatus t g) s = .next w ∧ (w.groupAt t g).values = ((List.range 32).filter fun i => y.mask.testBit i).map
        (fun i => (i, (u.tileAt t).status)) ∧ Within [.tile] u w) ∧
  (∀ (s u : State) (t : TileId) (g : Grp) (k : Task) (y : Path) (src dst : ConvFmt) (v : Word) (sa sb : Byte)
      (round : BitVec 3) (a b : Fmt) (m : Nat), s.fetchPath t g = (some (k, y), u) →
    convFmt src = some (some a) → convFmt dst = some (some b) → u.laneMode k.part round.toNat b = some m →
    ∃ w, exec (.convert t g src dst v sa sb round) s = .next w ∧
      (w.groupAt t g).values = ((List.range 32).filter fun i => y.mask.testBit i).map
        (fun i => (i, (convertElem a b m (u.satMode k.part) v.toNat sa.toNat sb.toNat).1)) ∧
      (w.groupAt t g).status =
        ((u.groupAt t g).status ||| (convertElem a b m (u.satMode k.part) v.toNat sa.toNat sb.toNat).2.bits % 16) ∧
      Within [.tile] u w) ∧
  (∀ (s u : State) (t : TileId) (g : Grp) (k : Task) (y : Path) (dst : ConvFmt) (v : Word) (sa sb : Byte)
      (round : BitVec 3) (b : Fmt) (m : Nat), s.fetchPath t g = (some (k, y), u) →
    convFmt dst = some (some b) → u.laneMode k.part round.toNat b = some m →
    ∃ w, exec (.convert t g .e8m0 dst v sa sb round) s = .next w ∧
      (w.groupAt t g).values = ((List.range 32).filter fun i => y.mask.testBit i).map
        (fun i => (i, (b.write m (u.satMode k.part) sb.toNat (e8m0Read v.toNat)).1)) ∧
      Within [.tile] u w) ∧
  (∀ (s u : State) (t : TileId) (g : Grp) (k : Task) (y : Path) (src : ConvFmt) (v : Word) (sa sb : Byte)
      (round : BitVec 3) (a : Fmt) (c : Nat), s.fetchPath t g = (some (k, y), u) →
    convFmt src = some (some a) → u.roundOf k.part round.toNat < 4 →
    e8m0Write (u.roundOf k.part round.toNat) (a.read v.toNat sa.toNat) = some c →
    ∃ w, exec (.convert t g src .e8m0 v sa sb round) s = .next w ∧
      (w.groupAt t g).values = ((List.range 32).filter fun i => y.mask.testBit i).map (fun i => (i, c)) ∧ Within [.tile] u w) ∧
  (∀ (s u : State) (t : TileId) (g : Grp) (k : Task) (y : Path) (src : ConvFmt) (v : Word) (sa sb : Byte)
      (round : BitVec 3) (a : Fmt), s.fetchPath t g = (some (k, y), u) →
    convFmt src = some (some a) → u.roundOf k.part round.toNat < 4 →
    e8m0Write (u.roundOf k.part round.toNat) (a.read v.toNat sa.toNat) = none →
    ∃ w c, exec (.convert t g src .e8m0 v sa sb round) s = .next w ∧ c < 256 ∧
      (w.groupAt t g).values = ((List.range 32).filter fun i => y.mask.testBit i).map (fun i => (i, c)) ∧
      Within [.tile, .free] u w) ∧
  (∀ (s u : State) (t : TileId) (g : Grp) (k : Task) (y : Path) (src dst : ConvFmt) (v : Word) (sa sb : Byte)
      (round : BitVec 3), s.fetchPath t g = (some (k, y), u) →
    (convFmt src = none ∨ convFmt dst = none ∨ ∃ b, convFmt dst = some b ∧ u.convMode k.part round.toNat b = none) →
    exec (.convert t g src dst v sa sb round) s = .next ((u.stepFault t g (lowestLane y.mask) 3 y.pc).settleGroup t g)) ∧
  (∀ (s u : State) (t : TileId) (g : Grp) (k : Task) (y : Path) (src dst : BitVec 8) (vs : List Word) (sa : Byte)
      (round : BitVec 3) (a b : Fmt) (r : Nat × List Nat × Flags), s.fetchPath t g = (some (k, y), u) →
    laneFmt src.toNat = some a → laneFmt dst.toNat = some b → b.scaled = true → u.laneMode k.part round.toNat b ≠ none →
    r = blockConvert b (u.outRound k.part) (u.satMode k.part) ((vs.take 32).map fun v => a.source v.toNat sa.toNat) →
    ∃ w, exec (.blockConvert t g src dst vs sa round) s = .next w ∧
      (w.groupAt t g).values = (r.2.1.zipIdx.map fun e => (e.2, e.1)) ++ [(32, r.1)] ∧
      (w.groupAt t g).status = ((u.groupAt t g).status ||| r.2.2.bits % 16) ∧ Within [.tile] u w) ∧
  (∀ (s u : State) (t : TileId) (g : Grp) (k : Task) (y : Path) (src dst : BitVec 8) (vs : List Word) (sa : Byte)
      (round : BitVec 3), s.fetchPath t g = (some (k, y), u) →
    (laneFmt src.toNat = none ∨ laneFmt dst.toNat = none ∨
      ∃ b, laneFmt dst.toNat = some b ∧ (b.scaled = false ∨ u.laneMode k.part round.toNat b = none)) →
    exec (.blockConvert t g src dst vs sa round) s = .next ((u.stepFault t g (lowestLane y.mask) 3 y.pc).settleGroup t g)) ∧
  (∀ (s u : State) (t : TileId) (g : Grp) (k : Task) (y : Path) (fmt : BitVec 8) (isMax : Bool) (a b : Word)
      (sa sb sd : Byte) (f : Fmt), s.fetchPath t g = (some (k, y), u) → laneFmt fmt.toNat = some f →
    ∃ w m, exec (.minMax t g fmt isMax a b sa sb sd) s = .next w ∧ m < 4 ∧
      (w.groupAt t g).values = ((List.range 32).filter fun i => y.mask.testBit i).map (fun i => (i,
        match chooseMinMax isMax (f.read a.toNat sa.toNat) (f.read b.toNat sb.toNat) with
        | some true => if f.scaled = false ∨ sa = sd then a.toNat % 2 ^ f.bits
            else (convertElem f f m (u.satMode k.part) a.toNat sa.toNat sd.toNat).1
        | some false => if f.scaled = false ∨ sb = sd then b.toNat % 2 ^ f.bits
            else (convertElem f f m (u.satMode k.part) b.toNat sb.toNat sd.toNat).1
        | none => (f.write 0 (u.satMode k.part) sd.toNat (.nan false)).1)) ∧
      Within [.tile, .free] u w) ∧
  (∀ (s u : State) (t : TileId) (g : Grp) (k : Task) (y : Path) (fmt : BitVec 8) (isMax : Bool) (a b : Word)
      (sa sb sd : Byte), s.fetchPath t g = (some (k, y), u) → laneFmt fmt.toNat = none →
    exec (.minMax t g fmt isMax a b sa sb sd) s = .next ((u.stepFault t g (lowestLane y.mask) 3 y.pc).settleGroup t g)) ∧
  (∀ (s u : State) (t : TileId) (g : Grp) (k : Task) (y : Path) (op : ArithOp) (fmt : BitVec 8) (a b c : Word)
      (round : BitVec 3) (f : FpFmt) (m : Nat), s.fetchPath t g = (some (k, y), u) →
    (fmt = 1 ∨ fmt = 2) → laneFmt fmt.toNat = some (.binary f) → u.laneMode k.part round.toNat (.binary f) = some m →
    nanOf (arithOperands op (f.read a.toNat) (f.read b.toNat) (f.read c.toNat)) = none →
    ∃ w, exec (.laneArithmetic t g op fmt a b c round) s = .next w ∧
      (w.groupAt t g).values = ((List.range 32).filter fun i => y.mask.testBit i).map
        (fun i => (i, (f.finish m 1 (arithVal op m (f.read a.toNat) (f.read b.toNat) (f.read c.toNat))).1)) ∧
      (w.groupAt t g).status = ((u.groupAt t g).status |||
        (f.finish m 1 (arithVal op m (f.read a.toNat) (f.read b.toNat) (f.read c.toNat))).2.bits % 16) ∧
      Within [.tile] u w) ∧
  (∀ (s u : State) (t : TileId) (g : Grp) (k : Task) (y : Path) (op : ArithOp) (fmt : BitVec 8) (a b c : Word)
      (round : BitVec 3) (f : FpFmt) (m : Nat) (fl : Flags), s.fetchPath t g = (some (k, y), u) →
    (fmt = 1 ∨ fmt = 2) → laneFmt fmt.toNat = some (.binary f) → u.laneMode k.part round.toNat (.binary f) = some m →
    nanOf (arithOperands op (f.read a.toNat) (f.read b.toNat) (f.read c.toNat)) = some fl →
    ∃ w, exec (.laneArithmetic t g op fmt a b c round) s = .next w ∧
      (w.groupAt t g).values = ((List.range 32).filter fun i => y.mask.testBit i).map (fun i => (i, f.nanCode.getD 0)) ∧
      Within [.tile, .free] u w) ∧
  (∀ (s u : State) (t : TileId) (g : Grp) (k : Task) (y : Path) (op : ArithOp) (fmt : BitVec 8) (a b c : Word)
      (round : BitVec 3), s.fetchPath t g = (some (k, y), u) →
    (fmt ≠ 1 ∧ fmt ≠ 2 ∨ 4 < u.roundOf k.part round.toNat) →
    exec (.laneArithmetic t g op fmt a b c round) s = .next ((u.stepFault t g (lowestLane y.mask) 3 y.pc).settleGroup t g)) ∧
  ∀ (s u : State) (t : TileId) (g : Grp) (k : Task) (y : Path), s.fetchPath t g = (some (k, y), u) →
    ∃ w, exec (.readLaneStatus t g) s = .next w ∧ (w.groupAt t g).values = ((List.range 32).filter fun i => y.mask.testBit i).map
        (fun i => (i, (u.groupAt t g).status)) ∧ (w.groupAt t g).status = (u.groupAt t g).status ∧ Within [.tile] u w

/-- R73, R74, R76, R78, R79: branches, path rotation, exit, barriers and the end instruction of a thread group. A target that no
instruction can stand at is ILLEGAL when the path fetches it (IssueRules).
Model's choices: log entries 24, 123, 142. -/
def Obligations.PathControl : Prop :=
  (∀ (s u : State) (t : TileId) (g : Grp) (k : Task) (y : Path) (taken : LaneMask) (target reconv : Nat),
    s.fetchPath t g = (some (k, y), u) → y.lanes taken.toNat = 0 →
    exec (.branch t g taken target reconv) s = .next (u.settleGroup t g)) ∧
  (∀ (s u : State) (t : TileId) (g : Grp) (k : Task) (y z : Path) (taken : LaneMask) (target reconv : Nat),
    s.fetchPath t g = (some (k, y), u) → y.mask ≠ 0 → y.lanes taken.toNat = y.mask →
    (u.groupAt t g).paths[(u.groupAt t g).cur]? = some z → (∀ x ∈ (u.groupAt t g).paths, x.splits = []) →
    ∃ w, exec (.branch t g taken target reconv) s = .next w ∧
      (w.groupAt t g).paths[(u.groupAt t g).cur]? = some { z with pc := target } ∧ Within [.tile] u w) ∧
  (∀ (s u : State) (t : TileId) (g : Grp) (k : Task) (y z : Path) (taken : LaneMask) (target reconv : Nat),
    s.fetchPath t g = (some (k, y), u) → y.lanes taken.toNat ≠ 0 → y.lanes taken.toNat ≠ y.mask → y.splits = [] →
    (u.groupAt t g).paths[(u.groupAt t g).cur]? = some z → (u.groupAt t g).paths.length < 32 → reconv ≠ target → reconv ≠ z.pc →
    (∀ x ∈ (u.groupAt t g).paths, x.splits = []) →
    ∃ w, exec (.branch t g taken target reconv) s = .next w ∧
      (w.groupAt t g).paths = ((u.groupAt t g).paths.mapIdx fun i x => if i = (u.groupAt t g).cur then
        { z with mask := y.mask - y.lanes taken.toNat, splits := [((u.groupAt t g).splitNo, reconv)] } else x) ++
        [{ mask := y.lanes taken.toNat, pc := target, splits := [((u.groupAt t g).splitNo, reconv)] }] ∧
      Within [.tile] u w) ∧
  (∀ (s u : State) (t : TileId) (g : Grp) (k : Task) (y : Path) (taken : LaneMask) (target reconv : Nat),
    s.fetchPath t g = (some (k, y), u) → y.lanes taken.toNat ≠ 0 → y.lanes taken.toNat ≠ y.mask →
    32 ≤ (u.groupAt t g).paths.length →
    exec (.branch t g taken target reconv) s = .next ((u.stepFault t g (lowestLane y.mask) 2 y.pc).settleGroup t g)) ∧
  (∀ (s : State) (t : TileId) (g : Grp) (i : Nat), 64 ≤ (s.groupAt t g).count → (s.groupAt t g).nextReady = some i →
    exec (.pathRotate t g) s = .next ((s.setGroup t g { s.groupAt t g with cur := i, count := 0 }).addTo
      (fTileCntRotate_count (tileDie t) (tileSite t)) 1)) ∧
  (∀ (s : State) (t : TileId) (g : Grp), ((s.groupAt t g).count < 64 ∨ (s.groupAt t g).nextReady = none) →
    exec (.pathRotate t g) s = .next s) ∧
  (∀ (s u : State) (t : TileId) (g : Grp) (k : Task) (y : Path) (lanes : LaneMask), s.fetchPath t g = (some (k, y), u) →
    y.lanes lanes.toNat ≠ 0 →
    exec (.exit t g lanes) s = .next ((((u.setGroup t g ((u.groupAt t g).drop (y.lanes lanes.toNat))).settleGroup t g).checkBarriers
      t).settleGroup t g)) ∧
  (∀ (s u : State) (t : TileId) (g : Grp) (k : Task) (y : Path) (lanes : LaneMask) (kind : BarKind) (n : Fin 16),
    s.fetchPath t g = (some (k, y), u) → y.lanes lanes.toNat = 0 →
    exec (.exit t g lanes) s = .next (u.settleGroup t g) ∧ exec (.barrier t g lanes kind n) s = .next (u.settleGroup t g)) ∧
  (∀ (x : Group) (lanes i : Nat), (x.drop lanes).live.testBit i = (x.live.testBit i && !lanes.testBit i) ∧
    (∀ y ∈ (x.drop lanes).paths, y.mask ≠ 0 ∧ y.mask &&& lanes = 0)) ∧
  (∀ (s u v : State) (t : TileId) (g : Grp) (k : Task) (y : Path) (lanes : LaneMask) (kind : BarKind) (n : Fin 16),
    s.fetchPath t g = (some (k, y), u) → y.lanes lanes.toNat ≠ 0 → v = u.drainAll t g k.part →
    exec (.barrier t g lanes kind n) s = .next ((((v.setGroup t g { v.groupAt t g with
        bars := (v.groupAt t g).bars ++ ((List.range 32).filter fun i => (y.lanes lanes.toNat).testBit i).map
          fun i => { lane := i, kind := kind, number := n.val } }).settleGroup t g).checkBarriers t).settleGroup t g)) ∧
  (∀ (s : State) (t : TileId) (k : Task), s.taskOn t = some k → k.phase = .running → (s.tileAt t).ending = false →
    s.liveGroups t = [] → (s.tileAt t).passes = [] → (s.tileAt t).running = none →
    ∃ u, exec (.endInstruction t) s = .next u ∧ (u.tileAt t).ending = true ∧ (u.tileAt t).l1 = []) ∧
  ∀ (s : State) (t : TileId), s.liveGroups t ≠ [] → exec (.endInstruction t) s = .next s

/-- R33, R193, R318: the end of a step, task barriers on the lace, and the phase byte of a completion record.

R191, R192: a die whose parent is late takes the alternate parent, or runs on its own count; from its own count it does not switch
again; CD0, which generates the tick, has no parent.
Model's choices: log entries 4, 103. -/
def Obligations.StepEndsAndLaceParents : Prop :=
  ((∀ (s : State) (id endNs : Nat) (k : Task), s.taskById id = some k → s.stepOver k = true →
    exec (.stepEnd id endNs) s = .next (s.endStep k endNs)) ∧
  (∀ (s : State) (id endNs : Nat) (k : Task), s.taskById id = some k → s.stepOver k = false → exec (.stepEnd id endNs) s = .next s) ∧
  (∀ (s : State) (id : Nat) (k : Task) (t : TileId) (n : Fin 16), s.taskById id = some k → k.phase = .running →
    t.val ∈ k.tiles → (s.tileAt t).sentBar = some n.val → t.val ∉ mapGet [] k.arrivals n.val →
    (∃ w ∈ k.tiles, w ≠ t.val ∧ w ∉ mapGet [] k.arrivals n.val) →
    exec (.laceArrival id t n) s = .next (s.setTask { k with
      arrivals := mapSet [] k.arrivals n.val (mapGet [] k.arrivals n.val ++ [t.val]) })) ∧
  (∀ (s : State) (id : Nat) (k : Task) (t : TileId) (n : Fin 16), s.taskById id = some k → k.phase = .running →
    t.val ∈ k.tiles → (s.tileAt t).sentBar = some n.val → t.val ∉ mapGet [] k.arrivals n.val →
    (∀ w ∈ k.tiles, w = t.val ∨ w ∈ mapGet [] k.arrivals n.val) → s.jobBarrierOf k n = none →
    ∃ u, exec (.laceArrival id t n) s = .next u ∧ u.tile.tasks = s.tile.tasks.map (fun x => if x.id = k.id then { k with
        arrivals := mapSet [] k.arrivals n.val (mapGet [] k.arrivals n.val ++ [t.val]), completed := k.completed ++ [n.val] } else x) ∧
      Within [.tile] s u) ∧
  (∀ (s : State) (id : Nat) (k k' : Task) (t : TileId) (n : Fin 16) (j : JobSec) (b : JobBarrier), s.taskById id = some k →
    k.phase = .running → t.val ∈ k.tiles → (s.tileAt t).sentBar = some n.val → t.val ∉ mapGet [] k.arrivals n.val →
    (∀ w ∈ k.tiles, w = t.val ∨ w ∈ mapGet [] k.arrivals n.val) → s.jobBarrierOf k n = some (j, b) →
    k' = { k with arrivals := mapSet [] k.arrivals n.val (mapGet [] k.arrivals n.val ++ [t.val]) } →
    exec (.laceArrival id t n) s = .next (if 1 < j.memberCount then (s.setTask k').taskArrives k.part j k' b
      else (s.setTask k').soloArrives k.part j b.jobBarrier)) ∧
  (∀ (s : State) (id : Nat) (k : Task) (d : Die) (n : Fin 16), s.taskById id = some k → n.val ∈ k.completed →
    (∀ t ∈ k.tiles, (s.tileAt t).sentBar = some n.val → tileDie t = d.val) →
    exec (.laceCompletion id d n) s = .next ((s.releaseTask k d n).setTask { k with
      arrivals := mapSet [] k.arrivals n.val [], completed := k.completed.erase n.val })) ∧
  (∀ (s : State) (id : Nat) (k : Task) (d : Die) (n : Fin 16), s.taskById id = some k → n.val ∉ k.completed →
    exec (.laceCompletion id d n) s = .next s) ∧
  (∀ (s : State) (p : PIdx) (cq : Fin 16) (index : Nat) (r : RecordSt),
    s.part.records.find? (fun x => x.part == p.val && x.cq == cq.val && x.index == index && x.accepted && !x.phase) = some r →
    exec (.phaseByteWrite p cq index) s = .next ((s.setRecords (s.part.records.map fun x =>
      if x = r then { x with phase := true } else x)).schedWrite p (s.cqBase p cq + 64 + index % s.cqEntries p cq * 32 + 31)
        [BitVec.ofNat 8 ((index / s.cqEntries p cq + 1) % 2)] (.recordPhase p cq index))) ∧
  ∀ (s : State) (p : PIdx) (cq : Fin 16) (index : Nat), (∀ r ∈ s.part.records, r.accepted = false) →
    exec (.phaseByteWrite p cq index) s = .next s) ∧
  ((∀ (s : State) (d : Die) (ok : Bool) (skew : BitVec 8), d.val ≠ 0 → s.get (fLaceStatus_parent d) ≠ 2 →
    ∃ u, exec (.laceParentTimeout d ok skew) s = .next u ∧
      u.get (fLaceStatus_parent d) = (if s.get (fLaceStatus_parent d) = 0 ∧ ok = true then 1 else 2) ∧
      u.get (fLaceStatus_skew_ns d) = skew.toNat ∧
      u.get (fLaceStatus_switches d) = satAdd (fLaceStatus_switches d).width (s.get (fLaceStatus_switches d)) 1 ∧
      Within [.regs, .uci, .flt, .out] s u ∧
      RegsKept (eventFields s ++ [fLaceStatus_parent d, fLaceStatus_skew_ns d, fLaceStatus_switches d]) s u) ∧
  ∀ (s : State) (d : Die) (ok : Bool) (skew : BitVec 8), (d.val = 0 ∨ s.get (fLaceStatus_parent d) = 2) → exec (.laceParentTimeout d ok skew) s = .next s)

/-- R106, R107, R108, R105: the product array. A legal descriptor enters the queue; the pass at its head starts once its gate has
counted, outside the slack window, or is skipped where the gate is void; its completion writes the bank, the output and the status.
Model's choices: log entries 30, 32, 63. -/
def Obligations.ProductPasses : Prop :=
  (∀ (s u v : State) (t : TileId) (g : Grp) (k : Task) (y : Path) (desc : Nat) (b : List Byte),
    s.fetchPath t g = (some (k, y), v) → (s.tileAt t).passes.length < 4 →
    u = v.drainAll t g k.part → b = u.scratchRead t desc 64 → desc % 64 = 0 → desc + 64 ≤ u.scratchSize t →
    u.passLegal k.part b (readPass b) = true → (∀ e ∈ (readPass b).ends, e ≤ u.scratchSize t) →
    exec (.passInstruction t g desc) s = .next ((u.setTile t { u.tileAt t with
      passes := (u.tileAt t).passes ++ [readPass b] }).settleGroup t g)) ∧
  (∀ (s u v : State) (t : TileId) (g : Grp) (k : Task) (y : Path) (desc : Nat) (b : List Byte),
    s.fetchPath t g = (some (k, y), v) → (s.tileAt t).passes.length < 4 →
    u = v.drainAll t g k.part → b = u.scratchRead t desc 64 → desc % 64 = 0 → desc + 64 ≤ u.scratchSize t →
    u.passLegal k.part b (readPass b) = false → (∀ e ∈ (readPass b).ends, e ≤ u.scratchSize t) →
    exec (.passInstruction t g desc) s = .next ((u.stepFault t g (lowestLane y.mask) 3 y.pc).settleGroup t g)) ∧
  (∀ (s : State) (t : TileId) (g : Grp) (desc : Nat), 4 ≤ (s.tileAt t).passes.length →
    exec (.passInstruction t g desc) s = .next s) ∧
  (∀ (s : State) (t : TileId) (k : Task) (d : PassDesc) (rest : List PassDesc), s.taskOn t = some k → k.phase = .running →
    (s.tileAt t).passes = d :: rest → (s.tileAt t).running = none → s.clock.slackOpen = false →
    (∀ e, s.eyeletOf k.part d.gate = some e → (s.eye e).void = false ∧ d.gateCount ≤ (s.eye e).count) →
    exec (.productPassStart t) s = .next (s.setTile t { s.tileAt t with passes := rest, running := some d })) ∧
  (∀ (s : State) (t : TileId) (k : Task) (d : PassDesc) (rest : List PassDesc) (e : Nat), s.taskOn t = some k → k.phase = .running →
    (s.tileAt t).passes = d :: rest → (s.tileAt t).running = none → s.eyeletOf k.part d.gate = some e → (s.eye e).void = true →
    exec (.productPassStart t) s = .next ((s.setTile t { s.tileAt t with
      passes := rest, status := (s.tileAt t).status ||| 32 }).passDone k.part d)) ∧
  (∀ (s : State) (t : TileId) (k : Task) (d : PassDesc) (rest : List PassDesc) (e : Nat), s.taskOn t = some k →
    (s.tileAt t).passes = d :: rest → (s.tileAt t).running = none → s.eyeletOf k.part d.gate = some e → (s.eye e).void = false →
    (s.eye e).count < d.gateCount → exec (.productPassStart t) s = .next s) ∧
  ∀ (s : State) (t : TileId) (k : Task) (d : PassDesc) (fa fb fo : Fmt) (r : PassResult), s.taskOn t = some k →
    (s.tileAt t).running = some d → operandFmt d.aFmt = some fa → operandFmt d.bFmt = some fb → outputFmt d.outFmt = some fo →
    r = passRun d fa fb fo (s.scratchRead t) (s.bankOf t d.bank) (s.outRound k.part) (s.satMode k.part) →
    ∃ u, exec (.productPassComplete t) s = .next u ∧ (u.tileAt t).running = none ∧
      (u.tileAt t).status = ((s.tileAt t).status ||| r.flags.bits) ∧ u.tile.banks = (s.setBank t d.bank r.rows).tile.banks ∧
      u.tile.scratch = (r.writes.foldl (fun v w => v.scratchWrite t w.1 w.2) s).tile.scratch ∧
      (∀ e, s.eyeletOf k.part d.done = some e → u.eye e = (s.eyeCount e (passCount d fo)).eye e) ∧
      Within [.regs, .tile, .scratch, .banks, .eyelets] s u

/-- R113, R116, R117, R119: the copy engine. A legal descriptor starts a copy; each byte of it leaves at most once, in whole granules, and
in a scheduled copy only where its stream leads; a copy within a tile store puts its bytes at their destination.
Model's choices: log entries 4, 58, 141. -/
def Obligations.Copies : Prop :=
  (∀ (s u v : State) (t : TileId) (g : Grp) (k : Task) (y : Path) (desc : Nat) (b : List Byte),
    s.fetchPath t g = (some (k, y), v) → s.clock.slackOpen = false → (s.tileAt t).copies.length < 16 →
    u = v.drainAll t g k.part → b = u.scratchRead t desc 64 → desc % 64 = 0 → desc + 64 ≤ u.scratchSize t →
    u.copyLegal k b (readCopy b) = true → (∀ e ∈ (readCopy b).ends, e ≤ u.scratchSize t) → (readCopy b).src ≠ 3 →
    (readCopy b).dst ≠ 3 → u.copyEyelet k.part (readCopy b) = none →
    exec (.copyInstruction t g desc) s = .next ((({ u with tile := { u.tile with taskNo := u.tile.taskNo + 1 } } : State).setTile t
      { u.tileAt t with copies := (u.tileAt t).copies ++
        [{ id := u.tile.taskNo, task := k.id, desc := readCopy b }] }).settleGroup t g)) ∧
  (∀ (s u v : State) (t : TileId) (g : Grp) (k : Task) (y : Path) (desc : Nat) (b : List Byte),
    s.fetchPath t g = (some (k, y), v) → s.clock.slackOpen = false → (s.tileAt t).copies.length < 16 →
    u = v.drainAll t g k.part → b = u.scratchRead t desc 64 → desc % 64 = 0 → desc + 64 ≤ u.scratchSize t →
    u.copyLegal k b (readCopy b) = true → (∃ e ∈ (readCopy b).ends, u.scratchSize t < e) →
    exec (.copyInstruction t g desc) s = .next ((u.stepFault t g (lowestLane y.mask) 4 y.pc).settleGroup t g)) ∧
  (∀ (s : State) (t : TileId) (g : Grp) (desc : Nat), (s.clock.slackOpen = true ∨ 16 ≤ (s.tileAt t).copies.length) →
    exec (.copyInstruction t g desc) s = .next s) ∧
  (∀ (s : State) (t : TileId) (id first len : Nat) (c : Copy) (k : Task), s.copyOn t id = some c → s.taskById c.task = some k →
    0 < len → first + len ≤ c.desc.total → (∀ e ∈ c.moved, e.1 + e.2 ≤ first ∨ first + len ≤ e.1) → c.desc.src ≠ 3 →
    c.desc.atEdge first = true → c.desc.atEdge (first + len) = true →
    (c.desc.scheduled = true → ∀ i < len, s.canMove t k c.desc (first + i) = true) →
    exec (.copyArrival t id first len) s = .next (s.copyLeave t k c first len)) ∧
  (∀ (s : State) (t : TileId) (id first len : Nat) (c : Copy) (k : Task), s.copyOn t id = some c → s.taskById c.task = some k →
    c.desc.src = 0 → c.desc.dst = 0 → c.desc.scheduled = false → c.desc.length = c.desc.total → 0 < len → first + len ≤ c.desc.total →
    c.desc.atEdge first = true → c.desc.atEdge (first + len) = true → (c.desc.dstAddr + first) % 64 + len ≤ 64 → c.moved = [] →
    c.held = [] → s.fenced t = false → s.copyEyelet k.part c.desc = none →
    ∃ u, exec (.copyArrival t id first len) s = .next u ∧
      ∀ i < len, mapGet 0#8 u.tile.scratch (t.val * 2 ^ 20 + (c.desc.dstAddr + first) + i) =
        mapGet 0#8 s.tile.scratch (t.val * 2 ^ 20 + (c.desc.srcAddr + first) + i)) ∧
  ∀ (s : State) (t : TileId) (id first len : Nat) (c : Copy), s.copyOn t id = some c →
    (len = 0 ∨ c.desc.total < first + len ∨ (∃ e ∈ c.moved, e.1 < first + len ∧ first < e.1 + e.2) ∨ c.desc.atEdge first = false ∨
      c.desc.atEdge (first + len) = false ∨
      (c.desc.scheduled = true ∧ ∃ k i, s.taskById c.task = some k ∧ i < len ∧ s.canMove t k c.desc (first + i) = false)) →
    exec (.copyArrival t id first len) s = .next s

/-- R168, R181, R182, R189: suspect routers and links. Credit timeouts and parity errors name a router, the eighth resend of one flit in
succession a link; the loopback check of the router, made once, declares it or links of it dead and calls for new routes; new routes
raise the epoch.
Model's choice: log entry 39. -/
def Obligations.MeshFailures : Prop :=
  (∀ (s : State) (d : Die) (site : Site) (port : Fin 5) (plane : Fin 2) (again : Bool) (key run : Nat) (l : Nat × Nat × Nat),
    key = (d.val * 272 + site.val) * 10 + port.val * 2 + plane.val → l = (d.val * 272 + site.val, port.val, plane.val) →
    run = (if again = true then mapGet 0 s.flt.retryRuns key + 1 else 1) →
    ∃ u, exec (.flitRetry d site port ⟨plane, again⟩) s = .next u ∧
      u.get (fMeshCntRetry_count d) = (s.get (fMeshCntRetry_count d) + 1) % 2 ^ (fMeshCntRetry_count d).width ∧
      u.flt = { s.flt with retryRuns := mapSet 0 s.flt.retryRuns key run, suspectLinks :=
        if run = 8 ∧ l ∉ s.flt.suspectLinks then s.flt.suspectLinks ++ [l] else s.flt.suspectLinks } ∧
      Within [.regs, .flt] s u ∧ RegsKept [fMeshCntRetry_count d] s u) ∧
  (∀ (s : State) (d : Die) (site : Site) (port : Fin 5), d.val * 272 + site.val ∉ s.flt.suspectRouters →
    exec (.creditTimeout d site port) s =
      .next { s with flt := { s.flt with suspectRouters := s.flt.suspectRouters ++ [d.val * 272 + site.val] } } ∧
    exec (.routerParityError d site) s =
      .next { s with flt := { s.flt with suspectRouters := s.flt.suspectRouters ++ [d.val * 272 + site.val] } }) ∧
  (∀ (s : State) (d : Die) (site : Site) (port : Fin 5), d.val * 272 + site.val ∈ s.flt.suspectRouters →
    exec (.creditTimeout d site port) s = .next s ∧ exec (.routerParityError d site) s = .next s) ∧
  (∀ (s v : State) (d : Die) (site : Site) (links : List (Fin 5 × Fin 2)),
    (d.val * 272 + site.val ∈ s.flt.suspectRouters ∨ ∃ l ∈ s.flt.suspectLinks, l.1 = d.val * 272 + site.val) →
    v = { s with flt := { s.flt with
      suspectRouters := s.flt.suspectRouters.erase (d.val * 272 + site.val),
      suspectLinks := s.flt.suspectLinks.filter fun l => l.1 != d.val * 272 + site.val } } →
    exec (.loopbackCheck d site false links) s = .next (v.routerDies d site).excuse ∧
    exec (.loopbackCheck d site true links) s = .next (links.foldl (fun (u : State) e => u.linkDies d site e.1 e.2) v).excuse) ∧
  (∀ (s : State) (d : Die) (site : Site) (ok : Bool) (links : List (Fin 5 × Fin 2)), d.val * 272 + site.val ∉ s.flt.suspectRouters →
    (∀ l ∈ s.flt.suspectLinks, l.1 ≠ d.val * 272 + site.val) → exec (.loopbackCheck d site ok links) s = .next s) ∧
  (∀ (s : State) (d : Die) (site : Site) (port : Fin 5) (plane : Fin 2),
    (d.val * 272 + site.val ∈ s.flt.suspectRouters ∨ ∃ l ∈ s.flt.suspectLinks, l.1 = d.val * 272 + site.val) →
    s.linkDead d site port plane = false →
    ∃ u, exec (.loopbackCheck d site true [(port, plane)]) s = .next u ∧ u.linkDead d site port plane = true ∧
      d.val ∈ u.flt.rerouting) ∧
  (∀ (s : State) (d : Die) (site : Site) (links : List (Fin 5 × Fin 2)),
    (d.val * 272 + site.val ∈ s.flt.suspectRouters ∨ ∃ l ∈ s.flt.suspectLinks, l.1 = d.val * 272 + site.val) →
    s.routerDead d site = false →
    ∃ u, exec (.loopbackCheck d site false links) s = .next u ∧ d.val ∈ u.flt.rerouting) ∧
  (∀ (s : State) (d : Die), d.val ∈ s.flt.rerouting →
    ∃ u, exec (.routesRewritten d) s = .next u ∧
      u.get (fMeshStatus_route_epoch d) = (s.get (fMeshStatus_route_epoch d) + 1) % 2 ^ (fMeshStatus_route_epoch d).width ∧
      u.flt.rerouting = s.flt.rerouting.erase d.val ∧
      Within [.regs, .tile, .mesh, .eyelets, .uci, .flt, .out] s u) ∧
  ∀ (s : State) (d : Die), d.val ∉ s.flt.rerouting → exec (.routesRewritten d) s = .next s

/-- R183, R188, R189, R458, R390: lanes and groups of the welts. A flagged lane takes the next spare, which trains, switches and
retires it; a seventh replacement, or a sender that times out, fails the group for good; calibration moves on to the next lane of a raw or
multiplexed group.
Model's choices: log entries 4, 71, 136. -/
def Obligations.WeltLanes : Prop :=
  (∀ (s : State) (d : Die) (e : Fin 4) (g : Grp) (w : Nat), weltAt d e = some w →
    exec (.weltReplay d e g) s = .next (s.addTo (fWeltCntReplay_count d e) 1)) ∧
  (∀ (s : State) (d : Die) (e : Fin 4) (g : Grp) (lane : Fin 256) (lace : Bool), weltAt d e = none →
    exec (.weltReplay d e g) s = .next s ∧ exec (.laneFlag d e g lane lace) s = .next s ∧
      exec (.weltSendTimeout d e g) s = .next s ∧ exec (.calibrationMove d e g) s = .next s) ∧
  (∀ (s : State) (d : Die) (e : Fin 4) (g : Grp) (lane : Fin 256) (w used : Nat), weltAt d e = some w → s.weltMode w g ≠ 3 →
    (∀ x ∈ s.awl.swapping, x.1 = groupKey d e g → x.2.1 ≠ lane.val) →
    (∀ x ∈ s.awl.laneUse, x.1 = groupKey d e g → x.2.1 ≠ lane.val) →
    used = s.get (fWeltSpares_used d e g) + s.swapsOf (groupKey d e g) → used < 6 →
    ∃ u, exec (.laneFlag d e g lane false) s = .next u ∧
      u.awl.swapping = s.awl.swapping ++ [(groupKey d e g, lane.val, used, 0)] ∧
      (groupKey d e g ∈ u.awl.calStopped ↔ groupKey d e g ∈ s.awl.calStopped ∨ used = 5)) ∧
  (∀ (s : State) (d : Die) (e : Fin 4) (g : Grp) (lane : Fin 256) (w : Nat), weltAt d e = some w → s.weltMode w g ≠ 3 →
    (∀ x ∈ s.awl.swapping, x.1 = groupKey d e g → x.2.1 ≠ lane.val) →
    (∀ x ∈ s.awl.laneUse, x.1 = groupKey d e g → x.2.1 ≠ lane.val) →
    6 ≤ s.get (fWeltSpares_used d e g) + s.swapsOf (groupKey d e g) →
    exec (.laneFlag d e g lane false) s = .next (s.groupFails d w g)) ∧
  (∀ (s : State) (d : Die) (e : Fin 4) (g : Grp) (lane : Fin 256) (w used : Nat), weltAt d e = some w →
    (∀ x ∈ s.awl.swapping, x.1 = laceKey d e → x.2.1 ≠ lane.val) → (∀ x ∈ s.awl.laneUse, x.1 = laceKey d e → x.2.1 ≠ lane.val) →
    lane.val < 16 → used = s.get (fWeltLace_spares_used d e) + s.swapsOf (laceKey d e) →
    exec (.laneFlag d e g lane true) s = .next { s with awl := { s.awl with
      swapping := s.awl.swapping ++ [(laceKey d e, lane.val, used, if used < 2 then 0 else 3)] } }) ∧
  (∀ (s : State) (d : Die) (e : Fin 4) (g : Grp) (lane : Fin 256), 16 ≤ lane.val → exec (.laneFlag d e g lane true) s = .next s) ∧
  (∀ (s : State) (d : Die) (e : Fin 4) (g : Grp) (x : Nat × Nat × Nat × Nat), s.swapAt d e g 0 = some x →
    exec (.spareTrained d e g) s = .next { s with awl := { s.awl with
      swapping := s.awl.swapping.map fun y => if y = x then (x.1, x.2.1, x.2.2.1, 1) else y } }) ∧
  (∀ (s : State) (d : Die) (e : Fin 4) (g : Grp) (x : Nat × Nat × Nat × Nat), s.swapAt d e g 1 = some x →
    exec (.laneSwitch d e g) s = .next { s with awl := { s.awl with
      swapping := s.awl.swapping.map fun y => if y = x then (x.1, x.2.1, x.2.2.1, 2) else y } }) ∧
  (∀ (s : State) (d : Die) (e : Fin 4) (g : Grp) (us : Fin 16) (x : Nat × Nat × Nat × Nat) (w : Nat), s.swapAt d e g 2 = some x →
    weltAt d e = some w →
    ∃ u, exec (.laneRetire d e g us) s = .next u ∧ u.awl = { s.awl with
        swapping := s.awl.swapping.erase x, laneUse := s.awl.laneUse ++ [(x.1, x.2.1, x.2.2.1)] } ∧
      u.get (fWeltRepairLog_group d e) = g ∧ (x.2.1 < 256 → u.get (fWeltRepairLog_lane d e) = x.2.1 ∧ u.free = s.free) ∧ u.get (fWeltRepairLog_duration_us d e) = us.val ∧
      u.get (fWeltRepairLog_stitch d e) = s.stitch % 2 ^ (fWeltRepairLog_stitch d e).width ∧
      u.get (fWeltCntRepair_count d e) = (s.get (fWeltCntRepair_count d e) + 1) % 2 ^ (fWeltCntRepair_count d e).width ∧
      Within [.regs, .awl, .uci, .flt, .out, .free] s u) ∧
  (∀ (s : State) (d : Die) (e : Fin 4) (g : Grp), s.swapAt d e g 0 = none → exec (.spareTrained d e g) s = .next s) ∧
  (∀ (s : State) (d : Die) (e : Fin 4) (g : Grp) (w : Nat), weltAt d e = some w →
    exec (.weltSendTimeout d e g) s = .next (s.groupFails d w g)) ∧
  (∀ (s : State) (d : Die) (e : Fin 4) (g : Grp) (w : Nat), weltAt d e = some w → s.weltMode w g = 0 →
    ∃ u, exec (.weltSendTimeout d e g) s = .next u ∧ u.weltMode w g = 3) ∧
  (∀ (s : State) (d : Die) (e : Fin 4) (g : Grp) (w : Nat), weltAt d e = some w → (s.weltMode w g = 1 ∨ s.weltMode w g = 2) →
    groupKey d e g ∉ s.awl.calStopped →
    exec (.calibrationMove d e g) s = .next (s.setAwl { s.awl with
      calibration := (mapSet 0 s.awl.calibration (groupKey d e g) ((mapGet 0 s.awl.calibration (groupKey d e g) + 1) %
        (258 + (5 - min 5 (s.get (fWeltSpares_used d e g) + s.swapsOf (groupKey d e g)))))),
      calMoveAt := mapSet 0 s.awl.calMoveAt (groupKey d e g) (s.clock.now + 1) })) ∧
  ∀ (s : State) (d : Die) (e : Fin 4) (g : Grp), groupKey d e g ∈ s.awl.calStopped → exec (.calibrationMove d e g) s = .next s

/-- R213 to R215, R286 to R288: a fill of a slice. A line that no request waits for is not filled; a fill without uncorrectable units
fills the line's frame, if it has one, and serves the requests that wait in order; one with such a unit logs it and fails them.
Model's choices: log entries 4, 52, 148. -/
def Obligations.SliceFills : Prop :=
  (∀ (s : State) (d : Die) (line : Nat) (bulk : Bool) (found : List EccFound),
    (s.trackerOf line = none ∨ ∃ q ∈ s.coh.aluQ, lineOf q.msg.bulk q.msg.addr = line) →
    exec (.sliceFill d line bulk found) s = .next s.serveHome) ∧
  (∀ (s w : State) (d : Die) (line : Nat) (bulk : Bool) (k : Tracker), s.trackerOf line = some k →
    (∀ q ∈ s.coh.aluQ, lineOf q.msg.bulk q.msg.addr ≠ line) → (∀ e ∈ s.dram.latent, unitIn line (lineBytes bulk) e.1 = false) →
    s.ueIn line (lineBytes bulk) = [] → w = s.setTrackers (s.coh.trackers.filter fun x => x.line != line) →
    exec (.sliceFill d line bulk []) s = .next (((match w.l3Line line with
      | some l => w.updateL3 { l with valid := fullMask bulk, data := w.filled line bulk }
      | none => w).serveFill line bulk (1 < (k.waiters.filter fun (x : Msg × Nat) => x.1.opcode != 5 && x.1.opcode != 6).length)
        (w.filled line bulk) k.waiters).serveHome)) ∧
  (∀ (s : State) (d : Die) (line : Nat) (bulk : Bool) (k : Tracker) (l : L3Line), s.trackerOf line = some k → s.coh.aluQ = [] →
    s.dram.ue = [] → s.dram.latent = [] → s.l3Line line = some l → l.valid = 0 → l.dirty = 0 → k.waiters = [] → s.coh.homeWait = [] →
    ∃ u, exec (.sliceFill d line bulk []) s = .next u ∧ u.trackerOf line = none ∧
      (∀ l, u.l3Line line = some l → l.data = s.dramBytes line (lineBytes bulk) ∧ l.valid = fullMask bulk ∧ l.dirty = 0)) ∧
  (∀ (s w : State) (d : Die) (line u : Nat) (us : List Nat) (bulk : Bool) (k : Tracker) (m : Msg) (g : Nat),
    s.trackerOf line = some k → s.coh.aluQ = [] → s.dram.latent = [] → s.ueIn line (lineBytes bulk) = u :: us →
    s.l3Line line = none → k.waiters = [(m, g)] → m.opcode ≠ 5 →
    w = s.setTrackers (s.coh.trackers.filter fun x => x.line != line) →
    exec (.sliceFill d line bulk []) s = .next ((((u :: us).foldl (fun (v : State) x => v.logUe x (w.detectorOf m)) w).failFill line u
      [(m, g)]).serveHome)) ∧
  (∀ (s : State) (f : EccFound), 0 < f.symbols → f.symbols ≤ 3 → f.onDie = false →
    mapGet 0 s.dram.ce (rowKey (f.unit * 64)) + 1 ≠ 16 →
    (s.applyFound f).dram.ue = s.dram.ue ∧ (s.applyFound f).dram.mem = s.dram.mem ∧
      mapGet 0 (s.applyFound f).dram.ce (rowKey (f.unit * 64)) = mapGet 0 s.dram.ce (rowKey (f.unit * 64)) + 1 ∧
      (s.applyFound f).get (fDramCntCe_count (dpaDie (f.unit * 64))) =
        (s.get (fDramCntCe_count (dpaDie (f.unit * 64))) + 1) % 2 ^ (fDramCntCe_count (dpaDie (f.unit * 64))).width) ∧
  ∀ (s : State) (f : EccFound), 4 ≤ f.symbols → f.symbols ≤ 5 →
    f.unit ∈ (s.applyFound f).dram.ue ∧ (s.applyFound f).dram.mem = s.dram.mem

/-- R162, R220, R245: the ALU of a DRAM controller applies the oldest operation to its element in DRAM and answers with the value before
it, or with nothing for a reduction.

R290, R291, R295: refresh, temperature and repair of the DRAM stacks. A fill takes DRAM's
bytes and leaves them as they are.
Model's choices: log entries 4, 140, 148. -/
def Obligations.Dram : Prop :=
  ((∀ (s : State) (d : Die) (ch : Fin 64) (m : Msg) (n a : Nat) (old bs : List Byte), s.coh.aluQ = [⟨d.val, ch.val, m⟩] → m.opcode = 6 →
    elemBytes m.ty = some n → a = lineOf m.bulk m.addr + alignDown m.mask 64 → s.ueIn a 64 = [] → a / 64 ∉ s.dram.ue →
    (∀ e ∈ s.dram.latent, e.1 ≠ a / 64 ∧ unitIn a 64 e.1 = false) → s.coh.homeWait = [] →
    s.aluApply { m with mask := m.mask % 64 } (s.dramBytes a 64) = (old, bs) → s.deadAt (dpaDie m.addr) m.source = false →
    ∃ u, exec (.dramAluOp d ch []) s = .next u ∧ u.coh.aluQ = [] ∧
      u.dram.mem = mapSetMasked 0#8 s.dram.mem a ((2 ^ n - 1) * 2 ^ (m.mask % 64)) bs ∧
      u.coh.net = s.coh.net ++ [{
        opcode := 0x13, srcDie := dpaDie m.addr, srcSite := homeSite m.addr, tag := m.tag, part := m.part, gen := m.gen,
        addr := m.addr, bulk := m.bulk, unit := m.unit, state := 0, requester := m.source, dst := replyDst m, spill := m.spill,
        data := if m.reduction then [] else old }] ∧ Within [.coh, .mem] s u) ∧
  (∀ (s v : State) (d : Die) (ch : Fin 64) (m : Msg) (a x : Nat) (xs : List Nat), s.coh.aluQ = [⟨d.val, ch.val, m⟩] → m.opcode = 6 →
    a = lineOf m.bulk m.addr + alignDown m.mask 64 → s.dram.latent = [] → s.ueIn a 64 = x :: xs →
    v = (((s.setAluQ []).logUe x 2).respond m 0x14).memoryFault m.part (x * 64) →
    exec (.dramAluOp d ch []) s = .next (v.drainWrites d ch v.coh.aluQ).serveHome) ∧
  (∀ (s : State) (m : Msg) (line : List Byte) (n : Nat), elemBytes m.ty = some n → m.mask + n ≤ line.length → m.fn = 0 →
    (s.aluApply m line).1 = slice line m.mask n ∧
      (s.aluApply m line).2.length = line.length ∧
      leNat (slice (s.aluApply m line).2 m.mask n) = (leNat (slice line m.mask n) + m.operand.toNat) % 2 ^ (8 * n)) ∧
  ∀ (s : State) (d : Die) (ch : Fin 64) (found : List EccFound), s.coh.aluQ = [] →
    exec (.dramAluOp d ch found) s = .next s.serveHome) ∧
  ((∀ (s : State) (d : Die) (ch : Fin 64),
    exec (.refreshCommand d ch) s = .next (({ s with dram := { s.dram with rotation := (mapSet 0 s.dram.rotation (d.val * 64 + ch.val)
      ((mapGet 0 s.dram.rotation (d.val * 64 + ch.val) + 1) % (112 * 3072))) } } : State).addTo (fDramChRefresh_count d ch) 1)) ∧
  (∀ (s : State) (d : Die) (readings rs : List Nat), rs = (List.range 28).map (dramReading (mapGet {} s.power.dies d.val).sensorsOut readings) →
    ∃ u, exec (.dramSensorSample d readings) s = .next u ∧
      u.get (fDramStatus_max_temp_c d) = rs.foldl max 0 / 10 % 2 ^ (fDramStatus_max_temp_c d).width ∧
      mapGet [] u.dram.readings d.val = rs ∧
      u.get (fDramStatus_refresh_fast d) = (if 850 < rs.foldl max 0 then 1 else s.get (fDramStatus_refresh_fast d)) ∧
      (820 < rs.foldl max 0 → mapGet none u.dram.coolSince d.val = none) ∧ Within [.regs, .dram, .uci, .flt, .out] s u) ∧
  (∀ (s : State) (d : Die) (at_ : Nat), mapGet none s.dram.coolSince d.val = some at_ → s.get (fDramStatus_refresh_fast d) = 1 →
    exec (.refreshSlowReturn d) s = .next ((s.set (fDramStatus_refresh_fast d) 0).event d 0x17 0 (s.get (fDramStatus_max_temp_c d)))) ∧
  (∀ (s : State) (d : Die), (mapGet none s.dram.coolSince d.val = none ∨ s.get (fDramStatus_refresh_fast d) = 0) →
    exec (.refreshSlowReturn d) s = .next s) ∧
  (∀ (s : State) (d : Die) (mine : List Nat), mine = s.dram.candidates.filter (fun k => k / 2 ^ 27 == d.val) →
    (s.sec.flash.repairList.filter fun e => e.1 == d.val).length + mine.length ≤ 256 →
    ∃ u, exec (.repairListWrite d) s = .next u ∧ u.sec.flash.repairList = s.sec.flash.repairList ++ mine.map (fun k => (d.val, k % 2 ^ 27)) ∧
      u.dram.candidates = s.dram.candidates.filter (fun k => k / 2 ^ 27 != d.val) ∧
      u.get (fDramPpr_candidates d) = (u.sec.flash.repairList.filter fun e => e.1 == d.val).length % 2 ^ (fDramPpr_candidates d).width ∧
      u.get (fDramPpr_unrepairable d) = (u.sec.flash.repairList.filter fun e => e.1 == d.val &&
        u.sparesLeft (candidateBank e) == 0).length % 2 ^ (fDramPpr_unrepairable d).width ∧
      Within [.regs, .dram, .flash] s u ∧ RegsKept [fDramPpr_candidates d, fDramPpr_unrepairable d] s u) ∧
  (∀ (s : State) (d : Die) (k : Nat), s.dram.candidates = [k] → k / 2 ^ 27 = d.val →
    256 ≤ (s.sec.flash.repairList.filter fun e => e.1 == d.val).length →
    ∃ u, exec (.repairListWrite d) s = .next u ∧ u.sec.flash = s.sec.flash ∧ u.get (fDramPpr_list_full d) = 1 ∧ u.dram.candidates = []) ∧
  (∀ (s : State) (p : PIdx) (l : DeviceLast), s.dev = some l → s.partState p = 1 → (s.partSt p).zeroing = true →
    s.waitsForPool p = false → (∀ e ∈ s.coh.dir, l.holds p e.line = false) →
    ∃ u, exec (.zeroingDone p) s = .next u ∧ (u.partSt p).zeroing = false ∧
      (∀ a, l.holds p a = true → mapGet 0#8 u.dram.mem a = 0#8) ∧ (∀ x ∈ u.coh.l3, l.holds p x.line = false) ∧
      (∀ t ∈ s.tilesOf p, ∀ i < 2 ^ 20, mapGet 0#8 u.tile.scratch (t * 2 ^ 20 + i) = 0#8) ∧
      Within [.coh, .scratch, .eyelets, .dram, .mem, .part] s u) ∧
  (∀ (s : State) (p : PIdx), (s.dev = none ∨ s.partState p ≠ 1 ∨ (s.partSt p).zeroing = false) → exec (.zeroingDone p) s = .next s) ∧
  ∀ (s : State) (d : Die) (line : Nat) (bulk : Bool) (k : Tracker) (l : L3Line), s.trackerOf line = some k → s.coh.aluQ = [] →
    s.dram.ue = [] → s.dram.latent = [] → s.l3Line line = some l → l.valid = 0 → l.dirty = 0 → k.waiters = [] → s.coh.homeWait = [] →
    ∃ u, exec (.sliceFill d line bulk []) s = .next u ∧ u.trackerOf line = none ∧ u.dram.mem = s.dram.mem)

/-- R238, R239, R229, R231, R168: the home's table for RdS, RdN, RdX and Upg of a line whose entry is not collecting, with no request waiting. A line without an
entry is granted S or H under a new entry; a reader joins S; an exclusive holder is asked to give up, and the entry collects. A message that
another must come before does nothing yet. Every message begins with the header of R231.
Model's choices: log entries 51, 52. -/
def Obligations.HomeReads : Prop :=
  (∀ (s w : State) (m : Msg), w = s.arrive m → m.opcode = 1 → m.spill = false → s.coh.homeWait = [] → s.mayArrive m = true →
    (s.arrive m).noCredit m = false → m.source < 16 →
    s.entry (lineOf m.bulk m.addr) = none → (s.dirSetOf (lineOf m.bulk m.addr) m.bulk).length < 16 →
    s.deadAt (dpaDie (lineOf m.bulk m.addr)) m.source = false →
    ∃ u e, exec (.rds m) s = .next u ∧ u.entry (lineOf m.bulk m.addr) = some e ∧ e.state = .s ∧ e.presence = 2 ^ m.source ∧
      u = (w.newEnt (lineOf m.bulk m.addr) m.bulk .s (2 ^ m.source)).readLine m 0) ∧
  (∀ (s w : State) (m : Msg) (e : DirEnt), w = s.arrive m → m.opcode = 1 → m.spill = false → s.coh.homeWait = [] → s.mayArrive m = true →
    (s.arrive m).noCredit m = false → m.source < 16 →
    s.entry (lineOf m.bulk m.addr) = some e → e.state = .s → s.deadAt (dpaDie e.line) m.source = false →
    ((s.l3Line e.line).isSome = true ∨ (s.trackerOf e.line).isSome = true ∨ halvesIn e.presence = []) →
    exec (.rds m) s = .next ((w.putEnt { e with presence := setBit e.presence m.source }).readLine m 0)) ∧
  (∀ (s w : State) (m : Msg) (e : DirEnt), w = s.arrive m → m.opcode = 1 → m.spill = false → s.coh.homeWait = [] → s.mayArrive m = true →
    (s.arrive m).noCredit m = false → m.source < 16 →
    s.entry (lineOf m.bulk m.addr) = some e → e.state = .s → s.l3Line e.line = none → s.trackerOf e.line = none →
    halvesIn e.presence ≠ [] → exec (.rds m) s = .next (w.forward e m)) ∧
  (∀ (s : State) (m : Msg) (e : DirEnt), m.opcode = 1 → m.spill = false → s.coh.homeWait = [] → s.mayArrive m = true →
    (s.arrive m).noCredit m = false → m.source < 16 →
    s.entry (lineOf m.bulk m.addr) = some e → e.state = .h →
    ∃ u e', exec (.rds m) s = .next u ∧ u.entry e.line = some e' ∧ e'.state = .c ∧ e'.pending = .rdS ∧ e'.owedHalves = 0 ∧
      e'.owedBlocks = 2 ^ lineBlocks e.bulk - 1 ∧ u.coh.net = s.coh.net.erase m ++ (List.range (lineBlocks e.bulk)).map
        (fun b => { s.homeSends e.line with opcode := 0x1B, bulk := e.bulk, unit := b, dst := .uci (lineModule e.line) }) ∧ Within [.regs, .coh] s u) ∧
  (∀ (s w : State) (m : Msg), w = s.arrive m → m.opcode = 2 → m.spill = false → s.coh.homeWait = [] → s.mayArrive m = true →
    (s.arrive m).noCredit m = false →
    s.entry (lineOf m.bulk m.addr) = none → exec (.rdn m) s = .next (w.readLine m 0)) ∧
  (∀ (s w : State) (m : Msg) (e : DirEnt), w = s.arrive m → m.opcode = 2 → m.spill = false → s.coh.homeWait = [] → s.mayArrive m = true →
    (s.arrive m).noCredit m = false →
    s.entry (lineOf m.bulk m.addr) = some e → e.state = .s → exec (.rdn m) s = .next ((w.putEnt e).readLine m 0)) ∧
  (∀ (s : State) (m : Msg) (e : DirEnt), m.opcode = 2 → m.spill = false → s.coh.homeWait = [] → s.mayArrive m = true →
    (s.arrive m).noCredit m = false →
    s.entry (lineOf m.bulk m.addr) = some e → e.state = .h →
    ∃ u e', exec (.rdn m) s = .next u ∧ u.entry e.line = some e' ∧ e'.state = .c ∧ e'.pending = .rdN ∧
      e'.owedBlocks = 2 ^ lineBlocks e.bulk - 1 ∧ u.coh.net = s.coh.net.erase m ++ (List.range (lineBlocks e.bulk)).map
        (fun b => { s.homeSends e.line with opcode := 0x1B, bulk := e.bulk, unit := b, dst := .uci (lineModule e.line) }) ∧ Within [.regs, .coh] s u) ∧
  (∀ (s w : State) (m : Msg), w = s.arrive m → m.opcode = 3 → m.spill = false → s.coh.homeWait = [] → s.mayArrive m = true →
    (s.arrive m).noCredit m = false → m.source = 16 →
    s.entry (lineOf m.bulk m.addr) = none → (s.dirSetOf (lineOf m.bulk m.addr) m.bulk).length < 16 →
    s.deadAt (dpaDie (lineOf m.bulk m.addr)) 16 = false →
    ∃ u e, exec (.rdx m) s = .next u ∧ u.entry (lineOf m.bulk m.addr) = some e ∧ e.state = .h ∧ e.presence = 2 ^ 16 ∧
      u = (w.newEnt (lineOf m.bulk m.addr) m.bulk .h (2 ^ 16)).readLine m 2) ∧
  (∀ (s : State) (m : Msg) (e : DirEnt) (n : Fin 16), m.opcode = 3 → m.spill = false → s.coh.homeWait = [] → s.mayArrive m = true →
    (s.arrive m).noCredit m = false → m.source = 16 →
    s.entry (lineOf m.bulk m.addr) = some e → e.state = .s → e.presence = 2 ^ n.val → s.deadAt (dpaDie e.line) 16 = false →
    ∃ u e', exec (.rdx m) s = .next u ∧ u.entry e.line = some e' ∧ e'.state = .c ∧ e'.pending = .rdX ∧ e'.owedHalves = 2 ^ n.val ∧
      e'.owedBlocks = 0 ∧ u.coh.net = s.coh.net.erase m ++
        [{ s.homeSends e.line with opcode := 0x18, bulk := e.bulk, requester := n.val, dst := .half n }] ∧ Within [.regs, .coh] s u) ∧
  (∀ (s w : State) (m : Msg) (e : DirEnt), w = s.arrive m → m.opcode = 3 → m.spill = false → s.coh.homeWait = [] → s.mayArrive m = true →
    (s.arrive m).noCredit m = false →
    s.entry (lineOf m.bulk m.addr) = some e → e.state = .h → exec (.rdx m) s = .next ((w.putEnt e).readLine m 2)) ∧
  (∀ (s w : State) (m : Msg) (e : DirEnt), w = s.arrive m → m.opcode = 4 → m.spill = false → s.coh.homeWait = [] → s.mayArrive m = true →
    (s.arrive m).noCredit m = false →
    s.entry (lineOf m.bulk m.addr) = some e → e.state = .h → exec (.upg m) s = .next ((w.putEnt e).cmpOnly m 2)) ∧
  (∀ (s : State) (m : Msg) (e : DirEnt), m.opcode = 4 → m.spill = false → s.coh.homeWait = [] → s.mayArrive m = true →
    (s.arrive m).noCredit m = false → m.source = 16 →
    s.entry (lineOf m.bulk m.addr) = some e → e.state = .s → e.presence = 2 ^ 16 → s.deadAt (dpaDie e.line) 16 = false →
    s.deadAt (dpaDie m.addr) 16 = false →
    ∃ u e', exec (.upg m) s = .next u ∧ u.entry e.line = some e' ∧ e'.state = .h ∧ e'.presence = 2 ^ 16 ∧
      u.coh.net = s.coh.net.erase m ++ [{
        opcode := 0x15, srcDie := dpaDie m.addr, srcSite := homeSite m.addr, tag := m.tag, part := m.part, gen := m.gen,
        addr := m.addr, bulk := m.bulk, unit := m.unit, state := 2, requester := 16,
        dst := .uci (moduleAt m.srcDie m.srcSite), spill := false }] ∧ Within [.coh] s u) ∧
  (∀ (s : State) (m : Msg), m.spill = false → m.opcode ≠ 1 → s.coh.homeWait = [] → s.mayArrive m = true → s.entry (lineOf m.bulk m.addr) = none →
    (s.arrive m).noCredit m = true → (m.opcode = 2 → exec (.rdn m) s = .next ((s.arrive m).setHomeWait [m])) ∧
      (m.opcode = 5 → exec (.wbm m) s = .next ((s.arrive m).setHomeWait [m])) ∧
      (m.opcode = 6 → exec (.atr m) s = .next ((s.arrive m).setHomeWait [m]))) ∧
  (∀ (s : State) (m : Msg) (e : DirEnt), m.opcode = 1 → m.spill = false → s.coh.homeWait = [] → s.mayArrive m = true → m.source ≤ 16 →
    s.entry (lineOf m.bulk m.addr) = some e → (e.state = .c ∨ e.state = .f) →
    exec (.rds m) s = .next (((s.arrive m).addTo (fDirCntWait_count (dpaDie (lineOf m.bulk m.addr))) 1).setHomeWait [m])) ∧
  (∀ (s : State) (m : Msg), s.mayArrive m = false → exec (.rds m) s = .next s ∧ exec (.rdn m) s = .next s ∧
    exec (.rdx m) s = .next s ∧ exec (.upg m) s = .next s) ∧
  ∀ m : Msg, bitsAt m.header 0 6 = m.opcode % 2 ^ 6 ∧ bitsAt m.header 6 5 = m.source % 2 ^ 5 ∧
    bitsAt m.header 11 3 = m.srcDie % 2 ^ 3 ∧ bitsAt m.header 14 9 = m.srcSite % 2 ^ 9 ∧ bitsAt m.header 23 14 = m.tag % 2 ^ 14 ∧
    bitsAt m.header 37 4 = m.part % 2 ^ 4 ∧ bitsAt m.header 41 16 = m.gen % 2 ^ 16 ∧ bitsAt m.header 57 41 = m.addr % 2 ^ 41 ∧
    bitsAt m.header 98 1 = m.bulk.toNat ∧ bitsAt m.header 99 5 = m.unit % 2 ^ 5 ∧ bitsAt m.header 104 2 = m.state % 2 ^ 2 ∧
    bitsAt m.header 106 5 = m.requester % 2 ^ 5 ∧ m.header < 2 ^ 111 ∧ m.bytes.take 16 = toLE 16 m.header ∧
    m.bytes.length = 16 + (if m.opcode = 5 then 32 else 0) + m.data.length

/-- R214, R220, R239: writes and operations at the home. Without an entry they act at the slice at once; with holders, the home takes every copy
back first. The host's write-back and its eviction are consumed in every state.
Model's choices: log entries 51, 54. -/
def Obligations.HomeWrites : Prop :=
  (∀ (s w : State) (m : Msg), w = s.arrive m → m.opcode = 5 → m.spill = false → s.coh.homeWait = [] → s.mayArrive m = true →
    (s.arrive m).noCredit m = false →
    s.entry (lineOf m.bulk m.addr) = none → s.trackerOf (lineOf m.bulk m.addr) = none →
    exec (.wbm m) s = .next (((w.countAccess (lineOf m.bulk m.addr)).sliceWrite (lineOf m.bulk m.addr) m.bulk (wbmOverLine m).1
      (wbmOverLine m).2).respond m 0x12).serveHome) ∧
  (∀ (s : State) (m : Msg) (e : DirEnt) (n : Fin 16), m.opcode = 5 → m.spill = false → s.coh.homeWait = [] → s.mayArrive m = true →
    (s.arrive m).noCredit m = false →
    s.entry (lineOf m.bulk m.addr) = some e → e.state = .s → e.presence = 2 ^ n.val → m.source ≠ n.val →
    ∃ u e', exec (.wbm m) s = .next u ∧ u.entry e.line = some e' ∧ e'.state = .c ∧ e'.pending = .wbm ∧ e'.req = some m ∧
      e'.owedHalves = 2 ^ n.val ∧ u.coh.net = s.coh.net.erase m ++
        [{ s.homeSends e.line with opcode := 0x18, bulk := e.bulk, requester := n.val, dst := .half n }] ∧ Within [.regs, .coh] s u) ∧
  (∀ (s : State) (m : Msg) (e : DirEnt), m.opcode = 5 → m.spill = false → s.coh.homeWait = [] → s.mayArrive m = true →
    (s.arrive m).noCredit m = false →
    s.entry (lineOf m.bulk m.addr) = some e → e.state = .h →
    ∃ u e', exec (.wbm m) s = .next u ∧ u.entry e.line = some e' ∧ e'.state = .c ∧ e'.pending = .wbm ∧
      e'.owedBlocks = 2 ^ lineBlocks e.bulk - 1 ∧ u.coh.net = s.coh.net.erase m ++ (List.range (lineBlocks e.bulk)).map
        (fun b => { s.homeSends e.line with opcode := 0x1A, bulk := e.bulk, unit := b, dst := .uci (lineModule e.line) }) ∧ Within [.regs, .coh] s u) ∧
  (∀ (s w : State) (m : Msg), w = s.arrive m → m.opcode = 6 → m.spill = false → s.coh.homeWait = [] → s.mayArrive m = true →
    (s.arrive m).noCredit m = false →
    s.entry (lineOf m.bulk m.addr) = none → exec (.atr m) s = .next (w.takeAtR m).1.serveHome) ∧
  (∀ (s : State) (m : Msg) (pe : PageEnt), s.trackerOf (lineOf m.bulk m.addr) = none → s.l3Line (lineOf m.bulk m.addr) = none →
    s.pageOf (lineOf m.bulk m.addr) = some pe → pe.atomics = true →
    s.takeAtR m = ((s.setAluQ (s.coh.aluQ ++ [⟨dpaDie (lineOf m.bulk m.addr), channelOf (lineOf m.bulk m.addr), m⟩])).addTo
      (fL3SlMemred_count (dpaDie (lineOf m.bulk m.addr)) (channelOf (lineOf m.bulk m.addr))) 1, true)) ∧
  (∀ (s w : State) (m : Msg) (e : DirEnt), w = s.arrive m → s.mayArrive m = true → s.entry (lineOf m.bulk m.addr) = some e →
    (e.state = .h ∨ e.state = .c) →
    exec (.hwb m) s = .next ((w.applyHwb m).cmpOnly m 0)) ∧
  (∀ (s w : State) (m : Msg), w = s.arrive m → s.mayArrive m = true → s.entry (lineOf m.bulk m.addr) = none →
    exec (.hwb m) s = .next ((w.addTo (fDirCntProto_count (dpaDie (lineOf m.bulk m.addr))) 1).cmpOnly m 0)) ∧
  (∀ (s : State) (m : Msg) (e : DirEnt), s.coh.homeWait = [] → s.mayArrive m = true → s.entry (lineOf m.bulk m.addr) = some e → e.state = .h →
    ∃ u, exec (.hev m) s = .next u ∧ u.entry (lineOf m.bulk m.addr) = none ∧ Within [.coh] s u) ∧
  (∀ (s : State) (m : Msg) (e : DirEnt), s.coh.homeWait = [] → s.mayArrive m = true → s.entry (lineOf m.bulk m.addr) = some e → e.state = .s →
    clearBit e.presence 16 ≠ 0 →
    ∃ u e', exec (.hev m) s = .next u ∧ u.entry (lineOf m.bulk m.addr) = some e' ∧ e'.state = .s ∧ e'.presence = clearBit e.presence 16 ∧
      Within [.coh] s u) ∧
  ∀ (s : State) (m : Msg), s.mayArrive m = true → s.entry (lineOf m.bulk m.addr) = none → exec (.hev m) s = .next ((s.arrive m).cmpOnly m 0)

/-- R234, R240, R241, R244: the answers that a home collects. Each clears what it was owed for; the last completes the pending request. A message that
the home does not wait for is counted as a protocol error, but not in the window after a route loss. A message does not arrive while
one that must come before it is on its way (R168, R234).
Model's choices: log entries 4, 53. -/
def Obligations.HomeCollects : Prop :=
  (∀ (s w : State) (m : Msg) (e : DirEnt), w = s.arrive m → s.mayArrive m = true → m.spill = false → s.entry m.addr = some e → e.state = .c →
    e.owedHalves.testBit m.source = true → (clearBit e.owedHalves m.source ≠ 0 ∨ e.owedBlocks ≠ 0) → s.coh.homeWait = [] →
    exec (.iack m) s = .next (w.putEnt { e with
      owedHalves := clearBit e.owedHalves m.source, presence := clearBit e.presence m.source })) ∧
  (∀ (s w : State) (m r : Msg) (e : DirEnt), w = s.arrive m → s.mayArrive m = true → m.spill = false → s.entry m.addr = some e → e.state = .c →
    m.source < 16 → e.owedHalves = 2 ^ m.source → e.owedBlocks = 0 → e.pending = .wbm → e.req = some r → s.coh.homeWait = [] →
    exec (.iack m) s = .next ((w.freeEnt m.addr).takeWbm r).serveHome) ∧
  (∀ (s : State) (m : Msg), m.spill = false → s.mayArrive m = true → s.entry m.addr = none → s.coh.duplicates = false →
    exec (.iack m) s = .next ((s.arrive m).addTo (fDirCntProto_count (dpaDie m.addr)) 1) ∧
    exec (.birsp m) s = .next ((s.arrive m).addTo (fDirCntProto_count (dpaDie m.addr)) 1) ∧
    exec (.fwdack m) s = .next ((s.arrive m).addTo (fDirCntProto_count (dpaDie m.addr)) 1)) ∧
  (∀ (s : State) (m : Msg), m.spill = false → s.mayArrive m = true → s.entry m.addr = none → s.coh.duplicates = true →
    exec (.iack m) s = .next (s.arrive m) ∧ exec (.birsp m) s = .next (s.arrive m) ∧ exec (.fwdack m) s = .next (s.arrive m)) ∧
  (∀ (s : State) (m : Msg) (e : DirEnt), s.mayArrive m = true → s.entry m.addr = some e → e.state = .c → e.owedBlocks.testBit m.unit = true → m.state = 0 →
    clearBit e.owedBlocks m.unit ≠ 0 → s.coh.homeWait = [] →
    ∃ u e', exec (.birsp m) s = .next u ∧ u.entry m.addr = some e' ∧ e'.state = .c ∧ e'.owedBlocks = clearBit e.owedBlocks m.unit ∧
      e'.retainedS = e.retainedS ∧ Within [.coh] s u) ∧
  (∀ (s w : State) (m r : Msg) (e : DirEnt), w = s.arrive m → s.mayArrive m = true → s.entry m.addr = some e → e.state = .c → m.unit < lineBlocks e.bulk →
    e.owedBlocks = 2 ^ m.unit → e.owedHalves = 0 → e.retainedS = 0 → m.state = 0 → e.pending = .rdN → e.req = some r →
    s.coh.homeWait = [] →
    exec (.birsp m) s = .next ((w.freeEnt m.addr).readLine r 0).serveHome) ∧
  (∀ (s w : State) (m : Msg) (e : DirEnt), w = s.arrive m → s.mayArrive m = true → s.entry m.addr = some e → e.state = .f → e.target = m.source →
    exec (.fwdack m) s = .next (w.settle e .s e.presence).serveHome) ∧
  (∀ (s w : State) (m r : Msg) (e : DirEnt), w = s.arrive m → s.mayArrive m = true → s.entry m.addr = some e → e.state = .f → e.target = m.source →
    e.req = some r →
    exec (.fwdmiss m) s = .next ((((w.addTo (fDirCntFwdmiss_count (dpaDie m.addr)) 1).settle e .s e.presence).readLine r 0).serveHome)) ∧
  (∀ (s : State) (m : Msg), s.mayArrive m = true → s.entry m.addr = none → s.coh.duplicates = false →
    exec (.fwdmiss m) s = .next (((s.arrive m).addTo (fDirCntFwdmiss_count (dpaDie m.addr)) 1).addTo
      (fDirCntProto_count (dpaDie m.addr)) 1)) ∧
  (∀ (s : State) (m a : Msg) (before after : List Msg), s.coh.net = before ++ m :: after → m ∉ before → a ∈ before → a.before m = true →
    ∀ i : Instr, (∃ c, i.messageCode = some (c, m)) → exec i s = .next s) ∧
  (∀ (s : State) (d : Die) (k : Fin 17),
    exec (.deadDeclaration d k) s = .next ((s.declareAt d k).filterDead d k)) ∧
  (∀ (s : State) (d : Die) (k : Fin 17), s.coh.dir = [] → s.coh.homeWait = [] → s.coh.filter = [] → s.coh.filterWait = [] →
    ∃ u, exec (.deadDeclaration d k) s = .next u ∧ u.deadAt d k = true ∧ u.get (fDirStatus_sweep d) = 1 ∧
      Within [.regs, .coh] s u ∧ RegsKept [fDirStatus_dead_mask d, fDirStatus_sweep d] s u) ∧
  (∀ (s : State) (d : Die), s.get fUciStatus_link_up = 0 →
    exec (.sweepDone d) s = .next (s.set (fDirStatus_sweep d) 0)) ∧
  ∀ (s : State) (d : Die), s.get fUciStatus_link_up = 1 → (∀ h < 8, h ≠ d.val → s.get (fDirStatus_sweep h) = 0) →
    ∃ u, exec (.sweepDone d) s = .next u ∧ (∀ h < 8, u.deadAt h 16 = false) ∧ Within [.regs] s u

/-- R236, R237, R119: responses at a half or a requester. Data and MData of an open read allocate the line in the half, unless an Inv came first, and
serve everyone who waits; WAck, AtRsp and Err close their transaction; a response that answers nothing is counted stale.

R236, R244, R391: what a half does with Inv and Fwd, and what a notice of route loss sends again.
Model's choices: log entries 4, 52, 55. -/
def Obligations.HalfsAnswered : Prop :=
  ((∀ (s w v : State) (m : Msg) (x : Tx), s.mayArrive m = true → w = s.arrive m → m.toHost = false → w.txOf m = some x → x.op = 1 →
    x.agent < 16 → x.inv = false →
    (w.closeTx x).placeL2 ⟨x.agent, x.addr, x.bulk, x.spill, x.part, 0, fullMask x.bulk, m.data⟩ = some v →
    exec (.data m) s = .next ((x.wants.foldl (fun u p => u.serveData x.part x.addr m.data p) v).wakeHalf x).runImages ∧
    exec (.mdata m) s = .next ((x.wants.foldl (fun u p => u.serveData x.part x.addr m.data p) v).wakeHalf x).runImages) ∧
  (∀ (s w : State) (m : Msg) (x : Tx), s.mayArrive m = true → w = s.arrive m → m.toHost = false → w.txOf m = some x → x.op = 1 →
    x.agent < 16 → x.inv = true →
    exec (.data m) s = .next
      ((x.wants.foldl (fun (u : State) p => u.serveData x.part x.addr m.data p) (w.closeTx x)).wakeHalf x).runImages) ∧
  (∀ (s w : State) (m : Msg) (x : Tx), s.mayArrive m = true → w = s.arrive m → w.txOf m = some x → x.op = 5 →
    exec (.wack m) s = .next ((x.wants.foldl State.serveAck (w.closeTx x)).wakeHalf x)) ∧
  (∀ (s w : State) (m : Msg) (x : Tx), s.mayArrive m = true → w = s.arrive m → w.txOf m = some x → x.op = 6 →
    exec (.atrsp m) s = .next ((x.wants.foldl (fun u p => u.serveAtomic m.data p) (w.closeTx x)).wakeHalf x)) ∧
  (∀ (s w : State) (m : Msg) (x : Tx), s.mayArrive m = true → w = s.arrive m → m.toHost = false → w.txOf m = some x →
    exec (.err m) s = .next ((x.wants.foldl State.serveErr (w.closeTx x)).wakeHalf x).runImages) ∧
  (∀ (s w : State) (m : Msg), s.mayArrive m = true → w = s.arrive m → m.toHost = false → w.txOf m = none → s.coh.duplicates = false →
    s.sec.reading = [] →
    exec (.data m) s = .next (w.addTo (fDirCntStale_count (receivingDie m)) 1) ∧
    exec (.mdata m) s = .next (w.addTo (fDirCntStale_count (receivingDie m)) 1) ∧
    exec (.wack m) s = .next (w.addTo (fDirCntStale_count (receivingDie m)) 1) ∧
    exec (.atrsp m) s = .next (w.addTo (fDirCntStale_count (receivingDie m)) 1) ∧
    exec (.err m) s = .next (w.addTo (fDirCntStale_count (receivingDie m)) 1)) ∧
  (∀ (s : State) (m : Msg), s.mayArrive m = false → exec (.data m) s = .next s ∧ exec (.mdata m) s = .next s ∧
    exec (.wack m) s = .next s ∧ exec (.atrsp m) s = .next s ∧ exec (.err m) s = .next s) ∧
  (∀ (s : State) (p t g lane base : Nat) (pa len : Nat) (h : PageHit) (data : List Byte), s.translate p pa = some h →
    s.l1Line t (pa / 64) = none →
    ∃ u, s.serveData p base data (.load t g lane pa len 0 len [] false) = u ∧
      (lane, leNat (slice (slice data (h.addr - pa % 64 - base) 64) (pa % 64) len)) ∈ (u.groupAt t g).values)) ∧
  ((∀ (s : State) (m : Msg) (n : Fin 16), s.mayArrive m = true → m.dst = .half n →
    ∃ u, exec (.inv m) s = .next u ∧ u.l2Line n.val m.addr m.spill = none ∧
      (∀ x ∈ u.coh.txs, x.agent = n.val → x.addr = m.addr → x.spill = m.spill → x.op = 1 → x.inv = true) ∧
      u.coh.net = s.coh.net.erase m ++ [{
        opcode := 0x20, source := n.val, part := m.part, gen := m.gen, srcDie := n.val / 2, srcSite := halfSite n.val m.addr m.spill,
        addr := m.addr, bulk := m.bulk, spill := m.spill, dst := if m.spill then .filter else .home }] ∧ Within [.regs, .coh] s u) ∧
  (∀ (s : State) (m : Msg) (n : Fin 16) (l : L2Line) (hr : m.requester < 16), s.mayArrive m = true → m.dst = .half n →
    s.l2Line n.val m.addr false = some l →
    l.valid = fullMask l.bulk →
    ∃ u, exec (.fwd m) s = .next u ∧ u.coh.net = s.coh.net.erase m ++ [
        { opcode := 0x10, source := n.val, srcDie := n.val / 2, srcSite := halfSite n.val m.addr false, addr := m.addr, bulk := m.bulk,
          tag := m.tag, part := m.part, gen := m.gen, requester := m.requester, dst := .half ⟨m.requester, hr⟩, data := l.data },
        { opcode := 0x22, source := n.val, srcDie := n.val / 2, srcSite := halfSite n.val m.addr false, addr := m.addr, bulk := m.bulk,
          part := m.part, gen := m.gen, dst := .home }] ∧ Within [.coh] s u) ∧
  (∀ (s : State) (m : Msg) (n : Fin 16), s.mayArrive m = true → m.dst = .half n → s.l2Line n.val m.addr false = none →
    exec (.fwd m) s = .next ((s.arrive m).send {
      opcode := 0x23, source := n.val, srcDie := n.val / 2, srcSite := halfSite n.val m.addr false, addr := m.addr, bulk := m.bulk,
      part := m.part, gen := m.gen, dst := .home })) ∧
  (∀ s : State, ∃ u, exec .routeLossNotice s = .next u ∧ u.coh.duplicates = true ∧ u.coh.dir = s.coh.dir ∧ u.coh.txs = s.coh.txs ∧
    (∀ m ∈ s.coh.net, m ∈ u.coh.net) ∧
    (∀ x ∈ s.coh.txs, x.agent < 16 → x.op = 1 → ({
      opcode := 1, source := x.agent, srcDie := x.die, srcSite := x.site, tag := x.tag, part := x.part, gen := x.gen, addr := x.addr,
      bulk := x.bulk, unit := x.unit, spill := x.spill, dst := if x.spill then .filter else .home } : Msg) ∈ u.coh.net) ∧
    (∀ e ∈ s.coh.dir, e.state = .c → ∀ n : Fin 16, e.owedHalves.testBit n.val = true →
      ({ s.homeSends e.line with opcode := 0x18, bulk := e.bulk, requester := n.val, dst := .half n } : Msg) ∈ u.coh.net) ∧
    Within [.regs, .coh] s u) ∧
  ∀ s : State, exec .duplicateWindowEnd s = .next { s with coh := { s.coh with duplicates := false } })

/-- R233, R234, R304, R307 to R309, R401: the CXL.mem side of the host. A request becomes the home's message for its block and stays
open until it is answered; one outside R233 or the HDM range is counted and reported; Data, Cmp, BInv and BDown for the host leave as
DRS, NDR and BISnp, a response on the module on which its request came.
Model's choices: log entries 34, 61, 137. -/
def Obligations.HostMemory : Prop :=
  (∀ (s : State) (k : Fin 8) (h tag : Nat) (mv : MetaVal) (m : Msg), s.linkUp = true → h < hdmBytes →
    moduleDie k * 8 + dpaDie (hdmDpa h) ∉ s.mesh.unreachable →
    m = s.hostMsg k (match mv with | .s => 1 | .a => 3 | .i => 2) h tag →
    ∃ u, exec (.memRd ⟨k, h⟩ mv tag) s = .next u ∧ u.uci.hostOpen = s.uci.hostOpen ++ [m] ∧ u.coh.net = s.coh.net ++ [m] ∧
      Within [.coh, .uci] s u) ∧
  (∀ (s : State) (k : Fin 8) (h tag : Nat) (m : Msg) (mv : MetaVal), s.linkUp = true → h < hdmBytes →
    moduleDie k * 8 + dpaDie (hdmDpa h) ∉ s.mesh.unreachable → mv ≠ .s → m = s.hostMsg k (if mv = .a then 4 else 8) h tag →
    ∃ u, exec (.memInv ⟨k, h⟩ mv tag) s = .next u ∧ u.uci.hostOpen = s.uci.hostOpen ++ [m] ∧ u.coh.net = s.coh.net ++ [m] ∧
      Within [.coh, .uci] s u) ∧
  (∀ (s : State) (k : Fin 8) (h tag en : Nat) (m : Msg) (mv : MetaVal) (bs : List Byte), s.linkUp = true → h < hdmBytes →
    moduleDie k * 8 + dpaDie (hdmDpa h) ∉ s.mesh.unreachable → mv ≠ .a →
    m = { s.hostMsg k 7 h tag with mask := en, data := bs, state := if mv = .s then 1 else 0 } →
    ∃ u, exec (.memWr ⟨k, h⟩ mv tag en bs) s = .next u ∧ u.uci.hostOpen = s.uci.hostOpen ++ [m] ∧ u.coh.net = s.coh.net ++ [m] ∧
      Within [.coh, .uci] s u) ∧
  (∀ (s : State) (k : Fin 8) (h : Nat) (kept : Fin 3), s.linkUp = true → h < hdmBytes →
    moduleDie k * 8 + dpaDie (hdmDpa h) ∉ s.mesh.unreachable →
    exec (.cxlBirsp ⟨k, h⟩ kept) s = .next (s.send { s.hostMsg k 0x21 h 0 with state := kept.val })) ∧
  (∀ (s : State) (k : Fin 8) (op h tag : Nat), s.ownerOfLine (hdmDpa h) < 16 → hostModule (s.hostMsg k op h tag) = k ∧
    (s.hostMsg k op h tag).gen = s.generation (s.ownerOfLine (hdmDpa h)) ∧ (s.hostMsg k op h tag).source = 16 ∧
    (s.hostMsg k op h tag).addr + 64 * (s.hostMsg k op h tag).unit ≤ hdmDpa h ∧
    hdmDpa h < (s.hostMsg k op h tag).addr + 64 * (s.hostMsg k op h tag).unit + 64) ∧
  (∀ (s : State) (k : Fin 8) (h tag : Nat) (mv : MetaVal), s.linkUp = true → hdmBytes ≤ h →
    ∃ u, exec (.memRd ⟨k, h⟩ mv tag) s = .next u ∧ u.get fUciCntUnsup_count = (s.get fUciCntUnsup_count + 1) % 2 ^ fUciCntUnsup_count.width ∧
      u.uci.rasStatus.testBit rasReceiver = true ∧ u.uci.aerStatus.testBit aerInternal = true ∧ u.coh = s.coh ∧
      Within [.regs, .uci] s u ∧ RegsKept [fUciCntUnsup_count] s u) ∧
  (∀ (s : State) (r : UnsupReq) (k : Fin 8) (h tag en : Nat) (bs : List Byte), s.linkUp = true →
    exec (.unsupportedMemReq r h) s = .next s.unsupported ∧
    (h < hdmBytes → moduleDie k * 8 + dpaDie (hdmDpa h) ∉ s.mesh.unreachable → exec (.memInv ⟨k, h⟩ .s tag) s = .next s.unsupported ∧
      exec (.memWr ⟨k, h⟩ .a tag en bs) s = .next s.unsupported) ∧
    (hdmBytes ≤ h → exec (.memSpecRd h) s = .next s.unsupported)) ∧
  (∀ (s : State) (r : UnsupReq) (k : Fin 8) (h tag : Nat) (mv : MetaVal) (kept : Fin 3), s.linkUp = false →
    exec (.memRd ⟨k, h⟩ mv tag) s = .next s ∧ exec (.cxlBirsp ⟨k, h⟩ kept) s = .next s ∧ exec (.unsupportedMemReq r h) s = .next s) ∧
  (∀ (s : State) (h : Nat), h < hdmBytes → exec (.memSpecRd h) s = .next s) ∧
  (∀ (s w : State) (m r : Msg), s.mayArrive m = true → w = s.arrive m → m.toHost = true → s.hostTx m = some r →
    exec (.data m) s = .next ((w.emit (.drs (hostModule r) r.tag m.data)).hostGot r 1) ∧
    exec (.mdata m) s = .next ((w.emit (.drs (hostModule r) r.tag m.data)).hostGot r 1)) ∧
  (∀ (s w : State) (m r : Msg), s.mayArrive m = true → w = s.arrive m → s.hostTx m = some r →
    exec (.cmp m) s = .next ((w.emit (.ndr (hostModule r) r.tag m.state)).hostGot r 2)) ∧
  (∀ (s : State) (m : Msg), s.mayArrive m = true → s.hostTx m = none → s.coh.duplicates = false →
    exec (.cmp m) s = .next ((s.arrive m).addTo (fDirCntStale_count m.router.1) 1)) ∧
  (∀ (s : State) (m r : Msg), s.mayArrive m = true → m.toHost = true → s.hostTx m = some r →
    ∃ u, exec (.err m) s = .next u ∧ u.uci.hostOpen = s.uci.hostOpen.erase r ∧ u.uci.rasStatus.testBit rasMemory = true ∧
      u.get fUciCntMemerr_count = (s.get fUciCntMemerr_count + 1) % 2 ^ fUciCntMemerr_count.width ∧ u.out = s.out ∧
      Within [.regs, .coh, .uci] s u) ∧
  (∀ (s : State) (m r : Msg), s.hostTx m = some r → r.opcode = 2 → (s.hostGot r 1).uci.hostOpen = s.uci.hostOpen.erase r) ∧
  (∀ (s : State) (m : Msg), s.mayArrive m = true → s.linkUp = true →
    exec (.binv m) s = .next ((s.arrive m).emit (.biSnp (dpaHdm m.addr + 64 * m.unit) false)) ∧
    exec (.bdown m) s = .next ((s.arrive m).emit (.biSnp (dpaHdm m.addr + 64 * m.unit) true))) ∧
  ∀ (s : State) (m : Msg), s.mayArrive m = true → s.linkUp = false →
    exec (.binv m) s = .next (s.arrive m) ∧ exec (.bdown m) s = .next (s.arrive m)

/-- R246, R247, R298: the spill filter. A read of a spill line goes to the host and its data enters the requester in the filter; a write waits for the
host to take it; host snoops take the halves' copies back, or are answered at once.
Model's choices: log entries 21, 22, 138. -/
def Obligations.SpillFilter : Prop :=
  (∀ (s w : State) (m : Msg), s.mayArrive m = true → s.linkUp = true → w = s.arrive m → m.opcode = 2 → m.spill = true →
    s.coh.filterWait = [] → s.coh.hostReqs = [] → (∀ e ∈ s.coh.filter, e.req = none) → s.filterEnt (lineOf m.bulk m.addr) = none →
    exec (.rdn m) s = .next ((w.setHostReqs [⟨.rdCurr, lineOf m.bulk m.addr, m, s.clock.now⟩]).emit
      (.cacheReq .rdCurr (lineOf m.bulk m.addr) 0 []))) ∧
  (∀ (s w : State) (m : Msg), s.mayArrive m = true → s.linkUp = true → w = s.arrive m → m.opcode = 5 → m.spill = true →
    s.coh.filterWait = [] → s.filterEnt (lineOf m.bulk m.addr) = none →
    exec (.wbm m) s = .next ((w.setHostReqs (s.coh.hostReqs ++ [⟨.wrCur, lineOf m.bulk m.addr, m, s.clock.now⟩])).emit
      (.cacheReq .wrCur (lineOf m.bulk m.addr) (wbmOverLine m).1 (wbmOverLine m).2))) ∧
  (∀ (s w : State) (m : Msg), s.mayArrive m = true → s.linkUp = false → w = s.arrive m → m.opcode = 5 → m.spill = true →
    s.coh.filterWait = [] → s.filterEnt (lineOf m.bulk m.addr) = none →
    exec (.wbm m) s = .next (((w.filterRespond m 0x14).spillFault m).serveFilter)) ∧
  (∀ (s : State) (hpa : Nat) (bytes : List Byte) (r : HostReq), s.coh.hostReqs = [r] → r.op = .rdShared →
    r.line = lineOf r.msg.bulk hpa → s.filterEnt r.line = none → r.msg.source < 16 → s.deadAt (filterDie r.line) r.msg.source = false →
    ∃ u, exec (.spillHostData hpa bytes false) s = .next u ∧ u.coh.hostReqs = [] ∧
      u.filterEnt r.line = some { line := r.line, bulk := r.msg.bulk, vector := 2 ^ r.msg.source } ∧ Within [.coh] s u) ∧
  (∀ (s : State) (hpa : Nat) (bytes : List Byte) (r : HostReq), s.coh.hostReqs = [r] → r.op = .rdCurr →
    r.line = lineOf r.msg.bulk hpa →
    exec (.spillHostData hpa bytes false) s = .next ((s.setHostReqs []).filterRespond r.msg 0x10
      (slice bytes (readSpan r.msg).1 (readSpan r.msg).2))) ∧
  (∀ (s : State) (hpa : Nat) (bytes : List Byte) (r : HostReq), s.coh.hostReqs = [r] → r.op ≠ .wrCur → r.line = lineOf r.msg.bulk hpa →
    exec (.spillHostData hpa bytes true) s = .next (((s.setHostReqs []).filterRespond r.msg 0x14).spillFault r.msg).serveFilter) ∧
  (∀ (s : State) (hpa : Nat) (r : HostReq), s.coh.hostReqs = [r] → r.op = .wrCur → r.line = lineOf r.msg.bulk hpa →
    exec (.wrcurComplete hpa) s = .next ((s.setHostReqs []).filterRespond r.msg 0x12).serveFilter) ∧
  (∀ (s : State) (hpa : Nat) (bytes : List Byte) (p : Bool), s.coh.hostReqs = [] →
    exec (.spillHostData hpa bytes p) s = .next s ∧ exec (.wrcurComplete hpa) s = .next s) ∧
  (∀ (s : State) (hpa : Nat), s.filterAt hpa = none → exec (.snpInv hpa) s = .next (s.emit (.snpRsp hpa 0)) ∧
    exec (.snpData hpa) s = .next (s.emit (.snpRsp hpa 0)) ∧ exec (.snpCur hpa) s = .next (s.emit (.snpRsp hpa 0))) ∧
  (∀ (s : State) (hpa : Nat) (e : FilterEnt) (n : Fin 16), s.filterAt hpa = some e → e.collecting = false → e.vector = 2 ^ n.val →
    s.coh.filterWait = [] →
    ∃ u, exec (.snpInv hpa) s = .next u ∧ u.filterEnt e.line = some { e with
        collecting := true, owed := 2 ^ n.val, pending := .evict, req := none, answers := [1] } ∧
      u.coh.net = s.coh.net ++ [{
        opcode := 0x18, srcDie := filterDie e.line, srcSite := filterSite e.line, part := s.spillOwner e.line,
        gen := s.generation (s.spillOwner e.line), addr := e.line, bulk := e.bulk, requester := n.val, dst := .half n, spill := true }] ∧ u.out = s.out ∧
      Within [.coh] s u) ∧
  (∀ (s : State) (hpa : Nat) (e : FilterEnt), s.filterAt hpa = some e → e.collecting = false →
    exec (.snpData hpa) s = .next (s.emit (.snpRsp hpa 2)) ∧ exec (.snpCur hpa) s = .next (s.emit (.snpRsp hpa 2))) ∧
  (∀ (s : State) (hpa : Nat) (e : FilterEnt), s.filterAt hpa = some e → e.collecting = true →
    exec (.snpInv hpa) s = .next (s.putFilter { e with answers := e.answers ++ [0] }) ∧
    exec (.snpData hpa) s = .next (s.putFilter { e with answers := e.answers ++ [0] }) ∧
    exec (.snpCur hpa) s = .next (s.putFilter { e with answers := e.answers ++ [0] })) ∧
  ∀ (s : State) (m : Msg) (e : FilterEnt), s.mayArrive m = true → m.spill = true → s.filterEnt m.addr = some e → e.collecting = true →
    m.source < 16 → e.owed = 2 ^ m.source → e.pending = .evict → e.req = none → e.answers = [1] → s.coh.filterWait = [] →
    ∃ u, exec (.iack m) s = .next u ∧ u.filterEnt m.addr = none ∧ u.out = s.out ++ [.snpRsp m.addr 1] ∧ Within [.coh, .out] s u

/-- R306, R310, R321: configuration requests, function-level reset and the unmasking of a vector. A read returns the dword of
configuration space as the function shows it, in which no interrupt pin is named.

R489, R490: the sideband target. It answers from stage 2 on while CD0 is not in recovery, holds one dynamic address, and carries register accesses with a
status byte.
Model's choices: log entries 35, 115. -/
def Obligations.FunctionsAndSideband : Prop :=
  ((∀ (s : State) (fn : Fin 17) (off : Nat) (v : BitVec 32), s.linkUp = true → off < 4096 → off % 4 = 0 →
    ∃ u, exec (.configurationRequest fn off true v) s = .next u ∧ mapGet 0 u.uci.cfg (fn.val * 4096 + off) = v.toNat ∧
      (∀ k, k ≠ fn.val * 4096 + off → mapGet 0 u.uci.cfg k = mapGet 0 s.uci.cfg k) ∧ Within [.uci] s u) ∧
  (∀ (s : State) (fn : Fin 17) (off : Nat) (v : BitVec 32), s.linkUp = true → off < 4096 → off % 4 = 0 →
    exec (.configurationRequest fn off false v) s = .next (s.emit (.cfgRead fn off (s.cfgDword fn off)))) ∧
  (∀ (s : State) (fn : Fin 17), s.cfgDword fn 0x34 % 256 = capPos fn 0x10 % 256 ∧ s.cfgDword fn 0x3C / 256 % 256 = 0) ∧
  (∀ (s : State) (fn : Fin 17) (off : Nat) (w : Bool) (v : BitVec 32), (s.linkUp = false ∨ 4096 ≤ off ∨ off % 4 ≠ 0) →
    exec (.configurationRequest fn off w v) s = .next s) ∧
  (∀ (s : State) (n : Fin 16), s.linkUp = true →
    ∃ u, exec (.flr n) s = .next u ∧ (∀ o < 4096, mapGet 0 u.uci.cfg ((n.val + 1) * 4096 + o) = 0) ∧
      (∀ v < 32, u.vector (n.val + 1) v = {}) ∧
      (∀ f v, f ≠ n.val + 1 → v < 32 → u.vector f v = s.vector f v) ∧ Within [.uci] s u) ∧
  (∀ (s : State) (n : Fin 16), s.linkUp = false → exec (.flr n) s = .next s) ∧
  (∀ (s : State) (fn vec : Fin 17), vec.val < vectorCount fn.val → (s.vector fn vec).pending = false →
    exec (.msixUnmask fn vec) s = .next (s.setVector fn vec { s.vector fn vec with masked := false, pending := false })) ∧
  (∀ (s : State) (fn vec : Fin 17), vec.val < vectorCount fn.val → (s.vector fn vec).pending = true → (s.vector fn vec).sent = false →
    s.linkUp = true →
    ∃ u, exec (.msixUnmask fn vec) s = .next u ∧ u.out = s.out ++ [.msix fn vec] ∧
      u.vector fn vec = { s.vector fn vec with masked := false, pending := false, sent := true } ∧ Within [.uci, .out] s u) ∧
  (∀ (s : State) (fn vec : Fin 17), vec.val < vectorCount fn.val → (s.vector fn vec).pending = true → (s.vector fn vec).sent = true →
    ∃ u, exec (.msixUnmask fn vec) s = .next u ∧ u.out = s.out ∧
      u.vector fn vec = { s.vector fn vec with masked := false, pending := false, held := true } ∧ Within [.uci] s u) ∧
  (∀ (s : State) (vec : Fin 17), 8 ≤ vec.val → exec (.msixUnmask 0 vec) s = .next s)) ∧
  ((∀ (s : State) (a : Nat), s.sidebandOpen = true →
    ∃ u, exec (.setdasa a) s = .next u ∧ u.uci.dynAddr = a % 128 ∧ u.uci = { s.uci with dynAddr := a % 128 } ∧ Within [.uci] s u) ∧
  (∀ (s : State) (a : Nat), s.sidebandOpen = true → s.uci.dynAddr = 0 →
    ∃ u, exec (.entdaa a) s = .next u ∧ u.uci = { s.uci with dynAddr := a % 128 } ∧ Within [.uci] s u) ∧
  (∀ (s : State) (a : Nat), s.uci.dynAddr ≠ 0 → exec (.entdaa a) s = .next s) ∧
  (∀ s : State, s.sidebandOpen = true → ∃ u, exec .enec s = .next u ∧ u.uci = { s.uci with ibi := true } ∧ Within [.uci] s u) ∧
  (∀ (s : State) (off : Nat), s.sidebandOpen = true → off < 2 ^ 32 → off % 8 ≠ 0 → msixOff .pf off = none →
    exec (.sbRead off) s = .next ((s.event 0 1 off 2048).emit (.sideband (List.replicate 8 255#8 ++ [2#8])))) ∧
  (∀ (s : State) (off a : Nat), s.sidebandOpen = true → off < 2 ^ 32 → s.target .pf off 8 = .reg a →
    exec (.sbRead off) s = .next (s.emit (.sideband (toLE 8 (s.readReg a) ++ [0#8])))) ∧
  (∀ (s : State) (off a : Nat) (v : Word), s.sidebandOpen = true → off < 2 ^ 32 → s.target .pf off 8 = .reg a →
    ∃ u bs, exec (.sbWrite off v) s = .next u ∧ bs.length = 8 ∧ u.out = (s.writeReg a v.toNat).out ++ [.sideband (bs ++ [0#8])] ∧
      u.regs = (s.writeReg a v.toNat).regs) ∧
  (∀ (s : State) (off : Nat) (v : Word), s.sidebandOpen = true → off < 2 ^ 32 → s.target .pf off 8 = .unassigned →
    ∃ u bs, exec (.sbWrite off v) s = .next u ∧ bs.length = 8 ∧ u.regs = (s.event 0 1 off 2048).regs ∧
      u.out = (s.event 0 1 off 2048).out ++ [.sideband (bs ++ [2#8])] ∧ Within [.regs, .uci, .flt, .out, .free] s u) ∧
  ∀ (s : State) (x : Nat) (v : Word), s.sidebandOpen = false → exec (.setdasa x) s = .next s ∧ exec (.entdaa x) s = .next s ∧
    exec .enec s = .next s ∧ exec (.sbRead x) s = .next s ∧ exec (.sbWrite x v) s = .next s)

/-- R301, R303, R305, R390: the UCIe modules and the host link.
Model's choices: log entries 69, 70, 74, 149. -/
def Obligations.HostLink : Prop :=
  (∀ (s : State) (code stepping ms : Nat), s.atStage 3 = true → code % 256 ≠ 0 →
    ∃ u, exec (.hostIdRead code stepping ms) s = .next u ∧
      u.get fUciHostId_host_code = code % 2 ^ fUciHostId_host_code.width ∧
      u.get fUciHostId_fitted = (if Config.qualifiedHost (code % 256) then 1 else s.get fUciHostId_fitted) ∧
      u.pins.stage = (if Config.qualifiedHost (code % 256) then 3 else s.pins.stage) ∧
      u.pins.failed = (if Config.qualifiedHost (code % 256) then s.pins.failed else true) ∧ Within [.regs, .clock, .pins] s u) ∧
  (∀ (s : State) (code stepping ms : Nat), s.atStage 3 = true → code % 256 = 0 → 1000 ≤ ms →
    ∃ u, exec (.hostIdRead code stepping ms) s = .next u ∧ u.pins.failed = true ∧ u.get fDevStart_failed_stage = 3 ∧
      u.get fDevPins_fault_driven = 1 ∧ Within [.regs, .clock, .pins] s u) ∧
  (∀ (s : State) (code stepping ms : Nat), s.atStage 3 = false → exec (.hostIdRead code stepping ms) s = .next s) ∧
  (∀ (s : State) (k : Fin 8), s.moduleState k = 1 → mapGet 0 s.uci.retries k.val < 3 →
    exec (.moduleTrainTimeout k) s = .next { s with uci := { s.uci with
      retries := mapSet 0 s.uci.retries k.val (mapGet 0 s.uci.retries k.val + 1) } }) ∧
  (∀ (s : State) (k : Fin 8), s.moduleState k = 1 → 3 ≤ mapGet 0 s.uci.retries k.val → s.atStage 6 = true →
    ∃ u, exec (.moduleTrainTimeout k) s = .next u ∧ u.get fUciStatus_training_failed = 1 ∧ u.get fDevStart_failed_stage = 6 ∧
      u.pins.failed = true ∧ Within [.regs, .pins] s u) ∧
  (∀ (s : State) (k : Fin 8), s.moduleState k = 1 →
    ∃ u, exec (.moduleActive k) s = .next u ∧ u.moduleState k = 2 ∧ (u.get fUciStatus_active).testBit k.val = true ∧
      u.get (fUciMod_stitch k) = s.stitch % 2 ^ (fUciMod_stitch k).width ∧ Within [.regs, .free] s u) ∧
  (∀ (s : State) (k : Fin 8), s.moduleState k = 3 →
    ∃ u, exec (.moduleActive k) s = .next u ∧ u.moduleState k = 2 ∧ u.get (fUciMod_repaired k) = s.get (fUciMod_repaired k) ∧
      Within [.regs, .free] s u) ∧
  (∀ (s : State) (k : Fin 8), s.moduleState k ≠ 1 → s.moduleState k ≠ 3 → exec (.moduleActive k) s = .next s) ∧
  (∀ (s : State) (k : Fin 8), s.moduleState k = 2 →
    ∃ u, exec (.moduleLinkDown k) s = .next u ∧ u.moduleState k = 3 ∧
      u.get (fUciMod_retrains k) = satAdd (fUciMod_retrains k).width (s.get (fUciMod_retrains k)) 1 ∧
      u.get fUciStatus_link_up = s.get fUciStatus_link_up ∧ Within [.regs, .uci, .flt, .out] s u) ∧
  (∀ (s : State) (k : Fin 8), s.moduleState k ≠ 2 → exec (.moduleLinkDown k) s = .next s) ∧
  (∀ (s : State) (k : Fin 8), s.moduleState k = 3 → exec (.retrainTimeout k) s = .next s.hostLost) ∧
  (∀ (s : State) (k : Fin 8), s.moduleState k = 3 → s.uci.lost = false → s.coh.hostReqs = [] →
    ∃ u, exec (.retrainTimeout k) s = .next u ∧ u.uci.lost = true ∧ u.uci.hostOpen = [] ∧ u.get fUciStatus_link_up = 0 ∧
      (∀ j < 8, u.moduleState j = 0) ∧ u.get fUciStatus_losses = satAdd fUciStatus_losses.width (s.get fUciStatus_losses) 1 ∧
      Within [.regs, .coh, .uci, .flt, .out] s u) ∧
  (∀ (s : State) (hpa : Nat) (r : HostReq), s.coh.hostReqs = [r] → r.line ≤ hpa → hpa < r.line + lineBytes r.msg.bulk →
    s.partState r.msg.part = 0 →
    exec (.ucieTimeout hpa) s = .next (s.recordFault {
      cause := 0x11, unitKind := 9, die := filterDie hpa, unit := moduleOf hpa, address := hpa }).hostLost) ∧
  (∀ (s : State) (hpa : Nat), s.coh.hostReqs = [] → (∀ e ∈ s.coh.dir, e.state ≠ .c) → exec (.ucieTimeout hpa) s = .next s) ∧
  (∀ s : State, s.uci.lost = true →
    ∃ u, exec .linkRetrain s = .next u ∧ (∀ j < 8, u.moduleState j = 1) ∧ u.uci.retries = [] ∧ Within [.regs, .uci] s u) ∧
  (∀ s : State, s.uci.lost = false → exec .linkRetrain s = .next s) ∧
  (∀ s : State, s.linkUp = false → (∀ k < 8, s.moduleState k = 2) → (s.uci.lost = true ∨ s.atStage 6 = true) →
    ∃ u, exec .allModulesActive s = .next u ∧ u.linkUp = true ∧ u.uci.lost = false ∧
      (∀ k < 17 * 4096, mapGet 0 u.uci.cfg k = 0) ∧ u.pins.stage = (if s.uci.lost = true then s.pins.stage else 6) ∧
      Within [.regs, .uci, .flt, .pins, .out] s u) ∧
  ∀ s : State, s.linkUp = true → exec .allModulesActive s = .next s

/-- R322, R479, R480: the DOE mailbox. It answers while the host link is up and raises vector 6; SPDM keeps the order of its requests and is busy
during a life-cycle transition.
Model's choice: log entry 36. -/
def Obligations.Mailbox : Prop :=
  (∀ (s : State) (bs : List Byte), s.uci.ibi = false → (s.vector 0 6).masked = false → (s.vector 0 6).sent = false → s.linkUp = true →
    (s.doeReply bs).out = s.out ++ [.doe bs, .msix 0 6] ∧ Within [.uci, .out] s (s.doeReply bs)) ∧
  (∀ (s : State) (len : Nat), s.linkUp = true → len ≤ 65536 →
    exec (.doeDiscovery ⟨1, 0, len, 0⟩) s = .next (s.doeReply [1#8, 0#8, 0#8, 1#8]) ∧
    exec (.doeDiscovery ⟨1, 0, len, 1⟩) s = .next (s.doeReply [1#8, 0#8, 1#8, 2#8]) ∧
    exec (.doeDiscovery ⟨1, 0, len, 2⟩) s = .next (s.doeReply [0x98#8, 0x1E#8, 2#8, 0#8])) ∧
  (∀ (s : State) (vendor type len i : Nat), s.linkUp = true → (65536 < len ∨ (vendor, type) ∉ doeProtocols) →
    exec (.doeDiscovery ⟨vendor, type, len, i⟩) s = .next { s with uci := { s.uci with doeError := true } }) ∧
  (∀ s : State, s.linkUp = true → ∃ head bs, exec (.cdatRead 1) s = .next (s.doeReply (head ++ bs)) ∧ head.length = 4 ∧
    bs.length = 24 ∧ field bs 16 8 = 1344 * 2 ^ 30) ∧
  (∀ (s : State) (handle : Nat), s.linkUp = true → 4 ≤ handle →
    exec (.cdatRead handle) s = .next { s with uci := { s.uci with doeError := true } }) ∧
  (∀ s : State, s.linkUp = true → s.sec.transition = none →
    exec .getVersion s = .next (({ s with uci := { s.uci with spdmVersion := true, spdmCaps := false, spdmAlgs := false } } :
      State).doeReply [0x10#8, 4#8, 0#8, 0#8, 0#8, 1#8, 0#8, 0x12#8])) ∧
  (∀ s : State, s.linkUp = true → s.sec.transition = none → s.uci.spdmVersion = true →
    ∃ u, exec .getCapabilities s = .next u ∧ u.uci.spdmCaps = true ∧ u.uci.spdmAlgs = s.uci.spdmAlgs ∧
      (∃ bs, Out.doe bs ∈ u.out ∧ slice bs 0 2 = [0x12#8, 0x61#8] ∧ slice bs 8 4 = [0x16#8, 0#8, 0#8, 0#8]) ∧
      Within [.uci, .out, .free] s u) ∧
  (∀ s : State, s.linkUp = true → s.sec.transition = none → s.uci.spdmVersion = true → s.uci.spdmCaps = true →
    ∃ u, exec (.negotiateAlgorithms true true) s = .next u ∧ u.uci.spdmAlgs = true ∧
      (∃ bs, Out.doe bs ∈ u.out ∧ slice bs 0 2 = [0x12#8, 0x63#8] ∧ slice bs 8 4 = [2#8, 0#8, 0#8, 0#8] ∧
        slice bs 12 4 = [8#8, 0#8, 0#8, 0#8] ∧ slice bs 16 4 = [1#8, 0#8, 0#8, 0#8]) ∧ Within [.uci, .out] s u) ∧
  (∀ s : State, s.linkUp = true → s.sec.transition = none → s.spdmReady = true →
    exec .getDigests s = .next (s.doeReply ([0x12#8, 1#8, 0#8, 1#8] ++ sha256 certificateBytes))) ∧
  (∀ (s : State) (offset len : Nat), s.linkUp = true → s.sec.transition = none → s.spdmReady = true →
    ∃ u, exec (.getCertificate 0 offset len) s = .next u ∧
      u = (if Config.certificateLen % 65536 ≤ offset then s.spdmError 1
        else s.doeReply ([0x12#8, 2#8, 0#8, 0#8] ++ toLE 2 (min len (Config.certificateLen % 65536 - offset)) ++
          toLE 2 (Config.certificateLen % 65536 - offset - min len (Config.certificateLen % 65536 - offset)) ++
          slice certificateBytes offset len))) ∧
  (∀ (s : State) (nonce : List Byte), s.linkUp = true → s.sec.transition = none → s.spdmReady = true →
    ∃ u own, exec (.challenge 0 nonce) s = .next u ∧ own.length = 32 ∧
      (∃ bs, Out.doe bs ∈ u.out ∧ bs = [0x12#8, 3#8, 0#8, 1#8] ++ sha256 certificateBytes ++ own ++ List.replicate 34 0#8 ++
        identitySignature (nonce ++ ([0x12#8, 3#8, 0#8, 1#8] ++ sha256 certificateBytes ++ own ++ List.replicate 34 0#8))) ∧
      Within [.uci, .out, .free] s u) ∧
  (∀ (s : State) (i : Nat) (nonce : List Byte) (m : Nat × List Byte), s.linkUp = true → s.sec.transition = none → s.spdmReady = true →
    0 < i → i < 255 → s.measurement i = some m →
    ∃ u own, exec (.getMeasurements i false nonce) s = .next u ∧ own.length = 32 ∧
      Out.doe ([0x12#8, 0x60#8, 0#8, 0#8, 1#8] ++ toLE 3 (measurementBlock i m).length ++ measurementBlock i m ++ own ++ [0#8, 0#8]) ∈ u.out ∧
      Within [.uci, .out, .free] s u) ∧
  (∀ (s : State) (p : Nat) (l : PartLast), p < 16 → s.lastOf p = some l → l.measurement ≠ [] → s.measurement (16 + p) = some (3, l.measurement)) ∧
  (∀ (s : State) (nonce : List Byte) (i slot a b : Nat) (x y : Bool), s.linkUp = true → s.sec.transition ≠ none →
    exec .getVersion s = .next (s.spdmError 3) ∧ exec .getCapabilities s = .next (s.spdmError 3) ∧
    exec (.negotiateAlgorithms x y) s = .next (s.spdmError 3) ∧ exec .getDigests s = .next (s.spdmError 3) ∧
    exec (.getCertificate slot a b) s = .next (s.spdmError 3) ∧ exec (.challenge slot nonce) s = .next (s.spdmError 3) ∧
    exec (.getMeasurements i x nonce) s = .next (s.spdmError 3)) ∧
  (∀ (s : State) (nonce : List Byte) (i slot a b : Nat) (x : Bool), s.linkUp = true → s.sec.transition = none → s.spdmReady = false →
    exec .getDigests s = .next (s.spdmError 4) ∧ exec (.getCertificate slot a b) s = .next (s.spdmError 4) ∧
    exec (.challenge slot nonce) s = .next (s.spdmError 4) ∧ exec (.getMeasurements i x nonce) s = .next (s.spdmError 4)) ∧
  ∀ (s : State) (v t len i : Nat), s.linkUp = false → exec (.doeDiscovery ⟨v, t, len, i⟩) s = .next s ∧ exec (.cdatRead i) s = .next s ∧
    exec .getVersion s = .next s

/-- R93, R195, R196, R223, R224, R255, R282, R300, R324, R362, R388, R444, R465: the clear bits of the counters. Each clears its own counters
and nothing else.
Model's choice: log entry 4. -/
def Obligations.CounterClears : Prop :=
  (∀ (s : State) (t : TileId), (s.serves t).isSome = true →
    Clears (.tileCntClear t) [fTileCntIssue_count (tileDie t) (tileSite t), fTileCntSteps_count (tileDie t) (tileSite t),
      fTileCntRotate_count (tileDie t) (tileSite t), fTileCntPark_count (tileDie t) (tileSite t),
      fTileCntBarrier_count (tileDie t) (tileSite t)] s) ∧
  (∀ (s : State) (t : TileId), s.serves t = none → exec (.tileCntClear t) s = .next s) ∧
  (∀ (s : State) (d : Die), Clears (.meshCntClear d) [fMeshCntRetry_count d] s) ∧
  (∀ (s : State) (d : Die) (e : Fin 4), Clears (.weltCntClear d e) [fWeltCntReplay_count d e, fWeltCntRepair_count d e] s) ∧
  (∀ (s : State) (d : Die) (south : Bool) (w : Nat), w = (if south then 1 else 0) →
    Clears (.l2CntClear d south) [fL2CntHit_count d w, fL2CntMiss_count d w, fL2CntPeer_count d w, fL2CntVictim_count d w,
      fL2CntMerge_count d w, fL2CntInval_count d w] s) ∧
  (∀ (s : State) (d : Die), Clears (.l3CntClear d) (((List.range 64).flatMap fun i =>
      [fL3SlHit_count d i, fL3SlMiss_count d i, fL3SlMerge_count d i, fL3SlWb_count d i, fL3SlBypass_count d i,
        fL3SlMemred_count d i]) ++ (List.range 16).flatMap fun p =>
      [fL3PartRefused_share_full d p, fL3PartRefused_no_frame d p, fL3PartRefused_not_homed d p]) s) ∧
  (∀ (s : State) (d : Die), Clears (.dirCntClear d) [fDirCntEvict_count d, fDirCntInv_count d, fDirCntBisnp_count d, fDirCntFwd_count d,
      fDirCntFwdmiss_count d, fDirCntProto_count d, fDirCntStale_count d, fDirCntWait_count d] s) ∧
  (∀ (s : State) (d : Die), Clears (.eyeCntClear d) [fEyeCntArrive_count d, fEyeCntOk_count d, fEyeCntVoid_count d] s) ∧
  (∀ (s : State) (d : Die), Clears (.dramCntClear d) ([fDramCntCe_count d, fDramCntUe_count d, fDramCntOndie_count d] ++
      (List.range 64).flatMap fun c => [fDramChCe_count d c, fDramChUe_count d c, fDramChRefresh_count d c]) s) ∧
  (∀ s : State, Clears .uciCntClear [fUciCntReplay_count, fUciCntUnsup_count, fUciCntMemerr_count] s) ∧
  (∀ (s : State) (k : Port) (d i : Nat), d = k.val / 2 → i = k.val % 2 →
    Clears (.outPortCntClear k) [fOutPortTx_count d i, fOutPortRx_count d i, fOutPortDrop_count d i, fOutPortStale_count d i,
      fOutPortPfc_received d i, fOutPortPfc_sent d i, fOutPortFec_count d i] s) ∧
  (∀ s : State, Clears .outJobCntClear [fOutJobCntBarrier_count, fOutJobCntFailed_count] s) ∧
  (∀ (s : State) (n : Fin 16) (p : Nat), s.partOfFn (n.val + 1) = some p →
    Clears (.partAccClear n) ((List.range 16).flatMap fun k => [fPartAccIssued_count p k, fPartAccWaitSt_stitches p k,
      fPartAccWaitNs_ns p k, fPartAccPreempt_count p k, fPartAccDone_count p k, fPartAccFail_overruns p k,
      fPartAccFail_step_faults p k]) s) ∧
  (∀ (s : State) (n : Fin 16), s.partOfFn (n.val + 1) = none → exec (.partAccClear n) s = .next s) ∧
  (∀ s : State, ∃ u, exec .pwrCntClear s = .next u ∧ (∀ r < 7, u.get (fPwrThrUs_us r) = 0) ∧ u.power.clearedAt = s.clock.now ∧
    Within [.regs, .power] s u ∧ RegsKept ((List.range 7).map fun r => fPwrThrUs_us r) s u) ∧
  ∀ (s : State) (d : Die), Clears (.awlCntClear d) ((List.range 7).map fun k => fAwlTime_ns d k) s

/-- R253, R255, R362, R409, R413, R444: ring tails and peeks. A tail beyond the head, or more than the ring behind it, is ignored; a peek shows the
entry, the queue pair or the label that its control register names. What a register write
does the read shows; an access of 4 bytes or of an unassigned offset does nothing but log itself, and reads as ones or as 0. -/
def Obligations.TailsAndPeeks : Prop :=
  (∀ (s : State) (v : Word) (gap : Nat), gap = (s.get fFltRecHead_count + 2 ^ 32 - v.toNat % 2 ^ 32) % 2 ^ 32 →
    (gap ≤ 1024 → ∃ u, exec (.recTailWrite v) s = .next u ∧ u.get fFltRecTail_count = v.toNat % 2 ^ 32 ∧
      (u.get fFltRecStatus_full = 1 ↔ gap = 1024) ∧ Within [.regs] s u ∧ RegsKept [fFltRecTail_count, fFltRecStatus_full] s u) ∧
    (1024 < gap → exec (.recTailWrite v) s = .next s)) ∧
  (∀ (s : State) (v : Word) (gap : Nat), gap = (s.get fFltEvHead_count + 2 ^ 32 - v.toNat % 2 ^ 32) % 2 ^ 32 →
    (gap ≤ 8192 → ∃ u, exec (.evTailWrite v) s = .next u ∧ u.get fFltEvTail_count = v.toNat % 2 ^ 32 ∧
      (u.get fFltEvStatus_full = 1 ↔ gap = 8192) ∧ Within [.regs] s u ∧ RegsKept [fFltEvTail_count, fFltEvStatus_full] s u) ∧
    (8192 < gap → exec (.evTailWrite v) s = .next s)) ∧
  (∀ (s : State) (d : Die) (v : Word) (gap : Nat), gap = (s.get (fDirLostHead_count d) + 2 ^ 32 - v.toNat % 2 ^ 32) % 2 ^ 32 →
    (gap ≤ 4096 → ∃ u, exec (.lostTailWrite d v) s = .next u ∧ u.get (fDirLostTail_count d) = v.toNat % 2 ^ 32 ∧
      (u.get (fDirLostStatus_full d) = 1 ↔ gap = 4096) ∧ Within [.regs] s u ∧
      RegsKept [fDirLostTail_count d, fDirLostStatus_full d] s u) ∧
    (4096 < gap → exec (.lostTailWrite d v) s = .next s)) ∧
  (∀ (s : State) (d : Die) (v : Word) (e : DirEnt), s.coh.dir = [e] →
    dirKey e.line e.bulk = (d.val * 64 + v.toNat % 64) * 1024 + v.toNat / 64 % 1024 → e.way = v.toNat / 65536 % 16 →
    ∃ u x, exec (.dirPeek d v) s = .next u ∧ x = u.get (fDirPeekData_entry d) ∧ x % 2 = 1 ∧ x / 2 % 4 = e.state.code ∧
      x / 8 % 2 = (if e.bulk then 1 else 0) ∧ x / 16 % 2 ^ 17 = e.presence % 2 ^ 17 ∧ Within [.regs] s u ∧
      RegsKept [fDirPeekCtrl_slice d, fDirPeekCtrl_set d, fDirPeekCtrl_way d, fDirPeekData_entry d] s u) ∧
  (∀ (s : State) (d : Die) (v : Word), (∀ e ∈ s.coh.dir,
      dirKey e.line e.bulk ≠ (d.val * 64 + v.toNat % 64) * 1024 + v.toNat / 64 % 1024 ∨ e.way ≠ v.toNat / 65536 % 16) →
    ∃ u, exec (.dirPeek d v) s = .next u ∧ u.get (fDirPeekData_entry d) = 0 ∧ Within [.regs] s u ∧
      RegsKept [fDirPeekCtrl_slice d, fDirPeekCtrl_set d, fDirPeekCtrl_way d, fDirPeekData_entry d] s u) ∧
  (∀ (s : State) (v : Word) (y : Qp), y = s.qp (v.toNat % 16) (v.toNat / 16 % 4096) →
    ∃ u, exec (.qpPeek v) s = .next u ∧ u.get fOutQpPeekCtrl_partition = v.toNat % 16 ∧
      u.get fOutQpPeekCtrl_qp = v.toNat / 16 % 4096 ∧ u.get fOutQpPeekData_state = y.state % 4 ∧
      u.get fOutQpPeekData_error = y.error % 16 ∧ u.get fOutQpPeekData_psn = y.psn % 2 ^ 24 ∧
      (y.state ≠ 0 → u.get fOutQpPeekData_qpn = y.incarnation % 256 * 2 ^ 16 + v.toNat % 16 * 2 ^ 12 + v.toNat / 16 % 4096) ∧
      Within [.regs] s u ∧ RegsKept [fOutQpPeekCtrl_partition, fOutQpPeekCtrl_qp, fOutQpPeekData_state, fOutQpPeekData_error,
        fOutQpPeekData_psn, fOutQpPeekData_qpn] s u) ∧
  (∀ (s : State) (v : Word) (e : Nat × Nat), e = mapGet (16000, 0) s.power.labels (v.toNat % 8 * 256 + v.toNat / 8 % 256) →
    ∃ u, exec (.labelPeek v) s = .next u ∧ u.get fPwrLabelCtrl_die = v.toNat % 8 ∧ u.get fPwrLabelCtrl_label = v.toNat / 8 % 256 ∧
      u.get fPwrLabelData_nj = e.1 % 2 ^ 32 ∧ u.get fPwrLabelData_updates = min (2 ^ 32 - 1) e.2 ∧ Within [.regs] s u ∧
      RegsKept [fPwrLabelCtrl_die, fPwrLabelCtrl_label, fPwrLabelData_nj, fPwrLabelData_updates] s u) ∧
  (∀ (s : State) (v : Word), (s.get fFltRecHead_count + 2 ^ 32 - v.toNat % 2 ^ 32) % 2 ^ 32 ≤ 1024 →
    ∃ u, exec (.registerWrite .pf kFltRecTail.off v) s = .next u ∧ u.get fFltRecTail_count = v.toNat % 2 ^ 32 ∧
      (∀ w : Word, exec (.narrowAccess .pf kFltRecTail.off 8 false w) u = .next { u with lastRead := v.toNat % 2 ^ 32 }) ∧
      Within [.regs] s u ∧ RegsKept [fFltRecTail_count, fFltRecStatus_full] s u) ∧
  (∀ (s : State) (v : Word) (w : Bool),
    exec (.narrowAccess .pf kFltRecTail.off 4 w v) s =
      .next (if w then s.event 0x18 1 kFltRecTail.off 1024 else { s.event 0x18 1 kFltRecTail.off 1024 with lastRead := 2 ^ 32 - 1 })) ∧
  ∀ (s : State) (sp : Space) (off : Nat) (w : Bool), s.target sp off 8 = .unassigned →
    ∃ u, exec (.unassignedAccess sp off w) s = .next u ∧ (w = false → u.lastRead = 0) ∧
      Within [.regs, .uci, .flt, .out, .lastRead] s u ∧ RegsKept (eventFields s) s u

/-- R8, R10, R11, R22, R323: what an access through a BAR does. A narrow access changes nothing but BAD_ACCESS, and reads as ones; an unassigned offset reads
as 0; a static field of a block that runs keeps its value; a stitch field takes the write in its shadow; a write-one-to-clear field loses the bits written 1;
a clear bit does what its command does.
Model's choices: log entries 13, 105. -/
def Obligations.RegisterAccess : Prop :=
  (∀ (s : State) (sp : Space) (off width : Nat) (v : Word), msixOff sp off = none → (width ≠ 8 ∨ off % 8 ≠ 0) →
    exec (.narrowAccess sp off width true v) s = .next (s.event 0x18 1 off (spaceFn sp + 256 * width)) ∧
    exec (.narrowAccess sp off width false v) s =
      .next { s.event 0x18 1 off (spaceFn sp + 256 * width) with lastRead := 2 ^ (8 * width) - 1 }) ∧
  (∀ (s : State) (sp : Space) (off : Nat), s.target sp off 8 = .unassigned →
    exec (.unassignedAccess sp off true) s = .next (s.event 0x18 1 off (spaceFn sp + 2048)) ∧
    exec (.unassignedAccess sp off false) s = .next { s.event 0x18 1 off (spaceFn sp + 2048) with lastRead := 0 }) ∧
  (∀ (s : State) (sp : Space) (off : Nat) (w : Bool), s.target sp off 8 ≠ .unassigned → exec (.unassignedAccess sp off w) s = .next s) ∧
  (∀ (s : State) (n : Fin 16) (off : Nat) (v : Word), s.partOfFn (n.val + 1) = none → msixOff (.vf n) off = none → off % 8 = 0 →
    off < barSize (.vf n) →
    exec (.registerWrite (.vf n) off v) s = .next s ∧ exec (.narrowAccess (.vf n) off 8 false v) s = .next { s with lastRead := 0 }) ∧
  (∀ (s : State) (v : Word), s.loaderIdle = true →
    ∃ u, exec (.registerWrite .pf fLdrAddr_addr.addr v) s = .next u ∧ u.get fLdrAddr_addr = v.toNat / 64 ∧ Within [.regs] s u ∧
      RegsKept [fLdrAddr_addr] s u) ∧
  (∀ (s : State) (v : Word), s.loaderIdle = false →
    ∃ u, exec (.registerWrite .pf fLdrAddr_addr.addr v) s = .next u ∧ u.get fLdrAddr_addr = s.get fLdrAddr_addr ∧
      u.get fCfgStatus_busy_write = 1 ∧ u.get fCfgStatus_busy_offset = fLdrAddr_addr.addr / 8 ∧ Within [.regs] s u ∧
      RegsKept [fCfgStatus_busy_write, fCfgStatus_busy_offset] s u) ∧
  (∀ (s : State) (v : Word),
    ∃ u, exec (.registerWrite .pf fPwrCapSet_cap_w.addr v) s = .next u ∧
      mapGet none u.cfg.shadow fPwrCapSet_cap_w.key = some (v.toNat % 2 ^ 13) ∧ u.cfg.checks = s.cfg.checks ∧
      u.cfg.accepted = s.cfg.accepted ∧ Within [.cfg] s u) ∧
  (∀ (s : State) (v : Word),
    ∃ u, exec (.registerWrite .pf fPwrThrottle_seen.addr v) s = .next u ∧
      (∀ i < 7, (u.get fPwrThrottle_seen).testBit i = ((s.get fPwrThrottle_seen).testBit i && !v.toNat.testBit (8 + i))) ∧
      Within [.regs] s u ∧ RegsKept [fPwrThrottle_seen] s u) ∧
  (∀ (s : State) (v : Word), exec (.registerWrite .pf fFltRecHead_count.addr v) s = .next s) ∧
  (∀ (s : State) (v : Word), exec (.narrowAccess .pf fFltRecHead_count.addr 8 false v) s =
    .next { s with lastRead := s.get fFltRecHead_count }) ∧
  (∀ (s : State) (d : Die) (v : Word), v.toNat.testBit 0 = true →
    exec (.registerWrite .pf (kDirCntCtrl.addr d 0) v) s = exec (.dirCntClear d) s ∧
    exec (.registerWrite .pf (kDramCntCtrl.addr d 0) v) s = exec (.dramCntClear d) s) ∧
  (∀ (s : State) (v : Word), exec (.registerWrite .pf kFltRecTail.off v) s = exec (.recTailWrite v) s ∧
    exec (.registerWrite .pf kPwrLabelCtrl.off v) s = exec (.labelPeek v) s) ∧
  (∀ (s : State) (k : Fin 8) (v : Word),
    ∃ u, exec (.registerWrite .pf (0x480000 + 16 * k.val) v) s = .next u ∧
      u.vector 0 k = { s.vector 0 k with addrLo := v.toNat % 2 ^ 32, addrHi := v.toNat / 2 ^ 32 } ∧
      (∀ f j, (f ≠ 0 ∨ j ≠ k.val) → j < 32 → u.vector f j = s.vector f j) ∧ Within [.uci] s u) ∧
  ∀ (s : State) (k : Fin 8) (v : Word), v.toNat.testBit 32 = true →
    ∃ u, exec (.registerWrite .pf (0x480008 + 16 * k.val) v) s = .next u ∧
      u.vector 0 k = { s.vector 0 k with data := v.toNat % 2 ^ 32, masked := true } ∧
      (∀ f j, (f ≠ 0 ∨ j ≠ k.val) → j < 32 → u.vector f j = s.vector f j) ∧ Within [.uci] s u

/-- R327 to R330, R328: an outer port's link, preemption, pauses and dropped frames.

R343 to R346: PTP at the ports. A Sync on the slave port gives the offset and whether it is within 20 ns; its correction waits for the ticks.
A master port sends a Sync with its Follow_Up, and answers a Delay_Req; a message of another domain is only counted.
Model's choices: log entries 79, 80, 143, 145, 146. -/
def Obligations.OuterPortsAndPtp : Prop :=
  ((∀ (s : State) (k : Port) (d i : Nat), d = k.val / 2 → i = k.val % 2 → s.get (fOutPortStatus_link_up d i) = 1 →
    exec (.portLinkChange k true) s = .next s ∧
    ∃ u, exec (.portLinkChange k false) s = .next u ∧ u.get (fOutPortStatus_link_up d i) = 0 ∧ u.get (fOutPortStatus_preempt d i) = 0 ∧
      u.get (fOutPortStatus_link_losses d i) = satAdd (fOutPortStatus_link_losses d i).width (s.get (fOutPortStatus_link_losses d i)) 1 ∧
      Within [.regs, .uci, .flt, .out] s u ∧ RegsKept ([fOutPortStatus_link_up d i, fOutPortStatus_preempt d i,
        fOutPortStatus_link_losses d i, fFltEvStatus_dropped] ++ eventFields s) s u) ∧
  (∀ (s : State) (k : Port) (d i : Nat), d = k.val / 2 → i = k.val % 2 → s.get (fOutPortStatus_link_up d i) = 0 →
    exec (.portLinkChange k false) s = .next s ∧
    ∃ u, exec (.portLinkChange k true) s = .next u ∧ u.get (fOutPortStatus_link_up d i) = 1 ∧ Within [.regs, .uci, .flt, .out] s u ∧
      RegsKept ([fOutPortStatus_link_up d i, fFltEvStatus_dropped] ++ eventFields s) s u) ∧
  (∀ (s : State) (k : Port) (ok : Bool), s.portOn k = true → (s.portEnt k).preemption = true →
    ∃ u, exec (.preemptionVerify k ok) s = .next u ∧ u.get (fOutPortStatus_preempt (k.val / 2) (k.val % 2)) = (if ok then 1 else 0) ∧
      Within [.regs] s u ∧ RegsKept [fOutPortStatus_preempt (k.val / 2) (k.val % 2)] s u) ∧
  (∀ (s : State) (k : Port) (ok : Bool), (s.portOn k = false ∨ (s.portEnt k).preemption = false) →
    exec (.preemptionVerify k ok) s = .next s) ∧
  (∀ (s : State) (k : Port) (pcp : Fin 8) (t d i : Nat), d = k.val / 2 → i = k.val % 2 → s.portOn k = true →
    pcp.val = s.portsHdr.rocePcp → (s.portEnt k).pfc = true → 0 < t →
    ∃ u, exec (.pfcPause k pcp t) s = .next u ∧ u.get (fOutPortStatus_paused d i) = 2 ^ pcp.val ∧
      u.get (fOutPortPfc_received d i) = satAdd (fOutPortPfc_received d i).width (s.get (fOutPortPfc_received d i)) 1 ∧
      Within [.regs] s u ∧ RegsKept [fOutPortStatus_paused d i, fOutPortPfc_received d i, fOutPortRx_count d i] s u) ∧
  (∀ (s : State) (k : Port) (pcp : Fin 8) (p : Nat) (h : FrameHdr) (x : Pkt), s.portOn k = true →
    pcp.val = s.portsHdr.rocePcp → (s.portEnt k).pfc = true → (s.portSt k).queued = [⟨p, h, x⟩] →
    ∃ u, exec (.pfcPause k pcp 0) s = .next u ∧ u.portPaused k = false ∧ (u.portSt k).queued = [] ∧
      u.out = s.out ++ [.packet k h x] ∧ Within [.regs, .outer, .out] s u) ∧
  (∀ (s : State) (k : Port) (pcp : Fin 8) (t : Nat), s.portOn k = true → (pcp.val ≠ s.portsHdr.rocePcp ∨ (s.portEnt k).pfc = false) →
    exec (.pfcPause k pcp t) s = .next (s.bump (fOutPortPfc_received (k.val / 2) (k.val % 2)) 1)) ∧
  (∀ (s : State) (k : Port) (pcp : Fin 8) (t : Nat), s.portOn k = false → exec (.pfcPause k pcp t) s = .next s ∧
    exec (.droppedFrame k) s = .next s) ∧
  (∀ (s : State) (k : Port) (p : Nat) (h : FrameHdr) (x : Pkt), s.portPaused k = true → (s.portSt k).queued = [⟨p, h, x⟩] →
    ∃ u, exec (.pfcPauseEnd k) s = .next u ∧ u.portPaused k = false ∧ (u.portSt k).queued = [] ∧ u.out = s.out ++ [.packet k h x] ∧
      Within [.regs, .outer, .out] s u) ∧
  (∀ (s : State) (k : Port) (p q : Nat) (h g : FrameHdr) (x y : Pkt), s.portPaused k = true →
    (s.portSt k).queued = [⟨p, h, x⟩, ⟨q, g, y⟩] → p ≠ q → (s.portEnt k).shares.getD p 0 = 0 → 0 < (s.portEnt k).shares.getD q 0 →
    ∃ u, exec (.pfcPauseEnd k) s = .next u ∧ (u.portSt k).queued = [] ∧ u.out = s.out ++ [.packet k g y, .packet k h x]) ∧
  (∀ (s : State) (k : Port), s.portPaused k = false → exec (.pfcPauseEnd k) s = .next s) ∧
  ∀ (s : State) (k : Port), s.portOn k = true →
    exec (.droppedFrame k) s = .next (s.addTo (fOutPortDrop_count (k.val / 2) (k.val % 2)) 1)) ∧
  ((∀ (s : State) (k : Port) (off : Int), s.portOn k = true → s.portsHdr.ptpSlave = k.val → -8388608 ≤ off → off < 8388608 →
    ∃ u, exec (.ptpMessage k ⟨s.portsHdr.ptpDomain, .sync off⟩) s = .next u ∧ u.get fOutPtpStatus_locked = 1 ∧
      (u.get fOutPtpStatus_offset_ns : Int) = off % 16777216 ∧ (u.get fOutPtpStatus_aligned = 1 ↔ off.natAbs ≤ 20) ∧
      u.outer.ptp.pending = -off ∧ u.outer.ptp.offset = s.outer.ptp.offset ∧ Within [.regs, .outer, .out, .free] s u ∧
      RegsKept [fOutPtpStatus_locked, fOutPtpStatus_offset_ns, fOutPtpStatus_aligned, fOutPortRx_count (k.val / 2) (k.val % 2),
        fOutPortTx_count (k.val / 2) (k.val % 2)] s u) ∧
  (∀ (s : State) (k : Port) (dom : Nat) (m : PtpMsg), s.portOn k = true →
    (dom ≠ s.portsHdr.ptpDomain ∨ m = .announce ∨ m = .delayResp ∨ (m = .delayReq ∧ (s.portEnt k).ptpMaster = false) ∨
      (s.portsHdr.ptpSlave ≠ k.val ∧ ∃ off, m = .sync off)) →
    exec (.ptpMessage k ⟨dom, m⟩) s = .next (s.addTo (fOutPortRx_count (k.val / 2) (k.val % 2)) 1)) ∧
  (∀ (s : State) (k : Port) (h : FrameHdr), s.portOn k = true → (s.portEnt k).ptpMaster = true →
    h = { s.frameHdr k s.portsHdr.ptpPcp with srcUdp := some 320, dstUdp := 320 } →
    ∃ u t, exec (.ptpMessage k ⟨s.portsHdr.ptpDomain, .delayReq⟩) s = .next u ∧ u.out = s.out ++ [.ptp k h .delayResp t] ∧
      (t - s.ptpNow).natAbs ≤ 2 ∧ Within [.regs, .out, .free] s u) ∧
  (∀ (s : State) (k : Port) (dom : Nat) (m : PtpMsg), s.portOn k = false → exec (.ptpMessage k ⟨dom, m⟩) s = .next s ∧
    exec (.syncSend k) s = .next s) ∧
  (∀ (s : State) (k : Port) (h g : FrameHdr), s.portOn k = true → (s.portEnt k).ptpMaster = true →
    h = { s.frameHdr k s.portsHdr.ptpPcp with srcUdp := some 319, dstUdp := 319 } →
    g = { s.frameHdr k s.portsHdr.ptpPcp with srcUdp := some 320, dstUdp := 320 } →
    ∃ u t t' rest, exec (.syncSend k) s = .next u ∧ u.out = s.out ++ [.ptp k h .sync t, .ptp k g .followUp t'] ++ rest ∧
      rest.length ≤ 1 ∧ (t - s.ptpNow).natAbs ≤ 2 ∧ Within [.regs, .out, .free] s u ∧
      RegsKept [fOutPortTx_count (k.val / 2) (k.val % 2)] s u) ∧
  (∀ (s : State) (k : Port), (s.portEnt k).ptpMaster = false → exec (.syncSend k) s = .next s) ∧
  (∀ s : State, s.portsHdr.ptpSlave < 16 →
    ∃ u, exec .masterLost s = .next u ∧ u.get fOutPtpStatus_locked = 0 ∧ u.get fOutPtpStatus_aligned = 0 ∧
      u.get fOutPtpStatus_offset_ns = s.get fOutPtpStatus_offset_ns ∧ Within [.regs] s u) ∧
  ∀ s : State, 16 ≤ s.portsHdr.ptpSlave → exec .masterLost s = .next s)

/-- R328, R333 to R339: packets that reach a ready queue pair, in PSN order; those with a failed ICRC are dropped, those of no ready queue pair are stale.
Model's choice: log entry 81. -/
def Obligations.PacketArrival : Prop :=
  (∀ (s w : State) (k : Port) (x : Pkt) (p q : Nat) (c : QpCfg), s.portOn k = true → x.icrcOk = true → x.ce = false →
    s.readyQp x.qpn = some (p, q, c) → w = s.rxCount k →
    (x.psn = (s.qp p q).expected →
      (x.op ∈ [.writeFirst, .writeMiddle, .writeLast, .writeOnly] → exec (.rdmaWrite k x) s = .next (w.writePacket p q c x)) ∧
      (x.op ∈ [.writeLastImm, .writeOnlyImm] → exec (.rdmaWriteWithImmediate k x) s = .next (w.writePacket p q c x)) ∧
      (x.op ∈ [.sendFirst, .sendMiddle, .sendLast, .sendOnly] → exec (.send k x) s = .next (w.sendPacket p q c x)) ∧
      (x.op = .readRequest → exec (.rdmaReadRequest k x) s = .next (w.readPacket p q c x))) ∧
    (x.psn ≠ (s.qp p q).expected → psnLe x.psn (s.qp p q).expected = true →
      (x.op = .writeOnly → exec (.rdmaWrite k x) s = .next (w.qpReply p q {
        op := .ack, qpn := 0, psn := ((s.qp p q).expected + 2 ^ 24 - 1) % 2 ^ 24 })) ∧
      (x.op = .readRequest → exec (.rdmaReadRequest k x) s = .next (w.readPacket p q c x))) ∧
    (psnLe x.psn (s.qp p q).expected = false → x.op = .sendOnly →
      exec (.send k x) s = .next (w.qpReply p q { op := .nakSequence, qpn := 0, psn := (s.qp p q).expected })) ∧
    (x.op ∈ [.readFirst, .readMiddle, .readLast, .readOnly] → exec (.rdmaReadResponse k x) s = .next (w.readResponse p q c x)) ∧
    (x.op = .ack → exec (.ack k x) s = .next (w.qpAcked p q x.psn)) ∧
    (x.op = .nakSequence → exec (.nak k x) s = .next (w.qpResend p q x.psn)) ∧
    (x.op = .nakAccess → exec (.nak k x) s = .next (w.qpError p q 3)) ∧
    (x.op ∈ [.rnrNak, .nakInvalid, .nakOperational] → exec (.nak k x) s = .next w) ∧
    (x.op = .other → exec (.unsupportedOpcode k x) s = .next (w.nakInvalid p q x)) ∧
    (x.op = .cnp → ∃ u, exec (.cnp k x) s = .next u ∧ u.qp p q = { s.qp p q with rate := max 1 ((s.qp p q).rate / 2) } ∧
      (∀ p' q', p' * 4096 + q' ≠ p * 4096 + q → u.qp p' q' = s.qp p' q') ∧ Within [.regs, .outer] s u)) ∧
  (∀ (s : State) (k : Port) (x : Pkt), s.portOn k = true → x.icrcOk = true → s.readyQp x.qpn = none →
    (x.op = .writeOnly → exec (.rdmaWrite k x) s = .next (s.rxStale k)) ∧ (x.op = .ack → exec (.ack k x) s = .next (s.rxStale k)) ∧
    (x.op = .other → exec (.unsupportedOpcode k x) s = .next (s.rxStale k))) ∧
  (∀ (s : State) (k : Port) (x : Pkt), s.portOn k = true → x.icrcOk = false →
    (x.op = .writeOnly → exec (.rdmaWrite k x) s = .next (s.rxDrop k)) ∧ (x.op = .cnp → exec (.cnp k x) s = .next (s.rxDrop k))) ∧
  (∀ (s : State) (k : Port) (x : Pkt), s.portOn k = false → exec (.rdmaWrite k x) s = .next s ∧ exec (.send k x) s = .next s ∧
    exec (.rdmaWriteWithImmediate k x) s = .next s ∧ exec (.rdmaReadRequest k x) s = .next s ∧
    exec (.rdmaReadResponse k x) s = .next s ∧ exec (.ack k x) s = .next s ∧ exec (.nak k x) s = .next s ∧
    exec (.cnp k x) s = .next s ∧ exec (.unsupportedOpcode k x) s = .next s) ∧
  (∀ (s : State) (p q : Nat) (c : QpCfg) (x : Pkt), s.qpCfg p q = some c → x.ce = true → x.op = .writeOnly →
    (s.qp p q).lastCnpSent = none →
    (s.congestion p q x).out = s.out ++ [s.packetOut c {
      op := .cnp, qpn := qpNumber (s.get fOutJobInc_incarnation) c.peerPart c.peerQp }] ∧
    (s.congestion p q x).qp p q = { s.qp p q with lastCnpSent := some s.clock.now }) ∧
  (∀ (s : State) (p q t : Nat) (x : Pkt), (s.qp p q).lastCnpSent = some t → s.clock.now < t + 50000 → s.congestion p q x = s)

/-- R277, R336, R337: a request at the responder. A write or read outside its window is refused and puts the queue pair in error; one with no bytes is answered
at once; a receive area without a free slot gives RNR.
Model's choice: log entry 81. -/
def Obligations.Responder : Prop :=
  (∀ (s : State) (p q : Nat) (c : QpCfg) (x : Pkt), s.qpCfg p q = some c → x.op = .writeOnly → x.data = [] → (s.qp p q).begun = false →
    (s.qp p q).rx = [] → (s.qp p q).state = 1 → s.rethOk p x true = true → x.packets = false → s.portPaused c.port = false →
    (s.portSt c.port).pauseSent = false → (s.portEnt c.port).pfc = false →
    ((s.writePacket p q c x).qp p q).expected = ((s.qp p q).expected + 1) % 2 ^ 24 ∧
      ((s.writePacket p q c x).qp p q).begun = false ∧ ((s.writePacket p q c x).qp p q).rx = [] ∧
      (s.writePacket p q c x).out = s.out ++ [s.packetOut c {
        op := .ack, qpn := qpNumber (s.get fOutJobInc_incarnation) c.peerPart c.peerQp, psn := x.psn }] ∧
      Within [.regs, .outer, .out] s (s.writePacket p q c x)) ∧
  (∀ (s : State) (p q : Nat) (c : QpCfg) (x : Pkt), x.op = .writeFirst ∨ x.op = .writeOnly → (s.qp p q).begun = false →
    x.data.length ≤ mtuOf c → s.rethOk p x true = false → s.writePacket p q c x = s.nakAccess p q x) ∧
  (∀ (s : State) (p q : Nat) (c : QpCfg) (x : Pkt), x.op = .writeMiddle ∨ x.op = .writeLast → (s.qp p q).begun = false →
    s.writePacket p q c x = s.nakInvalid p q x) ∧
  (∀ (s : State) (p : Nat) (x : Pkt) (l : PartLast), s.lastOf p = some l → l.job.windows[x.rkey % 2 ^ 16]? = none →
    s.rethOk p x true = false ∧ s.rethOk p x false = false) ∧
  (∀ (s : State) (p : Nat) (x : Pkt) (l : PartLast) (w : Window), s.lastOf p = some l →
    l.job.windows[x.rkey % 2 ^ 16]? = some w → x.rkey / 2 ^ 16 % 2 ^ 16 = 0xFFFF →
    (s.rethOk p x true = true ↔ w.write = true ∧ w.base ≤ x.va ∧ x.va + x.len ≤ w.base + w.length) ∧
    (s.rethOk p x false = true ↔ w.read = true ∧ w.base ≤ x.va ∧ x.va + x.len ≤ w.base + w.length)) ∧
  (∀ (s : State) (p q : Nat) (c : QpCfg) (x : Pkt), x.op = .sendOnly → (s.qp p q).begun = false → x.data.length ≤ mtuOf c →
    0 < c.recvSlots → c.recvBase ≠ 0 → 64 + x.data.length ≤ c.slotBytes →
    ((s.qp p q).recvIndex + 2 ^ 32 - (s.qp p q).recvConsumer) % 2 ^ 32 = c.recvSlots → s.sendPacket p q c x = s.rnr p q c x) ∧
  (∀ (s : State) (p q : Nat) (c : QpCfg) (x : Pkt), x.op = .sendOnly → c.recvSlots = 0 → s.sendPacket p q c x = s.nakInvalid p q x) ∧
  (∀ (s : State) (p q : Nat) (c : QpCfg) (x : Pkt), s.qpCfg p q = some c → (s.qp p q).begun = false → x.psn = (s.qp p q).expected →
    x.len = 0 → s.portPaused c.port = false →
    s.rethOk p { x with rkey := x.rkey % 2 ^ 16 + 2 ^ 16 * 0xFFFF } false = true →
    ((s.readPacket p q c x).qp p q).expected = ((s.qp p q).expected + 1) % 2 ^ 24 ∧
      (s.readPacket p q c x).out = s.out ++ [s.packetOut c {
        op := .readOnly, qpn := qpNumber (s.get fOutJobInc_incarnation) c.peerPart c.peerQp, psn := x.psn % 2 ^ 24 }] ∧
      Within [.regs, .outer, .out] s (s.readPacket p q c x)) ∧
  ∀ (s : State) (p q : Nat) (c : QpCfg) (x : Pkt), s.qpCfg p q = some c → s.portPaused c.port = false →
    (s.nakInvalid p q x).out = s.out ++ [s.packetOut c {
      op := .nakInvalid, qpn := qpNumber (s.get fOutJobInc_incarnation) c.peerPart c.peerQp, psn := x.psn }]

/-- R338, R339: the requester's timers and the error state of a queue pair.
Model's choices: log entries 4, 58, 81. -/
def Obligations.QueuePairs : Prop :=
  (∀ (s : State) (p : PIdx) (q : Nat) (x : Pkt) (c : QpCfg), s.qpCfg p q = some c → (s.qp p q).state = 1 → (s.qp p q).sent = [x] →
    s.portPaused c.port = false →
    (∃ u, exec (.retransmitTimeout p q) s = .next u ∧ u.out = s.out ++ [s.packetOut c x] ∧ u.outer = s.outer ∧
      Within [.regs, .out] s u ∧ RegsKept [fOutPortTx_count (c.port / 2) (c.port % 2)] s u) ∧
    ∃ u, exec (.rnrRetry p q) s = .next u ∧ u.out = s.out ++ [s.packetOut c x] ∧ u.outer = s.outer ∧ Within [.regs, .out] s u) ∧
  (∀ (s : State) (p : PIdx) (q : Nat), (s.qp p q).state ≠ 1 ∨ (s.qp p q).sent = [] → exec (.retransmitTimeout p q) s = .next s ∧
    exec (.rnrRetry p q) s = .next s ∧ exec (.qpTimeout p q) s = .next s) ∧
  (∀ (s : State) (p : PIdx) (q : Nat) (c : QpCfg), s.qpCfg p q = some c → (s.qp p q).state = 1 → (s.qp p q).sent ≠ [] →
    ∃ u, exec (.qpTimeout p q) s = .next u ∧ (u.qp p q).state = 2 ∧ (u.qp p q).error = 1 ∧ (u.qp p q).sent = [] ∧
      (u.qp p q).copies = [] ∧ (u.qp p q).readyAt = some (s.get fOutJobStitch_stitch + 4) ∧
      Within [.regs, .tile, .eyelets, .uci, .outer, .flt, .out] s u) ∧
  (∀ (s : State) (p q code : Nat) (c : QpCfg), s.qpCfg p q = some c → (s.qp p q).state ≠ 2 → code = 2 ∨ code = 4 →
    ((s.qpError p q code).qp p q).state = 2 ∧ ((s.qpError p q code).qp p q).error = code ∧
      ((s.qpError p q code).qp p q).readyAt = none) ∧
  (∀ (s : State) (p q code : Nat), (s.qp p q).state = 2 → s.qpError p q code = s) ∧
  (∀ (s : State) (p : PIdx) (q : Nat), (s.qp p q).state = 1 →
    ∃ u, exec (.rateIncrease p q) s = .next u ∧ u.qp p q = { s.qp p q with rate := min 64 (2 * (s.qp p q).rate) } ∧
      (∀ p' q', p' * 4096 + q' ≠ p.val * 4096 + q → u.qp p' q' = s.qp p' q') ∧ Within [.outer] s u) ∧
  (∀ (s : State) (p : PIdx) (q : Nat), (s.qp p q).state ≠ 1 → exec (.rateIncrease p q) s = .next s) ∧
  (∀ s : State, ∃ u, exec .qpReady s = .next u ∧ Within [.outer] s u ∧ u.outer.job = s.outer.job ∧ u.outer.ports = s.outer.ports ∧
    (∀ p q r, (s.qp p q).state = 2 → (s.qp p q).readyAt = some r → r ≤ s.get fOutJobStitch_stitch →
      (u.qp p q).state = 1 ∧ (u.qp p q).error = 0 ∧ (u.qp p q).psn = 0 ∧ (u.qp p q).expected = 0 ∧ (u.qp p q).rate = 64 ∧
        (u.qp p q).incarnation = (s.qp p q).incarnation) ∧
    ∀ p q, ((s.qp p q).state ≠ 2 ∨ (s.qp p q).readyAt = none) → u.qp p q = s.qp p q) ∧
  ∀ (s : State) (p q psn : Nat), (s.qp p q).copies = [] →
    (s.qpAcked p q psn).qp p q = { s.qp p q with
      sent := (s.qp p q).sent.filter fun x => !psnLe x.psn psn || x.op == .readRequest }

/-- R349: a lace frame that arrives on a port that is on, in a job, and passes the checks of R349, has its effect; one that does not is counted stale.
Model's choices: log entries 41, 143, 144. -/
def Obligations.LaceFrames : Prop :=
  (∀ (s w : State) (k : Port) (f : LaceFrame) (p : Nat) (j : JobSec), s.portOn k = true → s.jobOf = some (p, j) →
    s.get fOutJobStatus_state ≠ 3 → s.laceOk j f = true → w = s.rxCount k →
    (f.type = 0x01 → f.jobStitch = s.jobStitch → s.isMember = true → exec (.arrive k f) s = .next (w.checkInst p j {
      s.inst f.jobStitch f.barrier with
      children := (s.inst f.jobStitch f.barrier).children.filter (fun e => e.1 != f.source) ++ [(f.source, f.value)] })) ∧
    (f.type = 0x01 → f.jobStitch ≠ s.jobStitch → exec (.arrive k f) s = .next w) ∧
    (f.type = 0x02 → (∃ i ∈ s.outer.job.insts, i.stitch = f.jobStitch ∧ i.barrier = f.barrier) →
      exec (.complete k f) s = .next (w.completeInst p j (s.inst f.jobStitch f.barrier))) ∧
    (f.type = 0x02 → s.outer.job.insts = [] → exec (.complete k f) s = .next w) ∧
    (f.type = 0x03 → j.role = 1 → exec (.stepFail k f) s = .next (w.jobFailure f.jobStitch f.cause f.subject)) ∧
    (f.type = 0x03 → j.role = 2 → exec (.stepFail k f) s = .next (w.laceUp { f with source := j.member })) ∧
    (f.type = 0x04 → exec (.jobFault k f) s = .next (((w.addTo fOutJobCntFailed_count 1).laceDown { f with source := j.member }).jobFault
      f.jobStitch f.cause f.subject)) ∧
    (f.type = 0x05 → exec (.report k f) s = .next ((w.setJob { s.outer.job with
      reports := s.outer.job.reports.filter (fun e => e.1 != f.source) ++ [(f.source, f.mhz, f.jobStitch / 256)] }).relayReport j)) ∧
    (f.type = 0x06 → ∃ u, exec (.freq k f) s = .next u ∧ u.outer.job.freq = some (f.effective, f.mhz) ∧
      Within [.regs, .outer, .out] s u) ∧
    (f.type = 0x07 → ∃ u, exec (.heartbeat k f) s = .next u ∧ (f.source, f.jobStitch) ∈ u.outer.job.heard ∧
      (∀ e ∈ u.outer.job.heard, e.1 = f.source → e.2 = f.jobStitch) ∧ Within [.regs, .outer] s u) ∧
    (f.type = 0x08 → exec (.down k f) s = .next (w.memberDown p j f.subject f.jobStitch f)) ∧
    (f.type = 0x09 → j.role = 1 → exec (.join k f) s = .next (w.takeJoin p j f.subject f.jobStitch)) ∧
    (f.type = 0x09 → j.role = 2 → exec (.join k f) s = .next (w.laceUp { f with source := j.member })) ∧
    (f.type = 0x0A → ∃ u, exec (.member k f) s = .next u ∧
      u.outer.job.newIncs = s.outer.job.newIncs ++ [(f.effective, f.subject, f.value)] ∧ Within [.regs, .outer, .out] s u) ∧
    (f.type = 0x0B → (s.qp p (f.value % 4096)).state = 1 →
      qpNumber (s.qp p (f.value % 4096)).incarnation p (f.value % 4096) = f.value → (s.qpCfg p (f.value % 4096)).isSome = true →
      ∃ u, exec (.qpReset k f) s = .next u ∧ (u.qp p (f.value % 4096)).state = 2 ∧ (u.qp p (f.value % 4096)).error = 6 ∧
        (u.qp p (f.value % 4096)).readyAt = some (f.jobStitch + 4)) ∧
    (f.type = 0x0B → (s.qp p (f.value % 4096)).state ≠ 1 → exec (.qpReset k f) s = .next w)) ∧
  (∀ (s : State) (k : Port) (f : LaceFrame), s.portOn k = true →
    (s.jobOf = none ∨ ∃ p j, s.jobOf = some (p, j) ∧ (s.get fOutJobStatus_state = 3 ∨ s.laceOk j f = false)) →
    (f.type = 0x01 → exec (.arrive k f) s = .next (s.rxStale k)) ∧ (f.type = 0x02 → exec (.complete k f) s = .next (s.rxStale k)) ∧
    (f.type = 0x03 → exec (.stepFail k f) s = .next (s.rxStale k)) ∧ (f.type = 0x04 → exec (.jobFault k f) s = .next (s.rxStale k)) ∧
    (f.type = 0x05 → exec (.report k f) s = .next (s.rxStale k)) ∧ (f.type = 0x06 → exec (.freq k f) s = .next (s.rxStale k)) ∧
    (f.type = 0x07 → exec (.heartbeat k f) s = .next (s.rxStale k)) ∧ (f.type = 0x08 → exec (.down k f) s = .next (s.rxStale k)) ∧
    (f.type = 0x09 → exec (.join k f) s = .next (s.rxStale k)) ∧ (f.type = 0x0A → exec (.member k f) s = .next (s.rxStale k)) ∧
    (f.type = 0x0B → exec (.qpReset k f) s = .next (s.rxStale k))) ∧
  (∀ (s : State) (k : Port) (f : LaceFrame), s.portOn k = false → exec (.arrive k f) s = .next s ∧ exec (.jobFault k f) s = .next s ∧
    exec (.member k f) s = .next s) ∧
  (∀ (s : State) (j : JobSec) (f : LaceFrame), (f.version ≠ 1 ∨ f.jobId ≠ j.jobId ∨
    f.jobStitch + 3 < s.jobStitch ∨ (f.type ≠ 0x09 ∧ f.incarnation ≠ mapGet 0 s.outer.job.incs f.source)) → s.laceOk j f = false) ∧
  ∀ (s : State) (j : JobSec) (f : LaceFrame), f.version = 1 → f.jobId = j.jobId → s.jobStitch ≤ f.jobStitch + 3 →
    f.incarnation = mapGet 0 s.outer.job.incs f.source → j.parentMember = some f.source → f.type ∈ [0x02, 0x04, 0x06, 0x07, 0x08, 0x0A] →
    s.laceOk j f = true

/-- R348, R351, R356: job barriers and failed job stitches. A member without children sends ARRIVE up once its tasks have arrived, and none sends while a
child is missing; the manager completes once the counts reach member_count; a failure becomes a job fault at the tick of k + 3. The
tiles of a task arrive at a barrier of the task on the lace, and the completion ends it.
Model's choices: log entries 89, 147. -/
def Obligations.JobBarriers : Prop :=
  (∀ (s : State) (p : Nat) (j : JobSec) (x : JobInst) (a : AddrEnt), s.jobOf = some (p, j) → j.children = [] → j.role = 2 →
    j.parent = some a → s.get fOutJobStatus_state ≠ 3 → x.sent = false → 0 < j.localTasks x.barrier →
    j.localTasks x.barrier ≤ x.tasks.length → x.children = [] →
    ∃ f, (s.checkInst p j x).out = s.out ++ [.lace a.port (s.laceHdr a) f] ∧ f.type = 1 ∧ f.source = j.member ∧ f.value = 1 ∧
      f.barrier = x.barrier ∧ f.jobStitch = x.stitch ∧ f.jobId = j.jobId ∧ Within [.regs, .outer, .out] s (s.checkInst p j x)) ∧
  (∀ (s : State) (p : Nat) (j : JobSec) (x : JobInst), x.tasks.length < j.localTasks x.barrier → s.checkInst p j x = s.setInst x) ∧
  (∀ (s : State) (p : Nat) (j : JobSec) (x : JobInst), (∃ m ∈ j.childMembers, ∀ e ∈ x.children, e.1 ≠ m) →
    s.checkInst p j x = s.setInst x) ∧
  (∀ (s : State) (p : Nat) (j : JobSec) (x : JobInst) (a : AddrEnt) (n : Nat), j.role = 1 → j.children = [a] → x.sent = false →
    0 < j.localTasks x.barrier → j.localTasks x.barrier ≤ x.tasks.length → x.children = [(a.member, n)] →
    s.checkInst p j x = (if 1 + n = j.memberCount then (s.setInst x).completeInst p j x else s.setInst x)) ∧
  (∀ (s : State) (p : Nat) (j : JobSec) (x : JobInst) (a : AddrEnt), s.jobOf = some (p, j) → j.children = [a] →
    s.get fOutJobStatus_state ≠ 3 →
    ∃ f, (s.completeInst p j x).out = s.out ++ [.lace a.port (s.laceHdr a) f] ∧ f.type = 2 ∧ f.source = j.member ∧ f.barrier = x.barrier ∧
      f.jobStitch = x.stitch ∧ Within [.regs, .tile, .outer, .out] s (s.completeInst p j x) ∧
      (s.completeInst p j x).get fOutJobCntBarrier_count =
        (s.get fOutJobCntBarrier_count + 1) % 2 ^ fOutJobCntBarrier_count.width) ∧
  (∀ (s : State) (p b : Nat) (j : JobSec), (s.tile.tasks.filter fun k => k.part == p && (k.phase == .running &&
      !(j.waitingAt b k).isEmpty)).length < j.localTasks b → s.soloArrives p j b = s) ∧
  (∀ (s : State) (b : Nat) (j : JobSec) (k : Task), s.tile.tasks = [k] → k.phase = .running → j.waitingAt b k ≠ [] →
    j.localTasks b = 1 →
    ∃ u, s.soloArrives k.part j b = u ∧ u.tile.tasks = [{ k with completed := k.completed ++ j.waitingAt b k }] ∧
      u.get fOutJobCntBarrier_count = (s.get fOutJobCntBarrier_count + 1) % 2 ^ fOutJobCntBarrier_count.width ∧
      Within [.regs, .tile] s u ∧ RegsKept [fOutJobCntBarrier_count] s u) ∧
  (∀ (s : State) (p : Nat) (j : JobSec) (x : JobFailure), s.jobOf = some (p, j) → j.role = 1 → s.outer.job.failures = [x] →
    x.stitch + 3 ≤ s.jobStitch →
    ∃ u, exec .jobDeadline s = .next u ∧ u.outer.job.failures = [] ∧ u.outer.job.faultSet = true ∧
      u.get fOutJobFault_stitch = x.stitch % 2 ^ fOutJobFault_stitch.width ∧
      u.get fOutJobFault_cause = x.cause % 2 ^ fOutJobFault_cause.width ∧
      u.get fOutJobFault_member = x.member % 2 ^ fOutJobFault_member.width ∧ u.get fOutJobFault_valid = 1 ∧
      Within [.regs, .uci, .outer, .flt, .out] s u) ∧
  (∀ (s : State) (p : Nat) (j : JobSec), s.jobOf = some (p, j) → (j.role ≠ 1 ∨ ∀ x ∈ s.outer.job.failures, s.jobStitch < x.stitch + 3) →
    exec .jobDeadline s = .next s) ∧
  (∀ s : State, s.jobOf = none → exec .jobDeadline s = .next s ∧ exec .epochReport s = .next s ∧ exec .reportDeadline s = .next s ∧
    exec .freqDecision s = .next s ∧ exec .sendJoin s = .next s ∧ exec .memberEffective s = .next s) ∧
  (∀ (s : State) (p : Nat) (j : JobSec) (m stitch : Nat) (f : LaceFrame), j.role = 1 → j.parent = none → j.qps = [] →
    (s.memberDown p j m stitch f).outer.job.failures = s.outer.job.failures ++ [⟨stitch, 3, m⟩] ∧
    Within [.outer] s (s.memberDown p j m stitch f)) ∧
  (∀ (s : State) (id : Nat) (k : Task) (t : TileId) (n : Fin 16), s.taskById id = some k → k.phase = .running →
    t.val ∈ k.tiles → (s.tileAt t).sentBar = some n.val → mapGet [] k.arrivals n.val = [] →
    (∃ w ∈ k.tiles, w ≠ t.val) →
    exec (.laceArrival id t n) s = .next (s.setTask { k with arrivals := mapSet [] k.arrivals n.val [t.val] })) ∧
  ∀ (s : State) (id : Nat) (k : Task) (d : Die) (n : Fin 16), s.taskById id = some k → n.val ∈ k.completed →
    (∀ t ∈ k.tiles, (s.tileAt t).sentBar ≠ some n.val ∨ tileDie t = d.val) →
    ∃ u, exec (.laceCompletion id d n) s = .next u ∧ (∀ x ∈ u.tile.tasks, x.id = id → n.val ∈ x.completed →
      ∃ y ∈ s.tile.tasks, y.id = id ∧ 1 < y.completed.count n.val)

/-- R354, R355: the locked frequency. A member without children reports at stitch 224 of an epoch, or at 240 if it has not; at 248 the manager decides; at stitch 0 of
the next a member takes the frequency or counts a miss.

R348, R357, R360: heartbeats, the loss of a neighbour, and joining again. A worker that loses its parent leaves the job; the manager raises the member's
incarnation, effective 16 stitches on, and a member in force again is at that incarnation. Three stitches after
a failed job stitch its fault is set.
Model's choices: log entries 89, 90. -/
def Obligations.JobFrequencyAndMembership : Prop :=
  ((∀ (s : State) (p : Nat) (j : JobSec) (a : AddrEnt), s.jobOf = some (p, j) → s.isMember = true → j.role = 2 → j.parent = some a →
    j.children = [] → s.outer.job.reported ≠ s.jobStitch / 256 + 1 →
    (s.jobStitch % 256 = 224 → ∃ u f, exec .epochReport s = .next u ∧ u.out = s.out ++ [.lace a.port (s.laceHdr a) f] ∧ f.type = 5 ∧
      f.mhz = s.get fPwrBudget_sustain_mhz ∧ u.outer.job.reported = s.jobStitch / 256 + 1 ∧ Within [.regs, .outer, .out] s u) ∧
    (s.jobStitch % 256 = 240 → ∃ u f, exec .reportDeadline s = .next u ∧ u.out = s.out ++ [.lace a.port (s.laceHdr a) f] ∧ f.type = 5 ∧
      f.mhz = s.get fPwrBudget_sustain_mhz ∧ u.outer.job.reported = s.jobStitch / 256 + 1 ∧ Within [.regs, .outer, .out] s u)) ∧
  (∀ s : State, (s.jobStitch % 256 ≠ 224 → exec .epochReport s = .next s) ∧ (s.jobStitch % 256 ≠ 240 → exec .reportDeadline s = .next s) ∧
    (s.jobStitch % 256 ≠ 248 → exec .freqDecision s = .next s) ∧ (s.jobStitch % 256 ≠ 0 → exec .freqApply s = .next s)) ∧
  (∀ (s : State) (p : Nat) (j : JobSec) (a : AddrEnt), s.jobOf = some (p, j) → s.isMember = true → j.role = 1 → j.children = [a] →
    s.jobStitch % 256 = 248 →
    ∃ u f v, exec .freqDecision s = .next u ∧ v = s.lowestReport j ∧ u.outer.job.freq = some (s.jobStitch + 8, v) ∧
      u.out = s.out ++ [.lace a.port (s.laceHdr a) f] ∧ f.type = 6 ∧ f.mhz = v ∧ f.effective = s.jobStitch + 8 ∧
      Within [.regs, .outer, .out] s u) ∧
  (∀ (s : State) (j : JobSec) (m v e : Nat), j.childMembers = [m] → s.outer.job.reports = [(m, v, e)] →
    s.lowestReport j = min (s.get fPwrBudget_sustain_mhz) v) ∧
  (∀ (s : State) (mhz : Nat), s.isMember = true → s.jobStitch % 256 = 0 → s.outer.job.freq = some (s.jobStitch, mhz) →
    ∃ u, exec .freqApply s = .next u ∧ u.get fOutJobFreq_locked_mhz = mhz % 2 ^ fOutJobFreq_locked_mhz.width ∧
      u.outer.job.freq = none ∧ u.get fOutJobFreq_missed = s.get fOutJobFreq_missed) ∧
  ∀ s : State, s.isMember = true → s.jobStitch % 256 = 0 → (∀ mhz, s.outer.job.freq ≠ some (s.jobStitch, mhz)) →
    exec .freqApply s = .next (s.bump fOutJobFreq_missed 1)) ∧
  ((∀ (s : State) (p : Nat) (j : JobSec) (a : AddrEnt), s.jobOf = some (p, j) → j.parent = some a → j.children = [] → s.isMember = true →
    s.jobStitch % 16 = 0 →
    ∃ u f, exec .heartbeatSend s = .next u ∧ u.out = s.out ++ [.lace a.port (s.laceHdr a) f] ∧ f.type = 7 ∧ f.source = j.member ∧
      f.jobStitch = s.jobStitch ∧ Within [.regs, .outer, .out] s u) ∧
  (∀ s : State, (s.isMember = false ∨ s.jobStitch % 16 ≠ 0) → exec .heartbeatSend s = .next s) ∧
  (∀ (s : State) (p m last : Nat) (j : JobSec), s.jobOf = some (p, j) → s.isMember = true → m ∈ j.neighbourMembers →
    s.outer.job.heard = [(m, last)] →
    (last + 48 ≤ s.jobStitch → exec (.heartbeatLoss m) s = .next (s.memberDown p j m s.jobStitch (s.ownFrame 0x08))) ∧
    (s.jobStitch < last + 48 → exec (.heartbeatLoss m) s = .next s)) ∧
  (∀ (s : State) (p m : Nat) (j : JobSec), s.jobOf = some (p, j) → m ∉ j.neighbourMembers → exec (.heartbeatLoss m) s = .next s) ∧
  (∀ (s : State) (m : Nat), s.jobOf = none → exec (.heartbeatLoss m) s = .next s) ∧
  (∀ (s : State) (p stitch : Nat) (j : JobSec) (a : AddrEnt) (f : LaceFrame), j.role = 2 → j.parent = some a → j.qps = [] →
    ∃ u, s.memberDown p j a.member stitch f = u ∧ u.get fOutJobStatus_state = 3 ∧ u.outer.job.faultSet = true) ∧
  (∀ (s : State) (p : Nat) (j : JobSec) (a : AddrEnt), s.jobOf = some (p, j) → s.get fOutJobStatus_state = 1 → s.partState p = 2 →
    s.get fOutPtpStatus_aligned = 1 → s.outer.job.joinSent = false → j.role = 2 → j.parent = some a →
    ∃ u f, exec .sendJoin s = .next u ∧ u.out = s.out ++ [.lace a.port (s.laceHdr a) f] ∧ f.type = 9 ∧ f.subject = j.member ∧
      u.outer.job.joinSent = true ∧ Within [.regs, .outer, .out] s u) ∧
  (∀ (s : State) (p : Nat) (j : JobSec), s.jobOf = some (p, j) → (s.get fOutJobStatus_state ≠ 1 ∨ s.get fOutPtpStatus_aligned ≠ 1 ∨
    s.partState p ≠ 2 ∨ s.outer.job.joinSent = true) → exec .sendJoin s = .next s) ∧
  (∀ (s : State) (p m stitch : Nat) (j : JobSec) (a : AddrEnt), s.jobOf = some (p, j) → j.children = [a] →
    s.get fOutJobStatus_state ≠ 3 → s.translate p (j.memberTable + 4 * m) = none →
    ∃ u f inc, s.takeJoin p j m stitch = u ∧ inc = mapGet 0 s.outer.job.table m + 1 ∧ mapGet 0 u.outer.job.table m = inc ∧
      u.outer.job.newIncs = s.outer.job.newIncs ++ [(stitch + 16, m, inc)] ∧ u.out = s.out ++ [.lace a.port (s.laceHdr a) f] ∧ f.type = 10 ∧
      f.subject = m ∧ f.value = inc ∧ f.effective = stitch + 16 ∧ Within [.regs, .outer, .out] s u) ∧
  (∀ (s : State) (p eff inc : Nat) (j : JobSec), s.jobOf = some (p, j) → s.outer.job.newIncs = [(eff, j.member, inc)] →
    eff ≤ s.jobStitch →
    ∃ u, exec .memberEffective s = .next u ∧ u.get fOutJobInc_incarnation = inc % 2 ^ fOutJobInc_incarnation.width ∧
      u.get fOutJobStatus_state = 2 ∧ mapGet 0 u.outer.job.incs j.member = inc ∧ u.outer.job.newIncs = [] ∧
      (∀ q < j.qps.length, (u.qp p q).state = 1 ∧ (u.qp p q).psn = 0 ∧ (u.qp p q).expected = 0) ∧
      Within [.regs, .outer] s u ∧ RegsKept [fOutJobInc_incarnation, fOutJobStatus_state] s u) ∧
  (∀ (s : State) (p : Nat) (j : JobSec), 1 < j.memberCount → j.role = 2 →
    ∃ u, s.startJob p j = u ∧ u.get fOutJobStatus_state = 2 ∧ u.get fOutJobInc_incarnation = 0 ∧
      (∀ q < j.qps.length, u.qp p q = { state := 1 }) ∧ u.outer.job.incs = [] ∧ Within [.regs, .outer] s u) ∧
  (∀ (s : State) (p : Nat) (j : JobSec), s.jobOf = some (p, j) → (∀ e ∈ s.outer.job.newIncs, s.jobStitch < e.1) →
    exec .memberEffective s = .next s) ∧
  ∀ (s : State) (p : Nat) (j : JobSec) (x : JobFailure), s.jobOf = some (p, j) → j.role = 1 → s.outer.job.failures = [x] →
    x.stitch + 3 ≤ s.jobStitch →
    ∃ u, exec .jobDeadline s = .next u ∧ u.outer.job.failures = [] ∧ u.get fOutJobFault_valid = 1)

/-- R381, R382, R385, R387, R389: freezing, saving, restoring and thawing a partition. A refused request sets the error and nothing else.
Model's choices: log entries 77, 78. -/
def Obligations.Migration : Prop :=
  (∀ (s : State) (p : PIdx) (v : Word) (l : PartLast), v.toNat = 1 → s.partState p = 2 → s.get (fPmStatus_phase p) = 0 →
    s.lastOf p = some l → l.job.memberCount ≤ 1 → covered (s.diePages p) (s.saveBase p) (s.saveLen p) = true →
    ∃ u, exec (.pmFreeze p v) s = .next u ∧ u.get (fPmStatus_phase p) = 1 ∧ u.get (fPmStatus_error p) = 0 ∧
      (u.partSt p).freezeAt = some s.clock.now ∧ Within [.regs, .part] s u ∧
      RegsKept [fPmStatus_phase p, fPmStatus_error p, fPmStatus_stitch p] s u) ∧
  (∀ (s : State) (p : PIdx) (v : Word) (l : PartLast), v.toNat = 1 → s.lastOf p = some l →
    covered (s.diePages p) (s.saveBase p) (s.saveLen p) = true →
    (l.job.memberCount ≤ 1 → (s.partState p ≠ 2 ∨ s.get (fPmStatus_phase p) ≠ 0) →
      exec (.pmFreeze p v) s = .next (s.set (fPmStatus_error p) 1)) ∧
    (1 < l.job.memberCount → s.partState p = 2 → s.get (fPmStatus_phase p) = 0 →
      exec (.pmFreeze p v) s = .next (s.set (fPmStatus_error p) 2))) ∧
  (∀ (s : State) (p : PIdx) (v : Word), v.toNat = 2 → s.partState p = 3 → s.get (fPmStatus_phase p) = 3 →
    ∃ u, exec (.pmThaw p v) s = .next u ∧ u.get (fPmStatus_phase p) = 5 ∧ u.get (fPmStatus_error p) = 0 ∧
      (u.partSt p).thawAt = some s.clock.now ∧ Within [.regs, .part] s u ∧
      RegsKept [fPmStatus_phase p, fPmStatus_error p, fPmStatus_stitch p] s u) ∧
  (∀ (s : State) (p : PIdx) (v w : Word), v.toNat = 2 → w.toNat = 4 → (s.partState p ≠ 3 ∨ s.get (fPmStatus_phase p) ≠ 3) →
    exec (.pmThaw p v) s = .next (s.set (fPmStatus_error p) 1) ∧ exec (.pmRestore p w) s = .next (s.set (fPmStatus_error p) 1)) ∧
  (∀ (s : State) (p : PIdx) (v : Word), v.toNat = 4 → s.partState p = 3 → s.get (fPmStatus_phase p) = 3 → s.areaBusy p = false →
    (s.restoreError p = 0 → ∃ u, exec (.pmRestore p v) s = .next u ∧ u.get (fPmStatus_phase p) = 4 ∧
      u.get (fPmStatus_error p) = 0 ∧ Within [.regs] s u ∧
      RegsKept [fPmStatus_phase p, fPmStatus_error p, fPmStatus_stitch p] s u) ∧
    (s.restoreError p ≠ 0 → exec (.pmRestore p v) s = .next (s.set (fPmStatus_error p) (s.restoreError p)))) ∧
  (∀ (s : State) (p : PIdx), s.get (fPmStatus_phase p) = 2 → (s.partSt p).freezeAt = none →
    exec (.saveDone p true) s = .next (s.areaFault p) ∧
    ((∃ x ∈ s.coh.txs, Purpose.save p ∈ x.wants) → exec (.saveDone p false) s = .next s) ∧
    ((∀ x ∈ s.coh.txs, Purpose.save p ∉ x.wants) → ∃ u, exec (.saveDone p false) s = .next u ∧
      u.get (fPmStatus_phase p) = 3 ∧ ∀ l ∈ u.coh.l3, l.owner = p.val → l.pinned = false)) ∧
  (∀ (s : State) (p : PIdx) (b : Bool), (s.get (fPmStatus_phase p) ≠ 2 ∨ (s.partSt p).freezeAt.isSome = true) →
    exec (.saveDone p b) s = .next s) ∧
  (∀ (s : State) (p : PIdx), s.get (fPmStatus_phase p) = 4 → s.areaBusy p = false →
    exec (.restoreDone p true) s = .next (s.areaFault p) ∧
    (s.restoreError p ≠ 0 → exec (.restoreDone p false) s = .next ((s.set (fPmStatus_error p) (s.restoreError p)).setPhase p 3)) ∧
    (s.restoreError p = 0 → exec (.restoreDone p false) s = .next ((s.restoreImage p).setPhase p 3))) ∧
  (∀ (s : State) (p : PIdx) (b : Bool), (s.get (fPmStatus_phase p) ≠ 4 ∨ s.areaBusy p = true) → exec (.restoreDone p b) s = .next s)

/-- R316, R377, R379, R380: a ring that is resumed, the start of a teardown, and the end of a drain. A step that is over ends with its record; the phase
byte of a record follows the rest of it.
Model's choices: log entries 4, 76, 144. -/
def Obligations.PartitionEnds : Prop :=
  (∀ (s : State) (n k : Fin 16) (p : Nat), s.partOfFn (n.val + 1) = some p → s.get (fPartSqStatus_state p k) = 2 →
    ∃ u, exec (.sqResume n k) s = .next u ∧ k.val ∈ (u.partSt p).resumed ∧
      (∀ q, q ≠ p → u.partSt q = s.partSt q) ∧ Within [.part] s u) ∧
  (∀ (s : State) (n k : Fin 16), (∀ p, s.partOfFn (n.val + 1) = some p → s.get (fPartSqStatus_state p k) ≠ 2) →
    exec (.sqResume n k) s = .next s) ∧
  (∀ (s : State) (p : PIdx), s.partState p = 4 → 2 ≤ (s.partSt p).drainTicks → s.recordLeft p = false →
    ∃ u, exec (.drainEnd p) s = .next u ∧ u.partState p = (if s.defined p then 1 else 0) ∧ (u.partSt p).drainTicks = 0 ∧
      (∀ x ∈ u.coh.txs, x.part = p.val → x.gen = s.generation p) ∧ (∀ r ∈ u.part.records, r.part ≠ p.val) ∧
      Within [.regs, .cfg, .lasts, .coh, .eyelets, .uci, .outer, .part, .flt, .out] s u) ∧
  (∀ (s : State) (p : PIdx), s.partState p = 4 → (s.partSt p).drainTicks = 1 → s.recordLeft p = false →
    (∀ x ∈ s.coh.txs, x.part = p.val → x.gen = s.generation p) →
    ∃ u, exec (.drainEnd p) s = .next u ∧ u.partState p = (if s.defined p then 1 else 0)) ∧
  (∀ (s : State) (p : PIdx), (s.partState p ≠ 4 ∨ (s.partSt p).drainTicks = 0 ∨ s.recordLeft p = true ∨
      ((s.partSt p).drainTicks = 1 ∧ ∃ x ∈ s.coh.txs, x.part = p.val ∧ x.gen ≠ s.generation p)) →
    exec (.drainEnd p) s = .next s) ∧
  (∀ (s : State) (p cause : Nat), (s.partState p = 0 ∨ s.partState p = 4) → s.teardown p cause = s) ∧
  (∀ (s : State) (p cause : Nat), p < 16 → s.partState p ∈ [1, 2, 3] → (∀ k ∈ s.tile.tasks, k.part ≠ p) → s.lastOf p = none →
    s.get fOutJobStatus_role = 0 →
    ∃ u, s.teardown p cause = u ∧ u.partState p = 4 ∧ u.generation p = (s.generation p + 1) % 2 ^ (fPartStatus_generation p).width ∧
      (∀ c ∈ u.cfg.accepted, c.group ≠ 18 + p) ∧ (∀ l ∈ u.coh.l3, l.owner = p → l.pinned = false) ∧ u.get (fPmStatus_phase p) = 0 ∧
      (u.partSt p).drainTicks = 0 ∧ Within [.regs, .cfg, .coh, .uci, .outer, .part, .flt, .out] s u) ∧
  (∀ (s : State) (id endNs : Nat) (k : Task), s.taskById id = some k → s.stepOver k = true →
    exec (.stepEnd id endNs) s = .next (s.endStep k endNs)) ∧
  ∀ (s : State) (p : PIdx) (cq : Fin 16) (index : Nat) (r : RecordSt), s.part.records = [r] → r.part = p.val → r.cq = cq.val →
    r.index = index → r.accepted = true → r.phase = false →
    exec (.phaseByteWrite p cq index) s = .next ((s.setRecords [{ r with phase := true }]).schedWrite p
      (s.cqBase p cq + 64 + index % s.cqEntries p cq * 32 + 31) [BitVec.ofNat 8 ((index / s.cqEntries p cq + 1) % 2)]
      (.recordPhase p cq index))

/-- R180, R390, R394 to R397: what the timers of tiles, transactions, slices and DRAM channels do, and the end of a unit reset.
Model's choices: log entries 4, 64, 153. -/
def Obligations.UnitTimeouts : Prop :=
  (∀ (s : State) (t : TileId), (s.tileAt t).halting = false → exec (.tileHaltTimeout t) s = .next s) ∧
  (∀ (s : State) (t : TileId) (off : Nat), (s.tileAt t).copies = [] → s.ownerOf t = none → s.fenced t = false →
    s.recovering (tileDie t) = false →
    ((s.tileAt t).halting = true → exec (.tileHaltTimeout t) s =
      .next (((s.setTileCode t 5).event (tileDie t) 9 t 7).recordFault {
        cause := 7, level := 1, unitKind := 1, die := tileDie t, unit := tileSite t, tile := some t })) ∧
    exec (.tileSramError t off) s =
      .next (((s.setTileCode t 5).event (tileDie t) 9 t 8).recordFault {
        cause := 8, level := 1, unitKind := 1, die := tileDie t, unit := tileSite t, tile := some t, address := off })) ∧
  (∀ (s : State) (t : TileId) (off : Nat), s.fenced t = true → exec (.tileSramError t off) s = .next s) ∧
  (∀ (s : State) (t : TileId) (off : Nat), s.fenced t = false → s.recovering (tileDie t) = true →
    ∃ u, exec (.tileSramError t off) s = .next u ∧ u.flt.fenceLater = s.flt.fenceLater ++ [(t.val, 8, off)] ∧ Within [.flt] s u) ∧
  (∀ (s : State) (d : Die) (tag : Nat), (∀ x ∈ s.coh.txs, x.die ≠ d.val ∨ x.tag ≠ tag) →
    exec (.transactionTimeout ⟨d, tag⟩) s = .next s) ∧
  (∀ (s : State) (d : Die) (x : Tx), s.coh.txs = [x] → x.die = d.val → x.wants = [] → 16 ≤ x.agent → s.sec.reading = [] →
    (x.gen = s.generation x.part → x.part ≠ noPart → exec (.transactionTimeout ⟨d, x.tag⟩) s =
      .next ((s.setTxs []).partitionFault x.part { cause := 0x10, address := x.addr })) ∧
    (x.gen ≠ s.generation x.part ∨ x.part = noPart → exec (.transactionTimeout ⟨d, x.tag⟩) s = .next (s.setTxs []))) ∧
  (∀ (s : State) (d : Die) (sl : Fin 64), (∀ k ∈ s.coh.trackers, dpaDie k.line ≠ d.val ∨ channelOf k.line ≠ sl.val) →
    exec (.sliceTimeout d sl) s = .next s) ∧
  (∀ (s : State) (d : Die) (sl : Fin 64) (k : Tracker), s.coh.trackers = [k] → dpaDie k.line = d.val → channelOf k.line = sl.val →
    (s.recovering d = true → exec (.sliceTimeout d sl) s = .next (s.recordFault {
      cause := 0x0D, unitKind := 4, die := d, unit := sl, address := k.line })) ∧
    (s.recovering d = false → k.waiters = [] → s.coh.aluQ = [] → s.coh.dir = [] → s.coh.homeWait = [] → s.flt.replays = [] →
      s.dram.ue = [] → s.dram.latent = [] → ∃ u, exec (.sliceTimeout d sl) s = .next u ∧ u.coh.trackers = [] ∧
        (∀ l ∈ u.coh.l3, dpaDie l.line ≠ d.val ∨ channelOf l.line ≠ sl.val) ∧
        u.flt.resets = s.flt.resets ++ [⟨4, d, sl, [], [], k.line⟩] ∧
        Within [.regs, .tile, .coh, .dram, .mem, .uci, .flt, .out, .free] s u)) ∧
  (∀ (s : State) (d : Die) (ch : Fin 64), (∀ k ∈ s.coh.trackers, dpaDie k.line ≠ d.val ∨ channelOf k.line ≠ ch.val) →
    s.coh.aluQ = [] → exec (.dramTimeout d ch) s = .next s) ∧
  (∀ (s : State) (d : Die) (ch : Fin 64) (k : Tracker), s.coh.trackers = [k] → dpaDie k.line = d.val → channelOf k.line = ch.val →
    (s.recovering d = true → exec (.dramTimeout d ch) s = .next (s.recordFault {
      cause := 0x0E, unitKind := 5, die := d, unit := ch, address := dpaOff k.line })) ∧
    (s.recovering d = false → k.waiters = [] → s.coh.aluQ = [] → s.coh.dir = [] → s.coh.homeWait = [] → s.flt.replays = [] →
      ∃ u, exec (.dramTimeout d ch) s = .next u ∧ u.coh = s.coh ∧
        u.flt.resets = s.flt.resets ++ [⟨5, d, ch, [], [], dpaOff k.line⟩] ∧ Within [.regs, .tile, .uci, .flt, .out, .free] s u)) ∧
  (∀ (s : State) (r : UnitReset) (rs : List UnitReset), s.flt.resets = r :: rs →
    (r.suspects = [] → ∃ u, exec .unitResetDone s = .next u ∧ u.flt.resets = rs ∧ u.flt.replays = s.flt.replays ∧ Within [.flt] s u) ∧
    (r.suspects ≠ [] → ∃ u, exec .unitResetDone s = .next u ∧ u.flt.resets = rs ∧ u.flt.replays = s.flt.replays ++ [{
      kind := r.kind, die := r.die, unit := r.unit, todo := r.suspects, running := [], startAt := s.clock.now + 50,
      address := r.address }] ∧ u.get fFltStatus_replaying = 1 ∧ Within [.regs, .flt] s u)) ∧
  ∀ s : State, s.flt.resets = [] → exec .unitResetDone s = .next s

/-- R390, R398 to R402: the recovery of a die. It is decided by a heartbeat lost or a half that owes an acknowledgement, counted, and absorbed by a device
recovery; the die's halves are dead until it is ready.
Model's choices: log entries 4, 68. -/
def Obligations.DieRecovery : Prop :=
  (∀ (s : State) (d : Die), exec (.dieHeartbeatSend d) s = .next s) ∧
  (∀ (s : State) (d : Die), s.recovering d = true →
    exec (.dieHeartbeatLoss d) s = .next (s.recordFault { cause := 0x12, unitKind := 11, die := d })) ∧
  (∀ (s : State) (d : Die), s.recovering d = false →
    exec (.dieHeartbeatLoss d) s = .next (s.startDieRecovery d { cause := 0x12, unitKind := 11, die := d })) ∧
  (∀ (s : State) (d : Die) (half : Fin 16) (line : Nat) (e : DirEnt), s.entry line = some e →
    ((e.state = .c ∧ e.owedHalves.testBit half = true) ∨ (e.state = .f ∧ e.target = half.val) →
      exec (.directoryTimeout d line half) s = .next (s.startDieRecovery (half.val / 2) {
        cause := 0x0F, unitKind := 6, die := half.val / 2, unit := half.val % 2, address := line })) ∧
    (e.state = .s → exec (.directoryTimeout d line half) s = .next s)) ∧
  (∀ (s : State) (d : Die) (half : Fin 16) (line : Nat), s.entry line = none → exec (.directoryTimeout d line half) s = .next s) ∧
  (∀ (s : State) (d : Nat) (f : FaultInfo), (s.get fFltStatus_device_recovering = 1 ∨ s.sec.transition ≠ none) →
    s.startDieRecovery d f = s.recordFault f) ∧
  (∀ (s : State) (d : Nat) (f : FaultInfo), d < 8 → s.get fFltStatus_device_recovering = 0 → s.sec.transition = none → s.get (fFltEscT_ms 1) = 0 →
    s.flt.goingOut = false → s.get fLdrStatus_state = 0 → s.awl.running = [] → s.flt.resets = [] → s.flt.replays = [] → s.tile.tasks = [] →
    (∀ p < 16, s.partState p = 0) →
    ∃ u, s.startDieRecovery d f = u ∧ u.recovering d = true ∧ (∀ e < 8, e ≠ d → u.recovering e = s.recovering e) ∧
      mapGet none u.flt.dieAt d = some s.clock.now ∧
      u.get fFltStatus_recoveries = satAdd fFltStatus_recoveries.width (s.get fFltStatus_recoveries) 1 ∧
      Within [.regs, .uci, .flt, .power, .out] s u) ∧
  (∀ (s : State) (d : Die), (s.recovering d = false ∨ s.get fFltStatus_device_recovering = 1) →
    exec (.recover d) s = .next s ∧ exec (.dieReady d) s = .next s) ∧
  (∀ (s : State) (d : Die), s.recovering d = true → s.get fFltStatus_device_recovering = 0 → s.coh.dir = [] → s.coh.homeWait = [] →
    s.coh.filter = [] → s.coh.filterWait = [] → s.coh.trackers = [] → s.coh.aluQ = [] → s.coh.l3 = [] → s.awl.running = [] →
    ∃ u, exec (.recover d) s = .next u ∧ (∀ l ∈ u.coh.l2, l.half / 2 ≠ d.val ∨ 16 ≤ l.half) ∧
      (∀ e, d.val * 32768 ≤ e → e < (d.val + 1) * 32768 → u.eye e = {}) ∧
      (∀ h < 8, u.deadAt h (2 * d.val) = true ∧ u.deadAt h (2 * d.val + 1) = true ∧ u.get (fDirStatus_sweep h) = 1) ∧
      u.get (fPwrDieA_state d) = s.get (fPwrDieA_state d) ∧ Within [.regs, .coh, .eyelets] s u) ∧
  (∀ (s : State) (d : Die), s.recovering d = true → s.get fFltStatus_device_recovering = 0 →
    (∀ h < 8, s.get (fDirStatus_sweep h) = 0) → s.flt.fenceLater = [] →
    ∃ u, exec (.dieReady d) s = .next u ∧ u.recovering d = false ∧ mapGet none u.flt.dieAt d.val = none ∧
      (∀ h < 8, u.deadAt h (2 * d.val) = false ∧ u.deadAt h (2 * d.val + 1) = false) ∧ Within [.regs, .uci, .flt, .out] s u) ∧
  ∀ (s : State) (d : Die) (h : Nat), h < 8 → s.get (fDirStatus_sweep h) ≠ 0 → exec (.dieReady d) s = .next s

/-- R390, R401, R402, R406, R407, R478: the recovery of the device, going out of service, and coming back.
Model's choices: log entries 43, 68. -/
def Obligations.DeviceRecovery : Prop :=
  (∀ s : State, s.get fFltStatus_device_recovering = 1 →
    exec .watchdog s = .next (s.recordFault { cause := 0x13, unitKind := 12 }) ∧ exec .dieRecoveryTimeout s = .next s) ∧
  (∀ s : State, s.get fFltStatus_device_recovering = 0 → s.sec.transition ≠ none →
    exec .watchdog s = .next (s.recordFault { cause := 0x13, unitKind := 12 })) ∧
  (∀ s : State, s.get fFltStatus_device_recovering = 0 → s.sec.transition = none →
    exec .watchdog s = .next (s.countRecovery.deviceRecovery { cause := 0x13, unitKind := 12 }) ∧
    (s.get fFltStatus_dies_recovering = 0 → exec .dieRecoveryTimeout s = .next s) ∧
    (s.get fFltStatus_dies_recovering ≠ 0 → exec .dieRecoveryTimeout s = .next (s.countRecovery.deviceRecovery {
      cause := 0x14, unitKind := 12, address := s.get fFltStatus_dies_recovering })) ∧
    exec .deviceRecoveryTimeout s = .next s ∧ ∀ ms, exec (.deviceRecoveryDone ms) s = .next s) ∧
  (∀ s : State, ∃ u, s.countRecovery = u ∧
    u.get fFltStatus_recoveries = satAdd fFltStatus_recoveries.width (s.get fFltStatus_recoveries) 1 ∧
    u.get (fFltEscT_ms 0) = s.nowMs % 2 ^ (fFltEscT_ms 0).width ∧
    (s.get (fFltEscT_ms 1) ≠ 0 → s.get (fFltEscT_ms 1) < 2 ^ (fFltEscT_ms 2).width →
      s.nowMs ≤ s.get (fFltEscT_ms 1) + 600000 → u.flt.goingOut = true) ∧
    (s.get (fFltEscT_ms 1) = 0 → u.flt.goingOut = s.flt.goingOut) ∧ Within [.regs, .flt] s u) ∧
  (∀ s : State, s.get fFltStatus_device_recovering = 1 →
    exec .deviceRecoveryTimeout s = .next (s.recordFault {
      cause := 0x14, level := 4, unitKind := 12, address := 255 }).outOfService) ∧
  (∀ s : State, ∃ u, s.outOfService = u ∧ u.get fFltStatus_out_of_service = 1 ∧ u.get fDevPins_fault_driven = 1 ∧
    u.get fFltEsc_oos_entries = (s.get fFltEsc_oos_entries + 1) % 2 ^ fFltEsc_oos_entries.width ∧ u.flt.goingOut = false ∧
    (1 ≤ s.get fLdrStatus_state → s.get fLdrStatus_state ≤ 5 → u.get fLdrStatus_state = 7 ∧ u.get fLdrStatus_error = 0x0D ∧
      u.ldr.staged = none) ∧
    Within [.regs, .cfg, .ldr, .uci, .flt, .out, .free] s u) ∧
  (∀ (s : State) (ms : Nat) (d : Die), s.get (fDirStatus_sweep d) = 1 → exec (.deviceRecoveryDone ms) s = .next s) ∧
  (∀ (s : State) (ms : Nat), s.get fFltStatus_device_recovering = 1 → (∀ h < 8, s.get (fDirStatus_sweep h) = 0) →
    s.flt.fenceLater = [] → s.flt.goingOut = false → s.sec.transition = none →
    ∃ u, exec (.deviceRecoveryDone ms) s = .next u ∧ u.get fFltStatus_device_recovering = 0 ∧ u.get fFltStatus_dies_recovering = 0 ∧
      (∀ h < 8, u.get (fDirStatus_sweep h) = 0 ∧ ∀ n < 16, u.deadAt h n = false) ∧ u.flt.dieAt = [] ∧
      (∀ h < 8, u.get (fLaceStatus_parent h) = 0) ∧ Within [.regs, .uci, .flt, .out] s u) ∧
  (∀ (s : State) (img : List Byte) (b : Bool), s.get fFltStatus_out_of_service = 0 →
    ∃ u, exec (.rtsGo img b) s = .next u ∧ u.get fFltRtsStatus_error = 1 ∧ u.flt.returning = s.flt.returning ∧
      Within [.regs, .uci, .flt, .out] s u) ∧
  (∀ (s : State) (img : List Byte), s.get fFltStatus_out_of_service = 1 → s.get fFltRtsCtrl_host = 0 → s.sec.reading = [] →
    s.coh.dir = [] → (∀ x ∈ s.coh.txs, Purpose.image 3 ∉ x.wants) →
    ∃ u, exec (.rtsGo img false) s = .next u ∧ u.get fFltRtsStatus_error = 7 ∧ u.flt.returning = s.flt.returning ∧
      Within [.regs, .uci, .flt, .sec, .out] s u) ∧
  (∀ (s : State) (img : List Byte) (b : Bool), (∃ w ∈ s.sec.reading, w.reader = 3) → s.get fFltStatus_out_of_service = 1 →
    exec (.rtsGo img b) s = .next s) ∧
  ∀ (s : State) (img : List Byte) (b : Bool), s.get fFltStatus_out_of_service = 1 → s.get fFltRtsCtrl_host = 1 → s.linkUp = true →
    s.sec.reading = [] → (∀ x ∈ s.coh.txs, Purpose.image 3 ∉ x.wants) →
    ∃ u e, exec (.rtsGo img b) s = .next u ∧ e = (if b = true ∧ img.length = 1280 then s.rtsError img else 7) ∧
      u.get fFltRtsStatus_error = e ∧ u.get fFltRtsStatus_busy = 0 ∧
      u.flt.returning = (if e = 0 then true else s.flt.returning) ∧
      (∀ i < 20, Out.cacheReq .rdCurr (64 * s.get fFltRtsAddr_addr + 64 * i) 0 [] ∈ u.out) ∧ Within [.regs, .uci, .flt, .sec, .out] s u

/-- R425 to R428, R442, R445: the budget exchange. A die asks for the power of the highest state it may run, the coordinator shares the budget, and a die whose
grant has not come by the deadline misses it.
Model's choices: log entries 83, 84, 85. -/
def Obligations.BudgetExchange : Prop :=
  (∀ (s : State) (d : Die) (w : Nat), s.dev.isSome = true → s.recovering d = false → w = s.predicted d (s.limitState d) →
    ∃ u, exec (.budgetRequest d) s = .next u ∧
      u.powerDie d = { s.powerDie d with request := some w, named := s.limitState d } ∧
      u.get (fPwrDieB_demand_w d) = min 65535 (w / 1000) ∧ (∀ e, e ≠ d.val → u.powerDie e = s.powerDie e) ∧
      Within [.regs, .power] s u ∧ RegsKept [fPwrDieB_demand_w d] s u) ∧
  (∀ (s : State) (d : Die), (s.dev = none ∨ s.recovering d = true) → exec (.budgetRequest d) s = .next s) ∧
  (∀ s : State, s.dev = none → exec .budgetAllocate s = .next s) ∧
  (∀ s : State, s.dev.isSome = true →
    ∃ u, exec .budgetAllocate s = .next u ∧ u.power.exchanged = true ∧ u.power.dies = s.power.dies ∧
      u.power.onWay = (if s.power.grantsLost then [] else (List.range 8).zip s.allocate) ∧ Within [.power] s u) ∧
  (∀ (s : State) (d : Die) (w : Nat), s.power.onWay = [(d.val, w)] →
    ∃ u, exec (.budgetGrant d) s = .next u ∧ u.power.onWay = [] ∧
      (u.powerDie d).grant = (if (s.powerDie d).missed then (s.powerDie d).grant else some w) ∧ Within [.power] s u) ∧
  (∀ (s : State) (d : Die), (∀ e ∈ s.power.onWay, e.1 ≠ d.val) → exec (.budgetGrant d) s = .next s) ∧
  (∀ s : State, (∀ d < 8, s.lacksGrant d = false) → exec .grantDeadline s = .next s) ∧
  (∀ (s : State) (d : Nat), d < 8 → (∀ e < 8, s.lacksGrant e = true ↔ e = d) →
    ∃ u, exec .grantDeadline s = .next u ∧ u.powerDie d = { s.powerDie d with missed := true } ∧
      u.get (fPwrDieB_grant_missed d) = satAdd (fPwrDieB_grant_missed d).width (s.get (fPwrDieB_grant_missed d)) 1 ∧
      (∀ e, e ≠ d → u.powerDie e = s.powerDie e) ∧ Within [.regs, .power, .uci, .flt, .out] s u ∧
      RegsKept (fPwrDieB_grant_missed d :: eventFields s) s u) ∧
  (∀ (s : State) (d : Nat), s.lacksGrant d = true ↔ s.power.exchanged = true ∧ (s.powerDie d).grant = none ∧
    (s.powerDie d).missed = false ∧ s.recovering d = false) ∧
  (∀ (s : State) (d : Die), s.mustCrawl d = false →
    ∃ u, exec (.budgetGuard d) s = .next u ∧ u.get (fPwrDieA_state d) = 36 ∧ (u.powerDie d).guarded = true ∧
      (∀ r ∈ u.awl.running, r.die ≠ d) ∧ Within [.regs, .power, .awl, .uci, .flt, .out] s u) ∧
  (∀ (s : State) (d : Die), s.mustCrawl d = true → exec (.budgetGuard d) s = .next s)

/-- R426: how the budget is shared. Every die gets at least its floor, a die in recovery exactly 100 W, no die more than it asked for above its floor, and the
grants together stay within the budget wherever the floors do.
Model's choice: log entry 83. -/
def Obligations.BudgetShares : Prop :=
  ∀ (s : State) (base : Nat → Nat), (∀ d, base d = if s.recovering d then 100 else s.floorBudget) →
    s.allocate.length = 8 ∧
    (∀ d < 8, base d ≤ s.allocate.getD d 0) ∧
    (∀ d < 8, s.recovering d = true → s.allocate.getD d 0 = 100) ∧
    (∀ d < 8, (s.powerDie d).request = none → s.allocate.getD d 0 = base d) ∧
    (∀ (d w : Nat), d < 8 → (s.powerDie d).request = some w → 1000 * s.allocate.getD d 0 ≤ max (1000 * base d) w) ∧
    (1000 * ((List.range 8).map base).sum ≤ s.budgetMw → 1000 * s.allocate.sum ≤ s.budgetMw)

/-- R434, R442: the signals that force the lowest state, and their release.

R418, R433, R436, R439, R445: reports, sensors, the thermal rows and the ceiling.
Model's choices: log entries 4, 86. -/
def Obligations.ForcedLowAndThermal : Prop :=
  ((∀ s : State, s.power.forcedBy = 0 →
    ∃ u, exec .vrAlert s = .next u ∧ u.get fPwrStatus_vr_alert = 1 ∧ u.power.forcedBy.testBit 1 = true ∧
      (∀ d < 8, u.get (fPwrDieA_state d) = 36) ∧ u.get fPwrStatus_forced_low = 1 ∧ u.power.releasedAt = none ∧
      u.awl.running = [] ∧ Within [.regs, .power, .awl, .uci, .flt, .out] s u) ∧
  (∀ s : State, s.power.forcedBy = 0 → s.power.sec.brakeEnable = true →
    ∃ u, exec .brakeAssert s = .next u ∧ u.get fPwrStatus_brake = 1 ∧ u.pins.brakeLow = true ∧ u.power.forcedBy.testBit 2 = true ∧
      (∀ d < 8, u.get (fPwrDieA_state d) = 36) ∧ u.get fPwrStatus_forced_low = 1 ∧
      u.awl.running = [] ∧ Within [.regs, .power, .awl, .pins, .uci, .flt, .out] s u) ∧
  (∀ s : State, s.power.forcedBy = 0 → s.power.sec.brakeEnable = false → s.get fPwrStatus_vr_alert = 0 →
    ∃ u, exec .brakeAssert s = .next u ∧ u.get fPwrStatus_brake = 1 ∧ u.pins.brakeLow = true ∧ Within [.regs, .pins] s u ∧
      RegsKept [fPwrStatus_brake] s u) ∧
  (∀ s : State, s.power.forcedBy ≠ 0 → s.power.releasedAt = none → s.get fPwrStatus_brake = 0 →
    ∃ u, exec .vrAlertRelease s = .next u ∧ u.get fPwrStatus_vr_alert = 0 ∧ u.power.releasedAt = some s.clock.now ∧
      u.power.forcedBy = s.power.forcedBy ∧ Within [.regs, .power] s u ∧ RegsKept [fPwrStatus_vr_alert] s u) ∧
  (∀ s : State, s.power.forcedBy ≠ 0 → s.power.releasedAt = none → s.get fPwrStatus_vr_alert = 0 →
    ∃ u, exec .brakeRelease s = .next u ∧ u.get fPwrStatus_brake = 0 ∧ u.pins.brakeLow = false ∧
      u.power.releasedAt = some s.clock.now ∧ u.power.forcedBy = s.power.forcedBy ∧ Within [.regs, .power, .pins] s u ∧
      RegsKept [fPwrStatus_brake] s u) ∧
  (∀ s : State, s.power.forcedBy = 0 → s.get fPwrStatus_brake = 0 → s.get fPwrStatus_vr_alert = 0 →
    exec .vrAlertRelease s = .next (s.set fPwrStatus_vr_alert 0) ∧
    ∃ u, exec .brakeRelease s = .next u ∧ u.power = s.power ∧ u.pins.brakeLow = false ∧ Within [.regs, .pins] s u ∧
      RegsKept [fPwrStatus_brake] s u)) ∧
  ((∀ (s : State) (d : Die) (r : RegReport), 46000 ≤ r.inputMv → r.inputMv ≤ 60000 → (s.powerDie d).sensorsOut = [] → s.awl.running = [] →
    ∃ u, exec (.regulatorReport d r) s = .next u ∧ u.get fPwrStatus_input_mv = r.inputMv ∧
      u.powerDie d = { s.powerDie d with
        powerSum := (s.powerDie d).powerSum + r.powerMw, powerN := (s.powerDie d).powerN + 1,
        peakA := max (s.powerDie d).peakA r.coreA, vcoreMv := r.vcoreMv } ∧
      u.power.inputSum = s.power.inputSum + r.inputMw ∧ u.power.inputN = s.power.inputN + 1 ∧ Within [.regs, .power] s u ∧
      RegsKept [fPwrStatus_input_mv] s u) ∧
  (∀ (s : State) (d : Die) (r : RegReport), r.inputMv < 46000 → 46000 ≤ s.get fPwrStatus_input_mv →
    s.get fPwrStatus_input_mv ≤ 60000 → s.get fFltEvHead_count = s.get fFltEvTail_count → s.awl.running = [] →
    ∃ u, exec (.regulatorReport d r) s = .next u ∧
      u.get (fFltEvA_code (s.get fFltEvHead_count % 8192)) = 0x43 ∧
      u.get (fFltEvC_data0 (s.get fFltEvHead_count % 8192)) = r.inputMv ∧ Within [.regs, .power, .uci, .flt, .out] s u ∧
      RegsKept (fPwrStatus_input_mv :: eventFields s) s u) ∧
  (∀ (s : State) (d : Die) (js ds : List Nat) (j m : Nat), j = hottest (s.powerDie d).sensorsOut 0 72 js →
    m = (List.range 28).foldl (fun a i => max a (dramReading (s.powerDie d).sensorsOut (ds.map (10 * ·)) i / 10)) 0 →
    (j < 105 → m < 95 → ∃ u, exec (.thermalSample d js ds) s = .next u ∧ u.get (fPwrDieA_junction_c d) = j ∧
      u.get (fPwrDieA_dram_c d) = m ∧ u.powerDie d = { s.powerDie d with hotJ := j, hotD := m } ∧
      u.get (fPwrDieA_state d) = s.get (fPwrDieA_state d) ∧ Within [.regs, .power, .awl, .uci, .flt, .out] s u) ∧
    (105 ≤ j → j < 115 → m < 95 → ∃ u, exec (.thermalSample d js ds) s = .next u ∧ u.get (fPwrDieA_junction_c d) = j ∧
      u.get (fPwrDieA_state d) = 36 ∧ (u.powerDie d).hard.testBit 3 = true ∧
      u.get fPwrStatus_thermtrip = s.get fPwrStatus_thermtrip ∧ Within [.regs, .power, .awl, .uci, .flt, .out] s u) ∧
    (j < 105 → 95 ≤ m → m < 100 → ∃ u, exec (.thermalSample d js ds) s = .next u ∧ u.get (fPwrDieA_state d) = 36 ∧
      (u.powerDie d).hard.testBit 4 = true ∧ Within [.regs, .power, .awl, .uci, .flt, .out] s u) ∧
    ((115 ≤ j ∨ 100 ≤ m) → s.get fPwrStatus_thermtrip = 0 → ∃ u, exec (.thermalSample d js ds) s = .next u ∧
      u.get fPwrStatus_thermtrip = 1 ∧ u.get fDevPins_thermtrip_driven = 1 ∧ (∀ e < 8, u.get (fPwrDieA_state e) = 36) ∧
      Within [.regs, .power, .awl, .uci, .flt, .out] s u)) ∧
  (∀ (s : State) (d : Die), ∃ u, exec (.trimWrite d) s = .next u ∧
    mapGet 0 u.sec.flash.trim d.val = s.get (fPwrDieA_trim_mv d) ∧
    mapGet 0 u.sec.flash.ageing d.val = s.get (fPwrDieB_ageing_limit d) ∧
    u.sec.flash.bankA = s.sec.flash.bankA ∧ u.sec.flash.soft = s.sec.flash.soft ∧ Within [.flash] s u) ∧
  (∀ (s : State) (d : Die) (x : PowerDie), x = s.powerDie d → s.power.sec.junctionSoft ≤ x.hotJ →
    (s.ceilingTick d).get (fPwrDieB_ceiling d) = min 36 (max s.power.sec.maxState (s.get (fPwrDieB_ceiling d)) + 1) % 64 ∧
    ((s.ceilingTick d).powerDie d).held.testBit 3 = true) ∧
  (∀ (s : State) (d : Die) (x : PowerDie), x = s.powerDie d → x.held = 0 → x.hotJ < s.power.sec.junctionSoft →
    x.hotD < s.power.sec.dramSoft → x.peakA ≤ s.power.sec.coreLimitA → s.get (fPwrDieB_ceiling d) ≤ 36 →
    s.power.sec.maxState < s.get (fPwrDieB_ceiling d) →
    (s.ceilingTick d).get (fPwrDieB_ceiling d) = s.get (fPwrDieB_ceiling d) - 1))

/-- R435, R436, R449 to R455, R460: the end of an awl slice. Each attempt gives one result or one deficit; what a slice finds is repaired.

R462, R463, R466: soft repairs go to flash, at most 64 for a die, and to fuses, in the states VENDOR and RETURNED only.
Model's choices: log entries 4, 42, 91, 92, 93, 150, 151. -/
def Obligations.AwlSlicesAndRepairs : Prop :=
  ((∀ (s : State) (d : Die) (k : Fin 7) (r : SliceResult) (found : List EccFound), s.sliceOn d k = none →
    exec (.sliceEnd d k r found) s = .next s ∧ exec (.sliceAbort d k) s = .next s) ∧
  (∀ (s : State) (d : Die) (k : Fin 7) (r : SliceResult) (found : List EccFound), resultFits k r = false →
    exec (.sliceEnd d k r found) s = .next s) ∧
  (∀ (s : State) (d : Die) (k : Fin 7) (run : SliceRun) (found : List EccFound), s.awl.running = [run] → run.die = d.val →
    run.kind = k.val → k.val ≠ 0 → k.val ≠ 2 → run.unit + 1 ≠ population d k →
    (∃ u, exec (.sliceEnd d k .pass found) s = .next u ∧ u.awl.running = [] ∧
      u.get (fAwlPass_results d k) = (s.get (fAwlPass_results d k) + 1) % 2 ^ (fAwlPass_results d k).width ∧
      (u.get (fAwlStatus_running d)).testBit k = false ∧ Within [.regs, .awl] s u ∧
      RegsKept [fAwlPass_results d k, fAwlStatus_running d, fAwlTime_ns d k] s u) ∧
    (s.get (fPwrDieA_trim_mv d) < 60 → ∃ u, exec (.sliceEnd d k .marginLow found) s = .next u ∧ u.awl.running = [] ∧
      (u.powerDie d).trimDue = true ∧ Within [.regs, .awl, .power] s u) ∧
    (60 ≤ s.get (fPwrDieA_trim_mv d) → ∃ u, exec (.sliceEnd d k .marginLow found) s = .next u ∧ u.awl.running = [] ∧
      u.get (fPwrDieB_ageing_limit d) = min 36 (s.get (fPwrDieB_ageing_limit d) + 1) ∧ u.power = s.power ∧
      Within [.regs, .awl, .uci, .flt, .out] s u) ∧
    (∃ u, exec (.sliceAbort d k) s = .next u ∧ u.awl.running = [] ∧
      u.get (fAwlPass_deficit d k) = (s.get (fAwlPass_deficit d k) + 1) % 2 ^ (fAwlPass_deficit d k).width ∧
      u.get (fAwlPass_results d k) = s.get (fAwlPass_results d k) ∧ Within [.regs, .awl] s u)) ∧
  (∀ (s : State) (d : Die) (run : SliceRun) (found : List EccFound) (t : Nat), s.awl.running = [run] → run.die = d.val →
    run.kind = 0 → t = sliceTile d run.unit → tileDie t = d.val → run.unit + 1 ≠ 4352 →
    s.get (fTileState_state d (tileSite t)) = 6 →
    ∃ u, exec (.sliceEnd d 0 .pass found) s = .next u ∧ u.awl.running = [] ∧
      u.get (fTileState_state d (tileSite t)) = run.former % 2 ^ (fTileState_state d (tileSite t)).width) ∧
  (∀ (s : State) (d : Die) (run : SliceRun) (found : List EccFound) (n : Nat) (diff : Int), s.awl.running = [run] → run.die = d.val →
    run.kind = 6 →
    ∃ u, exec (.sliceEnd d 6 (.failSensor n diff) found) s = .next u ∧ n ∈ (u.powerDie d).sensorsOut ∧
      (d.val, (⟨6, run.unit, 3, n⟩ : SoftRepair)) ∈ u.awl.pendingFlash ∧ u.get (fAwlResult_repair d) = 1 ∧
      u.get (fAwlResult_valid d) = 1 ∧ u.get (fAwlRepair_soft d) = (s.get (fAwlRepair_soft d) + 1) % 2 ^ (fAwlRepair_soft d).width ∧
      u.awl.running = [] ∧ Within [.regs, .power, .awl, .uci, .flt, .out] s u) ∧
  (∀ (s : State) (d : Die) (run : SliceRun) (found : List EccFound) (ppm : Nat), s.awl.running = [run] → run.die = d.val →
    run.kind = 6 →
    ∃ u, exec (.sliceEnd d 6 (.failPll ppm) found) s = .next u ∧ (u.powerDie d).relock = true ∧ u.awl.running = [] ∧
      Within [.regs, .power, .awl, .uci, .flt, .out] s u) ∧
  (∀ (s : State) (d : Die) (run : SliceRun) (found : List EccFound) (n : Nat), s.awl.running = [run] → run.die = d.val →
    run.kind = 1 →
    (∃ u, exec (.sliceEnd d 1 (.failArray (some n)) found) s = .next u ∧
      (d.val, (⟨1, run.unit, 0, n⟩ : SoftRepair)) ∈ u.awl.pendingFlash ∧ u.get (fAwlResult_repair d) = 1 ∧ u.coh = s.coh ∧
      Within [.regs, .awl, .uci, .flt, .out] s u) ∧
    ∃ u, exec (.sliceEnd d 1 (.failArray none) found) s = .next u ∧ u.get (fAwlResult_repair d) = 2 ∧
      u.get (fAwlRepair_exhausted d) = (s.get (fAwlRepair_exhausted d) + 1) % 2 ^ (fAwlRepair_exhausted d).width ∧
      u.coh.retiredFrames = s.coh.retiredFrames ++ (List.range 16).map (fun i =>
        ((d.val * 64 + run.unit / 256) * 256 + (run.unit % 16 * 16 + i)) * 16 + run.unit / 16 % 16) ∧
      Within [.regs, .coh, .awl, .uci, .flt, .out] s u) ∧
  (∀ (s : State) (d : Die) (run : SliceRun) (found : List EccFound) (n : Nat), s.awl.running = [run] → run.die = d.val →
    run.kind = 2 →
    ∃ u, exec (.sliceEnd d 2 (.failArray (some n)) found) s = .next u ∧ u.awl.running = [] ∧ u.get (fAwlResult_repair d) = 1 ∧
      u.sec.flash.unusable = s.sec.flash.unusable ++ [(d.val * 7168 + run.unit) * 2 ^ 16 + n] ∧
      (d.val, (⟨2, run.unit, 0, n⟩ : SoftRepair)) ∈ u.awl.pendingFlash) ∧
  (∀ (s : State) (d : Die) (run : SliceRun) (found : List EccFound) (t : Nat), s.awl.running = [run] → run.die = d.val →
    run.kind = 0 → t = sliceTile d run.unit → siteX (tileSite t) = 16 →
    ∃ u, exec (.sliceEnd d 0 (.failLogic false) found) s = .next u ∧ u.awl.running = [] ∧ u.get (fAwlResult_repair d) = 2 ∧
      u.awl.spareDue = s.awl.spareDue ∧ d.val * 16 + siteY (tileSite t) ∈ u.awl.badSpares ∧
      u.spareFree d (siteY (tileSite t)) = false) ∧
  (∀ (s : State) (d : Die) (run : SliceRun) (found : List EccFound) (t : Nat), s.awl.running = [run] → run.die = d.val →
    run.kind = 0 → t = sliceTile d run.unit → siteX (tileSite t) < 16 → s.spareFree d (siteY (tileSite t)) = true →
    ∃ u, exec (.sliceEnd d 0 (.failLogic false) found) s = .next u ∧
      u.awl.spareDue = s.awl.spareDue ++ [(d.val * 16 + siteY (tileSite t), siteX (tileSite t))] ∧
      Within [.regs, .awl, .uci, .flt, .out] s u) ∧
  ∀ (s : State) (d : Die) (run : SliceRun) (found : List EccFound) (k : Fin 7), s.awl.running = [run] → run.die = d.val →
    run.kind = k.val → 4 ≤ k.val → k.val < 6 →
    ∃ u, exec (.sliceEnd d k .failLane found) s = .next u ∧
      u.awl.retiredLanes = s.awl.retiredLanes ++ [if k.val = 4 then d.val * 2 + run.unit else 64 + d.val * 4 + run.unit] ∧
      Within [.regs, .awl, .uci, .flt, .out] s u) ∧
  ((∀ (s : State) (d : Die), (s.awl.pendingFlash.length + (s.flashRecords d).length ≤ 64) →
    ∃ u, exec (.repairRecordWrite d) s = .next u ∧
      u.sec.flash.soft = s.sec.flash.soft ++ s.awl.pendingFlash.filter (fun e => e.1 == d.val) ∧
      u.awl.pendingFlash = s.awl.pendingFlash.filter (fun e => e.1 != d.val) ∧
      u.get (fAwlRepair_records d) = (u.flashRecords d).length % 2 ^ (fAwlRepair_records d).width ∧
      u.get (fAwlRepair_list_full d) = s.get (fAwlRepair_list_full d) ∧ Within [.regs, .awl, .flash] s u) ∧
  (∀ (s : State) (d : Die) (r : SoftRepair), s.awl.pendingFlash = [(d.val, r)] → 64 ≤ (s.flashRecords d).length →
    ∃ u, exec (.repairRecordWrite d) s = .next u ∧ u.sec.flash.soft = s.sec.flash.soft ∧ u.get (fAwlRepair_list_full d) = 1 ∧
      Within [.regs, .awl] s u) ∧
  (∀ (s : State) (d : Die), s.get (fAwlFuse_busy d) = 1 → exec (.awlFuseGo d) s = .next s) ∧
  (∀ (s : State) (d : Die), s.get (fAwlFuse_busy d) = 0 → s.sec.fuses.lc = 1 ∨ s.sec.fuses.lc = 3 →
    exec (.awlFuseGo d) s = .next (s.set (fAwlFuse_busy d) 1)) ∧
  (∀ (s : State) (d : Die), s.get (fAwlFuse_busy d) = 0 → s.sec.fuses.lc ≠ 1 → s.sec.fuses.lc ≠ 3 →
    ∃ u, exec (.awlFuseGo d) s = .next u ∧ u.get (fAwlFuse_refused d) = 1 ∧ u.get (fAwlFuse_busy d) = 0 ∧
      Within [.regs, .uci, .flt, .out] s u ∧ RegsKept (fAwlFuse_refused d :: eventFields s) s u) ∧
  (∀ (s : State) (d : Die), s.get (fAwlFuse_busy d) = 1 →
    (∃ u, exec (.fuseBurn d true) s = .next u ∧ u.get (fAwlFuse_busy d) = 0 ∧ u.sec.fuses = { s.sec.fuses with
        repairs := s.sec.fuses.repairs ++ (s.flashRecords d).filter fun e => !s.sec.fuses.repairs.contains e } ∧
      Within [.regs, .fuses, .uci, .flt, .out] s u ∧ RegsKept (fAwlFuse_busy d :: eventFields s) s u) ∧
    ∃ u, exec (.fuseBurn d false) s = .next u ∧ u.get (fAwlFuse_busy d) = 0 ∧ u.sec = s.sec ∧ Within [.regs, .uci, .flt, .out] s u ∧
      RegsKept (fAwlFuse_busy d :: eventFields s) s u) ∧
  ∀ (s : State) (d : Die) (ok : Bool), s.get (fAwlFuse_busy d) = 0 → exec (.fuseBurn d ok) s = .next s)

/-- R474 to R478: the life-cycle commands. A command is refused while another runs; its image is checked in the order of R475, the challenge changes
whatever the outcome, and the first check that fails is the error. A floor or a life-cycle state changes only when its burn completes.
Model's choices: log entries 94, 97, 127. -/
def Obligations.LifeCommands : Prop :=
  (∀ (s : State) (img : List Byte) (b : Bool), s.get fSecCmdStatus_busy = 1 →
    exec (.takeOwnership img b) s = .next (s.set fSecCmdStatus_busy_go 1) ∧ exec (.release img b) s = .next (s.set fSecCmdStatus_busy_go 1) ∧
    exec (.end_ img b) s = .next (s.set fSecCmdStatus_busy_go 1) ∧ exec (.raiseLastFloor img b) s = .next (s.set fSecCmdStatus_busy_go 1) ∧
    exec (.raiseFwFloor img b) s = .next (s.set fSecCmdStatus_busy_go 1)) ∧
  (∀ (s t : State) (reader addr len : Nat), s.linkUp = true → t = s.startImage reader true addr len →
    t.out = s.out ++ (List.range (ceilDiv len 64)).map (fun i => .cacheReq .rdCurr (addr + 64 * i) 0 []) ∧
    t.sec = { s.sec with badReads := s.sec.badReads.filter fun r => r != reader } ∧ Within [.sec, .out] s t) ∧
  (∀ (s : State) (img : List Byte) (b : Bool) (a : Nat), a = 64 * s.get fSecCmdAddr_addr → s.get fSecCmdStatus_busy = 0 →
    s.get fSecCmdCtrl_host = 0 → s.canRead a 1280 = true → s.heldLines a 1280 ≠ [] →
    s.mesh.unreachable = [] → (∀ e ∈ s.heldLines a 1280, lineOf e.bulk e.line = e.line) →
    ∃ u, exec (.release img b) s = .next u ∧ u.get fSecCmdStatus_busy = 1 ∧ u.sec.reading = s.sec.reading ++ [⟨1, some 2, img, b⟩] ∧
      (∀ e ∈ s.heldLines a 1280, ∃ x ∈ u.coh.txs, .image 1 ∈ x.wants ∧ x.addr = e.line) ∧ u.coh.dir = s.coh.dir ∧
      Within [.regs, .sec, .coh] s u) ∧
  (∀ (s t : State) (img : List Byte) (r : Nat → State), s.get fSecCmdStatus_busy = 0 → s.get fSecCmdCtrl_host = 1 → img.length = 1280 →
    s.linkUp = true → (∀ x ∈ s.coh.txs, .image 1 ∉ x.wants) → t = s.startImage 1 true (64 * s.get fSecCmdAddr_addr) 1280 →
    (∀ n, r n = if s.commandError n img = 0 then ((t.set fSecCmdStatus_error 0).newChallenge fSecChal_challenge).acceptCommand img
      else ((t.set fSecCmdStatus_error (s.commandError n img)).newChallenge fSecChal_challenge).event 0x1C 0x81 n (s.commandError n img)) →
    exec (.takeOwnership img true) s = .next (r 1) ∧ exec (.release img true) s = .next (r 2) ∧ exec (.end_ img true) s = .next (r 3) ∧
    exec (.raiseLastFloor img true) s = .next (r 4) ∧ exec (.raiseFwFloor img true) s = .next (r 5)) ∧
  (∀ (s : State) (img : List Byte), s.get fSecCmdStatus_busy = 0 → s.coh.dir = [] → (∀ x ∈ s.coh.txs, .image 1 ∉ x.wants) →
    ∃ u, exec (.release img false) s = .next u ∧ u.get fSecCmdStatus_error = 8 ∧ u.get fSecCmdStatus_busy = 0 ∧
      u.sec = { s.sec with badReads := s.sec.badReads.filter fun r => r != 1 } ∧
      Within [.regs, .uci, .flt, .sec, .out, .free] s u) ∧
  (∀ (s : State) (img : List Byte) (want code : Nat), code = field img 6 1 → 1 ≤ code → code ≤ 5 →
    (s.sec.fuses.lc = 0 ∨ s.sec.fuses.lc = 4 ∨ (code = 1 ∧ s.sec.fuses.lc ≠ 1) ∨ (code = 2 ∧ s.sec.fuses.lc ≠ 2)) →
    s.commandError want img = 1) ∧
  (∀ (s : State) (img : List Byte), field img 0 4 ≠ 0x4359434C → s.commandError 3 img = 1 ∨ s.commandError 3 img = 2) ∧
  (∀ (s : State) (img : List Byte), (field img 6 1 ≠ 4 ∨ field img 0x18 1 ≤ s.sec.fuses.lastSteps ∨ 32 < field img 0x18 1 ∨
    field img 0x10 8 ≠ s.get fSecChal_challenge ∨ field img 8 8 ≠ serial) → s.commandError 4 img ≠ 0) ∧
  (∀ (s : State) (img : List Byte), field img 6 1 = 4 ∨ field img 6 1 = 5 →
    ∃ u, s.acceptCommand img = u ∧ u.sec.floorBurn = some (if field img 6 1 = 4 then 0 else 1, field img 0x18 1) ∧
      u.get fSecCmdStatus_busy = 1 ∧ Within [.regs, .burns] s u) ∧
  (∀ (s : State) (img : List Byte), field img 6 1 = 1 ∨ field img 6 1 = 2 ∨ field img 6 1 = 3 →
    ∃ u, s.acceptCommand img = u ∧ u.sec.transition = some (field img 6 1 + 1) ∧ u.sec.fuses = s.sec.fuses ∧
      (field img 6 1 = 1 → u.sec.newOwner = slice img 0x20 32)) ∧
  (∀ (s : State) (w n : Nat), s.sec.floorBurn = some (w, n) →
    ∃ u, exec .floorBurnComplete s = .next u ∧ u.sec.floorBurn = none ∧
      u.sec.fuses = (if w = 0 then { s.sec.fuses with lastSteps := n } else { s.sec.fuses with fwSteps := n }) ∧
      u.get fSecCmdStatus_busy = 0 ∧ Within [.regs, .fuses, .burns, .uci, .flt, .out] s u) ∧
  (∀ s : State, s.sec.floorBurn = none → exec .floorBurnComplete s = .next s) ∧
  (∀ (s : State) (lc : Nat), s.sec.transition = some lc → s.get fFltStatus_device_recovering = 0 →
    ∃ u, exec .transitionComplete s = .next u ∧ u.sec.transition = none ∧ u.sec.newOwner = [] ∧
      u.sec.fuses = (if lc = 2 then { s.sec.fuses with
        ownerHash := s.sec.newOwner, ownerBurned := true, ownerPartial := [], lc := 2 } else { s.sec.fuses with lc := lc }) ∧
      u.tile.scratch = [] ∧ u.coh.l2 = [] ∧ u.coh.l3 = [] ∧ u.eyelets = [] ∧ u.get fSecCmdStatus_busy = 0) ∧
  (∀ s : State, (s.sec.transition = none ∨ s.get fFltStatus_device_recovering = 1) → exec .transitionComplete s = .next s)

/-- R469, R471, R472, R487: staging firmware, and the TAP. A stage is refused during a transition, above 8 MiB, or where its image does not verify; what has
been staged goes to the bank that is not running.
Model's choices: log entries 95, 96. -/
def Obligations.FirmwareAndTap : Prop :=
  (∀ (s : State) (img : List Byte) (b : Bool), s.get fSecFw_busy = 1 → exec (.fwStage img b) s = .next s) ∧
  (∀ (s : State) (img : List Byte) (b : Bool), s.get fSecFw_busy = 0 → s.sec.transition.isSome = true →
    exec (.fwStage img b) s = .next (s.stageFails 0 1)) ∧
  (∀ (s : State) (img : List Byte) (b : Bool), s.get fSecFw_busy = 0 → s.sec.transition = none → 8388608 < s.get fSecFwLen_len →
    exec (.fwStage img b) s = .next (s.stageFails 0 7)) ∧
  (∀ (s : State) (img : List Byte), s.get fSecFw_busy = 0 → s.sec.transition = none → s.get fSecFwLen_len ≤ 8388608 →
    s.coh.dir = [] → (∀ x ∈ s.coh.txs, .image 2 ∉ x.wants) →
    ∃ u, exec (.fwStage img false) s = .next u ∧ u.get fSecFw_stage_error = 8 ∧ u.get fSecFw_busy = 0 ∧ u.sec.fwImage = none ∧
      u.sec.flash = s.sec.flash ∧ Within [.regs, .uci, .flt, .sec, .out] s u) ∧
  (∀ (s t : State) (img : List Byte), s.get fSecFw_busy = 0 → s.sec.transition = none → s.get fSecFwLen_len ≤ 8388608 →
    s.get fSecFwCtrl_host = 1 → img.length = s.get fSecFwLen_len → s.linkUp = true → (∀ x ∈ s.coh.txs, .image 2 ∉ x.wants) →
    t = s.startImage 2 true (64 * s.get fSecFwAddr_addr) (s.get fSecFwLen_len) →
    ∃ u, exec (.fwStage img true) s = .next u ∧
      u = (if s.firmwareError img ≠ 0 then t.stageFails (field img 0x10 8 % 256) (s.firmwareError img)
        else ({ t with sec := { t.sec with fwImage := some ⟨true, field img 0x10 8 % 256, sha256 (img.take (img.length - 384))⟩ } } :
          State).set fSecFw_busy 1)) ∧
  (∀ (s : State) (v c : Nat), c < 16 → ∃ u, s.stageFails v c = u ∧ u.sec.fwImage = none ∧ u.get fSecFw_busy = 0 ∧
    u.get fSecFw_stage_error = c ∧ u.sec.flash = s.sec.flash ∧ Within [.regs, .sec, .uci, .flt, .out] s u) ∧
  (∀ (s : State) (img : List Byte), img.length < 1280 → s.firmwareError img = 2) ∧
  (∀ (s : State) (img : List Byte), (field img 0x10 8 < s.sec.fuses.fwSteps ∨ s.sec.fuses.lc = 0 ∨ field img 12 4 ≠ img.length) →
    s.firmwareError img ≠ 0) ∧
  (∀ (s : State) (b : FwBank), s.sec.fwImage = some b → exec (.fwStaged false) s = .next (s.stageFails b.version 4)) ∧
  (∀ (s : State) (b : FwBank), s.sec.fwImage = some b →
    ∃ u, exec (.fwStaged true) s = .next u ∧ u.sec.fwImage = none ∧ u.get fSecFw_busy = 0 ∧
      u.sec.flash = (if s.get fSecFw_bank = 1 then { s.sec.flash with bankA := b, preferB := false }
        else { s.sec.flash with bankB := b, preferB := true }) ∧ Within [.regs, .sec, .flash, .uci, .flt, .out] s u) ∧
  (∀ (s : State) (ok : Bool), s.sec.fwImage = none → exec (.fwStaged ok) s = .next s) ∧
  (∀ (s : State) (code : Nat), s.sec.tapReset = false →
    ∃ u, exec (.tapInstruction code) s = .next u ∧ u.sec.tapCode = some code ∧ Within [.regs, .sec, .uci, .flt, .out] s u ∧
      RegsKept (eventFields s) s u) ∧
  (∀ (s : State) (code : Nat), s.sec.tapReset = true → exec (.tapInstruction code) s = .next s) ∧
  (∀ s : State, ∃ u, exec (.tapReset true) s = .next u ∧ u.sec.tapReset = true ∧ u.sec.tapCode = none ∧ Within [.sec] s u) ∧
  (∀ s : State, ∃ u, exec (.tapReset false) s = .next u ∧ u.sec.tapReset = false ∧ u.sec.tapCode = s.sec.tapCode ∧ Within [.sec] s u)

/-- R419, R487, R488, R493: the loss of power leaves nothing but fuses, flash and the input pins; power good starts the device in stage 0, and a blank module
becomes a vendor's.
Model's choices: log entries 98, 112, 121. -/
def Obligations.PowerPins : Prop :=
  (∀ s : State, s.sec.transition ≠ some 2 → exec .powerLoss s = .next s.unpowered ∧ exec .mreset s = .next s.unpowered) ∧
  (∀ s : State, exec .powerLoss s = exec .mreset s) ∧
  (∀ s : State, ∃ u, s.unpowered = u ∧ u.regs = coldRegs ∧ u.sec.fuses = s.sec.fuses ∧ u.sec.flash = s.sec.flash ∧
    u.sec.transition = none ∧ u.sec.floorBurn = none ∧ u.pins.powered = false ∧ u.pins.stage = 0 ∧
    u.pins.brakeLow = s.pins.brakeLow ∧ u.dram.mem = [] ∧ u.tile = {} ∧ u.coh = {} ∧ u.dev = none ∧ u.lasts = [] ∧ u.clock.running = false ∧
    u.pending = s.pending) ∧
  (∀ s : State, ∃ u, exec .powerLoss s = .next u ∧ u.sec.fuses.lc = s.sec.fuses.lc ∧ u.sec.fuses.ownerBurned = s.sec.fuses.ownerBurned ∧
    u.sec.fuses.lastSteps = s.sec.fuses.lastSteps ∧ u.sec.fuses.fwSteps = s.sec.fuses.fwSteps ∧ u.sec.flash = s.sec.flash ∧
    u.regs = coldRegs ∧ u.out = s.out) ∧
  (∀ s : State, s.get fDevPins_thermtrip_driven = 1 →
    ∃ u, exec .thermtripShutdown s = .next u ∧ u.pins.latchedOff = true ∧ u.pins.powered = false ∧ u.regs = coldRegs ∧
      u.sec.fuses.lc = s.sec.fuses.lc ∧ u.sec.flash = s.sec.flash) ∧
  (∀ s : State, s.get fDevPins_thermtrip_driven = 0 → exec .thermtripShutdown s = .next s) ∧
  (∀ (s : State) (st : Fin 4), (s.pins.powered = true ∨ s.pins.latchedOff = true) → exec (.powerGood st) s = .next s) ∧
  (∀ (s : State) (st : Fin 4), s.pins.powered = false → s.pins.latchedOff = false →
    ∃ u, exec (.powerGood st) s = .next u ∧ u.pins.powered = true ∧ u.pins.straps = st.val ∧ u.pins.stage = 0 ∧ u.pins.failed = false ∧
      u.sec.fuses.lc = (if s.sec.fuses.lc = 0 then 1 else s.sec.fuses.lc) ∧ u.sec.flash = s.sec.flash ∧
      u.sec.fuses.repairs = s.sec.fuses.repairs ∧ u.dev = none ∧ u.dram.mem = []) ∧
  (∀ (s : State) (st : Fin 4), s.pins.powered = false → s.pins.latchedOff = false → s.sec.fuses.repairs = [] → s.sec.fuses.lc ≠ 0 →
    ∃ u, exec (.powerGood st) s = .next u ∧ u.get fDevPins_addr = st.val ∧ u.get fSecLc_state = s.sec.fuses.lc % 2 ^ fSecLc_state.width ∧
      u.get fPwrStatus_brake = (if s.pins.brakeLow then 1 else 0) ∧
      ∀ d < 8, u.get (fPwrDieA_trim_mv d) = mapGet 0 s.sec.flash.trim d % 2 ^ (fPwrDieA_trim_mv d).width ∧
        u.get (fPwrDieB_ageing_limit d) = mapGet 0 s.sec.flash.ageing d % 2 ^ (fPwrDieB_ageing_limit d).width ∧
        u.get (fAwlRepair_records d) = (u.flashRecords d).length % 2 ^ (fAwlRepair_records d).width ∧
        u.get (fPwrDieA_state d) = 36)

/-- R301, R303, R471, R494: the stages of start-up run in order, each only when the one before is complete; one that fails stops it and drives FAULT_N.
Model's choices: log entries 4, 98, 99, 100. -/
def Obligations.StartUp : Prop :=
  (∀ (s : State) (ok a b : Bool) (ms : Nat), (s.atStage 1 = false → exec (.regulatorsSequenced ok) s = .next s) ∧
    (s.atStage 2 = false → exec (.firmwareVerified a b ms) s = .next s) ∧ (s.atStage 4 = false → exec (.weltsTrained ok) s = .next s) ∧
    (s.atStage 5 = false → exec (.dramInitialised ok ms) s = .next s) ∧ (s.atStage 7 = false → exec (.readyRise ms) s = .next s)) ∧
  (∀ (s : State) (n : Nat), s.atStage n = true ↔ s.pins.powered = true ∧ s.pins.failed = false ∧ s.pins.stage + 1 = n ∧
    s.get fDevPins_thermtrip_driven ≠ 1) ∧
  (∀ s : State, s.atStage 1 = true → (∃ u, exec (.regulatorsSequenced true) s = .next u ∧ u.pins = { s.pins with stage := 1 } ∧
      Within [.pins] s u) ∧ exec (.regulatorsSequenced false) s = exec .powerLoss s) ∧
  (∀ (s : State) (a b : Bool) (ms : Nat), s.atStage 2 = true → (if s.sec.flash.preferB then b else a) = true →
    ∃ u, exec (.firmwareVerified a b ms) s = .next u ∧ u.pins.stage = 2 ∧
      u.get fSecFw_bank = (if s.sec.flash.preferB then 1 else 0) ∧ u.get fSecFw_fallback = 0 ∧
      u.get fDevStart_firmware_ms = min 65535 ms ∧ Within [.regs, .clock, .pins] s u) ∧
  (∀ (s : State) (a b : Bool) (ms : Nat), s.atStage 2 = true → (if s.sec.flash.preferB then b else a) = false →
    (if s.sec.flash.preferB then a else b) = true →
    ∃ u, exec (.firmwareVerified a b ms) s = .next u ∧ u.pins.stage = 2 ∧
      u.get fSecFw_bank = (if s.sec.flash.preferB then 0 else 1) ∧ u.get fSecFw_fallback = 1 ∧
      Within [.regs, .clock, .pins, .uci, .flt, .out] s u) ∧
  (∀ (s : State) (ms : Nat), s.atStage 2 = true →
    ∃ u, exec (.firmwareVerified false false ms) s = .next u ∧ u.pins.failed = true ∧ u.pins.stage = 1 ∧
      u.get fDevStart_failed_stage = 2 ∧ u.get fDevPins_fault_driven = 1 ∧ Within [.regs, .clock, .pins] s u) ∧
  (∀ s : State, s.atStage 4 = true → s.sec.flash.soft = [] →
    (∃ u, exec (.weltsTrained true) s = .next u ∧ u.clock.running = true ∧ u.pins.stage = 4 ∧ Within [.clock, .pins] s u) ∧
    ∃ u, exec (.weltsTrained false) s = .next u ∧ u.pins.failed = true ∧ u.get fDevStart_failed_stage = 4 ∧ Within [.regs, .pins] s u) ∧
  (∀ (s : State) (ms : Nat), s.atStage 5 = true → (s.sec.fuses.lc = 4 ∨ s.sec.flash.repairList = []) →
    (∃ u, exec (.dramInitialised true ms) s = .next u ∧ u.pins.stage = 5 ∧ u.get fDevStart_dram_ms = min 65535 ms ∧
      (∀ k < 8, u.moduleState k = 1) ∧ Within [.regs, .clock, .uci, .pins] s u) ∧
    ∃ u, exec (.dramInitialised false ms) s = .next u ∧ u.pins.failed = true ∧ u.get fDevStart_failed_stage = 5 ∧
      Within [.regs, .clock, .pins] s u) ∧
  (∀ (s : State) (e : Nat × Nat), s.sparesLeft (candidateBank e) = 0 → s.repairCandidate e = s) ∧
  (∀ (s : State) (d : Nat) (mine : List (Nat × Nat)), mine = s.sec.flash.repairList.filter (fun e => e.1 == d) →
    (s.showPpr d).get (fDramPpr_candidates d) = mine.length % 2 ^ (fDramPpr_candidates d).width ∧
    (s.showPpr d).get (fDramPpr_unrepairable d) =
      (mine.filter fun e => s.sparesLeft (candidateBank e) == 0).length % 2 ^ (fDramPpr_unrepairable d).width ∧
    Within [.regs] s (s.showPpr d)) ∧
  (∀ (s : State) (e : Nat × Nat), s.sparesLeft (candidateBank e) ≠ 0 →
    (s.repairCandidate e).sec.flash.repairList = s.sec.flash.repairList.erase e ∧
    mapGet 0 (s.repairCandidate e).sec.flash.spareRows (candidateBank e) = mapGet 0 s.sec.flash.spareRows (candidateBank e) + 1 ∧
    (∀ k, s.freeSpare (candidateBank e) = some k →
      mapGet 0 (s.repairCandidate e).sec.flash.spareMap (e.1 * 2 ^ 27 + e.2) = k + 1) ∧
    (s.repairCandidate e).sec.fuses = s.sec.fuses) ∧
  (∀ (s : State) (ms : Nat), s.atStage 7 = true →
    ∃ u, exec (.readyRise ms) s = .next u ∧ u.pins = { s.pins with stage := 7 } ∧ u.get fDevStart_ready_ms = min 65535 ms ∧
      Within [.regs, .clock, .pins] s u) ∧
  (∀ s : State, s.ready = true ↔ s.pins.stage = 7 ∧ s.get fFltStatus_out_of_service ≠ 1 ∧ s.sec.fuses.lc ≠ 4 ∧ s.linkUp = true ∧
    s.get fDevPins_thermtrip_driven ≠ 1)

/-- R320, R321, R409, R410, R412, R413: an event takes the next number of its source's sequence and, where its ring has room, the next
record of the ring; a fault record is written so too. Each fires its vector of the physical function; a trigger of a masked vector pends, one
that finds the stitch's message sent is held, and any other sends a message.
Model's choice: log entry 7. -/
def Obligations.EventRecords : Prop :=
  (∀ (s : State) (src code d0 d1 : Nat) (part : Option Nat),
    mapGet 0 (s.event src code d0 d1 part).flt.evSeq src = mapGet 0 s.flt.evSeq src + 1 ∧
    (∀ k, k ≠ src → mapGet 0 (s.event src code d0 d1 part).flt.evSeq k = mapGet 0 s.flt.evSeq k) ∧
    Within [.regs, .uci, .flt, .out] s (s.event src code d0 d1 part) ∧
    RegsKept (eventFields s) s (s.event src code d0 d1 part)) ∧
  (∀ (s : State) (src code d0 d1 : Nat) (part : Option Nat) (i used : Nat), i = s.get fFltEvHead_count % 8192 →
    used = (s.get fFltEvHead_count + 2 ^ 32 - s.get fFltEvTail_count) % 2 ^ 32 → used ≠ 8192 →
    let u := s.event src code d0 d1 part
    u.get (fFltEvA_source i) = src % 2 ^ 8 ∧ u.get (fFltEvA_code i) = code % 2 ^ 8 ∧
    u.get (fFltEvA_partition i) = part.getD 0 % 2 ^ 4 ∧ u.get (fFltEvA_partition_valid i) = (if part.isSome then 1 else 0) ∧
    u.get (fFltEvA_valid i) = 1 ∧ u.get (fFltEvA_sequence i) = mapGet 0 s.flt.evSeq src % 2 ^ 32 ∧
    u.get (fFltEvB_ns i) = s.fromTick % 2 ^ 24 ∧ u.get (fFltEvB_stitch i) = s.stitch % 2 ^ 32 ∧
    u.get (fFltEvC_data0 i) = d0 % 2 ^ 64 ∧ u.get (fFltEvD_data1 i) = d1 % 2 ^ 64 ∧
    u.get fFltEvHead_count = (s.get fFltEvHead_count + 1) % 2 ^ 32 ∧
    u.get fFltEvStatus_full = (if used + 1 = 8192 then 1 else 0) ∧ u.get fFltEvStatus_dropped = s.get fFltEvStatus_dropped ∧
    u.uci = (s.fire 0 3).uci ∧ u.out = (s.fire 0 3).out) ∧
  (∀ (s : State) (src code d0 d1 : Nat) (part : Option Nat),
    (s.get fFltEvHead_count + 2 ^ 32 - s.get fFltEvTail_count) % 2 ^ 32 = 8192 →
    let u := s.event src code d0 d1 part
    u.get fFltEvStatus_dropped = min (2 ^ 32 - 1) (s.get fFltEvStatus_dropped + 1) ∧ Within [.regs, .flt] s u ∧
    RegsKept [fFltEvStatus_dropped] s u) ∧
  (∀ (s : State) (f : FaultInfo),
    Within [.regs, .uci, .out] s (s.recordFault f) ∧ RegsKept (faultFields s) s (s.recordFault f)) ∧
  (∀ (s : State) (f : FaultInfo) (i used : Nat), i = s.get fFltRecHead_count % 1024 →
    used = (s.get fFltRecHead_count + 2 ^ 32 - s.get fFltRecTail_count) % 2 ^ 32 → used ≠ 1024 →
    let u := s.recordFault f
    u.get (fFltRecA_cause i) = f.cause % 2 ^ 8 ∧ u.get (fFltRecA_level i) = f.level % 2 ^ 4 ∧
    u.get (fFltRecA_unit_kind i) = f.unitKind % 2 ^ 4 ∧ u.get (fFltRecA_die i) = f.die % 2 ^ 3 ∧
    u.get (fFltRecA_unit i) = f.unit % 2 ^ 9 ∧ u.get (fFltRecA_guilty i) = f.guilty.getD 0 % 2 ^ 4 ∧
    u.get (fFltRecA_guilty_valid i) = (if f.guilty.isSome then 1 else 0) ∧ u.get (fFltRecA_affected i) = f.affected % 2 ^ 16 ∧
    u.get (fFltRecA_tile i) = f.tile.getD 0 % 2 ^ 12 ∧ u.get (fFltRecA_tile_valid i) = (if f.tile.isSome then 1 else 0) ∧
    u.get (fFltRecA_valid i) = 1 ∧
    u.get (fFltRecB_sequence i) = (s.get fFltRecHead_count + s.get fFltRecStatus_dropped) % 2 ^ 32 ∧
    u.get (fFltRecB_stitch i) = s.stitch % 2 ^ 32 ∧ u.get (fFltRecC_ns i) = s.fromTick % 2 ^ 24 ∧
    u.get (fFltRecC_generation i) = f.gen % 2 ^ 16 ∧ u.get (fFltRecC_detail i) = f.detail % 2 ^ 8 ∧
    u.get (fFltRecD_address i) = f.address % 2 ^ 64 ∧
    u.get fFltRecHead_count = (s.get fFltRecHead_count + 1) % 2 ^ 32 ∧
    u.get fFltRecStatus_full = (if used + 1 = 1024 then 1 else 0) ∧
    u.get fFltRecStatus_dropped = s.get fFltRecStatus_dropped ∧
    u.uci = (s.fire 0 2).uci ∧ u.out = (s.fire 0 2).out) ∧
  (∀ (s : State) (f : FaultInfo), (s.get fFltRecHead_count + 2 ^ 32 - s.get fFltRecTail_count) % 2 ^ 32 = 1024 →
    let u := s.recordFault f
    u.get fFltRecStatus_dropped = min (2 ^ 32 - 1) (s.get fFltRecStatus_dropped + 1) ∧ Within [.regs] s u ∧
    RegsKept [fFltRecStatus_dropped] s u) ∧
  (∀ (s : State) (fn vec : Nat) (v : Vector), v = s.vector fn vec →
    (s.fire fn vec).vector fn vec =
      (if v.masked then { v with pending := true } else if v.sent then { v with held := true } else { v with sent := true }) ∧
    (s.fire fn vec).out = s.out ++ (if fn = 0 ∧ s.uci.ibi = true then [.ibi vec] else []) ++
      (if v.masked = false ∧ v.sent = false ∧ s.get fUciStatus_link_up = 1 then [.msix fn vec] else []) ∧
    (∀ fn' vec', fn' * 32 + vec' ≠ fn * 32 + vec → (s.fire fn vec).vector fn' vec' = s.vector fn' vec') ∧
    Within [.uci, .out] s (s.fire fn vec))

/-- R14, R24, R65, R424, R441, R467, R494: the machine before its first power good. STCH_PERIOD, STCH_SLACK, the cap and the floor of
power, the energy credit and the lowest state of every die have the values that their rules give; every other register field reads 0, the
fuses are blank, nothing is powered and nothing waits.
Model's choices: log entries 1, 3, 5, 121. -/
def Obligations.ResetValues : Prop :=
  State.reset.get fStchPeriod_period_us = 10 ∧ State.reset.get fStchSlack_slack_permille = 50 ∧
  State.reset.get fPwrCapSet_cap_w = 5000 ∧ State.reset.get fPwrFloorSet_floor_w = 100 ∧
  State.reset.get fPwrBudget_credit_mj = 40000 ∧ (∀ d < 8, State.reset.get (fPwrDieA_state d) = 36) ∧
  (∀ k, k ≠ fStchPeriod_period_us.key → k ≠ fStchSlack_slack_permille.key → k ≠ fPwrCapSet_cap_w.key →
    k ≠ fPwrFloorSet_floor_w.key → k ≠ fPwrBudget_credit_mj.key → (∀ d < 8, k ≠ (fPwrDieA_state d).key) →
    mapGet 0 State.reset.regs k = 0) ∧
  State.reset.sec.fuses.lc = 0 ∧ State.reset.sec.fuses.lastSteps = 0 ∧ State.reset.sec.fuses.fwSteps = 0 ∧
  State.reset.sec.fuses.repairs = [] ∧ State.reset.pins.powered = false ∧ State.reset.pins.stage = 0 ∧
  State.reset.clock.running = false ∧ State.reset.dev = none ∧ State.reset.lasts = [] ∧ State.reset.tile = {} ∧
  State.reset.coh = {} ∧ State.reset.eyelets = [] ∧ State.reset.dram.mem = [] ∧ State.reset.out = [] ∧ State.reset.pending = []

/-- R122 to R128, R137, R151: a format code is defined exactly where R122 lists it. An element of a format with sign, exponent and
fraction that is written back in any rounding and saturation mode is the same code with no flag, and a NaN becomes the canonical one; an
MX element keeps its code at any scale that is no NaN; an element copied to its own scaled format with its own scale is unchanged, a
signalling NaN among them with invalid; an E8M0 scale converts to itself; a raw
accumulator image of a number in range is written back as it is read.
Model's choices: log entries 134, 135. -/
def Obligations.NumberFormats : Prop :=
  (∀ code, (fmtOf code).isSome = true ↔
    code ∈ [0x01, 0x02, 0x03, 0x04, 0x10, 0x11, 0x12, 0x13, 0x14, 0x15, 0x20, 0x21, 0x22, 0x30]) ∧
  (∀ (k : Nat) (f : FpFmt) (c mode sat : Nat), (fmtOf k = some (.binary f) ∨ fmtOf k = some (.mx f)) →
    c < 2 ^ (1 + f.ebits + f.mbits) → mode < 5 → sat < 3 →
    (∀ sg, f.read c = .nan sg → f.write mode sat (f.read c) = (f.nanCode.getD 0, { invalid := sg })) ∧
    ((f.read c).isNan = false → f.write mode sat (f.read c) = (c, {}))) ∧
  (∀ (k : Nat) (f : FpFmt) (c mode sat scale : Nat), fmtOf k = some (.mx f) → c < 2 ^ (1 + f.ebits + f.mbits) → mode < 5 → sat < 3 →
    scale < 255 → (f.read c).isNan = false →
    (Fmt.mx f).write mode sat scale ((Fmt.mx f).read c scale) = (c, {})) ∧
  (∀ (c mode sat scale : Nat), c < 256 → c ≠ 0x80 → mode < 5 → scale < 255 →
    Fmt.mxInt.write mode sat scale (Fmt.mxInt.read c scale) = (c, {})) ∧
  (∀ (f : Fmt) (mode sat x scale : Nat), f.scaled = true → convertElem f f mode sat x scale scale =
    (x % 2 ^ f.bits, { invalid := f.read x scale == .nan true })) ∧
  (∀ mode c, c < 256 → e8m0Write mode (e8m0Read c) = some c) ∧
  (∀ (neg : Bool) (x : Int) (sig : Nat), -2048 ≤ x → x ≤ 2047 → sig < 2 ^ 48 → (2 ^ 47 ≤ sig ∨ x = -2048) →
    rawOf (rawRead (rawFin neg x sig)) = rawFin neg x sig) ∧
  (∀ neg : Bool, rawOf (rawRead (rawInf neg)) = rawInf neg) ∧ rawOf (rawRead rawNan) = rawNan

/-- R102: splitting K across passes at multiples of 32 changes no bit of the result. Two passes whose operands are the two parts of
those of one pass leave the accumulators that the one pass leaves: where the second starts from the bank, and where it loads the raw
images that the first wrote. -/
def Obligations.SplitsOfK : Prop :=
  ∀ (d d1 d2 : PassDesc) (fa fb out : Fmt) (rd rd1 rd2 : Reader) (bank : Nat → Nat → Nat) (start i j : Nat),
    d1.k % 32 = 0 → d2.k % 32 = 0 → d.k = d1.k + d2.k →
    (∀ k < d1.k, elemAt fa (rd1 (d1.aOff + i * d1.aStride) (rowBytes fa d1.k)) k = elemAt fa (rd (d.aOff + i * d.aStride) (rowBytes fa d.k)) k ∧
      elemAt fb (rd1 (d1.bOff + k * d1.bStride) (rowBytes fb d1.n)) j = elemAt fb (rd (d.bOff + k * d.bStride) (rowBytes fb d.n)) j) →
    (∀ k < d2.k, elemAt fa (rd2 (d2.aOff + i * d2.aStride) (rowBytes fa d2.k)) k =
        elemAt fa (rd (d.aOff + i * d.aStride) (rowBytes fa d.k)) (d1.k + k) ∧
      elemAt fb (rd2 (d2.bOff + k * d2.bStride) (rowBytes fb d2.n)) j =
        elemAt fb (rd (d.bOff + (d1.k + k) * d.bStride) (rowBytes fb d.n)) j) →
    (∀ g < d1.k / 32, scaleAt rd1 fa d1.aScale (i * (d1.k / 32) + g) = scaleAt rd fa d.aScale (i * (d.k / 32) + g) ∧
      scaleAt rd1 fb d1.bScale (g * d1.n + j) = scaleAt rd fb d.bScale (g * d.n + j)) →
    (∀ g < d2.k / 32, scaleAt rd2 fa d2.aScale (i * (d2.k / 32) + g) = scaleAt rd fa d.aScale (i * (d.k / 32) + (d1.k / 32 + g)) ∧
      scaleAt rd2 fb d2.bScale (g * d2.n + j) = scaleAt rd fb d.bScale ((d1.k / 32 + g) * d.n + j)) →
    rawOf (rawRead start) = start →
    (d2.init = 1 → bank i j = (passCell d1 fa fb out rd1 start i j).img →
      (passCell d2 fa fb out rd2 (passStart d2 rd2 bank i j).1 i j).img = (passCell d fa fb out rd start i j).img) ∧
    (d2.init = 2 → rd2 (d2.outOff + i * d2.outStride + 8 * j) 8 = toLE 8 (passCell d1 fa fb out rd1 start i j).img →
      passStart d2 rd2 bank i j = ((passCell d1 fa fb out rd1 start i j).img, false) ∧
      (passCell d2 fa fb out rd2 (passStart d2 rd2 bank i j).1 i j).img = (passCell d fa fb out rd start i j).img)

/-- R467, R473, R477: the fuses only move forward. Whatever command runs, the life-cycle state and both floors stay or rise, an owner
hash that has been fused stays fused, and the repairs in fuses are kept. -/
def Obligations.FusesMoveForward : Prop :=
  ∀ s t : State, FuseInv s → step s = .next t →
    FuseInv t ∧ s.sec.fuses.lc ≤ t.sec.fuses.lc ∧ s.sec.fuses.lastSteps ≤ t.sec.fuses.lastSteps ∧
    s.sec.fuses.fwSteps ≤ t.sec.fuses.fwSteps ∧ (s.sec.fuses.ownerBurned = true → t.sec.fuses.ownerBurned = true) ∧
    s.sec.fuses.repairs <+: t.sec.fuses.repairs

/-- Every step keeps the canonical form of the register file, of the DRAM contents and of the tile stores, so that equal contents are
equal data; and the commands that wait stay ones that the world can give. -/
def Obligations.CanonicalState : Prop :=
  (∀ s t : State, mapWf 0 s.regs = true → Memory.wf s.dram.mem = true → Memory.wf s.tile.scratch = true → step s = .next t →
    mapWf 0 t.regs = true ∧ Memory.wf t.dram.mem = true ∧ Memory.wf t.tile.scratch = true) ∧
  ∀ s t : State, QueueOk s → step s = .next t → QueueOk t

/-- The invariants that every step keeps hold at reset.
Model's choices: log entries 1, 3. -/
def Obligations.ResetInvariants : Prop :=
  FuseInv State.reset ∧ QueueOk State.reset ∧ mapWf 0 State.reset.regs = true ∧ Memory.wf State.reset.dram.mem = true ∧
  Memory.wf State.reset.tile.scratch = true

/-- Every command of the table, with any operands and in any state, answers a next state, keeps the queue, and changes nothing beside
the components that `mayChange` lists for it.
Model's choice: log entry 4. -/
def Obligations.EveryCommandAnswers : Prop :=
  ∀ (c : Instr) (s : State), ∃ t, exec c s = .next t ∧ Within (mayChange c) s t

/-- R100, R435, R436, R467, R472, R473, R477, R492: what outlives the loss of power changes only through the commands that the rules
name. The life-cycle state changes only when a transition ends or BLANK is provisioned; the owner hash only when a transition ends; a
floor only when its fuse is burned; the accumulators only by a product pass or the loss of power. -/
def Obligations.LastingState : Prop :=
  ∀ (c : Instr) (s t : State), exec c s = .next t →
    (t.sec.fuses.lc ≠ s.sec.fuses.lc → c = .transitionComplete ∨ ∃ st, c = .powerGood st) ∧
    (t.sec.fuses.ownerHash ≠ s.sec.fuses.ownerHash → c = .transitionComplete) ∧
    (t.sec.fuses.lastSteps ≠ s.sec.fuses.lastSteps ∨ t.sec.fuses.fwSteps ≠ s.sec.fuses.fwSteps → c = .floorBurnComplete) ∧
    (t.sec.fuses.repairs ≠ s.sec.fuses.repairs → ∃ d ok, c = .fuseBurn d ok) ∧
    (t.sec.flash ≠ s.sec.flash → (∃ d, c = .repairListWrite d) ∨ (∃ d, c = .trimWrite d) ∨ (∃ a b e f, c = .sliceEnd a b e f) ∨
      (∃ a, c = .repairRecordWrite a) ∨ (∃ a, c = .fwStaged a) ∨ ∃ ok ms, c = .dramInitialised ok ms) ∧
    (t.tile.banks ≠ s.tile.banks → (∃ a, c = .productPassComplete a) ∨ c = .powerLoss ∨ c = .mreset ∨ (∃ ok, c = .regulatorsSequenced ok) ∨
      c = .thermtripShutdown ∨ ∃ st, c = .powerGood st) ∧
    (t.pins.brakeLow ≠ s.pins.brakeLow → c = .brakeAssert ∨ c = .brakeRelease)
end

