-- ==== Sys2Proof/Laws/Map.lean ====
section
/-! SUPPORT. Laws of the sparse maps: what a key reads as after each operation, and that each operation keeps the canonical form. -/

namespace Sys2Proof.Machine

variable {α : Type}

@[simp] theorem mapGet_nil (d : α) (k : Nat) : mapGet d [] k = d := rfl

theorem mapGet_cons (d : α) (e : Nat × α) (m : SMap α) (k : Nat) :
    mapGet d (e :: m) k = if k = e.1 then e.2 else mapGet d m k := rfl

/-- A filter by key: the keys that it keeps read as before, the others as unlisted. -/
theorem mapGet_filter (d : α) (p : Nat → Bool) (m : SMap α) (k : Nat) :
    mapGet d (m.filter fun e => p e.1) k = if p k then mapGet d m k else d := by
  induction m with
  | nil => simp
  | cons e m ih =>
    by_cases hp : p e.1 <;> by_cases hk : k = e.1
    · subst hk; simp [hp, mapGet_cons]
    · simp [hp, mapGet_cons, hk, ih]
    · subst hk; simp [hp, ih]
    · simp [hp, mapGet_cons, hk, ih]

theorem mapGet_mapErase (d : α) (m : SMap α) (k k' : Nat) :
    mapGet d (mapErase m k) k' = if k' = k then d else mapGet d m k' := by
  have h := mapGet_filter d (fun i => i != k) m k'
  unfold mapErase
  rw [h]
  by_cases hk : k' = k <;> simp [hk]

theorem mapGet_mapInsert (d : α) (k : Nat) (v : α) (m : SMap α) (h : ∀ e ∈ m, e.1 ≠ k) (k' : Nat) :
    mapGet d (mapInsert k v m) k' = if k' = k then v else mapGet d m k' := by
  induction m with
  | nil => simp [mapInsert, mapGet_cons]
  | cons e m ih =>
    have he : e.1 ≠ k := h e (by simp)
    have ih := ih fun x hx => h x (by simp [hx])
    unfold mapInsert
    by_cases hlt : k < e.1
    · simp [hlt, mapGet_cons]
    · simp only [hlt, if_false, mapGet_cons, ih]
      by_cases h1 : k' = e.1
      · simp [h1, he]
      · simp [h1]

/-- What key `k'` reads as after a write at `k`. -/
theorem mapGet_mapSet [DecidableEq α] (d : α) (m : SMap α) (k k' : Nat) (v : α) :
    mapGet d (mapSet d m k v) k' = if k' = k then v else mapGet d m k' := by
  unfold mapSet
  split
  · next h => rw [mapGet_mapErase, h]
  · rw [mapGet_mapInsert]
    · simp only [mapGet_mapErase]; split <;> rfl
    · intro e he
      have := (List.mem_filter.1 he).2
      simpa using this

@[simp] theorem mapGet_mapSet_same [DecidableEq α] (d : α) (m : SMap α) (k : Nat) (v : α) :
    mapGet d (mapSet d m k v) k = v := by simp [mapGet_mapSet]

theorem mapGet_mapSet_ne [DecidableEq α] (d : α) (m : SMap α) {k k' : Nat} (v : α) (h : k' ≠ k) :
    mapGet d (mapSet d m k v) k' = mapGet d m k' := by simp [mapGet_mapSet, h]

theorem mapGet_mapClear (d : α) (m : SMap α) (lo hi k : Nat) :
    mapGet d (mapClear m lo hi) k = if lo ≤ k ∧ k < hi then d else mapGet d m k := by
  have h := mapGet_filter d (fun i => decide (i < lo) || decide (hi ≤ i)) m k
  unfold mapClear
  rw [h]
  by_cases h1 : k < lo <;> by_cases h2 : hi ≤ k <;> simp [h1, h2]

/-- A list of values written upward from `k`. -/
theorem mapGet_mapSetList [DecidableEq α] (d : α) (vs : List α) (m : SMap α) (k k' : Nat) :
    mapGet d (mapSetList d m k vs) k' =
      if k ≤ k' ∧ k' < k + vs.length then vs.getD (k' - k) d else mapGet d m k' := by
  induction vs generalizing m k with
  | nil => simp [mapSetList]
  | cons v vs ih =>
    rw [mapSetList, ih, mapGet_mapSet]
    by_cases h1 : k' = k
    · subst h1; simp
    · by_cases h2 : k + 1 ≤ k' ∧ k' < k + 1 + vs.length
      · have h3 : k ≤ k' ∧ k' < k + (v :: vs).length := by simp; omega
        rw [if_pos h2, if_pos h3]
        obtain ⟨j, hj⟩ : ∃ j, k' - k = j + 1 := ⟨k' - k - 1, by omega⟩
        have : k' - (k + 1) = j := by omega
        simp [hj, this]
      · have h3 : ¬(k ≤ k' ∧ k' < k + (v :: vs).length) := by simp; omega
        rw [if_neg h2, if_neg h1, if_neg h3]

theorem mapSetMasked_frame [DecidableEq α] (d : α) (vs : List α) (m : SMap α) (k mask k' : Nat)
    (h : k' < k ∨ k + vs.length ≤ k') : mapGet d (mapSetMasked d m k mask vs) k' = mapGet d m k' := by
  have key : ∀ (l : List (α × Nat)) (m : SMap α), (∀ e ∈ l, k' ≠ k + e.2) →
      mapGet d (l.foldl (fun m e => if mask.testBit e.2 then mapSet d m (k + e.2) e.1 else m) m) k' = mapGet d m k' := by
    intro l
    induction l with
    | nil => intro m _; rfl
    | cons e l ih =>
      intro m hl
      rw [List.foldl_cons, ih _ fun x hx => hl x (by simp [hx])]
      split
      · rw [mapGet_mapSet_ne _ _ _ (hl e (by simp))]
      · rfl
  refine key _ m fun e he => ?_
  have := List.snd_lt_of_mem_zipIdx he
  omega

/-! ## The canonical form -/

theorem mapWf_iff [DecidableEq α] (d : α) (m : SMap α) :
    mapWf d m = true ↔ m.Pairwise (fun a b => a.1 < b.1) ∧ ∀ e ∈ m, e.2 ≠ d := by
  simp [mapWf]

theorem mapWf_filter [DecidableEq α] {d : α} {m : SMap α} (p : Nat × α → Bool) (h : mapWf d m = true) :
    mapWf d (m.filter p) = true := by
  rw [mapWf_iff] at h ⊢
  exact ⟨h.1.filter _, fun e he => h.2 e (List.mem_filter.1 he).1⟩

theorem mapWf_mapErase [DecidableEq α] {d : α} {m : SMap α} (k : Nat) (h : mapWf d m = true) :
    mapWf d (mapErase m k) = true := mapWf_filter _ h

theorem mapWf_mapClear [DecidableEq α] {d : α} {m : SMap α} (lo hi : Nat) (h : mapWf d m = true) :
    mapWf d (mapClear m lo hi) = true := mapWf_filter _ h

theorem mem_mapInsert {k : Nat} {v : α} {m : SMap α} {e : Nat × α} :
    e ∈ mapInsert k v m ↔ e = (k, v) ∨ e ∈ m := by
  induction m with
  | nil => simp [mapInsert]
  | cons x m ih =>
    unfold mapInsert
    split
    · simp
    · simp only [List.mem_cons, ih]; tauto

theorem pairwise_mapInsert {k : Nat} {v : α} {m : SMap α} (h : m.Pairwise fun a b => a.1 < b.1)
    (hk : ∀ e ∈ m, e.1 ≠ k) : (mapInsert k v m).Pairwise fun a b => a.1 < b.1 := by
  induction m with
  | nil => simp [mapInsert]
  | cons x m ih =>
    have hx := List.pairwise_cons.1 h
    unfold mapInsert
    split
    · next hlt =>
      refine List.pairwise_cons.2 ⟨fun e he => ?_, h⟩
      rcases List.mem_cons.1 he with rfl | he
      · exact hlt
      · exact lt_trans hlt (hx.1 e he)
    · next hlt =>
      refine List.pairwise_cons.2 ⟨fun e he => ?_, ih hx.2 fun e he => hk e (by simp [he])⟩
      rcases mem_mapInsert.1 he with rfl | he
      · have := hk x (by simp); simp only; omega
      · exact hx.1 e he

theorem mapWf_mapSet [DecidableEq α] {d : α} {m : SMap α} (k : Nat) (v : α) (h : mapWf d m = true) :
    mapWf d (mapSet d m k v) = true := by
  unfold mapSet
  split
  · exact mapWf_mapErase k h
  · next hv =>
    have h' := (mapWf_iff d _).1 (mapWf_mapErase k h)
    rw [mapWf_iff]
    refine ⟨pairwise_mapInsert h'.1 fun e he => ?_, fun e he => ?_⟩
    · have := (List.mem_filter.1 he).2
      simpa using this
    · rcases mem_mapInsert.1 he with rfl | he
      · exact hv
      · exact h'.2 e he

theorem mapWf_mapSetList [DecidableEq α] {d : α} (vs : List α) {m : SMap α} (k : Nat) (h : mapWf d m = true) :
    mapWf d (mapSetList d m k vs) = true := by
  induction vs generalizing m k with
  | nil => exact h
  | cons v vs ih => exact ih _ (mapWf_mapSet k v h)

theorem mapWf_mapSetMasked [DecidableEq α] {d : α} (vs : List α) {m : SMap α} (k mask : Nat) (h : mapWf d m = true) :
    mapWf d (mapSetMasked d m k mask vs) = true := by
  have key : ∀ (l : List (α × Nat)) (m : SMap α), mapWf d m = true →
      mapWf d (l.foldl (fun m e => if mask.testBit e.2 then mapSet d m (k + e.2) e.1 else m) m) = true := by
    intro l
    induction l with
    | nil => intro m h; exact h
    | cons e l ih =>
      intro m h
      rw [List.foldl_cons]
      refine ih _ ?_
      split
      · exact mapWf_mapSet _ _ h
      · exact h
  exact key _ m h

/-- In a canonical map a key that reads as a value other than the default is listed with it, and no other way. -/
theorem mapGet_eq_of_mem [DecidableEq α] {d : α} {m : SMap α} (h : mapWf d m = true) {k : Nat} {v : α}
    (hm : (k, v) ∈ m) : mapGet d m k = v := by
  rw [mapWf_iff] at h
  have key : ∀ {m : SMap α}, m.Pairwise (fun a b => a.1 < b.1) → (k, v) ∈ m → mapGet d m k = v := by
    intro m hp hm
    induction m with
    | nil => cases hm
    | cons x m ih =>
      have hx := List.pairwise_cons.1 hp
      rw [mapGet_cons]
      rcases List.mem_cons.1 hm with rfl | hm
      · simp
      · have := hx.1 _ hm
        simp only at this
        rw [if_neg (by omega)]
        exact ih hx.2 hm
  exact key h.1 hm

/-- Canonical maps that read the same are the same data. -/
theorem mapWf_ext [DecidableEq α] {d : α} {m m' : SMap α} (h : mapWf d m = true) (h' : mapWf d m' = true)
    (heq : ∀ k, mapGet d m k = mapGet d m' k) : m = m' := by
  have sub : ∀ {a b : SMap α}, mapWf d a = true → mapWf d b = true → (∀ k, mapGet d a k = mapGet d b k) →
      ∀ e ∈ a, e ∈ b := by
    intro a b ha hb hab e he
    have h1 : mapGet d b e.1 = e.2 := by rw [← hab]; exact mapGet_eq_of_mem ha he
    have hne : e.2 ≠ d := ((mapWf_iff d a).1 ha).2 e he
    have key : ∀ {b : SMap α}, mapGet d b e.1 = e.2 → e ∈ b := by
      intro b
      induction b with
      | nil => intro h; exact absurd h.symm hne
      | cons x b ih =>
        intro h
        rw [mapGet_cons] at h
        split at h
        · next hk => exact List.mem_cons.2 (.inl (Prod.ext hk h.symm))
        · exact List.mem_cons.2 (.inr (ih h))
    exact key h1
  have nd : ∀ {a : SMap α}, mapWf d a = true → a.Nodup := fun ha =>
    ((mapWf_iff d _).1 ha).1.imp fun hlt heq => by subst heq; exact absurd hlt (lt_irrefl _)
  refine List.Perm.eq_of_pairwise (le := fun a b => a.1 < b.1) ?_ ((mapWf_iff d _).1 h).1 ((mapWf_iff d _).1 h').1
    ((List.perm_ext_iff_of_nodup (nd h) (nd h')).2 fun e => ⟨sub h h' heq e, sub h' h (fun k => (heq k).symm) e⟩)
  intro a b _ _ h1 h2
  omega

end Sys2Proof.Machine
end

