-- ==== Sys2Proof/Laws/Frame.lean ====
section
/-! SUPPORT. The frame relation: `Keeps m s t` says that `t` differs from `s` only in the components whose bit of `m` is set, that
no operation touches the queue, and that memories and the register file stay canonical. One lemma for each operation of the model
(Laws/Frames*.lean) says which bits it needs. -/

namespace Sys2Proof.Machine

/-- The register file, the DRAM contents and the tile stores have their canonical form. -/
structure Canon (s : State) : Prop where
  regs : mapWf 0 s.regs = true
  mem : mapWf 0#8 s.dram.mem = true
  scratch : mapWf 0#8 s.tile.scratch = true

structure Keeps (m : Nat) (s t : State) : Prop where
  regs : m.testBit 0 = false → t.regs = s.regs
  clock : m.testBit 1 = false → t.clock = s.clock
  cfg : m.testBit 2 = false → t.cfg = s.cfg
  ldr : m.testBit 3 = false → t.ldr = s.ldr
  dev : m.testBit 4 = false → t.dev = s.dev
  lasts : m.testBit 5 = false → t.lasts = s.lasts
  tile : m.testBit 6 = false → t.tile.tiles = s.tile.tiles ∧ t.tile.tasks = s.tile.tasks ∧ t.tile.taskNo = s.tile.taskNo
  mesh : m.testBit 7 = false → t.mesh = s.mesh
  coh : m.testBit 8 = false → t.coh = s.coh
  eyelets : m.testBit 9 = false → t.eyelets = s.eyelets
  dram : m.testBit 10 = false → { t.dram with mem := [] } = { s.dram with mem := [] }
  uci : m.testBit 11 = false → t.uci = s.uci
  outer : m.testBit 12 = false → t.outer = s.outer
  part : m.testBit 13 = false → t.part = s.part
  flt : m.testBit 14 = false → t.flt = s.flt
  power : m.testBit 15 = false → t.power = s.power
  awl : m.testBit 16 = false → t.awl = s.awl
  fuses : m.testBit 17 = false → t.sec.fuses = s.sec.fuses
  flash : m.testBit 18 = false → t.sec.flash = s.sec.flash
  burns : m.testBit 19 = false → t.sec.transition = s.sec.transition ∧ t.sec.newOwner = s.sec.newOwner ∧
    t.sec.floorBurn = s.sec.floorBurn
  sec : m.testBit 20 = false → t.sec.rest = s.sec.rest
  pins : m.testBit 21 = false → t.pins = s.pins
  out : m.testBit 22 = false → t.out = s.out
  lastRead : m.testBit 23 = false → t.lastRead = s.lastRead
  free : m.testBit 24 = false → t.free = s.free
  scratch : m.testBit 25 = false → t.tile.scratch = s.tile.scratch
  mem : m.testBit 26 = false → t.dram.mem = s.dram.mem
  banks : m.testBit 27 = false → t.tile.banks = s.tile.banks
  pending : t.pending = s.pending
  canon : Canon s → Canon t

theorem Keeps.refl (m : Nat) (s : State) : Keeps m s s := by
  constructor <;> first | exact fun _ => rfl | exact fun _ => ⟨rfl, rfl, rfl⟩ | rfl | exact id

theorem testBit_sub {n m i : Nat} (h : (n.land m).beq n = true) (hm : m.testBit i = false) : n.testBit i = false := by
  have h : n &&& m = n := Nat.eq_of_beq_eq_true h
  have := congrArg (Nat.testBit · i) h
  simpa [hm] using this.symm

theorem Keeps.trans {m n : Nat} {s t u : State} (h : Keeps m s t) (g : Keeps n t u) (hn : (n.land m).beq n = true) : Keeps m s u where
  regs hm := (g.regs (testBit_sub hn hm)).trans (h.regs hm)
  clock hm := (g.clock (testBit_sub hn hm)).trans (h.clock hm)
  cfg hm := (g.cfg (testBit_sub hn hm)).trans (h.cfg hm)
  ldr hm := (g.ldr (testBit_sub hn hm)).trans (h.ldr hm)
  dev hm := (g.dev (testBit_sub hn hm)).trans (h.dev hm)
  lasts hm := (g.lasts (testBit_sub hn hm)).trans (h.lasts hm)
  tile hm := by
    obtain ⟨a, b, c⟩ := h.tile hm
    obtain ⟨a', b', c'⟩ := g.tile (testBit_sub hn hm)
    exact ⟨a'.trans a, b'.trans b, c'.trans c⟩
  mesh hm := (g.mesh (testBit_sub hn hm)).trans (h.mesh hm)
  coh hm := (g.coh (testBit_sub hn hm)).trans (h.coh hm)
  eyelets hm := (g.eyelets (testBit_sub hn hm)).trans (h.eyelets hm)
  dram hm := (g.dram (testBit_sub hn hm)).trans (h.dram hm)
  uci hm := (g.uci (testBit_sub hn hm)).trans (h.uci hm)
  outer hm := (g.outer (testBit_sub hn hm)).trans (h.outer hm)
  part hm := (g.part (testBit_sub hn hm)).trans (h.part hm)
  flt hm := (g.flt (testBit_sub hn hm)).trans (h.flt hm)
  power hm := (g.power (testBit_sub hn hm)).trans (h.power hm)
  awl hm := (g.awl (testBit_sub hn hm)).trans (h.awl hm)
  fuses hm := (g.fuses (testBit_sub hn hm)).trans (h.fuses hm)
  flash hm := (g.flash (testBit_sub hn hm)).trans (h.flash hm)
  burns hm := by
    obtain ⟨a, b, c⟩ := h.burns hm
    obtain ⟨a', b', c'⟩ := g.burns (testBit_sub hn hm)
    exact ⟨a'.trans a, b'.trans b, c'.trans c⟩
  sec hm := (g.sec (testBit_sub hn hm)).trans (h.sec hm)
  pins hm := (g.pins (testBit_sub hn hm)).trans (h.pins hm)
  out hm := (g.out (testBit_sub hn hm)).trans (h.out hm)
  lastRead hm := (g.lastRead (testBit_sub hn hm)).trans (h.lastRead hm)
  free hm := (g.free (testBit_sub hn hm)).trans (h.free hm)
  scratch hm := (g.scratch (testBit_sub hn hm)).trans (h.scratch hm)
  mem hm := (g.mem (testBit_sub hn hm)).trans (h.mem hm)
  banks hm := (g.banks (testBit_sub hn hm)).trans (h.banks hm)
  pending := g.pending.trans h.pending
  canon c := g.canon (h.canon c)

theorem Keeps.mono {m n : Nat} {s t : State} (h : Keeps n s t) (hn : (n.land m).beq n = true) : Keeps m s t :=
  (Keeps.refl m s).trans h hn

theorem Keeps.after {m n : Nat} {s t u : State} (g : Keeps n t u) (h : Keeps m s t) (hn : (n.land m).beq n = true) :
    Keeps m s u := h.trans g hn

theorem Keeps.foldl {α : Type} {m : Nat} {s x : State} {f : State → α → State} {l : List α} (h : Keeps m s x)
    (hf : ∀ u a, Keeps m u (f u a)) : Keeps m s (l.foldl f x) := by
  induction l generalizing x with
  | nil => exact h
  | cons a l ih => exact ih (h.trans (hf x a) (by show (m &&& m).beq m = true; simp))

theorem Keeps.foldlSnd {α β : Type} {m : Nat} {s : State} {f : β × State → α → β × State} {l : List α} {z : β × State}
    (h : Keeps m s z.2) (hf : ∀ r a, Keeps m r.2 (f r a).2) : Keeps m s (l.foldl f z).2 := by
  induction l generalizing z with
  | nil => exact h
  | cons a l ih => exact ih ((hf z a).after h (by show (m &&& m).beq m = true; simp))

theorem Keeps.setRegs {m : Nat} {s x : State} (h : Keeps m s x) {e} (hb : m.testBit 0 = true) (hw : mapWf 0 x.regs = true → mapWf 0 e = true) :
    Keeps m s { x with regs := e } where
  regs hm := absurd (hm.symm.trans hb) (by decide)
  clock := h.clock
  cfg := h.cfg
  ldr := h.ldr
  dev := h.dev
  lasts := h.lasts
  tile := h.tile
  mesh := h.mesh
  coh := h.coh
  eyelets := h.eyelets
  dram := h.dram
  uci := h.uci
  outer := h.outer
  part := h.part
  flt := h.flt
  power := h.power
  awl := h.awl
  fuses := h.fuses
  flash := h.flash
  burns := h.burns
  sec := h.sec
  pins := h.pins
  out := h.out
  lastRead := h.lastRead
  free := h.free
  scratch := h.scratch
  mem := h.mem
  banks := h.banks
  pending := h.pending
  canon c := ⟨hw (h.canon c).regs, (h.canon c).mem, (h.canon c).scratch⟩

theorem Keeps.setClock {m : Nat} {s x : State} (h : Keeps m s x) {e} (hb : m.testBit 1 = true) :
    Keeps m s { x with clock := e } where
  regs := h.regs
  clock hm := absurd (hm.symm.trans hb) (by decide)
  cfg := h.cfg
  ldr := h.ldr
  dev := h.dev
  lasts := h.lasts
  tile := h.tile
  mesh := h.mesh
  coh := h.coh
  eyelets := h.eyelets
  dram := h.dram
  uci := h.uci
  outer := h.outer
  part := h.part
  flt := h.flt
  power := h.power
  awl := h.awl
  fuses := h.fuses
  flash := h.flash
  burns := h.burns
  sec := h.sec
  pins := h.pins
  out := h.out
  lastRead := h.lastRead
  free := h.free
  scratch := h.scratch
  mem := h.mem
  banks := h.banks
  pending := h.pending
  canon c := ⟨(h.canon c).regs, (h.canon c).mem, (h.canon c).scratch⟩

theorem Keeps.setCfg {m : Nat} {s x : State} (h : Keeps m s x) {e} (hb : m.testBit 2 = true) :
    Keeps m s { x with cfg := e } where
  regs := h.regs
  clock := h.clock
  cfg hm := absurd (hm.symm.trans hb) (by decide)
  ldr := h.ldr
  dev := h.dev
  lasts := h.lasts
  tile := h.tile
  mesh := h.mesh
  coh := h.coh
  eyelets := h.eyelets
  dram := h.dram
  uci := h.uci
  outer := h.outer
  part := h.part
  flt := h.flt
  power := h.power
  awl := h.awl
  fuses := h.fuses
  flash := h.flash
  burns := h.burns
  sec := h.sec
  pins := h.pins
  out := h.out
  lastRead := h.lastRead
  free := h.free
  scratch := h.scratch
  mem := h.mem
  banks := h.banks
  pending := h.pending
  canon c := ⟨(h.canon c).regs, (h.canon c).mem, (h.canon c).scratch⟩

theorem Keeps.setLdr {m : Nat} {s x : State} (h : Keeps m s x) {e} (hb : m.testBit 3 = true) :
    Keeps m s { x with ldr := e } where
  regs := h.regs
  clock := h.clock
  cfg := h.cfg
  ldr hm := absurd (hm.symm.trans hb) (by decide)
  dev := h.dev
  lasts := h.lasts
  tile := h.tile
  mesh := h.mesh
  coh := h.coh
  eyelets := h.eyelets
  dram := h.dram
  uci := h.uci
  outer := h.outer
  part := h.part
  flt := h.flt
  power := h.power
  awl := h.awl
  fuses := h.fuses
  flash := h.flash
  burns := h.burns
  sec := h.sec
  pins := h.pins
  out := h.out
  lastRead := h.lastRead
  free := h.free
  scratch := h.scratch
  mem := h.mem
  banks := h.banks
  pending := h.pending
  canon c := ⟨(h.canon c).regs, (h.canon c).mem, (h.canon c).scratch⟩

theorem Keeps.setDev {m : Nat} {s x : State} (h : Keeps m s x) {e} (hb : m.testBit 4 = true) :
    Keeps m s { x with dev := e } where
  regs := h.regs
  clock := h.clock
  cfg := h.cfg
  ldr := h.ldr
  dev hm := absurd (hm.symm.trans hb) (by decide)
  lasts := h.lasts
  tile := h.tile
  mesh := h.mesh
  coh := h.coh
  eyelets := h.eyelets
  dram := h.dram
  uci := h.uci
  outer := h.outer
  part := h.part
  flt := h.flt
  power := h.power
  awl := h.awl
  fuses := h.fuses
  flash := h.flash
  burns := h.burns
  sec := h.sec
  pins := h.pins
  out := h.out
  lastRead := h.lastRead
  free := h.free
  scratch := h.scratch
  mem := h.mem
  banks := h.banks
  pending := h.pending
  canon c := ⟨(h.canon c).regs, (h.canon c).mem, (h.canon c).scratch⟩

theorem Keeps.setLasts {m : Nat} {s x : State} (h : Keeps m s x) {e} (hb : m.testBit 5 = true) :
    Keeps m s { x with lasts := e } where
  regs := h.regs
  clock := h.clock
  cfg := h.cfg
  ldr := h.ldr
  dev := h.dev
  lasts hm := absurd (hm.symm.trans hb) (by decide)
  tile := h.tile
  mesh := h.mesh
  coh := h.coh
  eyelets := h.eyelets
  dram := h.dram
  uci := h.uci
  outer := h.outer
  part := h.part
  flt := h.flt
  power := h.power
  awl := h.awl
  fuses := h.fuses
  flash := h.flash
  burns := h.burns
  sec := h.sec
  pins := h.pins
  out := h.out
  lastRead := h.lastRead
  free := h.free
  scratch := h.scratch
  mem := h.mem
  banks := h.banks
  pending := h.pending
  canon c := ⟨(h.canon c).regs, (h.canon c).mem, (h.canon c).scratch⟩

theorem Keeps.setMesh {m : Nat} {s x : State} (h : Keeps m s x) {e} (hb : m.testBit 7 = true) :
    Keeps m s { x with mesh := e } where
  regs := h.regs
  clock := h.clock
  cfg := h.cfg
  ldr := h.ldr
  dev := h.dev
  lasts := h.lasts
  tile := h.tile
  mesh hm := absurd (hm.symm.trans hb) (by decide)
  coh := h.coh
  eyelets := h.eyelets
  dram := h.dram
  uci := h.uci
  outer := h.outer
  part := h.part
  flt := h.flt
  power := h.power
  awl := h.awl
  fuses := h.fuses
  flash := h.flash
  burns := h.burns
  sec := h.sec
  pins := h.pins
  out := h.out
  lastRead := h.lastRead
  free := h.free
  scratch := h.scratch
  mem := h.mem
  banks := h.banks
  pending := h.pending
  canon c := ⟨(h.canon c).regs, (h.canon c).mem, (h.canon c).scratch⟩

theorem Keeps.setCoh {m : Nat} {s x : State} (h : Keeps m s x) {e} (hb : m.testBit 8 = true) :
    Keeps m s { x with coh := e } where
  regs := h.regs
  clock := h.clock
  cfg := h.cfg
  ldr := h.ldr
  dev := h.dev
  lasts := h.lasts
  tile := h.tile
  mesh := h.mesh
  coh hm := absurd (hm.symm.trans hb) (by decide)
  eyelets := h.eyelets
  dram := h.dram
  uci := h.uci
  outer := h.outer
  part := h.part
  flt := h.flt
  power := h.power
  awl := h.awl
  fuses := h.fuses
  flash := h.flash
  burns := h.burns
  sec := h.sec
  pins := h.pins
  out := h.out
  lastRead := h.lastRead
  free := h.free
  scratch := h.scratch
  mem := h.mem
  banks := h.banks
  pending := h.pending
  canon c := ⟨(h.canon c).regs, (h.canon c).mem, (h.canon c).scratch⟩

theorem Keeps.setEyelets {m : Nat} {s x : State} (h : Keeps m s x) {e} (hb : m.testBit 9 = true) :
    Keeps m s { x with eyelets := e } where
  regs := h.regs
  clock := h.clock
  cfg := h.cfg
  ldr := h.ldr
  dev := h.dev
  lasts := h.lasts
  tile := h.tile
  mesh := h.mesh
  coh := h.coh
  eyelets hm := absurd (hm.symm.trans hb) (by decide)
  dram := h.dram
  uci := h.uci
  outer := h.outer
  part := h.part
  flt := h.flt
  power := h.power
  awl := h.awl
  fuses := h.fuses
  flash := h.flash
  burns := h.burns
  sec := h.sec
  pins := h.pins
  out := h.out
  lastRead := h.lastRead
  free := h.free
  scratch := h.scratch
  mem := h.mem
  banks := h.banks
  pending := h.pending
  canon c := ⟨(h.canon c).regs, (h.canon c).mem, (h.canon c).scratch⟩

theorem Keeps.setUci {m : Nat} {s x : State} (h : Keeps m s x) {e} (hb : m.testBit 11 = true) :
    Keeps m s { x with uci := e } where
  regs := h.regs
  clock := h.clock
  cfg := h.cfg
  ldr := h.ldr
  dev := h.dev
  lasts := h.lasts
  tile := h.tile
  mesh := h.mesh
  coh := h.coh
  eyelets := h.eyelets
  dram := h.dram
  uci hm := absurd (hm.symm.trans hb) (by decide)
  outer := h.outer
  part := h.part
  flt := h.flt
  power := h.power
  awl := h.awl
  fuses := h.fuses
  flash := h.flash
  burns := h.burns
  sec := h.sec
  pins := h.pins
  out := h.out
  lastRead := h.lastRead
  free := h.free
  scratch := h.scratch
  mem := h.mem
  banks := h.banks
  pending := h.pending
  canon c := ⟨(h.canon c).regs, (h.canon c).mem, (h.canon c).scratch⟩

theorem Keeps.setOuter {m : Nat} {s x : State} (h : Keeps m s x) {e} (hb : m.testBit 12 = true) :
    Keeps m s { x with outer := e } where
  regs := h.regs
  clock := h.clock
  cfg := h.cfg
  ldr := h.ldr
  dev := h.dev
  lasts := h.lasts
  tile := h.tile
  mesh := h.mesh
  coh := h.coh
  eyelets := h.eyelets
  dram := h.dram
  uci := h.uci
  outer hm := absurd (hm.symm.trans hb) (by decide)
  part := h.part
  flt := h.flt
  power := h.power
  awl := h.awl
  fuses := h.fuses
  flash := h.flash
  burns := h.burns
  sec := h.sec
  pins := h.pins
  out := h.out
  lastRead := h.lastRead
  free := h.free
  scratch := h.scratch
  mem := h.mem
  banks := h.banks
  pending := h.pending
  canon c := ⟨(h.canon c).regs, (h.canon c).mem, (h.canon c).scratch⟩

theorem Keeps.setPart {m : Nat} {s x : State} (h : Keeps m s x) {e} (hb : m.testBit 13 = true) :
    Keeps m s { x with part := e } where
  regs := h.regs
  clock := h.clock
  cfg := h.cfg
  ldr := h.ldr
  dev := h.dev
  lasts := h.lasts
  tile := h.tile
  mesh := h.mesh
  coh := h.coh
  eyelets := h.eyelets
  dram := h.dram
  uci := h.uci
  outer := h.outer
  part hm := absurd (hm.symm.trans hb) (by decide)
  flt := h.flt
  power := h.power
  awl := h.awl
  fuses := h.fuses
  flash := h.flash
  burns := h.burns
  sec := h.sec
  pins := h.pins
  out := h.out
  lastRead := h.lastRead
  free := h.free
  scratch := h.scratch
  mem := h.mem
  banks := h.banks
  pending := h.pending
  canon c := ⟨(h.canon c).regs, (h.canon c).mem, (h.canon c).scratch⟩

theorem Keeps.setFlt {m : Nat} {s x : State} (h : Keeps m s x) {e} (hb : m.testBit 14 = true) :
    Keeps m s { x with flt := e } where
  regs := h.regs
  clock := h.clock
  cfg := h.cfg
  ldr := h.ldr
  dev := h.dev
  lasts := h.lasts
  tile := h.tile
  mesh := h.mesh
  coh := h.coh
  eyelets := h.eyelets
  dram := h.dram
  uci := h.uci
  outer := h.outer
  part := h.part
  flt hm := absurd (hm.symm.trans hb) (by decide)
  power := h.power
  awl := h.awl
  fuses := h.fuses
  flash := h.flash
  burns := h.burns
  sec := h.sec
  pins := h.pins
  out := h.out
  lastRead := h.lastRead
  free := h.free
  scratch := h.scratch
  mem := h.mem
  banks := h.banks
  pending := h.pending
  canon c := ⟨(h.canon c).regs, (h.canon c).mem, (h.canon c).scratch⟩

theorem Keeps.setPower {m : Nat} {s x : State} (h : Keeps m s x) {e} (hb : m.testBit 15 = true) :
    Keeps m s { x with power := e } where
  regs := h.regs
  clock := h.clock
  cfg := h.cfg
  ldr := h.ldr
  dev := h.dev
  lasts := h.lasts
  tile := h.tile
  mesh := h.mesh
  coh := h.coh
  eyelets := h.eyelets
  dram := h.dram
  uci := h.uci
  outer := h.outer
  part := h.part
  flt := h.flt
  power hm := absurd (hm.symm.trans hb) (by decide)
  awl := h.awl
  fuses := h.fuses
  flash := h.flash
  burns := h.burns
  sec := h.sec
  pins := h.pins
  out := h.out
  lastRead := h.lastRead
  free := h.free
  scratch := h.scratch
  mem := h.mem
  banks := h.banks
  pending := h.pending
  canon c := ⟨(h.canon c).regs, (h.canon c).mem, (h.canon c).scratch⟩

theorem Keeps.setAwl {m : Nat} {s x : State} (h : Keeps m s x) {e} (hb : m.testBit 16 = true) :
    Keeps m s { x with awl := e } where
  regs := h.regs
  clock := h.clock
  cfg := h.cfg
  ldr := h.ldr
  dev := h.dev
  lasts := h.lasts
  tile := h.tile
  mesh := h.mesh
  coh := h.coh
  eyelets := h.eyelets
  dram := h.dram
  uci := h.uci
  outer := h.outer
  part := h.part
  flt := h.flt
  power := h.power
  awl hm := absurd (hm.symm.trans hb) (by decide)
  fuses := h.fuses
  flash := h.flash
  burns := h.burns
  sec := h.sec
  pins := h.pins
  out := h.out
  lastRead := h.lastRead
  free := h.free
  scratch := h.scratch
  mem := h.mem
  banks := h.banks
  pending := h.pending
  canon c := ⟨(h.canon c).regs, (h.canon c).mem, (h.canon c).scratch⟩

theorem Keeps.setPins {m : Nat} {s x : State} (h : Keeps m s x) {e} (hb : m.testBit 21 = true) :
    Keeps m s { x with pins := e } where
  regs := h.regs
  clock := h.clock
  cfg := h.cfg
  ldr := h.ldr
  dev := h.dev
  lasts := h.lasts
  tile := h.tile
  mesh := h.mesh
  coh := h.coh
  eyelets := h.eyelets
  dram := h.dram
  uci := h.uci
  outer := h.outer
  part := h.part
  flt := h.flt
  power := h.power
  awl := h.awl
  fuses := h.fuses
  flash := h.flash
  burns := h.burns
  sec := h.sec
  pins hm := absurd (hm.symm.trans hb) (by decide)
  out := h.out
  lastRead := h.lastRead
  free := h.free
  scratch := h.scratch
  mem := h.mem
  banks := h.banks
  pending := h.pending
  canon c := ⟨(h.canon c).regs, (h.canon c).mem, (h.canon c).scratch⟩

theorem Keeps.setOut {m : Nat} {s x : State} (h : Keeps m s x) {e} (hb : m.testBit 22 = true) :
    Keeps m s { x with out := e } where
  regs := h.regs
  clock := h.clock
  cfg := h.cfg
  ldr := h.ldr
  dev := h.dev
  lasts := h.lasts
  tile := h.tile
  mesh := h.mesh
  coh := h.coh
  eyelets := h.eyelets
  dram := h.dram
  uci := h.uci
  outer := h.outer
  part := h.part
  flt := h.flt
  power := h.power
  awl := h.awl
  fuses := h.fuses
  flash := h.flash
  burns := h.burns
  sec := h.sec
  pins := h.pins
  out hm := absurd (hm.symm.trans hb) (by decide)
  lastRead := h.lastRead
  free := h.free
  scratch := h.scratch
  mem := h.mem
  banks := h.banks
  pending := h.pending
  canon c := ⟨(h.canon c).regs, (h.canon c).mem, (h.canon c).scratch⟩

theorem Keeps.setLastRead {m : Nat} {s x : State} (h : Keeps m s x) {e} (hb : m.testBit 23 = true) :
    Keeps m s { x with lastRead := e } where
  regs := h.regs
  clock := h.clock
  cfg := h.cfg
  ldr := h.ldr
  dev := h.dev
  lasts := h.lasts
  tile := h.tile
  mesh := h.mesh
  coh := h.coh
  eyelets := h.eyelets
  dram := h.dram
  uci := h.uci
  outer := h.outer
  part := h.part
  flt := h.flt
  power := h.power
  awl := h.awl
  fuses := h.fuses
  flash := h.flash
  burns := h.burns
  sec := h.sec
  pins := h.pins
  out := h.out
  lastRead hm := absurd (hm.symm.trans hb) (by decide)
  free := h.free
  scratch := h.scratch
  mem := h.mem
  banks := h.banks
  pending := h.pending
  canon c := ⟨(h.canon c).regs, (h.canon c).mem, (h.canon c).scratch⟩

theorem Keeps.setFree {m : Nat} {s x : State} (h : Keeps m s x) {e} (hb : m.testBit 24 = true) :
    Keeps m s { x with free := e } where
  regs := h.regs
  clock := h.clock
  cfg := h.cfg
  ldr := h.ldr
  dev := h.dev
  lasts := h.lasts
  tile := h.tile
  mesh := h.mesh
  coh := h.coh
  eyelets := h.eyelets
  dram := h.dram
  uci := h.uci
  outer := h.outer
  part := h.part
  flt := h.flt
  power := h.power
  awl := h.awl
  fuses := h.fuses
  flash := h.flash
  burns := h.burns
  sec := h.sec
  pins := h.pins
  out := h.out
  lastRead := h.lastRead
  free hm := absurd (hm.symm.trans hb) (by decide)
  scratch := h.scratch
  mem := h.mem
  banks := h.banks
  pending := h.pending
  canon c := ⟨(h.canon c).regs, (h.canon c).mem, (h.canon c).scratch⟩

theorem Keeps.setTileSt {m : Nat} {s x : State} (h : Keeps m s x) {e : TilesSt}
    (ht : m.testBit 6 = true ∨ e.tiles = x.tile.tiles ∧ e.tasks = x.tile.tasks ∧ e.taskNo = x.tile.taskNo)
    (hs : m.testBit 25 = true ∨ e.scratch = x.tile.scratch) (hk : m.testBit 27 = true ∨ e.banks = x.tile.banks)
    (hw : mapWf 0#8 x.tile.scratch = true → mapWf 0#8 e.scratch = true) : Keeps m s { x with tile := e } where
  regs := h.regs
  clock := h.clock
  cfg := h.cfg
  ldr := h.ldr
  dev := h.dev
  lasts := h.lasts
  tile hm := by
    obtain ⟨a, b, c⟩ := ht.resolve_left (by simp [hm])
    obtain ⟨a', b', c'⟩ := h.tile hm
    exact ⟨a.trans a', b.trans b', c.trans c'⟩
  mesh := h.mesh
  coh := h.coh
  eyelets := h.eyelets
  dram := h.dram
  uci := h.uci
  outer := h.outer
  part := h.part
  flt := h.flt
  power := h.power
  awl := h.awl
  fuses := h.fuses
  flash := h.flash
  burns := h.burns
  sec := h.sec
  pins := h.pins
  out := h.out
  lastRead := h.lastRead
  free := h.free
  scratch hm := (hs.resolve_left (by simp [hm])).trans (h.scratch hm)
  mem := h.mem
  banks hm := (hk.resolve_left (by simp [hm])).trans (h.banks hm)
  pending := h.pending
  canon c := ⟨(h.canon c).regs, (h.canon c).mem, hw (h.canon c).scratch⟩

theorem Keeps.setDramSt {m : Nat} {s x : State} (h : Keeps m s x) {e : DramSt}
    (hd : m.testBit 10 = true ∨ { e with mem := [] } = { x.dram with mem := [] })
    (hs : m.testBit 26 = true ∨ e.mem = x.dram.mem)
    (hw : mapWf 0#8 x.dram.mem = true → mapWf 0#8 e.mem = true) : Keeps m s { x with dram := e } where
  regs := h.regs
  clock := h.clock
  cfg := h.cfg
  ldr := h.ldr
  dev := h.dev
  lasts := h.lasts
  tile := h.tile
  mesh := h.mesh
  coh := h.coh
  eyelets := h.eyelets
  dram hm := (hd.resolve_left (by simp [hm])).trans (h.dram hm)
  uci := h.uci
  outer := h.outer
  part := h.part
  flt := h.flt
  power := h.power
  awl := h.awl
  fuses := h.fuses
  flash := h.flash
  burns := h.burns
  sec := h.sec
  pins := h.pins
  out := h.out
  lastRead := h.lastRead
  free := h.free
  scratch := h.scratch
  mem hm := (hs.resolve_left (by simp [hm])).trans (h.mem hm)
  banks := h.banks
  pending := h.pending
  canon c := ⟨(h.canon c).regs, hw (h.canon c).mem, (h.canon c).scratch⟩

theorem Keeps.setSecSt {m : Nat} {s x : State} (h : Keeps m s x) {e : SecSt}
    (hf : m.testBit 17 = true ∨ e.fuses = x.sec.fuses) (hl : m.testBit 18 = true ∨ e.flash = x.sec.flash)
    (hb : m.testBit 19 = true ∨ e.transition = x.sec.transition ∧ e.newOwner = x.sec.newOwner ∧ e.floorBurn = x.sec.floorBurn)
    (hr : m.testBit 20 = true ∨ e.rest = x.sec.rest) :
    Keeps m s { x with sec := e } where
  regs := h.regs
  clock := h.clock
  cfg := h.cfg
  ldr := h.ldr
  dev := h.dev
  lasts := h.lasts
  tile := h.tile
  mesh := h.mesh
  coh := h.coh
  eyelets := h.eyelets
  dram := h.dram
  uci := h.uci
  outer := h.outer
  part := h.part
  flt := h.flt
  power := h.power
  awl := h.awl
  fuses hm := (hf.resolve_left (by simp [hm])).trans (h.fuses hm)
  flash hm := (hl.resolve_left (by simp [hm])).trans (h.flash hm)
  burns hm := by
    obtain ⟨a, b, c⟩ := hb.resolve_left (by simp [hm])
    obtain ⟨a', b', c'⟩ := h.burns hm
    exact ⟨a.trans a', b.trans b', c.trans c'⟩
  sec hm := (hr.resolve_left (by simp [hm])).trans (h.sec hm)
  pins := h.pins
  out := h.out
  lastRead := h.lastRead
  free := h.free
  scratch := h.scratch
  mem := h.mem
  banks := h.banks
  pending := h.pending
  canon c := ⟨(h.canon c).regs, (h.canon c).mem, (h.canon c).scratch⟩

theorem Keeps.viaSec {m : Nat} {s x : State} {e : SecSt} (h : Keeps m s x)
    (hf : m.testBit 17 = true ∨ e.fuses = x.sec.fuses) (hl : m.testBit 18 = true ∨ e.flash = x.sec.flash)
    (hb : m.testBit 19 = true ∨ e.transition = x.sec.transition ∧ e.newOwner = x.sec.newOwner ∧ e.floorBurn = x.sec.floorBurn)
    (hr : m.testBit 20 = true ∨ e.rest = x.sec.rest) :
    Keeps m s (x.setSec e) := h.setSecSt hf hl hb hr

theorem Keeps.ite {m : Nat} {s a b : State} {c : Prop} [Decidable c] (ha : c → Keeps m s a) (hb : ¬c → Keeps m s b) :
    Keeps m s (if c then a else b) := by
  split
  · exact ha ‹_›
  · exact hb ‹_›

theorem Keeps.snd {α : Type} {m : Nat} {s b : State} {p : α × State} {a : α} (h : p = (a, b)) (k : Keeps m s p.2) :
    Keeps m s b := by subst h; exact k

theorem Keeps.fst {α : Type} {m : Nat} {s a : State} {p : State × α} {b : α} (h : p = (a, b)) (k : Keeps m s p.1) :
    Keeps m s a := by subst h; exact k

/-- The outcome is a next state that keeps what `m` leaves alone. -/
def KeepsO (m : Nat) (s : State) (o : Host.Outcome State Fault Refusal) : Prop := ∃ t, o = .next t ∧ Keeps m s t

theorem KeepsO.next {m : Nat} {s t : State} (h : Keeps m s t) : KeepsO m s (.next t) := ⟨t, rfl, h⟩

theorem KeepsO.ite {m : Nat} {s : State} {a b : Host.Outcome State Fault Refusal} {c : Prop} [Decidable c]
    (ha : c → KeepsO m s a) (hb : ¬c → KeepsO m s b) : KeepsO m s (if c then a else b) := by
  split
  · exact ha ‹_›
  · exact hb ‹_›

theorem KeepsO.mono {m n : Nat} {s : State} {o : Host.Outcome State Fault Refusal} (h : KeepsO n s o) (hn : (n.land m).beq n = true) :
    KeepsO m s o := by
  obtain ⟨t, ht, hk⟩ := h
  exact ⟨t, ht, hk.mono hn⟩

theorem KeepsO.after {m n : Nat} {s x : State} {o : Host.Outcome State Fault Refusal} (g : KeepsO n x o) (h : Keeps m s x)
    (hn : (n.land m).beq n = true) : KeepsO m s o := by
  obtain ⟨t, ht, hk⟩ := g
  exact ⟨t, ht, h.trans hk hn⟩

theorem KeepsO.trans {m n : Nat} {s x : State} {o : Host.Outcome State Fault Refusal} (h : Keeps m s x) (g : KeepsO n x o)
    (hn : (n.land m).beq n = true) : KeepsO m s o := by
  obtain ⟨t, ht, hk⟩ := g
  exact ⟨t, ht, h.trans hk hn⟩


/-! ## What claims say of frames -/

/-- The bit of a component. -/
def Comp.bit : Comp → Nat
  | .regs => 0 | .clock => 1 | .cfg => 2 | .ldr => 3 | .dev => 4 | .lasts => 5 | .tile => 6 | .mesh => 7 | .coh => 8
  | .eyelets => 9 | .dram => 10 | .uci => 11 | .outer => 12 | .part => 13 | .flt => 14 | .power => 15 | .awl => 16 | .fuses => 17
  | .flash => 18 | .burns => 19 | .sec => 20 | .pins => 21 | .out => 22 | .lastRead => 23 | .free => 24 | .scratch => 25
  | .mem => 26 | .banks => 27

def Comp.all : List Comp :=
  [.regs, .clock, .cfg, .ldr, .dev, .lasts, .tile, .mesh, .coh, .eyelets, .dram, .uci, .outer, .part, .flt, .power, .awl, .fuses,
   .flash, .burns, .sec, .pins, .out, .lastRead, .free, .scratch, .mem, .banks]

theorem Comp.mem_all (c : Comp) : c ∈ Comp.all := by cases c <;> decide

theorem Keeps.same {m : Nat} {s t : State} (h : Keeps m s t) {c : Comp} (hb : m.testBit c.bit = false) : c.same s t := by
  cases c
  · exact h.regs hb
  · exact h.clock hb
  · exact h.cfg hb
  · exact h.ldr hb
  · exact h.dev hb
  · exact h.lasts hb
  · exact h.tile hb
  · exact h.scratch hb
  · exact h.banks hb
  · exact h.mesh hb
  · exact h.coh hb
  · exact h.eyelets hb
  · exact h.dram hb
  · exact h.mem hb
  · exact h.uci hb
  · exact h.outer hb
  · exact h.part hb
  · exact h.flt hb
  · exact h.power hb
  · exact h.awl hb
  · exact h.fuses hb
  · exact h.flash hb
  · exact h.burns hb
  · exact h.sec hb
  · exact h.pins hb
  · exact h.out hb
  · exact h.lastRead hb
  · exact h.free hb

/-- From the bits of a command to the components that a claim names. -/
theorem Keeps.within {m : Nat} {s t : State} {cs : List Comp} (h : Keeps m s t)
    (hb : (Comp.all.all fun c => cs.contains c || !m.testBit c.bit) = true := by decide) : Within cs s t := by
  refine ⟨h.pending, fun c hc => h.same ?_⟩
  have := List.all_eq_true.1 hb c c.mem_all
  simpa [hc] using this

theorem KeepsO.within {m : Nat} {s t : State} {o : Host.Outcome State Fault Refusal} {cs : List Comp} (h : KeepsO m s o)
    (ht : o = .next t) (hb : (Comp.all.all fun c => cs.contains c || !m.testBit c.bit) = true := by decide) : Within cs s t := by
  obtain ⟨u, hu, hk⟩ := h
  rw [ht] at hu
  cases hu
  exact hk.within hb

theorem Within.refl (cs : List Comp) (s : State) : Within cs s s := (Keeps.refl 0 s).within (by
  simp only [Nat.zero_testBit, Bool.not_false, Bool.or_true]; decide)

end Sys2Proof.Machine
end

