-- ==== Sys2Proof/Laws/Frames1.lean ====
section
/-! SUPPORT. For each operation of the model, in the order of use (part 1 of 6): the components that it may change, by the bits
of `Keeps`. -/

set_option linter.all false

namespace Sys2Proof.Machine

theorem State.emit_keeps (s : State) (o) :
    Keeps 4194304 s (State.emit s o) := by
  unfold State.emit
  repeat' first
    | with_reducible exact Keeps.refl _ _ | with_reducible refine Keeps.ite (fun _ => ?_) (fun _ => ?_) | split
    | with_reducible refine Keeps.setOut ?_ (by decide)

theorem State.message_keeps (s : State) (fn) (vec) :
    Keeps 4194304 s (State.message s fn vec) := by
  unfold State.message
  repeat' first
    | with_reducible exact Keeps.refl _ _ | with_reducible refine Keeps.ite (fun _ => ?_) (fun _ => ?_)
    | with_reducible refine (State.emit_keeps _ _ ).after ?_ (by decide) | split

theorem State.setVector_keeps (s : State) (fn) (vec) (v) :
    Keeps 2048 s (State.setVector s fn vec v) := by
  unfold State.setVector
  repeat' first
    | with_reducible exact Keeps.refl _ _ | with_reducible refine Keeps.ite (fun _ => ?_) (fun _ => ?_)
    | (lift_lets -underBinder; intros) | split | with_reducible refine Keeps.setUci ?_ (by decide)

theorem State.fire_keeps (s : State) (fn) (vec) :
    Keeps 4196352 s (State.fire s fn vec) := by
  unfold State.fire
  repeat' first
    | with_reducible exact Keeps.refl _ _ | with_reducible refine Keeps.ite (fun _ => ?_) (fun _ => ?_)
    | with_reducible refine (State.message_keeps _ _ _ ).after ?_ (by decide)
    | with_reducible refine (State.setVector_keeps _ _ _ _ ).after ?_ (by decide)
    | with_reducible refine (State.emit_keeps _ _ ).after ?_ (by decide) | (lift_lets -underBinder; intros) | split

theorem State.set_keeps (s : State) (f) (v) :
    Keeps 1 s (State.set s f v) := by
  unfold State.set
  repeat' first
    | with_reducible exact Keeps.refl _ _ | with_reducible refine Keeps.ite (fun _ => ?_) (fun _ => ?_) | split
    | refine Keeps.setRegs ?_ (by decide) (by first | exact id | exact mapWf_mapSet _ _ | exact mapWf_filter _ | exact mapWf_mapSetList _ _ | exact mapWf_mapSetMasked _ _ _ | exact mapWf_mapClear _ _ | exact fun _ => rfl)

theorem State.bump_keeps (s : State) (f) (n) :
    Keeps 1 s (State.bump s f n) := by
  unfold State.bump
  repeat' first
    | with_reducible exact Keeps.refl _ _ | with_reducible refine Keeps.ite (fun _ => ?_) (fun _ => ?_)
    | with_reducible refine (State.set_keeps _ _ _ ).after ?_ (by decide) | split

theorem State.dropFrames_keeps (s : State) (p) :
    Keeps 4096 s (State.dropFrames s p) := by
  unfold State.dropFrames
  repeat' first
    | with_reducible exact Keeps.refl _ _ | with_reducible refine Keeps.ite (fun _ => ?_) (fun _ => ?_)
    | (lift_lets -underBinder; intros) | split | with_reducible refine Keeps.setOuter ?_ (by decide)

theorem State.setAll_keeps (s : State) (fs : List (Fld × Nat)) :
    Keeps 1 s (State.setAll s fs) := by
  induction fs generalizing s with
  | nil => exact Keeps.refl _ _
  | cons x fs ih => exact (ih _).after (State.set_keeps _ _ _) (by decide)

theorem State.dropCommit_keeps (s : State) (g) :
    Keeps 5 s (State.dropCommit s g) := by
  unfold State.dropCommit
  repeat' first
    | with_reducible exact Keeps.refl _ _ | with_reducible refine Keeps.ite (fun _ => ?_) (fun _ => ?_)
    | with_reducible refine (State.setAll_keeps _ _ ).after ?_ (by decide) | (lift_lets -underBinder; intros) | split
    | with_reducible refine Keeps.setCfg ?_ (by decide)

theorem State.addTo_keeps (s : State) (f) (n) :
    Keeps 1 s (State.addTo s f n) := by
  unfold State.addTo
  repeat' first
    | with_reducible exact Keeps.refl _ _ | with_reducible refine Keeps.ite (fun _ => ?_) (fun _ => ?_)
    | with_reducible refine (State.set_keeps _ _ _ ).after ?_ (by decide) | split

theorem State.setJob_keeps (s : State) (j) :
    Keeps 4096 s (State.setJob s j) := by
  unfold State.setJob
  repeat' first
    | with_reducible exact Keeps.refl _ _ | with_reducible refine Keeps.ite (fun _ => ?_) (fun _ => ?_)
    | (lift_lets -underBinder; intros) | split | with_reducible refine Keeps.setOuter ?_ (by decide)

theorem State.laceTo_keeps (s : State) (a) (f) :
    Keeps 4198401 s (State.laceTo s a f) := by
  unfold State.laceTo
  repeat' first
    | with_reducible exact Keeps.refl _ _ | with_reducible refine Keeps.ite (fun _ => ?_) (fun _ => ?_)
    | with_reducible refine (State.addTo_keeps _ _ _ ).after ?_ (by decide)
    | with_reducible refine (State.setJob_keeps _ _ ).after ?_ (by decide)
    | with_reducible refine (State.emit_keeps _ _ ).after ?_ (by decide) | (lift_lets -underBinder; intros) | split

theorem State.setEye_keeps (s : State) (e) (v) :
    Keeps 512 s (State.setEye s e v) := by
  unfold State.setEye
  repeat' first
    | with_reducible exact Keeps.refl _ _ | with_reducible refine Keeps.ite (fun _ => ?_) (fun _ => ?_) | split
    | with_reducible refine Keeps.setEyelets ?_ (by decide)

theorem State.eyeVoid_keeps (s : State) (e) :
    Keeps 512 s (State.eyeVoid s e) := by
  unfold State.eyeVoid
  repeat' first
    | with_reducible exact Keeps.refl _ _ | with_reducible refine Keeps.ite (fun _ => ?_) (fun _ => ?_)
    | with_reducible refine (State.setEye_keeps _ _ _ ).after ?_ (by decide) | (lift_lets -underBinder; intros) | split

theorem State.setTile_keeps (s : State) (t) (x) :
    Keeps 64 s (State.setTile s t x) := by
  unfold State.setTile
  repeat' first
    | with_reducible exact Keeps.refl _ _ | with_reducible refine Keeps.ite (fun _ => ?_) (fun _ => ?_)
    | (lift_lets -underBinder; intros) | split
    | refine Keeps.setTileSt ?_ (.inl (by decide)) (.inr rfl) (.inr rfl) (by first | exact id | exact mapWf_mapSet _ _ | exact mapWf_filter _ | exact mapWf_mapSetList _ _ | exact mapWf_mapSetMasked _ _ _ | exact mapWf_mapClear _ _ | exact fun _ => rfl)

theorem State.dropCopy_keeps (s : State) (t) (id) :
    Keeps 64 s (State.dropCopy s t id) := by
  unfold State.dropCopy
  repeat' first
    | with_reducible exact Keeps.refl _ _ | with_reducible refine Keeps.ite (fun _ => ?_) (fun _ => ?_)
    | with_reducible refine (State.setTile_keeps _ _ _ ).after ?_ (by decide) | (lift_lets -underBinder; intros) | split

theorem State.copyError_keeps (s : State) (t) (id) :
    Keeps 576 s (State.copyError s t id) := by
  unfold State.copyError
  repeat' first
    | with_reducible assumption | with_reducible exact Keeps.refl _ _
    | with_reducible refine Keeps.ite (fun _ => ?_) (fun _ => ?_)
    | with_reducible refine (State.eyeVoid_keeps _ _ ).after ?_ (by decide)
    | with_reducible refine (State.dropCopy_keeps _ _ _ ).after ?_ (by decide)
    | (lift_lets -underBinder
       repeat (
        intro x
        first
          | (have hx : Keeps 576 s x := by
              repeat' first
                | with_reducible assumption | with_reducible exact Keeps.refl _ _
                | with_reducible refine Keeps.ite (fun _ => ?_) (fun _ => ?_)
                | with_reducible refine (State.eyeVoid_keeps _ _ ).after ?_ (by decide)
                | with_reducible refine (State.dropCopy_keeps _ _ _ ).after ?_ (by decide) | split)
          | (clear_value x)
          | skip))
    | split

theorem State.setQp_keeps (s : State) (p) (q) (x) :
    Keeps 4096 s (State.setQp s p q x) := by
  unfold State.setQp
  repeat' first
    | with_reducible exact Keeps.refl _ _ | with_reducible refine Keeps.ite (fun _ => ?_) (fun _ => ?_)
    | (lift_lets -underBinder; intros) | split | with_reducible refine Keeps.setOuter ?_ (by decide)

theorem State.event_keeps (s : State) (src) (code) (d0) (d1) (part) :
    Keeps 4212737 s (State.event s src code d0 d1 part) := by
  unfold State.event
  repeat' first
    | with_reducible exact Keeps.refl _ _ | with_reducible refine Keeps.ite (fun _ => ?_) (fun _ => ?_)
    | with_reducible refine (State.fire_keeps _ _ _ ).after ?_ (by decide)
    | with_reducible refine (State.bump_keeps _ _ _ ).after ?_ (by decide)
    | with_reducible refine (State.setAll_keeps _ _ ).after ?_ (by decide) | (lift_lets -underBinder; intros) | split
    | with_reducible refine Keeps.setFlt ?_ (by decide)

theorem State.qpError_keeps (s : State) (p) (q) (code) :
    Keeps 4217409 s (State.qpError s p q code) := by
  unfold State.qpError
  repeat' first
    | with_reducible exact Keeps.refl _ _ | with_reducible refine Keeps.ite (fun _ => ?_) (fun _ => ?_)
    | with_reducible refine (State.laceTo_keeps _ _ _ ).after ?_ (by decide)
    | with_reducible refine (State.copyError_keeps _ _ _ ).after ?_ (by decide)
    | with_reducible refine (State.eyeVoid_keeps _ _ ).after ?_ (by decide)
    | with_reducible refine (State.setQp_keeps _ _ _ _ ).after ?_ (by decide)
    | with_reducible refine (State.event_keeps _ _ _ _ _ _ ).after ?_ (by decide)
    | with_reducible refine Keeps.foldl ?_ (fun u1 _ => ?_) | (lift_lets -underBinder; intros) | split

theorem State.unpinAll_keeps (s : State) (p) :
    Keeps 256 s (State.unpinAll s p) := by
  unfold State.unpinAll
  repeat' first
    | with_reducible exact Keeps.refl _ _ | with_reducible refine Keeps.ite (fun _ => ?_) (fun _ => ?_)
    | (lift_lets -underBinder; intros) | split | with_reducible refine Keeps.setCoh ?_ (by decide)

theorem State.setPartSt_keeps (s : State) (p) (x) :
    Keeps 8192 s (State.setPartSt s p x) := by
  unfold State.setPartSt
  repeat' first
    | with_reducible exact Keeps.refl _ _ | with_reducible refine Keeps.ite (fun _ => ?_) (fun _ => ?_)
    | (lift_lets -underBinder; intros) | split | with_reducible refine Keeps.setPart ?_ (by decide)

theorem State.setPhase_keeps (s : State) (p) (phase) :
    Keeps 1 s (State.setPhase s p phase) := by
  unfold State.setPhase
  repeat' first
    | with_reducible exact Keeps.refl _ _ | with_reducible refine Keeps.ite (fun _ => ?_) (fun _ => ?_)
    | with_reducible refine (State.setAll_keeps _ _ ).after ?_ (by decide) | split

theorem State.setTileCode_keeps (s : State) (t) (c) :
    Keeps 1 s (State.setTileCode s t c) := by
  unfold State.setTileCode
  repeat' first
    | with_reducible exact Keeps.refl _ _ | with_reducible refine Keeps.ite (fun _ => ?_) (fun _ => ?_)
    | with_reducible refine (State.set_keeps _ _ _ ).after ?_ (by decide) | split

theorem State.haltTile_keeps (s : State) (t) :
    Keeps 321 s (State.haltTile s t) := by
  unfold State.haltTile
  repeat' first
    | with_reducible exact Keeps.refl _ _ | with_reducible refine Keeps.ite (fun _ => ?_) (fun _ => ?_)
    | with_reducible refine (State.setTileCode_keeps _ _ _ ).after ?_ (by decide)
    | with_reducible refine (State.setTile_keeps _ _ _ ).after ?_ (by decide) | (lift_lets -underBinder; intros) | split
    | with_reducible refine Keeps.setCoh ?_ (by decide)

theorem State.stopTask_keeps (s : State) (k) :
    Keeps 833 s (State.stopTask s k) := by
  unfold State.stopTask
  repeat' first
    | with_reducible exact Keeps.refl _ _ | with_reducible refine Keeps.ite (fun _ => ?_) (fun _ => ?_)
    | with_reducible refine (State.haltTile_keeps _ _ ).after ?_ (by decide)
    | with_reducible refine (State.eyeVoid_keeps _ _ ).after ?_ (by decide)
    | with_reducible refine Keeps.foldl ?_ (fun u1 _ => ?_) | (lift_lets -underBinder; intros) | split
    | refine Keeps.setTileSt ?_ (.inl (by decide)) (.inr rfl) (.inr rfl) (by first | exact id | exact mapWf_mapSet _ _ | exact mapWf_filter _ | exact mapWf_mapSetList _ _ | exact mapWf_mapSetMasked _ _ _ | exact mapWf_mapClear _ _ | exact fun _ => rfl)

theorem State.laceDown_keeps (s : State) (f) :
    Keeps 4198401 s (State.laceDown s f) := by
  unfold State.laceDown
  repeat' first
    | with_reducible exact Keeps.refl _ _ | with_reducible refine Keeps.ite (fun _ => ?_) (fun _ => ?_)
    | with_reducible refine (State.laceTo_keeps _ _ _ ).after ?_ (by decide)
    | with_reducible refine Keeps.foldl ?_ (fun u1 _ => ?_) | split

theorem State.laceUp_keeps (s : State) (f) :
    Keeps 4198401 s (State.laceUp s f) := by
  unfold State.laceUp
  repeat' first
    | with_reducible exact Keeps.refl _ _ | with_reducible refine Keeps.ite (fun _ => ?_) (fun _ => ?_)
    | with_reducible refine (State.laceTo_keeps _ _ _ ).after ?_ (by decide) | split

theorem State.sendDown_keeps (s : State) :
    Keeps 4198401 s (State.sendDown s) := by
  unfold State.sendDown
  repeat' first
    | with_reducible exact Keeps.refl _ _ | with_reducible refine Keeps.ite (fun _ => ?_) (fun _ => ?_)
    | with_reducible refine (State.laceDown_keeps _ _ ).after ?_ (by decide)
    | with_reducible refine (State.laceTo_keeps _ _ _ ).after ?_ (by decide)
    | with_reducible refine (State.laceUp_keeps _ _ ).after ?_ (by decide)
    | with_reducible refine Keeps.foldl ?_ (fun u1 _ => ?_) | (lift_lets -underBinder; intros) | split

theorem State.teardown_keeps (s : State) (p) (cause) :
    Keeps 4225861 s (State.teardown s p cause) := by
  unfold State.teardown
  repeat' first
    | with_reducible exact Keeps.refl _ _ | with_reducible refine Keeps.ite (fun _ => ?_) (fun _ => ?_)
    | with_reducible refine (State.dropFrames_keeps _ _ ).after ?_ (by decide)
    | with_reducible refine (State.dropCommit_keeps _ _ ).after ?_ (by decide)
    | with_reducible refine (State.qpError_keeps _ _ _ _ ).after ?_ (by decide)
    | with_reducible refine (State.unpinAll_keeps _ _ ).after ?_ (by decide)
    | with_reducible refine (State.setPartSt_keeps _ _ _ ).after ?_ (by decide)
    | with_reducible refine (State.set_keeps _ _ _ ).after ?_ (by decide)
    | with_reducible refine (State.setJob_keeps _ _ ).after ?_ (by decide)
    | with_reducible refine (State.setPhase_keeps _ _ _ ).after ?_ (by decide)
    | with_reducible refine (State.stopTask_keeps _ _ ).after ?_ (by decide)
    | with_reducible refine (State.sendDown_keeps _ ).after ?_ (by decide)
    | with_reducible refine (State.setAll_keeps _ _ ).after ?_ (by decide)
    | with_reducible refine (State.event_keeps _ _ _ _ _ _ ).after ?_ (by decide)
    | with_reducible refine Keeps.foldl ?_ (fun u1 _ => ?_) | (lift_lets -underBinder; intros) | split

theorem State.recordFault_keeps (s : State) (f) :
    Keeps 4196353 s (State.recordFault s f) := by
  unfold State.recordFault
  repeat' first
    | with_reducible exact Keeps.refl _ _ | with_reducible refine Keeps.ite (fun _ => ?_) (fun _ => ?_)
    | with_reducible refine (State.fire_keeps _ _ _ ).after ?_ (by decide)
    | with_reducible refine (State.bump_keeps _ _ _ ).after ?_ (by decide)
    | with_reducible refine (State.setAll_keeps _ _ ).after ?_ (by decide) | (lift_lets -underBinder; intros) | split

theorem State.partitionFault_keeps (s : State) (p) (f) :
    Keeps 4225861 s (State.partitionFault s p f) := by
  unfold State.partitionFault
  repeat' first
    | with_reducible exact Keeps.refl _ _ | with_reducible refine Keeps.ite (fun _ => ?_) (fun _ => ?_)
    | with_reducible refine (State.teardown_keeps _ _ _ ).after ?_ (by decide)
    | with_reducible refine (State.recordFault_keeps _ _ ).after ?_ (by decide) | (lift_lets -underBinder; intros) | split

theorem State.faultOwner_keeps (s : State) (owner) (f) :
    Keeps 4225861 s (State.faultOwner s owner f) := by
  unfold State.faultOwner
  repeat' first
    | with_reducible exact Keeps.refl _ _ | with_reducible refine Keeps.ite (fun _ => ?_) (fun _ => ?_)
    | with_reducible refine (State.partitionFault_keeps _ _ _ ).after ?_ (by decide) | split

theorem State.lostLine_keeps (s : State) (e) :
    Keeps 4225861 s (State.lostLine s e) := by
  unfold State.lostLine
  repeat' first
    | with_reducible exact Keeps.refl _ _ | with_reducible refine Keeps.ite (fun _ => ?_) (fun _ => ?_)
    | with_reducible refine (State.fire_keeps _ _ _ ).after ?_ (by decide)
    | with_reducible refine (State.bump_keeps _ _ _ ).after ?_ (by decide)
    | with_reducible refine (State.faultOwner_keeps _ _ _ ).after ?_ (by decide)
    | with_reducible refine (State.setAll_keeps _ _ ).after ?_ (by decide) | (lift_lets -underBinder; intros) | split

theorem State.pmRefuse_keeps (s : State) (p) (e) :
    Keeps 1 s (State.pmRefuse s p e) := by
  unfold State.pmRefuse
  repeat' first
    | with_reducible exact Keeps.refl _ _ | with_reducible refine Keeps.ite (fun _ => ?_) (fun _ => ?_)
    | with_reducible refine (State.set_keeps _ _ _ ).after ?_ (by decide) | split

theorem State.clearEye_keeps (s : State) (d) :
    Keeps 1 s (State.clearEye s d) := by
  unfold State.clearEye
  repeat' first
    | with_reducible exact Keeps.refl _ _ | with_reducible refine Keeps.ite (fun _ => ?_) (fun _ => ?_)
    | with_reducible refine (State.setAll_keeps _ _ ).after ?_ (by decide) | split

theorem State.setDir_keeps (s : State) (es) :
    Keeps 256 s (State.setDir s es) := by
  unfold State.setDir
  repeat' first
    | with_reducible exact Keeps.refl _ _ | with_reducible refine Keeps.ite (fun _ => ?_) (fun _ => ?_)
    | (lift_lets -underBinder; intros) | split | with_reducible refine Keeps.setCoh ?_ (by decide)

theorem State.putEnt_keeps (s : State) (e) :
    Keeps 256 s (State.putEnt s e) := by
  unfold State.putEnt
  repeat' first
    | with_reducible exact Keeps.refl _ _ | with_reducible refine Keeps.ite (fun _ => ?_) (fun _ => ?_)
    | with_reducible refine (State.setDir_keeps _ _ ).after ?_ (by decide) | split

theorem State.freeEnt_keeps (s : State) (line) :
    Keeps 256 s (State.freeEnt s line) := by
  unfold State.freeEnt
  repeat' first
    | with_reducible exact Keeps.refl _ _ | with_reducible refine Keeps.ite (fun _ => ?_) (fun _ => ?_)
    | with_reducible refine (State.setDir_keeps _ _ ).after ?_ (by decide) | split

theorem State.settle_keeps (s : State) (e) (st) (presence) :
    Keeps 256 s (State.settle s e st presence) := by
  unfold State.settle
  repeat' first
    | with_reducible exact Keeps.refl _ _ | with_reducible refine Keeps.ite (fun _ => ?_) (fun _ => ?_)
    | with_reducible refine (State.putEnt_keeps _ _ ).after ?_ (by decide)
    | with_reducible refine (State.freeEnt_keeps _ _ ).after ?_ (by decide) | split

theorem State.setL3_keeps (s : State) (ls) :
    Keeps 256 s (State.setL3 s ls) := by
  unfold State.setL3
  repeat' first
    | with_reducible exact Keeps.refl _ _ | with_reducible refine Keeps.ite (fun _ => ?_) (fun _ => ?_)
    | (lift_lets -underBinder; intros) | split | with_reducible refine Keeps.setCoh ?_ (by decide)

theorem State.putL3_keeps (s : State) (l) :
    Keeps 256 s (State.putL3 s l) := by
  unfold State.putL3
  repeat' first
    | with_reducible exact Keeps.refl _ _ | with_reducible refine Keeps.ite (fun _ => ?_) (fun _ => ?_)
    | with_reducible refine (State.setL3_keeps _ _ ).after ?_ (by decide) | split

theorem State.setTrackers_keeps (s : State) (ks) :
    Keeps 256 s (State.setTrackers s ks) := by
  unfold State.setTrackers
  repeat' first
    | with_reducible exact Keeps.refl _ _ | with_reducible refine Keeps.ite (fun _ => ?_) (fun _ => ?_)
    | (lift_lets -underBinder; intros) | split | with_reducible refine Keeps.setCoh ?_ (by decide)

theorem State.track_keeps (s : State) (line) (bulk) (w) :
    Keeps 257 s (State.track s line bulk w) := by
  unfold State.track
  repeat' first
    | with_reducible exact Keeps.refl _ _ | with_reducible refine Keeps.ite (fun _ => ?_) (fun _ => ?_)
    | with_reducible refine (State.setTrackers_keeps _ _ ).after ?_ (by decide)
    | with_reducible refine (State.addTo_keeps _ _ _ ).after ?_ (by decide) | (lift_lets -underBinder; intros) | split

theorem State.send_keeps (s : State) (m) :
    Keeps 256 s (State.send s m) := by
  unfold State.send
  repeat' first
    | with_reducible exact Keeps.refl _ _ | with_reducible refine Keeps.ite (fun _ => ?_) (fun _ => ?_)
    | (lift_lets -underBinder; intros) | split | with_reducible refine Keeps.setCoh ?_ (by decide)

theorem State.respond_keeps (s : State) (m) (opcode) (data) (state) :
    Keeps 256 s (State.respond s m opcode data state) := by
  unfold State.respond
  repeat' first
    | with_reducible exact Keeps.refl _ _ | with_reducible refine Keeps.ite (fun _ => ?_) (fun _ => ?_)
    | with_reducible refine (State.send_keeps _ _ ).after ?_ (by decide) | split

theorem State.deliverLine_keeps (s : State) (m) (grant) (merged) (line) :
    Keeps 256 s (State.deliverLine s m grant merged line) := by
  unfold State.deliverLine
  repeat' first
    | with_reducible exact Keeps.refl _ _ | with_reducible refine Keeps.ite (fun _ => ?_) (fun _ => ?_)
    | with_reducible refine (State.respond_keeps _ _ _ _ _ ).after ?_ (by decide) | (lift_lets -underBinder; intros) | split

theorem State.memoryFault_keeps (s : State) (p) (a) :
    Keeps 4225861 s (State.memoryFault s p a) := by
  unfold State.memoryFault
  repeat' first
    | with_reducible exact Keeps.refl _ _ | with_reducible refine Keeps.ite (fun _ => ?_) (fun _ => ?_)
    | with_reducible refine (State.faultOwner_keeps _ _ _ ).after ?_ (by decide) | split

theorem State.addCandidate_keeps (s : State) (a) :
    Keeps 4213761 s (State.addCandidate s a) := by
  unfold State.addCandidate
  repeat' first
    | with_reducible exact Keeps.refl _ _ | with_reducible refine Keeps.ite (fun _ => ?_) (fun _ => ?_)
    | with_reducible refine (State.event_keeps _ _ _ _ _ _ ).after ?_ (by decide) | (lift_lets -underBinder; intros) | split
    | refine Keeps.setDramSt ?_ (.inl (by decide)) (.inr rfl) (by first | exact id | exact mapWf_mapSet _ _ | exact mapWf_filter _ | exact mapWf_mapSetList _ _ | exact mapWf_mapSetMasked _ _ _ | exact mapWf_mapClear _ _ | exact fun _ => rfl)

theorem State.logUe_keeps (s : State) (unit) (detector) :
    Keeps 4213761 s (State.logUe s unit detector) := by
  unfold State.logUe
  repeat' first
    | with_reducible exact Keeps.refl _ _ | with_reducible refine Keeps.ite (fun _ => ?_) (fun _ => ?_)
    | with_reducible refine (State.addTo_keeps _ _ _ ).after ?_ (by decide)
    | with_reducible refine (State.addCandidate_keeps _ _ ).after ?_ (by decide)
    | with_reducible refine (State.setAll_keeps _ _ ).after ?_ (by decide)
    | with_reducible refine (State.event_keeps _ _ _ _ _ _ ).after ?_ (by decide) | (lift_lets -underBinder; intros) | split
    | refine Keeps.setDramSt ?_ (.inl (by decide)) (.inr rfl) (by first | exact id | exact mapWf_mapSet _ _ | exact mapWf_filter _ | exact mapWf_mapSetList _ _ | exact mapWf_mapSetMasked _ _ _ | exact mapWf_mapClear _ _ | exact fun _ => rfl)

theorem State.draw_keeps (s : State) :
    Keeps 16777216 s (State.draw s).2 := by
  unfold State.draw
  repeat' first
    | with_reducible exact Keeps.refl _ _ | with_reducible refine Keeps.ite (fun _ => ?_) (fun _ => ?_) | split
    | with_reducible refine Keeps.setFree ?_ (by decide)

theorem State.applyFound_keeps (s : State) (f : EccFound) : Keeps 88099841 s (State.applyFound s f) := by
  unfold State.applyFound
  extract_lets -underBinder a d src s1 s2 corrected uncorrectable
  have h1 : Keeps 88099841 s s1 := Keeps.setDramSt (Keeps.refl _ _) (.inl (by decide)) (.inr rfl) id
  have h2 : Keeps 88099841 s s2 := Keeps.ite (fun _ => (State.addTo_keeps _ _ _).after h1 (by decide)) fun _ => h1
  have hc (u : State) (hu : Keeps 88099841 s u) : Keeps 88099841 s (corrected u) := by
    show Keeps _ _ (ite _ _ _)
    have g1 : Keeps 88099841 s { u with dram := { u.dram with
        ce := mapSet 0 u.dram.ce (rowKey a) (mapGet 0 u.dram.ce (rowKey a) + 1) } } :=
      Keeps.setDramSt hu (.inl (by decide)) (.inr rfl) id
    have g := (State.addTo_keeps _ (fDramChCe_count d (channelOf a)) 1).after
      ((State.addTo_keeps _ (fDramCntCe_count d) 1).after g1 (by decide)) (by decide)
    exact Keeps.ite (fun _ => (State.addCandidate_keeps _ _).after g (by decide)) fun _ => g
  have hn (u : State) (hu : Keeps 88099841 s u) : Keeps 88099841 s (uncorrectable u) :=
    Keeps.ite (fun _ => hu) fun _ => Keeps.setDramSt hu (.inl (by decide)) (.inr rfl) id
  have hd : Keeps 88099841 s s2.draw.2 := (State.draw_keeps _).after h2 (by decide)
  clear_value s2 corrected uncorrectable
  refine Keeps.ite (fun _ => h2) fun _ => Keeps.ite (fun _ => hc _ h2) fun _ => Keeps.ite (fun _ => hn _ ?_) fun _ => ?_
  · exact Keeps.ite (fun _ => h2) fun _ => hd
  · refine hc _ ?_
    exact Keeps.setDramSt ((State.draw_keeps _).after hd (by decide)) (.inr rfl) (.inl (by decide)) (mapWf_mapSetList _ _)

theorem State.checkUnits_keeps (s : State) (f) :
    Keeps 88099841 s (State.checkUnits s f) := by
  unfold State.checkUnits
  repeat' first
    | with_reducible exact Keeps.refl _ _ | with_reducible refine Keeps.ite (fun _ => ?_) (fun _ => ?_)
    | with_reducible refine (State.applyFound_keeps _ _ ).after ?_ (by decide)
    | with_reducible refine Keeps.foldl ?_ (fun u1 _ => ?_) | split

theorem State.dramUnitWrite_keeps (s : State) (a) (mask) (bs) :
    Keeps 88112965 s (State.dramUnitWrite s a mask bs) := by
  unfold State.dramUnitWrite
  repeat' first
    | with_reducible exact Keeps.refl _ _ | with_reducible refine Keeps.ite (fun _ => ?_) (fun _ => ?_)
    | with_reducible refine (State.memoryFault_keeps _ _ _ ).after ?_ (by decide)
    | with_reducible refine (State.logUe_keeps _ _ _ ).after ?_ (by decide)
    | with_reducible refine (State.checkUnits_keeps _ _ ).after ?_ (by decide) | (lift_lets -underBinder; intros) | split
    | refine Keeps.setDramSt ?_ (.inl (by decide)) (.inl (by decide)) (by first | exact id | exact mapWf_mapSet _ _ | exact mapWf_filter _ | exact mapWf_mapSetList _ _ | exact mapWf_mapSetMasked _ _ _ | exact mapWf_mapClear _ _ | exact fun _ => rfl)
    | refine Keeps.setDramSt ?_ (.inr rfl) (.inl (by decide)) (by first | exact id | exact mapWf_mapSet _ _ | exact mapWf_filter _ | exact mapWf_mapSetList _ _ | exact mapWf_mapSetMasked _ _ _ | exact mapWf_mapClear _ _ | exact fun _ => rfl)

theorem State.dramWrite_keeps (s : State) (a) (mask) (bs) :
    Keeps 88112965 s (State.dramWrite s a mask bs) := by
  unfold State.dramWrite
  repeat' first
    | with_reducible exact Keeps.refl _ _ | with_reducible refine Keeps.ite (fun _ => ?_) (fun _ => ?_)
    | with_reducible refine (State.dramUnitWrite_keeps _ _ _ _ ).after ?_ (by decide)
    | with_reducible refine Keeps.foldl ?_ (fun u1 _ => ?_) | split

theorem State.dramPut_keeps (s : State) (a) (mask) (bs) :
    Keeps 88112965 s (State.dramPut s a mask bs) := by
  unfold State.dramPut
  repeat' first
    | with_reducible exact Keeps.refl _ _ | with_reducible refine Keeps.ite (fun _ => ?_) (fun _ => ?_)
    | with_reducible refine (State.dramWrite_keeps _ _ _ _ ).after ?_ (by decide) | (lift_lets -underBinder; intros) | split
    | with_reducible refine Keeps.setCoh ?_ (by decide)

theorem State.evictL3_keeps (s : State) (l) :
    Keeps 88112965 s (State.evictL3 s l) := by
  unfold State.evictL3
  repeat' first
    | with_reducible exact Keeps.refl _ _ | with_reducible refine Keeps.ite (fun _ => ?_) (fun _ => ?_)
    | with_reducible refine (State.dramPut_keeps _ _ _ _ ).after ?_ (by decide)
    | with_reducible refine (State.addTo_keeps _ _ _ ).after ?_ (by decide)
    | with_reducible refine (State.setL3_keeps _ _ ).after ?_ (by decide) | (lift_lets -underBinder; intros) | split

theorem State.placeL3_keeps (s : State) (l : L3Line) (t_ : State) (h_ : State.placeL3 s l = some t_) :
    Keeps 88112965 s t_ := by
  unfold State.placeL3 at h_
  extract_lets -underBinder others fl xs join at h_
  clear_value join
  split at h_
  · cases h_; exact (State.putL3_keeps _ _).mono (by decide)
  · obtain ⟨w, -, hw⟩ := Option.map_eq_some_iff.1 h_
    subst hw
    exact (State.putL3_keeps _ _).after
      (Keeps.foldl (Keeps.refl _ _) fun u x => (State.evictL3_keeps _ _).mono (by decide)) (by decide)

theorem State.missLine_keeps (s : State) (line) (bulk) (w) :
    Keeps 88112965 s (State.missLine s line bulk w) := by
  unfold State.missLine
  repeat' first
    | with_reducible exact Keeps.refl _ _ | with_reducible refine Keeps.ite (fun _ => ?_) (fun _ => ?_)
    | with_reducible refine (State.addTo_keeps _ _ _ ).after ?_ (by decide)
    | with_reducible refine (State.track_keeps _ _ _ _ ).after ?_ (by decide)
    | with_reducible refine (State.placeL3_keeps _ _ _ (by assumption)).after ?_ (by decide) | split

theorem State.readLine_keeps (s : State) (m) (grant) :
    Keeps 88112965 s (State.readLine s m grant) := by
  unfold State.readLine
  repeat' first
    | with_reducible exact Keeps.refl _ _ | with_reducible refine Keeps.ite (fun _ => ?_) (fun _ => ?_)
    | with_reducible refine (State.addTo_keeps _ _ _ ).after ?_ (by decide)
    | with_reducible refine (State.putL3_keeps _ _ ).after ?_ (by decide)
    | with_reducible refine (State.track_keeps _ _ _ _ ).after ?_ (by decide)
    | with_reducible refine (State.deliverLine_keeps _ _ _ _ _ ).after ?_ (by decide)
    | with_reducible refine (State.missLine_keeps _ _ _ _ ).after ?_ (by decide) | (lift_lets -underBinder; intros) | split

theorem State.atRsp_keeps (s : State) (m) (old) :
    Keeps 256 s (State.atRsp s m old) := by
  unfold State.atRsp
  repeat' first
    | with_reducible exact Keeps.refl _ _ | with_reducible refine Keeps.ite (fun _ => ?_) (fun _ => ?_)
    | with_reducible refine (State.respond_keeps _ _ _ _ _ ).after ?_ (by decide) | split

theorem State.updateL3_keeps (s : State) (l) :
    Keeps 88112965 s (State.updateL3 s l) := by
  unfold State.updateL3
  repeat' first
    | with_reducible exact Keeps.refl _ _ | with_reducible refine Keeps.ite (fun _ => ?_) (fun _ => ?_)
    | with_reducible refine (State.evictL3_keeps _ _ ).after ?_ (by decide)
    | with_reducible refine (State.setL3_keeps _ _ ).after ?_ (by decide)
    | with_reducible refine (State.putL3_keeps _ _ ).after ?_ (by decide)
    | with_reducible refine (State.placeL3_keeps _ _ _ (by assumption)).after ?_ (by decide)
    | (lift_lets -underBinder; intros) | split

theorem State.applyAtLine_keeps (s : State) (m) (l) :
    Keeps 88112965 s (State.applyAtLine s m l) := by
  unfold State.applyAtLine
  repeat' first
    | with_reducible exact Keeps.refl _ _ | with_reducible refine Keeps.ite (fun _ => ?_) (fun _ => ?_)
    | with_reducible refine (State.atRsp_keeps _ _ _ ).after ?_ (by decide)
    | with_reducible refine (State.updateL3_keeps _ _ ).after ?_ (by decide) | (lift_lets -underBinder; intros) | split

theorem State.flushL3_keeps (s : State) (l) :
    Keeps 88112965 s (State.flushL3 s l) := by
  unfold State.flushL3
  repeat' first
    | with_reducible exact Keeps.refl _ _ | with_reducible refine Keeps.ite (fun _ => ?_) (fun _ => ?_)
    | with_reducible refine (State.dramPut_keeps _ _ _ _ ).after ?_ (by decide)
    | with_reducible refine (State.setL3_keeps _ _ ).after ?_ (by decide)
    | with_reducible refine (State.putL3_keeps _ _ ).after ?_ (by decide) | (lift_lets -underBinder; intros) | split

theorem State.setAluQ_keeps (s : State) (q) :
    Keeps 256 s (State.setAluQ s q) := by
  unfold State.setAluQ
  repeat' first
    | with_reducible exact Keeps.refl _ _ | with_reducible refine Keeps.ite (fun _ => ?_) (fun _ => ?_)
    | (lift_lets -underBinder; intros) | split | with_reducible refine Keeps.setCoh ?_ (by decide)

theorem State.forwardAt_keeps (s : State) (m) :
    Keeps 88112965 s (State.forwardAt s m) := by
  unfold State.forwardAt
  repeat' first
    | with_reducible exact Keeps.refl _ _ | with_reducible refine Keeps.ite (fun _ => ?_) (fun _ => ?_)
    | with_reducible refine (State.flushL3_keeps _ _ ).after ?_ (by decide)
    | with_reducible refine (State.addTo_keeps _ _ _ ).after ?_ (by decide)
    | with_reducible refine (State.setAluQ_keeps _ _ ).after ?_ (by decide) | (lift_lets -underBinder; intros) | split

theorem State.holdL3_keeps (s : State) (l : L3Line) (t_ : State) (h_ : State.holdL3 s l = some t_) :
    Keeps 88112965 s t_ := by
  unfold State.holdL3 at h_
  split at h_
  · cases h_; exact (State.putL3_keeps _ _).mono (by decide)
  · exact (State.placeL3_keeps _ _ _ h_).after ((State.setL3_keeps _ _).mono (by decide)) (by decide)

theorem State.takeAtR_keeps (s : State) (m) :
    Keeps 88112965 s (State.takeAtR s m).1 := by
  unfold State.takeAtR
  repeat' first
    | with_reducible exact Keeps.refl _ _ | with_reducible refine Keeps.ite (fun _ => ?_) (fun _ => ?_)
    | with_reducible refine (State.applyAtLine_keeps _ _ _ ).after ?_ (by decide)
    | with_reducible refine (State.forwardAt_keeps _ _ ).after ?_ (by decide)
    | with_reducible refine (State.addTo_keeps _ _ _ ).after ?_ (by decide)
    | with_reducible refine (State.track_keeps _ _ _ _ ).after ?_ (by decide)
    | with_reducible refine (State.placeL3_keeps _ _ _ (by assumption)).after ?_ (by decide)
    | with_reducible refine (State.holdL3_keeps _ _ _ (by assumption)).after ?_ (by decide)
    | (lift_lets -underBinder; intros) | split

theorem State.cmpOnly_keeps (s : State) (m) (grant) :
    Keeps 256 s (State.cmpOnly s m grant) := by
  unfold State.cmpOnly
  repeat' first
    | with_reducible exact Keeps.refl _ _ | with_reducible refine Keeps.ite (fun _ => ?_) (fun _ => ?_)
    | with_reducible refine (State.respond_keeps _ _ _ _ _ ).after ?_ (by decide) | split

theorem State.countAccess_keeps (s : State) (line) :
    Keeps 1 s (State.countAccess s line) := by
  unfold State.countAccess
  repeat' first
    | with_reducible exact Keeps.refl _ _ | with_reducible refine Keeps.ite (fun _ => ?_) (fun _ => ?_)
    | with_reducible refine (State.addTo_keeps _ _ _ ).after ?_ (by decide) | (lift_lets -underBinder; intros) | split

theorem State.sliceWrite_keeps (s : State) (line) (bulk) (mask) (bs) :
    Keeps 88112965 s (State.sliceWrite s line bulk mask bs) := by
  unfold State.sliceWrite
  repeat' first
    | with_reducible exact Keeps.refl _ _ | with_reducible refine Keeps.ite (fun _ => ?_) (fun _ => ?_)
    | with_reducible refine (State.dramPut_keeps _ _ _ _ ).after ?_ (by decide)
    | with_reducible refine (State.addTo_keeps _ _ _ ).after ?_ (by decide)
    | with_reducible refine (State.updateL3_keeps _ _ ).after ?_ (by decide)
    | with_reducible refine (State.placeL3_keeps _ _ _ (by assumption)).after ?_ (by decide)
    | (lift_lets -underBinder; intros) | split

theorem State.applyWbm_keeps (s : State) (m) :
    Keeps 88112965 s (State.applyWbm s m) := by
  unfold State.applyWbm
  repeat' first
    | with_reducible exact Keeps.refl _ _ | with_reducible refine Keeps.ite (fun _ => ?_) (fun _ => ?_)
    | with_reducible refine (State.sliceWrite_keeps _ _ _ _ _ ).after ?_ (by decide) | split

theorem State.takeWbm_keeps (s : State) (m) :
    Keeps 88112965 s (State.takeWbm s m) := by
  unfold State.takeWbm
  repeat' first
    | with_reducible exact Keeps.refl _ _ | with_reducible refine Keeps.ite (fun _ => ?_) (fun _ => ?_)
    | with_reducible refine (State.countAccess_keeps _ _ ).after ?_ (by decide)
    | with_reducible refine (State.respond_keeps _ _ _ _ _ ).after ?_ (by decide)
    | with_reducible refine (State.track_keeps _ _ _ _ ).after ?_ (by decide)
    | with_reducible refine (State.applyWbm_keeps _ _ ).after ?_ (by decide) | (lift_lets -underBinder; intros) | split

theorem State.completeEnt_keeps (s : State) (e) :
    Keeps 88112965 s (State.completeEnt s e) := by
  unfold State.completeEnt
  repeat' first
    | with_reducible exact Keeps.refl _ _ | with_reducible refine Keeps.ite (fun _ => ?_) (fun _ => ?_)
    | with_reducible refine (State.addTo_keeps _ _ _ ).after ?_ (by decide)
    | with_reducible refine (State.settle_keeps _ _ _ _ ).after ?_ (by decide)
    | with_reducible refine (State.readLine_keeps _ _ _ ).after ?_ (by decide)
    | with_reducible refine (State.takeAtR_keeps _ _ ).after ?_ (by decide)
    | with_reducible refine (State.cmpOnly_keeps _ _ _ ).after ?_ (by decide)
    | with_reducible refine (State.takeWbm_keeps _ _ ).after ?_ (by decide)
    | with_reducible refine (State.freeEnt_keeps _ _ ).after ?_ (by decide)
    | with_reducible refine Keeps.snd (by assumption) ?_ | (lift_lets -underBinder; intros) | split

theorem State.checkOwed_keeps (s : State) (e) :
    Keeps 88112965 s (State.checkOwed s e) := by
  unfold State.checkOwed
  repeat' first
    | with_reducible exact Keeps.refl _ _ | with_reducible refine Keeps.ite (fun _ => ?_) (fun _ => ?_)
    | with_reducible refine (State.completeEnt_keeps _ _ ).after ?_ (by decide)
    | with_reducible refine (State.putEnt_keeps _ _ ).after ?_ (by decide) | split

theorem State.setHomeWait_keeps (s : State) (ms) :
    Keeps 256 s (State.setHomeWait s ms) := by
  unfold State.setHomeWait
  repeat' first
    | with_reducible exact Keeps.refl _ _ | with_reducible refine Keeps.ite (fun _ => ?_) (fun _ => ?_)
    | (lift_lets -underBinder; intros) | split | with_reducible refine Keeps.setCoh ?_ (by decide)

theorem State.sendInv_keeps (s : State) (line) (bulk) (n) :
    Keeps 257 s (State.sendInv s line bulk n) := by
  unfold State.sendInv
  repeat' first
    | with_reducible exact Keeps.refl _ _ | with_reducible refine Keeps.ite (fun _ => ?_) (fun _ => ?_)
    | with_reducible refine (State.addTo_keeps _ _ _ ).after ?_ (by decide)
    | with_reducible refine (State.send_keeps _ _ ).after ?_ (by decide) | (lift_lets -underBinder; intros) | split

theorem State.sendBack_keeps (s : State) (down) (line) (bulk) (block) :
    Keeps 257 s (State.sendBack s down line bulk block) := by
  unfold State.sendBack
  repeat' first
    | with_reducible exact Keeps.refl _ _ | with_reducible refine Keeps.ite (fun _ => ?_) (fun _ => ?_)
    | with_reducible refine (State.addTo_keeps _ _ _ ).after ?_ (by decide)
    | with_reducible refine (State.send_keeps _ _ ).after ?_ (by decide) | (lift_lets -underBinder; intros) | split

theorem State.collect_keeps (s : State) (e) (halves) (host) (down) (p) (req) (upgClear) :
    Keeps 257 s (State.collect s e halves host down p req upgClear) := by
  unfold State.collect
  repeat' first
    | with_reducible exact Keeps.refl _ _ | with_reducible refine Keeps.ite (fun _ => ?_) (fun _ => ?_)
    | with_reducible refine (State.putEnt_keeps _ _ ).after ?_ (by decide)
    | with_reducible refine (State.sendInv_keeps _ _ _ _ ).after ?_ (by decide)
    | with_reducible refine (State.sendBack_keeps _ _ _ _ _ ).after ?_ (by decide)
    | with_reducible refine Keeps.foldl ?_ (fun u1 _ => ?_) | (lift_lets -underBinder; intros) | split

theorem State.collectOr_keeps (s : State) (e) (halves) (host) (down) (p) (req) (upgClear) :
    Keeps 88112965 s (State.collectOr s e halves host down p req upgClear) := by
  unfold State.collectOr
  repeat' first
    | with_reducible exact Keeps.refl _ _ | with_reducible refine Keeps.ite (fun _ => ?_) (fun _ => ?_)
    | with_reducible refine (State.completeEnt_keeps _ _ ).after ?_ (by decide)
    | with_reducible refine (State.collect_keeps _ _ _ _ _ _ _ _ ).after ?_ (by decide) | split

theorem State.roomFor_keeps (s : State) (line) (bulk) :
    Keeps 88112965 s (State.roomFor s line bulk).2 := by
  unfold State.roomFor
  repeat' first
    | with_reducible exact Keeps.refl _ _ | with_reducible refine Keeps.ite (fun _ => ?_) (fun _ => ?_)
    | with_reducible refine (State.collectOr_keeps _ _ _ _ _ _ _ _ ).after ?_ (by decide) | (lift_lets -underBinder; intros)
    | split

theorem State.newEnt_keeps (s : State) (line) (bulk) (st) (presence) :
    Keeps 256 s (State.newEnt s line bulk st presence) := by
  unfold State.newEnt
  repeat' first
    | with_reducible exact Keeps.refl _ _ | with_reducible refine Keeps.ite (fun _ => ?_) (fun _ => ?_)
    | with_reducible refine (State.putEnt_keeps _ _ ).after ?_ (by decide) | (lift_lets -underBinder; intros) | split

theorem State.forward_keeps (s : State) (e) (m) :
    Keeps 257 s (State.forward s e m) := by
  unfold State.forward
  repeat' first
    | with_reducible exact Keeps.refl _ _ | with_reducible refine Keeps.ite (fun _ => ?_) (fun _ => ?_)
    | with_reducible refine (State.addTo_keeps _ _ _ ).after ?_ (by decide)
    | with_reducible refine (State.putEnt_keeps _ _ ).after ?_ (by decide)
    | with_reducible refine (State.send_keeps _ _ ).after ?_ (by decide)
    | with_reducible refine Keeps.foldl ?_ (fun u1 _ => ?_) | (lift_lets -underBinder; intros) | split

theorem State.actOn_keeps (s : State) (m) (a2) :
    Keeps 88112965 s (State.actOn s m a2) := by
  unfold State.actOn
  repeat' first
    | with_reducible exact Keeps.refl _ _ | with_reducible refine Keeps.ite (fun _ => ?_) (fun _ => ?_)
    | with_reducible refine (State.newEnt_keeps _ _ _ _ _ ).after ?_ (by decide)
    | with_reducible refine (State.putEnt_keeps _ _ ).after ?_ (by decide)
    | with_reducible refine (State.settle_keeps _ _ _ _ ).after ?_ (by decide)
    | with_reducible refine (State.readLine_keeps _ _ _ ).after ?_ (by decide)
    | with_reducible refine (State.takeAtR_keeps _ _ ).after ?_ (by decide)
    | with_reducible refine (State.cmpOnly_keeps _ _ _ ).after ?_ (by decide)
    | with_reducible refine (State.takeWbm_keeps _ _ ).after ?_ (by decide)
    | with_reducible refine (State.forward_keeps _ _ _ ).after ?_ (by decide)
    | with_reducible refine (State.collectOr_keeps _ _ _ _ _ _ _ _ ).after ?_ (by decide)
    | with_reducible refine Keeps.snd (by assumption) ?_ | (lift_lets -underBinder; intros) | split

theorem State.tryServe_keeps (s : State) (m) :
    Keeps 88112965 s (State.tryServe s m).2 := by
  unfold State.tryServe
  repeat' first
    | with_reducible exact Keeps.refl _ _ | with_reducible refine Keeps.ite (fun _ => ?_) (fun _ => ?_)
    | with_reducible refine (State.roomFor_keeps _ _ _ ).after ?_ (by decide)
    | with_reducible refine (State.actOn_keeps _ _ _ ).after ?_ (by decide)
    | with_reducible refine Keeps.snd (by assumption) ?_ | (lift_lets -underBinder; intros) | split

theorem State.servePass_keeps (s : State) (blocked : List Nat) (ms : List Msg) :
    Keeps 88112965 s (State.servePass s blocked ms) := by
  induction ms generalizing s blocked with
  | nil => exact Keeps.refl _ _
  | cons m ms ih =>
    unfold State.servePass
    refine Keeps.ite (fun _ => ih _ _) (fun _ => Keeps.ite (fun _ => ?_) fun _ => ?_)
    · exact (ih _ _).after ((State.setHomeWait_keeps _ _).after ((State.tryServe_keeps _ _).mono (by decide)) (by decide))
        (by decide)
    · exact (ih _ _).after ((State.tryServe_keeps _ _).mono (by decide)) (by decide)

theorem State.serveWaiting_keeps (s : State) (n : Nat) :
    Keeps 88112965 s (State.serveWaiting s n) := by
  induction n generalizing s with
  | zero => exact Keeps.refl _ _
  | succ n ih =>
    unfold State.serveWaiting
    exact Keeps.ite (fun _ => (ih _).after (State.servePass_keeps _ _ _) (by decide)) (fun _ => State.servePass_keeps _ _ _)

theorem State.serveHome_keeps (s : State) :
    Keeps 88112965 s (State.serveHome s) := by
  unfold State.serveHome
  repeat' first
    | with_reducible exact Keeps.refl _ _ | with_reducible refine Keeps.ite (fun _ => ?_) (fun _ => ?_)
    | with_reducible refine (State.serveWaiting_keeps _ _ ).after ?_ (by decide) | split

theorem State.countProto_keeps (s : State) (line) :
    Keeps 1 s (State.countProto s line) := by
  unfold State.countProto
  repeat' first
    | with_reducible exact Keeps.refl _ _ | with_reducible refine Keeps.ite (fun _ => ?_) (fun _ => ?_)
    | with_reducible refine (State.addTo_keeps _ _ _ ).after ?_ (by decide) | split

theorem State.discard_keeps (s : State) (line) :
    Keeps 1 s (State.discard s line) := by
  unfold State.discard
  repeat' first
    | with_reducible exact Keeps.refl _ _ | with_reducible refine Keeps.ite (fun _ => ?_) (fun _ => ?_)
    | with_reducible refine (State.countProto_keeps _ _ ).after ?_ (by decide) | split

theorem State.takeBIRsp_keeps (s : State) (line) (block) (retained) :
    Keeps 88112965 s (State.takeBIRsp s line block retained) := by
  unfold State.takeBIRsp
  repeat' first
    | with_reducible exact Keeps.refl _ _ | with_reducible refine Keeps.ite (fun _ => ?_) (fun _ => ?_)
    | with_reducible refine (State.checkOwed_keeps _ _ ).after ?_ (by decide)
    | with_reducible refine (State.serveHome_keeps _ ).after ?_ (by decide)
    | with_reducible refine (State.discard_keeps _ _ ).after ?_ (by decide)
    | with_reducible refine (State.countProto_keeps _ _ ).after ?_ (by decide) | (lift_lets -underBinder; intros) | split

theorem State.arrive_keeps (s : State) (m) :
    Keeps 256 s (State.arrive s m) := by
  unfold State.arrive
  repeat' first
    | with_reducible exact Keeps.refl _ _ | with_reducible refine Keeps.ite (fun _ => ?_) (fun _ => ?_)
    | (lift_lets -underBinder; intros) | split | with_reducible refine Keeps.setCoh ?_ (by decide)

theorem execBirsp_keeps (m) (s : State) :
    KeepsO 88112965 s (execBirsp m s) := by
  unfold execBirsp
  repeat' first
    | with_reducible refine KeepsO.next ?_ | with_reducible refine KeepsO.ite (fun _ => ?_) (fun _ => ?_)
    | with_reducible exact Keeps.refl _ _ | with_reducible refine Keeps.ite (fun _ => ?_) (fun _ => ?_)
    | with_reducible refine (State.takeBIRsp_keeps _ _ _ _ ).after ?_ (by decide)
    | with_reducible refine (State.arrive_keeps _ _ ).after ?_ (by decide) | split

theorem State.setBitOf_keeps (s : State) (f) (i) (b) :
    Keeps 1 s (State.setBitOf s f i b) := by
  unfold State.setBitOf
  repeat' first
    | with_reducible exact Keeps.refl _ _ | with_reducible refine Keeps.ite (fun _ => ?_) (fun _ => ?_)
    | with_reducible refine (State.set_keeps _ _ _ ).after ?_ (by decide) | split

theorem State.setPower_keeps (s : State) (p) :
    Keeps 32768 s (State.setPower s p) := by
  unfold State.setPower
  repeat' first
    | with_reducible exact Keeps.refl _ _ | with_reducible refine Keeps.ite (fun _ => ?_) (fun _ => ?_) | split
    | with_reducible refine Keeps.setPower ?_ (by decide)

theorem State.updateReason_keeps (s : State) (r) :
    Keeps 4245505 s (State.updateReason s r) := by
  unfold State.updateReason
  repeat' first
    | with_reducible exact Keeps.refl _ _ | with_reducible refine Keeps.ite (fun _ => ?_) (fun _ => ?_)
    | with_reducible refine (State.fire_keeps _ _ _ ).after ?_ (by decide)
    | with_reducible refine (State.addTo_keeps _ _ _ ).after ?_ (by decide)
    | with_reducible refine (State.setBitOf_keeps _ _ _ _ ).after ?_ (by decide)
    | with_reducible refine (State.setPower_keeps _ _ ).after ?_ (by decide)
    | with_reducible refine (State.event_keeps _ _ _ _ _ _ ).after ?_ (by decide)
    | with_reducible refine Keeps.foldl ?_ (fun u1 _ => ?_) | (lift_lets -underBinder; intros) | split

theorem State.updateThrottle_keeps (s : State) :
    Keeps 4245505 s (State.updateThrottle s) := by
  unfold State.updateThrottle
  repeat' first
    | with_reducible exact Keeps.refl _ _ | with_reducible refine Keeps.ite (fun _ => ?_) (fun _ => ?_)
    | with_reducible refine (State.updateReason_keeps _ _ ).after ?_ (by decide)
    | with_reducible refine (State.set_keeps _ _ _ ).after ?_ (by decide)
    | with_reducible refine Keeps.foldl ?_ (fun u1 _ => ?_) | (lift_lets -underBinder; intros) | split

theorem State.setAwl_keeps (s : State) (a) :
    Keeps 65536 s (State.setAwl s a) := by
  unfold State.setAwl
  repeat' first
    | with_reducible exact Keeps.refl _ _ | with_reducible refine Keeps.ite (fun _ => ?_) (fun _ => ?_) | split
    | with_reducible refine Keeps.setAwl ?_ (by decide)

theorem State.stopSlice_keeps (s : State) (r) (ns) :
    Keeps 65537 s (State.stopSlice s r ns) := by
  unfold State.stopSlice
  repeat' first
    | with_reducible exact Keeps.refl _ _ | with_reducible refine Keeps.ite (fun _ => ?_) (fun _ => ?_)
    | with_reducible refine (State.setTileCode_keeps _ _ _ ).after ?_ (by decide)
    | with_reducible refine (State.setAwl_keeps _ _ ).after ?_ (by decide)
    | with_reducible refine (State.addTo_keeps _ _ _ ).after ?_ (by decide)
    | with_reducible refine (State.setBitOf_keeps _ _ _ _ ).after ?_ (by decide) | (lift_lets -underBinder; intros) | split

theorem State.passEnds_keeps (s : State) (d) (k) (unit) :
    Keeps 4278273 s (State.passEnds s d k unit) := by
  unfold State.passEnds
  repeat' first
    | with_reducible exact Keeps.refl _ _ | with_reducible refine Keeps.ite (fun _ => ?_) (fun _ => ?_)
    | with_reducible refine (State.bump_keeps _ _ _ ).after ?_ (by decide)
    | with_reducible refine (State.setAwl_keeps _ _ ).after ?_ (by decide)
    | with_reducible refine (State.setAll_keeps _ _ ).after ?_ (by decide)
    | with_reducible refine (State.event_keeps _ _ _ _ _ _ ).after ?_ (by decide) | (lift_lets -underBinder; intros) | split

theorem State.attemptDeficit_keeps (s : State) (d) (k) (unit) :
    Keeps 4278273 s (State.attemptDeficit s d k unit) := by
  unfold State.attemptDeficit
  repeat' first
    | with_reducible exact Keeps.refl _ _ | with_reducible refine Keeps.ite (fun _ => ?_) (fun _ => ?_)
    | with_reducible refine (State.addTo_keeps _ _ _ ).after ?_ (by decide)
    | with_reducible refine (State.passEnds_keeps _ _ _ _ ).after ?_ (by decide) | split

theorem State.abortSlice_keeps (s : State) (r) :
    Keeps 4278273 s (State.abortSlice s r) := by
  unfold State.abortSlice
  repeat' first
    | with_reducible exact Keeps.refl _ _ | with_reducible refine Keeps.ite (fun _ => ?_) (fun _ => ?_)
    | with_reducible refine (State.stopSlice_keeps _ _ _ ).after ?_ (by decide)
    | with_reducible refine (State.attemptDeficit_keeps _ _ _ _ ).after ?_ (by decide) | split

theorem State.abortSlices_keeps (s : State) (f) :
    Keeps 4278273 s (State.abortSlices s f) := by
  unfold State.abortSlices
  repeat' first
    | with_reducible exact Keeps.refl _ _ | with_reducible refine Keeps.ite (fun _ => ?_) (fun _ => ?_)
    | with_reducible refine (State.abortSlice_keeps _ _ ).after ?_ (by decide)
    | with_reducible refine Keeps.foldl ?_ (fun u1 _ => ?_) | split

theorem State.leaveWindow_keeps (s : State) :
    Keeps 4278273 s (State.leaveWindow s) := by
  unfold State.leaveWindow
  repeat' first
    | with_reducible exact Keeps.refl _ _ | with_reducible refine Keeps.ite (fun _ => ?_) (fun _ => ?_)
    | with_reducible refine (State.abortSlices_keeps _ _ ).after ?_ (by decide) | split

theorem State.forceLow_keeps (s : State) (r) :
    Keeps 4311041 s (State.forceLow s r) := by
  unfold State.forceLow
  repeat' first
    | with_reducible exact Keeps.refl _ _ | with_reducible refine Keeps.ite (fun _ => ?_) (fun _ => ?_)
    | with_reducible refine (State.leaveWindow_keeps _ ).after ?_ (by decide)
    | with_reducible refine (State.set_keeps _ _ _ ).after ?_ (by decide)
    | with_reducible refine (State.setAll_keeps _ _ ).after ?_ (by decide)
    | with_reducible refine (State.setPower_keeps _ _ ).after ?_ (by decide)
    | with_reducible refine (State.event_keeps _ _ _ _ _ _ ).after ?_ (by decide)
    | with_reducible refine Keeps.foldl ?_ (fun u1 _ => ?_) | (lift_lets -underBinder; intros) | split

theorem State.checkForced_keeps (s : State) :
    Keeps 4311041 s (State.checkForced s) := by
  unfold State.checkForced
  repeat' first
    | with_reducible exact Keeps.refl _ _ | with_reducible refine Keeps.ite (fun _ => ?_) (fun _ => ?_)
    | with_reducible refine (State.updateThrottle_keeps _ ).after ?_ (by decide)
    | with_reducible refine (State.forceLow_keeps _ _ ).after ?_ (by decide)
    | with_reducible refine (State.setPower_keeps _ _ ).after ?_ (by decide)
    | with_reducible refine Keeps.foldl ?_ (fun u1 _ => ?_) | (lift_lets -underBinder; intros) | split

theorem execVrAlert_keeps (s : State) :
    KeepsO 4311041 s (execVrAlert s) := by
  unfold execVrAlert
  repeat' first
    | with_reducible refine KeepsO.next ?_ | with_reducible refine KeepsO.ite (fun _ => ?_) (fun _ => ?_)
    | with_reducible exact Keeps.refl _ _ | with_reducible refine Keeps.ite (fun _ => ?_) (fun _ => ?_)
    | with_reducible refine (State.checkForced_keeps _ ).after ?_ (by decide)
    | with_reducible refine (State.set_keeps _ _ _ ).after ?_ (by decide) | split

theorem State.endLoad_keeps (s : State) (error) (check) :
    Keeps 4212749 s (State.endLoad s error check) := by
  unfold State.endLoad
  repeat' first
    | with_reducible exact Keeps.refl _ _ | with_reducible refine Keeps.ite (fun _ => ?_) (fun _ => ?_)
    | with_reducible refine (State.fire_keeps _ _ _ ).after ?_ (by decide)
    | with_reducible refine (State.setAll_keeps _ _ ).after ?_ (by decide)
    | with_reducible refine (State.event_keeps _ _ _ _ _ _ ).after ?_ (by decide) | (lift_lets -underBinder; intros) | split
    | with_reducible refine Keeps.setLdr ?_ (by decide) | with_reducible refine Keeps.setCfg ?_ (by decide)

theorem State.stopLoad_keeps (s : State) (error) :
    Keeps 4212749 s (State.stopLoad s error) := by
  unfold State.stopLoad
  repeat' first
    | with_reducible exact Keeps.refl _ _ | with_reducible refine Keeps.ite (fun _ => ?_) (fun _ => ?_)
    | with_reducible refine (State.endLoad_keeps _ _ _ ).after ?_ (by decide) | (lift_lets -underBinder; intros) | split

theorem State.setFlt_keeps (s : State) (f) :
    Keeps 16384 s (State.setFlt s f) := by
  unfold State.setFlt
  repeat' first
    | with_reducible exact Keeps.refl _ _ | with_reducible refine Keeps.ite (fun _ => ?_) (fun _ => ?_) | split
    | with_reducible refine Keeps.setFlt ?_ (by decide)

theorem State.outOfService_keeps (s : State) :
    Keeps 20989965 s (State.outOfService s) := by
  unfold State.outOfService
  repeat' first
    | with_reducible exact Keeps.refl _ _ | with_reducible refine Keeps.ite (fun _ => ?_) (fun _ => ?_)
    | with_reducible refine (State.fire_keeps _ _ _ ).after ?_ (by decide)
    | with_reducible refine (State.draw_keeps _ ).after ?_ (by decide)
    | with_reducible refine (State.addTo_keeps _ _ _ ).after ?_ (by decide)
    | with_reducible refine (State.stopLoad_keeps _ _ ).after ?_ (by decide)
    | with_reducible refine (State.setFlt_keeps _ _ ).after ?_ (by decide)
    | with_reducible refine (State.setAll_keeps _ _ ).after ?_ (by decide)
    | with_reducible refine (State.event_keeps _ _ _ _ _ _ ).after ?_ (by decide)
    | with_reducible refine Keeps.snd (by assumption) ?_ | (lift_lets -underBinder; intros) | split

theorem execDeviceRecoveryTimeout_keeps (s : State) :
    KeepsO 20989965 s (execDeviceRecoveryTimeout s) := by
  unfold execDeviceRecoveryTimeout
  repeat' first
    | with_reducible refine KeepsO.next ?_ | with_reducible refine KeepsO.ite (fun _ => ?_) (fun _ => ?_)
    | with_reducible exact Keeps.refl _ _ | with_reducible refine Keeps.ite (fun _ => ?_) (fun _ => ?_)
    | with_reducible refine (State.outOfService_keeps _ ).after ?_ (by decide)
    | with_reducible refine (State.recordFault_keeps _ _ ).after ?_ (by decide) | split

theorem State.setUci_keeps (s : State) (u) :
    Keeps 2048 s (State.setUci s u) := by
  unfold State.setUci
  repeat' first
    | with_reducible exact Keeps.refl _ _ | with_reducible refine Keeps.ite (fun _ => ?_) (fun _ => ?_) | split
    | with_reducible refine Keeps.setUci ?_ (by decide)

theorem State.ptpSend_keeps (s : State) (k) (m) :
    Keeps 20971521 s (State.ptpSend s k m) := by
  unfold State.ptpSend
  repeat' first
    | with_reducible exact Keeps.refl _ _ | with_reducible refine Keeps.ite (fun _ => ?_) (fun _ => ?_)
    | with_reducible refine (State.draw_keeps _ ).after ?_ (by decide)
    | with_reducible refine (State.addTo_keeps _ _ _ ).after ?_ (by decide)
    | with_reducible refine (State.emit_keeps _ _ ).after ?_ (by decide) | with_reducible refine Keeps.snd (by assumption) ?_
    | (lift_lets -underBinder; intros) | split

theorem State.ptpMaySend_keeps (s : State) (k) (m) :
    Keeps 20971521 s (State.ptpMaySend s k m) := by
  unfold State.ptpMaySend
  repeat' first
    | with_reducible exact Keeps.refl _ _ | with_reducible refine Keeps.ite (fun _ => ?_) (fun _ => ?_)
    | with_reducible refine (State.draw_keeps _ ).after ?_ (by decide)
    | with_reducible refine (State.ptpSend_keeps _ _ _ ).after ?_ (by decide)
    | with_reducible refine Keeps.snd (by assumption) ?_ | (lift_lets -underBinder; intros) | split

theorem execSyncSend_keeps (k) (s : State) :
    KeepsO 20971521 s (execSyncSend k s) := by
  unfold execSyncSend
  repeat' first
    | with_reducible refine KeepsO.next ?_ | with_reducible refine KeepsO.ite (fun _ => ?_) (fun _ => ?_)
    | with_reducible exact Keeps.refl _ _ | with_reducible refine Keeps.ite (fun _ => ?_) (fun _ => ?_)
    | with_reducible refine (State.ptpMaySend_keeps _ _ _ ).after ?_ (by decide)
    | with_reducible refine (State.ptpSend_keeps _ _ _ ).after ?_ (by decide) | split

theorem State.openTx_keeps (s : State) (x) :
    Keeps 256 s (State.openTx s x).2 := by
  unfold State.openTx
  repeat' first
    | with_reducible exact Keeps.refl _ _ | with_reducible refine Keeps.ite (fun _ => ?_) (fun _ => ?_)
    | (lift_lets -underBinder; intros) | split | with_reducible refine Keeps.setCoh ?_ (by decide)

theorem State.openSend_keeps (s : State) (agent) (m) (want) :
    Keeps 4225861 s (State.openSend s agent m want) := by
  unfold State.openSend
  repeat' first
    | with_reducible exact Keeps.refl _ _ | with_reducible refine Keeps.ite (fun _ => ?_) (fun _ => ?_)
    | with_reducible refine (State.partitionFault_keeps _ _ _ ).after ?_ (by decide)
    | with_reducible refine (State.openTx_keeps _ _ ).after ?_ (by decide)
    | with_reducible refine (State.send_keeps _ _ ).after ?_ (by decide) | with_reducible refine Keeps.snd (by assumption) ?_
    | (lift_lets -underBinder; intros) | split

theorem State.waitAtHalf_keeps (s : State) (w) :
    Keeps 256 s (State.waitAtHalf s w) := by
  unfold State.waitAtHalf
  repeat' first
    | with_reducible exact Keeps.refl _ _ | with_reducible refine Keeps.ite (fun _ => ?_) (fun _ => ?_)
    | (lift_lets -underBinder; intros) | split | with_reducible refine Keeps.setCoh ?_ (by decide)

theorem State.setTxs_keeps (s : State) (txs) :
    Keeps 256 s (State.setTxs s txs) := by
  unfold State.setTxs
  repeat' first
    | with_reducible exact Keeps.refl _ _ | with_reducible refine Keeps.ite (fun _ => ?_) (fun _ => ?_)
    | (lift_lets -underBinder; intros) | split | with_reducible refine Keeps.setCoh ?_ (by decide)

theorem State.joinTx_keeps (s : State) (y) (want) :
    Keeps 256 s (State.joinTx s y want) := by
  unfold State.joinTx
  repeat' first
    | with_reducible exact Keeps.refl _ _ | with_reducible refine Keeps.ite (fun _ => ?_) (fun _ => ?_)
    | with_reducible refine (State.setTxs_keeps _ _ ).after ?_ (by decide) | split

theorem State.halfMiss_keeps (s : State) (h) (a) (m) (want) :
    Keeps 4225861 s (State.halfMiss s h a m want) := by
  unfold State.halfMiss
  repeat' first
    | with_reducible exact Keeps.refl _ _ | with_reducible refine Keeps.ite (fun _ => ?_) (fun _ => ?_)
    | with_reducible refine (State.addTo_keeps _ _ _ ).after ?_ (by decide)
    | with_reducible refine (State.openSend_keeps _ _ _ _ ).after ?_ (by decide)
    | with_reducible refine (State.waitAtHalf_keeps _ _ ).after ?_ (by decide)
    | with_reducible refine (State.joinTx_keeps _ _ _ ).after ?_ (by decide) | (lift_lets -underBinder; intros) | split

theorem State.returnTick_keeps (s : State) :
    Keeps 16385 s (State.returnTick s) := by
  unfold State.returnTick
  repeat' first
    | with_reducible exact Keeps.refl _ _ | with_reducible refine Keeps.ite (fun _ => ?_) (fun _ => ?_)
    | with_reducible refine (State.setFlt_keeps _ _ ).after ?_ (by decide)
    | with_reducible refine (State.setAll_keeps _ _ ).after ?_ (by decide) | (lift_lets -underBinder; intros) | split

theorem State.setFields_keeps (s : State) (fs : List (Nat × Nat)) :
    Keeps 1 s (State.setFields s fs) := by
  unfold State.setFields
  refine Keeps.setRegs (Keeps.refl _ _) (by decide) ?_
  generalize s.regs = m
  induction fs generalizing m with
  | nil => exact id
  | cons x fs ih => exact fun h => ih _ (mapWf_mapSet _ _ h)

theorem State.unmapped_keeps (s : State) (p) (pa) (t) :
    Keeps 4225861 s (State.unmapped s p pa t) := by
  unfold State.unmapped
  repeat' first
    | with_reducible exact Keeps.refl _ _ | with_reducible refine Keeps.ite (fun _ => ?_) (fun _ => ?_)
    | with_reducible refine (State.partitionFault_keeps _ _ _ ).after ?_ (by decide) | split

theorem State.badOp_keeps (s : State) (t p : Nat) (ops : List LaneOp) (t_ : State) (h_ : State.badOp s t p ops = some t_) :
    Keeps 4225861 s t_ := by
  unfold State.badOp at h_
  obtain ⟨o, -, ho⟩ := List.exists_of_findSome?_eq_some h_
  split at ho
  · cases ho
  · split at ho
    · cases ho; exact (State.unmapped_keeps _ _ _ _).mono (by decide)
    · simp only at ho
      split at ho
      · cases ho; exact (State.partitionFault_keeps _ _ _).mono (by decide)
      · cases ho

theorem State.busyWrite_keeps (s : State) (off) :
    Keeps 1 s (State.busyWrite s off) := by
  unfold State.busyWrite
  repeat' first
    | with_reducible exact Keeps.refl _ _ | with_reducible refine Keeps.ite (fun _ => ?_) (fun _ => ?_)
    | with_reducible refine (State.setAll_keeps _ _ ).after ?_ (by decide) | split

theorem State.setShadow_keeps (s : State) (f) (v) :
    Keeps 4 s (State.setShadow s f v) := by
  unfold State.setShadow
  repeat' first
    | with_reducible exact Keeps.refl _ _ | with_reducible refine Keeps.ite (fun _ => ?_) (fun _ => ?_)
    | (lift_lets -underBinder; intros) | split | with_reducible refine Keeps.setCfg ?_ (by decide)

theorem State.writeField_keeps (s : State) (r) (f) (x) :
    Keeps 5 s (State.writeField s r f x) := by
  unfold State.writeField
  repeat' first
    | with_reducible exact Keeps.refl _ _ | with_reducible refine Keeps.ite (fun _ => ?_) (fun _ => ?_)
    | with_reducible refine (State.busyWrite_keeps _ _ ).after ?_ (by decide)
    | with_reducible refine (State.setShadow_keeps _ _ _ ).after ?_ (by decide)
    | with_reducible refine (State.set_keeps _ _ _ ).after ?_ (by decide) | split

theorem State.setGroup_keeps (s : State) (t) (g) (x) :
    Keeps 64 s (State.setGroup s t g x) := by
  unfold State.setGroup
  repeat' first
    | with_reducible exact Keeps.refl _ _ | with_reducible refine Keeps.ite (fun _ => ?_) (fun _ => ?_)
    | with_reducible refine (State.setTile_keeps _ _ _ ).after ?_ (by decide) | (lift_lets -underBinder; intros) | split

theorem State.setRecords_keeps (s : State) (rs) :
    Keeps 8192 s (State.setRecords s rs) := by
  unfold State.setRecords
  repeat' first
    | with_reducible exact Keeps.refl _ _ | with_reducible refine Keeps.ite (fun _ => ?_) (fun _ => ?_)
    | (lift_lets -underBinder; intros) | split | with_reducible refine Keeps.setPart ?_ (by decide)

theorem State.setL2_keeps (s : State) (ls) :
    Keeps 256 s (State.setL2 s ls) := by
  unfold State.setL2
  repeat' first
    | with_reducible exact Keeps.refl _ _ | with_reducible refine Keeps.ite (fun _ => ?_) (fun _ => ?_)
    | (lift_lets -underBinder; intros) | split | with_reducible refine Keeps.setCoh ?_ (by decide)

theorem State.dropL2_keeps (s : State) (half) (line) (spill) :
    Keeps 256 s (State.dropL2 s half line spill) := by
  unfold State.dropL2
  repeat' first
    | with_reducible exact Keeps.refl _ _ | with_reducible refine Keeps.ite (fun _ => ?_) (fun _ => ?_)
    | with_reducible refine (State.setL2_keeps _ _ ).after ?_ (by decide) | split

theorem State.invalL2_keeps (s : State) (h) (line) (spill) :
    Keeps 257 s (State.invalL2 s h line spill) := by
  unfold State.invalL2
  repeat' first
    | with_reducible exact Keeps.refl _ _ | with_reducible refine Keeps.ite (fun _ => ?_) (fun _ => ?_)
    | with_reducible refine (State.addTo_keeps _ _ _ ).after ?_ (by decide)
    | with_reducible refine (State.dropL2_keeps _ _ _ _ ).after ?_ (by decide) | split

theorem State.halfWrite_keeps (s : State) (h) (m) (want) :
    Keeps 4225861 s (State.halfWrite s h m want) := by
  unfold State.halfWrite
  repeat' first
    | with_reducible exact Keeps.refl _ _ | with_reducible refine Keeps.ite (fun _ => ?_) (fun _ => ?_)
    | with_reducible refine (State.openSend_keeps _ _ _ _ ).after ?_ (by decide)
    | with_reducible refine (State.waitAtHalf_keeps _ _ ).after ?_ (by decide)
    | with_reducible refine (State.invalL2_keeps _ _ _ _ ).after ?_ (by decide) | (lift_lets -underBinder; intros) | split

theorem State.issueWrite_keeps (s : State) (q) (m) (want) :
    Keeps 4225861 s (State.issueWrite s q m want) := by
  unfold State.issueWrite
  repeat' first
    | with_reducible exact Keeps.refl _ _ | with_reducible refine Keeps.ite (fun _ => ?_) (fun _ => ?_)
    | with_reducible refine (State.halfWrite_keeps _ _ _ _ ).after ?_ (by decide)
    | with_reducible refine (State.openSend_keeps _ _ _ _ ).after ?_ (by decide) | (lift_lets -underBinder; intros) | split

theorem State.schedWrite_keeps (s : State) (p) (pa) (bs) (want) :
    Keeps 4225861 s (State.schedWrite s p pa bs want) := by
  unfold State.schedWrite
  repeat' first
    | with_reducible exact Keeps.refl _ _ | with_reducible refine Keeps.ite (fun _ => ?_) (fun _ => ?_)
    | with_reducible refine (State.unmapped_keeps _ _ _ _ ).after ?_ (by decide)
    | with_reducible refine (State.issueWrite_keeps _ _ _ _ ).after ?_ (by decide) | split

theorem State.writeRecord_keeps (s : State) (k) (status) (code) (cause) (endNs) :
    Keeps 4225861 s (State.writeRecord s k status code cause endNs) := by
  unfold State.writeRecord
  repeat' first
    | with_reducible exact Keeps.refl _ _ | with_reducible refine Keeps.ite (fun _ => ?_) (fun _ => ?_)
    | with_reducible refine (State.setRecords_keeps _ _ ).after ?_ (by decide)
    | with_reducible refine (State.bump_keeps _ _ _ ).after ?_ (by decide)
    | with_reducible refine (State.addTo_keeps _ _ _ ).after ?_ (by decide)
    | with_reducible refine (State.schedWrite_keeps _ _ _ _ _ ).after ?_ (by decide) | (lift_lets -underBinder; intros)
    | split

end Sys2Proof.Machine
end

