-- ==== Sys2Proof/Laws/Frames2.lean ====
section
/-! SUPPORT. For each operation of the model, in the order of use (part 2 of 6): the components that it may change, by the bits
of `Keeps`. -/

set_option linter.all false

namespace Sys2Proof.Machine

theorem State.countOverrun_keeps (s : State) (k) :
    Keeps 4225861 s (State.countOverrun s k) := by
  unfold State.countOverrun
  repeat' first
    | with_reducible exact Keeps.refl _ _ | with_reducible refine Keeps.ite (fun _ => ?_) (fun _ => ?_)
    | with_reducible refine (State.setPartSt_keeps _ _ _ ).after ?_ (by decide)
    | with_reducible refine (State.partitionFault_keeps _ _ _ ).after ?_ (by decide) | (lift_lets -underBinder; intros)
    | split

theorem State.jobStepFail_keeps (s : State) (k) (cause) :
    Keeps 4198401 s (State.jobStepFail s k cause) := by
  unfold State.jobStepFail
  repeat' first
    | with_reducible exact Keeps.refl _ _ | with_reducible refine Keeps.ite (fun _ => ?_) (fun _ => ?_)
    | with_reducible refine (State.setJob_keeps _ _ ).after ?_ (by decide)
    | with_reducible refine (State.laceUp_keeps _ _ ).after ?_ (by decide) | (lift_lets -underBinder; intros) | split

theorem State.stepFault_keeps (s : State) (t) (g) (lane) (code) (pc) :
    Keeps 4225861 s (State.stepFault s t g lane code pc) := by
  unfold State.stepFault
  repeat' first
    | with_reducible exact Keeps.refl _ _ | with_reducible refine Keeps.ite (fun _ => ?_) (fun _ => ?_)
    | with_reducible refine (State.writeRecord_keeps _ _ _ _ _ _ ).after ?_ (by decide)
    | with_reducible refine (State.countOverrun_keeps _ _ ).after ?_ (by decide)
    | with_reducible refine (State.recordFault_keeps _ _ ).after ?_ (by decide)
    | with_reducible refine (State.jobStepFail_keeps _ _ _ ).after ?_ (by decide)
    | with_reducible refine (State.stopTask_keeps _ _ ).after ?_ (by decide)
    | with_reducible refine (State.setAll_keeps _ _ ).after ?_ (by decide) | (lift_lets -underBinder; intros) | split

theorem State.readCode_keeps (s : State) (t) (p) (pc) :
    Keeps 88112965 s (State.readCode s t p pc).2 := by
  unfold State.readCode
  repeat' first
    | with_reducible exact Keeps.refl _ _ | with_reducible refine Keeps.ite (fun _ => ?_) (fun _ => ?_)
    | with_reducible refine (State.memoryFault_keeps _ _ _ ).after ?_ (by decide)
    | with_reducible refine (State.logUe_keeps _ _ _ ).after ?_ (by decide)
    | with_reducible refine (State.checkUnits_keeps _ _ ).after ?_ (by decide) | (lift_lets -underBinder; intros) | split

theorem State.placeL2_keeps (s : State) (l : L2Line) (t_ : State) (h_ : State.placeL2 s l = some t_) :
    Keeps 256 s t_ := by
  unfold State.placeL2 at h_
  extract_lets -underBinder others fl xs join put at h_
  clear_value join
  split at h_
  · cases h_; exact (State.setL2_keeps _ _).mono (by decide)
  · obtain ⟨w, -, hw⟩ := Option.map_eq_some_iff.1 h_
    subst hw
    exact (State.setL2_keeps _ _).after ((State.setL2_keeps _ _).mono (by decide)) (by decide)

theorem State.bypassL2_keeps (s : State) (half) (line) (bulk) (spill) :
    Keeps 257 s (State.bypassL2 s half line bulk spill) := by
  unfold State.bypassL2
  repeat' first
    | with_reducible exact Keeps.refl _ _ | with_reducible refine Keeps.ite (fun _ => ?_) (fun _ => ?_)
    | with_reducible refine (State.bump_keeps _ _ _ ).after ?_ (by decide) | (lift_lets -underBinder; intros) | split
    | with_reducible refine Keeps.setCoh ?_ (by decide)

theorem State.offerVictim_keeps (s : State) (t) (p) (l) :
    Keeps 257 s (State.offerVictim s t p l) := by
  unfold State.offerVictim
  repeat' first
    | with_reducible exact Keeps.refl _ _ | with_reducible refine Keeps.ite (fun _ => ?_) (fun _ => ?_)
    | with_reducible refine (State.placeL2_keeps _ _ _ (by assumption)).after ?_ (by decide)
    | with_reducible refine (State.addTo_keeps _ _ _ ).after ?_ (by decide)
    | with_reducible refine (State.bypassL2_keeps _ _ _ _ _ ).after ?_ (by decide) | (lift_lets -underBinder; intros) | split

theorem State.setL1_keeps (s : State) (t) (ls) :
    Keeps 64 s (State.setL1 s t ls) := by
  unfold State.setL1
  repeat' first
    | with_reducible exact Keeps.refl _ _ | with_reducible refine Keeps.ite (fun _ => ?_) (fun _ => ?_)
    | with_reducible refine (State.setTile_keeps _ _ _ ).after ?_ (by decide) | (lift_lets -underBinder; intros) | split

theorem State.putL1_keeps (s : State) (t) (l) :
    Keeps 64 s (State.putL1 s t l) := by
  unfold State.putL1
  repeat' first
    | with_reducible exact Keeps.refl _ _ | with_reducible refine Keeps.ite (fun _ => ?_) (fun _ => ?_)
    | with_reducible refine (State.setL1_keeps _ _ _ ).after ?_ (by decide) | split

theorem State.writeBack_keeps (s : State) (t) (p) (l) :
    Keeps 4225861 s (State.writeBack s t p l) := by
  unfold State.writeBack
  repeat' first
    | with_reducible exact Keeps.refl _ _ | with_reducible refine Keeps.ite (fun _ => ?_) (fun _ => ?_)
    | with_reducible refine (State.unmapped_keeps _ _ _ _ ).after ?_ (by decide)
    | with_reducible refine (State.issueWrite_keeps _ _ _ _ ).after ?_ (by decide)
    | with_reducible refine (State.setL1_keeps _ _ _ ).after ?_ (by decide) | (lift_lets -underBinder; intros) | split

theorem State.l1Insert_keeps (s : State) (t) (p) (l) :
    Keeps 4225861 s (State.l1Insert s t p l) := by
  unfold State.l1Insert
  repeat' first
    | with_reducible exact Keeps.refl _ _ | with_reducible refine Keeps.ite (fun _ => ?_) (fun _ => ?_)
    | with_reducible refine (State.offerVictim_keeps _ _ _ _ ).after ?_ (by decide)
    | with_reducible refine (State.setL1_keeps _ _ _ ).after ?_ (by decide)
    | with_reducible refine (State.putL1_keeps _ _ _ ).after ?_ (by decide)
    | with_reducible refine (State.writeBack_keeps _ _ _ _ ).after ?_ (by decide) | (lift_lets -underBinder; intros) | split

theorem State.fetchInstr_keeps (s : State) (t) (p) (pc) :
    Keeps 4225861 s (State.fetchInstr s t p pc) := by
  unfold State.fetchInstr
  repeat' first
    | with_reducible exact Keeps.refl _ _ | with_reducible refine Keeps.ite (fun _ => ?_) (fun _ => ?_)
    | with_reducible refine (State.l1Insert_keeps _ _ _ _ ).after ?_ (by decide)
    | with_reducible refine (State.putL1_keeps _ _ _ ).after ?_ (by decide) | (lift_lets -underBinder; intros) | split

theorem State.issued_keeps (s : State) (t) (g) :
    Keeps 4225861 s (State.issued s t g) := by
  unfold State.issued
  repeat' first
    | with_reducible exact Keeps.refl _ _ | with_reducible refine Keeps.ite (fun _ => ?_) (fun _ => ?_)
    | with_reducible refine (State.setGroup_keeps _ _ _ _ ).after ?_ (by decide)
    | with_reducible refine (State.fetchInstr_keeps _ _ _ _ ).after ?_ (by decide)
    | with_reducible refine (State.addTo_keeps _ _ _ ).after ?_ (by decide)
    | with_reducible refine (State.setTile_keeps _ _ _ ).after ?_ (by decide) | (lift_lets -underBinder; intros) | split

theorem State.fetchPath_keeps (s : State) (t) (g) :
    Keeps 88112965 s (State.fetchPath s t g).2 := by
  unfold State.fetchPath
  repeat' first
    | with_reducible exact Keeps.refl _ _ | with_reducible refine Keeps.ite (fun _ => ?_) (fun _ => ?_)
    | with_reducible refine (State.readCode_keeps _ _ _ _ ).after ?_ (by decide)
    | with_reducible refine (State.issued_keeps _ _ _ ).after ?_ (by decide)
    | with_reducible refine (State.stepFault_keeps _ _ _ _ _ _ ).after ?_ (by decide)
    | with_reducible refine Keeps.snd (by assumption) ?_ | (lift_lets -underBinder; intros) | split

theorem State.settleGroup_keeps (s : State) (t) (g) :
    Keeps 64 s (State.settleGroup s t g) := by
  unfold State.settleGroup
  repeat' first
    | with_reducible exact Keeps.refl _ _ | with_reducible refine Keeps.ite (fun _ => ?_) (fun _ => ?_)
    | with_reducible refine (State.setGroup_keeps _ _ _ _ ).after ?_ (by decide) | split

theorem execBranch_keeps (t) (g) (taken) (target) (reconv) (s : State) :
    KeepsO 88112965 s (execBranch t g taken target reconv s) := by
  unfold execBranch State.withPath
  repeat' first
    | with_reducible refine KeepsO.next ?_ | with_reducible refine KeepsO.ite (fun _ => ?_) (fun _ => ?_)
    | with_reducible exact Keeps.refl _ _ | with_reducible refine Keeps.ite (fun _ => ?_) (fun _ => ?_)
    | with_reducible refine (State.setGroup_keeps _ _ _ _ ).after ?_ (by decide)
    | with_reducible refine (State.stepFault_keeps _ _ _ _ _ _ ).after ?_ (by decide)
    | with_reducible refine (State.fetchPath_keeps _ _ _ ).after ?_ (by decide)
    | with_reducible refine (State.settleGroup_keeps _ _ _ ).after ?_ (by decide)
    | with_reducible refine Keeps.snd (by assumption) ?_ | (lift_lets -underBinder; intros) | dsimp -zeta only | split

theorem State.ctlSend_keeps (s : State) (m) (reader) :
    Keeps 4225861 s (State.ctlSend s m reader) := by
  unfold State.ctlSend
  repeat' first
    | with_reducible exact Keeps.refl _ _ | with_reducible refine Keeps.ite (fun _ => ?_) (fun _ => ?_)
    | with_reducible refine (State.openSend_keeps _ _ _ _ ).after ?_ (by decide) | split

theorem State.loaderWrite_keeps (s : State) (a) (bs) :
    Keeps 88112965 s (State.loaderWrite s a bs) := by
  unfold State.loaderWrite
  repeat' first
    | with_reducible exact Keeps.refl _ _ | with_reducible refine Keeps.ite (fun _ => ?_) (fun _ => ?_)
    | with_reducible refine (State.ctlSend_keeps _ _ _ ).after ?_ (by decide)
    | with_reducible refine (State.sliceWrite_keeps _ _ _ _ _ ).after ?_ (by decide)
    | with_reducible refine Keeps.foldl ?_ (fun u1 _ => ?_) | (lift_lets -underBinder; intros) | split

theorem State.writeProgram_keeps (s : State) (a1) :
    Keeps 88112965 s (State.writeProgram s a1) := by
  unfold State.writeProgram
  repeat' first
    | with_reducible exact Keeps.refl _ _ | with_reducible refine Keeps.ite (fun _ => ?_) (fun _ => ?_)
    | with_reducible refine (State.loaderWrite_keeps _ _ _ ).after ?_ (by decide) | (lift_lets -underBinder; intros) | split

theorem State.releaseBars_keeps (s : State) (t) (g) (f) :
    Keeps 64 s (State.releaseBars s t g f) := by
  unfold State.releaseBars
  repeat' first
    | with_reducible exact Keeps.refl _ _ | with_reducible refine Keeps.ite (fun _ => ?_) (fun _ => ?_)
    | with_reducible refine (State.setGroup_keeps _ _ _ _ ).after ?_ (by decide) | (lift_lets -underBinder; intros) | split

theorem State.countBarrier_keeps (s : State) (t) :
    Keeps 16777217 s (State.countBarrier s t) := by
  unfold State.countBarrier
  repeat' first
    | with_reducible exact Keeps.refl _ _ | with_reducible refine Keeps.ite (fun _ => ?_) (fun _ => ?_)
    | with_reducible refine (State.draw_keeps _ ).after ?_ (by decide)
    | with_reducible refine (State.addTo_keeps _ _ _ ).after ?_ (by decide)
    | with_reducible refine Keeps.snd (by assumption) ?_ | split

theorem State.groupBarriers_keeps (s : State) (t) :
    Keeps 16777281 s (State.groupBarriers s t) := by
  unfold State.groupBarriers
  repeat' first
    | with_reducible exact Keeps.refl _ _ | with_reducible refine Keeps.ite (fun _ => ?_) (fun _ => ?_)
    | with_reducible refine (State.releaseBars_keeps _ _ _ _ ).after ?_ (by decide)
    | with_reducible refine (State.countBarrier_keeps _ _ ).after ?_ (by decide)
    | with_reducible refine Keeps.foldl ?_ (fun u1 _ => ?_) | split

theorem State.swapStep_keeps (s : State) (d) (e) (g) (stage) :
    Keeps 65536 s (State.swapStep s d e g stage) := by
  unfold State.swapStep
  repeat' first
    | with_reducible exact Keeps.refl _ _ | with_reducible refine Keeps.ite (fun _ => ?_) (fun _ => ?_)
    | with_reducible refine (State.setAwl_keeps _ _ ).after ?_ (by decide) | (lift_lets -underBinder; intros) | split

theorem execSpareTrained_keeps (d) (edge) (g) (s : State) :
    KeepsO 65536 s (execSpareTrained d edge g s) := by
  unfold execSpareTrained
  repeat' first
    | with_reducible refine KeepsO.next ?_ | with_reducible refine KeepsO.ite (fun _ => ?_) (fun _ => ?_)
    | with_reducible exact Keeps.refl _ _ | with_reducible refine Keeps.ite (fun _ => ?_) (fun _ => ?_)
    | with_reducible refine (State.swapStep_keeps _ _ _ _ _ ).after ?_ (by decide) | split

theorem State.jobFailure_keeps (s : State) (stitch) (cause) (member) :
    Keeps 4096 s (State.jobFailure s stitch cause member) := by
  unfold State.jobFailure
  repeat' first
    | with_reducible exact Keeps.refl _ _ | with_reducible refine Keeps.ite (fun _ => ?_) (fun _ => ?_)
    | with_reducible refine (State.setJob_keeps _ _ ).after ?_ (by decide) | (lift_lets -underBinder; intros) | split

theorem State.rxCount_keeps (s : State) (k) :
    Keeps 1 s (State.rxCount s k) := by
  unfold State.rxCount
  repeat' first
    | with_reducible exact Keeps.refl _ _ | with_reducible refine Keeps.ite (fun _ => ?_) (fun _ => ?_)
    | with_reducible refine (State.addTo_keeps _ _ _ ).after ?_ (by decide) | split

theorem State.rxStale_keeps (s : State) (k) :
    Keeps 1 s (State.rxStale s k) := by
  unfold State.rxStale
  repeat' first
    | with_reducible exact Keeps.refl _ _ | with_reducible refine Keeps.ite (fun _ => ?_) (fun _ => ?_)
    | with_reducible refine (State.addTo_keeps _ _ _ ).after ?_ (by decide) | split

theorem execStepFail_keeps (k) (f) (s : State) :
    KeepsO 4198401 s (execStepFail k f s) := by
  unfold execStepFail State.laceFrame
  repeat' first
    | with_reducible refine KeepsO.next ?_ | with_reducible refine KeepsO.ite (fun _ => ?_) (fun _ => ?_)
    | with_reducible exact Keeps.refl _ _ | with_reducible refine Keeps.ite (fun _ => ?_) (fun _ => ?_)
    | with_reducible refine (State.jobFailure_keeps _ _ _ _ ).after ?_ (by decide)
    | with_reducible refine (State.laceUp_keeps _ _ ).after ?_ (by decide)
    | with_reducible refine (State.rxCount_keeps _ _ ).after ?_ (by decide)
    | with_reducible refine (State.rxStale_keeps _ _ ).after ?_ (by decide) | dsimp -zeta only | split

theorem State.filterRespond_keeps (s : State) (m) (opcode) (data) :
    Keeps 256 s (State.filterRespond s m opcode data) := by
  unfold State.filterRespond
  repeat' first
    | with_reducible exact Keeps.refl _ _ | with_reducible refine Keeps.ite (fun _ => ?_) (fun _ => ?_)
    | with_reducible refine (State.send_keeps _ _ ).after ?_ (by decide) | split

theorem State.spillFault_keeps (s : State) (m) :
    Keeps 4225861 s (State.spillFault s m) := by
  unfold State.spillFault
  repeat' first
    | with_reducible exact Keeps.refl _ _ | with_reducible refine Keeps.ite (fun _ => ?_) (fun _ => ?_)
    | with_reducible refine (State.partitionFault_keeps _ _ _ ).after ?_ (by decide) | split

theorem State.setHostReqs_keeps (s : State) (rs) :
    Keeps 256 s (State.setHostReqs s rs) := by
  unfold State.setHostReqs
  repeat' first
    | with_reducible exact Keeps.refl _ _ | with_reducible refine Keeps.ite (fun _ => ?_) (fun _ => ?_)
    | (lift_lets -underBinder; intros) | split | with_reducible refine Keeps.setCoh ?_ (by decide)

theorem State.hostIssue_keeps (s : State) (op) (m) (mask) (data) :
    Keeps 4225861 s (State.hostIssue s op m mask data) := by
  unfold State.hostIssue
  repeat' first
    | with_reducible exact Keeps.refl _ _ | with_reducible refine Keeps.ite (fun _ => ?_) (fun _ => ?_)
    | with_reducible refine (State.filterRespond_keeps _ _ _ _ ).after ?_ (by decide)
    | with_reducible refine (State.spillFault_keeps _ _ ).after ?_ (by decide)
    | with_reducible refine (State.setHostReqs_keeps _ _ ).after ?_ (by decide)
    | with_reducible refine (State.emit_keeps _ _ ).after ?_ (by decide) | (lift_lets -underBinder; intros) | split

theorem State.issueWrCur_keeps (s : State) (m) :
    Keeps 4225861 s (State.issueWrCur s m) := by
  unfold State.issueWrCur
  repeat' first
    | with_reducible exact Keeps.refl _ _ | with_reducible refine Keeps.ite (fun _ => ?_) (fun _ => ?_)
    | with_reducible refine (State.hostIssue_keeps _ _ _ _ _ ).after ?_ (by decide) | split

theorem State.pick_keeps {α : Type} (s : State) (dflt : α) (l : List α) :
    Keeps 16777216 s (State.pick s dflt l).2 := by
  unfold State.pick
  split
  · exact Keeps.refl _ _
  · exact Keeps.refl _ _
  · exact State.draw_keeps s

theorem State.setFilter_keeps (s : State) (es) :
    Keeps 256 s (State.setFilter s es) := by
  unfold State.setFilter
  repeat' first
    | with_reducible exact Keeps.refl _ _ | with_reducible refine Keeps.ite (fun _ => ?_) (fun _ => ?_)
    | (lift_lets -underBinder; intros) | split | with_reducible refine Keeps.setCoh ?_ (by decide)

theorem State.freeFilter_keeps (s : State) (line) :
    Keeps 256 s (State.freeFilter s line) := by
  unfold State.freeFilter
  repeat' first
    | with_reducible exact Keeps.refl _ _ | with_reducible refine Keeps.ite (fun _ => ?_) (fun _ => ?_)
    | with_reducible refine (State.setFilter_keeps _ _ ).after ?_ (by decide) | split

theorem State.filterDone_keeps (s : State) (e) :
    Keeps 4225861 s (State.filterDone s e) := by
  unfold State.filterDone
  repeat' first
    | with_reducible exact Keeps.refl _ _ | with_reducible refine Keeps.ite (fun _ => ?_) (fun _ => ?_)
    | with_reducible refine (State.freeFilter_keeps _ _ ).after ?_ (by decide)
    | with_reducible refine (State.hostIssue_keeps _ _ _ _ _ ).after ?_ (by decide)
    | with_reducible refine (State.issueWrCur_keeps _ _ ).after ?_ (by decide)
    | with_reducible refine (State.emit_keeps _ _ ).after ?_ (by decide)
    | with_reducible refine Keeps.foldl ?_ (fun u1 _ => ?_) | (lift_lets -underBinder; intros) | split

theorem State.putFilter_keeps (s : State) (e) :
    Keeps 256 s (State.putFilter s e) := by
  unfold State.putFilter
  repeat' first
    | with_reducible exact Keeps.refl _ _ | with_reducible refine Keeps.ite (fun _ => ?_) (fun _ => ?_)
    | with_reducible refine (State.setFilter_keeps _ _ ).after ?_ (by decide) | split

theorem State.filterInv_keeps (s : State) (e) (halves) :
    Keeps 256 s (State.filterInv s e halves) := by
  unfold State.filterInv
  repeat' first
    | with_reducible exact Keeps.refl _ _ | with_reducible refine Keeps.ite (fun _ => ?_) (fun _ => ?_)
    | with_reducible refine (State.send_keeps _ _ ).after ?_ (by decide)
    | with_reducible refine Keeps.foldl ?_ (fun u1 _ => ?_) | (lift_lets -underBinder; intros) | split

theorem State.filterCollect_keeps (s : State) (e) (halves) (p) (req) (answers) :
    Keeps 4225861 s (State.filterCollect s e halves p req answers) := by
  unfold State.filterCollect
  repeat' first
    | with_reducible exact Keeps.refl _ _ | with_reducible refine Keeps.ite (fun _ => ?_) (fun _ => ?_)
    | with_reducible refine (State.filterDone_keeps _ _ ).after ?_ (by decide)
    | with_reducible refine (State.putFilter_keeps _ _ ).after ?_ (by decide)
    | with_reducible refine (State.filterInv_keeps _ _ _ ).after ?_ (by decide)
    | with_reducible refine Keeps.foldl ?_ (fun u1 _ => ?_) | (lift_lets -underBinder; intros) | split

theorem State.filterShare_keeps (s : State) (m) :
    Keeps 21003077 s (State.filterShare s m).2 := by
  unfold State.filterShare
  repeat' first
    | with_reducible exact Keeps.refl _ _ | with_reducible refine Keeps.ite (fun _ => ?_) (fun _ => ?_)
    | with_reducible refine (State.draw_keeps _ ).after ?_ (by decide)
    | with_reducible refine (State.hostIssue_keeps _ _ _ _ _ ).after ?_ (by decide)
    | with_reducible refine (State.pick_keeps _ _ _ ).after ?_ (by decide)
    | with_reducible refine (State.filterCollect_keeps _ _ _ _ _ _ ).after ?_ (by decide)
    | with_reducible refine Keeps.snd (by assumption) ?_ | (lift_lets -underBinder; intros) | split

theorem State.filterServe_keeps (s : State) (m) :
    Keeps 21003077 s (State.filterServe s m).2 := by
  unfold State.filterServe
  repeat' first
    | with_reducible assumption | with_reducible exact Keeps.refl _ _
    | with_reducible refine Keeps.ite (fun _ => ?_) (fun _ => ?_)
    | with_reducible refine (State.hostIssue_keeps _ _ _ _ _ ).after ?_ (by decide)
    | with_reducible refine (State.issueWrCur_keeps _ _ ).after ?_ (by decide)
    | with_reducible refine (State.partitionFault_keeps _ _ _ ).after ?_ (by decide)
    | with_reducible refine (State.filterShare_keeps _ _ ).after ?_ (by decide)
    | with_reducible refine (State.filterCollect_keeps _ _ _ _ _ _ ).after ?_ (by decide)
    | with_reducible refine Keeps.snd (by assumption) ?_
    | (lift_lets -underBinder
       repeat (
        intro x
        first
          | (have hx : Keeps 21003077 s x := by
              repeat' first
                | with_reducible assumption | with_reducible exact Keeps.refl _ _
                | with_reducible refine Keeps.ite (fun _ => ?_) (fun _ => ?_)
                | with_reducible refine (State.hostIssue_keeps _ _ _ _ _ ).after ?_ (by decide)
                | with_reducible refine (State.issueWrCur_keeps _ _ ).after ?_ (by decide)
                | with_reducible refine (State.partitionFault_keeps _ _ _ ).after ?_ (by decide)
                | with_reducible refine (State.filterShare_keeps _ _ ).after ?_ (by decide)
                | with_reducible refine (State.filterCollect_keeps _ _ _ _ _ _ ).after ?_ (by decide)
                | with_reducible refine Keeps.snd (by assumption) ?_ | split)
          | (have hx : Keeps 21003077 s x.2 := by
              repeat' first
                | with_reducible assumption | with_reducible exact Keeps.refl _ _
                | with_reducible refine Keeps.ite (fun _ => ?_) (fun _ => ?_)
                | with_reducible refine (State.hostIssue_keeps _ _ _ _ _ ).after ?_ (by decide)
                | with_reducible refine (State.issueWrCur_keeps _ _ ).after ?_ (by decide)
                | with_reducible refine (State.partitionFault_keeps _ _ _ ).after ?_ (by decide)
                | with_reducible refine (State.filterShare_keeps _ _ ).after ?_ (by decide)
                | with_reducible refine (State.filterCollect_keeps _ _ _ _ _ _ ).after ?_ (by decide)
                | with_reducible refine Keeps.snd (by assumption) ?_ | split)
          | (clear_value x)
          | skip))
    | split

theorem State.setFilterWait_keeps (s : State) (ms) :
    Keeps 256 s (State.setFilterWait s ms) := by
  unfold State.setFilterWait
  repeat' first
    | with_reducible exact Keeps.refl _ _ | with_reducible refine Keeps.ite (fun _ => ?_) (fun _ => ?_)
    | (lift_lets -underBinder; intros) | split | with_reducible refine Keeps.setCoh ?_ (by decide)

theorem State.filterPass_keeps (s : State) (blocked : List Nat) (ms : List Msg) :
    Keeps 21003077 s (State.filterPass s blocked ms) := by
  induction ms generalizing s blocked with
  | nil => exact Keeps.refl _ _
  | cons m ms ih =>
    unfold State.filterPass
    refine Keeps.ite (fun _ => ih _ _) (fun _ => Keeps.ite (fun _ => ?_) fun _ => ?_)
    · exact (ih _ _).after ((State.setFilterWait_keeps _ _).after ((State.filterServe_keeps _ _).mono (by decide)) (by decide))
        (by decide)
    · exact (ih _ _).after ((State.filterServe_keeps _ _).mono (by decide)) (by decide)

theorem State.filterServeWaiting_keeps (s : State) (n : Nat) :
    Keeps 21003077 s (State.filterServeWaiting s n) := by
  induction n generalizing s with
  | zero => exact Keeps.refl _ _
  | succ n ih =>
    unfold State.filterServeWaiting
    exact Keeps.ite (fun _ => (ih _).after (State.filterPass_keeps _ _ _) (by decide)) (fun _ => State.filterPass_keeps _ _ _)

theorem State.serveFilter_keeps (s : State) :
    Keeps 21003077 s (State.serveFilter s) := by
  unfold State.serveFilter
  repeat' first
    | with_reducible exact Keeps.refl _ _ | with_reducible refine Keeps.ite (fun _ => ?_) (fun _ => ?_)
    | with_reducible refine (State.filterServeWaiting_keeps _ _ ).after ?_ (by decide) | split

theorem State.partEvent_keeps (s : State) (p) (f) :
    Keeps 4196353 s (State.partEvent s p f) := by
  unfold State.partEvent
  repeat' first
    | with_reducible exact Keeps.refl _ _ | with_reducible refine Keeps.ite (fun _ => ?_) (fun _ => ?_)
    | with_reducible refine (State.fire_keeps _ _ _ ).after ?_ (by decide)
    | with_reducible refine (State.set_keeps _ _ _ ).after ?_ (by decide) | split

theorem State.resetFields_keeps (s : State) (at_) (ev) :
    Keeps 1 s (State.resetFields s at_ ev) := by
  unfold State.resetFields
  repeat' first
    | with_reducible exact Keeps.refl _ _ | with_reducible refine Keeps.ite (fun _ => ?_) (fun _ => ?_)
    | (lift_lets -underBinder; intros) | split
    | refine Keeps.setRegs ?_ (by decide) (by first | exact id | exact mapWf_mapSet _ _ | exact mapWf_filter _ | exact mapWf_mapSetList _ _ | exact mapWf_mapSetMasked _ _ _ | exact mapWf_mapClear _ _ | exact fun _ => rfl)

theorem State.setShares_keeps (s : State) (p) (share) :
    Keeps 1 s (State.setShares s p share) := by
  unfold State.setShares
  repeat' first
    | with_reducible exact Keeps.refl _ _ | with_reducible refine Keeps.ite (fun _ => ?_) (fun _ => ?_)
    | with_reducible refine (State.set_keeps _ _ _ ).after ?_ (by decide)
    | with_reducible refine Keeps.foldl ?_ (fun u1 _ => ?_) | split

theorem State.resetPartFields_keeps (s : State) (p) :
    Keeps 5 s (State.resetPartFields s p) := by
  unfold State.resetPartFields
  repeat' first
    | with_reducible exact Keeps.refl _ _ | with_reducible refine Keeps.ite (fun _ => ?_) (fun _ => ?_)
    | with_reducible refine (State.dropCommit_keeps _ _ ).after ?_ (by decide)
    | with_reducible refine (State.resetFields_keeps _ _ _ ).after ?_ (by decide)
    | with_reducible refine (State.setShares_keeps _ _ _ ).after ?_ (by decide) | (lift_lets -underBinder; intros) | split
    | with_reducible refine Keeps.setCfg ?_ (by decide)

theorem State.forgetPart_keeps (s : State) (p) :
    Keeps 4129 s (State.forgetPart s p) := by
  unfold State.forgetPart
  repeat' first
    | with_reducible exact Keeps.refl _ _ | with_reducible refine Keeps.ite (fun _ => ?_) (fun _ => ?_)
    | with_reducible refine (State.set_keeps _ _ _ ).after ?_ (by decide)
    | with_reducible refine (State.setJob_keeps _ _ ).after ?_ (by decide)
    | with_reducible refine (State.setAll_keeps _ _ ).after ?_ (by decide) | (lift_lets -underBinder; intros) | split
    | with_reducible refine Keeps.setLasts ?_ (by decide) | with_reducible refine Keeps.setOuter ?_ (by decide)

theorem State.resetEyelets_keeps (s : State) (p) :
    Keeps 512 s (State.resetEyelets s p) := by
  unfold State.resetEyelets
  repeat' first
    | with_reducible exact Keeps.refl _ _ | with_reducible refine Keeps.ite (fun _ => ?_) (fun _ => ?_)
    | with_reducible refine Keeps.foldl ?_ (fun u1 _ => ?_) | split | with_reducible refine Keeps.setEyelets ?_ (by decide)

theorem State.dropOld_keeps (s : State) (p) :
    Keeps 8448 s (State.dropOld s p) := by
  unfold State.dropOld
  repeat' first
    | with_reducible exact Keeps.refl _ _ | with_reducible refine Keeps.ite (fun _ => ?_) (fun _ => ?_)
    | with_reducible refine (State.setRecords_keeps _ _ ).after ?_ (by decide) | (lift_lets -underBinder; intros) | split
    | with_reducible refine Keeps.setCoh ?_ (by decide)

theorem execDrainEnd_keeps (p) (s : State) :
    KeepsO 4225829 s (execDrainEnd p s) := by
  unfold execDrainEnd
  repeat' first
    | with_reducible refine KeepsO.next ?_ | with_reducible refine KeepsO.ite (fun _ => ?_) (fun _ => ?_)
    | with_reducible exact Keeps.refl _ _ | with_reducible refine Keeps.ite (fun _ => ?_) (fun _ => ?_)
    | with_reducible refine (State.partEvent_keeps _ _ _ ).after ?_ (by decide)
    | with_reducible refine (State.setPartSt_keeps _ _ _ ).after ?_ (by decide)
    | with_reducible refine (State.set_keeps _ _ _ ).after ?_ (by decide)
    | with_reducible refine (State.resetPartFields_keeps _ _ ).after ?_ (by decide)
    | with_reducible refine (State.forgetPart_keeps _ _ ).after ?_ (by decide)
    | with_reducible refine (State.resetEyelets_keeps _ _ ).after ?_ (by decide)
    | with_reducible refine (State.dropOld_keeps _ _ ).after ?_ (by decide)
    | with_reducible refine (State.event_keeps _ _ _ _ _ _ ).after ?_ (by decide) | (lift_lets -underBinder; intros) | split

theorem State.clearL3_keeps (s : State) (d) :
    Keeps 1 s (State.clearL3 s d) := by
  unfold State.clearL3
  repeat' first
    | with_reducible exact Keeps.refl _ _ | with_reducible refine Keeps.ite (fun _ => ?_) (fun _ => ?_)
    | with_reducible refine (State.setAll_keeps _ _ ).after ?_ (by decide) | split

theorem State.setInst_keeps (s : State) (x) :
    Keeps 4096 s (State.setInst s x) := by
  unfold State.setInst
  repeat' first
    | with_reducible exact Keeps.refl _ _ | with_reducible refine Keeps.ite (fun _ => ?_) (fun _ => ?_)
    | with_reducible refine (State.setJob_keeps _ _ ).after ?_ (by decide) | (lift_lets -underBinder; intros) | split

theorem State.setTask_keeps (s : State) (k) :
    Keeps 64 s (State.setTask s k) := by
  unfold State.setTask
  repeat' first
    | with_reducible exact Keeps.refl _ _ | with_reducible refine Keeps.ite (fun _ => ?_) (fun _ => ?_)
    | (lift_lets -underBinder; intros) | split
    | refine Keeps.setTileSt ?_ (.inl (by decide)) (.inr rfl) (.inr rfl) (by first | exact id | exact mapWf_mapSet _ _ | exact mapWf_filter _ | exact mapWf_mapSetList _ _ | exact mapWf_mapSetMasked _ _ _ | exact mapWf_mapClear _ _ | exact fun _ => rfl)

theorem State.barrierDone_keeps (s : State) (p) (j) (barrier) (who) :
    Keeps 65 s (State.barrierDone s p j barrier who) := by
  unfold State.barrierDone
  repeat' first
    | with_reducible exact Keeps.refl _ _ | with_reducible refine Keeps.ite (fun _ => ?_) (fun _ => ?_)
    | with_reducible refine (State.addTo_keeps _ _ _ ).after ?_ (by decide)
    | with_reducible refine (State.setTask_keeps _ _ ).after ?_ (by decide)
    | with_reducible refine Keeps.foldl ?_ (fun u1 _ => ?_) | split

theorem State.completeInst_keeps (s : State) (p) (j) (x) :
    Keeps 4198465 s (State.completeInst s p j x) := by
  unfold State.completeInst
  repeat' first
    | with_reducible exact Keeps.refl _ _ | with_reducible refine Keeps.ite (fun _ => ?_) (fun _ => ?_)
    | with_reducible refine (State.laceDown_keeps _ _ ).after ?_ (by decide)
    | with_reducible refine (State.setJob_keeps _ _ ).after ?_ (by decide)
    | with_reducible refine (State.barrierDone_keeps _ _ _ _ _ ).after ?_ (by decide) | (lift_lets -underBinder; intros)
    | split

theorem State.checkInst_keeps (s : State) (p) (j) (x) :
    Keeps 4198465 s (State.checkInst s p j x) := by
  unfold State.checkInst
  repeat' first
    | with_reducible exact Keeps.refl _ _ | with_reducible refine Keeps.ite (fun _ => ?_) (fun _ => ?_)
    | with_reducible refine (State.setInst_keeps _ _ ).after ?_ (by decide)
    | with_reducible refine (State.completeInst_keeps _ _ _ _ ).after ?_ (by decide)
    | with_reducible refine (State.laceUp_keeps _ _ ).after ?_ (by decide)
    | with_reducible refine Keeps.foldl ?_ (fun u1 _ => ?_) | (lift_lets -underBinder; intros) | split

theorem State.badAccess_keeps (s : State) (src) (sp) (off) (width) :
    Keeps 4212737 s (State.badAccess s src sp off width) := by
  unfold State.badAccess
  repeat' first
    | with_reducible exact Keeps.refl _ _ | with_reducible refine Keeps.ite (fun _ => ?_) (fun _ => ?_)
    | with_reducible refine (State.event_keeps _ _ _ _ _ _ ).after ?_ (by decide) | split

theorem State.read_keeps (s : State) (src) (sp) (off) (width) :
    Keeps 20989953 s (State.read s src sp off width).2.2 := by
  unfold State.read
  repeat' first
    | with_reducible exact Keeps.refl _ _ | with_reducible refine Keeps.ite (fun _ => ?_) (fun _ => ?_)
    | with_reducible refine (State.draw_keeps _ ).after ?_ (by decide)
    | with_reducible refine (State.badAccess_keeps _ _ _ _ _ ).after ?_ (by decide)
    | with_reducible refine Keeps.snd (by assumption) ?_ | (lift_lets -underBinder; intros) | split

theorem State.measureFuses_keeps (s : State) :
    Keeps 1048576 s (State.measureFuses s) := by
  unfold State.measureFuses
  repeat' first
    | with_reducible exact Keeps.refl _ _ | with_reducible refine Keeps.ite (fun _ => ?_) (fun _ => ?_)
    | (lift_lets -underBinder; intros) | split
    | refine Keeps.setSecSt ?_ (.inr rfl) (.inr rfl) (.inr ⟨rfl, rfl, rfl⟩) (.inl (by decide))

theorem State.setPortSt_keeps (s : State) (k) (x) :
    Keeps 4096 s (State.setPortSt s k x) := by
  unfold State.setPortSt
  repeat' first
    | with_reducible exact Keeps.refl _ _ | with_reducible refine Keeps.ite (fun _ => ?_) (fun _ => ?_)
    | (lift_lets -underBinder; intros) | split | with_reducible refine Keeps.setOuter ?_ (by decide)

theorem State.wirePkt_keeps (s : State) (port) (h) (x) :
    Keeps 4194305 s (State.wirePkt s port h x) := by
  unfold State.wirePkt
  repeat' first
    | with_reducible exact Keeps.refl _ _ | with_reducible refine Keeps.ite (fun _ => ?_) (fun _ => ?_)
    | with_reducible refine (State.addTo_keeps _ _ _ ).after ?_ (by decide)
    | with_reducible refine (State.emit_keeps _ _ ).after ?_ (by decide) | split

theorem State.sendPkt_keeps (s : State) (p) (c) (x) :
    Keeps 4198401 s (State.sendPkt s p c x) := by
  unfold State.sendPkt
  repeat' first
    | with_reducible exact Keeps.refl _ _ | with_reducible refine Keeps.ite (fun _ => ?_) (fun _ => ?_)
    | with_reducible refine (State.setPortSt_keeps _ _ _ ).after ?_ (by decide)
    | with_reducible refine (State.wirePkt_keeps _ _ _ _ ).after ?_ (by decide) | (lift_lets -underBinder; intros) | split

theorem State.qpReply_keeps (s : State) (p) (q) (x) :
    Keeps 4198401 s (State.qpReply s p q x) := by
  unfold State.qpReply
  repeat' first
    | with_reducible exact Keeps.refl _ _ | with_reducible refine Keeps.ite (fun _ => ?_) (fun _ => ?_)
    | with_reducible refine (State.sendPkt_keeps _ _ _ _ ).after ?_ (by decide) | split

theorem State.sendAcks_keeps (s : State) (p q fuel : Nat) :
    Keeps 4198401 s (State.sendAcks s p q fuel) := by
  induction fuel generalizing s with
  | zero => exact Keeps.refl _ _
  | succ n ih =>
    unfold State.sendAcks
    extract_lets x
    split
    · refine Keeps.ite (fun _ => ?_) (fun _ => Keeps.refl _ _)
      refine (ih _).after ?_ (by decide)
      refine Keeps.ite (fun _ => ?_) (fun _ => ?_)
      · exact (State.qpReply_keeps _ _ _ _).after ((State.setQp_keeps _ _ _ _).mono (by decide)) (by decide)
      · exact (State.setQp_keeps _ _ _ _).mono (by decide)
    · exact Keeps.refl _ _

theorem State.eyeCount_keeps (s : State) (e) (n) :
    Keeps 513 s (State.eyeCount s e n) := by
  unfold State.eyeCount
  repeat' first
    | with_reducible exact Keeps.refl _ _ | with_reducible refine Keeps.ite (fun _ => ?_) (fun _ => ?_)
    | with_reducible refine (State.bump_keeps _ _ _ ).after ?_ (by decide)
    | with_reducible refine (State.addTo_keeps _ _ _ ).after ?_ (by decide)
    | with_reducible refine (State.setEye_keeps _ _ _ ).after ?_ (by decide) | (lift_lets -underBinder; intros) | split

theorem State.portWrite_keeps (s : State) (k) (p) (pa) (bs) (want) :
    Keeps 4225861 s (State.portWrite s k p pa bs want).2 := by
  unfold State.portWrite
  repeat' first
    | with_reducible assumption | with_reducible exact Keeps.refl _ _
    | with_reducible refine Keeps.ite (fun _ => ?_) (fun _ => ?_)
    | with_reducible refine (State.unmapped_keeps _ _ _ _ ).after ?_ (by decide)
    | with_reducible refine (State.issueWrite_keeps _ _ _ _ ).after ?_ (by decide)
    | with_reducible refine Keeps.foldl ?_ (fun u1 _ => ?_) | with_reducible refine Keeps.foldlSnd ?_ (fun u1 _ => ?_)
    | (lift_lets -underBinder
       repeat (
        intro x
        first
          | (have hx : Keeps 4225861 s x := by
              repeat' first
                | with_reducible assumption | with_reducible exact Keeps.refl _ _
                | with_reducible refine Keeps.ite (fun _ => ?_) (fun _ => ?_)
                | with_reducible refine (State.unmapped_keeps _ _ _ _ ).after ?_ (by decide)
                | with_reducible refine (State.issueWrite_keeps _ _ _ _ ).after ?_ (by decide)
                | with_reducible refine Keeps.foldl ?_ (fun u1 _ => ?_)
                | with_reducible refine Keeps.foldlSnd ?_ (fun u1 _ => ?_) | split)
          | skip))
    | split

theorem State.nextSlot_keeps (s : State) (p) (q) (c) :
    Keeps 4225861 s (State.nextSlot s p q c) := by
  unfold State.nextSlot
  repeat' first
    | with_reducible exact Keeps.refl _ _ | with_reducible refine Keeps.ite (fun _ => ?_) (fun _ => ?_)
    | with_reducible refine (State.portWrite_keeps _ _ _ _ _ _ ).after ?_ (by decide)
    | with_reducible refine (State.setQp_keeps _ _ _ _ ).after ?_ (by decide)
    | with_reducible refine Keeps.snd (by assumption) ?_ | (lift_lets -underBinder; intros) | split

theorem State.rxDone_keeps (s : State) (p) (q) (r) :
    Keeps 4225861 s (State.rxDone s p q r) := by
  unfold State.rxDone
  repeat' first
    | with_reducible exact Keeps.refl _ _ | with_reducible refine Keeps.ite (fun _ => ?_) (fun _ => ?_)
    | with_reducible refine (State.sendAcks_keeps _ _ _ _ ).after ?_ (by decide)
    | with_reducible refine (State.eyeCount_keeps _ _ _ ).after ?_ (by decide)
    | with_reducible refine (State.nextSlot_keeps _ _ _ _ ).after ?_ (by decide) | (lift_lets -underBinder; intros) | split

theorem State.laneFlags_keeps (s : State) (t) (g) (f) :
    Keeps 64 s (State.laneFlags s t g f) := by
  unfold State.laneFlags
  repeat' first
    | with_reducible exact Keeps.refl _ _ | with_reducible refine Keeps.ite (fun _ => ?_) (fun _ => ?_)
    | with_reducible refine (State.setGroup_keeps _ _ _ _ ).after ?_ (by decide) | (lift_lets -underBinder; intros) | split

theorem State.giveAll_keeps (s : State) (t) (g) (mask) (v) :
    Keeps 64 s (State.giveAll s t g mask v) := by
  unfold State.giveAll
  repeat' first
    | with_reducible exact Keeps.refl _ _ | with_reducible refine Keeps.ite (fun _ => ?_) (fun _ => ?_)
    | with_reducible refine (State.setGroup_keeps _ _ _ _ ).after ?_ (by decide) | (lift_lets -underBinder; intros) | split

theorem execMinMax_keeps (t : TileId) (g : Grp) (fmt : BitVec 8) (isMax : Bool) (a b : Word) (aScale bScale dstScale : Byte)
    (s : State) : KeepsO 88112965 s (execMinMax t g fmt isMax a b aScale bScale dstScale s) := by
  unfold execMinMax State.withPath
  refine KeepsO.next ?_
  have hf : Keeps 88112965 s (s.fetchPath t g).2 := (State.fetchPath_keeps _ _ _).mono (by decide)
  split
  · next k y v he =>
    rw [he] at hf
    refine (State.settleGroup_keeps _ _ _).after ?_ (by decide)
    have h0 : Keeps 88112965 s v := hf
    dsimp -zeta only
    split
    · exact (State.stepFault_keeps _ _ _ _ _ _).after h0 (by decide)
    · next f _ =>
      extract_lets -underBinder va vb fl pick put from_
      have hput : ∀ u r, Keeps 88112965 s u → Keeps 88112965 s (put u r) := fun u r hu =>
        (State.giveAll_keeps _ _ _ _ _).after ((State.laneFlags_keeps _ _ _ _).after hu (by decide)) (by decide)
      have hpick : Keeps 88112965 s pick.2 := by
        show Keeps _ _ (if f.scaled then v.pick 0 [0, 1, 2, 3] else (0, v)).2
        split
        · exact (State.pick_keeps _ _ _).after h0 (by decide)
        · exact h0
      have hfrom : ∀ x sc, Keeps 88112965 s (from_ x sc) := fun x sc =>
        Keeps.ite (fun _ => hput _ _ h0) fun _ => Keeps.ite (fun _ => hput _ _ h0) fun _ => hput _ _ hpick
      split
      · exact hfrom _ _
      · exact hfrom _ _
      · exact hput _ _ h0
  · next u he =>
    rw [he] at hf
    exact hf

theorem State.recoveryReset_keeps (s : State) (at_ : Nat → Bool) :
    Keeps 1 s (State.recoveryReset s at_) := by
  unfold State.recoveryReset
  extract_lets kept s1
  refine Keeps.setRegs ((State.resetFields_keeps s at_ _).mono (by decide)) (by decide) ?_
  generalize s1.regs = m
  generalize kept = fs
  induction fs generalizing m with
  | nil => exact id
  | cons x fs ih => exact fun h => ih _ (mapWf_mapSet _ _ h)

theorem State.filterDead_keeps (s : State) (d) (k) :
    Keeps 21003077 s (State.filterDead s d k) := by
  unfold State.filterDead
  repeat' first
    | with_reducible exact Keeps.refl _ _ | with_reducible refine Keeps.ite (fun _ => ?_) (fun _ => ?_)
    | with_reducible refine (State.freeFilter_keeps _ _ ).after ?_ (by decide)
    | with_reducible refine (State.filterDone_keeps _ _ ).after ?_ (by decide)
    | with_reducible refine (State.putFilter_keeps _ _ ).after ?_ (by decide)
    | with_reducible refine (State.serveFilter_keeps _ ).after ?_ (by decide)
    | with_reducible refine Keeps.foldl ?_ (fun u1 _ => ?_) | (lift_lets -underBinder; intros) | split

theorem State.dirRecover_keeps (s : State) (at_) :
    Keeps 256 s (State.dirRecover s at_) := by
  unfold State.dirRecover
  repeat' first
    | with_reducible exact Keeps.refl _ _ | with_reducible refine Keeps.ite (fun _ => ?_) (fun _ => ?_)
    | with_reducible refine (State.setHomeWait_keeps _ _ ).after ?_ (by decide)
    | with_reducible refine (State.setDir_keeps _ _ ).after ?_ (by decide) | (lift_lets -underBinder; intros) | split

theorem State.resetSlices_keeps (s : State) (at_) :
    Keeps 88112965 s (State.resetSlices s at_) := by
  unfold State.resetSlices
  repeat' first
    | with_reducible exact Keeps.refl _ _ | with_reducible refine Keeps.ite (fun _ => ?_) (fun _ => ?_)
    | with_reducible refine (State.setTrackers_keeps _ _ ).after ?_ (by decide)
    | with_reducible refine (State.dirRecover_keeps _ _ ).after ?_ (by decide)
    | with_reducible refine (State.dramPut_keeps _ _ _ _ ).after ?_ (by decide)
    | with_reducible refine (State.setAluQ_keeps _ _ ).after ?_ (by decide)
    | with_reducible refine (State.setL3_keeps _ _ ).after ?_ (by decide)
    | with_reducible refine (State.respond_keeps _ _ _ _ _ ).after ?_ (by decide)
    | with_reducible refine (State.send_keeps _ _ ).after ?_ (by decide)
    | with_reducible refine Keeps.foldl ?_ (fun u1 _ => ?_) | (lift_lets -underBinder; intros) | split

theorem State.fwdMissed_keeps (s : State) (e) :
    Keeps 88112965 s (State.fwdMissed s e) := by
  unfold State.fwdMissed
  repeat' first
    | with_reducible exact Keeps.refl _ _ | with_reducible refine Keeps.ite (fun _ => ?_) (fun _ => ?_)
    | with_reducible refine (State.settle_keeps _ _ _ _ ).after ?_ (by decide)
    | with_reducible refine (State.readLine_keeps _ _ _ ).after ?_ (by decide)
    | with_reducible refine (State.serveHome_keeps _ ).after ?_ (by decide) | (lift_lets -underBinder; intros) | split

theorem State.deadEnt_keeps (s : State) (k) (e) :
    Keeps 88112965 s (State.deadEnt s k e) := by
  unfold State.deadEnt
  repeat' first
    | with_reducible exact Keeps.refl _ _ | with_reducible refine Keeps.ite (fun _ => ?_) (fun _ => ?_)
    | with_reducible refine (State.lostLine_keeps _ _ ).after ?_ (by decide)
    | with_reducible refine (State.putEnt_keeps _ _ ).after ?_ (by decide)
    | with_reducible refine (State.fwdMissed_keeps _ _ ).after ?_ (by decide)
    | with_reducible refine (State.settle_keeps _ _ _ _ ).after ?_ (by decide)
    | with_reducible refine (State.checkOwed_keeps _ _ ).after ?_ (by decide)
    | with_reducible refine (State.freeEnt_keeps _ _ ).after ?_ (by decide) | (lift_lets -underBinder; intros) | split

theorem State.declareAt_keeps (s : State) (d) (k) :
    Keeps 88112965 s (State.declareAt s d k) := by
  unfold State.declareAt
  repeat' first
    | with_reducible exact Keeps.refl _ _ | with_reducible refine Keeps.ite (fun _ => ?_) (fun _ => ?_)
    | with_reducible refine (State.set_keeps _ _ _ ).after ?_ (by decide)
    | with_reducible refine (State.serveHome_keeps _ ).after ?_ (by decide)
    | with_reducible refine (State.deadEnt_keeps _ _ _ ).after ?_ (by decide)
    | with_reducible refine (State.setBitOf_keeps _ _ _ _ ).after ?_ (by decide)
    | with_reducible refine Keeps.foldl ?_ (fun u1 _ => ?_) | (lift_lets -underBinder; intros) | split

theorem State.recoverDie_keeps (s : State) (d) :
    Keeps 88178501 s (State.recoverDie s d) := by
  unfold State.recoverDie
  repeat' first
    | with_reducible exact Keeps.refl _ _ | with_reducible refine Keeps.ite (fun _ => ?_) (fun _ => ?_)
    | with_reducible refine (State.setAwl_keeps _ _ ).after ?_ (by decide)
    | with_reducible refine (State.abortSlices_keeps _ _ ).after ?_ (by decide)
    | with_reducible refine (State.filterDead_keeps _ _ _ ).after ?_ (by decide)
    | with_reducible refine (State.resetSlices_keeps _ _ ).after ?_ (by decide)
    | with_reducible refine (State.recoveryReset_keeps _ _ ).after ?_ (by decide)
    | with_reducible refine (State.declareAt_keeps _ _ _ ).after ?_ (by decide)
    | with_reducible refine Keeps.foldl ?_ (fun u1 _ => ?_) | (lift_lets -underBinder; intros) | split
    | with_reducible refine Keeps.setCoh ?_ (by decide) | with_reducible refine Keeps.setEyelets ?_ (by decide)

theorem State.showReplay_keeps (s : State) :
    Keeps 1 s (State.showReplay s) := by
  unfold State.showReplay
  repeat' first
    | with_reducible exact Keeps.refl _ _ | with_reducible refine Keeps.ite (fun _ => ?_) (fun _ => ?_)
    | with_reducible refine (State.setAll_keeps _ _ ).after ?_ (by decide) | (lift_lets -underBinder; intros) | split

theorem State.abandonUnits_keeps (s : State) (at_) (cause) :
    Keeps 4225861 s (State.abandonUnits s at_ cause) := by
  unfold State.abandonUnits
  repeat' first
    | with_reducible exact Keeps.refl _ _ | with_reducible refine Keeps.ite (fun _ => ?_) (fun _ => ?_)
    | with_reducible refine (State.teardown_keeps _ _ _ ).after ?_ (by decide)
    | with_reducible refine (State.setFlt_keeps _ _ ).after ?_ (by decide)
    | with_reducible refine (State.showReplay_keeps _ ).after ?_ (by decide)
    | with_reducible refine Keeps.foldl ?_ (fun u1 _ => ?_) | (lift_lets -underBinder; intros) | split

theorem State.abortLoad_keeps (s : State) :
    Keeps 4212749 s (State.abortLoad s) := by
  unfold State.abortLoad
  repeat' first
    | with_reducible exact Keeps.refl _ _ | with_reducible refine Keeps.ite (fun _ => ?_) (fun _ => ?_)
    | with_reducible refine (State.stopLoad_keeps _ _ ).after ?_ (by decide) | split

theorem State.resetDevice_keeps (s : State) (cause) :
    Keeps 88178509 s (State.resetDevice s cause) := by
  unfold State.resetDevice
  repeat' first
    | with_reducible exact Keeps.refl _ _ | with_reducible refine Keeps.ite (fun _ => ?_) (fun _ => ?_)
    | with_reducible refine (State.dropCommit_keeps _ _ ).after ?_ (by decide)
    | with_reducible refine (State.teardown_keeps _ _ _ ).after ?_ (by decide)
    | with_reducible refine (State.setFlt_keeps _ _ ).after ?_ (by decide)
    | with_reducible refine (State.recoveryReset_keeps _ _ ).after ?_ (by decide)
    | with_reducible refine (State.recoverDie_keeps _ _ ).after ?_ (by decide)
    | with_reducible refine (State.abandonUnits_keeps _ _ _ ).after ?_ (by decide)
    | with_reducible refine (State.setAll_keeps _ _ ).after ?_ (by decide)
    | with_reducible refine (State.abortLoad_keeps _ ).after ?_ (by decide)
    | with_reducible refine (State.event_keeps _ _ _ _ _ _ ).after ?_ (by decide)
    | with_reducible refine Keeps.foldl ?_ (fun u1 _ => ?_) | (lift_lets -underBinder; intros) | split
    | with_reducible refine Keeps.setCfg ?_ (by decide)

theorem State.startTransition_keeps (s : State) (lc) (owner) :
    Keeps 88702797 s (State.startTransition s lc owner) := by
  unfold State.startTransition
  repeat' first
    | with_reducible exact Keeps.refl _ _ | with_reducible refine Keeps.ite (fun _ => ?_) (fun _ => ?_)
    | with_reducible refine Keeps.viaSec ?_ (.inr rfl) (.inr rfl) (.inl (by decide)) (.inr rfl)
    | with_reducible refine (State.resetDevice_keeps _ _ ).after ?_ (by decide)
    | with_reducible refine (State.set_keeps _ _ _ ).after ?_ (by decide)
    | with_reducible refine (State.abortLoad_keeps _ ).after ?_ (by decide) | (lift_lets -underBinder; intros) | split

theorem State.acceptCommand_keeps (s : State) (img) :
    Keeps 88702797 s (State.acceptCommand s img) := by
  unfold State.acceptCommand
  repeat' first
    | with_reducible exact Keeps.refl _ _ | with_reducible refine Keeps.ite (fun _ => ?_) (fun _ => ?_)
    | with_reducible refine Keeps.viaSec ?_ (.inr rfl) (.inr rfl) (.inl (by decide)) (.inr rfl)
    | with_reducible refine (State.set_keeps _ _ _ ).after ?_ (by decide)
    | with_reducible refine (State.startTransition_keeps _ _ _ ).after ?_ (by decide) | (lift_lets -underBinder; intros)
    | split

theorem State.newChallenge_keeps (s : State) (f) :
    Keeps 16777217 s (State.newChallenge s f) := by
  unfold State.newChallenge
  repeat' first
    | with_reducible exact Keeps.refl _ _ | with_reducible refine Keeps.ite (fun _ => ?_) (fun _ => ?_)
    | with_reducible refine (State.draw_keeps _ ).after ?_ (by decide)
    | with_reducible refine (State.set_keeps _ _ _ ).after ?_ (by decide)
    | with_reducible refine Keeps.snd (by assumption) ?_ | split

theorem State.fetchImage_keeps (s : State) (host) (addr) (len) (hostImage) (fetched) :
    Keeps 88099841 s (State.fetchImage s host addr len hostImage fetched).2 := by
  unfold State.fetchImage
  repeat' first
    | with_reducible exact Keeps.refl _ _ | with_reducible refine Keeps.ite (fun _ => ?_) (fun _ => ?_)
    | with_reducible refine (State.logUe_keeps _ _ _ ).after ?_ (by decide)
    | with_reducible refine (State.checkUnits_keeps _ _ ).after ?_ (by decide)
    | with_reducible refine Keeps.foldl ?_ (fun u1 _ => ?_) | with_reducible refine Keeps.foldlSnd ?_ (fun u1 _ => ?_)
    | (lift_lets -underBinder; intros) | split

theorem State.lifeRead_keeps (s : State) (want : Option Nat) (hostImage : List Byte) (fetched : Bool) :
    Keeps 88702797 s (State.lifeRead s want hostImage fetched) := by
  unfold State.lifeRead
  have h := (State.fetchImage_keeps s (s.flag fSecCmdCtrl_host) (64 * s.get fSecCmdAddr_addr) 1280 hostImage fetched).mono
    (m := 88702797) (by decide)
  generalize s.fetchImage (s.flag fSecCmdCtrl_host) (64 * s.get fSecCmdAddr_addr) 1280 hostImage fetched = r at h
  obtain ⟨img, u⟩ := r
  dsimp -zeta only
  extract_lets -underBinder w err v
  have hv : Keeps 88702797 s v := (State.newChallenge_keeps _ _).after ((State.set_keeps _ _ _).after h (by decide)) (by decide)
  clear_value v err
  split
  · exact (State.acceptCommand_keeps _ _).after hv (by decide)
  · exact (State.event_keeps _ _ _ _ _ _).after hv (by decide)

theorem State.setBadReads_keeps (s : State) (rs) :
    Keeps 1048576 s (State.setBadReads s rs) := by
  unfold State.setBadReads
  repeat' first
    | with_reducible exact Keeps.refl _ _ | with_reducible refine Keeps.ite (fun _ => ?_) (fun _ => ?_)
    | (lift_lets -underBinder; intros) | split
    | refine Keeps.setSecSt ?_ (.inr rfl) (.inr rfl) (.inr ⟨rfl, rfl, rfl⟩) (.inl (by decide))

theorem State.startImage_keeps (s : State) (reader) (host) (addr) (len) :
    Keeps 5274437 s (State.startImage s reader host addr len) := by
  unfold State.startImage
  repeat' first
    | with_reducible exact Keeps.refl _ _ | with_reducible refine Keeps.ite (fun _ => ?_) (fun _ => ?_)
    | with_reducible refine (State.setBadReads_keeps _ _ ).after ?_ (by decide)
    | with_reducible refine (State.ctlSend_keeps _ _ _ ).after ?_ (by decide)
    | with_reducible refine (State.emit_keeps _ _ ).after ?_ (by decide)
    | with_reducible refine Keeps.foldl ?_ (fun u1 _ => ?_) | (lift_lets -underBinder; intros) | split

theorem State.readThen_keeps {m : Nat} (s : State) (w : ImageWait) (host : Bool) (addr len : Nat) (hold run : State → State)
    (hm : ((5274437 : Nat).land m).beq 5274437 = true) (hh : ∀ u, Keeps m u (hold u)) (hr : ∀ u, Keeps m u (run u)) :
    Keeps m s (s.readThen w host addr len hold run) := by
  unfold State.readThen
  have h := (State.startImage_keeps s w.reader host addr len).mono (m := 5274437) (by decide)
  extract_lets v
  have hv : Keeps 5274437 s v := h
  clear_value v
  have go {a b : State} (g : Keeps m a b) (k : Keeps 5274437 s a) : Keeps m s b :=
    g.after (k.mono hm) (by show (m &&& m).beq m = true; simp)
  refine Keeps.ite (fun _ => go (hr _) hv) fun _ => go (hh _) ?_
  exact hv.viaSec (.inr rfl) (.inr rfl) (.inr ⟨rfl, rfl, rfl⟩) (.inl (by decide))

theorem State.lifeCommand_keeps (s : State) (want : Option Nat) (hostImage : List Byte) (fetched : Bool) :
    Keeps 89751373 s (State.lifeCommand s want hostImage fetched) := by
  unfold State.lifeCommand
  refine Keeps.ite (fun _ => (State.set_keeps _ _ _).mono (by decide)) fun _ => ?_
  exact State.readThen_keeps _ _ _ _ _ _ _ (by decide) (fun _ => (State.set_keeps _ _ _).mono (by decide))
    fun _ => (State.lifeRead_keeps _ _ _ _).mono (by decide)

theorem execTakeOwnership_keeps (hostImage) (fetched) (s : State) :
    KeepsO 89751373 s (execTakeOwnership hostImage fetched s) := by
  unfold execTakeOwnership
  repeat' first
    | with_reducible refine KeepsO.next ?_ | with_reducible refine KeepsO.ite (fun _ => ?_) (fun _ => ?_)
    | with_reducible exact Keeps.refl _ _ | with_reducible refine Keeps.ite (fun _ => ?_) (fun _ => ?_)
    | with_reducible refine (State.lifeCommand_keeps _ _ _ _ ).after ?_ (by decide) | split

theorem State.sendReport_keeps (s : State) (j) :
    Keeps 4198401 s (State.sendReport s j) := by
  unfold State.sendReport
  repeat' first
    | with_reducible exact Keeps.refl _ _ | with_reducible refine Keeps.ite (fun _ => ?_) (fun _ => ?_)
    | with_reducible refine (State.set_keeps _ _ _ ).after ?_ (by decide)
    | with_reducible refine (State.setJob_keeps _ _ ).after ?_ (by decide)
    | with_reducible refine (State.laceUp_keeps _ _ ).after ?_ (by decide) | (lift_lets -underBinder; intros) | split

theorem State.passRecords_keeps (s : State) (p) (cq) :
    Keeps 4225861 s (State.passRecords s p cq) := by
  unfold State.passRecords
  repeat' first
    | with_reducible exact Keeps.refl _ _ | with_reducible refine Keeps.ite (fun _ => ?_) (fun _ => ?_)
    | with_reducible refine (State.setRecords_keeps _ _ ).after ?_ (by decide)
    | with_reducible refine (State.addTo_keeps _ _ _ ).after ?_ (by decide)
    | with_reducible refine (State.set_keeps _ _ _ ).after ?_ (by decide)
    | with_reducible refine (State.schedWrite_keeps _ _ _ _ _ ).after ?_ (by decide) | (lift_lets -underBinder; intros)
    | split

theorem State.phaseAccepted_keeps (s : State) (p) (cq) (index) :
    Keeps 4225861 s (State.phaseAccepted s p cq index) := by
  unfold State.phaseAccepted
  repeat' first
    | with_reducible exact Keeps.refl _ _ | with_reducible refine Keeps.ite (fun _ => ?_) (fun _ => ?_)
    | with_reducible refine (State.fire_keeps _ _ _ ).after ?_ (by decide)
    | with_reducible refine (State.setRecords_keeps _ _ ).after ?_ (by decide)
    | with_reducible refine (State.passRecords_keeps _ _ _ ).after ?_ (by decide) | (lift_lets -underBinder; intros) | split

theorem State.cfgWrite_keeps (s : State) (fn) (off) (v) :
    Keeps 2048 s (State.cfgWrite s fn off v) := by
  unfold State.cfgWrite
  repeat' first
    | with_reducible exact Keeps.refl _ _ | with_reducible refine Keeps.ite (fun _ => ?_) (fun _ => ?_)
    | with_reducible refine (State.setUci_keeps _ _ ).after ?_ (by decide) | (lift_lets -underBinder; intros) | split

theorem State.showPpr_keeps (s : State) (d) :
    Keeps 1 s (State.showPpr s d) := by
  unfold State.showPpr
  repeat' first
    | with_reducible exact Keeps.refl _ _ | with_reducible refine Keeps.ite (fun _ => ?_) (fun _ => ?_)
    | with_reducible refine (State.setAll_keeps _ _ ).after ?_ (by decide) | (lift_lets -underBinder; intros) | split

theorem execRepairListWrite_keeps (d) (s : State) :
    KeepsO 263169 s (execRepairListWrite d s) := by
  unfold execRepairListWrite
  repeat' first
    | with_reducible refine KeepsO.next ?_ | with_reducible refine KeepsO.ite (fun _ => ?_) (fun _ => ?_)
    | with_reducible exact Keeps.refl _ _ | with_reducible refine Keeps.ite (fun _ => ?_) (fun _ => ?_)
    | with_reducible refine (State.set_keeps _ _ _ ).after ?_ (by decide)
    | with_reducible refine (State.showPpr_keeps _ _ ).after ?_ (by decide)
    | with_reducible refine Keeps.foldl ?_ (fun u1 _ => ?_) | (lift_lets -underBinder; intros) | split
    | refine Keeps.setSecSt ?_ (.inr rfl) (.inl (by decide)) (.inr ⟨rfl, rfl, rfl⟩) (.inr rfl)
    | refine Keeps.setDramSt ?_ (.inl (by decide)) (.inr rfl) (by first | exact id | exact mapWf_mapSet _ _ | exact mapWf_filter _ | exact mapWf_mapSetList _ _ | exact mapWf_mapSetMasked _ _ _ | exact mapWf_mapClear _ _ | exact fun _ => rfl)

theorem State.setHostOpen_keeps (s : State) (ms) :
    Keeps 2048 s (State.setHostOpen s ms) := by
  unfold State.setHostOpen
  repeat' first
    | with_reducible exact Keeps.refl _ _ | with_reducible refine Keeps.ite (fun _ => ?_) (fun _ => ?_)
    | with_reducible refine (State.setUci_keeps _ _ ).after ?_ (by decide) | (lift_lets -underBinder; intros) | split

theorem State.hostSend_keeps (s : State) (m) :
    Keeps 2304 s (State.hostSend s m) := by
  unfold State.hostSend
  repeat' first
    | with_reducible exact Keeps.refl _ _ | with_reducible refine Keeps.ite (fun _ => ?_) (fun _ => ?_)
    | with_reducible refine (State.setHostOpen_keeps _ _ ).after ?_ (by decide)
    | with_reducible refine (State.send_keeps _ _ ).after ?_ (by decide) | split

theorem State.rasError_keeps (s : State) (bit) :
    Keeps 2048 s (State.rasError s bit) := by
  unfold State.rasError
  repeat' first
    | with_reducible exact Keeps.refl _ _ | with_reducible refine Keeps.ite (fun _ => ?_) (fun _ => ?_)
    | with_reducible refine (State.setUci_keeps _ _ ).after ?_ (by decide) | (lift_lets -underBinder; intros) | split

theorem State.unsupported_keeps (s : State) :
    Keeps 2049 s (State.unsupported s) := by
  unfold State.unsupported
  repeat' first
    | with_reducible exact Keeps.refl _ _ | with_reducible refine Keeps.ite (fun _ => ?_) (fun _ => ?_)
    | with_reducible refine (State.addTo_keeps _ _ _ ).after ?_ (by decide)
    | with_reducible refine (State.rasError_keeps _ _ ).after ?_ (by decide) | split

theorem execMemWr_keeps (h) (mv) (tag) (enables) (bytes) (s : State) :
    KeepsO 2305 s (execMemWr h mv tag enables bytes s) := by
  unfold execMemWr State.fromHost
  repeat' first
    | with_reducible refine KeepsO.next ?_ | with_reducible refine KeepsO.ite (fun _ => ?_) (fun _ => ?_)
    | with_reducible exact Keeps.refl _ _ | with_reducible refine Keeps.ite (fun _ => ?_) (fun _ => ?_)
    | with_reducible refine (State.hostSend_keeps _ _ ).after ?_ (by decide)
    | with_reducible refine (State.unsupported_keeps _ ).after ?_ (by decide) | (lift_lets -underBinder; intros)
    | dsimp -zeta only | split

theorem State.unpowered_keeps (s : State) : Keeps 238682111 s (State.unpowered s) := by
  constructor <;> first
    | exact fun _ => rfl
    | exact fun h => absurd h (by decide)
    | rfl
    | exact fun _ => ⟨by show mapWf 0 coldRegs = true; decide, rfl, rfl⟩

theorem State.losePower_keeps (s : State) :
    Keeps 255590399 s (State.losePower s) := by
  unfold State.losePower
  repeat' first
    | with_reducible exact Keeps.refl _ _ | with_reducible refine Keeps.ite (fun _ => ?_) (fun _ => ?_)
    | with_reducible refine Keeps.viaSec ?_ (.inl (by decide)) (.inr rfl) (.inr ⟨rfl, rfl, rfl⟩) (.inr rfl)
    | with_reducible refine (State.draw_keeps _ ).after ?_ (by decide)
    | with_reducible refine (State.unpowered_keeps _ ).after ?_ (by decide)
    | with_reducible refine Keeps.snd (by assumption) ?_ | (lift_lets -underBinder; intros) | split

theorem execMreset_keeps (s : State) :
    KeepsO 255590399 s (execMreset s) := by
  unfold execMreset
  repeat' first
    | with_reducible refine KeepsO.next ?_ | with_reducible refine KeepsO.ite (fun _ => ?_) (fun _ => ?_)
    | with_reducible exact Keeps.refl _ _ | with_reducible refine Keeps.ite (fun _ => ?_) (fun _ => ?_)
    | with_reducible refine (State.losePower_keeps _ ).after ?_ (by decide) | split

theorem State.advanceTo_keeps (s : State) (t) :
    Keeps 2 s (State.advanceTo s t) := by
  unfold State.advanceTo
  repeat' first
    | with_reducible exact Keeps.refl _ _ | with_reducible refine Keeps.ite (fun _ => ?_) (fun _ => ?_)
    | (lift_lets -underBinder; intros) | split | with_reducible refine Keeps.setClock ?_ (by decide)

theorem State.dropLoads_keeps (s : State) (t) :
    Keeps 256 s (State.dropLoads s t) := by
  unfold State.dropLoads
  repeat' first
    | with_reducible exact Keeps.refl _ _ | with_reducible refine Keeps.ite (fun _ => ?_) (fun _ => ?_)
    | (lift_lets -underBinder; intros) | split | with_reducible refine Keeps.setCoh ?_ (by decide)

theorem State.spoilLoads_keeps (s : State) (t) (stale) :
    Keeps 256 s (State.spoilLoads s t stale) := by
  unfold State.spoilLoads
  repeat' first
    | with_reducible exact Keeps.refl _ _ | with_reducible refine Keeps.ite (fun _ => ?_) (fun _ => ?_)
    | (lift_lets -underBinder; intros) | split | with_reducible refine Keeps.setCoh ?_ (by decide)

theorem State.acquire_keeps (s : State) (t) (scope) :
    Keeps 320 s (State.acquire s t scope) := by
  unfold State.acquire
  repeat' first
    | with_reducible exact Keeps.refl _ _ | with_reducible refine Keeps.ite (fun _ => ?_) (fun _ => ?_)
    | with_reducible refine (State.setL1_keeps _ _ _ ).after ?_ (by decide)
    | with_reducible refine (State.spoilLoads_keeps _ _ _ ).after ?_ (by decide) | (lift_lets -underBinder; intros) | split

theorem State.wake_keeps (s : State) (t) (scratch) (granule) :
    Keeps 64 s (State.wake s t scratch granule) := by
  unfold State.wake
  repeat' first
    | with_reducible exact Keeps.refl _ _ | with_reducible refine Keeps.ite (fun _ => ?_) (fun _ => ?_)
    | with_reducible refine (State.setGroup_keeps _ _ _ _ ).after ?_ (by decide)
    | with_reducible refine Keeps.foldl ?_ (fun u1 _ => ?_) | (lift_lets -underBinder; intros) | split

theorem State.finishCas_keeps (s : State) (t) (g) (i) (failed) (grs) :
    Keeps 4225861 s (State.finishCas s t g i failed grs) := by
  unfold State.finishCas
  repeat' first
    | with_reducible exact Keeps.refl _ _ | with_reducible refine Keeps.ite (fun _ => ?_) (fun _ => ?_)
    | with_reducible refine (State.setGroup_keeps _ _ _ _ ).after ?_ (by decide)
    | with_reducible refine (State.settleGroup_keeps _ _ _ ).after ?_ (by decide)
    | with_reducible refine (State.addTo_keeps _ _ _ ).after ?_ (by decide)
    | with_reducible refine (State.stepFault_keeps _ _ _ _ _ _ ).after ?_ (by decide) | (lift_lets -underBinder; intros)
    | split

theorem State.giveLane_keeps (s : State) (t) (g) (lane) (v) :
    Keeps 64 s (State.giveLane s t g lane v) := by
  unfold State.giveLane
  repeat' first
    | with_reducible exact Keeps.refl _ _ | with_reducible refine Keeps.ite (fun _ => ?_) (fun _ => ?_)
    | with_reducible refine (State.setGroup_keeps _ _ _ _ ).after ?_ (by decide) | (lift_lets -underBinder; intros) | split

theorem State.atomicDone_keeps (s : State) (t) (g) (lane) (key) (compare) (old) (hint) (acquire) :
    Keeps 4225861 s (State.atomicDone s t g lane key compare old hint acquire) := by
  unfold State.atomicDone
  repeat' first
    | with_reducible exact Keeps.refl _ _ | with_reducible refine Keeps.ite (fun _ => ?_) (fun _ => ?_)
    | with_reducible refine (State.acquire_keeps _ _ _ ).after ?_ (by decide)
    | with_reducible refine (State.setGroup_keeps _ _ _ _ ).after ?_ (by decide)
    | with_reducible refine (State.settleGroup_keeps _ _ _ ).after ?_ (by decide)
    | with_reducible refine (State.wake_keeps _ _ _ _ ).after ?_ (by decide)
    | with_reducible refine (State.finishCas_keeps _ _ _ _ _ _ ).after ?_ (by decide)
    | with_reducible refine (State.giveLane_keeps _ _ _ _ _ ).after ?_ (by decide) | (lift_lets -underBinder; intros) | split

theorem State.takeRequest_keeps (s : State) (m) :
    Keeps 88112965 s (State.takeRequest s m) := by
  unfold State.takeRequest
  repeat' first
    | with_reducible exact Keeps.refl _ _ | with_reducible refine Keeps.ite (fun _ => ?_) (fun _ => ?_)
    | with_reducible refine (State.setHomeWait_keeps _ _ ).after ?_ (by decide)
    | with_reducible refine (State.addTo_keeps _ _ _ ).after ?_ (by decide)
    | with_reducible refine (State.serveHome_keeps _ ).after ?_ (by decide)
    | with_reducible refine (State.tryServe_keeps _ _ ).after ?_ (by decide)
    | with_reducible refine Keeps.snd (by assumption) ?_ | (lift_lets -underBinder; intros) | split

theorem State.stageFails_keeps (s : State) (version) (code) :
    Keeps 5261313 s (State.stageFails s version code) := by
  unfold State.stageFails
  repeat' first
    | with_reducible exact Keeps.refl _ _ | with_reducible refine Keeps.ite (fun _ => ?_) (fun _ => ?_)
    | with_reducible refine Keeps.viaSec ?_ (.inr rfl) (.inr rfl) (.inr ⟨rfl, rfl, rfl⟩) (.inl (by decide))
    | with_reducible refine (State.setAll_keeps _ _ ).after ?_ (by decide)
    | with_reducible refine (State.event_keeps _ _ _ _ _ _ ).after ?_ (by decide) | (lift_lets -underBinder; intros) | split

theorem State.fwRead_keeps (s : State) (hostImage) (fetched) :
    Keeps 89148417 s (State.fwRead s hostImage fetched) := by
  unfold State.fwRead
  repeat' first
    | with_reducible exact Keeps.refl _ _ | with_reducible refine Keeps.ite (fun _ => ?_) (fun _ => ?_)
    | with_reducible refine Keeps.viaSec ?_ (.inr rfl) (.inr rfl) (.inr ⟨rfl, rfl, rfl⟩) (.inl (by decide))
    | with_reducible refine (State.stageFails_keeps _ _ _ ).after ?_ (by decide)
    | with_reducible refine (State.set_keeps _ _ _ ).after ?_ (by decide)
    | with_reducible refine (State.fetchImage_keeps _ _ _ _ _ _ ).after ?_ (by decide)
    | with_reducible refine Keeps.snd (by assumption) ?_ | (lift_lets -underBinder; intros) | split

theorem State.rtsDone_keeps (s : State) (err) :
    Keeps 4212737 s (State.rtsDone s err) := by
  unfold State.rtsDone
  repeat' first
    | with_reducible exact Keeps.refl _ _ | with_reducible refine Keeps.ite (fun _ => ?_) (fun _ => ?_)
    | with_reducible refine (State.setFlt_keeps _ _ ).after ?_ (by decide)
    | with_reducible refine (State.setAll_keeps _ _ ).after ?_ (by decide)
    | with_reducible refine (State.event_keeps _ _ _ _ _ _ ).after ?_ (by decide) | (lift_lets -underBinder; intros) | split

theorem State.rtsRead_keeps (s : State) (hostImage) (fetched) :
    Keeps 88099841 s (State.rtsRead s hostImage fetched) := by
  unfold State.rtsRead
  repeat' first
    | with_reducible exact Keeps.refl _ _ | with_reducible refine Keeps.ite (fun _ => ?_) (fun _ => ?_)
    | with_reducible refine (State.rtsDone_keeps _ _ ).after ?_ (by decide)
    | with_reducible refine (State.fetchImage_keeps _ _ _ _ _ _ ).after ?_ (by decide)
    | with_reducible refine Keeps.snd (by assumption) ?_ | split

theorem State.runImage_keeps (s : State) (w) :
    Keeps 89751373 s (State.runImage s w) := by
  unfold State.runImage
  repeat' first
    | with_reducible exact Keeps.refl _ _ | with_reducible refine Keeps.ite (fun _ => ?_) (fun _ => ?_)
    | with_reducible refine Keeps.viaSec ?_ (.inr rfl) (.inr rfl) (.inr ⟨rfl, rfl, rfl⟩) (.inl (by decide))
    | with_reducible refine (State.fwRead_keeps _ _ _ ).after ?_ (by decide)
    | with_reducible refine (State.lifeRead_keeps _ _ _ _ ).after ?_ (by decide)
    | with_reducible refine (State.set_keeps _ _ _ ).after ?_ (by decide)
    | with_reducible refine (State.rtsRead_keeps _ _ _ ).after ?_ (by decide) | (lift_lets -underBinder; intros) | split

theorem State.setPowerDie_keeps (s : State) (d) (x) :
    Keeps 32768 s (State.setPowerDie s d x) := by
  unfold State.setPowerDie
  repeat' first
    | with_reducible exact Keeps.refl _ _ | with_reducible refine Keeps.ite (fun _ => ?_) (fun _ => ?_)
    | (lift_lets -underBinder; intros) | split | with_reducible refine Keeps.setPower ?_ (by decide)

theorem State.excludeSensor_keeps (s : State) (d) (n) :
    Keeps 32768 s (State.excludeSensor s d n) := by
  unfold State.excludeSensor
  repeat' first
    | with_reducible exact Keeps.refl _ _ | with_reducible refine Keeps.ite (fun _ => ?_) (fun _ => ?_)
    | with_reducible refine (State.setPowerDie_keeps _ _ _ ).after ?_ (by decide) | (lift_lets -underBinder; intros) | split

theorem State.noteSpare_keeps (s : State) (d) (k) (unit) (ok) :
    Keeps 65536 s (State.noteSpare s d k unit ok) := by
  unfold State.noteSpare
  repeat' first
    | with_reducible exact Keeps.refl _ _ | with_reducible refine Keeps.ite (fun _ => ?_) (fun _ => ?_)
    | with_reducible refine (State.setAwl_keeps _ _ ).after ?_ (by decide) | (lift_lets -underBinder; intros) | split

theorem State.applyHwb_keeps (s : State) (m) :
    Keeps 88112965 s (State.applyHwb s m) := by
  unfold State.applyHwb
  repeat' first
    | with_reducible exact Keeps.refl _ _ | with_reducible refine Keeps.ite (fun _ => ?_) (fun _ => ?_)
    | with_reducible refine (State.sliceWrite_keeps _ _ _ _ _ ).after ?_ (by decide) | (lift_lets -underBinder; intros)
    | split

theorem State.takeHwb_keeps (s : State) (m) :
    Keeps 88112965 s (State.takeHwb s m) := by
  unfold State.takeHwb
  repeat' first
    | with_reducible exact Keeps.refl _ _ | with_reducible refine Keeps.ite (fun _ => ?_) (fun _ => ?_)
    | with_reducible refine (State.applyHwb_keeps _ _ ).after ?_ (by decide)
    | with_reducible refine (State.cmpOnly_keeps _ _ _ ).after ?_ (by decide)
    | with_reducible refine (State.countProto_keeps _ _ ).after ?_ (by decide) | (lift_lets -underBinder; intros) | split

theorem State.stage_keeps (s : State) (l) :
    Keeps 88112973 s (State.stage s l) := by
  unfold State.stage
  repeat' first
    | with_reducible exact Keeps.refl _ _ | with_reducible refine Keeps.ite (fun _ => ?_) (fun _ => ?_)
    | with_reducible refine (State.fire_keeps _ _ _ ).after ?_ (by decide)
    | with_reducible refine (State.set_keeps _ _ _ ).after ?_ (by decide)
    | with_reducible refine (State.writeProgram_keeps _ _ ).after ?_ (by decide)
    | with_reducible refine (State.event_keeps _ _ _ _ _ _ ).after ?_ (by decide) | (lift_lets -underBinder; intros) | split
    | with_reducible refine Keeps.setLdr ?_ (by decide)

theorem State.loadVerified_keeps (s : State) (img) :
    Keeps 88112973 s (State.loadVerified s img) := by
  unfold State.loadVerified
  repeat' first
    | with_reducible exact Keeps.refl _ _ | with_reducible refine Keeps.ite (fun _ => ?_) (fun _ => ?_)
    | with_reducible refine (State.endLoad_keeps _ _ _ ).after ?_ (by decide)
    | with_reducible refine (State.stage_keeps _ _ ).after ?_ (by decide)
    | with_reducible refine (State.set_keeps _ _ _ ).after ?_ (by decide)
    | with_reducible refine (State.pick_keeps _ _ _ ).after ?_ (by decide)
    | with_reducible refine (State.setAll_keeps _ _ ).after ?_ (by decide)
    | with_reducible refine Keeps.snd (by assumption) ?_ | (lift_lets -underBinder; intros) | split

theorem State.trip_keeps (s : State) (d) (reading) (dram) :
    Keeps 4245505 s (State.trip s d reading dram) := by
  unfold State.trip
  repeat' first
    | with_reducible exact Keeps.refl _ _ | with_reducible refine Keeps.ite (fun _ => ?_) (fun _ => ?_)
    | with_reducible refine (State.setPowerDie_keeps _ _ _ ).after ?_ (by decide)
    | with_reducible refine (State.set_keeps _ _ _ ).after ?_ (by decide)
    | with_reducible refine (State.setAll_keeps _ _ ).after ?_ (by decide)
    | with_reducible refine (State.event_keeps _ _ _ _ _ _ ).after ?_ (by decide)
    | with_reducible refine Keeps.foldl ?_ (fun u1 _ => ?_) | (lift_lets -underBinder; intros) | split

theorem execDieHeartbeatSend_keeps (a0) (s : State) :
    KeepsO 0 s (execDieHeartbeatSend a0 s) := by
  unfold execDieHeartbeatSend
  repeat' first
    | with_reducible refine KeepsO.next ?_ | with_reducible refine KeepsO.ite (fun _ => ?_) (fun _ => ?_)
    | with_reducible exact Keeps.refl _ _ | with_reducible refine Keeps.ite (fun _ => ?_) (fun _ => ?_) | split

theorem State.ringFails_keeps (s : State) (p) (k) (code) :
    Keeps 4196353 s (State.ringFails s p k code) := by
  unfold State.ringFails
  repeat' first
    | with_reducible exact Keeps.refl _ _ | with_reducible refine Keeps.ite (fun _ => ?_) (fun _ => ?_)
    | with_reducible refine (State.partEvent_keeps _ _ _ ).after ?_ (by decide)
    | with_reducible refine (State.setAll_keeps _ _ ).after ?_ (by decide) | split

theorem State.ringUnread_keeps (s : State) (p) (k) (pa) :
    Keeps 4204545 s (State.ringUnread s p k pa) := by
  unfold State.ringUnread
  repeat' first
    | with_reducible exact Keeps.refl _ _ | with_reducible refine Keeps.ite (fun _ => ?_) (fun _ => ?_)
    | with_reducible refine (State.setPartSt_keeps _ _ _ ).after ?_ (by decide)
    | with_reducible refine (State.ringFails_keeps _ _ _ _ ).after ?_ (by decide) | (lift_lets -underBinder; intros) | split

theorem State.touchL2_keeps (s : State) (l) :
    Keeps 256 s (State.touchL2 s l) := by
  unfold State.touchL2
  repeat' first
    | with_reducible exact Keeps.refl _ _ | with_reducible refine Keeps.ite (fun _ => ?_) (fun _ => ?_)
    | with_reducible refine (State.setL2_keeps _ _ ).after ?_ (by decide) | split

theorem State.halfRead_keeps (s : State) (h) (m) (want) :
    Keeps 4225861 s (State.halfRead s h m want).2 := by
  unfold State.halfRead
  repeat' first
    | with_reducible assumption | with_reducible exact Keeps.refl _ _
    | with_reducible refine Keeps.ite (fun _ => ?_) (fun _ => ?_)
    | with_reducible refine (State.addTo_keeps _ _ _ ).after ?_ (by decide)
    | with_reducible refine (State.touchL2_keeps _ _ ).after ?_ (by decide)
    | with_reducible refine (State.halfMiss_keeps _ _ _ _ _ ).after ?_ (by decide)
    | (lift_lets -underBinder
       repeat (
        intro x
        first
          | (have hx : Keeps 4225861 s x := by
              repeat' first
                | with_reducible assumption | with_reducible exact Keeps.refl _ _
                | with_reducible refine Keeps.ite (fun _ => ?_) (fun _ => ?_)
                | with_reducible refine (State.addTo_keeps _ _ _ ).after ?_ (by decide)
                | with_reducible refine (State.touchL2_keeps _ _ ).after ?_ (by decide)
                | with_reducible refine (State.halfMiss_keeps _ _ _ _ _ ).after ?_ (by decide) | split)
          | (clear_value x)
          | skip))
    | split

end Sys2Proof.Machine
end

