-- ==== Sys2Proof/Laws/Frames3.lean ====
section
/-! SUPPORT. For each operation of the model, in the order of use (part 3 of 6): the components that it may change, by the bits
of `Keeps`. -/

set_option linter.all false

namespace Sys2Proof.Machine

theorem State.issueRead_keeps (s : State) (q) (h) (want) :
    Keeps 4225861 s (State.issueRead s q h want).2 := by
  unfold State.issueRead
  repeat' first
    | with_reducible exact Keeps.refl _ _ | with_reducible refine Keeps.ite (fun _ => ?_) (fun _ => ?_)
    | with_reducible refine (State.openSend_keeps _ _ _ _ ).after ?_ (by decide)
    | with_reducible refine (State.halfRead_keeps _ _ _ _ ).after ?_ (by decide)
    | with_reducible refine Keeps.snd (by assumption) ?_ | (lift_lets -underBinder; intros) | split

theorem State.countRead_keeps (s : State) (h) :
    Keeps 88112965 s (State.countRead s h) := by
  unfold State.countRead
  repeat' first
    | with_reducible exact Keeps.refl _ _ | with_reducible refine Keeps.ite (fun _ => ?_) (fun _ => ?_)
    | with_reducible refine (State.addTo_keeps _ _ _ ).after ?_ (by decide)
    | with_reducible refine (State.putL3_keeps _ _ ).after ?_ (by decide)
    | with_reducible refine (State.track_keeps _ _ _ _ ).after ?_ (by decide)
    | with_reducible refine (State.missLine_keeps _ _ _ _ ).after ?_ (by decide) | (lift_lets -underBinder; intros) | split

theorem State.ringSector_keeps (s : State) (p) (k) (pa) :
    Keeps 88112965 s (State.ringSector s p k pa).2 := by
  unfold State.ringSector
  repeat' first
    | with_reducible exact Keeps.refl _ _ | with_reducible refine Keeps.ite (fun _ => ?_) (fun _ => ?_)
    | with_reducible refine (State.unmapped_keeps _ _ _ _ ).after ?_ (by decide)
    | with_reducible refine (State.setPartSt_keeps _ _ _ ).after ?_ (by decide)
    | with_reducible refine (State.issueRead_keeps _ _ _ _ ).after ?_ (by decide)
    | with_reducible refine (State.countRead_keeps _ _ ).after ?_ (by decide)
    | with_reducible refine Keeps.snd (by assumption) ?_ | (lift_lets -underBinder; intros) | split

theorem State.seeSteps_keeps (s : State) (p) (k) (first) (n) :
    Keeps 8192 s (State.seeSteps s p k first n) := by
  unfold State.seeSteps
  repeat' first
    | with_reducible exact Keeps.refl _ _ | with_reducible refine Keeps.ite (fun _ => ?_) (fun _ => ?_)
    | with_reducible refine (State.setPartSt_keeps _ _ _ ).after ?_ (by decide)
    | with_reducible refine Keeps.foldl ?_ (fun u1 _ => ?_) | (lift_lets -underBinder; intros) | split

theorem State.seeSteps_st (s : State) (p k first n : Nat) : Keeps 88112965 s (s.seeSteps p k first n) :=
  (State.seeSteps_keeps _ _ _ _ _).mono (by decide)

theorem State.scanDescs_st (l : PartLast) (p k n index : Nat) (s : State) (room : List Nat) (os : List Offer) :
    Keeps 88112965 s (State.scanDescs l p k n index s room os).st := by
  induction n generalizing index s room os with
  | zero => exact Keeps.refl _ _
  | succ n ih =>
    unfold State.scanDescs
    extract_lets pa r
    split
    · exact Keeps.refl _ _
    have hr : Keeps 88112965 s r.2 := (State.ringSector_keeps _ _ _ _).mono (by decide)
    clear_value r
    split
    · exact hr
    · extract_lets code
      split
      · exact hr
      · split
        · exact hr
        · split
          · exact hr
          · exact (ih _ _ _ _).after hr (by decide)

theorem State.scanRing_st (l : PartLast) (p k : Nat) (s : State) (room : List Nat) :
    Keeps 88112965 s (State.scanRing l p k s room).st := by
  unfold State.scanRing
  split
  · exact Keeps.refl _ _
  extract_lets r
  have hr : Keeps 88112965 s r.2 := (State.ringSector_keeps _ _ _ _).mono (by decide)
  clear_value r
  split
  · exact hr
  · extract_lets first n
    split
    · exact hr
    · exact (State.scanDescs_st _ _ _ _ _ _ _ _).after ((State.seeSteps_st _ _ _ _ _).after hr (by decide)) (by decide)

theorem State.scanCq_st (p c : Nat) (x : Scan) : Keeps 88112965 x.st (State.scanCq p c x).st := by
  unfold State.scanCq
  dsimp only
  split
  · exact Keeps.refl _ _
  · have hr : Keeps 88112965 x.st (x.st.ringSector p (16 + c) (x.st.cqBase p c)).2 := (State.ringSector_keeps _ _ _ _).mono (by decide)
    generalize x.st.ringSector p (16 + c) (x.st.cqBase p c) = r at hr
    split
    · exact hr
    · split
      · exact hr
      · exact hr

theorem Scan.foldl_st {m : Nat} {s : State} {f : Scan → Nat → Scan} (l : List Nat) (x : Scan) (h : Keeps m s x.st)
    (hf : ∀ y a, Keeps m y.st (f y a).st) : Keeps m s (l.foldl f x).st := by
  induction l generalizing x with
  | nil => exact h
  | cons a l ih => exact ih _ ((hf x a).after h (by show (m &&& m).beq m = true; simp))

theorem State.scanRings_st (s : State) (l : PartLast) (p : Nat) : Keeps 88112965 s (s.scanRings l p).st := by
  unfold State.scanRings
  refine Scan.foldl_st _ _ (Scan.foldl_st _ _ (Keeps.refl _ _) fun y a => State.scanCq_st _ _ _) fun y a => ?_
  split
  · exact State.scanRing_st _ _ _ _ _
  · exact Keeps.refl _ _

theorem State.askNext_keeps (s : State) (p : Nat) : Keeps 88112965 s (State.askNext s p) := by
  unfold State.askNext
  refine Keeps.ite (fun _ => Keeps.refl _ _) fun _ => ?_
  split
  · exact State.scanRings_st _ _ _
  · exact Keeps.refl _ _

theorem State.serveErr_keeps (s : State) (w) :
    Keeps 89161541 s (State.serveErr s w) := by
  unfold State.serveErr
  repeat' first
    | with_reducible exact Keeps.refl _ _ | with_reducible refine Keeps.ite (fun _ => ?_) (fun _ => ?_)
    | with_reducible refine (State.copyError_keeps _ _ _ ).after ?_ (by decide)
    | with_reducible refine (State.ringUnread_keeps _ _ _ _ ).after ?_ (by decide)
    | with_reducible refine (State.askNext_keeps _ _ ).after ?_ (by decide) | (lift_lets -underBinder; intros) | split
    | refine Keeps.setSecSt ?_ (.inr rfl) (.inr rfl) (.inr ⟨rfl, rfl, rfl⟩) (.inl (by decide))

theorem State.soloArrives_keeps (s : State) (p) (j) (barrier) :
    Keeps 65 s (State.soloArrives s p j barrier) := by
  unfold State.soloArrives
  repeat' first
    | with_reducible exact Keeps.refl _ _ | with_reducible refine Keeps.ite (fun _ => ?_) (fun _ => ?_)
    | with_reducible refine (State.barrierDone_keeps _ _ _ _ _ ).after ?_ (by decide) | (lift_lets -underBinder; intros)
    | split

theorem State.consume_keeps (s : State) (head) (tail) (full) (n) (v) :
    Keeps 1 s (State.consume s head tail full n v) := by
  unfold State.consume
  repeat' first
    | with_reducible exact Keeps.refl _ _ | with_reducible refine Keeps.ite (fun _ => ?_) (fun _ => ?_)
    | with_reducible refine (State.set_keeps _ _ _ ).after ?_ (by decide) | (lift_lets -underBinder; intros) | split

theorem State.evTail_keeps (s : State) (v) :
    Keeps 1 s (State.evTail s v) := by
  unfold State.evTail
  repeat' first
    | with_reducible exact Keeps.refl _ _ | with_reducible refine Keeps.ite (fun _ => ?_) (fun _ => ?_)
    | with_reducible refine (State.consume_keeps _ _ _ _ _ _ ).after ?_ (by decide) | split

theorem State.snoopKeep_keeps (s : State) (hpa) :
    Keeps 4194560 s (State.snoopKeep s hpa) := by
  unfold State.snoopKeep
  repeat' first
    | with_reducible exact Keeps.refl _ _ | with_reducible refine Keeps.ite (fun _ => ?_) (fun _ => ?_)
    | with_reducible refine (State.putFilter_keeps _ _ ).after ?_ (by decide)
    | with_reducible refine (State.emit_keeps _ _ ).after ?_ (by decide) | split

theorem execSnpCur_keeps (hpa) (s : State) :
    KeepsO 4194560 s (execSnpCur hpa s) := by
  unfold execSnpCur
  repeat' first
    | with_reducible refine KeepsO.next ?_ | with_reducible refine KeepsO.ite (fun _ => ?_) (fun _ => ?_)
    | with_reducible exact Keeps.refl _ _ | with_reducible refine Keeps.ite (fun _ => ?_) (fun _ => ?_)
    | with_reducible refine (State.snoopKeep_keeps _ _ ).after ?_ (by decide) | split

theorem State.startSlice_keeps (s : State) (d) (k) (unit) :
    Keeps 88178501 s (State.startSlice s d k unit) := by
  unfold State.startSlice
  repeat' first
    | with_reducible exact Keeps.refl _ _ | with_reducible refine Keeps.ite (fun _ => ?_) (fun _ => ?_)
    | with_reducible refine (State.setTileCode_keeps _ _ _ ).after ?_ (by decide)
    | with_reducible refine (State.evictL3_keeps _ _ ).after ?_ (by decide)
    | with_reducible refine (State.setAwl_keeps _ _ ).after ?_ (by decide)
    | with_reducible refine (State.setBitOf_keeps _ _ _ _ ).after ?_ (by decide)
    | with_reducible refine Keeps.foldl ?_ (fun u1 _ => ?_) | (lift_lets -underBinder; intros) | split

theorem State.meetsOther_keeps (s : State) (d) (k) (unit) (forced) :
    Keeps 16777216 s (State.meetsOther s d k unit forced).2 := by
  unfold State.meetsOther
  repeat' first
    | with_reducible exact Keeps.refl _ _ | with_reducible refine Keeps.ite (fun _ => ?_) (fun _ => ?_)
    | with_reducible refine (State.draw_keeps _ ).after ?_ (by decide) | with_reducible refine Keeps.snd (by assumption) ?_
    | split

theorem State.attempt_keeps (s : State) (forced) (d) (k) :
    Keeps 88178501 s (State.attempt s forced d k) := by
  unfold State.attempt
  repeat' first
    | with_reducible exact Keeps.refl _ _ | with_reducible refine Keeps.ite (fun _ => ?_) (fun _ => ?_)
    | with_reducible refine (State.startSlice_keeps _ _ _ _ ).after ?_ (by decide)
    | with_reducible refine (State.set_keeps _ _ _ ).after ?_ (by decide)
    | with_reducible refine (State.meetsOther_keeps _ _ _ _ _ ).after ?_ (by decide)
    | with_reducible refine (State.attemptDeficit_keeps _ _ _ _ ).after ?_ (by decide)
    | with_reducible refine Keeps.snd (by assumption) ?_ | (lift_lets -underBinder; intros) | split

theorem State.slices_keeps (s : State) (forced) :
    Keeps 88178501 s (State.slices s forced) := by
  unfold State.slices
  repeat' first
    | with_reducible exact Keeps.refl _ _ | with_reducible refine Keeps.ite (fun _ => ?_) (fun _ => ?_)
    | with_reducible refine (State.attempt_keeps _ _ _ _ ).after ?_ (by decide)
    | with_reducible refine (State.set_keeps _ _ _ ).after ?_ (by decide)
    | with_reducible refine Keeps.foldl ?_ (fun u1 _ => ?_) | (lift_lets -underBinder; intros) | split

theorem State.clearMesh_keeps (s : State) (d) :
    Keeps 1 s (State.clearMesh s d) := by
  unfold State.clearMesh
  repeat' first
    | with_reducible exact Keeps.refl _ _ | with_reducible refine Keeps.ite (fun _ => ?_) (fun _ => ?_)
    | with_reducible refine (State.set_keeps _ _ _ ).after ?_ (by decide) | split

theorem execMeshCntClear_keeps (d) (s : State) :
    KeepsO 1 s (execMeshCntClear d s) := by
  unfold execMeshCntClear
  repeat' first
    | with_reducible refine KeepsO.next ?_ | with_reducible refine KeepsO.ite (fun _ => ?_) (fun _ => ?_)
    | with_reducible exact Keeps.refl _ _ | with_reducible refine Keeps.ite (fun _ => ?_) (fun _ => ?_)
    | with_reducible refine (State.clearMesh_keeps _ _ ).after ?_ (by decide) | split

theorem State.failFill_keeps (s : State) (line ue : Nat) (ws : List (Msg × Nat)) :
    Keeps 88112965 s (State.failFill s line ue ws) := by
  induction ws generalizing s with
  | nil => exact Keeps.refl _ _
  | cons w ws ih =>
    unfold State.failFill
    refine Keeps.ite (fun _ => ?_) (fun _ => ?_)
    · exact (ih _).after ((State.applyWbm_keeps _ _).mono (by decide)) (by decide)
    · have h := (State.respond_keeps s w.1 0x14 [] 0).mono (m := 88112965) (by decide)
      exact (ih _).after (Keeps.ite (fun _ => h) fun _ => (State.memoryFault_keeps _ _ _).after h (by decide)) (by decide)

theorem State.serveFill_keeps (s : State) (line : Nat) (bulk merged : Bool) (data : List Byte) (ws : List (Msg × Nat)) :
    Keeps 88112965 s (State.serveFill s line bulk merged data ws) := by
  induction ws generalizing s with
  | nil => exact Keeps.refl _ _
  | cons w ws ih =>
    unfold State.serveFill
    refine Keeps.ite (fun _ => ?_) (fun _ => Keeps.ite (fun _ => Keeps.ite (fun _ => ?_) fun _ => ?_) (fun _ => ?_))
    · exact (ih _).after ((State.applyWbm_keeps _ _).mono (by decide)) (by decide)
    · exact (State.track_keeps _ _ _ _).after ((State.takeAtR_keeps _ _).mono (by decide)) (by decide)
    · exact (ih _).after ((State.takeAtR_keeps _ _).mono (by decide)) (by decide)
    · exact (ih _).after ((State.deliverLine_keeps _ _ _ _ _).mono (by decide)) (by decide)

theorem State.strike_keeps (s : State) (fs) :
    Keeps 1024 s (State.strike s fs) := by
  unfold State.strike
  repeat' first
    | with_reducible exact Keeps.refl _ _ | with_reducible refine Keeps.ite (fun _ => ?_) (fun _ => ?_)
    | with_reducible refine Keeps.foldl ?_ (fun u1 _ => ?_) | (lift_lets -underBinder; intros) | split
    | refine Keeps.setDramSt ?_ (.inl (by decide)) (.inr rfl) (by first | exact id | exact mapWf_mapSet _ _ | exact mapWf_filter _ | exact mapWf_mapSetList _ _ | exact mapWf_mapSetMasked _ _ _ | exact mapWf_mapClear _ _ | exact fun _ => rfl)

theorem State.applyFoundIn_keeps (s : State) (a) (n) (fs) :
    Keeps 88099841 s (State.applyFoundIn s a n fs) := by
  unfold State.applyFoundIn
  repeat' first
    | with_reducible exact Keeps.refl _ _ | with_reducible refine Keeps.ite (fun _ => ?_) (fun _ => ?_)
    | with_reducible refine (State.strike_keeps _ _ ).after ?_ (by decide)
    | with_reducible refine (State.checkUnits_keeps _ _ ).after ?_ (by decide) | split

theorem State.fill_keeps (s : State) (line) (bulk) (found) :
    Keeps 88112965 s (State.fill s line bulk found) := by
  unfold State.fill
  repeat' first
    | with_reducible exact Keeps.refl _ _ | with_reducible refine Keeps.ite (fun _ => ?_) (fun _ => ?_)
    | with_reducible refine (State.setTrackers_keeps _ _ ).after ?_ (by decide)
    | with_reducible refine (State.failFill_keeps _ _ _ _ ).after ?_ (by decide)
    | with_reducible refine (State.memoryFault_keeps _ _ _ ).after ?_ (by decide)
    | with_reducible refine (State.logUe_keeps _ _ _ ).after ?_ (by decide)
    | with_reducible refine (State.serveFill_keeps _ _ _ _ _ _ ).after ?_ (by decide)
    | with_reducible refine (State.applyFoundIn_keeps _ _ _ _ ).after ?_ (by decide)
    | with_reducible refine (State.setL3_keeps _ _ ).after ?_ (by decide)
    | with_reducible refine (State.putL3_keeps _ _ ).after ?_ (by decide)
    | with_reducible refine (State.updateL3_keeps _ _ ).after ?_ (by decide)
    | with_reducible refine Keeps.foldl ?_ (fun u1 _ => ?_) | (lift_lets -underBinder; intros) | split

theorem execSliceFill_keeps (a0) (line) (bulk) (found) (s : State) :
    KeepsO 88112965 s (execSliceFill a0 line bulk found s) := by
  unfold execSliceFill
  repeat' first
    | with_reducible refine KeepsO.next ?_ | with_reducible refine KeepsO.ite (fun _ => ?_) (fun _ => ?_)
    | with_reducible exact Keeps.refl _ _ | with_reducible refine Keeps.ite (fun _ => ?_) (fun _ => ?_)
    | with_reducible refine (State.serveHome_keeps _ ).after ?_ (by decide)
    | with_reducible refine (State.fill_keeps _ _ _ _ ).after ?_ (by decide) | split

theorem State.setBank_keeps (s : State) (t) (b) (rows) :
    Keeps 134217728 s (State.setBank s t b rows) := by
  unfold State.setBank
  repeat' first
    | with_reducible exact Keeps.refl _ _ | with_reducible refine Keeps.ite (fun _ => ?_) (fun _ => ?_)
    | with_reducible refine Keeps.foldl ?_ (fun u1 _ => ?_) | (lift_lets -underBinder; intros) | split
    | refine Keeps.setTileSt ?_ (.inr ⟨rfl, rfl, rfl⟩) (.inr rfl) (.inl (by decide)) (by first | exact id | exact mapWf_mapSet _ _ | exact mapWf_filter _ | exact mapWf_mapSetList _ _ | exact mapWf_mapSetMasked _ _ _ | exact mapWf_mapClear _ _ | exact fun _ => rfl)

theorem State.clearDram_keeps (s : State) (d) :
    Keeps 1 s (State.clearDram s d) := by
  unfold State.clearDram
  repeat' first
    | with_reducible exact Keeps.refl _ _ | with_reducible refine Keeps.ite (fun _ => ?_) (fun _ => ?_)
    | with_reducible refine (State.setAll_keeps _ _ ).after ?_ (by decide) | split

theorem execReadProductStatus_keeps (t) (g) (s : State) :
    KeepsO 88112965 s (execReadProductStatus t g s) := by
  unfold execReadProductStatus State.withPath
  repeat' first
    | with_reducible refine KeepsO.next ?_ | with_reducible refine KeepsO.ite (fun _ => ?_) (fun _ => ?_)
    | with_reducible exact Keeps.refl _ _ | with_reducible refine Keeps.ite (fun _ => ?_) (fun _ => ?_)
    | with_reducible refine (State.setGroup_keeps _ _ _ _ ).after ?_ (by decide)
    | with_reducible refine (State.fetchPath_keeps _ _ _ ).after ?_ (by decide)
    | with_reducible refine (State.settleGroup_keeps _ _ _ ).after ?_ (by decide)
    | with_reducible refine Keeps.snd (by assumption) ?_ | (lift_lets -underBinder; intros) | dsimp -zeta only | split

theorem State.writeFields_keeps (s : State) (a) (v) :
    Keeps 5 s (State.writeFields s a v) := by
  unfold State.writeFields
  repeat' first
    | with_reducible exact Keeps.refl _ _ | with_reducible refine Keeps.ite (fun _ => ?_) (fun _ => ?_)
    | with_reducible refine (State.writeField_keeps _ _ _ _ ).after ?_ (by decide)
    | with_reducible refine Keeps.foldl ?_ (fun u1 _ => ?_) | split

theorem State.rearm_keeps (s : State) :
    Keeps 3 s (State.rearm s) := by
  unfold State.rearm
  repeat' first
    | with_reducible exact Keeps.refl _ _ | with_reducible refine Keeps.ite (fun _ => ?_) (fun _ => ?_)
    | with_reducible refine (State.setAll_keeps _ _ ).after ?_ (by decide) | (lift_lets -underBinder; intros) | split
    | with_reducible refine Keeps.setClock ?_ (by decide)

theorem State.loadApply_keeps (s : State) :
    Keeps 1 s (State.loadApply s) := by
  unfold State.loadApply
  repeat' first
    | with_reducible exact Keeps.refl _ _ | with_reducible refine Keeps.ite (fun _ => ?_) (fun _ => ?_)
    | with_reducible refine (State.set_keeps _ _ _ ).after ?_ (by decide) | split

theorem State.loadAbort_keeps (s : State) :
    Keeps 4212749 s (State.loadAbort s) := by
  unfold State.loadAbort
  repeat' first
    | with_reducible exact Keeps.refl _ _ | with_reducible refine Keeps.ite (fun _ => ?_) (fun _ => ?_)
    | with_reducible refine (State.endLoad_keeps _ _ _ ).after ?_ (by decide) | (lift_lets -underBinder; intros) | split

theorem State.loadStart_keeps (s : State) :
    Keeps 5274445 s (State.loadStart s) := by
  unfold State.loadStart
  repeat' first
    | with_reducible exact Keeps.refl _ _ | with_reducible refine Keeps.ite (fun _ => ?_) (fun _ => ?_)
    | with_reducible refine (State.endLoad_keeps _ _ _ ).after ?_ (by decide)
    | with_reducible refine (State.set_keeps _ _ _ ).after ?_ (by decide)
    | with_reducible refine (State.startImage_keeps _ _ _ _ _ ).after ?_ (by decide)
    | with_reducible refine (State.setAll_keeps _ _ ).after ?_ (by decide) | (lift_lets -underBinder; intros) | split
    | with_reducible refine Keeps.setLdr ?_ (by decide)

theorem State.loaderControl_keeps (s : State) (v) :
    Keeps 5274445 s (State.loaderControl s v) := by
  unfold State.loaderControl
  repeat' first
    | with_reducible exact Keeps.refl _ _ | with_reducible refine Keeps.ite (fun _ => ?_) (fun _ => ?_)
    | with_reducible refine (State.busyWrite_keeps _ _ ).after ?_ (by decide)
    | with_reducible refine (State.loadApply_keeps _ ).after ?_ (by decide)
    | with_reducible refine (State.loadAbort_keeps _ ).after ?_ (by decide)
    | with_reducible refine (State.set_keeps _ _ _ ).after ?_ (by decide)
    | with_reducible refine (State.setAll_keeps _ _ ).after ?_ (by decide)
    | with_reducible refine (State.loadStart_keeps _ ).after ?_ (by decide) | (lift_lets -underBinder; intros) | split

theorem State.startCommit_keeps (s : State) (g) :
    Keeps 4 s (State.startCommit s g) := by
  unfold State.startCommit
  repeat' first
    | with_reducible exact Keeps.refl _ _ | with_reducible refine Keeps.ite (fun _ => ?_) (fun _ => ?_)
    | (lift_lets -underBinder; intros) | split | with_reducible refine Keeps.setCfg ?_ (by decide)

theorem State.cfgCommit_keeps (s : State) (v) :
    Keeps 5 s (State.cfgCommit s v) := by
  unfold State.cfgCommit
  repeat' first
    | with_reducible exact Keeps.refl _ _ | with_reducible refine Keeps.ite (fun _ => ?_) (fun _ => ?_)
    | with_reducible refine (State.set_keeps _ _ _ ).after ?_ (by decide)
    | with_reducible refine (State.startCommit_keeps _ _ ).after ?_ (by decide) | split

theorem State.partCommit_keeps (s : State) (p) (v) :
    Keeps 5 s (State.partCommit s p v) := by
  unfold State.partCommit
  repeat' first
    | with_reducible exact Keeps.refl _ _ | with_reducible refine Keeps.ite (fun _ => ?_) (fun _ => ?_)
    | with_reducible refine (State.set_keeps _ _ _ ).after ?_ (by decide)
    | with_reducible refine (State.startCommit_keeps _ _ ).after ?_ (by decide) | split

theorem State.clearTile_keeps (s : State) (d) (i) :
    Keeps 1 s (State.clearTile s d i) := by
  unfold State.clearTile
  repeat' first
    | with_reducible exact Keeps.refl _ _ | with_reducible refine Keeps.ite (fun _ => ?_) (fun _ => ?_)
    | with_reducible refine (State.setAll_keeps _ _ ).after ?_ (by decide) | split

theorem State.clearWelt_keeps (s : State) (d) (e) :
    Keeps 1 s (State.clearWelt s d e) := by
  unfold State.clearWelt
  repeat' first
    | with_reducible exact Keeps.refl _ _ | with_reducible refine Keeps.ite (fun _ => ?_) (fun _ => ?_)
    | with_reducible refine (State.setAll_keeps _ _ ).after ?_ (by decide) | split

theorem State.clearL2_keeps (s : State) (d) (w) :
    Keeps 1 s (State.clearL2 s d w) := by
  unfold State.clearL2
  repeat' first
    | with_reducible exact Keeps.refl _ _ | with_reducible refine Keeps.ite (fun _ => ?_) (fun _ => ?_)
    | with_reducible refine (State.setAll_keeps _ _ ).after ?_ (by decide) | split

theorem State.dirPeek_keeps (s : State) (d) (x) :
    Keeps 1 s (State.dirPeek s d x) := by
  unfold State.dirPeek
  repeat' first
    | with_reducible exact Keeps.refl _ _ | with_reducible refine Keeps.ite (fun _ => ?_) (fun _ => ?_)
    | with_reducible refine (State.set_keeps _ _ _ ).after ?_ (by decide)
    | with_reducible refine (State.setAll_keeps _ _ ).after ?_ (by decide) | (lift_lets -underBinder; intros) | split

theorem State.clearDir_keeps (s : State) (d) :
    Keeps 1 s (State.clearDir s d) := by
  unfold State.clearDir
  repeat' first
    | with_reducible exact Keeps.refl _ _ | with_reducible refine Keeps.ite (fun _ => ?_) (fun _ => ?_)
    | with_reducible refine (State.setAll_keeps _ _ ).after ?_ (by decide) | split

theorem State.eyeCtl_keeps (s : State) (p) (i) (v) :
    Keeps 513 s (State.eyeCtl s p i v) := by
  unfold State.eyeCtl
  repeat' first
    | with_reducible exact Keeps.refl _ _ | with_reducible refine Keeps.ite (fun _ => ?_) (fun _ => ?_)
    | with_reducible refine (State.eyeCount_keeps _ _ _ ).after ?_ (by decide)
    | with_reducible refine (State.setEye_keeps _ _ _ ).after ?_ (by decide) | split

theorem State.clearUci_keeps (s : State) :
    Keeps 1 s (State.clearUci s) := by
  unfold State.clearUci
  repeat' first
    | with_reducible exact Keeps.refl _ _ | with_reducible refine Keeps.ite (fun _ => ?_) (fun _ => ?_)
    | with_reducible refine (State.setAll_keeps _ _ ).after ?_ (by decide) | split

theorem State.resumeSq_keeps (s : State) (p) (k) :
    Keeps 8192 s (State.resumeSq s p k) := by
  unfold State.resumeSq
  repeat' first
    | with_reducible exact Keeps.refl _ _ | with_reducible refine Keeps.ite (fun _ => ?_) (fun _ => ?_)
    | with_reducible refine (State.setPartSt_keeps _ _ _ ).after ?_ (by decide) | (lift_lets -underBinder; intros) | split

theorem State.clearPort_keeps (s : State) (d) (i) :
    Keeps 1 s (State.clearPort s d i) := by
  unfold State.clearPort
  repeat' first
    | with_reducible exact Keeps.refl _ _ | with_reducible refine Keeps.ite (fun _ => ?_) (fun _ => ?_)
    | with_reducible refine (State.setAll_keeps _ _ ).after ?_ (by decide) | split

theorem State.qpPeek_keeps (s : State) (v) :
    Keeps 1 s (State.qpPeek s v) := by
  unfold State.qpPeek
  repeat' first
    | with_reducible exact Keeps.refl _ _ | with_reducible refine Keeps.ite (fun _ => ?_) (fun _ => ?_)
    | with_reducible refine (State.setAll_keeps _ _ ).after ?_ (by decide) | (lift_lets -underBinder; intros) | split

theorem State.clearJob_keeps (s : State) :
    Keeps 1 s (State.clearJob s) := by
  unfold State.clearJob
  repeat' first
    | with_reducible exact Keeps.refl _ _ | with_reducible refine Keeps.ite (fun _ => ?_) (fun _ => ?_)
    | with_reducible refine (State.setAll_keeps _ _ ).after ?_ (by decide) | split

theorem State.clearAcc_keeps (s : State) (p) :
    Keeps 1 s (State.clearAcc s p) := by
  unfold State.clearAcc
  repeat' first
    | with_reducible exact Keeps.refl _ _ | with_reducible refine Keeps.ite (fun _ => ?_) (fun _ => ?_)
    | with_reducible refine (State.setAll_keeps _ _ ).after ?_ (by decide) | split

theorem State.restoreRequest_keeps (s : State) (p) :
    Keeps 88112965 s (State.restoreRequest s p) := by
  unfold State.restoreRequest
  repeat' first
    | with_reducible exact Keeps.refl _ _ | with_reducible refine Keeps.ite (fun _ => ?_) (fun _ => ?_)
    | with_reducible refine (State.set_keeps _ _ _ ).after ?_ (by decide)
    | with_reducible refine (State.pmRefuse_keeps _ _ _ ).after ?_ (by decide)
    | with_reducible refine (State.setPhase_keeps _ _ _ ).after ?_ (by decide)
    | with_reducible refine (State.collectOr_keeps _ _ _ _ _ _ _ _ ).after ?_ (by decide)
    | with_reducible refine Keeps.foldl ?_ (fun u1 _ => ?_) | (lift_lets -underBinder; intros) | split

theorem State.thawRequest_keeps (s : State) (p) :
    Keeps 8193 s (State.thawRequest s p) := by
  unfold State.thawRequest
  repeat' first
    | with_reducible exact Keeps.refl _ _ | with_reducible refine Keeps.ite (fun _ => ?_) (fun _ => ?_)
    | with_reducible refine (State.setPartSt_keeps _ _ _ ).after ?_ (by decide)
    | with_reducible refine (State.set_keeps _ _ _ ).after ?_ (by decide)
    | with_reducible refine (State.pmRefuse_keeps _ _ _ ).after ?_ (by decide)
    | with_reducible refine (State.setPhase_keeps _ _ _ ).after ?_ (by decide) | (lift_lets -underBinder; intros) | split

theorem State.freezeRequest_keeps (s : State) (p) :
    Keeps 16785409 s (State.freezeRequest s p) := by
  unfold State.freezeRequest
  repeat' first
    | with_reducible exact Keeps.refl _ _ | with_reducible refine Keeps.ite (fun _ => ?_) (fun _ => ?_)
    | with_reducible refine (State.setPartSt_keeps _ _ _ ).after ?_ (by decide)
    | with_reducible refine (State.set_keeps _ _ _ ).after ?_ (by decide)
    | with_reducible refine (State.pmRefuse_keeps _ _ _ ).after ?_ (by decide)
    | with_reducible refine (State.pick_keeps _ _ _ ).after ?_ (by decide)
    | with_reducible refine (State.setPhase_keeps _ _ _ ).after ?_ (by decide)
    | with_reducible refine Keeps.snd (by assumption) ?_ | (lift_lets -underBinder; intros) | split

theorem State.pmControl_keeps (s : State) (p) (v) :
    Keeps 88112965 s (State.pmControl s p v) := by
  unfold State.pmControl
  repeat' first
    | with_reducible exact Keeps.refl _ _ | with_reducible refine Keeps.ite (fun _ => ?_) (fun _ => ?_)
    | with_reducible refine (State.restoreRequest_keeps _ _ ).after ?_ (by decide)
    | with_reducible refine (State.thawRequest_keeps _ _ ).after ?_ (by decide)
    | with_reducible refine (State.freezeRequest_keeps _ _ ).after ?_ (by decide) | (lift_lets -underBinder; intros) | split

theorem State.recTail_keeps (s : State) (v) :
    Keeps 1 s (State.recTail s v) := by
  unfold State.recTail
  repeat' first
    | with_reducible exact Keeps.refl _ _ | with_reducible refine Keeps.ite (fun _ => ?_) (fun _ => ?_)
    | with_reducible refine (State.consume_keeps _ _ _ _ _ _ ).after ?_ (by decide) | split

theorem State.unseenImage_keeps (s : State) (host) (len) :
    Keeps 16777216 s (State.unseenImage s host len).2.2 := by
  unfold State.unseenImage
  repeat' first
    | with_reducible exact Keeps.refl _ _ | with_reducible refine Keeps.ite (fun _ => ?_) (fun _ => ?_)
    | with_reducible refine (State.draw_keeps _ ).after ?_ (by decide) | with_reducible refine Keeps.snd (by assumption) ?_
    | (lift_lets -underBinder; intros) | split

theorem State.rtsGo_keeps (s : State) (hostImage : List Byte) (fetched : Bool) :
    Keeps 89161541 s (State.rtsGo s hostImage fetched) := by
  unfold State.rtsGo
  refine Keeps.ite (fun _ => (State.rtsDone_keeps _ _).mono (by decide)) fun _ => Keeps.ite (fun _ => Keeps.refl _ _) fun _ => ?_
  exact State.readThen_keeps _ _ _ _ _ _ _ (by decide) (fun _ => (State.set_keeps _ _ _).mono (by decide))
    fun _ => (State.rtsRead_keeps _ _ _).mono (by decide)

theorem State.clearPwr_keeps (s : State) :
    Keeps 32769 s (State.clearPwr s) := by
  unfold State.clearPwr
  repeat' first
    | with_reducible exact Keeps.refl _ _ | with_reducible refine Keeps.ite (fun _ => ?_) (fun _ => ?_)
    | with_reducible refine (State.setAll_keeps _ _ ).after ?_ (by decide)
    | with_reducible refine (State.setPower_keeps _ _ ).after ?_ (by decide) | (lift_lets -underBinder; intros) | split

theorem State.labelPeek_keeps (s : State) (v) :
    Keeps 1 s (State.labelPeek s v) := by
  unfold State.labelPeek
  repeat' first
    | with_reducible exact Keeps.refl _ _ | with_reducible refine Keeps.ite (fun _ => ?_) (fun _ => ?_)
    | with_reducible refine (State.setAll_keeps _ _ ).after ?_ (by decide) | (lift_lets -underBinder; intros) | split

theorem State.fuseGo_keeps (s : State) (d) :
    Keeps 4212737 s (State.fuseGo s d) := by
  unfold State.fuseGo
  repeat' first
    | with_reducible exact Keeps.refl _ _ | with_reducible refine Keeps.ite (fun _ => ?_) (fun _ => ?_)
    | with_reducible refine (State.set_keeps _ _ _ ).after ?_ (by decide)
    | with_reducible refine (State.event_keeps _ _ _ _ _ _ ).after ?_ (by decide) | (lift_lets -underBinder; intros) | split

theorem State.clearAwl_keeps (s : State) (d) :
    Keeps 1 s (State.clearAwl s d) := by
  unfold State.clearAwl
  repeat' first
    | with_reducible exact Keeps.refl _ _ | with_reducible refine Keeps.ite (fun _ => ?_) (fun _ => ?_)
    | with_reducible refine (State.setAll_keeps _ _ ).after ?_ (by decide) | split

theorem State.fwStage_keeps (s : State) (hostImage : List Byte) (fetched : Bool) :
    Keeps 89161541 s (State.fwStage s hostImage fetched) := by
  unfold State.fwStage
  extract_lets len
  refine Keeps.ite (fun _ => Keeps.refl _ _) fun _ => Keeps.ite (fun _ => (State.stageFails_keeps _ _ _).mono (by decide)) fun _ =>
    Keeps.ite (fun _ => (State.stageFails_keeps _ _ _).mono (by decide)) fun _ => ?_
  exact State.readThen_keeps _ _ _ _ _ _ _ (by decide) (fun _ => (State.set_keeps _ _ _).mono (by decide))
    fun _ => (State.fwRead_keeps _ _ _).mono (by decide)

theorem actions_keep {x : Action} (hx : x ∈ actions) (s : State) (d i v : Nat) : Keeps 89784143 s (x.act s d i v) := by
  unfold actions onBit0 at hx
  fin_cases hx <;> dsimp -zeta only <;> (
    repeat' first
      | with_reducible exact Keeps.refl _ _
      | with_reducible refine Keeps.ite (fun _ => ?_) (fun _ => ?_)
      | (lift_lets -underBinder; intros)
      | with_reducible refine (State.rearm_keeps _ ).after ?_ (by decide)
      | with_reducible refine (State.loaderControl_keeps _ _ ).after ?_ (by decide)
      | with_reducible refine (State.cfgCommit_keeps _ _ ).after ?_ (by decide)
      | with_reducible refine (State.partCommit_keeps _ _ _ ).after ?_ (by decide)
      | with_reducible refine (State.clearTile_keeps _ _ _ ).after ?_ (by decide)
      | with_reducible refine (State.clearMesh_keeps _ _ ).after ?_ (by decide)
      | with_reducible refine (State.clearWelt_keeps _ _ _ ).after ?_ (by decide)
      | with_reducible refine (State.clearL2_keeps _ _ _ ).after ?_ (by decide)
      | with_reducible refine (State.clearL3_keeps _ _ ).after ?_ (by decide)
      | with_reducible refine (State.dirPeek_keeps _ _ _ ).after ?_ (by decide)
      | with_reducible refine (State.consume_keeps _ _ _ _ _ _ ).after ?_ (by decide)
      | with_reducible refine (State.clearDir_keeps _ _ ).after ?_ (by decide)
      | with_reducible refine (State.eyeCtl_keeps _ _ _ _ ).after ?_ (by decide)
      | with_reducible refine (State.clearEye_keeps _ _ ).after ?_ (by decide)
      | with_reducible refine (State.clearDram_keeps _ _ ).after ?_ (by decide)
      | with_reducible refine (State.clearUci_keeps _ ).after ?_ (by decide)
      | with_reducible refine (State.resumeSq_keeps _ _ _ ).after ?_ (by decide)
      | with_reducible refine (State.clearPort_keeps _ _ _ ).after ?_ (by decide)
      | with_reducible refine (State.qpPeek_keeps _ _ ).after ?_ (by decide)
      | with_reducible refine (State.clearJob_keeps _ ).after ?_ (by decide)
      | with_reducible refine (State.clearAcc_keeps _ _ ).after ?_ (by decide)
      | with_reducible refine (State.pmControl_keeps _ _ _ ).after ?_ (by decide)
      | with_reducible refine (State.recTail_keeps _ _ ).after ?_ (by decide)
      | with_reducible refine (State.evTail_keeps _ _ ).after ?_ (by decide)
      | with_reducible refine (State.unseenImage_keeps _ _ _ ).after ?_ (by decide)
      | with_reducible refine (State.rtsGo_keeps _ _ _ ).after ?_ (by decide)
      | with_reducible refine (State.clearPwr_keeps _ ).after ?_ (by decide)
      | with_reducible refine (State.labelPeek_keeps _ _ ).after ?_ (by decide)
      | with_reducible refine (State.fuseGo_keeps _ _ ).after ?_ (by decide)
      | with_reducible refine (State.clearAwl_keeps _ _ ).after ?_ (by decide)
      | with_reducible refine (State.lifeCommand_keeps _ _ _ _ ).after ?_ (by decide)
      | with_reducible refine (State.fwStage_keeps _ _ _ ).after ?_ (by decide))

theorem State.writeReg_keeps (s : State) (a v : Nat) : Keeps 89784143 s (State.writeReg s a v) := by
  unfold State.writeReg
  split
  · next x i h =>
    obtain ⟨y, hy, hz⟩ := List.exists_of_findSome?_eq_some h
    obtain ⟨j, -, hj⟩ := Option.map_eq_some_iff.1 hz
    cases hj
    refine (actions_keep hy _ _ _ _).after (Keeps.ite (fun _ => Keeps.refl _ _) fun _ => ?_) (by decide)
    exact (State.writeFields_keeps _ _ _).mono (by decide)
  · exact (State.writeFields_keeps _ _ _).mono (by decide)

theorem State.unmask_keeps (s : State) (fn) (vec) :
    Keeps 4196352 s (State.unmask s fn vec) := by
  unfold State.unmask
  repeat' first
    | with_reducible exact Keeps.refl _ _ | with_reducible refine Keeps.ite (fun _ => ?_) (fun _ => ?_)
    | with_reducible refine (State.message_keeps _ _ _ ).after ?_ (by decide)
    | with_reducible refine (State.setVector_keeps _ _ _ _ ).after ?_ (by decide) | (lift_lets -underBinder; intros) | split

theorem State.msixWrite_keeps (s : State) (fn) (o) (v) :
    Keeps 4196352 s (State.msixWrite s fn o v) := by
  unfold State.msixWrite
  repeat' first
    | with_reducible exact Keeps.refl _ _ | with_reducible refine Keeps.ite (fun _ => ?_) (fun _ => ?_)
    | with_reducible refine (State.setVector_keeps _ _ _ _ ).after ?_ (by decide)
    | with_reducible refine (State.unmask_keeps _ _ _ ).after ?_ (by decide) | (lift_lets -underBinder; intros) | split

theorem State.write_keeps (s : State) (src) (sp) (off) (width) (v) :
    Keeps 89784143 s (State.write s src sp off width v).2 := by
  unfold State.write
  repeat' first
    | with_reducible exact Keeps.refl _ _ | with_reducible refine Keeps.ite (fun _ => ?_) (fun _ => ?_)
    | with_reducible refine (State.badAccess_keeps _ _ _ _ _ ).after ?_ (by decide)
    | with_reducible refine (State.writeReg_keeps _ _ _ ).after ?_ (by decide)
    | with_reducible refine (State.msixWrite_keeps _ _ _ _ ).after ?_ (by decide) | (lift_lets -underBinder; intros) | split

theorem State.repairCandidate_keeps (s : State) (e) :
    Keeps 262145 s (State.repairCandidate s e) := by
  unfold State.repairCandidate
  repeat' first
    | with_reducible exact Keeps.refl _ _ | with_reducible refine Keeps.ite (fun _ => ?_) (fun _ => ?_)
    | with_reducible refine (State.addTo_keeps _ _ _ ).after ?_ (by decide)
    | with_reducible refine (State.set_keeps _ _ _ ).after ?_ (by decide) | (lift_lets -underBinder; intros) | split
    | refine Keeps.setSecSt ?_ (.inr rfl) (.inl (by decide)) (.inr ⟨rfl, rfl, rfl⟩) (.inr rfl)

theorem State.takeHev_keeps (s : State) (m) :
    Keeps 88112965 s (State.takeHev s m) := by
  unfold State.takeHev
  repeat' first
    | with_reducible exact Keeps.refl _ _ | with_reducible refine Keeps.ite (fun _ => ?_) (fun _ => ?_)
    | with_reducible refine (State.putEnt_keeps _ _ ).after ?_ (by decide)
    | with_reducible refine (State.settle_keeps _ _ _ _ ).after ?_ (by decide)
    | with_reducible refine (State.serveHome_keeps _ ).after ?_ (by decide)
    | with_reducible refine (State.cmpOnly_keeps _ _ _ ).after ?_ (by decide)
    | with_reducible refine (State.freeEnt_keeps _ _ ).after ?_ (by decide) | (lift_lets -underBinder; intros) | split

theorem execHev_keeps (m) (s : State) :
    KeepsO 88112965 s (execHev m s) := by
  unfold execHev
  repeat' first
    | with_reducible refine KeepsO.next ?_ | with_reducible refine KeepsO.ite (fun _ => ?_) (fun _ => ?_)
    | with_reducible exact Keeps.refl _ _ | with_reducible refine Keeps.ite (fun _ => ?_) (fun _ => ?_)
    | with_reducible refine (State.takeHev_keeps _ _ ).after ?_ (by decide)
    | with_reducible refine (State.arrive_keeps _ _ ).after ?_ (by decide) | split

theorem State.startSq_keeps (s : State) (p) (k) (on) (base) :
    Keeps 4225861 s (State.startSq s p k on base) := by
  unfold State.startSq
  repeat' first
    | with_reducible exact Keeps.refl _ _ | with_reducible refine Keeps.ite (fun _ => ?_) (fun _ => ?_)
    | with_reducible refine (State.setPartSt_keeps _ _ _ ).after ?_ (by decide)
    | with_reducible refine (State.set_keeps _ _ _ ).after ?_ (by decide)
    | with_reducible refine (State.schedWrite_keeps _ _ _ _ _ ).after ?_ (by decide)
    | with_reducible refine (State.setAll_keeps _ _ ).after ?_ (by decide) | (lift_lets -underBinder; intros) | split

theorem execComplete_keeps (k) (f) (s : State) :
    KeepsO 4198465 s (execComplete k f s) := by
  unfold execComplete State.laceFrame
  repeat' first
    | with_reducible refine KeepsO.next ?_ | with_reducible refine KeepsO.ite (fun _ => ?_) (fun _ => ?_)
    | with_reducible exact Keeps.refl _ _ | with_reducible refine Keeps.ite (fun _ => ?_) (fun _ => ?_)
    | with_reducible refine (State.completeInst_keeps _ _ _ _ ).after ?_ (by decide)
    | with_reducible refine (State.rxCount_keeps _ _ ).after ?_ (by decide)
    | with_reducible refine (State.rxStale_keeps _ _ ).after ?_ (by decide) | dsimp -zeta only | split

theorem State.readConsumer_keeps (s : State) (k) (p) (q) (c) :
    Keeps 4225861 s (State.readConsumer s k p q c) := by
  unfold State.readConsumer
  repeat' first
    | with_reducible exact Keeps.refl _ _ | with_reducible refine Keeps.ite (fun _ => ?_) (fun _ => ?_)
    | with_reducible refine (State.issueRead_keeps _ _ _ _ ).after ?_ (by decide)
    | with_reducible refine Keeps.snd (by assumption) ?_ | split

theorem State.rnr_keeps (s : State) (p) (q) (c) (x) :
    Keeps 4225861 s (State.rnr s p q c x) := by
  unfold State.rnr
  repeat' first
    | with_reducible exact Keeps.refl _ _ | with_reducible refine Keeps.ite (fun _ => ?_) (fun _ => ?_)
    | with_reducible refine (State.readConsumer_keeps _ _ _ _ _ ).after ?_ (by decide)
    | with_reducible refine (State.qpReply_keeps _ _ _ _ ).after ?_ (by decide) | split

theorem execRaiseLastFloor_keeps (hostImage) (fetched) (s : State) :
    KeepsO 89751373 s (execRaiseLastFloor hostImage fetched s) := by
  unfold execRaiseLastFloor
  repeat' first
    | with_reducible refine KeepsO.next ?_ | with_reducible refine KeepsO.ite (fun _ => ?_) (fun _ => ?_)
    | with_reducible exact Keeps.refl _ _ | with_reducible refine Keeps.ite (fun _ => ?_) (fun _ => ?_)
    | with_reducible refine (State.lifeCommand_keeps _ _ _ _ ).after ?_ (by decide) | split

theorem State.setModule_keeps (s : State) (k) (st) :
    Keeps 1 s (State.setModule s k st) := by
  unfold State.setModule
  repeat' first
    | with_reducible exact Keeps.refl _ _ | with_reducible refine Keeps.ite (fun _ => ?_) (fun _ => ?_)
    | with_reducible refine (State.setBitOf_keeps _ _ _ _ ).after ?_ (by decide)
    | with_reducible refine (State.setAll_keeps _ _ ).after ?_ (by decide) | split

theorem State.hostLost_keeps (s : State) :
    Keeps 4225861 s (State.hostLost s) := by
  unfold State.hostLost
  repeat' first
    | with_reducible exact Keeps.refl _ _ | with_reducible refine Keeps.ite (fun _ => ?_) (fun _ => ?_)
    | with_reducible refine (State.bump_keeps _ _ _ ).after ?_ (by decide)
    | with_reducible refine (State.filterRespond_keeps _ _ _ _ ).after ?_ (by decide)
    | with_reducible refine (State.spillFault_keeps _ _ ).after ?_ (by decide)
    | with_reducible refine (State.setUci_keeps _ _ ).after ?_ (by decide)
    | with_reducible refine (State.set_keeps _ _ _ ).after ?_ (by decide)
    | with_reducible refine (State.setHostReqs_keeps _ _ ).after ?_ (by decide)
    | with_reducible refine (State.setModule_keeps _ _ _ ).after ?_ (by decide)
    | with_reducible refine (State.event_keeps _ _ _ _ _ _ ).after ?_ (by decide)
    | with_reducible refine Keeps.foldl ?_ (fun u1 _ => ?_) | (lift_lets -underBinder; intros) | split

theorem State.interruptSteps_keeps (s : State) (p : Nat) : Keeps 833 s (State.interruptSteps s p) := by
  unfold State.interruptSteps
  refine Keeps.foldl (Keeps.refl _ _) fun u k => ?_
  have h := State.stopTask_keeps u k
  generalize State.stopTask u k = v at h
  exact Keeps.setTileSt (h.mono (by decide)) (.inl (by decide)) (.inr rfl) (.inr rfl) id

theorem execBudgetGuard_keeps (d) (s : State) :
    KeepsO 4311041 s (execBudgetGuard d s) := by
  unfold execBudgetGuard
  repeat' first
    | with_reducible refine KeepsO.next ?_ | with_reducible refine KeepsO.ite (fun _ => ?_) (fun _ => ?_)
    | with_reducible exact Keeps.refl _ _ | with_reducible refine Keeps.ite (fun _ => ?_) (fun _ => ?_)
    | with_reducible refine (State.setPowerDie_keeps _ _ _ ).after ?_ (by decide)
    | with_reducible refine (State.leaveWindow_keeps _ ).after ?_ (by decide)
    | with_reducible refine (State.set_keeps _ _ _ ).after ?_ (by decide)
    | with_reducible refine (State.updateThrottle_keeps _ ).after ?_ (by decide) | (lift_lets -underBinder; intros) | split

theorem State.scratchWriteMasked_keeps (s : State) (t) (off) (mask) (bs) :
    Keeps 33554432 s (State.scratchWriteMasked s t off mask bs) := by
  unfold State.scratchWriteMasked
  repeat' first
    | with_reducible exact Keeps.refl _ _ | with_reducible refine Keeps.ite (fun _ => ?_) (fun _ => ?_)
    | (lift_lets -underBinder; intros) | split
    | refine Keeps.setTileSt ?_ (.inr ⟨rfl, rfl, rfl⟩) (.inl (by decide)) (.inr rfl) (by first | exact id | exact mapWf_mapSet _ _ | exact mapWf_filter _ | exact mapWf_mapSetList _ _ | exact mapWf_mapSetMasked _ _ _ | exact mapWf_mapClear _ _ | exact fun _ => rfl)

theorem State.needRoutes_keeps (s : State) (d) :
    Keeps 16384 s (State.needRoutes s d) := by
  unfold State.needRoutes
  repeat' first
    | with_reducible exact Keeps.refl _ _ | with_reducible refine Keeps.ite (fun _ => ?_) (fun _ => ?_)
    | with_reducible refine (State.setFlt_keeps _ _ ).after ?_ (by decide) | (lift_lets -underBinder; intros) | split

theorem State.overrunRecord_keeps (s : State) (throttled) (period) (k) :
    Keeps 4225861 s (State.overrunRecord s throttled period k) := by
  unfold State.overrunRecord
  repeat' first
    | with_reducible exact Keeps.refl _ _ | with_reducible refine Keeps.ite (fun _ => ?_) (fun _ => ?_)
    | with_reducible refine (State.writeRecord_keeps _ _ _ _ _ _ ).after ?_ (by decide)
    | with_reducible refine (State.jobStepFail_keeps _ _ _ ).after ?_ (by decide) | split

theorem State.ceilingTick_keeps (s : State) (d) :
    Keeps 32769 s (State.ceilingTick s d) := by
  unfold State.ceilingTick
  repeat' first
    | with_reducible exact Keeps.refl _ _ | with_reducible refine Keeps.ite (fun _ => ?_) (fun _ => ?_)
    | with_reducible refine (State.setPowerDie_keeps _ _ _ ).after ?_ (by decide)
    | with_reducible refine (State.set_keeps _ _ _ ).after ?_ (by decide) | (lift_lets -underBinder; intros) | split

theorem State.advanceRing_keeps (s : State) (p) (k) (n) :
    Keeps 4225861 s (State.advanceRing s p k n) := by
  unfold State.advanceRing
  repeat' first
    | with_reducible exact Keeps.refl _ _ | with_reducible refine Keeps.ite (fun _ => ?_) (fun _ => ?_)
    | with_reducible refine (State.set_keeps _ _ _ ).after ?_ (by decide)
    | with_reducible refine (State.schedWrite_keeps _ _ _ _ _ ).after ?_ (by decide) | (lift_lets -underBinder; intros)
    | split

theorem State.scratchWrite_keeps (s : State) (t) (off) (bs) :
    Keeps 33554432 s (State.scratchWrite s t off bs) := by
  unfold State.scratchWrite
  repeat' first
    | with_reducible exact Keeps.refl _ _ | with_reducible refine Keeps.ite (fun _ => ?_) (fun _ => ?_)
    | (lift_lets -underBinder; intros) | split
    | refine Keeps.setTileSt ?_ (.inr ⟨rfl, rfl, rfl⟩) (.inl (by decide)) (.inr rfl) (by first | exact id | exact mapWf_mapSet _ _ | exact mapWf_filter _ | exact mapWf_mapSetList _ _ | exact mapWf_mapSetMasked _ _ _ | exact mapWf_mapClear _ _ | exact fun _ => rfl)

theorem State.setQueue_keeps (s : State) (t) (g) (q) :
    Keeps 64 s (State.setQueue s t g q) := by
  unfold State.setQueue
  repeat' first
    | with_reducible exact Keeps.refl _ _ | with_reducible refine Keeps.ite (fun _ => ?_) (fun _ => ?_)
    | with_reducible refine (State.setGroup_keeps _ _ _ _ ).after ?_ (by decide) | (lift_lets -underBinder; intros) | split

theorem State.l1Store_keeps (s : State) (t) (p) (key) (home) (mask) (bs) :
    Keeps 4225861 s (State.l1Store s t p key home mask bs) := by
  unfold State.l1Store
  repeat' first
    | with_reducible exact Keeps.refl _ _ | with_reducible refine Keeps.ite (fun _ => ?_) (fun _ => ?_)
    | with_reducible refine (State.l1Insert_keeps _ _ _ _ ).after ?_ (by decide)
    | with_reducible refine (State.putL1_keeps _ _ _ ).after ?_ (by decide) | split

theorem State.drainEntry_keeps (s : State) (t) (p) (e) :
    Keeps 37780293 s (State.drainEntry s t p e) := by
  unfold State.drainEntry
  repeat' first
    | with_reducible exact Keeps.refl _ _ | with_reducible refine Keeps.ite (fun _ => ?_) (fun _ => ?_)
    | with_reducible refine (State.unmapped_keeps _ _ _ _ ).after ?_ (by decide)
    | with_reducible refine (State.wake_keeps _ _ _ _ ).after ?_ (by decide)
    | with_reducible refine (State.l1Store_keeps _ _ _ _ _ _ _ ).after ?_ (by decide)
    | with_reducible refine (State.scratchWriteMasked_keeps _ _ _ _ _ ).after ?_ (by decide) | split

theorem State.drainWhere_keeps (s : State) (t) (g) (p) (f) :
    Keeps 37780293 s (State.drainWhere s t g p f) := by
  unfold State.drainWhere
  repeat' first
    | with_reducible exact Keeps.refl _ _ | with_reducible refine Keeps.ite (fun _ => ?_) (fun _ => ?_)
    | with_reducible refine (State.setQueue_keeps _ _ _ _ ).after ?_ (by decide)
    | with_reducible refine (State.drainEntry_keeps _ _ _ _ ).after ?_ (by decide)
    | with_reducible refine Keeps.foldl ?_ (fun u1 _ => ?_) | (lift_lets -underBinder; intros) | split

theorem State.scratchOp_keeps (s : State) (t) (g) (p) (off) (op) (fn) (ty) (round) :
    Keeps 37780293 s (State.scratchOp s t g p off op fn ty round).2 := by
  unfold State.scratchOp
  repeat' first
    | with_reducible exact Keeps.refl _ _ | with_reducible refine Keeps.ite (fun _ => ?_) (fun _ => ?_)
    | with_reducible refine (State.scratchWrite_keeps _ _ _ _ ).after ?_ (by decide)
    | with_reducible refine (State.wake_keeps _ _ _ _ ).after ?_ (by decide)
    | with_reducible refine (State.drainWhere_keeps _ _ _ _ _ ).after ?_ (by decide) | (lift_lets -underBinder; intros)
    | split

theorem State.scratchOps_keeps (s : State) (t) (g) (p) (ops) (fn) (ty) (round) (reduction) :
    Keeps 37780293 s (State.scratchOps s t g p ops fn ty round reduction) := by
  unfold State.scratchOps
  repeat' first
    | with_reducible exact Keeps.refl _ _ | with_reducible refine Keeps.ite (fun _ => ?_) (fun _ => ?_)
    | with_reducible refine (State.scratchOp_keeps _ _ _ _ _ _ _ _ _ ).after ?_ (by decide)
    | with_reducible refine (State.giveLane_keeps _ _ _ _ _ ).after ?_ (by decide)
    | with_reducible refine Keeps.foldl ?_ (fun u1 _ => ?_) | with_reducible refine Keeps.foldlSnd ?_ (fun u1 _ => ?_)
    | with_reducible refine Keeps.snd (by assumption) ?_ | (lift_lets -underBinder; intros) | split

theorem State.dropL1_keeps (s : State) (t) (key) :
    Keeps 64 s (State.dropL1 s t key) := by
  unfold State.dropL1
  repeat' first
    | with_reducible exact Keeps.refl _ _ | with_reducible refine Keeps.ite (fun _ => ?_) (fun _ => ?_)
    | with_reducible refine (State.setL1_keeps _ _ _ ).after ?_ (by decide) | split

theorem State.sendOps_keeps (s : State) (t) (g) (p) (ops) (fn) (ty) (round) (acquire) (reduction) (hint) :
    Keeps 4225861 s (State.sendOps s t g p ops fn ty round acquire reduction hint) := by
  unfold State.sendOps
  repeat' first
    | with_reducible exact Keeps.refl _ _ | with_reducible refine Keeps.ite (fun _ => ?_) (fun _ => ?_)
    | with_reducible refine (State.unmapped_keeps _ _ _ _ ).after ?_ (by decide)
    | with_reducible refine (State.issueWrite_keeps _ _ _ _ ).after ?_ (by decide)
    | with_reducible refine (State.dropL1_keeps _ _ _ ).after ?_ (by decide)
    | with_reducible refine (State.spoilLoads_keeps _ _ _ ).after ?_ (by decide)
    | with_reducible refine Keeps.foldl ?_ (fun u1 _ => ?_) | (lift_lets -underBinder; intros) | split

theorem State.runCont_keeps (s : State) (t) (g) (p) (i) (c) :
    Keeps 37780293 s (State.runCont s t g p i c) := by
  unfold State.runCont
  repeat' first
    | with_reducible exact Keeps.refl _ _ | with_reducible refine Keeps.ite (fun _ => ?_) (fun _ => ?_)
    | with_reducible refine (State.acquire_keeps _ _ _ ).after ?_ (by decide)
    | with_reducible refine (State.setGroup_keeps _ _ _ _ ).after ?_ (by decide)
    | with_reducible refine (State.eyeCount_keeps _ _ _ ).after ?_ (by decide)
    | with_reducible refine (State.scratchOps_keeps _ _ _ _ _ _ _ _ _ ).after ?_ (by decide)
    | with_reducible refine (State.sendOps_keeps _ _ _ _ _ _ _ _ _ _ _ ).after ?_ (by decide)
    | with_reducible refine Keeps.foldl ?_ (fun u1 _ => ?_) | (lift_lets -underBinder; intros) | split

theorem State.filterTake_keeps (s : State) (m) :
    Keeps 21003077 s (State.filterTake s m) := by
  unfold State.filterTake
  repeat' first
    | with_reducible exact Keeps.refl _ _ | with_reducible refine Keeps.ite (fun _ => ?_) (fun _ => ?_)
    | with_reducible refine (State.filterServe_keeps _ _ ).after ?_ (by decide)
    | with_reducible refine (State.serveFilter_keeps _ ).after ?_ (by decide)
    | with_reducible refine (State.setFilterWait_keeps _ _ ).after ?_ (by decide)
    | with_reducible refine Keeps.snd (by assumption) ?_ | (lift_lets -underBinder; intros) | split

theorem State.arriveRequest_keeps (s : State) (m) (opcode) :
    Keeps 88112965 s (State.arriveRequest s m opcode) := by
  unfold State.arriveRequest
  repeat' first
    | with_reducible exact Keeps.refl _ _ | with_reducible refine Keeps.ite (fun _ => ?_) (fun _ => ?_)
    | with_reducible refine (State.arrive_keeps _ _ ).after ?_ (by decide)
    | with_reducible refine (State.takeRequest_keeps _ _ ).after ?_ (by decide)
    | with_reducible refine (State.filterTake_keeps _ _ ).after ?_ (by decide) | (lift_lets -underBinder; intros) | split

theorem execUpg_keeps (m) (s : State) :
    KeepsO 88112965 s (execUpg m s) := by
  unfold execUpg
  repeat' first
    | with_reducible refine KeepsO.next ?_ | with_reducible refine KeepsO.ite (fun _ => ?_) (fun _ => ?_)
    | with_reducible exact Keeps.refl _ _ | with_reducible refine Keeps.ite (fun _ => ?_) (fun _ => ?_)
    | with_reducible refine (State.arriveRequest_keeps _ _ _ ).after ?_ (by decide) | split

theorem execFreq_keeps (k) (f) (s : State) :
    KeepsO 4198401 s (execFreq k f s) := by
  unfold execFreq State.laceFrame
  repeat' first
    | with_reducible refine KeepsO.next ?_ | with_reducible refine KeepsO.ite (fun _ => ?_) (fun _ => ?_)
    | with_reducible exact Keeps.refl _ _ | with_reducible refine Keeps.ite (fun _ => ?_) (fun _ => ?_)
    | with_reducible refine (State.laceDown_keeps _ _ ).after ?_ (by decide)
    | with_reducible refine (State.setJob_keeps _ _ ).after ?_ (by decide)
    | with_reducible refine (State.rxCount_keeps _ _ ).after ?_ (by decide)
    | with_reducible refine (State.rxStale_keeps _ _ ).after ?_ (by decide) | (lift_lets -underBinder; intros)
    | dsimp -zeta only | split

theorem State.rotatePointers_keeps (s : State) (p) :
    Keeps 8192 s (State.rotatePointers s p) := by
  unfold State.rotatePointers
  repeat' first
    | with_reducible exact Keeps.refl _ _ | with_reducible refine Keeps.ite (fun _ => ?_) (fun _ => ?_)
    | with_reducible refine (State.setPartSt_keeps _ _ _ ).after ?_ (by decide) | (lift_lets -underBinder; intros) | split

theorem execUnitResetDone_keeps (s : State) :
    KeepsO 16385 s (execUnitResetDone s) := by
  unfold execUnitResetDone
  repeat' first
    | with_reducible refine KeepsO.next ?_ | with_reducible refine KeepsO.ite (fun _ => ?_) (fun _ => ?_)
    | with_reducible exact Keeps.refl _ _ | with_reducible refine Keeps.ite (fun _ => ?_) (fun _ => ?_)
    | with_reducible refine (State.setFlt_keeps _ _ ).after ?_ (by decide)
    | with_reducible refine (State.showReplay_keeps _ ).after ?_ (by decide) | (lift_lets -underBinder; intros) | split

theorem State.recordAccepted_keeps (s : State) (p) (cq) (index) :
    Keeps 8192 s (State.recordAccepted s p cq index) := by
  unfold State.recordAccepted
  repeat' first
    | with_reducible exact Keeps.refl _ _ | with_reducible refine Keeps.ite (fun _ => ?_) (fun _ => ?_)
    | with_reducible refine (State.setRecords_keeps _ _ ).after ?_ (by decide) | split

theorem State.takeJoin_keeps (s : State) (p) (j) (subject) (stitch) :
    Keeps 4225861 s (State.takeJoin s p j subject stitch) := by
  unfold State.takeJoin
  repeat' first
    | with_reducible exact Keeps.refl _ _ | with_reducible refine Keeps.ite (fun _ => ?_) (fun _ => ?_)
    | with_reducible refine (State.laceDown_keeps _ _ ).after ?_ (by decide)
    | with_reducible refine (State.setJob_keeps _ _ ).after ?_ (by decide)
    | with_reducible refine (State.schedWrite_keeps _ _ _ _ _ ).after ?_ (by decide) | (lift_lets -underBinder; intros)
    | split

theorem State.takeTiles_keeps (s : State) (x) :
    Keeps 65 s (State.takeTiles s x) := by
  unfold State.takeTiles
  repeat' first
    | with_reducible exact Keeps.refl _ _ | with_reducible refine Keeps.ite (fun _ => ?_) (fun _ => ?_)
    | with_reducible refine (State.setTileCode_keeps _ _ _ ).after ?_ (by decide)
    | with_reducible refine (State.setTile_keeps _ _ _ ).after ?_ (by decide)
    | with_reducible refine (State.setAll_keeps _ _ ).after ?_ (by decide)
    | with_reducible refine Keeps.foldl ?_ (fun u1 _ => ?_) | (lift_lets -underBinder; intros) | split
    | refine Keeps.setTileSt ?_ (.inl (by decide)) (.inr rfl) (.inr rfl) (by first | exact id | exact mapWf_mapSet _ _ | exact mapWf_filter _ | exact mapWf_mapSetList _ _ | exact mapWf_mapSetMasked _ _ _ | exact mapWf_mapClear _ _ | exact fun _ => rfl)

theorem State.replaySteps_keeps (s : State) (p) :
    Keeps 4212801 s (State.replaySteps s p) := by
  unfold State.replaySteps
  repeat' first
    | with_reducible exact Keeps.refl _ _ | with_reducible refine Keeps.ite (fun _ => ?_) (fun _ => ?_)
    | with_reducible refine (State.takeTiles_keeps _ _ ).after ?_ (by decide)
    | with_reducible refine (State.event_keeps _ _ _ _ _ _ ).after ?_ (by decide)
    | with_reducible refine Keeps.foldl ?_ (fun u1 _ => ?_) | (lift_lets -underBinder; intros) | split
    | refine Keeps.setTileSt ?_ (.inl (by decide)) (.inr rfl) (.inr rfl) (by first | exact id | exact mapWf_mapSet _ _ | exact mapWf_filter _ | exact mapWf_mapSetList _ _ | exact mapWf_mapSetMasked _ _ _ | exact mapWf_mapClear _ _ | exact fun _ => rfl)

theorem State.dropInterrupted_keeps (s : State) (p) :
    Keeps 65 s (State.dropInterrupted s p) := by
  unfold State.dropInterrupted
  repeat' first
    | with_reducible exact Keeps.refl _ _ | with_reducible refine Keeps.ite (fun _ => ?_) (fun _ => ?_)
    | with_reducible refine (State.set_keeps _ _ _ ).after ?_ (by decide)
    | with_reducible refine Keeps.foldl ?_ (fun u1 _ => ?_) | (lift_lets -underBinder; intros) | split
    | refine Keeps.setTileSt ?_ (.inl (by decide)) (.inr rfl) (.inr rfl) (by first | exact id | exact mapWf_mapSet _ _ | exact mapWf_filter _ | exact mapWf_mapSetList _ _ | exact mapWf_mapSetMasked _ _ _ | exact mapWf_mapClear _ _ | exact fun _ => rfl)

theorem State.replayTick_keeps (s : State) (r) :
    Keeps 4212801 s (State.replayTick s r) := by
  unfold State.replayTick
  repeat' first
    | with_reducible exact Keeps.refl _ _ | with_reducible refine Keeps.ite (fun _ => ?_) (fun _ => ?_)
    | with_reducible refine (State.replaySteps_keeps _ _ ).after ?_ (by decide)
    | with_reducible refine (State.recordFault_keeps _ _ ).after ?_ (by decide)
    | with_reducible refine (State.setFlt_keeps _ _ ).after ?_ (by decide)
    | with_reducible refine (State.dropInterrupted_keeps _ _ ).after ?_ (by decide) | (lift_lets -underBinder; intros)
    | split

theorem State.qpResend_keeps (s : State) (p) (q) (psn) :
    Keeps 4198401 s (State.qpResend s p q psn) := by
  unfold State.qpResend
  repeat' first
    | with_reducible exact Keeps.refl _ _ | with_reducible refine Keeps.ite (fun _ => ?_) (fun _ => ?_)
    | with_reducible refine (State.sendPkt_keeps _ _ _ _ ).after ?_ (by decide)
    | with_reducible refine Keeps.foldl ?_ (fun u1 _ => ?_) | split

theorem execEntdaa_keeps (addr) (s : State) :
    KeepsO 2048 s (execEntdaa addr s) := by
  unfold execEntdaa
  repeat' first
    | with_reducible refine KeepsO.next ?_ | with_reducible refine KeepsO.ite (fun _ => ?_) (fun _ => ?_)
    | with_reducible exact Keeps.refl _ _ | with_reducible refine Keeps.ite (fun _ => ?_) (fun _ => ?_)
    | with_reducible refine (State.setUci_keeps _ _ ).after ?_ (by decide) | (lift_lets -underBinder; intros) | split

theorem execPmThaw_keeps (p) (v) (s : State) :
    KeepsO 88112965 s (execPmThaw p v s) := by
  unfold execPmThaw
  repeat' first
    | with_reducible refine KeepsO.next ?_ | with_reducible refine KeepsO.ite (fun _ => ?_) (fun _ => ?_)
    | with_reducible exact Keeps.refl _ _ | with_reducible refine Keeps.ite (fun _ => ?_) (fun _ => ?_)
    | with_reducible refine (State.pmControl_keeps _ _ _ ).after ?_ (by decide) | split

theorem State.softRepair_keeps (s : State) (d) (r) :
    Keeps 65537 s (State.softRepair s d r) := by
  unfold State.softRepair
  repeat' first
    | with_reducible exact Keeps.refl _ _ | with_reducible refine Keeps.ite (fun _ => ?_) (fun _ => ?_)
    | with_reducible refine (State.setAwl_keeps _ _ ).after ?_ (by decide)
    | with_reducible refine (State.addTo_keeps _ _ _ ).after ?_ (by decide) | (lift_lets -underBinder; intros) | split

theorem State.softEvent_keeps (s : State) (d) (r) :
    Keeps 4278273 s (State.softEvent s d r) := by
  unfold State.softEvent
  repeat' first
    | with_reducible exact Keeps.refl _ _ | with_reducible refine Keeps.ite (fun _ => ?_) (fun _ => ?_)
    | with_reducible refine (State.softRepair_keeps _ _ _ ).after ?_ (by decide)
    | with_reducible refine (State.event_keeps _ _ _ _ _ _ ).after ?_ (by decide) | split

theorem State.nakInvalid_keeps (s : State) (p) (q) (x) :
    Keeps 4198401 s (State.nakInvalid s p q x) := by
  unfold State.nakInvalid
  repeat' first
    | with_reducible exact Keeps.refl _ _ | with_reducible refine Keeps.ite (fun _ => ?_) (fun _ => ?_)
    | with_reducible refine (State.qpReply_keeps _ _ _ _ ).after ?_ (by decide) | split

theorem execMsixUnmask_keeps (fn) (vec) (s : State) :
    KeepsO 4196352 s (execMsixUnmask fn vec s) := by
  unfold execMsixUnmask
  repeat' first
    | with_reducible refine KeepsO.next ?_ | with_reducible refine KeepsO.ite (fun _ => ?_) (fun _ => ?_)
    | with_reducible exact Keeps.refl _ _ | with_reducible refine Keeps.ite (fun _ => ?_) (fun _ => ?_)
    | with_reducible refine (State.unmask_keeps _ _ _ ).after ?_ (by decide) | split

theorem execPartCommit_keeps (n) (v) (s : State) :
    KeepsO 5 s (execPartCommit n v s) := by
  unfold execPartCommit
  repeat' first
    | with_reducible refine KeepsO.next ?_ | with_reducible refine KeepsO.ite (fun _ => ?_) (fun _ => ?_)
    | with_reducible exact Keeps.refl _ _ | with_reducible refine Keeps.ite (fun _ => ?_) (fun _ => ?_)
    | with_reducible refine (State.partCommit_keeps _ _ _ ).after ?_ (by decide) | split

theorem execRdx_keeps (m) (s : State) :
    KeepsO 88112965 s (execRdx m s) := by
  unfold execRdx
  repeat' first
    | with_reducible refine KeepsO.next ?_ | with_reducible refine KeepsO.ite (fun _ => ?_) (fun _ => ?_)
    | with_reducible exact Keeps.refl _ _ | with_reducible refine Keeps.ite (fun _ => ?_) (fun _ => ?_)
    | with_reducible refine (State.arriveRequest_keeps _ _ _ ).after ?_ (by decide) | split

theorem State.backInvalidate_keeps (s : State) (m) (down) :
    Keeps 4194304 s (State.backInvalidate s m down) := by
  unfold State.backInvalidate
  repeat' first
    | with_reducible exact Keeps.refl _ _ | with_reducible refine Keeps.ite (fun _ => ?_) (fun _ => ?_)
    | with_reducible refine (State.emit_keeps _ _ ).after ?_ (by decide) | split

theorem execBinv_keeps (m) (s : State) :
    KeepsO 4194560 s (execBinv m s) := by
  unfold execBinv
  repeat' first
    | with_reducible refine KeepsO.next ?_ | with_reducible refine KeepsO.ite (fun _ => ?_) (fun _ => ?_)
    | with_reducible exact Keeps.refl _ _ | with_reducible refine Keeps.ite (fun _ => ?_) (fun _ => ?_)
    | with_reducible refine (State.arrive_keeps _ _ ).after ?_ (by decide)
    | with_reducible refine (State.backInvalidate_keeps _ _ _ ).after ?_ (by decide) | split

theorem State.sliceFailed_keeps (s : State) (d) (k) (unit) (code) :
    Keeps 4278273 s (State.sliceFailed s d k unit code) := by
  unfold State.sliceFailed
  repeat' first
    | with_reducible exact Keeps.refl _ _ | with_reducible refine Keeps.ite (fun _ => ?_) (fun _ => ?_)
    | with_reducible refine (State.setAwl_keeps _ _ ).after ?_ (by decide)
    | with_reducible refine (State.setAll_keeps _ _ ).after ?_ (by decide)
    | with_reducible refine (State.event_keeps _ _ _ _ _ _ ).after ?_ (by decide) | (lift_lets -underBinder; intros) | split

theorem State.setPins_keeps (s : State) (p) :
    Keeps 2097152 s (State.setPins s p) := by
  unfold State.setPins
  repeat' first
    | with_reducible exact Keeps.refl _ _ | with_reducible refine Keeps.ite (fun _ => ?_) (fun _ => ?_) | split
    | with_reducible refine Keeps.setPins ?_ (by decide)

theorem execReadyRise_keeps (timeMs) (s : State) :
    KeepsO 2097155 s (execReadyRise timeMs s) := by
  unfold execReadyRise
  repeat' first
    | with_reducible refine KeepsO.next ?_ | with_reducible refine KeepsO.ite (fun _ => ?_) (fun _ => ?_)
    | with_reducible exact Keeps.refl _ _ | with_reducible refine Keeps.ite (fun _ => ?_) (fun _ => ?_)
    | with_reducible refine (State.advanceTo_keeps _ _ ).after ?_ (by decide)
    | with_reducible refine (State.setPins_keeps _ _ ).after ?_ (by decide)
    | with_reducible refine (State.set_keeps _ _ _ ).after ?_ (by decide) | (lift_lets -underBinder; intros) | split

theorem execFwd_keeps (m) (s : State) :
    KeepsO 256 s (execFwd m s) := by
  unfold execFwd
  repeat' first
    | with_reducible refine KeepsO.next ?_ | with_reducible refine KeepsO.ite (fun _ => ?_) (fun _ => ?_)
    | with_reducible exact Keeps.refl _ _ | with_reducible refine Keeps.ite (fun _ => ?_) (fun _ => ?_)
    | with_reducible refine (State.touchL2_keeps _ _ ).after ?_ (by decide)
    | with_reducible refine (State.arrive_keeps _ _ ).after ?_ (by decide)
    | with_reducible refine (State.send_keeps _ _ ).after ?_ (by decide) | (lift_lets -underBinder; intros) | split

theorem State.faultMany_keeps (s : State) (ps) (f) :
    Keeps 4225861 s (State.faultMany s ps f) := by
  unfold State.faultMany
  repeat' first
    | with_reducible exact Keeps.refl _ _ | with_reducible refine Keeps.ite (fun _ => ?_) (fun _ => ?_)
    | with_reducible refine (State.teardown_keeps _ _ _ ).after ?_ (by decide)
    | with_reducible refine (State.recordFault_keeps _ _ ).after ?_ (by decide)
    | with_reducible refine Keeps.foldl ?_ (fun u1 _ => ?_) | (lift_lets -underBinder; intros) | split

theorem State.countRecovery_keeps (s : State) :
    Keeps 16385 s (State.countRecovery s) := by
  unfold State.countRecovery
  repeat' first
    | with_reducible exact Keeps.refl _ _ | with_reducible refine Keeps.ite (fun _ => ?_) (fun _ => ?_)
    | with_reducible refine (State.bump_keeps _ _ _ ).after ?_ (by decide)
    | with_reducible refine (State.setFlt_keeps _ _ ).after ?_ (by decide)
    | with_reducible refine (State.setAll_keeps _ _ ).after ?_ (by decide) | (lift_lets -underBinder; intros) | split

theorem State.deviceRecovery_keeps (s : State) (f) :
    Keeps 88178509 s (State.deviceRecovery s f) := by
  unfold State.deviceRecovery
  repeat' first
    | with_reducible exact Keeps.refl _ _ | with_reducible refine Keeps.ite (fun _ => ?_) (fun _ => ?_)
    | with_reducible refine (State.resetDevice_keeps _ _ ).after ?_ (by decide)
    | with_reducible refine (State.recordFault_keeps _ _ ).after ?_ (by decide) | split

theorem State.startDeviceRecovery_keeps (s : State) (f) :
    Keeps 88178509 s (State.startDeviceRecovery s f) := by
  unfold State.startDeviceRecovery
  repeat' first
    | with_reducible exact Keeps.refl _ _ | with_reducible refine Keeps.ite (fun _ => ?_) (fun _ => ?_)
    | with_reducible refine (State.recordFault_keeps _ _ ).after ?_ (by decide)
    | with_reducible refine (State.countRecovery_keeps _ ).after ?_ (by decide)
    | with_reducible refine (State.deviceRecovery_keeps _ _ ).after ?_ (by decide) | split

theorem State.rewritePaths_keeps (s : State) :
    Keeps 4212865 s (State.rewritePaths s) := by
  unfold State.rewritePaths
  repeat' first
    | with_reducible exact Keeps.refl _ _ | with_reducible refine Keeps.ite (fun _ => ?_) (fun _ => ?_)
    | with_reducible refine (State.addTo_keeps _ _ _ ).after ?_ (by decide)
    | with_reducible refine (State.event_keeps _ _ _ _ _ _ ).after ?_ (by decide)
    | with_reducible refine Keeps.foldl ?_ (fun u1 _ => ?_) | (lift_lets -underBinder; intros) | split
    | with_reducible refine Keeps.setMesh ?_ (by decide)

theorem State.weltFault_keeps (s : State) (w) :
    Keeps 88178637 s (State.weltFault s w) := by
  unfold State.weltFault
  repeat' first
    | with_reducible exact Keeps.refl _ _ | with_reducible refine Keeps.ite (fun _ => ?_) (fun _ => ?_)
    | with_reducible refine (State.startDeviceRecovery_keeps _ _ ).after ?_ (by decide)
    | with_reducible refine (State.rewritePaths_keeps _ ).after ?_ (by decide) | split

theorem State.setWeltMode_keeps (s : State) (w) (g) (m) :
    Keeps 1 s (State.setWeltMode s w g m) := by
  unfold State.setWeltMode
  repeat' first
    | with_reducible exact Keeps.refl _ _ | with_reducible refine Keeps.ite (fun _ => ?_) (fun _ => ?_)
    | with_reducible refine (State.set_keeps _ _ _ ).after ?_ (by decide) | split

theorem State.excuse_keeps (s : State) :
    Keeps 16777280 s (State.excuse s) := by
  unfold State.excuse
  repeat' first
    | with_reducible exact Keeps.refl _ _ | with_reducible refine Keeps.ite (fun _ => ?_) (fun _ => ?_)
    | with_reducible refine (State.draw_keeps _ ).after ?_ (by decide)
    | with_reducible refine (State.setTask_keeps _ _ ).after ?_ (by decide)
    | with_reducible refine Keeps.foldl ?_ (fun u1 _ => ?_) | with_reducible refine Keeps.foldlSnd ?_ (fun u1 _ => ?_)
    | with_reducible refine Keeps.snd (by assumption) ?_ | split

theorem State.groupFails_keeps (s : State) (d) (w) (g) :
    Keeps 88178637 s (State.groupFails s d w g) := by
  unfold State.groupFails
  repeat' first
    | with_reducible exact Keeps.refl _ _ | with_reducible refine Keeps.ite (fun _ => ?_) (fun _ => ?_)
    | with_reducible refine (State.recordFault_keeps _ _ ).after ?_ (by decide)
    | with_reducible refine (State.faultMany_keeps _ _ _ ).after ?_ (by decide)
    | with_reducible refine (State.weltFault_keeps _ _ ).after ?_ (by decide)
    | with_reducible refine (State.setWeltMode_keeps _ _ _ _ ).after ?_ (by decide)
    | with_reducible refine (State.needRoutes_keeps _ _ ).after ?_ (by decide)
    | with_reducible refine (State.excuse_keeps _ ).after ?_ (by decide)
    | with_reducible refine (State.event_keeps _ _ _ _ _ _ ).after ?_ (by decide) | (lift_lets -underBinder; intros) | split

theorem State.unitFault_keeps (s : State) (again) (f) :
    Keeps 4225861 s (State.unitFault s again f) := by
  unfold State.unitFault
  repeat' first
    | with_reducible exact Keeps.refl _ _ | with_reducible refine Keeps.ite (fun _ => ?_) (fun _ => ?_)
    | with_reducible refine (State.recordFault_keeps _ _ ).after ?_ (by decide)
    | with_reducible refine (State.setFlt_keeps _ _ ).after ?_ (by decide)
    | with_reducible refine (State.partitionFault_keeps _ _ _ ).after ?_ (by decide)
    | with_reducible refine (State.dropInterrupted_keeps _ _ ).after ?_ (by decide)
    | with_reducible refine (State.showReplay_keeps _ ).after ?_ (by decide)
    | with_reducible refine Keeps.foldl ?_ (fun u1 _ => ?_) | (lift_lets -underBinder; intros) | split

theorem State.unitReset_keeps (s : State) (cause) (kind) (d) (unit) (address) (at_) (slice) :
    Keeps 88112965 s (State.unitReset s cause kind d unit address at_ slice) := by
  unfold State.unitReset
  repeat' first
    | with_reducible exact Keeps.refl _ _ | with_reducible refine Keeps.ite (fun _ => ?_) (fun _ => ?_)
    | with_reducible refine (State.unitFault_keeps _ _ _ ).after ?_ (by decide)
    | with_reducible refine (State.teardown_keeps _ _ _ ).after ?_ (by decide)
    | with_reducible refine (State.recordFault_keeps _ _ ).after ?_ (by decide)
    | with_reducible refine (State.resetSlices_keeps _ _ ).after ?_ (by decide)
    | with_reducible refine (State.setFlt_keeps _ _ ).after ?_ (by decide)
    | with_reducible refine (State.interruptSteps_keeps _ _ ).after ?_ (by decide)
    | with_reducible refine (State.setAll_keeps _ _ ).after ?_ (by decide)
    | with_reducible refine (State.excuse_keeps _ ).after ?_ (by decide)
    | with_reducible refine (State.event_keeps _ _ _ _ _ _ ).after ?_ (by decide)
    | with_reducible refine Keeps.foldl ?_ (fun u1 _ => ?_) | (lift_lets -underBinder; intros) | split

theorem execDramTimeout_keeps (d) (ch) (s : State) :
    KeepsO 88112965 s (execDramTimeout d ch s) := by
  unfold execDramTimeout
  repeat' first
    | with_reducible refine KeepsO.next ?_ | with_reducible refine KeepsO.ite (fun _ => ?_) (fun _ => ?_)
    | with_reducible exact Keeps.refl _ _ | with_reducible refine Keeps.ite (fun _ => ?_) (fun _ => ?_)
    | with_reducible refine (State.unitReset_keeps _ _ _ _ _ _ _ _ ).after ?_ (by decide) | (lift_lets -underBinder; intros)
    | split

theorem State.lanePart_keeps (s : State) (t) (g) (lane) (kind) :
    Keeps 64 s (State.lanePart s t g lane kind).2 := by
  unfold State.lanePart
  repeat' first
    | with_reducible exact Keeps.refl _ _ | with_reducible refine Keeps.ite (fun _ => ?_) (fun _ => ?_)
    | with_reducible refine (State.setGroup_keeps _ _ _ _ ).after ?_ (by decide) | (lift_lets -underBinder; intros) | split

theorem State.readAnswer_keeps (s : State) (p) (q) (job) :
    Keeps 4198401 s (State.readAnswer s p q job) := by
  unfold State.readAnswer
  repeat' first
    | with_reducible exact Keeps.refl _ _ | with_reducible refine Keeps.ite (fun _ => ?_) (fun _ => ?_)
    | with_reducible refine (State.qpReply_keeps _ _ _ _ ).after ?_ (by decide)
    | with_reducible refine Keeps.foldl ?_ (fun u1 _ => ?_) | (lift_lets -underBinder; intros) | split

theorem State.readPart_keeps (s : State) (p) (q) (psn) (first) (bs) :
    Keeps 4198401 s (State.readPart s p q psn first bs) := by
  unfold State.readPart
  repeat' first
    | with_reducible exact Keeps.refl _ _ | with_reducible refine Keeps.ite (fun _ => ?_) (fun _ => ?_)
    | with_reducible refine (State.setQp_keeps _ _ _ _ ).after ?_ (by decide)
    | with_reducible refine (State.readAnswer_keeps _ _ _ _ ).after ?_ (by decide)
    | with_reducible refine Keeps.foldl ?_ (fun u1 _ => ?_) | (lift_lets -underBinder; intros) | split

theorem State.ringArrived_keeps (s : State) (p) (pa) (bs) :
    Keeps 88112965 s (State.ringArrived s p pa bs) := by
  unfold State.ringArrived
  repeat' first
    | with_reducible exact Keeps.refl _ _ | with_reducible refine Keeps.ite (fun _ => ?_) (fun _ => ?_)
    | with_reducible refine (State.setPartSt_keeps _ _ _ ).after ?_ (by decide)
    | with_reducible refine (State.askNext_keeps _ _ ).after ?_ (by decide) | (lift_lets -underBinder; intros) | split

theorem State.l1Fill_keeps (s : State) (t) (p) (key) (home) (sector) :
    Keeps 4225861 s (State.l1Fill s t p key home sector) := by
  unfold State.l1Fill
  repeat' first
    | with_reducible exact Keeps.refl _ _ | with_reducible refine Keeps.ite (fun _ => ?_) (fun _ => ?_)
    | with_reducible refine (State.l1Insert_keeps _ _ _ _ ).after ?_ (by decide)
    | with_reducible refine (State.putL1_keeps _ _ _ ).after ?_ (by decide) | split

theorem State.qpSend_keeps (s : State) (p) (q) (n) (c) (x) :
    Keeps 4198401 s (State.qpSend s p q n c x) := by
  unfold State.qpSend
  repeat' first
    | with_reducible exact Keeps.refl _ _ | with_reducible refine Keeps.ite (fun _ => ?_) (fun _ => ?_)
    | with_reducible refine (State.setQp_keeps _ _ _ _ ).after ?_ (by decide)
    | with_reducible refine (State.sendPkt_keeps _ _ _ _ ).after ?_ (by decide) | (lift_lets -underBinder; intros) | split

theorem State.remoteSend_keeps (s : State) (t) (id) (k) (d) (cfg) (first) (bs) :
    Keeps 4198401 s (State.remoteSend s t id k d cfg first bs) := by
  unfold State.remoteSend
  repeat' first
    | with_reducible exact Keeps.refl _ _ | with_reducible refine Keeps.ite (fun _ => ?_) (fun _ => ?_)
    | with_reducible refine (State.setQp_keeps _ _ _ _ ).after ?_ (by decide)
    | with_reducible refine (State.qpSend_keeps _ _ _ _ _ _ ).after ?_ (by decide) | (lift_lets -underBinder; intros) | split

theorem State.setCopy_keeps (s : State) (t) (c) :
    Keeps 64 s (State.setCopy s t c) := by
  unfold State.setCopy
  repeat' first
    | with_reducible exact Keeps.refl _ _ | with_reducible refine Keeps.ite (fun _ => ?_) (fun _ => ?_)
    | with_reducible refine (State.setTile_keeps _ _ _ ).after ?_ (by decide) | (lift_lets -underBinder; intros) | split

theorem State.remoteCheck_keeps (s : State) (t) (id) (k) (d) :
    Keeps 4217409 s (State.remoteCheck s t id k d).2 := by
  unfold State.remoteCheck
  repeat' first
    | with_reducible exact Keeps.refl _ _ | with_reducible refine Keeps.ite (fun _ => ?_) (fun _ => ?_)
    | with_reducible refine (State.qpError_keeps _ _ _ _ ).after ?_ (by decide)
    | with_reducible refine (State.copyError_keeps _ _ _ ).after ?_ (by decide) | (lift_lets -underBinder; intros) | split

end Sys2Proof.Machine
end

