-- ==== Sys2Proof/Laws/Frames4.lean ====
section
/-! SUPPORT. For each operation of the model, in the order of use (part 4 of 6): the components that it may change, by the bits
of `Keeps`. -/

set_option linter.all false

namespace Sys2Proof.Machine

theorem State.remoteNext_keeps (s : State) (t id : Nat) (k : Task) (cfg : QpCfg) (fuel : Nat) :
    Keeps 4217409 s (State.remoteNext s t id k cfg fuel) := by
  induction fuel generalizing s with
  | zero => exact Keeps.refl _ _
  | succ n ih =>
    unfold State.remoteNext
    split
    · exact Keeps.refl _ _
    · extract_lets -underBinder off n
      split
      · exact Keeps.refl _ _
      · extract_lets r
        have hr : Keeps 4217409 s r.2 := (State.remoteCheck_keeps _ _ _ _ _).mono (by decide)
        refine Keeps.ite (fun _ => hr) fun _ => ?_
        exact (ih _).after ((State.remoteSend_keeps _ _ _ _ _ _ _ _).after
          ((State.setCopy_keeps _ _ _).after hr (by decide)) (by decide)) (by decide)

theorem State.copyCount_keeps (s : State) (t) (id) (n) :
    Keeps 577 s (State.copyCount s t id n) := by
  unfold State.copyCount
  repeat' first
    | with_reducible exact Keeps.refl _ _ | with_reducible refine Keeps.ite (fun _ => ?_) (fun _ => ?_)
    | with_reducible refine (State.eyeCount_keeps _ _ _ ).after ?_ (by decide)
    | with_reducible refine (State.setCopy_keeps _ _ _ ).after ?_ (by decide)
    | with_reducible refine (State.dropCopy_keeps _ _ _ ).after ?_ (by decide) | (lift_lets -underBinder; intros) | split

theorem State.putGranule_keeps (s : State) (t) (id) (u) (b) :
    Keeps 33555009 s (State.putGranule s t id u b) := by
  unfold State.putGranule
  repeat' first
    | with_reducible exact Keeps.refl _ _ | with_reducible refine Keeps.ite (fun _ => ?_) (fun _ => ?_)
    | with_reducible refine (State.scratchWrite_keeps _ _ _ _ ).after ?_ (by decide)
    | with_reducible refine (State.copyCount_keeps _ _ _ _ ).after ?_ (by decide)
    | with_reducible refine (State.setCopy_keeps _ _ _ ).after ?_ (by decide) | (lift_lets -underBinder; intros) | split

theorem State.copyPut_keeps (s : State) (t) (id) (first) (bs) :
    Keeps 37780293 s (State.copyPut s t id first bs) := by
  unfold State.copyPut
  repeat' first
    | with_reducible exact Keeps.refl _ _ | with_reducible refine Keeps.ite (fun _ => ?_) (fun _ => ?_)
    | with_reducible refine (State.unmapped_keeps _ _ _ _ ).after ?_ (by decide)
    | with_reducible refine (State.remoteNext_keeps _ _ _ _ _ _ ).after ?_ (by decide)
    | with_reducible refine (State.copyError_keeps _ _ _ ).after ?_ (by decide)
    | with_reducible refine (State.issueWrite_keeps _ _ _ _ ).after ?_ (by decide)
    | with_reducible refine (State.setCopy_keeps _ _ _ ).after ?_ (by decide)
    | with_reducible refine (State.putGranule_keeps _ _ _ _ _ ).after ?_ (by decide)
    | with_reducible refine Keeps.foldl ?_ (fun u1 _ => ?_) | (lift_lets -underBinder; intros) | split

theorem State.givePart_keeps (s : State) (t) (g) (lane) (whole) (place) (len) (v) :
    Keeps 64 s (State.givePart s t g lane whole place len v) := by
  unfold State.givePart
  repeat' first
    | with_reducible exact Keeps.refl _ _ | with_reducible refine Keeps.ite (fun _ => ?_) (fun _ => ?_)
    | with_reducible refine (State.giveLane_keeps _ _ _ _ _ ).after ?_ (by decide) | (lift_lets -underBinder; intros) | split

theorem State.giveLoad_keeps (s : State) (sector) (w) :
    Keeps 64 s (State.giveLoad s sector w) := by
  unfold State.giveLoad
  repeat' first
    | with_reducible exact Keeps.refl _ _ | with_reducible refine Keeps.ite (fun _ => ?_) (fun _ => ?_)
    | with_reducible refine (State.givePart_keeps _ _ _ _ _ _ _ _ ).after ?_ (by decide) | (lift_lets -underBinder; intros)
    | split

theorem State.serveSector_keeps (s : State) (t) (key) (sector) :
    Keeps 320 s (State.serveSector s t key sector) := by
  unfold State.serveSector
  repeat' first
    | with_reducible exact Keeps.refl _ _ | with_reducible refine Keeps.ite (fun _ => ?_) (fun _ => ?_)
    | with_reducible refine (State.giveLoad_keeps _ _ _ ).after ?_ (by decide)
    | with_reducible refine Keeps.foldl ?_ (fun u1 _ => ?_) | (lift_lets -underBinder; intros) | split
    | with_reducible refine Keeps.setCoh ?_ (by decide)

theorem State.serveData_keeps (s : State) (p) (base) (data) (w) :
    Keeps 121667397 s (State.serveData s p base data w) := by
  unfold State.serveData
  repeat' first
    | with_reducible exact Keeps.refl _ _ | with_reducible refine Keeps.ite (fun _ => ?_) (fun _ => ?_)
    | with_reducible refine (State.readPart_keeps _ _ _ _ _ _ ).after ?_ (by decide)
    | with_reducible refine (State.ringArrived_keeps _ _ _ _ ).after ?_ (by decide)
    | with_reducible refine (State.scratchWrite_keeps _ _ _ _ ).after ?_ (by decide)
    | with_reducible refine (State.l1Fill_keeps _ _ _ _ _ _ ).after ?_ (by decide)
    | with_reducible refine (State.copyPut_keeps _ _ _ _ _ ).after ?_ (by decide)
    | with_reducible refine (State.giveLoad_keeps _ _ _ ).after ?_ (by decide)
    | with_reducible refine (State.setQp_keeps _ _ _ _ ).after ?_ (by decide)
    | with_reducible refine (State.serveSector_keeps _ _ _ _ ).after ?_ (by decide) | (lift_lets -underBinder; intros)
    | split

theorem State.runHalfWaits_keeps (s : State) (h line : Nat) (spill : Bool) (fuel : Nat) :
    Keeps 121667397 s (State.runHalfWaits s h line spill fuel) := by
  induction fuel generalizing s with
  | zero => exact Keeps.refl _ _
  | succ n ih =>
    unfold State.runHalfWaits
    split
    · exact Keeps.refl _ _
    · next w _ =>
      refine Keeps.ite (fun _ => Keeps.refl _ _) fun _ => ?_
      have hx : Keeps 121667397 s { s with coh := { s.coh with halfWaits := s.coh.halfWaits.erase w } } :=
        Keeps.setCoh (Keeps.refl _ _) (by decide)
      generalize ({ s with coh := { s.coh with halfWaits := s.coh.halfWaits.erase w } } : State) = x at hx
      refine (ih _).after ?_ (by decide)
      refine Keeps.ite (fun _ => ?_) fun _ => (State.halfWrite_keeps _ _ _ _).after hx (by decide)
      have hr := (State.halfRead_keeps x h w.msg w.want).after hx (by decide)
      split
      · next e => exact (State.serveData_keeps _ _ _ _ _).after (Keeps.snd e hr) (by decide)
      · next e => exact Keeps.snd e hr

theorem State.runCredits_keeps (s : State) (h fuel : Nat) : Keeps 121667397 s (State.runCredits s h fuel) := by
  induction fuel generalizing s with
  | zero => exact Keeps.refl _ _
  | succ n ih =>
    unfold State.runCredits
    refine Keeps.ite (fun _ => Keeps.refl _ _) fun _ => ?_
    split
    · exact Keeps.refl _ _
    · exact (ih _).after ((State.runHalfWaits_keeps _ _ _ _ _).mono (by decide)) (by decide)

theorem State.convertScale_keeps (s : State) (mode : Nat) (v : Val) : Keeps 16777216 s (State.convertScale s mode v).2 := by
  unfold State.convertScale
  dsimp only
  split
  · exact Keeps.refl _ _
  · exact State.draw_keeps s

theorem execEyeArm_keeps (t) (g) (eyelet) (value) (s : State) :
    KeepsO 88112965 s (execEyeArm t g eyelet value s) := by
  unfold execEyeArm State.withEyelet State.withPath
  repeat' first
    | with_reducible refine KeepsO.next ?_ | with_reducible refine KeepsO.ite (fun _ => ?_) (fun _ => ?_)
    | with_reducible exact Keeps.refl _ _ | with_reducible refine Keeps.ite (fun _ => ?_) (fun _ => ?_)
    | with_reducible refine (State.setEye_keeps _ _ _ ).after ?_ (by decide)
    | with_reducible refine (State.stepFault_keeps _ _ _ _ _ _ ).after ?_ (by decide)
    | with_reducible refine (State.fetchPath_keeps _ _ _ ).after ?_ (by decide)
    | with_reducible refine (State.settleGroup_keeps _ _ _ ).after ?_ (by decide)
    | with_reducible refine Keeps.snd (by assumption) ?_ | dsimp -zeta only | split

theorem execSnpData_keeps (hpa) (s : State) :
    KeepsO 4194560 s (execSnpData hpa s) := by
  unfold execSnpData
  repeat' first
    | with_reducible refine KeepsO.next ?_ | with_reducible refine KeepsO.ite (fun _ => ?_) (fun _ => ?_)
    | with_reducible exact Keeps.refl _ _ | with_reducible refine Keeps.ite (fun _ => ?_) (fun _ => ?_)
    | with_reducible refine (State.snoopKeep_keeps _ _ ).after ?_ (by decide) | split

theorem State.jobTick_keeps (s : State) :
    Keeps 4200449 s (State.jobTick s) := by
  unfold State.jobTick
  repeat' first
    | with_reducible exact Keeps.refl _ _ | with_reducible refine Keeps.ite (fun _ => ?_) (fun _ => ?_)
    | with_reducible refine (State.bump_keeps _ _ _ ).after ?_ (by decide)
    | with_reducible refine (State.partEvent_keeps _ _ _ ).after ?_ (by decide)
    | with_reducible refine (State.jobFailure_keeps _ _ _ _ ).after ?_ (by decide)
    | with_reducible refine (State.setJob_keeps _ _ ).after ?_ (by decide)
    | with_reducible refine Keeps.foldl ?_ (fun u1 _ => ?_) | (lift_lets -underBinder; intros) | split

theorem execEnec_keeps (s : State) :
    KeepsO 2048 s (execEnec s) := by
  unfold execEnec
  repeat' first
    | with_reducible refine KeepsO.next ?_ | with_reducible refine KeepsO.ite (fun _ => ?_) (fun _ => ?_)
    | with_reducible exact Keeps.refl _ _ | with_reducible refine Keeps.ite (fun _ => ?_) (fun _ => ?_)
    | with_reducible refine (State.setUci_keeps _ _ ).after ?_ (by decide) | (lift_lets -underBinder; intros) | split

theorem State.startFail_keeps (s : State) (stage) :
    Keeps 2097153 s (State.startFail s stage) := by
  unfold State.startFail
  repeat' first
    | with_reducible exact Keeps.refl _ _ | with_reducible refine Keeps.ite (fun _ => ?_) (fun _ => ?_)
    | with_reducible refine (State.setAll_keeps _ _ ).after ?_ (by decide) | (lift_lets -underBinder; intros) | split
    | with_reducible refine Keeps.setPins ?_ (by decide)

theorem State.showSec_keeps (s : State) :
    Keeps 1 s (State.showSec s) := by
  unfold State.showSec
  repeat' first
    | with_reducible exact Keeps.refl _ _ | with_reducible refine Keeps.ite (fun _ => ?_) (fun _ => ?_)
    | with_reducible refine (State.setAll_keeps _ _ ).after ?_ (by decide) | (lift_lets -underBinder; intros) | split

theorem execFirmwareVerified_keeps (aOk) (bOk) (timeMs) (s : State) :
    KeepsO 6309891 s (execFirmwareVerified aOk bOk timeMs s) := by
  unfold execFirmwareVerified
  repeat' first
    | with_reducible refine KeepsO.next ?_ | with_reducible refine KeepsO.ite (fun _ => ?_) (fun _ => ?_)
    | with_reducible exact Keeps.refl _ _ | with_reducible refine Keeps.ite (fun _ => ?_) (fun _ => ?_)
    | with_reducible refine (State.advanceTo_keeps _ _ ).after ?_ (by decide)
    | with_reducible refine (State.setPins_keeps _ _ ).after ?_ (by decide)
    | with_reducible refine (State.startFail_keeps _ _ ).after ?_ (by decide)
    | with_reducible refine (State.showSec_keeps _ ).after ?_ (by decide)
    | with_reducible refine (State.setAll_keeps _ _ ).after ?_ (by decide)
    | with_reducible refine (State.event_keeps _ _ _ _ _ _ ).after ?_ (by decide) | (lift_lets -underBinder; intros) | split

theorem execFwStaged_keeps (ok) (s : State) :
    KeepsO 5523457 s (execFwStaged ok s) := by
  unfold execFwStaged
  repeat' first
    | with_reducible refine KeepsO.next ?_ | with_reducible refine KeepsO.ite (fun _ => ?_) (fun _ => ?_)
    | with_reducible exact Keeps.refl _ _ | with_reducible refine Keeps.ite (fun _ => ?_) (fun _ => ?_)
    | with_reducible refine Keeps.viaSec ?_ (.inr rfl) (.inl (by decide)) (.inr ⟨rfl, rfl, rfl⟩) (.inl (by decide))
    | with_reducible refine (State.stageFails_keeps _ _ _ ).after ?_ (by decide)
    | with_reducible refine (State.showSec_keeps _ ).after ?_ (by decide)
    | with_reducible refine (State.setAll_keeps _ _ ).after ?_ (by decide)
    | with_reducible refine (State.event_keeps _ _ _ _ _ _ ).after ?_ (by decide) | (lift_lets -underBinder; intros) | split

theorem State.checkGroup_keeps (s : State) (c) :
    Keeps 20973573 s (State.checkGroup s c) := by
  unfold State.checkGroup
  repeat' first
    | with_reducible exact Keeps.refl _ _ | with_reducible refine Keeps.ite (fun _ => ?_) (fun _ => ?_)
    | with_reducible refine (State.fire_keeps _ _ _ ).after ?_ (by decide)
    | with_reducible refine (State.set_keeps _ _ _ ).after ?_ (by decide)
    | with_reducible refine (State.pick_keeps _ _ _ ).after ?_ (by decide)
    | with_reducible refine (State.setAll_keeps _ _ ).after ?_ (by decide)
    | with_reducible refine Keeps.snd (by assumption) ?_ | (lift_lets -underBinder; intros) | split
    | with_reducible refine Keeps.setCfg ?_ (by decide)

theorem State.checkLast_keeps (s : State) (c) :
    Keeps 20989965 s (State.checkLast s c) := by
  unfold State.checkLast
  repeat' first
    | with_reducible exact Keeps.refl _ _ | with_reducible refine Keeps.ite (fun _ => ?_) (fun _ => ?_)
    | with_reducible refine (State.endLoad_keeps _ _ _ ).after ?_ (by decide)
    | with_reducible refine (State.pick_keeps _ _ _ ).after ?_ (by decide)
    | with_reducible refine Keeps.snd (by assumption) ?_ | (lift_lets -underBinder; intros) | split
    | with_reducible refine Keeps.setCfg ?_ (by decide)

theorem execCommitCheckDone_keeps (after) (s : State) :
    KeepsO 20989967 s (execCommitCheckDone after s) := by
  unfold execCommitCheckDone
  repeat' first
    | with_reducible refine KeepsO.next ?_ | with_reducible refine KeepsO.ite (fun _ => ?_) (fun _ => ?_)
    | with_reducible exact Keeps.refl _ _ | with_reducible refine Keeps.ite (fun _ => ?_) (fun _ => ?_)
    | with_reducible refine (State.advanceTo_keeps _ _ ).after ?_ (by decide)
    | with_reducible refine (State.checkGroup_keeps _ _ ).after ?_ (by decide)
    | with_reducible refine (State.checkLast_keeps _ _ ).after ?_ (by decide) | (lift_lets -underBinder; intros) | split
    | with_reducible refine Keeps.setCfg ?_ (by decide)

theorem State.staleResponse_keeps (s : State) (d) :
    Keeps 1 s (State.staleResponse s d) := by
  unfold State.staleResponse
  repeat' first
    | with_reducible exact Keeps.refl _ _ | with_reducible refine Keeps.ite (fun _ => ?_) (fun _ => ?_)
    | with_reducible refine (State.addTo_keeps _ _ _ ).after ?_ (by decide) | split

theorem State.hostStale_keeps (s : State) (m) :
    Keeps 1 s (State.hostStale s m) := by
  unfold State.hostStale
  repeat' first
    | with_reducible exact Keeps.refl _ _ | with_reducible refine Keeps.ite (fun _ => ?_) (fun _ => ?_)
    | with_reducible refine (State.staleResponse_keeps _ _ ).after ?_ (by decide) | split

theorem State.hostGot_keeps (s : State) (r) (bit) :
    Keeps 2048 s (State.hostGot s r bit) := by
  unfold State.hostGot
  repeat' first
    | with_reducible exact Keeps.refl _ _ | with_reducible refine Keeps.ite (fun _ => ?_) (fun _ => ?_)
    | with_reducible refine (State.setHostOpen_keeps _ _ ).after ?_ (by decide) | (lift_lets -underBinder; intros) | split

theorem State.hostCmp_keeps (s : State) (m) :
    Keeps 4196353 s (State.hostCmp s m) := by
  unfold State.hostCmp
  repeat' first
    | with_reducible exact Keeps.refl _ _ | with_reducible refine Keeps.ite (fun _ => ?_) (fun _ => ?_)
    | with_reducible refine (State.hostStale_keeps _ _ ).after ?_ (by decide)
    | with_reducible refine (State.hostGot_keeps _ _ _ ).after ?_ (by decide)
    | with_reducible refine (State.emit_keeps _ _ ).after ?_ (by decide) | split

theorem State.sidebandReply_keeps (s : State) (v) (bad) :
    Keeps 4194304 s (State.sidebandReply s v bad) := by
  unfold State.sidebandReply
  repeat' first
    | with_reducible exact Keeps.refl _ _ | with_reducible refine Keeps.ite (fun _ => ?_) (fun _ => ?_)
    | with_reducible refine (State.emit_keeps _ _ ).after ?_ (by decide) | split

theorem execSbWrite_keeps (off) (v) (s : State) :
    KeepsO 89784143 s (execSbWrite off v s) := by
  unfold execSbWrite
  repeat' first
    | with_reducible refine KeepsO.next ?_ | with_reducible refine KeepsO.ite (fun _ => ?_) (fun _ => ?_)
    | with_reducible exact Keeps.refl _ _ | with_reducible refine Keeps.ite (fun _ => ?_) (fun _ => ?_)
    | with_reducible refine (State.draw_keeps _ ).after ?_ (by decide)
    | with_reducible refine (State.write_keeps _ _ _ _ _ _ ).after ?_ (by decide)
    | with_reducible refine (State.sidebandReply_keeps _ _ _ ).after ?_ (by decide)
    | with_reducible refine Keeps.snd (by assumption) ?_ | (lift_lets -underBinder; intros) | split

theorem execParkTimeout_keeps (t) (g) (path) (s : State) :
    KeepsO 64 s (execParkTimeout t g path s) := by
  unfold execParkTimeout
  repeat' first
    | with_reducible refine KeepsO.next ?_ | with_reducible refine KeepsO.ite (fun _ => ?_) (fun _ => ?_)
    | with_reducible exact Keeps.refl _ _ | with_reducible refine Keeps.ite (fun _ => ?_) (fun _ => ?_)
    | with_reducible refine (State.setGroup_keeps _ _ _ _ ).after ?_ (by decide) | (lift_lets -underBinder; intros) | split

theorem State.recall_keeps (s : State) (d) :
    Keeps 1 s (State.recall s d) := by
  unfold State.recall
  repeat' first
    | with_reducible exact Keeps.refl _ _ | with_reducible refine Keeps.ite (fun _ => ?_) (fun _ => ?_)
    | with_reducible refine (State.setAll_keeps _ _ ).after ?_ (by decide)
    | with_reducible refine Keeps.foldl ?_ (fun u1 _ => ?_) | (lift_lets -underBinder; intros) | split

theorem execWeltSendTimeout_keeps (d) (edge) (g) (s : State) :
    KeepsO 88178637 s (execWeltSendTimeout d edge g s) := by
  unfold execWeltSendTimeout
  repeat' first
    | with_reducible refine KeepsO.next ?_ | with_reducible refine KeepsO.ite (fun _ => ?_) (fun _ => ?_)
    | with_reducible exact Keeps.refl _ _ | with_reducible refine Keeps.ite (fun _ => ?_) (fun _ => ?_)
    | with_reducible refine (State.groupFails_keeps _ _ _ _ ).after ?_ (by decide) | split

theorem State.movePending_keeps (s : State) (p) :
    Keeps 8193 s (State.movePending s p) := by
  unfold State.movePending
  repeat' first
    | with_reducible exact Keeps.refl _ _ | with_reducible refine Keeps.ite (fun _ => ?_) (fun _ => ?_)
    | with_reducible refine (State.setPartSt_keeps _ _ _ ).after ?_ (by decide)
    | with_reducible refine (State.set_keeps _ _ _ ).after ?_ (by decide)
    | with_reducible refine (State.setShares_keeps _ _ _ ).after ?_ (by decide) | (lift_lets -underBinder; intros) | split

theorem State.clearSectors_keeps (s : State) (t) (g) (p) (ops) :
    Keeps 37780293 s (State.clearSectors s t g p ops).2 := by
  unfold State.clearSectors
  repeat' first
    | with_reducible exact Keeps.refl _ _ | with_reducible refine Keeps.ite (fun _ => ?_) (fun _ => ?_)
    | with_reducible refine (State.drainWhere_keeps _ _ _ _ _ ).after ?_ (by decide)
    | with_reducible refine (State.writeBack_keeps _ _ _ _ ).after ?_ (by decide)
    | with_reducible refine Keeps.foldl ?_ (fun u1 _ => ?_) | with_reducible refine Keeps.foldlSnd ?_ (fun u1 _ => ?_)
    | (lift_lets -underBinder; intros) | split

theorem State.goesOn_keeps (s : State) (t) (g) (p) (scope) (keys) (c) :
    Keeps 37780293 s (State.goesOn s t g p scope keys c).2 := by
  unfold State.goesOn
  repeat' first
    | with_reducible exact Keeps.refl _ _ | with_reducible refine Keeps.ite (fun _ => ?_) (fun _ => ?_)
    | with_reducible refine (State.clearSectors_keeps _ _ _ _ _ ).after ?_ (by decide)
    | with_reducible refine Keeps.snd (by assumption) ?_ | (lift_lets -underBinder; intros) | split

theorem State.checkReleases_keeps (s : State) (t) :
    Keeps 37780293 s (State.checkReleases s t) := by
  unfold State.checkReleases
  repeat' first
    | with_reducible exact Keeps.refl _ _ | with_reducible refine Keeps.ite (fun _ => ?_) (fun _ => ?_)
    | with_reducible refine (State.settleGroup_keeps _ _ _ ).after ?_ (by decide)
    | with_reducible refine (State.goesOn_keeps _ _ _ _ _ _ _ ).after ?_ (by decide)
    | with_reducible refine (State.runCont_keeps _ _ _ _ _ _ ).after ?_ (by decide)
    | with_reducible refine Keeps.foldl ?_ (fun u1 _ => ?_) | with_reducible refine Keeps.foldlSnd ?_ (fun u1 _ => ?_)
    | with_reducible refine Keeps.snd (by assumption) ?_ | (lift_lets -underBinder; intros) | split

theorem State.serveAtomic_keeps (s : State) (data) (w) :
    Keeps 37780293 s (State.serveAtomic s data w) := by
  unfold State.serveAtomic
  repeat' first
    | with_reducible exact Keeps.refl _ _ | with_reducible refine Keeps.ite (fun _ => ?_) (fun _ => ?_)
    | with_reducible refine (State.atomicDone_keeps _ _ _ _ _ _ _ _ _ ).after ?_ (by decide)
    | with_reducible refine (State.checkReleases_keeps _ _ ).after ?_ (by decide) | split

theorem execRetrainTimeout_keeps (k) (s : State) :
    KeepsO 4225861 s (execRetrainTimeout k s) := by
  unfold execRetrainTimeout
  repeat' first
    | with_reducible refine KeepsO.next ?_ | with_reducible refine KeepsO.ite (fun _ => ?_) (fun _ => ?_)
    | with_reducible exact Keeps.refl _ _ | with_reducible refine Keeps.ite (fun _ => ?_) (fun _ => ?_)
    | with_reducible refine (State.hostLost_keeps _ ).after ?_ (by decide) | split

theorem State.hostErr_keeps (s : State) (m) :
    Keeps 2049 s (State.hostErr s m) := by
  unfold State.hostErr
  repeat' first
    | with_reducible exact Keeps.refl _ _ | with_reducible refine Keeps.ite (fun _ => ?_) (fun _ => ?_)
    | with_reducible refine (State.addTo_keeps _ _ _ ).after ?_ (by decide)
    | with_reducible refine (State.rasError_keeps _ _ ).after ?_ (by decide)
    | with_reducible refine (State.hostStale_keeps _ _ ).after ?_ (by decide)
    | with_reducible refine (State.setHostOpen_keeps _ _ ).after ?_ (by decide) | split

theorem execTapInstruction_keeps (code) (s : State) :
    KeepsO 5261313 s (execTapInstruction code s) := by
  unfold execTapInstruction
  repeat' first
    | with_reducible refine KeepsO.next ?_ | with_reducible refine KeepsO.ite (fun _ => ?_) (fun _ => ?_)
    | with_reducible exact Keeps.refl _ _ | with_reducible refine Keeps.ite (fun _ => ?_) (fun _ => ?_)
    | with_reducible refine Keeps.viaSec ?_ (.inr rfl) (.inr rfl) (.inr ⟨rfl, rfl, rfl⟩) (.inl (by decide))
    | with_reducible refine (State.event_keeps _ _ _ _ _ _ ).after ?_ (by decide) | (lift_lets -underBinder; intros) | split

theorem State.closeTx_keeps (s : State) (x) :
    Keeps 256 s (State.closeTx s x) := by
  unfold State.closeTx
  repeat' first
    | with_reducible exact Keeps.refl _ _ | with_reducible refine Keeps.ite (fun _ => ?_) (fun _ => ?_)
    | with_reducible refine (State.setTxs_keeps _ _ ).after ?_ (by decide) | split

theorem State.drainAll_keeps (s : State) (t) (g) (p) :
    Keeps 37780293 s (State.drainAll s t g p) := by
  unfold State.drainAll
  repeat' first
    | with_reducible exact Keeps.refl _ _ | with_reducible refine Keeps.ite (fun _ => ?_) (fun _ => ?_)
    | with_reducible refine (State.drainWhere_keeps _ _ _ _ _ ).after ?_ (by decide) | split

theorem State.startRelease_keeps (s : State) (t) (g) (p) (scope) :
    Keeps 37780293 s (State.startRelease s t g p scope) := by
  unfold State.startRelease
  repeat' first
    | with_reducible exact Keeps.refl _ _ | with_reducible refine Keeps.ite (fun _ => ?_) (fun _ => ?_)
    | with_reducible refine (State.drainAll_keeps _ _ _ _ ).after ?_ (by decide)
    | with_reducible refine (State.writeBack_keeps _ _ _ _ ).after ?_ (by decide)
    | with_reducible refine Keeps.foldl ?_ (fun u1 _ => ?_) | (lift_lets -underBinder; intros) | split

theorem State.releaseAt_keeps (s : State) (t) (g) (i) (p) (scope) (keys) (c) :
    Keeps 37780293 s (State.releaseAt s t g i p scope keys c) := by
  unfold State.releaseAt
  repeat' first
    | with_reducible exact Keeps.refl _ _ | with_reducible refine Keeps.ite (fun _ => ?_) (fun _ => ?_)
    | with_reducible refine (State.startRelease_keeps _ _ _ _ _ ).after ?_ (by decide)
    | with_reducible refine (State.setGroup_keeps _ _ _ _ ).after ?_ (by decide)
    | with_reducible refine (State.checkReleases_keeps _ _ ).after ?_ (by decide) | (lift_lets -underBinder; intros) | split

theorem State.tileBarrier_keeps (s : State) (t) :
    Keeps 16777281 s (State.tileBarrier s t) := by
  unfold State.tileBarrier
  repeat' first
    | with_reducible exact Keeps.refl _ _ | with_reducible refine Keeps.ite (fun _ => ?_) (fun _ => ?_)
    | with_reducible refine (State.releaseBars_keeps _ _ _ _ ).after ?_ (by decide)
    | with_reducible refine (State.countBarrier_keeps _ _ ).after ?_ (by decide)
    | with_reducible refine Keeps.foldl ?_ (fun u1 _ => ?_) | split

theorem State.checkPause_keeps (s : State) (k) :
    Keeps 4198401 s (State.checkPause s k) := by
  unfold State.checkPause
  repeat' first
    | with_reducible exact Keeps.refl _ _ | with_reducible refine Keeps.ite (fun _ => ?_) (fun _ => ?_)
    | with_reducible refine (State.bump_keeps _ _ _ ).after ?_ (by decide)
    | with_reducible refine (State.setPortSt_keeps _ _ _ ).after ?_ (by decide)
    | with_reducible refine (State.addTo_keeps _ _ _ ).after ?_ (by decide)
    | with_reducible refine (State.emit_keeps _ _ ).after ?_ (by decide) | (lift_lets -underBinder; intros) | split

theorem State.dieRecovery_keeps (s : State) (d) (f) :
    Keeps 21101389 s (State.dieRecovery s d f) := by
  unfold State.dieRecovery
  repeat' first
    | with_reducible exact Keeps.refl _ _ | with_reducible refine Keeps.ite (fun _ => ?_) (fun _ => ?_)
    | with_reducible refine (State.abortSlices_keeps _ _ ).after ?_ (by decide)
    | with_reducible refine (State.teardown_keeps _ _ _ ).after ?_ (by decide)
    | with_reducible refine (State.recordFault_keeps _ _ ).after ?_ (by decide)
    | with_reducible refine (State.setFlt_keeps _ _ ).after ?_ (by decide)
    | with_reducible refine (State.setBitOf_keeps _ _ _ _ ).after ?_ (by decide)
    | with_reducible refine (State.abandonUnits_keeps _ _ _ ).after ?_ (by decide)
    | with_reducible refine (State.abortLoad_keeps _ ).after ?_ (by decide)
    | with_reducible refine (State.excuse_keeps _ ).after ?_ (by decide)
    | with_reducible refine (State.event_keeps _ _ _ _ _ _ ).after ?_ (by decide)
    | with_reducible refine Keeps.foldl ?_ (fun u1 _ => ?_) | (lift_lets -underBinder; intros) | split
    | with_reducible refine Keeps.setPower ?_ (by decide)

theorem State.startDieRecovery_keeps (s : State) (d) (f) :
    Keeps 88211277 s (State.startDieRecovery s d f) := by
  unfold State.startDieRecovery
  repeat' first
    | with_reducible exact Keeps.refl _ _ | with_reducible refine Keeps.ite (fun _ => ?_) (fun _ => ?_)
    | with_reducible refine (State.dieRecovery_keeps _ _ _ ).after ?_ (by decide)
    | with_reducible refine (State.recordFault_keeps _ _ ).after ?_ (by decide)
    | with_reducible refine (State.countRecovery_keeps _ ).after ?_ (by decide)
    | with_reducible refine (State.deviceRecovery_keeps _ _ ).after ?_ (by decide) | (lift_lets -underBinder; intros) | split

theorem execDieHeartbeatLoss_keeps (d) (s : State) :
    KeepsO 88211277 s (execDieHeartbeatLoss d s) := by
  unfold execDieHeartbeatLoss
  repeat' first
    | with_reducible refine KeepsO.next ?_ | with_reducible refine KeepsO.ite (fun _ => ?_) (fun _ => ?_)
    | with_reducible exact Keeps.refl _ _ | with_reducible refine Keeps.ite (fun _ => ?_) (fun _ => ?_)
    | with_reducible refine (State.startDieRecovery_keeps _ _ _ ).after ?_ (by decide)
    | with_reducible refine (State.recordFault_keeps _ _ ).after ?_ (by decide) | (lift_lets -underBinder; intros) | split

theorem State.sustainTick_keeps (s : State) :
    Keeps 4245505 s (State.sustainTick s) := by
  unfold State.sustainTick
  repeat' first
    | with_reducible exact Keeps.refl _ _ | with_reducible refine Keeps.ite (fun _ => ?_) (fun _ => ?_)
    | with_reducible refine (State.set_keeps _ _ _ ).after ?_ (by decide)
    | with_reducible refine (State.updateThrottle_keeps _ ).after ?_ (by decide)
    | with_reducible refine Keeps.foldl ?_ (fun u1 _ => ?_) | (lift_lets -underBinder; intros) | split

theorem State.freeHeld_keeps (s : State) :
    Keeps 65 s (State.freeHeld s) := by
  unfold State.freeHeld
  repeat' first
    | with_reducible exact Keeps.refl _ _ | with_reducible refine Keeps.ite (fun _ => ?_) (fun _ => ?_)
    | with_reducible refine (State.setTileCode_keeps _ _ _ ).after ?_ (by decide)
    | with_reducible refine (State.setTile_keeps _ _ _ ).after ?_ (by decide)
    | with_reducible refine Keeps.foldl ?_ (fun u1 _ => ?_) | (lift_lets -underBinder; intros) | split

theorem State.rxDrop_keeps (s : State) (k) :
    Keeps 1 s (State.rxDrop s k) := by
  unfold State.rxDrop
  repeat' first
    | with_reducible exact Keeps.refl _ _ | with_reducible refine Keeps.ite (fun _ => ?_) (fun _ => ?_)
    | with_reducible refine (State.addTo_keeps _ _ _ ).after ?_ (by decide) | split

theorem execRegulatorReport_keeps (d) (r) (s : State) :
    KeepsO 4311041 s (execRegulatorReport d r s) := by
  unfold execRegulatorReport
  repeat' first
    | with_reducible refine KeepsO.next ?_ | with_reducible refine KeepsO.ite (fun _ => ?_) (fun _ => ?_)
    | with_reducible exact Keeps.refl _ _ | with_reducible refine Keeps.ite (fun _ => ?_) (fun _ => ?_)
    | with_reducible refine (State.setPowerDie_keeps _ _ _ ).after ?_ (by decide)
    | with_reducible refine (State.leaveWindow_keeps _ ).after ?_ (by decide)
    | with_reducible refine (State.set_keeps _ _ _ ).after ?_ (by decide)
    | with_reducible refine (State.setPower_keeps _ _ ).after ?_ (by decide)
    | with_reducible refine (State.event_keeps _ _ _ _ _ _ ).after ?_ (by decide) | (lift_lets -underBinder; intros) | split

theorem execMemSpecRd_keeps (h) (s : State) :
    KeepsO 2049 s (execMemSpecRd h s) := by
  unfold execMemSpecRd
  repeat' first
    | with_reducible refine KeepsO.next ?_ | with_reducible refine KeepsO.ite (fun _ => ?_) (fun _ => ?_)
    | with_reducible exact Keeps.refl _ _ | with_reducible refine Keeps.ite (fun _ => ?_) (fun _ => ?_)
    | with_reducible refine (State.unsupported_keeps _ ).after ?_ (by decide) | split

theorem State.copyLeave_keeps (s : State) (t) (k) (c) (first) (len) :
    Keeps 121667397 s (State.copyLeave s t k c first len) := by
  unfold State.copyLeave
  repeat' first
    | with_reducible exact Keeps.refl _ _ | with_reducible refine Keeps.ite (fun _ => ?_) (fun _ => ?_)
    | with_reducible refine (State.unmapped_keeps _ _ _ _ ).after ?_ (by decide)
    | with_reducible refine (State.serveData_keeps _ _ _ _ _ ).after ?_ (by decide)
    | with_reducible refine (State.copyError_keeps _ _ _ ).after ?_ (by decide)
    | with_reducible refine (State.copyPut_keeps _ _ _ _ _ ).after ?_ (by decide)
    | with_reducible refine (State.issueRead_keeps _ _ _ _ ).after ?_ (by decide)
    | with_reducible refine (State.setCopy_keeps _ _ _ ).after ?_ (by decide)
    | with_reducible refine Keeps.foldl ?_ (fun u1 _ => ?_) | with_reducible refine Keeps.foldlSnd ?_ (fun u1 _ => ?_)
    | with_reducible refine Keeps.snd (by assumption) ?_ | (lift_lets -underBinder; intros) | split

theorem execCopyArrival_keeps (t) (copy) (first) (len) (s : State) :
    KeepsO 121667397 s (execCopyArrival t copy first len s) := by
  unfold execCopyArrival
  repeat' first
    | with_reducible refine KeepsO.next ?_ | with_reducible refine KeepsO.ite (fun _ => ?_) (fun _ => ?_)
    | with_reducible exact Keeps.refl _ _ | with_reducible refine Keeps.ite (fun _ => ?_) (fun _ => ?_)
    | with_reducible refine (State.copyLeave_keeps _ _ _ _ _ _ ).after ?_ (by decide) | (lift_lets -underBinder; intros)
    | split

theorem State.setMesh_keeps (s : State) (m) :
    Keeps 128 s (State.setMesh s m) := by
  unfold State.setMesh
  repeat' first
    | with_reducible exact Keeps.refl _ _ | with_reducible refine Keeps.ite (fun _ => ?_) (fun _ => ?_) | split
    | with_reducible refine Keeps.setMesh ?_ (by decide)

theorem State.applyRoutes_keeps (s : State) (l) :
    Keeps 129 s (State.applyRoutes s l) := by
  unfold State.applyRoutes
  repeat' first
    | with_reducible exact Keeps.refl _ _ | with_reducible refine Keeps.ite (fun _ => ?_) (fun _ => ?_)
    | with_reducible refine (State.setMesh_keeps _ _ ).after ?_ (by decide)
    | with_reducible refine (State.setAll_keeps _ _ ).after ?_ (by decide)
    | with_reducible refine Keeps.foldl ?_ (fun u1 _ => ?_) | (lift_lets -underBinder; intros) | split

theorem execBdown_keeps (m) (s : State) :
    KeepsO 4194560 s (execBdown m s) := by
  unfold execBdown
  repeat' first
    | with_reducible refine KeepsO.next ?_ | with_reducible refine KeepsO.ite (fun _ => ?_) (fun _ => ?_)
    | with_reducible exact Keeps.refl _ _ | with_reducible refine Keeps.ite (fun _ => ?_) (fun _ => ?_)
    | with_reducible refine (State.arrive_keeps _ _ ).after ?_ (by decide)
    | with_reducible refine (State.backInvalidate_keeps _ _ _ ).after ?_ (by decide) | split

theorem State.unpinLine_keeps (s : State) (p) (pa) :
    Keeps 4225861 s (State.unpinLine s p pa).2 := by
  unfold State.unpinLine
  repeat' first
    | with_reducible exact Keeps.refl _ _ | with_reducible refine Keeps.ite (fun _ => ?_) (fun _ => ?_)
    | with_reducible refine (State.unmapped_keeps _ _ _ _ ).after ?_ (by decide)
    | with_reducible refine (State.bump_keeps _ _ _ ).after ?_ (by decide)
    | with_reducible refine (State.setL3_keeps _ _ ).after ?_ (by decide) | split

theorem execUnpin_keeps (t) (g) (addrs) (s : State) :
    KeepsO 88112965 s (execUnpin t g addrs s) := by
  unfold execUnpin State.pinLanes State.withPath
  repeat' first
    | with_reducible refine KeepsO.next ?_ | with_reducible refine KeepsO.ite (fun _ => ?_) (fun _ => ?_)
    | with_reducible exact Keeps.refl _ _ | with_reducible refine Keeps.ite (fun _ => ?_) (fun _ => ?_)
    | with_reducible refine (State.unpinLine_keeps _ _ _ ).after ?_ (by decide)
    | with_reducible refine (State.giveLane_keeps _ _ _ _ _ ).after ?_ (by decide)
    | with_reducible refine (State.fetchPath_keeps _ _ _ ).after ?_ (by decide)
    | with_reducible refine (State.settleGroup_keeps _ _ _ ).after ?_ (by decide)
    | with_reducible refine Keeps.foldl ?_ (fun u1 _ => ?_) | with_reducible refine Keeps.foldlSnd ?_ (fun u1 _ => ?_)
    | with_reducible refine Keeps.snd (by assumption) ?_ | (lift_lets -underBinder; intros) | dsimp -zeta only | split

theorem execBrakeAssert_keeps (s : State) :
    KeepsO 6408193 s (execBrakeAssert s) := by
  unfold execBrakeAssert
  repeat' first
    | with_reducible refine KeepsO.next ?_ | with_reducible refine KeepsO.ite (fun _ => ?_) (fun _ => ?_)
    | with_reducible exact Keeps.refl _ _ | with_reducible refine Keeps.ite (fun _ => ?_) (fun _ => ?_)
    | with_reducible refine (State.checkForced_keeps _ ).after ?_ (by decide)
    | with_reducible refine (State.set_keeps _ _ _ ).after ?_ (by decide) | (lift_lets -underBinder; intros) | split
    | with_reducible refine Keeps.setPins ?_ (by decide)

theorem State.checkRetire_keeps (s : State) (t) :
    Keeps 65 s (State.checkRetire s t) := by
  unfold State.checkRetire
  repeat' first
    | with_reducible exact Keeps.refl _ _ | with_reducible refine Keeps.ite (fun _ => ?_) (fun _ => ?_)
    | with_reducible refine (State.addTo_keeps _ _ _ ).after ?_ (by decide)
    | with_reducible refine (State.setTask_keeps _ _ ).after ?_ (by decide) | (lift_lets -underBinder; intros) | split

theorem execRds_keeps (m) (s : State) :
    KeepsO 88112965 s (execRds m s) := by
  unfold execRds
  repeat' first
    | with_reducible refine KeepsO.next ?_ | with_reducible refine KeepsO.ite (fun _ => ?_) (fun _ => ?_)
    | with_reducible exact Keeps.refl _ _ | with_reducible refine Keeps.ite (fun _ => ?_) (fun _ => ?_)
    | with_reducible refine (State.arriveRequest_keeps _ _ _ ).after ?_ (by decide) | split

theorem execQpPeek_keeps (v) (s : State) :
    KeepsO 1 s (execQpPeek v s) := by
  unfold execQpPeek
  repeat' first
    | with_reducible refine KeepsO.next ?_ | with_reducible refine KeepsO.ite (fun _ => ?_) (fun _ => ?_)
    | with_reducible exact Keeps.refl _ _ | with_reducible refine Keeps.ite (fun _ => ?_) (fun _ => ?_)
    | with_reducible refine (State.qpPeek_keeps _ _ ).after ?_ (by decide) | split

theorem execReadLaneStatus_keeps (t) (g) (s : State) :
    KeepsO 88112965 s (execReadLaneStatus t g s) := by
  unfold execReadLaneStatus State.withPath
  repeat' first
    | with_reducible refine KeepsO.next ?_ | with_reducible refine KeepsO.ite (fun _ => ?_) (fun _ => ?_)
    | with_reducible exact Keeps.refl _ _ | with_reducible refine Keeps.ite (fun _ => ?_) (fun _ => ?_)
    | with_reducible refine (State.setGroup_keeps _ _ _ _ ).after ?_ (by decide)
    | with_reducible refine (State.fetchPath_keeps _ _ _ ).after ?_ (by decide)
    | with_reducible refine (State.settleGroup_keeps _ _ _ ).after ?_ (by decide)
    | with_reducible refine Keeps.snd (by assumption) ?_ | (lift_lets -underBinder; intros) | dsimp -zeta only | split

theorem State.resetFunction_keeps (s : State) (fn) :
    Keeps 2048 s (State.resetFunction s fn) := by
  unfold State.resetFunction
  repeat' first
    | with_reducible exact Keeps.refl _ _ | with_reducible refine Keeps.ite (fun _ => ?_) (fun _ => ?_)
    | with_reducible refine (State.setUci_keeps _ _ ).after ?_ (by decide) | (lift_lets -underBinder; intros) | split

theorem State.emitTick_keeps (s : State) (ref) (t) (edge) :
    Keeps 3 s (State.emitTick s ref t edge) := by
  unfold State.emitTick
  repeat' first
    | with_reducible exact Keeps.refl _ _ | with_reducible refine Keeps.ite (fun _ => ?_) (fun _ => ?_)
    | with_reducible refine (State.advanceTo_keeps _ _ ).after ?_ (by decide)
    | with_reducible refine (State.addTo_keeps _ _ _ ).after ?_ (by decide)
    | with_reducible refine (State.setAll_keeps _ _ ).after ?_ (by decide) | (lift_lets -underBinder; intros) | split
    | with_reducible refine Keeps.setClock ?_ (by decide)

theorem execTick_keeps (s : State) :
    KeepsO 3 s (execTick s) := by
  unfold execTick
  repeat' first
    | with_reducible refine KeepsO.next ?_ | with_reducible refine KeepsO.ite (fun _ => ?_) (fun _ => ?_)
    | with_reducible exact Keeps.refl _ _ | with_reducible refine Keeps.ite (fun _ => ?_) (fun _ => ?_)
    | with_reducible refine (State.emitTick_keeps _ _ _ _ ).after ?_ (by decide) | (lift_lets -underBinder; intros) | split

theorem execSliceAbort_keeps (d) (kind) (s : State) :
    KeepsO 4278273 s (execSliceAbort d kind s) := by
  unfold execSliceAbort
  repeat' first
    | with_reducible refine KeepsO.next ?_ | with_reducible refine KeepsO.ite (fun _ => ?_) (fun _ => ?_)
    | with_reducible exact Keeps.refl _ _ | with_reducible refine Keeps.ite (fun _ => ?_) (fun _ => ?_)
    | with_reducible refine (State.abortSlice_keeps _ _ ).after ?_ (by decide) | split

theorem State.trimTick_keeps (s : State) (d) :
    Keeps 4245505 s (State.trimTick s d) := by
  unfold State.trimTick
  repeat' first
    | with_reducible exact Keeps.refl _ _ | with_reducible refine Keeps.ite (fun _ => ?_) (fun _ => ?_)
    | with_reducible refine (State.setPowerDie_keeps _ _ _ ).after ?_ (by decide)
    | with_reducible refine (State.set_keeps _ _ _ ).after ?_ (by decide)
    | with_reducible refine (State.event_keeps _ _ _ _ _ _ ).after ?_ (by decide) | (lift_lets -underBinder; intros) | split

theorem State.missGrants_keeps (s : State) (ds) :
    Keeps 4245505 s (State.missGrants s ds) := by
  unfold State.missGrants
  repeat' first
    | with_reducible exact Keeps.refl _ _ | with_reducible refine Keeps.ite (fun _ => ?_) (fun _ => ?_)
    | with_reducible refine (State.bump_keeps _ _ _ ).after ?_ (by decide)
    | with_reducible refine (State.setPowerDie_keeps _ _ _ ).after ?_ (by decide)
    | with_reducible refine (State.event_keeps _ _ _ _ _ _ ).after ?_ (by decide)
    | with_reducible refine Keeps.foldl ?_ (fun u1 _ => ?_) | (lift_lets -underBinder; intros) | split

theorem State.chooseState_keeps (s : State) (d) :
    Keeps 32769 s (State.chooseState s d) := by
  unfold State.chooseState
  repeat' first
    | with_reducible exact Keeps.refl _ _ | with_reducible refine Keeps.ite (fun _ => ?_) (fun _ => ?_)
    | with_reducible refine (State.setPowerDie_keeps _ _ _ ).after ?_ (by decide)
    | with_reducible refine (State.setAll_keeps _ _ ).after ?_ (by decide) | (lift_lets -underBinder; intros) | split

theorem State.measureDie_keeps (s : State) (d) :
    Keeps 16809984 s (State.measureDie s d) := by
  unfold State.measureDie
  repeat' first
    | with_reducible exact Keeps.refl _ _ | with_reducible refine Keeps.ite (fun _ => ?_) (fun _ => ?_)
    | with_reducible refine (State.draw_keeps _ ).after ?_ (by decide)
    | with_reducible refine (State.setPowerDie_keeps _ _ _ ).after ?_ (by decide)
    | with_reducible refine Keeps.snd (by assumption) ?_ | (lift_lets -underBinder; intros) | split

theorem State.epochTick_keeps (s : State) (d) :
    Keeps 32768 s (State.epochTick s d) := by
  unfold State.epochTick
  repeat' first
    | with_reducible exact Keeps.refl _ _ | with_reducible refine Keeps.ite (fun _ => ?_) (fun _ => ?_)
    | with_reducible refine (State.setPowerDie_keeps _ _ _ ).after ?_ (by decide) | (lift_lets -underBinder; intros) | split

theorem State.powerTick_keeps (s : State) (d) :
    Keeps 21022721 s (State.powerTick s d) := by
  unfold State.powerTick
  repeat' first
    | with_reducible exact Keeps.refl _ _ | with_reducible refine Keeps.ite (fun _ => ?_) (fun _ => ?_)
    | with_reducible refine (State.trimTick_keeps _ _ ).after ?_ (by decide)
    | with_reducible refine (State.missGrants_keeps _ _ ).after ?_ (by decide)
    | with_reducible refine (State.chooseState_keeps _ _ ).after ?_ (by decide)
    | with_reducible refine (State.updateThrottle_keeps _ ).after ?_ (by decide)
    | with_reducible refine (State.ceilingTick_keeps _ _ ).after ?_ (by decide)
    | with_reducible refine (State.measureDie_keeps _ _ ).after ?_ (by decide)
    | with_reducible refine (State.epochTick_keeps _ _ ).after ?_ (by decide) | (lift_lets -underBinder; intros) | split

theorem State.placeScan_keeps (s : State) (p) (x) :
    Keeps 4225861 s (State.placeScan s p x) := by
  unfold State.placeScan
  repeat' first
    | with_reducible exact Keeps.refl _ _ | with_reducible refine Keeps.ite (fun _ => ?_) (fun _ => ?_)
    | with_reducible refine (State.takeTiles_keeps _ _ ).after ?_ (by decide)
    | with_reducible refine (State.addTo_keeps _ _ _ ).after ?_ (by decide)
    | with_reducible refine (State.partEvent_keeps _ _ _ ).after ?_ (by decide)
    | with_reducible refine (State.setPartSt_keeps _ _ _ ).after ?_ (by decide)
    | with_reducible refine (State.set_keeps _ _ _ ).after ?_ (by decide)
    | with_reducible refine (State.advanceRing_keeps _ _ _ _ ).after ?_ (by decide)
    | with_reducible refine (State.ringFails_keeps _ _ _ _ ).after ?_ (by decide)
    | with_reducible refine Keeps.foldl ?_ (fun u1 _ => ?_) | (lift_lets -underBinder; intros) | split

theorem State.scheduleTick_keeps (s : State) (p : Nat) : Keeps 88112965 s (State.scheduleTick s p) := by
  unfold State.scheduleTick
  split
  · exact Keeps.refl _ _
  · next l _ =>
    have h := (State.scanRings_st s l p).mono (m := 88112965) (by decide)
    refine Keeps.ite (fun _ => h) fun _ => Keeps.ite (fun _ => ?_) fun _ => ?_
    · exact (State.setPartSt_keeps _ _ _).after h (by decide)
    · exact (State.placeScan_keeps _ _ _).after h (by decide)

theorem State.dieTick_keeps (s : State) (d) :
    Keeps 88145733 s (State.dieTick s d) := by
  unfold State.dieTick
  repeat' first
    | with_reducible exact Keeps.refl _ _ | with_reducible refine Keeps.ite (fun _ => ?_) (fun _ => ?_)
    | with_reducible refine (State.powerTick_keeps _ _ ).after ?_ (by decide)
    | with_reducible refine (State.scheduleTick_keeps _ _ ).after ?_ (by decide)
    | with_reducible refine Keeps.foldl ?_ (fun u1 _ => ?_) | (lift_lets -underBinder; intros) | split

theorem State.allArrived_keeps (s : State) :
    Keeps 4245505 s (State.allArrived s) := by
  unfold State.allArrived
  repeat' first
    | with_reducible exact Keeps.refl _ _ | with_reducible refine Keeps.ite (fun _ => ?_) (fun _ => ?_)
    | with_reducible refine (State.sustainTick_keeps _ ).after ?_ (by decide) | split

theorem State.bypassTick_keeps (s : State) :
    Keeps 257 s (State.bypassTick s) := by
  unfold State.bypassTick
  repeat' first
    | with_reducible exact Keeps.refl _ _ | with_reducible refine Keeps.ite (fun _ => ?_) (fun _ => ?_)
    | with_reducible refine (State.setAll_keeps _ _ ).after ?_ (by decide) | (lift_lets -underBinder; intros) | split
    | with_reducible refine Keeps.setCoh ?_ (by decide)

theorem State.overrun_keeps (s : State) (late) (throttled) :
    Keeps 4225861 s (State.overrun s late throttled) := by
  unfold State.overrun
  repeat' first
    | with_reducible exact Keeps.refl _ _ | with_reducible refine Keeps.ite (fun _ => ?_) (fun _ => ?_)
    | with_reducible refine (State.countOverrun_keeps _ _ ).after ?_ (by decide)
    | with_reducible refine (State.stopTask_keeps _ _ ).after ?_ (by decide)
    | with_reducible refine Keeps.foldl ?_ (fun u1 _ => ?_) | (lift_lets -underBinder; intros) | split

theorem State.scratchZero_keeps (s : State) (t) :
    Keeps 33554432 s (State.scratchZero s t) := by
  unfold State.scratchZero
  repeat' first
    | with_reducible exact Keeps.refl _ _ | with_reducible refine Keeps.ite (fun _ => ?_) (fun _ => ?_)
    | (lift_lets -underBinder; intros) | split
    | refine Keeps.setTileSt ?_ (.inr ⟨rfl, rfl, rfl⟩) (.inl (by decide)) (.inr rfl) (by first | exact id | exact mapWf_mapSet _ _ | exact mapWf_filter _ | exact mapWf_mapSetList _ _ | exact mapWf_mapSetMasked _ _ _ | exact mapWf_mapClear _ _ | exact fun _ => rfl)

theorem State.takeSite_keeps (s : State) (row) (x) :
    Keeps 33636353 s (State.takeSite s row x) := by
  unfold State.takeSite
  repeat' first
    | with_reducible exact Keeps.refl _ _ | with_reducible refine Keeps.ite (fun _ => ?_) (fun _ => ?_)
    | with_reducible refine (State.setAwl_keeps _ _ ).after ?_ (by decide)
    | with_reducible refine (State.scratchZero_keeps _ _ ).after ?_ (by decide)
    | with_reducible refine (State.needRoutes_keeps _ _ ).after ?_ (by decide)
    | with_reducible refine (State.setAll_keeps _ _ ).after ?_ (by decide) | (lift_lets -underBinder; intros) | split

theorem State.sparesTick_keeps (s : State) :
    Keeps 33636353 s (State.sparesTick s) := by
  unfold State.sparesTick
  repeat' first
    | with_reducible exact Keeps.refl _ _ | with_reducible refine Keeps.ite (fun _ => ?_) (fun _ => ?_)
    | with_reducible refine (State.setAwl_keeps _ _ ).after ?_ (by decide)
    | with_reducible refine (State.takeSite_keeps _ _ _ ).after ?_ (by decide)
    | with_reducible refine Keeps.foldl ?_ (fun u1 _ => ?_) | (lift_lets -underBinder; intros) | split

theorem State.powerMeasure_keeps (s : State) :
    Keeps 32769 s (State.powerMeasure s) := by
  unfold State.powerMeasure
  repeat' first
    | with_reducible exact Keeps.refl _ _ | with_reducible refine Keeps.ite (fun _ => ?_) (fun _ => ?_)
    | with_reducible refine (State.setPowerDie_keeps _ _ _ ).after ?_ (by decide)
    | with_reducible refine (State.setAll_keeps _ _ ).after ?_ (by decide)
    | with_reducible refine (State.setPower_keeps _ _ ).after ?_ (by decide)
    | with_reducible refine Keeps.foldl ?_ (fun u1 _ => ?_) | (lift_lets -underBinder; intros) | split

theorem State.updateLabel_keeps (s : State) (d) (l) :
    Keeps 16809984 s (State.updateLabel s d l) := by
  unfold State.updateLabel
  repeat' first
    | with_reducible exact Keeps.refl _ _ | with_reducible refine Keeps.ite (fun _ => ?_) (fun _ => ?_)
    | with_reducible refine (State.draw_keeps _ ).after ?_ (by decide) | with_reducible refine Keeps.snd (by assumption) ?_
    | (lift_lets -underBinder; intros) | split | with_reducible refine Keeps.setPower ?_ (by decide)

theorem State.endStep_keeps (s : State) (k) (endNs) :
    Keeps 21035845 s (State.endStep s k endNs) := by
  unfold State.endStep
  repeat' first
    | with_reducible exact Keeps.refl _ _ | with_reducible refine Keeps.ite (fun _ => ?_) (fun _ => ?_)
    | with_reducible refine (State.setTileCode_keeps _ _ _ ).after ?_ (by decide)
    | with_reducible refine (State.writeRecord_keeps _ _ _ _ _ _ ).after ?_ (by decide)
    | with_reducible refine (State.updateLabel_keeps _ _ _ ).after ?_ (by decide)
    | with_reducible refine (State.setTile_keeps _ _ _ ).after ?_ (by decide)
    | with_reducible refine Keeps.foldl ?_ (fun u1 _ => ?_) | (lift_lets -underBinder; intros) | split
    | refine Keeps.setTileSt ?_ (.inl (by decide)) (.inr rfl) (.inr rfl) (by first | exact id | exact mapWf_mapSet _ _ | exact mapWf_filter _ | exact mapWf_mapSetList _ _ | exact mapWf_mapSetMasked _ _ _ | exact mapWf_mapClear _ _ | exact fun _ => rfl)

theorem State.endQuietly_keeps (s : State) (k) :
    Keeps 21035845 s (State.endQuietly s k) := by
  unfold State.endQuietly
  repeat' first
    | with_reducible exact Keeps.refl _ _ | with_reducible refine Keeps.ite (fun _ => ?_) (fun _ => ?_)
    | with_reducible refine (State.draw_keeps _ ).after ?_ (by decide)
    | with_reducible refine (State.endStep_keeps _ _ _ ).after ?_ (by decide)
    | with_reducible refine Keeps.snd (by assumption) ?_ | (lift_lets -underBinder; intros) | split

theorem State.replaysTick_keeps (s : State) :
    Keeps 4212801 s (State.replaysTick s) := by
  unfold State.replaysTick
  repeat' first
    | with_reducible exact Keeps.refl _ _ | with_reducible refine Keeps.ite (fun _ => ?_) (fun _ => ?_)
    | with_reducible refine (State.showReplay_keeps _ ).after ?_ (by decide)
    | with_reducible refine (State.replayTick_keeps _ _ ).after ?_ (by decide)
    | with_reducible refine Keeps.foldl ?_ (fun u1 _ => ?_) | split

theorem State.clearCopies_keeps (s : State) (l) (p) :
    Keeps 88112965 s (State.clearCopies s l p) := by
  unfold State.clearCopies
  repeat' first
    | with_reducible exact Keeps.refl _ _ | with_reducible refine Keeps.ite (fun _ => ?_) (fun _ => ?_)
    | with_reducible refine (State.collectOr_keeps _ _ _ _ _ _ _ _ ).after ?_ (by decide)
    | with_reducible refine Keeps.foldl ?_ (fun u1 _ => ?_) | split

theorem State.zeroTick_keeps (s : State) (p) :
    Keeps 88112965 s (State.zeroTick s p) := by
  unfold State.zeroTick
  repeat' first
    | with_reducible exact Keeps.refl _ _ | with_reducible refine Keeps.ite (fun _ => ?_) (fun _ => ?_)
    | with_reducible refine (State.clearCopies_keeps _ _ _ ).after ?_ (by decide) | split

theorem State.tickVectors_keeps (s : State) :
    Keeps 4196352 s (State.tickVectors s) := by
  unfold State.tickVectors
  repeat' first
    | with_reducible exact Keeps.refl _ _ | with_reducible refine Keeps.ite (fun _ => ?_) (fun _ => ?_)
    | with_reducible refine (State.setUci_keeps _ _ ).after ?_ (by decide)
    | with_reducible refine (State.message_keeps _ _ _ ).after ?_ (by decide)
    | with_reducible refine Keeps.foldl ?_ (fun u1 _ => ?_) | (lift_lets -underBinder; intros) | split

theorem State.seedLabels_keeps (s : State) (p) (seeds) :
    Keeps 32768 s (State.seedLabels s p seeds) := by
  unfold State.seedLabels
  repeat' first
    | with_reducible exact Keeps.refl _ _ | with_reducible refine Keeps.ite (fun _ => ?_) (fun _ => ?_)
    | with_reducible refine (State.setPower_keeps _ _ ).after ?_ (by decide)
    | with_reducible refine Keeps.foldl ?_ (fun u1 _ => ?_) | (lift_lets -underBinder; intros) | split

theorem State.loadApplied_keeps (s : State) :
    Keeps 4212745 s (State.loadApplied s) := by
  unfold State.loadApplied
  repeat' first
    | with_reducible exact Keeps.refl _ _ | with_reducible refine Keeps.ite (fun _ => ?_) (fun _ => ?_)
    | with_reducible refine (State.fire_keeps _ _ _ ).after ?_ (by decide)
    | with_reducible refine (State.set_keeps _ _ _ ).after ?_ (by decide)
    | with_reducible refine (State.event_keeps _ _ _ _ _ _ ).after ?_ (by decide) | (lift_lets -underBinder; intros) | split
    | with_reducible refine Keeps.setLdr ?_ (by decide)

theorem State.startJob_keeps (s : State) (p) (j) :
    Keeps 4225861 s (State.startJob s p j) := by
  unfold State.startJob
  repeat' first
    | with_reducible exact Keeps.refl _ _ | with_reducible refine Keeps.ite (fun _ => ?_) (fun _ => ?_)
    | with_reducible refine (State.setJob_keeps _ _ ).after ?_ (by decide)
    | with_reducible refine (State.setQp_keeps _ _ _ _ ).after ?_ (by decide)
    | with_reducible refine (State.schedWrite_keeps _ _ _ _ _ ).after ?_ (by decide)
    | with_reducible refine (State.setAll_keeps _ _ ).after ?_ (by decide)
    | with_reducible refine Keeps.foldl ?_ (fun u1 _ => ?_) | (lift_lets -underBinder; intros) | split

theorem State.applyPartition_keeps (s : State) (l) :
    Keeps 4258669 s (State.applyPartition s l) := by
  unfold State.applyPartition
  repeat' first
    | with_reducible exact Keeps.refl _ _ | with_reducible refine Keeps.ite (fun _ => ?_) (fun _ => ?_)
    | with_reducible refine (State.set_keeps _ _ _ ).after ?_ (by decide)
    | with_reducible refine (State.seedLabels_keeps _ _ _ ).after ?_ (by decide)
    | with_reducible refine (State.loadApplied_keeps _ ).after ?_ (by decide)
    | with_reducible refine (State.setShares_keeps _ _ _ ).after ?_ (by decide)
    | with_reducible refine (State.startJob_keeps _ _ _ ).after ?_ (by decide) | (lift_lets -underBinder; intros) | split
    | with_reducible refine Keeps.setLasts ?_ (by decide) | with_reducible refine Keeps.setLdr ?_ (by decide)
    | with_reducible refine Keeps.setOuter ?_ (by decide)

theorem State.startCq_keeps (s : State) (p) (k) (on) (base) :
    Keeps 4225861 s (State.startCq s p k on base) := by
  unfold State.startCq
  repeat' first
    | with_reducible exact Keeps.refl _ _ | with_reducible refine Keeps.ite (fun _ => ?_) (fun _ => ?_)
    | with_reducible refine (State.set_keeps _ _ _ ).after ?_ (by decide)
    | with_reducible refine (State.schedWrite_keeps _ _ _ _ _ ).after ?_ (by decide) | split

theorem State.applyRings_keeps (s : State) (p) (c) :
    Keeps 4225861 s (State.applyRings s p c) := by
  unfold State.applyRings
  repeat' first
    | with_reducible exact Keeps.refl _ _ | with_reducible refine Keeps.ite (fun _ => ?_) (fun _ => ?_)
    | with_reducible refine (State.startSq_keeps _ _ _ _ _ ).after ?_ (by decide)
    | with_reducible refine (State.setFields_keeps _ _ ).after ?_ (by decide)
    | with_reducible refine (State.startCq_keeps _ _ _ _ _ ).after ?_ (by decide)
    | with_reducible refine (State.setAll_keeps _ _ ).after ?_ (by decide)
    | with_reducible refine Keeps.foldl ?_ (fun u1 _ => ?_) | (lift_lets -underBinder; intros) | split

theorem State.applyPwr_keeps (s : State) (c) :
    Keeps 4196353 s (State.applyPwr s c) := by
  unfold State.applyPwr
  repeat' first
    | with_reducible exact Keeps.refl _ _ | with_reducible refine Keeps.ite (fun _ => ?_) (fun _ => ?_)
    | with_reducible refine (State.fire_keeps _ _ _ ).after ?_ (by decide)
    | with_reducible refine (State.setFields_keeps _ _ ).after ?_ (by decide)
    | with_reducible refine (State.setAll_keeps _ _ ).after ?_ (by decide) | (lift_lets -underBinder; intros) | split

theorem State.definePart_keeps (s : State) (p) :
    Keeps 8193 s (State.definePart s p) := by
  unfold State.definePart
  repeat' first
    | with_reducible exact Keeps.refl _ _ | with_reducible refine Keeps.ite (fun _ => ?_) (fun _ => ?_)
    | with_reducible refine (State.setPartSt_keeps _ _ _ ).after ?_ (by decide)
    | with_reducible refine (State.set_keeps _ _ _ ).after ?_ (by decide) | (lift_lets -underBinder; intros) | split

theorem State.defineNew_keeps (s : State) (old) (l) :
    Keeps 8193 s (State.defineNew s old l) := by
  unfold State.defineNew
  repeat' first
    | with_reducible exact Keeps.refl _ _ | with_reducible refine Keeps.ite (fun _ => ?_) (fun _ => ?_)
    | with_reducible refine (State.definePart_keeps _ _ ).after ?_ (by decide)
    | with_reducible refine Keeps.foldl ?_ (fun u1 _ => ?_) | (lift_lets -underBinder; intros) | split

theorem State.setWeltOwner_keeps (s : State) (w) (g) (p) :
    Keeps 1 s (State.setWeltOwner s w g p) := by
  unfold State.setWeltOwner
  repeat' first
    | with_reducible exact Keeps.refl _ _ | with_reducible refine Keeps.ite (fun _ => ?_) (fun _ => ?_)
    | with_reducible refine (State.set_keeps _ _ _ ).after ?_ (by decide) | split

theorem State.applyWelts_keeps (s : State) (l) :
    Keeps 1 s (State.applyWelts s l) := by
  unfold State.applyWelts
  repeat' first
    | with_reducible exact Keeps.refl _ _ | with_reducible refine Keeps.ite (fun _ => ?_) (fun _ => ?_)
    | with_reducible refine (State.setWeltOwner_keeps _ _ _ _ ).after ?_ (by decide)
    | with_reducible refine (State.setWeltMode_keeps _ _ _ _ ).after ?_ (by decide)
    | with_reducible refine Keeps.foldl ?_ (fun u1 _ => ?_) | (lift_lets -underBinder; intros) | split

theorem State.moveTiles_keeps (s : State) (p) (before) :
    Keeps 33554433 s (State.moveTiles s p before) := by
  unfold State.moveTiles
  repeat' first
    | with_reducible exact Keeps.refl _ _ | with_reducible refine Keeps.ite (fun _ => ?_) (fun _ => ?_)
    | with_reducible refine (State.set_keeps _ _ _ ).after ?_ (by decide)
    | with_reducible refine (State.scratchZero_keeps _ _ ).after ?_ (by decide)
    | with_reducible refine Keeps.foldl ?_ (fun u1 _ => ?_) | (lift_lets -underBinder; intros) | split

theorem State.placePartitions_keeps (s : State) (old) (l) :
    Keeps 4225893 s (State.placePartitions s old l) := by
  unfold State.placePartitions
  repeat' first
    | with_reducible exact Keeps.refl _ _ | with_reducible refine Keeps.ite (fun _ => ?_) (fun _ => ?_)
    | with_reducible refine (State.teardown_keeps _ _ _ ).after ?_ (by decide)
    | with_reducible refine (State.setPartSt_keeps _ _ _ ).after ?_ (by decide)
    | with_reducible refine (State.set_keeps _ _ _ ).after ?_ (by decide)
    | with_reducible refine (State.forgetPart_keeps _ _ ).after ?_ (by decide)
    | with_reducible refine Keeps.foldl ?_ (fun u1 _ => ?_) | (lift_lets -underBinder; intros) | split

theorem State.toPrimary_keeps (s : State) (d) :
    Keeps 1 s (State.toPrimary s d) := by
  unfold State.toPrimary
  repeat' first
    | with_reducible exact Keeps.refl _ _ | with_reducible refine Keeps.ite (fun _ => ?_) (fun _ => ?_)
    | with_reducible refine (State.bump_keeps _ _ _ ).after ?_ (by decide)
    | with_reducible refine (State.set_keeps _ _ _ ).after ?_ (by decide) | split

theorem State.applyPorts_keeps (s : State) (old) (l) :
    Keeps 1 s (State.applyPorts s old l) := by
  unfold State.applyPorts
  repeat' first
    | with_reducible exact Keeps.refl _ _ | with_reducible refine Keeps.ite (fun _ => ?_) (fun _ => ?_)
    | with_reducible refine (State.set_keeps _ _ _ ).after ?_ (by decide)
    | with_reducible refine (State.setAll_keeps _ _ ).after ?_ (by decide)
    | with_reducible refine Keeps.foldl ?_ (fun u1 _ => ?_) | (lift_lets -underBinder; intros) | split

theorem State.applyPower_keeps (s : State) (l) (first) :
    Keeps 4311041 s (State.applyPower s l first) := by
  unfold State.applyPower
  repeat' first
    | with_reducible exact Keeps.refl _ _ | with_reducible refine Keeps.ite (fun _ => ?_) (fun _ => ?_)
    | with_reducible refine (State.checkForced_keeps _ ).after ?_ (by decide)
    | with_reducible refine (State.setAll_keeps _ _ ).after ?_ (by decide)
    | with_reducible refine (State.setPower_keeps _ _ ).after ?_ (by decide) | (lift_lets -underBinder; intros) | split

theorem State.applyDevice_keeps (s : State) (l) :
    Keeps 37878783 s (State.applyDevice s l) := by
  unfold State.applyDevice
  repeat' first
    | with_reducible exact Keeps.refl _ _ | with_reducible refine Keeps.ite (fun _ => ?_) (fun _ => ?_)
    | with_reducible refine (State.defineNew_keeps _ _ _ ).after ?_ (by decide)
    | with_reducible refine (State.applyWelts_keeps _ _ ).after ?_ (by decide)
    | with_reducible refine (State.applyRoutes_keeps _ _ ).after ?_ (by decide)
    | with_reducible refine (State.loadApplied_keeps _ ).after ?_ (by decide)
    | with_reducible refine (State.moveTiles_keeps _ _ _ ).after ?_ (by decide)
    | with_reducible refine (State.placePartitions_keeps _ _ _ ).after ?_ (by decide)
    | with_reducible refine (State.toPrimary_keeps _ _ ).after ?_ (by decide)
    | with_reducible refine (State.applyPorts_keeps _ _ _ ).after ?_ (by decide)
    | with_reducible refine (State.setAll_keeps _ _ ).after ?_ (by decide)
    | with_reducible refine (State.applyPower_keeps _ _ _ ).after ?_ (by decide)
    | with_reducible refine Keeps.foldl ?_ (fun u1 _ => ?_) | (lift_lets -underBinder; intros) | split
    | with_reducible refine Keeps.setDev ?_ (by decide) | with_reducible refine Keeps.setLdr ?_ (by decide)
    | with_reducible refine Keeps.setClock ?_ (by decide)

theorem State.takeCommit_keeps (s : State) (c) :
    Keeps 4 s (State.takeCommit s c) := by
  unfold State.takeCommit
  repeat' first
    | with_reducible exact Keeps.refl _ _ | with_reducible refine Keeps.ite (fun _ => ?_) (fun _ => ?_)
    | (lift_lets -underBinder; intros) | split | with_reducible refine Keeps.setCfg ?_ (by decide)

theorem State.applyGroup_keeps (s : State) (g) :
    Keeps 37878783 s (State.applyGroup s g) := by
  unfold State.applyGroup
  repeat' first
    | with_reducible exact Keeps.refl _ _ | with_reducible refine Keeps.ite (fun _ => ?_) (fun _ => ?_)
    | with_reducible refine (State.applyPartition_keeps _ _ ).after ?_ (by decide)
    | with_reducible refine (State.applyRings_keeps _ _ _ ).after ?_ (by decide)
    | with_reducible refine (State.applyPwr_keeps _ _ ).after ?_ (by decide)
    | with_reducible refine (State.applyDevice_keeps _ _ ).after ?_ (by decide)
    | with_reducible refine (State.takeCommit_keeps _ _ ).after ?_ (by decide) | (lift_lets -underBinder; intros) | split

theorem State.applyCommits_keeps (s : State) :
    Keeps 37878783 s (State.applyCommits s) := by
  unfold State.applyCommits
  repeat' first
    | with_reducible exact Keeps.refl _ _ | with_reducible refine Keeps.ite (fun _ => ?_) (fun _ => ?_)
    | with_reducible refine (State.set_keeps _ _ _ ).after ?_ (by decide)
    | with_reducible refine (State.applyGroup_keeps _ _ ).after ?_ (by decide)
    | with_reducible refine (State.setPower_keeps _ _ ).after ?_ (by decide)
    | with_reducible refine Keeps.foldl ?_ (fun u1 _ => ?_) | (lift_lets -underBinder; intros) | split

theorem State.freezeTick_keeps (s : State) (p) :
    Keeps 1 s (State.freezeTick s p) := by
  unfold State.freezeTick
  repeat' first
    | with_reducible exact Keeps.refl _ _ | with_reducible refine Keeps.ite (fun _ => ?_) (fun _ => ?_)
    | with_reducible refine (State.set_keeps _ _ _ ).after ?_ (by decide)
    | with_reducible refine (State.setPhase_keeps _ _ _ ).after ?_ (by decide) | split

theorem State.thawTick_keeps (s : State) (p) :
    Keeps 8193 s (State.thawTick s p) := by
  unfold State.thawTick
  repeat' first
    | with_reducible exact Keeps.refl _ _ | with_reducible refine Keeps.ite (fun _ => ?_) (fun _ => ?_)
    | with_reducible refine (State.setPartSt_keeps _ _ _ ).after ?_ (by decide)
    | with_reducible refine (State.set_keeps _ _ _ ).after ?_ (by decide)
    | with_reducible refine (State.setPhase_keeps _ _ _ ).after ?_ (by decide) | (lift_lets -underBinder; intros) | split

theorem State.partTick_keeps (s : State) (p) :
    Keeps 8193 s (State.partTick s p) := by
  unfold State.partTick
  repeat' first
    | with_reducible exact Keeps.refl _ _ | with_reducible refine Keeps.ite (fun _ => ?_) (fun _ => ?_)
    | with_reducible refine (State.freezeTick_keeps _ _ ).after ?_ (by decide)
    | with_reducible refine (State.thawTick_keeps _ _ ).after ?_ (by decide)
    | with_reducible refine (State.setPartSt_keeps _ _ _ ).after ?_ (by decide)
    | with_reducible refine (State.set_keeps _ _ _ ).after ?_ (by decide)
    | with_reducible refine Keeps.foldl ?_ (fun u1 _ => ?_) | (lift_lets -underBinder; intros) | split

theorem State.deviceTick_keeps (s : State) :
    Keeps 122814463 s (State.deviceTick s) := by
  unfold State.deviceTick
  repeat' first
    | with_reducible exact Keeps.refl _ _ | with_reducible refine Keeps.ite (fun _ => ?_) (fun _ => ?_)
    | with_reducible refine (State.returnTick_keeps _ ).after ?_ (by decide)
    | with_reducible refine (State.bypassTick_keeps _ ).after ?_ (by decide)
    | with_reducible refine (State.overrun_keeps _ _ _ ).after ?_ (by decide)
    | with_reducible refine (State.sparesTick_keeps _ ).after ?_ (by decide)
    | with_reducible refine (State.freeHeld_keeps _ ).after ?_ (by decide)
    | with_reducible refine (State.movePending_keeps _ _ ).after ?_ (by decide)
    | with_reducible refine (State.jobTick_keeps _ ).after ?_ (by decide)
    | with_reducible refine (State.powerMeasure_keeps _ ).after ?_ (by decide)
    | with_reducible refine (State.endQuietly_keeps _ _ ).after ?_ (by decide)
    | with_reducible refine (State.replaysTick_keeps _ ).after ?_ (by decide)
    | with_reducible refine (State.zeroTick_keeps _ _ ).after ?_ (by decide)
    | with_reducible refine (State.measureFuses_keeps _ ).after ?_ (by decide)
    | with_reducible refine (State.overrunRecord_keeps _ _ _ _ ).after ?_ (by decide)
    | with_reducible refine (State.tickVectors_keeps _ ).after ?_ (by decide)
    | with_reducible refine (State.applyCommits_keeps _ ).after ?_ (by decide)
    | with_reducible refine (State.partTick_keeps _ _ ).after ?_ (by decide)
    | with_reducible refine Keeps.foldl ?_ (fun u1 _ => ?_) | (lift_lets -underBinder; intros) | split

theorem State.arriveAt_keeps (s : State) (d) :
    Keeps 122814463 s (State.arriveAt s d) := by
  unfold State.arriveAt
  repeat' first
    | with_reducible exact Keeps.refl _ _ | with_reducible refine Keeps.ite (fun _ => ?_) (fun _ => ?_)
    | with_reducible refine (State.dieTick_keeps _ _ ).after ?_ (by decide)
    | with_reducible refine (State.set_keeps _ _ _ ).after ?_ (by decide)
    | with_reducible refine (State.allArrived_keeps _ ).after ?_ (by decide)
    | with_reducible refine (State.deviceTick_keeps _ ).after ?_ (by decide) | (lift_lets -underBinder; intros) | split
    | with_reducible refine Keeps.setClock ?_ (by decide)

theorem State.keepDirty_keeps (s : State) (t) (key) :
    Keeps 64 s (State.keepDirty s t key) := by
  unfold State.keepDirty
  repeat' first
    | with_reducible exact Keeps.refl _ _ | with_reducible refine Keeps.ite (fun _ => ?_) (fun _ => ?_)
    | with_reducible refine (State.dropL1_keeps _ _ _ ).after ?_ (by decide)
    | with_reducible refine (State.putL1_keeps _ _ _ ).after ?_ (by decide) | split

theorem State.loadPart_keeps (s : State) (t) (g) (lane) (p) (whole) (a) (place) (len) :
    Keeps 121667397 s (State.loadPart s t g lane p whole a place len) := by
  unfold State.loadPart
  repeat' first
    | with_reducible exact Keeps.refl _ _ | with_reducible refine Keeps.ite (fun _ => ?_) (fun _ => ?_)
    | with_reducible refine (State.unmapped_keeps _ _ _ _ ).after ?_ (by decide)
    | with_reducible refine (State.serveData_keeps _ _ _ _ _ ).after ?_ (by decide)
    | with_reducible refine (State.keepDirty_keeps _ _ _ ).after ?_ (by decide)
    | with_reducible refine (State.putL1_keeps _ _ _ ).after ?_ (by decide)
    | with_reducible refine (State.issueRead_keeps _ _ _ _ ).after ?_ (by decide)
    | with_reducible refine (State.joinTx_keeps _ _ _ ).after ?_ (by decide)
    | with_reducible refine (State.givePart_keeps _ _ _ _ _ _ _ _ ).after ?_ (by decide)
    | with_reducible refine Keeps.snd (by assumption) ?_ | (lift_lets -underBinder; intros) | split

theorem State.qpAcked_keeps (s : State) (p) (q) (psn) :
    Keeps 4160 s (State.qpAcked s p q psn) := by
  unfold State.qpAcked
  repeat' first
    | with_reducible exact Keeps.refl _ _ | with_reducible refine Keeps.ite (fun _ => ?_) (fun _ => ?_)
    | with_reducible refine (State.setQp_keeps _ _ _ _ ).after ?_ (by decide)
    | with_reducible refine (State.dropCopy_keeps _ _ _ ).after ?_ (by decide)
    | with_reducible refine Keeps.foldl ?_ (fun u1 _ => ?_) | (lift_lets -underBinder; intros) | split

theorem State.readResponse_keeps (s : State) (p) (q) (c) (x) :
    Keeps 37780293 s (State.readResponse s p q c x) := by
  unfold State.readResponse
  repeat' first
    | with_reducible exact Keeps.refl _ _ | with_reducible refine Keeps.ite (fun _ => ?_) (fun _ => ?_)
    | with_reducible refine (State.copyPut_keeps _ _ _ _ _ ).after ?_ (by decide)
    | with_reducible refine (State.qpAcked_keeps _ _ _ _ ).after ?_ (by decide)
    | with_reducible refine (State.setQp_keeps _ _ _ _ ).after ?_ (by decide) | (lift_lets -underBinder; intros) | split

theorem execLaceTickInEdge_keeps (at_) (s : State) :
    KeepsO 3 s (execLaceTickInEdge at_ s) := by
  unfold execLaceTickInEdge
  repeat' first
    | with_reducible refine KeepsO.next ?_ | with_reducible refine KeepsO.ite (fun _ => ?_) (fun _ => ?_)
    | with_reducible exact Keeps.refl _ _ | with_reducible refine Keeps.ite (fun _ => ?_) (fun _ => ?_)
    | with_reducible refine (State.bump_keeps _ _ _ ).after ?_ (by decide)
    | with_reducible refine (State.emitTick_keeps _ _ _ _ ).after ?_ (by decide) | (lift_lets -underBinder; intros) | split
    | with_reducible refine Keeps.setClock ?_ (by decide)

theorem execLdrStart_keeps (v) (s : State) :
    KeepsO 5274445 s (execLdrStart v s) := by
  unfold execLdrStart
  repeat' first
    | with_reducible refine KeepsO.next ?_ | with_reducible refine KeepsO.ite (fun _ => ?_) (fun _ => ?_)
    | with_reducible exact Keeps.refl _ _ | with_reducible refine Keeps.ite (fun _ => ?_) (fun _ => ?_)
    | with_reducible refine (State.loaderControl_keeps _ _ ).after ?_ (by decide) | split

theorem State.marginLow_keeps (s : State) (d) :
    Keeps 4245505 s (State.marginLow s d) := by
  unfold State.marginLow
  repeat' first
    | with_reducible exact Keeps.refl _ _ | with_reducible refine Keeps.ite (fun _ => ?_) (fun _ => ?_)
    | with_reducible refine (State.setPowerDie_keeps _ _ _ ).after ?_ (by decide)
    | with_reducible refine (State.set_keeps _ _ _ ).after ?_ (by decide)
    | with_reducible refine (State.event_keeps _ _ _ _ _ _ ).after ?_ (by decide) | (lift_lets -underBinder; intros) | split

theorem State.taskArrives_keeps (s : State) (p) (j) (k) (b) :
    Keeps 4198465 s (State.taskArrives s p j k b) := by
  unfold State.taskArrives
  repeat' first
    | with_reducible exact Keeps.refl _ _ | with_reducible refine Keeps.ite (fun _ => ?_) (fun _ => ?_)
    | with_reducible refine (State.checkInst_keeps _ _ _ _ ).after ?_ (by decide) | (lift_lets -underBinder; intros) | split

theorem execPmRestore_keeps (p) (v) (s : State) :
    KeepsO 88112965 s (execPmRestore p v s) := by
  unfold execPmRestore
  repeat' first
    | with_reducible refine KeepsO.next ?_ | with_reducible refine KeepsO.ite (fun _ => ?_) (fun _ => ?_)
    | with_reducible exact Keeps.refl _ _ | with_reducible refine Keeps.ite (fun _ => ?_) (fun _ => ?_)
    | with_reducible refine (State.pmControl_keeps _ _ _ ).after ?_ (by decide) | split

theorem State.dramZero_keeps (s : State) (lo) (hi) :
    Keeps 67109888 s (State.dramZero s lo hi) := by
  unfold State.dramZero
  repeat' first
    | with_reducible exact Keeps.refl _ _ | with_reducible refine Keeps.ite (fun _ => ?_) (fun _ => ?_)
    | (lift_lets -underBinder; intros) | split
    | refine Keeps.setDramSt ?_ (.inl (by decide)) (.inl (by decide)) (by first | exact id | exact mapWf_mapSet _ _ | exact mapWf_filter _ | exact mapWf_mapSetList _ _ | exact mapWf_mapSetMasked _ _ _ | exact mapWf_mapClear _ _ | exact fun _ => rfl)

theorem State.zeroRanges_keeps (s : State) (l) (p) :
    Keeps 67110144 s (State.zeroRanges s l p) := by
  unfold State.zeroRanges
  repeat' first
    | with_reducible exact Keeps.refl _ _ | with_reducible refine Keeps.ite (fun _ => ?_) (fun _ => ?_)
    | with_reducible refine (State.dramZero_keeps _ _ _ ).after ?_ (by decide)
    | with_reducible refine Keeps.foldl ?_ (fun u1 _ => ?_) | (lift_lets -underBinder; intros) | split
    | with_reducible refine Keeps.setCoh ?_ (by decide)

theorem State.reviveHost_keeps (s : State) :
    Keeps 1 s (State.reviveHost s) := by
  unfold State.reviveHost
  repeat' first
    | with_reducible exact Keeps.refl _ _ | with_reducible refine Keeps.ite (fun _ => ?_) (fun _ => ?_)
    | with_reducible refine (State.setBitOf_keeps _ _ _ _ ).after ?_ (by decide)
    | with_reducible refine Keeps.foldl ?_ (fun u1 _ => ?_) | split

theorem State.doeReply_keeps (s : State) (bs) :
    Keeps 4196352 s (State.doeReply s bs) := by
  unfold State.doeReply
  repeat' first
    | with_reducible exact Keeps.refl _ _ | with_reducible refine Keeps.ite (fun _ => ?_) (fun _ => ?_)
    | with_reducible refine (State.fire_keeps _ _ _ ).after ?_ (by decide)
    | with_reducible refine (State.emit_keeps _ _ ).after ?_ (by decide) | split

theorem State.spdmError_keeps (s : State) (code) :
    Keeps 4196352 s (State.spdmError s code) := by
  unfold State.spdmError
  repeat' first
    | with_reducible exact Keeps.refl _ _ | with_reducible refine Keeps.ite (fun _ => ?_) (fun _ => ?_)
    | with_reducible refine (State.doeReply_keeps _ _ ).after ?_ (by decide) | split

theorem State.nonce_keeps (s : State) :
    Keeps 16777216 s (State.nonce s).2 := by
  unfold State.nonce
  repeat' first
    | with_reducible exact Keeps.refl _ _ | with_reducible refine Keeps.ite (fun _ => ?_) (fun _ => ?_)
    | with_reducible refine (State.draw_keeps _ ).after ?_ (by decide) | with_reducible refine Keeps.snd (by assumption) ?_
    | split

theorem execChallenge_keeps (slot) (nonce) (s : State) :
    KeepsO 20973568 s (execChallenge slot nonce s) := by
  unfold execChallenge State.spdm State.doe
  repeat' first
    | with_reducible refine KeepsO.next ?_ | with_reducible refine KeepsO.ite (fun _ => ?_) (fun _ => ?_)
    | with_reducible exact Keeps.refl _ _ | with_reducible refine Keeps.ite (fun _ => ?_) (fun _ => ?_)
    | with_reducible refine (State.spdmError_keeps _ _ ).after ?_ (by decide)
    | with_reducible refine (State.doeReply_keeps _ _ ).after ?_ (by decide)
    | with_reducible refine (State.nonce_keeps _ ).after ?_ (by decide) | with_reducible refine Keeps.snd (by assumption) ?_
    | (lift_lets -underBinder; intros) | dsimp -zeta only | split

theorem State.fetchLane_keeps (s : State) (t) (g) (lane) (kind) :
    Keeps 88112965 s (State.fetchLane s t g lane kind).2 := by
  unfold State.fetchLane
  repeat' first
    | with_reducible exact Keeps.refl _ _ | with_reducible refine Keeps.ite (fun _ => ?_) (fun _ => ?_)
    | with_reducible refine (State.setGroup_keeps _ _ _ _ ).after ?_ (by decide)
    | with_reducible refine (State.lanePart_keeps _ _ _ _ _ ).after ?_ (by decide)
    | with_reducible refine (State.fetchPath_keeps _ _ _ ).after ?_ (by decide)
    | with_reducible refine Keeps.snd (by assumption) ?_ | (lift_lets -underBinder; intros) | split

theorem State.bareRepairs_keeps (s : State) :
    Keeps 1 s (State.bareRepairs s) := by
  unfold State.bareRepairs
  repeat' first
    | with_reducible exact Keeps.refl _ _ | with_reducible refine Keeps.ite (fun _ => ?_) (fun _ => ?_)
    | with_reducible refine (State.setAll_keeps _ _ ).after ?_ (by decide)
    | with_reducible refine Keeps.foldl ?_ (fun u1 _ => ?_) | (lift_lets -underBinder; intros) | split

theorem State.isolate_keeps (s : State) (t) (cause) (address) :
    Keeps 4213313 s (State.isolate s t cause address).2 := by
  unfold State.isolate
  repeat' first
    | with_reducible exact Keeps.refl _ _ | with_reducible refine Keeps.ite (fun _ => ?_) (fun _ => ?_)
    | with_reducible refine (State.setTileCode_keeps _ _ _ ).after ?_ (by decide)
    | with_reducible refine (State.copyError_keeps _ _ _ ).after ?_ (by decide)
    | with_reducible refine (State.event_keeps _ _ _ _ _ _ ).after ?_ (by decide)
    | with_reducible refine Keeps.foldl ?_ (fun u1 _ => ?_) | with_reducible refine Keeps.foldlSnd ?_ (fun u1 _ => ?_)
    | (lift_lets -underBinder; intros) | split | with_reducible refine Keeps.setFlt ?_ (by decide)

theorem State.fenceTile_keeps (s : State) (t) (cause) (address) :
    Keeps 4225861 s (State.fenceTile s t cause address) := by
  unfold State.fenceTile
  repeat' first
    | with_reducible exact Keeps.refl _ _ | with_reducible refine Keeps.ite (fun _ => ?_) (fun _ => ?_)
    | with_reducible refine (State.recordFault_keeps _ _ ).after ?_ (by decide)
    | with_reducible refine (State.partitionFault_keeps _ _ _ ).after ?_ (by decide)
    | with_reducible refine (State.isolate_keeps _ _ _ _ ).after ?_ (by decide)
    | with_reducible refine Keeps.snd (by assumption) ?_ | (lift_lets -underBinder; intros) | split

theorem execQpReady_keeps (s : State) :
    KeepsO 4096 s (execQpReady s) := by
  unfold execQpReady
  repeat' first
    | with_reducible refine KeepsO.next ?_ | with_reducible refine KeepsO.ite (fun _ => ?_) (fun _ => ?_)
    | with_reducible exact Keeps.refl _ _ | with_reducible refine Keeps.ite (fun _ => ?_) (fun _ => ?_)
    | (lift_lets -underBinder; intros) | split | with_reducible refine Keeps.setOuter ?_ (by decide)

end Sys2Proof.Machine
end

