-- ==== Sys2Proof/Laws/Frames5.lean ====
section
/-! SUPPORT. For each operation of the model, in the order of use (part 5 of 6): the components that it may change, by the bits
of `Keeps`. -/

set_option linter.all false

namespace Sys2Proof.Machine

theorem execMemRd_keeps (h) (mv) (tag) (s : State) :
    KeepsO 2305 s (execMemRd h mv tag s) := by
  unfold execMemRd State.fromHost
  repeat' first
    | with_reducible refine KeepsO.next ?_ | with_reducible refine KeepsO.ite (fun _ => ?_) (fun _ => ?_)
    | with_reducible exact Keeps.refl _ _ | with_reducible refine Keeps.ite (fun _ => ?_) (fun _ => ?_)
    | with_reducible refine (State.hostSend_keeps _ _ ).after ?_ (by decide)
    | with_reducible refine (State.unsupported_keeps _ ).after ?_ (by decide) | dsimp -zeta only | split

theorem State.rxWritten_keeps (s : State) (p) (q) (psn) (n) :
    Keeps 4225861 s (State.rxWritten s p q psn n) := by
  unfold State.rxWritten
  repeat' first
    | with_reducible exact Keeps.refl _ _ | with_reducible refine Keeps.ite (fun _ => ?_) (fun _ => ?_)
    | with_reducible refine (State.eyeCount_keeps _ _ _ ).after ?_ (by decide)
    | with_reducible refine (State.setQp_keeps _ _ _ _ ).after ?_ (by decide)
    | with_reducible refine (State.rxDone_keeps _ _ _ _ ).after ?_ (by decide)
    | with_reducible refine (State.checkPause_keeps _ _ ).after ?_ (by decide) | (lift_lets -underBinder; intros) | split

theorem execWrcurComplete_keeps (hpa) (s : State) :
    KeepsO 21003077 s (execWrcurComplete hpa s) := by
  unfold execWrcurComplete
  repeat' first
    | with_reducible refine KeepsO.next ?_ | with_reducible refine KeepsO.ite (fun _ => ?_) (fun _ => ?_)
    | with_reducible exact Keeps.refl _ _ | with_reducible refine Keeps.ite (fun _ => ?_) (fun _ => ?_)
    | with_reducible refine (State.filterRespond_keeps _ _ _ _ ).after ?_ (by decide)
    | with_reducible refine (State.serveFilter_keeps _ ).after ?_ (by decide)
    | with_reducible refine (State.setHostReqs_keeps _ _ ).after ?_ (by decide) | split

theorem execRoutesRewritten_keeps (d) (s : State) :
    KeepsO 4213441 s (execRoutesRewritten d s) := by
  unfold execRoutesRewritten
  repeat' first
    | with_reducible refine KeepsO.next ?_ | with_reducible refine KeepsO.ite (fun _ => ?_) (fun _ => ?_)
    | with_reducible exact Keeps.refl _ _ | with_reducible refine Keeps.ite (fun _ => ?_) (fun _ => ?_)
    | with_reducible refine (State.setMesh_keeps _ _ ).after ?_ (by decide)
    | with_reducible refine (State.addTo_keeps _ _ _ ).after ?_ (by decide)
    | with_reducible refine (State.setFlt_keeps _ _ ).after ?_ (by decide)
    | with_reducible refine (State.isolate_keeps _ _ _ _ ).after ?_ (by decide)
    | with_reducible refine (State.event_keeps _ _ _ _ _ _ ).after ?_ (by decide)
    | with_reducible refine Keeps.foldl ?_ (fun u1 _ => ?_) | with_reducible refine Keeps.foldlSnd ?_ (fun u1 _ => ?_)
    | with_reducible refine Keeps.snd (by assumption) ?_ | (lift_lets -underBinder; intros) | split

theorem execCmp_keeps (m) (s : State) :
    KeepsO 4196609 s (execCmp m s) := by
  unfold execCmp
  repeat' first
    | with_reducible refine KeepsO.next ?_ | with_reducible refine KeepsO.ite (fun _ => ?_) (fun _ => ?_)
    | with_reducible exact Keeps.refl _ _ | with_reducible refine Keeps.ite (fun _ => ?_) (fun _ => ?_)
    | with_reducible refine (State.hostCmp_keeps _ _ ).after ?_ (by decide)
    | with_reducible refine (State.arrive_keeps _ _ ).after ?_ (by decide) | split

theorem State.relayReport_keeps (s : State) (j) :
    Keeps 4198401 s (State.relayReport s j) := by
  unfold State.relayReport
  repeat' first
    | with_reducible exact Keeps.refl _ _ | with_reducible refine Keeps.ite (fun _ => ?_) (fun _ => ?_)
    | with_reducible refine (State.sendReport_keeps _ _ ).after ?_ (by decide) | (lift_lets -underBinder; intros) | split

theorem execEpochReport_keeps (s : State) :
    KeepsO 4198401 s (execEpochReport s) := by
  unfold execEpochReport
  repeat' first
    | with_reducible refine KeepsO.next ?_ | with_reducible refine KeepsO.ite (fun _ => ?_) (fun _ => ?_)
    | with_reducible exact Keeps.refl _ _ | with_reducible refine Keeps.ite (fun _ => ?_) (fun _ => ?_)
    | with_reducible refine (State.relayReport_keeps _ _ ).after ?_ (by decide) | split

theorem State.unpause_keeps (s : State) (k) :
    Keeps 4198401 s (State.unpause s k) := by
  unfold State.unpause
  repeat' first
    | with_reducible exact Keeps.refl _ _ | with_reducible refine Keeps.ite (fun _ => ?_) (fun _ => ?_)
    | with_reducible refine (State.setPortSt_keeps _ _ _ ).after ?_ (by decide)
    | with_reducible refine (State.set_keeps _ _ _ ).after ?_ (by decide)
    | with_reducible refine (State.wirePkt_keeps _ _ _ _ ).after ?_ (by decide)
    | with_reducible refine Keeps.foldl ?_ (fun u1 _ => ?_) | (lift_lets -underBinder; intros) | split

theorem State.nakAccess_keeps (s : State) (p) (q) (x) :
    Keeps 4217409 s (State.nakAccess s p q x) := by
  unfold State.nakAccess
  repeat' first
    | with_reducible exact Keeps.refl _ _ | with_reducible refine Keeps.ite (fun _ => ?_) (fun _ => ?_)
    | with_reducible refine (State.qpError_keeps _ _ _ _ ).after ?_ (by decide)
    | with_reducible refine (State.qpReply_keeps _ _ _ _ ).after ?_ (by decide) | split

theorem State.takePsn_keeps (s : State) (p) (q) (n) :
    Keeps 4096 s (State.takePsn s p q n) := by
  unfold State.takePsn
  repeat' first
    | with_reducible exact Keeps.refl _ _ | with_reducible refine Keeps.ite (fun _ => ?_) (fun _ => ?_)
    | with_reducible refine (State.setQp_keeps _ _ _ _ ).after ?_ (by decide) | (lift_lets -underBinder; intros) | split

theorem State.readPacket_keeps (s : State) (p) (q) (c) (x) :
    Keeps 4225861 s (State.readPacket s p q c x) := by
  unfold State.readPacket
  repeat' first
    | with_reducible exact Keeps.refl _ _ | with_reducible refine Keeps.ite (fun _ => ?_) (fun _ => ?_)
    | with_reducible refine (State.nakAccess_keeps _ _ _ _ ).after ?_ (by decide)
    | with_reducible refine (State.unmapped_keeps _ _ _ _ ).after ?_ (by decide)
    | with_reducible refine (State.takePsn_keeps _ _ _ _ ).after ?_ (by decide)
    | with_reducible refine (State.setQp_keeps _ _ _ _ ).after ?_ (by decide)
    | with_reducible refine (State.readAnswer_keeps _ _ _ _ ).after ?_ (by decide)
    | with_reducible refine (State.issueRead_keeps _ _ _ _ ).after ?_ (by decide)
    | with_reducible refine (State.nakInvalid_keeps _ _ _ _ ).after ?_ (by decide)
    | with_reducible refine Keeps.foldl ?_ (fun u1 _ => ?_) | with_reducible refine Keeps.foldlSnd ?_ (fun u1 _ => ?_)
    | with_reducible refine Keeps.snd (by assumption) ?_ | (lift_lets -underBinder; intros) | split

theorem State.congestion_keeps (s : State) (p) (q) (x) :
    Keeps 4198401 s (State.congestion s p q x) := by
  unfold State.congestion
  repeat' first
    | with_reducible exact Keeps.refl _ _ | with_reducible refine Keeps.ite (fun _ => ?_) (fun _ => ?_)
    | with_reducible refine (State.setQp_keeps _ _ _ _ ).after ?_ (by decide)
    | with_reducible refine (State.qpReply_keeps _ _ _ _ ).after ?_ (by decide) | (lift_lets -underBinder; intros) | split

theorem execRdmaReadRequest_keeps (k) (x) (s : State) :
    KeepsO 4225861 s (execRdmaReadRequest k x s) := by
  unfold execRdmaReadRequest State.request State.packet
  repeat' first
    | with_reducible refine KeepsO.next ?_ | with_reducible refine KeepsO.ite (fun _ => ?_) (fun _ => ?_)
    | with_reducible exact Keeps.refl _ _ | with_reducible refine Keeps.ite (fun _ => ?_) (fun _ => ?_)
    | with_reducible refine (State.readPacket_keeps _ _ _ _ _ ).after ?_ (by decide)
    | with_reducible refine (State.qpReply_keeps _ _ _ _ ).after ?_ (by decide)
    | with_reducible refine (State.rxCount_keeps _ _ ).after ?_ (by decide)
    | with_reducible refine (State.rxDrop_keeps _ _ ).after ?_ (by decide)
    | with_reducible refine (State.rxStale_keeps _ _ ).after ?_ (by decide)
    | with_reducible refine (State.congestion_keeps _ _ _ _ ).after ?_ (by decide) | (lift_lets -underBinder; intros)
    | dsimp -zeta only | split

theorem execFreqApply_keeps (s : State) :
    KeepsO 4249601 s (execFreqApply s) := by
  unfold execFreqApply
  repeat' first
    | with_reducible refine KeepsO.next ?_ | with_reducible refine KeepsO.ite (fun _ => ?_) (fun _ => ?_)
    | with_reducible exact Keeps.refl _ _ | with_reducible refine Keeps.ite (fun _ => ?_) (fun _ => ?_)
    | with_reducible refine (State.bump_keeps _ _ _ ).after ?_ (by decide)
    | with_reducible refine (State.set_keeps _ _ _ ).after ?_ (by decide)
    | with_reducible refine (State.setJob_keeps _ _ ).after ?_ (by decide)
    | with_reducible refine (State.updateThrottle_keeps _ ).after ?_ (by decide) | (lift_lets -underBinder; intros) | split

theorem execTileCntClear_keeps (t) (s : State) :
    KeepsO 1 s (execTileCntClear t s) := by
  unfold execTileCntClear
  repeat' first
    | with_reducible refine KeepsO.next ?_ | with_reducible refine KeepsO.ite (fun _ => ?_) (fun _ => ?_)
    | with_reducible exact Keeps.refl _ _ | with_reducible refine Keeps.ite (fun _ => ?_) (fun _ => ?_)
    | with_reducible refine (State.clearTile_keeps _ _ _ ).after ?_ (by decide) | split

theorem execCalibrationMove_keeps (d) (edge) (g) (s : State) :
    KeepsO 65536 s (execCalibrationMove d edge g s) := by
  unfold execCalibrationMove
  repeat' first
    | with_reducible refine KeepsO.next ?_ | with_reducible refine KeepsO.ite (fun _ => ?_) (fun _ => ?_)
    | with_reducible exact Keeps.refl _ _ | with_reducible refine Keeps.ite (fun _ => ?_) (fun _ => ?_)
    | with_reducible refine (State.setAwl_keeps _ _ ).after ?_ (by decide) | (lift_lets -underBinder; intros) | split

theorem State.linkDies_keeps (s : State) (d) (site) (port) (plane) :
    Keeps 4225989 s (State.linkDies s d site port plane) := by
  unfold State.linkDies
  repeat' first
    | with_reducible exact Keeps.refl _ _ | with_reducible refine Keeps.ite (fun _ => ?_) (fun _ => ?_)
    | with_reducible refine (State.setMesh_keeps _ _ ).after ?_ (by decide)
    | with_reducible refine (State.addTo_keeps _ _ _ ).after ?_ (by decide)
    | with_reducible refine (State.faultMany_keeps _ _ _ ).after ?_ (by decide)
    | with_reducible refine (State.needRoutes_keeps _ _ ).after ?_ (by decide)
    | with_reducible refine (State.event_keeps _ _ _ _ _ _ ).after ?_ (by decide) | (lift_lets -underBinder; intros) | split

theorem State.barAccess_keeps (s : State) (sp) (off) (width) (write) (v) :
    Keeps 98172751 s (State.barAccess s sp off width write v) := by
  unfold State.barAccess
  repeat' first
    | with_reducible exact Keeps.refl _ _ | with_reducible refine Keeps.ite (fun _ => ?_) (fun _ => ?_)
    | with_reducible refine (State.write_keeps _ _ _ _ _ _ ).after ?_ (by decide)
    | with_reducible refine (State.read_keeps _ _ _ _ _ ).after ?_ (by decide)
    | with_reducible refine Keeps.snd (by assumption) ?_ | (lift_lets -underBinder; intros) | split
    | with_reducible refine Keeps.setLastRead ?_ (by decide)

theorem execEyeCtlArm_keeps (n) (index) (v) (s : State) :
    KeepsO 98172751 s (execEyeCtlArm n index v s) := by
  unfold execEyeCtlArm
  repeat' first
    | with_reducible refine KeepsO.next ?_ | with_reducible refine KeepsO.ite (fun _ => ?_) (fun _ => ?_)
    | with_reducible exact Keeps.refl _ _ | with_reducible refine Keeps.ite (fun _ => ?_) (fun _ => ?_)
    | with_reducible refine (State.barAccess_keeps _ _ _ _ _ _ ).after ?_ (by decide) | split

theorem State.jobFault_keeps (s : State) (stitch) (cause) (member) :
    Keeps 4216833 s (State.jobFault s stitch cause member) := by
  unfold State.jobFault
  repeat' first
    | with_reducible exact Keeps.refl _ _ | with_reducible refine Keeps.ite (fun _ => ?_) (fun _ => ?_)
    | with_reducible refine (State.setJob_keeps _ _ ).after ?_ (by decide)
    | with_reducible refine (State.setAll_keeps _ _ ).after ?_ (by decide)
    | with_reducible refine (State.event_keeps _ _ _ _ _ _ ).after ?_ (by decide) | (lift_lets -underBinder; intros) | split

theorem execJobFault_keeps (k) (f) (s : State) :
    KeepsO 4216833 s (execJobFault k f s) := by
  unfold execJobFault State.laceFrame
  repeat' first
    | with_reducible refine KeepsO.next ?_ | with_reducible refine KeepsO.ite (fun _ => ?_) (fun _ => ?_)
    | with_reducible exact Keeps.refl _ _ | with_reducible refine Keeps.ite (fun _ => ?_) (fun _ => ?_)
    | with_reducible refine (State.laceDown_keeps _ _ ).after ?_ (by decide)
    | with_reducible refine (State.addTo_keeps _ _ _ ).after ?_ (by decide)
    | with_reducible refine (State.jobFault_keeps _ _ _ _ ).after ?_ (by decide)
    | with_reducible refine (State.rxCount_keeps _ _ ).after ?_ (by decide)
    | with_reducible refine (State.rxStale_keeps _ _ ).after ?_ (by decide) | dsimp -zeta only | split

theorem State.routerDies_keeps (s : State) (d) (site) :
    Keeps 4225861 s (State.routerDies s d site) := by
  unfold State.routerDies
  repeat' first
    | with_reducible exact Keeps.refl _ _ | with_reducible refine Keeps.ite (fun _ => ?_) (fun _ => ?_)
    | with_reducible refine (State.addTo_keeps _ _ _ ).after ?_ (by decide)
    | with_reducible refine (State.faultMany_keeps _ _ _ ).after ?_ (by decide)
    | with_reducible refine (State.set_keeps _ _ _ ).after ?_ (by decide)
    | with_reducible refine (State.isolate_keeps _ _ _ _ ).after ?_ (by decide)
    | with_reducible refine (State.needRoutes_keeps _ _ ).after ?_ (by decide)
    | with_reducible refine (State.event_keeps _ _ _ _ _ _ ).after ?_ (by decide)
    | with_reducible refine Keeps.snd (by assumption) ?_ | (lift_lets -underBinder; intros) | split

theorem execLoopbackCheck_keeps (d) (site) (routerOk) (deadLinks) (s : State) :
    KeepsO 21003205 s (execLoopbackCheck d site routerOk deadLinks s) := by
  unfold execLoopbackCheck
  repeat' first
    | with_reducible refine KeepsO.next ?_ | with_reducible refine KeepsO.ite (fun _ => ?_) (fun _ => ?_)
    | with_reducible exact Keeps.refl _ _ | with_reducible refine Keeps.ite (fun _ => ?_) (fun _ => ?_)
    | with_reducible refine (State.routerDies_keeps _ _ _ ).after ?_ (by decide)
    | with_reducible refine (State.setFlt_keeps _ _ ).after ?_ (by decide)
    | with_reducible refine (State.linkDies_keeps _ _ _ _ _ ).after ?_ (by decide)
    | with_reducible refine (State.excuse_keeps _ ).after ?_ (by decide)
    | with_reducible refine Keeps.foldl ?_ (fun u1 _ => ?_) | (lift_lets -underBinder; intros) | split

theorem execSliceTimeout_keeps (d) (sl) (s : State) :
    KeepsO 88112965 s (execSliceTimeout d sl s) := by
  unfold execSliceTimeout
  repeat' first
    | with_reducible refine KeepsO.next ?_ | with_reducible refine KeepsO.ite (fun _ => ?_) (fun _ => ?_)
    | with_reducible exact Keeps.refl _ _ | with_reducible refine Keeps.ite (fun _ => ?_) (fun _ => ?_)
    | with_reducible refine (State.unitReset_keeps _ _ _ _ _ _ _ _ ).after ?_ (by decide) | (lift_lets -underBinder; intros)
    | split

theorem execWbm_keeps (m) (s : State) :
    KeepsO 88112965 s (execWbm m s) := by
  unfold execWbm
  repeat' first
    | with_reducible refine KeepsO.next ?_ | with_reducible refine KeepsO.ite (fun _ => ?_) (fun _ => ?_)
    | with_reducible exact Keeps.refl _ _ | with_reducible refine Keeps.ite (fun _ => ?_) (fun _ => ?_)
    | with_reducible refine (State.arriveRequest_keeps _ _ _ ).after ?_ (by decide) | split

theorem State.trainAll_keeps (s : State) :
    Keeps 2049 s (State.trainAll s) := by
  unfold State.trainAll
  repeat' first
    | with_reducible exact Keeps.refl _ _ | with_reducible refine Keeps.ite (fun _ => ?_) (fun _ => ?_)
    | with_reducible refine (State.setUci_keeps _ _ ).after ?_ (by decide)
    | with_reducible refine (State.setModule_keeps _ _ _ ).after ?_ (by decide)
    | with_reducible refine Keeps.foldl ?_ (fun u1 _ => ?_) | (lift_lets -underBinder; intros) | split

theorem State.attemptResult_keeps (s : State) (d) (k) (unit) :
    Keeps 4278273 s (State.attemptResult s d k unit) := by
  unfold State.attemptResult
  repeat' first
    | with_reducible exact Keeps.refl _ _ | with_reducible refine Keeps.ite (fun _ => ?_) (fun _ => ?_)
    | with_reducible refine (State.addTo_keeps _ _ _ ).after ?_ (by decide)
    | with_reducible refine (State.passEnds_keeps _ _ _ _ ).after ?_ (by decide) | split

theorem State.spareRowGone_keeps (s : State) (d) (unit) (n) :
    Keeps 262144 s (State.spareRowGone s d unit n) := by
  unfold State.spareRowGone
  repeat' first
    | with_reducible exact Keeps.refl _ _ | with_reducible refine Keeps.ite (fun _ => ?_) (fun _ => ?_)
    | (lift_lets -underBinder; intros) | split
    | refine Keeps.setSecSt ?_ (.inr rfl) (.inl (by decide)) (.inr ⟨rfl, rfl, rfl⟩) (.inr rfl)

theorem State.retireFrames_keeps (s : State) (d) (unit) :
    Keeps 256 s (State.retireFrames s d unit) := by
  unfold State.retireFrames
  repeat' first
    | with_reducible exact Keeps.refl _ _ | with_reducible refine Keeps.ite (fun _ => ?_) (fun _ => ?_)
    | (lift_lets -underBinder; intros) | split | with_reducible refine Keeps.setCoh ?_ (by decide)

theorem State.noSpare_keeps (s : State) (d) (k) (unit) (cause) :
    Keeps 4212737 s (State.noSpare s d k unit cause) := by
  unfold State.noSpare
  repeat' first
    | with_reducible exact Keeps.refl _ _ | with_reducible refine Keeps.ite (fun _ => ?_) (fun _ => ?_)
    | with_reducible refine (State.addTo_keeps _ _ _ ).after ?_ (by decide)
    | with_reducible refine (State.event_keeps _ _ _ _ _ _ ).after ?_ (by decide) | split

theorem State.arrayFails_keeps (s : State) (d) (k) (unit) (spare) :
    Keeps 4553541 s (State.arrayFails s d k unit spare) := by
  unfold State.arrayFails
  repeat' first
    | with_reducible exact Keeps.refl _ _ | with_reducible refine Keeps.ite (fun _ => ?_) (fun _ => ?_)
    | with_reducible refine (State.spareRowGone_keeps _ _ _ _ ).after ?_ (by decide)
    | with_reducible refine (State.sliceFailed_keeps _ _ _ _ _ ).after ?_ (by decide)
    | with_reducible refine (State.retireFrames_keeps _ _ _ ).after ?_ (by decide)
    | with_reducible refine (State.fenceTile_keeps _ _ _ _ ).after ?_ (by decide)
    | with_reducible refine (State.noSpare_keeps _ _ _ _ _ ).after ?_ (by decide)
    | with_reducible refine (State.softEvent_keeps _ _ _ ).after ?_ (by decide) | (lift_lets -underBinder; intros) | split

theorem State.readRow_keeps (s : State) (here) :
    Keeps 88099841 s (State.readRow s here) := by
  unfold State.readRow
  repeat' first
    | with_reducible exact Keeps.refl _ _ | with_reducible refine Keeps.ite (fun _ => ?_) (fun _ => ?_)
    | with_reducible refine (State.logUe_keeps _ _ _ ).after ?_ (by decide)
    | with_reducible refine (State.checkUnits_keeps _ _ ).after ?_ (by decide)
    | with_reducible refine Keeps.foldl ?_ (fun u1 _ => ?_) | (lift_lets -underBinder; intros) | split

theorem State.marginRead_keeps (s : State) (d) (unit) (found) :
    Keeps 88165377 s (State.marginRead s d unit found) := by
  unfold State.marginRead
  repeat' first
    | with_reducible exact Keeps.refl _ _ | with_reducible refine Keeps.ite (fun _ => ?_) (fun _ => ?_)
    | with_reducible refine (State.strike_keeps _ _ ).after ?_ (by decide)
    | with_reducible refine (State.setAwl_keeps _ _ ).after ?_ (by decide)
    | with_reducible refine (State.readRow_keeps _ _ ).after ?_ (by decide) | (lift_lets -underBinder; intros) | split

theorem State.flagLane_keeps (s : State) (d) (e) (g) (w) (lane) :
    Keeps 88178637 s (State.flagLane s d e g w lane).2 := by
  unfold State.flagLane
  repeat' first
    | with_reducible exact Keeps.refl _ _ | with_reducible refine Keeps.ite (fun _ => ?_) (fun _ => ?_)
    | with_reducible refine (State.setAwl_keeps _ _ ).after ?_ (by decide)
    | with_reducible refine (State.abortSlices_keeps _ _ ).after ?_ (by decide)
    | with_reducible refine (State.groupFails_keeps _ _ _ _ ).after ?_ (by decide) | (lift_lets -underBinder; intros) | split

theorem State.laneFails_keeps (s : State) (d) (k) (unit) :
    Keeps 88178637 s (State.laneFails s d k unit) := by
  unfold State.laneFails
  repeat' first
    | with_reducible exact Keeps.refl _ _ | with_reducible refine Keeps.ite (fun _ => ?_) (fun _ => ?_)
    | with_reducible refine (State.sliceFailed_keeps _ _ _ _ _ ).after ?_ (by decide)
    | with_reducible refine (State.setAwl_keeps _ _ ).after ?_ (by decide)
    | with_reducible refine (State.flagLane_keeps _ _ _ _ _ _ ).after ?_ (by decide)
    | with_reducible refine (State.noSpare_keeps _ _ _ _ _ ).after ?_ (by decide)
    | with_reducible refine (State.softEvent_keeps _ _ _ ).after ?_ (by decide)
    | with_reducible refine Keeps.snd (by assumption) ?_ | (lift_lets -underBinder; intros) | split

theorem State.logicFails_keeps (s : State) (d) (unit) :
    Keeps 4291397 s (State.logicFails s d unit) := by
  unfold State.logicFails
  repeat' first
    | with_reducible exact Keeps.refl _ _ | with_reducible refine Keeps.ite (fun _ => ?_) (fun _ => ?_)
    | with_reducible refine (State.sliceFailed_keeps _ _ _ _ _ ).after ?_ (by decide)
    | with_reducible refine (State.setAwl_keeps _ _ ).after ?_ (by decide)
    | with_reducible refine (State.fenceTile_keeps _ _ _ _ ).after ?_ (by decide)
    | with_reducible refine (State.noSpare_keeps _ _ _ _ _ ).after ?_ (by decide)
    | with_reducible refine (State.softEvent_keeps _ _ _ ).after ?_ (by decide) | (lift_lets -underBinder; intros) | split

theorem execSliceEnd_keeps (d) (kind) (r) (found) (s : State) :
    KeepsO 88473549 s (execSliceEnd d kind r found s) := by
  unfold execSliceEnd
  repeat' first
    | with_reducible refine KeepsO.next ?_ | with_reducible refine KeepsO.ite (fun _ => ?_) (fun _ => ?_)
    | with_reducible exact Keeps.refl _ _ | with_reducible refine Keeps.ite (fun _ => ?_) (fun _ => ?_)
    | with_reducible refine (State.softRepair_keeps _ _ _ ).after ?_ (by decide)
    | with_reducible refine (State.sliceFailed_keeps _ _ _ _ _ ).after ?_ (by decide)
    | with_reducible refine (State.attemptResult_keeps _ _ _ _ ).after ?_ (by decide)
    | with_reducible refine (State.excludeSensor_keeps _ _ _ ).after ?_ (by decide)
    | with_reducible refine (State.arrayFails_keeps _ _ _ _ _ ).after ?_ (by decide)
    | with_reducible refine (State.noteSpare_keeps _ _ _ _ _ ).after ?_ (by decide)
    | with_reducible refine (State.addTo_keeps _ _ _ ).after ?_ (by decide)
    | with_reducible refine (State.setPowerDie_keeps _ _ _ ).after ?_ (by decide)
    | with_reducible refine (State.marginRead_keeps _ _ _ _ ).after ?_ (by decide)
    | with_reducible refine (State.laneFails_keeps _ _ _ _ ).after ?_ (by decide)
    | with_reducible refine (State.stopSlice_keeps _ _ _ ).after ?_ (by decide)
    | with_reducible refine (State.logicFails_keeps _ _ _ ).after ?_ (by decide)
    | with_reducible refine (State.marginLow_keeps _ _ ).after ?_ (by decide)
    | with_reducible refine (State.event_keeps _ _ _ _ _ _ ).after ?_ (by decide) | (lift_lets -underBinder; intros) | split

theorem State.runOps_keeps (s : State) (t) (g) (i) (p) (ops) (fn) (ty) (round) (release) (acquire) (reduction) (hint) :
    Keeps 37780293 s (State.runOps s t g i p ops fn ty round release acquire reduction hint) := by
  unfold State.runOps
  repeat' first
    | with_reducible exact Keeps.refl _ _ | with_reducible refine Keeps.ite (fun _ => ?_) (fun _ => ?_)
    | with_reducible refine (State.badOp_keeps _ _ _ _ _ (by assumption)).after ?_ (by decide)
    | with_reducible refine (State.clearSectors_keeps _ _ _ _ _ ).after ?_ (by decide)
    | with_reducible refine (State.releaseAt_keeps _ _ _ _ _ _ _ _ ).after ?_ (by decide)
    | with_reducible refine Keeps.snd (by assumption) ?_ | (lift_lets -underBinder; intros) | split

theorem execReduce_keeps (t) (g) (fn) (ty) (round) (ops) (s : State) :
    KeepsO 121667397 s (execReduce t g fn ty round ops s) := by
  unfold execReduce State.withPath
  repeat' first
    | with_reducible refine KeepsO.next ?_ | with_reducible refine KeepsO.ite (fun _ => ?_) (fun _ => ?_)
    | with_reducible exact Keeps.refl _ _ | with_reducible refine Keeps.ite (fun _ => ?_) (fun _ => ?_)
    | with_reducible refine (State.runOps_keeps _ _ _ _ _ _ _ _ _ _ _ _ _ ).after ?_ (by decide)
    | with_reducible refine (State.stepFault_keeps _ _ _ _ _ _ ).after ?_ (by decide)
    | with_reducible refine (State.fetchPath_keeps _ _ _ ).after ?_ (by decide)
    | with_reducible refine (State.settleGroup_keeps _ _ _ ).after ?_ (by decide)
    | with_reducible refine Keeps.snd (by assumption) ?_ | (lift_lets -underBinder; intros) | dsimp -zeta only | split

theorem State.passDone_keeps (s : State) (p) (d) :
    Keeps 513 s (State.passDone s p d) := by
  unfold State.passDone
  repeat' first
    | with_reducible exact Keeps.refl _ _ | with_reducible refine Keeps.ite (fun _ => ?_) (fun _ => ?_)
    | with_reducible refine (State.eyeCount_keeps _ _ _ ).after ?_ (by decide) | split

theorem execProductPassComplete_keeps (t) (s : State) :
    KeepsO 167772737 s (execProductPassComplete t s) := by
  unfold execProductPassComplete
  repeat' first
    | with_reducible refine KeepsO.next ?_ | with_reducible refine KeepsO.ite (fun _ => ?_) (fun _ => ?_)
    | with_reducible exact Keeps.refl _ _ | with_reducible refine Keeps.ite (fun _ => ?_) (fun _ => ?_)
    | with_reducible refine (State.scratchWrite_keeps _ _ _ _ ).after ?_ (by decide)
    | with_reducible refine (State.passDone_keeps _ _ _ ).after ?_ (by decide)
    | with_reducible refine (State.setBank_keeps _ _ _ _ ).after ?_ (by decide)
    | with_reducible refine (State.setTile_keeps _ _ _ ).after ?_ (by decide)
    | with_reducible refine Keeps.foldl ?_ (fun u1 _ => ?_) | (lift_lets -underBinder; intros) | split

theorem State.suspect_keeps (s : State) (d) (site) :
    Keeps 16384 s (State.suspect s d site) := by
  unfold State.suspect
  repeat' first
    | with_reducible exact Keeps.refl _ _ | with_reducible refine Keeps.ite (fun _ => ?_) (fun _ => ?_)
    | with_reducible refine (State.setFlt_keeps _ _ ).after ?_ (by decide) | (lift_lets -underBinder; intros) | split

theorem execRouterParityError_keeps (d) (site) (s : State) :
    KeepsO 16384 s (execRouterParityError d site s) := by
  unfold execRouterParityError
  repeat' first
    | with_reducible refine KeepsO.next ?_ | with_reducible refine KeepsO.ite (fun _ => ?_) (fun _ => ?_)
    | with_reducible exact Keeps.refl _ _ | with_reducible refine Keeps.ite (fun _ => ?_) (fun _ => ?_)
    | with_reducible refine (State.suspect_keeps _ _ _ ).after ?_ (by decide) | split

theorem State.takeIAck_keeps (s : State) (line) (n) :
    Keeps 88112965 s (State.takeIAck s line n) := by
  unfold State.takeIAck
  repeat' first
    | with_reducible exact Keeps.refl _ _ | with_reducible refine Keeps.ite (fun _ => ?_) (fun _ => ?_)
    | with_reducible refine (State.checkOwed_keeps _ _ ).after ?_ (by decide)
    | with_reducible refine (State.serveHome_keeps _ ).after ?_ (by decide)
    | with_reducible refine (State.discard_keeps _ _ ).after ?_ (by decide) | split

theorem execAtomic_keeps (t) (g) (op) (fn) (ty) (round) (ordering) (scope) (s : State) :
    KeepsO 121667397 s (execAtomic t g op fn ty round ordering scope s) := by
  unfold execAtomic State.withLane
  repeat' first
    | with_reducible refine KeepsO.next ?_ | with_reducible refine KeepsO.ite (fun _ => ?_) (fun _ => ?_)
    | with_reducible exact Keeps.refl _ _ | with_reducible refine Keeps.ite (fun _ => ?_) (fun _ => ?_)
    | with_reducible refine (State.runOps_keeps _ _ _ _ _ _ _ _ _ _ _ _ _ ).after ?_ (by decide)
    | with_reducible refine (State.stepFault_keeps _ _ _ _ _ _ ).after ?_ (by decide)
    | with_reducible refine (State.settleGroup_keeps _ _ _ ).after ?_ (by decide)
    | with_reducible refine (State.fetchLane_keeps _ _ _ _ _ ).after ?_ (by decide)
    | with_reducible refine Keeps.snd (by assumption) ?_ | (lift_lets -underBinder; intros) | dsimp -zeta only | split

theorem State.applySoft_keeps (s : State) (d) (r) :
    Keeps 33669121 s (State.applySoft s d r) := by
  unfold State.applySoft
  repeat' first
    | with_reducible exact Keeps.refl _ _ | with_reducible refine Keeps.ite (fun _ => ?_) (fun _ => ?_)
    | with_reducible refine (State.bump_keeps _ _ _ ).after ?_ (by decide)
    | with_reducible refine (State.setAwl_keeps _ _ ).after ?_ (by decide)
    | with_reducible refine (State.excludeSensor_keeps _ _ _ ).after ?_ (by decide)
    | with_reducible refine (State.setFlt_keeps _ _ ).after ?_ (by decide)
    | with_reducible refine (State.takeSite_keeps _ _ _ ).after ?_ (by decide) | (lift_lets -underBinder; intros) | split

theorem execWeltsTrained_keeps (ok) (s : State) :
    KeepsO 35766275 s (execWeltsTrained ok s) := by
  unfold execWeltsTrained
  repeat' first
    | with_reducible refine KeepsO.next ?_ | with_reducible refine KeepsO.ite (fun _ => ?_) (fun _ => ?_)
    | with_reducible exact Keeps.refl _ _ | with_reducible refine Keeps.ite (fun _ => ?_) (fun _ => ?_)
    | with_reducible refine (State.setPins_keeps _ _ ).after ?_ (by decide)
    | with_reducible refine (State.startFail_keeps _ _ ).after ?_ (by decide)
    | with_reducible refine (State.applySoft_keeps _ _ _ ).after ?_ (by decide)
    | with_reducible refine Keeps.foldl ?_ (fun u1 _ => ?_) | (lift_lets -underBinder; intros) | split
    | with_reducible refine Keeps.setClock ?_ (by decide)

theorem execModuleActive_keeps (k) (s : State) :
    KeepsO 16777217 s (execModuleActive k s) := by
  unfold execModuleActive
  repeat' first
    | with_reducible refine KeepsO.next ?_ | with_reducible refine KeepsO.ite (fun _ => ?_) (fun _ => ?_)
    | with_reducible exact Keeps.refl _ _ | with_reducible refine Keeps.ite (fun _ => ?_) (fun _ => ?_)
    | with_reducible refine (State.draw_keeps _ ).after ?_ (by decide)
    | with_reducible refine (State.addTo_keeps _ _ _ ).after ?_ (by decide)
    | with_reducible refine (State.set_keeps _ _ _ ).after ?_ (by decide)
    | with_reducible refine (State.setModule_keeps _ _ _ ).after ?_ (by decide)
    | with_reducible refine Keeps.snd (by assumption) ?_ | (lift_lets -underBinder; intros) | split

theorem State.runImages_keeps (s : State) :
    Keeps 89751373 s (State.runImages s) := by
  unfold State.runImages
  repeat' first
    | with_reducible exact Keeps.refl _ _ | with_reducible refine Keeps.ite (fun _ => ?_) (fun _ => ?_)
    | with_reducible refine (State.runImage_keeps _ _ ).after ?_ (by decide)
    | with_reducible refine Keeps.foldl ?_ (fun u1 _ => ?_) | split

theorem State.hostData_keeps (s : State) (m) :
    Keeps 4196353 s (State.hostData s m) := by
  unfold State.hostData
  repeat' first
    | with_reducible exact Keeps.refl _ _ | with_reducible refine Keeps.ite (fun _ => ?_) (fun _ => ?_)
    | with_reducible refine (State.hostStale_keeps _ _ ).after ?_ (by decide)
    | with_reducible refine (State.hostGot_keeps _ _ _ ).after ?_ (by decide)
    | with_reducible refine (State.emit_keeps _ _ ).after ?_ (by decide) | split

theorem State.wakeHalf_keeps (s : State) (x) :
    Keeps 121667397 s (State.wakeHalf s x) := by
  unfold State.wakeHalf
  repeat' first
    | with_reducible exact Keeps.refl _ _ | with_reducible refine Keeps.ite (fun _ => ?_) (fun _ => ?_)
    | with_reducible refine (State.runCredits_keeps _ _ _ ).after ?_ (by decide)
    | with_reducible refine (State.runHalfWaits_keeps _ _ _ _ _ ).after ?_ (by decide) | split

theorem State.takeData_keeps (s : State) (m) :
    Keeps 121667397 s (State.takeData s m) := by
  unfold State.takeData
  repeat' first
    | with_reducible exact Keeps.refl _ _ | with_reducible refine Keeps.ite (fun _ => ?_) (fun _ => ?_)
    | with_reducible refine (State.placeL2_keeps _ _ _ (by assumption)).after ?_ (by decide)
    | with_reducible refine (State.wakeHalf_keeps _ _ ).after ?_ (by decide)
    | with_reducible refine (State.closeTx_keeps _ _ ).after ?_ (by decide)
    | with_reducible refine (State.serveData_keeps _ _ _ _ _ ).after ?_ (by decide)
    | with_reducible refine (State.staleResponse_keeps _ _ ).after ?_ (by decide)
    | with_reducible refine (State.bypassL2_keeps _ _ _ _ _ ).after ?_ (by decide)
    | with_reducible refine Keeps.foldl ?_ (fun u1 _ => ?_) | (lift_lets -underBinder; intros) | split

theorem execMdata_keeps (m) (s : State) :
    KeepsO 123305805 s (execMdata m s) := by
  unfold execMdata
  repeat' first
    | with_reducible refine KeepsO.next ?_ | with_reducible refine KeepsO.ite (fun _ => ?_) (fun _ => ?_)
    | with_reducible exact Keeps.refl _ _ | with_reducible refine Keeps.ite (fun _ => ?_) (fun _ => ?_)
    | with_reducible refine (State.arrive_keeps _ _ ).after ?_ (by decide)
    | with_reducible refine (State.runImages_keeps _ ).after ?_ (by decide)
    | with_reducible refine (State.hostData_keeps _ _ ).after ?_ (by decide)
    | with_reducible refine (State.takeData_keeps _ _ ).after ?_ (by decide) | (lift_lets -underBinder; intros) | split

theorem execLaceParentTimeout_keeps (d) (alternateOk) (skewNs) (s : State) :
    KeepsO 4212737 s (execLaceParentTimeout d alternateOk skewNs s) := by
  unfold execLaceParentTimeout
  repeat' first
    | with_reducible refine KeepsO.next ?_ | with_reducible refine KeepsO.ite (fun _ => ?_) (fun _ => ?_)
    | with_reducible exact Keeps.refl _ _ | with_reducible refine Keeps.ite (fun _ => ?_) (fun _ => ?_)
    | with_reducible refine (State.bump_keeps _ _ _ ).after ?_ (by decide)
    | with_reducible refine (State.setAll_keeps _ _ ).after ?_ (by decide)
    | with_reducible refine (State.event_keeps _ _ _ _ _ _ ).after ?_ (by decide) | (lift_lets -underBinder; intros) | split

theorem State.startTask_keeps (s : State) (k) :
    Keeps 8257 s (State.startTask s k) := by
  unfold State.startTask
  repeat' first
    | with_reducible exact Keeps.refl _ _ | with_reducible refine Keeps.ite (fun _ => ?_) (fun _ => ?_)
    | with_reducible refine (State.setTileCode_keeps _ _ _ ).after ?_ (by decide)
    | with_reducible refine (State.addTo_keeps _ _ _ ).after ?_ (by decide)
    | with_reducible refine (State.setPartSt_keeps _ _ _ ).after ?_ (by decide)
    | with_reducible refine (State.setTile_keeps _ _ _ ).after ?_ (by decide)
    | with_reducible refine (State.setTask_keeps _ _ ).after ?_ (by decide)
    | with_reducible refine Keeps.foldl ?_ (fun u1 _ => ?_) | (lift_lets -underBinder; intros) | split

theorem State.restoreRing_keeps (s : State) (p) (k) (h) :
    Keeps 4225861 s (State.restoreRing s p k h) := by
  unfold State.restoreRing
  repeat' first
    | with_reducible exact Keeps.refl _ _ | with_reducible refine Keeps.ite (fun _ => ?_) (fun _ => ?_)
    | with_reducible refine (State.set_keeps _ _ _ ).after ?_ (by decide)
    | with_reducible refine (State.schedWrite_keeps _ _ _ _ _ ).after ?_ (by decide) | (lift_lets -underBinder; intros)
    | split

theorem State.restoreImage_keeps (s : State) (p) :
    Keeps 37780293 s (State.restoreImage s p) := by
  unfold State.restoreImage
  repeat' first
    | with_reducible exact Keeps.refl _ _ | with_reducible refine Keeps.ite (fun _ => ?_) (fun _ => ?_)
    | with_reducible refine (State.scratchWrite_keeps _ _ _ _ ).after ?_ (by decide)
    | with_reducible refine (State.setEye_keeps _ _ _ ).after ?_ (by decide)
    | with_reducible refine (State.restoreRing_keeps _ _ _ _ ).after ?_ (by decide)
    | with_reducible refine Keeps.foldl ?_ (fun u1 _ => ?_) | (lift_lets -underBinder; intros) | split

theorem State.areaFault_keeps (s : State) (p) :
    Keeps 4225861 s (State.areaFault s p) := by
  unfold State.areaFault
  repeat' first
    | with_reducible exact Keeps.refl _ _ | with_reducible refine Keeps.ite (fun _ => ?_) (fun _ => ?_)
    | with_reducible refine (State.memoryFault_keeps _ _ _ ).after ?_ (by decide)
    | with_reducible refine (State.set_keeps _ _ _ ).after ?_ (by decide)
    | with_reducible refine (State.setPhase_keeps _ _ _ ).after ?_ (by decide) | (lift_lets -underBinder; intros) | split

theorem execRestoreDone_keeps (p) (uncorrectable) (s : State) :
    KeepsO 37780293 s (execRestoreDone p uncorrectable s) := by
  unfold execRestoreDone
  repeat' first
    | with_reducible refine KeepsO.next ?_ | with_reducible refine KeepsO.ite (fun _ => ?_) (fun _ => ?_)
    | with_reducible exact Keeps.refl _ _ | with_reducible refine Keeps.ite (fun _ => ?_) (fun _ => ?_)
    | with_reducible refine (State.restoreImage_keeps _ _ ).after ?_ (by decide)
    | with_reducible refine (State.pmRefuse_keeps _ _ _ ).after ?_ (by decide)
    | with_reducible refine (State.areaFault_keeps _ _ ).after ?_ (by decide)
    | with_reducible refine (State.setPhase_keeps _ _ _ ).after ?_ (by decide) | (lift_lets -underBinder; intros) | split

theorem State.releaseThen_keeps (s : State) (t) (g) (p) (scope) (keys) (c) :
    Keeps 37780293 s (State.releaseThen s t g p scope keys c) := by
  unfold State.releaseThen
  repeat' first
    | with_reducible exact Keeps.refl _ _ | with_reducible refine Keeps.ite (fun _ => ?_) (fun _ => ?_)
    | with_reducible refine (State.releaseAt_keeps _ _ _ _ _ _ _ _ ).after ?_ (by decide) | split

theorem execFence_keeps (t) (g) (ordering) (scope) (s : State) :
    KeepsO 121667397 s (execFence t g ordering scope s) := by
  unfold execFence State.withPath
  repeat' first
    | with_reducible refine KeepsO.next ?_ | with_reducible refine KeepsO.ite (fun _ => ?_) (fun _ => ?_)
    | with_reducible exact Keeps.refl _ _ | with_reducible refine Keeps.ite (fun _ => ?_) (fun _ => ?_)
    | with_reducible refine (State.acquire_keeps _ _ _ ).after ?_ (by decide)
    | with_reducible refine (State.stepFault_keeps _ _ _ _ _ _ ).after ?_ (by decide)
    | with_reducible refine (State.releaseThen_keeps _ _ _ _ _ _ _ ).after ?_ (by decide)
    | with_reducible refine (State.fetchPath_keeps _ _ _ ).after ?_ (by decide)
    | with_reducible refine (State.settleGroup_keeps _ _ _ ).after ?_ (by decide)
    | with_reducible refine Keeps.snd (by assumption) ?_ | (lift_lets -underBinder; intros) | dsimp -zeta only | split

theorem State.zeroDevice_keeps (s : State) :
    Keeps 100665088 s (State.zeroDevice s) := by
  unfold State.zeroDevice
  repeat' first
    | with_reducible exact Keeps.refl _ _ | with_reducible refine Keeps.ite (fun _ => ?_) (fun _ => ?_)
    | with_reducible refine (State.dramZero_keeps _ _ _ ).after ?_ (by decide) | (lift_lets -underBinder; intros) | split
    | refine Keeps.setTileSt ?_ (.inr ⟨rfl, rfl, rfl⟩) (.inl (by decide)) (.inr rfl) (by first | exact id | exact mapWf_mapSet _ _ | exact mapWf_filter _ | exact mapWf_mapSetList _ _ | exact mapWf_mapSetMasked _ _ _ | exact mapWf_mapClear _ _ | exact fun _ => rfl)
    | with_reducible refine Keeps.setCoh ?_ (by decide) | with_reducible refine Keeps.setEyelets ?_ (by decide)

theorem execDeadDeclaration_keeps (d) (agent) (s : State) :
    KeepsO 88112965 s (execDeadDeclaration d agent s) := by
  unfold execDeadDeclaration
  repeat' first
    | with_reducible refine KeepsO.next ?_ | with_reducible refine KeepsO.ite (fun _ => ?_) (fun _ => ?_)
    | with_reducible exact Keeps.refl _ _ | with_reducible refine Keeps.ite (fun _ => ?_) (fun _ => ?_)
    | with_reducible refine (State.filterDead_keeps _ _ _ ).after ?_ (by decide)
    | with_reducible refine (State.declareAt_keeps _ _ _ ).after ?_ (by decide) | split

theorem State.fenceWaiting_keeps (s : State) (d) :
    Keeps 4225861 s (State.fenceWaiting s d) := by
  unfold State.fenceWaiting
  repeat' first
    | with_reducible exact Keeps.refl _ _ | with_reducible refine Keeps.ite (fun _ => ?_) (fun _ => ?_)
    | with_reducible refine (State.setFlt_keeps _ _ ).after ?_ (by decide)
    | with_reducible refine (State.fenceTile_keeps _ _ _ _ ).after ?_ (by decide)
    | with_reducible refine (State.isolate_keeps _ _ _ _ ).after ?_ (by decide)
    | with_reducible refine Keeps.foldl ?_ (fun u1 _ => ?_) | with_reducible refine Keeps.foldlSnd ?_ (fun u1 _ => ?_)
    | with_reducible refine Keeps.snd (by assumption) ?_ | (lift_lets -underBinder; intros) | split

theorem State.dropPartition_keeps (s : State) (p) :
    Keeps 4225829 s (State.dropPartition s p) := by
  unfold State.dropPartition
  repeat' first
    | with_reducible exact Keeps.refl _ _ | with_reducible refine Keeps.ite (fun _ => ?_) (fun _ => ?_)
    | with_reducible refine (State.partEvent_keeps _ _ _ ).after ?_ (by decide)
    | with_reducible refine (State.setPartSt_keeps _ _ _ ).after ?_ (by decide)
    | with_reducible refine (State.set_keeps _ _ _ ).after ?_ (by decide)
    | with_reducible refine (State.resetPartFields_keeps _ _ ).after ?_ (by decide)
    | with_reducible refine (State.forgetPart_keeps _ _ ).after ?_ (by decide)
    | with_reducible refine (State.resetEyelets_keeps _ _ ).after ?_ (by decide)
    | with_reducible refine (State.dropOld_keeps _ _ ).after ?_ (by decide)
    | with_reducible refine (State.event_keeps _ _ _ _ _ _ ).after ?_ (by decide) | (lift_lets -underBinder; intros) | split

theorem State.dropDevice_keeps (s : State) :
    Keeps 4324287 s (State.dropDevice s) := by
  unfold State.dropDevice
  repeat' first
    | with_reducible exact Keeps.refl _ _ | with_reducible refine Keeps.ite (fun _ => ?_) (fun _ => ?_)
    | with_reducible refine (State.dropPartition_keeps _ _ ).after ?_ (by decide)
    | with_reducible refine (State.checkForced_keeps _ ).after ?_ (by decide)
    | with_reducible refine (State.bareRepairs_keeps _ ).after ?_ (by decide)
    | with_reducible refine (State.set_keeps _ _ _ ).after ?_ (by decide)
    | with_reducible refine (State.setWeltOwner_keeps _ _ _ _ ).after ?_ (by decide)
    | with_reducible refine (State.setWeltMode_keeps _ _ _ _ ).after ?_ (by decide)
    | with_reducible refine (State.setAll_keeps _ _ ).after ?_ (by decide)
    | with_reducible refine (State.setPower_keeps _ _ ).after ?_ (by decide)
    | with_reducible refine Keeps.foldl ?_ (fun u1 _ => ?_) | (lift_lets -underBinder; intros) | split
    | with_reducible refine Keeps.setDev ?_ (by decide) | with_reducible refine Keeps.setLasts ?_ (by decide)
    | with_reducible refine Keeps.setLdr ?_ (by decide) | with_reducible refine Keeps.setMesh ?_ (by decide)
    | with_reducible refine Keeps.setClock ?_ (by decide)

theorem State.reviveHalves_keeps (s : State) (d) :
    Keeps 1 s (State.reviveHalves s d) := by
  unfold State.reviveHalves
  repeat' first
    | with_reducible exact Keeps.refl _ _ | with_reducible refine Keeps.ite (fun _ => ?_) (fun _ => ?_)
    | with_reducible refine (State.setBitOf_keeps _ _ _ _ ).after ?_ (by decide)
    | with_reducible refine Keeps.foldl ?_ (fun u1 _ => ?_) | split

theorem execDeviceRecoveryDone_keeps (timeMs) (s : State) :
    KeepsO 21101567 s (execDeviceRecoveryDone timeMs s) := by
  unfold execDeviceRecoveryDone
  repeat' first
    | with_reducible refine KeepsO.next ?_ | with_reducible refine KeepsO.ite (fun _ => ?_) (fun _ => ?_)
    | with_reducible exact Keeps.refl _ _ | with_reducible refine Keeps.ite (fun _ => ?_) (fun _ => ?_)
    | with_reducible refine (State.fenceWaiting_keeps _ _ ).after ?_ (by decide)
    | with_reducible refine (State.outOfService_keeps _ ).after ?_ (by decide)
    | with_reducible refine (State.setFlt_keeps _ _ ).after ?_ (by decide)
    | with_reducible refine (State.dropDevice_keeps _ ).after ?_ (by decide)
    | with_reducible refine (State.toPrimary_keeps _ _ ).after ?_ (by decide)
    | with_reducible refine (State.setAll_keeps _ _ ).after ?_ (by decide)
    | with_reducible refine (State.reviveHalves_keeps _ _ ).after ?_ (by decide)
    | with_reducible refine (State.event_keeps _ _ _ _ _ _ ).after ?_ (by decide)
    | with_reducible refine Keeps.foldl ?_ (fun u1 _ => ?_) | (lift_lets -underBinder; intros) | split

theorem State.drainWrites_keeps (s : State) (d ch : Nat) (qs : List AluReq) :
    Keeps 88112965 s (State.drainWrites s d ch qs) := by
  induction qs generalizing s with
  | nil => exact Keeps.refl _ _
  | cons q qs ih =>
    unfold State.drainWrites
    refine Keeps.ite (fun _ => Keeps.ite (fun _ => ?_) fun _ => Keeps.refl _ _) fun _ => ih _
    exact (ih _).after ((State.dramWrite_keeps _ _ _ _).after ((State.setAluQ_keeps _ _).mono (by decide)) (by decide))
      (by decide)

theorem State.aluMem_keeps (s : State) (m) (found) :
    Keeps 88112965 s (State.aluMem s m found) := by
  unfold State.aluMem
  repeat' first
    | with_reducible exact Keeps.refl _ _ | with_reducible refine Keeps.ite (fun _ => ?_) (fun _ => ?_)
    | with_reducible refine (State.dramUnitWrite_keeps _ _ _ _ ).after ?_ (by decide)
    | with_reducible refine (State.memoryFault_keeps _ _ _ ).after ?_ (by decide)
    | with_reducible refine (State.logUe_keeps _ _ _ ).after ?_ (by decide)
    | with_reducible refine (State.applyFoundIn_keeps _ _ _ _ ).after ?_ (by decide)
    | with_reducible refine (State.atRsp_keeps _ _ _ ).after ?_ (by decide)
    | with_reducible refine (State.respond_keeps _ _ _ _ _ ).after ?_ (by decide) | (lift_lets -underBinder; intros) | split

theorem execDramAluOp_keeps (d) (ch) (found) (s : State) :
    KeepsO 88112965 s (execDramAluOp d ch found s) := by
  unfold execDramAluOp
  repeat' first
    | with_reducible refine KeepsO.next ?_ | with_reducible refine KeepsO.ite (fun _ => ?_) (fun _ => ?_)
    | with_reducible exact Keeps.refl _ _ | with_reducible refine Keeps.ite (fun _ => ?_) (fun _ => ?_)
    | with_reducible refine (State.drainWrites_keeps _ _ _ _ ).after ?_ (by decide)
    | with_reducible refine (State.setAluQ_keeps _ _ ).after ?_ (by decide)
    | with_reducible refine (State.aluMem_keeps _ _ _ ).after ?_ (by decide)
    | with_reducible refine (State.serveHome_keeps _ ).after ?_ (by decide) | (lift_lets -underBinder; intros) | split

theorem execAwlFuseGo_keeps (d) (s : State) :
    KeepsO 4212737 s (execAwlFuseGo d s) := by
  unfold execAwlFuseGo
  repeat' first
    | with_reducible refine KeepsO.next ?_ | with_reducible refine KeepsO.ite (fun _ => ?_) (fun _ => ?_)
    | with_reducible exact Keeps.refl _ _ | with_reducible refine Keeps.ite (fun _ => ?_) (fun _ => ?_)
    | with_reducible refine (State.fuseGo_keeps _ _ ).after ?_ (by decide) | split

theorem faultOf_keeps (s : State) (size) (desc) (legal) (ends) :
    Keeps 16777216 s (faultOf s size desc legal ends).2 := by
  unfold faultOf
  repeat' first
    | with_reducible exact Keeps.refl _ _ | with_reducible refine Keeps.ite (fun _ => ?_) (fun _ => ?_)
    | with_reducible refine (State.pick_keeps _ _ _ ).after ?_ (by decide)
    | with_reducible refine Keeps.snd (by assumption) ?_ | (lift_lets -underBinder; intros) | split

theorem execPmFreeze_keeps (p) (v) (s : State) :
    KeepsO 88112965 s (execPmFreeze p v s) := by
  unfold execPmFreeze
  repeat' first
    | with_reducible refine KeepsO.next ?_ | with_reducible refine KeepsO.ite (fun _ => ?_) (fun _ => ?_)
    | with_reducible exact Keeps.refl _ _ | with_reducible refine Keeps.ite (fun _ => ?_) (fun _ => ?_)
    | with_reducible refine (State.pmControl_keeps _ _ _ ).after ?_ (by decide) | split

theorem State.loadCheck_keeps (s : State) (img) :
    Keeps 88112973 s (State.loadCheck s img) := by
  unfold State.loadCheck
  repeat' first
    | with_reducible exact Keeps.refl _ _ | with_reducible refine Keeps.ite (fun _ => ?_) (fun _ => ?_)
    | with_reducible refine (State.endLoad_keeps _ _ _ ).after ?_ (by decide)
    | with_reducible refine (State.set_keeps _ _ _ ).after ?_ (by decide)
    | with_reducible refine (State.loadVerified_keeps _ _ ).after ?_ (by decide) | (lift_lets -underBinder; intros) | split

theorem execTickArrival_keeps (d) (s : State) :
    KeepsO 122814463 s (execTickArrival d s) := by
  unfold execTickArrival
  repeat' first
    | with_reducible refine KeepsO.next ?_ | with_reducible refine KeepsO.ite (fun _ => ?_) (fun _ => ?_)
    | with_reducible exact Keeps.refl _ _ | with_reducible refine Keeps.ite (fun _ => ?_) (fun _ => ?_)
    | with_reducible refine (State.advanceTo_keeps _ _ ).after ?_ (by decide)
    | with_reducible refine (State.arriveAt_keeps _ _ ).after ?_ (by decide) | split

theorem execRegulatorsSequenced_keeps (ok) (s : State) :
    KeepsO 255590399 s (execRegulatorsSequenced ok s) := by
  unfold execRegulatorsSequenced
  repeat' first
    | with_reducible refine KeepsO.next ?_ | with_reducible refine KeepsO.ite (fun _ => ?_) (fun _ => ?_)
    | with_reducible exact Keeps.refl _ _ | with_reducible refine Keeps.ite (fun _ => ?_) (fun _ => ?_)
    | with_reducible refine (State.setPins_keeps _ _ ).after ?_ (by decide)
    | with_reducible refine (State.losePower_keeps _ ).after ?_ (by decide) | (lift_lets -underBinder; intros) | split

theorem State.divergent_keeps (s : State) (t) (g) :
    Keeps 4225861 s (State.divergent s t g) := by
  unfold State.divergent
  repeat' first
    | with_reducible exact Keeps.refl _ _ | with_reducible refine Keeps.ite (fun _ => ?_) (fun _ => ?_)
    | with_reducible refine (State.stepFault_keeps _ _ _ _ _ _ ).after ?_ (by decide) | split

theorem execDirPeek_keeps (d) (v) (s : State) :
    KeepsO 1 s (execDirPeek d v s) := by
  unfold execDirPeek
  repeat' first
    | with_reducible refine KeepsO.next ?_ | with_reducible refine KeepsO.ite (fun _ => ?_) (fun _ => ?_)
    | with_reducible exact Keeps.refl _ _ | with_reducible refine Keeps.ite (fun _ => ?_) (fun _ => ?_)
    | with_reducible refine (State.dirPeek_keeps _ _ _ ).after ?_ (by decide) | split

theorem execRaiseFwFloor_keeps (hostImage) (fetched) (s : State) :
    KeepsO 89751373 s (execRaiseFwFloor hostImage fetched s) := by
  unfold execRaiseFwFloor
  repeat' first
    | with_reducible refine KeepsO.next ?_ | with_reducible refine KeepsO.ite (fun _ => ?_) (fun _ => ?_)
    | with_reducible exact Keeps.refl _ _ | with_reducible refine Keeps.ite (fun _ => ?_) (fun _ => ?_)
    | with_reducible refine (State.lifeCommand_keeps _ _ _ _ ).after ?_ (by decide) | split

theorem execOutPortCntClear_keeps (k) (s : State) :
    KeepsO 1 s (execOutPortCntClear k s) := by
  unfold execOutPortCntClear
  repeat' first
    | with_reducible refine KeepsO.next ?_ | with_reducible refine KeepsO.ite (fun _ => ?_) (fun _ => ?_)
    | with_reducible exact Keeps.refl _ _ | with_reducible refine Keeps.ite (fun _ => ?_) (fun _ => ?_)
    | with_reducible refine (State.clearPort_keeps _ _ _ ).after ?_ (by decide) | split

theorem execBlockConvert_keeps (t) (g) (src) (dst) (xs) (srcScale) (round) (s : State) :
    KeepsO 88112965 s (execBlockConvert t g src dst xs srcScale round s) := by
  unfold execBlockConvert State.withPath
  repeat' first
    | with_reducible refine KeepsO.next ?_ | with_reducible refine KeepsO.ite (fun _ => ?_) (fun _ => ?_)
    | with_reducible exact Keeps.refl _ _ | with_reducible refine Keeps.ite (fun _ => ?_) (fun _ => ?_)
    | with_reducible refine (State.setGroup_keeps _ _ _ _ ).after ?_ (by decide)
    | with_reducible refine (State.laneFlags_keeps _ _ _ _ ).after ?_ (by decide)
    | with_reducible refine (State.stepFault_keeps _ _ _ _ _ _ ).after ?_ (by decide)
    | with_reducible refine (State.fetchPath_keeps _ _ _ ).after ?_ (by decide)
    | with_reducible refine (State.settleGroup_keeps _ _ _ ).after ?_ (by decide)
    | with_reducible refine Keeps.snd (by assumption) ?_ | (lift_lets -underBinder; intros) | dsimp -zeta only | split

theorem execWatchdog_keeps (s : State) :
    KeepsO 88178509 s (execWatchdog s) := by
  unfold execWatchdog
  repeat' first
    | with_reducible refine KeepsO.next ?_ | with_reducible refine KeepsO.ite (fun _ => ?_) (fun _ => ?_)
    | with_reducible exact Keeps.refl _ _ | with_reducible refine Keeps.ite (fun _ => ?_) (fun _ => ?_)
    | with_reducible refine (State.startDeviceRecovery_keeps _ _ ).after ?_ (by decide) | split

theorem State.ranStep_keeps (s : State) (k) :
    Keeps 32768 s (State.ranStep s k) := by
  unfold State.ranStep
  repeat' first
    | with_reducible exact Keeps.refl _ _ | with_reducible refine Keeps.ite (fun _ => ?_) (fun _ => ?_)
    | with_reducible refine (State.setPowerDie_keeps _ _ _ ).after ?_ (by decide)
    | with_reducible refine Keeps.foldl ?_ (fun u1 _ => ?_) | (lift_lets -underBinder; intros) | split

theorem execPartAccClear_keeps (n) (s : State) :
    KeepsO 1 s (execPartAccClear n s) := by
  unfold execPartAccClear
  repeat' first
    | with_reducible refine KeepsO.next ?_ | with_reducible refine KeepsO.ite (fun _ => ?_) (fun _ => ?_)
    | with_reducible exact Keeps.refl _ _ | with_reducible refine Keeps.ite (fun _ => ?_) (fun _ => ?_)
    | with_reducible refine (State.clearAcc_keeps _ _ ).after ?_ (by decide) | split

theorem execDramSensorSample_keeps (d) (readings) (s : State) :
    KeepsO 4213761 s (execDramSensorSample d readings s) := by
  unfold execDramSensorSample
  repeat' first
    | with_reducible refine KeepsO.next ?_ | with_reducible refine KeepsO.ite (fun _ => ?_) (fun _ => ?_)
    | with_reducible exact Keeps.refl _ _ | with_reducible refine Keeps.ite (fun _ => ?_) (fun _ => ?_)
    | with_reducible refine (State.bump_keeps _ _ _ ).after ?_ (by decide)
    | with_reducible refine (State.set_keeps _ _ _ ).after ?_ (by decide)
    | with_reducible refine (State.setAll_keeps _ _ ).after ?_ (by decide)
    | with_reducible refine (State.event_keeps _ _ _ _ _ _ ).after ?_ (by decide)
    | with_reducible refine Keeps.foldl ?_ (fun u1 _ => ?_) | (lift_lets -underBinder; intros) | split
    | refine Keeps.setDramSt ?_ (.inl (by decide)) (.inr rfl) (by first | exact id | exact mapWf_mapSet _ _ | exact mapWf_filter _ | exact mapWf_mapSetList _ _ | exact mapWf_mapSetMasked _ _ _ | exact mapWf_mapClear _ _ | exact fun _ => rfl)

theorem execRouteLossNotice_keeps (s : State) :
    KeepsO 257 s (execRouteLossNotice s) := by
  unfold execRouteLossNotice
  repeat' first
    | with_reducible refine KeepsO.next ?_ | with_reducible refine KeepsO.ite (fun _ => ?_) (fun _ => ?_)
    | with_reducible exact Keeps.refl _ _ | with_reducible refine Keeps.ite (fun _ => ?_) (fun _ => ?_)
    | with_reducible refine (State.addTo_keeps _ _ _ ).after ?_ (by decide)
    | with_reducible refine (State.sendInv_keeps _ _ _ _ ).after ?_ (by decide)
    | with_reducible refine (State.sendBack_keeps _ _ _ _ _ ).after ?_ (by decide)
    | with_reducible refine (State.send_keeps _ _ ).after ?_ (by decide)
    | with_reducible refine (State.filterInv_keeps _ _ _ ).after ?_ (by decide)
    | with_reducible refine Keeps.foldl ?_ (fun u1 _ => ?_) | (lift_lets -underBinder; intros) | split
    | with_reducible refine Keeps.setCoh ?_ (by decide)

theorem State.releaseTask_keeps (s : State) (k) (d) (n) :
    Keeps 16777281 s (State.releaseTask s k d n) := by
  unfold State.releaseTask
  repeat' first
    | with_reducible exact Keeps.refl _ _ | with_reducible refine Keeps.ite (fun _ => ?_) (fun _ => ?_)
    | with_reducible refine (State.setTile_keeps _ _ _ ).after ?_ (by decide)
    | with_reducible refine (State.releaseBars_keeps _ _ _ _ ).after ?_ (by decide)
    | with_reducible refine (State.countBarrier_keeps _ _ ).after ?_ (by decide)
    | with_reducible refine Keeps.foldl ?_ (fun u1 _ => ?_) | (lift_lets -underBinder; intros) | split

theorem execAck_keeps (k) (x) (s : State) :
    KeepsO 4198465 s (execAck k x s) := by
  unfold execAck State.packet
  repeat' first
    | with_reducible refine KeepsO.next ?_ | with_reducible refine KeepsO.ite (fun _ => ?_) (fun _ => ?_)
    | with_reducible exact Keeps.refl _ _ | with_reducible refine Keeps.ite (fun _ => ?_) (fun _ => ?_)
    | with_reducible refine (State.qpAcked_keeps _ _ _ _ ).after ?_ (by decide)
    | with_reducible refine (State.rxCount_keeps _ _ ).after ?_ (by decide)
    | with_reducible refine (State.rxDrop_keeps _ _ ).after ?_ (by decide)
    | with_reducible refine (State.rxStale_keeps _ _ ).after ?_ (by decide)
    | with_reducible refine (State.congestion_keeps _ _ _ _ ).after ?_ (by decide) | dsimp -zeta only | split

theorem State.goBack_keeps (s : State) (p) (q) :
    Keeps 4198401 s (State.goBack s p q) := by
  unfold State.goBack
  repeat' first
    | with_reducible exact Keeps.refl _ _ | with_reducible refine Keeps.ite (fun _ => ?_) (fun _ => ?_)
    | with_reducible refine (State.qpResend_keeps _ _ _ _ ).after ?_ (by decide) | (lift_lets -underBinder; intros) | split

theorem execCxlBirsp_keeps (h) (kept) (s : State) :
    KeepsO 2305 s (execCxlBirsp h kept s) := by
  unfold execCxlBirsp State.fromHost
  repeat' first
    | with_reducible refine KeepsO.next ?_ | with_reducible refine KeepsO.ite (fun _ => ?_) (fun _ => ?_)
    | with_reducible exact Keeps.refl _ _ | with_reducible refine Keeps.ite (fun _ => ?_) (fun _ => ?_)
    | with_reducible refine (State.send_keeps _ _ ).after ?_ (by decide)
    | with_reducible refine (State.unsupported_keeps _ ).after ?_ (by decide) | (lift_lets -underBinder; intros)
    | dsimp -zeta only | split

theorem execEvTailWrite_keeps (v) (s : State) :
    KeepsO 1 s (execEvTailWrite v s) := by
  unfold execEvTailWrite
  repeat' first
    | with_reducible refine KeepsO.next ?_ | with_reducible refine KeepsO.ite (fun _ => ?_) (fun _ => ?_)
    | with_reducible exact Keeps.refl _ _ | with_reducible refine Keeps.ite (fun _ => ?_) (fun _ => ?_)
    | with_reducible refine (State.evTail_keeps _ _ ).after ?_ (by decide) | split

theorem execRearm_keeps (s : State) :
    KeepsO 3 s (execRearm s) := by
  unfold execRearm
  repeat' first
    | with_reducible refine KeepsO.next ?_ | with_reducible refine KeepsO.ite (fun _ => ?_) (fun _ => ?_)
    | with_reducible exact Keeps.refl _ _ | with_reducible refine Keeps.ite (fun _ => ?_) (fun _ => ?_)
    | with_reducible refine (State.rearm_keeps _ ).after ?_ (by decide) | split

theorem State.scheduleLate_keeps (s : State) (p : Nat) : Keeps 88112965 s (State.scheduleLate s p) := by
  unfold State.scheduleLate
  refine Keeps.ite (fun _ => Keeps.refl _ _) fun _ => ?_
  split
  · exact Keeps.refl _ _
  · next l _ =>
    have h := (State.scanRings_st s l p).mono (m := 88112965) (by decide)
    refine Keeps.ite (fun _ => h) fun _ => ?_
    exact (State.placeScan_keeps _ _ _).after h (by decide)

theorem State.filterIAck_keeps (s : State) (line) (n) :
    Keeps 21003077 s (State.filterIAck s line n) := by
  unfold State.filterIAck
  repeat' first
    | with_reducible exact Keeps.refl _ _ | with_reducible refine Keeps.ite (fun _ => ?_) (fun _ => ?_)
    | with_reducible refine (State.filterDone_keeps _ _ ).after ?_ (by decide)
    | with_reducible refine (State.addTo_keeps _ _ _ ).after ?_ (by decide)
    | with_reducible refine (State.putFilter_keeps _ _ ).after ?_ (by decide)
    | with_reducible refine (State.serveFilter_keeps _ ).after ?_ (by decide) | (lift_lets -underBinder; intros) | split

theorem execIack_keeps (m) (s : State) :
    KeepsO 88112965 s (execIack m s) := by
  unfold execIack
  repeat' first
    | with_reducible refine KeepsO.next ?_ | with_reducible refine KeepsO.ite (fun _ => ?_) (fun _ => ?_)
    | with_reducible exact Keeps.refl _ _ | with_reducible refine Keeps.ite (fun _ => ?_) (fun _ => ?_)
    | with_reducible refine (State.filterIAck_keeps _ _ _ ).after ?_ (by decide)
    | with_reducible refine (State.arrive_keeps _ _ ).after ?_ (by decide)
    | with_reducible refine (State.takeIAck_keeps _ _ _ ).after ?_ (by decide) | (lift_lets -underBinder; intros) | split

theorem State.memberDown_keeps (s : State) (p) (j) (m) (stitch) (f) :
    Keeps 4217409 s (State.memberDown s p j m stitch f) := by
  unfold State.memberDown
  repeat' first
    | with_reducible exact Keeps.refl _ _ | with_reducible refine Keeps.ite (fun _ => ?_) (fun _ => ?_)
    | with_reducible refine (State.qpError_keeps _ _ _ _ ).after ?_ (by decide)
    | with_reducible refine (State.jobFailure_keeps _ _ _ _ ).after ?_ (by decide)
    | with_reducible refine (State.set_keeps _ _ _ ).after ?_ (by decide)
    | with_reducible refine (State.setJob_keeps _ _ ).after ?_ (by decide)
    | with_reducible refine (State.laceUp_keeps _ _ ).after ?_ (by decide)
    | with_reducible refine Keeps.foldl ?_ (fun u1 _ => ?_) | (lift_lets -underBinder; intros) | split

theorem execLostTailWrite_keeps (d) (v) (s : State) :
    KeepsO 1 s (execLostTailWrite d v s) := by
  unfold execLostTailWrite
  repeat' first
    | with_reducible refine KeepsO.next ?_ | with_reducible refine KeepsO.ite (fun _ => ?_) (fun _ => ?_)
    | with_reducible exact Keeps.refl _ _ | with_reducible refine Keeps.ite (fun _ => ?_) (fun _ => ?_)
    | with_reducible refine (State.consume_keeps _ _ _ _ _ _ ).after ?_ (by decide) | split

theorem execPreemptionVerify_keeps (k) (ok) (s : State) :
    KeepsO 1 s (execPreemptionVerify k ok s) := by
  unfold execPreemptionVerify
  repeat' first
    | with_reducible refine KeepsO.next ?_ | with_reducible refine KeepsO.ite (fun _ => ?_) (fun _ => ?_)
    | with_reducible exact Keeps.refl _ _ | with_reducible refine Keeps.ite (fun _ => ?_) (fun _ => ?_)
    | with_reducible refine (State.set_keeps _ _ _ ).after ?_ (by decide) | split

theorem execSpillHostData_keeps (hpa) (bytes) (poison) (s : State) :
    KeepsO 21003077 s (execSpillHostData hpa bytes poison s) := by
  unfold execSpillHostData
  repeat' first
    | with_reducible refine KeepsO.next ?_ | with_reducible refine KeepsO.ite (fun _ => ?_) (fun _ => ?_)
    | with_reducible exact Keeps.refl _ _ | with_reducible refine Keeps.ite (fun _ => ?_) (fun _ => ?_)
    | with_reducible refine (State.filterRespond_keeps _ _ _ _ ).after ?_ (by decide)
    | with_reducible refine (State.spillFault_keeps _ _ ).after ?_ (by decide)
    | with_reducible refine (State.putFilter_keeps _ _ ).after ?_ (by decide)
    | with_reducible refine (State.serveFilter_keeps _ ).after ?_ (by decide)
    | with_reducible refine (State.setHostReqs_keeps _ _ ).after ?_ (by decide)
    | with_reducible refine (State.filterInv_keeps _ _ _ ).after ?_ (by decide) | (lift_lets -underBinder; intros) | split

theorem State.storeLane_keeps (s : State) (t) (g) (lane) (scratch) (a) (data) :
    Keeps 88112965 s (State.storeLane s t g lane scratch a data) := by
  unfold State.storeLane State.withLane
  repeat' first
    | with_reducible exact Keeps.refl _ _ | with_reducible refine Keeps.ite (fun _ => ?_) (fun _ => ?_)
    | with_reducible refine (State.setGroup_keeps _ _ _ _ ).after ?_ (by decide)
    | with_reducible refine (State.stepFault_keeps _ _ _ _ _ _ ).after ?_ (by decide)
    | with_reducible refine (State.settleGroup_keeps _ _ _ ).after ?_ (by decide)
    | with_reducible refine (State.fetchLane_keeps _ _ _ _ _ ).after ?_ (by decide)
    | with_reducible refine Keeps.foldl ?_ (fun u1 _ => ?_) | with_reducible refine Keeps.foldlSnd ?_ (fun u1 _ => ?_)
    | with_reducible refine Keeps.snd (by assumption) ?_ | (lift_lets -underBinder; intros) | dsimp -zeta only | split

theorem execLaneStore_keeps (t) (g) (lane) (loc) (data) (s : State) :
    KeepsO 88112965 s (execLaneStore t g lane loc data s) := by
  unfold execLaneStore
  repeat' first
    | with_reducible refine KeepsO.next ?_ | with_reducible refine KeepsO.ite (fun _ => ?_) (fun _ => ?_)
    | with_reducible exact Keeps.refl _ _ | with_reducible refine Keeps.ite (fun _ => ?_) (fun _ => ?_)
    | with_reducible refine (State.storeLane_keeps _ _ _ _ _ _ _ ).after ?_ (by decide) | split

theorem State.takeMember_keeps (s : State) (p) (j) (m) (inc) :
    Keeps 4097 s (State.takeMember s p j m inc) := by
  unfold State.takeMember
  repeat' first
    | with_reducible exact Keeps.refl _ _ | with_reducible refine Keeps.ite (fun _ => ?_) (fun _ => ?_)
    | with_reducible refine (State.setJob_keeps _ _ ).after ?_ (by decide)
    | with_reducible refine (State.setQp_keeps _ _ _ _ ).after ?_ (by decide)
    | with_reducible refine (State.setAll_keeps _ _ ).after ?_ (by decide)
    | with_reducible refine Keeps.foldl ?_ (fun u1 _ => ?_) | (lift_lets -underBinder; intros) | split

theorem execDieRecoveryTimeout_keeps (s : State) :
    KeepsO 88178509 s (execDieRecoveryTimeout s) := by
  unfold execDieRecoveryTimeout
  repeat' first
    | with_reducible refine KeepsO.next ?_ | with_reducible refine KeepsO.ite (fun _ => ?_) (fun _ => ?_)
    | with_reducible exact Keeps.refl _ _ | with_reducible refine Keeps.ite (fun _ => ?_) (fun _ => ?_)
    | with_reducible refine (State.startDeviceRecovery_keeps _ _ ).after ?_ (by decide) | (lift_lets -underBinder; intros)
    | split

theorem execBudgetRequest_keeps (d) (s : State) :
    KeepsO 32769 s (execBudgetRequest d s) := by
  unfold execBudgetRequest
  repeat' first
    | with_reducible refine KeepsO.next ?_ | with_reducible refine KeepsO.ite (fun _ => ?_) (fun _ => ?_)
    | with_reducible exact Keeps.refl _ _ | with_reducible refine Keeps.ite (fun _ => ?_) (fun _ => ?_)
    | with_reducible refine (State.setPowerDie_keeps _ _ _ ).after ?_ (by decide)
    | with_reducible refine (State.set_keeps _ _ _ ).after ?_ (by decide) | (lift_lets -underBinder; intros) | split

theorem execCreditTimeout_keeps (d) (site) (a2) (s : State) :
    KeepsO 16384 s (execCreditTimeout d site a2 s) := by
  unfold execCreditTimeout
  repeat' first
    | with_reducible refine KeepsO.next ?_ | with_reducible refine KeepsO.ite (fun _ => ?_) (fun _ => ?_)
    | with_reducible exact Keeps.refl _ _ | with_reducible refine Keeps.ite (fun _ => ?_) (fun _ => ?_)
    | with_reducible refine (State.suspect_keeps _ _ _ ).after ?_ (by decide) | split

theorem execLabelPeek_keeps (v) (s : State) :
    KeepsO 1 s (execLabelPeek v s) := by
  unfold execLabelPeek
  repeat' first
    | with_reducible refine KeepsO.next ?_ | with_reducible refine KeepsO.ite (fun _ => ?_) (fun _ => ?_)
    | with_reducible exact Keeps.refl _ _ | with_reducible refine Keeps.ite (fun _ => ?_) (fun _ => ?_)
    | with_reducible refine (State.labelPeek_keeps _ _ ).after ?_ (by decide) | split

theorem State.takeErr_keeps (s : State) (m) :
    Keeps 122715973 s (State.takeErr s m) := by
  unfold State.takeErr
  repeat' first
    | with_reducible exact Keeps.refl _ _ | with_reducible refine Keeps.ite (fun _ => ?_) (fun _ => ?_)
    | with_reducible refine (State.wakeHalf_keeps _ _ ).after ?_ (by decide)
    | with_reducible refine (State.serveErr_keeps _ _ ).after ?_ (by decide)
    | with_reducible refine (State.closeTx_keeps _ _ ).after ?_ (by decide)
    | with_reducible refine (State.staleResponse_keeps _ _ ).after ?_ (by decide)
    | with_reducible refine Keeps.foldl ?_ (fun u1 _ => ?_) | split

theorem execHostIdRead_keeps (code) (stepping) (timeMs) (s : State) :
    KeepsO 2097155 s (execHostIdRead code stepping timeMs s) := by
  unfold execHostIdRead
  repeat' first
    | with_reducible refine KeepsO.next ?_ | with_reducible refine KeepsO.ite (fun _ => ?_) (fun _ => ?_)
    | with_reducible exact Keeps.refl _ _ | with_reducible refine Keeps.ite (fun _ => ?_) (fun _ => ?_)
    | with_reducible refine (State.advanceTo_keeps _ _ ).after ?_ (by decide)
    | with_reducible refine (State.setPins_keeps _ _ ).after ?_ (by decide)
    | with_reducible refine (State.set_keeps _ _ _ ).after ?_ (by decide)
    | with_reducible refine (State.startFail_keeps _ _ ).after ?_ (by decide)
    | with_reducible refine (State.setAll_keeps _ _ ).after ?_ (by decide) | (lift_lets -underBinder; intros) | split

theorem State.holdRx_keeps (s : State) (p) (q) (r) :
    Keeps 4225861 s (State.holdRx s p q r) := by
  unfold State.holdRx
  repeat' first
    | with_reducible exact Keeps.refl _ _ | with_reducible refine Keeps.ite (fun _ => ?_) (fun _ => ?_)
    | with_reducible refine (State.setQp_keeps _ _ _ _ ).after ?_ (by decide)
    | with_reducible refine (State.rxDone_keeps _ _ _ _ ).after ?_ (by decide) | (lift_lets -underBinder; intros) | split

theorem State.writePacket_keeps (s : State) (p) (q) (c) (x) :
    Keeps 4225861 s (State.writePacket s p q c x) := by
  unfold State.writePacket
  repeat' first
    | with_reducible exact Keeps.refl _ _ | with_reducible refine Keeps.ite (fun _ => ?_) (fun _ => ?_)
    | with_reducible refine (State.nakAccess_keeps _ _ _ _ ).after ?_ (by decide)
    | with_reducible refine (State.holdRx_keeps _ _ _ _ ).after ?_ (by decide)
    | with_reducible refine (State.takePsn_keeps _ _ _ _ ).after ?_ (by decide)
    | with_reducible refine (State.portWrite_keeps _ _ _ _ _ _ ).after ?_ (by decide)
    | with_reducible refine (State.rnr_keeps _ _ _ _ _ ).after ?_ (by decide)
    | with_reducible refine (State.setQp_keeps _ _ _ _ ).after ?_ (by decide)
    | with_reducible refine (State.nakInvalid_keeps _ _ _ _ ).after ?_ (by decide)
    | with_reducible refine (State.checkPause_keeps _ _ ).after ?_ (by decide)
    | with_reducible refine Keeps.snd (by assumption) ?_ | (lift_lets -underBinder; intros) | split

theorem State.checkBarriers_keeps (s : State) (t) :
    Keeps 21003077 s (State.checkBarriers s t) := by
  unfold State.checkBarriers
  repeat' first
    | with_reducible assumption | with_reducible exact Keeps.refl _ _
    | with_reducible refine Keeps.ite (fun _ => ?_) (fun _ => ?_)
    | with_reducible refine (State.divergent_keeps _ _ _ ).after ?_ (by decide)
    | with_reducible refine (State.tileBarrier_keeps _ _ ).after ?_ (by decide)
    | with_reducible refine (State.setTile_keeps _ _ _ ).after ?_ (by decide)
    | with_reducible refine (State.groupBarriers_keeps _ _ ).after ?_ (by decide)
    | (lift_lets -underBinder
       repeat (
        intro x
        first
          | (have hx : Keeps 21003077 s x := by
              repeat' first
                | with_reducible assumption | with_reducible exact Keeps.refl _ _
                | with_reducible refine Keeps.ite (fun _ => ?_) (fun _ => ?_)
                | with_reducible refine (State.divergent_keeps _ _ _ ).after ?_ (by decide)
                | with_reducible refine (State.tileBarrier_keeps _ _ ).after ?_ (by decide)
                | with_reducible refine (State.setTile_keeps _ _ _ ).after ?_ (by decide)
                | with_reducible refine (State.groupBarriers_keeps _ _ ).after ?_ (by decide) | split)
          | (clear_value x)
          | skip))
    | split

theorem execExit_keeps (t) (g) (lanes) (s : State) :
    KeepsO 88112965 s (execExit t g lanes s) := by
  unfold execExit State.withPath
  repeat' first
    | with_reducible refine KeepsO.next ?_ | with_reducible refine KeepsO.ite (fun _ => ?_) (fun _ => ?_)
    | with_reducible exact Keeps.refl _ _ | with_reducible refine Keeps.ite (fun _ => ?_) (fun _ => ?_)
    | with_reducible refine (State.setGroup_keeps _ _ _ _ ).after ?_ (by decide)
    | with_reducible refine (State.settleGroup_keeps _ _ _ ).after ?_ (by decide)
    | with_reducible refine (State.checkBarriers_keeps _ _ ).after ?_ (by decide)
    | with_reducible refine (State.fetchPath_keeps _ _ _ ).after ?_ (by decide)
    | with_reducible refine Keeps.snd (by assumption) ?_ | (lift_lets -underBinder; intros) | dsimp -zeta only | split

theorem execDramInitialised_keeps (ok) (timeMs) (s : State) :
    KeepsO 2361347 s (execDramInitialised ok timeMs s) := by
  unfold execDramInitialised
  repeat' first
    | with_reducible refine KeepsO.next ?_ | with_reducible refine KeepsO.ite (fun _ => ?_) (fun _ => ?_)
    | with_reducible exact Keeps.refl _ _ | with_reducible refine Keeps.ite (fun _ => ?_) (fun _ => ?_)
    | with_reducible refine (State.advanceTo_keeps _ _ ).after ?_ (by decide)
    | with_reducible refine (State.setPins_keeps _ _ ).after ?_ (by decide)
    | with_reducible refine (State.trainAll_keeps _ ).after ?_ (by decide)
    | with_reducible refine (State.set_keeps _ _ _ ).after ?_ (by decide)
    | with_reducible refine (State.startFail_keeps _ _ ).after ?_ (by decide)
    | with_reducible refine (State.showPpr_keeps _ _ ).after ?_ (by decide)
    | with_reducible refine (State.repairCandidate_keeps _ _ ).after ?_ (by decide)
    | with_reducible refine Keeps.foldl ?_ (fun u1 _ => ?_) | (lift_lets -underBinder; intros) | split

theorem execLaneRetire_keeps (d) (edge) (g) (durationUs) (s : State) :
    KeepsO 21055489 s (execLaneRetire d edge g durationUs s) := by
  unfold execLaneRetire
  repeat' first
    | with_reducible refine KeepsO.next ?_ | with_reducible refine KeepsO.ite (fun _ => ?_) (fun _ => ?_)
    | with_reducible exact Keeps.refl _ _ | with_reducible refine Keeps.ite (fun _ => ?_) (fun _ => ?_)
    | with_reducible refine (State.bump_keeps _ _ _ ).after ?_ (by decide)
    | with_reducible refine (State.draw_keeps _ ).after ?_ (by decide)
    | with_reducible refine (State.setAwl_keeps _ _ ).after ?_ (by decide)
    | with_reducible refine (State.addTo_keeps _ _ _ ).after ?_ (by decide)
    | with_reducible refine (State.setAll_keeps _ _ ).after ?_ (by decide)
    | with_reducible refine (State.event_keeps _ _ _ _ _ _ ).after ?_ (by decide)
    | with_reducible refine Keeps.snd (by assumption) ?_ | (lift_lets -underBinder; intros) | split

theorem State.pinFill_keeps (s : State) (l) :
    Keeps 257 s (State.pinFill s l) := by
  unfold State.pinFill
  repeat' first
    | with_reducible exact Keeps.refl _ _ | with_reducible refine Keeps.ite (fun _ => ?_) (fun _ => ?_)
    | with_reducible refine (State.track_keeps _ _ _ _ ).after ?_ (by decide) | split

theorem State.pinLine_keeps (s : State) (p) (pa) :
    Keeps 88112965 s (State.pinLine s p pa).2 := by
  unfold State.pinLine
  repeat' first
    | with_reducible exact Keeps.refl _ _ | with_reducible refine Keeps.ite (fun _ => ?_) (fun _ => ?_)
    | with_reducible refine (State.unmapped_keeps _ _ _ _ ).after ?_ (by decide)
    | with_reducible refine (State.bump_keeps _ _ _ ).after ?_ (by decide)
    | with_reducible refine (State.evictL3_keeps _ _ ).after ?_ (by decide)
    | with_reducible refine (State.pinFill_keeps _ _ ).after ?_ (by decide)
    | with_reducible refine (State.setL3_keeps _ _ ).after ?_ (by decide)
    | with_reducible refine (State.putL3_keeps _ _ ).after ?_ (by decide)
    | with_reducible refine (State.placeL3_keeps _ _ _ (by assumption)).after ?_ (by decide)
    | with_reducible refine (State.missLine_keeps _ _ _ _ ).after ?_ (by decide) | (lift_lets -underBinder; intros) | split

theorem execRelease_keeps (hostImage) (fetched) (s : State) :
    KeepsO 89751373 s (execRelease hostImage fetched s) := by
  unfold execRelease
  repeat' first
    | with_reducible refine KeepsO.next ?_ | with_reducible refine KeepsO.ite (fun _ => ?_) (fun _ => ?_)
    | with_reducible exact Keeps.refl _ _ | with_reducible refine Keeps.ite (fun _ => ?_) (fun _ => ?_)
    | with_reducible refine (State.lifeCommand_keeps _ _ _ _ ).after ?_ (by decide) | split

theorem State.doeFails_keeps (s : State) :
    Keeps 2048 s (State.doeFails s) := by
  unfold State.doeFails
  repeat' first
    | with_reducible exact Keeps.refl _ _ | with_reducible refine Keeps.ite (fun _ => ?_) (fun _ => ?_)
    | with_reducible refine (State.setUci_keeps _ _ ).after ?_ (by decide) | (lift_lets -underBinder; intros) | split

theorem execCdatRead_keeps (handle) (s : State) :
    KeepsO 4196352 s (execCdatRead handle s) := by
  unfold execCdatRead State.doe
  repeat' first
    | with_reducible refine KeepsO.next ?_ | with_reducible refine KeepsO.ite (fun _ => ?_) (fun _ => ?_)
    | with_reducible exact Keeps.refl _ _ | with_reducible refine Keeps.ite (fun _ => ?_) (fun _ => ?_)
    | with_reducible refine (State.doeReply_keeps _ _ ).after ?_ (by decide)
    | with_reducible refine (State.doeFails_keeps _ ).after ?_ (by decide) | dsimp -zeta only | split

theorem execGetDigests_keeps (s : State) :
    KeepsO 4196352 s (execGetDigests s) := by
  unfold execGetDigests State.spdm State.doe
  repeat' first
    | with_reducible refine KeepsO.next ?_ | with_reducible refine KeepsO.ite (fun _ => ?_) (fun _ => ?_)
    | with_reducible exact Keeps.refl _ _ | with_reducible refine Keeps.ite (fun _ => ?_) (fun _ => ?_)
    | with_reducible refine (State.doeReply_keeps _ _ ).after ?_ (by decide)
    | with_reducible refine (State.spdmError_keeps _ _ ).after ?_ (by decide) | dsimp -zeta only | split

theorem State.startSave_keeps (s : State) (p) :
    Keeps 21003077 s (State.startSave s p) := by
  unfold State.startSave
  repeat' first
    | with_reducible exact Keeps.refl _ _ | with_reducible refine Keeps.ite (fun _ => ?_) (fun _ => ?_)
    | with_reducible refine (State.draw_keeps _ ).after ?_ (by decide)
    | with_reducible refine (State.setPartSt_keeps _ _ _ ).after ?_ (by decide)
    | with_reducible refine (State.schedWrite_keeps _ _ _ _ _ ).after ?_ (by decide)
    | with_reducible refine Keeps.foldl ?_ (fun u1 _ => ?_) | with_reducible refine Keeps.foldlSnd ?_ (fun u1 _ => ?_)
    | with_reducible refine Keeps.snd (by assumption) ?_ | (lift_lets -underBinder; intros) | split

theorem execIssuePoint_keeps (s : State) :
    KeepsO 88145735 s (execIssuePoint s) := by
  unfold execIssuePoint
  repeat' first
    | with_reducible refine KeepsO.next ?_ | with_reducible refine KeepsO.ite (fun _ => ?_) (fun _ => ?_)
    | with_reducible exact Keeps.refl _ _ | with_reducible refine Keeps.ite (fun _ => ?_) (fun _ => ?_)
    | with_reducible refine (State.advanceTo_keeps _ _ ).after ?_ (by decide)
    | with_reducible refine (State.scheduleLate_keeps _ _ ).after ?_ (by decide)
    | with_reducible refine (State.startSave_keeps _ _ ).after ?_ (by decide)
    | with_reducible refine (State.ranStep_keeps _ _ ).after ?_ (by decide)
    | with_reducible refine (State.startTask_keeps _ _ ).after ?_ (by decide)
    | with_reducible refine Keeps.foldl ?_ (fun u1 _ => ?_) | (lift_lets -underBinder; intros) | split
    | with_reducible refine Keeps.setClock ?_ (by decide)

theorem execVrAlertRelease_keeps (s : State) :
    KeepsO 4311041 s (execVrAlertRelease s) := by
  unfold execVrAlertRelease
  repeat' first
    | with_reducible refine KeepsO.next ?_ | with_reducible refine KeepsO.ite (fun _ => ?_) (fun _ => ?_)
    | with_reducible exact Keeps.refl _ _ | with_reducible refine Keeps.ite (fun _ => ?_) (fun _ => ?_)
    | with_reducible refine (State.checkForced_keeps _ ).after ?_ (by decide)
    | with_reducible refine (State.set_keeps _ _ _ ).after ?_ (by decide) | split

theorem execRdn_keeps (m) (s : State) :
    KeepsO 88112965 s (execRdn m s) := by
  unfold execRdn
  repeat' first
    | with_reducible refine KeepsO.next ?_ | with_reducible refine KeepsO.ite (fun _ => ?_) (fun _ => ?_)
    | with_reducible exact Keeps.refl _ _ | with_reducible refine Keeps.ite (fun _ => ?_) (fun _ => ?_)
    | with_reducible refine (State.arriveRequest_keeps _ _ _ ).after ?_ (by decide) | split

theorem execRdmaWrite_keeps (k) (x) (s : State) :
    KeepsO 4225861 s (execRdmaWrite k x s) := by
  unfold execRdmaWrite State.request State.packet
  repeat' first
    | with_reducible refine KeepsO.next ?_ | with_reducible refine KeepsO.ite (fun _ => ?_) (fun _ => ?_)
    | with_reducible exact Keeps.refl _ _ | with_reducible refine Keeps.ite (fun _ => ?_) (fun _ => ?_)
    | with_reducible refine (State.writePacket_keeps _ _ _ _ _ ).after ?_ (by decide)
    | with_reducible refine (State.qpReply_keeps _ _ _ _ ).after ?_ (by decide)
    | with_reducible refine (State.rxCount_keeps _ _ ).after ?_ (by decide)
    | with_reducible refine (State.rxDrop_keeps _ _ ).after ?_ (by decide)
    | with_reducible refine (State.rxStale_keeps _ _ ).after ?_ (by decide)
    | with_reducible refine (State.congestion_keeps _ _ _ _ ).after ?_ (by decide) | (lift_lets -underBinder; intros)
    | dsimp -zeta only | split

theorem execUciCntClear_keeps (s : State) :
    KeepsO 1 s (execUciCntClear s) := by
  unfold execUciCntClear
  repeat' first
    | with_reducible refine KeepsO.next ?_ | with_reducible refine KeepsO.ite (fun _ => ?_) (fun _ => ?_)
    | with_reducible exact Keeps.refl _ _ | with_reducible refine Keeps.ite (fun _ => ?_) (fun _ => ?_)
    | with_reducible refine (State.clearUci_keeps _ ).after ?_ (by decide) | split

theorem execTransactionTimeout_keeps (i) (s : State) :
    KeepsO 123305805 s (execTransactionTimeout i s) := by
  unfold execTransactionTimeout
  repeat' first
    | with_reducible refine KeepsO.next ?_ | with_reducible refine KeepsO.ite (fun _ => ?_) (fun _ => ?_)
    | with_reducible exact Keeps.refl _ _ | with_reducible refine Keeps.ite (fun _ => ?_) (fun _ => ?_)
    | with_reducible refine (State.wakeHalf_keeps _ _ ).after ?_ (by decide)
    | with_reducible refine (State.serveErr_keeps _ _ ).after ?_ (by decide)
    | with_reducible refine (State.closeTx_keeps _ _ ).after ?_ (by decide)
    | with_reducible refine (State.partitionFault_keeps _ _ _ ).after ?_ (by decide)
    | with_reducible refine (State.runImages_keeps _ ).after ?_ (by decide)
    | with_reducible refine Keeps.foldl ?_ (fun u1 _ => ?_) | (lift_lets -underBinder; intros) | split

theorem execGetCertificate_keeps (slot) (offset) (len) (s : State) :
    KeepsO 4196352 s (execGetCertificate slot offset len s) := by
  unfold execGetCertificate State.spdm State.doe
  repeat' first
    | with_reducible refine KeepsO.next ?_ | with_reducible refine KeepsO.ite (fun _ => ?_) (fun _ => ?_)
    | with_reducible exact Keeps.refl _ _ | with_reducible refine Keeps.ite (fun _ => ?_) (fun _ => ?_)
    | with_reducible refine (State.spdmError_keeps _ _ ).after ?_ (by decide)
    | with_reducible refine (State.doeReply_keeps _ _ ).after ?_ (by decide) | (lift_lets -underBinder; intros)
    | dsimp -zeta only | split

theorem execTileSramError_keeps (t) (off) (s : State) :
    KeepsO 4225861 s (execTileSramError t off s) := by
  unfold execTileSramError
  repeat' first
    | with_reducible refine KeepsO.next ?_ | with_reducible refine KeepsO.ite (fun _ => ?_) (fun _ => ?_)
    | with_reducible exact Keeps.refl _ _ | with_reducible refine Keeps.ite (fun _ => ?_) (fun _ => ?_)
    | with_reducible refine (State.fenceTile_keeps _ _ _ _ ).after ?_ (by decide) | split

theorem execCnp_keeps (k) (x) (s : State) :
    KeepsO 4198401 s (execCnp k x s) := by
  unfold execCnp State.packet
  repeat' first
    | with_reducible refine KeepsO.next ?_ | with_reducible refine KeepsO.ite (fun _ => ?_) (fun _ => ?_)
    | with_reducible exact Keeps.refl _ _ | with_reducible refine Keeps.ite (fun _ => ?_) (fun _ => ?_)
    | with_reducible refine (State.setQp_keeps _ _ _ _ ).after ?_ (by decide)
    | with_reducible refine (State.rxCount_keeps _ _ ).after ?_ (by decide)
    | with_reducible refine (State.rxDrop_keeps _ _ ).after ?_ (by decide)
    | with_reducible refine (State.rxStale_keeps _ _ ).after ?_ (by decide)
    | with_reducible refine (State.congestion_keeps _ _ _ _ ).after ?_ (by decide) | (lift_lets -underBinder; intros)
    | dsimp -zeta only | split

theorem execPwrCntClear_keeps (s : State) :
    KeepsO 32769 s (execPwrCntClear s) := by
  unfold execPwrCntClear
  repeat' first
    | with_reducible refine KeepsO.next ?_ | with_reducible refine KeepsO.ite (fun _ => ?_) (fun _ => ?_)
    | with_reducible exact Keeps.refl _ _ | with_reducible refine Keeps.ite (fun _ => ?_) (fun _ => ?_)
    | with_reducible refine (State.clearPwr_keeps _ ).after ?_ (by decide) | split

theorem execRateIncrease_keeps (p) (q) (s : State) :
    KeepsO 4096 s (execRateIncrease p q s) := by
  unfold execRateIncrease
  repeat' first
    | with_reducible refine KeepsO.next ?_ | with_reducible refine KeepsO.ite (fun _ => ?_) (fun _ => ?_)
    | with_reducible exact Keeps.refl _ _ | with_reducible refine Keeps.ite (fun _ => ?_) (fun _ => ?_)
    | with_reducible refine (State.setQp_keeps _ _ _ _ ).after ?_ (by decide) | (lift_lets -underBinder; intros) | split

theorem State.takeFwdMiss_keeps (s : State) (line) (n) :
    Keeps 88112965 s (State.takeFwdMiss s line n) := by
  unfold State.takeFwdMiss
  repeat' first
    | with_reducible exact Keeps.refl _ _ | with_reducible refine Keeps.ite (fun _ => ?_) (fun _ => ?_)
    | with_reducible refine (State.addTo_keeps _ _ _ ).after ?_ (by decide)
    | with_reducible refine (State.fwdMissed_keeps _ _ ).after ?_ (by decide)
    | with_reducible refine (State.discard_keeps _ _ ).after ?_ (by decide) | (lift_lets -underBinder; intros) | split

theorem State.sendPacket_keeps (s : State) (p) (q) (c) (x) :
    Keeps 4225861 s (State.sendPacket s p q c x) := by
  unfold State.sendPacket
  repeat' first
    | with_reducible exact Keeps.refl _ _ | with_reducible refine Keeps.ite (fun _ => ?_) (fun _ => ?_)
    | with_reducible refine (State.holdRx_keeps _ _ _ _ ).after ?_ (by decide)
    | with_reducible refine (State.takePsn_keeps _ _ _ _ ).after ?_ (by decide)
    | with_reducible refine (State.portWrite_keeps _ _ _ _ _ _ ).after ?_ (by decide)
    | with_reducible refine (State.rnr_keeps _ _ _ _ _ ).after ?_ (by decide)
    | with_reducible refine (State.setQp_keeps _ _ _ _ ).after ?_ (by decide)
    | with_reducible refine (State.nakInvalid_keeps _ _ _ _ ).after ?_ (by decide)
    | with_reducible refine (State.checkPause_keeps _ _ ).after ?_ (by decide)
    | with_reducible refine Keeps.snd (by assumption) ?_ | (lift_lets -underBinder; intros) | split

theorem execLaneLoad_keeps (t) (g) (lane) (loc) (len) (s : State) :
    KeepsO 121667397 s (execLaneLoad t g lane loc len s) := by
  unfold execLaneLoad State.withLane
  repeat' first
    | with_reducible refine KeepsO.next ?_ | with_reducible refine KeepsO.ite (fun _ => ?_) (fun _ => ?_)
    | with_reducible exact Keeps.refl _ _ | with_reducible refine Keeps.ite (fun _ => ?_) (fun _ => ?_)
    | with_reducible refine (State.giveLane_keeps _ _ _ _ _ ).after ?_ (by decide)
    | with_reducible refine (State.loadPart_keeps _ _ _ _ _ _ _ _ _ ).after ?_ (by decide)
    | with_reducible refine (State.stepFault_keeps _ _ _ _ _ _ ).after ?_ (by decide)
    | with_reducible refine (State.settleGroup_keeps _ _ _ ).after ?_ (by decide)
    | with_reducible refine (State.fetchLane_keeps _ _ _ _ _ ).after ?_ (by decide)
    | with_reducible refine Keeps.foldl ?_ (fun u1 _ => ?_) | with_reducible refine Keeps.foldlSnd ?_ (fun u1 _ => ?_)
    | with_reducible refine Keeps.snd (by assumption) ?_ | (lift_lets -underBinder; intros) | dsimp -zeta only | split

theorem execPowerLoss_keeps (s : State) :
    KeepsO 255590399 s (execPowerLoss s) := by
  unfold execPowerLoss
  repeat' first
    | with_reducible refine KeepsO.next ?_ | with_reducible refine KeepsO.ite (fun _ => ?_) (fun _ => ?_)
    | with_reducible exact Keeps.refl _ _ | with_reducible refine Keeps.ite (fun _ => ?_) (fun _ => ?_)
    | with_reducible refine (State.losePower_keeps _ ).after ?_ (by decide) | split

theorem execDroppedFrame_keeps (k) (s : State) :
    KeepsO 1 s (execDroppedFrame k s) := by
  unfold execDroppedFrame
  repeat' first
    | with_reducible refine KeepsO.next ?_ | with_reducible refine KeepsO.ite (fun _ => ?_) (fun _ => ?_)
    | with_reducible exact Keeps.refl _ _ | with_reducible refine Keeps.ite (fun _ => ?_) (fun _ => ?_)
    | with_reducible refine (State.rxDrop_keeps _ _ ).after ?_ (by decide) | split

end Sys2Proof.Machine
end

