-- ==== Sys2Proof/Laws/Frames6.lean ====
section
/-! SUPPORT. For each operation of the model, in the order of use (part 6 of 6): the components that it may change, by the bits
of `Keeps`. -/

set_option linter.all false

namespace Sys2Proof.Machine

theorem execRdmaWriteWithImmediate_keeps (k) (x) (s : State) :
    KeepsO 4225861 s (execRdmaWriteWithImmediate k x s) := by
  unfold execRdmaWriteWithImmediate State.request State.packet
  repeat' first
    | with_reducible refine KeepsO.next ?_ | with_reducible refine KeepsO.ite (fun _ => ?_) (fun _ => ?_)
    | with_reducible exact Keeps.refl _ _ | with_reducible refine Keeps.ite (fun _ => ?_) (fun _ => ?_)
    | with_reducible refine (State.writePacket_keeps _ _ _ _ _ ).after ?_ (by decide)
    | with_reducible refine (State.qpReply_keeps _ _ _ _ ).after ?_ (by decide)
    | with_reducible refine (State.rxCount_keeps _ _ ).after ?_ (by decide)
    | with_reducible refine (State.rxDrop_keeps _ _ ).after ?_ (by decide)
    | with_reducible refine (State.rxStale_keeps _ _ ).after ?_ (by decide)
    | with_reducible refine (State.congestion_keeps _ _ _ _ ).after ?_ (by decide) | (lift_lets -underBinder; intros)
    | dsimp -zeta only | split

theorem execUnsupportedOpcode_keeps (k) (x) (s : State) :
    KeepsO 4198401 s (execUnsupportedOpcode k x s) := by
  unfold execUnsupportedOpcode State.packet
  repeat' first
    | with_reducible refine KeepsO.next ?_ | with_reducible refine KeepsO.ite (fun _ => ?_) (fun _ => ?_)
    | with_reducible exact Keeps.refl _ _ | with_reducible refine Keeps.ite (fun _ => ?_) (fun _ => ?_)
    | with_reducible refine (State.nakInvalid_keeps _ _ _ _ ).after ?_ (by decide)
    | with_reducible refine (State.rxCount_keeps _ _ ).after ?_ (by decide)
    | with_reducible refine (State.rxDrop_keeps _ _ ).after ?_ (by decide)
    | with_reducible refine (State.rxStale_keeps _ _ ).after ?_ (by decide)
    | with_reducible refine (State.congestion_keeps _ _ _ _ ).after ?_ (by decide) | dsimp -zeta only | split

theorem execDirCntClear_keeps (d) (s : State) :
    KeepsO 1 s (execDirCntClear d s) := by
  unfold execDirCntClear
  repeat' first
    | with_reducible refine KeepsO.next ?_ | with_reducible refine KeepsO.ite (fun _ => ?_) (fun _ => ?_)
    | with_reducible exact Keeps.refl _ _ | with_reducible refine Keeps.ite (fun _ => ?_) (fun _ => ?_)
    | with_reducible refine (State.clearDir_keeps _ _ ).after ?_ (by decide) | split

theorem execJobDeadline_keeps (s : State) :
    KeepsO 4216833 s (execJobDeadline s) := by
  unfold execJobDeadline
  repeat' first
    | with_reducible refine KeepsO.next ?_ | with_reducible refine KeepsO.ite (fun _ => ?_) (fun _ => ?_)
    | with_reducible exact Keeps.refl _ _ | with_reducible refine Keeps.ite (fun _ => ?_) (fun _ => ?_)
    | with_reducible refine (State.laceDown_keeps _ _ ).after ?_ (by decide)
    | with_reducible refine (State.jobFault_keeps _ _ _ _ ).after ?_ (by decide)
    | with_reducible refine (State.setJob_keeps _ _ ).after ?_ (by decide)
    | with_reducible refine Keeps.foldl ?_ (fun u1 _ => ?_) | (lift_lets -underBinder; intros) | split

theorem State.ptpSync_keeps (s : State) (off) :
    Keeps 4097 s (State.ptpSync s off) := by
  unfold State.ptpSync
  repeat' first
    | with_reducible exact Keeps.refl _ _ | with_reducible refine Keeps.ite (fun _ => ?_) (fun _ => ?_)
    | with_reducible refine (State.setAll_keeps _ _ ).after ?_ (by decide) | (lift_lets -underBinder; intros) | split
    | with_reducible refine Keeps.setOuter ?_ (by decide)

theorem execPtpMessage_keeps (k) (m) (s : State) :
    KeepsO 20975617 s (execPtpMessage k m s) := by
  unfold execPtpMessage
  repeat' first
    | with_reducible refine KeepsO.next ?_ | with_reducible refine KeepsO.ite (fun _ => ?_) (fun _ => ?_)
    | with_reducible exact Keeps.refl _ _ | with_reducible refine Keeps.ite (fun _ => ?_) (fun _ => ?_)
    | with_reducible refine (State.ptpSync_keeps _ _ ).after ?_ (by decide)
    | with_reducible refine (State.rxCount_keeps _ _ ).after ?_ (by decide)
    | with_reducible refine (State.ptpMaySend_keeps _ _ _ ).after ?_ (by decide)
    | with_reducible refine (State.ptpSend_keeps _ _ _ ).after ?_ (by decide) | (lift_lets -underBinder; intros) | split

theorem execWeltCntClear_keeps (d) (edge) (s : State) :
    KeepsO 1 s (execWeltCntClear d edge s) := by
  unfold execWeltCntClear
  repeat' first
    | with_reducible refine KeepsO.next ?_ | with_reducible refine KeepsO.ite (fun _ => ?_) (fun _ => ?_)
    | with_reducible exact Keeps.refl _ _ | with_reducible refine Keeps.ite (fun _ => ?_) (fun _ => ?_)
    | with_reducible refine (State.clearWelt_keeps _ _ _ ).after ?_ (by decide) | split

theorem execLoadComplete_keeps (hostImage) (fetched) (s : State) :
    KeepsO 88112973 s (execLoadComplete hostImage fetched s) := by
  unfold execLoadComplete
  repeat' first
    | with_reducible refine KeepsO.next ?_ | with_reducible refine KeepsO.ite (fun _ => ?_) (fun _ => ?_)
    | with_reducible exact Keeps.refl _ _ | with_reducible refine Keeps.ite (fun _ => ?_) (fun _ => ?_)
    | with_reducible refine (State.endLoad_keeps _ _ _ ).after ?_ (by decide)
    | with_reducible refine (State.loadCheck_keeps _ _ ).after ?_ (by decide)
    | with_reducible refine (State.fetchImage_keeps _ _ _ _ _ _ ).after ?_ (by decide)
    | with_reducible refine Keeps.snd (by assumption) ?_ | split

theorem execBrakeRelease_keeps (s : State) :
    KeepsO 6408193 s (execBrakeRelease s) := by
  unfold execBrakeRelease
  repeat' first
    | with_reducible refine KeepsO.next ?_ | with_reducible refine KeepsO.ite (fun _ => ?_) (fun _ => ?_)
    | with_reducible exact Keeps.refl _ _ | with_reducible refine Keeps.ite (fun _ => ?_) (fun _ => ?_)
    | with_reducible refine (State.checkForced_keeps _ ).after ?_ (by decide)
    | with_reducible refine (State.set_keeps _ _ _ ).after ?_ (by decide) | (lift_lets -underBinder; intros) | split
    | with_reducible refine Keeps.setPins ?_ (by decide)

theorem execSweepDone_keeps (d) (s : State) :
    KeepsO 1 s (execSweepDone d s) := by
  unfold execSweepDone
  repeat' first
    | with_reducible refine KeepsO.next ?_ | with_reducible refine KeepsO.ite (fun _ => ?_) (fun _ => ?_)
    | with_reducible exact Keeps.refl _ _ | with_reducible refine Keeps.ite (fun _ => ?_) (fun _ => ?_)
    | with_reducible refine (State.reviveHost_keeps _ ).after ?_ (by decide)
    | with_reducible refine (State.set_keeps _ _ _ ).after ?_ (by decide) | split

theorem execMemInv_keeps (h) (mv) (tag) (s : State) :
    KeepsO 2305 s (execMemInv h mv tag s) := by
  unfold execMemInv State.fromHost
  repeat' first
    | with_reducible refine KeepsO.next ?_ | with_reducible refine KeepsO.ite (fun _ => ?_) (fun _ => ?_)
    | with_reducible exact Keeps.refl _ _ | with_reducible refine Keeps.ite (fun _ => ?_) (fun _ => ?_)
    | with_reducible refine (State.hostSend_keeps _ _ ).after ?_ (by decide)
    | with_reducible refine (State.unsupported_keeps _ ).after ?_ (by decide) | dsimp -zeta only | split

theorem State.scrubRow_keeps (s : State) (c) :
    Keeps 88099841 s (State.scrubRow s c) := by
  unfold State.scrubRow
  repeat' first
    | with_reducible exact Keeps.refl _ _ | with_reducible refine Keeps.ite (fun _ => ?_) (fun _ => ?_)
    | with_reducible refine (State.readRow_keeps _ _ ).after ?_ (by decide) | (lift_lets -underBinder; intros) | split

theorem State.scrub_keeps (s : State) (found) :
    Keeps 88099841 s (State.scrub s found) := by
  unfold State.scrub
  repeat' first
    | with_reducible exact Keeps.refl _ _ | with_reducible refine Keeps.ite (fun _ => ?_) (fun _ => ?_)
    | with_reducible refine (State.strike_keeps _ _ ).after ?_ (by decide)
    | with_reducible refine (State.bump_keeps _ _ _ ).after ?_ (by decide)
    | with_reducible refine (State.scrubRow_keeps _ _ ).after ?_ (by decide)
    | with_reducible refine (State.event_keeps _ _ _ _ _ _ ).after ?_ (by decide)
    | with_reducible refine Keeps.foldl ?_ (fun u1 _ => ?_) | (lift_lets -underBinder; intros) | split
    | refine Keeps.setDramSt ?_ (.inl (by decide)) (.inr rfl) (by first | exact id | exact mapWf_mapSet _ _ | exact mapWf_filter _ | exact mapWf_mapSetList _ _ | exact mapWf_mapSetMasked _ _ _ | exact mapWf_mapClear _ _ | exact fun _ => rfl)

theorem State.remoteRead_keeps (s : State) (t) (k) (c) :
    Keeps 4217409 s (State.remoteRead s t k c) := by
  unfold State.remoteRead
  repeat' first
    | with_reducible exact Keeps.refl _ _ | with_reducible refine Keeps.ite (fun _ => ?_) (fun _ => ?_)
    | with_reducible refine (State.copyError_keeps _ _ _ ).after ?_ (by decide)
    | with_reducible refine (State.setQp_keeps _ _ _ _ ).after ?_ (by decide)
    | with_reducible refine (State.qpSend_keeps _ _ _ _ _ _ ).after ?_ (by decide)
    | with_reducible refine (State.remoteCheck_keeps _ _ _ _ _ ).after ?_ (by decide)
    | with_reducible refine Keeps.foldl ?_ (fun u1 _ => ?_) | with_reducible refine Keeps.foldlSnd ?_ (fun u1 _ => ?_)
    | with_reducible refine Keeps.snd (by assumption) ?_ | (lift_lets -underBinder; intros) | split

theorem execErr_keeps (m) (s : State) :
    KeepsO 123305805 s (execErr m s) := by
  unfold execErr
  repeat' first
    | with_reducible refine KeepsO.next ?_ | with_reducible refine KeepsO.ite (fun _ => ?_) (fun _ => ?_)
    | with_reducible exact Keeps.refl _ _ | with_reducible refine Keeps.ite (fun _ => ?_) (fun _ => ?_)
    | with_reducible refine (State.hostErr_keeps _ _ ).after ?_ (by decide)
    | with_reducible refine (State.takeErr_keeps _ _ ).after ?_ (by decide)
    | with_reducible refine (State.arrive_keeps _ _ ).after ?_ (by decide)
    | with_reducible refine (State.runImages_keeps _ ).after ?_ (by decide) | (lift_lets -underBinder; intros) | split

theorem execTransitionComplete_keeps (s : State) :
    KeepsO 105533185 s (execTransitionComplete s) := by
  unfold execTransitionComplete
  repeat' first
    | with_reducible refine KeepsO.next ?_ | with_reducible refine KeepsO.ite (fun _ => ?_) (fun _ => ?_)
    | with_reducible exact Keeps.refl _ _ | with_reducible refine Keeps.ite (fun _ => ?_) (fun _ => ?_)
    | with_reducible refine Keeps.viaSec ?_ (.inl (by decide)) (.inr rfl) (.inl (by decide)) (.inr rfl)
    | with_reducible refine (State.set_keeps _ _ _ ).after ?_ (by decide)
    | with_reducible refine (State.showSec_keeps _ ).after ?_ (by decide)
    | with_reducible refine (State.zeroDevice_keeps _ ).after ?_ (by decide)
    | with_reducible refine (State.event_keeps _ _ _ _ _ _ ).after ?_ (by decide) | (lift_lets -underBinder; intros) | split

theorem execConvert_keeps (t) (g) (src) (dst) (x) (srcScale) (dstScale) (round) (s : State) :
    KeepsO 88112965 s (execConvert t g src dst x srcScale dstScale round s) := by
  unfold execConvert State.withPath
  repeat' first
    | with_reducible refine KeepsO.next ?_ | with_reducible refine KeepsO.ite (fun _ => ?_) (fun _ => ?_)
    | with_reducible exact Keeps.refl _ _ | with_reducible refine Keeps.ite (fun _ => ?_) (fun _ => ?_)
    | with_reducible refine (State.laneFlags_keeps _ _ _ _ ).after ?_ (by decide)
    | with_reducible refine (State.convertScale_keeps _ _ _ ).after ?_ (by decide)
    | with_reducible refine (State.giveAll_keeps _ _ _ _ _ ).after ?_ (by decide)
    | with_reducible refine (State.stepFault_keeps _ _ _ _ _ _ ).after ?_ (by decide)
    | with_reducible refine (State.fetchPath_keeps _ _ _ ).after ?_ (by decide)
    | with_reducible refine (State.settleGroup_keeps _ _ _ ).after ?_ (by decide)
    | with_reducible refine Keeps.snd (by assumption) ?_ | (lift_lets -underBinder; intros) | dsimp -zeta only | split

theorem execEyeAdd_keeps (t) (g) (eyelet) (n) (ordering) (scope) (s : State) :
    KeepsO 121667397 s (execEyeAdd t g eyelet n ordering scope s) := by
  unfold execEyeAdd State.withEyelet State.withPath
  repeat' first
    | with_reducible refine KeepsO.next ?_ | with_reducible refine KeepsO.ite (fun _ => ?_) (fun _ => ?_)
    | with_reducible exact Keeps.refl _ _ | with_reducible refine Keeps.ite (fun _ => ?_) (fun _ => ?_)
    | with_reducible refine (State.acquire_keeps _ _ _ ).after ?_ (by decide)
    | with_reducible refine (State.eyeCount_keeps _ _ _ ).after ?_ (by decide)
    | with_reducible refine (State.stepFault_keeps _ _ _ _ _ _ ).after ?_ (by decide)
    | with_reducible refine (State.releaseThen_keeps _ _ _ _ _ _ _ ).after ?_ (by decide)
    | with_reducible refine (State.fetchPath_keeps _ _ _ ).after ?_ (by decide)
    | with_reducible refine (State.settleGroup_keeps _ _ _ ).after ?_ (by decide)
    | with_reducible refine Keeps.snd (by assumption) ?_ | (lift_lets -underBinder; intros) | dsimp -zeta only | split

theorem execAtr_keeps (m) (s : State) :
    KeepsO 88112965 s (execAtr m s) := by
  unfold execAtr
  repeat' first
    | with_reducible refine KeepsO.next ?_ | with_reducible refine KeepsO.ite (fun _ => ?_) (fun _ => ?_)
    | with_reducible exact Keeps.refl _ _ | with_reducible refine Keeps.ite (fun _ => ?_) (fun _ => ?_)
    | with_reducible refine (State.arriveRequest_keeps _ _ _ ).after ?_ (by decide) | split

theorem execDieReady_keeps (d) (s : State) :
    KeepsO 4225861 s (execDieReady d s) := by
  unfold execDieReady
  repeat' first
    | with_reducible refine KeepsO.next ?_ | with_reducible refine KeepsO.ite (fun _ => ?_) (fun _ => ?_)
    | with_reducible exact Keeps.refl _ _ | with_reducible refine Keeps.ite (fun _ => ?_) (fun _ => ?_)
    | with_reducible refine (State.fenceWaiting_keeps _ _ ).after ?_ (by decide)
    | with_reducible refine (State.setFlt_keeps _ _ ).after ?_ (by decide)
    | with_reducible refine (State.setBitOf_keeps _ _ _ _ ).after ?_ (by decide)
    | with_reducible refine (State.reviveHalves_keeps _ _ ).after ?_ (by decide)
    | with_reducible refine (State.event_keeps _ _ _ _ _ _ ).after ?_ (by decide) | (lift_lets -underBinder; intros) | split

theorem execMissedEdge_keeps (s : State) :
    KeepsO 4212739 s (execMissedEdge s) := by
  unfold execMissedEdge
  repeat' first
    | with_reducible refine KeepsO.next ?_ | with_reducible refine KeepsO.ite (fun _ => ?_) (fun _ => ?_)
    | with_reducible exact Keeps.refl _ _ | with_reducible refine Keeps.ite (fun _ => ?_) (fun _ => ?_)
    | with_reducible refine (State.bump_keeps _ _ _ ).after ?_ (by decide)
    | with_reducible refine (State.emitTick_keeps _ _ _ _ ).after ?_ (by decide)
    | with_reducible refine (State.set_keeps _ _ _ ).after ?_ (by decide)
    | with_reducible refine (State.event_keeps _ _ _ _ _ _ ).after ?_ (by decide) | (lift_lets -underBinder; intros) | split
    | with_reducible refine Keeps.setClock ?_ (by decide)

theorem execModuleLinkDown_keeps (k) (s : State) :
    KeepsO 4212737 s (execModuleLinkDown k s) := by
  unfold execModuleLinkDown
  repeat' first
    | with_reducible refine KeepsO.next ?_ | with_reducible refine KeepsO.ite (fun _ => ?_) (fun _ => ?_)
    | with_reducible exact Keeps.refl _ _ | with_reducible refine Keeps.ite (fun _ => ?_) (fun _ => ?_)
    | with_reducible refine (State.bump_keeps _ _ _ ).after ?_ (by decide)
    | with_reducible refine (State.setModule_keeps _ _ _ ).after ?_ (by decide)
    | with_reducible refine (State.event_keeps _ _ _ _ _ _ ).after ?_ (by decide) | split

theorem execWeltReplay_keeps (d) (edge) (a2) (s : State) :
    KeepsO 1 s (execWeltReplay d edge a2 s) := by
  unfold execWeltReplay
  repeat' first
    | with_reducible refine KeepsO.next ?_ | with_reducible refine KeepsO.ite (fun _ => ?_) (fun _ => ?_)
    | with_reducible exact Keeps.refl _ _ | with_reducible refine Keeps.ite (fun _ => ?_) (fun _ => ?_)
    | with_reducible refine (State.addTo_keeps _ _ _ ).after ?_ (by decide) | split

theorem execGetCapabilities_keeps (s : State) :
    KeepsO 20973568 s (execGetCapabilities s) := by
  unfold execGetCapabilities State.spdm State.doe
  repeat' first
    | with_reducible refine KeepsO.next ?_ | with_reducible refine KeepsO.ite (fun _ => ?_) (fun _ => ?_)
    | with_reducible exact Keeps.refl _ _ | with_reducible refine Keeps.ite (fun _ => ?_) (fun _ => ?_)
    | with_reducible refine (State.draw_keeps _ ).after ?_ (by decide)
    | with_reducible refine (State.setUci_keeps _ _ ).after ?_ (by decide)
    | with_reducible refine (State.doeReply_keeps _ _ ).after ?_ (by decide)
    | with_reducible refine (State.spdmError_keeps _ _ ).after ?_ (by decide)
    | with_reducible refine Keeps.snd (by assumption) ?_ | (lift_lets -underBinder; intros) | dsimp -zeta only | split

theorem execSqResume_keeps (n) (k) (s : State) :
    KeepsO 8192 s (execSqResume n k s) := by
  unfold execSqResume
  repeat' first
    | with_reducible refine KeepsO.next ?_ | with_reducible refine KeepsO.ite (fun _ => ?_) (fun _ => ?_)
    | with_reducible exact Keeps.refl _ _ | with_reducible refine Keeps.ite (fun _ => ?_) (fun _ => ?_)
    | with_reducible refine (State.resumeSq_keeps _ _ _ ).after ?_ (by decide) | split

theorem execGrantDeadline_keeps (s : State) :
    KeepsO 4245505 s (execGrantDeadline s) := by
  unfold execGrantDeadline
  repeat' first
    | with_reducible refine KeepsO.next ?_ | with_reducible refine KeepsO.ite (fun _ => ?_) (fun _ => ?_)
    | with_reducible exact Keeps.refl _ _ | with_reducible refine Keeps.ite (fun _ => ?_) (fun _ => ?_)
    | with_reducible refine (State.missGrants_keeps _ _ ).after ?_ (by decide) | split

theorem execProductPassStart_keeps (t) (s : State) :
    KeepsO 577 s (execProductPassStart t s) := by
  unfold execProductPassStart
  repeat' first
    | with_reducible refine KeepsO.next ?_ | with_reducible refine KeepsO.ite (fun _ => ?_) (fun _ => ?_)
    | with_reducible exact Keeps.refl _ _ | with_reducible refine Keeps.ite (fun _ => ?_) (fun _ => ?_)
    | with_reducible refine (State.passDone_keeps _ _ _ ).after ?_ (by decide)
    | with_reducible refine (State.setTile_keeps _ _ _ ).after ?_ (by decide) | (lift_lets -underBinder; intros) | split

theorem execRegisterWrite_keeps (sp) (off) (v) (s : State) :
    KeepsO 98172751 s (execRegisterWrite sp off v s) := by
  unfold execRegisterWrite
  repeat' first
    | with_reducible refine KeepsO.next ?_ | with_reducible refine KeepsO.ite (fun _ => ?_) (fun _ => ?_)
    | with_reducible exact Keeps.refl _ _ | with_reducible refine Keeps.ite (fun _ => ?_) (fun _ => ?_)
    | with_reducible refine (State.barAccess_keeps _ _ _ _ _ _ ).after ?_ (by decide) | split

theorem State.provision_keeps (s : State) :
    Keeps 131072 s (State.provision s) := by
  unfold State.provision
  repeat' first
    | with_reducible exact Keeps.refl _ _ | with_reducible refine Keeps.ite (fun _ => ?_) (fun _ => ?_)
    | with_reducible refine Keeps.viaSec ?_ (.inl (by decide)) (.inr rfl) (.inr ⟨rfl, rfl, rfl⟩) (.inr rfl)
    | (lift_lets -underBinder; intros) | split

theorem execCopyInstruction_keeps (t) (g) (desc) (s : State) :
    KeepsO 121667397 s (execCopyInstruction t g desc s) := by
  unfold execCopyInstruction State.withPath
  repeat' first
    | with_reducible refine KeepsO.next ?_ | with_reducible refine KeepsO.ite (fun _ => ?_) (fun _ => ?_)
    | with_reducible exact Keeps.refl _ _ | with_reducible refine Keeps.ite (fun _ => ?_) (fun _ => ?_)
    | with_reducible refine (State.drainAll_keeps _ _ _ _ ).after ?_ (by decide)
    | with_reducible refine (State.remoteRead_keeps _ _ _ _ ).after ?_ (by decide)
    | with_reducible refine (State.setTile_keeps _ _ _ ).after ?_ (by decide)
    | with_reducible refine (State.setTask_keeps _ _ ).after ?_ (by decide)
    | with_reducible refine (faultOf_keeps _ _ _ _ _ ).after ?_ (by decide)
    | with_reducible refine (State.stepFault_keeps _ _ _ _ _ _ ).after ?_ (by decide)
    | with_reducible refine (State.remoteCheck_keeps _ _ _ _ _ ).after ?_ (by decide)
    | with_reducible refine (State.fetchPath_keeps _ _ _ ).after ?_ (by decide)
    | with_reducible refine (State.settleGroup_keeps _ _ _ ).after ?_ (by decide)
    | with_reducible refine Keeps.snd (by assumption) ?_ | (lift_lets -underBinder; intros) | dsimp -zeta only | split
    | refine Keeps.setTileSt ?_ (.inl (by decide)) (.inr rfl) (.inr rfl) (by first | exact id | exact mapWf_mapSet _ _ | exact mapWf_filter _ | exact mapWf_mapSetList _ _ | exact mapWf_mapSetMasked _ _ _ | exact mapWf_mapClear _ _ | exact fun _ => rfl)

theorem execSend_keeps (k) (x) (s : State) :
    KeepsO 4225861 s (execSend k x s) := by
  unfold execSend State.request State.packet
  repeat' first
    | with_reducible refine KeepsO.next ?_ | with_reducible refine KeepsO.ite (fun _ => ?_) (fun _ => ?_)
    | with_reducible exact Keeps.refl _ _ | with_reducible refine Keeps.ite (fun _ => ?_) (fun _ => ?_)
    | with_reducible refine (State.sendPacket_keeps _ _ _ _ _ ).after ?_ (by decide)
    | with_reducible refine (State.qpReply_keeps _ _ _ _ ).after ?_ (by decide)
    | with_reducible refine (State.rxCount_keeps _ _ ).after ?_ (by decide)
    | with_reducible refine (State.rxDrop_keeps _ _ ).after ?_ (by decide)
    | with_reducible refine (State.rxStale_keeps _ _ ).after ?_ (by decide)
    | with_reducible refine (State.congestion_keeps _ _ _ _ ).after ?_ (by decide) | (lift_lets -underBinder; intros)
    | dsimp -zeta only | split

theorem State.loaderCommit_keeps (s : State) :
    Keeps 12 s (State.loaderCommit s) := by
  unfold State.loaderCommit
  repeat' first
    | with_reducible exact Keeps.refl _ _ | with_reducible refine Keeps.ite (fun _ => ?_) (fun _ => ?_)
    | (lift_lets -underBinder; intros) | split | with_reducible refine Keeps.setLdr ?_ (by decide)
    | with_reducible refine Keeps.setCfg ?_ (by decide)

theorem execSlackWindowOpen_keeps (found) (s : State) :
    KeepsO 88178511 s (execSlackWindowOpen found s) := by
  unfold execSlackWindowOpen
  repeat' first
    | with_reducible refine KeepsO.next ?_ | with_reducible refine KeepsO.ite (fun _ => ?_) (fun _ => ?_)
    | with_reducible exact Keeps.refl _ _ | with_reducible refine Keeps.ite (fun _ => ?_) (fun _ => ?_)
    | with_reducible refine (State.advanceTo_keeps _ _ ).after ?_ (by decide)
    | with_reducible refine (State.rotatePointers_keeps _ _ ).after ?_ (by decide)
    | with_reducible refine (State.slices_keeps _ _ ).after ?_ (by decide)
    | with_reducible refine (State.scrub_keeps _ _ ).after ?_ (by decide)
    | with_reducible refine (State.loaderCommit_keeps _ ).after ?_ (by decide)
    | with_reducible refine Keeps.foldl ?_ (fun u1 _ => ?_) | (lift_lets -underBinder; intros) | split
    | with_reducible refine Keeps.setClock ?_ (by decide)

theorem execDuplicateWindowEnd_keeps (s : State) :
    KeepsO 256 s (execDuplicateWindowEnd s) := by
  unfold execDuplicateWindowEnd
  repeat' first
    | with_reducible refine KeepsO.next ?_ | with_reducible refine KeepsO.ite (fun _ => ?_) (fun _ => ?_)
    | with_reducible exact Keeps.refl _ _ | with_reducible refine Keeps.ite (fun _ => ?_) (fun _ => ?_)
    | (lift_lets -underBinder; intros) | split | with_reducible refine Keeps.setCoh ?_ (by decide)

theorem State.takeFwdAck_keeps (s : State) (line) (n) :
    Keeps 88112965 s (State.takeFwdAck s line n) := by
  unfold State.takeFwdAck
  repeat' first
    | with_reducible exact Keeps.refl _ _ | with_reducible refine Keeps.ite (fun _ => ?_) (fun _ => ?_)
    | with_reducible refine (State.settle_keeps _ _ _ _ ).after ?_ (by decide)
    | with_reducible refine (State.serveHome_keeps _ ).after ?_ (by decide)
    | with_reducible refine (State.discard_keeps _ _ ).after ?_ (by decide) | split

theorem execFwdack_keeps (m) (s : State) :
    KeepsO 88112965 s (execFwdack m s) := by
  unfold execFwdack
  repeat' first
    | with_reducible refine KeepsO.next ?_ | with_reducible refine KeepsO.ite (fun _ => ?_) (fun _ => ?_)
    | with_reducible exact Keeps.refl _ _ | with_reducible refine Keeps.ite (fun _ => ?_) (fun _ => ?_)
    | with_reducible refine (State.arrive_keeps _ _ ).after ?_ (by decide)
    | with_reducible refine (State.takeFwdAck_keeps _ _ _ ).after ?_ (by decide) | split

theorem execRnrRetry_keeps (p) (q) (s : State) :
    KeepsO 4198401 s (execRnrRetry p q s) := by
  unfold execRnrRetry
  repeat' first
    | with_reducible refine KeepsO.next ?_ | with_reducible refine KeepsO.ite (fun _ => ?_) (fun _ => ?_)
    | with_reducible exact Keeps.refl _ _ | with_reducible refine Keeps.ite (fun _ => ?_) (fun _ => ?_)
    | with_reducible refine (State.goBack_keeps _ _ _ ).after ?_ (by decide) | split

theorem execLaneSwitch_keeps (d) (edge) (g) (s : State) :
    KeepsO 65536 s (execLaneSwitch d edge g s) := by
  unfold execLaneSwitch
  repeat' first
    | with_reducible refine KeepsO.next ?_ | with_reducible refine KeepsO.ite (fun _ => ?_) (fun _ => ?_)
    | with_reducible exact Keeps.refl _ _ | with_reducible refine Keeps.ite (fun _ => ?_) (fun _ => ?_)
    | with_reducible refine (State.swapStep_keeps _ _ _ _ _ ).after ?_ (by decide) | split

theorem execFreqDecision_keeps (s : State) :
    KeepsO 4198401 s (execFreqDecision s) := by
  unfold execFreqDecision
  repeat' first
    | with_reducible refine KeepsO.next ?_ | with_reducible refine KeepsO.ite (fun _ => ?_) (fun _ => ?_)
    | with_reducible exact Keeps.refl _ _ | with_reducible refine Keeps.ite (fun _ => ?_) (fun _ => ?_)
    | with_reducible refine (State.laceDown_keeps _ _ ).after ?_ (by decide)
    | with_reducible refine (State.set_keeps _ _ _ ).after ?_ (by decide)
    | with_reducible refine (State.setJob_keeps _ _ ).after ?_ (by decide) | (lift_lets -underBinder; intros) | split

theorem execEyeWaitResolve_keeps (t) (g) (path) (s : State) :
    KeepsO 321 s (execEyeWaitResolve t g path s) := by
  unfold execEyeWaitResolve
  repeat' first
    | with_reducible refine KeepsO.next ?_ | with_reducible refine KeepsO.ite (fun _ => ?_) (fun _ => ?_)
    | with_reducible exact Keeps.refl _ _ | with_reducible refine Keeps.ite (fun _ => ?_) (fun _ => ?_)
    | with_reducible refine (State.acquire_keeps _ _ _ ).after ?_ (by decide)
    | with_reducible refine (State.setGroup_keeps _ _ _ _ ).after ?_ (by decide)
    | with_reducible refine (State.addTo_keeps _ _ _ ).after ?_ (by decide) | (lift_lets -underBinder; intros) | split

theorem execReport_keeps (k) (f) (s : State) :
    KeepsO 4198401 s (execReport k f s) := by
  unfold execReport State.laceFrame
  repeat' first
    | with_reducible refine KeepsO.next ?_ | with_reducible refine KeepsO.ite (fun _ => ?_) (fun _ => ?_)
    | with_reducible exact Keeps.refl _ _ | with_reducible refine Keeps.ite (fun _ => ?_) (fun _ => ?_)
    | with_reducible refine (State.setJob_keeps _ _ ).after ?_ (by decide)
    | with_reducible refine (State.relayReport_keeps _ _ ).after ?_ (by decide)
    | with_reducible refine (State.rxCount_keeps _ _ ).after ?_ (by decide)
    | with_reducible refine (State.rxStale_keeps _ _ ).after ?_ (by decide) | (lift_lets -underBinder; intros)
    | dsimp -zeta only | split

theorem execPfcPauseEnd_keeps (k) (s : State) :
    KeepsO 4198401 s (execPfcPauseEnd k s) := by
  unfold execPfcPauseEnd
  repeat' first
    | with_reducible refine KeepsO.next ?_ | with_reducible refine KeepsO.ite (fun _ => ?_) (fun _ => ?_)
    | with_reducible exact Keeps.refl _ _ | with_reducible refine Keeps.ite (fun _ => ?_) (fun _ => ?_)
    | with_reducible refine (State.unpause_keeps _ _ ).after ?_ (by decide) | split

theorem execCasLockHint_keeps (t) (g) (ty) (ops) (s : State) :
    KeepsO 121667397 s (execCasLockHint t g ty ops s) := by
  unfold execCasLockHint State.withPath
  repeat' first
    | with_reducible refine KeepsO.next ?_ | with_reducible refine KeepsO.ite (fun _ => ?_) (fun _ => ?_)
    | with_reducible exact Keeps.refl _ _ | with_reducible refine Keeps.ite (fun _ => ?_) (fun _ => ?_)
    | with_reducible refine (State.scratchOp_keeps _ _ _ _ _ _ _ _ _ ).after ?_ (by decide)
    | with_reducible refine (State.finishCas_keeps _ _ _ _ _ _ ).after ?_ (by decide)
    | with_reducible refine (State.giveLane_keeps _ _ _ _ _ ).after ?_ (by decide)
    | with_reducible refine (State.runOps_keeps _ _ _ _ _ _ _ _ _ _ _ _ _ ).after ?_ (by decide)
    | with_reducible refine (State.stepFault_keeps _ _ _ _ _ _ ).after ?_ (by decide)
    | with_reducible refine (State.fetchPath_keeps _ _ _ ).after ?_ (by decide)
    | with_reducible refine (State.settleGroup_keeps _ _ _ ).after ?_ (by decide)
    | with_reducible refine Keeps.foldl ?_ (fun u1 _ => ?_) | with_reducible refine Keeps.foldlSnd ?_ (fun u1 _ => ?_)
    | with_reducible refine Keeps.snd (by assumption) ?_ | (lift_lets -underBinder; intros) | dsimp -zeta only | split

theorem execEyeRead_keeps (t) (g) (eyelet) (s : State) :
    KeepsO 88112965 s (execEyeRead t g eyelet s) := by
  unfold execEyeRead State.withEyelet State.withPath
  repeat' first
    | with_reducible refine KeepsO.next ?_ | with_reducible refine KeepsO.ite (fun _ => ?_) (fun _ => ?_)
    | with_reducible exact Keeps.refl _ _ | with_reducible refine Keeps.ite (fun _ => ?_) (fun _ => ?_)
    | with_reducible refine (State.setGroup_keeps _ _ _ _ ).after ?_ (by decide)
    | with_reducible refine (State.stepFault_keeps _ _ _ _ _ _ ).after ?_ (by decide)
    | with_reducible refine (State.fetchPath_keeps _ _ _ ).after ?_ (by decide)
    | with_reducible refine (State.settleGroup_keeps _ _ _ ).after ?_ (by decide)
    | with_reducible refine Keeps.snd (by assumption) ?_ | (lift_lets -underBinder; intros) | dsimp -zeta only | split

theorem execHeartbeat_keeps (k) (f) (s : State) :
    KeepsO 4097 s (execHeartbeat k f s) := by
  unfold execHeartbeat State.laceFrame
  repeat' first
    | with_reducible refine KeepsO.next ?_ | with_reducible refine KeepsO.ite (fun _ => ?_) (fun _ => ?_)
    | with_reducible exact Keeps.refl _ _ | with_reducible refine Keeps.ite (fun _ => ?_) (fun _ => ?_)
    | with_reducible refine (State.setJob_keeps _ _ ).after ?_ (by decide)
    | with_reducible refine (State.rxCount_keeps _ _ ).after ?_ (by decide)
    | with_reducible refine (State.rxStale_keeps _ _ ).after ?_ (by decide) | (lift_lets -underBinder; intros)
    | dsimp -zeta only | split

theorem execJobAlignedTick_keeps (k) (s : State) :
    KeepsO 4099 s (execJobAlignedTick k s) := by
  unfold execJobAlignedTick
  repeat' first
    | with_reducible refine KeepsO.next ?_ | with_reducible refine KeepsO.ite (fun _ => ?_) (fun _ => ?_)
    | with_reducible exact Keeps.refl _ _ | with_reducible refine Keeps.ite (fun _ => ?_) (fun _ => ?_)
    | with_reducible refine (State.emitTick_keeps _ _ _ _ ).after ?_ (by decide)
    | with_reducible refine (State.set_keeps _ _ _ ).after ?_ (by decide) | (lift_lets -underBinder; intros) | split
    | with_reducible refine Keeps.setOuter ?_ (by decide)

theorem execRdmaReadResponse_keeps (k) (x) (s : State) :
    KeepsO 37780293 s (execRdmaReadResponse k x s) := by
  unfold execRdmaReadResponse State.packet
  repeat' first
    | with_reducible refine KeepsO.next ?_ | with_reducible refine KeepsO.ite (fun _ => ?_) (fun _ => ?_)
    | with_reducible exact Keeps.refl _ _ | with_reducible refine Keeps.ite (fun _ => ?_) (fun _ => ?_)
    | with_reducible refine (State.readResponse_keeps _ _ _ _ _ ).after ?_ (by decide)
    | with_reducible refine (State.rxCount_keeps _ _ ).after ?_ (by decide)
    | with_reducible refine (State.rxDrop_keeps _ _ ).after ?_ (by decide)
    | with_reducible refine (State.rxStale_keeps _ _ ).after ?_ (by decide)
    | with_reducible refine (State.congestion_keeps _ _ _ _ ).after ?_ (by decide) | dsimp -zeta only | split

theorem execLaceArrival_keeps (task) (t) (n) (s : State) :
    KeepsO 4198465 s (execLaceArrival task t n s) := by
  unfold execLaceArrival
  repeat' first
    | with_reducible refine KeepsO.next ?_ | with_reducible refine KeepsO.ite (fun _ => ?_) (fun _ => ?_)
    | with_reducible exact Keeps.refl _ _ | with_reducible refine Keeps.ite (fun _ => ?_) (fun _ => ?_)
    | with_reducible refine (State.soloArrives_keeps _ _ _ _ ).after ?_ (by decide)
    | with_reducible refine (State.taskArrives_keeps _ _ _ _ _ ).after ?_ (by decide)
    | with_reducible refine (State.setTask_keeps _ _ ).after ?_ (by decide) | (lift_lets -underBinder; intros) | split

theorem execDown_keeps (k) (f) (s : State) :
    KeepsO 4217409 s (execDown k f s) := by
  unfold execDown State.laceFrame
  repeat' first
    | with_reducible refine KeepsO.next ?_ | with_reducible refine KeepsO.ite (fun _ => ?_) (fun _ => ?_)
    | with_reducible exact Keeps.refl _ _ | with_reducible refine Keeps.ite (fun _ => ?_) (fun _ => ?_)
    | with_reducible refine (State.memberDown_keeps _ _ _ _ _ _ ).after ?_ (by decide)
    | with_reducible refine (State.rxCount_keeps _ _ ).after ?_ (by decide)
    | with_reducible refine (State.rxStale_keeps _ _ ).after ?_ (by decide) | dsimp -zeta only | split

theorem execPortLinkChange_keeps (k) (up) (s : State) :
    KeepsO 4212737 s (execPortLinkChange k up s) := by
  unfold execPortLinkChange
  repeat' first
    | with_reducible refine KeepsO.next ?_ | with_reducible refine KeepsO.ite (fun _ => ?_) (fun _ => ?_)
    | with_reducible exact Keeps.refl _ _ | with_reducible refine Keeps.ite (fun _ => ?_) (fun _ => ?_)
    | with_reducible refine (State.bump_keeps _ _ _ ).after ?_ (by decide)
    | with_reducible refine (State.set_keeps _ _ _ ).after ?_ (by decide)
    | with_reducible refine (State.setAll_keeps _ _ ).after ?_ (by decide)
    | with_reducible refine (State.event_keeps _ _ _ _ _ _ ).after ?_ (by decide) | (lift_lets -underBinder; intros) | split

theorem execRepairRecordWrite_keeps (d) (s : State) :
    KeepsO 327681 s (execRepairRecordWrite d s) := by
  unfold execRepairRecordWrite
  repeat' first
    | with_reducible refine KeepsO.next ?_ | with_reducible refine KeepsO.ite (fun _ => ?_) (fun _ => ?_)
    | with_reducible exact Keeps.refl _ _ | with_reducible refine Keeps.ite (fun _ => ?_) (fun _ => ?_)
    | with_reducible refine (State.setAwl_keeps _ _ ).after ?_ (by decide)
    | with_reducible refine (State.set_keeps _ _ _ ).after ?_ (by decide)
    | with_reducible refine Keeps.foldl ?_ (fun u1 _ => ?_) | (lift_lets -underBinder; intros) | split
    | refine Keeps.setSecSt ?_ (.inr rfl) (.inl (by decide)) (.inr ⟨rfl, rfl, rfl⟩) (.inr rfl)

theorem execLaneFlag_keeps (d) (edge) (g) (lane) (lace) (s : State) :
    KeepsO 88178637 s (execLaneFlag d edge g lane lace s) := by
  unfold execLaneFlag
  repeat' first
    | with_reducible refine KeepsO.next ?_ | with_reducible refine KeepsO.ite (fun _ => ?_) (fun _ => ?_)
    | with_reducible exact Keeps.refl _ _ | with_reducible refine Keeps.ite (fun _ => ?_) (fun _ => ?_)
    | with_reducible refine (State.setAwl_keeps _ _ ).after ?_ (by decide)
    | with_reducible refine (State.flagLane_keeps _ _ _ _ _ _ ).after ?_ (by decide)
    | with_reducible refine Keeps.snd (by assumption) ?_ | (lift_lets -underBinder; intros) | split

theorem execLaceCompletion_keeps (task) (d) (n) (s : State) :
    KeepsO 16777281 s (execLaceCompletion task d n s) := by
  unfold execLaceCompletion
  repeat' first
    | with_reducible refine KeepsO.next ?_ | with_reducible refine KeepsO.ite (fun _ => ?_) (fun _ => ?_)
    | with_reducible exact Keeps.refl _ _ | with_reducible refine Keeps.ite (fun _ => ?_) (fun _ => ?_)
    | with_reducible refine (State.setTask_keeps _ _ ).after ?_ (by decide)
    | with_reducible refine (State.releaseTask_keeps _ _ _ _ ).after ?_ (by decide) | (lift_lets -underBinder; intros)
    | split

theorem execPassInstruction_keeps (t) (g) (desc) (s : State) :
    KeepsO 121667397 s (execPassInstruction t g desc s) := by
  unfold execPassInstruction State.withPath
  repeat' first
    | with_reducible refine KeepsO.next ?_ | with_reducible refine KeepsO.ite (fun _ => ?_) (fun _ => ?_)
    | with_reducible exact Keeps.refl _ _ | with_reducible refine Keeps.ite (fun _ => ?_) (fun _ => ?_)
    | with_reducible refine (State.drainAll_keeps _ _ _ _ ).after ?_ (by decide)
    | with_reducible refine (State.setTile_keeps _ _ _ ).after ?_ (by decide)
    | with_reducible refine (faultOf_keeps _ _ _ _ _ ).after ?_ (by decide)
    | with_reducible refine (State.stepFault_keeps _ _ _ _ _ _ ).after ?_ (by decide)
    | with_reducible refine (State.fetchPath_keeps _ _ _ ).after ?_ (by decide)
    | with_reducible refine (State.settleGroup_keeps _ _ _ ).after ?_ (by decide)
    | with_reducible refine Keeps.snd (by assumption) ?_ | (lift_lets -underBinder; intros) | dsimp -zeta only | split

theorem execRecTailWrite_keeps (v) (s : State) :
    KeepsO 1 s (execRecTailWrite v s) := by
  unfold execRecTailWrite
  repeat' first
    | with_reducible refine KeepsO.next ?_ | with_reducible refine KeepsO.ite (fun _ => ?_) (fun _ => ?_)
    | with_reducible exact Keeps.refl _ _ | with_reducible refine Keeps.ite (fun _ => ?_) (fun _ => ?_)
    | with_reducible refine (State.recTail_keeps _ _ ).after ?_ (by decide) | split

theorem execThermalSample_keeps (d) (junctions) (drams) (s : State) :
    KeepsO 4311041 s (execThermalSample d junctions drams s) := by
  unfold execThermalSample
  repeat' first
    | with_reducible refine KeepsO.next ?_ | with_reducible refine KeepsO.ite (fun _ => ?_) (fun _ => ?_)
    | with_reducible exact Keeps.refl _ _ | with_reducible refine Keeps.ite (fun _ => ?_) (fun _ => ?_)
    | with_reducible refine (State.setPowerDie_keeps _ _ _ ).after ?_ (by decide)
    | with_reducible refine (State.trip_keeps _ _ _ _ ).after ?_ (by decide)
    | with_reducible refine (State.leaveWindow_keeps _ ).after ?_ (by decide)
    | with_reducible refine (State.set_keeps _ _ _ ).after ?_ (by decide)
    | with_reducible refine (State.updateThrottle_keeps _ ).after ?_ (by decide)
    | with_reducible refine (State.setAll_keeps _ _ ).after ?_ (by decide)
    | with_reducible refine (State.event_keeps _ _ _ _ _ _ ).after ?_ (by decide)
    | with_reducible refine Keeps.foldl ?_ (fun u1 _ => ?_) | (lift_lets -underBinder; intros) | split

theorem execDramCntClear_keeps (d) (s : State) :
    KeepsO 1 s (execDramCntClear d s) := by
  unfold execDramCntClear
  repeat' first
    | with_reducible refine KeepsO.next ?_ | with_reducible refine KeepsO.ite (fun _ => ?_) (fun _ => ?_)
    | with_reducible exact Keeps.refl _ _ | with_reducible refine Keeps.ite (fun _ => ?_) (fun _ => ?_)
    | with_reducible refine (State.clearDram_keeps _ _ ).after ?_ (by decide) | split

theorem execMasterLost_keeps (s : State) :
    KeepsO 1 s (execMasterLost s) := by
  unfold execMasterLost
  repeat' first
    | with_reducible refine KeepsO.next ?_ | with_reducible refine KeepsO.ite (fun _ => ?_) (fun _ => ?_)
    | with_reducible exact Keeps.refl _ _ | with_reducible refine Keeps.ite (fun _ => ?_) (fun _ => ?_)
    | with_reducible refine (State.setAll_keeps _ _ ).after ?_ (by decide) | split

theorem execEyeWait_keeps (t) (g) (eyelet) (target) (scope) (s : State) :
    KeepsO 88112965 s (execEyeWait t g eyelet target scope s) := by
  unfold execEyeWait State.withEyelet State.withPath
  repeat' first
    | with_reducible refine KeepsO.next ?_ | with_reducible refine KeepsO.ite (fun _ => ?_) (fun _ => ?_)
    | with_reducible exact Keeps.refl _ _ | with_reducible refine Keeps.ite (fun _ => ?_) (fun _ => ?_)
    | with_reducible refine (State.setGroup_keeps _ _ _ _ ).after ?_ (by decide)
    | with_reducible refine (State.stepFault_keeps _ _ _ _ _ _ ).after ?_ (by decide)
    | with_reducible refine (State.fetchPath_keeps _ _ _ ).after ?_ (by decide)
    | with_reducible refine (State.settleGroup_keeps _ _ _ ).after ?_ (by decide)
    | with_reducible refine Keeps.snd (by assumption) ?_ | (lift_lets -underBinder; intros) | dsimp -zeta only | split

theorem execPfcPause_keeps (k) (pcp) (timeNs) (s : State) :
    KeepsO 4198401 s (execPfcPause k pcp timeNs s) := by
  unfold execPfcPause
  repeat' first
    | with_reducible refine KeepsO.next ?_ | with_reducible refine KeepsO.ite (fun _ => ?_) (fun _ => ?_)
    | with_reducible exact Keeps.refl _ _ | with_reducible refine Keeps.ite (fun _ => ?_) (fun _ => ?_)
    | with_reducible refine (State.bump_keeps _ _ _ ).after ?_ (by decide)
    | with_reducible refine (State.unpause_keeps _ _ ).after ?_ (by decide)
    | with_reducible refine (State.set_keeps _ _ _ ).after ?_ (by decide)
    | with_reducible refine (State.rxCount_keeps _ _ ).after ?_ (by decide) | (lift_lets -underBinder; intros) | split

theorem execLdrApply_keeps (v) (s : State) :
    KeepsO 5274445 s (execLdrApply v s) := by
  unfold execLdrApply
  repeat' first
    | with_reducible refine KeepsO.next ?_ | with_reducible refine KeepsO.ite (fun _ => ?_) (fun _ => ?_)
    | with_reducible exact Keeps.refl _ _ | with_reducible refine Keeps.ite (fun _ => ?_) (fun _ => ?_)
    | with_reducible refine (State.loaderControl_keeps _ _ ).after ?_ (by decide) | split

theorem execArrive_keeps (k) (f) (s : State) :
    KeepsO 4198465 s (execArrive k f s) := by
  unfold execArrive State.laceFrame
  repeat' first
    | with_reducible refine KeepsO.next ?_ | with_reducible refine KeepsO.ite (fun _ => ?_) (fun _ => ?_)
    | with_reducible exact Keeps.refl _ _ | with_reducible refine Keeps.ite (fun _ => ?_) (fun _ => ?_)
    | with_reducible refine (State.checkInst_keeps _ _ _ _ ).after ?_ (by decide)
    | with_reducible refine (State.rxCount_keeps _ _ ).after ?_ (by decide)
    | with_reducible refine (State.rxStale_keeps _ _ ).after ?_ (by decide) | (lift_lets -underBinder; intros)
    | dsimp -zeta only | split

theorem execFlr_keeps (n) (s : State) :
    KeepsO 2048 s (execFlr n s) := by
  unfold execFlr
  repeat' first
    | with_reducible refine KeepsO.next ?_ | with_reducible refine KeepsO.ite (fun _ => ?_) (fun _ => ?_)
    | with_reducible exact Keeps.refl _ _ | with_reducible refine Keeps.ite (fun _ => ?_) (fun _ => ?_)
    | with_reducible refine (State.resetFunction_keeps _ _ ).after ?_ (by decide) | split

theorem execMemberEffective_keeps (s : State) :
    KeepsO 4097 s (execMemberEffective s) := by
  unfold execMemberEffective
  repeat' first
    | with_reducible refine KeepsO.next ?_ | with_reducible refine KeepsO.ite (fun _ => ?_) (fun _ => ?_)
    | with_reducible exact Keeps.refl _ _ | with_reducible refine Keeps.ite (fun _ => ?_) (fun _ => ?_)
    | with_reducible refine (State.takeMember_keeps _ _ _ _ _ ).after ?_ (by decide)
    | with_reducible refine (State.setJob_keeps _ _ ).after ?_ (by decide)
    | with_reducible refine Keeps.foldl ?_ (fun u1 _ => ?_) | (lift_lets -underBinder; intros) | split

theorem execData_keeps (m) (s : State) :
    KeepsO 123305805 s (execData m s) := by
  unfold execData
  repeat' first
    | with_reducible refine KeepsO.next ?_ | with_reducible refine KeepsO.ite (fun _ => ?_) (fun _ => ?_)
    | with_reducible exact Keeps.refl _ _ | with_reducible refine Keeps.ite (fun _ => ?_) (fun _ => ?_)
    | with_reducible refine (State.arrive_keeps _ _ ).after ?_ (by decide)
    | with_reducible refine (State.runImages_keeps _ ).after ?_ (by decide)
    | with_reducible refine (State.hostData_keeps _ _ ).after ?_ (by decide)
    | with_reducible refine (State.takeData_keeps _ _ ).after ?_ (by decide) | (lift_lets -underBinder; intros) | split

theorem execUcieTimeout_keeps (hpa) (s : State) :
    KeepsO 4225861 s (execUcieTimeout hpa s) := by
  unfold execUcieTimeout
  repeat' first
    | with_reducible refine KeepsO.next ?_ | with_reducible refine KeepsO.ite (fun _ => ?_) (fun _ => ?_)
    | with_reducible exact Keeps.refl _ _ | with_reducible refine Keeps.ite (fun _ => ?_) (fun _ => ?_)
    | with_reducible refine (State.hostLost_keeps _ ).after ?_ (by decide)
    | with_reducible refine (State.recordFault_keeps _ _ ).after ?_ (by decide) | (lift_lets -underBinder; intros) | split

theorem execL3CntClear_keeps (d) (s : State) :
    KeepsO 1 s (execL3CntClear d s) := by
  unfold execL3CntClear
  repeat' first
    | with_reducible refine KeepsO.next ?_ | with_reducible refine KeepsO.ite (fun _ => ?_) (fun _ => ?_)
    | with_reducible exact Keeps.refl _ _ | with_reducible refine Keeps.ite (fun _ => ?_) (fun _ => ?_)
    | with_reducible refine (State.clearL3_keeps _ _ ).after ?_ (by decide) | split

theorem execRefreshSlowReturn_keeps (d) (s : State) :
    KeepsO 4212737 s (execRefreshSlowReturn d s) := by
  unfold execRefreshSlowReturn
  repeat' first
    | with_reducible refine KeepsO.next ?_ | with_reducible refine KeepsO.ite (fun _ => ?_) (fun _ => ?_)
    | with_reducible exact Keeps.refl _ _ | with_reducible refine Keeps.ite (fun _ => ?_) (fun _ => ?_)
    | with_reducible refine (State.set_keeps _ _ _ ).after ?_ (by decide)
    | with_reducible refine (State.event_keeps _ _ _ _ _ _ ).after ?_ (by decide) | split

theorem execLaneArithmetic_keeps (t) (g) (op) (fmt) (a) (b) (c) (round) (s : State) :
    KeepsO 88112965 s (execLaneArithmetic t g op fmt a b c round s) := by
  unfold execLaneArithmetic State.withPath
  repeat' first
    | with_reducible refine KeepsO.next ?_ | with_reducible refine KeepsO.ite (fun _ => ?_) (fun _ => ?_)
    | with_reducible exact Keeps.refl _ _ | with_reducible refine Keeps.ite (fun _ => ?_) (fun _ => ?_)
    | with_reducible refine (State.laneFlags_keeps _ _ _ _ ).after ?_ (by decide)
    | with_reducible refine (State.pick_keeps _ _ _ ).after ?_ (by decide)
    | with_reducible refine (State.giveAll_keeps _ _ _ _ _ ).after ?_ (by decide)
    | with_reducible refine (State.stepFault_keeps _ _ _ _ _ _ ).after ?_ (by decide)
    | with_reducible refine (State.fetchPath_keeps _ _ _ ).after ?_ (by decide)
    | with_reducible refine (State.settleGroup_keeps _ _ _ ).after ?_ (by decide)
    | with_reducible refine Keeps.snd (by assumption) ?_ | (lift_lets -underBinder; intros) | dsimp -zeta only | split

theorem execDoeDiscovery_keeps (o) (s : State) :
    KeepsO 4196352 s (execDoeDiscovery o s) := by
  unfold execDoeDiscovery State.doe
  repeat' first
    | with_reducible refine KeepsO.next ?_ | with_reducible refine KeepsO.ite (fun _ => ?_) (fun _ => ?_)
    | with_reducible exact Keeps.refl _ _ | with_reducible refine Keeps.ite (fun _ => ?_) (fun _ => ?_)
    | with_reducible refine (State.doeReply_keeps _ _ ).after ?_ (by decide)
    | with_reducible refine (State.doeFails_keeps _ ).after ?_ (by decide) | (lift_lets -underBinder; intros)
    | dsimp -zeta only | split

theorem execGetMeasurements_keeps (index) (signed) (nonce) (s : State) :
    KeepsO 20973568 s (execGetMeasurements index signed nonce s) := by
  unfold execGetMeasurements State.spdm State.doe
  repeat' first
    | with_reducible refine KeepsO.next ?_ | with_reducible refine KeepsO.ite (fun _ => ?_) (fun _ => ?_)
    | with_reducible exact Keeps.refl _ _ | with_reducible refine Keeps.ite (fun _ => ?_) (fun _ => ?_)
    | with_reducible refine (State.spdmError_keeps _ _ ).after ?_ (by decide)
    | with_reducible refine (State.doeReply_keeps _ _ ).after ?_ (by decide)
    | with_reducible refine (State.nonce_keeps _ ).after ?_ (by decide) | with_reducible refine Keeps.snd (by assumption) ?_
    | (lift_lets -underBinder; intros) | dsimp -zeta only | split

theorem execCfgCommit_keeps (v) (s : State) :
    KeepsO 5 s (execCfgCommit v s) := by
  unfold execCfgCommit
  repeat' first
    | with_reducible refine KeepsO.next ?_ | with_reducible refine KeepsO.ite (fun _ => ?_) (fun _ => ?_)
    | with_reducible exact Keeps.refl _ _ | with_reducible refine Keeps.ite (fun _ => ?_) (fun _ => ?_)
    | with_reducible refine (State.cfgCommit_keeps _ _ ).after ?_ (by decide) | split

theorem execZeroingDone_keeps (p) (s : State) :
    KeepsO 100673280 s (execZeroingDone p s) := by
  unfold execZeroingDone
  repeat' first
    | with_reducible refine KeepsO.next ?_ | with_reducible refine KeepsO.ite (fun _ => ?_) (fun _ => ?_)
    | with_reducible exact Keeps.refl _ _ | with_reducible refine Keeps.ite (fun _ => ?_) (fun _ => ?_)
    | with_reducible refine (State.setPartSt_keeps _ _ _ ).after ?_ (by decide)
    | with_reducible refine (State.scratchZero_keeps _ _ ).after ?_ (by decide)
    | with_reducible refine (State.zeroRanges_keeps _ _ _ ).after ?_ (by decide)
    | with_reducible refine (State.resetEyelets_keeps _ _ ).after ?_ (by decide)
    | with_reducible refine Keeps.foldl ?_ (fun u1 _ => ?_) | (lift_lets -underBinder; intros) | split

theorem execConfigurationRequest_keeps (fn) (off) (write) (v) (s : State) :
    KeepsO 4196352 s (execConfigurationRequest fn off write v s) := by
  unfold execConfigurationRequest
  repeat' first
    | with_reducible refine KeepsO.next ?_ | with_reducible refine KeepsO.ite (fun _ => ?_) (fun _ => ?_)
    | with_reducible exact Keeps.refl _ _ | with_reducible refine Keeps.ite (fun _ => ?_) (fun _ => ?_)
    | with_reducible refine (State.cfgWrite_keeps _ _ _ _ ).after ?_ (by decide)
    | with_reducible refine (State.emit_keeps _ _ ).after ?_ (by decide) | split

theorem execLinkRetrain_keeps (s : State) :
    KeepsO 2049 s (execLinkRetrain s) := by
  unfold execLinkRetrain
  repeat' first
    | with_reducible refine KeepsO.next ?_ | with_reducible refine KeepsO.ite (fun _ => ?_) (fun _ => ?_)
    | with_reducible exact Keeps.refl _ _ | with_reducible refine Keeps.ite (fun _ => ?_) (fun _ => ?_)
    | with_reducible refine (State.trainAll_keeps _ ).after ?_ (by decide) | split

theorem State.cleanL3_keeps (s : State) (l) :
    Keeps 88112965 s (State.cleanL3 s l) := by
  unfold State.cleanL3
  repeat' first
    | with_reducible exact Keeps.refl _ _ | with_reducible refine Keeps.ite (fun _ => ?_) (fun _ => ?_)
    | with_reducible refine (State.dramPut_keeps _ _ _ _ ).after ?_ (by decide)
    | with_reducible refine (State.setL3_keeps _ _ ).after ?_ (by decide) | split

theorem execSaveDone_keeps (p) (uncorrectable) (s : State) :
    KeepsO 88112965 s (execSaveDone p uncorrectable s) := by
  unfold execSaveDone
  repeat' first
    | with_reducible refine KeepsO.next ?_ | with_reducible refine KeepsO.ite (fun _ => ?_) (fun _ => ?_)
    | with_reducible exact Keeps.refl _ _ | with_reducible refine Keeps.ite (fun _ => ?_) (fun _ => ?_)
    | with_reducible refine (State.cleanL3_keeps _ _ ).after ?_ (by decide)
    | with_reducible refine (State.unpinAll_keeps _ _ ).after ?_ (by decide)
    | with_reducible refine (State.areaFault_keeps _ _ ).after ?_ (by decide)
    | with_reducible refine (State.setPhase_keeps _ _ _ ).after ?_ (by decide)
    | with_reducible refine Keeps.foldl ?_ (fun u1 _ => ?_) | (lift_lets -underBinder; intros) | split

theorem execStoreQueueDrain_keeps (t) (g) (entry) (s : State) :
    KeepsO 37780293 s (execStoreQueueDrain t g entry s) := by
  unfold execStoreQueueDrain
  repeat' first
    | with_reducible refine KeepsO.next ?_ | with_reducible refine KeepsO.ite (fun _ => ?_) (fun _ => ?_)
    | with_reducible exact Keeps.refl _ _ | with_reducible refine Keeps.ite (fun _ => ?_) (fun _ => ?_)
    | with_reducible refine (State.setQueue_keeps _ _ _ _ ).after ?_ (by decide)
    | with_reducible refine (State.drainEntry_keeps _ _ _ _ ).after ?_ (by decide) | split

theorem execFwStage_keeps (hostImage) (fetched) (s : State) :
    KeepsO 89161541 s (execFwStage hostImage fetched s) := by
  unfold execFwStage
  repeat' first
    | with_reducible refine KeepsO.next ?_ | with_reducible refine KeepsO.ite (fun _ => ?_) (fun _ => ?_)
    | with_reducible exact Keeps.refl _ _ | with_reducible refine Keeps.ite (fun _ => ?_) (fun _ => ?_)
    | with_reducible refine (State.fwStage_keeps _ _ _ ).after ?_ (by decide) | split

theorem execGetVersion_keeps (s : State) :
    KeepsO 4196352 s (execGetVersion s) := by
  unfold execGetVersion State.spdm State.doe
  repeat' first
    | with_reducible refine KeepsO.next ?_ | with_reducible refine KeepsO.ite (fun _ => ?_) (fun _ => ?_)
    | with_reducible exact Keeps.refl _ _ | with_reducible refine Keeps.ite (fun _ => ?_) (fun _ => ?_)
    | with_reducible refine (State.setUci_keeps _ _ ).after ?_ (by decide)
    | with_reducible refine (State.doeReply_keeps _ _ ).after ?_ (by decide)
    | with_reducible refine (State.spdmError_keeps _ _ ).after ?_ (by decide) | (lift_lets -underBinder; intros)
    | dsimp -zeta only | split

theorem execTapReset_keeps (low) (s : State) :
    KeepsO 1048576 s (execTapReset low s) := by
  unfold execTapReset
  repeat' first
    | with_reducible refine KeepsO.next ?_ | with_reducible refine KeepsO.ite (fun _ => ?_) (fun _ => ?_)
    | with_reducible exact Keeps.refl _ _ | with_reducible refine Keeps.ite (fun _ => ?_) (fun _ => ?_)
    | with_reducible refine Keeps.viaSec ?_ (.inr rfl) (.inr rfl) (.inr ⟨rfl, rfl, rfl⟩) (.inl (by decide))
    | (lift_lets -underBinder; intros) | split

theorem execPin_keeps (t) (g) (addrs) (s : State) :
    KeepsO 88112965 s (execPin t g addrs s) := by
  unfold execPin State.pinLanes State.withPath
  repeat' first
    | with_reducible refine KeepsO.next ?_ | with_reducible refine KeepsO.ite (fun _ => ?_) (fun _ => ?_)
    | with_reducible exact Keeps.refl _ _ | with_reducible refine Keeps.ite (fun _ => ?_) (fun _ => ?_)
    | with_reducible refine (State.pinLine_keeps _ _ _ ).after ?_ (by decide)
    | with_reducible refine (State.giveLane_keeps _ _ _ _ _ ).after ?_ (by decide)
    | with_reducible refine (State.fetchPath_keeps _ _ _ ).after ?_ (by decide)
    | with_reducible refine (State.settleGroup_keeps _ _ _ ).after ?_ (by decide)
    | with_reducible refine Keeps.foldl ?_ (fun u1 _ => ?_) | with_reducible refine Keeps.foldlSnd ?_ (fun u1 _ => ?_)
    | with_reducible refine Keeps.snd (by assumption) ?_ | (lift_lets -underBinder; intros) | dsimp -zeta only | split

theorem execJoin_keeps (k) (f) (s : State) :
    KeepsO 4225861 s (execJoin k f s) := by
  unfold execJoin State.laceFrame
  repeat' first
    | with_reducible refine KeepsO.next ?_ | with_reducible refine KeepsO.ite (fun _ => ?_) (fun _ => ?_)
    | with_reducible exact Keeps.refl _ _ | with_reducible refine Keeps.ite (fun _ => ?_) (fun _ => ?_)
    | with_reducible refine (State.takeJoin_keeps _ _ _ _ _ ).after ?_ (by decide)
    | with_reducible refine (State.laceUp_keeps _ _ ).after ?_ (by decide)
    | with_reducible refine (State.rxCount_keeps _ _ ).after ?_ (by decide)
    | with_reducible refine (State.rxStale_keeps _ _ ).after ?_ (by decide) | dsimp -zeta only | split

theorem execPowerGood_keeps (straps) (s : State) :
    KeepsO 259784703 s (execPowerGood straps s) := by
  unfold execPowerGood
  repeat' first
    | with_reducible refine KeepsO.next ?_ | with_reducible refine KeepsO.ite (fun _ => ?_) (fun _ => ?_)
    | with_reducible exact Keeps.refl _ _ | with_reducible refine Keeps.ite (fun _ => ?_) (fun _ => ?_)
    | with_reducible refine (State.provision_keeps _ ).after ?_ (by decide)
    | with_reducible refine (State.checkForced_keeps _ ).after ?_ (by decide)
    | with_reducible refine (State.unpowered_keeps _ ).after ?_ (by decide)
    | with_reducible refine (State.setPins_keeps _ _ ).after ?_ (by decide)
    | with_reducible refine (State.recall_keeps _ _ ).after ?_ (by decide)
    | with_reducible refine (State.showSec_keeps _ ).after ?_ (by decide)
    | with_reducible refine (State.newChallenge_keeps _ _ ).after ?_ (by decide)
    | with_reducible refine (State.setAll_keeps _ _ ).after ?_ (by decide)
    | with_reducible refine (State.applySoft_keeps _ _ _ ).after ?_ (by decide)
    | with_reducible refine Keeps.foldl ?_ (fun u1 _ => ?_) | (lift_lets -underBinder; intros) | split

theorem execBudgetGrant_keeps (d) (s : State) :
    KeepsO 32768 s (execBudgetGrant d s) := by
  unfold execBudgetGrant
  repeat' first
    | with_reducible refine KeepsO.next ?_ | with_reducible refine KeepsO.ite (fun _ => ?_) (fun _ => ?_)
    | with_reducible exact Keeps.refl _ _ | with_reducible refine Keeps.ite (fun _ => ?_) (fun _ => ?_)
    | with_reducible refine (State.setPowerDie_keeps _ _ _ ).after ?_ (by decide)
    | with_reducible refine (State.setPower_keeps _ _ ).after ?_ (by decide) | (lift_lets -underBinder; intros) | split

theorem execSbRead_keeps (off) (s : State) :
    KeepsO 20989953 s (execSbRead off s) := by
  unfold execSbRead
  repeat' first
    | with_reducible refine KeepsO.next ?_ | with_reducible refine KeepsO.ite (fun _ => ?_) (fun _ => ?_)
    | with_reducible exact Keeps.refl _ _ | with_reducible refine Keeps.ite (fun _ => ?_) (fun _ => ?_)
    | with_reducible refine (State.sidebandReply_keeps _ _ _ ).after ?_ (by decide)
    | with_reducible refine (State.read_keeps _ _ _ _ _ ).after ?_ (by decide)
    | with_reducible refine Keeps.snd (by assumption) ?_ | (lift_lets -underBinder; intros) | split

theorem execOutJobCntClear_keeps (s : State) :
    KeepsO 1 s (execOutJobCntClear s) := by
  unfold execOutJobCntClear
  repeat' first
    | with_reducible refine KeepsO.next ?_ | with_reducible refine KeepsO.ite (fun _ => ?_) (fun _ => ?_)
    | with_reducible exact Keeps.refl _ _ | with_reducible refine Keeps.ite (fun _ => ?_) (fun _ => ?_)
    | with_reducible refine (State.clearJob_keeps _ ).after ?_ (by decide) | split

theorem execSnpInv_keeps (hpa) (s : State) :
    KeepsO 21003077 s (execSnpInv hpa s) := by
  unfold execSnpInv
  repeat' first
    | with_reducible refine KeepsO.next ?_ | with_reducible refine KeepsO.ite (fun _ => ?_) (fun _ => ?_)
    | with_reducible exact Keeps.refl _ _ | with_reducible refine Keeps.ite (fun _ => ?_) (fun _ => ?_)
    | with_reducible refine (State.putFilter_keeps _ _ ).after ?_ (by decide)
    | with_reducible refine (State.serveFilter_keeps _ ).after ?_ (by decide)
    | with_reducible refine (State.filterCollect_keeps _ _ _ _ _ _ ).after ?_ (by decide)
    | with_reducible refine (State.emit_keeps _ _ ).after ?_ (by decide) | split

theorem State.slotDone_keeps (s : State) (p) (q) (psn) :
    Keeps 4225861 s (State.slotDone s p q psn) := by
  unfold State.slotDone
  repeat' first
    | with_reducible exact Keeps.refl _ _ | with_reducible refine Keeps.ite (fun _ => ?_) (fun _ => ?_)
    | with_reducible refine (State.sendAcks_keeps _ _ _ _ ).after ?_ (by decide)
    | with_reducible refine (State.eyeCount_keeps _ _ _ ).after ?_ (by decide)
    | with_reducible refine (State.portWrite_keeps _ _ _ _ _ _ ).after ?_ (by decide)
    | with_reducible refine (State.setQp_keeps _ _ _ _ ).after ?_ (by decide)
    | with_reducible refine (State.nextSlot_keeps _ _ _ _ ).after ?_ (by decide)
    | with_reducible refine Keeps.snd (by assumption) ?_ | (lift_lets -underBinder; intros) | split

theorem State.serveAck_keeps (s : State) (w) :
    Keeps 37780293 s (State.serveAck s w) := by
  unfold State.serveAck
  repeat' first
    | with_reducible exact Keeps.refl _ _ | with_reducible refine Keeps.ite (fun _ => ?_) (fun _ => ?_)
    | with_reducible refine (State.recordAccepted_keeps _ _ _ _ ).after ?_ (by decide)
    | with_reducible refine (State.phaseAccepted_keeps _ _ _ _ ).after ?_ (by decide)
    | with_reducible refine (State.copyCount_keeps _ _ _ _ ).after ?_ (by decide)
    | with_reducible refine (State.wake_keeps _ _ _ _ ).after ?_ (by decide)
    | with_reducible refine (State.slotDone_keeps _ _ _ _ ).after ?_ (by decide)
    | with_reducible refine (State.checkReleases_keeps _ _ ).after ?_ (by decide)
    | with_reducible refine (State.checkRetire_keeps _ _ ).after ?_ (by decide)
    | with_reducible refine (State.rxWritten_keeps _ _ _ _ _ ).after ?_ (by decide) | split

theorem execSetdasa_keeps (addr) (s : State) :
    KeepsO 2048 s (execSetdasa addr s) := by
  unfold execSetdasa
  repeat' first
    | with_reducible refine KeepsO.next ?_ | with_reducible refine KeepsO.ite (fun _ => ?_) (fun _ => ?_)
    | with_reducible exact Keeps.refl _ _ | with_reducible refine Keeps.ite (fun _ => ?_) (fun _ => ?_)
    | with_reducible refine (State.setUci_keeps _ _ ).after ?_ (by decide) | (lift_lets -underBinder; intros) | split

theorem execTrimWrite_keeps (d) (s : State) :
    KeepsO 262144 s (execTrimWrite d s) := by
  unfold execTrimWrite
  repeat' first
    | with_reducible refine KeepsO.next ?_ | with_reducible refine KeepsO.ite (fun _ => ?_) (fun _ => ?_)
    | with_reducible exact Keeps.refl _ _ | with_reducible refine Keeps.ite (fun _ => ?_) (fun _ => ?_)
    | (lift_lets -underBinder; intros) | split
    | refine Keeps.setSecSt ?_ (.inr rfl) (.inl (by decide)) (.inr ⟨rfl, rfl, rfl⟩) (.inr rfl)

theorem execFwdmiss_keeps (m) (s : State) :
    KeepsO 88112965 s (execFwdmiss m s) := by
  unfold execFwdmiss
  repeat' first
    | with_reducible refine KeepsO.next ?_ | with_reducible refine KeepsO.ite (fun _ => ?_) (fun _ => ?_)
    | with_reducible exact Keeps.refl _ _ | with_reducible refine Keeps.ite (fun _ => ?_) (fun _ => ?_)
    | with_reducible refine (State.takeFwdMiss_keeps _ _ _ ).after ?_ (by decide)
    | with_reducible refine (State.arrive_keeps _ _ ).after ?_ (by decide) | split

theorem execModuleTrainTimeout_keeps (k) (s : State) :
    KeepsO 2099201 s (execModuleTrainTimeout k s) := by
  unfold execModuleTrainTimeout
  repeat' first
    | with_reducible refine KeepsO.next ?_ | with_reducible refine KeepsO.ite (fun _ => ?_) (fun _ => ?_)
    | with_reducible exact Keeps.refl _ _ | with_reducible refine Keeps.ite (fun _ => ?_) (fun _ => ?_)
    | with_reducible refine (State.setUci_keeps _ _ ).after ?_ (by decide)
    | with_reducible refine (State.set_keeps _ _ _ ).after ?_ (by decide)
    | with_reducible refine (State.startFail_keeps _ _ ).after ?_ (by decide) | (lift_lets -underBinder; intros) | split

theorem execLdrAbort_keeps (v) (s : State) :
    KeepsO 5274445 s (execLdrAbort v s) := by
  unfold execLdrAbort
  repeat' first
    | with_reducible refine KeepsO.next ?_ | with_reducible refine KeepsO.ite (fun _ => ?_) (fun _ => ?_)
    | with_reducible exact Keeps.refl _ _ | with_reducible refine Keeps.ite (fun _ => ?_) (fun _ => ?_)
    | with_reducible refine (State.loaderControl_keeps _ _ ).after ?_ (by decide) | split

theorem execRtsGo_keeps (hostImage) (fetched) (s : State) :
    KeepsO 89161541 s (execRtsGo hostImage fetched s) := by
  unfold execRtsGo
  repeat' first
    | with_reducible refine KeepsO.next ?_ | with_reducible refine KeepsO.ite (fun _ => ?_) (fun _ => ?_)
    | with_reducible exact Keeps.refl _ _ | with_reducible refine Keeps.ite (fun _ => ?_) (fun _ => ?_)
    | with_reducible refine (State.rtsGo_keeps _ _ _ ).after ?_ (by decide) | split

theorem execPathRotate_keeps (t) (g) (s : State) :
    KeepsO 65 s (execPathRotate t g s) := by
  unfold execPathRotate
  repeat' first
    | with_reducible refine KeepsO.next ?_ | with_reducible refine KeepsO.ite (fun _ => ?_) (fun _ => ?_)
    | with_reducible exact Keeps.refl _ _ | with_reducible refine Keeps.ite (fun _ => ?_) (fun _ => ?_)
    | with_reducible refine (State.setGroup_keeps _ _ _ _ ).after ?_ (by decide)
    | with_reducible refine (State.addTo_keeps _ _ _ ).after ?_ (by decide) | (lift_lets -underBinder; intros) | split

theorem execFloorBurnComplete_keeps (s : State) :
    KeepsO 4868097 s (execFloorBurnComplete s) := by
  unfold execFloorBurnComplete
  repeat' first
    | with_reducible refine KeepsO.next ?_ | with_reducible refine KeepsO.ite (fun _ => ?_) (fun _ => ?_)
    | with_reducible exact Keeps.refl _ _ | with_reducible refine Keeps.ite (fun _ => ?_) (fun _ => ?_)
    | with_reducible refine Keeps.viaSec ?_ (.inl (by decide)) (.inr rfl) (.inl (by decide)) (.inr rfl)
    | with_reducible refine (State.set_keeps _ _ _ ).after ?_ (by decide)
    | with_reducible refine (State.showSec_keeps _ ).after ?_ (by decide)
    | with_reducible refine (State.event_keeps _ _ _ _ _ _ ).after ?_ (by decide) | (lift_lets -underBinder; intros) | split

theorem execQpReset_keeps (k) (f) (s : State) :
    KeepsO 4217409 s (execQpReset k f s) := by
  unfold execQpReset State.laceFrame
  repeat' first
    | with_reducible refine KeepsO.next ?_ | with_reducible refine KeepsO.ite (fun _ => ?_) (fun _ => ?_)
    | with_reducible exact Keeps.refl _ _ | with_reducible refine Keeps.ite (fun _ => ?_) (fun _ => ?_)
    | with_reducible refine (State.qpError_keeps _ _ _ _ ).after ?_ (by decide)
    | with_reducible refine (State.setQp_keeps _ _ _ _ ).after ?_ (by decide)
    | with_reducible refine (State.rxCount_keeps _ _ ).after ?_ (by decide)
    | with_reducible refine (State.rxStale_keeps _ _ ).after ?_ (by decide) | (lift_lets -underBinder; intros)
    | dsimp -zeta only | split

theorem execStepEnd_keeps (task) (endNs) (s : State) :
    KeepsO 21035845 s (execStepEnd task endNs s) := by
  unfold execStepEnd
  repeat' first
    | with_reducible refine KeepsO.next ?_ | with_reducible refine KeepsO.ite (fun _ => ?_) (fun _ => ?_)
    | with_reducible exact Keeps.refl _ _ | with_reducible refine Keeps.ite (fun _ => ?_) (fun _ => ?_)
    | with_reducible refine (State.endStep_keeps _ _ _ ).after ?_ (by decide) | split

theorem execBarrier_keeps (t) (g) (lanes) (kind) (n) (s : State) :
    KeepsO 121667397 s (execBarrier t g lanes kind n s) := by
  unfold execBarrier State.withPath
  repeat' first
    | with_reducible refine KeepsO.next ?_ | with_reducible refine KeepsO.ite (fun _ => ?_) (fun _ => ?_)
    | with_reducible exact Keeps.refl _ _ | with_reducible refine Keeps.ite (fun _ => ?_) (fun _ => ?_)
    | with_reducible refine (State.drainAll_keeps _ _ _ _ ).after ?_ (by decide)
    | with_reducible refine (State.setGroup_keeps _ _ _ _ ).after ?_ (by decide)
    | with_reducible refine (State.settleGroup_keeps _ _ _ ).after ?_ (by decide)
    | with_reducible refine (State.checkBarriers_keeps _ _ ).after ?_ (by decide)
    | with_reducible refine (State.fetchPath_keeps _ _ _ ).after ?_ (by decide)
    | with_reducible refine Keeps.snd (by assumption) ?_ | (lift_lets -underBinder; intros) | dsimp -zeta only | split

theorem execHeartbeatLoss_keeps (neighbour) (s : State) :
    KeepsO 4217409 s (execHeartbeatLoss neighbour s) := by
  unfold execHeartbeatLoss
  repeat' first
    | with_reducible refine KeepsO.next ?_ | with_reducible refine KeepsO.ite (fun _ => ?_) (fun _ => ?_)
    | with_reducible exact Keeps.refl _ _ | with_reducible refine Keeps.ite (fun _ => ?_) (fun _ => ?_)
    | with_reducible refine (State.memberDown_keeps _ _ _ _ _ _ ).after ?_ (by decide) | (lift_lets -underBinder; intros)
    | split

theorem execNak_keeps (k) (x) (s : State) :
    KeepsO 4217409 s (execNak k x s) := by
  unfold execNak State.packet
  repeat' first
    | with_reducible refine KeepsO.next ?_ | with_reducible refine KeepsO.ite (fun _ => ?_) (fun _ => ?_)
    | with_reducible exact Keeps.refl _ _ | with_reducible refine Keeps.ite (fun _ => ?_) (fun _ => ?_)
    | with_reducible refine (State.qpResend_keeps _ _ _ _ ).after ?_ (by decide)
    | with_reducible refine (State.qpError_keeps _ _ _ _ ).after ?_ (by decide)
    | with_reducible refine (State.rxCount_keeps _ _ ).after ?_ (by decide)
    | with_reducible refine (State.rxDrop_keeps _ _ ).after ?_ (by decide)
    | with_reducible refine (State.rxStale_keeps _ _ ).after ?_ (by decide)
    | with_reducible refine (State.congestion_keeps _ _ _ _ ).after ?_ (by decide) | dsimp -zeta only | split

theorem execAllModulesActive_keeps (s : State) :
    KeepsO 6309889 s (execAllModulesActive s) := by
  unfold execAllModulesActive
  repeat' first
    | with_reducible refine KeepsO.next ?_ | with_reducible refine KeepsO.ite (fun _ => ?_) (fun _ => ?_)
    | with_reducible exact Keeps.refl _ _ | with_reducible refine Keeps.ite (fun _ => ?_) (fun _ => ?_)
    | with_reducible refine (State.setUci_keeps _ _ ).after ?_ (by decide)
    | with_reducible refine (State.reviveHost_keeps _ ).after ?_ (by decide)
    | with_reducible refine (State.setPins_keeps _ _ ).after ?_ (by decide)
    | with_reducible refine (State.set_keeps _ _ _ ).after ?_ (by decide)
    | with_reducible refine (State.resetFunction_keeps _ _ ).after ?_ (by decide)
    | with_reducible refine (State.event_keeps _ _ _ _ _ _ ).after ?_ (by decide)
    | with_reducible refine Keeps.foldl ?_ (fun u1 _ => ?_) | (lift_lets -underBinder; intros) | split

theorem execRefreshCommand_keeps (d) (ch) (s : State) :
    KeepsO 1025 s (execRefreshCommand d ch s) := by
  unfold execRefreshCommand
  repeat' first
    | with_reducible refine KeepsO.next ?_ | with_reducible refine KeepsO.ite (fun _ => ?_) (fun _ => ?_)
    | with_reducible exact Keeps.refl _ _ | with_reducible refine Keeps.ite (fun _ => ?_) (fun _ => ?_)
    | with_reducible refine (State.addTo_keeps _ _ _ ).after ?_ (by decide) | (lift_lets -underBinder; intros) | split
    | refine Keeps.setDramSt ?_ (.inl (by decide)) (.inr rfl) (by first | exact id | exact mapWf_mapSet _ _ | exact mapWf_filter _ | exact mapWf_mapSetList _ _ | exact mapWf_mapSetMasked _ _ _ | exact mapWf_mapClear _ _ | exact fun _ => rfl)

theorem State.suspectLink_keeps (s : State) (l) :
    Keeps 16384 s (State.suspectLink s l) := by
  unfold State.suspectLink
  repeat' first
    | with_reducible exact Keeps.refl _ _ | with_reducible refine Keeps.ite (fun _ => ?_) (fun _ => ?_)
    | with_reducible refine (State.setFlt_keeps _ _ ).after ?_ (by decide) | (lift_lets -underBinder; intros) | split

theorem execMember_keeps (k) (f) (s : State) :
    KeepsO 4198401 s (execMember k f s) := by
  unfold execMember State.laceFrame
  repeat' first
    | with_reducible refine KeepsO.next ?_ | with_reducible refine KeepsO.ite (fun _ => ?_) (fun _ => ?_)
    | with_reducible exact Keeps.refl _ _ | with_reducible refine Keeps.ite (fun _ => ?_) (fun _ => ?_)
    | with_reducible refine (State.laceDown_keeps _ _ ).after ?_ (by decide)
    | with_reducible refine (State.setJob_keeps _ _ ).after ?_ (by decide)
    | with_reducible refine (State.rxCount_keeps _ _ ).after ?_ (by decide)
    | with_reducible refine (State.rxStale_keeps _ _ ).after ?_ (by decide) | (lift_lets -underBinder; intros)
    | dsimp -zeta only | split

theorem execFlitRetry_keeps (d) (site) (port) (flit) (s : State) :
    KeepsO 16385 s (execFlitRetry d site port flit s) := by
  unfold execFlitRetry
  repeat' first
    | with_reducible refine KeepsO.next ?_ | with_reducible refine KeepsO.ite (fun _ => ?_) (fun _ => ?_)
    | with_reducible exact Keeps.refl _ _ | with_reducible refine Keeps.ite (fun _ => ?_) (fun _ => ?_)
    | with_reducible refine (State.addTo_keeps _ _ _ ).after ?_ (by decide)
    | with_reducible refine (State.setFlt_keeps _ _ ).after ?_ (by decide)
    | with_reducible refine (State.suspectLink_keeps _ _ ).after ?_ (by decide) | (lift_lets -underBinder; intros) | split

theorem execNegotiateAlgorithms_keeps (rsapss3072) (sha256) (s : State) :
    KeepsO 4196352 s (execNegotiateAlgorithms rsapss3072 sha256 s) := by
  unfold execNegotiateAlgorithms State.spdm State.doe
  repeat' first
    | with_reducible refine KeepsO.next ?_ | with_reducible refine KeepsO.ite (fun _ => ?_) (fun _ => ?_)
    | with_reducible exact Keeps.refl _ _ | with_reducible refine Keeps.ite (fun _ => ?_) (fun _ => ?_)
    | with_reducible refine (State.setUci_keeps _ _ ).after ?_ (by decide)
    | with_reducible refine (State.doeReply_keeps _ _ ).after ?_ (by decide)
    | with_reducible refine (State.spdmError_keeps _ _ ).after ?_ (by decide) | (lift_lets -underBinder; intros)
    | dsimp -zeta only | split

theorem State.takeAck_keeps (s : State) (m) (atomic) :
    Keeps 121667397 s (State.takeAck s m atomic) := by
  unfold State.takeAck
  repeat' first
    | with_reducible exact Keeps.refl _ _ | with_reducible refine Keeps.ite (fun _ => ?_) (fun _ => ?_)
    | with_reducible refine (State.wakeHalf_keeps _ _ ).after ?_ (by decide)
    | with_reducible refine (State.closeTx_keeps _ _ ).after ?_ (by decide)
    | with_reducible refine (State.staleResponse_keeps _ _ ).after ?_ (by decide)
    | with_reducible refine (State.serveAtomic_keeps _ _ _ ).after ?_ (by decide)
    | with_reducible refine (State.serveAck_keeps _ _ ).after ?_ (by decide)
    | with_reducible refine Keeps.foldl ?_ (fun u1 _ => ?_) | (lift_lets -underBinder; intros) | split

theorem execWack_keeps (m) (s : State) :
    KeepsO 121667397 s (execWack m s) := by
  unfold execWack
  repeat' first
    | with_reducible refine KeepsO.next ?_ | with_reducible refine KeepsO.ite (fun _ => ?_) (fun _ => ?_)
    | with_reducible exact Keeps.refl _ _ | with_reducible refine Keeps.ite (fun _ => ?_) (fun _ => ?_)
    | with_reducible refine (State.takeAck_keeps _ _ _ ).after ?_ (by decide)
    | with_reducible refine (State.arrive_keeps _ _ ).after ?_ (by decide) | split

theorem execInv_keeps (m) (s : State) :
    KeepsO 257 s (execInv m s) := by
  unfold execInv
  repeat' first
    | with_reducible refine KeepsO.next ?_ | with_reducible refine KeepsO.ite (fun _ => ?_) (fun _ => ?_)
    | with_reducible exact Keeps.refl _ _ | with_reducible refine Keeps.ite (fun _ => ?_) (fun _ => ?_)
    | with_reducible refine (State.setTxs_keeps _ _ ).after ?_ (by decide)
    | with_reducible refine (State.arrive_keeps _ _ ).after ?_ (by decide)
    | with_reducible refine (State.invalL2_keeps _ _ _ _ ).after ?_ (by decide)
    | with_reducible refine (State.send_keeps _ _ ).after ?_ (by decide) | (lift_lets -underBinder; intros) | split

theorem execRetransmitTimeout_keeps (p) (q) (s : State) :
    KeepsO 4198401 s (execRetransmitTimeout p q s) := by
  unfold execRetransmitTimeout
  repeat' first
    | with_reducible refine KeepsO.next ?_ | with_reducible refine KeepsO.ite (fun _ => ?_) (fun _ => ?_)
    | with_reducible exact Keeps.refl _ _ | with_reducible refine Keeps.ite (fun _ => ?_) (fun _ => ?_)
    | with_reducible refine (State.goBack_keeps _ _ _ ).after ?_ (by decide) | split

theorem execEyeCtlAdd_keeps (n) (index) (v) (s : State) :
    KeepsO 98172751 s (execEyeCtlAdd n index v s) := by
  unfold execEyeCtlAdd
  repeat' first
    | with_reducible refine KeepsO.next ?_ | with_reducible refine KeepsO.ite (fun _ => ?_) (fun _ => ?_)
    | with_reducible exact Keeps.refl _ _ | with_reducible refine Keeps.ite (fun _ => ?_) (fun _ => ?_)
    | with_reducible refine (State.barAccess_keeps _ _ _ _ _ _ ).after ?_ (by decide) | split

theorem execSendJoin_keeps (s : State) :
    KeepsO 4225861 s (execSendJoin s) := by
  unfold execSendJoin
  repeat' first
    | with_reducible refine KeepsO.next ?_ | with_reducible refine KeepsO.ite (fun _ => ?_) (fun _ => ?_)
    | with_reducible exact Keeps.refl _ _ | with_reducible refine Keeps.ite (fun _ => ?_) (fun _ => ?_)
    | with_reducible refine (State.takeJoin_keeps _ _ _ _ _ ).after ?_ (by decide)
    | with_reducible refine (State.setJob_keeps _ _ ).after ?_ (by decide)
    | with_reducible refine (State.laceUp_keeps _ _ ).after ?_ (by decide) | (lift_lets -underBinder; intros) | split

theorem execAwlCntClear_keeps (d) (s : State) :
    KeepsO 1 s (execAwlCntClear d s) := by
  unfold execAwlCntClear
  repeat' first
    | with_reducible refine KeepsO.next ?_ | with_reducible refine KeepsO.ite (fun _ => ?_) (fun _ => ?_)
    | with_reducible exact Keeps.refl _ _ | with_reducible refine Keeps.ite (fun _ => ?_) (fun _ => ?_)
    | with_reducible refine (State.clearAwl_keeps _ _ ).after ?_ (by decide) | split

theorem execBudgetAllocate_keeps (s : State) :
    KeepsO 32768 s (execBudgetAllocate s) := by
  unfold execBudgetAllocate
  repeat' first
    | with_reducible refine KeepsO.next ?_ | with_reducible refine KeepsO.ite (fun _ => ?_) (fun _ => ?_)
    | with_reducible exact Keeps.refl _ _ | with_reducible refine Keeps.ite (fun _ => ?_) (fun _ => ?_)
    | with_reducible refine (State.setPower_keeps _ _ ).after ?_ (by decide) | (lift_lets -underBinder; intros) | split

theorem execFuseBurn_keeps (d) (ok) (s : State) :
    KeepsO 4343809 s (execFuseBurn d ok s) := by
  unfold execFuseBurn
  repeat' first
    | with_reducible refine KeepsO.next ?_ | with_reducible refine KeepsO.ite (fun _ => ?_) (fun _ => ?_)
    | with_reducible exact Keeps.refl _ _ | with_reducible refine Keeps.ite (fun _ => ?_) (fun _ => ?_)
    | with_reducible refine (State.set_keeps _ _ _ ).after ?_ (by decide)
    | with_reducible refine (State.event_keeps _ _ _ _ _ _ ).after ?_ (by decide) | (lift_lets -underBinder; intros) | split
    | refine Keeps.setSecSt ?_ (.inl (by decide)) (.inr rfl) (.inr ⟨rfl, rfl, rfl⟩) (.inr rfl)

theorem execQpTimeout_keeps (p) (q) (s : State) :
    KeepsO 4217409 s (execQpTimeout p q s) := by
  unfold execQpTimeout
  repeat' first
    | with_reducible refine KeepsO.next ?_ | with_reducible refine KeepsO.ite (fun _ => ?_) (fun _ => ?_)
    | with_reducible exact Keeps.refl _ _ | with_reducible refine Keeps.ite (fun _ => ?_) (fun _ => ?_)
    | with_reducible refine (State.qpError_keeps _ _ _ _ ).after ?_ (by decide) | (lift_lets -underBinder; intros) | split

theorem execUnsupportedMemReq_keeps (a0) (a1) (s : State) :
    KeepsO 2049 s (execUnsupportedMemReq a0 a1 s) := by
  unfold execUnsupportedMemReq
  repeat' first
    | with_reducible refine KeepsO.next ?_ | with_reducible refine KeepsO.ite (fun _ => ?_) (fun _ => ?_)
    | with_reducible exact Keeps.refl _ _ | with_reducible refine Keeps.ite (fun _ => ?_) (fun _ => ?_)
    | with_reducible refine (State.unsupported_keeps _ ).after ?_ (by decide) | split

theorem execHeartbeatSend_keeps (s : State) :
    KeepsO 4198401 s (execHeartbeatSend s) := by
  unfold execHeartbeatSend
  repeat' first
    | with_reducible refine KeepsO.next ?_ | with_reducible refine KeepsO.ite (fun _ => ?_) (fun _ => ?_)
    | with_reducible exact Keeps.refl _ _ | with_reducible refine Keeps.ite (fun _ => ?_) (fun _ => ?_)
    | with_reducible refine (State.laceDown_keeps _ _ ).after ?_ (by decide)
    | with_reducible refine (State.laceUp_keeps _ _ ).after ?_ (by decide) | (lift_lets -underBinder; intros) | split

theorem execRecover_keeps (d) (s : State) :
    KeepsO 88178501 s (execRecover d s) := by
  unfold execRecover
  repeat' first
    | with_reducible refine KeepsO.next ?_ | with_reducible refine KeepsO.ite (fun _ => ?_) (fun _ => ?_)
    | with_reducible exact Keeps.refl _ _ | with_reducible refine Keeps.ite (fun _ => ?_) (fun _ => ?_)
    | with_reducible refine (State.recoverDie_keeps _ _ ).after ?_ (by decide) | split

theorem execHwb_keeps (m) (s : State) :
    KeepsO 88112965 s (execHwb m s) := by
  unfold execHwb
  repeat' first
    | with_reducible refine KeepsO.next ?_ | with_reducible refine KeepsO.ite (fun _ => ?_) (fun _ => ?_)
    | with_reducible exact Keeps.refl _ _ | with_reducible refine Keeps.ite (fun _ => ?_) (fun _ => ?_)
    | with_reducible refine (State.takeHwb_keeps _ _ ).after ?_ (by decide)
    | with_reducible refine (State.arrive_keeps _ _ ).after ?_ (by decide) | split

theorem execThermtripShutdown_keeps (s : State) :
    KeepsO 255590399 s (execThermtripShutdown s) := by
  unfold execThermtripShutdown
  repeat' first
    | with_reducible refine KeepsO.next ?_ | with_reducible refine KeepsO.ite (fun _ => ?_) (fun _ => ?_)
    | with_reducible exact Keeps.refl _ _ | with_reducible refine Keeps.ite (fun _ => ?_) (fun _ => ?_)
    | with_reducible refine (State.setPins_keeps _ _ ).after ?_ (by decide)
    | with_reducible refine (State.losePower_keeps _ ).after ?_ (by decide) | (lift_lets -underBinder; intros) | split

theorem execPhaseByteWrite_keeps (p) (cq) (index) (s : State) :
    KeepsO 4225861 s (execPhaseByteWrite p cq index s) := by
  unfold execPhaseByteWrite
  repeat' first
    | with_reducible refine KeepsO.next ?_ | with_reducible refine KeepsO.ite (fun _ => ?_) (fun _ => ?_)
    | with_reducible exact Keeps.refl _ _ | with_reducible refine Keeps.ite (fun _ => ?_) (fun _ => ?_)
    | with_reducible refine (State.setRecords_keeps _ _ ).after ?_ (by decide)
    | with_reducible refine (State.schedWrite_keeps _ _ _ _ _ ).after ?_ (by decide) | (lift_lets -underBinder; intros)
    | split

theorem execEyeCntClear_keeps (d) (s : State) :
    KeepsO 1 s (execEyeCntClear d s) := by
  unfold execEyeCntClear
  repeat' first
    | with_reducible refine KeepsO.next ?_ | with_reducible refine KeepsO.ite (fun _ => ?_) (fun _ => ?_)
    | with_reducible exact Keeps.refl _ _ | with_reducible refine Keeps.ite (fun _ => ?_) (fun _ => ?_)
    | with_reducible refine (State.clearEye_keeps _ _ ).after ?_ (by decide) | split

theorem execAtrsp_keeps (m) (s : State) :
    KeepsO 121667397 s (execAtrsp m s) := by
  unfold execAtrsp
  repeat' first
    | with_reducible refine KeepsO.next ?_ | with_reducible refine KeepsO.ite (fun _ => ?_) (fun _ => ?_)
    | with_reducible exact Keeps.refl _ _ | with_reducible refine Keeps.ite (fun _ => ?_) (fun _ => ?_)
    | with_reducible refine (State.takeAck_keeps _ _ _ ).after ?_ (by decide)
    | with_reducible refine (State.arrive_keeps _ _ ).after ?_ (by decide) | split

theorem execL2CntClear_keeps (d) (south) (s : State) :
    KeepsO 1 s (execL2CntClear d south s) := by
  unfold execL2CntClear
  repeat' first
    | with_reducible refine KeepsO.next ?_ | with_reducible refine KeepsO.ite (fun _ => ?_) (fun _ => ?_)
    | with_reducible exact Keeps.refl _ _ | with_reducible refine Keeps.ite (fun _ => ?_) (fun _ => ?_)
    | with_reducible refine (State.clearL2_keeps _ _ _ ).after ?_ (by decide) | split

theorem execEndInstruction_keeps (t) (s : State) :
    KeepsO 37780293 s (execEndInstruction t s) := by
  unfold execEndInstruction
  repeat' first
    | with_reducible refine KeepsO.next ?_ | with_reducible refine KeepsO.ite (fun _ => ?_) (fun _ => ?_)
    | with_reducible exact Keeps.refl _ _ | with_reducible refine Keeps.ite (fun _ => ?_) (fun _ => ?_)
    | with_reducible refine (State.dropLoads_keeps _ _ ).after ?_ (by decide)
    | with_reducible refine (State.drainAll_keeps _ _ _ _ ).after ?_ (by decide)
    | with_reducible refine (State.setTile_keeps _ _ _ ).after ?_ (by decide)
    | with_reducible refine (State.checkRetire_keeps _ _ ).after ?_ (by decide)
    | with_reducible refine (State.writeBack_keeps _ _ _ _ ).after ?_ (by decide)
    | with_reducible refine Keeps.foldl ?_ (fun u1 _ => ?_) | (lift_lets -underBinder; intros) | split

theorem execUnassignedAccess_keeps (sp) (off) (write) (s : State) :
    KeepsO 98172751 s (execUnassignedAccess sp off write s) := by
  unfold execUnassignedAccess
  repeat' first
    | with_reducible refine KeepsO.next ?_ | with_reducible refine KeepsO.ite (fun _ => ?_) (fun _ => ?_)
    | with_reducible exact Keeps.refl _ _ | with_reducible refine Keeps.ite (fun _ => ?_) (fun _ => ?_)
    | with_reducible refine (State.barAccess_keeps _ _ _ _ _ _ ).after ?_ (by decide) | split

theorem execDirectoryTimeout_keeps (a0) (line) (half) (s : State) :
    KeepsO 88211277 s (execDirectoryTimeout a0 line half s) := by
  unfold execDirectoryTimeout
  repeat' first
    | with_reducible refine KeepsO.next ?_ | with_reducible refine KeepsO.ite (fun _ => ?_) (fun _ => ?_)
    | with_reducible exact Keeps.refl _ _ | with_reducible refine Keeps.ite (fun _ => ?_) (fun _ => ?_)
    | with_reducible refine (State.startDieRecovery_keeps _ _ _ ).after ?_ (by decide) | split

theorem execEnd_keeps (hostImage) (fetched) (s : State) :
    KeepsO 89751373 s (execEnd hostImage fetched s) := by
  unfold execEnd
  repeat' first
    | with_reducible refine KeepsO.next ?_ | with_reducible refine KeepsO.ite (fun _ => ?_) (fun _ => ?_)
    | with_reducible exact Keeps.refl _ _ | with_reducible refine Keeps.ite (fun _ => ?_) (fun _ => ?_)
    | with_reducible refine (State.lifeCommand_keeps _ _ _ _ ).after ?_ (by decide) | split

theorem execNarrowAccess_keeps (sp) (off) (width) (write) (v) (s : State) :
    KeepsO 98172751 s (execNarrowAccess sp off width write v s) := by
  unfold execNarrowAccess
  repeat' first
    | with_reducible refine KeepsO.next ?_ | with_reducible refine KeepsO.ite (fun _ => ?_) (fun _ => ?_)
    | with_reducible exact Keeps.refl _ _ | with_reducible refine Keeps.ite (fun _ => ?_) (fun _ => ?_)
    | with_reducible refine (State.barAccess_keeps _ _ _ _ _ _ ).after ?_ (by decide) | split

theorem execReportDeadline_keeps (s : State) :
    KeepsO 4198401 s (execReportDeadline s) := by
  unfold execReportDeadline
  repeat' first
    | with_reducible refine KeepsO.next ?_ | with_reducible refine KeepsO.ite (fun _ => ?_) (fun _ => ?_)
    | with_reducible exact Keeps.refl _ _ | with_reducible refine Keeps.ite (fun _ => ?_) (fun _ => ?_)
    | with_reducible refine (State.sendReport_keeps _ _ ).after ?_ (by decide) | split

theorem execTileHaltTimeout_keeps (t) (s : State) :
    KeepsO 4225861 s (execTileHaltTimeout t s) := by
  unfold execTileHaltTimeout
  repeat' first
    | with_reducible refine KeepsO.next ?_ | with_reducible refine KeepsO.ite (fun _ => ?_) (fun _ => ?_)
    | with_reducible exact Keeps.refl _ _ | with_reducible refine Keeps.ite (fun _ => ?_) (fun _ => ?_)
    | with_reducible refine (State.fenceTile_keeps _ _ _ _ ).after ?_ (by decide) | split

end Sys2Proof.Machine
end

