-- ==== Sys2Proof/Laws/State.lean ====
section
/-! SUPPORT. What each basic update leaves alone: one lemma for each component and update, and what a register field reads as after
a write. -/

namespace Sys2Proof.Machine

@[simp] theorem State.set_clock (s : State) (f : Fld) (v : Nat) : (s.set f v).clock = s.clock := rfl
@[simp] theorem State.set_cfg (s : State) (f : Fld) (v : Nat) : (s.set f v).cfg = s.cfg := rfl
@[simp] theorem State.set_ldr (s : State) (f : Fld) (v : Nat) : (s.set f v).ldr = s.ldr := rfl
@[simp] theorem State.set_dev (s : State) (f : Fld) (v : Nat) : (s.set f v).dev = s.dev := rfl
@[simp] theorem State.set_lasts (s : State) (f : Fld) (v : Nat) : (s.set f v).lasts = s.lasts := rfl
@[simp] theorem State.set_tile (s : State) (f : Fld) (v : Nat) : (s.set f v).tile = s.tile := rfl
@[simp] theorem State.set_mesh (s : State) (f : Fld) (v : Nat) : (s.set f v).mesh = s.mesh := rfl
@[simp] theorem State.set_coh (s : State) (f : Fld) (v : Nat) : (s.set f v).coh = s.coh := rfl
@[simp] theorem State.set_eyelets (s : State) (f : Fld) (v : Nat) : (s.set f v).eyelets = s.eyelets := rfl
@[simp] theorem State.set_dram (s : State) (f : Fld) (v : Nat) : (s.set f v).dram = s.dram := rfl
@[simp] theorem State.set_uci (s : State) (f : Fld) (v : Nat) : (s.set f v).uci = s.uci := rfl
@[simp] theorem State.set_outer (s : State) (f : Fld) (v : Nat) : (s.set f v).outer = s.outer := rfl
@[simp] theorem State.set_part (s : State) (f : Fld) (v : Nat) : (s.set f v).part = s.part := rfl
@[simp] theorem State.set_flt (s : State) (f : Fld) (v : Nat) : (s.set f v).flt = s.flt := rfl
@[simp] theorem State.set_power (s : State) (f : Fld) (v : Nat) : (s.set f v).power = s.power := rfl
@[simp] theorem State.set_awl (s : State) (f : Fld) (v : Nat) : (s.set f v).awl = s.awl := rfl
@[simp] theorem State.set_sec (s : State) (f : Fld) (v : Nat) : (s.set f v).sec = s.sec := rfl
@[simp] theorem State.set_pins (s : State) (f : Fld) (v : Nat) : (s.set f v).pins = s.pins := rfl
@[simp] theorem State.set_out (s : State) (f : Fld) (v : Nat) : (s.set f v).out = s.out := rfl
@[simp] theorem State.set_lastRead (s : State) (f : Fld) (v : Nat) : (s.set f v).lastRead = s.lastRead := rfl
@[simp] theorem State.set_free (s : State) (f : Fld) (v : Nat) : (s.set f v).free = s.free := rfl
@[simp] theorem State.set_pending (s : State) (f : Fld) (v : Nat) : (s.set f v).pending = s.pending := rfl

@[simp] theorem State.emit_regs (s : State) (o : Out) : (s.emit o).regs = s.regs := rfl
@[simp] theorem State.emit_clock (s : State) (o : Out) : (s.emit o).clock = s.clock := rfl
@[simp] theorem State.emit_cfg (s : State) (o : Out) : (s.emit o).cfg = s.cfg := rfl
@[simp] theorem State.emit_ldr (s : State) (o : Out) : (s.emit o).ldr = s.ldr := rfl
@[simp] theorem State.emit_dev (s : State) (o : Out) : (s.emit o).dev = s.dev := rfl
@[simp] theorem State.emit_lasts (s : State) (o : Out) : (s.emit o).lasts = s.lasts := rfl
@[simp] theorem State.emit_tile (s : State) (o : Out) : (s.emit o).tile = s.tile := rfl
@[simp] theorem State.emit_mesh (s : State) (o : Out) : (s.emit o).mesh = s.mesh := rfl
@[simp] theorem State.emit_coh (s : State) (o : Out) : (s.emit o).coh = s.coh := rfl
@[simp] theorem State.emit_eyelets (s : State) (o : Out) : (s.emit o).eyelets = s.eyelets := rfl
@[simp] theorem State.emit_dram (s : State) (o : Out) : (s.emit o).dram = s.dram := rfl
@[simp] theorem State.emit_uci (s : State) (o : Out) : (s.emit o).uci = s.uci := rfl
@[simp] theorem State.emit_outer (s : State) (o : Out) : (s.emit o).outer = s.outer := rfl
@[simp] theorem State.emit_part (s : State) (o : Out) : (s.emit o).part = s.part := rfl
@[simp] theorem State.emit_flt (s : State) (o : Out) : (s.emit o).flt = s.flt := rfl
@[simp] theorem State.emit_power (s : State) (o : Out) : (s.emit o).power = s.power := rfl
@[simp] theorem State.emit_awl (s : State) (o : Out) : (s.emit o).awl = s.awl := rfl
@[simp] theorem State.emit_sec (s : State) (o : Out) : (s.emit o).sec = s.sec := rfl
@[simp] theorem State.emit_pins (s : State) (o : Out) : (s.emit o).pins = s.pins := rfl
@[simp] theorem State.emit_lastRead (s : State) (o : Out) : (s.emit o).lastRead = s.lastRead := rfl
@[simp] theorem State.emit_free (s : State) (o : Out) : (s.emit o).free = s.free := rfl
@[simp] theorem State.emit_pending (s : State) (o : Out) : (s.emit o).pending = s.pending := rfl

@[simp] theorem State.setVector_regs (s : State) (fn vec : Nat) (v : Vector) : (s.setVector fn vec v).regs = s.regs := rfl
@[simp] theorem State.setVector_clock (s : State) (fn vec : Nat) (v : Vector) : (s.setVector fn vec v).clock = s.clock := rfl
@[simp] theorem State.setVector_cfg (s : State) (fn vec : Nat) (v : Vector) : (s.setVector fn vec v).cfg = s.cfg := rfl
@[simp] theorem State.setVector_ldr (s : State) (fn vec : Nat) (v : Vector) : (s.setVector fn vec v).ldr = s.ldr := rfl
@[simp] theorem State.setVector_dev (s : State) (fn vec : Nat) (v : Vector) : (s.setVector fn vec v).dev = s.dev := rfl
@[simp] theorem State.setVector_lasts (s : State) (fn vec : Nat) (v : Vector) : (s.setVector fn vec v).lasts = s.lasts := rfl
@[simp] theorem State.setVector_tile (s : State) (fn vec : Nat) (v : Vector) : (s.setVector fn vec v).tile = s.tile := rfl
@[simp] theorem State.setVector_mesh (s : State) (fn vec : Nat) (v : Vector) : (s.setVector fn vec v).mesh = s.mesh := rfl
@[simp] theorem State.setVector_coh (s : State) (fn vec : Nat) (v : Vector) : (s.setVector fn vec v).coh = s.coh := rfl
@[simp] theorem State.setVector_eyelets (s : State) (fn vec : Nat) (v : Vector) : (s.setVector fn vec v).eyelets = s.eyelets := rfl
@[simp] theorem State.setVector_dram (s : State) (fn vec : Nat) (v : Vector) : (s.setVector fn vec v).dram = s.dram := rfl
@[simp] theorem State.setVector_outer (s : State) (fn vec : Nat) (v : Vector) : (s.setVector fn vec v).outer = s.outer := rfl
@[simp] theorem State.setVector_part (s : State) (fn vec : Nat) (v : Vector) : (s.setVector fn vec v).part = s.part := rfl
@[simp] theorem State.setVector_flt (s : State) (fn vec : Nat) (v : Vector) : (s.setVector fn vec v).flt = s.flt := rfl
@[simp] theorem State.setVector_power (s : State) (fn vec : Nat) (v : Vector) : (s.setVector fn vec v).power = s.power := rfl
@[simp] theorem State.setVector_awl (s : State) (fn vec : Nat) (v : Vector) : (s.setVector fn vec v).awl = s.awl := rfl
@[simp] theorem State.setVector_sec (s : State) (fn vec : Nat) (v : Vector) : (s.setVector fn vec v).sec = s.sec := rfl
@[simp] theorem State.setVector_pins (s : State) (fn vec : Nat) (v : Vector) : (s.setVector fn vec v).pins = s.pins := rfl
@[simp] theorem State.setVector_out (s : State) (fn vec : Nat) (v : Vector) : (s.setVector fn vec v).out = s.out := rfl
@[simp] theorem State.setVector_lastRead (s : State) (fn vec : Nat) (v : Vector) : (s.setVector fn vec v).lastRead = s.lastRead := rfl
@[simp] theorem State.setVector_free (s : State) (fn vec : Nat) (v : Vector) : (s.setVector fn vec v).free = s.free := rfl
@[simp] theorem State.setVector_pending (s : State) (fn vec : Nat) (v : Vector) : (s.setVector fn vec v).pending = s.pending := rfl

@[simp] theorem State.setPartSt_regs (s : State) (p : Nat) (x : PartSt) : (s.setPartSt p x).regs = s.regs := rfl
@[simp] theorem State.setPartSt_clock (s : State) (p : Nat) (x : PartSt) : (s.setPartSt p x).clock = s.clock := rfl
@[simp] theorem State.setPartSt_cfg (s : State) (p : Nat) (x : PartSt) : (s.setPartSt p x).cfg = s.cfg := rfl
@[simp] theorem State.setPartSt_ldr (s : State) (p : Nat) (x : PartSt) : (s.setPartSt p x).ldr = s.ldr := rfl
@[simp] theorem State.setPartSt_dev (s : State) (p : Nat) (x : PartSt) : (s.setPartSt p x).dev = s.dev := rfl
@[simp] theorem State.setPartSt_lasts (s : State) (p : Nat) (x : PartSt) : (s.setPartSt p x).lasts = s.lasts := rfl
@[simp] theorem State.setPartSt_tile (s : State) (p : Nat) (x : PartSt) : (s.setPartSt p x).tile = s.tile := rfl
@[simp] theorem State.setPartSt_mesh (s : State) (p : Nat) (x : PartSt) : (s.setPartSt p x).mesh = s.mesh := rfl
@[simp] theorem State.setPartSt_coh (s : State) (p : Nat) (x : PartSt) : (s.setPartSt p x).coh = s.coh := rfl
@[simp] theorem State.setPartSt_eyelets (s : State) (p : Nat) (x : PartSt) : (s.setPartSt p x).eyelets = s.eyelets := rfl
@[simp] theorem State.setPartSt_dram (s : State) (p : Nat) (x : PartSt) : (s.setPartSt p x).dram = s.dram := rfl
@[simp] theorem State.setPartSt_uci (s : State) (p : Nat) (x : PartSt) : (s.setPartSt p x).uci = s.uci := rfl
@[simp] theorem State.setPartSt_outer (s : State) (p : Nat) (x : PartSt) : (s.setPartSt p x).outer = s.outer := rfl
@[simp] theorem State.setPartSt_flt (s : State) (p : Nat) (x : PartSt) : (s.setPartSt p x).flt = s.flt := rfl
@[simp] theorem State.setPartSt_power (s : State) (p : Nat) (x : PartSt) : (s.setPartSt p x).power = s.power := rfl
@[simp] theorem State.setPartSt_awl (s : State) (p : Nat) (x : PartSt) : (s.setPartSt p x).awl = s.awl := rfl
@[simp] theorem State.setPartSt_sec (s : State) (p : Nat) (x : PartSt) : (s.setPartSt p x).sec = s.sec := rfl
@[simp] theorem State.setPartSt_pins (s : State) (p : Nat) (x : PartSt) : (s.setPartSt p x).pins = s.pins := rfl
@[simp] theorem State.setPartSt_out (s : State) (p : Nat) (x : PartSt) : (s.setPartSt p x).out = s.out := rfl
@[simp] theorem State.setPartSt_lastRead (s : State) (p : Nat) (x : PartSt) : (s.setPartSt p x).lastRead = s.lastRead := rfl
@[simp] theorem State.setPartSt_free (s : State) (p : Nat) (x : PartSt) : (s.setPartSt p x).free = s.free := rfl
@[simp] theorem State.setPartSt_pending (s : State) (p : Nat) (x : PartSt) : (s.setPartSt p x).pending = s.pending := rfl

@[simp] theorem State.setTile_regs (s : State) (t : Nat) (x : Tile) : (s.setTile t x).regs = s.regs := rfl
@[simp] theorem State.setTile_clock (s : State) (t : Nat) (x : Tile) : (s.setTile t x).clock = s.clock := rfl
@[simp] theorem State.setTile_cfg (s : State) (t : Nat) (x : Tile) : (s.setTile t x).cfg = s.cfg := rfl
@[simp] theorem State.setTile_ldr (s : State) (t : Nat) (x : Tile) : (s.setTile t x).ldr = s.ldr := rfl
@[simp] theorem State.setTile_dev (s : State) (t : Nat) (x : Tile) : (s.setTile t x).dev = s.dev := rfl
@[simp] theorem State.setTile_lasts (s : State) (t : Nat) (x : Tile) : (s.setTile t x).lasts = s.lasts := rfl
@[simp] theorem State.setTile_mesh (s : State) (t : Nat) (x : Tile) : (s.setTile t x).mesh = s.mesh := rfl
@[simp] theorem State.setTile_coh (s : State) (t : Nat) (x : Tile) : (s.setTile t x).coh = s.coh := rfl
@[simp] theorem State.setTile_eyelets (s : State) (t : Nat) (x : Tile) : (s.setTile t x).eyelets = s.eyelets := rfl
@[simp] theorem State.setTile_dram (s : State) (t : Nat) (x : Tile) : (s.setTile t x).dram = s.dram := rfl
@[simp] theorem State.setTile_uci (s : State) (t : Nat) (x : Tile) : (s.setTile t x).uci = s.uci := rfl
@[simp] theorem State.setTile_outer (s : State) (t : Nat) (x : Tile) : (s.setTile t x).outer = s.outer := rfl
@[simp] theorem State.setTile_part (s : State) (t : Nat) (x : Tile) : (s.setTile t x).part = s.part := rfl
@[simp] theorem State.setTile_flt (s : State) (t : Nat) (x : Tile) : (s.setTile t x).flt = s.flt := rfl
@[simp] theorem State.setTile_power (s : State) (t : Nat) (x : Tile) : (s.setTile t x).power = s.power := rfl
@[simp] theorem State.setTile_awl (s : State) (t : Nat) (x : Tile) : (s.setTile t x).awl = s.awl := rfl
@[simp] theorem State.setTile_sec (s : State) (t : Nat) (x : Tile) : (s.setTile t x).sec = s.sec := rfl
@[simp] theorem State.setTile_pins (s : State) (t : Nat) (x : Tile) : (s.setTile t x).pins = s.pins := rfl
@[simp] theorem State.setTile_out (s : State) (t : Nat) (x : Tile) : (s.setTile t x).out = s.out := rfl
@[simp] theorem State.setTile_lastRead (s : State) (t : Nat) (x : Tile) : (s.setTile t x).lastRead = s.lastRead := rfl
@[simp] theorem State.setTile_free (s : State) (t : Nat) (x : Tile) : (s.setTile t x).free = s.free := rfl
@[simp] theorem State.setTile_pending (s : State) (t : Nat) (x : Tile) : (s.setTile t x).pending = s.pending := rfl

@[simp] theorem State.setGroup_regs (s : State) (t g : Nat) (x : Group) : (s.setGroup t g x).regs = s.regs := rfl
@[simp] theorem State.setGroup_clock (s : State) (t g : Nat) (x : Group) : (s.setGroup t g x).clock = s.clock := rfl
@[simp] theorem State.setGroup_cfg (s : State) (t g : Nat) (x : Group) : (s.setGroup t g x).cfg = s.cfg := rfl
@[simp] theorem State.setGroup_ldr (s : State) (t g : Nat) (x : Group) : (s.setGroup t g x).ldr = s.ldr := rfl
@[simp] theorem State.setGroup_dev (s : State) (t g : Nat) (x : Group) : (s.setGroup t g x).dev = s.dev := rfl
@[simp] theorem State.setGroup_lasts (s : State) (t g : Nat) (x : Group) : (s.setGroup t g x).lasts = s.lasts := rfl
@[simp] theorem State.setGroup_mesh (s : State) (t g : Nat) (x : Group) : (s.setGroup t g x).mesh = s.mesh := rfl
@[simp] theorem State.setGroup_coh (s : State) (t g : Nat) (x : Group) : (s.setGroup t g x).coh = s.coh := rfl
@[simp] theorem State.setGroup_eyelets (s : State) (t g : Nat) (x : Group) : (s.setGroup t g x).eyelets = s.eyelets := rfl
@[simp] theorem State.setGroup_dram (s : State) (t g : Nat) (x : Group) : (s.setGroup t g x).dram = s.dram := rfl
@[simp] theorem State.setGroup_uci (s : State) (t g : Nat) (x : Group) : (s.setGroup t g x).uci = s.uci := rfl
@[simp] theorem State.setGroup_outer (s : State) (t g : Nat) (x : Group) : (s.setGroup t g x).outer = s.outer := rfl
@[simp] theorem State.setGroup_part (s : State) (t g : Nat) (x : Group) : (s.setGroup t g x).part = s.part := rfl
@[simp] theorem State.setGroup_flt (s : State) (t g : Nat) (x : Group) : (s.setGroup t g x).flt = s.flt := rfl
@[simp] theorem State.setGroup_power (s : State) (t g : Nat) (x : Group) : (s.setGroup t g x).power = s.power := rfl
@[simp] theorem State.setGroup_awl (s : State) (t g : Nat) (x : Group) : (s.setGroup t g x).awl = s.awl := rfl
@[simp] theorem State.setGroup_sec (s : State) (t g : Nat) (x : Group) : (s.setGroup t g x).sec = s.sec := rfl
@[simp] theorem State.setGroup_pins (s : State) (t g : Nat) (x : Group) : (s.setGroup t g x).pins = s.pins := rfl
@[simp] theorem State.setGroup_out (s : State) (t g : Nat) (x : Group) : (s.setGroup t g x).out = s.out := rfl
@[simp] theorem State.setGroup_lastRead (s : State) (t g : Nat) (x : Group) : (s.setGroup t g x).lastRead = s.lastRead := rfl
@[simp] theorem State.setGroup_free (s : State) (t g : Nat) (x : Group) : (s.setGroup t g x).free = s.free := rfl
@[simp] theorem State.setGroup_pending (s : State) (t g : Nat) (x : Group) : (s.setGroup t g x).pending = s.pending := rfl

@[simp] theorem State.setTask_regs (s : State) (k : Task) : (s.setTask k).regs = s.regs := rfl
@[simp] theorem State.setTask_clock (s : State) (k : Task) : (s.setTask k).clock = s.clock := rfl
@[simp] theorem State.setTask_cfg (s : State) (k : Task) : (s.setTask k).cfg = s.cfg := rfl
@[simp] theorem State.setTask_ldr (s : State) (k : Task) : (s.setTask k).ldr = s.ldr := rfl
@[simp] theorem State.setTask_dev (s : State) (k : Task) : (s.setTask k).dev = s.dev := rfl
@[simp] theorem State.setTask_lasts (s : State) (k : Task) : (s.setTask k).lasts = s.lasts := rfl
@[simp] theorem State.setTask_mesh (s : State) (k : Task) : (s.setTask k).mesh = s.mesh := rfl
@[simp] theorem State.setTask_coh (s : State) (k : Task) : (s.setTask k).coh = s.coh := rfl
@[simp] theorem State.setTask_eyelets (s : State) (k : Task) : (s.setTask k).eyelets = s.eyelets := rfl
@[simp] theorem State.setTask_dram (s : State) (k : Task) : (s.setTask k).dram = s.dram := rfl
@[simp] theorem State.setTask_uci (s : State) (k : Task) : (s.setTask k).uci = s.uci := rfl
@[simp] theorem State.setTask_outer (s : State) (k : Task) : (s.setTask k).outer = s.outer := rfl
@[simp] theorem State.setTask_part (s : State) (k : Task) : (s.setTask k).part = s.part := rfl
@[simp] theorem State.setTask_flt (s : State) (k : Task) : (s.setTask k).flt = s.flt := rfl
@[simp] theorem State.setTask_power (s : State) (k : Task) : (s.setTask k).power = s.power := rfl
@[simp] theorem State.setTask_awl (s : State) (k : Task) : (s.setTask k).awl = s.awl := rfl
@[simp] theorem State.setTask_sec (s : State) (k : Task) : (s.setTask k).sec = s.sec := rfl
@[simp] theorem State.setTask_pins (s : State) (k : Task) : (s.setTask k).pins = s.pins := rfl
@[simp] theorem State.setTask_out (s : State) (k : Task) : (s.setTask k).out = s.out := rfl
@[simp] theorem State.setTask_lastRead (s : State) (k : Task) : (s.setTask k).lastRead = s.lastRead := rfl
@[simp] theorem State.setTask_free (s : State) (k : Task) : (s.setTask k).free = s.free := rfl
@[simp] theorem State.setTask_pending (s : State) (k : Task) : (s.setTask k).pending = s.pending := rfl

@[simp] theorem State.setEye_regs (s : State) (e : Nat) (v : Eyelet) : (s.setEye e v).regs = s.regs := rfl
@[simp] theorem State.setEye_clock (s : State) (e : Nat) (v : Eyelet) : (s.setEye e v).clock = s.clock := rfl
@[simp] theorem State.setEye_cfg (s : State) (e : Nat) (v : Eyelet) : (s.setEye e v).cfg = s.cfg := rfl
@[simp] theorem State.setEye_ldr (s : State) (e : Nat) (v : Eyelet) : (s.setEye e v).ldr = s.ldr := rfl
@[simp] theorem State.setEye_dev (s : State) (e : Nat) (v : Eyelet) : (s.setEye e v).dev = s.dev := rfl
@[simp] theorem State.setEye_lasts (s : State) (e : Nat) (v : Eyelet) : (s.setEye e v).lasts = s.lasts := rfl
@[simp] theorem State.setEye_tile (s : State) (e : Nat) (v : Eyelet) : (s.setEye e v).tile = s.tile := rfl
@[simp] theorem State.setEye_mesh (s : State) (e : Nat) (v : Eyelet) : (s.setEye e v).mesh = s.mesh := rfl
@[simp] theorem State.setEye_coh (s : State) (e : Nat) (v : Eyelet) : (s.setEye e v).coh = s.coh := rfl
@[simp] theorem State.setEye_dram (s : State) (e : Nat) (v : Eyelet) : (s.setEye e v).dram = s.dram := rfl
@[simp] theorem State.setEye_uci (s : State) (e : Nat) (v : Eyelet) : (s.setEye e v).uci = s.uci := rfl
@[simp] theorem State.setEye_outer (s : State) (e : Nat) (v : Eyelet) : (s.setEye e v).outer = s.outer := rfl
@[simp] theorem State.setEye_part (s : State) (e : Nat) (v : Eyelet) : (s.setEye e v).part = s.part := rfl
@[simp] theorem State.setEye_flt (s : State) (e : Nat) (v : Eyelet) : (s.setEye e v).flt = s.flt := rfl
@[simp] theorem State.setEye_power (s : State) (e : Nat) (v : Eyelet) : (s.setEye e v).power = s.power := rfl
@[simp] theorem State.setEye_awl (s : State) (e : Nat) (v : Eyelet) : (s.setEye e v).awl = s.awl := rfl
@[simp] theorem State.setEye_sec (s : State) (e : Nat) (v : Eyelet) : (s.setEye e v).sec = s.sec := rfl
@[simp] theorem State.setEye_pins (s : State) (e : Nat) (v : Eyelet) : (s.setEye e v).pins = s.pins := rfl
@[simp] theorem State.setEye_out (s : State) (e : Nat) (v : Eyelet) : (s.setEye e v).out = s.out := rfl
@[simp] theorem State.setEye_lastRead (s : State) (e : Nat) (v : Eyelet) : (s.setEye e v).lastRead = s.lastRead := rfl
@[simp] theorem State.setEye_free (s : State) (e : Nat) (v : Eyelet) : (s.setEye e v).free = s.free := rfl
@[simp] theorem State.setEye_pending (s : State) (e : Nat) (v : Eyelet) : (s.setEye e v).pending = s.pending := rfl

@[simp] theorem State.scratchWrite_regs (s : State) (t off : Nat) (bs : List Byte) : (s.scratchWrite t off bs).regs = s.regs := rfl
@[simp] theorem State.scratchWrite_clock (s : State) (t off : Nat) (bs : List Byte) : (s.scratchWrite t off bs).clock = s.clock := rfl
@[simp] theorem State.scratchWrite_cfg (s : State) (t off : Nat) (bs : List Byte) : (s.scratchWrite t off bs).cfg = s.cfg := rfl
@[simp] theorem State.scratchWrite_ldr (s : State) (t off : Nat) (bs : List Byte) : (s.scratchWrite t off bs).ldr = s.ldr := rfl
@[simp] theorem State.scratchWrite_dev (s : State) (t off : Nat) (bs : List Byte) : (s.scratchWrite t off bs).dev = s.dev := rfl
@[simp] theorem State.scratchWrite_lasts (s : State) (t off : Nat) (bs : List Byte) : (s.scratchWrite t off bs).lasts = s.lasts := rfl
@[simp] theorem State.scratchWrite_mesh (s : State) (t off : Nat) (bs : List Byte) : (s.scratchWrite t off bs).mesh = s.mesh := rfl
@[simp] theorem State.scratchWrite_coh (s : State) (t off : Nat) (bs : List Byte) : (s.scratchWrite t off bs).coh = s.coh := rfl
@[simp] theorem State.scratchWrite_eyelets (s : State) (t off : Nat) (bs : List Byte) : (s.scratchWrite t off bs).eyelets = s.eyelets := rfl
@[simp] theorem State.scratchWrite_dram (s : State) (t off : Nat) (bs : List Byte) : (s.scratchWrite t off bs).dram = s.dram := rfl
@[simp] theorem State.scratchWrite_uci (s : State) (t off : Nat) (bs : List Byte) : (s.scratchWrite t off bs).uci = s.uci := rfl
@[simp] theorem State.scratchWrite_outer (s : State) (t off : Nat) (bs : List Byte) : (s.scratchWrite t off bs).outer = s.outer := rfl
@[simp] theorem State.scratchWrite_part (s : State) (t off : Nat) (bs : List Byte) : (s.scratchWrite t off bs).part = s.part := rfl
@[simp] theorem State.scratchWrite_flt (s : State) (t off : Nat) (bs : List Byte) : (s.scratchWrite t off bs).flt = s.flt := rfl
@[simp] theorem State.scratchWrite_power (s : State) (t off : Nat) (bs : List Byte) : (s.scratchWrite t off bs).power = s.power := rfl
@[simp] theorem State.scratchWrite_awl (s : State) (t off : Nat) (bs : List Byte) : (s.scratchWrite t off bs).awl = s.awl := rfl
@[simp] theorem State.scratchWrite_sec (s : State) (t off : Nat) (bs : List Byte) : (s.scratchWrite t off bs).sec = s.sec := rfl
@[simp] theorem State.scratchWrite_pins (s : State) (t off : Nat) (bs : List Byte) : (s.scratchWrite t off bs).pins = s.pins := rfl
@[simp] theorem State.scratchWrite_out (s : State) (t off : Nat) (bs : List Byte) : (s.scratchWrite t off bs).out = s.out := rfl
@[simp] theorem State.scratchWrite_lastRead (s : State) (t off : Nat) (bs : List Byte) : (s.scratchWrite t off bs).lastRead = s.lastRead := rfl
@[simp] theorem State.scratchWrite_free (s : State) (t off : Nat) (bs : List Byte) : (s.scratchWrite t off bs).free = s.free := rfl
@[simp] theorem State.scratchWrite_pending (s : State) (t off : Nat) (bs : List Byte) : (s.scratchWrite t off bs).pending = s.pending := rfl

@[simp] theorem State.scratchWriteMasked_regs (s : State) (t off mask : Nat) (bs : List Byte) : (s.scratchWriteMasked t off mask bs).regs = s.regs := rfl
@[simp] theorem State.scratchWriteMasked_clock (s : State) (t off mask : Nat) (bs : List Byte) : (s.scratchWriteMasked t off mask bs).clock = s.clock := rfl
@[simp] theorem State.scratchWriteMasked_cfg (s : State) (t off mask : Nat) (bs : List Byte) : (s.scratchWriteMasked t off mask bs).cfg = s.cfg := rfl
@[simp] theorem State.scratchWriteMasked_ldr (s : State) (t off mask : Nat) (bs : List Byte) : (s.scratchWriteMasked t off mask bs).ldr = s.ldr := rfl
@[simp] theorem State.scratchWriteMasked_dev (s : State) (t off mask : Nat) (bs : List Byte) : (s.scratchWriteMasked t off mask bs).dev = s.dev := rfl
@[simp] theorem State.scratchWriteMasked_lasts (s : State) (t off mask : Nat) (bs : List Byte) : (s.scratchWriteMasked t off mask bs).lasts = s.lasts := rfl
@[simp] theorem State.scratchWriteMasked_mesh (s : State) (t off mask : Nat) (bs : List Byte) : (s.scratchWriteMasked t off mask bs).mesh = s.mesh := rfl
@[simp] theorem State.scratchWriteMasked_coh (s : State) (t off mask : Nat) (bs : List Byte) : (s.scratchWriteMasked t off mask bs).coh = s.coh := rfl
@[simp] theorem State.scratchWriteMasked_eyelets (s : State) (t off mask : Nat) (bs : List Byte) : (s.scratchWriteMasked t off mask bs).eyelets = s.eyelets := rfl
@[simp] theorem State.scratchWriteMasked_dram (s : State) (t off mask : Nat) (bs : List Byte) : (s.scratchWriteMasked t off mask bs).dram = s.dram := rfl
@[simp] theorem State.scratchWriteMasked_uci (s : State) (t off mask : Nat) (bs : List Byte) : (s.scratchWriteMasked t off mask bs).uci = s.uci := rfl
@[simp] theorem State.scratchWriteMasked_outer (s : State) (t off mask : Nat) (bs : List Byte) : (s.scratchWriteMasked t off mask bs).outer = s.outer := rfl
@[simp] theorem State.scratchWriteMasked_part (s : State) (t off mask : Nat) (bs : List Byte) : (s.scratchWriteMasked t off mask bs).part = s.part := rfl
@[simp] theorem State.scratchWriteMasked_flt (s : State) (t off mask : Nat) (bs : List Byte) : (s.scratchWriteMasked t off mask bs).flt = s.flt := rfl
@[simp] theorem State.scratchWriteMasked_power (s : State) (t off mask : Nat) (bs : List Byte) : (s.scratchWriteMasked t off mask bs).power = s.power := rfl
@[simp] theorem State.scratchWriteMasked_awl (s : State) (t off mask : Nat) (bs : List Byte) : (s.scratchWriteMasked t off mask bs).awl = s.awl := rfl
@[simp] theorem State.scratchWriteMasked_sec (s : State) (t off mask : Nat) (bs : List Byte) : (s.scratchWriteMasked t off mask bs).sec = s.sec := rfl
@[simp] theorem State.scratchWriteMasked_pins (s : State) (t off mask : Nat) (bs : List Byte) : (s.scratchWriteMasked t off mask bs).pins = s.pins := rfl
@[simp] theorem State.scratchWriteMasked_out (s : State) (t off mask : Nat) (bs : List Byte) : (s.scratchWriteMasked t off mask bs).out = s.out := rfl
@[simp] theorem State.scratchWriteMasked_lastRead (s : State) (t off mask : Nat) (bs : List Byte) : (s.scratchWriteMasked t off mask bs).lastRead = s.lastRead := rfl
@[simp] theorem State.scratchWriteMasked_free (s : State) (t off mask : Nat) (bs : List Byte) : (s.scratchWriteMasked t off mask bs).free = s.free := rfl
@[simp] theorem State.scratchWriteMasked_pending (s : State) (t off mask : Nat) (bs : List Byte) : (s.scratchWriteMasked t off mask bs).pending = s.pending := rfl

@[simp] theorem State.scratchZero_regs (s : State) (t : Nat) : (s.scratchZero t).regs = s.regs := rfl
@[simp] theorem State.scratchZero_clock (s : State) (t : Nat) : (s.scratchZero t).clock = s.clock := rfl
@[simp] theorem State.scratchZero_cfg (s : State) (t : Nat) : (s.scratchZero t).cfg = s.cfg := rfl
@[simp] theorem State.scratchZero_ldr (s : State) (t : Nat) : (s.scratchZero t).ldr = s.ldr := rfl
@[simp] theorem State.scratchZero_dev (s : State) (t : Nat) : (s.scratchZero t).dev = s.dev := rfl
@[simp] theorem State.scratchZero_lasts (s : State) (t : Nat) : (s.scratchZero t).lasts = s.lasts := rfl
@[simp] theorem State.scratchZero_mesh (s : State) (t : Nat) : (s.scratchZero t).mesh = s.mesh := rfl
@[simp] theorem State.scratchZero_coh (s : State) (t : Nat) : (s.scratchZero t).coh = s.coh := rfl
@[simp] theorem State.scratchZero_eyelets (s : State) (t : Nat) : (s.scratchZero t).eyelets = s.eyelets := rfl
@[simp] theorem State.scratchZero_dram (s : State) (t : Nat) : (s.scratchZero t).dram = s.dram := rfl
@[simp] theorem State.scratchZero_uci (s : State) (t : Nat) : (s.scratchZero t).uci = s.uci := rfl
@[simp] theorem State.scratchZero_outer (s : State) (t : Nat) : (s.scratchZero t).outer = s.outer := rfl
@[simp] theorem State.scratchZero_part (s : State) (t : Nat) : (s.scratchZero t).part = s.part := rfl
@[simp] theorem State.scratchZero_flt (s : State) (t : Nat) : (s.scratchZero t).flt = s.flt := rfl
@[simp] theorem State.scratchZero_power (s : State) (t : Nat) : (s.scratchZero t).power = s.power := rfl
@[simp] theorem State.scratchZero_awl (s : State) (t : Nat) : (s.scratchZero t).awl = s.awl := rfl
@[simp] theorem State.scratchZero_sec (s : State) (t : Nat) : (s.scratchZero t).sec = s.sec := rfl
@[simp] theorem State.scratchZero_pins (s : State) (t : Nat) : (s.scratchZero t).pins = s.pins := rfl
@[simp] theorem State.scratchZero_out (s : State) (t : Nat) : (s.scratchZero t).out = s.out := rfl
@[simp] theorem State.scratchZero_lastRead (s : State) (t : Nat) : (s.scratchZero t).lastRead = s.lastRead := rfl
@[simp] theorem State.scratchZero_free (s : State) (t : Nat) : (s.scratchZero t).free = s.free := rfl
@[simp] theorem State.scratchZero_pending (s : State) (t : Nat) : (s.scratchZero t).pending = s.pending := rfl

@[simp] theorem State.send_regs (s : State) (m : Msg) : (s.send m).regs = s.regs := rfl
@[simp] theorem State.send_clock (s : State) (m : Msg) : (s.send m).clock = s.clock := rfl
@[simp] theorem State.send_cfg (s : State) (m : Msg) : (s.send m).cfg = s.cfg := rfl
@[simp] theorem State.send_ldr (s : State) (m : Msg) : (s.send m).ldr = s.ldr := rfl
@[simp] theorem State.send_dev (s : State) (m : Msg) : (s.send m).dev = s.dev := rfl
@[simp] theorem State.send_lasts (s : State) (m : Msg) : (s.send m).lasts = s.lasts := rfl
@[simp] theorem State.send_tile (s : State) (m : Msg) : (s.send m).tile = s.tile := rfl
@[simp] theorem State.send_mesh (s : State) (m : Msg) : (s.send m).mesh = s.mesh := rfl
@[simp] theorem State.send_eyelets (s : State) (m : Msg) : (s.send m).eyelets = s.eyelets := rfl
@[simp] theorem State.send_dram (s : State) (m : Msg) : (s.send m).dram = s.dram := rfl
@[simp] theorem State.send_uci (s : State) (m : Msg) : (s.send m).uci = s.uci := rfl
@[simp] theorem State.send_outer (s : State) (m : Msg) : (s.send m).outer = s.outer := rfl
@[simp] theorem State.send_part (s : State) (m : Msg) : (s.send m).part = s.part := rfl
@[simp] theorem State.send_flt (s : State) (m : Msg) : (s.send m).flt = s.flt := rfl
@[simp] theorem State.send_power (s : State) (m : Msg) : (s.send m).power = s.power := rfl
@[simp] theorem State.send_awl (s : State) (m : Msg) : (s.send m).awl = s.awl := rfl
@[simp] theorem State.send_sec (s : State) (m : Msg) : (s.send m).sec = s.sec := rfl
@[simp] theorem State.send_pins (s : State) (m : Msg) : (s.send m).pins = s.pins := rfl
@[simp] theorem State.send_out (s : State) (m : Msg) : (s.send m).out = s.out := rfl
@[simp] theorem State.send_lastRead (s : State) (m : Msg) : (s.send m).lastRead = s.lastRead := rfl
@[simp] theorem State.send_free (s : State) (m : Msg) : (s.send m).free = s.free := rfl
@[simp] theorem State.send_pending (s : State) (m : Msg) : (s.send m).pending = s.pending := rfl

@[simp] theorem State.arrive_regs (s : State) (m : Msg) : (s.arrive m).regs = s.regs := rfl
@[simp] theorem State.arrive_clock (s : State) (m : Msg) : (s.arrive m).clock = s.clock := rfl
@[simp] theorem State.arrive_cfg (s : State) (m : Msg) : (s.arrive m).cfg = s.cfg := rfl
@[simp] theorem State.arrive_ldr (s : State) (m : Msg) : (s.arrive m).ldr = s.ldr := rfl
@[simp] theorem State.arrive_dev (s : State) (m : Msg) : (s.arrive m).dev = s.dev := rfl
@[simp] theorem State.arrive_lasts (s : State) (m : Msg) : (s.arrive m).lasts = s.lasts := rfl
@[simp] theorem State.arrive_tile (s : State) (m : Msg) : (s.arrive m).tile = s.tile := rfl
@[simp] theorem State.arrive_mesh (s : State) (m : Msg) : (s.arrive m).mesh = s.mesh := rfl
@[simp] theorem State.arrive_eyelets (s : State) (m : Msg) : (s.arrive m).eyelets = s.eyelets := rfl
@[simp] theorem State.arrive_dram (s : State) (m : Msg) : (s.arrive m).dram = s.dram := rfl
@[simp] theorem State.arrive_uci (s : State) (m : Msg) : (s.arrive m).uci = s.uci := rfl
@[simp] theorem State.arrive_outer (s : State) (m : Msg) : (s.arrive m).outer = s.outer := rfl
@[simp] theorem State.arrive_part (s : State) (m : Msg) : (s.arrive m).part = s.part := rfl
@[simp] theorem State.arrive_flt (s : State) (m : Msg) : (s.arrive m).flt = s.flt := rfl
@[simp] theorem State.arrive_power (s : State) (m : Msg) : (s.arrive m).power = s.power := rfl
@[simp] theorem State.arrive_awl (s : State) (m : Msg) : (s.arrive m).awl = s.awl := rfl
@[simp] theorem State.arrive_sec (s : State) (m : Msg) : (s.arrive m).sec = s.sec := rfl
@[simp] theorem State.arrive_pins (s : State) (m : Msg) : (s.arrive m).pins = s.pins := rfl
@[simp] theorem State.arrive_out (s : State) (m : Msg) : (s.arrive m).out = s.out := rfl
@[simp] theorem State.arrive_lastRead (s : State) (m : Msg) : (s.arrive m).lastRead = s.lastRead := rfl
@[simp] theorem State.arrive_free (s : State) (m : Msg) : (s.arrive m).free = s.free := rfl
@[simp] theorem State.arrive_pending (s : State) (m : Msg) : (s.arrive m).pending = s.pending := rfl

@[simp] theorem State.setTxs_regs (s : State) (txs : List Tx) : (s.setTxs txs).regs = s.regs := rfl
@[simp] theorem State.setTxs_clock (s : State) (txs : List Tx) : (s.setTxs txs).clock = s.clock := rfl
@[simp] theorem State.setTxs_cfg (s : State) (txs : List Tx) : (s.setTxs txs).cfg = s.cfg := rfl
@[simp] theorem State.setTxs_ldr (s : State) (txs : List Tx) : (s.setTxs txs).ldr = s.ldr := rfl
@[simp] theorem State.setTxs_dev (s : State) (txs : List Tx) : (s.setTxs txs).dev = s.dev := rfl
@[simp] theorem State.setTxs_lasts (s : State) (txs : List Tx) : (s.setTxs txs).lasts = s.lasts := rfl
@[simp] theorem State.setTxs_tile (s : State) (txs : List Tx) : (s.setTxs txs).tile = s.tile := rfl
@[simp] theorem State.setTxs_mesh (s : State) (txs : List Tx) : (s.setTxs txs).mesh = s.mesh := rfl
@[simp] theorem State.setTxs_eyelets (s : State) (txs : List Tx) : (s.setTxs txs).eyelets = s.eyelets := rfl
@[simp] theorem State.setTxs_dram (s : State) (txs : List Tx) : (s.setTxs txs).dram = s.dram := rfl
@[simp] theorem State.setTxs_uci (s : State) (txs : List Tx) : (s.setTxs txs).uci = s.uci := rfl
@[simp] theorem State.setTxs_outer (s : State) (txs : List Tx) : (s.setTxs txs).outer = s.outer := rfl
@[simp] theorem State.setTxs_part (s : State) (txs : List Tx) : (s.setTxs txs).part = s.part := rfl
@[simp] theorem State.setTxs_flt (s : State) (txs : List Tx) : (s.setTxs txs).flt = s.flt := rfl
@[simp] theorem State.setTxs_power (s : State) (txs : List Tx) : (s.setTxs txs).power = s.power := rfl
@[simp] theorem State.setTxs_awl (s : State) (txs : List Tx) : (s.setTxs txs).awl = s.awl := rfl
@[simp] theorem State.setTxs_sec (s : State) (txs : List Tx) : (s.setTxs txs).sec = s.sec := rfl
@[simp] theorem State.setTxs_pins (s : State) (txs : List Tx) : (s.setTxs txs).pins = s.pins := rfl
@[simp] theorem State.setTxs_out (s : State) (txs : List Tx) : (s.setTxs txs).out = s.out := rfl
@[simp] theorem State.setTxs_lastRead (s : State) (txs : List Tx) : (s.setTxs txs).lastRead = s.lastRead := rfl
@[simp] theorem State.setTxs_free (s : State) (txs : List Tx) : (s.setTxs txs).free = s.free := rfl
@[simp] theorem State.setTxs_pending (s : State) (txs : List Tx) : (s.setTxs txs).pending = s.pending := rfl

@[simp] theorem State.setJob_regs (s : State) (j : JobSt) : (s.setJob j).regs = s.regs := rfl
@[simp] theorem State.setJob_clock (s : State) (j : JobSt) : (s.setJob j).clock = s.clock := rfl
@[simp] theorem State.setJob_cfg (s : State) (j : JobSt) : (s.setJob j).cfg = s.cfg := rfl
@[simp] theorem State.setJob_ldr (s : State) (j : JobSt) : (s.setJob j).ldr = s.ldr := rfl
@[simp] theorem State.setJob_dev (s : State) (j : JobSt) : (s.setJob j).dev = s.dev := rfl
@[simp] theorem State.setJob_lasts (s : State) (j : JobSt) : (s.setJob j).lasts = s.lasts := rfl
@[simp] theorem State.setJob_tile (s : State) (j : JobSt) : (s.setJob j).tile = s.tile := rfl
@[simp] theorem State.setJob_mesh (s : State) (j : JobSt) : (s.setJob j).mesh = s.mesh := rfl
@[simp] theorem State.setJob_coh (s : State) (j : JobSt) : (s.setJob j).coh = s.coh := rfl
@[simp] theorem State.setJob_eyelets (s : State) (j : JobSt) : (s.setJob j).eyelets = s.eyelets := rfl
@[simp] theorem State.setJob_dram (s : State) (j : JobSt) : (s.setJob j).dram = s.dram := rfl
@[simp] theorem State.setJob_uci (s : State) (j : JobSt) : (s.setJob j).uci = s.uci := rfl
@[simp] theorem State.setJob_part (s : State) (j : JobSt) : (s.setJob j).part = s.part := rfl
@[simp] theorem State.setJob_flt (s : State) (j : JobSt) : (s.setJob j).flt = s.flt := rfl
@[simp] theorem State.setJob_power (s : State) (j : JobSt) : (s.setJob j).power = s.power := rfl
@[simp] theorem State.setJob_awl (s : State) (j : JobSt) : (s.setJob j).awl = s.awl := rfl
@[simp] theorem State.setJob_sec (s : State) (j : JobSt) : (s.setJob j).sec = s.sec := rfl
@[simp] theorem State.setJob_pins (s : State) (j : JobSt) : (s.setJob j).pins = s.pins := rfl
@[simp] theorem State.setJob_out (s : State) (j : JobSt) : (s.setJob j).out = s.out := rfl
@[simp] theorem State.setJob_lastRead (s : State) (j : JobSt) : (s.setJob j).lastRead = s.lastRead := rfl
@[simp] theorem State.setJob_free (s : State) (j : JobSt) : (s.setJob j).free = s.free := rfl
@[simp] theorem State.setJob_pending (s : State) (j : JobSt) : (s.setJob j).pending = s.pending := rfl

@[simp] theorem State.setQp_regs (s : State) (p q : Nat) (x : Qp) : (s.setQp p q x).regs = s.regs := rfl
@[simp] theorem State.setQp_clock (s : State) (p q : Nat) (x : Qp) : (s.setQp p q x).clock = s.clock := rfl
@[simp] theorem State.setQp_cfg (s : State) (p q : Nat) (x : Qp) : (s.setQp p q x).cfg = s.cfg := rfl
@[simp] theorem State.setQp_ldr (s : State) (p q : Nat) (x : Qp) : (s.setQp p q x).ldr = s.ldr := rfl
@[simp] theorem State.setQp_dev (s : State) (p q : Nat) (x : Qp) : (s.setQp p q x).dev = s.dev := rfl
@[simp] theorem State.setQp_lasts (s : State) (p q : Nat) (x : Qp) : (s.setQp p q x).lasts = s.lasts := rfl
@[simp] theorem State.setQp_tile (s : State) (p q : Nat) (x : Qp) : (s.setQp p q x).tile = s.tile := rfl
@[simp] theorem State.setQp_mesh (s : State) (p q : Nat) (x : Qp) : (s.setQp p q x).mesh = s.mesh := rfl
@[simp] theorem State.setQp_coh (s : State) (p q : Nat) (x : Qp) : (s.setQp p q x).coh = s.coh := rfl
@[simp] theorem State.setQp_eyelets (s : State) (p q : Nat) (x : Qp) : (s.setQp p q x).eyelets = s.eyelets := rfl
@[simp] theorem State.setQp_dram (s : State) (p q : Nat) (x : Qp) : (s.setQp p q x).dram = s.dram := rfl
@[simp] theorem State.setQp_uci (s : State) (p q : Nat) (x : Qp) : (s.setQp p q x).uci = s.uci := rfl
@[simp] theorem State.setQp_part (s : State) (p q : Nat) (x : Qp) : (s.setQp p q x).part = s.part := rfl
@[simp] theorem State.setQp_flt (s : State) (p q : Nat) (x : Qp) : (s.setQp p q x).flt = s.flt := rfl
@[simp] theorem State.setQp_power (s : State) (p q : Nat) (x : Qp) : (s.setQp p q x).power = s.power := rfl
@[simp] theorem State.setQp_awl (s : State) (p q : Nat) (x : Qp) : (s.setQp p q x).awl = s.awl := rfl
@[simp] theorem State.setQp_sec (s : State) (p q : Nat) (x : Qp) : (s.setQp p q x).sec = s.sec := rfl
@[simp] theorem State.setQp_pins (s : State) (p q : Nat) (x : Qp) : (s.setQp p q x).pins = s.pins := rfl
@[simp] theorem State.setQp_out (s : State) (p q : Nat) (x : Qp) : (s.setQp p q x).out = s.out := rfl
@[simp] theorem State.setQp_lastRead (s : State) (p q : Nat) (x : Qp) : (s.setQp p q x).lastRead = s.lastRead := rfl
@[simp] theorem State.setQp_free (s : State) (p q : Nat) (x : Qp) : (s.setQp p q x).free = s.free := rfl
@[simp] theorem State.setQp_pending (s : State) (p q : Nat) (x : Qp) : (s.setQp p q x).pending = s.pending := rfl

@[simp] theorem State.advanceTo_regs (s : State) (t : Nat) : (s.advanceTo t).regs = s.regs := rfl
@[simp] theorem State.advanceTo_cfg (s : State) (t : Nat) : (s.advanceTo t).cfg = s.cfg := rfl
@[simp] theorem State.advanceTo_ldr (s : State) (t : Nat) : (s.advanceTo t).ldr = s.ldr := rfl
@[simp] theorem State.advanceTo_dev (s : State) (t : Nat) : (s.advanceTo t).dev = s.dev := rfl
@[simp] theorem State.advanceTo_lasts (s : State) (t : Nat) : (s.advanceTo t).lasts = s.lasts := rfl
@[simp] theorem State.advanceTo_tile (s : State) (t : Nat) : (s.advanceTo t).tile = s.tile := rfl
@[simp] theorem State.advanceTo_mesh (s : State) (t : Nat) : (s.advanceTo t).mesh = s.mesh := rfl
@[simp] theorem State.advanceTo_coh (s : State) (t : Nat) : (s.advanceTo t).coh = s.coh := rfl
@[simp] theorem State.advanceTo_eyelets (s : State) (t : Nat) : (s.advanceTo t).eyelets = s.eyelets := rfl
@[simp] theorem State.advanceTo_dram (s : State) (t : Nat) : (s.advanceTo t).dram = s.dram := rfl
@[simp] theorem State.advanceTo_uci (s : State) (t : Nat) : (s.advanceTo t).uci = s.uci := rfl
@[simp] theorem State.advanceTo_outer (s : State) (t : Nat) : (s.advanceTo t).outer = s.outer := rfl
@[simp] theorem State.advanceTo_part (s : State) (t : Nat) : (s.advanceTo t).part = s.part := rfl
@[simp] theorem State.advanceTo_flt (s : State) (t : Nat) : (s.advanceTo t).flt = s.flt := rfl
@[simp] theorem State.advanceTo_power (s : State) (t : Nat) : (s.advanceTo t).power = s.power := rfl
@[simp] theorem State.advanceTo_awl (s : State) (t : Nat) : (s.advanceTo t).awl = s.awl := rfl
@[simp] theorem State.advanceTo_sec (s : State) (t : Nat) : (s.advanceTo t).sec = s.sec := rfl
@[simp] theorem State.advanceTo_pins (s : State) (t : Nat) : (s.advanceTo t).pins = s.pins := rfl
@[simp] theorem State.advanceTo_out (s : State) (t : Nat) : (s.advanceTo t).out = s.out := rfl
@[simp] theorem State.advanceTo_lastRead (s : State) (t : Nat) : (s.advanceTo t).lastRead = s.lastRead := rfl
@[simp] theorem State.advanceTo_free (s : State) (t : Nat) : (s.advanceTo t).free = s.free := rfl
@[simp] theorem State.advanceTo_pending (s : State) (t : Nat) : (s.advanceTo t).pending = s.pending := rfl

@[simp] theorem State.setUci_regs (s : State) (x : UciSt) : (s.setUci x).regs = s.regs := rfl
@[simp] theorem State.setUci_clock (s : State) (x : UciSt) : (s.setUci x).clock = s.clock := rfl
@[simp] theorem State.setUci_cfg (s : State) (x : UciSt) : (s.setUci x).cfg = s.cfg := rfl
@[simp] theorem State.setUci_ldr (s : State) (x : UciSt) : (s.setUci x).ldr = s.ldr := rfl
@[simp] theorem State.setUci_dev (s : State) (x : UciSt) : (s.setUci x).dev = s.dev := rfl
@[simp] theorem State.setUci_lasts (s : State) (x : UciSt) : (s.setUci x).lasts = s.lasts := rfl
@[simp] theorem State.setUci_tile (s : State) (x : UciSt) : (s.setUci x).tile = s.tile := rfl
@[simp] theorem State.setUci_mesh (s : State) (x : UciSt) : (s.setUci x).mesh = s.mesh := rfl
@[simp] theorem State.setUci_coh (s : State) (x : UciSt) : (s.setUci x).coh = s.coh := rfl
@[simp] theorem State.setUci_eyelets (s : State) (x : UciSt) : (s.setUci x).eyelets = s.eyelets := rfl
@[simp] theorem State.setUci_dram (s : State) (x : UciSt) : (s.setUci x).dram = s.dram := rfl
@[simp] theorem State.setUci_outer (s : State) (x : UciSt) : (s.setUci x).outer = s.outer := rfl
@[simp] theorem State.setUci_part (s : State) (x : UciSt) : (s.setUci x).part = s.part := rfl
@[simp] theorem State.setUci_flt (s : State) (x : UciSt) : (s.setUci x).flt = s.flt := rfl
@[simp] theorem State.setUci_power (s : State) (x : UciSt) : (s.setUci x).power = s.power := rfl
@[simp] theorem State.setUci_awl (s : State) (x : UciSt) : (s.setUci x).awl = s.awl := rfl
@[simp] theorem State.setUci_sec (s : State) (x : UciSt) : (s.setUci x).sec = s.sec := rfl
@[simp] theorem State.setUci_pins (s : State) (x : UciSt) : (s.setUci x).pins = s.pins := rfl
@[simp] theorem State.setUci_out (s : State) (x : UciSt) : (s.setUci x).out = s.out := rfl
@[simp] theorem State.setUci_lastRead (s : State) (x : UciSt) : (s.setUci x).lastRead = s.lastRead := rfl
@[simp] theorem State.setUci_free (s : State) (x : UciSt) : (s.setUci x).free = s.free := rfl
@[simp] theorem State.setUci_pending (s : State) (x : UciSt) : (s.setUci x).pending = s.pending := rfl

@[simp] theorem State.setMesh_regs (s : State) (x : MeshSt) : (s.setMesh x).regs = s.regs := rfl
@[simp] theorem State.setMesh_clock (s : State) (x : MeshSt) : (s.setMesh x).clock = s.clock := rfl
@[simp] theorem State.setMesh_cfg (s : State) (x : MeshSt) : (s.setMesh x).cfg = s.cfg := rfl
@[simp] theorem State.setMesh_ldr (s : State) (x : MeshSt) : (s.setMesh x).ldr = s.ldr := rfl
@[simp] theorem State.setMesh_dev (s : State) (x : MeshSt) : (s.setMesh x).dev = s.dev := rfl
@[simp] theorem State.setMesh_lasts (s : State) (x : MeshSt) : (s.setMesh x).lasts = s.lasts := rfl
@[simp] theorem State.setMesh_tile (s : State) (x : MeshSt) : (s.setMesh x).tile = s.tile := rfl
@[simp] theorem State.setMesh_coh (s : State) (x : MeshSt) : (s.setMesh x).coh = s.coh := rfl
@[simp] theorem State.setMesh_eyelets (s : State) (x : MeshSt) : (s.setMesh x).eyelets = s.eyelets := rfl
@[simp] theorem State.setMesh_dram (s : State) (x : MeshSt) : (s.setMesh x).dram = s.dram := rfl
@[simp] theorem State.setMesh_uci (s : State) (x : MeshSt) : (s.setMesh x).uci = s.uci := rfl
@[simp] theorem State.setMesh_outer (s : State) (x : MeshSt) : (s.setMesh x).outer = s.outer := rfl
@[simp] theorem State.setMesh_part (s : State) (x : MeshSt) : (s.setMesh x).part = s.part := rfl
@[simp] theorem State.setMesh_flt (s : State) (x : MeshSt) : (s.setMesh x).flt = s.flt := rfl
@[simp] theorem State.setMesh_power (s : State) (x : MeshSt) : (s.setMesh x).power = s.power := rfl
@[simp] theorem State.setMesh_awl (s : State) (x : MeshSt) : (s.setMesh x).awl = s.awl := rfl
@[simp] theorem State.setMesh_sec (s : State) (x : MeshSt) : (s.setMesh x).sec = s.sec := rfl
@[simp] theorem State.setMesh_pins (s : State) (x : MeshSt) : (s.setMesh x).pins = s.pins := rfl
@[simp] theorem State.setMesh_out (s : State) (x : MeshSt) : (s.setMesh x).out = s.out := rfl
@[simp] theorem State.setMesh_lastRead (s : State) (x : MeshSt) : (s.setMesh x).lastRead = s.lastRead := rfl
@[simp] theorem State.setMesh_free (s : State) (x : MeshSt) : (s.setMesh x).free = s.free := rfl
@[simp] theorem State.setMesh_pending (s : State) (x : MeshSt) : (s.setMesh x).pending = s.pending := rfl

@[simp] theorem State.setFlt_regs (s : State) (x : FltSt) : (s.setFlt x).regs = s.regs := rfl
@[simp] theorem State.setFlt_clock (s : State) (x : FltSt) : (s.setFlt x).clock = s.clock := rfl
@[simp] theorem State.setFlt_cfg (s : State) (x : FltSt) : (s.setFlt x).cfg = s.cfg := rfl
@[simp] theorem State.setFlt_ldr (s : State) (x : FltSt) : (s.setFlt x).ldr = s.ldr := rfl
@[simp] theorem State.setFlt_dev (s : State) (x : FltSt) : (s.setFlt x).dev = s.dev := rfl
@[simp] theorem State.setFlt_lasts (s : State) (x : FltSt) : (s.setFlt x).lasts = s.lasts := rfl
@[simp] theorem State.setFlt_tile (s : State) (x : FltSt) : (s.setFlt x).tile = s.tile := rfl
@[simp] theorem State.setFlt_mesh (s : State) (x : FltSt) : (s.setFlt x).mesh = s.mesh := rfl
@[simp] theorem State.setFlt_coh (s : State) (x : FltSt) : (s.setFlt x).coh = s.coh := rfl
@[simp] theorem State.setFlt_eyelets (s : State) (x : FltSt) : (s.setFlt x).eyelets = s.eyelets := rfl
@[simp] theorem State.setFlt_dram (s : State) (x : FltSt) : (s.setFlt x).dram = s.dram := rfl
@[simp] theorem State.setFlt_uci (s : State) (x : FltSt) : (s.setFlt x).uci = s.uci := rfl
@[simp] theorem State.setFlt_outer (s : State) (x : FltSt) : (s.setFlt x).outer = s.outer := rfl
@[simp] theorem State.setFlt_part (s : State) (x : FltSt) : (s.setFlt x).part = s.part := rfl
@[simp] theorem State.setFlt_power (s : State) (x : FltSt) : (s.setFlt x).power = s.power := rfl
@[simp] theorem State.setFlt_awl (s : State) (x : FltSt) : (s.setFlt x).awl = s.awl := rfl
@[simp] theorem State.setFlt_sec (s : State) (x : FltSt) : (s.setFlt x).sec = s.sec := rfl
@[simp] theorem State.setFlt_pins (s : State) (x : FltSt) : (s.setFlt x).pins = s.pins := rfl
@[simp] theorem State.setFlt_out (s : State) (x : FltSt) : (s.setFlt x).out = s.out := rfl
@[simp] theorem State.setFlt_lastRead (s : State) (x : FltSt) : (s.setFlt x).lastRead = s.lastRead := rfl
@[simp] theorem State.setFlt_free (s : State) (x : FltSt) : (s.setFlt x).free = s.free := rfl
@[simp] theorem State.setFlt_pending (s : State) (x : FltSt) : (s.setFlt x).pending = s.pending := rfl

@[simp] theorem State.setPower_regs (s : State) (x : PowerSt) : (s.setPower x).regs = s.regs := rfl
@[simp] theorem State.setPower_clock (s : State) (x : PowerSt) : (s.setPower x).clock = s.clock := rfl
@[simp] theorem State.setPower_cfg (s : State) (x : PowerSt) : (s.setPower x).cfg = s.cfg := rfl
@[simp] theorem State.setPower_ldr (s : State) (x : PowerSt) : (s.setPower x).ldr = s.ldr := rfl
@[simp] theorem State.setPower_dev (s : State) (x : PowerSt) : (s.setPower x).dev = s.dev := rfl
@[simp] theorem State.setPower_lasts (s : State) (x : PowerSt) : (s.setPower x).lasts = s.lasts := rfl
@[simp] theorem State.setPower_tile (s : State) (x : PowerSt) : (s.setPower x).tile = s.tile := rfl
@[simp] theorem State.setPower_mesh (s : State) (x : PowerSt) : (s.setPower x).mesh = s.mesh := rfl
@[simp] theorem State.setPower_coh (s : State) (x : PowerSt) : (s.setPower x).coh = s.coh := rfl
@[simp] theorem State.setPower_eyelets (s : State) (x : PowerSt) : (s.setPower x).eyelets = s.eyelets := rfl
@[simp] theorem State.setPower_dram (s : State) (x : PowerSt) : (s.setPower x).dram = s.dram := rfl
@[simp] theorem State.setPower_uci (s : State) (x : PowerSt) : (s.setPower x).uci = s.uci := rfl
@[simp] theorem State.setPower_outer (s : State) (x : PowerSt) : (s.setPower x).outer = s.outer := rfl
@[simp] theorem State.setPower_part (s : State) (x : PowerSt) : (s.setPower x).part = s.part := rfl
@[simp] theorem State.setPower_flt (s : State) (x : PowerSt) : (s.setPower x).flt = s.flt := rfl
@[simp] theorem State.setPower_awl (s : State) (x : PowerSt) : (s.setPower x).awl = s.awl := rfl
@[simp] theorem State.setPower_sec (s : State) (x : PowerSt) : (s.setPower x).sec = s.sec := rfl
@[simp] theorem State.setPower_pins (s : State) (x : PowerSt) : (s.setPower x).pins = s.pins := rfl
@[simp] theorem State.setPower_out (s : State) (x : PowerSt) : (s.setPower x).out = s.out := rfl
@[simp] theorem State.setPower_lastRead (s : State) (x : PowerSt) : (s.setPower x).lastRead = s.lastRead := rfl
@[simp] theorem State.setPower_free (s : State) (x : PowerSt) : (s.setPower x).free = s.free := rfl
@[simp] theorem State.setPower_pending (s : State) (x : PowerSt) : (s.setPower x).pending = s.pending := rfl

@[simp] theorem State.setAwl_regs (s : State) (x : AwlSt) : (s.setAwl x).regs = s.regs := rfl
@[simp] theorem State.setAwl_clock (s : State) (x : AwlSt) : (s.setAwl x).clock = s.clock := rfl
@[simp] theorem State.setAwl_cfg (s : State) (x : AwlSt) : (s.setAwl x).cfg = s.cfg := rfl
@[simp] theorem State.setAwl_ldr (s : State) (x : AwlSt) : (s.setAwl x).ldr = s.ldr := rfl
@[simp] theorem State.setAwl_dev (s : State) (x : AwlSt) : (s.setAwl x).dev = s.dev := rfl
@[simp] theorem State.setAwl_lasts (s : State) (x : AwlSt) : (s.setAwl x).lasts = s.lasts := rfl
@[simp] theorem State.setAwl_tile (s : State) (x : AwlSt) : (s.setAwl x).tile = s.tile := rfl
@[simp] theorem State.setAwl_mesh (s : State) (x : AwlSt) : (s.setAwl x).mesh = s.mesh := rfl
@[simp] theorem State.setAwl_coh (s : State) (x : AwlSt) : (s.setAwl x).coh = s.coh := rfl
@[simp] theorem State.setAwl_eyelets (s : State) (x : AwlSt) : (s.setAwl x).eyelets = s.eyelets := rfl
@[simp] theorem State.setAwl_dram (s : State) (x : AwlSt) : (s.setAwl x).dram = s.dram := rfl
@[simp] theorem State.setAwl_uci (s : State) (x : AwlSt) : (s.setAwl x).uci = s.uci := rfl
@[simp] theorem State.setAwl_outer (s : State) (x : AwlSt) : (s.setAwl x).outer = s.outer := rfl
@[simp] theorem State.setAwl_part (s : State) (x : AwlSt) : (s.setAwl x).part = s.part := rfl
@[simp] theorem State.setAwl_flt (s : State) (x : AwlSt) : (s.setAwl x).flt = s.flt := rfl
@[simp] theorem State.setAwl_power (s : State) (x : AwlSt) : (s.setAwl x).power = s.power := rfl
@[simp] theorem State.setAwl_sec (s : State) (x : AwlSt) : (s.setAwl x).sec = s.sec := rfl
@[simp] theorem State.setAwl_pins (s : State) (x : AwlSt) : (s.setAwl x).pins = s.pins := rfl
@[simp] theorem State.setAwl_out (s : State) (x : AwlSt) : (s.setAwl x).out = s.out := rfl
@[simp] theorem State.setAwl_lastRead (s : State) (x : AwlSt) : (s.setAwl x).lastRead = s.lastRead := rfl
@[simp] theorem State.setAwl_free (s : State) (x : AwlSt) : (s.setAwl x).free = s.free := rfl
@[simp] theorem State.setAwl_pending (s : State) (x : AwlSt) : (s.setAwl x).pending = s.pending := rfl

@[simp] theorem State.setSec_regs (s : State) (x : SecSt) : (s.setSec x).regs = s.regs := rfl
@[simp] theorem State.setSec_clock (s : State) (x : SecSt) : (s.setSec x).clock = s.clock := rfl
@[simp] theorem State.setSec_cfg (s : State) (x : SecSt) : (s.setSec x).cfg = s.cfg := rfl
@[simp] theorem State.setSec_ldr (s : State) (x : SecSt) : (s.setSec x).ldr = s.ldr := rfl
@[simp] theorem State.setSec_dev (s : State) (x : SecSt) : (s.setSec x).dev = s.dev := rfl
@[simp] theorem State.setSec_lasts (s : State) (x : SecSt) : (s.setSec x).lasts = s.lasts := rfl
@[simp] theorem State.setSec_tile (s : State) (x : SecSt) : (s.setSec x).tile = s.tile := rfl
@[simp] theorem State.setSec_mesh (s : State) (x : SecSt) : (s.setSec x).mesh = s.mesh := rfl
@[simp] theorem State.setSec_coh (s : State) (x : SecSt) : (s.setSec x).coh = s.coh := rfl
@[simp] theorem State.setSec_eyelets (s : State) (x : SecSt) : (s.setSec x).eyelets = s.eyelets := rfl
@[simp] theorem State.setSec_dram (s : State) (x : SecSt) : (s.setSec x).dram = s.dram := rfl
@[simp] theorem State.setSec_uci (s : State) (x : SecSt) : (s.setSec x).uci = s.uci := rfl
@[simp] theorem State.setSec_outer (s : State) (x : SecSt) : (s.setSec x).outer = s.outer := rfl
@[simp] theorem State.setSec_part (s : State) (x : SecSt) : (s.setSec x).part = s.part := rfl
@[simp] theorem State.setSec_flt (s : State) (x : SecSt) : (s.setSec x).flt = s.flt := rfl
@[simp] theorem State.setSec_power (s : State) (x : SecSt) : (s.setSec x).power = s.power := rfl
@[simp] theorem State.setSec_awl (s : State) (x : SecSt) : (s.setSec x).awl = s.awl := rfl
@[simp] theorem State.setSec_pins (s : State) (x : SecSt) : (s.setSec x).pins = s.pins := rfl
@[simp] theorem State.setSec_out (s : State) (x : SecSt) : (s.setSec x).out = s.out := rfl
@[simp] theorem State.setSec_lastRead (s : State) (x : SecSt) : (s.setSec x).lastRead = s.lastRead := rfl
@[simp] theorem State.setSec_free (s : State) (x : SecSt) : (s.setSec x).free = s.free := rfl
@[simp] theorem State.setSec_pending (s : State) (x : SecSt) : (s.setSec x).pending = s.pending := rfl

@[simp] theorem State.setAll_clock (s : State) (fs : List (Fld × Nat)) : (s.setAll fs).clock = s.clock := by
  induction fs generalizing s with
  | nil => rfl
  | cons x fs ih => exact ih _
@[simp] theorem State.setAll_cfg (s : State) (fs : List (Fld × Nat)) : (s.setAll fs).cfg = s.cfg := by
  induction fs generalizing s with
  | nil => rfl
  | cons x fs ih => exact ih _
@[simp] theorem State.setAll_ldr (s : State) (fs : List (Fld × Nat)) : (s.setAll fs).ldr = s.ldr := by
  induction fs generalizing s with
  | nil => rfl
  | cons x fs ih => exact ih _
@[simp] theorem State.setAll_dev (s : State) (fs : List (Fld × Nat)) : (s.setAll fs).dev = s.dev := by
  induction fs generalizing s with
  | nil => rfl
  | cons x fs ih => exact ih _
@[simp] theorem State.setAll_lasts (s : State) (fs : List (Fld × Nat)) : (s.setAll fs).lasts = s.lasts := by
  induction fs generalizing s with
  | nil => rfl
  | cons x fs ih => exact ih _
@[simp] theorem State.setAll_tile (s : State) (fs : List (Fld × Nat)) : (s.setAll fs).tile = s.tile := by
  induction fs generalizing s with
  | nil => rfl
  | cons x fs ih => exact ih _
@[simp] theorem State.setAll_mesh (s : State) (fs : List (Fld × Nat)) : (s.setAll fs).mesh = s.mesh := by
  induction fs generalizing s with
  | nil => rfl
  | cons x fs ih => exact ih _
@[simp] theorem State.setAll_coh (s : State) (fs : List (Fld × Nat)) : (s.setAll fs).coh = s.coh := by
  induction fs generalizing s with
  | nil => rfl
  | cons x fs ih => exact ih _
@[simp] theorem State.setAll_eyelets (s : State) (fs : List (Fld × Nat)) : (s.setAll fs).eyelets = s.eyelets := by
  induction fs generalizing s with
  | nil => rfl
  | cons x fs ih => exact ih _
@[simp] theorem State.setAll_dram (s : State) (fs : List (Fld × Nat)) : (s.setAll fs).dram = s.dram := by
  induction fs generalizing s with
  | nil => rfl
  | cons x fs ih => exact ih _
@[simp] theorem State.setAll_uci (s : State) (fs : List (Fld × Nat)) : (s.setAll fs).uci = s.uci := by
  induction fs generalizing s with
  | nil => rfl
  | cons x fs ih => exact ih _
@[simp] theorem State.setAll_outer (s : State) (fs : List (Fld × Nat)) : (s.setAll fs).outer = s.outer := by
  induction fs generalizing s with
  | nil => rfl
  | cons x fs ih => exact ih _
@[simp] theorem State.setAll_part (s : State) (fs : List (Fld × Nat)) : (s.setAll fs).part = s.part := by
  induction fs generalizing s with
  | nil => rfl
  | cons x fs ih => exact ih _
@[simp] theorem State.setAll_flt (s : State) (fs : List (Fld × Nat)) : (s.setAll fs).flt = s.flt := by
  induction fs generalizing s with
  | nil => rfl
  | cons x fs ih => exact ih _
@[simp] theorem State.setAll_power (s : State) (fs : List (Fld × Nat)) : (s.setAll fs).power = s.power := by
  induction fs generalizing s with
  | nil => rfl
  | cons x fs ih => exact ih _
@[simp] theorem State.setAll_awl (s : State) (fs : List (Fld × Nat)) : (s.setAll fs).awl = s.awl := by
  induction fs generalizing s with
  | nil => rfl
  | cons x fs ih => exact ih _
@[simp] theorem State.setAll_sec (s : State) (fs : List (Fld × Nat)) : (s.setAll fs).sec = s.sec := by
  induction fs generalizing s with
  | nil => rfl
  | cons x fs ih => exact ih _
@[simp] theorem State.setAll_pins (s : State) (fs : List (Fld × Nat)) : (s.setAll fs).pins = s.pins := by
  induction fs generalizing s with
  | nil => rfl
  | cons x fs ih => exact ih _
@[simp] theorem State.setAll_out (s : State) (fs : List (Fld × Nat)) : (s.setAll fs).out = s.out := by
  induction fs generalizing s with
  | nil => rfl
  | cons x fs ih => exact ih _
@[simp] theorem State.setAll_lastRead (s : State) (fs : List (Fld × Nat)) : (s.setAll fs).lastRead = s.lastRead := by
  induction fs generalizing s with
  | nil => rfl
  | cons x fs ih => exact ih _
@[simp] theorem State.setAll_free (s : State) (fs : List (Fld × Nat)) : (s.setAll fs).free = s.free := by
  induction fs generalizing s with
  | nil => rfl
  | cons x fs ih => exact ih _
@[simp] theorem State.setAll_pending (s : State) (fs : List (Fld × Nat)) : (s.setAll fs).pending = s.pending := by
  induction fs generalizing s with
  | nil => rfl
  | cons x fs ih => exact ih _

/-! ## Register fields -/

theorem State.get_set (s : State) (f g : Fld) (v : Nat) :
    (s.set f v).get g = if g.key = f.key then v % 2 ^ f.width else s.get g := mapGet_mapSet _ _ _ _ _

@[simp] theorem State.get_set_same (s : State) (f : Fld) (v : Nat) : (s.set f v).get f = v % 2 ^ f.width := by
  simp [State.get_set]

theorem State.get_set_ne (s : State) {f g : Fld} (v : Nat) (h : g.key ≠ f.key) : (s.set f v).get g = s.get g := by
  simp [State.get_set, h]

/-- A field that the list does not name keeps its value. -/
theorem State.get_setAll_ne (s : State) (fs : List (Fld × Nat)) (g : Fld) (h : ∀ x ∈ fs, g.key ≠ x.1.key) :
    (s.setAll fs).get g = s.get g := by
  induction fs generalizing s with
  | nil => rfl
  | cons x fs ih =>
    rw [State.setAll, ih _ fun y hy => h y (by simp [hy]), State.get_set_ne _ _ (h x (by simp))]

/-- What a field reads as depends on the register file alone. -/
theorem State.get_congr {s t : State} (h : t.regs = s.regs) (f : Fld) : t.get f = s.get f := by
  simp [State.get, h]

/-- A register write changes the register file only. -/
theorem State.setAll_eq (s : State) (fs : List (Fld × Nat)) : s.setAll fs = { s with regs := (s.setAll fs).regs } := by
  induction fs generalizing s with
  | nil => rfl
  | cons x fs ih => exact (ih _).trans rfl

end Sys2Proof.Machine
end

