-- ==== Sys2Proof/Laws/Regs.lean ====
section
/-! SUPPORT. Which register fields an operation leaves alone: `RegsKept` for the basic operations, events and fault records. -/

namespace Sys2Proof.Machine

theorem RegsKept.refl (fs : List Fld) (s : State) : RegsKept fs s s := fun _ _ => rfl

theorem RegsKept.trans {fs : List Fld} {s t u : State} (h : RegsKept fs s t) (g : RegsKept fs t u) : RegsKept fs s u :=
  fun k hk => (g k hk).trans (h k hk)

theorem RegsKept.mono {fs gs : List Fld} {s t : State} (h : RegsKept fs s t) (hs : ∀ f ∈ fs, f ∈ gs) : RegsKept gs s t :=
  fun k hk => h k fun f hf => hk f (hs f hf)

theorem RegsKept.of_eq {fs : List Fld} {s t : State} (h : t.regs = s.regs) : RegsKept fs s t := fun _ _ => by rw [h]

/-- A field that is not listed reads as before. -/
theorem RegsKept.get {fs : List Fld} {s t : State} (h : RegsKept fs s t) {g : Fld} (hg : ∀ f ∈ fs, g.key ≠ f.key) :
    t.get g = s.get g := h _ hg

theorem regsKept_set (s : State) (f : Fld) (v : Nat) : RegsKept [f] s (s.set f v) := fun k hk =>
  mapGet_mapSet_ne _ _ _ (hk f (by simp))

theorem RegsKept.set {fs : List Fld} {s t : State} (h : RegsKept fs s t) {f : Fld} (v : Nat) (hf : f ∈ fs) :
    RegsKept fs s (t.set f v) := h.trans ((regsKept_set t f v).mono (by simpa using hf))

theorem RegsKept.addTo {fs : List Fld} {s t : State} (h : RegsKept fs s t) {f : Fld} (n : Nat) (hf : f ∈ fs) :
    RegsKept fs s (t.addTo f n) := h.set _ hf

theorem RegsKept.bump {fs : List Fld} {s t : State} (h : RegsKept fs s t) {f : Fld} (n : Nat) (hf : f ∈ fs) :
    RegsKept fs s (t.bump f n) := h.set _ hf

theorem RegsKept.setAll {fs : List Fld} {s t : State} (h : RegsKept fs s t) (l : List (Fld × Nat)) (hl : ∀ x ∈ l, x.1 ∈ fs) :
    RegsKept fs s (t.setAll l) := by
  induction l generalizing t with
  | nil => exact h
  | cons x l ih => exact ih (h.set _ (hl x (by simp))) fun y hy => hl y (by simp [hy])

@[simp] theorem State.message_regs (s : State) (fn vec : Nat) : (s.message fn vec).regs = s.regs := by
  unfold State.message; split <;> rfl

@[simp] theorem State.fire_regs (s : State) (fn vec : Nat) : (s.fire fn vec).regs = s.regs := by
  unfold State.fire
  extract_lets s1 v
  have h1 : s1.regs = s.regs := by
    show (if fn = 0 && s.uci.ibi then s.emit (.ibi vec) else s).regs = s.regs
    split <;> rfl
  split
  · simp [h1]
  · split <;> simp [h1]

/-- An event writes the next record of the event ring and nothing else of the register file. -/
theorem State.event_regsKept (s : State) (src code d0 d1 : Nat) (part : Option Nat) :
    RegsKept (eventFields s) s (s.event src code d0 d1 part) := by
  unfold State.event
  extract_lets n src0 s1 head used i s2
  have h1 : RegsKept (eventFields s) s s1 := RegsKept.of_eq rfl
  split
  · exact h1.bump _ (by simp [eventFields])
  · have hi : i = s.get fFltEvHead_count % 8192 := rfl
    have h2 : RegsKept (eventFields s) s s2 := h1.setAll _ (by simp [eventFields, hi])
    exact h2.trans (RegsKept.of_eq (by simp))

/-- A fault record writes the next record of the fault ring and nothing else of the register file. -/
theorem State.recordFault_regsKept (s : State) (f : FaultInfo) : RegsKept (faultFields s) s (s.recordFault f) := by
  unfold State.recordFault
  extract_lets head used dropped i s2
  split
  · exact (RegsKept.refl _ _).bump _ (by simp [faultFields])
  · have hi : i = s.get fFltRecHead_count % 1024 := rfl
    have h2 : RegsKept (faultFields s) s s2 := (RegsKept.refl _ _).setAll _ (by simp [faultFields, hi])
    exact h2.trans (RegsKept.of_eq (by simp))

end Sys2Proof.Machine
end

