-- ==== Sys2Proof/Tests/Slice0.lean ====
section
/-! SUPPORT. Tests: for each statement of Certificates/Slice0/Obligations.lean, states and operands that meet its hypotheses, clause by
clause (a list holds several; a hypothesis that only names a value, or whose form cannot be evaluated, stands here in an equivalent
form that can); ill-formed commands that WellFormed refuses; a few single steps against values that the spec gives. -/

namespace Sys2Proof.Tests

set_option Elab.async false

open Sys2Proof Sys2Proof.Machine

/-! ## States that the witnesses start from -/

/-- The reset state with fields set. -/
def at_ (l : List (Fld × Nat)) (s : State := State.reset) : State := s.setAll l

/-- A PARTITIONS entry: function 1, program die 0, the tiles of sites 0 and 1 of CD0. -/
def entry : List Byte := [1, 0] ++ List.replicate 238 0#8 ++ [3]

/-- A device last with partition 0: one 2 MiB page of fine lines at 0, one of the host's memory at 2 MiB, one of bulk lines at
4 MiB, and sixteen eyelets on CD0. -/
def lastD : DeviceLast :=
  { sequence := 1, period := 10, slack := 50, source := 0, defined := 1, parts := [entry], shares := [(1, 1)],
    pages := [⟨0, 1, 0, false, true, 1, 0, 0⟩, ⟨0, 1, 9, false, true, 1, 2097152, 1048576⟩, ⟨0, 1, 0, true, true, 1, 4194304, 2097152⟩],
    eyelets := [(0, 16)], welts := [], portsHdr := {}, ports := [], routes := {}, replay := false, noReplay := 0, awl := [],
    power := {}, measurement := [] }

def prog : Program := ⟨7, false, 16, 2 ^ 32 - 1, 0, 0, 0⟩

/-- A partition last of partition 0 with one program. -/
def lastP : PartLast :=
  { part := 0, sequence := 1, period := 10, slack := 50, l1Share := 4, programs := [prog], codeLength := 64, body := [], schedules := none,
    modes := [], job := { role := 1 }, labels := [], measurement := [] }

def task : Task :=
  { id := 1, part := 0, gen := 0, ring := 0, index := 0, tag := 0, cq := 0, irq := false, label := 0, args := 0, program := prog,
    tiles := [0], phase := .running }

/-- A group whose lanes 0 and 1 run. -/
def grp : Group := { started := 3, live := 3, paths := [{ mask := 3, pc := 16 }] }

/-- A device in service in which partition 0 runs `task` on tile 0. -/
def run0 : State :=
  { State.reset with
    dev := some lastD, lasts := [(0, some lastP)], clock := { now := 5000, tickAt := 1000, running := true, issued := true, arrived := 255 },
    tile := { tiles := [(0, { task := some 1, groups := [(0, grp)] })], tasks := [task], taskNo := 1 },
    pins := { powered := true, stage := 7 } }.setAll
    [(fTileSplit_l1_share 0 0, 4), (fStchCount_count, 3), (fPartStatus_state 0, 3), (fUciStatus_link_up, 1)]

/-- The same state in its slack window. -/
def due (s : State := run0) : State := { s with clock := { s.clock with slackOpen := true } }

def withGrp (x : Group) (s : State := run0) : State := s.setGroup 0 0 x
def withTile (x : Tile) (s : State := run0) : State := s.setTile 0 x
def withTask (k : Task) (s : State := run0) : State := s.setTask k

/-- A pass descriptor: BF16 by BF16 into binary32, one row, one column, 32 deep, written to scratch. -/
def passBytes (fl : Byte := 4) : List Byte :=
  [3, 3, 2, fl, 1, 1, 0, 0] ++ toLE 4 32 ++ toLE 4 1024 ++ toLE 4 64 ++ toLE 4 4096 ++ toLE 4 64 ++ toLE 4 0xFFFFFFFF ++
    toLE 4 0xFFFFFFFF ++ toLE 4 8192 ++ toLE 4 64 ++ toLE 4 0xFFFFFFFF ++ toLE 4 0xFFFFFFFF ++ toLE 4 0xFFFFFFFF ++ toLE 8 0

/-- A copy descriptor from scratch to scratch. -/
def copyBytes (n : Nat := 64) (dest : Nat := 256) : List Byte :=
  [0, 0, 0, 0] ++ toLE 4 n ++ toLE 8 128 ++ toLE 8 dest ++ toLE 4 1 ++ toLE 4 0 ++ toLE 4 0 ++ toLE 4 0xFFFFFFFF ++ toLE 2 0 ++ toLE 2 0xFFFF ++
    toLE 4 0 ++ toLE 4 0 ++ List.replicate 12 0

def holds (bs : List Byte) (s : State := run0) : State := s.scratchWrite 0 0 bs
def pass : PassDesc := readPass (passBytes)
def copy : Copy := { id := 9, task := 1, desc := readCopy (copyBytes) }
def withCopy (c : Copy) : State := withTile { task := some 1, groups := [(0, grp)], copies := [c] }

/-- A request on the line at 0, and a directory entry of that line. -/
def req (op source : Nat) : Msg := { opcode := op, source := source }
def ent (st : DirState) (presence : Nat) : DirEnt := { line := 0, bulk := false, way := 0, state := st, presence := presence }
def withDir (es : List DirEnt) (s : State := run0) : State := { s with coh := { s.coh with dir := es } }
def line0 : L3Line := { line := 0, bulk := false, owner := 0, way := 0, valid := 2 ^ 256 - 1, dirty := 0, data := List.replicate 256 5 }

/-- An open transaction, a message for it, a level-2 line, an entry of the spill filter. -/
def tx (op agent : Nat) : Tx :=
  { tag := 5, agent := agent, die := 0, site := 0, op := op, part := 0, gen := 0, addr := 0, bulk := false,
    wants := [.load 0 0 0 0 8 0 8 [] true] }
def rsp (op : Nat) (dst : Node) : Msg := { opcode := op, tag := 5, dst := dst, data := List.replicate 256 3 }
def withTx (x : Tx) (s : State := run0) : State := { s with coh := { s.coh with txs := [x] } }
def l2line : L2Line := { half := 3, line := 0, bulk := false, spill := false, owner := 0, way := 0, valid := 2 ^ 256 - 1, data := List.replicate 256 6 }
def spillReq (op source : Nat) : Msg := { opcode := op, source := source, spill := true, addr := 1048576 }
def fent (vector : Nat) : FilterEnt := { line := 1048576, bulk := false, vector := vector }
def withFilter (e : FilterEnt) (s : State := run0) : State := { s with coh := { s.coh with filter := [e] } }
def withHostReq (op : HostOp) (m : Msg) (s : State := run0) : State := { s with coh := { s.coh with hostReqs := [⟨op, 1048576, m, 0⟩] } }
def openMsg (op : Nat) : Msg := { opcode := op, source := 16, tag := 5, dst := .uci 0 }
def withHost (op : Nat) (s : State := run0) : State := { s with uci := { s.uci with hostOpen := [openMsg op] } }
def mods (v : Nat) (s : State := State.reset) : State := at_ ((List.range 8).map fun k => (fUciMod_state k, v)) s
def stage (n : Nat) : State := { State.reset with pins := { powered := true, stage := n } }
def vec (fn k : Nat) (v : Vector) (s : State := run0) : State := s.setVector fn k v
def spdm : State := { run0 with uci := { run0.uci with spdmVersion := true, spdmCaps := true, spdmAlgs := true } }

/-! A device with its outer ports on, and partition 0 a member of a job: 2 of 3, below member 0 on port 1, above member 2 on port 3. -/

def port : PortEnt := { enable := true, preemption := true, ptpMaster := true, pfc := true }
def qpc : QpCfg := ⟨2, 0, 2, 5, 3, [], [], 1, 64, 4, 4096⟩
def jobM : JobSec :=
  { role := 2, level := 1, jobId := 77, memberCount := 3, member := 1, parent := some ⟨0, 1, [], []⟩, children := [⟨2, 3, [], []⟩],
    qps := [qpc], windows := [⟨0, 2097152, true, true⟩], barriers := [⟨7, 0, 4, 1⟩] }
/-- The manager of the job, and a member without children. -/
def jobR : JobSec := { jobM with role := 1, level := 0, member := 0, parent := none, children := [⟨2, 3, [], []⟩], memberCount := 2 }
def jobL : JobSec := { jobM with children := [], qps := [] }
def inJob (j : JobSec := jobM) (l : List (Fld × Nat) := []) (p : PortEnt := port) : State :=
  { run0 with
    dev := some { lastD with ports := List.replicate 16 p, portsHdr := { rocePcp := 3, ptpSlave := 2 } },
    lasts := [(0, some { lastP with job := j })] }.setAll
    ([(fOutJobStatus_role, j.role), (fOutJobStatus_state, 2), (fOutPortStatus_link_up 0 1, 1), (fOutPortStatus_link_up 1 1, 1),
      (fOutPortStatus_link_up 1 0, 1), (fOutJobStitch_stitch, 480)] ++ l)
def ready (x : Qp := { state := 1 }) (s : State := inJob) : State := s.setQp 0 0 x
def pkt (op : PktOp) : Pkt := { op := op, qpn := 0, rkey := 0xFFFF0000 }
def frame (type source : Nat) : LaceFrame := { type := type, jobId := 77, source := source, subject := source, jobStitch := 480, barrier := 4, value := 1 }
def withJob (x : JobSt) (s : State := inJob) : State := s.setJob x
def child : PortSt := { queued := [⟨0, {}, pkt .ack⟩] }

/-- The header of a save area of two tiles, sites 0 and 1 of CD0, at partition address 0 (R384). -/
def saveHeader : List Byte :=
  toLE 4 0x45564153 ++ toLE 2 1 ++ [4, 0] ++ toLE 4 2 ++ toLE 4 786432 ++ toLE 4 16 ++ List.replicate 236 0 ++ [0, 0, 0, 0, 0, 0, 0, 0] ++ [0, 1, 0, 0, 0, 0, 0, 0]
def saved (l : List (Fld × Nat)) : State := at_ l { run0 with dram := { mem := mapSetList 0 [] 0 saveHeader } }
def idle (l : List (Fld × Nat) := []) : State := at_ ((fPartStatus_state 0, 0) :: l) { run0 with tile := {}, lasts := [], dev := none, clock := { running := true } }
def die (d : Nat) (x : PowerDie) (s : State := run0) : State := s.setPower { s.power with dies := mapSet {} s.power.dies d x }
def report (mv : Nat) : RegReport := { vcoreMv := 800, coreA := 400, powerMw := 300000, inputMv := mv, inputMw := 2000000, regulator := 70 }

/-- A slice of kind `k` under way on die `d`. -/
def slice0 (d k unit : Nat) (l : List (Fld × Nat) := []) : State := at_ l { run0 with awl := { running := [⟨d, k, unit, 1000, 1⟩] } }
def fused (f : Fuses) (l : List (Fld × Nat) := []) : State := at_ l { run0 with sec := { fuses := f } }
/-- A life-cycle command image: the command's code, its steps, its challenge. -/
def command (code steps : Byte) (chal : Nat := 0) : List Byte :=
  toLE 4 0x4359434C ++ toLE 2 1 ++ [code, 1] ++ toLE 8 0 ++ toLE 8 chal ++ [steps] ++ List.replicate 1255 0

/-! ## Small steps, with the values that the spec gives -/

/-- What `c` answers from `s` satisfies `p`. -/
def gives (c : Instr) (s : State) (p : State → Bool) : Bool :=
  match exec c s with
  | .next t => p t
  | _ => false

/-- R149's example: two ZL8 elements of log 0.5 give exactly 2. -/
theorem test_zl_product : zlProduct 3 3 8 8 4 4 0 0 = some (.fin false (2 ^ 47) (-46)) := by decide +kernel
/-- R128: 1.0 in BF16 and in binary32. -/
theorem test_convert_one : convertElem (.binary ⟨8, 7, 127, 0x7F7F, true, some 0x7FC0⟩) (.binary ⟨8, 23, 127, 0x7F7FFFFF, true, some 0x7FC00000⟩)
    0 0 0x3F80 0 0 = (0x3F800000, {}) := by decide +kernel
/-- R24: a tick raises the count by one. -/
theorem test_tick : gives .tick due (fun t => t.stitch == 4) = true := by decide +kernel
/-- R24: before the generator starts there is no tick. -/
theorem test_tick_unpowered : gives .tick State.reset (fun t => t == State.reset) = true := by decide +kernel
/-- R10: a 1 clears a bit of type W1C, a 0 leaves it (STCH_STATUS at 0x0_1030). -/
theorem test_w1c : gives (.registerWrite .pf 0x1030 1) (at_ [(fStchStatus_tick_missed, 1), (fStchStatus_fallback, 1)] run0)
    (fun t => t.get fStchStatus_tick_missed == 0 && t.get fStchStatus_fallback == 1) = true := by decide +kernel
/-- R264: a store waits in the group's queue; the lane loads it from there, and the tile store does not hold it yet. -/
theorem test_store_waits :
    gives (.laneStore 0 0 0 (.scratch 4) [1, 2]) (withGrp { grp with started := 1, live := 1, paths := [{ mask := 1, pc := 16 }] })
      (fun t => t.scratchRead 0 4 2 == [0, 0] && gives (.laneLoad 0 0 0 (.scratch 4) 2) t fun u =>
        (u.groupAt 0 0).values == [(0, 0x0201)]) = true := by decide +kernel
/-- R271: EYE_CTL with arm clear adds to the count. -/
theorem test_eyelet_add : gives (.eyeCtlAdd 0 2 7) (run0.setEye 2 ⟨5, false⟩) (fun t => t.eye 2 == ⟨12, false⟩) = true := by
  decide +kernel
/-- R434, R492: PWR_BRAKE_N low is seen in PWR_STATUS, and rising again clears it. -/
theorem test_brake : gives .brakeAssert run0 (fun t => t.get fPwrStatus_brake == 1 &&
    gives .brakeRelease t fun u => u.get fPwrStatus_brake == 0) = true := by decide +kernel
/-- R435: trim_d reaches the flash, where it outlives the loss of power. -/
theorem test_trim : gives (.trimWrite 3) (at_ [(fPwrDieA_trim_mv 3, 5)] run0) (fun t => mapGet 0 t.sec.flash.trim 3 == 5 &&
    gives .powerLoss t fun u => mapGet 0 u.sec.flash.trim 3 == 5 && u.pins.powered == false) = true := by decide +kernel

/-- R428's worked case: the grants of 3,440 W at a floor of 400 W. -/
theorem test_allocate : (at_ [(fPwrCapSet_cap_w, 3600), (fPwrFloorSet_floor_w, 400)] (run0.setPower { run0.power with
    overheads := [150000], sec := { run0.power.sec with continuous := 5000 },
    dies := ([700, 650, 380, 400, 520, 410, 400, 400].zipIdx).map fun e => (e.2, { request := some (1000 * e.1) }) })).allocate =
      [505, 488, 400, 400, 442, 403, 400, 400] := by decide +kernel

/-- `PathInstr` for the instructions that the witnesses use. -/
def onGroup (t : TileId) (g : Grp) : Instr → Bool
  | .passInstruction a b _ | .copyInstruction a b _ | .readLaneStatus a b | .exit a b .. | .fence a b .. => a == t && b == g
  | _ => false

/-! ## What the invariants assume is met -/

/-- A device whose release to END waits for its transition, and one whose floor is about to burn. -/
def burning : State :=
  { run0 with sec := { fuses := { lc := 2, ownerBurned := true }, transition := some 3, floorBurn := some (0, 5) } }

theorem burning_inv : FuseInv burning := by
  refine ⟨by decide, by decide, by decide, ?_, ?_⟩
  · intro n h
    obtain rfl : n = 3 := (Option.some.inj h).symm
    decide
  · intro w n h
    obtain ⟨rfl, rfl⟩ : 0 = w ∧ 5 = n := Prod.mk.inj (Option.some.inj h)
    decide

/-- What answers a next state has one. -/
theorem next_of_gives {c : Instr} {s : State} (h : gives c s (fun _ => true) = true) : ∃ t, exec c s = .next t := by
  unfold gives at h
  split at h
  · exact ⟨_, ‹_›⟩
  · exact absurd h (by decide)

theorem witness_FusesMoveForward : ∃ s t, FuseInv s ∧ step s = .next t := by
  obtain ⟨t, h⟩ := next_of_gives (c := .floorBurnComplete) (s := burning) (by decide +kernel)
  exact ⟨{ burning with pending := [.floorBurnComplete] }, t, burning_inv, h⟩

theorem witness_CanonicalState : ∃ s t, mapWf 0 s.regs = true ∧ Memory.wf s.dram.mem = true ∧ Memory.wf s.tile.scratch = true ∧
    QueueOk s ∧ step s = .next t := by
  obtain ⟨t, h⟩ := next_of_gives (c := .laneStore 0 0 0 (.scratch 4) [1, 2]) (s := run0) (by decide +kernel)
  refine ⟨{ run0 with pending := [.laneStore 0 0 0 (.scratch 4) [1, 2]] }, t, by decide +kernel, by decide +kernel, by decide +kernel, ?_, h⟩
  intro c hc
  obtain rfl := List.mem_singleton.1 hc
  decide

/-- LastingState: the ends of a transition and of a burn answer a next state, and the repairs in fuses, the flash, the accumulators and
the level of PWR_BRAKE_N do change. -/
theorem witness_LastingState :
    gives .transitionComplete burning (fun _ => true) = true ∧ gives .floorBurnComplete burning (fun _ => true) = true ∧
    gives (.fuseBurn 0 true) (at_ [(fAwlFuse_busy 0, 1)]
        { run0 with sec := { flash := { soft := [(0, ⟨1, 0, 0, 0⟩)] } } }) (fun t => t.sec.fuses.repairs != []) = true ∧
    gives (.trimWrite 3) (at_ [(fPwrDieA_trim_mv 3, 5)] run0) (fun t => t.sec.flash != run0.sec.flash) = true ∧
    gives .powerLoss { run0 with tile := { banks := [(0, 5)] } } (fun t => t.tile.banks != [(0, 5)]) = true ∧
    gives .brakeAssert run0 (fun t => t.pins.brakeLow != run0.pins.brakeLow) = true := by decide +kernel

/-- SplitsOfK: a pass over 64 columns of BF16, and its halves. The second half loads from the bank, and from raw images. -/
def half (k a b init : Nat) : PassDesc :=
  { readPass (List.replicate 64 0) with k := k, m := 2, n := 2, init := init, aOff := a, aStride := 128, bOff := b, bStride := 4, outOff := 9000 }

def splitFits (d d1 d2 : PassDesc) (f : Fmt) (rd rd2 : Reader) (bank : Nat → Nat → Nat) (i j : Nat) : Bool :=
  d1.k % 32 == 0 && d2.k % 32 == 0 && d.k == d1.k + d2.k && rawOf (rawRead (rawZero false)) == rawZero false &&
  ((List.range d1.k).all fun k =>
    elemAt f (rd (d1.aOff + i * d1.aStride) (rowBytes f d1.k)) k == elemAt f (rd (d.aOff + i * d.aStride) (rowBytes f d.k)) k &&
    elemAt f (rd (d1.bOff + k * d1.bStride) (rowBytes f d1.n)) j == elemAt f (rd (d.bOff + k * d.bStride) (rowBytes f d.n)) j) &&
  ((List.range d2.k).all fun k =>
    elemAt f (rd2 (d2.aOff + i * d2.aStride) (rowBytes f d2.k)) k == elemAt f (rd (d.aOff + i * d.aStride) (rowBytes f d.k)) (d1.k + k) &&
    elemAt f (rd2 (d2.bOff + k * d2.bStride) (rowBytes f d2.n)) j == elemAt f (rd (d.bOff + (d1.k + k) * d.bStride) (rowBytes f d.n)) j) &&
  !f.scaled && (let img := (passCell d1 f f .raw rd (rawZero false) i j).img
    (d2.init == 1 && bank i j == img) || (d2.init == 2 && rd2 (d2.outOff + i * d2.outStride + 8 * j) 8 == toLE 8 img))

def ones : Reader := fun o n => (List.range n).map fun i => if (o + i) % 2 = 0 then 0x80 else 0x3F
def bf16 : Fmt := .binary ⟨8, 7, 127, 0x7F7F, true, some 0x7FC0⟩

/-- 32 products of 1 by 1 leave 32 in the bank, whose image has exponent 5. -/
theorem witness_SplitsOfK :
    (passCell (half 32 0 1024 0) bf16 bf16 .raw ones (rawZero false) 1 1).img = 5 * 2 ^ 48 + 2 ^ 47 ∧
    splitFits (half 64 0 1024 0) (half 32 0 1024 0) (half 32 64 1152 1) bf16 ones ones (fun _ _ => 5 * 2 ^ 48 + 2 ^ 47) 1 1 = true ∧
    splitFits (half 64 0 1024 0) (half 32 0 1024 0) (half 32 64 1152 2) bf16 ones
      (fun o n => if o = 9008 then toLE 8 (5 * 2 ^ 48 + 2 ^ 47) else ones o n) (fun _ _ => 0) 1 1 = true := by decide +kernel

/-! ## Ill-formed commands are refused, one for each check -/

theorem wf_code : (Instr.rds { opcode := 2, source := 0 }).wf = false := by decide
theorem wf_source : (Instr.rds { opcode := 1, source := 32 }).wf = false := by decide
theorem wf_tag : (Instr.rds { opcode := 1, source := 0, tag := 2 ^ 14 }).wf = false := by decide
theorem wf_part : (Instr.rds { opcode := 1, source := 0, part := 17 }).wf = false := by decide
theorem wf_line : (Instr.rds { opcode := 1, source := 0, addr := 8 }).wf = false := by decide
theorem wf_frame : (Instr.arrive 0 { type := 2 }).wf = false := by decide
theorem wf_offset : (Instr.registerWrite .pf 4 0).wf = false := by decide
theorem wf_beyond : (Instr.registerWrite (.vf 0) (2 ^ 24) 0).wf = false := by decide
theorem wf_narrow : (Instr.narrowAccess .pf 8 8 false 0).wf = false := by decide
theorem wf_narrow_width : (Instr.narrowAccess .pf 8 3 false 0).wf = false := by decide
theorem wf_unassigned : (Instr.unassignedAccess .pf 4 false).wf = false := by decide
theorem wf_load : (Instr.laneLoad 0 0 0 (.scratch 0) 3).wf = false := by decide
theorem wf_store : (Instr.laneStore 0 0 0 (.scratch 0) []).wf = false := by decide
theorem wf_eye_add : (Instr.eyeCtlAdd 0 65536 0).wf = false := by decide
theorem wf_eye_arm : (Instr.eyeCtlArm 0 65536 0).wf = false := by decide
theorem wf_challenge : (Instr.challenge 0 []).wf = false := by decide
theorem wf_measurements : (Instr.getMeasurements 0 false []).wf = false := by decide
theorem wf_config : (Instr.configurationRequest 0 2 false 0).wf = false := by decide
theorem wf_config_beyond : (Instr.configurationRequest 0 4096 false 0).wf = false := by decide
theorem wf_check : (Instr.commitCheckDone 1001).wf = false := by decide
theorem wf_mem_rd : (Instr.memRd ⟨0, 1⟩ .i 0).wf = false := by decide
theorem wf_mem_inv : (Instr.memInv ⟨0, 1⟩ .i 0).wf = false := by decide
theorem wf_mem_wr : (Instr.memWr ⟨0, 0⟩ .i 0 0 []).wf = false := by decide
theorem wf_spill : (Instr.spillHostData 1 [] false).wf = false := by decide
theorem wf_dram : (Instr.dramSensorSample 0 []).wf = false := by decide
theorem wf_thermal : (Instr.thermalSample 0 [] []).wf = false := by decide
theorem wf_good : (Instr.rds { opcode := 1, source := 0 }).wf = true := by decide

/-! ## The hypotheses of the statements are met -/

theorem witness_StepRunsFront :
    (([{ State.reset with pending := [.tick] }] : List (State)).all fun s =>
      match s.pending with
      | _ :: _ =>
        true
      | _ => false) ∧
    (([State.reset] : List (State)).all fun s =>
      decide (s.pending = [])) := by decide +kernel

theorem witness_Ticks :
    (([due (run0), due ({ State.reset with clock := { running := true } })] : List (State)).all fun s =>
      decide (s.tickDue = true) && decide (s.sourceInForce = 0)) ∧
    (([(due (at_ [(fStchSource_source, 1)] { run0 with clock := { run0.clock with refAt := 1000 } }), 10900), (due (at_
      [(fStchSource_source, 1)] { run0 with clock := { run0.clock with refAt := 1000 } }), 11100)] : List (State × Nat)).all fun (s, at_) =>
      decide (s.tickDue = true) && decide (s.sourceInForce = 1) && decide (s.edgeExpected ≤ at_ + 100) && decide (at_ ≤ s.edgeExpected +
        100)) ∧
    (([(at_ [(fStchSource_source, 1)] { run0 with clock := { run0.clock with refAt := 1000 } }, 10899), (at_ [(fStchSource_source, 1)]
      { run0 with clock := { run0.clock with refAt := 1000 } }, 11101)] : List (State × Nat)).all fun (s, at_) =>
      decide (s.clock.running = true) && decide (s.sourceInForce = 1) && decide (¬(s.edgeExpected ≤ at_ + 100 ∧ at_ ≤ s.edgeExpected + 100))) ∧
    (([due (at_ [(fStchSource_source, 1)] { run0 with clock := { run0.clock with refAt := 1000 } }), due (at_ [(fStchSource_source, 1)]
      { run0 with clock := { run0.clock with missedRun := 14 } })] : List (State)).all fun s =>
      decide (s.tickDue = true) && decide (s.sourceInForce = 1) && decide (s.clock.missedRun + 1 < 16)) ∧
    (([due (at_ [(fStchSource_source, 1)] { run0 with clock := { run0.clock with missedRun := 15 } })] : List (State)).all fun s =>
      decide (s.tickDue = true) && decide (s.sourceInForce = 1) && decide (16 ≤ s.clock.missedRun + 1)) ∧
    (([due (at_ [(fStchSource_source, 2)] { run0 with clock := { run0.clock with refAt := 1000 } })] : List (State)).all fun s =>
      decide (s.tickDue = true) && decide (s.sourceInForce = 2)) ∧
    (([State.reset] : List (State)).all fun s =>
      decide (s.tickDue = false)) ∧
    (([({ run0 with clock := { run0.clock with arrived := 1, issued := false } }, 7)] : List (State × Die)).all fun (s, d) =>
      decide (s.clock.running = true) && decide (s.stitch ≠ 0) && decide (s.clock.arrived ≠ 0) && decide (s.clock.arrived.testBit d.val =
        false)) ∧
    (([{ run0 with clock := { run0.clock with arrived := 0, issued := false } }] : List (State)).all fun s =>
      decide (s.clock.running = true) && decide (s.stitch ≠ 0) && decide (s.clock.arrived = 0)) ∧
    (([{ run0 with clock := { run0.clock with issued := false } }] : List (State)).all fun s =>
      decide (s.clock.running = true) && decide (s.clock.issued = false) && decide (s.clock.arrived = 255)) ∧
    (([run0] : List (State)).all fun s =>
      decide (s.clock.running = true) && decide (s.clock.issued = true) && decide (s.clock.slackOpen = false)) ∧
    (([(run0, 7)] : List (State × Die)).all fun (s, d) =>
      decide (s.clock.arrived.testBit d.val = true)) ∧
    (([run0] : List (State)).all fun s =>
      decide (s.clock.issued = true)) ∧
    (([{ run0 with clock := { run0.clock with slackOpen := true } }] : List (State)).all fun s =>
      decide (s.clock.slackOpen = true)) ∧
    (([(run0, 3), (run0, 7)] : List (State × Die)).all fun (s, d) =>
      decide (d.val ≠ 0) && decide (s.get (fLaceStatus_parent d) = 0)) := by decide +kernel

theorem witness_LoaderControl :
    (([(at_ [(fLdrStatus_state, 4), (fLdrLen_len, 256)], 1)] : List (State × Word)).all fun (s, v) =>
      decide (v.toNat % 8 = 1) && decide (s.loaderIdle = true) && decide (s.get fFltStatus_out_of_service = 0) && decide (s.sec.fuses.lc ≠
        4) && decide (256 ≤ s.get fLdrLen_len)) ∧
    (([(at_ [(fLdrLen_len, 255)], 0x101)] : List (State × Word)).all fun (s, v) =>
      decide (v.toNat % 8 = 1) && decide (s.loaderIdle = true) && decide (s.get fFltStatus_out_of_service = 0) && decide (s.sec.fuses.lc ≠
        4) && decide (s.get fLdrLen_len < 256)) ∧
    (([(at_ [(fFltStatus_out_of_service, 1)], 1), ({ State.reset with sec := { fuses := { lc := 4 } } }, 1)] : List (State × Word)).all fun
      (s, v) =>
      decide (v.toNat % 8 = 1) && decide (s.loaderIdle = true) && decide (s.get fFltStatus_out_of_service = 1 ∨ s.sec.fuses.lc = 4)) ∧
    (([(at_ [(fLdrStatus_state, 1)], 1)] : List (State × Word)).all fun (s, v) =>
      decide (v.toNat % 8 = 1) && decide (s.loaderIdle = false)) ∧
    (([(at_ [(fLdrStatus_state, 4), (fLdrLen_len, 256)], 2)] : List (State × Word)).all fun (s, v) =>
      decide (v.toNat % 8 = 2) && decide (s.get fLdrStatus_state = 4)) ∧
    (([(State.reset, 2)] : List (State × Word)).all fun (s, v) =>
      decide (v.toNat % 8 = 2) && decide (s.get fLdrStatus_state ≠ 4)) ∧
    (([(at_ [(fLdrStatus_state, 1)], 4), (at_ [(fLdrStatus_state, 4), (fLdrLen_len, 256)], 4)] : List (State × Word)).all fun (s, v) =>
      decide (v.toNat % 8 = 4) && decide (1 ≤ s.get fLdrStatus_state) && decide (s.get fLdrStatus_state ≤ 4)) ∧
    (([(State.reset, 4), (at_ [(fLdrStatus_state, 5)], 4)] : List (State × Word)).all fun (s, v) =>
      decide (v.toNat % 8 = 4) && decide (s.get fLdrStatus_state = 0 ∨ 4 < s.get fLdrStatus_state)) ∧
    (([(at_ [(fLdrStatus_state, 4), (fLdrLen_len, 256)], 0x307)] : List (State × Word)).all fun (s, v) =>
      decide (s.loaderIdle = true) && decide (v.toNat % 8 = 7)) ∧
    (([at_ [(fLdrStatus_state, 1)]] : List (State)).all fun s =>
      decide (s.get fLdrStatus_state = 1) && decide (s.imageReady 0 = true) && decide (s.uciRestarts = false)) := by decide +kernel

theorem witness_LoadEnds :
    (([(at_ [(fLdrStatus_state, 1), (fLdrCtrl_host, 1), (fUciStatus_link_up, 1), (fLdrLen_len, 4)], [1, 2, 3, 4], true), (at_
      [(fLdrStatus_state, 1), (fLdrLen_len, 4)], [], true)] : List (State × (List Byte) × Bool)).all fun (s, hostImage, fetched) =>
      decide (s.get fLdrStatus_state = 1) && decide (s.imageReady 0 = true) && decide (s.uciRestarts = false) &&
      match s.fetchImage (s.flag fLdrCtrl_host) (64 * s.get fLdrAddr_addr) (s.get fLdrLen_len) hostImage (fetched &&
        !s.sec.badReads.contains 0) with
      | (some _, _) =>
        true
      | _ => false) ∧
    (([(at_ [(fLdrStatus_state, 1)], [], false)] : List (State × (List Byte) × Bool)).all fun (s, hostImage, fetched) =>
      decide (s.get fLdrStatus_state = 1) && decide (s.imageReady 0 = true) && decide (s.uciRestarts = false) &&
      match s.fetchImage (s.flag fLdrCtrl_host) (64 * s.get fLdrAddr_addr) (s.get fLdrLen_len) hostImage (fetched &&
        !s.sec.badReads.contains 0) with
      | (none, _) =>
        true
      | _ => false) ∧
    (([State.reset, at_ [(fLdrStatus_state, 1), (fFltStatus_dies_recovering, 1)] { State.reset with flt := { dieAt := [(0, some 0)] } }] :
      List (State)).all fun s =>
      decide (s.get fLdrStatus_state ≠ 1 ∨ s.imageReady 0 = false ∨ s.uciRestarts = true)) := by decide +kernel

theorem witness_Commits :
    (([(run0, 0x111)] : List (State × Word)).all fun (s, v) =>
      decide (v.toNat.testBit 8 = true) && decide (v.toNat % 256 = 17) && decide (s.commitPending 17 = false)) ∧
    (([(run0, 0x101), ({ run0 with cfg := { accepted := [{ group := 17 }] } }, 0x111)] : List (State × Word)).all fun (s, v) =>
      decide (v.toNat.testBit 8 = true) && decide (v.toNat % 256 ≠ 17 ∨ s.commitPending 17 = true)) ∧
    (([(run0, 0, 1)] : List (State × (Fin 16) × Word)).all fun (s, n, v) =>
      match s.partOfFn (n.val + 1) with
      | some p =>
        decide (v.toNat.testBit 0 = true) && decide (s.commitPending (18 + p) = false)
      | _ => false) ∧
    (([({ run0 with cfg := { accepted := [{ group := 18 }] } }, 0, 1)] : List (State × (Fin 16) × Word)).all fun (s, n, v) =>
      match s.partOfFn (n.val + 1) with
      | some p =>
        decide (v.toNat.testBit 0 = true) && decide (s.commitPending (18 + p) = true)
      | _ => false) ∧
    (([({ run0 with cfg := { checks := [{ group := 17, fields := [(fPwrCapSet_cap_w.key, 5000), (fPwrFloorSet_floor_w.key, 100)] }] } },
      1000)] : List (State × Nat)).all fun (s, after) =>
      match s.cfg.checks with
      | c :: cs =>
        decide (c.viaLoader = false) && decide (c.group = 17) &&
        let u := { s with cfg := { s.cfg with checks := cs } }.advanceTo (s.clock.now + min 1000 after)
        decide (s.commitPending 17 = false) && decide (u.pwrChecks (c.val fPwrCapSet_cap_w) (c.val fPwrFloorSet_floor_w) = [])
      | _ => false) ∧
    (([({ run0 with cfg := { checks := [{ group := 18 }] } }, 1001, 0)] : List (State × Nat × Nat)).all fun (s, after, p) =>
      match s.cfg.checks with
      | c :: cs =>
        decide (c.viaLoader = false) && decide (p < 16) && decide (c.group = 18 + p) &&
        let u := { s with cfg := { s.cfg with checks := cs } }.advanceTo (s.clock.now + min 1000 after)
        decide (s.commitPending (18 + p) = false) && decide (u.ringChecks p (c.rings p) = [])
      | _ => false) ∧
    (([({ run0 with cfg := { checks := [{ group := 17, fields := [(fPwrCapSet_cap_w.key, 5000), (fPwrFloorSet_floor_w.key, 6000)] }] } },
      0)] : List (State × Nat)).all fun (s, after) =>
      match s.cfg.checks with
      | c :: cs =>
        decide (c.viaLoader = false) && decide (c.group = 17) &&
        let u := { s with cfg := { s.cfg with checks := cs } }.advanceTo (s.clock.now + min 1000 after)
        decide (s.commitPending 17 = false) && decide (u.pwrChecks (c.val fPwrCapSet_cap_w) (c.val fPwrFloorSet_floor_w) ≠ [])
      | _ => false) ∧
    (([({ { run0 with cfg := { checks := [{ group := 16, viaLoader := true }] } } with ldr := { staged := some (.partition { lastP with sequence := 5 }) } },
      0)] : List (State × Nat)).all fun (s, after) =>
      match s.cfg.checks with
      | c :: cs =>
        decide (c.viaLoader = true) &&
        match s.ldr.staged with
        | some l =>
          let u := { s with cfg := { s.cfg with checks := cs } }.advanceTo (s.clock.now + min 1000 after)
          decide (u.lastChecks l = [])
        | _ => false
      | _ => false) ∧
    (([({ { run0 with cfg := { checks := [{ group := 16, viaLoader := true }] } } with ldr := { staged := some (.partition { lastP with period := 11 }) } },
      0)] : List (State × Nat)).all fun (s, after) =>
      match s.cfg.checks with
      | c :: cs =>
        decide (c.viaLoader = true) &&
        match s.ldr.staged with
        | some l =>
          let u := { s with cfg := { s.cfg with checks := cs } }.advanceTo (s.clock.now + min 1000 after)
          decide (u.lastChecks l ≠ [])
        | _ => false
      | _ => false) ∧
    (([run0] : List (State)).all fun s =>
      decide (s.cfg.checks = [])) := by decide +kernel

theorem witness_IssueRules :
    (([(State.reset, 0, 0, .readLaneStatus 0 0), (withGrp { grp with paths := [{ mask := 3, pc := 0, state := .parked [] 0 }] }, 0, 0,
      .fence 0 0 1 0)] : List (State × TileId × Grp × Instr)).all fun (s, t, g, i) =>
      decide (onGroup t g i = true) && decide (s.issuing t g = none)) ∧
    (([(withTile { task := some 1, groups := [(0, grp)], passes := [pass, pass, pass, pass] }, 0, 0, .passInstruction 0 0 0), (due, 0, 0,
      .copyInstruction 0 0 0)] : List (State × TileId × Grp × Instr)).all fun (s, t, g, i) =>
      decide (onGroup t g i = true) && decide (s.engineFull t i = true)) ∧
    (([(withGrp { grp with paths := [{ mask := 3, pc := 64 }] }, 0, 0, .readLaneStatus 0 0), (withGrp
      { grp with paths := [{ mask := 3, pc := 8 }] }, 0, 0, .exit 0 0 1)] : List (State × TileId × Grp × Instr)).all fun (s, t, g, i) =>
      decide (onGroup t g i = true) && decide (s.engineFull t i = false) &&
      match s.issuing t g with
      | some (k, _, y) =>
        decide (s.codeLength k.part ≤ y.pc ∨ y.pc % 16 ≠ 0)
      | _ => false) ∧
    (([({ run0 with dram := { ue := [1] } }, 0, 0, .readLaneStatus 0 0)] : List (State × TileId × Grp × Instr)).all fun (s, t, g, i) =>
      decide (onGroup t g i = true) && decide (s.engineFull t i = false) &&
      match s.issuing t g with
      | some (k, _, y) =>
        decide (y.pc < s.codeLength k.part) && decide (y.pc % 16 = 0) && decide ((s.readCode t k.part y.pc).1 = false)
      | _ => false) ∧
    (([(withTile { task := some 1, groups := [(0, grp)], l1 := [⟨true, 1, 2 ^ 64 - 1, 0, List.replicate 64 0, 0⟩] }, 0, 0)] : List (State ×
      TileId × Grp)).all fun (s, t, g) =>
      match s.issuing t g with
      | some (k, _, y) =>
        decide (y.pc < s.codeLength k.part) && decide (y.pc % 16 = 0) && decide (((s.tileAt t).l1.any fun l => l.instr && l.key ==
          (s.codeOffset k.part + y.pc) / 64) = true)
      | _ => false) ∧
    (([(run0, 0, 0)] : List (State × TileId × Grp)).all fun (s, t, g) =>
      match s.issuing t g with
      | some (k, _, y) =>
        decide (y.pc < s.codeLength k.part) && decide (y.pc % 16 = 0) && decide ((s.readCode t k.part y.pc).1 = true)
      | _ => false) ∧
    (([(run0, 0, 0)] : List (State × TileId × Grp)).all fun (s, t, g) =>
      match s.fetchPath t g with
      | (some (_, _), _) =>
        true
      | _ => false) ∧
    (([(run0, 0, 0, 7)] : List (State × TileId × Grp × LaneMask)).all fun (s, t, g, taken) =>
      match s.fetchPath t g with
      | (some (_, y), u) =>
        decide (y.mask ≠ 0) && decide (y.lanes taken.toNat = y.mask) &&
        match (u.groupAt t g).paths[(u.groupAt t g).cur]? with
        | some _ =>
          decide (∀ x ∈ (u.groupAt t g).paths, x.splits = [])
        | _ => false
      | _ => false) ∧
    (([(run0, 0, 0, 1), (run0, 0, 0, 3)] : List (State × TileId × Grp × LaneMask)).all fun (s, t, g, lanes) =>
      match s.fetchPath t g with
      | (some (_, y), _) =>
        decide (y.lanes lanes.toNat ≠ 0)
      | _ => false) ∧
    (([(run0, 0, 0, 1), (run0, 0, 0, 3)] : List (State × TileId × Grp × LaneMask)).all fun (s, t, g, lanes) =>
      match s.fetchPath t g with
      | (some (_, y), _) =>
        decide (y.lanes lanes.toNat ≠ 0)
      | _ => false) ∧
    (([(withGrp { grp with count := 64, paths := [{ mask := 3, pc := 16 }, { mask := 4, pc := 16 }] }, 0, 0)] : List (State × TileId ×
      Grp)).all fun (s, t, g) =>
      decide (64 ≤ (s.groupAt t g).count) &&
      match (s.groupAt t g).nextReady with
      | some _ =>
        true
      | _ => false) ∧
    (([(withTile { task := some 1, groups := [] }, 0)] : List (State × TileId)).all fun (s, t) =>
      match s.taskOn t with
      | some k =>
        decide (k.phase = .running) && decide ((s.tileAt t).ending = false) && decide (s.liveGroups t = []) && decide ((s.tileAt t).passes =
          []) && decide ((s.tileAt t).running = none)
      | _ => false) := by decide +kernel

theorem witness_LoadsAndStores :
    (([(run0, 0, 0, 0, 786428, 4), (withGrp { grp with inst := some ⟨0, 0, 3, 2⟩ }, 0, 0, 1, 0, 8)] : List (State × TileId × Grp × (Fin 32)
      × Nat × Nat)).all fun (s, t, g, lane, off, len) =>
      match s.fetchLane t g lane 0 with
      | (some (_, _), u) =>
        decide (u.outOfStore t off len = false)
      | _ => false) ∧
    (([(run0, 0, 0, 0, 786429, 4)] : List (State × TileId × Grp × (Fin 32) × Nat × Nat)).all fun (s, t, g, lane, off, len) =>
      match s.fetchLane t g lane 0 with
      | (some (_, _), u) =>
        decide (u.outOfStore t off len = true)
      | _ => false) ∧
    (([(withTile { task := some 1, groups := [(0, grp)], l1 := [⟨false, 0, 15, 0, List.replicate 64 9#8, 0⟩] }, 0, 0, 0, 0, 4)] : List
      (State × TileId × Grp × (Fin 32) × Nat × Nat)).all fun (s, t, g, lane, pa, len) =>
      match s.fetchLane t g lane 0 with
      | (some (_, _), u) =>
        decide (0 < len) && decide (pa % 64 + len ≤ 64) && decide ((u.groupAt t g).queue = []) &&
        match u.l1Line t (pa / 64) with
        | some l =>
          decide (∀ i < len, l.valid.testBit (pa % 64 + i) = true)
        | _ => false
      | _ => false) ∧
    (([(run0, 0, 0, 0)] : List (State × TileId × Grp × (Fin 32))).all fun (s, t, g, lane) =>
      match s.fetchLane t g lane 0 with
      | (some (_, _), _) =>
        true
      | _ => false) ∧
    (([(run0, 0, 0, 0, 60, [1, 2, 3, 4]), (withGrp { grp with queue := [⟨true, 0, 1, List.replicate 64 7⟩] }, 0, 0, 0, 60, [1, 2, 3, 4])] :
      List (State × TileId × Grp × (Fin 32) × Nat × (List Byte))).all fun (s, t, g, lane, off, data) =>
      match s.fetchLane t g lane 1 with
      | (some (_, _), u) =>
        decide (off % 64 + data.length ≤ 64) && decide (∀ e ∈ (u.groupAt t g).queue, e.data.length = 64) && decide (s.outOfStore t off
          data.length = false) && decide ((s.groupAt t g).hasRoom true (granules off data.length) = true)
      | _ => false) ∧
    (([(run0, 0, 0, 0, 0, List.replicate 64 5), (withGrp { grp with queue := [⟨false, 0, 1, List.replicate 64 7⟩] }, 0, 0, 0, 60, [1, 2, 3,
      4])] : List (State × TileId × Grp × (Fin 32) × Nat × (List Byte))).all fun (s, t, g, lane, pa, data) =>
      match s.fetchLane t g lane 1 with
      | (some (_, _), u) =>
        decide (pa % 64 + data.length ≤ 64) && decide (∀ e ∈ (u.groupAt t g).queue, e.data.length = 64) && decide ((s.groupAt t g).hasRoom
          false (granules pa data.length) = true)
      | _ => false) ∧
    (([(run0, 0, 0, 0, 786432, [1])] : List (State × TileId × Grp × (Fin 32) × Nat × (List Byte))).all fun (s, t, g, lane, off, data) =>
      match s.fetchLane t g lane 1 with
      | (some (_, _), _) =>
        decide (s.outOfStore t off data.length = true)
      | _ => false) ∧
    (([(withGrp { grp with queue := (List.range 32).map fun i => ⟨true, 64 * i, 1, List.replicate 64 7⟩ }, 0, 0, 4096, [1])] : List (State ×
      TileId × Grp × Nat × (List Byte))).all fun (s, t, g, pa, data) =>
      decide ((s.groupAt t g).hasRoom false (granules pa data.length) = false)) ∧
    (([(run0, 0, 0, 0)] : List (State × TileId × Grp × (Fin 32))).all fun (s, t, g, lane) =>
      match s.issuing t g with
      | some (k, _, y) =>
        decide (y.mask.testBit lane.val = true) && decide (lowestLane y.mask = lane.val) && decide ((s.fetchPath t g).1 = some (k, y))
      | _ => false) ∧
    (([(withGrp { grp with paths := [], inst := some ⟨0, 16, 3, 2⟩ }, 0, 0, 1)] : List (State × TileId × Grp × (Fin 32))).all fun (s, t, g,
      lane) =>
      decide (s.issuing t g = none) &&
      match s.taskOn t with
      | some k =>
        decide (k.phase = .running) && decide ((s.tileAt t).ending = false) &&
        match (s.groupAt t g).inst with
        | some z =>
          decide (z.left.testBit lane.val = true)
        | _ => false
      | _ => false) ∧
    (([(withGrp { grp with queue := [⟨true, 64, 1, List.replicate 64 7⟩] }, 0, 0, 0)] : List (State × TileId × Grp × Nat)).all fun (s, t, g,
      n) =>
      match s.taskOn t with
      | some _ =>
        match (s.groupAt t g).queue[n]? with
        | some e =>
          decide (e.scratch = true)
        | _ => false
      | _ => false) ∧
    (([(withGrp { grp with queue := [⟨false, 64, 1, List.replicate 64 7⟩] }, 0, 0, 0), (withGrp
      { grp with queue := [⟨false, 2097152, 1, List.replicate 64 7⟩] }, 0, 0, 0)] : List (State × TileId × Grp × Nat)).all fun (s, t, g, n)
      =>
      match s.taskOn t with
      | some k =>
        match (s.groupAt t g).queue[n]? with
        | some e =>
          decide (e.scratch = false) &&
          match s.translate k.part e.base with
          | some _ =>
            true
          | _ => false
        | _ => false
      | _ => false) ∧
    (([(run0, 0, 0, 0)] : List (State × TileId × Grp × Nat)).all fun (s, t, g, n) =>
      decide ((s.groupAt t g).queue[n]? = none)) := by decide +kernel

theorem witness_FencesAndPins :
    (([(withTile { task := some 1, groups := [(0, grp)], l1 := [⟨false, 0, 15, 0, List.replicate 64 9#8, 0⟩] }, 0, 0, 4), (run0, 0, 0, 0),
      (withTile { task := some 1, groups := [(0, grp)], l1 := [⟨false, 0, 15, 0, List.replicate 64 9#8, 0⟩] }, 0, 0, 2)] : List (State ×
      TileId × Grp × (BitVec 3))).all fun (s, t, g, scope) =>
      match s.fetchPath t g with
      | (some (_, _), _) =>
        decide (scope.toNat ≤ 4)
      | _ => false) ∧
    (([(run0, 0, 0, 2, 4), (withGrp { grp with queue := [⟨false, 64, 1, List.replicate 64 7⟩] }, 0, 0, 3, 4)] : List (State × TileId × Grp ×
      (BitVec 2) × (BitVec 3))).all fun (s, t, g, ordering, scope) =>
      match s.fetchPath t g with
      | (some (_, _), _) =>
        decide (2 ≤ ordering.toNat) && decide (scope.toNat ≤ 4)
      | _ => false) ∧
    (([(run0, 0, 0, 0, 0), (run0, 0, 0, 3, 5)] : List (State × TileId × Grp × (BitVec 2) × (BitVec 3))).all fun (s, t, g, ordering, scope)
      =>
      match s.fetchPath t g with
      | (some (_, _), _) =>
        decide (ordering = 0 ∨ 4 < scope.toNat)
      | _ => false) ∧
    (([(withGrp { grp with paths := [{ mask := 3, pc := 0, state := .parked [] 0 }] }, 0, 0, 0)] : List (State × TileId × Grp × Nat)).all
      fun (s, t, g, n) =>
      match (s.groupAt t g).paths[n]? with
      | some y =>
        match y.state with
        | .parked _ _ =>
          true
        | _ => false
      | _ => false) ∧
    (([(run0, 0, 0, 0)] : List (State × TileId × Grp × Nat)).all fun (s, t, g, n) =>
      match (s.groupAt t g).paths[n]? with
      | some y =>
        decide (y.state = .run)
      | _ => false) ∧
    (([(run0, 0, 0)] : List (State × TileId × Grp)).all fun (s, t, g) =>
      match s.fetchPath t g with
      | (some (_, _), _) =>
        true
      | _ => false) ∧
    (([({ run0 with coh := { l3 := [{ line0 with pinned := true }] } }, 0, 255)] : List (State × Nat × Nat)).all fun (s, p, pa) =>
      match s.translate p pa with
      | some h =>
        decide (h.spill = false) &&
        match s.l3Line (lineOf h.bulk h.addr) with
        | some l =>
          decide (l.pinned = true)
        | _ => false
      | _ => false) ∧
    (([(run0, 0, 0)] : List (State × Nat × Nat)).all fun (s, p, pa) =>
      match s.translate p pa with
      | some h =>
        decide (h.spill = false) && decide (s.l3Line (lineOf h.bulk h.addr) = none) && decide (s.pinShare (dpaDie h.addr) p < s.pinnedIn
          (lineOf h.bulk h.addr) h.bulk p + 1)
      | _ => false) ∧
    (([(run0, 0, 2097152)] : List (State × Nat × Nat)).all fun (s, p, pa) =>
      match s.translate p pa with
      | some h =>
        decide (h.spill = true)
      | _ => false) := by decide +kernel

theorem witness_Atomics :
    (([(run0, 0, 0, { lane := 0, loc := .scratch 8, operand := 5 }, 0, 0x41, 0, 4), (run0, 0, 0,
      { lane := 0, loc := .scratch 786424, operand := 5 }, 0x10, 0x40, 7, 0)] : List (State × TileId × Grp × LaneOp × (BitVec 8) × (BitVec
      8) × (BitVec 3) × (BitVec 3))).all fun (s, t, g, op, fn, ty, round, scope) =>
      match s.fetchLane t g op.lane 2 with
      | (some (k, _), u) =>
        match op.loc with
        | .scratch off =>
          decide (scope.toNat ≤ 4) &&
          match elemBytes ty.toNat with
          | some n =>
            decide (if fn.toNat = fnSwap ∨ fn.toNat = fnCas then swapAllows ty.toNat = true else opAllows fn.toNat ty.toNat = true ∧
              u.roundOf k.part round.toNat < 4) && decide (u.outOfStore t off n = false) && decide (∀ e ∈ (u.groupAt t g).queue, e.scratch =
              true → e.base ≠ alignDown off 64) && decide (u.taskOn t = some k) && decide (∃ z ∈ (u.groupAt t g).paths, z.mask.testBit
              op.lane.val = true) && decide ((u.groupAt t g).paths.length ≤ 32) && decide (((u.tileAt t).groups.all fun e => e.2.paths.all
              fun z => (match z.state with | .waiting .. => false | _ => true)) = true)
          | _ => false
        | _ => false
      | _ => false) ∧
    (([(run0, 0, 0, { lane := 0, loc := .mem 8, operand := 5 }, 0x11, 0x41, 0, 4), (run0, 0, 0,
      { lane := 0, loc := .mem 2097160, operand := 5 }, 0x0, 0x41, 3, 2)] : List (State × TileId × Grp × LaneOp × (BitVec 8) × (BitVec 8) ×
      (BitVec 3) × (BitVec 3))).all fun (s, t, g, op, fn, ty, round, scope) =>
      match s.fetchLane t g op.lane 2 with
      | (some (k, _), u) =>
        match op.loc with
        | .mem _ =>
          decide (scope.toNat ≤ 4) && decide (if fn.toNat = fnSwap ∨ fn.toNat = fnCas then swapAllows ty.toNat = true else opAllows fn.toNat
            ty.toNat = true ∧ u.roundOf k.part round.toNat < 4)
        | _ => false
      | _ => false) ∧
    (([(run0, 0, 0, [{ lane := 0, loc := .mem 8, operand := 5 }], 0x8, 0x1, 3), (run0, 0, 0, [], 0x7, 0x41, 0)] : List (State × TileId × Grp
      × (List LaneOp) × (BitVec 8) × (BitVec 8) × (BitVec 3))).all fun (s, t, g, ops, fn, ty, round) =>
      match s.fetchPath t g with
      | (some (k, y), u) =>
        let mine := ops.filter (fun o => y.mask.testBit o.lane)
        match elemBytes ty.toNat with
        | some n =>
          decide (opAllows fn.toNat ty.toNat = true) && decide (u.roundOf k.part round.toNat < 4) && decide ((mine.all fun o =>
            (match o.loc with | .mem pa => pa % n == 0 | _ => false)) = true)
        | _ => false
      | _ => false) ∧
    (([(run0, 0, 0, { lane := 0, loc := .scratch 8, operand := 5 }, 8, 8, 0x41), (run0, 0, 0, { lane := 0, loc := .mem 4, operand := 5 }, 8,
      4, 0x41)] : List (State × TileId × Grp × LaneOp × Nat × Nat × (BitVec 8))).all fun (s, t, g, o, n, off, ty) =>
      match s.fetchPath t g with
      | (some (_, y), _) =>
        decide (y.mask.testBit o.lane.val = true) && decide (o.loc = .scratch off ∨ o.loc = .mem off ∧ off % n ≠ 0) && decide (elemBytes
          ty.toNat = some n)
      | _ => false) ∧
    (([(run0, 0, 0, [{ lane := 0, loc := .mem 8, operand := 5 }], 0x41)] : List (State × TileId × Grp × (List LaneOp) × (BitVec 8))).all fun
      (s, t, g, ops, ty) =>
      match s.fetchPath t g with
      | (some (_, y), _) =>
        let mine := ops.filter (fun o => y.mask.testBit o.lane)
        decide (mine ≠ []) && decide (swapAllows ty.toNat = true) && decide ((mine.all fun o =>
          (match o.loc with | .mem _ => true | _ => false)) = true)
      | _ => false) ∧
    (([(withGrp { grp with paths := [{ mask := 1, pc := 16 }] }, 0, 0, { lane := 0, loc := .scratch 8, operand := 5 }, 0x41)] : List (State
      × TileId × Grp × LaneOp × (BitVec 8))).all fun (s, t, g, o, ty) =>
      match s.fetchPath t g with
      | (some (_, y), u) =>
        decide (y.mask = 2 ^ o.lane.val) &&
        match o.loc with
        | .scratch off =>
          decide (swapAllows ty.toNat = true) &&
          match elemBytes ty.toNat with
          | some n =>
            decide (u.outOfStore t off n = false) && decide (∀ e ∈ (u.groupAt t g).queue, e.scratch = true → e.base ≠ alignDown off 64) &&
              decide (leNat (u.scratchRead t off n) = o.compare.toNat % 2 ^ (8 * n))
          | _ => false
        | _ => false
      | _ => false) ∧
    (([(run0, 0, 0, { lane := 0, loc := .mem 8, operand := 5 }, 5)] : List (State × TileId × Grp × LaneOp × (BitVec 3))).all fun (s, t, g,
      op, scope) =>
      match s.fetchLane t g op.lane 2 with
      | (some (_, _), _) =>
        decide (4 < scope.toNat)
      | _ => false) := by decide +kernel

theorem witness_Eyelets :
    (([(run0, 0, 0, 15, 4), (run0.setEye 0 ⟨2 ^ 63 - 1, false⟩, 0, 0, 0, 0)] : List (State × TileId × Grp × Nat × (BitVec 3))).all fun (s,
      t, g, i, scope) =>
      match s.fetchPath t g with
      | (some (k, _), u) =>
        match u.eyeletOf k.part i with
        | some _ =>
          decide (scope.toNat ≤ 4)
        | _ => false
      | _ => false) ∧
    (([(run0, 0, 0, 15, 4)] : List (State × TileId × Grp × Nat × (BitVec 3))).all fun (s, t, g, i, scope) =>
      match s.fetchPath t g with
      | (some (k, _), u) =>
        match u.eyeletOf k.part i with
        | some _ =>
          decide (scope.toNat ≤ 4)
        | _ => false
      | _ => false) ∧
    (([(run0, 0, 0, 16)] : List (State × TileId × Grp × Nat)).all fun (s, t, g, i) =>
      match s.fetchPath t g with
      | (some (k, _), u) =>
        decide (u.eyeletOf k.part i = none)
      | _ => false) ∧
    (([(run0, 0, 0, 15, 5)] : List (State × TileId × Grp × Nat × (BitVec 3))).all fun (s, t, g, i, scope) =>
      match s.fetchPath t g with
      | (some (k, _), u) =>
        match u.eyeletOf k.part i with
        | some _ =>
          decide (4 < scope.toNat) &&
          match (u.groupAt t g).paths[(u.groupAt t g).cur]? with
          | some _ =>
            true
          | _ => false
        | _ => false
      | _ => false) ∧
    (([(run0, 0, 0, 2, 3)] : List (State × TileId × Grp × Nat × (BitVec 3))).all fun (s, t, g, i, scope) =>
      match s.fetchPath t g with
      | (some (k, _), u) =>
        match u.eyeletOf k.part i with
        | some _ =>
          decide (scope.toNat ≤ 4) &&
          match (u.groupAt t g).paths[(u.groupAt t g).cur]? with
          | some _ =>
            true
          | _ => false
        | _ => false
      | _ => false) ∧
    (([((withGrp { grp with paths := [{ mask := 3, pc := 16, state := .eyeWait 2 5 3 }] }).setEye 2 ⟨0, true⟩, 0, 0, 0, 1)] : List (State ×
      TileId × Grp × Nat × Nat)).all fun (s, t, g, n, lane) =>
      match (s.groupAt t g).paths[n]? with
      | some y =>
        match y.state with
        | .eyeWait e _ _ =>
          decide ((s.eye e).void = true) && decide (lane < 32) && decide (y.mask.testBit lane = true)
        | _ => false
      | _ => false) ∧
    (([((withGrp { grp with paths := [{ mask := 3, pc := 16, state := .eyeWait 2 5 3 }] }).setEye 2 ⟨5, false⟩, 0, 0, 0, 0)] : List (State ×
      TileId × Grp × Nat × Nat)).all fun (s, t, g, n, lane) =>
      match (s.groupAt t g).paths[n]? with
      | some y =>
        match y.state with
        | .eyeWait e target _ =>
          decide ((s.eye e).void = false) && decide (target ≤ (s.eye e).count) && decide (lane < 32) && decide (y.mask.testBit lane = true)
        | _ => false
      | _ => false) ∧
    (([((withGrp { grp with paths := [{ mask := 3, pc := 16, state := .eyeWait 2 5 3 }] }).setEye 2 ⟨4, false⟩, 0, 0, 0)] : List (State ×
      TileId × Grp × Nat)).all fun (s, t, g, n) =>
      match (s.groupAt t g).paths[n]? with
      | some y =>
        match y.state with
        | .eyeWait e target _ =>
          decide ((s.eye e).void = false) && decide ((s.eye e).count < target)
        | _ => false
      | _ => false) ∧
    (([(run0, 0, 0, 2)] : List (State × TileId × Grp × Nat)).all fun (s, t, g, i) =>
      match s.fetchPath t g with
      | (some (k, _), u) =>
        match u.eyeletOf k.part i with
        | some _ =>
          true
        | _ => false
      | _ => false) ∧
    (([(run0.setEye 2 ⟨7, true⟩, 0, 0, 2)] : List (State × TileId × Grp × Nat)).all fun (s, t, g, i) =>
      match s.fetchPath t g with
      | (some (k, _), u) =>
        match u.eyeletOf k.part i with
        | some _ =>
          match (u.groupAt t g).paths[(u.groupAt t g).cur]? with
          | some _ =>
            true
          | _ => false
        | _ => false
      | _ => false) ∧
    (([(run0, 0, 15), (run0.setEye 15 ⟨2 ^ 63 - 1, false⟩, 0, 15)] : List (State × (Fin 16) × Nat)).all fun (s, n, i) =>
      match s.partOfFn (n.val + 1) with
      | some p =>
        decide (i < 65536) &&
        match s.eyeletOf p i with
        | some _ =>
          true
        | _ => false
      | _ => false) ∧
    (([(run0, 0, 15)] : List (State × (Fin 16) × Nat)).all fun (s, n, i) =>
      match s.partOfFn (n.val + 1) with
      | some p =>
        decide (i < 65536) &&
        match s.eyeletOf p i with
        | some _ =>
          true
        | _ => false
      | _ => false) ∧
    (([(run0, 0, 16)] : List (State × (Fin 16) × Nat)).all fun (s, n, i) =>
      match s.partOfFn (n.val + 1) with
      | some p =>
        decide (i < 65536) && decide (s.eyeletOf p i = none)
      | _ => false) := by decide +kernel

theorem witness_LaneResults :
    (([(run0, 0, 0)] : List (State × TileId × Grp)).all fun (s, t, g) =>
      match s.fetchPath t g with
      | (some (_, _), _) =>
        true
      | _ => false) ∧
    (([(run0, 0, 0, .code 1, .code 2, 7), (run0, 0, 0, .code 2, .code 0x22, 3), (run0, 0, 0, .code 0x11, .code 0x11, 0)] : List (State ×
      TileId × Grp × ConvFmt × ConvFmt × (BitVec 3))).all fun (s, t, g, src, dst, round) =>
      match s.fetchPath t g with
      | (some (k, _), u) =>
        match convFmt src with
        | some (some _) =>
          match convFmt dst with
          | some (some b) =>
            match u.laneMode k.part round.toNat b with
            | some _ =>
              true
            | _ => false
          | _ => false
        | _ => false
      | _ => false) ∧
    (([(run0, 0, 0, .code 2, 0)] : List (State × TileId × Grp × ConvFmt × (BitVec 3))).all fun (s, t, g, dst, round) =>
      match s.fetchPath t g with
      | (some (k, _), u) =>
        match convFmt dst with
        | some (some b) =>
          match u.laneMode k.part round.toNat b with
          | some _ =>
            true
          | _ => false
        | _ => false
      | _ => false) ∧
    (([(run0, 0, 0, .code 2, 0x3F800000, 0, 0)] : List (State × TileId × Grp × ConvFmt × Word × Byte × (BitVec 3))).all fun (s, t, g, src,
      v, sa, round) =>
      match s.fetchPath t g with
      | (some (k, _), u) =>
        match convFmt src with
        | some (some a) =>
          decide (u.roundOf k.part round.toNat < 4) &&
          match e8m0Write (u.roundOf k.part round.toNat) (a.read v.toNat sa.toNat) with
          | some _ =>
            true
          | _ => false
        | _ => false
      | _ => false) ∧
    (([(run0, 0, 0, .code 2, 0, 0, 0)] : List (State × TileId × Grp × ConvFmt × Word × Byte × (BitVec 3))).all fun (s, t, g, src, v, sa,
      round) =>
      match s.fetchPath t g with
      | (some (k, _), u) =>
        match convFmt src with
        | some (some a) =>
          decide (u.roundOf k.part round.toNat < 4) && decide (e8m0Write (u.roundOf k.part round.toNat) (a.read v.toNat sa.toNat) = none)
        | _ => false
      | _ => false) ∧
    (([(run0, 0, 0, .code 0x30, .code 1, 0), (run0, 0, 0, .code 1, .code 0x16, 0), (run0, 0, 0, .code 2, .e8m0, 4)] : List (State × TileId ×
      Grp × ConvFmt × ConvFmt × (BitVec 3))).all fun (s, t, g, src, dst, round) =>
      match s.fetchPath t g with
      | (some (k, _), u) =>
        decide ((match convFmt src, convFmt dst with | some _, some b => u.convMode k.part round.toNat b == none | _, _ => true) = true)
      | _ => false) ∧
    (([(run0, 0, 0, 2, 0x10, 0), (run0, 0, 0, 0x22, 0x20, 0)] : List (State × TileId × Grp × (BitVec 8) × (BitVec 8) × (BitVec 3))).all fun
      (s, t, g, src, dst, round) =>
      match s.fetchPath t g with
      | (some (k, _), u) =>
        match laneFmt src.toNat with
        | some _ =>
          match laneFmt dst.toNat with
          | some b =>
            decide (b.scaled = true) && decide (u.laneMode k.part round.toNat b ≠ none)
          | _ => false
        | _ => false
      | _ => false) ∧
    (([(run0, 0, 0, 2, 2, 0), (run0, 0, 0, 0x30, 0x10, 0)] : List (State × TileId × Grp × (BitVec 8) × (BitVec 8) × (BitVec 3))).all fun (s,
      t, g, src, dst, round) =>
      match s.fetchPath t g with
      | (some (k, _), u) =>
        decide
          ((match laneFmt src.toNat, laneFmt dst.toNat with | some _, some b => !b.scaled || u.laneMode k.part round.toNat b == none | _, _ => true)
          = true)
      | _ => false) ∧
    (([(run0, 0, 0, 2)] : List (State × TileId × Grp × (BitVec 8))).all fun (s, t, g, fmt) =>
      match s.fetchPath t g with
      | (some (_, _), _) =>
        match laneFmt fmt.toNat with
        | some _ =>
          true
        | _ => false
      | _ => false) ∧
    (([(run0, 0, 0, 0x30)] : List (State × TileId × Grp × (BitVec 8))).all fun (s, t, g, fmt) =>
      match s.fetchPath t g with
      | (some (_, _), _) =>
        decide (laneFmt fmt.toNat = none)
      | _ => false) ∧
    (([(run0, 0, 0, .add, 2, 0x3F800000, 0x3F800000, 0, 7), (run0, 0, 0, .sqrt, 1, 0xBFF0000000000000, 0, 0, 0)] : List (State × TileId ×
      Grp × ArithOp × (BitVec 8) × Word × Word × Word × (BitVec 3))).all fun (s, t, g, op, fmt, a, b, c, round) =>
      match s.fetchPath t g with
      | (some (k, _), u) =>
        decide (fmt = 1 ∨ fmt = 2) &&
        match laneFmt fmt.toNat with
        | some (.binary f) =>
          match u.laneMode k.part round.toNat (.binary f) with
          | some _ =>
            decide (nanOf (arithOperands op (f.read a.toNat) (f.read b.toNat) (f.read c.toNat)) = none)
          | _ => false
        | _ => false
      | _ => false) ∧
    (([(run0, 0, 0, .fma, 2, 0x7F800001, 0, 0, 0)] : List (State × TileId × Grp × ArithOp × (BitVec 8) × Word × Word × Word × (BitVec
      3))).all fun (s, t, g, op, fmt, a, b, c, round) =>
      match s.fetchPath t g with
      | (some (k, _), u) =>
        decide (fmt = 1 ∨ fmt = 2) &&
        match laneFmt fmt.toNat with
        | some (.binary f) =>
          match u.laneMode k.part round.toNat (.binary f) with
          | some _ =>
            match nanOf (arithOperands op (f.read a.toNat) (f.read b.toNat) (f.read c.toNat)) with
            | some _ =>
              true
            | _ => false
          | _ => false
        | _ => false
      | _ => false) ∧
    (([(run0, 0, 0, 3, 0), (run0, 0, 0, 2, 6)] : List (State × TileId × Grp × (BitVec 8) × (BitVec 3))).all fun (s, t, g, fmt, round) =>
      match s.fetchPath t g with
      | (some (k, _), u) =>
        decide (fmt ≠ 1 ∧ fmt ≠ 2 ∨ 4 < u.roundOf k.part round.toNat)
      | _ => false) ∧
    (([(run0, 0, 0)] : List (State × TileId × Grp)).all fun (s, t, g) =>
      match s.fetchPath t g with
      | (some (_, _), _) =>
        true
      | _ => false) := by decide +kernel

theorem witness_PathControl :
    (([(run0, 0, 0, 4)] : List (State × TileId × Grp × LaneMask)).all fun (s, t, g, taken) =>
      match s.fetchPath t g with
      | (some (_, y), _) =>
        decide (y.lanes taken.toNat = 0)
      | _ => false) ∧
    (([(run0, 0, 0, 7)] : List (State × TileId × Grp × LaneMask)).all fun (s, t, g, taken) =>
      match s.fetchPath t g with
      | (some (_, y), u) =>
        decide (y.mask ≠ 0) && decide (y.lanes taken.toNat = y.mask) &&
        match (u.groupAt t g).paths[(u.groupAt t g).cur]? with
        | some _ =>
          decide (∀ x ∈ (u.groupAt t g).paths, x.splits = [])
        | _ => false
      | _ => false) ∧
    (([(run0, 0, 0, 1, 48, 0), (run0, 0, 0, 2, 0, 48)] : List (State × TileId × Grp × LaneMask × Nat × Nat)).all fun (s, t, g, taken,
      target, reconv) =>
      match s.fetchPath t g with
      | (some (_, y), u) =>
        decide (y.lanes taken.toNat ≠ 0) && decide (y.lanes taken.toNat ≠ y.mask) && decide (y.splits = []) &&
        match (u.groupAt t g).paths[(u.groupAt t g).cur]? with
        | some z =>
          decide ((u.groupAt t g).paths.length < 32) && decide (reconv ≠ target) && decide (reconv ≠ z.pc) && decide (∀ x ∈ (u.groupAt t
            g).paths, x.splits = [])
        | _ => false
      | _ => false) ∧
    (([(withGrp { grp with paths := { mask := 3, pc := 16 } :: List.replicate 31 { mask := 0, pc := 0 } }, 0, 0, 1)] : List (State × TileId
      × Grp × LaneMask)).all fun (s, t, g, taken) =>
      match s.fetchPath t g with
      | (some (_, y), u) =>
        decide (y.lanes taken.toNat ≠ 0) && decide (y.lanes taken.toNat ≠ y.mask) && decide (32 ≤ (u.groupAt t g).paths.length)
      | _ => false) ∧
    (([(withGrp { grp with count := 64, paths := [{ mask := 3, pc := 16 }, { mask := 4, pc := 16 }] }, 0, 0)] : List (State × TileId ×
      Grp)).all fun (s, t, g) =>
      decide (64 ≤ (s.groupAt t g).count) &&
      match (s.groupAt t g).nextReady with
      | some _ =>
        true
      | _ => false) ∧
    (([(withGrp { grp with count := 64 }, 0, 0), (withGrp
      { grp with count := 63, paths := [{ mask := 3, pc := 16 }, { mask := 4, pc := 16 }] }, 0, 0)] : List (State × TileId × Grp)).all fun
      (s, t, g) =>
      decide ((s.groupAt t g).count < 64 ∨ (s.groupAt t g).nextReady = none)) ∧
    (([(run0, 0, 0, 1), (run0, 0, 0, 3)] : List (State × TileId × Grp × LaneMask)).all fun (s, t, g, lanes) =>
      match s.fetchPath t g with
      | (some (_, y), _) =>
        decide (y.lanes lanes.toNat ≠ 0)
      | _ => false) ∧
    (([(run0, 0, 0, 4)] : List (State × TileId × Grp × LaneMask)).all fun (s, t, g, lanes) =>
      match s.fetchPath t g with
      | (some (_, y), _) =>
        decide (y.lanes lanes.toNat = 0)
      | _ => false) ∧
    (([(run0, 0, 0, 1), (run0, 0, 0, 3)] : List (State × TileId × Grp × LaneMask)).all fun (s, t, g, lanes) =>
      match s.fetchPath t g with
      | (some (_, y), _) =>
        decide (y.lanes lanes.toNat ≠ 0)
      | _ => false) ∧
    (([(withTile { task := some 1, groups := [] }, 0)] : List (State × TileId)).all fun (s, t) =>
      match s.taskOn t with
      | some k =>
        decide (k.phase = .running) && decide ((s.tileAt t).ending = false) && decide (s.liveGroups t = []) && decide ((s.tileAt t).passes =
          []) && decide ((s.tileAt t).running = none)
      | _ => false) ∧
    (([(run0, 0)] : List (State × TileId)).all fun (s, t) =>
      decide (s.liveGroups t ≠ [])) := by decide +kernel

theorem witness_StepEndsAndLaceParents :
    (([(withTask { task with retired := [0] }, 1)] : List (State × Nat)).all fun (s, id) =>
      match s.taskById id with
      | some k =>
        decide (s.stepOver k = true)
      | _ => false) ∧
    (([(run0, 1)] : List (State × Nat)).all fun (s, id) =>
      match s.taskById id with
      | some k =>
        decide (s.stepOver k = false)
      | _ => false) ∧
    (([(withTask { task with tiles := [0, 1], arrivals := [] } (withTile { task := some 1, groups := [], sentBar := some 3 }), 1, 0, 3)] :
      List (State × Nat × TileId × (Fin 16))).all fun (s, id, t, n) =>
      match s.taskById id with
      | some k =>
        decide (k.phase = .running) && decide (t.val ∈ k.tiles) && decide ((s.tileAt t).sentBar = some n.val) && decide (t.val ∉ mapGet []
          k.arrivals n.val) && decide (∃ w ∈ k.tiles, w ≠ t.val ∧ w ∉ mapGet [] k.arrivals n.val)
      | _ => false) ∧
    (([(withTask { task with tiles := [0, 1], arrivals := [(3, [1])] } (withTile { task := some 1, groups := [], sentBar := some 3 }), 1, 0,
      3)] : List (State × Nat × TileId × (Fin 16))).all fun (s, id, t, n) =>
      match s.taskById id with
      | some k =>
        decide (k.phase = .running) && decide (t.val ∈ k.tiles) && decide ((s.tileAt t).sentBar = some n.val) && decide (t.val ∉ mapGet []
          k.arrivals n.val) && decide (∀ w ∈ k.tiles, w = t.val ∨ w ∈ mapGet [] k.arrivals n.val) && decide (s.jobBarrierOf k n = none)
      | _ => false) ∧
    (([(withTask { task with tiles := [0, 1], arrivals := [(0, [1])] }
      { inJob with tile := (withTile { task := some 1, groups := [], sentBar := some 0 }).tile }, 1, 0, 0), (withTask
      { task with tiles := [0, 1], arrivals := [(0, [1])] }
      { inJob { jobL with memberCount := 1 } with tile := (withTile { task := some 1, groups := [], sentBar := some 0 }).tile }, 1, 0, 0)] :
      List (State × Nat × TileId × (Fin 16))).all fun (s, id, t, n) =>
      match s.taskById id with
      | some k =>
        decide (k.phase = .running) && decide (t.val ∈ k.tiles) && decide ((s.tileAt t).sentBar = some n.val) && decide (t.val ∉ mapGet []
          k.arrivals n.val) && decide (∀ w ∈ k.tiles, w = t.val ∨ w ∈ mapGet [] k.arrivals n.val) &&
        match s.jobBarrierOf k n with
        | some (_, _) =>
          true
        | _ => false
      | _ => false) ∧
    (([(withTask { task with completed := [3] } (withTile { task := some 1, groups := [], sentBar := some 3 }), 1, 0, 3)] : List (State ×
      Nat × Die × (Fin 16))).all fun (s, id, d, n) =>
      match s.taskById id with
      | some k =>
        decide (n.val ∈ k.completed) && decide (∀ t ∈ k.tiles, (s.tileAt t).sentBar = some n.val → tileDie t = d.val)
      | _ => false) ∧
    (([(run0, 1, 3)] : List (State × Nat × (Fin 16))).all fun (s, id, n) =>
      match s.taskById id with
      | some k =>
        decide (n.val ∉ k.completed)
      | _ => false) ∧
    (([({ run0 with part := { records := [⟨0, 0, 5, false, [], true, false, false⟩] } }, 0, 0, 5)] : List (State × PIdx × (Fin 16) ×
      Nat)).all fun (s, p, cq, index) =>
      match s.part.records.find? (fun x => x.part == p.val && x.cq == cq.val && x.index == index && x.accepted && !x.phase) with
      | some _ =>
        true
      | _ => false) ∧
    (([{ run0 with part := { records := [⟨0, 0, 5, false, [], false, false, false⟩] } }] : List (State)).all fun s =>
      decide (∀ r ∈ s.part.records, r.accepted = false)) ∧
    (([(run0, 3), (at_ [(fLaceStatus_parent 3, 1)], 3)] : List (State × Die)).all fun (s, d) =>
      decide (d.val ≠ 0) && decide (s.get (fLaceStatus_parent d) ≠ 2)) ∧
    (([(at_ [(fLaceStatus_parent 3, 2)], 3)] : List (State × Die)).all fun (s, d) =>
      decide (d.val = 0 ∨ s.get (fLaceStatus_parent d) = 2)) := by decide +kernel

theorem witness_ProductPasses :
    (([(holds passBytes, 0, 0, 0)] : List (State × TileId × Grp × Nat)).all fun (s, t, g, desc) =>
      match s.fetchPath t g with
      | (some (k, _), v) =>
        decide ((s.tileAt t).passes.length < 4) &&
        let u := v.drainAll t g k.part
        let b := u.scratchRead t desc 64
        decide (desc % 64 = 0) && decide (desc + 64 ≤ u.scratchSize t) && decide (u.passLegal k.part b (readPass b) = true) && decide (∀ e ∈
          (readPass b).ends, e ≤ u.scratchSize t)
      | _ => false) ∧
    (([(holds passBytes, 0, 0, 64), (holds (passBytes 0x14), 0, 0, 0)] : List (State × TileId × Grp × Nat)).all fun (s, t, g, desc) =>
      match s.fetchPath t g with
      | (some (k, _), v) =>
        decide ((s.tileAt t).passes.length < 4) &&
        let u := v.drainAll t g k.part
        let b := u.scratchRead t desc 64
        decide (desc % 64 = 0) && decide (desc + 64 ≤ u.scratchSize t) && decide (u.passLegal k.part b (readPass b) = false) && decide (∀ e
          ∈ (readPass b).ends, e ≤ u.scratchSize t)
      | _ => false) ∧
    (([(withTile { task := some 1, passes := [pass, pass, pass, pass] }, 0)] : List (State × TileId)).all fun (s, t) =>
      decide (4 ≤ (s.tileAt t).passes.length)) ∧
    (([(withTile { task := some 1, passes := [pass] }, 0), ((withTile
      { task := some 1, passes := [{ pass with gate := 3, gateCount := 2 }] }).setEye 3 ⟨2, false⟩, 0)] : List (State × TileId)).all fun (s,
      t) =>
      match s.taskOn t with
      | some k =>
        decide (k.phase = .running) &&
        match (s.tileAt t).passes with
        | d :: _ =>
          decide ((s.tileAt t).running = none) && decide (s.clock.slackOpen = false) && decide
            ((match s.eyeletOf k.part d.gate with | some e => !(s.eye e).void && decide (d.gateCount ≤ (s.eye e).count) | none => true) =
            true)
        | _ => false
      | _ => false) ∧
    (([((withTile { task := some 1, passes := [{ pass with gate := 3, gateCount := 2 }] }).setEye 3 ⟨2, true⟩, 0)] : List (State ×
      TileId)).all fun (s, t) =>
      match s.taskOn t with
      | some k =>
        decide (k.phase = .running) &&
        match (s.tileAt t).passes with
        | d :: _ =>
          decide ((s.tileAt t).running = none) &&
          match s.eyeletOf k.part d.gate with
          | some e =>
            decide ((s.eye e).void = true)
          | _ => false
        | _ => false
      | _ => false) ∧
    (([((withTile { task := some 1, passes := [{ pass with gate := 3, gateCount := 2 }] }).setEye 3 ⟨1, false⟩, 0)] : List (State ×
      TileId)).all fun (s, t) =>
      match s.taskOn t with
      | some k =>
        match (s.tileAt t).passes with
        | d :: _ =>
          decide ((s.tileAt t).running = none) &&
          match s.eyeletOf k.part d.gate with
          | some e =>
            decide ((s.eye e).void = false) && decide ((s.eye e).count < d.gateCount)
          | _ => false
        | _ => false
      | _ => false) ∧
    (([(withTile { task := some 1, running := some pass }, 0)] : List (State × TileId)).all fun (s, t) =>
      match s.taskOn t with
      | some _ =>
        match (s.tileAt t).running with
        | some d =>
          match operandFmt d.aFmt with
          | some _ =>
            match operandFmt d.bFmt with
            | some _ =>
              match outputFmt d.outFmt with
              | some _ =>
                true
              | _ => false
            | _ => false
          | _ => false
        | _ => false
      | _ => false) := by decide +kernel

theorem witness_Copies :
    (([(holds copyBytes, 0, 0, 0), (holds (copyBytes 64 (786432 - 64)), 0, 0, 0)] : List (State × TileId × Grp × Nat)).all fun (s, t, g,
      desc) =>
      match s.fetchPath t g with
      | (some (k, _), v) =>
        decide (s.clock.slackOpen = false) && decide ((s.tileAt t).copies.length < 16) &&
        let u := v.drainAll t g k.part
        let b := u.scratchRead t desc 64
        decide (desc % 64 = 0) && decide (desc + 64 ≤ u.scratchSize t) && decide (u.copyLegal k b (readCopy b) = true) && decide (∀ e ∈
          (readCopy b).ends, e ≤ u.scratchSize t) && decide ((readCopy b).src ≠ 3) && decide ((readCopy b).dst ≠ 3) && decide (u.copyEyelet
          k.part (readCopy b) = none)
      | _ => false) ∧
    (([(holds (copyBytes 64 (786432 - 63)), 0, 0, 0)] : List (State × TileId × Grp × Nat)).all fun (s, t, g, desc) =>
      match s.fetchPath t g with
      | (some (k, _), v) =>
        decide (s.clock.slackOpen = false) && decide ((s.tileAt t).copies.length < 16) &&
        let u := v.drainAll t g k.part
        let b := u.scratchRead t desc 64
        decide (desc % 64 = 0) && decide (desc + 64 ≤ u.scratchSize t) && decide (u.copyLegal k b (readCopy b) = true) && decide (∃ e ∈
          (readCopy b).ends, u.scratchSize t < e)
      | _ => false) ∧
    (([({ run0 with clock := { run0.clock with slackOpen := true } }, 0), (withTile { task := some 1, copies := List.replicate 16 copy },
      0)] : List (State × TileId)).all fun (s, t) =>
      decide (s.clock.slackOpen = true ∨ 16 ≤ (s.tileAt t).copies.length)) ∧
    (([(withCopy copy, 0, 9, 0, 64)] : List (State × TileId × Nat × Nat × Nat)).all fun (s, t, id, first, len) =>
      match s.copyOn t id with
      | some c =>
        match s.taskById c.task with
        | some k =>
          decide (0 < len) && decide (first + len ≤ c.desc.total) && decide (∀ e ∈ c.moved, e.1 + e.2 ≤ first ∨ first + len ≤ e.1) && decide
            (c.desc.src ≠ 3) && decide (c.desc.atEdge first = true) && decide (c.desc.atEdge (first + len) = true) && decide
            (c.desc.scheduled = true → ∀ i < len, s.canMove t k c.desc (first + i) = true)
        | _ => false
      | _ => false) ∧
    (([(withCopy copy, 0, 9, 0, 64)] : List (State × TileId × Nat × Nat × Nat)).all fun (s, t, id, first, len) =>
      match s.copyOn t id with
      | some c =>
        match s.taskById c.task with
        | some k =>
          decide (c.desc.src = 0) && decide (c.desc.dst = 0) && decide (c.desc.scheduled = false) && decide (c.desc.length = c.desc.total)
            && decide (0 < len) && decide (first + len ≤ c.desc.total) && decide (c.desc.atEdge first = true) && decide (c.desc.atEdge
            (first + len) = true) && decide ((c.desc.dstAddr + first) % 64 + len ≤ 64) && decide (c.moved = []) && decide (c.held = []) &&
            decide (s.fenced t = false) && decide (s.copyEyelet k.part c.desc = none)
        | _ => false
      | _ => false) ∧
    (([(withCopy copy, 0, 9, 0, 65), (withCopy { copy with moved := [(0, 8)] }, 0, 9, 7, 2)] : List (State × TileId × Nat × Nat × Nat)).all
      fun (s, t, id, first, len) =>
      match s.copyOn t id with
      | some c =>
        decide (len = 0 ∨ c.desc.total < first + len ∨ (∃ e ∈ c.moved, e.1 < first + len ∧ first < e.1 + e.2) ∨ c.desc.atEdge first = false
          ∨ c.desc.atEdge (first + len) = false ∨ (c.desc.scheduled = true ∧
          (match s.taskById c.task with | some k => (List.range len).any fun i => !s.canMove t k c.desc (first + i) | none => false) =
          true))
      | _ => false) := by decide +kernel

theorem witness_MeshFailures :
    (([(run0, 0, 271)] : List (State × Die × Site)).all fun (s, d, site) =>
      decide (d.val * 272 + site.val ∉ s.flt.suspectRouters)) ∧
    (([({ run0 with flt := { suspectRouters := [271] } }, 0, 271)] : List (State × Die × Site)).all fun (s, d, site) =>
      decide (d.val * 272 + site.val ∈ s.flt.suspectRouters)) ∧
    (([({ run0 with flt := { suspectRouters := [271] } }, 0, 271)] : List (State × Die × Site)).all fun (s, d, site) =>
      decide (d.val * 272 + site.val ∈ s.flt.suspectRouters ∨ ∃ l ∈ s.flt.suspectLinks, l.1 = d.val * 272 + site.val)) ∧
    (([(run0, 0, 271)] : List (State × Die × Site)).all fun (s, d, site) =>
      decide (d.val * 272 + site.val ∉ s.flt.suspectRouters) && decide (∀ l ∈ s.flt.suspectLinks, l.1 ≠ d.val * 272 + site.val)) ∧
    (([({ run0 with flt := { suspectRouters := [271] } }, 0, 271, 4, 1)] : List (State × Die × Site × (Fin 5) × (Fin 2))).all fun (s, d,
      site, port, plane) =>
      decide (d.val * 272 + site.val ∈ s.flt.suspectRouters ∨ ∃ l ∈ s.flt.suspectLinks, l.1 = d.val * 272 + site.val) && decide (s.linkDead
        d site port plane = false)) ∧
    (([({ run0 with flt := { suspectRouters := [271] } }, 0, 271)] : List (State × Die × Site)).all fun (s, d, site) =>
      decide (d.val * 272 + site.val ∈ s.flt.suspectRouters ∨ ∃ l ∈ s.flt.suspectLinks, l.1 = d.val * 272 + site.val) && decide
        (s.routerDead d site = false)) ∧
    (([({ run0 with flt := { rerouting := [7] } }, 7)] : List (State × Die)).all fun (s, d) =>
      decide (d.val ∈ s.flt.rerouting)) ∧
    (([(run0, 7)] : List (State × Die)).all fun (s, d) =>
      decide (d.val ∉ s.flt.rerouting)) := by decide +kernel

theorem witness_WeltLanes :
    (([(0, 1)] : List (Die × (Fin 4))).all fun (d, e) =>
      match weltAt d e with
      | some _ =>
        true
      | _ => false) ∧
    (([(0, 0)] : List (Die × (Fin 4))).all fun (d, e) =>
      decide (weltAt d e = none)) ∧
    (([(run0, 0, 1, 15, 255), (at_ [(fWeltSpares_used 0 1 15, 5)] run0, 0, 1, 15, 255)] : List (State × Die × (Fin 4) × Grp × (Fin
      256))).all fun (s, d, e, g, lane) =>
      match weltAt d e with
      | some w =>
        decide (s.weltMode w g ≠ 3) && decide (∀ x ∈ s.awl.swapping, x.1 = groupKey d e g → x.2.1 ≠ lane.val) && decide (∀ x ∈
          s.awl.laneUse, x.1 = groupKey d e g → x.2.1 ≠ lane.val) &&
        let used := s.get (fWeltSpares_used d e g) + s.swapsOf (groupKey d e g)
        decide (used < 6)
      | _ => false) ∧
    (([(at_ [(fWeltSpares_used 0 1 15, 6)] run0, 0, 1, 15, 255)] : List (State × Die × (Fin 4) × Grp × (Fin 256))).all fun (s, d, e, g,
      lane) =>
      match weltAt d e with
      | some w =>
        decide (s.weltMode w g ≠ 3) && decide (∀ x ∈ s.awl.swapping, x.1 = groupKey d e g → x.2.1 ≠ lane.val) && decide (∀ x ∈
          s.awl.laneUse, x.1 = groupKey d e g → x.2.1 ≠ lane.val) && decide (6 ≤ s.get (fWeltSpares_used d e g) + s.swapsOf (groupKey d e
          g))
      | _ => false) ∧
    (([(run0, 0, 1, 15), (at_ [(fWeltLace_spares_used 0 1, 2)] run0, 0, 1, 3)] : List (State × Die × (Fin 4) × (Fin 256))).all fun (s, d, e,
      lane) =>
      match weltAt d e with
      | some _ =>
        decide (∀ x ∈ s.awl.swapping, x.1 = laceKey d e → x.2.1 ≠ lane.val) && decide (∀ x ∈ s.awl.laneUse, x.1 = laceKey d e → x.2.1 ≠
          lane.val) && decide (lane.val < 16)
      | _ => false) ∧
    (([16] : List ((Fin 256))).all fun lane =>
      decide (16 ≤ lane.val)) ∧
    (([({ run0 with awl := { swapping := [(groupKey 0 1 15, 255, 2, 0)] } }, 0, 1, 15)] : List (State × Die × (Fin 4) × Grp)).all fun (s, d,
      e, g) =>
      match s.swapAt d e g 0 with
      | some _ =>
        true
      | _ => false) ∧
    (([({ run0 with awl := { swapping := [(laceKey 0 1, 255, 2, 1)] } }, 0, 1, 15)] : List (State × Die × (Fin 4) × Grp)).all fun (s, d, e,
      g) =>
      match s.swapAt d e g 1 with
      | some _ =>
        true
      | _ => false) ∧
    (([({ run0 with awl := { swapping := [(groupKey 0 1 15, 255, 2, 2)] } }, 0, 1, 15),
      ({ run0 with awl := { swapping := [(laceKey 0 1, 255, 1, 2)] } }, 0, 1, 15)] : List (State × Die × (Fin 4) × Grp)).all fun (s, d, e,
      g) =>
      match s.swapAt d e g 2 with
      | some _ =>
        match weltAt d e with
        | some _ =>
          true
        | _ => false
      | _ => false) ∧
    (([(run0, 0, 1, 0)] : List (State × Die × (Fin 4) × Grp)).all fun (s, d, e, g) =>
      decide (s.swapAt d e g 0 = none)) ∧
    (([(0, 1)] : List (Die × (Fin 4))).all fun (d, e) =>
      match weltAt d e with
      | some _ =>
        true
      | _ => false) ∧
    (([(run0, 0, 1, 0)] : List (State × Die × (Fin 4) × Grp)).all fun (s, d, e, g) =>
      match weltAt d e with
      | some w =>
        decide (s.weltMode w g = 0)
      | _ => false) ∧
    (([((run0.setWeltMode ((weltAt 0 1).getD 0) 15 1), 0, 1, 15)] : List (State × Die × (Fin 4) × Grp)).all fun (s, d, e, g) =>
      match weltAt d e with
      | some w =>
        decide (s.weltMode w g = 1 ∨ s.weltMode w g = 2) && decide (groupKey d e g ∉ s.awl.calStopped)
      | _ => false) ∧
    (([({ run0 with awl := { calStopped := [groupKey 0 1 15] } }, 0, 1, 15)] : List (State × Die × (Fin 4) × Grp)).all fun (s, d, e, g) =>
      decide (groupKey d e g ∈ s.awl.calStopped)) := by decide +kernel

theorem witness_SliceFills :
    (([({ run0 with coh := { aluQ := [⟨0, 0, req 6 0⟩] } }, 0)] : List (State × Nat)).all fun (s, line) =>
      decide (s.trackerOf line = none ∨ ∃ q ∈ s.coh.aluQ, lineOf q.msg.bulk q.msg.addr = line)) ∧
    (([({ run0 with coh := { trackers := [⟨0, false, [(req 1 0, 0)]⟩] }, dram := { ue := [] } }, 0, false),
      ({ run0 with coh := { trackers := [⟨0, false, [(req 1 0, 0), (req 5 3, 0)]⟩] }, dram := { ue := [] } }, 0, false)] : List (State × Nat
      × Bool)).all fun (s, line, bulk) =>
      match s.trackerOf line with
      | some _ =>
        decide (∀ q ∈ s.coh.aluQ, lineOf q.msg.bulk q.msg.addr ≠ line) && decide (∀ e ∈ s.dram.latent, unitIn line (lineBytes bulk) e.1 =
          false) && decide (s.ueIn line (lineBytes bulk) = [])
      | _ => false) ∧
    (([({ run0 with coh := { trackers := [⟨0, false, []⟩], l3 := [{ line0 with valid := 0 }] } }, 0)] : List (State × Nat)).all fun (s,
      line) =>
      match s.trackerOf line with
      | some k =>
        decide (s.coh.aluQ = []) && decide (s.dram.ue = []) && decide (s.dram.latent = []) &&
        match s.l3Line line with
        | some l =>
          decide (l.valid = 0) && decide (l.dirty = 0) && decide (k.waiters = []) && decide (s.coh.homeWait = [])
        | _ => false
      | _ => false) ∧
    (([({ run0 with coh := { trackers := [⟨0, false, [(req 1 0, 0)]⟩] }, dram := { ue := [0] } }, 0, false)] : List (State × Nat ×
      Bool)).all fun (s, line, bulk) =>
      match s.trackerOf line with
      | some k =>
        decide (s.coh.aluQ = []) && decide (s.dram.latent = []) &&
        match s.ueIn line (lineBytes bulk) with
        | _ :: _ =>
          decide (s.l3Line line = none) &&
          match k.waiters with
          | [(m, _)] =>
            decide (m.opcode ≠ 5)
          | _ => false
        | _ => false
      | _ => false) ∧
    (([(run0, ⟨0, 3, false⟩), (run0, ⟨0, 1, false⟩)] : List (State × EccFound)).all fun (s, f) =>
      decide (0 < f.symbols) && decide (f.symbols ≤ 3) && decide (f.onDie = false) && decide (mapGet 0 s.dram.ce (rowKey (f.unit * 64)) + 1
        ≠ 16)) ∧
    (([⟨0, 4, false⟩, ⟨0, 5, true⟩] : List (EccFound)).all fun f =>
      decide (4 ≤ f.symbols) && decide (f.symbols ≤ 5)) := by decide +kernel

theorem witness_Dram :
    (([({ run0 with coh := { aluQ := [⟨0, 63, { req 6 0 with ty := 0x41, mask := 248, operand := 7 }⟩] }, dram := { mem := [(250, 1)] } },
      0, 63, { req 6 0 with ty := 0x41, mask := 248, operand := 7 })] : List (State × Die × (Fin 64) × Msg)).all fun (s, d, ch, m) =>
      decide (s.coh.aluQ = [⟨d.val, ch.val, m⟩]) && decide (m.opcode = 6) &&
      match elemBytes m.ty with
      | some _ =>
        let a := lineOf m.bulk m.addr + alignDown m.mask 64
        decide (s.ueIn a 64 = []) && decide (a / 64 ∉ s.dram.ue) && decide (∀ e ∈ s.dram.latent, e.1 ≠ a / 64 ∧ unitIn a 64 e.1 = false) &&
          decide (s.coh.homeWait = []) &&
        match s.aluApply { m with mask := m.mask % 64 } (s.dramBytes a 64) with
        | (_, _) =>
          decide (s.deadAt (dpaDie m.addr) m.source = false)
      | _ => false) ∧
    (([({ run0 with coh := { aluQ := [⟨0, 63, { req 6 0 with ty := 0x41, mask := 248, operand := 7 }⟩] }, dram := { mem := [(250, 1)], ue := [3] } },
      0, 63, { req 6 0 with ty := 0x41, mask := 248, operand := 7 })] : List (State × Die × (Fin 64) × Msg)).all fun (s, d, ch, m) =>
      decide (s.coh.aluQ = [⟨d.val, ch.val, m⟩]) && decide (m.opcode = 6) &&
      let a := lineOf m.bulk m.addr + alignDown m.mask 64
      decide (s.dram.latent = []) &&
      match s.ueIn a 64 with
      | _ :: _ =>
        true
      | _ => false) ∧
    (([({ req 6 0 with ty := 0x41, mask := 248, operand := 0xFFFFFFFFFFFFFFFF }, List.replicate 256 255)] : List (Msg × (List Byte))).all
      fun (m, line) =>
      match elemBytes m.ty with
      | some n =>
        decide (m.mask + n ≤ line.length) && decide (m.fn = 0)
      | _ => false) ∧
    (([run0] : List (State)).all fun s =>
      decide (s.coh.aluQ = [])) ∧
    (([(at_ [(fDramStatus_refresh_fast 5, 1)] { run0 with dram := { coolSince := [(5, some 0)] } }, 5)] : List (State × Die)).all fun (s, d)
      =>
      match mapGet none s.dram.coolSince d.val with
      | some _ =>
        decide (s.get (fDramStatus_refresh_fast d) = 1)
      | _ => false) ∧
    (([(run0, 5)] : List (State × Die)).all fun (s, d) =>
      decide (mapGet none s.dram.coolSince d.val = none ∨ s.get (fDramStatus_refresh_fast d) = 0)) ∧
    (([({ run0 with dram := { candidates := [5 * 2 ^ 27 + 9] }, sec := { flash := { repairList := List.replicate 255 (5, 1) } } }, 5),
      (run0, 0)] : List (State × Die)).all fun (s, d) =>
      let mine := s.dram.candidates.filter (fun k => k / 2 ^ 27 == d.val)
      decide ((s.sec.flash.repairList.filter fun e => e.1 == d.val).length + mine.length ≤ 256)) ∧
    (([({ run0 with dram := { candidates := [5 * 2 ^ 27 + 9] }, sec := { flash := { repairList := List.replicate 256 (5, 1) } } }, 5)] :
      List (State × Die)).all fun (s, d) =>
      match s.dram.candidates with
      | [k] =>
        decide (k / 2 ^ 27 = d.val) && decide (256 ≤ (s.sec.flash.repairList.filter fun e => e.1 == d.val).length)
      | _ => false) ∧
    (([(at_ [(fPartStatus_state 0, 1)] (run0.setPartSt 0 { zeroing := true }), 0)] : List (State × PIdx)).all fun (s, p) =>
      match s.dev with
      | some l =>
        decide (s.partState p = 1) && decide ((s.partSt p).zeroing = true) && decide (s.waitsForPool p = false) && decide (∀ e ∈ s.coh.dir,
          l.holds p e.line = false)
      | _ => false) ∧
    (([(run0, 0)] : List (State × PIdx)).all fun (s, p) =>
      decide (s.dev = none ∨ s.partState p ≠ 1 ∨ (s.partSt p).zeroing = false)) ∧
    (([({ run0 with coh := { trackers := [⟨0, false, []⟩], l3 := [{ line0 with valid := 0 }] } }, 0)] : List (State × Nat)).all fun (s,
      line) =>
      match s.trackerOf line with
      | some k =>
        decide (s.coh.aluQ = []) && decide (s.dram.ue = []) && decide (s.dram.latent = []) &&
        match s.l3Line line with
        | some l =>
          decide (l.valid = 0) && decide (l.dirty = 0) && decide (k.waiters = []) && decide (s.coh.homeWait = [])
        | _ => false
      | _ => false) := by decide +kernel

theorem witness_HomeReads :
    (([(run0, req 1 15)] : List (State × Msg)).all fun (s, m) =>
      decide (m.opcode = 1) && decide (m.spill = false) && decide (s.coh.homeWait = []) && decide (s.mayArrive m = true) && decide
        ((s.arrive m).noCredit m = false) && decide (m.source < 16) && decide (s.entry (lineOf m.bulk m.addr) = none) && decide ((s.dirSetOf
        (lineOf m.bulk m.addr) m.bulk).length < 16) && decide (s.deadAt (dpaDie (lineOf m.bulk m.addr)) m.source = false)) ∧
    (([({ withDir [ent .s 1] with coh := { (withDir [ent .s 1]).coh with l3 := [line0] } }, req 1 15), (withDir [ent .s 65536], req 1 3)] :
      List (State × Msg)).all fun (s, m) =>
      decide (m.opcode = 1) && decide (m.spill = false) && decide (s.coh.homeWait = []) && decide (s.mayArrive m = true) && decide
        ((s.arrive m).noCredit m = false) && decide (m.source < 16) &&
      match s.entry (lineOf m.bulk m.addr) with
      | some e =>
        decide (e.state = .s) && decide (s.deadAt (dpaDie e.line) m.source = false) && decide ((s.l3Line e.line).isSome = true ∨
          (s.trackerOf e.line).isSome = true ∨ halvesIn e.presence = [])
      | _ => false) ∧
    (([(withDir [ent .s 1], req 1 15)] : List (State × Msg)).all fun (s, m) =>
      decide (m.opcode = 1) && decide (m.spill = false) && decide (s.coh.homeWait = []) && decide (s.mayArrive m = true) && decide
        ((s.arrive m).noCredit m = false) && decide (m.source < 16) &&
      match s.entry (lineOf m.bulk m.addr) with
      | some e =>
        decide (e.state = .s) && decide (s.l3Line e.line = none) && decide (s.trackerOf e.line = none) && decide (halvesIn e.presence ≠ [])
      | _ => false) ∧
    (([(withDir [ent .h 65536], req 1 0)] : List (State × Msg)).all fun (s, m) =>
      decide (m.opcode = 1) && decide (m.spill = false) && decide (s.coh.homeWait = []) && decide (s.mayArrive m = true) && decide
        ((s.arrive m).noCredit m = false) && decide (m.source < 16) &&
      match s.entry (lineOf m.bulk m.addr) with
      | some e =>
        decide (e.state = .h)
      | _ => false) ∧
    (([(run0, req 2 31)] : List (State × Msg)).all fun (s, m) =>
      decide (m.opcode = 2) && decide (m.spill = false) && decide (s.coh.homeWait = []) && decide (s.mayArrive m = true) && decide
        ((s.arrive m).noCredit m = false) && decide (s.entry (lineOf m.bulk m.addr) = none)) ∧
    (([(withDir [ent .s 1], req 2 31)] : List (State × Msg)).all fun (s, m) =>
      decide (m.opcode = 2) && decide (m.spill = false) && decide (s.coh.homeWait = []) && decide (s.mayArrive m = true) && decide
        ((s.arrive m).noCredit m = false) &&
      match s.entry (lineOf m.bulk m.addr) with
      | some e =>
        decide (e.state = .s)
      | _ => false) ∧
    (([(withDir [ent .h 65536], req 2 31)] : List (State × Msg)).all fun (s, m) =>
      decide (m.opcode = 2) && decide (m.spill = false) && decide (s.coh.homeWait = []) && decide (s.mayArrive m = true) && decide
        ((s.arrive m).noCredit m = false) &&
      match s.entry (lineOf m.bulk m.addr) with
      | some e =>
        decide (e.state = .h)
      | _ => false) ∧
    (([(run0, req 3 16)] : List (State × Msg)).all fun (s, m) =>
      decide (m.opcode = 3) && decide (m.spill = false) && decide (s.coh.homeWait = []) && decide (s.mayArrive m = true) && decide
        ((s.arrive m).noCredit m = false) && decide (m.source = 16) && decide (s.entry (lineOf m.bulk m.addr) = none) && decide ((s.dirSetOf
        (lineOf m.bulk m.addr) m.bulk).length < 16) && decide (s.deadAt (dpaDie (lineOf m.bulk m.addr)) 16 = false)) ∧
    (([(withDir [ent .s 32768], req 3 16, 15)] : List (State × Msg × (Fin 16))).all fun (s, m, n) =>
      decide (m.opcode = 3) && decide (m.spill = false) && decide (s.coh.homeWait = []) && decide (s.mayArrive m = true) && decide
        ((s.arrive m).noCredit m = false) && decide (m.source = 16) &&
      match s.entry (lineOf m.bulk m.addr) with
      | some e =>
        decide (e.state = .s) && decide (e.presence = 2 ^ n.val) && decide (s.deadAt (dpaDie e.line) 16 = false)
      | _ => false) ∧
    (([(withDir [ent .h 65536], req 3 16)] : List (State × Msg)).all fun (s, m) =>
      decide (m.opcode = 3) && decide (m.spill = false) && decide (s.coh.homeWait = []) && decide (s.mayArrive m = true) && decide
        ((s.arrive m).noCredit m = false) &&
      match s.entry (lineOf m.bulk m.addr) with
      | some e =>
        decide (e.state = .h)
      | _ => false) ∧
    (([(withDir [ent .h 65536], req 4 16)] : List (State × Msg)).all fun (s, m) =>
      decide (m.opcode = 4) && decide (m.spill = false) && decide (s.coh.homeWait = []) && decide (s.mayArrive m = true) && decide
        ((s.arrive m).noCredit m = false) &&
      match s.entry (lineOf m.bulk m.addr) with
      | some e =>
        decide (e.state = .h)
      | _ => false) ∧
    (([(withDir [ent .s 65536], req 4 16)] : List (State × Msg)).all fun (s, m) =>
      decide (m.opcode = 4) && decide (m.spill = false) && decide (s.coh.homeWait = []) && decide (s.mayArrive m = true) && decide
        ((s.arrive m).noCredit m = false) && decide (m.source = 16) &&
      match s.entry (lineOf m.bulk m.addr) with
      | some e =>
        decide (e.state = .s) && decide (e.presence = 2 ^ 16) && decide (s.deadAt (dpaDie e.line) 16 = false) && decide (s.deadAt (dpaDie
          m.addr) 16 = false)
      | _ => false) ∧
    (([({ run0 with coh := { trackers := List.replicate 192 ⟨256, false, []⟩ } }, req 2 0),
      ({ run0 with coh := { trackers := List.replicate 192 ⟨256, false, []⟩ } }, req 5 0),
      ({ run0 with coh := { trackers := List.replicate 192 ⟨256, false, []⟩ } }, req 6 0),
      ({ run0 with coh := { trackers := List.replicate 192 ⟨256, false, []⟩ } }, req 7 0)] : List (State × Msg)).all fun (s, m) =>
      decide (m.spill = false) && decide (m.opcode ≠ 1) && decide (s.coh.homeWait = []) && decide (s.mayArrive m = true) && decide (s.entry
        (lineOf m.bulk m.addr) = none) && decide ((s.arrive m).noCredit m = true)) ∧
    (([(withDir [ent .c 65536], req 1 16), (withDir [ent .f 1], req 1 0)] : List (State × Msg)).all fun (s, m) =>
      decide (m.opcode = 1) && decide (m.spill = false) && decide (s.coh.homeWait = []) && decide (s.mayArrive m = true) && decide (m.source
        ≤ 16) &&
      match s.entry (lineOf m.bulk m.addr) with
      | some e =>
        decide (e.state = .c ∨ e.state = .f)
      | _ => false) ∧
    (([({ run0 with coh := { net := [{ req 2 0 with tag := 1 }, req 2 0] } }, req 2 0)] : List (State × Msg)).all fun (s, m) =>
      decide (s.mayArrive m = false)) := by decide +kernel

theorem witness_HomeWrites :
    (([(run0, { req 5 31 with mask := 255, data := List.replicate 256 1 })] : List (State × Msg)).all fun (s, m) =>
      decide (m.opcode = 5) && decide (m.spill = false) && decide (s.coh.homeWait = []) && decide (s.mayArrive m = true) && decide
        ((s.arrive m).noCredit m = false) && decide (s.entry (lineOf m.bulk m.addr) = none) && decide (s.trackerOf (lineOf m.bulk m.addr) =
        none)) ∧
    (([(withDir [ent .s 1], req 5 31, 0)] : List (State × Msg × (Fin 16))).all fun (s, m, n) =>
      decide (m.opcode = 5) && decide (m.spill = false) && decide (s.coh.homeWait = []) && decide (s.mayArrive m = true) && decide
        ((s.arrive m).noCredit m = false) &&
      match s.entry (lineOf m.bulk m.addr) with
      | some e =>
        decide (e.state = .s) && decide (e.presence = 2 ^ n.val) && decide (m.source ≠ n.val)
      | _ => false) ∧
    (([(withDir [ent .h 65536], req 5 31)] : List (State × Msg)).all fun (s, m) =>
      decide (m.opcode = 5) && decide (m.spill = false) && decide (s.coh.homeWait = []) && decide (s.mayArrive m = true) && decide
        ((s.arrive m).noCredit m = false) &&
      match s.entry (lineOf m.bulk m.addr) with
      | some e =>
        decide (e.state = .h)
      | _ => false) ∧
    (([(run0, { req 6 31 with ty := 0x41 })] : List (State × Msg)).all fun (s, m) =>
      decide (m.opcode = 6) && decide (m.spill = false) && decide (s.coh.homeWait = []) && decide (s.mayArrive m = true) && decide
        ((s.arrive m).noCredit m = false) && decide (s.entry (lineOf m.bulk m.addr) = none)) ∧
    (([(run0, { req 6 31 with ty := 0x41, mask := 248 })] : List (State × Msg)).all fun (s, m) =>
      decide (s.trackerOf (lineOf m.bulk m.addr) = none) && decide (s.l3Line (lineOf m.bulk m.addr) = none) &&
      match s.pageOf (lineOf m.bulk m.addr) with
      | some pe =>
        decide (pe.atomics = true)
      | _ => false) ∧
    (([(withDir [ent .h 65536], req 0x0B 16), (withDir [ent .c 65536], req 0x0B 16)] : List (State × Msg)).all fun (s, m) =>
      decide (s.mayArrive m = true) &&
      match s.entry (lineOf m.bulk m.addr) with
      | some e =>
        decide (e.state = .h ∨ e.state = .c)
      | _ => false) ∧
    (([(run0, req 0x0B 16)] : List (State × Msg)).all fun (s, m) =>
      decide (s.mayArrive m = true) && decide (s.entry (lineOf m.bulk m.addr) = none)) ∧
    (([(withDir [ent .h 65536], req 0x0C 16)] : List (State × Msg)).all fun (s, m) =>
      decide (s.coh.homeWait = []) && decide (s.mayArrive m = true) &&
      match s.entry (lineOf m.bulk m.addr) with
      | some e =>
        decide (e.state = .h)
      | _ => false) ∧
    (([(withDir [ent .s 65537], req 0x0C 16)] : List (State × Msg)).all fun (s, m) =>
      decide (s.coh.homeWait = []) && decide (s.mayArrive m = true) &&
      match s.entry (lineOf m.bulk m.addr) with
      | some e =>
        decide (e.state = .s) && decide (clearBit e.presence 16 ≠ 0)
      | _ => false) ∧
    (([(run0, req 0x0C 16)] : List (State × Msg)).all fun (s, m) =>
      decide (s.mayArrive m = true) && decide (s.entry (lineOf m.bulk m.addr) = none)) := by decide +kernel

theorem witness_HomeCollects :
    (([(withDir [{ ent .c 65536 with owedHalves := 3, pending := .wbm, req := some (req 5 31) }], req 0x20 1)] : List (State × Msg)).all fun
      (s, m) =>
      decide (s.mayArrive m = true) && decide (m.spill = false) &&
      match s.entry m.addr with
      | some e =>
        decide (e.state = .c) && decide (e.owedHalves.testBit m.source = true) && decide (clearBit e.owedHalves m.source ≠ 0 ∨ e.owedBlocks
          ≠ 0) && decide (s.coh.homeWait = [])
      | _ => false) ∧
    (([(withDir [{ ent .c 1 with owedHalves := 1, pending := .wbm, req := some (req 5 31) }], req 0x20 0)] : List (State × Msg)).all fun (s,
      m) =>
      decide (s.mayArrive m = true) && decide (m.spill = false) &&
      match s.entry m.addr with
      | some e =>
        decide (e.state = .c) && decide (m.source < 16) && decide (e.owedHalves = 2 ^ m.source) && decide (e.owedBlocks = 0) && decide
          (e.pending = .wbm) &&
        match e.req with
        | some _ =>
          decide (s.coh.homeWait = [])
        | _ => false
      | _ => false) ∧
    (([(run0, req 0x20 0)] : List (State × Msg)).all fun (s, m) =>
      decide (m.spill = false) && decide (s.mayArrive m = true) && decide (s.entry m.addr = none) && decide (s.coh.duplicates = false)) ∧
    (([({ run0 with coh := { duplicates := true } }, req 0x20 0)] : List (State × Msg)).all fun (s, m) =>
      decide (m.spill = false) && decide (s.mayArrive m = true) && decide (s.entry m.addr = none) && decide (s.coh.duplicates = true)) ∧
    (([(withDir [{ ent .c 65536 with owedBlocks := 15, pending := .rdN, req := some (req 2 31) }], { req 0x21 16 with unit := 3 })] : List
      (State × Msg)).all fun (s, m) =>
      decide (s.mayArrive m = true) &&
      match s.entry m.addr with
      | some e =>
        decide (e.state = .c) && decide (e.owedBlocks.testBit m.unit = true) && decide (m.state = 0) && decide (clearBit e.owedBlocks m.unit
          ≠ 0) && decide (s.coh.homeWait = [])
      | _ => false) ∧
    (([(withDir [{ ent .c 65536 with owedBlocks := 8, pending := .rdN, req := some (req 2 31) }], { req 0x21 16 with unit := 3 })] : List
      (State × Msg)).all fun (s, m) =>
      decide (s.mayArrive m = true) &&
      match s.entry m.addr with
      | some e =>
        decide (e.state = .c) && decide (m.unit < lineBlocks e.bulk) && decide (e.owedBlocks = 2 ^ m.unit) && decide (e.owedHalves = 0) &&
          decide (e.retainedS = 0) && decide (m.state = 0) && decide (e.pending = .rdN) &&
        match e.req with
        | some _ =>
          decide (s.coh.homeWait = [])
        | _ => false
      | _ => false) ∧
    (([(withDir [{ ent .f 9 with target := 3, req := some (req 1 0) }], req 0x22 3)] : List (State × Msg)).all fun (s, m) =>
      decide (s.mayArrive m = true) &&
      match s.entry m.addr with
      | some e =>
        decide (e.state = .f) && decide (e.target = m.source)
      | _ => false) ∧
    (([(withDir [{ ent .f 9 with target := 3, req := some (req 1 0) }], req 0x23 3)] : List (State × Msg)).all fun (s, m) =>
      decide (s.mayArrive m = true) &&
      match s.entry m.addr with
      | some e =>
        decide (e.state = .f) && decide (e.target = m.source) &&
        match e.req with
        | some _ =>
          true
        | _ => false
      | _ => false) ∧
    (([(run0, req 0x23 3)] : List (State × Msg)).all fun (s, m) =>
      decide (s.mayArrive m = true) && decide (s.entry m.addr = none) && decide (s.coh.duplicates = false)) ∧
    (([({ run0 with coh := { net := [{ req 0x20 0 with tag := 1 }, req 0x20 0] } }, req 0x20 0, { req 0x20 0 with tag := 1 },
      [{ req 0x20 0 with tag := 1 }], [], .iack (req 0x20 0))] : List (State × Msg × Msg × (List Msg) × (List Msg) × Instr)).all fun (s, m,
      a, before, after, i) =>
      decide (s.coh.net = before ++ m :: after) && decide (m ∉ before) && decide (a ∈ before) && decide (a.before m = true) && decide
        ((match i.messageCode with | some (_, x) => x == m | none => false) = true)) ∧
    (([run0] : List (State)).all fun s =>
      decide (s.coh.dir = []) && decide (s.coh.homeWait = []) && decide (s.coh.filter = []) && decide (s.coh.filterWait = [])) ∧
    (([at_ [(fDirStatus_sweep 3, 1)]] : List (State)).all fun s =>
      decide (s.get fUciStatus_link_up = 0)) ∧
    (([(at_ [(fDirStatus_sweep 3, 1)] run0, 3)] : List (State × Die)).all fun (s, d) =>
      decide (s.get fUciStatus_link_up = 1) && decide (((List.range 8).all fun h => h == d.val || s.get (fDirStatus_sweep h) == 0) = true)) := by decide +kernel

theorem witness_HalfsAnswered :
    (([(withTx (tx 1 0), rsp 0x10 (.half 0))] : List (State × Msg)).all fun (s, m) =>
      decide (s.mayArrive m = true) &&
      let w := s.arrive m
      decide (m.toHost = false) &&
      match w.txOf m with
      | some x =>
        decide (x.op = 1) && decide (x.agent < 16) && decide (x.inv = false) &&
        match (w.closeTx x).placeL2 ⟨x.agent, x.addr, x.bulk, x.spill, x.part, 0, fullMask x.bulk, m.data⟩ with
        | some _ =>
          true
        | _ => false
      | _ => false) ∧
    (([(withTx { tx 1 0 with inv := true }, rsp 0x10 (.half 0))] : List (State × Msg)).all fun (s, m) =>
      decide (s.mayArrive m = true) &&
      let w := s.arrive m
      decide (m.toHost = false) &&
      match w.txOf m with
      | some x =>
        decide (x.op = 1) && decide (x.agent < 16) && decide (x.inv = true)
      | _ => false) ∧
    (([(withTx { tx 5 31 with wants := [.writeBack 0 0] }, rsp 0x12 (.tile 0))] : List (State × Msg)).all fun (s, m) =>
      decide (s.mayArrive m = true) &&
      let w := s.arrive m
      match w.txOf m with
      | some x =>
        decide (x.op = 5)
      | _ => false) ∧
    (([(withTx { tx 6 31 with wants := [.atomic 0 0 1 0 8 0 false none] }, rsp 0x13 (.tile 0))] : List (State × Msg)).all fun (s, m) =>
      decide (s.mayArrive m = true) &&
      let w := s.arrive m
      match w.txOf m with
      | some x =>
        decide (x.op = 6)
      | _ => false) ∧
    (([(withTx (tx 1 31), rsp 0x14 (.tile 0))] : List (State × Msg)).all fun (s, m) =>
      decide (s.mayArrive m = true) &&
      let w := s.arrive m
      decide (m.toHost = false) &&
      match w.txOf m with
      | some _ =>
        true
      | _ => false) ∧
    (([(run0, rsp 0x10 (.tile 0))] : List (State × Msg)).all fun (s, m) =>
      decide (s.mayArrive m = true) &&
      let w := s.arrive m
      decide (m.toHost = false) && decide (w.txOf m = none) && decide (s.coh.duplicates = false) && decide (s.sec.reading = [])) ∧
    (([({ run0 with coh := { net := [{ rsp 0x10 (.half 0) with srcSite := 0 }, { rsp 0x10 (.half 0) with tag := 6 }] } },
      { rsp 0x10 (.half 0) with tag := 6 })] : List (State × Msg)).all fun (s, m) =>
      decide (s.mayArrive m = false)) ∧
    (([(run0, 0, 0, 8)] : List (State × Nat × Nat × Nat)).all fun (s, p, t, pa) =>
      match s.translate p pa with
      | some _ =>
        decide (s.l1Line t (pa / 64) = none)
      | _ => false) ∧
    (([({ run0 with coh := { l2 := [l2line] } }, rsp 0x1A (.half 3))] : List (State × Msg)).all fun (s, m) =>
      decide (s.mayArrive m = true) &&
      match m.dst with
      | .half _ =>
        true
      | _ => false) ∧
    (([({ run0 with coh := { l2 := [l2line] } }, { rsp 0x1B (.half 3) with requester := 15 })] : List (State × Msg)).all fun (s, m) =>
      decide (s.mayArrive m = true) &&
      match m.dst with
      | .half n =>
        match s.l2Line n.val m.addr false with
        | some l =>
          decide (l.valid = fullMask l.bulk)
        | _ => false
      | _ => false) ∧
    (([(run0, rsp 0x1B (.half 3))] : List (State × Msg)).all fun (s, m) =>
      decide (s.mayArrive m = true) &&
      match m.dst with
      | .half n =>
        decide (s.l2Line n.val m.addr false = none)
      | _ => false) := by decide +kernel

theorem witness_HostMemory :
    (([(run0, 7, 8 * 168 * 2 ^ 30 - 1), (run0, 7, 0)] : List (State × (Fin 8) × Nat)).all fun (s, k, h) =>
      decide (s.linkUp = true) && decide (h < hdmBytes) && decide (moduleDie k * 8 + dpaDie (hdmDpa h) ∉ s.mesh.unreachable)) ∧
    (([(run0, 7, 64, .i)] : List (State × (Fin 8) × Nat × MetaVal)).all fun (s, k, h, mv) =>
      decide (s.linkUp = true) && decide (h < hdmBytes) && decide (moduleDie k * 8 + dpaDie (hdmDpa h) ∉ s.mesh.unreachable) && decide (mv ≠
        .s)) ∧
    (([(run0, 7, 64, .s)] : List (State × (Fin 8) × Nat × MetaVal)).all fun (s, k, h, mv) =>
      decide (s.linkUp = true) && decide (h < hdmBytes) && decide (moduleDie k * 8 + dpaDie (hdmDpa h) ∉ s.mesh.unreachable) && decide (mv ≠
        .a)) ∧
    (([(run0, 7, 64)] : List (State × (Fin 8) × Nat)).all fun (s, k, h) =>
      decide (s.linkUp = true) && decide (h < hdmBytes) && decide (moduleDie k * 8 + dpaDie (hdmDpa h) ∉ s.mesh.unreachable)) ∧
    (([(run0, 64)] : List (State × Nat)).all fun (s, h) =>
      decide (s.ownerOfLine (hdmDpa h) < 16)) ∧
    (([(run0, 8 * 168 * 2 ^ 30)] : List (State × Nat)).all fun (s, h) =>
      decide (s.linkUp = true) && decide (hdmBytes ≤ h)) ∧
    (([run0] : List (State)).all fun s =>
      decide (s.linkUp = true)) ∧
    (([State.reset] : List (State)).all fun s =>
      decide (s.linkUp = false)) ∧
    (([64] : List (Nat)).all fun h =>
      decide (h < hdmBytes)) ∧
    (([(withHost 2, rsp 0x10 (.uci 0))] : List (State × Msg)).all fun (s, m) =>
      decide (s.mayArrive m = true) && decide (m.toHost = true) &&
      match s.hostTx m with
      | some _ =>
        true
      | _ => false) ∧
    (([(withHost 7, rsp 0x11 (.uci 0))] : List (State × Msg)).all fun (s, m) =>
      decide (s.mayArrive m = true) &&
      match s.hostTx m with
      | some _ =>
        true
      | _ => false) ∧
    (([(State.reset, req 0x18 0)] : List (State × Msg)).all fun (s, m) =>
      decide (s.mayArrive m = true) && decide (s.hostTx m = none) && decide (s.coh.duplicates = false)) ∧
    (([(withHost 2, rsp 0x14 (.uci 0))] : List (State × Msg)).all fun (s, m) =>
      decide (s.mayArrive m = true) && decide (m.toHost = true) &&
      match s.hostTx m with
      | some _ =>
        true
      | _ => false) ∧
    (([(withHost 2, rsp 0x10 (.uci 0))] : List (State × Msg)).all fun (s, m) =>
      match s.hostTx m with
      | some r =>
        decide (r.opcode = 2)
      | _ => false) ∧
    (([(run0, { req 0x18 0 with unit := 3 })] : List (State × Msg)).all fun (s, m) =>
      decide (s.mayArrive m = true) && decide (s.linkUp = true)) ∧
    (([(State.reset, { req 0x1A 0 with unit := 3 })] : List (State × Msg)).all fun (s, m) =>
      decide (s.mayArrive m = true) && decide (s.linkUp = false)) := by decide +kernel

theorem witness_SpillFilter :
    (([(run0, spillReq 2 31)] : List (State × Msg)).all fun (s, m) =>
      decide (s.mayArrive m = true) && decide (s.linkUp = true) && decide (m.opcode = 2) && decide (m.spill = true) && decide
        (s.coh.filterWait = []) && decide (s.coh.hostReqs = []) && decide (∀ e ∈ s.coh.filter, e.req = none) && decide (s.filterEnt (lineOf
        m.bulk m.addr) = none)) ∧
    (([(run0, { spillReq 5 31 with mask := 255, data := List.replicate 256 1 })] : List (State × Msg)).all fun (s, m) =>
      decide (s.mayArrive m = true) && decide (s.linkUp = true) && decide (m.opcode = 5) && decide (m.spill = true) && decide
        (s.coh.filterWait = []) && decide (s.filterEnt (lineOf m.bulk m.addr) = none)) ∧
    (([(at_ [(fUciStatus_link_up, 0)] run0, { spillReq 5 31 with mask := 255, data := List.replicate 256 1 })] : List (State × Msg)).all fun
      (s, m) =>
      decide (s.mayArrive m = true) && decide (s.linkUp = false) && decide (m.opcode = 5) && decide (m.spill = true) && decide
        (s.coh.filterWait = []) && decide (s.filterEnt (lineOf m.bulk m.addr) = none)) ∧
    (([(withHostReq .rdShared (spillReq 1 15), 1048576 + 255)] : List (State × Nat)).all fun (s, hpa) =>
      match s.coh.hostReqs with
      | [r] =>
        decide (r.op = .rdShared) && decide (r.line = lineOf r.msg.bulk hpa) && decide (s.filterEnt r.line = none) && decide (r.msg.source <
          16) && decide (s.deadAt (filterDie r.line) r.msg.source = false)
      | _ => false) ∧
    (([(withHostReq .rdCurr (spillReq 2 31), 1048576)] : List (State × Nat)).all fun (s, hpa) =>
      match s.coh.hostReqs with
      | [r] =>
        decide (r.op = .rdCurr) && decide (r.line = lineOf r.msg.bulk hpa)
      | _ => false) ∧
    (([(withHostReq .rdShared (spillReq 1 15), 1048576)] : List (State × Nat)).all fun (s, hpa) =>
      match s.coh.hostReqs with
      | [r] =>
        decide (r.op ≠ .wrCur) && decide (r.line = lineOf r.msg.bulk hpa)
      | _ => false) ∧
    (([(withHostReq .wrCur (spillReq 5 31), 1048576)] : List (State × Nat)).all fun (s, hpa) =>
      match s.coh.hostReqs with
      | [r] =>
        decide (r.op = .wrCur) && decide (r.line = lineOf r.msg.bulk hpa)
      | _ => false) ∧
    (([run0] : List (State)).all fun s =>
      decide (s.coh.hostReqs = [])) ∧
    (([(withFilter (fent 1), 1048576 + 256)] : List (State × Nat)).all fun (s, hpa) =>
      decide (s.filterAt hpa = none)) ∧
    (([(withFilter (fent 32768), 1048576 + 255, 15)] : List (State × Nat × (Fin 16))).all fun (s, hpa, n) =>
      match s.filterAt hpa with
      | some e =>
        decide (e.collecting = false) && decide (e.vector = 2 ^ n.val) && decide (s.coh.filterWait = [])
      | _ => false) ∧
    (([(withFilter (fent 1), 1048576)] : List (State × Nat)).all fun (s, hpa) =>
      match s.filterAt hpa with
      | some e =>
        decide (e.collecting = false)
      | _ => false) ∧
    (([(withFilter { fent 1 with collecting := true, owed := 1 }, 1048576)] : List (State × Nat)).all fun (s, hpa) =>
      match s.filterAt hpa with
      | some e =>
        decide (e.collecting = true)
      | _ => false) ∧
    (([(withFilter { fent 8 with collecting := true, owed := 8, pending := .evict, answers := [1] }, { spillReq 0x20 3 with state := 0 })] :
      List (State × Msg)).all fun (s, m) =>
      decide (s.mayArrive m = true) && decide (m.spill = true) &&
      match s.filterEnt m.addr with
      | some e =>
        decide (e.collecting = true) && decide (m.source < 16) && decide (e.owed = 2 ^ m.source) && decide (e.pending = .evict) && decide
          (e.req = none) && decide (e.answers = [1]) && decide (s.coh.filterWait = [])
      | _ => false) := by decide +kernel

theorem witness_FunctionsAndSideband :
    (([(run0, 4092)] : List (State × Nat)).all fun (s, off) =>
      decide (s.linkUp = true) && decide (off < 4096) && decide (off % 4 = 0)) ∧
    (([(run0, 4)] : List (State × Nat)).all fun (s, off) =>
      decide (s.linkUp = true) && decide (off < 4096) && decide (off % 4 = 0)) ∧
    (([(State.reset, 0), (run0, 4096)] : List (State × Nat)).all fun (s, off) =>
      decide (s.linkUp = false ∨ 4096 ≤ off ∨ off % 4 ≠ 0)) ∧
    (([run0] : List (State)).all fun s =>
      decide (s.linkUp = true)) ∧
    (([State.reset] : List (State)).all fun s =>
      decide (s.linkUp = false)) ∧
    (([(run0, 16, 16)] : List (State × (Fin 17) × (Fin 17))).all fun (s, fn, vec) =>
      decide (vec.val < vectorCount fn.val) && decide ((s.vector fn vec).pending = false)) ∧
    (([(vec 1 16 { pending := true }, 1, 16)] : List (State × (Fin 17) × (Fin 17))).all fun (s, fn, vec) =>
      decide (vec.val < vectorCount fn.val) && decide ((s.vector fn vec).pending = true) && decide ((s.vector fn vec).sent = false) &&
        decide (s.linkUp = true)) ∧
    (([(vec 1 16 { pending := true, sent := true }, 1, 16)] : List (State × (Fin 17) × (Fin 17))).all fun (s, fn, vec) =>
      decide (vec.val < vectorCount fn.val) && decide ((s.vector fn vec).pending = true) && decide ((s.vector fn vec).sent = true)) ∧
    (([8] : List ((Fin 17))).all fun vec =>
      decide (8 ≤ vec.val)) ∧
    (([{ run0 with uci := { run0.uci with dynAddr := 9 } }] : List (State)).all fun s =>
      decide (s.sidebandOpen = true)) ∧
    (([run0] : List (State)).all fun s =>
      decide (s.sidebandOpen = true) && decide (s.uci.dynAddr = 0)) ∧
    (([{ run0 with uci := { run0.uci with dynAddr := 9 } }] : List (State)).all fun s =>
      decide (s.uci.dynAddr ≠ 0)) ∧
    (([run0] : List (State)).all fun s =>
      decide (s.sidebandOpen = true)) ∧
    (([(run0, 4)] : List (State × Nat)).all fun (s, off) =>
      decide (s.sidebandOpen = true) && decide (off < 2 ^ 32) && decide (off % 8 ≠ 0) && decide (msixOff .pf off = none)) ∧
    (([(run0, fFltRecHead_count.addr)] : List (State × Nat)).all fun (s, off) =>
      decide (s.sidebandOpen = true) && decide (off < 2 ^ 32) &&
      match s.target .pf off 8 with
      | .reg _ =>
        true
      | _ => false) ∧
    (([(run0, fLdrAddr_addr.addr)] : List (State × Nat)).all fun (s, off) =>
      decide (s.sidebandOpen = true) && decide (off < 2 ^ 32) &&
      match s.target .pf off 8 with
      | .reg _ =>
        true
      | _ => false) ∧
    (([(run0, 0x3FFF8)] : List (State × Nat)).all fun (s, off) =>
      decide (s.sidebandOpen = true) && decide (off < 2 ^ 32) && decide (s.target .pf off 8 = .unassigned)) ∧
    (([State.reset] : List (State)).all fun s =>
      decide (s.sidebandOpen = false)) := by decide +kernel

theorem witness_HostLink :
    (([(stage 2, 0x10342)] : List (State × Nat)).all fun (s, code) =>
      decide (s.atStage 3 = true) && decide (code % 256 ≠ 0)) ∧
    (([(stage 2, 256, 1000)] : List (State × Nat × Nat)).all fun (s, code, ms) =>
      decide (s.atStage 3 = true) && decide (code % 256 = 0) && decide (1000 ≤ ms)) ∧
    (([stage 3] : List (State)).all fun s =>
      decide (s.atStage 3 = false)) ∧
    (([(mods 1 { run0 with uci := { run0.uci with retries := [(7, 2)] } }, 7)] : List (State × (Fin 8))).all fun (s, k) =>
      decide (s.moduleState k = 1) && decide (mapGet 0 s.uci.retries k.val < 3)) ∧
    (([(mods 1 { stage 5 with uci := { retries := [(7, 3)] } }, 7)] : List (State × (Fin 8))).all fun (s, k) =>
      decide (s.moduleState k = 1) && decide (3 ≤ mapGet 0 s.uci.retries k.val) && decide (s.atStage 6 = true)) ∧
    (([(mods 1, 7)] : List (State × (Fin 8))).all fun (s, k) =>
      decide (s.moduleState k = 1)) ∧
    (([(mods 3, 7)] : List (State × (Fin 8))).all fun (s, k) =>
      decide (s.moduleState k = 3)) ∧
    (([(mods 0, 7), (mods 2 run0, 0)] : List (State × (Fin 8))).all fun (s, k) =>
      decide (s.moduleState k ≠ 1) && decide (s.moduleState k ≠ 3)) ∧
    (([(mods 2 run0, 7)] : List (State × (Fin 8))).all fun (s, k) =>
      decide (s.moduleState k = 2)) ∧
    (([(mods 1 run0, 7)] : List (State × (Fin 8))).all fun (s, k) =>
      decide (s.moduleState k ≠ 2)) ∧
    (([(mods 3 run0, 7)] : List (State × (Fin 8))).all fun (s, k) =>
      decide (s.moduleState k = 3)) ∧
    (([(mods 3 run0, 7)] : List (State × (Fin 8))).all fun (s, k) =>
      decide (s.moduleState k = 3) && decide (s.uci.lost = false) && decide (s.coh.hostReqs = [])) ∧
    (([(at_ [(fPartStatus_state 0, 0)] (withHostReq .rdShared (spillReq 1 15)), 1048576 + 255)] : List (State × Nat)).all fun (s, hpa) =>
      match s.coh.hostReqs with
      | [r] =>
        decide (r.line ≤ hpa) && decide (hpa < r.line + lineBytes r.msg.bulk) && decide (s.partState r.msg.part = 0)
      | _ => false) ∧
    (([withDir [ent .s 1]] : List (State)).all fun s =>
      decide (s.coh.hostReqs = []) && decide (∀ e ∈ s.coh.dir, e.state ≠ .c)) ∧
    (([{ run0 with uci := { lost := true, retries := [(7, 2)] } }] : List (State)).all fun s =>
      decide (s.uci.lost = true)) ∧
    (([run0] : List (State)).all fun s =>
      decide (s.uci.lost = false)) ∧
    (([mods 2 (stage 5), mods 2 { State.reset with uci := { lost := true } }] : List (State)).all fun s =>
      decide (s.linkUp = false) && decide (((List.range 8).all fun k => s.moduleState k == 2) = true) && decide (s.uci.lost = true ∨
        s.atStage 6 = true)) ∧
    (([mods 2 run0] : List (State)).all fun s =>
      decide (s.linkUp = true)) := by decide +kernel

theorem witness_Mailbox :
    (([vec 0 6 { masked := false }] : List (State)).all fun s =>
      decide (s.uci.ibi = false) && decide ((s.vector 0 6).masked = false) && decide ((s.vector 0 6).sent = false) && decide (s.linkUp =
        true)) ∧
    (([(vec 0 6 { masked := false }, 65536)] : List (State × Nat)).all fun (s, len) =>
      decide (s.linkUp = true) && decide (len ≤ 65536)) ∧
    (([(run0, 1, 0, 65537), (run0, 0x1E98, 1, 8)] : List (State × Nat × Nat × Nat)).all fun (s, vendor, type, len) =>
      decide (s.linkUp = true) && decide (65536 < len ∨ (vendor, type) ∉ doeProtocols)) ∧
    (([run0] : List (State)).all fun s =>
      decide (s.linkUp = true)) ∧
    (([(run0, 4)] : List (State × Nat)).all fun (s, handle) =>
      decide (s.linkUp = true) && decide (4 ≤ handle)) ∧
    (([run0] : List (State)).all fun s =>
      decide (s.linkUp = true) && decide (s.sec.transition = none)) ∧
    (([spdm] : List (State)).all fun s =>
      decide (s.linkUp = true) && decide (s.sec.transition = none) && decide (s.uci.spdmVersion = true)) ∧
    (([spdm] : List (State)).all fun s =>
      decide (s.linkUp = true) && decide (s.sec.transition = none) && decide (s.uci.spdmVersion = true) && decide (s.uci.spdmCaps = true)) ∧
    (([spdm] : List (State)).all fun s =>
      decide (s.linkUp = true) && decide (s.sec.transition = none) && decide (s.spdmReady = true)) ∧
    (([spdm] : List (State)).all fun s =>
      decide (s.linkUp = true) && decide (s.sec.transition = none) && decide (s.spdmReady = true)) ∧
    (([spdm] : List (State)).all fun s =>
      decide (s.linkUp = true) && decide (s.sec.transition = none) && decide (s.spdmReady = true)) ∧
    (([(spdm, 1), ({ spdm with lasts := [(0, some { lastP with measurement := [1] })] }, 16)] : List (State × Nat)).all fun (s, i) =>
      decide (s.linkUp = true) && decide (s.sec.transition = none) && decide (s.spdmReady = true) && decide (0 < i) && decide (i < 255) &&
      match s.measurement i with
      | some _ =>
        true
      | _ => false) ∧
    (([({ spdm with lasts := [(15, some { lastP with measurement := [1] })] }, 15)] : List (State × Nat)).all fun (s, p) =>
      decide (p < 16) &&
      match s.lastOf p with
      | some l =>
        decide (l.measurement ≠ [])
      | _ => false) ∧
    (([{ spdm with sec := { transition := some 2 } }] : List (State)).all fun s =>
      decide (s.linkUp = true) && decide (s.sec.transition ≠ none)) ∧
    (([run0] : List (State)).all fun s =>
      decide (s.linkUp = true) && decide (s.sec.transition = none) && decide (s.spdmReady = false)) ∧
    (([State.reset] : List (State)).all fun s =>
      decide (s.linkUp = false)) := by decide +kernel

theorem witness_CounterClears :
    (([(run0, 271 - 1)] : List (State × TileId)).all fun (s, t) =>
      decide ((s.serves t).isSome = true)) ∧
    (([(run0, 16)] : List (State × TileId)).all fun (s, t) =>
      decide (s.serves t = none)) ∧
    (([(at_ [(fPartAccIssued_count 0 15, 9)] run0, 0)] : List (State × (Fin 16))).all fun (s, n) =>
      match s.partOfFn (n.val + 1) with
      | some _ =>
        true
      | _ => false) ∧
    (([(run0, 15)] : List (State × (Fin 16))).all fun (s, n) =>
      decide (s.partOfFn (n.val + 1) = none)) := by decide +kernel

theorem witness_TailsAndPeeks :
    (([(withDir [{ ent .s 1 with way := 3 }], 0, 65536 * 3)] : List (State × Die × Word)).all fun (s, d, v) =>
      match s.coh.dir with
      | [e] =>
        decide (dirKey e.line e.bulk = (d.val * 64 + v.toNat % 64) * 1024 + v.toNat / 64 % 1024) && decide (e.way = v.toNat / 65536 % 16)
      | _ => false) ∧
    (([(run0, 7, 65536 * 3)] : List (State × Die × Word)).all fun (s, d, v) =>
      decide (∀ e ∈ s.coh.dir, dirKey e.line e.bulk ≠ (d.val * 64 + v.toNat % 64) * 1024 + v.toNat / 64 % 1024 ∨ e.way ≠ v.toNat / 65536 %
        16)) ∧
    (([(at_ [(fFltRecHead_count, 1024)], 0), (at_ [(fFltRecHead_count, 3)], 0xFFFFFFFFFFFFFFFF)] : List (State × Word)).all fun (s, v) =>
      decide ((s.get fFltRecHead_count + 2 ^ 32 - v.toNat % 2 ^ 32) % 2 ^ 32 ≤ 1024)) ∧
    (([(run0, .pf, 8)] : List (State × Space × Nat)).all fun (s, sp, off) =>
      decide (s.target sp off 8 = .unassigned)) := by decide +kernel

theorem witness_RegisterAccess :
    (([(.pf, 4, 8), (.vf 3, 8, 4)] : List (Space × Nat × Nat)).all fun (sp, off, width) =>
      decide (msixOff sp off = none) && decide (width ≠ 8 ∨ off % 8 ≠ 0)) ∧
    (([(run0, .pf, 0x3FFF8)] : List (State × Space × Nat)).all fun (s, sp, off) =>
      decide (s.target sp off 8 = .unassigned)) ∧
    (([(run0, .pf, fFltRecHead_count.addr)] : List (State × Space × Nat)).all fun (s, sp, off) =>
      decide (s.target sp off 8 ≠ .unassigned)) ∧
    (([(run0, 15, 0)] : List (State × (Fin 16) × Nat)).all fun (s, n, off) =>
      decide (s.partOfFn (n.val + 1) = none) && decide (msixOff (.vf n) off = none) && decide (off % 8 = 0) && decide (off < barSize (.vf
        n))) ∧
    (([run0] : List (State)).all fun s =>
      decide (s.loaderIdle = true)) ∧
    (([at_ [(fLdrStatus_state, 1)]] : List (State)).all fun s =>
      decide (s.loaderIdle = false)) ∧
    (([1] : List (Word)).all fun v =>
      decide (v.toNat.testBit 0 = true)) ∧
    (([0x100000041] : List (Word)).all fun v =>
      decide (v.toNat.testBit 32 = true)) := by decide +kernel

theorem witness_OuterPortsAndPtp :
    (([(inJob, 3)] : List (State × Port)).all fun (s, k) =>
      let d := k.val / 2
      let i := k.val % 2
      decide (s.get (fOutPortStatus_link_up d i) = 1)) ∧
    (([(inJob, 15)] : List (State × Port)).all fun (s, k) =>
      let d := k.val / 2
      let i := k.val % 2
      decide (s.get (fOutPortStatus_link_up d i) = 0)) ∧
    (([(inJob, 3)] : List (State × Port)).all fun (s, k) =>
      decide (s.portOn k = true) && decide ((s.portEnt k).preemption = true)) ∧
    (([(run0, 15), (inJob jobM [] { port with preemption := false }, 3)] : List (State × Port)).all fun (s, k) =>
      decide (s.portOn k = false ∨ (s.portEnt k).preemption = false)) ∧
    (([(inJob, 3, 3, 1)] : List (State × Port × (Fin 8) × Nat)).all fun (s, k, pcp, t) =>
      decide (s.portOn k = true) && decide (pcp.val = s.portsHdr.rocePcp) && decide ((s.portEnt k).pfc = true) && decide (0 < t)) ∧
    (([({ inJob jobM [(fOutPortStatus_paused 1 1, 8)] with outer := { ports := [(3, child)] } }, 3, 3)] : List (State × Port × (Fin 8))).all
      fun (s, k, pcp) =>
      decide (s.portOn k = true) && decide (pcp.val = s.portsHdr.rocePcp) && decide ((s.portEnt k).pfc = true) &&
      match (s.portSt k).queued with
      | [⟨_, _, _⟩] =>
        true
      | _ => false) ∧
    (([(inJob, 3, 4), (inJob jobM [] { port with pfc := false }, 3, 3)] : List (State × Port × (Fin 8))).all fun (s, k, pcp) =>
      decide (s.portOn k = true) && decide (pcp.val ≠ s.portsHdr.rocePcp ∨ (s.portEnt k).pfc = false)) ∧
    (([(run0, 3)] : List (State × Port)).all fun (s, k) =>
      decide (s.portOn k = false)) ∧
    (([({ inJob jobM [(fOutPortStatus_paused 1 1, 8)] with outer := { ports := [(3, child)] } }, 3)] : List (State × Port)).all fun (s, k)
      =>
      decide (s.portPaused k = true) &&
      match (s.portSt k).queued with
      | [⟨_, _, _⟩] =>
        true
      | _ => false) ∧
    (([({ inJob jobM [(fOutPortStatus_paused 1 1, 8)] { port with shares := [0, 5] } with outer := { ports := [(3, { queued := [⟨0, { pcp := 3 }, pkt .ack⟩, ⟨1, {}, pkt .readRequest⟩] })] } },
      3)] : List (State × Port)).all fun (s, k) =>
      decide (s.portPaused k = true) &&
      match (s.portSt k).queued with
      | [⟨p, _, _⟩, ⟨q, _, _⟩] =>
        decide (p ≠ q) && decide ((s.portEnt k).shares.getD p 0 = 0) && decide (0 < (s.portEnt k).shares.getD q 0)
      | _ => false) ∧
    (([(inJob, 3)] : List (State × Port)).all fun (s, k) =>
      decide (s.portPaused k = false)) ∧
    (([(inJob, 3)] : List (State × Port)).all fun (s, k) =>
      decide (s.portOn k = true)) ∧
    (([(inJob, 2, -8388608), (inJob, 2, 8388607), (inJob, 2, 0)] : List (State × Port × Int)).all fun (s, k, off) =>
      decide (s.portOn k = true) && decide (s.portsHdr.ptpSlave = k.val) && decide (-8388608 ≤ off) && decide (off < 8388608)) ∧
    (([(inJob, 3, 0, .announce), (inJob, 3, 0, .sync 5), (inJob, 2, 0, .delayResp), (inJob, 2, 255, .sync 5)] : List (State × Port × Nat ×
      PtpMsg)).all fun (s, k, dom, m) =>
      decide (s.portOn k = true) && decide (dom ≠ s.portsHdr.ptpDomain ∨ m = .announce ∨ m = .delayResp ∨ (m = .delayReq ∧ (s.portEnt
        k).ptpMaster = false) ∨ (s.portsHdr.ptpSlave ≠ k.val ∧ (match m with | .sync _ => true | _ => false) = true))) ∧
    (([(inJob, 3)] : List (State × Port)).all fun (s, k) =>
      decide (s.portOn k = true) && decide ((s.portEnt k).ptpMaster = true)) ∧
    (([(run0, 2)] : List (State × Port)).all fun (s, k) =>
      decide (s.portOn k = false)) ∧
    (([(inJob, 3)] : List (State × Port)).all fun (s, k) =>
      decide (s.portOn k = true) && decide ((s.portEnt k).ptpMaster = true)) ∧
    (([(inJob jobM [] { port with ptpMaster := false }, 3)] : List (State × Port)).all fun (s, k) =>
      decide ((s.portEnt k).ptpMaster = false)) ∧
    (([inJob] : List (State)).all fun s =>
      decide (s.portsHdr.ptpSlave < 16)) ∧
    (([{ run0 with dev := some { lastD with portsHdr := { ptpSlave := 255 } } }] : List (State)).all fun s =>
      decide (16 ≤ s.portsHdr.ptpSlave)) := by decide +kernel

theorem witness_PacketArrival :
    (([(ready, 3, pkt .writeFirst), (ready, 3, pkt .writeMiddle), (ready, 3, pkt .writeLast), (ready, 3, pkt .writeOnly), (ready, 3, pkt
      .writeLastImm), (ready, 3, pkt .writeOnlyImm), (ready, 3, pkt .sendFirst), (ready, 3, pkt .sendMiddle), (ready, 3, pkt .sendLast),
      (ready, 3, pkt .sendOnly), (ready, 3, pkt .readRequest), (ready, 3, pkt .readFirst), (ready, 3, pkt .readMiddle), (ready, 3, pkt
      .readLast), (ready, 3, pkt .readOnly), (ready, 3, pkt .ack), (ready, 3, pkt .nakSequence), (ready, 3, pkt .nakInvalid), (ready, 3, pkt
      .nakAccess), (ready, 3, pkt .nakOperational), (ready, 3, pkt .rnrNak), (ready, 3, pkt .cnp), (ready, 3, pkt .other), (ready
      { state := 1, expected := 5 }, 3, pkt .writeOnly), (ready { state := 1, expected := 5 }, 3, pkt .readRequest), (ready, 3,
      { pkt .sendOnly with psn := 1 })] : List (State × Port × Pkt)).all fun (s, k, x) =>
      decide (s.portOn k = true) && decide (x.icrcOk = true) && decide (x.ce = false) &&
      match s.readyQp x.qpn with
      | some (_, _, _) =>
        true
      | _ => false) ∧
    (([(inJob, 3, pkt .writeOnly), (inJob, 3, pkt .ack)] : List (State × Port × Pkt)).all fun (s, k, x) =>
      decide (s.portOn k = true) && decide (x.icrcOk = true) && decide (s.readyQp x.qpn = none)) ∧
    (([(ready, 3, { pkt .cnp with icrcOk := false })] : List (State × Port × Pkt)).all fun (s, k, x) =>
      decide (s.portOn k = true) && decide (x.icrcOk = false)) ∧
    (([(run0, 3)] : List (State × Port)).all fun (s, k) =>
      decide (s.portOn k = false)) ∧
    (([(ready, 0, 0, { pkt .writeOnly with ce := true })] : List (State × Nat × Nat × Pkt)).all fun (s, p, q, x) =>
      match s.qpCfg p q with
      | some _ =>
        decide (x.ce = true) && decide (x.op = .writeOnly) && decide ((s.qp p q).lastCnpSent = none)
      | _ => false) ∧
    (([(ready { state := 1, lastCnpSent := some 0 }, 0, 0)] : List (State × Nat × Nat)).all fun (s, p, q) =>
      match (s.qp p q).lastCnpSent with
      | some t =>
        decide (s.clock.now < t + 50000)
      | _ => false) := by decide +kernel

theorem witness_Responder :
    (([(ready { state := 1 } (inJob jobM [] { port with pfc := false }), 0, 0, pkt .writeOnly)] : List (State × Nat × Nat × Pkt)).all fun
      (s, p, q, x) =>
      match s.qpCfg p q with
      | some c =>
        decide (x.op = .writeOnly) && decide (x.data = []) && decide ((s.qp p q).begun = false) && decide ((s.qp p q).rx = []) && decide
          ((s.qp p q).state = 1) && decide (s.rethOk p x true = true) && decide (x.packets = false) && decide (s.portPaused c.port = false)
          && decide ((s.portSt c.port).pauseSent = false) && decide ((s.portEnt c.port).pfc = false)
      | _ => false) ∧
    (([(ready, 0, 0, qpc, { pkt .writeOnly with va := 2097152, len := 1 })] : List (State × Nat × Nat × QpCfg × Pkt)).all fun (s, p, q, c,
      x) =>
      decide (x.op = .writeFirst ∨ x.op = .writeOnly) && decide ((s.qp p q).begun = false) && decide (x.data.length ≤ mtuOf c) && decide
        (s.rethOk p x true = false)) ∧
    (([(ready, 0, 0, pkt .writeLast)] : List (State × Nat × Nat × Pkt)).all fun (s, p, q, x) =>
      decide (x.op = .writeMiddle ∨ x.op = .writeLast) && decide ((s.qp p q).begun = false)) ∧
    (([(ready, 0, { pkt .writeOnly with rkey := 0xFFFF0001 })] : List (State × Nat × Pkt)).all fun (s, p, x) =>
      match s.lastOf p with
      | some l =>
        decide (l.job.windows[x.rkey % 2 ^ 16]? = none)
      | _ => false) ∧
    (([(ready, 0, { pkt .writeOnly with va := 2097088, len := 64 }), (ready, 0, { pkt .writeOnly with va := 2097088, len := 65 })] : List
      (State × Nat × Pkt)).all fun (s, p, x) =>
      match s.lastOf p with
      | some l =>
        match l.job.windows[x.rkey % 2 ^ 16]? with
        | some _ =>
          decide (x.rkey / 2 ^ 16 % 2 ^ 16 = 0xFFFF)
        | _ => false
      | _ => false) ∧
    (([(ready { state := 1, recvIndex := 4 }, 0, 0, qpc, { pkt .sendOnly with data := List.replicate 4032 1 })] : List (State × Nat × Nat ×
      QpCfg × Pkt)).all fun (s, p, q, c, x) =>
      decide (x.op = .sendOnly) && decide ((s.qp p q).begun = false) && decide (x.data.length ≤ mtuOf c) && decide (0 < c.recvSlots) &&
        decide (c.recvBase ≠ 0) && decide (64 + x.data.length ≤ c.slotBytes) && decide (((s.qp p q).recvIndex + 2 ^ 32 - (s.qp p
        q).recvConsumer) % 2 ^ 32 = c.recvSlots)) ∧
    (([({ qpc with recvSlots := 0 }, pkt .sendOnly)] : List (QpCfg × Pkt)).all fun (c, x) =>
      decide (x.op = .sendOnly) && decide (c.recvSlots = 0)) ∧
    (([(ready, 0, 0, pkt .readRequest)] : List (State × Nat × Nat × Pkt)).all fun (s, p, q, x) =>
      match s.qpCfg p q with
      | some c =>
        decide ((s.qp p q).begun = false) && decide (x.psn = (s.qp p q).expected) && decide (x.len = 0) && decide (s.portPaused c.port =
          false) && decide (s.rethOk p { x with rkey := x.rkey % 2 ^ 16 + 2 ^ 16 * 0xFFFF } false = true)
      | _ => false) ∧
    (([(ready, 0, 0)] : List (State × Nat × Nat)).all fun (s, p, q) =>
      match s.qpCfg p q with
      | some c =>
        decide (s.portPaused c.port = false)
      | _ => false) := by decide +kernel

theorem witness_QueuePairs :
    (([(ready { state := 1, sent := [pkt .writeOnly] }, 0, 0)] : List (State × PIdx × Nat)).all fun (s, p, q) =>
      match s.qpCfg p q with
      | some c =>
        decide ((s.qp p q).state = 1) &&
        match (s.qp p q).sent with
        | [_] =>
          decide (s.portPaused c.port = false)
        | _ => false
      | _ => false) ∧
    (([(ready, 0, 0)] : List (State × PIdx × Nat)).all fun (s, p, q) =>
      decide ((s.qp p q).state ≠ 1 ∨ (s.qp p q).sent = [])) ∧
    (([(ready { state := 1, sent := [pkt .writeOnly] }, 0, 0)] : List (State × PIdx × Nat)).all fun (s, p, q) =>
      match s.qpCfg p q with
      | some _ =>
        decide ((s.qp p q).state = 1) && decide ((s.qp p q).sent ≠ [])
      | _ => false) ∧
    (([(ready, 0, 0, 2), (inJob, 0, 0, 4)] : List (State × Nat × Nat × Nat)).all fun (s, p, q, code) =>
      match s.qpCfg p q with
      | some _ =>
        decide ((s.qp p q).state ≠ 2) && decide (code = 2 ∨ code = 4)
      | _ => false) ∧
    (([(ready { state := 2 }, 0, 0)] : List (State × Nat × Nat)).all fun (s, p, q) =>
      decide ((s.qp p q).state = 2)) ∧
    (([(ready { state := 1, rate := 33 }, 0, 0), (ready { state := 1, rate := 1 }, 0, 0)] : List (State × PIdx × Nat)).all fun (s, p, q) =>
      decide ((s.qp p q).state = 1)) ∧
    (([(ready { state := 2 }, 0, 0)] : List (State × PIdx × Nat)).all fun (s, p, q) =>
      decide ((s.qp p q).state ≠ 1)) ∧
    (([(ready { state := 1, sent := [pkt .writeOnly, { pkt .writeOnly with psn := 1 }] }, 0, 0)] : List (State × Nat × Nat)).all fun (s, p,
      q) =>
      decide ((s.qp p q).copies = [])) := by decide +kernel

theorem witness_LaceFrames :
    (([(withJob { insts := [⟨480, 4, [], [], false⟩] }, 3, frame 1 2), (withJob { insts := [⟨480, 4, [], [], false⟩] }, 3, frame 3 2),
      (withJob { insts := [⟨480, 4, [], [], false⟩] }, 3, frame 5 2), (withJob { insts := [⟨480, 4, [], [], false⟩] }, 3, frame 7 2),
      (withJob { insts := [⟨480, 4, [], [], false⟩] }, 3, frame 9 2), (withJob { insts := [⟨480, 4, [], [], false⟩] }, 1, frame 2 0),
      (withJob { insts := [⟨480, 4, [], [], false⟩] }, 1, frame 4 0), (withJob { insts := [⟨480, 4, [], [], false⟩] }, 1, frame 6 0),
      (withJob { insts := [⟨480, 4, [], [], false⟩] }, 1, frame 7 0), (withJob { insts := [⟨480, 4, [], [], false⟩] }, 1, frame 8 0),
      (withJob { insts := [⟨480, 4, [], [], false⟩] }, 1, frame 10 0), (ready, 3, { frame 11 2 with value := 0 }), (ready { state := 0 }, 3,
      { frame 11 2 with value := 0 }), (inJob jobR, 3, frame 3 2), (inJob jobR, 3, frame 9 2), (withJob {}, 1, frame 2 0), (inJob, 3,
      { frame 1 2 with jobStitch := 477 })] : List (State × Port × LaceFrame)).all fun (s, k, f) =>
      decide (s.portOn k = true) &&
      match s.jobOf with
      | some (_, j) =>
        decide (s.get fOutJobStatus_state ≠ 3) && decide (s.laceOk j f = true)
      | _ => false) ∧
    (([(inJob jobM [(fOutJobStatus_state, 3)], 3, frame 1 2), (inJob, 3, frame 1 0)] : List (State × Port × LaceFrame)).all fun (s, k, f) =>
      decide (s.portOn k = true) && decide
        ((match s.jobOf with | none => true | some (_, j) => decide (s.get fOutJobStatus_state = 3 ∨ s.laceOk j f = false)) = true)) ∧
    (([(run0, 3)] : List (State × Port)).all fun (s, k) =>
      decide (s.portOn k = false)) ∧
    (([(inJob, jobM, { frame 1 2 with jobStitch := 476 }), (inJob, jobM, { frame 1 2 with version := 2 }), (inJob, jobM,
      { frame 1 2 with incarnation := 1 })] : List (State × JobSec × LaceFrame)).all fun (s, j, f) =>
      decide (f.version ≠ 1 ∨ f.jobId ≠ j.jobId ∨ f.jobStitch + 3 < s.jobStitch ∨ (f.type ≠ 0x09 ∧ f.incarnation ≠ mapGet 0 s.outer.job.incs
        f.source))) ∧
    (([(inJob, jobM, { frame 10 0 with jobStitch := 477 }), (inJob, jobM, frame 2 0)] : List (State × JobSec × LaceFrame)).all fun (s, j, f)
      =>
      decide (f.version = 1) && decide (f.jobId = j.jobId) && decide (s.jobStitch ≤ f.jobStitch + 3) && decide (f.incarnation = mapGet 0
        s.outer.job.incs f.source) && decide (j.parentMember = some f.source) && decide (f.type ∈ [0x02, 0x04, 0x06, 0x07, 0x08, 0x0A])) := by decide +kernel

theorem witness_JobBarriers :
    (([(inJob jobL, ⟨480, 4, [1], [], false⟩)] : List (State × JobInst)).all fun (s, x) =>
      match s.jobOf with
      | some (_, j) =>
        decide (j.children = []) && decide (j.role = 2) &&
        match j.parent with
        | some _ =>
          decide (s.get fOutJobStatus_state ≠ 3) && decide (x.sent = false) && decide (0 < j.localTasks x.barrier) && decide (j.localTasks
            x.barrier ≤ x.tasks.length) && decide (x.children = [])
        | _ => false
      | _ => false) ∧
    (([(jobM, ⟨480, 4, [], [], false⟩)] : List (JobSec × JobInst)).all fun (j, x) =>
      decide (x.tasks.length < j.localTasks x.barrier)) ∧
    (([(jobM, ⟨480, 4, [1], [], false⟩)] : List (JobSec × JobInst)).all fun (j, x) =>
      decide (∃ m ∈ j.childMembers, ∀ e ∈ x.children, e.1 ≠ m)) ∧
    (([(jobR, ⟨480, 4, [1], [(2, 1)], false⟩, 1), (jobR, ⟨480, 4, [1], [(2, 5)], false⟩, 5)] : List (JobSec × JobInst × Nat)).all fun (j, x,
      n) =>
      decide (j.role = 1) &&
      match j.children with
      | [a] =>
        decide (x.sent = false) && decide (0 < j.localTasks x.barrier) && decide (j.localTasks x.barrier ≤ x.tasks.length) && decide
          (x.children = [(a.member, n)])
      | _ => false) ∧
    (([inJob jobR] : List (State)).all fun s =>
      match s.jobOf with
      | some (_, j) =>
        match j.children with
        | [_] =>
          decide (s.get fOutJobStatus_state ≠ 3)
        | _ => false
      | _ => false) ∧
    (([(run0, 0, 4, jobL)] : List (State × Nat × Nat × JobSec)).all fun (s, p, b, j) =>
      decide ((s.tile.tasks.filter fun k => k.part == p && (k.phase == .running && !(j.waitingAt b k).isEmpty)).length < j.localTasks b)) ∧
    (([(withTask { task with arrivals := [(0, [0])] } (inJob { jobL with memberCount := 1 }), 4, jobL)] : List (State × Nat × JobSec)).all
      fun (s, b, j) =>
      match s.tile.tasks with
      | [k] =>
        decide (k.phase = .running) && decide (j.waitingAt b k ≠ []) && decide (j.localTasks b = 1)
      | _ => false) ∧
    (([withJob { failures := [⟨477, 3, 2⟩] } (inJob jobR)] : List (State)).all fun s =>
      match s.jobOf with
      | some (_, j) =>
        decide (j.role = 1) &&
        match s.outer.job.failures with
        | [x] =>
          decide (x.stitch + 3 ≤ s.jobStitch)
        | _ => false
      | _ => false) ∧
    (([withJob { failures := [⟨478, 3, 2⟩] } (inJob jobR), inJob] : List (State)).all fun s =>
      match s.jobOf with
      | some (_, j) =>
        decide (j.role ≠ 1 ∨ ∀ x ∈ s.outer.job.failures, s.jobStitch < x.stitch + 3)
      | _ => false) ∧
    (([run0] : List (State)).all fun s =>
      decide (s.jobOf = none)) ∧
    (([{ jobR with qps := [] }] : List (JobSec)).all fun j =>
      decide (j.role = 1) && decide (j.parent = none) && decide (j.qps = [])) ∧
    (([(withTask { task with tiles := [0, 1] } (withTile { task := some 1, sentBar := some 3 }), 1, 0, 3)] : List (State × Nat × TileId ×
      (Fin 16))).all fun (s, id, t, n) =>
      match s.taskById id with
      | some k =>
        decide (k.phase = .running) && decide (t.val ∈ k.tiles) && decide ((s.tileAt t).sentBar = some n.val) && decide (mapGet []
          k.arrivals n.val = []) && decide (∃ w ∈ k.tiles, w ≠ t.val)
      | _ => false) ∧
    (([(withTask { task with tiles := [0], completed := [3] } (withTile { task := some 1, sentBar := some 3 }), 1, 0, 3)] : List (State ×
      Nat × Die × (Fin 16))).all fun (s, id, d, n) =>
      match s.taskById id with
      | some k =>
        decide (n.val ∈ k.completed) && decide (∀ t ∈ k.tiles, (s.tileAt t).sentBar ≠ some n.val ∨ tileDie t = d.val)
      | _ => false) := by decide +kernel

theorem witness_JobFrequencyAndMembership :
    (([withJob {  } (inJob jobL [(fOutJobStitch_stitch, 480), (fPwrBudget_sustain_mhz, 1200)]), withJob {  } (inJob jobL
      [(fOutJobStitch_stitch, 496), (fPwrBudget_sustain_mhz, 1200)])] : List (State)).all fun s =>
      match s.jobOf with
      | some (_, j) =>
        decide (s.isMember = true) && decide (j.role = 2) &&
        match j.parent with
        | some _ =>
          decide (j.children = []) && decide (s.outer.job.reported ≠ s.jobStitch / 256 + 1)
        | _ => false
      | _ => false) ∧
    (([withJob { reports := [(2, 900, 1)] } (inJob jobR [(fOutJobStitch_stitch, 504), (fPwrBudget_sustain_mhz, 1200)])] : List (State)).all
      fun s =>
      match s.jobOf with
      | some (_, j) =>
        decide (s.isMember = true) && decide (j.role = 1) &&
        match j.children with
        | [_] =>
          decide (s.jobStitch % 256 = 248)
        | _ => false
      | _ => false) ∧
    (([(withJob { reports := [(2, 900, 1)] } (inJob jobR [(fPwrBudget_sustain_mhz, 1200)]), jobR)] : List (State × JobSec)).all fun (s, j)
      =>
      match j.childMembers with
      | [m] =>
        match s.outer.job.reports with
        | [(m_, _, _)] =>
          decide (m_ = m)
        | _ => false
      | _ => false) ∧
    (([(withJob { freq := some (512, 900) } (inJob jobM [(fOutJobStitch_stitch, 512)]), 900)] : List (State × Nat)).all fun (s, mhz) =>
      decide (s.isMember = true) && decide (s.jobStitch % 256 = 0) && decide (s.outer.job.freq = some (s.jobStitch, mhz))) ∧
    (([withJob {  } (inJob jobM [(fOutJobStitch_stitch, 512)]), withJob { freq := some (513, 900) } (inJob jobM [(fOutJobStitch_stitch,
      512)])] : List (State)).all fun s =>
      decide (s.isMember = true) && decide (s.jobStitch % 256 = 0) && decide ((s.outer.job.freq.all fun e => e.1 != s.jobStitch) = true)) ∧
    (([withJob {  } (inJob jobL [(fOutJobStitch_stitch, 480)])] : List (State)).all fun s =>
      match s.jobOf with
      | some (_, j) =>
        match j.parent with
        | some _ =>
          decide (j.children = []) && decide (s.isMember = true) && decide (s.jobStitch % 16 = 0)
        | _ => false
      | _ => false) ∧
    (([inJob jobM [(fOutJobStitch_stitch, 481)], run0] : List (State)).all fun s =>
      decide (s.isMember = false ∨ s.jobStitch % 16 ≠ 0)) ∧
    (([(withJob { heard := [(2, 432)] } (inJob jobM [(fOutJobStitch_stitch, 480)]), 2), (withJob { heard := [(2, 433)] } (inJob jobM
      [(fOutJobStitch_stitch, 480)]), 2)] : List (State × Nat)).all fun (s, m) =>
      match s.jobOf with
      | some (_, j) =>
        decide (s.isMember = true) && decide (m ∈ j.neighbourMembers) &&
        match s.outer.job.heard with
        | [(m_, _)] =>
          decide (m_ = m)
        | _ => false
      | _ => false) ∧
    (([(inJob, 9)] : List (State × Nat)).all fun (s, m) =>
      match s.jobOf with
      | some (_, j) =>
        decide (m ∉ j.neighbourMembers)
      | _ => false) ∧
    (([run0] : List (State)).all fun s =>
      decide (s.jobOf = none)) ∧
    (([{ jobM with qps := [] }] : List (JobSec)).all fun j =>
      decide (j.role = 2) &&
      match j.parent with
      | some _ =>
        decide (j.qps = [])
      | _ => false) ∧
    (([inJob jobM [(fOutJobStatus_state, 1), (fOutPtpStatus_aligned, 1), (fPartStatus_state 0, 2)]] : List (State)).all fun s =>
      match s.jobOf with
      | some (p, j) =>
        decide (s.get fOutJobStatus_state = 1) && decide (s.partState p = 2) && decide (s.get fOutPtpStatus_aligned = 1) && decide
          (s.outer.job.joinSent = false) && decide (j.role = 2) &&
        match j.parent with
        | some _ =>
          true
        | _ => false
      | _ => false) ∧
    (([inJob] : List (State)).all fun s =>
      match s.jobOf with
      | some (p, _) =>
        decide (s.get fOutJobStatus_state ≠ 1 ∨ s.get fOutPtpStatus_aligned ≠ 1 ∨ s.partState p ≠ 2 ∨ s.outer.job.joinSent = true)
      | _ => false) ∧
    (([(inJob { jobR with memberTable := 2 ^ 40 }, 2)] : List (State × Nat)).all fun (s, m) =>
      match s.jobOf with
      | some (p, j) =>
        match j.children with
        | [_] =>
          decide (s.get fOutJobStatus_state ≠ 3) && decide (s.translate p (j.memberTable + 4 * m) = none)
        | _ => false
      | _ => false) ∧
    (([(withJob { newIncs := [(480, 1, 5)] } (inJob jobM [(fOutJobStitch_stitch, 480)]), 480, 5)] : List (State × Nat × Nat)).all fun (s,
      eff, inc) =>
      match s.jobOf with
      | some (_, j) =>
        decide (s.outer.job.newIncs = [(eff, j.member, inc)]) && decide (eff ≤ s.jobStitch)
      | _ => false) ∧
    (([jobM] : List (JobSec)).all fun j =>
      decide (1 < j.memberCount) && decide (j.role = 2)) ∧
    (([withJob { newIncs := [(481, 1, 5)] } (inJob jobM [(fOutJobStitch_stitch, 480)]), inJob] : List (State)).all fun s =>
      match s.jobOf with
      | some (_, _) =>
        decide (∀ e ∈ s.outer.job.newIncs, s.jobStitch < e.1)
      | _ => false) ∧
    (([withJob { failures := [⟨477, 3, 2⟩] } (inJob jobR)] : List (State)).all fun s =>
      match s.jobOf with
      | some (_, j) =>
        decide (j.role = 1) &&
        match s.outer.job.failures with
        | [x] =>
          decide (x.stitch + 3 ≤ s.jobStitch)
        | _ => false
      | _ => false) := by decide +kernel

theorem witness_Migration :
    (([(at_ [(fPartStatus_state 0, 2), (fPmStatus_phase 0, 0)] (run0), 0, 1)] : List (State × PIdx × Word)).all fun (s, p, v) =>
      decide (v.toNat = 1) && decide (s.partState p = 2) && decide (s.get (fPmStatus_phase p) = 0) &&
      match s.lastOf p with
      | some l =>
        decide (l.job.memberCount ≤ 1) && decide (covered (s.diePages p) (s.saveBase p) (s.saveLen p) = true)
      | _ => false) ∧
    (([(at_ [(fPartStatus_state 0, 3), (fPmStatus_phase 0, 0)] (run0), 0, 1), (at_ [(fPartStatus_state 0, 2)] inJob, 0, 1)] : List (State ×
      PIdx × Word)).all fun (s, p, v) =>
      decide (v.toNat = 1) &&
      match s.lastOf p with
      | some _ =>
        decide (covered (s.diePages p) (s.saveBase p) (s.saveLen p) = true)
      | _ => false) ∧
    (([(at_ [(fPartStatus_state 0, 3), (fPmStatus_phase 0, 3)] (run0), 0, 2)] : List (State × PIdx × Word)).all fun (s, p, v) =>
      decide (v.toNat = 2) && decide (s.partState p = 3) && decide (s.get (fPmStatus_phase p) = 3)) ∧
    (([(at_ [(fPartStatus_state 0, 2), (fPmStatus_phase 0, 3)] (run0), 0, 2, 4), (at_ [(fPartStatus_state 0, 3), (fPmStatus_phase 0, 2)]
      (run0), 0, 2, 4)] : List (State × PIdx × Word × Word)).all fun (s, p, v, w) =>
      decide (v.toNat = 2) && decide (w.toNat = 4) && decide (s.partState p ≠ 3 ∨ s.get (fPmStatus_phase p) ≠ 3)) ∧
    (([(at_ [(fPartStatus_state 0, 3), (fPmStatus_phase 0, 3)] (run0), 0, 4), (at_ [(fPartStatus_state 0, 3), (fPmStatus_phase 0, 3)] (saved
      []), 0, 4)] : List (State × PIdx × Word)).all fun (s, p, v) =>
      decide (v.toNat = 4) && decide (s.partState p = 3) && decide (s.get (fPmStatus_phase p) = 3) && decide (s.areaBusy p = false)) ∧
    (([(at_ [(fPartStatus_state 0, 3), (fPmStatus_phase 0, 2)] (run0), 0), (at_ [(fPartStatus_state 0, 3), (fPmStatus_phase 0, 2)] (withTx
      { tx 5 31 with wants := [.save 0] }), 0)] : List (State × PIdx)).all fun (s, p) =>
      decide (s.get (fPmStatus_phase p) = 2) && decide ((s.partSt p).freezeAt = none)) ∧
    (([(at_ [(fPartStatus_state 0, 3), (fPmStatus_phase 0, 1)] (run0), 0), (at_ [(fPartStatus_state 0, 3), (fPmStatus_phase 0, 2)]
      (run0.setPartSt 0 { freezeAt := some 9 }), 0)] : List (State × PIdx)).all fun (s, p) =>
      decide (s.get (fPmStatus_phase p) ≠ 2 ∨ (s.partSt p).freezeAt.isSome = true)) ∧
    (([(at_ [(fPartStatus_state 0, 3), (fPmStatus_phase 0, 4)] (run0), 0), (at_ [(fPartStatus_state 0, 3), (fPmStatus_phase 0, 4)] (saved
      []), 0)] : List (State × PIdx)).all fun (s, p) =>
      decide (s.get (fPmStatus_phase p) = 4) && decide (s.areaBusy p = false)) ∧
    (([(at_ [(fPartStatus_state 0, 3), (fPmStatus_phase 0, 3)] (run0), 0)] : List (State × PIdx)).all fun (s, p) =>
      decide (s.get (fPmStatus_phase p) ≠ 4 ∨ s.areaBusy p = true)) := by decide +kernel

theorem witness_PartitionEnds :
    (([(at_ [(fPartSqStatus_state 0 15, 2)] run0, 0, 15)] : List (State × (Fin 16) × (Fin 16))).all fun (s, n, k) =>
      match s.partOfFn (n.val + 1) with
      | some p =>
        decide (s.get (fPartSqStatus_state p k) = 2)
      | _ => false) ∧
    (([(run0, 15, 0), (at_ [(fPartSqStatus_state 0 0, 1)] run0, 0, 0)] : List (State × (Fin 16) × (Fin 16))).all fun (s, n, k) =>
      decide ((match s.partOfFn (n.val + 1) with | some p => s.get (fPartSqStatus_state p k) != 2 | none => true) = true)) ∧
    (([(at_ [(fPartStatus_state 0, 4)] (run0.setPartSt 0 { drainTicks := 2 }), 0), (at_ [(fPartStatus_state 15, 4)] (run0.setPartSt 15
      { drainTicks := 3 }), 15)] : List (State × PIdx)).all fun (s, p) =>
      decide (s.partState p = 4) && decide (2 ≤ (s.partSt p).drainTicks) && decide (s.recordLeft p = false)) ∧
    (([(at_ [(fPartStatus_state 0, 4)] (run0.setPartSt 0 { drainTicks := 1 }), 0)] : List (State × PIdx)).all fun (s, p) =>
      decide (s.partState p = 4) && decide ((s.partSt p).drainTicks = 1) && decide (s.recordLeft p = false) && decide (∀ x ∈ s.coh.txs,
        x.part = p.val → x.gen = s.generation p)) ∧
    (([(run0, 0), (at_ [(fPartStatus_state 0, 4)] (withTx { tx 5 31 with gen := 9 } (run0.setPartSt 0 { drainTicks := 1 })), 0)] : List
      (State × PIdx)).all fun (s, p) =>
      decide (s.partState p ≠ 4 ∨ (s.partSt p).drainTicks = 0 ∨ s.recordLeft p = true ∨ ((s.partSt p).drainTicks = 1 ∧ ∃ x ∈ s.coh.txs,
        x.part = p.val ∧ x.gen ≠ s.generation p))) ∧
    (([(run0, 15), (at_ [(fPartStatus_state 0, 4)] run0, 0)] : List (State × Nat)).all fun (s, p) =>
      decide (s.partState p = 0 ∨ s.partState p = 4)) ∧
    (([(idle [(fPartStatus_state 15, 1), (fPartStatus_generation 15, 65535)], 15), (idle [(fPartStatus_state 15, 2), (fPartStatus_generation
      15, 65535)], 15), (idle [(fPartStatus_state 15, 3), (fPartStatus_generation 15, 65535)], 15)] : List (State × Nat)).all fun (s, p) =>
      decide (p < 16) && decide (s.partState p ∈ [1, 2, 3]) && decide (∀ k ∈ s.tile.tasks, k.part ≠ p) && decide (s.lastOf p = none) &&
        decide (s.get fOutJobStatus_role = 0)) ∧
    (([(withTask { task with retired := [0] } (withTile {}), 1)] : List (State × Nat)).all fun (s, id) =>
      match s.taskById id with
      | some k =>
        decide (s.stepOver k = true)
      | _ => false) ∧
    (([({ run0 with part := { records := [⟨0, 0, 5, true, List.replicate 32 1, true, false, false⟩] } }, 0, 0)] : List (State × PIdx × (Fin
      16))).all fun (s, p, cq) =>
      match s.part.records with
      | [r] =>
        decide (r.part = p.val) && decide (r.cq = cq.val) && decide (r.accepted = true) && decide (r.phase = false)
      | _ => false) := by decide +kernel

theorem witness_UnitTimeouts :
    (([(run0, 2175)] : List (State × TileId)).all fun (s, t) =>
      decide ((s.tileAt t).halting = false)) ∧
    (([(withTile { halting := true } (idle), 0)] : List (State × TileId)).all fun (s, t) =>
      decide ((s.tileAt t).copies = []) && decide (s.ownerOf t = none) && decide (s.fenced t = false) && decide (s.recovering (tileDie t) =
        false)) ∧
    (([(at_ [(fTileState_state 0 0, 5)] run0, 0)] : List (State × TileId)).all fun (s, t) =>
      decide (s.fenced t = true)) ∧
    (([(at_ [(fFltStatus_dies_recovering, 1)] run0, 0)] : List (State × TileId)).all fun (s, t) =>
      decide (s.fenced t = false) && decide (s.recovering (tileDie t) = true)) ∧
    (([(run0, 7, 0)] : List (State × Die × Nat)).all fun (s, d, tag) =>
      decide (∀ x ∈ s.coh.txs, x.die ≠ d.val ∨ x.tag ≠ tag)) ∧
    (([(withTx { tx 5 31 with wants := [] }, 0)] : List (State × Die)).all fun (s, d) =>
      match s.coh.txs with
      | [x] =>
        decide (x.die = d.val) && decide (x.wants = []) && decide (16 ≤ x.agent) && decide (s.sec.reading = [])
      | _ => false) ∧
    (([(run0, 7, 63)] : List (State × Die × (Fin 64))).all fun (s, d, sl) =>
      decide (∀ k ∈ s.coh.trackers, dpaDie k.line ≠ d.val ∨ channelOf k.line ≠ sl.val)) ∧
    (([({ run0 with coh := { trackers := [⟨0, false, []⟩] }, dram := { ue := [] } }, 0, 0), (at_ [(fFltStatus_dies_recovering, 1)]
      { run0 with coh := { trackers := [⟨0, false, []⟩] }, dram := { ue := [] } }, 0, 0)] : List (State × Die × (Fin 64))).all fun (s, d,
      sl) =>
      match s.coh.trackers with
      | [k] =>
        decide (dpaDie k.line = d.val) && decide (channelOf k.line = sl.val)
      | _ => false) ∧
    (([(run0, 7, 63)] : List (State × Die × (Fin 64))).all fun (s, d, ch) =>
      decide (∀ k ∈ s.coh.trackers, dpaDie k.line ≠ d.val ∨ channelOf k.line ≠ ch.val) && decide (s.coh.aluQ = [])) ∧
    (([({ run0 with coh := { trackers := [⟨0, false, []⟩] }, dram := { ue := [] } }, 0, 0), (at_ [(fFltStatus_dies_recovering, 1)]
      { run0 with coh := { trackers := [⟨0, false, []⟩] }, dram := { ue := [] } }, 0, 0)] : List (State × Die × (Fin 64))).all fun (s, d,
      ch) =>
      match s.coh.trackers with
      | [k] =>
        decide (dpaDie k.line = d.val) && decide (channelOf k.line = ch.val)
      | _ => false) ∧
    (([{ run0 with flt := { resets := [⟨4, 0, 3, [], [], 0⟩] } }, { run0 with flt := { resets := [⟨4, 0, 3, [0], [], 0⟩] } }] : List
      (State)).all fun s =>
      match s.flt.resets with
      | _ :: _ =>
        true
      | _ => false) ∧
    (([run0] : List (State)).all fun s =>
      decide (s.flt.resets = [])) := by decide +kernel

theorem witness_DieRecovery :
    (([(at_ [(fFltStatus_dies_recovering, 128)] run0, 7)] : List (State × Die)).all fun (s, d) =>
      decide (s.recovering d = true)) ∧
    (([(run0, 7)] : List (State × Die)).all fun (s, d) =>
      decide (s.recovering d = false)) ∧
    (([(withDir [{ ent .c 65536 with owedHalves := 32768 }], 0), (withDir [{ ent .f 1 with target := 15 }], 0), (withDir [ent .s 1], 0)] :
      List (State × Nat)).all fun (s, line) =>
      match s.entry line with
      | some _ =>
        true
      | _ => false) ∧
    (([(run0, 0)] : List (State × Nat)).all fun (s, line) =>
      decide (s.entry line = none)) ∧
    (([at_ [(fFltStatus_device_recovering, 1)] run0, { run0 with sec := { transition := some 3 } }] : List (State)).all fun s =>
      decide (s.get fFltStatus_device_recovering = 1 ∨ s.sec.transition ≠ none)) ∧
    (([(idle, 7)] : List (State × Nat)).all fun (s, d) =>
      decide (d < 8) && decide (s.get fFltStatus_device_recovering = 0) && decide (s.sec.transition = none) && decide (s.get (fFltEscT_ms 1)
        = 0) && decide (s.flt.goingOut = false) && decide (s.get fLdrStatus_state = 0) && decide (s.awl.running = []) && decide
        (s.flt.resets = []) && decide (s.flt.replays = []) && decide (s.tile.tasks = []) && decide (((List.range 16).all fun p =>
        s.partState p == 0) = true)) ∧
    (([(run0, 7), (at_ [(fFltStatus_dies_recovering, 128), (fFltStatus_device_recovering, 1)] run0, 7)] : List (State × Die)).all fun (s, d)
      =>
      decide (s.recovering d = false ∨ s.get fFltStatus_device_recovering = 1)) ∧
    (([(at_ [(fFltStatus_dies_recovering, 128)] { run0 with eyelets := [(7 * 32768, ⟨5, false⟩)], coh := { l2 := [l2line] } }, 7)] : List
      (State × Die)).all fun (s, d) =>
      decide (s.recovering d = true) && decide (s.get fFltStatus_device_recovering = 0) && decide (s.coh.dir = []) && decide (s.coh.homeWait
        = []) && decide (s.coh.filter = []) && decide (s.coh.filterWait = []) && decide (s.coh.trackers = []) && decide (s.coh.aluQ = []) &&
        decide (s.coh.l3 = []) && decide (s.awl.running = [])) ∧
    (([(at_ [(fFltStatus_dies_recovering, 128)] { run0 with flt := { dieAt := [(7, some 3)] } }, 7)] : List (State × Die)).all fun (s, d) =>
      decide (s.recovering d = true) && decide (s.get fFltStatus_device_recovering = 0) && decide (((List.range 8).all fun h => s.get
        (fDirStatus_sweep h) == 0) = true) && decide (s.flt.fenceLater = [])) ∧
    (([(at_ [(fFltStatus_dies_recovering, 128), (fDirStatus_sweep 3, 1)] run0, 3)] : List (State × Nat)).all fun (s, h) =>
      decide (h < 8) && decide (s.get (fDirStatus_sweep h) ≠ 0)) := by decide +kernel

theorem witness_DeviceRecovery :
    (([at_ [(fFltStatus_device_recovering, 1)] run0] : List (State)).all fun s =>
      decide (s.get fFltStatus_device_recovering = 1)) ∧
    (([{ run0 with sec := { transition := some 3 } }] : List (State)).all fun s =>
      decide (s.get fFltStatus_device_recovering = 0) && decide (s.sec.transition ≠ none)) ∧
    (([run0, at_ [(fFltStatus_dies_recovering, 128)] run0] : List (State)).all fun s =>
      decide (s.get fFltStatus_device_recovering = 0) && decide (s.sec.transition = none)) ∧
    (([at_ [(fFltStatus_device_recovering, 1)] run0] : List (State)).all fun s =>
      decide (s.get fFltStatus_device_recovering = 1)) ∧
    (([(at_ [(fDirStatus_sweep 7, 1)] run0, 7)] : List (State × Die)).all fun (s, d) =>
      decide (s.get (fDirStatus_sweep d) = 1)) ∧
    (([at_ [(fFltStatus_device_recovering, 1), (fFltStatus_dies_recovering, 128)] run0] : List (State)).all fun s =>
      decide (s.get fFltStatus_device_recovering = 1) && decide (((List.range 8).all fun h => s.get (fDirStatus_sweep h) == 0) = true) &&
        decide (s.flt.fenceLater = []) && decide (s.flt.goingOut = false) && decide (s.sec.transition = none)) ∧
    (([run0] : List (State)).all fun s =>
      decide (s.get fFltStatus_out_of_service = 0)) ∧
    (([at_ [(fFltStatus_out_of_service, 1)] run0] : List (State)).all fun s =>
      decide (s.get fFltStatus_out_of_service = 1) && decide (s.get fFltRtsCtrl_host = 0) && decide (s.sec.reading = []) && decide
        (s.coh.dir = []) && decide (∀ x ∈ s.coh.txs, Purpose.image 3 ∉ x.wants)) ∧
    (([at_ [(fFltStatus_out_of_service, 1)] { run0 with sec := { reading := [⟨3, none, [], true⟩] } }] : List (State)).all fun s =>
      decide (∃ w ∈ s.sec.reading, w.reader = 3) && decide (s.get fFltStatus_out_of_service = 1)) ∧
    (([at_ [(fFltStatus_out_of_service, 1), (fFltRtsCtrl_host, 1)] run0] : List (State)).all fun s =>
      decide (s.get fFltStatus_out_of_service = 1) && decide (s.get fFltRtsCtrl_host = 1) && decide (s.linkUp = true) && decide
        (s.sec.reading = []) && decide (∀ x ∈ s.coh.txs, Purpose.image 3 ∉ x.wants)) := by decide +kernel

theorem witness_BudgetExchange :
    (([(run0, 7)] : List (State × Die)).all fun (s, d) =>
      decide (s.dev.isSome = true) && decide (s.recovering d = false)) ∧
    (([(State.reset, 7), (at_ [(fFltStatus_dies_recovering, 128)] run0, 7)] : List (State × Die)).all fun (s, d) =>
      decide (s.dev = none ∨ s.recovering d = true)) ∧
    (([State.reset] : List (State)).all fun s =>
      decide (s.dev = none)) ∧
    (([run0] : List (State)).all fun s =>
      decide (s.dev.isSome = true)) ∧
    (([(run0.setPower { run0.power with onWay := [(7, 55)] }, 7, 55), ((die 7 { missed := true }).setPower
      { (die 7 { missed := true }).power with onWay := [(7, 55)] }, 7, 55)] : List (State × Die × Nat)).all fun (s, d, w) =>
      decide (s.power.onWay = [(d.val, w)])) ∧
    (([(run0, 7)] : List (State × Die)).all fun (s, d) =>
      decide (∀ e ∈ s.power.onWay, e.1 ≠ d.val)) ∧
    (([run0] : List (State)).all fun s =>
      decide (((List.range 8).all fun d => !s.lacksGrant d) = true)) ∧
    (([(run0.setPower { exchanged := true, dies := ((List.range 7).map fun d => (d, { grant := some 9 })) }, 7)] : List (State × Nat)).all
      fun (s, d) =>
      decide (d < 8) && decide (((List.range 8).all fun e => s.lacksGrant e == (e == d)) = true)) ∧
    (([(run0, 7)] : List (State × Die)).all fun (s, d) =>
      decide (s.mustCrawl d = false)) ∧
    (([(State.reset, 7), (die 7 { relock := true }, 7)] : List (State × Die)).all fun (s, d) =>
      decide (s.mustCrawl d = true)) := by decide +kernel

theorem witness_ForcedLowAndThermal :
    (([run0] : List (State)).all fun s =>
      decide (s.power.forcedBy = 0)) ∧
    (([run0] : List (State)).all fun s =>
      decide (s.power.forcedBy = 0) && decide (s.power.sec.brakeEnable = true)) ∧
    (([{ run0 with power := { sec := { brakeEnable := false } } }] : List (State)).all fun s =>
      decide (s.power.forcedBy = 0) && decide (s.power.sec.brakeEnable = false) && decide (s.get fPwrStatus_vr_alert = 0)) ∧
    (([at_ [(fPwrStatus_vr_alert, 1)] { run0 with power := { forcedBy := 6 } }] : List (State)).all fun s =>
      decide (s.power.forcedBy ≠ 0) && decide (s.power.releasedAt = none) && decide (s.get fPwrStatus_brake = 0)) ∧
    (([at_ [(fPwrStatus_brake, 1)] { run0 with power := { forcedBy := 6 } }] : List (State)).all fun s =>
      decide (s.power.forcedBy ≠ 0) && decide (s.power.releasedAt = none) && decide (s.get fPwrStatus_vr_alert = 0)) ∧
    (([run0] : List (State)).all fun s =>
      decide (s.power.forcedBy = 0) && decide (s.get fPwrStatus_brake = 0) && decide (s.get fPwrStatus_vr_alert = 0)) ∧
    (([(run0, 7, report 46000), (at_ [(fPwrStatus_input_mv, 45999)] run0, 7, report 60000)] : List (State × Die × RegReport)).all fun (s, d,
      r) =>
      decide (46000 ≤ r.inputMv) && decide (r.inputMv ≤ 60000) && decide ((s.powerDie d).sensorsOut = []) && decide (s.awl.running = [])) ∧
    (([(at_ [(fPwrStatus_input_mv, 46000)] run0, report 45999)] : List (State × RegReport)).all fun (s, r) =>
      decide (r.inputMv < 46000) && decide (46000 ≤ s.get fPwrStatus_input_mv) && decide (s.get fPwrStatus_input_mv ≤ 60000) && decide
        (s.get fFltEvHead_count = s.get fFltEvTail_count) && decide (s.awl.running = [])) ∧
    (([(die 7 { hotJ := 100 }, 7), (at_ [(fPwrDieB_ceiling 7, 36)] (die 7 { hotJ := 100 }), 7)] : List (State × Die)).all fun (s, d) =>
      let x := s.powerDie d
      decide (s.power.sec.junctionSoft ≤ x.hotJ)) ∧
    (([(at_ [(fPwrDieB_ceiling 7, 36)] run0, 7)] : List (State × Die)).all fun (s, d) =>
      let x := s.powerDie d
      decide (x.held = 0) && decide (x.hotJ < s.power.sec.junctionSoft) && decide (x.hotD < s.power.sec.dramSoft) && decide (x.peakA ≤
        s.power.sec.coreLimitA) && decide (s.get (fPwrDieB_ceiling d) ≤ 36) && decide (s.power.sec.maxState < s.get (fPwrDieB_ceiling d))) := by decide +kernel

theorem witness_AwlSlicesAndRepairs :
    (([(run0, 7, 6)] : List (State × Die × (Fin 7))).all fun (s, d, k) =>
      decide (s.sliceOn d k = none)) ∧
    (([(1, .failLane)] : List ((Fin 7) × SliceResult)).all fun (k, r) =>
      decide (resultFits k r = false)) ∧
    (([(slice0 7 1 5, 7, 1), (slice0 7 3 7, 7, 3), (slice0 7 1 5 [(fPwrDieA_trim_mv 7, 59)], 7, 1), (slice0 7 1 5 [(fPwrDieA_trim_mv 7,
      60)], 7, 1)] : List (State × Die × (Fin 7))).all fun (s, d, k) =>
      match s.awl.running with
      | [run] =>
        decide (run.die = d.val) && decide (run.kind = k.val) && decide (k.val ≠ 0) && decide (k.val ≠ 2) && decide (run.unit + 1 ≠
          population d k)
      | _ => false) ∧
    (([(slice0 0 0 5 [(fTileState_state 0 (tileSite (sliceTile 0 5)), 6)], 0)] : List (State × Die)).all fun (s, d) =>
      match s.awl.running with
      | [run] =>
        decide (run.die = d.val) && decide (run.kind = 0) &&
        let t := sliceTile d run.unit
        decide (tileDie t = d.val) && decide (run.unit + 1 ≠ 4352) && decide (s.get (fTileState_state d (tileSite t)) = 6)
      | _ => false) ∧
    (([(slice0 7 6 0, 7)] : List (State × Die)).all fun (s, d) =>
      match s.awl.running with
      | [run] =>
        decide (run.die = d.val) && decide (run.kind = 6)
      | _ => false) ∧
    (([(slice0 7 6 0, 7)] : List (State × Die)).all fun (s, d) =>
      match s.awl.running with
      | [run] =>
        decide (run.die = d.val) && decide (run.kind = 6)
      | _ => false) ∧
    (([(slice0 7 1 5, 7)] : List (State × Die)).all fun (s, d) =>
      match s.awl.running with
      | [run] =>
        decide (run.die = d.val) && decide (run.kind = 1)
      | _ => false) ∧
    (([(slice0 7 2 5, 7)] : List (State × Die)).all fun (s, d) =>
      match s.awl.running with
      | [run] =>
        decide (run.die = d.val) && decide (run.kind = 2)
      | _ => false) ∧
    (([(slice0 0 0 271, 0)] : List (State × Die)).all fun (s, d) =>
      match s.awl.running with
      | [run] =>
        decide (run.die = d.val) && decide (run.kind = 0) &&
        let t := sliceTile d run.unit
        decide (siteX (tileSite t) = 16)
      | _ => false) ∧
    (([(slice0 0 0 5, 0)] : List (State × Die)).all fun (s, d) =>
      match s.awl.running with
      | [run] =>
        decide (run.die = d.val) && decide (run.kind = 0) &&
        let t := sliceTile d run.unit
        decide (siteX (tileSite t) < 16) && decide (s.spareFree d (siteY (tileSite t)) = true)
      | _ => false) ∧
    (([(slice0 7 4 1, 7, 4), (slice0 7 5 1, 7, 5)] : List (State × Die × (Fin 7))).all fun (s, d, k) =>
      match s.awl.running with
      | [run] =>
        decide (run.die = d.val) && decide (run.kind = k.val) && decide (4 ≤ k.val) && decide (k.val < 6)
      | _ => false) ∧
    (([({ run0 with awl := { pendingFlash := [(7, ⟨1, 5, 0, 7⟩), (6, ⟨1, 5, 0, 7⟩)] }, sec := { flash := { soft := List.replicate 62 (7, ⟨1, 5, 0, 7⟩) } } },
      7)] : List (State × Die)).all fun (s, d) =>
      decide (s.awl.pendingFlash.length + (s.flashRecords d).length ≤ 64)) ∧
    (([({ run0 with awl := { pendingFlash := [(7, ⟨1, 5, 0, 7⟩)] }, sec := { flash := { soft := List.replicate 64 (7, ⟨1, 6, 0, 7⟩) } } },
      7, ⟨1, 5, 0, 7⟩)] : List (State × Die × SoftRepair)).all fun (s, d, r) =>
      decide (s.awl.pendingFlash = [(d.val, r)]) && decide (64 ≤ (s.flashRecords d).length)) ∧
    (([(at_ [(fAwlFuse_busy 7, 1)] run0, 7)] : List (State × Die)).all fun (s, d) =>
      decide (s.get (fAwlFuse_busy d) = 1)) ∧
    (([(fused { lc := 1 }, 7), (fused { lc := 3 }, 7)] : List (State × Die)).all fun (s, d) =>
      decide (s.get (fAwlFuse_busy d) = 0) && decide (s.sec.fuses.lc = 1 ∨ s.sec.fuses.lc = 3)) ∧
    (([(fused { lc := 2 }, 7), (run0, 7)] : List (State × Die)).all fun (s, d) =>
      decide (s.get (fAwlFuse_busy d) = 0) && decide (s.sec.fuses.lc ≠ 1) && decide (s.sec.fuses.lc ≠ 3)) ∧
    (([({ fused { lc := 1 } [(fAwlFuse_busy 7, 1)] with awl := { active := [(7, ⟨1, 5, 0, 7⟩)] } }, 7)] : List (State × Die)).all fun (s, d)
      =>
      decide (s.get (fAwlFuse_busy d) = 1)) ∧
    (([(run0, 7)] : List (State × Die)).all fun (s, d) =>
      decide (s.get (fAwlFuse_busy d) = 0)) := by decide +kernel

theorem witness_LifeCommands :
    (([at_ [(fSecCmdStatus_busy, 1)] run0] : List (State)).all fun s =>
      decide (s.get fSecCmdStatus_busy = 1)) ∧
    (([run0] : List (State)).all fun s =>
      decide (s.linkUp = true)) ∧
    (([withDir [ent .h 1]] : List (State)).all fun s =>
      let a := 64 * s.get fSecCmdAddr_addr
      decide (s.get fSecCmdStatus_busy = 0) && decide (s.get fSecCmdCtrl_host = 0) && decide (s.canRead a 1280 = true) && decide
        (s.heldLines a 1280 ≠ []) && decide (s.mesh.unreachable = []) && decide (∀ e ∈ s.heldLines a 1280, lineOf e.bulk e.line = e.line)) ∧
    (([((fused { lc := 2 } [(fSecCmdCtrl_host, 1)]), command 4 1)] : List (State × (List Byte))).all fun (s, img) =>
      decide (s.get fSecCmdStatus_busy = 0) && decide (s.get fSecCmdCtrl_host = 1) && decide (img.length = 1280) && decide (s.linkUp = true)
        && decide (∀ x ∈ s.coh.txs, .image 1 ∉ x.wants)) ∧
    (([run0] : List (State)).all fun s =>
      decide (s.get fSecCmdStatus_busy = 0) && decide (s.coh.dir = []) && decide (∀ x ∈ s.coh.txs, .image 1 ∉ x.wants)) ∧
    (([(fused { lc := 0 }, command 5 1), (fused { lc := 4 }, command 3 0), (fused { lc := 2 }, command 1 0), (fused { lc := 3 }, command 2
      0)] : List (State × (List Byte))).all fun (s, img) =>
      let code := field img 6 1
      decide (1 ≤ code) && decide (code ≤ 5) && decide (s.sec.fuses.lc = 0 ∨ s.sec.fuses.lc = 4 ∨ (code = 1 ∧ s.sec.fuses.lc ≠ 1) ∨ (code =
        2 ∧ s.sec.fuses.lc ≠ 2))) ∧
    (([[], List.replicate 1280 9] : List ((List Byte))).all fun img =>
      decide (field img 0 4 ≠ 0x4359434C)) ∧
    (([(fused { lc := 2, lastSteps := 1 }, command 4 1), (fused { lc := 2 }, command 4 33), (fused { lc := 2 }, command 4 32 1), (fused
      { lc := 2 }, command 5 1)] : List (State × (List Byte))).all fun (s, img) =>
      decide (field img 6 1 ≠ 4 ∨ field img 0x18 1 ≤ s.sec.fuses.lastSteps ∨ 32 < field img 0x18 1 ∨ field img 0x10 8 ≠ s.get
        fSecChal_challenge ∨ field img 8 8 ≠ serial)) ∧
    (([command 4 32, command 5 32] : List ((List Byte))).all fun img =>
      decide (field img 6 1 = 4 ∨ field img 6 1 = 5)) ∧
    (([command 1 0, command 2 0, command 3 0] : List ((List Byte))).all fun img =>
      decide (field img 6 1 = 1 ∨ field img 6 1 = 2 ∨ field img 6 1 = 3)) ∧
    (([{ run0 with sec := { floorBurn := some (0, 32) } }, { run0 with sec := { floorBurn := some (1, 32) } }] : List (State)).all fun s =>
      match s.sec.floorBurn with
      | some (_, _) =>
        true
      | _ => false) ∧
    (([run0] : List (State)).all fun s =>
      decide (s.sec.floorBurn = none)) ∧
    (([{ run0 with sec := { transition := some 2, newOwner := [1] } }, { run0 with sec := { transition := some 4 } }] : List (State)).all
      fun s =>
      match s.sec.transition with
      | some _ =>
        decide (s.get fFltStatus_device_recovering = 0)
      | _ => false) ∧
    (([run0, at_ [(fFltStatus_device_recovering, 1)] { run0 with sec := { transition := some 4 } }] : List (State)).all fun s =>
      decide (s.sec.transition = none ∨ s.get fFltStatus_device_recovering = 1)) := by decide +kernel

theorem witness_FirmwareAndTap :
    (([at_ [(fSecFw_busy, 1)] run0] : List (State)).all fun s =>
      decide (s.get fSecFw_busy = 1)) ∧
    (([{ run0 with sec := { transition := some 3 } }] : List (State)).all fun s =>
      decide (s.get fSecFw_busy = 0) && decide (s.sec.transition.isSome = true)) ∧
    (([at_ [(fSecFwLen_len, 8388609)] run0] : List (State)).all fun s =>
      decide (s.get fSecFw_busy = 0) && decide (s.sec.transition = none) && decide (8388608 < s.get fSecFwLen_len)) ∧
    (([at_ [(fSecFwLen_len, 8388608)] run0] : List (State)).all fun s =>
      decide (s.get fSecFw_busy = 0) && decide (s.sec.transition = none) && decide (s.get fSecFwLen_len ≤ 8388608) && decide (s.coh.dir =
        []) && decide (∀ x ∈ s.coh.txs, .image 2 ∉ x.wants)) ∧
    (([(at_ [(fSecFwLen_len, 64), (fSecFwCtrl_host, 1)] run0, List.replicate 64 1)] : List (State × (List Byte))).all fun (s, img) =>
      decide (s.get fSecFw_busy = 0) && decide (s.sec.transition = none) && decide (s.get fSecFwLen_len ≤ 8388608) && decide (s.get
        fSecFwCtrl_host = 1) && decide (img.length = s.get fSecFwLen_len) && decide (s.linkUp = true) && decide (∀ x ∈ s.coh.txs, .image 2 ∉
        x.wants)) ∧
    (([15] : List (Nat)).all fun c =>
      decide (c < 16)) ∧
    (([List.replicate 1279 0] : List ((List Byte))).all fun img =>
      decide (img.length < 1280)) ∧
    (([(fused { lc := 2, fwSteps := 1 }, List.replicate 1280 0), (run0, [])] : List (State × (List Byte))).all fun (s, img) =>
      decide (field img 0x10 8 < s.sec.fuses.fwSteps ∨ s.sec.fuses.lc = 0 ∨ field img 12 4 ≠ img.length)) ∧
    (([{ run0 with sec := { fwImage := some ⟨true, 3, [1]⟩ } }] : List (State)).all fun s =>
      match s.sec.fwImage with
      | some _ =>
        true
      | _ => false) ∧
    (([{ run0 with sec := { fwImage := some ⟨true, 3, [1]⟩ } }, at_ [(fSecFw_bank, 1)]
      { run0 with sec := { fwImage := some ⟨true, 3, [1]⟩ } }] : List (State)).all fun s =>
      match s.sec.fwImage with
      | some _ =>
        true
      | _ => false) ∧
    (([run0] : List (State)).all fun s =>
      decide (s.sec.fwImage = none)) ∧
    (([fused { lc := 1 }, fused { lc := 4 }] : List (State)).all fun s =>
      decide (s.sec.tapReset = false)) ∧
    (([{ run0 with sec := { tapReset := true } }] : List (State)).all fun s =>
      decide (s.sec.tapReset = true)) := by decide +kernel

theorem witness_PowerPins :
    (([run0] : List (State)).all fun s =>
      decide (s.sec.transition ≠ some 2)) ∧
    (([at_ [(fDevPins_thermtrip_driven, 1)] run0] : List (State)).all fun s =>
      decide (s.get fDevPins_thermtrip_driven = 1)) ∧
    (([run0] : List (State)).all fun s =>
      decide (s.get fDevPins_thermtrip_driven = 0)) ∧
    (([run0, { State.reset with pins := { latchedOff := true } }] : List (State)).all fun s =>
      decide (s.pins.powered = true ∨ s.pins.latchedOff = true)) ∧
    (([State.reset, { State.reset with sec := { fuses := { lc := 4, repairs := [(0, ⟨1, 5, 0, 7⟩)] } } }] : List (State)).all fun s =>
      decide (s.pins.powered = false) && decide (s.pins.latchedOff = false)) ∧
    (([{ State.reset with sec := { fuses := { lc := 4 } }, pins := { brakeLow := true } }] : List (State)).all fun s =>
      decide (s.pins.powered = false) && decide (s.pins.latchedOff = false) && decide (s.sec.fuses.repairs = []) && decide (s.sec.fuses.lc ≠
        0)) := by decide +kernel

theorem witness_StartUp :
    (([stage 0] : List (State)).all fun s =>
      decide (s.atStage 1 = true)) ∧
    (([(stage 1, true, false), ({ stage 1 with sec := { flash := { preferB := true } } }, false, true)] : List (State × Bool × Bool)).all
      fun (s, a, b) =>
      decide (s.atStage 2 = true) && decide ((if s.sec.flash.preferB then b else a) = true)) ∧
    (([(stage 1, false, true)] : List (State × Bool × Bool)).all fun (s, a, b) =>
      decide (s.atStage 2 = true) && decide ((if s.sec.flash.preferB then b else a) = false) && decide ((if s.sec.flash.preferB then a else
        b) = true)) ∧
    (([stage 1] : List (State)).all fun s =>
      decide (s.atStage 2 = true)) ∧
    (([stage 3] : List (State)).all fun s =>
      decide (s.atStage 4 = true) && decide (s.sec.flash.soft = [])) ∧
    (([stage 4, { stage 4 with sec := { fuses := { lc := 4 }, flash := { repairList := [(0, 0)] } } }] : List (State)).all fun s =>
      decide (s.atStage 5 = true) && decide (s.sec.fuses.lc = 4 ∨ s.sec.flash.repairList = [])) ∧
    (([({ stage 4 with sec := { flash := { spareRows := [(candidateBank (5, 9), 2)] } } }, (5, 9))] : List (State × (Nat × Nat))).all fun
      (s, e) =>
      decide (s.sparesLeft (candidateBank e) = 0)) ∧
    (([({ stage 4 with sec := { flash := { repairList := [(5, 9)], spareRows := [(candidateBank (5, 9), 1)] } } }, (5, 9))] : List (State ×
      (Nat × Nat))).all fun (s, e) =>
      decide (s.sparesLeft (candidateBank e) ≠ 0)) ∧
    (([stage 6] : List (State)).all fun s =>
      decide (s.atStage 7 = true)) := by decide +kernel

theorem witness_EventRecords :
    (([at_ [(fFltEvHead_count, 0xFFFFFFFF), (fFltEvTail_count, 0xFFFFE000)] run0, vec 0 3 { masked := false }] : List (State)).all fun s =>
      let used := (s.get fFltEvHead_count + 2 ^ 32 - s.get fFltEvTail_count) % 2 ^ 32
      decide (used ≠ 8192)) ∧
    (([at_ [(fFltEvHead_count, 8192)] run0] : List (State)).all fun s =>
      decide ((s.get fFltEvHead_count + 2 ^ 32 - s.get fFltEvTail_count) % 2 ^ 32 = 8192)) ∧
    (([at_ [(fFltRecHead_count, 1023)] run0, run0] : List (State)).all fun s =>
      let used := (s.get fFltRecHead_count + 2 ^ 32 - s.get fFltRecTail_count) % 2 ^ 32
      decide (used ≠ 1024)) ∧
    (([at_ [(fFltRecHead_count, 1024)] run0] : List (State)).all fun s =>
      decide ((s.get fFltRecHead_count + 2 ^ 32 - s.get fFltRecTail_count) % 2 ^ 32 = 1024)) := by decide +kernel

theorem witness_ResetValues :
    (([7] : List (Nat)).all fun d =>
      decide (d < 8)) ∧
    (([0] : List (Nat)).all fun k =>
      decide (k ≠ fStchPeriod_period_us.key) && decide (k ≠ fStchSlack_slack_permille.key) && decide (k ≠ fPwrCapSet_cap_w.key) && decide (k
        ≠ fPwrFloorSet_floor_w.key) && decide (k ≠ fPwrBudget_credit_mj.key) && decide (((List.range 8).all fun d => k != (fPwrDieA_state
        d).key) = true)) := by decide +kernel

theorem witness_NumberFormats :
    (([(1, ⟨11, 52, 1023, 0x7FEFFFFFFFFFFFFF, true, some 0x7FF8000000000000⟩, 0, 4, 2), (1, ⟨11, 52, 1023, 0x7FEFFFFFFFFFFFFF, true, some
      0x7FF8000000000000⟩, 1, 0, 2), (1, ⟨11, 52, 1023, 0x7FEFFFFFFFFFFFFF, true, some 0x7FF8000000000000⟩, 63, 3, 2), (1, ⟨11, 52, 1023,
      0x7FEFFFFFFFFFFFFF, true, some 0x7FF8000000000000⟩, 31, 1, 2), (4, ⟨5, 10, 15, 0x7BFF, true, some 0x7E00⟩, 0, 4, 2), (4, ⟨5, 10, 15,
      0x7BFF, true, some 0x7E00⟩, 1, 0, 2), (4, ⟨5, 10, 15, 0x7BFF, true, some 0x7E00⟩, 63, 3, 2), (4, ⟨5, 10, 15, 0x7BFF, true, some
      0x7E00⟩, 31, 1, 2), (16, ⟨4, 3, 7, 0x7E, false, some 0x7F⟩, 0, 4, 2), (16, ⟨4, 3, 7, 0x7E, false, some 0x7F⟩, 1, 0, 2), (16, ⟨4, 3, 7,
      0x7E, false, some 0x7F⟩, 63, 3, 2), (16, ⟨4, 3, 7, 0x7E, false, some 0x7F⟩, 31, 1, 2), (18, ⟨3, 2, 3, 0x1F, false, none⟩, 0, 4, 2),
      (18, ⟨3, 2, 3, 0x1F, false, none⟩, 1, 0, 2), (18, ⟨3, 2, 3, 0x1F, false, none⟩, 63, 3, 2), (18, ⟨3, 2, 3, 0x1F, false, none⟩, 31, 1,
      2), (17, ⟨5, 2, 15, 0x7B, true, some 0x7E⟩, 0, 4, 2), (17, ⟨5, 2, 15, 0x7B, true, some 0x7E⟩, 1, 0, 2), (17, ⟨5, 2, 15, 0x7B, true,
      some 0x7E⟩, 63, 3, 2), (17, ⟨5, 2, 15, 0x7B, true, some 0x7E⟩, 31, 1, 2)] : List (Nat × FpFmt × Nat × Nat × Nat)).all fun (k, f, c,
      mode, sat) =>
      decide (fmtOf k = some (.binary f) ∨ fmtOf k = some (.mx f)) && decide (c < 2 ^ (1 + f.ebits + f.mbits)) && decide (mode < 5) &&
        decide (sat < 3)) ∧
    (([(0x14, 15, 4, 0, 254)] : List (Nat × Nat × Nat × Nat × Nat)).all fun (k, c, mode, sat, scale) =>
      match fmtOf k with
      | some (.mx f) =>
        decide (c < 2 ^ (1 + f.ebits + f.mbits)) && decide (mode < 5) && decide (sat < 3) && decide (scale < 255) && decide ((f.read
          c).isNan = false)
      | _ => false) ∧
    (([(0x81, 3, 0), (0, 3, 0)] : List (Nat × Nat × Nat)).all fun (c, mode, scale) =>
      decide (c < 256) && decide (c ≠ 0x80) && decide (mode < 5) && decide (scale < 255)) ∧
    (([.zl 16 8] : List (Fmt)).all fun f =>
      decide (f.scaled = true)) ∧
    (([0, 255, 1] : List (Nat)).all fun c =>
      decide (c < 256)) ∧
    (([(2047, 2 ^ 48 - 1), (-2048, 0), (-2048, 1), (0, 2 ^ 47)] : List (Int × Nat)).all fun (x, sig) =>
      decide (-2048 ≤ x) && decide (x ≤ 2047) && decide (sig < 2 ^ 48) && decide (2 ^ 47 ≤ sig ∨ x = -2048)) := by decide +kernel

end Sys2Proof.Tests
end

/-! SUPPORT. Commits (R54, R58, R60): what each register write of a commit and the end of its check do, and the statement O5. -/

namespace Sys2Proof.Machine

/-! ## Commits through registers -/

theorem exec_cfgCommit (v : Word) (s : State) : exec (.cfgCommit v) s = .next (s.cfgCommit v.toNat) := rfl

theorem exec_partCommit {n : Fin 16} {p : Nat} {s : State} (v : Word) (hp : s.partOfFn (n.val + 1) = some p) :
    exec (.partCommit n v) s = .next (s.partCommit p v.toNat) := by
  show execPartCommit n v s = _
  rw [execPartCommit, hp]

@[simp] theorem groupFields_pwr : groupFields 17 = [fPwrCapSet_cap_w, fPwrFloorSet_floor_w] := rfl

@[simp] theorem groupFields_ring (p : Nat) : groupFields (18 + p) = ringFields p := by
  have hne : 18 + p ≠ 17 := by omega
  simp [groupFields, hne]

theorem State.cfgCommit_of_free {s : State} {v : Nat} (hgo : v.testBit 8 = true) (hg : v % 256 = 17)
    (hp : s.commitPending 17 = false) : s.cfgCommit v = s.startCommit 17 := by
  simp [State.cfgCommit, hgo, hg, hp]

theorem State.cfgCommit_of_refused {s : State} {v : Nat} (hgo : v.testBit 8 = true)
    (hr : v % 256 ≠ 17 ∨ s.commitPending 17 = true) : s.cfgCommit v = s.set fCfgStatus_commit_refused 1 := by
  simp [State.cfgCommit, hgo, hr]

theorem State.partCommit_of_free {s : State} {p v : Nat} (hgo : v.testBit 0 = true)
    (hp : s.commitPending (18 + p) = false) : s.partCommit p v = s.startCommit (18 + p) := by
  simp only [State.partCommit, hgo, hp]; rfl

theorem State.partCommit_of_pending {s : State} {p v : Nat} (hgo : v.testBit 0 = true)
    (hp : s.commitPending (18 + p) = true) : s.partCommit p v = s.set (fPartCfgStatus_commit_refused p) 1 := by
  simp only [State.partCommit, hgo, hp]; rfl

/-! ## The code of a check that fails -/

/-- A pick from a list that is not empty is one of its elements. -/
theorem State.pick_mem {α : Type} (s : State) (d : α) {l : List α} (hl : l ≠ []) : (s.pick d l).1 ∈ l := by
  match l, hl with
  | [x], _ => exact List.mem_singleton.2 rfl
  | x :: y :: l, _ =>
    have hlt : s.draw.1 % (x :: y :: l).length < (x :: y :: l).length := Nat.mod_lt _ (by simp)
    show (x :: y :: l).getD _ d ∈ _
    rw [List.getD_eq_getElem _ _ hlt]
    exact List.getElem_mem hlt

theorem State.pwrChecks_ne_zero {s : State} {cap floor code : Nat} (h : code ∈ s.pwrChecks cap floor) : code ≠ 0 := by
  rintro rfl
  simp [State.pwrChecks] at h

theorem State.deviceChecks_ne_zero {s : State} {l : DeviceLast} {code : Nat} (h : code ∈ s.deviceChecks l) : code ≠ 0 := by
  rintro rfl
  simp [State.deviceChecks] at h

theorem State.partChecks_ne_zero {s : State} {l : PartLast} {code : Nat} (h : code ∈ s.partChecks l) : code ≠ 0 := by
  rintro rfl
  simp [State.partChecks] at h

theorem State.lastChecks_ne_zero {s : State} {l : Last} {code : Nat} (h : code ∈ s.lastChecks l) : code ≠ 0 := by
  cases l with
  | device l => exact State.deviceChecks_ne_zero h
  | partition l => exact State.partChecks_ne_zero h

/-! ## The end of a check -/

/-- The state in which the check of the oldest commit is decided: the commit has left the queue `cs` of checks, and the check has
taken `after` ns, 1 µs at most (R58). -/
def State.atCheckEnd (s : State) (cs : List Commit) (after : Nat) : State :=
  { s with cfg := { s.cfg with checks := cs } }.advanceTo (s.clock.now + min 1000 after)

section
variable (s : State) (cs : List Commit) (after : Nat)

@[simp] theorem State.atCheckEnd_cfg : (s.atCheckEnd cs after).cfg = { s.cfg with checks := cs } := rfl
@[simp] theorem State.atCheckEnd_ldr : (s.atCheckEnd cs after).ldr = s.ldr := rfl
@[simp] theorem State.atCheckEnd_regs : (s.atCheckEnd cs after).regs = s.regs := rfl

@[simp] theorem State.atCheckEnd_now : (s.atCheckEnd cs after).clock.now = s.clock.now + min 1000 after :=
  Nat.max_eq_right (Nat.le_add_right _ _)

@[simp] theorem State.atCheckEnd_commitPending (g : Nat) : (s.atCheckEnd cs after).commitPending g = s.commitPending g := rfl

theorem State.atCheckEnd_keeps : Keeps 6 s (s.atCheckEnd cs after) :=
  (State.advanceTo_keeps _ _).after ((Keeps.refl _ _).setCfg (by decide)) (by decide)

end

/-- With no check outstanding nothing happens (log entry 4, a design choice). -/
theorem exec_commitCheckDone_nil {s : State} (after : Nat) (h : s.cfg.checks = []) :
    exec (.commitCheckDone after) s = .next s := by
  show execCommitCheckDone after s = _
  rw [execCommitCheckDone, h]

theorem exec_commitCheckDone_register {s : State} {c : Commit} {cs : List Commit} (after : Nat) (h : s.cfg.checks = c :: cs)
    (hl : c.viaLoader = false) : exec (.commitCheckDone after) s = .next ((s.atCheckEnd cs after).checkGroup c) := by
  show execCommitCheckDone after s = _
  rw [execCommitCheckDone, h]
  simp only [hl]; rfl

theorem exec_commitCheckDone_loader {s : State} {c : Commit} {cs : List Commit} (after : Nat) (h : s.cfg.checks = c :: cs)
    (hl : c.viaLoader = true) : exec (.commitCheckDone after) s = .next ((s.atCheckEnd cs after).checkLast c) := by
  show execCommitCheckDone after s = _
  rw [execCommitCheckDone, h]
  simp only [hl]; rfl

/-- The commit joins the accepted ones, stamped with the time of its acceptance. -/
def State.acceptCommit (s : State) (c : Commit) : State :=
  { s with cfg := { s.cfg with accepted := s.cfg.accepted ++ [{ c with acceptedAt := s.clock.now }] } }

theorem State.acceptCommit_atCheckEnd (s : State) (cs : List Commit) (after : Nat) (c : Commit) :
    (s.atCheckEnd cs after).acceptCommit c =
      { s.atCheckEnd cs after with cfg := { (s.atCheckEnd cs after).cfg with
        accepted := s.cfg.accepted ++ [{ c with acceptedAt := s.clock.now + min 1000 after }] } } := by
  simp [State.acceptCommit]

/-- Three fields written together read as what was written to each. -/
theorem State.get_setAll_three (s : State) {f g h : Fld} (a b c : Nat) (hfg : f.key ≠ g.key) (hfh : f.key ≠ h.key)
    (hgh : g.key ≠ h.key) :
    (s.setAll [(f, a), (g, b), (h, c)]).get f = a % 2 ^ f.width ∧ (s.setAll [(f, a), (g, b), (h, c)]).get g = b % 2 ^ g.width ∧
      (s.setAll [(f, a), (g, b), (h, c)]).get h = c % 2 ^ h.width := by
  simp [State.setAll, State.get_set, hfg, hfh, hgh]

/-! ### A register's commit -/

theorem State.checkGroup_accepts_pwr {s : State} {c : Commit} (hg : c.group = 17) (hp : s.commitPending 17 = false)
    (hc : s.pwrChecks (c.val fPwrCapSet_cap_w) (c.val fPwrFloorSet_floor_w) = []) :
    s.checkGroup c = (s.acceptCommit c).setAll [(fCfgStatus_pending, 1), (fCfgStatus_pending_group, 17)] := by
  simp [State.checkGroup, hg, hp, hc, State.pick, State.acceptCommit]

theorem State.checkGroup_accepts_ring {s : State} {c : Commit} {p : Nat} (hg : c.group = 18 + p)
    (hp : s.commitPending (18 + p) = false) (hc : s.ringChecks p (c.rings p) = []) :
    s.checkGroup c =
      (s.acceptCommit c).setAll [(fPartCfgStatus_pending p, 1), (fPartCfgStatus_pending_group p, 18 + p)] := by
  have hne : 18 + p ≠ 17 := by omega
  simp [State.checkGroup, hg, hp, hc, hne, State.pick, State.acceptCommit]

/-- What CFG_STATUS and vector 1 say of a PWR commit that fails with `code` (R58, R67). -/
def State.disagreePwr (s : State) (code : Nat) : State :=
  (s.setAll [(fCfgStatus_disagree, 1), (fCfgStatus_disagree_group, 17), (fCfgStatus_check, code)]).fire 0 1

/-- A PWR snapshot that fails is answered with one of the codes that fail. -/
theorem State.checkGroup_disagrees_pwr {s : State} {c : Commit} (hg : c.group = 17) (hp : s.commitPending 17 = false)
    (hc : s.pwrChecks (c.val fPwrCapSet_cap_w) (c.val fPwrFloorSet_floor_w) ≠ []) :
    ∃ code ∈ s.pwrChecks (c.val fPwrCapSet_cap_w) (c.val fPwrFloorSet_floor_w), ∃ u, Keeps 16777216 s u ∧
      s.checkGroup c = u.disagreePwr code := by
  have hmem := s.pick_mem 0 hc
  have hkeeps := s.pick_keeps 0 (s.pwrChecks (c.val fPwrCapSet_cap_w) (c.val fPwrFloorSet_floor_w))
  rcases hpick : s.pick 0 (s.pwrChecks (c.val fPwrCapSet_cap_w) (c.val fPwrFloorSet_floor_w)) with ⟨code, u⟩
  rw [hpick] at hmem hkeeps
  refine ⟨code, hmem, u, hkeeps, ?_⟩
  obtain ⟨k, rfl⟩ := Nat.exists_eq_succ_of_ne_zero (State.pwrChecks_ne_zero hmem)
  simp [State.checkGroup, hg, hp, hpick, State.disagreePwr]

theorem State.disagreePwr_keeps (s : State) (code : Nat) : Keeps 4196353 s (s.disagreePwr code) :=
  (State.fire_keeps _ _ _).after ((State.setAll_keeps _ _).mono (by decide)) (by decide)

theorem State.disagreePwr_regsKept (s : State) (code : Nat) :
    RegsKept [fCfgStatus_disagree, fCfgStatus_disagree_group, fCfgStatus_check] s (s.disagreePwr code) :=
  ((RegsKept.refl _ s).setAll _ (by simp)).trans (RegsKept.of_eq (State.fire_regs _ _ _))

theorem State.get_disagreePwr (s : State) (code : Nat) :
    (s.disagreePwr code).get fCfgStatus_disagree = 1 ∧ (s.disagreePwr code).get fCfgStatus_disagree_group = 17 ∧
      (s.disagreePwr code).get fCfgStatus_check = code % 2 ^ fCfgStatus_check.width := by
  have hget := State.get_congr (State.fire_regs
    (s.setAll [(fCfgStatus_disagree, 1), (fCfgStatus_disagree_group, 17), (fCfgStatus_check, code)]) 0 1)
  obtain ⟨hdis, hgroup, hcheck⟩ := s.get_setAll_three (f := fCfgStatus_disagree) (g := fCfgStatus_disagree_group)
    (h := fCfgStatus_check) 1 17 code (by decide) (by decide) (by decide)
  exact ⟨(hget _).trans hdis, (hget _).trans hgroup, (hget _).trans hcheck⟩

/-! ### The loader's commit -/

theorem State.checkLast_accepts {s : State} {c : Commit} {l : Last} (hl : s.ldr.staged = some l) (hc : s.lastChecks l = []) :
    s.checkLast c = s.acceptCommit c := by
  simp [State.checkLast, hl, hc, State.pick, State.acceptCommit]

/-- A last that fails ends its load in REJECTED with error AGREE and one of the codes that fail. -/
theorem State.checkLast_rejects {s : State} (c : Commit) {l : Last} (hl : s.ldr.staged = some l) (hc : s.lastChecks l ≠ []) :
    ∃ code ∈ s.lastChecks l, ∃ u : State, s.checkLast c = u.endLoad 0x0B code := by
  have hmem := s.pick_mem 0 hc
  rcases hpick : s.pick 0 (s.lastChecks l) with ⟨code, u⟩
  rw [hpick] at hmem
  refine ⟨code, hmem, u, ?_⟩
  obtain ⟨k, rfl⟩ := Nat.exists_eq_succ_of_ne_zero (State.lastChecks_ne_zero hmem)
  simp [State.checkLast, hl, hpick]

/-- The event ring's fields lie at 0x200000 and above (R413, R417). -/
theorem eventFields_key_ge {s : State} {f : Fld} (hf : f ∈ eventFields s) : 0x200000 * 64 ≤ f.key := by
  simp only [eventFields, List.mem_cons, List.not_mem_nil, or_false] at hf
  rcases hf with rfl | rfl | rfl | rfl | rfl | rfl | rfl | rfl | rfl | rfl | rfl | rfl | rfl <;>
    exact Nat.mul_le_mul (Nat.le_trans (by decide) (Nat.le_add_right _ _)) (Nat.le_refl 64) |>.trans (Nat.le_add_right _ _)

/-- A field below the fault block's registers reads as before an event. -/
theorem State.get_event_of_lt (s : State) (src code d0 d1 : Nat) (part : Option Nat) {g : Fld} (hg : g.key < 0x200000 * 64) :
    (s.event src code d0 d1 part).get g = s.get g :=
  (State.event_regsKept s src code d0 d1 part).get fun _ hf => (hg.trans_le (eventFields_key_ge hf)).ne

/-- An ended load holds no last, and reports itself in LDR_STATUS, the event ring and vector 0 (R53). -/
theorem State.endLoad_eq (s : State) (error check : Nat) : ∃ u : State, u.ldr.staged = none ∧
    s.endLoad error check = ((u.setAll [(fLdrStatus_state, 7), (fLdrStatus_error, error), (fLdrStatus_check, check)]).event
      0x19 0x1A 7 (error * 256 + check)).fire 0 0 := ⟨_, rfl, rfl⟩

theorem State.get_endLoad (s : State) (error check : Nat) :
    (s.endLoad error check).get fLdrStatus_state = 7 ∧
      (s.endLoad error check).get fLdrStatus_error = error % 2 ^ fLdrStatus_error.width ∧
      (s.endLoad error check).get fLdrStatus_check = check % 2 ^ fLdrStatus_check.width := by
  obtain ⟨u, -, heq⟩ := s.endLoad_eq error check
  obtain ⟨hstate, herror, hcheck⟩ := u.get_setAll_three (f := fLdrStatus_state) (g := fLdrStatus_error)
    (h := fLdrStatus_check) 7 error check (by decide) (by decide) (by decide)
  rw [heq]
  have hget {g : Fld} (hg : g.key < 0x200000 * 64) := (State.get_congr (State.fire_regs _ 0 0) g).trans
    (State.get_event_of_lt (u.setAll [(fLdrStatus_state, 7), (fLdrStatus_error, error), (fLdrStatus_check, check)])
      0x19 0x1A 7 (error * 256 + check) none hg)
  exact ⟨(hget (by decide)).trans hstate, (hget (by decide)).trans herror, (hget (by decide)).trans hcheck⟩

theorem State.endLoad_staged (s : State) (error check : Nat) : (s.endLoad error check).ldr.staged = none := by
  obtain ⟨u, hu, heq⟩ := s.endLoad_eq error check
  rw [heq, (State.fire_keeps _ _ _).ldr (by decide), (State.event_keeps _ _ _ _ _ _).ldr (by decide), State.setAll_ldr, hu]

/-! ## The statement -/

/-- The disagreement of a PWR commit, from the state in which its check ends. -/
theorem exec_commitCheckDone_disagrees_pwr {s : State} {c : Commit} {cs : List Commit} (after : Nat)
    (h : s.cfg.checks = c :: cs) (hl : c.viaLoader = false) (hg : c.group = 17) (hp : s.commitPending 17 = false)
    (hc : (s.atCheckEnd cs after).pwrChecks (c.val fPwrCapSet_cap_w) (c.val fPwrFloorSet_floor_w) ≠ []) :
    ∃ t code, exec (.commitCheckDone after) s = .next t ∧
      code ∈ (s.atCheckEnd cs after).pwrChecks (c.val fPwrCapSet_cap_w) (c.val fPwrFloorSet_floor_w) ∧
      t.cfg = { s.cfg with checks := cs } ∧ t.get fCfgStatus_disagree = 1 ∧ t.get fCfgStatus_disagree_group = 17 ∧
      t.get fCfgStatus_check = code % 2 ^ fCfgStatus_check.width ∧ Within [.regs, .clock, .cfg, .uci, .out, .free] s t ∧
      RegsKept [fCfgStatus_disagree, fCfgStatus_disagree_group, fCfgStatus_check] s t := by
  obtain ⟨code, hmem, u, hu, heq⟩ := State.checkGroup_disagrees_pwr hg (s := s.atCheckEnd cs after) hp hc
  obtain ⟨hdis, hgroup, hcheck⟩ := u.get_disagreePwr code
  have hend : Keeps 20973575 s u := hu.after ((s.atCheckEnd_keeps cs after).mono (by decide)) (by decide)
  have hcfg : (u.disagreePwr code).cfg = { s.cfg with checks := cs } :=
    ((u.disagreePwr_keeps code).cfg (by decide)).trans (hu.cfg (by decide))
  have hregs : u.regs = s.regs := hu.regs (by decide)
  exact ⟨u.disagreePwr code, code, heq ▸ exec_commitCheckDone_register after h hl, hmem, hcfg, hdis, hgroup, hcheck,
    ((u.disagreePwr_keeps code).after hend (by decide)).within, (RegsKept.of_eq hregs).trans (u.disagreePwr_regsKept code)⟩

/-- The rejection of a last that the loader commits, from the state in which its check ends. -/
theorem exec_commitCheckDone_rejects_last {s : State} {c : Commit} {cs : List Commit} {l : Last} (after : Nat)
    (h : s.cfg.checks = c :: cs) (hl : c.viaLoader = true) (hs : s.ldr.staged = some l)
    (hc : (s.atCheckEnd cs after).lastChecks l ≠ []) :
    ∃ t code, exec (.commitCheckDone after) s = .next t ∧ code ∈ (s.atCheckEnd cs after).lastChecks l ∧
      t.get fLdrStatus_state = 7 ∧ t.get fLdrStatus_error = 0x0B ∧
      t.get fLdrStatus_check = code % 2 ^ fLdrStatus_check.width ∧ t.ldr.staged = none := by
  obtain ⟨code, hmem, u, heq⟩ := State.checkLast_rejects (s := s.atCheckEnd cs after) c hs hc
  obtain ⟨hstate, herror, hcheck⟩ := u.get_endLoad 0x0B code
  exact ⟨u.endLoad 0x0B code, code, heq ▸ exec_commitCheckDone_loader after h hl, hmem, hstate, herror, hcheck,
    u.endLoad_staged _ _⟩

/-- Settles O5: each clause is one branch of the register write or of the check's end. -/
theorem commits : Obligations.Commits := by
  unfold Obligations.Commits
  refine ⟨?cfgTaken, ?cfgRefused, ?partTaken, ?partRefused, ?pwrAccepted, ?ringAccepted, ?pwrDisagrees, ?lastAccepted,
    ?lastRejected, fun _ after => exec_commitCheckDone_nil after⟩
  case cfgTaken =>
    intro s v hgo hg hp
    rw [exec_cfgCommit, State.cfgCommit_of_free hgo hg hp]; rfl
  case cfgRefused =>
    intro s v hgo hr
    rw [exec_cfgCommit, State.cfgCommit_of_refused hgo hr]
  case partTaken =>
    intro s n p v hfn hgo hp
    rw [exec_partCommit v hfn, State.partCommit_of_free hgo hp, State.startCommit, groupFields_ring]
  case partRefused =>
    intro s n p v hfn hgo hp
    rw [exec_partCommit v hfn, State.partCommit_of_pending hgo hp]
  case pwrAccepted =>
    rintro s _ after c cs h hl hg rfl hp hc
    rw [exec_commitCheckDone_register after h hl, State.checkGroup_accepts_pwr hg (s := s.atCheckEnd cs after) hp hc,
      State.acceptCommit_atCheckEnd]
    rfl
  case ringAccepted =>
    rintro s _ after p c cs h hl - hg rfl hp hc
    rw [exec_commitCheckDone_register after h hl, State.checkGroup_accepts_ring hg (s := s.atCheckEnd cs after) hp hc,
      State.acceptCommit_atCheckEnd]
    rfl
  case pwrDisagrees =>
    rintro s _ after c cs h hl hg rfl hp hc
    exact exec_commitCheckDone_disagrees_pwr after h hl hg hp hc
  case lastAccepted =>
    rintro s _ after c cs l h hl hs rfl hc
    rw [exec_commitCheckDone_loader after h hl, State.checkLast_accepts (s := s.atCheckEnd cs after) hs hc,
      State.acceptCommit_atCheckEnd]
    rfl
  case lastRejected =>
    rintro s _ after c cs l h hl hs rfl hc
    exact exec_commitCheckDone_rejects_last after h hl hs hc

end Sys2Proof.Machine

/-! SUPPORT. Splitting K (R102): the images that an accumulator can hold, their round trip through a raw store, and the statement O55. -/

namespace Sys2Proof.Machine

/-! ## Reading a finite image (R104) -/

theorem toSigned_lt (w : Nat) (x : Int) : toSigned w x < 2 ^ w := by
  have hw : 0 < 2 ^ w := Nat.two_pow_pos w
  unfold toSigned
  omega

theorem signedAt_toSigned {x : Int} (hlo : -2048 ≤ x) (hhi : x ≤ 2047) : signedAt 12 (toSigned 12 x) = x := by
  have hmod : toSigned 12 x % 2 ^ 12 = (x % 4096).toNat := Nat.mod_eq_of_lt (toSigned_lt 12 x)
  rw [signedAt, hmod]
  split <;> omega

theorem rawRead_rawFin (neg : Bool) {x : Int} {sig : Nat} (hlo : -2048 ≤ x) (hhi : x ≤ 2047) (hsig : sig < 2 ^ 48) :
    rawRead (rawFin neg x sig) = .fin neg sig (if sig = 0 then 0 else x - 47) := by
  have hexp := toSigned_lt 12 x
  have hneg : (rawFin neg x sig).testBit 63 = neg := by
    cases neg <;> simp [rawFin, Nat.testBit_eq_decide_div_mod_eq] <;> omega
  have hcls : bitsAt (rawFin neg x sig) 60 2 = 0 := by
    cases neg <;> simp [rawFin, bitsAt, Nat.shiftRight_eq_div_pow] <;> omega
  have hread : bitsAt (rawFin neg x sig) 0 48 = sig := by
    cases neg <;> simp [rawFin, bitsAt] <;> omega
  have hfield : bitsAt (rawFin neg x sig) 48 12 = toSigned 12 x := by
    cases neg <;> simp [rawFin, bitsAt, Nat.shiftRight_eq_div_pow] <;> omega
  simp only [rawRead, hneg, hcls, hread, hfield, signedAt_toSigned hlo hhi, if_true]

/-! ## Rounding to an image (R153) -/

/-- Truncation, which rounding to odd builds on. -/
theorem roundAt_one_fst (neg : Bool) (m : Nat) (e q : Int) :
    (roundAt 1 neg m e q).1 = if q ≤ e then m * 2 ^ (e - q).toNat else m / 2 ^ (q - e).toNat := by
  unfold roundAt
  split <;> simp [roundsUp]

theorem roundAt_one_lt {m : Nat} {e q : Int} (neg : Bool) (h : floorLog m e ≤ q + 47) : (roundAt 1 neg m e q).1 < 2 ^ 48 := by
  have hm : m < 2 ^ (Nat.log2 m + 1) := Nat.lt_log2_self
  unfold floorLog at h
  rw [roundAt_one_fst]
  split
  case isTrue hq =>
    calc m * 2 ^ (e - q).toNat < 2 ^ (Nat.log2 m + 1) * 2 ^ (e - q).toNat := by gcongr
      _ = 2 ^ (Nat.log2 m + 1 + (e - q).toNat) := (pow_add ..).symm
      _ ≤ 2 ^ 48 := Nat.pow_le_pow_right (by decide) (by omega)
  case isFalse hq =>
    rw [Nat.div_lt_iff_lt_mul (Nat.two_pow_pos _), ← pow_add]
    exact hm.trans_le (Nat.pow_le_pow_right (by decide) (by omega))

theorem le_roundAt_one {m : Nat} {e q : Int} (neg : Bool) (hm : m ≠ 0) (h : floorLog m e = q + 47) :
    2 ^ 47 ≤ (roundAt 1 neg m e q).1 := by
  have hlog : 2 ^ Nat.log2 m ≤ m := Nat.log2_self_le hm
  unfold floorLog at h
  rw [roundAt_one_fst]
  split
  case isTrue hq =>
    calc 2 ^ 47 = 2 ^ (Nat.log2 m + (e - q).toNat) := by congr 1; omega
      _ = 2 ^ Nat.log2 m * 2 ^ (e - q).toNat := pow_add ..
      _ ≤ m * 2 ^ (e - q).toNat := by gcongr
  case isFalse hq =>
    rw [Nat.le_div_iff_mul_le (Nat.two_pow_pos _), ← pow_add]
    exact (Nat.pow_le_pow_right (by decide) (by omega)).trans hlog

/-- An image in range is its own rounding: nothing is shifted out. -/
theorem roundOdd48_of_normal (neg : Bool) {x : Int} {sig : Nat} (hlo : -2048 ≤ x) (hhi : x ≤ 2047) (hsig : sig < 2 ^ 48)
    (hnorm : 2 ^ 47 ≤ sig ∨ x = -2048) (hne : sig ≠ 0) : roundOdd48 neg sig (x - 47) false = rawFin neg x sig := by
  have hlt : Nat.log2 sig < 48 := (Nat.log2_lt hne).2 hsig
  have hge : 47 ≤ Nat.log2 sig ∨ x = -2048 := hnorm.imp_left (Nat.le_log2 hne).2
  have hin : ¬ 2047 < floorLog sig (x - 47) := by unfold floorLog; omega
  have hexp : max (floorLog sig (x - 47)) (-2048) = x := by unfold floorLog; omega
  simp [roundOdd48, hin, hexp, roundAt]

/-! ## The images that an accumulator can hold (R151) -/

/-- The images that the device writes: the one NaN, the infinities, and the numbers in range with a normalised significand
(at the lowest exponent any significand stands). -/
inductive RawImage : Nat → Prop
  | nan : RawImage rawNan
  | inf (neg : Bool) : RawImage (rawInf neg)
  | fin (neg : Bool) (x : Int) (sig : Nat) (hlo : -2048 ≤ x) (hhi : x ≤ 2047) (hsig : sig < 2 ^ 48)
      (hnorm : 2 ^ 47 ≤ sig ∨ x = -2048) : RawImage (rawFin neg x sig)

theorem rawZero_rawImage (neg : Bool) : RawImage (rawZero neg) :=
  .fin neg (-2048) 0 (by decide) (by decide) (by decide) (.inr rfl)

theorem roundOdd48_rawImage (neg : Bool) {m : Nat} (hm : m ≠ 0) (e : Int) (sticky : Bool) :
    RawImage (roundOdd48 neg m e sticky) := by
  unfold roundOdd48
  extract_lets log x
  split
  case isTrue => exact .fin neg 2047 (2 ^ 48 - 1) (by decide) (by decide) (by decide) (.inl (by decide))
  case isFalse hover =>
    have hx : x = max (floorLog m e) (-2048) := rfl
    clear_value x
    have hlt := roundAt_one_lt (m := m) (e := e) (q := x - 47) neg (by omega)
    have hge : 2 ^ 47 ≤ (roundAt 1 neg m e (x - 47)).1 ∨ x = -2048 := by
      by_cases hlow : x = -2048
      · exact .inr hlow
      · exact .inl (le_roundAt_one neg hm (by omega))
    generalize roundAt 1 neg m e (x - 47) = rounded at hlt hge ⊢
    obtain ⟨sig, lost⟩ := rounded
    refine .fin neg x (if lost || sticky then sig ||| 1 else sig) (by omega) (by omega) ?_ (hge.imp_left fun h => ?_)
    · split
      · exact Nat.or_lt_two_pow hlt (by decide)
      · exact hlt
    · split
      · exact h.trans Nat.left_le_or
      · exact h

theorem rawOf_rawImage (v : Val) : RawImage (rawOf v) := by
  cases v with
  | nan => exact .nan
  | inf neg => exact .inf neg
  | fin neg m e =>
    simp only [rawOf]
    split
    case isTrue => exact rawZero_rawImage neg
    case isFalse hm => exact roundOdd48_rawImage neg hm e false

/-- A group leaves an image that the device writes, whatever the products are. -/
theorem accumulate_rawImage {acc : Nat} (h : RawImage acc) (ps : List (Option Val)) : RawImage (accumulate acc ps).1 := by
  unfold accumulate
  extract_lets a vs bad infs clash
  clear_value a bad infs clash
  split
  case isTrue => exact .nan
  split
  case isTrue => exact .nan
  cases infs with
  | cons n _ => exact .inf n
  | nil =>
    cases a with
    | nan => exact h
    | inf => exact h
    | fin n m e =>
      obtain ⟨w, q, sticky⟩ := groupSum (finites vs)
      dsimp -zeta only
      extract_lets base t
      split
      case isTrue => exact rawZero_rawImage _
      case isFalse ht => exact roundOdd48_rawImage _ (Int.natAbs_ne_zero.2 ht) _ _

/-! ## The round trip through a raw store (R104, R152) -/

namespace RawImage

theorem lt {img : Nat} (h : RawImage img) : img < 2 ^ 64 := by
  cases h with
  | nan => decide
  | inf neg => cases neg <;> decide
  | fin neg x sig _ _ hsig _ =>
    have hexp := toSigned_lt 12 x
    unfold rawFin
    split <;> omega

theorem rawOf_rawRead {img : Nat} (h : RawImage img) : rawOf (rawRead img) = img := by
  cases h with
  | nan => decide
  | inf neg => cases neg <;> decide
  | fin neg x sig hlo hhi hsig hnorm =>
    rw [rawRead_rawFin neg hlo hhi hsig]
    by_cases hz : sig = 0
    · have hx : x = -2048 := by omega
      subst hz hx
      rfl
    · simp only [rawOf, hz, if_false, roundOdd48_of_normal neg hlo hhi hsig hnorm hz]

/-- No image that the device writes is of class 3. -/
theorem rawRead_ne_signalling {img : Nat} (h : RawImage img) : rawRead img ≠ .nan true := by
  cases h with
  | nan => decide
  | inf neg => cases neg <;> decide
  | fin neg x sig hlo hhi hsig _ => simp [rawRead_rawFin neg hlo hhi hsig]

end RawImage

theorem leNat_toLE (n x : Nat) : leNat (toLE n x) = x % 2 ^ (8 * n) := by
  induction n generalizing x with
  | zero => simp [toLE, leNat, Nat.mod_one]
  | succ n ih =>
    rw [toLE, leNat, ih, BitVec.toNat_ofNat, Nat.mul_succ, pow_add, mul_comm (2 ^ (8 * n)), Nat.mod_mul]
    rfl

theorem length_toLE (n x : Nat) : (toLE n x).length = n := by
  induction n generalizing x with
  | zero => rfl
  | succ n ih => simp [toLE, ih]

theorem field_toLE (n x : Nat) : field (toLE n x) 0 n = x % 2 ^ (8 * n) := by
  rw [field, slice, List.drop_zero, List.take_of_length_le (length_toLE n x).le, leNat_toLE]

theorem passStart_of_bank {d : PassDesc} (rd : Reader) (bank : Nat → Nat → Nat) (i j : Nat) (h : d.init = 1) :
    passStart d rd bank i j = (bank i j, false) := by
  simp [passStart, h]

/-- An image that was stored loads as itself, and is no class-3 image. -/
theorem passStart_of_stored {d : PassDesc} {rd : Reader} {img : Nat} (bank : Nat → Nat → Nat) {i j : Nat} (h : d.init = 2)
    (himg : RawImage img) (hrd : rd (d.outOff + i * d.outStride + 8 * j) 8 = toLE 8 img) :
    passStart d rd bank i j = (img, false) := by
  have hload : field (rd (d.outOff + i * d.outStride + 8 * j) 8) 0 8 = img := by
    rw [hrd, field_toLE, Nat.mod_eq_of_lt himg.lt]
  simp [passStart, h, hload, himg.rawOf_rawRead, himg.rawRead_ne_signalling]

/-! ## A pass as a sequence of groups (R147) -/

/-- The products of group `g` of element (i, j). -/
def groupProducts (d : PassDesc) (fa fb : Fmt) (rd : Reader) (i j g : Nat) : List (Option Val) :=
  (List.range 32).map fun x =>
    productOf fa fb (elemAt fa (rd (d.aOff + i * d.aStride) (rowBytes fa d.k)) (32 * g + x))
      (elemAt fb (rd (d.bOff + (32 * g + x) * d.bStride) (rowBytes fb d.n)) j)
      (scaleAt rd fa d.aScale (i * (d.k / 32) + g)) (scaleAt rd fb d.bScale (g * d.n + j))

/-- The groups added into an accumulator one after the other. -/
def accumulateAll (acc : Nat) (groups : List (List (Option Val))) : Nat :=
  groups.foldl (fun a ps => (accumulate a ps).1) acc

theorem accumulateAll_append (acc : Nat) (gs hs : List (List (Option Val))) :
    accumulateAll acc (gs ++ hs) = accumulateAll (accumulateAll acc gs) hs :=
  List.foldl_append

theorem accumulateAll_rawImage {acc : Nat} (h : RawImage acc) (gs : List (List (Option Val))) :
    RawImage (accumulateAll acc gs) := by
  induction gs generalizing acc with
  | nil => exact h
  | cons ps gs ih => exact ih (accumulate_rawImage h ps)

/-- Only the image of a cell decides the next image. -/
theorem passCell_img (d : PassDesc) (fa fb out : Fmt) (rd : Reader) (start i j : Nat) :
    (passCell d fa fb out rd start i j).img =
      accumulateAll start ((List.range (d.k / 32)).map (groupProducts d fa fb rd i j)) := by
  rw [accumulateAll, List.foldl_map]
  exact (List.foldl_hom Cell.img fun _ _ => rfl).symm

theorem passCell_rawImage {start : Nat} (h : RawImage start) (d : PassDesc) (fa fb out : Fmt) (rd : Reader) (i j : Nat) :
    RawImage (passCell d fa fb out rd start i j).img :=
  passCell_img d fa fb out rd start i j ▸ accumulateAll_rawImage h _

theorem groupProducts_congr {d d' : PassDesc} {fa fb : Fmt} {rd rd' : Reader} {i j g g' : Nat}
    (helem : ∀ x < 32,
      elemAt fa (rd (d.aOff + i * d.aStride) (rowBytes fa d.k)) (32 * g + x) =
        elemAt fa (rd' (d'.aOff + i * d'.aStride) (rowBytes fa d'.k)) (32 * g' + x) ∧
      elemAt fb (rd (d.bOff + (32 * g + x) * d.bStride) (rowBytes fb d.n)) j =
        elemAt fb (rd' (d'.bOff + (32 * g' + x) * d'.bStride) (rowBytes fb d'.n)) j)
    (hscale : scaleAt rd fa d.aScale (i * (d.k / 32) + g) = scaleAt rd' fa d'.aScale (i * (d'.k / 32) + g') ∧
      scaleAt rd fb d.bScale (g * d.n + j) = scaleAt rd' fb d'.bScale (g' * d'.n + j)) :
    groupProducts d fa fb rd i j g = groupProducts d' fa fb rd' i j g' := by
  refine List.map_congr_left fun x hx => ?_
  obtain ⟨ha, hb⟩ := helem x (List.mem_range.1 hx)
  rw [ha, hb, hscale.1, hscale.2]

/-- Two passes whose groups are, one after the other, those of one pass leave its image. -/
theorem passCell_img_of_split {d d1 d2 : PassDesc} {fa fb : Fmt} (out : Fmt) {rd rd1 rd2 : Reader} (start : Nat) {i j : Nat}
    (hk : d.k / 32 = d1.k / 32 + d2.k / 32)
    (h1 : ∀ g < d1.k / 32, groupProducts d1 fa fb rd1 i j g = groupProducts d fa fb rd i j g)
    (h2 : ∀ g < d2.k / 32, groupProducts d2 fa fb rd2 i j g = groupProducts d fa fb rd i j (d1.k / 32 + g)) :
    (passCell d2 fa fb out rd2 (passCell d1 fa fb out rd1 start i j).img i j).img =
      (passCell d fa fb out rd start i j).img := by
  have hleft : (List.range (d1.k / 32)).map (groupProducts d1 fa fb rd1 i j) =
      (List.range (d1.k / 32)).map (groupProducts d fa fb rd i j) :=
    List.map_congr_left fun g hg => h1 g (List.mem_range.1 hg)
  have hright : (List.range (d2.k / 32)).map (groupProducts d2 fa fb rd2 i j) =
      ((List.range (d2.k / 32)).map (d1.k / 32 + ·)).map (groupProducts d fa fb rd i j) := by
    rw [List.map_map]
    exact List.map_congr_left fun g hg => h2 g (List.mem_range.1 hg)
  rw [passCell_img, passCell_img, passCell_img, hleft, hright, ← accumulateAll_append, ← List.map_append, ← List.range_add, hk]

/-! ## The statement -/

/-- Settles O55: the groups of the two passes are those of the one, in order, and every image that a pass leaves loads as itself. -/
theorem splitsOfK : Obligations.SplitsOfK := by
  intro d d1 d2 fa fb out rd rd1 rd2 bank start i j hk1 hk2 hk helem1 helem2 hscale1 hscale2 hstart
  have hgroups1 (g : Nat) (hg : g < d1.k / 32) : groupProducts d1 fa fb rd1 i j g = groupProducts d fa fb rd i j g :=
    groupProducts_congr (fun x hx => helem1 (32 * g + x) (by omega)) (hscale1 g hg)
  have hgroups2 (g : Nat) (hg : g < d2.k / 32) :
      groupProducts d2 fa fb rd2 i j g = groupProducts d fa fb rd i j (d1.k / 32 + g) := by
    refine groupProducts_congr (fun x hx => ?_) (hscale2 g hg)
    have hcol : 32 * (d1.k / 32 + g) + x = d1.k + (32 * g + x) := by omega
    rw [hcol]
    exact helem2 (32 * g + x) (by omega)
  have hsplit : (passCell d2 fa fb out rd2 (passCell d1 fa fb out rd1 start i j).img i j).img =
      (passCell d fa fb out rd start i j).img :=
    passCell_img_of_split out start (by omega) hgroups1 hgroups2
  refine ⟨fun hinit hbank => ?_, fun hinit hstored => ?_⟩
  · rw [passStart_of_bank rd2 bank i j hinit, hbank, hsplit]
  · have himg : RawImage (passCell d1 fa fb out rd1 start i j).img :=
      passCell_rawImage (hstart ▸ rawOf_rawImage (rawRead start)) d1 fa fb out rd1 i j
    have hload := passStart_of_stored bank hinit himg hstored
    exact ⟨hload, by rw [hload, hsplit]⟩

end Sys2Proof.Machine

/-! SUPPORT. The frame of every command: the components that `mayChange` lists bound what `exec` changes, and the statement O59. -/

namespace Sys2Proof.Machine

/-! Theorems are elaborated one after another here (`Elab.async`): a worker thread takes 256 MB of stack, and the threads that wait
for each other in this part would together exceed the memory of the check. -/

set_option Elab.async false

/-- The bits of `Keeps` that a list of components needs. -/
def Comp.mask (cs : List Comp) : Nat := cs.foldr (fun c m => 2 ^ c.bit ||| m) 0

theorem Comp.bit_inj {c d : Comp} (h : c.bit = d.bit) : c = d :=
  (by decide : ∀ c ∈ Comp.all, ∀ d ∈ Comp.all, c.bit = d.bit → c = d) c c.mem_all d d.mem_all h

theorem Comp.testBit_mask (cs : List Comp) (c : Comp) : (Comp.mask cs).testBit c.bit = decide (c ∈ cs) := by
  induction cs with
  | nil => simp [mask]
  | cons d cs ih =>
    have hd : (2 ^ d.bit).testBit c.bit = decide (c = d) := by
      rw [Nat.testBit_two_pow]
      exact decide_eq_decide.2 ⟨fun h => Comp.bit_inj h.symm, fun h => h ▸ rfl⟩
    rw [show mask (d :: cs) = 2 ^ d.bit ||| mask cs from rfl, Nat.testBit_or, hd, ih, ← Bool.decide_or]
    simp

theorem Keeps.within_mask {cs : List Comp} {s t : State} (h : Keeps (Comp.mask cs) s t) : Within cs s t :=
  ⟨h.pending, fun c hc => h.same (by rw [Comp.testBit_mask]; exact decide_eq_false hc)⟩

/-- A frame that needs no bit but those of the components listed. -/
theorem KeepsO.listed {n : Nat} {cs : List Comp} {s : State} {o : Host.Outcome State Fault Refusal} (h : KeepsO n s o)
    (hn : (n.land (Comp.mask cs)).beq n = true := by dsimp only [mayChange]; decide) : KeepsO (Comp.mask cs) s o :=
  h.mono hn

theorem exec_keeps (c : Instr) (s : State) : KeepsO (Comp.mask (mayChange c)) s (exec c s) := by
  cases c with
  | registerWrite sp off v => exact (execRegisterWrite_keeps sp off v s).listed
  | narrowAccess sp off width write v => exact (execNarrowAccess_keeps sp off width write v s).listed
  | unassignedAccess sp off write => exact (execUnassignedAccess_keeps sp off write s).listed
  | tick => exact (execTick_keeps s).listed
  | jobAlignedTick k => exact (execJobAlignedTick_keeps k s).listed
  | laceTickInEdge at_ => exact (execLaceTickInEdge_keeps at_ s).listed
  | missedEdge => exact (execMissedEdge_keeps s).listed
  | rearm => exact (execRearm_keeps s).listed
  | tickArrival d => exact (execTickArrival_keeps d s).listed
  | issuePoint => exact (execIssuePoint_keeps s).listed
  | slackWindowOpen found => exact (execSlackWindowOpen_keeps found s).listed
  | ldrStart v => exact (execLdrStart_keeps v s).listed
  | ldrApply v => exact (execLdrApply_keeps v s).listed
  | ldrAbort v => exact (execLdrAbort_keeps v s).listed
  | loadComplete hostImage fetched => exact (execLoadComplete_keeps hostImage fetched s).listed
  | cfgCommit v => exact (execCfgCommit_keeps v s).listed
  | partCommit n v => exact (execPartCommit_keeps n v s).listed
  | commitCheckDone after => exact (execCommitCheckDone_keeps after s).listed
  | branch t g taken target reconv => exact (execBranch_keeps t g taken target reconv s).listed
  | pathRotate t g => exact (execPathRotate_keeps t g s).listed
  | exit t g lanes => exact (execExit_keeps t g lanes s).listed
  | endInstruction t => exact (execEndInstruction_keeps t s).listed
  | stepEnd task endNs => exact (execStepEnd_keeps task endNs s).listed
  | phaseByteWrite p cq index => exact (execPhaseByteWrite_keeps p cq index s).listed
  | barrier t g lanes kind n => exact (execBarrier_keeps t g lanes kind n s).listed
  | casLockHint t g ty ops => exact (execCasLockHint_keeps t g ty ops s).listed
  | parkTimeout t g path => exact (execParkTimeout_keeps t g path s).listed
  | laneLoad t g lane loc len => exact (execLaneLoad_keeps t g lane loc len s).listed
  | laneStore t g lane loc data => exact (execLaneStore_keeps t g lane loc data s).listed
  | storeQueueDrain t g entry => exact (execStoreQueueDrain_keeps t g entry s).listed
  | atomic t g op fn ty round ordering scope => exact (execAtomic_keeps t g op fn ty round ordering scope s).listed
  | fence t g ordering scope => exact (execFence_keeps t g ordering scope s).listed
  | reduce t g fn ty round ops => exact (execReduce_keeps t g fn ty round ops s).listed
  | pin t g addrs => exact (execPin_keeps t g addrs s).listed
  | unpin t g addrs => exact (execUnpin_keeps t g addrs s).listed
  | eyeAdd t g eyelet n ordering scope => exact (execEyeAdd_keeps t g eyelet n ordering scope s).listed
  | eyeWait t g eyelet target scope => exact (execEyeWait_keeps t g eyelet target scope s).listed
  | eyeWaitResolve t g path => exact (execEyeWaitResolve_keeps t g path s).listed
  | eyeArm t g eyelet value => exact (execEyeArm_keeps t g eyelet value s).listed
  | eyeRead t g eyelet => exact (execEyeRead_keeps t g eyelet s).listed
  | readProductStatus t g => exact (execReadProductStatus_keeps t g s).listed
  | readLaneStatus t g => exact (execReadLaneStatus_keeps t g s).listed
  | convert t g src dst x srcScale dstScale round => exact (execConvert_keeps t g src dst x srcScale dstScale round s).listed
  | blockConvert t g src dst xs srcScale round => exact (execBlockConvert_keeps t g src dst xs srcScale round s).listed
  | minMax t g fmt isMax a b aScale bScale dstScale => exact (execMinMax_keeps t g fmt isMax a b aScale bScale dstScale s).listed
  | laneArithmetic t g op fmt a b c round => exact (execLaneArithmetic_keeps t g op fmt a b c round s).listed
  | passInstruction t g desc => exact (execPassInstruction_keeps t g desc s).listed
  | productPassStart t => exact (execProductPassStart_keeps t s).listed
  | productPassComplete t => exact (execProductPassComplete_keeps t s).listed
  | copyInstruction t g desc => exact (execCopyInstruction_keeps t g desc s).listed
  | copyArrival t copy first len => exact (execCopyArrival_keeps t copy first len s).listed
  | flitRetry d site port flit => exact (execFlitRetry_keeps d site port flit s).listed
  | creditTimeout d site port => exact (execCreditTimeout_keeps d site port s).listed
  | routerParityError d site => exact (execRouterParityError_keeps d site s).listed
  | loopbackCheck d site routerOk deadLinks => exact (execLoopbackCheck_keeps d site routerOk deadLinks s).listed
  | routesRewritten d => exact (execRoutesRewritten_keeps d s).listed
  | routeLossNotice => exact (execRouteLossNotice_keeps s).listed
  | duplicateWindowEnd => exact (execDuplicateWindowEnd_keeps s).listed
  | weltReplay d edge g => exact (execWeltReplay_keeps d edge g s).listed
  | laneFlag d edge g lane lace => exact (execLaneFlag_keeps d edge g lane lace s).listed
  | spareTrained d edge g => exact (execSpareTrained_keeps d edge g s).listed
  | laneSwitch d edge g => exact (execLaneSwitch_keeps d edge g s).listed
  | laneRetire d edge g durationUs => exact (execLaneRetire_keeps d edge g durationUs s).listed
  | weltSendTimeout d edge g => exact (execWeltSendTimeout_keeps d edge g s).listed
  | calibrationMove d edge g => exact (execCalibrationMove_keeps d edge g s).listed
  | laceParentTimeout d alternateOk skewNs => exact (execLaceParentTimeout_keeps d alternateOk skewNs s).listed
  | laceArrival task t n => exact (execLaceArrival_keeps task t n s).listed
  | laceCompletion task d n => exact (execLaceCompletion_keeps task d n s).listed
  | sliceFill d line bulk found => exact (execSliceFill_keeps d line bulk found s).listed
  | repairListWrite d => exact (execRepairListWrite_keeps d s).listed
  | dramAluOp d ch found => exact (execDramAluOp_keeps d ch found s).listed
  | rds m => exact (execRds_keeps m s).listed
  | rdn m => exact (execRdn_keeps m s).listed
  | rdx m => exact (execRdx_keeps m s).listed
  | upg m => exact (execUpg_keeps m s).listed
  | wbm m => exact (execWbm_keeps m s).listed
  | atr m => exact (execAtr_keeps m s).listed
  | hwb m => exact (execHwb_keeps m s).listed
  | hev m => exact (execHev_keeps m s).listed
  | data m => exact (execData_keeps m s).listed
  | mdata m => exact (execMdata_keeps m s).listed
  | wack m => exact (execWack_keeps m s).listed
  | atrsp m => exact (execAtrsp_keeps m s).listed
  | err m => exact (execErr_keeps m s).listed
  | cmp m => exact (execCmp_keeps m s).listed
  | inv m => exact (execInv_keeps m s).listed
  | fwd m => exact (execFwd_keeps m s).listed
  | binv m => exact (execBinv_keeps m s).listed
  | bdown m => exact (execBdown_keeps m s).listed
  | iack m => exact (execIack_keeps m s).listed
  | birsp m => exact (execBirsp_keeps m s).listed
  | fwdack m => exact (execFwdack_keeps m s).listed
  | fwdmiss m => exact (execFwdmiss_keeps m s).listed
  | snpInv hpa => exact (execSnpInv_keeps hpa s).listed
  | snpData hpa => exact (execSnpData_keeps hpa s).listed
  | snpCur hpa => exact (execSnpCur_keeps hpa s).listed
  | spillHostData hpa bytes poison => exact (execSpillHostData_keeps hpa bytes poison s).listed
  | wrcurComplete hpa => exact (execWrcurComplete_keeps hpa s).listed
  | deadDeclaration d agent => exact (execDeadDeclaration_keeps d agent s).listed
  | sweepDone d => exact (execSweepDone_keeps d s).listed
  | lostTailWrite d v => exact (execLostTailWrite_keeps d v s).listed
  | dirPeek d v => exact (execDirPeek_keeps d v s).listed
  | qpPeek v => exact (execQpPeek_keeps v s).listed
  | labelPeek v => exact (execLabelPeek_keeps v s).listed
  | tileCntClear t => exact (execTileCntClear_keeps t s).listed
  | meshCntClear d => exact (execMeshCntClear_keeps d s).listed
  | weltCntClear d edge => exact (execWeltCntClear_keeps d edge s).listed
  | l2CntClear d south => exact (execL2CntClear_keeps d south s).listed
  | l3CntClear d => exact (execL3CntClear_keeps d s).listed
  | dirCntClear d => exact (execDirCntClear_keeps d s).listed
  | eyeCntClear d => exact (execEyeCntClear_keeps d s).listed
  | dramCntClear d => exact (execDramCntClear_keeps d s).listed
  | uciCntClear => exact (execUciCntClear_keeps s).listed
  | outPortCntClear k => exact (execOutPortCntClear_keeps k s).listed
  | outJobCntClear => exact (execOutJobCntClear_keeps s).listed
  | partAccClear n => exact (execPartAccClear_keeps n s).listed
  | pwrCntClear => exact (execPwrCntClear_keeps s).listed
  | awlCntClear d => exact (execAwlCntClear_keeps d s).listed
  | eyeCtlAdd n index v => exact (execEyeCtlAdd_keeps n index v s).listed
  | eyeCtlArm n index v => exact (execEyeCtlArm_keeps n index v s).listed
  | refreshCommand d ch => exact (execRefreshCommand_keeps d ch s).listed
  | dramSensorSample d readings => exact (execDramSensorSample_keeps d readings s).listed
  | refreshSlowReturn d => exact (execRefreshSlowReturn_keeps d s).listed
  | zeroingDone p => exact (execZeroingDone_keeps p s).listed
  | hostIdRead code stepping timeMs => exact (execHostIdRead_keeps code stepping timeMs s).listed
  | moduleTrainTimeout k => exact (execModuleTrainTimeout_keeps k s).listed
  | moduleActive k => exact (execModuleActive_keeps k s).listed
  | moduleLinkDown k => exact (execModuleLinkDown_keeps k s).listed
  | retrainTimeout k => exact (execRetrainTimeout_keeps k s).listed
  | linkRetrain => exact (execLinkRetrain_keeps s).listed
  | allModulesActive => exact (execAllModulesActive_keeps s).listed
  | memRd h mv tag => exact (execMemRd_keeps h mv tag s).listed
  | memInv h mv tag => exact (execMemInv_keeps h mv tag s).listed
  | memWr h mv tag enables bytes => exact (execMemWr_keeps h mv tag enables bytes s).listed
  | cxlBirsp h kept => exact (execCxlBirsp_keeps h kept s).listed
  | memSpecRd h => exact (execMemSpecRd_keeps h s).listed
  | unsupportedMemReq r h => exact (execUnsupportedMemReq_keeps r h s).listed
  | flr n => exact (execFlr_keeps n s).listed
  | msixUnmask fn vec => exact (execMsixUnmask_keeps fn vec s).listed
  | sqResume n k => exact (execSqResume_keeps n k s).listed
  | doeDiscovery o => exact (execDoeDiscovery_keeps o s).listed
  | cdatRead handle => exact (execCdatRead_keeps handle s).listed
  | getVersion => exact (execGetVersion_keeps s).listed
  | getCapabilities => exact (execGetCapabilities_keeps s).listed
  | negotiateAlgorithms rsapss3072 sha256 => exact (execNegotiateAlgorithms_keeps rsapss3072 sha256 s).listed
  | getDigests => exact (execGetDigests_keeps s).listed
  | getCertificate slot offset len => exact (execGetCertificate_keeps slot offset len s).listed
  | challenge slot nonce => exact (execChallenge_keeps slot nonce s).listed
  | getMeasurements index signed nonce => exact (execGetMeasurements_keeps index signed nonce s).listed
  | portLinkChange k up => exact (execPortLinkChange_keeps k up s).listed
  | preemptionVerify k ok => exact (execPreemptionVerify_keeps k ok s).listed
  | pfcPause k pcp timeNs => exact (execPfcPause_keeps k pcp timeNs s).listed
  | ptpMessage k m => exact (execPtpMessage_keeps k m s).listed
  | syncSend k => exact (execSyncSend_keeps k s).listed
  | masterLost => exact (execMasterLost_keeps s).listed
  | rdmaWrite k p => exact (execRdmaWrite_keeps k p s).listed
  | rdmaWriteWithImmediate k p => exact (execRdmaWriteWithImmediate_keeps k p s).listed
  | send k p => exact (execSend_keeps k p s).listed
  | rdmaReadRequest k p => exact (execRdmaReadRequest_keeps k p s).listed
  | rdmaReadResponse k p => exact (execRdmaReadResponse_keeps k p s).listed
  | ack k p => exact (execAck_keeps k p s).listed
  | nak k p => exact (execNak_keeps k p s).listed
  | cnp k p => exact (execCnp_keeps k p s).listed
  | rateIncrease p q => exact (execRateIncrease_keeps p q s).listed
  | retransmitTimeout p q => exact (execRetransmitTimeout_keeps p q s).listed
  | rnrRetry p q => exact (execRnrRetry_keeps p q s).listed
  | qpTimeout p q => exact (execQpTimeout_keeps p q s).listed
  | qpReady => exact (execQpReady_keeps s).listed
  | arrive k f => exact (execArrive_keeps k f s).listed
  | complete k f => exact (execComplete_keeps k f s).listed
  | stepFail k f => exact (execStepFail_keeps k f s).listed
  | jobFault k f => exact (execJobFault_keeps k f s).listed
  | report k f => exact (execReport_keeps k f s).listed
  | freq k f => exact (execFreq_keeps k f s).listed
  | heartbeat k f => exact (execHeartbeat_keeps k f s).listed
  | down k f => exact (execDown_keeps k f s).listed
  | join k f => exact (execJoin_keeps k f s).listed
  | member k f => exact (execMember_keeps k f s).listed
  | qpReset k f => exact (execQpReset_keeps k f s).listed
  | heartbeatSend => exact (execHeartbeatSend_keeps s).listed
  | heartbeatLoss neighbour => exact (execHeartbeatLoss_keeps neighbour s).listed
  | sendJoin => exact (execSendJoin_keeps s).listed
  | memberEffective => exact (execMemberEffective_keeps s).listed
  | jobDeadline => exact (execJobDeadline_keeps s).listed
  | epochReport => exact (execEpochReport_keeps s).listed
  | reportDeadline => exact (execReportDeadline_keeps s).listed
  | freqDecision => exact (execFreqDecision_keeps s).listed
  | freqApply => exact (execFreqApply_keeps s).listed
  | pmFreeze p v => exact (execPmFreeze_keeps p v s).listed
  | saveDone p uncorrectable => exact (execSaveDone_keeps p uncorrectable s).listed
  | pmRestore p v => exact (execPmRestore_keeps p v s).listed
  | restoreDone p uncorrectable => exact (execRestoreDone_keeps p uncorrectable s).listed
  | pmThaw p v => exact (execPmThaw_keeps p v s).listed
  | drainEnd p => exact (execDrainEnd_keeps p s).listed
  | tileHaltTimeout t => exact (execTileHaltTimeout_keeps t s).listed
  | tileSramError t off => exact (execTileSramError_keeps t off s).listed
  | transactionTimeout x => exact (execTransactionTimeout_keeps x s).listed
  | sliceTimeout d sl => exact (execSliceTimeout_keeps d sl s).listed
  | directoryTimeout d line half => exact (execDirectoryTimeout_keeps d line half s).listed
  | dramTimeout d ch => exact (execDramTimeout_keeps d ch s).listed
  | ucieTimeout hpa => exact (execUcieTimeout_keeps hpa s).listed
  | unitResetDone => exact (execUnitResetDone_keeps s).listed
  | dieHeartbeatSend d => exact (execDieHeartbeatSend_keeps d s).listed
  | dieHeartbeatLoss d => exact (execDieHeartbeatLoss_keeps d s).listed
  | recover d => exact (execRecover_keeps d s).listed
  | dieReady d => exact (execDieReady_keeps d s).listed
  | watchdog => exact (execWatchdog_keeps s).listed
  | dieRecoveryTimeout => exact (execDieRecoveryTimeout_keeps s).listed
  | deviceRecoveryTimeout => exact (execDeviceRecoveryTimeout_keeps s).listed
  | deviceRecoveryDone timeMs => exact (execDeviceRecoveryDone_keeps timeMs s).listed
  | rtsGo hostImage fetched => exact (execRtsGo_keeps hostImage fetched s).listed
  | recTailWrite v => exact (execRecTailWrite_keeps v s).listed
  | evTailWrite v => exact (execEvTailWrite_keeps v s).listed
  | regulatorReport d r => exact (execRegulatorReport_keeps d r s).listed
  | vrAlert => exact (execVrAlert_keeps s).listed
  | vrAlertRelease => exact (execVrAlertRelease_keeps s).listed
  | brakeAssert => exact (execBrakeAssert_keeps s).listed
  | brakeRelease => exact (execBrakeRelease_keeps s).listed
  | budgetRequest d => exact (execBudgetRequest_keeps d s).listed
  | budgetAllocate => exact (execBudgetAllocate_keeps s).listed
  | budgetGrant d => exact (execBudgetGrant_keeps d s).listed
  | grantDeadline => exact (execGrantDeadline_keeps s).listed
  | budgetGuard d => exact (execBudgetGuard_keeps d s).listed
  | thermalSample d junctions drams => exact (execThermalSample_keeps d junctions drams s).listed
  | trimWrite d => exact (execTrimWrite_keeps d s).listed
  | sliceEnd d kind r found => exact (execSliceEnd_keeps d kind r found s).listed
  | sliceAbort d kind => exact (execSliceAbort_keeps d kind s).listed
  | repairRecordWrite d => exact (execRepairRecordWrite_keeps d s).listed
  | awlFuseGo d => exact (execAwlFuseGo_keeps d s).listed
  | fuseBurn d ok => exact (execFuseBurn_keeps d ok s).listed
  | takeOwnership hostImage fetched => exact (execTakeOwnership_keeps hostImage fetched s).listed
  | release hostImage fetched => exact (execRelease_keeps hostImage fetched s).listed
  | end_ hostImage fetched => exact (execEnd_keeps hostImage fetched s).listed
  | raiseLastFloor hostImage fetched => exact (execRaiseLastFloor_keeps hostImage fetched s).listed
  | raiseFwFloor hostImage fetched => exact (execRaiseFwFloor_keeps hostImage fetched s).listed
  | transitionComplete => exact (execTransitionComplete_keeps s).listed
  | fwStage hostImage fetched => exact (execFwStage_keeps hostImage fetched s).listed
  | fwStaged ok => exact (execFwStaged_keeps ok s).listed
  | tapInstruction code => exact (execTapInstruction_keeps code s).listed
  | powerGood straps => exact (execPowerGood_keeps straps s).listed
  | powerLoss => exact (execPowerLoss_keeps s).listed
  | mreset => exact (execMreset_keeps s).listed
  | regulatorsSequenced ok => exact (execRegulatorsSequenced_keeps ok s).listed
  | firmwareVerified aOk bOk timeMs => exact (execFirmwareVerified_keeps aOk bOk timeMs s).listed
  | weltsTrained ok => exact (execWeltsTrained_keeps ok s).listed
  | dramInitialised ok timeMs => exact (execDramInitialised_keeps ok timeMs s).listed
  | readyRise timeMs => exact (execReadyRise_keeps timeMs s).listed
  | thermtripShutdown => exact (execThermtripShutdown_keeps s).listed
  | sbRead off => exact (execSbRead_keeps off s).listed
  | sbWrite off v => exact (execSbWrite_keeps off v s).listed
  | setdasa addr => exact (execSetdasa_keeps addr s).listed
  | entdaa addr => exact (execEntdaa_keeps addr s).listed
  | pfcPauseEnd k => exact (execPfcPauseEnd_keeps k s).listed
  | unsupportedOpcode k p => exact (execUnsupportedOpcode_keeps k p s).listed
  | droppedFrame k => exact (execDroppedFrame_keeps k s).listed
  | enec => exact (execEnec_keeps s).listed
  | tapReset low => exact (execTapReset_keeps low s).listed
  | configurationRequest fn off write v => exact (execConfigurationRequest_keeps fn off write v s).listed
  | floorBurnComplete => exact (execFloorBurnComplete_keeps s).listed

/-- Settles O59: each command's frame needs no bit but those of the components that `mayChange` lists. -/
theorem everyCommandAnswers : Obligations.EveryCommandAnswers := by
  intro c s
  obtain ⟨t, ht, hk⟩ := exec_keeps c s
  exact ⟨t, ht, hk.within_mask⟩
end Sys2Proof.Machine

/-! SUPPORT. What one step keeps: the canonical form, the queue, and the machine at reset; the statements O57, O58, O1 and O53. -/

namespace Sys2Proof.Machine

set_option Elab.async false

/-! ## What one step keeps -/

theorem Canon.of_exec {c : Instr} {s t : State} (h : exec c s = .next t) (hs : Canon s) : Canon t := by
  obtain ⟨u, hu, hk⟩ := exec_keeps c s
  cases hu.symm.trans h
  exact hk.canon hs

theorem exec_pending {c : Instr} {s t : State} (h : exec c s = .next t) : t.pending = s.pending := by
  obtain ⟨u, hu, hk⟩ := exec_keeps c s
  cases hu.symm.trans h
  exact hk.pending

/-- A component that `mayChange` does not list is as it was. -/
theorem exec_same {c : Instr} {s t : State} (h : exec c s = .next t) {k : Comp} (hk : k ∉ mayChange c) : k.same s t := by
  obtain ⟨u, hu, hw⟩ := everyCommandAnswers c s
  cases hu.symm.trans h
  exact hw.2 k hk

theorem step_nil {s : State} (h : s.pending = []) : step s = .next s := by
  rw [step, h]

theorem step_cons {s : State} {c : Instr} {cs : List Instr} (h : s.pending = c :: cs) :
    step s = exec c { s with pending := cs } := by
  rw [step, h]

/-- What a step does: nothing, or the command at the front of the queue. -/
theorem step_cases {s t : State} (h : step s = .next t) :
    t = s ∨ ∃ c cs, s.pending = c :: cs ∧ exec c { s with pending := cs } = .next t := by
  cases hp : s.pending with
  | nil => exact .inl (Host.Outcome.next.inj (h.symm.trans (step_nil hp)))
  | cons c cs => exact .inr ⟨c, cs, rfl, (step_cons hp).symm.trans h⟩

/-- Settles O57: every operation that writes a map keeps its canonical form (`Keeps.canon`), and no command adds to the queue. -/
theorem canonicalState : Obligations.CanonicalState := by
  refine ⟨fun s t hregs hmem hscratch hstep => ?canon, fun s t hq hstep => ?queue⟩
  case canon =>
    have hs : Canon s := ⟨hregs, hmem, hscratch⟩
    rcases step_cases hstep with rfl | ⟨c, cs, -, hexec⟩
    · exact ⟨hregs, hmem, hscratch⟩
    · obtain ⟨hregs', hmem', hscratch'⟩ := Canon.of_exec hexec ⟨hs.regs, hs.mem, hs.scratch⟩
      exact ⟨hregs', hmem', hscratch'⟩
  case queue =>
    rcases step_cases hstep with rfl | ⟨c, cs, hp, hexec⟩
    · exact hq
    · intro i hi
      rw [exec_pending hexec] at hi
      exact hq i (hp ▸ List.mem_cons_of_mem c hi)

/-- Settles O58: the module before its first power good has blank fuses, empty memories and nothing waiting. -/
theorem resetInvariants : Obligations.ResetInvariants := by
  refine ⟨⟨by decide, by decide, by decide, by simp [State.reset], by simp [State.reset]⟩, by simp [QueueOk, State.reset], ?_, rfl, rfl⟩
  decide

/-- Settles O1: the two branches of `step`. -/
theorem stepRunsFront : Obligations.StepRunsFront :=
  ⟨fun _ _ => step_cons rfl, fun _ _ _ => step_cons, fun _ => step_nil⟩

/-! ## The register file at reset -/

/-- A key that none of the writes names reads as before them. -/
theorem mapGet_foldl_mapSet_ne {k : Nat} {l : List (Fld × Nat)} (m : SMap Nat) (h : ∀ e ∈ l, k ≠ e.1.key) :
    mapGet 0 (l.foldl (fun m e => mapSet 0 m e.1.key e.2) m) k = mapGet 0 m k := by
  induction l generalizing m with
  | nil => rfl
  | cons e l ih =>
    rw [List.foldl_cons, ih _ fun x hx => h x (List.mem_cons_of_mem e hx), mapGet_mapSet_ne _ _ _ (h e (by simp))]

/-- Settles O53: the six fields that `coldRegs` lists, and no other. -/
theorem resetValues : Obligations.ResetValues := by
  unfold Obligations.ResetValues
  refine ⟨by decide, by decide, by decide, by decide, by decide, by decide, ?others, ?rest⟩
  case others =>
    intro k hperiod hslack hcap hfloor hcredit hstate
    refine (mapGet_foldl_mapSet_ne [] fun e he => ?_ : mapGet 0 coldRegs k = _)
    rcases List.mem_append.1 he with he | he
    · simp only [List.mem_cons, List.not_mem_nil, or_false] at he
      rcases he with rfl | rfl | rfl | rfl | rfl
      exacts [hperiod, hslack, hcap, hfloor, hcredit]
    · obtain ⟨d, hd, rfl⟩ := List.mem_map.1 he
      exact hstate d (List.mem_range.1 hd)
  case rest => simp [State.reset]

end Sys2Proof.Machine

/-! SUPPORT. Life-cycle commands (R475, R476): what a command that passes its checks is about to burn leads forward, through whichever register or answer it comes. -/

namespace Sys2Proof.Machine

set_option Elab.async false

/-! ## What is about to be burned

`Burns s t`: the fuses are the same and what is about to be burned into them still leads forward. -/

def Burns (s t : State) : Prop := t.sec.fuses = s.sec.fuses ∧ (FuseInv s → FuseInv t)

theorem FuseInv.congr {s t : State} (hf : t.sec.fuses = s.sec.fuses) (ht : t.sec.transition = s.sec.transition)
    (hb : t.sec.floorBurn = s.sec.floorBurn) (h : FuseInv s) : FuseInv t := by
  unfold FuseInv
  rw [hf, ht, hb]
  exact h

theorem Burns.of_eq {s t : State} (hf : t.sec.fuses = s.sec.fuses) (ht : t.sec.transition = s.sec.transition)
    (hb : t.sec.floorBurn = s.sec.floorBurn) : Burns s t := ⟨hf, FuseInv.congr hf ht hb⟩

theorem Burns.refl (s : State) : Burns s s := .of_eq rfl rfl rfl

theorem Burns.trans {s t u : State} (h : Burns s t) (g : Burns t u) : Burns s u :=
  ⟨g.1.trans h.1, fun hs => g.2 (h.2 hs)⟩

theorem Keeps.burnsKept {m : Nat} {s t : State} (h : Keeps m s t) (hf : m.testBit 17 = false := by decide)
    (hb : m.testBit 19 = false := by decide) : Burns s t :=
  have hburns := h.burns hb
  .of_eq (h.fuses hf) hburns.1 hburns.2.2

theorem Burns.foldl {α : Type} {f : State → α → State} (hf : ∀ s a, Burns s (f s a)) (l : List α) (s : State) :
    Burns s (l.foldl f s) := by
  induction l generalizing s with
  | nil => exact .refl s
  | cons a l ih => exact (hf s a).trans (ih _)

/-! ### A life-cycle command that passes its checks leads forward -/

theorem commandSlot_some {lc code : Nat} (h : commandSlot lc code ≠ none) :
    (code = 1 → lc = 1) ∧ (code = 2 → lc = 2) ∧ (lc = 1 ∨ lc = 2 ∨ lc = 3) := by
  unfold commandSlot at h
  split at h <;> grind

/-- What the checks of a command say of its image (R475, R476): its code, the state that it needs, and that a floor rises. -/
theorem State.commandError_zero {s : State} {want : Nat} {img : List Byte} (h : s.commandError want img = 0) :
    (1 ≤ field img 6 1 ∧ field img 6 1 ≤ 5) ∧ commandSlot s.sec.fuses.lc (field img 6 1) ≠ none ∧
    (field img 6 1 = 4 → s.sec.fuses.lastSteps < field img 0x18 1 ∧ field img 0x18 1 ≤ 32) ∧
    (field img 6 1 = 5 → s.sec.fuses.fwSteps < field img 0x18 1 ∧ field img 0x18 1 ≤ 32) := by
  unfold State.commandError at h
  extract_lets code sig steps hash f known floor now at h
  split at h
  case isTrue => exact absurd h (by decide)
  case isFalse hslot =>
  split at h
  case isTrue => exact absurd h (by decide)
  case isFalse hmagic =>
  iterate 4 (split at h; · exact absurd h (by decide))
  split at h
  case isTrue => exact absurd h (by decide)
  case isFalse hfloor =>
  have hknown : known = true := by
    by_contra hk
    simp [hk] at hmagic
  have hcode : 1 ≤ code ∧ code ≤ 5 := by simpa [known] using hknown
  refine ⟨hcode, ?_, fun h4 => ?_, fun h5 => ?_⟩
  · simpa [hknown] using hslot
  · have hnow : now = f.lastSteps := if_pos h4
    simp [floor, show code = 4 from h4, hnow] at hfloor
    exact hfloor
  · have hnow : now = f.fwSteps := if_neg (by rw [show code = 5 from h5]; decide)
    simp [floor, show code = 5 from h5, hnow] at hfloor
    exact hfloor.1

/-- An image that passes the checks of a command in the fuses `f`. -/
def CommandOk (f : Fuses) (img : List Byte) : Prop := ∃ (s : State) (want : Nat), s.sec.fuses = f ∧ s.commandError want img = 0

theorem State.startTransition_burns (s : State) {lc : Nat} (owner : List Byte) (hlt : s.sec.fuses.lc < lc) (hle : lc ≤ 4) :
    Burns s (s.startTransition lc owner) := by
  unfold State.startTransition
  have hset : Burns s (s.setSec { s.sec with transition := some lc, newOwner := owner }) :=
    ⟨rfl, fun ⟨hlc, hlast, hfw, _, hfloor⟩ => ⟨hlc, hlast, hfw, fun n hn => Option.some.inj hn ▸ ⟨hlt, hle⟩, hfloor⟩⟩
  refine (hset.trans (State.set_keeps _ fSecLc_transition 1).burnsKept).trans (u := ite _ _ _) ?_
  split
  · exact (State.abortLoad_keeps _).burnsKept
  · exact (State.resetDevice_keeps _ _).burnsKept

theorem State.floorBurn_burns (s : State) {which n : Nat} (hn : n ≤ 32)
    (hle : (if which = 0 then s.sec.fuses.lastSteps else s.sec.fuses.fwSteps) ≤ n) :
    Burns s (s.setSec { s.sec with floorBurn := some (which, n) }) := by
  refine ⟨rfl, fun ⟨hlc, hlast, hfw, htrans, _⟩ => ⟨hlc, hlast, hfw, htrans, fun w k hk => ?_⟩⟩
  obtain ⟨rfl, rfl⟩ := Prod.mk.inj (Option.some.inj hk)
  exact ⟨hn, hle⟩

theorem State.acceptCommand_burns {s : State} {img : List Byte} (h : CommandOk s.sec.fuses img) :
    Burns s (s.acceptCommand img) := by
  obtain ⟨s0, want, hf, herr⟩ := h
  obtain ⟨hcode, hslot, hlast, hfw⟩ := State.commandError_zero herr
  obtain ⟨hone, htwo, hlc⟩ := commandSlot_some hslot
  rw [hf] at hone htwo hlc hlast hfw
  have hbusy : Burns s (s.set fSecCmdStatus_busy 1) := (State.set_keeps _ _ _).burnsKept
  unfold State.acceptCommand
  extract_lets steps u
  refine hbusy.trans ?_
  have hu : u.sec.fuses = s.sec.fuses := rfl
  rw [← hu] at hone htwo hlc hlast hfw
  split
  next h1 => exact u.startTransition_burns _ (by omega) (by decide)
  next h2 => exact u.startTransition_burns _ (by omega) (by decide)
  next h3 => exact u.startTransition_burns _ (by omega) (by decide)
  next h4 => exact u.floorBurn_burns (hlast h4).2 (by simpa using (hlast h4).1.le)
  next h1 h2 h3 h4 =>
    have h5 : field img 6 1 = 5 := by grind
    exact u.floorBurn_burns (hfw h5).2 (by simpa using (hfw h5).1.le)

theorem State.lifeRead_burns (s : State) (want : Option Nat) (hostImage : List Byte) (fetched : Bool) :
    Burns s (s.lifeRead want hostImage fetched) := by
  unfold State.lifeRead
  have hfetch := (s.fetchImage_keeps (s.flag fSecCmdCtrl_host) (64 * s.get fSecCmdAddr_addr) 1280 hostImage fetched).burnsKept
  generalize s.fetchImage (s.flag fSecCmdCtrl_host) (64 * s.get fSecCmdAddr_addr) 1280 hostImage fetched = r at hfetch ⊢
  obtain ⟨img, u⟩ := r
  dsimp -zeta only at hfetch ⊢
  extract_lets code err v
  have hv : Burns u v := (State.set_keeps _ _ _).burnsKept.trans (State.newChallenge_keeps _ _).burnsKept
  refine (hfetch.trans hv).trans ?_
  have herr (b : List Byte) (himg : img = some b) : err = u.commandError code b := by subst himg; rfl
  clear_value v err
  split
  next _ _ b => exact State.acceptCommand_burns ⟨u, code, hv.1.symm, (herr b rfl).symm⟩
  next => exact (v.event_keeps _ _ _ _ _).burnsKept

theorem State.readThen_burns (s : State) (w : ImageWait) (host : Bool) (addr len : Nat) {hold run : State → State}
    (hhold : ∀ u, Burns u (hold u)) (hrun : ∀ u, Burns u (run u)) : Burns s (s.readThen w host addr len hold run) := by
  unfold State.readThen
  extract_lets u
  refine (State.startImage_keeps _ _ _ _ _).burnsKept.trans (?_ : Burns u _)
  split
  · exact hrun u
  · exact Burns.trans (.of_eq rfl rfl rfl) (hhold _)

theorem State.lifeCommand_burns (s : State) (want : Option Nat) (hostImage : List Byte) (fetched : Bool) :
    Burns s (s.lifeCommand want hostImage fetched) := by
  unfold State.lifeCommand
  split
  · exact (State.set_keeps _ _ _).burnsKept
  · exact s.readThen_burns _ _ _ _ (fun u => (State.set_keeps _ _ _).burnsKept) fun u => u.lifeRead_burns want hostImage fetched

theorem State.runImage_burns (s : State) (w : ImageWait) : Burns s (s.runImage w) := by
  unfold State.runImage
  refine Burns.trans (t := s.setSec { s.sec with reading := s.sec.reading.erase w }) (.of_eq rfl rfl rfl) ?_
  dsimp only
  split
  · exact Burns.trans (State.set_keeps _ _ _).burnsKept (State.lifeRead_burns _ _ _ _)
  · exact Burns.trans (State.set_keeps _ _ _).burnsKept (State.fwRead_keeps _ _ _).burnsKept
  · exact (State.rtsRead_keeps _ _ _).burnsKept

theorem State.runImages_burns (s : State) : Burns s s.runImages :=
  Burns.foldl State.runImage_burns _ s

/-! ### The register writes -/

theorem onBit0_burns {k : RegKind} {f : State → Nat → Nat → State} (hf : ∀ s d i, Burns s (f s d i)) (s : State) (d i v : Nat) :
    Burns s ((onBit0 k f).act s d i v) := by
  show Burns s (if v.testBit 0 then f s d i else s)
  split
  · exact hf s d i
  · exact .refl s

theorem Action.burns {x : Action} (hx : x ∈ actions) : ∀ s d i v, Burns s (x.act s d i v) := by
  revert x
  simp only [actions, List.forall_mem_cons]
  exact ⟨
    onBit0_burns fun s _ _ => s.rearm_keeps.burnsKept,
    fun s _ _ v => (s.loaderControl_keeps v).burnsKept,
    fun s _ _ v => (s.cfgCommit_keeps v).burnsKept,
    fun s p _ v => (s.partCommit_keeps p v).burnsKept,
    onBit0_burns fun s d i => (s.clearTile_keeps d i).burnsKept,
    onBit0_burns fun s d _ => (s.clearMesh_keeps d).burnsKept,
    onBit0_burns fun s d i => (s.clearWelt_keeps d i).burnsKept,
    onBit0_burns fun s d i => (s.clearL2_keeps d i).burnsKept,
    onBit0_burns fun s d _ => (s.clearL3_keeps d).burnsKept,
    fun s d _ v => (s.dirPeek_keeps d v).burnsKept,
    fun s d _ v => (s.consume_keeps _ _ _ _ v).burnsKept,
    onBit0_burns fun s d _ => (s.clearDir_keeps d).burnsKept,
    fun s p i v => (s.eyeCtl_keeps p i v).burnsKept,
    onBit0_burns fun s d _ => (s.clearEye_keeps d).burnsKept,
    onBit0_burns fun s d _ => (s.clearDram_keeps d).burnsKept,
    onBit0_burns fun s _ _ => s.clearUci_keeps.burnsKept,
    onBit0_burns fun s p k => (s.resumeSq_keeps p k).burnsKept,
    onBit0_burns fun s d i => (s.clearPort_keeps d i).burnsKept,
    fun s _ _ v => (s.qpPeek_keeps v).burnsKept,
    onBit0_burns fun s _ _ => s.clearJob_keeps.burnsKept,
    onBit0_burns fun s p _ => (s.clearAcc_keeps p).burnsKept,
    fun s _ p v => (s.pmControl_keeps p v).burnsKept,
    fun s _ _ v => (s.recTail_keeps v).burnsKept,
    fun s _ _ v => (s.evTail_keeps v).burnsKept,
    onBit0_burns fun s _ _ => Burns.trans (s.unseenImage_keeps _ _).burnsKept (State.rtsGo_keeps _ _ _).burnsKept,
    onBit0_burns fun s _ _ => s.clearPwr_keeps.burnsKept,
    fun s _ _ v => (s.labelPeek_keeps v).burnsKept,
    onBit0_burns fun s d _ => (s.fuseGo_keeps d).burnsKept,
    onBit0_burns fun s d _ => (s.clearAwl_keeps d).burnsKept,
    onBit0_burns fun s _ _ => Burns.trans (s.unseenImage_keeps _ _).burnsKept (State.lifeCommand_burns _ _ _ _),
    onBit0_burns fun s _ _ => Burns.trans (s.unseenImage_keeps _ _).burnsKept (State.fwStage_keeps _ _ _).burnsKept,
    by simp⟩

theorem State.writeReg_burns (s : State) (a v : Nat) : Burns s (s.writeReg a v) := by
  have hfields : Burns s (s.writeFields a v) := (State.writeFields_keeps _ _ _).burnsKept
  unfold State.writeReg
  split
  next x i h =>
    obtain ⟨y, hy, hz⟩ := List.exists_of_findSome?_eq_some h
    obtain ⟨j, -, hj⟩ := Option.map_eq_some_iff.1 hz
    cases hj
    refine Burns.trans ?_ (Action.burns hy _ _ _ _)
    split
    · exact .refl s
    · exact hfields
  next => exact hfields

theorem State.write_burns (s : State) (src : Nat) (sp : Space) (off width v : Nat) : Burns s (s.write src sp off width v).2 := by
  unfold State.write
  split
  · exact (State.badAccess_keeps _ _ _ _ _).burnsKept
  · exact .refl s
  · exact .refl s
  · exact (State.badAccess_keeps _ _ _ _ _).burnsKept
  next o =>
    have hmsix (u : State) (fn o v : Nat) : Burns u (u.msixWrite fn o v) := (u.msixWrite_keeps fn o v).burnsKept
    dsimp only
    split
    · exact (hmsix _ _ _ _).trans (hmsix _ _ _ _)
    · exact hmsix _ _ _ _
  next => exact s.writeReg_burns _ v

theorem State.barAccess_burns (s : State) (sp : Space) (off width : Nat) (write : Bool) (v : Nat) :
    Burns s (s.barAccess sp off width write v) := by
  unfold State.barAccess
  split
  · exact s.write_burns _ _ _ _ _
  · exact (s.read_keeps 0x18 sp off width).burnsKept.trans (.of_eq rfl rfl rfl)

end Sys2Proof.Machine

/-! SUPPORT. Commands that burn no fuse leave the fuses and keep what is about to be burned leading forward. -/

namespace Sys2Proof.Machine

set_option Elab.async false

/-! ## What each command does to the fuses -/

/-- The answer of a command leaves the fuses as they are and keeps `FuseInv`. -/
def BurnsO (s : State) (o : Host.Outcome State Fault Refusal) : Prop := ∀ t, o = .next t → Burns s t

theorem BurnsO.next {s u : State} (h : Burns s u) : BurnsO s (.next u) := fun _ ht => Host.Outcome.next.inj ht ▸ h

theorem execData_burns (m : Msg) (s : State) : BurnsO s (execData m s) := by
  unfold execData
  split
  · exact .next (.refl s)
  · refine .next ((s.arrive_keeps m).burnsKept.trans ?_)
    split
    · exact (State.hostData_keeps _ _).burnsKept
    · exact Burns.trans (State.takeData_keeps _ _).burnsKept (State.runImages_burns _)

theorem execErr_burns (m : Msg) (s : State) : BurnsO s (execErr m s) := by
  unfold execErr
  split
  · exact .next (.refl s)
  · refine .next ((s.arrive_keeps m).burnsKept.trans ?_)
    split
    · exact (State.hostErr_keeps _ _).burnsKept
    · exact Burns.trans (State.takeErr_keeps _ _).burnsKept (State.runImages_burns _)

theorem execTransactionTimeout_burns (i : TxTag) (s : State) : BurnsO s (execTransactionTimeout i s) := by
  unfold execTransactionTimeout
  split
  · exact .next (.refl s)
  next x _ =>
    have hclose : Burns s (s.closeTx x) := (s.closeTx_keeps x).burnsKept
    have hserve (u : State) (w : Purpose) : Burns u (u.serveErr w) := (u.serveErr_keeps w).burnsKept
    have hwake : Burns s (((x.wants.foldl State.serveErr (s.closeTx x)).wakeHalf x).runImages) :=
      ((hclose.trans (Burns.foldl hserve _ _)).trans (State.wakeHalf_keeps _ _).burnsKept).trans (State.runImages_burns _)
    extract_lets u
    split
    · exact .next hwake
    · exact .next (hwake.trans (State.partitionFault_keeps _ _ _).burnsKept)

theorem execSbWrite_burns (off : Nat) (v : Word) (s : State) : BurnsO s (execSbWrite off v s) := by
  unfold execSbWrite
  split
  · exact .next (.refl s)
  · exact .next (((s.write_burns _ _ _ _ _).trans (State.draw_keeps _).burnsKept).trans (State.sidebandReply_keeps _ _ _).burnsKept)

/-- A command that may not burn a fuse leaves the fuses, and keeps what is about to be burned leading forward. -/
theorem exec_burns {c : Instr} {s t : State} (h : exec c s = .next t) (hf : .fuses ∉ mayChange c) : Burns s t := by
  have hfuses : Comp.fuses.same s t := exec_same h hf
  have hother (hb : .burns ∉ mayChange c) : Burns s t := by
    have hburns : Comp.burns.same s t := exec_same h hb
    obtain ⟨htrans, -, hfloor⟩ := hburns
    exact .of_eq hfuses htrans hfloor
  cases c with
  | registerWrite sp off v => exact BurnsO.next (s.barAccess_burns _ _ _ _ _) t h
  | narrowAccess sp off width write v => exact BurnsO.next (s.barAccess_burns _ _ _ _ _) t h
  | unassignedAccess sp off write =>
    refine BurnsO.next ?_ t h
    split
    · exact s.barAccess_burns _ _ _ _ _
    · exact .refl s
  | eyeCtlAdd n index v => exact BurnsO.next (s.barAccess_burns _ _ _ _ _) t h
  | eyeCtlArm n index v => exact BurnsO.next (s.barAccess_burns _ _ _ _ _) t h
  | sbWrite off v => exact execSbWrite_burns off v s t h
  | data m => exact execData_burns m s t h
  | mdata m => exact execData_burns m s t h
  | err m => exact execErr_burns m s t h
  | transactionTimeout x => exact execTransactionTimeout_burns x s t h
  | takeOwnership hostImage fetched => exact BurnsO.next (s.lifeCommand_burns _ _ _) t h
  | release hostImage fetched => exact BurnsO.next (s.lifeCommand_burns _ _ _) t h
  | end_ hostImage fetched => exact BurnsO.next (s.lifeCommand_burns _ _ _) t h
  | raiseLastFloor hostImage fetched => exact BurnsO.next (s.lifeCommand_burns _ _ _) t h
  | raiseFwFloor hostImage fetched => exact BurnsO.next (s.lifeCommand_burns _ _ _) t h
  | powerLoss | mreset | thermtripShutdown | regulatorsSequenced | powerGood | transitionComplete | floorBurnComplete | fuseBurn =>
    exact absurd (by dsimp only [mayChange]; decide) hf
  | _ => exact hother (by dsimp only [mayChange]; decide)

end Sys2Proof.Machine

/-! SUPPORT. What each command does to the fuses, the flash, the accumulators and the brake (R463, R467, R473, R477): the statements O56 and O60. -/

namespace Sys2Proof.Machine

set_option Elab.async false

/-- What a command may do to the fuses (R463, R467, R468, R473, R477, R478). -/
inductive FuseStep (s t : State) : Instr → Prop
  | kept {c : Instr} (h : Burns s t) : FuseStep s t c
  | cutOff {c : Instr} (bits : List Byte) (hf : t.sec.fuses = { s.sec.fuses with ownerPartial := bits })
      (ht : t.sec.transition = none) (hb : t.sec.floorBurn = none) : FuseStep s t c
  | repaired (d : Die) (ok : Bool) (new : List (Nat × SoftRepair))
      (hf : t.sec.fuses = { s.sec.fuses with repairs := s.sec.fuses.repairs ++ new })
      (ht : t.sec.transition = s.sec.transition) (hb : t.sec.floorBurn = s.sec.floorBurn) : FuseStep s t (.fuseBurn d ok)
  | provisioned (straps : Fin 4) (hblank : s.sec.fuses.lc = 0)
      (hf : t.sec.fuses = { s.sec.fuses with vendorHash := (List.range 32).map Config.vendorHash, identity := true, lc := 1 })
      (ht : t.sec.transition = none) (hb : t.sec.floorBurn = none) : FuseStep s t (.powerGood straps)
  | raised (which n : Nat) (hburn : s.sec.floorBurn = some (which, n))
      (hf : t.sec.fuses = if which = 0 then { s.sec.fuses with lastSteps := n } else { s.sec.fuses with fwSteps := n })
      (ht : t.sec.transition = s.sec.transition) (hb : t.sec.floorBurn = none) : FuseStep s t .floorBurnComplete
  | moved (lc : Nat) (htrans : s.sec.transition = some lc) (hf : t.sec.fuses = burnTransition s.sec.fuses lc s.sec.newOwner)
      (ht : t.sec.transition = none) (hb : t.sec.floorBurn = s.sec.floorBurn) : FuseStep s t .transitionComplete

theorem FuseStep.of_next {s t u : State} {c : Instr} (h : FuseStep s u c) (ht : (.next u : Host.Outcome State Fault Refusal) = .next t) :
    FuseStep s t c :=
  Host.Outcome.next.inj ht ▸ h

/-! ### The commands that may burn a fuse -/

theorem Fuses.ite_ownerPartial (f : Fuses) (c : Prop) [Decidable c] (bits : List Byte) :
    ∃ bits', (if c then { f with ownerPartial := bits } else f) = { f with ownerPartial := bits' } := by
  split
  · exact ⟨bits, rfl⟩
  · exact ⟨f.ownerPartial, rfl⟩

theorem State.losePower_fuses (s : State) : ∃ bits, s.losePower.sec.fuses = { s.sec.fuses with ownerPartial := bits } := by
  have hdraw (cut : Bool) : (if cut then s.draw else (0, s)).2.sec.fuses = s.sec.fuses := by cases cut <;> rfl
  unfold State.losePower
  dsimp only [State.unpowered, State.setSec]
  generalize (s.sec.transition = some 2 && !s.flag fFltStatus_device_recovering && s.pins.powered) = cut
  have hr := hdraw cut
  generalize (if cut then s.draw else (0, s)) = r at hr ⊢
  rw [hr]
  exact s.sec.fuses.ite_ownerPartial _ _

theorem State.losePower_fuseStep (s : State) (c : Instr) : FuseStep s s.losePower c :=
  have ⟨bits, hf⟩ := s.losePower_fuses
  .cutOff bits hf rfl rfl

theorem execThermtripShutdown_fuseStep {s t : State} (h : execThermtripShutdown s = .next t) (c : Instr) : FuseStep s t c := by
  unfold execThermtripShutdown at h
  split at h
  · obtain ⟨bits, hf⟩ := s.losePower_fuses
    cases h
    exact .cutOff bits hf rfl rfl
  · cases h
    exact .kept (.refl s)

theorem execRegulatorsSequenced_fuseStep {ok : Bool} {s t : State} (h : execRegulatorsSequenced ok s = .next t) (c : Instr) :
    FuseStep s t c := by
  unfold execRegulatorsSequenced at h
  split at h
  · cases h; exact .kept (.refl s)
  · split at h
    · cases h; exact .kept (.of_eq rfl rfl rfl)
    · cases h; exact s.losePower_fuseStep c

theorem execFuseBurn_fuseStep {d : Die} {ok : Bool} {s t : State} (h : execFuseBurn d ok s = .next t) :
    FuseStep s t (.fuseBurn d ok) := by
  have hevent (u : State) (a b c e : Nat) : Keeps 4212737 u (u.event a b c e) := u.event_keeps a b c e none
  unfold execFuseBurn at h
  extract_lets u new at h
  have hu : Burns s u := (s.set_keeps _ _).burnsKept
  split at h
  · cases h; exact .kept (.refl s)
  · split at h
    · cases h
      refine .repaired d ok new ((hevent _ _ _ _ _).fuses (by decide)) ?_ ?_
      · exact ((hevent _ _ _ _ _).burns (by decide)).1
      · exact ((hevent _ _ _ _ _).burns (by decide)).2.2
    · cases h; exact .kept (hu.trans (hevent _ _ _ _ _).burnsKept)

theorem execFloorBurnComplete_fuseStep {s t : State} (h : execFloorBurnComplete s = .next t) :
    FuseStep s t .floorBurnComplete := by
  unfold execFloorBurnComplete at h
  split at h
  · cases h; exact .kept (.refl s)
  next which n hburn =>
    have hkeeps (u : State) (a b c e : Nat) : Keeps 4212737 u ((u.showSec.set fSecCmdStatus_busy 0).event a b c e) :=
      (State.event_keeps _ _ _ _ _ _).after ((State.set_keeps _ _ _).after (u.showSec_keeps.mono (by decide)) (by decide)) (by decide)
    cases h
    obtain ⟨htrans, -, hfloor⟩ := (hkeeps _ _ _ _ _).burns (by decide)
    exact .raised which n hburn ((hkeeps _ _ _ _ _).fuses (by decide)) htrans hfloor

theorem execTransitionComplete_fuseStep {s t : State} (h : execTransitionComplete s = .next t) :
    FuseStep s t .transitionComplete := by
  unfold execTransitionComplete at h
  split at h
  · cases h; exact .kept (.refl s)
  next lc htrans =>
    split at h
    · cases h; exact .kept (.refl s)
    · have hkeeps (u : State) (a b c e : Nat) : Keeps 4212737 u ((u.showSec.set fSecCmdStatus_busy 0).event a b c e) :=
        (State.event_keeps _ _ _ _ _ _).after ((State.set_keeps _ _ _).after (u.showSec_keeps.mono (by decide)) (by decide)) (by decide)
      cases h
      obtain ⟨hnone, -, hfloor⟩ := (hkeeps _ _ _ _ _).burns (by decide)
      exact .moved lc htrans ((hkeeps _ _ _ _ _).fuses (by decide)) hnone hfloor

/-- What follows the provisioning at power good (R488). -/
def State.powerUp (s : State) (straps : Nat) : State :=
  let s := (List.range 8).foldl State.recall s.showSec
  let s := s.setAll [(fDevPins_addr, straps), (fPwrStatus_brake, if s.pins.brakeLow then 1 else 0)]
  let s := s.newChallenge fSecChal_challenge
  (s.sec.fuses.repairs.foldl (fun s e => s.applySoft e.1 e.2) s).checkForced

theorem State.powerUp_keeps (s : State) (straps : Nat) : Keeps 54642689 s (s.powerUp straps) := by
  have hrecall : Keeps 1 s ((List.range 8).foldl State.recall s.showSec) :=
    Keeps.foldl s.showSec_keeps fun u d => u.recall_keeps d
  unfold State.powerUp
  refine (State.checkForced_keeps _).after (Keeps.foldl ?_ fun u e => (u.applySoft_keeps e.1 e.2).mono (by decide)) (by decide)
  exact (State.newChallenge_keeps _ _).after (((State.setAll_keeps _ _).after hrecall (by decide)).mono (by decide)) (by decide)

theorem State.provision_of_blank {s : State} (h : s.sec.fuses.lc = 0) : s.provision = s.setSec { s.sec with fuses :=
    { s.sec.fuses with vendorHash := (List.range 32).map Config.vendorHash, identity := true, lc := 1 } } :=
  if_neg (not_not.2 h)

theorem State.provision_of_fused {s : State} (h : s.sec.fuses.lc ≠ 0) : s.provision = s := if_pos h

theorem execPowerGood_eq {s : State} (straps : Fin 4) (h : (s.pins.powered || s.pins.latchedOff) = false) :
    execPowerGood straps s = .next
      ((s.unpowered.setPins { s.unpowered.pins with powered := true, straps := straps.val }).provision.powerUp straps.val) := by
  rw [execPowerGood, h]
  rfl

theorem execPowerGood_fuseStep {straps : Fin 4} {s t : State} (h : execPowerGood straps s = .next t) :
    FuseStep s t (.powerGood straps) := by
  cases hpins : s.pins.powered || s.pins.latchedOff with
  | true =>
    rw [execPowerGood, hpins] at h
    cases h
    exact .kept (.refl s)
  | false =>
    rw [execPowerGood_eq straps hpins] at h
    generalize hu : s.unpowered.setPins { s.unpowered.pins with powered := true, straps := straps.val } = u at h
    have hsec : u.sec = { fuses := s.sec.fuses, flash := s.sec.flash, tapReset := s.sec.tapReset } := hu ▸ rfl
    have hkeeps : Keeps 54642689 u.provision t := Host.Outcome.next.inj h ▸ u.provision.powerUp_keeps straps.val
    obtain ⟨htrans, -, hfloor⟩ := hkeeps.burns (by decide)
    have hfuses := hkeeps.fuses (by decide)
    by_cases hblank : u.sec.fuses.lc = 0
    · rw [State.provision_of_blank hblank] at htrans hfloor hfuses
      rw [State.setSec, hsec] at htrans hfloor hfuses
      exact .provisioned straps (by rw [hsec] at hblank; exact hblank) hfuses htrans hfloor
    · rw [State.provision_of_fused hblank, hsec] at htrans hfloor hfuses
      exact .cutOff s.sec.fuses.ownerPartial hfuses htrans hfloor

theorem exec_fuseStep {c : Instr} {s t : State} (h : exec c s = .next t) : FuseStep s t c := by
  cases c with
  | powerLoss => exact (s.losePower_fuseStep _).of_next h
  | mreset => exact (s.losePower_fuseStep _).of_next h
  | thermtripShutdown => exact execThermtripShutdown_fuseStep h _
  | regulatorsSequenced ok => exact execRegulatorsSequenced_fuseStep h _
  | powerGood straps => exact execPowerGood_fuseStep h
  | transitionComplete => exact execTransitionComplete_fuseStep h
  | floorBurnComplete => exact execFloorBurnComplete_fuseStep h
  | fuseBurn d ok => exact execFuseBurn_fuseStep h
  | _ => exact .kept (exec_burns h (by dsimp only [mayChange]; decide))

/-! ### The fuses only move forward -/

/-- What the fuses may turn into (R467, R468, R473). -/
def Fuses.forward (f g : Fuses) : Prop :=
  f.lc ≤ g.lc ∧ f.lastSteps ≤ g.lastSteps ∧ f.fwSteps ≤ g.fwSteps ∧ (f.ownerBurned = true → g.ownerBurned = true) ∧
    f.repairs <+: g.repairs

theorem Fuses.forward_refl (f : Fuses) : f.forward f := ⟨le_rfl, le_rfl, le_rfl, id, List.prefix_rfl⟩

theorem burnTransition_forward (f : Fuses) {lc : Nat} (owner : List Byte) (h : f.lc ≤ lc) : f.forward (burnTransition f lc owner) := by
  unfold burnTransition
  split
  · exact ⟨h, le_rfl, le_rfl, fun _ => rfl, List.prefix_rfl⟩
  · exact ⟨h, le_rfl, le_rfl, id, List.prefix_rfl⟩

theorem FuseStep.forward {s t : State} {c : Instr} (h : FuseStep s t c) (hs : FuseInv s) :
    FuseInv t ∧ s.sec.fuses.forward t.sec.fuses := by
  obtain ⟨hlc, hlast, hfw, htrans, hfloor⟩ := hs
  cases h with
  | kept h => exact ⟨h.2 ⟨hlc, hlast, hfw, htrans, hfloor⟩, h.1 ▸ Fuses.forward_refl _⟩
  | cutOff bits hf ht hb => simp [FuseInv, hf, ht, hb, hlc, hlast, hfw, Fuses.forward]
  | repaired d ok new hf ht hb =>
    rw [FuseInv, hf, ht, hb]
    exact ⟨⟨hlc, hlast, hfw, htrans, hfloor⟩, le_rfl, le_rfl, le_rfl, id, List.prefix_append _ _⟩
  | provisioned straps hblank hf ht hb => simp [FuseInv, hf, ht, hb, hblank, hlast, hfw, Fuses.forward]
  | raised which n hburn hf ht hb =>
    obtain ⟨hn, hle⟩ := hfloor which n hburn
    by_cases hw : which = 0
    · simp only [hw, if_true] at hf hle
      rw [FuseInv, hf, ht, hb]
      exact ⟨⟨hlc, hn, hfw, htrans, by simp⟩, le_rfl, hle, le_rfl, id, List.prefix_rfl⟩
    · simp only [hw, if_false] at hf hle
      rw [FuseInv, hf, ht, hb]
      exact ⟨⟨hlc, hlast, hn, htrans, by simp⟩, le_rfl, le_rfl, hle, id, List.prefix_rfl⟩
  | moved lc hlc' hf ht hb =>
    obtain ⟨hlt, hle⟩ := htrans lc hlc'
    have hforward := burnTransition_forward s.sec.fuses s.sec.newOwner hlt.le
    have hsteps : (burnTransition s.sec.fuses lc s.sec.newOwner).lc = lc ∧
        (burnTransition s.sec.fuses lc s.sec.newOwner).lastSteps = s.sec.fuses.lastSteps ∧
        (burnTransition s.sec.fuses lc s.sec.newOwner).fwSteps = s.sec.fuses.fwSteps := by
      unfold burnTransition
      split <;> exact ⟨rfl, rfl, rfl⟩
    obtain ⟨hlcNew, hlastNew, hfwNew⟩ := hsteps
    rw [FuseInv, hf, ht, hb, hlcNew, hlastNew, hfwNew]
    exact ⟨⟨hle, hlast, hfw, by simp, hfloor⟩, hforward⟩

/-- Settles O56: a command burns a fuse only as `FuseStep` lists, each way forward under `FuseInv`. -/
theorem fusesMoveForward : Obligations.FusesMoveForward := by
  intro s t hs hstep
  rcases step_cases hstep with rfl | ⟨c, cs, -, hexec⟩
  · exact ⟨hs, Fuses.forward_refl _⟩
  · exact (exec_fuseStep hexec).forward hs

/-! ## What outlives the loss of power -/

theorem flash_mem_mayChange {c : Instr} (h : .flash ∈ mayChange c) :
    (∃ d, c = .repairListWrite d) ∨ (∃ d, c = .trimWrite d) ∨ (∃ d k r f, c = .sliceEnd d k r f) ∨
      (∃ d, c = .repairRecordWrite d) ∨ (∃ ok, c = .fwStaged ok) ∨ ∃ ok ms, c = .dramInitialised ok ms := by
  cases c with
  | repairListWrite | trimWrite | sliceEnd | repairRecordWrite | fwStaged | dramInitialised => simp
  | _ => exact absurd h (by dsimp only [mayChange]; decide)

theorem banks_mem_mayChange {c : Instr} (h : .banks ∈ mayChange c) :
    (∃ t, c = .productPassComplete t) ∨ c = .powerLoss ∨ c = .mreset ∨ (∃ ok, c = .regulatorsSequenced ok) ∨
      c = .thermtripShutdown ∨ ∃ st, c = .powerGood st := by
  cases c with
  | productPassComplete | powerLoss | mreset | regulatorsSequenced | thermtripShutdown | powerGood => simp
  | _ => exact absurd h (by dsimp only [mayChange]; decide)

/-! ### The level of PWR_BRAKE_N -/

theorem Keeps.brakeLow {m : Nat} {s t : State} (h : Keeps m s t) (hm : m.testBit 21 = false := by decide) :
    t.pins.brakeLow = s.pins.brakeLow := congrArg PinsSt.brakeLow (h.pins hm)

theorem State.losePower_brakeLow (s : State) : s.losePower.pins.brakeLow = s.pins.brakeLow := by
  have hdraw (cut : Bool) : (if cut then s.draw else (0, s)).2.pins.brakeLow = s.pins.brakeLow := by cases cut <;> rfl
  exact hdraw _

theorem execHostIdRead_brakeLow {code stepping ms : Nat} {s t : State} (h : execHostIdRead code stepping ms s = .next t) :
    t.pins.brakeLow = s.pins.brakeLow := by
  unfold execHostIdRead at h
  extract_lets u at h
  split at h
  · cases h; rfl
  split at h
  · cases h; split <;> rfl
  split at h <;> cases h <;> rfl

theorem execModuleTrainTimeout_brakeLow {k : Fin 8} {s t : State} (h : execModuleTrainTimeout k s = .next t) :
    t.pins.brakeLow = s.pins.brakeLow := by
  unfold execModuleTrainTimeout at h
  extract_lets n at h
  split at h
  · cases h; rfl
  split at h
  · cases h; rfl
  split at h <;> cases h <;> rfl

theorem execReadyRise_brakeLow {ms : Nat} {s t : State} (h : execReadyRise ms s = .next t) :
    t.pins.brakeLow = s.pins.brakeLow := by
  unfold execReadyRise at h
  split at h <;> cases h <;> rfl

theorem execAllModulesActive_brakeLow {s t : State} (h : execAllModulesActive s = .next t) :
    t.pins.brakeLow = s.pins.brakeLow := by
  have hrest (u : State) : Keeps 4212993 u (((List.range 17).foldl State.resetFunction u).reviveHost.event 0x18 0x15 0 0) :=
    (State.event_keeps _ _ _ _ _ _).after ((State.reviveHost_keeps _).after (Keeps.foldl (.refl _ _) fun v n =>
      (v.resetFunction_keeps n).mono (by decide)) (by decide)) (by decide)
  unfold execAllModulesActive at h
  split at h
  · cases h; rfl
  split at h
  · cases h; rfl
  · cases h
    refine (hrest _).brakeLow.trans ?_
    simp only [State.setUci_pins, State.set_pins]
    split <;> rfl

theorem execFirmwareVerified_brakeLow {aOk bOk : Bool} {ms : Nat} {s t : State}
    (h : execFirmwareVerified aOk bOk ms s = .next t) : t.pins.brakeLow = s.pins.brakeLow := by
  have hrest (u : State) (again : Prop) [Decidable again] (a b : Nat) :
      (if again then u.showSec else u.showSec.event 0x1C 0x84 a b).pins.brakeLow = u.pins.brakeLow := by
    split
    · exact u.showSec_keeps.brakeLow
    · exact (State.event_keeps _ _ _ _ _ _).brakeLow.trans u.showSec_keeps.brakeLow
  unfold execFirmwareVerified at h
  split at h
  · cases h; rfl
  extract_lets +onlyGivenNames u first ok at h
  split at h <;> cases h
  · rfl
  · exact hrest _ _ _ _

theorem execWeltsTrained_brakeLow {ok : Bool} {s t : State} (h : execWeltsTrained ok s = .next t) :
    t.pins.brakeLow = s.pins.brakeLow := by
  have hsoft : Keeps 33669121 s (s.sec.flash.soft.foldl (fun s e => s.applySoft e.1 e.2) s) :=
    Keeps.foldl (.refl _ _) fun u e => u.applySoft_keeps e.1 e.2
  unfold execWeltsTrained at h
  split at h
  · cases h; rfl
  split at h <;> cases h <;> exact hsoft.brakeLow

theorem execDramInitialised_brakeLow {ok : Bool} {ms : Nat} {s t : State} (h : execDramInitialised ok ms s = .next t) :
    t.pins.brakeLow = s.pins.brakeLow := by
  have hrepair (u : State) (l : List (Nat × Nat)) (skip : Prop) [Decidable skip] :
      Keeps 262145 u ((List.range 8).foldl State.showPpr (if skip then u else l.foldl State.repairCandidate u)) := by
    refine Keeps.foldl ?_ fun v d => (v.showPpr_keeps d).mono (by decide)
    split
    · exact .refl _ _
    · exact Keeps.foldl (.refl _ _) fun v e => v.repairCandidate_keeps e
  unfold execDramInitialised at h
  split at h
  · cases h; rfl
  extract_lets +onlyGivenNames u v w at h
  have hw : w.pins.brakeLow = s.pins.brakeLow := (hrepair u _ _).brakeLow
  split at h <;> cases h
  · exact hw
  · exact (State.trainAll_keeps _).brakeLow.trans hw

theorem execPowerGood_brakeLow {straps : Fin 4} {s t : State} (h : execPowerGood straps s = .next t) :
    t.pins.brakeLow = s.pins.brakeLow := by
  cases hpins : s.pins.powered || s.pins.latchedOff with
  | true => rw [execPowerGood, hpins] at h; cases h; rfl
  | false =>
    rw [execPowerGood_eq straps hpins] at h
    cases h
    exact (State.powerUp_keeps _ _).brakeLow.trans (State.provision_keeps _).brakeLow

theorem execPowerLoss_brakeLow {s t : State} (h : execPowerLoss s = .next t) : t.pins.brakeLow = s.pins.brakeLow := by
  cases h
  exact s.losePower_brakeLow

theorem execThermtripShutdown_brakeLow {s t : State} (h : execThermtripShutdown s = .next t) :
    t.pins.brakeLow = s.pins.brakeLow := by
  unfold execThermtripShutdown at h
  split at h <;> cases h
  · exact s.losePower_brakeLow
  · rfl

theorem execRegulatorsSequenced_brakeLow {ok : Bool} {s t : State} (h : execRegulatorsSequenced ok s = .next t) :
    t.pins.brakeLow = s.pins.brakeLow := by
  unfold execRegulatorsSequenced at h
  split at h
  · cases h; rfl
  split at h <;> cases h
  · rfl
  · exact s.losePower_brakeLow

theorem exec_brakeLow {c : Instr} {s t : State} (h : exec c s = .next t) (hassert : c ≠ .brakeAssert) (hrelease : c ≠ .brakeRelease) :
    t.pins.brakeLow = s.pins.brakeLow := by
  cases c with
  | brakeAssert => exact absurd rfl hassert
  | brakeRelease => exact absurd rfl hrelease
  | hostIdRead => exact execHostIdRead_brakeLow h
  | readyRise => exact execReadyRise_brakeLow h
  | moduleTrainTimeout => exact execModuleTrainTimeout_brakeLow h
  | dramInitialised => exact execDramInitialised_brakeLow h
  | allModulesActive => exact execAllModulesActive_brakeLow h
  | firmwareVerified => exact execFirmwareVerified_brakeLow h
  | weltsTrained => exact execWeltsTrained_brakeLow h
  | powerGood => exact execPowerGood_brakeLow h
  | powerLoss => exact execPowerLoss_brakeLow h
  | mreset => exact execPowerLoss_brakeLow h
  | thermtripShutdown => exact execThermtripShutdown_brakeLow h
  | regulatorsSequenced => exact execRegulatorsSequenced_brakeLow h
  | _ =>
    have hpins : Comp.pins.same s t := exec_same h (by dsimp only [mayChange]; decide)
    exact congrArg PinsSt.brakeLow hpins

/-- Settles O60: `FuseStep` lists what each command does to the fuses, `mayChange` who may touch the flash and the accumulators. -/
theorem lastingState : Obligations.LastingState := by
  intro c s t h
  refine ⟨fun hlc => ?lc, fun howner => ?owner, fun hfloor => ?floor, fun hrepairs => ?repairs, fun hflash => ?flash,
    fun hbanks => ?banks, fun hbrake => ?brake⟩
  case flash => exact flash_mem_mayChange (not_not.1 fun hn => hflash (exec_same h hn))
  case banks => exact banks_mem_mayChange (not_not.1 fun hn => hbanks (exec_same h hn))
  case brake =>
    by_contra! hne
    exact hbrake (exec_brakeLow h hne.1 hne.2)
  case lc =>
    cases exec_fuseStep h with
    | kept hb => exact absurd (congrArg Fuses.lc hb.1) hlc
    | raised which n hburn hf => exact absurd (by rw [hf]; split <;> rfl) hlc
    | cutOff bits hf | repaired d ok new hf => exact absurd (congrArg Fuses.lc hf) hlc
    | provisioned straps => exact .inr ⟨straps, rfl⟩
    | moved => exact .inl rfl
  case owner =>
    cases exec_fuseStep h with
    | kept hb => exact absurd (congrArg Fuses.ownerHash hb.1) howner
    | raised which n hburn hf => exact absurd (by rw [hf]; split <;> rfl) howner
    | cutOff bits hf | repaired d ok new hf | provisioned straps hblank hf => exact absurd (congrArg Fuses.ownerHash hf) howner
    | moved => rfl
  case floor =>
    have hne (hlast : t.sec.fuses.lastSteps = s.sec.fuses.lastSteps) (hfw : t.sec.fuses.fwSteps = s.sec.fuses.fwSteps) :
        c = .floorBurnComplete := absurd hfloor (by simp [hlast, hfw])
    cases exec_fuseStep h with
    | kept hb => exact hne (congrArg Fuses.lastSteps hb.1) (congrArg Fuses.fwSteps hb.1)
    | cutOff bits hf | repaired d ok new hf | provisioned straps hblank hf =>
      exact hne (by rw [hf]) (by rw [hf])
    | raised => rfl
    | moved lc htrans hf => exact hne (by rw [hf, burnTransition]; split <;> rfl) (by rw [hf, burnTransition]; split <;> rfl)
  case repairs =>
    cases exec_fuseStep h with
    | kept hb => exact absurd (congrArg Fuses.repairs hb.1) hrepairs
    | repaired d ok => exact ⟨d, ok, rfl⟩
    | cutOff bits hf | provisioned straps hblank hf => exact absurd (congrArg Fuses.repairs hf) hrepairs
    | raised which n hburn hf => exact absurd (by rw [hf]; split <;> rfl) hrepairs
    | moved lc htrans hf => exact absurd (by rw [hf, burnTransition]; split <;> rfl) hrepairs

end Sys2Proof.Machine

/-! SUPPORT. What the proofs of the functional statements share: composing frames, and reading a register field past writes, events
and updates of other components. -/

namespace Sys2Proof.Machine

set_option Elab.async false

/-! ## Frames -/

theorem Comp.same_refl (c : Comp) (s : State) : c.same s s := (Keeps.refl 0 s).same (by simp)

theorem Comp.same_trans {c : Comp} {s t u : State} (h : c.same s t) (g : c.same t u) : c.same s u := by
  cases c with
  | tile | burns =>
    obtain ⟨a, b, d⟩ := h
    obtain ⟨a', b', d'⟩ := g
    exact ⟨a'.trans a, b'.trans b, d'.trans d⟩
  | _ => exact Eq.trans g h

theorem Within.trans {cs : List Comp} {s t u : State} (h : Within cs s t) (g : Within cs t u) : Within cs s u :=
  ⟨g.1.trans h.1, fun c hc => Comp.same_trans (h.2 c hc) (g.2 c hc)⟩

theorem Within.mono {cs ds : List Comp} {s t : State} (h : Within cs s t) (hsub : ∀ c ∈ cs, c ∈ ds := by decide) : Within ds s t :=
  ⟨h.1, fun c hc => h.2 c fun hcs => hc (hsub c hcs)⟩

theorem Within.foldl {α : Type} {cs : List Comp} {f : State → α → State} (hf : ∀ s a, Within cs s (f s a)) (l : List α) (s : State) :
    Within cs s (l.foldl f s) := by
  induction l generalizing s with
  | nil => exact .refl cs s
  | cons a l ih => exact (hf s a).trans (ih _)

theorem Within.ite {cs : List Comp} {s t u : State} {c : Prop} [Decidable c] (ht : Within cs s t) (hu : Within cs s u) :
    Within cs s (if c then t else u) := by
  split
  · exact ht
  · exact hu

/-! ## Register fields -/

theorem Keeps.get {m : Nat} {s t : State} (h : Keeps m s t) (f : Fld) (hm : m.testBit 0 = false := by decide) : t.get f = s.get f :=
  State.get_congr (h.regs hm) f

theorem RegsKept.setAll_refl (s : State) (l : List (Fld × Nat)) : RegsKept (l.map Prod.fst) s (s.setAll l) :=
  (RegsKept.refl _ s).setAll l fun _ hx => List.mem_map_of_mem hx

/-- A field of the register file of a state that is put together from components. -/
@[simp] theorem mapGet_regs (s : State) (f : Fld) : mapGet 0 s.regs f.key = s.get f := rfl

@[simp] theorem State.get_mk (f : Fld) {regs : SMap Nat} {clock cfg ldr dev lasts tile mesh coh eyelets dram uci outer part flt power
    awl sec pins out lastRead free pending} :
    (State.mk regs clock cfg ldr dev lasts tile mesh coh eyelets dram uci outer part flt power awl sec pins out lastRead free
      pending).get f = mapGet 0 regs f.key := rfl

/-- Register spaces of a die lie above the device's (R19). -/
theorem RegKind.le_addr_of_die {k : RegKind} (d i : Nat) (hk : k.space = .die) : 0x800000 ≤ k.addr d i := by
  have hbase : k.base d = 0x800000 + d * 0x1000000 := by rw [RegKind.base, hk]
  rw [RegKind.addr, hbase]
  omega

/-- The field is none that an event writes (R412, R413). -/
def Fld.offEvents (f : Fld) : Bool :=
  (f.key < 0x220000 * 64 || 0x260000 * 64 ≤ f.key) && f.key != fFltEvHead_count.key && f.key != fFltEvStatus_full.key &&
    f.key != fFltEvStatus_dropped.key

theorem Fld.offEvents_iff (f : Fld) : f.offEvents = true ↔
    (f.key < 0x220000 * 64 ∨ 0x260000 * 64 ≤ f.key) ∧ f.key ≠ fFltEvHead_count.key ∧ f.key ≠ fFltEvStatus_full.key ∧
      f.key ≠ fFltEvStatus_dropped.key := by
  simp [Fld.offEvents, and_assoc]

theorem Fld.offEvents_of_die {k : RegKind} (d i lo w : Nat) (hk : k.space = .die := by rfl) :
    (Fld.mk (k.addr d i) lo w).offEvents = true := by
  have haddr := RegKind.le_addr_of_die d i hk
  rw [Fld.offEvents_iff, Fld.key, show fFltEvHead_count.key = 0x200060 * 64 from rfl,
    show fFltEvStatus_full.key = 0x200070 * 64 + 32 from rfl, show fFltEvStatus_dropped.key = 0x200070 * 64 from rfl]
  dsimp only
  omega

set_option linter.unusedSimpArgs false in
theorem Fld.ne_of_offEvents {s : State} {f g : Fld} (hg : g.offEvents = true) (hf : f ∈ eventFields s) : g.key ≠ f.key := by
  obtain ⟨hrange, hhead, hfull, hdropped⟩ := g.offEvents_iff.1 hg
  have hi : s.get fFltEvHead_count % 8192 < 8192 := Nat.mod_lt _ (by decide)
  simp only [eventFields, List.mem_cons, List.not_mem_nil, or_false] at hf
  generalize s.get fFltEvHead_count % 8192 = i at hf hi
  rcases hf with rfl | rfl | rfl | rfl | rfl | rfl | rfl | rfl | rfl | rfl | rfl | rfl | rfl
  iterate 10
    intro heq
    rw [heq] at hrange
    simp only [Fld.key, fFltEvA_source, fFltEvA_code, fFltEvA_partition, fFltEvA_partition_valid, fFltEvA_valid,
      fFltEvA_sequence, fFltEvB_ns, fFltEvB_stitch, fFltEvC_data0, fFltEvD_data1, RegKind.addr, RegKind.base, kFltEvA, kFltEvB,
      kFltEvC, kFltEvD] at hrange
    omega
  · exact hhead
  · exact hfull
  · exact hdropped

/-- A field that no event writes reads as before one. -/
theorem State.get_event {g : Fld} (hg : g.offEvents = true) (s : State) (src code d0 d1 : Nat) (part : Option Nat) :
    (s.event src code d0 d1 part).get g = s.get g :=
  (State.event_regsKept s src code d0 d1 part).get fun _ hf => Fld.ne_of_offEvents hg hf

end Sys2Proof.Machine

/-! SUPPORT. Ticks and the points of a stitch (R24, R26, R30 to R32, R191, R192, R344): the statement O2. -/

namespace Sys2Proof.Machine

set_option Elab.async false

/-! ## The generation of a tick -/

section
variable (s : State) (ref t : Nat) (edge : Bool)

theorem State.emitTick_clock : (s.emitTick ref t edge).clock =
    { (s.advanceTo t).clock with tickAt := t, refAt := ref, issued := false, arrived := 0, milliCycles := 0 } := rfl

theorem State.emitTick_stitch : (s.emitTick ref t edge).stitch = (s.stitch + 1) % 2 ^ fStchCount_count.width := by
  simp +decide [State.emitTick, State.stitch, State.setAll, State.get_set, State.addTo]

theorem State.get_emitTick_pins : (s.emitTick ref t edge).get fDevPins_tick_out_on = 1 ∧
    (s.emitTick ref t edge).get fDevPins_tick_in_seen = if edge then 1 else 0 := by
  cases edge <;> simp +decide [State.emitTick, State.setAll, State.get_set]

theorem State.emitTick_regsKept :
    RegsKept [fStchCount_count, fDevPins_tick_out_on, fDevPins_tick_in_seen] s (s.emitTick ref t edge) := by
  have hclock (c : Clock) : RegsKept [fStchCount_count, fDevPins_tick_out_on, fDevPins_tick_in_seen] s { s with clock := c } :=
    .of_eq rfl
  exact ((hclock _).addTo (f := fStchCount_count) 1 (by simp)).setAll _ (by simp [-Prod.forall])

theorem State.emitTick_within : Within [.regs, .clock] s (s.emitTick ref t edge) := (s.emitTick_keeps ref t edge).within

end

/-! ### Which command generates it -/

theorem exec_tick {s : State} (hdue : s.tickDue = true) (hsrc : s.sourceInForce = 0) :
    exec .tick s = .next (s.emitTick ((if s.stitch = 0 then s.clock.now else s.clock.tickAt + s.period) - tickDelay)
      (if s.stitch = 0 then s.clock.now else s.clock.tickAt + s.period) false) := by
  show execTick s = _
  rw [execTick, if_neg (by simp [hdue, hsrc])]

theorem exec_laceTickInEdge_near {s : State} {at_ : Nat} (hdue : s.tickDue = true) (hsrc : s.sourceInForce = 1)
    (hlo : s.edgeExpected ≤ at_ + 100) (hhi : at_ ≤ s.edgeExpected + 100) :
    exec (.laceTickInEdge at_) s =
      .next ({ s with clock := { s.clock with missedRun := 0 } }.emitTick at_ (at_ + tickDelay) true) := by
  have hrun : s.clock.running = true := by
    have := hdue
    simp only [State.tickDue, Bool.and_eq_true] at this
    exact this.1
  show execLaceTickInEdge at_ s = _
  rw [execLaceTickInEdge, if_neg (by simp [hrun, hsrc])]
  simp [hlo, hhi, hdue]

theorem exec_laceTickInEdge_stray {s : State} {at_ : Nat} (hrun : s.clock.running = true) (hsrc : s.sourceInForce = 1)
    (hfar : ¬(s.edgeExpected ≤ at_ + 100 ∧ at_ ≤ s.edgeExpected + 100)) :
    exec (.laceTickInEdge at_) s = .next (s.bump fStchStatus_stray_edges 1) := by
  show execLaceTickInEdge at_ s = _
  rw [execLaceTickInEdge, if_neg (by simp [hrun, hsrc])]
  exact if_neg (by simpa using hfar)

/-- The state in which the tick of a missed edge has been generated (R26). -/
def State.missedTick (s : State) : State :=
  { (s.set fStchStatus_tick_missed 1).bump fStchStatus_missed_count 1 with
    clock := { s.clock with missedRun := s.clock.missedRun + 1 } }.emitTick (s.edgeExpected + 100) (s.edgeExpected + 100 + tickDelay) false

theorem exec_missedEdge {s : State} (hdue : s.tickDue = true) (hsrc : s.sourceInForce = 1) :
    exec .missedEdge s = .next (if s.clock.missedRun + 1 < 16 then s.missedTick
      else (s.missedTick.set fStchStatus_fallback 1).event 0x1A 0x02 0 (s.missedTick.get fStchStatus_missed_count)) := by
  show execMissedEdge s = _
  rw [execMissedEdge, if_neg (by simp [hdue, hsrc])]
  exact (apply_ite _ _ _ _).symm

theorem State.get_missedTick (s : State) : s.missedTick.stitch = (s.stitch + 1) % 2 ^ fStchCount_count.width ∧
    s.missedTick.get fStchStatus_tick_missed = 1 ∧ s.missedTick.get fDevPins_tick_in_seen = 0 ∧
    s.missedTick.get fStchStatus_missed_count = satAdd fStchStatus_missed_count.width (s.get fStchStatus_missed_count) 1 := by
  have hsat (w x : Nat) : satAdd w x 1 % 2 ^ w = satAdd w x 1 :=
    Nat.mod_eq_of_lt (Nat.lt_of_le_of_lt (Nat.min_le_left _ _) (Nat.sub_lt (Nat.two_pow_pos w) one_pos))
  simp +decide [State.missedTick, State.emitTick, State.stitch, State.setAll, State.get_set, State.addTo, State.bump, hsat]

theorem State.missedTick_within (s : State) : Within [.regs, .clock] s s.missedTick := by
  have hcount : Within [.regs, .clock] s ((s.set fStchStatus_tick_missed 1).bump fStchStatus_missed_count 1) :=
    (s.set_keeps _ _).within.trans (State.bump_keeps _ _ _).within
  have hclock (u : State) (c : Clock) : Within [.regs, .clock] u { u with clock := c } :=
    ((Keeps.refl 2 u).setClock (by decide)).within
  exact (hcount.trans (hclock _ _)).trans (State.emitTick_within _ _ _ _)

theorem State.missedTick_regsKept (s : State) : RegsKept [fStchCount_count, fDevPins_tick_out_on, fDevPins_tick_in_seen,
    fStchStatus_tick_missed, fStchStatus_missed_count] s s.missedTick := by
  have hcount : RegsKept [fStchStatus_tick_missed, fStchStatus_missed_count] s
      ((s.set fStchStatus_tick_missed 1).bump fStchStatus_missed_count 1) :=
    ((RegsKept.refl _ s).set 1 (by simp)).bump 1 (by simp)
  have hclock (u : State) (c : Clock) : RegsKept [] u { u with clock := c } := .of_eq rfl
  exact ((hcount.mono (by simp)).trans ((hclock _ _).mono (by simp))).trans ((State.emitTick_regsKept _ _ _ _).mono (by simp))

theorem exec_jobAlignedTick {s : State} {k : Nat} (hdue : s.tickDue = true) (hsrc : s.sourceInForce = 2) :
    ∃ ref, exec (.jobAlignedTick k) s = .next ((({ s with outer := { s.outer with ptp := { s.outer.ptp with
      offset := s.outer.ptp.offset + s.phaseStep, pending := s.outer.ptp.pending - s.phaseStep } } }).set
        fOutJobStitch_stitch k).emitTick ref
          (max (((k * s.period : Nat) : Int) - (s.outer.ptp.offset + s.phaseStep)).toNat s.clock.now) false) := by
  refine ⟨max (((k * s.period : Nat) : Int) - (s.outer.ptp.offset + s.phaseStep)).toNat s.clock.now - tickDelay, ?_⟩
  show execJobAlignedTick k s = _
  rw [execJobAlignedTick, if_neg (by simp [hdue, hsrc])]
  rfl

theorem exec_of_not_due {s : State} (hdue : s.tickDue = false) :
    exec .tick s = .next s ∧ exec .missedEdge s = .next s ∧ ∀ k, exec (.jobAlignedTick k) s = .next s :=
  ⟨if_pos (by simp [hdue]), if_pos (by simp [hdue]), fun _ => if_pos (by simp [hdue])⟩

/-! ## The arrival of a tick at a die -/

/-- Of the clock only the run of missed edges has changed. -/
def ClockKept (s t : State) : Prop := ∃ n, t.clock = { s.clock with missedRun := n }

theorem ClockKept.of_eq {s t : State} (h : t.clock = s.clock) : ClockKept s t := ⟨s.clock.missedRun, h⟩

theorem Keeps.clockKept {m : Nat} {s t : State} (h : Keeps m s t) (hm : m.testBit 1 = false := by decide) : ClockKept s t :=
  .of_eq (h.clock hm)

theorem ClockKept.trans {s t u : State} (h : ClockKept s t) (g : ClockKept t u) : ClockKept s u := by
  obtain ⟨n, hn⟩ := h
  obtain ⟨k, hk⟩ := g
  exact ⟨k, by rw [hk, hn]⟩

theorem ClockKept.foldl {α : Type} {f : State → α → State} (hf : ∀ s a, ClockKept s (f s a)) (l : List α) (s : State) :
    ClockKept s (l.foldl f s) := by
  induction l generalizing s with
  | nil => exact .of_eq rfl
  | cons a l ih => exact (hf s a).trans (ih _)

theorem ClockKept.ite {s t u : State} {c : Prop} [Decidable c] (ht : ClockKept s t) (hu : ClockKept s u) :
    ClockKept s (if c then t else u) := by
  split
  · exact ht
  · exact hu

/-- A device last ends the run of missed edges, and leaves the rest of the clock (R56). -/
theorem State.applyDevice_clockKept (s : State) (l : DeviceLast) : ClockKept s (s.applyDevice l) := by
  have hplace : ClockKept s (s.placePartitions s.dev l) := (s.placePartitions_keeps _ _).clockKept
  have hset (u : State) (fs : List (Fld × Nat)) : ClockKept u (u.setAll fs) := (u.setAll_keeps fs).clockKept
  have hmove (u : State) (p : Nat) (ts : List Nat) : ClockKept u (u.moveTiles p ts) := (u.moveTiles_keeps p ts).clockKept
  have hports (u : State) (old : Option DeviceLast) :
      ClockKept u (((((List.range 8).foldl State.toPrimary u).applyWelts l).applyRoutes l).applyPorts old l) :=
    ClockKept.trans (.foldl (fun v d => (v.toPrimary_keeps d).clockKept) _ u)
      (((State.applyWelts_keeps _ l).clockKept.trans (State.applyRoutes_keeps _ l).clockKept).trans (State.applyPorts_keeps _ old l).clockKept)
  have hends (u : State) (old : Option DeviceLast) (first : Bool) :
      ClockKept u (((u.defineNew old l).applyPower l first).loadApplied) :=
    ((State.defineNew_keeps _ old l).clockKept.trans (State.applyPower_keeps _ l first).clockKept).trans (State.loadApplied_keeps _).clockKept
  unfold State.applyDevice
  refine ClockKept.trans ?_ (hends _ _ _)
  refine ClockKept.trans ?_ (.foldl (fun u p => .ite (hmove u p _) (.of_eq rfl)) _ _)
  refine ClockKept.trans ?_ (.foldl (fun u i => hset u _) _ _)
  refine ClockKept.trans (hplace.trans ?_) (hports _ _)
  refine ⟨0, ?_⟩
  simp only [State.setAll_clock]

theorem State.applyGroup_clockKept (s : State) (g : Nat) : ClockKept s (s.applyGroup g) := by
  unfold State.applyGroup
  split
  · exact .of_eq rfl
  next c _ =>
    have htake : ClockKept s (s.takeCommit c) := .of_eq rfl
    refine htake.trans (.ite (State.applyPwr_keeps _ _).clockKept (.ite (State.applyRings_keeps _ _ _).clockKept ?_))
    split
    · exact State.applyDevice_clockKept _ _
    · exact (State.applyPartition_keeps _ _).clockKept
    · exact .of_eq rfl

theorem State.applyCommits_clockKept (s : State) : ClockKept s s.applyCommits := by
  have hfold : ClockKept s (([17, 0] ++ (List.range 16).map (1 + ·) ++ (List.range 16).map (18 + ·)).foldl State.applyGroup s) :=
    .foldl State.applyGroup_clockKept _ s
  have hpower (u : State) (c : Prop) [Decidable c] (x : PowerSt) : ClockKept u (if c then u.setPower x else u) :=
    .ite (.of_eq rfl) (.of_eq rfl)
  exact (hfold.trans (hpower _ _ _)).trans (State.set_keeps _ _ _).clockKept

theorem State.deviceTick_clockKept (s : State) : ClockKept s s.deviceTick := by
  have hstart : ClockKept s s.tickVectors.freeHeld.bypassTick :=
    (s.tickVectors_keeps.clockKept.trans (State.freeHeld_keeps _).clockKept).trans (State.bypassTick_keeps _).clockKept
  have hover (u : State) (late : List Task) (b : Bool) : ClockKept u (u.overrun late b).powerMeasure.applyCommits :=
    ((u.overrun_keeps late b).clockKept.trans (State.powerMeasure_keeps _).clockKept).trans (State.applyCommits_clockKept _)
  have hreturn (u : State) : ClockKept u u.returnTick.sparesTick :=
    u.returnTick_keeps.clockKept.trans (State.sparesTick_keeps _).clockKept
  have hend (u : State) : ClockKept u u.replaysTick.jobTick.measureFuses :=
    (u.replaysTick_keeps.clockKept.trans (State.jobTick_keeps _).clockKept).trans (State.measureFuses_keeps _).clockKept
  unfold State.deviceTick
  refine ClockKept.trans ?_ (hend _)
  refine ClockKept.trans ?_ (.foldl (fun u p => (u.zeroTick_keeps p).clockKept.trans (State.movePending_keeps _ p).clockKept) _ _)
  refine ClockKept.trans ?_ (hreturn _)
  refine ClockKept.trans ?_ (.foldl (fun u k => (u.overrunRecord_keeps _ _ k).clockKept) _ _)
  refine ClockKept.trans ?_ (hover _ _ _)
  refine ClockKept.trans ?_ (.foldl (fun u p => (u.partTick_keeps p).clockKept) _ _)
  exact hstart.trans (.foldl (fun u k => (u.endQuietly_keeps k).clockKept) _ _)

/-- What follows the device's own tick: the die marks the tick as arrived (R30). -/
def State.arriveDie (s : State) (d : Nat) : State :=
  let s := s.set (fLaceStatus_skew_ns d) (s.skewNs d)
  ({ s with clock := { s.clock with arrived := setBit s.clock.arrived d } }.dieTick d).allArrived

theorem State.arriveDie_clock (s : State) (d : Nat) :
    (s.arriveDie d).clock = { s.clock with arrived := setBit s.clock.arrived d } :=
  ((State.allArrived_keeps _).clock (by decide)).trans ((State.dieTick_keeps _ d).clock (by decide))

theorem State.arriveDie_within (s : State) (d : Nat) :
    Within [.regs, .clock, .cfg, .tile, .coh, .eyelets, .dram, .mem, .uci, .outer, .part, .flt, .power, .out, .free] s (s.arriveDie d) := by
  have hclock (u : State) (c : Clock) : Keeps 2 u { u with clock := c } := (Keeps.refl 2 u).setClock (by decide)
  exact (((State.set_keeps _ _ _).within.trans (hclock _ _).within).trans (State.dieTick_keeps _ d).within).trans
    (State.allArrived_keeps _).within

theorem State.arriveAt_of_later {s : State} (d : Nat) (h : s.clock.arrived ≠ 0) : s.arriveAt d = s.arriveDie d := by
  rw [State.arriveAt, if_neg h]; rfl

theorem State.arriveAt_of_first {s : State} (d : Nat) (h : s.clock.arrived = 0) :
    s.arriveAt d = State.arriveDie ({ s with clock := { s.clock with slackOpen := false } }.deviceTick) d := by
  simp only [State.arriveAt, State.arriveDie, if_pos h]

theorem exec_tickArrival {s : State} {d : Die} (hrun : s.clock.running = true) (hstitch : s.stitch ≠ 0)
    (harr : s.clock.arrived.testBit d.val = false) :
    exec (.tickArrival d) s = .next ((s.advanceTo (s.clock.tickAt + 64)).arriveAt d.val) := by
  show execTickArrival d s = _
  rw [execTickArrival, if_neg (by simp [hrun, hstitch, harr])]
  rfl

/-- The first arrival of a tick closes the slack window and runs the device's tick. -/
theorem State.arriveAt_clock_of_first {s : State} (d : Nat) (h : s.clock.arrived = 0) : (s.arriveAt d).clock =
    { s.clock with arrived := setBit 0 d, slackOpen := false, missedRun := (s.arriveAt d).clock.missedRun } := by
  obtain ⟨n, hn⟩ := State.deviceTick_clockKept { s with clock := { s.clock with slackOpen := false } }
  rw [State.arriveAt_of_first d h, State.arriveDie_clock, hn]
  simp only [h]

/-! ## The issue point and the slack window -/

/-- What the issue point does beside the clock (R31, R382). -/
def State.issueSteps (s : State) : State :=
  let s := (List.range 16).foldl State.scheduleLate s
  let s := (s.tile.tasks.filter fun k => k.phase == .placed).foldl (fun s k => (s.startTask k).ranStep k) s
  (List.range 16).foldl State.startSave s

theorem State.issueSteps_keeps (s : State) : Keeps 88145733 s s.issueSteps := by
  unfold State.issueSteps
  refine Keeps.foldl (Keeps.foldl (Keeps.foldl (.refl _ s) fun u p => ?_) fun u k => ?_) fun u p => ?_
  · exact (u.scheduleLate_keeps p).mono (by decide)
  · exact (State.ranStep_keeps _ k).after ((u.startTask_keeps k).mono (by decide)) (by decide)
  · exact (u.startSave_keeps p).mono (by decide)

theorem exec_issuePoint {s : State} (hrun : s.clock.running = true) (hissued : s.clock.issued = false)
    (harr : s.clock.arrived = 255) : ∃ u : State, exec .issuePoint s = .next u.issueSteps ∧
      u.clock = { (s.advanceTo (s.clock.tickAt + 64 + 200)).clock with issued := true } ∧ Within [.clock] s u := by
  have htime : s.tickArrival + 200 = s.clock.tickAt + 64 + 200 := rfl
  refine ⟨{ s.advanceTo (s.tickArrival + 200) with
    clock := { (s.advanceTo (s.tickArrival + 200)).clock with issued := true } }, ?_, by rw [htime],
    (((s.advanceTo_keeps _).setClock (by decide)).within)⟩
  show execIssuePoint s = _
  rw [execIssuePoint, if_neg (by simp [hrun, hissued, harr])]
  simp only [State.issueSteps]

/-- What the opening of the slack window does beside the clock (R32, R293). -/
def State.slackSteps (s : State) (found : List EccFound) : State :=
  let s := (List.range 16).foldl State.rotatePointers s
  let forced := s.forcedScrubs
  ((s.scrub found).slices forced).loaderCommit

theorem State.slackSteps_keeps (s : State) (found : List EccFound) : Keeps 88178509 s (s.slackSteps found) := by
  have hrotate : Keeps 88178509 s ((List.range 16).foldl State.rotatePointers s) :=
    Keeps.foldl (.refl _ s) fun u p => (u.rotatePointers_keeps p).mono (by decide)
  exact (State.loaderCommit_keeps _).after
    ((State.slices_keeps _ _).after ((State.scrub_keeps _ _).after hrotate (by decide)) (by decide)) (by decide)

theorem exec_slackWindowOpen {s : State} (found : List EccFound) (hrun : s.clock.running = true) (hissued : s.clock.issued = true)
    (hopen : s.clock.slackOpen = false) : ∃ u : State, exec (.slackWindowOpen found) s = .next (u.slackSteps found) ∧
      u.clock = { (s.advanceTo s.windowAt).clock with slackOpen := true } ∧ Within [.clock] s u := by
  refine ⟨{ s.advanceTo s.windowAt with clock := { (s.advanceTo s.windowAt).clock with slackOpen := true } }, ?_, rfl,
    (((s.advanceTo_keeps _).setClock (by decide)).within)⟩
  show execSlackWindowOpen found s = _
  rw [execSlackWindowOpen, if_neg (by simp [hrun, hissued, hopen])]
  rfl

theorem State.windowAt_eq (s : State) : s.windowAt =
    (if s.sourceInForce = 1 then s.clock.refAt + s.period + 20 else s.clock.tickAt + s.period) + 64 - s.slackLen := rfl

/-! ## The parent of a die on the lace -/

theorem laceParents_isSome {d : Die} (h : d.val ≠ 0) : (laceParents d.val).isSome = true :=
  (by decide : ∀ d : Die, d.val ≠ 0 → (laceParents d.val).isSome = true) d h

theorem exec_laceParentTimeout {s : State} {d : Die} (ok : Bool) (skew : BitVec 8) (hd : d.val ≠ 0)
    (hnow : s.get (fLaceStatus_parent d) = 0) : ∃ t, exec (.laceParentTimeout d ok skew) s = .next t ∧
      t.get (fLaceStatus_parent d) = (if ok = true then 1 else 2) ∧ t.clock = s.clock := by
  have hparents : (laceParents d.val).isNone = false := by simp [laceParents_isSome hd]
  have hexec : exec (.laceParentTimeout d ok skew) s = .next (((s.setAll [(fLaceStatus_parent d, if ok then 1 else 2),
      (fLaceStatus_skew_ns d, skew.toNat)]).bump (fLaceStatus_switches d) 1).event d 0x03 (if ok then 1 else 2) skew.toNat) := by
    show execLaceParentTimeout d ok skew s = _
    rw [execLaceParentTimeout, hnow, if_neg (by simp [hparents])]
    rfl
  refine ⟨_, hexec, ?_, ?_⟩
  · rw [State.get_event (g := fLaceStatus_parent d) (Fld.offEvents_of_die _ _ _ _)]
    cases ok <;> simp [State.setAll, State.get_set, State.bump, Fld.key, fLaceStatus_parent, fLaceStatus_skew_ns, fLaceStatus_switches]
  · rw [(State.event_keeps _ _ _ _ _ _).clock (by decide)]
    rfl

/-! ## The statement -/

/-- Settles O2: each command of the generator and of the stitch runs in one branch, on the clock that the state leaves it. -/
theorem ticks : Obligations.Ticks := by
  unfold Obligations.Ticks
  refine ⟨⟨?tick, ?edge, fun s at_ => exec_laceTickInEdge_stray, ?missed, ?fallback, ?rearm, ?aligned, fun s => exec_of_not_due⟩,
    ?later, ?first, ?issue, ?slack, ?arrived, ?issued, ?opened, fun s d ok skew => exec_laceParentTimeout ok skew⟩
  case tick =>
    intro s hdue hsrc
    obtain ⟨hout, hseen⟩ := s.get_emitTick_pins ((if s.stitch = 0 then s.clock.now else s.clock.tickAt + s.period) - tickDelay)
      (if s.stitch = 0 then s.clock.now else s.clock.tickAt + s.period) false
    exact ⟨_, exec_tick hdue hsrc, s.emitTick_stitch _ _ _, rfl, rfl, rfl, rfl, hout, hseen, s.emitTick_within _ _ _,
      s.emitTick_regsKept _ _ _⟩
  case edge =>
    intro s at_ hdue hsrc hlo hhi
    have hdelay : 18 ≤ tickDelay ∧ tickDelay ≤ 22 := by unfold tickDelay; omega
    refine ⟨_, exec_laceTickInEdge_near hdue hsrc hlo hhi, State.emitTick_stitch _ _ _ _, rfl, ?_, ?_, rfl, rfl,
      (State.get_emitTick_pins _ _ _ _).2, ?_, ?_⟩
    · rw [State.emitTick_clock]; dsimp only; omega
    · rw [State.emitTick_clock]; dsimp only; omega
    · exact Within.trans ((Keeps.refl 2 s).setClock (by decide)).within (State.emitTick_within _ _ _ _)
    · exact RegsKept.trans (.of_eq rfl) (State.emitTick_regsKept _ _ _ _)
  case missed =>
    intro s hdue hsrc hrun
    obtain ⟨hstitch, hmissed, hseen, hcount⟩ := s.get_missedTick
    refine ⟨s.missedTick, ?_, hstitch, rfl, rfl, hmissed, hseen, hcount, ?_, s.missedTick_regsKept⟩
    · rw [exec_missedEdge hdue hsrc, if_pos hrun]
    · exact s.missedTick_within
  case fallback =>
    intro s hdue hsrc hrun
    have hmissed := s.get_missedTick.2.1
    refine ⟨_, by rw [exec_missedEdge hdue hsrc, if_neg (by omega)], ?_, ?_, ?_⟩
    · rw [State.get_event (by decide), State.get_set_same]; rfl
    · rw [State.get_event (by decide), State.get_set_ne _ _ (by decide), hmissed]
    · exact (s.missedTick_within.mono.trans (State.set_keeps _ _ _).within).trans (State.event_keeps _ _ _ _ _ _).within
  case rearm =>
    intro s
    obtain ⟨hfallback, hcount, hstray⟩ := s.get_setAll_three (f := fStchStatus_fallback) (g := fStchStatus_missed_count)
      (h := fStchStatus_stray_edges) 0 0 0 (by decide) (by decide) (by decide)
    exact ⟨s.rearm, rfl, rfl, hfallback, hcount, hstray, s.rearm_keeps.within,
      RegsKept.trans ((RegsKept.refl _ s).setAll _ (by simp [-Prod.forall])) (.of_eq rfl)⟩
  case aligned =>
    intro s k hdue hsrc
    obtain ⟨ref, hexec⟩ := exec_jobAlignedTick hdue hsrc (k := k)
    refine ⟨_, hexec, ?_, ?_, rfl, rfl, ?_, ?_⟩
    · rw [State.emitTick_stitch, State.stitch, State.get_set_ne _ _ (by decide)]; rfl
    · rw [(State.emitTick_regsKept _ _ _ _).get (by decide), State.get_set_same]
    · have houter (o : OutSt) : Within [.regs, .clock, .outer] s { s with outer := o } :=
        ((Keeps.refl 4096 s).setOuter (by decide)).within
      exact ((houter _).trans (State.set_keeps _ _ _).within).trans (State.emitTick_within _ _ _ _).mono
    · have houter (o : OutSt) : RegsKept [fOutJobStitch_stitch] s { s with outer := o } := .of_eq rfl
      exact (((houter _).set k (by simp)).mono (by simp)).trans ((State.emitTick_regsKept _ _ _ _).mono (by simp))
  case later =>
    intro s d hrun hstitch hlater harr
    have harrive := State.arriveAt_of_later (s := s.advanceTo (s.clock.tickAt + 64)) d.val hlater
    refine ⟨_, exec_tickArrival hrun hstitch harr, ?_, ?_⟩
    · rw [harrive, State.arriveDie_clock]; rfl
    · rw [harrive]
      exact (s.advanceTo_keeps _).within.trans (State.arriveDie_within _ _)
  case first =>
    intro s d hrun hstitch hfirst
    have hexec := exec_tickArrival (d := d) hrun hstitch (by rw [hfirst]; exact Nat.zero_testBit _)
    exact ⟨_, hexec, State.arriveAt_clock_of_first (s := s.advanceTo _) _ hfirst, exec_pending hexec⟩
  case issue =>
    intro s hrun hissued harr
    obtain ⟨u, hexec, hclock, hu⟩ := exec_issuePoint hrun hissued harr
    exact ⟨_, hexec, (u.issueSteps_keeps.clock (by decide)).trans hclock, hu.mono.trans u.issueSteps_keeps.within⟩
  case slack =>
    intro s found hrun hissued hopen
    obtain ⟨u, hexec, hclock, hu⟩ := exec_slackWindowOpen found hrun hissued hopen
    exact ⟨_, hexec, ((u.slackSteps_keeps found).clock (by decide)).trans hclock, hu.mono.trans (u.slackSteps_keeps found).within⟩
  case arrived =>
    intro s d h
    exact if_pos (by simp [h])
  case issued =>
    intro s h
    exact if_pos (by simp [h])
  case opened =>
    intro s found h
    exact if_pos (by simp [h])

end Sys2Proof.Machine

/-! SUPPORT. Writes of LDR_CTRL (R54): the statement O3 fails in its last clause. A load that ends gives up its commit (R53), so a state
that holds one while the loader fetches loses it. -/

namespace Sys2Proof.Machine

set_option Elab.async false

/-- What an ended load holds, and how it reports itself (R53). -/
theorem State.endLoad_ldr (s : State) (error check : Nat) :
    (s.endLoad error check).ldr = { s.ldr with staged := none, committed := false } := by
  obtain ⟨u, hu, heq⟩ : ∃ u : State, u.ldr = { s.ldr with staged := none, committed := false } ∧ s.endLoad error check =
      ((u.setAll [(fLdrStatus_state, 7), (fLdrStatus_error, error), (fLdrStatus_check, check)]).event
        0x19 0x1A 7 (error * 256 + check)).fire 0 0 := ⟨_, rfl, rfl⟩
  rw [heq, (State.fire_keeps _ _ _).ldr (by decide), (State.event_keeps _ _ _ _ _ _).ldr (by decide), State.setAll_ldr, hu]

/-- With every read of the image over, an image that could not be fetched ends the load with FETCH (R48). -/
theorem exec_loadComplete_unfetched {s : State} (img : List Byte) (hstate : s.get fLdrStatus_state = 1)
    (hready : s.imageReady 0 = true) (hrestart : s.uciRestarts = false) :
    exec (.loadComplete img false) s = .next (s.endLoad 0x0C 0) := by
  show execLoadComplete img false s = _
  rw [execLoadComplete, if_neg (by simp [hstate, hready, hrestart])]
  rfl

/-- A loader that fetches while it still holds a commit. -/
def fetchingCommitted : State := { State.reset with ldr := { committed := true } }.set fLdrStatus_state 1

/-- Refutes O3: the last clause keeps `ldr.committed` where a load ends in error, and the end of a load clears it. -/
theorem not_loaderControl : ¬ Obligations.LoaderControl := by
  unfold Obligations.LoaderControl
  rintro ⟨-, -, -, -, -, -, -, -, -, hunfetched⟩
  have hstate : fetchingCommitted.get fLdrStatus_state = 1 := State.get_set_same _ _ _
  have hready : fetchingCommitted.imageReady 0 = true := rfl
  have hrestart : fetchingCommitted.uciRestarts = false := by decide
  obtain ⟨t, hexec, -, -, -, hcommitted⟩ := hunfetched fetchingCommitted [] hstate hready hrestart
  rw [exec_loadComplete_unfetched [] hstate hready hrestart] at hexec
  obtain rfl := Host.Outcome.next.inj hexec
  rw [State.endLoad_ldr] at hcommitted
  exact absurd hcommitted (by decide)

end Sys2Proof.Machine

/-! SUPPORT. The end of a load (R48, R53): the statement O4. The checks of a last read nothing that the loader's own registers hold. -/

namespace Sys2Proof.Machine

set_option Elab.async false

/-! ## The loader's registers -/

/-- The field lies outside LDR_STATUS, LDR_SEQ_DEVICE and LDR_MEAS (R66). -/
def Fld.offLoader (f : Fld) : Bool := f.key < 0x2018 * 64 || 0x2060 * 64 ≤ f.key

theorem Fld.offLoader_of_die {k : RegKind} (d i lo w : Nat) (hk : k.space = .die := by rfl) :
    (Fld.mk (k.addr d i) lo w).offLoader = true := by
  have haddr := RegKind.le_addr_of_die d i hk
  have hkey : 0x2060 * 64 ≤ k.addr d i * 64 + lo := by omega
  exact Bool.or_eq_true_iff.2 (.inr (decide_eq_true hkey))

/-- The states agree but for registers of the loader. -/
def LoaderOnly (s t : State) : Prop := (∃ r, t = { s with regs := r }) ∧ ∀ f : Fld, f.offLoader = true → t.get f = s.get f

theorem LoaderOnly.refl (s : State) : LoaderOnly s s := ⟨⟨s.regs, rfl⟩, fun _ _ => rfl⟩

theorem LoaderOnly.trans {s t u : State} (h : LoaderOnly s t) (g : LoaderOnly t u) : LoaderOnly s u := by
  obtain ⟨⟨r, rfl⟩, hget⟩ := h
  obtain ⟨⟨r', rfl⟩, hget'⟩ := g
  exact ⟨⟨r', rfl⟩, fun f hf => (hget' f hf).trans (hget f hf)⟩

theorem LoaderOnly.symm {s t : State} (h : LoaderOnly s t) : LoaderOnly t s := by
  obtain ⟨⟨r, rfl⟩, hget⟩ := h
  exact ⟨⟨s.regs, rfl⟩, fun f hf => (hget f hf).symm⟩

theorem loaderOnly_set (s : State) {f : Fld} (v : Nat) (hf : f.offLoader = false) : LoaderOnly s (s.set f v) := by
  refine ⟨⟨_, rfl⟩, fun g hg => State.get_set_ne s v fun heq => ?_⟩
  rw [Fld.offLoader, heq, ← Fld.offLoader, hf] at hg
  cases hg

theorem loaderOnly_setAll (s : State) {l : List (Fld × Nat)} (hl : ∀ x ∈ l, x.1.offLoader = false) : LoaderOnly s (s.setAll l) := by
  induction l generalizing s with
  | nil => exact .refl s
  | cons x l ih => exact (loaderOnly_set s x.2 (hl x (by simp))).trans (ih _ fun y hy => hl y (by simp [hy]))

theorem hashWords_offLoader (m : List Byte) : ∀ x ∈ hashWords fLdrMeas_hash m, x.1.offLoader = false := by
  intro x hx
  obtain ⟨i, hi, rfl⟩ := List.mem_map.1 hx
  exact (by decide : ∀ i < 4, (fLdrMeas_hash i).offLoader = false) i (List.mem_range.1 hi)

/-! ## What the checks of a last read -/

section
variable {s t : State} (h : LoaderOnly s t)
include h

theorem LoaderOnly.weltMode (w g : Nat) : t.weltMode w g = s.weltMode w g :=
  h.2 _ (Fld.offLoader_of_die _ _ _ _)

theorem LoaderOnly.lastMux (l : DeviceLast) : t.lastMux l = s.lastMux l := by
  funext w
  simp only [State.lastMux, h.weltMode]

theorem LoaderOnly.routerDead (d site : Nat) : t.routerDead d site = s.routerDead d site := by
  have hget : t.get (fMeshDead_dead d (site / 64) (site % 64)) = _ := h.2 _ (Fld.offLoader_of_die _ _ _ _)
  simp only [State.routerDead, State.flag, hget]

theorem LoaderOnly.linkDead : t.linkDead = s.linkDead := by
  obtain ⟨⟨r, rfl⟩, -⟩ := h
  rfl

theorem LoaderOnly.joined : t.joined = s.joined := by
  funext tab mux a b
  have hhops : t.hopsLive = s.hopsLive := by
    funext d x hs
    simp only [State.hopsLive, h.routerDead, h.linkDead]
  simp only [State.joined, hhops]

theorem LoaderOnly.routesAgree (l : DeviceLast) : t.routesAgree l = s.routesAgree l := by
  have hsoft : t.withSoftRepairs = s.withSoftRepairs := by
    obtain ⟨⟨r, rfl⟩, -⟩ := h
    rfl
  simp only [State.routesAgree, h.lastMux, h.joined, hsoft]

theorem LoaderOnly.devNext : t.devNext = s.devNext := by
  obtain ⟨⟨r, rfl⟩, -⟩ := h
  rfl

theorem LoaderOnly.lastOf : t.lastOf = s.lastOf := by
  obtain ⟨⟨r, rfl⟩, -⟩ := h
  rfl

theorem LoaderOnly.stitchNext : t.stitchNext = s.stitchNext := by
  simp only [State.stitchNext, h.devNext, h.2 fStchPeriod_period_us (by decide), h.2 fStchSlack_slack_permille (by decide),
    h.2 fStchSource_source (by decide)]

theorem LoaderOnly.deviceChecks (l : DeviceLast) : t.deviceChecks l = s.deviceChecks l := by
  simp only [State.deviceChecks, h.devNext, h.stitchNext, h.lastOf, h.routesAgree]

theorem LoaderOnly.holdsTile : t.holdsTile = s.holdsTile := by
  have hcol (d y : Nat) : t.repairCol d y = s.repairCol d y := by
    have hvalid : t.get (fMeshRepair_valid d (y / 8) (y % 8)) = _ := h.2 _ (Fld.offLoader_of_die _ _ _ _)
    have hx : t.get (fMeshRepair_x d (y / 8) (y % 8)) = _ := h.2 _ (Fld.offLoader_of_die _ _ _ _)
    rw [State.repairCol, State.repairCol, State.flag, State.flag, hvalid, hx]
  funext entry d x y
  simp only [State.holdsTile, State.serves, hcol]

theorem LoaderOnly.portBelongs (p : Nat) (entry : List Byte) (d x y port : Nat) :
    t.portBelongs p entry d x y port = s.portBelongs p entry d x y port := by
  have howner (d i j : Nat) : t.get (fWeltOwner_partition d i j) = s.get (fWeltOwner_partition d i j) :=
    h.2 _ (Fld.offLoader_of_die _ _ _ _)
  simp only [State.portBelongs, h.holdsTile, h.weltMode, howner]

theorem LoaderOnly.slots : t.slots = s.slots := by
  simp only [State.slots, State.period, State.slackLen, h.2 fStchPeriod_period_us (by decide),
    h.2 fStchSlack_slack_permille (by decide)]

theorem LoaderOnly.recordLinks : t.recordLinks = s.recordLinks := by
  have hdead : t.portDead = s.portDead := by
    funext d x y p plane
    simp only [State.portDead, h.routerDead, h.linkDead]
  funext a x
  simp only [State.recordLinks, hdead, State.ownsThird, h.slots]

theorem LoaderOnly.schedCheck (p : Nat) (entry : List Byte) (sh : Shape) : t.schedCheck p entry sh = s.schedCheck p entry sh := by
  have htiles : t.shapeTiles = s.shapeTiles := by
    funext entry sh anchor
    rw [State.shapeTiles, State.shapeTiles, h.holdsTile]
  have hports : t.portBelongs = s.portBelongs := by
    funext p entry d x y port
    exact h.portBelongs p entry d x y port
  rw [State.schedCheck, State.schedCheck, htiles, h.recordLinks, hports]

theorem LoaderOnly.jobRoleFails (l : PartLast) : t.jobRoleFails l = s.jobRoleFails l := by
  simp only [State.jobRoleFails, State.pagesNext, h.devNext, h.stitchNext, h.lastOf]

theorem LoaderOnly.lastChecks (l : Last) : t.lastChecks l = s.lastChecks l := by
  cases l with
  | device l => exact h.deviceChecks l
  | partition l => simp only [State.lastChecks, State.partChecks, h.devNext, h.stitchNext, h.schedCheck, h.jobRoleFails]

theorem LoaderOnly.keyError (img : List Byte) : t.keyError img = s.keyError img := by
  obtain ⟨⟨r, rfl⟩, -⟩ := h
  rfl

theorem LoaderOnly.bindError (img : List Byte) : t.bindError img = s.bindError img := by
  obtain ⟨⟨r, rfl⟩, -⟩ := h
  rfl

theorem LoaderOnly.decodeLast (img m : List Byte) : t.decodeLast img m = s.decodeLast img m := by
  obtain ⟨⟨r, rfl⟩, -⟩ := h
  rfl

end

/-! ## The codes of the errors (R53) -/

theorem headError_lt (img : List Byte) : headError img < 256 := by
  unfold headError
  grind

theorem lengthError_cases (img : List Byte) : lengthError img = 0 ∨ lengthError img = 3 := by
  unfold lengthError
  grind

theorem State.bindError_lt (s : State) (img : List Byte) : s.bindError img < 256 := by
  rw [State.bindError]
  split_ifs <;> decide

theorem State.decodeLast_error_lt {s : State} {img m : List Byte} {e : Nat} (h : s.decodeLast img m = .error e) : e < 256 := by
  unfold State.decodeLast at h
  grind

/-! ## The two ends of a load -/

/-- The load has ended in REJECTED with the error `e` (R53). -/
def State.loadFailed (t : State) (e : Nat) : Prop :=
  t.get fLdrStatus_state = 7 ∧ t.get fLdrStatus_error = e ∧ t.ldr.staged = none

theorem State.endLoad_loadFailed (s : State) {e : Nat} (check : Nat) (he : e < 256) : (s.endLoad e check).loadFailed e := by
  obtain ⟨hstate, herror, -⟩ := s.get_endLoad e check
  exact ⟨hstate, herror.trans (Nat.mod_eq_of_lt he), s.endLoad_staged e check⟩

/-- The load holds the last `l`, STAGED or, with auto_apply, APPLY_PENDING (R54). -/
def State.loadHolds (t : State) (l : Last) : Prop :=
  t.get fLdrStatus_state = (if t.get fLdrCtrl_auto_apply = 1 then 5 else 4) ∧ t.ldr.staged = some l

/-- With auto_apply the load goes on from STAGED to APPLY_PENDING (R54). -/
theorem State.loadHolds_of_staged {v : State} {l : Last} (hstate : v.get fLdrStatus_state = 4) (hstaged : v.ldr.staged = some l) :
    State.loadHolds (if v.flag fLdrCtrl_auto_apply then v.set fLdrStatus_state 5 else v) l := by
  rw [State.loadHolds]
  cases hauto : v.flag fLdrCtrl_auto_apply with
  | true =>
    have hone : v.get fLdrCtrl_auto_apply = 1 := by simpa [State.flag] using hauto
    simp +decide [State.get_set, hone, hstaged]
  | false =>
    have hne : v.get fLdrCtrl_auto_apply ≠ 1 := by simpa [State.flag] using hauto
    simp [hne, hstate, hstaged]

theorem State.stage_loadHolds (s : State) (l : Last) : (s.stage l).loadHolds l := by
  unfold State.stage
  extract_lets +onlyGivenNames src ldr u v
  have hstaged : u.ldr.staged = some l := rfl
  apply State.loadHolds_of_staged
  · rw [State.get_congr (State.fire_regs _ 0 0), State.get_event (by decide), State.get_set_same]; rfl
  · rw [(State.fire_keeps _ _ _).ldr (by decide), (State.event_keeps _ _ _ _ _ _).ldr (by decide), State.set_ldr, hstaged]

/-- What a verdict says of the state in which the load has ended. -/
def State.endsAs (t : State) : Except Nat Last → Prop
  | .error e => t.loadFailed e
  | .ok l => t.loadHolds l

/-- Steps 5 to 8, after the measurement and the partition are recorded (R48). -/
def State.verifiedVerdict (s : State) (img : List Byte) : Except Nat Last :=
  if s.bindError img ≠ 0 then .error (s.bindError img)
  else match s.decodeLast img (sha256 (img.take (img.length - 384))) with
    | .error e => .error e
    | .ok l => if s.lastChecks l = [] then .ok l else .error 0x0B

theorem LoaderOnly.verifiedVerdict {s t : State} (h : LoaderOnly s t) (img : List Byte) :
    t.verifiedVerdict img = s.verifiedVerdict img := by
  rw [State.verifiedVerdict, State.verifiedVerdict, h.bindError, h.decodeLast]
  simp only [h.lastChecks]

theorem State.loadVerdict_of_verified {u : State} {img : List Byte} (hhead : headError img = 0) (hlength : lengthError img = 0)
    (hkey : u.keyError img = 0) (hsig : signatureOk (img.drop (img.length - 1024)) (img.take (img.length - 384)) = true) :
    u.loadVerdict img = u.verifiedVerdict img := by
  rw [State.verifiedVerdict]
  unfold State.loadVerdict
  extract_lets m w
  have hw : LoaderOnly u w := ((loaderOnly_set _ _ (by decide)).trans (loaderOnly_setAll _ (hashWords_offLoader m))).trans
    (loaderOnly_set _ _ (by decide))
  simp only [hhead, hlength, hkey, hsig, ne_eq, not_true, if_false, Bool.not_true, Bool.false_eq_true, hw.lastChecks]
  rfl

theorem State.verified_endsAs (s : State) (img : List Byte) :
    State.endsAs (if s.bindError img ≠ 0 then s.endLoad (s.bindError img) 0
      else match s.decodeLast img (sha256 (img.take (img.length - 384))) with
        | .error e => s.endLoad e 0
        | .ok l => match s.pick 0 (s.lastChecks l) with
          | (0, s) => s.stage l
          | (code, s) => s.endLoad 0x0B code) (s.verifiedVerdict img) := by
  rw [State.verifiedVerdict]
  split
  · exact s.endLoad_loadFailed 0 (s.bindError_lt img)
  split
  · next e he => exact s.endLoad_loadFailed 0 (State.decodeLast_error_lt he)
  · next l hl =>
    by_cases hnil : s.lastChecks l = []
    · simp only [hnil, State.pick, if_true]
      exact s.stage_loadHolds l
    · have hmem := s.pick_mem 0 hnil
      have hcode := State.lastChecks_ne_zero hmem
      rw [if_neg hnil]
      split
      · next heq => exact absurd (congrArg Prod.fst heq) hcode
      · exact State.endLoad_loadFailed _ _ (by decide)

theorem State.loadVerified_endsAs (s : State) (img : List Byte) : ∃ w, LoaderOnly s w ∧ (s.loadVerified img).endsAs (w.verifiedVerdict img) := by
  unfold State.loadVerified
  extract_lets m v w
  have hv : LoaderOnly s v := loaderOnly_setAll _ (hashWords_offLoader m)
  have hw : LoaderOnly s w := by
    dsimp only [w]
    split
    · exact hv.trans (loaderOnly_set _ _ (by decide))
    · exact hv
  exact ⟨w, hw, w.verified_endsAs img⟩

theorem State.loadCheck_endsAs (u : State) (img : List Byte) : (u.loadCheck img).endsAs (u.loadVerdict img) := by
  unfold State.loadCheck
  extract_lets e w
  have hw : LoaderOnly u w := loaderOnly_set _ _ (by decide)
  by_cases hhead : headError img = 0
  swap
  · rw [if_pos hhead, State.loadVerdict, if_pos hhead]
    exact u.endLoad_loadFailed 0 (headError_lt img)
  rw [if_neg (not_not.2 hhead)]
  by_cases hlength : lengthError img = 0
  swap
  · have hthree : lengthError img = 3 := (lengthError_cases img).resolve_left hlength
    rw [if_pos hlength, State.loadVerdict, if_neg (not_not.2 hhead), if_pos hlength, hthree]
    exact w.endLoad_loadFailed 0 (by decide)
  rw [if_neg (not_not.2 hlength), hw.keyError]
  by_cases hkey : u.keyError img = 0
  swap
  · rw [if_pos hkey, State.loadVerdict, if_neg (not_not.2 hhead), if_neg (not_not.2 hlength), if_pos hkey]
    exact w.endLoad_loadFailed 0 (by decide)
  rw [if_neg (not_not.2 hkey)]
  cases hsig : signatureOk (img.drop (img.length - 1024)) (img.take (img.length - 384)) with
  | false =>
    rw [State.loadVerdict, if_neg (not_not.2 hhead), if_neg (not_not.2 hlength), if_neg (not_not.2 hkey),
      if_pos (by simp), if_pos (by simp [hsig])]
    exact w.endLoad_loadFailed 0 (by decide)
  | true =>
    rw [if_neg (by simp)]
    obtain ⟨x, hx, hends⟩ := w.loadVerified_endsAs img
    rw [State.loadVerdict_of_verified hhead hlength hkey hsig, ← (hw.trans hx).verifiedVerdict]
    exact hends

/-! ## The statement -/

theorem execLoadComplete_of_ready {s : State} (hostImage : List Byte) (fetched : Bool) (hstate : s.get fLdrStatus_state = 1)
    (hready : s.imageReady 0 = true) (huci : s.uciRestarts = false) :
    exec (.loadComplete hostImage fetched) s =
      match s.fetchImage (s.flag fLdrCtrl_host) (64 * s.get fLdrAddr_addr) (s.get fLdrLen_len) hostImage
        (fetched && !s.sec.badReads.contains 0) with
      | (none, s) => .next (s.endLoad 0x0C 0)
      | (some img, s) => .next (s.loadCheck img) := by
  show execLoadComplete hostImage fetched s = _
  rw [execLoadComplete, if_neg (by simp [hstate, hready, huci])] <;> rfl

/-- Settles O4: the checks of the list in their order, each of which reads nothing that the checks before it have recorded. -/
theorem loadEnds : Obligations.LoadEnds := by
  refine ⟨fun s u hostImage img fetched hstate hready huci hfetch => ?_, fun s u hostImage fetched hstate hready huci hfetch => ?_,
    fun s hostImage fetched hoff => ?_⟩
  · refine ⟨u.loadCheck img, by rw [execLoadComplete_of_ready _ _ hstate hready huci, hfetch], ?_⟩
    have hends := u.loadCheck_endsAs img
    generalize u.loadVerdict img = verdict at hends
    cases verdict <;> exact hends
  · exact ⟨u.endLoad 0x0C 0, by rw [execLoadComplete_of_ready _ _ hstate hready huci, hfetch],
      u.endLoad_loadFailed 0 (by decide)⟩
  · show execLoadComplete hostImage fetched s = _
    rw [execLoadComplete, if_pos (by simpa [or_assoc] using hoff)]

end Sys2Proof.Machine

/-! SUPPORT. Tiles and groups: what a read returns after a write, what reconvergence leaves alone, how an instruction is fetched. -/

namespace Sys2Proof.Machine

set_option Elab.async false

/-! ## Tiles and groups -/

theorem State.tileAt_setTile (s : State) (t t' : Nat) (x : Tile) :
    (s.setTile t x).tileAt t' = if t' = t then x else s.tileAt t' := mapGet_mapSet ..

@[simp] theorem State.tileAt_setTile_same (s : State) (t : Nat) (x : Tile) : (s.setTile t x).tileAt t = x := by
  rw [State.tileAt_setTile, if_pos rfl]

@[simp] theorem State.groupAt_setGroup_same (s : State) (t g : Nat) (x : Group) : (s.setGroup t g x).groupAt t g = x := by
  rw [State.groupAt, State.setGroup, State.tileAt_setTile_same]
  exact mapGet_mapSet_same ..

theorem State.groupAt_setGroup_ne (s : State) (t : Nat) {g h : Nat} (x : Group) (hne : h ≠ g) :
    (s.setGroup t g x).groupAt t h = s.groupAt t h := by
  rw [State.groupAt, State.setGroup, State.tileAt_setTile_same]
  exact mapGet_mapSet_ne _ _ _ hne

theorem State.tileAt_congr {s u : State} (h : u.tile.tiles = s.tile.tiles) (t : Nat) : u.tileAt t = s.tileAt t := by
  rw [State.tileAt, h, State.tileAt]

theorem State.groupAt_congr {s u : State} (h : u.tile.tiles = s.tile.tiles) (t g : Nat) : u.groupAt t g = s.groupAt t g := by
  rw [State.groupAt, State.tileAt_congr h, State.groupAt]

@[simp] theorem State.tileAt_set (s : State) (f : Fld) (v t : Nat) : (s.set f v).tileAt t = s.tileAt t := rfl
@[simp] theorem State.tileAt_addTo (s : State) (f : Fld) (v t : Nat) : (s.addTo f v).tileAt t = s.tileAt t := rfl
@[simp] theorem State.groupAt_addTo (s : State) (f : Fld) (v t g : Nat) : (s.addTo f v).groupAt t g = s.groupAt t g := rfl

theorem State.set_within (s : State) (f : Fld) (v : Nat) : Within [.regs] s (s.set f v) := (State.set_keeps s f v).within
theorem State.addTo_within (s : State) (f : Fld) (v : Nat) : Within [.regs] s (s.addTo f v) := s.set_within f _
theorem State.setAll_within (s : State) (l : List (Fld × Nat)) : Within [.regs] s (s.setAll l) := (State.setAll_keeps s l).within

theorem State.setTile_within (s : State) (t : Nat) (x : Tile) : Within [.tile] s (s.setTile t x) := by
  refine ⟨rfl, fun c hc => ?_⟩
  cases c with
  | tile => exact absurd (by simp) hc
  | burns => exact ⟨rfl, rfl, rfl⟩
  | _ => rfl

theorem State.setGroup_within (s : State) (t g : Nat) (x : Group) : Within [.tile] s (s.setGroup t g x) := s.setTile_within t _

theorem State.settleGroup_within (s : State) (t g : Nat) : Within [.tile] s (s.settleGroup t g) := s.setGroup_within t g _

@[simp] theorem State.groupAt_settleGroup (s : State) (t g : Nat) : (s.settleGroup t g).groupAt t g = (s.groupAt t g).advance := by
  rw [State.settleGroup, State.groupAt_setGroup_same]

theorem State.groupAt_settleGroup_ne (s : State) (t : Nat) {g h : Nat} (hne : h ≠ g) :
    (s.settleGroup t g).groupAt t h = s.groupAt t h := s.groupAt_setGroup_ne t _ hne

theorem State.putL1_within (s : State) (t : Nat) (l : L1Line) : Within [.tile] s (s.putL1 t l) := s.setTile_within t _

@[simp] theorem State.groupAt_putL1 (s : State) (t : Nat) (l : L1Line) (g : Nat) : (s.putL1 t l).groupAt t g = s.groupAt t g := by
  rw [State.groupAt, State.putL1, State.setL1, State.tileAt_setTile_same, State.groupAt]

/-! ## Reconvergence and path choice -/

/-- The groups agree but for the paths, the place of the current one and its count. -/
def Group.PathsOnly (g g' : Group) : Prop := ∃ ps c n, g' = { g with paths := ps, cur := c, count := n }

theorem Group.PathsOnly.refl (g : Group) : g.PathsOnly g := ⟨_, _, _, rfl⟩

theorem Group.PathsOnly.trans {g g' g'' : Group} (h : g.PathsOnly g') (h' : g'.PathsOnly g'') : g.PathsOnly g'' := by
  obtain ⟨ps, c, n, rfl⟩ := h
  obtain ⟨ps', c', n', rfl⟩ := h'
  exact ⟨ps', c', n', rfl⟩

theorem Group.merge_pathsOnly (g : Group) (fuel : Nat) : g.PathsOnly (g.merge fuel) := by
  induction fuel generalizing g with
  | zero => exact .refl g
  | succ fuel ih =>
    rw [Group.merge]
    dsimp only
    split
    · exact ⟨_, _, _, rfl⟩
    · exact Group.PathsOnly.trans ⟨_, _, _, rfl⟩ (ih _)

theorem Group.settle_pathsOnly (g : Group) : g.PathsOnly g.settle := by
  unfold Group.settle
  extract_lets gone
  split
  · exact .refl g
  split
  · exact ⟨_, _, _, rfl⟩
  · exact .refl g

theorem Group.advance_pathsOnly (g : Group) : g.PathsOnly g.advance := (g.merge_pathsOnly 32).trans (Group.settle_pathsOnly _)

theorem Group.settle_paths (g : Group) : g.settle.paths = g.paths := by
  unfold Group.settle
  extract_lets gone
  split
  · rfl
  split <;> rfl

/-- Nothing reconverges where no path has come of a split. -/
theorem Group.merge_of_no_splits {g : Group} (fuel : Nat) (h : ∀ x ∈ g.paths, x.splits = []) : g.merge fuel = g := by
  cases fuel with
  | zero => rfl
  | succ fuel =>
    have hmap : (g.paths.map fun (x : Path) =>
        match x.splits with
        | (_, r) :: _ =>
          if x.state = .run && x.pc = r && !g.bars.any fun b => x.mask.testBit b.lane then { x with state := .reconverged } else x
        | [] => x) = g.paths := by
      conv_rhs => rw [← List.map_id g.paths]
      exact List.map_congr_left fun x hx => by rw [h x hx]; rfl
    have hnone : (g.paths.findSome? fun (x : Path) =>
        match x.splits with
        | (k, r) :: rest =>
          let kin := g.paths.filter fun y => y.splits.any fun e => e.1 == k
          if kin.all fun y => y.state == .reconverged && (y.splits.head?.map fun e => e.1) == some k then
            some (k, r, rest) else none
        | [] => (none : Option (Nat × Nat × List (Nat × Nat)))) = none := by
      refine List.findSome?_eq_none_iff.2 fun x hx => ?_
      rw [h x hx]
    rw [Group.merge]
    dsimp only
    erw [hmap, hnone]

theorem Group.advance_paths_of_no_splits {g : Group} (h : ∀ x ∈ g.paths, x.splits = []) : g.advance.paths = g.paths := by
  rw [Group.advance, Group.merge_of_no_splits 32 h, Group.settle_paths]

theorem Group.advance_values (g : Group) : g.advance.values = g.values := by
  obtain ⟨ps, c, n, h⟩ := g.advance_pathsOnly
  rw [h]

theorem Group.advance_queue (g : Group) : g.advance.queue = g.queue := by
  obtain ⟨ps, c, n, h⟩ := g.advance_pathsOnly
  rw [h]

theorem Group.advance_status (g : Group) : g.advance.status = g.status := by
  obtain ⟨ps, c, n, h⟩ := g.advance_pathsOnly
  rw [h]

/-! ## Fetching (R69, R82, R502) -/

theorem State.fetchPath_of_not_issuing {s : State} {t g : Nat} (h : s.issuing t g = none) : s.fetchPath t g = (none, s) := by
  rw [State.fetchPath, h]

theorem State.fetchPath_of_fault {s : State} {t g : Nat} {k : Task} {x : Group} {y : Path} (h : s.issuing t g = some (k, x, y))
    (hpc : s.codeLength k.part ≤ y.pc ∨ y.pc % 16 ≠ 0) :
    s.fetchPath t g = (none, s.stepFault t g (lowestLane y.mask) 3 y.pc) := by
  simp only [State.fetchPath, h]
  rw [if_pos (by simpa using hpc)]

theorem State.fetchPath_of_legal {s : State} {t g : Nat} {k : Task} {x : Group} {y : Path} (h : s.issuing t g = some (k, x, y))
    (hin : y.pc < s.codeLength k.part) (hpc : y.pc % 16 = 0) :
    s.fetchPath t g = if (s.readCode t k.part y.pc).1 then (some (k, y), (s.readCode t k.part y.pc).2.issued t g)
      else (none, (s.readCode t k.part y.pc).2) := by
  simp only [State.fetchPath, h]
  rw [if_neg (by simp [hpc, hin])]

theorem State.issuing_some {s : State} {t g : Nat} {k : Task} {x : Group} {y : Path} (h : s.issuing t g = some (k, x, y)) :
    s.taskOn t = some k ∧ x = s.groupAt t g ∧ x.paths[x.cur]? = some y ∧ k.phase = .running ∧ (s.tileAt t).ending = false ∧
      x.queueFull = false ∧ x.pathReady y = true := by
  rw [State.issuing] at h
  split at h
  · cases h
  next k' hk =>
  dsimp only at h
  split at h
  · cases h
  next y' hy =>
  split at h
  next hready =>
    simp only [Option.some.injEq, Prod.mk.injEq] at h
    obtain ⟨rfl, rfl, rfl⟩ := h
    simp only [Bool.and_eq_true, decide_eq_true_eq, Bool.not_eq_true'] at hready
    obtain ⟨⟨⟨⟨hphase, hending⟩, hfull⟩, hpath⟩, -⟩ := hready
    exact ⟨hk, rfl, hy, hphase, hending, hfull, hpath⟩
  next => cases h

theorem State.fetchPath_some {s u : State} {t g : Nat} {k : Task} {y : Path} (h : s.fetchPath t g = (some (k, y), u)) :
    ∃ x, s.issuing t g = some (k, x, y) ∧ y.pc < s.codeLength k.part ∧ y.pc % 16 = 0 ∧
      u = (s.readCode t k.part y.pc).2.issued t g := by
  cases hi : s.issuing t g with
  | none =>
    rw [State.fetchPath_of_not_issuing hi] at h
    cases h
  | some e =>
    obtain ⟨k', x, y'⟩ := e
    by_cases hpc : s.codeLength k'.part ≤ y'.pc ∨ y'.pc % 16 ≠ 0
    · rw [State.fetchPath_of_fault hi hpc] at h
      cases h
    · obtain ⟨hin, hmod⟩ := not_or.1 hpc
      rw [State.fetchPath_of_legal hi (not_le.1 hin) (not_not.1 hmod)] at h
      split at h
      · simp only [Prod.mk.injEq, Option.some.injEq] at h
        obtain ⟨⟨rfl, rfl⟩, rfl⟩ := h
        exact ⟨x, rfl, not_le.1 hin, not_not.1 hmod, rfl⟩
      · cases h

theorem State.withPath_some {s u : State} {t g : Nat} {k : Task} {y : Path} (h : s.fetchPath t g = (some (k, y), u))
    (f : Task → Path → State → State) : s.withPath t g f = (f k y u).settleGroup t g := by
  rw [State.withPath, h]

theorem State.withPath_none {s u : State} {t g : Nat} (h : s.fetchPath t g = (none, u)) (f : Task → Path → State → State) :
    s.withPath t g f = u := by
  rw [State.withPath, h]

theorem State.withLane_some {s u : State} {t g lane kind : Nat} {k : Task} {y : Path}
    (h : s.fetchLane t g lane kind = (some (k, y), u)) (f : Task → Path → State → State) :
    s.withLane t g lane kind f = (f k y u).settleGroup t g := by
  rw [State.withLane, h]

/-- An instruction that a path issues whole, where it is not fetched, does what the fetch does. -/
theorem exec_pathInstr_of_fetch_none {s u : State} {t : TileId} {g : Grp} {i : Instr} (hi : PathInstr t g i)
    (hfull : s.engineFull t i = false) (h : s.fetchPath t g = (none, u)) : exec i s = .next u := by
  have hwith (f) := State.withPath_none h f
  cases i with
  | branch => obtain ⟨rfl, rfl⟩ := hi; exact congrArg _ (hwith _)
  | exit => obtain ⟨rfl, rfl⟩ := hi; exact congrArg _ (hwith _)
  | barrier => obtain ⟨rfl, rfl⟩ := hi; exact congrArg _ (hwith _)
  | casLockHint => obtain ⟨rfl, rfl⟩ := hi; exact congrArg _ (hwith _)
  | fence => obtain ⟨rfl, rfl⟩ := hi; exact congrArg _ (hwith _)
  | reduce => obtain ⟨rfl, rfl⟩ := hi; exact congrArg _ (hwith _)
  | pin => obtain ⟨rfl, rfl⟩ := hi; exact congrArg _ (hwith _)
  | unpin => obtain ⟨rfl, rfl⟩ := hi; exact congrArg _ (hwith _)
  | eyeAdd => obtain ⟨rfl, rfl⟩ := hi; exact congrArg _ (hwith _)
  | eyeWait => obtain ⟨rfl, rfl⟩ := hi; exact congrArg _ (hwith _)
  | eyeArm => obtain ⟨rfl, rfl⟩ := hi; exact congrArg _ (hwith _)
  | eyeRead => obtain ⟨rfl, rfl⟩ := hi; exact congrArg _ (hwith _)
  | readProductStatus => obtain ⟨rfl, rfl⟩ := hi; exact congrArg _ (hwith _)
  | readLaneStatus => obtain ⟨rfl, rfl⟩ := hi; exact congrArg _ (hwith _)
  | convert => obtain ⟨rfl, rfl⟩ := hi; exact congrArg _ (hwith _)
  | blockConvert => obtain ⟨rfl, rfl⟩ := hi; exact congrArg _ (hwith _)
  | minMax => obtain ⟨rfl, rfl⟩ := hi; exact congrArg _ (hwith _)
  | laneArithmetic => obtain ⟨rfl, rfl⟩ := hi; exact congrArg _ (hwith _)
  | passInstruction a b desc =>
    obtain ⟨rfl, rfl⟩ := hi
    show execPassInstruction a b desc s = _
    rw [execPassInstruction, if_neg (by simpa [State.engineFull] using hfull)]
    exact congrArg _ (hwith _)
  | copyInstruction a b desc =>
    obtain ⟨rfl, rfl⟩ := hi
    show execCopyInstruction a b desc s = _
    rw [execCopyInstruction, if_neg (by simpa [State.engineFull] using hfull)]
    exact congrArg _ (hwith _)
  | _ => exact hi.elim

theorem exec_pathInstr_of_engineFull {s : State} {t : TileId} {g : Grp} {i : Instr} (hi : PathInstr t g i)
    (hfull : s.engineFull t i = true) : exec i s = .next s := by
  cases i with
  | passInstruction a b desc =>
    obtain ⟨rfl, rfl⟩ := hi
    show execPassInstruction a b desc s = _
    rw [execPassInstruction, if_pos (by simpa [State.engineFull] using hfull)]
  | copyInstruction a b desc =>
    obtain ⟨rfl, rfl⟩ := hi
    show execCopyInstruction a b desc s = _
    rw [execCopyInstruction, if_pos (by simpa [State.engineFull] using hfull)]
  | _ => cases hfull

end Sys2Proof.Machine

/-! SUPPORT. The issue rules of a path (R69 to R82): the statement O6. -/

namespace Sys2Proof.Machine

set_option Elab.async false

/-! ## An instruction that level 1 holds -/

theorem State.readCode_of_l1 {s : State} {t p pc : Nat}
    (h : ((s.tileAt t).l1.any fun l => l.instr && l.key == (s.codeOffset p + pc) / 64) = true) : s.readCode t p pc = (true, s) := by
  simp only [State.readCode, h, Bool.true_or, if_true]

theorem State.fetchInstr_of_l1 {s : State} {t p pc : Nat}
    (h : ((s.tileAt t).l1.any fun l => l.instr && l.key == (s.codeOffset p + pc) / 64) = true) :
    ∃ l, s.fetchInstr t p pc = s.putL1 t l := by
  rw [State.fetchInstr]
  dsimp only
  split
  next l hl => exact ⟨l, rfl⟩
  next hnone =>
    obtain ⟨l, hmem, hl⟩ := List.any_eq_true.1 h
    exact absurd hl (List.find?_eq_none.1 hnone l hmem)

/-- What the issue of an instruction makes of its group (R74, R93, R502). -/
def Group.issue (x : Group) : Group :=
  { x with count := min 64 (x.count + 1), values := [], inst := none }.setPath x.cur fun y => { y with pc := y.pc + 16 }

/-- The group most recently issued is `g`. -/
def State.markIssued (s : State) (t g : Nat) : State := s.setTile t { s.tileAt t with lastIssued := g }

theorem State.groupAt_markIssued (s : State) (t g h : Nat) : (s.markIssued t g).groupAt t h = s.groupAt t h := by
  rw [State.groupAt, State.markIssued, State.tileAt_setTile_same, State.groupAt]

theorem State.issued_eq {s v : State} {t g : Nat} {k : Task} {y : Path} (hk : s.taskOn t = some k)
    (hy : (s.groupAt t g).paths[(s.groupAt t g).cur]? = some y) (hv : s.fetchInstr t k.part y.pc = v) :
    s.issued t g =
      ((v.setGroup t g (v.groupAt t g).issue).addTo (fTileCntIssue_count (tileDie t) (tileSite t)) 1).markIssued t g := by
  rw [State.issued]
  simp only [hk, hy, Option.map_some, hv]
  rfl

/-- The issue of a path's instruction whose line level 1 holds (R69, R93). -/
theorem State.issued_of_l1 {s : State} {t g : Nat} {k : Task} {y : Path} (hk : s.taskOn t = some k)
    (hy : (s.groupAt t g).paths[(s.groupAt t g).cur]? = some y)
    (h : ((s.tileAt t).l1.any fun l => l.instr && l.key == (s.codeOffset k.part + y.pc) / 64) = true) :
    (s.issued t g).groupAt t g = { s.groupAt t g with
        count := min 64 ((s.groupAt t g).count + 1), values := [], inst := none
        paths := (s.groupAt t g).paths.mapIdx fun i z => if i = (s.groupAt t g).cur then { z with pc := z.pc + 16 } else z } ∧
      (s.issued t g).get (fTileCntIssue_count (tileDie t) (tileSite t)) =
        (s.get (fTileCntIssue_count (tileDie t) (tileSite t)) + 1) % 2 ^ (fTileCntIssue_count (tileDie t) (tileSite t)).width ∧
      Within [.regs, .tile] s (s.issued t g) ∧ RegsKept [fTileCntIssue_count (tileDie t) (tileSite t)] s (s.issued t g) := by
  obtain ⟨l, hl⟩ := State.fetchInstr_of_l1 h
  rw [State.issued_eq hk hy hl]
  generalize hf : fTileCntIssue_count (tileDie t) (tileSite t) = f
  refine ⟨?_, ?_, ?_, ?_⟩
  · rw [State.groupAt_markIssued, State.groupAt_addTo, State.groupAt_setGroup_same, State.groupAt_putL1]
    rfl
  · exact State.get_set_same ..
  · exact ((((s.putL1_within t l).trans (State.setGroup_within _ t g _)).mono (by simp)).trans
      ((State.addTo_within _ f 1).mono (by simp))).trans ((State.setTile_within _ t _).mono (by simp))
  · exact (RegsKept.addTo (.of_eq rfl) 1 (by simp)).trans (.of_eq rfl)

/-! ## The end instruction -/

theorem State.checkRetire_tiles (s : State) (t : Nat) : (s.checkRetire t).tile.tiles = s.tile.tiles := by
  unfold State.checkRetire
  extract_lets open_
  split
  · rfl
  split
  · rfl
  split <;> rfl

/-! ## A branch that every lane of the path takes -/

theorem Group.setPath_no_splits {x : Group} (f : Path → Path) (hf : ∀ z, (f z).splits = z.splits)
    (h : ∀ z ∈ x.paths, z.splits = []) : ∀ z ∈ (x.setPath x.cur f).paths, z.splits = [] := by
  intro z hz
  obtain ⟨i, hi, rfl⟩ := List.mem_mapIdx.1 hz
  split
  · rw [hf]
    exact h _ (List.getElem_mem hi)
  · exact h _ (List.getElem_mem hi)

theorem Group.setPath_cur {x : Group} {z : Path} (f : Path → Path) (hz : x.paths[x.cur]? = some z) :
    (x.setPath x.cur f).paths[x.cur]? = some (f z) := by
  simp [Group.setPath, List.getElem?_mapIdx, hz]

theorem exec_branch_all {s u : State} {t : TileId} {g : Grp} {k : Task} {y : Path} {taken : LaneMask} (target reconv : Nat)
    (h : s.fetchPath t g = (some (k, y), u)) (hmask : y.mask ≠ 0) (hall : y.lanes taken.toNat = y.mask) :
    exec (.branch t g taken target reconv) s = .next ((u.setGroup t g
      ((u.groupAt t g).setPath (u.groupAt t g).cur fun y => { y with pc := target })).settleGroup t g) := by
  show execBranch t g taken target reconv s = _
  rw [execBranch, State.withPath_some h]
  simp only [hall, Nat.sub_self, hmask, if_true, if_false]

/-! ## The statement -/

/-- Settles O6: a path that cannot issue does nothing; the others do what their fetch, or the instruction after it, does. -/
theorem issueRules : Obligations.IssueRules := by
  refine ⟨fun s t g i hi h => ?_, fun s t g i hi h => exec_pathInstr_of_engineFull hi h, fun s t g i k x y hi hfull h hpc => ?_,
    fun s t g i k x y hi hfull h hin hpc hcode => ?_, fun s t g k x y h hin hpc hl1 => ?_, fun s t g k x y h hin hpc hcode => ?_,
    fun s u t g k y h => ?_, fun s u t g k y z taken target reconv h hmask hall hz hsplits => ?_,
    fun s u v t g k y lanes h hlanes hv => ?_, fun s u v w t g k y lanes kind n h hlanes hv hw => ?_,
    fun s t g i hcount hnext => ?_, fun s t k hk hphase hending hlive hpasses hrun => ?_⟩
  · cases hfull : s.engineFull t i with
    | true => exact exec_pathInstr_of_engineFull hi hfull
    | false => exact exec_pathInstr_of_fetch_none hi hfull (State.fetchPath_of_not_issuing h)
  · exact exec_pathInstr_of_fetch_none hi hfull (State.fetchPath_of_fault h hpc)
  · exact exec_pathInstr_of_fetch_none hi hfull (by rw [State.fetchPath_of_legal h hin hpc, if_neg (by simp [hcode])])
  · obtain ⟨hk, rfl, hy, -⟩ := State.issuing_some h
    have hcode := State.readCode_of_l1 hl1
    refine ⟨s.issued t g, by rw [State.fetchPath_of_legal h hin hpc, hcode]; rfl, ?_⟩
    exact State.issued_of_l1 hk hy hl1
  · rw [State.fetchPath_of_legal h hin hpc, if_pos hcode]
  · refine ⟨_, congrArg Host.Outcome.next (State.withPath_some h _), ?_, ?_⟩
    · rw [State.groupAt_settleGroup, Group.advance_values, State.groupAt_setGroup_same]
    · exact (State.setGroup_within _ t g _).trans (State.settleGroup_within _ t g)
  · refine ⟨_, exec_branch_all target reconv h hmask hall, ?_, fun g' hne => ?_, ?_⟩
    · rw [State.groupAt_settleGroup, State.groupAt_setGroup_same,
        Group.advance_paths_of_no_splits (Group.setPath_no_splits (fun y => { y with pc := target }) (fun _ => rfl) hsplits)]
      exact Group.setPath_cur _ hz
    · have hval : (g' : Nat) ≠ g := fun heq => hne (Fin.ext heq)
      rw [State.groupAt_settleGroup_ne _ _ hval, State.groupAt_setGroup_ne _ _ _ hval]
    · exact (State.setGroup_within _ t g _).trans (State.settleGroup_within _ t g)
  · show execExit t g lanes s = _
    rw [execExit, State.withPath_some h, if_neg hlanes, hv]
  · show execBarrier t g lanes kind n s = _
    rw [execBarrier, State.withPath_some h, if_neg hlanes, hw, hv]
  · refine ⟨_, by
      show execPathRotate t g s = _
      rw [execPathRotate, if_neg (not_lt.2 hcount), hnext], ?_, fun g' hne => ?_, ?_, ?_⟩
    · rw [State.groupAt_addTo, State.groupAt_setGroup_same]
    · rw [State.groupAt_addTo, State.groupAt_setGroup_ne _ _ _ fun heq => hne (Fin.ext heq)]
    · exact ((State.setGroup_within _ t g _).mono (by simp)).trans ((State.addTo_within _ _ 1).mono (by simp))
    · exact RegsKept.addTo (.of_eq rfl) 1 (by simp)
  · refine ⟨_, by
      show execEndInstruction t s = _
      rw [execEndInstruction, hk]
      exact if_neg (by simp [hphase, hending, hlive, hpasses, hrun]), ?_⟩
    rw [State.tileAt_congr (State.checkRetire_tiles _ _), State.tileAt_setTile_same]

end Sys2Proof.Machine

/-! SUPPORT. Lane loads, lane stores and the store queue (R68, R263, R264): the statement O7. -/

namespace Sys2Proof.Machine

set_option Elab.async false

/-! ## Accesses within one granule -/

theorem granules_one {a len : Nat} (hlen : 0 < len) (h : a % 64 + len ≤ 64) : granules a len = [(a, 0, len)] := by
  have hmod : a % (a + len + 1) = a := Nat.mod_eq_of_lt (by omega)
  have hcut : min len (min (a + len + 1 - a % (a + len + 1)) (64 - id a % 64)) = len := by
    rw [hmod, id_eq]
    omega
  have hrest : cutRange (a + len + 1) 64 id len (a + len) 0 = [] := by
    cases len with
    | zero => rfl
    | succ n => rw [cutRange, if_pos rfl]
  rw [granules, cutRange, if_neg (by omega), hcut, if_neg (by omega), Nat.sub_self, hrest, List.map_singleton, Nat.sub_self]

theorem granules_zero (a : Nat) : granules a 0 = [] := by
  rw [granules, cutRange, if_pos rfl, List.map_nil]

theorem alignDown_add {a i : Nat} (h : a % 64 + i < 64) : alignDown (a + i) 64 = alignDown a 64 := by
  unfold alignDown
  omega

theorem testBit_run (n off j : Nat) : ((2 ^ n - 1) * 2 ^ off).testBit j = decide (off ≤ j ∧ j - off < n) := by
  rw [Nat.testBit_mul_two_pow, Nat.testBit_two_pow_sub_one, Bool.decide_and]

/-! ## The store queue (R264) -/

theorem getD_enqueued {bs : List Byte} {off i : Nat} (hi : i < bs.length) (n : Nat) :
    (List.replicate off 0#8 ++ bs ++ List.replicate n 0#8).getD (off + i) 0#8 = bs[i] := by
  simp [List.getD_eq_getElem?_getD, List.getElem?_append, hi]

theorem getD_mergeBytes {mask j : Nat} {new old : List Byte} (hj : j < old.length) (hbit : mask.testBit j = true) :
    (mergeBytes mask new old).getD j 0#8 = new.getD j 0#8 := by
  simp [mergeBytes, List.getD_eq_getElem?_getD, hj, hbit]

/-- The entry is that of granule `base`. -/
def SqEntry.isAt (scratch : Bool) (base : Nat) (e : SqEntry) : Bool := e.scratch == scratch && e.base == base

/-- An entry joins the bytes `data` of `mask`. -/
def SqEntry.join (mask : Nat) (data : List Byte) (e : SqEntry) : SqEntry :=
  { e with mask := e.mask ||| mask, data := mergeBytes mask data e.data }

theorem SqEntry.join_data (mask : Nat) (data : List Byte) (e : SqEntry) : (e.join mask data).data = mergeBytes mask data e.data := rfl

theorem filter_joined {q : List SqEntry} (scratch : Bool) (base : Nat) {mask j : Nat} (data : List Byte) (hj : mask.testBit j = true) :
    ((q.map fun e => if e.scratch = scratch && e.base = base then e.join mask data else e).filter fun e =>
      e.scratch == scratch && e.base == base && e.mask.testBit j) = (q.filter (SqEntry.isAt scratch base)).map (SqEntry.join mask data) := by
  induction q with
  | nil => rfl
  | cons e q ih =>
    rw [List.map_cons, List.filter_cons, List.filter_cons, ih]
    by_cases he : e.scratch = scratch ∧ e.base = base
    · simp [he, SqEntry.isAt, SqEntry.join, Nat.testBit_or, hj]
    · have hat : e.isAt scratch base = false := by
        simp only [SqEntry.isAt, Bool.and_eq_false_iff, beq_eq_false_iff_ne]
        exact not_and_or.1 he
      simp [he, hat, ← SqEntry.isAt.eq_1]

theorem Group.queued_enqueue {x : Group} {scratch : Bool} {a i : Nat} {bs : List Byte} (hfit : a % 64 + bs.length ≤ 64)
    (hq : ∀ e ∈ x.queue, e.data.length = 64) (hi : i < bs.length) :
    (x.enqueue scratch a bs).queued scratch (a + i) = bs[i]? := by
  have hplace : (a + i) % 64 = a % 64 + i := by omega
  have hbase : alignDown (a + i) 64 = alignDown a 64 := alignDown_add (by omega)
  have hbit : ((2 ^ bs.length - 1) * 2 ^ (a % 64)).testBit (a % 64 + i) = true := by
    rw [testBit_run]
    simp [hi]
  have hbyte := getD_enqueued (off := a % 64) hi (64 - a % 64 - bs.length)
  rw [Group.queued, hbase, hplace, Group.enqueue, List.getElem?_eq_getElem hi]
  split
  next hany =>
    have hne : x.queue.filter (SqEntry.isAt scratch (alignDown a 64)) ≠ [] := by
      obtain ⟨e, he, hat⟩ := List.any_eq_true.1 hany
      exact List.ne_nil_of_mem (List.mem_filter.2 ⟨he, hat⟩)
    have hlast := List.getLast_mem hne
    have hjoin := filter_joined (q := x.queue) scratch (alignDown a 64)
      (List.replicate (a % 64) 0#8 ++ bs ++ List.replicate (64 - a % 64 - bs.length) 0#8) hbit
    dsimp only [SqEntry.join] at hjoin
    rw [hjoin, List.getLast?_map, List.getLast?_eq_some_getLast hne, Option.map_some, Option.map_some,
      SqEntry.join_data, getD_mergeBytes (by rw [hq _ (List.mem_of_mem_filter hlast)]; omega) hbit, hbyte]
  next hnone =>
    rw [List.filter_append, List.filter_cons, if_pos (by simp [hbit]), List.filter_nil, List.getLast?_concat, Option.map_some, hbyte]

/-- The bytes of a store within one granule enter the queue, from where a load takes them. -/
theorem Group.queued_enqueueAll {x : Group} {scratch : Bool} {a i : Nat} {data : List Byte} (hfit : a % 64 + data.length ≤ 64)
    (hq : ∀ e ∈ x.queue, e.data.length = 64) (hi : i < data.length) :
    ((granules a data.length).foldl (fun x e => x.enqueue scratch e.1 (slice data e.2.1 e.2.2)) x).queued scratch (a + i) = data[i]? := by
  have hslice : slice data 0 data.length = data := by simp [slice]
  rw [granules_one (by omega) hfit, List.foldl_cons, List.foldl_nil, hslice]
  exact Group.queued_enqueue hfit hq hi

theorem Group.queued_congr {x x' : Group} (h : x'.queue = x.queue) : x'.queued = x.queued := by
  funext scratch a
  rw [Group.queued, h, Group.queued]

theorem State.storeLane_of_room {s u : State} {t g lane a : Nat} {scratch : Bool} {data : List Byte} {k : Task} {y : Path}
    (h : s.fetchLane t g lane 1 = (some (k, y), u)) (hfits : scratch = true → s.outOfStore t a data.length = false)
    (hroom : (s.groupAt t g).hasRoom scratch (granules a data.length) = true) :
    s.storeLane t g lane scratch a data = (u.setGroup t g ((granules a data.length).foldl
      (fun x e => x.enqueue scratch e.1 (slice data e.2.1 e.2.2)) (u.groupAt t g))).settleGroup t g := by
  have hin : (!scratch || !s.outOfStore t a data.length) = true := by
    cases scratch with
    | false => rfl
    | true => rw [hfits rfl]; rfl
  rw [State.storeLane]
  simp only [hin, hroom, if_true, Bool.not_true, Bool.false_eq_true, if_false]
  exact State.withLane_some h _

/-- A store that finds room enters the queue of its group and changes nothing else. -/
theorem State.storeLane_queued {s u : State} {t g lane a : Nat} {scratch : Bool} {data : List Byte} {k : Task} {y : Path}
    (h : s.fetchLane t g lane 1 = (some (k, y), u)) (hfits : scratch = true → s.outOfStore t a data.length = false)
    (hroom : (s.groupAt t g).hasRoom scratch (granules a data.length) = true) (hone : a % 64 + data.length ≤ 64)
    (hq : ∀ e ∈ (u.groupAt t g).queue, e.data.length = 64) :
    (∀ i < data.length, ((s.storeLane t g lane scratch a data).groupAt t g).queued scratch (a + i) = data[i]?) ∧
      Within [.tile] u (s.storeLane t g lane scratch a data) := by
  rw [State.storeLane_of_room h hfits hroom]
  refine ⟨fun i hi => ?_, (State.setGroup_within _ t g _).trans (State.settleGroup_within _ t g)⟩
  rw [State.groupAt_settleGroup, Group.queued_congr (Group.advance_queue _), State.groupAt_setGroup_same,
    Group.queued_enqueueAll hone hq hi]

/-! ## Loads (R68, R263) -/

theorem State.giveLane_within (s : State) (t g lane v : Nat) : Within [.tile] s (s.giveLane t g lane v) := s.setGroup_within t g _

theorem State.mem_values_giveLane (s : State) (t g lane v : Nat) : (lane, v) ∈ ((s.giveLane t g lane v).groupAt t g).values := by
  rw [State.giveLane, State.groupAt_setGroup_same]
  simp

theorem State.mem_values_settleGroup {s : State} {t g : Nat} {e : Nat × Nat} (h : e ∈ (s.groupAt t g).values) :
    e ∈ ((s.settleGroup t g).groupAt t g).values := by
  rwa [State.groupAt_settleGroup, Group.advance_values]

theorem withBytes_whole (old whole v : Nat) : withBytes old whole 0 whole v = v := by
  have hlt : old % 2 ^ (8 * whole) < 2 ^ (8 * whole) := Nat.mod_lt _ (by positivity)
  rw [withBytes, Nat.zero_add, Nat.div_eq_of_lt hlt]
  simp [Nat.mod_one]

theorem State.loadPart_of_hit {s : State} {t g lane p pa len : Nat} {l : L1Line} (hfit : pa % 64 + len ≤ 64)
    (hq : (s.groupAt t g).queue = []) (hl : s.l1Line t (pa / 64) = some l) (hvalid : ∀ i < len, l.valid.testBit (pa % 64 + i) = true) :
    s.loadPart t g lane p len pa 0 len =
      (s.putL1 t l).giveLane t g lane (leNat ((List.range len).map fun i => l.data.getD (pa % 64 + i) 0#8)) := by
  have hknown : s.knownBytes t g pa len (fun l => l.valid) = (List.range len).map fun i => (i, l.data.getD (pa % 64 + i) 0#8) := by
    rw [State.knownBytes, ← List.filterMap_eq_map]
    refine List.filterMap_congr fun i hi => ?_
    have hi : i < len := List.mem_range.1 hi
    have hplace : (pa + i) % 64 = pa % 64 + i := by omega
    have hnone : (s.groupAt t g).queued false (pa + i) = none := by rw [Group.queued, hq]; rfl
    rw [hnone, hl, hplace]
    exact if_pos (hvalid i hi)
  rw [State.loadPart]
  simp only [hknown, List.length_map, List.length_range, if_true, hl, List.map_map]
  rw [State.givePart, withBytes_whole]
  rfl

/-! ## Drains (R264) -/

theorem State.queue_setGroup {s : State} {t g : Nat} {x : Group} (hx : x.queue = (s.groupAt t g).queue) (h : Nat) :
    ((s.setGroup t g x).groupAt t h).queue = (s.groupAt t h).queue := by
  by_cases heq : h = g
  · rw [heq, State.groupAt_setGroup_same, hx]
  · rw [State.groupAt_setGroup_ne _ _ _ heq]

theorem Group.settle_queue (g : Group) : g.settle.queue = g.queue := by
  obtain ⟨ps, c, n, h⟩ := g.settle_pathsOnly
  rw [h]

theorem State.queue_wake (s : State) (t g : Nat) (scratch : Bool) (granule : Nat) :
    ((s.wake t scratch granule).groupAt t g).queue = (s.groupAt t g).queue := by
  rw [State.wake]
  generalize (s.tileAt t).groups = gs
  induction gs generalizing s with
  | nil => rfl
  | cons e gs ih =>
    rw [List.foldl_cons, ih]
    dsimp only
    split
    · refine State.queue_setGroup ?_ g
      exact Group.settle_queue _
    · rfl

/-! ## The statement -/

/-- Settles O7: a lane's part names its bytes by the store queue first, then the tile store or level 1. -/
theorem loadsAndStores : Obligations.LoadsAndStores := by
  refine ⟨fun s u t g lane k y off len h hin => ?_, fun s u t g lane k y off len h hout => ?_,
    fun s u t g lane k y l pa len h hlen hfit hq hl hvalid => ?_, fun s u t g lane k y pa len h => ?_,
    fun s u t g lane k y off data h hone hq hin hroom => ?_, fun s u t g lane k y pa data h hone hq hroom => ?_,
    fun s u t g lane k y off data h hout => ?_, fun s t g lane pa data hroom => ?_,
    fun s t g lane kind k x y h hlane hlow hfetch => ?_, fun s t g lane kind k z h hk hphase hending hinst hkind hleft => ?_,
    fun s t g k e n hk he hscratch => ?_, fun s t g k e h n hk he hscratch htrans => ?_, fun s t g n he => ?_⟩
  · refine ⟨_, congrArg Host.Outcome.next (State.withLane_some h _), ?_, ?_⟩
    · simp only [hin, Bool.false_eq_true, if_false]
      exact State.mem_values_settleGroup (State.mem_values_giveLane ..)
    · simp only [hin, Bool.false_eq_true, if_false]
      exact (State.giveLane_within _ t g _ _).trans (State.settleGroup_within _ t g)
  · refine congrArg Host.Outcome.next ((State.withLane_some h _).trans ?_)
    simp only [hout, if_true]
  · refine ⟨_, congrArg Host.Outcome.next (State.withLane_some h _), ?_, ?_⟩
    · simp only [granules_one hlen hfit, List.foldl_cons, List.foldl_nil, State.loadPart_of_hit hfit hq hl hvalid]
      exact State.mem_values_settleGroup (State.mem_values_giveLane ..)
    · simp only [granules_one hlen hfit, List.foldl_cons, List.foldl_nil, State.loadPart_of_hit hfit hq hl hvalid]
      exact ((State.putL1_within _ t l).trans (State.giveLane_within _ t g _ _)).trans (State.settleGroup_within _ t g)
  · exact congrArg Host.Outcome.next (State.withLane_some h _)
  · obtain ⟨hqueued, hwithin⟩ := State.storeLane_queued h (fun _ => hin) hroom hone hq
    exact ⟨_, rfl, hqueued, hwithin⟩
  · obtain ⟨hqueued, hwithin⟩ := State.storeLane_queued h (fun hf => by cases hf) hroom hone hq
    exact ⟨_, rfl, hqueued, hwithin⟩
  · refine congrArg Host.Outcome.next ?_
    show s.storeLane t g lane true off data = _
    rw [State.storeLane, hout]
    exact State.withLane_some h _
  · refine congrArg Host.Outcome.next ?_
    show s.storeLane t g lane false pa data = _
    rw [State.storeLane, hroom]
    rfl
  · have hpath : s.fetchPath t g = (some (k, y), (s.fetchPath t g).2) := Prod.ext hfetch rfl
    refine ⟨(s.fetchPath t g).2.setGroup t g { (s.fetchPath t g).2.groupAt t g with
      inst := some ⟨kind, y.pc, y.mask, clearBit y.mask lane⟩ }, ?_, ?_, State.setGroup_within _ t g _⟩
    · rw [State.fetchLane, h]
      dsimp only
      rw [if_pos (by simp [hlane, hlow]), hpath]
    · rw [State.groupAt_setGroup_same]
  · rw [State.fetchLane, h]
    dsimp only
    rw [State.lanePart, hk, hinst]
    exact if_pos (by simp [hphase, hending, hkind, hleft])
  · refine ⟨_, by
      show execStoreQueueDrain t g n s = _
      rw [execStoreQueueDrain, hk, he], ?_⟩
    rw [State.drainEntry, if_pos hscratch]
    refine ⟨?_, ?_, ?_⟩
    · exact (State.wake_keeps _ _ _ _).scratch (by decide)
    · rw [State.queue_wake]
      exact congrArg Group.queue (State.groupAt_setGroup_same ..)
    · exact (((State.setGroup_within s t g _).mono (by simp)).trans
        (State.scratchWriteMasked_keeps _ _ _ _ _).within).trans (State.wake_keeps _ _ _ _).within
  · show execStoreQueueDrain t g n s = _
    rw [execStoreQueueDrain, hk, he]
    refine congrArg Host.Outcome.next ?_
    have htrans' : (s.setQueue t g ((s.groupAt t g).queue.eraseIdx n)).translate k.part e.base = some h := htrans
    rw [State.drainEntry, if_neg (by simp [hscratch]), htrans']
  · show execStoreQueueDrain t g n s = _
    rw [execStoreQueueDrain, he]
    cases s.taskOn t <;> rfl

end Sys2Proof.Machine

/-! SUPPORT. Fences, parked paths and pins (R81, R218, R219, R260, R261): the statement O8. -/

namespace Sys2Proof.Machine

set_option Elab.async false

/-! ## Acquires (R261) -/

/-- A line that an acquire leaves in level 1 holds no valid clean byte where the scope covers it. -/
theorem State.l1_acquire {s : State} {t scope : Nat} {l : L1Line} (hl : l ∈ ((s.acquire t scope).tileAt t).l1)
    (hinstr : l.instr = false) (hcov : covers scope (tileDie t) l.home = true) : l.valid = l.dirty ∧ l.valid ≠ 0 := by
  rw [State.acquire, State.setL1, State.tileAt_setTile_same] at hl
  obtain ⟨hmap, hkept⟩ := List.mem_filter.1 hl
  obtain ⟨l', -, rfl⟩ := List.mem_map.1 hmap
  by_cases h : !l'.instr && covers scope (tileDie t) l'.home
  · simp only [h, if_true] at hkept hinstr ⊢
    exact ⟨trivial, by simpa [hinstr] using hkept⟩
  · rw [if_neg h] at hinstr hcov
    exact absurd (by simp [hinstr, hcov]) h

theorem State.acquire_within (s : State) (t scope : Nat) : Within [.tile, .coh] s (s.acquire t scope) :=
  (State.acquire_keeps s t scope).within

theorem State.l1_setGroup (s : State) (t g : Nat) (x : Group) : ((s.setGroup t g x).tileAt t).l1 = (s.tileAt t).l1 := by
  rw [State.setGroup, State.tileAt_setTile_same]

/-! ## Pins (R218, R219) -/

theorem State.pinLine_spill {s : State} {p pa : Nat} {h : PageHit} (ht : s.translate p pa = some h) (hs : h.spill = true) :
    s.pinLine p pa = (4, s.bump (fL3PartRefused_not_homed 0 p) 1) := by
  rw [State.pinLine, ht]
  exact if_pos hs

theorem State.unpinLine_spill {s : State} {p pa : Nat} {h : PageHit} (ht : s.translate p pa = some h) (hs : h.spill = true) :
    s.unpinLine p pa = (4, s.bump (fL3PartRefused_not_homed 0 p) 1) := by
  rw [State.unpinLine, ht]
  exact if_pos hs

theorem State.pinLine_pinned {s : State} {p pa : Nat} {h : PageHit} {l : L3Line} (ht : s.translate p pa = some h) (hs : h.spill = false)
    (hl : s.l3Line (lineOf h.bulk h.addr) = some l) (hp : l.pinned = true) : s.pinLine p pa = (1, s) := by
  simp only [State.pinLine, ht, hs, hl, hp, if_true, Bool.false_eq_true, if_false]

theorem State.unpinLine_pinned {s : State} {p pa : Nat} {h : PageHit} {l : L3Line} (ht : s.translate p pa = some h)
    (hs : h.spill = false) (hl : s.l3Line (lineOf h.bulk h.addr) = some l) (hp : l.pinned = true) :
    s.unpinLine p pa = (5, s.setL3 (s.coh.l3.map fun x => if x.line = l.line then x.unpin else x)) := by
  simp only [State.unpinLine, ht, hs, hl, hp, if_true, Bool.false_eq_true, if_false]

theorem State.pinLine_share {s : State} {p pa : Nat} {h : PageHit} (ht : s.translate p pa = some h) (hs : h.spill = false)
    (hl : s.l3Line (lineOf h.bulk h.addr) = none)
    (hshare : s.pinShare (dpaDie h.addr) p < s.pinnedIn (lineOf h.bulk h.addr) h.bulk p + 1) : (s.pinLine p pa).1 = 2 := by
  simp only [State.pinLine, ht, hs, hl, hshare, if_true, Bool.false_eq_true, if_false]

theorem State.unpinLine_uncached {s : State} {p pa : Nat} {h : PageHit} (ht : s.translate p pa = some h) (hs : h.spill = false)
    (hl : s.l3Line (lineOf h.bulk h.addr) = none) : s.unpinLine p pa = (6, s) := by
  simp only [State.unpinLine, ht, hs, hl, Bool.false_eq_true, if_false]

/-! ## The statement -/

/-- Settles O8: by what the instruction after the fetch does. -/
theorem fencesAndPins : Obligations.FencesAndPins := by
  refine ⟨fun s u t g k y scope h hscope => ?_, fun s u t g k y ordering scope h hord hscope => ?_,
    fun s u t g k y ordering scope h hbad => ?_, fun s t g y n since gs hy hst => ?_, fun s t g y n hy hst => ?_,
    fun s u t g k y addrs h => ⟨congrArg Host.Outcome.next (State.withPath_some h _), congrArg Host.Outcome.next (State.withPath_some h _)⟩,
    fun s p pa h l ht hs hl hp => ⟨State.pinLine_pinned ht hs hl hp, ?_⟩,
    fun s p pa h ht hs hl hshare => ⟨State.pinLine_share ht hs hl hshare, State.unpinLine_uncached ht hs hl⟩,
    fun s p pa h ht hs => ⟨State.pinLine_spill ht hs, State.unpinLine_spill ht hs⟩⟩
  · have hexec : exec (.fence t g 1 scope) s = .next ((u.acquire t scope.toNat).settleGroup t g) := by
      refine congrArg Host.Outcome.next ((State.withPath_some h _).trans ?_)
      have hlegal : ¬4 < scope.toNat := by omega
      simp [hlegal]
    refine ⟨_, hexec, fun l hl hinstr hcov => ?_, ?_⟩
    · rw [State.settleGroup, State.l1_setGroup] at hl
      exact State.l1_acquire hl hinstr hcov
    · exact (u.acquire_within t _).trans ((State.settleGroup_within _ t g).mono (by simp))
  · refine congrArg Host.Outcome.next ((State.withPath_some h _).trans ?_)
    have hlegal : ¬4 < scope.toNat := by omega
    have hzero : ordering.toNat ≠ 0 := by omega
    have hone : ordering.toNat ≠ 1 := by omega
    simp [hlegal, hzero, hone]
  · refine congrArg Host.Outcome.next ((State.withPath_some h _).trans ?_)
    have hill : ordering.toNat = 0 ∨ 4 < scope.toNat := hbad.imp_left fun h0 => by rw [h0]; rfl
    simp [hill]
  · refine ⟨s.setGroup t g ((s.groupAt t g).setPath n fun y => { y with state := .run }).settle, ?_, ?_, s.setGroup_within t g _⟩
    · show execParkTimeout t g n s = _
      rw [execParkTimeout, hy, Option.map_some, hst]
    · rw [State.groupAt_setGroup_same, Group.settle_paths]
      simp [Group.setPath, List.getElem?_mapIdx, hy]
  · show execParkTimeout t g n s = _
    rw [execParkTimeout, hy, Option.map_some, hst]
  · rw [State.unpinLine_pinned ht hs hl hp]
    refine ⟨rfl, fun m hm hline => ?_⟩
    obtain ⟨x, -, rfl⟩ := List.mem_map.1 hm
    by_cases hx : x.line = l.line
    · rw [if_pos hx]
      rfl
    · rw [if_neg hx] at hline
      exact absurd hline hx

end Sys2Proof.Machine

/-! SUPPORT. Atomics, reductions and the hinted compare-and-swap (R159, R245, R270): the statement O9. -/

namespace Sys2Proof.Machine

set_option Elab.async false

/-! ## States that differ in tiles and tile stores alone -/

/-- The states agree but for tiles, their tasks and the tile stores. -/
def TileOnly (u s : State) : Prop := ∃ x, s = { u with tile := x } ∧ x.banks = u.tile.banks

theorem TileOnly.refl (u : State) : TileOnly u u := ⟨u.tile, rfl, rfl⟩

theorem TileOnly.within {u s : State} (h : TileOnly u s) : Within [.tile, .scratch] u s := by
  obtain ⟨x, rfl, hb⟩ := h
  refine ⟨rfl, fun c hc => ?_⟩
  cases c with
  | tile => exact absurd (by simp) hc
  | scratch => exact absurd (by simp) hc
  | banks => exact hb
  | burns => exact ⟨rfl, rfl, rfl⟩
  | _ => rfl

theorem TileOnly.setGroup {u s : State} (h : TileOnly u s) (t g : Nat) (x : Group) : TileOnly u (s.setGroup t g x) := by
  obtain ⟨y, rfl, hb⟩ := h
  exact ⟨_, rfl, hb⟩

theorem TileOnly.scratchWrite {u s : State} (h : TileOnly u s) (t off : Nat) (bs : List Byte) : TileOnly u (s.scratchWrite t off bs) := by
  obtain ⟨y, rfl, hb⟩ := h
  exact ⟨_, rfl, hb⟩

theorem TileOnly.satMode {u s : State} (h : TileOnly u s) (p : Nat) : s.satMode p = u.satMode p := by
  obtain ⟨y, rfl, hb⟩ := h
  rfl

theorem TileOnly.coh {u s : State} (h : TileOnly u s) : s.coh = u.coh := by
  obtain ⟨y, rfl, hb⟩ := h
  rfl

/-! ## What a drain that finds nothing does -/

theorem State.drainWhere_none {s : State} {t g : Nat} (p : Nat) {f : SqEntry → Bool}
    (h : ∀ e ∈ (s.groupAt t g).queue, f e = false) : s.drainWhere t g p f = s.setGroup t g (s.groupAt t g) := by
  have hnone : (s.groupAt t g).queue.filter f = [] := List.filter_eq_nil_iff.2 fun e he => by simp [h e he]
  have hall : (s.groupAt t g).queue.filter (!f ·) = (s.groupAt t g).queue := List.filter_eq_self.2 fun e he => by simp [h e he]
  rw [State.drainWhere]
  rw [hnone, hall]
  rfl

theorem State.groupAt_setGroup_self (s : State) (t g h : Nat) : (s.setGroup t g (s.groupAt t g)).groupAt t h = s.groupAt t h := by
  by_cases heq : h = g
  · rw [heq, State.groupAt_setGroup_same]
  · rw [State.groupAt_setGroup_ne _ _ _ heq]

/-! ## Paths that wait on a release -/

/-- No path of the group waits on a release (R261). -/
def Group.Unwaiting (g : Group) : Prop := ∀ z ∈ g.paths, ∀ scope keys c, z.state ≠ .waiting scope keys c

theorem Group.Unwaiting.merge {g : Group} (h : g.Unwaiting) (fuel : Nat) : (g.merge fuel).Unwaiting := by
  induction fuel generalizing g with
  | zero => exact h
  | succ fuel ih =>
    have hmap : ∀ z ∈ g.paths.map (fun (x : Path) =>
        match x.splits with
        | (_, r) :: _ =>
          if x.state = PathState.run && x.pc = r && !g.bars.any fun b => x.mask.testBit b.lane then { x with state := .reconverged } else x
        | [] => x), ∀ scope keys c, z.state ≠ .waiting scope keys c := by
      intro z hz scope keys c
      obtain ⟨x, hx, rfl⟩ := List.mem_map.1 hz
      split
      · split
        · simp
        · exact h x hx scope keys c
      · exact h x hx scope keys c
    rw [Group.merge]
    dsimp only
    split
    · exact hmap
    · refine ih fun z hz => ?_
      simp only [List.append_assoc, List.mem_append, List.mem_filter, List.mem_singleton] at hz
      rcases hz with ⟨hz, -⟩ | rfl | ⟨hz, -⟩
      · exact hmap z (List.mem_of_mem_take hz)
      · simp
      · exact hmap z (List.mem_of_mem_drop hz)

theorem Group.Unwaiting.settle {g : Group} (h : g.Unwaiting) : g.settle.Unwaiting := by
  rw [Group.Unwaiting, Group.settle_paths]
  exact h

theorem Group.Unwaiting.advance {g : Group} (h : g.Unwaiting) : g.advance.Unwaiting := (h.merge 32).settle

/-- The path at one place runs, and no other path waits. -/
theorem Group.unwaiting_setPath_run {g : Group} {i : Nat} (h : ∀ j z, j ≠ i → g.paths[j]? = some z → ∀ scope keys c, z.state ≠ .waiting scope keys c) :
    (g.setPath i fun y => { y with state := .run }).Unwaiting := by
  intro z hz scope keys c
  obtain ⟨j, hj, rfl⟩ := List.mem_mapIdx.1 hz
  split
  · simp
  next hne => exact h j _ hne (List.getElem?_eq_getElem hj) scope keys c

/-! ## Waking (R81) -/

/-- The group after its paths that are parked on a granule have become ready. -/
def Group.woken (x : Group) (scratch : Bool) (granule : Nat) : Group :=
  ({ x with paths := x.paths.map fun (y : Path) => match y.state with
    | .parked gs _ => if gs.contains (scratch, granule) then { y with state := .run } else y
    | _ => y } : Group).settle

theorem Group.Unwaiting.woken {x : Group} (h : x.Unwaiting) (scratch : Bool) (granule : Nat) : (x.woken scratch granule).Unwaiting := by
  refine Group.Unwaiting.settle fun z hz scope keys c => ?_
  obtain ⟨y, hy, rfl⟩ := List.mem_map.1 hz
  split
  · split
    · simp
    · exact h y hy scope keys c
  · exact h y hy scope keys c

theorem Group.settle_values (g : Group) : g.settle.values = g.values := by
  obtain ⟨ps, c, n, h⟩ := g.settle_pathsOnly
  rw [h]

theorem Group.woken_values (x : Group) (scratch : Bool) (granule : Nat) : (x.woken scratch granule).values = x.values := by
  rw [Group.woken, Group.settle_values]

/-- What holds of a state, and goes on to hold when a group of the tile wakes, holds after the wake. -/
theorem State.wake_induction {P : State → Prop} {s : State} (t : Nat) (scratch : Bool) (granule : Nat) (hs : P s)
    (hset : ∀ s h, P s → P (s.setGroup t h ((s.groupAt t h).woken scratch granule))) : P (s.wake t scratch granule) := by
  rw [State.wake]
  generalize (s.tileAt t).groups = gs
  induction gs generalizing s with
  | nil => exact hs
  | cons e gs ih =>
    refine ih ?_
    dsimp only
    split
    · exact hset s e.1 hs
    · exact hs

/-! ## A scratch operation (R270) -/

/-- The state differs from `u` in tiles and tile stores alone, no path of tile `t` waits on a release, and the tile stores hold `store`. -/
structure TileQuiet (u : State) (t : Nat) (store : SMap Byte) (s : State) : Prop where
  tileOnly : TileOnly u s
  unwaiting : ∀ h, (s.groupAt t h).Unwaiting
  store : s.tile.scratch = store

theorem TileQuiet.setGroup {u s : State} {t : Nat} {store : SMap Byte} (hs : TileQuiet u t store s) (h : Nat)
    {x : Group} (hx : x.Unwaiting) : TileQuiet u t store (s.setGroup t h x) := by
  refine ⟨hs.tileOnly.setGroup t h x, fun h' => ?_, hs.store⟩
  by_cases heq : h' = h
  · rw [heq, State.groupAt_setGroup_same]
    exact hx
  · rw [State.groupAt_setGroup_ne _ _ _ heq]
    exact hs.unwaiting h'

theorem TileQuiet.wake {u s : State} {t : Nat} {store : SMap Byte} (hs : TileQuiet u t store s) (scratch : Bool) (granule : Nat) :
    TileQuiet u t store (s.wake t scratch granule) :=
  State.wake_induction t scratch granule hs fun _ h hs => hs.setGroup h ((hs.unwaiting h).woken scratch granule)

/-- Lane `lane` of group `g` has received the value `v`. -/
def State.gave (s : State) (t g lane v : Nat) : Prop := (lane, v) ∈ (s.groupAt t g).values

theorem State.gave_setGroup {s : State} {t g lane v h : Nat} {x : Group} (hs : s.gave t g lane v)
    (hx : x.values = (s.groupAt t h).values) : (s.setGroup t h x).gave t g lane v := by
  by_cases heq : g = h
  · rw [State.gave, heq, State.groupAt_setGroup_same, hx, ← heq]
    exact hs
  · rw [State.gave, State.groupAt_setGroup_ne _ _ _ heq]
    exact hs

theorem State.gave_settleGroup {s : State} {t g lane v : Nat} (hs : s.gave t g lane v) (h : Nat) : (s.settleGroup t h).gave t g lane v :=
  State.gave_setGroup hs (Group.advance_values _)

theorem TileQuiet.giveLane {u s : State} {t : Nat} {store : SMap Byte} (hs : TileQuiet u t store s) (g lane v : Nat) :
    TileQuiet u t store (s.giveLane t g lane v) := hs.setGroup g (hs.unwaiting g)

theorem TileQuiet.settleGroup {u s : State} {t : Nat} {store : SMap Byte} (hs : TileQuiet u t store s) (h : Nat) :
    TileQuiet u t store (s.settleGroup t h) := hs.setGroup h (hs.unwaiting h).advance

/-- One scratch operation of a lane, whose granule no entry of the group's queue holds. -/
theorem State.scratchOp_store {u s : State} {t g p off n : Nat} {op : LaneOp} {fn ty round : Nat}
    (hs : TileOnly u s) (hstore : s.tile.scratch = u.tile.scratch) (hn : elemBytes ty = some n)
    (hq : ∀ e ∈ (s.groupAt t g).queue, e.scratch = true → e.base ≠ alignDown off 64) :
    s.scratchOp t g p off op fn ty round = (leNat (u.scratchRead t off n), ((s.setGroup t g (s.groupAt t g)).scratchWrite t off
      (toLE n (elementOp fn ty round (u.satMode p) (leNat (u.scratchRead t off n)) op.operand.toNat op.compare.toNat))).wake t true
        (off / 64)) := by
  have hdrain := State.drainWhere_none (s := s) (t := t) (g := g) p (f := fun e => e.scratch && e.base == alignDown off 64)
    fun e he => by simpa using hq e he
  have hread : (s.setGroup t g (s.groupAt t g)).scratchRead t off n = u.scratchRead t off n := by
    rw [State.scratchRead, State.scratchRead, ← hstore]
    rfl
  rw [State.scratchOp, hdrain, hn]
  simp only [Option.getD_some, hread, (hs.setGroup t g (s.groupAt t g)).satMode]

theorem State.scratchWrite_scratch {u s : State} (hstore : s.tile.scratch = u.tile.scratch) (t off : Nat) (bs : List Byte) :
    (s.scratchWrite t off bs).tile.scratch = (u.scratchWrite t off bs).tile.scratch :=
  congrArg (fun m => mapSetList 0#8 m _ _) hstore

/-- The operation `op` on the scratch element at `off` is done: its lane has the old value, and the tile store the new one. -/
def ScratchDone (u : State) (t g p off n : Nat) (op : LaneOp) (fn ty round : Nat) (w : State) : Prop :=
  w.gave t g op.lane (leNat (u.scratchRead t off n)) ∧
    TileQuiet u t (u.scratchWrite t off (toLE n (elementOp fn ty round (u.satMode p) (leNat (u.scratchRead t off n))
      op.operand.toNat op.compare.toNat))).tile.scratch w

theorem ScratchDone.settleGroup {u w : State} {t g p off n : Nat} {op : LaneOp} {fn ty round : Nat}
    (h : ScratchDone u t g p off n op fn ty round w) (g' : Nat) : ScratchDone u t g p off n op fn ty round (w.settleGroup t g') :=
  ⟨State.gave_settleGroup h.1 g', h.2.settleGroup g'⟩

/-! ## The release of an operation that owes nothing -/

theorem inLaneOrder_singleton (op : LaneOp) : inLaneOrder [op] = [op] := by
  have h : ∀ l : Fin 32, ((List.range 32).flatMap fun i => if l.val == i then [op] else []) = [op] := by
    intro l
    fin_cases l <;> rfl
  rw [inLaneOrder]
  simp only [List.filter_cons, List.filter_nil]
  exact h op.lane

/-- A fold does one thing where all places but one do nothing. -/
theorem foldl_eq_of_one {f : State → Nat → State} {s s' : State} {i : Nat} (hi : f s i = s') (hbefore : ∀ j, j ≠ i → f s j = s)
    (hafter : ∀ j, f s' j = s') {l : List Nat} (hl : i ∈ l) : l.foldl f s = s' := by
  induction l with
  | nil => cases hl
  | cons j l ih =>
    rw [List.foldl_cons]
    by_cases heq : j = i
    · rw [heq, hi]
      exact List.foldl_fixed' hafter l
    · rw [hbefore j heq]
      exact ih ((List.mem_cons.1 hl).resolve_left (Ne.symm heq))

/-- The path at place `i` of a group goes on where it waits on a release that is complete (R261). -/
def State.releaseStep (s : State) (t h p i : Nat) : State :=
  match (((s.groupAt t h).paths[i]?).map fun y => y.state : Option PathState) with
  | some (.waiting scope keys c) =>
    let r := s.goesOn t h p scope keys c
    if r.1 then r.2.runCont t h p i c else r.2
  | _ => s

theorem State.checkReleases_eq {s : State} {t : Nat} {k : Task} (hk : s.taskOn t = some k) :
    s.checkReleases t = (s.tileAt t).groups.foldl (fun s e =>
      ((List.range 32).foldl (fun s i => s.releaseStep t e.1 k.part i) s).settleGroup t e.1) s := by
  rw [State.checkReleases, hk]
  rfl

theorem State.releaseStep_of_running {s : State} {t h : Nat} (p : Nat) {i : Nat}
    (hrun : ∀ z, (s.groupAt t h).paths[i]? = some z → ∀ scope keys c, z.state ≠ .waiting scope keys c) : s.releaseStep t h p i = s := by
  rw [State.releaseStep]
  split
  next scope keys c heq =>
    obtain ⟨z, hz, hst⟩ := Option.map_eq_some_iff.1 heq
    exact absurd hst (hrun z hz scope keys c)
  next => rfl

theorem State.releaseStep_of_unwaiting {s : State} {t h : Nat} (p i : Nat) (hrun : (s.groupAt t h).Unwaiting) :
    s.releaseStep t h p i = s :=
  State.releaseStep_of_running p fun z hz => hrun z (List.mem_of_getElem? hz)

theorem State.releaseDone_nothing (s : State) (t g : Nat) : s.releaseDone t g 0 [] = true := by
  have hwaits : ∀ home w, releaseWaits t g 0 [] home w = false := by
    intro home w
    cases w <;> simp [releaseWaits, covers]
  simp [State.releaseDone, hwaits]

theorem State.clearSectors_scratch {s : State} (t g p : Nat) {op : LaneOp} {off : Nat} (hloc : op.loc = .scratch off) :
    s.clearSectors t g p [op] = ([], s.setGroup t g (s.groupAt t g)) := by
  simp only [State.clearSectors, List.filterMap_cons, hloc, List.filterMap_nil, List.eraseDups_nil, List.foldl_nil, List.contains_nil,
    Bool.and_false]
  rw [State.drainWhere_none p fun e _ => rfl]

theorem State.startRelease_nothing (s : State) (t g p : Nat) : s.startRelease t g p 0 = s := by
  simp [State.startRelease, covers]

theorem State.taskOn_setGroup (s : State) (t g : Nat) (x : Group) : (s.setGroup t g x).taskOn t = s.taskOn t := by
  have htask : ((s.setGroup t g x).tileAt t).task = (s.tileAt t).task := by rw [State.setGroup, State.tileAt_setTile_same]
  have hfenced : (s.setGroup t g x).fenced t = s.fenced t := rfl
  have hbyId : (s.setGroup t g x).taskById = s.taskById := rfl
  rw [State.taskOn, State.taskOn, htask, hfenced, hbyId]

/-- A scratch operation stands at place `i` of group `g`, whose release owes nothing, and no other path of the tile waits. -/
structure ScratchPending (u : State) (t g i : Nat) (c : Cont) (x : Group) (s : State) : Prop where
  tileOnly : TileOnly u s
  others : ∀ h, h ≠ g → (s.groupAt t h).Unwaiting
  here : s.groupAt t g = x.setPath i fun y => { y with state := .waiting 0 [] c }
  store : s.tile.scratch = u.tile.scratch

theorem ScratchPending.setGroup_other {u s : State} {t g i : Nat} {c : Cont} {x : Group} (hs : ScratchPending u t g i c x s) {h : Nat}
    (hne : h ≠ g) {z : Group} (hz : z.Unwaiting) : ScratchPending u t g i c x (s.setGroup t h z) := by
  refine ⟨hs.tileOnly.setGroup t h z, fun h' hne' => ?_, ?_, hs.store⟩
  · by_cases heq : h' = h
    · rw [heq, State.groupAt_setGroup_same]
      exact hz
    · rw [State.groupAt_setGroup_ne _ _ _ heq]
      exact hs.others h' hne'
  · rw [State.groupAt_setGroup_ne _ _ _ hne.symm]
    exact hs.here

theorem ScratchPending.queue {u s : State} {t g i : Nat} {c : Cont} {x : Group} (hs : ScratchPending u t g i c x s) :
    (s.groupAt t g).queue = x.queue := by
  rw [hs.here]
  rfl

/-- The release of the pending operation is complete at once, and the operation applies (R270). -/
theorem ScratchPending.releaseStep {u s : State} {t g i p off n : Nat} {op : LaneOp} {fn ty round : Nat} {x : Group}
    (hs : ScratchPending u t g i (.atomic [op] fn ty round none false false) x s) (hx : x.Unwaiting) (hi : i < x.paths.length)
    (hloc : op.loc = .scratch off) (hn : elemBytes ty = some n)
    (hq : ∀ e ∈ x.queue, e.scratch = true → e.base ≠ alignDown off 64) :
    ∃ w, s.releaseStep t g p i = w ∧ ScratchDone u t g p off n op fn ty round w := by
  have hself : TileOnly u (s.setGroup t g (s.groupAt t g)) := hs.tileOnly.setGroup t g _
  set v := (s.setGroup t g (s.groupAt t g)).setGroup t g (((s.setGroup t g (s.groupAt t g)).groupAt t g).setPath i
    fun y => { y with state := .run }) with hv
  have hquiet : TileQuiet u t u.tile.scratch v := by
    refine ⟨hself.setGroup t g _, fun h => ?_, hs.store⟩
    by_cases heq : h = g
    · rw [heq, hv, State.groupAt_setGroup_same, State.groupAt_setGroup_same, hs.here]
      refine Group.unwaiting_setPath_run fun j z hne hz => hx z ?_
      simp only [Group.setPath, List.getElem?_mapIdx, Option.map_eq_some_iff, hne, if_false] at hz
      obtain ⟨z', hz', rfl⟩ := hz
      exact List.mem_of_getElem? hz'
    · rw [hv, State.groupAt_setGroup_ne _ _ _ heq, State.groupAt_setGroup_ne _ _ _ heq]
      exact hs.others h heq
  have hqueue : (v.groupAt t g).queue = x.queue := by
    rw [hv, State.groupAt_setGroup_same, State.groupAt_setGroup_same]
    exact hs.queue
  have hop := State.scratchOp_store (g := g) (p := p) (fn := fn) (round := round) (op := op) hquiet.tileOnly hquiet.store hn
    (by rw [hqueue]; exact hq)
  have hself' := hquiet.setGroup g (hquiet.unwaiting g)
  have hdone := TileQuiet.wake ⟨hself'.tileOnly.scratchWrite t off (toLE n (elementOp fn ty round (u.satMode p)
    (leNat (u.scratchRead t off n)) op.operand.toNat op.compare.toNat)), hself'.unwaiting,
    State.scratchWrite_scratch hself'.store t off _⟩ true (off / 64)
  refine ⟨(v.scratchOp t g p off op fn ty round).2.giveLane t g op.lane (v.scratchOp t g p off op fn ty round).1, ?_, ?_, ?_⟩
  · have hat : ((s.groupAt t g).paths[i]?).map (fun y => y.state) = some (.waiting 0 [] (.atomic [op] fn ty round none false false)) := by
      rw [hs.here]
      simp [Group.setPath, hi]
    have hgo : s.goesOn t g p 0 [] (.atomic [op] fn ty round none false false) = (true, s.setGroup t g (s.groupAt t g)) := by
      rw [State.goesOn, State.releaseDone_nothing]
      dsimp only
      rw [State.clearSectors_scratch t g p hloc]
      simp [State.releaseDone_nothing]
    rw [State.releaseStep, hat]
    dsimp only
    rw [hgo]
    simp only [if_true, State.runCont, inLaneOrder_singleton, State.scratchOps, State.sendOps, List.foldl_cons, List.foldl_nil, hloc,
      Bool.false_eq_true, if_false, Option.isSome_none, Bool.false_and]
    rfl
  · rw [hop]
    exact State.mem_values_giveLane ..
  · rw [hop]
    exact hdone.giveLane g _ _

/-- The releases of the tile are looked at: the pending operation applies, whatever the order of the groups. -/
theorem ScratchPending.checkReleases {u s : State} {t g i off n : Nat} {k : Task} {op : LaneOp} {fn ty round : Nat} {x : Group}
    (hs : ScratchPending u t g i (.atomic [op] fn ty round none false false) x s) (hk : s.taskOn t = some k)
    (hg : g ∈ (s.tileAt t).groups.map Prod.fst) (hx : x.Unwaiting) (hi : i < x.paths.length) (hlen : x.paths.length ≤ 32)
    (hloc : op.loc = .scratch off) (hn : elemBytes ty = some n)
    (hq : ∀ e ∈ x.queue, e.scratch = true → e.base ≠ alignDown off 64) :
    ScratchDone u t g k.part off n op fn ty round (s.checkReleases t) := by
  rw [State.checkReleases_eq hk]
  generalize (s.tileAt t).groups = gs at hg
  have hdone : ∀ (gs : SMap Group) (w : State), ScratchDone u t g k.part off n op fn ty round w →
      ScratchDone u t g k.part off n op fn ty round
        (gs.foldl (fun s e => ((List.range 32).foldl (fun s i => s.releaseStep t e.1 k.part i) s).settleGroup t e.1) w) := by
    intro gs
    induction gs with
    | nil => exact fun w hw => hw
    | cons e gs ih =>
      intro w hw
      have hfixed : (List.range 32).foldl (fun s i => s.releaseStep t e.1 k.part i) w = w :=
        List.foldl_fixed' (fun j => State.releaseStep_of_unwaiting _ j (hw.2.unwaiting e.1)) _
      rw [List.foldl_cons, hfixed]
      exact ih _ (hw.settleGroup e.1)
  induction gs generalizing s with
  | nil => cases hg
  | cons e gs ih =>
    rw [List.foldl_cons]
    by_cases heq : e.1 = g
    · obtain ⟨w, hstep, hw⟩ := hs.releaseStep (p := k.part) hx hi hloc hn hq
      have hfold : (List.range 32).foldl (fun s i => s.releaseStep t e.1 k.part i) s = w := by
        rw [heq]
        refine foldl_eq_of_one hstep (fun j hne => State.releaseStep_of_running _ fun z hz => ?_)
          (fun j => State.releaseStep_of_unwaiting _ j (hw.2.unwaiting g)) (List.mem_range.2 (by omega))
        rw [hs.here] at hz
        simp only [Group.setPath, List.getElem?_mapIdx, Option.map_eq_some_iff, hne, if_false] at hz
        obtain ⟨z', hz', rfl⟩ := hz
        exact hx z' (List.mem_of_getElem? hz')
      rw [hfold]
      exact hdone gs _ (hw.settleGroup e.1)
    · have hfixed : (List.range 32).foldl (fun s i => s.releaseStep t e.1 k.part i) s = s :=
        List.foldl_fixed' (fun j => State.releaseStep_of_unwaiting _ j (hs.others e.1 heq)) _
      rw [hfixed]
      exact ih (hs.setGroup_other heq (hs.others e.1 heq).advance) (by rw [State.settleGroup, State.taskOn_setGroup, hk])
        ((List.mem_cons.1 hg).resolve_left (Ne.symm heq))

/-- A scratch operation whose ordering asks for no release acts at once (R270). -/
theorem State.runOps_scratch {u : State} {t g i off n : Nat} {k : Task} {op : LaneOp} {fn ty round : Nat} (hk : u.taskOn t = some k)
    (hx : ∀ h, (u.groupAt t h).Unwaiting) (hi : i < (u.groupAt t g).paths.length) (hlen : (u.groupAt t g).paths.length ≤ 32)
    (hloc : op.loc = .scratch off) (hn : elemBytes ty = some n)
    (hq : ∀ e ∈ (u.groupAt t g).queue, e.scratch = true → e.base ≠ alignDown off 64) :
    ScratchDone u t g k.part off n op fn ty round (u.runOps t g i k.part [op] fn ty round 0 none false false) := by
  set c : Cont := .atomic [op] fn ty round none false false with hc
  set v := u.setGroup t g (u.groupAt t g) with hv
  set x := (u.groupAt t g).setPath i fun y => { y with state := .waiting 0 [] c } with hxdef
  have hgo : u.runOps t g i k.part [op] fn ty round 0 none false false = (v.setGroup t g x).checkReleases t := by
    have hbad : u.badOp t k.part [op] = none := by simp [State.badOp, hloc]
    have hstate : ∀ scope keys c, ((u.groupAt t g).paths[i]?).map (fun y => y.state) ≠ some (.waiting scope keys c) := by
      intro scope keys c heq
      obtain ⟨z, hz, hst⟩ := Option.map_eq_some_iff.1 heq
      exact hx g z (List.mem_of_getElem? hz) scope keys c hst
    rw [State.runOps, hbad]
    dsimp only
    rw [State.clearSectors_scratch t g k.part hloc]
    split
    next heq => exact absurd heq (hstate _ _ _)
    next =>
      rw [State.releaseAt, State.startRelease_nothing, State.groupAt_setGroup_same]
      rfl
  have hpending : ScratchPending u t g i c (u.groupAt t g) (v.setGroup t g x) := by
    refine ⟨((TileOnly.refl u).setGroup t g _).setGroup t g _, fun h hne => ?_, State.groupAt_setGroup_same .., rfl⟩
    rw [State.groupAt_setGroup_ne _ _ _ hne, hv, State.groupAt_setGroup_ne _ _ _ hne]
    exact hx h
  have hmem : g ∈ ((v.setGroup t g x).tileAt t).groups.map Prod.fst := by
    have hne : x ≠ {} := fun h0 => by
      have hpaths := congrArg (fun z => z.paths.length) h0
      simp [hxdef, Group.setPath] at hpaths
      rw [hpaths] at hi
      cases hi
    rw [State.setGroup, State.tileAt_setTile_same]
    dsimp only
    rw [mapSet, if_neg hne]
    exact List.mem_map.2 ⟨(g, x), mem_mapInsert.2 (.inl rfl), rfl⟩
  rw [hgo]
  exact hpending.checkReleases (by rw [State.taskOn_setGroup, hv, State.taskOn_setGroup, hk]) hmem (hx g) hi hlen hloc hn hq

/-! ## The statement -/

theorem atomic_allowed {s : State} {p f ty mode : Nat} (h : if f = fnSwap ∨ f = fnCas then swapAllows ty = true
    else opAllows f ty = true ∧ s.roundOf p mode < 4) :
    (if f = fnSwap || f = fnCas then swapAllows ty else opAllows f ty && s.roundOf p mode < 4) = true := by
  by_cases hf : f = fnSwap ∨ f = fnCas
  · rw [if_pos hf] at h
    rw [if_pos (by simpa using hf), h]
  · rw [if_neg hf] at h
    rw [if_neg (by simpa using hf), h.1, decide_eq_true h.2]
    rfl

theorem elementOp_cas {ty n v x c : Nat} (round sat : Nat) (hn : elemBytes ty = some n) (hv : v = c % 2 ^ (8 * n)) :
    elementOp fnCas ty round sat v x c = x % 2 ^ (8 * n) := by
  simp [elementOp, fnCas, fnSwap, hn, hv]

theorem Group.splitCas_values (x : Group) (i now : Nat) (locks : List (Nat × Bool × Nat)) :
    (x.splitCas i 0 now locks).values = x.values := by
  rw [Group.splitCas]
  split <;> rfl

theorem Group.unwaiting_mapGet {m : SMap Group} (h : ∀ e ∈ m, ∀ z ∈ e.2.paths, ∀ a b c, z.state ≠ .waiting a b c) (k : Nat) :
    (mapGet {} m k).Unwaiting := by
  induction m with
  | nil => exact fun z hz => absurd hz (by simp)
  | cons e m ih =>
    rw [mapGet_cons]
    split
    · exact h e (by simp)
    · exact ih fun e' he' => h e' (by simp [he'])

/-- Settles O9: an operation on the scratch whose release owes nothing is followed through the releases of its tile. -/
theorem atomics : Obligations.Atomics := by
  refine ⟨fun s u t g k y op off n fn ty round scope h hloc hscope hn hallow hin hq hk hlane hlen hwait => ?_,
    fun s u t g k y op pa fn ty round ordering scope h hloc hscope hallow => ?_,
    fun s u t g k y ops mine n fn ty round h hmine hn hallow hround hmem => ?_,
    fun s u t g k y ops o n off fn ty round h hops hlane hloc hn => ?_,
    fun s u t g k y ops mine ty h hmine hne hallow hmem => ?_,
    fun s u t g k y o n off ty h hmask hloc hallow hn hin hq hcmp => ?_,
    fun s u t g k y op fn ty round ordering scope h hscope => ?_⟩
  · have hx : ∀ h, (u.groupAt t h).Unwaiting := fun h => Group.unwaiting_mapGet hwait h
    obtain ⟨i, hi, hpath⟩ : ∃ i < (u.groupAt t g).paths.length, (u.groupAt t g).pathOf op.lane = some i := by
      obtain ⟨i, hi⟩ := Option.ne_none_iff_exists'.1 fun hnone => by
        obtain ⟨z, hz, hbit⟩ := hlane
        exact absurd hbit (by simpa using List.findIdx?_eq_none_iff.1 hnone z hz)
      exact ⟨i, (List.findIdx?_eq_some_iff_findIdx_eq.1 hi).1, hi⟩
    have hexec : exec (.atomic t g op fn ty round 0 scope) s = .next ((u.runOps t g i k.part [op] fn.toNat ty.toNat
        (u.roundOf k.part round.toNat) 0 none false false).settleGroup t g) := by
      refine congrArg Host.Outcome.next ((State.withLane_some h _).trans ?_)
      have hlegal : ¬4 < scope.toNat := by omega
      simp only [atomic_allowed hallow, hlegal, hloc, hn, Option.getD_some, hin, hpath]
      rfl
    obtain ⟨hgave, hquiet⟩ := (State.runOps_scratch hk hx hi hlen hloc hn hq).settleGroup g
    exact ⟨_, hexec, hgave, hquiet.store, hquiet.tileOnly.within⟩
  · refine congrArg Host.Outcome.next ((State.withLane_some h _).trans ?_)
    have hlegal : ¬4 < scope.toNat := by omega
    simp only [atomic_allowed hallow, hlegal, hloc]
    rfl
  · refine congrArg Host.Outcome.next ((State.withPath_some h _).trans ?_)
    have hmode : ¬3 < u.roundOf k.part round.toNat := by omega
    simp only [← hmine, hn, Option.getD_some, hallow, hmode]
    rw [if_neg]
    intro hany
    obtain ⟨o, ho, hmis⟩ := List.any_eq_true.1 (by simpa using hany)
    obtain ⟨pa, hloc, hpa⟩ := hmem o ho
    simp [hloc, hpa] at hmis
  · refine congrArg Host.Outcome.next ((State.withPath_some h _).trans ?_)
    have hmine : (ops.filter fun o => y.mask.testBit o.lane) = [o] := by simp [hops, hlane]
    simp only [hmine, hn, Option.getD_some]
    rcases hloc with hloc | ⟨hloc, hpa⟩
    · simp [hloc]
    · simp [hloc, hpa]
  · refine congrArg Host.Outcome.next ((State.withPath_some h _).trans ?_)
    have hall : (mine.all fun o => match o.loc with | .mem _ => true | .scratch _ => false) = true :=
      List.all_eq_true.2 fun o ho => by
        obtain ⟨pa, hloc⟩ := hmem o ho
        rw [hloc]
    have hnone : (mine.find? fun o => match o.loc with
        | .scratch off => u.outOfStore t off ((elemBytes ty.toNat).getD 0) | .mem _ => false) = none :=
      List.find?_eq_none.2 fun o ho => by
        obtain ⟨pa, hloc⟩ := hmem o ho
        simp [hloc]
    have hnil : mine.isEmpty = false := by simpa using hne
    simp only [← hmine, hallow, hnil]
    erw [hall, hnone]
    simp
  · have hmine : ([o].filter fun o => y.mask.testBit o.lane) = [o] := by
      simp [hmask, Nat.testBit_two_pow_self]
    have hop := State.scratchOp_store (g := g) (p := k.part) (fn := fnCas) (round := 0) (op := o) (.refl u) rfl hn hq
    rw [elementOp_cas _ _ hn hcmp] at hop
    set w := ((u.setGroup t g (u.groupAt t g)).scratchWrite t off (toLE n (o.operand.toNat % 2 ^ (8 * n)))).wake t true (off / 64)
      with hw
    set v := w.giveLane t g o.lane (o.compare.toNat % 2 ^ (8 * n)) with hv
    have hexec : exec (.casLockHint t g ty [o]) s = .next (((v.setGroup t g ((v.groupAt t g).splitCas (v.groupAt t g).cur 0 v.clock.now
        [(o.lane.val, true, off / 64)])).settleGroup t g).settleGroup t g) := by
      refine congrArg Host.Outcome.next ((State.withPath_some h _).trans ?_)
      have hfinish : v.finishCas t g (v.groupAt t g).cur 0 [(o.lane.val, true, off / 64)] = (v.setGroup t g ((v.groupAt t g).splitCas
          (v.groupAt t g).cur 0 v.clock.now [(o.lane.val, true, off / 64)])).settleGroup t g := by
        rw [State.finishCas]
        split <;> simp
      simp [hmine, hallow, hn, hloc, inLaneOrder_singleton, hin, hop, hcmp, ← hv, hfinish]
    have hgave : v.gave t g o.lane (o.compare.toNat % 2 ^ (8 * n)) := State.mem_values_giveLane ..
    have hstore : w.tile.scratch = (u.scratchWrite t off (toLE n (o.operand.toNat % 2 ^ (8 * n)))).tile.scratch :=
      (State.wake_keeps _ t true (off / 64)).scratch (by decide)
    refine ⟨_, hexec, State.gave_settleGroup (State.gave_settleGroup (State.gave_setGroup hgave (Group.splitCas_values ..)) g) g,
      hstore, ?_⟩
    have honly : TileOnly u w := State.wake_induction t true (off / 64) (((TileOnly.refl u).setGroup t g _).scratchWrite t off _)
      fun _ h hs => hs.setGroup t h _
    exact ((((honly.setGroup t g _).setGroup t g _).setGroup t g _).setGroup t g _).within
  · refine congrArg Host.Outcome.next ((State.withLane_some h _).trans ?_)
    simp [hscope]

end Sys2Proof.Machine

/-! SUPPORT. Eyelets (R271 to R275, R281): the statement O10. -/

namespace Sys2Proof.Machine

set_option Elab.async false

/-! ## The count of an eyelet -/

@[simp] theorem State.eye_setEye_same (s : State) (e : Nat) (v : Eyelet) : (s.setEye e v).eye e = v := mapGet_mapSet_same ..

theorem State.eye_setEye_ne (s : State) {e e' : Nat} (v : Eyelet) (h : e' ≠ e) : (s.setEye e v).eye e' = s.eye e' :=
  mapGet_mapSet_ne _ _ _ h

theorem State.eye_congr {s u : State} (h : u.eyelets = s.eyelets) (e : Nat) : u.eye e = s.eye e := by
  rw [State.eye, h, State.eye]

/-- What an addition makes of the count of an eyelet (R272). -/
def Eyelet.plus (v : Eyelet) (n : Nat) : Eyelet := if v.count + n < 2 ^ 63 then { v with count := v.count + n } else ⟨2 ^ 63 - 1, true⟩

theorem State.eyeCount_cases (s : State) (e n : Nat) :
    s.eyeCount e n = (s.addTo (fEyeCntArrive_count (e / 32768)) 1).setEye e ((s.eye e).plus n) ∨
      s.eyeCount e n = ((s.addTo (fEyeCntArrive_count (e / 32768)) 1).setEye e ((s.eye e).plus n)).bump
        (fEyeStatus_saturated (e / 32768)) 1 := by
  rw [State.eyeCount, Eyelet.plus]
  dsimp only
  by_cases hlt : (s.eye e).count + n < 2 ^ 63
  · rw [if_pos hlt, if_pos hlt]
    exact .inl rfl
  · rw [if_neg hlt, if_neg hlt]
    split
    · exact .inl rfl
    · exact .inr rfl

theorem State.eye_eyeCount (s : State) (e n : Nat) : (s.eyeCount e n).eye e = (s.eye e).plus n := by
  rcases s.eyeCount_cases e n with h | h
  · rw [h, State.eye_setEye_same]
  · rw [h, State.eye_congr ((State.bump_keeps _ _ _).eyelets (by decide)), State.eye_setEye_same]

theorem State.eye_eyeCount_ne (s : State) {e e' : Nat} (n : Nat) (hne : e' ≠ e) : (s.eyeCount e n).eye e' = s.eye e' := by
  have hadd : (s.addTo (fEyeCntArrive_count (e / 32768)) 1).eye e' = s.eye e' := State.eye_congr rfl e'
  rcases s.eyeCount_cases e n with h | h
  · rw [h, State.eye_setEye_ne _ _ hne, hadd]
  · rw [h, State.eye_congr ((State.bump_keeps _ _ _).eyelets (by decide)), State.eye_setEye_ne _ _ hne, hadd]

theorem State.eyeCount_within (s : State) (e n : Nat) : Within [.regs, .eyelets] s (s.eyeCount e n) := (State.eyeCount_keeps s e n).within

theorem State.eyeCount_regsKept (s : State) (e n : Nat) :
    RegsKept [fEyeCntArrive_count (e / 32768), fEyeStatus_saturated (e / 32768)] s (s.eyeCount e n) := by
  have hadd : RegsKept [fEyeCntArrive_count (e / 32768), fEyeStatus_saturated (e / 32768)] s
      ((s.addTo (fEyeCntArrive_count (e / 32768)) 1).setEye e ((s.eye e).plus n)) :=
    (RegsKept.addTo (.of_eq rfl) 1 (by simp)).trans (.of_eq rfl)
  rcases s.eyeCount_cases e n with h | h <;> rw [h]
  · exact hadd
  · exact hadd.bump 1 (by simp)

/-! ## A path that waits on an eyelet -/

/-- A path that neither runs nor has reconverged stays as it is. -/
theorem Group.mem_merge {g : Group} {z : Path} (hz : z ∈ g.paths) (hrun : z.state ≠ .run) (hrec : z.state ≠ .reconverged) (fuel : Nat) :
    z ∈ (g.merge fuel).paths := by
  induction fuel generalizing g with
  | zero => exact hz
  | succ fuel ih =>
    set ps := g.paths.map (fun (x : Path) =>
        match x.splits with
        | (_, r) :: _ =>
          if x.state = PathState.run && x.pc = r && !g.bars.any fun b => x.mask.testBit b.lane then
            { x with state := .reconverged } else x
        | [] => x) with hps
    have hmem : z ∈ ps := List.mem_map.2 ⟨z, hz, by split <;> simp [hrun]⟩
    rw [Group.merge]
    dsimp only
    split
    · exact hmem
    next k r rest hdone =>
      obtain ⟨x, -, hx⟩ := List.exists_of_findSome?_eq_some hdone
      have hkin : (ps.filter fun y => y.splits.any fun e => e.1 == k).all fun y =>
          y.state == .reconverged && (y.splits.head?.map fun e => e.1) == some k := by
        split at hx
        · split at hx
          next hall =>
            simp only [Option.some.injEq, Prod.mk.injEq] at hx
            obtain ⟨rfl, -, -⟩ := hx
            exact hall
          next => cases hx
        · cases hx
      have hout : ((z.splits.head?.map fun e => e.1) == some k) = false := by
        cases hhead : (z.splits.head?.map fun e => e.1) == some k with
        | false => rfl
        | true =>
          have hin : z.splits.any fun e => e.1 == k := by
            cases hsp : z.splits with
            | nil => simp [hsp] at hhead
            | cons e es => simpa [hsp] using .inl (by simpa [hsp] using hhead)
          have hall := List.all_eq_true.1 hkin z (List.mem_filter.2 ⟨hmem, hin⟩)
          simp [hrec] at hall
      refine ih ?_
      have hsplit : z ∈ ps.take ((ps.findIdx? fun y => (y.splits.head?.map fun e => e.1) == some k).getD 0) ++
          ps.drop ((ps.findIdx? fun y => (y.splits.head?.map fun e => e.1) == some k).getD 0) := by
        rwa [List.take_append_drop]
      rcases List.mem_append.1 hsplit with htake | hdrop
      · exact List.mem_append_left _ (List.mem_append_left _ (List.mem_filter.2 ⟨htake, by rw [hout]; rfl⟩))
      · exact List.mem_append_right _ (List.mem_filter.2 ⟨hdrop, by rw [hout]; rfl⟩)

theorem Group.mem_advance {g : Group} {z : Path} (hz : z ∈ g.paths) (hrun : z.state ≠ .run) (hrec : z.state ≠ .reconverged) :
    z ∈ g.advance.paths := by
  rw [Group.advance, Group.settle_paths]
  exact Group.mem_merge hz hrun hrec 32

theorem State.groupAt_acquire (s : State) (t scope g : Nat) : (s.acquire t scope).groupAt t g = s.groupAt t g := by
  rw [State.groupAt, State.acquire, State.setL1, State.tileAt_setTile_same, State.groupAt]
  rfl

/-! ## Instructions on an eyelet (R272) -/

theorem State.withEyelet_some {s u : State} {t g i e : Nat} {k : Task} {y : Path} (h : s.fetchPath t g = (some (k, y), u))
    (he : u.eyeletOf k.part i = some e) (f : Task → Nat → State → State) :
    s.withEyelet t g i f = (f k e u).settleGroup t g := by
  rw [State.withEyelet, State.withPath_some h, he]

theorem State.withEyelet_none {s u : State} {t g i : Nat} {k : Task} {y : Path} (h : s.fetchPath t g = (some (k, y), u))
    (he : u.eyeletOf k.part i = none) (f : Task → Nat → State → State) :
    s.withEyelet t g i f = (u.stepFault t g (lowestLane y.mask) 3 y.pc).settleGroup t g := by
  rw [State.withEyelet, State.withPath_some h, he]

/-! ## The end of a wait (R273) -/

/-- The group once the path at place `n`, of lanes `mask`, has been told `code`. -/
def Group.told (x : Group) (n mask code : Nat) : Group :=
  ({ x.setPath n (fun y => { y with state := .run }) with
    values := x.values.filter (fun w => !mask.testBit w.1) ++ ((List.range 32).filter fun i => mask.testBit i).map
      fun i => (i, code) } : Group).advance

theorem Group.mem_told {x : Group} {n mask code lane : Nat} (hlane : lane < 32) (hbit : mask.testBit lane = true) :
    (lane, code) ∈ (x.told n mask code).values := by
  rw [Group.told, Group.advance_values]
  exact List.mem_append_right _ (List.mem_map.2 ⟨lane, List.mem_filter.2 ⟨List.mem_range.2 hlane, hbit⟩, rfl⟩)

theorem Group.told_paths {x : Group} {n mask code : Nat} {y : Path} (hy : x.paths[n]? = some y)
    (hsplits : ∀ z ∈ x.paths, z.splits = []) : (x.told n mask code).paths[n]? = some { y with state := .run } := by
  have hnone : ∀ z ∈ (x.setPath n fun y => { y with state := .run }).paths, z.splits = [] := by
    intro z hz
    obtain ⟨i, hi, rfl⟩ := List.mem_mapIdx.1 hz
    split
    · exact hsplits x.paths[i] (List.getElem_mem hi)
    · exact hsplits _ (List.getElem_mem hi)
  have hpaths := Group.advance_paths_of_no_splits (g := { x.setPath n (fun y => { y with state := .run }) with
    values := x.values.filter (fun w => !mask.testBit w.1) ++ ((List.range 32).filter fun i => mask.testBit i).map
      fun i => (i, code) }) hnone
  rw [Group.told, hpaths]
  simp [Group.setPath, List.getElem?_mapIdx, hy]

theorem exec_eyeWaitResolve {s : State} {t : TileId} {g : Grp} {n e target scope : Nat} {y : Path}
    (hy : (s.groupAt t g).paths[n]? = some y) (hst : y.state = .eyeWait e target scope) :
    exec (.eyeWaitResolve t g n) s =
      if (s.eye e).void then
        .next ((s.setGroup t g ((s.groupAt t g).told n y.mask 1)).addTo (fEyeCntVoid_count (e / 32768)) 1)
      else if target ≤ (s.eye e).count then
        .next (((s.setGroup t g ((s.groupAt t g).told n y.mask 0)).addTo (fEyeCntOk_count (e / 32768)) 1).acquire t scope)
      else .next s := by
  show execEyeWaitResolve t g n s = _
  rw [execEyeWaitResolve]
  simp only [hy, hst]
  rfl

/-! ## EYE_CTL (R281) -/

theorem spaceOf_eyeCtl (p : Nat) {off : Nat} (hoff : off < 2 ^ 24) : spaceOf (2 ^ 32 + p * 2 ^ 24 + off) = (.view, p, off) := by
  rw [spaceOf, if_pos (by omega)]
  simp only [Prod.mk.injEq, true_and]
  omega

theorem RegKind.instAt_of_view {k : RegKind} {a p off : Nat} (ha : spaceOf a = (.view, p, off)) (hk : k.space ≠ .view) :
    k.instAt a = none := by
  rw [RegKind.instAt, ha]
  have hne : (k.space == .view) = false := by simpa using hk
  simp [hne]

theorem instAt_kPartCommit {a p off : Nat} (ha : spaceOf a = (.view, p, off)) (hoff : off ≠ 0xf00) : kPartCommit.instAt a = none := by
  rw [RegKind.instAt, ha]
  simp [kPartCommit, hoff]

theorem instAt_kEyeCtl {a p i : Nat} (ha : spaceOf a = (.view, p, 0x100008 + 16 * i)) (hi : i < 65536) : kEyeCtl.instAt a = some i := by
  rw [RegKind.instAt, ha]
  simp [kEyeCtl, hi]

/-- The action that a write of EYE_CTL has (R281). -/
theorem actions_eyeCtl {a p i : Nat} (ha : spaceOf a = (.view, p, 0x100008 + 16 * i)) (hi : i < 65536) :
    (actions.findSome? fun x => (x.kind.instAt a).map fun i => (x, i)) =
      some (⟨kEyeCtl, true, fun s p i v => s.eyeCtl p i v⟩, i) := by
  have hview {k : RegKind} (hk : k.space ≠ .view) := RegKind.instAt_of_view ha hk
  simp only [actions, onBit0, List.findSome?_cons, instAt_kPartCommit ha (by omega), instAt_kEyeCtl ha hi, Option.map_some,
    Option.map_none, hview (k := kStchCtrl) (by decide), hview (k := kLdrCtrl) (by decide), hview (k := kCfgCommit) (by decide),
    hview (k := kTileCntCtrl) (by decide), hview (k := kMeshCntCtrl) (by decide), hview (k := kWeltCntCtrl) (by decide),
    hview (k := kL2CntCtrl) (by decide), hview (k := kL3CntCtrl) (by decide), hview (k := kDirPeekCtrl) (by decide),
    hview (k := kDirLostTail) (by decide), hview (k := kDirCntCtrl) (by decide)]

theorem State.writeReg_of_eyeCtl (s : State) {a p i : Nat} (v : Nat) (ha : spaceOf a = (.view, p, 0x100008 + 16 * i)) (hi : i < 65536) :
    s.writeReg a v = s.eyeCtl p i v := by
  rw [State.writeReg, actions_eyeCtl ha hi, ha]
  dsimp only
  rw [if_pos rfl]

theorem State.writeReg_eyeCtl (s : State) {p i : Nat} (v : Nat) (hi : i < 65536) :
    s.writeReg (2 ^ 32 + p * 2 ^ 24 + (0x100008 + 16 * i)) v = s.eyeCtl p i v :=
  s.writeReg_of_eyeCtl v (spaceOf_eyeCtl p (by omega)) hi

theorem State.target_eyeCtl {s : State} {n : Fin 16} {p i : Nat} (hp : s.partOfFn (n.val + 1) = some p) (hi : i < 65536) :
    s.target (.vf n) (eyeCtlOff i) 8 =
      if (s.eyeletOf p i).isSome then .reg (2 ^ 32 + p * 2 ^ 24 + (0x100008 + 16 * i)) else .unassigned := by
  have hoff : eyeCtlOff i = 0x100008 + 16 * i := by rw [eyeCtlOff, Nat.mod_eq_of_lt hi]
  have hassigned : s.assigned (2 ^ 32 + p * 2 ^ 24 + (0x100008 + 16 * i)) = (s.eyeletOf p i).isSome := by
    have hindex : (0x100008 + 16 * i - 0x100000) / 16 = i := by omega
    rw [State.assigned, spaceOf_eyeCtl p (by omega)]
    dsimp only
    rw [if_pos (by simp; omega), hindex]
  have hmsix : msixOff (.vf n) (0x100008 + 16 * i) = none := if_neg (by simp; omega)
  have hsize : (decide (0x100008 + 16 * i < barSize (.vf n)) && s.assigned (2 ^ 32 + p * 2 ^ 24 + (0x100008 + 16 * i))) =
      (s.eyeletOf p i).isSome := by
    have hlt : 0x100008 + 16 * i < barSize (.vf n) := show 0x100008 + 16 * i < 2 ^ 24 by omega
    rw [hassigned, decide_eq_true hlt, Bool.true_and]
  rw [State.target, hoff, hmsix]
  dsimp only
  rw [if_neg (by simp; omega), State.regTarget]
  simp only [hp]
  rw [hsize]

theorem State.barWrite_eyeCtl {s : State} {n : Fin 16} {p i e : Nat} (v : Nat) (hp : s.partOfFn (n.val + 1) = some p) (hi : i < 65536)
    (he : s.eyeletOf p i = some e) : s.barAccess (.vf n) (eyeCtlOff i) 8 true v = s.eyeCtl p i v := by
  have htarget := State.target_eyeCtl hp hi
  rw [he, if_pos (by rfl)] at htarget
  rw [State.barAccess, if_pos rfl, State.write, htarget]
  exact s.writeReg_eyeCtl v hi

/-! ## The statement -/

/-- Settles O10: by what the instruction does once its eyelet is found, and by what a register write of EYE_CTL does. -/
theorem eyelets : Obligations.Eyelets := by
  refine ⟨fun s u t g k y i e n scope h he hscope => ?_, fun s u t g k y i e n scope h he hscope => ?_,
    fun s u t g k y i n o scope h he => ?_, fun s u t g k y z i e n o scope h he hscope hz => ?_,
    fun s u t g k y z i e target scope h he hscope hz => ?_, fun s t g y n e target scope lane hy hst hvoid hlane hbit => ?_,
    fun s t g y n e target scope lane hy hst hvoid hcount hlane hbit => ?_, fun s t g y n e target scope hy hst hvoid hcount => ?_,
    fun s u t g k y i e v h he => ?_, fun s u t g k y z i e h he hz => ?_, fun s n p i e v hp hi he => ?_, fun s n p i e v hp hi he => ?_,
    fun s n p i v hp hi he => ?_⟩
  · have hlegal : ¬4 < scope.toNat := by omega
    have hexec : exec (.eyeAdd t g i n 0 scope) s = .next ((u.eyeCount e n).settleGroup t g) := by
      refine congrArg Host.Outcome.next ((State.withEyelet_some h he _).trans ?_)
      simp [hlegal]
    refine ⟨_, hexec, ?_, fun e' hne => ?_, ?_, (u.eyeCount_regsKept e n).trans (.of_eq rfl)⟩
    · exact u.eye_eyeCount e n
    · exact u.eye_eyeCount_ne n hne
    · exact ((u.eyeCount_within e n).mono (by simp)).trans ((State.settleGroup_within _ t g).mono (by simp))
  · have hlegal : ¬4 < scope.toNat := by omega
    refine ⟨congrArg Host.Outcome.next ((State.withEyelet_some h he _).trans ?_),
      congrArg Host.Outcome.next ((State.withEyelet_some h he _).trans ?_),
      congrArg Host.Outcome.next ((State.withEyelet_some h he _).trans ?_)⟩
    · simp [hlegal]
    · simp [hlegal]
    · simp [hlegal]
  · exact ⟨congrArg Host.Outcome.next (State.withEyelet_none h he _), congrArg Host.Outcome.next (State.withEyelet_none h he _),
      congrArg Host.Outcome.next (State.withEyelet_none h he _), congrArg Host.Outcome.next (State.withEyelet_none h he _)⟩
  · refine ⟨congrArg Host.Outcome.next ((State.withEyelet_some h he _).trans ?_),
      congrArg Host.Outcome.next ((State.withEyelet_some h he _).trans ?_)⟩
    · simp [hscope, hz]
    · simp [hscope, hz]
  · have hlegal : ¬4 < scope.toNat := by omega
    have hexec : exec (.eyeWait t g i target scope) s = .next ((u.setGroup t g ((u.groupAt t g).setPath (u.groupAt t g).cur
        fun y => { y with state := .eyeWait e target scope.toNat })).settleGroup t g) := by
      refine congrArg Host.Outcome.next ((State.withEyelet_some h he _).trans ?_)
      simp [hlegal]
    refine ⟨_, hexec, ?_, (State.setGroup_within _ t g _).trans (State.settleGroup_within _ t g)⟩
    rw [State.groupAt_settleGroup, State.groupAt_setGroup_same]
    exact Group.mem_advance (List.mem_of_getElem? (Group.setPath_cur _ hz)) (by simp) (by simp)
  · refine ⟨_, by rw [exec_eyeWaitResolve hy hst, if_pos hvoid], ?_, fun hsplits => ?_, ?_, ?_⟩
    · rw [State.groupAt_addTo, State.groupAt_setGroup_same]
      exact Group.mem_told hlane hbit
    · rw [State.groupAt_addTo, State.groupAt_setGroup_same]
      exact Group.told_paths hy hsplits
    · exact ((State.setGroup_within _ t g _).mono (by simp)).trans ((State.addTo_within _ _ 1).mono (by simp))
    · exact RegsKept.addTo (.of_eq rfl) 1 (by simp)
  · refine ⟨_, by rw [exec_eyeWaitResolve hy hst, if_neg (by simp [hvoid]), if_pos hcount], ?_, fun hsplits => ?_,
      fun l hl hinstr hcov => (State.l1_acquire hl hinstr hcov).1, ?_, ?_⟩
    · rw [State.groupAt_acquire, State.groupAt_addTo, State.groupAt_setGroup_same]
      exact Group.mem_told hlane hbit
    · rw [State.groupAt_acquire, State.groupAt_addTo, State.groupAt_setGroup_same]
      exact Group.told_paths hy hsplits
    · exact (((State.setGroup_within _ t g _).mono (by simp)).trans ((State.addTo_within _ _ 1).mono (by simp))).trans
        ((State.acquire_within _ t scope).mono (by simp))
    · exact (RegsKept.addTo (.of_eq rfl) 1 (by simp)).trans (.of_eq rfl)
  · rw [exec_eyeWaitResolve hy hst, if_neg (by simp [hvoid]), if_neg (not_le.2 hcount)]
  · refine ⟨_, congrArg Host.Outcome.next (State.withEyelet_some h he _), ?_, fun e' hne => ?_, ?_⟩
    · exact State.eye_setEye_same u e _
    · exact State.eye_setEye_ne u _ hne
    · exact ((State.setEye_keeps u e _).within).trans ((State.settleGroup_within _ t g).mono (by simp))
  · refine ⟨_, congrArg Host.Outcome.next (State.withEyelet_some h he _), ?_,
      (State.setGroup_within _ t g _).trans (State.settleGroup_within _ t g)⟩
    rw [State.groupAt_settleGroup, Group.advance_values, State.groupAt_setGroup_same]
    simp [hz]
  · have hv : (v.toNat % 2 ^ 63).testBit 63 = false := Nat.testBit_lt_two_pow (Nat.mod_lt _ (by positivity))
    have hexec : exec (.eyeCtlAdd n i v) s = .next (s.eyeCount e (v.toNat % 2 ^ 63)) := by
      refine congrArg Host.Outcome.next ((State.barWrite_eyeCtl _ hp hi he).trans ?_)
      rw [State.eyeCtl, he]
      dsimp only
      rw [hv, if_neg (by simp), Nat.mod_mod]
    exact ⟨_, hexec, s.eye_eyeCount e _, fun e' hne => s.eye_eyeCount_ne _ hne, s.eyeCount_within e _, s.eyeCount_regsKept e _⟩
  · have hv : (v.toNat % 2 ^ 63 + 2 ^ 63).testBit 63 = true := by
      rw [Nat.add_comm, Nat.testBit_two_pow_add_eq, Nat.testBit_lt_two_pow (Nat.mod_lt _ (by positivity))]
      rfl
    refine congrArg Host.Outcome.next ((State.barWrite_eyeCtl _ hp hi he).trans ?_)
    rw [State.eyeCtl, he]
    dsimp only
    rw [hv, if_pos rfl, Nat.add_mod_right, Nat.mod_mod]
  · have htarget := State.target_eyeCtl hp hi
    rw [he, if_neg (by simp)] at htarget
    refine congrArg Host.Outcome.next ?_
    rw [State.barAccess, if_pos rfl, State.write, htarget]

end Sys2Proof.Machine

/-! SUPPORT. What the lane engine returns (R112, R136 to R146): the statement O11. -/

namespace Sys2Proof.Machine

set_option Elab.async false

/-! ## Results and flags -/

/-- A value that returns to every lane of a mask. -/
def laneValues (mask v : Nat) : List (Nat × Nat) := ((List.range 32).filter fun i => mask.testBit i).map fun i => (i, v)

/-- A lane instruction returns `x` to the lanes of `mask`, with its flags. -/
def State.laneReturn (v : State) (t g mask x : Nat) (fl : Flags) : State := (v.laneFlags t g fl).giveAll t g mask x

/-- The state after such a lane instruction. -/
def State.laneResult (v : State) (t g mask x : Nat) (fl : Flags) : State := (v.laneReturn t g mask x fl).settleGroup t g

theorem State.laneResult_values (v : State) (t g mask x : Nat) (fl : Flags) :
    ((v.laneResult t g mask x fl).groupAt t g).values = laneValues mask x := by
  rw [State.laneResult, State.groupAt_settleGroup, Group.advance_values, State.laneReturn, State.giveAll, State.groupAt_setGroup_same]
  rfl

theorem State.laneResult_status (v : State) (t g mask x : Nat) (fl : Flags) :
    ((v.laneResult t g mask x fl).groupAt t g).status = ((v.groupAt t g).status ||| fl.bits % 16) := by
  rw [State.laneResult, State.groupAt_settleGroup, Group.advance_status, State.laneReturn, State.giveAll,
    State.groupAt_setGroup_same, State.laneFlags, State.groupAt_setGroup_same]

theorem State.laneResult_within (v : State) (t g mask x : Nat) (fl : Flags) : Within [.tile] v (v.laneResult t g mask x fl) :=
  ((v.setGroup_within t g _).trans (State.setGroup_within _ t g _)).trans (State.settleGroup_within _ t g)

/-! ## Free choices -/

theorem State.draw_within (s : State) : Within [.free] s s.draw.2 := (State.draw_keeps s).within

theorem State.pick_within (s : State) (d : Nat) (l : List Nat) : Within [.free] s (s.pick d l).2 := (State.pick_keeps s d l).within

theorem State.groupAt_within {cs : List Comp} {s u : State} (h : Within cs s u) (hc : Comp.tile ∉ cs) (t g : Nat) :
    u.groupAt t g = s.groupAt t g := State.groupAt_congr (h.2 .tile hc).1 t g

theorem State.laneResult_within_free {u v : State} (h : Within [.free] u v) (t g mask x : Nat) (fl : Flags) :
    Within [.tile, .free] u (v.laneResult t g mask x fl) :=
  (h.mono (by simp)).trans ((v.laneResult_within t g mask x fl).mono (by simp))

/-! ## Scales (R138) -/

theorem State.convertScale_some {s : State} {m c : Nat} {v : Val} (h : e8m0Write m v = some c) :
    ∃ fl, s.convertScale m v = ((c, fl), s) := by
  simp only [State.convertScale, h]
  exact ⟨_, rfl⟩

theorem State.convertScale_none {s : State} {m : Nat} {v : Val} (h : e8m0Write m v = none) :
    ∃ fl, s.convertScale m v = ((s.draw.1 % 256, fl), s.draw.2) := by
  simp only [State.convertScale, h]
  exact ⟨_, rfl⟩

/-! ## Instructions -/

/-- The result, the flags and the state of a conversion (R136 to R138). -/
def State.converted (u : State) (p m : Nat) (a b : Option Fmt) (x sa sb : Nat) : (Nat × Flags) × State :=
  match a, b with
  | some a, some b => (convertElem a b m (u.satMode p) x sa sb, u)
  | none, some b => (b.write m (u.satMode p) sb (e8m0Read x), u)
  | some a, none => u.convertScale m (a.read x sa)
  | none, none => u.convertScale m (e8m0Read x)

theorem exec_convert {s u : State} {t : TileId} {g : Grp} {k : Task} {y : Path} {src dst : ConvFmt} (v : Word) (sa sb : Byte)
    {round : BitVec 3} {a b : Option Fmt} {m : Nat} (h : s.fetchPath t g = (some (k, y), u))
    (hsrc : convFmt src = some a) (hdst : convFmt dst = some b) (hmode : u.convMode k.part round.toNat b = some m) :
    exec (.convert t g src dst v sa sb round) s = .next ((u.converted k.part m a b v.toNat sa.toNat sb.toNat).2.laneResult t g y.mask
      (u.converted k.part m a b v.toNat sa.toNat sb.toNat).1.1 (u.converted k.part m a b v.toNat sa.toNat sb.toNat).1.2) := by
  refine congrArg Host.Outcome.next ((State.withPath_some h _).trans ?_)
  simp only [hsrc, hdst, hmode]
  rfl

theorem exec_blockConvert {s u : State} {t : TileId} {g : Grp} {k : Task} {y : Path} {src dst : BitVec 8} (vs : List Word) (sa : Byte)
    {round : BitVec 3} {a b : Fmt} {r : Nat × List Nat × Flags} (h : s.fetchPath t g = (some (k, y), u))
    (hsrc : laneFmt src.toNat = some a) (hdst : laneFmt dst.toNat = some b) (hb : b.scaled = true)
    (hmode : u.laneMode k.part round.toNat b ≠ none)
    (hr : r = blockConvert b (u.outRound k.part) (u.satMode k.part) ((vs.take 32).map fun v => a.source v.toNat sa.toNat)) :
    exec (.blockConvert t g src dst vs sa round) s = .next (((u.laneFlags t g r.2.2).setGroup t g
      { (u.laneFlags t g r.2.2).groupAt t g with values := (r.2.1.zipIdx.map fun e => (e.2, e.1)) ++ [(32, r.1)] }).settleGroup t g) := by
  refine congrArg Host.Outcome.next ((State.withPath_some h _).trans ?_)
  have hlegal : ¬(!b.scaled || (u.laneMode k.part round.toNat b).isNone) = true := by simp [hb, hmode]
  simp only [hsrc, hdst, if_neg hlegal, ← hr]

theorem exec_laneArithmetic {s u : State} {t : TileId} {g : Grp} {k : Task} {y : Path} {op : ArithOp} {fmt : BitVec 8} {a b c : Word}
    {round : BitVec 3} {f : FpFmt} {m : Nat} (h : s.fetchPath t g = (some (k, y), u)) (hfmt : fmt = 1 ∨ fmt = 2)
    (hf : laneFmt fmt.toNat = some (.binary f)) (hmode : u.laneMode k.part round.toNat (.binary f) = some m)
    (hnan : nanOf (arithOperands op (f.read a.toNat) (f.read b.toNat) (f.read c.toNat)) = none) :
    exec (.laneArithmetic t g op fmt a b c round) s = .next (u.laneResult t g y.mask
      (f.finish m 1 (arithVal op m (f.read a.toNat) (f.read b.toNat) (f.read c.toNat))).1
      (f.finish m 1 (arithVal op m (f.read a.toNat) (f.read b.toNat) (f.read c.toNat))).2) := by
  refine congrArg Host.Outcome.next ((State.withPath_some h _).trans ?_)
  have hlegal : ¬(decide (fmt.toNat ≠ 1) && decide (fmt.toNat ≠ 2)) = true := by
    rcases hfmt with rfl | rfl <;> decide
  simp only [hf, hmode, if_neg hlegal, hnan]
  rfl

theorem exec_laneArithmetic_nan {s u : State} {t : TileId} {g : Grp} {k : Task} {y : Path} {op : ArithOp} {fmt : BitVec 8} {a b c : Word}
    {round : BitVec 3} {f : FpFmt} {m : Nat} {fl : Flags} (h : s.fetchPath t g = (some (k, y), u)) (hfmt : fmt = 1 ∨ fmt = 2)
    (hf : laneFmt fmt.toNat = some (.binary f)) (hmode : u.laneMode k.part round.toNat (.binary f) = some m)
    (hnan : nanOf (arithOperands op (f.read a.toNat) (f.read b.toNat) (f.read c.toNat)) = some fl) :
    ∃ v fl', Within [.free] u v ∧
      exec (.laneArithmetic t g op fmt a b c round) s = .next (v.laneResult t g y.mask (f.nanCode.getD 0) fl') := by
  have hlegal : ¬(decide (fmt.toNat ≠ 1) && decide (fmt.toNat ≠ 2)) = true := by
    rcases hfmt with rfl | rfl <;> decide
  by_cases hopen : (openInvalid op (f.read a.toNat) (f.read b.toNat) (f.read c.toNat) && !fl.invalid) = true
  · refine ⟨(u.pick 0 [0, 1]).2, { fl with invalid := fl.invalid || (u.pick 0 [0, 1]).1 == 1 }, u.pick_within 0 _, ?_⟩
    refine congrArg Host.Outcome.next ((State.withPath_some h _).trans ?_)
    simp only [hf, hmode, if_neg hlegal, hnan, if_pos hopen]
    rfl
  · refine ⟨u, { fl with invalid := fl.invalid || (0 : Nat) == 1 }, Within.refl _ u, ?_⟩
    refine congrArg Host.Outcome.next ((State.withPath_some h _).trans ?_)
    simp only [hf, hmode, if_neg hlegal, hnan, if_neg hopen]
    rfl

/-- One operand of MIN_MAX in the destination's scale (R143). -/
def minMaxOperand (f : Fmt) (m sat : Nat) (x : Word) (sc sd : Byte) : Nat :=
  if f.scaled = false ∨ sc = sd then x.toNat % 2 ^ f.bits else (convertElem f f m sat x.toNat sc.toNat sd.toNat).1

/-- The code that MIN_MAX returns (R143). -/
def minMaxCode (f : Fmt) (m sat : Nat) (isMax : Bool) (a b : Word) (sa sb sd : Byte) : Nat :=
  match chooseMinMax isMax (f.read a.toNat sa.toNat) (f.read b.toNat sb.toNat) with
  | some true => minMaxOperand f m sat a sa sd
  | some false => minMaxOperand f m sat b sb sd
  | none => (f.write 0 sat sd.toNat (.nan false)).1

/-- What MIN_MAX does with the operand `x` of scale `sc` that it has chosen (R143). -/
def State.minMaxFrom (u : State) (t g p mask : Nat) (f : Fmt) (fl : Flags) (x : Word) (sc sd : Byte) : State :=
  if !f.scaled then u.laneReturn t g mask (x.toNat % 2 ^ f.bits) (Flags.or {} fl)
  else if sc = sd then u.laneReturn t g mask (x.toNat % 2 ^ f.bits) (Flags.or {} fl)
  else
    let pick := if f.scaled then u.pick 0 [0, 1, 2, 3] else (0, u)
    let r := convertElem f f pick.1 (u.satMode p) x.toNat sc.toNat sd.toNat
    pick.2.laneReturn t g mask r.1 (r.2.or fl)

theorem State.minMaxFrom_result (u : State) (t g p mask : Nat) (f : Fmt) (fl : Flags) (x : Word) (sc sd : Byte) :
    ∃ v m fl', m < 4 ∧ Within [.free] u v ∧
      (u.minMaxFrom t g p mask f fl x sc sd).settleGroup t g = v.laneResult t g mask (minMaxOperand f m (u.satMode p) x sc sd) fl' := by
  have hpick : (u.pick 0 [0, 1, 2, 3]).1 < 4 := by
    have hmem := u.pick_mem 0 (l := [0, 1, 2, 3]) (by simp)
    simp only [List.mem_cons, List.not_mem_nil, or_false] at hmem
    omega
  by_cases hkeep : f.scaled = false ∨ sc = sd
  · refine ⟨u, 0, Flags.or {} fl, by omega, Within.refl _ u, ?_⟩
    rw [State.minMaxFrom, minMaxOperand, if_pos hkeep]
    rcases hkeep with hscaled | rfl
    · rw [if_pos (by simp [hscaled])]
      rfl
    · rw [if_pos rfl, ite_self]
      rfl
  · obtain ⟨hscaled, hne⟩ := not_or.1 hkeep
    have hscaled : f.scaled = true := by simpa using hscaled
    refine ⟨(u.pick 0 [0, 1, 2, 3]).2, (u.pick 0 [0, 1, 2, 3]).1,
      (convertElem f f (u.pick 0 [0, 1, 2, 3]).1 (u.satMode p) x.toNat sc.toNat sd.toNat).2.or fl, hpick, u.pick_within 0 _, ?_⟩
    rw [State.minMaxFrom, minMaxOperand, if_neg hkeep, if_neg (by simp [hscaled]), if_neg hne, hscaled]
    rfl

theorem exec_minMax {s u : State} {t : TileId} {g : Grp} {k : Task} {y : Path} {fmt : BitVec 8} (isMax : Bool) (a b : Word)
    (sa sb sd : Byte) {f : Fmt} (h : s.fetchPath t g = (some (k, y), u)) (hf : laneFmt fmt.toNat = some f) :
    ∃ v m fl, m < 4 ∧ Within [.free] u v ∧ exec (.minMax t g fmt isMax a b sa sb sd) s =
      .next (v.laneResult t g y.mask (minMaxCode f m (u.satMode k.part) isMax a b sa sb sd) fl) := by
  set fl : Flags := { invalid := sNan (f.read a.toNat sa.toNat) || sNan (f.read b.toNat sb.toNat) } with hfl
  cases hchoose : chooseMinMax isMax (f.read a.toNat sa.toNat) (f.read b.toNat sb.toNat) with
  | none =>
    refine ⟨u, 0, (f.write 0 (u.satMode k.part) sd.toNat (.nan false)).2.or fl, by omega, Within.refl _ u, ?_⟩
    rw [minMaxCode, hchoose]
    refine congrArg Host.Outcome.next ((State.withPath_some h _).trans ?_)
    simp only [hf, hchoose]
    rfl
  | some first =>
    cases first with
    | true =>
      obtain ⟨v, m, fl', hm, hv, heq⟩ := u.minMaxFrom_result t g k.part y.mask f fl a sa sd
      refine ⟨v, m, fl', hm, hv, ?_⟩
      rw [minMaxCode, hchoose, ← heq]
      refine congrArg Host.Outcome.next ((State.withPath_some h _).trans ?_)
      simp only [hf, hchoose]
      rfl
    | false =>
      obtain ⟨v, m, fl', hm, hv, heq⟩ := u.minMaxFrom_result t g k.part y.mask f fl b sb sd
      refine ⟨v, m, fl', hm, hv, ?_⟩
      rw [minMaxCode, hchoose, ← heq]
      refine congrArg Host.Outcome.next ((State.withPath_some h _).trans ?_)
      simp only [hf, hchoose]
      rfl

/-! ## The statement -/

theorem State.laneMode_of_big {u : State} {p round : Nat} (f : Fmt) (h : 4 < u.roundOf p round) : u.laneMode p round f = none := by
  have hne : u.roundOf p round ≠ 4 := by omega
  simp [State.laneMode, hne, h]

/-- Settles O11: each instruction's result by the equation of its arm. -/
theorem laneResults : Obligations.LaneResults := by
  refine ⟨fun s u t g k y h => ?_, fun s u t g k y src dst v sa sb round a b m h hsrc hdst hmode => ?_,
    fun s u t g k y dst v sa sb round b m h hdst hmode => ?_, fun s u t g k y src v sa sb round a c h hsrc hround hc => ?_,
    fun s u t g k y src v sa sb round a h hsrc hround hc => ?_, fun s u t g k y src dst v sa sb round h hbad => ?_,
    fun s u t g k y src dst vs sa round a b r h hsrc hdst hb hmode hr => ?_, fun s u t g k y src dst vs sa round h hbad => ?_,
    fun s u t g k y fmt isMax a b sa sb sd f h hf => ?_, fun s u t g k y fmt isMax a b sa sb sd h hf => ?_,
    fun s u t g k y op fmt a b c round f m h hfmt hf hmode hnan => ?_,
    fun s u t g k y op fmt a b c round f m fl h hfmt hf hmode hnan => ?_, fun s u t g k y op fmt a b c round h hbad => ?_,
    fun s u t g k y h => ?_⟩
  · refine ⟨_, congrArg Host.Outcome.next (State.withPath_some h _), ?_,
      (State.setGroup_within _ t g _).trans (State.settleGroup_within _ t g)⟩
    rw [State.groupAt_settleGroup, Group.advance_values, State.groupAt_setGroup_same]
  · exact ⟨_, exec_convert v sa sb h hsrc hdst hmode, State.laneResult_values .., State.laneResult_status .., State.laneResult_within ..⟩
  · exact ⟨_, exec_convert v sa sb h (src := .e8m0) rfl hdst hmode, State.laneResult_values .., State.laneResult_within ..⟩
  · have hmode : u.convMode k.part round.toNat none = some (u.roundOf k.part round.toNat) := if_pos hround
    have hexec := exec_convert v sa sb h hsrc (dst := .e8m0) rfl hmode
    obtain ⟨fl, hfl⟩ := State.convertScale_some (s := u) hc
    simp only [State.converted, hfl] at hexec
    exact ⟨_, hexec, State.laneResult_values .., State.laneResult_within ..⟩
  · have hmode : u.convMode k.part round.toNat none = some (u.roundOf k.part round.toNat) := if_pos hround
    have hexec := exec_convert v sa sb h hsrc (dst := .e8m0) rfl hmode
    obtain ⟨fl, hfl⟩ := State.convertScale_none (s := u) hc
    simp only [State.converted, hfl] at hexec
    exact ⟨_, u.draw.1 % 256, hexec, Nat.mod_lt _ (by omega), State.laneResult_values .., State.laneResult_within_free u.draw_within ..⟩
  · refine congrArg Host.Outcome.next ((State.withPath_some h _).trans ?_)
    rcases hbad with hsrc | hdst | ⟨b, hdst, hmode⟩
    · simp only [hsrc]
    · cases convFmt src <;> simp only [hdst]
    · cases convFmt src <;> simp only [hdst, hmode]
  · refine ⟨_, exec_blockConvert vs sa h hsrc hdst hb hmode hr, ?_, ?_,
      ((State.setGroup_within _ t g _).trans (State.setGroup_within _ t g _)).trans (State.settleGroup_within _ t g)⟩
    · rw [State.groupAt_settleGroup, Group.advance_values, State.groupAt_setGroup_same]
    · rw [State.groupAt_settleGroup, Group.advance_status, State.groupAt_setGroup_same, State.laneFlags, State.groupAt_setGroup_same]
  · refine congrArg Host.Outcome.next ((State.withPath_some h _).trans ?_)
    rcases hbad with hsrc | hdst | ⟨b, hdst, hb⟩
    · simp only [hsrc]
    · cases laneFmt src.toNat <;> simp only [hdst]
    · have hill : (!b.scaled || (u.laneMode k.part round.toNat b).isNone) = true := by
        rcases hb with hb | hb <;> simp [hb]
      cases laneFmt src.toNat <;> simp only [hdst, if_pos hill]
  · obtain ⟨v, m, fl, hm, hv, hexec⟩ := exec_minMax isMax a b sa sb sd h hf
    exact ⟨_, m, hexec, hm, State.laneResult_values .., State.laneResult_within_free hv ..⟩
  · refine congrArg Host.Outcome.next ((State.withPath_some h _).trans ?_)
    simp only [hf]
  · exact ⟨_, exec_laneArithmetic h hfmt hf hmode hnan, State.laneResult_values .., State.laneResult_status ..,
      State.laneResult_within ..⟩
  · obtain ⟨v, fl', hv, hexec⟩ := exec_laneArithmetic_nan h hfmt hf hmode hnan
    exact ⟨_, hexec, State.laneResult_values .., State.laneResult_within_free hv ..⟩
  · refine congrArg Host.Outcome.next ((State.withPath_some h _).trans ?_)
    split
    next f hf =>
      split
      next m hmode =>
        rcases hbad with ⟨hone, htwo⟩ | hbig
        · have hne (n : BitVec 8) (hn : fmt ≠ n) : fmt.toNat ≠ n.toNat := fun heq => hn (BitVec.eq_of_toNat_eq heq)
          rw [if_pos (by simpa using ⟨hne 1 hone, hne 2 htwo⟩)]
        · rw [State.laneMode_of_big _ hbig] at hmode
          cases hmode
      next => rfl
    next => rfl
  · refine ⟨_, congrArg Host.Outcome.next (State.withPath_some h _), ?_, ?_,
      (State.setGroup_within _ t g _).trans (State.settleGroup_within _ t g)⟩
    · rw [State.groupAt_settleGroup, Group.advance_values, State.groupAt_setGroup_same]
    · rw [State.groupAt_settleGroup, Group.advance_status, State.groupAt_setGroup_same]

end Sys2Proof.Machine

/-! SUPPORT. Branches, path rotation, exit, barriers and the end instruction (R73 to R79): the statement O12. -/

namespace Sys2Proof.Machine

set_option Elab.async false

/-! ## Lanes that leave a mask -/

theorem and_add_ldiff (m l : Nat) : (m &&& l) + Nat.ldiff m l = m := by
  induction m using Nat.strongRec generalizing l with
  | ind m ih =>
    by_cases hm : m = 0
    · rw [hm]
      simp [Nat.eq_of_testBit_eq (x := Nat.ldiff 0 l) (y := 0) fun j => by simp [Nat.testBit_ldiff]]
    · have hhalf := ih (m / 2) (by omega) (l / 2)
      have hand : (m &&& l) / 2 = m / 2 &&& l / 2 := Nat.and_div_two
      have hdiff : Nat.ldiff m l / 2 = Nat.ldiff (m / 2) (l / 2) := Nat.eq_of_testBit_eq fun j => by
        simp only [Nat.testBit_div_two, Nat.testBit_ldiff]
      have hlow : (m &&& l) % 2 + Nat.ldiff m l % 2 = m % 2 := by
        have h1 : (m &&& l).testBit 0 = (m.testBit 0 && l.testBit 0) := Nat.testBit_and ..
        have h2 : (Nat.ldiff m l).testBit 0 = (m.testBit 0 && !l.testBit 0) := Nat.testBit_ldiff ..
        simp only [Nat.testBit_zero] at h1 h2
        generalize m &&& l = a at h1
        generalize Nat.ldiff m l = b at h2
        grind
      omega

theorem testBit_sub_and (m l i : Nat) : (m - (m &&& l)).testBit i = (m.testBit i && !l.testBit i) := by
  have hsub : m - (m &&& l) = Nat.ldiff m l := by
    have := and_add_ldiff m l
    omega
  rw [hsub, Nat.testBit_ldiff]

theorem Group.drop_live (x : Group) (lanes : Nat) : (x.drop lanes).live = x.live - (x.live &&& lanes) := by
  unfold Group.drop
  extract_lets out paths before gone kept cur x'
  split
  · rfl
  split <;> rfl

theorem Group.drop_paths (x : Group) (lanes : Nat) : (x.drop lanes).paths =
    (x.paths.map fun y => { y with mask := y.mask - (y.mask &&& lanes) }).filter fun y => y.mask != 0 := by
  unfold Group.drop
  extract_lets out paths before gone kept cur x'
  split
  · rfl
  split <;> rfl

/-! ## A branch that some lanes take -/

/-- Nothing reconverges where the only paths of a split, `k`, stand elsewhere than its reconvergence point (R73). -/
theorem Group.merge_of_split_apart {g : Group} (fuel k r : Nat)
    (hsplit : ∀ x ∈ g.paths, x.splits = [] ∨ x.splits = [(k, r)] ∧ x.pc ≠ r)
    (hlive : ∃ x ∈ g.paths, x.splits = [(k, r)] ∧ x.state ≠ .reconverged) : g.merge fuel = g := by
  cases fuel with
  | zero => rfl
  | succ fuel =>
    have hmap : (g.paths.map fun (x : Path) =>
        match x.splits with
        | (_, r) :: _ =>
          if x.state = .run && x.pc = r && !g.bars.any fun b => x.mask.testBit b.lane then { x with state := .reconverged } else x
        | [] => x) = g.paths := by
      conv_rhs => rw [← List.map_id g.paths]
      refine List.map_congr_left fun x hx => ?_
      rcases hsplit x hx with hnil | ⟨hone, hpc⟩
      · rw [hnil]
        rfl
      · rw [hone]
        exact if_neg (by simp [hpc])
    have hnone : (g.paths.findSome? fun (x : Path) =>
        match x.splits with
        | (k, r) :: rest =>
          let kin := g.paths.filter fun y => y.splits.any fun e => e.1 == k
          if kin.all fun y => y.state == .reconverged && (y.splits.head?.map fun e => e.1) == some k then
            some (k, r, rest) else none
        | [] => (none : Option (Nat × Nat × List (Nat × Nat)))) = none := by
      refine List.findSome?_eq_none_iff.2 fun x hx => ?_
      rcases hsplit x hx with hnil | ⟨hone, -⟩
      · rw [hnil]
      · obtain ⟨z, hz, hzs, hzr⟩ := hlive
        rw [hone]
        refine if_neg fun hall => ?_
        have hkin := List.all_eq_true.1 hall z (List.mem_filter.2 ⟨hz, by simp [hzs]⟩)
        simp [hzr] at hkin
    rw [Group.merge]
    dsimp only
    erw [hmap, hnone]

theorem Group.advance_of_split_apart {g : Group} (k r : Nat)
    (hsplit : ∀ x ∈ g.paths, x.splits = [] ∨ x.splits = [(k, r)] ∧ x.pc ≠ r)
    (hlive : ∃ x ∈ g.paths, x.splits = [(k, r)] ∧ x.state ≠ .reconverged) : g.advance.paths = g.paths := by
  rw [Group.advance, Group.merge_of_split_apart 32 k r hsplit hlive, Group.settle_paths]

/-- The group once the lanes `go` of its current path have taken a branch (R73). -/
def Group.split (x : Group) (y : Path) (go target reconv : Nat) : Group :=
  { x.setPath x.cur fun z => { z with mask := y.mask - go, splits := (x.splitNo, reconv) :: y.splits } with
    paths := (x.setPath x.cur fun z => { z with mask := y.mask - go, splits := (x.splitNo, reconv) :: y.splits }).paths ++
      [{ mask := go, pc := target, splits := (x.splitNo, reconv) :: y.splits }]
    splitNo := x.splitNo + 1 }

theorem Path.sub_lanes_ne_zero {y : Path} {m : Nat} (h : y.lanes m ≠ y.mask) : y.mask - y.lanes m ≠ 0 := by
  have hle : y.lanes m ≤ y.mask := Nat.and_le_left
  omega

theorem exec_branch_split {s u : State} {t : TileId} {g : Grp} {k : Task} {y : Path} {taken : LaneMask} (target reconv : Nat)
    (h : s.fetchPath t g = (some (k, y), u)) (hgo : y.lanes taken.toNat ≠ 0) (hstay : y.lanes taken.toNat ≠ y.mask)
    (hroom : (u.groupAt t g).paths.length < 32) :
    exec (.branch t g taken target reconv) s =
      .next ((u.setGroup t g ((u.groupAt t g).split y (y.lanes taken.toNat) target reconv)).settleGroup t g) := by
  show execBranch t g taken target reconv s = _
  rw [execBranch, State.withPath_some h]
  simp only [if_neg hgo, if_neg (Path.sub_lanes_ne_zero hstay), if_neg (not_le.2 hroom)]
  rfl

theorem exec_branch_full {s u : State} {t : TileId} {g : Grp} {k : Task} {y : Path} {taken : LaneMask} (target reconv : Nat)
    (h : s.fetchPath t g = (some (k, y), u)) (hgo : y.lanes taken.toNat ≠ 0) (hstay : y.lanes taken.toNat ≠ y.mask)
    (hfull : 32 ≤ (u.groupAt t g).paths.length) :
    exec (.branch t g taken target reconv) s = .next ((u.stepFault t g (lowestLane y.mask) 2 y.pc).settleGroup t g) := by
  show execBranch t g taken target reconv s = _
  rw [execBranch, State.withPath_some h]
  simp only [if_neg hgo, if_neg (Path.sub_lanes_ne_zero hstay), if_pos hfull]

theorem Group.split_paths {x : Group} {y z : Path} (go target reconv : Nat) (hys : y.splits = []) (hz : x.paths[x.cur]? = some z) :
    (x.split y go target reconv).paths = (x.paths.mapIdx fun i p => if i = x.cur then
      { z with mask := y.mask - go, splits := [(x.splitNo, reconv)] } else p) ++
      [{ mask := go, pc := target, splits := [(x.splitNo, reconv)] }] := by
  rw [Group.split, hys]
  refine congrArg (· ++ _) (List.mapIdx_eq_mapIdx_iff.2 fun i hi => ?_)
  by_cases hcur : i = x.cur
  · have hget : x.paths[i] = z := Option.some_inj.1 (by rw [← List.getElem?_eq_getElem hi, hcur, hz])
    rw [if_pos hcur, if_pos hcur, hget]
  · rw [if_neg hcur, if_neg hcur]

/-- Neither part of a branch reconverges before it has run (R73). -/
theorem Group.advance_split {x : Group} {y z : Path} {go target reconv : Nat} (hys : y.splits = []) (hz : x.paths[x.cur]? = some z)
    (hsplits : ∀ p ∈ x.paths, p.splits = []) (htarget : target ≠ reconv) (hpc : z.pc ≠ reconv) :
    (x.split y go target reconv).advance.paths = (x.paths.mapIdx fun i p => if i = x.cur then
      { z with mask := y.mask - go, splits := [(x.splitNo, reconv)] } else p) ++
      [{ mask := go, pc := target, splits := [(x.splitNo, reconv)] }] := by
  have hpaths := Group.split_paths go target reconv hys hz
  rw [Group.advance_of_split_apart x.splitNo reconv, hpaths]
  · rw [hpaths]
    intro p hp
    rcases List.mem_append.1 hp with hold | hnew
    · obtain ⟨i, hi, rfl⟩ := List.mem_mapIdx.1 hold
      split
      · exact .inr ⟨rfl, hpc⟩
      · exact .inl (hsplits _ (List.getElem_mem hi))
    · rw [List.mem_singleton.1 hnew]
      exact .inr ⟨rfl, htarget⟩
  · rw [hpaths]
    exact ⟨_, List.mem_append_right _ (List.mem_singleton.2 rfl), rfl, by simp⟩

/-! ## The statement -/

/-- Settles O12: by the equation of each arm, and by what reconvergence leaves of paths that no split has brought together. -/
theorem pathControl : Obligations.PathControl := by
  refine ⟨fun s u t g k y taken target reconv h hgo => ?_, fun s u t g k y z taken target reconv h hmask hall hz hsplits => ?_,
    fun s u t g k y z taken target reconv h hgo hstay hys hz hroom htarget hpc hsplits => ?_,
    fun s u t g k y taken target reconv h hgo hstay hfull => exec_branch_full target reconv h hgo hstay hfull,
    fun s t g i hcount hnext => ?_, fun s t g hnone => ?_, fun s u t g k y lanes h hlanes => ?_,
    fun s u t g k y lanes kind n h hlanes => ⟨?_, ?_⟩, fun x lanes i => ⟨?_, fun y hy => ?_⟩,
    fun s u v t g k y lanes kind n h hlanes hv => ?_, fun s t k hk hphase hending hlive hpasses hrun => ?_, fun s t hlive => ?_⟩
  · show execBranch t g taken target reconv s = _
    rw [execBranch, State.withPath_some h, if_pos hgo]
  · refine ⟨_, exec_branch_all target reconv h hmask hall, ?_, (State.setGroup_within _ t g _).trans (State.settleGroup_within _ t g)⟩
    rw [State.groupAt_settleGroup, State.groupAt_setGroup_same,
      Group.advance_paths_of_no_splits (Group.setPath_no_splits (fun y => { y with pc := target }) (fun _ => rfl) hsplits)]
    exact Group.setPath_cur _ hz
  · refine ⟨_, exec_branch_split target reconv h hgo hstay hroom, ?_,
      (State.setGroup_within _ t g _).trans (State.settleGroup_within _ t g)⟩
    rw [State.groupAt_settleGroup, State.groupAt_setGroup_same]
    exact Group.advance_split hys hz hsplits htarget.symm hpc.symm
  · show execPathRotate t g s = _
    rw [execPathRotate, if_neg (not_lt.2 hcount), hnext]
  · show execPathRotate t g s = _
    rw [execPathRotate]
    rcases hnone with hlt | hnone
    · exact if_pos hlt
    · rw [hnone]
      exact ite_self _
  · show execExit t g lanes s = _
    rw [execExit, State.withPath_some h, if_neg hlanes]
  · show execExit t g lanes s = _
    rw [execExit, State.withPath_some h, if_pos hlanes]
  · show execBarrier t g lanes kind n s = _
    rw [execBarrier, State.withPath_some h, if_pos hlanes]
  · rw [Group.drop_live, testBit_sub_and]
  · rw [Group.drop_paths] at hy
    obtain ⟨hmap, hne⟩ := List.mem_filter.1 hy
    obtain ⟨z, -, rfl⟩ := List.mem_map.1 hmap
    refine ⟨by simpa using hne, Nat.eq_of_testBit_eq fun j => ?_⟩
    rw [Nat.testBit_and, testBit_sub_and, Nat.zero_testBit]
    cases lanes.testBit j <;> simp
  · show execBarrier t g lanes kind n s = _
    rw [execBarrier, State.withPath_some h, if_neg hlanes, hv]
  · refine ⟨_, by
      show execEndInstruction t s = _
      rw [execEndInstruction, hk]
      exact if_neg (by simp [hphase, hending, hlive, hpasses, hrun]), ?_⟩
    rw [State.tileAt_congr (State.checkRetire_tiles _ _), State.tileAt_setTile_same]
    exact ⟨rfl, rfl⟩
  · show execEndInstruction t s = _
    rw [execEndInstruction]
    split
    · rfl
    · exact if_pos (by simp [hlive])

end Sys2Proof.Machine

/-! SUPPORT. What a command leaves alone when it also logs an event. -/

namespace Sys2Proof.Machine

set_option Elab.async false

theorem Fld.offEvents_of_view {k : RegKind} (p i lo w : Nat) (hk : k.space = .view := by rfl) :
    (Fld.mk (k.addr p i) lo w).offEvents = true := by
  have hbase : k.base p = 2 ^ 32 + p * 2 ^ 24 := by rw [RegKind.base, hk]
  have haddr : 2 ^ 32 ≤ k.addr p i := by
    rw [RegKind.addr, hbase]
    omega
  rw [Fld.offEvents_iff, Fld.key, show fFltEvHead_count.key = 0x200060 * 64 from rfl,
    show fFltEvStatus_full.key = 0x200070 * 64 + 32 from rfl, show fFltEvStatus_dropped.key = 0x200070 * 64 from rfl]
  dsimp only
  omega

theorem Fld.ne_head_of_offEvents {f : Fld} (hf : f.offEvents = true) : fFltEvHead_count.key ≠ f.key :=
  (f.offEvents_iff.1 hf).2.1.symm

theorem eventFields_congr {s u : State} (h : u.get fFltEvHead_count = s.get fFltEvHead_count) : eventFields u = eventFields s := by
  rw [eventFields, h, eventFields]

/-- Writes of fields that no event writes, and then an event. -/
theorem RegsKept.event {fs : List Fld} {s u : State} (h : RegsKept fs s u) (hoff : ∀ f ∈ fs, f.offEvents = true)
    (src code d0 d1 : Nat) (part : Option Nat) : RegsKept (eventFields s ++ fs) s (u.event src code d0 d1 part) := by
  have hhead : u.get fFltEvHead_count = s.get fFltEvHead_count := h.get fun f hf => Fld.ne_head_of_offEvents (hoff f hf)
  have hevent := State.event_regsKept u src code d0 d1 part
  rw [eventFields_congr hhead] at hevent
  exact (h.mono fun f hf => List.mem_append_right _ hf).trans (hevent.mono fun f hf => List.mem_append_left _ hf)

theorem State.event_within (s : State) (src code d0 d1 : Nat) (part : Option Nat) : Within Comp.event s (s.event src code d0 d1 part) :=
  (State.event_keeps s src code d0 d1 part).within

theorem State.bump_within (s : State) (f : Fld) (n : Nat) : Within [.regs] s (s.bump f n) := s.set_within f _

theorem satAdd_lt (w x n : Nat) : satAdd w x n < 2 ^ w := by
  have := Nat.two_pow_pos w
  rw [satAdd]
  omega

/-- A saturating counter reads its saturated sum. -/
@[simp] theorem State.get_bump_same (s : State) (f : Fld) (n : Nat) : (s.bump f n).get f = satAdd f.width (s.get f) n := by
  rw [State.bump, State.get_set_same, Nat.mod_eq_of_lt (satAdd_lt _ _ _)]

theorem State.get_bump_ne (s : State) {f g : Fld} (n : Nat) (h : g.key ≠ f.key) : (s.bump f n).get g = s.get g :=
  State.get_set_ne _ _ h

end Sys2Proof.Machine

/-! SUPPORT. The end of a step, task barriers, completion records and the parents of the lace (R33, R191 to R193, R318): the
statement O13. -/

namespace Sys2Proof.Machine

set_option Elab.async false

/-! ## Arrivals at a task barrier (R193) -/

theorem State.setTask_within (s : State) (k : Task) : Within [.tile] s (s.setTask k) := (State.setTask_keeps s k).within

theorem State.setTask_setTask {s : State} {k k' : Task} (h : k'.id = k.id) :
    ((s.setTask k).setTask k').tile.tasks = s.tile.tasks.map fun x => if x.id = k.id then k' else x := by
  show (s.tile.tasks.map _).map _ = _
  rw [List.map_map]
  refine List.map_congr_left fun x _ => ?_
  by_cases hx : x.id = k.id
  · simp [hx, h]
  · simp [hx, h]

/-- The task once tile `t` has arrived at its barrier `n`. -/
def Task.arrive (k : Task) (t n : Nat) : Task := { k with arrivals := mapSet [] k.arrivals n (mapGet [] k.arrivals n ++ [t]) }

theorem execLaceArrival_of_new {s : State} {id : Nat} {k : Task} {t : TileId} {n : Fin 16} (hk : s.taskById id = some k)
    (hphase : k.phase = .running) (ht : t.val ∈ k.tiles) (hbar : (s.tileAt t).sentBar = some n.val)
    (hnew : t.val ∉ mapGet [] k.arrivals n.val) :
    exec (.laceArrival id t n) s =
      if !k.tiles.all (mapGet [] k.arrivals n.val ++ [t.val]).contains then .next (s.setTask (k.arrive t n))
      else match (s.setTask (k.arrive t n)).jobBarrierOf (k.arrive t n) n with
        | none => .next ((s.setTask (k.arrive t n)).setTask { k.arrive t n with completed := k.completed ++ [n.val] })
        | some (j, b) => if 1 < j.memberCount then .next ((s.setTask (k.arrive t n)).taskArrives k.part j (k.arrive t n) b)
          else .next ((s.setTask (k.arrive t n)).soloArrives k.part j b.jobBarrier) := by
  show execLaceArrival id t n s = _
  rw [execLaceArrival]
  simp only [hk]
  rw [if_neg (by simp [hphase, ht, hbar, hnew])] <;> rfl

theorem mem_all_contains {l m : List Nat} : (l.all m.contains) = true ↔ ∀ w ∈ l, w ∈ m := by
  simp [List.all_eq_true]

/-! ## Completions of a task barrier (R193) -/

theorem State.sentBar_setGroup (s : State) (t g w : Nat) (x : Group) : ((s.setGroup t g x).tileAt w).sentBar = (s.tileAt w).sentBar := by
  rw [State.setGroup, State.tileAt_setTile]
  split
  next h => rw [h]
  next => rfl

theorem State.sentBar_releaseAll (s : State) (t w : Nat) (gs : List Nat) (f : LaneBar → Bool) :
    (((gs.foldl (fun s g => s.releaseBars t g f) s).countBarrier t).tileAt w).sentBar = (s.tileAt w).sentBar := by
  have hfold : ((gs.foldl (fun s g => s.releaseBars t g f) s).tileAt w).sentBar = (s.tileAt w).sentBar := by
    induction gs generalizing s with
    | nil => rfl
    | cons g gs ih =>
      rw [List.foldl_cons, ih]
      exact State.sentBar_setGroup ..
  rw [← hfold]
  rfl

/-- A tile that waits at barrier `n` leaves it. -/
def State.releaseTile (s : State) (n t : Nat) : State :=
  if (s.tileAt t).sentBar = some n then
    let s := s.setTile t { s.tileAt t with sentBar := none }
    ((s.liveGroups t).foldl (fun s g => s.releaseBars t g fun b => b.kind == .task && b.number == n) s).countBarrier t
  else s

theorem State.sentBar_releaseTile (s : State) (n t w : Nat) :
    ((s.releaseTile n t).tileAt w).sentBar =
      if w = t ∧ (s.tileAt t).sentBar = some n then none else (s.tileAt w).sentBar := by
  rw [State.releaseTile]
  by_cases h : (s.tileAt t).sentBar = some n
  · rw [if_pos h]
    dsimp only
    rw [State.sentBar_releaseAll, State.tileAt_setTile]
    by_cases hw : w = t <;> simp [hw, h]
  · rw [if_neg h, if_neg (by simp [h])]

theorem State.sentBar_releaseTiles {n w : Nat} (ts : List Nat) (s : State) (h : (s.tileAt w).sentBar = some n → w ∈ ts) :
    ((ts.foldl (State.releaseTile · n) s).tileAt w).sentBar ≠ some n := by
  induction ts generalizing s with
  | nil => exact fun heq => absurd (h heq) (by simp)
  | cons t ts ih =>
    rw [List.foldl_cons]
    refine ih _ fun heq => ?_
    rw [State.sentBar_releaseTile] at heq
    by_cases hw : w = t ∧ (s.tileAt t).sentBar = some n
    · rw [if_pos hw] at heq
      cases heq
    · rw [if_neg hw] at heq
      refine (List.mem_cons.1 (h heq)).resolve_left fun hwt => hw ⟨hwt, ?_⟩
      rwa [← hwt]

theorem State.sentBar_releaseTask {s : State} {k : Task} {d n w : Nat}
    (h : ∀ t ∈ k.tiles, (s.tileAt t).sentBar = some n → tileDie t = d) (hw : w ∈ k.tiles) :
    ((s.releaseTask k d n).tileAt w).sentBar ≠ some n :=
  State.sentBar_releaseTiles (k.tiles.filter fun t => tileDie t == d) s fun heq =>
    List.mem_filter.2 ⟨hw, by simpa using h w hw heq⟩

/-! ## The parents of the lace (R191) -/

theorem laceParents_of_die {d : Die} (hd : d.val ≠ 0) : (laceParents d.val).isNone = false := by
  simp [laceParents_isSome hd]

theorem laceParents_zero {d : Die} (hd : d.val = 0) : (laceParents d.val).isNone = true := by
  rw [hd]
  rfl

/-- A die whose parent is late takes the alternate, or its own count, and says so (R192, R195). -/
theorem exec_laceParentTimeout_late {s : State} {d : Die} (ok : Bool) (skew : BitVec 8) (hd : d.val ≠ 0)
    (hnow : s.get (fLaceStatus_parent d) ≠ 2) :
    exec (.laceParentTimeout d ok skew) s = .next (((s.setAll
      [(fLaceStatus_parent d, if s.get (fLaceStatus_parent d) = 0 && ok then 1 else 2), (fLaceStatus_skew_ns d, skew.toNat)]).bump
        (fLaceStatus_switches d) 1).event d 0x03 (if s.get (fLaceStatus_parent d) = 0 && ok then 1 else 2) skew.toNat) := by
  show execLaceParentTimeout d ok skew s = _
  rw [execLaceParentTimeout, if_neg (by simp [hnow, laceParents_of_die hd])]

/-! ## The statement -/

/-- Settles O13: each command by the branch that its conditions select. -/
theorem stepEndsAndLaceParents : Obligations.StepEndsAndLaceParents := by
  refine ⟨⟨fun s id endNs k hk hover => ?_, fun s id endNs k hk hover => ?_, fun s id k t n hk hphase ht hbar hnew hmiss => ?_,
    fun s id k t n hk hphase ht hbar hnew hall hjob => ?_, fun s id k k' t n j b hk hphase ht hbar hnew hall hjob hk' => ?_,
    fun s id k d n hk hdone hdie => ?_, fun s id k d n hk hdone => ?_, fun s p cq index r hr => ?_, fun s p cq index hnone => ?_⟩,
    fun s d ok skew hd hnow => ?_, fun s d ok skew hnone => ?_⟩
  · show execStepEnd id endNs s = _
    rw [execStepEnd, hk]
    exact if_pos hover
  · show execStepEnd id endNs s = _
    rw [execStepEnd, hk]
    exact if_neg (by simp [hover])
  · obtain ⟨w, hw, hne, hout⟩ := hmiss
    rw [execLaceArrival_of_new hk hphase ht hbar hnew, if_pos]
    · rfl
    · rw [Bool.not_eq_true', ← Bool.not_eq_true, mem_all_contains]
      intro hall
      rcases List.mem_append.1 (hall w hw) with h | h
      · exact hout h
      · exact hne (List.mem_singleton.1 h)
  · have hin : (k.tiles.all (mapGet [] k.arrivals n.val ++ [t.val]).contains) = true :=
      mem_all_contains.2 fun w hw => by
        rcases hall w hw with h | h
        · simp [h]
        · simp [h]
    have hjob' : (s.setTask (k.arrive t n)).jobBarrierOf (k.arrive t n) n = none := hjob
    refine ⟨_, by rw [execLaceArrival_of_new hk hphase ht hbar hnew, hin, hjob']; rfl, ?_, ?_⟩
    · exact State.setTask_setTask rfl
    · exact (State.setTask_within _ _).trans (State.setTask_within _ _)
  · have hin : (k.tiles.all (mapGet [] k.arrivals n.val ++ [t.val]).contains) = true :=
      mem_all_contains.2 fun w hw => by
        rcases hall w hw with h | h
        · simp [h]
        · simp [h]
    have hjob' : (s.setTask (k.arrive t n)).jobBarrierOf (k.arrive t n) n = some (j, b) := hjob
    rw [execLaceArrival_of_new hk hphase ht hbar hnew, hin, hjob', hk', apply_ite Host.Outcome.next]
    rfl
  · show execLaceCompletion id d n s = _
    rw [execLaceCompletion]
    simp only [hk]
    rw [if_pos (by simpa using hdone), if_pos]
    exact List.all_eq_true.2 fun t ht => by simpa using State.sentBar_releaseTask hdie ht
  · show execLaceCompletion id d n s = _
    rw [execLaceCompletion]
    simp only [hk]
    rw [if_neg (by simpa using hdone)]
  · show execPhaseByteWrite p cq index s = _
    rw [execPhaseByteWrite, hr]
    rfl
  · show execPhaseByteWrite p cq index s = _
    rw [execPhaseByteWrite, List.find?_eq_none.2 fun r hr => by simp [hnone r hr]]
  · refine ⟨_, exec_laceParentTimeout_late ok skew hd hnow, ?_, ?_, ?_, ?_, ?_⟩
    · rw [State.get_event (g := fLaceStatus_parent d) (Fld.offEvents_of_die _ _ _ _)]
      rw [State.get_bump_ne _ _ (by simp [Fld.key, fLaceStatus_parent, fLaceStatus_switches])]
      by_cases hzero : s.get (fLaceStatus_parent d) = 0 ∧ ok = true
      · rw [if_pos hzero, if_pos (by simpa using hzero)]
        simp [State.setAll, State.get_set, Fld.key, fLaceStatus_parent, fLaceStatus_skew_ns]
      · rw [if_neg hzero, if_neg (by simpa using hzero)]
        simp [State.setAll, State.get_set, Fld.key, fLaceStatus_parent, fLaceStatus_skew_ns]
    · rw [State.get_event (g := fLaceStatus_skew_ns d) (Fld.offEvents_of_die _ _ _ _),
        State.get_bump_ne _ _ (by simp [Fld.key, fLaceStatus_skew_ns, fLaceStatus_switches])]
      simp [State.setAll, fLaceStatus_parent, fLaceStatus_skew_ns, Nat.mod_eq_of_lt skew.isLt]
    · rw [State.get_event (g := fLaceStatus_switches d) (Fld.offEvents_of_die _ _ _ _), State.get_bump_same]
      simp [State.setAll, State.get_set, Fld.key, fLaceStatus_parent, fLaceStatus_skew_ns, fLaceStatus_switches]
    · exact (((State.setAll_within _ _).trans (State.bump_within _ _ 1)).mono (by decide)).trans (State.event_within ..)
    · refine RegsKept.event (fs := [fLaceStatus_parent d, fLaceStatus_skew_ns d, fLaceStatus_switches d])
        ?_ (fun f hf => ?_) _ _ _ _ _
      · exact ((RegsKept.refl _ s).setAll _ (by simp [-Prod.forall])).bump 1 (by simp)
      simp only [List.mem_cons, List.not_mem_nil, or_false] at hf
      rcases hf with rfl | rfl | rfl <;> exact Fld.offEvents_of_die _ _ _ _
  · show execLaceParentTimeout d ok skew s = _
    rw [execLaceParentTimeout]
    refine if_pos ?_
    rcases hnone with hd | hnow
    · simp [laceParents_zero hd]
    · simp [hnow]

end Sys2Proof.Machine

/-! SUPPORT. The product array (R105 to R108): the statement O14. -/

namespace Sys2Proof.Machine

set_option Elab.async false

/-! ## The checks of a descriptor (R106) -/

theorem faultOf_legal (s : State) {size desc : Nat} {ends : List Nat} (halign : desc % 64 = 0) (hin : desc + 64 ≤ size)
    (hends : ∀ e ∈ ends, e ≤ size) : faultOf s size desc true ends = (none, s) := by
  have hany : (ends.any fun e => decide (size < e)) = false := by simpa using hends
  simp [faultOf, halign, not_lt.2 hin, hany]

theorem faultOf_illegal (s : State) {size desc : Nat} {ends : List Nat} (halign : desc % 64 = 0) (hin : desc + 64 ≤ size)
    (hends : ∀ e ∈ ends, e ≤ size) : faultOf s size desc false ends = (some 3, s) := by
  have hany : (ends.any fun e => decide (size < e)) = false := by simpa using hends
  simp [faultOf, halign, not_lt.2 hin, hany, State.pick]

/-! ## A pass that completes (R108) -/

/-- The writes of a pass to the tile store. -/
def State.writeOutput (s : State) (t : Nat) (ws : List (Nat × List Byte)) : State := ws.foldl (fun s w => s.scratchWrite t w.1 w.2) s

theorem State.writeOutput_scratch {s u : State} (h : u.tile.scratch = s.tile.scratch) (t : Nat) (ws : List (Nat × List Byte)) :
    (u.writeOutput t ws).tile.scratch = (s.writeOutput t ws).tile.scratch := by
  induction ws generalizing s u with
  | nil => exact h
  | cons w ws ih => exact ih (State.scratchWrite_scratch h t w.1 w.2)

/-- Writes of the output change nothing but the tile stores. -/
theorem State.writeOutput_eq (s : State) (t : Nat) (ws : List (Nat × List Byte)) :
    s.writeOutput t ws = { s with tile := { s.tile with scratch := (s.writeOutput t ws).tile.scratch } } := by
  induction ws generalizing s with
  | nil => rfl
  | cons w ws ih =>
    rw [State.writeOutput, List.foldl_cons, ← State.writeOutput, ih]
    rfl

theorem State.passDone_cases (s : State) (p : Nat) (d : PassDesc) {fo : Fmt} (hfo : outputFmt d.outFmt = some fo) :
    (s.eyeletOf p d.done = none ∧ s.passDone p d = s) ∨
      ∃ e, s.eyeletOf p d.done = some e ∧ s.passDone p d = s.eyeCount e (passCount d fo) := by
  rw [State.passDone, hfo]
  cases h : s.eyeletOf p d.done with
  | none => exact .inl ⟨rfl, rfl⟩
  | some e => exact .inr ⟨e, rfl, rfl⟩

theorem State.eyeCount_tile (s : State) (e n : Nat) : (s.eyeCount e n).tile = s.tile := by
  rcases s.eyeCount_cases e n with h | h
  · rw [h]
    rfl
  · rw [h, State.bump, State.set_tile]
    rfl

theorem State.passDone_tile (s : State) (p : Nat) (d : PassDesc) : (s.passDone p d).tile = s.tile := by
  rw [State.passDone]
  split
  · rfl
  split
  · exact State.eyeCount_tile ..
  · rfl

/-- The tile once its pass has returned these flags (R108). -/
def State.endPass (s : State) (t : Nat) (fl : Flags) : State :=
  s.setTile t { s.tileAt t with running := none, status := (s.tileAt t).status ||| fl.bits }

theorem exec_productPassComplete {s : State} {t : TileId} {k : Task} {d : PassDesc} {fa fb fo : Fmt} {r : PassResult}
    (hk : s.taskOn t = some k) (hd : (s.tileAt t).running = some d) (ha : operandFmt d.aFmt = some fa) (hb : operandFmt d.bFmt = some fb)
    (hfo : outputFmt d.outFmt = some fo)
    (hr : r = passRun d fa fb fo (s.scratchRead t) (s.bankOf t d.bank) (s.outRound k.part) (s.satMode k.part)) :
    exec (.productPassComplete t) s =
      .next ((((s.endPass t r.flags).setBank t d.bank r.rows).writeOutput t r.writes).passDone k.part d) := by
  show execProductPassComplete t s = _
  rw [execProductPassComplete]
  simp only [hk, hd, ha, hb, hfo, ← hr]
  rfl

/-! ## The statement -/

/-- Settles O14: the queue, the gate and the end of a pass, each by the equation of its arm. -/
theorem productPasses : Obligations.ProductPasses := by
  refine ⟨fun s u v t g k y desc b h hlen hu hb halign hin hlegal hends => ?_,
    fun s u v t g k y desc b h hlen hu hb halign hin hlegal hends => ?_, fun s t g desc hfull => ?_,
    fun s t k d rest hk hphase hd hrun hslack hgate => ?_, fun s t k d rest e hk hphase hd hrun he hvoid => ?_,
    fun s t k d rest e hk hd hrun he hvoid hcount => ?_, fun s t k d fa fb fo r hk hd ha hb hfo hr => ?_⟩
  · show execPassInstruction t g desc s = _
    rw [execPassInstruction, if_neg (not_le.2 hlen), State.withPath_some h]
    simp only [← hu, ← hb, hlegal, faultOf_legal u halign hin hends]
  · show execPassInstruction t g desc s = _
    rw [execPassInstruction, if_neg (not_le.2 hlen), State.withPath_some h]
    simp only [← hu, ← hb, hlegal, faultOf_illegal u halign hin hends]
  · show execPassInstruction t g desc s = _
    rw [execPassInstruction, if_pos hfull]
  · show execProductPassStart t s = _
    rw [execProductPassStart]
    simp only [hk, hd, hrun]
    rw [if_neg (by simp [hphase])]
    cases he : s.eyeletOf k.part d.gate with
    | none => simp [hslack]
    | some e =>
      obtain ⟨hvoid, hcount⟩ := hgate e he
      simp [hvoid, hslack, hcount]
  · show execProductPassStart t s = _
    rw [execProductPassStart]
    simp only [hk, hd, hrun]
    rw [if_neg (by simp [hphase])]
    simp only [he, hvoid, if_true]
  · show execProductPassStart t s = _
    rw [execProductPassStart]
    simp only [hk, hd, hrun]
    split
    · rfl
    · simp [he, hvoid, hcount]
  · set v := ((s.endPass t r.flags).setBank t d.bank r.rows).writeOutput t r.writes with hv
    have hwrite := State.writeOutput_eq ((s.endPass t r.flags).setBank t d.bank r.rows) t r.writes
    have htiles : v.tile.tiles = (s.endPass t r.flags).tile.tiles := congrArg (fun u => u.tile.tiles) hwrite
    have hbanks : v.tile.banks = (s.setBank t d.bank r.rows).tile.banks := congrArg (fun u => u.tile.banks) hwrite
    have htile : (v.passDone k.part d).tileAt t =
        { s.tileAt t with running := none, status := (s.tileAt t).status ||| r.flags.bits } := by
      rw [State.tileAt_congr (congrArg (·.tiles) (State.passDone_tile v k.part d)), State.tileAt_congr htiles, State.endPass,
        State.tileAt_setTile_same]
    refine ⟨_, exec_productPassComplete hk hd ha hb hfo hr, ?_, ?_, ?_, ?_, fun e he => ?_, ?_⟩
    · rw [htile]
    · rw [htile]
    · rw [State.passDone_tile, hbanks]
    · rw [State.passDone_tile]
      exact State.writeOutput_scratch (s := s) (u := (s.endPass t r.flags).setBank t d.bank r.rows) rfl t r.writes
    · have heyelet : v.eyeletOf k.part d.done = some e := by
        rw [hv, hwrite]
        exact he
      have heyes : v.eyelets = s.eyelets := (congrArg (fun u => u.eyelets) hwrite :)
      rcases v.passDone_cases k.part d hfo with ⟨hnone, -⟩ | ⟨e', he', hdone⟩
      · rw [heyelet] at hnone
        cases hnone
      · rw [heyelet] at he'
        cases he'
        rw [hdone, State.eye_eyeCount, State.eye_eyeCount, State.eye_congr heyes]
    · have hpass : Within [.tile, .scratch, .banks] s v := by
        rw [hv, hwrite]
        refine ⟨rfl, fun c hc => ?_⟩
        cases c with
        | tile => exact absurd (by simp) hc
        | scratch => exact absurd (by simp) hc
        | banks => exact absurd (by simp) hc
        | burns => exact ⟨rfl, rfl, rfl⟩
        | _ => rfl
      exact (hpass.mono (by simp)).trans (State.passDone_keeps v k.part d).within

end Sys2Proof.Machine

/-! SUPPORT. The copy engine (R113 to R119): the statement O15. -/

namespace Sys2Proof.Machine

set_option Elab.async false

theorem faultOf_beyond (s : State) {size desc : Nat} {ends : List Nat} (halign : desc % 64 = 0) (hin : desc + 64 ≤ size)
    (hends : ∃ e ∈ ends, size < e) : faultOf s size desc true ends = (some 4, s) := by
  have hany : (ends.any fun e => decide (size < e)) = true := by simpa using hends
  simp [faultOf, halign, not_lt.2 hin, hany, State.pick]

/-! ## One row in pieces (R97, R117) -/

theorem mapGetList_add {α : Type} (d : α) (m : SMap α) (k a b : Nat) :
    mapGetList d m k (a + b) = mapGetList d m k a ++ mapGetList d m (k + a) b := by
  simp [mapGetList, List.range_add, Nat.add_assoc]

theorem mapGetList_length {α : Type} (d : α) (m : SMap α) (k n : Nat) : (mapGetList d m k n).length = n := by simp [mapGetList]

/-- The pieces of a range of one row, read one after another, are the bytes of the range. -/
theorem flatMap_cutRange {m : SMap Byte} {row a base : Nat} {addr : Nat → Nat} (haddr : ∀ p < row, addr p = a + p) (fuel first len : Nat)
    (hfuel : len ≤ fuel) (hrow : first + len ≤ row) :
    ((cutRange row 64 addr fuel first len).flatMap fun e => mapGetList 0#8 m (base + addr e.1) e.2) =
      mapGetList 0#8 m (base + (a + first)) len := by
  induction fuel generalizing first len with
  | zero => simp [cutRange, mapGetList, Nat.le_zero.1 hfuel]
  | succ fuel ih =>
    by_cases hlen : len = 0
    · simp [cutRange, mapGetList, hlen]
    have hfirst : first < row := by omega
    have hpos : 0 < min len (min (row - first % row) (64 - addr first % 64)) := by
      have := Nat.mod_lt first (by omega : 0 < row)
      have := Nat.mod_lt (addr first) (by omega : 0 < 64)
      omega
    generalize hn : min len (min (row - first % row) (64 - addr first % 64)) = n at hpos
    have hle : n ≤ len := by omega
    rw [cutRange, if_neg hlen]
    simp only [hn, if_neg hpos.ne', List.flatMap_cons]
    rw [ih _ _ (by omega) (by omega), haddr _ hfirst, show base + (a + (first + n)) = base + (a + first) + n by omega, ← mapGetList_add,
      Nat.add_sub_cancel' hle]

theorem cutRange_one {row first len fuel : Nat} {addr : Nat → Nat} (hlen : 0 < len) (hrow : first + len ≤ row)
    (hblock : addr first % 64 + len ≤ 64) : cutRange row 64 addr (fuel + 1) first len = [(first, len)] := by
  have hmin : min len (min (row - first % row) (64 - addr first % 64)) = len := by
    rw [Nat.mod_eq_of_lt (by omega)]; omega
  rw [cutRange, if_neg hlen.ne']
  simp only [hmin, if_neg hlen.ne', Nat.sub_self]
  cases fuel <;> simp [cutRange]

theorem takeHeld_one {first fuel : Nat} {bs : List Byte} (hbs : bs ≠ []) :
    takeHeld [(first, bs)] (fuel + 1) first bs.length = some bs := by
  have hlen := List.length_pos_iff.2 hbs
  simp only [takeHeld, if_neg hlen.ne', List.find?_cons, le_refl, decide_true, Bool.true_and]
  rw [decide_eq_true (by omega)]
  cases fuel <;> simp [takeHeld]

section OneRow
variable {d : CopyDesc} {first len : Nat}

theorem CopyDesc.dstOf_of_row {p : Nat} (h : p < d.length) : d.dstOf p = d.dstAddr + p := by
  simp [CopyDesc.dstOf, Nat.div_eq_of_lt h, Nat.mod_eq_of_lt h]

theorem CopyDesc.srcOf_of_row {p : Nat} (h : p < d.length) : d.srcOf p = d.srcAddr + p := by
  simp [CopyDesc.srcOf, Nat.div_eq_of_lt h, Nat.mod_eq_of_lt h]

/-- A range that begins and ends at edges and stays in one granule is the piece of that granule. -/
theorem CopyDesc.pieceOf_of_edges (hdst : d.dst = 0) (hsrc : d.src = 0) (hlen : 0 < len) (hrow : first + len ≤ d.length)
    (hfirst : d.atEdge first = true) (hlast : d.atEdge (first + len) = true) (hfit : (d.dstAddr + first) % 64 + len ≤ 64) :
    d.pieceOf first = (first, len) := by
  have hlt : first < d.length := by omega
  have hedge : first = 0 ∨ (d.dstAddr + first) % 64 = 0 := by
    simpa [CopyDesc.atEdge, hdst, hsrc, CopyDesc.dstOf_of_row hlt, Nat.mod_eq_of_lt hlt] using hfirst
  have hend : first + len = d.length ∨ (d.dstAddr + (first + len)) % 64 = 0 := by
    rcases Nat.lt_or_ge (first + len) d.length with hl | hl
    · have : first + len = 0 ∨ (d.dstAddr + (first + len)) % 64 = 0 := by
        simpa [CopyDesc.atEdge, hdst, hsrc, CopyDesc.dstOf_of_row hl, Nat.mod_eq_of_lt hl] using hlast
      exact .inr (this.resolve_left (by omega))
    · exact .inl (by omega)
  have hback : first - min (first % d.length) (d.dstOf first % 64) = first := by
    rw [Nat.mod_eq_of_lt hlt, CopyDesc.dstOf_of_row hlt]; omega
  simp only [CopyDesc.pieceOf, hback]
  rw [Nat.mod_eq_of_lt hlt, CopyDesc.dstOf_of_row hlt, show min (d.length - first) (64 - (d.dstAddr + first) % 64) = len by omega]

end OneRow

/-! ## A copy within a tile store (R117, R119) -/

theorem State.copyOn_id {s : State} {t id : Nat} {c : Copy} (h : s.copyOn t id = some c) : c.id = id :=
  eq_of_beq (List.find?_some (p := fun c : Copy => c.id == id) h)

theorem State.copyOn_setCopy {s : State} {t id : Nat} {c c' : Copy} (h : s.copyOn t id = some c) (hid : c'.id = id) :
    (s.setCopy t c').copyOn t id = some c' := by
  rw [State.copyOn, State.setCopy, State.tileAt_setTile_same]
  rw [State.copyOn] at h
  generalize (s.tileAt t).copies = l at h ⊢
  induction l with
  | nil => cases h
  | cons x xs ih =>
    rw [List.find?_cons] at h
    by_cases hx : x.id = id
    · simp [hx, hid]
    · rw [beq_false_of_ne hx] at h
      simpa [hx, hid] using ih h

theorem State.copyEyelet_setTile (s : State) (t p : Nat) (x : Tile) (d : CopyDesc) :
    (s.setTile t x).copyEyelet p d = s.copyEyelet p d := rfl

theorem State.copyEyelet_tile (s : State) (p : Nat) (x) (d : CopyDesc) :
    ({ s with tile := x } : State).copyEyelet p d = s.copyEyelet p d := rfl

theorem State.copyCount_scratch {s : State} {t id n p : Nat} {c : Copy} {k : Task} (hc : s.copyOn t id = some c)
    (hk : s.taskById c.task = some k) (hp : k.part = p) (he : s.copyEyelet p c.desc = none) :
    (s.copyCount t id n).tile.scratch = s.tile.scratch := by
  simp only [State.copyCount, hc, hk, Option.map_some, Option.getD_some, hp, he]
  split <;> rfl

theorem State.putGranule_scratch {s : State} {t id w b p : Nat} {c : Copy} {k : Task} {bs : List Byte} (hc : s.copyOn t id = some c)
    (hk : s.taskById c.task = some k) (hp : k.part = p) (he : s.copyEyelet p c.desc = none)
    (hheld : c.held = [(b, bs)]) (hbs : bs ≠ []) (hpiece : c.desc.pieceOf b = (b, bs.length)) :
    (s.putGranule t id w b).tile.scratch = (s.scratchWrite w (c.desc.dstOf b) bs).tile.scratch := by
  have htake : c.take b bs.length = some (bs, { c with held := cutHeld c.held b bs.length }) := by
    rw [Copy.take, hheld, List.length_singleton, takeHeld_one hbs, Option.map_some]
  simp only [State.putGranule, hc, hpiece, htake]
  exact State.copyCount_scratch (State.copyOn_setCopy hc (State.copyOn_id (c := c) hc)) hk hp he

/-- Bytes that leave for the same tile's store are read from it and written back at their destination. -/
theorem State.copyLeave_scratch {s : State} {t id first len : Nat} {c : Copy} {k : Task} (hc : s.copyOn t id = some c)
    (hk : s.taskById c.task = some k) (hsrc : c.desc.src = 0) (hdst : c.desc.dst = 0) (hlen : 0 < len)
    (hrow : first + len ≤ c.desc.length) (hfirst : c.desc.atEdge first = true) (hlast : c.desc.atEdge (first + len) = true)
    (hfit : (c.desc.dstAddr + first) % 64 + len ≤ 64) (hheld : c.held = []) (hfence : s.fenced t = false)
    (he : s.copyEyelet k.part c.desc = none) :
    (s.copyLeave t k c first len).tile.scratch =
      (s.scratchWrite t (c.desc.dstAddr + first) (s.scratchRead t (c.desc.srcAddr + first) len)).tile.scratch := by
  have hlt : first < c.desc.length := by omega
  have hid := State.copyOn_id hc
  have hread := flatMap_cutRange (m := s.tile.scratch) (base := t * 2 ^ 20) (a := c.desc.srcAddr) (addr := c.desc.srcOf)
    (fun _ => CopyDesc.srcOf_of_row) (len + 1) first len (by omega) hrow
  have hcut : cutRange c.desc.length 64 c.desc.dstOf (len + 1) first len = [(first, len)] :=
    cutRange_one hlen hrow (by rw [CopyDesc.dstOf_of_row hlt]; exact hfit)
  have hpiece := CopyDesc.pieceOf_of_edges hdst hsrc hlen hrow hfirst hlast hfit
  generalize hbs : s.scratchRead t (c.desc.srcAddr + first) len = bs
  have hbslen : bs.length = len := by rw [← hbs]; exact mapGetList_length ..
  have hne : bs ≠ [] := List.length_pos_iff.1 (hbslen ▸ hlen)
  have hput : ∀ u : State, u.copyOn t id = some { c with moved := c.moved ++ [(first, len)] } → u.taskById c.task = some k →
      u.fenced t = false → u.copyEyelet k.part c.desc = none → u.tile.scratch = s.tile.scratch →
      (u.copyPut t id first bs).tile.scratch = (s.scratchWrite t (c.desc.dstAddr + first) bs).tile.scratch := by
    intro u hu huk huf hue hus
    have hone := State.putGranule_scratch (w := t) (State.copyOn_setCopy (c' := { c with moved := c.moved ++ [(first, len)], held := [(first, bs)] }) hu hid)
      huk rfl hue rfl hne (by rw [hbslen]; exact hpiece)
    rw [CopyDesc.dstOf_of_row hlt] at hone
    simp only [State.copyPut, hu, huk, hdst, Nat.zero_lt_two, if_true, peerTile, huf, Bool.false_eq_true, if_false, hheld, hbslen, hcut]
    exact hone.trans (State.scratchWrite_scratch hus t _ bs)
  have hu := State.copyOn_setCopy (c' := { c with moved := c.moved ++ [(first, len)] }) hc hid
  have hgo := hput (s.setCopy t { c with moved := c.moved ++ [(first, len)] }) hu hk hfence he rfl
  have hread' : ((cutRange c.desc.length 64 c.desc.srcOf (len + 1) first len).flatMap fun e =>
      s.scratchRead t (c.desc.srcOf e.1) e.2) = bs := hread.trans hbs
  subst hid
  have hset : (s.setCopy t { c with moved := c.moved ++ [(first, len)] }).fenced t = false := hfence
  simp only [State.copyLeave, hsrc, Nat.zero_lt_two, if_true, peerTile, hset, Bool.false_eq_true, if_false]
  exact (congrArg (fun b => (State.copyPut _ t c.id first b).tile.scratch) hread').trans hgo

/-- Settles O15: a copy within a tile store moves one whole piece, read before it is written; the other clauses are the checks in order. -/
theorem copies : Obligations.Copies := by
  unfold Obligations.Copies
  refine ⟨fun s u v t g k y desc b hf hslack hroom hu hb halign hin hlegal hends hsrc hdst heye => ?_,
    fun s u v t g k y desc b hf hslack hroom hu hb halign hin hlegal hends => ?_, fun s t g desc h => ?_,
    fun s t id first len c k hc hk hlen htot hmoved hsrc hfirst hlast hsched => ?_,
    fun s t id first len c k hc hk hsrc hdst hsched hrows hlen htot hfirst hlast hfit hmoved hheld hfence he => ?_,
    fun s t id first len c hc hcase => ?_⟩
  · refine (if_neg (by simp [hslack, hroom])).trans (congrArg Host.Outcome.next ((State.withPath_some hf _).trans ?_))
    subst hu hb
    simp only [hlegal, faultOf_legal _ halign hin hends, if_neg hsrc, if_neg hdst]
    simp only [State.copyEyelet_setTile, State.copyEyelet_tile, heye]
    rfl
  · refine (if_neg (by simp [hslack, hroom])).trans (congrArg Host.Outcome.next ((State.withPath_some hf _).trans ?_))
    subst hu hb
    simp only [hlegal, faultOf_beyond _ halign hin hends]
  · exact if_pos (by simpa using h)
  · have htwice : (c.moved.any fun e => decide (e.1 < first + len) && decide (first < e.1 + e.2)) = false := by
      simp only [List.any_eq_false, Bool.and_eq_true, decide_eq_true_eq, not_and]
      intro e hmem
      have := hmoved e hmem
      omega
    have hmove : (c.desc.scheduled && !(List.range len).all fun i => s.canMove t k c.desc (first + i)) = false := by
      simpa using hsched
    show execCopyArrival t id first len s = _
    simp [execCopyArrival, hc, hk, hlen.ne', not_lt.2 htot, htwice, hsrc, hfirst, hlast, hmove]
  · have hrow : first + len ≤ c.desc.length := by omega
    refine ⟨s.copyLeave t k c first len, ?_, fun i hi => ?_⟩
    · show execCopyArrival t id first len s = _
      simp [execCopyArrival, hc, hk, hlen.ne', not_lt.2 htot, hmoved, hsrc, hfirst, hlast, hsched]
    · have hbslen : (s.scratchRead t (c.desc.srcAddr + first) len).length = len := mapGetList_length ..
      rw [State.copyLeave_scratch hc hk hsrc hdst hlen hrow hfirst hlast hfit hheld hfence he]
      refine (mapGet_mapSetList ..).trans ?_
      rw [if_pos ⟨by omega, by omega⟩, show t.val * 2 ^ 20 + (c.desc.dstAddr + first) + i - (t.val * 2 ^ 20 + (c.desc.dstAddr + first)) = i by omega]
      simp [State.scratchRead, mapGetList, hi, Nat.add_assoc]
  · show execCopyArrival t id first len s = _
    cases hk : s.taskById c.task with
    | none => simp only [execCopyArrival, hc, hk]
    | some k =>
      simp only [execCopyArrival, hc, hk]
      rcases hcase with h | h | ⟨e, hmem, he⟩ | h | h | ⟨hsched, k', i, hk', hi, h⟩
      · rw [if_pos (by simp [h])]
      · rw [if_pos (by simp [h])]
      · have htwice : (c.moved.any fun e => decide (e.1 < first + len) && decide (first < e.1 + e.2)) = true :=
          List.any_eq_true.2 ⟨e, hmem, by simpa using he⟩
        rw [if_pos (by simp [htwice])]
      · exact ite_eq_left_iff.2 fun _ => if_pos (by simp [h])
      · exact ite_eq_left_iff.2 fun _ => if_pos (by simp [h])
      · obtain rfl : k = k' := Option.some.inj (hk.symm.trans hk')
        have hstuck : ((List.range len).all fun i => s.canMove t k c.desc (first + i)) = false := by
          simp only [List.all_eq_false, List.mem_range]
          exact ⟨i, hi, by simp [h]⟩
        exact ite_eq_left_iff.2 fun _ => ite_eq_left_iff.2 fun _ => if_pos (by simp [hsched, hstuck])

end Sys2Proof.Machine

/-! SUPPORT. Frames of a state with one component replaced, and what an event changes of the fault component. -/

namespace Sys2Proof.Machine

set_option Elab.async false

/-! ## One component replaced

`Within cs s t` stays when a component of the list `cs` is given another value. -/

theorem Within.cons {c : Comp} {cs : List Comp} {s t u : State} (h : Within cs s t) (hc : c ∈ cs) (g : Within [c] t u) : Within cs s u :=
  h.trans (g.mono fun _ hx => List.mem_singleton.1 hx ▸ hc)

theorem Within.setClock {cs : List Comp} {s t : State} (h : Within cs s t) (e) (hc : Comp.clock ∈ cs := by decide) :
    Within cs s { t with clock := e } :=
  h.cons hc ((Keeps.refl 2 t).setClock (by decide)).within

theorem Within.setCfg {cs : List Comp} {s t : State} (h : Within cs s t) (e) (hc : Comp.cfg ∈ cs := by decide) :
    Within cs s { t with cfg := e } :=
  h.cons hc ((Keeps.refl 4 t).setCfg (by decide)).within

theorem Within.setLdr {cs : List Comp} {s t : State} (h : Within cs s t) (e) (hc : Comp.ldr ∈ cs := by decide) :
    Within cs s { t with ldr := e } :=
  h.cons hc ((Keeps.refl 8 t).setLdr (by decide)).within

theorem Within.setDev {cs : List Comp} {s t : State} (h : Within cs s t) (e) (hc : Comp.dev ∈ cs := by decide) :
    Within cs s { t with dev := e } :=
  h.cons hc ((Keeps.refl 16 t).setDev (by decide)).within

theorem Within.setLasts {cs : List Comp} {s t : State} (h : Within cs s t) (e) (hc : Comp.lasts ∈ cs := by decide) :
    Within cs s { t with lasts := e } :=
  h.cons hc ((Keeps.refl 32 t).setLasts (by decide)).within

theorem Within.setMesh {cs : List Comp} {s t : State} (h : Within cs s t) (e) (hc : Comp.mesh ∈ cs := by decide) :
    Within cs s { t with mesh := e } :=
  h.cons hc ((Keeps.refl 128 t).setMesh (by decide)).within

theorem Within.setCoh {cs : List Comp} {s t : State} (h : Within cs s t) (e) (hc : Comp.coh ∈ cs := by decide) :
    Within cs s { t with coh := e } :=
  h.cons hc ((Keeps.refl 256 t).setCoh (by decide)).within

theorem Within.setEyelets {cs : List Comp} {s t : State} (h : Within cs s t) (e) (hc : Comp.eyelets ∈ cs := by decide) :
    Within cs s { t with eyelets := e } :=
  h.cons hc ((Keeps.refl 512 t).setEyelets (by decide)).within

theorem Within.setUci {cs : List Comp} {s t : State} (h : Within cs s t) (e) (hc : Comp.uci ∈ cs := by decide) :
    Within cs s { t with uci := e } :=
  h.cons hc ((Keeps.refl 2048 t).setUci (by decide)).within

theorem Within.setOuter {cs : List Comp} {s t : State} (h : Within cs s t) (e) (hc : Comp.outer ∈ cs := by decide) :
    Within cs s { t with outer := e } :=
  h.cons hc ((Keeps.refl 4096 t).setOuter (by decide)).within

theorem Within.setPart {cs : List Comp} {s t : State} (h : Within cs s t) (e) (hc : Comp.part ∈ cs := by decide) :
    Within cs s { t with part := e } :=
  h.cons hc ((Keeps.refl 8192 t).setPart (by decide)).within

theorem Within.setFlt {cs : List Comp} {s t : State} (h : Within cs s t) (e) (hc : Comp.flt ∈ cs := by decide) :
    Within cs s { t with flt := e } :=
  h.cons hc ((Keeps.refl 16384 t).setFlt (by decide)).within

theorem Within.setPower {cs : List Comp} {s t : State} (h : Within cs s t) (e) (hc : Comp.power ∈ cs := by decide) :
    Within cs s { t with power := e } :=
  h.cons hc ((Keeps.refl 32768 t).setPower (by decide)).within

theorem Within.setAwl {cs : List Comp} {s t : State} (h : Within cs s t) (e) (hc : Comp.awl ∈ cs := by decide) :
    Within cs s { t with awl := e } :=
  h.cons hc ((Keeps.refl 65536 t).setAwl (by decide)).within

theorem Within.setPins {cs : List Comp} {s t : State} (h : Within cs s t) (e) (hc : Comp.pins ∈ cs := by decide) :
    Within cs s { t with pins := e } :=
  h.cons hc ((Keeps.refl 2097152 t).setPins (by decide)).within

theorem Within.setOut {cs : List Comp} {s t : State} (h : Within cs s t) (e) (hc : Comp.out ∈ cs := by decide) :
    Within cs s { t with out := e } :=
  h.cons hc ((Keeps.refl 4194304 t).setOut (by decide)).within

theorem Within.setLastRead {cs : List Comp} {s t : State} (h : Within cs s t) (e) (hc : Comp.lastRead ∈ cs := by decide) :
    Within cs s { t with lastRead := e } :=
  h.cons hc ((Keeps.refl 8388608 t).setLastRead (by decide)).within

theorem Within.setFree {cs : List Comp} {s t : State} (h : Within cs s t) (e) (hc : Comp.free ∈ cs := by decide) :
    Within cs s { t with free := e } :=
  h.cons hc ((Keeps.refl 16777216 t).setFree (by decide)).within

theorem Within.setRegs {cs : List Comp} {s t u : State} (h : Within cs s t) (g : Within [.regs] t u) (hc : Comp.regs ∈ cs := by decide) :
    Within cs s u :=
  h.cons hc g

/-! ## Events -/

/-- An event takes the next number of its source's sequence and changes nothing else of the fault component (R413). -/
theorem State.event_flt (s : State) (src code d0 d1 : Nat) (part : Option Nat) :
    (s.event src code d0 d1 part).flt = { s.flt with evSeq := mapSet 0 s.flt.evSeq src (mapGet 0 s.flt.evSeq src + 1) } := by
  unfold State.event
  extract_lets n f u head used i w
  split
  · exact (State.bump_keeps u _ _).flt (by decide)
  · exact ((State.fire_keeps w 0 3).flt (by decide)).trans ((State.setAll_keeps u _).flt (by decide))

@[simp] theorem State.event_rerouting (s : State) (src code d0 d1 : Nat) (part : Option Nat) :
    (s.event src code d0 d1 part).flt.rerouting = s.flt.rerouting := by rw [State.event_flt]

/-- Fields of registers are told apart by their register and place. -/
theorem Fld.mk_key_eq_iff {a b lo lo' w w' : Nat} (hlo : lo < 64) (hlo' : lo' < 64) :
    (Fld.mk a lo w).key = (Fld.mk b lo' w').key ↔ a = b ∧ lo = lo' := by
  simp only [Fld.key]
  omega

/-! ## Fault records and registers of a die (R409) -/

theorem Fld.ne_of_faultFields {s : State} {f g : Fld} (hg : 0x220000 * 64 ≤ g.key) (hf : f ∈ faultFields s) : g.key ≠ f.key := by
  have hi : s.get fFltRecHead_count % 1024 < 1024 := Nat.mod_lt _ (by decide)
  have hall : ∀ f ∈ faultFields s, f.key < 0x220000 * 64 := by
    simp only [faultFields, List.forall_mem_cons, Fld.key, fFltRecA_cause, fFltRecA_level, fFltRecA_unit_kind, fFltRecA_die,
      fFltRecA_unit, fFltRecA_guilty, fFltRecA_guilty_valid, fFltRecA_affected, fFltRecA_tile, fFltRecA_tile_valid, fFltRecA_valid,
      fFltRecB_sequence, fFltRecB_stitch, fFltRecC_ns, fFltRecC_generation, fFltRecC_detail, fFltRecD_address, RegKind.addr,
      RegKind.base, kFltRecA, kFltRecB, kFltRecC, kFltRecD, kFltRecHead, kFltRecStatus, fFltRecHead_count, fFltRecStatus_full,
      fFltRecStatus_dropped]
    generalize s.get fFltRecHead_count % 1024 = i at hi
    refine ⟨?_, ?_, ?_, ?_, ?_, ?_, ?_, ?_, ?_, ?_, ?_, ?_, ?_, ?_, ?_, ?_, ?_, ?_, ?_, ?_, by simp⟩ <;> omega
  exact (Nat.lt_of_lt_of_le (hall f hf) hg).ne'

/-- A register of a die reads as before a fault record. -/
theorem State.get_recordFault {g : Fld} (hg : 0x220000 * 64 ≤ g.key) (s : State) (f : FaultInfo) : (s.recordFault f).get g = s.get g :=
  (State.recordFault_regsKept s f).get fun _ hf => Fld.ne_of_faultFields hg hf

theorem Fld.le_key_of_die {k : RegKind} (d i lo w : Nat) (hk : k.space = .die := by rfl) :
    0x220000 * 64 ≤ (Fld.mk (k.addr d i) lo w).key := by
  have := RegKind.le_addr_of_die d i hk
  rw [Fld.key]
  dsimp only
  omega

/-! ## What an event, a vector and a fault record leave

An event writes the register file, the interrupts, the fault component and the output; a vector and a fault record write no fault
component (R409, R413). -/

@[simp] theorem State.bump_clock (s : State) (f : Fld) (n : Nat) : (s.bump f n).clock = s.clock := rfl

@[simp] theorem State.bump_cfg (s : State) (f : Fld) (n : Nat) : (s.bump f n).cfg = s.cfg := rfl

@[simp] theorem State.bump_ldr (s : State) (f : Fld) (n : Nat) : (s.bump f n).ldr = s.ldr := rfl

@[simp] theorem State.bump_dev (s : State) (f : Fld) (n : Nat) : (s.bump f n).dev = s.dev := rfl

@[simp] theorem State.bump_lasts (s : State) (f : Fld) (n : Nat) : (s.bump f n).lasts = s.lasts := rfl

@[simp] theorem State.bump_tile (s : State) (f : Fld) (n : Nat) : (s.bump f n).tile = s.tile := rfl

@[simp] theorem State.bump_mesh (s : State) (f : Fld) (n : Nat) : (s.bump f n).mesh = s.mesh := rfl

@[simp] theorem State.bump_coh (s : State) (f : Fld) (n : Nat) : (s.bump f n).coh = s.coh := rfl

@[simp] theorem State.bump_eyelets (s : State) (f : Fld) (n : Nat) : (s.bump f n).eyelets = s.eyelets := rfl

@[simp] theorem State.bump_dram (s : State) (f : Fld) (n : Nat) : (s.bump f n).dram = s.dram := rfl

@[simp] theorem State.bump_outer (s : State) (f : Fld) (n : Nat) : (s.bump f n).outer = s.outer := rfl

@[simp] theorem State.bump_part (s : State) (f : Fld) (n : Nat) : (s.bump f n).part = s.part := rfl

@[simp] theorem State.bump_power (s : State) (f : Fld) (n : Nat) : (s.bump f n).power = s.power := rfl

@[simp] theorem State.bump_awl (s : State) (f : Fld) (n : Nat) : (s.bump f n).awl = s.awl := rfl

@[simp] theorem State.bump_sec (s : State) (f : Fld) (n : Nat) : (s.bump f n).sec = s.sec := rfl

@[simp] theorem State.bump_pins (s : State) (f : Fld) (n : Nat) : (s.bump f n).pins = s.pins := rfl

@[simp] theorem State.bump_lastRead (s : State) (f : Fld) (n : Nat) : (s.bump f n).lastRead = s.lastRead := rfl

@[simp] theorem State.bump_free (s : State) (f : Fld) (n : Nat) : (s.bump f n).free = s.free := rfl

@[simp] theorem State.bump_flt (s : State) (f : Fld) (n : Nat) : (s.bump f n).flt = s.flt := rfl

@[simp] theorem State.bump_uci (s : State) (f : Fld) (n : Nat) : (s.bump f n).uci = s.uci := rfl

@[simp] theorem State.bump_out (s : State) (f : Fld) (n : Nat) : (s.bump f n).out = s.out := rfl

@[simp] theorem State.bump_pending (s : State) (f : Fld) (n : Nat) : (s.bump f n).pending = s.pending := rfl

@[simp] theorem State.addTo_clock (s : State) (f : Fld) (n : Nat) : (s.addTo f n).clock = s.clock := rfl

@[simp] theorem State.addTo_cfg (s : State) (f : Fld) (n : Nat) : (s.addTo f n).cfg = s.cfg := rfl

@[simp] theorem State.addTo_ldr (s : State) (f : Fld) (n : Nat) : (s.addTo f n).ldr = s.ldr := rfl

@[simp] theorem State.addTo_dev (s : State) (f : Fld) (n : Nat) : (s.addTo f n).dev = s.dev := rfl

@[simp] theorem State.addTo_lasts (s : State) (f : Fld) (n : Nat) : (s.addTo f n).lasts = s.lasts := rfl

@[simp] theorem State.addTo_tile (s : State) (f : Fld) (n : Nat) : (s.addTo f n).tile = s.tile := rfl

@[simp] theorem State.addTo_mesh (s : State) (f : Fld) (n : Nat) : (s.addTo f n).mesh = s.mesh := rfl

@[simp] theorem State.addTo_coh (s : State) (f : Fld) (n : Nat) : (s.addTo f n).coh = s.coh := rfl

@[simp] theorem State.addTo_eyelets (s : State) (f : Fld) (n : Nat) : (s.addTo f n).eyelets = s.eyelets := rfl

@[simp] theorem State.addTo_dram (s : State) (f : Fld) (n : Nat) : (s.addTo f n).dram = s.dram := rfl

@[simp] theorem State.addTo_outer (s : State) (f : Fld) (n : Nat) : (s.addTo f n).outer = s.outer := rfl

@[simp] theorem State.addTo_part (s : State) (f : Fld) (n : Nat) : (s.addTo f n).part = s.part := rfl

@[simp] theorem State.addTo_power (s : State) (f : Fld) (n : Nat) : (s.addTo f n).power = s.power := rfl

@[simp] theorem State.addTo_awl (s : State) (f : Fld) (n : Nat) : (s.addTo f n).awl = s.awl := rfl

@[simp] theorem State.addTo_sec (s : State) (f : Fld) (n : Nat) : (s.addTo f n).sec = s.sec := rfl

@[simp] theorem State.addTo_pins (s : State) (f : Fld) (n : Nat) : (s.addTo f n).pins = s.pins := rfl

@[simp] theorem State.addTo_lastRead (s : State) (f : Fld) (n : Nat) : (s.addTo f n).lastRead = s.lastRead := rfl

@[simp] theorem State.addTo_free (s : State) (f : Fld) (n : Nat) : (s.addTo f n).free = s.free := rfl

@[simp] theorem State.addTo_flt (s : State) (f : Fld) (n : Nat) : (s.addTo f n).flt = s.flt := rfl

@[simp] theorem State.addTo_uci (s : State) (f : Fld) (n : Nat) : (s.addTo f n).uci = s.uci := rfl

@[simp] theorem State.addTo_out (s : State) (f : Fld) (n : Nat) : (s.addTo f n).out = s.out := rfl

@[simp] theorem State.addTo_pending (s : State) (f : Fld) (n : Nat) : (s.addTo f n).pending = s.pending := rfl

theorem State.message_eq (s : State) (fn vec : Nat) : ∃ y, s.message fn vec = { s with out := y } := by
  unfold State.message
  split
  · exact ⟨_, rfl⟩
  · exact ⟨s.out, rfl⟩

theorem State.fire_eq (s : State) (fn vec : Nat) : ∃ x y, s.fire fn vec = { s with uci := x, out := y } := by
  unfold State.fire
  extract_lets u v
  have hu : ∃ y, u = { s with out := y } := by
    show ∃ y, (if fn = 0 && s.uci.ibi then s.emit (.ibi vec) else s) = { s with out := y }
    split
    · exact ⟨_, rfl⟩
    · exact ⟨s.out, rfl⟩
  obtain ⟨y, hy⟩ := hu
  clear_value u
  subst hy
  split_ifs
  · exact ⟨_, _, rfl⟩
  · exact ⟨_, _, rfl⟩
  · obtain ⟨z, hz⟩ := State.message_eq (State.setVector { s with out := y } fn vec { v with sent := true }) fn vec
    exact ⟨_, z, hz⟩

theorem State.event_eq (s : State) (src code d0 d1 : Nat) (part : Option Nat) :
    ∃ r x f y, s.event src code d0 d1 part = { s with regs := r, uci := x, flt := f, out := y } := by
  unfold State.event
  extract_lets n f u head used i v
  split
  · exact ⟨_, _, _, _, rfl⟩
  · obtain ⟨x, y, h⟩ := v.fire_eq 0 3
    have hv : v = { u with regs := v.regs } := State.setAll_eq ..
    rw [h, hv]
    exact ⟨_, _, _, _, rfl⟩

theorem State.recordFault_eq (s : State) (f : FaultInfo) :
    ∃ r x y, s.recordFault f = { s with regs := r, uci := x, out := y } := by
  unfold State.recordFault
  extract_lets head used dropped i v
  split
  · exact ⟨_, _, _, rfl⟩
  · obtain ⟨x, y, h⟩ := v.fire_eq 0 2
    have hv : v = { s with regs := v.regs } := State.setAll_eq ..
    rw [h, hv]
    exact ⟨_, _, _, rfl⟩

@[simp] theorem State.fire_clock (s : State) (fn vec : Nat) : (s.fire fn vec).clock = s.clock := by
  obtain ⟨x, y, h⟩ := s.fire_eq fn vec
  rw [h]

@[simp] theorem State.fire_cfg (s : State) (fn vec : Nat) : (s.fire fn vec).cfg = s.cfg := by
  obtain ⟨x, y, h⟩ := s.fire_eq fn vec
  rw [h]

@[simp] theorem State.fire_ldr (s : State) (fn vec : Nat) : (s.fire fn vec).ldr = s.ldr := by
  obtain ⟨x, y, h⟩ := s.fire_eq fn vec
  rw [h]

@[simp] theorem State.fire_dev (s : State) (fn vec : Nat) : (s.fire fn vec).dev = s.dev := by
  obtain ⟨x, y, h⟩ := s.fire_eq fn vec
  rw [h]

@[simp] theorem State.fire_lasts (s : State) (fn vec : Nat) : (s.fire fn vec).lasts = s.lasts := by
  obtain ⟨x, y, h⟩ := s.fire_eq fn vec
  rw [h]

@[simp] theorem State.fire_tile (s : State) (fn vec : Nat) : (s.fire fn vec).tile = s.tile := by
  obtain ⟨x, y, h⟩ := s.fire_eq fn vec
  rw [h]

@[simp] theorem State.fire_mesh (s : State) (fn vec : Nat) : (s.fire fn vec).mesh = s.mesh := by
  obtain ⟨x, y, h⟩ := s.fire_eq fn vec
  rw [h]

@[simp] theorem State.fire_coh (s : State) (fn vec : Nat) : (s.fire fn vec).coh = s.coh := by
  obtain ⟨x, y, h⟩ := s.fire_eq fn vec
  rw [h]

@[simp] theorem State.fire_eyelets (s : State) (fn vec : Nat) : (s.fire fn vec).eyelets = s.eyelets := by
  obtain ⟨x, y, h⟩ := s.fire_eq fn vec
  rw [h]

@[simp] theorem State.fire_dram (s : State) (fn vec : Nat) : (s.fire fn vec).dram = s.dram := by
  obtain ⟨x, y, h⟩ := s.fire_eq fn vec
  rw [h]

@[simp] theorem State.fire_outer (s : State) (fn vec : Nat) : (s.fire fn vec).outer = s.outer := by
  obtain ⟨x, y, h⟩ := s.fire_eq fn vec
  rw [h]

@[simp] theorem State.fire_part (s : State) (fn vec : Nat) : (s.fire fn vec).part = s.part := by
  obtain ⟨x, y, h⟩ := s.fire_eq fn vec
  rw [h]

@[simp] theorem State.fire_power (s : State) (fn vec : Nat) : (s.fire fn vec).power = s.power := by
  obtain ⟨x, y, h⟩ := s.fire_eq fn vec
  rw [h]

@[simp] theorem State.fire_awl (s : State) (fn vec : Nat) : (s.fire fn vec).awl = s.awl := by
  obtain ⟨x, y, h⟩ := s.fire_eq fn vec
  rw [h]

@[simp] theorem State.fire_sec (s : State) (fn vec : Nat) : (s.fire fn vec).sec = s.sec := by
  obtain ⟨x, y, h⟩ := s.fire_eq fn vec
  rw [h]

@[simp] theorem State.fire_pins (s : State) (fn vec : Nat) : (s.fire fn vec).pins = s.pins := by
  obtain ⟨x, y, h⟩ := s.fire_eq fn vec
  rw [h]

@[simp] theorem State.fire_lastRead (s : State) (fn vec : Nat) : (s.fire fn vec).lastRead = s.lastRead := by
  obtain ⟨x, y, h⟩ := s.fire_eq fn vec
  rw [h]

@[simp] theorem State.fire_free (s : State) (fn vec : Nat) : (s.fire fn vec).free = s.free := by
  obtain ⟨x, y, h⟩ := s.fire_eq fn vec
  rw [h]

@[simp] theorem State.fire_flt (s : State) (fn vec : Nat) : (s.fire fn vec).flt = s.flt := by
  obtain ⟨x, y, h⟩ := s.fire_eq fn vec
  rw [h]

@[simp] theorem State.event_clock (s : State) (src code d0 d1 : Nat) (part : Option Nat) : (s.event src code d0 d1 part).clock = s.clock := by
  obtain ⟨r, x, f, y, h⟩ := s.event_eq src code d0 d1 part
  rw [h]

@[simp] theorem State.event_cfg (s : State) (src code d0 d1 : Nat) (part : Option Nat) : (s.event src code d0 d1 part).cfg = s.cfg := by
  obtain ⟨r, x, f, y, h⟩ := s.event_eq src code d0 d1 part
  rw [h]

@[simp] theorem State.event_ldr (s : State) (src code d0 d1 : Nat) (part : Option Nat) : (s.event src code d0 d1 part).ldr = s.ldr := by
  obtain ⟨r, x, f, y, h⟩ := s.event_eq src code d0 d1 part
  rw [h]

@[simp] theorem State.event_dev (s : State) (src code d0 d1 : Nat) (part : Option Nat) : (s.event src code d0 d1 part).dev = s.dev := by
  obtain ⟨r, x, f, y, h⟩ := s.event_eq src code d0 d1 part
  rw [h]

@[simp] theorem State.event_lasts (s : State) (src code d0 d1 : Nat) (part : Option Nat) : (s.event src code d0 d1 part).lasts = s.lasts := by
  obtain ⟨r, x, f, y, h⟩ := s.event_eq src code d0 d1 part
  rw [h]

@[simp] theorem State.event_tile (s : State) (src code d0 d1 : Nat) (part : Option Nat) : (s.event src code d0 d1 part).tile = s.tile := by
  obtain ⟨r, x, f, y, h⟩ := s.event_eq src code d0 d1 part
  rw [h]

@[simp] theorem State.event_mesh (s : State) (src code d0 d1 : Nat) (part : Option Nat) : (s.event src code d0 d1 part).mesh = s.mesh := by
  obtain ⟨r, x, f, y, h⟩ := s.event_eq src code d0 d1 part
  rw [h]

@[simp] theorem State.event_coh (s : State) (src code d0 d1 : Nat) (part : Option Nat) : (s.event src code d0 d1 part).coh = s.coh := by
  obtain ⟨r, x, f, y, h⟩ := s.event_eq src code d0 d1 part
  rw [h]

@[simp] theorem State.event_eyelets (s : State) (src code d0 d1 : Nat) (part : Option Nat) : (s.event src code d0 d1 part).eyelets = s.eyelets := by
  obtain ⟨r, x, f, y, h⟩ := s.event_eq src code d0 d1 part
  rw [h]

@[simp] theorem State.event_dram (s : State) (src code d0 d1 : Nat) (part : Option Nat) : (s.event src code d0 d1 part).dram = s.dram := by
  obtain ⟨r, x, f, y, h⟩ := s.event_eq src code d0 d1 part
  rw [h]

@[simp] theorem State.event_outer (s : State) (src code d0 d1 : Nat) (part : Option Nat) : (s.event src code d0 d1 part).outer = s.outer := by
  obtain ⟨r, x, f, y, h⟩ := s.event_eq src code d0 d1 part
  rw [h]

@[simp] theorem State.event_part (s : State) (src code d0 d1 : Nat) (part : Option Nat) : (s.event src code d0 d1 part).part = s.part := by
  obtain ⟨r, x, f, y, h⟩ := s.event_eq src code d0 d1 part
  rw [h]

@[simp] theorem State.event_power (s : State) (src code d0 d1 : Nat) (part : Option Nat) : (s.event src code d0 d1 part).power = s.power := by
  obtain ⟨r, x, f, y, h⟩ := s.event_eq src code d0 d1 part
  rw [h]

@[simp] theorem State.event_awl (s : State) (src code d0 d1 : Nat) (part : Option Nat) : (s.event src code d0 d1 part).awl = s.awl := by
  obtain ⟨r, x, f, y, h⟩ := s.event_eq src code d0 d1 part
  rw [h]

@[simp] theorem State.event_sec (s : State) (src code d0 d1 : Nat) (part : Option Nat) : (s.event src code d0 d1 part).sec = s.sec := by
  obtain ⟨r, x, f, y, h⟩ := s.event_eq src code d0 d1 part
  rw [h]

@[simp] theorem State.event_pins (s : State) (src code d0 d1 : Nat) (part : Option Nat) : (s.event src code d0 d1 part).pins = s.pins := by
  obtain ⟨r, x, f, y, h⟩ := s.event_eq src code d0 d1 part
  rw [h]

@[simp] theorem State.event_lastRead (s : State) (src code d0 d1 : Nat) (part : Option Nat) : (s.event src code d0 d1 part).lastRead = s.lastRead := by
  obtain ⟨r, x, f, y, h⟩ := s.event_eq src code d0 d1 part
  rw [h]

@[simp] theorem State.event_free (s : State) (src code d0 d1 : Nat) (part : Option Nat) : (s.event src code d0 d1 part).free = s.free := by
  obtain ⟨r, x, f, y, h⟩ := s.event_eq src code d0 d1 part
  rw [h]

@[simp] theorem State.recordFault_clock (s : State) (f : FaultInfo) : (s.recordFault f).clock = s.clock := by
  obtain ⟨r, x, y, h⟩ := s.recordFault_eq f
  rw [h]

@[simp] theorem State.recordFault_cfg (s : State) (f : FaultInfo) : (s.recordFault f).cfg = s.cfg := by
  obtain ⟨r, x, y, h⟩ := s.recordFault_eq f
  rw [h]

@[simp] theorem State.recordFault_ldr (s : State) (f : FaultInfo) : (s.recordFault f).ldr = s.ldr := by
  obtain ⟨r, x, y, h⟩ := s.recordFault_eq f
  rw [h]

@[simp] theorem State.recordFault_dev (s : State) (f : FaultInfo) : (s.recordFault f).dev = s.dev := by
  obtain ⟨r, x, y, h⟩ := s.recordFault_eq f
  rw [h]

@[simp] theorem State.recordFault_lasts (s : State) (f : FaultInfo) : (s.recordFault f).lasts = s.lasts := by
  obtain ⟨r, x, y, h⟩ := s.recordFault_eq f
  rw [h]

@[simp] theorem State.recordFault_tile (s : State) (f : FaultInfo) : (s.recordFault f).tile = s.tile := by
  obtain ⟨r, x, y, h⟩ := s.recordFault_eq f
  rw [h]

@[simp] theorem State.recordFault_mesh (s : State) (f : FaultInfo) : (s.recordFault f).mesh = s.mesh := by
  obtain ⟨r, x, y, h⟩ := s.recordFault_eq f
  rw [h]

@[simp] theorem State.recordFault_coh (s : State) (f : FaultInfo) : (s.recordFault f).coh = s.coh := by
  obtain ⟨r, x, y, h⟩ := s.recordFault_eq f
  rw [h]

@[simp] theorem State.recordFault_eyelets (s : State) (f : FaultInfo) : (s.recordFault f).eyelets = s.eyelets := by
  obtain ⟨r, x, y, h⟩ := s.recordFault_eq f
  rw [h]

@[simp] theorem State.recordFault_dram (s : State) (f : FaultInfo) : (s.recordFault f).dram = s.dram := by
  obtain ⟨r, x, y, h⟩ := s.recordFault_eq f
  rw [h]

@[simp] theorem State.recordFault_outer (s : State) (f : FaultInfo) : (s.recordFault f).outer = s.outer := by
  obtain ⟨r, x, y, h⟩ := s.recordFault_eq f
  rw [h]

@[simp] theorem State.recordFault_part (s : State) (f : FaultInfo) : (s.recordFault f).part = s.part := by
  obtain ⟨r, x, y, h⟩ := s.recordFault_eq f
  rw [h]

@[simp] theorem State.recordFault_power (s : State) (f : FaultInfo) : (s.recordFault f).power = s.power := by
  obtain ⟨r, x, y, h⟩ := s.recordFault_eq f
  rw [h]

@[simp] theorem State.recordFault_awl (s : State) (f : FaultInfo) : (s.recordFault f).awl = s.awl := by
  obtain ⟨r, x, y, h⟩ := s.recordFault_eq f
  rw [h]

@[simp] theorem State.recordFault_sec (s : State) (f : FaultInfo) : (s.recordFault f).sec = s.sec := by
  obtain ⟨r, x, y, h⟩ := s.recordFault_eq f
  rw [h]

@[simp] theorem State.recordFault_pins (s : State) (f : FaultInfo) : (s.recordFault f).pins = s.pins := by
  obtain ⟨r, x, y, h⟩ := s.recordFault_eq f
  rw [h]

@[simp] theorem State.recordFault_lastRead (s : State) (f : FaultInfo) : (s.recordFault f).lastRead = s.lastRead := by
  obtain ⟨r, x, y, h⟩ := s.recordFault_eq f
  rw [h]

@[simp] theorem State.recordFault_free (s : State) (f : FaultInfo) : (s.recordFault f).free = s.free := by
  obtain ⟨r, x, y, h⟩ := s.recordFault_eq f
  rw [h]

@[simp] theorem State.recordFault_flt (s : State) (f : FaultInfo) : (s.recordFault f).flt = s.flt := by
  obtain ⟨r, x, y, h⟩ := s.recordFault_eq f
  rw [h]

end Sys2Proof.Machine

/-! SUPPORT. Suspect routers and links (R168, R181, R182, R189): the statement O16. -/

namespace Sys2Proof.Machine

set_option Elab.async false

theorem State.routeEpoch_ne_tileState (d t : Nat) : (fMeshStatus_route_epoch d).key ≠ (fTileState_state (tileDie t) (tileSite t)).key := by
  have : tileSite t < 272 := Nat.mod_lt _ (by decide)
  simp only [Fld.key, fMeshStatus_route_epoch, fTileState_state, RegKind.addr, RegKind.base, kMeshStatus, kTileState]
  omega

/-- The routes of a die that is isolated: its epoch and the list of dies that wait for new routes stay (R180). -/
theorem State.isolate_routes (s : State) (t cause a d : Nat) :
    ((s.isolate t cause a).2).get (fMeshStatus_route_epoch d) = s.get (fMeshStatus_route_epoch d) ∧
      ((s.isolate t cause a).2).flt.rerouting = s.flt.rerouting := by
  unfold State.isolate
  split_ifs
  · exact ⟨rfl, rfl⟩
  · exact ⟨rfl, rfl⟩
  · have hcopies : ∀ (l : List Copy) (u : State), (l.foldl (fun s c => s.copyError t c.id) u).regs = u.regs ∧
        (l.foldl (fun s c => s.copyError t c.id) u).flt = u.flt := by
      intro l
      induction l with
      | nil => exact fun u => ⟨rfl, rfl⟩
      | cons c l ih =>
        intro u
        obtain ⟨hr, hf⟩ := ih (u.copyError t c.id)
        exact ⟨hr.trans ((State.copyError_keeps u t c.id).regs (by decide)), hf.trans ((State.copyError_keeps u t c.id).flt (by decide))⟩
    obtain ⟨hregs, hflt⟩ := hcopies (s.tileAt t).copies s
    extract_lets u
    refine ⟨?_, ?_⟩
    · have hoff : (fMeshStatus_route_epoch d).offEvents = true := Fld.offEvents_of_die d 0 32 32
      show ((u.setTileCode t 5).event (tileDie t) 0x09 t cause (u.ownerOf t)).get (fMeshStatus_route_epoch d) = _
      rw [State.get_event hoff]
      exact (State.get_set_ne u 5 (State.routeEpoch_ne_tileState d t)).trans (State.get_congr hregs _)
    · rw [State.event_rerouting]
      exact (congrArg FltSt.rerouting ((State.setTileCode_keeps _ t 5).flt (by decide))).trans (congrArg FltSt.rerouting hflt)

theorem State.mem_needRoutes (s : State) (d : Nat) : d ∈ (s.needRoutes d).flt.rerouting := by
  rw [State.needRoutes]
  split
  · exact List.contains_iff_mem.1 ‹_›
  · exact List.mem_append_right _ (List.mem_singleton_self d)

theorem State.mesh_needRoutes_faultMany (s : State) (ps : List Nat) (f : FaultInfo) (d : Nat) :
    ((s.faultMany ps f).needRoutes d).mesh = s.mesh :=
  ((State.needRoutes_keeps _ d).mesh (by decide)).trans ((State.faultMany_keeps s ps f).mesh (by decide))

/-- A link that is declared dead: counted and logged, and then the faults of the partitions it carries (R182). -/
theorem State.linkDies_eq {s u v : State} {d site port plane : Nat} (h : s.linkDead d site port plane = false)
    (hv : v = s.setMesh { s.mesh with deadLinks := s.mesh.deadLinks ++ [(d * 272 + site, port, plane)] })
    (hu : u = (v.addTo (fMeshStatus_dead_links d) 1).event d 0x07 site (port + 8 * plane)) :
    s.linkDies d site port plane = (u.faultMany (u.shapedOn fun r => r == (d, site, port, plane))
      { cause := 0x0A, unitKind := 3, die := d, unit := site, detail := port + 8 * plane }).needRoutes d := by
  subst hu hv
  exact if_neg (by simp [h])

theorem State.linkDies_live {s : State} {d site port plane : Nat} (h : s.linkDead d site port plane = false) :
    (s.linkDies d site port plane).linkDead d site port plane = true ∧ d ∈ (s.linkDies d site port plane).flt.rerouting := by
  generalize hv : s.setMesh { s.mesh with deadLinks := s.mesh.deadLinks ++ [(d * 272 + site, port, plane)] } = v
  generalize hu : (v.addTo (fMeshStatus_dead_links d) 1).event d 0x07 site (port + 8 * plane) = u
  rw [State.linkDies_eq h hv.symm hu.symm]
  have hmesh : u.mesh = v.mesh := by rw [← hu, State.event_mesh, State.addTo_mesh]
  refine ⟨?_, State.mem_needRoutes _ _⟩
  rw [State.linkDead, State.mesh_needRoutes_faultMany, hmesh, ← hv]
  simp [State.setMesh]

theorem State.routerDies_live {s : State} {d site : Nat} (h : s.routerDead d site = false) :
    d ∈ (s.routerDies d site).flt.rerouting := by
  have hgo : ∃ u : State, s.routerDies d site = u.needRoutes d := ⟨_, if_neg (by simp [h])⟩
  obtain ⟨u, hu⟩ := hgo
  rw [hu]
  exact State.mem_needRoutes u d

theorem exec_loopbackCheck {s v : State} {d : Die} {site : Site}
    (hs : d.val * 272 + site.val ∈ s.flt.suspectRouters ∨ ∃ l ∈ s.flt.suspectLinks, l.1 = d.val * 272 + site.val)
    (hv : v = { s with flt := { s.flt with
      suspectRouters := s.flt.suspectRouters.erase (d.val * 272 + site.val),
      suspectLinks := s.flt.suspectLinks.filter fun l => l.1 != d.val * 272 + site.val } }) (links : List (Fin 5 × Fin 2)) :
    exec (.loopbackCheck d site false links) s = .next (v.routerDies d site).excuse ∧
    exec (.loopbackCheck d site true links) s = .next (links.foldl (fun (u : State) e => u.linkDies d site e.1 e.2) v).excuse := by
  have hsus : (s.flt.suspectRouters.contains (d.val * 272 + site.val) || s.flt.suspectLinks.any fun l => l.1 == d.val * 272 + site.val)
      = true := by simpa using hs
  subst hv
  refine ⟨?_, ?_⟩
  · show execLoopbackCheck d site false links s = _
    simp only [execLoopbackCheck, hsus, Bool.not_true, Bool.false_eq_true, if_false, Bool.not_false, if_true, State.setFlt]
  · show execLoopbackCheck d site true links s = _
    simp only [execLoopbackCheck, hsus, Bool.not_true, Bool.false_eq_true, if_false, State.setFlt]

theorem State.excuse_mesh (s : State) : s.excuse.mesh = s.mesh := (State.excuse_keeps s).mesh (by decide)

theorem State.excuse_flt (s : State) : s.excuse.flt = s.flt := (State.excuse_keeps s).flt (by decide)

/-- The dead routers of a die that is isolated in `cut` leave its routes alone. -/
theorem State.isolateAll_routes (cut : List Nat) (d : Nat) (s : State) :
    (cut.foldl (fun s t => (s.isolate (d * 272 + t) 9 0).2) s).get (fMeshStatus_route_epoch d) = s.get (fMeshStatus_route_epoch d) ∧
      (cut.foldl (fun s t => (s.isolate (d * 272 + t) 9 0).2) s).flt.rerouting = s.flt.rerouting := by
  induction cut generalizing s with
  | nil => exact ⟨rfl, rfl⟩
  | cons t cut ih =>
    obtain ⟨hget, hflt⟩ := ih (s.isolate (d * 272 + t) 9 0).2
    obtain ⟨hget', hflt'⟩ := s.isolate_routes (d * 272 + t) 9 0 d
    exact ⟨hget.trans hget', hflt.trans hflt'⟩

/-- The state after a resend: the run of the flit, and the link where the run is 8 (R168). -/
theorem exec_flitRetry (s : State) (d : Die) (site : Site) (port : Fin 5) (plane : Fin 2) (again : Bool) {key run : Nat}
    {l : Nat × Nat × Nat} (hkey : key = (d.val * 272 + site.val) * 10 + port.val * 2 + plane.val)
    (hl : l = (d.val * 272 + site.val, port.val, plane.val)) (hrun : run = if again = true then mapGet 0 s.flt.retryRuns key + 1 else 1) :
    exec (.flitRetry d site port ⟨plane, again⟩) s = .next { s.addTo (fMeshCntRetry_count d) 1 with flt := { s.flt with
      retryRuns := mapSet 0 s.flt.retryRuns key run,
      suspectLinks := if run = 8 ∧ l ∉ s.flt.suspectLinks then s.flt.suspectLinks ++ [l] else s.flt.suspectLinks } } := by
  let v : State := (s.addTo (fMeshCntRetry_count d) 1).setFlt { s.flt with retryRuns := mapSet 0 s.flt.retryRuns key run }
  have hexec : exec (.flitRetry d site port ⟨plane, again⟩) s = .next (if run = 8 then v.suspectLink l else v) := by
    subst hrun hkey hl
    rfl
  rw [hexec]
  by_cases hrun8 : run = 8
  · by_cases hmem : l ∈ s.flt.suspectLinks <;> simp [hrun8, hmem, State.suspectLink, v, State.setFlt]
  · simp [hrun8, v, State.setFlt]

theorem State.get_setMesh (s : State) (m : MeshSt) (f : Fld) : (s.setMesh m).get f = s.get f := rfl

/-- New routes are logged, and the sites that they cut off are isolated: the die's epoch stays as it was raised (R182). -/
theorem exec_routesRewritten {s v : State} {d : Die} (h : d.val ∈ s.flt.rerouting)
    (hv : v = (s.setFlt { s.flt with rerouting := s.flt.rerouting.erase d.val }).addTo (fMeshStatus_route_epoch d) 1) :
    ∃ u, exec (.routesRewritten d) s = .next u ∧ u.get (fMeshStatus_route_epoch d) = v.get (fMeshStatus_route_epoch d) ∧
      u.flt.rerouting = s.flt.rerouting.erase d.val ∧ Within [.regs, .tile, .mesh, .eyelets, .uci, .flt, .out] v u := by
  have hgo : ∃ (cut : List Nat) (m : MeshSt), exec (.routesRewritten d) s = .next (cut.foldl (fun (s : State) t => (s.isolate (d.val * 272 + t) 9 0).2)
      ((v.event d 0x08 (v.get (fMeshStatus_route_epoch d)) (2 ^ d.val)).setMesh m)) := by
    subst hv
    exact ⟨_, _, if_neg (by simpa using h)⟩
  have hv' : v.flt.rerouting = s.flt.rerouting.erase d.val := by
    subst hv
    rfl
  clear hv
  obtain ⟨cut, m, hexec⟩ := hgo
  have hoff : (fMeshStatus_route_epoch d).offEvents = true := Fld.offEvents_of_die d 0 32 32
  refine ⟨_, hexec, ?_, ?_, ?_⟩
  · rw [(State.isolateAll_routes cut d _).1, State.get_setMesh, State.get_event hoff]
  · rw [(State.isolateAll_routes cut d _).2, State.setMesh_flt, State.event_rerouting, hv']
  · exact ((State.event_within v _ _ _ _ _).mono.setMesh m).trans
      (Within.foldl (fun s t => (s.isolate_keeps _ 9 0).within) cut _)

/-- Settles O16: a failed check declares the router dead, a passed one the links it names, and new routes raise the epoch. -/
theorem meshFailures : Obligations.MeshFailures := by
  unfold Obligations.MeshFailures
  refine ⟨fun s d site port plane again key run l hkey hl hrun => ?_, fun s d site port h => ⟨?_, ?_⟩, fun s d site port h => ⟨?_, ?_⟩,
    fun s v d site links hs hv => ?_, fun s d site ok links hr hl => ?_, fun s d site port plane hs hdead => ?_,
    fun s d site links hs hdead => ?_, fun s d h => ?_, fun s d h => ?_⟩
  · refine ⟨_, exec_flitRetry s d site port plane again hkey hl hrun, State.get_set_same .., rfl, (s.addTo_within _ 1).mono.setFlt _, ?_⟩
    exact (RegsKept.refl _ s).set _ (List.mem_singleton_self _)
  · exact congrArg Host.Outcome.next (if_neg (by simpa using h))
  · exact congrArg Host.Outcome.next (if_neg (by simpa using h))
  · exact congrArg Host.Outcome.next (if_pos (by simpa using h))
  · exact congrArg Host.Outcome.next (if_pos (by simpa using h))
  · exact exec_loopbackCheck hs hv links
  · exact if_pos (by simpa -contextual [-Prod.forall] using ⟨hr, hl⟩)
  · obtain ⟨-, hexec⟩ := exec_loopbackCheck hs rfl [(port, plane)]
    refine ⟨_, hexec, ?_⟩
    rw [State.linkDead, State.excuse_mesh, State.excuse_flt]
    exact State.linkDies_live hdead
  · obtain ⟨hexec, -⟩ := exec_loopbackCheck hs rfl links
    refine ⟨_, hexec, ?_⟩
    rw [State.excuse_flt]
    exact State.routerDies_live hdead
  · obtain ⟨u, hexec, hget, hrerouting, hwithin⟩ := exec_routesRewritten h rfl
    refine ⟨u, hexec, hget.trans (State.get_set_same ..), hrerouting, ?_⟩
    exact (((Within.refl _ s).setFlt _).trans (State.addTo_within _ _ 1).mono).trans hwithin
  · exact if_pos (by simpa using h)

end Sys2Proof.Machine

/-! SUPPORT. Lanes and groups of the welts (R188, R189, R458): the statement O17. -/

namespace Sys2Proof.Machine

set_option Elab.async false

/-- A pass that ends counts its failed attempts afresh and changes nothing else of the test engine (R447). -/
theorem State.passEnds_awl (s : State) (d k unit : Nat) : ∃ m, (s.passEnds d k unit).awl = { s.awl with failed := m } := by
  rw [State.passEnds]
  by_cases h : unit + 1 ≠ population d k
  · exact ⟨s.awl.failed, by rw [if_pos h]⟩
  · refine ⟨mapSet 0 s.awl.failed (d * 8 + k) 0, ?_⟩
    rw [if_neg h]
    simp only [State.event_awl, State.bump_awl, State.setAwl, State.setAll_awl]

theorem State.stopSlice_awl (s : State) (r : SliceRun) (ns : Nat) :
    (s.stopSlice r ns).awl = { s.awl with running := s.awl.running.erase r } := by
  unfold State.stopSlice
  dsimp only
  split <;> simp [State.setAwl, State.setBitOf, State.setTileCode]

theorem State.abortSlice_awl (s : State) (r : SliceRun) :
    ∃ m, (s.abortSlice r).awl = { s.awl with running := s.awl.running.erase r, failed := m } := by
  obtain ⟨m, hm⟩ := (State.passEnds_awl ((s.stopSlice r (s.clock.now - r.started)).addTo (fAwlPass_deficit r.die r.kind) 1) r.die r.kind r.unit)
  have hadd : ((s.stopSlice r (s.clock.now - r.started)).addTo (fAwlPass_deficit r.die r.kind) 1).awl =
      (s.stopSlice r (s.clock.now - r.started)).awl := (State.set_keeps _ _ _).awl (by decide)
  rw [hadd, State.stopSlice_awl] at hm
  exact ⟨m, hm⟩

/-- Work that is aborted leaves the lanes and the calibration of the welts. -/
theorem State.abortSlices_lanes (s : State) (f : SliceRun → Bool) :
    (s.abortSlices f).awl.swapping = s.awl.swapping ∧ (s.abortSlices f).awl.calStopped = s.awl.calStopped := by
  have hone : ∀ (u : State) (r : SliceRun), (u.abortSlice r).awl.swapping = u.awl.swapping ∧
      (u.abortSlice r).awl.calStopped = u.awl.calStopped := by
    intro u r
    obtain ⟨m, hm⟩ := u.abortSlice_awl r
    rw [hm]
    exact ⟨rfl, rfl⟩
  rw [State.abortSlices]
  generalize s.awl.running.filter f = l
  induction l generalizing s with
  | nil => exact ⟨rfl, rfl⟩
  | cons r l ih =>
    obtain ⟨hswap, hcal⟩ := ih (s.abortSlice r)
    obtain ⟨hswap', hcal'⟩ := hone s r
    exact ⟨hswap.trans hswap', hcal.trans hcal'⟩

/-! ## A group that fails (R189) -/

theorem State.weltMode_setWeltMode (s : State) (w g : Nat) : (s.setWeltMode w g 3).weltMode w g = 3 := by
  rw [State.setWeltMode, State.weltMode, State.get_set]
  split
  · rfl
  · exact State.get_set_same ..

theorem State.weltMode_event (s : State) (w g src code d0 d1 : Nat) (part : Option Nat) :
    (s.event src code d0 d1 part).weltMode w g = s.weltMode w g :=
  State.get_event (Fld.offEvents_of_die (k := kWeltMode) _ _ _ _) ..

theorem State.weltMode_recordFault (s : State) (w g : Nat) (f : FaultInfo) : (s.recordFault f).weltMode w g = s.weltMode w g :=
  State.get_recordFault (Fld.le_key_of_die (k := kWeltMode) _ _ _ _) ..

/-- A raw group that fails logs an event and a fault record, and is failed from then on. -/
theorem State.weltMode_groupFails {s : State} {d w g : Nat} (h : s.weltMode w g = 0) : (s.groupFails d w g).weltMode w g = 3 := by
  rw [State.groupFails]
  simp only [h]
  rw [if_neg (by decide), if_neg (by decide), if_neg (by decide), State.weltMode_recordFault, State.weltMode_event,
    State.weltMode_setWeltMode]

/-! ## A lane that is replaced (R188) -/

/-- What a lane's retirement writes to the repair log of its edge. -/
def State.logRepair (s : State) (d e g w lane us : Nat) : State :=
  ((s.setAll [(fWeltRepairLog_group d e, g), (fWeltRepairLog_lane d e, lane), (fWeltRepairLog_duration_us d e, us),
    (fWeltRepairLog_stitch d e, s.stitch)]).addTo (fWeltCntRepair_count d e) 1).event d 0x04 (w * 16 + g) (lane + 256 * us)

theorem State.get_logRepair {s u : State} {d e g w lane us : Nat} (hg : g < 16) (hlane : lane < 256) (hus : us < 16)
    (hu : u = s.logRepair d e g w lane us) :
    u.get (fWeltRepairLog_group d e) = g ∧ u.get (fWeltRepairLog_lane d e) = lane ∧ u.get (fWeltRepairLog_duration_us d e) = us ∧
      u.get (fWeltRepairLog_stitch d e) = s.stitch % 2 ^ (fWeltRepairLog_stitch d e).width ∧
      u.get (fWeltCntRepair_count d e) = (s.get (fWeltCntRepair_count d e) + 1) % 2 ^ (fWeltCntRepair_count d e).width := by
  have hevent : ∀ (k : RegKind) (lo w' : Nat), k.space = .die → u.get ⟨k.addr d e, lo, w'⟩ = ((s.setAll [(fWeltRepairLog_group d e, g),
      (fWeltRepairLog_lane d e, lane), (fWeltRepairLog_duration_us d e, us), (fWeltRepairLog_stitch d e, s.stitch)]).addTo
      (fWeltCntRepair_count d e) 1).get ⟨k.addr d e, lo, w'⟩ := by
    subst hu
    exact fun k lo w' hk => State.get_event (Fld.offEvents_of_die d e lo w' hk) ..
  refine ⟨(hevent kWeltRepairLog _ _ rfl).trans ?_, (hevent kWeltRepairLog _ _ rfl).trans ?_, (hevent kWeltRepairLog _ _ rfl).trans ?_,
    (hevent kWeltRepairLog _ _ rfl).trans ?_, (hevent kWeltCntRepair _ _ rfl).trans ?_⟩ <;>
  simp [State.setAll, State.get_set, State.addTo, Fld.mk_key_eq_iff, fWeltRepairLog_group, fWeltRepairLog_lane, fWeltRepairLog_duration_us,
    fWeltRepairLog_stitch, fWeltCntRepair_count, RegKind.addr, RegKind.base, kWeltRepairLog, kWeltCntRepair, Nat.mod_eq_of_lt, hg, hlane, hus]

theorem State.logRepair_within (s : State) (d e g w lane us : Nat) : Within Comp.event s (s.logRepair d e g w lane us) :=
  ((s.setAll_within _).trans (State.addTo_within _ _ 1)).mono.trans (State.event_within ..)

theorem State.logRepair_awl (s : State) (d e g w lane us : Nat) : (s.logRepair d e g w lane us).awl = s.awl := by
  rw [State.logRepair, State.event_awl, State.addTo_awl, State.setAll_awl]

theorem State.logRepair_free (s : State) (d e g w lane us : Nat) : (s.logRepair d e g w lane us).free = s.free := by
  rw [State.logRepair, State.event_free, State.addTo_free, State.setAll_free]

/-- The field is neither the device's stitch nor the count of repairs of an edge. -/
def Fld.offRepairs (f : Fld) (d e : Nat) : Prop := fStchCount_count.key ≠ f.key ∧ (fWeltCntRepair_count d e).key ≠ f.key

theorem Fld.offRepairs_laceSpares (d e : Nat) : (fWeltLace_spares_used d e).offRepairs d e := by
  simp only [Fld.offRepairs, Fld.key, fStchCount_count, fWeltCntRepair_count, fWeltLace_spares_used, RegKind.addr, RegKind.base,
    kStchCount, kWeltCntRepair, kWeltLace]
  omega

theorem Fld.offRepairs_spares (d e : Nat) {g : Nat} (hg : g < 16) : (fWeltSpares_used d e g).offRepairs d e := by
  simp only [Fld.offRepairs, Fld.key, fStchCount_count, fWeltCntRepair_count, fWeltSpares_used, RegKind.addr, RegKind.base,
    kStchCount, kWeltCntRepair, kWeltSpares]
  omega

/-- The retirement of a lane: the spare is used, and the repair logged with the lane's number, drawn where it is none of the group's. -/
theorem exec_laneRetire {s : State} {d : Die} {e : Fin 4} {g : Grp} (us : Fin 16) {x : Nat × Nat × Nat × Nat} {w : Nat}
    (h : s.swapAt d e g 2 = some x) (hw : weltAt d e = some w) :
    ∃ (u : State) (lane : Nat), exec (.laneRetire d e g us) s = .next (u.logRepair d e g w lane us) ∧ lane < 256 ∧
      (x.2.1 < 256 → lane = x.2.1 ∧ u.free = s.free) ∧
      u.awl = { s.awl with swapping := s.awl.swapping.erase x, laneUse := s.awl.laneUse ++ [(x.1, x.2.1, x.2.2.1)] } ∧
      u.stitch = s.stitch ∧ u.get (fWeltCntRepair_count d e) = s.get (fWeltCntRepair_count d e) ∧
      Within [.regs, .awl, .uci, .flt, .out, .free] s u := by
  generalize hv : s.setAwl { s.awl with swapping := s.awl.swapping.erase x, laneUse := s.awl.laneUse ++ [(x.1, x.2.1, x.2.2.1)] } = v
  obtain ⟨f, hf, hrepair⟩ : ∃ f : Fld, f.offRepairs d e ∧
      (if x.1 = laceKey d e then v.bump (fWeltLace_spares_used d e) 1 else v.bump (fWeltSpares_used d e g) 1) = v.bump f 1 := by
    split
    · exact ⟨_, Fld.offRepairs_laceSpares d e, rfl⟩
    · exact ⟨_, Fld.offRepairs_spares d e g.isLt, rfl⟩
  have hv' : Within [.regs, .awl, .uci, .flt, .out, .free] s (v.bump f 1) := by
    subst hv
    exact ((Within.refl _ s).setAwl _).trans (State.bump_within _ f 1).mono
  have hawl : (v.bump f 1).awl = { s.awl with swapping := s.awl.swapping.erase x, laneUse := s.awl.laneUse ++ [(x.1, x.2.1, x.2.2.1)] } := by
    rw [State.bump_awl, ← hv]
    rfl
  have hstitch : (v.bump f 1).stitch = s.stitch := by
    rw [State.stitch, State.get_bump_ne _ _ hf.1, ← hv]
    rfl
  have hcount : (v.bump f 1).get (fWeltCntRepair_count d e) = s.get (fWeltCntRepair_count d e) := by
    rw [State.get_bump_ne _ _ hf.2, ← hv]
    rfl
  by_cases hx : x.2.1 < 256
  · refine ⟨v.bump f 1, x.2.1, ?_, hx, fun _ => ⟨rfl, ?_⟩, hawl, hstitch, hcount, hv'⟩
    · show execLaneRetire d e g us s = _
      simp only [execLaneRetire, h, hw, hv, hrepair, if_pos hx]
      rfl
    · rw [State.bump_free, ← hv]
      rfl
  · refine ⟨{ v.bump f 1 with free := (v.bump f 1).free + 1 }, (v.bump f 1).draw.1 % 256, ?_, Nat.mod_lt _ (by decide),
      fun h => absurd h hx, hawl, hstitch, hcount, hv'.setFree _⟩
    · show execLaneRetire d e g us s = _
      simp only [execLaneRetire, h, hw, hv, hrepair, if_neg hx]
      rfl

theorem exec_laneFlag {s : State} {d : Die} {e : Fin 4} {g : Grp} {lane : Fin 256} {w : Nat} (hw : weltAt d e = some w)
    (hmode : s.weltMode w g ≠ 3) (hswap : ∀ x ∈ s.awl.swapping, x.1 = groupKey d e g → x.2.1 ≠ lane.val)
    (huse : ∀ x ∈ s.awl.laneUse, x.1 = groupKey d e g → x.2.1 ≠ lane.val) :
    exec (.laneFlag d e g lane false) s = .next (s.flagLane d e g w lane).2 := by
  have hknown : (s.awl.swapping.any (fun x => x.1 == groupKey d e g && x.2.1 == lane.val) ||
      s.awl.laneUse.any fun x => x.1 == groupKey d e g && x.2.1 == lane.val) = false := by
    simpa [-Prod.forall] using ⟨hswap, huse⟩
  show execLaneFlag d e g lane false s = _
  simp only [execLaneFlag, hw, Bool.false_eq_true, if_false, hknown, Bool.false_and, Bool.or_false, if_neg hmode]

theorem State.swapStep_some {s : State} {d e g stage : Nat} {x : Nat × Nat × Nat × Nat} (h : s.swapAt d e g stage = some x) :
    s.swapStep d e g stage = { s with awl := { s.awl with
      swapping := s.awl.swapping.map fun y => if y = x then (x.1, x.2.1, x.2.2.1, stage + 1) else y } } := by
  rw [State.swapStep, h]
  rfl

/-- Settles O17: the clauses are the branches of the lane and group commands, with what a retirement writes to the repair log. -/
theorem weltLanes : Obligations.WeltLanes := by
  unfold Obligations.WeltLanes
  refine ⟨fun s d e g w hw => ?_, fun s d e g lane lace hw => ?_, fun s d e g lane w used hw hmode hswap huse hused hlt => ?_,
    fun s d e g lane w hw hmode hswap huse hfull => ?_, fun s d e g lane w used hw hswap huse hlane hused => ?_,
    fun s d e g lane hlane => ?_, fun s d e g x h => ?_, fun s d e g x h => ?_, fun s d e g us x w h hw => ?_,
    fun s d e g h => ?_, fun s d e g w hw => ?_, fun s d e g w hw hmode => ?_, fun s d e g w hw hmode hcal => ?_,
    fun s d e g hcal => ?_⟩
  · exact congrArg Host.Outcome.next (if_pos (by simp [hw]))
  · refine ⟨congrArg Host.Outcome.next (if_neg (by simp [hw])), ?_, ?_, ?_⟩
    · show execLaneFlag d e g lane lace s = _
      simp only [execLaneFlag, hw]
    · show execWeltSendTimeout d e g s = _
      simp only [execWeltSendTimeout, hw]
    · show execCalibrationMove d e g s = _
      simp only [execCalibrationMove, hw]
  · refine ⟨_, exec_laneFlag hw hmode hswap huse, ?_⟩
    rw [State.flagLane]
    simp only [← hused, if_neg (not_le.2 hlt)]
    obtain ⟨hs, hc⟩ := s.abortSlices_lanes fun r => r.die == d.val && r.kind == 3 && weltUnit d r.unit == (e.val, g.val)
    refine ⟨congrArg (· ++ _) hs, ?_⟩
    rw [State.setAwl, hc]
    by_cases h5 : used = 5 <;> simp [h5]
  · refine (exec_laneFlag hw hmode hswap huse).trans ?_
    rw [State.flagLane]
    simp only [if_pos hfull]
  · have hknown : (s.awl.swapping.any (fun x => x.1 == laceKey d e && x.2.1 == lane.val) ||
        s.awl.laneUse.any fun x => x.1 == laceKey d e && x.2.1 == lane.val) = false := by
      simpa [-Prod.forall] using ⟨hswap, huse⟩
    show execLaneFlag d e g lane true s = _
    subst hused
    simp only [execLaneFlag, hw, if_true, hknown, Bool.true_and, decide_eq_false (not_le.2 hlane), Bool.or_false, Bool.false_eq_true, if_false]
    rfl
  · show execLaneFlag d e g lane true s = _
    cases hw : weltAt d e with
    | none => simp only [execLaneFlag, hw]
    | some w => simp [execLaneFlag, hw, hlane]
  · exact congrArg Host.Outcome.next (State.swapStep_some h)
  · exact congrArg Host.Outcome.next (State.swapStep_some h)
  · obtain ⟨u, lane, hexec, hlane, hsmall, hawl, hstitch, hcount, hwithin⟩ := exec_laneRetire us h hw
    have hlog := State.get_logRepair (s := u) (d := d) (e := e) (w := w) g.isLt hlane us.isLt rfl
    rw [hstitch, hcount] at hlog
    obtain ⟨hgroup, hl, hus, hst, hcnt⟩ := hlog
    refine ⟨_, hexec, ?_, hgroup, fun hx => ⟨hl.trans (hsmall hx).1, ?_⟩, hus, hst, hcnt, ?_⟩
    · rw [State.logRepair_awl, hawl]
    · rw [State.logRepair_free, (hsmall hx).2]
    · exact hwithin.trans ((u.logRepair_within ..).mono)
  · refine congrArg Host.Outcome.next ?_
    rw [State.swapStep, h]
  · show execWeltSendTimeout d e g s = _
    simp only [execWeltSendTimeout, hw]
  · refine ⟨s.groupFails d w g, ?_, State.weltMode_groupFails hmode⟩
    show execWeltSendTimeout d e g s = _
    simp only [execWeltSendTimeout, hw]
  · show execCalibrationMove d e g s = _
    simp only [execCalibrationMove, hw]
    rcases hmode with hmode | hmode <;> exact if_neg (by simp [hcal, hmode])
  · show execCalibrationMove d e g s = _
    cases hw : weltAt d e with
    | none => simp only [execCalibrationMove, hw]
    | some w => simp [execCalibrationMove, hw, hcal]

end Sys2Proof.Machine

/-! SUPPORT. Fills of a slice and the errors of DRAM units (R213 to R215, R286 to R288): the statement O18. -/

namespace Sys2Proof.Machine

set_option Elab.async false

/-! ## Lines of level 3 -/

theorem State.l3Line_setL3 (s : State) (ls : List L3Line) (line : Nat) : (s.setL3 ls).l3Line line = ls.find? fun l => l.line == line := rfl

theorem State.l3Line_putL3 (s : State) {l : L3Line} {line : Nat} (h : l.line = line) : (s.putL3 l).l3Line line = some l := by
  rw [State.putL3, State.l3Line_setL3]
  simp [h]

theorem find_filter_ne {ls : List L3Line} (line : Nat) : ((ls.filter fun x => x.line != line).find? fun l => l.line == line) = none := by
  rw [List.find?_eq_none]
  intro x hx
  simpa using (List.mem_filter.1 hx).2

theorem State.l3Line_setL3_drop (s : State) (line : Nat) : (s.setL3 (s.coh.l3.filter fun x => x.line != line)).l3Line line = none :=
  find_filter_ne line

theorem mergeBytes_zero (new old : List Byte) : mergeBytes 0 new old = old := by
  refine List.ext_getElem (by simp [mergeBytes]) fun i h₁ h₂ => ?_
  simp [mergeBytes, h₂]

/-! ## A slice whose DRAM has no error

A write then only changes the memory; the lists of the slice that a fill looks at stay. -/

/-- No unit of DRAM is in error, no operation waits in a controller and no message at a home; the trackers are `ks`. -/
structure SliceQuiet (ks : List Tracker) (s : State) : Prop where
  ue : s.dram.ue = []
  latent : s.dram.latent = []
  aluQ : s.coh.aluQ = []
  homeWait : s.coh.homeWait = []
  trackers : s.coh.trackers = ks

theorem SliceQuiet.setL3 {ks : List Tracker} {s : State} (h : SliceQuiet ks s) (ls : List L3Line) : SliceQuiet ks (s.setL3 ls) :=
  ⟨h.ue, h.latent, h.aluQ, h.homeWait, h.trackers⟩

theorem SliceQuiet.putL3 {ks : List Tracker} {s : State} (h : SliceQuiet ks s) (l : L3Line) : SliceQuiet ks (s.putL3 l) := h.setL3 _

theorem State.checkUnits_none {s : State} {f : Nat → Bool} (h : ∀ e ∈ s.dram.latent, f e.1 = false) : s.checkUnits f = s := by
  rw [State.checkUnits, List.filter_eq_nil_iff.2 fun e he => by simp [h e he]]
  rfl

theorem SliceQuiet.dramUnitWrite {ks : List Tracker} {s : State} (h : SliceQuiet ks s) (a mask : Nat) (bs : List Byte) :
    SliceQuiet ks (s.dramUnitWrite a mask bs) ∧ (s.dramUnitWrite a mask bs).coh = s.coh := by
  rw [State.dramUnitWrite]
  split
  · exact ⟨h, rfl⟩
  · split
    · exact ⟨⟨by simp [h.ue], by simp [h.latent, mapErase], h.aluQ, h.homeWait, h.trackers⟩, rfl⟩
    · rw [State.checkUnits_none (by simp [h.latent])]
      dsimp only
      rw [if_neg (by simp [h.ue])]
      exact ⟨⟨h.ue, h.latent, h.aluQ, h.homeWait, h.trackers⟩, rfl⟩

theorem SliceQuiet.dramPut {ks : List Tracker} {s : State} (h : SliceQuiet ks s) (a mask : Nat) (bs : List Byte) :
    SliceQuiet ks (s.dramPut a mask bs) ∧ (s.dramPut a mask bs).coh = s.coh := by
  rw [State.dramPut, if_neg (by simp [h.aluQ]), State.dramWrite]
  refine List.foldlRecOn (motive := fun u => SliceQuiet ks u ∧ u.coh = s.coh) _ _ ⟨h, rfl⟩ fun u ⟨hu, hcoh⟩ i _ => ?_
  obtain ⟨hu', hcoh'⟩ := hu.dramUnitWrite (a + 64 * i) (bitsAt mask (64 * i) 64) (slice bs (64 * i) 64)
  exact ⟨hu', hcoh'.trans hcoh⟩

theorem SliceQuiet.evictL3 {ks : List Tracker} {s : State} (h : SliceQuiet ks s) (l : L3Line) :
    SliceQuiet ks (s.evictL3 l) ∧ (s.evictL3 l).l3Line l.line = none := by
  unfold State.evictL3
  extract_lets u
  split
  · exact ⟨h.setL3 _, State.l3Line_setL3_drop s l.line⟩
  · have hu : SliceQuiet ks (u.addTo (fL3SlWb_count (dpaDie l.line) (channelOf l.line)) 1) :=
      ⟨h.ue, h.latent, h.aluQ, h.homeWait, h.trackers⟩
    obtain ⟨hq, hcoh⟩ := hu.dramPut l.line l.dirty l.data
    refine ⟨hq, ?_⟩
    rw [State.l3Line, hcoh]
    exact State.l3Line_setL3_drop s l.line

theorem SliceQuiet.placeL3 {ks : List Tracker} {s u : State} (h : SliceQuiet ks s) {l : L3Line} (hu : s.placeL3 l = some u) :
    SliceQuiet ks u ∧ ∃ w, u.l3Line l.line = some { l with way := w } := by
  have hput : ∀ {v : State} (w : Nat), SliceQuiet ks v → SliceQuiet ks (v.putL3 { l with way := w }) ∧
      ∃ w', (v.putL3 { l with way := w }).l3Line l.line = some { l with way := w' } :=
    fun w hv => ⟨hv.putL3 _, w, State.l3Line_putL3 _ rfl⟩
  unfold State.placeL3 at hu
  dsimp only at hu
  split at hu
  · obtain rfl := Option.some.inj hu
    exact hput _ h
  · obtain ⟨w, -, rfl⟩ := Option.map_eq_some_iff.1 hu
    exact hput w (List.foldlRecOn (motive := SliceQuiet ks) _ _ h fun v hv x _ => (hv.evictL3 x).1)

theorem SliceQuiet.updateL3 {ks : List Tracker} {s : State} (h : SliceQuiet ks s) (l : L3Line) :
    SliceQuiet ks (s.updateL3 l) ∧
      ∀ l', (s.updateL3 l).l3Line l.line = some l' → l'.data = l.data ∧ l'.valid = l.valid ∧ l'.dirty = l.dirty := by
  have hput : ∀ (v : State) (x : L3Line), x.line = l.line → (x.data = l.data ∧ x.valid = l.valid ∧ x.dirty = l.dirty) → SliceQuiet ks v →
      SliceQuiet ks (v.putL3 x) ∧ ∀ l', (v.putL3 x).l3Line l.line = some l' → l'.data = l.data ∧ l'.valid = l.valid ∧ l'.dirty = l.dirty := by
    intro v x hx hsame hv
    refine ⟨hv.putL3 x, fun l' hl' => ?_⟩
    obtain rfl := Option.some.inj ((State.l3Line_putL3 v hx).symm.trans hl')
    exact hsame
  unfold State.updateL3
  extract_lets y same
  split
  · exact hput _ _ rfl ⟨rfl, rfl, rfl⟩ h
  · split
    · exact hput _ _ rfl ⟨rfl, rfl, rfl⟩ h
    · split
      next u hu =>
        obtain ⟨hq, w, hw⟩ := (h.setL3 _).placeL3 hu
        refine ⟨hq, fun l' hl' => ?_⟩
        obtain rfl := Option.some.inj (hw.symm.trans hl')
        exact ⟨rfl, rfl, rfl⟩
      next hu =>
        obtain ⟨hq, hnone⟩ := h.evictL3 y
        exact ⟨hq, fun l' hl' => absurd (hnone.symm.trans hl') (by simp)⟩

theorem State.fill_of_not_filled {s : State} {line : Nat} (bulk : Bool) (found : List EccFound)
    (h : s.trackerOf line = none ∨ ∃ q ∈ s.coh.aluQ, lineOf q.msg.bulk q.msg.addr = line) : s.fill line bulk found = s := by
  cases hk : s.trackerOf line with
  | none => simp only [State.fill, hk]
  | some k =>
    have hq : (s.coh.aluQ.any fun q => lineOf q.msg.bulk q.msg.addr == line) = true := by simpa [hk] using h
    simp only [State.fill, hk, hq, if_true]

/-- A fill of a line that waits, where it finds no uncorrectable unit. -/
theorem State.fill_good {s w : State} {line : Nat} {bulk : Bool} {k : Tracker} (hk : s.trackerOf line = some k)
    (halu : ∀ q ∈ s.coh.aluQ, lineOf q.msg.bulk q.msg.addr ≠ line) (hlat : ∀ e ∈ s.dram.latent, unitIn line (lineBytes bulk) e.1 = false)
    (hue : s.ueIn line (lineBytes bulk) = []) (hw : w = s.setTrackers (s.coh.trackers.filter fun x => x.line != line)) :
    s.fill line bulk [] = (match w.l3Line line with
      | some l => w.updateL3 { l with valid := fullMask bulk, data := w.filled line bulk }
      | none => w).serveFill line bulk (1 < (k.waiters.filter fun (x : Msg × Nat) => x.1.opcode != 5 && x.1.opcode != 6).length)
        (w.filled line bulk) k.waiters := by
  have hq : (s.coh.aluQ.any fun q => lineOf q.msg.bulk q.msg.addr == line) = false := by simpa using halu
  have hfound : s.applyFoundIn line (lineBytes bulk) [] = s := State.checkUnits_none hlat
  have hue' : w.ueIn line (lineBytes bulk) = [] := by
    subst hw
    exact hue
  cases hl : w.l3Line line with
  | none => simp only [State.fill, hk, hq, Bool.false_eq_true, if_false, hfound, ← hw, hue', hl]
  | some l => simp only [State.fill, hk, hq, Bool.false_eq_true, if_false, hfound, ← hw, hue', hl]

theorem State.serveHome_of_none {s : State} (h : s.coh.homeWait = []) : s.serveHome = s := by
  simp [State.serveHome, h, State.serveWaiting, State.servePass]

/-- A fill of a line that no request waits for any more, where DRAM has no error and the frame holds nothing yet. -/
theorem State.fill_quiet {s : State} {line : Nat} {bulk : Bool} {k : Tracker} {l : L3Line} (hk : s.trackerOf line = some k)
    (halu : s.coh.aluQ = []) (hue : s.dram.ue = []) (hlat : s.dram.latent = []) (hl : s.l3Line line = some l) (hvalid : l.valid = 0)
    (hdirty : l.dirty = 0) (hwait : k.waiters = []) (hhome : s.coh.homeWait = []) :
    ∃ u : State, (s.fill line bulk []).serveHome = u ∧ u.trackerOf line = none ∧
      ∀ l, u.l3Line line = some l → l.data = s.dramBytes line (lineBytes bulk) ∧ l.valid = fullMask bulk ∧ l.dirty = 0 := by
  generalize hw : s.setTrackers (s.coh.trackers.filter fun x => x.line != line) = w
  have hquiet : SliceQuiet (s.coh.trackers.filter fun x => x.line != line) w := by
    subst hw
    exact ⟨hue, hlat, halu, hhome, rfl⟩
  have hlw : w.l3Line line = some l := by
    subst hw
    exact hl
  have hline : l.line = line := eq_of_beq (List.find?_some (p := fun l : L3Line => l.line == line) hl)
  have hdata : w.filled line bulk = s.dramBytes line (lineBytes bulk) := by
    rw [State.filled, hlw]
    simp only [hvalid, mergeBytes_zero]
    subst hw
    rfl
  have hfill : s.fill line bulk [] = w.updateL3 { l with valid := fullMask bulk, data := w.filled line bulk } := by
    rw [State.fill_good hk (by simp [halu]) (by simp [hlat]) (by simp [State.ueIn, hue]) hw.symm]
    simp only [hwait, hlw, State.serveFill]
  obtain ⟨hq, hfilled⟩ := hquiet.updateL3 { l with valid := fullMask bulk, data := w.filled line bulk }
  rw [hfill, State.serveHome_of_none hq.homeWait]
  refine ⟨_, rfl, ?_, fun l' hl' => ?_⟩
  · rw [State.trackerOf, hq.trackers, List.find?_eq_none]
    intro x hx
    simpa using (List.mem_filter.1 hx).2
  · subst hline
    obtain ⟨hd, hv, hdir⟩ := hfilled l' hl'
    exact ⟨hd.trans hdata, hv, hdir.trans hdirty⟩

theorem State.coh_foldl_logUe (xs : List Nat) (det : Nat) (s : State) :
    (xs.foldl (fun (v : State) x => v.logUe x det) s).coh = s.coh := by
  induction xs generalizing s with
  | nil => rfl
  | cons x xs ih =>
    rw [List.foldl_cons, ih]
    exact (State.logUe_keeps s x det).coh (by decide)

/-- A fill of a line without a frame, where it finds an uncorrectable unit. -/
theorem State.fill_bad {s w : State} {line u : Nat} {us : List Nat} {bulk : Bool} {k : Tracker} {m : Msg} {g : Nat}
    (hk : s.trackerOf line = some k) (halu : s.coh.aluQ = []) (hlat : s.dram.latent = []) (hue : s.ueIn line (lineBytes bulk) = u :: us)
    (hl : s.l3Line line = none) (hwait : k.waiters = [(m, g)]) (hop : m.opcode ≠ 5)
    (hw : w = s.setTrackers (s.coh.trackers.filter fun x => x.line != line)) :
    s.fill line bulk [] = ((u :: us).foldl (fun (v : State) x => v.logUe x (w.detectorOf m)) w).failFill line u [(m, g)] := by
  have hfound : s.applyFoundIn line (lineBytes bulk) [] = s := State.checkUnits_none (by simp [State.strike, hlat])
  have hue' : w.ueIn line (lineBytes bulk) = u :: us := by
    subst hw
    exact hue
  have hlw : w.l3Line line = none := by
    subst hw
    exact hl
  have hnone : ∀ det : Nat, ((u :: us).foldl (fun (v : State) x => v.logUe x det) w).l3Line line = none := fun det => by
    rw [State.l3Line, State.coh_foldl_logUe]
    exact hlw
  have hfind : ([(m, g)].find? fun x : Msg × Nat => x.1.opcode != 5) = some (m, g) := by simp [hop]
  simp only [State.fill, hk, halu, List.any_nil, Bool.false_eq_true, if_false, hfound, ← hw, hue', hwait, hfind, Option.map_some,
    Option.getD_some, hnone, List.isEmpty_cons]

/-! ## Errors of units (R286) -/

theorem Fld.cntCe_ne_chCe (d i : Nat) : (fDramCntCe_count d).key ≠ (fDramChCe_count d i).key := by
  simp only [Fld.key, fDramCntCe_count, fDramChCe_count, RegKind.addr, RegKind.base, kDramCntCe, kDramChCe]
  omega

/-- Settles O18: a full fill of a frame that holds nothing leaves DRAM's bytes in it, whatever the slice evicts for it. -/
theorem sliceFills : Obligations.SliceFills := by
  unfold Obligations.SliceFills
  refine ⟨fun s d line bulk found h => ?_, fun s w d line bulk k hk halu hlat hue hw => ?_,
    fun s d line bulk k l hk halu hue hlat hl hvalid hdirty hwait hhome => ?_,
    fun s w d line u us bulk k m g hk halu hlat hue hl hwait hop hw => ?_, fun s f hpos hle hdie hce => ?_, fun s f hge hle => ?_⟩
  · refine congrArg (fun u : State => Host.Outcome.next u.serveHome) ?_
    exact State.fill_of_not_filled bulk found h
  · exact congrArg (fun u : State => Host.Outcome.next u.serveHome) (State.fill_good hk halu hlat hue hw)
  · obtain ⟨u, hu, htracker, hline⟩ := State.fill_quiet (bulk := bulk) hk halu hue hlat hl hvalid hdirty hwait hhome
    exact ⟨u, congrArg Host.Outcome.next hu, htracker, hline⟩
  · exact congrArg (fun u : State => Host.Outcome.next u.serveHome) (State.fill_bad hk halu hlat hue hl hwait hop hw)
  · have h4 : ¬ f.symbols = 0 := by omega
    simp only [State.applyFound, hdie, Bool.false_eq_true, if_false, h4, hle, if_true, hce, Bool.or_false, decide_false]
    simp only [State.addTo_dram]
    refine ⟨trivial, trivial, mapGet_mapSet_same _ _ _ _, ?_⟩
    exact (State.get_set_ne _ _ (Fld.cntCe_ne_chCe _ _)).trans (State.get_set_same ..)
  · have h0 : ¬ f.symbols = 0 := by omega
    have h3 : ¬ f.symbols ≤ 3 := by omega
    simp only [State.applyFound, if_neg h0, if_neg h3, hle, decide_true, Bool.true_or, if_true]
    by_cases hmem : f.unit ∈ s.dram.ue <;> cases f.onDie <;> simp [hmem]

end Sys2Proof.Machine

/-! SUPPORT. DRAM (R290 to R295): the statement O19 fails in its last clause. A fill makes the slice encode the line anew, and where the
line shares its frame and finds no other, its frame's other lines are evicted and their dirty bytes go to DRAM (R211, R214). -/

namespace Sys2Proof.Machine

set_option Elab.async false

/-- A slice in which the ways 1 to 15 of set 0 are retired, and way 0 holds a line that waits for its fill beside one whose first byte
is dirty. -/
def crowdedFrame : State := { State.reset with coh := {
  l3 := [{ line := 0, bulk := false, owner := 0, way := 0, valid := 0, dirty := 0, data := [] },
    { line := 256, bulk := false, owner := 0, way := 0, valid := 1, dirty := 1, data := List.replicate 64 1#8 }],
  trackers := [{ line := 0, bulk := false, waiters := [] }]
  retiredFrames := (List.range 15).map (· + 1) } }

/-- The fill of the waiting line writes the dirty byte of the other back. -/
theorem crowdedFrame_fill : mapGet 0#8 (crowdedFrame.fill 0 false []).serveHome.dram.mem 256 = 1#8 := by decide +kernel

/-- Refutes O19: the last clause lets no fill change DRAM, and this one evicts a dirty line that shares the frame. -/
theorem not_dram : ¬ Obligations.Dram := by
  unfold Obligations.Dram
  rintro ⟨-, -, -, -, -, -, -, -, -, hfill⟩
  obtain ⟨u, hexec, -, hmem⟩ := hfill crowdedFrame 0 0 false { line := 0, bulk := false, waiters := [] }
    { line := 0, bulk := false, owner := 0, way := 0, valid := 0, dirty := 0, data := [] } rfl rfl rfl rfl rfl rfl rfl rfl rfl
  have hu : (crowdedFrame.fill 0 false []).serveHome = u := Host.Outcome.next.inj hexec
  have hdirty := crowdedFrame_fill
  rw [hu, hmem] at hdirty
  exact absurd hdirty (by decide)

end Sys2Proof.Machine

/-! SUPPORT. The home of a line: what the slice and its faults leave of the directory and of the requests that wait there, and how a
request is served (R227 to R239). -/

namespace Sys2Proof.Machine

set_option Elab.async false

/-! ## The directory and the waiting requests stay -/

/-- The directory and the list of waiting requests are the same. -/
structure HomeKept (s t : State) : Prop where
  dir : t.coh.dir = s.coh.dir
  homeWait : t.coh.homeWait = s.coh.homeWait

namespace HomeKept

theorem of_coh {s t : State} (h : t.coh = s.coh) : HomeKept s t := ⟨by rw [h], by rw [h]⟩

theorem refl (s : State) : HomeKept s s := ⟨rfl, rfl⟩

theorem trans {s t u : State} (h : HomeKept s t) (g : HomeKept t u) : HomeKept s u :=
  ⟨g.dir.trans h.dir, g.homeWait.trans h.homeWait⟩

theorem foldl {α : Type} {f : State → α → State} (hf : ∀ s a, HomeKept s (f s a)) (l : List α) (s : State) :
    HomeKept s (l.foldl f s) := by
  induction l generalizing s with
  | nil => exact refl s
  | cons a l ih => exact (hf s a).trans (ih _)

theorem ite {s t u : State} {c : Prop} [Decidable c] (ht : HomeKept s t) (hu : HomeKept s u) : HomeKept s (if c then t else u) := by
  split
  · exact ht
  · exact hu

end HomeKept

theorem State.addTo_homeKept (s : State) (f : Fld) (n : Nat) : HomeKept s (s.addTo f n) := ⟨rfl, rfl⟩

theorem State.set_homeKept (s : State) (f : Fld) (n : Nat) : HomeKept s (s.set f n) := ⟨rfl, rfl⟩

theorem State.haltTile_homeKept (s : State) (t : Nat) : HomeKept s (s.haltTile t) := by
  unfold State.haltTile
  extract_lets c u x v
  have hv : HomeKept s v := ⟨rfl, rfl⟩
  exact HomeKept.ite hv (hv.trans (.of_coh (State.set_coh _ _ _)))

theorem State.stopTask_homeKept (s : State) (k : Task) : HomeKept s (s.stopTask k) :=
  ((HomeKept.foldl (fun s e => .of_coh ((State.eyeVoid_keeps s e).coh (by decide))) k.eyelets s).trans
    (HomeKept.foldl State.haltTile_homeKept k.tiles _)).trans ⟨rfl, rfl⟩

theorem State.setAll_homeKept (s : State) (fs : List (Fld × Nat)) : HomeKept s (s.setAll fs) := .of_coh (s.setAll_coh fs)

theorem State.event_homeKept (s : State) (src code d0 d1 : Nat) (part : Option Nat) : HomeKept s (s.event src code d0 d1 part) :=
  .of_coh (s.event_coh src code d0 d1 part)

theorem State.dropCommit_homeKept (s : State) (g : Nat) : HomeKept s (s.dropCommit g) := .of_coh ((State.dropCommit_keeps s g).coh (by decide))

theorem State.qpError_homeKept (s : State) (p q code : Nat) : HomeKept s (s.qpError p q code) := .of_coh ((State.qpError_keeps s p q code).coh (by decide))

theorem State.dropFrames_homeKept (s : State) (p : Nat) : HomeKept s (s.dropFrames p) := .of_coh ((State.dropFrames_keeps s p).coh (by decide))

theorem State.sendDown_homeKept (s : State) : HomeKept s (s.sendDown) := .of_coh ((State.sendDown_keeps s).coh (by decide))

theorem State.setJob_homeKept (s : State) (j : JobSt) : HomeKept s (s.setJob j) := .of_coh ((State.setJob_keeps s j).coh (by decide))

theorem State.setPhase_homeKept (s : State) (p n : Nat) : HomeKept s (s.setPhase p n) := .of_coh ((State.setPhase_keeps s p n).coh (by decide))

theorem State.setPartSt_homeKept (s : State) (p : Nat) (x : PartSt) : HomeKept s (s.setPartSt p x) := .of_coh ((State.setPartSt_keeps s p x).coh (by decide))

theorem State.unpinAll_homeKept (s : State) (p : Nat) : HomeKept s (s.unpinAll p) := ⟨rfl, rfl⟩

theorem State.teardown_homeKept (s : State) (p cause : Nat) : HomeKept s (s.teardown p cause) := by
  unfold State.teardown
  extract_lets st s1 s2 s3 s4 s5 s6 job s7 s8 ph s9 s10
  split
  · exact .refl s
  · have h1 : HomeKept s s1 := State.setAll_homeKept ..
    have h2 : HomeKept s1 s2 := State.event_homeKept ..
    have h3 : HomeKept s2 s3 := State.dropCommit_homeKept ..
    have h4 : HomeKept s3 s4 := .foldl State.stopTask_homeKept _ s3
    have h5 : HomeKept s4 s5 := .foldl (fun u q => .ite (.refl u) (State.qpError_homeKept ..)) _ s4
    have h6 : HomeKept s5 s6 := State.dropFrames_homeKept ..
    have h7 : HomeKept s6 s7 := .ite (((State.sendDown_homeKept s6).trans (State.set_homeKept ..)).trans (State.setJob_homeKept ..)) (.refl s6)
    have h8 : HomeKept s7 s8 := State.unpinAll_homeKept ..
    have h9 : HomeKept s8 s9 := .ite (State.set_homeKept ..) (.refl s8)
    have h10 : HomeKept s9 s10 := .ite (.refl s9) (State.setPhase_homeKept ..)
    exact (((((((((h1.trans h2).trans h3).trans h4).trans h5).trans h6).trans h7).trans h8).trans h9).trans h10).trans (State.setPartSt_homeKept ..)

theorem State.recordFault_homeKept (s : State) (f : FaultInfo) : HomeKept s (s.recordFault f) := .of_coh (s.recordFault_coh f)

theorem State.partitionFault_homeKept (s : State) (p : Nat) (f : FaultInfo) : HomeKept s (s.partitionFault p f) := by
  unfold State.partitionFault
  split
  · exact State.recordFault_homeKept ..
  · split
    · exact (s.teardown_homeKept p f.cause).trans (State.recordFault_homeKept ..)
    · exact State.recordFault_homeKept ..

theorem State.memoryFault_homeKept (s : State) (p a : Nat) : HomeKept s (s.memoryFault p a) :=
  HomeKept.ite (s.partitionFault_homeKept p _) (.refl s)

theorem State.dramUnitWrite_homeKept (s : State) (a mask : Nat) (bs : List Byte) : HomeKept s (s.dramUnitWrite a mask bs) := by
  unfold State.dramUnitWrite
  split
  · exact .refl s
  · split
    · exact ⟨rfl, rfl⟩
    · extract_lets u
      have hu : HomeKept s u := .of_coh ((State.checkUnits_keeps s _).coh (by decide))
      split
      · exact (hu.trans (.of_coh ((State.logUe_keeps u _ 4).coh (by decide)))).trans (State.memoryFault_homeKept ..)
      · exact hu.trans ⟨rfl, rfl⟩

theorem State.dramPut_homeKept (s : State) (a mask : Nat) (bs : List Byte) : HomeKept s (s.dramPut a mask bs) := by
  unfold State.dramPut
  split
  · exact ⟨rfl, rfl⟩
  · exact HomeKept.foldl (fun u i => u.dramUnitWrite_homeKept ..) _ s

theorem State.evictL3_homeKept (s : State) (l : L3Line) : HomeKept s (s.evictL3 l) := by
  unfold State.evictL3
  extract_lets u
  have hu : HomeKept s u := ⟨rfl, rfl⟩
  exact HomeKept.ite hu ((hu.trans (State.addTo_homeKept ..)).trans (State.dramPut_homeKept ..))

theorem State.putL3_homeKept (s : State) (l : L3Line) : HomeKept s (s.putL3 l) := ⟨rfl, rfl⟩

theorem State.placeL3_homeKept {s u : State} {l : L3Line} (h : s.placeL3 l = some u) : HomeKept s u := by
  unfold State.placeL3 at h
  dsimp only at h
  split at h
  · obtain rfl := Option.some.inj h
    exact s.putL3_homeKept _
  · obtain ⟨w, -, rfl⟩ := Option.map_eq_some_iff.1 h
    exact (HomeKept.foldl State.evictL3_homeKept _ s).trans (State.putL3_homeKept ..)

theorem State.track_homeKept (s : State) (line : Nat) (bulk : Bool) (w : List (Msg × Nat)) : HomeKept s (s.track line bulk w) := by
  unfold State.track
  dsimp only
  split <;> exact ⟨rfl, rfl⟩

theorem State.missLine_homeKept (s : State) (line : Nat) (bulk : Bool) (w : List (Msg × Nat)) : HomeKept s (s.missLine line bulk w) := by
  unfold State.missLine
  split
  next u hu => exact (State.placeL3_homeKept hu).trans (State.track_homeKept ..)
  · exact (State.addTo_homeKept ..).trans (State.track_homeKept ..)

theorem State.respond_homeKept (s : State) (m : Msg) (op : Nat) (bs : List Byte) (st : Nat) : HomeKept s (s.respond m op bs st) :=
  HomeKept.ite (.refl s) ⟨rfl, rfl⟩

theorem State.deliverLine_homeKept (s : State) (m : Msg) (grant : Nat) (merged : Bool) (line : List Byte) :
    HomeKept s (s.deliverLine m grant merged line) := by
  unfold State.deliverLine
  dsimp only
  exact HomeKept.ite ((State.respond_homeKept ..).trans (State.respond_homeKept ..)) (State.respond_homeKept ..)

theorem State.readLine_homeKept (s : State) (m : Msg) (grant : Nat) : HomeKept s (s.readLine m grant) := by
  unfold State.readLine
  dsimp only
  split
  · exact ((State.putL3_homeKept ..).trans (State.addTo_homeKept ..)).trans (State.deliverLine_homeKept ..)
  · exact HomeKept.ite (State.track_homeKept ..) (State.missLine_homeKept ..)

end Sys2Proof.Machine

/-! SUPPORT. The home's table for reads (R231, R238, R239): the statement O20. -/

namespace Sys2Proof.Machine

set_option Elab.async false

/-! ## Entries -/

theorem State.entry_congr {s t : State} (h : t.coh.dir = s.coh.dir) (line : Nat) : t.entry line = s.entry line := by
  rw [State.entry, h, State.entry]

theorem State.entry_line {s : State} {line : Nat} {e : DirEnt} (h : s.entry line = some e) : e.line = line :=
  eq_of_beq (List.find?_some (p := fun e : DirEnt => e.line == line) h)

theorem State.entry_putEnt (s : State) {e : DirEnt} {line : Nat} (h : e.line = line) : (s.putEnt e).entry line = some e := by
  rw [State.entry, State.putEnt]
  simp [State.setDir, h]

theorem State.entry_freeEnt (s : State) (line : Nat) : (s.freeEnt line).entry line = none := by
  rw [State.entry, List.find?_eq_none]
  intro x hx
  simpa using (List.mem_filter.1 hx).2

theorem State.putEnt_homeWait (s : State) (e : DirEnt) : (s.putEnt e).coh.homeWait = s.coh.homeWait := rfl

theorem State.putEnt_net (s : State) (e : DirEnt) : (s.putEnt e).coh.net = s.coh.net := rfl

theorem State.withAgent_live {s : State} {line v a : Nat} (ha : a < 17) (hdead : s.deadAt (dpaDie line) a = false) :
    s.withAgent line v a = setBit v a := by
  rw [State.withAgent, if_pos (by simp [ha, hdead])]

theorem setBit_zero (a : Nat) : setBit 0 a = 2 ^ a := Nat.zero_or _

/-! ## A request that reaches its home -/

theorem State.arriveRequest_eq {s : State} {m : Msg} {op : Nat} (hop : m.opcode = op) (hspill : m.spill = false) :
    s.arriveRequest m op = (s.arrive m).takeRequest m := by
  have hm : { m with opcode := op } = m := by rw [← hop]
  rw [State.arriveRequest]
  dsimp only
  rw [if_neg (by simp [hspill]), hm]

theorem Msg.keeps_copy {m : Msg} (hread : m.opcode = 1 → m.source ≤ 16) : (decide (m.opcode = 1) && decide (16 < m.source)) = false := by
  by_cases h : m.opcode = 1
  · simp [hread h]
  · simp [h]

theorem State.takeRequest_of_served {s u : State} {m : Msg} (hread : m.opcode = 1 → m.source ≤ 16) (hwait : s.coh.homeWait = [])
    (h : s.tryServe m = (true, u)) : s.takeRequest m = u.serveHome := by
  rw [State.takeRequest]
  simp only [Msg.keeps_copy hread, Bool.false_eq_true, if_false, hwait, List.any_nil, h, if_true]

/-- A request that need not wait acts, where the home has no entry for its line. -/
theorem State.takeRequest_none {s : State} {m : Msg} (hread : m.opcode = 1 → m.source ≤ 16) (hwait : s.coh.homeWait = [])
    (hcredit : s.noCredit m = false) (he : s.entry (lineOf m.bulk m.addr) = none)
    (hroom : createsEntry m.opcode = true → (s.dirSetOf (lineOf m.bulk m.addr) m.bulk).length < 16) :
    s.takeRequest m = (s.actOn m none).serveHome := by
  refine State.takeRequest_of_served hread hwait ?_
  rw [State.tryServe, if_neg (by simp [hcredit]), he]
  dsimp only
  split
  next hcreates =>
    have hr : s.roomFor (lineOf m.bulk m.addr) m.bulk = (true, s) := if_pos (hroom hcreates)
    rw [hr, if_pos rfl]
  · rfl

theorem State.takeRequest_some {s : State} {m : Msg} {e : DirEnt} (hread : m.opcode = 1 → m.source ≤ 16) (hwait : s.coh.homeWait = [])
    (hcredit : s.noCredit m = false) (he : s.entry (lineOf m.bulk m.addr) = some e) (hc : e.state ≠ .c) (hf : e.state ≠ .f) :
    s.takeRequest m = (s.actOn m (some e)).serveHome := by
  refine State.takeRequest_of_served hread hwait ?_
  rw [State.tryServe, if_neg (by simp [hcredit]), he]
  exact if_neg (by simp [hc, hf])

/-- A request waits for a credit. -/
theorem State.takeRequest_noCredit {s : State} {m : Msg} (hop : m.opcode ≠ 1) (hwait : s.coh.homeWait = [])
    (hcredit : s.noCredit m = true) (he : s.entry (lineOf m.bulk m.addr) = none) : s.takeRequest m = s.setHomeWait [m] := by
  have htry : s.tryServe m = (false, s) := if_pos hcredit
  rw [State.takeRequest]
  simp only [hop, decide_false, Bool.false_and, Bool.false_eq_true, if_false, hwait, List.any_nil, htry, he, List.nil_append]

/-- A request waits for its line, and is counted. -/
theorem State.takeRequest_transient {s : State} {m : Msg} {e : DirEnt} (hread : m.opcode = 1 → m.source ≤ 16)
    (hwait : s.coh.homeWait = []) (he : s.entry (lineOf m.bulk m.addr) = some e) (hstate : e.state = .c ∨ e.state = .f) :
    s.takeRequest m = (s.addTo (fDirCntWait_count (dpaDie (lineOf m.bulk m.addr))) 1).setHomeWait [m] := by
  have htry : s.tryServe m = (false, s) := by
    rw [State.tryServe, he]
    split
    · rfl
    · exact if_pos (by simpa using hstate)
  have hcf : (e.state == .c || e.state == .f) = true := by simpa using hstate
  rw [State.takeRequest]
  simp only [Msg.keeps_copy hread, Bool.false_eq_true, if_false, hwait, List.any_nil, htry, he, hcf, if_true, List.nil_append,
    State.addTo_coh]

/-! ## The snoops of an entry that collects (R230, R234, R238) -/

theorem State.homeSends_addTo {s : State} {f : Fld} (hf : ∀ p, (fPartStatus_generation p).key ≠ f.key) (n line : Nat) :
    (s.addTo f n).homeSends line = s.homeSends line := by
  have howner : (s.addTo f n).ownerOfLine line = s.ownerOfLine line := rfl
  have hgen : (s.addTo f n).generation (s.ownerOfLine line) = s.generation (s.ownerOfLine line) := State.get_set_ne _ _ (hf _)
  simp only [State.homeSends, howner, hgen]

theorem Fld.generation_ne_dirCount (p d : Nat) :
    (fPartStatus_generation p).key ≠ (fDirCntInv_count d).key ∧ (fPartStatus_generation p).key ≠ (fDirCntBisnp_count d).key := by
  simp only [Fld.key, fPartStatus_generation, fDirCntInv_count, fDirCntBisnp_count, RegKind.addr, RegKind.base, kPartStatus,
    kDirCntInv, kDirCntBisnp]
  omega

/-- Inv for half `n`, and BInv or BDown for block `b`. -/
def State.invMsg (s : State) (e : DirEnt) (n : Fin 16) : Msg :=
  { s.homeSends e.line with opcode := 0x18, bulk := e.bulk, requester := n.val, dst := .half n }

def State.backMsg (s : State) (down : Bool) (e : DirEnt) (b : Nat) : Msg :=
  { s.homeSends e.line with opcode := if down then 0x1B else 0x1A, bulk := e.bulk, unit := b, dst := .uci (lineModule e.line) }

theorem State.sendBack_eq (s : State) (down : Bool) (e : DirEnt) (b : Nat) :
    s.sendBack down e.line e.bulk b = (s.send (s.backMsg down e b)).addTo (fDirCntBisnp_count (dpaDie e.line)) 1 := rfl

theorem State.foldl_sendBack (down : Bool) (e : DirEnt) (bs : List Nat) (s : State) :
    (bs.foldl (fun s b => s.sendBack down e.line e.bulk b) s).coh = { s.coh with net := s.coh.net ++ bs.map (s.backMsg down e) } ∧
      Within [.regs, .coh] s (bs.foldl (fun s b => s.sendBack down e.line e.bulk b) s) := by
  induction bs generalizing s with
  | nil => simp [Within.refl]
  | cons b bs ih =>
    generalize hu : s.sendBack down e.line e.bulk b = u
    have hcoh : u.coh = { s.coh with net := s.coh.net ++ [s.backMsg down e b] } := by
      rw [← hu, State.sendBack_eq, State.addTo_coh]
      rfl
    have hmsg : u.backMsg down e = s.backMsg down e := by
      have hsends : u.homeSends e.line = s.homeSends e.line := by
        rw [← hu, State.sendBack_eq, State.homeSends_addTo fun p => (Fld.generation_ne_dirCount p _).2]
        rfl
      funext b
      simp only [State.backMsg, hsends]
    have hwithin : Within [.regs, .coh] s u := by
      rw [← hu, State.sendBack_eq]
      exact ((Within.refl _ s).setCoh _).trans (State.addTo_within _ _ 1).mono
    obtain ⟨hcoh', hwithin'⟩ := ih u
    refine ⟨?_, ?_⟩
    · rw [List.foldl_cons, hu, hcoh', hcoh, hmsg]
      simp
    · rw [List.foldl_cons, hu]
      exact hwithin.trans hwithin'

theorem State.sendInv_eq (s : State) (e : DirEnt) (n : Fin 16) :
    s.sendInv e.line e.bulk n.val = (s.send (s.invMsg e n)).addTo (fDirCntInv_count (dpaDie e.line)) 1 := dif_pos n.isLt

/-- What a collecting entry waits for, and that its snoops are on their way. -/
structure Collects (s : State) (e : DirEnt) (p : Pending) (req : Option Msg) (halves blocks : Nat) (ms : List Msg) (u : State) : Prop where
  entry : ∃ e', u.entry e.line = some e' ∧ e'.state = .c ∧ e'.pending = p ∧ e'.req = req ∧ e'.owedHalves = halves ∧ e'.owedBlocks = blocks
  net : u.coh.net = s.coh.net ++ ms
  homeWait : u.coh.homeWait = s.coh.homeWait
  within : Within [.regs, .coh] s u

/-- An entry that collects from the host alone. -/
theorem State.collectOr_host (s : State) (e : DirEnt) (down : Bool) (p : Pending) (req : Option Msg) :
    Collects s e p req 0 (2 ^ lineBlocks e.bulk - 1) ((List.range (lineBlocks e.bulk)).map (s.backMsg down e))
      (s.collectOr e [] true down p req) := by
  obtain ⟨hcoh, hwithin⟩ := State.foldl_sendBack down e (List.range (lineBlocks e.bulk)) s
  have heq : s.collectOr e [] true down p req = ((List.range (lineBlocks e.bulk)).foldl (fun s b => s.sendBack down e.line e.bulk b) s).putEnt
      { e with state := .c, pending := p, req, hostExcl := e.state == .h, owedHalves := 0, owedBlocks := 2 ^ lineBlocks e.bulk - 1,
               retainedS := 0, upgClear := false } := rfl
  rw [heq]
  refine ⟨⟨_, State.entry_putEnt _ rfl, rfl, rfl, rfl, rfl, rfl⟩, ?_, ?_, hwithin.setCoh _⟩
  · rw [State.putEnt_net, hcoh]
  · rw [State.putEnt_homeWait, hcoh]

/-- An entry that collects from one half alone. -/
theorem State.collectOr_half (s : State) (e : DirEnt) (n : Fin 16) (p : Pending) (req : Option Msg) :
    Collects s e p req (2 ^ n.val) 0 [s.invMsg e n] (s.collectOr e [n.val] false false p req) := by
  have heq : s.collectOr e [n.val] false false p req = (s.sendInv e.line e.bulk n.val).putEnt
      { e with state := .c, pending := p, req, hostExcl := e.state == .h, owedHalves := 0 + 2 ^ n.val, owedBlocks := 2 ^ 0 - 1,
               retainedS := 0, upgClear := false } := rfl
  rw [heq, State.sendInv_eq]
  exact ⟨⟨_, State.entry_putEnt _ rfl, rfl, rfl, rfl, Nat.zero_add _, rfl⟩, rfl, rfl,
    (((Within.refl _ s).setCoh _).trans (State.addTo_within _ _ 1).mono).setCoh _⟩

theorem halvesIn_single (n : Fin 16) : halvesIn (2 ^ n.val) = [n.val] := by
  revert n
  decide

/-! ## Reads -/

theorem State.serveHome_readLine {s : State} (h : s.coh.homeWait = []) (m : Msg) (grant : Nat) :
    (s.readLine m grant).serveHome = s.readLine m grant :=
  State.serveHome_of_none ((s.readLine_homeKept m grant).homeWait.trans h)

/-- A request that may arrive reaches its home (R239). -/
theorem State.next_arriveRequest {s : State} {m : Msg} {op : Nat} (hop : m.opcode = op) (hspill : m.spill = false)
    (hmay : s.mayArrive m = true) : (if !s.mayArrive m then Host.Outcome.next s else .next (s.arriveRequest m op) :
      Host.Outcome State Fault Refusal) = .next ((s.arrive m).takeRequest m) := by
  rw [if_neg (by simp [hmay]), State.arriveRequest_eq hop hspill]

/-- A grant under a new entry, whose read leaves the entry as it is. -/
theorem State.entry_newEnt_readLine (s : State) (line : Nat) (bulk : Bool) (st : DirState) (v : Nat) (m : Msg) (grant : Nat) :
    ∃ e, ((s.newEnt line bulk st v).readLine m grant).entry line = some e ∧ e.state = st ∧ e.presence = v := by
  refine ⟨_, (State.entry_congr (State.readLine_homeKept ..).dir line).trans (State.entry_putEnt s rfl), rfl, rfl⟩

/-- A request whose entry begins to collect. -/
theorem State.takeRequest_collects {s : State} {m : Msg} {e : DirEnt} {p : Pending} {req : Option Msg} {halves blocks : Nat} {ms : List Msg}
    {u : State} (hread : m.opcode = 1 → m.source ≤ 16) (hwait : s.coh.homeWait = []) (hcredit : (s.arrive m).noCredit m = false)
    (he : s.entry (lineOf m.bulk m.addr) = some e) (hc : e.state ≠ .c) (hf : e.state ≠ .f) (hu : (s.arrive m).actOn m (some e) = u)
    (h : Collects (s.arrive m) e p req halves blocks ms u) :
    ∃ e', (s.arrive m).takeRequest m = u ∧ u.entry e.line = some e' ∧ e'.state = .c ∧ e'.pending = p ∧ e'.req = req ∧
      e'.owedHalves = halves ∧ e'.owedBlocks = blocks ∧ u.coh.net = s.coh.net.erase m ++ ms ∧ Within [.regs, .coh] s u := by
  obtain ⟨⟨e', hent, hstate, hp, hreq, hhalves, hblocks⟩, hnet, hhome, hwithin⟩ := h
  refine ⟨e', ?_, hent, hstate, hp, hreq, hhalves, hblocks, hnet, ((Within.refl _ s).setCoh _).trans hwithin⟩
  rw [State.takeRequest_some (s := s.arrive m) hread hwait hcredit he hc hf, hu]
  exact State.serveHome_of_none (hhome.trans hwait)

theorem State.actOn_rdS_none {s : State} {m : Msg} (hop : m.opcode = 1) (hsrc : m.source < 16)
    (hdead : s.deadAt (dpaDie (lineOf m.bulk m.addr)) m.source = false) :
    s.actOn m none = (s.newEnt (lineOf m.bulk m.addr) m.bulk .s (2 ^ m.source)).readLine m 0 := by
  have hagent : s.withAgent (lineOf m.bulk m.addr) 0 m.source = 2 ^ m.source :=
    (State.withAgent_live (by omega) hdead).trans (setBit_zero _)
  simp only [State.actOn, hop, hagent]
  rw [if_neg (Nat.two_pow_pos _).ne', if_neg (by omega)]

theorem State.actOn_rdX_none {s : State} {m : Msg} (hop : m.opcode = 3) (hsrc : m.source = 16)
    (hdead : s.deadAt (dpaDie (lineOf m.bulk m.addr)) 16 = false) :
    s.actOn m none = (s.newEnt (lineOf m.bulk m.addr) m.bulk .h (2 ^ 16)).readLine m 2 := by
  have hagent : s.withAgent (lineOf m.bulk m.addr) 0 m.source = 2 ^ 16 := by
    rw [hsrc, State.withAgent_live (by decide) hdead, setBit_zero]
  simp only [State.actOn, hop, hagent]
  rw [if_neg (by decide)]

theorem State.forward_homeWait (s : State) (e : DirEnt) (m : Msg) : (s.forward e m).coh.homeWait = s.coh.homeWait := by
  unfold State.forward
  dsimp only
  split <;> rfl

section Table
variable {s : State} {m : Msg} {e : DirEnt}

theorem State.actOn_rdS_shared (hop : m.opcode = 1) (hsrc : m.source < 16) (hst : e.state = .s)
    (hdead : s.deadAt (dpaDie e.line) m.source = false)
    (hl3 : (s.l3Line e.line).isSome = true ∨ (s.trackerOf e.line).isSome = true ∨ halvesIn e.presence = []) :
    s.actOn m (some e) = (s.putEnt { e with presence := setBit e.presence m.source }).readLine m 0 := by
  have hread : (decide (m.source < 16) && (s.l3Line e.line).isNone && (s.trackerOf e.line).isNone && !(halvesIn e.presence).isEmpty) = false := by
    rcases hl3 with h | h | h
    · simp [Option.isSome_iff_ne_none.1 h]
    · simp [Option.isSome_iff_ne_none.1 h]
    · simp [h]
  simp only [State.actOn, hst, hop, hread]
  rw [if_neg (by decide), if_neg (by decide), State.withAgent_live (by omega) hdead, if_neg (by omega)]

theorem State.actOn_rdS_forward (hop : m.opcode = 1) (hsrc : m.source < 16) (hst : e.state = .s) (hl3 : s.l3Line e.line = none)
    (htrack : s.trackerOf e.line = none) (hhalves : halvesIn e.presence ≠ []) : s.actOn m (some e) = s.forward e m := by
  simp [State.actOn, hst, hop, hsrc, hl3, htrack, hhalves]

theorem State.actOn_rdS_host (hop : m.opcode = 1) (hsrc : m.source < 16) (hst : e.state = .h) :
    s.actOn m (some e) = s.collectOr e [] true true .rdS (some m) := by
  simp [State.actOn, hst, hop, hsrc.ne]

theorem State.actOn_rdN_none (hop : m.opcode = 2) : s.actOn m none = s.readLine m 0 := by
  simp [State.actOn, hop]

theorem State.actOn_rdN_shared (hop : m.opcode = 2) (hst : e.state = .s) : s.actOn m (some e) = (s.putEnt e).readLine m 0 := by
  simp [State.actOn, hst, hop]

theorem State.actOn_rdN_host (hop : m.opcode = 2) (hst : e.state = .h) :
    s.actOn m (some e) = s.collectOr e [] true true .rdN (some m) := by
  simp [State.actOn, hst, hop]

theorem State.actOn_rdX_host (hop : m.opcode = 3) (hst : e.state = .h) : s.actOn m (some e) = (s.putEnt e).readLine m 2 := by
  simp [State.actOn, hst, hop]

theorem State.actOn_upg_host (hop : m.opcode = 4) (hst : e.state = .h) : s.actOn m (some e) = (s.putEnt e).cmpOnly m 2 := by
  simp [State.actOn, hst, hop]

theorem others_half (n : Fin 16) (hpres : e.presence = 2 ^ n.val) {a : Nat} (ha : a ≠ n.val) : others e a = ([n.val], false) := by
  rw [others, hpres, halvesIn_single]
  simp [ha.symm, n.isLt.ne]

theorem State.actOn_rdX_half {n : Fin 16} (hop : m.opcode = 3) (hsrc : m.source = 16) (hst : e.state = .s) (hpres : e.presence = 2 ^ n.val)
    (hdead : s.deadAt (dpaDie e.line) 16 = false) : s.actOn m (some e) = s.collectOr e [n.val] false false .rdX (some m) := by
  have hothers : others e 16 = ([n.val], false) := others_half n hpres (by omega)
  simp [State.actOn, hst, hop, hothers, hsrc, hdead]

/-- The only holder is the host, which asks to write: it is granted at once. -/
theorem State.actOn_upg_onlyHost (hop : m.opcode = 4) (hspill : m.spill = false) (hsrc : m.source = 16) (hst : e.state = .s) (hpres : e.presence = 2 ^ 16)
    (hdead : s.deadAt (dpaDie e.line) 16 = false) (hdead' : s.deadAt (dpaDie m.addr) 16 = false) :
    ∃ u, s.actOn m (some e) = u ∧ u.entry e.line = some { e with
        state := .h, presence := 2 ^ 16, pending := .none, req := none, hostExcl := false, owedHalves := 0, owedBlocks := 0, retainedS := 0,
        upgClear := false } ∧
      u.coh.homeWait = s.coh.homeWait ∧ u.coh.net = s.coh.net ++ [{
        opcode := 0x15, srcDie := dpaDie m.addr, srcSite := homeSite m.addr, tag := m.tag, part := m.part, gen := m.gen,
        addr := m.addr, bulk := m.bulk, unit := m.unit, state := 2, requester := 16,
        dst := .uci (moduleAt m.srcDie m.srcSite), spill := false }] ∧ Within [.coh] s u := by
  have hothers : others e 16 = ([], false) := by
    rw [others, hpres]
    decide
  have hagent : s.withAgent e.line 0 16 = 2 ^ 16 := (State.withAgent_live (by decide) hdead).trans (setBit_zero 16)
  have hact : s.actOn m (some e) = s.collectOr e [] false false .upg (some m) (!e.presence.testBit 16) := by
    simp [State.actOn, hst, hop, hothers, hsrc, hdead]
  have hupg : (!e.presence.testBit 16) = false := by rw [hpres]; decide
  have hdone : s.collectOr e [] false false .upg (some m) false = (s.putEnt { e with
      state := .h, presence := 2 ^ 16, pending := .none, req := none, hostExcl := false, owedHalves := 0, owedBlocks := 0, retainedS := 0,
      upgClear := false }).respond m 0x15 [] 2 := by
    rw [State.collectOr, if_pos (by simp)]
    simp only [State.completeEnt, Option.getD_some, hsrc, hagent, State.settle, Bool.false_eq_true, if_false, State.cmpOnly]
    rw [if_neg (by decide)]
  have hlive : (s.putEnt { e with
      state := .h, presence := 2 ^ 16, pending := .none, req := none, hostExcl := false, owedHalves := 0, owedBlocks := 0, retainedS := 0,
      upgClear := false }).deadAt (dpaDie m.addr) m.source = false := by rw [hsrc]; exact hdead'
  have hdst : replyDst m = .uci (moduleAt m.srcDie m.srcSite) := by simp [replyDst, hsrc]
  refine ⟨(s.putEnt { e with
      state := .h, presence := 2 ^ 16, pending := .none, req := none, hostExcl := false, owedHalves := 0, owedBlocks := 0, retainedS := 0,
      upgClear := false }).send {
        opcode := 0x15, srcDie := dpaDie m.addr, srcSite := homeSite m.addr, tag := m.tag, part := m.part, gen := m.gen,
        addr := m.addr, bulk := m.bulk, unit := m.unit, state := 2, requester := 16,
        dst := .uci (moduleAt m.srcDie m.srcSite), spill := false }, ?_, State.entry_putEnt s rfl, rfl, rfl, ?_⟩
  · rw [hact, hupg, hdone, State.respond, hlive, if_neg (by decide), hsrc, hdst, hspill]
  · exact ((Within.refl _ s).setCoh _).setCoh _

end Table

/-! ## The header of a message (R231) -/

theorem header_fields (m : Msg) : bitsAt m.header 0 6 = m.opcode % 2 ^ 6 ∧ bitsAt m.header 6 5 = m.source % 2 ^ 5 ∧
    bitsAt m.header 11 3 = m.srcDie % 2 ^ 3 ∧ bitsAt m.header 14 9 = m.srcSite % 2 ^ 9 ∧ bitsAt m.header 23 14 = m.tag % 2 ^ 14 ∧
    bitsAt m.header 37 4 = m.part % 2 ^ 4 ∧ bitsAt m.header 41 16 = m.gen % 2 ^ 16 ∧ bitsAt m.header 57 41 = m.addr % 2 ^ 41 ∧
    bitsAt m.header 98 1 = m.bulk.toNat ∧ bitsAt m.header 99 5 = m.unit % 2 ^ 5 ∧ bitsAt m.header 104 2 = m.state % 2 ^ 2 ∧
    bitsAt m.header 106 5 = m.requester % 2 ^ 5 ∧ m.header < 2 ^ 111 := by
  have hbulk : m.bulk.toNat < 2 := Bool.toNat_lt _
  simp only [bitsAt, Msg.header, Nat.shiftRight_eq_div_pow]
  omega

/-- Settles O20: each clause is one cell of the table, and a read leaves the directory and the waiting requests as they are. -/
theorem homeReads : Obligations.HomeReads := by
  unfold Obligations.HomeReads
  refine ⟨fun s w m hw hop hspill hwait hmay hcredit hsrc he hroom hdead => ?_,
    fun s w m e hw hop hspill hwait hmay hcredit hsrc he hst hdead hl3 => ?_,
    fun s w m e hw hop hspill hwait hmay hcredit hsrc he hst hl3 htrack hhalves => ?_,
    fun s m e hop hspill hwait hmay hcredit hsrc he hst => ?_,
    fun s w m hw hop hspill hwait hmay hcredit he => ?_,
    fun s w m e hw hop hspill hwait hmay hcredit he hst => ?_,
    fun s m e hop hspill hwait hmay hcredit he hst => ?_,
    fun s w m hw hop hspill hwait hmay hcredit hsrc he hroom hdead => ?_,
    fun s m e n hop hspill hwait hmay hcredit hsrc he hst hpres hdead => ?_,
    fun s w m e hw hop hspill hwait hmay hcredit he hst => ?_,
    fun s w m e hw hop hspill hwait hmay hcredit he hst => ?_,
    fun s m e hop hspill hwait hmay hcredit hsrc he hst hpres hdead hdead' => ?_,
    fun s m hspill hop hwait hmay he hcredit => ⟨fun h => ?_, fun h => ?_, fun h => ?_⟩,
    fun s m e hop hspill hwait hmay hsrc he hst => ?_,
    fun s m hmay => ⟨?_, ?_, ?_, ?_⟩, fun m => ?_⟩
  · subst hw
    obtain ⟨e, hent, hst, hpres⟩ := State.entry_newEnt_readLine (s.arrive m) (lineOf m.bulk m.addr) m.bulk .s (2 ^ m.source) m 0
    refine ⟨_, e, (State.next_arriveRequest hop hspill hmay).trans (congrArg Host.Outcome.next ?_), hent, hst, hpres, rfl⟩
    rw [State.takeRequest_none (s := s.arrive m) (fun _ => hsrc.le) hwait hcredit he fun _ => hroom, State.actOn_rdS_none (s := s.arrive m) hop hsrc hdead]
    exact State.serveHome_readLine (by exact hwait) m 0
  · subst hw
    refine (State.next_arriveRequest hop hspill hmay).trans (congrArg Host.Outcome.next ?_)
    rw [State.takeRequest_some (s := s.arrive m) (fun _ => hsrc.le) hwait hcredit he (by simp [hst]) (by simp [hst]),
      State.actOn_rdS_shared (s := s.arrive m) hop hsrc hst hdead hl3]
    exact State.serveHome_readLine (by exact hwait) m 0
  · subst hw
    refine (State.next_arriveRequest hop hspill hmay).trans (congrArg Host.Outcome.next ?_)
    rw [State.takeRequest_some (s := s.arrive m) (fun _ => hsrc.le) hwait hcredit he (by simp [hst]) (by simp [hst]),
      State.actOn_rdS_forward (s := s.arrive m) hop hsrc hst hl3 htrack hhalves]
    exact State.serveHome_of_none ((State.forward_homeWait ..).trans hwait)
  · obtain ⟨e', htake, hent, hc, hp, -, hh, hb, hnet, hwithin⟩ := State.takeRequest_collects
      (fun _ => hsrc.le) hwait hcredit he (by simp [hst]) (by simp [hst]) (State.actOn_rdS_host hop hsrc hst)
      (State.collectOr_host (s.arrive m) e true .rdS (some m))
    exact ⟨_, e', (State.next_arriveRequest hop hspill hmay).trans (congrArg Host.Outcome.next htake), hent, hc, hp, hh, hb, hnet, hwithin⟩
  · subst hw
    refine (State.next_arriveRequest hop hspill hmay).trans (congrArg Host.Outcome.next ?_)
    rw [State.takeRequest_none (s := s.arrive m) (by simp [hop]) hwait hcredit he (by simp [hop, createsEntry]),
      State.actOn_rdN_none hop]
    exact State.serveHome_readLine (by exact hwait) m 0
  · subst hw
    refine (State.next_arriveRequest hop hspill hmay).trans (congrArg Host.Outcome.next ?_)
    rw [State.takeRequest_some (s := s.arrive m) (by simp [hop]) hwait hcredit he (by simp [hst]) (by simp [hst]),
      State.actOn_rdN_shared hop hst]
    exact State.serveHome_readLine (by exact hwait) m 0
  · obtain ⟨e', htake, hent, hc, hp, -, -, hb, hnet, hwithin⟩ := State.takeRequest_collects
      (by simp [hop]) hwait hcredit he (by simp [hst]) (by simp [hst]) (State.actOn_rdN_host hop hst)
      (State.collectOr_host (s.arrive m) e true .rdN (some m))
    exact ⟨_, e', (State.next_arriveRequest hop hspill hmay).trans (congrArg Host.Outcome.next htake), hent, hc, hp, hb, hnet, hwithin⟩
  · subst hw
    obtain ⟨e, hent, hst, hpres⟩ := State.entry_newEnt_readLine (s.arrive m) (lineOf m.bulk m.addr) m.bulk .h (2 ^ 16) m 2
    refine ⟨_, e, (State.next_arriveRequest hop hspill hmay).trans (congrArg Host.Outcome.next ?_), hent, hst, hpres, rfl⟩
    rw [State.takeRequest_none (s := s.arrive m) (by simp [hop]) hwait hcredit he fun _ => hroom, State.actOn_rdX_none (s := s.arrive m) hop hsrc hdead]
    exact State.serveHome_readLine (by exact hwait) m 2
  · obtain ⟨e', htake, hent, hc, hp, -, hh, hb, hnet, hwithin⟩ := State.takeRequest_collects
      (by simp [hop]) hwait hcredit he (by simp [hst]) (by simp [hst]) (State.actOn_rdX_half hop hsrc hst hpres hdead)
      (State.collectOr_half (s.arrive m) e n .rdX (some m))
    exact ⟨_, e', (State.next_arriveRequest hop hspill hmay).trans (congrArg Host.Outcome.next htake), hent, hc, hp, hh, hb, hnet, hwithin⟩
  · subst hw
    refine (State.next_arriveRequest hop hspill hmay).trans (congrArg Host.Outcome.next ?_)
    rw [State.takeRequest_some (s := s.arrive m) (by simp [hop]) hwait hcredit he (by simp [hst]) (by simp [hst]),
      State.actOn_rdX_host hop hst]
    exact State.serveHome_readLine (by exact hwait) m 2
  · subst hw
    refine (State.next_arriveRequest hop hspill hmay).trans (congrArg Host.Outcome.next ?_)
    rw [State.takeRequest_some (s := s.arrive m) (by simp [hop]) hwait hcredit he (by simp [hst]) (by simp [hst]),
      State.actOn_upg_host hop hst]
    exact State.serveHome_of_none ((State.respond_homeKept ..).homeWait.trans hwait)
  · obtain ⟨u, htake, hent, hhome, hnet, hwithin⟩ := State.actOn_upg_onlyHost (s := s.arrive m) hop hspill hsrc hst hpres hdead hdead'
    refine ⟨u, _, (State.next_arriveRequest hop hspill hmay).trans (congrArg Host.Outcome.next ?_), hent, rfl, rfl, hnet,
      ((Within.refl _ s).setCoh _).trans hwithin⟩
    rw [State.takeRequest_some (s := s.arrive m) (by simp [hop]) hwait hcredit he (by simp [hst]) (by simp [hst]), htake]
    exact State.serveHome_of_none (hhome.trans hwait)
  · exact (State.next_arriveRequest h hspill hmay).trans (congrArg Host.Outcome.next (State.takeRequest_noCredit hop hwait hcredit he))
  · exact (State.next_arriveRequest h hspill hmay).trans (congrArg Host.Outcome.next (State.takeRequest_noCredit hop hwait hcredit he))
  · exact (State.next_arriveRequest h hspill hmay).trans (congrArg Host.Outcome.next (State.takeRequest_noCredit hop hwait hcredit he))
  · exact (State.next_arriveRequest hop hspill hmay).trans
      (congrArg Host.Outcome.next (State.takeRequest_transient (fun _ => hsrc) hwait he hst))
  iterate 4 exact if_pos (by simp [hmay])
  · obtain ⟨h1, h2, h3, h4, h5, h6, h7, h8, h9, h10, h11, h12, hlt⟩ := header_fields m
    refine ⟨h1, h2, h3, h4, h5, h6, h7, h8, h9, h10, h11, h12, hlt, ?_, ?_⟩
    · rw [Msg.bytes, List.append_assoc, List.take_append_of_le_length (by simp [length_toLE]), List.take_of_length_le (by simp [length_toLE])]
    · rw [Msg.bytes, List.length_append, List.length_append, length_toLE]
      split <;> simp [length_toLE]

end Sys2Proof.Machine

/-! SUPPORT. Writes, operations and write-backs at the home (R214, R220, R239): the statement O21. -/

namespace Sys2Proof.Machine

set_option Elab.async false

section Table
variable {s : State} {m : Msg} {e : DirEnt}

/-- A write of a line with no fill behind an operation: it is counted and applies at once (R214). -/
theorem State.takeWbm_now (h : s.trackerOf (lineOf m.bulk m.addr) = none) :
    s.takeWbm m = ((s.countAccess (lineOf m.bulk m.addr)).sliceWrite (lineOf m.bulk m.addr) m.bulk (wbmOverLine m).1
      (wbmOverLine m).2).respond m 0x12 := by
  simp only [State.takeWbm, h, Bool.false_eq_true, if_false]
  rfl

theorem State.actOn_wbm_none (hop : m.opcode = 5) : s.actOn m none = s.takeWbm m := by simp [State.actOn, hop]

theorem State.actOn_atR_none (hop : m.opcode = 6) : s.actOn m none = (s.takeAtR m).1 := by simp [State.actOn, hop]

theorem State.actOn_wbm_half {n : Fin 16} (hop : m.opcode = 5) (hst : e.state = .s) (hpres : e.presence = 2 ^ n.val) (hsrc : m.source ≠ n.val) :
    s.actOn m (some e) = s.collectOr e [n.val] false false .wbm (some m) := by
  simp [State.actOn, hst, hop, others_half n hpres hsrc]

theorem State.actOn_wbm_host (hop : m.opcode = 5) (hst : e.state = .h) : s.actOn m (some e) = s.collectOr e [] true false .wbm (some m) := by
  simp [State.actOn, hst, hop]

/-- An operation of a page whose atomics act at memory goes to the controller (R220). -/
theorem State.takeAtR_atMemory {pe : PageEnt} (htrack : s.trackerOf (lineOf m.bulk m.addr) = none)
    (hl3 : s.l3Line (lineOf m.bulk m.addr) = none) (hpage : s.pageOf (lineOf m.bulk m.addr) = some pe) (hat : pe.atomics = true) :
    s.takeAtR m = ((s.setAluQ (s.coh.aluQ ++ [⟨dpaDie (lineOf m.bulk m.addr), channelOf (lineOf m.bulk m.addr), m⟩])).addTo
      (fL3SlMemred_count (dpaDie (lineOf m.bulk m.addr)) (channelOf (lineOf m.bulk m.addr))) 1, true) := by
  simp [State.takeAtR, htrack, hpage, hat, State.forwardAt, hl3]

/-! ## The host's write-back and eviction (R239) -/

theorem State.takeHwb_held (he : s.entry (lineOf m.bulk m.addr) = some e) (hst : e.state = .h ∨ e.state = .c) :
    s.takeHwb m = (s.applyHwb m).cmpOnly m 0 := by
  rw [State.takeHwb, he]
  exact if_pos (by simpa using hst)

theorem State.takeHwb_none (he : s.entry (lineOf m.bulk m.addr) = none) :
    s.takeHwb m = (s.addTo (fDirCntProto_count (dpaDie (lineOf m.bulk m.addr))) 1).cmpOnly m 0 := by
  rw [State.takeHwb, he]
  rfl

theorem State.cmpOnly_homeKept (s : State) (m : Msg) (grant : Nat) : HomeKept s (s.cmpOnly m grant) := State.respond_homeKept ..

theorem State.cmpOnly_within (s : State) (m : Msg) (grant : Nat) : Within [.coh] s (s.cmpOnly m grant) :=
  Within.ite (.refl _ s) ((Within.refl _ s).setCoh _)

theorem State.takeHev_none (he : s.entry (lineOf m.bulk m.addr) = none) : s.takeHev m = s.cmpOnly m 0 := by
  have he' := (State.entry_congr (s.cmpOnly_homeKept m 0).dir _).trans he
  simp only [State.takeHev, he']

theorem State.takeHev_host (hwait : s.coh.homeWait = []) (he : s.entry (lineOf m.bulk m.addr) = some e) (hst : e.state = .h) :
    s.takeHev m = (s.cmpOnly m 0).freeEnt (lineOf m.bulk m.addr) := by
  have he' := (State.entry_congr (s.cmpOnly_homeKept m 0).dir _).trans he
  simp only [State.takeHev, he', hst]
  exact State.serveHome_of_none ((s.cmpOnly_homeKept m 0).homeWait.trans hwait)

theorem State.takeHev_shared (hwait : s.coh.homeWait = []) (he : s.entry (lineOf m.bulk m.addr) = some e) (hst : e.state = .s)
    (hne : clearBit e.presence 16 ≠ 0) : s.takeHev m = (s.cmpOnly m 0).putEnt { e with
      state := .s, presence := clearBit e.presence 16, pending := .none, req := none, hostExcl := false, owedHalves := 0, owedBlocks := 0,
      retainedS := 0 } := by
  have he' := (State.entry_congr (s.cmpOnly_homeKept m 0).dir _).trans he
  simp only [State.takeHev, he', hst, State.settle, if_neg hne]
  exact State.serveHome_of_none ((s.cmpOnly_homeKept m 0).homeWait.trans hwait)

end Table

/-- Settles O21: a write without holders acts at once, one with holders makes the entry collect, and the host gives up what it had. -/
theorem homeWrites : Obligations.HomeWrites := by
  unfold Obligations.HomeWrites
  refine ⟨fun s w m hw hop hspill hwait hmay hcredit he htrack => ?_, fun s m e n hop hspill hwait hmay hcredit he hst hpres hsrc => ?_,
    fun s m e hop hspill hwait hmay hcredit he hst => ?_, fun s w m hw hop hspill hwait hmay hcredit he => ?_,
    fun s m pe htrack hl3 hpage hat => State.takeAtR_atMemory htrack hl3 hpage hat, fun s w m e hw hmay he hst => ?_,
    fun s w m hw hmay he => ?_, fun s m e hwait hmay he hst => ?_, fun s m e hwait hmay he hst hne => ?_, fun s m hmay he => ?_⟩
  · subst hw
    refine (State.next_arriveRequest hop hspill hmay).trans (congrArg Host.Outcome.next ?_)
    rw [State.takeRequest_none (s := s.arrive m) (by simp [hop]) hwait hcredit he (by simp [hop, createsEntry]), State.actOn_wbm_none hop,
      State.takeWbm_now (s := s.arrive m) htrack]
  · obtain ⟨e', htake, hent, hc, hp, hreq, hh, -, hnet, hwithin⟩ := State.takeRequest_collects
      (by simp [hop]) hwait hcredit he (by simp [hst]) (by simp [hst]) (State.actOn_wbm_half hop hst hpres hsrc)
      (State.collectOr_half (s.arrive m) e n .wbm (some m))
    exact ⟨_, e', (State.next_arriveRequest hop hspill hmay).trans (congrArg Host.Outcome.next htake), hent, hc, hp, hreq, hh, hnet, hwithin⟩
  · obtain ⟨e', htake, hent, hc, hp, -, -, hb, hnet, hwithin⟩ := State.takeRequest_collects
      (by simp [hop]) hwait hcredit he (by simp [hst]) (by simp [hst]) (State.actOn_wbm_host hop hst)
      (State.collectOr_host (s.arrive m) e false .wbm (some m))
    exact ⟨_, e', (State.next_arriveRequest hop hspill hmay).trans (congrArg Host.Outcome.next htake), hent, hc, hp, hb, hnet, hwithin⟩
  · subst hw
    refine (State.next_arriveRequest hop hspill hmay).trans (congrArg Host.Outcome.next ?_)
    rw [State.takeRequest_none (s := s.arrive m) (by simp [hop]) hwait hcredit he (by simp [hop, createsEntry]), State.actOn_atR_none hop]
  · subst hw
    exact (if_neg (by simp [hmay])).trans (congrArg Host.Outcome.next (State.takeHwb_held (s := s.arrive m) he hst))
  · subst hw
    exact (if_neg (by simp [hmay])).trans (congrArg Host.Outcome.next (State.takeHwb_none (s := s.arrive m) he))
  · refine ⟨_, (if_neg (by simp [hmay])).trans (congrArg Host.Outcome.next (State.takeHev_host (s := s.arrive m) hwait he hst)),
      State.entry_freeEnt _ _, ?_⟩
    exact ((((Within.refl _ s).setCoh _).trans (State.cmpOnly_within (s.arrive m) m 0)).setCoh _)
  · refine ⟨_, _, (if_neg (by simp [hmay])).trans (congrArg Host.Outcome.next (State.takeHev_shared (s := s.arrive m) hwait he hst hne)),
      State.entry_putEnt _ ?_, rfl, rfl, ?_⟩
    · exact (State.entry_line he : e.line = _)
    exact ((((Within.refl _ s).setCoh _).trans (State.cmpOnly_within (s.arrive m) m 0)).setCoh _)
  · exact (if_neg (by simp [hmay])).trans (congrArg Host.Outcome.next (State.takeHev_none (s := s.arrive m) he))

end Sys2Proof.Machine

/-! SUPPORT. The answers that a home collects (R240, R241, R244, R250): the statement O22. -/

namespace Sys2Proof.Machine

set_option Elab.async false

theorem testBit_clearBit (x i : Nat) : (clearBit x i).testBit i = false := by
  rw [clearBit]
  split
  next h =>
    have hodd : x / 2 ^ i % 2 = 1 := by simpa [Nat.testBit_eq_decide_div_mod_eq] using h
    have hdiv : (x - 2 ^ i) / 2 ^ i = x / 2 ^ i - 1 := by simpa using Nat.sub_mul_div x (2 ^ i) 1
    rw [Nat.testBit_eq_decide_div_mod_eq, hdiv]
    exact decide_eq_false (by omega)
  next h => simpa using h

theorem clearBit_two_pow (i : Nat) : clearBit (2 ^ i) i = 0 := by simp [clearBit]

section Answers
variable {s : State} {e : DirEnt} {line n : Nat}

theorem State.checkOwed_waits (h : e.owedHalves ≠ 0 ∨ e.owedBlocks ≠ 0) : s.checkOwed e = s.putEnt e := by
  refine if_neg ?_
  rcases h with h | h <;> simp [h]

theorem State.checkOwed_done (hh : e.owedHalves = 0) (hb : e.owedBlocks = 0) : s.checkOwed e = s.completeEnt e := if_pos (by simp [hh, hb])

/-- An acknowledgement that the entry waits for (R240). -/
theorem State.takeIAck_owed (he : s.entry line = some e) (hst : e.state = .c) (ho : e.owedHalves.testBit n = true) :
    s.takeIAck line n = (s.checkOwed { e with owedHalves := clearBit e.owedHalves n, presence := clearBit e.presence n }).serveHome := by
  rw [State.takeIAck, he]
  exact if_pos (by simp [hst, ho])

theorem State.discard_counted (h : s.coh.duplicates = false) : s.discard line = s.addTo (fDirCntProto_count (dpaDie line)) 1 := by
  rw [State.discard, h]
  rfl

theorem State.discard_duplicate (h : s.coh.duplicates = true) : s.discard line = s := by
  rw [State.discard, h]
  rfl

theorem State.takeIAck_none (he : s.entry line = none) : s.takeIAck line n = s.discard line := by rw [State.takeIAck, he]

theorem State.takeBIRsp_none {block retained : Nat} (he : s.entry line = none) : s.takeBIRsp line block retained = s.discard line := by
  rw [State.takeBIRsp, he]

theorem State.takeFwdAck_none (he : s.entry line = none) : s.takeFwdAck line n = s.discard line := by rw [State.takeFwdAck, he]

theorem State.takeFwdMiss_none (he : s.entry line = none) :
    s.takeFwdMiss line n = (s.addTo (fDirCntFwdmiss_count (dpaDie line)) 1).discard line := by
  have he' : (s.addTo (fDirCntFwdmiss_count (dpaDie line)) 1).entry line = none := he
  rw [State.takeFwdMiss]
  simp only [he']

/-- A block that the host gave up: the entry's owed blocks, and after the last the host's presence (R234). -/
def DirEnt.blockGone (e : DirEnt) (block : Nat) : DirEnt :=
  if clearBit e.owedBlocks block = 0 ∧ e.retainedS ≠ 2 ^ lineBlocks e.bulk - 1 then
    { e with owedBlocks := clearBit e.owedBlocks block, presence := clearBit e.presence 16 }
  else { e with owedBlocks := clearBit e.owedBlocks block }

theorem State.takeBIRsp_gone {block : Nat} (he : s.entry line = some e) (hst : e.state = .c) (ho : e.owedBlocks.testBit block = true) :
    s.takeBIRsp line block 0 = (s.checkOwed (e.blockGone block)).serveHome := by
  rw [State.takeBIRsp, he]
  simp only [hst, ho, DirEnt.blockGone]
  simp

end Answers

/-! ## Messages that must wait (R168, R234) -/

theorem State.mayArrive_of_before {s : State} {m a : Msg} {before after : List Msg} (hnet : s.coh.net = before ++ m :: after)
    (hm : m ∉ before) (ha : a ∈ before) (hbefore : a.before m = true) : s.mayArrive m = false := by
  have hwhile : (before ++ m :: after).takeWhile (· != m) = before := by
    rw [List.takeWhile_append_of_pos fun x hx => by simpa using fun h : x = m => hm (h ▸ hx)]
    simp
  rw [State.mayArrive, hnet, hwhile]
  simp only [List.contains_append, List.contains_cons, BEq.rfl, Bool.true_or, Bool.or_true, Bool.not_true, Bool.false_or, Bool.not_eq_false',
    List.any_eq_true]
  exact ⟨a, ha, hbefore⟩

/-- A message that must wait does nothing, whatever it is. -/
theorem exec_of_not_mayArrive {s : State} {i : Instr} {c : Nat} {m : Msg} (hi : i.messageCode = some (c, m)) (h : s.mayArrive m = false) :
    exec i s = .next s := by
  have hstay : (!s.mayArrive m) = true := by rw [h]; rfl
  cases i with
  | rds m' | rdn m' | rdx m' | upg m' | wbm m' | atr m' | hwb m' | hev m' | data m' | mdata m' | wack m' | atrsp m' | err m' | cmp m'
  | inv m' | fwd m' | binv m' | bdown m' | iack m' | birsp m' | fwdack m' | fwdmiss m' =>
    obtain ⟨-, rfl⟩ := Prod.mk.inj (Option.some.inj hi)
    exact if_pos hstay
  | _ => exact absurd hi (by simp [Instr.messageCode])

theorem exec_iack {s : State} {m : Msg} (hmay : s.mayArrive m = true) (hspill : m.spill = false) :
    exec (.iack m) s = .next ((s.arrive m).takeIAck m.addr m.source) :=
  (if_neg (by simp [hmay])).trans (congrArg Host.Outcome.next (if_neg (by simp [hspill])))

theorem exec_birsp {s : State} {m : Msg} (hmay : s.mayArrive m = true) :
    exec (.birsp m) s = .next ((s.arrive m).takeBIRsp m.addr m.unit m.state) := if_neg (by simp [hmay])

theorem exec_fwdack {s : State} {m : Msg} (hmay : s.mayArrive m = true) :
    exec (.fwdack m) s = .next ((s.arrive m).takeFwdAck m.addr m.source) := if_neg (by simp [hmay])

theorem exec_fwdmiss {s : State} {m : Msg} (hmay : s.mayArrive m = true) :
    exec (.fwdmiss m) s = .next ((s.arrive m).takeFwdMiss m.addr m.source) := if_neg (by simp [hmay])

/-! ## Dead agents (R250) -/

theorem Fld.deadMask_ne_deadMask {d h : Nat} (hne : h ≠ d) : (fDirStatus_dead_mask h).key ≠ (fDirStatus_dead_mask d).key := by
  simp only [Fld.key, fDirStatus_dead_mask, RegKind.addr, RegKind.base, kDirStatus]
  omega

theorem Fld.sweep_ne_sweep {d h : Nat} (hne : h ≠ d) : (fDirStatus_sweep h).key ≠ (fDirStatus_sweep d).key := by
  simp only [Fld.key, fDirStatus_sweep, RegKind.addr, RegKind.base, kDirStatus]
  omega

theorem Fld.sweep_ne_deadMask (d h : Nat) : (fDirStatus_sweep h).key ≠ (fDirStatus_dead_mask d).key := by
  simp only [Fld.key, fDirStatus_sweep, fDirStatus_dead_mask, RegKind.addr, RegKind.base, kDirStatus]
  omega

theorem Fld.linkUp_ne_sweep (d : Nat) : fUciStatus_link_up.key ≠ (fDirStatus_sweep d).key := by
  simp only [Fld.key, fDirStatus_sweep, fUciStatus_link_up, RegKind.addr, RegKind.base, kDirStatus, kUciStatus]
  omega

theorem State.deadAt_setBitOf_ne {s : State} {d h : Nat} (hne : h ≠ d) (k a : Nat) (b : Bool) :
    (s.setBitOf (fDirStatus_dead_mask d) k b).deadAt h a = s.deadAt h a := by
  rw [State.deadAt, State.setBitOf, State.get_set_ne _ _ (Fld.deadMask_ne_deadMask hne), State.deadAt]

theorem State.deadAt_setBitOf_true (s : State) (d : Nat) (k : Fin 17) : (s.setBitOf (fDirStatus_dead_mask d) k true).deadAt d k = true := by
  rw [State.deadAt, State.setBitOf, if_pos rfl, State.get_set_same, Nat.testBit_mod_two_pow, setBit, Nat.testBit_or]
  simp [fDirStatus_dead_mask, k.isLt]

theorem State.deadAt_setBitOf_false (s : State) (d k : Nat) : (s.setBitOf (fDirStatus_dead_mask d) k false).deadAt d k = false := by
  rw [State.deadAt, State.setBitOf, if_neg (by decide), State.get_set_same, Nat.testBit_mod_two_pow, testBit_clearBit]
  simp

/-- The host is alive again at every home of the list. -/
theorem State.deadAt_revived (l : List Nat) (s : State) (h : Nat) (hl : h ∈ l ∨ s.deadAt h 16 = false) :
    (l.foldl (fun s h => s.setBitOf (fDirStatus_dead_mask h) 16 false) s).deadAt h 16 = false := by
  induction l generalizing s with
  | nil => simpa using hl
  | cons d l ih =>
    refine ih _ ?_
    by_cases hd : h = d
    · exact .inr (hd ▸ State.deadAt_setBitOf_false s h 16)
    · rw [State.deadAt_setBitOf_ne hd]
      simpa [hd] using hl

theorem State.setBitOf_within (s : State) (f : Fld) (i : Nat) (b : Bool) : Within [.regs] s (s.setBitOf f i b) := s.set_within f _

/-- A declaration that finds no entry sets the dead bit, and the sweep runs. -/
theorem State.declareAt_empty {s : State} (d k : Nat) (hdir : s.coh.dir = []) (hwait : s.coh.homeWait = []) :
    s.declareAt d k = (s.setBitOf (fDirStatus_dead_mask d) k true).set (fDirStatus_sweep d) 1 := by
  have hmine : ((s.setBitOf (fDirStatus_dead_mask d) k true).set (fDirStatus_sweep d) 1).coh.dir = [] := hdir
  simp only [State.declareAt, hmine, List.filter_nil, List.map_nil, List.foldl_nil]
  exact State.serveHome_of_none hwait

theorem State.filterDead_empty {s : State} (d k : Nat) (hfilter : s.coh.filter = []) (hwait : s.coh.filterWait = []) :
    s.filterDead d k = s := by
  simp [State.filterDead, hfilter, State.serveFilter, hwait, State.filterServeWaiting, State.filterPass]

/-- Settles O22: each answer clears what its sender owed, and the entry completes once nothing is owed. -/
theorem homeCollects : Obligations.HomeCollects := by
  unfold Obligations.HomeCollects
  refine ⟨fun s w m e hw hmay hspill he hst ho hleft hwait => ?_, fun s w m r e hw hmay hspill he hst hsrc hh hb hp hreq hwait => ?_,
    fun s m hspill hmay he hdup => ⟨?_, ?_, ?_⟩, fun s m hspill hmay he hdup => ⟨?_, ?_, ?_⟩,
    fun s m e hmay he hst ho hret hleft hwait => ?_, fun s w m r e hw hmay he hst hunit hb hh hkept hret hp hreq hwait => ?_,
    fun s w m e hw hmay he hst ht => ?_, fun s w m r e hw hmay he hst ht hreq => ?_, fun s m hmay he hdup => ?_,
    fun s m a before after hnet hm ha hbefore i hi => ?_, fun s d k => rfl, fun s d k hdir hwait hfilter hfwait => ?_,
    fun s d hlink => ?_, fun s d hlink hsweep => ?_⟩
  · subst hw
    refine (exec_iack hmay hspill).trans (congrArg Host.Outcome.next ?_)
    rw [State.takeIAck_owed (s := s.arrive m) he hst ho, State.checkOwed_waits hleft]
    exact State.serveHome_of_none hwait
  · subst hw
    refine (exec_iack hmay hspill).trans (congrArg Host.Outcome.next ?_)
    rw [State.takeIAck_owed (s := s.arrive m) he hst (by simp [hh]), 
      State.checkOwed_done (e := { e with owedHalves := clearBit e.owedHalves m.source, presence := clearBit e.presence m.source })
        (by simp [hh, clearBit_two_pow]) hb,
      ← State.entry_line he]
    simp only [State.completeEnt, hp, hreq, Option.getD_some]
  · rw [exec_iack hmay hspill, State.takeIAck_none (s := s.arrive m) he, State.discard_counted (s := s.arrive m) hdup]
  · rw [exec_birsp hmay, State.takeBIRsp_none (s := s.arrive m) he, State.discard_counted (s := s.arrive m) hdup]
  · rw [exec_fwdack hmay, State.takeFwdAck_none (s := s.arrive m) he, State.discard_counted (s := s.arrive m) hdup]
  · rw [exec_iack hmay hspill, State.takeIAck_none (s := s.arrive m) he, State.discard_duplicate (s := s.arrive m) hdup]
  · rw [exec_birsp hmay, State.takeBIRsp_none (s := s.arrive m) he, State.discard_duplicate (s := s.arrive m) hdup]
  · rw [exec_fwdack hmay, State.takeFwdAck_none (s := s.arrive m) he, State.discard_duplicate (s := s.arrive m) hdup]
  · have hgone : (e.blockGone m.unit) = { e with owedBlocks := clearBit e.owedBlocks m.unit } := if_neg (by simp [hleft])
    refine ⟨(s.arrive m).putEnt { e with owedBlocks := clearBit e.owedBlocks m.unit }, _, ?_,
      State.entry_putEnt _ (e := { e with owedBlocks := clearBit e.owedBlocks m.unit }) (State.entry_line he : e.line = _), hst, rfl, rfl,
      ((Within.refl _ s).setCoh _).setCoh _⟩
    rw [exec_birsp hmay, hret, State.takeBIRsp_gone (s := s.arrive m) he hst ho, hgone, State.checkOwed_waits (.inr hleft)]
    exact congrArg Host.Outcome.next (State.serveHome_of_none hwait)
  · subst hw
    have hgone : e.blockGone m.unit = { e with owedBlocks := 0, presence := clearBit e.presence 16 } := by
      have hblocks : 2 ^ lineBlocks e.bulk - 1 ≠ 0 := by cases e.bulk <;> decide
      rw [DirEnt.blockGone, hb, clearBit_two_pow, if_pos ⟨rfl, by rw [hkept]; exact hblocks.symm⟩]
    rw [exec_birsp hmay, hret, State.takeBIRsp_gone (s := s.arrive m) he hst (by simp [hb]), hgone, 
      State.checkOwed_done (e := { e with owedBlocks := 0, presence := clearBit e.presence 16 }) hh rfl,
      ← State.entry_line he]
    simp only [State.completeEnt, hp, hreq, Option.getD_some, testBit_clearBit, Bool.false_and, Bool.false_eq_true, if_false, State.settle,
      if_true]
  · subst hw
    refine (exec_fwdack hmay).trans (congrArg Host.Outcome.next ?_)
    have he' : (s.arrive m).entry m.addr = some e := he
    rw [State.takeFwdAck, he']
    exact if_pos (by simp [hst, ht])
  · subst hw
    refine (exec_fwdmiss hmay).trans (congrArg Host.Outcome.next ?_)
    have he' : ((s.arrive m).addTo (fDirCntFwdmiss_count (dpaDie m.addr)) 1).entry m.addr = some e := he
    rw [State.takeFwdMiss]
    simp only [he', hst, ht, State.fwdMissed, hreq]
    simp
  · rw [exec_fwdmiss hmay, State.takeFwdMiss_none (s := s.arrive m) he]
    exact congrArg Host.Outcome.next (State.discard_counted hdup)
  · obtain ⟨c, hi⟩ := hi
    exact exec_of_not_mayArrive hi (State.mayArrive_of_before hnet hm ha hbefore)
  · generalize hv : (s.setBitOf (fDirStatus_dead_mask d) k true).set (fDirStatus_sweep d) 1 = v
    have hexec : exec (.deadDeclaration d k) s = .next v := by
      subst hv
      refine congrArg Host.Outcome.next ?_
      rw [State.declareAt_empty d k hdir hwait]
      exact State.filterDead_empty d k hfilter hfwait
    subst hv
    refine ⟨_, hexec, ?_, State.get_set_same .., ?_, ?_⟩
    · rw [State.deadAt, State.get_set_ne _ _ (Fld.sweep_ne_deadMask d d).symm]
      exact State.deadAt_setBitOf_true s d k
    · exact ((State.setBitOf_within ..).trans (State.set_within ..)).mono
    · exact ((RegsKept.refl _ s).set _ (by simp)).set _ (by simp)
  · have hdown : (s.set (fDirStatus_sweep d) 0).flag fUciStatus_link_up = false := by
      rw [State.flag, State.get_set_ne _ _ (Fld.linkUp_ne_sweep d), hlink]
      rfl
    refine congrArg Host.Outcome.next (if_neg ?_)
    simp [hdown]
  · refine ⟨_, congrArg Host.Outcome.next (if_pos ?_), fun h hh => State.deadAt_revived _ _ h (.inl (List.mem_range.2 hh)), ?_⟩
    · have hup : (s.set (fDirStatus_sweep d) 0).flag fUciStatus_link_up = true := by
        rw [State.flag, State.get_set_ne _ _ (Fld.linkUp_ne_sweep d), hlink]
        rfl
      rw [hup, Bool.true_and, List.all_eq_true]
      intro h hh
      by_cases hd : h = d
      · rw [hd, State.get_set_same]
        rfl
      · rw [State.get_set_ne _ _ (Fld.sweep_ne_sweep hd), hsweep h (List.mem_range.1 hh) hd]
        rfl
    · exact (State.set_within ..).trans (Within.foldl (fun u h => u.setBitOf_within ..) _ _)

end Sys2Proof.Machine

/-! SUPPORT. Responses at a half, and what a half does with Inv and Fwd (R119, R236, R237, R244, R391): the statement O23. -/

namespace Sys2Proof.Machine

set_option Elab.async false

/-! ## Responses -/

theorem exec_data {s : State} {m : Msg} (hmay : s.mayArrive m = true) (hhost : m.toHost = false) :
    exec (.data m) s = .next ((s.arrive m).takeData m).runImages :=
  (if_neg (by simp [hmay])).trans (congrArg Host.Outcome.next (if_neg (by simp [hhost])))

theorem exec_mdata {s : State} {m : Msg} (hmay : s.mayArrive m = true) (hhost : m.toHost = false) :
    exec (.mdata m) s = .next ((s.arrive m).takeData m).runImages :=
  (if_neg (by simp [hmay])).trans (congrArg Host.Outcome.next (if_neg (by simp [hhost])))

theorem exec_err {s : State} {m : Msg} (hmay : s.mayArrive m = true) (hhost : m.toHost = false) :
    exec (.err m) s = .next ((s.arrive m).takeErr m).runImages :=
  (if_neg (by simp [hmay])).trans (congrArg Host.Outcome.next (if_neg (by simp [hhost])))

theorem exec_wack {s : State} {m : Msg} (hmay : s.mayArrive m = true) : exec (.wack m) s = .next ((s.arrive m).takeAck m false) :=
  if_neg (by simp [hmay])

theorem exec_atrsp {s : State} {m : Msg} (hmay : s.mayArrive m = true) : exec (.atrsp m) s = .next ((s.arrive m).takeAck m true) :=
  if_neg (by simp [hmay])

section Responses
variable {s : State} {m : Msg} {x : Tx}

theorem State.takeData_none (h : s.txOf m = none) : s.takeData m = s.staleResponse (receivingDie m) := by rw [State.takeData, h]

theorem State.takeAck_none (h : s.txOf m = none) (atomic : Bool) : s.takeAck m atomic = s.staleResponse (receivingDie m) := by
  rw [State.takeAck, h]

theorem State.takeErr_none (h : s.txOf m = none) : s.takeErr m = s.staleResponse (receivingDie m) := by rw [State.takeErr, h]

theorem State.takeErr_some (h : s.txOf m = some x) : s.takeErr m = (x.wants.foldl State.serveErr (s.closeTx x)).wakeHalf x := by
  rw [State.takeErr, h]

theorem State.takeAck_write (h : s.txOf m = some x) (hop : x.op = 5) :
    s.takeAck m false = (x.wants.foldl State.serveAck (s.closeTx x)).wakeHalf x := by
  rw [State.takeAck, h]
  exact if_neg (by simp [hop])

theorem State.takeAck_atomic (h : s.txOf m = some x) (hop : x.op = 6) :
    s.takeAck m true = (x.wants.foldl (fun u p => u.serveAtomic m.data p) (s.closeTx x)).wakeHalf x := by
  rw [State.takeAck, h]
  exact if_neg (by simp [hop])

/-- The data of a half's read, which the half keeps where no Inv came first. -/
theorem State.takeData_kept {v : State} (h : s.txOf m = some x) (hop : x.op = 1) (hagent : x.agent < 16) (hinv : x.inv = false)
    (hplace : (s.closeTx x).placeL2 ⟨x.agent, x.addr, x.bulk, x.spill, x.part, 0, fullMask x.bulk, m.data⟩ = some v) :
    s.takeData m = (x.wants.foldl (fun u p => u.serveData x.part x.addr m.data p) v).wakeHalf x := by
  have hread : (decide (x.op ≠ 1) && decide (x.op ≠ 2)) = false := by simp [hop]
  have hkeeps : (decide (x.agent < 16) && !x.inv) = true := by simp [hagent, hinv]
  rw [State.takeData, h]
  simp only [hread, Bool.false_eq_true, if_false, hkeeps, if_true, hplace, if_pos hagent]

theorem State.takeData_passed (h : s.txOf m = some x) (hop : x.op = 1) (hagent : x.agent < 16) (hinv : x.inv = true) :
    s.takeData m = (x.wants.foldl (fun u p => u.serveData x.part x.addr m.data p) (s.closeTx x)).wakeHalf x := by
  have hread : (decide (x.op ≠ 1) && decide (x.op ≠ 2)) = false := by simp [hop]
  have hkeeps : (decide (x.agent < 16) && !x.inv) = false := by simp [hinv]
  rw [State.takeData, h]
  simp only [hread, Bool.false_eq_true, if_false, hkeeps, if_pos hagent]

theorem State.staleResponse_counted (h : s.coh.duplicates = false) (d : Nat) : s.staleResponse d = s.addTo (fDirCntStale_count d) 1 := by
  rw [State.staleResponse, h]
  rfl

theorem State.runImages_of_none (h : s.sec.reading = []) : s.runImages = s := by
  rw [State.runImages, h]
  rfl

end Responses

/-! ## The value of a load -/

theorem loadBytes_unknown (bs : List Byte) : loadBytes [] bs = bs := by simp [loadBytes, List.mapIdx_eq_zipIdx_map]

theorem State.mem_giveLane (s : State) (t g lane v : Nat) : (lane, v) ∈ ((s.giveLane t g lane v).groupAt t g).values := by
  rw [State.giveLane, groupAt_setGroup_same]
  exact List.mem_append_right _ (List.mem_singleton.2 rfl)

theorem State.serveData_load {s : State} {p t pa : Nat} {h : PageHit} (hpage : s.translate p pa = some h) (hl1 : s.l1Line t (pa / 64) = none)
    (g lane base len : Nat) (data : List Byte) :
    s.serveData p base data (.load t g lane pa len 0 len [] false) =
      s.giveLane t g lane (leNat (slice (slice data (h.addr - pa % 64 - base) 64) (pa % 64) len)) := by
  rw [State.serveData, hpage]
  simp only [Bool.false_eq_true, if_false, State.giveLoad, State.seenBytes, hl1, loadBytes_unknown, State.givePart, withBytes_whole]

/-! ## Inv and Fwd at a half -/

theorem State.l2Line_dropL2 (s : State) (n line : Nat) (spill : Bool) : (s.dropL2 n line spill).l2Line n line spill = none := by
  rw [State.l2Line, List.find?_eq_none]
  intro l hl
  have hl := (List.mem_filter.1 hl).2
  revert hl
  cases (l.half == n && l.line == line && l.spill == spill) <;> simp

theorem State.l2Line_invalL2 (s : State) (n line : Nat) (spill : Bool) : (s.invalL2 n line spill).l2Line n line spill = none := by
  rw [State.invalL2]
  split
  · exact s.l2Line_dropL2 n line spill
  · next h => simpa using h

theorem State.invalL2_net (s : State) (n line : Nat) (spill : Bool) : (s.invalL2 n line spill).coh.net = s.coh.net := by
  rw [State.invalL2]
  split <;> rfl

theorem State.invalL2_within (s : State) (n line : Nat) (spill : Bool) : Within [.regs, .coh] s (s.invalL2 n line spill) := by
  rw [State.invalL2]
  split
  · exact (((Within.refl [.coh] s).setCoh _).mono).trans (State.addTo_within ..).mono
  · exact Within.refl _ s

/-- A half's answer to Inv. -/
def invAnswer (m : Msg) (n : Fin 16) : Msg :=
  { opcode := 0x20, source := n.val, part := m.part, gen := m.gen, srcDie := n.val / 2, srcSite := halfSite n.val m.addr m.spill,
    addr := m.addr, bulk := m.bulk, spill := m.spill, dst := if m.spill then .filter else .home }

/-- An open read of the line, marked that an Inv came. -/
def Tx.invalidated (m : Msg) (n : Fin 16) (x : Tx) : Tx :=
  if x.agent = n.val && x.addr = m.addr && x.spill = m.spill && x.op = 1 then { x with inv := true } else x

theorem Tx.inv_invalidated {m : Msg} {n : Fin 16} (x : Tx) (hagent : (x.invalidated m n).agent = n.val)
    (haddr : (x.invalidated m n).addr = m.addr) (hspill : (x.invalidated m n).spill = m.spill) (hop : (x.invalidated m n).op = 1) :
    (x.invalidated m n).inv = true := by
  revert hagent haddr hspill hop
  rw [Tx.invalidated]
  split
  · simp
  · next h =>
    intro hagent haddr hspill hop
    exact absurd (by simp [hagent, haddr, hspill, hop]) h

theorem exec_inv {s : State} {m : Msg} {n : Fin 16} (hmay : s.mayArrive m = true) (hdst : m.dst = .half n) :
    exec (.inv m) s = .next ((((s.arrive m).invalL2 n.val m.addr m.spill).setTxs
      (((s.arrive m).invalL2 n.val m.addr m.spill).coh.txs.map (Tx.invalidated m n))).send (invAnswer m n)) := by
  refine (if_neg (by simp [hmay])).trans ?_
  rw [hdst]
  rfl

/-- A half's answers to Fwd: to the requester and to the home. -/
def fwdData (m : Msg) (n : Fin 16) (hr : m.requester < 16) (data : List Byte) : Msg :=
  { opcode := 0x10, source := n.val, srcDie := n.val / 2, srcSite := halfSite n.val m.addr false, addr := m.addr, bulk := m.bulk,
    tag := m.tag, part := m.part, gen := m.gen, requester := m.requester, dst := .half ⟨m.requester, hr⟩, data := data }

def fwdAnswer (m : Msg) (n : Fin 16) (opcode : Nat) : Msg :=
  { opcode := opcode, source := n.val, srcDie := n.val / 2, srcSite := halfSite n.val m.addr false, addr := m.addr, bulk := m.bulk,
    part := m.part, gen := m.gen, dst := .home }

theorem exec_fwd_held {s : State} {m : Msg} {n : Fin 16} {l : L2Line} (hr : m.requester < 16) (hmay : s.mayArrive m = true)
    (hdst : m.dst = .half n) (hl : s.l2Line n.val m.addr false = some l) (hfull : l.valid = fullMask l.bulk) :
    exec (.fwd m) s = .next ((((s.arrive m).touchL2 l).send (fwdData m n hr l.data)).send (fwdAnswer m n 0x22)) := by
  have hl' : (s.arrive m).l2Line n.val m.addr false = some l := hl
  refine (if_neg (by simp [hmay])).trans ?_
  rw [hdst]
  simp only [hl']
  exact dif_pos ⟨hr, hfull⟩

theorem exec_fwd_missed {s : State} {m : Msg} {n : Fin 16} (hmay : s.mayArrive m = true) (hdst : m.dst = .half n)
    (hl : s.l2Line n.val m.addr false = none) : exec (.fwd m) s = .next ((s.arrive m).send (fwdAnswer m n 0x23)) := by
  have hl' : (s.arrive m).l2Line n.val m.addr false = none := hl
  refine (if_neg (by simp [hmay])).trans ?_
  rw [hdst]
  simp only [hl', fwdAnswer]

/-! ## What a notice of route loss sends again -/

/-- Only messages are sent, and counted: the rest of the coherence state, and what the home writes in a header, stay. -/
def SendsOnly (s u : State) : Prop :=
  (∃ ms, u.coh = { s.coh with net := s.coh.net ++ ms }) ∧ (∀ line, u.homeSends line = s.homeSends line) ∧ Within [.regs, .coh] s u

theorem SendsOnly.refl (s : State) : SendsOnly s s := ⟨⟨[], by simp⟩, fun _ => rfl, Within.refl _ s⟩

theorem SendsOnly.trans {s u v : State} (h : SendsOnly s u) (h' : SendsOnly u v) : SendsOnly s v := by
  obtain ⟨⟨ms, hcoh⟩, hsends, hw⟩ := h
  obtain ⟨⟨ms', hcoh'⟩, hsends', hw'⟩ := h'
  exact ⟨⟨ms ++ ms', by simp [hcoh', hcoh]⟩, fun line => (hsends' line).trans (hsends line), hw.trans hw'⟩

theorem SendsOnly.foldl {α : Type} {f : State → α → State} (hf : ∀ s a, SendsOnly s (f s a)) (l : List α) (s : State) :
    SendsOnly s (l.foldl f s) := by
  induction l generalizing s with
  | nil => exact .refl s
  | cons a l ih => exact (hf s a).trans (ih _)

theorem SendsOnly.mem {s u : State} (h : SendsOnly s u) {m : Msg} (hm : m ∈ s.coh.net) : m ∈ u.coh.net := by
  obtain ⟨⟨ms, hcoh⟩, -, -⟩ := h
  rw [hcoh]
  exact List.mem_append_left _ hm

/-- What a member of the list sends is on its way at the end. -/
theorem SendsOnly.mem_foldl {α : Type} {f : State → α → State} (hf : ∀ s a, SendsOnly s (f s a)) {s : State} {m : Msg} {a : α}
    (hsent : ∀ u, SendsOnly s u → m ∈ (f u a).coh.net) (l : List α) (ha : a ∈ l) {v : State} (hv : SendsOnly s v) :
    m ∈ (l.foldl f v).coh.net := by
  induction l generalizing v with
  | nil => cases ha
  | cons b l ih =>
    rcases List.mem_cons.1 ha with rfl | ha
    · exact (SendsOnly.foldl hf l _).mem (hsent v hv)
    · exact ih ha (hv.trans (hf v b))

theorem State.send_sendsOnly (s : State) (m : Msg) : SendsOnly s (s.send m) :=
  ⟨⟨[m], rfl⟩, fun _ => rfl, ((Within.refl [.coh] s).setCoh _).mono⟩

theorem State.addTo_sendsOnly (s : State) {f : Fld} (hf : ∀ p, (fPartStatus_generation p).key ≠ f.key) (n : Nat) :
    SendsOnly s (s.addTo f n) :=
  ⟨⟨[], by simp [State.addTo_coh]⟩, State.homeSends_addTo hf n, (s.addTo_within f n).mono⟩

theorem Fld.generation_ne_fwdCount (p d : Nat) : (fPartStatus_generation p).key ≠ (fDirCntFwd_count d).key := by
  simp only [Fld.key, fPartStatus_generation, fDirCntFwd_count, RegKind.addr, RegKind.base, kPartStatus, kDirCntFwd]
  omega

theorem State.sendInv_sendsOnly (s : State) (line : Nat) (bulk : Bool) (n : Nat) : SendsOnly s (s.sendInv line bulk n) := by
  rw [State.sendInv]
  split
  · exact (State.send_sendsOnly ..).trans (State.addTo_sendsOnly _ (fun p => (Fld.generation_ne_dirCount p _).1) _)
  · exact .refl s

theorem State.sendBack_sendsOnly (s : State) (down : Bool) (line : Nat) (bulk : Bool) (b : Nat) :
    SendsOnly s (s.sendBack down line bulk b) :=
  (State.send_sendsOnly ..).trans (State.addTo_sendsOnly _ (fun p => (Fld.generation_ne_dirCount p _).2) _)

theorem State.filterInv_sendsOnly (s : State) (e : FilterEnt) (halves : List Nat) : SendsOnly s (s.filterInv e halves) := by
  refine SendsOnly.foldl (fun u n => ?_) halves s
  split
  · exact u.send_sendsOnly _
  · exact .refl u

/-- What a home sends again for an entry. -/
def State.sendAgain (s : State) (e : DirEnt) : State :=
  match e.state with
  | .c => ((List.range (lineBlocks e.bulk)).filter fun b => e.owedBlocks.testBit b).foldl
      (fun s b => s.sendBack (e.pending == .rdS || e.pending == .rdN) e.line e.bulk b)
      ((halvesIn e.owedHalves).foldl (fun s n => s.sendInv e.line e.bulk n) s)
  | .f =>
    match e.req with
    | some m =>
      if h : e.target < 16 then
        (s.send { m with opcode := 0x19, source := 31, srcDie := dpaDie e.line, srcSite := homeSite e.line,
                         requester := m.source, dst := .half ⟨e.target, h⟩ }).addTo (fDirCntFwd_count (dpaDie e.line)) 1
      else s
    | none => s
  | _ => s

theorem State.sendAgain_sendsOnly (s : State) (e : DirEnt) : SendsOnly s (s.sendAgain e) := by
  rw [State.sendAgain]
  split
  · exact (SendsOnly.foldl (fun u n => u.sendInv_sendsOnly e.line e.bulk n) _ _).trans
      (SendsOnly.foldl (fun u b => u.sendBack_sendsOnly _ e.line e.bulk b) _ _)
  · split
    · split
      · exact (State.send_sendsOnly ..).trans (State.addTo_sendsOnly _ (fun p => Fld.generation_ne_fwdCount p _) _)
      · exact .refl s
    · exact .refl s
  · exact .refl s

theorem State.mem_sendInv (s : State) (line : Nat) (bulk : Bool) (n : Fin 16) :
    ({ s.homeSends line with opcode := 0x18, bulk := bulk, requester := n.val, dst := .half n } : Msg) ∈ (s.sendInv line bulk n).coh.net := by
  rw [State.sendInv, dif_pos n.isLt, State.addTo_coh]
  exact List.mem_append_right _ (List.mem_singleton.2 rfl)

theorem State.mem_sendAgain {s u : State} (hu : SendsOnly s u) {e : DirEnt} (hst : e.state = .c) {n : Fin 16}
    (howed : e.owedHalves.testBit n.val = true) : s.invMsg e n ∈ (u.sendAgain e).coh.net := by
  have hn : n.val ∈ halvesIn e.owedHalves := List.mem_filter.2 ⟨List.mem_range.2 n.isLt, howed⟩
  rw [State.sendAgain, hst]
  refine (SendsOnly.foldl (fun u b => u.sendBack_sendsOnly _ e.line e.bulk b) _ _).mem ?_
  refine SendsOnly.mem_foldl (s := s) (fun u n => u.sendInv_sendsOnly e.line e.bulk n) (fun v hv => ?_) _ hn hu
  rw [State.invMsg, ← hv.2.1 e.line]
  exact v.mem_sendInv e.line e.bulk n

/-- The open reads of the halves, which are sent again. -/
def Tx.again (x : Tx) : Msg :=
  { opcode := 1, source := x.agent, srcDie := x.die, srcSite := x.site, tag := x.tag, part := x.part, gen := x.gen, addr := x.addr,
    bulk := x.bulk, unit := x.unit, spill := x.spill, dst := if x.spill then .filter else .home }

/-- The state with the window of duplicates open. -/
def State.windowOpen (s : State) : State := { s with coh := { s.coh with duplicates := true } }

def State.filterAgain (s : State) (e : FilterEnt) : State := if e.collecting then s.filterInv e (halvesIn e.owed) else s

theorem State.filterAgain_sendsOnly (s : State) (e : FilterEnt) : SendsOnly s (s.filterAgain e) := by
  rw [State.filterAgain]
  split
  · exact s.filterInv_sendsOnly e _
  · exact .refl s

theorem exec_routeLossNotice (s : State) : ∃ v w, v = s.windowOpen.coh.dir.foldl State.sendAgain s.windowOpen ∧
    w = v.coh.filter.foldl State.filterAgain v ∧
    exec .routeLossNotice s = .next ((w.coh.txs.filter fun x => x.agent < 16 && x.op == 1).foldl (fun s (x : Tx) => s.send x.again) w) :=
  ⟨_, _, rfl, rfl, rfl⟩

/-- Settles O23: each response closes its transaction and serves who waits; a half answers Inv and Fwd at once. -/
theorem halfsAnswered : Obligations.HalfsAnswered := by
  unfold Obligations.HalfsAnswered
  refine ⟨⟨fun s w v m x hmay hw hhost htx hop hagent hinv hplace => ?_, fun s w m x hmay hw hhost htx hop hagent hinv => ?_,
    fun s w m x hmay hw htx hop => ?_, fun s w m x hmay hw htx hop => ?_, fun s w m x hmay hw hhost htx => ?_,
    fun s w m hmay hw hhost htx hdup hread => ?_, fun s m hmay => ?_, fun s p t g lane base pa len h data hpage hl1 => ?_⟩,
    fun s m n hmay hdst => ?_, fun s m n l hr hmay hdst hl hfull => ?_, fun s m n hmay hdst hl => ?_, fun s => ?_, fun s => rfl⟩
  · subst hw
    rw [exec_data hmay hhost, exec_mdata hmay hhost, State.takeData_kept htx hop hagent hinv hplace]
    exact ⟨rfl, rfl⟩
  · subst hw
    rw [exec_data hmay hhost, State.takeData_passed htx hop hagent hinv]
  · subst hw
    rw [exec_wack hmay, State.takeAck_write htx hop]
  · subst hw
    rw [exec_atrsp hmay, State.takeAck_atomic htx hop]
  · subst hw
    rw [exec_err hmay hhost, State.takeErr_some htx]
  · subst hw
    have hstale : (s.arrive m).staleResponse (receivingDie m) = (s.arrive m).addTo (fDirCntStale_count (receivingDie m)) 1 :=
      State.staleResponse_counted (s := s.arrive m) hdup _
    have himages : ((s.arrive m).addTo (fDirCntStale_count (receivingDie m)) 1).runImages = (s.arrive m).addTo (fDirCntStale_count (receivingDie m)) 1 :=
      State.runImages_of_none (by exact hread)
    rw [exec_data hmay hhost, exec_mdata hmay hhost, exec_wack hmay, exec_atrsp hmay, exec_err hmay hhost, State.takeData_none htx,
      State.takeAck_none htx, State.takeAck_none htx, State.takeErr_none htx, hstale, himages]
    exact ⟨rfl, rfl, rfl, rfl, rfl⟩
  · exact ⟨exec_of_not_mayArrive (i := .data m) rfl hmay, exec_of_not_mayArrive (i := .mdata m) rfl hmay,
      exec_of_not_mayArrive (i := .wack m) rfl hmay, exec_of_not_mayArrive (i := .atrsp m) rfl hmay,
      exec_of_not_mayArrive (i := .err m) rfl hmay⟩
  · refine ⟨_, rfl, ?_⟩
    rw [State.serveData_load hpage hl1]
    exact State.mem_giveLane ..
  · refine ⟨_, exec_inv hmay hdst, State.l2Line_invalL2 (s.arrive m) n m.addr m.spill, fun x hx hagent haddr hspill hop => ?_, ?_, ?_⟩
    · obtain ⟨y, -, rfl⟩ := List.mem_map.1 hx
      exact y.inv_invalidated hagent haddr hspill hop
    · exact congrArg (· ++ [invAnswer m n]) ((s.arrive m).invalL2_net n m.addr m.spill)
    · exact (((Within.refl _ s).setCoh _).trans ((s.arrive m).invalL2_within n m.addr m.spill)).setCoh _ |>.setCoh _
  · refine ⟨_, exec_fwd_held hr hmay hdst hl hfull, by simp [State.send, State.touchL2, State.setL2, State.arrive, fwdData, fwdAnswer],
      ((((Within.refl _ s).setCoh _).setCoh _).setCoh _).setCoh _⟩
  · exact exec_fwd_missed hmay hdst hl
  · obtain ⟨v, w, hv, hw, hexec⟩ := exec_routeLossNotice s
    have hsv : SendsOnly s.windowOpen v := hv ▸ SendsOnly.foldl State.sendAgain_sendsOnly _ _
    have hvw : SendsOnly v w := hw ▸ SendsOnly.foldl State.filterAgain_sendsOnly _ _
    have hsw := hsv.trans hvw
    have hwu : SendsOnly w ((w.coh.txs.filter fun x => x.agent < 16 && x.op == 1).foldl (fun s (x : Tx) => s.send x.again) w) :=
      SendsOnly.foldl (fun u (x : Tx) => u.send_sendsOnly x.again) _ w
    obtain ⟨⟨ms, hcoh⟩, -, hwithin⟩ := hsw.trans hwu
    refine ⟨_, hexec, by rw [hcoh]; rfl, by rw [hcoh]; rfl, by rw [hcoh]; rfl, fun m hm => (hsw.trans hwu).mem hm,
      fun x hx hagent hop => ?_, fun e he hst n howed => ?_, ?_⟩
    · have htxs : w.coh.txs = s.coh.txs := by
        obtain ⟨⟨ms', hcoh'⟩, -, -⟩ := hsw
        rw [hcoh']
        rfl
      refine SendsOnly.mem_foldl (s := w) (m := x.again) (a := x) (fun u (x : Tx) => u.send_sendsOnly x.again) (fun u _ => ?_) _ ?_ (.refl w)
      · exact List.mem_append_right _ (List.mem_singleton.2 rfl)
      · exact List.mem_filter.2 ⟨htxs.symm ▸ hx, by simp [hagent, hop]⟩
    · refine (hvw.trans hwu).mem (hv ▸ ?_)
      exact SendsOnly.mem_foldl (s := s.windowOpen) State.sendAgain_sendsOnly (fun u hu => State.mem_sendAgain hu hst howed) _ he (.refl _)
    · exact ((Within.refl [.regs, .coh] s).setCoh _).trans hwithin

end Sys2Proof.Machine

/-! SUPPORT. The host's memory requests and their answers (R233, R234, R304, R307 to R309, R401): the statement O24. -/

namespace Sys2Proof.Machine

set_option Elab.async false

section FromHost
variable {s : State} {u : Fin 8} {h : Nat} {f : State → State}

theorem State.fromHost_down (hlink : s.linkUp = false) : s.fromHost u h f = s := if_pos (by simp [hlink])

theorem State.fromHost_taken (hlink : s.linkUp = true) (hh : h < hdmBytes) (hreach : moduleDie u * 8 + dpaDie (hdmDpa h) ∉ s.mesh.unreachable) :
    s.fromHost u h f = f s :=
  (if_neg (by simp [hlink])).trans (if_neg (by simpa [hh] using hreach))

theorem State.fromHost_beyond (hlink : s.linkUp = true) (hh : hdmBytes ≤ h) : s.fromHost u h f = s.unsupported :=
  (if_neg (by simp [hlink])).trans (if_pos (by simp [hh]))

end FromHost

/-- A request of the host is open, and on its way to the home. -/
theorem State.hostSend_spec (s : State) (m : Msg) : (s.hostSend m).uci.hostOpen = s.uci.hostOpen ++ [m] ∧
    (s.hostSend m).coh.net = s.coh.net ++ [m] ∧ Within [.coh, .uci] s (s.hostSend m) :=
  ⟨rfl, rfl, ((Within.refl _ s).setUci _).setCoh _⟩

theorem testBit_setBit_same (v i : Nat) : (setBit v i).testBit i = true := by simp [setBit, Nat.testBit_or, Nat.testBit_two_pow_self]

theorem State.unsupported_spec (s : State) :
    s.unsupported.get fUciCntUnsup_count = (s.get fUciCntUnsup_count + 1) % 2 ^ fUciCntUnsup_count.width ∧
      s.unsupported.uci.rasStatus.testBit rasReceiver = true ∧ s.unsupported.uci.aerStatus.testBit aerInternal = true ∧
      s.unsupported.coh = s.coh ∧ Within [.regs, .uci] s s.unsupported ∧ RegsKept [fUciCntUnsup_count] s s.unsupported :=
  ⟨State.get_set_same .., testBit_setBit_same .., testBit_setBit_same .., s.addTo_coh fUciCntUnsup_count 1,
    ((s.addTo_within fUciCntUnsup_count 1).mono).setUci _, (RegsKept.refl _ s).set _ (by simp)⟩

theorem lineOf_spec (bulk : Bool) (a : Nat) :
    lineOf bulk a + 64 * ((a - lineOf bulk a) / 64) ≤ a ∧ a < lineOf bulk a + 64 * ((a - lineOf bulk a) / 64) + 64 := by
  have hle : lineOf bulk a ≤ a := Nat.sub_le ..
  omega

theorem hostModule_hostMsg (s : State) (k : Fin 8) (op h tag : Nat) : hostModule (s.hostMsg k op h tag) = k := by
  have hat : ∀ k : Fin 8, moduleAt (moduleDie k) (moduleSite k) = k := by decide
  exact hat k

/-! ## What the homes send the host -/

section Answers
variable {s : State} {m r : Msg}

theorem State.hostData_open (hr : s.hostTx m = some r) : s.hostData m = (s.emit (.drs (hostModule r) r.tag m.data)).hostGot r 1 := by
  rw [State.hostData, hr]

theorem State.hostCmp_open (hr : s.hostTx m = some r) : s.hostCmp m = (s.emit (.ndr (hostModule r) r.tag m.state)).hostGot r 2 := by
  rw [State.hostCmp, hr]

theorem State.hostCmp_stale (hr : s.hostTx m = none) (hdup : s.coh.duplicates = false) :
    s.hostCmp m = s.addTo (fDirCntStale_count m.router.1) 1 := by
  rw [State.hostCmp, hr]
  exact State.staleResponse_counted hdup _

theorem State.hostErr_open (hr : s.hostTx m = some r) :
    s.hostErr m = ((s.setHostOpen (s.uci.hostOpen.erase r)).addTo fUciCntMemerr_count 1).rasError rasMemory := by
  rw [State.hostErr, hr]

end Answers

/-- Settles O24: the host's requests are translated and stay open, and the homes' answers leave on the module they came from. -/
theorem hostMemory : Obligations.HostMemory := by
  unfold Obligations.HostMemory
  refine ⟨fun s k h tag mv m hlink hh hreach hm => ?_, fun s k h tag m mv hlink hh hreach hmv hm => ?_,
    fun s k h tag en m mv bs hlink hh hreach hmv hm => ?_, fun s k h kept hlink hh hreach => ?_, fun s k op h tag hown => ?_,
    fun s k h tag mv hlink hh => ?_, fun s r k h tag en bs hlink => ⟨?_, fun hh hreach => ⟨?_, ?_⟩, fun hh => ?_⟩,
    fun s r k h tag mv kept hlink => ⟨?_, ?_, ?_⟩, fun s h hh => ?_, fun s w m r hmay hw hhost hr => ⟨?_, ?_⟩,
    fun s w m r hmay hw hr => ?_, fun s m hmay hr hdup => ?_, fun s m r hmay hhost hr => ?_, fun s m r hr hop => ?_,
    fun s m hmay hlink => ⟨?_, ?_⟩, fun s m hmay hlink => ⟨?_, ?_⟩⟩
  · refine ⟨s.hostSend m, congrArg Host.Outcome.next ((State.fromHost_taken hlink hh hreach).trans ?_), s.hostSend_spec m⟩
    subst hm
    cases mv with
    | s => rfl
    | a => rfl
    | i => rfl
  · refine ⟨s.hostSend m, congrArg Host.Outcome.next ((State.fromHost_taken hlink hh hreach).trans ?_), s.hostSend_spec m⟩
    subst hm
    cases mv with
    | i => rfl
    | a => rfl
    | s => exact absurd rfl hmv
  · refine ⟨s.hostSend m, congrArg Host.Outcome.next ((State.fromHost_taken hlink hh hreach).trans ?_), s.hostSend_spec m⟩
    subst hm
    cases mv with
    | i => rfl
    | s => rfl
    | a => exact absurd rfl hmv
  · exact congrArg Host.Outcome.next (State.fromHost_taken hlink hh hreach)
  · exact ⟨hostModule_hostMsg s k op h tag, if_pos hown, rfl, lineOf_spec _ _⟩
  · exact ⟨s.unsupported, congrArg Host.Outcome.next (State.fromHost_beyond hlink hh), s.unsupported_spec⟩
  · exact congrArg Host.Outcome.next (if_pos hlink)
  · exact congrArg Host.Outcome.next (State.fromHost_taken hlink hh hreach)
  · exact congrArg Host.Outcome.next (State.fromHost_taken hlink hh hreach)
  · exact congrArg Host.Outcome.next (if_pos (by simp [hlink, hh]))
  · exact congrArg Host.Outcome.next (State.fromHost_down hlink)
  · exact congrArg Host.Outcome.next (State.fromHost_down hlink)
  · exact congrArg Host.Outcome.next (if_neg (by simp [hlink]))
  · exact congrArg Host.Outcome.next (if_neg (by simp [Nat.not_le.2 hh]))
  · subst hw
    exact (if_neg (by simp [hmay])).trans (congrArg Host.Outcome.next ((if_pos hhost).trans (State.hostData_open (s := s.arrive m) hr)))
  · subst hw
    exact (if_neg (by simp [hmay])).trans (congrArg Host.Outcome.next ((if_pos hhost).trans (State.hostData_open (s := s.arrive m) hr)))
  · subst hw
    exact (if_neg (by simp [hmay])).trans (congrArg Host.Outcome.next (State.hostCmp_open (s := s.arrive m) hr))
  · exact (if_neg (by simp [hmay])).trans (congrArg Host.Outcome.next (State.hostCmp_stale (s := s.arrive m) hr hdup))
  · refine ⟨_, (if_neg (by simp [hmay])).trans
      (congrArg Host.Outcome.next ((if_pos hhost).trans (State.hostErr_open (s := s.arrive m) hr))), rfl, testBit_setBit_same .., ?_, rfl, ?_⟩
    · exact State.get_set_same ..
    · exact ((((Within.refl [.regs, .coh, .uci] s).setCoh _).setUci _).trans (State.addTo_within ..).mono).setUci _
  · rw [State.hostGot, if_pos hop]
    rfl
  · exact (if_neg (by simp [hmay])).trans (congrArg Host.Outcome.next (if_pos hlink))
  · exact (if_neg (by simp [hmay])).trans (congrArg Host.Outcome.next (if_pos hlink))
  · exact (if_neg (by simp [hmay])).trans (congrArg Host.Outcome.next (if_neg (by exact Bool.eq_false_iff.1 hlink)))
  · exact (if_neg (by simp [hmay])).trans (congrArg Host.Outcome.next (if_neg (by exact Bool.eq_false_iff.1 hlink)))

end Sys2Proof.Machine

/-! SUPPORT. The spill filter and its host (R246, R247, R298): the statement O25. -/

namespace Sys2Proof.Machine

set_option Elab.async false

/-! ## Entries of the filter -/

theorem State.filterEnt_line {s : State} {line : Nat} {e : FilterEnt} (h : s.filterEnt line = some e) : e.line = line :=
  eq_of_beq (List.find?_some (p := fun e : FilterEnt => e.line == line) h)

theorem State.filterEnt_putFilter (s : State) (e : FilterEnt) : (s.putFilter e).filterEnt e.line = some e := by
  simp [State.filterEnt, State.putFilter, State.setFilter]

theorem State.filterEnt_freeFilter (s : State) (line : Nat) : (s.freeFilter line).filterEnt line = none := by
  rw [State.filterEnt, List.find?_eq_none]
  intro x hx
  simpa using (List.mem_filter.1 hx).2

theorem State.serveFilter_of_none {s : State} (h : s.coh.filterWait = []) : s.serveFilter = s := by
  simp [State.serveFilter, h, State.filterServeWaiting, State.filterPass]

/-! ## Requests -/

section Requests
variable {s : State} {m : Msg}

theorem State.arriveRequest_spill {op : Nat} (hop : m.opcode = op) (hspill : m.spill = true) :
    s.arriveRequest m op = (s.arrive m).filterTake m := by
  have hm : { m with opcode := op } = m := by rw [← hop]
  rw [State.arriveRequest]
  dsimp only
  rw [if_pos (by simp [hspill]), hm]

/-- A request that need not wait for its line acts. -/
theorem State.filterTake_acts {u : State} (hwait : s.coh.filterWait = []) (hserve : s.filterServe m = (true, u)) :
    s.filterTake m = u.serveFilter := by
  rw [State.filterTake]
  simp [hwait, hserve]

theorem State.issueWrCur_eq (s : State) (m : Msg) : s.issueWrCur m = s.hostIssue .wrCur m (wbmOverLine m).1 (wbmOverLine m).2 := rfl

theorem State.hostIssue_up (hlink : s.linkUp = true) (op : HostOp) (mask : Nat) (data : List Byte) :
    s.hostIssue op m mask data = (s.setHostReqs (s.coh.hostReqs ++ [⟨op, lineOf m.bulk m.addr, m, s.clock.now⟩])).emit
      (.cacheReq op (lineOf m.bulk m.addr) mask data) := by
  rw [State.linkUp] at hlink
  exact if_neg (by simp [hlink])

theorem State.hostIssue_down (hlink : s.linkUp = false) (op : HostOp) (mask : Nat) (data : List Byte) :
    s.hostIssue op m mask data = (s.filterRespond m 0x14).spillFault m := by
  rw [State.linkUp] at hlink
  exact if_pos (by simp [hlink])

/-- A read of a line without an entry, which no write and no displaced line holds up, is asked of the host. -/
theorem State.filterServe_rdN (hop : m.opcode = 2) (hent : s.filterEnt (lineOf m.bulk m.addr) = none) (hreqs : s.coh.hostReqs = [])
    (hfree : ∀ e ∈ s.coh.filter, e.req = none) : s.filterServe m = (true, s.hostIssue .rdCurr m 0 []) := by
  have howed : (s.coh.filter.any fun e => e.collecting && e.pending == .evict && e.req.any fun r => lineOf r.bulk r.addr == lineOf m.bulk m.addr)
      = false := by
    rw [List.any_eq_false]
    intro e he
    simp [hfree e he]
  rw [State.filterServe]
  simp [hent, hop, hreqs, howed]

theorem State.filterServe_wbm (hop : m.opcode = 5) (hent : s.filterEnt (lineOf m.bulk m.addr) = none) :
    s.filterServe m = (true, s.issueWrCur m) := by
  rw [State.filterServe]
  simp [hent, hop]

end Requests

/-! ## What the host returns -/

theorem State.filterRespond_within (s : State) (m : Msg) (op : Nat) (data : List Byte) : Within [.coh] s (s.filterRespond m op data) := by
  rw [State.filterRespond]
  split
  · exact Within.refl _ s
  · exact (Within.refl _ s).setCoh _

theorem State.filterRespond_filter (s : State) (m : Msg) (op : Nat) (data : List Byte) :
    (s.filterRespond m op data).coh.filter = s.coh.filter ∧ (s.filterRespond m op data).coh.hostReqs = s.coh.hostReqs ∧
      (s.filterRespond m op data).regs = s.regs := by
  rw [State.filterRespond]
  split <;> exact ⟨rfl, rfl, rfl⟩

theorem State.deadAt_congr {s t : State} (h : t.regs = s.regs) (d a : Nat) : t.deadAt d a = s.deadAt d a := by
  rw [State.deadAt, State.get, h]
  rfl

section HostData
variable {s : State} {hpa : Nat} {bytes : List Byte} {r : HostReq}

theorem find_hostReq (hreqs : s.coh.hostReqs = [r]) (hop : r.op ≠ .wrCur) (hline : r.line = lineOf r.msg.bulk hpa) :
    (s.coh.hostReqs.find? fun r => r.op != .wrCur && r.line == lineOf r.msg.bulk hpa) = some r := by
  rw [hreqs]
  exact List.find?_cons_of_pos (by simp [hop, hline])

theorem exec_spillHostData_poisoned (hreqs : s.coh.hostReqs = [r]) (hop : r.op ≠ .wrCur) (hline : r.line = lineOf r.msg.bulk hpa) :
    exec (.spillHostData hpa bytes true) s = .next (((s.setHostReqs []).filterRespond r.msg 0x14).spillFault r.msg).serveFilter := by
  show execSpillHostData hpa bytes true s = _
  rw [execSpillHostData, find_hostReq hreqs hop hline]
  simp [hreqs]

theorem exec_spillHostData_rdCurr (hreqs : s.coh.hostReqs = [r]) (hop : r.op = .rdCurr) (hline : r.line = lineOf r.msg.bulk hpa) :
    exec (.spillHostData hpa bytes false) s = .next ((s.setHostReqs []).filterRespond r.msg 0x10
      (slice bytes (readSpan r.msg).1 (readSpan r.msg).2)) := by
  show execSpillHostData hpa bytes false s = _
  rw [execSpillHostData, find_hostReq hreqs (by simp [hop]) hline]
  simp [hreqs, hop]

/-- Data for a half that is not dead, of a line without an entry. -/
theorem exec_spillHostData_rdShared {v : State} (hreqs : s.coh.hostReqs = [r]) (hop : r.op = .rdShared)
    (hline : r.line = lineOf r.msg.bulk hpa) (hent : s.filterEnt r.line = none) (halive : s.deadAt (filterDie r.line) r.msg.source = false)
    (hv : (s.setHostReqs []).filterRespond r.msg 0x10 (slice bytes (readSpan r.msg).1 (readSpan r.msg).2) = v) :
    exec (.spillHostData hpa bytes false) s = .next (v.putFilter { line := r.line, bulk := r.msg.bulk, vector := 2 ^ r.msg.source }) := by
  obtain ⟨hfilter, -, hregs⟩ := (s.setHostReqs []).filterRespond_filter r.msg 0x10 (slice bytes (readSpan r.msg).1 (readSpan r.msg).2)
  rw [hv] at hfilter hregs
  have hent' : v.filterEnt r.line = none := by
    rw [State.filterEnt, hfilter]
    exact hent
  have halive' : v.deadAt (filterDie r.line) r.msg.source = false := (State.deadAt_congr hregs _ _).trans halive
  show execSpillHostData hpa bytes false s = _
  rw [execSpillHostData, find_hostReq hreqs (by simp [hop]) hline]
  simp [hreqs, hop, hv, hent', halive']

theorem exec_wrcurComplete (hreqs : s.coh.hostReqs = [r]) (hop : r.op = .wrCur) (hline : r.line = lineOf r.msg.bulk hpa) :
    exec (.wrcurComplete hpa) s = .next ((s.setHostReqs []).filterRespond r.msg 0x12).serveFilter := by
  show execWrcurComplete hpa s = _
  have hfind : (s.coh.hostReqs.find? fun r => r.op == .wrCur && r.line == lineOf r.msg.bulk hpa) = some r := by
    rw [hreqs]
    exact List.find?_cons_of_pos (by simp [hop, hline])
  rw [execWrcurComplete, hfind]
  simp [hreqs]

end HostData

/-! ## Snoops of the host -/

section Snoops
variable {s : State} {hpa : Nat} {e : FilterEnt}

theorem State.snoopKeep_none (h : s.filterAt hpa = none) : s.snoopKeep hpa = s.emit (.snpRsp hpa 0) := by rw [State.snoopKeep, h]

theorem State.snoopKeep_shared (h : s.filterAt hpa = some e) (hc : e.collecting = false) :
    s.snoopKeep hpa = s.emit (.snpRsp hpa 2) := by
  rw [State.snoopKeep, h]
  exact if_neg (by simp [hc])

theorem State.snoopKeep_collecting (h : s.filterAt hpa = some e) (hc : e.collecting = true) :
    s.snoopKeep hpa = s.putFilter { e with answers := e.answers ++ [0] } := by
  rw [State.snoopKeep, h]
  exact if_pos hc

theorem exec_snpInv_none (h : s.filterAt hpa = none) : exec (.snpInv hpa) s = .next (s.emit (.snpRsp hpa 0)) := by
  show execSnpInv hpa s = _
  rw [execSnpInv, h]

theorem exec_snpInv_collecting (h : s.filterAt hpa = some e) (hc : e.collecting = true) :
    exec (.snpInv hpa) s = .next (s.putFilter { e with answers := e.answers ++ [0] }) := by
  show execSnpInv hpa s = _
  rw [execSnpInv, h]
  exact if_pos hc

theorem exec_snpInv_shared (h : s.filterAt hpa = some e) (hc : e.collecting = false) :
    exec (.snpInv hpa) s = .next (s.filterCollect e (halvesIn e.vector) .evict none [1]).serveFilter := by
  show execSnpInv hpa s = _
  rw [execSnpInv, h]
  exact if_neg (by simp [hc])

end Snoops

/-- The filter's Inv for half `n`. -/
def State.filterInvMsg (s : State) (e : FilterEnt) (n : Fin 16) : Msg :=
  { opcode := 0x18, srcDie := filterDie e.line, srcSite := filterSite e.line, part := s.spillOwner e.line,
    gen := s.generation (s.spillOwner e.line), addr := e.line, bulk := e.bulk, requester := n.val, dst := .half n, spill := true }

/-- An entry that one half holds begins to collect. -/
theorem State.filterCollect_single (s : State) (e : FilterEnt) (n : Fin 16) (p : Pending) (req : Option Msg) (answers : List Nat) :
    s.filterCollect e (halvesIn (2 ^ n.val)) p req answers = (s.send (s.filterInvMsg e n)).putFilter
      { e with collecting := true, owed := 2 ^ n.val, pending := p, req := req, answers := answers } := by
  rw [halvesIn_single, State.filterCollect]
  simp only [List.isEmpty_cons, Bool.false_eq_true, if_false, List.map_cons, List.map_nil, List.foldl_cons, List.foldl_nil, Nat.zero_add,
    State.filterInv, dif_pos n.isLt, State.filterInvMsg]

/-- The last acknowledgement of an entry that a host snoop ended. -/
theorem State.filterIAck_last {s : State} {line n : Nat} {e : FilterEnt} (he : s.filterEnt line = some e) (hc : e.collecting = true)
    (howed : e.owed = 2 ^ n) (hp : e.pending = .evict) (hreq : e.req = none) (hans : e.answers = [1]) :
    s.filterIAck line n = ((s.freeFilter line).emit (.snpRsp line 1)).serveFilter := by
  have hline := State.filterEnt_line he
  have hbit : (e.collecting && (2 ^ n).testBit n) = true := by simp [hc]
  rw [State.filterIAck, he]
  simp only [howed, hbit, if_true, clearBit_two_pow, State.filterDone, hp, hreq, hans, List.foldl_cons, List.foldl_nil, hline]

/-- Settles O25: the filter asks the host, answers requesters with what the host returns, and takes copies back for the host's snoops. -/
theorem spillFilter : Obligations.SpillFilter := by
  unfold Obligations.SpillFilter
  refine ⟨fun s w m hmay hlink hw hop hspill hwait hreqs hfree hent => ?_, fun s w m hmay hlink hw hop hspill hwait hent => ?_,
    fun s w m hmay hlink hw hop hspill hwait hent => ?_, fun s hpa bytes r hreqs hop hline hent hsrc halive => ?_,
    fun s hpa bytes r hreqs hop hline => exec_spillHostData_rdCurr hreqs hop hline,
    fun s hpa bytes r hreqs hop hline => exec_spillHostData_poisoned hreqs hop hline,
    fun s hpa r hreqs hop hline => exec_wrcurComplete hreqs hop hline, fun s hpa bytes p hreqs => ⟨?_, ?_⟩,
    fun s hpa h => ⟨exec_snpInv_none h, congrArg Host.Outcome.next (State.snoopKeep_none h),
      congrArg Host.Outcome.next (State.snoopKeep_none h)⟩,
    fun s hpa e n h hc hvec hwait => ?_,
    fun s hpa e h hc => ⟨congrArg Host.Outcome.next (State.snoopKeep_shared h hc), congrArg Host.Outcome.next (State.snoopKeep_shared h hc)⟩,
    fun s hpa e h hc => ⟨exec_snpInv_collecting h hc, congrArg Host.Outcome.next (State.snoopKeep_collecting h hc),
      congrArg Host.Outcome.next (State.snoopKeep_collecting h hc)⟩,
    fun s m e hmay hspill he hc hsrc howed hp hreq hans hwait => ?_⟩
  · subst hw
    refine (if_neg (by simp [hmay])).trans (congrArg Host.Outcome.next ?_)
    rw [State.arriveRequest_spill hop hspill,
      State.filterTake_acts (s := s.arrive m) hwait (State.filterServe_rdN hop hent hreqs hfree), State.hostIssue_up (s := s.arrive m) hlink,
      State.serveFilter_of_none (by exact hwait)]
    simp [State.arrive, hreqs]
  · subst hw
    refine (if_neg (by simp [hmay])).trans (congrArg Host.Outcome.next ?_)
    rw [State.arriveRequest_spill hop hspill, State.filterTake_acts (s := s.arrive m) hwait (State.filterServe_wbm hop hent),
      State.issueWrCur_eq, State.hostIssue_up (s := s.arrive m) hlink, State.serveFilter_of_none (by exact hwait)]
    rfl
  · subst hw
    refine (if_neg (by simp [hmay])).trans (congrArg Host.Outcome.next ?_)
    rw [State.arriveRequest_spill hop hspill, State.filterTake_acts (s := s.arrive m) hwait (State.filterServe_wbm hop hent),
      State.issueWrCur_eq, State.hostIssue_down (s := s.arrive m) hlink]
  · obtain ⟨-, hkept, -⟩ := (s.setHostReqs []).filterRespond_filter r.msg 0x10 (slice bytes (readSpan r.msg).1 (readSpan r.msg).2)
    exact ⟨_, exec_spillHostData_rdShared hreqs hop hline hent halive rfl, hkept,
      State.filterEnt_putFilter _ { line := r.line, bulk := r.msg.bulk, vector := 2 ^ r.msg.source },
      (((Within.refl _ s).setCoh _).trans (State.filterRespond_within ..)).setCoh _⟩
  · show execSpillHostData hpa bytes p s = _
    rw [execSpillHostData, hreqs]
    rfl
  · show execWrcurComplete hpa s = _
    rw [execWrcurComplete, hreqs]
    rfl
  · refine ⟨(s.send (s.filterInvMsg e n)).putFilter { e with collecting := true, owed := 2 ^ n.val, pending := .evict, req := none, answers := [1] },
      ?_, State.filterEnt_putFilter _ { e with collecting := true, owed := 2 ^ n.val, pending := .evict, req := none, answers := [1] },
      rfl, rfl, ((Within.refl _ s).setCoh _).setCoh _⟩
    have hcollect := (congrArg (fun v => s.filterCollect e (halvesIn v) .evict none [1]) hvec).trans (State.filterCollect_single ..)
    rw [exec_snpInv_shared h hc]
    rw [hcollect]
    exact congrArg Host.Outcome.next (State.serveFilter_of_none hwait)
  · refine ⟨((s.arrive m).freeFilter m.addr).emit (.snpRsp m.addr 1), (if_neg (by simp [hmay])).trans (congrArg Host.Outcome.next ?_),
      State.filterEnt_freeFilter (s.arrive m) m.addr, rfl, (((Within.refl _ s).setCoh _).setCoh _).setOut _⟩
    rw [if_pos hspill, State.filterIAck_last (s := s.arrive m) he hc howed hp hreq hans]
    exact State.serveFilter_of_none hwait

end Sys2Proof.Machine

/-! SUPPORT. Configuration requests, function-level reset, vectors and the sideband (R306, R310, R321, R489, R490): the statement
O26. -/

namespace Sys2Proof.Machine

set_option Elab.async false

/-! ## Configuration space -/

theorem State.cfgWrite_spec (s : State) (fn off v : Nat) :
    (s.cfgWrite fn off v).uci.cfg = mapSet 0 s.uci.cfg (fn * 4096 + off) v ∧ Within [.uci] s (s.cfgWrite fn off v) := by
  have hw : Within [.uci] s (s.setUci { s.uci with cfg := mapSet 0 s.uci.cfg (fn * 4096 + off) v }) := (Within.refl _ s).setUci _
  rw [State.cfgWrite]
  repeat' split
  · exact ⟨rfl, hw⟩
  · exact ⟨rfl, hw.setUci _⟩
  · exact ⟨rfl, hw.setUci _⟩
  · exact ⟨rfl, hw.setUci _⟩
  · exact ⟨rfl, hw⟩

/-- The pointer to the first structure, and the interrupt pin, are the first two dwords that the model names. -/
theorem State.cfgDword_pointer (s : State) (fn : Nat) : ∃ raw, s.cfgDword fn 0x34 = withBits raw 0 8 (capPos fn 0x10) % 2 ^ 32 :=
  ⟨_, rfl⟩

theorem State.cfgDword_pin (s : State) (fn : Nat) : ∃ raw, s.cfgDword fn 0x3C = withBits raw 8 8 0 % 2 ^ 32 := ⟨_, rfl⟩

theorem withBits_low_mod (raw v : Nat) : withBits raw 0 8 v % 2 ^ 32 % 256 = v % 256 := by
  rw [withBits]
  omega

theorem withBits_middle_zero (raw : Nat) : withBits raw 8 8 0 % 2 ^ 32 / 256 % 256 = 0 := by
  rw [withBits]
  omega

/-! ## Functions and vectors -/

theorem State.resetFunction_virtual (s : State) (n : Nat) : s.resetFunction (n + 1) = s.setUci { s.uci with
    cfg := mapClear s.uci.cfg ((n + 1) * 4096) ((n + 1 + 1) * 4096), vectors := mapClear s.uci.vectors ((n + 1) * 32) ((n + 1 + 1) * 32) } := by
  rw [State.resetFunction]
  exact if_neg (Nat.succ_ne_zero n)

theorem State.vector_setVector (s : State) (fn vec : Nat) (v : Vector) : (s.setVector fn vec v).vector fn vec = v :=
  mapGet_mapSet_same ..

theorem State.setVector_setVector_vector (s : State) (fn vec : Nat) (v v' : Vector) :
    ((s.setVector fn vec v).setVector fn vec v').vector fn vec = v' := mapGet_mapSet_same ..

theorem State.setVector_within (s : State) (fn vec : Nat) (v : Vector) : Within [.uci] s (s.setVector fn vec v) := (Within.refl _ s).setUci _

theorem State.message_up {s : State} (hlink : s.linkUp = true) (fn vec : Nat) : s.message fn vec = s.emit (.msix fn vec) := if_pos hlink

section Unmask
variable {s : State} {fn vec : Nat}

theorem State.unmask_quiet (h : (s.vector fn vec).pending = false) :
    s.unmask fn vec = s.setVector fn vec { s.vector fn vec with masked := false, pending := false } := if_pos (by simp [h])

theorem State.unmask_held (h : (s.vector fn vec).pending = true) (hsent : (s.vector fn vec).sent = true) :
    s.unmask fn vec = (s.setVector fn vec { s.vector fn vec with masked := false, pending := false }).setVector fn vec
      { s.vector fn vec with masked := false, pending := false, held := true } :=
  (if_neg (by simp [h])).trans (if_pos hsent)

theorem State.unmask_sends (h : (s.vector fn vec).pending = true) (hsent : (s.vector fn vec).sent = false) :
    s.unmask fn vec = ((s.setVector fn vec { s.vector fn vec with masked := false, pending := false }).setVector fn vec
      { s.vector fn vec with masked := false, pending := false, sent := true }).message fn vec :=
  (if_neg (by simp [h])).trans (if_neg (by simp [hsent]))

end Unmask

/-! ## The sideband -/

section Sideband
variable {s : State} {off : Nat}

theorem exec_sbRead (hopen : s.sidebandOpen = true) (hoff : off < 2 ^ 32) :
    exec (.sbRead off) s = .next ((s.read 0x00 .pf off 8).2.2.sidebandReply (s.read 0x00 .pf off 8).1 (s.read 0x00 .pf off 8).2.1) := by
  refine (if_neg (by simp [hopen])).trans ?_
  rw [Nat.mod_eq_of_lt hoff]

/-- The answer to a write: eight free bytes and the status. -/
def State.writeReply (s : State) (bad : Bool) : State := s.draw.2.sidebandReply s.draw.1 bad

theorem State.writeReply_spec (s : State) (bad : Bool) : ∃ bs : List Byte, bs.length = 8 ∧
    (s.writeReply bad).out = s.out ++ [.sideband (bs ++ [if bad then 2#8 else 0#8])] ∧ (s.writeReply bad).regs = s.regs ∧
    Within [.out, .free] s (s.writeReply bad) :=
  ⟨toLE 8 s.draw.1, length_toLE .., rfl, rfl, ((Within.refl _ s).setFree _).setOut _⟩

theorem exec_sbWrite (hopen : s.sidebandOpen = true) (hoff : off < 2 ^ 32) (v : Word) :
    exec (.sbWrite off v) s = .next ((s.write 0x00 .pf off 8 v.toNat).2.writeReply (s.write 0x00 .pf off 8 v.toNat).1) := by
  refine (if_neg (by simp [hopen])).trans ?_
  rw [Nat.mod_eq_of_lt hoff]
  rfl

theorem State.target_unaligned (sp : Space) (h : off % 8 ≠ 0) (hmsix : msixOff sp off = none) : s.target sp off 8 = .narrow := by
  rw [State.target, hmsix]
  exact if_pos (by simp [h])

theorem State.read_narrow {src width : Nat} {sp : Space} (h : s.target sp off width = .narrow) :
    s.read src sp off width = (allOnes width, true, s.badAccess src sp off width) := by rw [State.read, h]

theorem State.read_reg {src width a : Nat} {sp : Space} (h : s.target sp off width = .reg a) :
    s.read src sp off width = (s.readReg a, false, s) := by rw [State.read, h]

theorem State.write_reg {src width a v : Nat} {sp : Space} (h : s.target sp off width = .reg a) :
    s.write src sp off width v = (false, s.writeReg a v) := by rw [State.write, h]

theorem State.write_unassigned {src width v : Nat} {sp : Space} (h : s.target sp off width = .unassigned) :
    s.write src sp off width v = (true, s.badAccess src sp off width) := by rw [State.write, h]

end Sideband

theorem toLE_allOnes : toLE 8 (allOnes 8) = List.replicate 8 255#8 := by decide

/-- Settles O26: configuration space, function resets, vectors and the sideband do what their rules name. -/
theorem functionsAndSideband : Obligations.FunctionsAndSideband := by
  unfold Obligations.FunctionsAndSideband
  refine ⟨⟨fun s fn off v hlink hoff hdword => ?_, fun s fn off v hlink hoff hdword => ?_, fun s fn => ⟨?_, ?_⟩, fun s fn off w v h => ?_,
    fun s n hlink => ?_, fun s n hlink => ?_, fun s fn vec hvec hpend => ?_, fun s fn vec hvec hpend hsent hlink => ?_,
    fun s fn vec hvec hpend hsent => ?_, fun s vec hvec => ?_⟩,
    fun s a hopen => ?_, fun s a hopen haddr => ?_, fun s a haddr => ?_, fun s hopen => ?_, fun s off hopen hoff halign hmsix => ?_,
    fun s off a hopen hoff hreg => ?_, fun s off a v hopen hoff hreg => ?_, fun s off v hopen hoff hnone => ?_,
    fun s x v hshut => ⟨?_, ?_, ?_, ?_, ?_⟩⟩
  · obtain ⟨hcfg, hw⟩ := s.cfgWrite_spec fn off v.toNat
    refine ⟨s.cfgWrite fn off v.toNat, congrArg Host.Outcome.next ((if_neg ?_).trans (if_pos rfl)), ?_, fun k hk => ?_, hw⟩
    · simp [hlink, hoff, hdword]
    · rw [hcfg, mapGet_mapSet_same]
    · rw [hcfg, mapGet_mapSet_ne _ _ _ hk]
  · exact congrArg Host.Outcome.next ((if_neg (by simp [hlink, hoff, hdword])).trans (if_neg Bool.false_ne_true))
  · obtain ⟨raw, hraw⟩ := s.cfgDword_pointer fn
    rw [hraw, withBits_low_mod]
  · obtain ⟨raw, hraw⟩ := s.cfgDword_pin fn
    rw [hraw, withBits_middle_zero]
  · refine congrArg Host.Outcome.next (if_pos ?_)
    rcases h with h | h | h <;> simp [h]
  · refine ⟨s.resetFunction (n.val + 1), congrArg Host.Outcome.next (if_pos hlink), fun o ho => ?_, fun v hv => ?_, fun f v hf hv => ?_, ?_⟩
    · rw [State.resetFunction_virtual, State.setUci, mapGet_mapClear, if_pos (by omega)]
    · rw [State.resetFunction_virtual, State.vector, State.setUci, mapGet_mapClear, if_pos (by omega)]
    · rw [State.resetFunction_virtual, State.vector, State.setUci, mapGet_mapClear, if_neg (by omega), State.vector]
    · rw [State.resetFunction_virtual]
      exact (Within.refl _ s).setUci _
  · exact congrArg Host.Outcome.next (if_neg (by simp [hlink]))
  · exact congrArg Host.Outcome.next ((if_pos hvec).trans (State.unmask_quiet hpend))
  · refine ⟨_, congrArg Host.Outcome.next ((if_pos hvec).trans ((State.unmask_sends hpend hsent).trans (State.message_up (by exact hlink) ..))),
      rfl, State.setVector_setVector_vector .., ?_⟩
    exact (((State.setVector_within ..).trans (State.setVector_within ..)).mono).setOut _
  · refine ⟨_, congrArg Host.Outcome.next ((if_pos hvec).trans (State.unmask_held hpend hsent)), rfl,
      State.setVector_setVector_vector .., (State.setVector_within ..).trans (State.setVector_within ..)⟩
  · exact congrArg Host.Outcome.next (if_neg (Nat.not_lt.2 hvec))
  · exact ⟨s.setUci { s.uci with dynAddr := a % 128 }, congrArg Host.Outcome.next (if_pos hopen), rfl, rfl, (Within.refl _ s).setUci _⟩
  · exact ⟨s.setUci { s.uci with dynAddr := a % 128 }, congrArg Host.Outcome.next (if_pos (by simp [hopen, haddr])), rfl,
      (Within.refl _ s).setUci _⟩
  · exact congrArg Host.Outcome.next (if_neg (by simp [haddr]))
  · exact ⟨s.setUci { s.uci with ibi := true }, congrArg Host.Outcome.next (if_pos hopen), rfl, (Within.refl _ s).setUci _⟩
  · rw [exec_sbRead hopen hoff, State.read_narrow (State.target_unaligned .pf halign hmsix)]
    simp only [State.sidebandReply, toLE_allOnes, if_true, State.badAccess, spaceFn]
  · rw [exec_sbRead hopen hoff, State.read_reg hreg]
    rfl
  · obtain ⟨bs, hlen, hout, hregs, -⟩ := (s.writeReg a v.toNat).writeReply_spec false
    exact ⟨_, bs, (exec_sbWrite hopen hoff v).trans (by rw [State.write_reg hreg]), hlen, hout, hregs⟩
  · obtain ⟨bs, hlen, hout, hregs, hw⟩ := (s.event 0 1 off 2048).writeReply_spec true
    exact ⟨_, bs, (exec_sbWrite hopen hoff v).trans (by rw [State.write_unassigned hnone, State.badAccess, spaceFn]), hlen, hregs, hout,
      ((State.event_within s 0 1 off 2048 none).mono).trans hw.mono⟩
  · exact congrArg Host.Outcome.next (if_neg (by simp [hshut]))
  · exact congrArg Host.Outcome.next (if_neg (by simp [hshut]))
  · exact congrArg Host.Outcome.next (if_neg (by simp [hshut]))
  · exact if_pos (by simp [hshut])
  · exact if_pos (by simp [hshut])

end Sys2Proof.Machine

/-! SUPPORT. The UCIe modules and the host link (R301, R303, R305, R390): the statement O27. -/

namespace Sys2Proof.Machine

set_option Elab.async false

theorem State.get_foldl {α : Type} {f : State → α → State} {g : Fld} (hf : ∀ s a, (f s a).get g = s.get g) (l : List α) (s : State) :
    (l.foldl f s).get g = s.get g := by
  induction l generalizing s with
  | nil => rfl
  | cons a l ih => exact (ih _).trans (hf s a)

theorem State.get_of_regs {s t : State} (h : t.regs = s.regs) (f : Fld) : t.get f = s.get f := by rw [State.get, h, State.get]

theorem State.startFail_regs (s : State) (n : Nat) :
    (s.startFail n).regs = ((s.set fDevStart_failed_stage n).set fDevPins_fault_driven 1).regs := rfl

theorem State.startFail_within (s : State) (n : Nat) : Within [.regs, .pins] s (s.startFail n) :=
  (State.setAll_within ..).mono.setPins _

theorem State.startFail_failed (s : State) (n : Nat) : (s.startFail n).pins.failed = true := rfl

theorem State.get_startFail (s : State) (n : Nat) : (s.startFail n).get fDevStart_failed_stage = n % 8 ∧
    (s.startFail n).get fDevPins_fault_driven = 1 := by
  rw [State.get_of_regs (s.startFail_regs n), State.get_of_regs (s.startFail_regs n), State.get_set_same,
    State.get_set_ne (f := fDevPins_fault_driven) (g := fDevStart_failed_stage) _ _ (by decide), State.get_set_same]
  exact ⟨rfl, rfl⟩

theorem State.get_startFail_ne (s : State) (n : Nat) {g : Fld} (hg : g.key ≠ fDevStart_failed_stage.key)
    (hg' : g.key ≠ fDevPins_fault_driven.key) : (s.startFail n).get g = s.get g := by
  rw [State.get_of_regs (s.startFail_regs n), State.get_set_ne _ _ hg', State.get_set_ne _ _ hg]

/-! ## The host's code (R301) -/

/-- What is read of the host die is kept. -/
def State.hostIdShown (s : State) (code stepping ms : Nat) : State :=
  (s.advanceTo (ms * 1000000)).setAll [(fUciHostId_host_code, code), (fUciHostId_stepping, stepping)]

theorem State.hostIdShown_within (s : State) (code stepping ms : Nat) : Within [.regs, .clock] s (s.hostIdShown code stepping ms) :=
  ((Within.refl _ s).setClock _).trans (State.setAll_within ..).mono

theorem State.get_hostIdShown (s : State) (code stepping ms : Nat) :
    (s.hostIdShown code stepping ms).get fUciHostId_host_code = code % 2 ^ fUciHostId_host_code.width ∧
      (s.hostIdShown code stepping ms).get fUciHostId_fitted = s.get fUciHostId_fitted :=
  ⟨(State.get_set_ne _ _ (by decide)).trans (State.get_set_same ..),
    (State.get_set_ne _ _ (by decide)).trans ((State.get_set_ne _ _ (by decide)).trans rfl)⟩

/-- A host on the list ends the stage. -/
def State.hostFits (s : State) : State := (s.set fUciHostId_fitted 1).setPins { s.pins with stage := 3 }

theorem State.hostFits_spec (s : State) : s.hostFits.get fUciHostId_host_code = s.get fUciHostId_host_code ∧
    s.hostFits.get fUciHostId_fitted = 1 ∧ s.hostFits.pins.stage = 3 ∧ s.hostFits.pins.failed = s.pins.failed ∧
    Within [.regs, .pins] s s.hostFits := by
  have hregs : s.hostFits.regs = (s.set fUciHostId_fitted 1).regs := rfl
  rw [State.get_of_regs hregs, State.get_of_regs hregs, State.get_set_same, State.get_set_ne _ _ (by decide)]
  exact ⟨rfl, rfl, rfl, rfl, ((State.set_within ..).mono).setPins _⟩

theorem exec_hostIdRead {s : State} (hstage : s.atStage 3 = true) (code stepping ms : Nat) :
    exec (.hostIdRead code stepping ms) s =
      if code % 256 = 0 then
        .next (if 1000 ≤ ms then (s.hostIdShown code stepping ms).startFail 3 else s.hostIdShown code stepping ms)
      else if Config.qualifiedHost (code % 256) then
        .next (s.hostIdShown code stepping ms).hostFits
      else .next ((s.hostIdShown code stepping ms).startFail 3) :=
  if_neg (by simp [hstage])

/-! ## The state of a module -/

/-- The fields that a module's change of state writes. -/
def moduleFields (k : Nat) : List Fld := [fUciMod_state k, fUciMod_stitch k, fUciStatus_active]

theorem State.get_setModule (s : State) (k st : Nat) {g : Fld} (hg : ∀ f ∈ moduleFields k, g.key ≠ f.key) :
    (s.setModule k st).get g = s.get g := by
  simp only [moduleFields, List.forall_mem_cons] at hg
  obtain ⟨hstate, hstitch, hactive, -⟩ := hg
  rw [State.setModule, State.setBitOf, State.get_set_ne _ _ hactive]
  exact (State.get_set_ne _ _ hstitch).trans (State.get_set_ne _ _ hstate)

theorem State.moduleState_setModule_same (s : State) (k st : Nat) : (s.setModule k st).moduleState k = st % 4 := by
  rw [State.moduleState, State.setModule, State.setBitOf]
  simp [State.setAll, State.get_set, Fld.mk_key_eq_iff, fUciMod_state, fUciMod_stitch, fUciStatus_active, RegKind.addr, RegKind.base, kUciMod,
    kUciStatus]

theorem State.moduleState_setModule_ne (s : State) {j k : Nat} (hj : j ≠ k) (st : Nat) : (s.setModule k st).moduleState j = s.moduleState j := by
  refine State.get_setModule s k st fun f hf => ?_
  simp only [moduleFields, List.mem_cons, List.not_mem_nil, or_false] at hf
  rcases hf with rfl | rfl | rfl <;>
    simp only [ne_eq, Fld.key, fUciMod_state, fUciMod_stitch, fUciStatus_active, RegKind.addr, RegKind.base, kUciMod, kUciStatus] <;> omega

theorem State.moduleStitch_setModule (s : State) (k st : Nat) :
    (s.setModule k st).get (fUciMod_stitch k) = s.stitch % 2 ^ (fUciMod_stitch k).width := by
  rw [State.setModule, State.setBitOf]
  simp [State.setAll, State.get_set, Fld.mk_key_eq_iff, fUciMod_state, fUciMod_stitch, fUciStatus_active, RegKind.addr, RegKind.base, kUciMod,
    kUciStatus]

theorem State.active_setModule (s : State) (k : Fin 8) : ((s.setModule k 2).get fUciStatus_active).testBit k.val = true := by
  rw [State.setModule, State.setBitOf, beq_self_eq_true, if_pos rfl, State.get_set_same, Nat.testBit_mod_two_pow, testBit_setBit_same]
  simp [fUciStatus_active, k.isLt]

theorem State.setModule_within (s : State) (k st : Nat) : Within [.regs] s (s.setModule k st) :=
  (State.setAll_within ..).trans (State.setBitOf_within ..)

theorem State.setModules_within (s : State) (l : List Nat) (st : Nat) : Within [.regs] s (l.foldl (fun s k => s.setModule k st) s) :=
  Within.foldl (fun u k => u.setModule_within k st) l s

/-- Every module of the list is in the state. -/
theorem State.moduleState_setModules (l : List Nat) (st : Nat) (s : State) (j : Nat) (hj : j ∈ l ∨ s.moduleState j = st % 4) :
    (l.foldl (fun s k => s.setModule k st) s).moduleState j = st % 4 := by
  induction l generalizing s with
  | nil => simpa using hj
  | cons k l ih =>
    refine ih _ ?_
    by_cases hk : j = k
    · exact .inr (hk ▸ s.moduleState_setModule_same j st)
    · rw [State.moduleState_setModule_ne s hk]
      simpa [hk] using hj

theorem Fld.module_offEvents (k : Nat) : (fUciMod_state k).offEvents = true ∧ (fUciMod_retrains k).offEvents = true := by
  simp only [Fld.offEvents_iff, Fld.key, fUciMod_state, fUciMod_retrains, RegKind.addr, RegKind.base, kUciMod, fFltEvHead_count,
    fFltEvStatus_full, fFltEvStatus_dropped, kFltEvHead, kFltEvStatus]
  omega

theorem Fld.retrains_ne (k : Nat) : ∀ f ∈ moduleFields k, (fUciMod_retrains k).key ≠ f.key := by
  simp only [moduleFields, List.forall_mem_cons, Fld.key, fUciMod_retrains, fUciMod_state, fUciMod_stitch, fUciStatus_active,
    RegKind.addr, RegKind.base, kUciMod, kUciStatus]
  refine ⟨?_, ?_, ?_, by simp⟩ <;> omega

theorem Fld.repaired_ne (k : Nat) : (∀ f ∈ moduleFields k, (fUciMod_repaired k).key ≠ f.key) ∧
    (∀ f ∈ moduleFields k, f.key ≠ (fUciMod_repaired k).key) ∧ (fUciMod_repaired k).key ≠ fUciCntReplay_count.key ∧
    (fUciMod_state k).key ≠ fUciCntReplay_count.key := by
  simp only [moduleFields, List.forall_mem_cons, Fld.key, fUciMod_repaired, fUciMod_state, fUciMod_stitch, fUciStatus_active,
    fUciCntReplay_count, RegKind.addr, RegKind.base, kUciMod, kUciStatus, kUciCntReplay]
  refine ⟨⟨?_, ?_, ?_, by simp⟩, ⟨?_, ?_, ?_, by simp⟩, ?_, ?_⟩ <;> omega

/-- The fields of the link as a whole are no module's. -/
theorem Fld.link_ne (k : Nat) : (∀ f ∈ moduleFields k, fUciStatus_link_up.key ≠ f.key) ∧ (∀ f ∈ moduleFields k, fUciStatus_losses.key ≠ f.key) ∧
    fUciStatus_link_up.key ≠ (fUciMod_retrains k).key ∧ (fUciMod_state k).key ≠ (fUciMod_retrains k).key ∧
    (fUciMod_state k).key ≠ fUciStatus_link_up.key := by
  simp only [moduleFields, List.forall_mem_cons, Fld.key, fUciMod_retrains, fUciMod_state, fUciMod_stitch, fUciStatus_active,
    fUciStatus_link_up, fUciStatus_losses, RegKind.addr, RegKind.base, kUciMod, kUciStatus]
  refine ⟨⟨?_, ?_, ?_, by simp⟩, ⟨?_, ?_, ?_, by simp⟩, ?_, ?_, ?_⟩ <;> omega

/-! ## The loss of the link -/

/-- The link's registers once it is lost. -/
def State.linkDown (s : State) : State :=
  ((List.range 8).foldl (fun s k => s.setModule k 0) ((s.event 0x18 0x14 (s.get fUciStatus_active) 0).bump fUciStatus_losses 1)).set
    fUciStatus_link_up 0

theorem State.linkDown_within (s : State) : Within [.regs, .uci, .flt, .out] s s.linkDown :=
  (State.event_within ..).trans ((State.bump_within ..).trans ((State.setModules_within ..).trans (State.set_within ..))).mono

theorem State.linkDown_coh (s : State) : s.linkDown.coh = s.coh := by
  have h : (s.event 0x18 0x14 (s.get fUciStatus_active) 0).coh = s.coh := State.event_coh ..
  rw [← h]
  exact ((State.bump_within ..).trans ((State.setModules_within ..).trans (State.set_within ..))).2 .coh (by simp)

theorem State.get_linkDown (s : State) : s.linkDown.get fUciStatus_link_up = 0 ∧ (∀ j < 8, s.linkDown.moduleState j = 0) ∧
    s.linkDown.get fUciStatus_losses = satAdd fUciStatus_losses.width (s.get fUciStatus_losses) 1 := by
  refine ⟨State.get_set_same .., fun j hj => ?_, ?_⟩
  · obtain ⟨-, -, -, -, hlink⟩ := Fld.link_ne j
    exact (State.get_set_ne _ _ hlink).trans (State.moduleState_setModules _ 0 _ j (.inl (List.mem_range.2 hj)))
  · rw [State.linkDown, State.get_set_ne _ _ (by decide), State.get_foldl fun u k => State.get_setModule u k 0 (Fld.link_ne k).2.1,
      State.get_bump_same, State.get_event (by decide)]

theorem State.hostLost_quiet {s : State} (hlost : s.uci.lost = false) (hreqs : s.coh.hostReqs = []) :
    ∃ u : UciSt, u.lost = true ∧ u.hostOpen = [] ∧ s.hostLost = (s.linkDown.setUci u).setHostReqs [] := by
  have hnone : s.linkDown.coh.hostReqs = [] := (congrArg CohSt.hostReqs s.linkDown_coh).trans hreqs
  unfold State.hostLost
  rw [if_neg (by simp [hlost])]
  extract_lets logged fallen down src lost owed
  have hdown : down = s.linkDown := rfl
  rw [← hdown] at hnone ⊢
  clear_value down
  have howed : owed = [] := (congrArg CohSt.hostReqs (State.setUci_coh ..)).trans hnone
  rw [howed, List.foldl_nil]
  exact ⟨_, rfl, rfl, rfl⟩

/-! ## A request that the host leaves unanswered -/

theorem livePartitions_none {s : State} {f : Nat → Bool} (h : ∀ p, f p = true → s.partState p = 0) : s.livePartitions f = 0 := by
  have hnone : ((List.range 16).filter fun p => s.partState p != 0 && s.partState p != 4 && f p) = [] := by
    rw [List.filter_eq_nil_iff]
    intro p _
    by_cases hf : f p = true
    · simp [h p hf]
    · simp [hf]
  rw [State.livePartitions, hnone]
  rfl

theorem exec_ucieTimeout {s : State} {hpa : Nat} {r : HostReq} (hreqs : s.coh.hostReqs = [r]) (hlo : r.line ≤ hpa)
    (hhi : hpa < r.line + lineBytes r.msg.bulk) (hpart : s.partState r.msg.part = 0) :
    exec (.ucieTimeout hpa) s = .next (s.recordFault {
      cause := 0x11, unitKind := 9, die := filterDie hpa, unit := moduleOf hpa, address := hpa }).hostLost := by
  have hmask : (s.livePartitions fun p => s.coh.hostReqs.any fun r => r.msg.part == p) = 0 :=
    livePartitions_none fun p hp => by
      simp only [hreqs, List.any_cons, List.any_nil, Bool.or_false, beq_iff_eq] at hp
      exact hp ▸ hpart
  show execUcieTimeout hpa s = _
  rw [execUcieTimeout, hmask]
  exact if_neg (by simp [hreqs, hlo, hhi])

theorem exec_ucieTimeout_none {s : State} {hpa : Nat} (hreqs : s.coh.hostReqs = []) (hdir : ∀ e ∈ s.coh.dir, e.state ≠ .c) :
    exec (.ucieTimeout hpa) s = .next s := by
  have howed : (s.coh.dir.any fun e => e.state == .c && e.owedBlocks != 0) = false := by
    rw [List.any_eq_false]
    intro e he
    simp [hdir e he]
  exact if_pos (by simp [hreqs, howed])

/-! ## The link comes back -/

theorem State.resetFunction_spec (s : State) (fn : Nat) : (s.resetFunction fn).uci.cfg = mapClear s.uci.cfg (fn * 4096) ((fn + 1) * 4096) ∧
    (s.resetFunction fn).uci.lost = s.uci.lost ∧ Within [.uci] s (s.resetFunction fn) := by
  rw [State.resetFunction]
  dsimp only
  split
  · exact ⟨rfl, rfl, ((Within.refl _ s).setUci _).setUci _⟩
  · exact ⟨rfl, rfl, (Within.refl _ s).setUci _⟩

/-- The configuration space of every function of the list reads 0. -/
theorem State.resetFunctions_spec (l : List Nat) (s : State) : (l.foldl State.resetFunction s).uci.lost = s.uci.lost ∧
    Within [.uci] s (l.foldl State.resetFunction s) ∧
    ∀ k, k / 4096 ∈ l ∨ mapGet 0 s.uci.cfg k = 0 → mapGet 0 (l.foldl State.resetFunction s).uci.cfg k = 0 := by
  induction l generalizing s with
  | nil => exact ⟨rfl, Within.refl _ s, fun k hk => by simpa using hk⟩
  | cons fn l ih =>
    obtain ⟨hcfg, hlost, hw⟩ := s.resetFunction_spec fn
    obtain ⟨hlost', hw', hzero⟩ := ih (s.resetFunction fn)
    refine ⟨hlost'.trans hlost, hw.trans hw', fun k hk => hzero k ?_⟩
    rw [hcfg, mapGet_mapClear]
    rcases hk with hk | hk
    · rcases List.mem_cons.1 hk with hk | hk
      · exact .inr (if_pos (by omega))
      · exact .inl hk
    · refine .inr ?_
      rw [hk]
      exact ite_self 0

theorem State.message_uci (s : State) (fn vec : Nat) : (s.message fn vec).uci = s.uci := by
  rw [State.message]
  split <;> rfl

def UciSt.withVectors (x : UciSt) (vs : SMap Vector) : UciSt := { x with vectors := vs }

theorem UciSt.withVectors_spec (x : UciSt) (vs : SMap Vector) : (x.withVectors vs).cfg = x.cfg ∧ (x.withVectors vs).lost = x.lost ∧
    (x.withVectors vs).spdmAlgs = x.spdmAlgs ∧ (x.withVectors vs).spdmCaps = x.spdmCaps := ⟨rfl, rfl, rfl, rfl⟩

theorem State.setVector_uci (s : State) (fn vec : Nat) (v : Vector) :
    (s.setVector fn vec v).uci = s.uci.withVectors (mapSet {} s.uci.vectors (fn * 32 + vec) v) := rfl

/-- A vector that fires writes the vectors alone. -/
theorem State.fire_uci (s : State) (fn vec : Nat) : ∃ vs, (s.fire fn vec).uci = s.uci.withVectors vs := by
  unfold State.fire
  extract_lets u v
  have hu : u.uci = s.uci := by
    show (if fn = 0 && s.uci.ibi then s.emit (.ibi vec) else s).uci = s.uci
    split <;> rfl
  rw [← hu]
  split
  · exact ⟨_, State.setVector_uci ..⟩
  · split
    · exact ⟨_, State.setVector_uci ..⟩
    · exact ⟨_, (State.message_uci ..).trans (State.setVector_uci ..)⟩

theorem State.event_uci (s : State) (src code d0 d1 : Nat) (part : Option Nat) :
    ∃ vs, (s.event src code d0 d1 part).uci = s.uci.withVectors vs := by
  unfold State.event
  extract_lets n f u head used i w
  split
  · exact ⟨s.uci.vectors, rfl⟩
  · have hw : w.uci = s.uci := (State.setAll_keeps u _).uci (by decide)
    rw [← hw]
    exact w.fire_uci 0 3

theorem State.reviveHost_spec (s : State) : s.reviveHost.get fUciStatus_link_up = s.get fUciStatus_link_up ∧ Within [.regs] s s.reviveHost := by
  rw [State.reviveHost]
  split
  · refine ⟨State.get_foldl (fun u h => State.get_set_ne _ _ ?_) _ s, Within.foldl (fun u h => u.setBitOf_within ..) _ s⟩
    simp only [Fld.key, fUciStatus_link_up, fDirStatus_dead_mask, RegKind.addr, RegKind.base, kUciStatus, kDirStatus]
    omega
  · exact ⟨rfl, Within.refl _ s⟩

/-- The state with its link up and every function reset. -/
def State.linkReturns (s : State) : State :=
  (List.range 17).foldl State.resetFunction ((s.set fUciStatus_link_up 1).setUci { s.uci with lost := false })

theorem State.linkReturns_spec (s : State) : s.linkReturns.get fUciStatus_link_up = 1 ∧ s.linkReturns.uci.lost = false ∧
    (∀ k < 17 * 4096, mapGet 0 s.linkReturns.uci.cfg k = 0) ∧ Within [.regs, .uci] s s.linkReturns := by
  generalize hv : (s.set fUciStatus_link_up 1).setUci { s.uci with lost := false } = v
  have hlink : v.get fUciStatus_link_up = 1 := by
    rw [← hv]
    exact (State.get_of_regs (s := s.set fUciStatus_link_up 1) rfl _).trans (State.get_set_same ..)
  have hlost : v.uci.lost = false := by
    rw [← hv]
    rfl
  have hw : Within [.regs, .uci] s v := by
    rw [← hv]
    exact ((State.set_within ..).mono).setUci _
  obtain ⟨hlost', hw', hzero⟩ := State.resetFunctions_spec (List.range 17) v
  rw [State.linkReturns, hv]
  refine ⟨?_, hlost'.trans hlost, fun k hk => hzero k (.inl (List.mem_range.2 (by omega))), hw.trans hw'.mono⟩
  rw [State.get, show (List.foldl State.resetFunction v (List.range 17)).regs = v.regs from hw'.2 .regs (by simp)]
  exact hlink

/-- The host's dead bits clear and the return is logged. -/
def State.linkBack (s : State) : State := s.linkReturns.reviveHost.event 0x18 0x15 0 0

theorem State.linkBack_spec (s : State) : s.linkBack.linkUp = true ∧ s.linkBack.uci.lost = false ∧
    (∀ k < 17 * 4096, mapGet 0 s.linkBack.uci.cfg k = 0) ∧ s.linkBack.pins = s.pins ∧ Within [.regs, .uci, .flt, .out] s s.linkBack := by
  obtain ⟨hlink, hlost, hcfg, hw⟩ := s.linkReturns_spec
  obtain ⟨hrevive, hrw⟩ := s.linkReturns.reviveHost_spec
  obtain ⟨vs, hevent⟩ := s.linkReturns.reviveHost.event_uci 0x18 0x15 0 0 none
  have huci : s.linkReturns.reviveHost.uci = s.linkReturns.uci := hrw.2 .uci (by simp)
  have hwithin : Within [.regs, .uci, .flt, .out] s s.linkBack := hw.mono.trans (hrw.mono.trans (State.event_within ..).mono)
  refine ⟨?_, ?_, fun k hk => ?_, hwithin.2 .pins (by simp), hwithin⟩
  · rw [State.linkUp, State.flag, State.linkBack, State.get_event (by decide), hrevive, hlink]
    rfl
  · rw [State.linkBack, hevent, (UciSt.withVectors_spec ..).2.1, huci, hlost]
  · rw [State.linkBack, hevent, (UciSt.withVectors_spec ..).1, huci]
    exact hcfg k hk

theorem exec_allModulesActive {s : State} (hdown : s.linkUp = false) (hactive : ∀ k < 8, s.moduleState k = 2)
    (htime : s.uci.lost = true ∨ s.atStage 6 = true) :
    exec .allModulesActive s =
      .next (if s.uci.lost then s else s.setPins { s.pins with stage := 6 }).linkBack := by
  refine (if_neg ?_).trans ((if_neg ?_).trans ?_)
  · have hall : ((List.range 8).all fun k => s.moduleState k == 2) = true := by
      rw [List.all_eq_true]
      exact fun k hk => beq_iff_eq.2 (hactive k (List.mem_range.1 hk))
    simp [hdown, hall]
  · rcases htime with h | h <;> simp [h]
  · rfl

theorem State.setStage_spec (s : State) (n : Nat) : ∃ v, (if s.uci.lost then s else s.setPins { s.pins with stage := n }) = v ∧
    v.pins.stage = (if s.uci.lost = true then s.pins.stage else n) ∧ Within [.pins] s v := by
  refine ⟨_, rfl, ?_, ?_⟩
  · split <;> rfl
  · split
    · exact Within.refl _ s
    · exact (Within.refl _ s).setPins _

theorem State.startFail_stage (s : State) (n : Nat) : (s.startFail n).pins.stage = s.pins.stage := rfl

/-- The state of a link that is lost, from its registers, its requests and its functions. -/
def LinkLost (s u : State) : Prop :=
  u.uci.lost = true ∧ u.uci.hostOpen = [] ∧ u.get fUciStatus_link_up = 0 ∧ (∀ j < 8, u.moduleState j = 0) ∧
    u.get fUciStatus_losses = satAdd fUciStatus_losses.width (s.get fUciStatus_losses) 1 ∧ Within [.regs, .coh, .uci, .flt, .out] s u

theorem LinkLost.of_down {s v : State} {u : UciSt} (hlost : u.lost = true) (hopen : u.hostOpen = [])
    (hdown : v.get fUciStatus_link_up = 0 ∧ (∀ j < 8, v.moduleState j = 0) ∧
      v.get fUciStatus_losses = satAdd fUciStatus_losses.width (s.get fUciStatus_losses) 1)
    (hw : Within [.regs, .uci, .flt, .out] s v) : LinkLost s ((v.setUci u).setHostReqs []) := by
  obtain ⟨hup, hmodules, hlosses⟩ := hdown
  exact ⟨hlost, hopen, hup, hmodules, hlosses, (hw.mono.setUci _).setCoh _⟩

theorem State.hostLost_spec {s : State} (hlost : s.uci.lost = false) (hreqs : s.coh.hostReqs = []) : LinkLost s s.hostLost := by
  obtain ⟨u, hlost', hopen, heq⟩ := State.hostLost_quiet hlost hreqs
  rw [heq]
  exact LinkLost.of_down hlost' hopen s.get_linkDown s.linkDown_within

/-- Settles O27: modules train, are active, fail and train again, and the link is lost and returns. -/
theorem hostLink : Obligations.HostLink := by
  unfold Obligations.HostLink
  refine ⟨fun s code stepping ms hstage hcode => ?_, fun s code stepping ms hstage hcode hms => ?_, fun s code stepping ms hstage => ?_,
    fun s k hstate hn => ?_, fun s k hstate hn hstage => ?_, fun s k hstate => ?_, fun s k hstate => ?_, fun s k hdown hretrain => ?_,
    fun s k hstate => ?_, fun s k hstate => ?_, fun s k hstate => congrArg Host.Outcome.next (if_pos hstate),
    fun s k hstate hlost hreqs => ?_, fun s hpa r hreqs hlo hhi hpart => exec_ucieTimeout hreqs hlo hhi hpart,
    fun s hpa hreqs hdir => exec_ucieTimeout_none hreqs hdir, fun s hlost => ?_, fun s hlost => ?_, fun s hdown hactive htime => ?_,
    fun s hup => if_pos (by simp [hup])⟩
  · obtain ⟨hhost, hfitted⟩ := s.get_hostIdShown code stepping ms
    have hw := s.hostIdShown_within code stepping ms
    have hpins : (s.hostIdShown code stepping ms).pins = s.pins := hw.2 .pins (by simp)
    have hexec := exec_hostIdRead hstage code stepping ms
    rw [if_neg hcode] at hexec
    generalize s.hostIdShown code stepping ms = v at hhost hfitted hw hpins hexec
    cases hq : Config.qualifiedHost (code % 256) with
    | true =>
      rw [hq, if_pos rfl] at hexec
      obtain ⟨hhost', hfitted', hstage', hfailed', hw'⟩ := v.hostFits_spec
      exact ⟨_, hexec, hhost'.trans hhost, hfitted', hstage', hfailed'.trans (congrArg PinsSt.failed hpins), hw.mono.trans hw'.mono⟩
    | false =>
      rw [hq, if_neg Bool.false_ne_true] at hexec
      refine ⟨_, hexec, (State.get_startFail_ne v 3 ?_ ?_).trans hhost, (State.get_startFail_ne v 3 ?_ ?_).trans hfitted,
        (v.startFail_stage 3).trans (congrArg PinsSt.stage hpins), v.startFail_failed 3, hw.mono.trans (State.startFail_within ..).mono⟩
      all_goals decide
  · have hexec := exec_hostIdRead hstage code stepping ms
    rw [if_pos hcode, if_pos hms] at hexec
    obtain ⟨hfailed, hfault⟩ := (s.hostIdShown code stepping ms).get_startFail 3
    exact ⟨_, hexec, rfl, hfailed, hfault, (s.hostIdShown_within code stepping ms).mono.trans (State.startFail_within ..).mono⟩
  · exact if_pos (by simp [hstage])
  · exact (if_neg (by simp [hstate])).trans (if_pos hn)
  · obtain ⟨hfailed, -⟩ := (s.set fUciStatus_training_failed 1).get_startFail 6
    refine ⟨(s.set fUciStatus_training_failed 1).startFail 6,
      (if_neg (by simp [hstate])).trans ((if_neg (Nat.not_lt.2 hn)).trans (if_pos hstage)), ?_, hfailed, rfl,
      (State.set_within ..).mono.trans (State.startFail_within ..)⟩
    exact (State.get_startFail_ne _ _ (by decide) (by decide)).trans (State.get_set_same ..)
  · obtain ⟨-, hne, -, -⟩ := Fld.repaired_ne k
    simp only [moduleFields, List.forall_mem_cons] at hne
    obtain ⟨hstate', hstitch, hactive, -⟩ := hne
    refine ⟨(s.draw.2.setModule k 2).set (fUciMod_repaired k) s.draw.1, if_pos hstate, ?_, ?_, ?_,
      ((Within.refl _ s).setFree _).trans ((State.setModule_within ..).trans (State.set_within ..)).mono⟩
    · exact (State.get_set_ne _ _ hstate').trans (State.moduleState_setModule_same s.draw.2 k 2)
    · rw [State.get_set_ne _ _ hactive]
      exact State.active_setModule s.draw.2 k
    · exact (State.get_set_ne _ _ hstitch).trans (State.moduleStitch_setModule s.draw.2 k 2)
  · obtain ⟨hne, -, hrepaired, hreplay⟩ := Fld.repaired_ne k
    refine ⟨(s.draw.2.setModule k 2).addTo fUciCntReplay_count s.draw.1, (if_neg (by simp [hstate])).trans (if_pos hstate), ?_, ?_,
      ((Within.refl _ s).setFree _).trans ((State.setModule_within ..).trans (State.addTo_within ..)).mono⟩
    · exact (State.get_set_ne _ _ hreplay).trans (State.moduleState_setModule_same s.draw.2 k 2)
    · exact (State.get_set_ne _ _ hrepaired).trans (State.get_setModule s.draw.2 k 2 hne)
  · exact (if_neg hdown).trans (if_neg hretrain)
  · obtain ⟨hlink, -, hlink', hstate', -⟩ := Fld.link_ne k
    obtain ⟨hoff, hoff'⟩ := Fld.module_offEvents k
    refine ⟨_, if_pos hstate, ?_, ?_, ?_,
      ((State.setModule_within ..).trans (State.bump_within ..)).mono.trans (State.event_within ..).mono⟩
    · exact (State.get_event hoff _ _ _ _ _ _).trans ((State.get_bump_ne _ _ hstate').trans (State.moduleState_setModule_same s k 3))
    · rw [State.get_event hoff', State.get_bump_same, State.get_setModule s k 3 (Fld.retrains_ne k)]
    · rw [State.get_event (by decide), State.get_bump_ne _ _ hlink', State.get_setModule s k 3 hlink]
  · exact if_neg hstate
  · exact ⟨s.hostLost, congrArg Host.Outcome.next (if_pos hstate), State.hostLost_spec hlost hreqs⟩
  · refine ⟨s.trainAll, congrArg Host.Outcome.next (if_pos hlost),
      fun j hj => State.moduleState_setModules _ 1 _ j (.inl (List.mem_range.2 hj)), ?_, ?_⟩
    · exact congrArg UciSt.retries ((State.setModules_within ..).2 .uci (by simp))
    · exact ((Within.refl [.regs, .uci] s).setUci _).trans (State.setModules_within ..).mono
  · exact congrArg Host.Outcome.next (if_neg (by simp [hlost]))
  · obtain ⟨v, hv, hstage, hsv⟩ := s.setStage_spec 6
    have hexec := exec_allModulesActive hdown hactive htime
    rw [hv] at hexec
    obtain ⟨hlink, hlost, hcfg, hpins, hw⟩ := v.linkBack_spec
    exact ⟨_, hexec, hlink, hlost, hcfg, (congrArg PinsSt.stage hpins).trans hstage, hsv.mono.trans hw.mono⟩

end Sys2Proof.Machine

/-! SUPPORT. The DOE mailbox (R322, R479, R480): the statement O28. -/

namespace Sys2Proof.Machine

set_option Elab.async false

/-! ## Replies -/

theorem State.fire_out (s : State) (fn vec : Nat) : ∃ more, (s.fire fn vec).out = s.out ++ more := by
  have hmessage : ∀ u : State, ∃ more, (u.message fn vec).out = u.out ++ more := fun u => by
    rw [State.message]
    split
    · exact ⟨_, rfl⟩
    · exact ⟨[], by simp⟩
  unfold State.fire
  extract_lets u v
  have hu : ∃ more, u.out = s.out ++ more := by
    show ∃ more, (if fn = 0 && s.uci.ibi then s.emit (.ibi vec) else s).out = s.out ++ more
    split
    · exact ⟨_, rfl⟩
    · exact ⟨[], by simp⟩
  split
  · exact hu
  · split
    · exact hu
    · obtain ⟨more, hmore⟩ := hu
      obtain ⟨more', hmore'⟩ := hmessage (u.setVector fn vec { v with sent := true })
      exact ⟨more ++ more', hmore'.trans (by rw [← List.append_assoc, ← hmore]; rfl)⟩

theorem State.fire_within (s : State) (fn vec : Nat) : Within [.uci, .out] s (s.fire fn vec) := (s.fire_keeps fn vec).within

/-- A reply leaves, and writes the vectors alone. -/
theorem State.doeReply_spec (s : State) (bs : List Byte) : Out.doe bs ∈ (s.doeReply bs).out ∧
    (∃ vs, (s.doeReply bs).uci = s.uci.withVectors vs) ∧ Within [.uci, .out] s (s.doeReply bs) := by
  obtain ⟨more, hmore⟩ := (s.emit (.doe bs)).fire_out 0 6
  refine ⟨?_, State.fire_uci .., ((Within.refl _ s).setOut _).trans (State.fire_within ..)⟩
  rw [State.doeReply, hmore, State.emit]
  simp

theorem State.doeReply_sends {s : State} {bs : List Byte} (hibi : s.uci.ibi = false) (hmask : (s.vector 0 6).masked = false)
    (hsent : (s.vector 0 6).sent = false) (hlink : s.linkUp = true) : (s.doeReply bs).out = s.out ++ [.doe bs, .msix 0 6] := by
  have hmessage : ∀ v, ((s.emit (.doe bs)).setVector 0 6 v).message 0 6 = ((s.emit (.doe bs)).setVector 0 6 v).emit (.msix 0 6) :=
    fun v => State.message_up (s := (s.emit (.doe bs)).setVector 0 6 v) hlink 0 6
  have hibi' : (s.emit (.doe bs)).uci.ibi = false := hibi
  have hmask' : ((s.emit (.doe bs)).vector 0 6).masked = false := hmask
  have hsent' : ((s.emit (.doe bs)).vector 0 6).sent = false := hsent
  rw [State.doeReply, State.fire]
  simp only [hibi', Bool.and_false, Bool.false_eq_true, if_false, hmask', hsent', hmessage]
  simp [State.emit, State.setVector]

/-! ## The protocols -/

section Doe
variable {s : State} {f : State → State}

theorem State.doe_up (hlink : s.linkUp = true) : s.doe f = f s := if_pos hlink

theorem State.doe_down (hlink : s.linkUp = false) : s.doe f = s := if_neg (by simp [hlink])

theorem State.spdm_busy (hlink : s.linkUp = true) (hbusy : s.sec.transition ≠ none) (ready : Bool) : s.spdm ready f = s.spdmError 3 :=
  (State.doe_up hlink).trans (if_pos (Option.isSome_iff_ne_none.2 hbusy))

theorem State.spdm_early (hlink : s.linkUp = true) (hidle : s.sec.transition = none) {ready : Bool} (hready : ready = false) :
    s.spdm ready f = s.spdmError 4 :=
  (State.doe_up hlink).trans ((if_neg (by simp [hidle])).trans (if_pos (by simp [hready])))

theorem State.spdm_taken (hlink : s.linkUp = true) (hidle : s.sec.transition = none) {ready : Bool} (hready : ready = true) :
    s.spdm ready f = f s :=
  (State.doe_up hlink).trans ((if_neg (by simp [hidle])).trans (if_neg (by simp [hready])))

theorem exec_doeDiscovery_listed (hlink : s.linkUp = true) {len : Nat} (hlen : len ≤ 65536) (i : Nat) :
    exec (.doeDiscovery ⟨1, 0, len, i⟩) s = .next (s.doeReply (match i with
      | 0 => toLE 2 1 ++ toLE 1 0 ++ toLE 1 1
      | 1 => toLE 2 1 ++ toLE 1 1 ++ toLE 1 2
      | 2 => toLE 2 0x1E98 ++ toLE 1 2 ++ toLE 1 0
      | _ => toLE 2 0xFFFF ++ toLE 1 0 ++ toLE 1 0)) :=
  congrArg Host.Outcome.next ((State.doe_up hlink).trans ((if_neg (by simp [doeProtocols, hlen])).trans (if_neg (by simp))))

end Doe

theorem length_cdatDsmas : cdatDsmas.length = 24 := by decide

theorem cdatDsmas_range : field cdatDsmas 16 8 = 1344 * 2 ^ 30 := by decide

theorem cdat_length : cdat.length = 4 := rfl

/-- The certificate's octets from an offset. -/
theorem slice_certificateBytes (offset len : Nat) : slice certificateBytes offset len =
    (List.range (min len (Config.certificateLen % 65536 - offset))).map fun i => Config.certificate (offset + i) := by
  apply List.ext_getElem
  · simp [slice, certificateBytes]
  · intro i hi hi'
    simp [slice, certificateBytes]

/-- The bytes of a capabilities answer, with the free value that it shows. -/
def capabilitiesAnswer (x : Nat) : List Byte :=
  spdmHead 0x61 0 0 ++ toLE 1 0 ++ toLE 1 x ++ toLE 2 0 ++ toLE 4 0x16 ++ toLE 8 (x / 256)

/-- The bytes of the answer that selects both algorithms. -/
def algorithmsAnswer : List Byte :=
  spdmHead 0x63 0 0 ++ toLE 2 36 ++ toLE 1 1 ++ toLE 1 0 ++ toLE 4 2 ++ toLE 4 8 ++ toLE 4 1 ++ toLE 16 0

/-- The signed part of a challenge's answer. -/
def challengeBody (own : List Byte) : List Byte :=
  [0x12#8, 3#8, 0#8, 1#8] ++ sha256 certificateBytes ++ own ++ List.replicate 34 0#8

theorem challengeBody_eq (own : List Byte) :
    spdmHead 0x03 0 1 ++ sha256 certificateBytes ++ own ++ List.replicate 32 0#8 ++ toLE 2 0 = challengeBody own := by
  rw [challengeBody, List.append_assoc _ (List.replicate 32 0#8)]
  rfl

theorem measurementAnswer_eq (i : Nat) (m : Nat × List Byte) (own : List Byte) :
    spdmHead 0x60 0 0 ++ toLE 1 1 ++ toLE 3 (measurementBlock i m).length ++ measurementBlock i m ++ own ++ toLE 2 0 =
      [0x12#8, 0x60#8, 0#8, 0#8, 1#8] ++ toLE 3 (measurementBlock i m).length ++ measurementBlock i m ++ own ++ [0#8, 0#8] := rfl

section Spdm
variable {s : State}

theorem exec_getCapabilities (hlink : s.linkUp = true) (hidle : s.sec.transition = none) (hversion : s.uci.spdmVersion = true) :
    exec .getCapabilities s = .next ((s.draw.2.setUci { s.uci with spdmCaps := true }).doeReply (capabilitiesAnswer s.draw.1)) :=
  congrArg Host.Outcome.next (State.spdm_taken hlink hidle hversion)

theorem exec_negotiateAlgorithms (hlink : s.linkUp = true) (hidle : s.sec.transition = none) (hversion : s.uci.spdmVersion = true)
    (hcaps : s.uci.spdmCaps = true) :
    exec (.negotiateAlgorithms true true) s = .next ((s.setUci { s.uci with spdmAlgs := true }).doeReply algorithmsAnswer) :=
  congrArg Host.Outcome.next (State.spdm_taken hlink hidle (by rw [hversion, hcaps]; rfl))

theorem exec_getCertificate (hlink : s.linkUp = true) (hidle : s.sec.transition = none) (hready : s.spdmReady = true) (offset len : Nat) :
    exec (.getCertificate 0 offset len) s = .next (if Config.certificateLen % 65536 ≤ offset then s.spdmError 1
      else s.doeReply ([0x12#8, 2#8, 0#8, 0#8] ++ toLE 2 (min len (Config.certificateLen % 65536 - offset)) ++
        toLE 2 (Config.certificateLen % 65536 - offset - min len (Config.certificateLen % 65536 - offset)) ++
        slice certificateBytes offset len)) := by
  refine congrArg Host.Outcome.next ((State.spdm_taken hlink hidle hready).trans ?_)
  rw [slice_certificateBytes]
  by_cases h : Config.certificateLen % 65536 ≤ offset
  · rw [if_pos h]
    exact if_pos (by simp [h])
  · rw [if_neg h]
    exact if_neg (by simp [h])

theorem exec_challenge (hlink : s.linkUp = true) (hidle : s.sec.transition = none) (hready : s.spdmReady = true) (nonce : List Byte) :
    exec (.challenge 0 nonce) s = .next (s.draw.2.doeReply
      (challengeBody (toLE 32 s.draw.1) ++ identitySignature (nonce ++ challengeBody (toLE 32 s.draw.1)))) := by
  refine congrArg Host.Outcome.next ((State.spdm_taken hlink hidle hready).trans ?_)
  rw [← challengeBody_eq]
  exact if_neg (by simp)

/-- One block, unsigned. -/
theorem exec_getMeasurements {i : Nat} {m : Nat × List Byte} (hlink : s.linkUp = true) (hidle : s.sec.transition = none)
    (hready : s.spdmReady = true) (hlo : 0 < i) (hhi : i < 255) (hm : s.measurement i = some m) (nonce : List Byte) :
    exec (.getMeasurements i false nonce) s = .next (s.draw.2.doeReply
      ([0x12#8, 0x60#8, 0#8, 0#8, 1#8] ++ toLE 3 (measurementBlock i m).length ++ measurementBlock i m ++ toLE 32 s.draw.1 ++ [0#8, 0#8])) := by
  have hblocks : [i].filterMap (fun i => (s.measurement i).map (measurementBlock i)) = [measurementBlock i m] := by simp [hm]
  refine congrArg Host.Outcome.next ((State.spdm_taken hlink hidle hready).trans ?_)
  rw [← measurementAnswer_eq]
  simp only [if_neg hhi.ne, if_neg hlo.ne', hblocks]
  simp [State.nonce]

theorem State.measurement_part {p : Nat} {l : PartLast} (hp : p < 16) (hlast : s.lastOf p = some l) (hmeasured : l.measurement ≠ []) :
    s.measurement (16 + p) = some (3, l.measurement) := by
  have hrange : (decide (16 ≤ 16 + p) && decide (16 + p < 32)) = true := by simp; omega
  rw [State.measurement]
  simp only [if_neg (show ¬ 16 + p = 1 by omega), if_neg (show ¬ 16 + p = 2 by omega), if_neg (show ¬ 16 + p = 3 by omega), hrange, if_true,
    Nat.add_sub_cancel_left, hlast, Option.map_some, Option.getD_some, orZeros]
  rw [if_neg (by simpa using hmeasured)]

end Spdm

/-- Settles O28: the mailbox answers each protocol's objects, and SPDM keeps the order of its requests. -/
theorem mailbox : Obligations.Mailbox := by
  unfold Obligations.Mailbox
  refine ⟨fun s bs hibi hmask hsent hlink => ⟨State.doeReply_sends hibi hmask hsent hlink, (s.doeReply_spec bs).2.2⟩,
    fun s len hlink hlen => ⟨?_, ?_, ?_⟩, fun s vendor type len i hlink h => ?_, fun s hlink => ?_, fun s handle hlink hhandle => ?_,
    fun s hlink hidle => ?_, fun s hlink hidle hversion => ?_, fun s hlink hidle hversion hcaps => ?_, fun s hlink hidle hready => ?_,
    fun s offset len hlink hidle hready => ⟨_, exec_getCertificate hlink hidle hready offset len, rfl⟩, fun s nonce hlink hidle hready => ?_,
    fun s i nonce m hlink hidle hready hlo hhi hm => ?_, fun s p l hp hlast hmeasured => State.measurement_part hp hlast hmeasured,
    fun s nonce i slot a b x y hlink hbusy => ?_, fun s nonce i slot a b x hlink hidle hready => ?_, fun s v t len i hlink => ?_⟩
  · exact exec_doeDiscovery_listed hlink hlen 0
  · exact exec_doeDiscovery_listed hlink hlen 1
  · exact exec_doeDiscovery_listed hlink hlen 2
  · refine congrArg Host.Outcome.next ((State.doe_up hlink).trans (if_pos ?_))
    rcases h with h | h
    · simp [h]
    · simp [h]
  · exact ⟨_, cdatDsmas, congrArg Host.Outcome.next (State.doe_up hlink), rfl, length_cdatDsmas, cdatDsmas_range⟩
  · have hnone : cdat[handle]? = none := List.getElem?_eq_none (cdat_length ▸ hhandle)
    refine congrArg Host.Outcome.next ((State.doe_up hlink).trans ?_)
    rw [hnone]
    rfl
  · exact congrArg Host.Outcome.next (State.spdm_taken hlink hidle rfl)
  · obtain ⟨hout, ⟨vs, huci⟩, hw⟩ := (s.draw.2.setUci { s.uci with spdmCaps := true }).doeReply_spec (capabilitiesAnswer s.draw.1)
    refine ⟨_, exec_getCapabilities hlink hidle hversion, ?_, ?_, ⟨_, hout, rfl, rfl⟩,
      (((Within.refl [.uci, .out, .free] s).setFree _).setUci _).trans hw.mono⟩
    · rw [huci]
      rfl
    · rw [huci]
      rfl
  · obtain ⟨hout, ⟨vs, huci⟩, hw⟩ := (s.setUci { s.uci with spdmAlgs := true }).doeReply_spec algorithmsAnswer
    refine ⟨_, exec_negotiateAlgorithms hlink hidle hversion hcaps, ?_, ⟨_, hout, rfl, rfl, rfl, rfl⟩,
      ((Within.refl [.uci, .out] s).setUci _).trans hw⟩
    rw [huci]
    rfl
  · exact congrArg Host.Outcome.next (State.spdm_taken hlink hidle hready)
  · obtain ⟨hout, -, hw⟩ := s.draw.2.doeReply_spec
      (challengeBody (toLE 32 s.draw.1) ++ identitySignature (nonce ++ challengeBody (toLE 32 s.draw.1)))
    exact ⟨_, toLE 32 s.draw.1, exec_challenge hlink hidle hready nonce, length_toLE .., ⟨_, hout, rfl⟩,
      ((Within.refl [.uci, .out, .free] s).setFree _).trans hw.mono⟩
  · obtain ⟨hout, -, hw⟩ := s.draw.2.doeReply_spec
      ([0x12#8, 0x60#8, 0#8, 0#8, 1#8] ++ toLE 3 (measurementBlock i m).length ++ measurementBlock i m ++ toLE 32 s.draw.1 ++ [0#8, 0#8])
    exact ⟨_, toLE 32 s.draw.1, exec_getMeasurements hlink hidle hready hlo hhi hm nonce, length_toLE .., hout,
      ((Within.refl [.uci, .out, .free] s).setFree _).trans hw.mono⟩
  · have hbusy' : ∀ ready f, s.spdm ready f = s.spdmError 3 := fun ready f => State.spdm_busy hlink hbusy ready
    exact ⟨congrArg Host.Outcome.next (hbusy' ..), congrArg Host.Outcome.next (hbusy' ..), congrArg Host.Outcome.next (hbusy' ..),
      congrArg Host.Outcome.next (hbusy' ..), congrArg Host.Outcome.next (hbusy' ..), congrArg Host.Outcome.next (hbusy' ..),
      congrArg Host.Outcome.next (hbusy' ..)⟩
  · have hearly : ∀ f, s.spdm s.spdmReady f = s.spdmError 4 := fun f => State.spdm_early hlink hidle hready
    exact ⟨congrArg Host.Outcome.next (hearly _), congrArg Host.Outcome.next (hearly _), congrArg Host.Outcome.next (hearly _),
      congrArg Host.Outcome.next (hearly _)⟩
  · exact ⟨congrArg Host.Outcome.next (State.doe_down hlink), congrArg Host.Outcome.next (State.doe_down hlink),
      congrArg Host.Outcome.next (State.doe_down hlink)⟩

end Sys2Proof.Machine

/-! SUPPORT. The clear bits of the counters: the statement O29. -/

namespace Sys2Proof.Machine

set_option Elab.async false

/-- The writes that clear these fields. -/
def zeros (fs : List Fld) : List (Fld × Nat) := fs.map fun f => (f, 0)

theorem State.get_setAll_zeros_of_zero (fs : List Fld) {s : State} {f : Fld} (h : s.get f = 0) : (s.setAll (zeros fs)).get f = 0 := by
  induction fs generalizing s with
  | nil => exact h
  | cons g fs ih =>
    refine ih (s := s.set g 0) ?_
    rw [State.get_set, Nat.zero_mod]
    split
    · rfl
    · exact h

theorem State.get_setAll_zeros (fs : List Fld) (s : State) : ∀ f ∈ fs, (s.setAll (zeros fs)).get f = 0 := by
  induction fs generalizing s with
  | nil => simp
  | cons g fs ih =>
    intro f hf
    rcases List.mem_cons.1 hf with rfl | hf
    · exact State.get_setAll_zeros_of_zero fs (s := s.set f 0) ((State.get_set_same ..).trans (Nat.zero_mod _))
    · exact ih (s.set g 0) f hf

theorem State.setAll_zeros_regsKept (s : State) (fs : List Fld) : RegsKept fs s (s.setAll (zeros fs)) := by
  have hmap : (zeros fs).map Prod.fst = fs := by simp [zeros, Function.comp_def]
  have h := RegsKept.setAll_refl s (zeros fs)
  rwa [hmap] at h

theorem Clears.of_zeros {c : Instr} {fs : List Fld} {s : State} (h : exec c s = .next (s.setAll (zeros fs))) : Clears c fs s :=
  ⟨_, h, s.get_setAll_zeros fs, s.setAll_within _, s.setAll_zeros_regsKept fs⟩

/-- Settles O29: a clear bit writes 0 to its counters and writes nothing else. -/
theorem counterClears : Obligations.CounterClears := by
  unfold Obligations.CounterClears
  refine ⟨fun s t hserves => .of_zeros ?_, fun s t hserves => ?_, fun s d => .of_zeros ?_, fun s d e => .of_zeros ?_,
    fun s d south w hw => .of_zeros ?_, fun s d => .of_zeros ?_, fun s d => .of_zeros ?_, fun s d => .of_zeros ?_,
    fun s d => .of_zeros ?_, fun s => .of_zeros ?_, fun s k d i hd hi => .of_zeros ?_, fun s => .of_zeros ?_,
    fun s n p hp => .of_zeros ?_, fun s n hp => ?_, fun s => ?_, fun s d => .of_zeros ?_⟩
  · exact congrArg Host.Outcome.next (if_neg (by simpa [Option.isNone_iff_eq_none, Option.isSome_iff_ne_none] using hserves))
  · exact congrArg Host.Outcome.next (if_pos (by simp [hserves]))
  · rfl
  · rfl
  · subst hw
    rfl
  · simp only [zeros, List.map_append, List.map_flatMap]
    rfl
  · rfl
  · rfl
  · simp only [zeros, List.map_append, List.map_flatMap]
    rfl
  · rfl
  · subst hd hi
    rfl
  · rfl
  · simp only [zeros, List.map_flatMap]
    show execPartAccClear n s = _
    rw [execPartAccClear, hp]
    rfl
  · show execPartAccClear n s = _
    rw [execPartAccClear, hp]
  · have hfields : (List.range 7).map (fun r => (fPwrThrUs_us r, 0)) = zeros ((List.range 7).map fun r => fPwrThrUs_us r) := by
      simp only [zeros, List.map_map]
      rfl
    have hexec : exec .pwrCntClear s = .next ((s.setAll (zeros ((List.range 7).map fun r => fPwrThrUs_us r))).setPower
        { s.power with clearedAt := s.clock.now }) := by
      rw [← hfields]
      rfl
    have hzero := s.get_setAll_zeros ((List.range 7).map fun r => fPwrThrUs_us r)
    have hkept := s.setAll_zeros_regsKept ((List.range 7).map fun r => fPwrThrUs_us r)
    have hw := s.setAll_within (zeros ((List.range 7).map fun r => fPwrThrUs_us r))
    generalize s.setAll (zeros ((List.range 7).map fun r => fPwrThrUs_us r)) = v at hexec hzero hkept hw
    exact ⟨_, hexec, fun r hr => hzero _ (List.mem_map.2 ⟨r, List.mem_range.2 hr, rfl⟩), rfl, hw.mono.setPower _, hkept⟩
  · simp only [zeros, List.map_map]
    rfl

end Sys2Proof.Machine

/-! SUPPORT. Ring tails, peeks and bad accesses (R8, R22, R253, R255, R362, R409, R413, R444): the statement O30. -/

namespace Sys2Proof.Machine

set_option Elab.async false

/-! ## Ring tails -/

theorem State.consume_taken {s : State} {head tail full : Fld} {n v : Nat} (hw : tail.width = 32) (hfw : full.width = 1)
    (hne : tail.key ≠ full.key) (h : (s.get head + 2 ^ 32 - v % 2 ^ 32) % 2 ^ 32 ≤ n) :
    (s.consume head tail full n v).get tail = v % 2 ^ 32 ∧
      ((s.consume head tail full n v).get full = 1 ↔ (s.get head + 2 ^ 32 - v % 2 ^ 32) % 2 ^ 32 = n) ∧
      Within [.regs] s (s.consume head tail full n v) ∧ RegsKept [tail, full] s (s.consume head tail full n v) := by
  have hconsume : s.consume head tail full n v = (s.set tail (v % 2 ^ 32)).set full
      (if (s.get head + 2 ^ 32 - v % 2 ^ 32) % 2 ^ 32 = n then 1 else 0) := if_pos h
  generalize (s.get head + 2 ^ 32 - v % 2 ^ 32) % 2 ^ 32 = gap at hconsume
  rw [hconsume]
  refine ⟨?_, ?_, (State.set_within ..).trans (State.set_within ..), ((RegsKept.refl _ s).set _ (by simp)).set _ (by simp)⟩
  · rw [State.get_set_ne _ _ hne, State.get_set_same, hw, Nat.mod_mod]
  · rw [State.get_set_same, hfw]
    split <;> simp [*]

theorem State.consume_ignored {s : State} {head tail full : Fld} {n v : Nat} (h : n < (s.get head + 2 ^ 32 - v % 2 ^ 32) % 2 ^ 32) :
    s.consume head tail full n v = s := if_neg (Nat.not_le.2 h)

/-! ## Peeks -/

/-- The entry that DIR_PEEK_CTRL names. -/
def State.peeked (s : State) (d v : Nat) : Option DirEnt :=
  s.coh.dir.find? fun e => dirKey e.line e.bulk == (d * 64 + v % 64) * 1024 + v / 64 % 1024 && e.way == v / 65536 % 16

theorem bitsAt_eq (x lo w : Nat) : bitsAt x lo w = x / 2 ^ lo % 2 ^ w := by rw [bitsAt, Nat.shiftRight_eq_div_pow]

theorem exec_dirPeek (s : State) (d : Die) (v : Word) : ∃ u, exec (.dirPeek d v) s = .next u ∧
    u.get (fDirPeekData_entry d) = ((s.peeked d v.toNat).map DirEnt.bits).getD 0 % 2 ^ 64 ∧ Within [.regs] s u ∧
    RegsKept [fDirPeekCtrl_slice d, fDirPeekCtrl_set d, fDirPeekCtrl_way d, fDirPeekData_entry d] s u := by
  refine ⟨s.dirPeek d v.toNat, rfl, ?_, ?_, ?_⟩
  · have hfind : ((s.setAll [(fDirPeekCtrl_slice d, bitsAt v.toNat 0 6), (fDirPeekCtrl_set d, bitsAt v.toNat 6 10),
        (fDirPeekCtrl_way d, bitsAt v.toNat 16 4)]).coh.dir.find? fun e =>
          dirKey e.line e.bulk == (d.val * 64 + bitsAt v.toNat 0 6) * 1024 + bitsAt v.toNat 6 10 && e.way == bitsAt v.toNat 16 4) =
        s.peeked d v.toNat := by
      simp only [bitsAt_eq, Nat.pow_zero, Nat.div_one, State.peeked]
      rfl
    rw [State.dirPeek]
    rw [State.get_set_same, hfind]
    rfl
  · exact (State.setAll_within ..).trans (State.set_within ..)
  · exact ((((RegsKept.refl _ s).set _ (by simp)).set _ (by simp)).set _ (by simp)).set _ (by simp)

theorem DirEnt.bits_low (e : DirEnt) : e.bits % 2 ^ 64 % 2 = 1 ∧ e.bits % 2 ^ 64 / 2 % 4 = e.state.code ∧
    e.bits % 2 ^ 64 / 8 % 2 = (if e.bulk then 1 else 0) ∧ e.bits % 2 ^ 64 / 16 % 2 ^ 17 = e.presence % 2 ^ 17 := by
  have hcode : e.state.code < 4 := by cases e.state <;> decide
  have hbulk : (if e.bulk then 1 else 0) < 2 := by split <;> decide
  rw [DirEnt.bits]
  omega

theorem State.get_qpPeek (s : State) (v : Nat) {y : Qp} (hy : y = s.qp (v % 16) (v / 16 % 4096)) :
    (s.qpPeek v).get fOutQpPeekCtrl_partition = v % 16 ∧ (s.qpPeek v).get fOutQpPeekCtrl_qp = v / 16 % 4096 ∧
      (s.qpPeek v).get fOutQpPeekData_state = y.state % 4 ∧ (s.qpPeek v).get fOutQpPeekData_error = y.error % 16 ∧
      (s.qpPeek v).get fOutQpPeekData_psn = y.psn % 2 ^ 24 ∧
      (y.state ≠ 0 → (s.qpPeek v).get fOutQpPeekData_qpn = y.incarnation % 256 * 2 ^ 16 + v % 16 * 2 ^ 12 + v / 16 % 4096) := by
  have hp : bitsAt v 0 4 = v % 16 := by simp [bitsAt_eq]
  have hq : bitsAt v 4 12 = v / 16 % 4096 := by simp [bitsAt_eq]
  rw [State.qpPeek, hp, hq, ← hy]
  simp [State.setAll, State.get_set, Fld.mk_key_eq_iff, fOutQpPeekCtrl_partition, fOutQpPeekCtrl_qp, fOutQpPeekData_state,
    fOutQpPeekData_error, fOutQpPeekData_psn, fOutQpPeekData_qpn, RegKind.addr, RegKind.base, kOutQpPeekCtrl, kOutQpPeekData, qpNumber]
  intro hstate
  rw [if_neg hstate]
  omega

theorem State.get_labelPeek (s : State) (v : Nat) {e : Nat × Nat}
    (he : e = mapGet (16000, 0) s.power.labels (v % 8 * 256 + v / 8 % 256)) :
    (s.labelPeek v).get fPwrLabelCtrl_die = v % 8 ∧ (s.labelPeek v).get fPwrLabelCtrl_label = v / 8 % 256 ∧
      (s.labelPeek v).get fPwrLabelData_nj = e.1 % 2 ^ 32 ∧ (s.labelPeek v).get fPwrLabelData_updates = min (2 ^ 32 - 1) e.2 := by
  have hd : bitsAt v 0 3 = v % 8 := by simp [bitsAt_eq]
  have hl : bitsAt v 3 8 = v / 8 % 256 := by simp [bitsAt_eq]
  rw [State.labelPeek, hd, hl, ← he]
  simp [State.setAll, State.get_set, Fld.mk_key_eq_iff, fPwrLabelCtrl_die, fPwrLabelCtrl_label, fPwrLabelData_nj, fPwrLabelData_updates,
    RegKind.addr, RegKind.base, kPwrLabelCtrl, kPwrLabelData]

/-! ## Registers of the management space -/

/-- The fields that are worked out when they are read. -/
def reportKeys : List (RegKind × Nat) := (State.reports {}).map fun r => (r.kind, r.lo)

theorem State.map_reports (s : State) : s.reports.map (fun r => (r.kind, r.lo)) = reportKeys := by
  simp only [reportKeys, State.reports, State.moduleReports, State.tileReports, State.memoryReports, List.map_append, List.map_cons,
    List.map_nil]

theorem State.mem_reportKeys {s : State} {r : Report} (hr : r ∈ s.reports) : (r.kind, r.lo) ∈ reportKeys :=
  s.map_reports ▸ List.mem_map_of_mem (f := fun r : Report => (r.kind, r.lo)) hr

/-- A field that is not worked out reads what the register file holds. -/
theorem State.fieldValue_of_held {a lo : Nat} (h : reportKeys.all (fun k => k.2 != lo || (k.1.instAt a).isNone) = true) (s : State)
    (w : Nat) : s.fieldValue a lo w = s.get ⟨a, lo, w⟩ := by
  have hnone : (s.reports.findSome? fun r =>
      if r.lo = lo then (r.kind.instAt a).map fun i => r.value (spaceOf a).2.1 i else none) = none := by
    rw [List.findSome?_eq_none_iff]
    intro r hr
    have hkey := List.all_eq_true.1 h _ (State.mem_reportKeys hr)
    split
    next hlo =>
      have hinst : r.kind.instAt a = none := by simpa [hlo] using hkey
      rw [hinst]
      rfl
    · rfl
  rw [State.fieldValue, hnone]

/-- A register of the device, outside the MSI-X table and the tiles' windows. -/
theorem State.target_dev {off : Nat} (h : off < 0x480000) (halign : off % 8 = 0) (hrow : (rowsAt off).isEmpty = false) (s : State) :
    s.target .pf off 8 = .reg off := by
  have hmsix : msixOff .pf off = none := if_neg (by simp; omega)
  have hspace : spaceOf off = (.dev, 0, off) := (if_neg (by omega)).trans (if_neg (by simp; omega))
  have hwindow : s.deadWindow off = false := by rw [State.deadWindow, windowOf, hspace]
  have hassigned : s.assigned off = true := by
    rw [State.assigned, hspace]
    simp [hrow]
  rw [State.target, hmsix]
  refine (if_neg (by simp [halign])).trans ((if_neg (by simp [hwindow])).trans (if_pos ?_))
  rw [hassigned, Bool.and_true]
  exact decide_eq_true (show off < 2 ^ 28 by omega)

theorem State.barAccess_write {s : State} {sp : Space} {off a : Nat} (h : s.target sp off 8 = .reg a) (v : Nat) :
    s.barAccess sp off 8 true v = s.writeReg a v := by
  rw [State.barAccess, if_pos rfl, State.write_reg h]

theorem State.barAccess_read {s : State} {sp : Space} {off a : Nat} (h : s.target sp off 8 = .reg a) (v : Nat) :
    s.barAccess sp off 8 false v = { s with lastRead := s.readReg a } := by
  rw [State.barAccess, if_neg Bool.false_ne_true, State.read_reg h]

/-- A bad access logs itself; a read returns ones, or 0 where no register stands. -/
theorem State.barAccess_narrow {s : State} {sp : Space} {off width : Nat} (h : s.target sp off width = .narrow) (w : Bool) (v : Nat) :
    s.barAccess sp off width w v = if w then s.event 0x18 1 off (spaceFn sp + 256 * width)
      else { s.event 0x18 1 off (spaceFn sp + 256 * width) with lastRead := 2 ^ (8 * width) - 1 } := by
  cases w
  · rw [State.barAccess, if_neg Bool.false_ne_true, State.read_narrow h, State.badAccess, allOnes, if_neg Bool.false_ne_true]
  · rw [State.barAccess, if_pos rfl, State.write, h, if_pos rfl, State.badAccess]

theorem State.barAccess_unassigned {s : State} {sp : Space} {off : Nat} (h : s.target sp off 8 = .unassigned) (w : Bool) (v : Nat) :
    s.barAccess sp off 8 w v = if w then s.event 0x18 1 off (spaceFn sp + 2048)
      else { s.event 0x18 1 off (spaceFn sp + 2048) with lastRead := 0 } := by
  cases w
  · rw [State.barAccess, if_neg Bool.false_ne_true, State.read, h, if_neg Bool.false_ne_true, State.badAccess]
  · rw [State.barAccess, if_pos rfl, State.write_unassigned h, if_pos rfl, State.badAccess]

theorem rowsAt_fltRecTail : rowsAt kFltRecTail.off = [⟨kFltRecTail, 0, 32, .rw, .kept, .live, 0, 0, 1⟩] := by decide +kernel

theorem State.writeReg_fltRecTail (s : State) (v : Nat) : s.writeReg kFltRecTail.off v = s.recTail v := by
  have haction : (actions.findSome? fun x => (x.kind.instAt kFltRecTail.off).map fun i => (x, i)) =
      some (⟨kFltRecTail, true, fun s _ _ v => s.recTail v⟩, 0) := rfl
  rw [State.writeReg, haction]
  rfl

/-- A register of one field at bit 0 reads the field. -/
theorem State.readReg_single {a : Nat} {r : FieldRow} (hrow : rowsAt a = [r]) (hlo : r.los = [0]) (hacc : r.acc ≠ .wo)
    (hheld : reportKeys.all (fun k => k.2 != 0 || (k.1.instAt a).isNone) = true) (s : State) :
    s.readReg a = s.get ⟨a, 0, r.width⟩ := by
  simp [State.readReg, hrow, State.rowValue, hacc, hlo, State.fieldValue_of_held hheld]

theorem State.target_fltRecTail (s : State) : s.target .pf kFltRecTail.off 8 = .reg kFltRecTail.off :=
  State.target_dev (by decide) (by decide) (by rw [rowsAt_fltRecTail]; rfl) s

theorem State.readReg_fltRecTail (s : State) : s.readReg kFltRecTail.off = s.get fFltRecTail_count :=
  State.readReg_single rowsAt_fltRecTail rfl (by decide) (by decide +kernel) s

theorem Within.setAll_regs {s : State} (l : List (Fld × Nat)) {fs : List Fld} (h : l.map Prod.fst = fs) :
    Within [.regs] s (s.setAll l) ∧ RegsKept fs s (s.setAll l) := ⟨State.setAll_within .., h ▸ RegsKept.setAll_refl s l⟩

/-- An access of an unassigned offset, from the event that it logs. -/
theorem unassigned_logged {s u : State} {sp : Space} {off : Nat} {w : Bool} (htarget : s.target sp off 8 = .unassigned)
    (haccess : s.barAccess sp off 8 w 0 = if w then u else { u with lastRead := 0 })
    (hw : Within [.regs, .uci, .flt, .out, .lastRead] s u) (hkept : RegsKept (eventFields s) s u) :
    ∃ v, exec (.unassignedAccess sp off w) s = .next v ∧ (w = false → v.lastRead = 0) ∧
      Within [.regs, .uci, .flt, .out, .lastRead] s v ∧ RegsKept (eventFields s) s v := by
  have hexec : exec (.unassignedAccess sp off w) s = .next (if w then u else { u with lastRead := 0 }) :=
    congrArg Host.Outcome.next ((if_pos htarget).trans haccess)
  cases w with
  | true => exact ⟨u, hexec, fun h => absurd h (by decide), hw, hkept⟩
  | false => exact ⟨_, hexec, fun _ => rfl, hw.setLastRead _, hkept⟩

/-- Settles O30: tails move only behind their heads, peeks show what they name, and a bad access logs itself. -/
theorem tailsAndPeeks : Obligations.TailsAndPeeks := by
  unfold Obligations.TailsAndPeeks
  refine ⟨fun s v gap hgap => ⟨fun h => ?_, fun h => ?_⟩, fun s v gap hgap => ⟨fun h => ?_, fun h => ?_⟩,
    fun s d v gap hgap => ⟨fun h => ?_, fun h => ?_⟩, fun s d v e hdir hkey hway => ?_, fun s d v hnone => ?_, fun s v y hy => ?_,
    fun s v e he => ?_, fun s v hgap => ?_, fun s v w => ?_, fun s sp off w htarget => ?_⟩
  · subst hgap
    exact ⟨_, rfl, State.consume_taken rfl rfl (by decide) h⟩
  · subst hgap
    exact congrArg Host.Outcome.next (State.consume_ignored h)
  · subst hgap
    exact ⟨_, rfl, State.consume_taken rfl rfl (by decide) h⟩
  · subst hgap
    exact congrArg Host.Outcome.next (State.consume_ignored h)
  · subst hgap
    have hne : (fDirLostTail_count d).key ≠ (fDirLostStatus_full d).key := by
      simp only [Fld.key, fDirLostTail_count, fDirLostStatus_full, RegKind.addr, RegKind.base, kDirLostTail, kDirLostStatus]
      omega
    exact ⟨_, rfl, State.consume_taken rfl rfl hne h⟩
  · subst hgap
    exact congrArg Host.Outcome.next (State.consume_ignored h)
  · obtain ⟨u, hexec, hget, hw, hkept⟩ := exec_dirPeek s d v
    have hpeeked : s.peeked d v.toNat = some e := by
      rw [State.peeked, hdir]
      exact List.find?_cons_of_pos (by simp [hkey, hway])
    rw [hpeeked] at hget
    obtain ⟨hvalid, hcode, hbulk, hpresence⟩ := e.bits_low
    rw [← show u.get (fDirPeekData_entry d) = e.bits % 2 ^ 64 from hget] at hvalid hcode hbulk hpresence
    exact ⟨u, _, hexec, rfl, hvalid, hcode, hbulk, hpresence, hw, hkept⟩
  · obtain ⟨u, hexec, hget, hw, hkept⟩ := exec_dirPeek s d v
    have hpeeked : s.peeked d v.toNat = none := by
      rw [State.peeked, List.find?_eq_none]
      intro e he
      rcases hnone e he with h | h <;> simp [h]
    rw [hpeeked] at hget
    exact ⟨u, hexec, hget, hw, hkept⟩
  · obtain ⟨hp, hq, hstate, herror, hpsn, hqpn⟩ := s.get_qpPeek v.toNat hy
    exact ⟨s.qpPeek v.toNat, rfl, hp, hq, hstate, herror, hpsn, hqpn, Within.setAll_regs _ rfl⟩
  · obtain ⟨hd, hl, hnj, hupdates⟩ := s.get_labelPeek v.toNat he
    exact ⟨s.labelPeek v.toNat, rfl, hd, hl, hnj, hupdates, Within.setAll_regs _ rfl⟩
  · have hexec : exec (.registerWrite .pf kFltRecTail.off v) s = .next (s.recTail v.toNat) :=
      congrArg Host.Outcome.next ((State.barAccess_write s.target_fltRecTail _).trans (s.writeReg_fltRecTail _))
    obtain ⟨htail, -, hw, hkept⟩ := State.consume_taken (s := s) (head := fFltRecHead_count) (tail := fFltRecTail_count)
      (full := fFltRecStatus_full) rfl rfl (by decide) hgap
    refine ⟨_, hexec, htail, fun w => congrArg Host.Outcome.next ((State.barAccess_read (State.target_fltRecTail _) _).trans ?_), hw, hkept⟩
    rw [State.readReg_fltRecTail, State.recTail, htail]
  · have hmsix : msixOff .pf kFltRecTail.off = none := rfl
    have htarget : s.target .pf kFltRecTail.off 4 = .narrow := by
      rw [State.target, hmsix]
      exact if_pos (by decide)
    have haccess := State.barAccess_narrow htarget w v.toNat
    rw [show spaceFn .pf + 256 * 4 = 1024 from rfl, show 8 * 4 = 32 from rfl] at haccess
    exact congrArg Host.Outcome.next haccess
  · exact unassigned_logged htarget (State.barAccess_unassigned htarget w 0) (State.event_within ..).mono
      (State.event_regsKept s 0x18 1 off (spaceFn sp + 2048) none)

end Sys2Proof.Machine

/-! SUPPORT. Register accesses through a BAR, by access type and class (R8, R10, R11, R22, R323): the statement O31. -/

namespace Sys2Proof.Machine

set_option Elab.async false

/-! ## Offsets that lead to no register -/

theorem State.target_narrow {s : State} {sp : Space} {off width : Nat} (hmsix : msixOff sp off = none) (h : width ≠ 8 ∨ off % 8 ≠ 0) :
    s.target sp off width = .narrow := by
  rw [State.target, hmsix]
  exact if_pos (by simpa using h)

/-- The map of a virtual function that serves no partition. -/
theorem State.target_silent {s : State} {n : Fin 16} {off : Nat} (hpart : s.partOfFn (n.val + 1) = none) (hmsix : msixOff (.vf n) off = none)
    (halign : off % 8 = 0) (hoff : off < barSize (.vf n)) : s.target (.vf n) off 8 = .silent := by
  rw [State.target, hmsix]
  refine (if_neg (by simp [halign])).trans ?_
  rw [State.regTarget]
  simp only [hpart]
  exact if_pos hoff

theorem State.barAccess_silent {s : State} {sp : Space} {off : Nat} (h : s.target sp off 8 = .silent) (w : Bool) (v : Nat) :
    s.barAccess sp off 8 w v = if w then s else { s with lastRead := 0 } := by
  cases w
  · rw [State.barAccess, if_neg Bool.false_ne_true, State.read, h, if_neg Bool.false_ne_true]
  · rw [State.barAccess, if_pos rfl, State.write, h, if_pos rfl]

/-! ## Fields by access type and class -/

theorem State.writeReg_fields {a : Nat} (h : (actions.findSome? fun x => (x.kind.instAt a).map fun i => (x, i)) = none) (s : State) (v : Nat) :
    s.writeReg a v = s.writeFields a v := by rw [State.writeReg, h]

/-- A register of one field that a write reaches. -/
theorem State.writeFields_single {a lo : Nat} {r : FieldRow} (hrow : rowsAt a = [r]) (hlo : r.los = [lo]) (s : State) (v : Nat) :
    s.writeFields a v = s.writeField r ⟨a, lo, r.width⟩ (bitsAt v lo r.width) := by
  rw [State.writeFields, hrow]
  simp [hlo]

theorem State.writeField_static {r : FieldRow} (hacc : r.acc = .rw) (hcls : r.cls = .static) (s : State) (f : Fld) (x : Nat) :
    s.writeField r f x = if s.blockRuns f.addr then s.busyWrite f.addr else s.set f x := by rw [State.writeField, hacc, hcls]

theorem State.writeField_stitch {r : FieldRow} (hacc : r.acc = .rw) (hcls : r.cls = .stitch) (s : State) (f : Fld) (x : Nat) :
    s.writeField r f x = s.setShadow f x := by rw [State.writeField, hacc, hcls]

theorem State.writeField_ro {r : FieldRow} (hacc : r.acc = .ro) (s : State) (f : Fld) (x : Nat) : s.writeField r f x = s := by
  rw [State.writeField, hacc]

theorem State.writeField_wo {r : FieldRow} (hacc : r.acc = .wo) (s : State) (f : Fld) (x : Nat) : s.writeField r f x = s := by
  rw [State.writeField, hacc]

theorem State.writeField_w1c {r : FieldRow} (hacc : r.acc = .w1c) (s : State) (f : Fld) (x : Nat) :
    s.writeField r f x = s.set f (s.get f - (s.get f &&& x)) := by rw [State.writeField, hacc]

theorem Nat.testBit_sub_and (x y i : Nat) : (x - (x &&& y)).testBit i = (x.testBit i && !y.testBit i) := by
  have hle : (x &&& y) ≤ x := Nat.and_le_left
  have hlow : (x &&& y) % 2 = 1 ↔ x % 2 = 1 ∧ y % 2 = 1 := Nat.and_mod_two_eq_one
  induction i generalizing x y with
  | zero =>
    have hbit : (x - (x &&& y)) % 2 = 1 ↔ x % 2 = 1 ∧ ¬ y % 2 = 1 := by omega
    simp only [Nat.testBit_zero, hbit, Bool.decide_and, decide_not]
  | succ i ih =>
    have hhalf : (x - (x &&& y)) / 2 = x / 2 - (x / 2 &&& y / 2) := by
      rw [← Nat.and_div_two]
      omega
    rw [Nat.testBit_succ, hhalf, ih _ _ Nat.and_le_left Nat.and_mod_two_eq_one, Nat.testBit_succ, Nat.testBit_succ]

/-! ## The registers of the statement -/

theorem rowsAt_ldrAddr : rowsAt fLdrAddr_addr.addr = [⟨kLdrAddr, 6, 58, .rw, .cold, .static, 0, 0, 1⟩] := by decide +kernel

theorem rowsAt_pwrCapSet : rowsAt fPwrCapSet_cap_w.addr = [⟨kPwrCapSet, 0, 13, .rw, .kept, .stitch, 5000, 0, 1⟩] := by decide +kernel

theorem rowsAt_pwrThrottle : rowsAt fPwrThrottle_seen.addr =
    [⟨kPwrThrottle, 0, 7, .ro, .kept, .live, 0, 0, 1⟩, ⟨kPwrThrottle, 8, 7, .w1c, .kept, .live, 0, 0, 1⟩] := by decide +kernel

theorem rowsAt_fltRecHead : rowsAt fFltRecHead_count.addr = [⟨kFltRecHead, 0, 32, .ro, .kept, .live, 0, 0, 1⟩] := by decide +kernel

theorem rowsAt_pwrLabelCtrl : (rowsAt kPwrLabelCtrl.off).isEmpty = false := by decide +kernel

theorem rowsAt_clears (d : Die) : rowsAt (kDirCntCtrl.addr d 0) = [⟨kDirCntCtrl, 0, 1, .wo, .cold, .live, 0, 0, 1⟩] ∧
    rowsAt (kDramCntCtrl.addr d 0) = [⟨kDramCntCtrl, 0, 1, .wo, .cold, .live, 0, 0, 1⟩] := by
  revert d
  decide +kernel

theorem State.blockRuns_ldrAddr (s : State) : s.blockRuns fLdrAddr_addr.addr = !s.loaderIdle := if_pos (by decide)

/-- LDR_ADDR keeps its value while the loader runs (R11). -/
theorem State.writeReg_ldrAddr (s : State) (v : Nat) : s.writeReg fLdrAddr_addr.addr v =
    if s.loaderIdle then s.set fLdrAddr_addr (bitsAt v 6 58) else s.busyWrite fLdrAddr_addr.addr := by
  rw [State.writeReg_fields rfl, State.writeFields_single rowsAt_ldrAddr rfl, State.writeField_static rfl rfl, State.blockRuns_ldrAddr]
  cases s.loaderIdle <;> rfl

theorem State.shadow_setShadow (s : State) (f : Fld) (v : Nat) :
    mapGet none (s.setShadow f v).cfg.shadow f.key = some (v % 2 ^ f.width) := by
  show mapGet none (mapSet none s.cfg.shadow f.key (some (v % 2 ^ f.width))) f.key = _
  exact mapGet_mapSet_same ..

theorem State.writeReg_pwrCapSet (s : State) (v : Nat) :
    s.writeReg fPwrCapSet_cap_w.addr v = s.setShadow fPwrCapSet_cap_w (bitsAt v 0 13) := by
  rw [State.writeReg_fields rfl, State.writeFields_single rowsAt_pwrCapSet rfl, State.writeField_stitch rfl rfl]
  rfl

theorem State.writeReg_pwrThrottle (s : State) (v : Nat) : s.writeReg fPwrThrottle_seen.addr v =
    s.set fPwrThrottle_seen (s.get fPwrThrottle_seen - (s.get fPwrThrottle_seen &&& bitsAt v 8 7)) := by
  rw [State.writeReg_fields rfl, State.writeFields, rowsAt_pwrThrottle]
  rfl

theorem State.writeReg_pwrLabelCtrl (s : State) (v : Nat) : s.writeReg kPwrLabelCtrl.off v = s.labelPeek v := by
  have haction : (actions.findSome? fun x => (x.kind.instAt kPwrLabelCtrl.off).map fun i => (x, i)) =
      some (⟨kPwrLabelCtrl, true, fun s _ _ v => s.labelPeek v⟩, 0) := rfl
  rw [State.writeReg, haction]
  rfl

/-! ## Registers of a die -/

theorem spaceOf_die (d : Die) {o : Nat} (ho : o < 0x100000) : spaceOf (0x800000 + d.val * 0x1000000 + o) = (.die, d.val, o) := by
  have hd := d.isLt
  refine (if_neg (by omega)).trans ((if_pos (by simp; omega)).trans ?_)
  simp only [Prod.mk.injEq, true_and]
  omega

/-- A register of a die, outside the tiles' windows. -/
theorem State.target_die {d : Die} {o : Nat} (ho : o < 0x100000) (halign : o % 8 = 0)
    (hrow : (rowsAt (0x800000 + d.val * 0x1000000 + o)).isEmpty = false) (s : State) :
    s.target .pf (0x800000 + d.val * 0x1000000 + o) 8 = .reg (0x800000 + d.val * 0x1000000 + o) := by
  have hd := d.isLt
  have hmsix : msixOff .pf (0x800000 + d.val * 0x1000000 + o) = none := if_neg (by simp; omega)
  have hspace := spaceOf_die d ho
  have hwindow : s.deadWindow (0x800000 + d.val * 0x1000000 + o) = false := by
    rw [State.deadWindow, windowOf, hspace]
    dsimp only
    rw [if_neg (by simp; omega)]
  have hassigned : s.assigned (0x800000 + d.val * 0x1000000 + o) = true := by
    rw [State.assigned, hspace]
    simp [hrow]
  rw [State.target, hmsix]
  refine (if_neg (by simp; omega)).trans ((if_neg (by simp [hwindow])).trans (if_pos ?_))
  rw [hassigned, Bool.and_true]
  exact decide_eq_true (show 0x800000 + d.val * 0x1000000 + o < 2 ^ 28 by omega)

/-- A register of one WO field, whose bit 0 clears. -/
theorem State.writeReg_onBit0 {a i : Nat} {k : RegKind} {r : FieldRow} {f : State → Nat → Nat → State} (hrow : rowsAt a = [r])
    (hlos : r.los = [0]) (hacc : r.acc = .wo) (haction : (actions.findSome? fun x => (x.kind.instAt a).map fun i => (x, i)) =
      some (onBit0 k f, i)) {v : Nat} (hv : v.testBit 0 = true) (s : State) : s.writeReg a v = f s (spaceOf a).2.1 i := by
  rw [State.writeReg, haction]
  dsimp only [onBit0]
  rw [if_neg Bool.false_ne_true, State.writeFields_single hrow hlos, State.writeField_wo hacc, if_pos hv]

theorem actions_dirCntCtrl (d : Die) : (actions.findSome? fun x => (x.kind.instAt (kDirCntCtrl.addr d 0)).map fun i => (x, i)) =
    some (onBit0 kDirCntCtrl fun s d _ => s.clearDir d, 0) := by
  fin_cases d <;> rfl

theorem actions_dramCntCtrl (d : Die) : (actions.findSome? fun x => (x.kind.instAt (kDramCntCtrl.addr d 0)).map fun i => (x, i)) =
    some (onBit0 kDramCntCtrl fun s d _ => s.clearDram d, 0) := by
  fin_cases d <;> rfl

theorem exec_dirCntCtrl (s : State) (d : Die) {v : Word} (hv : v.toNat.testBit 0 = true) :
    exec (.registerWrite .pf (kDirCntCtrl.addr d 0) v) s = exec (.dirCntClear d) s := by
  have hrow := (rowsAt_clears d).1
  have haddr : kDirCntCtrl.addr d 0 = 0x800000 + d.val * 0x1000000 + 0x40080 := by simp [RegKind.addr, RegKind.base, kDirCntCtrl]
  have htarget : s.target .pf (kDirCntCtrl.addr d 0) 8 = .reg (kDirCntCtrl.addr d 0) :=
    State.target_die (d := d) (o := 0x40080) (by decide) (by decide) (by rw [← haddr, hrow]; rfl) s
  refine congrArg Host.Outcome.next ((State.barAccess_write htarget _).trans ?_)
  rw [State.writeReg_onBit0 hrow rfl rfl (actions_dirCntCtrl d) hv, haddr, spaceOf_die d (by decide)]

theorem exec_dramCntCtrl (s : State) (d : Die) {v : Word} (hv : v.toNat.testBit 0 = true) :
    exec (.registerWrite .pf (kDramCntCtrl.addr d 0) v) s = exec (.dramCntClear d) s := by
  have hrow := (rowsAt_clears d).2
  have haddr : kDramCntCtrl.addr d 0 = 0x800000 + d.val * 0x1000000 + 0x50010 := by simp [RegKind.addr, RegKind.base, kDramCntCtrl]
  have htarget : s.target .pf (kDramCntCtrl.addr d 0) 8 = .reg (kDramCntCtrl.addr d 0) :=
    State.target_die (d := d) (o := 0x50010) (by decide) (by decide) (by rw [← haddr, hrow]; rfl) s
  refine congrArg Host.Outcome.next ((State.barAccess_write htarget _).trans ?_)
  rw [State.writeReg_onBit0 hrow rfl rfl (actions_dramCntCtrl d) hv, haddr, spaceOf_die d (by decide)]

/-! ## The MSI-X table -/

theorem State.target_msix {o : Nat} (ho : o + 8 ≤ 128) (halign : o % 8 = 0) (s : State) : s.target .pf (0x480000 + o) 8 = .msix o := by
  have hmsix : msixOff .pf (0x480000 + o) = some o := (if_pos (by simp; omega)).trans (by simp)
  have hholds : msixHolds (spaceFn .pf) o 8 = true := by
    rw [msixHolds, show 16 * vectorCount (spaceFn .pf) = 128 from rfl]
    simp [ho]
  rw [State.target, hmsix]
  exact (if_pos hholds).trans (if_pos (by simp; omega))

theorem State.barAccess_msix {s : State} {o : Nat} (h : s.target .pf (0x480000 + o) 8 = .msix o) (v : Nat) :
    s.barAccess .pf (0x480000 + o) 8 true v = (s.msixWrite 0 o (v % 2 ^ 32)).msixWrite 0 (o + 4) (v / 2 ^ 32 % 2 ^ 32) := by
  rw [State.barAccess, if_pos rfl, State.write, h]
  rfl

theorem State.vector_setVector_ne (s : State) {f j fn vec : Nat} (v : Vector) (h : f ≠ fn ∨ j ≠ vec) (hj : j < 32) (hvec : vec < 32) :
    (s.setVector fn vec v).vector f j = s.vector f j := mapGet_mapSet_ne _ _ _ (by omega)

section Msix
variable {s : State} {k : Nat}

theorem State.msixWrite_addrLo (hk : k < 8) (v : Nat) : s.msixWrite 0 (16 * k) v = s.setVector 0 k { s.vector 0 k with addrLo := v } := by
  rw [State.msixWrite, if_neg (by omega), show 16 * k / 16 = k by omega, show 16 * k / 4 % 4 = 0 by omega]
  rfl

theorem State.msixWrite_addrHi (hk : k < 8) (v : Nat) :
    s.msixWrite 0 (16 * k + 4) v = s.setVector 0 k { s.vector 0 k with addrHi := v } := by
  rw [State.msixWrite, if_neg (by omega), show (16 * k + 4) / 16 = k by omega, show (16 * k + 4) / 4 % 4 = 1 by omega]
  rfl

theorem State.msixWrite_data (hk : k < 8) (v : Nat) :
    s.msixWrite 0 (8 + 16 * k) v = s.setVector 0 k { s.vector 0 k with data := v } := by
  rw [State.msixWrite, if_neg (by omega), show (8 + 16 * k) / 16 = k by omega, show (8 + 16 * k) / 4 % 4 = 2 by omega]
  rfl

theorem State.msixWrite_mask (hk : k < 8) {v : Nat} (hv : v.testBit 0 = true) :
    s.msixWrite 0 (8 + 16 * k + 4) v = s.setVector 0 k { s.vector 0 k with masked := true } := by
  rw [State.msixWrite, if_neg (by omega), show (8 + 16 * k + 4) / 16 = k by omega, show (8 + 16 * k + 4) / 4 % 4 = 3 by omega]
  exact if_pos hv

end Msix

/-- Two writes of a vector of the physical function. -/
theorem State.setVector_twice_spec (s : State) {k : Nat} (hk : k < 8) (x y : Vector) :
    ((s.setVector 0 k x).setVector 0 k y).vector 0 k = y ∧
      (∀ f j, (f ≠ 0 ∨ j ≠ k) → j < 32 → ((s.setVector 0 k x).setVector 0 k y).vector f j = s.vector f j) ∧
      Within [.uci] s ((s.setVector 0 k x).setVector 0 k y) := by
  refine ⟨State.vector_setVector .., fun f j h hj => ?_, (State.setVector_within ..).trans (State.setVector_within ..)⟩
  rw [State.vector_setVector_ne _ _ h hj (by omega), State.vector_setVector_ne _ _ h hj (by omega)]

/-- Settles O31: each access does what its target, its field's type and its field's class say. -/
theorem registerAccess : Obligations.RegisterAccess := by
  unfold Obligations.RegisterAccess
  refine ⟨fun s sp off width v hmsix h => ⟨?_, ?_⟩, fun s sp off htarget => ⟨?_, ?_⟩, fun s sp off w htarget => ?_,
    fun s n off v hpart hmsix halign hoff => ⟨?_, ?_⟩, fun s v hidle => ?_, fun s v hbusy => ?_, fun s v => ?_, fun s v => ?_, fun s v => ?_,
    fun s v => ?_, fun s d v hv => ⟨exec_dirCntCtrl s d hv, exec_dramCntCtrl s d hv⟩, fun s v => ⟨?_, ?_⟩, fun s k v => ?_, fun s k v hv => ?_⟩
  · exact congrArg Host.Outcome.next ((State.barAccess_narrow (State.target_narrow hmsix h) true _).trans (if_pos rfl))
  · exact congrArg Host.Outcome.next ((State.barAccess_narrow (State.target_narrow hmsix h) false _).trans
      (if_neg Bool.false_ne_true))
  · exact congrArg Host.Outcome.next ((if_pos htarget).trans
      ((State.barAccess_unassigned htarget true 0).trans (if_pos rfl)))
  · exact congrArg Host.Outcome.next ((if_pos htarget).trans
      ((State.barAccess_unassigned htarget false 0).trans (if_neg Bool.false_ne_true)))
  · exact congrArg Host.Outcome.next (if_neg htarget)
  · exact congrArg Host.Outcome.next (State.barAccess_silent (State.target_silent hpart hmsix halign hoff) true _)
  · exact congrArg Host.Outcome.next (State.barAccess_silent (State.target_silent hpart hmsix halign hoff) false _)
  · have hexec : exec (.registerWrite .pf fLdrAddr_addr.addr v) s = .next (s.set fLdrAddr_addr (bitsAt v.toNat 6 58)) := by
      refine congrArg Host.Outcome.next ((State.barAccess_write (State.target_dev (by decide) (by decide) ?_ s) _).trans ?_)
      · rw [rowsAt_ldrAddr]
        rfl
      · rw [State.writeReg_ldrAddr, if_pos hidle]
    refine ⟨_, hexec, ?_, State.set_within .., (RegsKept.refl _ s).set _ (by simp)⟩
    have hv := v.isLt
    rw [State.get_set_same, bitsAt_eq, show (2 : Nat) ^ fLdrAddr_addr.width = 2 ^ 58 from rfl]
    omega
  · have hexec : exec (.registerWrite .pf fLdrAddr_addr.addr v) s = .next (s.busyWrite fLdrAddr_addr.addr) := by
      refine congrArg Host.Outcome.next ((State.barAccess_write (State.target_dev (by decide) (by decide) ?_ s) _).trans ?_)
      · rw [rowsAt_ldrAddr]
        rfl
      · rw [State.writeReg_ldrAddr, if_neg (by simp [hbusy])]
    refine ⟨_, hexec, ?_, ?_, State.get_set_same .., Within.setAll_regs _ rfl⟩
    · exact State.get_setAll_ne _ _ _ (by decide)
    · exact (State.get_set_ne _ _ (by decide)).trans (State.get_set_same ..)
  · have hexec : exec (.registerWrite .pf fPwrCapSet_cap_w.addr v) s = .next (s.setShadow fPwrCapSet_cap_w (bitsAt v.toNat 0 13)) := by
      refine congrArg Host.Outcome.next ((State.barAccess_write (State.target_dev (by decide) (by decide) ?_ s) _).trans
        (s.writeReg_pwrCapSet _))
      rw [rowsAt_pwrCapSet]
      rfl
    refine ⟨_, hexec, ?_, rfl, rfl, (Within.refl _ s).setCfg _⟩
    rw [State.shadow_setShadow, bitsAt_eq, Nat.pow_zero, Nat.div_one]
    exact congrArg some (Nat.mod_mod ..)
  · have hexec : exec (.registerWrite .pf fPwrThrottle_seen.addr v) s = .next
        (s.set fPwrThrottle_seen (s.get fPwrThrottle_seen - (s.get fPwrThrottle_seen &&& bitsAt v.toNat 8 7))) := by
      refine congrArg Host.Outcome.next ((State.barAccess_write (State.target_dev (by decide) (by decide) ?_ s) _).trans
        (s.writeReg_pwrThrottle _))
      rw [rowsAt_pwrThrottle]
      rfl
    refine ⟨_, hexec, fun i hi => ?_, State.set_within .., (RegsKept.refl _ s).set _ (by simp)⟩
    rw [State.get_set_same, Nat.testBit_mod_two_pow, Nat.testBit_sub_and, bitsAt, Nat.testBit_mod_two_pow, Nat.testBit_shiftRight]
    simp [fPwrThrottle_seen, hi]
  · refine congrArg Host.Outcome.next ((State.barAccess_write (State.target_dev (by decide) (by decide) ?_ s) _).trans ?_)
    · rw [rowsAt_fltRecHead]
      rfl
    · rw [State.writeReg_fields rfl, State.writeFields_single rowsAt_fltRecHead rfl, State.writeField_ro rfl]
  · have hread : s.readReg fFltRecHead_count.addr = s.get fFltRecHead_count :=
      State.readReg_single rowsAt_fltRecHead rfl (by decide) (by decide +kernel) s
    rw [← hread]
    refine congrArg Host.Outcome.next (State.barAccess_read (State.target_dev (by decide) (by decide) ?_ s) _)
    rw [rowsAt_fltRecHead]
    rfl
  · exact congrArg Host.Outcome.next ((State.barAccess_write s.target_fltRecTail _).trans (s.writeReg_fltRecTail _))
  · exact congrArg Host.Outcome.next ((State.barAccess_write (State.target_dev (by decide) (by decide) rowsAt_pwrLabelCtrl s) _).trans
      (s.writeReg_pwrLabelCtrl _))
  · have hexec : exec (.registerWrite .pf (0x480000 + 16 * k.val) v) s = _ :=
      congrArg Host.Outcome.next (State.barAccess_msix (State.target_msix (by omega) (by omega) s) v.toNat)
    have hhi : v.toNat / 2 ^ 32 % 2 ^ 32 = v.toNat / 2 ^ 32 := Nat.mod_eq_of_lt (by have := v.isLt; omega)
    rw [State.msixWrite_addrLo k.isLt, State.msixWrite_addrHi k.isLt, State.vector_setVector, hhi] at hexec
    exact ⟨_, hexec, State.setVector_twice_spec s k.isLt _ _⟩
  · have haddr : 0x480008 + 16 * k.val = 0x480000 + (8 + 16 * k.val) := by omega
    have hmask : (v.toNat / 2 ^ 32 % 2 ^ 32).testBit 0 = true := by
      rw [Nat.testBit_eq_decide_div_mod_eq, decide_eq_true_iff] at hv ⊢
      omega
    have hexec : exec (.registerWrite .pf (0x480000 + (8 + 16 * k.val)) v) s = _ :=
      congrArg Host.Outcome.next (State.barAccess_msix (State.target_msix (by omega) (by omega) s) v.toNat)
    rw [State.msixWrite_data k.isLt, State.msixWrite_mask k.isLt hmask, State.vector_setVector, ← haddr] at hexec
    exact ⟨_, hexec, State.setVector_twice_spec s k.isLt _ _⟩

end Sys2Proof.Machine

/-! SUPPORT. Outer ports and PTP (R327 to R330, R332, R343 to R346): the statement O32. -/

namespace Sys2Proof.Machine

set_option Elab.async false

/-! ## Fields of a port -/

theorem State.flag_of_get {s : State} {f : Fld} (h : s.get f = 1) : s.flag f = true := by rw [State.flag, h]; rfl

theorem State.flag_of_get_zero {s : State} {f : Fld} (h : s.get f = 0) : s.flag f = false := by rw [State.flag, h]; rfl

/-- The fields of OUT_PORT_STATUS are told apart by their place. -/
theorem Fld.portStatus_ne (d i : Nat) : (fOutPortStatus_link_up d i).key ≠ (fOutPortStatus_link_losses d i).key ∧
    (fOutPortStatus_preempt d i).key ≠ (fOutPortStatus_link_losses d i).key ∧
    (fOutPortStatus_link_up d i).key ≠ (fOutPortStatus_preempt d i).key ∧
    (fOutPortStatus_link_losses d i).key ≠ (fOutPortStatus_link_up d i).key ∧
    (fOutPortStatus_link_losses d i).key ≠ (fOutPortStatus_preempt d i).key := by
  simp only [Fld.key, fOutPortStatus_link_up, fOutPortStatus_link_losses, fOutPortStatus_preempt]
  omega

theorem Fld.portStatus_offEvents (d i : Nat) : (fOutPortStatus_link_up d i).offEvents = true ∧
    (fOutPortStatus_preempt d i).offEvents = true ∧ (fOutPortStatus_link_losses d i).offEvents = true :=
  ⟨Fld.offEvents_of_die .., Fld.offEvents_of_die .., Fld.offEvents_of_die ..⟩

theorem Fld.portPfc_ne (d i : Nat) : (fOutPortPfc_received d i).key ≠ (fOutPortStatus_paused d i).key ∧
    (fOutPortPfc_received d i).key ≠ (fOutPortRx_count d i).key ∧ (fOutPortStatus_paused d i).key ≠ (fOutPortTx_count d i).key := by
  simp only [Fld.key, fOutPortPfc_received, fOutPortStatus_paused, fOutPortRx_count, fOutPortTx_count, RegKind.addr, RegKind.base, kOutPortPfc,
    kOutPortStatus, kOutPortRx, kOutPortTx]
  omega

/-! ## A link's changes (R327) -/

/-- A port's registers once its link is down. -/
def State.portDown (s : State) (d i : Nat) : State :=
  (s.setAll [(fOutPortStatus_link_up d i, 0), (fOutPortStatus_preempt d i, 0)]).bump (fOutPortStatus_link_losses d i) 1

theorem State.portDown_spec (s : State) (d i : Nat) : (s.portDown d i).get (fOutPortStatus_link_up d i) = 0 ∧
    (s.portDown d i).get (fOutPortStatus_preempt d i) = 0 ∧ (s.portDown d i).get (fOutPortStatus_link_losses d i) =
      satAdd (fOutPortStatus_link_losses d i).width (s.get (fOutPortStatus_link_losses d i)) 1 ∧
    Within [.regs] s (s.portDown d i) ∧
    RegsKept [fOutPortStatus_link_up d i, fOutPortStatus_preempt d i, fOutPortStatus_link_losses d i] s (s.portDown d i) := by
  obtain ⟨hup, hpreempt, hup', hlosses, hlosses'⟩ := Fld.portStatus_ne d i
  refine ⟨?_, ?_, ?_, (State.setAll_within ..).trans (State.bump_within ..),
    (((RegsKept.refl _ s).set _ (by simp)).set _ (by simp)).set _ (by simp)⟩
  · rw [State.portDown, State.get_bump_ne _ _ hup]
    exact (State.get_set_ne _ _ hup').trans (State.get_set_same ..)
  · rw [State.portDown, State.get_bump_ne _ _ hpreempt]
    exact State.get_set_same ..
  · rw [State.portDown, State.get_bump_same, State.get_setAll_ne _ _ _ (by simp [hlosses, hlosses'])]

/-- The registers of a port change, and an event tells it. -/
theorem logged_regs {s u : State} {fs gs : List Fld} (hw : Within [.regs] s u) (hkept : RegsKept fs s u) (hoff : ∀ f ∈ fs, f.offEvents = true)
    (hsub : ∀ f ∈ fs, f ∈ gs) (src code d0 d1 : Nat) :
    Within [.regs, .uci, .flt, .out] s (u.event src code d0 d1) ∧ RegsKept (gs ++ eventFields s) s (u.event src code d0 d1) :=
  ⟨hw.mono.trans (State.event_within ..).mono, (hkept.event hoff src code d0 d1 none).mono fun f hf => by
    rcases List.mem_append.1 hf with hf | hf
    · exact List.mem_append_right _ hf
    · exact List.mem_append_left _ (hsub f hf)⟩

/-! ## Pauses (R330, R332) -/

/-- One waiting frame is served. -/
theorem serveOrder_single (share served : Nat → Nat) (w : Waiting) : serveOrder share [w].length served [w] = [w] := by
  have hnext : nextServed share served [w.part] = some w.part := by
    rw [nextServed]
    by_cases h : share w.part = 0 <;> simp [h]
  have hfind : ([w].find? fun x => x.part == w.part) = some w := List.find?_cons_of_pos (by simp)
  rw [List.length_singleton, serveOrder, List.map_singleton, hnext]
  simp only [hfind, serveOrder]
  simp

/-- Of two partitions' frames, the one with a share is served first. -/
theorem serveOrder_pair {share : Nat → Nat} {w v : Waiting} (hne : w.part ≠ v.part) (hw : share w.part = 0) (hv : 0 < share v.part) :
    serveOrder share [w, v].length (fun _ => 0) [w, v] = [v, w] := by
  have hwv : w ≠ v := fun h => hne (congrArg Waiting.part h)
  have hnext : nextServed share (fun _ => 0) [w.part, v.part] = some v.part := by
    rw [nextServed]
    simp [hw, hv.ne']
  have hfind : ([w, v].find? fun x => x.part == v.part) = some v := by simp [hne]
  have herase : [w, v].erase v = [w] := by
    rw [List.erase_cons_tail (by simpa using hwv)]
    simp
  show serveOrder share 2 (fun _ => 0) [w, v] = [v, w]
  rw [serveOrder, List.map_cons, List.map_singleton, hnext]
  simp only [hfind, herase]
  exact congrArg (v :: ·) (serveOrder_single share _ w)

/-- The state with the pause of a port ended and its queue taken. -/
def State.resumed (s : State) (k : Nat) : State :=
  (s.set (fOutPortStatus_paused (k / 2) (k % 2)) 0).setPortSt k
    { (s.set (fOutPortStatus_paused (k / 2) (k % 2)) 0).portSt k with queued := [] }

theorem State.unpause_eq {s : State} {k : Nat} {q : List Waiting} (hq : (s.portSt k).queued = q) :
    s.unpause k = (serveOrder (fun p => (s.portEnt k).shares.getD p 0) q.length (fun _ => 0) q).foldl
      (fun s w => s.wirePkt k w.hdr w.pkt) (s.resumed k) := by
  subst hq
  rfl

theorem State.resumed_spec (s : State) (k : Nat) : (s.resumed k).portPaused k = false ∧ ((s.resumed k).portSt k).queued = [] ∧
    (s.resumed k).out = s.out ∧ Within [.regs, .outer] s (s.resumed k) := by
  refine ⟨?_, ?_, rfl, ((State.set_within ..).mono).setOuter _⟩
  · have hget : (s.resumed k).get (fOutPortStatus_paused (k / 2) (k % 2)) = 0 :=
      (State.get_of_regs (s := s.set (fOutPortStatus_paused (k / 2) (k % 2)) 0) rfl _).trans (State.get_set_same ..)
    rw [State.portPaused, hget]
    rfl
  · rw [State.portSt, State.resumed, State.setPortSt, mapGet_mapSet_same]

theorem State.wirePkt_spec (s : State) (k : Nat) (h : FrameHdr) (x : Pkt) : (s.wirePkt k h x).portPaused k = s.portPaused k ∧
    (s.wirePkt k h x).portSt k = s.portSt k ∧ (s.wirePkt k h x).out = s.out ++ [.packet k h x] ∧
    Within [.regs, .out] s (s.wirePkt k h x) := by
  refine ⟨?_, rfl, rfl, ((Within.refl [.regs, .out] s).setOut _).trans (State.addTo_within ..).mono⟩
  rw [State.portPaused, State.wirePkt, State.addTo, State.get_set_ne _ _ (Fld.portPfc_ne ..).2.2]
  rfl

/-- What waits at a paused port leaves in its order. -/
theorem State.unpause_spec {s : State} {k : Nat} {q q' : List Waiting} (hq : (s.portSt k).queued = q)
    (horder : serveOrder (fun p => (s.portEnt k).shares.getD p 0) q.length (fun _ => 0) q = q') :
    (s.unpause k).portPaused k = false ∧ ((s.unpause k).portSt k).queued = [] ∧
      (s.unpause k).out = s.out ++ q'.map (fun w => .packet k w.hdr w.pkt) ∧ Within [.regs, .outer, .out] s (s.unpause k) := by
  have hleave : ∀ (l : List Waiting) (u : State), (l.foldl (fun s w => s.wirePkt k w.hdr w.pkt) u).portPaused k = u.portPaused k ∧
      (l.foldl (fun s w => s.wirePkt k w.hdr w.pkt) u).portSt k = u.portSt k ∧
      (l.foldl (fun s w => s.wirePkt k w.hdr w.pkt) u).out = u.out ++ l.map (fun w => .packet k w.hdr w.pkt) ∧
      Within [.regs, .out] u (l.foldl (fun s w => s.wirePkt k w.hdr w.pkt) u) := by
    intro l
    induction l with
    | nil => exact fun u => ⟨rfl, rfl, by simp, Within.refl _ u⟩
    | cons w l ih =>
      intro u
      obtain ⟨hpaused, hport, hout, hw⟩ := u.wirePkt_spec k w.hdr w.pkt
      obtain ⟨hpaused', hport', hout', hw'⟩ := ih (u.wirePkt k w.hdr w.pkt)
      exact ⟨hpaused'.trans hpaused, hport'.trans hport, by simp [hout', hout], hw.trans hw'⟩
  obtain ⟨hpaused, hqueue, hout, hw⟩ := s.resumed_spec k
  obtain ⟨hpaused', hport', hout', hw'⟩ := hleave q' (s.resumed k)
  rw [State.unpause_eq hq, horder]
  exact ⟨hpaused'.trans hpaused, (congrArg PortSt.queued hport').trans hqueue, hout'.trans (by rw [hout]), hw.mono.trans hw'.mono⟩

/-- The port's state, its queue and its last stay when a pause is counted. -/
theorem State.countPause_spec (s : State) (k : Nat) :
    Within [.regs] s ((s.bump (fOutPortPfc_received (k / 2) (k % 2)) 1).rxCount k) ∧
      RegsKept [fOutPortPfc_received (k / 2) (k % 2), fOutPortRx_count (k / 2) (k % 2)] s
        ((s.bump (fOutPortPfc_received (k / 2) (k % 2)) 1).rxCount k) ∧
      ((s.bump (fOutPortPfc_received (k / 2) (k % 2)) 1).rxCount k).get (fOutPortPfc_received (k / 2) (k % 2)) =
        satAdd (fOutPortPfc_received (k / 2) (k % 2)).width (s.get (fOutPortPfc_received (k / 2) (k % 2))) 1 := by
  refine ⟨(State.bump_within ..).trans (State.addTo_within ..), ((RegsKept.refl _ s).set _ (by simp)).set _ (by simp), ?_⟩
  rw [State.rxCount, State.addTo, State.get_set_ne _ _ (Fld.portPfc_ne ..).2.1, State.get_bump_same]

/-- A pause of the class of RoCEv2 packets. -/
theorem exec_pfcPause {s : State} {k : Port} {pcp : Fin 8} (hon : s.portOn k = true) (hpcp : pcp.val = s.portsHdr.rocePcp)
    (hpfc : (s.portEnt k).pfc = true) (t : Nat) :
    exec (.pfcPause k pcp t) s = .next (if t = 0 then ((s.bump (fOutPortPfc_received (k.val / 2) (k.val % 2)) 1).rxCount k).unpause k
      else ((s.bump (fOutPortPfc_received (k.val / 2) (k.val % 2)) 1).rxCount k).set (fOutPortStatus_paused (k.val / 2) (k.val % 2))
        (2 ^ pcp.val)) := by
  refine (if_neg (by simp [hon])).trans (if_neg ?_)
  have hhdr : (s.bump (fOutPortPfc_received (k.val / 2) (k.val % 2)) 1).portsHdr = s.portsHdr := rfl
  have hent : (s.bump (fOutPortPfc_received (k.val / 2) (k.val % 2)) 1).portEnt k = s.portEnt k := rfl
  rw [hhdr, hent, hpfc]
  simp [hpcp]

/-! ## PTP (R343 to R346) -/

/-- The header of a PTP message on a UDP port. -/
def State.ptpHdr (s : State) (k udp : Nat) : FrameHdr := { s.frameHdr k s.portsHdr.ptpPcp with srcUdp := some udp, dstUdp := udp }

def ptpUdp : PtpSend → Nat
  | .sync | .delayReq => 319
  | _ => 320

/-- A PTP message leaves with a timestamp within 2 ns. -/
theorem State.ptpSend_spec (s : State) (k : Nat) (m : PtpSend) : ∃ t, (s.ptpSend k m).out = s.out ++ [.ptp k (s.ptpHdr k (ptpUdp m)) m t] ∧
    (t - s.ptpNow).natAbs ≤ 2 ∧ Within [.regs, .out, .free] s (s.ptpSend k m) ∧
    RegsKept [fOutPortTx_count (k / 2) (k % 2)] s (s.ptpSend k m) := by
  have hkept : RegsKept [fOutPortTx_count (k / 2) (k % 2)] s (s.ptpSend k m) := (RegsKept.refl _ s).set _ (by simp)
  have hw : Within [.regs, .out, .free] s (s.ptpSend k m) :=
    (((Within.refl [.regs, .out, .free] s).setFree _).setOut _).trans (State.addTo_within ..).mono
  refine ⟨s.ptpNow + (s.draw.1 % 5 : Nat) - 2, ?_, by omega, hw, hkept⟩
  cases m <;> rfl

theorem State.ptpSend_clock (s : State) (k : Nat) (m : PtpSend) : (s.ptpSend k m).ptpHdr k = s.ptpHdr k := rfl

theorem State.ptpMaySend_spec (s : State) (k : Nat) (m : PtpSend) : (∃ rest, (s.ptpMaySend k m).out = s.out ++ rest ∧ rest.length ≤ 1) ∧
    Within [.regs, .out, .free] s (s.ptpMaySend k m) ∧ RegsKept [fOutPortTx_count (k / 2) (k % 2)] s (s.ptpMaySend k m) := by
  rw [State.ptpMaySend]
  split
  · obtain ⟨t, hout, -, hw, hkept⟩ := s.draw.2.ptpSend_spec k m
    exact ⟨⟨_, hout, by simp⟩, ((Within.refl [.regs, .out, .free] s).setFree _).trans hw, hkept⟩
  · exact ⟨⟨[], by simp [State.draw], by simp⟩, (Within.refl _ s).setFree _, RegsKept.refl _ s⟩

theorem ptpOffset_of_range {off : Int} (hlo : -8388608 ≤ off) (hhi : off < 8388608) : (ptpOffset off : Int) = off % 16777216 ∧
    ptpOffset off < 2 ^ 24 := by
  have hclamp : max (-(2 ^ 23)) (min (2 ^ 23 - 1) off) = off := by omega
  rw [ptpOffset, hclamp, toSigned]
  omega

/-- The fields of PTP's status and the counters of a port are different registers. -/
theorem Fld.ptpStatus_ne (k : Port) : ∀ f ∈ [fOutPtpStatus_locked, fOutPtpStatus_offset_ns, fOutPtpStatus_aligned],
    f.key ≠ (fOutPortTx_count (k.val / 2) (k.val % 2)).key := by
  simp only [List.forall_mem_cons, Fld.key, fOutPtpStatus_locked, fOutPtpStatus_offset_ns, fOutPtpStatus_aligned, fOutPortTx_count,
    RegKind.addr, RegKind.base, kOutPtpStatus, kOutPortTx]
  refine ⟨?_, ?_, ?_, by simp⟩ <;> omega

/-- The servo's report of a Sync. -/
theorem State.ptpSync_spec {s : State} {off : Int} (hlo : -8388608 ≤ off) (hhi : off < 8388608) :
    (s.ptpSync off).get fOutPtpStatus_locked = 1 ∧ ((s.ptpSync off).get fOutPtpStatus_offset_ns : Int) = off % 16777216 ∧
      ((s.ptpSync off).get fOutPtpStatus_aligned = 1 ↔ off.natAbs ≤ 20) ∧ (s.ptpSync off).outer.ptp.pending = -off ∧
      (s.ptpSync off).outer.ptp.offset = s.outer.ptp.offset ∧ Within [.regs, .outer] s (s.ptpSync off) ∧
      RegsKept [fOutPtpStatus_locked, fOutPtpStatus_offset_ns, fOutPtpStatus_aligned] s (s.ptpSync off) := by
  obtain ⟨hoff, hlt⟩ := ptpOffset_of_range hlo hhi
  have hregs : (s.ptpSync off).regs = (((s.set fOutPtpStatus_locked 1).set fOutPtpStatus_offset_ns (ptpOffset off)).set fOutPtpStatus_aligned
      (if off.natAbs ≤ 20 then 1 else 0)).regs := rfl
  refine ⟨?_, ?_, ?_, rfl, rfl, ((State.setAll_within ..).mono).setOuter _,
    (((RegsKept.refl _ s).set _ (by simp)).set _ (by simp)).set _ (by simp)⟩
  · rw [State.get_of_regs hregs, State.get_set_ne _ _ (by decide), State.get_set_ne _ _ (by decide), State.get_set_same]
    rfl
  · rw [State.get_of_regs hregs, State.get_set_ne _ _ (by decide), State.get_set_same, show fOutPtpStatus_offset_ns.width = 24 from rfl,
      Nat.mod_eq_of_lt hlt, hoff]
  · rw [State.get_of_regs hregs, State.get_set_same]
    split
    next h => simp [h, fOutPtpStatus_aligned]
    next h => simp [h]

section PtpMessage
variable {s : State} {k : Port}

theorem exec_ptpMessage_counted {dom : Nat} {m : PtpMsg} (hon : s.portOn k = true)
    (h : dom ≠ s.portsHdr.ptpDomain ∨ m = .announce ∨ m = .delayResp ∨ (m = .delayReq ∧ (s.portEnt k).ptpMaster = false) ∨
      (s.portsHdr.ptpSlave ≠ k.val ∧ ∃ off, m = .sync off)) :
    exec (.ptpMessage k ⟨dom, m⟩) s = .next (s.addTo (fOutPortRx_count (k.val / 2) (k.val % 2)) 1) := by
  refine (if_neg (by simp [hon])).trans ?_
  by_cases hdom : dom = s.portsHdr.ptpDomain
  · refine (if_neg (by exact not_not_intro hdom)).trans ?_
    rcases h with h | rfl | rfl | ⟨rfl, hmaster⟩ | ⟨hslave, off, rfl⟩
    · exact absurd hdom h
    · rfl
    · rfl
    · exact congrArg Host.Outcome.next (if_neg (by rw [show (s.rxCount k).portEnt k = s.portEnt k from rfl, hmaster]; decide))
    · exact congrArg Host.Outcome.next (if_neg hslave)
  · exact if_pos hdom

theorem exec_ptpMessage_sync (hon : s.portOn k = true) (hslave : s.portsHdr.ptpSlave = k.val) (off : Int) :
    exec (.ptpMessage k ⟨s.portsHdr.ptpDomain, .sync off⟩) s = .next (((s.rxCount k).ptpSync off).ptpMaySend k .delayReq) :=
  (if_neg (by simp [hon])).trans ((if_neg (by simp [State.rxCount, State.portsHdr, State.addTo, State.set])).trans
    (congrArg Host.Outcome.next (if_pos hslave)))

theorem exec_ptpMessage_delayReq (hon : s.portOn k = true) (hmaster : (s.portEnt k).ptpMaster = true) :
    exec (.ptpMessage k ⟨s.portsHdr.ptpDomain, .delayReq⟩) s = .next ((s.rxCount k).ptpSend k .delayResp) :=
  (if_neg (by simp [hon])).trans ((if_neg (by simp [State.rxCount, State.portsHdr, State.addTo, State.set])).trans
    (congrArg Host.Outcome.next (if_pos hmaster)))

end PtpMessage

/-- Settles O32: ports count, pause and serve their frames, and PTP's messages are answered on the ports that take them. -/
theorem outerPortsAndPtp : Obligations.OuterPortsAndPtp := by
  unfold Obligations.OuterPortsAndPtp
  refine ⟨⟨fun s k d i hd hi hup => ⟨?_, ?_⟩, fun s k d i hd hi hdown => ⟨?_, ?_⟩, fun s k ok hon hflag => ?_, fun s k ok h => ?_,
    fun s k pcp t d i hd hi hon hpcp hpfc ht => ?_, fun s k pcp p h x hon hpcp hpfc hq => ?_, fun s k pcp t hon h => ?_,
    fun s k pcp t hoff => ⟨?_, ?_⟩, fun s k p h x hpaused hq => ?_, fun s k p q h g x y hpaused hq hne hp hshare => ?_, fun s k hpaused => ?_,
    fun s k hon => ?_⟩, fun s k off hon hslave hlo hhi => ?_, fun s k dom m hon h => exec_ptpMessage_counted hon h,
    fun s k h hon hmaster hh => ?_, fun s k dom m hoff => ⟨?_, ?_⟩, fun s k h g hon hmaster hh hg => ?_, fun s k hmaster => ?_,
    fun s hslave => ?_, fun s hslave => ?_⟩
  · subst hd hi
    exact if_pos (State.flag_of_get hup)
  · subst hd hi
    obtain ⟨hlink, hpreempt, hlosses, hw, hkept⟩ := s.portDown_spec (k.val / 2) (k.val % 2)
    obtain ⟨hoff, hoff', hoff''⟩ := Fld.portStatus_offEvents (k.val / 2) (k.val % 2)
    have hexec : exec (.portLinkChange k false) s = .next ((s.portDown (k.val / 2) (k.val % 2)).event (8 + k) 0x1B 0
        ((s.portDown (k.val / 2) (k.val % 2)).get (fOutPortStatus_link_losses (k.val / 2) (k.val % 2)))) :=
      if_neg (by simp [State.flag_of_get hup])
    refine ⟨_, hexec, ?_, ?_, ?_, logged_regs hw hkept (by simp [hoff, hoff', hoff'']) (by simp) ..⟩
    · rw [State.get_event hoff, hlink]
    · rw [State.get_event hoff', hpreempt]
    · rw [State.get_event hoff'', hlosses]
  · subst hd hi
    exact if_pos (State.flag_of_get_zero hdown)
  · subst hd hi
    obtain ⟨hoff, -, -⟩ := Fld.portStatus_offEvents (k.val / 2) (k.val % 2)
    have hexec : exec (.portLinkChange k true) s = .next ((s.set (fOutPortStatus_link_up (k.val / 2) (k.val % 2)) 1).event (8 + k) 0x1B 1
        ((s.set (fOutPortStatus_link_up (k.val / 2) (k.val % 2)) 1).get (fOutPortStatus_link_losses (k.val / 2) (k.val % 2)))) :=
      if_neg (by simp [State.flag_of_get_zero hdown])
    refine ⟨_, hexec, ?_, logged_regs (State.set_within ..) ((RegsKept.refl [fOutPortStatus_link_up (k.val / 2) (k.val % 2)] s).set _ (by simp))
      (by simp [hoff]) (by simp) ..⟩
    rw [State.get_event hoff, State.get_set_same]
    rfl
  · refine ⟨_, congrArg Host.Outcome.next (if_pos (by simp [hon, hflag])), ?_, State.set_within .., (RegsKept.refl _ s).set _ (by simp)⟩
    rw [State.get_set_same]
    cases ok <;> rfl
  · refine congrArg Host.Outcome.next (if_neg ?_)
    rcases h with h | h <;> simp [h]
  · subst hd hi
    obtain ⟨hw, hkept, hcount⟩ := s.countPause_spec k
    have hexec := exec_pfcPause hon hpcp hpfc t
    rw [if_neg ht.ne'] at hexec
    refine ⟨_, hexec, ?_, ?_, hw.trans (State.set_within ..), (hkept.mono (by simp)).set _ (by simp)⟩
    · rw [State.get_set_same]
      exact Nat.mod_eq_of_lt (Nat.pow_lt_pow_right (by decide) pcp.isLt)
    · rw [State.get_set_ne _ _ (Fld.portPfc_ne ..).1, hcount]
  · obtain ⟨hw, -, -⟩ := s.countPause_spec k
    have hexec := exec_pfcPause hon hpcp hpfc 0
    rw [if_pos rfl] at hexec
    obtain ⟨hpaused, hqueue, hout, hw'⟩ := State.unpause_spec (s := (s.bump (fOutPortPfc_received (k.val / 2) (k.val % 2)) 1).rxCount k)
      (k := k) (q := [⟨p, h, x⟩]) hq (serveOrder_single ..)
    exact ⟨_, hexec, hpaused, hqueue, hout, hw.mono.trans hw'⟩
  · refine (if_neg (by simp [hon])).trans (if_pos ?_)
    rcases h with h | h
    · exact Bool.or_eq_true_iff.2 (.inl (decide_eq_true h))
    · exact Bool.or_eq_true_iff.2 (.inr (by rw [show (s.bump _ 1).portEnt k = s.portEnt k from rfl, h]; rfl))
  · exact if_pos (by simp [hoff])
  · exact congrArg Host.Outcome.next (if_neg (by simp [hoff]))
  · obtain ⟨hpaused', hqueue, hout, hw⟩ := State.unpause_spec hq (serveOrder_single ..)
    exact ⟨_, congrArg Host.Outcome.next (if_pos hpaused), hpaused', hqueue, hout, hw⟩
  · obtain ⟨-, hqueue, hout, -⟩ := State.unpause_spec hq (serveOrder_pair hne hp hshare)
    exact ⟨_, congrArg Host.Outcome.next (if_pos hpaused), hqueue, hout⟩
  · exact congrArg Host.Outcome.next (if_neg (by simp [hpaused]))
  · exact congrArg Host.Outcome.next (if_pos hon)
  · obtain ⟨hlocked, hoffset, haligned, hpending, hptp, hw, hkept⟩ := State.ptpSync_spec (s := s.rxCount k) hlo hhi
    obtain ⟨-, hw', hkept'⟩ := ((s.rxCount k).ptpSync off).ptpMaySend_spec k .delayReq
    have hne := Fld.ptpStatus_ne k
    simp only [List.forall_mem_cons] at hne
    obtain ⟨hne, hne', hne'', -⟩ := hne
    have houter : (((s.rxCount k).ptpSync off).ptpMaySend k .delayReq).outer = ((s.rxCount k).ptpSync off).outer := hw'.2 .outer (by simp)
    refine ⟨_, exec_ptpMessage_sync hon hslave off, ?_, ?_, ?_, ?_, ?_,
      ((State.addTo_within ..).mono.trans hw.mono).trans hw'.mono, ?_⟩
    · rw [hkept'.get (by simpa using hne), hlocked]
    · rw [hkept'.get (by simpa using hne'), hoffset]
    · rw [hkept'.get (by simpa using hne''), haligned]
    · rw [houter, hpending]
    · rw [houter, hptp]
      rfl
    · exact (((RegsKept.refl _ s).set _ (by simp)).trans (hkept.mono (by simp))).trans (hkept'.mono (by simp))
  · subst hh
    obtain ⟨t, hout, ht, hw, -⟩ := (s.rxCount k).ptpSend_spec k .delayResp
    exact ⟨_, t, exec_ptpMessage_delayReq hon hmaster, hout, ht, (State.addTo_within ..).mono.trans hw⟩
  · exact if_pos (by simp [hoff])
  · exact congrArg Host.Outcome.next (if_neg (by simp [hoff]))
  · subst hh hg
    obtain ⟨t, hout, ht, hw, hkept⟩ := s.ptpSend_spec k .sync
    obtain ⟨t', hout', -, hw', hkept'⟩ := (s.ptpSend k .sync).ptpSend_spec k .followUp
    obtain ⟨⟨rest, hout'', hrest⟩, hw'', hkept''⟩ := ((s.ptpSend k .sync).ptpSend k .followUp).ptpMaySend_spec k .announce
    refine ⟨_, t, t', rest, congrArg Host.Outcome.next (if_pos (by simp [hon, hmaster])), ?_, hrest, ht, hw.trans (hw'.trans hw''),
      hkept.trans (hkept'.trans hkept'')⟩
    rw [hout'', hout', hout, List.append_assoc s.out]
    rfl
  · exact congrArg Host.Outcome.next (if_neg (by simp [hmaster]))
  · refine ⟨_, congrArg Host.Outcome.next (if_pos hslave), ?_, State.get_set_same .., ?_, State.setAll_within ..⟩
    · exact (State.get_set_ne _ _ (by decide)).trans (State.get_set_same ..)
    · exact State.get_setAll_ne _ _ _ (by decide)
  · exact congrArg Host.Outcome.next (if_neg (Nat.not_lt.2 hslave))

end Sys2Proof.Machine

/-! SUPPORT. Packets of the outer ports that reach a queue pair (R333 to R339). -/

namespace Sys2Proof.Machine

set_option Elab.async false

/-- What a read of a queue pair depends on. -/
theorem State.qp_of_outer {s t : State} (h : t.outer = s.outer) (p q : Nat) : t.qp p q = s.qp p q := by
  rw [State.qp, State.qp, h]

theorem State.qp_rxCount (s : State) (k p q : Nat) : (s.rxCount k).qp p q = s.qp p q :=
  State.qp_of_outer (State.addTo_outer ..) p q

/-- R339: without a CE mark no CNP is due. -/
theorem State.congestion_unmarked (s : State) (p q : Nat) {x : Pkt} (h : x.ce = false) : s.congestion p q x = s := by
  rw [State.congestion, h]
  exact if_neg (by simp)

section Packet

variable {s : State} {k : Nat} {x : Pkt} {ops : List PktOp} {p q : Nat} {c : QpCfg}

/-- R334: a packet whose ICRC holds reaches the ready queue pair that it names. -/
theorem State.packet_ready (hon : s.portOn k = true) (hop : x.op ∈ ops) (hcrc : x.icrcOk = true) (hce : x.ce = false)
    (hq : s.readyQp x.qpn = some (p, q, c)) (f : Nat → Nat → QpCfg → State → State) :
    s.packet k x ops f = f p q c (s.rxCount k) := by
  simp [State.packet, hon, hop, hcrc, hq, State.congestion_unmarked _ p q hce]

theorem State.packet_stale (hon : s.portOn k = true) (hop : x.op ∈ ops) (hcrc : x.icrcOk = true)
    (hq : s.readyQp x.qpn = none) (f : Nat → Nat → QpCfg → State → State) : s.packet k x ops f = s.rxStale k := by
  simp [State.packet, hon, hop, hcrc, hq]

theorem State.packet_dropped (hon : s.portOn k = true) (hop : x.op ∈ ops) (hcrc : x.icrcOk = false)
    (f : Nat → Nat → QpCfg → State → State) : s.packet k x ops f = s.rxDrop k := by
  simp [State.packet, hon, hop, hcrc]

theorem State.packet_off (hon : s.portOn k = false) (f : Nat → Nat → QpCfg → State → State) :
    s.packet k x ops f = s := by
  simp [State.packet, hon]

end Packet

section Request

variable {s : State} {p q : Nat} {x : Pkt} (f : State → State)

theorem State.request_next (h : x.psn = (s.qp p q).expected) : s.request p q x f = f s := if_pos h

theorem State.request_read_again (h : x.psn ≠ (s.qp p q).expected) (hle : psnLe x.psn (s.qp p q).expected = true)
    (hop : x.op = .readRequest) : s.request p q x f = f s :=
  (if_neg h).trans ((if_pos hle).trans (if_pos hop))

theorem State.request_again (h : x.psn ≠ (s.qp p q).expected) (hle : psnLe x.psn (s.qp p q).expected = true)
    (hop : x.op ≠ .readRequest) : s.request p q x f =
      s.qpReply p q { op := .ack, qpn := 0, psn := ((s.qp p q).expected + 2 ^ 24 - 1) % 2 ^ 24 } :=
  (if_neg h).trans ((if_pos hle).trans (if_neg hop))

theorem psnLe_refl (a : Nat) : psnLe a a = true := by
  simp [psnLe]

theorem State.request_early (hle : psnLe x.psn (s.qp p q).expected = false) :
    s.request p q x f = s.qpReply p q { op := .nakSequence, qpn := 0, psn := (s.qp p q).expected } := by
  have hne : x.psn ≠ (s.qp p q).expected := fun h => by
    rw [h, psnLe_refl] at hle
    cases hle
  rw [State.request, if_neg hne, if_neg (by simp [hle])]

end Request

/-! ### The queue pairs of a state -/

theorem State.qp_setQp_same (s : State) (p q : Nat) (y : Qp) : (s.setQp p q y).qp p q = y :=
  mapGet_mapSet_same ..

theorem State.qp_setQp_ne (s : State) {p q p' q' : Nat} (y : Qp) (h : p' * 4096 + q' ≠ p * 4096 + q) :
    (s.setQp p q y).qp p' q' = s.qp p' q' :=
  mapGet_mapSet_ne _ _ _ h

theorem State.rxCount_within (s : State) (k : Nat) : Within [.regs] s (s.rxCount k) :=
  (s.rxCount_keeps k).within

theorem State.setQp_within (s : State) (p q : Nat) (y : Qp) : Within [.outer] s (s.setQp p q y) :=
  (Within.refl [.outer] s).setOuter _

/-- R339: a marked data packet sends a CNP where none has been sent. -/
theorem State.congestion_first (s : State) {p q : Nat} {c : QpCfg} {x : Pkt} (hc : s.qpCfg p q = some c) (hce : x.ce = true)
    (hop : x.op = .writeOnly) (hlast : (s.qp p q).lastCnpSent = none) :
    (s.congestion p q x).out = s.out ++ [s.packetOut c {
      op := .cnp, qpn := qpNumber (s.get fOutJobInc_incarnation) c.peerPart c.peerQp }] ∧
    (s.congestion p q x).qp p q = { s.qp p q with lastCnpSent := some s.clock.now } := by
  obtain ⟨u, hu⟩ : ∃ u, u = s.setQp p q { s.qp p q with lastCnpSent := some s.clock.now } := ⟨_, rfl⟩
  have hreply : s.congestion p q x = u.qpReply p q { op := .cnp, qpn := 0 } := by
    rw [State.congestion, hce, hop, hlast, hu]
    exact if_pos rfl
  have hcfg : u.qpCfg p q = some c := by rw [hu]; exact hc
  obtain ⟨w, hw⟩ : ∃ w : Pkt, w = { op := .cnp, qpn := qpNumber (u.get fOutJobInc_incarnation) c.peerPart c.peerQp } :=
    ⟨_, rfl⟩
  have hsend : u.qpReply p q { op := .cnp, qpn := 0 } = u.wirePkt c.port (u.roceHdr c w) w := by
    rw [State.qpReply, hcfg, hw]
    exact if_neg (by simp)
  obtain ⟨-, -, hout, hin⟩ := u.wirePkt_spec c.port (u.roceHdr c w) w
  rw [hreply, hsend]
  constructor
  · rw [hout, hw, hu]
    rfl
  · rw [State.qp_of_outer (hin.2 .outer (by simp)), hu, State.qp_setQp_same]

/-- R339: within 50 µs of a CNP no other is sent. -/
theorem State.congestion_recent (s : State) {p q t : Nat} (x : Pkt) (hlast : (s.qp p q).lastCnpSent = some t)
    (hnow : s.clock.now < t + 50000) : s.congestion p q x = s := by
  rw [State.congestion, hlast]
  exact if_neg (by simp only [Bool.and_eq_true, decide_eq_true_eq]; omega)

/-- Settles O33: a packet that passes the checks has the effect of its operation (`State.packet_ready`), and the others are
dropped, stale or, on a port that is off, not seen. -/
theorem packetArrival : Obligations.PacketArrival := by
  unfold Obligations.PacketArrival
  refine ⟨?_, ?_, ?_, ?_, ?_, ?_⟩
  · intro s w k x p q c hon hcrc hce hq hw
    have reach {ops} (hop : x.op ∈ ops) (f) : s.packet k x ops f = f p q c w := by
      rw [hw, State.packet_ready hon hop hcrc hce hq]
    have hexp : (s.qp p q).expected = (w.qp p q).expected := by rw [hw, State.qp_rxCount]
    rw [hexp]
    refine ⟨fun hpsn => ⟨fun hop => ?_, fun hop => ?_, fun hop => ?_, fun hop => ?_⟩,
      fun hpsn hle => ⟨fun hop => ?_, fun hop => ?_⟩, fun hle hop => ?_, fun hop => ?_, fun hop => ?_, fun hop => ?_,
      fun hop => ?_, fun hop => ?_, fun hop => ?_, fun hop => ?_⟩
    · exact congrArg Host.Outcome.next ((reach hop _).trans (State.request_next _ hpsn))
    · exact congrArg Host.Outcome.next ((reach hop _).trans (State.request_next _ hpsn))
    · exact congrArg Host.Outcome.next ((reach hop _).trans (State.request_next _ hpsn))
    · exact congrArg Host.Outcome.next ((reach (by simp [hop]) _).trans (State.request_next _ hpsn))
    · exact congrArg Host.Outcome.next ((reach (by simp [hop]) _).trans (State.request_again _ hpsn hle (by simp [hop])))
    · exact congrArg Host.Outcome.next ((reach (by simp [hop]) _).trans (State.request_read_again _ hpsn hle hop))
    · exact congrArg Host.Outcome.next ((reach (by simp [hop]) _).trans (State.request_early _ hle))
    · exact congrArg Host.Outcome.next (reach hop _)
    · exact congrArg Host.Outcome.next (reach (by simp [hop]) _)
    · exact congrArg Host.Outcome.next ((reach (by simp [hop]) _).trans (by simp only [hop]))
    · exact congrArg Host.Outcome.next ((reach (by simp [hop]) _).trans (by simp only [hop]))
    · refine congrArg Host.Outcome.next ((reach (by simp at hop ⊢; tauto) _).trans ?_)
      obtain h | h | h : x.op = .rnrNak ∨ x.op = .nakInvalid ∨ x.op = .nakOperational := by simpa using hop
      all_goals rw [h]
    · exact congrArg Host.Outcome.next (reach (by simp [hop]) _)
    · refine ⟨_, congrArg Host.Outcome.next (reach (by simp [hop]) _), ?_, fun p' q' hne => ?_, ?_⟩
      · rw [State.qp_setQp_same, hw, State.qp_rxCount]
      · rw [State.qp_setQp_ne _ _ hne, hw, State.qp_rxCount]
      · exact (hw ▸ (s.rxCount_within k).mono (by simp)).trans ((State.setQp_within ..).mono (by simp))
  · intro s k x hon hcrc hq
    have stale {ops} (hop : x.op ∈ ops) (f) : s.packet k x ops f = s.rxStale k := State.packet_stale hon hop hcrc hq f
    exact ⟨fun hop => congrArg Host.Outcome.next (stale (by simp [hop]) _),
      fun hop => congrArg Host.Outcome.next (stale (by simp [hop]) _),
      fun hop => congrArg Host.Outcome.next (stale (by simp [hop]) _)⟩
  · intro s k x hon hcrc
    exact ⟨fun hop => congrArg Host.Outcome.next (State.packet_dropped hon (by simp [hop]) hcrc _),
      fun hop => congrArg Host.Outcome.next (State.packet_dropped hon (by simp [hop]) hcrc _)⟩
  · intro s k x hon
    have off (ops f) : s.packet k x ops f = s := State.packet_off hon f
    exact ⟨congrArg Host.Outcome.next (off ..), congrArg Host.Outcome.next (off ..), congrArg Host.Outcome.next (off ..),
      congrArg Host.Outcome.next (off ..), congrArg Host.Outcome.next (off ..), congrArg Host.Outcome.next (off ..),
      congrArg Host.Outcome.next (off ..), congrArg Host.Outcome.next (off ..), congrArg Host.Outcome.next (off ..)⟩
  · exact fun s p q c x hc hce hop hlast => s.congestion_first hc hce hop hlast
  · exact fun s p q t x hlast hnow => s.congestion_recent x hlast hnow

end Sys2Proof.Machine

/-! SUPPORT. Requests at the responder of a queue pair (R277, R336, R337). -/

namespace Sys2Proof.Machine

set_option Elab.async false

theorem State.qpCfg_of_lasts {s t : State} (h : t.lasts = s.lasts) (p q : Nat) : t.qpCfg p q = s.qpCfg p q := by
  rw [State.qpCfg, State.lastOf, h]
  rfl

theorem State.packetOut_of {s t : State} (h : t.dev = s.dev) (c : QpCfg) (x : Pkt) : t.packetOut c x = s.packetOut c x := by
  rw [State.packetOut, State.roceHdr, State.frameHdr, State.portEnt, State.portsHdr, h]
  rfl

/-- A packet of a queue pair leaves at once on a port that its partner does not pause. -/
theorem State.sendPkt_unpaused (s : State) (p : Nat) {c : QpCfg} (x : Pkt) (hport : s.portPaused c.port = false) :
    s.sendPkt p c x = s.wirePkt c.port (s.roceHdr c x) x :=
  if_neg (by simp [hport])

/-- R334: an answer of the responder leaves under the peer's queue pair number. -/
theorem State.qpReply_unpaused (s : State) (p q : Nat) {c : QpCfg} (x : Pkt) (hc : s.qpCfg p q = some c)
    (hport : s.portPaused c.port = false) :
    (s.qpReply p q x).out = s.out ++ [s.packetOut c { x with qpn := qpNumber (s.get fOutJobInc_incarnation) c.peerPart c.peerQp }] ∧
      Within [.regs, .out] s (s.qpReply p q x) := by
  have hsend : s.qpReply p q x = s.sendPkt p c { x with qpn := qpNumber (s.get fOutJobInc_incarnation) c.peerPart c.peerQp } := by
    rw [State.qpReply, hc]
  rw [hsend, State.sendPkt_unpaused _ _ _ hport]
  exact (s.wirePkt_spec ..).2.2

theorem State.takePsn_qp (s : State) (p q n : Nat) : (s.takePsn p q n).qp p q =
    { s.qp p q with expected := ((s.qp p q).expected + n) % 2 ^ 24 } := State.qp_setQp_same ..

theorem State.takePsn_within (s : State) (p q n : Nat) : Within [.outer] s (s.takePsn p q n) := State.setQp_within ..

/-- A port that has not paused its partner, and may not, does not. -/
theorem State.checkPause_quiet {s : State} {k : Nat} (hsent : (s.portSt k).pauseSent = false) (hpfc : (s.portEnt k).pfc = false) :
    s.checkPause k = s := by
  have hoff : ((s.dev.bind fun l => l.ports[k]?).map fun e => e.pfc).getD false = false := by
    rw [State.portEnt] at hpfc
    cases h : s.dev.bind fun l => l.ports[k]? with
    | none => rfl
    | some e => simpa [h] using hpfc
  rw [State.checkPause, hsent, hoff]
  exact if_pos (by simp; omega)

theorem State.portWrite_nil (s : State) (k p pa : Nat) (want : Nat → Purpose) : s.portWrite k p pa [] want = (0, s) := rfl

/-- R338: the one packet held, complete and without a slot, is acknowledged. -/
theorem State.sendAcks_one {v : State} {p q : Nat} {r : RxPkt} (hrx : (v.qp p q).rx = [r]) (hstate : (v.qp p q).state = 1)
    (hleft : r.left = 0) (hslot : r.slot = none) : v.sendAcks p q 1 =
      (v.setQp p q { v.qp p q with rx := [] }).qpReply p q { op := .ack, qpn := 0, psn := r.psn } := by
  rw [State.sendAcks, hrx]
  simp [hleft, hslot, hstate, State.sendAcks]

/-- R338: a packet without writes, with none before it, is acknowledged at once. -/
theorem State.holdRx_done {u : State} {p q : Nat} {c : QpCfg} {r : RxPkt} (hc : u.qpCfg p q = some c) (hrx : (u.qp p q).rx = [])
    (hstate : (u.qp p q).state = 1) (hleft : r.left = 0) (hpackets : r.packets = false) (hslot : r.slot = none) :
    u.holdRx p q r = ((u.setQp p q { u.qp p q with rx := [r] }).setQp p q { u.qp p q with rx := [] }).qpReply p q
      { op := .ack, qpn := 0, psn := r.psn } := by
  have hc' : (u.setQp p q { u.qp p q with rx := [r] }).qpCfg p q = some c := hc
  have hdone : u.holdRx p q r = (u.setQp p q { u.qp p q with rx := [r] }).sendAcks p q 1 := by
    rw [State.holdRx, hrx, if_pos hleft, List.nil_append, State.rxDone, hc', hslot, hpackets]
    simp [State.qp_setQp_same]
  obtain ⟨v, hv⟩ : ∃ v, v = u.setQp p q { u.qp p q with rx := [r] } := ⟨_, rfl⟩
  have hqp : v.qp p q = { u.qp p q with rx := [r] } := by rw [hv, State.qp_setQp_same]
  rw [hdone, ← hv, State.sendAcks_one (by rw [hqp]) (by rw [hqp]; exact hstate) hleft hslot, hqp]

section Write

variable {s : State} {p q : Nat} {c : QpCfg} {x : Pkt}

/-- The queue pair after a write of one packet with no bytes. -/
def Qp.wrote (y : Qp) (x : Pkt) : Qp :=
  { y with begun := false, isSend := false, writeTo := x.va, writeEyelet := x.rkey / 2 ^ 16 % 2 ^ 16, recvLen := 0 }

/-- The held packet of a write of one packet with no bytes. -/
def heldEmpty (x : Pkt) : RxPkt := { psn := x.psn, left := 0, bytes := 0, eyelet := x.rkey / 2 ^ 16 % 2 ^ 16, packets := x.packets }

theorem State.writePacket_empty (hop : x.op = .writeOnly) (hdata : x.data = []) (hbegun : (s.qp p q).begun = false)
    (hok : s.rethOk p x true = true) : s.writePacket p q c x =
      (((s.setQp p q ((s.qp p q).wrote x)).takePsn p q 1).holdRx p q (heldEmpty x)).checkPause c.port := by
  rw [State.writePacket]
  simp [hop, startsMsg, endsMsg, hasImm, hdata, hbegun, hok, State.portWrite_nil, Qp.wrote, heldEmpty]

theorem State.writePacket_empty_spec (hc : s.qpCfg p q = some c) (hop : x.op = .writeOnly) (hdata : x.data = [])
    (hbegun : (s.qp p q).begun = false) (hrx : (s.qp p q).rx = []) (hstate : (s.qp p q).state = 1)
    (hok : s.rethOk p x true = true) (hpackets : x.packets = false) (hport : s.portPaused c.port = false)
    (hsent : (s.portSt c.port).pauseSent = false) (hpfc : (s.portEnt c.port).pfc = false) :
    ((s.writePacket p q c x).qp p q).expected = ((s.qp p q).expected + 1) % 2 ^ 24 ∧
      ((s.writePacket p q c x).qp p q).begun = false ∧ ((s.writePacket p q c x).qp p q).rx = [] ∧
      (s.writePacket p q c x).out = s.out ++ [s.packetOut c {
        op := .ack, qpn := qpNumber (s.get fOutJobInc_incarnation) c.peerPart c.peerQp, psn := x.psn }] ∧
      Within [.regs, .outer, .out] s (s.writePacket p q c x) := by
  obtain ⟨u, hu⟩ : ∃ u, u = (s.setQp p q ((s.qp p q).wrote x)).takePsn p q 1 := ⟨_, rfl⟩
  have hqp : u.qp p q = { (s.qp p q).wrote x with expected := ((s.qp p q).expected + 1) % 2 ^ 24 } := by
    rw [hu, State.takePsn_qp, State.qp_setQp_same]
    rfl
  have huw : Within [.outer] s u := hu ▸ (State.setQp_within ..).trans (State.takePsn_within ..)
  have huports : u.outer.ports = s.outer.ports := by rw [hu]; rfl
  have hhold := State.holdRx_done (u := u) (r := heldEmpty x) ((State.qpCfg_of_lasts (huw.2 .lasts (by simp)) p q).trans hc)
    (by rw [hqp]; exact hrx) (by rw [hqp]; exact hstate) rfl hpackets rfl
  obtain ⟨v, hv⟩ : ∃ v, v = (u.setQp p q { u.qp p q with rx := [heldEmpty x] }).setQp p q { u.qp p q with rx := [] } := ⟨_, rfl⟩
  have hvw : Within [.outer] s v := huw.trans (hv ▸ (State.setQp_within ..).trans (State.setQp_within ..))
  have hvports : v.outer.ports = s.outer.ports := by rw [hv]; exact huports
  have hregs : v.regs = s.regs := hvw.2 .regs (by simp)
  obtain ⟨hout, hw⟩ := v.qpReply_unpaused p q { op := .ack, qpn := 0, psn := x.psn }
    ((State.qpCfg_of_lasts (hvw.2 .lasts (by simp)) p q).trans hc)
    (by rw [State.portPaused, State.get_of_regs hregs]; exact hport)
  have hquiet : (v.qpReply p q { op := .ack, qpn := 0, psn := x.psn }).checkPause c.port =
      v.qpReply p q { op := .ack, qpn := 0, psn := x.psn } := by
    refine State.checkPause_quiet ?_ ?_
    · rw [State.portSt, hw.2 .outer (by simp), hvports]
      exact hsent
    · rw [State.portEnt, hw.2 .dev (by simp), hvw.2 .dev (by simp)]
      exact hpfc
  have hwrite : s.writePacket p q c x = v.qpReply p q { op := .ack, qpn := 0, psn := x.psn } := by
    rw [State.writePacket_empty hop hdata hbegun hok, ← hu, hhold, ← hv]
    exact hquiet
  have hvqp : (v.qpReply p q { op := .ack, qpn := 0, psn := x.psn }).qp p q = { u.qp p q with rx := [] } := by
    rw [State.qp_of_outer (hw.2 .outer (by simp)), hv, State.qp_setQp_same]
  rw [hwrite, hvqp, hqp]
  refine ⟨rfl, rfl, rfl, ?_, (hvw.mono (by simp)).trans (hw.mono (by simp))⟩
  rw [hout, hvw.2 .out (by simp), State.packetOut_of (hvw.2 .dev (by simp)), State.get_of_regs hregs]

/-- R336: a write outside its window is refused. -/
theorem State.writePacket_refused (hop : x.op = .writeFirst ∨ x.op = .writeOnly) (hbegun : (s.qp p q).begun = false)
    (hlen : x.data.length ≤ mtuOf c) (hok : s.rethOk p x true = false) : s.writePacket p q c x = s.nakAccess p q x := by
  have hstart : startsMsg x.op = true := by obtain h | h := hop <;> rw [h] <;> rfl
  simp only [State.writePacket, hstart, hbegun, hok]
  exact (if_neg (by simp; omega)).trans (if_pos rfl)

/-- R333: a packet that continues no message is invalid. -/
theorem State.writePacket_continues_none (hop : x.op = .writeMiddle ∨ x.op = .writeLast) (hbegun : (s.qp p q).begun = false) :
    s.writePacket p q c x = s.nakInvalid p q x := by
  have hstart : startsMsg x.op = false := by obtain h | h := hop <;> rw [h] <;> rfl
  simp only [State.writePacket, hstart, hbegun]
  exact if_pos rfl

/-- R337: without a free slot the sender waits. -/
theorem State.sendPacket_full (hop : x.op = .sendOnly) (hbegun : (s.qp p q).begun = false) (hlen : x.data.length ≤ mtuOf c)
    (hslots : 0 < c.recvSlots) (hbase : c.recvBase ≠ 0) (hbytes : 64 + x.data.length ≤ c.slotBytes)
    (hfull : ((s.qp p q).recvIndex + 2 ^ 32 - (s.qp p q).recvConsumer) % 2 ^ 32 = c.recvSlots) :
    s.sendPacket p q c x = s.rnr p q c x := by
  have hroom : recvRoom c (s.qp p q) = false := by simp only [recvRoom, hfull]; simp
  simp only [State.sendPacket, hop, startsMsg, hbegun, hroom]
  exact (if_neg (by simp; omega)).trans (if_pos rfl)

theorem State.sendPacket_no_area (hslots : c.recvSlots = 0) : s.sendPacket p q c x = s.nakInvalid p q x :=
  if_pos (by simp [hslots])

/-- R277: a read of no bytes is answered at once. -/
theorem State.readPacket_empty_spec (hc : s.qpCfg p q = some c) (hbegun : (s.qp p q).begun = false)
    (hpsn : x.psn = (s.qp p q).expected) (hlen : x.len = 0) (hport : s.portPaused c.port = false)
    (hok : s.rethOk p { x with rkey := x.rkey % 2 ^ 16 + 2 ^ 16 * 0xFFFF } false = true) :
    ((s.readPacket p q c x).qp p q).expected = ((s.qp p q).expected + 1) % 2 ^ 24 ∧
      (s.readPacket p q c x).out = s.out ++ [s.packetOut c {
        op := .readOnly, qpn := qpNumber (s.get fOutJobInc_incarnation) c.peerPart c.peerQp, psn := x.psn % 2 ^ 24 }] ∧
      Within [.regs, .outer, .out] s (s.readPacket p q c x) := by
  have hone : max 1 (ceilDiv 0 (mtuOf c)) = 1 := by
    have : mtuOf c ≠ 0 := by simp [mtuOf]
    rw [ceilDiv, Nat.div_eq_of_lt (by omega)]
    rfl
  obtain ⟨u, hu⟩ : ∃ u, u = s.takePsn p q 1 := ⟨_, rfl⟩
  have huw : Within [.outer] s u := hu ▸ State.takePsn_within ..
  have hc' : u.qpCfg p q = some c := (State.qpCfg_of_lasts (huw.2 .lasts (by simp)) p q).trans hc
  have hread : s.readPacket p q c x = u.readAnswer p q { psn := x.psn, addr := x.va, total := x.len } := by
    rw [State.readPacket, if_neg (by simp [hbegun]), if_neg (by rw [hok]; decide), if_pos hpsn, if_pos hlen, hlen, hone, hu]
  have hanswer : u.readAnswer p q { psn := x.psn, addr := x.va, total := x.len } =
      u.qpReply p q { op := .readOnly, qpn := 0, psn := x.psn % 2 ^ 24 } := by
    simp [State.readAnswer, hc', hlen, hone, slice]
  obtain ⟨hout, hw⟩ := u.qpReply_unpaused p q { op := .readOnly, qpn := 0, psn := x.psn % 2 ^ 24 } hc'
    (by rw [State.portPaused, State.get_of_regs (huw.2 .regs (by simp))]; exact hport)
  rw [hread, hanswer]
  refine ⟨?_, ?_, (huw.mono (by simp)).trans (hw.mono (by simp))⟩
  · rw [State.qp_of_outer (hw.2 .outer (by simp)), hu, State.takePsn_qp]
  · rw [hout, huw.2 .out (by simp), State.packetOut_of (huw.2 .dev (by simp)), State.get_of_regs (huw.2 .regs (by simp))]

end Write

/-- R336: the window that an R_Key names decides whether a request is allowed. -/
theorem State.rethOk_of_window {s : State} {p : Nat} {x : Pkt} {l : PartLast} {w : Window} (hl : s.lastOf p = some l)
    (hw : l.job.windows[x.rkey % 2 ^ 16]? = some w) (he : x.rkey / 2 ^ 16 % 2 ^ 16 = 0xFFFF) (write : Bool) :
    s.rethOk p x write = true ↔ (if write then w.write else w.read) = true ∧ w.base ≤ x.va ∧ x.va + x.len ≤ w.base + w.length := by
  simp only [State.rethOk, hl, Option.bind_some, hw, he]
  simp [and_assoc]

/-- Settles O34: a request is checked in the order of R336, and one that is done at once leaves nothing held. -/
theorem responder : Obligations.Responder := by
  unfold Obligations.Responder
  refine ⟨?_, ?_, ?_, ?_, ?_, ?_, ?_, ?_, ?_⟩
  · exact fun s p q c x hc hop hdata hbegun hrx hstate hok hpackets hport hsent hpfc =>
      State.writePacket_empty_spec hc hop hdata hbegun hrx hstate hok hpackets hport hsent hpfc
  · exact fun s p q c x hop hbegun hlen hok => State.writePacket_refused hop hbegun hlen hok
  · exact fun s p q c x hop hbegun => State.writePacket_continues_none hop hbegun
  · exact fun s p x l hl hw => ⟨by simp only [State.rethOk, hl, Option.bind_some, hw], by simp only [State.rethOk, hl, Option.bind_some, hw]⟩
  · exact fun s p x l w hl hw he => ⟨State.rethOk_of_window hl hw he true, State.rethOk_of_window hl hw he false⟩
  · exact fun s p q c x hop hbegun hlen hslots hbase hbytes hfull =>
      State.sendPacket_full hop hbegun hlen hslots hbase hbytes hfull
  · exact fun s p q c x _ hslots => State.sendPacket_no_area hslots
  · exact fun s p q c x hc hbegun hpsn hlen hport hok => State.readPacket_empty_spec hc hbegun hpsn hlen hport hok
  · exact fun s p q c x hc hport => (s.qpReply_unpaused p q { op := .nakInvalid, qpn := 0, psn := x.psn } hc hport).1

end Sys2Proof.Machine

/-! SUPPORT. The timers and the error state of a queue pair (R338, R339). -/

namespace Sys2Proof.Machine

set_option Elab.async false

/-! ### The error state -/

theorem State.qp_laceTo (s : State) (a : AddrEnt) (f : LaceFrame) (p q : Nat) : (s.laceTo a f).qp p q = s.qp p q := by
  rw [State.laceTo]
  cases s.jobOf with
  | none => rfl
  | some pj =>
    dsimp only
    split <;> rfl

/-- A queue pair in error: nothing of it is outstanding, and it is ready again four stitches on unless it stays down. -/
def Qp.failed (y : Qp) (code stitch : Nat) : Qp :=
  { y with state := 2, error := code, sent := [], copies := [], begun := false,
           readyAt := if code = 2 || code = 4 then none else some (stitch + 4) }

/-- The eyelet of a message begun is voided. -/
def State.voidWhen (s : State) (begun : Bool) (p i : Nat) : State :=
  if begun then match s.eyeletOf p i with | some e => s.eyeVoid e | none => s else s

theorem State.voidWhen_keeps (s : State) (begun : Bool) (p i : Nat) : Keeps 512 s (s.voidWhen begun p i) := by
  rw [State.voidWhen]
  refine .ite (fun _ => ?_) fun _ => .refl ..
  cases s.eyeletOf p i with
  | none => exact .refl ..
  | some e => exact s.eyeVoid_keeps e

/-- R338: a queue pair enters error once its copies and messages have been ended. -/
theorem State.qpError_eq {s : State} {p q : Nat} (code : Nat) {c : QpCfg} (hc : s.qpCfg p q = some c) (hstate : (s.qp p q).state ≠ 2) :
    ∃ v : State, v.regs = s.regs ∧ ∃ w : State, w = (v.setQp p q ((s.qp p q).failed code (s.get fOutJobStitch_stitch))).event (8 + c.port) 0x1C q code (some p) ∧
      s.qpError p q code = if code = 2 || code = 4 || code = 6 then w
        else w.laceTo c.addr { w.ownFrame 0x0B with value := qpNumber (w.get fOutJobInc_incarnation) c.peerPart c.peerQp } := by
  refine ⟨(((s.copiesOn p q).foldl (fun s e => s.copyError e.1 e.2) s).voidWhen ((s.qp p q).begun && (s.qp p q).writeEyelet != 0xFFFF)
      p (s.qp p q).writeEyelet).voidWhen ((s.qp p q).begun && (s.qp p q).isSend && c.recvEyelet != 0xFFFFFFFF) p c.recvEyelet, ?_⟩
  have hcopies : Keeps 576 s ((s.copiesOn p q).foldl (fun s e => s.copyError e.1 e.2) s) :=
    (Keeps.refl 576 s).foldl fun u _ => u.copyError_keeps ..
  have hv := ((hcopies.trans
    (State.voidWhen_keeps _ ((s.qp p q).begun && (s.qp p q).writeEyelet != 0xFFFF) p (s.qp p q).writeEyelet) (by decide)).trans
    (State.voidWhen_keeps _ ((s.qp p q).begun && (s.qp p q).isSend && c.recvEyelet != 0xFFFFFFFF) p c.recvEyelet) (by decide)).same
    (c := .regs) (by decide)
  refine ⟨hv, _, rfl, ?_⟩
  rw [← State.get_of_regs hv fOutJobStitch_stitch, State.qpError, hc]
  exact if_neg hstate

/-- R338: what the error leaves of the queue pair. -/
theorem State.qpError_qp {s : State} {p q : Nat} (code : Nat) {c : QpCfg} (hc : s.qpCfg p q = some c) (hstate : (s.qp p q).state ≠ 2) :
    (s.qpError p q code).qp p q = (s.qp p q).failed code (s.get fOutJobStitch_stitch) := by
  obtain ⟨v, -, w, hw, heq⟩ := State.qpError_eq code hc hstate
  have hwqp : w.qp p q = (s.qp p q).failed code (s.get fOutJobStitch_stitch) := by
    rw [hw, State.qp_of_outer (State.event_outer ..), State.qp_setQp_same]
  rw [heq]
  split
  · exact hwqp
  · rw [State.qp_laceTo, hwqp]

theorem State.qpError_failed {s : State} {p q : Nat} (code : Nat) (hstate : (s.qp p q).state = 2) : s.qpError p q code = s := by
  rw [State.qpError]
  cases s.qpCfg p q with
  | none => rfl
  | some c => exact if_pos hstate

/-! ### The timers -/

/-- R338: the one packet that is not acknowledged leaves again. -/
theorem State.goBack_one {s : State} {p q : Nat} {x : Pkt} {c : QpCfg} (hc : s.qpCfg p q = some c) (hstate : (s.qp p q).state = 1)
    (hsent : (s.qp p q).sent = [x]) (hport : s.portPaused c.port = false) : s.goBack p q = s.wirePkt c.port (s.roceHdr c x) x := by
  rw [State.goBack, hsent]
  refine (if_pos hstate).trans ?_
  rw [State.qpResend, hc, hsent, List.filter_cons_of_pos (by rw [psnLe_refl])]
  exact s.sendPkt_unpaused p x hport

theorem State.goBack_none {s : State} {p q : Nat} (h : (s.qp p q).state ≠ 1 ∨ (s.qp p q).sent = []) : s.goBack p q = s := by
  rw [State.goBack]
  cases hsent : (s.qp p q).sent with
  | nil => rfl
  | cons x xs =>
    obtain h | h := h
    · exact if_neg h
    · rw [hsent] at h
      cases h

theorem State.wirePkt_outer (s : State) (k : Nat) (h : FrameHdr) (x : Pkt) : (s.wirePkt k h x).outer = s.outer := rfl

theorem State.wirePkt_regsKept (s : State) (k : Nat) (h : FrameHdr) (x : Pkt) :
    RegsKept [fOutPortTx_count (k / 2) (k % 2)] s (s.wirePkt k h x) :=
  (RegsKept.of_eq (s := s) (t := s.emit (.packet k h x)) rfl).addTo 1 (by simp)

/-! ### Ready again -/

/-- R338: a queue pair in error is due from the stitch of its record on. -/
def Qp.due (stitch : Nat) (y : Qp) : Bool := y.state == 2 && match y.readyAt with | some r => r ≤ stitch | none => false

theorem mapGet_map_snd {α : Type} (d : α) (g : α → α) (hd : g d = d) (m : SMap α) (k : Nat) :
    mapGet d (m.map fun e => (e.1, g e.2)) k = g (mapGet d m k) := by
  induction m with
  | nil => exact hd.symm
  | cons e m ih =>
    rw [List.map_cons, mapGet_cons, mapGet_cons, ih]
    split <;> rfl

theorem qpReady_spec (s : State) : ∃ u, exec .qpReady s = .next u ∧ Within [.outer] s u ∧ u.outer.job = s.outer.job ∧
    u.outer.ports = s.outer.ports ∧ ∀ p q, u.qp p q = if (s.qp p q).due (s.get fOutJobStitch_stitch) then
      (s.qp p q).renew (s.qp p q).incarnation else s.qp p q := by
  obtain ⟨g, hg⟩ : ∃ g : Qp → Qp, g = fun y => if y.due (s.get fOutJobStitch_stitch) then y.renew y.incarnation else y := ⟨_, rfl⟩
  refine ⟨{ s with outer := { s.outer with qps := s.outer.qps.map fun e => (e.1, g e.2) } }, ?_, (Within.refl [.outer] s).setOuter _,
    rfl, rfl, fun p q => ?_⟩
  · show execQpReady s = _
    rw [execQpReady]
    refine congrArg (fun l => Host.Outcome.next { s with outer := { s.outer with qps := l } }) (List.map_congr_left fun e _ => ?_)
    rw [hg]
    show (if e.2.due (s.get fOutJobStitch_stitch) = true then (e.1, e.2.renew e.2.incarnation) else e) =
      (e.1, if e.2.due (s.get fOutJobStitch_stitch) = true then e.2.renew e.2.incarnation else e.2)
    split <;> rfl
  · rw [State.qp, mapGet_map_snd _ g (by rw [hg]; rfl), hg, State.qp]

/-- Settles O35: what the timers send again, what an error leaves (`State.qpError_qp`), and what is ready again
(`qpReady_spec`). -/
theorem queuePairs : Obligations.QueuePairs := by
  unfold Obligations.QueuePairs
  refine ⟨?_, ?_, ?_, ?_, ?_, ?_, ?_, ?_, ?_⟩
  · intro s p q x c hc hstate hsent hport
    obtain ⟨-, -, hout, hw⟩ := s.wirePkt_spec c.port (s.roceHdr c x) x
    have hback := State.goBack_one hc hstate hsent hport
    exact ⟨⟨_, congrArg Host.Outcome.next hback, hout, s.wirePkt_outer .., hw,
      s.wirePkt_regsKept c.port (s.roceHdr c x) x⟩,
      ⟨_, congrArg Host.Outcome.next hback, hout, s.wirePkt_outer .., hw⟩⟩
  · intro s p q h
    refine ⟨congrArg Host.Outcome.next (State.goBack_none h), congrArg Host.Outcome.next (State.goBack_none h),
      congrArg Host.Outcome.next (if_neg ?_)⟩
    rw [Bool.and_eq_true, decide_eq_true_eq]
    rintro ⟨hstate, hsent⟩
    obtain h | h := h
    · exact h hstate
    · rw [h] at hsent
      cases hsent
  · intro s p q c hc hstate hsent
    have hqp := State.qpError_qp 1 hc (by rw [hstate]; decide)
    refine ⟨s.qpError p q 1, congrArg Host.Outcome.next (if_pos ?_), ?_, ?_, ?_, ?_, ?_, (s.qpError_keeps ..).within⟩
    · simp [hstate, hsent]
    all_goals rw [hqp]; rfl
  · intro s p q code c hc hstate hcode
    rw [State.qpError_qp code hc hstate]
    exact ⟨rfl, rfl, if_pos (by simpa using hcode)⟩
  · exact fun s p q code hstate => State.qpError_failed code hstate
  · intro s p q hstate
    exact ⟨_, congrArg Host.Outcome.next (if_pos hstate), State.qp_setQp_same .., fun p' q' hne => State.qp_setQp_ne _ _ hne,
      State.setQp_within ..⟩
  · exact fun s p q hstate => congrArg Host.Outcome.next (if_neg hstate)
  · intro s
    obtain ⟨u, hu, hw, hjob, hports, hqp⟩ := qpReady_spec s
    refine ⟨u, hu, hw, hjob, hports, fun p q r hstate hready hr => ?_, fun p q h => ?_⟩
    · rw [hqp, if_pos (by simp [Qp.due, hstate, hready, hr])]
      exact ⟨rfl, rfl, rfl, rfl, rfl, rfl⟩
    · rw [hqp, if_neg]
      obtain h | h := h <;> simp [Qp.due, h]
  · intro s p q psn hcopies
    have hdone : (s.qp p q).copies.filter (fun c => !c.read && psnLe c.psn psn) = [] := by rw [hcopies]; rfl
    rw [State.qpAcked, hdone]
    exact State.qp_setQp_same ..

end Sys2Proof.Machine

/-! SUPPORT. Lace frames (R347 to R360). -/

namespace Sys2Proof.Machine

set_option Elab.async false

/-! ### What counting a frame leaves -/

/-- No port counter lies at the registers of the job engine. -/
theorem Fld.portRx_ne_job (d i : Nat) : fOutJobStitch_stitch.key ≠ (fOutPortRx_count d i).key ∧
    fOutJobStatus_state.key ≠ (fOutPortRx_count d i).key ∧ fOutJobStatus_role.key ≠ (fOutPortRx_count d i).key := by
  simp only [Fld.key, fOutJobStitch_stitch, fOutJobStatus_state, fOutJobStatus_role, fOutPortRx_count, RegKind.addr, RegKind.base,
    kOutJobStitch, kOutJobStatus, kOutPortRx]
  omega

theorem State.rxCount_outer (s : State) (k : Nat) : (s.rxCount k).outer = s.outer := State.addTo_outer ..

theorem State.rxCount_job (s : State) (k : Nat) : (s.rxCount k).outer.job = s.outer.job := by rw [State.rxCount_outer]

theorem State.inst_of_outer {s t : State} (h : t.outer = s.outer) (stitch barrier : Nat) :
    t.inst stitch barrier = s.inst stitch barrier := by
  rw [State.inst, State.inst, h]

theorem State.rxCount_jobStitch (s : State) (k : Nat) : (s.rxCount k).jobStitch = s.jobStitch :=
  State.get_set_ne _ _ (Fld.portRx_ne_job ..).1

theorem State.rxCount_isMember (s : State) (k : Nat) : (s.rxCount k).isMember = s.isMember := by
  rw [State.isMember, State.rxCount, State.addTo, State.get_set_ne _ _ (Fld.portRx_ne_job ..).2.1,
    State.get_set_ne _ _ (Fld.portRx_ne_job ..).2.2]
  rfl

section Frame

variable {s : State} {k ty : Nat} {f : LaceFrame}

/-- R349: a frame that passes the checks acts. -/
theorem State.laceFrame_acts {p : Nat} {j : JobSec} (hon : s.portOn k = true) (hjob : s.jobOf = some (p, j))
    (hstate : s.get fOutJobStatus_state ≠ 3) (hok : s.laceOk j f = true) (hty : f.type = ty) (act : Nat → JobSec → State → State) :
    s.laceFrame k ty f act = act p j (s.rxCount k) := by
  simp [State.laceFrame, hon, hty, hjob, hstate, hok]

theorem State.laceFrame_stale (hon : s.portOn k = true)
    (hbad : s.jobOf = none ∨ ∃ p j, s.jobOf = some (p, j) ∧ (s.get fOutJobStatus_state = 3 ∨ s.laceOk j f = false))
    (hty : f.type = ty) (act : Nat → JobSec → State → State) : s.laceFrame k ty f act = s.rxStale k := by
  obtain hnone | ⟨p, j, hjob, hfail⟩ := hbad
  · simp [State.laceFrame, hon, hty, hnone]
  · simp [State.laceFrame, hon, hty, hjob, hfail]

theorem State.laceFrame_off (hon : s.portOn k = false) (act : Nat → JobSec → State → State) : s.laceFrame k ty f act = s := by
  simp [State.laceFrame, hon]

end Frame

/-! ### What sending a frame leaves -/

/-- A frame that leaves changes the sequence number of the job and nothing else of it. -/
theorem State.laceTo_job (s : State) (a : AddrEnt) (f : LaceFrame) :
    ∃ n, (s.laceTo a f).outer = { s.outer with job := { s.outer.job with sequence := n } } := by
  rw [State.laceTo]
  cases s.jobOf with
  | none => exact ⟨s.outer.job.sequence, rfl⟩
  | some pj =>
    dsimp only
    split
    · exact ⟨s.outer.job.sequence, rfl⟩
    · exact ⟨_, rfl⟩

theorem State.laceTo_within (s : State) (a : AddrEnt) (f : LaceFrame) : Within [.regs, .outer, .out] s (s.laceTo a f) :=
  (s.laceTo_keeps a f).within

theorem State.laceDown_within (s : State) (f : LaceFrame) : Within [.regs, .outer, .out] s (s.laceDown f) :=
  (s.laceDown_keeps f).within

theorem State.laceDown_job (s : State) (f : LaceFrame) :
    ∃ n, (s.laceDown f).outer = { s.outer with job := { s.outer.job with sequence := n } } := by
  have hfold : ∀ (l : List AddrEnt) (u : State), ∃ n, (l.foldl (fun s a => s.laceTo a f) u).outer =
      { u.outer with job := { u.outer.job with sequence := n } } := by
    intro l
    induction l with
    | nil => exact fun u => ⟨u.outer.job.sequence, rfl⟩
    | cons a l ih =>
      intro u
      obtain ⟨n, hn⟩ := ih (u.laceTo a f)
      obtain ⟨m, hm⟩ := u.laceTo_job a f
      exact ⟨n, by rw [List.foldl_cons, hn, hm]⟩
  rw [State.laceDown]
  cases s.jobOf with
  | none => exact ⟨s.outer.job.sequence, rfl⟩
  | some pj => exact hfold ..

theorem State.setJob_within (s : State) (j : JobSt) : Within [.outer] s (s.setJob j) := (Within.refl [.outer] s).setOuter _

/-- R338: a frame that resets a ready queue pair puts it in error until its stitch. -/
theorem State.qpReset_qp {s : State} {p q r : Nat} (hstate : (s.qp p q).state = 1) (hcfg : (s.qpCfg p q).isSome = true) :
    (((s.qpError p q 6).setQp p q { (s.qpError p q 6).qp p q with readyAt := some r }).qp p q) =
      { (s.qp p q).failed 6 (s.get fOutJobStitch_stitch) with readyAt := some r } := by
  obtain ⟨c, hc⟩ := Option.isSome_iff_exists.1 hcfg
  rw [State.qp_setQp_same, State.qpError_qp 6 hc (by rw [hstate]; decide)]

/-! ### The checks -/

theorem State.laceOk_refused (s : State) {j : JobSec} {f : LaceFrame} (h : f.version ≠ 1 ∨ f.jobId ≠ j.jobId ∨
    f.jobStitch + 3 < s.jobStitch ∨ (f.type ≠ 0x09 ∧ f.incarnation ≠ mapGet 0 s.outer.job.incs f.source)) :
    s.laceOk j f = false := by
  obtain h | h | h | ⟨htype, hinc⟩ := h
  · simp [State.laceOk, h]
  · simp [State.laceOk, h]
  · simp [State.laceOk, h]
  · simp [State.laceOk, htype, hinc]

theorem State.laceOk_parent (s : State) {j : JobSec} {f : LaceFrame} (hversion : f.version = 1) (hid : f.jobId = j.jobId)
    (hstitch : s.jobStitch ≤ f.jobStitch + 3) (hinc : f.incarnation = mapGet 0 s.outer.job.incs f.source)
    (hparent : j.parentMember = some f.source) (htype : f.type ∈ [0x02, 0x04, 0x06, 0x07, 0x08, 0x0A]) : s.laceOk j f = true := by
  have hdown : f.type ∈ downTypes := htype
  simp [State.laceOk, hversion, hid, hstitch, hinc, hparent, hdown]

/-- Settles O36: a frame that passes the checks acts on the counted state (`State.laceFrame_acts`); the others are stale or not
seen. -/
theorem laceFrames : Obligations.LaceFrames := by
  unfold Obligations.LaceFrames
  refine ⟨?_, ?_, ?_, ?_, ?_⟩
  · intro s w k f p j hon hjob hstate hok hw
    have reach {ty} (hty : f.type = ty) (act) : s.laceFrame k ty f act = act p j w := by
      rw [hw, State.laceFrame_acts hon hjob hstate hok hty]
    have houter : w.outer = s.outer := hw ▸ s.rxCount_outer k
    have hinst := State.inst_of_outer houter f.jobStitch f.barrier
    have hstitch : w.jobStitch = s.jobStitch := hw ▸ s.rxCount_jobStitch k
    have hmember : w.isMember = s.isMember := hw ▸ s.rxCount_isMember k
    have hsw : Within [.regs] s w := hw ▸ s.rxCount_within k
    have hqp (q) : w.qp p q = s.qp p q := State.qp_of_outer houter p q
    refine ⟨fun hty hst hm => ?_, fun hty hst => ?_, fun hty hany => ?_, fun hty hnone => ?_, fun hty hrole => ?_,
      fun hty hrole => ?_, fun hty => ?_, fun hty => ?_, fun hty => ?_, fun hty => ?_, fun hty => ?_, fun hty hrole => ?_,
      fun hty hrole => ?_, fun hty => ?_, fun hty hready hnum hcfg => ?_, fun hty hready => ?_⟩
    · refine congrArg Host.Outcome.next ((reach hty _).trans ((if_neg ?_).trans (by rw [hinst])))
      simp [hst, hstitch, hmember, hm]
    · exact congrArg Host.Outcome.next ((reach hty _).trans (if_pos (by simp [hst, hstitch])))
    · refine congrArg Host.Outcome.next ((reach hty _).trans ((if_pos ?_).trans (by rw [hinst])))
      simpa [houter] using hany
    · exact congrArg Host.Outcome.next ((reach hty _).trans (if_neg (by simp [houter, hnone])))
    · exact congrArg Host.Outcome.next ((reach hty _).trans (if_pos hrole))
    · exact congrArg Host.Outcome.next ((reach hty _).trans (if_neg (by rw [hrole]; decide)))
    · exact congrArg Host.Outcome.next (reach hty _)
    · exact congrArg Host.Outcome.next ((reach hty _).trans (by rw [houter]))
    · exact ⟨_, congrArg Host.Outcome.next (reach hty _), rfl, (hsw.mono (by simp)).trans
        ((State.laceDown_within ..).trans ((State.setJob_within ..).mono (by simp)))⟩
    · refine ⟨_, congrArg Host.Outcome.next (reach hty _), List.mem_append_right _ (List.mem_singleton_self _), fun e he hsrc => ?_,
        (hsw.mono (by simp)).trans ((State.setJob_within ..).mono (by simp))⟩
      obtain he | he := List.mem_append.1 he
      · simp [hsrc] at he
      · rw [List.mem_singleton.1 he]
    · exact congrArg Host.Outcome.next (reach hty _)
    · exact congrArg Host.Outcome.next ((reach hty _).trans (if_pos hrole))
    · exact congrArg Host.Outcome.next ((reach hty _).trans (if_neg (by rw [hrole]; decide)))
    · obtain ⟨n, hn⟩ := w.laceDown_job (j.frame f)
      refine ⟨_, congrArg Host.Outcome.next (reach hty _), ?_, (hsw.mono (by simp)).trans
        ((State.laceDown_within ..).trans ((State.setJob_within ..).mono (by simp)))⟩
      show (w.laceDown (j.frame f)).outer.job.newIncs ++ _ = _
      rw [hn, ← houter]
    · have hqpr := State.qpReset_qp (s := w) (p := p) (q := f.value % 4096) (r := f.jobStitch + 4) (by rw [hqp]; exact hready)
        ((State.qpCfg_of_lasts (hsw.2 .lasts (by simp)) ..) ▸ hcfg)
      refine ⟨_, congrArg Host.Outcome.next ((reach hty _).trans (if_neg (by simp [hqp, hready, hnum]))),
        congrArg Qp.state hqpr, congrArg Qp.error hqpr, congrArg Qp.readyAt hqpr⟩
    · exact congrArg Host.Outcome.next ((reach hty _).trans (if_pos (by simp [hqp, hready])))
  · intro s k f hon hbad
    have stale {ty} (hty : f.type = ty) (act) : s.laceFrame k ty f act = s.rxStale k := State.laceFrame_stale hon hbad hty act
    exact ⟨fun h => congrArg Host.Outcome.next (stale h _), fun h => congrArg Host.Outcome.next (stale h _),
      fun h => congrArg Host.Outcome.next (stale h _), fun h => congrArg Host.Outcome.next (stale h _),
      fun h => congrArg Host.Outcome.next (stale h _), fun h => congrArg Host.Outcome.next (stale h _),
      fun h => congrArg Host.Outcome.next (stale h _), fun h => congrArg Host.Outcome.next (stale h _),
      fun h => congrArg Host.Outcome.next (stale h _), fun h => congrArg Host.Outcome.next (stale h _),
      fun h => congrArg Host.Outcome.next (stale h _)⟩
  · exact fun s k f hon => ⟨congrArg Host.Outcome.next (State.laceFrame_off hon _),
      congrArg Host.Outcome.next (State.laceFrame_off hon _), congrArg Host.Outcome.next (State.laceFrame_off hon _)⟩
  · exact fun s j f h => s.laceOk_refused h
  · exact fun s j f hversion hid hstitch hinc hparent htype => s.laceOk_parent hversion hid hstitch hinc hparent htype

end Sys2Proof.Machine

/-! SUPPORT. Job barriers and failed job stitches (R351, R356). -/

namespace Sys2Proof.Machine

set_option Elab.async false

/-! ### Frames that leave -/

theorem State.jobOf_of {s t : State} (hregs : t.regs = s.regs) (hlasts : t.lasts = s.lasts) : t.jobOf = s.jobOf := by
  have hlast (p : Nat) : t.lastOf p = s.lastOf p := by rw [State.lastOf, hlasts]; rfl
  simp only [State.jobOf, State.get_of_regs hregs, hlast]

theorem State.laceHdr_of_dev {s t : State} (h : t.dev = s.dev) (a : AddrEnt) : t.laceHdr a = s.laceHdr a := by
  rw [State.laceHdr, State.frameHdr, State.portEnt, State.portsHdr, h]
  rfl

/-- R347: a frame of a member leaves with the job's identity. -/
theorem State.laceTo_out {s : State} {p : Nat} {j : JobSec} (hjob : s.jobOf = some (p, j)) (hstate : s.get fOutJobStatus_state ≠ 3)
    (a : AddrEnt) (f : LaceFrame) : (s.laceTo a f).out = s.out ++ [.lace a.port (s.laceHdr a)
      { f with jobId := j.jobId, incarnation := s.get fOutJobInc_incarnation, sequence := s.outer.job.sequence }] := by
  rw [State.laceTo, hjob]
  dsimp only
  rw [if_neg hstate]
  rfl

theorem Fld.portTx_ne_barrier (d i : Nat) : fOutJobCntBarrier_count.key ≠ (fOutPortTx_count d i).key := by
  simp only [Fld.key, fOutJobCntBarrier_count, fOutPortTx_count, RegKind.addr, RegKind.base, kOutJobCntBarrier, kOutPortTx]
  omega

theorem State.laceTo_barriers (s : State) (a : AddrEnt) (f : LaceFrame) :
    (s.laceTo a f).get fOutJobCntBarrier_count = s.get fOutJobCntBarrier_count := by
  rw [State.laceTo]
  cases s.jobOf with
  | none => rfl
  | some pj =>
    dsimp only
    split
    · rfl
    · exact State.get_set_ne _ _ (Fld.portTx_ne_barrier _ _)

theorem State.laceUp_one {s : State} {p : Nat} {j : JobSec} {a : AddrEnt} (hjob : s.jobOf = some (p, j)) (ha : j.parent = some a)
    (f : LaceFrame) : s.laceUp f = s.laceTo a f := by
  rw [State.laceUp, hjob]
  dsimp only
  rw [ha]

theorem State.laceDown_one {s : State} {p : Nat} {j : JobSec} {a : AddrEnt} (hjob : s.jobOf = some (p, j)) (ha : j.children = [a])
    (f : LaceFrame) : s.laceDown f = s.laceTo a f := by
  rw [State.laceDown, hjob]
  dsimp only
  rw [ha]
  rfl

theorem State.ownFrame_of_job {s : State} {p : Nat} {j : JobSec} (hjob : s.jobOf = some (p, j)) (ty : Nat) :
    s.ownFrame ty = { type := ty, source := j.member, subject := j.member, jobStitch := s.get fOutJobStitch_stitch } := by
  rw [State.ownFrame, hjob]

/-! ### Arrivals at a job barrier -/

theorem State.setInst_within (s : State) (x : JobInst) : Within [.outer] s (s.setInst x) := State.setJob_within ..

section Check

variable {s : State} {p : Nat} {j : JobSec} {x : JobInst}

theorem State.checkInst_waits (h : x.tasks.length < j.localTasks x.barrier ∨ ∃ m ∈ j.childMembers, ∀ e ∈ x.children, e.1 ≠ m) :
    s.checkInst p j x = s.setInst x := by
  refine if_pos ?_
  obtain h | ⟨m, hm, hne⟩ := h
  · simp [h]
  · have hwhole : (j.childMembers.all fun m => x.children.any fun e => e.1 == m) = false :=
      List.all_eq_false.2 ⟨m, hm, by simpa using fun n hn => hne (m, n) hn rfl⟩
    simp [hwhole]

theorem State.checkInst_manager {a : AddrEnt} {n : Nat} (hrole : j.role = 1) (hchildren : j.children = [a]) (hsent : x.sent = false)
    (hlocal : 0 < j.localTasks x.barrier) (htasks : j.localTasks x.barrier ≤ x.tasks.length) (hx : x.children = [(a.member, n)]) :
    s.checkInst p j x = if 1 + n = j.memberCount then (s.setInst x).completeInst p j x else s.setInst x := by
  refine (if_neg ?_).trans ((if_pos hrole).trans ?_)
  · simp [hsent, JobSec.childMembers, hchildren, hx, hlocal, htasks]
  · rw [hx]
    simp

/-- R351: a member without children sends its own arrival. -/
theorem State.checkInst_leaf (hchildren : j.children = []) (hrole : j.role = 2) (hsent : x.sent = false)
    (hlocal : 0 < j.localTasks x.barrier) (htasks : j.localTasks x.barrier ≤ x.tasks.length) (hx : x.children = []) :
    s.checkInst p j x = ((s.setInst x).setInst { x with sent := true }).laceUp
      { (s.setInst x).ownFrame 0x01 with barrier := x.barrier, value := 1, jobStitch := x.stitch } := by
  refine (if_neg ?_).trans ((if_neg (by rw [hrole]; decide)).trans ?_)
  · simp [hsent, JobSec.childMembers, hchildren, hlocal, htasks]
  · rw [hx]
    rfl

theorem State.checkInst_leaf_spec {a : AddrEnt} (hjob : s.jobOf = some (p, j)) (hchildren : j.children = []) (hrole : j.role = 2)
    (hparent : j.parent = some a) (hstate : s.get fOutJobStatus_state ≠ 3) (hsent : x.sent = false)
    (hlocal : 0 < j.localTasks x.barrier) (htasks : j.localTasks x.barrier ≤ x.tasks.length) (hx : x.children = []) :
    ∃ f, (s.checkInst p j x).out = s.out ++ [.lace a.port (s.laceHdr a) f] ∧ f.type = 1 ∧ f.source = j.member ∧ f.value = 1 ∧
      f.barrier = x.barrier ∧ f.jobStitch = x.stitch ∧ f.jobId = j.jobId ∧ Within [.regs, .outer, .out] s (s.checkInst p j x) := by
  obtain ⟨u, hu⟩ : ∃ u, u = (s.setInst x).setInst { x with sent := true } := ⟨_, rfl⟩
  have huw : Within [.outer] s u := hu ▸ (State.setInst_within ..).trans (State.setInst_within ..)
  have hjob' : u.jobOf = some (p, j) := (State.jobOf_of (huw.2 .regs (by simp)) (huw.2 .lasts (by simp))).trans hjob
  have hown : (s.setInst x).ownFrame 0x01 = _ := State.ownFrame_of_job (s := s.setInst x) hjob 0x01
  rw [State.checkInst_leaf hchildren hrole hsent hlocal htasks hx, ← hu, State.laceUp_one hjob' hparent,
    State.laceTo_out hjob' ((State.get_of_regs (huw.2 .regs (by simp)) _).trans_ne hstate), hown,
    State.laceHdr_of_dev (huw.2 .dev (by simp)), huw.2 .out (by simp)]
  exact ⟨_, rfl, rfl, rfl, rfl, rfl, rfl, rfl, (huw.mono (by simp)).trans (State.laceTo_within ..)⟩

end Check

/-! ### Completions of a job barrier -/

theorem State.barrierDone_spec (s : State) (p : Nat) (j : JobSec) (b : Nat) (who : Task → Bool) :
    Within [.regs, .tile] s (s.barrierDone p j b who) ∧ (s.barrierDone p j b who).regs = (s.addTo fOutJobCntBarrier_count 1).regs ∧
      (s.barrierDone p j b who).out = s.out := by
  have hfold : ∀ (l : List Task) (u : State), Within [.tile] u (l.foldl (fun s k =>
      if k.part = p && who k then s.setTask { k with completed := k.completed ++ j.waitingAt b k } else s) u) := by
    intro l u
    refine Within.foldl (fun u k => ?_) l u
    split
    · exact State.setTask_within ..
    · exact .refl ..
  have hw := hfold (s.addTo fOutJobCntBarrier_count 1).tile.tasks (s.addTo fOutJobCntBarrier_count 1)
  exact ⟨(State.addTo_within ..).mono.trans (hw.mono (by simp)), hw.2 .regs (by simp), hw.2 .out (by simp)⟩

theorem State.barrierDone_counts (s : State) (p : Nat) (j : JobSec) (b : Nat) (who : Task → Bool) :
    (s.barrierDone p j b who).get fOutJobCntBarrier_count =
      (s.get fOutJobCntBarrier_count + 1) % 2 ^ fOutJobCntBarrier_count.width :=
  (State.get_of_regs (s.barrierDone_spec p j b who).2.1 _).trans (State.get_set_same ..)

theorem State.completeInst_spec {s : State} {p : Nat} {j : JobSec} (x : JobInst) {a : AddrEnt} (hjob : s.jobOf = some (p, j))
    (hchildren : j.children = [a]) (hstate : s.get fOutJobStatus_state ≠ 3) :
    ∃ f, (s.completeInst p j x).out = s.out ++ [.lace a.port (s.laceHdr a) f] ∧ f.type = 2 ∧ f.source = j.member ∧ f.barrier = x.barrier ∧
      f.jobStitch = x.stitch ∧ Within [.regs, .tile, .outer, .out] s (s.completeInst p j x) ∧
      (s.completeInst p j x).get fOutJobCntBarrier_count =
        (s.get fOutJobCntBarrier_count + 1) % 2 ^ fOutJobCntBarrier_count.width := by
  obtain ⟨u, hu⟩ : ∃ u, u = s.setJob { s.outer.job with insts := s.outer.job.insts.erase x } := ⟨_, rfl⟩
  have huw : Within [.outer] s u := hu ▸ State.setJob_within ..
  have hregs : u.regs = s.regs := huw.2 .regs (by simp)
  have hjob' : u.jobOf = some (p, j) := (State.jobOf_of hregs (huw.2 .lasts (by simp))).trans hjob
  obtain ⟨v, hv⟩ : ∃ v, v = u.laceTo a { u.ownFrame 0x02 with barrier := x.barrier, jobStitch := x.stitch } := ⟨_, rfl⟩
  have hdone : s.completeInst p j x = v.barrierDone p j x.barrier fun k => x.tasks.contains k.id := by
    rw [State.completeInst, ← hu, hv, ← State.laceDown_one hjob' hchildren]
  have hvw : Within [.regs, .outer, .out] u v := hv ▸ State.laceTo_within ..
  obtain ⟨hw, -, hout⟩ := v.barrierDone_spec p j x.barrier fun k => x.tasks.contains k.id
  have hvout := State.laceTo_out hjob' ((State.get_of_regs hregs _).trans_ne hstate) a
    { u.ownFrame 0x02 with barrier := x.barrier, jobStitch := x.stitch }
  rw [← hv, State.ownFrame_of_job hjob', State.laceHdr_of_dev (huw.2 .dev (by simp)), huw.2 .out (by simp)] at hvout
  rw [hdone, hout, hvout, State.barrierDone_counts, hv, State.laceTo_barriers,
    State.get_of_regs hregs fOutJobCntBarrier_count, ← hv]
  exact ⟨_, rfl, rfl, rfl, rfl, rfl, (huw.mono (by simp)).trans ((hvw.mono (by simp)).trans (hw.mono (by simp))), rfl⟩

/-! ### A job with one member -/

theorem State.soloArrives_one {s : State} {b : Nat} {j : JobSec} {k : Task} (htasks : s.tile.tasks = [k]) (hphase : k.phase = .running)
    (hwait : j.waitingAt b k ≠ []) (hlocal : j.localTasks b = 1) : s.soloArrives k.part j b =
      (s.addTo fOutJobCntBarrier_count 1).setTask { k with completed := k.completed ++ j.waitingAt b k } := by
  have htasks' : (s.addTo fOutJobCntBarrier_count 1).tile.tasks = [k] := htasks
  rw [State.soloArrives]
  refine (if_neg ?_).trans ?_
  · rw [htasks, hlocal, List.filter_cons_of_pos (by simp [hphase, hwait])]
    simp
  · rw [State.barrierDone, htasks']
    exact if_pos (by simp [hphase, hwait])

/-! ### Failed job stitches -/

theorem Fld.jobFault_offEvents : ∀ f ∈ [fOutJobFault_stitch, fOutJobFault_cause, fOutJobFault_member, fOutJobFault_valid],
    f.offEvents = true := by decide

theorem State.jobFault_spec (s : State) (stitch cause member : Nat) :
    (s.jobFault stitch cause member).outer.job = { s.outer.job with faultSet := true } ∧
      (s.jobFault stitch cause member).get fOutJobFault_stitch = stitch % 2 ^ fOutJobFault_stitch.width ∧
      (s.jobFault stitch cause member).get fOutJobFault_cause = cause % 2 ^ fOutJobFault_cause.width ∧
      (s.jobFault stitch cause member).get fOutJobFault_member = member % 2 ^ fOutJobFault_member.width ∧
      (s.jobFault stitch cause member).get fOutJobFault_valid = 1 ∧
      Within [.regs, .uci, .outer, .flt, .out] s (s.jobFault stitch cause member) := by
  obtain ⟨u, hu⟩ : ∃ u, u = s.setAll [(fOutJobFault_stitch, stitch), (fOutJobFault_cause, cause), (fOutJobFault_member, member),
    (fOutJobFault_valid, 1)] := ⟨_, rfl⟩
  have hfault : s.jobFault stitch cause member = (u.setJob { u.outer.job with faultSet := true }).event 0 0x1D stitch
      (cause * 2 ^ 16 + member) (some (u.get fOutJobStatus_partition)) := by rw [hu]; rfl
  have huw : Within [.regs] s u := hu ▸ State.setAll_within ..
  have hget {g : Fld} (hg : g.offEvents = true) : (s.jobFault stitch cause member).get g = u.get g := by
    rw [hfault, State.get_event hg]
    rfl
  refine ⟨?_, ?_, ?_, ?_, ?_, ?_⟩
  · rw [hfault, State.event_outer, State.setJob, huw.2 .outer (by simp)]
  · rw [hget (by decide), hu]
    simp [State.setAll, State.get_set, Fld.key, fOutJobFault_stitch, fOutJobFault_cause, fOutJobFault_member, fOutJobFault_valid]
  · rw [hget (by decide), hu]
    simp [State.setAll, State.get_set, Fld.key, fOutJobFault_stitch, fOutJobFault_cause, fOutJobFault_member, fOutJobFault_valid]
  · rw [hget (by decide), hu]
    simp [State.setAll, State.get_set, Fld.key, fOutJobFault_stitch, fOutJobFault_cause, fOutJobFault_member, fOutJobFault_valid]
  · rw [hget (by decide), hu]
    simp [State.setAll, fOutJobFault_valid]
  · rw [hfault]
    exact ((huw.mono (by simp)).trans ((State.setJob_within ..).mono (by simp))).trans ((State.event_within ..).mono (by decide))

/-- R356: the fault of stitch `n`, with the earliest failure recorded for it. -/
def State.stitchFault (due : List JobFailure) (s : State) (n : Nat) : State :=
  match due.find? fun x => x.stitch == n with
  | none => s
  | some x => (s.laceDown { s.ownFrame 0x04 with jobStitch := n, cause := x.cause, subject := x.member }).jobFault n x.cause x.member

theorem State.stitchFault_one (s : State) (x : JobFailure) : s.stitchFault [x] x.stitch = (s.laceDown
    { s.ownFrame 0x04 with jobStitch := x.stitch, cause := x.cause, subject := x.member }).jobFault x.stitch x.cause x.member := by
  have hfind : [x].find? (fun y => y.stitch == x.stitch) = some x := by simp
  rw [State.stitchFault, hfind]

theorem execJobDeadline_due {s : State} {p : Nat} {j : JobSec} {due rest : List JobFailure} (hjob : s.jobOf = some (p, j))
    (hrole : j.role = 1) (hdue : s.outer.job.failures.filter (fun x => decide (x.stitch + 3 ≤ s.jobStitch)) = due)
    (hrest : s.outer.job.failures.filter (fun x => !decide (x.stitch + 3 ≤ s.jobStitch)) = rest) (hne : due ≠ []) :
    exec .jobDeadline s = .next (((due.map fun x => x.stitch).eraseDups).foldl (State.stitchFault due)
      (s.setJob { s.outer.job with failures := rest })) := by
  show execJobDeadline s = _
  rw [execJobDeadline, hjob]
  dsimp only
  rw [hdue, hrest]
  exact if_neg (by simp [hrole, hne])

/-- R356: the one failure of a stitch that is due is sent down, and recorded here. -/
theorem execJobDeadline_one {s : State} {p : Nat} {j : JobSec} {x : JobFailure} (hjob : s.jobOf = some (p, j)) (hrole : j.role = 1)
    (hx : s.outer.job.failures = [x]) (hdue : x.stitch + 3 ≤ s.jobStitch) :
    exec .jobDeadline s = .next ((s.setJob { s.outer.job with failures := [] }).stitchFault [x] x.stitch) := by
  rw [execJobDeadline_due hjob hrole (due := [x]) (rest := []) (by simp [hx, hdue]) (by simp [hx, hdue]) (by simp),
    List.map_singleton, List.eraseDups_cons, List.filter_nil, List.eraseDups_nil, List.foldl_cons, List.foldl_nil]

/-- R356: a failure that is due becomes a job fault. -/
theorem execJobDeadline_spec {s : State} {p : Nat} {j : JobSec} {x : JobFailure} (hjob : s.jobOf = some (p, j)) (hrole : j.role = 1)
    (hx : s.outer.job.failures = [x]) (hdue : x.stitch + 3 ≤ s.jobStitch) :
    ∃ u, exec .jobDeadline s = .next u ∧ u.outer.job.failures = [] ∧ u.outer.job.faultSet = true ∧
      u.get fOutJobFault_stitch = x.stitch % 2 ^ fOutJobFault_stitch.width ∧
      u.get fOutJobFault_cause = x.cause % 2 ^ fOutJobFault_cause.width ∧
      u.get fOutJobFault_member = x.member % 2 ^ fOutJobFault_member.width ∧ u.get fOutJobFault_valid = 1 ∧
      Within [.regs, .uci, .outer, .flt, .out] s u := by
  obtain ⟨u, hu⟩ : ∃ u, u = s.setJob { s.outer.job with failures := [] } := ⟨_, rfl⟩
  obtain ⟨f, hf⟩ : ∃ f : LaceFrame, f = { u.ownFrame 0x04 with jobStitch := x.stitch, cause := x.cause, subject := x.member } := ⟨_, rfl⟩
  have hexec := execJobDeadline_one hjob hrole hx hdue
  rw [← hu, State.stitchFault_one, ← hf] at hexec
  obtain ⟨hj, hstitch, hcause, hmember, hvalid, hw⟩ := (u.laceDown f).jobFault_spec x.stitch x.cause x.member
  obtain ⟨n, hn⟩ := u.laceDown_job f
  have huw : Within [.outer] s u := hu ▸ State.setJob_within ..
  refine ⟨_, hexec, ?_, ?_, hstitch, hcause, hmember, hvalid,
    (huw.mono (by simp)).trans (((State.laceDown_within ..).mono (by simp)).trans hw)⟩
  · rw [hj, hn, hu]
    rfl
  · rw [hj]

theorem execJobDeadline_none {s : State} {p : Nat} {j : JobSec} (hjob : s.jobOf = some (p, j))
    (h : j.role ≠ 1 ∨ ∀ x ∈ s.outer.job.failures, s.jobStitch < x.stitch + 3) : exec .jobDeadline s = .next s := by
  show execJobDeadline s = _
  rw [execJobDeadline, hjob]
  refine if_pos ?_
  obtain h | h := h
  · simp [h]
  · simpa using Or.inr h

theorem exec_job_commands_of_none {s : State} (hjob : s.jobOf = none) : exec .jobDeadline s = .next s ∧ exec .epochReport s = .next s ∧
    exec .reportDeadline s = .next s ∧ exec .freqDecision s = .next s ∧ exec .sendJoin s = .next s ∧
    exec .memberEffective s = .next s := by
  refine ⟨show execJobDeadline s = _ from ?_, show execEpochReport s = _ from ?_, show execReportDeadline s = _ from ?_,
    show execFreqDecision s = _ from ?_, show execSendJoin s = _ from ?_, show execMemberEffective s = _ from ?_⟩
  · rw [execJobDeadline, hjob]
  · rw [execEpochReport, hjob]
  · rw [execReportDeadline, hjob]
  · rw [execFreqDecision, hjob]
  · rw [execSendJoin, hjob]
  · rw [execMemberEffective, hjob]

/-- R357: a manager without queue pairs only records the loss. -/
theorem State.memberDown_manager (s : State) (p : Nat) {j : JobSec} (m stitch : Nat) (f : LaceFrame) (hrole : j.role = 1)
    (hparent : j.parent = none) (hqps : j.qps = []) : s.memberDown p j m stitch f = s.jobFailure stitch 3 m := by
  rw [State.memberDown, hqps, if_pos hrole]
  exact if_neg (by simp [JobSec.parentMember, hparent])

/-! ### The end of a task barrier -/

/-- R193: a completion ends the instance on a task none of whose tiles elsewhere still waits. -/
theorem execLaceCompletion_ends {s : State} {id : Nat} {k : Task} {d : Die} {n : Fin 16} (hk : s.taskById id = some k)
    (hdone : n.val ∈ k.completed) (htiles : ∀ t ∈ k.tiles, (s.tileAt t).sentBar ≠ some n.val ∨ tileDie t = d.val) :
    exec (.laceCompletion id d n) s = .next ((s.releaseTask k d n).setTask
      { k with arrivals := mapSet [] k.arrivals n.val [], completed := k.completed.erase n.val }) := by
  show execLaceCompletion id d n s = _
  rw [execLaceCompletion]
  simp only [hk]
  rw [if_pos (by simpa using hdone), if_pos]
  refine List.all_eq_true.2 fun t ht => by
    simpa using State.sentBar_releaseTask (fun t ht hbar => (htiles t ht).resolve_left fun h => h hbar) ht

theorem State.mem_setTask {s : State} {k x : Task} (hx : x ∈ (s.setTask k).tile.tasks) (hid : x.id = k.id) : x = k := by
  obtain ⟨y, -, rfl⟩ := List.mem_map.1 hx
  by_cases h : y.id = k.id
  · exact if_pos h
  · rw [if_neg h] at hid
    exact absurd hid h

/-- Settles O37: arrivals sum up the tree, completions go down it, and failures wait for the manager. -/
theorem jobBarriers : Obligations.JobBarriers := by
  unfold Obligations.JobBarriers
  refine ⟨?_, ?_, ?_, ?_, ?_, ?_, ?_, ?_, ?_, ?_, ?_, ?_, ?_⟩
  · exact fun s p j x a hjob hchildren hrole hparent hstate hsent hlocal htasks hx =>
      State.checkInst_leaf_spec hjob hchildren hrole hparent hstate hsent hlocal htasks hx
  · exact fun s p j x h => State.checkInst_waits (.inl h)
  · exact fun s p j x h => State.checkInst_waits (.inr h)
  · exact fun s p j x a n hrole hchildren hsent hlocal htasks hx =>
      State.checkInst_manager hrole hchildren hsent hlocal htasks hx
  · exact fun s p j x a hjob hchildren hstate => State.completeInst_spec x hjob hchildren hstate
  · exact fun s p b j h => if_pos h
  · intro s b j k htasks hphase hwait hlocal
    refine ⟨_, State.soloArrives_one htasks hphase hwait hlocal, ?_, ?_, ?_, ?_⟩
    · show List.map _ (s.addTo fOutJobCntBarrier_count 1).tile.tasks = _
      rw [State.addTo_tile, htasks]
      exact congrArg (fun x => [x]) (if_pos rfl)
    · exact State.get_set_same ..
    · exact (State.addTo_within ..).mono.trans ((State.setTask_within ..).mono (by simp))
    · exact (RegsKept.refl _ s).addTo 1 (by simp)
  · exact fun s p j x hjob hrole hx hdue => execJobDeadline_spec hjob hrole hx hdue
  · exact fun s p j hjob h => execJobDeadline_none hjob h
  · exact fun s hjob => exec_job_commands_of_none hjob
  · intro s p j m stitch f hrole hparent hqps
    rw [s.memberDown_manager p m stitch f hrole hparent hqps]
    exact ⟨rfl, State.setJob_within ..⟩
  · intro s id k t n hk hphase ht hbar hnone hmiss
    obtain ⟨w, hw, hne⟩ := hmiss
    rw [execLaceArrival_of_new hk hphase ht hbar (by rw [hnone]; exact List.not_mem_nil), if_pos]
    · rw [Task.arrive, hnone]
      rfl
    · rw [Bool.not_eq_true', ← Bool.not_eq_true, mem_all_contains, hnone]
      exact fun hall => hne (by simpa using hall w hw)
  · intro s id k d n hk hdone htiles
    refine ⟨_, execLaceCompletion_ends hk hdone htiles, fun x hx hid hin => ?_⟩
    have hkid : k.id = id := by simpa using List.find?_some hk
    rw [State.mem_setTask hx (hid.trans hkid.symm)] at hin
    refine ⟨k, List.mem_of_find?_eq_some hk, hkid, ?_⟩
    have hcount : 0 < (k.completed.erase n.val).count n.val := List.count_pos_iff.2 hin
    rw [List.count_erase_self] at hcount
    omega

end Sys2Proof.Machine

/-! SUPPORT. The locked frequency, heartbeats, loss and joining (R354 to R360). -/

namespace Sys2Proof.Machine

set_option Elab.async false

/-! ### What the throttle reasons leave -/

theorem State.get_foldl_mem {α : Type} {f : State → α → State} {g : Fld} (l : List α) (s : State)
    (hf : ∀ s, ∀ a ∈ l, (f s a).get g = s.get g) : (l.foldl f s).get g = s.get g := by
  induction l generalizing s with
  | nil => rfl
  | cons a l ih =>
    exact (ih _ fun s b hb => hf s b (List.mem_cons_of_mem _ hb)).trans (hf s a List.mem_cons_self)

/-- The fields of the throttle reasons (R438, R444). -/
def throttleFields : List Fld :=
  [fPwrThrottle_active, fPwrThrottle_seen] ++ (List.range 7).map fPwrThrUs_us ++ (List.range 8).map fPwrDieB_holder

/-- The field is none that the throttle reasons or their events write. -/
def Fld.offThrottle (g : Fld) : Bool := g.offEvents && throttleFields.all fun f => g.key != f.key

theorem Fld.offThrottle_ne {g f : Fld} (h : g.offThrottle = true) (hf : f ∈ throttleFields) : g.key ≠ f.key := by
  have hall := List.all_eq_true.1 (Bool.and_eq_true_iff.1 h).2 f hf
  simpa using hall

theorem Fld.offThrottle_offEvents {g : Fld} (h : g.offThrottle = true) : g.offEvents = true := (Bool.and_eq_true_iff.1 h).1

theorem State.get_setBitOf_ne (s : State) {f g : Fld} (i : Nat) (b : Bool) (h : g.key ≠ f.key) : (s.setBitOf f i b).get g = s.get g :=
  State.get_set_ne _ _ h

theorem State.get_updateReason {g : Fld} (hg : g.offThrottle = true) (s : State) {r : Nat} (hr : r < 7) :
    (s.updateReason r).get g = s.get g := by
  have hactive : g.key ≠ fPwrThrottle_active.key := g.offThrottle_ne hg (by simp [throttleFields])
  have hseen : g.key ≠ fPwrThrottle_seen.key := g.offThrottle_ne hg (by simp [throttleFields])
  have hus : g.key ≠ (fPwrThrUs_us r).key := g.offThrottle_ne hg (by simp [throttleFields, List.mem_map]; exact .inr (.inr (.inl ⟨r, hr, rfl⟩)))
  have hev := g.offThrottle_offEvents hg
  rw [State.updateReason]
  split
  · rw [State.get_of_regs (State.fire_regs ..), State.get_event hev]
    exact (State.get_setBitOf_ne _ _ _ hseen).trans (State.get_setBitOf_ne _ _ _ hactive)
  · split
    · rw [State.get_event hev]
      exact (State.get_setBitOf_ne _ _ _ hactive).trans (State.get_set_ne _ _ hus)
    · rfl

theorem State.get_updateThrottle {g : Fld} (hg : g.offThrottle = true) (s : State) : s.updateThrottle.get g = s.get g := by
  rw [State.updateThrottle]
  refine (State.get_foldl_mem _ _ fun u d hd => ?_).trans
    (State.get_foldl_mem _ _ fun u r hr => State.get_updateReason hg u (List.mem_range.1 hr))
  exact State.get_set_ne _ _ (g.offThrottle_ne hg (by simp [throttleFields]; exact .inr (.inr (.inr ⟨d, List.mem_range.1 hd, rfl⟩))))

/-! ### The locked frequency -/

/-- The registers that say whether and in which job the device is. -/
def jobFields : List Fld := [fOutJobStatus_role, fOutJobStatus_partition, fOutJobStatus_state]

theorem State.get_ownMhz {g : Fld} (hg : g ∈ jobFields) (s : State) (v : Nat) : (s.set fOutJobFreq_own_mhz v).get g = s.get g := by
  have hne : ∀ g ∈ jobFields, g.key ≠ fOutJobFreq_own_mhz.key := by decide
  exact State.get_set_ne _ _ (hne g hg)

theorem State.jobOf_ownMhz (s : State) (v : Nat) : (s.set fOutJobFreq_own_mhz v).jobOf = s.jobOf := by
  rw [State.jobOf, State.jobOf, State.get_ownMhz (by decide), State.get_ownMhz (by decide)]
  rfl

theorem State.isMember_iff (s : State) : s.isMember = true ↔ s.get fOutJobStatus_role ≠ 0 ∧ s.get fOutJobStatus_state = 2 := by
  simp [State.isMember]

theorem State.lowestReport_none {s : State} {j : JobSec} (h : j.children = []) : s.lowestReport j = s.get fPwrBudget_sustain_mhz := by
  simp [State.lowestReport, JobSec.childMembers, h]

/-- The state in which a report leaves. -/
def State.reporting (s : State) : State :=
  (s.setJob { s.outer.job with reported := s.jobEpoch + 1 }).set fOutJobFreq_own_mhz (s.get fPwrBudget_sustain_mhz)

/-- The report of a member (R348, R354). -/
def State.reportFrame (s : State) (j : JobSec) : LaceFrame :=
  { type := 0x05, source := j.member, subject := j.member, jobStitch := s.get fOutJobStitch_stitch, mhz := s.lowestReport j }

theorem State.sendReport_eq {s : State} {p : Nat} {j : JobSec} (hjob : s.jobOf = some (p, j)) :
    s.sendReport j = s.reporting.laceUp (s.reportFrame j) := by
  have hown : (s.setJob { s.outer.job with reported := s.jobEpoch + 1 }).ownFrame 0x05 =
      { type := 0x05, source := j.member, subject := j.member, jobStitch := s.get fOutJobStitch_stitch } :=
    State.ownFrame_of_job (s := s.setJob { s.outer.job with reported := s.jobEpoch + 1 }) hjob 0x05
  exact congrArg (fun f : LaceFrame => s.reporting.laceUp { f with mhz := s.lowestReport j }) hown

theorem State.reporting_spec (s : State) : Within [.regs, .outer] s s.reporting ∧ s.reporting.jobOf = s.jobOf ∧
    s.reporting.get fOutJobStatus_state = s.get fOutJobStatus_state ∧ s.reporting.outer.job.reported = s.jobStitch / 256 + 1 :=
  ⟨((State.setJob_within s _).mono (by simp)).trans (State.set_within ..).mono, State.jobOf_ownMhz ..,
    State.get_ownMhz (by decide) _ _, rfl⟩

section Report

variable {s : State} {p : Nat} {j : JobSec} {a : AddrEnt}

theorem State.sendReport_spec (hjob : s.jobOf = some (p, j)) (hmember : s.isMember = true) (hparent : j.parent = some a)
    (hchildren : j.children = []) : ∃ f, (s.sendReport j).out = s.out ++ [.lace a.port (s.laceHdr a) f] ∧ f.type = 5 ∧
      f.mhz = s.get fPwrBudget_sustain_mhz ∧ (s.sendReport j).outer.job.reported = s.jobStitch / 256 + 1 ∧
      Within [.regs, .outer, .out] s (s.sendReport j) := by
  obtain ⟨hw, hjobOf, hstate, hreported⟩ := s.reporting_spec
  rw [State.sendReport_eq hjob]
  generalize s.reporting = u at hw hjobOf hstate hreported ⊢
  have hujob : u.jobOf = some (p, j) := hjobOf.trans hjob
  have hne : u.get fOutJobStatus_state ≠ 3 := by rw [hstate, ((State.isMember_iff s).1 hmember).2]; decide
  obtain ⟨n, hn⟩ := u.laceTo_job a (s.reportFrame j)
  rw [State.laceUp_one hujob hparent, State.laceTo_out hujob hne, hn, State.laceHdr_of_dev (hw.2 .dev (by simp)),
    hw.2 .out (by simp)]
  exact ⟨_, rfl, rfl, State.lowestReport_none hchildren, hreported, (hw.mono (by simp)).trans (State.laceTo_within ..)⟩

theorem State.relayReport_leaf (hmember : s.isMember = true) (hrole : j.role = 2) (hchildren : j.children = [])
    (hreported : s.outer.job.reported ≠ s.jobStitch / 256 + 1) (hstitch : s.jobStitch % 256 = 224) :
    s.relayReport j = s.sendReport j :=
  if_neg (by simp [hmember, hrole, JobSec.childMembers, hchildren, hstitch, State.jobEpoch, hreported])

theorem execEpochReport_now (hjob : s.jobOf = some (p, j)) (hmember : s.isMember = true) (hrole : j.role = 2)
    (hchildren : j.children = []) (hreported : s.outer.job.reported ≠ s.jobStitch / 256 + 1) (hstitch : s.jobStitch % 256 = 224) :
    exec .epochReport s = .next (s.sendReport j) := by
  show execEpochReport s = _
  rw [execEpochReport, hjob]
  exact congrArg Host.Outcome.next ((if_pos hstitch).trans
    (State.relayReport_leaf hmember hrole hchildren hreported hstitch))

theorem execReportDeadline_now (hjob : s.jobOf = some (p, j)) (hmember : s.isMember = true) (hrole : j.role = 2)
    (hreported : s.outer.job.reported ≠ s.jobStitch / 256 + 1) (hstitch : s.jobStitch % 256 = 240) :
    exec .reportDeadline s = .next (s.sendReport j) := by
  show execReportDeadline s = _
  rw [execReportDeadline, hjob]
  exact congrArg Host.Outcome.next (if_pos (by simp [hmember, hrole, hstitch, State.jobEpoch, hreported]))

end Report

/-- R354: outside its stitch none of the steps of an epoch happens. -/
theorem exec_epoch_off (s : State) : (s.jobStitch % 256 ≠ 224 → exec .epochReport s = .next s) ∧
    (s.jobStitch % 256 ≠ 240 → exec .reportDeadline s = .next s) ∧ (s.jobStitch % 256 ≠ 248 → exec .freqDecision s = .next s) ∧
    (s.jobStitch % 256 ≠ 0 → exec .freqApply s = .next s) := by
  have happly (h : s.jobStitch % 256 ≠ 0) : exec .freqApply s = .next s := if_pos (by simp [h])
  cases hjob : s.jobOf with
  | none =>
    obtain ⟨-, hreport, hdeadline, hdecision, -⟩ := exec_job_commands_of_none hjob
    exact ⟨fun _ => hreport, fun _ => hdeadline, fun _ => hdecision, happly⟩
  | some pj =>
    refine ⟨fun h => show execEpochReport s = _ from ?_, fun h => show execReportDeadline s = _ from ?_,
      fun h => show execFreqDecision s = _ from ?_, happly⟩
    · rw [execEpochReport, hjob]
      exact congrArg Host.Outcome.next (if_neg h)
    · rw [execReportDeadline, hjob]
      exact congrArg Host.Outcome.next (if_neg (by simp [h]))
    · rw [execFreqDecision, hjob]
      exact if_pos (by simp [h])

section Decision

variable {s : State} {p : Nat} {j : JobSec} {a : AddrEnt}

/-- The state in which the manager's decision leaves. -/
def State.deciding (s : State) : State := s.set fOutJobFreq_own_mhz (s.get fPwrBudget_sustain_mhz)

theorem execFreqDecision_now (hjob : s.jobOf = some (p, j)) (hmember : s.isMember = true) (hrole : j.role = 1)
    (hstitch : s.jobStitch % 256 = 248) :
    exec .freqDecision s = .next ((s.deciding.laceDown { s.deciding.ownFrame 0x06 with
      mhz := s.lowestReport j, effective := 256 * (s.jobEpoch + 1) }).setJob { (s.deciding.laceDown { s.deciding.ownFrame 0x06 with
      mhz := s.lowestReport j, effective := 256 * (s.jobEpoch + 1) }).outer.job with
        freq := some (256 * (s.jobEpoch + 1), s.lowestReport j) }) := by
  show execFreqDecision s = _
  rw [execFreqDecision, hjob]
  exact if_neg (by simp [hrole, hmember, hstitch])

theorem execFreqDecision_spec (hjob : s.jobOf = some (p, j)) (hmember : s.isMember = true) (hrole : j.role = 1)
    (hchildren : j.children = [a]) (hstitch : s.jobStitch % 256 = 248) :
    ∃ u f v, exec .freqDecision s = .next u ∧ v = s.lowestReport j ∧ u.outer.job.freq = some (s.jobStitch + 8, v) ∧
      u.out = s.out ++ [.lace a.port (s.laceHdr a) f] ∧ f.type = 6 ∧ f.mhz = v ∧ f.effective = s.jobStitch + 8 ∧
      Within [.regs, .outer, .out] s u := by
  have heff : 256 * (s.jobEpoch + 1) = s.jobStitch + 8 := by rw [State.jobEpoch]; omega
  have hexec := execFreqDecision_now hjob hmember hrole hstitch
  have hw : Within [.regs] s s.deciding := State.set_within ..
  have hjob' : s.deciding.jobOf = some (p, j) := (State.jobOf_ownMhz ..).trans hjob
  have hne : s.deciding.get fOutJobStatus_state ≠ 3 := by
    rw [State.deciding, State.get_ownMhz (by decide), ((State.isMember_iff s).1 hmember).2]
    decide
  rw [heff] at hexec
  generalize s.deciding = u at hexec hw hjob' hne
  have hsent := State.laceTo_out hjob' hne a { u.ownFrame 0x06 with mhz := s.lowestReport j, effective := s.jobStitch + 8 }
  rw [← State.laceDown_one hjob' hchildren, State.laceHdr_of_dev (hw.2 .dev (by simp)), hw.2 .out (by simp)] at hsent
  refine ⟨_, _, _, hexec, rfl, rfl, hsent, ?_, rfl, rfl, (hw.mono (by simp)).trans
    ((State.laceDown_within ..).trans ((State.setJob_within ..).mono (by simp)))⟩
  rw [State.ownFrame_of_job hjob']

theorem State.lowestReport_one {m v e : Nat} (hm : j.childMembers = [m]) (hr : s.outer.job.reports = [(m, v, e)]) :
    s.lowestReport j = min (s.get fPwrBudget_sustain_mhz) v := by
  simp [State.lowestReport, hm, hr]

theorem execFreqApply_locks {mhz : Nat} (hmember : s.isMember = true) (hstitch : s.jobStitch % 256 = 0)
    (hfreq : s.outer.job.freq = some (s.jobStitch, mhz)) : exec .freqApply s =
      .next ((s.set fOutJobFreq_locked_mhz mhz).setJob { s.outer.job with freq := none }).updateThrottle := by
  show execFreqApply s = _
  rw [execFreqApply, if_neg (by simp [hmember, hstitch]), hfreq]
  exact if_pos rfl

theorem execFreqApply_misses (hmember : s.isMember = true) (hstitch : s.jobStitch % 256 = 0)
    (hfreq : ∀ mhz, s.outer.job.freq ≠ some (s.jobStitch, mhz)) : exec .freqApply s = .next (s.bump fOutJobFreq_missed 1) := by
  show execFreqApply s = _
  rw [execFreqApply, if_neg (by simp [hmember, hstitch])]
  cases h : s.outer.job.freq with
  | none => rfl
  | some e => exact if_neg fun he => hfreq e.2 (by rw [h, ← he])

end Decision

/-! ### Heartbeats and loss -/

section Heartbeat

variable {s : State} {p : Nat} {j : JobSec} {a : AddrEnt}

theorem State.jobOf_laceTo (s : State) (a : AddrEnt) (f : LaceFrame) : (s.laceTo a f).jobOf = s.jobOf := by
  have hne (d i : Nat) : fOutJobStatus_role.key ≠ (fOutPortTx_count d i).key ∧
      fOutJobStatus_partition.key ≠ (fOutPortTx_count d i).key := by
    simp only [Fld.key, fOutJobStatus_role, fOutJobStatus_partition, fOutPortTx_count, RegKind.addr, RegKind.base, kOutJobStatus,
      kOutPortTx]
    omega
  have hsent (u : State) (d i : Nat) : (u.addTo (fOutPortTx_count d i) 1).jobOf = u.jobOf := by
    rw [State.jobOf, State.jobOf, State.addTo, State.get_set_ne _ _ (hne d i).1, State.get_set_ne _ _ (hne d i).2]
    rfl
  rw [State.laceTo]
  cases hjob : s.jobOf with
  | none => exact hjob
  | some pj =>
    dsimp only
    split
    · exact hjob
    · exact (hsent ..).trans hjob

theorem execHeartbeatSend_now (hjob : s.jobOf = some (p, j)) (hparent : j.parent = some a) (hchildren : j.children = [])
    (hmember : s.isMember = true) (hstitch : s.jobStitch % 16 = 0) :
    exec .heartbeatSend s = .next (s.laceTo a (s.ownFrame 0x07)) := by
  have hdown : (s.laceTo a (s.ownFrame 0x07)).laceDown (s.ownFrame 0x07) = s.laceTo a (s.ownFrame 0x07) := by
    rw [State.laceDown, State.jobOf_laceTo, hjob]
    dsimp only
    rw [hchildren]
    rfl
  refine congrArg Host.Outcome.next ((if_pos (by simp [hmember, hstitch])).trans ?_)
  exact (congrArg (State.laceDown · (s.ownFrame 0x07)) (State.laceUp_one hjob hparent _)).trans hdown

theorem execHeartbeatSend_off (h : s.isMember = false ∨ s.jobStitch % 16 ≠ 0) : exec .heartbeatSend s = .next s := by
  refine congrArg Host.Outcome.next (if_neg ?_)
  obtain h | h := h <;> simp [h]

theorem execHeartbeatLoss_lost {m last : Nat} (hjob : s.jobOf = some (p, j)) (hmember : s.isMember = true)
    (hm : m ∈ j.neighbourMembers) (hheard : s.outer.job.heard = [(m, last)]) (hlast : last + 48 ≤ s.jobStitch) :
    exec (.heartbeatLoss m) s = .next (s.memberDown p j m s.jobStitch (s.ownFrame 0x08)) := by
  show execHeartbeatLoss m s = _
  rw [execHeartbeatLoss, hjob]
  exact if_neg (by simp [hmember, hm, hheard, hlast])

theorem execHeartbeatLoss_heard {m last : Nat} (hjob : s.jobOf = some (p, j)) (hheard : s.outer.job.heard = [(m, last)])
    (hlast : s.jobStitch < last + 48) : exec (.heartbeatLoss m) s = .next s := by
  show execHeartbeatLoss m s = _
  rw [execHeartbeatLoss, hjob]
  exact if_pos (by simp [hheard, hlast])

theorem execHeartbeatLoss_stranger {m : Nat} (hjob : s.jobOf = some (p, j)) (hm : m ∉ j.neighbourMembers) :
    exec (.heartbeatLoss m) s = .next s := by
  show execHeartbeatLoss m s = _
  rw [execHeartbeatLoss, hjob]
  exact if_pos (by simp [hm])

theorem execHeartbeatLoss_none {m : Nat} (hjob : s.jobOf = none) : exec (.heartbeatLoss m) s = .next s := by
  show execHeartbeatLoss m s = _
  rw [execHeartbeatLoss, hjob]

/-- R357: a worker that has lost its parent has left its job. -/
theorem State.memberDown_parent (s : State) (p stitch : Nat) (f : LaceFrame) (hparent : j.parent = some a) :
    (s.memberDown p j a.member stitch f).get fOutJobStatus_state = 3 ∧ (s.memberDown p j a.member stitch f).outer.job.faultSet = true := by
  have hmem : j.parentMember = some a.member := by rw [JobSec.parentMember, hparent]; rfl
  have hlost : ∃ u : State, s.memberDown p j a.member stitch f =
      (u.set fOutJobStatus_state 3).setJob { (u.set fOutJobStatus_state 3).outer.job with faultSet := true } := ⟨_, if_pos hmem⟩
  obtain ⟨u, hu⟩ := hlost
  rw [hu]
  exact ⟨State.get_set_same u fOutJobStatus_state 3, rfl⟩

end Heartbeat

/-! ### Joining -/

section Join

variable {s : State} {p : Nat} {j : JobSec} {a : AddrEnt}

theorem execSendJoin_worker (hjob : s.jobOf = some (p, j)) (hstate : s.get fOutJobStatus_state = 1) (hpart : s.partState p = 2)
    (haligned : s.get fOutPtpStatus_aligned = 1) (hsent : s.outer.job.joinSent = false) (hrole : j.role = 2) :
    exec .sendJoin s = .next ((s.setJob { s.outer.job with joinSent := true }).laceUp
      ((s.setJob { s.outer.job with joinSent := true }).ownFrame 0x09)) := by
  show execSendJoin s = _
  rw [execSendJoin, hjob]
  exact (if_neg (by simp [hstate, hpart, State.flag, haligned, hsent])).trans
    (congrArg Host.Outcome.next (if_neg (by rw [hrole]; decide)))

theorem execSendJoin_spec (hjob : s.jobOf = some (p, j)) (hstate : s.get fOutJobStatus_state = 1) (hpart : s.partState p = 2)
    (haligned : s.get fOutPtpStatus_aligned = 1) (hsent : s.outer.job.joinSent = false) (hrole : j.role = 2)
    (hparent : j.parent = some a) :
    ∃ u f, exec .sendJoin s = .next u ∧ u.out = s.out ++ [.lace a.port (s.laceHdr a) f] ∧ f.type = 9 ∧ f.subject = j.member ∧
      u.outer.job.joinSent = true ∧ Within [.regs, .outer, .out] s u := by
  obtain ⟨u, hu⟩ : ∃ u, u = s.setJob { s.outer.job with joinSent := true } := ⟨_, rfl⟩
  have hexec := execSendJoin_worker hjob hstate hpart haligned hsent hrole
  have hujob : u.jobOf = some (p, j) := by rw [hu]; exact hjob
  have hustate : u.get fOutJobStatus_state ≠ 3 := by
    rw [hu]
    show s.get fOutJobStatus_state ≠ 3
    rw [hstate]
    decide
  have huw : Within [.outer] s u := hu ▸ State.setJob_within ..
  have hjoin : u.outer.job.joinSent = true := by rw [hu]; rfl
  rw [← hu, State.laceUp_one hujob hparent] at hexec
  obtain ⟨n, hn⟩ := u.laceTo_job a (u.ownFrame 0x09)
  have hout := State.laceTo_out hujob hustate a (u.ownFrame 0x09)
  rw [State.laceHdr_of_dev (huw.2 .dev (by simp)), huw.2 .out (by simp)] at hout
  refine ⟨_, _, hexec, hout, ?_, ?_, ?_, (huw.mono (by simp)).trans (State.laceTo_within ..)⟩
  · rw [State.ownFrame_of_job hujob]
  · rw [State.ownFrame_of_job hujob]
  · rw [hn]
    exact hjoin

theorem execSendJoin_off (hjob : s.jobOf = some (p, j)) (h : s.get fOutJobStatus_state ≠ 1 ∨ s.get fOutPtpStatus_aligned ≠ 1 ∨
    s.partState p ≠ 2 ∨ s.outer.job.joinSent = true) : exec .sendJoin s = .next s := by
  show execSendJoin s = _
  rw [execSendJoin, hjob]
  refine if_pos ?_
  obtain h | h | h | h := h
  · simp [h]
  · simp [State.flag, h]
  · simp [h]
  · simp [h]

/-- The job after the manager has taken a JOIN. -/
def JobSt.joined (x : JobSt) (m stitch : Nat) : JobSt :=
  { x with table := mapSet 0 x.table m (mapGet 0 x.table m + 1), newIncs := x.newIncs ++ [(stitch + 16, m, mapGet 0 x.table m + 1)] }

/-- MEMBER goes to every member (R360). -/
def State.sendMember (s : State) (m inc eff : Nat) : State :=
  s.laceDown { s.ownFrame 0x0A with subject := m, value := inc, effective := eff }

theorem State.takeJoin_unmapped {m stitch : Nat} (htable : s.translate p (j.memberTable + 4 * m) = none) :
    s.takeJoin p j m stitch =
      (s.setJob (s.outer.job.joined m stitch)).sendMember m (mapGet 0 s.outer.job.table m + 1) (stitch + 16) := by
  have hnone : (s.setJob (s.outer.job.joined m stitch)).translate p (j.memberTable + 4 * m) = none := htable
  have hsome : ¬((s.setJob (s.outer.job.joined m stitch)).translate p (j.memberTable + 4 * m)).isSome = true := by
    rw [hnone]
    decide
  show (if ((s.setJob (s.outer.job.joined m stitch)).translate p (j.memberTable + 4 * m)).isSome then
    (s.setJob (s.outer.job.joined m stitch)).schedWrite p (j.memberTable + 4 * m) (toLE 4 (mapGet 0 s.outer.job.table m + 1)) .none
    else s.setJob (s.outer.job.joined m stitch)).sendMember m (mapGet 0 s.outer.job.table m + 1) (stitch + 16) = _
  rw [if_neg hsome]

theorem State.takeJoin_spec {m stitch : Nat} (hjob : s.jobOf = some (p, j)) (hchildren : j.children = [a])
    (hstate : s.get fOutJobStatus_state ≠ 3) (htable : s.translate p (j.memberTable + 4 * m) = none) :
    ∃ u f inc, s.takeJoin p j m stitch = u ∧ inc = mapGet 0 s.outer.job.table m + 1 ∧ mapGet 0 u.outer.job.table m = inc ∧
      u.outer.job.newIncs = s.outer.job.newIncs ++ [(stitch + 16, m, inc)] ∧ u.out = s.out ++ [.lace a.port (s.laceHdr a) f] ∧ f.type = 10 ∧
      f.subject = m ∧ f.value = inc ∧ f.effective = stitch + 16 ∧ Within [.regs, .outer, .out] s u := by
  obtain ⟨u, hu⟩ : ∃ u, u = s.setJob (s.outer.job.joined m stitch) := ⟨_, rfl⟩
  have huw : Within [.outer] s u := hu ▸ State.setJob_within ..
  have hregs : u.regs = s.regs := huw.2 .regs (by simp)
  have hujob : u.jobOf = some (p, j) := (State.jobOf_of hregs (huw.2 .lasts (by simp))).trans hjob
  have houter : u.outer.job = s.outer.job.joined m stitch := by rw [hu]; rfl
  have htake := State.takeJoin_unmapped (stitch := stitch) htable
  rw [← hu, State.sendMember, State.laceDown_one hujob hchildren] at htake
  obtain ⟨f, hf⟩ : ∃ f : LaceFrame,
    f = { u.ownFrame 0x0A with subject := m, value := mapGet 0 s.outer.job.table m + 1, effective := stitch + 16 } := ⟨_, rfl⟩
  rw [← hf] at htake
  have hout := State.laceTo_out hujob ((State.get_of_regs hregs _).trans_ne hstate) a f
  rw [State.laceHdr_of_dev (huw.2 .dev (by simp)), huw.2 .out (by simp)] at hout
  obtain ⟨n, hn⟩ := u.laceTo_job a f
  refine ⟨_, _, _, htake, rfl, ?_, ?_, hout, ?_, ?_, ?_, ?_, (huw.mono (by simp)).trans (State.laceTo_within ..)⟩
  · rw [hn, houter]
    exact mapGet_mapSet_same 0 s.outer.job.table m (mapGet 0 s.outer.job.table m + 1)
  · rw [hn, houter]
    rfl
  · rw [hf, State.ownFrame_of_job hujob]
  · rw [hf]
  · rw [hf]
  · rw [hf]

end Join

/-! ### An incarnation that takes effect -/

/-- R360: a queue pair is renewed at the incarnation of its peer. -/
def State.renewQp (p : Nat) (s : State) (q peer : Nat) : State :=
  s.setQp p q ((s.qp p q).renew (mapGet 0 s.outer.job.incs peer))

theorem State.renewQps_spec (p : Nat) (l : List (QpCfg × Nat)) (u : State) :
    Within [.outer] u (l.foldl (fun s e => s.renewQp p e.2 e.1.peerMember) u) ∧
      (l.foldl (fun s e => s.renewQp p e.2 e.1.peerMember) u).outer.job = u.outer.job ∧
      ∀ q, (u.qp p q).state = 1 ∧ (u.qp p q).psn = 0 ∧ (u.qp p q).expected = 0 ∨ q ∈ l.map Prod.snd →
        ((l.foldl (fun s e => s.renewQp p e.2 e.1.peerMember) u).qp p q).state = 1 ∧
        ((l.foldl (fun s e => s.renewQp p e.2 e.1.peerMember) u).qp p q).psn = 0 ∧
        ((l.foldl (fun s e => s.renewQp p e.2 e.1.peerMember) u).qp p q).expected = 0 := by
  induction l generalizing u with
  | nil => exact ⟨.refl .., rfl, fun q h => h.resolve_right (by simp)⟩
  | cons e l ih =>
    obtain ⟨hw, hjob, hqp⟩ := ih (u.renewQp p e.2 e.1.peerMember)
    refine ⟨(State.setQp_within ..).trans hw, hjob, fun q h => hqp q ?_⟩
    by_cases hq : q = e.2
    · subst hq
      left
      rw [State.renewQp, State.qp_setQp_same]
      exact ⟨rfl, rfl, rfl⟩
    · rw [State.renewQp, State.qp_setQp_ne _ _ (by omega)]
      exact h.imp_right fun hin => (List.mem_cons.1 hin).resolve_left hq

/-- The state in which a member is in force again with its queue pairs. -/
def State.renewed (s : State) (p : Nat) (j : JobSec) (m inc : Nat) : State :=
  j.qps.zipIdx.foldl (fun s e => s.renewQp p e.2 e.1.peerMember) (s.setJob { s.outer.job with incs := mapSet 0 s.outer.job.incs m inc })

theorem State.renewed_spec (s : State) (p : Nat) (j : JobSec) (m inc : Nat) : Within [.outer] s (s.renewed p j m inc) ∧
    (s.renewed p j m inc).outer.job = { s.outer.job with incs := mapSet 0 s.outer.job.incs m inc } ∧
    ∀ q < j.qps.length, ((s.renewed p j m inc).qp p q).state = 1 ∧ ((s.renewed p j m inc).qp p q).psn = 0 ∧
      ((s.renewed p j m inc).qp p q).expected = 0 := by
  obtain ⟨hw, hjob, hqp⟩ := State.renewQps_spec p j.qps.zipIdx (s.setJob { s.outer.job with incs := mapSet 0 s.outer.job.incs m inc })
  refine ⟨(State.setJob_within ..).trans hw, hjob, fun q hq => hqp q (.inr ?_)⟩
  rw [List.zipIdx_map_snd, List.mem_range'_1]
  omega

/-- The registers and the job of a member that is in force again. -/
def State.inForce (u : State) (j : JobSec) (inc : Nat) : State :=
  (u.setAll [(fOutJobInc_incarnation, inc), (fOutJobStatus_state, 2)]).setJob { u.outer.job with
    joinSent := false, heard := j.neighbourMembers.map fun n => (n, u.jobStitch) }

theorem State.takeMember_own (s : State) (p : Nat) (j : JobSec) (inc : Nat) :
    s.takeMember p j j.member inc = (s.renewed p j j.member inc).inForce j inc := by
  have hall : (fun (s : State) (e : QpCfg × Nat) => if e.1.peerMember = j.member || j.member = j.member then
      s.renewQp p e.2 e.1.peerMember else s) = fun s e => s.renewQp p e.2 e.1.peerMember := by
    funext s e
    exact if_pos (by simp)
  rw [State.renewed, ← hall]
  exact if_pos rfl

theorem State.inForce_spec (u : State) (j : JobSec) (inc : Nat) : (u.inForce j inc).get fOutJobInc_incarnation =
      inc % 2 ^ fOutJobInc_incarnation.width ∧ (u.inForce j inc).get fOutJobStatus_state = 2 ∧
    Within [.regs, .outer] u (u.inForce j inc) ∧ RegsKept [fOutJobInc_incarnation, fOutJobStatus_state] u (u.inForce j inc) := by
  have hget (g : Fld) : (u.inForce j inc).get g = (u.setAll [(fOutJobInc_incarnation, inc), (fOutJobStatus_state, 2)]).get g := rfl
  refine ⟨?_, ?_, ((State.setAll_within ..).mono (by simp)).trans ((State.setJob_within ..).mono (by simp)),
    RegsKept.setAll_refl u [(fOutJobInc_incarnation, inc), (fOutJobStatus_state, 2)]⟩
  · rw [hget]
    simp [State.setAll, State.get_set, Fld.key, fOutJobInc_incarnation, fOutJobStatus_state, RegKind.addr, RegKind.base, kOutJobInc,
      kOutJobStatus]
  · rw [hget]
    simp [State.setAll, fOutJobStatus_state]

theorem execMemberEffective_none {s : State} {p : Nat} {j : JobSec} (hjob : s.jobOf = some (p, j))
    (h : ∀ e ∈ s.outer.job.newIncs, s.jobStitch < e.1) : exec .memberEffective s = .next s := by
  have hdue : s.outer.job.newIncs.filter (fun e => decide (e.1 ≤ s.jobStitch)) = [] :=
    List.filter_eq_nil_iff.2 fun e he => by simpa using h e he
  have hrest : s.outer.job.newIncs.filter (fun e => !decide (e.1 ≤ s.jobStitch)) = s.outer.job.newIncs :=
    List.filter_eq_self.2 fun e he => by simpa using h e he
  show execMemberEffective s = _
  rw [execMemberEffective, hjob]
  dsimp only
  rw [hdue, hrest]
  rfl

theorem execMemberEffective_own {s : State} {p eff inc : Nat} {j : JobSec} (hjob : s.jobOf = some (p, j))
    (hinc : s.outer.job.newIncs = [(eff, j.member, inc)]) (heff : eff ≤ s.jobStitch) :
    exec .memberEffective s = .next ((s.setJob { s.outer.job with newIncs := [] }).takeMember p j j.member inc) := by
  have hdue : s.outer.job.newIncs.filter (fun e => decide (e.1 ≤ s.jobStitch)) = [(eff, j.member, inc)] := by simp [hinc, heff]
  have hrest : s.outer.job.newIncs.filter (fun e => !decide (e.1 ≤ s.jobStitch)) = [] := by simp [hinc, heff]
  show execMemberEffective s = _
  rw [execMemberEffective, hjob]
  dsimp only
  rw [hdue, hrest]
  rfl

/-! ### A job that starts -/

/-- The queue pairs of a job that starts (R334). -/
theorem State.freshQps_spec (p : Nat) (l : List Nat) (u : State) :
    Within [.outer] u (l.foldl (fun s q => s.setQp p q { state := 1 }) u) ∧
      (l.foldl (fun s q => s.setQp p q { state := 1 }) u).outer.job = u.outer.job ∧
      ∀ q, u.qp p q = { state := 1 } ∨ q ∈ l → (l.foldl (fun s q => s.setQp p q { state := 1 }) u).qp p q = { state := 1 } := by
  induction l generalizing u with
  | nil => exact ⟨.refl .., rfl, fun q h => h.resolve_right List.not_mem_nil⟩
  | cons e l ih =>
    obtain ⟨hw, hjob, hqp⟩ := ih (u.setQp p e { state := 1 })
    refine ⟨(State.setQp_within ..).trans hw, hjob, fun q h => hqp q ?_⟩
    by_cases hq : q = e
    · subst hq
      exact .inl (State.qp_setQp_same ..)
    · rw [State.qp_setQp_ne _ _ (by omega)]
      exact h.imp_right fun hin => (List.mem_cons.1 hin).resolve_left hq

/-- The state of a member whose job starts, before its queue pairs. -/
def State.enlisted (s : State) (p : Nat) (j : JobSec) : State :=
  let u := s.setAll [(fOutJobStatus_job_id, j.jobId), (fOutJobStatus_member, j.member), (fOutJobStatus_partition, p),
    (fOutJobStatus_role, j.role), (fOutJobStatus_state, 2), (fOutJobInc_incarnation, 0)]
  u.setJob { sequence := u.outer.job.sequence, heard := j.neighbourMembers.map fun n => (n, u.jobStitch) }

theorem State.enlisted_spec (s : State) (p : Nat) (j : JobSec) : (s.enlisted p j).get fOutJobStatus_state = 2 ∧
    (s.enlisted p j).get fOutJobInc_incarnation = 0 ∧ (s.enlisted p j).outer.job.incs = [] ∧ Within [.regs, .outer] s (s.enlisted p j) := by
  have hget (g : Fld) : (s.enlisted p j).get g = (s.setAll [(fOutJobStatus_job_id, j.jobId), (fOutJobStatus_member, j.member),
    (fOutJobStatus_partition, p), (fOutJobStatus_role, j.role), (fOutJobStatus_state, 2), (fOutJobInc_incarnation, 0)]).get g := rfl
  refine ⟨?_, ?_, rfl, ((State.setAll_within ..).mono (by simp)).trans ((State.setJob_within ..).mono (by simp))⟩
  · rw [hget]
    simp [State.setAll, State.get_set, Fld.key, fOutJobStatus_state, fOutJobInc_incarnation, RegKind.addr, RegKind.base, kOutJobInc,
      kOutJobStatus]
  · rw [hget]
    simp [State.setAll]

theorem State.startJob_worker (s : State) (p : Nat) {j : JobSec} (hcount : 1 < j.memberCount) (hrole : j.role = 2) :
    s.startJob p j = (List.range j.qps.length).foldl (fun s q => s.setQp p q { state := 1 }) (s.enlisted p j) :=
  (if_neg (by omega)).trans (if_neg (by rw [hrole]; decide))

/-- Settles O38: each step of an epoch at its stitch, heartbeats at theirs, and a member that joins takes its incarnation and
renews its queue pairs. -/
theorem jobFrequencyAndMembership : Obligations.JobFrequencyAndMembership := by
  unfold Obligations.JobFrequencyAndMembership
  refine ⟨⟨?_, ?_, ?_, ?_, ?_, ?_⟩, ?_, ?_, ?_, ?_, ?_, ?_, ?_, ?_, ?_, ?_, ?_, ?_, ?_⟩
  · intro s p j a hjob hmember hrole hparent hchildren hreported
    obtain ⟨f, hout, htype, hmhz, hdone, hw⟩ := State.sendReport_spec hjob hmember hparent hchildren
    exact ⟨fun hstitch => ⟨_, f, execEpochReport_now hjob hmember hrole hchildren hreported hstitch, hout, htype, hmhz, hdone, hw⟩,
      fun hstitch => ⟨_, f, execReportDeadline_now hjob hmember hrole hreported hstitch, hout, htype, hmhz, hdone, hw⟩⟩
  · exact exec_epoch_off
  · exact fun s p j a hjob hmember hrole hchildren hstitch => execFreqDecision_spec hjob hmember hrole hchildren hstitch
  · exact fun s j m v e hm hr => State.lowestReport_one hm hr
  · intro s mhz hmember hstitch hfreq
    have hw := ((s.set fOutJobFreq_locked_mhz mhz).setJob { s.outer.job with freq := none }).updateThrottle_keeps.same
      (c := .outer) (by decide)
    refine ⟨_, execFreqApply_locks hmember hstitch hfreq, ?_, ?_, ?_⟩
    · rw [State.get_updateThrottle (by decide)]
      exact State.get_set_same s fOutJobFreq_locked_mhz mhz
    · rw [hw]
      rfl
    · rw [State.get_updateThrottle (by decide)]
      exact State.get_set_ne s mhz (by decide)
  · exact fun s hmember hstitch hfreq => execFreqApply_misses hmember hstitch hfreq
  · intro s p j a hjob hparent hchildren hmember hstitch
    have hne : s.get fOutJobStatus_state ≠ 3 := by rw [((State.isMember_iff s).1 hmember).2]; decide
    refine ⟨_, _, execHeartbeatSend_now hjob hparent hchildren hmember hstitch, State.laceTo_out hjob hne a _, ?_, ?_, ?_,
      State.laceTo_within ..⟩
    all_goals rw [State.ownFrame_of_job hjob]
    rfl
  · exact fun s h => execHeartbeatSend_off h
  · exact fun s p m last j hjob hmember hm hheard => ⟨fun hlast => execHeartbeatLoss_lost hjob hmember hm hheard hlast,
      fun hlast => execHeartbeatLoss_heard hjob hheard hlast⟩
  · exact fun s p m j hjob hm => execHeartbeatLoss_stranger hjob hm
  · exact fun s m hjob => execHeartbeatLoss_none hjob
  · exact fun s p stitch j a f _ hparent _ => ⟨_, rfl, s.memberDown_parent p stitch f hparent⟩
  · exact fun s p j a hjob hstate hpart haligned hsent hrole hparent =>
      execSendJoin_spec hjob hstate hpart haligned hsent hrole hparent
  · exact fun s p j hjob h => execSendJoin_off hjob h
  · exact fun s p m stitch j a hjob hchildren hstate htable => State.takeJoin_spec hjob hchildren hstate htable
  · intro s p eff inc j hjob hinc heff
    obtain ⟨u, hu⟩ : ∃ u, u = s.setJob { s.outer.job with newIncs := [] } := ⟨_, rfl⟩
    have hexec := execMemberEffective_own hjob hinc heff
    have huw : Within [.outer] s u := hu ▸ State.setJob_within ..
    have hnew : u.outer.job.newIncs = [] := by rw [hu]; rfl
    rw [← hu, State.takeMember_own] at hexec
    obtain ⟨hvw, hjobv, hqp⟩ := u.renewed_spec p j j.member inc
    generalize u.renewed p j j.member inc = v at hexec hvw hjobv hqp
    obtain ⟨hget, hstate, hw, hkept⟩ := v.inForce_spec j inc
    have hregs : v.regs = s.regs := (hvw.2 .regs (by simp)).trans (huw.2 .regs (by simp))
    refine ⟨_, hexec, hget, hstate, ?_, ?_, fun q hq => hqp q hq,
      ((huw.trans hvw).mono (by simp)).trans hw, (RegsKept.of_eq hregs).trans hkept⟩
    · show mapGet 0 v.outer.job.incs j.member = inc
      rw [hjobv]
      exact mapGet_mapSet_same ..
    · show v.outer.job.newIncs = []
      rw [hjobv]
      exact hnew
  · intro s p j hcount hrole
    obtain ⟨hstate, hinc, hincs, hw⟩ := s.enlisted_spec p j
    refine ⟨_, s.startJob_worker p hcount hrole, ?_⟩
    generalize s.enlisted p j = u at hstate hinc hincs hw
    obtain ⟨hqw, hjob, hqp⟩ := State.freshQps_spec p (List.range j.qps.length) u
    have hregs := hqw.2 .regs (by simp)
    exact ⟨(State.get_of_regs hregs _).trans hstate, (State.get_of_regs hregs _).trans hinc,
      fun q hq => hqp q (.inr (List.mem_range.2 hq)), (congrArg JobSt.incs hjob).trans hincs, hw.trans (hqw.mono (by simp))⟩
  · exact fun s p j hjob h => execMemberEffective_none hjob h
  · intro s p j x hjob hrole hx hdue
    obtain ⟨u, hexec, hfailures, -, -, -, -, hvalid, -⟩ := execJobDeadline_spec hjob hrole hx hdue
    exact ⟨u, hexec, hfailures, hvalid⟩

end Sys2Proof.Machine

/-! SUPPORT. Freezing, saving, restoring and thawing a partition (R381 to R389). -/

namespace Sys2Proof.Machine

set_option Elab.async false

/-! ### The phase of a migration -/

/-- A request of a migration is taken. -/
def State.pmEnter (s : State) (p phase : Nat) : State := (s.set (fPmStatus_error p) 0).setPhase p phase

theorem State.get_setPhase_phase (s : State) (p phase : Nat) : (s.setPhase p phase).get (fPmStatus_phase p) = phase % 2 ^ 3 := by
  simp [State.setPhase, State.setAll, State.get_set, Fld.key, fPmStatus_phase, fPmStatus_stitch]

theorem State.setPhase_within (s : State) (p phase : Nat) : Within [.regs] s (s.setPhase p phase) := State.setAll_within ..

theorem State.pmEnter_spec (s : State) (p phase : Nat) : (s.pmEnter p phase).get (fPmStatus_phase p) = phase % 2 ^ 3 ∧
    (s.pmEnter p phase).get (fPmStatus_error p) = 0 ∧ Within [.regs] s (s.pmEnter p phase) ∧
    RegsKept [fPmStatus_phase p, fPmStatus_error p, fPmStatus_stitch p] s (s.pmEnter p phase) := by
  refine ⟨State.get_setPhase_phase .., ?_, (State.set_within ..).trans (State.setPhase_within ..),
    ((RegsKept.refl _ s).set 0 (by simp)).setAll _ (by simp)⟩
  simp [State.pmEnter, State.setPhase, State.setAll, State.get_set, Fld.key, fPmStatus_phase, fPmStatus_stitch, fPmStatus_error]

theorem State.partSt_setPartSt_same (s : State) (p : Nat) (x : PartSt) : (s.setPartSt p x).partSt p = x := mapGet_mapSet_same ..

theorem State.partSt_setPartSt_ne (s : State) {p q : Nat} (x : PartSt) (h : q ≠ p) : (s.setPartSt p x).partSt q = s.partSt q :=
  mapGet_mapSet_ne _ _ _ h

theorem State.setPartSt_within (s : State) (p : Nat) (x : PartSt) : Within [.part] s (s.setPartSt p x) :=
  (Within.refl [.part] s).setPart _

theorem State.partSt_of_part {s t : State} (h : t.part = s.part) (p : Nat) : t.partSt p = s.partSt p := by
  rw [State.partSt, State.partSt, h]

/-! ### The control register -/

section Control

variable (s : State) (p : Nat)

theorem State.pmControl_freeze : s.pmControl p 1 = s.freezeRequest p := rfl

theorem State.pmControl_thaw : s.pmControl p 2 = s.thawRequest p := rfl

theorem State.pmControl_restore : s.pmControl p 4 = s.restoreRequest p := rfl

variable {s p} {l : PartLast}

/-- A freeze that is taken waits for its tick. -/
def State.freezing (s : State) (p : Nat) : State :=
  (s.pmEnter p 1).setPartSt p { (s.pmEnter p 1).partSt p with freezeAt := some (s.pmEnter p 1).clock.now }

theorem State.freezeRequest_taken (hstate : s.partState p = 2) (hphase : s.get (fPmStatus_phase p) = 0) (hl : s.lastOf p = some l)
    (hcount : l.job.memberCount ≤ 1) (hcov : covered (s.diePages p) (s.saveBase p) (s.saveLen p) = true) :
    s.freezeRequest p = s.freezing p := by
  have hjob : ¬1 < l.job.memberCount := by omega
  rw [State.freezeRequest]
  exact if_pos (by simp [hstate, hphase, hl, hcov, hjob])

theorem State.freezeRequest_refused (hl : s.lastOf p = some l) (hcov : covered (s.diePages p) (s.saveBase p) (s.saveLen p) = true)
    (hcount : l.job.memberCount ≤ 1) (hbad : s.partState p ≠ 2 ∨ s.get (fPmStatus_phase p) ≠ 0) :
    s.freezeRequest p = s.set (fPmStatus_error p) 1 := by
  have hjob : ¬1 < l.job.memberCount := by omega
  have hfail : (decide (s.partState p ≠ 2) || decide (s.get (fPmStatus_phase p) ≠ 0) || (s.lastOf p).isNone) = true := by
    obtain h | h := hbad <;> simp [h]
  rw [State.freezeRequest, hfail, hcov, hl]
  simp [hjob, State.pick, State.pmRefuse]

theorem State.freezeRequest_of_job (hl : s.lastOf p = some l) (hcov : covered (s.diePages p) (s.saveBase p) (s.saveLen p) = true)
    (hcount : 1 < l.job.memberCount) (hstate : s.partState p = 2) (hphase : s.get (fPmStatus_phase p) = 0) :
    s.freezeRequest p = s.set (fPmStatus_error p) 2 := by
  simp [State.freezeRequest, hstate, hphase, hcov, hl, hcount, State.pick, State.pmRefuse]

/-- A thaw that is taken waits for its tick. -/
def State.thawing (s : State) (p : Nat) : State :=
  (s.pmEnter p 5).setPartSt p { (s.pmEnter p 5).partSt p with thawAt := some (s.pmEnter p 5).clock.now }

theorem State.thawRequest_taken (hstate : s.partState p = 3) (hphase : s.get (fPmStatus_phase p) = 3) :
    s.thawRequest p = s.thawing p := if_neg (by simp [hstate, hphase])

theorem State.thawRequest_refused (hbad : s.partState p ≠ 3 ∨ s.get (fPmStatus_phase p) ≠ 3) :
    s.thawRequest p = s.set (fPmStatus_error p) 1 := if_pos (by simpa using hbad)

theorem State.restoreRequest_refused (hbad : s.partState p ≠ 3 ∨ s.get (fPmStatus_phase p) ≠ 3) :
    s.restoreRequest p = s.set (fPmStatus_error p) 1 := if_pos (by simpa using hbad)

theorem State.restoreRequest_checked (hstate : s.partState p = 3) (hphase : s.get (fPmStatus_phase p) = 3)
    (hbusy : s.areaBusy p = false) : s.restoreRequest p =
      if s.restoreError p ≠ 0 then s.set (fPmStatus_error p) (s.restoreError p) else s.pmEnter p 4 :=
  (if_neg (by simp [hstate, hphase])).trans (if_neg (by simp [hbusy]))

end Control

/-! ### The end of a save -/

theorem execSaveDone_off {s : State} {p : PIdx} (b : Bool)
    (h : s.get (fPmStatus_phase p) ≠ 2 ∨ (s.partSt p).freezeAt.isSome = true) : exec (.saveDone p b) s = .next s :=
  if_pos (by simpa using h)

section Save

variable {s : State} {p : PIdx} (hphase : s.get (fPmStatus_phase p) = 2) (hfreeze : (s.partSt p).freezeAt = none)
include hphase hfreeze

theorem execSaveDone_fault : exec (.saveDone p true) s = .next (s.areaFault p) :=
  (if_neg (by simp [hphase, hfreeze])).trans (if_pos rfl)

theorem execSaveDone_open (h : ∃ x ∈ s.coh.txs, Purpose.save p ∈ x.wants) : exec (.saveDone p false) s = .next s :=
  (if_neg (by simp [hphase, hfreeze])).trans ((if_neg (by decide)).trans (if_pos (by simpa [State.saveOpen] using h)))

/-- The state after the dirty lines of partition `p` have been written back. -/
def State.cleaned (s : State) (p : Nat) : State := (s.coh.l3.filter fun l => l.owner == p).foldl State.cleanL3 s

theorem execSaveDone_ends (h : ∀ x ∈ s.coh.txs, Purpose.save p ∉ x.wants) :
    exec (.saveDone p false) s = .next (((s.cleaned p).unpinAll p).setPhase p 3) := by
  have hopen : s.saveOpen p = false := by simpa [State.saveOpen] using h
  exact (if_neg (by simp [hphase, hfreeze])).trans ((if_neg (by decide)).trans (if_neg (by simp [hopen])))

end Save

theorem State.unpinAll_pins (s : State) (p : Nat) : ∀ l ∈ (s.unpinAll p).coh.l3, l.owner = p → l.pinned = false := by
  intro l hl howner
  obtain ⟨x, -, rfl⟩ := List.mem_map.1 hl
  by_cases hx : x.owner = p
  · rw [if_pos hx]
    rfl
  · rw [if_neg hx] at howner
    exact absurd howner hx

/-! ### The end of a restore -/

theorem execRestoreDone_off {s : State} {p : PIdx} (b : Bool) (h : s.get (fPmStatus_phase p) ≠ 4 ∨ s.areaBusy p = true) :
    exec (.restoreDone p b) s = .next s :=
  if_pos (by simpa using h)

section Restore

variable {s : State} {p : PIdx} (hphase : s.get (fPmStatus_phase p) = 4) (hbusy : s.areaBusy p = false)
include hphase hbusy

theorem execRestoreDone_fault : exec (.restoreDone p true) s = .next (s.areaFault p) :=
  (if_neg (by simp [hphase, hbusy])).trans (if_pos rfl)

theorem execRestoreDone_refused (h : s.restoreError p ≠ 0) :
    exec (.restoreDone p false) s = .next ((s.set (fPmStatus_error p) (s.restoreError p)).setPhase p 3) :=
  (if_neg (by simp [hphase, hbusy])).trans ((if_neg (by decide)).trans (if_pos h))

theorem execRestoreDone_ends (h : s.restoreError p = 0) : exec (.restoreDone p false) s = .next ((s.restoreImage p).setPhase p 3) :=
  (if_neg (by simp [hphase, hbusy])).trans ((if_neg (by decide)).trans (if_neg (by simp [h])))

end Restore

theorem State.setPartSt_regsKept {fs : List Fld} {s u : State} (h : RegsKept fs s u) (p : Nat) (x : PartSt) :
    RegsKept fs s (u.setPartSt p x) := h.trans (.of_eq rfl)

/-- Settles O39: a request that passes its checks enters its phase (`State.pmEnter_spec`); a refused one sets the error. -/
theorem migration : Obligations.Migration := by
  unfold Obligations.Migration
  refine ⟨?_, ?_, ?_, ?_, ?_, ?_, ?_, ?_, ?_⟩
  · intro s p v l hv hstate hphase hl hcount hcov
    obtain ⟨hget, herr, hw, hkept⟩ := s.pmEnter_spec p 1
    refine ⟨s.freezing p, congrArg Host.Outcome.next ?_, hget, herr, ?_, (hw.mono (by simp)).trans ((State.setPartSt_within ..).mono (by simp)),
      State.setPartSt_regsKept hkept _ _⟩
    · rw [hv, State.pmControl_freeze, State.freezeRequest_taken hstate hphase hl hcount hcov]
    · rw [State.freezing, State.partSt_setPartSt_same, hw.2 .clock (by simp)]
  · intro s p v l hv hl hcov
    refine ⟨fun hcount hbad => congrArg Host.Outcome.next ?_, fun hcount hstate hphase => congrArg Host.Outcome.next ?_⟩
    · rw [hv, State.pmControl_freeze, State.freezeRequest_refused hl hcov hcount hbad]
    · rw [hv, State.pmControl_freeze, State.freezeRequest_of_job hl hcov hcount hstate hphase]
  · intro s p v hv hstate hphase
    obtain ⟨hget, herr, hw, hkept⟩ := s.pmEnter_spec p 5
    refine ⟨s.thawing p, congrArg Host.Outcome.next ?_, hget, herr, ?_, (hw.mono (by simp)).trans ((State.setPartSt_within ..).mono (by simp)),
      State.setPartSt_regsKept hkept _ _⟩
    · rw [hv, State.pmControl_thaw, State.thawRequest_taken hstate hphase]
    · rw [State.thawing, State.partSt_setPartSt_same, hw.2 .clock (by simp)]
  · intro s p v w hv hw hbad
    refine ⟨congrArg Host.Outcome.next ?_, congrArg Host.Outcome.next ?_⟩
    · rw [hv, State.pmControl_thaw, State.thawRequest_refused hbad]
    · rw [hw, State.pmControl_restore, State.restoreRequest_refused hbad]
  · intro s p v hv hstate hphase hbusy
    have hreq := State.restoreRequest_checked hstate hphase hbusy
    refine ⟨fun hok => ⟨s.pmEnter p 4, congrArg Host.Outcome.next ?_, s.pmEnter_spec p 4⟩, fun hbad => congrArg Host.Outcome.next ?_⟩
    · rw [hv, State.pmControl_restore, hreq, if_neg (by simp [hok])]
    · rw [hv, State.pmControl_restore, hreq, if_pos hbad]
  · intro s p hphase hfreeze
    refine ⟨execSaveDone_fault hphase hfreeze, execSaveDone_open hphase hfreeze, fun h =>
      ⟨_, execSaveDone_ends hphase hfreeze h, State.get_setPhase_phase .., ?_⟩⟩
    rw [(State.setPhase_within ..).2 .coh (by simp)]
    exact State.unpinAll_pins _ _
  · exact fun s p b h => execSaveDone_off b h
  · exact fun s p hphase hbusy => ⟨execRestoreDone_fault hphase hbusy, execRestoreDone_refused hphase hbusy,
      execRestoreDone_ends hphase hbusy⟩
  · exact fun s p b h => execRestoreDone_off b h

end Sys2Proof.Machine

/-! SUPPORT. Rings that are resumed, teardowns and drains (R316, R377 to R380). -/

namespace Sys2Proof.Machine

set_option Elab.async false

/-! ### Rings that are resumed -/

theorem State.resumeSq_taken {s : State} {p k : Nat} (hstate : s.get (fPartSqStatus_state p k) = 2) :
    k ∈ ((s.resumeSq p k).partSt p).resumed ∧ (∀ q, q ≠ p → (s.resumeSq p k).partSt q = s.partSt q) ∧
      Within [.part] s (s.resumeSq p k) := by
  by_cases hin : k ∈ (s.partSt p).resumed
  · have hsame : s.resumeSq p k = s := if_neg (by simp [hin])
    rw [hsame]
    exact ⟨hin, fun _ _ => rfl, .refl ..⟩
  · have hadd : s.resumeSq p k = s.setPartSt p { s.partSt p with resumed := (s.partSt p).resumed ++ [k] } :=
      if_pos (by simp [hstate, hin])
    rw [hadd, State.partSt_setPartSt_same]
    exact ⟨List.mem_append_right _ (List.mem_singleton_self _), fun q hq => State.partSt_setPartSt_ne _ _ hq,
      State.setPartSt_within ..⟩

theorem execSqResume_of_part {s : State} {n k : Fin 16} {p : Nat} (hp : s.partOfFn (n.val + 1) = some p) :
    exec (.sqResume n k) s = .next (s.resumeSq p k) := by
  show execSqResume n k s = _
  rw [execSqResume, hp]

theorem execSqResume_off {s : State} {n k : Fin 16}
    (h : ∀ p, s.partOfFn (n.val + 1) = some p → s.get (fPartSqStatus_state p k) ≠ 2) : exec (.sqResume n k) s = .next s := by
  cases hp : s.partOfFn (n.val + 1) with
  | none =>
    show execSqResume n k s = _
    rw [execSqResume, hp]
  | some p =>
    rw [execSqResume_of_part hp]
    exact congrArg Host.Outcome.next (if_neg (by simp [h p hp]))

/-! ### The end of a drain -/

/-- Work of the old generation is gone, and what the partition held returns. -/
def State.drained (s : State) (p : Nat) : State :=
  let u := ((s.dropOld p).resetEyelets p).resetPartFields p
  let u := (u.event 0x1D 0x0B (u.generation p) 0 (some p)).partEvent p (fPartEvent_torn_down p)
  if (s.partSt p).removing.isSome || !u.defined p then u.forgetPart p else u

theorem State.drained_keeps (s : State) (p : Nat) : Keeps 0x405A25 (s.dropOld p) (s.drained p) := by
  obtain ⟨u, hu⟩ : ∃ u, u = ((s.dropOld p).resetEyelets p).resetPartFields p := ⟨_, rfl⟩
  have huk : Keeps 0x405A25 (s.dropOld p) u :=
    hu ▸ (State.resetPartFields_keeps _ p).after ((State.resetEyelets_keeps _ p).mono (by decide)) (by decide)
  obtain ⟨v, hv⟩ : ∃ v, v = (u.event 0x1D 0x0B (u.generation p) 0 (some p)).partEvent p (fPartEvent_torn_down p) := ⟨_, rfl⟩
  have hvk : Keeps 0x405A25 (s.dropOld p) v :=
    hv ▸ (State.partEvent_keeps ..).after ((State.event_keeps ..).after huk (by decide)) (by decide)
  rw [State.drained, ← hu, ← hv]
  exact .ite (fun _ => (State.forgetPart_keeps v p).after hvk (by decide)) fun _ => hvk

theorem State.defined_of_dev {s t : State} (h : t.dev = s.dev) (p : Nat) : t.defined p = s.defined p := by
  rw [State.defined, h]
  rfl

section Drain

variable {s : State} {p : PIdx}

/-- The state in which a drain has ended. -/
def State.drainEnded (s : State) (p : Nat) : State :=
  ((s.drained p).setPartSt p { zeroing := (s.drained p).defined p && (s.partSt p).zeroing }).set (fPartStatus_state p)
    (if ((s.drained p).setPartSt p { zeroing := (s.drained p).defined p && (s.partSt p).zeroing }).defined p then 1 else 0)

theorem execDrainEnd_ends (hstate : s.partState p = 4) (hleft : s.recordLeft p = false)
    (h : 2 ≤ (s.partSt p).drainTicks ∨ (s.partSt p).drainTicks = 1 ∧ ∀ x ∈ s.coh.txs, x.part = p.val → x.gen = s.generation p) :
    exec (.drainEnd p) s = .next (s.drainEnded p) := by
  refine if_neg ?_
  obtain h | ⟨hone, hold⟩ := h
  · have hne : (s.partSt p).drainTicks ≠ 0 := by omega
    simp [hstate, hleft, hne, Nat.not_lt.2 h]
  · have hbusy : (s.coh.txs.any fun y => y.part == p.val && y.gen != s.generation p) = false := by simpa using hold
    simp [hstate, hleft, hone, hbusy]

theorem State.drainEnded_state (s : State) (p : Nat) : (s.drainEnded p).partState p = if s.defined p then 1 else 0 := by
  have hdef : ((s.drained p).setPartSt p { zeroing := (s.drained p).defined p && (s.partSt p).zeroing }).defined p = s.defined p :=
    (State.defined_of_dev rfl p).trans ((State.defined_of_dev ((s.drained_keeps p).same (c := .dev) (by decide)) p).trans
      (State.defined_of_dev ((s.dropOld_keeps p).same (c := .dev) (by decide)) p))
  rw [State.drainEnded, hdef, State.partState, State.get_set_same]
  split <;> rfl

theorem State.drainEnded_spec (s : State) (p : Nat) : ((s.drainEnded p).partSt p).drainTicks = 0 ∧
    (∀ x ∈ (s.drainEnded p).coh.txs, x.part = p → x.gen = s.generation p) ∧ ∀ r ∈ (s.drainEnded p).part.records, r.part ≠ p := by
  have hcoh : (s.drained p).coh = (s.dropOld p).coh := (s.drained_keeps p).same (c := .coh) (by decide)
  have hpart : (s.drained p).part = (s.dropOld p).part := (s.drained_keeps p).same (c := .part) (by decide)
  refine ⟨congrArg PartSt.drainTicks (State.partSt_setPartSt_same (s.drained p) p _), fun x hx hp => ?_, fun r hr => ?_⟩
  · have hx : x ∈ (s.dropOld p).coh.txs := hcoh ▸ hx
    obtain ⟨-, hold⟩ := List.mem_filter.1 hx
    simpa [hp] using hold
  · have hr : r ∈ (s.dropOld p).part.records := hpart ▸ hr
    obtain ⟨-, hout⟩ := List.mem_filter.1 hr
    simpa using hout

theorem execDrainEnd_off (h : s.partState p ≠ 4 ∨ (s.partSt p).drainTicks = 0 ∨ s.recordLeft p = true ∨
      ((s.partSt p).drainTicks = 1 ∧ ∃ x ∈ s.coh.txs, x.part = p.val ∧ x.gen ≠ s.generation p)) : exec (.drainEnd p) s = .next s := by
  refine if_pos ?_
  obtain h | h | h | ⟨hone, hbusy⟩ := h
  · simp [h]
  · simp [h]
  · simp [h]
  · simpa [hone] using Or.inr hbusy

end Drain

/-! ### The start of a teardown -/

/-- A teardown begins: the partition drains under a new generation, and its commits are dropped. -/
def State.tearing (s : State) (p cause : Nat) : State :=
  let u := s.setAll [(fPartStatus_state p, 4), (fPartStatus_generation p, s.generation p + 1)]
  (u.event 0x1D 0x0A (u.generation p) cause (some p)).dropCommit (18 + p)

/-- A migration of a partition that is torn down ends (R389). -/
def State.leavePhase (s : State) (p : Nat) : State :=
  let ph := s.get (fPmStatus_phase p)
  let u := if ph = 2 || ph = 4 then s.set (fPmStatus_error p) 4 else s
  if ph = 0 then u else u.setPhase p 0

def State.resetDrain (s : State) (p : Nat) : State :=
  s.setPartSt p { s.partSt p with drainTicks := 0, freezeAt := none, thawAt := none }

/-- The status registers of a partition's view lie apart from the events and from its commits (R19). -/
theorem Fld.partStatus_key (p : Nat) : ((fPartStatus_state p).offEvents = true ∧ (fPartStatus_generation p).offEvents = true) ∧
    ∀ f ∈ [fPartCfgStatus_pending p, fPartCfgStatus_pending_group p], (fPartStatus_state p).key ≠ f.key ∧
      (fPartStatus_generation p).key ≠ f.key := by
  simp only [Fld.offEvents_iff, List.forall_mem_cons, Fld.key, fPartStatus_state, fPartStatus_generation, fPartCfgStatus_pending,
    fPartCfgStatus_pending_group, RegKind.addr, RegKind.base, kPartStatus, kPartCfgStatus, List.not_mem_nil, false_implies,
    implies_true, and_true, fFltEvHead_count, fFltEvStatus_full, fFltEvStatus_dropped, kFltEvHead, kFltEvStatus]
  omega

theorem Fld.role_ne_partCfg (p : Nat) : ∀ f ∈ [fPartCfgStatus_pending p, fPartCfgStatus_pending_group p],
    fOutJobStatus_role.key ≠ f.key := by
  simp only [List.forall_mem_cons, Fld.key, fOutJobStatus_role, fPartCfgStatus_pending, fPartCfgStatus_pending_group, RegKind.addr,
    RegKind.base, kOutJobStatus, kPartCfgStatus, List.not_mem_nil, false_implies, implies_true, and_true]
  omega

theorem Fld.role_ne_partStatus (p : Nat) : fOutJobStatus_role.key ≠ (fPartStatus_state p).key ∧
    fOutJobStatus_role.key ≠ (fPartStatus_generation p).key := by
  simp only [Fld.key, fOutJobStatus_role, fPartStatus_state, fPartStatus_generation, RegKind.addr, RegKind.base, kOutJobStatus,
    kPartStatus]
  omega

/-- R62: the commits of a partition's group are discarded. -/
theorem State.dropCommit_part (s : State) {p : Nat} (hp : p < 16) : (∀ c ∈ (s.dropCommit (18 + p)).cfg.accepted, c.group ≠ 18 + p) ∧
    Within [.regs, .cfg] s (s.dropCommit (18 + p)) ∧
    RegsKept [fPartCfgStatus_pending p, fPartCfgStatus_pending_group p] s (s.dropCommit (18 + p)) := by
  have hindex : 18 + p - 18 = p := by omega
  have hkept (c : CfgSt) : RegsKept [fPartCfgStatus_pending p, fPartCfgStatus_pending_group p] s { s with cfg := c } := .of_eq rfl
  obtain ⟨c, hc, hdrop⟩ : ∃ c : CfgSt, c.accepted = s.cfg.accepted.filter (fun c => c.group != 18 + p) ∧ s.dropCommit (18 + p) =
      if !(s.cfg.accepted.any fun c => c.group == 18 + p) then { s with cfg := c }
      else if 18 + p = 17 then { s with cfg := c }.setAll [(fCfgStatus_pending, 0), (fCfgStatus_pending_group, 0)]
      else if 18 ≤ 18 + p && 18 + p < 34 then
        { s with cfg := c }.setAll [(fPartCfgStatus_pending (18 + p - 18), 0), (fPartCfgStatus_pending_group (18 + p - 18), 0)]
      else { s with cfg := c } := by
    refine ⟨_, ?_, rfl⟩
    rfl
  obtain ⟨u, hu⟩ : ∃ u, u = { s with cfg := c } := ⟨_, rfl⟩
  have haccepted : ∀ c ∈ u.cfg.accepted, c.group ≠ 18 + p := fun e he => by
    have he : e ∈ s.cfg.accepted.filter fun c => c.group != 18 + p := by
      rw [hu] at he
      exact hc ▸ he
    simpa using (List.mem_filter.1 he).2
  have huw : Within [.regs, .cfg] s u := hu ▸ (Within.refl [.regs, .cfg] s).setCfg _
  have huk : RegsKept [fPartCfgStatus_pending p, fPartCfgStatus_pending_group p] s u := hu ▸ hkept _
  rw [hdrop, ← hu]
  split
  · exact ⟨haccepted, huw, huk⟩
  · rw [if_neg (by omega), if_pos (by simp; omega), hindex]
    refine ⟨fun e he => haccepted e ?_, huw.trans ((State.setAll_within ..).mono (by simp)), huk.setAll _ (by simp)⟩
    rwa [(State.setAll_within u _).2 .cfg (by simp)] at he

theorem State.tearing_spec (s : State) {p : Nat} (cause : Nat) (hp : p < 16) :
    (s.tearing p cause).partState p = 4 ∧
      (s.tearing p cause).generation p = (s.generation p + 1) % 2 ^ (fPartStatus_generation p).width ∧
      (s.tearing p cause).get fOutJobStatus_role = s.get fOutJobStatus_role ∧
      (∀ c ∈ (s.tearing p cause).cfg.accepted, c.group ≠ 18 + p) ∧ Within [.regs, .cfg, .uci, .flt, .out] s (s.tearing p cause) := by
  obtain ⟨u, hu⟩ : ∃ u, u = s.setAll [(fPartStatus_state p, 4), (fPartStatus_generation p, s.generation p + 1)] := ⟨_, rfl⟩
  obtain ⟨hdrop, hw, hkept⟩ := (u.event 0x1D 0x0A (u.generation p) cause (some p)).dropCommit_part hp
  obtain ⟨⟨hstate, hgen⟩, hne⟩ := Fld.partStatus_key p
  have htearing : s.tearing p cause = (u.event 0x1D 0x0A (u.generation p) cause (some p)).dropCommit (18 + p) := by rw [hu]; rfl
  rw [htearing]
  refine ⟨?_, ?_, ?_, hdrop, ?_⟩
  · rw [State.partState, hkept.get fun f hf => (hne f hf).1, State.get_event hstate, hu]
    simp [State.setAll, State.get_set, Fld.key, fPartStatus_state, fPartStatus_generation]
  · rw [State.generation, hkept.get fun f hf => (hne f hf).2, State.get_event hgen, hu]
    simp [State.setAll]
  · rw [hkept.get (Fld.role_ne_partCfg p), State.get_event (by decide), hu, State.setAll]
    exact (State.get_set_ne _ _ (Fld.role_ne_partStatus p).2).trans (State.get_set_ne _ _ (Fld.role_ne_partStatus p).1)
  · have huw : Within [.regs] s u := hu ▸ State.setAll_within ..
    exact (huw.mono (by simp)).trans (((State.event_within ..).mono (by decide)).trans (hw.mono (by simp)))

theorem State.dropFrames_regs (s : State) (p : Nat) : (s.dropFrames p).regs = s.regs := rfl

/-- The teardown by its stages (R377, R380). -/
theorem State.teardown_stages (s : State) {p : Nat} (cause : Nat) (h : s.partState p ≠ 0 ∧ s.partState p ≠ 4) :
    ∃ (tearing tasks qps frames left ended : State) (job : JobSt) (drain : PartSt), tearing = s.tearing p cause ∧
      tasks = (tearing.tile.tasks.filter fun k => k.part == p).foldl State.stopTask tearing ∧
      qps = (List.range (((tasks.lastOf p).map fun l => l.job.qps.length).getD 0)).foldl (fun s q =>
        if (s.qp p q).state = 0 then s else s.qpError p q 4) tasks ∧
      frames = qps.dropFrames p ∧
      (left = if frames.get fOutJobStatus_role ≠ 0 && frames.get fOutJobStatus_partition = p && frames.get fOutJobStatus_state ≠ 3 then
        (frames.sendDown.set fOutJobStatus_state 1).setJob { job with joinSent := false } else frames) ∧
      ended = (left.unpinAll p).leavePhase p ∧ drain = ended.partSt p ∧
      s.teardown p cause = ended.setPartSt p { drain with drainTicks := 0, freezeAt := none, thawAt := none } := by
  rw [State.teardown]
  extract_lets s1 s2 tearing tasks qps frames job left pins phase refused ended drain
  rw [if_neg (by simp [h])]
  exact ⟨tearing, tasks, qps, frames, left, ended, job, drain, rfl, rfl, rfl, rfl, rfl, rfl, rfl, rfl⟩

/-- A partition without tasks, last and job: nothing of its work is left to stop. -/
theorem State.teardown_idle (s : State) {p : Nat} (cause : Nat) (hp : p < 16) (h : s.partState p ≠ 0 ∧ s.partState p ≠ 4)
    (htasks : ∀ k ∈ s.tile.tasks, k.part ≠ p) (hlast : s.lastOf p = none) (hrole : s.get fOutJobStatus_role = 0) :
    s.teardown p cause = ((((s.tearing p cause).dropFrames p).unpinAll p).leavePhase p).resetDrain p := by
  obtain ⟨-, -, hrole', -, hw⟩ := s.tearing_spec cause hp
  obtain ⟨tearing, tasks, qps, frames, left, ended, job, drain, htearing, htasksEq, hqpsEq, hframes, hleft, hended, hdrain, heq⟩ :=
    s.teardown_stages cause h
  rw [← htearing] at hrole' hw ⊢
  have hnone : tearing.tile.tasks.filter (fun k => k.part == p) = [] := by
    rw [(hw.2 .tile (by simp)).2.1]
    exact List.filter_eq_nil_iff.2 fun k hk => by simpa using htasks k hk
  have hrange : List.range (((tearing.lastOf p).map fun l => l.job.qps.length).getD 0) = [] := by
    rw [show tearing.lastOf p = none by rw [State.lastOf, hw.2 .lasts (by simp)]; exact hlast]
    rfl
  rw [hnone, List.foldl_nil] at htasksEq
  rw [htasksEq, hrange, List.foldl_nil] at hqpsEq
  have hframesRole : frames.get fOutJobStatus_role = 0 := by
    rw [hframes, hqpsEq, State.get_of_regs (State.dropFrames_regs ..), hrole', hrole]
  rw [if_neg (by simp [hframesRole])] at hleft
  rw [heq, hdrain, hended, hleft, hframes, hqpsEq]
  rfl

theorem State.teardown_off (s : State) (p cause : Nat) (h : s.partState p = 0 ∨ s.partState p = 4) : s.teardown p cause = s :=
  if_pos (by simpa using h)

theorem State.leavePhase_spec (s : State) (p : Nat) : (s.leavePhase p).get (fPmStatus_phase p) = 0 ∧
    Within [.regs] s (s.leavePhase p) ∧ RegsKept [fPmStatus_error p, fPmStatus_phase p, fPmStatus_stitch p] s (s.leavePhase p) := by
  have hset : Within [.regs] s (if (decide (s.get (fPmStatus_phase p) = 2) || decide (s.get (fPmStatus_phase p) = 4)) = true then
      s.set (fPmStatus_error p) 4 else s) ∧ RegsKept [fPmStatus_error p, fPmStatus_phase p, fPmStatus_stitch p] s
      (if (decide (s.get (fPmStatus_phase p) = 2) || decide (s.get (fPmStatus_phase p) = 4)) = true then
      s.set (fPmStatus_error p) 4 else s) := by
    split
    · exact ⟨State.set_within .., (RegsKept.refl _ s).set 4 (by simp)⟩
    · exact ⟨.refl .., .refl _ _⟩
  by_cases hzero : s.get (fPmStatus_phase p) = 0
  · have hsame : s.leavePhase p = s := (if_pos hzero).trans (if_neg (by simp [hzero]))
    rw [hsame]
    exact ⟨hzero, .refl .., .refl _ _⟩
  · have hleave : s.leavePhase p = (if (decide (s.get (fPmStatus_phase p) = 2) || decide (s.get (fPmStatus_phase p) = 4)) = true then
        s.set (fPmStatus_error p) 4 else s).setPhase p 0 := if_neg hzero
    rw [hleave]
    exact ⟨State.get_setPhase_phase .., hset.1.trans (State.setPhase_within ..), hset.2.setAll _ (by simp)⟩

theorem Fld.partStatus_ne_pm (p : Nat) : ∀ f ∈ [fPmStatus_error p, fPmStatus_phase p, fPmStatus_stitch p], p < 16 →
    (fPartStatus_state p).key ≠ f.key ∧ (fPartStatus_generation p).key ≠ f.key := by
  simp only [List.forall_mem_cons, Fld.key, fPartStatus_state, fPartStatus_generation, fPmStatus_error, fPmStatus_phase,
    fPmStatus_stitch, RegKind.addr, RegKind.base, kPartStatus, kPmStatus, List.not_mem_nil, false_implies, implies_true, and_true]
  omega

/-- R377: what the start of a teardown leaves of an idle partition. -/
theorem State.teardown_spec (s : State) {p : Nat} (cause : Nat) (hp : p < 16) (hstate : s.partState p ∈ [1, 2, 3])
    (htasks : ∀ k ∈ s.tile.tasks, k.part ≠ p) (hlast : s.lastOf p = none) (hrole : s.get fOutJobStatus_role = 0) :
    ∃ u, s.teardown p cause = u ∧ u.partState p = 4 ∧ u.generation p = (s.generation p + 1) % 2 ^ (fPartStatus_generation p).width ∧
      (∀ c ∈ u.cfg.accepted, c.group ≠ 18 + p) ∧ (∀ l ∈ u.coh.l3, l.owner = p → l.pinned = false) ∧ u.get (fPmStatus_phase p) = 0 ∧
      (u.partSt p).drainTicks = 0 ∧ Within [.regs, .cfg, .coh, .uci, .outer, .part, .flt, .out] s u := by
  have hne : s.partState p ≠ 0 ∧ s.partState p ≠ 4 := by
    simp only [List.mem_cons, List.not_mem_nil, or_false] at hstate
    omega
  refine ⟨_, s.teardown_idle cause hp hne htasks hlast hrole, ?_⟩
  obtain ⟨hfour, hgen, -, haccepted, hw⟩ := s.tearing_spec cause hp
  generalize s.tearing p cause = u at hfour hgen haccepted hw
  obtain ⟨v, hv⟩ : ∃ v, v = (u.dropFrames p).unpinAll p := ⟨_, rfl⟩
  have hvw : Within [.outer, .coh] u v :=
    hv ▸ (((Within.refl [.outer, .coh] u).setOuter _).trans (((Within.refl [.outer, .coh] (u.dropFrames p)).setCoh _)))
  have hpins : ∀ l ∈ v.coh.l3, l.owner = p → l.pinned = false := hv ▸ State.unpinAll_pins _ p
  rw [← hv]
  obtain ⟨hphase, hlw, hlk⟩ := v.leavePhase_spec p
  have hregs : v.regs = u.regs := hvw.2 .regs (by simp)
  generalize v.leavePhase p = x at hphase hlw hlk
  have hfields := Fld.partStatus_ne_pm p
  have hget {g : Fld} (hg : ∀ f ∈ [fPmStatus_error p, fPmStatus_phase p, fPmStatus_stitch p], g.key ≠ f.key) :
      (x.resetDrain p).get g = u.get g := (hlk.get hg).trans (State.get_of_regs hregs g)
  refine ⟨(hget fun f hf => (hfields f hf hp).1).trans hfour, (hget fun f hf => (hfields f hf hp).2).trans hgen, ?_, ?_, hphase,
    congrArg PartSt.drainTicks (State.partSt_setPartSt_same x p _), ?_⟩
  · show ∀ c ∈ x.cfg.accepted, c.group ≠ 18 + p
    rw [hlw.2 .cfg (by simp), hvw.2 .cfg (by simp)]
    exact haccepted
  · show ∀ l ∈ x.coh.l3, l.owner = p → l.pinned = false
    rw [hlw.2 .coh (by simp)]
    exact hpins
  · exact ((hw.mono (by simp)).trans (hvw.mono (by simp))).trans ((hlw.mono (by simp)).trans ((State.setPartSt_within ..).mono (by simp)))

theorem execPhaseByteWrite_one {s : State} {p : PIdx} {cq : Fin 16} {index : Nat} {r : RecordSt} (hr : s.part.records = [r])
    (hpart : r.part = p.val) (hcq : r.cq = cq.val) (hindex : r.index = index) (haccepted : r.accepted = true)
    (hphase : r.phase = false) : exec (.phaseByteWrite p cq index) s = .next ((s.setRecords [{ r with phase := true }]).schedWrite p
      (s.cqBase p cq + 64 + index % s.cqEntries p cq * 32 + 31) [BitVec.ofNat 8 ((index / s.cqEntries p cq + 1) % 2)]
      (.recordPhase p cq index)) := by
  have hfind : s.part.records.find? (fun r => r.part == p.val && r.cq == cq.val && r.index == index && r.accepted && !r.phase) = some r := by
    rw [hr]
    exact List.find?_cons_of_pos (by simp [hpart, hcq, hindex, haccepted, hphase])
  show execPhaseByteWrite p cq index s = _
  rw [execPhaseByteWrite, hfind]
  dsimp only
  rw [hr, List.map_singleton, if_pos rfl]
  rfl

/-- Settles O40: a teardown stops the partition's work under a new generation, and its drain ends once that work is gone. -/
theorem partitionEnds : Obligations.PartitionEnds := by
  unfold Obligations.PartitionEnds
  refine ⟨?_, ?_, ?_, ?_, ?_, ?_, ?_, ?_, ?_⟩
  · exact fun s n k p hp hstate => ⟨_, execSqResume_of_part hp, State.resumeSq_taken hstate⟩
  · exact fun s n k h => execSqResume_off h
  · intro s p hstate hticks hleft
    obtain ⟨hdrain, htxs, hrecords⟩ := s.drainEnded_spec p
    have hexec := execDrainEnd_ends hstate hleft (.inl hticks)
    exact ⟨_, hexec, s.drainEnded_state p, hdrain, htxs, hrecords, (execDrainEnd_keeps p s).within hexec⟩
  · exact fun s p hstate hticks hleft hold =>
      ⟨_, execDrainEnd_ends hstate hleft (.inr ⟨hticks, hold⟩), s.drainEnded_state p⟩
  · exact fun s p h => execDrainEnd_off h
  · exact fun s p cause h => s.teardown_off p cause h
  · exact fun s p cause hp hstate htasks hlast hrole => s.teardown_spec cause hp hstate htasks hlast hrole
  · intro s id endNs k hk hover
    show execStepEnd id endNs s = _
    rw [execStepEnd, hk]
    exact if_pos hover
  · exact fun s p cq index r hr hpart hcq hindex haccepted hphase =>
      execPhaseByteWrite_one hr hpart hcq hindex haccepted hphase

end Sys2Proof.Machine

/-! SUPPORT. Time-outs of tiles, transactions, slices and DRAM channels, and unit resets (R180, R390 to R397). -/

namespace Sys2Proof.Machine

set_option Elab.async false

/-! ### Tiles -/

theorem State.isolate_fenced {s : State} {t : Nat} (cause address : Nat) (h : s.fenced t = true) : s.isolate t cause address = (false, s) :=
  if_pos h

theorem State.fenceTile_fenced {s : State} {t : Nat} (cause address : Nat) (h : s.fenced t = true) : s.fenceTile t cause address = s := by
  rw [State.fenceTile, State.isolate_fenced cause address h]
  exact if_pos rfl

/-- R402: on a die in recovery the fence waits. -/
theorem State.fenceTile_recovering {s : State} {t : Nat} (cause address : Nat) (h : s.fenced t = false)
    (hrec : s.recovering (tileDie t) = true) : s.fenceTile t cause address =
      { s with flt := { s.flt with fenceLater := s.flt.fenceLater ++ [(t, cause, address)] } } := by
  have hisolate : s.isolate t cause address =
      (false, { s with flt := { s.flt with fenceLater := s.flt.fenceLater ++ [(t, cause, address)] } }) :=
    (if_neg (by simp [h])).trans (if_pos hrec)
  rw [State.fenceTile, hisolate]
  exact if_pos rfl

/-- R390: a tile without owner and copies is fenced, and its fault recorded. -/
theorem State.fenceTile_free {s : State} {t : Nat} (cause address : Nat) (hcopies : (s.tileAt t).copies = []) (howner : s.ownerOf t = none)
    (h : s.fenced t = false) (hrec : s.recovering (tileDie t) = false) : s.fenceTile t cause address =
      ((s.setTileCode t 5).event (tileDie t) 9 t cause).recordFault {
        cause, level := 1, unitKind := 1, die := tileDie t, unit := tileSite t, tile := some t, address } := by
  have hisolate : s.isolate t cause address = (true, (s.setTileCode t 5).event (tileDie t) 9 t cause) := by
    refine (if_neg (by simp [h])).trans ((if_neg (by simp [hrec])).trans ?_)
    dsimp only
    rw [hcopies, List.foldl_nil, howner]
  rw [State.fenceTile, hisolate, howner]
  exact if_neg (by simp)

/-! ### Transactions -/

theorem State.closeTx_one {s : State} {x : Tx} (h : s.coh.txs = [x]) : s.closeTx x = s.setTxs [] := by
  rw [State.closeTx, h, List.filter_cons_of_neg (by simp [Tx.same])]
  rfl

theorem State.runImages_none {s : State} (h : s.sec.reading = []) : s.runImages = s := by
  rw [State.runImages, h]
  rfl

/-- R390: a transaction that no one waits for ends, and its partition faults where it is of its generation. -/
theorem execTransactionTimeout_one {s : State} {d : Die} {x : Tx} (htxs : s.coh.txs = [x]) (hd : x.die = d.val) (hwants : x.wants = [])
    (hagent : 16 ≤ x.agent) (hreading : s.sec.reading = []) : exec (.transactionTimeout ⟨d, x.tag⟩) s =
      if x.gen ≠ s.generation x.part || x.part = noPart then .next (s.setTxs [])
      else .next ((s.setTxs []).partitionFault x.part { cause := 0x10, address := x.addr }) := by
  have hfind : s.coh.txs.find? (fun y => y.die == d.val && y.tag == x.tag) = some x := by
    rw [htxs]
    exact List.find?_cons_of_pos (by simp [hd])
  have hserved : ((x.wants.foldl State.serveErr (s.closeTx x)).wakeHalf x).runImages = s.setTxs [] := by
    rw [hwants, List.foldl_nil, State.closeTx_one htxs, State.wakeHalf, if_neg (by omega)]
    exact State.runImages_none hreading
  show execTransactionTimeout ⟨d, x.tag⟩ s = _
  rw [execTransactionTimeout]
  simp only [hfind, hserved]
  rfl

theorem execTransactionTimeout_none {s : State} {d : Die} {tag : Nat} (h : ∀ x ∈ s.coh.txs, x.die ≠ d.val ∨ x.tag ≠ tag) :
    exec (.transactionTimeout ⟨d, tag⟩) s = .next s := by
  have hfind : s.coh.txs.find? (fun y => y.die == d.val && y.tag == tag) = none :=
    List.find?_eq_none.2 fun x hx => by
      obtain h | h := h x hx <;> simp [h]
  show execTransactionTimeout ⟨d, tag⟩ s = _
  rw [execTransactionTimeout]
  simp only [hfind]

/-! ### Unit resets -/

theorem State.unitReset_recovering {s : State} {cause kind d unit address : Nat} {at_ : Nat → Bool} {slice : Bool}
    (hrec : s.recovering d = true) : s.unitReset cause kind d unit address at_ slice =
      s.recordFault { cause, unitKind := kind, die := d, unit, address } :=
  if_pos hrec

/-- A unit reset by its stages (R394 to R397). -/
theorem State.unitReset_stages {s : State} {cause kind d unit address : Nat} {at_ : Nat → Bool} {slice : Bool}
    (hrec : s.recovering d = false) : ∃ (again : Option Replay) (known sus : List Nat) (mask : Nat) (stopped faulted logged shown : State)
      (torn : List Nat) (tornDown : State) (flt : FltSt) (u : State) (f : FaultInfo) (l : List (Fld × Nat)),
      again = (s.flt.replays.find? fun r => r.kind == kind && r.die == d && r.unit == unit && r.current.isSome) ∧
      sus = ((s.suspectsAt at_ slice).filter fun p => !known.contains p) ∧ stopped = sus.foldl State.interruptSteps s ∧
      faulted = stopped.unitFault again f ∧ logged = faulted.event 0x1D 0x0C (kind * 2 ^ 16 + d * 2 ^ 12 + unit) mask ∧
      shown = logged.setAll l ∧ torn = (if shown.replayMode then sus.filter shown.noReplay.testBit else sus) ∧
      tornDown = torn.foldl (fun s p => s.teardown p cause) shown ∧
      u = tornDown.setFlt { flt with resets := tornDown.flt.resets ++
        [⟨kind, d, unit, sus.filter fun p => !torn.contains p, [], address⟩] } ∧
      s.unitReset cause kind d unit address at_ slice = (if slice then u.resetSlices at_ else u).excuse := by
  rw [State.unitReset, if_neg (by simp [hrec])]
  extract_lets again known sus named mask stopped faulted logged shown torn tornDown flt u
  exact ⟨again, known, sus, mask, stopped, faulted, logged, shown, torn, tornDown, flt, u, _, _, rfl, rfl, rfl, rfl, rfl, rfl, rfl, rfl,
    rfl, rfl⟩

/-- R394 to R396: a unit without suspects is recorded and resets. -/
theorem State.unitReset_idle {s : State} {cause kind d unit address : Nat} {at_ : Nat → Bool} {slice : Bool}
    (hrec : s.recovering d = false) (hreplays : s.flt.replays = []) (hsus : s.suspectsAt at_ slice = []) :
    ∃ u : State, u.flt.resets = s.flt.resets ++ [⟨kind, d, unit, [], [], address⟩] ∧ Within [.regs, .uci, .flt, .out] s u ∧
      s.unitReset cause kind d unit address at_ slice = (if slice then u.resetSlices at_ else u).excuse := by
  obtain ⟨again, known, sus, mask, stopped, faulted, logged, shown, torn, tornDown, flt, u, f, l, hagain, hsusEq, hstopped, hfaulted, hlogged,
    hshown, htorn, htornDown, hu, heq⟩ := State.unitReset_stages (cause := cause) (kind := kind) (unit := unit) (address := address)
      (at_ := at_) (slice := slice) hrec
  rw [hsus, List.filter_nil] at hsusEq
  rw [hsusEq, List.foldl_nil] at hstopped
  rw [hreplays, List.find?_nil] at hagain
  rw [hagain, hstopped] at hfaulted
  have hfaulted : faulted = s.recordFault { f with level := 5 } := hfaulted
  rw [hsusEq, List.filter_nil, ite_self] at htorn
  rw [htorn, List.foldl_nil] at htornDown
  rw [htornDown, hsusEq, List.filter_nil] at hu
  have hshownW : Within [.regs] logged shown := hshown ▸ State.setAll_within ..
  have hflt : shown.flt.resets = s.flt.resets := by
    rw [hshownW.2 .flt (by simp), hlogged, State.event_flt, hfaulted, State.recordFault_flt]
  have hw : Within [.regs, .uci, .flt, .out] s shown := by
    have hrec : Within [.regs, .uci, .flt, .out] s faulted := hfaulted ▸ (State.recordFault_keeps ..).within
    exact (hrec.trans (hlogged ▸ (State.event_within ..).mono (by decide))).trans (hshownW.mono (by simp))
  refine ⟨u, ?_, hu ▸ hw.trans ((Within.refl [.regs, .uci, .flt, .out] shown).setFlt _), heq⟩
  rw [hu, State.setFlt, hflt]

theorem State.suspectsAt_none {s : State} {at_ : Nat → Bool} {slice : Bool} {k : Tracker} (htrackers : s.coh.trackers = [k])
    (hwaiters : k.waiters = []) (haluQ : s.coh.aluQ = []) (hdir : s.coh.dir = []) (hwait : s.coh.homeWait = []) :
    s.suspectsAt at_ slice = [] := by
  rw [State.suspectsAt, htrackers, haluQ, hdir, hwait]
  cases at_ k.line <;> cases slice <;> simp [hwaiters]

theorem State.excuse_within (s : State) : Within [.tile, .free] s s.excuse := s.excuse_keeps.within

/-! ### Slices -/

theorem State.setDram_within (s : State) (e : DramSt) : Within [.dram, .mem] s { s with dram := e } := by
  refine ⟨rfl, fun c hc => ?_⟩
  cases c
  case dram => exact absurd (by simp) hc
  case mem => exact absurd (by simp) hc
  case tile => exact ⟨rfl, rfl, rfl⟩
  case burns => exact ⟨rfl, rfl, rfl⟩
  all_goals rfl

theorem SliceQuiet.dramUnitWrite_within {ks : List Tracker} {s : State} (h : SliceQuiet ks s) (a mask : Nat) (bs : List Byte) :
    Within [.dram, .mem] s (s.dramUnitWrite a mask bs) := by
  rw [State.dramUnitWrite]
  split
  · exact .refl ..
  · split
    · exact s.setDram_within _
    · rw [State.checkUnits_none (by simp [h.latent])]
      dsimp only
      rw [if_neg (by simp [h.ue])]
      exact s.setDram_within _

theorem SliceQuiet.dramPut_within {ks : List Tracker} {s : State} (h : SliceQuiet ks s) (a mask : Nat) (bs : List Byte) :
    Within [.dram, .mem] s (s.dramPut a mask bs) := by
  rw [State.dramPut, if_neg (by simp [h.aluQ]), State.dramWrite]
  refine (List.foldlRecOn (motive := fun u => SliceQuiet ks u ∧ Within [.dram, .mem] s u) _ _ ⟨h, .refl ..⟩ fun u ⟨hu, hw⟩ i _ => ?_).2
  exact ⟨(hu.dramUnitWrite ..).1, hw.trans (hu.dramUnitWrite_within ..)⟩

/-- Frames are written back where no unit of DRAM is in error. -/
theorem SliceQuiet.writeBacks {ks : List Tracker} {s : State} (h : SliceQuiet ks s) (ls : List L3Line) :
    Within [.dram, .mem] s (ls.foldl (fun s l => if l.dirty = 0 then s else s.dramPut l.line l.dirty l.data) s) := by
  refine (List.foldlRecOn (motive := fun u => SliceQuiet ks u ∧ Within [.dram, .mem] s u) _ _ ⟨h, .refl ..⟩ fun u ⟨hu, hw⟩ l _ => ?_).2
  split
  · exact ⟨hu, hw⟩
  · exact ⟨(hu.dramPut ..).1, hw.trans (hu.dramPut_within ..)⟩

/-- The slice state that a reset starts from: its trackers, operations and frames are gone. -/
def State.emptied (s : State) (at_ : Nat → Bool) : State :=
  ((s.setTrackers (s.coh.trackers.filter fun k => !at_ k.line)).setAluQ
    (s.coh.aluQ.filter fun q => !(q.msg.opcode == 6 && at_ (lineOf q.msg.bulk q.msg.addr)))).setL3 (s.coh.l3.filter fun l => !at_ l.line)

theorem State.resetSlices_idle {s : State} {at_ : Nat → Bool} (hstuck : s.stuckAt at_ = []) : s.resetSlices at_ =
    ((s.coh.l3.filter fun l => at_ l.line).foldl (fun s l => if l.dirty = 0 then s else s.dramPut l.line l.dirty l.data)
      (s.emptied at_)).dirRecover at_ := by
  rw [State.resetSlices, hstuck]
  rfl

theorem State.dirRecover_slices (s : State) (at_ : Nat → Bool) : (s.dirRecover at_).coh.trackers = s.coh.trackers ∧
    (s.dirRecover at_).coh.l3 = s.coh.l3 := ⟨rfl, rfl⟩

/-- R395: the slice of the one tracker without waiters loses it and its frames. -/
theorem State.resetSlices_spec {s : State} {at_ : Nat → Bool} {k : Tracker} (htrackers : s.coh.trackers = [k]) (hat : at_ k.line = true)
    (hwaiters : k.waiters = []) (haluQ : s.coh.aluQ = []) (hdir : s.coh.dir = []) (hwait : s.coh.homeWait = [])
    (hue : s.dram.ue = []) (hlatent : s.dram.latent = []) : (s.resetSlices at_).coh.trackers = [] ∧
      (∀ l ∈ (s.resetSlices at_).coh.l3, at_ l.line = false) ∧ (s.resetSlices at_).flt = s.flt ∧
      Within [.coh, .dram, .mem] s (s.resetSlices at_) := by
  have hstuck : s.stuckAt at_ = [] := by
    rw [State.stuckAt, htrackers, haluQ, hdir, hwait]
    simp [hat, hwaiters]
  have hquiet : SliceQuiet [] (s.emptied at_) := by
    refine ⟨hue, hlatent, ?_, hwait, ?_⟩
    · show s.coh.aluQ.filter _ = []
      rw [haluQ]
      rfl
    · show s.coh.trackers.filter _ = []
      rw [htrackers]
      simp [hat]
  have hempty : Within [.coh] s (s.emptied at_) := (((Within.refl [.coh] s).setCoh _).setCoh _).setCoh _
  have hl3 : (s.emptied at_).coh.l3 = s.coh.l3.filter fun l => !at_ l.line := rfl
  rw [State.resetSlices_idle hstuck]
  have hw := hquiet.writeBacks (s.coh.l3.filter fun l => at_ l.line)
  generalize (s.coh.l3.filter fun l => at_ l.line).foldl _ (s.emptied at_) = u at hw
  obtain ⟨htr, hfr⟩ := u.dirRecover_slices at_
  have hdw : Within [.coh] u (u.dirRecover at_) := (u.dirRecover_keeps at_).within
  refine ⟨?_, fun l hl => ?_, ?_, ((hempty.mono (by simp)).trans (hw.mono (by simp))).trans (hdw.mono (by simp))⟩
  · rw [htr, hw.2 .coh (by simp)]
    exact hquiet.trackers
  · rw [hfr, hw.2 .coh (by simp), hl3] at hl
    simpa using (List.mem_filter.1 hl).2
  · rw [hdw.2 .flt (by simp), hw.2 .flt (by simp), hempty.2 .flt (by simp)]

/-- The lines of one slice of a die. -/
def lineAt (d ch line : Nat) : Bool := dpaDie line == d && channelOf line == ch

section Slice

variable {s : State} {d : Die} {sl : Fin 64} {k : Tracker}

theorem execSliceTimeout_none (h : ∀ k ∈ s.coh.trackers, dpaDie k.line ≠ d.val ∨ channelOf k.line ≠ sl.val) :
    exec (.sliceTimeout d sl) s = .next s := by
  have hfind : s.coh.trackers.find? (fun k => lineAt d sl k.line) = none :=
    List.find?_eq_none.2 fun k hk => by obtain h | h := h k hk <;> simp [lineAt, h]
  show execSliceTimeout d sl s = _
  rw [execSliceTimeout]
  simp only [lineAt] at hfind
  simp only [hfind]

theorem execSliceTimeout_one (htrackers : s.coh.trackers = [k]) (hd : dpaDie k.line = d.val) (hsl : channelOf k.line = sl.val) :
    exec (.sliceTimeout d sl) s = .next (s.unitReset 0x0D 4 d sl k.line (lineAt d sl) true) := by
  have hfind : s.coh.trackers.find? (fun k => dpaDie k.line == d.val && channelOf k.line == sl.val) = some k := by
    rw [htrackers]
    exact List.find?_cons_of_pos (by simp [hd, hsl])
  show execSliceTimeout d sl s = _
  rw [execSliceTimeout]
  simp only [hfind]
  rfl

theorem execDramTimeout_none (h : ∀ k ∈ s.coh.trackers, dpaDie k.line ≠ d.val ∨ channelOf k.line ≠ sl.val) (haluQ : s.coh.aluQ = []) :
    exec (.dramTimeout d sl) s = .next s := by
  have hfind : s.coh.trackers.find? (fun k => dpaDie k.line == d.val && channelOf k.line == sl.val) = none :=
    List.find?_eq_none.2 fun k hk => by obtain h | h := h k hk <;> simp [h]
  show execDramTimeout d sl s = _
  rw [execDramTimeout]
  simp only [hfind, haluQ]
  rfl

theorem execDramTimeout_one (htrackers : s.coh.trackers = [k]) (hd : dpaDie k.line = d.val) (hsl : channelOf k.line = sl.val) :
    exec (.dramTimeout d sl) s = .next (s.unitReset 0x0E 5 d sl (dpaOff k.line) (lineAt d sl) false) := by
  have hfind : s.coh.trackers.find? (fun k => dpaDie k.line == d.val && channelOf k.line == sl.val) = some k := by
    rw [htrackers]
    exact List.find?_cons_of_pos (by simp [hd, hsl])
  show execDramTimeout d sl s = _
  rw [execDramTimeout]
  simp only [hfind]
  rfl

end Slice

/-! ### The end of a unit reset -/

theorem State.setFlt_within (s : State) (f : FltSt) : Within [.flt] s (s.setFlt f) := (Within.refl [.flt] s).setFlt _

/-- R417: with a replay waiting the registers show it. -/
theorem State.showReplay_on {s : State} (h : s.flt.replays ≠ []) : s.showReplay.get fFltStatus_replaying = 1 ∧
    Within [.regs] s s.showReplay := by
  rw [State.showReplay]
  cases s.flt.replays.find? fun r => r.current.isSome with
  | some r =>
    refine ⟨?_, State.setAll_within ..⟩
    simp [State.setAll, fFltStatus_replaying]
  | none =>
    refine ⟨?_, State.setAll_within ..⟩
    simp [State.setAll, fFltStatus_replaying, h]

/-- Settles O41: a time-out fences, faults or resets the unit that it names, and does nothing where that unit has nothing
outstanding. -/
theorem unitTimeouts : Obligations.UnitTimeouts := by
  unfold Obligations.UnitTimeouts
  refine ⟨?_, ?_, ?_, ?_, ?_, ?_, ?_, ?_, ?_, ?_, ?_, ?_⟩
  · exact fun s t h => congrArg Host.Outcome.next (if_neg (by simp [h]))
  · intro s t off hcopies howner hfenced hrec
    exact ⟨fun h => congrArg Host.Outcome.next ((if_pos h).trans (State.fenceTile_free 7 0 hcopies howner hfenced hrec)),
      congrArg Host.Outcome.next (State.fenceTile_free 8 off hcopies howner hfenced hrec)⟩
  · exact fun s t off h => congrArg Host.Outcome.next (State.fenceTile_fenced 8 off h)
  · exact fun s t off h hrec => ⟨_, congrArg Host.Outcome.next (State.fenceTile_recovering 8 off h hrec), rfl,
      (Within.refl [.flt] s).setFlt _⟩
  · exact fun s d tag h => execTransactionTimeout_none h
  · intro s d x htxs hd hwants hagent hreading
    have hexec := execTransactionTimeout_one htxs hd hwants hagent hreading
    refine ⟨fun hgen hpart => hexec.trans (if_neg (by simp [hgen, hpart])), fun h => hexec.trans (if_pos ?_)⟩
    simpa using h
  · exact fun s d sl h => execSliceTimeout_none h
  · intro s d sl k htrackers hd hsl
    have hexec := execSliceTimeout_one htrackers hd hsl
    have hat : lineAt d sl k.line = true := by simp [lineAt, hd, hsl]
    refine ⟨fun hrec => hexec.trans (congrArg Host.Outcome.next (State.unitReset_recovering hrec)),
      fun hrec hwaiters haluQ hdir hwait hreplays hue hlatent => ?_⟩
    obtain ⟨u, hresets, hw, heq⟩ := State.unitReset_idle (cause := 0x0D) (kind := 4) (unit := sl) (address := k.line)
      (at_ := lineAt d sl) (slice := true) hrec hreplays (State.suspectsAt_none htrackers hwaiters haluQ hdir hwait)
    have hcoh : u.coh = s.coh := hw.2 .coh (by simp)
    have hdram : { u.dram with mem := [] } = { s.dram with mem := [] } := hw.2 .dram (by simp)
    have hue' : u.dram.ue = [] := (congrArg DramSt.ue hdram).trans hue
    have hlatent' : u.dram.latent = [] := (congrArg DramSt.latent hdram).trans hlatent
    obtain ⟨htr, hl3, hflt, hrw⟩ := State.resetSlices_spec (s := u) (by rw [hcoh]; exact htrackers) hat hwaiters (by rw [hcoh]; exact haluQ)
      (by rw [hcoh]; exact hdir) (by rw [hcoh]; exact hwait) hue' hlatent'
    have hex := (u.resetSlices (lineAt d sl)).excuse_within
    refine ⟨(u.resetSlices (lineAt d sl)).excuse, hexec.trans (congrArg Host.Outcome.next heq), ?_, ?_, ?_,
      (hw.mono (by simp)).trans ((hrw.mono (by simp)).trans (hex.mono (by simp)))⟩
    · rw [hex.2 .coh (by simp), htr]
    · rw [hex.2 .coh (by simp)]
      intro l hl
      have hout := hl3 l hl
      simp only [lineAt, Bool.and_eq_false_iff, beq_eq_false_iff_ne] at hout
      exact hout
    · rw [hex.2 .flt (by simp), hflt, hresets]
  · exact fun s d ch h haluQ => execDramTimeout_none h haluQ
  · intro s d ch k htrackers hd hch
    have hexec := execDramTimeout_one htrackers hd hch
    refine ⟨fun hrec => hexec.trans (congrArg Host.Outcome.next (State.unitReset_recovering hrec)),
      fun hrec hwaiters haluQ hdir hwait hreplays => ?_⟩
    obtain ⟨u, hresets, hw, heq⟩ := State.unitReset_idle (cause := 0x0E) (kind := 5) (unit := ch) (address := dpaOff k.line)
      (at_ := lineAt d ch) (slice := false) hrec hreplays (State.suspectsAt_none htrackers hwaiters haluQ hdir hwait)
    have hex := u.excuse_within
    refine ⟨u.excuse, hexec.trans (congrArg Host.Outcome.next heq), ?_, ?_, (hw.mono (by simp)).trans (hex.mono (by simp))⟩
    · rw [hex.2 .coh (by simp), hw.2 .coh (by simp)]
    · rw [hex.2 .flt (by simp), hresets]
  · intro s r rs hresets
    refine ⟨fun hnone => ?_, fun hsome => ?_⟩
    · refine ⟨s.setFlt { s.flt with resets := rs }, show execUnitResetDone s = _ from ?_, rfl, rfl, State.setFlt_within ..⟩
      rw [execUnitResetDone, hresets]
      exact if_pos (by simp [hnone])
    · obtain ⟨u, hu⟩ : ∃ u, u = (s.setFlt { s.flt with resets := rs }).setFlt { s.flt with resets := rs, replays := s.flt.replays ++ [{
        kind := r.kind, die := r.die, unit := r.unit, todo := r.suspects, running := [], startAt := s.clock.now + 50,
        address := r.address }] } := ⟨_, rfl⟩
      have hreplays : u.flt.replays ≠ [] := by rw [hu]; simp [State.setFlt]
      have huw : Within [.flt] s u := hu ▸ (State.setFlt_within ..).trans (State.setFlt_within ..)
      obtain ⟨hon, hw⟩ := State.showReplay_on hreplays
      have hflt : u.showReplay.flt = u.flt := hw.2 .flt (by simp)
      refine ⟨u.showReplay, show execUnitResetDone s = _ from ?_, ?_, ?_, hon, (huw.mono (by simp)).trans (hw.mono (by simp))⟩
      · rw [execUnitResetDone, hresets, hu]
        exact if_neg (by simp [hsome])
      · rw [hflt, hu]
        rfl
      · rw [hflt, hu]
        rfl
  · intro s hresets
    show execUnitResetDone s = _
    rw [execUnitResetDone, hresets]

end Sys2Proof.Machine

/-! SUPPORT. The recovery of a die (R399, R400): the statement O42 fails in its clause of RECOVER. The die's background self-test loses its
failures (field reset at a recovery, R457), which the clause's list of changed components leaves out. -/

namespace Sys2Proof.Machine

set_option Elab.async false

/-- Die 0 recovers, and its slice self-test has counted a failure of the slice kind 0. -/
def failedSlice : State :=
  { State.reset with regs := mapSet 0 State.reset.regs fFltStatus_dies_recovering.key 1, awl := { failed := [(0, 1)] } }

/-- The reset of die 0 forgets the failure. -/
theorem failedSlice_recoverDie : (failedSlice.recoverDie 0).awl.failed = [] := by decide +kernel

/-- Refutes O42: the clause of RECOVER lets nothing change but registers, coherence state and eyelets, and the reset of the die clears the
failures that its self-test has counted. -/
theorem not_dieRecovery : ¬ Obligations.DieRecovery := by
  unfold Obligations.DieRecovery
  rintro ⟨-, -, -, -, -, -, -, -, hrecover, -⟩
  obtain ⟨u, hexec, -, -, -, -, hwithin⟩ := hrecover failedSlice 0 (by decide +kernel) (by decide +kernel) rfl rfl rfl rfl rfl rfl rfl rfl
  have hnext : exec (.recover 0) failedSlice = .next (failedSlice.recoverDie 0) := by
    show execRecover 0 failedSlice = _
    rw [execRecover, if_pos (by decide +kernel)]
    rfl
  have hu : failedSlice.recoverDie 0 = u := Host.Outcome.next.inj (hnext.symm.trans hexec)
  have hawl : u.awl = failedSlice.awl := hwithin.2 .awl (by simp)
  have hcleared := failedSlice_recoverDie
  rw [hu, hawl] at hcleared
  exact absurd hcleared (by decide)

end Sys2Proof.Machine

/-! SUPPORT. The recovery of the device (R401, R402, R406, R407), and the commands that bring it back to service (R408). -/

namespace Sys2Proof.Machine

set_option Elab.async false

/-! ## Counting recoveries, and going out of service -/

/-- The registers of a counted recovery: the count, and the times of the last three. -/
def State.recoveryCounted (s : State) : State :=
  (s.bump fFltStatus_recoveries 1).setAll
    [(fFltEscT_ms 2, s.get (fFltEscT_ms 1)), (fFltEscT_ms 1, s.get (fFltEscT_ms 0)), (fFltEscT_ms 0, s.nowMs)]

theorem State.countRecovery_eq (s : State) : s.countRecovery =
    if (decide (s.recoveryCounted.get (fFltEscT_ms 2) ≠ 0) && decide (s.nowMs ≤ s.recoveryCounted.get (fFltEscT_ms 2) + 600000)) = true
      then s.recoveryCounted.setFlt { s.recoveryCounted.flt with goingOut := true } else s.recoveryCounted := rfl

theorem State.recoveryCounted_spec (s : State) :
    s.recoveryCounted.get fFltStatus_recoveries = satAdd fFltStatus_recoveries.width (s.get fFltStatus_recoveries) 1 ∧
    s.recoveryCounted.get (fFltEscT_ms 0) = s.nowMs % 2 ^ (fFltEscT_ms 0).width ∧
    s.recoveryCounted.get (fFltEscT_ms 2) = s.get (fFltEscT_ms 1) % 2 ^ (fFltEscT_ms 2).width ∧
    Within [.regs] s s.recoveryCounted := by
  refine ⟨?_, ?_, ?_, (State.bump_within ..).trans (State.setAll_within ..)⟩
  · rw [← State.get_bump_same s fFltStatus_recoveries 1]
    simp only [State.recoveryCounted, State.setAll]
    rw [State.get_set_ne _ _ (by decide), State.get_set_ne _ _ (by decide), State.get_set_ne _ _ (by decide)]
  · simp only [State.recoveryCounted, State.setAll, State.get_set_same]
  · simp only [State.recoveryCounted, State.setAll]
    rw [State.get_set_ne _ _ (by decide), State.get_set_ne _ _ (by decide), State.get_set_same]

theorem State.countRecovery_spec (s : State) :
    s.countRecovery.get fFltStatus_recoveries = satAdd fFltStatus_recoveries.width (s.get fFltStatus_recoveries) 1 ∧
    s.countRecovery.get (fFltEscT_ms 0) = s.nowMs % 2 ^ (fFltEscT_ms 0).width ∧
    (s.get (fFltEscT_ms 1) ≠ 0 → s.get (fFltEscT_ms 1) < 2 ^ (fFltEscT_ms 2).width →
      s.nowMs ≤ s.get (fFltEscT_ms 1) + 600000 → s.countRecovery.flt.goingOut = true) ∧
    (s.get (fFltEscT_ms 1) = 0 → s.countRecovery.flt.goingOut = s.flt.goingOut) ∧ Within [.regs, .flt] s s.countRecovery := by
  obtain ⟨hcount, htime, hthird, hw⟩ := s.recoveryCounted_spec
  have hflt : s.recoveryCounted.flt = s.flt := hw.2 .flt (by simp)
  rw [State.countRecovery_eq, hthird]
  generalize s.recoveryCounted = u at *
  refine ⟨?_, ?_, fun hne hlt hms => ?_, fun hzero => ?_, ?_⟩
  · split <;> exact hcount
  · split <;> exact htime
  · rw [Nat.mod_eq_of_lt hlt, if_pos (by simp only [Bool.and_eq_true, decide_eq_true_eq]; exact ⟨hne, hms⟩)]
    rfl
  · rw [hzero, if_neg (by simp), hflt]
  · split
    · exact (hw.mono (by simp)).setFlt _
    · exact hw.mono (by simp)

/-- The stages of going out of service: the load ends, a number is drawn, the registers are written, the event is logged. -/
theorem State.outOfService_stages (s : State) : ∃ a b c : State, a = s.stopLoad 0x0D ∧
    b = (a.draw.2.addTo fFltEsc_oos_entries 1).setAll
      [(fFltStatus_out_of_service, 1), (fDevPins_fault_driven, 1), (fFltRtsChal_challenge, a.draw.1)] ∧
    c = b.setFlt { b.flt with goingOut := false } ∧
    s.outOfService = (c.event 0x1D 0x12 (c.get fFltEsc_oos_entries) 0).fire 0 7 := ⟨_, _, _, rfl, rfl, rfl, rfl⟩

/-- A load that stands ends, and the count of entries out of service stays. -/
theorem State.stopLoad_spec (s : State) {error : Nat} (herror : error < 256) :
    (1 ≤ s.get fLdrStatus_state → s.get fLdrStatus_state ≤ 5 → (s.stopLoad error).loadFailed error) ∧
    (s.stopLoad error).get fFltEsc_oos_entries = s.get fFltEsc_oos_entries ∧
    Within [.regs, .cfg, .ldr, .uci, .flt, .out] s (s.stopLoad error) := by
  refine ⟨fun hlo hhi => ?_, ?_, (s.stopLoad_keeps error).within⟩
  · rw [show s.stopLoad error = s.endLoad error 0 from if_pos (by simp [hlo, hhi])]
    exact s.endLoad_loadFailed 0 herror
  · rw [State.stopLoad]
    split
    · obtain ⟨u, hu, heq⟩ : ∃ u : State, u.regs = s.regs ∧ s.endLoad error 0 =
        ((u.setAll [(fLdrStatus_state, 7), (fLdrStatus_error, error), (fLdrStatus_check, 0)]).event
          0x19 0x1A 7 (error * 256 + 0)).fire 0 0 := by
        refine ⟨_, ?_, rfl⟩
        rfl
      rw [heq, State.get_of_regs (State.fire_regs ..), State.get_event (by decide)]
      simp only [State.setAll]
      rw [State.get_set_ne _ _ (by decide), State.get_set_ne _ _ (by decide), State.get_set_ne _ _ (by decide), State.get_of_regs hu]
    · rfl

theorem State.outOfService_spec (s : State) :
    s.outOfService.get fFltStatus_out_of_service = 1 ∧ s.outOfService.get fDevPins_fault_driven = 1 ∧
    s.outOfService.get fFltEsc_oos_entries = (s.get fFltEsc_oos_entries + 1) % 2 ^ fFltEsc_oos_entries.width ∧
    s.outOfService.flt.goingOut = false ∧
    (1 ≤ s.get fLdrStatus_state → s.get fLdrStatus_state ≤ 5 → s.outOfService.loadFailed 0x0D) ∧
    Within [.regs, .cfg, .ldr, .uci, .flt, .out, .free] s s.outOfService := by
  obtain ⟨a, b, c, ha, hb, hc, heq⟩ := s.outOfService_stages
  obtain ⟨hended, hoos, haw⟩ := s.stopLoad_spec (error := 0x0D) (by decide)
  rw [← ha] at hended hoos haw
  have hdraw : a.draw.2.regs = a.regs := rfl
  have hcb : c.regs = b.regs := by rw [hc]; rfl
  have hbldr : b.ldr = a.ldr := by rw [hb]; rfl
  have hget {g : Fld} (hg : g.offEvents = true) : s.outOfService.get g = b.get g := by
    rw [heq, State.get_of_regs (State.fire_regs ..), State.get_event hg, State.get_of_regs hcb]
  refine ⟨?_, ?_, ?_, ?_, fun hlo hhi => ⟨?_, ?_, ?_⟩, (s.outOfService_keeps).within⟩
  · rw [hget (by decide), hb]
    simp only [State.setAll]
    rw [State.get_set_ne _ _ (by decide), State.get_set_ne _ _ (by decide), State.get_set_same]
    rfl
  · rw [hget (by decide), hb]
    simp only [State.setAll]
    rw [State.get_set_ne _ _ (by decide), State.get_set_same]
    rfl
  · rw [hget (by decide), hb]
    simp only [State.setAll]
    rw [State.get_set_ne _ _ (by decide), State.get_set_ne _ _ (by decide), State.get_set_ne _ _ (by decide), State.addTo, State.get_set_same,
      State.get_of_regs hdraw, hoos]
  · rw [heq, State.fire_flt, State.event_flt, hc]
    rfl
  · rw [hget (by decide), hb]
    simp only [State.setAll, State.addTo]
    rw [State.get_set_ne _ _ (by decide), State.get_set_ne _ _ (by decide), State.get_set_ne _ _ (by decide),
      State.get_set_ne _ _ (by decide), State.get_of_regs hdraw]
    exact (hended hlo hhi).1
  · rw [hget (by decide), hb]
    simp only [State.setAll, State.addTo]
    rw [State.get_set_ne _ _ (by decide), State.get_set_ne _ _ (by decide), State.get_set_ne _ _ (by decide),
      State.get_set_ne _ _ (by decide), State.get_of_regs hdraw]
    exact (hended hlo hhi).2.1
  · rw [heq, State.fire_ldr, State.event_ldr, hc]
    exact (congrArg LoaderSt.staged hbldr).trans (hended hlo hhi).2.2

/-! ## Halves alive again -/

/-- A cleared bit takes no other with it. -/
theorem testBit_clearBit_ne (x : Nat) {i j : Nat} (hij : j ≠ i) : (clearBit x i).testBit j = x.testBit j := by
  rw [clearBit]
  split
  next h =>
    have hodd : x / 2 ^ i % 2 = 1 := by simpa [Nat.testBit_eq_decide_div_mod_eq] using h
    obtain hlt | hlt := Nat.lt_or_gt_of_ne hij
    · obtain ⟨k, rfl⟩ : ∃ k, i = j + 1 + k := ⟨i - (j + 1), by omega⟩
      have hdiv : (x - 2 ^ (j + 1 + k)) / 2 ^ j = x / 2 ^ j - 2 * 2 ^ k := by
        rw [show 2 ^ (j + 1 + k) = 2 ^ j * (2 * 2 ^ k) by ring, Nat.sub_mul_div]
      have hle : 2 * 2 ^ k ≤ x / 2 ^ j := by
        rw [Nat.le_div_iff_mul_le (Nat.two_pow_pos j), show 2 * 2 ^ k * 2 ^ j = 2 ^ (j + 1 + k) by ring]
        exact Nat.ge_two_pow_of_testBit h
      rw [Nat.testBit_eq_decide_div_mod_eq, Nat.testBit_eq_decide_div_mod_eq, hdiv]
      congr 2
      omega
    · obtain ⟨k, rfl⟩ : ∃ k, j = i + 1 + k := ⟨j - (i + 1), by omega⟩
      have hdiv : (x - 2 ^ i) / 2 ^ i = x / 2 ^ i - 1 := by simpa using Nat.sub_mul_div x (2 ^ i) 1
      have hsplit : ∀ y, y / 2 ^ (i + 1 + k) = y / 2 ^ i / 2 / 2 ^ k := fun y => by
        rw [Nat.div_div_eq_div_mul, Nat.div_div_eq_div_mul, show 2 ^ i * (2 * 2 ^ k) = 2 ^ (i + 1 + k) by ring]
      have hhalf : ∀ y, y % 2 = 1 → (y - 1) / 2 = y / 2 := by omega
      rw [Nat.testBit_eq_decide_div_mod_eq, Nat.testBit_eq_decide_div_mod_eq, hsplit, hsplit, hdiv, hhalf _ hodd]
  next h => rfl

theorem State.deadAt_clear (s : State) (d k h a : Nat) :
    (s.setBitOf (fDirStatus_dead_mask d) k false).deadAt h a = true ↔ s.deadAt h a = true ∧ ¬ (h = d ∧ a = k) := by
  by_cases hd : h = d
  · subst hd
    by_cases ha : a = k
    · subst ha
      rw [State.deadAt_setBitOf_false]
      simp
    · rw [State.deadAt, State.setBitOf, if_neg (by decide), State.get_set_same, Nat.testBit_mod_two_pow, testBit_clearBit_ne _ ha, State.deadAt]
      have hwidth : (fDirStatus_dead_mask h).width = 17 := rfl
      simp [ha, hwidth]
  · rw [State.deadAt_setBitOf_ne hd]
    simp [hd]

theorem State.deadAt_reviveHalves (s : State) (d h a : Nat) :
    (s.reviveHalves d).deadAt h a = true ↔ s.deadAt h a = true ∧ ¬ (h < 8 ∧ a / 2 = d) := by
  have hfold : ∀ (l : List Nat) (s : State), (l.foldl (fun s h =>
      (s.setBitOf (fDirStatus_dead_mask h) (2 * d) false).setBitOf (fDirStatus_dead_mask h) (2 * d + 1) false) s).deadAt h a = true ↔
      s.deadAt h a = true ∧ ¬ (h ∈ l ∧ a / 2 = d) := by
    intro l
    induction l with
    | nil => simp
    | cons e l ih =>
      intro s
      have hhalf : a / 2 = d ↔ a = 2 * d ∨ a = 2 * d + 1 := by omega
      rw [List.foldl_cons, ih, State.deadAt_clear, State.deadAt_clear, List.mem_cons, hhalf]
      tauto
  rw [State.reviveHalves, hfold, List.mem_range]

theorem State.get_reviveHalves (s : State) (d : Nat) {g : Fld} (hg : ∀ h, g.key ≠ (fDirStatus_dead_mask h).key) :
    (s.reviveHalves d).get g = s.get g :=
  State.get_foldl (fun s h => ((s.setBitOf _ _ false).get_setBitOf_ne _ _ (hg h)).trans (s.get_setBitOf_ne _ _ (hg h))) _ _

theorem State.reviveHalves_within (s : State) (d : Nat) : Within [.regs] s (s.reviveHalves d) :=
  Within.foldl (fun s _ => (s.setBitOf_within ..).trans (State.setBitOf_within ..)) _ _

theorem State.toPrimary_spec (s : State) (d : Nat) : (s.toPrimary d).get (fLaceStatus_parent d) = 0 ∧
    RegsKept [fLaceStatus_parent d, fLaceStatus_switches d] s (s.toPrimary d) ∧ Within [.regs] s (s.toPrimary d) := by
  rw [State.toPrimary]
  split
  next hzero => exact ⟨hzero, RegsKept.refl _ _, Within.refl _ _⟩
  next =>
    refine ⟨?_, ((RegsKept.refl _ s).set 0 (by simp)).bump 1 (by simp), (s.set_within _ _).trans (State.bump_within ..)⟩
    rw [State.get_bump_ne _ _ (by simp [Fld.key, fLaceStatus_parent, fLaceStatus_switches]), State.get_set_same]
    rfl

/-- The end of a device recovery revives each die's halves and sets its lace parent back to the primary (R401). -/
def State.diesRevived (s : State) (l : List Nat) : State := l.foldl (fun s d => (s.reviveHalves d).toPrimary d) s

theorem Fld.parent_ne (d h : Nat) : (fDirStatus_dead_mask h).key ≠ (fLaceStatus_parent d).key ∧
    (fDirStatus_dead_mask h).key ≠ (fLaceStatus_switches d).key ∧ (fLaceStatus_parent h).key ≠ (fLaceStatus_switches d).key ∧
    (h ≠ d → (fLaceStatus_parent h).key ≠ (fLaceStatus_parent d).key) := by
  simp only [Fld.key, fDirStatus_dead_mask, fLaceStatus_parent, fLaceStatus_switches, RegKind.addr, RegKind.base, kDirStatus, kLaceStatus]
  omega

/-- A field off the directories and the lace is no field that the revival writes. -/
theorem Fld.offLace (g : Fld) (hg : g.key < (fDirStatus_dead_mask 0).key ∧ g.key < (fLaceStatus_parent 0).key) :
    (∀ h, g.key ≠ (fDirStatus_dead_mask h).key) ∧ (∀ d, g.key ≠ (fLaceStatus_parent d).key) ∧ ∀ d, g.key ≠ (fLaceStatus_switches d).key := by
  simp only [Fld.key, fDirStatus_dead_mask, fLaceStatus_parent, fLaceStatus_switches, RegKind.addr, RegKind.base, kDirStatus,
    kLaceStatus] at hg ⊢
  exact ⟨fun _ => by omega, fun _ => by omega, fun _ => by omega⟩

theorem Fld.sweep_ne_lace (h : Nat) : (∀ d, (fDirStatus_sweep h).key ≠ (fLaceStatus_parent d).key) ∧
    (∀ d, (fDirStatus_sweep h).key ≠ (fLaceStatus_switches d).key) ∧ (fDirStatus_sweep h).key ≠ fFltStatus_device_recovering.key ∧
    (fDirStatus_sweep h).key ≠ fFltStatus_dies_recovering.key := by
  simp only [Fld.key, fDirStatus_sweep, fLaceStatus_parent, fLaceStatus_switches, fFltStatus_device_recovering, fFltStatus_dies_recovering,
    RegKind.addr, RegKind.base, kDirStatus, kLaceStatus, kFltStatus]
  exact ⟨fun _ => by omega, fun _ => by omega, by omega, by omega⟩

theorem State.get_diesRevived (s : State) (l : List Nat) {g : Fld} (hdead : ∀ h, g.key ≠ (fDirStatus_dead_mask h).key)
    (hparent : ∀ d, g.key ≠ (fLaceStatus_parent d).key) (hswitches : ∀ d, g.key ≠ (fLaceStatus_switches d).key) :
    (s.diesRevived l).get g = s.get g := by
  refine State.get_foldl (fun s d => ?_) l s
  obtain ⟨-, hkept, -⟩ := (s.reviveHalves d).toPrimary_spec d
  rw [hkept.get (g := g) (by simp [hparent, hswitches]), State.get_reviveHalves _ _ hdead]

theorem State.deadAt_diesRevived (l : List Nat) (s : State) (h a : Nat) (hh : h < 8) :
    (s.diesRevived l).deadAt h a = true ↔ s.deadAt h a = true ∧ a / 2 ∉ l := by
  induction l generalizing s with
  | nil => simp [State.diesRevived]
  | cons d l ih =>
    obtain ⟨-, hkept, -⟩ := (s.reviveHalves d).toPrimary_spec d
    have hone : ((s.reviveHalves d).toPrimary d).deadAt h a = (s.reviveHalves d).deadAt h a := by
      rw [State.deadAt, hkept.get (by simp [Fld.parent_ne d h]), State.deadAt]
    refine (ih ((s.reviveHalves d).toPrimary d)).trans ?_
    rw [hone, State.deadAt_reviveHalves, List.mem_cons]
    tauto

theorem State.parent_diesRevived (l : List Nat) (s : State) (h : Nat) (hl : h ∈ l ∨ s.get (fLaceStatus_parent h) = 0) :
    (s.diesRevived l).get (fLaceStatus_parent h) = 0 := by
  induction l generalizing s with
  | nil => exact hl.resolve_left (List.not_mem_nil)
  | cons d l ih =>
    refine ih ((s.reviveHalves d).toPrimary d) ?_
    obtain ⟨hzero, hkept, -⟩ := (s.reviveHalves d).toPrimary_spec d
    by_cases hd : h = d
    · exact .inr (hd ▸ hzero)
    · obtain ⟨-, -, hswitches, hparent⟩ := Fld.parent_ne d h
      rw [hkept.get (by simp [hswitches, hparent hd]), State.get_reviveHalves _ _ fun e => (Fld.parent_ne h e).1.symm]
      simpa [hd] using hl

theorem State.diesRevived_within (s : State) (l : List Nat) : Within [.regs] s (s.diesRevived l) :=
  Within.foldl (fun s d => (s.reviveHalves_within d).trans (State.toPrimary_spec _ d).2.2) _ _

/-! ## The end of a device recovery -/

theorem State.fenceWaiting_none {s : State} (h : s.flt.fenceLater = []) (d : Nat) : s.fenceWaiting d = s := by
  have hflt : { s.flt with fenceLater := s.flt.fenceLater.filter fun e => tileDie e.1 != d } = s.flt := by
    rw [show s.flt.fenceLater.filter (fun e => tileDie e.1 != d) = s.flt.fenceLater by rw [h]; rfl]
  rw [State.fenceWaiting, hflt, h]
  rfl

theorem State.fenceAll_none {s : State} (h : s.flt.fenceLater = []) (l : List Nat) : l.foldl State.fenceWaiting s = s := by
  induction l with
  | nil => rfl
  | cons d l ih => rw [List.foldl_cons, State.fenceWaiting_none h, ih]

section Done
variable {s : State} (ms : Nat)

theorem execDeviceRecoveryDone_waits (h : s.get fFltStatus_device_recovering = 0 ∨ ∃ d < 8, s.get (fDirStatus_sweep d) = 1) :
    exec (.deviceRecoveryDone ms) s = .next s := by
  refine if_pos ?_
  obtain h | ⟨d, hd, h⟩ := h
  · simp [State.flag, h]
  · rw [Bool.or_eq_true, List.any_eq_true]
    exact .inr ⟨d, List.mem_range.2 hd, State.flag_of_get h⟩

/-- The stages of the end of a device recovery. -/
theorem execDeviceRecoveryDone_stages (hrec : s.get fFltStatus_device_recovering = 1) (hsweep : ∀ h < 8, s.get (fDirStatus_sweep h) = 0) :
    ∃ a b c d e : State, a = s.setAll [(fFltStatus_device_recovering, 0), (fFltStatus_dies_recovering, 0)] ∧
      b = a.setFlt { a.flt with dieAt := [] } ∧ c = (List.range 8).foldl (fun s d => (s.reviveHalves d).toPrimary d) b ∧
      d = (List.range 8).foldl State.fenceWaiting (c.event 0x1D 0x11 ms 0) ∧ e = (if d.flt.goingOut then d.outOfService else d) ∧
      exec (.deviceRecoveryDone ms) s = .next (if e.sec.transition.isSome then e.dropDevice else e) := by
  have hguard : ¬ (!s.flag fFltStatus_device_recovering || (List.range 8).any fun d => s.flag (fDirStatus_sweep d)) = true := by
    rw [State.flag_of_get hrec, Bool.not_true, Bool.false_or, List.any_eq_true]
    rintro ⟨d, hd, hone⟩
    simp [State.flag_of_get_zero (hsweep d (List.mem_range.1 hd))] at hone
  show ∃ a b c d e : State, _ ∧ _ ∧ _ ∧ _ ∧ _ ∧ execDeviceRecoveryDone ms s = _
  rw [execDeviceRecoveryDone, if_neg hguard]
  extract_lets a flt b c ended d e
  exact ⟨a, b, c, d, e, rfl, rfl, rfl, rfl, rfl, rfl⟩

/-- The same with nothing left to fence, and a device that stays. -/
theorem execDeviceRecoveryDone_quiet (hrec : s.get fFltStatus_device_recovering = 1) (hsweep : ∀ h < 8, s.get (fDirStatus_sweep h) = 0)
    (hlater : s.flt.fenceLater = []) (hout : s.flt.goingOut = false) (htrans : s.sec.transition = none) :
    ∃ a b c : State, a = s.setAll [(fFltStatus_device_recovering, 0), (fFltStatus_dies_recovering, 0)] ∧
      b = a.setFlt { a.flt with dieAt := [] } ∧ c = b.diesRevived (List.range 8) ∧
      exec (.deviceRecoveryDone ms) s = .next (c.event 0x1D 0x11 ms 0) := by
  obtain ⟨a, b, c, d, e, ha, hb, hc, hd, he, hexec⟩ := execDeviceRecoveryDone_stages ms hrec hsweep
  replace hc : c = b.diesRevived (List.range 8) := hc
  refine ⟨a, b, c, ha, hb, hc, ?_⟩
  have haw : Within [.regs] s a := ha ▸ State.setAll_within ..
  have hcw : Within [.regs] b c := hc ▸ State.diesRevived_within ..
  have hcflt : c.flt = { s.flt with dieAt := [] } := by
    rw [hcw.2 .flt (by simp), hb, ← haw.2 .flt (by simp)]
    rfl
  have hctrans : c.sec.transition = s.sec.transition := by
    rw [show c.sec.transition = b.sec.transition from (hcw.2 .burns (by simp)).1, hb]
    exact (haw.2 .burns (by simp)).1
  have hdc : d = c.event 0x1D 0x11 ms 0 := hd.trans (State.fenceAll_none (by rw [State.event_flt, hcflt]; exact hlater) _)
  have hed : e = c.event 0x1D 0x11 ms 0 := by
    rw [he, if_neg ?_, hdc]
    rw [hdc, State.event_flt, hcflt, hout]
    decide
  have htr : e.sec.transition = none := by rw [hed, State.event_sec, hctrans, htrans]
  rw [hexec, if_neg (by rw [htr]; decide), hed]

end Done

/-! ## Return to service (R408) -/

theorem State.event_out (s : State) (src code d0 d1 : Nat) (part : Option Nat) : ∃ more, (s.event src code d0 d1 part).out = s.out ++ more := by
  unfold State.event
  extract_lets n flt u head used i w
  split
  · exact ⟨[], by rw [(State.bump_keeps u _ _).out (by decide), List.append_nil]⟩
  · have hw : w.out = s.out := (State.setAll_keeps u _).out (by decide)
    clear_value w
    obtain ⟨more, hmore⟩ := w.fire_out 0 3
    exact ⟨more, hmore.trans (by rw [hw])⟩

theorem State.rtsDone_stages (s : State) (err : Nat) : ∃ a b : State, a = s.setAll [(fFltRtsStatus_error, err), (fFltRtsStatus_busy, 0)] ∧
    b = a.event 0x1D 0x13 err 0 ∧ s.rtsDone err = if err = 0 then b.setFlt { b.flt with returning := true } else b := by
  unfold State.rtsDone
  extract_lets b flt
  have hb : b = (s.setAll [(fFltRtsStatus_error, err), (fFltRtsStatus_busy, 0)]).event 0x1D 0x13 err 0 := rfl
  clear_value b
  exact ⟨_, b, rfl, hb, rfl⟩

theorem State.rtsDone_spec (s : State) {err : Nat} (herr : err < 16) :
    (s.rtsDone err).get fFltRtsStatus_error = err ∧ (s.rtsDone err).get fFltRtsStatus_busy = 0 ∧
    (s.rtsDone err).flt.returning = (if err = 0 then true else s.flt.returning) ∧ (∀ o ∈ s.out, o ∈ (s.rtsDone err).out) ∧
    Within [.regs, .uci, .flt, .out] s (s.rtsDone err) := by
  obtain ⟨a, b, ha, hb, heq⟩ := s.rtsDone_stages err
  have haw : Within [.regs] s a := ha ▸ State.setAll_within ..
  have hbw : Within [.regs, .uci, .flt, .out] s b := (haw.mono (by simp)).trans (hb ▸ State.event_within ..)
  have hregs : (s.rtsDone err).regs = b.regs := by rw [heq]; split <;> rfl
  have hout : (s.rtsDone err).out = b.out := by rw [heq]; split <;> rfl
  have hget {g : Fld} (hg : g.offEvents = true) : (s.rtsDone err).get g = a.get g := by
    rw [State.get_of_regs hregs, hb, State.get_event hg]
  refine ⟨?_, ?_, ?_, fun o ho => ?_, ?_⟩
  · rw [hget (by decide), ha]
    simp only [State.setAll]
    rw [State.get_set_ne _ _ (by decide), State.get_set_same]
    exact Nat.mod_eq_of_lt herr
  · rw [hget (by decide), ha]
    simp only [State.setAll, State.get_set_same, Nat.zero_mod]
  · rw [heq]
    split
    · rfl
    · rw [hb, State.event_flt, haw.2 .flt (by simp)]
  · obtain ⟨more, hmore⟩ := a.event_out 0x1D 0x13 err 0 none
    rw [hout, hb, hmore, haw.2 .out (by simp)]
    exact List.mem_append_left _ ho
  · rw [heq]
    split
    · exact hbw.setFlt _
    · exact hbw

theorem State.rtsError_lt (s : State) (img : List Byte) : s.rtsError img < 16 := by
  unfold State.rtsError
  grind

section Rts
variable {s : State} {img : List Byte}

/-- What is read of a host image: the requests of its lines (R310), and nothing else. -/
theorem State.startImage_host_eq (s : State) (reader addr len : Nat) (hup : s.linkUp = true) : s.startImage reader true addr len =
    { s with
      sec := { s.sec with badReads := s.sec.badReads.filter fun r => r != reader }
      out := s.out ++ (List.range (ceilDiv len 64)).map fun i => .cacheReq .rdCurr (addr + 64 * i) 0 [] } := by
  have hfold : ∀ (l : List Nat) (t : State), l.foldl (fun s i => s.emit (.cacheReq .rdCurr (addr + 64 * i) 0 [])) t =
      { t with out := t.out ++ l.map fun i => .cacheReq .rdCurr (addr + 64 * i) 0 [] } := by
    intro l
    induction l with
    | nil => simp
    | cons i l ih =>
      intro t
      rw [List.foldl_cons, ih, State.emit]
      simp
  have himg : s.startImage reader true addr len = (List.range (ceilDiv len 64)).foldl
      (fun s i => s.emit (.cacheReq .rdCurr (addr + 64 * i) 0 [])) (s.setBadReads (s.sec.badReads.filter fun r => r != reader)) := by
    rw [State.startImage]
    exact if_pos hup
  rw [himg, hfold]
  rfl

theorem State.startImage_host (s : State) (reader addr len : Nat) (hup : s.linkUp = true) :
    (∀ i < ceilDiv len 64, Out.cacheReq .rdCurr (addr + 64 * i) 0 [] ∈ (s.startImage reader true addr len).out) ∧
    (s.startImage reader true addr len).coh = s.coh ∧ (s.startImage reader true addr len).regs = s.regs ∧
    (s.startImage reader true addr len).sec = { s.sec with badReads := s.sec.badReads.filter fun r => r != reader } ∧
    Within [.sec, .out] s (s.startImage reader true addr len) := by
  rw [s.startImage_host_eq reader addr len hup]
  refine ⟨fun i hi => List.mem_append_right _ (List.mem_map.2 ⟨i, List.mem_range.2 hi, rfl⟩), rfl, rfl, rfl, ?_⟩
  exact Within.setOut (cs := [.sec, .out]) (s := s)
    (t := s.setBadReads (s.sec.badReads.filter fun r => r != reader)) ((s.setBadReads_keeps _).within) _

/-- An image in device memory that no half holds starts no message. -/
theorem State.startImage_dram (s : State) (reader addr len : Nat) (hdir : s.coh.dir = []) :
    s.startImage reader false addr len = s.setBadReads (s.sec.badReads.filter fun r => r != reader) := by
  have hheld : (s.setBadReads (s.sec.badReads.filter fun r => r != reader)).heldLines addr len = [] := by
    rw [State.heldLines, show (s.setBadReads (s.sec.badReads.filter fun r => r != reader)).coh.dir = [] from hdir, List.filter_nil]
  simp only [State.startImage, hheld, Bool.false_eq_true, if_false, List.foldl_nil, ite_self]

/-- The check of an image looks at the keys and the challenge alone. -/
theorem State.rtsError_congr {t : State} (hregs : t.regs = s.regs) (hfuses : t.sec.fuses = s.sec.fuses) (img : List Byte) :
    t.rtsError img = s.rtsError img := by
  have hkey : ∀ slot sig, t.keyOk slot sig = s.keyOk slot sig := fun slot sig => by
    rw [State.keyOk, State.slotHash, hfuses]
    rfl
  simp only [State.rtsError, hkey, State.get_of_regs hregs]

theorem rtsGo_inService (b : Bool) (h : s.get fFltStatus_out_of_service = 0) : exec (.rtsGo img b) s = .next (s.rtsDone 1) :=
  congrArg Host.Outcome.next (if_pos (by simp [State.flag, h]))

theorem rtsGo_reading (b : Bool) (hout : s.get fFltStatus_out_of_service = 1) (hread : ∃ w ∈ s.sec.reading, w.reader = 3) :
    exec (.rtsGo img b) s = .next s := by
  refine congrArg Host.Outcome.next ((if_neg (by simp [State.flag_of_get hout])).trans (if_pos ?_))
  simpa using hread

theorem rtsGo_reads (b : Bool) (hout : s.get fFltStatus_out_of_service = 1) (hread : s.sec.reading = []) {t : State}
    (ht : t = s.startImage 3 (s.flag fFltRtsCtrl_host) (64 * s.get fFltRtsAddr_addr) 1280) (htxs : ∀ x ∈ t.coh.txs, Purpose.image 3 ∉ x.wants) :
    exec (.rtsGo img b) s = .next (t.rtsRead img b) := by
  have hready : t.imageReady 3 = true := by
    rw [State.imageReady, List.all_eq_true]
    exact fun x hx => by simpa using htxs x hx
  refine congrArg Host.Outcome.next ((if_neg (by simp [State.flag_of_get hout])).trans ((if_neg (by simp [hread])).trans ?_))
  rw [State.readThen, ← ht]
  exact if_pos hready

theorem State.rtsRead_host {t : State} (b : Bool) (hhost : t.get fFltRtsCtrl_host = 1) (hup : t.linkUp = true) :
    t.rtsRead img b = t.rtsDone (if b = true ∧ img.length = 1280 then t.rtsError img else 7) := by
  rw [State.rtsRead, State.fetchImage, State.flag_of_get hhost, hup]
  cases b with
  | false => rfl
  | true =>
    by_cases hlen : img.length = 1280
    · simp [hlen]
    · simp [hlen]

end Rts

/-- Settles O43: a device recovery is counted, and its end revives the dies; going out of service and coming back report themselves. -/
theorem deviceRecovery : Obligations.DeviceRecovery := by
  unfold Obligations.DeviceRecovery
  refine ⟨?_, ?_, ?_, ?_, ?_, ?_, ?_, ?_, ?_, ?_, ?_, ?_⟩
  · intro s hrec
    exact ⟨congrArg Host.Outcome.next (if_pos (by simp [State.absorbs, State.flag_of_get hrec])),
      congrArg Host.Outcome.next (if_pos (by simp [State.flag_of_get hrec]))⟩
  · intro s _ htrans
    exact congrArg Host.Outcome.next (if_pos (by simp [State.absorbs, Option.isSome_iff_ne_none.2 htrans]))
  · intro s hrec htrans
    have hstart : ∀ f, s.startDeviceRecovery f = s.countRecovery.deviceRecovery f :=
      fun f => if_neg (by simp [State.absorbs, State.flag_of_get_zero hrec, htrans])
    refine ⟨congrArg Host.Outcome.next (hstart _), fun hnone => congrArg Host.Outcome.next (if_pos (by simp [hnone])),
      fun hsome => congrArg Host.Outcome.next ((if_neg (by simp [hsome, State.flag_of_get_zero hrec])).trans (hstart _)),
      congrArg Host.Outcome.next (if_neg (by simp [State.flag_of_get_zero hrec])), fun ms => execDeviceRecoveryDone_waits ms (.inl hrec)⟩
  · exact fun s => ⟨_, rfl, s.countRecovery_spec⟩
  · exact fun s hrec => congrArg Host.Outcome.next (if_pos (State.flag_of_get hrec))
  · intro s
    obtain ⟨hout, hfault, hentries, hgoing, hload, hw⟩ := s.outOfService_spec
    exact ⟨_, rfl, hout, hfault, hentries, hgoing, hload, hw⟩
  · exact fun s ms d hsweep => execDeviceRecoveryDone_waits ms (.inr ⟨d, d.isLt, hsweep⟩)
  · intro s ms hrec hsweep hlater hout htrans
    obtain ⟨a, b, c, ha, hb, hc, hexec⟩ := execDeviceRecoveryDone_quiet ms hrec hsweep hlater hout htrans
    have haw : Within [.regs] s a := ha ▸ State.setAll_within ..
    have hbw : Within [.flt] a b := hb ▸ State.setFlt_within ..
    have hcw : Within [.regs] b c := hc ▸ State.diesRevived_within ..
    have hba : b.regs = a.regs := hbw.2 .regs (by simp)
    have hget {g : Fld} (hoff : g.offEvents = true) (hdead : ∀ h, g.key ≠ (fDirStatus_dead_mask h).key)
        (hparent : ∀ d, g.key ≠ (fLaceStatus_parent d).key) (hswitches : ∀ d, g.key ≠ (fLaceStatus_switches d).key) :
        (c.event 0x1D 0x11 ms 0).get g = a.get g := by
      rw [State.get_event hoff, hc, State.get_diesRevived _ _ hdead hparent hswitches, State.get_of_regs hba]
    refine ⟨_, hexec, ?_, ?_, fun h hh => ⟨?_, fun n hn => ?_⟩, ?_, fun h hh => ?_, ?_⟩
    · obtain ⟨hdead, hparent, hswitches⟩ := Fld.offLace fFltStatus_device_recovering (by decide)
      rw [hget (by decide) hdead hparent hswitches, ha]
      simp [State.setAll, State.get_set_ne _ _ (show fFltStatus_device_recovering.key ≠ fFltStatus_dies_recovering.key by decide)]
    · obtain ⟨hdead, hparent, hswitches⟩ := Fld.offLace fFltStatus_dies_recovering (by decide)
      rw [hget (by decide) hdead hparent hswitches, ha]
      simp [State.setAll]
    · obtain ⟨hparent, hswitches, hflt⟩ := Fld.sweep_ne_lace h
      rw [hget (g := fDirStatus_sweep h) (Fld.offEvents_of_die _ _ _ _) (Fld.sweep_ne_deadMask · h) hparent hswitches, ha]
      simp only [State.setAll]
      rw [State.get_set_ne _ _ hflt.2, State.get_set_ne _ _ hflt.1, hsweep h hh]
    · have hdead : c.deadAt h n = false := by
        rw [← Bool.not_eq_true, hc, State.deadAt_diesRevived _ _ _ _ hh]
        exact fun hdead => hdead.2 (List.mem_range.2 (by omega))
      rw [State.deadAt, State.get_event (g := fDirStatus_dead_mask h) (Fld.offEvents_of_die _ _ _ _), ← State.deadAt, hdead]
    · rw [State.event_flt, hcw.2 .flt (by simp), hb]
      rfl
    · rw [State.get_event (g := fLaceStatus_parent h) (Fld.offEvents_of_die _ _ _ _), hc]
      exact State.parent_diesRevived _ _ _ (.inl (List.mem_range.2 hh))
    · exact ((haw.mono (by simp)).trans ((hbw.mono (by simp)).trans (hcw.mono (by simp)))).trans (State.event_within ..)
  · intro s img b hout
    obtain ⟨herr, -, hret, -, hw⟩ := s.rtsDone_spec (err := 1) (by decide)
    exact ⟨_, rtsGo_inService b hout, herr, hret, hw⟩
  · intro s img hout hhost hread hdir htxs
    have ht := s.startImage_dram 3 (64 * s.get fFltRtsAddr_addr) 1280 hdir
    rw [← State.flag_of_get_zero hhost] at ht
    have htw : Within [.sec] s (s.setBadReads (s.sec.badReads.filter fun r => r != 3)) := (State.setBadReads_keeps ..).within
    obtain ⟨herr, -, hret, -, hw⟩ := (s.setBadReads (s.sec.badReads.filter fun r => r != 3)).rtsDone_spec (err := 7) (by decide)
    exact ⟨_, rtsGo_reads false hout hread ht.symm htxs, herr, hret, (htw.mono (by simp)).trans (hw.mono (by simp))⟩
  · exact fun s img b hread hout => rtsGo_reading b hout hread
  · intro s img b hout hhost hup hread htxs
    obtain ⟨hreqs, hcoh, hregs, hsec, htw⟩ := s.startImage_host 3 (64 * s.get fFltRtsAddr_addr) 1280 hup
    obtain ⟨t, ht⟩ : ∃ t, t = s.startImage 3 true (64 * s.get fFltRtsAddr_addr) 1280 := ⟨_, rfl⟩
    rw [← ht] at hreqs hcoh hregs hsec htw
    obtain ⟨e, he⟩ : ∃ e, e = (if b = true ∧ img.length = 1280 then s.rtsError img else 7) := ⟨_, rfl⟩
    have hlt : e < 16 := by
      rw [he]
      split
      · exact State.rtsError_lt ..
      · decide
    obtain ⟨herr, hbusy, hret, hout', hw⟩ := t.rtsDone_spec hlt
    have hexec : exec (.rtsGo img b) s = .next (t.rtsDone e) := by
      rw [rtsGo_reads (t := t) b hout hread (by rw [State.flag_of_get hhost, ht]) (by rw [hcoh]; exact htxs),
        State.rtsRead_host b ((State.get_of_regs hregs _).trans hhost)
          (by rw [State.linkUp, State.flag, State.get_of_regs hregs]; exact hup),
        State.rtsError_congr hregs (by rw [hsec]), he]
    refine ⟨_, e, hexec, he, herr, hbusy, ?_, fun i hi => hout' _ (hreqs i hi), (htw.mono (by simp)).trans (hw.mono (by simp))⟩
    rw [hret, htw.2 .flt (by simp)]

end Sys2Proof.Machine

/-! SUPPORT. The budget exchange (R425 to R428, R442, R445). -/

namespace Sys2Proof.Machine

set_option Elab.async false

/-! ## The power record of a die -/

theorem State.powerDie_of_power {s t : State} (h : t.power = s.power) (d : Nat) : t.powerDie d = s.powerDie d := by
  rw [State.powerDie, h, State.powerDie]

@[simp] theorem State.powerDie_setPowerDie_same (s : State) (d : Nat) (x : PowerDie) : (s.setPowerDie d x).powerDie d = x :=
  mapGet_mapSet_same ..

theorem State.powerDie_setPowerDie_ne (s : State) {d e : Nat} (x : PowerDie) (h : e ≠ d) : (s.setPowerDie d x).powerDie e = s.powerDie e :=
  mapGet_mapSet_ne _ _ _ h

theorem State.setPowerDie_within (s : State) (d : Nat) (x : PowerDie) : Within [.power] s (s.setPowerDie d x) :=
  (Within.refl [.power] s).setPower _

/-! ## Work that is aborted -/

/-- The fields below the dies' spaces that no event writes are none that an aborted self-test writes. -/
def Fld.beforeDies (g : Fld) : Prop := g.key < 0x800000 * 64 ∧ g.offEvents = true

theorem Fld.beforeDies.ne {g : Fld} (hg : g.beforeDies) {k : RegKind} (d i lo w : Nat) (hk : k.space = .die := by rfl) :
    g.key ≠ (Fld.mk (k.addr d i) lo w).key := by
  have hlt := hg.1
  have haddr := RegKind.le_addr_of_die d i hk
  simp only [Fld.key] at hlt ⊢
  omega

theorem State.get_stopSlice {g : Fld} (hg : g.beforeDies) (s : State) (r : SliceRun) (ns : Nat) : (s.stopSlice r ns).get g = s.get g := by
  have hrunning : g.key ≠ (fAwlStatus_running r.die).key := hg.ne (k := kAwlStatus) _ _ _ _
  have htime : g.key ≠ (fAwlTime_ns r.die r.kind).key := hg.ne (k := kAwlTime) _ _ _ _
  have htile : g.key ≠ (fTileState_state (tileDie (sliceTile r.die r.unit)) (tileSite (sliceTile r.die r.unit))).key :=
    hg.ne (k := kTileState) _ _ _ _
  have hregs : (s.setAwl { s.awl with running := s.awl.running.erase r }).regs = s.regs := rfl
  unfold State.stopSlice
  extract_lets a u v t
  have hv : v.get g = s.get g := by
    refine (State.get_set_ne (u.setBitOf (fAwlStatus_running r.die) r.kind false) _ htime).trans ?_
    rw [State.get_setBitOf_ne _ _ _ hrunning, State.get_of_regs hregs]
  clear_value v
  split
  · rw [State.setTileCode, State.get_set_ne _ _ htile, hv]
  · exact hv

theorem State.get_passEnds {g : Fld} (hg : g.beforeDies) (s : State) (d k unit : Nat) : (s.passEnds d k unit).get g = s.get g := by
  have hpos : g.key ≠ (fAwlPos_passes d k).key := hg.ne (k := kAwlPos) _ _ _ _
  have hpass : g.key ≠ (fAwlPass_results d k).key ∧ g.key ≠ (fAwlPass_deficit d k).key :=
    ⟨hg.ne (k := kAwlPass) _ _ _ _, hg.ne (k := kAwlPass) _ _ _ _⟩
  have hlast : g.key ≠ (fAwlLast_results d k).key ∧ g.key ≠ (fAwlLast_failed d k).key ∧ g.key ≠ (fAwlLast_deficit d k).key :=
    ⟨hg.ne (k := kAwlLast) _ _ _ _, hg.ne (k := kAwlLast) _ _ _ _, hg.ne (k := kAwlLast) _ _ _ _⟩
  unfold State.passEnds
  split
  · rfl
  · extract_lets res deficit failed u a v
    have hu : u.get g = s.get g := State.get_setAll_ne _ _ _ (by simp [hpass, hlast])
    clear_value u
    have hv : v.regs = u.regs := rfl
    clear_value v
    rw [State.get_event hg.2, State.get_bump_ne _ _ hpos, State.get_of_regs hv, hu]

theorem State.get_abortSlice {g : Fld} (hg : g.beforeDies) (s : State) (r : SliceRun) : (s.abortSlice r).get g = s.get g := by
  have hdeficit : g.key ≠ (fAwlPass_deficit r.die r.kind).key := hg.ne (k := kAwlPass) _ _ _ _
  rw [State.abortSlice, State.attemptDeficit, State.get_passEnds hg, State.addTo, State.get_set_ne _ _ hdeficit, State.get_stopSlice hg]

theorem State.get_abortSlices {g : Fld} (hg : g.beforeDies) (s : State) (f : SliceRun → Bool) : (s.abortSlices f).get g = s.get g :=
  State.get_foldl (fun s r => s.get_abortSlice hg r) _ _

/-- No slice that satisfies the condition runs on. -/
theorem State.running_abortSlices (s : State) (f : SliceRun → Bool) : ∀ r ∈ (s.abortSlices f).awl.running, r ∈ s.awl.running ∧ f r = false := by
  have hfold : ∀ (l : List SliceRun) (u : State), (l.foldl State.abortSlice u).awl.running = l.foldl List.erase u.awl.running := by
    intro l
    induction l with
    | nil => exact fun _ => rfl
    | cons r l ih =>
      intro u
      obtain ⟨m, hm⟩ := u.abortSlice_awl r
      rw [List.foldl_cons, ih, hm, List.foldl_cons]
  have hdiff : ∀ (l m : List SliceRun) (r : SliceRun), r ∈ l.foldl List.erase m → m.count r > l.count r := by
    intro l
    induction l with
    | nil => exact fun m r hr => by simpa using List.count_pos_iff.2 hr
    | cons a l ih =>
      intro m r hr
      have hlt := ih _ _ hr
      rw [List.count_erase] at hlt
      rw [List.count_cons]
      grind
  intro r hr
  rw [State.abortSlices, hfold] at hr
  have hcount := hdiff _ _ _ hr
  refine ⟨List.count_pos_iff.1 (by omega), ?_⟩
  by_contra hf
  rw [List.count_filter (by simpa using hf)] at hcount
  omega

/-! ## The throttle reasons -/

theorem State.updateReason_power (s : State) (r : Nat) : ∃ m, (s.updateReason r).power = { s.power with since := m } := by
  unfold State.updateReason
  extract_lets ds was u p v t w x y
  split
  · have hv : v.power = { s.power with since := mapSet 0 s.power.since r (s.clock.now + 1) } := rfl
    clear_value v
    exact ⟨_, by rw [State.fire_power, State.event_power, hv]⟩
  · split
    · have hy : y.power = { s.power with since := mapSet 0 s.power.since r 0 } := rfl
      clear_value y
      exact ⟨_, by rw [State.event_power, hy]⟩
    · exact ⟨_, rfl⟩

theorem State.updateThrottle_power (s : State) : ∃ m, s.updateThrottle.power = { s.power with since := m } := by
  have hreasons : ∀ (l : List Nat) (u : State), ∃ m, (l.foldl State.updateReason u).power = { u.power with since := m } := by
    intro l
    induction l with
    | nil => exact fun u => ⟨_, rfl⟩
    | cons r l ih =>
      intro u
      obtain ⟨m, hm⟩ := ih (u.updateReason r)
      obtain ⟨m', hm'⟩ := u.updateReason_power r
      exact ⟨m, by rw [List.foldl_cons, hm, hm']⟩
  obtain ⟨m, hm⟩ := hreasons (List.range 7) s
  refine ⟨m, Eq.trans ?_ hm⟩
  rw [State.updateThrottle]
  exact (Keeps.foldl (Keeps.refl 1 _) fun u _ => (State.set_keeps u _ _)).power (by decide)

/-! ## Missed grants -/

/-- A die that misses its grant is marked, and its counter counts. -/
def State.missGrant (s : State) (d : Nat) : State :=
  (s.bump (fPwrDieB_grant_missed d) 1).setPowerDie d { s.powerDie d with missed := true }

theorem State.missGrants_one (s : State) (d : Nat) :
    s.missGrants [d] = (s.missGrant d).event 0x1B 0x47 (2 ^ d) ((s.missGrant d).stitch % 2 ^ 32) := by
  rw [State.missGrants, if_neg (by simp)]
  simp only [List.foldl_cons, List.foldl_nil, List.map_cons, List.map_nil, Nat.zero_add]
  rfl

theorem Fld.grantMissed_offEvents {d : Nat} (hd : d < 8) : (fPwrDieB_grant_missed d).offEvents = true := by
  have hall : ∀ d < 8, (fPwrDieB_grant_missed d).offEvents = true := by decide
  exact hall d hd

theorem State.lacksGrant_iff (s : State) (d : Nat) : s.lacksGrant d = true ↔ s.power.exchanged = true ∧ (s.powerDie d).grant = none ∧
    (s.powerDie d).missed = false ∧ s.recovering d = false := by
  simp [State.lacksGrant, and_assoc]

section Exchange
variable {s : State}

theorem execGrantDeadline_one {d : Nat} (hd : d < 8) (h : ∀ e < 8, s.lacksGrant e = true ↔ e = d) :
    ∃ u, exec .grantDeadline s = .next u ∧ u.powerDie d = { s.powerDie d with missed := true } ∧
      u.get (fPwrDieB_grant_missed d) = satAdd (fPwrDieB_grant_missed d).width (s.get (fPwrDieB_grant_missed d)) 1 ∧
      (∀ e, e ≠ d → u.powerDie e = s.powerDie e) ∧ Within [.regs, .power, .uci, .flt, .out] s u ∧
      RegsKept (fPwrDieB_grant_missed d :: eventFields s) s u := by
  have hlist : (List.range 8).filter s.lacksGrant = [d] := by
    have hcongr : (List.range 8).filter s.lacksGrant = (List.range 8).filter (fun e => e == d) :=
      List.filter_congr fun e he => by rw [Bool.eq_iff_iff, h e (List.mem_range.1 he), beq_iff_eq]
    rw [hcongr]
    have hall : ∀ d < 8, (List.range 8).filter (fun e => e == d) = [d] := by decide
    exact hall d hd
  have hexec : exec .grantDeadline s = .next (s.missGrants [d]) := congrArg Host.Outcome.next (by rw [hlist])
  rw [State.missGrants_one] at hexec
  obtain ⟨v, hv⟩ : ∃ v, v = s.missGrant d := ⟨_, rfl⟩
  rw [← hv] at hexec
  have hregs : v.regs = (s.bump (fPwrDieB_grant_missed d) 1).regs := by rw [hv]; rfl
  have hkept : RegsKept [fPwrDieB_grant_missed d] s v :=
    ((RegsKept.refl _ s).bump 1 (by simp)).trans (RegsKept.of_eq hregs)
  have hw : Within [.regs, .power] s v :=
    hv ▸ ((State.bump_within ..).mono (by simp)).trans ((State.setPowerDie_within ..).mono (by simp))
  have hdie : ∀ e, (v.event 0x1B 0x47 (2 ^ d) (v.stitch % 2 ^ 32)).powerDie e = v.powerDie e := fun e =>
    State.powerDie_of_power (State.event_power ..) e
  refine ⟨_, hexec, ?_, ?_, fun e he => ?_, (hw.mono (by simp)).trans ((State.event_within ..).mono (by decide)), ?_⟩
  · rw [hdie, hv]
    exact State.powerDie_setPowerDie_same ..
  · rw [State.get_event (Fld.grantMissed_offEvents hd), State.get_of_regs hregs, State.get_bump_same]
  · rw [hdie, hv]
    exact State.powerDie_setPowerDie_ne _ _ he
  · refine (hkept.event (by simpa using Fld.grantMissed_offEvents hd) 0x1B 0x47 (2 ^ d) (v.stitch % 2 ^ 32) none).mono fun f hf => ?_
    rw [List.mem_append, List.mem_singleton] at hf
    exact List.mem_cons.2 hf.symm

/-- BUDGET_GUARD (R427): the die drops to the lowest state, and its self-tests stop. -/
theorem execBudgetGuard_spec (d : Die) (h : s.mustCrawl d = false) :
    ∃ u, exec (.budgetGuard d) s = .next u ∧ u.get (fPwrDieA_state d) = 36 ∧ (u.powerDie d).guarded = true ∧
      (∀ r ∈ u.awl.running, r.die ≠ d) ∧ Within [.regs, .power, .awl, .uci, .flt, .out] s u := by
  obtain ⟨v, hv⟩ : ∃ v, v = (s.set (fPwrDieA_state d) lowest).setPowerDie d { s.powerDie d with guarded := true } := ⟨_, rfl⟩
  have hexec : exec (.budgetGuard d) s = .next v.leaveWindow.updateThrottle := by
    rw [hv]
    exact if_neg (by simp [h])
  have hstate : v.get (fPwrDieA_state d) = 36 := by
    have hregs : v.regs = (s.set (fPwrDieA_state d) lowest).regs := by rw [hv]; rfl
    rw [State.get_of_regs hregs, State.get_set_same]
    rfl
  have hguarded : (v.powerDie d).guarded = true := by
    rw [hv, State.powerDie_setPowerDie_same]
  have hbefore : (fPwrDieA_state d).beforeDies ∧ (fPwrDieA_state d).offThrottle = true := by
    have hall : ∀ d < 8, ((fPwrDieA_state d).key < 0x800000 * 64 ∧ (fPwrDieA_state d).offEvents = true) ∧
        (fPwrDieA_state d).offThrottle = true := by decide
    exact hall d d.isLt
  have hw : Within [.regs, .power, .awl, .uci, .flt, .out] s v :=
    hv ▸ ((s.set_within _ _).mono (by simp)).trans ((State.setPowerDie_within ..).mono (by simp))
  have hleave : Within [.regs, .awl, .uci, .flt, .out] v v.leaveWindow := (v.abortSlices_keeps _).within
  have hthrottle : Within [.regs, .power, .uci, .flt, .out] v.leaveWindow v.leaveWindow.updateThrottle :=
    (v.leaveWindow.updateThrottle_keeps).within
  refine ⟨_, hexec, ?_, ?_, fun r hr hdie => ?_, hw.trans ((hleave.mono (by simp)).trans (hthrottle.mono (by simp)))⟩
  · rw [State.get_updateThrottle hbefore.2, State.leaveWindow, State.get_abortSlices hbefore.1, hstate]
  · obtain ⟨m, hm⟩ := v.leaveWindow.updateThrottle_power
    rw [State.powerDie, hm]
    dsimp only
    rw [hleave.2 .power (by simp)]
    exact hguarded
  · rw [hthrottle.2 .awl (by simp)] at hr
    have hwindow := (v.running_abortSlices _ r hr).2
    rw [hdie, State.sliceWindow, hstate] at hwindow
    simp at hwindow

end Exchange

/-- Settles O44: a die asks, the coordinator shares, a grant that has not come is missed, and the guard drops the die. -/
theorem budgetExchange : Obligations.BudgetExchange := by
  unfold Obligations.BudgetExchange
  refine ⟨?_, ?_, ?_, ?_, ?_, ?_, ?_, ?_, ?_, ?_, ?_⟩
  · intro s d w hdev hrec hw
    have hexec : exec (.budgetRequest d) s = .next ((s.set (fPwrDieB_demand_w d) (min 65535 (w / 1000))).setPowerDie d
        { s.powerDie d with request := some w, named := s.limitState d }) := by
      rw [hw]
      exact if_neg (by simp [hrec, Option.isSome_iff_ne_none.1 hdev])
    refine ⟨_, hexec, State.powerDie_setPowerDie_same .., ?_, fun e he => State.powerDie_setPowerDie_ne _ _ he,
      ((s.set_within _ _).mono (by simp)).trans ((State.setPowerDie_within ..).mono (by simp)), ?_⟩
    · refine (State.get_set_same ..).trans (Nat.mod_eq_of_lt ?_)
      rw [show (fPwrDieB_demand_w d).width = 16 from rfl]
      omega
    · exact (RegsKept.refl _ s).set _ (by simp)
  · intro s d h
    exact if_pos (by obtain h | h := h <;> simp [h])
  · exact fun s h => if_pos (by simp [h])
  · intro s hdev
    exact ⟨_, if_neg (by simp [Option.isSome_iff_ne_none.1 hdev]), rfl, rfl, rfl, (Within.refl [.power] s).setPower _⟩
  · intro s d w hway
    obtain ⟨v, hv⟩ : ∃ v, v = s.setPower { s.power with onWay := [] } := ⟨_, rfl⟩
    have hexec : exec (.budgetGrant d) s = .next (if (v.powerDie d).missed then v else v.setPowerDie d { v.powerDie d with grant := some w }) := by
      show execBudgetGrant d s = _
      rw [execBudgetGrant, hway, hv]
      simp
    have hdie : v.powerDie d = s.powerDie d := by rw [hv]; rfl
    have hempty : v.power.onWay = [] := by rw [hv]; rfl
    have hvw : Within [.power] s v := hv ▸ (Within.refl [.power] s).setPower _
    rw [hdie] at hexec
    refine ⟨_, hexec, ?_, ?_, ?_⟩
    · split <;> exact hempty
    · split
      · rw [hdie]
      · rw [State.powerDie_setPowerDie_same]
    · split
      · exact hvw
      · exact hvw.trans (State.setPowerDie_within ..)
  · intro s d h
    have hnone : s.power.onWay.find? (fun e => e.1 == d.val) = none := List.find?_eq_none.2 fun e he => by simpa using h e he
    show execBudgetGrant d s = _
    rw [execBudgetGrant, hnone]
  · intro s h
    have hnone : (List.range 8).filter s.lacksGrant = [] := List.filter_eq_nil_iff.2 fun e he => by simp [h e (List.mem_range.1 he)]
    refine congrArg Host.Outcome.next ?_
    rw [hnone]
    rfl
  · exact fun s d hd h => execGrantDeadline_one hd h
  · exact fun s d => s.lacksGrant_iff d
  · exact fun s d h => execBudgetGuard_spec d h
  · exact fun s d h => if_pos h

end Sys2Proof.Machine

/-! SUPPORT. How the budget is shared (R426): what every round of sharing keeps. -/

namespace Sys2Proof.Machine

set_option Elab.async false

/-- The grants `r.2` with the rest `r.1` share the budget `b`: nobody is below its floor, nobody above it gets more than it asked for,
and the rest stays what the grants leave. -/
structure SharesBudget (want : Nat → Option Nat) (base : Nat → Nat) (b : Nat) (r : Nat × List Nat) : Prop where
  len : r.2.length = 8
  floor : ∀ d < 8, base d ≤ r.2.getD d 0
  silent : ∀ d < 8, want d = none → r.2.getD d 0 = base d
  asked : ∀ d w, d < 8 → want d = some w → 1000 * r.2.getD d 0 ≤ max (1000 * base d) w
  within : 1000 * ((List.range 8).map base).sum ≤ b → 1000 * r.2.sum + r.1 ≤ b

theorem getD_map_range {f : Nat → Nat} {n d : Nat} (hd : d < n) : ((List.range n).map f).getD d 0 = f d := by
  simp [List.getD_eq_getElem?_getD, hd]

theorem sum_eq_map_getD {l : List Nat} (h : l.length = 8) : l.sum = ((List.range 8).map (l.getD · 0)).sum := by
  congr 1
  exact List.ext_getElem (by simp [h]) fun i hi _ => by simp [hi]

/-- Shares in proportion to the weights never exceed what is shared. -/
theorem sum_proportion_le (l : List Nat) (a : Nat → Nat) (r : Nat) :
    (l.map fun d => r * a d / (l.map a).sum).sum ≤ r := by
  obtain htot | htot := Nat.eq_zero_or_pos (l.map a).sum
  · simp [htot]
  refine Nat.le_of_mul_le_mul_left ?_ htot
  calc (l.map a).sum * (l.map fun d => r * a d / (l.map a).sum).sum
      = (l.map fun d => (l.map a).sum * (r * a d / (l.map a).sum)).sum := (List.sum_map_mul_left ..).symm
    _ ≤ (l.map fun d => r * a d).sum := List.sum_le_sum fun d _ => Nat.mul_div_le ..
    _ = (l.map a).sum * r := by rw [List.sum_map_mul_left, Nat.mul_comm]

section Round
variable (want : Nat → Option Nat) (r : Nat × List Nat)

/-- What die `d` still asks for, and its share of a round. -/
def askedAbove (d : Nat) : Nat := match want d with | some w => w - 1000 * r.2.getD d 0 | none => 0
def roundShare (d : Nat) : Nat :=
  min (r.1 * askedAbove want r d / ((List.range 8).map (askedAbove want r)).sum) (askedAbove want r d) / 1000

theorem roundShare_eq (d : Nat) : roundShare want r d =
    min (r.1 * askedAbove want r d / ((List.range 8).map (askedAbove want r)).foldl (· + ·) 0) (askedAbove want r d) / 1000 := by
  rw [roundShare, List.sum_eq_foldl]

theorem shareRound_eq : shareRound want r = r ∨
    shareRound want r = (r.1 - 1000 * ((List.range 8).map (roundShare want r)).sum,
      (List.range 8).map fun d => r.2.getD d 0 + roundShare want r d) := by
  rw [List.sum_eq_foldl]
  by_cases h : (decide (r.1 < 1000) || decide (((List.range 8).map (askedAbove want r)).foldl (· + ·) 0 = 0)) = true
  · exact .inl (if_pos h)
  · refine .inr ((if_neg h).trans ?_)
    simp only [funext fun d => roundShare_eq want r d]
    rfl

theorem sum_roundShare_le : 1000 * ((List.range 8).map (roundShare want r)).sum ≤ r.1 := by
  rw [← List.sum_map_mul_left]
  refine (List.sum_le_sum fun d _ => ?_).trans (sum_proportion_le (List.range 8) (askedAbove want r) r.1)
  exact (Nat.mul_div_le ..).trans (Nat.min_le_left ..)

theorem roundShare_le (d : Nat) : 1000 * roundShare want r d ≤ askedAbove want r d :=
  (Nat.mul_div_le ..).trans (Nat.min_le_right ..)

variable {want r}

theorem SharesBudget.round {base : Nat → Nat} {b : Nat} (h : SharesBudget want base b r) : SharesBudget want base b (shareRound want r) := by
  obtain heq | heq := shareRound_eq want r
  · rwa [heq]
  rw [heq]
  refine ⟨by simp, fun d hd => ?_, fun d hd hnone => ?_, fun d w hd hsome => ?_, fun hbase => ?_⟩
  · rw [getD_map_range hd]
    exact (h.floor d hd).trans (Nat.le_add_right ..)
  · have hzero : askedAbove want r d = 0 := by rw [askedAbove, hnone]
    have hshare := roundShare_le want r d
    rw [getD_map_range hd, h.silent d hd hnone]
    omega
  · have habove : askedAbove want r d = w - 1000 * r.2.getD d 0 := by rw [askedAbove, hsome]
    have hshare := roundShare_le want r d
    have hasked := h.asked d w hd hsome
    rw [getD_map_range hd]
    omega
  · have hsum := sum_roundShare_le want r
    have hwithin := h.within hbase
    rw [sum_eq_map_getD h.len] at hwithin
    rw [List.sum_map_add]
    omega

theorem SharesBudget.shareOut {base : Nat → Nat} {b : Nat} (n : Nat) (h : SharesBudget want base b r) :
    ∃ k, SharesBudget want base b (k, shareOut want n r) := by
  induction n generalizing r with
  | zero => exact ⟨r.1, h⟩
  | succ n ih =>
    rw [Sys2Proof.Machine.shareOut]
    split
    · exact ⟨r.1, h⟩
    · exact ih h.round

end Round

/-- Settles O45: the invariant of the rounds, from the floors that the allocator starts with. -/
theorem budgetShares : Obligations.BudgetShares := by
  unfold Obligations.BudgetShares
  intro s base hbase
  have hg : (List.range 8).map (fun d => if s.recovering d then 100 else s.floorBudget) = (List.range 8).map base :=
    List.map_congr_left fun d _ => (hbase d).symm
  have hstart : SharesBudget (fun d => if s.recovering d then none else (s.powerDie d).request) base s.budgetMw
      (s.budgetMw - 1000 * ((List.range 8).map base).sum, (List.range 8).map base) := by
    refine ⟨by simp, fun d hd => ?_, fun d hd _ => ?_, fun d w hd _ => ?_, fun h => ?_⟩
    · rw [getD_map_range hd]
    · rw [getD_map_range hd]
    · rw [getD_map_range hd]
      exact Nat.le_max_left ..
    · exact le_of_eq (by dsimp only; omega)
  obtain ⟨k, hshares⟩ := hstart.shareOut 5400
  have halloc : s.allocate = shareOut (fun d => if s.recovering d then none else (s.powerDie d).request) 5400
      (s.budgetMw - 1000 * ((List.range 8).map base).sum, (List.range 8).map base) := by
    rw [State.allocate, hg, ← List.sum_eq_foldl]
  rw [← halloc] at hshares
  refine ⟨hshares.len, hshares.floor, fun d hd hrec => ?_, fun d hd hnone => ?_, fun d w hd hsome => ?_, fun h => ?_⟩
  · rw [show s.allocate.getD d 0 = base d from hshares.silent d hd (if_pos hrec), hbase, if_pos hrec]
  · exact hshares.silent d hd (by rw [hnone, ite_self])
  · by_cases hrec : s.recovering d = true
    · rw [show s.allocate.getD d 0 = base d from hshares.silent d hd (if_pos hrec)]
      exact Nat.le_max_left ..
    · exact hshares.asked d w hd ((if_neg hrec).trans hsome)
  · exact (Nat.le_add_right ..).trans (hshares.within h)

end Sys2Proof.Machine

/-! SUPPORT. The life-cycle commands (R474 to R478). -/

namespace Sys2Proof.Machine

set_option Elab.async false

/-! ## Images -/

section Images
variable {s t : State}

theorem State.imageReady_of (r : Nat) (h : ∀ x ∈ s.coh.txs, Purpose.image r ∉ x.wants) : s.imageReady r = true := by
  rw [State.imageReady, List.all_eq_true]
  exact fun x hx => by simpa using h x hx

/-- An image that nothing is still read for is checked at once. -/
theorem State.readThen_now {w : ImageWait} {host : Bool} {addr len : Nat} {hold run : State → State}
    (ht : t = s.startImage w.reader host addr len) (htxs : ∀ x ∈ t.coh.txs, Purpose.image w.reader ∉ x.wants) :
    s.readThen w host addr len hold run = run t := by
  rw [State.readThen, ← ht]
  exact if_pos (State.imageReady_of _ htxs)

theorem State.readThen_waits {w : ImageWait} {host : Bool} {addr len : Nat} {hold run : State → State}
    (ht : t = s.startImage w.reader host addr len) (htxs : ∃ x ∈ t.coh.txs, Purpose.image w.reader ∈ x.wants) :
    s.readThen w host addr len hold run = hold (t.setSec { t.sec with reading := t.sec.reading ++ [w] }) := by
  rw [State.readThen, ← ht]
  refine if_neg ?_
  obtain ⟨x, hx, hwant⟩ := htxs
  rw [State.imageReady, List.all_eq_true]
  intro h
  simpa [hwant] using h x hx

theorem State.fetchImage_host {img : List Byte} {addr len : Nat} (hlen : img.length = len) (hup : t.linkUp = true) :
    t.fetchImage true addr len img true = (some img, t) := by
  rw [State.fetchImage]
  simp [hlen, hup]

theorem State.startImage_sec (s : State) (reader : Nat) (host : Bool) (addr len : Nat) (hdir : s.coh.dir = []) :
    (s.startImage reader host addr len).sec = { s.sec with badReads := s.sec.badReads.filter fun r => r != reader } ∧
    (s.startImage reader host addr len).coh = s.coh ∧ (s.startImage reader host addr len).regs = s.regs ∧
    Within [.sec, .out] s (s.startImage reader host addr len) := by
  have hw : Within [.sec] s (s.setBadReads (s.sec.badReads.filter fun r => r != reader)) := (State.setBadReads_keeps ..).within
  cases host with
  | false =>
    rw [State.startImage_dram _ _ _ _ hdir]
    exact ⟨rfl, rfl, rfl, hw.mono (by simp)⟩
  | true =>
    by_cases hup : s.linkUp = true
    · obtain ⟨-, hcoh, hregs, hsec, htw⟩ := s.startImage_host reader addr len hup
      exact ⟨hsec, hcoh, hregs, htw⟩
    · rw [show s.startImage reader true addr len = s.setBadReads (s.sec.badReads.filter fun r => r != reader) from if_neg hup]
      exact ⟨rfl, rfl, rfl, hw.mono (by simp)⟩

end Images

/-! ## Checks of a command -/

section Checks
variable {s t : State} {img : List Byte}

theorem State.keyOk_congr (hfuses : t.sec.fuses = s.sec.fuses) (slot : Nat) (sig : List Byte) : t.keyOk slot sig = s.keyOk slot sig := by
  rw [State.keyOk, State.slotHash, hfuses]
  rfl

theorem State.commandError_congr (hregs : t.regs = s.regs) (hfuses : t.sec.fuses = s.sec.fuses) (want : Nat) (img : List Byte) :
    t.commandError want img = s.commandError want img := by
  simp only [State.commandError, State.keyOk_congr hfuses, State.get_of_regs hregs, hfuses]

theorem State.commandError_state {want code : Nat} (hcode : code = field img 6 1) (hlo : 1 ≤ code) (hhi : code ≤ 5)
    (h : s.sec.fuses.lc = 0 ∨ s.sec.fuses.lc = 4 ∨ (code = 1 ∧ s.sec.fuses.lc ≠ 1) ∨ (code = 2 ∧ s.sec.fuses.lc ≠ 2)) :
    s.commandError want img = 1 := by
  have hslot : commandSlot s.sec.fuses.lc code = none := by
    have hcases : code = 1 ∨ code = 2 ∨ code = 3 ∨ code = 4 ∨ code = 5 := by omega
    rcases h with h | h | ⟨rfl, h⟩ | ⟨rfl, h⟩
    · rcases hcases with rfl | rfl | rfl | rfl | rfl <;> simp [commandSlot, h]
    · rcases hcases with rfl | rfl | rfl | rfl | rfl <;> simp [commandSlot, h]
    · simp [commandSlot, h]
    · simp [commandSlot, h]
  refine if_pos ?_
  rw [← hcode, hslot]
  simp [hlo, hhi]

theorem State.commandError_magic {want : Nat} (h : field img 0 4 ≠ 0x4359434C) : s.commandError want img = 1 ∨ s.commandError want img = 2 := by
  unfold State.commandError
  extract_lets code sig steps hash f known floor now
  split
  · exact .inl rfl
  · exact .inr (if_pos (by simp [h]))

/-- A list of checks passes only where its first passes. -/
theorem passed_first {c : Prop} [Decidable c] {e x : Nat} (he : e ≠ 0) (h : (if c then e else x) = 0) : ¬c ∧ x = 0 := by
  split at h
  next => exact absurd h he
  next hc => exact ⟨hc, h⟩

/-- RAISE_LAST_FLOOR passes only with its own code, a floor above the present one and at most 32, the challenge and the serial number. -/
theorem State.commandError_floor (h : field img 6 1 ≠ 4 ∨ field img 0x18 1 ≤ s.sec.fuses.lastSteps ∨ 32 < field img 0x18 1 ∨
    field img 0x10 8 ≠ s.get fSecChal_challenge ∨ field img 8 8 ≠ serial) : s.commandError 4 img ≠ 0 := by
  intro hzero
  unfold State.commandError at hzero
  extract_lets code sig steps hash f known floor now at hzero
  obtain ⟨-, hzero⟩ := passed_first (by decide) hzero
  obtain ⟨hform, hzero⟩ := passed_first (by decide) hzero
  obtain ⟨-, hzero⟩ := passed_first (by decide) hzero
  obtain ⟨-, hzero⟩ := passed_first (by decide) hzero
  obtain ⟨hserial, hzero⟩ := passed_first (by decide) hzero
  obtain ⟨hchallenge, hzero⟩ := passed_first (by decide) hzero
  obtain ⟨hsteps, -⟩ := passed_first (by decide) hzero
  have hcode : code = 4 := by
    by_contra hne
    exact hform (by simp [hne])
  have hfloor : floor = true := by simp [floor, hcode]
  have hnow : now = s.sec.fuses.lastSteps := if_pos hcode
  rw [hfloor, hnow, hcode] at hsteps
  obtain h | h | h | h | h := h
  · exact h hcode
  · exact hsteps (by simp [steps, h])
  · exact hsteps (by simp [steps, h])
  · exact hchallenge h
  · exact hserial (by simp [h])

end Checks

/-! ## Commands -/

section Commands
variable {s t : State} {img : List Byte}

theorem State.lifeCommand_busy (want : Option Nat) (img : List Byte) (b : Bool) (h : s.get fSecCmdStatus_busy = 1) :
    s.lifeCommand want img b = s.set fSecCmdStatus_busy_go 1 := if_pos (State.flag_of_get h)

theorem State.lifeCommand_now (want : Option Nat) (img : List Byte) (b : Bool) (h : s.get fSecCmdStatus_busy = 0)
    (ht : t = s.startImage 1 (s.flag fSecCmdCtrl_host) (64 * s.get fSecCmdAddr_addr) 1280)
    (htxs : ∀ x ∈ t.coh.txs, Purpose.image 1 ∉ x.wants) : s.lifeCommand want img b = t.lifeRead want img b :=
  (if_neg (by simp [State.flag_of_get_zero h])).trans (State.readThen_now (w := ⟨1, want, img, b⟩) ht htxs)

/-- A command whose image has been read whole is accepted or refused with the first failing check (R475, R476). -/
theorem State.lifeRead_host {n : Nat} (hhost : t.get fSecCmdCtrl_host = 1) (hup : t.linkUp = true) (hlen : img.length = 1280) :
    t.lifeRead (some n) img true = if t.commandError n img = 0 then
      ((t.set fSecCmdStatus_error 0).newChallenge fSecChal_challenge).acceptCommand img
    else ((t.set fSecCmdStatus_error (t.commandError n img)).newChallenge fSecChal_challenge).event 0x1C 0x81 n (t.commandError n img) := by
  rw [State.lifeRead, State.flag_of_get hhost, State.fetchImage_host hlen hup]
  dsimp only [Option.getD_some]
  cases t.commandError n img with
  | zero => rfl
  | succ e => rfl

theorem State.lifeCommand_host {n : Nat} (hbusy : s.get fSecCmdStatus_busy = 0) (hhost : s.get fSecCmdCtrl_host = 1)
    (hlen : img.length = 1280) (hup : s.linkUp = true) (htxs : ∀ x ∈ s.coh.txs, Purpose.image 1 ∉ x.wants)
    (ht : t = s.startImage 1 true (64 * s.get fSecCmdAddr_addr) 1280) :
    s.lifeCommand (some n) img true = if s.commandError n img = 0 then
      ((t.set fSecCmdStatus_error 0).newChallenge fSecChal_challenge).acceptCommand img
    else ((t.set fSecCmdStatus_error (s.commandError n img)).newChallenge fSecChal_challenge).event 0x1C 0x81 n (s.commandError n img) := by
  obtain ⟨-, hcoh, hregs, hsec, -⟩ := s.startImage_host 1 (64 * s.get fSecCmdAddr_addr) 1280 hup
  rw [← ht] at hcoh hregs hsec
  rw [State.lifeCommand_now (t := t) _ _ _ hbusy (by rw [State.flag_of_get hhost]; exact ht) (by rw [hcoh]; exact htxs),
    State.lifeRead_host ((State.get_of_regs hregs _).trans hhost)
      (by rw [State.linkUp, State.flag, State.get_of_regs hregs]; exact hup) hlen,
    State.commandError_congr hregs (by rw [hsec])]

/-- A command whose image could not be read fails with 8, and a new challenge is drawn all the same (R476). -/
theorem State.lifeRead_unread (t : State) (n : Nat) (img : List Byte) : t.lifeRead (some n) img false =
    ((t.set fSecCmdStatus_error 8).newChallenge fSecChal_challenge).event 0x1C 0x81 n 8 := by
  have hnone : ∀ host addr, t.fetchImage host addr 1280 img false = (none, t) := fun _ _ => rfl
  simp only [State.lifeRead, hnone, Option.getD_some]

theorem State.lifeRead_unread_spec (t : State) (n : Nat) (img : List Byte) (hbusy : t.get fSecCmdStatus_busy = 0) :
    (t.lifeRead (some n) img false).get fSecCmdStatus_error = 8 ∧ (t.lifeRead (some n) img false).get fSecCmdStatus_busy = 0 ∧
    (t.lifeRead (some n) img false).sec = t.sec ∧ Within [.regs, .uci, .flt, .out, .free] t (t.lifeRead (some n) img false) := by
  rw [State.lifeRead_unread]
  obtain ⟨v, hv⟩ : ∃ v, v = (t.set fSecCmdStatus_error 8).newChallenge fSecChal_challenge := ⟨_, rfl⟩
  have hregs : v.regs = ((t.set fSecCmdStatus_error 8).set fSecChal_challenge (t.set fSecCmdStatus_error 8).draw.1).regs := by rw [hv]; rfl
  have hsec : v.sec = t.sec := by rw [hv]; rfl
  have hw : Within [.regs, .free] t v := hv ▸ ((t.set_within _ _).mono (by simp)).trans (State.newChallenge_keeps ..).within
  rw [← hv]
  refine ⟨?_, ?_, ?_, (hw.mono (by simp)).trans ((State.event_within ..).mono (by decide))⟩
  · rw [State.get_event (by decide), State.get_of_regs hregs, State.get_set_ne _ _ (by decide), State.get_set_same]
    rfl
  · rw [State.get_event (by decide), State.get_of_regs hregs, State.get_set_ne _ _ (by decide), State.get_set_ne _ _ (by decide), hbusy]
  · rw [State.event_sec, hsec]

/-! ## Accepted commands -/

theorem State.startTransition_spec (s : State) (lc : Nat) (owner : List Byte) :
    (s.startTransition lc owner).sec.transition = some lc ∧ (s.startTransition lc owner).sec.newOwner = owner ∧
    (s.startTransition lc owner).sec.fuses = s.sec.fuses := by
  obtain ⟨v, hv⟩ : ∃ v, v = (s.setSec { s.sec with transition := some lc, newOwner := owner }).set fSecLc_transition 1 := ⟨_, rfl⟩
  have hburns : v.sec.transition = some lc ∧ v.sec.newOwner = owner ∧ v.sec.fuses = s.sec.fuses := by
    rw [hv]
    exact ⟨rfl, rfl, rfl⟩
  have heq : s.startTransition lc owner = if v.flag fFltStatus_device_recovering then v.abortLoad else v.resetDevice 0 := by
    rw [hv]
    rfl
  have hkept : ∀ u : State, Comp.burns.same v u → Comp.fuses.same v u →
      u.sec.transition = some lc ∧ u.sec.newOwner = owner ∧ u.sec.fuses = s.sec.fuses := by
    rintro u ⟨htrans, howner, -⟩ hfuses
    obtain ⟨htrans', howner', hfuses'⟩ := hburns
    exact ⟨htrans.trans htrans', howner.trans howner', Eq.trans hfuses hfuses'⟩
  rw [heq]
  split
  · exact hkept _ (Keeps.same (v.abortLoad_keeps) (by decide)) (Keeps.same (v.abortLoad_keeps) (by decide))
  · exact hkept _ (Keeps.same (v.resetDevice_keeps 0) (by decide)) (Keeps.same (v.resetDevice_keeps 0) (by decide))

theorem State.acceptCommand_floor (h : field img 6 1 = 4 ∨ field img 6 1 = 5) : s.acceptCommand img =
    (s.set fSecCmdStatus_busy 1).setSec { s.sec with floorBurn := some (if field img 6 1 = 4 then 0 else 1, field img 0x18 1) } := by
  obtain h | h := h
  · rw [State.acceptCommand, h]
    rfl
  · rw [State.acceptCommand, h]
    rfl

theorem State.acceptCommand_transition (h : field img 6 1 = 1 ∨ field img 6 1 = 2 ∨ field img 6 1 = 3) : s.acceptCommand img =
    (s.set fSecCmdStatus_busy 1).startTransition (field img 6 1 + 1) (if field img 6 1 = 1 then slice img 0x20 32 else []) := by
  obtain h | h | h := h
  · rw [State.acceptCommand, h]
    rfl
  · rw [State.acceptCommand, h]
    rfl
  · rw [State.acceptCommand, h]
    rfl

end Commands

/-! ## Reads that the halves must answer first -/

section Waits
variable {s : State}

/-- A write of the security state off its fuses, its flash and what burns. -/
theorem State.setSec_within (s : State) (x : SecSt) (hfuses : x.fuses = s.sec.fuses := by rfl) (hflash : x.flash = s.sec.flash := by rfl)
    (htrans : x.transition = s.sec.transition := by rfl) (howner : x.newOwner = s.sec.newOwner := by rfl)
    (hburn : x.floorBurn = s.sec.floorBurn := by rfl) : Within [.sec] s (s.setSec x) := by
  refine ⟨rfl, fun c hc => ?_⟩
  cases c with
  | sec => simp at hc
  | tile => exact ⟨rfl, rfl, rfl⟩
  | burns => exact ⟨htrans, howner, hburn⟩
  | fuses => exact hfuses
  | flash => exact hflash
  | _ => rfl

/-- A line that a half holds is asked for, in the name of the reader. -/
theorem State.ctlSend_reads (e : DirEnt) (reader : Nat) (hreach : s.mesh.unreachable = []) (hline : lineOf e.bulk e.line = e.line) :
    ∃ x : Tx, .image reader ∈ x.wants ∧ x.addr = e.line ∧
      (s.ctlSend { opcode := 2, addr := e.line, bulk := e.bulk } reader).coh.txs = s.coh.txs ++ [x] ∧
      (s.ctlSend { opcode := 2, addr := e.line, bulk := e.bulk } reader).coh.dir = s.coh.dir ∧
      Within [.coh] s (s.ctlSend { opcode := 2, addr := e.line, bulk := e.bulk } reader) := by
  rw [State.ctlSend, State.openSend, if_neg (by simp [hreach])]
  refine ⟨_, ?_, ?_, rfl, rfl, (Within.refl [.coh] s).setCoh _⟩
  · simp
  · exact hline

theorem State.ctlSends_read (reader : Nat) (l : List DirEnt) (s : State) (hreach : s.mesh.unreachable = [])
    (hline : ∀ e ∈ l, lineOf e.bulk e.line = e.line) {t : State}
    (ht : t = l.foldl (fun s e => s.ctlSend { opcode := 2, addr := e.line, bulk := e.bulk } reader) s) :
    (∀ e ∈ l, ∃ x ∈ t.coh.txs, .image reader ∈ x.wants ∧ x.addr = e.line) ∧ (∀ x ∈ s.coh.txs, x ∈ t.coh.txs) ∧
    t.coh.dir = s.coh.dir ∧ Within [.coh] s t := by
  induction l generalizing s with
  | nil => exact ⟨by simp, by simp [ht], by rw [ht]; rfl, by rw [ht]; exact Within.refl _ _⟩
  | cons e l ih =>
    obtain ⟨x, hwant, haddr, htxs, hdir, hw⟩ := State.ctlSend_reads (s := s) e reader hreach (hline e (by simp))
    have hmesh : (s.ctlSend { opcode := 2, addr := e.line, bulk := e.bulk } reader).mesh.unreachable = [] := by
      rw [hw.2 .mesh (by simp), hreach]
    obtain ⟨hall, hkeep, hdir', hw'⟩ := ih _ hmesh (fun e he => hline e (List.mem_cons_of_mem _ he)) ht
    refine ⟨fun f hf => ?_, fun y hy => hkeep y (by rw [htxs]; exact List.mem_append_left _ hy), hdir'.trans hdir, hw.trans hw'⟩
    obtain rfl | hf := List.mem_cons.1 hf
    · exact ⟨x, hkeep x (by rw [htxs]; simp), hwant, haddr⟩
    · exact hall f hf

theorem State.lifeCommand_waits {a : Nat} (n : Nat) (img : List Byte) (b : Bool) (ha : a = 64 * s.get fSecCmdAddr_addr)
    (hbusy : s.get fSecCmdStatus_busy = 0) (hhost : s.get fSecCmdCtrl_host = 0) (hread : s.canRead a 1280 = true)
    (hheld : s.heldLines a 1280 ≠ []) (hreach : s.mesh.unreachable = []) (hline : ∀ e ∈ s.heldLines a 1280, lineOf e.bulk e.line = e.line) :
    ∃ u, s.lifeCommand (some n) img b = u ∧ u.get fSecCmdStatus_busy = 1 ∧ u.sec.reading = s.sec.reading ++ [⟨1, some n, img, b⟩] ∧
      (∀ e ∈ s.heldLines a 1280, ∃ x ∈ u.coh.txs, .image 1 ∈ x.wants ∧ x.addr = e.line) ∧ u.coh.dir = s.coh.dir ∧
      Within [.regs, .sec, .coh] s u := by
  obtain ⟨v, hv⟩ : ∃ v, v = s.setBadReads (s.sec.badReads.filter fun r => r != 1) := ⟨_, rfl⟩
  have hvw : Within [.sec] s v := hv ▸ (State.setBadReads_keeps ..).within
  have hvheld : v.heldLines a 1280 = s.heldLines a 1280 := by rw [hv]; rfl
  have hvreading : v.sec.reading = s.sec.reading := by rw [hv]; rfl
  have hvread : v.canRead a 1280 = true := by rw [hv]; exact hread
  obtain ⟨t, ht⟩ : ∃ t, t = (s.heldLines a 1280).foldl (fun s e => s.ctlSend { opcode := 2, addr := e.line, bulk := e.bulk } 1) v := ⟨_, rfl⟩
  have hstart : t = s.startImage 1 (s.flag fSecCmdCtrl_host) a 1280 := by
    rw [ht, ← hvheld, State.startImage, ← hv, State.flag_of_get_zero hhost]
    exact ((if_neg (by decide)).trans (if_neg (by simp [hvread]))).symm
  obtain ⟨hall, -, hdir, htw⟩ := State.ctlSends_read 1 (s.heldLines a 1280) v (by rw [hvw.2 .mesh (by simp), hreach]) hline ht
  have hwants : ∃ x ∈ t.coh.txs, Purpose.image 1 ∈ x.wants := by
    obtain ⟨e, he⟩ := List.exists_mem_of_ne_nil _ hheld
    obtain ⟨x, hx, hwant, -⟩ := hall e he
    exact ⟨x, hx, hwant⟩
  have hexec : s.lifeCommand (some n) img b = (t.setSec { t.sec with reading := t.sec.reading ++ [⟨1, some n, img, b⟩] }).set
      fSecCmdStatus_busy 1 := by
    refine (if_neg (by simp [State.flag_of_get_zero hbusy])).trans ?_
    rw [← ha]
    exact State.readThen_waits (w := ⟨1, some n, img, b⟩) hstart hwants
  have hreading : t.sec.reading = s.sec.reading := by
    have hrest : t.sec.rest = v.sec.rest := htw.2 .sec (by simp)
    exact (congrArg SecSt.reading hrest).trans hvreading
  have hvcoh : v.coh = s.coh := hvw.2 .coh (by simp)
  have hsw : Within [.sec] t (t.setSec { t.sec with reading := t.sec.reading ++ [⟨1, some n, img, b⟩] }) :=
    State.setSec_within ..
  refine ⟨_, hexec, ?_, ?_, hall, hdir.trans (by rw [hvcoh]), ?_⟩
  · exact State.get_set_same ..
  · show t.sec.reading ++ _ = _
    rw [hreading]
  · exact (hvw.mono (by simp)).trans ((htw.mono (by simp)).trans ((hsw.mono (by simp)).trans ((State.set_within ..).mono (by simp))))

end Waits

/-! ## The ends of a burn -/

section Ends
variable {s : State}

theorem State.showSec_sec (s : State) : s.showSec.sec = s.sec := State.setAll_sec ..

theorem execFloorBurnComplete_stages {w n : Nat} (h : s.sec.floorBurn = some (w, n)) : ∃ a b : State,
    a = s.setSec { s.sec with
      fuses := if w = 0 then { s.sec.fuses with lastSteps := n } else { s.sec.fuses with fwSteps := n }
      floorBurn := none } ∧ b = a.showSec.set fSecCmdStatus_busy 0 ∧ exec .floorBurnComplete s = .next (b.event 0x1C 0x82 w n) := by
  refine ⟨_, _, rfl, rfl, ?_⟩
  show execFloorBurnComplete s = _
  simp only [execFloorBurnComplete, h]

theorem execFloorBurnComplete_spec {w n : Nat} (h : s.sec.floorBurn = some (w, n)) :
    ∃ u, exec .floorBurnComplete s = .next u ∧ u.sec.floorBurn = none ∧
      u.sec.fuses = (if w = 0 then { s.sec.fuses with lastSteps := n } else { s.sec.fuses with fwSteps := n }) ∧
      u.get fSecCmdStatus_busy = 0 ∧ Within [.regs, .fuses, .burns, .uci, .flt, .out] s u := by
  obtain ⟨a, b, ha, hb, hexec⟩ := execFloorBurnComplete_stages h
  have hba : b.sec = a.sec := by rw [hb]; exact State.showSec_sec a
  have haw : Within [.fuses, .burns] s a := by
    rw [ha]
    refine ⟨rfl, fun c hc => ?_⟩
    cases c with
    | fuses => simp at hc
    | burns => simp at hc
    | tile => exact ⟨rfl, rfl, rfl⟩
    | _ => rfl
  have hbw : Within [.regs] a b := hb ▸ ((State.showSec_keeps a).within).trans (State.set_within ..)
  refine ⟨_, hexec, ?_, ?_, ?_, (haw.mono (by simp)).trans ((hbw.mono (by simp)).trans ((State.event_within ..).mono (by decide)))⟩
  · rw [State.event_sec, hba, ha]
    rfl
  · rw [State.event_sec, hba, ha]
    rfl
  · rw [State.get_event (by decide), hb, State.get_set_same]
    rfl

theorem execTransitionComplete_stages {lc : Nat} (htrans : s.sec.transition = some lc) (hrec : s.get fFltStatus_device_recovering = 0) :
    ∃ a b c : State, a = s.zeroDevice ∧
      b = a.setSec { a.sec with fuses := burnTransition a.sec.fuses lc a.sec.newOwner, transition := none, newOwner := [] } ∧
      c = b.showSec.set fSecCmdStatus_busy 0 ∧ exec .transitionComplete s = .next (c.event 0x1C 0x80 s.sec.fuses.lc lc) := by
  show ∃ a b c : State, _ ∧ _ ∧ _ ∧ execTransitionComplete s = _
  rw [execTransitionComplete, htrans]
  dsimp only
  rw [if_neg (by simp [State.flag_of_get_zero hrec])]
  exact ⟨_, _, _, rfl, rfl, rfl, rfl⟩

/-- R477: the transition burns its fuses over a device whose memories have been zeroed. -/
theorem execTransitionComplete_spec {lc : Nat} (htrans : s.sec.transition = some lc) (hrec : s.get fFltStatus_device_recovering = 0) :
    ∃ u, exec .transitionComplete s = .next u ∧ u.sec.transition = none ∧ u.sec.newOwner = [] ∧
      u.sec.fuses = burnTransition s.sec.fuses lc s.sec.newOwner ∧
      u.tile.scratch = [] ∧ u.coh.l2 = [] ∧ u.coh.l3 = [] ∧ u.eyelets = [] ∧ u.get fSecCmdStatus_busy = 0 := by
  obtain ⟨a, b, c, ha, hb, hc, hexec⟩ := execTransitionComplete_stages htrans hrec
  have hasec : a.sec = s.sec := by rw [ha]; rfl
  have hzero : a.tile.scratch = [] ∧ a.coh.l2 = [] ∧ a.coh.l3 = [] ∧ a.eyelets = [] := by
    rw [ha]
    exact ⟨rfl, rfl, rfl, rfl⟩
  have hbsec : b.sec = { s.sec with fuses := burnTransition s.sec.fuses lc s.sec.newOwner, transition := none, newOwner := [] } := by
    rw [hb, hasec]
    rfl
  have hbzero : b.tile = a.tile ∧ b.coh = a.coh ∧ b.eyelets = a.eyelets := by
    rw [hb]
    exact ⟨rfl, rfl, rfl⟩
  have hcw : Within [.regs] b c := hc ▸ ((State.showSec_keeps b).within).trans (State.set_within ..)
  have hcsec : c.sec = b.sec := by rw [hc]; exact State.showSec_sec b
  have hew := State.event_within c 0x1C 0x80 s.sec.fuses.lc lc none
  have hscratch : (c.event 0x1C 0x80 s.sec.fuses.lc lc).tile.scratch = a.tile.scratch := by
    rw [show (c.event 0x1C 0x80 s.sec.fuses.lc lc).tile.scratch = c.tile.scratch from hew.2 .scratch (by decide),
      show c.tile.scratch = b.tile.scratch from hcw.2 .scratch (by decide), hbzero.1]
  have hcoh : (c.event 0x1C 0x80 s.sec.fuses.lc lc).coh = a.coh := by
    rw [hew.2 .coh (by decide), hcw.2 .coh (by decide), hbzero.2.1]
  have heyelets : (c.event 0x1C 0x80 s.sec.fuses.lc lc).eyelets = a.eyelets := by
    rw [hew.2 .eyelets (by decide), hcw.2 .eyelets (by decide), hbzero.2.2]
  refine ⟨_, hexec, ?_, ?_, ?_, hscratch.trans hzero.1, ?_, ?_, heyelets.trans hzero.2.2.2, ?_⟩
  · rw [State.event_sec, hcsec, hbsec]
  · rw [State.event_sec, hcsec, hbsec]
  · rw [State.event_sec, hcsec, hbsec]
  · rw [hcoh, hzero.2.1]
  · rw [hcoh, hzero.2.2.1]
  · rw [State.get_event (by decide), hc, State.get_set_same]
    rfl

theorem execTransitionComplete_waits (h : s.sec.transition = none ∨ s.get fFltStatus_device_recovering = 1) :
    exec .transitionComplete s = .next s := by
  show execTransitionComplete s = _
  rw [execTransitionComplete]
  cases htrans : s.sec.transition with
  | none => rfl
  | some lc => exact if_pos (State.flag_of_get (h.resolve_left (by simp [htrans])))

end Ends

/-- Settles O48: a command is refused, read and checked, accepted, and its burn completes. -/
theorem lifeCommands : Obligations.LifeCommands := by
  unfold Obligations.LifeCommands
  refine ⟨?_, ?_, ?_, ?_, ?_, ?_, ?_, ?_, ?_, ?_, ?_, ?_, ?_, ?_⟩
  · intro s img b hbusy
    have hnext : ∀ want, (Host.Outcome.next (s.lifeCommand want img b) : Host.Outcome State Fault Refusal) = .next (s.set fSecCmdStatus_busy_go 1) :=
      fun want => congrArg Host.Outcome.next (State.lifeCommand_busy want img b hbusy)
    exact ⟨hnext _, hnext _, hnext _, hnext _, hnext _⟩
  · intro s t reader addr len hup ht
    obtain ⟨-, -, -, -, hw⟩ := s.startImage_host reader addr len hup
    rw [ht]
    refine ⟨?_, ?_, hw⟩
    · rw [s.startImage_host_eq reader addr len hup]
    · rw [s.startImage_host_eq reader addr len hup]
  · intro s img b a ha hbusy hhost hread hheld hreach hline
    obtain ⟨u, hu, hrest⟩ := State.lifeCommand_waits 2 img b ha hbusy hhost hread hheld hreach hline
    exact ⟨u, congrArg Host.Outcome.next hu, hrest⟩
  · intro s t img r hbusy hhost hlen hup htxs ht hr
    have hnext : ∀ n, (Host.Outcome.next (s.lifeCommand (some n) img true) : Host.Outcome State Fault Refusal) = .next (r n) :=
        fun n => by
      rw [State.lifeCommand_host hbusy hhost hlen hup htxs ht, hr]
    exact ⟨hnext 1, hnext 2, hnext 3, hnext 4, hnext 5⟩
  · intro s img hbusy hdir htxs
    obtain ⟨t, ht⟩ : ∃ t, t = s.startImage 1 (s.flag fSecCmdCtrl_host) (64 * s.get fSecCmdAddr_addr) 1280 := ⟨_, rfl⟩
    obtain ⟨hsec, hcoh, hregs, htw⟩ := s.startImage_sec 1 (s.flag fSecCmdCtrl_host) (64 * s.get fSecCmdAddr_addr) 1280 hdir
    rw [← ht] at hsec hcoh hregs htw
    obtain ⟨herr, hbusy', hsec', hw⟩ := t.lifeRead_unread_spec 2 img ((State.get_of_regs hregs _).trans hbusy)
    refine ⟨t.lifeRead (some 2) img false, congrArg Host.Outcome.next ?_, herr, hbusy', hsec'.trans hsec,
      (htw.mono (by simp)).trans (hw.mono (by simp))⟩
    exact State.lifeCommand_now _ _ _ hbusy ht (by rw [hcoh]; exact htxs)
  · exact fun s img want code hcode hlo hhi h => State.commandError_state hcode hlo hhi h
  · exact fun s img h => State.commandError_magic h
  · exact fun s img h => State.commandError_floor h
  · intro s img h
    refine ⟨_, rfl, ?_⟩
    rw [State.acceptCommand_floor h]
    refine ⟨rfl, (State.get_set_same s fSecCmdStatus_busy 1 :), rfl, fun c hc => ?_⟩
    cases c with
    | regs => simp at hc
    | burns => simp at hc
    | tile => exact ⟨rfl, rfl, rfl⟩
    | _ => rfl
  · intro s img h
    refine ⟨_, rfl, ?_⟩
    rw [State.acceptCommand_transition h]
    obtain ⟨htrans, howner, hfuses⟩ := (s.set fSecCmdStatus_busy 1).startTransition_spec (field img 6 1 + 1)
      (if field img 6 1 = 1 then slice img 0x20 32 else [])
    exact ⟨htrans, hfuses, fun hone => howner.trans (if_pos hone)⟩
  · exact fun s w n h => execFloorBurnComplete_spec h
  · intro s h
    show execFloorBurnComplete s = _
    rw [execFloorBurnComplete, h]
  · intro s lc htrans hrec
    obtain ⟨u, hexec, hnone, howner, hfuses, hrest⟩ := execTransitionComplete_spec htrans hrec
    refine ⟨u, hexec, hnone, howner, hfuses.trans ?_, hrest⟩
    rw [burnTransition]
    split
    next htwo => rw [htwo]
    next => rfl
  · exact fun s h => execTransitionComplete_waits h

end Sys2Proof.Machine

/-! SUPPORT. Staging firmware (R471, R472), and the TAP (R469, R487). -/

namespace Sys2Proof.Machine

set_option Elab.async false

/-! ## Checks of a firmware image -/

section Firmware
variable {s t : State} {img : List Byte}

theorem State.firmwareError_congr (hfuses : t.sec.fuses = s.sec.fuses) (img : List Byte) : t.firmwareError img = s.firmwareError img := by
  simp only [State.firmwareError, hfuses]

theorem State.firmwareError_short (h : img.length < 1280) : s.firmwareError img = 2 := if_pos (by simp [h])

/-- An image passes only with its own length, keys that are burned, and a version that the floor admits. -/
theorem State.firmwareError_ne (h : field img 0x10 8 < s.sec.fuses.fwSteps ∨ s.sec.fuses.lc = 0 ∨ field img 12 4 ≠ img.length) :
    s.firmwareError img ≠ 0 := by
  intro hzero
  unfold State.firmwareError at hzero
  extract_lets n sig at hzero
  obtain ⟨hform, hzero⟩ := passed_first (by decide) hzero
  obtain ⟨hkeys, hzero⟩ := passed_first (by decide) hzero
  obtain ⟨-, hzero⟩ := passed_first (by decide) hzero
  obtain ⟨-, hzero⟩ := passed_first (by decide) hzero
  obtain ⟨hfloor, -⟩ := passed_first (by decide) hzero
  obtain h | h | h := h
  · exact hfloor (by simp [h])
  · exact hkeys (by simp [h])
  · exact hform (by simp [n, h])

/-! ## Stages -/

theorem State.stageFails_stages (s : State) (version code : Nat) : ∃ a b : State, a = s.setSec { s.sec with fwImage := none } ∧
    b = a.setAll [(fSecFw_busy, 0), (fSecFw_stage_error, code)] ∧ s.stageFails version code = b.event 0x1C 0x83 version code :=
  ⟨_, _, rfl, rfl, rfl⟩

theorem State.stageFails_spec (s : State) (version : Nat) {code : Nat} (hcode : code < 16) :
    (s.stageFails version code).sec.fwImage = none ∧ (s.stageFails version code).get fSecFw_busy = 0 ∧
    (s.stageFails version code).get fSecFw_stage_error = code ∧ (s.stageFails version code).sec.flash = s.sec.flash ∧
    Within [.regs, .sec, .uci, .flt, .out] s (s.stageFails version code) := by
  obtain ⟨a, b, ha, hb, heq⟩ := s.stageFails_stages version code
  have haw : Within [.sec] s a := ha ▸ State.setSec_within ..
  have hbw : Within [.regs] a b := hb ▸ State.setAll_within ..
  have hbsec : b.sec = a.sec := by rw [hb, State.setAll_sec]
  rw [heq]
  refine ⟨?_, ?_, ?_, ?_, (haw.mono (by simp)).trans ((hbw.mono (by simp)).trans ((State.event_within ..).mono (by decide)))⟩
  · rw [State.event_sec, hbsec, ha]
    rfl
  · rw [State.get_event (by decide), hb]
    simp only [State.setAll]
    rw [State.get_set_ne _ _ (by decide), State.get_set_same]
    rfl
  · rw [State.get_event (by decide), hb]
    simp only [State.setAll, State.get_set_same]
    exact Nat.mod_eq_of_lt hcode
  · rw [State.event_sec, hbsec, ha]
    rfl

theorem State.fwStage_now (b : Bool) (hbusy : s.get fSecFw_busy = 0) (htrans : s.sec.transition = none) (hlen : s.get fSecFwLen_len ≤ 8388608)
    (ht : t = s.startImage 2 (s.flag fSecFwCtrl_host) (64 * s.get fSecFwAddr_addr) (s.get fSecFwLen_len))
    (htxs : ∀ x ∈ t.coh.txs, Purpose.image 2 ∉ x.wants) : exec (.fwStage img b) s = .next (t.fwRead img b) := by
  refine congrArg Host.Outcome.next ((if_neg (by simp [State.flag_of_get_zero hbusy])).trans ((if_neg (by simp [htrans])).trans
    ((if_neg (by omega)).trans (State.readThen_now (w := ⟨2, none, img, b⟩) ht htxs))))

theorem State.fwRead_unread (t : State) (img : List Byte) : t.fwRead img false = t.stageFails 0 8 := by
  have hnone : ∀ host addr len, t.fetchImage host addr len img false = (none, t) := fun _ _ _ => rfl
  simp only [State.fwRead, hnone]

theorem State.fwRead_host (hhost : t.get fSecFwCtrl_host = 1) (hup : t.linkUp = true) (hlen : img.length = t.get fSecFwLen_len) :
    t.fwRead img true = if t.firmwareError img ≠ 0 then t.stageFails (field img 0x10 8 % 256) (t.firmwareError img)
      else (t.setSec { t.sec with fwImage := some ⟨true, field img 0x10 8 % 256, sha256 (img.take (img.length - 384))⟩ }).set fSecFw_busy 1 := by
  simp only [State.fwRead, State.flag_of_get hhost, State.fetchImage_host hlen hup, hlen]

/-- The registers that show the fuses. -/
def securityFields : List Fld :=
  [fSecLc_state, fSecLc_owner_hash_valid, fSecLc_partial_owner_hash, fSecLc_transition, fSecLc_tap_full, fSecFloor_last_steps,
    fSecFloor_fw_steps, fSecFw_staged_version] ++ (List.range 4).map fSecVendorHash_hash ++ (List.range 4).map fSecOwnerHash_hash

theorem State.get_showSec_ne {g : Fld} (hg : ∀ f ∈ securityFields, g.key ≠ f.key) (s : State) : s.showSec.get g = s.get g := by
  refine State.get_setAll_ne _ _ _ fun x hx => hg _ ?_
  simp only [hashWords, List.mem_append, List.mem_cons, List.not_mem_nil, or_false, List.mem_map, List.mem_range] at hx
  simp only [securityFields, List.mem_append, List.mem_cons, List.not_mem_nil, or_false, List.mem_map, List.mem_range]
  rcases hx with (hx | ⟨i, hi, rfl⟩) | ⟨i, hi, rfl⟩
  · refine .inl (.inl ?_)
    rcases hx with rfl | rfl | rfl | rfl | rfl | rfl | rfl | rfl <;> simp only [true_or, or_true]
  · exact .inl (.inr ⟨i, hi, rfl⟩)
  · exact .inr ⟨i, hi, rfl⟩

/-- The flash after a stage: the bank that is not running holds the image and is preferred (R472). -/
def State.stagedFlash (s : State) (b : FwBank) : Flash :=
  if s.get fSecFw_bank = 1 then { s.sec.flash with bankA := b, preferB := false } else { s.sec.flash with bankB := b, preferB := true }

theorem execFwStaged_stages {b : FwBank} (h : s.sec.fwImage = some b) : ∃ a c : State,
    a = s.setSec { s.sec with flash := s.stagedFlash b, fwImage := none } ∧
    c = (a.setAll [(fSecFw_busy, 0), (fSecFw_stage_error, 0)]).showSec ∧ exec (.fwStaged true) s = .next (c.event 0x1C 0x83 b.version 0) := by
  refine ⟨_, _, rfl, rfl, ?_⟩
  have hflash : (if (!s.flag fSecFw_bank) = true then { s.sec.flash with bankB := b, preferB := true }
      else { s.sec.flash with bankA := b, preferB := false }) = s.stagedFlash b := by
    rw [State.stagedFlash]
    by_cases hbank : s.get fSecFw_bank = 1
    · simp [State.flag, hbank]
    · simp [State.flag, hbank]
  show execFwStaged true s = _
  rw [execFwStaged, h]
  dsimp only
  rw [if_neg (by decide), hflash]

theorem execFwStaged_spec {b : FwBank} (h : s.sec.fwImage = some b) :
    ∃ u, exec (.fwStaged true) s = .next u ∧ u.sec.fwImage = none ∧ u.get fSecFw_busy = 0 ∧ u.sec.flash = s.stagedFlash b ∧
      Within [.regs, .sec, .flash, .uci, .flt, .out] s u := by
  obtain ⟨a, c, ha, hc, hexec⟩ := execFwStaged_stages h
  have haw : Within [.sec, .flash] s a := by
    rw [ha]
    refine ⟨rfl, fun c hc => ?_⟩
    cases c with
    | sec => simp at hc
    | flash => simp at hc
    | tile => exact ⟨rfl, rfl, rfl⟩
    | burns => exact ⟨rfl, rfl, rfl⟩
    | _ => rfl
  have hcw : Within [.regs] a c := hc ▸ (State.setAll_within ..).trans ((State.showSec_keeps _).within)
  have hcsec : c.sec = a.sec := by rw [hc, State.showSec_sec, State.setAll_sec]
  refine ⟨_, hexec, ?_, ?_, ?_, (haw.mono (by simp)).trans ((hcw.mono (by simp)).trans ((State.event_within ..).mono (by decide)))⟩
  · rw [State.event_sec, hcsec, ha]
    rfl
  · rw [State.get_event (by decide), hc, State.get_showSec_ne (by decide)]
    simp only [State.setAll]
    rw [State.get_set_ne _ _ (by decide), State.get_set_same]
    rfl
  · rw [State.event_sec, hcsec, ha]
    rfl

end Firmware

/-! ## The TAP -/

theorem execTapInstruction_on {s : State} (code : Nat) (h : s.sec.tapReset = false) :
    ∃ u, exec (.tapInstruction code) s = .next u ∧ u.sec.tapCode = some code ∧ Within [.regs, .sec, .uci, .flt, .out] s u ∧
      RegsKept (eventFields s) s u := by
  obtain ⟨a, ha⟩ : ∃ a, a = s.setSec { s.sec with tapCode := some code } := ⟨_, rfl⟩
  have hexec : exec (.tapInstruction code) s = .next (a.event 0x1C 0x85 a.sec.fuses.lc (if a.tapFull then 1 else 0)) := by
    rw [ha]
    exact if_neg (by simp [h])
  have haw : Within [.sec] s a := ha ▸ State.setSec_within ..
  have hregs : a.regs = s.regs := haw.2 .regs (by simp)
  have hevent := a.event_regsKept 0x1C 0x85 a.sec.fuses.lc (if a.tapFull then 1 else 0) none
  rw [eventFields_congr (State.get_of_regs hregs _)] at hevent
  refine ⟨_, hexec, ?_, (haw.mono (by simp)).trans ((State.event_within ..).mono (by decide)), (RegsKept.of_eq hregs).trans hevent⟩
  rw [State.event_sec, ha]
  rfl

theorem execTapReset_spec (s : State) (low : Bool) : ∃ u, exec (.tapReset low) s = .next u ∧ u.sec.tapReset = low ∧
    u.sec.tapCode = (if low then none else s.sec.tapCode) ∧ Within [.sec] s u := by
  cases low with
  | false => exact ⟨_, rfl, rfl, rfl, State.setSec_within ..⟩
  | true => exact ⟨_, rfl, rfl, rfl, State.setSec_within ..⟩

/-- Settles O49: a stage is refused, read and checked, and goes to the bank that does not run; the TAP takes an instruction while
its reset is not driven. -/
theorem firmwareAndTap : Obligations.FirmwareAndTap := by
  unfold Obligations.FirmwareAndTap
  refine ⟨?_, ?_, ?_, ?_, ?_, ?_, ?_, ?_, ?_, ?_, ?_, ?_, ?_, ?_, ?_⟩
  · exact fun s img b hbusy => congrArg Host.Outcome.next (if_pos (State.flag_of_get hbusy))
  · exact fun s img b hbusy htrans =>
      congrArg Host.Outcome.next ((if_neg (by simp [State.flag_of_get_zero hbusy])).trans (if_pos htrans))
  · exact fun s img b hbusy htrans hlen => congrArg Host.Outcome.next
      ((if_neg (by simp [State.flag_of_get_zero hbusy])).trans ((if_neg (by simp [htrans])).trans (if_pos (by omega))))
  · intro s img hbusy htrans hlen hdir htxs
    obtain ⟨t, ht⟩ : ∃ t, t = s.startImage 2 (s.flag fSecFwCtrl_host) (64 * s.get fSecFwAddr_addr) (s.get fSecFwLen_len) := ⟨_, rfl⟩
    obtain ⟨hsec, hcoh, -, htw⟩ := s.startImage_sec 2 (s.flag fSecFwCtrl_host) (64 * s.get fSecFwAddr_addr) (s.get fSecFwLen_len) hdir
    rw [← ht] at hsec hcoh htw
    obtain ⟨himage, hbusy', herr, hflash, hw⟩ := t.stageFails_spec 0 (code := 8) (by decide)
    refine ⟨_, (State.fwStage_now false hbusy htrans hlen ht (by rw [hcoh]; exact htxs)).trans
      (congrArg Host.Outcome.next (t.fwRead_unread img)), herr, hbusy', himage, hflash.trans (by rw [hsec]),
      (htw.mono (by simp)).trans (hw.mono (by simp))⟩
  · intro s t img hbusy htrans hlen hhost himg hup htxs ht
    obtain ⟨-, hcoh, hregs, hsec, -⟩ := s.startImage_host 2 (64 * s.get fSecFwAddr_addr) (s.get fSecFwLen_len) hup
    rw [← ht] at hcoh hregs hsec
    refine ⟨_, State.fwStage_now (t := t) true hbusy htrans hlen (by rw [State.flag_of_get hhost]; exact ht) (by rw [hcoh]; exact htxs), ?_⟩
    rw [State.fwRead_host ((State.get_of_regs hregs _).trans hhost)
      (by rw [State.linkUp, State.flag, State.get_of_regs hregs]; exact hup) (himg.trans (State.get_of_regs hregs _).symm),
      show t.firmwareError img = s.firmwareError img from State.firmwareError_congr (by rw [hsec]) img]
    rfl
  · intro s v c hc
    exact ⟨_, rfl, s.stageFails_spec v hc⟩
  · exact fun s img h => State.firmwareError_short h
  · exact fun s img h => State.firmwareError_ne h
  · intro s b h
    show execFwStaged false s = _
    rw [execFwStaged, h]
    rfl
  · exact fun s b h => execFwStaged_spec h
  · intro s ok h
    show execFwStaged ok s = _
    rw [execFwStaged, h]
  · exact fun s code h => execTapInstruction_on code h
  · exact fun s code h => if_pos h
  · exact fun s => execTapReset_spec s true
  · exact fun s => execTapReset_spec s false

end Sys2Proof.Machine

/-! SUPPORT. The loss of power and power good (R419, R487, R488, R493). -/

namespace Sys2Proof.Machine

set_option Elab.async false

/-! ## The loss of power -/

section Loss
variable {s : State}

theorem State.losePower_eq (h : s.sec.transition ≠ some 2) : s.losePower = s.unpowered := by
  have hcut : (decide (s.sec.transition = some 2) && !s.flag fFltStatus_device_recovering && s.pins.powered) = false := by simp [h]
  rw [State.losePower]
  simp only [hcut, Bool.false_eq_true, if_false, Bool.false_and]
  rfl

theorem State.losePower_spec (s : State) : s.losePower.sec.fuses.lc = s.sec.fuses.lc ∧
    s.losePower.sec.fuses.ownerBurned = s.sec.fuses.ownerBurned ∧ s.losePower.sec.fuses.lastSteps = s.sec.fuses.lastSteps ∧
    s.losePower.sec.fuses.fwSteps = s.sec.fuses.fwSteps ∧ s.losePower.sec.flash = s.sec.flash ∧ s.losePower.regs = coldRegs ∧
    s.losePower.out = s.out ∧ s.losePower.pins.powered = false := by
  obtain ⟨bits, hfuses⟩ := s.losePower_fuses
  have hdraw : ∀ cut : Bool, (if cut then s.draw else (0, s)).2.sec.flash = s.sec.flash ∧ (if cut then s.draw else (0, s)).2.out = s.out :=
    fun cut => by cases cut <;> exact ⟨rfl, rfl⟩
  have hrest : s.losePower.sec.flash = s.sec.flash ∧ s.losePower.regs = coldRegs ∧ s.losePower.out = s.out ∧
      s.losePower.pins.powered = false := by
    unfold State.losePower
    exact ⟨(hdraw _).1, rfl, (hdraw _).2, rfl⟩
  rw [hfuses]
  exact ⟨rfl, rfl, rfl, rfl, hrest⟩

theorem execThermtripShutdown_spec (h : s.get fDevPins_thermtrip_driven = 1) :
    ∃ u, exec .thermtripShutdown s = .next u ∧ u.pins.latchedOff = true ∧ u.pins.powered = false ∧ u.regs = coldRegs ∧
      u.sec.fuses.lc = s.sec.fuses.lc ∧ u.sec.flash = s.sec.flash := by
  obtain ⟨hlc, -, -, -, hflash, hregs, -, hpowered⟩ := s.losePower_spec
  exact ⟨_, if_pos (State.flag_of_get h), rfl, hpowered, hregs, hlc, hflash⟩

end Loss

/-! ## The forced lowest state -/

/-- What a forced lowest state writes beside its events and the throttle registers. -/
def forcedFields : List Fld := [fPwrStatus_forced_low, fStchStatus_forced_low] ++ (List.range 8).map fPwrDieA_state

def Fld.offForced (g : Fld) : Bool := g.offThrottle && forcedFields.all fun f => g.key != f.key

theorem Fld.offForced_ne {g f : Fld} (h : g.offForced = true) (hf : f ∈ forcedFields) : g.key ≠ f.key := by
  have hall := List.all_eq_true.1 (Bool.and_eq_true_iff.1 h).2 f hf
  simpa using hall

section Forced
variable {s : State}

theorem State.leaveWindow_idle (h : s.awl.running = []) : s.leaveWindow = s := by
  rw [State.leaveWindow, State.abortSlices, h]
  rfl

/-- Each die drops to the lowest state. -/
def State.allLowest (s : State) : State := (List.range 8).foldl (fun s d => s.set (fPwrDieA_state d) lowest) s

theorem State.allLowest_within (s : State) : Within [.regs] s s.allLowest := Within.foldl (fun s _ => s.set_within ..) _ _

theorem State.get_allLowest_ne {g : Fld} (hg : g.offForced = true) (s : State) : s.allLowest.get g = s.get g :=
  State.get_foldl_mem _ _ fun s d hd => s.get_set_ne _ (Fld.offForced_ne hg (by
    simp only [forcedFields, List.mem_append, List.mem_map]
    exact .inr ⟨d, hd, rfl⟩))

theorem State.get_allLowest_state (s : State) {d : Nat} (hd : d < 8) : s.allLowest.get (fPwrDieA_state d) = 36 := by
  have hfold : ∀ (l : List Nat) (s : State), d ∈ l ∨ s.get (fPwrDieA_state d) = 36 →
      (l.foldl (fun s d => s.set (fPwrDieA_state d) lowest) s).get (fPwrDieA_state d) = 36 := by
    intro l
    induction l with
    | nil => exact fun s h => h.resolve_left List.not_mem_nil
    | cons e l ih =>
      intro s h
      refine ih _ ?_
      by_cases he : d = e
      · exact .inr (by rw [he, State.get_set_same]; rfl)
      · rw [State.get_set_ne _ _ (by simp only [Fld.key, fPwrDieA_state, RegKind.addr, RegKind.base, kPwrDieA]; omega)]
        simpa [he] using h
  exact hfold _ _ (.inl (List.mem_range.2 hd))

theorem State.forceLow_idle (r : Nat) (h : s.awl.running = []) : ∃ v : State, v.regs = s.allLowest.regs ∧ v.awl = s.awl ∧
    s.forceLow r = (v.setAll [(fPwrStatus_forced_low, 1), (fStchStatus_forced_low, 1)]).event 0x1B 0x42 r 255 := by
  obtain ⟨a, ha⟩ : ∃ a, a = s.setPower { s.power with forcedBy := setBit s.power.forcedBy r } := ⟨_, rfl⟩
  have hregs : a.allLowest.regs = s.allLowest.regs := by
    have hset : ∀ (l : List Nat) (x y : State), x.regs = y.regs →
        (l.foldl (fun s d => s.set (fPwrDieA_state d) lowest) x).regs = (l.foldl (fun s d => s.set (fPwrDieA_state d) lowest) y).regs := by
      intro l
      induction l with
      | nil => exact fun _ _ h => h
      | cons d l ih =>
        refine fun x y h => ih _ _ ?_
        show (x.set (fPwrDieA_state d) lowest).regs = (y.set (fPwrDieA_state d) lowest).regs
        rw [State.set, State.set, h]
    exact hset _ _ _ (by rw [ha]; rfl)
  have hawl : a.allLowest.awl = s.awl := by
    rw [a.allLowest_within.2 .awl (by simp), ha]
    rfl
  refine ⟨a.allLowest, hregs, hawl, ?_⟩
  rw [State.forceLow, ← ha]
  rw [← State.allLowest, State.leaveWindow_idle (by rw [hawl, h])]

/-- A forced lowest state leaves the other fields, and the dies at the lowest state. -/
theorem State.forceLow_spec (r : Nat) (h : s.awl.running = []) :
    (∀ g : Fld, g.offForced = true → (s.forceLow r).get g = s.get g) ∧ (∀ d < 8, (s.forceLow r).get (fPwrDieA_state d) = 36) ∧
    (s.forceLow r).awl.running = [] := by
  obtain ⟨v, hregs, hawl, heq⟩ := State.forceLow_idle r h
  have hstate : ∀ d < 8, (fPwrDieA_state d).offEvents = true ∧ (fPwrDieA_state d).key ≠ fPwrStatus_forced_low.key ∧
      (fPwrDieA_state d).key ≠ fStchStatus_forced_low.key := by decide
  have hset : ∀ g : Fld, g.key ≠ fPwrStatus_forced_low.key → g.key ≠ fStchStatus_forced_low.key →
      (v.setAll [(fPwrStatus_forced_low, 1), (fStchStatus_forced_low, 1)]).get g = s.allLowest.get g := fun g hp hs => by
    simp only [State.setAll]
    rw [State.get_set_ne _ _ hs, State.get_set_ne _ _ hp, State.get_of_regs hregs]
  rw [heq]
  refine ⟨fun g hg => ?_, fun d hd => ?_, ?_⟩
  · rw [State.get_event (Fld.offThrottle_offEvents (Bool.and_eq_true_iff.1 hg).1),
      hset g (Fld.offForced_ne hg (by simp [forcedFields])) (Fld.offForced_ne hg (by simp [forcedFields])), State.get_allLowest_ne hg]
  · obtain ⟨hoff, hp, hs⟩ := hstate d hd
    rw [State.get_event hoff, hset _ hp hs, State.get_allLowest_state _ hd]
  · rw [State.event_awl, State.setAll_awl, hawl, h]

/-- A signal that forces the lowest state, where it does not do so yet. -/
def State.forceNew (m : Nat) (s : State) (r : Nat) : State := if m.testBit r && !s.power.forcedBy.testBit r then s.forceLow r else s

theorem State.checkForced_stages (s : State) : s.checkForced.regs = s.regs ∨ ∃ a b : State, a.regs = s.regs ∧ a.awl = s.awl ∧
    b = [1, 2].foldl (State.forceNew s.forcing) a ∧ s.checkForced = b.updateThrottle := by
  by_cases hm : s.forcing = 0
  · refine .inl ?_
    rw [State.checkForced, hm]
    split
    · split <;> rfl
    next h => exact absurd rfl h
  · refine .inr ⟨s.setPower { s.power with releasedAt := none }, _, rfl, rfl, rfl, ?_⟩
    rw [State.checkForced]
    exact if_neg hm

theorem State.checkForced_spec (h : s.awl.running = []) :
    (∀ g : Fld, g.offForced = true → s.checkForced.get g = s.get g) ∧
    ((∀ d < 8, s.get (fPwrDieA_state d) = 36) → ∀ d < 8, s.checkForced.get (fPwrDieA_state d) = 36) := by
  have hfold : ∀ (m : Nat) (l : List Nat) (u : State), u.awl.running = [] →
      (∀ g : Fld, g.offForced = true → (l.foldl (State.forceNew m) u).get g = u.get g) ∧
      ((∀ d < 8, u.get (fPwrDieA_state d) = 36) → ∀ d < 8, (l.foldl (State.forceNew m) u).get (fPwrDieA_state d) = 36) := by
    intro m l
    induction l with
    | nil => exact fun u _ => ⟨fun _ _ => rfl, fun hstate => hstate⟩
    | cons r l ih =>
      intro u hu
      obtain ⟨hget, hstate, hrunning⟩ := State.forceLow_spec r hu
      have hone : (u.forceNew m r).awl.running = [] ∧ (∀ g : Fld, g.offForced = true → (u.forceNew m r).get g = u.get g) ∧
          ((∀ d < 8, u.get (fPwrDieA_state d) = 36) → ∀ d < 8, (u.forceNew m r).get (fPwrDieA_state d) = 36) := by
        rw [State.forceNew]
        split
        · exact ⟨hrunning, hget, fun _ => hstate⟩
        · exact ⟨hu, fun _ _ => rfl, fun hstate => hstate⟩
      obtain ⟨hget', hstate'⟩ := ih _ hone.1
      exact ⟨fun g hg => (hget' g hg).trans (hone.2.1 g hg), fun hstate => hstate' (hone.2.2 hstate)⟩
  have hthrottle : ∀ d < 8, (fPwrDieA_state d).offThrottle = true := by decide
  obtain hregs | ⟨a, b, hregs, hawl, hb, heq⟩ := s.checkForced_stages
  · exact ⟨fun g _ => State.get_of_regs hregs g, fun hstate d hd => (State.get_of_regs hregs _).trans (hstate d hd)⟩
  · obtain ⟨hget, hstate⟩ := hfold s.forcing [1, 2] a (by rw [hawl, h])
    rw [← hb] at hget hstate
    rw [heq]
    refine ⟨fun g hg => ?_, fun hlow d hd => ?_⟩
    · rw [State.get_updateThrottle (Bool.and_eq_true_iff.1 hg).1, hget g hg, State.get_of_regs hregs]
    · rw [State.get_updateThrottle (hthrottle d hd), hstate (fun e he => (State.get_of_regs hregs _).trans (hlow e he)) d hd]

end Forced

/-! ## Power good -/

section PowerGood
variable {s : State}

/-- The fields in which a die recalls what flash holds of it, and two counters of its DRAM. -/
def recallFields (d : Nat) : List Fld :=
  [fPwrDieA_trim_mv d, fPwrDieB_ageing_limit d, fDramPpr_candidates d, fDramPpr_spares_used d, fAwlRepair_records d]

theorem State.get_recall_ne {g : Fld} (s : State) (d : Nat) (hg : ∀ f ∈ recallFields d, g.key ≠ f.key) : (s.recall d).get g = s.get g := by
  rw [State.recall]
  refine State.get_setAll_ne _ _ _ fun x hx => ?_
  simp only [List.mem_cons, List.not_mem_nil, or_false] at hx
  rcases hx with rfl | rfl | rfl | rfl | rfl <;> exact hg _ (by simp [recallFields])

theorem State.recall_sec (s : State) (d : Nat) : (s.recall d).sec = s.sec := State.setAll_sec ..

/-- What die `d` reports of flash. -/
theorem State.get_recall (s : State) {d : Nat} (hd : d < 8) :
    (s.recall d).get (fPwrDieA_trim_mv d) = mapGet 0 s.sec.flash.trim d % 2 ^ (fPwrDieA_trim_mv d).width ∧
    (s.recall d).get (fPwrDieB_ageing_limit d) = mapGet 0 s.sec.flash.ageing d % 2 ^ (fPwrDieB_ageing_limit d).width ∧
    (s.recall d).get (fAwlRepair_records d) = (s.flashRecords d).length % 2 ^ (fAwlRepair_records d).width := by
  have hne : ∀ d < 8, ((fPwrDieA_trim_mv d).key ≠ (fPwrDieB_ageing_limit d).key ∧ (fPwrDieA_trim_mv d).key ≠ (fDramPpr_candidates d).key ∧
      (fPwrDieA_trim_mv d).key ≠ (fDramPpr_spares_used d).key ∧ (fPwrDieA_trim_mv d).key ≠ (fAwlRepair_records d).key) ∧
      (fPwrDieB_ageing_limit d).key ≠ (fDramPpr_candidates d).key ∧ (fPwrDieB_ageing_limit d).key ≠ (fDramPpr_spares_used d).key ∧
      (fPwrDieB_ageing_limit d).key ≠ (fAwlRepair_records d).key := by decide
  obtain ⟨⟨ha, hb, hc, he⟩, hf, hg, hh⟩ := hne d hd
  have hused : ∀ used, ∃ t : State, t = s.setAll [(fPwrDieA_trim_mv d, mapGet 0 s.sec.flash.trim d),
      (fPwrDieB_ageing_limit d, mapGet 0 s.sec.flash.ageing d),
      (fDramPpr_candidates d, (s.sec.flash.repairList.filter fun e => e.1 == d).length), (fDramPpr_spares_used d, used),
      (fAwlRepair_records d, (s.flashRecords d).length)] ∧
      t.get (fPwrDieA_trim_mv d) = mapGet 0 s.sec.flash.trim d % 2 ^ (fPwrDieA_trim_mv d).width ∧
      t.get (fPwrDieB_ageing_limit d) = mapGet 0 s.sec.flash.ageing d % 2 ^ (fPwrDieB_ageing_limit d).width ∧
      t.get (fAwlRepair_records d) = (s.flashRecords d).length % 2 ^ (fAwlRepair_records d).width := fun used => by
    refine ⟨_, rfl, ?_, ?_, ?_⟩
    · simp only [State.setAll]
      rw [State.get_set_ne _ _ he, State.get_set_ne _ _ hc, State.get_set_ne _ _ hb, State.get_set_ne _ _ ha, State.get_set_same]
    · simp only [State.setAll]
      rw [State.get_set_ne _ _ hh, State.get_set_ne _ _ hg, State.get_set_ne _ _ hf, State.get_set_same]
    · simp only [State.setAll]
      rw [State.get_set_same]
  obtain ⟨t, ht, hspec⟩ := hused ((List.range 7168).foldl (fun n b => n + mapGet 0 s.sec.flash.spareRows (d * 7168 + b)) 0)
  rw [show s.recall d = t from ht.symm]
  exact hspec

/-- All dies recall. -/
def State.recallAll (s : State) : State := (List.range 8).foldl State.recall s

theorem State.recallAll_sec (s : State) : s.recallAll.sec = s.sec := by
  have hfold : ∀ (l : List Nat) (s : State), (l.foldl State.recall s).sec = s.sec := by
    intro l
    induction l with
    | nil => exact fun _ => rfl
    | cons d l ih => exact fun s => (ih _).trans (s.recall_sec d)
  exact hfold _ _

theorem State.get_recallAll_ne {g : Fld} (s : State) (hg : ∀ d < 8, ∀ f ∈ recallFields d, g.key ≠ f.key) : s.recallAll.get g = s.get g :=
  State.get_foldl_mem _ _ fun s d hd => s.get_recall_ne d (hg d (List.mem_range.1 hd))

theorem State.get_recallAll (s : State) {d : Nat} (hd : d < 8) :
    s.recallAll.get (fPwrDieA_trim_mv d) = mapGet 0 s.sec.flash.trim d % 2 ^ (fPwrDieA_trim_mv d).width ∧
    s.recallAll.get (fPwrDieB_ageing_limit d) = mapGet 0 s.sec.flash.ageing d % 2 ^ (fPwrDieB_ageing_limit d).width ∧
    s.recallAll.get (fAwlRepair_records d) = (s.flashRecords d).length % 2 ^ (fAwlRepair_records d).width := by
  have hne : ∀ d < 8, ∀ e < 8, ∀ f ∈ recallFields e, d ≠ e → (fPwrDieA_trim_mv d).key ≠ f.key ∧ (fPwrDieB_ageing_limit d).key ≠ f.key ∧
      (fAwlRepair_records d).key ≠ f.key := by decide
  have hfold : ∀ (l : List Nat) (u : State), u.sec = s.sec → (∀ e ∈ l, e < 8) →
      d ∈ l ∨ (u.get (fPwrDieA_trim_mv d) = mapGet 0 s.sec.flash.trim d % 2 ^ (fPwrDieA_trim_mv d).width ∧
        u.get (fPwrDieB_ageing_limit d) = mapGet 0 s.sec.flash.ageing d % 2 ^ (fPwrDieB_ageing_limit d).width ∧
        u.get (fAwlRepair_records d) = (s.flashRecords d).length % 2 ^ (fAwlRepair_records d).width) →
      (l.foldl State.recall u).get (fPwrDieA_trim_mv d) = mapGet 0 s.sec.flash.trim d % 2 ^ (fPwrDieA_trim_mv d).width ∧
      (l.foldl State.recall u).get (fPwrDieB_ageing_limit d) = mapGet 0 s.sec.flash.ageing d % 2 ^ (fPwrDieB_ageing_limit d).width ∧
      (l.foldl State.recall u).get (fAwlRepair_records d) = (s.flashRecords d).length % 2 ^ (fAwlRepair_records d).width := by
    intro l
    induction l with
    | nil => exact fun u _ _ h => h.resolve_left List.not_mem_nil
    | cons e l ih =>
      intro u hsec hl h
      refine ih (u.recall e) ((u.recall_sec e).trans hsec) (fun f hf => hl f (List.mem_cons_of_mem _ hf)) ?_
      by_cases he : d = e
      · subst he
        obtain ⟨htrim, hageing, hrecords⟩ := u.get_recall hd
        rw [State.flashRecords, hsec] at hrecords
        rw [hsec] at htrim hageing
        exact .inr ⟨htrim, hageing, hrecords⟩
      · have hoff := fun f hf => hne d hd e (hl e (by simp)) f hf he
        rw [u.get_recall_ne e fun f hf => (hoff f hf).1, u.get_recall_ne e fun f hf => (hoff f hf).2.1,
          u.get_recall_ne e fun f hf => (hoff f hf).2.2]
        exact h.imp_left fun hmem => (List.mem_cons.1 hmem).resolve_left he
  exact hfold _ s rfl (fun e he => List.mem_range.1 he) (.inl (List.mem_range.2 hd))

theorem State.get_showSec_state (s : State) : s.showSec.get fSecLc_state = s.sec.fuses.lc % 2 ^ fSecLc_state.width := by
  have hfirst : ∃ l, s.showSec = (s.set fSecLc_state s.sec.fuses.lc).setAll l ∧ ∀ x ∈ l, fSecLc_state.key ≠ x.1.key := by
    refine ⟨_, rfl, fun x hx => ?_⟩
    have hhash : ∀ i < 4, fSecLc_state.key ≠ (fSecVendorHash_hash i).key ∧ fSecLc_state.key ≠ (fSecOwnerHash_hash i).key := by decide
    simp only [hashWords, List.append_eq, List.mem_append, List.mem_cons, List.not_mem_nil, or_false, List.mem_map, List.mem_range] at hx
    rcases hx with (hx | ⟨i, hi, rfl⟩) | ⟨i, hi, rfl⟩
    · rcases hx with rfl | rfl | rfl | rfl | rfl | rfl | rfl <;> dsimp only <;> decide
    · exact (hhash i hi).1
    · exact (hhash i hi).2
  obtain ⟨l, heq, hl⟩ := hfirst
  rw [heq, State.get_setAll_ne _ _ _ hl, State.get_set_same]

theorem State.powerUp_stages (st : Nat) (hrepairs : s.sec.fuses.repairs = []) : ∃ a b c : State, a = s.showSec.recallAll ∧
    b = a.setAll [(fDevPins_addr, st), (fPwrStatus_brake, if a.pins.brakeLow then 1 else 0)] ∧ c = b.newChallenge fSecChal_challenge ∧
    s.powerUp st = c.checkForced := by
  obtain ⟨a, ha⟩ : ∃ a, a = s.showSec.recallAll := ⟨_, rfl⟩
  obtain ⟨b, hb⟩ : ∃ b, b = a.setAll [(fDevPins_addr, st), (fPwrStatus_brake, if a.pins.brakeLow then 1 else 0)] := ⟨_, rfl⟩
  obtain ⟨c, hc⟩ : ∃ c, c = b.newChallenge fSecChal_challenge := ⟨_, rfl⟩
  have hnone : c.sec.fuses.repairs = [] := by
    have hcb : c.sec = b.sec := by rw [hc]; rfl
    rw [hcb, hb, State.setAll_sec, ha, State.recallAll_sec, State.showSec_sec, hrepairs]
  refine ⟨a, b, c, ha, hb, hc, ?_⟩
  have hup : s.powerUp st = (c.sec.fuses.repairs.foldl (fun s e => s.applySoft e.1 e.2) c).checkForced := by
    rw [hc, hb, ha]
    rfl
  rw [hup, hnone]
  rfl

/-- What the registers show at power good where no repair is fused. -/
theorem State.powerUp_spec {st : Nat} (hst : st < 4) (hrepairs : s.sec.fuses.repairs = []) (hidle : s.awl.running = [])
    (hlow : ∀ d < 8, s.get (fPwrDieA_state d) = 36) :
    (s.powerUp st).get fDevPins_addr = st ∧ (s.powerUp st).get fSecLc_state = s.sec.fuses.lc % 2 ^ fSecLc_state.width ∧
    (s.powerUp st).get fPwrStatus_brake = (if s.pins.brakeLow then 1 else 0) ∧
    ∀ d < 8, (s.powerUp st).get (fPwrDieA_trim_mv d) = mapGet 0 s.sec.flash.trim d % 2 ^ (fPwrDieA_trim_mv d).width ∧
      (s.powerUp st).get (fPwrDieB_ageing_limit d) = mapGet 0 s.sec.flash.ageing d % 2 ^ (fPwrDieB_ageing_limit d).width ∧
      (s.powerUp st).get (fAwlRepair_records d) = (s.flashRecords d).length % 2 ^ (fAwlRepair_records d).width ∧
      (s.powerUp st).get (fPwrDieA_state d) = 36 := by
  obtain ⟨a, b, c, ha, hb, hc, heq⟩ := State.powerUp_stages st hrepairs
  have haw : Within [.regs] s a :=
    ha ▸ ((State.showSec_keeps s).within).trans (Within.foldl (fun u d => (u.recall_keeps d).within) _ _)
  have hbw : Within [.regs] a b := hb ▸ State.setAll_within ..
  have hcregs : c.regs = (b.set fSecChal_challenge b.draw.1).regs := by rw [hc]; rfl
  have hcawl : c.awl.running = [] := by
    have hcb : c.awl = b.awl := by rw [hc]; rfl
    rw [hcb, hbw.2 .awl (by simp), haw.2 .awl (by simp), hidle]
  obtain ⟨hforced, hstate⟩ := State.checkForced_spec hcawl
  have hbrake : a.pins = s.pins := haw.2 .pins (by simp)
  have hc_b : ∀ g : Fld, g.key ≠ fSecChal_challenge.key → c.get g = b.get g := fun g hg => by
    rw [State.get_of_regs hcregs, State.get_set_ne _ _ hg]
  have hb_a : ∀ g : Fld, g.key ≠ fDevPins_addr.key → g.key ≠ fPwrStatus_brake.key → b.get g = a.get g := fun g hpins hg => by
    rw [hb]
    simp only [State.setAll]
    rw [State.get_set_ne _ _ hg, State.get_set_ne _ _ hpins]
  have hrecalled : ∀ d < 8, ∀ g ∈ [fPwrDieA_trim_mv d, fPwrDieB_ageing_limit d, fAwlRepair_records d],
      g.offForced = true ∧ g.key ≠ fSecChal_challenge.key ∧ g.key ≠ fDevPins_addr.key ∧ g.key ≠ fPwrStatus_brake.key := by decide
  have hget : ∀ d < 8, ∀ g ∈ [fPwrDieA_trim_mv d, fPwrDieB_ageing_limit d, fAwlRepair_records d], (s.powerUp st).get g = a.get g :=
    fun d hd g hg => by
      obtain ⟨hoff, hchal, hpins, hbr⟩ := hrecalled d hd g hg
      rw [heq, hforced g hoff, hc_b g hchal, hb_a g hpins hbr]
  refine ⟨?_, ?_, ?_, fun d hd => ?_⟩
  · rw [heq, hforced _ (by decide), hc_b _ (by decide), hb]
    simp only [State.setAll]
    rw [State.get_set_ne _ _ (by decide), State.get_set_same]
    exact Nat.mod_eq_of_lt hst
  · have hoff : ∀ d < 8, ∀ f ∈ recallFields d, fSecLc_state.key ≠ f.key := by decide
    rw [heq, hforced _ (by decide), hc_b _ (by decide), hb_a _ (by decide) (by decide), ha, State.get_recallAll_ne _ hoff,
      State.get_showSec_state]
  · rw [heq, hforced _ (by decide), hc_b _ (by decide), hb, hbrake]
    simp only [State.setAll]
    rw [State.get_set_same]
    split <;> rfl
  · obtain ⟨htrim, hageing, hrecords⟩ := s.showSec.get_recallAll hd
    rw [State.flashRecords] at hrecords
    rw [← ha, State.showSec_sec] at htrim hageing hrecords
    refine ⟨(hget d hd _ (by simp)).trans htrim, (hget d hd _ (by simp)).trans hageing, (hget d hd _ (by simp)).trans hrecords, ?_⟩
    have hoff : ∀ d < 8, (fPwrDieA_state d).key ≠ fSecChal_challenge.key ∧ (fPwrDieA_state d).key ≠ fDevPins_addr.key ∧
        (fPwrDieA_state d).key ≠ fPwrStatus_brake.key := by decide
    have hsec : ∀ d < 8, ∀ f ∈ securityFields, (fPwrDieA_state d).key ≠ f.key := by decide
    have hoffRecall : ∀ d < 8, ∀ e < 8, ∀ f ∈ recallFields e, (fPwrDieA_state d).key ≠ f.key := by decide
    rw [heq]
    refine hstate (fun e he => ?_) d hd
    obtain ⟨hchal, hpins, hbr⟩ := hoff e he
    rw [hc_b _ hchal, hb_a _ hpins hbr, ha, State.get_recallAll_ne _ (hoffRecall e he), State.get_showSec_ne (hsec e he), hlow e he]

end PowerGood

section Start
variable {s : State}

/-- The device as power comes: nothing but fuses, flash and the pins (R488). -/
def State.powered (s : State) (st : Nat) : State := s.unpowered.setPins { s.unpowered.pins with powered := true, straps := st }

theorem execPowerGood_now (st : Fin 4) (hoff : s.pins.powered = false) (hlatch : s.pins.latchedOff = false) :
    exec (.powerGood st) s = .next ((s.powered st).provision.powerUp st) :=
  execPowerGood_eq st (by rw [hoff, hlatch]; rfl)

theorem State.provision_spec (s : State) : s.provision.sec.fuses.lc = (if s.sec.fuses.lc = 0 then 1 else s.sec.fuses.lc) ∧
    s.provision.sec.fuses.repairs = s.sec.fuses.repairs ∧ s.provision.sec.flash = s.sec.flash ∧ s.provision.pins = s.pins ∧
    s.provision.dev = s.dev ∧ s.provision.dram = s.dram := by
  by_cases hblank : s.sec.fuses.lc = 0
  · rw [State.provision_of_blank hblank, if_pos hblank]
    exact ⟨rfl, rfl, rfl, rfl, rfl, rfl⟩
  · rw [State.provision_of_fused hblank, if_neg hblank]
    exact ⟨rfl, rfl, rfl, rfl, rfl, rfl⟩

theorem execPowerGood_spec (st : Fin 4) (hoff : s.pins.powered = false) (hlatch : s.pins.latchedOff = false) :
    ∃ u, exec (.powerGood st) s = .next u ∧ u.pins.powered = true ∧ u.pins.straps = st.val ∧ u.pins.stage = 0 ∧ u.pins.failed = false ∧
      u.sec.fuses.lc = (if s.sec.fuses.lc = 0 then 1 else s.sec.fuses.lc) ∧ u.sec.flash = s.sec.flash ∧
      u.sec.fuses.repairs = s.sec.fuses.repairs ∧ u.dev = none ∧ u.dram.mem = [] := by
  obtain ⟨hlc, hrepairs, hflash, hpins, hdev, hdram⟩ := (s.powered st).provision_spec
  refine ⟨_, execPowerGood_now st hoff hlatch, ?_⟩
  generalize (s.powered st).provision = v at *
  have hkeeps := v.powerUp_keeps st
  have hpins' : (v.powerUp st).pins = v.pins := hkeeps.pins (by decide)
  have hfuses : (v.powerUp st).sec.fuses = v.sec.fuses := hkeeps.fuses (by decide)
  have hflash' : (v.powerUp st).sec.flash = v.sec.flash := hkeeps.same (c := .flash) (by decide)
  have hdev' : (v.powerUp st).dev = v.dev := hkeeps.same (c := .dev) (by decide)
  have hmem : (v.powerUp st).dram.mem = v.dram.mem := hkeeps.same (c := .mem) (by decide)
  rw [hpins', hfuses, hflash', hdev', hmem, hpins, hdev, hdram]
  exact ⟨rfl, rfl, rfl, rfl, hlc, hflash, hrepairs, rfl, rfl⟩

end Start

/-- Settles O50: power is lost to the same state by every way, and power good starts the device from it. -/
theorem powerPins : Obligations.PowerPins := by
  unfold Obligations.PowerPins
  refine ⟨?_, fun s => rfl, ?_, ?_, ?_, ?_, ?_, ?_, ?_⟩
  · intro s h
    have hlose := State.losePower_eq h
    exact ⟨congrArg Host.Outcome.next hlose, congrArg Host.Outcome.next hlose⟩
  · exact fun s => ⟨_, rfl, rfl, rfl, rfl, rfl, rfl, rfl, rfl, rfl, rfl, rfl, rfl, rfl, rfl, rfl, rfl⟩
  · intro s
    obtain ⟨hlc, howner, hlast, hfw, hflash, hregs, hout, -⟩ := s.losePower_spec
    exact ⟨_, rfl, hlc, howner, hlast, hfw, hflash, hregs, hout⟩
  · exact fun s h => execThermtripShutdown_spec h
  · exact fun s h => if_neg (by simp [State.flag_of_get_zero h])
  · intro s st h
    exact if_pos (by rw [Bool.or_eq_true]; exact h)
  · exact fun s st hoff hlatch => execPowerGood_spec st hoff hlatch
  · intro s st hoff hlatch hrepairs hlc
    have hexec := execPowerGood_now st hoff hlatch
    have hprovision : (s.powered st).provision = s.powered st := State.provision_of_fused hlc
    rw [hprovision] at hexec
    have hcold : ∀ d < 8, mapGet 0 coldRegs (fPwrDieA_state d).key = 36 := by decide
    obtain ⟨haddr, hstate, hbrake, hdies⟩ := (s.powered st).powerUp_spec st.isLt hrepairs rfl fun d hd => hcold d hd
    refine ⟨_, hexec, haddr, hstate, hbrake, fun d hd => ?_⟩
    obtain ⟨htrim, hageing, hrecords, hlow⟩ := hdies d hd
    have hflash : ((s.powered st).powerUp st).sec.flash = (s.powered st).sec.flash :=
      ((s.powered st).powerUp_keeps st).same (c := .flash) (by decide)
    refine ⟨htrim, hageing, hrecords.trans ?_, hlow⟩
    rw [State.flashRecords, State.flashRecords, hflash]

end Sys2Proof.Machine

/-! SUPPORT. The stages of start-up (R301, R303, R471, R494). -/

namespace Sys2Proof.Machine

set_option Elab.async false

section Stages
variable {s : State}

theorem State.atStage_iff (s : State) (n : Nat) : s.atStage n = true ↔ s.pins.powered = true ∧ s.pins.failed = false ∧ s.pins.stage + 1 = n ∧
    s.get fDevPins_thermtrip_driven ≠ 1 := by
  simp [State.atStage, State.flag, and_assoc]

theorem State.not_atStage {n : Nat} (h : s.atStage n = true) : ¬ (!s.atStage n) = true := by simp [h]

theorem State.setPins_within (s : State) (p : PinsSt) : Within [.pins] s (s.setPins p) := (Within.refl [.pins] s).setPins _

theorem State.advanceTo_within (s : State) (t : Nat) : Within [.clock] s (s.advanceTo t) := (s.advanceTo_keeps t).within

/-- A stage that fails stops start-up and reports itself (R494). -/
theorem State.startFail_spec (s : State) {n : Nat} (hn : n < 8) : (s.startFail n).pins = { s.pins with failed := true } ∧
    (s.startFail n).get fDevStart_failed_stage = n ∧ (s.startFail n).get fDevPins_fault_driven = 1 := by
  refine ⟨rfl, ?_, ?_⟩
  · rw [State.get_of_regs (State.startFail_regs s n), State.get_set_ne _ _ (by decide), State.get_set_same]
    exact Nat.mod_eq_of_lt hn
  · rw [State.get_of_regs (State.startFail_regs s n), State.get_set_same]
    rfl

/-! ## Firmware -/

/-- The firmware of bank `bank` runs; `again` where it is not the preferred one (R471). -/
def State.runFirmware (s : State) (bank again : Bool) (ms : Nat) : State :=
  ((s.setAll [(fSecFw_bank, if bank then 1 else 0), (fSecFw_fallback, if again then 1 else 0),
    (fSecFw_running_version, s.bankVersion bank), (fDevStart_firmware_ms, min 65535 ms)]).setPins { s.pins with stage := 2 }).showSec

theorem State.runFirmware_spec (s : State) (bank again : Bool) (ms : Nat) :
    (s.runFirmware bank again ms).pins.stage = 2 ∧ (s.runFirmware bank again ms).get fSecFw_bank = (if bank then 1 else 0) ∧
    (s.runFirmware bank again ms).get fSecFw_fallback = (if again then 1 else 0) ∧
    (s.runFirmware bank again ms).get fDevStart_firmware_ms = min 65535 ms ∧ Within [.regs, .pins] s (s.runFirmware bank again ms) := by
  obtain ⟨a, ha⟩ : ∃ a, a = s.setAll [(fSecFw_bank, if bank then 1 else 0), (fSecFw_fallback, if again then 1 else 0),
    (fSecFw_running_version, s.bankVersion bank), (fDevStart_firmware_ms, min 65535 ms)] := ⟨_, rfl⟩
  obtain ⟨b, hb⟩ : ∃ b, b = a.setPins { s.pins with stage := 2 } := ⟨_, rfl⟩
  have heq : s.runFirmware bank again ms = b.showSec := by
    rw [hb, ha]
    rfl
  have haw : Within [.regs] s a := ha ▸ State.setAll_within ..
  have hbw : Within [.pins] a b := hb ▸ State.setPins_within ..
  have hshow : Within [.regs] b b.showSec := (State.showSec_keeps b).within
  have hregs : b.regs = a.regs := hbw.2 .regs (by simp)
  have hoff : ∀ g ∈ [fSecFw_bank, fSecFw_fallback, fDevStart_firmware_ms], ∀ f ∈ securityFields, g.key ≠ f.key := by decide
  rw [heq]
  refine ⟨?_, ?_, ?_, ?_, (haw.mono (by simp)).trans ((hbw.mono (by simp)).trans (hshow.mono (by simp)))⟩
  · rw [hshow.2 .pins (by simp), hb]
    rfl
  · rw [State.get_showSec_ne (hoff _ (by simp)), State.get_of_regs hregs, ha]
    simp only [State.setAll]
    rw [State.get_set_ne _ _ (by decide), State.get_set_ne _ _ (by decide), State.get_set_ne _ _ (by decide), State.get_set_same]
    cases bank <;> rfl
  · rw [State.get_showSec_ne (hoff _ (by simp)), State.get_of_regs hregs, ha]
    simp only [State.setAll]
    rw [State.get_set_ne _ _ (by decide), State.get_set_ne _ _ (by decide), State.get_set_same]
    cases again <;> rfl
  · rw [State.get_showSec_ne (hoff _ (by simp)), State.get_of_regs hregs, ha]
    simp only [State.setAll]
    rw [State.get_set_same]
    exact Nat.mod_eq_of_lt (by rw [show fDevStart_firmware_ms.width = 16 from rfl]; omega)

section Verified
variable {a b : Bool} (ms : Nat) (h : s.atStage 2 = true)

/-- What the outcome depends on, once time has passed: the preferred bank, and which banks verify. -/
theorem execFirmwareVerified_eq (h : s.atStage 2 = true) : exec (.firmwareVerified a b ms) s =
    if (!(if s.sec.flash.preferB then b else a) && !(if s.sec.flash.preferB then a else b)) = true then
      .next ((s.advanceTo (ms * 1000000)).startFail 2)
    else if (if s.sec.flash.preferB then b else a) = true then
      .next ((s.advanceTo (ms * 1000000)).runFirmware s.sec.flash.preferB false ms)
    else .next (((s.advanceTo (ms * 1000000)).runFirmware (!s.sec.flash.preferB) true ms).event 0x1C 0x84
      (if !s.sec.flash.preferB then 1 else 0) (if s.sec.flash.preferB then 1 else 0)) := by
  have hpref : (s.advanceTo (ms * 1000000)).sec.flash.preferB = s.sec.flash.preferB := rfl
  show execFirmwareVerified a b ms s = _
  rw [execFirmwareVerified, if_neg (State.not_atStage h)]
  generalize s.advanceTo (ms * 1000000) = u at *
  cases hp : s.sec.flash.preferB <;> cases a <;> cases b <;>
    simp only [hpref, hp, State.runFirmware, State.setAll_pins, Bool.not_true, Bool.not_false, Bool.and_true, Bool.and_false, Bool.false_eq_true, if_true, if_false]

end Verified

/-! ## DRAM and the modules -/

theorem State.get_setModule_ne {g : Fld} (s : State) (k st : Nat) (hstate : g.key ≠ (fUciMod_state k).key)
    (hstitch : g.key ≠ (fUciMod_stitch k).key) (hactive : g.key ≠ fUciStatus_active.key) : (s.setModule k st).get g = s.get g := by
  rw [State.setModule, State.get_setBitOf_ne _ _ _ hactive]
  simp only [State.setAll]
  rw [State.get_set_ne _ _ hstitch, State.get_set_ne _ _ hstate]

theorem Fld.module_ne (j k : Nat) : (j ≠ k → (fUciMod_state j).key ≠ (fUciMod_state k).key) ∧
    (fUciMod_state j).key ≠ (fUciMod_stitch k).key ∧ (fUciMod_state j).key ≠ fUciStatus_active.key := by
  simp only [Fld.key, fUciMod_state, fUciMod_stitch, fUciStatus_active, RegKind.addr, RegKind.base, kUciMod, kUciStatus]
  exact ⟨fun _ => by omega, by omega, by omega⟩

theorem State.moduleState_setModule (s : State) (j k : Nat) {st : Nat} (hst : st < 4) :
    (s.setModule k st).moduleState j = if j = k then st else s.moduleState j := by
  obtain ⟨hstate, hstitch, hactive⟩ := Fld.module_ne j k
  split
  next h =>
    subst h
    rw [State.moduleState, State.setModule, State.get_setBitOf_ne _ _ _ hactive]
    simp only [State.setAll]
    rw [State.get_set_ne _ _ hstitch, State.get_set_same]
    exact Nat.mod_eq_of_lt hst
  next h => exact s.get_setModule_ne k st (hstate h) hstitch hactive

/-- Every module trains, and nothing but the modules' registers changes (R303). -/
theorem State.trainAll_spec (s : State) : (∀ k < 8, s.trainAll.moduleState k = 1) ∧
    s.trainAll.get fDevStart_dram_ms = s.get fDevStart_dram_ms ∧ Within [.regs, .uci] s s.trainAll := by
  obtain ⟨v, hv⟩ : ∃ v, v = s.setUci { s.uci with retries := [] } := ⟨_, rfl⟩
  have heq : s.trainAll = (List.range 8).foldl (fun s k => s.setModule k 1) v := by
    rw [hv]
    rfl
  have hregs : v.regs = s.regs := by rw [hv]; rfl
  have hoff : ∀ k < 8, fDevStart_dram_ms.key ≠ (fUciMod_state k).key ∧ fDevStart_dram_ms.key ≠ (fUciMod_stitch k).key ∧
      fDevStart_dram_ms.key ≠ fUciStatus_active.key := by decide
  have hfold : ∀ (k : Nat) (l : List Nat) (u : State), k ∈ l ∨ u.moduleState k = 1 →
      (l.foldl (fun s k => s.setModule k 1) u).moduleState k = 1 := by
    intro k l
    induction l with
    | nil => exact fun u h => h.resolve_left List.not_mem_nil
    | cons e l ih =>
      intro u h
      refine ih _ ?_
      rw [State.moduleState_setModule _ _ _ (by decide)]
      by_cases he : k = e
      · exact .inr (if_pos he)
      · rw [if_neg he]
        exact h.imp_left fun hmem => (List.mem_cons.1 hmem).resolve_left he
  refine ⟨fun k hk => ?_, ?_, (s.trainAll_keeps).within⟩
  · rw [heq]
    exact hfold k _ _ (.inl (List.mem_range.2 hk))
  · rw [heq, State.get_foldl_mem _ _ fun u k hk => ?_, State.get_of_regs hregs]
    obtain ⟨hstate, hstitch, hactive⟩ := hoff k (List.mem_range.1 hk)
    exact u.get_setModule_ne k 1 hstate hstitch hactive

theorem State.showPpr_spec (s : State) (d : Nat) {mine : List (Nat × Nat)} (hmine : mine = s.sec.flash.repairList.filter (fun e => e.1 == d)) :
    (s.showPpr d).get (fDramPpr_candidates d) = mine.length % 2 ^ (fDramPpr_candidates d).width ∧
    (s.showPpr d).get (fDramPpr_unrepairable d) =
      (mine.filter fun e => s.sparesLeft (candidateBank e) == 0).length % 2 ^ (fDramPpr_unrepairable d).width ∧
    Within [.regs] s (s.showPpr d) := by
  have hne : (fDramPpr_candidates d).key ≠ (fDramPpr_unrepairable d).key := by
    simp [Fld.key, fDramPpr_candidates, fDramPpr_unrepairable]
  have heq : s.showPpr d = s.setAll [(fDramPpr_candidates d, mine.length),
      (fDramPpr_unrepairable d, (mine.filter fun e => s.sparesLeft (candidateBank e) == 0).length)] := by
    rw [hmine]
    rfl
  rw [heq]
  refine ⟨?_, ?_, State.setAll_within ..⟩
  · simp only [State.setAll]
    rw [State.get_set_ne _ _ hne, State.get_set_same]
  · simp only [State.setAll]
    rw [State.get_set_same]

/-- A repair takes the candidate off the list and a spare of its bank (R296). -/
theorem State.repairCandidate_spec (e : Nat × Nat) (h : s.sparesLeft (candidateBank e) ≠ 0) :
    (s.repairCandidate e).sec.flash.repairList = s.sec.flash.repairList.erase e ∧
    mapGet 0 (s.repairCandidate e).sec.flash.spareRows (candidateBank e) = mapGet 0 s.sec.flash.spareRows (candidateBank e) + 1 ∧
    (∀ k, s.freeSpare (candidateBank e) = some k →
      mapGet 0 (s.repairCandidate e).sec.flash.spareMap (e.1 * 2 ^ 27 + e.2) = k + 1) ∧
    (s.repairCandidate e).sec.fuses = s.sec.fuses := by
  have hsec : (s.repairCandidate e).sec = { s.sec with flash := { s.sec.flash with
      repairList := s.sec.flash.repairList.erase e
      spareRows := mapSet 0 s.sec.flash.spareRows (candidateBank e) (mapGet 0 s.sec.flash.spareRows (candidateBank e) + 1)
      spareMap := mapSet 0 s.sec.flash.spareMap (e.1 * 2 ^ 27 + e.2) ((s.freeSpare (candidateBank e)).getD 0 + 1) } } := by
    rw [State.repairCandidate, if_neg h]
    rfl
  rw [hsec]
  dsimp only
  refine ⟨rfl, mapGet_mapSet_same .., fun k hk => ?_, rfl⟩
  rw [hk]
  exact mapGet_mapSet_same ..

/-- DRAM is initialised where no post-package repair is due: the registers of the repairs show, and no more (R296). -/
theorem execDramInitialised_stages (ok : Bool) (ms : Nat) (h : s.atStage 5 = true) (hnone : s.sec.fuses.lc = 4 ∨ s.sec.flash.repairList = []) :
    ∃ v : State, v.pins = s.pins ∧ Within [.regs, .clock] s v ∧ exec (.dramInitialised ok ms) s = if !ok then .next (v.startFail 5)
      else .next (((v.set fDevStart_dram_ms (min 65535 ms)).setPins { v.pins with stage := 5 }).trainAll) := by
  obtain ⟨u, hu⟩ : ∃ u, u = s.advanceTo (ms * 1000000) := ⟨_, rfl⟩
  have huw : Within [.clock] s u := hu ▸ State.advanceTo_within ..
  have husec : u.sec = s.sec := by rw [hu]; rfl
  have hrepair : (if u.sec.fuses.lc = 4 then u else u.sec.flash.repairList.foldl State.repairCandidate u) = u := by
    rw [husec]
    obtain hlc | hlist := hnone
    · exact if_pos hlc
    · rw [hlist]
      exact ite_self _
  obtain ⟨v, hv⟩ : ∃ v, v = (List.range 8).foldl State.showPpr u := ⟨_, rfl⟩
  have hvw : Within [.regs] u v := hv ▸ Within.foldl (fun u d => (u.showPpr_keeps d).within) _ _
  refine ⟨v, by rw [hvw.2 .pins (by simp), huw.2 .pins (by simp)], (huw.mono (by simp)).trans (hvw.mono (by simp)), ?_⟩
  show execDramInitialised ok ms s = _
  rw [execDramInitialised, if_neg (State.not_atStage h), hv, ← hrepair, hu]

theorem execDramInitialised_spec (ms : Nat) (h : s.atStage 5 = true) (hnone : s.sec.fuses.lc = 4 ∨ s.sec.flash.repairList = []) :
    (∃ u, exec (.dramInitialised true ms) s = .next u ∧ u.pins.stage = 5 ∧ u.get fDevStart_dram_ms = min 65535 ms ∧
      (∀ k < 8, u.moduleState k = 1) ∧ Within [.regs, .clock, .uci, .pins] s u) ∧
    ∃ u, exec (.dramInitialised false ms) s = .next u ∧ u.pins.failed = true ∧ u.get fDevStart_failed_stage = 5 ∧
      Within [.regs, .clock, .pins] s u := by
  constructor
  · obtain ⟨v, hpins, hw, hexec⟩ := execDramInitialised_stages true ms h hnone
    obtain ⟨w, hwdef⟩ : ∃ w, w = (v.set fDevStart_dram_ms (min 65535 ms)).setPins { v.pins with stage := 5 } := ⟨_, rfl⟩
    have hww : Within [.regs, .pins] v w :=
      hwdef ▸ ((State.set_within ..).mono (by simp)).trans ((State.setPins_within ..).mono (by simp))
    have hregs : w.regs = (v.set fDevStart_dram_ms (min 65535 ms)).regs := by rw [hwdef]; rfl
    obtain ⟨hmodules, hms, htw⟩ := w.trainAll_spec
    rw [← hwdef] at hexec
    refine ⟨_, hexec, ?_, ?_, hmodules, (hw.mono (by simp)).trans ((hww.mono (by simp)).trans (htw.mono (by simp)))⟩
    · rw [htw.2 .pins (by simp), hwdef]
      rfl
    · rw [hms, State.get_of_regs hregs, State.get_set_same]
      exact Nat.mod_eq_of_lt (by rw [show fDevStart_dram_ms.width = 16 from rfl]; omega)
  · obtain ⟨v, hpins, hw, hexec⟩ := execDramInitialised_stages false ms h hnone
    obtain ⟨hfailed, hstage, -⟩ := v.startFail_spec (n := 5) (by decide)
    exact ⟨_, hexec, by rw [hfailed], hstage, (hw.mono (by simp)).trans ((State.startFail_within ..).mono (by simp))⟩

end Stages

/-- Settles O51: each stage runs after the one before, and one that fails reports itself. -/
theorem startUp : Obligations.StartUp := by
  unfold Obligations.StartUp
  refine ⟨?_, fun s n => s.atStage_iff n, ?_, ?_, ?_, ?_, ?_, ?_, ?_, ?_, ?_, ?_, ?_⟩
  · intro s ok a b ms
    exact ⟨fun h => if_pos (by simp [h]), fun h => if_pos (by simp [h]), fun h => if_pos (by simp [h]), fun h => if_pos (by simp [h]),
      fun h => if_pos (by simp [h])⟩
  · intro s h
    exact ⟨⟨_, if_neg (State.not_atStage h), rfl, State.setPins_within ..⟩, if_neg (State.not_atStage h)⟩
  · intro s a b ms h hok
    obtain ⟨hstage, hbank, hfallback, hms, hw⟩ := (s.advanceTo (ms * 1000000)).runFirmware_spec s.sec.flash.preferB false ms
    refine ⟨_, ?_, hstage, hbank, hfallback, hms, ((State.advanceTo_within ..).mono (by simp)).trans (hw.mono (by simp))⟩
    rw [execFirmwareVerified_eq ms h, if_neg (by simp [hok]), if_pos hok]
  · intro s a b ms h hbad hok
    obtain ⟨hstage, hbank, hfallback, -, hw⟩ := (s.advanceTo (ms * 1000000)).runFirmware_spec (!s.sec.flash.preferB) true ms
    generalize hrun : (s.advanceTo (ms * 1000000)).runFirmware (!s.sec.flash.preferB) true ms = v at *
    refine ⟨v.event 0x1C 0x84 (if !s.sec.flash.preferB then 1 else 0) (if s.sec.flash.preferB then 1 else 0), ?_, ?_, ?_, ?_,
      ((State.advanceTo_within ..).mono (by simp)).trans ((hw.mono (by simp)).trans ((State.event_within ..).mono (by decide)))⟩
    · rw [execFirmwareVerified_eq ms h, if_neg (by simp [hok]), if_neg (by simp [hbad]), hrun]
    · rw [State.event_pins, hstage]
    · rw [State.get_event (by decide), hbank]
      cases s.sec.flash.preferB <;> rfl
    · rw [State.get_event (by decide), hfallback]
      rfl
  · intro s ms h
    obtain ⟨hpins, hstage, hdriven⟩ := (s.advanceTo (ms * 1000000)).startFail_spec (n := 2) (by decide)
    obtain ⟨-, -, hone, -⟩ := (s.atStage_iff 2).1 h
    refine ⟨_, ?_, by rw [hpins], ?_, hstage, hdriven,
      ((State.advanceTo_within ..).mono (by simp)).trans ((State.startFail_within ..).mono (by simp))⟩
    · rw [execFirmwareVerified_eq ms h, if_pos (by simp)]
    · rw [hpins]
      exact Nat.succ.inj hone
  · intro s h hsoft
    have hexec : ∀ ok, exec (.weltsTrained ok) s = if !ok then .next (s.startFail 4)
        else .next ({ s with clock := { s.clock with running := true } }.setPins { s.pins with stage := 4 }) := fun ok => by
      show execWeltsTrained ok s = _
      rw [execWeltsTrained, if_neg (State.not_atStage h), hsoft]
      rfl
    obtain ⟨hpins, hstage, -⟩ := s.startFail_spec (n := 4) (by decide)
    refine ⟨⟨_, hexec true, rfl, rfl, ?_⟩, ⟨_, hexec false, by rw [hpins], hstage, State.startFail_within ..⟩⟩
    exact (((Within.refl [.clock, .pins] s).setClock _)).setPins _
  · exact fun s ms h hnone => execDramInitialised_spec ms h hnone
  · intro s e h
    rw [State.repairCandidate]
    exact if_pos h
  · exact fun s d mine hmine => s.showPpr_spec d hmine
  · exact fun s e h => State.repairCandidate_spec e h
  · intro s ms h
    refine ⟨_, if_neg (State.not_atStage h), rfl, ?_, ?_⟩
    · refine (State.get_set_same ..).trans (Nat.mod_eq_of_lt ?_)
      rw [show fDevStart_ready_ms.width = 16 from rfl]
      omega
    · exact (((State.advanceTo_within ..).mono (by simp)).trans ((State.set_within ..).mono (by simp))).trans
        ((State.setPins_within ..).mono (by simp))
  · intro s
    simp [State.ready, State.flag, and_assoc]

end Sys2Proof.Machine

/-! SUPPORT. Event records, fault records and vectors (R320, R321, R409 to R413). -/

namespace Sys2Proof.Machine

set_option Elab.async false

/-! ## What a list of writes leaves -/

/-- Where no field is written twice, each reads what was written. -/
theorem State.get_setAll_mem (l : List (Fld × Nat)) (s : State) (hnd : (l.map fun x => x.1.key).Nodup) {f : Fld} {v : Nat} (h : (f, v) ∈ l) :
    (s.setAll l).get f = v % 2 ^ f.width := by
  induction l generalizing s with
  | nil => exact absurd h List.not_mem_nil
  | cons x l ih =>
    obtain ⟨hx, hnd⟩ := List.nodup_cons.1 hnd
    obtain rfl | h := List.mem_cons.1 h
    · refine ((s.set f v).get_setAll_ne l f fun y hy heq => hx ?_).trans (State.get_set_same ..)
      exact List.mem_map.2 ⟨y, hy, heq.symm⟩
    · exact ih (s.set x.1 x.2) hnd h

/-- The writes of an event record at place `i` of the ring (R413). -/
def eventWrites (i src code d0 d1 n ns stitch head full : Nat) (part : Option Nat) : List (Fld × Nat) :=
  [(fFltEvA_source i, src), (fFltEvA_code i, code), (fFltEvA_partition i, part.getD 0),
   (fFltEvA_partition_valid i, if part.isSome then 1 else 0), (fFltEvA_valid i, 1), (fFltEvA_sequence i, n),
   (fFltEvB_ns i, ns), (fFltEvB_stitch i, stitch), (fFltEvC_data0 i, d0), (fFltEvD_data1 i, d1),
   (fFltEvHead_count, head), (fFltEvStatus_full, full)]

theorem eventWrites_nodup (i src code d0 d1 n ns stitch head full : Nat) (part : Option Nat) :
    ((eventWrites i src code d0 d1 n ns stitch head full part).map fun x => x.1.key).Nodup := by
  simp only [eventWrites, List.map_cons, List.map_nil, List.nodup_cons, List.mem_cons, List.not_mem_nil, or_false, not_or, Fld.key,
    fFltEvA_source, fFltEvA_code, fFltEvA_partition, fFltEvA_partition_valid, fFltEvA_valid, fFltEvA_sequence, fFltEvB_ns, fFltEvB_stitch,
    fFltEvC_data0, fFltEvD_data1, RegKind.addr, RegKind.base, kFltEvA, kFltEvB, kFltEvC, kFltEvD, fFltEvHead_count, fFltEvStatus_full,
    kFltEvHead, kFltEvStatus, List.nodup_nil, and_true, not_false_iff]
  omega

theorem dropped_ne_eventWrites {i src code d0 d1 n ns stitch head full : Nat} {part : Option Nat} {x : Fld × Nat}
    (hx : x ∈ eventWrites i src code d0 d1 n ns stitch head full part) : fFltEvStatus_dropped.key ≠ x.1.key := by
  simp only [eventWrites, List.mem_cons, List.not_mem_nil, or_false] at hx
  rcases hx with rfl | rfl | rfl | rfl | rfl | rfl | rfl | rfl | rfl | rfl | rfl | rfl <;>
    simp only [Fld.key, fFltEvA_source, fFltEvA_code, fFltEvA_partition, fFltEvA_partition_valid, fFltEvA_valid, fFltEvA_sequence,
      fFltEvB_ns, fFltEvB_stitch, fFltEvC_data0, fFltEvD_data1, RegKind.addr, RegKind.base, kFltEvA, kFltEvB, kFltEvC, kFltEvD,
      fFltEvHead_count, fFltEvStatus_full, fFltEvStatus_dropped, kFltEvHead, kFltEvStatus] <;> omega

/-- The writes of a fault record at place `i` of the ring (R409). -/
def faultWrites (i head dropped ns stitch full : Nat) (f : FaultInfo) : List (Fld × Nat) :=
  [(fFltRecA_cause i, f.cause), (fFltRecA_level i, f.level), (fFltRecA_unit_kind i, f.unitKind),
   (fFltRecA_die i, f.die), (fFltRecA_unit i, f.unit), (fFltRecA_guilty i, f.guilty.getD 0),
   (fFltRecA_guilty_valid i, if f.guilty.isSome then 1 else 0), (fFltRecA_affected i, f.affected),
   (fFltRecA_tile i, f.tile.getD 0), (fFltRecA_tile_valid i, if f.tile.isSome then 1 else 0),
   (fFltRecA_valid i, 1), (fFltRecB_sequence i, head + dropped), (fFltRecB_stitch i, stitch),
   (fFltRecC_ns i, ns), (fFltRecC_generation i, f.gen), (fFltRecC_detail i, f.detail),
   (fFltRecD_address i, f.address), (fFltRecHead_count, head + 1), (fFltRecStatus_full, full)]

theorem faultWrites_nodup (i head dropped ns stitch full : Nat) (f : FaultInfo) :
    ((faultWrites i head dropped ns stitch full f).map fun x => x.1.key).Nodup := by
  simp only [faultWrites, List.map_cons, List.map_nil, List.nodup_cons, List.mem_cons, List.not_mem_nil, or_false, not_or, Fld.key,
    fFltRecA_cause, fFltRecA_level, fFltRecA_unit_kind, fFltRecA_die, fFltRecA_unit, fFltRecA_guilty, fFltRecA_guilty_valid,
    fFltRecA_affected, fFltRecA_tile, fFltRecA_tile_valid, fFltRecA_valid, fFltRecB_sequence, fFltRecB_stitch, fFltRecC_ns,
    fFltRecC_generation, fFltRecC_detail, fFltRecD_address, fFltRecHead_count, fFltRecStatus_full, RegKind.addr, RegKind.base,
    kFltRecA, kFltRecB, kFltRecC, kFltRecD, kFltRecHead, kFltRecStatus, List.nodup_nil, and_true, not_false_iff]
  omega

/-! ## Vectors -/

/-- The vectors after a trigger of vector `vec` of function `fn` (R320, R321). -/
def State.firedVector (s : State) (fn vec : Nat) : UciSt :=
  let v := s.vector fn vec
  let x : Vector := if v.masked then { v with pending := true } else if v.sent then { v with held := true } else { v with sent := true }
  { s.uci with vectors := mapSet {} s.uci.vectors (fn * 32 + vec) x }

/-- What leaves at a trigger: an in-band interrupt, where they are enabled, and the message. -/
def State.firedOut (s : State) (fn vec : Nat) : List Out :=
  s.out ++ (if fn = 0 ∧ s.uci.ibi = true then [.ibi vec] else []) ++
    (if (s.vector fn vec).masked = false ∧ (s.vector fn vec).sent = false ∧ s.get fUciStatus_link_up = 1 then [.msix fn vec] else [])

theorem State.fire_spec (s : State) (fn vec : Nat) : (s.fire fn vec).uci = s.firedVector fn vec ∧ (s.fire fn vec).out = s.firedOut fn vec := by
  have hmessage : ∀ u : State, (u.message fn vec).uci = u.uci ∧
      (u.message fn vec).out = u.out ++ (if u.get fUciStatus_link_up = 1 then [.msix fn vec] else []) := fun u => by
    by_cases hup : u.get fUciStatus_link_up = 1
    · rw [State.message, if_pos (State.flag_of_get hup), if_pos hup]
      exact ⟨rfl, rfl⟩
    · rw [State.message, if_neg (by simpa [State.flag] using hup), if_neg hup]
      exact ⟨rfl, (List.append_nil _).symm⟩
  unfold State.fire
  extract_lets u v
  have hu : u = { s with out := s.out ++ (if fn = 0 ∧ s.uci.ibi = true then [.ibi vec] else []) } := by
    by_cases hibi : fn = 0 ∧ s.uci.ibi = true
    · rw [if_pos hibi]
      exact if_pos (by simpa using hibi)
    · rw [if_neg hibi, List.append_nil]
      exact if_neg (by simpa using hibi)
  have hv : v = s.vector fn vec := by
    show u.vector fn vec = _
    rw [hu]
    rfl
  clear_value u v
  subst hu hv
  rw [State.firedVector, State.firedOut]
  by_cases hmasked : (s.vector fn vec).masked = true
  · rw [if_pos hmasked]
    simp [State.setVector, hmasked]
  · rw [if_neg hmasked]
    by_cases hsent : (s.vector fn vec).sent = true
    · rw [if_pos hsent]
      simp [State.setVector, hmasked, hsent]
    · rw [if_neg hsent]
      refine ⟨(hmessage _).1.trans ?_, (hmessage _).2.trans ?_⟩
      · simp [State.setVector, hmasked, hsent]
      · show s.out ++ _ ++ (if s.get fUciStatus_link_up = 1 then [.msix fn vec] else []) = _
        simp [hmasked, hsent]

/-! ## Events -/

section Event
variable (s : State) (src code d0 d1 : Nat) (part : Option Nat)

/-- The places of the event ring that are in use. -/
def State.eventsUsed : Nat := (s.get fFltEvHead_count + 2 ^ 32 - s.get fFltEvTail_count) % 2 ^ 32

/-- An event with room in its ring: the sequence goes on, the record is written, and vector 3 fires. -/
theorem State.event_stages (h : s.eventsUsed ≠ 8192) : ∃ u w : State, u.regs = s.regs ∧ u.uci = s.uci ∧ u.out = s.out ∧
    w = u.setAll (eventWrites (s.get fFltEvHead_count % 8192) src code d0 d1 (mapGet 0 s.flt.evSeq src) s.fromTick s.stitch
      (s.get fFltEvHead_count + 1) (if s.eventsUsed + 1 = 8192 then 1 else 0) part) ∧
    s.event src code d0 d1 part = w.fire 0 3 := by
  have hused : ¬ (({ s with flt := { s.flt with evSeq := mapSet 0 s.flt.evSeq src (mapGet 0 s.flt.evSeq src + 1) } } : State).get
      fFltEvHead_count + 2 ^ 32 - ({ s with flt := { s.flt with evSeq := mapSet 0 s.flt.evSeq src (mapGet 0 s.flt.evSeq src + 1) } } :
      State).get fFltEvTail_count) % 2 ^ 32 = 8192 := h
  unfold State.event
  extract_lets n flt u head used i w
  refine ⟨u, w, rfl, rfl, rfl, rfl, if_neg hused⟩

theorem State.event_full (h : s.eventsUsed = 8192) : ∃ u : State, u.regs = s.regs ∧ Within [.flt] s u ∧
    s.event src code d0 d1 part = u.bump fFltEvStatus_dropped 1 := by
  unfold State.event
  extract_lets n flt u head used i w
  exact ⟨u, rfl, (Within.refl [.flt] s).setFlt _, if_pos h⟩

theorem State.fire_congr {s w : State} (fn vec : Nat) (huci : w.uci = s.uci) (hout : w.out = s.out)
    (hup : w.get fUciStatus_link_up = s.get fUciStatus_link_up) : (w.fire fn vec).uci = (s.fire fn vec).uci ∧
    (w.fire fn vec).out = (s.fire fn vec).out := by
  have hshape : ∀ t : State, (t.fire fn vec).uci = (t.firedVector fn vec) ∧ (t.fire fn vec).out = t.firedOut fn vec := fun t => t.fire_spec fn vec
  obtain ⟨hu, ho⟩ := hshape w
  obtain ⟨hu', ho'⟩ := hshape s
  rw [hu, hu', ho, ho', State.firedVector, State.firedVector, State.firedOut, State.firedOut, State.vector, State.vector, huci, hout, hup]
  exact ⟨rfl, rfl⟩

theorem State.event_record (h : s.eventsUsed ≠ 8192) {i : Nat} (hi : i = s.get fFltEvHead_count % 8192) :
    (∀ (f : Fld) (v : Nat), (f, v) ∈ eventWrites i src code d0 d1 (mapGet 0 s.flt.evSeq src) s.fromTick s.stitch
      (s.get fFltEvHead_count + 1) (if s.eventsUsed + 1 = 8192 then 1 else 0) part → (s.event src code d0 d1 part).get f = v % 2 ^ f.width) ∧
    (s.event src code d0 d1 part).get fFltEvStatus_dropped = s.get fFltEvStatus_dropped ∧
    (s.event src code d0 d1 part).uci = (s.fire 0 3).uci ∧ (s.event src code d0 d1 part).out = (s.fire 0 3).out := by
  obtain ⟨u, w, hregs, huci, hout, hw, heq⟩ := s.event_stages src code d0 d1 part h
  rw [← hi] at hw
  have hww : Within [.regs] u w := hw ▸ State.setAll_within ..
  have hget : ∀ g, (s.event src code d0 d1 part).get g = w.get g := fun g => by rw [heq, State.get_of_regs (State.fire_regs ..)]
  have hoff : ∀ g : Fld, g.offEvents = true ∨ g = fFltEvStatus_dropped → w.get g = s.get g := fun g hg => by
    rw [hw, State.get_setAll_ne _ _ _ fun x hx => ?_, State.get_of_regs hregs]
    obtain hg | rfl := hg
    · refine Fld.ne_of_offEvents (s := s) hg ?_
      rw [hi] at hx
      simp only [eventWrites, List.mem_cons, List.not_mem_nil, or_false] at hx
      rcases hx with rfl | rfl | rfl | rfl | rfl | rfl | rfl | rfl | rfl | rfl | rfl | rfl <;> simp [eventFields]
    · exact dropped_ne_eventWrites hx
  obtain ⟨huci', hout'⟩ := State.fire_congr (s := s) (w := w) 0 3 ((hww.2 .uci (by simp)).trans huci) ((hww.2 .out (by simp)).trans hout)
    (hoff _ (.inl (by decide)))
  refine ⟨fun f v hf => ?_, ?_, ?_, ?_⟩
  · rw [hget, hw]
    exact State.get_setAll_mem _ _ (eventWrites_nodup ..) hf
  · rw [hget, hoff _ (.inr rfl)]
  · rw [heq, huci']
  · rw [heq, hout']

theorem State.event_evSeq : mapGet 0 (s.event src code d0 d1 part).flt.evSeq src = mapGet 0 s.flt.evSeq src + 1 ∧
    ∀ k, k ≠ src → mapGet 0 (s.event src code d0 d1 part).flt.evSeq k = mapGet 0 s.flt.evSeq k := by
  rw [State.event_flt]
  dsimp only
  exact ⟨mapGet_mapSet_same .., fun k hk => mapGet_mapSet_ne _ _ _ hk⟩

theorem State.event_dropped (h : s.eventsUsed = 8192) :
    (s.event src code d0 d1 part).get fFltEvStatus_dropped = min (2 ^ 32 - 1) (s.get fFltEvStatus_dropped + 1) ∧
    Within [.regs, .flt] s (s.event src code d0 d1 part) ∧ RegsKept [fFltEvStatus_dropped] s (s.event src code d0 d1 part) := by
  obtain ⟨u, hregs, hw, heq⟩ := s.event_full src code d0 d1 part h
  rw [heq]
  refine ⟨?_, (hw.mono (by simp)).trans ((State.bump_within ..).mono (by simp)), (RegsKept.of_eq hregs).bump 1 (by simp)⟩
  rw [State.get_bump_same, State.get_of_regs hregs]
  rfl

end Event

/-! ## Fault records -/

section Fault
variable (s : State) (f : FaultInfo)

/-- The places of the fault ring that are in use. -/
def State.faultsUsed : Nat := (s.get fFltRecHead_count + 2 ^ 32 - s.get fFltRecTail_count) % 2 ^ 32

/-- A fault record with room in its ring is written, and vector 2 fires. -/
theorem State.recordFault_stages (h : s.faultsUsed ≠ 1024) : ∃ w : State,
    w = s.setAll (faultWrites (s.get fFltRecHead_count % 1024) (s.get fFltRecHead_count) (s.get fFltRecStatus_dropped) s.fromTick s.stitch
      (if s.faultsUsed + 1 = 1024 then 1 else 0) f) ∧ s.recordFault f = w.fire 0 2 := by
  unfold State.recordFault
  extract_lets head used dropped i w
  exact ⟨w, rfl, if_neg h⟩

theorem faultWrites_ne {i : Nat} (hi : i < 1024) {head dropped ns stitch full : Nat} {f : FaultInfo} {x : Fld × Nat}
    {g : Fld} (hg : g = fFltRecStatus_dropped ∨ g = fUciStatus_link_up) (hx : x ∈ faultWrites i head dropped ns stitch full f) : g.key ≠ x.1.key := by
  simp only [faultWrites, List.mem_cons, List.not_mem_nil, or_false] at hx
  rcases hg with rfl | rfl <;>
  rcases hx with rfl | rfl | rfl | rfl | rfl | rfl | rfl | rfl | rfl | rfl | rfl | rfl | rfl | rfl | rfl | rfl | rfl | rfl | rfl <;>
    simp only [Fld.key, fFltRecA_cause, fFltRecA_level, fFltRecA_unit_kind, fFltRecA_die, fFltRecA_unit, fFltRecA_guilty,
      fFltRecA_guilty_valid, fFltRecA_affected, fFltRecA_tile, fFltRecA_tile_valid, fFltRecA_valid, fFltRecB_sequence, fFltRecB_stitch,
      fFltRecC_ns, fFltRecC_generation, fFltRecC_detail, fFltRecD_address, fFltRecHead_count, fFltRecStatus_full, fFltRecStatus_dropped,
      fUciStatus_link_up, RegKind.addr, RegKind.base, kFltRecA, kFltRecB, kFltRecC, kFltRecD, kFltRecHead, kFltRecStatus,
      kUciStatus] <;> omega

theorem State.recordFault_record (h : s.faultsUsed ≠ 1024) {i : Nat} (hi : i = s.get fFltRecHead_count % 1024) :
    (∀ (g : Fld) (v : Nat), (g, v) ∈ faultWrites i (s.get fFltRecHead_count) (s.get fFltRecStatus_dropped) s.fromTick s.stitch
      (if s.faultsUsed + 1 = 1024 then 1 else 0) f → (s.recordFault f).get g = v % 2 ^ g.width) ∧
    (s.recordFault f).get fFltRecStatus_dropped = s.get fFltRecStatus_dropped ∧
    (s.recordFault f).uci = (s.fire 0 2).uci ∧ (s.recordFault f).out = (s.fire 0 2).out := by
  obtain ⟨w, hw, heq⟩ := s.recordFault_stages f h
  rw [← hi] at hw
  have hww : Within [.regs] s w := hw ▸ State.setAll_within ..
  have hget : ∀ g, (s.recordFault f).get g = w.get g := fun g => by rw [heq, State.get_of_regs (State.fire_regs ..)]
  have hoff : ∀ g : Fld, g = fFltRecStatus_dropped ∨ g = fUciStatus_link_up → w.get g = s.get g := fun g hg => by
    rw [hw, State.get_setAll_ne _ _ _ fun x hx => faultWrites_ne (hi ▸ Nat.mod_lt _ (by decide)) hg hx]
  obtain ⟨huci, hout⟩ := State.fire_congr (s := s) (w := w) 0 2 (hww.2 .uci (by simp)) (hww.2 .out (by simp)) (hoff _ (.inr rfl))
  refine ⟨fun g v hg => ?_, ?_, ?_, ?_⟩
  · rw [hget, hw]
    exact State.get_setAll_mem _ _ (faultWrites_nodup ..) hg
  · rw [hget, hoff _ (.inl rfl)]
  · rw [heq, huci]
  · rw [heq, hout]

theorem State.recordFault_dropped (h : s.faultsUsed = 1024) : s.recordFault f = s.bump fFltRecStatus_dropped 1 := if_pos h

end Fault

/-- Settles O52: an event and a fault record, written or dropped, and the vectors that they fire. -/
theorem eventRecords : Obligations.EventRecords := by
  unfold Obligations.EventRecords
  refine ⟨?_, ?_, ?_, ?_, ?_, ?_, ?_⟩
  · intro s src code d0 d1 part
    obtain ⟨hsame, hother⟩ := s.event_evSeq src code d0 d1 part
    exact ⟨hsame, hother, State.event_within .., State.event_regsKept _ _ _ _ _ _⟩
  · intro s src code d0 d1 part i used hi hused hroom
    have hroom' : s.eventsUsed ≠ 8192 := fun h => hroom (hused.trans h)
    obtain ⟨hread, hdropped, huci, hout⟩ := s.event_record src code d0 d1 part hroom' hi
    have hbit : ∀ c : Prop, [Decidable c] → (if c then 1 else 0) % 2 ^ 1 = if c then 1 else 0 := fun c _ => by split <;> rfl
    refine ⟨hread _ _ ?_, hread _ _ ?_, hread _ _ ?_, (hread _ _ ?_).trans (hbit _), hread _ 1 ?_, hread _ _ ?_, hread _ _ ?_, hread _ _ ?_,
      hread _ _ ?_, hread _ _ ?_, hread _ _ ?_, (hread _ (if s.eventsUsed + 1 = 8192 then 1 else 0) ?_).trans ?_, hdropped, huci, hout⟩
    any_goals simp only [eventWrites, List.mem_cons, true_or, or_true]
    rw [hused]
    exact hbit _
  · exact fun s src code d0 d1 part h => s.event_dropped src code d0 d1 part h
  · exact fun s f => ⟨(s.recordFault_keeps f).within, State.recordFault_regsKept _ _⟩
  · intro s f i used hi hused hroom
    have hroom' : s.faultsUsed ≠ 1024 := fun h => hroom (hused.trans h)
    obtain ⟨hread, hdropped, huci, hout⟩ := s.recordFault_record f hroom' hi
    have hbit : ∀ c : Prop, [Decidable c] → (if c then 1 else 0) % 2 ^ 1 = if c then 1 else 0 := fun c _ => by split <;> rfl
    refine ⟨hread _ _ ?_, hread _ _ ?_, hread _ _ ?_, hread _ _ ?_, hread _ _ ?_, hread _ _ ?_, (hread _ _ ?_).trans (hbit _), hread _ _ ?_,
      hread _ _ ?_, (hread _ _ ?_).trans (hbit _), hread _ 1 ?_, hread _ _ ?_, hread _ _ ?_, hread _ _ ?_, hread _ _ ?_, hread _ _ ?_,
      hread _ _ ?_, hread _ _ ?_, (hread _ (if s.faultsUsed + 1 = 1024 then 1 else 0) ?_).trans ?_, hdropped, huci, hout⟩
    any_goals simp only [faultWrites, List.mem_cons, true_or, or_true]
    rw [hused]
    exact hbit _
  · intro s f h
    dsimp only
    rw [s.recordFault_dropped f h]
    exact ⟨State.get_bump_same .., State.bump_within .., (RegsKept.refl _ s).bump 1 (by simp)⟩
  · intro s fn vec v hv
    obtain ⟨huci, hout⟩ := s.fire_spec fn vec
    refine ⟨?_, ?_, fun fn' vec' hne => ?_, State.fire_within ..⟩
    · rw [State.vector, huci, hv]
      exact mapGet_mapSet_same ..
    · rw [hout, hv]
      rfl
    · rw [State.vector, huci]
      exact mapGet_mapSet_ne _ _ _ hne

end Sys2Proof.Machine

/-! SUPPORT. Number formats (R122 to R128): what is read from a code and written back is the code. -/

namespace Sys2Proof.Machine

set_option Elab.async false

/-! ## The fields of a code -/

namespace FpFmt

variable (f : FpFmt) (c : Nat)

/-- The exponent field, the fraction field and the magnitude of a code. -/
def exField : Nat := bitsAt c f.mbits f.ebits
def frField : Nat := bitsAt c 0 f.mbits
def magnitude : Nat := bitsAt c 0 (f.ebits + f.mbits)
def negative : Bool := c.testBit (f.ebits + f.mbits)

theorem exField_lt : f.exField c < 2 ^ f.ebits := Nat.mod_lt _ (Nat.two_pow_pos _)
theorem frField_lt : f.frField c < 2 ^ f.mbits := Nat.mod_lt _ (Nat.two_pow_pos _)

theorem magnitude_eq : f.magnitude c = f.exField c * 2 ^ f.mbits + f.frField c := by
  rw [magnitude, exField, frField, bitsAt_eq, bitsAt_eq, bitsAt_eq, pow_zero, Nat.div_one, Nat.add_comm f.ebits, pow_add, Nat.mod_mul]
  ring

variable {f c}

theorem code_eq (hc : c < 2 ^ (1 + f.ebits + f.mbits)) : c = f.signBit (f.negative c) + (f.exField c * 2 ^ f.mbits + f.frField c) := by
  rw [← magnitude_eq, magnitude, bitsAt_eq, pow_zero, Nat.div_one, signBit, negative, Nat.testBit_eq_decide_div_mod_eq]
  have hlt : c / 2 ^ (f.ebits + f.mbits) < 2 := by
    rw [Nat.div_lt_iff_lt_mul (Nat.two_pow_pos _), ← pow_succ']
    rwa [show f.ebits + f.mbits + 1 = 1 + f.ebits + f.mbits by ring]
  have hsplit := Nat.div_add_mod c (2 ^ (f.ebits + f.mbits))
  obtain h | h := Nat.le_one_iff_eq_zero_or_eq_one.1 (Nat.lt_succ_iff.1 hlt)
  · rw [h] at hsplit ⊢
    simpa using hsplit.symm
  · rw [h] at hsplit ⊢
    simpa using hsplit.symm

end FpFmt

/-! ## The formats of R122 -/

/-- What the formats of R122 with sign, exponent and fraction have in common. -/
structure FpFmt.Regular (f : FpFmt) : Prop where
  /-- The greatest finite magnitude is a normal number. -/
  top : f.read f.maxCode = .fin false (2 ^ f.mbits + f.maxCode % 2 ^ f.mbits) (((f.maxCode / 2 ^ f.mbits : Nat) : Int) - f.bias - f.mbits)
  top_pos : 1 ≤ f.maxCode / 2 ^ f.mbits
  /-- With infinities, it lies below the top exponent. -/
  infinite : f.hasInf = true → f.maxCode + 1 = (2 ^ f.ebits - 1) * 2 ^ f.mbits ∧ f.nanCode ≠ none
  /-- Without, it is the greatest code, but for the one of a NaN. -/
  full : f.hasInf = false → f.nanCode = none → f.maxCode + 1 = 2 ^ (f.ebits + f.mbits)
  nan : f.hasInf = false → ∀ n ∈ f.nanCode, n = f.maxCode + 1 ∧ n + 1 = 2 ^ (f.ebits + f.mbits)

/-- A format is regular where it has sign, exponent and fraction. -/
def Fmt.Regular : Fmt → Prop
  | .binary f | .mx f => f.Regular
  | _ => True

theorem of_ite_some {P : Fmt → Prop} {p : Prop} [Decidable p] {F : Fmt} {o : Option Fmt} (hF : P F) (ho : ∀ G, o = some G → P G) :
    ∀ G, (if p then some F else o) = some G → P G := by
  intro G h
  split at h
  · cases h
    exact hF
  · exact ho G h

theorem isSome_ite_some {p : Prop} [Decidable p] {F : Fmt} {o : Option Fmt} :
    (if p then some F else o).isSome = true ↔ p ∨ o.isSome = true := by
  split <;> simp [*]

theorem isSome_fmtOf (k : Nat) : (fmtOf k).isSome = true ↔
    k ∈ [0x01, 0x02, 0x03, 0x04, 0x10, 0x11, 0x12, 0x13, 0x14, 0x15, 0x20, 0x21, 0x22, 0x30] := by
  unfold fmtOf
  iterate 14 rw [isSome_ite_some]
  simp

theorem Fmt.regular_of_fmtOf {k : Nat} : ∀ F, fmtOf k = some F → F.Regular := by
  unfold fmtOf
  iterate 9 refine of_ite_some (P := Fmt.Regular) ⟨by decide, by decide, by decide, by decide, by decide⟩ ?_
  iterate 5 refine of_ite_some (P := Fmt.Regular) trivial ?_
  nofun

theorem FpFmt.regular_of_fmtOf {k : Nat} {f : FpFmt} (h : fmtOf k = some (.binary f) ∨ fmtOf k = some (.mx f)) : f.Regular :=
  h.elim (Fmt.regular_of_fmtOf _) (Fmt.regular_of_fmtOf _)

/-! ## Writing a number that the format holds -/

namespace FpFmt

variable {f : FpFmt}

/-- The exponent of a significand whose exponent field counts as `x`: 1 for a subnormal number. -/
def expOf (f : FpFmt) (x : Nat) : Int := (x : Int) - f.bias - f.mbits

theorem expOf_one (f : FpFmt) : f.expOf 1 = f.minQ := by simp [expOf, minQ]

/-- A significand and exponent field that the format holds: a normal number, or a subnormal one at the least exponent. -/
structure Holds (f : FpFmt) (x sig : Nat) : Prop where
  pos : sig ≠ 0
  exp_pos : 1 ≤ x
  lt : sig < 2 * 2 ^ f.mbits
  normal : x = 1 ∨ 2 ^ f.mbits ≤ sig
  le : (x - 1) * 2 ^ f.mbits + sig ≤ f.maxCode

/-- Its quantum is its own exponent: nothing of it is below the last bit of the fraction. -/
theorem Holds.quantum {x sig : Nat} (h : f.Holds x sig) : max (floorLog sig (f.expOf x) - f.mbits) f.minQ = f.expOf x := by
  have hlog : sig.log2 ≤ f.mbits := Nat.lt_succ_iff.1 ((Nat.log2_lt h.pos).2 (by simpa [pow_succ'] using h.lt))
  have hx := h.exp_pos
  simp only [floorLog, expOf, minQ]
  rcases h.normal with hn | hn
  · omega
  · have := (Nat.le_log2 h.pos).2 hn
    omega

theorem roundAt_self (mode : Nat) (neg : Bool) (m : Nat) (e : Int) : roundAt mode neg m e e = (m, false) := by
  simp [roundAt]

/-- It is no greater than the greatest finite number. -/
theorem Holds.not_above {x sig : Nat} (h : f.Holds x sig) (hX : 1 ≤ f.maxCode / 2 ^ f.mbits) :
    magCompare sig (f.expOf x) (2 ^ f.mbits + f.maxCode % 2 ^ f.mbits) (f.expOf (f.maxCode / 2 ^ f.mbits)) ≠ .gt := by
  have hN := Nat.two_pow_pos f.mbits
  have hsplit := Nat.div_add_mod f.maxCode (2 ^ f.mbits)
  have hmod := Nat.mod_lt f.maxCode hN
  obtain ⟨-, hx, hlt, hnormal, hle⟩ := h
  simp only [magCompare, expOf]
  generalize f.maxCode / 2 ^ f.mbits = X at *
  generalize f.maxCode % 2 ^ f.mbits = r at *
  generalize 2 ^ f.mbits = N at *
  obtain ⟨y, rfl⟩ := Nat.exists_eq_add_of_le' hx
  obtain ⟨Y, rfl⟩ := Nat.exists_eq_add_of_le' hX
  have hle' : y * N + sig ≤ (Y + 1) * N + r := by simpa [← hsplit, Nat.mul_comm N] using hle
  have hxX : y ≤ Y := by
    by_contra hgt
    have : (Y + 1) * N ≤ y * N := Nat.mul_le_mul_right N (by omega)
    rcases hnormal with hn | hn <;> omega
  obtain ⟨k, rfl⟩ := Nat.exists_eq_add_of_le hxX
  rw [min_eq_left (by omega), scaledAt, scaledAt, sub_self, Int.toNat_zero, pow_zero, mul_one, Nat.compare_ne_gt,
    show ((((y + k + 1 : Nat) : Int) - f.bias - f.mbits) - (((y + 1 : Nat) : Int) - f.bias - f.mbits)).toNat = k by omega]
  rcases k with - | k
  · simp only [Nat.add_zero, add_mul, one_mul] at hle'
    omega
  · have h2 : 2 ≤ 2 ^ (k + 1) := by
      simpa using Nat.pow_le_pow_right (n := 2) (by omega) (show 1 ≤ k + 1 by omega)
    nlinarith

theorem Holds.encode {x sig : Nat} (h : f.Holds x sig) (neg : Bool) :
    f.encode neg sig (f.expOf x) = f.signBit neg + ((x - 1) * 2 ^ f.mbits + sig) := by
  have hx := h.exp_pos
  have hne : sig ≠ 2 ^ (f.mbits + 1) := by
    have := h.lt
    rw [pow_succ']
    omega
  simp only [FpFmt.encode, if_neg hne, signBit]
  split
  · have hx1 : x = 1 := h.normal.resolve_right (by omega)
    simp [hx1]
  · obtain ⟨y, rfl⟩ := Nat.exists_eq_add_of_le' hx
    rw [show (f.expOf (y + 1) + f.mbits + f.bias).toNat = y + 1 by simp only [expOf]; omega, add_mul]
    simp only [Nat.add_sub_cancel]
    omega

/-- So it is written exactly, whatever the modes. -/
theorem Holds.roundInto {x sig : Nat} (h : f.Holds x sig) (hf : f.Regular) (mode sat : Nat) (neg : Bool) :
    f.roundInto mode sat neg sig (f.expOf x) = (f.signBit neg + ((x - 1) * 2 ^ f.mbits + sig), {}) := by
  have hcmp := h.not_above hf.top_pos
  simp only [expOf] at hcmp
  simp only [FpFmt.roundInto, h.quantum, roundAt_self, hf.top]
  rw [if_neg (by simpa [expOf] using hcmp), h.encode]
  simp

end FpFmt

/-! ## Reading a code that is no NaN -/

namespace FpFmt

variable {f : FpFmt} {c : Nat}

theorem magnitude_lt (c : Nat) : f.magnitude c < 2 ^ (f.ebits + f.mbits) := Nat.mod_lt _ (Nat.two_pow_pos _)

/-- The code of an infinity or of a NaN in the top exponent. -/
def Top (f : FpFmt) (c : Nat) : Prop := f.hasInf = true ∧ f.exField c = 2 ^ f.ebits - 1

/-- The one magnitude that names a NaN in a format without infinities. -/
def NanCode (f : FpFmt) (c : Nat) : Prop := f.hasInf = false ∧ f.nanCode = some (f.magnitude c)

theorem read_of_top (h : f.Top c) :
    f.read c = if f.frField c = 0 then .inf (f.negative c) else .nan (!(f.frField c).testBit (f.mbits - 1)) := by
  simp only [read, h.1, show bitsAt c f.mbits f.ebits = _ from h.2, Bool.true_and, beq_self_eq_true, if_true]
  rfl

theorem read_of_nanCode (h : f.NanCode c) : f.read c = .nan false := by
  simp only [read, h.1, h.2, magnitude, Bool.false_and, Bool.not_false, Bool.true_and, beq_self_eq_true, if_true, Bool.false_eq_true, if_false]

theorem read_of_finite (ht : ¬ f.Top c) (hn : ¬ f.NanCode c) :
    f.read c = if f.exField c = 0 then (if f.frField c = 0 then .fin (f.negative c) 0 0 else .fin (f.negative c) (f.frField c) (f.expOf 1))
      else .fin (f.negative c) (2 ^ f.mbits + f.frField c) (f.expOf (f.exField c)) := by
  have ht' : (f.hasInf && bitsAt c f.mbits f.ebits == 2 ^ f.ebits - 1) = false := by
    simpa [Top, exField] using ht
  have hn' : (!f.hasInf && f.nanCode == some (bitsAt c 0 (f.ebits + f.mbits))) = false := by
    simpa [NanCode, magnitude] using hn
  simp only [read, ht', hn', Bool.false_eq_true, if_false, expOf]
  rfl

theorem magnitude_le_of_finite (hf : f.Regular) (ht : ¬ f.Top c) (hn : ¬ f.NanCode c) : f.magnitude c ≤ f.maxCode := by
  have hlt := f.magnitude_lt c
  cases hinf : f.hasInf with
  | true =>
    obtain ⟨hmax, -⟩ := hf.infinite hinf
    have hex : f.exField c < 2 ^ f.ebits - 1 :=
      lt_of_le_of_ne (Nat.le_sub_one_of_lt (f.exField_lt c)) fun h => ht ⟨hinf, h⟩
    have hmul : (f.exField c + 1) * 2 ^ f.mbits ≤ (2 ^ f.ebits - 1) * 2 ^ f.mbits := Nat.mul_le_mul_right _ hex
    have hfr := f.frField_lt c
    rw [magnitude_eq]
    rw [add_mul] at hmul
    omega
  | false =>
    cases hcode : f.nanCode with
    | none =>
      have := hf.full hinf hcode
      omega
    | some n =>
      obtain ⟨hn1, hn2⟩ := hf.nan hinf n hcode
      have hne : n ≠ f.magnitude c := fun h => hn ⟨hinf, h ▸ hcode⟩
      omega

/-- The values that a code without NaN has: an infinity, a zero, or a number that the format holds, and the code that each has. -/
inductive Reads (f : FpFmt) (neg : Bool) : Val → Nat → Prop where
  | inf (h : f.hasInf = true) : Reads f neg (.inf neg) (f.signBit neg + (2 ^ f.ebits - 1) * 2 ^ f.mbits)
  | zero : Reads f neg (.fin neg 0 0) (f.signBit neg)
  | held {x sig : Nat} (h : f.Holds x sig) : Reads f neg (.fin neg sig (f.expOf x)) (f.signBit neg + ((x - 1) * 2 ^ f.mbits + sig))

theorem reads_of_finite (hf : f.Regular) (hc : c < 2 ^ (1 + f.ebits + f.mbits)) (ht : ¬ f.Top c) (hn : ¬ f.NanCode c) :
    f.Reads (f.negative c) (f.read c) c := by
  have hle := magnitude_le_of_finite hf ht hn
  have hcode := code_eq hc
  have hfr := f.frField_lt c
  rw [magnitude_eq] at hle
  rw [read_of_finite ht hn]
  split_ifs with hex hfr0
  · rw [hex, hfr0, zero_mul] at hcode
    have := Reads.zero (f := f) (neg := f.negative c)
    rwa [show f.signBit (f.negative c) = c by omega] at this
  · have hheld : f.Holds 1 (f.frField c) := ⟨hfr0, le_rfl, by omega, .inl rfl, by omega⟩
    rw [hex] at hcode
    have := Reads.held (neg := f.negative c) hheld
    simpa only [Nat.sub_self, ← hcode] using this
  · obtain ⟨y, hy⟩ := Nat.exists_eq_succ_of_ne_zero hex
    have hmul : f.exField c * 2 ^ f.mbits = (f.exField c - 1) * 2 ^ f.mbits + 2 ^ f.mbits := by
      simp [hy, add_mul]
    have hheld : f.Holds (f.exField c) (2 ^ f.mbits + f.frField c) := ⟨by omega, by omega, by omega, .inr (by omega), by omega⟩
    have := Reads.held (neg := f.negative c) hheld
    rwa [show f.signBit (f.negative c) + ((f.exField c - 1) * 2 ^ f.mbits + (2 ^ f.mbits + f.frField c)) = c by omega] at this

theorem reads_of_not_nan (hf : f.Regular) (hc : c < 2 ^ (1 + f.ebits + f.mbits)) (h : (f.read c).isNan = false) :
    f.Reads (f.negative c) (f.read c) c := by
  by_cases ht : f.Top c
  · rw [read_of_top ht] at h ⊢
    split at h
    case isTrue hfr =>
      have hcode := code_eq hc
      rw [ht.2, hfr, add_zero] at hcode
      rw [if_pos hfr]
      have := Reads.inf (neg := f.negative c) ht.1
      rwa [← hcode] at this
    case isFalse => simp [Val.isNan] at h
  · by_cases hn : f.NanCode c
    · simp [read_of_nanCode hn, Val.isNan] at h
    · exact reads_of_finite hf hc ht hn

/-- A value written is the code that reads as it. -/
theorem Reads.write {v : Val} {neg : Bool} (h : f.Reads neg v c) (hf : f.Regular) (mode sat : Nat) : f.write mode sat v = (c, {}) := by
  cases h with
  | inf hinf => simp [FpFmt.write, infCode, hinf]
  | zero => simp [FpFmt.write]
  | held hheld => simp only [FpFmt.write, if_neg hheld.pos, hheld.roundInto hf]

/-- Only a format that has a NaN reads one. -/
theorem nanCode_of_nan (hf : f.Regular) (h : (f.read c).isNan = true) : f.nanCode ≠ none := by
  by_cases ht : f.Top c
  · exact (hf.infinite ht.1).2
  · by_cases hn : f.NanCode c
    · simp [hn.2]
    · rw [read_of_finite ht hn] at h
      split_ifs at h <;> simp [Val.isNan] at h

theorem write_nan (hf : f.Regular) (mode sat : Nat) {sg : Bool} (h : f.read c = .nan sg) :
    f.write mode sat (.nan sg) = (f.nanCode.getD 0, { invalid := sg }) := by
  obtain ⟨n, hn⟩ := Option.ne_none_iff_exists'.1 (nanCode_of_nan (c := c) hf (by simp [h, Val.isNan]))
  simp [FpFmt.write, hn]

end FpFmt

/-! ## Block scales (R126, R127, R136) -/

theorem Val.shift_shift_neg (v : Val) (s : Int) : (v.shift s).shift (-s) = v := by
  cases v with
  | nan _ => rfl
  | inf _ => rfl
  | fin neg m e => by_cases hm : m = 0 <;> simp [Val.shift, hm]

theorem Val.shift_scale_back (v : Val) (scale : Nat) : (v.shift ((scale : Int) - 127)).shift (127 - (scale : Int)) = v := by
  have := v.shift_shift_neg ((scale : Int) - 127)
  rwa [neg_sub] at this

theorem mx_write_read {f : FpFmt} {c scale : Nat} (hf : f.Regular) (hc : c < 2 ^ (1 + f.ebits + f.mbits)) (hs : scale < 255)
    (h : (f.read c).isNan = false) (mode sat : Nat) : (Fmt.mx f).write mode sat scale ((Fmt.mx f).read c scale) = (c, {}) := by
  simp only [Fmt.read, Fmt.write, if_neg hs.ne, Val.shift_scale_back]
  exact (FpFmt.reads_of_not_nan hf hc h).write hf mode sat

theorem writeMxInt_fin (mode m : Nat) (neg : Bool) (h0 : m ≠ 0) (h : m ≤ 127) :
    writeMxInt mode (.fin neg m (-6)) = (if neg then 256 - m else m, {}) := by
  have hmod : (256 - m) % 256 = 256 - m := Nat.mod_eq_of_lt (by omega)
  simp only [writeMxInt, FpFmt.roundAt_self, if_neg h0, if_neg (Nat.not_lt.2 h), hmod]
  simp [h0]

theorem mxInt_write_read {c scale : Nat} (hc : c < 256) (h80 : c ≠ 0x80) (hs : scale < 255) (mode sat : Nat) :
    Fmt.mxInt.write mode sat scale (Fmt.mxInt.read c scale) = (c, {}) := by
  simp only [Fmt.read, Fmt.write, if_neg hs.ne, Val.shift_scale_back, signedAt, Nat.reducePow, Nat.reduceSub, Nat.mod_eq_of_lt hc, ofInt]
  split_ifs with hlow h0 h0
  · rw [Nat.cast_eq_zero.1 h0]
    rfl
  · rw [writeMxInt_fin _ _ _ (by omega) (by omega)]
    simp
  · omega
  · rw [writeMxInt_fin _ _ _ (by omega) (by omega), if_pos (by simpa using hc)]
    congr 1
    omega

theorem e8m0Write_e8m0Read {c : Nat} (hc : c < 256) (mode : Nat) : e8m0Write mode (e8m0Read c) = some c := by
  rw [e8m0Read, Nat.mod_eq_of_lt hc]
  split_ifs with h
  · exact h ▸ rfl
  · have hlog : Nat.log2 1 = 0 := by decide
    have hle : c ≤ 254 := by omega
    simp [e8m0Write, floorLog, hlog, hle]

theorem convertElem_self (f : Fmt) (mode sat x scale : Nat) (h : f.scaled = true) :
    convertElem f f mode sat x scale scale = (x % 2 ^ f.bits, { invalid := f.read x scale == .nan true }) := by
  simp [convertElem, h, Fmt.source]

/-- Settles O54: the value of a code is a number that its format holds (`FpFmt.Reads`), and such a number is written exactly. -/
theorem numberFormats : Obligations.NumberFormats := by
  unfold Obligations.NumberFormats
  refine ⟨isSome_fmtOf, ?_, ?_, ?_, ?_, ?_, ?_, ?_, ?_⟩
  · intro k f c mode sat hk hc _ _
    have hf := FpFmt.regular_of_fmtOf hk
    exact ⟨fun sg h => h ▸ FpFmt.write_nan hf mode sat h, fun h => (FpFmt.reads_of_not_nan hf hc h).write hf mode sat⟩
  · intro k f c mode sat scale hk hc _ _ hs h
    exact mx_write_read (FpFmt.regular_of_fmtOf (.inr hk)) hc hs h mode sat
  · intro c mode sat scale hc h80 _ hs
    exact mxInt_write_read hc h80 hs mode sat
  · intro f mode sat x scale h
    exact convertElem_self f mode sat x scale h
  · intro mode c hc
    exact e8m0Write_e8m0Read hc mode
  · intro neg x sig hlo hhi hsig hnorm
    exact RawImage.rawOf_rawRead (.fin neg x sig hlo hhi hsig hnorm)
  · intro neg
    exact RawImage.rawOf_rawRead (.inf neg)
  · exact RawImage.rawOf_rawRead .nan
end Sys2Proof.Machine
